-- ==== Sys2Proof/Word.lean ====
section
/-! DEFINITION. The word types of the K2 (00_scope: registers are 64 bits, bytes 8 bits, R8). -/
namespace Sys2Proof

/-- A 64-bit register value (00 R12). -/
abbrev Word := BitVec 64

/-- A byte; byte 0 of a field is its least significant (00 R8). -/
abbrev Byte := BitVec 8

/-- An FP32 value as its 32 bits (02 R40). -/
abbrev F32 := BitVec 32

end Sys2Proof
end

