-- ==== Sys2Proof/Syntax.lean ====
section
/-! DEFINITION. The commands of the K2: one constructor of Instr per row of spec/opcode_table.json, in the
table's order, with its operands (the table gives none: log 4). What the outside world supplies with a
command (readings, packets, outcomes of hardware the spec does not compute) is an operand. -/
namespace Sys2Proof

/-- A firmware slot as step 1 of start-up sees it (15 R443). The offsets of the slot header's fields are not
stated, so the outcome of its checks is an operand (log 8). -/
structure SlotView where
  /-- the header is well formed and the image's SHA-384 is the header's -/
  formOk : Bool
  /-- the vendor's signature verifies -/
  sigOk : Bool
  svn : Nat
  digest : Nat
  deriving DecidableEq, Repr

/-- What a norm partial says it belongs to: adapter, training step and stage (09 R289). -/
structure NormHead where
  adapter : Nat
  step : Nat
  stage : Nat
  deriving DecidableEq, Repr

/-- A link that training finds (11 Table 11.3). -/
structure LinkFound where
  link : Nat
  /-- SYSTEM_ID, position and logical link that the peer reports -/
  sysid : Nat
  peerPos : Nat
  peerLink : Nat
  delay : Nat
  deriving DecidableEq, Repr

/-- What the hardware and the network show a start (15 Table 15.5). -/
structure BootWorld where
  /-- both reference clocks are present (18 R507) -/
  refclk : Bool
  /-- steps the hardware fails: step, cause (15 Table 15.6), DETAIL -/
  fails : List (Nat × Nat × Nat)
  /-- a step in which a watchdog, a loss of power or the reset pin cuts the attempt off (15 R447) -/
  cutAt : Option Nat
  /-- physical clusters that fail the self-test of step 6, with the test step -/
  badClusters : List (Nat × Nat)
  /-- Firkin engines (stack, physical) that fail at step 7, with the test step -/
  badEngines : List (Nat × Nat × Nat)
  /-- the test step that the spare cluster fails at step 13; the stacks whose spare engine fails there, with the test step; the spare
  die -/
  badSpareCluster : Option Nat
  badSpareEngines : List (Nat × Nat)
  badSpareDie : Bool
  linksUp : List LinkFound
  ifsUp : List Nat
  slotA : SlotView
  slotB : SlotView
  /-- system time of the tick that locks, and the relative count of the same tick (15 R452) -/
  lockStamp : Nat
  lockRel : Nat
  /-- rod master followed: term, index, position, list, k; none when this module is the rod master -/
  follow : Option (Nat × Nat × Nat × List Nat × Nat)
  /-- offsets in ns of the rod syncs, or of the PTP Sync intervals of the rod master, that step 11 meets before its maximum, in order; the
  interval is 2^-ptpLog s (10 R310) -/
  lockOffsets : List Int
  ptpLog : Nat
  deriving DecidableEq, Repr

/-- What a PTP Sync is carried by (10 Table 10.2). -/
inductive PtpTransport where
  | ipv4 | ipv6 | ieee8023
  /-- any other -/
  | other
  deriving DecidableEq, Repr

/-- One PTP Sync, one-step or two-step, with the offset that its exchange of Delay_Req and Delay_Resp gives (10 R309, Table 10.2). -/
structure PtpMsg where
  /-- offset of the own counter from the grandmaster's time, ns -/
  offset : Int
  iface : Nat
  domain : Nat
  transport : PtpTransport
  /-- the delay is measured peer to peer -/
  peerDelay : Bool
  /-- the grandmaster's timescale is ARB -/
  arb : Bool
  /-- logMessageInterval, negated -/
  log : Int
  /-- the grandmaster is the one that the default best master clock algorithm selects -/
  best : Bool
  deriving DecidableEq, Repr

/-- One reading of the power loop (16 R463). -/
structure PowerReading where
  mV : Nat
  /-- input current in units of 10 mA -/
  cA : Nat
  /-- phases out of current sharing by more than 20 % in this period (14 R420) -/
  unshared : List Nat
  /-- phases brought in that carry load from this period -/
  loaded : List Nat
  /-- telemetry: phase, its current in units of 10 mA, its temperature in units of 0.125 °C -/
  phases : List (Nat × Nat × Nat)
  deriving DecidableEq, Repr

/-- A unit with a thermal loop (16 R466). -/
inductive ThermalUnit where
  | cluster (c : Nat)
  | stack (s : Nat)
  deriving DecidableEq, Repr

/-- A unit that can be declared failed again (14 R527). -/
inductive FailUnit where
  | cluster (c : Nat)
  | engine (s e : Nat)
  deriving DecidableEq, Repr

/-- What woke a module in P2 or P3 (16 R472). -/
inductive WakeCause where
  | score | doorbell | command | fabric | debug
  deriving DecidableEq, Repr

/-- What a timeout was raised for (10 R323). -/
inductive TimeoutTarget where
  | desc (d : Nat)
  | comb (c i : Nat)
  | request (h : Nat)
  deriving DecidableEq, Repr

/-- Kinds of U-mode trap (06 R197). -/
inductive TrapKind where
  | plain | pmp | storeRefused
  deriving DecidableEq, Repr

/-- What a read of a stack location meets (07 R229, R231). -/
inductive StackFault where
  /-- the codes pass, and the bushel's CHECKSUM fails -/
  | badChecksum
  /-- a codeword that the inner code does not correct: its 18 pseudo-channels, and those with wrong symbols, with how many -/
  | codeword (chans : List Nat) (errs : List (Nat × Nat))
  deriving DecidableEq, Repr

/-- Halt causes, in the order of Table 7.10. -/
inductive HaltCause where
  | flashUnstaged | flashUncorrectable | stackUncorrectable | checksumBad
  deriving DecidableEq, Repr

/-- Image-form bushels of one manifest entry, as one source returns them (08 R250, R251). -/
structure ShardImage where
  source : Nat
  entry : Nat
  images : List (List Byte)
  deriving DecidableEq, Repr

/-- What the sources of a base load return: 0 flash, 1 shared store (08 Table 8.2). -/
structure LoadWorld where
  manifests : List (Nat × List Byte)
  shards : List ShardImage
  deriving DecidableEq, Repr

/-- A snapshot as a restore reads it (14 Table 14.7): header fields and the arrays' words. -/
structure SnapView where
  layer : Nat
  readable : Bool
  step : Nat
  version : Nat
  k1 : F32
  k2 : F32
  digest : Nat
  master : List F32
  m : List F32
  v : List F32
  /-- the adapter's image as the shared store sends it, for a bind with INIT 0 (09 R275) -/
  image : List (List Byte) := []
  deriving DecidableEq, Repr

/-- A fabric packet (11 Tables 11.6, 11.7). -/
structure Packet where
  typ : Nat
  /-- some reserved bit of the header is set -/
  resv : Bool
  hop : Nat
  detour : Bool
  via : Nat
  signal : Bool
  dst : Nat
  dstRood : Nat
  src : Nat
  srcRood : Nat
  addr : Nat
  signalCtr : Nat
  xslot : Nat
  stamp : Nat
  index : Nat
  total : Nat
  xgen : Nat
  /-- bytes 33-39 as one little-endian number -/
  ext : Nat
  data : List Byte
  deriving DecidableEq, Repr

/-- What a step command comes by: a binding, and the control packet that brings it (11 Table 11.9); a packet of this module's own position is
what the module decides about itself. -/
structure StepMsg where
  bind : Nat
  packet : Packet
  deriving DecidableEq, Repr

/-- A rod sync's data (11 Table 11.10) with the link it came on and the tree hop. -/
structure RodSync where
  link : Nat
  hop : Nat
  src : Nat
  masterStamp : Nat
  correction : Nat
  k : Nat
  index : Nat
  term : Nat
  relinquish : Bool
  list : List Nat
  sysid : Nat
  /-- STAMP of its header (R356) -/
  stamp : Nat
  /-- a reserved bit of its header or of its data line is set (R339) -/
  resv : Bool
  deriving DecidableEq, Repr

/-- A queued transfer that is injected, and whether its destination lies in a BUSHEL region there, which the sender's own state does not show
(11 R345). -/
structure Injection where
  xfer : Nat
  bushel : Bool
  deriving DecidableEq, Repr

/-- The transport content of an inbound packet after decryption (12 Tables 12.2, 12.10). -/
inductive RoceOp where
  | write | writeImm | read | send | readResp | ack | nak | rnr | cnp
  /-- atomics and every other opcode that is not supported -/
  | unsupported
  deriving DecidableEq, Repr

/-- The place of a packet in its message, as its opcode says. -/
inductive MsgPart where
  | only | first | middle | last
  deriving DecidableEq, Repr

/-- An inbound packet at an Ethernet interface (12 R366, R367, Table 12.10). -/
structure EspPacket where
  iface : Nat
  srcIp : Nat
  /-- carried in ESP; false: plaintext -/
  esp : Bool
  fragment : Bool
  spi : Nat
  seq : Nat
  /-- the ICV verifies under the association's key -/
  icvOk : Bool
  transportRC : Bool
  icrcOk : Bool
  qpn : Nat
  op : RoceOp
  part : MsgPart
  psn : Nat
  /-- bytes of data carried; of a READ request, the bytes asked for -/
  payload : Nat
  /-- bytes of the whole frame -/
  bytes : Nat
  /-- marked CE (12 R363) -/
  ce : Bool
  deriving DecidableEq, Repr

/-- A window message (12 Table 12.11). -/
structure WinMsg where
  /-- OP, byte 0 -/
  op : Nat
  window : Nat
  session : Nat
  /-- 0 MGMT queue pair, 1 UDP -/
  path : Nat
  /-- 0-3 an interface, 4 the management port -/
  port : Nat
  srcIp : Nat
  /-- path 0: the queue pair -/
  qp : Nat
  /-- path 1: the UDP port, the SPI (none: plaintext), whether the ICV verifies under that association, its ESP sequence number -/
  dport : Nat
  spi : Option Nat
  icvOk : Bool
  seq : Nat
  tag : Nat
  offset : Nat
  count : Nat
  mask : Word
  data : List Word
  /-- every reserved byte is zero and the lengths agree -/
  formed : Bool
  deriving DecidableEq, Repr

/-- Outcome of a link training (11 Table 11.3): the step that failed, if any, and what was learned. -/
structure TrainResult where
  failStep : Option Nat
  /-- SYSTEM_ID, position and logical link that the peer reports in step 3 -/
  sysid : Nat
  peerPos : Nat
  peerLink : Nat
  delay : Nat
  /-- ticks that the training takes -/
  ticks : Nat
  deriving DecidableEq, Repr

/-- The commands of spec/opcode_table.json, one per row. -/
inductive Instr where
  -- power, pins and resets
  | powerOn (w : BootWorld)
  | stepRetry (w : BootWorld)
  | pinReset
  /-- low time in units of 0.1 µs (18 R508) -/
  | resetPinGlitch (low : Nat)
  | watchdogReset (w : BootWorld)
  | thermalShutdown (u : ThermalUnit) (w : BootWorld)
  | undervoltage
  | overvoltageDisconnect
  | standbyLost
  | inputLow
  | inputLowClear
  | refclkLoss
  /-- high time in ns (18 R514) -/
  | ppsInEdge (high : Nat)
  | module (w : BootWorld)
  | cold (w : BootWorld)
  | clearRemedies
  | retrySafe (w : BootWorld)
  | writePage (page : Nat)
  /-- the views of slots A and B that COMMIT verifies -/
  | commit (a b : SlotView)
  | bootLedgerSel (v : Word)
  | registerWrite (addr : Nat) (v : Word)
  -- power loops and firmware
  | powerLoopPeriod (p : PowerReading)
  /-- the 10 µs average, W -/
  | fastLimiter (avg : Nat)
  /-- hottest junction and hottest DRAM, units of 0.125 °C -/
  | thermalLoopPeriod (u : ThermalUnit) (junction dram : Nat)
  | junctionHot (u : ThermalUnit) (t : Nat)
  | dramHot (s : Nat) (t : Nat)
  | fwcPwrCap (v : Word)
  | reqP4
  /-- the interfaces that come up, and the links that retrain -/
  | reqP0 (ifsUp : List Nat) (links : List LinkFound)
  | floorDelay
  | warmDelay
  | wake (cause : WakeCause)
  | activate (v : SlotView)
  | cancel
  | booting (compatible : Bool)
  | takeover
  | confirming
  | handoffRolledBack
  /-- logical cores that missed this heartbeat -/
  | heartbeatCheck (missed : List Nat)
  | coreSpareIn (k : Nat)
  | fatal (cause : Nat)
  -- descriptors
  | submissionFetch
  | dispatch (d : Nat)
  | descriptorStart (d : Nat)
  | deadlineTimeout (d : Nat)
  | settleInterval (t : TimeoutTarget)
  | descriptorComplete (d : Nat)
  | run (d : Nat)
  | tunPass (d : Nat)
  | firkinPass (d : Nat)
  | combArm (d : Nat)
  | sync (d : Nat)
  | k1Split (d : Nat)
  | loadStream (d : Nat)
  | storeStream (d : Nat)
  | moveStream (d : Nat)
  | xferWrite (d : Nat)
  | xferRead (d : Nat)
  | xferPartial (d : Nat)
  -- tensor-issue instructions of core n of cluster c; rs1, rs2 are the registers' values
  | tiIssue (c n rd : Nat) (rs1 : Word)
  | tiWait (c n rd : Nat) (rs1 : Word)
  | tiPoll (c n rd : Nat) (rs1 : Word)
  | tiFence (c n : Nat)
  | tiScw (c n : Nat) (rs1 rs2 : Word)
  | tiScr (c n rd : Nat) (rs1 : Word)
  | tiSumrd (c n rd : Nat) (rs1 : Word)
  | tiSumst (c n rd : Nat) (rs1 : Word)
  | tiSumwait (c n : Nat) (rs1 rs2 : Word)
  | tiRod (c n rd : Nat)
  | tiRodwait (c n rd : Nat) (rs1 : Word)
  | tiSyncrd (c n rd : Nat) (rs1 : Word)
  | tiSyncadd (c n : Nat) (rs1 rs2 : Word)
  | tiSyncset (c n : Nat) (rs1 rs2 : Word)
  | tiExit (c n : Nat) (rs1 : Word)
  | coreWaitWake (c n : Nat)
  | coreTrap (c n : Nat) (kind : TrapKind) (mcause addr : Nat)
  -- Tun, cluster c, bank b
  | tunPassStart (c : Nat)
  | initLoadDone (c b : Nat)
  | tunLastProduct (c b : Nat)
  | tunSpillDone (c b : Nat)
  -- Gill: the operation that Gill of cluster c is running
  | load (c : Nat)
  | store (c : Nat)
  | copy (c : Nat)
  | add (c : Nat)
  | sub (c : Nat)
  | mul (c : Nat)
  | fma (c : Nat)
  | abs (c : Nat)
  | neg (c : Nat)
  | min (c : Nat)
  | max (c : Nat)
  | cmplt (c : Nat)
  | cmple (c : Nat)
  | cmpeq (c : Nat)
  | sel (c : Nat)
  | exp2 (c : Nat)
  | log2 (c : Nat)
  | rcp (c : Nat)
  | rsqrt (c : Nat)
  | tanh (c : Nat)
  | sum (c : Nat)
  | sumsq (c : Nat)
  | maxr (c : Nat)
  | minr (c : Nat)
  | argmax (c : Nat)
  | countnf (c : Nat)
  | accrd (c : Nat)
  | release (c : Nat)
  | spill (c : Nat)
  -- combination entries
  | shardResident (c : Nat)
  | combination (c i : Nat)
  | combTimeout (c i : Nat)
  -- spares of clusters
  | clusterFailed (c cause : Nat)
  | clusterSpareIn (c : Nat)
  | repeatFailure (u : FailUnit) (cause : Nat)
  /-- none: the spare cluster; some s: the spare engine of stack s -/
  | spareSelftest (stack : Option Nat) (pass : Bool) (step : Nat)
  -- base range entries and Firkin engines
  | lockSet (s i : Nat)
  | lockReleased (s i : Nat)
  | firkinPassRun (s e : Nat)
  | firkinPassComplete (s e : Nat)
  /-- an uncorrectable SRAM word of the running pass -/
  | passRerun (s e word : Nat)
  | weightRefetch (s e addr : Nat)
  | engineFailed (s e cause : Nat)
  | spareIn (s e : Nat)
  -- streams
  | streamContextStart (d : Nat)
  /-- port 0-7 stack, 8 flash read, 9 flash write, 10 store -/
  | portGrant (port : Nat)
  | bushelPlaced (x n : Nat)
  | slotRelease (x slot : Nat)
  | streamComplete (x : Nat)
  | streamHalt (x n : Nat) (cause : HaltCause)
  | streamResume (x : Nat)
  | streamUnresolved (x : Nat)
  | bucketApply (r t : Nat)
  | stackUncorrectable (addr : Nat) (checksum : StackFault) (goodCopy : Bool)
  | recoveryWrite (addr : Nat) (image : List Byte)
  | pchMarked (s p : Nat)
  | readDisturbRelocate (block : Nat)
  /-- free over-provisioning, units of 0.01 % of raw capacity -/
  | readOnly (free : Nat)
  | dieFailed (phys : Nat) (lost : List (Nat × Nat))
  | eraseDone (r : Nat)
  -- base models and adapters
  | baseLoad (r : Nat) (w : LoadWorld)
  | baseFlip (r : Nat)
  | flipTakesEffect (r : Nat)
  | baseSwap (r : Nat)
  | swapLoad (r : Nat) (w : LoadWorld)
  | admissionResumed (r : Nat)
  | baseRelease (r : Nat)
  | baseGone (r epoch : Nat)
  | baseRepair (r : Nat) (images : LoadWorld)
  | adapterPut (r : Nat)
  | adapterDrop (r : Nat)
  | prefetch (p : Packet)
  /-- the staged image of a cache entry, in image form -/
  | adapterEntryResident (slot version : Nat) (image : List (List Byte))
  | versionFaulted (slot version : Nat)
  | versionFlip (slot : Nat)
  | versionRetire (slot : Nat)
  -- training
  | trainBind (r : Nat)
  | trainSet (r : Nat)
  | trainUnbind (r : Nat)
  /-- the masters read at bind: the CUR image, or a checkpoint -/
  | trainBound (b : Nat) (img : SnapView)
  | stepStart (b : Nat)
  | bwdStart (b : Nat)
  | producerWrite (b v : Nat)
  /-- the staged source reads well -/
  | gacc (b : Nat) (readable : Bool)
  | closeDeadline (b : Nat)
  /-- the training step whose exchange it is -/
  | gather (b step : Nat)
  | gatherTimeout (b : Nat)
  | normPartial (b : Nat)
  | normPartialReceive (b : StepMsg) (head : NormHead) (cnt : Nat) (ss : F32) (spoiled : Bool)
  | normTimeout (b : Nat)
  | update (b : StepMsg) (clip : F32)
  | updateSkipped (b : StepMsg) (cause : Nat)
  | updateDone (b : StepMsg) (stage : Nat)
  | flipRod (b : StepMsg) (rod : Nat)
  | flipTimeout (b : Nat)
  /-- kind 0 mirror, 1 checkpoint; done: header written -/
  | snapshot (b kind : Nat) (done : Bool)
  | protect (r : Nat)
  | restore (r : Nat) (views : List SnapView)
  | declareLost (r : Nat)
  | remap (r : Nat)
  -- time
  | rodSyncSend
  | rodSyncReceive (p : RodSync)
  | timeHoldover
  | timeUncertain
  /-- measured offset of this counter from the grandmaster, ns -/
  | ptpSync (offset : PtpMsg)
  | masterTakeover
  | planApply (r rod : Nat)
  | planApplied (r : Nat)
  -- fabric
  | linkTraining (l : Nat) (res : TrainResult)
  /-- cause 2 FEC_LOSS, 3 RETRY_RATE, 4 CREDIT_TIMEOUT (Table 11.16) -/
  | linkRetrain (l cause : Nat) (res : TrainResult)
  | linkRetry (l : Nat) (res : TrainResult)
  | linkFailed (l : Nat) (loopbackPass : Bool)
  | linkSubstitute (l : Nat) (res : TrainResult)
  | flitReceive (l : Nat) (flit : List Byte)
  | replayReq (l seq : Nat)
  | xferInject (x : Injection)
  | write (p : Packet)
  | read (p : Packet)
  | readResp (p : Packet)
  | partial_ (p : Packet)
  | earlyPartialExpire (k : Nat)
  | transferComplete (src xslot : Nat)
  | done (p : Packet)
  | resend (p : Packet)
  | transferRetry (x : Nat)
  | epochReady (p : Packet)
  | epochFlip (p : Packet)
  | versionFault (p : Packet)
  -- network
  | ethLinkUp (i : Nat)
  | ethLinkDown (i : Nat)
  | espReceive (p : EspPacket)
  | quarantineEnd (iface ip : Nat)
  | rdmaWrite (q addr rkey : Nat) (data : List Byte)
  | rdmaRead (q addr rkey len : Nat)
  | score (q imm : Nat)
  | doorbell (q imm addr rkey : Nat) (data : List Byte)
  | register (q : Nat) (msg : List Byte)
  | deregister (q : Nat) (msg : List Byte)
  | requestDeadline (h : Nat)
  | verdict (h : Nat) (data : List Byte)
  | ackReceive (q psn : Nat)
  | remoteNak (q : Nat)
  | ackTimeout (q : Nat)
  | cnpReceive (q : Nat)
  | cnpRateRecover (q : Nat)
  | storeReadResponse (x n : Nat) (image : List Byte)
  -- windows
  | windowRead (m : WinMsg)
  | windowWrite (m : WinMsg)
  | writeMasked (m : WinMsg)
  | keepalive (m : WinMsg)
  | attach (m : WinMsg) (data : List Byte)
  | attachTimeout
  | detach (m : WinMsg)
  | sessionLoss (w : BootWorld)
  | winApbase (window path : Nat) (v : Word)
  | winEvtTail (v : Word)
  | winMapSel (v : Word)
  /-- mailbox 0 model, 1 training -/
  | winRplSel (r mbox : Nat) (v : Word)
  | winDigSel (r : Nat) (v : Word)
  | qpRead (r : Nat)
  | qpCreate (r : Nat)
  | qpModify (r : Nat)
  | qpDelete (r : Nat)
  | xrRead (r h : Nat)
  | xrCreate (r : Nat)
  | xrDelete (r h : Nat)
  -- roods
  | create (r : Nat)
  | roodCreated (r : Nat)
  | reset (r : Nat)
  | remove (r : Nat)
  | roodResetDone (r : Nat)
  | roodResizeApply (r rod : Nat)
  | resizeApplied (r : Nat)
  | unitJoinsRood (u : FailUnit)
  | tableRead (r tbl idx : Nat)
  | tableWrite (r tbl idx : Nat)
  | tableDelete (r tbl idx : Nat)
  | sliceScrub (c d : Nat)
  -- keys, attestation and debug
  | saIn (blob : List Byte)
  | saOut (blob : List Byte)
  | debugKey (blob : List Byte)
  | destroySa (blob : List Byte)
  | destroyNs (blob : List Byte)
  | tombstoneExpire (sa : Nat)
  | secNonce
  | request
  | select (object piece : Nat)
  | enterD1
  | present
  | leave (target : Nat)
  | d2Expiry
  | toS1
  | toS2
  | toS3
  | debugRead
  | debugWrite
  | core
  -- further pins and buses
  | sysResetNRelease (w : BootWorld)
  | flagCleared (u : ThermalUnit) (bit t : Nat)
  | rnrNak (q : Nat)
  | leaveP3ForStepStart (b : Nat)
  | clearFaults
  | jtagInstruction (ir : Nat)
  | ppsOutEdge
  deriving DecidableEq, Repr

end Sys2Proof
end

