-- ==== Sys2Proof/Machine/State.lean ====
section
/-! DEFINITION. The state of the K2 as plain data, the fault and refusal reasons, and the state after reset.
INVENTORY.md, section State, names the rule of spec/ for every field. -/
namespace Sys2Proof.Machine

/-- Sparse data by key: strictly rising keys. -/
abbrev Table (α : Type) := List (Nat × α)

/-- A W1C status word: its bits, and which of them the hardware set at which stamp, the last at which it set any (00 R13). -/
structure Sticky where
  bits : Word := 0
  late : Word := 0
  stamp : Nat := 0
  deriving DecidableEq, Repr

/-- Reasons to stop with a fault. -/
inductive Fault where
  /-- Raised by nobody: every error of the K2 is a status, an event or a status bit, which are state. Safe. -/
  | unused
  deriving DecidableEq, Repr

/-- Reasons to refuse a command. -/
inductive Refusal where
  /-- The command has no meaning in the model yet: raised only by a refused arm of exec. Safe. -/
  | notModelled (mnemonic : String)
  deriving DecidableEq, Repr

/-! ### Descriptors (06) -/

/-- Header of a work descriptor (06 Table 6.2). -/
structure DescHdr where
  kind : Nat := 0
  flags : Nat := 0
  target : Nat := 0
  cls : Nat := 0
  pid : Nat := 0
  tag : Nat := 0
  depA : Nat := 0
  depB : Nat := 0
  waitCtr : Nat := 0
  signalCtr : Nat := 0
  deadlineRods : Nat := 0
  waitValue : Nat := 0
  place : Nat := 0
  deriving DecidableEq, Repr

/-- TUN_PASS body (06 Table 6.7). -/
structure TunBody where
  aAddr : Nat
  aFmt : Nat
  aTurn : Bool
  bAddr : Nat
  bFmt : Nat
  bTurn : Bool
  aScale : Nat
  bScale : Nat
  aStride : Nat
  bStride : Nat
  initAddr : Nat
  initLoad : Bool
  bank : Nat
  endAct : Nat
  outAddr : Nat
  outFmt : Nat
  outRnd : Nat
  outScsel : Nat
  outStride : Nat
  m : Nat
  n : Nat
  k : Nat
  gather : Nat
  width : Nat
  rowmap : Nat
  seed : Nat
  step : Nat
  tensorId : Nat
  tensorCols : Nat
  row0 : Nat
  col0 : Nat
  deriving DecidableEq, Repr

/-- FIRKIN_PASS body (06 Table 6.8). -/
structure FirkinBody where
  wAddr : Nat
  wFmt : Nat
  bwd : Bool
  initLoad : Bool
  engine : Nat
  b : Nat
  j : Nat
  kp : Nat
  wStride : Nat
  xAddr : Nat
  xFmt : Nat
  xScale : Nat
  xStride : Nat
  initAddr : Nat
  shard : Nat
  shards : Nat
  outStride : Nat
  outAddr : Nat
  deriving DecidableEq, Repr

/-- GILL_OP body (06 Table 6.9); dst and srcs are operand words (Table 6.10). -/
structure GillBody where
  op : Nat
  dir : Nat
  sumSlot : Nat
  sumEn : Bool
  keep : Bool
  rnd : Nat
  scsel : Nat
  dst : Nat
  srcA : Nat
  srcB : Nat
  srcC : Nat
  len : Nat
  rows : Nat
  cols : Nat
  rowStride : Nat
  scaleSrc : Nat
  scaleDst : Nat
  seed : Nat
  step : Nat
  tensorId : Nat
  index0 : Nat
  tensorCols : Nat
  deriving DecidableEq, Repr

/-- COMB_ARM body (06 Table 6.12). -/
structure CombBody where
  entry : Nat
  s : Nat
  sumSlot : Nat
  sumEn : Bool
  slotBase : Nat
  slotStride : Nat
  tileBytes : Nat
  dest : Nat
  dlRod : Nat
  dlEra : Nat
  deriving DecidableEq, Repr

/-- RUN body (06 Table 6.13). -/
structure RunBody where
  entry : Nat
  cores : Nat
  arg0 : Nat
  arg1 : Nat
  deriving DecidableEq, Repr

/-- STREAM body (07 Table 7.1). -/
structure StreamBody where
  op : Nat
  srcTier : Nat
  dstTier : Nat
  relCounter : Bool
  checkVersion : Bool
  fmt : Nat
  flashWin : Nat
  relCtr : Nat
  ringLog2 : Nat
  bushels : Nat
  srcAddr : Nat
  dstAddr : Nat
  scale : Nat
  ahead : Nat
  rate : Nat
  version : Nat
  tensorId : Nat
  rows : Nat
  cols : Nat
  first : Nat
  storeQp : Nat
  rkey : Nat
  remoteAddr : Nat
  deriving DecidableEq, Repr

/-- XFER body (11 Table 11.9a). -/
structure XferBody where
  op : Nat
  ordered : Bool
  signal : Bool
  noDetour : Bool
  dstRood : Nat
  dst : Nat
  signalCtr : Nat
  localAddr : Nat
  remoteAddr : Nat
  bytes : Nat
  cluster : Nat
  entry : Nat
  shard : Nat
  target : Nat
  s : Nat
  bind : Nat
  dlRod : Nat
  dlEra : Nat
  deriving DecidableEq, Repr

/-- K1_SPLIT body (06 Table 6.16). -/
structure K1Body where
  gather : Bool
  p : Nat
  myshard : Nat
  wFmt : Nat
  xFmt : Nat
  wAddr : Nat
  j : Nat
  kp : Nat
  b : Nat
  combEntry : Nat
  wStride : Nat
  xAddr : Nat
  xScale : Nat
  xStride : Nat
  outAddr : Nat
  outStride : Nat
  peers : List Nat
  deriving DecidableEq, Repr

/-- Body of a descriptor by kind (06 Table 6.1). -/
inductive Body where
  | run (b : RunBody)
  | tun (b : TunBody)
  | firkin (b : FirkinBody)
  | gill (b : GillBody)
  | comb (b : CombBody)
  | stream (b : StreamBody)
  | xfer (b : XferBody)
  | sync
  | k1 (b : K1Body)
  /-- a reserved kind -/
  | unknown
  deriving DecidableEq, Repr

/-- Where a descriptor came from (06 Table 6.1). -/
inductive DescSource where
  | queue (q : Nat)
  | core (c n : Nat)
  deriving DecidableEq, Repr

/-- How far a descriptor has come (06 R174, R179). -/
inductive DescStage where
  | dispatcher | queued | started
  deriving DecidableEq, Repr

/-- The outcome of a descriptor's work: final status, DETAIL and the stamp of its completing event. -/
structure Result where
  status : Nat
  detail : Nat
  stamp : Nat
  deriving DecidableEq, Repr

/-- A live descriptor. -/
structure Desc where
  src : DescSource
  seq : Nat
  rood : Nat
  pid : Nat
  slice : Nat
  hdr : DescHdr
  body : Body
  stage : DescStage := .dispatcher
  /-- held at admission since it was taken (04 R110; 03 R95; 13 R397) -/
  held : Bool := false
  /-- rod count of admission (06 R180, R182) -/
  admitRod : Nat := 0
  admitStamp : Nat := 0
  /-- stamp of the end of the deadline rod, once the timeout is raised (10 R323) -/
  raised : Option Nat := none
  result : Option Result := none
  overrun : Bool := false
  /-- bytes sent or bushels placed, for DETAIL -/
  progress : Nat := 0
  /-- scalar entries named by SRC_A, SRC_B, SRC_C, captured at issue (05 R151) -/
  scalars : List Word := []
  /-- a RUN's cores that have ended: status OK and exit value, or status and DETAIL of the trap (06 R192) -/
  ends : Table (Nat × Nat) := []
  /-- the program that issued it has ended by a trap (06 R197) -/
  orphan : Bool := false
  /-- descriptors of its source before it that a dependency can name, counted up to 65,536 (06 R175) -/
  reach : Nat := 0
  deriving DecidableEq, Repr

/-- State of a submission queue (06 Table 6.4). -/
inductive QueueState where
  | disabled | active | draining
  deriving DecidableEq, Repr

/-- Submission queue context (06 Table 6.4). -/
structure Queue where
  rood : Nat
  pid : Nat
  ring : Nat
  logDepth : Nat
  cring : Nat
  producer : Nat := 0
  consumer : Nat := 0
  cconsumer : Nat := 0
  inflightMax : Nat
  st : QueueState := .disabled
  inflight : Nat := 0
  /-- statuses of completed descriptors by SEQ, the last DEPTH (06 R175) -/
  history : Table Nat := []
  /-- descriptors taken since the queue last became ACTIVE, counted up to 65,536 (06 R175) -/
  taken : Nat := 0
  deriving DecidableEq, Repr

/-- A sync counter (06 R177). -/
structure Counter where
  value : Nat := 0
  failed : Bool := false
  /-- the uncore clock of the last increment, with value and FAILED before that clock's increments (06 R178) -/
  late : Option (Nat × Nat × Bool) := none
  deriving DecidableEq, Repr

/-! ### Clusters (03, 05) -/

/-- Accumulator bank states (03 Table 3.5). -/
inductive BankState where
  | free | loading | accumulating | held | spilling
  deriving DecidableEq, Repr

/-- One accumulator bank; its cells are in mem. -/
structure Bank where
  st : BankState := .free
  /-- the running pass and the row map it read at its start (03 R87) -/
  run : Option Nat := none
  rowmap : List Byte := []
  /-- the other bank's pass started earlier and has products to apply -/
  second : Bool := false
  /-- the Gill SPILL that writes the bank out (05 R143) -/
  gill : Option Nat := none
  deriving DecidableEq, Repr

/-- Control core states (05 Table 5.13). -/
inductive CoreState where
  | idle | running | waitSummary | waitGill | stopped | reset
  deriving DecidableEq, Repr

/-- What a core waits for (05 R154; 06 Table 6.14). -/
inductive CoreWait where
  | seq (rd seq : Nat)
  | fence
  | exit (v : Nat)
  | summary (slot seq : Nat)
  | rod (rd rod : Nat)
  | issue (rd off : Nat)
  deriving DecidableEq, Repr

/-- A summary slot (05 Table 5.6). -/
structure SumSlot where
  value : Nat := 0
  status : Nat := 0
  seq : Nat := 0
  deriving DecidableEq, Repr

/-- A control core (05 R156). -/
structure Core where
  st : CoreState := .idle
  trapCause : Nat := 0
  slice : Option Nat := none
  pid : Nat := 0
  x : Table Word := []
  f : Table Word := []
  pc : Nat := 0
  mepc : Nat := 0
  mcause : Nat := 0
  fcsr : Nat := 0
  /-- load-reserve reservation (RV64A) -/
  resv : Option Nat := none
  /-- issue queue: descriptors issued and not complete -/
  queue : List Nat := []
  nextSeq : Nat := 0
  /-- descriptors issued by the program, counted up to 65,536 (06 R175) -/
  issued : Nat := 0
  /-- it runs a program in U mode, not the runtime in M mode (05 R157; 06 R192) -/
  userMode : Bool := false
  /-- scoreboard: statuses of the last 64 issued (06 R173) -/
  board : Table Nat := []
  /-- VR0-VR7, lane l of register v at 512 v + l (05 R133) -/
  vregs : Table F32 := []
  sums : Table SumSlot := []
  gillQ : List Nat := []
  wait : Option CoreWait := none
  run : Option Nat := none
  deriving DecidableEq, Repr

/-- Combination entry states (05 Table 5.5). -/
inductive CombState where
  | free | armed | ready | combining
  deriving DecidableEq, Repr

/-- A combination entry (05 R145). -/
structure Comb where
  st : CombState := .free
  desc : Nat := 0
  s : Nat := 0
  slotBase : Nat := 0
  slotStride : Nat := 0
  tileBytes : Nat := 0
  dest : Nat := 0
  dlRod : Nat := 0
  dlEra : Nat := 0
  core : Nat := 0
  sum : Option Nat := none
  mask : Nat := 0
  raised : Option Nat := none
  rood : Nat := 0
  deriving DecidableEq, Repr

/-- A shard completion on its way to a combination entry (05 R146). -/
structure ShardNotice where
  entry : Nat
  shard : Nat
  shards : Nat
  bytes : Nat
  stamp : Nat
  rood : Nat
  firkin : Bool
  deriving DecidableEq, Repr

/-- Whether a logical unit works (05 Table 5.11; 04 Table 4.9). -/
inductive UnitMode where
  | active | substituting | absent | fallback
  deriving DecidableEq, Repr

/-- A spare part (05 Table 5.11; 04 FRK_SPARE; 11 R334; 16 FWC_CORES). -/
inductive SpareState where
  | ready | inUse | failed | handoff
  deriving DecidableEq, Repr

/-- A logical cluster. -/
structure Cluster where
  phys : Nat
  mode : UnitMode := .active
  rood : Option Nat := none
  /-- the rood that gains it once scrubbed (13 R394), and whether a scrub is owed -/
  join : Option Nat := none
  leaving : Bool := false
  scrubbed : Bool := true
  clk : Nat := 2200
  ceil : Nat := 2200
  /-- stamp until which the clock is changing (03 R92; 05 R162) -/
  pauseUntil : Nat := 0
  temp : Nat := 0
  hot : Bool := false
  coreEn : Nat := 15
  waitGate : Bool := true
  cores : List Core := List.replicate 4 {}
  banks : List Bank := List.replicate 2 {}
  tunQueue : List Nat := []
  gillRun : Option Nat := none
  gillNext : Nat := 0
  comb : List Comb := List.replicate 16 {}
  notices : List ShardNotice := []
  scalars : Table Word := []
  invalid : Nat := 0
  ovf : Nat := 0
  sat : Nat := 0
  err : Sticky := {}
  selftest : Word := 0
  stalls : Table Nat := []
  gillOps : Nat := 0
  tunPasses : Nat := 0
  /-- cluster clocks counted, which the cycle CSR of its cores reads (05 R156) -/
  cycles : Nat := 0
  served : Option Nat := none
  deriving DecidableEq, Repr

/-- The physical spare cluster (03 R93). -/
structure SpareCluster where
  phys : Nat := 16
  st : SpareState := .ready
  selftest : Word := 0
  deriving DecidableEq, Repr

/-! ### Stacks (04, 07) -/

/-- A stack region (07 Table 7.20): kind 1 RAW, 2 BUSHEL, 3 BASE, 4 ADAPTER, 5 TRAINED. -/
structure Region where
  start : Nat
  len : Nat
  kind : Nat
  fmt : Nat
  rood : Nat
  backing : Nat
  deriving DecidableEq, Repr

/-- Base range entry states (04 Table 4.2). -/
inductive LockState where
  | free | loading | locking | locked | releasing
  deriving DecidableEq, Repr

/-- A base range entry (04 R104, R106, R108); base is a device address, size in 2 MiB units. -/
structure LockEntry where
  st : LockState := .free
  base : Nat := 0
  size : Nat := 0
  readers : Nat := 0
  passes : Nat := 0
  holds : Nat := 0
  rood : Nat := 0
  epoch : Nat := 0
  deriving DecidableEq, Repr

/-- A logical Firkin engine. -/
structure Engine where
  phys : Nat
  mode : UnitMode := .active
  rood : Option Nat := none
  join : Option Nat := none
  leaving : Bool := false
  scrubbed : Bool := true
  queue : List Nat := []
  /-- accepted passes whose completion is not written, in the order of acceptance (04 R115) -/
  accepted : List Nat := []
  run : Option Nat := none
  /-- the clusters that run the pass in FALLBACK, fixed at its start (04 R122) -/
  set : List Nat := []
  rerun : Bool := false
  haltedAt : Option Nat := none
  /-- the accumulator half of the running pass, once its products are applied -/
  acc : Option (List F32) := none
  stalls : Table Nat := []
  passes : Nat := 0
  deriving DecidableEq, Repr

/-- A stack with its base die. -/
structure Stack where
  train : Nat := 0
  degraded : Bool := false
  reserveLow : Bool := false
  pchFailed : Nat := 0
  /-- corrections by the outer code: pseudo-channel and stamp, newest last (07 R229) -/
  pchHits : List (Nat × Nat) := []
  eccInner : Nat := 0
  eccOuter : Nat := 0
  uncorr : Nat := 0
  badSum : Nat := 0
  retired : Nat := 0
  reserveFree : Nat := 16384
  rowsRepaired : Nat := 0
  spareRows : Nat := 0
  lastErr : Word := 0
  err : Sticky := {}
  linkRetry : Nat := 0
  regions : Table Region := []
  locks : List LockEntry := List.replicate 8 {}
  engines : List Engine := (List.range 4).map fun e => { phys := e }
  sparePhys : Nat := 4
  spare : SpareState := .ready
  spareTest : Nat := 0
  fallback : Nat := 0
  frkErr : Sticky := {}
  sramCorr : Nat := 0
  sramUncorr : Nat := 0
  refetches : Nat := 0
  lockViol : Word := 0
  macs : Nat := 0
  clk : Nat := 2000
  ceil : Nat := 2000
  /-- stamp until which the Firkin clock is changing (04 R129) -/
  pauseUntil : Nat := 0
  tempBase : Nat := 0
  tempDram : Nat := 0
  dblRefresh : Bool := false
  hot : Bool := false
  dramHot : Bool := false
  /-- locations in error and not yet repaired: data address of the 4 KiB block, backed or not (07 R231) -/
  errs : Table Bool := []
  /-- bushels with no good copy (04 R126) -/
  bad : List Nat := []
  deriving DecidableEq, Repr

/-- Bushel metadata (07 Tables 7.5, 7.6). -/
structure Meta where
  fmt : Nat := 0
  rood : Nat := 0
  poison : Bool := true
  elements : Nat := 0
  tensorId : Nat := 0
  rows : Nat := 0
  cols : Nat := 0
  first : Nat := 0
  version : Nat := 0
  owner : Nat := 0
  stamp : Nat := 0
  checksum : Nat := 0
  sidecar : List Byte := []
  deriving DecidableEq, Repr

/-! ### Streams and flash (07) -/

/-- Stream context states (07 Table 7.7). -/
inductive CtxState where
  | free | running | full | throttled | halted | closing
  deriving DecidableEq, Repr

/-- State of a ring slot (07 R218); an unlisted slot is EMPTY. -/
inductive SlotState where
  | filled | poisoned
  deriving DecidableEq, Repr

/-- A stream context (07 R216 to R227). -/
structure Ctx where
  st : CtxState
  desc : Nat
  rood : Nat
  pid : Nat
  body : StreamBody
  admitStamp : Nat
  placed : List Nat := []
  requested : List Nat := []
  released : Nat := 0
  relBase : Nat := 0
  slots : Table SlotState := []
  /-- data lines of each slot read since it was filled (07 R219) -/
  linesRead : Table Nat := []
  fault : Option (HaltCause × Nat × Nat) := none
  /-- the stream has ended and its completion is not yet written (07 Table 7.7) -/
  ended : Bool := false
  deriving DecidableEq, Repr

/-- A token bucket (07 R222); tokens in units of 1/1100 byte, since is the uncore clock of the last refill. -/
structure Bucket where
  rate : Nat := 0
  burst : Nat := 0
  tokens : Nat := 0
  since : Nat := 0
  written : Word := 0
  pending : Bool := false
  deriving DecidableEq, Repr

structure Streams where
  ctx : Table Ctx := []
  queue : List Nat := []
  horizon : Nat := 10000
  err : Sticky := {}
  halts : Table Nat := []
  buckets : Table Bucket := []
  rr : Table Nat := []
  /-- data and scale lines of slots left POISONED by an ended LOAD: address, with length and final status of the stream (07 R218) -/
  poison : Table (Nat × Nat) := []
  deriving DecidableEq, Repr

/-- A bushel held in flash (07 R232). -/
structure FlashBushel where
  data : List Byte
  hdr : Meta
  deriving DecidableEq, Repr

/-- A flash namespace (07 FLS_NSr; 13 R407). -/
structure Namespace where
  size : Nat := 0
  keyValid : Bool := false
  erasing : Bool := false
  keyGen : Nat := 0
  /-- GiB of a destroyed namespace still to erase -/
  eraseGiB : Nat := 0
  deriving DecidableEq, Repr

structure Flash where
  /-- 0 NORMAL, 1 READ_ONLY, 2 FAILED -/
  mode : Nat := 0
  spareInUse : Bool := false
  spareFailed : Bool := false
  spareDie : Nat := 31
  /-- bytes written by streams, and programmed -/
  hostWritten : Nat := 0
  nandWritten : Nat := 0
  overProv : Nat := 2000
  misses : Nat := 0
  loads : Nat := 0
  relocs : Nat := 0
  moves : Nat := 0
  retries : Nat := 0
  uncorr : Nat := 0
  retiredBlocks : Nat := 0
  err : Sticky := {}
  ns : Table Namespace := []
  rdDisturb : Nat := 200000
  /-- cached translation segments, key rood × 2²² + segment, least recently used first (07 R233) -/
  cached : List Nat := []
  reads : Table Nat := []
  /-- written bushel slots, key rood × 2³¹ + index -/
  slots : Table FlashBushel := []
  lost : List Nat := []
  deriving DecidableEq, Repr

/-! ### Base models, adapters, requests (08, 12) -/

/-- Epoch states (08 Table 8.1). -/
inductive EpochState where
  | loading | ready | current | draining
  deriving DecidableEq, Repr

structure Epoch where
  num : Nat
  st : EpochState
  baseId : Nat
  experts : Nat
  stages : List Nat
  readers : Nat := 0
  deriving DecidableEq, Repr

/-- A mailbox command (17 R494). -/
structure Cmd where
  seq : Nat
  stamp : Nat
  bytes : List Byte
  deferred : Bool := false
  deriving DecidableEq, Repr

/-- A command mailbox with its reply ring (17 R494, R495). -/
structure Mailbox where
  seq : Nat := 0
  written : Nat := 0
  ring : Table (List Word) := []
  sel : Nat := 0
  outstanding : List Cmd := []
  deriving DecidableEq, Repr

/-- A base command in progress: its mailbox SEQ, and for a flip or swap when and to what (08 R249, R254, R256). -/
structure BaseCmd where
  seq : Nat
  code : Nat
  tag : Nat
  epoch : Nat
  /-- FLIP_ROD, and the rod count at which it takes effect -/
  flipRod : Nat := 0
  flipAt : Nat := 0
  /-- the pipeline of the base that a swap drains -/
  stages : List Nat := []
  /-- admission is paused by a BASE_SWAP since this furlong -/
  pausedAt : Option Nat := none
  /-- stages that reported EPOCH_READY -/
  stagesReady : List Nat := []
  lastReport : Nat := 0
  loaded : Bool := false
  resumeAt : Option Nat := none
  /-- how steps 4 to 6 of the load ended while its entries are LOADING: status, entry (08 R251) -/
  loadEnd : Option (Nat × Nat) := none
  /-- another module reported that the swap's load failed, before admission paused here (08 R257) -/
  failed : Option Nat := none
  deriving DecidableEq, Repr

/-- An adapter directory entry (08 R258). -/
structure DirEntry where
  pid : Nat
  baseId : Nat
  slot : Nat
  expert : Option Nat
  source : Nat
  flashOffset : Nat
  remoteAddr : Nat
  version : Nat
  digest : Nat
  storeQp : Nat := 0
  rkey : Nat := 0
  /-- 2 MiB units of its image, known once it has been staged (log 72) -/
  units : Nat := 1
  /-- versions that are FAULTED (08 R268) -/
  faulted : List Nat := []
  deriving DecidableEq, Repr

/-- One version buffer of a slot (08 R266). -/
structure VerBuf where
  version : Nat
  holds : Nat := 0
  deriving DecidableEq, Repr

/-- An adapter slot (08 R260). -/
structure Slot where
  rood : Nat
  adapter : Option Nat := none
  gen : Nat := 0
  holds : Nat := 0
  training : Option Nat := none
  cur : Option VerBuf := none
  prev : Option VerBuf := none
  /-- version that becomes CUR at the first boundary after a stamp: version, stamp of its ADAPTER_PUT (08 R267) -/
  next : Option (Nat × Nat) := none
  deriving DecidableEq, Repr

/-- An adapter cache entry (08 R265). -/
structure CacheEntry where
  rood : Nat
  slot : Nat
  gen : Nat
  version : Nat
  resident : Bool := false
  lastUse : Nat := 0
  /-- 2 MiB units that it takes -/
  units : Nat := 1
  /-- data address of its first bushel in an ADAPTER region, once it is placed -/
  place : Option Nat := none
  image : List (List Byte) := []
  deriving DecidableEq, Repr

/-- A row of an admitted request (08 R263). -/
structure RowTag where
  adapter : Nat
  slot : Nat
  gen : Nat
  version : Nat
  none : Bool
  expert : Option Nat
  deriving DecidableEq, Repr

/-- States of a scoring request; one that has ended waits only for its completion record to go out. -/
inductive ReqState where
  | waiting | admitted | joined | ended
  deriving DecidableEq, Repr

/-- A scoring request (12 R372 to R376). -/
structure Request where
  st : ReqState
  rood : Nat
  pid : Nat
  slice : Nat
  q : Nat
  seq : Nat
  clientTag : Nat
  arrival : Nat
  epoch : Nat := 0
  tagged : Bool := false
  rows : List RowTag := []
  /-- the raw row references (08 Table 8.9), kept until admission -/
  refs : List (Nat × Nat × Bool × Bool) := []
  deadline : Nat
  outH : Nat
  cplH : Nat
  outOff : Nat
  cplOff : Nat
  trainKeep : Bool
  recAddr : Nat
  recLen : Nat
  raised : Option Nat := none
  /-- for a request prefetched from another module: its handle there -/
  remote : Option Nat := none
  /-- rows that the prefetches of this request name; 0 of a request admitted here (11 Table 11.9) -/
  want : Nat := 0
  /-- discard the result: the queue pair is in ERROR (12 R377) -/
  discard : Bool := false
  /-- the final status, once it is decided (12 R375, R377) -/
  final : Option Nat := none
  /-- a verdict resident after the deadline, within the settle interval: its stamp, its bytes, the PSN of its last packet (10 R323) -/
  resident : Option (Nat × Nat × Nat) := none
  deriving DecidableEq, Repr

/-! ### Training (09, 14) -/

/-- Binding states (09 Table 9.2). -/
inductive BindState where
  | binding | idle | forward | backward | closed | updating | faulted
  deriving DecidableEq, Repr

/-- The fields of TRAIN_BIND that a binding keeps (09 Table 9.1). -/
structure BindCfg where
  pid : Nat
  wfmt : Nat
  wrnd : Nat
  wscsel : Nat
  gfmt : Nat
  grnd : Nat
  opt : Nat
  stage : Nat
  replica : Nat
  d : Nat
  mbCount : Nat
  adapter : Nat
  slot : Nat
  bwdStart : Nat
  close : Nat
  stepLen : Nat
  gather : Nat
  startRod : Nat
  region : Nat
  params : Nat
  ringOff : Nat
  ringCluster : Nat
  stepCtr : Nat
  tensorId : Nat
  seed : Nat
  replicas : List Nat
  ckptOffset : Nat
  deriving DecidableEq, Repr

/-- Hyperparameters (09 Table 9.1 bytes 80-103). -/
structure Hyper where
  lr : F32
  beta1 : F32
  beta2 : F32
  eps : F32
  wd : F32
  maxNorm : F32
  deriving DecidableEq, Repr

/-- PROTECT settings (14 R432). -/
structure Protect where
  partner : Nat
  peerRood : Nat
  mirrorAddr : Nat
  mirrorEvery : Nat
  ckptEvery : Nat
  deriving DecidableEq, Repr

/-- A norm partial (09 R288). -/
structure NormPart where
  cnt : Nat
  ss : F32
  spoiled : Bool
  deriving DecidableEq, Repr

structure Bind where
  rood : Nat
  cfg : BindCfg
  hyper : Hyper
  nextHyper : Option Hyper := none
  st : BindState := .binding
  cause : Nat := 0
  init : Nat := 0
  tag : Nat := 0
  cmdSeq : Nat := 0
  step : Nat
  version : Nat := 0
  epoch : Option Nat := none
  /-- furlong of the step start -/
  startFurlong : Nat := 0
  /-- earliest furlong of the next step start; none: it starts no step by itself (14 R434) -/
  nextStart : Option Nat := none
  k1 : F32 := 0x3F800000
  k2 : F32 := 0x3F800000
  accepted : List Nat := []
  contributed : List Nat := []
  cnt : Nat := 0
  spoiled : Bool := false
  gathered : Bool := false
  /-- every in-time GACC of the closed step has ended (09 R286) -/
  settled : Bool := false
  /-- this replica has combined its part of G (09 R287) -/
  combined : Bool := false
  /-- its shards are on their way to the other replicas; one of them did not arrive (09 R287) -/
  gatherSent : Bool := false
  gatherFailed : Bool := false
  /-- the entry of the GACC that is in progress (09 R282, R296) -/
  running : Option Nat := none
  /-- shards of the gather that have arrived whole: q the partial of replica q, D + q its rounded values (11 R350, TARGET 1) -/
  gmask : Nat := 0
  producer : Nat := 0
  consumer : Nat := 0
  /-- visibility stamps: entry index below which entries are visible, with the stamp (09 R282) -/
  visible : List (Nat × Nat) := []
  parts : Table NormPart := []
  updatesDone : List Nat := []
  /-- MASTER, M and V of the running update are written (09 R291) -/
  moved : Bool := false
  updated : Bool := false
  skipped : Bool := false
  flipAt : Option Nat := none
  /-- TRAIN_UNBINDs that wait for the step to end (09 R276) -/
  unbinds : List Nat := []
  protect : Option Protect := none
  nextProtect : Option Protect := none
  snapSeq : Nat := 0
  snapBusy : List Nat := []
  digest : Nat := 0
  digestStep : Nat := 0
  digestValid : Bool := false
  /-- lost members with their EFFECTIVE rod count (14 R429) -/
  lost : List (Nat × Nat) := []
  restored : Bool := false
  /-- the root's decision for the step: c, or the cause of a skip (09 R290) -/
  clip : Option F32 := none
  skipCause : Nat := 0
  /-- VERSION_HOLD_WAIT is logged for the running update (08 R267) -/
  holdLogged : Bool := false
  /-- the half of the mirror and the checkpoint slot to be written next (14 R432) -/
  mirrorHalf : Nat := 0
  ckptHalf : Nat := 0
  deriving DecidableEq, Repr

/-! ### Fabric (11) -/

/-- Link states (11 Table 11.2). -/
inductive LinkState where
  | down | training | up | retraining | substituting | failed | miswired
  deriving DecidableEq, Repr

/-- A flit (11 Table 11.4) without its CRC. -/
structure Flit where
  seq : Nat
  ack : Nat
  kind : Nat
  vc : Nat
  first : Nat
  creditVc : Nat
  credits : Nat
  body : List Byte
  deriving DecidableEq, Repr

/-- A packet at an output port whose flits have not left, with its virtual channel and the stamp from which its residence counts (11 R337,
R353). -/
structure Queued where
  vc : Nat
  packet : Packet
  since : Nat
  deriving DecidableEq, Repr

/-- A training under way: its first stamp, and its outcome once known (11 R331). -/
structure Training where
  since : Nat
  res : Option TrainResult
  deriving DecidableEq, Repr

structure Link where
  st : LinkState := .down
  training : Option Training := none
  phys : Nat := 0
  cause : Nat := 0
  peerPos : Nat := 0
  peerLink : Nat := 0
  valid : Bool := false
  delay : Nat := 0
  err : Sticky := {}
  fecCorr : Nat := 0
  fecUncorr : Nat := 0
  replays : Nat := 0
  retrains : Nat := 0
  failedTrains : Nat := 0
  txFlits : Nat := 0
  rxFlits : Nat := 0
  creditStall : Nat := 0
  /-- failures in a row, and stamps of failed retrains (11 R333) -/
  failRow : Nat := 0
  retrainStamps : List Nat := []
  retryAt : Option Nat := none
  /-- receive side: next SEQ expected, a REPLAY_REQ outstanding -/
  rxSeq : Nat := 0
  replaying : Bool := false
  /-- send side: next SEQ, packets that wait, the VC served last but for VC 6, the retry buffer (11 R337, R338) -/
  txSeq : Nat := 0
  waiting : List Queued := []
  lastVc : Nat := 5
  retry : List Flit := []
  /-- credits held per VC, the stamp since when none has come for it, and credits to hand back -/
  credits : Table Nat := []
  creditAt : Table Nat := []
  owed : Table Nat := []
  /-- replays of the last 1 ms: stamp and flits (11 Table 11.2) -/
  replayed : List (Nat × Nat) := []
  /-- announced P4 (16 R473) -/
  peerP4 : Bool := false
  deriving DecidableEq, Repr

structure LinkSpare where
  phys : Nat
  st : SpareState := .ready
  deriving DecidableEq, Repr

/-- An open transfer of this module (11 R346). -/
structure Xfer where
  desc : Nat
  rood : Nat
  body : XferBody
  /-- set once injected -/
  slot : Option Nat := none
  /-- it goes in image form (11 R345) -/
  image : Bool := false
  xgen : Nat := 0
  tries : Nat := 0
  lastSent : Nat := 0
  /-- READ: lines resident, and the highest-ranking failure of their writes -/
  lines : Nat := 0
  status : Nat := 0
  /-- packets named by RESEND, with the stamp at which each is sent again (11 R350) -/
  again : List (Nat × Nat) := []
  deriving DecidableEq, Repr

/-- An arrival entry (11 R346). -/
structure Arrival where
  xgen : Nat
  count : Nat := 0
  total : Nat := 0
  status : Nat := 0
  rood : Nat := 0
  srcRood : Nat := 0
  signal : Bool := false
  signalCtr : Nat := 0
  typ : Nat := 1
  ext : Nat := 0
  bytes : Nat := 0
  /-- the addresses here that its packets have named: the lowest, and the end of the highest (13 R394) -/
  lo : Nat := 0
  hi : Nat := 0
  refusedLogged : Bool := false
  answered : Bool := false
  deriving DecidableEq, Repr

structure Fabric where
  pos : Nat := 0
  groups : Nat := 1
  sysid : Nat := 0
  members : List Nat := [1]
  timeout : Nat := 50
  err : Sticky := {}
  refused : Nat := 0
  stale : Nat := 0
  late : Nat := 0
  resends : Nat := 0
  queue : List Nat := []
  xfers : Table Xfer := []
  nextXfer : Nat := 0
  xgens : Table Nat := []
  arrivals : Table Arrival := []
  early : Table Packet := []
  nextEarly : Nat := 0
  /-- READ requests whose source is not yet readable -/
  held : List Packet := []
  /-- prefetches whose slot is still held for another adapter (08 R260, R265) -/
  prefetches : List Packet := []
  /-- packets handed to the port of a link, newest last: an output -/
  out : List (Nat × Packet) := []
  /-- REPLAY_REQ flits sent: link, first SEQ to resend: an output -/
  replayOut : List (Nat × Nat) := []
  /-- flits on the wire with their link: an output -/
  flitOut : List (Nat × List Byte) := []
  /-- fills of flit bodies so far (the model's own; log 17) -/
  fills : Nat := 0
  syncOut : List RodSync := []
  /-- links on which P4 was announced: an output -/
  p4Out : List Nat := []
  deriving DecidableEq, Repr

/-! ### Network and attachment (12, 13) -/

inductive QpState where
  | reset | rts | error
  deriving DecidableEq, Repr

/-- A client region (12 Table 12.6). -/
structure ClientRegion where
  addr : Nat
  len : Nat
  rkey : Nat
  splitPath : Bool
  /-- DEREGISTER outstanding, with its TAG -/
  leaving : Option Nat := none
  deriving DecidableEq, Repr

/-- A packet sent on a queue pair: an output (12 R369, R371, R375, R379). -/
inductive QpOut where
  | write (q addr rkey : Nat) (data : List Byte)
  | writeImm (q addr rkey imm : Nat) (data : List Byte)
  | readResp (q : Nat) (data : List Byte)
  | readReq (q addr rkey len : Nat)
  | send (q : Nat) (data : List Byte)
  | nak (q code : Nat)
  | ack (q psn : Nat)
  | cnp (q : Nat)
  deriving DecidableEq, Repr

/-- A message as it leaves: interface, VLAN and priority, ECT(0), SPI, the ESP sequence number and the PSN of its first packet, its packets
(12 R361, R363, R364, R366). -/
structure NetOut where
  iface : Nat
  vid : Nat
  pcp : Nat
  ect : Bool
  spi : Nat
  seq : Nat
  psn : Nat
  packets : Nat
  out : QpOut
  deriving DecidableEq, Repr

/-- A message sent and not acknowledged: its first PSN, how many it takes, its content (12 R364). -/
structure Unacked where
  first : Nat
  count : Nat
  out : QpOut
  deriving DecidableEq, Repr

/-- A completion record that has not gone out: the PSN whose acknowledgement it waits for, the WRITE, the request that it ends (12 R375,
R376). -/
structure Withheld where
  psn : Option Nat
  out : QpOut
  req : Option Nat
  deriving DecidableEq, Repr

/-- Queue pair context (12 Table 12.3). -/
structure Qp where
  rood : Nat
  pid : Nat
  role : Nat
  iface : Nat
  ipv6 : Bool
  ip : Nat
  rqpn : Nat
  saIn : Nat
  saOut : Nat
  ackTimeout : Nat
  retryCnt : Nat
  rnrRetry : Nat
  maxRd : Nat
  sqPsn : Nat
  rqPsn : Nat
  input : Nat
  st : QpState := .reset
  reqSeq : Nat := 0
  regions : Table ClientRegion := []
  /-- next PSN to send, messages sent and not acknowledged, the stamp from which ACK_TIMEOUT counts -/
  psn : Nat := 0
  unacked : List Unacked := []
  sentAt : Nat := 0
  /-- responder: next PSN expected, the message under way, PSNs of the READ requests not answered -/
  nextRq : Nat := 0
  inMsg : Option RoceOp := none
  rdIn : List Nat := []
  /-- the status with which it entered ERROR (R377) -/
  cause : Nat := 0
  retries : Nat := 0
  rnrs : Nat := 0
  /-- completion records that wait, in their order (12 R375, R376) -/
  withheld : List Withheld := []
  /-- requests that ended without a completion record: CLIENT_TAG, REQUEST_SEQ, final status (12 R377) -/
  lost : List (Nat × Nat × Nat) := []
  /-- rate in Mb/s, stamp of the last congestion notification (12 R363) -/
  rate : Nat := 0
  lastCnp : Nat := 0
  lastCnpSent : Option Nat := none
  deriving DecidableEq, Repr

inductive SaState where
  | live | tombstone
  deriving DecidableEq, Repr

/-- A security association (13 R406; 12 R366). An unlisted slot is EMPTY. -/
structure Sa where
  st : SaState
  rood : Nat
  inbound : Bool
  spi : Nat
  key : List Byte
  until_ : Nat := 0
  /-- a late arrival was logged (12 R368) -/
  lateLogged : Bool := false
  /-- anti-replay: highest sequence and the mask of the 1,024 below it -/
  high : Nat := 0
  window : Nat := 0
  outSeq : Nat := 1
  deriving DecidableEq, Repr

/-- An exposed region (12 R369). -/
structure Exposed where
  rood : Nat
  start : Nat
  len : Nat
  pid : Nat
  read : Bool
  write : Bool
  doorbell : Bool
  tag : Nat
  deriving DecidableEq, Repr

inductive AttachState where
  | detached | attaching | attached | orphaned
  deriving DecidableEq, Repr

/-- The session (12 R383; 13 R408). -/
structure Session where
  st : AttachState := .detached
  before : AttachState := .detached
  since : Nat := 0
  phase : Nat := 0
  num : Nat := 0
  path : Nat := 0
  lastMsg : Nat := 0
  owner : Bool := false
  rights : Nat := 0
  wrapKey : List Byte := []
  keyCounter : Nat := 0
  orchIp : Nat := 0
  spiIn : Nat := 0
  spiOut : Nat := 0
  /-- keys of the associations towards and from the module -/
  keyIn : List Byte := []
  keyOut : List Byte := []
  /-- anti-replay of the association towards the module, next sequence number of the other (12 R366) -/
  high : Nat := 0
  window : Nat := 0
  outSeq : Nat := 1
  /-- an ATTACH whose report waits for a hand-off (R410) -/
  waiting : Option (WinMsg × List Byte) := none
  deriving DecidableEq, Repr

/-- An Ethernet interface (12 Table 12.15). -/
structure Iface where
  st : Nat := 0
  downs : Nat := 0
  rx : Nat := 0
  tx : Nat := 0
  ipv4 : Nat := 0
  ipv6 : Nat := 0
  deriving DecidableEq, Repr

/-- A partner's violation window (12 R379, R380). -/
structure Partner where
  iface : Nat
  ip : Nat
  since : Nat
  count : Nat
  deriving DecidableEq, Repr

structure Eth where
  ports : List Word := [0x00000000000B0802, 0x00000000000B0802]
  ifs : List Iface := List.replicate 4 {}
  mgmtPort : Nat := 4790
  interval : Nat := 100
  missed : Nat := 3
  quarThreshold : Nat := 64
  quarWindow : Nat := 1000
  quarDuration : Nat := 10
  err : Sticky := {}
  icv : Nat := 0
  replay : Nat := 0
  late : Nat := 0
  unknownSpi : Nat := 0
  violations : Nat := 0
  quarantines : Nat := 0
  cnpRx : Nat := 0
  cnpTx : Nat := 0
  session : Session := {}
  qps : Table Qp := []
  sas : Table Sa := []
  xrs : Table Exposed := []
  /-- the last tag of each handle (12 R369) -/
  xrTags : Table Nat := []
  partners : List Partner := []
  /-- quarantined partners with the stamp at which each ends -/
  quarantined : List (Nat × Nat × Nat) := []
  graceUntil : Nat := 0
  out : List QpOut := []
  /-- the messages of queue pairs as they leave: an output -/
  wireOut : List NetOut := []
  /-- replies to window messages: message, STATUS, STAMP, data: an output -/
  replies : List (WinMsg × Nat × Nat × List Word) := []
  deriving DecidableEq, Repr

/-! ### Roods and slices (13) -/

inductive RoodState where
  | free | active | resetting | removing
  deriving DecidableEq, Repr

/-- The resource registers of a rood (13 Table 13.17). -/
structure Res where
  clusters : Nat := 0
  engines : Nat := 0
  ns : Nat := 0
  slotFirst : Nat := 0
  slotCount : Nat := 0
  qCtx : Nat := 0
  qQueues : Nat := 0
  qSas : Nat := 0
  qQps : Nat := 0
  weight : Nat := 0
  deriving DecidableEq, Repr

structure Rood where
  st : RoodState := .free
  res : Res := {}
  pend : Res := {}
  applyRod : Option Nat := none
  createArmed : Bool := false
  plan : Nat := 0
  pendPlan : Nat := 0
  planRod : Option Nat := none
  cmd : Nat := 0
  status : Nat := 0
  removeHeld : Bool := false
  resetAt : Nat := 0
  opsEnded : Nat := 0
  err : Sticky := {}
  lastReset : Word := 0
  tblData : List Word := [0, 0, 0, 0]
  tblCmd : Word := 0
  nsKeyLive : Bool := false
  debugHash : Nat := 0
  counters : Table Counter := []
  peers : Table (Nat × Nat) := []
  epochs : List Epoch := []
  baseCmd : Option BaseCmd := none
  /-- EPOCH_READY reports that came before this module's own BASE_SWAP: position, epoch (08 R256) -/
  readyFrom : List (Nat × Nat) := []
  /-- failures of a swap's load reported before this module's own BASE_SWAP: epoch, status (08 R257) -/
  failedFrom : List (Nat × Nat) := []
  dir : Table DirEntry := []
  experts : Table (Nat × Nat) := []
  /-- refusals by DECLARE_LOST: lost position, adapter (0: all) (14 R428) -/
  refused : List (Nat × Nat) := []
  mdl : Mailbox := {}
  trn : Mailbox := {}
  qpCmd : Word := 0
  qpData : List Word := [0, 0, 0, 0, 0]
  xrCmd : Word := 0
  xrData : List Word := [0, 0, 0]
  digSel : Nat := 0
  deriving DecidableEq, Repr

/-- A slice (13 R395). -/
structure Slice where
  rood : Nat
  pid : Nat
  share : Nat
  batchRows : Nat
  verdictBytes : Nat
  isolate : Bool
  intakeAddr : Nat
  intakeLog2 : Nat
  intakeCtr : Nat
  intakeWritten : Nat := 0
  /-- records that did not fit in the ring (13 R398) -/
  intakeLost : Nat := 0
  deficit : Nat := 0
  nextQueue : Nat := 0
  deriving DecidableEq, Repr

/-! ### Security (13, 17) -/

structure Sec where
  state : Nat := 0
  fusedNext : Option Nat := none
  debug : Nat := 0
  d2Rood : Nat := 0
  d2Expiry : Nat := 0
  ownerHash : Nat := 0
  ownerHashNext : Nat := 0
  svnMin : Nat := 0
  d3Logged : Nat := 0
  d3Left : Nat := 8
  part : Nat := 1
  stepping : Nat := 0
  nonce : Option Nat := none
  rptCtl : Word := 0
  rptNonce : List Word := [0, 0, 0, 0]
  report : List Byte := []
  rptPendingAt : Option Nat := none
  /-- SELECTs of a report that has not been issued, in order (17 R501) -/
  rptSelect : List Nat := []
  buf : List Byte := []
  err : Sticky := {}
  grant : Table Word := []
  grantCtl : Word := 0
  lifeCtl : Word := 0
  dbgCtl : Word := 0
  dbgAddr : Nat := 0
  dbgData : Table Word := []
  keyStatus : Nat := 0
  keyCounter : Nat := 0
  keySeq : Nat := 0
  deriving DecidableEq, Repr

/-! ### Firmware, power, thermal, repair map (14, 16) -/

structure FwCore where
  phys : Nat
  misses : Nat := 0
  failed : Bool := false
  deriving DecidableEq, Repr

structure Phase where
  current : Nat := 0
  temp : Nat := 0
  /-- 0 ACTIVE, 1 SPARE_READY, 2 FAILED, 3 DISABLED -/
  st : Nat := 0
  out : Nat := 0
  deriving DecidableEq, Repr

inductive UpdateState where
  | idle | verifying | deferred | booting | takeover | confirming | commit
  deriving DecidableEq, Repr

structure Update where
  st : UpdateState := .idle
  start : Nat := 0
  boundary : Nat := 0
  lastDur : Nat := 0
  lastStatus : Nat := 0
  status : Nat := 0
  cmd : Nat := 0
  completed : Nat := 0
  rolled : Nat := 0
  deferrals : Nat := 0
  svn : Nat := 0
  digest : Nat := 0
  /-- slot, security version and digest of the old image, for a rollback (16 R478) -/
  old : Nat × Nat × Nat := (0, 0, 0)
  deriving DecidableEq, Repr

structure Fwc where
  cores : List FwCore := (List.range 6).map fun k => { phys := k }
  sparePhys : Nat := 6
  spare : SpareState := .ready
  pstate : Nat := 0
  waking : Bool := false
  changeRod : Nat := 0
  floor : Nat := 2
  reqStatus : Nat := 0
  reqCmd : Nat := 0
  /-- requests that wait, DEFERRED, for one that runs or for a hand-off, oldest first (16 R474; 00 R18) -/
  reqWaiting : List Nat := []
  idleSince : Option Nat := none
  floorDelay : Nat := 1000
  warmDelay : Nat := 100
  cap : Nat := 1350
  policy : Nat := 0
  capNext : Option (Nat × Nat) := none
  fastStep : Nat := 400
  throttle : Nat := 105
  samples : List Nat := []
  p10 : Nat := 0
  /-- failed phases whose share of the cap is not yet carried by a spare (14 R420) -/
  lostShares : List Nat := []
  max10 : List (Nat × Nat) := []
  vin : Nat := 0
  iin : Nat := 0
  ceilClu : Nat := 2200
  ceilFrk : Nat := 2000
  profClu : Nat := 2200
  profFrk : Nat := 2000
  under : Nat := 0
  alt : Bool := false
  flags : Nat := 0
  quietSince : Nat := 0
  /-- the power state in force before a rood reset raised it to P2 (13 R402) -/
  resetFrom : Option Nat := none
  err : Sticky := {}
  energy : Nat := 0
  phases : List Phase := (List.range 26).map fun p => { st := if p = 16 ∨ p = 25 then 1 else 0 }
  update : Update := {}
  runSvn : Nat := 0
  runDigest : Nat := 0
  deriving DecidableEq, Repr

/-- A repair map entry (14 Table 14.1). -/
structure RepairEntry where
  kind : Nat
  st : Nat
  cause : Nat
  unit : Nat
  logical : Nat
  physical : Nat
  stamp : Nat
  deriving DecidableEq, Repr

/-! ### Boot (15) -/

/-- A ledger entry without its CRC (15 Table 15.6). -/
structure LedgerEntry where
  stamp : Nat
  attempt : Nat
  kind : Nat
  step : Nat
  flags : Nat
  cause : Nat
  detail : Nat
  deriving DecidableEq, Repr

structure Boot where
  /-- no start is running: before the first, and while power or the reset pin holds the module down -/
  down : Bool := true
  /-- stamp at which it went down (18 R509) -/
  downAt : Nat := 0
  step : Nat := 0
  ready : Bool := false
  safeMode : Bool := false
  romService : Bool := false
  slot : Nat := 0
  slotAlt : Bool := false
  reduced : Bool := false
  defaulted : Nat := 0
  cause : Nat := 1
  cold : Bool := true
  attempt : Nat := 0
  skip : Nat := 0
  altered : Nat := 0
  failCount : Table Nat := []
  /-- steps whose last run failed (15 R448) -/
  lastFailed : List Nat := []
  ledger : Table LedgerEntry := []
  newest : Nat := 0
  valid : Nat := 0
  ctlCmd : Nat := 0
  ctlStatus : Nat := 0
  ledgerSel : Nat := 0
  ledgerData : List Word := [0, 0, 0, 0]
  imgCmd : Nat := 0
  imgStatus : Nat := 0
  imgPage : Nat := 0
  buf : Table Word := []
  retryDelay : Nat := 100
  retryAt : Option Nat := none
  /-- cause of the start that follows when power or the pin returns -/
  nextCause : Nat := 1
  svnA : Nat := 0
  svnB : Nat := 0
  /-- digests of the images in slots A and B, as last verified (15 R443) -/
  digestA : Nat := 0
  digestB : Nat := 0
  /-- slots to mark REJECTED in the next header commit (15 R443; 16 R478) -/
  toReject : List Nat := []
  /-- stacks under margin training, as a mask (15 R446) -/
  margin : Nat := 0
  /-- repair map entries of the stack part as flash holds them, while the flash is not mounted (14 R417) -/
  flashMap : List RepairEntry := []
  /-- an orderly reset that waits for the last rod sync: its cause and the world of its start (10 R317) -/
  leaving : Option (Nat × BootWorld) := none
  /-- the BOOT_CTL command outstanding (15 R457) -/
  ctlBusy : Option Nat := none
  /-- user values of the items in force, by identifier (15 R441) -/
  items : Table (List Byte) := []
  deriving DecidableEq, Repr

/-! ### Time, events, pins (10, 17, 18) -/

inductive TimeLock where
  | acquiring | locked | holdover
  deriving DecidableEq, Repr

structure Time where
  now : Nat := 0
  lock : TimeLock := .acquiring
  master : Bool := false
  uncertain : Bool := false
  k : Nat := 1
  index : Nat := 255
  term : Nat := 0
  masterPos : Nat := 0
  masterIndex : Nat := 0
  succession : List Nat := [0]
  offset : Int := 0
  bound : Nat := 0
  boundNext : Nat := 250
  holdSince : Nat := 0
  good : Nat := 0
  /-- stamp of the last PTP Sync acted on, and the interval of PTP Sync in ticks (10 Table 10.3) -/
  lastPtp : Nat := 0
  ptpInterval : Nat := 4000000000
  slew : Int := 0
  /-- furlong of the last rod sync acted on -/
  lastSync : Option Nat := none
  syncedFurlong : Nat := 0
  ppsIn : Nat := 0
  ppsCount : Nat := 0
  ppsOut : Nat := 0
  yielding : Bool := false
  relinquish : Bool := false
  /-- a rod sync with RELINQUISH was received -/
  masterLeaving : Bool := false
  offsetRel : Nat := 0
  deriving DecidableEq, Repr

/-- An event record (10 Table 10.6). -/
structure Event where
  stamp : Nat
  block : Nat
  code : Nat
  rood : Nat
  severity : Nat
  seq : Nat
  payload : Nat
  deriving DecidableEq, Repr

structure Events where
  ring : List Event := []
  head : Nat := 0
  lost : Nat := 0
  seqs : Table Nat := []
  tail : Nat := 0
  deriving DecidableEq, Repr

structure Glb where
  err : Sticky := {}
  lastUnmapped : Word := 0
  locked : Bool := false
  lockRod : Nat := 0
  scratch : Word := 0
  fatal : Bool := false
  deriving DecidableEq, Repr

structure Pins where
  resetHeld : Bool := false
  pwrGood : Bool := false
  refclk : Bool := true
  standby : Bool := true
  /-- the input has passed the turn-on threshold (18 R507) -/
  input : Bool := false
  /-- regulators running -/
  powered : Bool := false
  ovOff : Bool := false
  smbStatus : Nat := 0
  jtagIr : Nat := 0
  deriving DecidableEq, Repr

/-- Window state (17 R490 to R494). -/
structure Windows where
  /-- key 2 × window + path -/
  apbase : Table Nat := []
  /-- key 4 × window + 2 × mailbox + path: the sixteen REC words written -/
  staging : Table (Table Word) := []
  mapSel : Nat := 0
  deriving DecidableEq, Repr

/-- The whole machine. -/
structure State where
  time : Time
  glb : Glb
  events : Events
  pins : Pins
  boot : Boot
  nor : List Host.Cell
  fwc : Fwc
  repair : List RepairEntry
  repairSeq : Nat
  sec : Sec
  win : Windows
  eth : Eth
  links : List Link
  linkSpares : List LinkSpare
  fab : Fabric
  roods : List Rood
  slices : Table Slice
  drrNext : Nat
  queues : Table Queue
  descs : Table Desc
  nextDesc : Nat
  clusters : List Cluster
  spareCluster : SpareCluster
  stks : List Stack
  streams : Streams
  flash : Flash
  slots : Table Slot
  cache : Table CacheEntry
  nextCache : Nat
  requests : Table Request
  nextReq : Nat
  binds : Table Bind
  mem : List Host.Cell
  bushels : Table Meta
  /-- the model's own counter of free values (log 5) -/
  freeCtr : Nat
  /-- the queue of waiting commands, first in first out -/
  pending : List Instr
  deriving DecidableEq, Repr

/-- The factory repair map (log 6): the spares of 14 Table 14.2, each ready. -/
def factoryRepairMap : List RepairEntry :=
  [⟨1, 0, 0, 0, 0, 16, 0⟩] ++
  (List.range 8).map (fun s => ⟨2, 0, 0, s, 0, 4, 0⟩) ++
  (List.range 8).map (fun b => ⟨3, 0, 0, b, 0, 13 * b + 12, 0⟩) ++
  [⟨4, 0, 0, 0, 0, 6, 0⟩, ⟨5, 0, 0, 0, 0, 16, 0⟩, ⟨5, 0, 0, 1, 0, 25, 0⟩, ⟨6, 0, 0, 0, 0, 31, 0⟩]

/-- The machine before its first start: every register at its reset value, input present, nothing started
(log 11). POWER_ON runs the boot steps. -/
def State.reset : State where
  time := {}
  glb := {}
  events := {}
  pins := {}
  boot := {}
  nor := []
  fwc := {}
  repair := factoryRepairMap
  repairSeq := 0
  sec := {}
  win := {}
  eth := {}
  links := (List.range 96).map fun l => { phys := 13 * (l / 12) + l % 12 }
  linkSpares := (List.range 8).map fun b => { phys := 13 * b + 12 }
  fab := {}
  roods := List.replicate 16 {}
  slices := []
  drrNext := 0
  queues := []
  descs := []
  nextDesc := 0
  clusters := (List.range 16).map fun c => { phys := c }
  spareCluster := {}
  stks := List.replicate 8 {}
  streams := {}
  flash := {}
  slots := []
  cache := []
  nextCache := 0
  requests := []
  nextReq := 0
  binds := []
  mem := []
  bushels := []
  freeCtr := 0
  pending := []

end Sys2Proof.Machine
end

