-- ==== Sys2Proof/Machine/Store.lean ====
section
/-! DEFINITION. Sparse tables, byte memories in canonical form, and little-endian fields (00 R8, R9). -/
namespace Sys2Proof.Machine

/-! ### Tables -/

/-- The value at key k, if listed. -/
def tfind {α : Type} (k : Nat) : Table α → Option α
  | [] => none
  | (k', v) :: t => if k' = k then some v else tfind k t

/-- The value at key k, or d. -/
def tgetD {α : Type} (k : Nat) (d : α) (t : Table α) : α := (tfind k t).getD d

/-- t with v at key k, keys strictly rising. -/
def tset {α : Type} (k : Nat) (v : α) : Table α → Table α
  | [] => [(k, v)]
  | (k', v') :: t =>
    if k < k' then (k, v) :: (k', v') :: t
    else if k = k' then (k, v) :: t
    else (k', v') :: tset k v t

/-- t without key k. -/
def tdel {α : Type} (k : Nat) (t : Table α) : Table α := t.filter fun e => e.1 ≠ k

/-- t with the value at key k changed by f, where it is listed. -/
def tmod {α : Type} (k : Nat) (f : α → α) (t : Table α) : Table α :=
  t.map fun e => if e.1 = k then (e.1, f e.2) else e

/-- The least natural number below n that satisfies p (log 19: the lowest free index is taken). -/
def firstBelow (n : Nat) (p : Nat → Bool) : Option Nat := (List.range n).find? p

/-! ### Byte memories -/

/-- The byte at address a; d is what an unlisted address reads as. -/
def cellGet (d : Byte) (a : Nat) : List Host.Cell → Byte
  | [] => d
  | (a', b) :: t => if a' = a then b else cellGet d a t

/-- Write one byte, keeping the canonical form: rising addresses, no entry equal to d. -/
def cellSet (d : Byte) (a : Nat) (b : Byte) : List Host.Cell → List Host.Cell
  | [] => if b = d then [] else [(a, b)]
  | (a', b') :: t =>
    if a < a' then (if b = d then (a', b') :: t else (a, b) :: (a', b') :: t)
    else if a = a' then (if b = d then t else (a, b) :: t)
    else (a', b') :: cellSet d a b t

/-- Write bytes at consecutive addresses. -/
def cellSetAll (d : Byte) (a : Nat) : List Byte → List Host.Cell → List Host.Cell
  | [], m => m
  | b :: bs, m => cellSetAll d (a + 1) bs (cellSet d a b m)

/-- Read n bytes at consecutive addresses. -/
def cellGets (d : Byte) (a n : Nat) (m : List Host.Cell) : List Byte :=
  (List.range n).map fun i => cellGet d (a + i) m

/-- The memory with [lo, lo + n) back at what an unlisted address reads as. -/
def cellClear (lo n : Nat) (m : List Host.Cell) : List Host.Cell :=
  m.filter fun c => decide (c.1 < lo ∨ lo + n ≤ c.1)

/-- Every listed address is at or above lo, addresses strictly rise, no entry equals d. -/
def cellsFrom (d : Byte) (lo : Nat) : List Host.Cell → Bool
  | [] => true
  | (a, b) :: t => decide (lo ≤ a) && decide (b ≠ d) && cellsFrom d (a + 1) t

/-- The canonical form of a memory whose unlisted addresses read as d. -/
def Memory.wf (d : Byte) (m : List Host.Cell) : Bool := cellsFrom d 0 m

/-! ### Little-endian fields -/

/-- Bytes as a number, byte 0 least significant (00 R8). -/
def leNat : List Byte → Nat
  | [] => 0
  | b :: bs => b.toNat + 256 * leNat bs

/-- The n low bytes of v, byte 0 first. -/
def leBytes : Nat → Nat → List Byte
  | 0, _ => []
  | n + 1, v => BitVec.ofNat 8 v :: leBytes n (v / 256)

/-- Field of n bytes at offset o of a record. -/
def field (bs : List Byte) (o n : Nat) : Nat := leNat ((bs.drop o).take n)

/-- Bits [lo + n - 1 : lo] of v. -/
def bits (v lo n : Nat) : Nat := v / 2 ^ lo % 2 ^ n

/-- Bit i of v. -/
def bit (v i : Nat) : Bool := v.testBit i

/-- A payload or record from fields of the given byte counts, lowest first. -/
def packLe : List (Nat × Nat) → Nat
  | [] => 0
  | (v, n) :: t => v % 2 ^ (8 * n) + 2 ^ (8 * n) * packLe t

/-- The number with exactly the bits that satisfy p, of n. -/
def maskOf (n : Nat) (p : Nat → Bool) : Nat :=
  (List.range n).foldl (fun m i => if p i then m + 2 ^ i else m) 0

/-- v with bit i set. -/
def setBit (v i : Nat) : Nat := v ||| 2 ^ i

/-- v with bit i clear. -/
def clrBit (v i : Nat) : Nat := if v.testBit i then v - 2 ^ i else v

/-- Count of the bits of v below n that are set. -/
def popCount (n v : Nat) : Nat := ((List.range n).filter fun i => v.testBit i).length

/-- A saturating count of n bits. -/
def satInc (n v : Nat) : Nat := if v + 1 < 2 ^ n then v + 1 else 2 ^ n - 1

/-- A saturating sum of n bits. -/
def satAdd (n v w : Nat) : Nat := min (v + w) (2 ^ n - 1)

/-- A Word from a Nat. -/
def w64 (v : Nat) : Word := BitVec.ofNat 64 v

end Sys2Proof.Machine
end

