-- ==== Sys2Proof/Machine/Crypto.lean ====
section
/-! DEFINITION. The cryptographic functions that the spec takes from their standards (02 R55; 07 R236; 13 R405,
R408, R409): SHA-384 and HMAC and HKDF over it, AES-256 and GCM, ECDSA and ECDH over P-384 (log 12). Bytes are
numbers below 256. -/
namespace Sys2Proof.Machine.Crypto

/-- Bytes as numbers. -/
def ofBytes (bs : List Byte) : List Nat := bs.map BitVec.toNat
/-- Numbers as bytes. -/
def toBytes (bs : List Nat) : List Byte := bs.map (BitVec.ofNat 8)
/-- Big-endian number of bytes. -/
def beNat (bs : List Nat) : Nat := bs.foldl (fun v b => 256 * v + b) 0
/-- n big-endian bytes of v. -/
def beBytes (n v : Nat) : List Nat := ((List.range n).map fun i => v / 256 ^ i % 256).reverse
/-- n little-endian bytes of v. -/
def leList (n v : Nat) : List Nat := (List.range n).map fun i => v / 256 ^ i % 256
/-- Little-endian number of bytes. -/
def leVal (bs : List Nat) : Nat := bs.foldr (fun b v => b + 256 * v) 0

/-! ### SHA-384 (FIPS 180-4) -/

def rotr (n x : Nat) : Nat := x / 2 ^ n + x % 2 ^ n * 2 ^ (64 - n)
def m64 (x : Nat) : Nat := x % 2 ^ 64

/-- The round constants, eight to a number. -/
def shaK : List Nat :=
  [0xab1c5ed5da6d8118923f82a4af194f9b59f111f1b605d0193956c25bf348b538e9b5dba58189dbbcb5c0fbcfec4d3b2f7137449123ef65cd428a2f98d728ae22,
   0xc19bf174cf6926949bdc06a725c7123580deb1fe3b1696b172be5d74f27b896f550c7dc3d5ffb4e2243185be4ee4b28c12835b0145706fbed807aa98a3030242,
   0x76f988da831153b55cb0a9dcbd41fbd44a7484aa6ea6e4832de92c6f592b0275240ca1cc77ac9c650fc19dc68b8cd5b5efbe4786384f25e3e49b69c19ef14ad2,
   0x142929670a0e6e7006ca6351e003826fd5a79147930aa725c6e00bf33da88fc2bf597fc7beef0ee4b00327c898fb213fa831c66d2db43210983e5152ee66dfab,
   0x92722c851482353b81c2c92e47edaee6766a0abb3c77b2a8650a73548baf63de53380d139d95b3df4d2c6dfc5ac42aed2e1b21385c26c92627b70a8546d22ffc,
   0x106aa07032bbd1b8f40e35855771202ad69906245565a910d192e819d6ef5218c76c51a30654be30c24b8b70d0f89791a81a664bbc423001a2bfe8a14cf10364,
   0x682e6ff3d6b2b8a35b9cca4f7763e3734ed8aa4ae3418acb391c0cb3c5c95a6334b0bcb5e19b48a82748774cdf8eeb991e376c085141ab5319a4c116b8d2d0c8,
   0xc67178f2e372532bbef9a3f7b2c67915a4506cebde82bde990befffa23631e288cc702081a6439ec84c87814a1f0ab7278a5636f43172f60748f82ee5defb2fc,
   0x1b710b35131c471b113f9804bef90dae0a637dc5a2c898a606f067aa72176fbaf57d4f7fee6ed178eada7dd6cde0eb1ed186b8c721c0c207ca273eceea26619c,
   0x6c44198c4a4758175fcb6fab3ad6faec597f299cfc657e2a4cc5d4becb3e42b6431d67c49c100d4c3c9ebe0a15c9bebc32caab7b40c7249328db77f523047d84]

/-- Round constant t. -/
def shaKt (t : Nat) : Nat := (shaK.getD (t / 8) 0) / 2 ^ (64 * (t % 8)) % 2 ^ 64

def shaH : List Nat :=
  [0xcbbb9d5dc1059ed8, 0x629a292a367cd507, 0x9159015a3070dd17, 0x152fecd8f70e5939, 0x67332667ffc00b31, 0x8eb44a8768581511, 0xdb0c2e0d64f98fa7, 0x47b5481dbefa4fa4]

/-- Working variables of the compression. -/
structure Work where
  a : Nat
  b : Nat
  c : Nat
  d : Nat
  e : Nat
  f : Nat
  g : Nat
  h : Nat

/-- Message schedule: the last sixteen words, newest first, extended by one. -/
def schedNext (w : List Nat) : Nat :=
  let x := w.getD 14 0
  let y := w.getD 1 0
  m64 ((rotr 19 y ^^^ rotr 61 y ^^^ y / 2 ^ 6) + w.getD 6 0 + (rotr 1 x ^^^ rotr 8 x ^^^ x / 2 ^ 7) + w.getD 15 0)

/-- One round with word w and constant k. -/
def shaRound (v : Work) (k w : Nat) : Work :=
  let s1 := rotr 14 v.e ^^^ rotr 18 v.e ^^^ rotr 41 v.e
  let ch := (v.e &&& v.f) ^^^ ((2 ^ 64 - 1 - v.e) &&& v.g)
  let t1 := v.h + s1 + ch + k + w
  let s0 := rotr 28 v.a ^^^ rotr 34 v.a ^^^ rotr 39 v.a
  let mj := (v.a &&& v.b) ^^^ (v.a &&& v.c) ^^^ (v.b &&& v.c)
  ⟨m64 (t1 + s0 + mj), v.a, v.b, v.c, m64 (v.d + t1), v.e, v.f, v.g⟩

/-- The rounds from t on: n of them; w holds the last sixteen schedule words, newest first. -/
def shaRounds : Nat → Nat → List Nat → Work → Work
  | 0, _, _, v => v
  | n + 1, t, w, v =>
    let v := shaRound v (shaKt t) (w.getD 15 0)
    shaRounds n (t + 1) ((schedNext w :: w).take 16) v

/-- Compress one block of sixteen words into the chaining value. -/
def shaBlock (h ws : List Nat) : List Nat :=
  let g (i : Nat) : Nat := h.getD i 0
  let v := shaRounds 80 0 ws.reverse ⟨g 0, g 1, g 2, g 3, g 4, g 5, g 6, g 7⟩
  [m64 (g 0 + v.a), m64 (g 1 + v.b), m64 (g 2 + v.c), m64 (g 3 + v.d),
   m64 (g 4 + v.e), m64 (g 5 + v.f), m64 (g 6 + v.g), m64 (g 7 + v.h)]

/-- Word i of a block of 128 bytes. -/
def blockWord (bs : List Nat) (i : Nat) : Nat := beNat ((bs.drop (8 * i)).take 8)

/-- Compress n blocks. -/
def shaBlocks : Nat → List Nat → List Nat → List Nat
  | 0, _, h => h
  | n + 1, bs, h => shaBlocks n (bs.drop 128) (shaBlock h ((List.range 16).map (blockWord (bs.take 128))))

/-- SHA-384 of a list of bytes: 48 bytes. -/
def sha384 (msg : List Nat) : List Nat :=
  let n := msg.length
  let pad := (239 - n % 128) % 128
  let full := msg ++ [0x80] ++ List.replicate pad 0 ++ beBytes 16 (8 * n)
  ((shaBlocks (full.length / 128) full shaH).take 6).flatMap (beBytes 8)

/-- HMAC-SHA-384 (FIPS 198-1). -/
def hmac (key msg : List Nat) : List Nat :=
  let k := if 128 < key.length then sha384 key else key
  let k := k ++ List.replicate (128 - k.length) 0
  sha384 (k.map (· ^^^ 0x5c) ++ sha384 (k.map (· ^^^ 0x36) ++ msg))

/-- HKDF-SHA-384 (RFC 5869): n bytes, at most 144. -/
def hkdf (salt ikm info : List Nat) (n : Nat) : List Nat :=
  let prk := hmac salt ikm
  let t1 := hmac prk (info ++ [1])
  let t2 := hmac prk (t1 ++ info ++ [2])
  let t3 := hmac prk (t2 ++ info ++ [3])
  (t1 ++ t2 ++ t3).take n

/-! ### AES-256 (FIPS 197) -/

/-- The S-box, sixty-four entries to a number. -/
def sboxT : List Nat :=
  [0x75b227ebe28012079a059618c323c7041531d871f1e5a534ccf73f362693fdb7c072a49cafa2d4adf04759fa7dc982ca76abd7fe2b670130c56f6bf27b777c63,
   0xd2f3ff1021dab6bcf5389d928f40a351a89f3c507f02f94585334d43fbaaefd0cf584c4a39becb6a5bb1fc20ed00d153842fe329b3d63b52a05a6e1b1a2c8309,
   0x8ae7a65eaf4566ca94ed58d6d37c8e779e4959162acd3c25c2406490a3a32e0db0b5ede14b8ee4688902a22dc4f816073195d643d7ea7c41744975fec130ccd,
   0x16bb54b00f2d99416842e6bf0d89a18cdf2855cee9871e9b948ed9691198f8e19e1dc186b95735610ef6034866b53e708a8bbd4b1f74dde8c6b4a61c2e2578ba]

def sbox (x : Nat) : Nat := sboxT.getD (x / 64) 0 / 2 ^ (8 * (x % 64)) % 256

/-- Multiplication by x in GF(2^8). -/
def xtime (a : Nat) : Nat := if a < 128 then 2 * a else (2 * a % 256) ^^^ 0x1b

/-- Next word of the key schedule: w holds the words so far, newest first, i their number. -/
def keyNext (w : List (List Nat)) (i : Nat) : List Nat :=
  let t := w.getD 0 []
  let rcon := 2 ^ (i / 8 - 1)
  let t :=
    if i % 8 = 0 then
      match t with
      | [a, b, c, d] => [sbox b ^^^ rcon, sbox c, sbox d, sbox a]
      | t => t
    else if i % 8 = 4 then t.map sbox
    else t
  t.zipWith (· ^^^ ·) (w.getD 7 [])

/-- Extend the schedule by n words. -/
def keyExtend : Nat → Nat → List (List Nat) → List (List Nat)
  | 0, _, w => w
  | n + 1, i, w => keyExtend n (i + 1) (keyNext w i :: w)

/-- The fifteen round keys of 16 bytes. -/
def roundKeys (key : List Nat) : List (List Nat) :=
  let w0 := (List.range 8).map fun i => (key.drop (4 * i)).take 4
  let w := (keyExtend 52 8 w0.reverse).reverse
  (List.range 15).map fun r => ((w.drop (4 * r)).take 4).flatten

/-- SubBytes then ShiftRows. -/
def subShift (st : List Nat) : List Nat :=
  (List.range 16).map fun i => sbox (st.getD ((i + 4 * (i % 4)) % 16) 0)

/-- MixColumns on one column. -/
def mixCol (c : List Nat) : List Nat :=
  match c with
  | [a, b, d, e] =>
    [xtime a ^^^ (xtime b ^^^ b) ^^^ d ^^^ e, a ^^^ xtime b ^^^ (xtime d ^^^ d) ^^^ e,
     a ^^^ b ^^^ xtime d ^^^ (xtime e ^^^ e), (xtime a ^^^ a) ^^^ b ^^^ d ^^^ xtime e]
  | c => c

def mixCols (st : List Nat) : List Nat :=
  (List.range 4).flatMap fun i => mixCol ((st.drop (4 * i)).take 4)

def addKey (st k : List Nat) : List Nat := st.zipWith (· ^^^ ·) k

/-- The rounds after the first key addition. -/
def aesRounds : List (List Nat) → List Nat → List Nat
  | [], st => st
  | [k], st => addKey (subShift st) k
  | k :: ks, st => aesRounds ks (addKey (mixCols (subShift st)) k)

/-- Encrypt one block of 16 bytes. -/
def aesEncrypt (key block : List Nat) : List Nat :=
  match roundKeys key with
  | [] => block
  | k :: ks => aesRounds ks (addKey block k)

/-! ### GCM (NIST SP 800-38D) -/

/-- Product in GF(2^128), bit 127 of the number being x^0: n bits of y still to take, highest first. -/
def gmulAux : Nat → Nat → Nat → Nat → Nat
  | 0, _, _, z => z
  | n + 1, v, y, z =>
    let z := if y.testBit n then z ^^^ v else z
    gmulAux n (if v % 2 = 1 then v / 2 ^^^ 0xE1000000000000000000000000000000 else v / 2) y z

def gmul (x y : Nat) : Nat := gmulAux 128 x y 0

/-- GHASH over n blocks of 16 bytes. -/
def ghash (h : Nat) : Nat → List Nat → Nat → Nat
  | 0, _, y => y
  | n + 1, bs, y => ghash h n (bs.drop 16) (gmul (y ^^^ beNat (bs.take 16)) h)

/-- Pad to whole blocks. -/
def pad16 (bs : List Nat) : List Nat := bs ++ List.replicate ((16 - bs.length % 16) % 16) 0

/-- The GCM tag and the CTR stream applied to the text, under a 12-byte nonce. -/
def gcm (key nonce aad ct : List Nat) : List Nat × List Nat :=
  let h := beNat (aesEncrypt key (List.replicate 16 0))
  let ctr (i : Nat) : List Nat := aesEncrypt key (nonce ++ beBytes 4 i)
  let n := (ct.length + 15) / 16
  let stream := (List.range n).flatMap fun i => ctr (i + 2)
  let auth := pad16 aad ++ pad16 ct ++ beBytes 8 (8 * aad.length) ++ beBytes 8 (8 * ct.length)
  let tag := addKey (beBytes 16 (ghash h (auth.length / 16) auth 0)) (ctr 1)
  (tag, ct.zipWith (· ^^^ ·) stream)

/-- Authenticate and decrypt (13 R405). -/
def gcmOpen (key nonce aad ct tag : List Nat) : Option (List Nat) :=
  let r := gcm key nonce aad ct
  if r.1 = tag then some r.2 else none

/-! ### P-384 (FIPS 186-5, SP 800-186) -/

def pMod : Nat := 2 ^ 384 - 2 ^ 128 - 2 ^ 96 + 2 ^ 32 - 1
def pOrd : Nat :=
  0xffffffffffffffffffffffffffffffffffffffffffffffffc7634d81f4372ddf581a0db248b0a77aecec196accc52973
def pB : Nat :=
  0xb3312fa7e23ee7e4988e056be3f82d19181d9c6efe8141120314088f5013875ac656398d8a2ed19d2a85c8edd3ec2aef
def pGx : Nat :=
  0xaa87ca22be8b05378eb1c71ef320ad746e1d3b628ba79b9859f741e082542a385502f25dbf55296c3a545e3872760ab7
def pGy : Nat :=
  0x3617de4a96262c6f5d9e98bf9292dc29f8f41dbd289a147ce9da3113b5f0b8c00a60b1ce1d7e819d7a431d7c90ea0e5f

/-- b ^ e mod m over n bits of e, highest first. -/
def powModAux (m b e : Nat) : Nat → Nat → Nat
  | 0, r => r
  | n + 1, r => powModAux m b e n (let r := r * r % m; if e.testBit n then r * b % m else r)

def powMod (m b e : Nat) : Nat := powModAux m b e 384 1
/-- Inverse modulo a prime. -/
def invMod (m a : Nat) : Nat := powMod m a (m - 2)
def subMod (m a b : Nat) : Nat := (a + m - b % m) % m

/-- A point in Jacobian coordinates; z = 0 is the neutral element. -/
structure Jac where
  x : Nat
  y : Nat
  z : Nat

def jdbl (a : Jac) : Jac :=
  if a.z = 0 ∨ a.y = 0 then ⟨1, 1, 0⟩
  else
    let p := pMod
    let d := a.z * a.z % p
    let g := a.y * a.y % p
    let b := a.x * g % p
    let al := 3 * (subMod p a.x d * (a.x + d)) % p
    let x3 := subMod p (al * al) (8 * b)
    ⟨x3, subMod p (al * subMod p (4 * b) x3) (8 * (g * g)), 2 * (a.y * a.z) % p⟩

def jadd (a b : Jac) : Jac :=
  if a.z = 0 then b
  else if b.z = 0 then a
  else
    let p := pMod
    let z1 := a.z * a.z % p
    let z2 := b.z * b.z % p
    let u1 := a.x * z2 % p
    let u2 := b.x * z1 % p
    let s1 := a.y * (b.z * z2 % p) % p
    let s2 := b.y * (a.z * z1 % p) % p
    if u1 = u2 then (if s1 = s2 then jdbl a else ⟨1, 1, 0⟩)
    else
      let h := subMod p u2 u1
      let r := subMod p s2 s1
      let h2 := h * h % p
      let h3 := h * h2 % p
      let v := u1 * h2 % p
      let x3 := subMod p (r * r) (h3 + 2 * v)
      ⟨x3, subMod p (r * subMod p v x3) (s1 * h3), h * (a.z * b.z % p) % p⟩

/-- k times a point, over n bits of k, highest first. -/
def jmulAux (k : Nat) (a : Jac) : Nat → Jac → Jac
  | 0, r => r
  | n + 1, r => jmulAux k a n (let r := jdbl r; if k.testBit n then jadd r a else r)

def jmul (k : Nat) (a : Jac) : Jac := jmulAux k a 384 ⟨1, 1, 0⟩

/-- Affine coordinates; none for the neutral element. -/
def jaffine (a : Jac) : Option (Nat × Nat) :=
  if a.z = 0 then none
  else
    let i := invMod pMod a.z
    let i2 := i * i % pMod
    some (a.x * i2 % pMod, a.y * (i2 * i % pMod) % pMod)

/-- Whether (x, y) is on the curve. -/
def onCurve (x y : Nat) : Bool :=
  x < pMod && y < pMod && y * y % pMod == (x * x % pMod * x + (pMod - 3) * x + pB) % pMod

def pG : Jac := ⟨pGx, pGy, 1⟩

/-- ECDSA P-384 verification of (r, s) over a 48-byte hash under public key (x, y). -/
def ecdsaVerify (x y : Nat) (hash : List Nat) (r s : Nat) : Bool :=
  if onCurve x y && 0 < r && r < pOrd && 0 < s && s < pOrd then
    let w := invMod pOrd s
    let q := jadd (jmul (beNat hash * w % pOrd) pG) (jmul (r * w % pOrd) ⟨x, y, 1⟩)
    match jaffine q with
    | none => false
    | some (x1, _) => x1 % pOrd == r
  else false

/-- The public point of a private key. -/
def pubKey (d : Nat) : Nat × Nat := (jaffine (jmul (d % pOrd) pG)).getD (0, 0)

/-- ECDH shared secret: the x coordinate of d times (x, y), when that is a point. -/
def ecdh (d x y : Nat) : Option Nat :=
  if onCurve x y then (jaffine (jmul (d % pOrd) ⟨x, y, 1⟩)).map (·.1) else none

end Sys2Proof.Machine.Crypto
end

