-- ==== Sys2Proof/Machine/Arith.lean ====
section
/-! DEFINITION. Number formats, exact values, rounding, scale selection, the stochastic generator and the
transcendental functions (02; 05 R136, R137). -/
namespace Sys2Proof.Machine

/-- An exact value: NaN, a signed infinity, or (-1)^neg × m × 2^e; m = 0 is the signed zero (R43). -/
inductive Val where
  | nan
  | inf (neg : Bool)
  | fin (neg : Bool) (m : Nat) (e : Int)
  deriving DecidableEq, Repr

def Val.zero : Val := .fin false 0 0
def Val.isNaN : Val → Bool | .nan => true | _ => false
def Val.isFin : Val → Bool | .fin _ _ _ => true | _ => false

/-! ### Decoding (R40, Tables 2.2, 2.3) -/

/-- An IEEE-like encoding with mw mantissa bits and ew exponent bits, whose top exponent is special. -/
def decodeIeee (mw ew : Nat) (v : Nat) : Val :=
  let neg := v.testBit (mw + ew)
  let e := bits v mw ew
  let m := v % 2 ^ mw
  let qmin : Int := 2 - 2 ^ (ew - 1) - mw
  if e = 2 ^ ew - 1 then (if m = 0 then .inf neg else .nan)
  else if e = 0 then .fin neg m qmin
  else .fin neg (m + 2 ^ mw) (qmin + (e - 1))

/-- An MX floating element, all exponents finite, smallest subnormal 2^qmin. -/
def decodeMx (mw ew : Nat) (qmin : Int) (v : Nat) : Val :=
  let neg := v.testBit (mw + ew)
  let e := bits v mw ew
  let m := v % 2 ^ mw
  if e = 0 then .fin neg m qmin else .fin neg (m + 2 ^ mw) (qmin + (e - 1))

/-- FP32 from its bits. -/
def decodeF32 (v : F32) : Val := decodeIeee 23 8 v.toNat

/-- One element of a format by its code (Table 2.1), without its scale. -/
def decodeElem (fmt v : Nat) : Val :=
  if fmt = 0 then decodeIeee 23 8 v
  else if fmt = 1 then decodeIeee 7 8 v
  else if fmt = 2 then decodeIeee 10 5 v
  else if fmt = 3 then (if v % 128 = 127 then .nan else decodeMx 3 4 (-9) v)
  else if fmt = 4 then decodeIeee 2 5 v
  else if fmt = 5 then decodeMx 2 3 (-4) v
  else if fmt = 6 then decodeMx 3 2 (-3) v
  else if fmt = 7 then decodeMx 1 2 (-1) v
  else if v < 128 then .fin false v (-6) else .fin true (256 - v) (-6)

/-- Whether a code names an MX format. -/
def isMx (fmt : Nat) : Bool := 3 ≤ fmt && fmt ≤ 8
/-- Whether a code names a format (R39). -/
def fmtOk (fmt : Nat) : Bool := fmt ≤ 8

/-- Width of an element in bits (Table 2.1). -/
def elemBits (fmt : Nat) : Nat :=
  if fmt = 0 then 32 else if fmt ≤ 2 then 16 else if fmt = 5 ∨ fmt = 6 then 6 else if fmt = 7 then 4 else 8

/-- An element times its block scale (R44, R46). -/
def scaled (v : Val) (scale : Nat) : Val :=
  if scale = 255 then .nan
  else
    match v with
    | .fin n m e => .fin n m (e + scale - 127)
    | v => v

/-! ### Exact arithmetic -/

/-- The exact product (R58). -/
def Val.mul : Val → Val → Val
  | .nan, _ => .nan
  | _, .nan => .nan
  | .inf n, .inf k => .inf (n != k)
  | .inf n, .fin k m _ => if m = 0 then .nan else .inf (n != k)
  | .fin n m _, .inf k => if m = 0 then .nan else .inf (n != k)
  | .fin n m e, .fin k m' e' => .fin (n != k) (m * m') (e + e')

/-- Signed integer of a finite value in units of 2^q, q at most its exponent. -/
def finInt (n : Bool) (m : Nat) (e q : Int) : Int :=
  let v : Int := (m : Int) * 2 ^ (e - q).toNat
  if n then -v else v

/-- The exact sum; an exact zero of unlike signs is +0 (R49). -/
def Val.add : Val → Val → Val
  | .nan, _ => .nan
  | _, .nan => .nan
  | .inf n, .inf k => if n = k then .inf n else .nan
  | .inf n, .fin _ _ _ => .inf n
  | .fin _ _ _, .inf k => .inf k
  | .fin n m e, .fin k m' e' =>
    if m = 0 ∧ m' = 0 then .fin (n && k) 0 0
    else
      let q := min e e'
      let t := finInt n m e q + finInt k m' e' q
      if t = 0 then .fin false 0 0 else .fin (t < 0) t.natAbs q

def Val.neg : Val → Val
  | .nan => .nan
  | .inf n => .inf (!n)
  | .fin n m e => .fin (!n) m e

/-- The order of two values that are not NaN: -0 and +0 are equal (R136). -/
def Val.lt : Val → Val → Bool
  | .nan, _ => false
  | _, .nan => false
  | .inf n, .inf k => n && !k
  | .inf n, .fin _ _ _ => n
  | .fin _ _ _, .inf k => !k
  | .fin n m e, .fin k m' e' => let q := min e e'; finInt n m e q < finInt k m' e' q

def Val.eqv : Val → Val → Bool
  | .nan, _ => false
  | _, .nan => false
  | .inf n, .inf k => n == k
  | .fin n m e, .fin k m' e' => let q := min e e'; finInt n m e q == finInt k m' e' q
  | _, _ => false

/-! ### Rounding (R49 to R52) -/

/-- m × 2^e as an integer count of 2^q, rounded by mode: 0 RNE, 1 RTZ, 2 SR with draw r (R50, R51). -/
def roundTo (mode r m : Nat) (e q : Int) : Nat :=
  if q ≤ e then m * 2 ^ (e - q).toNat
  else
    let sh := (q - e).toNat
    let lo := m / 2 ^ sh
    let rem := m % 2 ^ sh
    let up :=
      if mode = 1 then false
      else if mode = 2 then 2 ^ 24 ≤ rem * 2 ^ 24 / 2 ^ sh + r
      else 2 ^ sh < 2 * rem || (2 ^ sh == 2 * rem && lo % 2 == 1)
    if up then lo + 1 else lo

/-- The magnitude encoding, exponent and mantissa, of m × 2^e rounded to mw mantissa bits with smallest
subnormal 2^qmin and the exponent unbounded above. -/
def encodeMag (mode r mw : Nat) (qmin : Int) (m : Nat) (e : Int) : Nat :=
  if m = 0 then 0
  else
    let q := max qmin ((Nat.log2 m : Int) + e - mw)
    (q - qmin).toNat * 2 ^ mw + roundTo mode r m e q

/-- A conversion's result and what the counters of R160 see of it. -/
structure Conv where
  enc : Nat
  ovf : Bool := false
  sat : Bool := false
  deriving DecidableEq, Repr

/-- Round to an IEEE-like format: RNE and SR overflow to infinity, RTZ to the largest finite (R49, R52). -/
def toIeee (mode r mw ew : Nat) (v : Val) : Conv :=
  let inf := (2 ^ ew - 1) * 2 ^ mw
  let qmin : Int := 2 - 2 ^ (ew - 1) - mw
  let sign (n : Bool) : Nat := if n then 2 ^ (mw + ew) else 0
  match v with
  | .nan => ⟨inf + 2 ^ (mw - 1), false, false⟩
  | .inf n => ⟨sign n + inf, false, false⟩
  | .fin n m e =>
    let k := encodeMag mode r mw qmin m e
    if k < inf then ⟨sign n + k, false, false⟩
    else if mode = 1 then ⟨sign n + inf - 1, false, false⟩
    else ⟨sign n + inf, true, false⟩

/-- FP32 by RNE (R49). -/
def toF32 (v : Val) : F32 := BitVec.ofNat 32 (toIeee 0 0 23 8 v).enc

/-- The canonical NaN and other constants. -/
def f32NaN : F32 := 0x7FC00000#32
def f32One : F32 := 0x3F800000#32

/-- Parameters of an MX element type: mantissa bits, smallest subnormal exponent, largest encoding, sign place,
emax, largest finite value as m × 2^e (Tables 2.2, 2.3; R47). -/
structure MxType where
  mw : Nat
  qmin : Int
  top : Nat
  sign : Nat
  emax : Int
  lfM : Nat
  lfE : Int

def mxType (fmt : Nat) : MxType :=
  if fmt = 3 then ⟨3, -9, 0x7E, 0x80, 8, 7, 6⟩
  else if fmt = 4 then ⟨2, -16, 0x7B, 0x80, 15, 7, 13⟩
  else if fmt = 5 then ⟨2, -4, 0x1F, 0x20, 4, 7, 2⟩
  else if fmt = 6 then ⟨3, -3, 0x1F, 0x20, 2, 15, -1⟩
  else if fmt = 7 then ⟨1, -1, 0x7, 0x8, 2, 3, 1⟩
  else ⟨0, -6, 127, 0, 0, 127, -6⟩

/-- A finite value rounded to an MX element; beyond the largest finite it saturates (R41, R52). -/
def toMxElem (fmt mode r : Nat) (neg : Bool) (m : Nat) (e : Int) : Conv :=
  let t := mxType fmt
  let k := if fmt = 8 then roundTo mode r m e (-6) else encodeMag mode r t.mw t.qmin m e
  let sat := t.top < k
  let k := if sat then t.top else k
  if fmt = 8 then ⟨if neg ∧ k ≠ 0 then 256 - k else k, false, sat⟩
  else ⟨if neg then t.sign + k else k, false, sat⟩

/-- Compare magnitudes m × 2^e. -/
def magLt (m : Nat) (e : Int) (m' : Nat) (e' : Int) : Bool :=
  let q := min e e'
  m * 2 ^ (e - q).toNat < m' * 2 ^ (e' - q).toNat

/-- Largest finite magnitude of a block. -/
def amax (vs : List Val) : Nat × Int :=
  vs.foldl (fun a v =>
    match v with
    | .fin _ m e => if magLt a.1 a.2 m e then (m, e) else a
    | _ => a) (0, 0)

/-- The shared exponent X of a block (R47): mode 0 FLOOR, 1 FIT. -/
def sharedExp (fmt scsel : Nat) (vs : List Val) : Int :=
  let a := amax vs
  if a.1 = 0 then -127
  else
    let t := mxType fmt
    let x := (Nat.log2 a.1 : Int) + a.2 - t.emax
    let x := if scsel = 1 ∧ magLt t.lfM t.lfE a.1 (a.2 - x) then x + 1 else x
    max (-127) (min 127 x)

/-- A block of FP32 values in an MX type: the scale byte and the elements (R47, R48); rs gives each draw. -/
def toMxBlock (fmt mode scsel : Nat) (vs : List Val) (rs : List Nat) : Nat × List Conv :=
  if fmt ≠ 3 ∧ fmt ≠ 4 ∧ vs.any (fun v => !v.isFin) then (255, vs.map fun _ => ⟨0, false, false⟩)
  else
    let x := sharedExp fmt scsel vs
    ((x + 127).toNat, (vs.zip rs).map fun (v, r) =>
      match v with
      | .fin n m e => toMxElem fmt mode r n m (e - x)
      | .nan => ⟨if fmt = 4 then 0x7E else 0x7F, false, false⟩
      | .inf n => ⟨if fmt = 4 then (if n then 0xFC else 0x7C) else 0x7F, false, false⟩)

/-- FP32 bits in BF16 or FP16 (Table 2.8). -/
def toHalf (fmt mode r : Nat) (v : Val) : Conv := if fmt = 1 then toIeee mode r 7 8 v else toIeee mode r 10 5 v

/-! ### The stochastic generator (R55) -/

/-- The key of a tensor and step. -/
def srKey (seed step tensor : Nat) : List Nat :=
  (Crypto.sha384 (Crypto.leList 8 seed ++ Crypto.leList 8 step ++ Crypto.leList 4 tensor ++ [2, 0, 0, 0])).take 32

/-- The 24-bit draw of element index under a key. -/
def srDrawKey (key : List Nat) (index : Nat) : Nat :=
  let out := Crypto.aesEncrypt key (Crypto.leList 8 (index / 4) ++ List.replicate 8 0)
  Crypto.leVal ((out.drop (4 * (index % 4))).take 4) % 2 ^ 24

/-- The 24-bit draw of an element. -/
def srDraw (seed step tensor index : Nat) : Nat := srDrawKey (srKey seed step tensor) index

/-! ### Packing (R44, Table 2.4) -/

/-- Element i of a packed sequence of a format, from its bytes. -/
def unpackElem (fmt : Nat) (bs : List Byte) (i : Nat) : Nat :=
  if fmt = 0 then field bs (4 * i) 4
  else if fmt ≤ 2 then field bs (2 * i) 2
  else if fmt = 5 ∨ fmt = 6 then bits (field bs (3 * (i / 4)) 3) (6 * (i % 4)) 6
  else if fmt = 7 then bits (field bs (i / 2) 1) (4 * (i % 2)) 4
  else field bs i 1

/-- Bytes of n packed elements; n is a multiple of 4 for 6-bit types and of 2 for E2M1. -/
def packedBytes (fmt n : Nat) : Nat := (n * elemBits fmt + 7) / 8

/-- Pack encodings of a format. -/
def packElems (fmt : Nat) (es : List Nat) : List Byte :=
  let w := elemBits fmt
  leBytes (packedBytes fmt es.length) (es.foldr (fun e v => e % 2 ^ w + 2 ^ w * v) 0)

/-! ### FP32 operations (R49, R53) -/

def fAdd (a b : F32) : F32 := toF32 ((decodeF32 a).add (decodeF32 b))
def fSub (a b : F32) : F32 := toF32 ((decodeF32 a).add (decodeF32 b).neg)
def fMul (a b : F32) : F32 := toF32 ((decodeF32 a).mul (decodeF32 b))
/-- a × b + c, one rounding. -/
def fFma (a b c : F32) : F32 := toF32 (((decodeF32 a).mul (decodeF32 b)).add (decodeF32 c))
def fNeg (a : F32) : F32 := a ^^^ 0x80000000#32
def fAbs (a : F32) : F32 := a &&& 0x7FFFFFFF#32
def fIsNaN (a : F32) : Bool := (decodeF32 a).isNaN
def fIsFin (a : F32) : Bool := (decodeF32 a).isFin

/-- Less in the order of MIN and MAX: -0 is below +0 (R136). -/
def fBelow (a b : F32) : Bool :=
  let x := decodeF32 a
  let y := decodeF32 b
  x.lt y || (x.eqv y && a.msb && !b.msb)

def fMin (a b : F32) : F32 := if fIsNaN a || fIsNaN b then f32NaN else if fBelow b a then b else a
def fMax (a b : F32) : F32 := if fIsNaN a || fIsNaN b then f32NaN else if fBelow a b then b else a
def fBool (p : Bool) : F32 := if p then f32One else 0#32
def fLt (a b : F32) : F32 := fBool ((decodeF32 a).lt (decodeF32 b))
def fLe (a b : F32) : F32 := fBool ((decodeF32 a).lt (decodeF32 b) || (decodeF32 a).eqv (decodeF32 b))
def fEq (a b : F32) : F32 := fBool ((decodeF32 a).eqv (decodeF32 b))
/-- SEL: a where m is neither zero, else b (Table 5.2). -/
def fSel (a b m : F32) : F32 := if m &&& 0x7FFFFFFF#32 = 0#32 then b else a

/-- An FP32 number from a natural number. -/
def fOfNat (n : Nat) : F32 := toF32 (.fin false n 0)

/-! ### Transcendental functions (05 R137)

Each takes the exact function in fixed point of 2^-256, with the error below 2^-200, and rounds it once, with a
sticky bit below the last place: no FP32 input of these functions lies so near a rounding boundary (log 13). -/

/-- Bits of the fixed point. -/
abbrev fx : Nat := 256

/-- floor(√n) by bits from the top: b bits still to try. -/
def isqrtAux (n : Nat) : Nat → Nat → Nat
  | 0, r => r
  | b + 1, r => isqrtAux n b (if (r + 2 ^ b) * (r + 2 ^ b) ≤ n then r + 2 ^ b else r)

def isqrt (n : Nat) : Nat := isqrtAux n (Nat.log2 n / 2 + 1) 0

/-- A positive value v × 2^e known to lie just above v × 2^e, as a value with a sticky bit. -/
def sticky (n : Bool) (v : Nat) (e : Int) : Val := .fin n (2 * v + 1) (e - 1)

/-- Sum of z^(2k+1) / (2k+1) for n more terms: p is the power, k the index, z2 the square, in 2^-256. -/
def atanhAux (z2 : Nat) : Nat → Nat → Nat → Nat → Nat
  | 0, _, _, acc => acc
  | n + 1, k, p, acc => atanhAux z2 n (k + 1) (p * z2 / 2 ^ fx) (acc + p / (2 * k + 1))

/-- 2 atanh(a / b) in 2^-256, for a / b at most 1/3. -/
def ln2atanh (a b : Nat) : Nat :=
  let z := a * 2 ^ fx / b
  2 * atanhAux (z * z / 2 ^ fx) 84 0 z 0

/-- ln 2 in 2^-256. -/
def fxLn2 : Nat := ln2atanh 1 3

/-- Sum of t^k / k! for n more terms. -/
def expAux (t : Nat) : Nat → Nat → Nat → Nat → Nat
  | 0, _, _, acc => acc
  | n + 1, k, p, acc => expAux t n (k + 1) (p * t / (2 ^ fx * (k + 1))) (acc + p)

/-- e^t in 2^-256 for 0 ≤ t < 1 given in 2^-256. -/
def fxExp (t : Nat) : Nat := expAux t 64 0 (2 ^ fx) 0

/-- A finite value as an integer of 2^-256, floored. -/
def fxOf (n : Bool) (m : Nat) (e : Int) : Int :=
  let k := e + fx
  let v : Int := if 0 ≤ k then (m : Int) * 2 ^ k.toNat else (m : Int) / 2 ^ (-k).toNat
  if n then -v else v

/-- 2^x. -/
def valExp2 : Val → Val
  | .nan => .nan
  | .inf n => if n then .fin false 0 0 else .inf false
  | .fin n m e =>
    if m = 0 then .fin false 1 0
    else if 8 ≤ (Nat.log2 m : Int) + e then
      -- |x| is 256 or more
      if n then .fin false 1 (-400) else .fin false 1 400
    else
      let x := fxOf n m e
      let i := x / 2 ^ fx
      let f := (x % 2 ^ fx).toNat
      if f = 0 then .fin false 1 i
      else sticky false (fxExp (f * fxLn2 / 2 ^ fx)) (i - fx)

/-- log₂ x. -/
def valLog2 : Val → Val
  | .nan => .nan
  | .inf n => if n then .nan else .inf false
  | .fin n m e =>
    if m = 0 then .inf true
    else if n then .nan
    else
      let l := Nat.log2 m
      let i : Int := (l : Int) + e
      if m = 2 ^ l then (if i = 0 then .fin false 0 0 else .fin (i < 0) i.natAbs 0)
      else
        let ln := ln2atanh (m - 2 ^ l) (m + 2 ^ l)
        let v : Int := i * 2 ^ fx + (ln * 2 ^ fx / fxLn2 : Nat)
        sticky (v < 0) v.natAbs (-(fx : Int))

/-- 1 / x. -/
def valRcp : Val → Val
  | .nan => .nan
  | .inf n => .fin n 0 0
  | .fin n m e =>
    if m = 0 then .inf n
    else
      let k := Nat.log2 m + 64
      let q := 2 ^ k / m
      if 2 ^ k % m = 0 then .fin n q (-e - k) else sticky n q (-e - k)

/-- 1 / √x. -/
def valRsqrt : Val → Val
  | .nan => .nan
  | .inf n => if n then .nan else .fin false 0 0
  | .fin n m e =>
    if m = 0 then .inf n
    else if n then .nan
    else
      let odd := e % 2 ≠ 0
      let m := if odd then 2 * m else m
      let e := if odd then e - 1 else e
      let k := Nat.log2 m + 64
      let r := isqrt (2 ^ (2 * k) / m)
      let x := -(e / 2) - k
      if r * r * m = 2 ^ (2 * k) then .fin false r x else sticky false r x

/-- tanh x. Below 2^-13 the result is x itself, above 16 it rounds to 1: the difference is below half an ulp. -/
def valTanh : Val → Val
  | .nan => .nan
  | .inf n => .fin n 1 0
  | .fin n m e =>
    if m = 0 then .fin n 0 0
    else if (Nat.log2 m : Int) + e < -13 then .fin n m e
    else if 4 ≤ (Nat.log2 m : Int) + e then .fin n 1 0
    else
      let u := (2 * fxOf false m e).toNat
      let i := u / fxLn2
      let g := fxExp (u % fxLn2) * 2 ^ i
      sticky n ((g - 2 ^ fx) * 2 ^ fx / (g + 2 ^ fx)) (-(fx : Int))

/-- The operation codes of the transcendental operations (06 Table 6.11). -/
def fTrans (op : Nat) (a : F32) : F32 :=
  let v := decodeF32 a
  toF32 (if op = 0x10 then valExp2 v else if op = 0x11 then valLog2 v else if op = 0x12 then valRcp v
    else if op = 0x13 then valRsqrt v else valTanh v)

/-! ### The reduction rule (R58) -/

/-- acc + p with one rounding. -/
def accStep (acc : F32) (p : Val) : F32 := toF32 ((decodeF32 acc).add p)

/-- The sum of exact products in ascending order, one rounding per product. -/
def reduceProducts (init : F32) (ps : List (Val × Val)) : F32 :=
  ps.foldl (fun acc ab => accStep acc (ab.1.mul ab.2)) init

/-- Sum of FP32 values one at a time, in ascending index, from the first (R62, R63). -/
def sumFrom (acc : F32) (vs : List F32) : F32 := vs.foldl fAdd acc

end Sys2Proof.Machine
end

