-- ==== Sys2Proof/Config.lean ====
section
/-! DEFINITION. What an implementation fixes and the values the spec leaves open. Each opaque constant is a
FREE VALUE: it has no body, so nothing can be proved of its value (log 5). -/
namespace Sys2Proof.Config

/-- A fresh value of n bits: nonces (17 R502), RKEY tags (12 R369), ephemeral keys and SPIs (13 R408),
signature randomness (13 R409). The first argument is State's counter freeCtr. -/
opaque freeValue : Nat → Nat → Nat

/-- What the hardware itself counts in one tick, which no command brings: bits corrected (04 R118; 07 R228, R229), interface
retries, codewords a link's FEC met (11 R330), stalled clocks (06 R199), blocks that wear moves or retires (07 R237).
Arguments: State's counter freeCtr, the number of the counter (log 16). -/
opaque hardwareEvents : Nat → Nat → Nat

/-- Ticks, at most 4,000, for which a change of its clock stops a unit: cluster 0 to 15, 16 + stack (03 R92; 04 R129; 05 R162). The
second argument is the stamp of the change (log 69). -/
opaque clockPause : Nat → Nat → Nat

/-- Bytes of a flit's body that carry no packet: the spec gives them no value (11 R336). The argument counts such fills (log 17). -/
opaque flitFill : Nat → Nat

/-- The flash block that holds a bushel slot: the translation layer's choice (07 R237). Arguments: the slot's key, the moves
and relocations so far (log 67). -/
opaque flashBlock : Nat → Nat → Nat

/-- What one RV64GC instruction other than a tensor-issue one leaves in a register: the spec names the
instruction set (05 R156) and gives no semantics for it (log 15). Arguments: counter, register number
(0-31 integer, 32-63 floating point, 64 pc). -/
opaque coreResult : Nat → Nat → Word

/-- The vendor's public key held in ROM, x and y (13 R408; 15 R440). -/
opaque vendorKey : Nat × Nat

/-- The life-cycle fuses as a report shows them, for a fused security state: their encoding is not stated (13 Table
13.10). -/
opaque lifeFuses : Nat → Nat

/-- SHA-384 of the DeviceID public key (13 Table 13.7): an implementation's fused secret. -/
opaque deviceIdHash : Nat

/-- The fused serial number, 128 bits (13 Table 13.10). -/
opaque serial : Nat

/-- Bytes of a certificate object, 1 Alias or 2 DeviceID, of the running firmware's digest (13 Table 13.7; 17 R501). -/
opaque certificate : Nat → Nat → List Byte

/-- SHA-384 of the configuration sections in force in a start attempt (13 Table 13.10). -/
opaque configDigest : Nat → Nat

/-- Power drawn above the cap that one phase's share stands for, W: CAP_EFF is lowered by that share
(14 R420), whose size the spec does not state. -/
opaque phaseShare : Nat → Nat

end Sys2Proof.Config
end

