-- ==== Sys2Proof/Machine/Codes.lean ====
section
/-! DEFINITION. Completion status codes, their precedence (00 Tables 0.4 to 0.6, R20, R21) and event severities
(10 R523, Tables 10.8, 10.9; 14 Table 14.10). -/
namespace Sys2Proof.Machine

namespace Sts
abbrev ok := 0x00
abbrev refusedCapacity := 0x01
abbrev timeout := 0x02
abbrev squashed := 0x03
abbrev protocolViolation := 0x04
abbrev uncorrectable := 0x05
abbrev notPermitted := 0x06
abbrev deferred := 0x07
abbrev partitionReset := 0x08
abbrev versionRetired := 0x09
abbrev keyRevoked := 0x0A
abbrev baseNotLoaded := 0x10
abbrev baseBusy := 0x11
abbrev baseShardMissing := 0x12
abbrev baseShardCorrupt := 0x13
abbrev baseDigestMismatch := 0x14
abbrev adapterUnknown := 0x18
abbrev adapterBaseMismatch := 0x19
abbrev adapterImageBad := 0x1A
abbrev versionNotYet := 0x1B
abbrev slotConflict := 0x1C
abbrev expertConflict := 0x1D
abbrev generationStale := 0x1E
abbrev adapterInTraining := 0x1F
abbrev headerMismatch := 0x30
abbrev bushelPoisoned := 0x31
abbrev namespaceFull := 0x32
abbrev flashReadOnly := 0x33
abbrev storeReadFailed := 0x34
abbrev flashUnwritten := 0x35
abbrev destUnreachable := 0x40
abbrev transferLost := 0x41
abbrev remotePartitionReset := 0x42
abbrev partialLate := 0x43
abbrev partialDuplicate := 0x44
abbrev partialMismatch := 0x45
abbrev linkDown := 0x50
abbrev remoteNak := 0x51
abbrev retryExhausted := 0x52
abbrev rnrExhausted := 0x53
abbrev quarantined := 0x54
abbrev regionInvalid := 0x55
abbrev qpError := 0x56
abbrev roodAbsent := 0x60
abbrev roodBusy := 0x61
abbrev resourceTaken := 0x62
abbrev resourceBusy := 0x63
abbrev keyBlobInvalid := 0x64
abbrev authFailed := 0x65
abbrev stateTransitionRefused := 0x66
abbrev clusterLost := 0x70
abbrev clusterAbsent := 0x71
abbrev engineAbsent := 0x72
abbrev stageLost := 0x73
abbrev stateDiverged := 0x74
abbrev noGoodState := 0x75
abbrev restoreBehind := 0x76
abbrev handoffBusy := 0x80
abbrev handoffUnavailable := 0x81
abbrev stateIncompatible := 0x82
abbrev handoffRolledBack := 0x83
abbrev handoffAborted := 0x84
abbrev noStagedImage := 0x85
abbrev pstateRefused := 0x86
abbrev pstateBusy := 0x87
abbrev imageInvalid := 0x90
abbrev signatureInvalid := 0x91
abbrev rollback := 0x92
abbrev slotInUse := 0x93
abbrev regionProtected := 0x94
abbrev safeMode := 0x95
abbrev notInSafeMode := 0x96
end Sts

/-- Position of a code in Table 0.6: 0 is the highest. Chapter-owned codes rank among themselves by
value (R21; R238, R272, R358, R387, R413, R458, R480; 14 Table 14.5). -/
def statusRank (c : Nat) : Nat :=
  if c = 0x0A then 0
  else if c = 0x08 then 1
  else if c = 0x06 then 2
  else if c = 0x04 then 3
  else if c = 0x05 then 4
  else if 0x10 ≤ c ∧ c < 0xA0 then 5 + (c - 0x10)
  else if c = 0x09 then 0x100
  else if c = 0x03 then 0x101
  else if c = 0x02 then 0x102
  else if c = 0x01 then 0x103
  else if c = 0x07 then 0x104
  else 0x105

/-- The code that ranks higher (R20). -/
def statusMax (a b : Nat) : Nat := if statusRank b < statusRank a then b else a

/-- Of the codes whose conditions hold for one operation, the one that ranks highest (R20). -/
def topStatus (l : List (Bool × Nat)) : Option Nat :=
  l.foldl (fun m x => if x.1 then some (match m with | none => x.2 | some y => statusMax y x.2) else m) none

namespace Blk
abbrev glb := 0x0001
/-- cluster events name the physical cluster (01 R37) -/
abbrev cluster (phys : Nat) := 0x0010 + phys
abbrev stack (s : Nat) := 0x0030 + s
abbrev flash := 0x0038
abbrev fabric := 0x0040
abbrev eth := 0x0041
abbrev sec := 0x0050
abbrev fw := 0x0060
abbrev boot := 0x0070
end Blk

namespace Sev
abbrev info := 0
abbrev notice := 1
abbrev warning := 2
abbrev error := 3
abbrev fatal := 4
end Sev

/-- The one severity of an event (R523). -/
def severityOf (block low : Nat) : Nat :=
  if low = 0xF0 ∨ low = 0xF1 then Sev.error
  else if block = Blk.glb then
    if low ∈ [0x30, 0x31, 0x32, 0x36, 0x40, 0x41, 0x44, 0x46, 0x49, 0x50, 0x56, 0x63] then Sev.info
    else if low ∈ [0x34, 0x35, 0x37, 0x39, 0x42, 0x43, 0x53, 0x54, 0x60, 0x66, 0x67] then Sev.notice
    else if low ∈ [0x45, 0x47, 0x51, 0x52, 0x64, 0x65, 0x68] then Sev.warning
    else if low = 0x61 then Sev.fatal
    else Sev.error
  else if 0x10 ≤ block ∧ block ≤ 0x20 then
    if low ∈ [0x03, 0x05, 0x0C] then Sev.notice
    else if low ∈ [0x09, 0x0B] then Sev.warning
    else Sev.error
  else if 0x30 ≤ block ∧ block ≤ 0x37 then
    if low ∈ [0x89, 0x8A] then Sev.info
    else if low ∈ [0x01, 0x02, 0x04, 0x81, 0x82, 0x84, 0x86] then Sev.notice
    else if low ∈ [0x03, 0x05, 0x83, 0x85, 0x87, 0x88] then Sev.warning
    else Sev.error
  else if block = Blk.flash then
    if low = 0x05 then Sev.info
    else if low ∈ [0x01, 0x03] then Sev.notice
    else if low = 0x04 then Sev.warning
    else Sev.error
  else if block = Blk.fabric then
    if low = 0x01 then Sev.info
    else if low ∈ [0x05, 0x0A] then Sev.notice
    else if low ∈ [0x02, 0x06, 0x0C] then Sev.warning
    else Sev.error
  else if block = Blk.eth then
    if low ∈ [0x01, 0x05, 0x09] then Sev.info
    else if low ∈ [0x08, 0x0C] then Sev.notice
    else if low ∈ [0x02, 0x04, 0x0A] then Sev.warning
    else Sev.error
  else if block = Blk.sec then
    if low ∈ [0x01, 0x02, 0x03, 0x05, 0x06, 0x07, 0x09] then Sev.info
    else if low ∈ [0x0A, 0x0B, 0x0E] then Sev.notice
    else if low = 0x0D then Sev.warning
    else Sev.error
  else if block = Blk.fw then
    if low ∈ [0x01, 0x02, 0x04, 0x0A] then Sev.info
    else if low ∈ [0x07, 0x09] then Sev.notice
    else Sev.warning
  else
    if low = 0x08 then Sev.info
    else if low = 0x06 then Sev.notice
    else if low = 0x01 then Sev.error
    else if low = 0x07 then Sev.fatal
    else Sev.warning

end Sys2Proof.Machine
end

