-- ==== Sys2Proof/Machine/Ops.lean ====
section
/-! DEFINITION. Shared operations: the parts of the state and their updates, rods and serial comparison
(10 R302 to R306, R318 to R322), event records (10 R325, R326), sync counters (06 R177), free values (log 5). -/
namespace Sys2Proof.Machine

/-- What a command answers. -/
abbrev Answer := Host.Outcome State Fault Refusal

/-! ### Updates of one part -/

/-- The state that an outcome answers; the state before where it answers none. -/
def doneOr (s : State) : Answer → State
  | .next t => t
  | .fault _ => s
  | .refused _ => s

def modRood (r : Nat) (f : Rood → Rood) (s : State) : State := { s with roods := s.roods.modify r f }
def modCluster (c : Nat) (f : Cluster → Cluster) (s : State) : State := { s with clusters := s.clusters.modify c f }
def modCore (c n : Nat) (f : Core → Core) (s : State) : State :=
  modCluster c (fun k => { k with cores := k.cores.modify n f }) s
def modBank (c b : Nat) (f : Bank → Bank) (s : State) : State :=
  modCluster c (fun k => { k with banks := k.banks.modify b f }) s
def modComb (c i : Nat) (f : Comb → Comb) (s : State) : State :=
  modCluster c (fun k => { k with comb := k.comb.modify i f }) s
def modStack (t : Nat) (f : Stack → Stack) (s : State) : State := { s with stks := s.stks.modify t f }
def modEngine (t e : Nat) (f : Engine → Engine) (s : State) : State :=
  modStack t (fun k => { k with engines := k.engines.modify e f }) s
def modLock (t i : Nat) (f : LockEntry → LockEntry) (s : State) : State :=
  modStack t (fun k => { k with locks := k.locks.modify i f }) s
def modLink (l : Nat) (f : Link → Link) (s : State) : State := { s with links := s.links.modify l f }
def modDesc (d : Nat) (f : Desc → Desc) (s : State) : State := { s with descs := tmod d f s.descs }
def modQueue (q : Nat) (f : Queue → Queue) (s : State) : State := { s with queues := tmod q f s.queues }
def modBind (b : Nat) (f : Bind → Bind) (s : State) : State := { s with binds := tmod b f s.binds }
def modSlot (i : Nat) (f : Slot → Slot) (s : State) : State := { s with slots := tmod i f s.slots }
def modReq (h : Nat) (f : Request → Request) (s : State) : State := { s with requests := tmod h f s.requests }
def modQp (q : Nat) (f : Qp → Qp) (s : State) : State := { s with eth := { s.eth with qps := tmod q f s.eth.qps } }
def modCtx (x : Nat) (f : Ctx → Ctx) (s : State) : State :=
  { s with streams := { s.streams with ctx := tmod x f s.streams.ctx } }
def modTime (f : Time → Time) (s : State) : State := { s with time := f s.time }
def modGlb (f : Glb → Glb) (s : State) : State := { s with glb := f s.glb }
def modFwc (f : Fwc → Fwc) (s : State) : State := { s with fwc := f s.fwc }
def modSec (f : Sec → Sec) (s : State) : State := { s with sec := f s.sec }
def modEth (f : Eth → Eth) (s : State) : State := { s with eth := f s.eth }
def modFab (f : Fabric → Fabric) (s : State) : State := { s with fab := f s.fab }
def modFlash (f : Flash → Flash) (s : State) : State := { s with flash := f s.flash }
def modStreams (f : Streams → Streams) (s : State) : State := { s with streams := f s.streams }
def modPins (f : Pins → Pins) (s : State) : State := { s with pins := f s.pins }
def modBoot (f : Boot → Boot) (s : State) : State := { s with boot := f s.boot }
def modWin (f : Windows → Windows) (s : State) : State := { s with win := f s.win }

/-- The bits of a W1C status word that the hardware set at stamp now. -/
def lateBits (now : Nat) (e : Sticky) : Word := if e.stamp = now then e.late else 0

/-- The hardware sets bit i of a W1C status word at stamp now. -/
def raise (now : Nat) (e : Sticky) (i : Nat) : Sticky :=
  ⟨e.bits ||| (1#64 <<< i), lateBits now e ||| (1#64 <<< i), now⟩

/-- Apply f for each element of a list, in order. -/
def forAll {α : Type} (l : List α) (f : α → State → State) (s : State) : State :=
  l.foldl (fun t a => f a t) s

/-- A free value of n bits (log 5): unconstrained, and the counter advances. -/
def fresh (n : Nat) (s : State) : Nat × State :=
  (Config.freeValue s.freeCtr n % 2 ^ n, { s with freeCtr := s.freeCtr + 1 })

/-! ### Rods (10) -/

/-- Rod length L in ticks (R302). -/
def rodLen (s : State) : Nat := 2 ^ (11 + s.time.k)
/-- Rod count N of the current timestamp (R303). -/
def rodCount (s : State) : Nat := s.time.now / rodLen s
/-- Rod number, 48 bits (R303). -/
def rodNum (s : State) : Nat := rodCount s % 2 ^ 48
/-- Rod number of a stamp. -/
def rodOf (s : State) (t : Nat) : Nat := t / rodLen s % 2 ^ 48
/-- Rod era of a stamp (R303). -/
def eraOf (s : State) (t : Nat) : Nat := t / rodLen s / 2 ^ 48
/-- Position of the current rod within its furlong (R304). -/
def rodPos (s : State) : Nat := rodCount s % 40
/-- Count of the current furlong. -/
def furlongOf (s : State) : Nat := rodCount s / 40
/-- The first tick of a furlong (R304). -/
def atFurlong (s : State) : Bool := s.time.now % (40 * rodLen s) == 0
/-- The first time-domain clock of a rod (R179). -/
def atRodStart (s : State) : Bool := s.time.now % rodLen s < 4
/-- The settle interval of 0.5 µs in ticks (R323). -/
def settleTicks : Nat := 2000

/-- Serial comparison of w-bit values: a is at or after b (R318). -/
def atOrAfter (w a b : Nat) : Bool := (a % 2 ^ w + 2 ^ w - b % 2 ^ w) % 2 ^ w < 2 ^ (w - 1)
/-- a is after b (R318). -/
def after (w a b : Nat) : Bool := atOrAfter w a b && (a % 2 ^ w != b % 2 ^ w)
/-- a is before b (R318). -/
def before (w a b : Nat) : Bool := !atOrAfter w a b

/-- Distance from b forward to a, mod 2^w. -/
def dist (w a b : Nat) : Nat := (a % 2 ^ w + 2 ^ w - b % 2 ^ w) % 2 ^ w

/-- The rod count at which rod number n next occurs at or after base (R320). -/
def rodFrom (base n : Nat) : Nat := base + dist 48 n base

/-- The first furlong boundary, as a rod count, at or after rod count n. -/
def boundaryAt (n : Nat) : Nat := (n + 39) / 40 * 40

/-- The boundary at which an APPLY rod number takes effect (R306, R393): the first at or after it, or the next
boundary when it lies behind the current rod. A boundary in the current tick counts (R402). -/
def applyBoundary (s : State) (n : Nat) : Nat :=
  let here := if s.time.now % rodLen s = 0 then rodCount s else rodCount s + 1
  let want := if atOrAfter 48 n (rodNum s) then rodFrom (rodCount s) n else here
  boundaryAt (max want here)

/-- The first furlong boundary after now, as a rod count (R392 CREATE). -/
def nextBoundary (s : State) : Nat := boundaryAt (rodCount s + 1)

/-- Whether the boundary at rod count b has been reached. -/
def reached (s : State) (b : Nat) : Bool := b * rodLen s ≤ s.time.now

/-- Class of position p in a furlong plan (R306): 0 ANY, 1 SCORE, 2 TRAIN, 3 MAINT. -/
def planClass (plan p : Nat) : Nat := bits plan (2 * p) 2

/-- The last stamp in time for a deadline rod D, as a rod count (R322). -/
def deadlineStamp (s : State) (d : Nat) : Nat := (d + 1) * rodLen s - 4

/-- The last stamp in time for a deadline rod given as number and era (R322). -/
def deadlineStampEra (s : State) (rod era : Nat) : Nat := deadlineStamp s (era * 2 ^ 48 + rod)

/-- A stamp lies after the end of a rod given as era × 2^48 + rod, by serial comparison (R319, R322). -/
def rodPast (s : State) (d stamp : Nat) : Bool := before 64 d (stamp / rodLen s)

/-- The end of a rod with its era lies at least the settle interval back (R323). -/
def rodSettled (s : State) (d : Nat) : Bool := rodPast s d (s.time.now + 4 - settleTicks)

/-! ### Items (15 R441) -/

/-- The user value of an item as a number, or its factory default (Tables 15.4, 16.5; log 8). -/
def itemNat (s : State) (id dflt : Nat) : Nat := match tfind id s.boot.items with | some v => leNat v | none => dflt

/-! ### Events (10 R325, R326; 17 R493) -/

/-- Records the ring holds. -/
def ringSize : Nat := 65536

/-- No rood in byte 20. -/
abbrev noRood : Nat := 0xFF

/-- Log an event of a block, stamped now (R300): its record enters the ring, the oldest is overwritten when
the ring is full, and the source numbers its records (R326). -/
def logEv (block low rood payload : Nat) (s : State) : State :=
  let seq := tgetD block 0 s.events.seqs
  let e : Event := ⟨s.time.now, block, low + 256 * (block % 256), rood, severityOf block low, seq, payload % 2 ^ 64⟩
  let ring := s.events.ring ++ [e]
  let full := ringSize < ring.length
  { s with events := { s.events with
      ring := if full then ring.tail else ring
      lost := if full then satInc 32 s.events.lost else s.events.lost
      head := (s.events.head + 1) % 2 ^ 32
      seqs := tset block ((seq + 1) % 2 ^ 16) s.events.seqs } }

/-- Global event. -/
def logGlb (low rood payload : Nat) : State → State := logEv Blk.glb low rood payload

/-- Set a bit of GLB_ERR_STATUS (17 Table 17.10). -/
def raiseGlb (i : Nat) (s : State) : State := modGlb (fun g => { g with err := raise s.time.now g.err i }) s

/-- ADDR_UNMAPPED with its source (17 R499; 01 R31). -/
def logUnmapped (addr src rood : Nat) (s : State) : State :=
  let a := addr % 2 ^ 48
  let v := w64 (a + 2 ^ 48 * (src % 16) + 2 ^ 52 * (rood % 16) + 2 ^ 63)
  raiseGlb 0 (modGlb (fun g => { g with lastUnmapped := v })
    (logGlb 0x10 rood (packLe [(a, 6), (src, 1)]) s))

/-- Rood byte of an owner. -/
def roodByte (o : Option Nat) : Nat := o.getD noRood

/-- The CLU_ERR_STATUS bit that a cluster event sets (05 Table 5.16). -/
def cluErrBit (low : Nat) : Option Nat := if 1 ≤ low ∧ low ≤ 10 then some (low - 1) else none

/-- Cluster event of logical cluster c (05 R165): byte 24 the cluster, byte 25 the core or 0xFF. -/
def logCluster (c low core : Nat) (rest : Nat) (s : State) : State :=
  match s.clusters[c]? with
  | none => s
  | some k =>
    let s := logEv (Blk.cluster k.phys) low (roodByte k.rood) (packLe [(c, 1), (core, 1), (rest, 6)]) s
    match cluErrBit low with
    | none => s
    | some i => modCluster c (fun k => { k with err := raise s.time.now k.err i }) s

/-- Stack event; bit, if given, of STK_ERR_STATUS. -/
def logStack (t low : Nat) (bit : Option Nat) (rood payload : Nat) (s : State) : State :=
  let s := logEv (Blk.stack t) low rood payload s
  match bit with
  | none => s
  | some i => modStack t (fun k => { k with err := raise s.time.now k.err i }) s

/-- Firkin event (04 R127): byte 24 the physical engine, byte 25 the logical one, 0xFF for none; bit of
FRK_ERR_STATUS (Table 4.10). -/
def logFirkin (t low phys eng rood rest : Nat) (bit : Option Nat) (s : State) : State :=
  let s := logEv (Blk.stack t) low rood (packLe [(phys, 1), (eng, 1), (rest, 6)]) s
  match bit with
  | none => s
  | some i => modStack t (fun k => { k with frkErr := raise s.time.now k.frkErr i }) s

/-- Flash event with a bit of FLS_ERR_STATUS (07 Table 7.15). -/
def logFlash (low : Nat) (bit : Option Nat) (rood payload : Nat) (s : State) : State :=
  let s := logEv Blk.flash low rood payload s
  match bit with
  | none => s
  | some i => modFlash (fun k => { k with err := raise s.time.now k.err i }) s

/-- Set a bit of STR_ERR_STATUS (07 Table 7.18). -/
def raiseStr (i : Nat) (s : State) : State := modStreams (fun k => { k with err := raise s.time.now k.err i }) s

/-- Set a bit of FWC_ERR_STATUS. -/
def raiseFwc (i : Nat) (s : State) : State := modFwc (fun k => { k with err := raise s.time.now k.err i }) s

/-- Set a bit of SEC_ERR_STATUS (17 Table 17.11). -/
def raiseSec (i : Nat) (s : State) : State := modSec (fun k => { k with err := raise s.time.now k.err i }) s

/-- Set a bit of ETH_ERR_STATUS. -/
def raiseEth (i : Nat) (s : State) : State := modEth (fun k => { k with err := raise s.time.now k.err i }) s

/-- Set a bit of LNK_FAB_ERR (11). -/
def raiseFab (i : Nat) (s : State) : State := modFab (fun k => { k with err := raise s.time.now k.err i }) s

/-- Set a bit of ROOD_ERR_STATUS (13 Table 13.20). -/
def raiseRood (r i : Nat) (s : State) : State := modRood r (fun k => { k with err := raise s.time.now k.err i }) s

/-! ### Sync counters (06 R177) -/

/-- Counter i of rood r. -/
def ctrGet (r i : Nat) (s : State) : Counter :=
  match s.roods[r]? with
  | none => {}
  | some k => tgetD i {} k.counters

/-- Replace counter i of rood r; a counter at 0 with FAILED clear is unlisted. -/
def ctrPut (r i : Nat) (v : Counter) (s : State) : State :=
  modRood r (fun k => { k with counters := if v = {} then tdel i k.counters else tset i v k.counters }) s

/-- Count of the uncore clock, 1.1 GHz (01 Table 1.6). -/
def uncoreClock (s : State) : Nat := s.time.now * 11 / 40

/-- Value and FAILED of a counter as a wait tested in uncore clock k sees them: without the increments of that clock (R178). -/
def ctrSeen (k : Nat) (c : Counter) : Nat × Bool :=
  match c.late with
  | some (j, v, f) => if j = k then (v, f) else (c.value, c.failed)
  | none => (c.value, c.failed)

/-- Add n to a counter, and set FAILED if asked. -/
def ctrAdd (r i n : Nat) (failed : Bool) (s : State) : State :=
  let c := ctrGet r i s
  let b := ctrSeen (uncoreClock s) c
  ctrPut r i ⟨(c.value + n) % 2 ^ 32, c.failed || failed, some (uncoreClock s, b.1, b.2)⟩ s

/-! ### Memory of the module -/

/-- A byte of the scratchpads, banks and stacks; 0 where nothing is written (13 R403, log 9). -/
def rd8 (s : State) (a : Nat) : Byte := cellGet 0 a s.mem
/-- n bytes from address a. -/
def rdBytes (s : State) (a n : Nat) : List Byte := cellGets 0 a n s.mem
/-- A little-endian number of n bytes. -/
def rdLe (s : State) (a n : Nat) : Nat := leNat (rdBytes s a n)
/-- Write bytes from address a. -/
def wrBytes (a : Nat) (bs : List Byte) (s : State) : State := { s with mem := cellSetAll 0 a bs s.mem }
/-- Write a little-endian number of n bytes. -/
def wrLe (a n v : Nat) (s : State) : State := wrBytes a (leBytes n v) s
/-- Zero n bytes from address a. -/
def zeroMem (a n : Nat) (s : State) : State := { s with mem := cellClear a n s.mem }

/-! ### Device addresses (01 Table 1.5) -/

def scratchBase (c : Nat) : Nat := 0x000100000000 + c * 0x01000000
abbrev scratchSize : Nat := 0x01000000
def bankBase (c b : Nat) : Nat := 0x000120000000 + c * 0x00020000 + b * 0x10000
def stackBase (t : Nat) : Nat := 0x001000000000 + t * 0x001000000000
/-- 48 GiB used of each window. -/
abbrev stackSize : Nat := 0x000C00000000
/-- Start of the retirement reserve within a window (07 R208). -/
abbrev reserveOff : Nat := 0x000BFC000000
abbrev flashBase : Nat := 0x100000000000
abbrev flashSize : Nat := 0x008000000000
abbrev unit2M : Nat := 0x200000

/-- The instance of Table 1.5 that holds a whole range (R31). -/
inductive Place where
  | regs (off : Nat)
  | scratch (c off : Nat)
  | bank (c off : Nat)
  | stk (t off : Nat)
  | flash (off : Nat)
  | unmapped
  deriving DecidableEq, Repr

/-- Where the n bytes from a lie, wholly within one instance (R31). -/
def placeOf (a n : Nat) : Place :=
  let n := max n 1
  if a + n ≤ 0x10000000 then .regs a
  else if 0x000100000000 ≤ a ∧ a < 0x000110000000 then
    let o := a - 0x000100000000
    if o % 0x01000000 + n ≤ 0x01000000 then .scratch (o / 0x01000000) (o % 0x01000000) else .unmapped
  else if 0x000120000000 ≤ a ∧ a < 0x000120200000 then
    let o := a - 0x000120000000
    if o % 0x00020000 + n ≤ 0x00020000 then .bank (o / 0x00020000) (o % 0x00020000) else .unmapped
  else if 0x001000000000 ≤ a ∧ a < 0x009000000000 then
    let o := a - 0x001000000000
    if o % 0x001000000000 + n ≤ stackSize then .stk (o / 0x001000000000) (o % 0x001000000000) else .unmapped
  else if flashBase ≤ a ∧ a + n ≤ flashBase + flashSize then .flash (a - flashBase)
  else .unmapped

/-- The region of stack t that holds address a. -/
def regionAt (s : State) (a : Nat) : Option Region :=
  match placeOf a 1 with
  | .stk t _ =>
    match s.stks[t]? with
    | none => none
    | some k => (k.regions.find? fun r => r.2.start ≤ a ∧ a < r.2.start + r.2.len * unit2M).map (·.2)
  | _ => none

/-- Whether regions that satisfy p cover [a, e); at most fuel regions are walked. -/
def coverage (p : Region → Bool) (s : State) : Nat → Nat → Nat → Bool
  | 0, _, _ => false
  | fuel + 1, a, e =>
    match regionAt s a with
    | none => false
    | some r =>
      let stop := r.start + r.len * unit2M
      p r && (e ≤ stop || coverage p s fuel stop e)

/-- Whether regions that satisfy p cover the n bytes from a. -/
def covered (p : Region → Bool) (s : State) (a n : Nat) : Bool := coverage p s 257 a (a + max n 1)

/-- The base range entry of stack t, not FREE, that holds the n bytes from a: index and entry. -/
def lockAt (s : State) (a n : Nat) : Option (Nat × Nat × LockEntry) :=
  match placeOf a n with
  | .stk t _ =>
    match s.stks[t]? with
    | none => none
    | some k =>
      ((List.range k.locks.length).zip k.locks).findSome? fun (i, e) =>
        if e.st ≠ .free ∧ e.base ≤ a ∧ a + n ≤ e.base + e.size * unit2M then some (t, i, e) else none
  | _ => none

/-- An access by rood r: granted, refused as another's, or refused as unmapped (R30, R31). -/
inductive Grant where
  | ok | notOwned | unmapped
  deriving DecidableEq, Repr

/-- Whether logical cluster c is rood r's and present (R97, R169). -/
def ownsCluster (s : State) (r c : Nat) : Bool :=
  match s.clusters[c]? with
  | none => false
  | some k => k.rood == some r && k.mode != .absent

/-- Check rood r's access to the n bytes from a (R30, R31; 13 Table 13.1). A BASE range is read by every rood of
its READERS (04 R108, 07 R214). Registers are out of reach (R32). -/
def grant (s : State) (r a n : Nat) : Grant :=
  match placeOf a n with
  | .scratch c _ | .bank c _ => if ownsCluster s r c then .ok else .notOwned
  | .stk _ _ =>
    if !covered (fun _ => true) s a n then .unmapped
    else if covered (fun g => g.rood == r) s a n then .ok
    else
      match lockAt s a n with
      | some (_, _, e) => if e.readers.testBit r && (e.st == .locked || e.st == .releasing) then .ok else .notOwned
      | none => .notOwned
  | .flash _ => .ok
  | .regs _ => .unmapped
  | .unmapped => .unmapped

/-- The first of the ranges that a command names as a whole and that no region or range covers is logged (R31; log 71). -/
def logUncovered (r src : Nat) (rs : List (Nat × Nat)) (s : State) : State :=
  match rs.find? fun g => grant s r g.1 g.2 = .unmapped with
  | some g => logUnmapped g.1 src r s
  | none => s

/-! ### Bushels (07 R210 to R213) -/

/-- META_STRIDE by format code (Table 7.5). -/
def metaStride (fmt : Nat) : Nat :=
  if fmt ≤ 2 then 64 else if fmt = 7 then 512 else 256

/-- Sidecar bytes by format code (Table 7.5). -/
def sidecarBytes (fmt : Nat) : Nat :=
  if fmt ≤ 2 then 0 else if fmt = 7 then 256 else if fmt = 5 ∨ fmt = 6 then 170 else 128

/-- Most elements of a bushel by format code (Table 7.5). -/
def bushelElems (fmt : Nat) : Nat :=
  if fmt = 0 then 1024 else if fmt ≤ 2 then 2048
  else if fmt = 7 then 8192 else if fmt = 5 ∨ fmt = 6 then 5440 else 4096

/-- Scale slot stride in a scratchpad ring (Table 7.5). -/
def scaleSlot (fmt : Nat) : Nat :=
  if fmt ≤ 2 then 0 else if fmt = 3 ∨ fmt = 4 ∨ fmt = 8 then 128 else 256

/-- Bushels of a region with metadata (R210): as many as its length holds with their metadata. -/
def regionBushels (g : Region) : Nat :=
  if g.kind = 1 then 0 else g.len * unit2M / (4096 + metaStride g.fmt)

/-- The bushel of a region that holds data address a: its data address. -/
def bushelOf (g : Region) (a : Nat) : Option Nat :=
  let b := (a - g.start) / 4096
  if g.kind ≠ 1 ∧ g.start ≤ a ∧ b < regionBushels g then some (g.start + 4096 * b) else none

/-- The metadata of the bushel at data address a; POISON is set where nothing is written (13 R403). -/
def metaAt (s : State) (a : Nat) : Meta := tgetD a {} s.bushels

/-- Header bytes 0 to 55 (Table 7.6), POISON taken as given. -/
def headerBytes (m : Meta) (poison : Bool) : List Byte :=
  leBytes 1 (m.fmt % 16) ++ leBytes 1 (m.rood % 16 + if poison then 128 else 0) ++ leBytes 2 m.elements ++
  leBytes 4 m.tensorId ++ leBytes 4 m.rows ++ leBytes 4 m.cols ++ leBytes 6 m.first ++ leBytes 2 0 ++
  leBytes 4 m.version ++ leBytes 4 0 ++ leBytes 8 m.owner ++ leBytes 8 m.stamp ++ leBytes 8 0

/-- One bit step of the reflected CRC-64 of R213. -/
def crc64Step (c : Nat) : Nat := if c % 2 = 1 then c / 2 ^^^ 0xC96C5795D7870F42 else c / 2

/-- CRC-64 over bytes (R213): reflected polynomial 0x42F0E1EBA9EA3693, initial value and final XOR all ones. -/
def crc64 (bs : List Byte) : Nat :=
  let step (c : Nat) (b : Byte) : Nat :=
    crc64Step (crc64Step (crc64Step (crc64Step (crc64Step (crc64Step (crc64Step (crc64Step (c ^^^ b.toNat))))))))
  bs.foldl step (2 ^ 64 - 1) ^^^ (2 ^ 64 - 1)

/-- CHECKSUM of a bushel (R213). -/
def bushelCrc (m : Meta) (data : List Byte) : Nat :=
  crc64 (headerBytes m false ++ data ++ m.sidecar.take (sidecarBytes m.fmt))

/-- The bushel with its CHECKSUM computed. -/
def sealBushel (m : Meta) (data : List Byte) : Meta := { m with checksum := bushelCrc m data }

/-- Metadata from the header and sidecar of an image (07 R212, R214). -/
def metaOfImage (bs : List Byte) : Meta where
  fmt := field bs 0 1 % 16
  rood := field bs 1 1 % 16
  poison := (field bs 1 1).testBit 7
  elements := field bs 2 2
  tensorId := field bs 4 4
  rows := field bs 8 4
  cols := field bs 12 4
  first := field bs 16 6
  version := field bs 24 4
  owner := field bs 32 8
  stamp := field bs 40 8
  checksum := field bs 56 8
  sidecar := (bs.drop 64).take (sidecarBytes (field bs 0 1 % 16))

/-- Data bytes of an image form bushel: the last 4,096 (R214). -/
def dataOfImage (bs : List Byte) : List Byte := (bs.drop (bs.length - 4096)).take 4096

/-- The image form of a bushel: META_STRIDE bytes of metadata, then the data (R214). -/
def imageOf (m : Meta) (data : List Byte) : List Byte :=
  let hdr := headerBytes m m.poison ++ leBytes 8 m.checksum ++ m.sidecar
  hdr ++ List.replicate (metaStride m.fmt - hdr.length) 0 ++ data

/-- Place a whole bushel at data address a: data and metadata together (R215). -/
def putBushel (a : Nat) (m : Meta) (data : List Byte) (s : State) : State :=
  let s := wrBytes a data s
  { s with bushels := tset a m s.bushels }

/-! ### Stream rings in the scratchpads (07 R217, R218) -/

/-- Slots of a LOAD ring. -/
def ringSlots (b : StreamBody) : Nat := 2 ^ b.ringLog2 / 4096

/-- Whether [a, a + n) meets [b, b + m). -/
def meets (a n b m : Nat) : Bool := 0 < n && 0 < m && a < b + m && b < a + n

/-- Whether a context is a LOAD's. -/
def isLoad (x : Ctx) : Bool := x.body.op == 0

/-- Whether the range meets the ring or scale ring of a LOAD context not FREE (R218). -/
def onRing (s : State) (a n : Nat) : Bool :=
  s.streams.ctx.any fun e =>
    isLoad e.2 && (meets a n e.2.body.dstAddr (2 ^ e.2.body.ringLog2) ||
      meets a n e.2.body.scale (scaleSlot e.2.body.fmt * ringSlots e.2.body))

/-- What a read of ring lines meets (R218). -/
inductive RingRead where
  | ready | stall
  | poisoned (status : Nat)
  deriving DecidableEq, Repr

/-- The slots of context x whose data or scale lines the range meets. -/
def slotsMet (x : Ctx) (a n : Nat) : List Nat :=
  (List.range (ringSlots x.body)).filter fun i =>
    meets a n (x.body.dstAddr + 4096 * i) 4096 ||
      meets a n (x.body.scale + scaleSlot x.body.fmt * i) (scaleSlot x.body.fmt)

/-- What a read of the n bytes from a meets: an EMPTY slot stalls it, a POISONED one ends it (R218). -/
def ringRead (s : State) (a n : Nat) : RingRead :=
  match s.streams.poison.find? fun e => meets a n e.1 e.2.1 with
  | some e => .poisoned e.2.2
  | none =>
    if s.streams.ctx.any (fun e =>
        isLoad e.2 && (slotsMet e.2 a n).any (fun i => tfind i e.2.slots != some .filled))
    then .stall else .ready

/-- Context x with the data lines of the n bytes from a marked as read (R219). -/
def markCtx (a n : Nat) (x : Ctx) : Ctx :=
  if isLoad x && x.body.relCounter == false && meets a n x.body.dstAddr (2 ^ x.body.ringLog2) then
    let mark (t : Table Nat) (i : Nat) : Table Nat :=
      tset i (tgetD i 0 t ||| maskOf 64 fun l => meets a n (x.body.dstAddr + 4096 * i + 64 * l) 64) t
    { x with linesRead := (slotsMet x a n).foldl mark x.linesRead }
  else x

/-- Mark the data lines of the n bytes from a as read (R219). -/
def markRead (a n : Nat) (s : State) : State :=
  modStreams (fun k => { k with ctx := k.ctx.map fun e => (e.1, markCtx a n e.2) }) s

/-- A write to a scratchpad range ends the poison of slots it meets. -/
def clearPoison (a n : Nat) (s : State) : State :=
  modStreams (fun k => { k with poison := k.poison.filter fun e => !meets a n e.1 e.2.1 }) s

/-- A scratchpad write by anyone but the ring's stream: refused on an active ring, and logged (R218). -/
def scratchWrite (a : Nat) (bs : List Byte) (s : State) : Option State :=
  if onRing s a bs.length then none
  else some (wrBytes a bs (clearPoison a bs.length s))

/-- RING_WRITE_REFUSED (07 Table 7.15). -/
def logRingRefused (rood a : Nat) (s : State) : State :=
  raiseStr 3 (logGlb 0x22 rood (a % 2 ^ 48) s)

/-! ### Descriptors -/

/-- Set the outcome of descriptor d, unless it has one (R20: one final status); the higher-ranking code stays. -/
def finish (d status detail : Nat) (s : State) : State :=
  modDesc d (fun e =>
    match e.result with
    | none => { e with result := some ⟨status, detail, s.time.now⟩ }
    | some r =>
      if statusRank status < statusRank r.status then { e with result := some ⟨status, detail, r.stamp⟩ } else e) s

/-- QID of a descriptor, or 0xFFFF for a core queue (R196). -/
def srcQid : DescSource → Nat
  | .queue q => q
  | .core _ _ => 0xFFFF

/-- The core that issued a descriptor, or 0xFF. -/
def srcCore : DescSource → Nat
  | .queue _ => 0xFF
  | .core _ n => n

/-- The cluster that a descriptor runs on (06 Table 6.1). -/
def descCluster (e : Desc) : Option Nat :=
  match e.body, e.src with
  | .tun _, .core c _ => some c
  | .gill _, .core c _ => some c
  | .comb _, .core c _ => some c
  | .run _, _ => some e.hdr.target
  | .tun _, _ => some e.hdr.target
  | .k1 _, _ => some e.hdr.target
  | _, _ => none

/-- The units of the module (R174). -/
inductive UnitId where
  | cores (c : Nat)
  | tun (c : Nat)
  | gill (c n : Nat)
  | comb (c : Nat)
  | engine (t e : Nat)
  | streams
  | fabric
  | none
  deriving DecidableEq, Repr

/-- The unit a descriptor is bound for. -/
def unitOf (e : Desc) : UnitId :=
  match e.body with
  | .run _ => .cores e.hdr.target
  | .tun _ => .tun ((descCluster e).getD 0)
  | .gill _ => match e.src with | .core c n => .gill c n | .queue _ => .none
  | .comb _ => .comb ((descCluster e).getD 0)
  | .firkin b => match placeOf b.wAddr 1 with | .stk t _ => .engine t b.engine | _ => .none
  | .stream _ => .streams
  | .xfer _ => .fabric
  | _ => .none

/-- Whether the descriptor is bound for this cluster (R97, R161). -/
def onCluster (c : Nat) (e : Desc) : Bool := descCluster e == some c

/-- The slice that holds a PID. -/
def sliceOfPid (s : State) (pid : Nat) : Option (Nat × Slice) :=
  s.slices.find? fun e => e.2.pid == pid

end Sys2Proof.Machine
end

