-- ==== Sys2Proof/Machine/Flags.lean ====
section
/-! DEFINITION. The arithmetic exception counters: what a result or a conversion adds to them (05 R160). -/
namespace Sys2Proof.Machine

/-- What a stored conversion adds to the counters of R160. -/
structure Tally where
  invalid : Nat := 0
  ovf : Nat := 0
  sat : Nat := 0
  deriving DecidableEq, Repr

def Tally.add (a b : Tally) : Tally := ⟨a.invalid + b.invalid, a.ovf + b.ovf, a.sat + b.sat⟩

/-- Add a tally to a cluster's counters (R160). -/
def countTally (c : Nat) (t : Tally) (s : State) : State :=
  modCluster c (fun k => { k with
    invalid := satAdd 64 k.invalid t.invalid, ovf := satAdd 64 k.ovf t.ovf, sat := satAdd 64 k.sat t.sat }) s

/-- The tally of conversions. -/
def convTally (cs : List Conv) : Tally :=
  ⟨0, (cs.filter (·.ovf)).length, (cs.filter (·.sat)).length⟩

/-- Counters of one FP32 result: NaN from operands none of which is NaN, infinity from finite operands (R160). -/
def f32Tally (r : F32) (ops : List Val) : Tally :=
  let v := decodeF32 r
  ⟨if v.isNaN && !(ops.any Val.isNaN) then 1 else 0,
   match v with | .inf _ => (if ops.all Val.isFin then 1 else 0) | _ => 0, 0⟩

end Sys2Proof.Machine
end

