-- ==== Sys2Proof/Machine/Descriptor.lean ====
section
/-! DEFINITION. Work descriptors: their fields, what makes one malformed, and the ranges they name (06 R166 to
R169, R175, R183, R188 to R192, R200; 07 R205, R206, R215, R217; 11 R344). -/
namespace Sys2Proof.Machine

/-! ### Fields -/

/-- The header (06 Table 6.2). -/
def hdrOf (bs : List Byte) : DescHdr where
  kind := field bs 0 1
  flags := field bs 1 1
  target := field bs 2 1 % 16
  cls := field bs 3 1 % 4
  pid := field bs 4 4 % 2 ^ 20
  tag := field bs 8 4
  depA := field bs 12 2
  depB := field bs 14 2
  waitCtr := field bs 16 1
  signalCtr := field bs 17 1
  deadlineRods := field bs 18 2
  waitValue := field bs 20 4
  place := field bs 24 6

/-- FLAGS (06 Table 6.3). -/
def DescHdr.ordered (h : DescHdr) : Bool := h.flags.testBit 0
def DescHdr.waitEn (h : DescHdr) : Bool := h.flags.testBit 1
def DescHdr.signalEn (h : DescHdr) : Bool := h.flags.testBit 2
def DescHdr.atRod (h : DescHdr) : Bool := h.flags.testBit 3
def DescHdr.quiet (h : DescHdr) : Bool := h.flags.testBit 4
/-- A placed descriptor (R179). -/
def DescHdr.placed (h : DescHdr) : Bool := h.atRod || h.cls != 0

/-- Bits of a word of n bytes at offset o. -/
def fbits (bs : List Byte) (o n lo k : Nat) : Nat := bits (field bs o n) lo k
/-- One bit of the byte at offset o. -/
def fbit (bs : List Byte) (o i : Nat) : Bool := (field bs o 1).testBit i

def runOf (bs : List Byte) : RunBody :=
  ⟨fbits bs 32 4 0 24, fbits bs 36 1 0 4, field bs 40 8, field bs 48 8⟩

def tunOf (bs : List Byte) : TunBody where
  aAddr := fbits bs 32 4 0 24
  aFmt := fbits bs 32 4 24 4
  aTurn := fbit bs 35 4
  bAddr := fbits bs 36 4 0 24
  bFmt := fbits bs 36 4 24 4
  bTurn := fbit bs 39 4
  aScale := fbits bs 40 4 0 24
  bScale := fbits bs 44 4 0 24
  aStride := fbits bs 48 4 0 24
  bStride := fbits bs 52 4 0 24
  initAddr := fbits bs 56 4 0 24
  initLoad := fbit bs 59 0
  bank := fbits bs 56 4 25 1
  endAct := fbits bs 56 4 26 2
  outAddr := fbits bs 60 4 0 24
  outFmt := fbits bs 60 4 24 4
  outRnd := fbits bs 60 4 28 2
  outScsel := fbits bs 60 4 30 1
  outStride := fbits bs 64 4 0 24
  m := field bs 68 1
  n := field bs 69 1
  k := field bs 70 2 + 1
  gather := fbits bs 72 1 0 2
  width := 8 * 2 ^ fbits bs 72 1 2 2
  rowmap := fbits bs 76 4 0 24
  seed := field bs 80 8
  step := field bs 88 8
  tensorId := field bs 96 4
  tensorCols := field bs 100 4
  row0 := field bs 104 4
  col0 := field bs 108 4

def firkinOf (bs : List Byte) : FirkinBody where
  wAddr := field bs 32 6
  wFmt := fbits bs 38 1 0 4
  bwd := fbit bs 38 4
  initLoad := fbit bs 38 5
  engine := fbits bs 38 1 6 2
  b := field bs 39 1
  j := field bs 40 2 + 1
  kp := field bs 42 2 + 1
  wStride := field bs 44 4
  xAddr := field bs 48 6
  xFmt := fbits bs 54 1 0 4
  xScale := field bs 56 6
  xStride := field bs 64 4
  initAddr := field bs 68 6
  shard := fbits bs 74 1 0 6
  shards := fbits bs 75 1 0 6 + 1
  outStride := field bs 76 4
  outAddr := field bs 80 6

def gillOf (bs : List Byte) : GillBody where
  op := field bs 32 1
  dir := fbits bs 33 1 0 2
  sumSlot := fbits bs 33 1 2 2
  sumEn := fbit bs 33 4
  keep := fbit bs 33 5
  rnd := fbits bs 34 1 0 2
  scsel := fbits bs 34 1 2 1
  dst := field bs 36 4
  srcA := field bs 40 4
  srcB := field bs 44 4
  srcC := field bs 48 4
  len := fbits bs 52 4 0 24
  rows := field bs 56 2
  cols := field bs 58 2
  rowStride := fbits bs 60 4 0 24
  scaleSrc := field bs 64 4
  scaleDst := fbits bs 68 4 0 24
  seed := field bs 72 8
  step := field bs 80 8
  tensorId := field bs 88 4
  index0 := field bs 92 6
  tensorCols := field bs 100 4

def combOf (bs : List Byte) : CombBody where
  entry := fbits bs 32 1 0 4
  s := fbits bs 33 1 0 7
  sumSlot := fbits bs 34 1 0 2
  sumEn := fbit bs 34 2
  slotBase := fbits bs 36 4 0 24
  slotStride := fbits bs 40 4 0 24
  tileBytes := fbits bs 44 4 0 24
  dest := fbits bs 48 4 0 24
  dlRod := field bs 52 6
  dlEra := field bs 58 2

def streamOf (bs : List Byte) : StreamBody where
  op := fbits bs 32 1 0 2
  srcTier := fbits bs 32 1 2 2
  dstTier := fbits bs 32 1 4 2
  relCounter := fbit bs 32 6
  checkVersion := fbit bs 32 7
  fmt := fbits bs 33 1 0 4
  flashWin := fbits bs 33 1 4 4
  relCtr := field bs 34 1
  ringLog2 := fbits bs 35 1 0 5
  bushels := field bs 36 4
  srcAddr := field bs 40 6
  dstAddr := field bs 48 6
  scale := field bs 56 6
  ahead := field bs 64 4
  rate := field bs 68 4
  version := field bs 72 4
  tensorId := field bs 76 4
  rows := field bs 80 4
  cols := field bs 84 4
  first := field bs 88 6
  storeQp := field bs 96 2
  rkey := field bs 100 4
  remoteAddr := field bs 104 8

def xferOf (bs : List Byte) : XferBody where
  op := fbits bs 32 1 0 2
  ordered := fbit bs 32 2
  signal := fbit bs 32 3
  noDetour := fbit bs 32 4
  dstRood := fbits bs 33 1 0 4
  dst := fbits bs 34 2 0 12
  signalCtr := field bs 36 1
  localAddr := field bs 40 6
  remoteAddr := field bs 48 6
  bytes := field bs 56 4
  cluster := fbits bs 60 1 0 4
  entry := fbits bs 60 1 4 4
  shard := fbits bs 61 1 0 6
  target := fbits bs 61 1 6 1
  s := fbits bs 62 1 0 7
  bind := field bs 63 1
  dlRod := field bs 64 6
  dlEra := field bs 70 2

def k1Of (bs : List Byte) : K1Body where
  gather := fbit bs 32 0
  p := fbits bs 33 1 0 4
  myshard := fbits bs 34 1 0 3
  wFmt := fbits bs 35 1 0 4
  xFmt := fbits bs 35 1 4 4
  wAddr := field bs 36 6
  j := field bs 44 2 + 1
  kp := field bs 46 2 + 1
  b := field bs 48 1
  combEntry := fbits bs 49 1 0 4
  wStride := field bs 52 4
  xAddr := fbits bs 56 4 0 24
  xScale := fbits bs 60 4 0 24
  xStride := fbits bs 64 4 0 24
  outAddr := fbits bs 68 4 0 24
  outStride := fbits bs 72 4 0 24
  peers := (List.range 8).map fun q => bits (field bs 76 12) (12 * q) 12

/-- The body by kind, from a source that Table 6.1 allows; otherwise unknown (R166). -/
def bodyOf (bs : List Byte) (core : Bool) : Body :=
  let k := field bs 0 1
  if k = 0x01 then (if core then .unknown else .run (runOf bs))
  else if k = 0x02 then .tun (tunOf bs)
  else if k = 0x03 then .firkin (firkinOf bs)
  else if k = 0x04 then (if core then .gill (gillOf bs) else .unknown)
  else if k = 0x05 then (if core then .comb (combOf bs) else .unknown)
  else if k = 0x06 then .stream (streamOf bs)
  else if k = 0x07 then .xfer (xferOf bs)
  else if k = 0x08 then .sync
  else if k = 0x0A then .k1 (k1Of bs)
  else .unknown

/-! ### Reserved bits (R167) -/

/-- Bits that a field may hold: offset, bytes, mask. -/
abbrev FieldMask := Nat × Nat × Nat

/-- The header's fields; a core-issued descriptor's bytes 4 to 7 are replaced, not checked (R168). -/
def hdrMask (core : Bool) : List FieldMask :=
  [(0, 1, 0xFF), (1, 1, 0x1F), (2, 1, 0x0F), (3, 1, 0x03), (4, 4, if core then 0xFFFFFFFF else 0xFFFFF), (8, 4, 0xFFFFFFFF),
   (12, 4, 0xFFFFFFFF), (16, 4, 0xFFFFFFFF), (20, 4, 0xFFFFFFFF), (24, 6, 0xFFFFFFFFFFFF)]

/-- The body's fields by kind (Tables 6.7 to 6.9, 6.12, 6.13, 6.16, 7.1, 11.9a). -/
def bodyMask : Body → List FieldMask
  | .run _ => [(32, 4, 0xFFFFFF), (36, 1, 0x0F), (40, 8, 0xFFFFFFFFFFFFFFFF), (48, 8, 0xFFFFFFFFFFFFFFFF)]
  | .tun _ =>
    [(32, 4, 0x1FFFFFFF), (36, 4, 0x1FFFFFFF), (40, 4, 0xFFFFFF), (44, 4, 0xFFFFFF), (48, 4, 0xFFFFFF),
     (52, 4, 0xFFFFFF), (56, 4, 0x0FFFFFFF), (60, 4, 0x7FFFFFFF), (64, 4, 0xFFFFFF), (68, 4, 0xFFFFFFFF), (72, 1, 0x0F),
     (76, 4, 0xFFFFFF), (80, 8, 0xFFFFFFFFFFFFFFFF), (88, 8, 0xFFFFFFFFFFFFFFFF), (96, 8, 0xFFFFFFFFFFFFFFFF),
     (104, 8, 0xFFFFFFFFFFFFFFFF)]
  | .firkin _ =>
    [(32, 8, 0xFFFFFFFFFFFFFFFF), (40, 8, 0xFFFFFFFFFFFFFFFF), (48, 7, 0x0FFFFFFFFFFFFF), (56, 6, 0xFFFFFFFFFFFF),
     (64, 4, 0xFFFFFFFF), (68, 6, 0xFFFFFFFFFFFF), (74, 2, 0x3F3F), (76, 4, 0xFFFFFFFF), (80, 6, 0xFFFFFFFFFFFF)]
  | .gill b =>
    [(32, 1, 0xFF), (33, 1, if b.op = 0x22 then 0x3F else 0x1F), (34, 1, 0x07), (36, 8, 0xFFFFFFFFFFFFFFFF),
     (44, 8, 0xFFFFFFFFFFFFFFFF), (52, 4, 0xFFFFFF), (56, 4, 0xFFFFFFFF), (60, 4, 0xFFFFFF),
     (64, 4, if b.op = 0x22 then 0xFFFFFFFF else 0xFFFFFF), (68, 4, 0xFFFFFF), (72, 8, 0xFFFFFFFFFFFFFFFF),
     (80, 8, 0xFFFFFFFFFFFFFFFF), (88, 4, 0xFFFFFFFF), (92, 6, 0xFFFFFFFFFFFF), (100, 4, 0xFFFFFFFF)]
  | .comb _ =>
    [(32, 1, 0x0F), (33, 1, 0x7F), (34, 1, 0x07), (36, 4, 0xFFFFFF), (40, 4, 0xFFFFFF), (44, 4, 0xFFFFFF),
     (48, 4, 0xFFFFFF), (52, 8, 0xFFFFFFFFFFFFFFFF)]
  | .stream _ =>
    [(32, 4, 0x1FFFFFFF), (36, 4, 0xFFFFFFFF), (40, 6, 0xFFFFFFFFFFFF), (48, 6, 0xFFFFFFFFFFFF), (56, 6, 0xFFFFFFFFFFFF),
     (64, 8, 0xFFFFFFFFFFFFFFFF), (72, 8, 0xFFFFFFFFFFFFFFFF), (80, 8, 0xFFFFFFFFFFFFFFFF), (88, 6, 0xFFFFFFFFFFFF),
     (96, 2, 0xFFFF), (100, 4, 0xFFFFFFFF), (104, 8, 0xFFFFFFFFFFFFFFFF)]
  | .xfer _ =>
    [(32, 1, 0x1F), (33, 1, 0x0F), (34, 2, 0x0FFF), (36, 1, 0xFF), (40, 6, 0xFFFFFFFFFFFF), (48, 6, 0xFFFFFFFFFFFF),
     (56, 4, 0xFFFFFFFF), (60, 4, 0xFF7F7FFF), (64, 8, 0xFFFFFFFFFFFFFFFF)]
  | .sync => []
  | .k1 _ =>
    [(32, 4, 0xFF070F01), (36, 6, 0xFFFFFFFFFFFF), (44, 4, 0xFFFFFFFF), (48, 2, 0x0FFF), (52, 4, 0xFFFFFFFF),
     (56, 4, 0xFFFFFF), (60, 4, 0xFFFFFF), (64, 4, 0xFFFFFF), (68, 4, 0xFFFFFF), (72, 4, 0xFFFFFF), (76, 8, 0xFFFFFFFFFFFFFFFF),
     (84, 4, 0xFFFFFFFF)]
  | .unknown => [(32, 96, 2 ^ 768 - 1)]

/-- A record with exactly the bits of the fields set. -/
def maskNat (fs : List FieldMask) : Nat := fs.foldl (fun v f => v ||| f.2.2 * 2 ^ (8 * f.1)) 0

/-- The lowest byte that holds a reserved bit that is set (log 20). -/
def resvBad (bs : List Byte) (fs : List FieldMask) : Option Nat :=
  let m := maskNat fs
  (List.range 128).find? fun i => field bs i 1 &&& (255 - bits m (8 * i) 8) != 0

/-! ### Operand words of Gill (06 Table 6.10) -/

def opAddr (w : Nat) : Nat := bits w 0 24
def opFmt (w : Nat) : Nat := bits w 24 4
def opSpace (w : Nat) : Nat := bits w 28 2
def opForm (w : Nat) : Nat := bits w 30 2

/-- A word that breaks the pairings or holds a value its space does not have. -/
def opBad (w : Nat) : Bool :=
  let a := opAddr w
  let f := opFmt w
  (opSpace w == 0 && (8 ≤ a || f != 0)) ||
  (opSpace w == 1 && !fmtOk f) ||
  (opSpace w == 2 && (0x20000 ≤ a || f != 0 || a % 4 != 0)) ||
  (opSpace w == 3 && (64 ≤ a || 2 < f)) ||
  ((opForm w == 1) != (opSpace w == 3)) ||
  ((opForm w == 2 || opForm w == 3) && opSpace w != 0)

/-- Operation codes that exist (Table 6.11). -/
def gillOpOk (op : Nat) : Bool :=
  (1 ≤ op && op ≤ 0x14) || (0x18 ≤ op && op ≤ 0x1D) || (0x20 ≤ op && op ≤ 0x22)
def isReduction (op : Nat) : Bool := 0x18 ≤ op && op ≤ 0x1D
abbrev opRelease : Nat := 0x21
abbrev opSpill : Nat := 0x22

/-- Sources that an operation uses. -/
def gillSrcCount (op : Nat) : Nat :=
  if op = 0x07 ∨ op = 0x0F then 3
  else if op ∈ [0x04, 0x05, 0x06, 0x0A, 0x0B, 0x0C, 0x0D, 0x0E] then 2
  else 1

/-- The source words used, with their offsets. -/
def gillSrcs (b : GillBody) : List (Nat × Nat) :=
  [(b.srcA, 40), (b.srcB, 44), (b.srcC, 48)].take (gillSrcCount b.op)

/-- The words used, DST included; RELEASE uses no DST (R190). -/
def gillWords (b : GillBody) : List (Nat × Nat) :=
  if b.op = opRelease then gillSrcs b else (b.dst, 36) :: gillSrcs b

/-- Cells from the first one that a bank operand reads: its bank offset, rows, columns (R144). -/
def bankShape (b : GillBody) : Nat × Nat :=
  if b.rows = 0 ∧ b.cols = 0 then (1, b.len) else (b.rows, b.cols)

/-- Whether a bank operand leaves its bank or its tile leaves the columns (R144). A tile with no row or no column reads no
cell, and leaves the columns only where its columns do. -/
def bankBad (b : GillBody) (w : Nat) : Bool :=
  let cell := opAddr w % 0x10000 / 4
  if b.rows = 0 ∧ b.cols = 0 then 16384 < cell + b.len
  else
    128 < cell % 128 + b.cols ||
      (b.rows != 0 && b.cols != 0 && 16384 < cell + (b.rows - 1) * 128 + b.cols)

/-- Rows, columns and row stride of a Gill scratchpad operand (05 R134): packed with ROW_STRIDE 0, or where ROWS ×
COLS is not LEN (log 21). -/
def gillLay (b : GillBody) : Nat × Nat × Nat :=
  if b.rowStride ≠ 0 ∧ b.rows * b.cols = b.len then (b.rows, b.cols, b.rowStride) else (1, b.len, 0)

/-- Results of a reduction (05 R138). -/
def reduceCount (b : GillBody) : Nat := if b.dir = 2 then b.rows else if b.dir = 3 then b.cols else 1

/-- Index of the last element of an SR store (R134, R143, R56): of a SPILL's tile, of a reduction's packed results, of rows,
or of a packed sequence. -/
def gillLastIndex (b : GillBody) : Nat :=
  let l := gillLay b
  if b.op = opSpill then b.index0 + (b.rows - 1) * b.scaleSrc + b.cols - 1
  else if isReduction b.op then b.index0 + reduceCount b - 1
  else b.index0 + (l.1 - 1) * (if b.tensorCols = 0 then b.cols else b.tensorCols) + l.2.1 - 1

/-- The lowest offset of the fields that fix that index (R196): ROWS of a tile, of rows and of a reduction in direction ROW,
COLS in direction COL, INDEX0 of a single result, LEN of a packed sequence. -/
def gillIndexAt (b : GillBody) : Nat :=
  if b.op = opSpill then 56
  else if isReduction b.op then (if b.dir = 2 then 56 else if b.dir = 3 then 58 else 92)
  else if (gillLay b).2.2 ≠ 0 then 56 else 52

/-! ### What makes a body malformed -/

/-- Pairs that Tun takes (03 R69, Table 3.1). -/
def tunPairOk (a b : Nat) : Bool := fmtOk a && fmtOk b && a != 0 && b != 0

/-- The least of the offsets whose condition holds. -/
def lowest (cs : List (Bool × Nat)) : Option Nat :=
  cs.foldl (fun m c => if c.1 then some (match m with | none => c.2 | some v => min v c.2) else m) none

/-- The cores that a RUN names. -/
def runCores (b : RunBody) : List Nat := (List.range 4).filter fun n => b.cores.testBit n

/-- RUN (R192). -/
def runBad (b : RunBody) : List (Bool × Nat) := [(b.cores == 0, 36)]

/-- SSTRIDE of a row stride (02 R526). -/
def sstride (fmt stride : Nat) : Nat := if fmt = 5 ∨ fmt = 6 ∨ fmt = 7 then stride / 16 else stride / 32

/-- Ranges of an operand of stored rows: rows rows of n elements (02 R526): address and bytes. -/
def rowRanges (fmt addr scale stride rows n : Nat) : List (Nat × Nat) :=
  let blocks := (n + 31) / 32
  let bytes := if isMx fmt then packedBytes fmt (32 * blocks) else packedBytes fmt n
  let scales := if isMx fmt then [(scale, (rows - 1) * sstride fmt stride + blocks)] else []
  (addr, (rows - 1) * stride + bytes) :: scales

/-- Ranges of a Tun operand: elements, then scales. -/
def tunOperand (fmt addr scale stride : Nat) (turn : Bool) (n k : Nat) : List (Nat × Nat) :=
  if turn then rowRanges fmt addr scale stride k n else rowRanges fmt addr scale stride n k

/-- Ranges of the A and of the B operand of a Tun pass, as scratchpad offsets (03 R71, R89). -/
def tunOperandA (b : TunBody) : List (Nat × Nat) :=
  tunOperand b.aFmt b.aAddr b.aScale b.aStride b.aTurn b.m (if b.gather = 2 then b.width else b.k)
def tunOperandB (b : TunBody) : List (Nat × Nat) := tunOperand b.bFmt b.bAddr b.bScale b.bStride b.bTurn b.n b.k

/-- Operand i's element range (0) or sidecar (1) leaves the scratchpad of the pass's cluster (03 R70). -/
def leavesScratch (l : List (Nat × Nat)) (i : Nat) : Bool :=
  match l[i]? with
  | some r => scratchSize < r.1 + r.2
  | none => false

/-- TUN_PASS (03 R69, R70, R73, R76, R87; 06 R188). An operand that leaves the scratchpad gives the offset of its address
word, a sidecar that of its scale address (log 63). -/
def tunBad (b : TunBody) : List (Bool × Nat) :=
  [(leavesScratch (tunOperandA b) 0, 32), (leavesScratch (tunOperandB b) 0, 36), (leavesScratch (tunOperandA b) 1, 40),
   (leavesScratch (tunOperandB b) 1, 44),
   (!fmtOk b.aFmt || b.aFmt == 0, 32), (!fmtOk b.bFmt || b.bFmt == 0, 36), (b.aTurn && b.bTurn, 32),
   (b.aStride % 64 != 0, 48), (b.bStride % 64 != 0, 52), (b.endAct == 3, 56), (!fmtOk b.outFmt || b.outRnd == 3, 60),
   (b.outStride % 64 != 0, 64), (b.m == 0 || 128 < b.m, 68), (b.n == 0 || 128 < b.n, 69), (32768 < b.k, 70),
   (b.gather == 3, 72),
   (b.outRnd == 2 && 2 ^ 48 ≤ (b.row0 + b.m - 1) * b.tensorCols + b.col0 + b.n - 1, 68)]

/-- Data bytes that a bushel of the format uses (07 Table 7.5). -/
def bushelUsed (fmt : Nat) : Nat := if fmt = 5 ∨ fmt = 6 then 4080 else 4096

/-- Address of packed byte i of a row of weights that starts at a: the row goes on in the next bushel's used bytes
(07 R211). -/
def weightByte (a fmt i : Nat) : Nat :=
  let u := a % 4096 + i
  (a / 4096 + u / bushelUsed fmt) * 4096 + u % bushelUsed fmt

/-- Bytes from the first weight byte of a panel to its last. -/
def panelSpan (a j stride fmt kp : Nat) : Nat := weightByte (a + (j - 1) * stride) fmt (packedBytes fmt kp - 1) + 1 - a

/-- Whether the address lies in a scratchpad. -/
def inScratch (a : Nat) : Bool := match placeOf a 1 with | .scratch _ _ => true | _ => false

/-- Output columns and bytes of a Firkin row. -/
def firkinCols (b : FirkinBody) : Nat := if b.bwd then b.kp else b.j
/-- Bytes from the first output byte to the last (R109). -/
def firkinSpan (b : FirkinBody) : Nat := (b.b - 1) * b.outStride + 4 * firkinCols b

/-- FIRKIN_PASS (04 R99, R101, R109, R111). An OUT range that overlaps the INIT range gives the offset of B, as the product
limit does (log 63). -/
def firkinBad (b : FirkinBody) : List (Bool × Nat) :=
  let panel := panelSpan b.wAddr b.j b.wStride b.wFmt b.kp
  let oneStack := match placeOf b.wAddr panel with | .stk _ _ => true | _ => false
  [(b.wAddr % 64 != 0, 32), (!oneStack, 32), (!isMx b.wFmt, 38), (b.b == 0 || 128 < b.b, 39),
   (262144 < b.b * firkinCols b, 39), (b.kp % 32 != 0, 42), (b.wStride % 64 != 0, 44),
   (!fmtOk b.xFmt || b.xFmt == 0, 54), (b.xStride % 64 != 0, 64), (b.outStride % 64 != 0, 76),
   (b.initLoad && meets b.outAddr (firkinSpan b) b.initAddr (firkinSpan b), 39), (!inScratch b.xAddr, 48),
   (isMx b.xFmt && !inScratch b.xScale, 56), (b.initLoad && !inScratch b.initAddr, 68), (!inScratch b.outAddr, 80)]

/-- GILL_OP (05 R132, R134, R144, R152; 06 R190). A DST word with FORM ROW or COL is malformed at 36, and a row stride that is
not a multiple of 64 is so for SPILL alone (log 63). DEDUCED: the vector register that takes a ROW or COL reduction holds one result
per row or column and is limited by R152 at 56 or 58, not by LEN, as the worked example of 05 (SUMSQ ROW of 163,840 elements into
VR0) shows (log 63). -/
def gillBad (b : GillBody) : List (Bool × Nat) :=
  let ws := gillWords b
  let forms := ws.map fun w => opForm w.1
  let tile := (b.rows != 0 || b.cols != 0) && (gillSrcs b).any fun w => opSpace w.1 == 2
  let tile := tile && b.op != opRelease && b.op != opSpill
  let mxs := (gillSrcs b).filter fun w => opSpace w.1 == 1 && isMx (opFmt w.1)
  let reg := opSpace b.dst == 0
  if !gillOpOk b.op then [(true, 32)]
  else
    [(isReduction b.op != (b.dir != 0), 33), (b.sumEn && b.op == opRelease, 33), (b.rnd == 3, 34),
     (1 < mxs.length, (mxs.map (·.2)).headD 40),
     (b.op != opRelease && (1 < opSpace b.dst || opForm b.dst != 0), 36),
     (512 < b.len && ws.any (fun w => opSpace w.1 == 0 && opForm w.1 == 0 && !(w.2 == 36 && (b.dir == 2 || b.dir == 3))), 52),
     ((b.dir == 2 || b.dir == 3 || forms.any (fun f => f == 2 || f == 3) || tile) && b.rows * b.cols != b.len, 52),
     (512 < b.rows && (forms.any (· == 2) || (b.dir == 2 && reg)), 56),
     (512 < b.cols && (forms.any (· == 3) || (b.dir == 3 && reg)), 58),
     ((b.op == opRelease || b.op == opSpill) && (opSpace b.srcA != 2 || opForm b.srcA != 0), 40),
     (b.op == opSpill && opSpace b.dst != 1, 36), (b.op == opSpill && (b.rows == 0 || 128 < b.rows), 56),
     (b.op == opSpill && (b.cols == 0 || 128 < b.cols), 58), (b.op == opSpill && b.rowStride % 64 != 0, 60),
     (b.rnd == 2 && opSpace b.dst == 1 && b.op != opRelease && 2 ^ 48 ≤ gillLastIndex b,
       gillIndexAt b)] ++
    ws.map (fun w => (opBad w.1, w.2)) ++
    (if b.op = opRelease ∨ b.op = opSpill then []
     else (gillSrcs b).map fun w => (opSpace w.1 == 2 && bankBad b w.1, w.2))

/-- COMB_ARM (05 R145; 06 R183). That the entry is FREE is tested when it is armed. -/
def combBad (h : DescHdr) (b : CombBody) : List (Bool × Nat) :=
  [(h.deadlineRods != 0, 18), (b.s == 0 || 64 < b.s, 33), (b.slotStride % 64 != 0, 40),
   (b.slotStride < b.tileBytes, 40), (b.tileBytes == 0 || b.tileBytes % 4 != 0, 44),
   (scratchSize < b.slotBase + (b.s - 1) * b.slotStride + b.tileBytes, 33), (scratchSize < b.dest + b.tileBytes, 44)]

/-- Operations and tiers of a STREAM (07 Table 7.2). -/
def streamTiersOk (op src dst : Nat) : Bool :=
  (op, src, dst) ∈ [(0, 1, 0), (0, 2, 0), (1, 0, 1), (1, 0, 2), (2, 1, 1), (2, 1, 2), (2, 2, 1), (2, 3, 1)]

/-- Whether the ring of a LOAD begins in the scratchpad of a cluster of rood r (07 R217). -/
def ringOwned (s : State) (r : Nat) (b : StreamBody) : Bool :=
  match placeOf b.dstAddr 1 with
  | .scratch c _ => (match s.clusters[c]? with | some k => k.rood == some r | none => false)
  | _ => false

/-- STREAM (07 R206, R215, R217, Table 7.1); raw: the LOAD's source lies in a RAW region; own: its ring lies in a cluster of
the rood. -/
def streamBad (b : StreamBody) (raw own : Bool) : List (Bool × Nat) :=
  let ring := 2 ^ b.ringLog2
  let scales := scaleSlot b.fmt * ringSlots b
  let cluster (a n : Nat) : Option Nat := match placeOf a n with | .scratch c _ => some c | _ => none
  [(!streamTiersOk b.op b.srcTier b.dstTier, 32), (b.op != 2 && !fmtOk b.fmt, 33), (b.bushels == 0, 36),
   (b.ahead % 4096 != 0, 64)] ++
  (if b.op ≠ 0 then []
   else
    [(b.ringLog2 < 12 || 23 < b.ringLog2, 35), (b.dstAddr % ring != 0, 35), ((cluster b.dstAddr ring).isNone, 35), (!own, 35),
     (isMx b.fmt && b.scale % scales != 0, 33), (isMx b.fmt && cluster b.scale scales != cluster b.dstAddr ring, 33),
     (ring < b.ahead, 35), (raw && 2 < b.fmt, 33)])

/-- XFER (11 R344). -/
def xferBad (b : XferBody) : List (Bool × Nat) :=
  [(b.op == 3, 32), (b.localAddr ≤ 0x0FFFFFFF, 40),
   (if b.op = 2 then b.remoteAddr != 0 else b.remoteAddr ≤ 0x0FFFFFFF, 48),
   (b.bytes % 64 != 0 || b.bytes < 64 || 2 ^ 31 < b.bytes, 56)]

/-- K1_SPLIT (06 R200, Table 6.16); pos is this module's position. That COMB_ENTRY is FREE is tested at the start. Formats of
no product and a MYSHARD that no module of the split has are malformed as well (log 63). -/
def k1Bad (h : DescHdr) (b : K1Body) (pos : Nat) : List (Bool × Nat) :=
  [(b.p < 2 || 8 < b.p, 33), (b.peers.getD b.myshard 0 != pos, 34), ((b.peers.take b.p).any (fun q => q / 64 != pos / 64), 76),
   ((b.peers.drop b.p).any (· != 0), 76), (h.deadlineRods == 0, 18), (b.b == 0 || 128 < b.b, 48),
   (!tunPairOk b.wFmt b.xFmt, 35), (b.p ≤ b.myshard, 33)]

/-- Whether combination entry i of cluster c is FREE. -/
def combFree (s : State) (c i : Nat) : Bool :=
  match s.clusters[c]? with
  | none => false
  | some k => match k.comb[i]? with | none => false | some e => e.st == .free

/-- Whether the address lies in a RAW region. -/
def inRaw (s : State) (a : Nat) : Bool := match regionAt s a with | some g => g.kind == 1 | none => false

/-- The lowest malformed offset of a descriptor of rood r; depth is that of its queue, 64 for a core (R175). -/
def malformed (s : State) (bs : List Byte) (core : Bool) (depth r : Nat) : Option Nat :=
  let h := hdrOf bs
  let b := bodyOf bs core
  match b with
  | .unknown => some 0
  | _ =>
    let kinds : List (Bool × Nat) :=
      match b with
      | .run x => runBad x
      | .tun x => tunBad x
      | .firkin x => firkinBad x
      | .gill x => gillBad x
      | .comb x => combBad h x
      | .stream x => streamBad x (inRaw s x.srcAddr) (ringOwned s r x)
      | .xfer x => xferBad x
      | .sync => []
      | .k1 x => k1Bad h x s.fab.pos
      | .unknown => []
    let resv := match resvBad bs (hdrMask core ++ bodyMask b) with | none => [] | some o => [(true, o)]
    lowest ((decide (depth < h.depA), 12) :: (decide (depth < h.depB), 14) :: kinds ++ resv)

/-! ### Ranges that a descriptor names as a whole (01 R31) -/

/-- Ranges of a tile that is written: the sidecar takes SSTRIDE bytes for each row (02 R526, 03 R81). -/
def tileRanges (fmt addr scale stride rows n : Nat) : List (Nat × Nat) :=
  let l := rowRanges fmt addr scale stride rows n
  if isMx fmt ∧ stride ≠ 0 then l.take 1 ++ [(scale, rows * sstride fmt stride)] else l

/-- Rows and columns of the output tile of a Tun pass: a gathered OUT spill is compact (03 R88). -/
def tunOutCols (b : TunBody) : Nat := if b.gather = 1 then b.width else b.n

/-- The output tile of a Tun pass: elements and, for an MX format, the sidecar that follows them, as one range (03 R81). -/
def tunOutRange (b : TunBody) : Nat × Nat :=
  let l := tileRanges b.outFmt b.outAddr (b.outAddr + b.m * b.outStride) b.outStride b.m (tunOutCols b)
  (b.outAddr, (l.map fun r => r.1 + r.2).foldl max 0 - b.outAddr)

/-- Scratchpad ranges of a Tun pass, as offsets (03 R71, R76, R80, R81). -/
def tunRanges (b : TunBody) : List (Nat × Nat) :=
  let out := if b.endAct = 1 then [] else [tunOutRange b]
  let init := if b.initLoad then [(b.initAddr, (b.m - 1) * b.outStride + 4 * tunOutCols b)] else []
  let map := if b.gather = 0 then [] else [(b.rowmap, 128)]
  tunOperandA b ++ tunOperandB b ++ out ++ init ++ map

/-- Ranges of a scratchpad operand in a layout. -/
def layRanges (fmt addr scale : Nat) (l : Nat × Nat × Nat) (n : Nat) : List (Nat × Nat) :=
  if n = 0 then [] else rowRanges fmt addr scale l.2.2 l.1 l.2.1

/-- Scratchpad ranges that a Gill operation names: reads, then writes. -/
def gillReads (b : GillBody) : List (Nat × Nat) :=
  if b.op = opRelease ∨ b.op = opSpill then []
  else (gillSrcs b).flatMap fun w =>
    if opSpace w.1 = 1 then layRanges (opFmt w.1) (opAddr w.1) b.scaleSrc (gillLay b) b.len else []

def gillWrites (b : GillBody) : List (Nat × Nat) :=
  if b.op = opRelease ∨ opSpace b.dst ≠ 1 then []
  else if b.op = opSpill then tileRanges (opFmt b.dst) (opAddr b.dst) b.scaleDst b.rowStride b.rows b.cols
  else if isReduction b.op then
    layRanges (opFmt b.dst) (opAddr b.dst) b.scaleDst (1, reduceCount b, 0) (reduceCount b)
  else if b.len = 0 then []
  else tileRanges (opFmt b.dst) (opAddr b.dst) b.scaleDst (gillLay b).2.2 (gillLay b).1 (gillLay b).2.1

/-- Elements of the reduction of a Firkin pass: the activation tile's columns (04 R98). -/
def firkinRed (b : FirkinBody) : Nat := if b.bwd then b.j else b.kp

/-- Ranges of an activation, init and output tile, as device addresses. -/
def firkinRanges (b : FirkinBody) : List (Nat × Nat) :=
  rowRanges b.xFmt b.xAddr b.xScale b.xStride b.b (firkinRed b) ++ [(b.outAddr, firkinSpan b)] ++
    (if b.initLoad then [(b.initAddr, firkinSpan b)] else [])

/-- Source, destination and scale ranges of a STREAM, as device addresses: reads, then writes. -/
def streamReads (b : StreamBody) : List (Nat × Nat) :=
  if b.srcTier = 3 then []
  else (b.srcAddr, 4096 * b.bushels) ::
    (if b.op = 1 ∧ isMx b.fmt then [(b.scale, scaleSlot b.fmt * b.bushels)] else [])

def streamWrites (b : StreamBody) : List (Nat × Nat) :=
  if b.op = 0 then (b.dstAddr, 2 ^ b.ringLog2) ::
    (if isMx b.fmt then [(b.scale, scaleSlot b.fmt * ringSlots b)] else [])
  else [(b.dstAddr, 4096 * b.bushels)]

/-- Every range that a descriptor names, as device addresses. -/
def descRanges (b : Body) (c : Nat) : List (Nat × Nat) :=
  let own (l : List (Nat × Nat)) := l.map fun r => (scratchBase c + r.1, r.2)
  match b with
  | .run x => own [(x.entry, 1)]
  | .tun x => own (tunRanges x)
  | .gill x => own (gillReads x ++ gillWrites x)
  | .comb x => own [(x.slotBase, (x.s - 1) * x.slotStride + x.tileBytes), (x.dest, x.tileBytes)]
  | .firkin x => firkinRanges x
  | .stream x => streamReads x ++ streamWrites x
  | .xfer x => [(x.localAddr, x.bytes)]
  | .k1 x =>
    let out := if x.gather then x.p * x.j else
      let w := ((x.j + x.p - 1) / x.p + 127) / 128 * 128
      min w (x.j - min x.j (w * x.myshard))
    own (rowRanges x.xFmt x.xAddr x.xScale x.xStride x.b x.kp ++
      [(x.outAddr, (x.b - 1) * x.outStride + 4 * out)])
  | .sync | .unknown => []

/-- Clusters that a descriptor names (13 R397): the one it runs on and those its addresses lie in. -/
def clustersNamed (b : Body) (own : Option Nat) : List Nat :=
  let at' := (descRanges b (own.getD 0)).filterMap fun r =>
    match placeOf r.1 1 with
    | .scratch c _ | .bank c _ => some c
    | _ => none
  (own.toList ++ at').eraseDups

end Sys2Proof.Machine
end

