-- ==== Sys2Proof/Machine/Work.lean ====
section
/-! DEFINITION. The life of a descriptor: admission, holds, dispatch to a unit, readiness to start, completion
(06 R168 to R187, R196; 03 R95, R97; 04 R110; 13 R397), and the scrubs of clusters and engines (13 R403). -/
namespace Sys2Proof.Machine

/-! ### Scrubs (13 Table 13.6) -/

/-- Scrub a logical cluster's hardware: memories, registers, entries and counters. -/
def scrubCluster (c : Nat) (s : State) : State :=
  let s := zeroMem (bankBase c 0) 0x20000 (zeroMem (scratchBase c) scratchSize s)
  modStreams (fun k => { k with poison := k.poison.filter fun e => !meets e.1 e.2.1 (scratchBase c) scratchSize })
    (modCluster c (fun k => { k with
      cores := List.replicate 4 {}, banks := List.replicate 2 {}, tunQueue := [], gillRun := none, gillNext := 0,
      comb := List.replicate 16 {}, notices := [], scalars := [], invalid := 0, ovf := 0, sat := 0, stalls := [],
      gillOps := 0, tunPasses := 0 }) s)

/-- Scrub an engine: SRAM, pass queue, accumulator halves. -/
def scrubEngine (t e : Nat) (s : State) : State :=
  modEngine t e (fun k => { k with
    queue := [], accepted := [], run := none, set := [], rerun := false, haltedAt := none, acc := none }) s

/-! ### Events with a payload the spec does not state -/

/-- An event whose payload no table gives: the payload is a free value (log 5). -/
def logOpen (block low rood : Nat) (s : State) : State :=
  let (v, s) := fresh 64 s
  logEv block low rood v s

/-! ### Who admits work -/

/-- The module runs work: started, not FATAL, in P0 or P1 (15 R444; 14 R422; 16 R470). -/
def runsWork (s : State) : Bool := s.boot.ready && !s.glb.fatal && s.fwc.pstate ≤ 1

/-- Rood r is ACTIVE (13 R391). -/
def roodActive (s : State) (r : Nat) : Bool :=
  match s.roods[r]? with
  | none => false
  | some k => k.st == .active

/-- Whether cluster c is absent (03 R97). -/
def clusterAbsent (s : State) (c : Nat) : Bool :=
  match s.clusters[c]? with
  | none => true
  | some k => k.mode == .absent

/-- The rood that owns engine e of stack t. -/
def engineRood (s : State) (t e : Nat) : Option Nat :=
  match s.stks[t]? with
  | none => none
  | some k => match k.engines[e]? with | none => none | some g => g.rood

/-! ### Checks at admission (06 R168, R169, R196) -/

/-- The weight panel of a K1 split, which its addresses name. -/
def k1Panel (b : K1Body) : Nat × Nat := (b.wAddr, panelSpan b.wAddr b.j b.wStride b.wFmt b.kp)

/-- Ranges that R169 checks, without those of an absent cluster of the rood's own. -/
def checkedRanges (s : State) (r : Nat) (b : Body) (own : Option Nat) : List (Nat × Nat) :=
  let c := own.getD 0
  let l := descRanges b c
  let l := match b with | .k1 x => k1Panel x :: l | _ => l
  let gone := own.isSome && clusterAbsent s c && (match s.clusters[c]? with | some k => k.rood == some r | none => false)
  if gone then l.filter fun g => !(meets g.1 1 (scratchBase c) scratchSize) else l

/-- Whether rood r may name the weight panel of a FIRKIN_PASS (R31, R32). A panel in a stack is the engine's to check when it
accepts the pass (04 R110). -/
def panelGrant (s : State) (r : Nat) (x : FirkinBody) : Grant :=
  let n := panelSpan x.wAddr x.j x.wStride x.wFmt x.kp
  match grant s r x.wAddr n, placeOf x.wAddr n with
  | .notOwned, .stk _ _ => .ok
  | g, _ => g

/-- Status of a descriptor's names for rood r: OK, NOT_PERMITTED or CLUSTER_ABSENT, and the unmapped address (R30,
R31, R97, R169). -/
def namesStatus (s : State) (r : Nat) (b : Body) (own : Option Nat) : Nat × Option Nat :=
  let cl : Nat :=
    match own with
    | none => Sts.ok
    | some c =>
      match s.clusters[c]? with
      | none => Sts.notPermitted
      | some k => if k.rood ≠ some r then Sts.notPermitted else if k.mode = .absent then Sts.clusterAbsent else Sts.ok
  let en : Nat :=
    match b with
    | .firkin x =>
      match placeOf x.wAddr 1 with
      | .stk t _ => if engineRood s t x.engine = some r then Sts.ok else Sts.notPermitted
      | _ => Sts.ok
    | _ => Sts.ok
  let panel : List (Grant × Nat) :=
    match b with
    | .firkin x => [(panelGrant s r x, x.wAddr)]
    | _ => []
  let gs := panel ++ ((checkedRanges s r b own).filter (fun g => g.2 != 0) |>.map fun g => (grant s r g.1 g.2, g.1))
  let ad := if gs.any (fun g => g.1 != .ok) then Sts.notPermitted else Sts.ok
  (statusMax cl (statusMax en ad), (gs.find? fun g => g.1 == .unmapped).map (·.2))

/-- Log a malformed descriptor under the block that would have run it (R196; 07 R206; 11 R344). The item that 07 R240 has the event
of a STREAM carry is the offset and KIND (log 63). -/
def logMalformed (kind off rood seq : Nat) (b : Body) (src : DescSource) (own : Option Nat) (wAddr : Nat) (s : State) :
    State :=
  let at' := match src with | .core c _ => some c | .queue _ => own
  let onC (low rest : Nat) :=
    match at' with
    | none => s
    | some c => logCluster c low (srcCore src) rest s
  match b with
  | .gill _ => onC 0x01 seq
  | .run _ | .tun _ | .comb _ | .k1 _ => onC 0x0A (packLe [(off, 1), (kind, 1)])
  | .firkin x =>
    match placeOf wAddr 1 with
    | .stk t _ =>
      let phys := match s.stks[t]? with | some k => (k.engines[x.engine]?.map (·.phys)).getD 0xFF | none => 0xFF
      let (v, s) := fresh 48 s
      logFirkin t 0x8B phys x.engine rood v (some 7) s
    | _ => raiseGlb 3 (logOpen Blk.glb 0x20 rood s)
  | .stream _ => raiseGlb 3 (raiseStr 0 (logGlb 0x21 rood (packLe [(off, 1), (kind, 1)]) s))
  | .xfer _ => raiseFab 0 (logEv Blk.fabric 0x08 rood (packLe [(0xFFFF, 2), (off, 6)]) s)
  | .sync | .unknown => raiseGlb 3 (logOpen Blk.glb 0x20 rood s)

/-! ### Holds at admission -/

/-- A live descriptor that names cluster c (13 R397). -/
def names (c : Nat) (e : Desc) : Bool := (clustersNamed e.body (descCluster e)).contains c

/-- Whether slice i has ISOLATE set. -/
def isolated (s : State) (i : Nat) : Bool := match tfind i s.slices with | some k => k.isolate | none => false

/-- Whether the slice of e may not use cluster c before a switch (13 R397). -/
def needsSwitch (s : State) (e : Desc) (c : Nat) : Bool :=
  let own := match e.src with | .core k _ => k == c | _ => false
  match s.clusters[c]? with
  | none => false
  | some k =>
    match k.served with
    | none => false
    | some v => !own && v != e.slice && (isolated s v || isolated s e.slice)

/-- A descriptor that must wait at admission: its cluster is being substituted (03 R95), its panel's entry is LOCKING
(04 R110), a core that it names is not IDLE (R192), or a cluster it names serves another slice and one of them is isolated
(13 R397). -/
def admissionHold (s : State) (e : Desc) : Bool :=
  (match descCluster e with
    | some c => (match s.clusters[c]? with | some k => k.mode == .substituting | none => false)
    | none => false) ||
  (match e.body with
    | .firkin x =>
      (match lockAt s x.wAddr (panelSpan x.wAddr x.j x.wStride x.wFmt x.kp) with
        | some (_, _, l) => l.st == .locking
        | none => false)
    | .run x =>
      (match s.clusters[e.hdr.target]? with
        | some k => (runCores x).any fun n => k.coreEn.testBit n && (match k.cores[n]? with | some q => q.st != .idle | none => false)
        | none => false)
    | _ => false) ||
  (clustersNamed e.body (descCluster e)).any (needsSwitch s e)

/-- An earlier descriptor of d's submission queue is still held at admission (R171). -/
def heldBefore (s : State) (d : Nat) (e : Desc) : Bool :=
  match e.src with
  | .queue _ => s.descs.any fun k => k.1 < d && k.2.src == e.src && k.2.held && k.2.result.isNone
  | .core _ _ => false

/-- Admit descriptor d: it is no longer held, its admission is now, and its slice is served by the clusters it names
(13 R397). -/
def markAdmitted (d : Nat) (e : Desc) (s : State) : State :=
  let s := modDesc d (fun k => { k with held := false, admitRod := rodCount s, admitStamp := s.time.now }) s
  forAll (clustersNamed e.body (descCluster e)) (fun c => modCluster c fun k => { k with served := some e.slice }) s

/-! ### Dependencies (R175, R176) -/

/-- What a dependency or wait says. -/
inductive Dep where
  | ok | wait | fail
  deriving DecidableEq, Repr

def Dep.and : Dep → Dep → Dep
  | .fail, _ => .fail
  | _, .fail => .fail
  | .wait, _ => .wait
  | _, .wait => .wait
  | .ok, .ok => .ok

/-- Statuses kept for a source, and how far back they reach (R175). -/
def sourceBoard (s : State) (src : DescSource) : Table Nat × Nat :=
  match src with
  | .queue q => (match tfind q s.queues with | some k => (k.history, 2 ^ k.logDepth) | none => ([], 1))
  | .core c n => (match s.clusters[c]? with
    | some k => (match k.cores[n]? with | some q => (q.board, 64) | none => ([], 64))
    | none => ([], 64))

/-- Whether a descriptor of the source with this SEQ is live. -/
def liveSeq (s : State) (src : DescSource) (seq : Nat) : Bool := s.descs.any fun k =>
  k.2.src == src && k.2.seq == seq && !k.2.orphan

/-- One dependency of distance d (R175): one that reaches back before the source's first descriptor names none. A failed status
that is no longer kept has squashed its dependents when it was (R176). -/
def depOn (s : State) (e : Desc) (d : Nat) : Dep :=
  if d = 0 ∨ e.reach < d then .ok
  else
    let n := (e.seq + 2 ^ 32 - d % 2 ^ 32) % 2 ^ 32
    if liveSeq s e.src n then .wait
    else
      match tfind n (sourceBoard s e.src).1 with
      | some st => if st = Sts.ok then .ok else .fail
      | none => .ok

/-- ORDERED (R175, R176). -/
def depOrdered (s : State) (e : Desc) : Dep :=
  if !e.hdr.ordered then .ok
  else
    let (board, reach) := sourceBoard s e.src
    if board.any (fun k => let g := dist 32 e.seq k.1; 1 ≤ g && g ≤ reach && k.2 != Sts.ok) then .fail
    else if s.descs.any (fun k => k.2.src == e.src && before 32 k.2.seq e.seq && !k.2.orphan) then .wait
    else .ok

/-- All dependencies of e. -/
def depsOf (s : State) (e : Desc) : Dep := (depOn s e e.hdr.depA).and ((depOn s e e.hdr.depB).and (depOrdered s e))

/-- Descriptors of a source that a new one can name: those since the queue last became ACTIVE, or of the core's program
(R175). -/
def sourceReach (s : State) (src : DescSource) : Nat :=
  match src with
  | .queue q => (match tfind q s.queues with | some k => k.taken | none => 0)
  | .core c n => (match s.clusters[c]? with
    | some k => (match k.cores[n]? with | some q => q.issued | none => 0)
    | none => 0)

/-- One more in a count of reach, whose largest use is the largest DEPTH. -/
def reachInc (n : Nat) : Nat := min (n + 1) 65536

/-- Count a descriptor of the source as taken. -/
def countTaken (src : DescSource) (s : State) : State :=
  match src with
  | .queue q => modQueue q (fun k => { k with taken := reachInc k.taken }) s
  | .core c n => modCore c n (fun k => { k with issued := reachInc k.issued }) s

/-- A new descriptor that nothing refuses: squashed where a descriptor that it names has already failed (R176), held at
admission, or admitted (R171). -/
def admitDesc (d : Nat) (e : Desc) (s : State) : State :=
  if depsOf s e = .fail then finish d Sts.squashed 0 s
  else if admissionHold s e || heldBefore s d e then modDesc d (fun k => { k with held := true }) s
  else markAdmitted d e s

/-- A K1_SPLIT malformed at offset off while its COMB_ENTRY is not FREE is malformed there too, and the lower offset stands (R196,
R200). Of one that is otherwise well formed the entry is tested at its start. -/
def entryBad (s : State) (own : Option Nat) (b : Body) (off : Option Nat) : Option Nat :=
  match b, off with
  | .k1 x, some o => if 49 < o && !combFree s (own.getD 0) x.combEntry then some 49 else some o
  | _, o => o

/-- Take a new descriptor from its 128 bytes: a malformed or refused one already has its result (R168, R169, R196). -/
def takeDesc (src : DescSource) (seq pid slice rood depth : Nat) (bs : List Byte) (s : State) : State :=
  let core := match src with | .core _ _ => true | .queue _ => false
  let h := hdrOf bs
  let h := if core then { h with pid := pid } else h
  let b := bodyOf bs core
  let d := s.nextDesc
  let e : Desc := { src := src, seq := seq, rood := rood, pid := pid, slice := slice, hdr := h, body := b,
                    admitRod := rodCount s, admitStamp := s.time.now, reach := sourceReach s src }
  let own := descCluster e
  let bad := entryBad s own b (malformed s bs core depth rood)
  let st0 := if bad.isSome then Sts.protocolViolation else Sts.ok
  let st1 := if h.pid = pid then Sts.ok else Sts.notPermitted
  let nm := if b = .unknown then (Sts.ok, none) else namesStatus s rood b own
  let st := statusMax st0 (statusMax st1 nm.1)
  let s := countTaken src { s with descs := tset d e s.descs, nextDesc := d + 1 }
  let s := match bad with
    | none => s
    | some off => logMalformed h.kind off rood seq b src own (match b with | .firkin x => x.wAddr | _ => 0) s
  let s := match nm.2 with | none => s | some a => logUnmapped a 1 rood s
  if st ≠ Sts.ok then finish d st (bad.getD 0) s else admitDesc d e s

/-! ### Unit queues (R174) -/

/-- Whether the queue of d's unit has room: 4 passes for Tun, 16 operations per core for Gill, 8 passes for an
engine. -/
def unitRoom (s : State) (u : UnitId) : Bool :=
  match u with
  | .tun c => (match s.clusters[c]? with | some k => k.tunQueue.length < 4 | none => false)
  | .gill c n => (match s.clusters[c]? with
    | some k => (match k.cores[n]? with | some q => q.gillQ.length < 16 | none => false)
    | none => false)
  | .engine t e => (match s.stks[t]? with
    | some k => (match k.engines[e]? with | some g => g.queue.length < 8 | none => false)
    | none => false)
  | _ => true

/-- Put d at the end of its unit's queue. -/
def enqueue (u : UnitId) (d : Nat) (s : State) : State :=
  match u with
  | .tun c => modCluster c (fun k => { k with tunQueue := k.tunQueue ++ [d] }) s
  | .gill c n => modCore c n (fun k => { k with gillQ := k.gillQ ++ [d] }) s
  | .engine t e => modEngine t e (fun k => { k with queue := k.queue ++ [d], accepted := k.accepted ++ [d] }) s
  | .streams => modStreams (fun k => { k with queue := k.queue ++ [d] }) s
  | .fabric => modFab (fun k => { k with queue := k.queue ++ [d] }) s
  | _ => s

/-- Take d out of its unit's queue. -/
def dequeue (u : UnitId) (d : Nat) (s : State) : State :=
  let drop (l : List Nat) := l.filter (· != d)
  match u with
  | .tun c => modCluster c (fun k => { k with tunQueue := drop k.tunQueue }) s
  | .gill c n => modCore c n (fun k => { k with gillQ := drop k.gillQ }) s
  | .engine t e => modEngine t e (fun k => { k with queue := drop k.queue }) s
  | .streams => modStreams (fun k => { k with queue := drop k.queue }) s
  | .fabric => modFab (fun k => { k with queue := drop k.queue }) s
  | _ => s

/-- Whether d heads its unit's queue; cores, combination entries and unit-less kinds have none. -/
def unitHead (s : State) (u : UnitId) (d : Nat) : Bool :=
  match u with
  | .tun c => (match s.clusters[c]? with | some k => k.tunQueue.head? == some d | none => false)
  | .gill c n => (match s.clusters[c]? with
    | some k => (match k.cores[n]? with | some q => q.gillQ.head? == some d | none => false)
    | none => false)
  | .engine t e => (match s.stks[t]? with
    | some k => (match k.engines[e]? with | some g => g.queue.head? == some d | none => false)
    | none => false)
  | .streams => s.streams.queue.head? == some d
  | .fabric => s.fab.queue.head? == some d
  | _ => true

/-- An earlier descriptor of the same source and unit still in the dispatcher holds d back (R174). -/
def heldBySource (s : State) (d : Nat) (e : Desc) : Bool :=
  s.descs.any fun k =>
    k.1 < d && k.2.src == e.src && unitOf k.2 == unitOf e && k.2.stage == .dispatcher && k.2.result.isNone

/-- The checks by which an engine accepts a pass (04 R110). -/
def engineAccepts (s : State) (r : Nat) (x : FirkinBody) : Bool :=
  (match placeOf x.wAddr 1 with
    | .stk t _ => engineRood s t x.engine == some r
    | _ => false) &&
  (match lockAt s x.wAddr (panelSpan x.wAddr x.j x.wStride x.wFmt x.kp) with
    | some (_, _, l) => (l.st == .locked || l.st == .releasing) && l.readers.testBit r
    | none => false) &&
  (firkinRanges x).all fun g => g.2 == 0 || grant s r g.1 g.2 == .ok

/-- Count an accepted pass in the PASSES of its base range entry (04 R106). -/
def countPass (x : FirkinBody) (s : State) : State :=
  match lockAt s x.wAddr (panelSpan x.wAddr x.j x.wStride x.wFmt x.kp) with
  | some (t, i, _) => modLock t i (fun l => { l with passes := l.passes + 1 }) s
  | none => s

/-- Pass descriptor d from the dispatcher to its unit (R174). -/
def dispatchDesc (d : Nat) (s : State) : State :=
  match tfind d s.descs with
  | none => s
  | some e =>
    if !runsWork s || e.stage != .dispatcher || e.result.isSome || heldBySource s d e then s
    else if admissionHold s e then modDesc d (fun k => { k with held := true }) s
    else if e.held && heldBefore s d e then s
    else
      let s := if e.held then markAdmitted d e s else s
      let go (s : State) : State := enqueue (unitOf e) d (modDesc d (fun k => { k with stage := .queued }) s)
      if !unitRoom s (unitOf e) then s
      else
        match e.body with
        | .firkin x => if engineAccepts s e.rood x then go (countPass x s) else finish d Sts.notPermitted 0 s
        | _ => go s

/-! ### Readiness (R177 to R182) -/

/-- The sync counter wait of e (R177), as this uncore clock sees the counter (R178). -/
def waitOf (s : State) (e : Desc) : Dep :=
  if !e.hdr.waitEn then .ok
  else
    let c := ctrSeen (uncoreClock s) (ctrGet e.rood e.hdr.waitCtr s)
    if c.2 then .fail
    else if (c.1 + 2 ^ 32 - e.hdr.waitValue % 2 ^ 32) % 2 ^ 32 < 2 ^ 31 then .ok else .wait

/-- Rod count of PLACE, or the rod of admission where PLACE lies behind it (R180). -/
def placeRod (e : Desc) : Nat :=
  if atOrAfter 48 e.hdr.place e.admitRod then rodFrom e.admitRod e.hdr.place else e.admitRod

/-- Rod count of the deadline rod, if there is one (R182); none before the admission that the base rests on (R180). -/
def deadlineRod (e : Desc) : Option Nat :=
  if e.hdr.deadlineRods = 0 ∨ e.held then none
  else some ((if e.hdr.atRod then placeRod e else e.admitRod) + e.hdr.deadlineRods)

/-- The deadline rod of e has ended. -/
def pastDeadline (s : State) (e : Desc) : Bool :=
  match deadlineRod e with
  | none => false
  | some d => deadlineStamp s d < s.time.now

/-- The rod of the current stamp suits a placed descriptor (R179). -/
def rodSuits (s : State) (e : Desc) : Bool :=
  let plan := match s.roods[e.rood]? with | some r => r.plan | none => 0
  let c := planClass plan (rodPos s)
  (!e.hdr.atRod || placeRod e ≤ rodCount s) && (e.hdr.cls == 0 || c == 0 || c == e.hdr.cls)

/-- The clock of cluster c is being changed: its Tun slice, Gill and control cores pause (03 R92; 05 R162). -/
def clusterPaused (s : State) (c : Nat) : Bool :=
  match s.clusters[c]? with
  | none => false
  | some k => s.time.now < k.pauseUntil

/-- The Firkin clock of stack t is being changed: its engines pause (04 R129). -/
def stackPaused (s : State) (t : Nat) : Bool :=
  match s.stks[t]? with
  | none => false
  | some k => s.time.now < k.pauseUntil

/-- A clock change pauses the unit. -/
def unitPaused (s : State) (u : UnitId) : Bool :=
  match u with
  | .tun c | .gill c _ => clusterPaused s c
  | .engine t _ => stackPaused s t
  | _ => false

/-- Everything that lets d start but the unit's own room (R174, R179, R182): a paused unit starts nothing but work placed at a rod,
which a change of clock does not move (01 R35). -/
def startReady (s : State) (d : Nat) (e : Desc) : Bool :=
  runsWork s && (e.hdr.placed || !unitPaused s (unitOf e)) && e.stage == .queued && e.result.isNone && depsOf s e == .ok && waitOf s e == .ok &&
    unitHead s (unitOf e) d && !pastDeadline s e && (!e.hdr.placed || (atRodStart s && rodSuits s e))

/-- d leaves its unit's queue and runs. -/
def markStarted (d : Nat) (e : Desc) (s : State) : State :=
  dequeue (unitOf e) d (modDesc d (fun k => { k with stage := .started }) s)

/-- The cluster that logs events 0x0B and 0x0C of a descriptor: the one it runs on; of a kind that runs on none, the issuing
core's, or the header's TARGET (log 65). -/
def eventCluster (e : Desc) : Nat :=
  match descCluster e, e.src with
  | some c, _ => c
  | none, .core c _ => c
  | none, .queue _ => e.hdr.target

/-- QID and SEQ of cluster events 0x0B and 0x0C (R196). -/
def seqQid (e : Desc) : Nat := packLe [(e.seq, 4), (srcQid e.src, 2)]

/-- A descriptor not started whose dependency or counter failed is squashed (R176, R177). -/
def squashIfFailed (d : Nat) (s : State) : State :=
  match tfind d s.descs with
  | none => s
  | some e =>
    if e.stage == .started || e.result.isSome then s
    else if depsOf s e == .fail then finish d Sts.squashed 0 s
    else if waitOf s e == .fail then
      finish d Sts.squashed 0 (logCluster (eventCluster e) 0x0C (srcCore e.src) (seqQid e) s)
    else s

/-- CLASS_OVERRUN, once per descriptor (R181): a running descriptor meets a rod that is not of its class. -/
def overrunCheck (d stampRod : Nat) (s : State) : State :=
  match tfind d s.descs with
  | none => s
  | some e =>
    let plan := match s.roods[e.rood]? with | some r => r.plan | none => 0
    let c := planClass plan (stampRod % 40)
    if e.stage == .started && !e.overrun && e.hdr.cls != 0 && c != 0 && c != e.hdr.cls then
      logCluster (eventCluster e) 0x0B (srcCore e.src) (seqQid e) (modDesc d (fun k => { k with overrun := true }) s)
    else s

/-! ### Writes to a stack (07 R209, Table 7.4; 04 R104, R105) -/

/-- Who writes a stack address. -/
inductive Writer where
  | storeMove
  | network
  | fabric
  /-- a fabric write of whole bushels -/
  | fabricBushel
  | core
  /-- the load streams of a base load -/
  | baseLoad
  /-- firmware's adapter staging -/
  | staging
  | scruple
  | recovery
  /-- the completion records of a submission queue (log 64) -/
  | record
  /-- a debug WRITE (17 R503; log 74) -/
  | debug
  deriving DecidableEq, Repr

/-- Whether a region kind accepts a writer (Table 7.4); BASE depends on the entry that covers the range. -/
def kindAccepts (kind : Nat) (w : Writer) : Bool :=
  match w with
  | .storeMove => kind == 1 || kind == 2
  | .network | .fabric | .core | .record | .debug => kind == 1
  | .fabricBushel => kind == 1 || kind == 2
  | .baseLoad => kind == 3
  | .staging => kind == 4
  | .scruple => kind == 5
  | .recovery => true

/-- An entry that is not FREE and meets the n bytes from a. -/
def lockMeets (s : State) (a n : Nat) : Option LockEntry :=
  match placeOf a 1 with
  | .stk t _ =>
    match s.stks[t]? with
    | none => none
    | some k => k.locks.find? fun e => e.st != .free && meets a n e.base (e.size * unit2M)
  | _ => none

/-- How a write of n bytes at a stack address is taken. -/
inductive WriteCheck where
  | ok | locked | refused
  deriving DecidableEq, Repr

/-- Check a write (R209; 04 R104, R105). Addresses name the data bytes of a region with metadata, never its metadata (R210). -/
def writeCheck (s : State) (w : Writer) (a n : Nat) : WriteCheck :=
  match placeOf a n with
  | .stk _ _ =>
    match lockMeets s a n with
    | some e =>
      if e.st = .loading then
        (if w = .baseLoad ∧ e.base ≤ a ∧ a + n ≤ e.base + e.size * unit2M then .ok else .refused)
      else if w = .recovery then .ok else .locked
    | none =>
      if covered (fun g => g.kind != 3 && kindAccepts g.kind w &&
          (g.kind == 1 || a + n ≤ g.start + 4096 * regionBushels g)) s a n then .ok
      else .refused
  | _ => .refused

/-- Log a refused write of rood r (R209; 04 R105, R127). -/
def logRefused (c : WriteCheck) (a rood : Nat) (s : State) : State :=
  match placeOf a 1 with
  | .stk t _ =>
    match c with
    | .ok => s
    | .locked =>
      let s := modStack t (fun k => { k with lockViol := w64 (a % 2 ^ 48 + 2 ^ 48 * (rood % 16) + 2 ^ 63) }) s
      logFirkin t 0x80 0xFF 0xFF rood (a % 2 ^ 48) (some 3) s
    | .refused => logStack t 0x06 (some 7) rood (a % 2 ^ 48) s
  | _ => s

/-! ### Completion (R184 to R187, R192) -/

/-- The final status of a result: a started descriptor whose event lies after its deadline times out (R17, R182). -/
def finalStatus (s : State) (e : Desc) (r : Result) : Nat :=
  match deadlineRod e with
  | none => r.status
  | some d => if e.stage == .started && deadlineStamp s d < r.stamp then statusMax r.status Sts.timeout else r.status

/-- The earliest stamp at which the completion may be written: a TIMEOUT waits for the settle interval (10 R323). -/
def mayComplete (s : State) (e : Desc) (st : Nat) : Bool :=
  if st ≠ Sts.timeout then true
  else
    match e.raised, deadlineRod e with
    | some t, _ => t + settleTicks ≤ s.time.now
    | none, some d => deadlineStamp s d + settleTicks ≤ s.time.now
    | none, none => true

/-- A completion record (Table 6.6). -/
def recordBytes (s : State) (e : Desc) (q depth st detail stamp : Nat) : List Byte :=
  let phase := if e.seq / depth % 2 = 0 then 1 else 0
  leBytes 8 stamp ++ leBytes 6 (rodOf s stamp) ++ leBytes 2 (eraOf s stamp) ++ leBytes 4 e.hdr.tag ++ leBytes 4 e.seq ++
    leBytes 1 st ++ leBytes 1 e.hdr.kind ++ leBytes 2 (q % 4096 + 2 ^ 15 * phase) ++ leBytes 4 detail

/-- Keep the newest n entries of a table of statuses by SEQ, counted back from seq. -/
def keepBoard (n seq : Nat) (t : Table Nat) : Table Nat := t.filter fun k => dist 32 seq k.1 < n || before 32 seq k.1

/-- A queue after one of its descriptors completed. -/
def queueAfter (e : Desc) (st : Nat) (q : Queue) : Queue :=
  let n := q.inflight - 1
  { q with
    inflight := n
    history := tset e.seq st q.history
    st := if q.st = .draining ∧ n = 0 then .disabled else q.st }

/-- A core after one of the descriptors that it issued completed. -/
def coreAfter (d : Nat) (e : Desc) (st : Nat) (k : Core) : Core :=
  if k.queue.contains d then { k with queue := k.queue.filter (· != d), board := tset e.seq st k.board } else k

/-- The statuses of a source kept: of its last DEPTH descriptors, or of the last 64 of a core (R173, R175). -/
def trimBoard (src : DescSource) (s : State) : State :=
  match src with
  | .queue q => modQueue q (fun k => { k with history := keepBoard (2 ^ k.logDepth) (k.consumer + 2 ^ 32 - 1) k.history }) s
  | .core c n => modCore c n (fun k => { k with board := keepBoard 64 (k.nextSeq + 2 ^ 32 - 1) k.board }) s

/-- Squash the unstarted descriptors of a source that depend on a failed one (R176). -/
def squashDependents (src : DescSource) (s : State) : State :=
  forAll ((s.descs.filter fun k => k.2.src == src).map (·.1)) (fun d t =>
    match tfind d t.descs with
    | none => t
    | some e => if e.stage != .started && e.result.isNone && depsOf t e == .fail then finish d Sts.squashed 0 t else t) s

/-- The next sequence number of a summary slot with a new value and status (05 R153). -/
def writeSummary (c n slot value st : Nat) (s : State) : State :=
  modCore c n (fun k =>
    let o := tgetD slot {} k.sums
    { k with sums := tset slot ⟨value, st, (o.seq + 1) % 2 ^ 16⟩ k.sums }) s

/-- Staging of the partials of split d: 1 GiB outside the device address map (log 22). -/
def k1Stage (d : Nat) : Nat := 2 ^ 60 + d * 2 ^ 30

/-- A pass that an engine accepted is no longer outstanding: PASSES falls, once (04 R106). -/
def passDone (d : Nat) (s : State) : State :=
  match tfind d s.descs with
  | none => s
  | some e =>
    match e.body with
    | .firkin x =>
      if e.stage == .dispatcher || e.progress != 0 then s
      else
        let s := modDesc d (fun k => { k with progress := 1 }) s
        match lockAt s x.wAddr (panelSpan x.wAddr x.j x.wStride x.wFmt x.kp) with
        | some (t, i, _) => modLock t i (fun l => { l with passes := l.passes - 1 }) s
        | none => s
    | _ => s

/-- Combination entries that a Firkin completion stamped so names: slot SHARD of the entry lies at OUT_ADDR (05 R146). -/
def notifyEntries (x : FirkinBody) (rood stamp : Nat) (s : State) : State :=
  match placeOf x.outAddr 1 with
  | .scratch c off =>
    match s.clusters[c]? with
    | none => s
    | some k =>
      let hits := (List.range 16).filter fun i =>
        let v := k.comb.getD i {}
        v.st != .free && v.rood == rood && off == v.slotBase + x.shard * v.slotStride
      let n (i : Nat) : ShardNotice := ⟨i, x.shard, x.shards, 4 * x.b * firkinCols x, stamp, rood, true⟩
      modCluster c (fun k => { k with notices := k.notices ++ hits.map n }) s
  | _ => s

/-- What a unit does when one of its descriptors completes with status st: counts it, frees a stream's context (07 Table 7.7), writes the summary of an operation that
did not run or of an entry that was not armed (05 R154, Table 5.9), and tells the combination entries of a pass whose egress is
resident (04 R106, R114). -/
def unitAfter (d : Nat) (e : Desc) (r : Result) (st : Nat) (s : State) : State :=
  match e.body, e.src with
  | .tun _, _ => modCluster ((descCluster e).getD 0) (fun k => { k with tunPasses := satInc 64 k.tunPasses }) s
  | .gill b, .core c n =>
    let s := modCluster c (fun k => { k with
      gillOps := satInc 64 k.gillOps, gillRun := if k.gillRun = some d then none else k.gillRun }) s
    if b.sumEn && b.op != opRelease && e.progress == 0 then writeSummary c n b.sumSlot 0 st s else s
  | .comb b, .core c n => if b.sumEn && e.stage != .started then writeSummary c n b.sumSlot 0 st s else s
  | .firkin x, _ =>
    let s := passDone d s
    let s := if e.stage == .started && r.status == Sts.ok then notifyEntries x e.rood r.stamp s else s
    match placeOf x.wAddr 1 with
    | .stk t _ =>
      if e.stage == .dispatcher then s
      else modEngine t x.engine (fun k => { k with
        passes := satInc 64 k.passes, run := if k.run = some d then none else k.run,
        acc := if k.run = some d then none else k.acc, accepted := k.accepted.filter (· != d) }) s
    | _ => s
  | .xfer _, _ => modFab (fun k => { k with xfers := k.xfers.filter fun x => x.2.desc != d }) s
  | .k1 _, _ =>
    if st = Sts.partitionReset then modFab (fun k => { k with xfers := k.xfers.filter fun x => x.2.desc != d }) s else s
  | .stream _, _ => modStreams (fun k => { k with ctx := k.ctx.filter fun x => x.2.desc != d }) s
  | _, _ => s

/-- Write the completion record of a queue's descriptor: refused and logged where its slot does not lie in a region that takes
it (R184, R186, R198; 07 R209; 04 R105). -/
def writeRecord (q : Nat) (e : Desc) (st : Nat) (r : Result) (s : State) : State :=
  match tfind q s.queues with
  | none => s
  | some k =>
    let depth := 2 ^ k.logDepth
    if (e.hdr.quiet && st == Sts.ok) || !roodActive s e.rood then s
    else
      let a := k.cring + 32 * (e.seq % depth)
      match writeCheck s .record a 32 with
      | .ok => wrBytes a (recordBytes s e q depth st r.detail r.stamp) s
      | w => logRefused w a e.rood s

/-- Write the completion of descriptor d with its final status and drop it; its dependents are squashed if it failed, before its
status can leave the board (R175 to R177, R184 to R187). -/
def completeDesc (d : Nat) (e : Desc) (r : Result) (s : State) : State :=
  let st := finalStatus s e r
  let s := overrunCheck d (r.stamp / rodLen s) s
  let s := unitAfter d e r st (dequeue (unitOf e) d s)
  let s :=
    match e.src with
    | .queue q => modQueue q (queueAfter e st) (writeRecord q e st r s)
    | .core c n => modCore c n (coreAfter d e st) s
  let s := if e.hdr.signalEn then ctrAdd e.rood e.hdr.signalCtr 1 (st != Sts.ok) s else s
  let s := { s with descs := tdel d s.descs }
  trimBoard e.src (if st = Sts.ok then s else squashDependents e.src s)

/-- An earlier descriptor of the same unit must complete first: Gill's of one core (05 R142), an engine's passes in the order in
which it accepted them (04 R115). -/
def completesAfter (s : State) (d : Nat) (e : Desc) : Bool :=
  match e.body, e.src with
  | .gill _, .core _ _ =>
    s.descs.any fun k => k.2.src == e.src && (match k.2.body with | .gill _ => true | _ => false) && before 32 k.2.seq e.seq &&
      !k.2.orphan
  | .firkin x, _ =>
    (match placeOf x.wAddr 1 with
      | .stk t _ =>
        (match s.stks[t]? with
          | some k => (match k.engines[x.engine]? with
            | some g => g.accepted.contains d && g.accepted.head? != some d
            | none => false)
          | none => false)
      | _ => false)
  | _, _ => false

/-- The stamp from which the completion of a result may be written (10 R323). -/
def completeAt (s : State) (e : Desc) (r : Result) : Nat :=
  let st := finalStatus s e r
  if st ≠ Sts.timeout then r.stamp
  else
    match e.raised, deadlineRod e with
    | some t, _ => max r.stamp (t + settleTicks)
    | none, some d => max r.stamp (deadlineStamp s d + settleTicks)
    | none, none => r.stamp

/-- Another descriptor of d's submission queue may complete, and completes earlier (R185). -/
def recordsBefore (s : State) (d : Nat) (e : Desc) (r : Result) : Bool :=
  match e.src with
  | .core _ _ => false
  | .queue _ => s.descs.any fun k =>
    k.1 != d && k.2.src == e.src && !completesAfter s k.1 k.2 &&
      (match k.2.result with
        | some q => completeAt s k.2 q < completeAt s e r || (completeAt s k.2 q == completeAt s e r && k.1 < d)
        | none => false)

/-- Write the completion of d as soon as it may be written (R114, R115, R142, R185; 10 R323). -/
def tryComplete (d : Nat) (s : State) : State :=
  match tfind d s.descs with
  | none => s
  | some e =>
    match e.result with
    | none => s
    | some r =>
      if completesAfter s d e || recordsBefore s d e r || !mayComplete s e (finalStatus s e r) then s
      else completeDesc d e r s

/-- End descriptor d at once with a status, whatever its stage: used where a rule names the status. -/
def endDesc (d status detail : Nat) (s : State) : State := finish d status detail s

/-! ### Ending work (03 R91, R94; 05 R161; 04 R128; 06 R198) -/

/-- The descriptors that satisfy p, by number. -/
def descsWith (s : State) (p : Nat → Desc → Bool) : List Nat := (s.descs.filter fun k => p k.1 k.2).map (·.1)

/-- Stamp of the last tick of a rod count's rod plus the settle interval has passed. -/
def settled (s : State) (raised : Nat) : Bool := raised + settleTicks ≤ s.time.now

/-- The core that holds a descriptor's program reads as serving this slice. -/
def coreSlice (s : State) (c n : Nat) : Option Nat :=
  match s.clusters[c]? with
  | none => none
  | some k => match k.cores[n]? with | none => none | some q => q.slice

end Sys2Proof.Machine
end

