-- ==== Sys2Proof/Machine/Operands.lean ====
section
/-! DEFINITION. Reading and storing operands: rows of elements with their scales, layouts, accumulator cells, scalar
entries, vector registers, and converted stores (02 R44 to R48, R56, R57, R526; 03 R70, R71, R81, R82; 05 R134, R143,
R144, R150 to R152). -/
namespace Sys2Proof.Machine

/-- n elements of one stored row: elements at a, scales at sc (R44, R46). -/
def rowVals (s : State) (fmt a sc n : Nat) : List Val :=
  if isMx fmt then
    let blocks := (n + 31) / 32
    let bs := rdBytes s a (packedBytes fmt (32 * blocks))
    (List.range n).map fun i => scaled (decodeElem fmt (unpackElem fmt bs i)) (rd8 s (sc + i / 32)).toNat
  else
    let bs := rdBytes s a (packedBytes fmt n)
    (List.range n).map fun i => decodeElem fmt (unpackElem fmt bs i)

/-- n rows of k values: stored as rows, or stored as columns and turned (03 R70, R71; 02 R526). -/
def matrixVals (s : State) (fmt a sc stride : Nat) (turn : Bool) (n k : Nat) : List (List Val) :=
  let ss := sstride fmt stride
  if turn then
    let rows := (List.range k).map fun i => rowVals s fmt (a + i * stride) (sc + i * ss) n
    (List.range n).map fun j => rows.map fun r => r.getD j .zero
  else (List.range n).map fun i => rowVals s fmt (a + i * stride) (sc + i * ss) k

/-- Element bytes, scale bytes and tally of FP32 values stored as one row: draws gives the SR draw of each element
(R47, R51, R57, R81). Blocks are padded with +0 (R45). -/
def storeRow (fmt mode scsel : Nat) (vs : List F32) (draws : Nat → Nat) : List Byte × List Byte × Tally :=
  if fmt = 0 then (vs.flatMap fun v => leBytes 4 v.toNat, [], {})
  else if !isMx fmt then
    let cs := (List.range vs.length).map fun i => toHalf fmt mode (draws i) (decodeF32 (vs.getD i 0#32))
    (packElems fmt (cs.map (·.enc)), [], convTally cs)
  else
    let blocks := (List.range ((vs.length + 31) / 32)).map fun q =>
      let part := (vs.drop (32 * q)).take 32
      let full := part.map decodeF32 ++ List.replicate (32 - part.length) Val.zero
      let r := toMxBlock fmt mode scsel full ((List.range 32).map fun i => if i < part.length then draws (32 * q + i) else 0)
      (r.1, r.2, part.length)
    (packElems fmt (blocks.flatMap fun b => b.2.1.map (·.enc)), blocks.map (fun b => BitVec.ofNat 8 b.1),
      blocks.foldl (fun t b => t.add (convTally (b.2.1.take b.2.2))) {})

/-- SR draws of a tensor: index to draw; nothing is drawn in another mode (R51, R55). -/
def drawsOf (mode seed step tensor : Nat) : Nat → Nat :=
  if mode = 2 then
    let key := srKey seed step tensor
    fun i => srDrawKey key i
  else fun _ => 0

/-- Writes of a store: address and bytes. -/
abbrev Writes := List (Nat × List Byte)

/-- Scale bytes padded with zeros to the scale row stride (02 R526). -/
def padTo (n : Nat) (bs : List Byte) : List Byte := bs ++ List.replicate (n - bs.length) 0

/-- Rows of FP32 values to a tile at a with scales at sc (02 R526; 03 R81): writes and tally. index i j is the R56
index of element (i, j). -/
def storeRows (fmt mode scsel a sc stride : Nat) (rows : List (List F32)) (draw : Nat → Nat)
    (index : Nat → Nat → Nat) : Writes × Tally :=
  let ss := sstride fmt stride
  (List.range rows.length).foldl (fun acc i =>
    let r := storeRow fmt mode scsel (rows.getD i []) (fun j => draw (index i j))
    (acc.1 ++ [(a + i * stride, r.1)] ++ (if r.2.1.isEmpty then [] else [(sc + i * ss, padTo ss r.2.1)]), acc.2.add r.2.2)) ([], {})

/-- Carry out scratchpad writes: refused as a whole when one meets an active ring (07 R218). -/
def doWrites (ws : Writes) (s : State) : Option State :=
  if ws.any (fun w => onRing s w.1 w.2.length) then none
  else some (forAll ws (fun w t => wrBytes w.1 w.2 (clearPoison w.1 w.2.length t)) s)

/-- What the reads of several ranges meet (07 R218). -/
def ringReads (s : State) (rs : List (Nat × Nat)) : RingRead :=
  let all := (rs.filter fun r => r.2 != 0).map fun r => ringRead s r.1 r.2
  match all.find? fun x => match x with | .poisoned _ => true | _ => false with
  | some p => p
  | none => if all.contains .stall then .stall else .ready

/-- POISON_READ: a read of these ranges by rood r met a POISONED slot; the payload is the slot's address (07 Tables 7.15, 7.18). -/
def logPoison (r : Nat) (rs : List (Nat × Nat)) (s : State) : State :=
  match s.streams.poison.find? fun e => rs.any fun g => meets g.1 g.2 e.1 e.2.1 with
  | some e => raiseStr 2 (logGlb 0x24 r (e.1 % 2 ^ 48) s)
  | none => s

/-- Mark several ranges as read (07 R219). -/
def markReads (rs : List (Nat × Nat)) (s : State) : State := forAll rs (fun r => markRead r.1 r.2) s

/-- Cell (i, j) of a bank as stored. -/
def cellAt (c b i j : Nat) : Nat := bankBase c b + 4 * (128 * i + j)

/-- FP32 value at an address. -/
def rdF32 (s : State) (a : Nat) : F32 := BitVec.ofNat 32 (rdLe s a 4)

/-- State of bank b of cluster c. -/
def bankOf (s : State) (c b : Nat) : Bank :=
  match s.clusters[c]? with
  | none => {}
  | some k => k.banks.getD b {}

/-- A read of n bytes of the accumulator range by Gill or a stream engine: +0 from a FREE bank (R82). -/
def readCells (s : State) (c b off n : Nat) : List Byte :=
  if (bankOf s c b).st = .free then List.replicate n 0 else rdBytes s (bankBase c b + off) n

/-- Whether a read of the bank stalls (R82, R84). -/
def bankStalls (s : State) (c b : Nat) : Bool :=
  (bankOf s c b).st == .loading || (bankOf s c b).st == .accumulating

/-- A read of n bytes at offset off of the accumulator window of cluster c, which may span its two banks: none while a bank that
it meets stalls it (R82, R84). -/
def bankRead (s : State) (c off n : Nat) : Option (List Byte) :=
  let n0 := min n (0x10000 - off)
  if (n0 != 0 && bankStalls s c 0) || (n0 < n && bankStalls s c 1) then none
  else some (readCells s c 0 off n0 ++ readCells s c 1 (off + n0 - 0x10000) (n - n0))

/-- Gill runs a combination (R147). -/
def combRuns (k : Cluster) : Bool := k.comb.any fun e => e.st == .combining

/-- An operation has started and not completed, or a combination runs. -/
def gillBusy (k : Cluster) : Bool := k.gillRun.isSome || combRuns k

end Sys2Proof.Machine
end

