-- ==== Sys2Proof/Machine/Memory.lean ====
section
/-! DEFINITION. Changes of the repair map, retired blocks, and locations of a stack in error (07 R230, R231; 14 R416, R417). -/
namespace Sys2Proof.Machine

/-! ### The repair map (14 R416, R417, Table 14.1) -/

/-- Whether an entry speaks of the same thing as another: kind, unit, logical and physical number. -/
def sameEntry (a b : RepairEntry) : Bool :=
  a.kind == b.kind && a.unit == b.unit && a.physical == b.physical && (a.kind != 9 || a.logical == b.logical)

/-- Record a change of the repair map and log it (R417). -/
def mapChange (kind st cause unit logical physical : Nat) (s : State) : State :=
  let e : RepairEntry := ⟨kind, st, cause, unit, logical, physical, s.time.now⟩
  let s := { s with repair := (s.repair.filter fun k => !sameEntry k e) ++ [e], repairSeq := (s.repairSeq + 1) % 2 ^ 32 }
  logGlb 0x60 noRood (packLe [(0xFF, 1), (0xFF, 1), (kind, 1), (st, 1), (logical, 2), (physical, 2)]) s

/-! ### Retired blocks (07 R230) -/

/-- Retire the 4,096-byte block at data address a of stack t: a spare row, else a reserve block; with none free the
block is written back and the stack is DEGRADED. -/
def retireBlock (a : Nat) (s : State) : State :=
  match placeOf a 1 with
  | .stk t off =>
    match s.stks[t]? with
    | none => s
    | some k =>
      let blk := off / 4096
      let unit := t + 256 * (blk / 2 ^ 16)
      if 0 < k.spareRows then
        let s := modStack t (fun k => { k with spareRows := k.spareRows - 1, rowsRepaired := satInc 16 k.rowsRepaired }) s
        mapChange 7 1 0 unit (blk % 2 ^ 16) k.rowsRepaired s
      else if 0 < k.reserveFree then
        let phys := 16384 - k.reserveFree
        let s := modStack t (fun k => { k with
          retired := satInc 16 k.retired, reserveFree := k.reserveFree - 1,
          reserveLow := decide (k.reserveFree - 1 < 1024) }) s
        let s := mapChange 8 1 0 unit (blk % 2 ^ 16) phys s
        let s := logStack t 0x04 (some 5) noRood (a % 2 ^ 48) s
        if k.reserveFree - 1 < 1024 ∧ 1024 ≤ k.reserveFree then logStack t 0x05 (some 6) noRood (a % 2 ^ 48) s else s
      else modStack t (fun k => { k with degraded := true }) s
  | _ => s

/-! ### Errors of the stack tier (07 R230, R231) -/

/-- Code of a region kind in STK_LAST_ERR. -/
def lastErrKind (kind : Nat) : Nat := if kind = 3 then 1 else if kind = 4 then 2 else if kind = 5 then 3 else if kind = 2 then 4 else 5

/-- Whether an uncorrectable location of the region is refetched: BASE and ADAPTER with a backing (Tables 7.4, 7.12). -/
def backed (g : Region) : Bool := (g.kind == 3 || g.kind == 4) && g.backing != 0

/-- Data addresses of the bushels whose data, or whose metadata, lie in the 4,096-byte block at a of region g (R210). -/
def blockHolds (g : Region) (a : Nat) : List Nat :=
  let n := regionBushels g
  let base := g.start + 4096 * n
  if g.kind = 1 ∨ a < base then [a]
  else
    let m := metaStride g.fmt
    let lo := (a - base) / m
    let hi := min n ((a + 4096 - base + m - 1) / m)
    (List.range (hi - lo)).map fun i => g.start + 4096 * (lo + i)

/-- A location in error, a block of data or of metadata, is met: counted and recorded once, at the first read that meets it, until it is repaired or loaded again;
an unbacked one is retired at once; in a BUSHEL region its replacement reads as poisoned zeros, and in a BASE or ADAPTER region it
stays UNCORRECTABLE until it is loaded again (R231). -/
def stackError (addr : Nat) (checksum : Bool) (s : State) : State :=
  match placeOf addr 1, regionAt s addr with
  | .stk t _, some g =>
    match s.stks[t]? with
    | none => s
    | some k =>
      let a := addr / 4096 * 4096
      let hit := blockHolds g a
      if hit.any fun b => (tfind b k.errs).isSome || k.bad.contains b then s
      else
        let v := w64 (a % 2 ^ 48 + 2 ^ 48 * lastErrKind g.kind + 2 ^ 52 * g.rood + 2 ^ 63)
        let s := modStack t (fun k => { k with
          uncorr := if checksum then k.uncorr else satInc 32 k.uncorr
          badSum := if checksum then satInc 32 k.badSum else k.badSum
          lastErr := v
          err := raise s.time.now k.err (if checksum then 3 else 2) }) s
        if backed g then modStack t (fun k => { k with errs := hit.foldl (fun e b => tset b true e) k.errs }) s
        else
          let s := retireBlock a s
          let s := if g.kind = 3 ∨ g.kind = 4 then modStack t (fun k => { k with bad := k.bad ++ hit }) s else s
          if g.kind = 2 then
            forAll hit (fun b s => { s with bushels := tset b { fmt := g.fmt, rood := g.rood } s.bushels }) (if hit = [a] then zeroMem a 4096 s else s)
          else s
  | _, _ => s

end Sys2Proof.Machine
end

