-- ==== Sys2Proof/Machine/Spares.lean ====
section
/-! DEFINITION. Failed clusters and engines, their spares, fallback and absence (03 R93 to R97; 04 R119 to R124; 14
R418, R527). -/
namespace Sys2Proof.Machine

/-- The first clock of a furlong boundary in which a takeover may happen (03 R94). -/
def atBoundary (s : State) : Bool := atFurlong s

/-! ### Clusters -/

/-- End every descriptor that satisfies p with a status. -/
def endWork (p : Desc → Bool) (st : Nat) (s : State) : State :=
  forAll (descsWith s fun _ e => p e) (fun d => finish d st 0) s

/-- The spare cluster is ready, and it stands in for no cluster that is being substituted. -/
def spareFree (s : State) : Bool := s.spareCluster.st == .ready && s.clusters.all fun k => k.mode != .substituting

/-- The work of a cluster is gone: its queues, cores, banks and entries are empty (03 R94; 13 R525). -/
def emptyCluster (k : Cluster) : Cluster :=
  { k with cores := List.replicate 4 {}, banks := List.replicate 2 {}, tunQueue := [], gillRun := none,
           comb := List.replicate 16 {}, notices := [] }

/-- Cluster c has no part left: it is absent, and what waited for it completes (03 R97; 14 R527). -/
def clusterGone (c cause phys : Nat) (s : State) : State :=
  let s := mapChange 1 3 cause 0 c phys s
  let s := modCluster c (fun k => { emptyCluster k with mode := .absent }) s
  endWork (fun e => onCluster c e && e.stage == .dispatcher) Sts.clusterAbsent s

/-- Firmware declares logical cluster c failed (03 R94, R97; 14 R527). -/
def failCluster (c cause : Nat) (s : State) : State :=
  match s.clusters[c]? with
  | none => s
  | some k =>
    match k.mode with
    | .absent | .fallback => s
    | .substituting =>
      let s := { s with spareCluster := { s.spareCluster with st := .failed } }
      clusterGone c cause s.spareCluster.phys (mapChange 1 2 cause 0 c s.spareCluster.phys s)
    | .active =>
      let s := endWork (fun e => onCluster c e && e.stage != .dispatcher) Sts.clusterLost s
      if spareFree s then
        let s := modCluster c (fun k => { emptyCluster k with mode := .substituting }) s
        let s := mapChange 1 2 cause 0 c k.phys s
        mapChange 1 1 0 0 c s.spareCluster.phys s
      else clusterGone c cause k.phys s

/-- The spare takes logical cluster c: from now on it is in use (03 R94; 05 Table 5.11). -/
def clusterTakeover (c : Nat) (s : State) : State :=
  match s.clusters[c]? with
  | none => s
  | some k =>
    if k.mode = .substituting ∧ atBoundary s then
      let p := s.spareCluster.phys
      let s := { s with spareCluster := { s.spareCluster with st := .inUse } }
      modCluster c (fun k => { k with phys := p, mode := .active, served := none }) (scrubCluster c s)
    else s

/-! ### Engines -/

/-- The clusters that run passes of engine e of stack t in FALLBACK (04 R122). -/
def fallbackSet (s : State) (t e : Nat) : List Nat :=
  match s.stks[t]?, engineRood s t e with
  | some k, some r =>
    let own := (List.range 16).filter fun c => (match s.clusters[c]? with | some g => g.rood == some r | none => false)
    let named := own.filter fun c => k.fallback.testBit c
    if named.isEmpty then own else named
  | _, _ => []

/-- Whether a pass in FALLBACK on a set has a cluster to run on (04 R124). -/
def fallbackRuns (s : State) (set : List Nat) : Bool := set.any fun c => !clusterAbsent s c

/-- Engine e of stack t enters FALLBACK (04 R122): an outstanding pass starts again on the set of this moment (04 R121). -/
def enterFallback (t e phys : Nat) (s : State) : State :=
  let set := fallbackSet s t e
  let s := modEngine t e (fun k => { k with
    mode := .fallback, set := if k.run.isSome then set else [], acc := none, rerun := false, haltedAt := none }) s
  logFirkin t 0x87 phys e (roodByte (engineRood s t e)) (maskOf 16 set.contains) (some 6) s

/-- Firmware declares logical engine e of stack t failed (04 R120, R122; 14 R527). -/
def failEngine (t e cause : Nat) (s : State) : State :=
  match s.stks[t]? with
  | none => s
  | some k =>
    match k.engines[e]? with
    | none => s
    | some g =>
      let log (phys : Nat) (s : State) : State := logFirkin t 0x85 phys e (roodByte g.rood) cause (some 4) s
      match g.mode with
      | .absent | .fallback => s
      | .substituting =>
        let p := k.sparePhys
        let s := modStack t (fun k => { k with spare := .failed }) (log p s)
        enterFallback t e p (mapChange 2 3 cause t e p (mapChange 2 2 cause t e p s))
      | .active =>
        let s := log g.phys s
        let s := mapChange 2 2 cause t e g.phys s
        if k.spare = .ready then
          let s := modEngine t e (fun g => { g with mode := .substituting, acc := none, rerun := false, haltedAt := none }) s
          modStack t (fun k => { k with spare := .inUse }) (mapChange 2 1 0 t e k.sparePhys s)
        else
          let s := if g.phys = k.sparePhys then modStack t (fun k => { k with spare := .failed }) s else s
          enterFallback t e g.phys (mapChange 2 3 cause t e g.phys s)

/-- The spare engine of stack t takes logical engine e (04 R120, R127). -/
def engineTakeover (t e : Nat) (s : State) : State :=
  match s.stks[t]? with
  | none => s
  | some k =>
    match k.engines[e]? with
    | none => s
    | some g =>
      if g.mode = .substituting ∧ atBoundary s then
        let s := modEngine t e (fun g => { g with phys := k.sparePhys, mode := .active }) s
        logFirkin t 0x86 k.sparePhys e (roodByte g.rood) (rodNum s) none s
      else s

/-! ### Meanings -/

/-- Firmware declares cluster c failed (03 R94). -/
def execClusterFailed (c cause : Nat) (s : State) : Answer :=
  .next (match s.clusters[c]? with
    | some k => if k.mode = .active then failCluster c cause s else s
    | none => s)

/-- The spare takes cluster c's number at a furlong boundary (03 R94). -/
def execClusterSpareIn (c : Nat) (s : State) : Answer := .next (clusterTakeover c s)

/-- Firmware declares a unit failed again (14 R527). -/
def execRepeatFailure (u : FailUnit) (cause : Nat) (s : State) : Answer :=
  .next (match u with
    | .cluster c => failCluster c cause s
    | .engine t e => failEngine t e cause s)

/-- Firmware's daily self-test of a spare (03 R93; 04 R119): none, the spare cluster. -/
def execSpareSelftest (stack : Option Nat) (pass : Bool) (step : Nat) (s : State) : Answer :=
  .next (match stack with
    | none =>
      if !spareFree s then s
      else
        let v := w64 (rodNum s + (if pass then 2 ^ 48 else 0) + (if pass then 0 else 2 ^ 56 * (step % 256)))
        let s := { s with spareCluster := { s.spareCluster with selftest := v } }
        if pass then s
        else
          let p := s.spareCluster.phys
          let s := { s with spareCluster := { s.spareCluster with st := .failed } }
          logEv (Blk.cluster p) 0x09 noRood (packLe [(0xFF, 1), (0xFF, 1), (step, 6)]) (mapChange 1 2 0x01 0 0 p s)
    | some t =>
      match s.stks[t]? with
      | none => s
      | some k =>
        if k.spare ≠ .ready then s
        else
          let s := modStack t (fun k => { k with spareTest := rodNum s }) s
          if pass then s
          else
            let s := modStack t (fun k => { k with spare := .failed }) s
            logFirkin t 0x88 k.sparePhys 0xFF noRood step (some 5) (mapChange 2 2 0x01 t 0 k.sparePhys s))

/-- Firmware declares engine e of stack t failed (04 R120, R122). -/
def execEngineFailed (t e cause : Nat) (s : State) : Answer :=
  .next (match s.stks[t]? with
    | some k => (match k.engines[e]? with | some g => if g.mode = .active then failEngine t e cause s else s | none => s)
    | none => s)

/-- The spare engine takes logical engine e of stack t at a furlong boundary (04 R120). -/
def execSpareIn (t e : Nat) (s : State) : Answer := .next (engineTakeover t e s)

end Sys2Proof.Machine
end

