-- ==== Sys2Proof/Machine/Firkin.lean ====
section
/-! DEFINITION. Firkin passes and base range entries (04 R98 to R118, R122 to R128). -/
namespace Sys2Proof.Machine

/-! ### Weights (04 R98; 07 R210, R211) -/

/-- Block q of a row of weights at a: its 32 values with their scale, from the bushel that holds it. A row of an MXFP6 panel that
begins off a block boundary, or crosses a bushel, goes on in the used bytes of the next bushel, and a block takes the scale of the
block of the bushel in which its first byte lies (log 63). -/
def weightBlock (s : State) (g : Region) (fmt a q : Nat) : List Val :=
  let n := packedBytes fmt 32
  let at' := weightByte a fmt (n * q)
  let bs := (List.range n).map fun i => rd8 s (weightByte a fmt (n * q + i))
  let off := (at' - g.start) % 4096
  let sc := ((metaAt s (at' - off)).sidecar.getD (off / n) 0).toNat
  (List.range 32).map fun i => scaled (decodeElem fmt (unpackElem fmt bs i)) sc

/-- Row j of a panel. -/
def weightRow (s : State) (g : Region) (x : FirkinBody) (j : Nat) : List Val :=
  ((List.range ((x.kp + 31) / 32)).flatMap fun q => weightBlock s g x.wFmt (x.wAddr + j * x.wStride) q).take x.kp

/-- Data addresses of the bushels that a panel reads. -/
def panelBushels (x : FirkinBody) : List Nat :=
  ((List.range x.j).flatMap fun j =>
    let a := x.wAddr + j * x.wStride
    let lo := a / 4096
    let hi := weightByte a x.wFmt (packedBytes x.wFmt x.kp - 1) / 4096
    (List.range (hi - lo + 1)).map fun i => (lo + i) * 4096).eraseDups

/-! ### The products (R58, R98, R100) -/

/-- Activation rows. -/
def activations (s : State) (x : FirkinBody) : List (List Val) :=
  matrixVals s x.xFmt x.xAddr x.xScale x.xStride false x.b (firkinRed x)

/-- The initial value and the factors of every output element of a product of the weight rows w, row after row (R98). -/
def productTerms (s : State) (x : FirkinBody) (w : List (List Val)) : List (F32 × List (Val × Val)) :=
  let xs := activations s x
  (List.range x.b).flatMap fun i =>
    (List.range (firkinCols x)).map fun c =>
      let init := if x.initLoad then rdF32 s (x.initAddr + i * x.outStride + 4 * c) else 0#32
      let wc := if x.bwd then w.map fun r => r.getD c .zero else w.getD c []
      (init, (xs.getD i []).zip wc)

/-- The terms of a pass on weights in a stack region. -/
def firkinTerms (s : State) (g : Region) (x : FirkinBody) : List (F32 × List (Val × Val)) :=
  productTerms s x ((List.range x.j).map (weightRow s g x))

/-- The output, row after row: Y = X·Wᵀ forward, Z = G·W backward, each sum in ascending reduction index. -/
def sumTerms (ts : List (F32 × List (Val × Val))) : List F32 := ts.map fun t => reduceProducts t.1 t.2

/-- What the elements of a product formed on a Tun slice add to its cluster's counters (05 R160). -/
def tallyTerms (ts : List (F32 × List (Val × Val))) : Tally :=
  (ts.map fun t => f32Tally (reduceProducts t.1 t.2) (decodeF32 t.1 :: t.2.flatMap fun p => [p.1, p.2])).foldl Tally.add {}

/-- The counters of a pass on the fallback set: output tiles of 128 columns go to its clusters in turn, in ascending cluster
number (R122; 05 R160). DESIGN CHOICE: an absent cluster of the set keeps its turn (log 63). -/
def countFallback (set : List Nat) (x : FirkinBody) (ts : List (F32 × List (Val × Val))) (s : State) : State :=
  let w := firkinCols x
  let tile (q : Nat) : List (F32 × List (Val × Val)) :=
    (List.range x.b).flatMap fun i => (ts.drop (i * w + 128 * q)).take (min 128 (w - 128 * q))
  forAll (List.range ((w + 127) / 128)) (fun q => countTally (set.getD (q % max set.length 1) 0) (tallyTerms (tile q))) s

/-- Multiply-accumulates of a pass. -/
def firkinMacs (x : FirkinBody) : Nat := x.b * x.j * x.kp

/-! ### Running a pass -/

/-- Ranges that a pass reads. -/
def firkinInputs (x : FirkinBody) : List (Nat × Nat) :=
  rowRanges x.xFmt x.xAddr x.xScale x.xStride x.b (firkinRed x) ++
    (if x.initLoad then [(x.initAddr, firkinSpan x)] else [])

/-- End pass d of engine e of stack t with a status. -/
def endPass (t e d st : Nat) (s : State) : State :=
  finish d st 0 (passDone d (modEngine t e (fun k => { k with run := none, set := [], acc := none, rerun := false, haltedAt := none }) s))

/-- The running pass of engine e of stack t halts at weight bushel a, which the recovery path refetches (R125, R127). It keeps the
products that it has applied, and goes on from there. -/
def haltPass (t e a : Nat) (s : State) : State :=
  match s.stks[t]? with
  | none => s
  | some k =>
    let g := k.engines.getD e { phys := 0 }
    let s := modStack t (fun k => { k with refetches := satInc 16 k.refetches }) s
    logFirkin t 0x84 g.phys e (roodByte g.rood) a (some 2) (modEngine t e (fun g => { g with haltedAt := some a }) s)

/-- A range lies in the scratchpad or in a bank of an absent cluster (03 R97). -/
def onAbsent (s : State) (rs : List (Nat × Nat)) : Bool :=
  rs.any fun r => r.2 != 0 && (match placeOf r.1 1 with | .scratch c _ | .bank c _ => clusterAbsent s c | _ => false)

/-- The ranges that a pass writes. -/
def firkinOutputs (x : FirkinBody) : List (Nat × Nat) := (List.range x.b).map fun i => (x.outAddr + i * x.outStride, 4 * firkinCols x)

/-- Apply the products of the running pass: it waits for ring slots, halts at a weight bushel in error, and ends where
no good copy of one exists (R112, R125, R126), no cluster of the set fixed at its start can run it (R122, R124), or an operand lies
in an absent cluster (03 R97). -/
def applyProducts (t e d : Nat) (x : FirkinBody) (s : State) : State :=
  match s.stks[t]? with
  | none => s
  | some k =>
    let g := k.engines.getD e { phys := 0 }
    if g.acc.isSome || g.haltedAt.isSome || g.mode == .substituting || stackPaused s t then s
    else if g.mode == .fallback && !fallbackRuns s g.set then endPass t e d Sts.engineAbsent s
    else if onAbsent s (firkinInputs x) then endPass t e d Sts.notPermitted s
    else
      match ringReads s (firkinInputs x) with
      | .stall => s
      | .poisoned st => endPass t e d st (logPoison (roodByte g.rood) (firkinInputs x) s)
      | .ready =>
        let bs := panelBushels x
        if bs.any k.bad.contains then endPass t e d Sts.uncorrectable s
        else
          match bs.find? fun a => (tfind a k.errs).isSome with
          | some a => haltPass t e a s
          | none =>
            match regionAt s x.wAddr with
            | none => s
            | some rg =>
              let ts := firkinTerms s rg x
              let s := markReads (firkinInputs x) s
              let s := if g.mode == .fallback then countFallback g.set x ts s
                else modStack t (fun k => { k with macs := k.macs + firkinMacs x }) s
              modEngine t e (fun k => { k with acc := some (sumTerms ts) }) s

/-- The running pass of engine e of stack t, or the head of its queue started. -/
def runPass (t e : Nat) (s : State) : State :=
  match s.stks[t]? with
  | none => s
  | some k =>
    let g := k.engines.getD e { phys := 0 }
    let go (d : Nat) (s : State) : State :=
      match tfind d s.descs with
      | none => s
      | some v => match v.body with | .firkin x => applyProducts t e d x s | _ => s
    match g.run with
    | some d => go d s
    | none =>
      if g.mode == .substituting then s
      else
        match g.queue.head? with
        | none => s
        | some d =>
          match tfind d s.descs with
          | none => s
          | some v =>
            if startReady s d v then
              let set := if g.mode == .fallback then fallbackSet s t e else []
              go d (modEngine t e (fun k => { k with run := some d, set := set }) (markStarted d v s))
            else s

/-- Every egress line of the running pass is resident (R113, R114): its completion is written as soon as those of the passes
accepted before it are (R115). A halted pass, or one of a paused engine, has not come so far (R125, R129); one whose output lies in
a cluster that has become absent writes nothing (03 R97). -/
def passComplete (t e : Nat) (s : State) : State :=
  match s.stks[t]? with
  | none => s
  | some k =>
    let g := k.engines.getD e { phys := 0 }
    match g.run, g.acc with
    | some d, some acc =>
      if g.haltedAt.isSome || stackPaused s t then s
      else
      match tfind d s.descs with
      | none => s
      | some v =>
        match v.body with
        | .firkin x =>
          let w := firkinCols x
          let ws : Writes := (List.range x.b).map fun i =>
            (x.outAddr + i * x.outStride, ((acc.drop (i * w)).take w).flatMap fun f => leBytes 4 f.toNat)
          if onAbsent s (firkinOutputs x) then tryComplete d (endPass t e d Sts.notPermitted s)
          else
          (match doWrites ws s with
          | none => tryComplete d (endPass t e d Sts.notPermitted (logRingRefused v.rood x.outAddr s))
          | some u => tryComplete d (endPass t e d Sts.ok u))
        | _ => s
    | _, _ => s

/-! ### Meanings -/

/-- Engine e of stack t starts its next accepted pass and applies its products (R112, R115, R116). -/
def execFirkinPassRun (t e : Nat) (s : State) : Answer := .next (runPass t e s)

/-- Every egress line is resident and the completion is written (R114). -/
def execFirkinPassComplete (t e : Nat) (s : State) : Answer := .next (passComplete t e s)

/-- An uncorrectable SRAM word: the pass runs again once, then the engine is declared failed (R118). -/
def execPassRerun (t e word : Nat) (s : State) : Answer :=
  .next (match s.stks[t]? with
    | none => s
    | some k =>
      let g := k.engines.getD e { phys := 0 }
      match g.run with
      | none => s
      | some d =>
        if g.mode ≠ .active then s
        else
          let rood := roodByte g.rood
          let s := modStack t (fun k => { k with sramUncorr := satInc 16 k.sramUncorr }) s
          let s := logFirkin t 0x83 g.phys e rood word (some 1) s
          if g.rerun then failEngine t e 0x02 s
          else
            let seq := match tfind d s.descs with | some v => v.seq | none => 0
            logFirkin t 0x81 g.phys e rood seq none (modEngine t e (fun g => { g with rerun := true, acc := none }) s))

/-- A weight read of the running pass met an uncorrectable error in the bushel at addr: the pass halts there while the
recovery path refetches it (R125; 07 R231). -/
def execWeightRefetch (t e addr : Nat) (s : State) : Answer :=
  .next (match s.stks[t]? with
    | none => s
    | some k =>
      let g := k.engines.getD e { phys := 0 }
      match g.run with
      | none => s
      | some d =>
        match tfind d s.descs with
        | none => s
        | some v =>
          match v.body with
          | .firkin x =>
            let a := addr / 4096 * 4096
            if (panelBushels x).contains a && g.haltedAt.isNone && (g.mode == .active || g.mode == .fallback) then
              haltPass t e a (stackError a false s)
            else s
          | _ => s)

/-- Free entry i of stack t where it is RELEASING with no hold and no pass outstanding (R106). -/
def releaseLock (t i : Nat) (s : State) : State :=
  match s.stks[t]? with
  | none => s
  | some k =>
    match k.locks[i]? with
    | none => s
    | some l =>
      if l.st = .releasing ∧ l.holds = 0 ∧ l.passes = 0 then
        logFirkin t 0x8A 0xFF 0xFF l.rood i none (modLock t i (fun _ => {}) s)
      else s

/-- Entry i of stack t is RELEASING with HOLDS = 0 and PASSES = 0, and becomes FREE (R106). -/
def execLockReleased (t i : Nat) (s : State) : Answer := .next (releaseLock t i s)

end Sys2Proof.Machine
end

