-- ==== Sys2Proof/Machine/Mail.lean ====
section
/-! DEFINITION. The model and training mailboxes of a rood: submission, replies, outstanding commands (17 R494, R495; 08
R248). -/
namespace Sys2Proof.Machine

/-- Which mailbox of a rood. -/
inductive Box where
  | model | training
  deriving DecidableEq, Repr

/-- A mailbox of rood r. -/
def boxOf (s : State) (b : Box) (r : Nat) : Mailbox :=
  match s.roods[r]? with
  | none => {}
  | some k => match b with | .model => k.mdl | .training => k.trn

def modBox (b : Box) (r : Nat) (f : Mailbox → Mailbox) (s : State) : State :=
  modRood r (fun k => match b with | .model => { k with mdl := f k.mdl } | .training => { k with trn := f k.trn }) s

/-- A reply record (06 Table 6.6): KIND holds CMD, QUEUE holds 0 (08 R248). -/
def replyWords (s : State) (tag seq st cmd detail : Nat) : List Word :=
  let bs := leBytes 8 s.time.now ++ leBytes 6 (rodNum s) ++ leBytes 2 (eraOf s s.time.now) ++ leBytes 4 tag ++ leBytes 4 seq ++
    leBytes 1 st ++ leBytes 1 cmd ++ leBytes 2 0 ++ leBytes 4 detail
  (List.range 4).map fun w => w64 (field bs (8 * w) 8)

/-- Write a reply into the ring of 256 records (17 R494). -/
def putReply (b : Box) (r tag seq st cmd detail : Nat) (s : State) : State :=
  modBox b r (fun m => { m with
    ring := tset (m.written % 256) (replyWords s tag seq st cmd detail) m.ring, written := (m.written + 1) % 2 ^ 32 }) s

/-- Fields of every command record. -/
def cmdCode (c : Cmd) : Nat := field c.bytes 0 1
def cmdTag (c : Cmd) : Nat := field c.bytes 8 4

/-- The final reply to a command, which is no longer outstanding. -/
def finalReply (b : Box) (r : Nat) (c : Cmd) (st detail : Nat) (s : State) : State :=
  modBox b r (fun m => { m with outstanding := m.outstanding.filter fun o => o.seq != c.seq })
    (putReply b r (cmdTag c) c.seq st (cmdCode c) detail s)

/-- DEFERRED for a command that stays outstanding, once (R248; 00 R18). -/
def deferReply (b : Box) (r : Nat) (c : Cmd) (s : State) : State :=
  if c.deferred then s
  else
    let s := putReply b r (cmdTag c) c.seq Sts.deferred (cmdCode c) 0 s
    modBox b r (fun m => { m with outstanding := m.outstanding.map fun o =>
      if o.seq = c.seq then { o with deferred := true } else o }) s

/-- Submit a record: it takes its SEQ; one that is refused at once gets its reply, and so does a 17th outstanding command, whose code
ranks below any other (17 R494; 00 R20). -/
def submitCmd (b : Box) (r : Nat) (bytes : List Byte) (refuse : Option Nat) (s : State) : State :=
  let m := boxOf s b r
  let c : Cmd := { seq := m.seq, stamp := s.time.now, bytes := bytes }
  let s := modBox b r (fun m => { m with seq := (m.seq + 1) % 2 ^ 32 }) s
  match refuse with
  | some st => putReply b r (cmdTag c) c.seq st (cmdCode c) 0 s
  | none =>
    if 16 ≤ m.outstanding.length then putReply b r (cmdTag c) c.seq Sts.refusedCapacity (cmdCode c) 0 s
    else modBox b r (fun m => { m with outstanding := m.outstanding ++ [c] }) s

/-- The oldest outstanding command of a code that has not been deferred. -/
def nextCmd (s : State) (b : Box) (r code : Nat) : Option Cmd :=
  (boxOf s b r).outstanding.find? fun c => cmdCode c == code && !c.deferred

/-- The outstanding command with a SEQ. -/
def cmdBySeq (s : State) (b : Box) (r seq : Nat) : Option Cmd := (boxOf s b r).outstanding.find? fun c => c.seq == seq

/-- The reply that an index selects: zero if overwritten or not yet written (17 Table 17.6). -/
def selectedReply (m : Mailbox) : List Word :=
  let back := dist 32 m.written m.sel
  if 0 < back ∧ back ≤ 256 then tgetD (m.sel % 256) [0, 0, 0, 0] m.ring else [0, 0, 0, 0]

end Sys2Proof.Machine
end

