-- ==== Sys2Proof/Machine/Comb.lean ====
section
/-! DEFINITION. Combination entries: arming, resident shards, combination, timeout (05 R145 to R149; 02 R63, R64). -/
namespace Sys2Proof.Machine

/-- Entry i of cluster c. -/
def combOf' (s : State) (c i : Nat) : Comb :=
  match s.clusters[c]? with
  | none => {}
  | some k => k.comb.getD i {}

/-- The deadline of an entry, its rod and era as one value (10 R319). -/
def Comb.deadline (v : Comb) : Nat := v.dlEra * 2 ^ 48 + v.dlRod

/-- Arm entry i of cluster c (R145). The caller has found it FREE. -/
def armEntry (c i : Nat) (v : Comb) (s : State) : State := modComb c i (fun _ => { v with st := .armed }) s

/-- End an entry with a status: its descriptor's result, its summary, and the entry FREE with every field zero
(R147, R154). -/
def endComb (c i st value : Nat) (s : State) : State :=
  let v := combOf' s c i
  let detail := match tfind v.desc s.descs with
    | some e => (match e.body with | .k1 _ => e.progress | _ => 0)
    | none => 0
  let s := finish v.desc st detail s
  let s := match v.sum with | some slot => writeSummary c v.core slot value st s | none => s
  modComb c i (fun _ => {}) s

/-- Byte count of resident shards. -/
def residentCount (v : Comb) : Nat := popCount 64 v.mask

/-- One shard completion reaches its entry (R146, R149). One that both mismatches the entry and is late logs COMB_MISMATCH alone
(log 63). -/
def shardArrives (c : Nat) (n : ShardNotice) (s : State) : State :=
  let v := combOf' s c n.entry
  let core := if v.st = .free then 0xFF else v.core
  if v.st = .free then logCluster c 0x03 core (packLe [(n.entry, 1), (n.shard, 1)]) s
  else if v.rood ≠ n.rood then s
  else if n.shards ≠ v.s ∨ v.s ≤ n.shard ∨ n.bytes ≠ v.tileBytes then
    logCluster c 0x04 core (packLe [(n.entry, 1), (n.shard, 1), (n.shards, 1)]) s
  else if rodPast s v.deadline n.stamp then logCluster c 0x03 core (packLe [(n.entry, 1), (n.shard, 1)]) s
  else if v.mask.testBit n.shard then logCluster c 0x05 core (packLe [(n.entry, 1), (n.shard, 1)]) s
  else
    modComb c n.entry (fun k =>
      let m := setBit k.mask n.shard
      { k with mask := m, st := if m = 2 ^ k.s - 1 then .ready else k.st, raised := if m = 2 ^ k.s - 1 then none else k.raised }) s

/-- FP32 values of slot q of an entry. -/
def slotVals (s : State) (c : Nat) (v : Comb) (q : Nat) : List F32 :=
  let a := scratchBase c + v.slotBase + q * v.slotStride
  (List.range (v.tileBytes / 4)).map fun j => rdF32 s (a + 4 * j)

/-- Elementwise sum of slots 0 to S - 1 in ascending order (R63, R148), with the counters' tally. -/
def combineSlots (slots : List (List F32)) : List F32 × Tally :=
  match slots with
  | [] => ([], ⟨0, 0, 0⟩)
  | p0 :: ps =>
    let r := ps.foldl (fun acc p => (acc.zip p).map fun x => fAdd x.1 x.2) p0
    let ops (j : Nat) : List Val := slots.map fun l => decodeF32 (l.getD j 0#32)
    (r, ((List.range r.length).map fun j => f32Tally (r.getD j 0#32) (if slots.length = 1 then [decodeF32 (r.getD j 0#32)] else ops j)).foldl Tally.add ⟨0, 0, 0⟩)

/-- Bytes of FP32 values. -/
def f32Bytes (vs : List F32) : List Byte := vs.flatMap fun v => leBytes 4 v.toNat

/-- Columns of block q of a REDUCE split: J over P, rounded up to a multiple of 128, the last block what is left (06
R201). -/
def k1Block (x : K1Body) (q : Nat) : Nat × Nat :=
  let w := ((x.j + x.p - 1) / max x.p 1 + 127) / 128 * 128
  (min (q * w) x.j, min ((q + 1) * w) x.j)

/-- Columns of a split's output rows (06 R201; log 22). -/
def k1OutCols (x : K1Body) : Nat :=
  if x.gather then x.p * x.j else (k1Block x x.myshard).2 - (k1Block x x.myshard).1

/-- Where a combination writes: DEST as one run, or the rows of a K1 output (06 R201). -/
def combWrites (s : State) (c : Nat) (v : Comb) (rs : List F32) : Writes :=
  let base := scratchBase c
  match tfind v.desc s.descs with
  | some e =>
    match e.body with
    | .k1 x =>
      let w := k1OutCols x
      (List.range x.b).map fun i => (base + x.outAddr + i * x.outStride, f32Bytes ((rs.drop (i * w)).take w))
    | _ => [(base + v.dest, f32Bytes rs)]
  | none => [(base + v.dest, f32Bytes rs)]

/-- Rows of a K1 GATHER output: block q of each row in ascending shard order (06 R201). -/
def gatherRows (x : K1Body) (slots : List (List F32)) : List F32 :=
  (List.range x.b).flatMap fun i => slots.flatMap fun l => (l.drop (i * x.j)).take x.j

/-- The split whose blocks a GATHER entry collects. -/
def gatherOf (s : State) (v : Comb) : Option K1Body :=
  match tfind v.desc s.descs with
  | some e => (match e.body with | .k1 x => if x.gather then some x else none | _ => none)
  | none => none

/-- A combination ends with a status, and Gill has completed one operation more (Table 5.2, Table 5.9). -/
def combEnds (c i st value : Nat) (s : State) : State :=
  endComb c i st value (modCluster c (fun k => { k with gillOps := satInc 64 k.gillOps }) s)

/-- The last result of a COMBINING entry is written, and the entry becomes FREE (R147, R148). -/
def combWrite (c i : Nat) (s : State) : State :=
  let v := combOf' s c i
  let base := scratchBase c
  let rs := (List.range v.s).map fun q => (base + v.slotBase + q * v.slotStride, v.tileBytes)
  match ringReads s rs with
  | .stall => s
  | .poisoned st => combEnds c i st 0 (logPoison v.rood rs s)
  | .ready =>
    let slots := (List.range v.s).map (slotVals s c v)
    let r := match gatherOf s v with | some x => (gatherRows x slots, (⟨0, 0, 0⟩ : Tally)) | none => combineSlots slots
    match doWrites (combWrites s c v r.1) s with
    | none => combEnds c i Sts.notPermitted 0 (logRingRefused v.rood (base + v.dest) s)
    | some t => combEnds c i Sts.ok (r.2.invalid % 2 ^ 32 + 2 ^ 32 * (r.2.ovf % 2 ^ 32)) (countTally c r.2 t)

/-- COMBINATION (R147, R148): Gill starts a READY entry at its next operation start, and a COMBINING one ends (log 66). -/
def combine (c i : Nat) (s : State) : State :=
  match (combOf' s c i).st with
  | .ready =>
    let busy := match s.clusters[c]? with | some k => gillBusy k | none => true
    if busy || clusterPaused s c then s else modComb c i (fun k => { k with st := .combining }) s
  | .combining => if clusterPaused s c then s else combWrite c i s
  | _ => s

/-- A shard completion for entry i that is in time is still on its way. -/
def inTimeNotice (s : State) (c i : Nat) : Bool :=
  let v := combOf' s c i
  match s.clusters[c]? with
  | none => false
  | some k => k.notices.any fun n => n.entry == i && n.rood == v.rood && !rodPast s v.deadline n.stamp

/-- An ARMED entry whose deadline and settle interval have passed completes with TIMEOUT, unless a completion in time is still on
its way (R149; 10 R323). -/
def expireComb (c i : Nat) (s : State) : State :=
  let v := combOf' s c i
  if v.st = .armed ∧ rodSettled s v.deadline ∧ !inTimeNotice s c i then
    endComb c i Sts.timeout 0 (logCluster c 0x02 v.core (packLe [(i, 1), (residentCount v, 1)]) s)
  else s

/-- The deadline of entry i of cluster c has passed: its timeout is raised, and final after the settle interval. -/
def timeoutComb (c i : Nat) (s : State) : State :=
  let v := combOf' s c i
  if v.st = .armed ∧ rodPast s v.deadline s.time.now then
    expireComb c i (modComb c i (fun k => { k with raised := some (deadlineStampEra s v.dlRod v.dlEra) }) s)
  else s

/-- The oldest shard completion on its way to cluster c's entries reaches its entry (R146). -/
def execShardResident (c : Nat) (s : State) : Answer :=
  .next (match s.clusters[c]? with
    | none => s
    | some k =>
      match k.notices with
      | [] => s
      | n :: rest => shardArrives c n (modCluster c (fun k => { k with notices := rest }) s))

/-- Gill combines READY entry i of cluster c (R148). -/
def execCombination (c i : Nat) (s : State) : Answer := .next (combine c i s)

/-- The deadline of entry i of cluster c passes (R149). -/
def execCombTimeout (c i : Nat) (s : State) : Answer := .next (timeoutComb c i s)

end Sys2Proof.Machine
end

