-- ==== Sys2Proof/Machine/Links.lean ====
section
/-! DEFINITION. The Ahnura links: topology and paths, training, failure, spares, and the receipt of flits (11 R329 to
R343). The outcome of training and the bytes of a flit are operands (log 17). -/
namespace Sys2Proof.Machine

/-! ### Topology (R340, R341) -/

/-- Group and member of a fabric position. -/
def groupOf (p : Nat) : Nat := p / 64
def memberOf (p : Nat) : Nat := p % 64

/-- Whether a position is part of the configured system. -/
def present (s : State) (p : Nat) : Bool := groupOf p < s.fab.groups && (s.fab.members.getD (groupOf p) 0).testBit (memberOf p)

/-- Ends of a group towards each other group: P of R341. -/
def endsPer (s : State) : Nat := 2112 / (s.fab.groups - 1)

/-- Global end e = 33 m + g of group a: the group it leads to and its index j (R341). -/
def endLeads (s : State) (a e : Nat) : Option (Nat × Nat) :=
  let g := s.fab.groups
  if g < 2 ∨ endsPer s * (g - 1) ≤ e then none
  else some ((a + 1 + e % (g - 1)) % g, e / (g - 1))

/-- The end of group a that is its j-th towards group b. -/
def endOf (s : State) (a b j : Nat) : Nat :=
  let g := s.fab.groups
  (b + g - a % g) % g - 1 + j * (g - 1)

/-- Peer position and peer link of logical link l of this module (R340, R341). -/
def linkPeer (s : State) (l : Nat) : Option (Nat × Nat) :=
  let a := groupOf s.fab.pos
  let m := memberOf s.fab.pos
  if l < 63 then some (64 * a + (m + 1 + l) % 64, 62 - l)
  else
    match endLeads s a (33 * m + (l - 63)) with
    | none => none
    | some (b, j) =>
      let e := endOf s b a j
      some (64 * b + e / 33, 63 + e % 33)

/-- A link is UP. -/
def linkUp (s : State) (l : Nat) : Bool := match s.links[l]? with | some k => k.st == .up | none => false

/-- The link of this module to member v of its group. -/
def memberLink (s : State) (v : Nat) : Nat := (v + 127 - memberOf s.fab.pos) % 64

/-- Ends of this module's group towards group b: index j, member, link on that member, in ascending j. -/
def endsTowards (s : State) (b : Nat) : List (Nat × Nat × Nat) :=
  if s.fab.groups < 2 then []
  else (List.range (endsPer s)).map fun j =>
    let e := endOf s (groupOf s.fab.pos) b j
    (j, e / 33, 63 + e % 33)

/-! ### Paths (R342, R343) -/

/-- A path as its sender sees it: first link, DETOUR, VIA. -/
abbrev Path := Nat × Bool × Nat

/-- UP paths to another position, the minimal one first (Table 11.8). Only this module's own links are known to it. -/
def pathsTo (s : State) (dst : Nat) : List Path :=
  let me := memberOf s.fab.pos
  let v := memberOf dst
  if dst = s.fab.pos then []
  else if groupOf dst = groupOf s.fab.pos then
    let vias := (List.range 64).filter fun w =>
      w != me && w != v && present s (64 * groupOf dst + w) && linkUp s (memberLink s w)
    (if linkUp s (memberLink s v) then [(memberLink s v, false, v)] else []) ++ vias.map fun w => (memberLink s w, true, w)
  else
    let es := endsTowards s (groupOf dst)
    let own := es.filter fun e => e.2.1 == me && linkUp s e.2.2
    let gates := (es.map (·.2.1)).eraseDups.filter fun w =>
      w != me && present s (64 * groupOf s.fab.pos + w) && linkUp s (memberLink s w)
    own.map (fun e => (e.2.2, false, me)) ++
      gates.map fun w => (memberLink s w, es.any fun e => e.2.1 == me, w)

/-- The path that a transfer without detours uses: the direct link, or the lowest j whose end is UP (R343). -/
def plainPath (s : State) (dst : Nat) : Option Path :=
  if groupOf dst = groupOf s.fab.pos then (pathsTo s dst).find? fun p => !p.2.1
  else
    (endsTowards s (groupOf dst)).findSome? fun e =>
      if e.2.1 = memberOf s.fab.pos then (if linkUp s e.2.2 then some (e.2.2, false, e.2.1) else none)
      else (pathsTo s dst).find? fun p => p.2.2 == e.2.1 && p.1 == memberLink s e.2.1

/-- The link on which a module forwards a packet that is not for it: in the source's group only the member VIA does, to the destination in its
group or over its end towards the other; after the global link the landing member goes straight to the destination (R342). -/
def forwardLink (s : State) (p : Packet) : Option Nat :=
  let me := memberOf s.fab.pos
  let source : Bool := groupOf p.src == groupOf s.fab.pos
  if source && p.via != me then none
  else if groupOf p.dst = groupOf s.fab.pos then
    let l := memberLink s (memberOf p.dst)
    if linkUp s l && (!source || p.detour) then some l else none
  else if !source then none
  else ((endsTowards s (groupOf p.dst)).find? fun e => e.2.1 == me && linkUp s e.2.2).map (·.2.2)

/-- Virtual channel of a packet on hop h (R337, Table 11.5). -/
def vcOf (p : Packet) (h : Nat) : Nat :=
  let resp := p.typ = 3 ∨ (p.typ = 6 ∧ (p.ext % 256 = 1 ∨ p.ext % 256 = 2))
  if p.typ = 5 then 6 else if resp then 3 + h else h

/-- Flits that carry one packet: bodies of 244 bytes (R336; log 17). -/
def flitsOf (p : Packet) : Nat := (40 + p.data.length + 243) / 244

/-- Receive buffers of the channels (Table 11.5). -/
def fullCredits : Table Nat := [(0, 32), (1, 32), (2, 32), (3, 32), (4, 32), (5, 32), (6, 4), (7, 0)]

/-! ### Flits out (R336 to R338) -/

/-- One bit step of the reflected CRC-32 of R336. -/
def crc32Step (c : Nat) : Nat := if c % 2 = 1 then c / 2 ^^^ 0xEDB88320 else c / 2

/-- CRC-32 with polynomial 0x04C11DB7, reflected, initial value and final XOR all ones (R336). -/
def crc32 (bs : List Byte) : Nat :=
  let step (c : Nat) (b : Byte) : Nat :=
    crc32Step (crc32Step (crc32Step (crc32Step (crc32Step (crc32Step (crc32Step (crc32Step (c ^^^ b.toNat))))))))
  bs.foldl step (2 ^ 32 - 1) ^^^ (2 ^ 32 - 1)

/-- Bytes of a packet: header and data (Table 11.6). -/
def packetBytes (p : Packet) : List Byte :=
  leBytes 1 (p.typ % 16 + 16 * p.signal.toNat) ++ leBytes 1 (p.data.length / 64) ++ leBytes 2 (p.dst % 4096 + 4096 * p.dstRood) ++
    leBytes 2 (p.src % 4096 + 4096 * p.srcRood) ++ leBytes 1 (p.hop % 4 + 4 * p.detour.toNat) ++ leBytes 1 p.via ++ leBytes 6 p.addr ++
    leBytes 1 p.signalCtr ++ leBytes 1 p.xslot ++ leBytes 8 p.stamp ++ leBytes 4 p.index ++ leBytes 4 p.total ++ leBytes 1 p.xgen ++
    leBytes 7 p.ext ++ p.data

/-- Bytes of a flit, its CRC last (Table 11.4). -/
def flitBytes (f : Flit) : List Byte :=
  let bs := leBytes 8 (f.seq % 2 ^ 12 + 2 ^ 12 * (f.ack % 2 ^ 12) + 2 ^ 24 * f.kind + 2 ^ 26 * f.vc + 2 ^ 29 * f.first +
    2 ^ 35 * f.creditVc + 2 ^ 38 * f.credits) ++ f.body
  bs ++ leBytes 4 (crc32 bs)

/-- A flit leaves on link l. -/
def wire (l : Nat) (f : Flit) (s : State) : State := modFab (fun k => { k with flitOut := k.flitOut ++ [(l, flitBytes f)] }) s

/-- n bytes of a body that carry no packet. -/
def filler (n : Nat) (s : State) : List Byte × State :=
  (leBytes n (Config.flitFill s.fab.fills), modFab (fun f => { f with fills := f.fills + 1 }) s)

/-- The channel whose credits the next flit hands back, and how many: at most 63 (Table 11.4). -/
def owedOf (k : Link) : Nat × Nat :=
  match k.owed.find? fun e => 0 < e.2 with
  | some e => (e.1, min 63 e.2)
  | none => (0, 0)

/-- Send one flit; a DATA flit takes a SEQ, a place in the retry buffer and a count. -/
def sendFlit (l kind ack vc first : Nat) (body : List Byte) (s : State) : State :=
  match s.links[l]? with
  | none => s
  | some k =>
    let o := owedOf k
    let f : Flit := { seq := k.txSeq, ack := ack, kind := kind, vc := vc, first := first, creditVc := o.1, credits := o.2, body := body }
    wire l f (modLink l (fun k => { k with
      owed := if o.2 = 0 then k.owed else tset o.1 (tgetD o.1 0 k.owed - o.2) k.owed
      txSeq := if kind = 0 then (k.txSeq + 1) % 4096 else k.txSeq
      retry := if kind = 0 then k.retry ++ [f] else k.retry
      txFlits := if kind = 0 then satInc 64 k.txFlits else k.txFlits }) s)

/-- The last SEQ received intact. -/
def lastIntact (k : Link) : Nat := (k.rxSeq + 4095) % 4096

/-- A flit without a packet: NULL, REPLAY_REQ or LINK_MGMT. -/
def sendControlFlit (l kind ack : Nat) (s : State) : State :=
  let (bs, s) := filler 244 s
  sendFlit l kind ack 0 63 bs s

/-- A rod sync's CORRECTION takes up the time that it has waited (R353). -/
def aged (now : Nat) (q : Queued) : Packet :=
  if q.packet.typ = 5 then
    let d := q.packet.data
    { q.packet with data := d.take 8 ++ leBytes 8 (field d 8 8 + (now - q.since)) ++ d.drop 16 }
  else q.packet

/-- All flits of a packet have their credits and their places in the retry buffer of 256. DESIGN CHOICE (log 17): the flits of one packet leave
together. -/
def sendable (k : Link) (q : Queued) : Bool :=
  flitsOf q.packet ≤ tgetD q.vc 0 k.credits && k.retry.length + flitsOf q.packet ≤ 256

/-- VC 6 first, the others in turn after the one served last (R337). -/
def vcOrder (last : Nat) : List Nat := 6 :: (List.range 6).map fun i => (last + 1 + i) % 6

/-- The packet that leaves next: the oldest of the first channel whose oldest can leave. -/
def nextQueued (k : Link) : Option Queued :=
  (vcOrder k.lastVc).findSome? fun v =>
    match k.waiting.find? fun q => q.vc == v with
    | some q => if sendable k q then some q else none
    | none => none

/-- The flits of a packet leave; each packet starts a flit (log 17). -/
def sendPacket (l : Nat) (q : Queued) (s : State) : State :=
  let bs := packetBytes (aged s.time.now q)
  let n := flitsOf q.packet
  let (fill, s) := filler (244 * n - bs.length) s
  let ack := match s.links[l]? with | some k => lastIntact k | none => 0
  let s := modLink l (fun k => { k with
    credits := tset q.vc (tgetD q.vc 0 k.credits - n) k.credits, lastVc := if q.vc = 6 then k.lastVc else q.vc }) s
  forAll (List.range n) (fun i => sendFlit l 0 ack q.vc (if i = 0 then 0 else 63) (((bs ++ fill).drop (244 * i)).take 244)) s

/-- Send what can leave, at most n packets. -/
def pump : Nat → Nat → State → State
  | 0, _, s => s
  | n + 1, l, s =>
    match s.links[l]? with
    | none => s
    | some k =>
      match nextQueued k with
      | none => s
      | some q => pump n l (sendPacket l q (modLink l (fun k => { k with waiting := k.waiting.eraseP (·.vc == q.vc) }) s))

/-- What waits at the port of an UP link leaves as far as credits and the retry buffer allow. -/
def pumpLink (l : Nat) (s : State) : State :=
  match s.links[l]? with
  | none => s
  | some k => if k.st = .up then pump k.waiting.length l s else s

/-- A packet comes to the port of link l. -/
def atPort (l vc : Nat) (p : Packet) (since : Nat) (s : State) : State :=
  pumpLink l (modLink l (fun k => { k with
    waiting := k.waiting ++ [⟨vc, p, since⟩]
    creditAt := if k.waiting.any (·.vc == vc) then k.creditAt else tset vc s.time.now k.creditAt }) s)

/-- A packet is handed to the port of link l. -/
def putOut (l : Nat) (p : Packet) (s : State) : State :=
  atPort l (vcOf p p.hop) p s.time.now (modFab (fun f => { f with out := f.out ++ [(l, p)] }) s)

/-- Send a packet of this module on a chosen path. -/
def sendOn (q : Path) (p : Packet) (s : State) : State :=
  putOut q.1 { p with hop := 0, detour := q.2.1, via := q.2.2 } s

/-- Send on the minimal path, never on a detour (R351). -/
def sendMinimal (p : Packet) (s : State) : State :=
  match (pathsTo s p.dst).find? fun q => !q.2.1 with
  | none => s
  | some q => sendOn q p s

/-- Send on one of the UP paths: the sender's occupancies choose, which the model leaves free (R343, log 5). -/
def sendAdaptive (p : Packet) (s : State) : State :=
  match pathsTo s p.dst with
  | [] => s
  | q :: qs =>
    let (v, s) := fresh 16 s
    sendOn ((q :: qs).getD (v % (qs.length + 1)) q) p s

/-! ### Packets that go no further (R339, R356) -/

/-- A discarded packet counts as stale. -/
def countStale (s : State) : State := raiseFab 2 (modFab (fun f => { f with stale := satInc 16 f.stale }) s)

/-- Ten microseconds in ticks: the lifetime of a packet (R356). -/
abbrev packetLife : Nat := 40000

/-- A packet that breaks R339 is discarded: PACKET_MALFORMED. -/
def dropMalformed (src typ : Nat) (s : State) : State :=
  raiseFab 0 (logEv Blk.fabric 0x07 noRood (packLe [(0xFFFF, 2), (src, 2), (typ, 1)]) s)

/-! ### Training (R330 to R334) -/

/-- LINK_STATUS.CAUSE codes (Table 11.16). -/
abbrev causeAbsent : Nat := 1
abbrev causeIdentity : Nat := 5
abbrev causeLocal : Nat := 6
abbrev causeRemote : Nat := 7

/-- 100 ms, 1 h, 10 ms, 1 ms and 1 µs in ticks. -/
abbrev retryTicks : Nat := 400000000
abbrev hourTicks : Nat := 14400000000000
abbrev retrainTicks : Nat := 40000000
abbrev replayTicks : Nat := 4000000
abbrev usTicks : Nat := 4000

/-- A link event: bytes 24 and 25 hold the link. -/
def logLink (l low rest : Nat) : State → State := logEv Blk.fabric low noRood (packLe [(l, 2), (rest, 6)])

/-- A link that is not UP holds nothing: its port's packets, its retry buffer and what it owes are gone (R335). -/
def emptied (k : Link) : Link :=
  { k with waiting := [], retry := [], owed := [], creditAt := [], replayed := [], replaying := false, training := none }

/-- An UP link goes DOWN with a cause (R359). -/
def linkDrops (cause l : Nat) (s : State) : State :=
  if linkUp s l then logLink l 0x02 cause (modLink l (fun k => { emptied k with st := .down, cause := cause }) s) else s

/-- The link becomes UP (R331, R332, R337). -/
def linkComesUp (l phys : Nat) (res : TrainResult) (s : State) : State :=
  let delay := (res.delay + 2) / 4 * 4 % 2 ^ 16
  let s := modLink l (fun k => { emptied k with
    st := .up, phys := phys, peerPos := res.peerPos, peerLink := res.peerLink, valid := true, delay := delay,
    failRow := 0, retryAt := none, credits := fullCredits, rxSeq := 0, txSeq := 0, peerP4 := false }) s
  logLink l 0x01 (packLe [(phys, 1), (delay, 2)]) s

/-- The peer is of this system and the one that the topology gives (Table 11.3, step 3). -/
def rightPeer (s : State) (l : Nat) (res : TrainResult) : Bool :=
  res.sysid == s.fab.sysid && linkPeer s l == some (res.peerPos, res.peerLink)

/-- The step at which training fails, with the identity check made by the model (Table 11.3, step 3). -/
def trainFails (s : State) (l : Nat) (res : TrainResult) : Option Nat :=
  match res.failStep with
  | some k => if k < 3 then some k else if rightPeer s l res then some k else some 3
  | none => if rightPeer s l res then none else some 3

/-- A training of link l ends in DOWN, or in MISWIRED when step 3 fails (Table 11.2). -/
def trainLost (l cause step : Nat) (res : TrainResult) (s : State) : State :=
  if step = 3 then
    let s := modLink l (fun k => { emptied k with
      st := .miswired, cause := causeIdentity, err := raise s.time.now k.err 5, failedTrains := satInc 16 k.failedTrains, retryAt := none }) s
    logLink l 0x04 (packLe [(res.peerPos, 2)]) s
  else modLink l (fun k => { emptied k with
    st := .down, cause := cause, failedTrains := satInc 16 k.failedTrains,
    failRow := if k.peerP4 then k.failRow else k.failRow + 1,
    retryAt := some (s.time.now + retryTicks) }) s

/-- The fabric takes part: the module has started, is not FATAL and not in P4 (15 R444; 14 R422; 16 R473). -/
def fabricOn (s : State) : Bool := s.boot.ready && !s.glb.fatal && s.fwc.pstate < 4

/-- Link l has trained with an outcome (R331). -/
def trainLink (l : Nat) (res : TrainResult) (s : State) : State :=
  match s.links[l]? with
  | none => s
  | some k =>
    match trainFails s l res with
    | none => linkComesUp l k.phys res s
    | some step => trainLost l k.cause step res s

/-- A retraining has failed: DOWN, and one of the failed retrains of R333. -/
def retrainLost (l cause step : Nat) (res : TrainResult) (s : State) : State :=
  let s := modLink l (fun k => { k with
    retrainStamps := k.retrainStamps.filter (fun t => s.time.now < t + hourTicks) ++ [s.time.now] }) s
  logLink l 0x02 (packLe [(cause, 1)]) (trainLost l cause step res s)

/-- A retraining has ended with an outcome. -/
def retrainLink (l : Nat) (res : TrainResult) (s : State) : State :=
  match s.links[l]? with
  | none => s
  | some k =>
    match trainFails s l res with
    | none => linkComesUp l k.phys res s
    | some step => retrainLost l k.cause step res s

/-- The bank of a logical link, and its spare. -/
def bankSpare (s : State) (l : Nat) : Option LinkSpare := s.linkSpares[l / 12]?

/-- The training with the bank's spare has ended (R334). -/
def substituted (l : Nat) (res : TrainResult) (s : State) : State :=
  match bankSpare s l with
  | none => s
  | some p =>
    match trainFails s l res with
    | none =>
      let s := { s with linkSpares := s.linkSpares.modify (l / 12) fun q => { q with st := .inUse } }
      let s := mapChange 3 1 0 (l / 12) l p.phys s
      linkComesUp l p.phys res (logLink l 0x05 (packLe [(p.phys, 1)]) s)
    | some _ =>
      let s := { s with linkSpares := s.linkSpares.modify (l / 12) fun q => { q with st := .failed } }
      modLink l (fun k => { emptied k with st := .failed, failedTrains := satInc 16 k.failedTrains }) (mapChange 3 2 0 (l / 12) l p.phys s)

/-- Link l starts to train. -/
def trainBegins (st : LinkState) (l : Nat) (res : Option TrainResult) (s : State) : State :=
  modLink l (fun k => { emptied k with st := st, training := some ⟨s.time.now, res⟩ }) s

/-- The training of link l ends once its outcome is there; a retraining that has not passed within 10 ms fails (Table 11.2). -/
def trainEnds (l : Nat) (s : State) : State :=
  match s.links[l]? with
  | none => s
  | some k =>
    match k.training with
    | none => s
    | some t =>
      let late : Bool := k.st == .retraining && t.since + retrainTicks < s.time.now
      match t.res with
      | none => if late then retrainLost l k.cause 2 ⟨some 2, 0, 0, 0, 0, 0⟩ s else s
      | some r =>
        if late then retrainLost l k.cause 2 r s
        else if s.time.now < t.since + r.ticks then s
        else
          match k.st with
          | .training => trainLink l r s
          | .retraining => retrainLink l r s
          | .substituting => substituted l r s
          | _ => s

/-- Whether the peer of link l is in the configured system. -/
def peerPresent (s : State) (l : Nat) : Bool := match linkPeer s l with | some p => present s p.1 | none => false

/-- Whether three trainings in a row or three retrains within an hour have failed (R333). -/
def linkBroken (s : State) (k : Link) : Bool :=
  3 ≤ k.failRow || 3 ≤ (k.retrainStamps.filter fun t => s.time.now < t + hourTicks).length

/-- A DOWN link may train: it waits for no repair, and its peer is there. -/
def mayTrain (s : State) (l : Nat) (k : Link) : Bool := fabricOn s && k.st == .down && !linkBroken s k && peerPresent s l

/-- LINK_TRAINING: a DOWN link trains (R330, R331). -/
def execLinkTraining (l : Nat) (res : TrainResult) (s : State) : Answer :=
  .next (match s.links[l]? with
    | none => s
    | some k => if mayTrain s l k then trainEnds l (trainBegins .training l (some res) s) else s)

/-- What makes an UP link retrain (Table 11.2): 2 FEC_LOSS, which the hardware sees; 3 RETRY_RATE, more than 16 flits replayed in 1 ms; 4
CREDIT_TIMEOUT, no credit for 100 µs on a channel with flits queued. -/
def retrainHolds (s : State) (k : Link) (cause : Nat) : Bool :=
  if cause = 2 then true
  else if cause = 3 then 16 < (k.replayed.filter fun e => s.time.now < e.1 + replayTicks).foldl (fun n e => n + e.2) 0
  else cause == 4 && k.waiting.any fun q => tgetD q.vc s.time.now k.creditAt + 100 * usTicks ≤ s.time.now

/-- An UP link enters RETRAINING. -/
def retrainBegins (l cause : Nat) (s : State) : State :=
  modLink l (fun k => { k with
    cause := cause, retrains := satInc 16 k.retrains,
    err := if cause = 4 then raise s.time.now (raise s.time.now k.err 3) 6 else raise s.time.now k.err 3 }) (trainBegins .retraining l none s)

/-- The outcome of a retraining under way. -/
def retrainOutcome (l : Nat) (res : TrainResult) (s : State) : State :=
  match s.links[l]? with
  | none => s
  | some k =>
    match k.st, k.training with
    | .retraining, some ⟨t, none⟩ => trainEnds l (modLink l (fun k => { k with training := some ⟨t, some res⟩ }) s)
    | _, _ => s

/-- A link leaves UP and retrains, or a retraining under way has an outcome (Table 11.2). -/
def execLinkRetrain (l cause : Nat) (res : TrainResult) (s : State) : Answer :=
  .next (match s.links[l]? with
    | none => s
    | some k =>
      if !fabricOn s then s
      else retrainOutcome l res (if k.st == .up && retrainHolds s k cause then retrainBegins l cause s else s))

/-- A DOWN link is tried again 100 ms after a failed training (Table 11.2). -/
def execLinkRetry (l : Nat) (res : TrainResult) (s : State) : Answer :=
  .next (match s.links[l]? with
    | none => s
    | some k =>
      match k.retryAt with
      | none => s
      | some t => if mayTrain s l k && t ≤ s.time.now then trainEnds l (trainBegins .training l (some res) s) else s)

/-- A bank has no spare for link l: it becomes FAILED (R334). -/
def linkExhausted (l phys : Nat) (s : State) : State :=
  let s := modLink l (fun k => { k with st := .failed }) s
  raiseFab 7 (logLink l 0x06 (packLe [(l / 12, 1)]) (mapChange 3 3 0 (l / 12) l phys s))

/-- Firmware declares link l failed and tests it in loopback (R333). -/
def execLinkFailed (l : Nat) (loopbackPass : Bool) (s : State) : Answer :=
  .next (match s.links[l]? with
    | none => s
    | some k =>
      if k.st ≠ .down ∨ linkBroken s k = false then s
      else
        let cause := if loopbackPass then causeRemote else causeLocal
        let s := modLink l (fun k => { k with cause := cause, err := raise s.time.now k.err 4, retryAt := none }) s
        let s := logLink l 0x03 (packLe [(cause, 1)]) s
        if loopbackPass then modLink l (fun k => { k with st := .failed }) s
        else
          let s := mapChange 3 2 0 (l / 12) l k.phys s
          match bankSpare s l with
          | some p =>
            if p.st = .ready then modLink l (fun k => { k with st := .substituting }) s else linkExhausted l k.phys s
          | none => linkExhausted l k.phys s)

/-- The bank's spare is steered to link l and trained (R334). -/
def execLinkSubstitute (l : Nat) (res : TrainResult) (s : State) : Answer :=
  .next (match s.links[l]?, bankSpare s l with
    | some k, some _ =>
      if k.st == .substituting && k.training.isNone then trainEnds l (trainBegins .substituting l (some res) s) else s
    | _, _ => s)

/-! ### Flits in (R336 to R338) -/

/-- The sender resends from flit seq, if it still holds it (R338). -/
def replayFrom (l seq : Nat) (s : State) : State :=
  match s.links[l]? with
  | none => s
  | some k =>
    match k.retry.dropWhile fun f => f.seq != seq % 4096 with
    | [] => s
    | fs =>
      forAll fs (wire l) (modLink l (fun k => { k with
        replays := satAdd 32 k.replays fs.length, err := raise s.time.now k.err 2,
        replayed := k.replayed.filter (fun e => s.time.now < e.1 + replayTicks) ++ [(s.time.now, fs.length)] }) s)

/-- ACK frees the retry buffer, CREDITS add to those held. -/
def takeCredits (ack : Option Nat) (vc n : Nat) (now : Nat) (k : Link) : Link :=
  { k with
    retry := match ack with | some a => k.retry.filter fun f => after 12 f.seq a | none => k.retry
    credits := tset vc (tgetD vc 0 k.credits + n) k.credits
    creditAt := if n = 0 then k.creditAt else tset vc now k.creditAt }

/-- A flit arrives (R336 to R338). One whose CRC fails is discarded and requested again, and the DATA flits after it are discarded until it
comes; of an intact one ACK and CREDITS are taken, and the buffer of a DATA flit is free again (log 17). -/
def receiveFlit (l : Nat) (flit : List Byte) (s : State) : State :=
  let h := field flit 0 8
  let kind := bits h 24 2
  match s.links[l]? with
  | none => s
  | some k =>
    if k.st ≠ .up then s
    else if crc32 (flit.take 252) ≠ field flit 252 4 then
      if k.replaying then s
      else
        sendControlFlit l 2 k.rxSeq (modFab (fun f => { f with replayOut := f.replayOut ++ [(l, k.rxSeq)] })
          (modLink l (fun k => { k with replaying := true }) s))
    else if kind = 0 ∧ bits h 0 12 ≠ k.rxSeq then s
    else
      let s := modLink l (takeCredits (if kind = 2 then none else some (bits h 12 12)) (bits h 35 3) (bits h 38 6) s.time.now) s
      if kind = 3 then modLink l (fun k => { k with peerP4 := true }) (linkDrops causeAbsent l s)
      else
        pumpLink l (
          if kind = 2 then replayFrom l (bits h 12 12) s
          else if kind = 1 then s
          else modLink l (fun k => { k with
            rxSeq := (k.rxSeq + 1) % 4096, replaying := false, rxFlits := satInc 64 k.rxFlits
            owed := tset (bits h 26 3) (tgetD (bits h 26 3) 0 k.owed + 1) k.owed }) s)

/-! ### Links in a tick -/

/-- The flit time of 8 ns begins (R360). -/
def flitTime (s : State) : Bool := s.time.now % 32 == 0

/-- Flits are queued on a channel that holds no credit for them. -/
def noCredit (k : Link) : Bool := k.waiting.any fun q => tgetD q.vc 0 k.credits < flitsOf q.packet

/-- An UP link in one tick: it enters RETRAINING where replays or credits say so, counts a flit time without credit, and hands credits back in
a NULL flit. -/
def upTick (l : Nat) (k : Link) (s : State) : State :=
  if retrainHolds s k 3 then retrainBegins l 3 s
  else if retrainHolds s k 4 then retrainBegins l 4 s
  else
    let s := if flitTime s && noCredit k then modLink l (fun k => { k with creditStall := satInc 64 k.creditStall }) s else s
    if (owedOf k).2 = 0 then s else sendControlFlit l 1 (lastIntact k) s

/-- What link l does by itself in one tick. -/
def linkTick (l : Nat) (s : State) : State :=
  match s.links[l]? with
  | none => s
  | some k => if k.st = .up then upTick l k s else trainEnds l s

/-- FLIT_RECEIVE (R338). -/
def execFlitReceive (l : Nat) (flit : List Byte) (s : State) : Answer := .next (receiveFlit l flit s)

/-- REPLAY_REQ (R338). -/
def execReplayReq (l seq : Nat) (s : State) : Answer := .next (if linkUp s l then replayFrom l seq s else s)

end Sys2Proof.Machine
end

