-- ==== Sys2Proof/Machine/Fabric.lean ====
section
/-! DEFINITION. Fabric transfers: injection, arrival, checks, completion, retry, partials and their early buffer (11
R339, R344 to R351, R355 to R357). -/
namespace Sys2Proof.Machine

/-! ### Packets of this module -/

/-- A packet from this module with every routing field at zero. -/
def blankPkt (s : State) (typ dst dstRood srcRood : Nat) : Packet where
  typ := typ
  resv := false
  hop := 0
  detour := false
  via := 0
  signal := false
  dst := dst
  dstRood := dstRood
  src := s.fab.pos
  srcRood := srcRood
  addr := 0
  signalCtr := 0
  xslot := 0
  stamp := s.time.now
  index := 0
  total := 1
  xgen := 0
  ext := 0
  data := []

/-- A control packet (Table 11.9): subtype, status byte, and the four bytes 36 to 39. -/
def controlPkt (s : State) (dst dstRood srcRood sub st v : Nat) (data : List Byte) : Packet :=
  { blankPkt s 6 dst dstRood srcRood with ext := sub + 2 ^ 8 * st + 2 ^ 24 * v, data := data }

/-- Destination pieces of a transfer: packets of at most 1,024 bytes, none across a 4 KiB boundary (R345). -/
def pieces : Nat → Nat → Nat → List (Nat × Nat)
  | 0, _, _ => []
  | fuel + 1, a, n =>
    if n = 0 then []
    else
      let k := min (min 1024 n) (4096 - a % 4096)
      (a, k) :: pieces fuel (a + k) (n - k)

/-- What a read of local bytes gives. -/
inductive LocalRead where
  | stall
  | ends (st : Nat)
  | got (bs : List Byte)
  deriving DecidableEq, Repr

/-- The 4,096-byte blocks that n bytes from a meet. -/
def blocksOf (a n : Nat) : List Nat :=
  if n = 0 then [] else (List.range ((a + n - 1) / 4096 - a / 4096 + 1)).map fun i => (a / 4096 + i) * 4096

/-- Read n bytes from a for the fabric engine (07 R218, R231; 03 R82, R97). Addresses above the map are the engine's own
staging of a split partial. -/
def localRead (s : State) (a n : Nat) : LocalRead :=
  match placeOf a n with
  | .bank c off =>
    if clusterAbsent s c then .ends Sts.notPermitted
    else (match bankRead s c off n with
      | none => .stall
      | some bs => .got bs)
  | .scratch c _ =>
    if clusterAbsent s c then .ends Sts.notPermitted
    else (match ringReads s [(a, n)] with
      | .stall => .stall
      | .poisoned st => .ends st
      | .ready => .got (rdBytes s a n))
  | .stk t _ =>
    let k := s.stks.getD t {}
    let bl := blocksOf a n
    if bl.any fun b => k.bad.contains b then .ends Sts.uncorrectable
    else if bl.any fun b => (tfind b k.errs).isSome then .stall
    else .got (rdBytes s a n)
  | .flash _ => .ends Sts.notPermitted
  | _ => if 2 ^ 48 ≤ a then .got (rdBytes s a n) else .ends Sts.notPermitted

/-- Whether a WRITE into a BUSHEL region can go as whole bushels in image form: its source is whole bushels of a BUSHEL region, and it goes to
a bushel boundary of a stack (R345). -/
def imageWrite (s : State) (b : XferBody) : Bool :=
  b.op == 0 && b.localAddr % 4096 == 0 && b.bytes % 4096 == 0 && b.remoteAddr % 4096 == 0 &&
    (match placeOf b.remoteAddr 1 with | .stk _ _ => true | _ => false) &&
    covered (fun g => g.kind == 2) s b.localAddr b.bytes

/-- The packets of a transfer (R344, R345), or why they cannot be formed now. -/
def xferPackets (s : State) (x : Xfer) (slot xgen : Nat) : Sum LocalRead (List Packet) :=
  let b := x.body
  let base := { blankPkt s (if b.op = 0 then 1 else if b.op = 1 then 2 else 4) b.dst b.dstRood x.rood with
    signal := b.signal, signalCtr := b.signalCtr, xslot := slot, xgen := xgen }
  if b.op = 1 then
    let n := (b.bytes + 4095) / 4096
    .inr ((List.range n).map fun i =>
      let lines := min 64 ((b.bytes - 4096 * i) / 64)
      { base with addr := b.remoteAddr + 4096 * i, index := i, total := n,
                  ext := (b.localAddr + 4096 * i) % 2 ^ 48 + 2 ^ 48 * lines })
  else
    match localRead s b.localAddr b.bytes with
    | .stall => .inl .stall
    | .ends st => .inl (.ends st)
    | .got bs =>
      if x.image then
        let n := b.bytes / 4096
        .inr ((List.range n).map fun i =>
          { base with addr := b.remoteAddr + 4096 * i, index := i, total := n, ext := 1,
                      data := imageOf (metaAt s (b.localAddr + 4096 * i)) ((bs.drop (4096 * i)).take 4096) })
      else
        let start := if b.op = 2 then 0 else b.remoteAddr
        let ps := pieces (b.bytes / 64 + 1) start b.bytes
        let ext := if b.op = 2 then
            (if b.target = 0 then b.cluster + 16 * b.entry else b.bind) + 2 ^ 8 * (b.shard + 64 * b.target) + 2 ^ 16 * b.s +
              2 ^ 24 * (b.dlRod % 2 ^ 32)
          else 0
        .inr (((List.range ps.length).zip ps).map fun p =>
          { base with addr := p.2.1, index := p.1, total := ps.length, ext := ext,
                      data := (bs.drop (p.2.1 - start)).take p.2.2 })

/-! ### Sending transfers (R346, R349) -/

/-- The lowest free XSLOT towards a module. -/
def freeSlot (s : State) (dst : Nat) : Option Nat :=
  firstBelow 8 fun i => !s.fab.xfers.any fun e => e.2.body.dst == dst && e.2.slot == some i

/-- An earlier ORDERED transfer to the same module is not complete (R349). -/
def orderHeld (s : State) (x : Nat) (k : Xfer) : Bool :=
  k.body.ordered && s.fab.xfers.any fun e => e.1 < x && e.2.body.ordered && e.2.body.dst == k.body.dst

/-- Change open transfer x. -/
def modXfer (x : Nat) (f : Xfer → Xfer) (s : State) : State := modFab (fun k => { k with xfers := tmod x f k.xfers }) s

/-- A transfer carries a shard of a gather (09 R287). -/
def isShard (b : XferBody) : Bool := b.op == 2 && b.target == 1

/-- Transfer x ends with a status: its XFER descriptor takes it; a split's own transfers report to no one, and a shard of a gather that
did not arrive leaves the exchange incomplete (09 R287). -/
def endXfer (x : Nat) (k : Xfer) (st : Nat) (s : State) : State :=
  let s := modFab (fun f => { f with xfers := tdel x f.xfers }) s
  match tfind k.desc s.descs with
  | some e => (match e.body with | .xfer _ => finish k.desc st 0 s | _ => s)
  | none => if isShard k.body && st != Sts.ok then modBind k.body.bind (fun b => { b with gatherFailed := true }) s else s

/-- The next generation of the slot. -/
def nextGen (s : State) (dst slot : Nat) : Nat := (tgetD (dst * 8 + slot) 0 s.fab.xgens + 1) % 256

/-- Put a transfer's packets on the wire. -/
def sendAll (noDetour : Bool) (ps : List Packet) (s : State) : State :=
  forAll ps (fun p t =>
    if noDetour then (match plainPath t p.dst with | some q => sendOn q p t | none => t) else sendAdaptive p t) s

/-- Send the packets of transfer x under a new generation of its slot. -/
def sendXfer (x slot : Nat) (k : Xfer) (s : State) : State :=
  let noPath := if k.body.noDetour then (plainPath s k.body.dst).isNone else (pathsTo s k.body.dst).isEmpty
  if noPath then raiseFab 8 (endXfer x k Sts.destUnreachable s)
  else
    let g := nextGen s k.body.dst slot
    match xferPackets s k slot g with
    | .inl (.ends st) => endXfer x k st (logPoison k.rood [(k.body.localAddr, k.body.bytes)] s)
    | .inl _ => s
    | .inr ps =>
      let s := modFab (fun f => { f with xgens := tset (k.body.dst * 8 + slot) g f.xgens }) s
      let s := modXfer x (fun k => { k with slot := some slot, xgen := g, lastSent := s.time.now, lines := 0, status := 0, again := [] }) s
      sendAll k.body.noDetour ps s

/-- Bytes sent by a split count in its DETAIL (06 R203). -/
def countSent (d n : Nat) (s : State) : State :=
  modDesc d (fun e => match e.body with | .k1 _ => { e with progress := e.progress + n } | _ => e) s

/-- Transfer contexts in use: the transfers that have left the engine's queue (R346). -/
def contexts (s : State) : Nat := (s.fab.xfers.filter fun e => e.2.slot.isSome).length

/-- XFER_INJECT: a queued transfer takes a free slot and one of the 1,024 contexts, and its packets leave (R346, R349); bushel: it goes to a
BUSHEL region (R345). -/
def injectXfer (x : Nat) (bushel : Bool) (s : State) : State :=
  match tfind x s.fab.xfers with
  | none => s
  | some k =>
    if !fabricOn s || k.slot.isSome || !roodActive s k.rood || orderHeld s x k || 1024 ≤ contexts s then s
    else match freeSlot s k.body.dst with
      | none => s
      | some slot =>
        let image := bushel && imageWrite s k.body
        let s := sendXfer x slot { k with image := image } (modXfer x (fun k => { k with image := image }) s)
        if s.fab.xfers.any fun e => e.1 == x && e.2.slot.isSome then countSent k.desc k.body.bytes s else s

/-- Open a transfer for descriptor d: it waits in the engine's queue. -/
def openXfer (d rood : Nat) (b : XferBody) (s : State) : State :=
  modFab (fun f => { f with xfers := tset f.nextXfer { desc := d, rood := rood, body := b } f.xfers, nextXfer := f.nextXfer + 1 }) s

/-- Start XFER descriptor d: its transfer enters the engine's queue. -/
def startXfer (d : Nat) (e : Desc) (b : XferBody) (s : State) : State :=
  if startReady s d e then openXfer d e.rood b (markStarted d e s) else s

/-- Start XFER descriptor d if its operation satisfies p. -/
def startXferIf (p : XferBody → Bool) (d : Nat) (s : State) : State :=
  match tfind d s.descs with
  | some e => (match e.body with | .xfer b => if p b then startXfer d e b s else s | _ => s)
  | none => s

/-! ### Arrival (R339, R346 to R348, R356) -/

/-- A packet breaks R339. -/
def badPacket (p : Packet) : Bool :=
  p.resv || p.typ == 0 || 7 ≤ p.typ ||
    (p.typ == 6 && 64 < p.data.length) || (p.typ == 6 && !([0x01, 0x02, 0x10, 0x11, 0x12, 0x13, 0x20, 0x21, 0x22, 0x23].contains (p.ext % 256)))

/-- Whether rood r is being reset or removed. -/
def roodGoing (s : State) (r : Nat) : Bool :=
  match s.roods[r]? with
  | none => false
  | some k => k.st == .resetting || k.st == .removing

/-- A packet for another module goes on, or is dropped where no link leads on. -/
def forwardPkt (p : Packet) (s : State) : State :=
  if 2 ≤ p.hop then s
  else match forwardLink s p with
    | some l => putOut l { p with hop := p.hop + 1 } s
    | none => s

/-- What every arriving packet meets; f handles one that is for this module. -/
def arriving (p : Packet) (f : State → State) (s : State) : State :=
  if !fabricOn s then s
  else if badPacket p then dropMalformed p.src p.typ s
  else if before 64 (p.stamp + packetLife) s.time.now then countStale s
  else if p.dst ≠ s.fab.pos then forwardPkt p s
  else if roodGoing s p.dstRood then countStale s
  else f s

/-- The peer table of DST_ROOD holds the sender (R348). -/
def isPeer (s : State) (p : Packet) : Bool :=
  match s.roods[p.dstRood]? with
  | none => false
  | some k => k.st == .active && k.peers.any fun e => e.2 == (p.src, p.srcRood)

/-- Key of an arrival entry. -/
def arrKey (p : Packet) : Nat := p.src * 8 + p.xslot

/-- Take a packet into its arrival entry: none when its generation is behind (R346). -/
def intoEntry (p : Packet) (s : State) : Option State :=
  let a : Arrival := { xgen := p.xgen, total := p.total, rood := p.dstRood, srcRood := p.srcRood, signal := p.signal,
                       signalCtr := p.signalCtr, typ := p.typ, ext := p.ext }
  match tfind (arrKey p) s.fab.arrivals with
  | none => some (modFab (fun f => { f with arrivals := tset (arrKey p) a f.arrivals }) s)
  | some k =>
    if after 8 p.xgen k.xgen then some (modFab (fun f => { f with arrivals := tset (arrKey p) a f.arrivals }) s)
    else if p.xgen % 256 = k.xgen % 256 then some s
    else none

/-- The bytes at this module that a WRITE or READ packet names. -/
def pktRange (p : Packet) : Nat × Nat :=
  if p.typ = 1 then (p.addr, p.addr + p.data.length) else if p.typ = 2 then (p.addr, p.addr + 64 * bits p.ext 48 7) else (0, 0)

/-- A packet counts towards its transfer, with its status (R346, R348). -/
def countPkt (p : Packet) (st : Nat) (s : State) : State :=
  modFab (fun f => { f with arrivals := tmod (arrKey p) (fun k =>
    { k with
      count := k.count + 1, bytes := k.bytes + p.data.length, status := statusMax k.status st
      lo := if k.count = 0 then (pktRange p).1 else min k.lo (pktRange p).1, hi := max k.hi (pktRange p).2 }) f.arrivals }) s

/-- A packet that failed R348: it counts, and PACKET_REFUSED is logged once per transfer. -/
def refusePkt (p : Packet) (st : Nat) (s : State) : State :=
  let logged := match tfind (arrKey p) s.fab.arrivals with | some k => k.refusedLogged | none => false
  let s := raiseFab 1 (countPkt p st (modFab (fun f => { f with refused := satInc 16 f.refused }) s))
  if logged then s
  else
    let s := modFab (fun f => { f with arrivals := tmod (arrKey p) (fun k => { k with refusedLogged := true }) f.arrivals }) s
    logEv Blk.fabric 0x09 p.dstRood (packLe [(0xFFFF, 2), (p.src, 2), (st, 1)]) s

/-- Whether rood r may write n bytes at a, and the state with what a refusal logs (R348, R30, R31, R209, R218, R82). -/
def fabricWriteCheck (w : Writer) (r a n : Nat) (s : State) : Bool × State :=
  match grant s r a n with
  | .unmapped => (false, logUnmapped a 1 r s)
  | .notOwned =>
    (match writeCheck s w a n with
      | .locked => (false, logRefused .locked a r s)
      | _ => (false, s))
  | .ok =>
    match placeOf a n with
    | .stk _ _ => (match writeCheck s w a n with | .ok => (true, s) | c => (false, logRefused c a r s))
    | .scratch _ _ => if onRing s a n then (false, logRingRefused r a s) else (true, s)
    | _ => (false, s)

/-- Write plain bytes that passed their check. -/
def fabricPut (a : Nat) (bs : List Byte) (s : State) : State := wrBytes a bs (clearPoison a bs.length s)

/-- A WRITE packet in image form: CHECKSUM checked, ROOD set, data and metadata written together (R345). -/
def writeImage (p : Packet) (s : State) : State :=
  let m := metaOfImage p.data
  let data := dataOfImage p.data
  let (ok, s) := fabricWriteCheck .fabricBushel p.dstRood p.addr 4096 s
  if !ok then refusePkt p Sts.notPermitted s
  else if bushelCrc m data ≠ m.checksum then countPkt p Sts.uncorrectable s
  else
    match regionAt s p.addr with
    | none => refusePkt p Sts.notPermitted s
    | some g =>
      if g.kind = 1 then countPkt p Sts.ok (fabricPut p.addr data s)
      else if g.fmt ≠ m.fmt ∨ bushelOf g p.addr ≠ some p.addr then refusePkt p Sts.notPermitted s
      else countPkt p Sts.ok (putBushel p.addr (sealBushel { m with rood := p.dstRood } data) data s)

/-- A WRITE packet (R345, R348). -/
def writePkt (p : Packet) (s : State) : State :=
  match intoEntry p s with
  | none => countStale s
  | some s =>
    if !isPeer s p then refusePkt p Sts.notPermitted s
    else if p.ext % 2 = 1 then writeImage p s
    else
      let (ok, s) := fabricWriteCheck .fabric p.dstRood p.addr p.data.length s
      if ok then countPkt p Sts.ok (fabricPut p.addr p.data s) else refusePkt p Sts.notPermitted s

/-- Whether rood r may read n bytes at a through the fabric (R348, R108). -/
def fabricReadOk (s : State) (r a n : Nat) : Bool :=
  grant s r a n == .ok &&
    (match placeOf a n, regionAt s a with
      | .flash _, _ => false
      | .stk _ _, some g => g.kind != 3 || (match lockMeets s a n with | some e => e.readers.testBit r | none => false)
      | _, _ => true)

/-- A READ packet: checked, counted, and answered in packets of 1,024 bytes (R345, R348). -/
def readPkt (p : Packet) (s : State) : State :=
  let n := 64 * bits p.ext 48 7
  match intoEntry p s with
  | none => countStale s
  | some s =>
    if !isPeer s p then refusePkt p Sts.notPermitted s
    else if !fabricReadOk s p.dstRood p.addr n then
      refusePkt p Sts.notPermitted (if grant s p.dstRood p.addr n = .unmapped then logUnmapped p.addr 1 p.dstRood s else s)
    else
      match localRead s p.addr n with
      | .stall => modFab (fun f => { f with held := f.held ++ [p] }) s
      | .ends st => countPkt p st (logPoison p.dstRood [(p.addr, n)] s)
      | .got bs =>
        let back := p.ext % 2 ^ 48
        let ps := pieces (n / 64 + 1) back n
        let s := countPkt p Sts.ok (markRead p.addr n s)
        sendAll false (((List.range ps.length).zip ps).map fun q =>
          { blankPkt s 3 p.src p.srcRood p.dstRood with
            addr := q.2.1, xslot := p.xslot, xgen := p.xgen, index := q.1, total := ps.length,
            data := (bs.drop (q.2.1 - back)).take q.2.2 }) s

/-- The open transfer that a response names. -/
def xferOfResponse (s : State) (p : Packet) : Option (Nat × Xfer) :=
  s.fab.xfers.find? fun e => e.2.body.dst == p.src && e.2.slot == some p.xslot && e.2.xgen == p.xgen % 256

/-- A READ_RESP packet: written; the READ completes when every line is resident (R347). -/
def readRespPkt (p : Packet) (s : State) : State :=
  match xferOfResponse s p with
  | none => countStale s
  | some (x, k) =>
    if k.body.op ≠ 1 then countStale s
    else
      let (ok, s) := fabricWriteCheck .fabric k.rood p.addr p.data.length s
      let s := if ok then fabricPut p.addr p.data s else s
      let k' := { k with lines := k.lines + p.data.length / 64, status := statusMax k.status (if ok then Sts.ok else Sts.notPermitted) }
      let s := modXfer x (fun _ => k') s
      if k.body.bytes ≤ 64 * k'.lines then endXfer x k' k'.status s else s

/-! ### Partials (R350) -/

/-- Fields of a PARTIAL packet: cluster, entry, shard, TARGET, S, deadline bits. -/
def partCluster (p : Packet) : Nat := bits p.ext 0 4
def partEntry (p : Packet) : Nat := bits p.ext 4 4
def partBind (p : Packet) : Nat := bits p.ext 0 8
def partShard (p : Packet) : Nat := bits p.ext 8 6
def partTarget (p : Packet) : Nat := bits p.ext 14 1
def partS (p : Packet) : Nat := bits p.ext 16 7
def partDl (p : Packet) : Nat := bits p.ext 24 32

/-- What the target of a partial says. -/
inductive PartCase where
  | write | early | late | duplicate | mismatch
  deriving DecidableEq, Repr

/-- Staging of shard x of binding b's gather as it arrives, outside the device address map (log 18). -/
def gatherIn (b x : Nat) : Nat := 2 ^ 52 + (64 * b + x) * 2 ^ 32

/-- Rod number of a binding's close deadline (09 R283). -/
def closeRod (k : Bind) : Nat := (k.startFurlong + k.cfg.close) * 40 - 1

/-- A partial of the running step's gather, whose close has not been taken yet. -/
def opens (k : Bind) (p : Packet) : Bool :=
  (match k.st with | .forward | .backward => true | _ => false) && partDl p == closeRod k % 2 ^ 32

/-- Decide a partial against deadline A, expected count and resident shards of an armed target (R350). -/
def judge (p : Packet) (a s mask : Nat) : PartCase :=
  if after 32 (partDl p) a then .early
  else if before 32 (partDl p) a then .late
  else if partS p ≠ s ∨ s ≤ partShard p then .mismatch
  else if mask.testBit (partShard p) then .duplicate
  else .write

/-- Decide a partial (R350): TARGET 0 a combination entry, 1 a binding's gather. One that would be written after the end of rod
DEADLINE is late, though the entry is still ARMED (05 R149). -/
def partCase (s : State) (p : Packet) : PartCase :=
  let unarmed : PartCase := if before 32 (partDl p) (rodNum s) then .late else .early
  if partTarget p = 0 then
    let v := combOf' s (partCluster p) (partEntry p)
    if v.st = .free then unarmed
    else
      match judge p v.dlRod v.s v.mask with
      | .write =>
        if v.tileBytes < p.addr + p.data.length then .mismatch
        else if rodPast s v.deadline s.time.now then .late
        else .write
      | c => c
  else
    match tfind (partBind p) s.binds with
    | none => unarmed
    | some k => if k.st = .closed then judge p (closeRod k) (2 * k.cfg.d) k.gmask else if opens k p then .early else unarmed

/-- Early partials held, in bytes (R350). -/
def earlyBytes (s : State) : Nat := s.fab.early.foldl (fun n e => n + e.2.data.length) 0

/-- A partial is discarded as late (R350; 05 R149). DESIGN CHOICE (log 63): byte 25 of COMB_LATE is the core that armed the entry
now, as for a late completion, and 0xFF only at a FREE entry. -/
def latePart (p : Packet) (s : State) : State :=
  let s := raiseFab 3 (modFab (fun f => { f with late := satInc 16 f.late }) s)
  let s := if partTarget p = 0 then
      let v := combOf' s (partCluster p) (partEntry p)
      logCluster (partCluster p) 0x03 (if v.st = .free then 0xFF else v.core) (packLe [(partEntry p, 1), (partShard p, 1)]) s
    else s
  countPkt p Sts.partialLate s

/-- A partial meets its target; one that is early for it waits unless asked to stay out. -/
def partIn (p : Packet) (s : State) : State :=
  match partCase s p with
  | .late => latePart p s
  | .duplicate => countPkt p Sts.partialDuplicate s
  | .mismatch => countPkt p Sts.partialMismatch s
  | .write =>
    if partTarget p = 0 then
      let c := partCluster p
      let v := combOf' s c (partEntry p)
      let a := scratchBase c + v.slotBase + partShard p * v.slotStride + p.addr
      match scratchWrite a p.data s with
      | some t => countPkt p Sts.ok t
      | none => refusePkt p Sts.notPermitted (logRingRefused p.dstRood a s)
    else countPkt p Sts.ok (wrBytes (gatherIn (partBind p) (partShard p) + p.addr) p.data s)
  | .early =>
    if 262144 < earlyBytes s + p.data.length then
      let s := raiseFab 4 (logEv Blk.fabric 0x0C p.dstRood (packLe [(0xFFFF, 2), (p.src, 2)]) s)
      let s := modFab (fun f => { f with resends := satInc 16 f.resends }) s
      sendMinimal { controlPkt s p.src p.srcRood p.dstRood 2 0 p.index [] with xslot := p.xslot, xgen := p.xgen } s
    else modFab (fun f => { f with early := tset f.nextEarly p f.early, nextEarly := f.nextEarly + 1 }) s

/-- Whether the target of a partial belongs to DST_ROOD (R348). -/
def partOwned (s : State) (p : Packet) : Bool :=
  if partTarget p = 0 then ownsCluster s p.dstRood (partCluster p)
  else match tfind (partBind p) s.binds with | some k => k.rood == p.dstRood | none => true

/-- A PARTIAL packet. -/
def partialPkt (p : Packet) (s : State) : State :=
  match intoEntry p s with
  | none => countStale s
  | some s => if isPeer s p && partOwned s p then partIn p s else refusePkt p Sts.notPermitted s

/-- Whether the entry of an early packet still speaks of its transfer. -/
def earlyLive (s : State) (p : Packet) : Bool :=
  match tfind (arrKey p) s.fab.arrivals with | some k => k.xgen == p.xgen % 256 | none => false

/-- Try early packet k against its target again (R350). -/
def earlyAgain (k : Nat) (s : State) : State :=
  match tfind k s.fab.early with
  | none => s
  | some p =>
    let out := modFab (fun f => { f with early := tdel k f.early }) s
    if !earlyLive s p then out
    else if partCase s p = .early then s
    else partIn p out

/-- Entry i of cluster c has been armed: the early packets for it are taken again (R350). -/
def drainEarly (c i : Nat) (s : State) : State :=
  forAll ((s.fab.early.filter fun e => partTarget e.2 = 0 ∧ partCluster e.2 = c ∧ partEntry e.2 = i).map (·.1)) earlyAgain s

/-- The deadline of early packet k has passed (R350). -/
def expireEarly (k : Nat) (s : State) : State :=
  match tfind k s.fab.early with
  | none => s
  | some p =>
    let open_ := partTarget p = 1 && (match tfind (partBind p) s.binds with | some k => opens k p | none => false)
    if before 32 (partDl p) (rodNum s) ∧ !open_ then
      let s := modFab (fun f => { f with early := tdel k f.early }) s
      if earlyLive s p then latePart p s else s
    else s

/-! ### Completion at the receiver (R347) -/

/-- A completed partial-tile that its entry turned away is logged, once for the completion (05 R146). -/
def logPartial (k : Arrival) (s : State) : State :=
  let c := bits k.ext 0 4
  let i := bits k.ext 4 4
  let v := combOf' s c i
  let core := if v.st = .free then 0xFF else v.core
  if k.status = Sts.partialMismatch then logCluster c 0x04 core (packLe [(i, 1), (bits k.ext 8 6, 1), (bits k.ext 16 7, 1)]) s
  else if k.status = Sts.partialDuplicate then logCluster c 0x05 core (packLe [(i, 1), (bits k.ext 8 6, 1)]) s
  else s

/-- A receiver has counted TOTAL packets: signal, shard residency and DONE (R347, R350; 05 R146). -/
def transferDone (src xslot : Nat) (s : State) : State :=
  let key := src * 8 + xslot
  match tfind key s.fab.arrivals with
  | none => s
  | some k =>
    if !fabricOn s || k.answered || k.count < k.total then s
    else
      let s := modFab (fun f => { f with arrivals := tmod key (fun k => { k with answered := true }) f.arrivals }) s
      let s :=
        if k.typ = 4 ∧ k.status = Sts.ok then
          (if bit k.ext 14 then modBind (bits k.ext 0 8) (fun b => { b with gmask := setBit b.gmask (bits k.ext 8 6) }) s
          else modCluster (bits k.ext 0 4) (fun c => { c with notices := c.notices ++
            [⟨bits k.ext 4 4, bits k.ext 8 6, bits k.ext 16 7, k.bytes, s.time.now, k.rood, false⟩] }) s)
        else if k.typ = 4 ∧ !bit k.ext 14 then logPartial k s
        else s
      let s := if k.signal then ctrAdd k.rood k.signalCtr 1 (k.status != Sts.ok) s else s
      if k.typ = 2 then s
      else sendMinimal { controlPkt s src k.srcRood k.rood 1 k.status (k.bytes / 64) [] with xslot := xslot, xgen := k.xgen } s

/-! ### Control packets (R350, R351) -/

/-- A control packet from a peer is handled by f; another is refused (R351). -/
def fromPeer (p : Packet) (f : State → State) (s : State) : State :=
  if isPeer s p then f s
  else
    let s := raiseFab 1 (modFab (fun k => { k with refused := satInc 16 k.refused }) s)
    logEv Blk.fabric 0x09 p.dstRood (packLe [(0xFFFF, 2), (p.src, 2), (Sts.notPermitted, 1)]) s

/-- SUBTYPE of a control packet. -/
def subtype (p : Packet) : Nat := p.ext % 256

/-- DONE: the XFER completes with its status (R347). -/
def donePkt (p : Packet) (s : State) : State :=
  match xferOfResponse s p with
  | none => countStale s
  | some (x, k) => endXfer x k (bits p.ext 8 8) s

/-- RESEND: packet INDEX goes again one rod later (R350). -/
def resendPkt (p : Packet) (s : State) : State :=
  match xferOfResponse s p with
  | none => countStale s
  | some (x, _) => modXfer x (fun k => { k with again := k.again ++ [(bits p.ext 24 32, s.time.now + rodLen s)] }) s

/-- Send again the packets of transfer x whose rod has passed (R350). -/
def resendDue (x : Nat) (s : State) : State :=
  match tfind x s.fab.xfers with
  | none => s
  | some k =>
    let due := k.again.filter fun r => r.2 ≤ s.time.now
    match k.slot, due with
    | some slot, _ :: _ =>
      match xferPackets s k slot k.xgen with
      | .inr ps =>
        let s := modXfer x (fun k => { k with again := k.again.filter (fun r => s.time.now < r.2), lastSent := s.time.now }) s
        sendAll k.body.noDetour (due.filterMap fun r => ps[r.1]?) s
      | .inl _ => s
    | _, _ => s

/-- No DONE within LNK_FAB_XFER_TIMEOUT: the transfer is sent again, twice at most, then it is lost (R346). -/
def retryXfer (x : Nat) (s : State) : State :=
  match tfind x s.fab.xfers with
  | none => s
  | some k =>
    match k.slot with
    | none => s
    | some slot =>
      if !fabricOn s || s.time.now < k.lastSent + s.fab.timeout * usTicks then s
      else
        let note (low bit : Nat) (s : State) : State :=
          raiseFab bit (logEv Blk.fabric low k.rood (packLe [(0xFFFF, 2), (k.body.dst, 2), (slot, 1)]) s)
        if 2 ≤ k.tries then endXfer x k Sts.transferLost (note 0x0B 6 s)
        else
          match xferPackets s k slot (nextGen s k.body.dst slot) with
          | .inl .stall => s
          | _ => sendXfer x slot { k with tries := k.tries + 1 } (modXfer x (fun k => { k with tries := k.tries + 1 }) (note 0x0A 5 s))

/-- A packet of this module's rood r. -/
def ofRood (s : State) (r : Nat) (p : Packet) : Bool := p.typ != 5 && p.src == s.fab.pos && p.srcRood == r

/-- A rood is reset or removed: its packets that are not on the wire are discarded, its transfers leave, its arrivals are answered and forgotten (R355). -/
def resetFabric (r : Nat) (s : State) : State :=
  let s := { s with links := s.links.map fun k => { k with waiting := k.waiting.filter fun q => !ofRood s r q.packet } }
  let open_ := s.fab.arrivals.filter fun e => e.2.rood == r && !e.2.answered
  let s := forAll open_ (fun e t =>
    sendMinimal { controlPkt t (e.1 / 8) e.2.srcRood r 1 Sts.remotePartitionReset (e.2.bytes / 64) [] with
      xslot := e.1 % 8, xgen := e.2.xgen } t) s
  modFab (fun f => { f with
    xfers := f.xfers.filter fun e => e.2.rood != r
    arrivals := f.arrivals.filter fun e => e.2.rood != r
    early := f.early.filter fun e => e.2.dstRood != r
    held := f.held.filter fun p => p.dstRood != r }) s

/-! ### Meanings -/

/-- XFER_WRITE, XFER_READ, XFER_PARTIAL: an XFER descriptor of that operation starts (R344). -/
def execXferWrite (d : Nat) (s : State) : Answer := .next (startXferIf (fun b => b.op == 0) d s)
/-- XFER_READ (R344). -/
def execXferRead (d : Nat) (s : State) : Answer := .next (startXferIf (fun b => b.op == 1) d s)
/-- XFER_PARTIAL (R344). -/
def execXferPartial (d : Nat) (s : State) : Answer := .next (startXferIf (fun b => b.op == 2) d s)
/-- XFER_INJECT (R346). -/
def execXferInject (x : Injection) (s : State) : Answer := .next (injectXfer x.xfer x.bushel s)
/-- WRITE (R348). -/
def execWrite (p : Packet) (s : State) : Answer := .next (arriving p (fun s => if p.typ = 1 then writePkt p s else s) s)
/-- READ (R345). -/
def execRead (p : Packet) (s : State) : Answer := .next (arriving p (fun s => if p.typ = 2 then readPkt p s else s) s)
/-- READ_RESP (R347). -/
def execReadResp (p : Packet) (s : State) : Answer := .next (arriving p (fun s => if p.typ = 3 then readRespPkt p s else s) s)
/-- PARTIAL (R350). -/
def execPartial (p : Packet) (s : State) : Answer := .next (arriving p (fun s => if p.typ = 4 then partialPkt p s else s) s)
/-- EARLY_PARTIAL_EXPIRE (R350). -/
def execEarlyPartialExpire (k : Nat) (s : State) : Answer := .next (expireEarly k s)
/-- TRANSFER_COMPLETE (R347). -/
def execTransferComplete (src xslot : Nat) (s : State) : Answer := .next (transferDone src xslot s)
/-- DONE (R347). -/
def execDone (p : Packet) (s : State) : Answer :=
  .next (arriving p (fun s => if p.typ = 6 ∧ subtype p = 1 then fromPeer p (donePkt p) s else s) s)
/-- RESEND (R350). -/
def execResend (p : Packet) (s : State) : Answer :=
  .next (arriving p (fun s => if p.typ = 6 ∧ subtype p = 2 then fromPeer p (resendPkt p) s else s) s)
/-- TRANSFER_RETRY (R346). -/
def execTransferRetry (x : Nat) (s : State) : Answer := .next (retryXfer x s)

end Sys2Proof.Machine
end

