-- ==== Sys2Proof/Machine/Qps.lean ====
section
/-! DEFINITION. Queue pairs, security associations, violations and quarantine (12 R363 to R369, R375 to R380). -/
namespace Sys2Proof.Machine

/-- Queue pair q. -/
def qpOf (s : State) (q : Nat) : Option Qp := tfind q s.eth.qps

/-- QPN of an index (Table 12.2). -/
def qpn (q : Nat) : Nat := 0x10000 + q

/-- An association is live, and in the direction asked. -/
def saLive (s : State) (i : Nat) (inbound : Bool) (rood : Nat) : Bool :=
  match tfind i s.eth.sas with
  | none => false
  | some a => a.st == .live && a.inbound == inbound && a.rood == rood

/-- Rate of an interface in Mb/s (R361). -/
def ifRate (s : State) (i : Nat) : Nat := if (s.eth.ports.getD (i / 2) 0).toNat.testBit 0 then 400000 else 800000

/-- The interface exists in the port mode set (R361). -/
def ifExists (s : State) (i : Nat) : Bool :=
  let p := (s.eth.ports.getD (i / 2) 0).toNat
  p.testBit 1 && (i % 2 == 0 || p.testBit 0)

/-- Event of the network block. -/
def logEth (low rood payload : Nat) : State → State := logEv Blk.eth low rood payload

/-- Packets of a message of n bytes at the path MTU of 4,096. -/
def packetsOf (n : Nat) : Nat := max 1 ((n + 4095) / 4096)

/-- Bytes of data of an output. -/
def outBytes : QpOut → Nat
  | .write _ _ _ d | .writeImm _ _ _ _ d | .readResp _ d | .send _ d => d.length
  | .readReq _ _ _ _ | .nak _ _ | .ack _ _ | .cnp _ => 0

/-- PSNs that a message takes: those of its packets, or of a READ's responses; an answer takes none (R364). -/
def psnsOf : QpOut → Nat
  | .write _ _ _ d | .writeImm _ _ _ _ d | .send _ d => packetsOf d.length
  | .readReq _ _ _ n => packetsOf n
  | .readResp _ _ | .nak _ _ | .ack _ _ | .cnp _ => 0

/-- Bytes of headers beyond the base transport header: of the first packet, and of the last where there are more. -/
def extBytes : QpOut → Nat × Nat
  | .write _ _ _ _ | .readReq _ _ _ _ | .cnp _ => (16, 0)
  | .writeImm _ _ _ _ _ => (16, 4)
  | .readResp _ _ => (4, 4)
  | .nak _ _ | .ack _ _ => (4, 0)
  | .send _ _ => (0, 0)

/-- The fields of ETH_PORTp_CFG in a value; its reserved bits read 0 (Table 12.16). -/
def portFields (v : Nat) : Word := w64 (bits v 0 2 + 2 ^ 8 * bits v 8 24)

/-- VLAN and priority of a port, and whether R363 applies (Table 12.16). -/
def portCfg (s : State) (i : Nat) : Nat := (s.eth.ports.getD (i / 2) 0).toNat
def vidOf (s : State) (i : Nat) : Nat := bits (portCfg s i) 20 12
def pcpOf (s : State) (i : Nat) : Nat := bits (portCfg s i) 16 3
def ecnOn (s : State) (i : Nat) : Bool := (portCfg s i).testBit 19

/-- Bytes of a frame that carries n bytes from the UDP header on in ESP: Ethernet and its VLAN tag, IP, ESP with its IV, padding and
ICV, FCS (R361, R366; log 78). -/
def frameBytes (ipv6 : Bool) (vid n : Nat) : Nat :=
  14 + (if vid = 0 then 0 else 4) + (if ipv6 then 40 else 20) + 16 + (n + 5) / 4 * 4 + 16 + 4

/-- Bytes of the frames of an output (log 78). -/
def wireBytes (ipv6 : Bool) (vid : Nat) (o : QpOut) : Nat :=
  let n := packetsOf (outBytes o)
  let e := extBytes o
  ((List.range n).map fun i =>
    let data := min 4096 (outBytes o - 4096 * i)
    let ext := (if i = 0 then e.1 else 0) + (if i + 1 = n ∧ (0 < i ∨ e.1 = 16) then e.2 else 0)
    frameBytes ipv6 vid (8 + 12 + ext + (data + 3) / 4 * 4 + 4)).foldl (· + ·) 0

/-- A message of queue pair q leaves with its first PSN. -/
def transmit (q psn : Nat) (o : QpOut) (s : State) : State :=
  match qpOf s q with
  | none => s
  | some k =>
    let n := packetsOf (outBytes o)
    let a : Option Sa := tfind k.saOut s.eth.sas
    let w : NetOut := {
      iface := k.iface, vid := vidOf s k.iface, pcp := pcpOf s k.iface, ect := ecnOn s k.iface,
      spi := match a with | some a => a.spi | none => 0
      seq := match a with | some a => a.outSeq | none => 0
      psn := psn, packets := n, out := o }
    modEth (fun e => { e with
      out := e.out ++ [o]
      wireOut := e.wireOut ++ [w]
      ifs := e.ifs.modify k.iface fun f => { f with tx := satAdd 64 f.tx (wireBytes k.ipv6 (vidOf s k.iface) o) }
      sas := tmod k.saOut (fun a => { a with outSeq := a.outSeq + n }) e.sas }) s

/-- Queue pair q may send: it is in RTS with its outbound association live (R365, R368). -/
def maySend (s : State) (q : Nat) : Bool := match qpOf s q with | some k => k.st == .rts && saLive s k.saOut false k.rood | none => false

/-- Send on queue pair q: a message takes its PSNs and waits for their acknowledgement, an answer goes under the PSN that it answers
(R364). -/
def qpSend (q : Nat) (o : QpOut) (s : State) : State :=
  match qpOf s q with
  | none => s
  | some k =>
    if !maySend s q then s
    else if psnsOf o = 0 then
      transmit q (match o with | .ack _ p => p | .readResp _ _ => k.rdIn.headD k.nextRq | _ => k.nextRq) o s
    else
      transmit q k.psn o (modQp q (fun k => { k with
        psn := (k.psn + psnsOf o) % 2 ^ 24
        sentAt := if k.unacked.isEmpty then s.time.now else k.sentAt
        unacked := k.unacked ++ [⟨k.psn, psnsOf o, o⟩] }) s)

/-- The messages of queue pair q that are not acknowledged go again (R377). -/
def resendAll (q : Nat) (s : State) : State :=
  match qpOf s q with
  | none => s
  | some k =>
    let s := modQp q (fun k => { k with sentAt := s.time.now }) s
    if maySend s q then forAll k.unacked (fun u => transmit q u.first u.out) s else s

/-- A READ more may be outstanding on queue pair q (Table 12.3, MAX_RD). -/
def readRoom (s : State) (q : Nat) : Bool :=
  match qpOf s q with
  | none => false
  | some k => (k.unacked.filter fun u => match u.out with | .readReq _ _ _ _ => true | _ => false).length < k.maxRd

/-- The READ of an address has its answer. -/
def readAnswered (q addr : Nat) (retries : Nat → Nat) (s : State) : State :=
  modQp q (fun k => { k with
    unacked := k.unacked.eraseP (fun u => match u.out with | .readReq _ a _ _ => a == addr | _ => false), retries := retries k.retries
    sentAt := s.time.now }) s

/-- The requests of queue pair q that this module admitted or holds waiting. -/
def qpRequests (s : State) (q : Nat) : List (Nat × Request) := s.requests.filter fun e => e.2.q == q && e.2.remote.isNone

/-- The last PSN sent on q. -/
def lastPsn (s : State) (q : Nat) : Nat := match qpOf s q with | some k => (k.psn + 2 ^ 24 - 1) % 2 ^ 24 | none => 0

/-- PSN p has been sent and not acknowledged. -/
def isUnacked (k : Qp) (p : Nat) : Bool := k.unacked.any fun u => dist 24 p u.first < u.count

/-- A record waits for the acknowledgement of a packet of its verdict (R376). -/
def stillHeld (k : Qp) (w : Withheld) : Bool := match w.psn with | some p => isUnacked k p | none => false

/-- An acknowledgement of PSN p covers every packet up to it (R364). -/
def noteAck (q p : Nat) (s : State) : State :=
  modQp q (fun k => { k with
    unacked := k.unacked.filter (fun u => after 24 (u.first + u.count - 1) p), retries := 0, rnrs := 0, sentAt := s.time.now }) s

/-! ### Violations (R379, R380) -/

/-- Milliseconds and seconds in ticks. -/
abbrev msTicks : Nat := 4000000
abbrev secTicks : Nat := 4000000000

/-- A partner is in quarantine. -/
def isQuarantined (s : State) (iface ip : Nat) : Bool :=
  s.eth.quarantined.any fun e => e.1 == iface && e.2.1 == ip && s.time.now < e.2.2

/-- The attached orchestrator's address (R380). -/
def isOrchestrator (s : State) (ip : Nat) : Bool :=
  (s.eth.session.st == .attached || (s.eth.session.st == .attaching && s.eth.session.before == .attached)) &&
    s.eth.session.orchIp == ip

/-- Add a partner to the quarantine table of 256 entries, in place of the entry that ends first when it is full. -/
def addQuarantine (e : Nat × Nat × Nat) (t : List (Nat × Nat × Nat)) : List (Nat × Nat × Nat) :=
  if t.length < 256 then t ++ [e]
  else
    let first := t.foldl (fun m x => min m x.2.2) (t.headD e).2.2
    match t.find? fun x => x.2.2 == first with
    | some x => (t.erase x) ++ [e]
    | none => t ++ [e]

/-- Count a violation of Table 12.10's given row against a partner; answers whether it is now quarantined. -/
def countViolation (row iface ip rood : Nat) (s : State) : State × Bool :=
  let win := (bits (s.eth.quarWindow) 0 16) * msTicks
  let fresh? := match s.eth.partners.find? fun p => p.iface == iface && p.ip == ip with
    | some p => if s.time.now < p.since + win then none else some ()
    | none => some ()
  let old := (s.eth.partners.find? fun p => p.iface == iface && p.ip == ip)
  let p : Partner := match old, fresh? with
    | some p, none => { p with count := p.count + 1 }
    | _, _ => ⟨iface, ip, s.time.now, 1⟩
  let s := raiseEth 0 (modEth (fun e => { e with
    violations := (e.violations + 1) % 2 ^ 32
    partners := e.partners.filter (fun q => !(q.iface == iface && q.ip == ip)) ++ [p] }) s)
  let s := if p.count ≤ 16 then logEth 0x03 rood (packLe [(row, 1), (iface, 1), (ip, 6)]) s else s
  if s.eth.quarThreshold < p.count ∧ !isOrchestrator s ip ∧ !isQuarantined s iface ip then
    let s := modEth (fun e => { e with
      quarantined := addQuarantine (iface, ip, s.time.now + e.quarDuration * secTicks) e.quarantined
      quarantines := satInc 16 e.quarantines }) s
    (raiseEth 1 (logEth 0x04 noRood (ip % 2 ^ 64) s), true)
  else (s, false)

end Sys2Proof.Machine
end

