-- ==== Sys2Proof/Machine/Stream.lean ====
section
/-! DEFINITION. Stream contexts, rings, the bandwidth regulator, halts, stack errors and the flash tier (07 R205 to
R240; 04 R107). -/
namespace Sys2Proof.Machine

/-! ### Addresses of a stream -/

/-- Namespace bushel index of flash address a seen through window w (01 R33; 07 R232). -/
def flashIndex (w a : Nat) : Nat := (w * flashSize + (a - flashBase)) / 4096

/-- Key of a flash bushel slot. -/
def flashKey (rood i : Nat) : Nat := rood * 2 ^ 31 + i

/-- The namespace of a rood. -/
def nsOf (s : State) (r : Nat) : Namespace := tgetD r {} s.flash.ns

/-- Why a flash access of n bushels from index i is refused: OK if it is not (R232, R236; log 23). -/
def flashAccess (s : State) (r i n : Nat) : Nat :=
  let ns := nsOf s r
  if 0 < ns.size ∧ !ns.keyValid then Sts.keyRevoked
  else if s.flash.mode = 2 then Sts.uncorrectable
  else if ns.size * 2 ^ 18 < i + n then Sts.namespaceFull
  else Sts.ok

/-- META_STRIDE of the bushels at a stack address; 0 in a RAW region. -/
def strideAt (s : State) (a : Nat) : Nat :=
  match regionAt s a with
  | none => 0
  | some g => if g.kind = 1 then 0 else metaStride g.fmt

/-- Bytes of one bushel image or RAW unit: its cost in tokens (R222). -/
def streamCost (s : State) (b : StreamBody) : Nat :=
  4096 +
    (if b.op = 0 then (if b.srcTier = 1 then strideAt s b.srcAddr else metaStride b.fmt)
     else if b.op = 1 then (if b.dstTier = 1 then strideAt s b.dstAddr else metaStride b.fmt)
     else if b.dstTier = 1 then strideAt s b.dstAddr
     else strideAt s b.srcAddr)

/-- The port that grants a stream's requests (R224): 0-7 the stack, 8 flash read, 9 flash write, 10 the store. DESIGN CHOICE: of a
MOVE it is the source's, but for one from a stack to flash, which the flash write port grants: R224 names the ports and not the port
of a stream with two (log 32). -/
def portOf (b : StreamBody) : Nat :=
  let stackOf (a : Nat) : Nat := match placeOf a 1 with | .stk t _ => t | _ => 0
  if b.srcTier = 3 then 10
  else if b.srcTier = 2 then 8
  else if b.srcTier = 1 then (if b.dstTier = 2 then 9 else stackOf b.srcAddr)
  else if b.dstTier = 2 then 9 else stackOf b.dstAddr

/-- The buckets a stream draws on: of its source and of its destination (R222). -/
def bucketsOf (b : StreamBody) : List Nat :=
  (if b.srcTier = 1 then [0] else if b.srcTier = 2 then [2] else if b.srcTier = 3 then [4] else []) ++
    (if b.dstTier = 1 then [1] else if b.dstTier = 2 then [3] else [])

/-! ### Token buckets (R222) -/

/-- Key of bucket t of rood r. -/
def bktKey (r t : Nat) : Nat := 5 * r + t
def bucketOf (s : State) (r t : Nat) : Bucket := tgetD (bktKey r t) {} s.streams.buckets

/-- A bucket refilled to a clock: RATE/1100 byte per clock, capped at BURST. -/
def refill (clk : Nat) (b : Bucket) : Bucket :=
  { b with tokens := min (b.burst * 1024 * 1100) (b.tokens + b.rate * (clk - b.since)), since := clk }

/-- Whether bucket t of rood r lets cost bytes pass; RATE 0 leaves the tier unregulated. -/
def bucketLets (s : State) (r cost t : Nat) : Bool :=
  let b := bucketOf s r t
  b.rate == 0 || cost * 1100 ≤ (refill (uncoreClock s) b).tokens

/-- Take tokens (or give them back) for cost bytes. -/
def bucketMove (r cost : Nat) (back : Bool) (t : Nat) (s : State) : State :=
  let b := refill (uncoreClock s) (bucketOf s r t)
  if b.rate = 0 then s
  else
    let k := if back then min (b.burst * 1024 * 1100) (b.tokens + cost * 1100) else b.tokens - cost * 1100
    modStreams (fun st => { st with buckets := tset (bktKey r t) { b with tokens := k } st.buckets }) s

/-! ### Position and state of a context (R216, R221) -/

/-- The least bushel number in none of the lists. -/
def leastNotIn (l : List Nat) : Nat := ((List.range (l.length + 1)).find? fun n => !l.contains n).getD 0

/-- Lowest bushel not yet placed. -/
def position (x : Ctx) : Nat := leastNotIn x.placed

/-- The next bushel to request. -/
def nextRequest (x : Ctx) : Nat := leastNotIn (x.placed ++ x.requested)

/-- AHEAD in force: 0 means the whole ring. -/
def aheadOf (b : StreamBody) : Nat := if b.ahead = 0 then 2 ^ b.ringLog2 else b.ahead

/-- Whether the next request lies within the fetch-ahead limit (R221). -/
def withinAhead (x : Ctx) : Bool := x.body.op != 0 || (nextRequest x - x.released) * 4096 < aheadOf x.body

/-- The state of an active context that is not HALTED and has not ended (Table 7.7). -/
def settleCtx (s : State) (x : Ctx) : Ctx :=
  if x.st = .halted ∨ x.st = .free ∨ x.ended then x
  else if x.body.bushels ≤ nextRequest x then { x with st := .closing }
  else if !withinAhead x then { x with st := .full }
  else if (bucketsOf x.body).all (bucketLets s x.rood (streamCost s x.body)) then { x with st := .running }
  else { x with st := .throttled }

/-- Bytes in FILLED slots (STR_CTXn_BUF). -/
def filledBytes (x : Ctx) : Nat := 4096 * (x.slots.filter fun e => e.2 == .filled).length

/-- Refresh the state of context x. -/
def refreshCtx (x : Nat) (s : State) : State := modCtx x (settleCtx s) s

/-! ### End of a stream -/

/-- End the stream of context x: slots of a failed LOAD not FILLED become POISONED (R218, R220, R227). The context is FREE once the
completion is written (Table 7.7). -/
def endStream (x status : Nat) (s : State) : State :=
  match tfind x s.streams.ctx with
  | none => s
  | some k =>
    if k.ended then s else
    let bad := if isLoad k && status != Sts.ok then
      (List.range (ringSlots k.body)).filter fun i => tfind i k.slots != some .filled else []
    let s := modStreams (fun st => { st with
      ctx := tmod x (fun k => { k with st := .closing, requested := [], fault := none, ended := true }) st.ctx
      poison := bad.foldl (fun p i =>
        let p := tset (k.body.dstAddr + 4096 * i) (4096, status) p
        let sc := scaleSlot k.body.fmt
        if sc = 0 then p else tset (k.body.scale + sc * i) (sc, status) p) st.poison }) s
    finish k.desc status (min k.placed.length (2 ^ 32 - 1)) s

/-! ### Halts (R225, R226) -/

/-- A halt of context x at an address is counted and logged (R226; Tables 7.15, 7.19, 7.22). -/
def noteHalt (x : Nat) (cause : HaltCause) (addr rood : Nat) (s : State) : State :=
  let i := match cause with | .flashUnstaged => 0 | .flashUncorrectable => 1 | .stackUncorrectable => 2 | .checksumBad => 3
  let s := raiseStr 4 (modStreams (fun st => { st with halts := tset i (satInc 16 (tgetD i 0 st.halts)) st.halts }) s)
  let pay := packLe [(x, 2), (addr, 6)]
  match placeOf addr 1 with
  | .stk t _ => logStack t 0x01 (some (if cause = .checksumBad then 3 else 2)) rood pay s
  | _ =>
    let s := modFlash (fun f =>
      if cause = .flashUnstaged then { f with misses := satInc 32 f.misses } else { f with uncorr := satInc 16 f.uncorr }) s
    logFlash 0x01 (some (if cause = .flashUnstaged then 0 else 1)) rood pay s

/-- Context x halts on bushel n: what is placed stays, the requests above its position are discarded and their tokens
returned (R226). -/
def haltStream (x n : Nat) (cause : HaltCause) (addr : Nat) (s : State) : State :=
  match tfind x s.streams.ctx with
  | none => s
  | some k =>
    let cost := streamCost s k.body
    let back := (k.requested.filter (position k < ·)).length
    let s := forAll (bucketsOf k.body) (bucketMove k.rood (cost * back) true) s
    let s := modCtx x (fun k => { k with st := .halted, requested := [], fault := some (cause, n, addr) }) s
    noteHalt x cause addr k.rood s

/-- Address of bushel n at the source and at the destination. -/
def srcOf (x : Ctx) (n : Nat) : Nat := x.body.srcAddr + 4096 * n
def dstOf (x : Ctx) (n : Nat) : Nat := x.body.dstAddr + 4096 * n

/-- A fault at bushel n halts the stream; one of the stack is counted at its location (R225, R231). Of a location that is not
refetched the halt is never resolved: firmware reports it so (R227). -/
def faultStream (x n : Nat) (cause : HaltCause) (s : State) : State :=
  match tfind x s.streams.ctx with
  | none => s
  | some k =>
    let a := srcOf k n
    match cause with
    | .flashUnstaged | .flashUncorrectable => haltStream x n cause a s
    | .stackUncorrectable | .checksumBad => haltStream x n cause a (stackError a (cause == .checksumBad) s)

/-! ### Reading and writing one bushel (R211 to R215, R234, R235) -/

/-- ELEMENTS of bushel n of a STORE: the maximum, or what remains of ROWS × COLS from the bushel's first element on (R214). -/
def storeElements (b : StreamBody) (n : Nat) : Nat :=
  let m := bushelElems b.fmt
  let left := b.rows * b.cols - (b.first + n * m)
  if b.rows * b.cols = 0 then m else max 1 (min m left)

/-- Whether the destination keeps bushel metadata. -/
def dstHasMeta (s : State) (x : Ctx) (n : Nat) : Bool :=
  x.body.dstTier == 2 || (match regionAt s (dstOf x n) with | some g => g.kind != 1 | none => false)

/-- Scratchpad ranges that a STORE reads for bushel n: its data, and the scales of an MX bushel that keeps metadata (R218). -/
def storeReads (s : State) (x : Ctx) (n : Nat) : List (Nat × Nat) :=
  let used := min (sidecarBytes x.body.fmt) ((storeElements x.body n + 31) / 32)
  (srcOf x n, 4096) :: (if dstHasMeta s x n && used != 0 then [(x.body.scale + scaleSlot x.body.fmt * n, used)] else [])

/-- A stream read a bushel slot: the read counter of the block that holds it rises (R237). -/
def countBlockRead (key : Nat) (s : State) : State :=
  modFlash (fun f =>
    let b := Config.flashBlock key (f.relocs + f.moves)
    { f with reads := tset b (tgetD b 0 f.reads + 1) f.reads }) s

/-- What reading bushel n gives. -/
inductive SrcRead where
  | got (hdr : Option Meta) (data : List Byte)
  | stall
  /-- a POISONED ring slot, with the final status of its stream (R218) -/
  | poisoned (status : Nat)
  | fault (cause : HaltCause)
  | ends (status : Nat)
  deriving DecidableEq, Repr

/-- Header checks of a LOAD (R214). -/
def loadHeaderOk (s : State) (x : Ctx) (a : Nat) (m : Meta) : Bool :=
  let readers := match lockAt s a 1 with | some (_, _, e) => e.readers.testBit x.rood | none => false
  m.fmt == x.body.fmt && (m.rood == x.rood || readers) && (x.body.tensorId == 0 || m.tensorId == x.body.tensorId) &&
    (!x.body.checkVersion || m.version == x.body.version)

/-- Checks of a bushel read with its metadata (R214, R225). HEADER_MISMATCH ranks above BUSHEL_POISONED (R238). DESIGN CHOICE: the
CHECKSUM of a bushel with POISON set is not checked: R214 gives no order of the two (log 75). -/
def readChecked (s : State) (x : Ctx) (a : Nat) (m : Meta) (data : List Byte) : SrcRead :=
  if m.poison then .ends (if x.body.op = 0 ∧ !loadHeaderOk s x a m then Sts.headerMismatch else Sts.bushelPoisoned)
  else if bushelCrc m data ≠ m.checksum then .fault .checksumBad
  else if x.body.op = 0 ∧ !loadHeaderOk s x a m then .ends Sts.headerMismatch
  else .got (some m) data

/-- Key of the translation segment that holds bushel i of rood r's namespace (R233). -/
def segmentKey (r i : Nat) : Nat := r * 2 ^ 22 + i / 512

/-- A translation segment is used: it is the most recent of the 65,536 that the controller holds (R233). -/
def useSegment (seg : Nat) : State → State :=
  modFlash fun f =>
    let l := f.cached.filter (· != seg) ++ [seg]
    { f with cached := l.drop (l.length - 65536) }

/-- Bushel slot i of rood r is read by a stream of firmware's own: a miss of its segment halts the stream, whose context no rule gives,
until the flash service has loaded the segment, and the block's read counter rises (R225, R233, R237). -/
def readSlot (r i : Nat) (s : State) : State :=
  let seg := segmentKey r i
  let s := if s.flash.cached.contains seg then s
    else
      let (x, s) := fresh 16 s
      modFlash (fun f => { f with loads := satInc 32 f.loads }) (noteHalt x .flashUnstaged (flashBase + 4096 * i % flashSize) r s)
  let s := useSegment seg s
  if (tfind (flashKey r i) s.flash.slots).isSome then countBlockRead (flashKey r i) s else s

/-- The slots that hold the n bytes from byte off of rood r's namespace are read (R232). -/
def readSlots (r off n : Nat) (s : State) : State :=
  forAll (List.range ((off % 4096 + n + 4095) / 4096)) (fun i => readSlot r (off / 4096 + i)) s

/-- Read bushel n of context x at its source. -/
def readSource (s : State) (x : Ctx) (n : Nat) : SrcRead :=
  let a := srcOf x n
  if x.body.srcTier = 0 then
    match placeOf a 4096 with
    | .bank c off =>
      if clusterAbsent s c then .ends Sts.notPermitted
      else
        match bankRead s c off 4096 with
        | none => .stall
        | some bs => .got none bs
    | .scratch c _ =>
      if clusterAbsent s c then .ends Sts.notPermitted
      else
        match ringReads s (storeReads s x n) with
        | .stall => .stall
        | .poisoned st => .poisoned st
        | .ready => .got none (rdBytes s a 4096)
    | _ => .ends Sts.notPermitted
  else if x.body.srcTier = 1 then
    match placeOf a 4096, regionAt s a with
    | .stk t _, some g =>
      let base := a / 4096 * 4096
      let k := s.stks.getD t {}
      if k.bad.contains base then .ends Sts.uncorrectable
      else if (tfind base k.errs).isSome then .fault .stackUncorrectable
      else if g.kind = 1 then .got none (rdBytes s a 4096)
      else if bushelOf g a = none then .ends Sts.notPermitted
      else readChecked s x a (metaAt s base) (rdBytes s base 4096)
    | _, _ => .ends Sts.notPermitted
  else
    let i := flashIndex x.body.flashWin a
    let st := flashAccess s x.rood i 1
    if st ≠ Sts.ok then .ends st
    else if s.flash.lost.contains (flashKey x.rood i) then .ends Sts.uncorrectable
    else if !s.flash.cached.contains (segmentKey x.rood i) then .fault .flashUnstaged
    else
      match tfind (flashKey x.rood i) s.flash.slots with
      | none => .ends Sts.flashUnwritten
      | some v => readChecked s x a v.hdr v.data

/-- The stream of context x ends at bushel n with a status: a poisoned bushel, a header that fails and an address in no region
are logged (Table 7.15; 01 R31). -/
def endRead (x n status : Nat) (s : State) : State :=
  match tfind x s.streams.ctx with
  | none => s
  | some k =>
    let s :=
      if status = Sts.bushelPoisoned then raiseStr 2 (logGlb 0x24 k.rood (srcOf k n % 2 ^ 48) s)
      else if status = Sts.headerMismatch then raiseStr 1 (logGlb 0x23 k.rood (srcOf k n % 2 ^ 48) s)
      else if k.body.srcTier = 1 ∧ (regionAt s (srcOf k n)).isNone then logUnmapped (srcOf k n) 2 k.rood s
      else s
    endStream x status s

/-- Data of a stored bushel with every bit beyond its ELEMENTS zero (R211). -/
def trimData (fmt el : Nat) (data : List Byte) : List Byte :=
  leBytes 4096 (leNat data % 2 ^ (el * elemBits fmt))

/-- Header and sidecar that a STORE writes for bushel n (R214). DESIGN CHOICE: its source sidecars lie at SCALE with the stride of the
scale slots of a ring, which is the one stride Table 7.5 gives for a scratchpad (log 75). -/
def storeMeta (s : State) (x : Ctx) (n : Nat) : Meta where
  fmt := x.body.fmt
  rood := x.rood
  poison := false
  elements := storeElements x.body n
  tensorId := x.body.tensorId
  rows := x.body.rows
  cols := x.body.cols
  first := (x.body.first + n * bushelElems x.body.fmt) % 2 ^ 48
  version := x.body.version
  owner := 0
  stamp := s.time.now
  checksum := 0
  sidecar :=
    let used := (storeElements x.body n + 31) / 32
    rdBytes s (x.body.scale + scaleSlot x.body.fmt * n) (min (sidecarBytes x.body.fmt) used) ++
      List.replicate (sidecarBytes x.body.fmt - min (sidecarBytes x.body.fmt) used) 0

/-- Write a bushel to flash slot i of rood r (R235). -/
def flashPut (r i : Nat) (m : Meta) (data : List Byte) (s : State) : State :=
  modFlash (fun f => { f with
    slots := tset (flashKey r i) ⟨data, m⟩ f.slots
    lost := f.lost.filter (· != flashKey r i)
    hostWritten := f.hostWritten + 4096
    nandWritten := f.nandWritten + 4096 }) s

/-- Header of a bushel that comes from a RAW region (log 24). -/
def rawMeta (rood : Nat) : Meta := { fmt := 0, rood := rood, poison := false, elements := 1024 }

/-- Write bushel n at the destination: its status, and the state. DESIGN CHOICE: a bushel whose FORMAT is not the region's, of which
every bushel is of that FORMAT (R210), ends the stream with HEADER_MISMATCH, event 0x23 (log 75). -/
def writeDest (x : Ctx) (n : Nat) (w : Writer) (hdr : Option Meta) (data : List Byte) (s : State) : Nat × State :=
  let a := dstOf x n
  let m := { (hdr.getD (rawMeta x.rood)) with rood := x.rood }
  if x.body.dstTier = 2 then
    let i := flashIndex x.body.flashWin a
    let st := flashAccess s x.rood i 1
    if st ≠ Sts.ok then (st, s)
    else if s.flash.mode = 1 then (Sts.flashReadOnly, s)
    else (Sts.ok, flashPut x.rood i (sealBushel m data) data s)
  else
    let c := writeCheck s w a 4096
    match regionAt s a with
    | none => (Sts.notPermitted, logUnmapped a 2 x.rood s)
    | some g =>
      if c ≠ .ok then (Sts.notPermitted, logRefused c a x.rood s)
      else if g.kind = 1 then (Sts.ok, wrBytes a data s)
      else if hdr.isSome ∧ (g.kind ≠ 5 ∧ m.fmt ≠ g.fmt) then
        (Sts.headerMismatch, raiseStr 1 (logGlb 0x23 x.rood (a % 2 ^ 48) s))
      else (Sts.ok, putBushel (a / 4096 * 4096) (sealBushel { m with fmt := g.fmt } data) data s)

/-- Note bushel n of context x as placed. -/
def notePlaced (x n : Nat) (s : State) : State :=
  refreshCtx x (modCtx x (fun k => { k with placed := k.placed ++ [n], requested := k.requested.filter (· != n) }) s)

/-- The range meets the ring or scale ring of a LOAD context other than x (R218). -/
def onOtherRing (s : State) (x a n : Nat) : Bool :=
  s.streams.ctx.any fun e =>
    e.1 != x && isLoad e.2 && (meets a n e.2.body.dstAddr (2 ^ e.2.body.ringLog2) ||
      meets a n e.2.body.scale (scaleSlot e.2.body.fmt * ringSlots e.2.body))

/-- Place bushel n of a LOAD in its ring slot, which must be EMPTY (R217, R218); a ring of another context that it meets refuses it; the windows of an absent cluster take nothing
(03 R97). -/
def placeLoad (x n : Nat) (k : Ctx) (hdr : Option Meta) (data : List Byte) (s : State) : State :=
  let i := n % ringSlots k.body
  let gone := match placeOf k.body.dstAddr 1 with | .scratch c _ => clusterAbsent s c | _ => true
  if gone then endStream x Sts.notPermitted s
  else if (tfind i k.slots).isSome then s
  else
    let a := k.body.dstAddr + 4096 * i
    let sc := scaleSlot k.body.fmt
    let side := match hdr with | some m => m.sidecar.take sc | none => []
    let at' := k.body.scale + sc * i
    if onOtherRing s x a 4096 || onOtherRing s x at' sc then endStream x Sts.notPermitted (logRingRefused k.rood a s)
    else
    let s := wrBytes a data (clearPoison a 4096 s)
    let s := if sc = 0 then s else wrBytes at' (side ++ List.replicate (sc - side.length) 0) (clearPoison at' sc s)
    notePlaced x n (modCtx x (fun k => { k with slots := tset i .filled k.slots, linesRead := tdel i k.linesRead }) s)

/-- Place a bushel of a STORE or MOVE, or end the stream where its destination refuses it. -/
def placeWrite (x n : Nat) (k : Ctx) (w : Writer) (hdr : Option Meta) (data : List Byte) (s : State) : State :=
  let r := writeDest k n w hdr data s
  if r.1 = Sts.ok then notePlaced x n r.2 else endStream x r.1 r.2

/-- The read of bushel n of context x reaches a written slot of the flash (R232 to R237). -/
def flashRead (s : State) (x : Ctx) (n : Nat) : Bool :=
  let i := flashIndex x.body.flashWin (srcOf x n)
  x.body.srcTier == 2 && flashAccess s x.rood i 1 == Sts.ok && !s.flash.lost.contains (flashKey x.rood i) &&
    s.flash.cached.contains (segmentKey x.rood i) && (tfind (flashKey x.rood i) s.flash.slots).isSome

/-- A requested bushel is read, checked and placed (R214, R215, R218); a read of the flash is counted, whatever it finds (R237). -/
def placeBushel (x n : Nat) (s : State) : State :=
  match tfind x s.streams.ctx with
  | none => s
  | some k =>
    if !k.requested.contains n || k.st == .halted || k.body.srcTier == 3 then s
    else
      let full := k.body.op = 0 && (tfind (n % ringSlots k.body) k.slots).isSome
      let got := readSource s k n
      let i := flashIndex k.body.flashWin (srcOf k n)
      let s := if flashRead s k n && !full then countBlockRead (flashKey k.rood i) (useSegment (segmentKey k.rood i) s) else s
      match got with
      | .stall => s
      | .fault c => faultStream x n c s
      | .poisoned st => endStream x st (logPoison k.rood (storeReads s k n) s)
      | .ends st => endRead x n st s
      | .got hdr data =>
        if full then s
        else if k.body.op = 0 then placeLoad x n k hdr data s
        else if k.body.op = 1 then
          let s' := markReads (storeReads s k n) s
          if dstHasMeta s k n then
            let m := storeMeta s k n
            placeWrite x n k .storeMove (some m) (trimData m.fmt m.elements data) s'
          else placeWrite x n k .storeMove none data s'
        else placeWrite x n k .storeMove hdr data s

/-! ### Start (R206, R216, R232) -/

/-- Checks of a stream's flash range at its start (R232, R236, R237). -/
def startChecks (s : State) (r : Nat) (b : StreamBody) : Nat :=
  let src := if b.srcTier = 2 then flashAccess s r (flashIndex b.flashWin b.srcAddr) b.bushels else Sts.ok
  let dst := if b.dstTier = 2 then
      (let st := flashAccess s r (flashIndex b.flashWin b.dstAddr) b.bushels
       if st = Sts.ok ∧ s.flash.mode = 1 then Sts.flashReadOnly else st) else Sts.ok
  statusMax src dst

/-- Whether an address lies in the tier a stream names for it. -/
def inTier (tier a : Nat) : Bool :=
  match placeOf a 1 with
  | .scratch _ _ | .bank _ _ => tier == 0
  | .stk _ _ => tier == 1
  | .flash _ => tier == 2
  | _ => false

/-- A STORE_QP that a stream of the rood may use: a store queue pair of its PID in RTS (12 R365, Table 12.3). -/
def storeQpOk (s : State) (e : Desc) (b : StreamBody) : Bool :=
  match tfind b.storeQp s.eth.qps with
  | none => false
  | some q => q.rood == e.rood && q.pid == e.pid && q.role == 1 && q.st == .rts

/-- Start stream descriptor d: it takes a free context within the rood's quota (R216); every slot of its ring is EMPTY (R218). DESIGN
CHOICE: a stream whose address lies in another tier than it names ends with NOT_PERMITTED: Table 7.1 gives no status (log 75). -/
def startStream (d : Nat) (e : Desc) (b : StreamBody) (s : State) : State :=
  let used := (s.streams.ctx.filter fun k => k.2.rood == e.rood).length
  let quota := match s.roods[e.rood]? with | some r => r.res.qCtx | none => 0
  match firstBelow 1024 (fun x => (tfind x s.streams.ctx).isNone) with
  | none => s
  | some x =>
    if quota ≤ used then s
    else
      let s := markStarted d e s
      let np := (b.srcTier ≠ 3 ∧ !inTier b.srcTier b.srcAddr) ∨ !inTier b.dstTier b.dstAddr ∨ (b.srcTier = 3 ∧ !storeQpOk s e b)
      let st := statusMax (if np then Sts.notPermitted else Sts.ok) (startChecks s e.rood b)
      if st ≠ Sts.ok then finish d st 0 s
      else
        let k : Ctx := { st := .running, desc := d, rood := e.rood, pid := e.pid, body := b, admitStamp := e.admitStamp,
                         relBase := (ctrGet e.rood b.relCtr s).value }
        let s := if b.op = 0 then
            clearPoison b.scale (scaleSlot b.fmt * ringSlots b) (clearPoison b.dstAddr (2 ^ b.ringLog2) s) else s
        refreshCtx x (modStreams (fun st => { st with ctx := tset x k st.ctx }) s)

/-- Start the stream at the head of the unit's queue if it is d and its body satisfies p. -/
def startStreamIf (p : StreamBody → Bool) (d : Nat) (s : State) : State :=
  match tfind d s.descs with
  | none => s
  | some e =>
    match e.body with
    | .stream b => if p b && startReady s d e then startStream d e b s else s
    | _ => s

/-! ### Deadline arbitration (R224) -/

/-- Bushels requested at a port and not placed. -/
def outstanding (s : State) (port : Nat) : Nat :=
  (s.streams.ctx.filter fun k => portOf k.2.body == port).foldl (fun n k => n + k.2.requested.length) 0

/-- Eligible for a grant at its port; a stack port has at most 512 bushels outstanding (R223), a store queue pair MAX_RD READs (12
Table 12.3). -/
def eligible (s : State) (port : Nat) (x : Ctx) : Bool :=
  portOf x.body == port && (8 ≤ port || outstanding s port < 512) && (port != 10 || readRoom s x.body.storeQp) && x.st != .halted && x.st != .free && !x.ended && nextRequest x < x.body.bushels && withinAhead x &&
    (bucketsOf x.body).all (bucketLets s x.rood (streamCost s x.body))

/-- Time to empty of a context as a fraction: numerator and denominator; none for a LOAD with RATE 0. -/
def timeToEmpty (h : Nat) (x : Ctx) : Option (Nat × Nat) :=
  if x.body.op = 0 then (if x.body.rate = 0 then none else some (filledBytes x * 1000, x.body.rate)) else some (h, 1)

/-- Whether context a goes before context b: least time to empty, then admission stamp, then number; LOADs with RATE 0
after all others, round robin from rr. -/
def goesBefore (h rr : Nat) (a b : Nat × Ctx) : Bool :=
  match timeToEmpty h a.2, timeToEmpty h b.2 with
  | some p, some q =>
    let l := p.1 * q.2
    let r := q.1 * p.2
    l < r || (l == r && (a.2.admitStamp < b.2.admitStamp || (a.2.admitStamp == b.2.admitStamp && a.1 < b.1)))
  | some _, none => true
  | none, some _ => false
  | none, none => (a.1 + 1024 - rr) % 1024 < (b.1 + 1024 - rr) % 1024

/-- The context that a port grants. -/
def portPick (s : State) (port : Nat) : Option (Nat × Ctx) :=
  let rr := tgetD port 0 s.streams.rr
  (s.streams.ctx.filter fun k => eligible s port k.2).foldl (fun best k =>
    match best with
    | none => some k
    | some v => if goesBefore s.streams.horizon rr k v then some k else some v) none

/-- Stride of one bushel image in the store. -/
def imageStride (s : State) (b : StreamBody) : Nat := 4096 + strideAt s b.dstAddr

/-- The port grants one bushel request: its tokens are taken; a store request goes out as an RDMA READ (R222, R224). -/
def grantPort (port : Nat) (s : State) : State :=
  match portPick s port with
  | none => s
  | some (x, k) =>
    let n := nextRequest k
    let s := forAll (bucketsOf k.body) (bucketMove k.rood (streamCost s k.body) false) s
    let s := if k.body.op = 0 ∧ k.body.rate = 0 then
        modStreams (fun st => { st with rr := tset port ((x + 1) % 1024) st.rr }) s else s
    let s := if port = 10 then
        qpSend k.body.storeQp (.readReq k.body.storeQp (k.body.remoteAddr + n * imageStride s k.body) k.body.rkey (imageStride s k.body)) s
      else s
    refreshCtx x (modCtx x (fun k => { k with requested := k.requested ++ [n] }) s)

/-! ### Slots (R219) -/

/-- Whether slot i of context x may be released: every data line read, or the release counter has passed its bushel. -/
def slotReleasable (s : State) (x : Ctx) (i : Nat) : Bool :=
  tfind i x.slots == some .filled &&
    (if x.body.relCounter then
      let freed := (((ctrGet x.rood x.body.relCtr s).value + 2 ^ 32 - x.relBase % 2 ^ 32) % 2 ^ 32)
      after 32 freed (x.released % 2 ^ 32) && x.released % ringSlots x.body == i && x.placed.contains x.released
    else tgetD i 0 x.linesRead == 2 ^ 64 - 1)

/-- Release slot i of context x. -/
def releaseSlot (x i : Nat) (s : State) : State :=
  match tfind x s.streams.ctx with
  | none => s
  | some k =>
    if slotReleasable s k i then
      refreshCtx x (modCtx x (fun k => { k with
        slots := tdel i k.slots, linesRead := tdel i k.linesRead, released := k.released + 1 }) s)
    else s

/-! ### Meanings -/

/-- A LOAD descriptor starts (R217). -/
def execLoadStream (d : Nat) (s : State) : Answer := .next (startStreamIf (fun b => b.op == 0) d s)
/-- A STORE descriptor starts (R214). -/
def execStoreStream (d : Nat) (s : State) : Answer := .next (startStreamIf (fun b => b.op == 1) d s)
/-- A MOVE descriptor starts (R214). -/
def execMoveStream (d : Nat) (s : State) : Answer := .next (startStreamIf (fun b => b.op == 2) d s)
/-- A STREAM descriptor at the head of the queue takes a free context (R216). -/
def execStreamContextStart (d : Nat) (s : State) : Answer := .next (startStreamIf (fun _ => true) d s)
/-- A port grants a bushel request (R224). -/
def execPortGrant (port : Nat) (s : State) : Answer := .next (grantPort port s)
/-- A FILLED slot is released (R219). -/
def execSlotRelease (x slot : Nat) (s : State) : Answer := .next (releaseSlot x slot s)

/-- The last bushel is placed: the stream completes (R220). -/
def execStreamComplete (x : Nat) (s : State) : Answer :=
  .next (match tfind x s.streams.ctx with
    | none => s
    | some k => if k.st = .closing ∧ !k.ended ∧ k.placed.length = k.body.bushels then endStream x Sts.ok s else s)

/-- Whether the fault a context halted on can be reported resolved: of a stack location, it was refetched and written back
(R231); a bushel of the shared store is read from there again. -/
def haltResolved (s : State) (x : Ctx) : Bool :=
  x.body.srcTier == 3 || match x.fault with
  | some (.stackUncorrectable, _, a) | some (.checksumBad, _, a) =>
    (match placeOf a 1 with
      | .stk t _ =>
        (match s.stks[t]?, regionAt s a with
          | some k, some g => backed g && (tfind (a / 4096 * 4096) k.errs).isNone && !k.bad.contains (a / 4096 * 4096)
          | _, _ => false)
      | _ => true)
  | _ => true

/-- Firmware reports the halt of context x resolved: it runs again from its saved position (R226, R233). -/
def execStreamResume (x : Nat) (s : State) : Answer :=
  .next (match tfind x s.streams.ctx with
    | none => s
    | some k =>
      if k.st ≠ .halted ∨ !haltResolved s k then s
      else
        let s := match k.fault with
          | some (.flashUnstaged, n, _) =>
            let seg := segmentKey k.rood (flashIndex k.body.flashWin (srcOf k n))
            modFlash (fun f => { f with loads := satInc 32 f.loads }) (useSegment seg s)
          | some (.flashUncorrectable, _, _) | some (.checksumBad, _, _) =>
            if k.body.srcTier = 2 then modFlash (fun f => { f with retries := satInc 32 f.retries }) s else s
          | _ => s
        refreshCtx x (modCtx x (fun k => { k with st := .running, fault := none }) s))

/-- Firmware reports the halt of context x unresolvable (R227). -/
def execStreamUnresolved (x : Nat) (s : State) : Answer :=
  .next (match tfind x s.streams.ctx with
    | none => s
    | some k =>
      if k.st ≠ .halted then s
      else raiseStr 5 (modDesc k.desc (fun e => { e with result := e.result.map fun r => { r with detail := position k } })
        (endStream x Sts.uncorrectable s)))

/-- A written bucket takes effect at a furlong boundary (R222). -/
def applyBucket (r t : Nat) (s : State) : State :=
  let b := refill (uncoreClock s) (bucketOf s r t)
  if b.pending && atFurlong s then
    let v := b.written.toNat
    let rate := bits v 0 32
    let burst := bits v 32 16
    let cap := burst * 1024 * 1100
    let b' := { b with rate := rate, burst := burst, pending := false, tokens := min b.tokens cap }
    modStreams (fun st => { st with buckets := tset (bktKey r t) b' st.buckets }) s
  else s

/-- BUCKET_APPLY (R222). -/
def execBucketApply (r t : Nat) (s : State) : Answer := .next (applyBucket r t s)

/-- A bushel of stack t is good again: it is neither in error nor without a copy, and an engine halted at it goes on (04 R125, R126). -/
def bushelGood (t a : Nat) : State → State :=
  modStack t fun k => { k with
    errs := tdel a k.errs
    bad := k.bad.filter (· != a)
    engines := k.engines.map fun e => if e.haltedAt = some a then { e with haltedAt := none } else e }

/-- The metadata with which the recovery write places a refetched bushel at a: under a base range entry no value that the range
held changes, and ROOD is as the load set it (04 R107); none where one would. -/
def recovered (s : State) (a : Nat) (m : Meta) (data : List Byte) : Option Meta :=
  if (lockMeets s a 4096).isNone then some m
  else
    let h := metaAt s a
    if rdBytes s a 4096 = data ∧ { m with rood := h.rood, checksum := h.checksum } = h then some h else none

/-- Write a refetched bushel, whose checksum matches its header, into a replacement page (04 R104, R107, R125; 07 R230). -/
def execRecoveryWrite (addr : Nat) (image : List Byte) (s : State) : Answer :=
  .next (match placeOf addr 1, regionAt s addr with
    | .stk t _, some g =>
      let a := addr / 4096 * 4096
      let k := s.stks.getD t {}
      let m := metaOfImage image
      let data := dataOfImage image
      if (tfind a k.errs).isNone || !backed g || m.fmt != g.fmt || bushelCrc m data != m.checksum then s
      else
        match writeCheck s .recovery a 4096, recovered s a m data with
        | .ok, some h => bushelGood t a (retireBlock a (putBushel a h data s))
        | .ok, none => s
        | c, _ => logRefused c a g.rood s
    | _, _ => s)

/-- The outer code RS(144,128) corrects a codeword that lies over the pseudo-channels chans: the 8 symbols of a marked one are erasures,
errs tells how many symbols of the others are wrong, and twice the errors and the erasures together are at most its 16 check symbols
(R229). -/
def outerCorrects (marked : Nat) (chans : List Nat) (errs : List (Nat × Nat)) : Bool :=
  let lost := 8 * (chans.filter marked.testBit).length
  let wrong := (errs.filter fun e => !marked.testBit e.1).foldl (fun n e => n + e.2) 0
  2 * wrong + lost ≤ 16

/-- A correction by the outer code, of the codeword at a of stack t, is attributed to pseudo-channel p (R229). -/
def hitChannel (t p : Nat) (s : State) : State := modStack t (fun k => { k with pchHits := k.pchHits ++ [(p, s.time.now)] }) s

/-- OUTER_CORRECTED: the codeword at a of stack t. -/
def logOuter (t a : Nat) : State → State := logEv (Blk.stack t) 0x02 noRood (a % 2 ^ 48)

/-- The outer code corrects the codeword at a of stack t, with wrong symbols in pseudo-channels ps: counted and logged, and no reader
notices (R229, R240). -/
def outerCorrect (t a : Nat) (ps : List Nat) (s : State) : State :=
  let s := modStack t (fun k => { k with eccOuter := satAdd 64 k.eccOuter 1, err := raise s.time.now k.err 1 }) s
  logOuter t a (forAll ps (hitChannel t) s)

/-- Corrections of the last second attributed to pseudo-channel p (R229). -/
def pchRecent (k : Stack) (p now : Nat) : Nat :=
  (k.pchHits.filter fun h => h.1 == p && now < h.2 + 4000000000).length

/-- Sixteen corrections on pseudo-channel p of stack t within 1 s: it is marked failed (R229). -/
def execPchMarked (t p : Nat) (s : State) : Answer :=
  .next (match s.stks[t]? with
    | none => s
    | some k =>
      if k.pchFailed.testBit p || pchRecent k p s.time.now < 16 then s
      else
        let s := modStack t (fun k => { k with pchFailed := setBit k.pchFailed p }) s
        logStack t 0x03 (some 4) noRood p (mapChange 9 2 0 t p p s))

/-- Valid bushels that lie in a block of the flash. -/
def blockBushels (f : Flash) (block : Nat) : Nat :=
  (f.slots.filter fun e => Config.flashBlock e.1 (f.relocs + f.moves) == block).length

/-- A flash block's read counter reaches FLS_RD_DISTURB: its bushels are programmed elsewhere, their content unchanged (R237, R243). -/
def execReadDisturbRelocate (block : Nat) (s : State) : Answer :=
  .next (if s.flash.rdDisturb ≤ tgetD block 0 s.flash.reads then
      modFlash (fun f => { f with
        relocs := satInc 32 f.relocs, reads := tdel block f.reads, nandWritten := f.nandWritten + 4096 * blockBushels f block }) s
    else s)

/-- The flash enters READ_ONLY (R237). -/
def enterReadOnly (s : State) : State :=
  if s.flash.mode = 0 then logFlash 0x04 (some 4) noRood 0 (modFlash (fun f => { f with mode := 1 }) s) else s

/-- Free over-provisioning is now free, in 0.01 %: below 1 % the flash enters READ_ONLY (R237). -/
def execReadOnly (free : Nat) (s : State) : Answer :=
  .next (
    let s := modFlash (fun f => { f with overProv := free }) s
    if free < 100 then enterReadOnly s else s)

/-- A flash die fails: its bushels are lost, the spare takes its place, or the flash enters READ_ONLY (14 R421; R237). -/
def execDieFailed (phys : Nat) (lost : List (Nat × Nat)) (s : State) : Answer :=
  .next (
    let s := logFlash 0x02 (some 2) noRood phys s
    let keys := (lost.filter fun p => (tfind (flashKey p.1 p.2) s.flash.slots).isSome)
    let s := modFlash (fun f => { f with lost := (f.lost ++ keys.map fun p => flashKey p.1 p.2).eraseDups }) s
    let s := mapChange 6 2 0 0 phys phys s
    let s := forAll (List.range 16) (fun r t =>
      let n := (keys.filter fun p => p.1 == r).length
      if n = 0 then t else logGlb 0x69 r (packLe [(r, 1), (0xFF, 1), (n, 6)]) t) s
    if phys = s.flash.spareDie ∧ !s.flash.spareInUse then modFlash (fun f => { f with spareFailed := true }) s
    else if !s.flash.spareInUse ∧ !s.flash.spareFailed then
      let s := modFlash (fun f => { f with spareInUse := true }) s
      logFlash 0x03 (some 3) noRood s.flash.spareDie (mapChange 6 1 0 0 phys s.flash.spareDie s)
    else enterReadOnly s)

/-- The background erase of a destroyed namespace finishes (R236). -/
def execEraseDone (r : Nat) (s : State) : Answer :=
  .next (
    let ns := nsOf s r
    if ns.erasing then
      logFlash 0x05 (some 6) r r (modFlash (fun f => { f with ns := tset r { ns with erasing := false, eraseGiB := 0 } f.ns }) s)
    else s)

end Sys2Proof.Machine
end

