-- ==== Sys2Proof/Machine/Requests.lean ====
section
/-! DEFINITION. Adapter slots, cache entries, admission of scoring requests, their holds and their end (08 R245, R246, R258
to R271; 12 R372 to R378; 13 R398; 14 R428). -/
namespace Sys2Proof.Machine

/-! ### Epochs (08 R244, R246) -/

/-- The CURRENT epoch of rood r. -/
def currentEpoch (s : State) (r : Nat) : Option Epoch :=
  match s.roods[r]? with
  | none => none
  | some k => k.epochs.find? fun e => e.st == .current

/-- Epoch n of rood r. -/
def epochOf (s : State) (r n : Nat) : Option Epoch :=
  match s.roods[r]? with
  | none => none
  | some k => k.epochs.find? fun e => e.num == n

/-- Change the base range entries of epoch n of rood r. -/
def modEpochLocks (r n : Nat) (f : LockEntry → LockEntry) (s : State) : State :=
  { s with stks := s.stks.map fun k => { k with
      locks := k.locks.map fun l => if l.st != .free && l.rood == r && l.epoch == n then f l else l } }

/-- Take or drop one hold on every base range entry of an epoch (R246). -/
def holdEpoch (r n : Nat) : State → State := modEpochLocks r n fun l => { l with holds := l.holds + 1 }
def dropEpoch (r n : Nat) : State → State := modEpochLocks r n fun l => { l with holds := l.holds - 1 }

/-- Base and adapter events: byte 24 the rood (R273). -/
def logBase (low r rest : Nat) : State → State := logGlb low r (packLe [(r, 1), (rest, 7)])

/-! ### Slots (08 R260) -/

/-- Slot i; an unlisted slot is FREE at generation 0. -/
def slotOf (s : State) (r i : Nat) : Slot := tgetD i { rood := r } s.slots

/-- Slot states (R260). -/
inductive SlotUse where
  | free | bound | active | training
  deriving DecidableEq, Repr

def slotUse (k : Slot) : SlotUse :=
  if k.training.isSome then .training
  else if k.adapter.isNone then .free
  else if k.holds = 0 then .bound else .active

/-- Bind slot i of rood r to an adapter at a version: its generation advances and the cache entries of the old generation
are dropped (R260). -/
def bindSlot (r i adapter version : Nat) (s : State) : State :=
  let k := slotOf s r i
  let g := (k.gen + 1) % 2 ^ 16
  let v : Slot := { rood := r, adapter := some adapter, gen := g, cur := some { version := version } }
  let s := { s with slots := tset i v s.slots, cache := s.cache.filter fun e => e.2.slot != i }
  logBase 0x36 r (packLe [(i, 2), (g, 2)]) s

/-! ### The adapter cache (08 R265) -/

/-- Units of 2 MiB in the rood's ADAPTER regions. -/
def adapterUnits (s : State) (r : Nat) : Nat :=
  s.stks.foldl (fun n k => k.regions.foldl (fun m g => if g.2.kind = 4 ∧ g.2.rood = r then m + g.2.len else m) n) 0

/-- Units in use. -/
def usedUnits (s : State) (r : Nat) : Nat := s.cache.foldl (fun n e => if e.2.rood = r then n + e.2.units else n) 0

/-- The cache entry of a version of a slot. -/
def cacheFind (s : State) (slot gen version : Nat) : Option (Nat × CacheEntry) :=
  s.cache.find? fun e => e.2.slot == slot && e.2.gen == gen && e.2.version == version

/-- The least recently used entry that may be evicted: its slot is BOUND or FREE (R265). -/
def evictable (s : State) (r : Nat) : Option Nat :=
  let c := s.cache.filter fun e => e.2.rood == r &&
    (match slotUse (slotOf s r e.2.slot) with | .free | .bound => true | _ => false)
  (c.foldl (fun (m : Option (Nat × CacheEntry)) e =>
    match m with | none => some e | some x => if e.2.lastUse < x.2.lastUse then some e else some x) none).map (·.1)

/-- Evict entries, the least recently used first, until a shard of that many units fits; at most fuel of them. -/
def makeRoom (r need : Nat) : Nat → State → Option State
  | 0, s => if usedUnits s r + need ≤ adapterUnits s r then some s else none
  | fuel + 1, s =>
    if usedUnits s r + need ≤ adapterUnits s r then some s
    else
      match evictable s r with
      | none => none
      | some i => makeRoom r need fuel { s with cache := tdel i s.cache }

/-- The directory entry of an adapter. -/
def dirOf (s : State) (r a : Nat) : Option DirEntry :=
  match s.roods[r]? with
  | none => none
  | some k => tfind a k.dir

/-- Stage the translation segments of n units of rood r's namespace from byte off on (07 R233). -/
def stageSegments (r off n : Nat) (s : State) : State :=
  let l := (List.range n).map fun i => segmentKey r (off / 4096 + 512 * i)
  modFlash (fun f =>
    let c := f.cached.filter (fun k => !l.contains k) ++ l
    { f with
      cached := c.drop (c.length - 65536)
      loads := satAdd 32 f.loads (l.filter fun k => !f.cached.contains k).length }) s

/-- Cache entry i is used now: it is the last to be evicted (R265). -/
def usedEntry (i : Nat) (s : State) : State := { s with cache := tmod i (fun e => { e with lastUse := s.time.now }) s.cache }

/-- Have a cache entry for a version: the resident one, a FREE one, or evicted ones; the segments of a flash image that it is to be
staged from are staged (R265; 07 R233). -/
def ensureCache (r slot gen version : Nat) (s : State) : Option State :=
  match cacheFind s slot gen version with
  | some (i, _) => some (usedEntry i s)
  | none =>
    let dir := match (slotOf s r slot).adapter with | some a => dirOf s r a | none => none
    let need := (dir.map (·.units)).getD 1
    (makeRoom r need s.cache.length s).map fun s =>
      let s := match dir with
        | some e => if e.source = 1 then s else stageSegments r e.flashOffset e.units s
        | none => s
      { s with
        cache := tset s.nextCache { rood := r, slot := slot, gen := gen, version := version, lastUse := s.time.now, units := need } s.cache
        nextCache := s.nextCache + 1 }

/-! ### Rows (08 Table 8.10) -/

/-- The version that a row is tagged with (R266). -/
def tagVersion (k : Slot) (bound : Bool) (entry : Nat) (pin : Bool) (v : Nat) : Sum Nat Nat :=
  let cur := if bound then (k.cur.map (·.version)).getD entry else entry
  let held := bound && (match k.prev with | some p => p.version == v && 0 < p.holds | none => false)
  if !pin || v == cur || held then .inr (if pin then v else cur)
  else .inl (if after 32 v cur then Sts.versionNotYet else Sts.versionRetired)

/-- Take a hold of a version buffer of a slot. -/
def bufHold (v : Nat) (up : Bool) (b : Option VerBuf) : Option VerBuf :=
  b.map fun k => if k.version = v then { k with holds := if up then k.holds + 1 else k.holds - 1 } else k

/-- Take or drop the holds of a row: its slot, its version buffer and its expert position. -/
def holdRow (t : RowTag) (s : State) : State :=
  if t.none then s
  else modSlot t.slot (fun k => { k with
    holds := k.holds + 1
    cur := bufHold t.version true k.cur
    prev := if (k.cur.map (·.version)) = some t.version then k.prev else bufHold t.version true k.prev }) s

def dropRow (r : Nat) (t : RowTag) (s : State) : State :=
  if t.none then s
  else
    let s := modSlot t.slot (fun k =>
      if k.gen = t.gen then { k with
        holds := k.holds - 1
        cur := bufHold t.version false k.cur
        prev := if (k.cur.map (·.version)) = some t.version then k.prev else bufHold t.version false k.prev }
      else k) s
    match t.expert with
    | none => s
    | some p => modRood r (fun k => { k with experts :=
        (tmod p (fun e => (e.1, e.2 - 1)) k.experts).filter fun e => e.2.2 != 0 }) s

/-- CLAIM_LOST: what, number, winning PID. -/
def logLost (r what n pid : Nat) : State → State := logBase 0x37 r (packLe [(what, 1), (n, 2), (pid % 2 ^ 20, 3)])

/-- PID that owns an adapter. -/
def adapterPid (s : State) (r a : Nat) : Nat :=
  match s.roods[r]? with
  | none => 0
  | some k => match tfind a k.dir with | some e => e.pid | none => 0

/-- One row of a request through checks 3 to 10: its tag or the status of its failure (Table 8.10, R269, R270). A row of a lost stage or
adapter is refused once the directory holds its adapter for its PID (14 R428; 00 R20). -/
def admitRow (r pid : Nat) (ep : Option Epoch) (ref : Nat × Nat × Bool × Bool) (s : State) : Sum Nat RowTag × State :=
  let (a, ver, pin, none_) := ref
  if none_ then (.inr ⟨0, 0, 0, 0, true, none⟩, s)
  else
    match s.roods[r]? with
    | none => (.inl Sts.notPermitted, s)
    | some k =>
        match tfind a k.dir with
        | none => (.inl Sts.adapterUnknown, s)
        | some e =>
          if e.pid ≠ pid then (.inl Sts.notPermitted, s)
          else if k.refused.any fun x => x.2 == a || x.2 == 0 then (.inl Sts.stageLost, s)
          else if (ep.map (·.baseId)) ≠ some e.baseId then (.inl Sts.adapterBaseMismatch, s)
          else
            let sl := slotOf s r e.slot
            let bound := sl.adapter == some a
            match tagVersion sl bound e.version pin ver with
            | .inl st => (.inl (if e.faulted.contains ver then Sts.adapterImageBad else st), s)
            | .inr v =>
              if e.faulted.contains v then (.inl Sts.adapterImageBad, s)
              else
                let use_ := slotUse sl
                if !bound && (use_ == .active || use_ == .training) then
                  (.inl Sts.slotConflict, logLost r 0 e.slot (adapterPid s r (sl.adapter.getD 0)) s)
                else
                  let s := if bound then s else bindSlot r e.slot a e.version s
                  let g := (slotOf s r e.slot).gen
                  let experts := match s.roods[r]? with | some k => k.experts | none => []
                  let lost : Option Nat := match e.expert with
                    | none => none
                    | some p =>
                      if ((ep.map (·.experts)).getD 0) ≤ p then some 0xFFFFF
                      else match tfind p experts with
                        | some h => if h.1 = a then none else some (adapterPid s r h.1)
                        | none => none
                  match lost, e.expert with
                  | some w, some p => (.inl Sts.expertConflict, if w = 0xFFFFF then s else logLost r 1 p w s)
                  | _, _ =>
                    let cached := if (slotOf s r e.slot).training.isSome then some s else ensureCache r e.slot g v s
                    match cached with
                    | none => (.inl Sts.refusedCapacity, s)
                    | some s =>
                      let t : RowTag := ⟨a, e.slot, g, v, false, e.expert⟩
                      let s := match e.expert with
                        | none => s
                        | some p => modRood r (fun k => { k with experts := tset p (a, (tgetD p (a, 0) k.experts).2 + 1) k.experts }) s
                      (.inr t, holdRow t s)

/-- Every row in ascending order: the tags, and the highest-ranking failure with its lowest row (R263, R20). -/
def admitRows (r pid : Nat) (ep : Option Epoch) : Nat → List (Nat × Nat × Bool × Bool) → State →
    List RowTag × Option (Nat × Nat) × State
  | _, [], s => ([], none, s)
  | i, x :: xs, s =>
    let (res, s) := admitRow r pid ep x s
    let (tags, bad, s) := admitRows r pid ep (i + 1) xs s
    match res with
    | .inr t => (t :: tags, bad, s)
    | .inl st =>
      let mine := (st, i)
      (tags, some (match bad with | none => mine | some b => if statusRank b.1 < statusRank st then b else mine), s)

/-! ### Clients (12 R371, R375, R376) -/

/-- A client region handle of queue pair q. -/
def clientRegion (s : State) (q h : Nat) : Option ClientRegion :=
  match qpOf s q with
  | none => none
  | some k => tfind h k.regions

/-- Whether an outstanding request names a handle of q. -/
def namesHandle (s : State) (q h : Nat) : Bool := (qpRequests s q).any fun e => e.2.outH == h || e.2.cplH == h

/-- A 32-byte reply to a region message (R371). -/
def regionReply (q op st h tag : Nat) (s : State) : State :=
  qpSend q (.send q (leBytes 1 op ++ leBytes 1 st ++ leBytes 2 h ++ leBytes 4 tag ++ leBytes 8 s.time.now ++ leBytes 16 0)) s

/-- Deregistrations that waited for their last request take effect (R371). -/
def settleHandles (q : Nat) (s : State) : State :=
  match qpOf s q with
  | none => s
  | some k =>
    forAll (k.regions.filter fun g => g.2.leaving.isSome) (fun g t =>
      if namesHandle t q g.1 then t
      else regionReply q 2 Sts.ok g.1 (g.2.leaving.getD 0) (modQp q (fun k => { k with regions := tdel g.1 k.regions }) t)) s

/-- A request completion record, of a completing event stamped at (Table 12.8). -/
def requestRecord (s : State) (k : Request) (at' st rows detail : Nat) : List Byte :=
  let n := at' / rodLen s
  leBytes 8 at' ++ leBytes 6 (n % 2 ^ 48) ++ leBytes 2 (eraOf s at') ++ leBytes 4 k.clientTag ++ leBytes 4 k.seq ++
    leBytes 1 st ++ leBytes 1 0 ++ leBytes 2 rows ++ leBytes 4 detail

/-- The holds of request h are dropped (08 R246). -/
def dropHolds (h : Nat) (s : State) : State :=
  match tfind h s.requests with
  | none => s
  | some k =>
    let s := modReq h (fun k => { k with rows := [], tagged := false }) s
    let s := if k.tagged then dropEpoch k.rood k.epoch s else s
    forAll k.rows (dropRow k.rood) s

/-- Drop a request with everything that it holds. -/
def dropRequest (h : Nat) (s : State) : State :=
  match tfind h s.requests with
  | none => s
  | some k =>
    let s := dropHolds h s
    settleHandles k.q { s with requests := tdel h s.requests }

/-- The completion records of queue pair q that nothing holds back go out in the order of completion, and their requests are outstanding
no more (R375, R376). -/
def releaseRecords (q : Nat) (s : State) : State :=
  match qpOf s q with
  | none => s
  | some k =>
    let due := k.withheld.takeWhile fun w => !stillHeld k w
    forAll due (fun w t => let t := qpSend q w.out t; match w.req with | some h => dropRequest h t | none => t)
      (modQp q (fun k => { k with withheld := k.withheld.drop due.length }) s)

/-- The completion record of a request follows those before it on its queue pair; behind a verdict whose last packet is psn it waits for
the acknowledgement (R375, R376). -/
def sendRecord (req : Option Nat) (k : Request) (at' st rows detail : Nat) (psn : Option Nat) (s : State) : State :=
  match clientRegion s k.q k.cplH with
  | none => s
  | some g =>
    let o : QpOut := .writeImm k.q (g.addr + k.cplOff) g.rkey k.seq (requestRecord s k at' st rows detail)
    releaseRecords k.q (modQp k.q (fun u => { u with withheld := u.withheld ++ [⟨psn, o, req⟩] }) s)

/-- Request h completes with a status: its holds are dropped, and it is outstanding until its record has gone out (R375). -/
def completeRequest (h at' st rows detail : Nat) (psn : Option Nat) (s : State) : State :=
  match tfind h s.requests with
  | none => s
  | some k =>
    let sends := !k.discard && k.remote.isNone && (match qpOf s k.q with | some u => u.st == .rts | none => false) &&
      (clientRegion s k.q k.cplH).isSome
    if sends then
      sendRecord (some h) k at' st rows detail psn (modReq h (fun k => { k with st := .ended, final := some st, raised := none }) (dropHolds h s))
    else dropRequest h s

/-- A request completes with a status and only its completion record (R375). -/
def failRequest (h st detail : Nat) (s : State) : State :=
  match tfind h s.requests with
  | none => s
  | some k => if k.st = .ended then s else completeRequest h s.time.now st 0 detail none s

/-- An acknowledgement of PSN p releases the records that wait for it (R376). -/
def qpAck (q p : Nat) (s : State) : State :=
  match qpOf s q with
  | none => s
  | some k => if k.st ≠ .rts then s else releaseRecords q (noteAck q p s)

/-! ### Prefetch and intake (08 R265; 13 R398) -/

/-- The rood on a peer module that stands for this one's rood r in its pipeline. -/
def peerRood (s : State) (r pos : Nat) : Nat :=
  match s.roods[r]? with
  | none => r
  | some k => match k.peers.find? fun e => e.2.1 == pos with | some e => e.2.2 | none => r

/-- The other modules of an epoch's pipeline. -/
def otherStages (s : State) (e : Epoch) : List Nat := (e.stages.filter fun p => p != s.fab.pos).eraseDups

/-- One prefetch packet (Table 11.9). A row that uses the base alone names adapter 0, which is none (log 72). -/
def prefetchPkt (s : State) (r pos : Nat) (k : Request) (h : Nat) (t : RowTag) : Packet :=
  let d := leBytes 4 k.pid ++ leBytes 4 0 ++ leBytes 8 t.adapter ++ leBytes 2 t.slot ++ leBytes 2 t.gen ++ leBytes 4 t.version ++
    leBytes 4 k.epoch ++ leBytes 8 s.time.now ++ leBytes 8 h ++ leBytes 1 k.rows.length ++ leBytes 19 0
  controlPkt s pos (peerRood s r pos) r 0x10 0 0 d

/-- Copy a TRAIN_KEEP record into the slice's intake ring (13 R398). -/
def intake (k : Request) (s : State) : State :=
  match tfind k.slice s.slices with
  | none => s
  | some v =>
    if !k.trainKeep ∨ v.intakeLog2 = 0 then s
    else
      let size := 2 ^ v.intakeLog2
      let used := dist 32 v.intakeWritten (ctrGet k.rood ((v.intakeCtr + 1) % 256) s).value
      let n := (k.recLen + 63) / 64 * 64
      if size < used + n then
        let s := { s with slices := tmod k.slice (fun v => { v with intakeLost := v.intakeLost + 1 }) s.slices }
        raiseRood k.rood 3 (logEv Blk.sec 0x0D k.rood (packLe [(k.slice, 2)]) s)
      else
        let bs := rdBytes s k.recAddr k.recLen
        let put (i : Nat) (b : Byte) (t : State) : State := wrBytes (v.intakeAddr + (v.intakeWritten + i) % size) [b] t
        let s := forAll ((List.range bs.length).zip bs) (fun p => put p.1 p.2) s
        let s := { s with slices := tmod k.slice (fun v => { v with intakeWritten := (v.intakeWritten + n) % 2 ^ 32 }) s.slices }
        ctrAdd k.rood v.intakeCtr 1 false s

/-! ### Admission (08 R263) -/

/-- A base swap pauses the rood's admission (08 R256). -/
def swapPaused (s : State) (r : Nat) : Bool :=
  match s.roods[r]? with
  | none => false
  | some k => match k.baseCmd with | some b => b.pausedAt.isSome | none => false

/-- Admit request h by the checks of Table 8.10, or let it wait in a swap's pause. -/
def admitRequest (h : Nat) (s : State) : State :=
  match tfind h s.requests with
  | none => s
  | some k =>
    let base := k.refs.any fun x => !x.2.2.2
    let ep := currentEpoch s k.rood
    let slice := s.slices.find? fun e => e.2.pid == k.pid && e.2.rood == k.rood
    match slice with
    | none => failRequest h Sts.notPermitted 0 s
    | some (i, _) =>
      if base && swapPaused s k.rood then modReq h (fun k => { k with st := .waiting }) s
      else if base && ep.isNone then failRequest h Sts.baseNotLoaded 0 s
      else
        let (tags, bad, s) := admitRows k.rood k.pid ep 0 k.refs s
        match bad with
        | some (st, row) => failRequest h st row (forAll tags (dropRow k.rood) s)
        | none =>
          let k' := { k with st := .admitted, rows := tags, epoch := (ep.map (·.num)).getD 0, tagged := ep.isSome, slice := i }
          let s := modReq h (fun _ => k') s
          let s := match ep with | some e => holdEpoch k.rood e.num s | none => s
          let s := match ep with
            | none => s
            | some e => forAll (otherStages s e) (fun p t =>
                forAll tags (fun x t => sendMinimal (prefetchPkt t k.rood p k' h x) t) t) s
          intake k' s

/-- The waiting requests of rood r, in the order of their arrival stamps, then of PID and sequence (08 R256, R269). -/
def waitingRequests (s : State) (r : Nat) : List Nat :=
  let l := s.requests.filter fun e => e.2.rood == r && e.2.st == .waiting
  let le (a b : Nat × Request) : Bool :=
    a.2.arrival < b.2.arrival || (a.2.arrival == b.2.arrival &&
      (a.2.pid < b.2.pid || (a.2.pid == b.2.pid && a.2.seq ≤ b.2.seq)))
  let ins (t : List (Nat × Request)) (e : Nat × Request) : List (Nat × Request) :=
    t.takeWhile (fun x => le x e) ++ [e] ++ t.dropWhile (fun x => le x e)
  (l.foldl ins []).map (·.1)

/-- Admit the requests of rood r that wait, in order (08 R269). -/
def admitWaiting (r : Nat) (s : State) : State := forAll (waitingRequests s r) admitRequest s

/-- Every version that a request is tagged with is resident here, and every row of a prefetched one has come (R265). -/
def requestResident (s : State) (k : Request) : Bool :=
  decide (k.want ≤ k.rows.length) && k.rows.all fun t => t.none || (slotOf s k.rood t.slot).training.isSome ||
    (match cacheFind s t.slot t.gen t.version with | some e => e.2.resident | none => false)

/-- The deadline of a request has passed (10 R319, R322). -/
def pastRequest (s : State) (k : Request) : Bool := k.deadline != 0 && after 64 s.time.now k.deadline

/-- At a furlong boundary within its deadline an admitted request whose shards are resident joins the batch that closes (08 R264; 12
R374; log 25). -/
def joinRequests (s : State) : State :=
  { s with requests := s.requests.map fun e =>
      if e.2.st = .admitted ∧ requestResident s e.2 ∧ !pastRequest s e.2 ∧ e.2.raised = none then (e.1, { e.2 with st := .joined }) else e }

/-! ### Queue pairs in ERROR (12 R377) -/

/-- Queue pair q enters ERROR for a cause: CLIENT_LOST for each outstanding request; those that run are discarded at their
end, the others end now. The cause is met directly by a request whose verdict or record is on its way, and is its final status; the
others take QP_ERROR (log 76), but every one takes QUARANTINED (R380). -/
def qpError (q st : Nat) (s : State) : State :=
  match qpOf s q with
  | none => s
  | some k =>
    if k.st ≠ .rts then s
    else
      let met (r : Request) : Nat := if st = Sts.quarantined ∨ r.st = .ended ∨ r.resident.isSome then st else Sts.qpError
      let ends := (qpRequests s q).map fun e => (e.2.clientTag, e.2.seq, met e.2)
      let s := modQp q (fun k => { k with st := .error, cause := st, unacked := [], withheld := [], retries := 0, rnrs := 0, lost := ends }) s
      let s := raiseEth 2 (logEth 0x06 k.rood (packLe [(qpn q, 3), (st, 1)]) s)
      forAll (qpRequests s q) (fun e t =>
        let t := raiseEth 6 (logEth 0x07 k.rood (packLe [(e.2.clientTag, 4), (e.2.seq, 4)]) t)
        if e.2.st = .joined ∧ e.2.resident.isNone then modReq e.1 (fun r => { r with discard := true, final := some (met e.2) }) t
        else dropRequest e.1 t) s

/-- Count a violation; a partner that it quarantines loses its queue pairs (12 R380). -/
def violation (row iface ip rood : Nat) (s : State) : State :=
  let (s, quar) := countViolation row iface ip rood s
  if quar then
    forAll ((s.eth.qps.filter fun e => e.2.iface == iface && e.2.ip == ip).map (·.1)) (fun q => qpError q Sts.quarantined) s
  else s

/-- A violation by the partner of queue pair q. -/
def qpViolation (row q : Nat) (s : State) : State :=
  match qpOf s q with
  | none => s
  | some k => violation row k.iface k.ip k.rood s

/-- NAK with a code (1 Invalid Request, 2 Remote Access Error), then ERROR (Table 12.10). -/
def nakQp (q code row : Nat) (s : State) : State :=
  qpError q Sts.qpError (qpViolation row q (qpSend q (.nak q code) s))

end Sys2Proof.Machine
end

