-- ==== Sys2Proof/Machine/Base.lean ====
section
/-! DEFINITION. Base models and adapters: model commands, base loads, flips and swaps, the adapter directory, prefetch and
versions (08 R244 to R268; 04 R104 to R106, R126; 14 R428). -/
namespace Sys2Proof.Machine

/-! ### Model commands (R247 to R249) -/

/-- Fields of a model command record (Table 8.2). -/
structure ModelCmd where
  cmd : Nat
  source : Nat
  readers : Nat
  pid : Nat
  epoch : Nat
  baseId : Nat
  adapter : Nat
  flipRod : Nat
  flipEra : Nat
  slot : Nat
  gen : Nat
  expert : Option Nat
  storeQp : Nat
  rkey : Nat
  remoteAddr : Nat
  flashOffset : Nat
  version : Nat
  digest : List Byte
  deriving DecidableEq, Repr

def modelCmd (bs : List Byte) : ModelCmd where
  cmd := field bs 0 1
  source := field bs 1 1 % 4
  readers := field bs 2 2
  pid := field bs 4 4 % 2 ^ 20
  epoch := field bs 12 4
  baseId := field bs 16 8
  adapter := field bs 24 8
  flipRod := field bs 32 6
  flipEra := field bs 38 2
  slot := field bs 40 2 % 2 ^ 14
  gen := field bs 42 2
  expert := if (field bs 44 1).testBit 7 then some (field bs 44 1 % 64) else none
  storeQp := field bs 48 2
  rkey := field bs 52 4
  remoteAddr := field bs 56 8
  flashOffset := field bs 64 8
  version := field bs 72 4
  digest := (bs.drop 80).take 48

/-- A base command code (Table 8.3). -/
def isBaseCmd (c : Nat) : Bool := 1 ≤ c && c ≤ 5

/-- A model command is malformed: the ranges of Table 8.2 hold for every code (R247). -/
def modelMalformed (r : Nat) (bs : List Byte) : Bool :=
  let c := modelCmd bs
  let resv := field bs 1 1 / 4 != 0 || field bs 4 4 / 2 ^ 20 != 0 || field bs 40 2 / 2 ^ 14 != 0 || bit (field bs 44 1) 6 ||
    field bs 45 3 != 0 || field bs 50 2 != 0 || field bs 76 4 != 0
  let known := isBaseCmd c.cmd || c.cmd == 0x10 || c.cmd == 0x11
  !known || resv || (isBaseCmd c.cmd && c.pid != 0) || !c.readers.testBit r ||
    (c.flipEra * 2 ^ 48 + c.flipRod) % 40 != 0 || c.flashOffset % 4096 != 0

/-- A base command is outstanding in rood r (R249). -/
def baseBusy (s : State) (r : Nat) : Bool := (boxOf s .model r).outstanding.any fun c => isBaseCmd (cmdCode c)

/-- A slot number is in the rood's slot ranges (R258). -/
def slotGranted (s : State) (r i : Nat) : Bool :=
  match s.roods[r]? with
  | some k => k.res.slotFirst ≤ i && i < k.res.slotFirst + k.res.slotCount
  | none => false

/-- Submit a model command (R247 to R249; 00 R20). An epoch number that the rood holds is not loaded again: the spec names no status, and
BASE_BUSY is answered (log 72). -/
def submitModel (r : Nat) (bs : List Byte) (s : State) : State :=
  let c := modelCmd bs
  let twoEpochs := match s.roods[r]? with | some k => 2 ≤ k.epochs.length | none => false
  let held := (epochOf s r c.epoch).isSome
  let bad := modelMalformed r bs
  let foreign := !(s.slices.any fun e => e.2.pid == c.pid && e.2.rood == r)
  submitCmd .model r bs (topStatus [
    (bad, Sts.protocolViolation),
    (isBaseCmd c.cmd && (baseBusy s r || ((c.cmd == 1 || c.cmd == 3) && twoEpochs) || (c.cmd == 1 && held)), Sts.baseBusy),
    (c.cmd == 0x11 && foreign || c.cmd == 0x10 && bad && (foreign || !slotGranted s r c.slot), Sts.notPermitted)]) s

/-! ### Manifests (R250) -/

/-- A shard entry (Table 8.5). -/
structure ShardEntry where
  position : Nat
  stack : Nat
  fmt : Nat
  len : Nat
  dest : Nat
  /-- in bytes from the first of the manifest -/
  offset : Nat
  digest : List Byte
  deriving DecidableEq, Repr

/-- A manifest. -/
structure Manifest where
  baseId : Nat
  stages : List Nat
  experts : Nat
  entries : List ShardEntry
  deriving DecidableEq, Repr

def manifestOf (bs : List Byte) : Manifest where
  baseId := field bs 0 8
  stages := (List.range (min (field bs 8 2) 16)).map fun q => bits (field bs 16 24) (12 * q) 12
  experts := field bs 12 1
  entries := (List.range (min (field bs 10 2) 1024)).map fun i =>
    let e := (bs.drop (64 + 80 * i)).take 80
    { position := field e 0 2 % 2 ^ 12, stack := bits (field e 0 2) 12 3, fmt := field e 2 1 % 16, len := field e 4 4,
      dest := field e 8 6, offset := field e 16 8, digest := (e.drop 24).take 48 }

/-- Sources of a load in order (Table 8.2): 0 flash, 1 shared store. -/
def sourcesOf (source : Nat) : List Nat := if source = 0 then [0] else if source = 1 then [1] else if source = 2 then [0, 1] else [1, 0]

/-- SHA-384 of bytes as bytes. -/
def sha (bs : List Byte) : List Byte := Crypto.toBytes (Crypto.sha384 (Crypto.ofBytes bs))

/-- A manifest is formed as Tables 8.4 and 8.5 give; one that is not matches no command (log 72). -/
def manifestFormed (bs : List Byte) : Bool :=
  let n := field bs 10 2
  1 ≤ field bs 8 2 && field bs 8 2 ≤ 16 && 1 ≤ n && n ≤ 1024 && field bs 12 1 ≤ 64 && field bs 13 3 == 0 && field bs 40 24 == 0 &&
    bits (field bs 16 24) (12 * field bs 8 2) 192 == 0 && bs.length == 64 + 80 * n &&
    (List.range n).all fun i =>
      let e := (bs.drop (64 + 80 * i)).take 80
      isMx (field e 2 1) && !bit (field e 0 2) 15 && field e 3 1 == 0 && field e 14 2 == 0 && field e 72 8 == 0

/-- n bytes of the data of rood r's namespace from byte off on; none where a slot is unreadable or not written (07 R232 to R236; log
72). -/
def flashBytes (s : State) (r off n : Nat) : Option (List Byte) :=
  let lo := off / 4096
  let k := (off % 4096 + n + 4095) / 4096
  if flashAccess s r lo k ≠ Sts.ok then none
  else
    (List.range k).foldl (fun (acc : Option (List Byte)) i =>
      match acc, tfind (flashKey r (lo + i)) s.flash.slots with
      | some l, some v => if s.flash.lost.contains (flashKey r (lo + i)) then none else some (l ++ v.data)
      | _, _ => none) (some []) |>.map fun l => (l.drop (off % 4096)).take n

/-- A store that the rood can read: STORE_QP names one of its store queue pairs in RTS (12 R365). -/
def storeUsable (s : State) (r q : Nat) : Bool :=
  match tfind q s.eth.qps with
  | some q => q.rood == r && q.role == 1 && q.st == .rts
  | none => false

/-- The manifest as a source returns it: of the flash, what the namespace holds; of the store, what it sent. -/
def manifestFrom (s : State) (r : Nat) (c : ModelCmd) (w : LoadWorld) (src : Nat) : Option (List Byte) :=
  if src = 0 then
    match flashBytes s r c.flashOffset 64 with
    | none => none
    | some h => flashBytes s r c.flashOffset (64 + 80 * field h 10 2)
  else if storeUsable s r c.storeQp then (w.manifests.find? fun m => m.1 == 1).map (·.2)
  else none

/-- A copy of the manifest matches DIGEST and BASE_ID. -/
def manifestGood (c : ModelCmd) (b : List Byte) : Bool := sha b == c.digest && manifestFormed b && (manifestOf b).baseId == c.baseId

/-- Step 1: the manifest from the first source whose copy matches DIGEST and BASE_ID. -/
def readManifest (s : State) (r : Nat) (c : ModelCmd) (w : LoadWorld) : Sum Nat Manifest :=
  let got := (sourcesOf c.source).filterMap (manifestFrom s r c w)
  match got.find? (manifestGood c) with
  | some b => .inr (manifestOf b)
  | none => .inl (if got.isEmpty then Sts.baseShardMissing else Sts.baseDigestMismatch)

/-- The flash is read when the sources are tried in order until one is good. -/
def triesFlash (source : Nat) (good : Nat → Bool) : Bool :=
  let l := sourcesOf source
  (l.takeWhile fun x => !good x).contains 0 || l.find? good == some 0

/-- The n bytes from byte off of rood r's namespace are read from the flash, where they can be (07 R233, R237). -/
def fetchFlash (r off n : Nat) (s : State) : State :=
  if flashAccess s r (off / 4096) ((off % 4096 + n + 4095) / 4096) = Sts.ok then readSlots r off n s else s

/-- Reading the manifest of a command from the flash. -/
def fetchManifest (r : Nat) (c : ModelCmd) (w : LoadWorld) (s : State) : State :=
  let good (src : Nat) : Bool := match manifestFrom s r c w src with | some b => manifestGood c b | none => false
  if triesFlash c.source good then
    fetchFlash r c.flashOffset (match manifestFrom s r c w 0 with | some b => b.length | none => 64) s
  else s

/-! ### Loading a shard (R251, R252) -/

/-- An entry passes step 3 on its own: wholly within one BASE region of the rood in its format, and meeting no entry that
is not FREE. -/
def entryFits (s : State) (r : Nat) (e : ShardEntry) : Bool :=
  let n := e.len * unit2M
  (match placeOf e.dest n with | .stk t _ => t == e.stack | _ => false) && e.dest % unit2M == 0 && 0 < e.len &&
    (match regionAt s e.dest with
      | some g => g.kind == 3 && g.rood == r && g.fmt == e.fmt && bushelOf g (e.dest + n - 1) != none
      | none => false) &&
    (lockMeets s e.dest n).isNone

/-- The lowest failing entry of step 3, among this module's entries (index in the manifest, entry). -/
def capacityFault (s : State) (r : Nat) (mine : List (Nat × ShardEntry)) : Option Nat :=
  let free (t : Nat) : Nat := match s.stks[t]? with | some k => (k.locks.filter fun l => l.st == .free).length | none => 0
  let rec go (seen : List ShardEntry) : List (Nat × ShardEntry) → Option Nat
    | [] => none
    | (i, e) :: rest =>
      let used := (seen.filter fun x => x.stack == e.stack).length
      let clash := seen.any fun x => meets x.dest (x.len * unit2M) e.dest (e.len * unit2M)
      if entryFits s r e && !clash && used < free e.stack then go (seen ++ [e]) rest else some i
  go [] mine

/-- Open one base range entry in LOADING (R104, R108). -/
def openEntry (r epoch readers : Nat) (e : ShardEntry) (s : State) : State :=
  match s.stks[e.stack]? with
  | none => s
  | some k =>
    match firstBelow k.locks.length fun i => match k.locks[i]? with | some l => l.st == .free | none => false with
    | none => s
    | some i => modLock e.stack i (fun _ =>
        { st := .loading, base := e.dest, size := e.len, readers := readers, rood := r, epoch := epoch }) s

/-- What a source gives for an entry: its images, checked (steps 5 and 6). -/
inductive ShardRead where
  | good (images : List (List Byte))
  | missing | corrupt
  deriving DecidableEq, Repr

/-- Bushels of an entry's range. -/
def entryBushels (e : ShardEntry) : Nat := e.len * 512

/-- Bytes of one bushel of an entry in image form (07 R214). -/
def entryImage (e : ShardEntry) : Nat := metaStride e.fmt + 4096

/-- The images of an entry as a source returns them. -/
def imagesFrom (s : State) (r : Nat) (c : ModelCmd) (w : LoadWorld) (src i : Nat) (e : ShardEntry) : Option (List (List Byte)) :=
  if src = 0 then
    (flashBytes s r (c.flashOffset + e.offset) (entryImage e * entryBushels e)).map fun bs =>
      (List.range (entryBushels e)).map fun q => (bs.drop (entryImage e * q)).take (entryImage e)
  else if storeUsable s r c.storeQp then (w.shards.find? fun x => x.source == 1 && x.entry == i).map (·.images)
  else none

/-- Read entry i from one source: each bushel's CHECKSUM, then the range's SHA-384. -/
def readShard (s : State) (r : Nat) (c : ModelCmd) (w : LoadWorld) (src i : Nat) (e : ShardEntry) : ShardRead :=
  match imagesFrom s r c w src i e with
  | none => .missing
  | some l =>
    if l.length ≠ entryBushels e then .missing
    else
      let ok := l.all fun im => let m := metaOfImage im; m.fmt == e.fmt && bushelCrc m (dataOfImage im) == m.checksum
      if ok && sha l.flatten == e.digest then .good l else .corrupt

/-- Read an entry from the sources in order, each once. -/
def readShardAny (s : State) (r : Nat) (c : ModelCmd) (w : LoadWorld) (i : Nat) (e : ShardEntry) : ShardRead :=
  (sourcesOf c.source).foldl (fun (acc : Option ShardRead) src =>
    match acc with
    | some (.good l) => some (.good l)
    | _ =>
      match readShard s r c w src i e, acc with
      | .missing, some .corrupt => some .corrupt
      | x, _ => some x) none |>.getD .missing

/-- Reading an entry's images from the flash. -/
def fetchShard (r : Nat) (c : ModelCmd) (w : LoadWorld) (i : Nat) (e : ShardEntry) (s : State) : State :=
  let good (src : Nat) : Bool := match readShard s r c w src i e with | .good _ => true | _ => false
  if triesFlash c.source good then fetchFlash r (c.flashOffset + e.offset) (entryImage e * entryBushels e) s else s

/-- Write a range: data and metadata of each bushel, ROOD set as a MOVE does (07 R214). -/
def writeRange (r : Nat) (e : ShardEntry) (images : List (List Byte)) (s : State) : State :=
  forAll ((List.range images.length).zip images) (fun p t =>
    let m := { metaOfImage p.2 with rood := r }
    let d := dataOfImage p.2
    let a := e.dest + 4096 * p.1
    let t := modStack e.stack (fun k => { k with bad := k.bad.filter (· != a), errs := tdel a k.errs }) t
    putBushel a (sealBushel m d) d t) s

/-- Move the entries of an epoch from one state to FREE (R252). -/
def freeEntries (r epoch : Nat) (s : State) : State := modEpochLocks r epoch (fun _ => {}) s

/-- Drop epoch n of rood r. -/
def dropEpochRec (r n : Nat) (s : State) : State := modRood r (fun k => { k with epochs := k.epochs.filter fun e => e.num != n }) s

/-- Change epoch n of rood r. -/
def modEpoch (r n : Nat) (f : Epoch → Epoch) (s : State) : State :=
  modRood r (fun k => { k with epochs := k.epochs.map fun e => if e.num = n then f e else e }) s

/-- Length of an epoch's ranges in units of 2 MiB. -/
def epochUnits (s : State) (r n : Nat) : Nat :=
  s.stks.foldl (fun a k => k.locks.foldl (fun b l => if l.st != .free && l.rood == r && l.epoch == n then b + l.size else b) a) 0

/-- Steps 1 to 6 of a base load: the failure of a step before 4, with its DETAIL, or the state with every entry in LOADING and how steps 5
and 6 end: OK, or a status and the entry that failed (R251). -/
def runLoad (r : Nat) (c : ModelCmd) (w : LoadWorld) (s : State) : Sum (Nat × Nat × State) (Nat × Nat × State) :=
  let got := readManifest s r c w
  let s := fetchManifest r c w s
  match got with
  | .inl st => .inl (st, 0, s)
  | .inr m =>
    let mine := ((List.range m.entries.length).zip m.entries).filter fun e => e.2.position == s.fab.pos
    if mine.isEmpty then .inl (Sts.baseShardMissing, 0, s)
    else
      match capacityFault s r mine with
      | some i => .inl (Sts.refusedCapacity, i, s)
      | none =>
        let ep : Epoch := { num := c.epoch, st := .loading, baseId := c.baseId, experts := m.experts, stages := m.stages }
        let s := modRood r (fun k => { k with epochs := k.epochs ++ [ep] }) s
        let s := forAll mine (fun e => openEntry r c.epoch c.readers e.2) s
        let reads := mine.map fun e => (e, readShardAny s r c w e.1 e.2)
        let s := forAll reads (fun p t =>
          let t := fetchShard r c w p.1.1 p.1.2 t
          match p.2 with | .good l => writeRange r p.1.2 l t | _ => t) s
        match reads.find? fun p => match p.2 with | .good _ => false | _ => true with
        | some (e, res) => .inr (if res = .missing then Sts.baseShardMissing else Sts.baseShardCorrupt, e.1, s)
        | none => .inr (Sts.ok, 0, s)

/-- BASE_LOAD_FAILED. -/
def logLoadFailed (r st i : Nat) : State → State := logBase 0x33 r (packLe [(st, 1), (i, 2)])

/-- BASE_LOAD: steps 1 to 6; its entries are LOADING until they reach their lock point, and the reply follows the lock (R251, R252). -/
def baseLoad (r : Nat) (w : LoadWorld) (s : State) : State :=
  match nextCmd s .model r 0x01 with
  | none => s
  | some c =>
    let s := deferReply .model r c s
    let m := modelCmd c.bytes
    match runLoad r m w s with
    | .inl (st, d, s) =>
      finalReply .model r c st (if st = Sts.refusedCapacity then d else 0) (logLoadFailed r st d s)
    | .inr (st, i, s) =>
      modRood r (fun k => { k with
        baseCmd := some ({ seq := c.seq, code := 1, tag := cmdTag c, epoch := m.epoch, loadEnd := some (st, i) } : BaseCmd) }) s

/-! ### Lock points (04 R104; R251 step 7) -/

/-- Final reply of rood r's running base command. -/
def endBaseCmd (r st detail : Nat) (s : State) : State :=
  match s.roods[r]? with
  | none => s
  | some k =>
    match k.baseCmd with
    | none => s
    | some b =>
      let s := modRood r (fun k => { k with baseCmd := none }) s
      match cmdBySeq s .model r b.seq with
      | some c => finalReply .model r c st detail s
      | none => s

/-- Every module of a swap's pipeline has its epoch READY: the admitting module chooses the second boundary from now and
sends EPOCH_FLIP (R256, steps 4 and 5). -/
def swapReady (r : Nat) (s : State) : State :=
  match s.roods[r]? with
  | none => s
  | some k =>
    match k.baseCmd with
    | none => s
    | some b =>
      match epochOf s r b.epoch with
      | none => s
      | some e =>
        let admitting := e.stages.head? == some s.fab.pos
        let others := otherStages s e
        if b.code ≠ 3 ∨ !b.loaded ∨ !admitting ∨ b.resumeAt.isSome ∨ !others.all b.stagesReady.contains then s
        else
          let at' := nextBoundary s + 40
          let s := modRood r (fun k => { k with baseCmd := k.baseCmd.map fun b => { b with resumeAt := some at' } }) s
          let d := leBytes 4 b.epoch ++ leBytes 4 0 ++ leBytes 8 e.baseId ++ leBytes 6 (at' % 2 ^ 48) ++ leBytes 2 (at' / 2 ^ 48) ++
            leBytes 40 0
          forAll others (fun p t => sendMinimal (controlPkt t p (peerRood t r p) r 0x13 0 0 d) t) s

/-- An epoch in LOADING whose entries are all LOCKED becomes READY (R244, R251 step 7). -/
def epochReadyIf (r n : Nat) (s : State) : State :=
  match epochOf s r n with
  | none => s
  | some e =>
    let pendingLock := s.stks.any fun k => k.locks.any fun l => l.rood == r && l.epoch == n && (l.st == .locking || l.st == .loading)
    if e.st ≠ .loading ∨ pendingLock then s
    else
      let s := logBase 0x30 r (packLe [(n, 4)]) (modEpoch r n (fun e => { e with st := .ready }) s)
      match (match s.roods[r]? with | some k => k.baseCmd | none => none) with
      | none => s
      | some b =>
        if b.epoch ≠ n then s
        else if b.code = 1 then endBaseCmd r Sts.ok (epochUnits s r n) s
        else
          let s := modRood r (fun k => { k with baseCmd := k.baseCmd.map fun b => { b with loaded := true, lastReport := rodCount s } }) s
          match e.stages.head? with
          | some p =>
            if p = s.fab.pos then swapReady r s
            else
              let q := ((List.range e.stages.length).find? fun i => e.stages.getD i 0 == s.fab.pos).getD 0
              let d := leBytes 4 n ++ leBytes 4 0 ++ leBytes 8 e.baseId ++ leBytes 1 q ++ leBytes 47 0
              sendMinimal (controlPkt s p (peerRood s r p) r 0x11 0 0 d) s
          | none => s

/-- Entry i of stack t: every write accepted before the lock point is complete (04 R104, R105). -/
def setLock (t i : Nat) (s : State) : State :=
  match s.stks[t]? with
  | none => s
  | some k =>
    match k.locks[i]? with
    | none => s
    | some l =>
      if l.st = .locking then
        epochReadyIf l.rood l.epoch (logFirkin t 0x89 0xFF 0xFF l.rood i none (modLock t i (fun l => { l with st := .locked }) s))
      else s

/-! ### Flips, swaps and release (R244, R254 to R257) -/

/-- The rod count at which FLIP_ROD takes effect for a command (R254): era and rod are compared as one 64-bit value (10 R319). -/
def flipCount (s : State) (c : Cmd) (m : ModelCmd) : Nat :=
  let n := c.stamp / rodLen s
  let want := m.flipEra * 2 ^ 48 + m.flipRod
  if atOrAfter 64 n want then boundaryAt (n + 1) else want

/-- Entries of an epoch become RELEASING with it (R244). -/
def drainEpoch (r n : Nat) (s : State) : State :=
  modEpochLocks r n (fun l => if l.st = .locked then { l with st := .releasing } else l)
    (modEpoch r n (fun e => { e with st := .draining }) s)

/-- Drain the CURRENT epoch of rood r. -/
def drainCurrent (r : Nat) (s : State) : State :=
  match currentEpoch s r with
  | some e => drainEpoch r e.num s
  | none => s

/-- BASE_FLIP or BASE_SWAP is accepted: it takes effect at FLIP_ROD (R254, R256). Reports of other stages that came before it
count. -/
def armFlip (r code : Nat) (s : State) : State :=
  match nextCmd s .model r code with
  | none => s
  | some c =>
    let m := modelCmd c.bytes
    let ready := match epochOf s r m.epoch with | some e => e.st == .ready | none => false
    if code = 2 ∧ !ready then finalReply .model r c Sts.baseNotLoaded 0 s
    else
      let s := deferReply .model r c s
      modRood r (fun k => { k with
        baseCmd := some ({ seq := c.seq, code := code, tag := cmdTag c, epoch := m.epoch, flipRod := m.flipRod, flipAt := flipCount s c m,
                           stagesReady := (k.readyFrom.filter fun x => x.2 == m.epoch).map (·.1)
                           failed := if code = 3 then (k.failedFrom.find? fun x => x.1 == m.epoch).map (·.2) else none } : BaseCmd)
        readyFrom := k.readyFrom.filter fun x => x.2 != m.epoch
        failedFrom := k.failedFrom.filter fun x => x.1 != m.epoch }) s

/-- BASE_FLIPPED: epoch and bits [23:0] of FLIP_ROD; of a swap, of the boundary that its EPOCH_FLIP names (R256, R273). -/
def logFlipped (r n count : Nat) : State → State := logBase 0x31 r (packLe [(n, 4), (count % 2 ^ 24, 3)])

/-- This module admits for rood r: it leads the CURRENT epoch's pipeline. -/
def isAdmitting (s : State) (r : Nat) : Bool :=
  match currentEpoch s r with
  | some e => e.stages.head? == some s.fab.pos
  | none => true

/-- A stage tells another in a VERSION_FAULT packet that it cannot serve: of an adapter's version, or, with adapter 0, of the epoch in
its version field (R245, R257; log 72). -/
def sendFault (r p a version slot gen st : Nat) (s : State) : State :=
  let d := leBytes 8 a ++ leBytes 4 version ++ leBytes 2 slot ++ leBytes 2 gen ++ leBytes 1 st ++ leBytes 47 0
  sendMinimal (controlPkt s p (peerRood s r p) r 0x12 0 0 d) s

/-- The load of a swap failed on a module of the pipeline: the command ends with its code, the waiting requests that need a base find none,
and the admitting module tells every other module, any other module the admitting one; where no base was CURRENT, every peer of the rood
is told (R257; log 72). -/
def swapFailed (r st detail : Nat) (s : State) : State :=
  match s.roods[r]? with
  | none => s
  | some k =>
    match k.baseCmd with
    | none => s
    | some b =>
      if b.code ≠ 3 then s
      else
        let to_ := if b.stages.isEmpty then (k.peers.map fun e => e.2.1).eraseDups
          else if b.stages.head? = some s.fab.pos then (b.stages.filter fun p => p != s.fab.pos).eraseDups
          else b.stages.head?.toList
        let s := endBaseCmd r st detail s
        let based (h : Nat) : Bool := match tfind h s.requests with | some q => q.refs.any fun x => !x.2.2.2 | none => false
        let s := forAll ((waitingRequests s r).filter based) (fun h => failRequest h Sts.baseNotLoaded 0) s
        forAll to_ (fun p => sendFault r p 0 b.epoch 0 0 st) s

/-- The first tick of FLIP_ROD: a flip makes its epoch CURRENT, a swap pauses admission and drains (R254, R256). -/
def flipNow (r : Nat) (s : State) : State :=
  match s.roods[r]? with
  | none => s
  | some k =>
    match k.baseCmd with
    | none => s
    | some b =>
      if !reached s b.flipAt then s
      else if b.code = 2 then
        let s := modEpoch r b.epoch (fun e => { e with st := .current }) (drainCurrent r s)
        endBaseCmd r Sts.ok 0 (logFlipped r b.epoch b.flipRod s)
      else if b.code = 3 ∧ b.pausedAt.isNone then
        let admits := isAdmitting s r
        let line := match currentEpoch s r with | some e => e.stages | none => []
        let s := drainCurrent r s
        let s := modRood r (fun k => { k with
          baseCmd := k.baseCmd.map fun b => { b with pausedAt := some (b.flipAt / 40), stages := line } }) s
        let s := if admits then logBase 0x34 r (packLe [(b.epoch, 4)]) s else s
        match b.failed with | some st => swapFailed r st 0 s | none => s
      else s

/-- SWAP_LOAD: the old epoch is gone and the load steps run for the new one (R256 step 3, R257). -/
def swapLoad (r : Nat) (w : LoadWorld) (s : State) : State :=
  match s.roods[r]? with
  | none => s
  | some k =>
    match k.baseCmd with
    | none => s
    | some b =>
      if b.code ≠ 3 ∨ b.pausedAt.isNone ∨ b.loaded ∨ k.epochs.any (fun e => e.st == .draining || e.num == b.epoch) then s
      else
        match cmdBySeq s .model r b.seq with
        | none => s
        | some c =>
          match runLoad r (modelCmd c.bytes) w s with
          | .inl (st, d, s) =>
            swapFailed r st (if st = Sts.refusedCapacity then d else 0) (logLoadFailed r st d s)
          | .inr (st, i, s) =>
            modRood r (fun k => { k with baseCmd := k.baseCmd.map fun b => { b with loadEnd := some (st, i) } }) s

/-- Steps 4 to 6 of a load are over: its entries reach their lock point, or the load failed and they are FREE (R251, R252; 04 R104). -/
def loadPoint (r : Nat) (s : State) : State :=
  match s.roods[r]? with
  | none => s
  | some k =>
    match k.baseCmd with
    | none => s
    | some b =>
      match b.loadEnd with
      | none => s
      | some (st, i) =>
        let s := modRood r (fun k => { k with baseCmd := k.baseCmd.map fun b => { b with loadEnd := none } }) s
        if st = Sts.ok then modEpochLocks r b.epoch (fun l => { l with st := .locking }) s
        else
          let s := logLoadFailed r st i (dropEpochRec r b.epoch (freeEntries r b.epoch s))
          if b.code = 3 then swapFailed r st 0 s else endBaseCmd r st 0 s

/-- At the chosen boundary the swap's epoch becomes CURRENT, and the waiting requests are admitted (R256 steps 5 and 7). -/
def resumeAdmission (r : Nat) (s : State) : State :=
  match s.roods[r]? with
  | none => s
  | some k =>
    match k.baseCmd with
    | none => s
    | some b =>
      match b.resumeAt, b.pausedAt with
      | some at', some from_ =>
        if b.code ≠ 3 ∨ !reached s at' then s
        else
          let pause := at' / 40 - from_
          let s := logFlipped r b.epoch at' (modEpoch r b.epoch (fun e => { e with st := .current }) (drainCurrent r s))
          let s := endBaseCmd r Sts.ok pause s
          let s := if isAdmitting s r then logBase 0x35 r (packLe [(b.epoch, 4), (pause, 3)]) s else s
          admitWaiting r s
      | _, _ => s

/-- BASE_RELEASE: the epoch becomes DRAINING, and the reply waits until it is gone (Table 8.3). -/
def baseRelease (r : Nat) (s : State) : State :=
  match nextCmd s .model r 0x04 with
  | none => s
  | some c =>
    let n := (modelCmd c.bytes).epoch
    match epochOf s r n with
    | none => finalReply .model r c Sts.baseNotLoaded 0 s
    | some e =>
      if e.st = .loading then finalReply .model r c Sts.baseNotLoaded 0 s
      else
        let s := modRood r (fun k => { k with baseCmd := some { seq := c.seq, code := 4, tag := cmdTag c, epoch := n } })
          (deferReply .model r c s)
        drainEpoch r n s

/-- A DRAINING epoch with every entry FREE is gone (R244). -/
def epochGone (r n : Nat) (s : State) : State :=
  match epochOf s r n with
  | none => s
  | some e =>
    let open_ := s.stks.any fun k => k.locks.any fun l => l.st != .free && l.rood == r && l.epoch == n
    if e.st ≠ .draining ∨ open_ then s
    else
      let s := logBase 0x32 r (packLe [(n, 4)]) (dropEpochRec r n s)
      match (match s.roods[r]? with | some k => k.baseCmd | none => none) with
      | some b => if b.code = 4 ∧ b.epoch = n then endBaseCmd r Sts.ok 0 s else s
      | none => s

/-- Bushels of an epoch's ranges that have no good copy. -/
def badBushels (s : State) (r n : Nat) : List Nat :=
  s.stks.flatMap fun k =>
    let ls := k.locks.filter fun l => l.st != .free && l.rood == r && l.epoch == n
    k.bad.filter fun a => ls.any fun l => l.base ≤ a && a < l.base + l.size * unit2M

/-- The copy of bushel a of an epoch that the sources of SOURCE hold, where each source's manifest places it (R253); it changes no value of
the range (04 R107). -/
def repairCopy (s : State) (r : Nat) (c : ModelCmd) (w : LoadWorld) (g : Region) (a : Nat) : Option (List Byte) :=
  let good (im : List Byte) : Bool :=
    let m := metaOfImage im
    m.fmt == g.fmt && bushelCrc m (dataOfImage im) == m.checksum && (recovered s a m (dataOfImage im)).isSome
  let from_ (src : Nat) : Option (List Byte) :=
    match readManifest s r { c with source := src } w with
    | .inl _ => none
    | .inr m =>
      match ((List.range m.entries.length).zip m.entries).find? fun e =>
          e.2.position == s.fab.pos && e.2.dest ≤ a && a < e.2.dest + e.2.len * unit2M with
      | none => none
      | some (i, e) =>
        let n := (a - e.dest) / 4096
        if src = 0 then flashBytes s r (c.flashOffset + e.offset + entryImage e * n) (entryImage e)
        else if storeUsable s r c.storeQp then (w.shards.find? fun x => x.source == 1 && x.entry == i).bind fun x => x.images[n]?
        else none
  (sourcesOf c.source).findSome? fun src => match from_ src with | some im => if good im then some im else none | none => none

/-- Reading what a repair of n bushels reads from the flash: the manifest, and an image for each (07 R233, R237). -/
def fetchRepair (r : Nat) (c : ModelCmd) (w : LoadWorld) (want : List Nat) (s : State) : State :=
  let t := fetchManifest r c w s
  match readManifest s r { c with source := 0 } w with
  | .inl _ => t
  | .inr m =>
    if (sourcesOf c.source).head? ≠ some 0 then t
    else
      forAll want (fun a t =>
        match m.entries.find? fun e => e.position == s.fab.pos && e.dest ≤ a && a < e.dest + e.len * unit2M with
        | some e => fetchFlash r (c.flashOffset + e.offset + entryImage e * ((a - e.dest) / 4096)) (entryImage e) t
        | none => t) t

/-- BASE_REPAIR: every bushel with no good copy is refetched and written by the recovery write (R253; 04 R107). -/
def baseRepair (r : Nat) (w : LoadWorld) (s : State) : State :=
  match nextCmd s .model r 0x05 with
  | none => s
  | some c =>
    let m := modelCmd c.bytes
    match epochOf s r m.epoch with
    | none => finalReply .model r c Sts.baseNotLoaded 0 s
    | some _ =>
      let want := badBushels s r m.epoch
      let fix (a : Nat) (s : State) : State :=
        match regionAt s a, placeOf a 1 with
        | some g, .stk t _ =>
          (match repairCopy s r m w g a with
            | some im =>
              let m := metaOfImage im
              let d := dataOfImage im
              bushelGood t a (retireBlock a (putBushel a ((recovered s a m d).getD m) d s))
            | none => s)
        | _, _ => s
      let s := forAll want fix (fetchRepair r m w want (deferReply .model r c s))
      let left := (badBushels s r m.epoch).length
      finalReply .model r c (if left = 0 then Sts.ok else Sts.baseShardCorrupt) (want.length - left) s

/-! ### The adapter directory (R258, R259, R267) -/

/-- The oldest outstanding adapter command, if it has this code: they run in the order of their command stamps (R249). -/
def adapterCmd (s : State) (r code : Nat) : Option Cmd :=
  match (boxOf s .model r).outstanding.find? fun c => !isBaseCmd (cmdCode c) with
  | some c => if cmdCode c = code then some c else none
  | none => none

/-- A training binding of rood r holds an adapter. -/
def inTraining (s : State) (r a : Nat) : Bool := s.binds.any fun b => b.2.rood == r && b.2.cfg.adapter == a

/-- ADAPTER_PUT (R258): DEFERRED while it names a new version and PREV is still held (R267). A new version of an adapter that is not bound
in its slot is the one that its next binding takes (log 76). -/
def adapterPut (r : Nat) (s : State) : State :=
  match adapterCmd s r 0x10, s.roods[r]? with
  | some c, some _ =>
    let m := modelCmd c.bytes
    let sl := slotOf s r m.slot
    let bound := sl.adapter == some m.adapter
    let newer := bound && (sl.cur.map (·.version)) != some m.version
    if !slotGranted s r m.slot || !(s.slices.any fun e => e.2.pid == m.pid && e.2.rood == r) then finalReply .model r c Sts.notPermitted sl.gen s
    else if m.gen ≠ 0 ∧ m.gen ≠ sl.gen then finalReply .model r c Sts.generationStale sl.gen s
    else if inTraining s r m.adapter then finalReply .model r c Sts.adapterInTraining sl.gen s
    else if newer && (sl.prev.isSome || sl.next.isSome) then deferReply .model r c s
    else
      let e : DirEntry := { pid := m.pid, baseId := m.baseId, slot := m.slot, expert := m.expert, source := m.source,
                            flashOffset := m.flashOffset, remoteAddr := m.remoteAddr, version := m.version,
                            digest := leNat m.digest, storeQp := m.storeQp, rkey := m.rkey,
                            units := match dirOf s r m.adapter with | some o => o.units | none => 1 }
      let s := modRood r (fun k => { k with dir := tset m.adapter e k.dir }) s
      let s := if newer then modSlot m.slot (fun k => { k with next := some (m.version, s.time.now) }) s else s
      finalReply .model r c Sts.ok (slotOf s r m.slot).gen s
  | _, _ => s

/-- ADAPTER_DROP (R259): DEFERRED while the adapter's slot holds a request for it. -/
def adapterDrop (r : Nat) (s : State) : State :=
  match adapterCmd s r 0x11, s.roods[r]? with
  | some c, some k =>
    let m := modelCmd c.bytes
    match tfind m.adapter k.dir with
    | none => finalReply .model r c Sts.adapterUnknown 0 s
    | some e =>
      let sl := slotOf s r e.slot
      if inTraining s r m.adapter then finalReply .model r c Sts.adapterInTraining 0 s
      else if sl.adapter == some m.adapter && sl.holds != 0 then deferReply .model r c s
      else finalReply .model r c Sts.ok 0 (modRood r (fun k => { k with dir := tdel m.adapter k.dir }) s)
  | _, _ => s

/-! ### Prefetch and residency (R265, R268) -/

/-- Bind slot i of rood r as a prefetch states: SLOT_REBOUND (R265, R273). -/
def bindAs (r i a gen version : Nat) (s : State) : State :=
  let v : Slot := { rood := r, adapter := some a, gen := gen, cur := some { version := version } }
  logBase 0x36 r (packLe [(i, 2), (gen, 2)])
    { s with slots := tset i v s.slots, cache := s.cache.filter fun e => e.2.slot != i }

/-- The request here that a prefetch belongs to: its sender's handle names it (R265). -/
def prefetched (s : State) (p : Packet) : Option Nat :=
  (s.requests.find? fun e => e.2.remote == some (field p.data 36 8) && e.2.rood == p.dstRood && e.2.q == p.src).map (·.1)

/-- A PREFETCH packet at a stage: its request's hold is taken, its slot bound as it states, a cache entry staged if it is missing (R245,
R246, R265). A rebinding waits until the slot is FREE or BOUND (R260). Work of an epoch that is not held is answered with that epoch
(R245; log 72). -/
def prefetchPktIn (p : Packet) (s : State) : State :=
  let d := p.data
  let r := p.dstRood
  let pid := field d 0 4
  let a := field d 8 8
  let slot := field d 16 2
  let gen := field d 18 2
  let ver := field d 20 4
  let n := field d 24 4
  let handle := field d 36 8
  match epochOf s r n with
  | none => sendFault r p.src 0 n slot gen Sts.baseNotLoaded s
  | some _ =>
    let sl := slotOf s r slot
    let same := sl.adapter == some a && sl.gen == gen
    let busy := match slotUse sl with | .active | .training => true | _ => false
    let into (t : List RowTag) (s : State) : State :=
      match prefetched s p with
      | some h => modReq h (fun k => { k with rows := k.rows ++ t }) s
      | none =>
        let k : Request := {
          st := .admitted, rood := r, pid := pid, slice := 0, q := p.src, seq := 0, clientTag := 0, arrival := field d 28 8
          epoch := n, tagged := true, rows := t, want := field d 44 1, deadline := 0, outH := 0, cplH := 0, outOff := 0, cplOff := 0
          trainKeep := false, recAddr := 0, recLen := 0, remote := some handle }
        holdEpoch r n { s with requests := tset s.nextReq k s.requests, nextReq := s.nextReq + 1 }
    if a = 0 then into [⟨0, 0, 0, 0, true, none⟩] s
    else if !same && busy then into [] (modFab (fun f => { f with prefetches := f.prefetches ++ [p] }) s)
    else
      let s := if same then s else bindAs r slot a gen ver s
      let expert := match dirOf s r a with | some e => e.expert | none => none
      let t : RowTag := ⟨a, slot, gen, ver, false, expert⟩
      let s := match expert with
        | none => s
        | some x => modRood r (fun k => { k with experts := tset x (a, (tgetD x (a, 0) k.experts).2 + 1) k.experts }) s
      let s := holdRow t s
      into [t] ((ensureCache r slot gen ver s).getD s)

/-- Prefetches that waited for their slot are taken again, unless their request has ended. -/
def retryPrefetches (s : State) : State :=
  forAll s.fab.prefetches (fun p s => if (prefetched s p).isSome then prefetchPktIn p s else s) (modFab (fun f => { f with prefetches := [] }) s)

/-- A cache entry for every row of request h that has none: it takes one as soon as one is FREE or evictable (R265). -/
def restage (h : Nat) (s : State) : State :=
  match tfind h s.requests with
  | none => s
  | some k =>
    if k.st ≠ .admitted then s
    else
      forAll (k.rows.filter fun t => !t.none) (fun t s =>
        if (slotOf s k.rood t.slot).training.isSome || (cacheFind s t.slot t.gen t.version).isSome then s
        else (ensureCache k.rood t.slot t.gen t.version s).getD s) s

/-- Bushels of a region with metadata in each 2 MiB of its length (07 R210). -/
def unitBushels (g : Region) : Nat := unit2M / (4096 + metaStride g.fmt)

/-- Where a shard of n bushels of a format is placed: the lowest run of units of an ADAPTER region of rood r that no other cache entry
takes (R265; log 72). -/
def placeShard (s : State) (r fmt n : Nat) : Option Nat :=
  let taken (a m : Nat) : Bool := s.cache.any fun e => match e.2.place with
    | some p => meets a m p (4096 * e.2.image.length)
    | none => false
  (s.stks.flatMap fun k => k.regions.map (·.2)).findSome? fun g =>
    if g.kind = 4 ∧ g.rood = r ∧ g.fmt = fmt then
      ((List.range g.len).map fun u => g.start + 4096 * (u * unitBushels g)).find? fun a =>
        (a - g.start) / 4096 + n ≤ regionBushels g && !taken a (4096 * n)
    else none

/-- The bushels that the namespace holds from FLASH_OFFSET of an adapter, at most n, up to the first that cannot be read (07 R235,
R236). -/
def flashImage (s : State) (r : Nat) (e : DirEntry) (n : Nat) : List (List Byte) :=
  let at' (i : Nat) : Nat := flashKey r (e.flashOffset / 4096 + i)
  let there (i : Nat) : Bool := flashAccess s r (e.flashOffset / 4096 + i) 1 == Sts.ok && !s.flash.lost.contains (at' i) &&
    (tfind (at' i) s.flash.slots).isSome
  ((List.range n).takeWhile there).filterMap fun i => (tfind (at' i) s.flash.slots).map fun v => imageOf v.hdr v.data

/-- An adapter's image is good: each bushel's CHECKSUM, and the whole's SHA-384 (R258, R268). -/
def imageGood (e : DirEntry) (l : List (List Byte)) : Bool :=
  (l.all fun im => let m := metaOfImage im; bushelCrc m (dataOfImage im) == m.checksum) && leNat (sha l.flatten) == e.digest

/-- The image of an adapter as a source gives it: of the flash, what the namespace holds; of the store, what it sent, where the rood can
read it (12 R365). -/
def adapterFrom (s : State) (r : Nat) (e : DirEntry) (sent : List (List Byte)) (src : Nat) : Option (List (List Byte)) :=
  let l := flashImage s r e sent.length
  if src = 0 then if l.length = sent.length then some l else none
  else if storeUsable s r e.storeQp then some sent else none

/-- A source gives a good image. -/
def sourceGood (s : State) (r : Nat) (e : DirEntry) (sent : List (List Byte)) (src : Nat) : Bool :=
  match adapterFrom s r e sent src with | some l => imageGood e l | none => false

/-- The good image of an adapter from its sources in order (R258, R268). -/
def adapterImage (s : State) (r : Nat) (e : DirEntry) (sent : List (List Byte)) : Option (List (List Byte)) :=
  ((sourcesOf e.source).find? (sourceGood s r e sent)).bind (adapterFrom s r e sent)

/-- Reading an adapter's image from the flash (07 R233, R237). -/
def fetchAdapter (r : Nat) (e : DirEntry) (sent : List (List Byte)) (s : State) : State :=
  if triesFlash e.source (sourceGood s r e sent) then fetchFlash r e.flashOffset (4096 * sent.length) s else s

/-- The flash still holds a good image of an adapter, in at most its units of 2 MiB (R268). -/
def flashHolds (s : State) (r : Nat) (e : DirEntry) : Bool :=
  let l := flashImage s r e (512 * e.units)
  (sourcesOf e.source).contains 0 && (List.range l.length).any fun n => imageGood e (l.take (n + 1))

/-- Write an adapter's shard into its ADAPTER region as a staging MOVE does: ROOD set, CHECKSUM recomputed (07 R209, R214). -/
def writeShard (r a : Nat) (image : List (List Byte)) (s : State) : State :=
  forAll ((List.range image.length).zip image) (fun p t =>
    let m := { metaOfImage p.2 with rood := r }
    let d := dataOfImage p.2
    let at' := a + 4096 * p.1
    if writeCheck t .staging at' 4096 = .ok then putBushel at' (sealBushel m d) d t else t) s

/-- A staged cache entry becomes resident: its image matches the directory's digest, room is made for its size, and it is written to
its place (R258, R265). -/
def entryResident (slot version : Nat) (image : List (List Byte)) (s : State) : State :=
  match tfind slot s.slots with
  | none => s
  | some k =>
    match cacheFind s slot k.gen version, k.adapter with
    | some (i, o), some a =>
      (match dirOf s k.rood a with
        | none => s
        | some e =>
          let got := adapterImage s k.rood e image
          let s := fetchAdapter k.rood e image s
          match got with
          | none => s
          | some l =>
            let units := max 1 (((l.map List.length).foldl (· + ·) 0 + unit2M - 1) / unit2M)
            let fmt := (metaOfImage (l.getD 0 [])).fmt
            match makeRoom k.rood (units - o.units) s.cache.length (usedEntry i s) with
            | none => s
            | some s =>
              match placeShard s k.rood fmt l.length with
              | none => s
              | some at' =>
                let s := modRood k.rood (fun d => { d with dir := tmod a (fun e => { e with units := units }) d.dir }) s
                writeShard k.rood at' l { s with cache := tmod i (fun e =>
                  { e with resident := true, units := units, image := l, place := some at', lastUse := s.time.now }) s.cache })
    | _, _ => s

/-- A version of a slot's adapter is FAULTED here: its cache entry goes, its requests complete with UNCORRECTABLE and later
ones find the image bad (R268). -/
def faultVersion (r a slot version : Nat) (s : State) : State :=
  let s := modRood r (fun k => { k with dir := tmod a (fun e =>
    { e with faulted := if e.faulted.contains version then e.faulted else version :: e.faulted }) k.dir }) s
  let s := { s with cache := s.cache.filter fun e => !(e.2.slot == slot && e.2.version == version) }
  let s := logBase 0x38 r (packLe [(slot, 2), (version, 4)]) s
  forAll ((s.requests.filter fun e => e.2.rood == r && e.2.rows.any fun t =>
    !t.none && t.adapter == a && t.version == version).map (·.1)) (fun h => failRequest h Sts.uncorrectable 0) s

/-- The pipeline of the work that is tagged with a version: of its requests' epoch, else of the CURRENT one, else of any that the rood
holds (R268). -/
def lineOf (s : State) (r a version : Nat) : List Nat :=
  let tagged := (s.requests.find? fun e => e.2.rood == r && e.2.tagged && e.2.rows.any fun t => t.adapter == a && t.version == version).bind
    fun e => epochOf s r e.2.epoch
  let any := match s.roods[r]? with | some k => k.epochs.head? | none => none
  match [tagged, currentEpoch s r, any].findSome? id with
  | some e => e.stages
  | none => []

/-- The modules that learn of a faulted version from this one: the admitting module, or from it every other module of the pipeline but
the one that reported it (R268). -/
def faultTold (s : State) (r a version : Nat) (by_ : Option Nat) : List Nat :=
  let line := lineOf s r a version
  if line.head? = some s.fab.pos then (line.filter fun p => p != s.fab.pos && some p != by_).eraseDups
  else if by_.isNone then line.head?.toList
  else []

/-- A version of rood r is faulted here, and those that learn of it from this module are told; a report of one that is faulted here already
changes nothing (R268). -/
def versionGone (r a slot gen version : Nat) (by_ : Option Nat) (s : State) : State :=
  if (match dirOf s r a with | some e => e.faulted.contains version | none => false) then s
  else
    let told := faultTold s r a version by_
    forAll told (fun p => sendFault r p a version slot gen Sts.uncorrectable) (faultVersion r a slot version s)

/-- The version of a slot's cache entry has no good image (R268). -/
def entryFaulted (slot version : Nat) (s : State) : State :=
  match tfind slot s.slots with
  | none => s
  | some k =>
    match k.adapter with
    | none => s
    | some a => if (cacheFind s slot k.gen version).isNone then s else versionGone k.rood a slot k.gen version none s

/-- The flash holds a good image of the adapter that is bound in a slot. -/
def slotFlash (s : State) (slot : Nat) : Bool :=
  match tfind slot s.slots with
  | none => false
  | some k => match k.adapter.bind (dirOf s k.rood) with | some e => flashHolds s k.rood e | none => false

/-- Staging of a version failed, and no source holds a good image (R268). What the store holds is what it sent: the command says that it
sent none. -/
def versionFaulted (slot version : Nat) (s : State) : State := if slotFlash s slot then s else entryFaulted slot version s

/-- Refuse an adapter's rows, or all of an epoch's, as lost (14 R428). -/
def refuseLost (r lost a : Nat) (s : State) : State :=
  let s := modRood r (fun k => { k with refused := if k.refused.contains (lost, a) then k.refused else k.refused ++ [(lost, a)] }) s
  forAll ((s.requests.filter fun e => e.2.rood == r && e.2.remote.isNone && e.2.rows.any fun t => !t.none && (a == 0 || t.adapter == a)).map (·.1))
    (fun h => failRequest h Sts.stageLost 0) s

/-- The swap of an epoch failed on another module: it fails here once admission has paused (R257). -/
def swapReport (r epoch st : Nat) (s : State) : State :=
  match s.roods[r]? with
  | none => s
  | some k =>
    match k.baseCmd with
    | some b =>
      if b.code = 3 ∧ b.epoch = epoch then
        if b.pausedAt.isSome then swapFailed r st 0 s
        else modRood r (fun k => { k with baseCmd := some { b with failed := some st } }) s
      else modRood r (fun k => { k with failedFrom := k.failedFrom ++ [(epoch, st)] }) s
    | none => modRood r (fun k => { k with failedFrom := k.failedFrom ++ [(epoch, st)] }) s

/-- VERSION_FAULT: the version is faulted; with STAGE_LOST the adapter is refused (R268; 14 R428); with adapter 0 it is of an epoch: with
BASE_NOT_LOADED the requests tagged with it end (R245), else its swap failed elsewhere (R257; log 72). -/
def versionFaultIn (p : Packet) (s : State) : State :=
  let a := field p.data 0 8
  let st := field p.data 16 1
  let v := field p.data 8 4
  if st = Sts.stageLost then refuseLost p.dstRood p.src a s
  else if a = 0 ∧ st = Sts.baseNotLoaded then
    forAll ((s.requests.filter fun e => e.2.rood == p.dstRood && e.2.remote.isNone && e.2.tagged && e.2.epoch == v).map (·.1))
      (fun h => failRequest h Sts.baseNotLoaded 0) s
  else if a = 0 then swapReport p.dstRood v st s
  else versionGone p.dstRood a (field p.data 12 2) (field p.data 14 2) v (some p.src) s

/-! ### Versions (R267) -/

/-- The version that becomes CUR at this boundary, the first after its ADAPTER_PUT; the old CUR becomes PREV. -/
def flipVersion (slot : Nat) (s : State) : State :=
  match tfind slot s.slots with
  | none => s
  | some k =>
    match k.next with
    | some (v, put) =>
      if atFurlong s && after 64 s.time.now put && k.prev.isNone && k.training.isNone then
        modSlot slot (fun k => { k with cur := some { version := v }, prev := k.cur, next := none }) s
      else s
    | none => s

/-- PREV with no holds is retired (R267). -/
def retireVersion (slot : Nat) (s : State) : State :=
  match tfind slot s.slots with
  | none => s
  | some k =>
    match k.prev with
    | some p =>
      if p.holds = 0 then
        let s := modSlot slot (fun k => { k with prev := none }) s
        { s with cache := s.cache.filter fun e => !(e.2.slot == slot && e.2.gen == k.gen && e.2.version == p.version) }
      else s
    | none => s

/-! ### Control packets of a swap (R256) -/

/-- EPOCH_READY at the admitting module; one that comes before its own BASE_SWAP is kept (R256). -/
def epochReadyIn (p : Packet) (s : State) : State :=
  let n := field p.data 0 4
  let s := modRood p.dstRood (fun k =>
    match k.baseCmd with
    | some b =>
      if b.code = 3 ∧ b.epoch = n then
        { k with baseCmd := some (if b.stagesReady.contains p.src then b else { b with stagesReady := b.stagesReady ++ [p.src] }) }
      else { k with readyFrom := k.readyFrom ++ [(p.src, n)] }
    | none => { k with readyFrom := k.readyFrom ++ [(p.src, n)] }) s
  swapReady p.dstRood s

/-- EPOCH_FLIP at another module: the epoch becomes CURRENT at the named boundary, or at once when it has passed. -/
def epochFlipIn (p : Packet) (s : State) : State :=
  let r := p.dstRood
  let n := field p.data 0 4
  let at' := field p.data 16 6 + 2 ^ 48 * field p.data 22 2
  match s.roods[r]? with
  | none => s
  | some k =>
    match k.baseCmd with
    | some b =>
      if b.code = 3 ∧ b.epoch = n then
        resumeAdmission r (modRood r (fun k => { k with baseCmd := k.baseCmd.map fun b => { b with resumeAt := some at' } }) s)
      else s
    | none => s

/-! ### Meanings -/

/-- LOCK_SET (04 R104). -/
def execLockSet (t i : Nat) (s : State) : Answer := .next (setLock t i s)
/-- BASE_LOAD (R251). -/
def execBaseLoad (r : Nat) (w : LoadWorld) (s : State) : Answer := .next (baseLoad r w s)
/-- BASE_FLIP (R254). -/
def execBaseFlip (r : Nat) (s : State) : Answer := .next (armFlip r 2 s)
/-- FLIP_TAKES_EFFECT (R254, R256). -/
def execFlipTakesEffect (r : Nat) (s : State) : Answer := .next (flipNow r s)
/-- BASE_SWAP (R256). -/
def execBaseSwap (r : Nat) (s : State) : Answer := .next (armFlip r 3 s)
/-- SWAP_LOAD (R256). -/
def execSwapLoad (r : Nat) (w : LoadWorld) (s : State) : Answer := .next (swapLoad r w s)
/-- ADMISSION_RESUMED (R256). -/
def execAdmissionResumed (r : Nat) (s : State) : Answer := .next (resumeAdmission r s)
/-- BASE_RELEASE (R244). -/
def execBaseRelease (r : Nat) (s : State) : Answer := .next (baseRelease r s)
/-- BASE_GONE (R244). -/
def execBaseGone (r epoch : Nat) (s : State) : Answer := .next (epochGone r epoch s)
/-- BASE_REPAIR (R253). -/
def execBaseRepair (r : Nat) (images : LoadWorld) (s : State) : Answer := .next (baseRepair r images s)
/-- ADAPTER_PUT (R258). -/
def execAdapterPut (r : Nat) (s : State) : Answer := .next (adapterPut r s)
/-- ADAPTER_DROP (R259). -/
def execAdapterDrop (r : Nat) (s : State) : Answer := .next (adapterDrop r s)
/-- A control packet of a subtype, from a peer, at its destination (11 R351). -/
def onControl (p : Packet) (sub : Nat) (f : Packet → State → State) (s : State) : State :=
  arriving p (fun s => if p.typ = 6 ∧ subtype p = sub then fromPeer p (f p) s else s) s
/-- PREFETCH (R265). -/
def execPrefetch (p : Packet) (s : State) : Answer := .next (onControl p 0x10 prefetchPktIn s)
/-- ADAPTER_ENTRY_RESIDENT (R265). -/
def execAdapterEntryResident (slot version : Nat) (image : List (List Byte)) (s : State) : Answer :=
  .next (entryResident slot version image s)
/-- VERSION_FAULTED (R268). -/
def execVersionFaulted (slot version : Nat) (s : State) : Answer := .next (versionFaulted slot version s)
/-- VERSION_RETIRE (R267). -/
def execVersionRetire (slot : Nat) (s : State) : Answer := .next (retireVersion slot s)
/-- EPOCH_READY (R256). -/
def execEpochReady (p : Packet) (s : State) : Answer := .next (onControl p 0x11 epochReadyIn s)
/-- EPOCH_FLIP (R256). -/
def execEpochFlip (p : Packet) (s : State) : Answer := .next (onControl p 0x13 epochFlipIn s)
/-- VERSION_FAULT (R268; 14 R428). -/
def execVersionFault (p : Packet) (s : State) : Answer := .next (onControl p 0x12 versionFaultIn s)

end Sys2Proof.Machine
end

