-- ==== Sys2Proof/Machine/Gill.lean ====
section
/-! DEFINITION. The operations of Gill (05 R131 to R144, R150 to R153, R160; 06 R190, Table 6.11). -/
namespace Sys2Proof.Machine

/-! ### Taking operations (R141, R142, R147) -/

/-- A READY combination goes ahead of queued operations (R147). -/
def combReady (k : Cluster) : Bool := k.comb.any fun e => e.st == .ready

/-- The next operation that Gill of cluster c may start: round robin over the cores' queue heads (R141). -/
def gillPick (s : State) (c : Nat) : Option (Nat × Nat × Desc) :=
  match s.clusters[c]? with
  | none => none
  | some k =>
    if gillBusy k || combReady k then none
    else
      (List.range 4).findSome? fun i =>
        let n := (k.gillNext + i) % 4
        match (k.cores.getD n {}).gillQ.head? with
        | none => none
        | some d =>
          match tfind d s.descs with
          | none => none
          | some e => if startReady s d e then some (n, d, e) else none

/-- Operation d of core n starts. -/
def startGill (c n d : Nat) (e : Desc) (s : State) : State :=
  modCluster c (fun k => { k with gillRun := some d, gillNext := (n + 1) % 4 }) (markStarted d e s)

/-! ### Source operands (R133, R134, R144, R152; 06 Table 6.10) -/

/-- Exact values of LEN elements of a scratchpad operand in the operation's layout (R134). -/
def scratchVals (s : State) (c : Nat) (b : GillBody) (w : Nat) : List Val :=
  let f := opFmt w
  let l := gillLay b
  let ss := sstride f l.2.2
  let base := scratchBase c
  (List.range l.1).flatMap fun i =>
    rowVals s f (base + opAddr w + i * l.2.2) (base + b.scaleSrc + i * ss) l.2.1

/-- FP32 bits of a scratchpad operand: FP32 elements are moved unchanged (02 Table 2.8). -/
def scratchF32 (s : State) (c : Nat) (b : GillBody) (w : Nat) : List F32 :=
  if opFmt w = 0 then
    let l := gillLay b
    (List.range l.1).flatMap fun i =>
      (List.range l.2.1).map fun j => rdF32 s (scratchBase c + opAddr w + i * l.2.2 + 4 * j)
  else (scratchVals s c b w).map toF32

/-- Byte offsets of the cells of a bank operand (R144). -/
def bankOffs (b : GillBody) (w : Nat) : List Nat :=
  let o := opAddr w % 0x10000
  if b.rows = 0 ∧ b.cols = 0 then (List.range b.len).map fun i => o + 4 * i
  else (List.range b.rows).flatMap fun r => (List.range b.cols).map fun j => o + 512 * r + 4 * j

/-- FP32 value of a scalar entry as FMT takes it (R150). -/
def scalarF32 (fmt : Nat) (v : Word) : F32 :=
  if fmt = 0 then v.setWidth 32 else toF32 (decodeElem fmt (v.toNat % 2 ^ 16))

/-- Lane l of vector register v of core n. -/
def vreg (s : State) (c n v l : Nat) : F32 :=
  match s.clusters[c]? with
  | none => 0#32
  | some k => tgetD (512 * v + l) 0#32 (k.cores.getD n {}).vregs

/-- The LEN elements of a source operand as FP32. idx is its place among the captured scalars. -/
def srcVals (s : State) (c n : Nat) (b : GillBody) (sc : List Word) (idx w : Nat) : List F32 :=
  let a := opAddr w
  if opSpace w = 0 then
    let lane (i : Nat) : Nat := if opForm w = 2 then i / b.cols else if opForm w = 3 then i % b.cols else i
    (List.range b.len).map fun i => vreg s c n (a % 8) (lane i)
  else if opSpace w = 1 then scratchF32 s c b w
  else if opSpace w = 2 then
    let k := a / 0x10000
    (bankOffs b w).map fun o => BitVec.ofNat 32 (leNat (readCells s c k o 4))
  else List.replicate b.len (scalarF32 (opFmt w) (sc.getD idx 0))

/-- Scratchpad ranges that an operation reads, as device addresses. -/
def gillReadsAt (c : Nat) (b : GillBody) : List (Nat × Nat) := (gillReads b).map fun r => (scratchBase c + r.1, r.2)

/-- Banks that an operation reads as sources. -/
def gillBanks (b : GillBody) : List Nat :=
  (gillSrcs b).filterMap fun w => if opSpace w.1 = 2 then some (opAddr w.1 / 0x10000) else none

/-! ### Results (R134 to R138) -/

/-- One lane of an elementwise operation (Table 5.2, Table 6.11). -/
def gillLane (op : Nat) (a b m : F32) : F32 :=
  if op ∈ [0x01, 0x02, 0x03, 0x20] then a
  else if op = 0x04 then fAdd a b
  else if op = 0x05 then fSub a b
  else if op = 0x06 then fMul a b
  else if op = 0x07 then fFma a b m
  else if op = 0x08 then fAbs a
  else if op = 0x09 then fNeg a
  else if op = 0x0A then fMin a b
  else if op = 0x0B then fMax a b
  else if op = 0x0C then fLt a b
  else if op = 0x0D then fLe a b
  else if op = 0x0E then fEq a b
  else if op = 0x0F then fSel a b m
  else fTrans op a

/-- What one lane with FP32 operands adds to the counters; the exact infinities of Table 5.3 do not count, and an operand that
its conversion to FP32 made infinite is no finite operand (R160). -/
def laneTally (op : Nat) (r : F32) (ops : List F32) : Tally :=
  let vs := ops.map decodeF32
  let zero : Bool := match vs.head? with | some (.fin _ 0 _) => true | _ => false
  if (op = 0x11 ∨ op = 0x12 ∨ op = 0x13) ∧ zero then {} else f32Tally r vs

/-- Index of the maximum, the lowest one, or of the first NaN (R138). -/
def argmax (xs : List F32) : Nat :=
  match xs.findIdx? fIsNaN with
  | some i => i
  | none =>
    ((List.range xs.length).foldl (fun best i => if fBelow (xs.getD best 0#32) (xs.getD i 0#32) then i else best) 0)

/-- One reduction: the FP32 result and the summary's value; none where the spec states no result, for no element. -/
def reduceOne (op : Nat) (xs : List F32) : Option (F32 × Nat) :=
  let f (r : F32) : Option (F32 × Nat) := some (r, r.toNat)
  if op = 0x18 then f (sumFrom 0#32 xs)
  else if op = 0x19 then f (reduceProducts 0#32 (xs.map fun x => (decodeF32 x, decodeF32 x)))
  else if op = 0x1D then
    let n := (xs.filter fun x => !fIsFin x).length
    some (fOfNat n, n)
  else
    match xs with
    | [] => none
    | x :: t =>
      if op = 0x1A then f (t.foldl fMax (if fIsNaN x then f32NaN else x))
      else if op = 0x1B then f (t.foldl fMin (if fIsNaN x then f32NaN else x))
      else let i := argmax xs; some (fOfNat i, i)

/-- The sums of a reduction: ALL, one per row, or one per column (R138). -/
def reduceGroups {α : Type} (b : GillBody) (xs : List α) : List (List α) :=
  if b.dir = 2 then (List.range b.rows).map fun r => (xs.drop (r * b.cols)).take b.cols
  else if b.dir = 3 then
    (List.range b.cols).map fun j => (List.range b.rows).filterMap fun r => xs[r * b.cols + j]?
  else [xs]

/-- Results of a reduction with a free value where the spec states none (log 5). -/
def reduceAll (op : Nat) (gs : List (List F32)) (s : State) : List (F32 × Nat) × State :=
  gs.foldl (fun acc g =>
    match reduceOne op g with
    | some r => (acc.1 ++ [r], acc.2)
    | none => let (v, t) := fresh 32 acc.2; (acc.1 ++ [(BitVec.ofNat 32 v, v)], t)) ([], s)

/-- Writes to the scratchpad of results in the destination's layout (R134): rows, or packed. -/
def gillStore (c : Nat) (b : GillBody) (l : Nat × Nat × Nat) (rs : List F32) : Writes × Tally :=
  let base := scratchBase c
  let rows := (List.range l.1).map fun i => (rs.drop (i * l.2.1)).take l.2.1
  let tc := if b.tensorCols = 0 then b.cols else b.tensorCols
  storeRows (opFmt b.dst) b.rnd b.scsel (base + opAddr b.dst) (base + b.scaleDst) l.2.2 rows
    (drawsOf b.rnd b.seed b.step b.tensorId) (fun i j => b.index0 + i * tc + j)

/-- Write results to DST: a vector register's lanes, or the scratchpad; none when a ring refuses it (07 R218). -/
def gillPut (c n : Nat) (b : GillBody) (l : Nat × Nat × Nat) (rs : List F32) (s : State) : Option State × Tally :=
  if opSpace b.dst = 0 then
    let v := opAddr b.dst % 8
    (some (modCore c n (fun k => { k with
      vregs := ((List.range rs.length).zip rs).foldl (fun t p => tset (512 * v + p.1) p.2 t) k.vregs }) s), {})
  else
    let w := gillStore c b l rs
    (doWrites w.1 s, w.2)

/-- The operation ends: it leaves Gill, and its summary is written (R153, Table 5.6). -/
def gillEnd (c n d : Nat) (e : Desc) (b : GillBody) (st value : Nat) (s : State) : State :=
  let s := finish d st 0 s
  let s := modCluster c (fun k => { k with gillRun := none }) s
  if b.sumEn then
    modDesc d (fun k => { k with progress := 1 })
      (writeSummary c n b.sumSlot value (finalStatus s { e with stage := .started } ⟨st, 0, s.time.now⟩) s)
  else modDesc d (fun k => { k with progress := 1 }) s

/-- VALUE of a non-reduction operation (Table 5.6). -/
def tallyValue (t : Tally) : Nat := t.invalid % 2 ^ 32 + 2 ^ 32 * (t.ovf % 2 ^ 32)

/-- Number of a bank state as RELEASE_IGNORED reports it, in the order of Table 3.5. -/
def bankCode : BankState → Nat
  | .free => 0 | .loading => 1 | .accumulating => 2 | .held => 3 | .spilling => 4

/-- RELEASE: a HELD bank becomes FREE; in any other state the event is logged (03 R84). -/
def gillRelease (c n d : Nat) (e : Desc) (b : GillBody) (s : State) : State :=
  let k := opAddr b.srcA / 0x10000
  let bk := bankOf s c k
  let s :=
    if bk.st = .held then modBank c k (fun _ => {}) s
    else logCluster c 0x08 n (packLe [(k, 1), (bankCode bk.st, 1)]) s
  gillEnd c n d e b Sts.ok 0 s

/-- The spill of bank k ends: the tile is written, and the bank is FREE, or HELD again with KEEP (R143). -/
def spillWrite (c n d : Nat) (e : Desc) (b : GillBody) (k : Nat) (s : State) : State :=
  let base := scratchBase c
  let rows := (List.range b.rows).map fun i => (List.range b.cols).map fun j => rdF32 s (cellAt c k i j)
  let w := storeRows (opFmt b.dst) b.rnd b.scsel (base + opAddr b.dst) (base + b.scaleDst) b.rowStride rows
    (drawsOf b.rnd b.seed b.step b.tensorId) (fun i j => b.index0 + i * b.scaleSrc + j)
  match doWrites w.1 s with
  | none =>
    gillEnd c n d e b Sts.notPermitted 0
      (logRingRefused e.rood (base + opAddr b.dst) (modBank c k (fun _ => { st := .held }) s))
  | some t =>
    let t := countTally c w.2 (modBank c k (fun _ => if b.keep then { st := .held } else {}) t)
    gillEnd c n d e b Sts.ok (tallyValue w.2) t

/-- SPILL (R143): a HELD bank enters SPILLING, and the spill that runs in it ends at the next SPILL of the cluster (log 66). It
waits while the bank is LOADING, ACCUMULATING or SPILLING for another, and is refused by a FREE bank. -/
def gillSpill (c n d : Nat) (e : Desc) (b : GillBody) (s : State) : State :=
  let k := opAddr b.srcA / 0x10000
  let bk := bankOf s c k
  if bk.gill = some d then spillWrite c n d e b k s
  else if bk.st = .free then
    gillEnd c n d e b Sts.protocolViolation 0 (logCluster c 0x08 n (packLe [(k, 1), (bankCode bk.st, 1)]) s)
  else if bk.st = .held then modBank c k (fun k => { k with st := .spilling, gill := some d }) s
  else s

/-- An elementwise operation (R134 to R137). -/
def gillElementwise (c n d : Nat) (e : Desc) (b : GillBody) (s : State) : State :=
  let srcs := ((List.range 3).zip (gillSrcs b)).map fun p => srcVals s c n b e.scalars p.1 p.2.1
  let at' (i j : Nat) : F32 := (srcs.getD i []).getD j 0#32
  let rs := (List.range b.len).map fun j => gillLane b.op (at' 0 j) (at' 1 j) (at' 2 j)
  let ts := (List.range b.len).map fun j =>
    laneTally b.op (rs.getD j 0#32) (srcs.map fun v => v.getD j 0#32)
  let t := ts.foldl Tally.add {}
  let s' := markReads (gillReadsAt c b) s
  let p := gillPut c n b (gillLay b) rs s'
  match p.1 with
  | none => gillEnd c n d e b Sts.notPermitted 0 (logRingRefused e.rood (scratchBase c + opAddr b.dst) s')
  | some u =>
    let t := t.add p.2
    gillEnd c n d e b Sts.ok (tallyValue t) (countTally c t u)

/-- A reduction (R138, R153). -/
def gillReduction (c n d : Nat) (e : Desc) (b : GillBody) (s : State) : State :=
  let src := srcVals s c n b e.scalars 0 b.srcA
  let gs := reduceGroups b src
  let r := reduceAll b.op gs (markReads (gillReadsAt c b) s)
  let rs := r.1.map (·.1)
  let t := ((rs.zip gs).map fun p => f32Tally p.1 (p.2.map decodeF32)).foldl Tally.add {}
  let p := gillPut c n b (1, rs.length, 0) rs r.2
  match p.1 with
  | none => gillEnd c n d e b Sts.notPermitted 0 (logRingRefused e.rood (scratchBase c + opAddr b.dst) r.2)
  | some u =>
    let u := countTally c (t.add p.2) u
    match r.1.head? with
    | some v => gillEnd c n d e b Sts.ok (v.2 % 2 ^ 48) u
    | none => let (v, u) := fresh 64 u; gillEnd c n d e b Sts.ok v u

/-- Run a started operation: it waits while the cluster's clock is being changed (R162), a ring slot it reads is EMPTY or a bank it reads is LOADING or
ACCUMULATING, and ends with the stream's status on a POISONED slot (07 R218; 03 R84). -/
def gillRunOp (c n d : Nat) (e : Desc) (b : GillBody) (s : State) : State :=
  if clusterPaused s c then s
  else if b.op = opRelease then gillRelease c n d e b s
  else if b.op = opSpill then gillSpill c n d e b s
  else if (gillBanks b).any (bankStalls s c) then s
  else
    match ringReads s (gillReadsAt c b) with
    | .stall => s
    | .poisoned st => gillEnd c n d e b st 0 (logPoison e.rood (gillReadsAt c b) s)
    | .ready => if isReduction b.op then gillReduction c n d e b s else gillElementwise c n d e b s

/-- The operation that Gill of cluster c runs, or starts next, if its code is op; then it runs. -/
def gillDo (c op : Nat) (s : State) : State :=
  let run (d : Nat) (e : Desc) (s : State) : State :=
    match e.body, e.src with
    | .gill b, .core _ n => if b.op = op then gillRunOp c n d e b s else s
    | _, _ => s
  match s.clusters[c]? with
  | none => s
  | some k =>
    match k.gillRun with
    | some d => (match tfind d s.descs with | some e => run d e s | none => s)
    | none =>
      match gillPick s c with
      | none => s
      | some (n, d, e) =>
        match e.body with
        | .gill b => if b.op = op then run d e (startGill c n d e s) else s
        | _ => s

/-! ### The operations (06 Table 6.11) -/

/-- LOAD: elements into FP32, exactly. -/
def execLoad (c : Nat) (s : State) : Answer := .next (gillDo c 0x01 s)
/-- STORE: FP32 values converted to the destination's format (R134). -/
def execStore (c : Nat) (s : State) : Answer := .next (gillDo c 0x02 s)
/-- COPY: values moved. -/
def execCopy (c : Nat) (s : State) : Answer := .next (gillDo c 0x03 s)
/-- ADD: a + b with one rounding. -/
def execAdd (c : Nat) (s : State) : Answer := .next (gillDo c 0x04 s)
/-- SUB: a - b with one rounding. -/
def execSub (c : Nat) (s : State) : Answer := .next (gillDo c 0x05 s)
/-- MUL: a × b with one rounding. -/
def execMul (c : Nat) (s : State) : Answer := .next (gillDo c 0x06 s)
/-- FMA: a × b + c, exact product, one rounding. -/
def execFma (c : Nat) (s : State) : Answer := .next (gillDo c 0x07 s)
/-- ABS: the sign bit cleared. -/
def execAbs (c : Nat) (s : State) : Answer := .next (gillDo c 0x08 s)
/-- NEG: the sign bit inverted. -/
def execNeg (c : Nat) (s : State) : Answer := .next (gillDo c 0x09 s)
/-- MIN (R136). -/
def execMin (c : Nat) (s : State) : Answer := .next (gillDo c 0x0A s)
/-- MAX (R136). -/
def execMax (c : Nat) (s : State) : Answer := .next (gillDo c 0x0B s)
/-- CMPLT (R136). -/
def execCmplt (c : Nat) (s : State) : Answer := .next (gillDo c 0x0C s)
/-- CMPLE (R136). -/
def execCmple (c : Nat) (s : State) : Answer := .next (gillDo c 0x0D s)
/-- CMPEQ (R136). -/
def execCmpeq (c : Nat) (s : State) : Answer := .next (gillDo c 0x0E s)
/-- SEL: a where m is neither zero, else b. -/
def execSel (c : Nat) (s : State) : Answer := .next (gillDo c 0x0F s)
/-- EXP2: correctly rounded 2^x (R137). -/
def execExp2 (c : Nat) (s : State) : Answer := .next (gillDo c 0x10 s)
/-- LOG2: correctly rounded base-2 logarithm (R137). -/
def execLog2 (c : Nat) (s : State) : Answer := .next (gillDo c 0x11 s)
/-- RCP: correctly rounded 1 / x (R137). -/
def execRcp (c : Nat) (s : State) : Answer := .next (gillDo c 0x12 s)
/-- RSQRT: correctly rounded 1 / √x (R137). -/
def execRsqrt (c : Nat) (s : State) : Answer := .next (gillDo c 0x13 s)
/-- TANH: correctly rounded hyperbolic tangent (R137). -/
def execTanh (c : Nat) (s : State) : Answer := .next (gillDo c 0x14 s)
/-- SUM: values added in ascending index, one rounding each (R62, R138). -/
def execSum (c : Nat) (s : State) : Answer := .next (gillDo c 0x18 s)
/-- SUMSQ: exact squares added, one rounding each (R138). -/
def execSumsq (c : Nat) (s : State) : Answer := .next (gillDo c 0x19 s)
/-- MAXR: the maximum by R136. -/
def execMaxr (c : Nat) (s : State) : Answer := .next (gillDo c 0x1A s)
/-- MINR: the minimum by R136. -/
def execMinr (c : Nat) (s : State) : Answer := .next (gillDo c 0x1B s)
/-- ARGMAX: the lowest index of the maximum, or of the first NaN (R138). -/
def execArgmax (c : Nat) (s : State) : Answer := .next (gillDo c 0x1C s)
/-- COUNTNF: the count of infinities and NaNs (R138). -/
def execCountnf (c : Nat) (s : State) : Answer := .next (gillDo c 0x1D s)
/-- ACCRD: bank cells as stored (R144). -/
def execAccrd (c : Nat) (s : State) : Answer := .next (gillDo c 0x20 s)
/-- RELEASE: a HELD bank becomes FREE (R84). -/
def execRelease (c : Nat) (s : State) : Answer := .next (gillDo c opRelease s)
/-- SPILL: a HELD bank is written out (R143). -/
def execSpill (c : Nat) (s : State) : Answer := .next (gillDo c opSpill s)

end Sys2Proof.Machine
end

