-- ==== Sys2Proof/Machine/Cores.lean ====
section
/-! DEFINITION. Control cores: RUN, the tensor-issue instructions, waits and traps (05 R150 to R158; 06 R173, R187, R192
to R197, R177). The RISC-V instructions themselves are not part of the commands (log 15). -/
namespace Sys2Proof.Machine

/-! ### Access -/

/-- Core n of cluster c. -/
def coreAt (s : State) (c n : Nat) : Option Core :=
  match s.clusters[c]? with
  | none => none
  | some k => k.cores[n]?

/-- The rood that owns cluster c. -/
def clusterRood (s : State) (c : Nat) : Option Nat :=
  match s.clusters[c]? with
  | none => none
  | some k => k.rood

/-- Write integer register rd of a core; register 0 is hard-wired to zero. -/
def setX (rd : Nat) (v : Word) (k : Core) : Core := if rd % 32 = 0 then k else { k with x := tset (rd % 32) v k.x }

/-- An instruction retires: the pc moves past its four bytes. -/
def retire (k : Core) : Core := { k with pc := (k.pc + 4) % 2 ^ 48 }

/-- Write rd and retire. -/
def retireX (c n rd : Nat) (v : Word) (s : State) : State := modCore c n (fun k => retire (setX rd v k)) s

/-- The core executes instructions: it runs a program, waits for nothing and is not stopped, and no change of clock pauses it
(R162). -/
def coreRuns (s : State) (c n : Nat) : Bool :=
  match coreAt s c n with
  | none => false
  | some k => runsWork s && !clusterPaused s c && k.st == .running && k.wait.isNone && k.run.isSome

/-- The core waits in an instruction that has not retired. -/
def stall (c n : Nat) (st : CoreState) (w : CoreWait) (s : State) : State :=
  modCore c n (fun k => { k with st := st, wait := some w }) s

/-! ### Starting and ending programs (R192, R197) -/

/-- Start core n for RUN descriptor d. -/
def startCore (c n d : Nat) (e : Desc) (b : RunBody) (s : State) : State :=
  modCore c n (fun k => { k with
    st := .running, userMode := true, slice := some e.slice, pid := e.pid, run := some d, wait := none,
    pc := scratchBase c + b.entry, queue := [], nextSeq := 0, issued := 0, board := [],
    x := tset 10 (w64 b.arg0) (tset 11 (w64 b.arg1) (tset 12 (w64 n) k.x)) }) s

/-- Start RUN descriptor d: a disabled core refuses it. Where a named core is not IDLE, since another RUN has taken it, the
descriptor is held at admission again (R192). -/
def startRun (d : Nat) (e : Desc) (b : RunBody) (s : State) : State :=
  match s.clusters[e.hdr.target]? with
  | none => s
  | some k =>
    if !startReady s d e then s
    else if (runCores b).any (fun n => !k.coreEn.testBit n) then finish d Sts.refusedCapacity 0 s
    else if (runCores b).all (fun n => match k.cores[n]? with | some q => q.st == .idle | none => false) then
      forAll (runCores b) (fun n => startCore e.hdr.target n d e b) (markStarted d e s)
    else modDesc d (fun k => { k with held := true, stage := .dispatcher }) s

/-- The outcome of a RUN whose named cores have all ended: OK with the exit value of the lowest, else the
highest-ranking status with the DETAIL of the lowest core that trapped with it (R192). -/
def runOutcome (ends : Table (Nat × Nat)) : Nat × Nat :=
  let st := ends.foldl (fun a e => statusMax a e.2.1) Sts.ok
  (st, ((ends.find? fun e => e.2.1 = st).map (·.2.2)).getD 0)

/-- The program of core n ends with a status and DETAIL; the RUN completes with its last core (R192). -/
def endProgram (c n st detail : Nat) (s : State) : State :=
  match coreAt s c n with
  | none => s
  | some k =>
    let s := modCore c n (fun k => { k with st := .idle, userMode := false, wait := none, run := none }) s
    match k.run with
    | none => s
    | some d =>
      let s := modDesc d (fun e => { e with ends := tset n (st, detail) e.ends }) s
      match tfind d s.descs with
      | some e =>
        (match e.body with
          | .run b =>
            if (runCores b).all (fun m => (tfind m e.ends).isSome) then
              let (rs, dt) := runOutcome e.ends
              finish d rs dt s
            else s
          | _ => s)
      | none => s

/-- What an access of a core's program to address a meets (05 R157, R158; 07 R209). -/
inductive CoreReach where
  | ok
  /-- a fetch within the rood's regions, but outside the core's own scratchpad -/
  | fetch
  | pmp
  /-- a store to a stack region that takes none, or an access of the flash -/
  | refused
  /-- a store to the ring of an active stream context (07 R218) -/
  | ring
  deriving DecidableEq, Repr

/-- RISC-V access faults: instruction, load, store (log 15). -/
abbrev mcFetchFault : Nat := 1
abbrev mcLoadFault : Nat := 5
abbrev mcStoreFault : Nat := 7

/-- What the access of cluster c's rood that access fault mcause speaks of meets. The PMP entries, which the runtime sets from the
rood table, allow what that table allows (R157). -/
def coreReach (s : State) (c mcause addr : Nat) : CoreReach :=
  let a := addr % 2 ^ 48
  let r := (clusterRood s c).getD noRood
  let own : Bool := match placeOf a 1 with | .scratch k _ => k == c | _ => false
  if mcause = mcFetchFault ∧ own then .ok
  else if mcause = mcFetchFault then (if grant s r a 1 = .ok then .fetch else .pmp)
  else
    match placeOf a 1 with
    | .scratch k _ =>
      if !ownsCluster s r k then .pmp else if mcause = mcStoreFault ∧ onRing s a 1 then .ring else .ok
    | .bank k _ => if mcause ≠ mcStoreFault ∧ ownsCluster s r k then .ok else .pmp
    | .stk _ _ =>
      (match regionAt s a with
        | some g => if g.rood ≠ r then .pmp else if mcause ≠ mcStoreFault ∨ g.kind = 1 then .ok else .refused
        | none => .pmp)
    | .flash _ => .refused
    | _ => .pmp

/-- A U-mode trap ends the program of core n (R197): a PMP fault or a refused store with NOT_PERMITTED, any other with
SQUASHED; the descriptors it issued and not started are squashed. An access to no region is logged (01 R31). REGION_WRITE_REFUSED is
an event of a stack (07 Table 7.15), so a refused access of the flash window logs PMP_FAULT alone. -/
def trapCore (c n : Nat) (kind : TrapKind) (mcause addr : Nat) (s : State) : State :=
  match coreAt s c n with
  | none => s
  | some k =>
    let s := modCore c n (fun k => { k with trapCause := mcause % 256, mcause := mcause, mepc := k.pc, queue := [] }) s
    let s := logCluster c 0x06 n (packLe [(mcause, 1), (k.pc % 2 ^ 40, 5)]) s
    let s := if kind = .plain then s else logCluster c 0x07 n (addr % 2 ^ 48) s
    let s := if kind = .storeRefused then logRefused .refused addr (roodByte (clusterRood s c)) s else s
    let s := if kind = .pmp then logUncovered (roodByte (clusterRood s c)) 4 [(addr % 2 ^ 48, 1)] s else s
    let s := forAll k.queue (fun d t =>
      let t := modDesc d (fun e => { e with orphan := true }) t
      match tfind d t.descs with
      | some e => if e.stage = .started then t else finish d Sts.squashed 0 t
      | none => t) s
    endProgram c n (if kind = .plain then Sts.squashed else Sts.notPermitted) (0x80000000 + mcause % 256) s

/-- RISC-V trap causes of Table 6.14 (log 15). -/
abbrev mcIllegal : Nat := 2
abbrev mcLoadMisaligned : Nat := 4

/-! ### Issue (R173, R195) -/

/-- The scalar entries that the three sources of a GILL_OP name (05 R151). -/
def capture (k : Cluster) (b : GillBody) : List Word := [b.srcA, b.srcB, b.srcC].map fun w => tgetD (w % 64) 0 k.scalars

/-- Copy the descriptor at scratchpad offset off into the issue queue of core n; rd takes its SEQ (R195). Where its 128 bytes lie on a
ring, it waits for an EMPTY slot, and what a POISONED slot holds runs nothing and ends with the status of that stream (07 R218). -/
def issueDesc (c n rd off : Nat) (s : State) : State :=
  match s.clusters[c]?, coreAt s c n with
  | some k, some q =>
    let a := scratchBase c + off
    let go (bad : Option Nat) (s : State) : State :=
      let bs := rdBytes s a 128
      let d := s.nextDesc
      let s := takeDesc (.core c n) q.nextSeq q.pid (q.slice.getD 0) (roodByte k.rood) 64 bs s
      let s := match bad with | some st => finish d st 0 s | none => s
      let s := modDesc d (fun e => match e.body with | .gill b => { e with scalars := capture k b } | _ => e) s
      modCore c n (fun q => { retire (setX rd (w64 q.nextSeq) q) with
        queue := q.queue ++ [d], nextSeq := (q.nextSeq + 1) % 2 ^ 32, st := .running, wait := none }) s
    match ringRead s a 128 with
    | .ready => go none (markRead a 128 s)
    | .stall => stall c n .running (.issue rd off) s
    | .poisoned st => go (some st) (logPoison (roodByte k.rood) [(a, 128)] s)
  | _, _ => s

/-- Whether the issue queue of core n is full (R173). An entry is freed when its descriptor completes (log 63). -/
def issueFull (s : State) (c n : Nat) : Bool :=
  match coreAt s c n with
  | none => true
  | some k => 64 ≤ k.queue.length

/-- The status of SEQ q of core n: 0x200 when it is not among the last 64 that its program issued, 0x100 while it is not complete
(R195). -/
def seqStatus (k : Core) (q : Nat) : Nat :=
  let back := dist 32 k.nextSeq q
  if back = 0 ∨ 64 < back ∨ k.issued < back then 0x200 else tgetD (q % 2 ^ 32) 0x100 k.board

/-- Every descriptor issued by the core has completed. -/
def allDone (k : Core) : Bool := k.queue.isEmpty

/-- The rood of a core's program: that of its RUN, or of its cluster. -/
def coreRood (s : State) (c n : Nat) : Nat :=
  let own := roodByte (clusterRood s c)
  match coreAt s c n with
  | some k => (match k.run with
    | some d => (match tfind d s.descs with | some e => e.rood | none => own)
    | none => own)
  | none => own

/-- rod number in [47:0], rod era in [63:48] (Table 6.14). -/
def rodWord (s : State) : Word := w64 (rodNum s + 2 ^ 48 * (eraOf s s.time.now % 2 ^ 16))

/-- A step of a running core. -/
def onCore (c n : Nat) (f : Core → State → State) (s : State) : State :=
  if coreRuns s c n then (match coreAt s c n with | some k => f k s | none => s) else s

/-! ### Meanings -/

/-- RUN (R192). -/
def execRun (d : Nat) (s : State) : Answer :=
  .next (match tfind d s.descs with
    | some e => (match e.body with | .run b => startRun d e b s | _ => s)
    | none => s)

/-- TI.ISSUE rd, rs1 (R195). DESIGN CHOICE: an rs1 that is both misaligned and out of range raises the misaligned trap, since Table
6.14 gives no order of the two (log 63). -/
def execTiIssue (c n rd : Nat) (rs1 : Word) (s : State) : Answer :=
  .next (onCore c n (fun _ s =>
    if rs1.toNat % 128 ≠ 0 then trapCore c n .plain mcLoadMisaligned 0 s
    else if scratchSize < rs1.toNat + 128 then trapCore c n .plain mcLoadFault 0 s
    else if issueFull s c n then stall c n .running (.issue rd rs1.toNat) s
    else issueDesc c n rd rs1.toNat s) s)

/-- TI.WAIT rd, rs1 (R194, R195). DESIGN CHOICE: SEQ is rs1[31:0], and the other bits are ignored: Table 6.14 names no bits (log 63). -/
def execTiWait (c n rd : Nat) (rs1 : Word) (s : State) : Answer :=
  .next (onCore c n (fun k s =>
    let st := seqStatus k (rs1.toNat % 2 ^ 32)
    if st = 0x100 then stall c n .waitGill (.seq rd (rs1.toNat % 2 ^ 32)) s else retireX c n rd (w64 st) s) s)

/-- TI.POLL rd, rs1 (R194, R195); SEQ is taken from rs1 as TI.WAIT takes it (log 63). -/
def execTiPoll (c n rd : Nat) (rs1 : Word) (s : State) : Answer :=
  .next (onCore c n (fun k s => retireX c n rd (w64 (seqStatus k (rs1.toNat % 2 ^ 32))) s) s)

/-- TI.FENCE (R194). -/
def execTiFence (c n : Nat) (s : State) : Answer :=
  .next (onCore c n (fun k s => if allDone k then modCore c n retire s else stall c n .waitGill .fence s) s)

/-- TI.SCW rs1, rs2: an entry of another core traps and writes nothing (R150). -/
def execTiScw (c n : Nat) (rs1 rs2 : Word) (s : State) : Answer :=
  .next (onCore c n (fun _ s =>
    let e := rs1.toNat % 64
    if e / 16 = n then modCore c n retire (modCluster c (fun k => { k with scalars := tset e rs2 k.scalars }) s)
    else trapCore c n .plain mcIllegal 0 s) s)

/-- TI.SCR rd, rs1: any core of the cluster reads any entry (R150). -/
def execTiScr (c n rd : Nat) (rs1 : Word) (s : State) : Answer :=
  .next (onCore c n (fun _ s =>
    let v := match s.clusters[c]? with | some k => tgetD (rs1.toNat % 64) 0 k.scalars | none => 0
    retireX c n rd v s) s)

/-- TI.SUMRD rd, rs1: VALUE of the core's own slot (R153). -/
def execTiSumrd (c n rd : Nat) (rs1 : Word) (s : State) : Answer :=
  .next (onCore c n (fun k s => retireX c n rd (w64 (tgetD (rs1.toNat % 4) {} k.sums).value) s) s)

/-- TI.SUMST rd, rs1: STATUS in [7:0], SEQ in [31:16] (R153). -/
def execTiSumst (c n rd : Nat) (rs1 : Word) (s : State) : Answer :=
  .next (onCore c n (fun k s =>
    let m := tgetD (rs1.toNat % 4) {} k.sums
    retireX c n rd (w64 (m.status + 2 ^ 16 * m.seq)) s) s)

/-- Whether SEQ of a summary slot has reached a number, by serial comparison (R154). -/
def sumReached (k : Core) (slot seq : Nat) : Bool := atOrAfter 16 (tgetD (slot % 4) {} k.sums).seq seq

/-- TI.SUMWAIT rs1, rs2 (R154). -/
def execTiSumwait (c n : Nat) (rs1 rs2 : Word) (s : State) : Answer :=
  .next (onCore c n (fun k s =>
    let slot := rs1.toNat % 4
    let q := rs2.toNat % 2 ^ 16
    if sumReached k slot q then modCore c n retire s else stall c n .waitSummary (.summary slot q) s) s)

/-- TI.ROD rd (R194). -/
def execTiRod (c n rd : Nat) (s : State) : Answer :=
  .next (onCore c n (fun _ s => retireX c n rd (rodWord s) s) s)

/-- TI.RODWAIT rd, rs1: the rod at or after rs1[47:0] by serial comparison (R194). -/
def execTiRodwait (c n rd : Nat) (rs1 : Word) (s : State) : Answer :=
  .next (onCore c n (fun _ s =>
    let r := rs1.toNat % 2 ^ 48
    if atOrAfter 48 (rodNum s) r then retireX c n rd (rodWord s) s else stall c n .running (.rod rd r) s) s)

/-- TI.SYNCRD rd, rs1: value in [31:0], FAILED in [32] (R177). -/
def execTiSyncrd (c n rd : Nat) (rs1 : Word) (s : State) : Answer :=
  .next (onCore c n (fun _ s =>
    let v := ctrGet (coreRood s c n) (rs1.toNat % 256) s
    retireX c n rd (w64 (v.value + if v.failed then 2 ^ 32 else 0)) s) s)

/-- TI.SYNCADD rs1, rs2: a counter of the core's rood (R195). -/
def execTiSyncadd (c n : Nat) (rs1 rs2 : Word) (s : State) : Answer :=
  .next (onCore c n (fun _ s =>
    modCore c n retire (ctrAdd (coreRood s c n) (rs1.toNat % 256) (rs2.toNat % 2 ^ 32) false s)) s)

/-- TI.SYNCSET rs1, rs2: sets the counter and clears FAILED (R177). -/
def execTiSyncset (c n : Nat) (rs1 rs2 : Word) (s : State) : Answer :=
  .next (onCore c n (fun _ s =>
    modCore c n retire (ctrPut (coreRood s c n) (rs1.toNat % 256) ⟨rs2.toNat % 2 ^ 32, false, none⟩ s)) s)

/-- TI.EXIT rs1: waits as TI.FENCE, then ends the program (R192). -/
def execTiExit (c n : Nat) (rs1 : Word) (s : State) : Answer :=
  .next (onCore c n (fun k s =>
    let v := rs1.toNat % 2 ^ 32
    if allDone k then endProgram c n Sts.ok v (modCore c n retire s) else stall c n .waitGill (.exit v) s) s)

/-- A waiting core whose condition holds retires its instruction (R154; Table 6.14). DESIGN CHOICE: the rod that TI.RODWAIT writes on
waking is the word of TI.ROD, the rod number with the rod era in its upper bits: Table 6.14 says only the rod (log 63). -/
def wakeCore (c n : Nat) (k : Core) (w : CoreWait) (s : State) : State :=
  let run (k : Core) : Core := { k with st := .running, wait := none }
  match w with
  | .seq rd q =>
    let st := seqStatus k q
    if st = 0x100 then s else modCore c n (fun k => run (retire (setX rd (w64 st) k))) s
  | .fence => if allDone k then modCore c n (fun k => run (retire k)) s else s
  | .exit v => if allDone k then endProgram c n Sts.ok v (modCore c n retire s) else s
  | .summary slot q => if sumReached k slot q then modCore c n (fun k => run (retire k)) s else s
  | .rod rd r =>
    if atOrAfter 48 (rodNum s) r then modCore c n (fun k => run (retire (setX rd (rodWord s) k))) s else s
  | .issue rd off => if issueFull s c n then s else issueDesc c n rd off s

/-- CORE_WAIT_WAKE (R154). -/
def execCoreWaitWake (c n : Nat) (s : State) : Answer :=
  .next (match coreAt s c n with
    | some k =>
      (match k.wait with
        | some w => if runsWork s && !clusterPaused s c && k.st != .stopped then wakeCore c n k w s else s
        | none => s)
    | none => s)

/-- A trap of a running program: an access fault is one only where the program may not make the access, and is a PMP fault or a
refused store as the address says (R157, R158, R197). -/
def programTrap (c n mcause addr : Nat) (s : State) : State :=
  if mcause ≠ mcFetchFault ∧ mcause ≠ mcLoadFault ∧ mcause ≠ mcStoreFault then trapCore c n .plain mcause addr s
  else
    match coreReach s c mcause addr with
    | .ok => s
    | .fetch => trapCore c n .plain mcause addr s
    | .pmp => trapCore c n .pmp mcause addr s
    | .refused => trapCore c n .storeRefused mcause addr s
    | .ring => trapCore c n .storeRefused mcause addr (logRingRefused (roodByte (clusterRood s c)) (addr % 2 ^ 48) s)

/-- CORE_TRAP (R197): any U-mode trap of a running program. Of which kind an access fault is, its cause and address say. -/
def execCoreTrap (c n : Nat) (_kind : TrapKind) (mcause addr : Nat) (s : State) : Answer :=
  .next (onCore c n (fun _ s => programTrap c n mcause addr s) s)

end Sys2Proof.Machine
end

