-- ==== Sys2Proof/Machine/Tun.lean ====
section
/-! DEFINITION. The Tun slice: pass start, init load, last product, spill (03 R67 to R90; 02 R58 to R61). -/
namespace Sys2Proof.Machine

/-- Ranges of a pass as device addresses of cluster c. -/
def ownRanges (c : Nat) (l : List (Nat × Nat)) : List (Nat × Nat) := l.map fun r => (scratchBase c + r.1, r.2)

/-- Ranges of the two operands (03 R71). -/
def tunOperandRanges (b : TunBody) : List (Nat × Nat) := tunOperandA b ++ tunOperandB b

/-- Row map entry of row i: none where the row takes no part (R87). -/
def rowGroup (map : List Byte) (i : Nat) : Option Nat :=
  let v := (map.getD i 0xFF).toNat
  if v = 0xFF then none else some v

/-- Whether a row map holds an entry other than 0xFF that is G or more (R87). -/
def rowMapBad (b : TunBody) (map : List Byte) : Bool := map.any fun v => v.toNat != 0xFF && 128 / b.width ≤ v.toNat

/-- The columns of row i that a pass writes (R78, R88). A pass with GATHER = OUT whose N is not 128 runs with its N columns
(log 63). -/
def tunCols (b : TunBody) (map : List Byte) (i : Nat) : List Nat :=
  if b.gather = 1 then
    match rowGroup map i with
    | none => []
    | some g => (List.range b.width).map (fun j => b.width * g + j) |>.filter (· < b.n)
  else List.range b.n

/-- Start pass d of cluster c in its FREE bank (R79, R87): a bad row map entry makes it malformed, at the offset of ROWMAP
(log 63). -/
def startPass (c d : Nat) (e : Desc) (b : TunBody) (s : State) : State :=
  if (bankOf s c b.bank).st != .free then s
  else
    let mapAt := scratchBase c + b.rowmap
    let go (map : List Byte) (s : State) : State :=
      let other := (bankOf s c (1 - b.bank)).st
      let st : BankState := if b.initLoad then .loading else .accumulating
      modBank c b.bank (fun k => { k with
        st := st, run := some d, rowmap := map, second := other == .loading || other == .accumulating }) (markStarted d e s)
    if b.gather = 0 then go [] s
    else
      match ringRead s mapAt 128 with
      | .stall => s
      | .poisoned st => finish d st 0 (dequeue (unitOf e) d (logPoison e.rood [(mapAt, 128)] s))
      | .ready =>
        let map := rdBytes s mapAt 128
        let s := markRead mapAt 128 s
        if rowMapBad b map then
          finish d Sts.protocolViolation 76 (logCluster c 0x0A (srcCore e.src) (packLe [(76, 1), (e.hdr.kind, 1)]) (dequeue (unitOf e) d s))
        else go map s

/-- The pass that runs in bank b of cluster c, with its body. -/
def passIn (s : State) (c b : Nat) : Option (Nat × Desc × TunBody) :=
  match (bankOf s c b).run with
  | none => none
  | some d =>
    match tfind d s.descs with
    | none => none
    | some e => match e.body with | .tun x => some (d, e, x) | _ => none

/-- End the pass in a bank with a status. Table 3.5 gives no state of the bank after a pass that ends early, on a POISONED line or
with its spill refused by an active ring: DESIGN CHOICE, it becomes FREE, with END = SPILL_KEEP too (log 63). -/
def dropPass (c b d st : Nat) (s : State) : State :=
  let s := modBank c (1 - b) (fun k => { k with second := false }) s
  finish d st 0 (modBank c b (fun _ => {}) s)

/-- The init load of bank b ends: M × N FP32 cells from INIT_ADDR at OUT_STRIDE (R80, R88). -/
def initLoad (c b : Nat) (s : State) : State :=
  match passIn s c b with
  | none => s
  | some (d, e, x) =>
    if (bankOf s c b).st != .loading || clusterPaused s c then s
    else
      let rs := ownRanges c [(x.initAddr, (x.m - 1) * x.outStride + 4 * tunOutCols x)]
      match ringReads s rs with
      | .stall => s
      | .poisoned st => dropPass c b d st (logPoison e.rood rs s)
      | .ready =>
        let map := (bankOf s c b).rowmap
        let base := scratchBase c + x.initAddr
        let s' := markReads rs s
        let load (i : Nat) (t : State) : State :=
          let cols := tunCols x map i
          forAll ((List.range cols.length).zip cols) (fun p => wrBytes (cellAt c b i p.2) (rdBytes s (base + i * x.outStride + 4 * p.1) 4)) t
        modBank c b (fun k => { k with st := .accumulating }) (forAll (List.range x.m) load s')

/-- A(i, ·) and B(j, ·) of cell (i, j) of a pass, in ascending k (R58, R78, R89). A pass with GATHER = IN whose K is not 128 runs
on the k that its B operand has (log 63). -/
def cellFactors (x : TunBody) (map : List Byte) (as bs : List (List Val)) (i j : Nat) : List (Val × Val) :=
  let a := as.getD i []
  let b := bs.getD j []
  if x.gather = 2 then
    match rowGroup map i with
    | none => []
    | some g => (a.take x.width).zip ((b.drop (x.width * g)).take x.width)
  else a.zip b

/-- The last product of the pass in bank b is applied: every cell takes its sum (R58, R67, R78, R88 to R90; log 14:
operands are read at this instant). -/
def lastProduct (c b : Nat) (s : State) : State :=
  match passIn s c b with
  | none => s
  | some (d, e, x) =>
    let bk := bankOf s c b
    if bk.st != .accumulating || bk.second || clusterPaused s c then s
    else
      let rs := ownRanges c (tunOperandRanges x)
      match ringReads s rs with
      | .stall => s
      | .poisoned st => dropPass c b d st (logPoison e.rood rs s)
      | .ready =>
        let base := scratchBase c
        let as := matrixVals s x.aFmt (base + x.aAddr) (base + x.aScale) x.aStride x.aTurn x.m (if x.gather = 2 then x.width else x.k)
        let bs := matrixVals s x.bFmt (base + x.bAddr) (base + x.bScale) x.bStride x.bTurn x.n x.k
        let cells := (List.range x.m).flatMap fun i => (tunCols x bk.rowmap i).map fun j =>
          let init := if x.initLoad then rdF32 s (cellAt c b i j) else 0#32
          let fs := cellFactors x bk.rowmap as bs i j
          let r := reduceProducts init fs
          (cellAt c b i j, r, f32Tally r (decodeF32 init :: fs.flatMap fun p => [p.1, p.2]))
        let s := markReads rs s
        let s := forAll cells (fun p => wrBytes p.1 (leBytes 4 p.2.1.toNat)) s
        let s := modBank c (1 - b) (fun k => { k with second := false }) s
        if x.endAct = 1 then
          finish d Sts.ok 0 (modBank c b (fun k => { k with st := .held, run := none, rowmap := [] }) s)
        else
          modBank c b (fun k => { k with st := .spilling })
            (countTally c (cells.foldl (fun t p => t.add p.2.2) {}) s)

/-- Rows of FP32 cells of bank b: row i and its columns. -/
def bankRows (s : State) (c b : Nat) (rows : List (Nat × List Nat)) : List (List F32) :=
  rows.map fun r => r.2.map fun j => rdF32 s (cellAt c b r.1 j)

/-- Writes of a Tun spill (R78, R80, R81, R88): rows marked 0xFF are not written. -/
def tunSpillWrites (s : State) (c b : Nat) (x : TunBody) (map : List Byte) : Writes × Tally :=
  let base := scratchBase c
  let draw := drawsOf x.outRnd x.seed x.step x.tensorId
  (List.range x.m).foldl (fun acc i =>
    let cols := tunCols x map i
    if cols.isEmpty then acc
    else
      let vs := cols.map fun j => rdF32 s (cellAt c b i j)
      let index (j : Nat) : Nat := (x.row0 + i) * x.tensorCols + x.col0 + cols.getD j 0
      let r := storeRow x.outFmt x.outRnd x.outScsel vs (fun j => draw (index j))
      let ss := sstride x.outFmt x.outStride
      (acc.1 ++ [(base + x.outAddr + i * x.outStride, r.1)] ++
        (if r.2.1.isEmpty then [] else [(base + x.outAddr + x.m * x.outStride + i * ss, padTo ss r.2.1)]), acc.2.add r.2.2)) ([], {})

/-- The spill of bank b ends: the tile is written, the pass completes, the bank becomes FREE or HELD (R79 to R81). -/
def spillDone (c b : Nat) (s : State) : State :=
  match passIn s c b with
  | none => s
  | some (d, e, x) =>
    if (bankOf s c b).st != .spilling || clusterPaused s c then s
    else
      let w := tunSpillWrites s c b x (bankOf s c b).rowmap
      match doWrites w.1 s with
      | none => dropPass c b d Sts.notPermitted (logRingRefused e.rood (scratchBase c + x.outAddr) s)
      | some t =>
        let t := countTally c w.2 t
        let t := modBank c b (fun _ => if x.endAct = 2 then { st := .held } else {}) t
        finish d Sts.ok 0 t

/-- The Tun pass at the head of cluster c's queue starts (R79, R87). -/
def execTunPassStart (c : Nat) (s : State) : Answer :=
  .next (match s.clusters[c]? with
    | none => s
    | some k =>
      match k.tunQueue.head? with
      | none => s
      | some d =>
        match tfind d s.descs with
        | none => s
        | some e => match e.body with | .tun x => if startReady s d e then startPass c d e x s else s | _ => s)

/-- The init load of bank b of cluster c ends (R80). -/
def execInitLoadDone (c b : Nat) (s : State) : Answer := .next (initLoad c b s)

/-- The pass in bank b applies its last product; the bank is HELD or SPILLING (R79). -/
def execTunLastProduct (c b : Nat) (s : State) : Answer := .next (lastProduct c b s)

/-- The spill of bank b of cluster c ends (R79, R81). -/
def execTunSpillDone (c b : Nat) (s : State) : Answer := .next (spillDone c b s)

end Sys2Proof.Machine
end

