-- ==== Sys2Proof/Machine/Submit.lean ====
section
/-! DEFINITION. Fetch of submission queues, starts, deadlines and completions of descriptors of every kind, combination
arms and K1 splits (06 R170 to R187, R193, R200 to R203; 05 R145; 13 R396, R397). -/
namespace Sys2Proof.Machine

/-! ### Fetch (R171, R172; 13 R396) -/

/-- A queue may be fetched now (R172). -/
def fetchable (s : State) (q : Queue) : Bool :=
  q.st == .active && roodActive s q.rood && q.producer != q.consumer && q.inflight < q.inflightMax &&
    dist 32 q.consumer q.cconsumer != 2 ^ q.logDepth

/-- The queues of slice i that may be fetched. -/
def sliceQueues (s : State) (k : Slice) : List Nat :=
  (s.queues.filter fun e => e.2.pid == k.pid && e.2.rood == k.rood && fetchable s e.2).map (·.1)

/-- Round robin over the queues of a slice (R172). -/
def nextOf (from_ : Nat) (qs : List Nat) : Option Nat :=
  match qs.find? fun q => from_ ≤ q with
  | some q => some q
  | none => qs.head?

/-- The slice whose turn it is: the current one while it has a fetchable queue and share left in the round, else the
next slice with a fetchable queue, which receives SHARE (13 R396). -/
def drrPick (s : State) : Option (Nat × Slice × Nat) :=
  let live := s.slices.filter fun e => !(sliceQueues s e.2).isEmpty
  match live.find? fun e => e.1 == s.drrNext && 0 < e.2.deficit with
  | some e => some (e.1, e.2, e.2.deficit)
  | none =>
    match live.find? fun e => s.drrNext < e.1 with
    | some e => some (e.1, e.2, e.2.share)
    | none => (live.head?).map fun e => (e.1, e.2, e.2.share)

/-- Fetch the next descriptor and take it in (R171, R172). -/
def fetchNext (s : State) : State :=
  if !runsWork s then s
  else
    match drrPick s with
    | none => s
    | some (i, k, left) =>
      match nextOf k.nextQueue (sliceQueues s k) with
      | none => s
      | some q =>
        match tfind q s.queues with
        | none => s
        | some u =>
          let depth := 2 ^ u.logDepth
          let bs := rdBytes s (u.ring + 128 * (u.consumer % depth)) 128
          let s := { s with
            slices := tmod i (fun v => { v with deficit := left - 1, nextQueue := q + 1 })
              (s.slices.map fun e => if e.1 = s.drrNext then (e.1, { e.2 with deficit := 0 }) else e)
            drrNext := i }
          let seq := u.consumer
          let s := modQueue q (fun v => { v with consumer := (v.consumer + 1) % 2 ^ 32, inflight := v.inflight + 1 }) s
          takeDesc (.queue q) seq u.pid i u.rood depth bs s

/-! ### Combination arms (05 R145; R183) -/

/-- Start COMB_ARM descriptor d on cluster c: an entry that is not FREE makes it malformed. -/
def startComb (c d : Nat) (e : Desc) (b : CombBody) (s : State) : State :=
  if !startReady s d e then s
  else if !combFree s c b.entry then
    finish d Sts.protocolViolation 32 (logCluster c 0x0A (srcCore e.src) (packLe [(32, 1), (e.hdr.kind, 1)]) s)
  else
    let v : Comb := { desc := d, s := b.s, slotBase := b.slotBase, slotStride := b.slotStride, tileBytes := b.tileBytes,
                      dest := b.dest, dlRod := b.dlRod, dlEra := b.dlEra, core := srcCore e.src % 4,
                      sum := if b.sumEn then some b.sumSlot else none, rood := e.rood }
    drainEarly c b.entry (armEntry c b.entry v (markStarted d e s))

/-! ### K1 splits (R200 to R203) -/

/-- The local product of a split as a Firkin pass: forward, no init (R201). -/
def k1Pass (c : Nat) (x : K1Body) : FirkinBody where
  wAddr := x.wAddr
  wFmt := x.wFmt
  bwd := false
  initLoad := false
  engine := 0
  b := x.b
  j := x.j
  kp := x.kp
  wStride := x.wStride
  xAddr := scratchBase c + x.xAddr
  xFmt := x.xFmt
  xScale := scratchBase c + x.xScale
  xStride := x.xStride
  initAddr := 0
  shard := 0
  shards := 1
  outStride := x.outStride
  outAddr := scratchBase c + x.outAddr

/-- Columns [lo, hi) of a product with J columns, row after row. -/
def blockVals (x : K1Body) (acc : List F32) (lo hi : Nat) : List F32 :=
  (List.range x.b).flatMap fun i => ((acc.drop (i * x.j + lo)).take (hi - lo))

/-- Bytes of a block as sent: a multiple of 64 (11 R344). -/
def blockBytes (n : Nat) : Nat := (4 * n + 63) / 64 * 64

/-- The product of a split is formed: the entry is armed, this module's own block is resident, and the others go to their
owners (R201). DESIGN CHOICE: a partial names on its peer this module's own TARGET cluster; R202 lists no TARGET among what the
modules' descriptors have in common, and nothing else names the peer's cluster (log 63). -/
def k1Exchange (c d : Nat) (e : Desc) (x : K1Body) (acc : List F32) (s : State) : State :=
  let span (q : Nat) : Nat × Nat := if x.gather then (0, x.j) else k1Block x q
  let own := span x.myshard
  let tile := blockBytes (x.b * (own.2 - own.1))
  let dl := (deadlineRod e).getD 0
  let stage := k1Stage d
  let v : Comb := { desc := d, s := x.p, slotBase := stage - scratchBase c, slotStride := 2 ^ 25, tileBytes := tile,
                    dest := x.outAddr, dlRod := dl % 2 ^ 48, dlEra := dl / 2 ^ 48, core := srcCore e.src % 4, rood := e.rood }
  let s := armEntry c x.combEntry v s
  let s := wrBytes (stage + x.myshard * 2 ^ 25) (f32Bytes (blockVals x acc own.1 own.2)) s
  let s := modCluster c (fun k => { k with notices := k.notices ++
    [⟨x.combEntry, x.myshard, x.p, tile, s.time.now, e.rood, false⟩] }) s
  let s := forAll ((List.range x.p).filter fun q => q != x.myshard) (fun q t =>
    let sp := span q
    let bs := f32Bytes (blockVals x acc sp.1 sp.2)
    let n := blockBytes (x.b * (sp.2 - sp.1))
    let src := stage + 2 ^ 28 + q * 2 ^ 25
    if n = 0 then t
    else openXfer d e.rood
      { op := 2, ordered := false, signal := false, noDetour := false, dstRood := e.rood, dst := x.peers.getD q 0,
        signalCtr := 0, localAddr := src, remoteAddr := 0, bytes := n, cluster := c, entry := x.combEntry,
        shard := x.myshard, target := 0, s := x.p, bind := 0, dlRod := dl % 2 ^ 48, dlEra := dl / 2 ^ 48 }
      (wrBytes src bs t)) s
  if tile = 0 then endComb c x.combEntry Sts.ok 0 s else drainEarly c x.combEntry s

/-- Row j of a panel that lies in no region with metadata, its MX blocks with the scales given, eight bits each: nothing names
the place of such scales (log 68). -/
def plainRow (s : State) (x : FirkinBody) (scales j : Nat) : List Val :=
  let nb := (x.kp + 31) / 32
  let a := x.wAddr + j * x.wStride
  if isMx x.wFmt then
    let bs := rdBytes s a (packedBytes x.wFmt (32 * nb))
    (List.range x.kp).map fun i => scaled (decodeElem x.wFmt (unpackElem x.wFmt bs i)) (bits scales (8 * (j * nb + i / 32)) 8)
  else rowVals s x.wFmt a 0 x.kp

/-- The terms of a split's product over a panel that no bushel holds; the scales of an MX panel are free (log 68). -/
def plainTerms (s : State) (f : FirkinBody) : List (F32 × List (Val × Val)) × State :=
  let v := if isMx f.wFmt then fresh (8 * (f.j * ((f.kp + 31) / 32))) s else (0, s)
  (productTerms s f ((List.range f.j).map (plainRow s f v.1)), v.2)

/-- The terms of a split's product, with the state after any free scales are drawn. -/
def k1Terms (s : State) (f : FirkinBody) : List (F32 × List (Val × Val)) × State :=
  match regionAt s f.wAddr with
  | some g => if g.kind ≠ 1 then (firkinTerms s g f, s) else plainTerms s f
  | none => plainTerms s f

/-- The stack whose engines form a split's product: W lies in a LOCKED range that the rood may read (R201). -/
def k1Engines (s : State) (r : Nat) (x : K1Body) : Option Nat :=
  match lockAt s (k1Panel x).1 (k1Panel x).2 with
  | some (t, _, l) => if l.st = .locked ∧ l.readers.testBit r then some t else none
  | none => none

/-- Rows of W in the panel of engine e: the split gives each engine of the stack a quarter (R201; log 63). -/
def k1Panels (j e : Nat) : Nat × Nat := (j * e / 4, j * (e + 1) / 4)

/-- Engine e of stack t has formed its panel of a split's product: the stack counts its multiply-accumulates, or, in FALLBACK, the
clusters of its set the elements that they formed (04 R122, R130). -/
def countPanel (t e : Nat) (f : FirkinBody) (ts : List (F32 × List (Val × Val))) (s : State) : State :=
  let p := k1Panels f.j e
  let x := { f with j := p.2 - p.1 }
  match s.stks[t]? with
  | none => s
  | some k =>
    match k.engines[e]? with
    | none => s
    | some g =>
      let s := modEngine t e (fun g => { g with passes := satInc 64 g.passes }) s
      if g.mode = .fallback then
        countFallback (fallbackSet s t e) x ((List.range f.b).flatMap fun i => (ts.drop (i * f.j + p.1)).take x.j) s
      else modStack t (fun k => { k with macs := k.macs + firkinMacs x }) s

/-- The counters of a split's product: a pass of each engine of stack t, or the Tun slice of cluster c (R201; 04 R130; 05 R160). -/
def countK1 (c : Nat) (t : Option Nat) (f : FirkinBody) (ts : List (F32 × List (Val × Val))) (s : State) : State :=
  match t with
  | some t => forAll (List.range 4) (fun e => countPanel t e f ts) s
  | none => countTally c (tallyTerms ts) s

/-- Start K1_SPLIT descriptor d on cluster c (R200, R201). -/
def startK1 (c d : Nat) (e : Desc) (x : K1Body) (s : State) : State :=
  if !startReady s d e then s
  else if !combFree s c x.combEntry then
    finish d Sts.protocolViolation 49 (logMalformed e.hdr.kind 49 e.rood e.seq e.body e.src (some c) 0 s)
  else
    let f := k1Pass c x
    let go (bad stall : Bool) (rs : List (Nat × Nat)) : State :=
      match ringReads s rs with
      | .stall => s
      | .poisoned st => finish d st 0 (markStarted d e (logPoison e.rood rs s))
      | .ready =>
        if bad then finish d Sts.uncorrectable 0 (markStarted d e s)
        else if stall then s
        else
          let p := k1Terms s f
          k1Exchange c d e x (sumTerms p.1) (countK1 c (k1Engines s e.rood x) f p.1 (markReads rs (markStarted d e p.2)))
    match placeOf x.wAddr 1 with
    | .stk t _ =>
      let k := s.stks.getD t {}
      let bl := panelBushels f
      go (bl.any k.bad.contains) (bl.any fun b => (tfind b k.errs).isSome) (firkinInputs f)
    | .scratch _ _ => go false false (k1Panel x :: firkinInputs f)
    | .bank k off => go false (bankRead s k off (k1Panel x).2).isNone (firkinInputs f)
    | _ => finish d Sts.notPermitted 0 s

/-! ### Starts -/

/-- SYNC completes as soon as nothing holds it (R193). -/
def startSync (d : Nat) (e : Desc) (s : State) : State :=
  if startReady s d e then finish d Sts.ok 0 (markStarted d e s) else s

/-- Start descriptor d on its unit if everything allows it. -/
def startByKind (d : Nat) (e : Desc) (s : State) : State :=
  let c := (descCluster e).getD 0
  match e.body with
  | .run b => startRun d e b s
  | .tun b => if startReady s d e then startPass c d e b s else s
  | .gill _ =>
    (match gillPick s c with
      | some (n, d', e') => if d' = d then startGill c n d e' s else s
      | none => s)
  | .firkin x =>
    (match placeOf x.wAddr 1 with
      | .stk t _ =>
        (match s.stks[t]? with
          | some k => if (k.engines[x.engine]?.map (·.queue.head?)) = some (some d) then runPass t x.engine s else s
          | none => s)
      | _ => s)
  | .comb b => startComb c d e b s
  | .stream b => if startReady s d e then startStream d e b s else s
  | .xfer b => startXfer d e b s
  | .sync => startSync d e s
  | .k1 x => startK1 c d e x s
  | .unknown => s

/-- DESCRIPTOR_START: d starts (R174 to R182); a failed dependency squashes it (R176, R177); a started descriptor that
meets a rod not of its class overruns (R181). -/
def startDesc (d : Nat) (s : State) : State :=
  match tfind d s.descs with
  | none => s
  | some e =>
    if e.stage = .started then (if e.result.isSome then s else overrunCheck d (rodCount s) s)
    else
      let s := squashIfFailed d s
      match tfind d s.descs with
      | some e => if e.result.isSome then s else startByKind d e s
      | none => s

/-- Start descriptor d if its body satisfies p. -/
def startIf (p : Body → Bool) (d : Nat) (s : State) : State :=
  match tfind d s.descs with
  | some e => if p e.body then startByKind d e s else s
  | none => s

/-! ### Deadlines and completions -/

/-- A deadline acts on a descriptor that has not started, and on an XFER whose transfer has no answer (R182; 11 R357). -/
def timesOut (e : Desc) : Bool := e.stage != .started || (match e.body with | .xfer _ => true | _ => false)

/-- The deadline rod of d has ended and it still waits: its timeout is raised (R182; 10 R323). -/
def raiseTimeout (d : Nat) (s : State) : State :=
  match tfind d s.descs with
  | none => s
  | some e =>
    match deadlineRod e with
    | none => s
    | some r =>
      if timesOut e ∧ e.result = none ∧ deadlineStamp s r < s.time.now then
        modDesc d (fun e => { e with raised := some (deadlineStamp s r) }) s
      else s

/-- The timeout of d becomes final after the settle interval (10 R323). -/
def settleDesc (d : Nat) (s : State) : State :=
  match tfind d s.descs with
  | none => s
  | some e =>
    match e.raised with
    | some t =>
      if timesOut e ∧ e.result = none ∧ settled s t then
        finish d Sts.timeout 0 (modFab (fun f => { f with xfers := f.xfers.filter fun x => x.2.desc != d }) s)
      else s
    | none => s

/-! ### The switch between slices (13 R397) -/

/-- Cluster c is scrubbed for the held descriptor d of another slice. -/
def sliceSwitch (c d : Nat) (s : State) : State :=
  match tfind d s.descs, s.clusters[c]? with
  | some e, some k =>
    match k.served with
    | none => s
    | some v =>
      let busy := s.descs.any fun x => !x.2.held && x.2.slice == v && names c x.2
      if !e.held || !(clustersNamed e.body (descCluster e)).contains c || !needsSwitch s e c || busy ||
          !k.cores.all (fun q => q.st == .idle) then s
      else
        let s := logEv Blk.sec 0x05 e.rood (packLe [(c, 1), (e.slice, 2)]) (scrubCluster c s)
        modCluster c (fun k => { k with served := some e.slice }) s
  | _, _ => s

/-! ### Meanings -/

/-- SUBMISSION_FETCH (R172). -/
def execSubmissionFetch (s : State) : Answer := .next (fetchNext s)
/-- DISPATCH (R174). -/
def execDispatch (d : Nat) (s : State) : Answer := .next (dispatchDesc d s)
/-- DESCRIPTOR_START (R179). -/
def execDescriptorStart (d : Nat) (s : State) : Answer := .next (startDesc d s)
/-- DEADLINE_TIMEOUT (R182). -/
def execDeadlineTimeout (d : Nat) (s : State) : Answer := .next (raiseTimeout d s)
/-- DESCRIPTOR_COMPLETE (R184). -/
def execDescriptorComplete (d : Nat) (s : State) : Answer := .next (tryComplete d s)
/-- TUN_PASS (R188): the descriptor goes to the Tun slice's queue. -/
def execTunPass (d : Nat) (s : State) : Answer :=
  .next (match tfind d s.descs with
    | some e => (match e.body with | .tun _ => dispatchDesc d s | _ => s)
    | none => s)
/-- FIRKIN_PASS (R189; 04 R110): the engine accepts the descriptor or refuses it. -/
def execFirkinPass (d : Nat) (s : State) : Answer :=
  .next (match tfind d s.descs with
    | some e => (match e.body with | .firkin _ => dispatchDesc d s | _ => s)
    | none => s)
/-- COMB_ARM (05 R145). -/
def execCombArm (d : Nat) (s : State) : Answer := .next (startIf (fun b => match b with | .comb _ => true | _ => false) d s)
/-- SYNC (R193). -/
def execSync (d : Nat) (s : State) : Answer := .next (startIf (fun b => match b with | .sync => true | _ => false) d s)
/-- K1_SPLIT (R200, R201). -/
def execK1Split (d : Nat) (s : State) : Answer := .next (startIf (fun b => match b with | .k1 _ => true | _ => false) d s)
/-- SLICE_SCRUB (13 R397). -/
def execSliceScrub (c d : Nat) (s : State) : Answer := .next (sliceSwitch c d s)

end Sys2Proof.Machine
end

