-- ==== Sys2Proof/Machine/Net.lean ====
section
/-! DEFINITION. What arrives from the network: interfaces, packets and their checks, regions, doorbells, scoring requests,
verdicts, acknowledgements, store reads (12 R361 to R380; 10 R323). -/
namespace Sys2Proof.Machine

/-! ### Interfaces -/

/-- The interfaces are in use: the module has started and is not in P4 (15 R444; 16 R473). -/
def ethOn (s : State) : Bool := s.boot.ready && s.fwc.pstate < 4

def modIf (i : Nat) (f : Iface → Iface) (s : State) : State := modEth (fun e => { e with ifs := e.ifs.modify i f }) s

/-- Interface i comes up. -/
def ifUp (i : Nat) (s : State) : State :=
  match s.eth.ifs[i]? with
  | none => s
  | some k => if k.st = 1 ∨ !ifExists s i then s else logEth 0x01 noRood (packLe [(i, 1)]) (modIf i (fun k => { k with st := 1 }) s)

/-- The status of a store read whose queue pair entered ERROR for a cause (07 Table 7.14; R368, R380). -/
def storeStatus (cause : Nat) : Nat := if cause = Sts.keyRevoked ∨ cause = Sts.quarantined then cause else Sts.storeReadFailed

/-- The streams that read through queue pair q fail with it. -/
def storeLost (q st : Nat) (s : State) : State :=
  forAll ((s.streams.ctx.filter fun e => e.2.body.srcTier == 3 && e.2.body.storeQp == q).map (·.1))
    (fun x => endStream x st) s

/-- Queue pair q enters ERROR, and its streams fail. -/
def qpFail (q st : Nat) (s : State) : State :=
  match qpOf s q with
  | none => s
  | some k => if k.st = .rts then storeLost q (storeStatus st) (qpError q st s) else s

/-- Interface i goes down: every queue pair with a packet unacknowledged on it enters ERROR (R377). -/
def ifDown (i : Nat) (s : State) : State :=
  match s.eth.ifs[i]? with
  | none => s
  | some k =>
    if k.st ≠ 1 then s
    else
      let s := modIf i (fun k => { k with st := 0, downs := satInc 16 k.downs }) s
      let s := raiseEth 4 (logEth 0x02 noRood (packLe [(i, 1)]) s)
      forAll ((s.eth.qps.filter fun e => e.2.iface == i && !e.2.unacked.isEmpty).map (·.1)) (fun q => qpFail q Sts.linkDown) s

/-! ### Packets (R363, R366 to R368, Table 12.10) -/

/-- Streams of the queue pairs that a violation put into ERROR. -/
def failStores (s : State) : State :=
  forAll ((s.eth.qps.filter fun e => e.2.st == .error).map fun e => (e.1, e.2.cause)) (fun e => storeLost e.1 (storeStatus e.2)) s

/-- A violation of a partner by address. -/
def violates (row iface ip rood : Nat) (s : State) : State := failStores (violation row iface ip rood s)

/-- NAK, count, and ERROR. -/
def nakAndFail (q code row : Nat) (s : State) : State := failStores (nakQp q code row s)

/-- The inbound association of an SPI. -/
def saBySpi (s : State) (spi : Nat) : Option (Nat × Sa) := s.eth.sas.find? fun e => e.2.inbound && e.2.spi == spi

/-- A sequence number is new: right of the window, or within its 1,024 and not seen (Table 12.4). -/
def seqFresh (high window n : Nat) : Bool := n != 0 && (high < n || (high < n + 1024 && !window.testBit (high - n)))

/-- The window after a sequence number: its right edge and its bits, bit b standing for high − b. -/
def windowAfter (high window n : Nat) : Nat × Nat :=
  if high < n then (n, (window * 2 ^ (min (n - high) 1024) + 1) % 2 ^ 1024) else (high, setBit window (high - n))

/-- Note a sequence number of an association. -/
def noteSeq (n : Nat) (a : Sa) : Sa :=
  { a with high := (windowAfter a.high a.window n).1, window := (windowAfter a.high a.window n).2 }

/-- A packet under a tombstone: dropped and counted, the first one logged (R368). -/
def lateArrival (i : Nat) (a : Sa) (s : State) : State :=
  let s := raiseEth 3 (modEth (fun e => { e with late := satInc 16 e.late }) s)
  if a.lateLogged then s
  else
    logEth 0x08 a.rood (packLe [(a.spi, 4)])
      (modEth (fun e => { e with sas := tmod i (fun a => { a with lateLogged := true }) e.sas }) s)

/-- Operations that a queue pair of each role takes: CLIENT all, STORE and MGMT only their own (Table 12.3). -/
def roleTakes (role : Nat) (o : RoceOp) : Bool :=
  match o with
  | .ack | .nak | .rnr | .cnp => true
  | .write | .writeImm | .read => role == 0
  | .send => role == 0 || role == 2
  | .readResp => role == 1
  | .unsupported => false

/-- A packet marked CE on queue pair q: a congestion notification, at most one per 50 µs (R363). -/
def congested (q : Nat) (k : Qp) (s : State) : State :=
  let due := match k.lastCnpSent with | none => true | some t => t + 50 * usTicks ≤ s.time.now
  if ecnOn s k.iface && due then
    qpSend q (.cnp q) (modEth (fun e => { e with cnpTx := (e.cnpTx + 1) % 2 ^ 32 })
      (modQp q (fun k => { k with lastCnpSent := some s.time.now }) s))
  else s

/-- A request packet; the others are answers. -/
def isRequestOp (o : RoceOp) : Bool :=
  match o with
  | .write | .writeImm | .read | .send | .unsupported => true
  | .readResp | .ack | .nak | .rnr | .cnp => false

/-- The packet goes on with the message under way, or begins one where none is (Table 12.10). -/
def inSequence (k : Qp) (p : EspPacket) : Bool :=
  match p.part with
  | .only | .first => k.inMsg.isNone
  | .middle => k.inMsg == some p.op
  | .last => k.inMsg == some p.op || (p.op == .writeImm && k.inMsg == some .write)

/-- A request packet that R364 does not support: opcode, length, sequence, READs beyond MAX_RD (Table 12.10). -/
def badRequest (k : Qp) (p : EspPacket) : Bool :=
  p.op == .unsupported || (p.op != .read && 4096 < p.payload) || !inSequence k p || (p.op == .read && k.maxRd ≤ k.rdIn.length)

/-- A request packet in order takes its PSNs; data is acknowledged, a READ waits for its answer (R364). -/
def takeRequest (q : Nat) (p : EspPacket) (s : State) : State :=
  let n := if p.op = .read then packetsOf p.payload else 1
  let s := modQp q (fun k => { k with
    nextRq := (k.nextRq + n) % 2 ^ 24
    inMsg := match p.part with | .first | .middle => some p.op | .only | .last => none
    rdIn := if p.op = .read then k.rdIn ++ [p.psn] else k.rdIn }) s
  if p.op = .read then s else qpSend q (.ack q p.psn) s

/-- A request packet on queue pair q. A gap or a duplicate is ordinary loss: NAK PSN Sequence Error, or the acknowledgement again (R379). -/
def requestPacket (q : Nat) (k : Qp) (p : EspPacket) (s : State) : State :=
  if p.psn % 2 ^ 24 ≠ k.nextRq then
    if after 24 p.psn k.nextRq then qpSend q (.nak q 0) s else qpSend q (.ack q ((k.nextRq + 2 ^ 24 - 1) % 2 ^ 24)) s
  else if badRequest k p then nakAndFail q 1 8 s
  else if !roleTakes k.role p.op then nakAndFail q 2 9 s
  else takeRequest q p s

/-- An authenticated packet meets its queue pair (R367, R379). -/
def deliver (p : EspPacket) (i : Nat) (a : Sa) (s : State) : State :=
  if !p.transportRC then violates 6 p.iface p.srcIp a.rood s
  else
    let q := p.qpn - 0x10000
    match if p.qpn < 0x10000 then none else qpOf s q with
    | none => violates 5 p.iface p.srcIp a.rood s
    | some k =>
      if k.st ≠ .rts ∨ k.saIn ≠ i ∨ k.ip ≠ p.srcIp ∨ k.rood ≠ a.rood then violates 5 p.iface p.srcIp a.rood s
      else if !p.icrcOk then violates 7 p.iface p.srcIp a.rood s
      else
        let s := if p.ce then congested q k s else s
        if isRequestOp p.op then requestPacket q k p s
        else if !roleTakes k.role p.op then nakAndFail q 2 9 s
        else s

/-- Count received bytes. -/
def countRx (i n : Nat) (s : State) : State := modIf i (fun k => { k with rx := satAdd 64 k.rx n }) s

/-- An inbound packet: quarantine, encapsulation, association, ICV, replay, and then its queue pair. -/
def receivePacket (p : EspPacket) (s : State) : State :=
  let s := countRx p.iface p.bytes s
  if isQuarantined s p.iface p.srcIp then s
  else if !p.esp ∨ p.fragment then violates 4 p.iface p.srcIp noRood s
  else
    match saBySpi s p.spi with
    | none =>
      if s.time.now < s.eth.graceUntil then raiseEth 3 (modEth (fun e => { e with late := satInc 16 e.late }) s)
      else violates 2 p.iface p.srcIp noRood (modEth (fun e => { e with unknownSpi := satInc 16 e.unknownSpi }) s)
    | some (i, a) =>
      if a.st = .tombstone then lateArrival i a s
      else if !p.icvOk then violates 1 p.iface p.srcIp a.rood (modEth (fun e => { e with icv := satInc 16 e.icv }) s)
      else if !seqFresh a.high a.window p.seq then
        violates 3 p.iface p.srcIp a.rood (modEth (fun e => { e with replay := satInc 16 e.replay }) s)
      else deliver p i a (modEth (fun e => { e with sas := tmod i (noteSeq p.seq) e.sas }) s)

/-- The quarantine of a partner ends (R380). -/
def endQuarantine (iface ip : Nat) (s : State) : State :=
  match s.eth.quarantined.find? fun e => e.1 == iface && e.2.1 == ip with
  | none => s
  | some e =>
    if s.time.now < e.2.2 then s
    else
      logEth 0x05 noRood (ip % 2 ^ 64) (modEth (fun k => { k with
        quarantined := k.quarantined.erase e
        partners := k.partners.filter fun p => !(p.iface == iface && p.ip == ip) }) s)

/-! ### Placement (R369, R370) -/

/-- An exposed region grants an access of n bytes at addr to queue pair k by RKEY. -/
def exposes (s : State) (k : Qp) (rkey addr n : Nat) (write : Bool) : Option Exposed :=
  match tfind (rkey % 4096) s.eth.xrs with
  | none => none
  | some x =>
    if x.tag = rkey / 4096 ∧ x.pid = k.pid ∧ x.rood = k.rood ∧ x.start ≤ addr ∧ addr + n ≤ x.start + x.len ∧
        (if write then x.write else x.read) then some x else none

/-- Queue pair q takes messages of its role: it is in RTS with its inbound association live (R365, R367, R368). -/
def takes (s : State) (q : Nat) (p : Qp → Bool) : Option Qp :=
  match qpOf s q with
  | none => none
  | some k => if k.st = .rts ∧ saLive s k.saIn true k.rood ∧ !isQuarantined s k.iface k.ip ∧ p k then some k else none

/-- Place the data of an RDMA WRITE: a range that its RKEY does not grant is answered with Remote Access Error. -/
def placeRdma (q : Nat) (k : Qp) (addr rkey : Nat) (data : List Byte) (s : State) : Option (Exposed × State) × State :=
  match exposes s k rkey addr data.length true with
  | none => (none, nakAndFail q 2 9 s)
  | some x =>
    let c := writeCheck s .network addr data.length
    if data.length = 0 ∨ c = .ok then (some (x, wrBytes addr data s), s)
    else (none, nakAndFail q 2 9 (logRefused c addr k.rood s))

/-- RDMA_WRITE. -/
def rdmaWrite (q addr rkey : Nat) (data : List Byte) (s : State) : State :=
  match takes s q (fun k => k.role == 0) with
  | none => s
  | some k =>
    match placeRdma q k addr rkey data s with
    | (some (_, t), _) => t
    | (none, t) => t

/-- RDMA_READ: the bytes go back, or the access is refused. -/
def rdmaRead (q addr rkey len : Nat) (s : State) : State :=
  match takes s q (fun k => k.role == 0) with
  | none => s
  | some k =>
    match exposes s k rkey addr len false with
    | none => nakAndFail q 2 9 s
    | some _ =>
      match localRead s addr len with
      | .got bs => modQp q (fun k => { k with rdIn := k.rdIn.drop 1 }) (qpSend q (.readResp q bs) s)
      | _ => nakAndFail q 2 9 s

/-- DOORBELL: the eight bytes are placed, then PRODUCER and CCONSUMER of the queue take them (Table 12.5). -/
def ringDoorbell (q imm addr rkey : Nat) (data : List Byte) (s : State) : State :=
  match takes s q (fun k => k.role == 0) with
  | none => s
  | some k =>
    match placeRdma q k addr rkey data s with
    | (none, t) => t
    | (some (x, t), _) =>
      let id := imm % 4096
      match tfind id t.queues with
      | none => violates 10 k.iface k.ip k.rood t
      | some v =>
        if bits imm 30 2 ≠ 1 ∨ bits imm 12 18 ≠ 0 ∨ data.length ≠ 8 ∨ !x.doorbell ∨ addr ≠ x.start + 8 * id ∨
            v.pid ≠ k.pid ∨ v.rood ≠ k.rood then violates 10 k.iface k.ip k.rood t
        else modQueue id (fun v => { v with producer := field data 0 4, cconsumer := field data 4 4 }) t

/-! ### Region messages (R371) -/

/-- A region message is well formed (Table 12.6). -/
def regionFormed (op : Nat) (m : List Byte) : Bool :=
  let len := field m 16 4
  m.length == 64 && field m 0 1 == op && field m 1 1 < 2 && field m 2 2 < 64 && field m 24 40 == 0 &&
    (op != 1 || (64 ≤ len && len ≤ 2 ^ 31))

/-- A malformed region message. -/
def badRegion (q : Nat) (m : List Byte) (k : Qp) (s : State) : State :=
  violates 12 k.iface k.ip k.rood (regionReply q (field m 0 1) Sts.protocolViolation (field m 2 2) (field m 4 4) s)

/-- REGISTER. -/
def registerRegion (q : Nat) (m : List Byte) (s : State) : State :=
  match takes s q (fun k => k.role == 0) with
  | none => s
  | some k =>
    if !regionFormed 1 m then badRegion q m k s
    else
      let h := field m 2 2
      let reply (st : Nat) := regionReply q 1 st h (field m 4 4)
      if (tfind h k.regions).isSome ∧ namesHandle s q h then reply Sts.regionInvalid s
      else
        let g : ClientRegion := ⟨field m 8 8, field m 16 4, field m 20 4, bit (field m 1 1) 0, none⟩
        reply Sts.ok (modQp q (fun k => { k with regions := tset h g k.regions }) s)

/-- DEREGISTER: DEFERRED while outstanding requests name the handle. -/
def deregisterRegion (q : Nat) (m : List Byte) (s : State) : State :=
  match takes s q (fun k => k.role == 0) with
  | none => s
  | some k =>
    if !regionFormed 2 m then badRegion q m k s
    else
      let h := field m 2 2
      let reply (st : Nat) := regionReply q 2 st h (field m 4 4)
      match tfind h k.regions with
      | none => reply Sts.regionInvalid s
      | some g =>
        if g.leaving.isSome then reply Sts.regionInvalid s
        else if namesHandle s q h then
          reply Sts.deferred (modQp q (fun k => { k with
            regions := tmod h (fun g => { g with leaving := some (field m 4 4) }) k.regions }) s)
        else reply Sts.ok (modQp q (fun k => { k with regions := tdel h k.regions }) s)

/-! ### Scoring requests (R372, R373) -/

/-- A request header is well formed (Table 12.7; 08 Table 8.9). -/
def headerFormed (bs : List Byte) : Bool :=
  let rows := field bs 2 2
  let rowBytes := field bs 4 4
  field bs 0 1 == 1 && field bs 1 1 < 2 && 1 ≤ rows && rows ≤ 128 && rowBytes % 64 == 0 && 64 ≤ rowBytes && rowBytes ≤ 2 ^ 20 &&
    field bs 12 2 < 64 && field bs 14 2 < 64 && field bs 32 8 % 32 == 0 && field bs 40 24 == 0

/-- Row references: adapter, version, PIN, NONE. -/
def rowRefs (bs : List Byte) (n : Nat) : List (Nat × Nat × Bool × Bool) :=
  (List.range n).map fun i =>
    (field bs (16 * i) 8, field bs (16 * i + 8) 4, bit (field bs (16 * i + 12) 1) 0, bit (field bs (16 * i + 12) 1) 1)

/-- Reserved bits of the row references are zero. -/
def refsFormed (bs : List Byte) (n : Nat) : Bool :=
  (List.range n).all fun i => field bs (16 * i + 12) 1 < 4 && field bs (16 * i + 13) 3 == 0

/-- Bytes of a request record. -/
def recordLen (rows rowBytes : Nat) : Nat := 64 + 64 * ((rows + 3) / 4) + rows * rowBytes

/-- A handle that may be used by a request: registered and not being deregistered. -/
def handleOk (g : Option ClientRegion) : Bool := match g with | some g => g.leaving.isNone | none => false

/-- The request of a record with its REQUEST_SEQ. -/
def requestOf (s : State) (q : Nat) (k : Qp) (seq slice : Nat) (bs : List Byte) (a : Nat) : Request where
  st := .waiting
  rood := k.rood
  pid := k.pid
  slice := slice
  q := q
  seq := seq
  clientTag := field bs 8 4
  arrival := s.time.now
  refs := rowRefs (rdBytes s (a + 64) (64 * ((field bs 2 2 + 3) / 4))) (field bs 2 2)
  deadline := field bs 16 8
  outH := field bs 12 2 % 64
  cplH := field bs 14 2 % 64
  outOff := field bs 24 8
  cplOff := field bs 32 8
  trainKeep := bit (field bs 1 1) 0
  recAddr := a
  recLen := recordLen (field bs 2 2) (field bs 4 4)

/-- A SCORE immediate of queue pair q takes its REQUEST_SEQ (R373). -/
def takeSeq (q : Nat) (s : State) : State := modQp q (fun k => { k with reqSeq := (k.reqSeq + 1) % 2 ^ 32 }) s

/-- Checks of R373 in order, on a record at address a. A request that passes waits for its admission, which takes the requests of one
stamp in the order of 08 R269 (log 73). -/
def checkRequest (q : Nat) (k : Qp) (a : Nat) (s : State) : State :=
  let bs := rdBytes s a 64
  let seq := k.reqSeq
  let s := takeSeq q s
  let slice := s.slices.find? fun e => e.2.pid == k.pid && e.2.rood == k.rood
  let verdict := match slice with | some e => e.2.verdictBytes | none => 0
  let rows := field bs 2 2
  let r := requestOf s q k seq (match slice with | some e => e.1 | none => 0) bs a
  match clientRegion s q r.cplH with
  | none =>
    violates 11 k.iface k.ip k.rood (raiseEth 7 (logEth 0x0D k.rood (packLe [(qpn q, 3), (0, 1), (seq, 4)]) s))
  | some c =>
    if c.len < r.cplOff + 32 then
      violates 11 k.iface k.ip k.rood (raiseEth 7 (logEth 0x0D k.rood (packLe [(qpn q, 3), (0, 1), (seq, 4)]) s))
    else if !headerFormed bs ∨ !refsFormed (rdBytes s (a + 64) (16 * min rows 128)) (min rows 128) then
      violates 11 k.iface k.ip k.rood (sendRecord none r s.time.now Sts.protocolViolation 0 0 none s)
    else
      let out := clientRegion s q r.outH
      let short : Bool := match out with | some g => g.len < r.outOff + rows * verdict | none => true
      let wide : Bool := match slice with | some e => e.2.batchRows < rows | none => false
      if !handleOk out ∨ !handleOk (some c) ∨ short then sendRecord none r s.time.now Sts.regionInvalid 0 0 none s
      else if 256 ≤ (qpRequests s q).length ∨ wide then
        sendRecord none r s.time.now Sts.refusedCapacity 0 0 none s
      else
        let h := s.nextReq
        { s with requests := tset h r s.requests, nextReq := h + 1 }

/-- SCORE: the immediate names a record that lies wholly in the queue pair's INPUT region (Table 12.5). -/
def scoreImm (q imm : Nat) (s : State) : State :=
  match takes s q (fun k => k.role == 0) with
  | none => s
  | some k =>
    if bits imm 30 2 ≠ 0 then violates 10 k.iface k.ip k.rood s
    else
    match tfind k.input s.eth.xrs with
    | none => violates 10 k.iface k.ip k.rood (takeSeq q s)
    | some x =>
      let off := 64 * bits imm 0 30
      let bs := rdBytes s (x.start + off) 64
      let whole := if headerFormed bs then recordLen (field bs 2 2) (field bs 4 4) else 64
      if x.doorbell ∨ x.rood ≠ k.rood ∨ x.pid ≠ k.pid ∨ x.len < off + whole then
        violates 10 k.iface k.ip k.rood (takeSeq q s)
      else checkRequest q k (x.start + off) s

/-! ### Deadlines and verdicts (R374 to R376; 00 R17) -/

/-- A request that has not joined a batch by its deadline: its timeout is raised. -/
def requestLate (h : Nat) (s : State) : State :=
  match tfind h s.requests with
  | none => s
  | some k =>
    if (k.st = .waiting ∨ k.st = .admitted) ∧ pastRequest s k ∧ k.raised = none ∧ k.remote = none then
      modReq h (fun k => { k with raised := some k.deadline }) s
    else s

/-- The packet of a verdict that its completion record waits for: with SPLIT_PATH the last one, p (R376). -/
def verdictPsn (s : State) (k : Request) (p : Nat) : Option Nat :=
  match clientRegion s k.q k.outH with
  | some w => if w.splitPath then some p else none
  | none => none

/-- The timeout of request h is final after the settle interval: one that joined no batch runs nothing; of one whose verdict came late the
record follows (R374; 10 R323). -/
def settleRequest (h : Nat) (s : State) : State :=
  match tfind h s.requests with
  | none => s
  | some k =>
    match k.raised with
    | some t =>
      if !atOrAfter 64 s.time.now (t + settleTicks) then s
      else
        match k.resident with
        | some (at', n, p) => completeRequest h at' Sts.timeout k.rows.length n (verdictPsn s k p) s
        | none => if k.st = .joined then s else failRequest h Sts.timeout 0 s
    | none => s

/-- Packets of a verdict: RDMA WRITEs into the OUT region. -/
def verdictWrites (k : Request) (g : ClientRegion) (data : List Byte) : List QpOut :=
  (List.range (packetsOf data.length)).map fun i =>
    .write k.q (g.addr + k.outOff + 4096 * i) g.rkey ((data.drop (4096 * i)).take 4096)

/-- The verdict of a joined request is resident: it is written, then its record, with TIMEOUT no earlier than the settle interval after the
deadline; a request whose queue pair is in ERROR only drops its holds (R374 to R377; 10 R323). -/
def giveVerdict (h : Nat) (data : List Byte) (s : State) : State :=
  match tfind h s.requests with
  | none => s
  | some k =>
    if k.remote.isSome then dropRequest h s
    else
      let bytes := match tfind k.slice s.slices with | some v => k.rows.length * v.verdictBytes | none => 0
      if k.st ≠ .joined ∨ k.resident.isSome ∨ data.length ≠ bytes then s
      else if k.discard then dropRequest h s
      else
        let late := pastRequest s k
        let s := match clientRegion s k.q k.outH with
          | some g => forAll (verdictWrites k g data) (qpSend k.q) s
          | none => s
        let p := lastPsn s k.q
        if late && !atOrAfter 64 s.time.now (k.deadline + settleTicks) then
          modReq h (fun k => { k with resident := some (s.time.now, data.length, p), raised := some k.deadline }) s
        else
          completeRequest h s.time.now (if late then Sts.timeout else Sts.ok) k.rows.length data.length (verdictPsn s k p) s

/-! ### Transport (R363, R377) -/

/-- The local ACK timeout of a queue pair in ticks (Table 12.3). -/
def ackTicks (k : Qp) : Nat := 16384 * 2 ^ k.ackTimeout

/-- An acknowledgement timeout: what is not acknowledged goes again, or ERROR once RETRY_CNT is used. -/
def ackLate (q : Nat) (s : State) : State :=
  match qpOf s q with
  | none => s
  | some k =>
    if k.st ≠ .rts ∨ k.unacked.isEmpty ∨ before 64 s.time.now (k.sentAt + ackTicks k) then s
    else if k.retries < k.retryCnt then resendAll q (modQp q (fun k => { k with retries := k.retries + 1 }) s)
    else qpFail q Sts.retryExhausted s

/-- A receiver-not-ready NAK: what is not acknowledged goes again, or ERROR once RNR_RETRY is used. -/
def notReady (q : Nat) (s : State) : State :=
  match qpOf s q with
  | none => s
  | some k =>
    if k.st ≠ .rts ∨ k.unacked.isEmpty then s
    else if k.rnrs < k.rnrRetry then resendAll q (modQp q (fun k => { k with rnrs := k.rnrs + 1 }) s)
    else qpFail q Sts.rnrExhausted s

/-- A congestion notification halves the rate, not below 1 Gb/s. -/
def slowDown (q : Nat) (s : State) : State :=
  match takes s q (fun k => ecnOn s k.iface) with
  | none => s
  | some _ =>
    modEth (fun e => { e with cnpRx := (e.cnpRx + 1) % 2 ^ 32 })
      (modQp q (fun k => { k with rate := max 1000 (k.rate / 2), lastCnp := s.time.now }) s)

/-- 50 µs without a notification: 5 Gb/s more, up to the interface rate. -/
def speedUp (q : Nat) (s : State) : State :=
  match qpOf s q with
  | none => s
  | some k =>
    let top := ifRate s k.iface
    if k.st = .rts ∧ ecnOn s k.iface ∧ k.rate < top ∧ k.lastCnp + 50 * usTicks ≤ s.time.now then
      modQp q (fun k => { k with rate := min top (k.rate + 5000), lastCnp := s.time.now }) s
    else s

/-! ### Store reads (07 R214; Table 12.10) -/

/-- The store's address of bushel n of a stream (07 R214). -/
def storeAddr (s : State) (b : StreamBody) (n : Nat) : Nat := b.remoteAddr + n * imageStride s b

/-- A READ response that is malformed is dropped and asked for again, RETRY_CNT times. -/
def badResponse (x n q a : Nat) (s : State) : State :=
  match qpOf s q with
  | none => s
  | some k =>
    let s := violates 13 k.iface k.ip k.rood s
    if k.retries < k.retryCnt then
      modCtx x (fun c => { c with requested := c.requested.filter (· != n) })
        (readAnswered q a (· + 1) s)
    else endStream x Sts.storeReadFailed s

/-- The image of bushel n arrives for context x. One whose CHECKSUM fails halts the stream, under its destination (R214, log 46). -/
def storeResponse (x n : Nat) (image : List Byte) (s : State) : State :=
  match tfind x s.streams.ctx with
  | none => s
  | some k =>
    let q := k.body.storeQp
    if k.body.srcTier ≠ 3 ∨ !k.requested.contains n ∨ (takes s q (fun v => v.role == 1)).isNone then s
    else if image.length ≠ imageStride s k.body then badResponse x n q (storeAddr s k.body n) s
    else
      let hdr := metaOfImage image
      let data := dataOfImage image
      match readChecked s k 0 hdr data with
      | .ends st => endRead x n st s
      | .got h d =>
        placeWrite x n k .storeMove h d (readAnswered q (storeAddr s k.body n) (fun _ => 0) s)
      | .fault cause => haltStream x n cause (dstOf k n) (readAnswered q (storeAddr s k.body n) (fun _ => 0) s)
      | .stall | .poisoned _ => s

/-! ### Meanings -/

/-- ETH_LINK_UP. -/
def execEthLinkUp (i : Nat) (s : State) : Answer := .next (if ethOn s then ifUp i s else s)
/-- ETH_LINK_DOWN (R377). -/
def execEthLinkDown (i : Nat) (s : State) : Answer := .next (ifDown i s)
/-- ESP_RECEIVE (R367, R379). -/
def execEspReceive (p : EspPacket) (s : State) : Answer := .next (if ethOn s then receivePacket p s else s)
/-- QUARANTINE_END (R380). -/
def execQuarantineEnd (iface ip : Nat) (s : State) : Answer := .next (endQuarantine iface ip s)
/-- RDMA_WRITE (R369). -/
def execRdmaWrite (q addr rkey : Nat) (data : List Byte) (s : State) : Answer :=
  .next (if ethOn s then rdmaWrite q addr rkey data s else s)
/-- RDMA_READ (R369). -/
def execRdmaRead (q addr rkey len : Nat) (s : State) : Answer := .next (if ethOn s then rdmaRead q addr rkey len s else s)
/-- SCORE (R370, R373). -/
def execScore (q imm : Nat) (s : State) : Answer := .next (if ethOn s then scoreImm q imm s else s)
/-- DOORBELL (R370). -/
def execDoorbell (q imm addr rkey : Nat) (data : List Byte) (s : State) : Answer :=
  .next (if ethOn s then ringDoorbell q imm addr rkey data s else s)
/-- REGISTER (R371). -/
def execRegister (q : Nat) (msg : List Byte) (s : State) : Answer := .next (if ethOn s then registerRegion q msg s else s)
/-- DEREGISTER (R371). -/
def execDeregister (q : Nat) (msg : List Byte) (s : State) : Answer := .next (if ethOn s then deregisterRegion q msg s else s)
/-- REQUEST_DEADLINE (R374). -/
def execRequestDeadline (h : Nat) (s : State) : Answer := .next (requestLate h s)
/-- VERDICT (R374, R375). -/
def execVerdict (h : Nat) (data : List Byte) (s : State) : Answer := .next (giveVerdict h data s)
/-- ACK_RECEIVE (R376). -/
def execAckReceive (q psn : Nat) (s : State) : Answer :=
  .next (match takes s q (fun k => isUnacked k psn) with
    | some _ => qpAck q psn s
    | none => s)
/-- REMOTE_NAK (R377). -/
def execRemoteNak (q : Nat) (s : State) : Answer := .next (qpFail q Sts.remoteNak s)
/-- ACK_TIMEOUT (R377). -/
def execAckTimeout (q : Nat) (s : State) : Answer := .next (ackLate q s)
/-- RNR_NAK (R377). -/
def execRnrNak (q : Nat) (s : State) : Answer := .next (notReady q s)
/-- CNP_RECEIVE (R363). -/
def execCnpReceive (q : Nat) (s : State) : Answer := .next (slowDown q s)
/-- CNP_RATE_RECOVER (R363). -/
def execCnpRateRecover (q : Nat) (s : State) : Answer := .next (speedUp q s)
/-- STORE_READ_RESPONSE (07 R214). -/
def execStoreReadResponse (x n : Nat) (image : List Byte) (s : State) : Answer := .next (storeResponse x n image s)
/-- SETTLE_INTERVAL (10 R323). -/
def execSettleInterval (t : TimeoutTarget) (s : State) : Answer :=
  .next (match t with
    | .desc d => settleDesc d s
    | .comb c i => expireComb c i s
    | .request h => settleRequest h s)

end Sys2Proof.Machine
end

