-- ==== Sys2Proof/Machine/Train.lean ====
section
/-! DEFINITION. Training bindings and the Scruple update unit (09 R274 to R297; 14 R428, R429; 08 R267). -/
namespace Sys2Proof.Machine

/-! ### Training commands (R274) -/

/-- The parts of a binding in a TRAIN_BIND record (Table 9.1). -/
def bindCfgOf (b : List Byte) : BindCfg where
  pid := field b 4 4 % 2 ^ 20
  wfmt := fbits b 2 1 0 4
  wrnd := fbits b 2 1 4 2
  wscsel := fbits b 2 1 6 1
  gfmt := fbits b 3 1 0 4
  grnd := fbits b 3 1 4 2
  opt := fbits b 3 1 6 2
  stage := fbits b 12 1 0 4
  replica := fbits b 12 1 4 3
  d := fbits b 13 1 0 3 + 1
  mbCount := fbits b 14 1 0 6 + 1
  adapter := field b 16 8
  slot := field b 24 2 % 2 ^ 14
  bwdStart := field b 26 2
  close := field b 28 2
  stepLen := field b 30 2
  gather := field b 32 2
  startRod := field b 34 6
  region := field b 40 6
  params := field b 48 4 % 2 ^ 28
  ringOff := fbits b 52 4 0 24
  ringCluster := fbits b 52 4 24 4
  stepCtr := field b 56 1
  tensorId := field b 60 4
  seed := field b 64 8
  replicas := (List.range (fbits b 13 1 0 3 + 1)).map fun q => bits (field b 104 12) (12 * q) 12
  ckptOffset := field b 120 8

def hyperOf (b : List Byte) : Hyper :=
  let f (o : Nat) : F32 := BitVec.ofNat 32 (field b o 4)
  ⟨f 80, f 84, f 88, f 92, f 96, f 100⟩

/-- Bytes [lo, hi) of a record are zero. -/
def zeroIn (b : List Byte) (lo hi : Nat) : Bool := field b lo (hi - lo) == 0

/-- A rod number and era name the first rod of a furlong. -/
def firstOfFurlong (rod era : Nat) : Bool := (era * 2 ^ 48 + rod) % 40 == 0

/-- The rod count nearest to now, before or after, of a rod number (10 R318). -/
def rodNear (s : State) (n : Nat) : Nat :=
  if atOrAfter 48 n (rodNum s) then rodFrom (rodCount s) n else rodCount s - dist 48 (rodNum s) n

/-- TRAIN_BIND holds a reserved value or bit (Table 9.1; log 20). -/
def trainBindBad (s : State) (b : List Byte) : Bool :=
  let k := bindCfgOf b
  fbits b 2 1 7 1 != 0 || !(k.wfmt == 1 || isMx k.wfmt) || k.wrnd == 3 || !(k.gfmt == 1 || k.gfmt == 2) || k.grnd == 3 || k.opt == 3 ||
    fbits b 12 1 7 1 != 0 || fbits b 13 1 3 5 != 0 || fbits b 14 1 6 2 != 0 || 2 ≤ field b 15 1 || fbits b 24 2 14 2 != 0 ||
    rodNear s k.startRod % 40 != 0 || fbits b 48 4 28 4 != 0 || k.params < 32 || k.ringOff % 4096 != 0 ||
    fbits b 52 4 28 4 != 0 || field b 46 2 != 0 || !zeroIn b 57 60 || 2 ^ 31 ≤ k.tensorId || bits (field b 104 12) (12 * k.d) 96 != 0 ||
    !zeroIn b 116 120 || k.ckptOffset % 4096 != 0

/-- A recovery command holds a reserved value or bit, or a field it does not use (14 R426, Table 14.6). -/
def recoveryBad (b : List Byte) : Bool :=
  let c := field b 0 1
  let rod := field b 40 6
  let era := field b 46 2
  let first := fbits b 2 1 0 3
  let last := fbits b 2 1 3 3
  fbits b 2 1 6 2 != 0 || fbits b 3 1 4 4 != 0 || fbits b 12 2 12 4 != 0 || fbits b 14 2 12 4 != 0 ||
    (if c = 0x28 then
      !zeroIn b 2 3 || !zeroIn b 12 14 || !zeroIn b 16 30 || !zeroIn b 40 128 || field b 30 6 % unit2M != 0
     else if c = 0x29 then
      first == 0 || 4 < first || last < first || 4 < last || !zeroIn b 36 54 || !zeroIn b 60 64 || !zeroIn b 72 80
     else if c = 0x2A then
      !zeroIn b 1 8 || !zeroIn b 16 40 || !zeroIn b 48 72 || !zeroIn b 80 128 || !firstOfFurlong rod era
     else !zeroIn b 1 8 || !zeroIn b 24 40 || !zeroIn b 54 60 || !zeroIn b 64 72 || !zeroIn b 80 128 || !firstOfFurlong rod era)

/-- A command of the training mailbox is malformed (R274; 14 R426). -/
def trainingMalformed (s : State) (b : List Byte) : Bool :=
  let c := field b 0 1
  if c = 0x20 then fbits b 4 4 20 12 != 0 || trainBindBad s b
  else if c = 0x21 then fbits b 4 4 20 12 != 0 || !zeroIn b 2 4 || !zeroIn b 12 80 || !zeroIn b 104 128
  else if c = 0x22 then fbits b 4 4 20 12 != 0 || !zeroIn b 2 4 || !zeroIn b 12 128
  else if 0x28 ≤ c ∧ c ≤ 0x2B then fbits b 4 4 20 12 != 0 || recoveryBad b
  else true

/-- Submit a record to the training mailbox of rood r. -/
def submitTraining (r : Nat) (b : List Byte) (s : State) : State :=
  submitCmd .training r b (if trainingMalformed s b then some Sts.protocolViolation else none) s

/-- Binding b. -/
def bindOf (s : State) (b : Nat) : Option Bind := tfind b s.binds

/-- The binding that a command names, or the status that refuses it (R274). -/
def namedBind (s : State) (r : Nat) (c : Cmd) : Sum Nat (Nat × Bind) :=
  let b := field c.bytes 1 1
  match bindOf s b with
  | none => .inl Sts.protocolViolation
  | some k => if k.rood ≠ r ∨ k.cfg.pid ≠ field c.bytes 4 4 % 2 ^ 20 then .inl Sts.notPermitted else .inr (b, k)

/-! ### Trained arrays (R280, R281) -/

/-- Bushels of an array of n elements. -/
def arrayBushels (fmt n : Nat) : Nat := (n + bushelElems fmt - 1) / bushelElems fmt

/-- FP32 arrays: MASTER, M and, for ADAMW, V. -/
def fpArrays (c : BindCfg) : Nat := if c.opt = 0 then 3 else 2

/-- Base of FP32 array i, of G, of working copy w. -/
def fpBase (c : BindCfg) (i : Nat) : Nat := c.region + 4096 * (i * arrayBushels 0 c.params)
def gBase (c : BindCfg) : Nat := fpBase c (fpArrays c)
def workBase (c : BindCfg) (w : Nat) : Nat :=
  gBase c + 4096 * (arrayBushels c.gfmt c.params + w * arrayBushels c.wfmt c.params)

/-- Bytes from REGION to the end of the last array. -/
def arraysBytes (c : BindCfg) : Nat := workBase c 2 - c.region

/-- The arrays lie wholly in one TRAINED region of the rood that is wide enough for WFMT (R275, check 7). -/
def arraysFit (s : State) (r : Nat) (c : BindCfg) : Bool :=
  match regionAt s c.region with
  | none => false
  | some g =>
    g.kind == 5 && g.rood == r && (c.region - g.start) % 4096 == 0 &&
      (c.region - g.start + arraysBytes c) / 4096 ≤ regionBushels g && metaStride c.wfmt ≤ metaStride g.fmt

/-- Element addresses and reads. -/
def fpAt (s : State) (base p : Nat) : F32 := rdF32 s (base + 4096 * (p / 1024) + 4 * (p % 1024))
def fpArray (s : State) (base n : Nat) : List F32 := (List.range n).map (fpAt s base)

/-- G as read at the close: a bushel not written in the step reads as +0 (R284). -/
def gArray (s : State) (c : BindCfg) (step : Nat) : List F32 :=
  (List.range c.params).map fun p =>
    let a := gBase c + 4096 * (p / 2048)
    if (metaAt s a).version = step % 2 ^ 32 then toF32 (decodeElem c.gfmt (rdLe s (a + 2 * (p % 2048)) 2)) else 0#32

/-- Header of bushel q of an array (R280). The shape of the single tensor is not stated: one row (log 26). -/
def trainMeta (s : State) (r : Nat) (c : BindCfg) (fmt q version : Nat) (side : List Byte) : Meta where
  fmt := fmt
  rood := r
  poison := false
  elements := min (bushelElems fmt) (c.params - q * bushelElems fmt)
  tensorId := c.tensorId
  rows := 1
  cols := c.params
  first := q * bushelElems fmt
  version := version % 2 ^ 32
  owner := c.adapter
  stamp := s.time.now
  sidecar := side ++ List.replicate (sidecarBytes fmt - side.length) 0

/-- Write an array of FP32 values in a format, bushel by bushel, element p drawn by draws p. -/
def putArray (r : Nat) (c : BindCfg) (base fmt mode scsel version : Nat) (vs : List F32) (draws : Nat → Nat) (s : State) : State :=
  let e := bushelElems fmt
  forAll (List.range (arrayBushels fmt c.params)) (fun q t =>
    let w := storeRow fmt mode scsel ((vs.drop (q * e)).take e) (fun i => draws (q * e + i))
    let data := w.1 ++ List.replicate (4096 - w.1.length) 0
    putBushel (base + 4096 * q) (sealBushel (trainMeta t r c fmt q version w.2.1) data) data t) s

/-- Write FP32 array i. -/
def putFp (r : Nat) (c : BindCfg) (i version : Nat) (vs : List F32) (s : State) : State :=
  putArray r c (fpBase c i) 0 0 0 version vs (fun _ => 0) s

/-- Write the working copy of a version from the masters (R281). -/
def putWork (r : Nat) (c : BindCfg) (version : Nat) (masters : List F32) (s : State) : State :=
  putArray r c (workBase c (version % 2)) c.wfmt c.wrnd c.wscsel version masters (drawsOf c.wrnd c.seed version c.tensorId) s

/-- Write G, drawn with a step field (R284, R287). -/
def putG (r : Nat) (c : BindCfg) (step stepField : Nat) (vs : List F32) (s : State) : State :=
  putArray r c (gBase c) c.gfmt c.grnd 0 step vs (drawsOf c.grnd c.seed stepField (c.tensorId ||| 2 ^ 31)) s

/-! ### The ring (Table 9.5, R282) -/

def ringAt (c : BindCfg) : Nat := scratchBase c.ringCluster + c.ringOff

/-- STATE of the ring header, as Table 9.2 in order from 0. -/
def bindCode : BindState → Nat
  | .binding => 0 | .idle => 1 | .forward => 2 | .backward => 3 | .closed => 4 | .updating => 5 | .faulted => 6

/-- The rood owns the cluster of the binding's ring: Scruple reaches no other's scratchpad (01 R30). -/
def bindRing (s : State) (k : Bind) : Bool := ownsCluster s k.rood k.cfg.ringCluster

/-- Write Scruple's fields of the ring header. -/
def writeHeader (b : Nat) (s : State) : State :=
  match bindOf s b with
  | none => s
  | some k =>
    if !bindRing s k then s
    else wrBytes (ringAt k.cfg + 4) (leBytes 4 k.consumer ++ leBytes 8 k.step ++ leBytes 4 k.version ++
      leBytes 6 (k.startFurlong * 40) ++ leBytes 2 (bindCode k.st)) s

/-- Address of ring entry i. -/
def entryAt (c : BindCfg) (i : Nat) : Nat := ringAt c + 64 * (1 + i % 63)

/-! ### CRC-32C (14 Table 14.7; 15 Table 15.6) -/

/-- One bit step of the reflected CRC-32C. -/
def crc32cStep (c : Nat) : Nat := if c % 2 = 1 then c / 2 ^^^ 0x82F63B78 else c / 2

/-- CRC-32C over bytes: reflected, initial value and final XOR all ones. -/
def crc32c (bs : List Byte) : Nat :=
  let step (c : Nat) (b : Byte) : Nat :=
    crc32cStep (crc32cStep (crc32cStep (crc32cStep (crc32cStep (crc32cStep (crc32cStep (crc32cStep (c ^^^ b.toNat))))))))
  bs.foldl step (2 ^ 32 - 1) ^^^ (2 ^ 32 - 1)

/-! ### Snapshots as they lie in the flash (14 Table 14.7, R431, R432) -/

/-- Bytes of a snapshot's arrays, and of one half or slot: rounded up to 2 MiB. -/
def snapArrays (c : BindCfg) : Nat := 4096 * (fpArrays c * arrayBushels 0 c.params)
def snapSize (c : BindCfg) : Nat := (4096 + snapArrays c + unit2M - 1) / unit2M * unit2M

/-- Segments of 2^20 bytes. -/
def segments : Nat → List Byte → List (List Byte)
  | 0, _ => []
  | fuel + 1, bs => if bs.isEmpty then [] else bs.take (2 ^ 20) :: segments fuel (bs.drop (2 ^ 20))

/-- STATE_DIGEST of arrays with its trailer (R431). -/
def stateDigest (arrays : List (List F32)) (step version : Nat) (k1 k2 : F32) (params : Nat) : Nat :=
  let bs := arrays.flatMap fun a => a.flatMap fun v => leBytes 4 v.toNat
  let trailer := leBytes 8 step ++ leBytes 4 version ++ leBytes 4 k1.toNat ++ leBytes 4 k2.toNat ++ leBytes 4 params
  leNat (sha ((segments (bs.length / 2 ^ 20 + 1) bs).flatMap sha ++ trailer))

/-- FP32 values that lie in bytes. -/
def f32sOf (n : Nat) (bs : List Byte) : List F32 := (List.range n).map fun i => BitVec.ofNat 32 (field bs (4 * i) 4)

/-- The arrays of a view as the binding keeps them. -/
def viewArrays (k : Bind) (v : SnapView) : List (List F32) := if k.cfg.opt = 0 then [v.master, v.m, v.v] else [v.master, v.m]

/-- What checkpoint slot half of a binding holds, with its SEQ: a snapshot is valid only when its header's CRC passes and its digest
matches the arrays (14 R432). -/
def ckptSlot (s : State) (k : Bind) (half : Nat) : Option (Nat × SnapView) :=
  let c := k.cfg
  let base := c.ckptOffset + half * snapSize c
  match flashBytes s k.rood base 4096, flashBytes s k.rood (base + 4096) (snapArrays c) with
  | some h, some bs =>
    let arr (i : Nat) : List F32 := f32sOf c.params (bs.drop (4096 * (i * arrayBushels 0 c.params)))
    let v : SnapView := {
      layer := 3, readable := true, step := field h 16 8, version := field h 24 4
      k1 := BitVec.ofNat 32 (field h 32 4), k2 := BitVec.ofNat 32 (field h 36 4), digest := field h 64 48
      master := arr 0, m := arr 1, v := if c.opt = 0 then arr 2 else [] }
    if field h 128 4 = crc32c (h.take 128) ∧ field h 0 8 = c.adapter ∧ field h 12 4 = c.params ∧ field h 28 1 = c.opt ∧
        v.digest = stateDigest (viewArrays k v) v.step v.version v.k1 v.k2 c.params then
      some (field h 52 4, v)
    else none
  | _, _ => none

/-- The valid checkpoint slot with the later SEQ (14 R432, Table 14.8). -/
def readCheckpoint (s : State) (k : Bind) : Option SnapView :=
  match ckptSlot s k 0, ckptSlot s k 1 with
  | some a, some b => some (if after 32 b.1 a.1 then b.2 else a.2)
  | some a, none => some a.2
  | none, some b => some b.2
  | none, none => none

/-- Reading both checkpoint slots of a binding from the flash (07 R233, R237). -/
def fetchCheckpoint (k : Bind) (s : State) : State :=
  forAll [0, 1] (fun half => fetchFlash k.rood (k.cfg.ckptOffset + half * snapSize k.cfg) (4096 + snapArrays k.cfg)) s

/-- Put binding b into a state. -/
def setBind (b : Nat) (st : BindState) (s : State) : State := writeHeader b (modBind b (fun k => { k with st := st }) s)

/-- Training event: byte 24 the rood, byte 25 the binding (R298). -/
def logTrain (low r b rest : Nat) : State → State := logGlb low r (packLe [(r, 1), (b, 1), (rest, 6)])

/-- The entry at CONSUMER ends with a status: STATUS is written and SIGNAL_CTR signalled (R285). -/
def endGacc (b : Nat) (k : Bind) (i st : Nat) (s : State) : State :=
  let a := entryAt k.cfg i
  if !bindRing s k then s else
  let s := ctrAdd k.rood (rdLe s (a + 2) 1) 1 (st != Sts.ok) (wrLe (a + 63) 1 st s)
  if st = Sts.timeout then
    logTrain 0x42 k.rood b (packLe [(rdLe s (a + 1) 1 % 64, 1), (rdLe s (a + 8) 8 % 2 ^ 40, 5)]) s
  else s

/-! ### Control packets of a step (11 Table 11.9) -/

/-- Send a control packet of a step to a module. -/
def stepPkt (k : Bind) (pos sub : Nat) (rest : List Byte) (s : State) : State :=
  let d := leBytes 8 k.cfg.adapter ++ leBytes 8 k.step ++ rest
  if pos = s.fab.pos then s
  else sendMinimal (controlPkt s pos (peerRood s k.rood pos) k.rood sub 0 0 (d ++ List.replicate (64 - d.length) 0)) s

/-- The stages of the step's epoch in order, and the root. -/
def stepStages (s : State) (k : Bind) : List Nat :=
  match k.epoch with | some n => (match epochOf s k.rood n with | some e => e.stages | none => []) | none => []
def rootOf (s : State) (k : Bind) : Nat := (stepStages s k).headD s.fab.pos
def isRoot (s : State) (k : Bind) : Bool := rootOf s k == s.fab.pos

/-- Rod count of the end of furlong n of the step. -/
def furlongEnd (k : Bind) (n : Nat) : Nat := (k.startFurlong + n + 1) * 40

/-- Members that the degraded rules exclude from the step: its close deadline lies at or after their EFFECTIVE (14 R429). -/
def lostNow (k : Bind) : List Nat := (k.lost.filter fun l => l.2 ≤ (k.startFurlong + k.cfg.close) * 40 - 1).map (·.1)

/-- Replicas that survive, as indices. -/
def survivors (k : Bind) : List Nat :=
  (List.range k.cfg.d).filter fun q => !(lostNow k).contains (k.cfg.replicas.getD q 0)

/-- Send to the other stages of the pipeline. -/
def toStages (k : Bind) (sub : Nat) (rest : List Byte) (s : State) : State :=
  forAll ((stepStages s k).filter fun p => !(lostNow k).contains p) (fun p t => stepPkt k p sub rest t) s

/-- Under the degraded rules, forward to the surviving replica peers (14 R429). -/
def toPeers (k : Bind) (sub : Nat) (rest : List Byte) (s : State) : State :=
  if (lostNow k).isEmpty then s
  else forAll ((survivors k).map fun q => k.cfg.replicas.getD q 0) (fun p t => stepPkt k p sub rest t) s

/-! ### Ends of a step and of a binding -/

/-- The step's epoch hold is dropped. -/
def dropStepHold (b : Nat) (k : Bind) (s : State) : State :=
  match k.epoch with
  | some n => modBind b (fun k => { k with epoch := none }) (dropEpoch k.rood n s)
  | none => s

/-- Binding b leaves: its hold goes, its slot leaves TRAINING, the command is answered (R276). -/
def removeBind (b : Nat) (s : State) : State :=
  match bindOf s b with
  | none => s
  | some k =>
    let s := dropStepHold b k s
    let s := modSlot k.cfg.slot (fun v => if v.training = some b then { v with training := none } else v) s
    let s := logTrain 0x49 k.rood b k.cfg.slot { s with binds := tdel b s.binds }
    let s := match cmdBySeq s .training k.rood k.cmdSeq with
      | some c => if k.st = .binding ∧ cmdCode c = 0x20 then finalReply .training k.rood c Sts.squashed 0 s else s
      | none => s
    forAll k.unbinds (fun q t =>
      match cmdBySeq t .training k.rood q with | some c => finalReply .training k.rood c Sts.ok 0 t | none => t) s

/-- The TRAIN_UNBINDs that waited for the step take effect. -/
def unbindIfAsked (b : Nat) (s : State) : State :=
  match bindOf s b with
  | some k => if k.unbinds.isEmpty then s else removeBind b s
  | none => s

/-- The GACC in progress of a binding is stopped: PARTITION_RESET when its rood is reset or removed, UNCORRECTABLE for any other fault (R285,
R296; 00 R20). -/
def stopGacc (b cause : Nat) (s : State) : State :=
  match bindOf s b with
  | none => s
  | some k =>
    match k.running with
    | none => s
    | some i =>
      endGacc b k i (if cause = 0x05 then Sts.partitionReset else Sts.uncorrectable) (modBind b (fun k => { k with running := none, spoiled := true }) s)

/-- Binding b becomes FAULTED with a cause of Table 14.3: its hold goes and the admitting module refuses the adapter's rows
(14 R423, R428). A TRAIN_UNBIND that waited takes effect, but for a reset or removal of the rood, which ends it (R296). -/
def faultBind (b cause : Nat) (s : State) : State :=
  match bindOf s b with
  | none => s
  | some k =>
    if k.st = .faulted then s
    else
      let s := stopGacc b cause s
      let s := setBind b .faulted (modBind b (fun k => { k with cause := cause, snapBusy := [], nextStart := none }) (dropStepHold b k s))
      let s := logTrain 0x48 k.rood b cause s
      let s := match currentEpoch s k.rood with
        | none => s
        | some e =>
          match e.stages.head? with
          | none => s
          | some p =>
            if p = s.fab.pos then refuseLost k.rood s.fab.pos k.cfg.adapter s
            else
              let sl := slotOf s k.rood k.cfg.slot
              let d := leBytes 8 k.cfg.adapter ++ leBytes 4 k.version ++ leBytes 2 k.cfg.slot ++ leBytes 2 sl.gen ++
                leBytes 1 Sts.stageLost ++ leBytes 47 0
              sendMinimal (controlPkt s p (peerRood s k.rood p) k.rood 0x12 0 0 d) s
      if cause = 0x05 then modBind b (fun k => { k with unbinds := [] }) s else unbindIfAsked b s

/-- The running step is skipped: no array changes; it ends at STEP_LEN (R292). -/
def skipStep (b cause : Nat) (s : State) : State :=
  match bindOf s b with
  | none => s
  | some k =>
    if k.skipped then s
    else
      let s := logTrain 0x45 k.rood b cause s
      modBind b (fun k => { k with skipped := true, nextStart := some (k.startFurlong + k.cfg.stepLen) }) s

/-- The root sends the SKIP record to every stage (R290). -/
def sendSkip (b : Nat) (k : Bind) (cause : Nat) (s : State) : State :=
  let rest := leBytes 1 1 ++ leBytes 1 cause ++ leBytes 2 0 ++ leBytes 4 0
  modBind b (fun k => { k with skipCause := cause }) (toPeers k 0x21 rest (toStages k 0x21 rest s))

/-- The root decides SKIP and sends the clip record to every stage (R290). -/
def rootSkip (b cause : Nat) (s : State) : State :=
  match bindOf s b with
  | none => s
  | some k => skipStep b cause (sendSkip b k cause s)

/-! ### Binding (R275) -/

/-- Scruple issues stack requests for rood r: not in a SCORE rod (R295). -/
def scrupleRuns (s : State) (r : Nat) : Bool :=
  runsWork s && (match s.roods[r]? with | some k => planClass k.plan (rodPos s) != 1 | none => false)

/-- Checks 1 to 8 of TRAIN_BIND: OK, or the status of the first that fails. A RING in a cluster that is not the rood's fails with check 2 (01
R30; log 76). -/
def bindCheck (s : State) (r b : Nat) (c : BindCfg) : Nat :=
  let own := match s.roods[r]? with
    | some k => k.res.slotFirst ≤ c.slot && c.slot < k.res.slotFirst + k.res.slotCount
    | none => false
  let dir := match s.roods[r]? with | some k => tfind c.adapter k.dir | none => none
  let ep := currentEpoch s r
  let sl := slotOf s r c.slot
  if (bindOf s b).isSome then Sts.protocolViolation
  else if !(s.slices.any fun e => e.2.pid == c.pid && e.2.rood == r) ∨ !own ∨ !ownsCluster s r c.ringCluster then Sts.notPermitted
  else
    match dir with
    | none => Sts.adapterUnknown
    | some e =>
      if (ep.map (·.baseId)) ≠ some e.baseId then Sts.adapterBaseMismatch
      else if (ep.bind (·.stages[c.stage]?)) ≠ some s.fab.pos ∨ c.replicas[c.replica]? ≠ some s.fab.pos then Sts.protocolViolation
      else if (slotUse sl = .active ∨ slotUse sl = .training) ∧ sl.adapter ≠ some c.adapter then Sts.slotConflict
      else if !arraysFit s r c then Sts.refusedCapacity
      else if c.bwdStart = 0 ∨ c.close ≤ c.bwdStart ∨ c.stepLen < c.close + c.gather + 2 then Sts.protocolViolation
      else Sts.ok

/-- TRAIN_BIND. -/
def trainBind (r : Nat) (s : State) : State :=
  match nextCmd s .training r 0x20 with
  | none => s
  | some c =>
    let b := field c.bytes 1 1
    let k := bindCfgOf c.bytes
    let st := bindCheck s r b k
    if st ≠ Sts.ok then finalReply .training r c st 0 s
    else
      let s := deferReply .training r c s
      let version := match s.roods[r]? with | some x => (match tfind k.adapter x.dir with | some e => e.version | none => 0) | none => 0
      let s := if (slotOf s r k.slot).adapter = some k.adapter then s else bindSlot r k.slot k.adapter version s
      let s := modSlot k.slot (fun v => { v with training := some b }) s
      let v : Bind := {
        rood := r, cfg := k, hyper := hyperOf c.bytes, init := field c.bytes 15 1, tag := cmdTag c, cmdSeq := c.seq
        step := field c.bytes 72 8 }
      setBind b .binding { s with binds := tset b v s.binds }

/-- FP32 values of an image in image form, all its bushels in order. -/
def imageVals (images : List (List Byte)) : List F32 :=
  images.flatMap fun im =>
    let m := metaOfImage im
    let d := dataOfImage im
    (List.range m.elements).map fun i =>
      let v := decodeElem m.fmt (unpackElem m.fmt d i)
      toF32 (if isMx m.fmt then scaled v (m.sidecar.getD (i / 32) 0).toNat else v)

/-- The image of an adapter as the store sends it for a bind, or as many bushels of the working copy as its flash image has (R275, R281). -/
def imageSent (k : Bind) (img : SnapView) : List (List Byte) :=
  let n := arrayBushels k.cfg.wfmt k.cfg.params
  if img.image.length = n then img.image else List.replicate n []

/-- The CUR image of the binding's slot in the adapter cache. -/
def residentImage (s : State) (k : Bind) : Option (List (List Byte)) :=
  let sl := slotOf s k.rood k.cfg.slot
  match cacheFind s k.cfg.slot sl.gen ((sl.cur.map (·.version)).getD 0) with
  | some (_, e) => if e.resident ∧ !e.image.isEmpty then some e.image else none
  | none => none

/-- The masters of INIT 0: the exact values of the CUR image, from the cache where it is resident, else from the directory's sources,
where it is good (R275; 08 R258). -/
def initMasters (s : State) (k : Bind) (img : SnapView) : Option (List F32) :=
  match residentImage s k with
  | some l => some (imageVals l)
  | none => ((dirOf s k.rood k.cfg.adapter).bind fun e => adapterImage s k.rood e (imageSent k img)).map imageVals

/-- Reading what TRAIN_BIND reads from the flash (07 R233, R237). -/
def fetchInit (k : Bind) (img : SnapView) (s : State) : State :=
  if k.init = 0 then
    match residentImage s k, dirOf s k.rood k.cfg.adapter with
    | none, some e => fetchAdapter k.rood e (imageSent k img) s
    | _, _ => s
  else fetchCheckpoint k s

/-- TRAIN_BOUND: the arrays and the working copy of the CUR version are written, or a read has failed; not in a SCORE rod (R295). With INIT 1
the state is that of the checkpoint slot in the flash. -/
def trainBound (b : Nat) (img : SnapView) (s : State) : State :=
  match bindOf s b with
  | none => s
  | some k =>
    if k.st ≠ .binding ∨ !scrupleRuns s k.rood then s
    else
      let reply (st : Nat) (s : State) : State :=
        match cmdBySeq s .training k.rood k.cmdSeq with | some c => finalReply .training k.rood c st 0 s | none => s
      let fromImage := k.init = 0
      let ckpt := readCheckpoint s k
      let init := initMasters s k img
      let s := fetchInit k img s
      let img := if fromImage then { img with readable := img.readable && init.isSome }
        else { ckpt.getD img with readable := img.readable && ckpt.isSome }
      let masters := if fromImage then init.getD [] else img.master
      let zeros := List.replicate k.cfg.params (0#32 : F32)
      let m := if fromImage then zeros else img.m
      let v := if fromImage then zeros else img.v
      let whole := masters.length = k.cfg.params ∧ m.length = k.cfg.params ∧ (k.cfg.opt ≠ 0 ∨ v.length = k.cfg.params)
      if !img.readable ∨ !whole then reply Sts.uncorrectable (faultBind b 0x0B s)
      else
        let ver := ((slotOf s k.rood k.cfg.slot).cur.map (·.version)).getD 0
        let s := putFp k.rood k.cfg 1 ver m (putFp k.rood k.cfg 0 ver masters s)
        let s := if k.cfg.opt = 0 then putFp k.rood k.cfg 2 ver v s else s
        let s := putWork k.rood k.cfg ver masters s
        let first := max (rodNear s k.cfg.startRod) (nextBoundary s)
        let s := modBind b (fun k => { k with
          version := ver
          step := if k.init = 0 then k.step else img.step
          k1 := if k.init = 0 then k.k1 else img.k1
          k2 := if k.init = 0 then k.k2 else img.k2
          nextStart := some (first / 40) }) s
        reply Sts.ok (logTrain 0x40 k.rood b (packLe [(k.cfg.slot, 2), (ver, 4)]) (setBind b .idle s))

/-- TRAIN_SET. -/
def trainSet (r : Nat) (s : State) : State :=
  match nextCmd s .training r 0x21 with
  | none => s
  | some c =>
    match namedBind s r c with
    | .inl st => finalReply .training r c st 0 s
    | .inr (b, _) => finalReply .training r c Sts.ok 0 (modBind b (fun k => { k with nextHyper := some (hyperOf c.bytes) }) s)

/-- A step of the binding is running. -/
def inStep : BindState → Bool
  | .forward | .backward | .closed | .updating => true
  | .binding | .idle | .faulted => false

/-- TRAIN_UNBIND: at once, or at the step's flip or end. -/
def trainUnbind (r : Nat) (s : State) : State :=
  match nextCmd s .training r 0x22 with
  | none => s
  | some c =>
    match namedBind s r c with
    | .inl st => finalReply .training r c st 0 s
    | .inr (b, k) =>
      let s := modBind b (fun k => { k with unbinds := k.unbinds ++ [c.seq] }) s
      if inStep k.st then deferReply .training r c s else removeBind b s

/-! ### The step (R278, R279) -/

/-- A skipped step ends at the boundary STEP_LEN after its start. -/
def endSkipped (b : Nat) (s : State) : State :=
  match bindOf s b with
  | none => s
  | some k =>
    if k.st = .closed ∧ k.skipped ∧ (k.startFurlong + k.cfg.stepLen) * 40 ≤ rodCount s then
      unbindIfAsked b (setBind b .idle (dropStepHold b k s))
    else s

/-- The rood has a CURRENT epoch of the binding's base. -/
def baseThere (s : State) (k : Bind) : Option Epoch :=
  match currentEpoch s k.rood, (match s.roods[k.rood]? with | some r => tfind k.cfg.adapter r.dir | none => none) with
  | some e, some d => if e.baseId = d.baseId then some e else none
  | _, _ => none

/-- The binding at the start of its next step, with an epoch, at a furlong. -/
def nextStep (epoch furlong : Nat) (k : Bind) : Bind :=
  { k with
    step := (k.step + 1) % 2 ^ 64
    hyper := k.nextHyper.getD k.hyper
    nextHyper := none
    epoch := some epoch
    startFurlong := furlong
    nextStart := none
    accepted := [], contributed := [], cnt := 0, spoiled := false, gathered := false, settled := false, combined := false
    gatherSent := false, gatherFailed := false, running := none
    gmask := 0, parts := [], updatesDone := [], moved := false, updated := false, skipped := false, flipAt := none, clip := none, skipCause := 0, holdLogged := false }

/-- STEP_START: at its boundary, with a CURRENT epoch of its base, the step begins. -/
def stepStart (b : Nat) (s : State) : State :=
  let s := endSkipped b s
  match bindOf s b with
  | none => s
  | some k =>
    match k.nextStart, baseThere s k with
    | some f, some e =>
      if k.st ≠ .idle ∨ !atFurlong s ∨ furlongOf s < f ∨ !runsWork s then s
      else
        let s := modBind b (nextStep e.num (furlongOf s)) s
        let s := ctrAdd k.rood k.cfg.stepCtr 1 false (holdEpoch k.rood e.num s)
        logTrain 0x41 k.rood b ((k.step + 1) % 2 ^ 48) (setBind b .forward s)
    | _, _ => s

/-- BWD_START: boundary BWD_START of the step. -/
def backwardStart (b : Nat) (s : State) : State :=
  match bindOf s b with
  | none => s
  | some k =>
    if k.st = .forward ∧ (k.startFurlong + k.cfg.bwdStart) * 40 ≤ rodCount s then setBind b .backward s else s

/-! ### Gradients (R282 to R286) -/

/-- PRODUCER_WRITE: a write more than 63 beyond CONSUMER is ignored, and so is one to a ring whose cluster is no longer the rood's (01 R30;
log 76). -/
def writeProducer (b v : Nat) (s : State) : State :=
  match bindOf s b with
  | none => s
  | some k =>
    let v := v % 2 ^ 32
    if !bindRing s k then s
    else if 63 < dist 32 v k.consumer then logTrain 0x4A k.rood b v s
    else wrLe (ringAt k.cfg) 4 v (modBind b (fun k => { k with producer := v, visible := k.visible ++ [(v, s.time.now)] }) s)

/-- Visibility stamp of entry i: of the first PRODUCER write that covers it. -/
def visibleAt (k : Bind) (i : Nat) : Option Nat := (k.visible.find? fun e => after 32 e.1 i).map (·.2)

/-- The stamp of the end of the close deadline rod (R283). -/
def closeStamp (s : State) (k : Bind) : Nat := (k.startFurlong + k.cfg.close) * 40 * rodLen s - 4

/-- Entry i is in time. -/
def inTime (s : State) (k : Bind) (i : Nat) : Bool :=
  match visibleAt k i with | some t => t ≤ closeStamp s k | none => false

/-- Entries visible and not yet taken. -/
def waitingEntries (k : Bind) : List Nat := (List.range (dist 32 k.producer k.consumer)).map fun i => (k.consumer + i) % 2 ^ 32

/-- An in-time entry of the running step is in progress or still to be taken. -/
def gaccPending (s : State) (k : Bind) : Bool :=
  k.running.isSome || (waitingEntries k).any fun i => inTime s k i && rdLe s (entryAt k.cfg i + 8) 8 == k.step

/-- Bytes of a staged gradient, laid out as G: whole bushels but for the last, which ends with the last element. -/
def stagedBytes (c : BindCfg) : Nat := 4096 * (arrayBushels c.gfmt c.params - 1) + 2 * (c.params - 2048 * (arrayBushels c.gfmt c.params - 1))

/-- The n bytes from a lie in rood r's own regions or scratchpads; those of another rood's base do not, whatever it lets r read (R284;
13 R390). -/
def ownRange (s : State) (r a n : Nat) : Bool :=
  match placeOf a n with
  | .scratch c _ | .bank c _ => ownsCluster s r c
  | .stk _ _ => covered (fun g => g.rood == r) s a n
  | .flash _ | .regs _ | .unmapped => false

/-- Checks 1 to 3 of a GACC: the status that refuses it. One that names the running or last step is late by that step's close. -/
def gaccCheck (s : State) (k : Bind) (i mb step src : Nat) : Option Nat :=
  let a := entryAt k.cfg i
  let late := decide (step < k.step) || (k.st != .binding && step == k.step && !inTime s k i)
  if rdLe s a 1 ≠ 1 then some Sts.protocolViolation
  else if k.st = .faulted then some Sts.squashed
  else if late then some Sts.timeout
  else
    match k.st with
    | .binding | .idle | .forward => some Sts.protocolViolation
    | .updating => some Sts.timeout
    | .faulted => some Sts.squashed
    | .backward | .closed =>
      if k.st = .closed ∧ (k.skipped ∨ (tfind k.cfg.stage k.parts).isSome) then some Sts.timeout
      else if step ≠ k.step ∨ k.cfg.mbCount ≤ mb ∨ k.accepted.contains mb then some Sts.protocolViolation
      else if !ownRange s k.rood src (stagedBytes k.cfg) then some Sts.notPermitted
      else none

/-- The staged gradient of n elements as exact FP32 values: the layout of G. -/
def stagedVals (s : State) (c : BindCfg) (src : Nat) : List F32 :=
  (List.range c.params).map fun p => toF32 (decodeElem c.gfmt (rdLe s (src + 4096 * (p / 2048) + 2 * (p % 2048)) 2))

/-- Accumulate a staged gradient into G (R284). -/
def accumulate (k : Bind) (mb src : Nat) (s : State) : State :=
  let st := stagedVals s k.cfg src
  let g := gArray s k.cfg k.step
  let acc := (List.range k.cfg.params).map fun p =>
    let x := st.getD p 0#32
    let a := gBase k.cfg + 4096 * (p / 2048)
    if (metaAt s a).version = k.step % 2 ^ 32 then fAdd (g.getD p 0#32) x else x
  putG k.rood k.cfg k.step (k.step * 64 + mb) acc s

/-- What a GACC's source gives: the bytes of every bushel of the staged gradient are read. -/
def sourceReads (s : State) (k : Bind) (src : Nat) : LocalRead :=
  let n := arrayBushels k.cfg.gfmt k.cfg.params
  match localRead s src (stagedBytes k.cfg) with
  | .got bs =>
    if (List.range n).any fun q =>
      (match regionAt s (src + 4096 * q) with | some g => g.kind != 1 | none => false) && (metaAt s (src + 4096 * q)).poison
    then .ends Sts.bushelPoisoned else .got bs
  | r => r

/-- Staging of what a replica sends in a gather, outside the device address map (log 18). -/
def gatherStage (b q : Nat) : Nat := 2 ^ 50 + (64 * b + q) * 2 ^ 32

/-- Parameters that replica q owns: block j of 2^20 belongs to replica j mod D (R287). -/
def ownedBy (c : BindCfg) (q : Nat) : List Nat := (List.range c.params).filter fun p => p / 2 ^ 20 % c.d == q

/-- Parameters that replica q combines: its own, and the lowest surviving replica those of the lost ones (R287; 14 R429). -/
def gatherPart (k : Bind) (q : Nat) : List Nat :=
  let who := survivors k
  let lost := (List.range k.cfg.d).filter fun x => !who.contains x
  ownedBy k.cfg q ++ (if who.head? = some q then lost.flatMap (ownedBy k.cfg) else [])

/-- Send one shard of the gather to replica q, as a partial-tile to the binding of the same number (R287; log 18). -/
def sendShard (b : Nat) (k : Bind) (q shard stage : Nat) (bs : List Byte) (s : State) : State :=
  let bs := bs ++ List.replicate ((64 - bs.length % 64) % 64) 0
  let pos := k.cfg.replicas.getD q 0
  let close := closeRod k
  openXfer (2 ^ 64) k.rood {
      op := 2, ordered := false, signal := false, noDetour := false, dstRood := peerRood s k.rood pos, dst := pos
      signalCtr := 0, localAddr := stage, remoteAddr := 0, bytes := bs.length, cluster := 0, entry := 0
      shard := shard, target := 1, s := 2 * k.cfg.d, bind := b, dlRod := close % 2 ^ 48, dlEra := close / 2 ^ 48 }
    (wrBytes stage bs s)

/-- This replica sends each surviving owner its C, its spoiled flag and the FP32 values of the owner's part of G (R287). -/
def sendGather (b : Nat) (s : State) : State :=
  match bindOf s b with
  | none => s
  | some k =>
    let g := gArray s k.cfg k.step
    let head := leBytes 2 k.contributed.length ++ leBytes 1 (if k.spoiled then 1 else 0) ++ leBytes 61 0
    forAll ((survivors k).filter fun q => q != k.cfg.replica) (fun q t =>
      sendShard b k q k.cfg.replica (gatherStage b q) (head ++ (gatherPart k q).flatMap fun p => leBytes 4 (g.getD p 0#32).toNat) t) s

/-- The exchange of replicas begins once the close has settled, outside SCORE rods (R287, R295). -/
def startGather (b : Nat) (s : State) : State :=
  match bindOf s b with
  | none => s
  | some k =>
    if k.st = .closed ∧ k.settled ∧ !k.skipped ∧ 1 < k.cfg.d ∧ !k.gatherSent ∧ scrupleRuns s k.rood then
      sendGather b (modBind b (fun k => { k with gatherSent := true }) s)
    else s

/-- The close settles once every in-time GACC has ended: micro-batches that never contributed are dropped, and the exchange of
replicas begins (R286, R287). -/
def settleClose (b : Nat) (s : State) : State :=
  match bindOf s b with
  | none => s
  | some k =>
    if k.st ≠ .closed ∨ k.settled ∨ gaccPending s k then s
    else
      let mask := maskOf k.cfg.mbCount fun m => !k.contributed.contains m
      let s := modBind b (fun k => { k with settled := true }) s
      startGather b (if mask = 0 then s else logTrain 0x43 k.rood b (mask % 2 ^ 48) s)

/-- Scruple takes the entry at CONSUMER: CONSUMER moves on, and the ring header shows it (R282). -/
def takeEntry (b : Nat) (s : State) : State :=
  writeHeader b (modBind b (fun k => { k with
    consumer := (k.consumer + 1) % 2 ^ 32, visible := k.visible.filter fun e => after 32 e.1 (k.consumer + 1) }) s)

/-- The entry's source cannot be read: the micro-batch is accepted, and the step's G is spoiled (R285). -/
def spoilGacc (b : Nat) (k : Bind) (i mb : Nat) (s : State) : State :=
  endGacc b k i Sts.uncorrectable (modBind b (fun k => { k with accepted := k.accepted ++ [mb], spoiled := true, running := none }) s)

/-- GACC: the entry in progress, or the one at CONSUMER, which is taken. One whose source waits for a ring is in progress until it can be
read (R282 to R285; 07 R218). -/
def takeGacc (b : Nat) (readable : Bool) (s : State) : State :=
  match bindOf s b with
  | none => s
  | some k =>
    let i := k.running.getD k.consumer
    let a := entryAt k.cfg i
    let mb := rdLe s (a + 1) 1 % 64
    let src := rdLe s (a + 16) 6
    if (k.running.isNone ∧ k.producer = k.consumer) ∨ !scrupleRuns s k.rood ∨ !bindRing s k then s
    else
      let refused := if k.running.isSome then none else gaccCheck s k i mb (rdLe s (a + 8) 8) src
      let got := sourceReads s k src
      let s := if k.running.isSome then s else takeEntry b s
      match refused with
      | some st =>
        let s := if st = Sts.notPermitted ∧ grant s k.rood src (stagedBytes k.cfg) = .unmapped then logUnmapped src 2 k.rood s else s
        settleClose b (endGacc b k i st s)
      | none =>
        match got with
        | .stall => modBind b (fun k => { k with running := some i }) s
        | .ends _ => settleClose b (spoilGacc b k i mb (logPoison k.rood [(src, stagedBytes k.cfg)] s))
        | .got _ =>
          if !readable then settleClose b (spoilGacc b k i mb s)
          else
            let s := accumulate k mb src s
            settleClose b (endGacc b k i Sts.ok (modBind b (fun k => { k with
              accepted := k.accepted ++ [mb], contributed := k.contributed ++ [mb], running := none }) s))

/-- CLOSE_DEADLINE: the binding becomes CLOSED. -/
def closeStep (b : Nat) (s : State) : State :=
  match bindOf s b with
  | none => s
  | some k =>
    if k.st ≠ .backward ∨ s.time.now ≤ closeStamp s k then s
    else
      let s := settleClose b (setBind b .closed s)
      forAll ((s.fab.early.filter fun e => partTarget e.2 == 1 && partBind e.2 == b).map (·.1)) earlyAgain s

/-! ### Replicas and the norm (R287 to R290) -/

/-- Shards q with q in l have arrived whole. -/
def shardsHere (k : Bind) (l : List Nat) : Bool := l.all fun q => k.gmask.testBit q

/-- The owner's part: the partials of the surviving replicas in ascending order, each sum rounded once to GFMT; C and the spoiled flag
of the whole set (R287, steps 3 and 4). -/
def combineOwn (b : Nat) (k : Bind) (s : State) : State :=
  let who := survivors k
  let g := gArray s k.cfg k.step
  let own := gatherPart k k.cfg.replica
  let at' (q i p : Nat) : F32 := if q = k.cfg.replica then g.getD p 0#32 else rdF32 s (gatherIn b q + 64 + 4 * i)
  let sum (i p : Nat) : F32 := match who with | [] => 0#32 | q :: qs => sumFrom (at' q i p) (qs.map fun x => at' x i p)
  let cnt (q : Nat) : Nat := if q = k.cfg.replica then k.contributed.length else rdLe s (gatherIn b q) 2
  let bad (q : Nat) : Bool := if q = k.cfg.replica then k.spoiled else rdLe s (gatherIn b q + 2) 1 % 2 == 1
  let all := (List.range k.cfg.params).map fun p => match own.idxOf? p with | some i => sum i p | none => g.getD p 0#32
  let s := putG k.rood k.cfg k.step (k.step * 64 + 63) all s
  let bs := own.flatMap fun p => leBytes 2 (rdLe s (gBase k.cfg + 4096 * (p / 2048) + 2 * (p % 2048)) 2)
  let s := modBind b (fun k => { k with
    combined := true, cnt := (who.map cnt).foldl (· + ·) 0, spoiled := who.any bad }) s
  if bs.isEmpty then s
  else forAll (who.filter fun q => q != k.cfg.replica) (fun q t =>
    sendShard b k q (k.cfg.d + k.cfg.replica) (gatherStage b (8 + q)) bs t) s

/-- Owners, other than this replica, whose rounded values it waits for. -/
def otherOwners (k : Bind) : List Nat := (survivors k).filter fun q => q != k.cfg.replica && !(gatherPart k q).isEmpty

/-- The rounded values of the other owners complete G, which is then identical everywhere (R287, step 4). -/
def spreadG (b : Nat) (k : Bind) (s : State) : State :=
  let g := gArray s k.cfg k.step
  let from_ (p : Nat) : Option F32 := (otherOwners k).findSome? fun q =>
    ((gatherPart k q).idxOf? p).map fun i => toF32 (decodeElem k.cfg.gfmt (rdLe s (gatherIn b (k.cfg.d + q) + 2 * i) 2))
  let s := putG k.rood k.cfg k.step (k.step * 64 + 63) ((List.range k.cfg.params).map fun p => (from_ p).getD (g.getD p 0#32)) s
  modBind b (fun k => { k with gathered := true }) s

/-- A shard of the running exchange is still on its way to another replica. -/
def shardsOut (s : State) (b : Nat) : Bool := s.fab.xfers.any fun e => isShard e.2.body && e.2.desc == 2 ^ 64 && e.2.body.bind == b

/-- The exchange is complete at this replica: every other's part is here, and its own shards have arrived (R287). -/
def exchanged (s : State) (b : Nat) (k : Bind) : Bool := k.gathered && k.gatherSent && !k.gatherFailed && !shardsOut s b

/-- The settle interval after the first tick of rod count n has passed: what came before it has been seen (10 R323). -/
def settledAfter (s : State) (n : Nat) : Bool := n * rodLen s - 4 + settleTicks ≤ s.time.now

/-- GATHER of the running step, outside SCORE rods (R295): once the partials of every surviving replica are here this replica combines its part and sends it; once the others' parts
are here too, G is complete. -/
def gatherStep (b step : Nat) (s : State) : State :=
  match bindOf s b with
  | none => s
  | some k =>
    if k.step ≠ step ∨ k.st ≠ .closed ∨ k.skipped ∨ k.cfg.d < 2 ∨ k.gathered ∨ !k.settled ∨
        furlongEnd k (k.cfg.close + k.cfg.gather - 1) ≤ rodCount s ∨ !scrupleRuns s k.rood then s
    else
      let s := if !k.combined && shardsHere k ((survivors k).filter fun q => q != k.cfg.replica) then combineOwn b k s else s
      match bindOf s b with
      | none => s
      | some k => if k.combined && shardsHere k ((otherOwners k).map (k.cfg.d + ·)) then spreadG b k s else s

/-- GATHER_TIMEOUT: the exchange is not complete by the end of furlong CLOSE + GATHER − 1, decided after the settle interval (10 R323). -/
def gatherLate (b : Nat) (s : State) : State :=
  match bindOf s b with
  | none => s
  | some k =>
    if k.st = .closed ∧ !k.skipped ∧ 1 < k.cfg.d ∧ !exchanged s b k ∧ settledAfter s (furlongEnd k (k.cfg.close + k.cfg.gather - 1)) then
      skipStep b 5 s
    else s

/-- C of the step (R286, R287). -/
def stepCount (k : Bind) : Nat := if 1 < k.cfg.d then k.cnt else k.contributed.length

/-- x[p] of the step (R288). -/
def scaledG (s : State) (k : Bind) : List F32 :=
  let a := fTrans 0x12 (fOfNat (stepCount k))
  (gArray s k.cfg k.step).map fun g => fMul g a

/-- Sum of squares of one segment: each square exact, one rounding each. -/
def segmentSum (xs : List F32) : F32 := xs.foldl (fun q x => accStep q ((decodeF32 x).mul (decodeF32 x))) 0#32

/-- SS of the stage (R288). -/
def stageSum (s : State) (k : Bind) : F32 :=
  if stepCount k = 0 then 0#32
  else
    let xs := scaledG s k
    let q (j : Nat) : F32 := segmentSum ((xs.drop (j * 2 ^ 20)).take (2 ^ 20))
    sumFrom (q 0) ((List.range ((k.cfg.params + 2 ^ 20 - 1) / 2 ^ 20)).tail.map q)

/-- n² of the partials in ascending stage order (R289). -/
def normSquare (n : Nat) (parts : Table NormPart) : F32 :=
  let ss (i : Nat) : F32 := match tfind i parts with | some p => p.ss | none => 0#32
  sumFrom (ss 0) ((List.range n).tail.map ss)

/-- The root's decision with every partial present (R290, conditions 2 to 5). -/
def decideClip (k : Bind) (n : Nat) : Sum Nat F32 :=
  let n2 := normSquare n k.parts
  let cap := fMul k.hyper.maxNorm k.hyper.maxNorm
  if k.parts.any fun p => p.2.cnt == 0 then .inl 2
  else if k.parts.any fun p => p.2.spoiled then .inl 3
  else if !fIsFin n2 then .inl 4
  else if k.hyper.maxNorm = 0#32 ∨ fLe n2 cap = f32One then .inr f32One
  else .inr (fMin f32One (fMul k.hyper.maxNorm (fTrans 0x13 n2)))

/-- Rod count of the end of the last SCORE rod of furlong CLOSE + GATHER + 1; with no SCORE rod in the plan, of that furlong
(R290; log 27). -/
def normDeadline (s : State) (k : Bind) : Nat :=
  let plan := match s.roods[k.rood]? with | some r => r.plan | none => 0
  let f := (k.startFurlong + k.cfg.close + k.cfg.gather + 1) * 40
  match (List.range 40).reverse.find? fun p => planClass plan p == 1 with
  | some p => f + p + 1
  | none => f + 40

/-- The root decides once it holds the partials of all stages: it sends every stage the clip record; one that came after the deadline was
missing at it, which NORM_TIMEOUT decides (R289, R290; 10 R323). -/
def decideStep (b : Nat) (s : State) : State :=
  match bindOf s b with
  | none => s
  | some k =>
    let n := (stepStages s k).length
    if !isRoot s k ∨ k.st ≠ .closed ∨ k.skipped ∨ k.clip.isSome ∨ n = 0 ∨ !(List.range n).all (fun i => (tfind i k.parts).isSome) then s
    else if normDeadline s k ≤ rodCount s then s
    else
      match decideClip k n with
      | .inl cause => rootSkip b cause s
      | .inr c =>
        let rest := leBytes 4 0 ++ leBytes 4 c.toNat
        let s := modBind b (fun k => { k with clip := some c }) (toPeers k 0x21 rest (toStages k 0x21 rest s))
        let limited := k.hyper.maxNorm ≠ 0#32 ∧ fLe (normSquare n k.parts) (fMul k.hyper.maxNorm k.hyper.maxNorm) ≠ f32One
        if limited then logTrain 0x44 k.rood b c.toNat s else s

/-- Take a partial into the binding's table, the first of each stage. -/
def notePart (b stage : Nat) (p : NormPart) (s : State) : State :=
  modBind b (fun k => if (tfind stage k.parts).isSome then k else { k with parts := tset stage p k.parts }) s

/-- Bytes 16 to 23 of a NORM_PARTIAL packet. -/
def partBytes (stage : Nat) (p : NormPart) : List Byte :=
  leBytes 1 stage ++ leBytes 1 p.cnt ++ leBytes 1 (if p.spoiled then 1 else 0) ++ leBytes 1 0 ++ leBytes 4 p.ss.toNat

/-- NORM_PARTIAL: after the close and any gather, and every in-time GACC (R286, R288). -/
def sendPartial (b : Nat) (s : State) : State :=
  match bindOf s b with
  | none => s
  | some k =>
    if k.st ≠ .closed ∨ k.skipped ∨ (1 < k.cfg.d ∧ !exchanged s b k) ∨ !k.settled ∨ !scrupleRuns s k.rood ∨
        (tfind k.cfg.stage k.parts).isSome then s
    else
      let p : NormPart := ⟨stepCount k, stageSum s k, k.spoiled⟩
      let s := notePart b k.cfg.stage p s
      if isRoot s k then decideStep b (toPeers k 0x20 (partBytes k.cfg.stage p) s)
      else stepPkt k (rootOf s k) 0x20 (partBytes k.cfg.stage p) s

/-- NORM_PARTIAL_RECEIVE at the root, of the step that runs; under the degraded rules it goes on to the roots of the replica set (14 R429). -/
def receivePart (b : Nat) (head : NormHead) (cnt : Nat) (ss : F32) (spoiled : Bool) (s : State) : State :=
  match bindOf s b with
  | none => s
  | some k =>
    if k.cfg.adapter ≠ head.adapter ∨ k.step ≠ head.step ∨ !isRoot s k ∨ !inStep k.st ∨ k.skipped ∨
        (stepStages s k).length ≤ head.stage then s
    else
      let p : NormPart := ⟨cnt, ss, spoiled⟩
      let s := if (tfind head.stage k.parts).isSome then s else toPeers k 0x20 (partBytes head.stage p) s
      decideStep b (notePart b head.stage p s)

/-- NORM_TIMEOUT at the root, after the settle interval (10 R323). A root whose own step a gather skipped has sent no partial, so it sends the record then (R287, R290). -/
def normLate (b : Nat) (s : State) : State :=
  match bindOf s b with
  | none => s
  | some k =>
    if isRoot s k ∧ k.st = .closed ∧ k.clip = none ∧ settledAfter s (normDeadline s k) then
      if !k.skipped then rootSkip b 1 s else if k.skipCause = 0 then sendSkip b k 1 s else s
    else s

/-! ### The update (R291) -/

/-- Bias terms and constants of one applied step. -/
structure UpdateTerms where
  k1 : F32
  k2 : F32
  i1 : F32
  i2 : F32
  b1 : F32
  b2 : F32
  e2 : F32

def updateTerms (k : Bind) : UpdateTerms :=
  let h := k.hyper
  let adam := k.cfg.opt = 0
  let k1 := if adam then fMul k.k1 h.beta1 else k.k1
  let k2 := if adam then fMul k.k2 h.beta2 else k.k2
  { k1 := k1, k2 := k2, i1 := fTrans 0x12 (fSub f32One k1), i2 := fTrans 0x12 (fSub f32One k2)
    b1 := fSub f32One h.beta1, b2 := fSub f32One h.beta2, e2 := fMul h.eps h.eps }

/-- One parameter: w, m, v and g give the new w, m, v. -/
def updateOne (k : Bind) (t : UpdateTerms) (w m v g : F32) : F32 × F32 × F32 :=
  let h := k.hyper
  if k.cfg.opt = 0 then
    let m := fFma h.beta1 m (fMul t.b1 g)
    let v := fFma h.beta2 v (fMul t.b2 (fMul g g))
    let u := fMul (fMul m t.i1) (fTrans 0x13 (fAdd (fMul v t.i2) t.e2))
    (fFma (fNeg h.lr) (fFma h.wd w u) w, m, v)
  else
    let d := fFma h.wd w g
    let m := fFma h.beta1 m d
    let d := if k.cfg.opt = 2 then fFma h.beta1 m d else m
    (fFma (fNeg h.lr) d w, m, v)

/-- The arrays after the optimiser. -/
def updated (s : State) (k : Bind) (c : F32) : List (F32 × F32 × F32) :=
  let t := updateTerms k
  let x := scaledG s k
  (List.range k.cfg.params).map fun p =>
    updateOne k t (fpAt s (fpBase k.cfg 0) p) (fpAt s (fpBase k.cfg 1) p)
      (if k.cfg.opt = 0 then fpAt s (fpBase k.cfg 2) p else 0#32) (fMul (x.getD p 0#32) c)

/-- Snapshots not complete when the update begins are abandoned (14 R432). -/
def abandonSnaps (b : Nat) (k : Bind) (s : State) : State :=
  forAll k.snapBusy (fun kind t => logTrain 0x64 k.rood b (packLe [(kind, 1), (k.digestStep % 2 ^ 32, 4)]) t)
    (modBind b (fun k => { k with snapBusy := [] }) s)

/-- Scruple writes MASTER, M and V; the bias terms advance. -/
def updateArrays (b : Nat) (k : Bind) (c : F32) (s : State) : State :=
  let s := abandonSnaps b k s
  let us := updated s k c
  let t := updateTerms k
  let v := (k.version + 1) % 2 ^ 32
  let s := putFp k.rood k.cfg 1 v (us.map (·.2.1)) (putFp k.rood k.cfg 0 v (us.map (·.1)) s)
  let s := if k.cfg.opt = 0 then putFp k.rood k.cfg 2 v (us.map (·.2.2)) s else s
  modBind b (fun k => { k with moved := true, k1 := t.k1, k2 := t.k2 }) s

/-- Scruple writes the working copy of version v + 1 and reports to the root. -/
def updateWork (b : Nat) (k : Bind) (s : State) : State :=
  let v := (k.version + 1) % 2 ^ 32
  let s := putWork k.rood k.cfg v (fpArray s (fpBase k.cfg 0) k.cfg.params) s
  let s := modBind b (fun k => { k with updated := true, updatesDone := k.updatesDone ++ [k.cfg.stage] }) s
  if isRoot s k then s else stepPkt k (rootOf s k) 0x22 (leBytes 1 k.cfg.stage) s

/-- UPDATE: on receiving c the binding enters UPDATING; outside SCORE rods Scruple writes the arrays, and the working copy once version
v − 1 is retired (R295; 08 R267). -/
def updateStep (b : Nat) (c : F32) (s : State) : State :=
  match bindOf s b with
  | none => s
  | some k =>
    let decided := if isRoot s k then k.clip == some c else (tfind k.cfg.stage k.parts).isSome
    let entering := k.st == .closed && !k.skipped && decided
    let waiting := k.st == .updating && !k.updated && k.clip == some c
    if !(entering || waiting) then s
    else
      let s := if entering && !isRoot s k then toPeers k 0x21 (leBytes 4 0 ++ leBytes 4 c.toNat) s else s
      let s := if entering then setBind b .updating (modBind b (fun k => { k with clip := some c }) s) else s
      if !scrupleRuns s k.rood then s
      else
        let s := if k.moved then s else updateArrays b k c s
        let sl := slotOf s k.rood k.cfg.slot
        if sl.prev.isSome then
          if k.holdLogged then s
          else logBase 0x39 k.rood (packLe [(k.cfg.slot, 2), ((sl.prev.map (·.version)).getD 0, 4)])
            (modBind b (fun k => { k with holdLogged := true }) s)
        else updateWork b k s

/-- UPDATE_SKIPPED: a SKIP record reaches a stage. -/
def takeSkip (b cause : Nat) (s : State) : State :=
  match bindOf s b with
  | none => s
  | some k =>
    if isRoot s k ∨ k.st ≠ .closed ∨ k.skipped ∨ k.clip.isSome then s
    else skipStep b cause (toPeers k 0x21 (leBytes 1 1 ++ leBytes 1 cause ++ leBytes 2 0 ++ leBytes 4 0) s)

/-! ### Flips (R293) -/

/-- UPDATE_DONE of a stage at the root. -/
def noteDone (b stage : Nat) (s : State) : State :=
  match bindOf s b with
  | none => s
  | some k =>
    if !isRoot s k ∨ k.skipped ∨ !(k.st = .updating ∨ k.st = .closed) ∨ k.updatesDone.contains stage then s
    else modBind b (fun k => { k with updatesDone := k.updatesDone ++ [stage] }) s

/-- The root holds UPDATE_DONE from every stage that is not lost. -/
def allUpdated (s : State) (k : Bind) : Bool :=
  let st := stepStages s k
  k.updated && (List.range st.length).all fun i => k.updatesDone.contains i || (lostNow k).contains (st.getD i 0)

/-- The boundary at which the root flips: the first at or after STEP_LEN that is still ahead. -/
def flipBoundary (s : State) (k : Bind) : Nat := max ((k.startFurlong + k.cfg.stepLen) * 40) (nextBoundary s)

/-- FLIP_ROD: the root names the boundary to every stage, or a stage takes the rod that its root named. -/
def nameFlip (b rod : Nat) (s : State) : State :=
  match bindOf s b with
  | none => s
  | some k =>
    if k.st ≠ .updating ∨ k.flipAt.isSome then s
    else
      let rest (n : Nat) : List Byte := leBytes 6 (n % 2 ^ 48) ++ leBytes 2 (n / 2 ^ 48)
      if isRoot s k then
        let n := flipBoundary s k
        if !allUpdated s k ∨ n % 2 ^ 48 ≠ rod % 2 ^ 48 ∨ (k.startFurlong + k.cfg.stepLen + 16) * 40 < n then s
        else modBind b (fun k => { k with flipAt := some n }) (toPeers k 0x23 (rest n) (toStages k 0x23 (rest n) s))
      else
        let n := rodFrom (rodCount s) rod
        if n % 40 ≠ 0 ∨ !k.updated then s
        else modBind b (fun k => { k with flipAt := some n }) (toPeers k 0x23 (rest n) s)

/-- FLIP_TIMEOUT: sixteen furlongs after STEP_LEN without every UPDATE_DONE (R293). -/
def flipLate (b : Nat) (s : State) : State :=
  match bindOf s b with
  | none => s
  | some k =>
    if (k.st = .updating ∨ (k.st = .closed ∧ !k.skipped)) ∧ k.flipAt = none ∧ (k.startFurlong + k.cfg.stepLen + 16) * 40 ≤ rodCount s then
      faultBind b 0x08 s
    else s

/-! ### Digests and due snapshots (14 R431, R432) -/

/-- Digest of a binding's state as it stands. -/
def bindDigest (s : State) (k : Bind) : Nat :=
  stateDigest ((List.range (fpArrays k.cfg)).map fun i => fpArray s (fpBase k.cfg i) k.cfg.params) k.step k.version k.k1 k.k2 k.cfg.params

/-- Snapshots due at a flip to a step: 0 mirror, 1 checkpoint. -/
def dueSnaps (p : Option Protect) (step : Nat) : List Nat :=
  match p with
  | none => []
  | some p =>
    (if p.mirrorEvery ≠ 0 ∧ step % p.mirrorEvery = 0 then [0] else []) ++
      (if p.ckptEvery ≠ 0 ∧ step % p.ckptEvery = 0 then [1] else [])

/-- Binding b flips: version v + 1 becomes CUR, the old CUR becomes PREV, and the step ends (R293; 08 R267). -/
def flipBind (b : Nat) (s : State) : State :=
  match bindOf s b with
  | none => s
  | some k =>
    match k.flipAt with
    | none => s
    | some n =>
      if k.st ≠ .updating ∨ !k.updated ∨ !atFurlong s ∨ rodCount s < n then s
      else
        let v := (k.version + 1) % 2 ^ 32
        let s := modSlot k.cfg.slot (fun x => { x with cur := some { version := v }, prev := x.cur }) s
        let s := dropStepHold b k s
        let due := k.startFurlong + k.cfg.stepLen
        let s := logTrain 0x46 k.rood b v s
        let s := if due * 40 < n then logTrain 0x47 k.rood b (n / 40 - due) s else s
        let s := modBind b (fun k => { k with
          version := v
          digest := bindDigest s { k with version := v }
          digestStep := k.step
          digestValid := true
          protect := if k.nextProtect.isSome then k.nextProtect else k.protect
          nextProtect := none
          snapBusy := dueSnaps (if k.nextProtect.isSome then k.nextProtect else k.protect) k.step
          nextStart := some (n / 40) }) s
        unbindIfAsked b (setBind b .idle s)

/-- VERSION_FLIP of a slot: of its binding in training, or of a staged image (08 R267). -/
def slotFlip (slot : Nat) (s : State) : State :=
  match tfind slot s.slots with
  | none => s
  | some k => match k.training with | some b => flipBind b s | none => flipVersion slot s

/-! ### Meanings -/

/-- A step command that a control packet brings is of the binding's adapter and running step, and says what the command says; what the
module decides about itself needs no packet (11 R348, R351, R356). -/
def fromStep (m : StepMsg) (sub : Nat) (rest : List Byte) (f : Nat → State → State) (s : State) : State :=
  if m.packet.src = s.fab.pos then f m.bind s
  else
    onControl m.packet sub (fun p s =>
      match bindOf s m.bind with
      | none => s
      | some k =>
        if k.rood = p.dstRood ∧ field p.data 0 8 = k.cfg.adapter ∧ field p.data 8 8 = k.step ∧ (p.data.drop 16).take rest.length = rest then
          f m.bind s
        else s) s

/-- TRAIN_BIND (R275). -/
def execTrainBind (r : Nat) (s : State) : Answer := .next (trainBind r s)
/-- TRAIN_SET (R276). -/
def execTrainSet (r : Nat) (s : State) : Answer := .next (trainSet r s)
/-- TRAIN_UNBIND (R276). -/
def execTrainUnbind (r : Nat) (s : State) : Answer := .next (trainUnbind r s)
/-- TRAIN_BOUND (R275). -/
def execTrainBound (b : Nat) (img : SnapView) (s : State) : Answer := .next (trainBound b img s)
/-- STEP_START (R278). -/
def execStepStart (b : Nat) (s : State) : Answer := .next (stepStart b s)
/-- BWD_START (R277). -/
def execBwdStart (b : Nat) (s : State) : Answer := .next (backwardStart b s)
/-- PRODUCER_WRITE (R282). -/
def execProducerWrite (b v : Nat) (s : State) : Answer := .next (writeProducer b v s)
/-- GACC (R284). -/
def execGacc (b : Nat) (readable : Bool) (s : State) : Answer := .next (takeGacc b readable s)
/-- CLOSE_DEADLINE (R286). -/
def execCloseDeadline (b : Nat) (s : State) : Answer := .next (closeStep b s)
/-- GATHER (R287). -/
def execGather (b step : Nat) (s : State) : Answer := .next (gatherStep b step s)
/-- GATHER_TIMEOUT (R287). -/
def execGatherTimeout (b : Nat) (s : State) : Answer := .next (gatherLate b s)
/-- NORM_PARTIAL (R288). -/
def execNormPartial (b : Nat) (s : State) : Answer := .next (sendPartial b s)
/-- NORM_PARTIAL_RECEIVE (R289). -/
def execNormPartialReceive (b : StepMsg) (head : NormHead) (cnt : Nat) (ss : F32) (spoiled : Bool) (s : State) : Answer :=
  .next (fromStep b 0x20 (partBytes head.stage ⟨cnt, ss, spoiled⟩) (fun b => receivePart b head cnt ss spoiled) s)
/-- NORM_TIMEOUT (R290). -/
def execNormTimeout (b : Nat) (s : State) : Answer := .next (normLate b s)
/-- UPDATE (R291). -/
def execUpdate (b : StepMsg) (clip : F32) (s : State) : Answer :=
  .next (fromStep b 0x21 (leBytes 4 0 ++ leBytes 4 clip.toNat) (fun b => updateStep b clip) s)
/-- UPDATE_SKIPPED (R292). -/
def execUpdateSkipped (b : StepMsg) (cause : Nat) (s : State) : Answer :=
  .next (fromStep b 0x21 (leBytes 1 1 ++ leBytes 1 cause) (fun b => takeSkip b cause) s)
/-- UPDATE_DONE (R293). -/
def execUpdateDone (b : StepMsg) (stage : Nat) (s : State) : Answer := .next (fromStep b 0x22 (leBytes 1 stage) (fun b => noteDone b stage) s)
/-- FLIP_ROD (R293). -/
def execFlipRod (b : StepMsg) (rod : Nat) (s : State) : Answer := .next (fromStep b 0x23 (leBytes 6 rod) (fun b => nameFlip b rod) s)
/-- FLIP_TIMEOUT (R293). -/
def execFlipTimeout (b : Nat) (s : State) : Answer := .next (flipLate b s)
/-- VERSION_FLIP (08 R267). -/
def execVersionFlip (slot : Nat) (s : State) : Answer := .next (slotFlip slot s)

end Sys2Proof.Machine
end

