-- ==== Sys2Proof/Machine/Recover.lean ====
section
/-! DEFINITION. Snapshots, restores, lost members and re-mapping; uncorrectable errors of the stack tier (14 R426 to R437; 07
R230, R231; 04 R126). -/
namespace Sys2Proof.Machine

/-! ### Snapshots (R431, R432) -/

/-- A snapshot header (Table 14.7). -/
def snapHeader (s : State) (k : Bind) : List Byte :=
  let c := k.cfg
  let h := leBytes 8 c.adapter ++ leBytes 4 c.pid ++ leBytes 4 c.params ++ leBytes 8 k.digestStep ++ leBytes 4 k.version ++
    leBytes 1 c.opt ++ leBytes 1 (c.wfmt + 16 * c.gfmt) ++ leBytes 1 (c.wrnd + 4 * c.wscsel + 8 * c.grnd) ++ leBytes 1 0 ++
    leBytes 4 k.k1.toNat ++ leBytes 4 k.k2.toNat ++ leBytes 8 c.seed ++ leBytes 4 c.tensorId ++ leBytes 4 ((k.snapSeq + 1) % 2 ^ 32) ++
    leBytes 8 s.time.now ++ leBytes 48 k.digest ++ leBytes 16 0
  h ++ leBytes 4 (crc32c h) ++ List.replicate 3964 0

/-- Staging address of a snapshot header on its way to the mirror. -/
def snapStage (b : Nat) : Nat := 2 ^ 51 + 4096 * b

/-- The transfer that carries bytes of a binding's snapshot to its partner. -/
def mirrorXfer (s : State) (k : Bind) (p : Protect) (local_ off n : Nat) : XferBody where
  op := 0
  ordered := true
  signal := false
  noDetour := false
  dstRood := p.peerRood
  dst := p.partner
  signalCtr := 0
  localAddr := local_
  remoteAddr := p.mirrorAddr + k.mirrorHalf * snapSize k.cfg + off
  bytes := n
  cluster := 0
  entry := 0
  shard := 0
  target := 0
  s := 0
  bind := 0
  dlRod := rodNum s
  dlEra := 0

/-- Bushels [lo, lo + n) of a checkpoint slot are written from data pages. -/
def ckptWrite (k : Bind) (lo : Nat) (pages : List (Meta × List Byte)) (s : State) : State :=
  let base := (k.cfg.ckptOffset + k.ckptHalf * snapSize k.cfg) / 4096
  forAll ((List.range pages.length).zip pages) (fun p t => flashPut k.rood (base + lo + p.1) p.2.1 p.2.2 t) s

/-- The pages of the arrays as they lie in the stack. -/
def arrayPages (s : State) (c : BindCfg) : List (Meta × List Byte) :=
  (List.range (fpArrays c * arrayBushels 0 c.params)).map fun q =>
    (metaAt s (c.region + 4096 * q), rdBytes s (c.region + 4096 * q) 4096)

/-- A layer of defence is gone until PROTECT names a new one (R435). -/
def layerLost (b : Nat) (k : Bind) (layer : Nat) (s : State) : State :=
  logTrain 0x68 k.rood b layer (modBind b (fun k => { k with
    snapBusy := k.snapBusy.filter (fun x => x + 2 != layer)
    protect := k.protect.map fun p => if layer = 2 then { p with mirrorEvery := 0 } else { p with ckptEvery := 0 } }) s)

/-- The header is written last: the snapshot is valid and counts (R432). -/
def snapDone (b : Nat) (k : Bind) (kind : Nat) (s : State) : State :=
  let s := modBind b (fun k => { k with
    snapSeq := (k.snapSeq + 1) % 2 ^ 32
    snapBusy := k.snapBusy.filter (· != kind)
    mirrorHalf := if kind = 0 then 1 - k.mirrorHalf else k.mirrorHalf
    ckptHalf := if kind = 1 then 1 - k.ckptHalf else k.ckptHalf }) s
  logTrain 0x63 k.rood b (packLe [(kind, 1), ((k.snapSeq + 1) % 2 ^ 32, 4)]) s

/-- SNAPSHOT: the arrays are written; once they are complete, the header (R432). -/
def snapshot (b kind : Nat) (done : Bool) (s : State) : State :=
  match bindOf s b with
  | none => s
  | some k =>
    match k.protect with
    | none => s
    | some p =>
      if !k.snapBusy.contains kind then s
      else if kind = 0 then
        if (pathsTo s p.partner).isEmpty ∨ !fabricOn s then layerLost b k 2 s
        else if !done then openXfer (2 ^ 64) k.rood (mirrorXfer s k p k.cfg.region 4096 (snapArrays k.cfg)) s
        else snapDone b k 0 (openXfer (2 ^ 64) k.rood (mirrorXfer s k p (snapStage b) 0 4096) (wrBytes (snapStage b) (snapHeader s k) s))
      else
        let base := (k.cfg.ckptOffset + k.ckptHalf * snapSize k.cfg) / 4096
        if flashAccess s k.rood base (snapSize k.cfg / 4096) ≠ Sts.ok ∨ s.flash.mode = 1 then layerLost b k 3 s
        else if !done then ckptWrite k 1 (arrayPages s k.cfg) s
        else
          let h := snapHeader s k
          snapDone b k 1 (ckptWrite k 0 [(sealBushel (rawMeta k.rood) h, h)] s)

/-- PROTECT. -/
def protectBind (r : Nat) (s : State) : State :=
  match nextCmd s .training r 0x28 with
  | none => s
  | some c =>
    match namedBind s r c with
    | .inl st => finalReply .training r c st 0 s
    | .inr (b, _) =>
      let p : Protect := {
        partner := field c.bytes 14 2, peerRood := field c.bytes 3 1 % 16, mirrorAddr := field c.bytes 30 6
        mirrorEvery := field c.bytes 36 2, ckptEvery := field c.bytes 38 2 }
      finalReply .training r c Sts.ok 0 (modBind b (fun k => { k with nextProtect := some p }) s)

/-! ### Restore (R433, R435) -/

/-- A layer gives the state: readable, whole, and of the expected digest. -/
def layerGood (k : Bind) (expect : Nat) (step : Nat) (v : SnapView) : Bool :=
  let d := stateDigest (viewArrays k v) step v.version v.k1 v.k2 k.cfg.params
  v.readable && (viewArrays k v).all (fun a => a.length == k.cfg.params) &&
    (if v.layer = 1 then expect == 0 || d == expect else d == v.digest)

/-- Scruple writes the restored state. -/
def writeRestored (b : Nat) (k : Bind) (step : Nat) (v : SnapView) (s : State) : State :=
  let s := putFp k.rood k.cfg 1 v.version v.m (putFp k.rood k.cfg 0 v.version v.master s)
  let s := if k.cfg.opt = 0 then putFp k.rood k.cfg 2 v.version v.v s else s
  let s := putWork k.rood k.cfg v.version v.master s
  let s := modSlot k.cfg.slot (fun x => { x with cur := some { version := v.version, holds := (x.cur.map (·.holds)).getD 0 } }) s
  modBind b (fun k => { k with
    step := step, version := v.version, k1 := v.k1, k2 := v.k2
    digest := stateDigest (viewArrays k v) step v.version v.k1 v.k2 k.cfg.params
    digestStep := step, digestValid := true, restored := true }) s

/-- Try layers from one upward; layer 3 lies in the flash (Table 14.8). -/
def tryLayers (b : Nat) (c : Cmd) (views : List SnapView) : Nat → Nat → Nat → State → State
  | 0, _, _, s => s
  | fuel + 1, layer, last, s =>
    match bindOf s b with
    | none => s
    | some k =>
      let fail (st : Nat) (s : State) : State := logTrain 0x65 k.rood b (packLe [(layer, 1), (st, 1)]) s
      let next (s : State) : State :=
        if layer = last then
          finalReply .training k.rood c Sts.noGoodState 0 (modBind b (fun k => { k with cause := 0x09 }) s)
        else tryLayers b c views fuel (layer + 1) last s
      let got := if layer = 3 then readCheckpoint s k else views.find? fun v => v.layer == layer
      let s := if layer = 3 then fetchCheckpoint k s else s
      match got with
      | none => next (fail Sts.uncorrectable s)
      | some v =>
        let step := if layer = 1 then field c.bytes 16 8 else v.step
        if !v.readable then next (fail Sts.uncorrectable s)
        else if !layerGood k (field c.bytes 80 48) step v then next (fail Sts.stateDiverged s)
        else
          let s := logTrain 0x66 k.rood b (packLe [(layer, 1), (step % 2 ^ 32, 4)]) (writeRestored b k step v s)
          finalReply .training k.rood c Sts.ok (layer + 256 * (step % 2 ^ 24)) s

/-- The RESTORE that runs next: one not taken yet, or one that waits for the end of a SCORE rod (R433; 09 R295). -/
def restoreCmd (s : State) (r : Nat) : Option Cmd :=
  match nextCmd s .training r 0x29 with
  | some c => some c
  | none => (boxOf s .training r).outstanding.find? fun c => cmdCode c == 0x29

/-- RESTORE: an IDLE binding becomes FAULTED at once, and the layers are tried in order; Scruple writes nothing in a SCORE rod (R433; 09
R295). -/
def restore (r : Nat) (views : List SnapView) (s : State) : State :=
  match restoreCmd s r with
  | none => s
  | some c =>
    match namedBind s r c with
    | .inl st => finalReply .training r c st 0 s
    | .inr (b, k) =>
      if k.st ≠ .faulted ∧ k.st ≠ .idle then finalReply .training r c Sts.protocolViolation 0 s
      else
        let s := deferReply .training r c (setBind b .faulted (modBind b (fun k => { k with nextStart := none, restored := false }) s))
        if !scrupleRuns s r then s
        else tryLayers b c views 4 (fbits c.bytes 2 1 0 3) (fbits c.bytes 2 1 3 3) s

/-! ### Lost members and re-mapping (R427 to R430, R434, R436) -/

/-- A binding that a command for an adapter concerns; 0 is every adapter. -/
def concerns (r adapter : Nat) (k : Bind) : Bool := k.rood == r && (adapter == 0 || k.cfg.adapter == adapter)

/-- Change every binding of rood r that a command for an adapter concerns. -/
def modBinds (r adapter : Nat) (f : Bind → Bind) (s : State) : State :=
  { s with binds := s.binds.map fun e => if concerns r adapter e.2 then (e.1, f e.2) else e }

/-- DECLARE_LOST. -/
def declareLost (r : Nat) (s : State) : State :=
  match nextCmd s .training r 0x2A with
  | none => s
  | some c =>
    let lost := field c.bytes 12 2
    let a := field c.bytes 72 8
    let eff := field c.bytes 40 6 + 2 ^ 48 * field c.bytes 46 2
    let s := logTrain 0x62 r noRood (packLe [(lost, 2), (a % 2 ^ 32, 4)]) s
    let s := match currentEpoch s r with
      | none => s
      | some e =>
        if !e.stages.contains lost then s
        else if e.stages.head? = some s.fab.pos then refuseLost r lost a s
        else
          forAll ((s.requests.filter fun q => q.2.rood == r && q.2.remote.isSome &&
            (a == 0 || q.2.rows.any fun t => t.adapter == a)).map (·.1)) dropRequest s
    let s := modBinds r a (fun k => { k with lost := (k.lost.filter fun l => l.1 != lost) ++ [(lost, eff)] }) s
    finalReply .training r c Sts.ok 0 s

/-- The binding of a standby that was not restored before the close contributes C = 0 to the step after want, in the epoch given (09 R297). -/
def noGradient (b want epoch : Nat) (s : State) : State :=
  match bindOf s b with
  | none => s
  | some k =>
    let k := { k with step := (want + 1) % 2 ^ 64, epoch := some epoch }
    stepPkt k (rootOf s k) 0x20 (partBytes k.cfg.stage ⟨0, 0#32, false⟩) s

/-- A restored binding joins the step that starts at rod count start, or is behind (R434). -/
def joinStep (b start want epoch : Nat) (s : State) : State × Bool :=
  match bindOf s b with
  | none => (s, true)
  | some k =>
    let f := start / 40
    if k.step ≠ want ∨ (f + k.cfg.close) * 40 ≤ rodCount s then
      (logTrain 0x48 k.rood b 0x0A (modBind b (fun k => { k with cause := 0x0A, restored := false }) (noGradient b want epoch s)), false)
    else
      let st : BindState := if (f + k.cfg.bwdStart) * 40 ≤ rodCount s then .backward else .forward
      let s := modBind b (fun k => { nextStep epoch f k with cause := 0, restored := false }) s
      (setBind b st (holdEpoch k.rood epoch s), true)

/-- Everything that a REMAP changes at EFFECTIVE (R436). -/
def applyRemap (r : Nat) (c : Cmd) (s : State) : State :=
  let from_ := field c.bytes 12 2
  let to_ := field c.bytes 14 2
  let a := field c.bytes 72 8
  let n := field c.bytes 60 4
  let start := rodNear s (field c.bytes 48 6)
  let swap (p : Nat) : Nat := if p = from_ then to_ else p
  let s := modEpoch r n (fun e => { e with stages := e.stages.map swap }) s
  let s := modBinds r a (fun k => { k with
    cfg := { k.cfg with replicas := k.cfg.replicas.map swap }, lost := k.lost.filter fun l => l.1 != from_ }) s
  let s := modRood r (fun k => { k with refused := k.refused.filter fun x => !(x.1 == from_ && (a == 0 || x.2 == a)) }) s
  let joins := if s.fab.pos = to_ then (s.binds.filter fun e => concerns r a e.2 && e.2.st == .faulted && e.2.restored).map (·.1) else []
  let res := joins.foldl (fun acc b => let x := joinStep b start (field c.bytes 16 8) n acc.1; (x.1, acc.2 && x.2)) (s, true)
  let lost := if s.fab.pos = to_ then (s.binds.filter fun e => concerns r a e.2 && e.2.st == .faulted && !e.2.restored).map (·.1) else []
  let res := (forAll lost (fun b => noGradient b (field c.bytes 16 8) n) res.1, res.2)
  let s := logTrain 0x67 r noRood (packLe [(from_, 2), (to_, 2)]) res.1
  finalReply .training r c (if res.2 then Sts.ok else Sts.restoreBehind) 0 s

/-- Rod count of a REMAP's EFFECTIVE. -/
def remapAt (c : Cmd) : Nat := field c.bytes 40 6 + 2 ^ 48 * field c.bytes 46 2

/-- REMAP: it waits for EFFECTIVE. -/
def remap (r : Nat) (s : State) : State :=
  match nextCmd s .training r 0x2B with
  | some c =>
    if (epochOf s r (field c.bytes 60 4)).isNone then finalReply .training r c Sts.baseNotLoaded 0 s
    else if reached s (remapAt c) then applyRemap r c s
    else deferReply .training r c s
  | none =>
    match (boxOf s .training r).outstanding.find? fun c => cmdCode c == 0x2B && c.deferred && reached s (remapAt c) with
    | some c => applyRemap r c s
    | none => s

/-! ### Uncorrectable errors (07 R231; 04 R126; 14 Table 14.4) -/

/-- Bindings whose arrays hold an address. -/
def bindsAt (s : State) (a : Nat) : List Nat :=
  (s.binds.filter fun e => e.2.cfg.region ≤ a && a < e.2.cfg.region + arraysBytes e.2.cfg).map (·.1)

/-- A bushel of stack t has no good copy: it stays bad, and an engine halted at it drops what it has applied and goes on to end its
pass (04 R126). -/
def bushelLost (t a : Nat) : State → State :=
  modStack t fun k => { k with
    errs := tdel a k.errs
    bad := if k.bad.contains a then k.bad else k.bad ++ [a]
    engines := k.engines.map fun e => if e.haltedAt = some a then { e with haltedAt := none, acc := none } else e }

/-- The bushels of an adapter cache entry in its ADAPTER region hold data address a. -/
def holdsPlace (e : CacheEntry) (a : Nat) : Bool :=
  match e.place with
  | none => false
  | some p => p ≤ a && a < p + e.units * unit2M

/-- A location that no code corrects, or a bushel whose checksum fails, is counted and recorded once and handled by its region's kind;
with no good copy the BASE or ADAPTER bushels that it holds stay bad until they are loaded again, the adapter versions that lie in
them are FAULTED (08 R268), and trained state faults its binding. -/
def locationLost (t addr : Nat) (g : Region) (checksum goodCopy : Bool) (s : State) : State :=
  let hit := blockHolds g (addr / 4096 * 4096)
  let s := stackError addr checksum s
  let lost := (g.kind == 3 || g.kind == 4) && (!goodCopy || g.backing == 0)
  let s := if lost then forAll hit (bushelLost t) s else s
  let s := if lost ∧ g.kind = 4 then
      forAll hit (fun a s => forAll (s.cache.filter fun e => holdsPlace e.2 a) (fun e => entryFaulted e.2.slot e.2.version) s) s
    else s
  if g.kind = 5 then forAll (hit.flatMap (bindsAt s)).eraseDups (fun b => faultBind b 0x06) s else s

/-- STACK_UNCORRECTABLE: a codeword that the outer code corrects, with the marked pseudo-channels as erasures, is none (R229); any
other, and a checksum that fails, is an error of its location (R231). -/
def stackUncorrectable (addr : Nat) (f : StackFault) (goodCopy : Bool) (s : State) : State :=
  match placeOf addr 1 with
  | .stk t _ =>
    match f, regionAt s addr with
    | .codeword chans errs, g =>
      if outerCorrects (s.stks.getD t {}).pchFailed chans errs then outerCorrect t addr (errs.map (·.1)) s
      else (match g with | some g => locationLost t addr g false goodCopy s | none => s)
    | .badChecksum, some g => locationLost t addr g true goodCopy s
    | _, none => s
  | _ => s

/-- The bindings whose trained state the stack fault of a stream at bushel n of context x hits (07 R231; 14 Table 14.4). -/
def trainedHit (x n : Nat) (s : State) : List Nat :=
  match tfind x s.streams.ctx with
  | none => []
  | some k =>
    if k.body.srcTier = 1 ∧ (regionAt s (srcOf k n)).map (·.kind) = some 5 then bindsAt s (srcOf k n) else []

/-- Whether placing bushel n of context x meets a fault. -/
def placeFaults (x n : Nat) (s : State) : Bool :=
  match tfind x s.streams.ctx with
  | none => false
  | some k =>
    k.requested.contains n && k.st != .halted && k.body.srcTier != 3 &&
      (match readSource s k n with | .fault _ => true | _ => false)

/-- A fault of Table 7.10 at bushel n of context x (07 R225, R226). -/
def streamFault (x n : Nat) (cause : HaltCause) (s : State) : State :=
  match tfind x s.streams.ctx with
  | none => s
  | some k =>
    let fits := match cause with
      | .flashUnstaged | .flashUncorrectable => k.body.srcTier == 2
      | .stackUncorrectable => k.body.srcTier == 1
      | .checksumBad => k.body.srcTier == 1 || k.body.srcTier == 2
    if k.requested.contains n && k.st != .halted && fits then
      forAll (trainedHit x n s) (fun b => faultBind b 0x06) (faultStream x n cause s)
    else s

/-! ### Meanings -/

/-- A fault of Table 7.10 halts context x at bushel n (07 R225, R226). -/
def execStreamHalt (x n : Nat) (cause : HaltCause) (s : State) : Answer := .next (streamFault x n cause s)
/-- Bushel n of context x is read, checked and placed (07 R214, R218, R225). -/
def execBushelPlaced (x n : Nat) (s : State) : Answer :=
  .next (forAll (if placeFaults x n s then trainedHit x n s else []) (fun b => faultBind b 0x06) (placeBushel x n s))

/-- SNAPSHOT (R432). -/
def execSnapshot (b kind : Nat) (done : Bool) (s : State) : Answer := .next (snapshot b kind done s)
/-- PROTECT (R432). -/
def execProtect (r : Nat) (s : State) : Answer := .next (protectBind r s)
/-- RESTORE (R433). -/
def execRestore (r : Nat) (views : List SnapView) (s : State) : Answer := .next (restore r views s)
/-- DECLARE_LOST (R428). -/
def execDeclareLost (r : Nat) (s : State) : Answer := .next (declareLost r s)
/-- REMAP (R436). -/
def execRemap (r : Nat) (s : State) : Answer := .next (remap r s)
/-- STACK_UNCORRECTABLE (07 R231). -/
def execStackUncorrectable (addr : Nat) (f : StackFault) (goodCopy : Bool) (s : State) : Answer :=
  .next (stackUncorrectable addr f goodCopy s)

end Sys2Proof.Machine
end

