-- ==== Sys2Proof/Machine/Image.lean ====
section
/-! DEFINITION. The boot SPI NOR: image header, configuration sections and items, and their checks (15 R438 to R441, R453). -/
namespace Sys2Proof.Machine

/-- Bytes of the NOR; an erased byte reads as 0xFF (log 8). -/
def norRd (s : State) (a n : Nat) : List Byte := cellGets 0xFF#8 a n s.nor

/-- Program bytes into the NOR. -/
def norWr (a : Nat) (bs : List Byte) (s : State) : State := { s with nor := cellSetAll 0xFF#8 a bs s.nor }

/-- SHA-384 of bytes, as a number of its 48 bytes in stored order. -/
def shaNat (bs : List Byte) : Nat := leNat (sha bs)

/-- ECDSA P-384 over the SHA-384 of a message: key x then y, signature r then s, each 48 bytes little-endian (13 R408). -/
def sigOk (key msg sig : List Byte) : Bool :=
  Crypto.ecdsaVerify (field key 0 48) (field key 48 48) (Crypto.sha384 (Crypto.ofBytes msg)) (field sig 0 48) (field sig 48 48)

/-- A key is the vendor's, held in ROM. -/
def isVendorKey (key : List Byte) : Bool := field key 0 48 == Config.vendorKey.1 && field key 48 48 == Config.vendorKey.2

/-- The vendor's key signs. -/
def vendorKeyBytes : List Byte := leBytes 48 Config.vendorKey.1 ++ leBytes 48 Config.vendorKey.2

/-- A key is the permitted one: the owner's in S1 and S2, the vendor's in S0 and S3 (R440; 13 R408). -/
def permittedKey (s : State) (key : List Byte) : Bool :=
  if s.sec.state = 1 ∨ s.sec.state = 2 then shaNat key == s.sec.ownerHash else isVendorKey key

/-! ### The header (R439, Table 15.2) -/

/-- A header copy whose MAGIC, FORMAT and CRC pass. -/
def headerGood (bs : List Byte) : Bool :=
  bs.length == 4096 && field bs 0 4 == 0x5842584A && field bs 4 2 == 1 && field bs 6 2 ≤ 64 && field bs 12 4 == crc32c (bs.drop 16)

/-- The header copy in force: its number and bytes. -/
def headerInForce (s : State) : Option (Nat × List Byte) :=
  let a := norRd s 0 4096
  let b := norRd s 4096 4096
  if headerGood a then
    if headerGood b && after 32 (field b 8 4) (field a 8 4) then some (1, b) else some (0, a)
  else if headerGood b then some (1, b) else none

/-- ACTIVE_SLOT; slot A where no header stands. -/
def activeSlot (s : State) : Nat := match headerInForce s with | some h => field h.2 16 1 | none => 0

/-- STAGED_SLOT, if any. -/
def stagedSlot (s : State) : Option Nat :=
  match headerInForce s with
  | some h => if field h.2 17 1 < 2 then some (field h.2 17 1) else none
  | none => none

/-- State of a slot: 0 EMPTY, 1 VALID, 2 REJECTED; slot A is VALID where no header stands. -/
def slotState (s : State) (i : Nat) : Nat :=
  match headerInForce s with
  | some h => bits (field h.2 18 1) (2 * i) 2
  | none => if i = 0 then 1 else 0

/-- Directory entries in use: SECTION_ID, OFFSET, LENGTH. -/
def directory (h : List Byte) : List (Nat × Nat × Nat) :=
  (List.range (field h 6 2)).map fun i => (field h (32 + 16 * i) 2, field h (36 + 16 * i) 4, field h (40 + 16 * i) 4)

/-- Write a header by R439: to the copy that does not hold the later SEQ, with SEQ one higher. -/
def commitHeader (bs : List Byte) (s : State) : State :=
  let (copy, seq) := match headerInForce s with
    | some h => (1 - h.1, (field h.2 8 4 + 1) % 2 ^ 32)
    | none => (0, field bs 8 4)
  let body := bs.drop 16
  norWr (4096 * copy) (bs.take 8 ++ leBytes 4 seq ++ leBytes 4 (crc32c body) ++ body) s

/-- Change the slot fields of the header in force: ACTIVE_SLOT, STAGED_SLOT, SLOT_STATE. -/
def commitSlots (active staged states : Nat) (s : State) : State :=
  match headerInForce s with
  | none => s
  | some h => commitHeader (h.2.take 16 ++ leBytes 1 active ++ leBytes 1 staged ++ leBytes 1 states ++ h.2.drop 19) s

/-- SLOT_STATE with one slot set. -/
def withSlotState (s : State) (i v : Nat) : Nat := if i = 0 then v + 4 * slotState s 1 else slotState s 0 + 4 * v

/-! ### Sections (R440, Table 15.3) -/

/-- Items of an item area: identifier, value; none if the area is malformed. -/
def itemsOf : Nat → List Byte → Option (List (Nat × List Byte))
  | 0, _ => none
  | n + 1, bs =>
    if bs.isEmpty then some []
    else
      let len := field bs 4 2
      let pad := (len + 7) / 8 * 8
      if bs.length < 8 + pad then none
      else (itemsOf n (bs.drop (8 + pad))).map fun t => (field bs 0 4, (bs.drop 8).take len) :: t

/-- What the check of a section says: its items, or IMAGE_INVALID or SIGNATURE_INVALID. -/
def sectionCheck (s : State) (e : Nat × Nat × Nat) : Sum Nat (List (Nat × List Byte)) :=
  let n := field (norRd s e.2.1 8) 4 4
  if e.2.2 ≠ n + 204 then .inl Sts.imageInvalid
  else
    let bs := norRd s e.2.1 e.2.2
    let key := (bs.drop (12 + n)).take 96
    match itemsOf (n + 1) ((bs.drop 8).take n) with
    | none => .inl Sts.imageInvalid
    | some items =>
      if field bs 0 2 ≠ e.1 ∨ field bs (8 + n) 4 ≠ crc32c (bs.take (8 + n)) ∨
          (items.map (·.1)).eraseDups.length ≠ items.length then .inl Sts.imageInvalid
      else if !permittedKey s key || !sigOk key (bs.take (108 + n)) (bs.drop (108 + n)) then .inl Sts.signatureInvalid
      else .inr items

/-- Items of every valid user section, and the directory entries that are invalid, with their SECTION_IDs. -/
def userItems (s : State) : List (Nat × List Byte) × List (Nat × Nat) :=
  match headerInForce s with
  | none => ([], [])
  | some h =>
    let dir := directory h.2
    let rs := (List.range dir.length).zip dir |>.map fun e => (e.1, e.2.1, sectionCheck s e.2)
    (rs.flatMap fun e => match e.2.2 with | .inr items => items.filter fun i => i.1 / 2 ^ 16 == e.2.1 | .inl _ => [],
     rs.filterMap fun e => match e.2.2 with | .inl _ => some (e.1, e.2.1) | .inr _ => none)

end Sys2Proof.Machine
end

