-- ==== Sys2Proof/Machine/Clock.lean ====
section
/-! DEFINITION. Rod syncs, lock states, PTP, succession of the rod master, furlong plans (10 R306 to R317, R328; 11 R352,
R353). -/
namespace Sys2Proof.Machine

/-- The GLB_ERR_STATUS bit that a time event sets (17 Table 17.10). -/
def timeErrBit (low : Nat) : Option Nat :=
  if low = 0x51 then some 4 else if low = 0x52 then some 5 else if low = 0x57 then some 6 else if low = 0x55 then some 7 else none

/-- Time event (Table 10.8). -/
def logTime (low payload : Nat) (s : State) : State :=
  let s := logGlb low noRood payload s
  match timeErrBit low with
  | some i => raiseGlb i s
  | none => s

/-- 2 µs after a furlong boundary (Table 10.3, R315). -/
def syncGrace : Nat := 8000

/-- The first tick of the current furlong. -/
def furlongTick (s : State) : Nat := furlongOf s * 40 * rodLen s

/-! ### Rod syncs (11 R352, R353) -/

/-- UP links within the group, and the lowest-j UP end of this module's own links towards each other group. -/
def groupLinks (s : State) : List Nat := (List.range 63).filter (linkUp s)

def globalLinks (s : State) : List Nat :=
  ((List.range s.fab.groups).filter fun b => b != groupOf s.fab.pos).filterMap fun b =>
    ((endsTowards s b).find? fun e => e.2.1 == memberOf s.fab.pos && linkUp s e.2.2).map (·.2.2)

/-- The packet that carries a rod sync over link l (Tables 11.7, 11.10). -/
def syncPacket (s : State) (l : Nat) (p : RodSync) : Packet where
  typ := 5
  resv := false
  hop := 0
  detour := false
  via := 0
  signal := false
  dst := match linkPeer s l with | some e => e.1 | none => 0
  dstRood := 0
  src := p.src
  srcRood := 0
  addr := 0
  signalCtr := 0
  xslot := 0
  stamp := p.stamp
  index := 0
  total := 1
  xgen := 0
  ext := p.hop
  data := leBytes 8 p.masterStamp ++ leBytes 8 p.correction ++ leBytes 1 p.k ++ leBytes 1 p.index ++ leBytes 2 p.term ++
    leBytes 1 (p.relinquish.toNat + 2 * (p.list.length - 1)) ++
    leBytes 12 (((List.range p.list.length).zip p.list).foldl (fun v e => v + 2 ^ (12 * e.1) * (e.2 % 4096)) 0) ++
    leBytes 4 p.sysid ++ List.replicate 27 0

/-- Hand copies of a rod sync at a tree hop to the ports of links; its residence counts from a stamp (R353). -/
def spread (p : RodSync) (hop since : Nat) (ls : List Nat) (s : State) : State :=
  let copy (l : Nat) : RodSync := { p with link := l, hop := hop }
  forAll ls (fun l s => atPort l 6 (syncPacket s l (copy l)) since s) (modFab (fun f => { f with syncOut := f.syncOut ++ ls.map copy }) s)

/-- The module takes part in time keeping. -/
def timeOn (s : State) : Bool := s.boot.ready

/-- ROD_SYNC_SEND: in the first tick of a furlong the rod master sends; with RELINQUISH set it is the last one (R317). -/
def sendSync (s : State) : State :=
  let t := s.time
  if !timeOn s ∨ !t.master ∨ !atFurlong s ∨ t.lastSync = some (furlongOf s) ∨ !fabricOn s then s
  else
    let p : RodSync := {
      link := 0, hop := 0, src := s.fab.pos, masterStamp := t.now, correction := 0, k := t.k, index := t.index, term := t.term
      relinquish := t.relinquish, list := t.succession, sysid := s.fab.sysid, stamp := t.now, resv := false }
    let s := spread p 0 t.now (groupLinks s) s
    modTime (fun t => { t with lastSync := some (furlongOf s), master := !t.relinquish, relinquish := false }) s

/-- Whether the module follows a sender of this term and index (R314). -/
def follows (s : State) (p : RodSync) : Bool :=
  after 16 p.term s.time.term || (p.term % 2 ^ 16 == s.time.term % 2 ^ 16 && p.index ≤ s.time.masterIndex)

/-- Sync is there again: the lock returns (Table 10.3, R311). -/
def lockAgain (source : Nat) (s : State) : State :=
  let was := s.time.lock
  let s := modTime (fun t => { t with lock := .locked, uncertain := false, bound := 0, boundNext := 250 }) s
  if was = .locked then s else logTime 0x50 (packLe [(source, 1), (s.time.term, 2)]) s

/-- Forward the first copy of a furlong along the tree, with the delay of its link (R352, R353). -/
def forwardSync (p : RodSync) (delay : Nat) (s : State) : State :=
  let q := { p with correction := p.correction + delay }
  if p.hop = 0 then spread q 1 s.time.now (globalLinks s) s
  else if p.hop = 1 ∧ 63 ≤ p.link then spread q 2 s.time.now (groupLinks s) s
  else s

/-- The rod sync of furlong f, or of a later one, has been acted on (R352). -/
def syncKnown (s : State) (f : Nat) : Bool := match s.time.lastSync with | some g => f ≤ g | none => false

/-- ROD_SYNC_RECEIVE; in P4 the links that stay UP bring it (16 R473). -/
def receiveSync (p : RodSync) (s : State) : State :=
  let f := p.masterStamp / (40 * rodLen s)
  let delay := (s.links.getD p.link {}).delay
  if !timeOn s ∨ !linkUp s p.link then s
  else if p.resv then dropMalformed p.src 5 s
  else if before 64 (p.stamp + packetLife) s.time.now then countStale s
  else if p.sysid ≠ s.fab.sysid then s
  else if p.k ≠ s.time.k then logTime 0x57 (packLe [(p.k, 1), (s.time.k, 1), (p.src, 2)]) s
  else if !follows s p ∨ p.src = s.fab.pos then s
  else if p.term % 2 ^ 16 = s.time.term % 2 ^ 16 ∧ p.index = s.time.masterIndex ∧ syncKnown s f then s
  else
    let s := forwardSync p delay s
    let s := if s.time.master then
        logTime 0x54 (packLe [(p.term, 2), (p.src, 2)]) (modTime (fun t => { t with master := false, yielding := true }) s)
      else s
    let arrived : Int := (s.time.now : Int) - (p.masterStamp + p.correction + delay : Nat)
    lockAgain 0 (modTime (fun t => { t with
      term := p.term % 2 ^ 16
      masterPos := p.src
      masterIndex := p.index
      succession := p.list
      index := (p.list.idxOf? s.fab.pos).getD 255
      masterLeaving := p.relinquish
      lastSync := some f
      syncedFurlong := furlongOf s
      offset := arrived
      slew := if arrived = 0 then 0 else if 0 < arrived then -50000 else 50000 }) s)

/-! ### Holdover (R310, R311) -/

/-- No rod sync by 2 µs after a boundary; for the rod master, no PTP Sync for 3 intervals (Table 10.3). -/
def sourceLost (s : State) : Bool :=
  if s.time.master then before 64 (s.time.lastPtp + 3 * s.time.ptpInterval) s.time.now
  else s.time.lastSync != some (furlongOf s) && furlongTick s + syncGrace < s.time.now

/-- LOCKED ends: the source of time is lost. -/
def enterHoldover (s : State) : State :=
  if s.time.lock ≠ .locked then s
  else
    let s' := modTime (fun t => { t with lock := .holdover, holdSince := t.now, bound := 0, boundNext := 250, slew := 0 }) s
    logTime 0x51 (if s.time.master then 1 else 0) s'

/-- TIME_HOLDOVER. -/
def holdover (s : State) : State := if timeOn s && sourceLost s then enterHoldover s else s

/-- The drift bound in ns: 0.05 ppm of the time in HOLDOVER. -/
def driftBound (s : State) : Nat := (s.time.now - s.time.holdSince) / 80000000

/-- TIME_UNCERTAIN: the bound exceeds 250 ns, and again each time it doubles. -/
def uncertain (s : State) : State :=
  let b := driftBound s
  if s.time.lock ≠ .holdover ∨ b ≤ s.time.boundNext then s
  else
    logTime 0x52 (b % 2 ^ 32) (modTime (fun t => { t with uncertain := true, bound := b, boundNext := 2 * t.boundNext }) s)

/-! ### PTP and succession (R309, R312, R314 to R317) -/

/-- Ticks of a PTP interval of 2^-n s. -/
def ptpTicks (n : Nat) : Nat := 4000000000 / 2 ^ n

/-- A Sync that the supported subset takes in (Table 10.2): of the configured domain, on the configured 800 Gb/s interface (15 Table 15.4),
from the selected grandmaster. -/
def ptpSupported (p : PtpMsg) (s : State) : Bool :=
  p.domain == itemNat s 0x00010007 0 && p.iface == itemNat s 0x00010008 0 && p.transport != .other && !p.peerDelay && !p.arb &&
    0 ≤ p.log && p.log ≤ 7 && p.best

/-- PTP_SYNC: a rod master acts on offsets of at most 1 ms; a larger one is refused, and it holds over (R309, R312). -/
def ptp (p : PtpMsg) (s : State) : State :=
  if !timeOn s ∨ !(s.time.master ∨ s.time.index < 8) ∨ !ptpSupported p s then s
  else if p.offset.natAbs ≤ 1000000 then
    let s := modTime (fun t => { t with lastPtp := t.now, ptpInterval := ptpTicks p.log.toNat }) s
    if s.time.master then
      lockAgain 1 (modTime (fun t => { t with
        offset := 4 * p.offset, slew := if p.offset = 0 then 0 else if 0 < p.offset then -50000 else 50000 }) s)
    else s
  else if s.time.master then enterHoldover (logTime 0x55 (p.offset.emod (2 ^ 64)).toNat s)
  else s

/-- Entries of the list from the last master to this module, exclusive (R315; log 28). -/
def between (s : State) : Nat :=
  let n := s.time.succession.length
  let m := s.time.masterIndex
  let i := s.time.index
  if m < i then i - m - 1 else if i < m then i + n - m - 1 else 0

/-- MASTER_TAKEOVER: the entries before this one have been silent too, or the master has left in an orderly way: then the next entry sends
from the boundary at which it takes over (R315, R317). -/
def takeOver (s : State) : State :=
  let t := s.time
  let last := match t.lastSync with | some f => f | none => 0
  let silent := last + 1 + between s ≤ furlongOf s && furlongTick s + syncGrace < t.now
  let invited := t.masterLeaving && between s == 0 && last < furlongOf s
  if !timeOn s ∨ t.master ∨ 8 ≤ t.index ∨ t.index = t.masterIndex ∨ !(silent || invited) then s
  else
    let s' := modTime (fun t => { t with
      term := (t.term + 1) % 2 ^ 16, master := true, masterPos := s.fab.pos, masterIndex := t.index, masterLeaving := false
      yielding := false, lastSync := if invited && atFurlong s then t.lastSync else some (furlongOf s) }) s
    logTime 0x53 (packLe [(t.term + 1, 2), (t.index, 1), (t.masterPos, 2)]) s'

/-! ### Furlong plans (R306) -/

/-- PLAN_APPLY: the pending plan waits for the first boundary at or after the APPLY. -/
def planArm (r rod : Nat) (s : State) : State :=
  match s.roods[r]? with
  | none => s
  | some k => if k.st = .active then modRood r (fun k => { k with planRod := some (applyBoundary s rod) }) s else s

/-- PLAN_APPLIED: the pending plan comes into force at its boundary. -/
def planInForce (r : Nat) (s : State) : State :=
  match s.roods[r]? with
  | none => s
  | some k =>
    match k.planRod with
    | none => s
    | some n =>
      if reached s n then
        logGlb 0x56 r (n % 2 ^ 48) (modRood r (fun k => { k with plan := k.pendPlan, planRod := none }) s)
      else s

/-! ### Meanings -/

/-- ROD_SYNC_SEND (11 R352). -/
def execRodSyncSend (s : State) : Answer := .next (sendSync s)
/-- ROD_SYNC_RECEIVE (11 R352, R353; R310, R314). -/
def execRodSyncReceive (p : RodSync) (s : State) : Answer := .next (receiveSync p s)
/-- TIME_HOLDOVER (R310). -/
def execTimeHoldover (s : State) : Answer := .next (holdover s)
/-- TIME_UNCERTAIN (R311). -/
def execTimeUncertain (s : State) : Answer := .next (uncertain s)
/-- PTP_SYNC (R312). -/
def execPtpSync (p : PtpMsg) (s : State) : Answer := .next (ptp p s)
/-- MASTER_TAKEOVER (R315). -/
def execMasterTakeover (s : State) : Answer := .next (takeOver s)
/-- PLAN_APPLY (R306). -/
def execPlanApply (r rod : Nat) (s : State) : Answer := .next (planArm r rod s)
/-- PLAN_APPLIED (R306). -/
def execPlanApplied (r : Nat) (s : State) : Answer := .next (planInForce r s)

end Sys2Proof.Machine
end

