-- ==== Sys2Proof/Machine/Roods.lean ====
section
/-! DEFINITION. Roods: creation, resizing, reset and removal, units that change hands, and the slice, queue, peer and region
tables (13 R390 to R403, R415, R524, R525). -/
namespace Sys2Proof.Machine

/-! ### Small parts -/

/-- Security event. -/
def logSec (low rood payload : Nat) : State → State := logEv Blk.sec low rood payload

/-- Change the power state (16 R470, Table 16.9): cause 0 request, 1 idle, 2 wake, 3 reset, 4 debug. -/
def changePstate (dst cause : Nat) (s : State) : State :=
  if s.fwc.pstate = dst then s
  else
    logEv Blk.fw 0x01 noRood (packLe [(s.fwc.pstate, 1), (dst, 1), (cause, 1)])
      (modFwc (fun f => { f with pstate := dst, changeRod := rodCount s % 2 ^ 48 }) s)

/-- Set CMD and STATUS of ROOD_CTL. -/
def setCtl (r cmd st : Nat) : State → State := modRood r fun k => { k with cmd := cmd, status := st }

/-- The final status of a rood's command. -/
def setStatus (r st : Nat) : State → State := modRood r fun k => { k with status := st }

/-- The rood's state, FREE for a number that is none. -/
def roodState (s : State) (r : Nat) : RoodState := match s.roods[r]? with | some k => k.st | none => .free

/-- What a command or table operation on a rood that is not ACTIVE gives (Tables 13.2, 13.15). -/
def notActive (s : State) (r : Nat) : Nat := if roodState s r = .free then Sts.roodAbsent else Sts.roodBusy

/-- Indices and roods that satisfy p. -/
def roodsWith (s : State) (p : Nat → Rood → Bool) : List Nat :=
  ((List.range s.roods.length).zip s.roods).filterMap fun e => if p e.1 e.2 then some e.1 else none

/-- Live associations and tombstones of a rood (R406). -/
def saCount (s : State) (r : Nat) : Nat := (s.eth.sas.filter fun e => e.2.rood == r).length

/-! ### Keys of a rood (R406, R407; 12 R368) -/

/-- Destroy association i: it is a tombstone for 100 ms, and the queue pairs that use it enter ERROR. -/
def destroySa (i : Nat) (s : State) : State :=
  match tfind i s.eth.sas with
  | none => s
  | some a =>
    if a.st ≠ .live then s
    else
      let t := s.time.now + 100 * msTicks
      let s := modEth (fun e => { e with
        sas := tmod i (fun a => { a with st := .tombstone, key := [], until_ := t, lateLogged := false }) e.sas }) s
      let s := logSec 0x07 a.rood (packLe [(0x10, 1), (i, 2)]) s
      forAll ((s.eth.qps.filter fun e => e.2.rood == a.rood && (e.2.saIn == i || e.2.saOut == i)).map (·.1))
        (fun q => qpFail q Sts.keyRevoked) s

/-- Every association of a rood is destroyed. -/
def destroySas (r : Nat) (s : State) : State :=
  forAll ((s.eth.sas.filter fun e => e.2.rood == r).map (·.1)) destroySa s

/-- Destroy the namespace key of rood r: its blocks are erased in the background (07 R236). -/
def destroyNs (r : Nat) (s : State) : State :=
  let ns := nsOf s r
  if !ns.keyValid then s
  else
    let s := modFlash (fun f => { f with
      ns := tset r { ns with keyValid := false, erasing := true, eraseGiB := ns.size } f.ns }) s
    logSec 0x07 r (packLe [(0x11, 1), (0, 2)]) (modRood r (fun k => { k with nsKeyLive := false }) s)

/-- Give the namespace of rood r a size: one without a key gets a new key, and none of its slots is written (07 R234; R404). -/
def sizeNs (r size : Nat) (s : State) : State :=
  let ns := nsOf s r
  if size = 0 ∧ ns.size = 0 then s
  else if ns.keyValid then
    modRood r (fun k => { k with nsKeyLive := true }) (modFlash (fun f => { f with ns := tset r { ns with size := size } f.ns }) s)
  else
    let mine (i : Nat) : Bool := i / 2 ^ 31 == r
    let s := modFlash (fun f => { f with
      ns := tset r { ns with size := size, keyValid := true, keyGen := ns.keyGen + 1 } f.ns
      slots := f.slots.filter fun e => !mine e.1
      lost := f.lost.filter fun i => !mine i }) s
    modRood r (fun k => { k with nsKeyLive := true }) s

/-! ### Units that change hands (R394) -/

/-- A cluster runs or holds no work. -/
def clusterIdle (s : State) (c : Nat) : Bool :=
  !s.descs.any (fun e => onCluster c e.2 && e.2.result.isNone) &&
    (match s.clusters[c]? with
      | none => false
      | some k => k.cores.all (fun q => q.st == .idle || q.st == .stopped || q.st == .reset) && k.comb.all (fun v => v.st == .free))

/-- Engine e of stack t runs or holds no pass. -/
def engineIdle (s : State) (t e : Nat) : Bool :=
  !s.descs.any fun d => unitOf d.2 == .engine t e && d.2.result.isNone

/-- A cluster leaves rood r at a boundary: what is queued to it and not started is squashed (R394). -/
def releaseCluster (r c : Nat) (s : State) : State :=
  let s := endWork (fun e => onCluster c e && e.rood == r && e.stage != .started) Sts.squashed s
  modCluster c (fun k => { k with rood := none, join := none, leaving := true, scrubbed := false, served := none }) s

/-- A cluster is gained by rood r: at once, or once it is scrubbed. -/
def gainCluster (r c : Nat) (s : State) : State :=
  modCluster c (fun k => if k.leaving ∨ !k.scrubbed then { k with join := some r } else { k with rood := some r, join := none }) s

def releaseEngine (r t e : Nat) (s : State) : State :=
  let s := endWork (fun d => unitOf d == .engine t e && d.rood == r && d.stage != .started) Sts.squashed s
  modEngine t e (fun k => { k with rood := none, join := none, leaving := true, scrubbed := false }) s

def gainEngine (r t e : Nat) (s : State) : State :=
  modEngine t e (fun k => if k.leaving ∨ !k.scrubbed then { k with join := some r } else { k with rood := some r, join := none }) s

/-- A unit that left its rood is scrubbed once idle, and joins the rood that gains it at the first furlong boundary after the
scrub (R394). -/
def clusterJoins (c : Nat) (s : State) : State :=
  match s.clusters[c]? with
  | none => s
  | some k =>
    if !k.scrubbed then
      if clusterIdle s c then modCluster c (fun k => { k with scrubbed := true, leaving := false }) (scrubCluster c s) else s
    else
      match k.join with
      | some r => if atFurlong s then modCluster c (fun k => { k with rood := some r, join := none }) s else s
      | none => s

def engineJoins (t e : Nat) (s : State) : State :=
  match s.stks[t]? with
  | none => s
  | some q =>
    match q.engines[e]? with
    | none => s
    | some k =>
      if !k.scrubbed then
        if engineIdle s t e then modEngine t e (fun k => { k with scrubbed := true, leaving := false }) (scrubEngine t e s) else s
      else
        match k.join with
        | some r => if atFurlong s then modEngine t e (fun k => { k with rood := some r, join := none }) s else s
        | none => s

/-! ### Resource sets (R393) -/

/-- Totals of Table 13.1: contexts, queues, associations, queue pairs in units of 16. -/
def quotaTotal : List ((Res → Nat) × Nat) := [(Res.qCtx, 1024), (Res.qQueues, 4096), (Res.qSas, 4096), (Res.qQps, 4096)]

/-- A resource set asks for what another rood owns, or exceeds the module's totals. -/
def resTaken (s : State) (r : Nat) (p : Res) : Bool :=
  let others := ((List.range s.roods.length).zip s.roods).filterMap fun e =>
    if e.1 ≠ r ∧ e.2.st ≠ .free then some e.2.res else none
  let sum (f : Res → Nat) : Nat := others.foldl (fun n o => n + f o) (f p)
  others.any (fun o => o.clusters &&& p.clusters != 0 || o.engines &&& p.engines != 0 ||
    meets p.slotFirst p.slotCount o.slotFirst o.slotCount) ||
  16384 < p.slotFirst + p.slotCount || 8192 < sum Res.ns || (s.flash.mode == 2 && p.ns != 0) ||
  quotaTotal.any fun q => q.2 < sum q.1

/-- A resource set gives up what is in use. -/
def resBusy (s : State) (r : Nat) (p : Res) : Bool :=
  let old := match s.roods[r]? with | some k => k.res | none => {}
  let gone (i : Nat) : Bool := i < p.slotFirst || p.slotFirst + p.slotCount ≤ i
  p.ns < (nsOf s r).size ||
  p.qCtx < (s.streams.ctx.filter fun e => e.2.rood == r).length ||
  p.qQueues < (s.queues.filter fun e => e.2.rood == r).length ||
  p.qSas < saCount s r ||
  16 * p.qQps < (s.eth.qps.filter fun e => e.2.rood == r).length ||
  s.slots.any fun e =>
    e.2.rood == r && old.slotFirst ≤ e.1 && e.1 < old.slotFirst + old.slotCount && gone e.1 && slotUse e.2 != .free

/-- The status of a resource set: OK, RESOURCE_TAKEN or RESOURCE_BUSY; the former ranks higher (R413). -/
def resCheck (s : State) (r : Nat) (p : Res) : Nat :=
  if resTaken s r p then Sts.resourceTaken else if resBusy s r p then Sts.resourceBusy else Sts.ok

/-- Clusters and engines of a set. -/
def resClusters (p : Res) : List Nat := (List.range 16).filter p.clusters.testBit
def resEngines (p : Res) : List (Nat × Nat) := ((List.range 32).filter p.engines.testBit).map fun i => (i / 4, i % 4)

/-- A set comes into force. -/
def takeRes (r : Nat) (p : Res) (s : State) : State :=
  let old := match s.roods[r]? with | some k => k.res | none => {}
  let s := forAll ((resClusters old).filter fun c => !(resClusters p).contains c) (releaseCluster r) s
  let s := forAll ((resEngines old).filter fun e => !(resEngines p).contains e) (fun e => releaseEngine r e.1 e.2) s
  let s := forAll ((resClusters p).filter fun c => !(resClusters old).contains c) (gainCluster r) s
  let s := forAll ((resEngines p).filter fun e => !(resEngines old).contains e) (fun e => gainEngine r e.1 e.2) s
  sizeNs r p.ns (modRood r (fun k => { k with res := p }) s)

/-- A refused set is discarded (R393). -/
def refuseRes (r st : Nat) (s : State) : State :=
  raiseRood r 0 (logSec 0x04 r st (modRood r (fun k => { k with pend := k.res, applyRod := none }) s))

/-! ### CREATE and RESIZE (R392, R393) -/

/-- ROOD_CTL CREATE: the pending resources are taken at the first furlong boundary after the write. -/
def createRood (r : Nat) (s : State) : State :=
  match s.roods[r]? with
  | none => s
  | some k =>
    if k.st ≠ .free ∨ k.createArmed then setCtl r 1 Sts.roodBusy s
    else setCtl r 1 Sts.deferred (modRood r (fun k => { k with createArmed := true, applyRod := some (nextBoundary s) }) s)

/-- The boundary of a CREATE. -/
def roodCreated (r : Nat) (s : State) : State :=
  match s.roods[r]? with
  | none => s
  | some k =>
    match k.applyRod with
    | none => s
    | some n =>
      if !k.createArmed ∨ !reached s n then s
      else
        let st := resCheck s r k.pend
        let s := modRood r (fun k => { k with createArmed := false, applyRod := none }) s
        if st ≠ Sts.ok then setStatus r st (refuseRes r st s)
        else
          let s := modRood r (fun k => { k with st := .active, plan := 0, mdl := {}, trn := {}, counters := [], peers := [] }) s
          setStatus r Sts.ok (logSec 0x01 r (n % 2 ^ 48) (takeRes r k.pend s))

/-- ROOD_RESIZE_APPLY arms the pending set. -/
def resizeArm (r rod : Nat) (s : State) : State :=
  match s.roods[r]? with
  | none => s
  | some k => if k.st = .active then modRood r (fun k => { k with applyRod := some (applyBoundary s rod) }) s else s

/-- The boundary of an armed set: it is checked as a whole and takes effect, or is refused. -/
def resizeApplied (r : Nat) (s : State) : State :=
  match s.roods[r]? with
  | none => s
  | some k =>
    match k.applyRod with
    | none => s
    | some n =>
      if k.st ≠ .active ∨ !reached s n then s
      else
        let st := resCheck s r k.pend
        if st ≠ Sts.ok then refuseRes r st s
        else logSec 0x03 r (n % 2 ^ 48) (takeRes r k.pend (modRood r (fun k => { k with applyRod := none }) s))

/-! ### Reset and removal (R399 to R402, Table 13.5) -/

/-- Work of rood r ends with one final status, and its completions are written where they go (R398; 06 R198). -/
def endDescs (p : Desc → Bool) (st : Desc → Nat) (s : State) : State :=
  forAll (descsWith s fun _ e => p e) (fun d t =>
    match tfind d t.descs with
    | none => t
    | some e =>
      let t := finish d (st e) e.progress t
      match tfind d t.descs with
      | some e => (match e.result with | some q => completeDesc d e q t | none => t)
      | none => t) s

/-- The status of a descriptor of a rood under reset or removal: KEY_REVOKED for what a destroyed key carried (R20, R401). -/
def resetStatus (remove : Bool) (e : Desc) : Nat :=
  match e.body with
  | .stream b =>
    if b.srcTier = 3 ∨ (remove ∧ (b.srcTier = 2 ∨ b.dstTier = 2)) then Sts.keyRevoked else Sts.partitionReset
  | _ => Sts.partitionReset

/-- The status of a mailbox command of such a rood: a base command that reads the store, or on removal the flash, and on removal a command
that reads trained state from the flash, depended on a destroyed key (R20, R401). -/
def cmdReset (remove : Bool) (c : Cmd) : Nat :=
  let code := cmdCode c
  let loads := code == 0x01 || code == 0x03 || code == 0x05
  if loads && (remove || field c.bytes 1 1 % 4 != 0) || remove && (code == 0x20 || code == 0x29) then Sts.keyRevoked else Sts.partitionReset

/-- The clusters and engines of a rood, those it has not joined yet included. -/
def roodClusters (s : State) (r : Nat) : List Nat :=
  (List.range 16).filter fun c => match s.clusters[c]? with | some k => k.rood == some r || k.join == some r | none => false

def roodEngines (s : State) (r : Nat) : List (Nat × Nat) :=
  ((List.range 32).map fun i => (i / 4, i % 4)).filter fun e => engineRood s e.1 e.2 == some r

/-- A base range entry of rood r that another rood can read (R392). -/
def sharedBase (s : State) (r : Nat) : Bool :=
  s.stks.any fun k => k.locks.any fun l => l.st != .free && l.rood == r && (clrBit l.readers r) % 2 ^ 16 != 0

/-- Steps 1 to 5 of Table 13.5 for rood r; the operations that end are counted. -/
def stopRood (r : Nat) (remove : Bool) (s : State) : State :=
  let reqs := (s.requests.filter fun e => e.2.rood == r).map (·.1)
  let cmds := (boxOf s .model r).outstanding.length + (boxOf s .training r).outstanding.length
  let ops := (descsWith s fun _ e => e.rood == r).length + reqs.length + cmds
  let s := modRood r (fun k => { k with
    st := if remove then .removing else .resetting
    applyRod := none
    createArmed := false
    planRod := none
    resetAt := s.time.now
    opsEnded := ops
    removeHeld := false }) s
  let s := forAll reqs dropRequest s
  let s := destroySas r s
  let s := if remove then destroyNs r s else s
  let s := forAll ((s.streams.ctx.filter fun e => e.2.rood == r).map fun e => (e.1, e.2.desc)) (fun x t =>
    endStream x.1 (match tfind x.2 t.descs with | some e => resetStatus remove e | none => Sts.partitionReset) t) s
  let s := endDescs (fun e => e.rood == r) (resetStatus remove) s
  let s := forAll ((s.binds.filter fun e => e.2.rood == r).map (·.1)) (fun b => faultBind b 0x05) s
  let s := forAll ((boxOf s .model r).outstanding) (fun c => finalReply .model r c (cmdReset remove c) 0) s
  let s := forAll ((boxOf s .training r).outstanding) (fun c => finalReply .training r c (cmdReset remove c) 0) s
  let s := { s with queues := s.queues.map fun e => if e.2.rood = r then (e.1, { e.2 with st := .disabled }) else e }
  resetFabric r (modRood r (fun k => { k with baseCmd := none }) s)

/-- The queues of a rood, with the ranges of their rings. -/
def ringsOf (s : State) (r : Nat) : List (Nat × Nat) :=
  (s.queues.filter fun e => e.2.rood == r).flatMap fun e =>
    [(e.2.ring, 128 * 2 ^ e.2.logDepth), (e.2.cring, 32 * 2 ^ e.2.logDepth)]

/-- Poisoned bushels of a rood's regions. -/
def poisoned (s : State) (r : Nat) : List Nat :=
  (s.bushels.filter fun e => e.2.poison && (match regionAt s e.1 with | some g => g.rood == r | none => false)).map (·.1)

/-- Scrub one bushel: zeros, POISON set. -/
def scrubBushel (a : Nat) (s : State) : State := zeroMem a 4096 { s with bushels := tdel a s.bushels }

/-- Steps 6 and 7 of Table 13.5. -/
def scrubRood (r : Nat) (s : State) : State :=
  let s := forAll (roodClusters s r) (fun c t =>
    modCluster c (fun k => { k with scrubbed := true, leaving := false, served := none }) (scrubCluster c t)) s
  let s := forAll (roodEngines s r) (fun e t =>
    modEngine e.1 e.2 (fun k => { k with scrubbed := true, leaving := false, acc := none }) (scrubEngine e.1 e.2 t)) s
  let s := forAll (ringsOf s r) (fun g => zeroMem g.1 g.2) s
  let s := forAll (poisoned s r) scrubBushel s
  let s := modEth (fun e => { e with
    qps := e.qps.filter fun q => q.2.rood != r
    xrs := e.xrs.filter fun x => x.2.rood != r }) s
  let s := { s with slices := s.slices.map fun e => if e.2.rood = r then (e.1, { e.2 with intakeWritten := 0 }) else e }
  modRood r (fun k => { k with counters := [], peers := [] }) s

/-- A reset or removal begins: steps 1 to 7. -/
def beginReset (r : Nat) (remove : Bool) (s : State) : State :=
  let s := setCtl r (if remove then 3 else 2) Sts.deferred (scrubRood r (stopRood r remove s))
  if 3 ≤ s.fwc.pstate then
    changePstate 2 3 (modFwc (fun f => { f with resetFrom := some (f.resetFrom.getD f.pstate) }) s)
  else s

/-- ROOD_CTL RESET. -/
def resetRood (r : Nat) (s : State) : State :=
  match roodState s r with
  | .free => setCtl r 2 Sts.roodAbsent s
  | .active => beginReset r false s
  | .resetting | .removing => setCtl r 2 Sts.roodBusy s

/-- ROOD_CTL REMOVE: held during a reset (R392). -/
def removeRood (r : Nat) (s : State) : State :=
  match roodState s r with
  | .free => setCtl r 3 Sts.roodAbsent s
  | .removing => setCtl r 3 (if sharedBase s r then Sts.resourceBusy else Sts.roodBusy) s
  | .active => if sharedBase s r then setCtl r 3 Sts.resourceBusy s else beginReset r true s
  | .resetting =>
    if sharedBase s r then setCtl r 3 Sts.resourceBusy s
    else setCtl r 3 Sts.deferred (modRood r (fun k => { k with removeHeld := true }) s)

/-- Delete a stack region and scrub it: zeros, and POISON in every header (R403). -/
def dropRegion (t n : Nat) (s : State) : State :=
  match s.stks[t]? with
  | none => s
  | some k =>
    match tfind n k.regions with
    | none => s
    | some g =>
      let inside (a : Nat) : Bool := g.start ≤ a && a < g.start + g.len * unit2M
      let s := modStack t (fun k => { k with
        regions := tdel n k.regions
        bad := k.bad.filter fun a => !inside a
        errs := k.errs.filter fun e => !inside e.1 }) s
      zeroMem g.start (g.len * unit2M) { s with bushels := s.bushels.filter fun e => !inside e.1 }

/-- Step 9 of a removal: every region deleted and scrubbed, every resource returned. -/
def returnAll (r : Nat) (s : State) : State :=
  let s := { s with binds := s.binds.filter fun e => e.2.rood != r }
  let s := { s with stks := s.stks.map fun k => { k with
    locks := k.locks.map fun l => if l.rood == r && l.st != .free then {} else { l with readers := clrBit l.readers r } } }
  let mine := ((List.range s.stks.length).zip s.stks).flatMap fun e =>
    (e.2.regions.filter fun g => g.2.rood == r).map fun g => (e.1, g.1)
  let s := forAll mine (fun g => dropRegion g.1 g.2) s
  let s := { s with
    slices := s.slices.filter fun e => e.2.rood != r
    queues := s.queues.filter fun e => e.2.rood != r
    slots := s.slots.filter fun e => e.2.rood != r
    cache := s.cache.filter fun e => e.2.rood != r
    clusters := s.clusters.map fun k =>
      { k with rood := if k.rood = some r then none else k.rood, join := if k.join = some r then none else k.join }
    stks := s.stks.map fun t => { t with engines := t.engines.map fun k =>
      { k with rood := if k.rood = some r then none else k.rood, join := if k.join = some r then none else k.join } } }
  let s := modFlash (fun f => { f with ns := tmod r (fun n => { n with size := 0 }) f.ns }) s
  modStreams (fun t => { t with buckets := t.buckets.filter fun e => e.1 / 5 != r }) s

/-- Step 10: the rood is ACTIVE or FREE again, once a packet lifetime has passed since its units stopped. -/
def resetDone (r : Nat) (s : State) : State :=
  match s.roods[r]? with
  | none => s
  | some k =>
    let remove := k.st == .removing
    if !roodGoing s r ∨ s.time.now < k.resetAt + packetLife then s
    else
      let us := min ((s.time.now - k.resetAt) / usTicks) (2 ^ 24 - 1)
      let cmd := if remove then 3 else 2
      let last := w64 (us + 2 ^ 24 * min k.opsEnded (2 ^ 24 - 1) + 2 ^ 48 * cmd)
      let s := if remove then returnAll r s else s
      let s := modRood r (fun k =>
        if remove then
          { cmd := k.cmd, status := Sts.ok, err := k.err, lastReset := last, pend := k.pend, pendPlan := k.pendPlan
            tblData := k.tblData, tblCmd := k.tblCmd, qpCmd := k.qpCmd, qpData := k.qpData, xrCmd := k.xrCmd, xrData := k.xrData }
        else { k with st := .active, status := Sts.ok, lastReset := last }) s
      let s := raiseRood r 2 (logSec 0x02 r (packLe [(cmd, 1), (us, 3), (k.opsEnded, 4)]) s)
      if k.removeHeld then beginReset r true s
      else
        match s.fwc.resetFrom with
        | some p =>
          if (roodsWith s fun _ k => k.st == .resetting || k.st == .removing).isEmpty then
            modFwc (fun f => { f with resetFrom := none }) (changePstate p 3 s)
          else s
        | none => s

/-! ### Tables (R395, R524, Tables 13.19, 13.21) -/

/-- Word i of ROOD_TBL_DATA. -/
def tblWord (k : Rood) (i : Nat) : Nat := (k.tblData.getD i 0).toNat

/-- A slice from DATA0 and DATA1. -/
def sliceOfWords (r d0 d1 : Nat) : Slice where
  rood := r
  pid := bits d0 0 20
  share := bits d0 20 8
  batchRows := bits d0 28 8
  verdictBytes := bits d0 36 13
  isolate := bit d0 49
  intakeAddr := bits d1 0 48
  intakeLog2 := bits d1 48 5
  intakeCtr := bits d1 56 8

def wordsOfSlice (k : Slice) : List Word :=
  [w64 (k.pid + 2 ^ 20 * k.share + 2 ^ 28 * k.batchRows + 2 ^ 36 * k.verdictBytes + if k.isolate then 2 ^ 49 else 0),
    w64 (k.intakeAddr + 2 ^ 48 * k.intakeLog2 + 2 ^ 56 * k.intakeCtr), 0, 0]

/-- Whether regions of rood r cover a range; RAW ones only if asked. -/
def inRoodRegions (s : State) (r a n : Nat) (rawOnly : Bool) : Bool :=
  covered (fun g => g.rood == r && (!rawOnly || g.kind == 1)) s a n

/-- The first failing check of a list of condition and status pairs. -/
def firstFail : List (Bool × Nat) → Nat
  | [] => Sts.ok
  | (bad, st) :: t => if bad then st else firstFail t

/-- Checks of a slice WRITE, in the order of R524. -/
def sliceCheck (s : State) (r i d0 d1 : Nat) : Nat :=
  let n := sliceOfWords r d0 d1
  let old := tfind i s.slices
  let other := s.slices.find? fun e => e.1 != i && e.2.pid == n.pid
  firstFail [
    (1024 ≤ i || bits d0 50 14 != 0 || bits d1 53 3 != 0 || n.pid == 0 || n.share == 0 || n.batchRows == 0 || 128 < n.batchRows ||
      n.verdictBytes % 8 != 0 || n.verdictBytes < 8 || 4096 < n.verdictBytes ||
      (n.intakeLog2 != 0 && (n.intakeLog2 < 16 || 30 < n.intakeLog2)) || 254 < n.intakeCtr, Sts.protocolViolation),
    ((match old with | some k => k.rood != r | none => false) ||
      (n.intakeLog2 != 0 && !inRoodRegions s r n.intakeAddr (2 ^ n.intakeLog2) true), Sts.notPermitted),
    (match other with | some e => e.2.rood != r | none => false, Sts.resourceTaken),
    (other.isSome, Sts.resourceBusy),
    (match old with
      | some k => k.pid != n.pid || k.isolate != n.isolate || k.intakeAddr != n.intakeAddr || k.intakeLog2 != n.intakeLog2 ||
          k.intakeCtr != n.intakeCtr
      | none => false, Sts.resourceBusy)]

/-- Something names the PID of a slice (R395). -/
def pidUsed (s : State) (pid : Nat) : Bool :=
  s.queues.any (fun e => e.2.pid == pid) || s.eth.qps.any (fun e => e.2.pid == pid) || s.eth.xrs.any (fun e => e.2.pid == pid) ||
    s.binds.any (fun e => e.2.cfg.pid == pid) || s.roods.any fun k => k.dir.any fun d => d.2.pid == pid

/-- A queue from DATA0 to DATA2. -/
def queueOfWords (r d0 d1 d2 : Nat) : Queue where
  rood := r
  pid := bits d2 0 20
  ring := bits d0 0 48
  logDepth := bits d0 48 5
  cring := bits d1 0 48
  inflightMax := bits d2 20 17
  st := if bits d0 53 2 = 1 then .active else if bits d0 53 2 = 2 then .draining else .disabled

def queueCode : QueueState → Nat
  | .disabled => 0
  | .active => 1
  | .draining => 2

def wordsOfQueue (k : Queue) : List Word :=
  [w64 (k.ring + 2 ^ 48 * k.logDepth + 2 ^ 53 * queueCode k.st), w64 k.cring, w64 (k.pid + 2 ^ 20 * k.inflightMax),
    w64 (k.producer + 2 ^ 32 * k.consumer)]

/-- PID is a slice of rood r. -/
def ownPid (s : State) (r pid : Nat) : Bool := s.slices.any fun e => e.2.pid == pid && e.2.rood == r

/-- Checks of a queue WRITE. -/
def queueCheck (s : State) (r i d0 d1 d2 : Nat) : Nat :=
  let n := queueOfWords r d0 d1 d2
  let old := tfind i s.queues
  let cap := match s.roods[r]? with | some k => k.res.qQueues | none => 0
  firstFail [
    (bits d0 55 9 != 0 || bits d1 48 16 != 0 || bits d2 37 27 != 0 || n.logDepth < 6 || 16 < n.logDepth || bits d0 53 2 == 3 ||
      n.inflightMax == 0 || 2 ^ n.logDepth < n.inflightMax || n.ring % 4096 != 0 || n.cring % 4096 != 0 || n.pid == 0,
      Sts.protocolViolation),
    ((match old with | some k => k.rood != r | none => false) || !ownPid s r n.pid ||
      !inRoodRegions s r n.ring (128 * 2 ^ n.logDepth) false || !inRoodRegions s r n.cring (32 * 2 ^ n.logDepth) false,
      Sts.notPermitted),
    (old.isNone && cap ≤ (s.queues.filter fun e => e.2.rood == r).length, Sts.refusedCapacity),
    (match old with
      | some k => k.ring != n.ring || k.cring != n.cring || k.logDepth != n.logDepth || k.pid != n.pid
      | none => false, Sts.resourceBusy)]

/-- A queue WRITE takes effect: STATE and INFLIGHT_MAX of an existing queue, or a new queue (Table 6.4). -/
def putQueue (i : Nat) (n : Queue) (s : State) : State :=
  let q := match tfind i s.queues with
    | none => { n with st := if n.st = .draining then .disabled else n.st }
    | some k =>
      { k with
        inflightMax := n.inflightMax
        taken := if n.st = .active ∧ k.st ≠ .active then 0 else k.taken
        st := if n.st = .draining ∧ k.inflight = 0 then .disabled else n.st }
  { s with queues := tset i q s.queues }

/-- A region from DATA0 and DATA1. -/
def regionOfWords (r d0 d1 : Nat) : Region where
  start := bits d0 0 48
  len := bits d0 48 16
  kind := bits d1 0 3
  fmt := bits d1 4 4
  rood := r
  backing := bits d1 8 2

def wordsOfRegion (g : Region) : List Word :=
  [w64 (g.start + 2 ^ 48 * g.len), w64 (g.kind + 16 * g.fmt + 256 * g.backing), 0, 0]

/-- Region n of stack t. -/
def regionNo (s : State) (i : Nat) : Option Region :=
  match s.stks[i / 256]? with
  | none => none
  | some k => tfind (i % 256) k.regions

/-- A FORMAT and a BACKING that the kind takes (07 Tables 7.4, 7.20). -/
def attrOk (g : Region) : Bool :=
  1 ≤ g.kind && g.kind ≤ 5 && (if g.kind = 1 then g.fmt == 0 else fmtOk g.fmt) && (g.backing == 0 || (g.kind != 1 && g.kind != 2))

/-- Checks of a region WRITE. -/
def regionCheck (s : State) (r i d0 d1 : Nat) : Nat :=
  let g := regionOfWords r d0 d1
  let t := i / 256
  let n := g.len * unit2M
  let hit : List Nat := match s.stks[t]? with
    | none => []
    | some k => (k.regions.filter fun e => meets g.start n e.2.start (e.2.len * unit2M)).map fun e => e.2.rood
  firstFail [
    (2048 ≤ i || bits d1 3 1 != 0 || bits d1 10 54 != 0 || g.start % unit2M != 0 || g.len == 0 || g.start < stackBase t ||
      stackBase t + reserveOff < g.start + n || !attrOk g, Sts.protocolViolation),
    (match regionNo s i with | some o => o.rood != r | none => false, Sts.notPermitted),
    (hit.any (· != r), Sts.resourceTaken),
    (!hit.isEmpty || (regionNo s i).isSome, Sts.resourceBusy)]

/-- A use of a region that forbids its deletion (R394). -/
def regionUsed (s : State) (t : Nat) (g : Region) : Bool :=
  let n := g.len * unit2M
  let hits (a m : Nat) : Bool := meets g.start n a m
  (match s.stks[t]? with | some k => k.locks.any fun l => l.st != .free && hits l.base (l.size * unit2M) | none => false) ||
  s.binds.any (fun b => hits b.2.cfg.region (arraysBytes b.2.cfg)) ||
  s.eth.xrs.any (fun x => hits x.2.start x.2.len) ||
  (g.kind == 4 && s.cache.any fun e =>
    e.2.rood == g.rood && (match e.2.place with | some a => hits a (e.2.units * unit2M) | none => false) &&
      (match tfind e.2.slot s.slots with | some k => slotUse k != .free | none => false)) ||
  s.queues.any (fun q => hits q.2.ring (128 * 2 ^ q.2.logDepth) || hits q.2.cring (32 * 2 ^ q.2.logDepth)) ||
  s.slices.any (fun k => k.2.intakeLog2 != 0 && hits k.2.intakeAddr (2 ^ k.2.intakeLog2)) ||
  s.streams.ctx.any (fun x =>
    (x.2.body.srcTier == 1 && hits x.2.body.srcAddr (4096 * x.2.body.bushels)) ||
      (x.2.body.dstTier == 1 && hits x.2.body.dstAddr (4096 * x.2.body.bushels))) ||
  s.fab.xfers.any (fun x => hits x.2.body.localAddr x.2.body.bytes) ||
  s.fab.arrivals.any fun a => !a.2.answered && a.2.rood == g.rood && hits a.2.lo (a.2.hi - a.2.lo)

/-- STATUS and the operation of ROOD_TBL_CMD. -/
def tblDone (r op tbl idx st : Nat) : State → State :=
  modRood r fun k => { k with tblCmd := w64 (op % 4 + 4 * (tbl % 4) + 2 ^ 16 * (idx % 4096) + 2 ^ 32 * st) }

/-- Run a table operation of an ACTIVE rood. -/
def onTable (r op tbl idx : Nat) (f : Rood → State → Nat × State) (s : State) : State :=
  match s.roods[r]? with
  | none => s
  | some k =>
    if k.st ≠ .active then tblDone r op tbl idx (notActive s r) s
    else
      let (st, s) := f k s
      tblDone r op tbl idx st s

/-- The entry's words for a READ, or the status of a refusal. -/
def tblWords (s : State) (r tbl idx : Nat) (k : Rood) : Sum Nat (List Word) :=
  if tbl = 0 then
    if 1024 ≤ idx then .inl Sts.protocolViolation
    else match tfind idx s.slices with
      | some e => if e.rood = r then .inr (wordsOfSlice e) else .inl Sts.notPermitted
      | none => .inr [0, 0, 0, 0]
  else if tbl = 1 then
    match tfind idx s.queues with
    | some e => if e.rood = r then .inr (wordsOfQueue e) else .inl Sts.notPermitted
    | none => .inr [0, 0, 0, 0]
  else if tbl = 2 then
    if 256 ≤ idx then .inl Sts.protocolViolation
    else .inr [w64 (match tfind idx k.peers with | some p => p.1 + 2 ^ 12 * p.2 | none => 0), 0, 0, 0]
  else if 2048 ≤ idx then .inl Sts.protocolViolation
  else match regionNo s idx with
    | some g => if g.rood = r then .inr (wordsOfRegion g) else .inl Sts.notPermitted
    | none => .inr [0, 0, 0, 0]

/-- ROOD_TBL_CMD READ. -/
def tableRead (r tbl idx : Nat) (s : State) : State :=
  onTable r 0 tbl idx (fun k s =>
    match tblWords s r tbl idx k with
    | .inl st => (st, s)
    | .inr ws => (Sts.ok, modRood r (fun k => { k with tblData := ws }) s)) s

/-- ROOD_TBL_CMD WRITE: checked as a whole before it changes anything (R524). -/
def tableWrite (r tbl idx : Nat) (s : State) : State :=
  onTable r 1 tbl idx (fun k s =>
    let d0 := tblWord k 0
    let d1 := tblWord k 1
    let d2 := tblWord k 2
    if tbl = 0 then
      let st := sliceCheck s r idx d0 d1
      let n := sliceOfWords r d0 d1
      let v := match tfind idx s.slices with
        | some o => { o with share := n.share, batchRows := n.batchRows, verdictBytes := n.verdictBytes }
        | none => n
      (st, if st = Sts.ok then { s with slices := tset idx v s.slices }
        else if st = Sts.notPermitted ∧ n.intakeLog2 ≠ 0 then logUncovered r 0 [(n.intakeAddr, 2 ^ n.intakeLog2)] s else s)
    else if tbl = 1 then
      let st := queueCheck s r idx d0 d1 d2
      let n := queueOfWords r d0 d1 d2
      (st, if st = Sts.ok then putQueue idx n s
        else if st = Sts.notPermitted then logUncovered r 0 [(n.ring, 128 * 2 ^ n.logDepth), (n.cring, 32 * 2 ^ n.logDepth)] s else s)
    else if tbl = 2 then
      if 256 ≤ idx ∨ bits d0 16 48 ≠ 0 then (Sts.protocolViolation, s)
      else (Sts.ok, modRood r (fun k => { k with peers := tset idx (bits d0 0 12, bits d0 12 4) k.peers }) s)
    else
      let st := regionCheck s r idx d0 d1
      (st, if st = Sts.ok then
          modStack (idx / 256) (fun k => { k with regions := tset (idx % 256) (regionOfWords r d0 d1) k.regions }) s
        else s)) s

/-- ROOD_TBL_CMD DELETE. -/
def tableDelete (r tbl idx : Nat) (s : State) : State :=
  onTable r 2 tbl idx (fun _ s =>
    if tbl = 0 then
      match tfind idx s.slices with
      | none => (if 1024 ≤ idx then Sts.protocolViolation else Sts.ok, s)
      | some e =>
        let st := if e.rood ≠ r then Sts.notPermitted else if pidUsed s e.pid then Sts.resourceBusy else Sts.ok
        (st, if st = Sts.ok then { s with slices := tdel idx s.slices } else s)
    else if tbl = 1 then
      match tfind idx s.queues with
      | none => (Sts.ok, s)
      | some e =>
        let st := if e.rood ≠ r then Sts.notPermitted else if e.st ≠ .disabled then Sts.resourceBusy else Sts.ok
        (st, if st = Sts.ok then { s with queues := tdel idx s.queues } else s)
    else if tbl = 2 then
      if 256 ≤ idx then (Sts.protocolViolation, s)
      else (Sts.ok, modRood r (fun k => { k with peers := tdel idx k.peers }) s)
    else
      match regionNo s idx with
      | none => (if 2048 ≤ idx then Sts.protocolViolation else Sts.ok, s)
      | some g =>
        let st := if g.rood ≠ r then Sts.notPermitted else if regionUsed s (idx / 256) g then Sts.resourceBusy else Sts.ok
        (st, if st = Sts.ok then dropRegion (idx / 256) (idx % 256) s else s)) s

/-! ### Meanings -/

/-- CREATE (R392). -/
def execCreate (r : Nat) (s : State) : Answer := .next (createRood r s)
/-- ROOD_CREATED (R392, R414). -/
def execRoodCreated (r : Nat) (s : State) : Answer := .next (roodCreated r s)
/-- RESET (R392, R399). -/
def execReset (r : Nat) (s : State) : Answer := .next (resetRood r s)
/-- REMOVE (R392, R399). -/
def execRemove (r : Nat) (s : State) : Answer := .next (removeRood r s)
/-- ROOD_RESET_DONE (R399). -/
def execRoodResetDone (r : Nat) (s : State) : Answer := .next (resetDone r s)
/-- ROOD_RESIZE_APPLY (R393). -/
def execRoodResizeApply (r rod : Nat) (s : State) : Answer := .next (resizeArm r rod s)
/-- RESIZE_APPLIED (R393). -/
def execResizeApplied (r : Nat) (s : State) : Answer := .next (resizeApplied r s)
/-- UNIT_JOINS_ROOD (R394). -/
def execUnitJoinsRood (u : FailUnit) (s : State) : Answer :=
  .next (match u with | .cluster c => clusterJoins c s | .engine t e => engineJoins t e s)
/-- TABLE_READ (R415, Table 13.19). -/
def execTableRead (r tbl idx : Nat) (s : State) : Answer := .next (tableRead r tbl idx s)
/-- TABLE_WRITE (R524). -/
def execTableWrite (r tbl idx : Nat) (s : State) : Answer := .next (tableWrite r tbl idx s)
/-- TABLE_DELETE (R524). -/
def execTableDelete (r tbl idx : Nat) (s : State) : Answer := .next (tableDelete r tbl idx s)

end Sys2Proof.Machine
end

