-- ==== Sys2Proof/Machine/Keys.lean ====
section
/-! DEFINITION. Key blobs, attestation, and the security and debug states (13 R404 to R412; 17 R500 to R502). -/
namespace Sys2Proof.Machine

/-! ### Who asks (Tables 13.12, 13.13) -/

/-- A session is attached; one that a takeover would replace lasts until the takeover succeeds (12 R386). -/
def inSession (s : State) : Bool :=
  s.eth.session.st == .attached || (s.eth.session.st == .attaching && s.eth.session.before == .attached)

/-- Rood keys are accepted: S1 or S2, and not in D3 (Table 13.12). -/
def keysAccepted (s : State) : Bool := (s.sec.state == 1 || s.sec.state == 2) && s.sec.debug != 3

/-- AUTH_FAILED for a subject: 1 ATTACH, 2 grant, 3 state request (R414). -/
def authFailed (subject : Nat) (s : State) : State := raiseSec 0 (logSec 0x0C noRood subject s)

/-! ### Key blobs (R405 to R407, Table 13.8) -/

/-- Key length of a kind; none for an unknown one. -/
def keyLen (kind : Nat) : Option Nat :=
  if kind = 1 ∨ kind = 2 then some 36 else if kind = 3 then some 48 else if kind = 0x10 ∨ kind = 0x11 then some 0 else none

/-- Authenticate and decrypt a blob under the key-wrap key: its key bytes, or none where it is KEY_BLOB_INVALID. -/
def openBlob (s : State) (b : List Byte) : Option (List Byte) :=
  match keyLen (field b 0 1) with
  | none => none
  | some n =>
    if b.length ≠ 128 ∨ field b 28 4 ≠ 0 ∨ field b (32 + n) (80 - n) ≠ 0 ∨ field b 8 8 ≤ s.eth.session.keyCounter then none
    else
      let part (o k : Nat) : List Nat := Crypto.ofBytes ((b.drop o).take k)
      (Crypto.gcmOpen (Crypto.ofBytes s.eth.session.wrapKey) (part 16 12) (part 0 32) (part 32 n) (part 112 16)).map Crypto.toBytes

/-- Load an association (R406). -/
def loadSa (inbound : Bool) (r i spi : Nat) (key : List Byte) (s : State) : Nat × State :=
  let cap := match s.roods[r]? with | some k => k.res.qSas | none => 0
  let tomb := inbound && s.eth.sas.any fun e => e.2.inbound && e.2.st == .tombstone && e.2.spi == spi
  if tomb then (Sts.notPermitted, s)
  else if (tfind i s.eth.sas).isSome then (Sts.resourceBusy, s)
  else if cap ≤ saCount s r then (Sts.refusedCapacity, s)
  else
    let a : Sa := { st := .live, rood := r, inbound := inbound, spi := spi, key := key }
    (Sts.ok, modEth (fun e => { e with sas := tset i a e.sas }) s)

/-- An accepted blob acts. -/
def actBlob (b key : List Byte) (s : State) : Nat × State :=
  let kind := field b 0 1
  let r := field b 1 1
  let i := field b 2 2 % 4096
  if roodState s r ≠ .active then (notActive s r, s)
  else if kind = 1 ∨ kind = 2 then loadSa (kind == 1) r i (field b 4 4) key s
  else if kind = 3 then (Sts.ok, modRood r (fun k => { k with debugHash := leNat key }) s)
  else if kind = 0x10 then
    match tfind i s.eth.sas with
    | some a => if a.rood = r then (Sts.ok, destroySa i s) else (Sts.notPermitted, s)
    | none => (Sts.ok, s)
  else (Sts.ok, destroyNs r s)

/-- KEY_LOADED of a blob (Table 13.16). -/
def logLoaded (b : List Byte) (s : State) : State :=
  if field b 0 1 ≤ 3 then logSec 0x06 (field b 1 1) (packLe [(field b 0 1, 1), (field b 2 2 % 4096, 2), (field b 4 4, 4)]) s else s

/-- A refused blob is logged. -/
def blobRefused (b : List Byte) (st : Nat) (s : State) : State :=
  let r := field b 1 1
  let s := raiseSec 1 (logSec 0x08 (if r < 16 then r else noRood) (packLe [(st, 1), (field b 8 7, 7)]) s)
  if r < 16 then raiseRood r 1 s else s

/-- A key blob is written to the key mailbox (17 R494): WIN_KEY_STATUS takes its outcome. -/
def submitBlob (b : List Byte) (s : State) : State :=
  if !inSession s then s
  else
    let s := modSec (fun k => { k with keySeq := (k.keySeq + 1) % 2 ^ 32 }) s
    let (st, s) :=
      if !keysAccepted s then (Sts.notPermitted, s)
      else
        match openBlob s b with
        | none => (Sts.keyBlobInvalid, s)
        | some key => actBlob b key (modEth (fun e => { e with session := { e.session with keyCounter := field b 8 8 } }) s)
    let s := if st = Sts.ok then logLoaded b s else blobRefused b st s
    modSec (fun k => { k with keyStatus := st, keyCounter := field b 8 4 }) s

/-- A blob of one kind. -/
def blobOf (kind : Nat) (b : List Byte) (s : State) : State := if field b 0 1 = kind then submitBlob b s else s

/-- The tombstone of association i has lasted 100 ms (R406). -/
def tombstoneEnds (i : Nat) (s : State) : State :=
  match tfind i s.eth.sas with
  | none => s
  | some a =>
    if a.st = .tombstone ∧ a.until_ ≤ s.time.now then modEth (fun e => { e with sas := tdel i e.sas }) s else s

/-! ### Attestation (R409, R410; 17 R501) -/

/-- A firmware hand-off is in progress (R410). -/
def inHandoff (s : State) : Bool :=
  match s.fwc.update.st with
  | .idle | .deferred => false
  | .verifying | .booting | .takeover | .confirming | .commit => true

/-- Digest and security version of the staged image; zero if none. -/
def stagedImage (s : State) : Nat × Nat :=
  match stagedSlot s with
  | some 0 => (s.boot.digestA, s.boot.svnA)
  | some _ => (s.boot.digestB, s.boot.svnB)
  | none => (0, 0)

def roodCode : RoodState → Nat
  | .free => 0
  | .active => 1
  | .resetting => 2
  | .removing => 3

/-- 2 MiB units of a rood's regions. -/
def roodUnits (s : State) (r : Nat) : Nat :=
  s.stks.foldl (fun n k => k.regions.foldl (fun n g => if g.2.rood = r then n + g.2.len else n) n) 0

/-- A rood record (Table 13.11). -/
def roodRecord (s : State) (r : Nat) (k : Rood) : List Byte :=
  if k.st = .free then leBytes 1 r ++ leBytes 31 0
  else
    let d2 := if s.sec.debug = 2 ∧ s.sec.d2Rood = r then 4 else 0
    leBytes 1 r ++ leBytes 1 (roodCode k.st + d2 + if k.nsKeyLive then 8 else 0) ++ leBytes 2 k.res.clusters ++
      leBytes 4 k.res.engines ++ leBytes 4 (roodUnits s r) ++ leBytes 2 k.res.ns ++ leBytes 2 k.res.slotFirst ++
      leBytes 2 k.res.slotCount ++ leBytes 2 (s.slices.filter fun e => e.2.rood == r).length ++
      leBytes 2 (s.eth.sas.filter fun e => e.2.rood == r && e.2.st == .live).length ++ leBytes 1 k.res.weight ++
      leBytes 1 (min k.peers.length 255) ++ leBytes 8 0

/-- Bytes of a report with n slices. -/
def reportLen (s : State) : Nat := 1000 + 8 * s.slices.length

/-- The report but for its signature (Table 13.10). -/
def reportBody (s : State) (nonce : List Byte) (binding handoff : Nat) : List Byte :=
  let staged := if s.fwc.update.st = .idle then stagedImage s else (s.fwc.update.digest, s.fwc.update.svn)
  let flags := (if s.sec.part = 2 then 1 else 0) + (if s.time.uncertain then 2 else 0) + (if handoff = 1 then 4 else 0)
  leBytes 2 1 ++ leBytes 2 (reportLen s) ++ leBytes 1 flags ++ leBytes 1 handoff ++
    leBytes 1 (s.sec.state + 4 * s.sec.debug + 16 * s.fwc.pstate) ++ leBytes 1 (if s.sec.debug = 2 then s.sec.d2Rood else 0xFF) ++
    leBytes 16 Config.serial ++ leBytes 1 s.sec.part ++ leBytes 7 0 ++ leBytes 48 Config.deviceIdHash ++
    leBytes 48 s.fwc.runDigest ++ leBytes 48 staged.1 ++ leBytes 4 s.fwc.runSvn ++ leBytes 4 staged.2 ++
    leBytes 48 (if s.sec.state = 0 then 0 else s.sec.ownerHash) ++
    leBytes 1 (Config.lifeFuses (s.sec.fusedNext.getD s.sec.state)) ++ leBytes 1 s.sec.d3Logged ++ leBytes 1 s.sec.d3Left ++ leBytes 5 0 ++
    leBytes 48 (Config.configDigest s.boot.attempt) ++ leBytes 8 s.time.now ++ leBytes 6 (rodNum s) ++ leBytes 2 (eraOf s s.time.now) ++
    (nonce.take 32 ++ List.replicate (32 - nonce.length) 0) ++ leBytes 48 binding ++ leBytes 2 16 ++ leBytes 2 s.slices.length ++
    leBytes 2 s.eth.session.num ++ leBytes 2 0 ++
    ((List.range 16).flatMap fun r => roodRecord s r (s.roods.getD r {})) ++
    s.slices.flatMap fun e => leBytes 8 (e.2.pid + 2 ^ 20 * e.1 + 2 ^ 30 * e.2.rood + if e.2.isolate then 2 ^ 34 else 0)

/-- Issue a report: its signature is a free value (log 5), and ATTEST_ISSUED is logged. -/
def issueReport (nonce : List Byte) (binding handoff : Nat) (s : State) : List Byte × State :=
  let body := reportBody s nonce binding handoff
  let (sig, s) := fresh 768 s
  (body ++ leBytes 96 sig, logSec 0x09 noRood (packLe [(handoff, 1), (s.eth.session.num, 2)]) s)

/-- HANDOFF of a report issued now; after a wait, 3 where the update completed in it (R410). -/
def handoffField (s : State) (waited : Bool) : Nat :=
  if s.fwc.update.st = .deferred then 2
  else if inHandoff s then 1
  else if waited && s.fwc.update.lastStatus == Sts.ok then 3 else 0

/-- Fields of SEC_RPT_CTL. -/
def rptCtl (cmd obj piece st len : Nat) : Word := w64 (cmd % 4 + 4 * (obj % 4) + 16 * (piece % 16) + 2 ^ 8 * st + 2 ^ 16 * (len % 2 ^ 16))

/-- Piece number `piece` of an object goes to SEC_BUF; the bytes past its end read as zero (17 R501). -/
def loadPiece (object piece : Nat) (bs : List Byte) (s : State) : State :=
  let part := (bs.drop (4096 * (piece % 16))).take 4096
  modSec (fun k => { k with
    buf := part ++ List.replicate (4096 - part.length) 0, rptCtl := rptCtl 2 object piece Sts.ok bs.length }) s

/-- The report of a REQUEST is issued; the SELECTs that waited for it then take their final status (00 R18, 17 R501). -/
def issueRequested (waited : Bool) (s : State) : State :=
  let (bs, s) := issueReport (s.sec.rptNonce.flatMap fun w => leBytes 8 w.toNat) 0 (handoffField s waited) s
  let selects := s.sec.rptSelect
  let s := modSec (fun k => { k with report := bs, rptPendingAt := none, rptSelect := [], rptCtl := rptCtl 1 0 0 Sts.ok bs.length }) s
  forAll selects (fun piece => loadPiece 0 piece bs) s

/-- A REQUEST and SELECTs still DEFERRED are withdrawn: the final status of each is SQUASHED, whatever STATUS has held since (00 R18). -/
def squashReport (s : State) : State :=
  modSec (fun k => { k with
    rptPendingAt := none
    rptSelect := []
    rptCtl := match k.rptSelect.getLast?, k.rptPendingAt with
      | some piece, _ => rptCtl 2 0 piece Sts.squashed 0
      | none, some _ => rptCtl 1 0 0 Sts.squashed 0
      | none, none => k.rptCtl }) s

/-- REQUEST: one at a time; it waits during a hand-off. -/
def requestReport (s : State) : State :=
  if !inSession s then s
  else if s.sec.rptPendingAt.isSome then modSec (fun k => { k with rptCtl := rptCtl 1 0 0 Sts.roodBusy 0 }) s
  else if inHandoff s then
    modSec (fun k => { k with rptPendingAt := some s.time.now, report := [], rptCtl := rptCtl 1 0 0 Sts.deferred 0 }) s
  else issueRequested false s

/-- A waiting report is issued once the hand-off has ended, or after 50 ms (R410). -/
def waitingReport (s : State) : State :=
  match s.sec.rptPendingAt with
  | none => s
  | some t => if !inHandoff s ∨ t + 50 * msTicks ≤ s.time.now then issueRequested true s else s

/-- SELECT: a piece of 4 KiB of an object goes to SEC_BUF; one of a report not yet issued waits for it. -/
def selectPiece (object piece : Nat) (s : State) : State :=
  if !inSession s then s
  else if 3 ≤ object then modSec (fun k => { k with rptCtl := rptCtl 2 object piece Sts.protocolViolation 0 }) s
  else
    let bs := if object = 0 then s.sec.report else Config.certificate object s.fwc.runDigest
    if object = 0 ∧ bs = [] then modSec (fun k => { k with rptSelect := k.rptSelect ++ [piece], rptCtl := rptCtl 2 object piece Sts.deferred 0 }) s
    else loadPiece object piece bs s

/-- A read of SEC_NONCE: a fresh value, which replaces every earlier one (17 R502). -/
def readNonce (s : State) : Nat × State :=
  let (v, s) := fresh 64 s
  (v, modSec (fun k => { k with nonce := some v }) s)

/-! ### Debug states (R411, R412, Tables 13.12, 13.14) -/

/-- STATUS of SEC_GRANT_CTL. -/
def grantDone (cmd target st : Nat) (s : State) : State :=
  let s := modSec (fun k => { k with grantCtl := w64 (cmd + 16 * target + 2 ^ 8 * st) }) s
  let s := if st = Sts.authFailed then authFailed 2 s else s
  if st = Sts.stateTransitionRefused then raiseSec 2 s else s

/-- Enter a debug state. -/
def enterDebug (d : Nat) (s : State) : State :=
  let r := if d = 2 ∨ s.sec.debug = 2 then s.sec.d2Rood else noRood
  logSec 0x0B r (packLe [(s.sec.debug, 1), (d, 1), (r, 1)]) (modSec (fun k => { k with debug := d }) s)

/-- D2 is left: the work outstanding on the rood's units is squashed and the units are scrubbed (R525, Table 13.14). -/
def leaveD2 (d : Nat) (s : State) : State :=
  let r := s.sec.d2Rood
  let units (e : Desc) : Bool :=
    (match unitOf e with
      | .cores c | .tun c | .gill c _ | .comb c => (roodClusters s r).contains c
      | .engine t e => (roodEngines s r).contains (t, e)
      | _ => false) || (match e.body with | .k1 _ => e.rood == r | _ => false)
  let s := endDescs (fun e => e.rood == r && units e) (fun _ => Sts.squashed) s
  let s := forAll (roodClusters s r) scrubCluster s
  let s := forAll (roodEngines s r) (fun e t => modEngine e.1 e.2 (fun k => { k with acc := none }) (scrubEngine e.1 e.2 t)) s
  enterDebug d s

/-- Leave D1 or D2 for a lower state. -/
def leaveDebug (d : Nat) (s : State) : State := if s.sec.debug = 2 then leaveD2 d s else enterDebug d s

/-- ENTER_D1. -/
def enterD1 (s : State) : State :=
  if !inSession s then s
  else
    let k := s.eth.session
    if !k.owner ∨ !bit k.rights 2 then grantDone 1 0 Sts.authFailed s
    else if s.sec.debug ≠ 0 ∨ !(s.sec.state = 1 ∨ s.sec.state = 2) then grantDone 1 0 Sts.stateTransitionRefused s
    else grantDone 1 0 Sts.ok (enterDebug 1 s)

/-- Bytes of SEC_GRANT. -/
def grantBytes (s : State) : List Byte := (List.range 28).flatMap fun i => leBytes 8 (tgetD i 0 s.sec.grant).toNat

/-- Every rood is removed, whatever its state (Table 13.14). -/
def removeAll (s : State) : State :=
  forAll (roodsWith s fun _ k => k.st != .free) (fun r s =>
    match roodState s r with
    | .active => beginReset r true s
    | .resetting => modRood r (fun k => { k with removeHeld := true }) s
    | .free | .removing => s) s

/-- A rood key is live: an association, or a rood's namespace key. -/
def roodKeyLive (s : State) : Bool :=
  s.eth.sas.any (fun e => e.2.st == .live) || s.roods.any fun k => k.st != .free && k.nsKeyLive

/-- PRESENT of a D2 grant: its status (17 R502, Table 17.14). -/
def checkD2 (s : State) (g : List Byte) (nonceOk : Bool) : Nat :=
  let r := field g 1 1
  let k := s.roods.getD r {}
  let key := (g.drop 128).take 96
  let expiry := field g 16 6 + 2 ^ 48 * field g 22 2
  if !s.eth.session.owner ∨ !nonceOk ∨ shaNat key ≠ k.debugHash ∨
      !sigOk key (g.take 32 ++ leBytes 16 Config.serial) ((g.drop 32).take 96) ∨ expiry ≤ rodCount s then Sts.authFailed
  else if !(s.sec.state = 1 ∨ s.sec.state = 2) ∨ !(s.sec.debug = 0 ∨ s.sec.debug = 1) ∨ roodState s r ≠ .active then
    Sts.stateTransitionRefused
  else Sts.ok

/-- PRESENT of a D3 grant: its status. -/
def checkD3 (s : State) (g : List Byte) (nonceOk : Bool) : Nat :=
  if !nonceOk ∨ field g 16 16 ≠ Config.serial % 2 ^ 128 ∨ !sigOk vendorKeyBytes (g.take 32) ((g.drop 32).take 96) ∨
      (s.sec.state = 1 ∧ !s.eth.session.owner) then Sts.authFailed
  else if s.sec.debug ≠ 0 ∨ s.sec.state = 2 ∨ (s.sec.state = 1 ∧ roodKeyLive s) ∨ s.sec.d3Left = 0 then
    Sts.stateTransitionRefused
  else Sts.ok

/-- PRESENT: the grant consumes the nonce. -/
def presentGrant (s : State) : State :=
  if !inSession s then s
  else
    let g := grantBytes s
    let nonceOk := s.sec.nonce == some (field g 8 8)
    let s := modSec (fun k => { k with nonce := none }) s
    if field g 0 1 = 2 then
      let st := checkD2 s g nonceOk
      if st ≠ Sts.ok then grantDone 2 0 st s
      else
        grantDone 2 0 Sts.ok (enterDebug 2 (modSec (fun k => { k with
          d2Rood := field g 1 1, d2Expiry := field g 16 6 + 2 ^ 48 * field g 22 2 }) s))
    else if field g 0 1 = 3 then
      let st := checkD3 s g nonceOk
      if st ≠ Sts.ok then grantDone 2 0 st s
      else
        let s := modSec (fun k => { k with d3Logged := k.d3Logged + 1, d3Left := k.d3Left - 1 }) s
        grantDone 2 0 Sts.ok (enterDebug 3 (forAll (List.range 16) destroyNs (removeAll s)))
    else grantDone 2 0 Sts.authFailed s

/-- LEAVE to D0 or D1. -/
def leaveGrant (target : Nat) (s : State) : State :=
  if !inSession s then s
  else if !s.eth.session.owner then grantDone 3 target Sts.authFailed s
  else if (s.sec.debug = 1 ∧ target = 0) ∨ (s.sec.debug = 2 ∧ target ≤ 1) then grantDone 3 target Sts.ok (leaveDebug target s)
  else grantDone 3 target Sts.stateTransitionRefused s

/-- The expiry rod of a D2 grant has ended (17 R502; 10 R322). -/
def d2Expires (s : State) : State :=
  if s.sec.debug = 2 ∧ (s.sec.d2Expiry + 1) * rodLen s ≤ s.time.now then leaveD2 1 s else s

/-! ### Life cycle (R412) -/

/-- STATUS of SEC_LIFE_CTL. -/
def lifeDone (cmd st : Nat) (s : State) : State :=
  let s := modSec (fun k => { k with lifeCtl := w64 (cmd + 2 ^ 8 * st) }) s
  let s := if st = Sts.authFailed then authFailed 3 s else s
  if st = Sts.stateTransitionRefused then raiseSec 2 s else s

/-- TO_S1: the vendor supplies the owner key hash. -/
def toS1 (s : State) : State :=
  if !inSession s then s
  else if s.eth.session.owner then lifeDone 1 Sts.authFailed s
  else if s.sec.state ≠ 0 ∨ s.sec.debug ≠ 0 ∨ s.sec.fusedNext.isSome then lifeDone 1 Sts.stateTransitionRefused s
  else lifeDone 1 Sts.ok (modSec (fun k => { k with fusedNext := some 1, ownerHashNext := field (grantBytes s) 0 48 }) s)

/-- TO_S2: a production part only (00 R2). -/
def toS2 (s : State) : State :=
  if !inSession s then s
  else if !s.eth.session.owner then lifeDone 2 Sts.authFailed s
  else if s.sec.state ≠ 1 ∨ s.sec.debug ≠ 0 ∨ s.sec.part ≠ 1 ∨ s.sec.fusedNext.isSome then lifeDone 2 Sts.stateTransitionRefused s
  else lifeDone 2 Sts.ok (modSec (fun k => { k with fusedNext := some 2 }) s)

/-- The session ends: its keys are destroyed, and a report still waiting is withdrawn. -/
def endSession (st : AttachState) (s : State) : State :=
  let s := squashReport (modSec (fun k => { k with nonce := none }) s)
  modEth (fun e => { e with session := { e.session with
    st := st, wrapKey := [], keyIn := [], keyOut := [], owner := false, rights := 0, waiting := none } }) s

/-- TO_S3: at once; every rood removed, every key destroyed, D0. -/
def toS3 (s : State) : State :=
  if !inSession s then s
  else if !s.eth.session.owner ∨ !bit s.eth.session.rights 3 then lifeDone 3 Sts.authFailed s
  else if !(s.sec.state = 1 ∨ s.sec.state = 2) then lifeDone 3 Sts.stateTransitionRefused s
  else
    let from_ := s.sec.state
    let s := if s.sec.debug = 0 then s else leaveDebug 0 s
    let s := forAll (s.eth.sas.map (·.1)) destroySa (forAll (List.range 16) destroyNs (removeAll s))
    let s := modSec (fun k => { k with state := 3, fusedNext := none }) s
    let s := { s with roods := s.roods.map fun k => { k with debugHash := 0 } }
    endSession .detached (lifeDone 3 Sts.ok (logSec 0x0A noRood (packLe [(from_, 1), (3, 1)]) s))

/-! ### Meanings -/

/-- SA_IN (R406). -/
def execSaIn (blob : List Byte) (s : State) : Answer := .next (blobOf 0x01 blob s)
/-- SA_OUT (R406). -/
def execSaOut (blob : List Byte) (s : State) : Answer := .next (blobOf 0x02 blob s)
/-- DEBUG_KEY (R404, R405). -/
def execDebugKey (blob : List Byte) (s : State) : Answer := .next (blobOf 0x03 blob s)
/-- DESTROY_SA (R406). -/
def execDestroySa (blob : List Byte) (s : State) : Answer := .next (blobOf 0x10 blob s)
/-- DESTROY_NS (R407). -/
def execDestroyNs (blob : List Byte) (s : State) : Answer := .next (blobOf 0x11 blob s)
/-- TOMBSTONE_EXPIRE (R406). -/
def execTombstoneExpire (sa : Nat) (s : State) : Answer := .next (tombstoneEnds sa s)
/-- SEC_NONCE (17 R502): the value read is the nonce kept. -/
def execSecNonce (s : State) : Answer := .next (if inSession s then (readNonce s).2 else s)
/-- REQUEST (R409; 17 R501). -/
def execRequest (s : State) : Answer := .next (requestReport s)
/-- SELECT (17 R501). -/
def execSelect (object piece : Nat) (s : State) : Answer := .next (selectPiece object piece s)
/-- ENTER_D1 (R412). -/
def execEnterD1 (s : State) : Answer := .next (enterD1 s)
/-- PRESENT (17 R502). -/
def execPresent (s : State) : Answer := .next (presentGrant s)
/-- LEAVE (R412). -/
def execLeave (target : Nat) (s : State) : Answer := .next (leaveGrant target s)
/-- D2_EXPIRY (17 R502). -/
def execD2Expiry (s : State) : Answer := .next (d2Expires s)
/-- TO_S1 (R412). -/
def execToS1 (s : State) : Answer := .next (toS1 s)
/-- TO_S2 (R412). -/
def execToS2 (s : State) : Answer := .next (toS2 s)
/-- TO_S3 (R412). -/
def execToS3 (s : State) : Answer := .next (toS3 s)

end Sys2Proof.Machine
end

