-- ==== Sys2Proof/Machine/Power.lean ====
section
/-! DEFINITION. Firmware cores, clocks, the power and thermal loops, emergency flags, power states, the firmware update hand-off,
FATAL, and the small pins (16 R461 to R482; 14 R419, R420, R422; 18 R513 to R516). -/
namespace Sys2Proof.Machine

/-! ### Clocks and ceilings (16 R462, R463, R466) -/

abbrev cluMin : Nat := 1000
abbrev frkMin : Nat := 800

/-- CAP_EFF in W (16 R463, Table 16.2; 14 R420; log 5 for a phase's share). -/
def capEff (s : State) : Nat :=
  let f := s.fwc
  let low := if f.flags.testBit 4 then f.vin * 375 / 10000 else 1350
  min 1350 (min f.cap (min low (1350 - (f.lostShares.map Config.phaseShare).sum)))

/-- The clock of a cluster: the lowest of the profile and the ceilings; a hot unit runs at its minimum (R462, Table 16.2). -/
def cluClock (f : Fwc) (k : Cluster) : Nat := if k.hot then cluMin else min f.profClu (min f.ceilClu k.ceil)

/-- The Firkin clock of a stack. -/
def frkClock (f : Fwc) (k : Stack) : Nat := if k.hot || k.dramHot then frkMin else min f.profFrk (min f.ceilFrk k.ceil)

/-- P0, or P1 where some clock lies below its profile or CAP_EFF below 1,350 W (R470); no cause of Table 16.9 fits that change, so
its cause byte is a free value. -/
def settleState (s : State) : State :=
  let low := s.clusters.any (fun k => k.clk < s.fwc.profClu) || s.stks.any (fun k => k.clk < s.fwc.profFrk) || capEff s < 1350
  let want := if low then 1 else 0
  if 2 ≤ s.fwc.pstate ∨ s.fwc.pstate = want then s
  else
    let (v, s) := fresh 8 s
    changePstate want v s

/-- Clocks and power state after a ceiling or a flag has changed; a clock that changes stops its units for at most 1 µs (03 R92; 04
R129; 05 R162). -/
def settleClocks (s : State) : State :=
  let ends (unit : Nat) : Nat := s.time.now + Config.clockPause unit s.time.now % 4001
  settleState { s with
    clusters := s.clusters.mapIdx fun c k =>
      { k with clk := cluClock s.fwc k, pauseUntil := if cluClock s.fwc k = k.clk then k.pauseUntil else ends c }
    stks := s.stks.mapIdx fun t k =>
      { k with clk := frkClock s.fwc k, pauseUntil := if frkClock s.fwc k = k.clk then k.pauseUntil else ends (16 + t) } }

/-- CEILING_CHANGED: cause 0 power, 1 thermal. -/
def logCeiling (clu frk cause : Nat) : State → State := logEv Blk.fw 0x02 noRood (packLe [(clu, 2), (frk, 2), (cause, 1)])

/-- No clock is raised while a firmware core has failed and its spare has not taken over (14 R419). -/
def mayRaise (s : State) : Bool := s.fwc.cores.all fun c => !c.failed

/-- A logical firmware core runs its duties. -/
def fwCoreRuns (s : State) (k : Nat) : Bool := match s.fwc.cores[k]? with | some c => !c.failed | none => false

/-- Lower or raise one power ceiling by a step of 100 MHz, as POLICY decides (R463). -/
def moveCeiling (up : Bool) (s : State) : State :=
  let f := s.fwc
  let cluCan := if up then f.ceilClu < f.profClu else cluMin < f.ceilClu
  let frkCan := if up then f.ceilFrk < f.profFrk else frkMin < f.ceilFrk
  let cluFirst := if f.policy = 1 then false else if f.policy = 2 then true else !f.alt
  let clu := if cluFirst then cluCan else cluCan && !frkCan
  let frk := !clu && frkCan
  let by_ (v : Nat) : Nat := if up then v + 100 else v - 100
  if !clu && !frk then s
  else
    let f := { f with
      ceilClu := if clu then by_ f.ceilClu else f.ceilClu
      ceilFrk := if frk then by_ f.ceilFrk else f.ceilFrk
      alt := if f.policy = 1 ∨ f.policy = 2 then f.alt else clu }
    logCeiling f.ceilClu f.ceilFrk 0 { s with fwc := f }

/-- Both ceilings fall by d MHz, not below their minimum. -/
def lowerBoth (d : Nat) (s : State) : State :=
  let f := { s.fwc with ceilClu := max cluMin (s.fwc.ceilClu - d), ceilFrk := max frkMin (s.fwc.ceilFrk - d) }
  if f = s.fwc then s else logCeiling f.ceilClu f.ceilFrk 0 { s with fwc := f }

/-! ### Firmware update: parts that flags and cores use (16 R476 to R479) -/

/-- The spare core is free again; a core that failed meanwhile takes it. -/
def freeSpare (s : State) : State :=
  if s.fwc.spare ≠ .handoff then s
  else
    match (List.range 6).find? fun k => !fwCoreRuns s k with
    | none => modFwc (fun f => { f with spare := .ready }) s
    | some k => mapChange 4 1 0 0 k s.fwc.sparePhys (modFwc (fun f => { f with spare := .inUse }) s)

/-- An update ends with its final status. -/
def endUpdate (st : Nat) (s : State) : State :=
  let us := (s.time.now - s.fwc.update.start) / usTicks % 2 ^ 32
  let svn := s.fwc.update.svn
  let s := freeSpare (modFwc (fun f => { f with update := { f.update with
    st := .idle
    status := st
    lastStatus := st
    lastDur := us
    completed := if st = Sts.ok then satInc 16 f.update.completed else f.update.completed
    rolled := if st = Sts.handoffRolledBack ∨ st = Sts.handoffAborted then satInc 16 f.update.rolled else f.update.rolled } }) s)
  if st = Sts.ok then logEv Blk.fw 0x0A noRood (packLe [(svn, 4), (us, 4)]) s
  else raiseFwc 6 (logEv Blk.fw 0x0B noRood st s)

/-- A flag of Table 16.2 is set, or the quiet time is under 100 ms (Table 16.6). -/
def held (s : State) : Bool := s.fwc.flags != 0 || s.time.now < s.fwc.quietSince + 100 * msTicks

/-- The update is put off (Table 16.6). -/
def deferUpdate (s : State) : State :=
  let s := modFwc (fun f => { f with update := { f.update with st := .deferred, deferrals := satInc 16 f.update.deferrals } }) s
  logEv Blk.fw 0x09 noRood s.fwc.flags s

/-! ### Emergency flags (16 R468) -/

/-- FWC_ERR_STATUS bit of a flag. -/
def flagErr (i : Nat) : Option Nat := if i = 0 then some 3 else if i = 2 then some 4 else if i = 3 then some 5 else none

/-- FLAG_SET of flag i; where it names no unit the byte is a free value. -/
def logFlag (i : Nat) (unit : Option Nat) (s : State) : State :=
  match unit with
  | some u => logEv Blk.fw 0x03 noRood (packLe [(i, 1), (u, 1)]) s
  | none =>
    let (v, s) := fresh 8 s
    logEv Blk.fw 0x03 noRood (packLe [(i, 1), (v, 1)]) s

/-- Flag i is set; one that sets during BOOTING defers the update (R477). -/
def setFlag (i : Nat) (unit : Option Nat) (s : State) : State :=
  let s := modFwc (fun f => { f with flags := setBit f.flags i, quietSince := s.time.now }) s
  let s := modPins (fun p => { p with smbStatus := setBit p.smbStatus i }) s
  let s := match flagErr i with | some b => raiseFwc b s | none => s
  let s := logFlag i unit s
  if s.fwc.update.st = .booting then deferUpdate (freeSpare s) else s

/-- Flag i clears: its condition held until now. -/
def clearFlag (i : Nat) (s : State) : State :=
  if s.fwc.flags.testBit i then
    logEv Blk.fw 0x04 noRood i (modFwc (fun f => { f with flags := clrBit f.flags i, quietSince := s.time.now }) s)
  else s

/-! ### The power loop (16 R463, R465; 14 R420) -/

/-- Rail of a phase: 0 core, 1 stack; and the rail's spare phase. -/
def railOf (p : Nat) : Nat := if p < 17 then 0 else 1
def spareOf (p : Nat) : Nat := if p < 17 then 16 else 25

/-- Phase p has been out of current sharing for 10 periods: it is disabled and its rail's spare enabled (14 R420). -/
def phaseFails (p : Nat) (s : State) : State :=
  let n := railOf p
  let sp := spareOf p
  let spare := match s.fwc.phases[sp]? with | some k => k.st == 1 && p != sp | none => false
  let s := modFwc (fun f => { f with
    phases := f.phases.modify p fun k => { k with st := 2, out := 0 }
    lostShares := f.lostShares ++ [p] }) s
  let s := mapChange 5 2 0 n p p s
  let s := raiseFwc 2 (logEv Blk.fw 0x08 noRood (packLe [(p, 1), (n, 1)]) s)
  let s := if s.fwc.flags.testBit 5 then s else setFlag 5 (some p) s
  if spare then
    mapChange 5 1 0 n p sp (modFwc (fun f => { f with phases := f.phases.modify sp fun k => { k with st := 0, out := 0 } }) s)
  else mapChange 5 3 0 n p p s

/-- A spare phase carries load: the oldest lost share of its rail is carried again. -/
def phaseLoaded (p : Nat) (s : State) : State :=
  match s.fwc.phases[p]? with
  | none => s
  | some k =>
    if (p ≠ 16 ∧ p ≠ 25) ∨ k.st ≠ 0 then s
    else
      match s.fwc.lostShares.find? fun q => railOf q == railOf p && q != p with
      | none => s
      | some q =>
        let s := modFwc (fun f => { f with lostShares := f.lostShares.erase q }) s
        if s.fwc.lostShares = [] then clearFlag 5 s else s

/-- One reading of a phase's current sharing. -/
def phaseShares (out : Bool) (p : Nat) (s : State) : State :=
  match s.fwc.phases[p]? with
  | none => s
  | some k =>
    if k.st ≠ 0 then s
    else if !out then modFwc (fun f => { f with phases := f.phases.modify p fun k => { k with out := 0 } }) s
    else if 9 ≤ k.out then phaseFails p s
    else modFwc (fun f => { f with phases := f.phases.modify p fun k => { k with out := k.out + 1 } }) s

/-- The readings of a period: input, P10 over the last 10 ms, energy in nJ, phase telemetry (log 17). -/
def takeReading (p : PowerReading) (s : State) : State :=
  modFwc (fun f =>
    let samples := (f.samples ++ [p.mV * p.cA]).drop (f.samples.length + 1 - 100)
    { f with
      vin := p.mV
      iin := p.cA
      samples := samples
      p10 := samples.sum / samples.length / 100000
      energy := f.energy + p.mV * p.cA
      phases := p.phases.foldl (fun ps q => ps.modify q.1 fun k => { k with current := q.2.1 % 2 ^ 16, temp := q.2.2 % 2 ^ 12 }) f.phases
      cap := match f.capNext with | some c => c.1 | none => f.cap
      policy := match f.capNext with | some c => c.2 | none => f.policy
      capNext := none }) s

/-- Flags FAST_LIMIT and OVER_LIMIT by P10 (Table 16.2). -/
def powerFlags (s : State) : State :=
  let s := if s.fwc.p10 ≤ capEff s then clearFlag 0 s else s
  if 1350 < s.fwc.p10 ∧ !s.fwc.flags.testBit 1 then setFlag 1 none s
  else if s.fwc.p10 ≤ 1300 then clearFlag 1 s
  else s

/-- The ceilings of a period (R463, R465). -/
def powerCeilings (s : State) : State :=
  let f := s.fwc
  let cap := capEff s
  if cap < f.p10 then
    let s := modFwc (fun f => { f with under := 0 }) s
    if f.ceilClu = cluMin ∧ f.ceilFrk = frkMin then raiseFwc 0 (logEv Blk.fw 0x05 noRood (packLe [(f.p10, 2)]) s)
    else if f.flags.testBit 1 then lowerBoth 100 s
    else moveCeiling false s
  else if f.p10 + 25 ≤ cap then
    if 9 ≤ f.under then
      let s := modFwc (fun f => { f with under := 0 }) s
      if mayRaise s then moveCeiling true s else s
    else modFwc (fun f => { f with under := f.under + 1 }) s
  else modFwc (fun f => { f with under := 0 }) (if f.flags.testBit 1 then lowerBoth 100 s else s)

/-- POWER_LOOP_PERIOD: run by logical core 0 while the regulators run (Table 16.1, 15 Table 15.5 step 4). -/
def powerPeriod (p : PowerReading) (s : State) : State :=
  if !s.pins.powered ∨ !fwCoreRuns s 0 then s
  else
    let s := takeReading p s
    let s := forAll p.loaded phaseLoaded s
    let s := forAll (List.range 26) (fun q => phaseShares (p.unshared.contains q) q) s
    settleClocks (powerCeilings (powerFlags s))

/-- FAST_LIMITER: hardware, whether or not firmware runs (R464); the average also counts for FWC_PWR_NOW. -/
def fastLimit (avg : Nat) (s : State) : State :=
  if !s.pins.powered then s
  else
    let s := modFwc (fun f => { f with
      max10 := (f.max10.filter fun e => s.time.now < e.1 + 1000 * msTicks && avg < e.2) ++ [(s.time.now, avg)] }) s
    if avg ≤ 1600 then s
    else
      let s := if s.fwc.flags.testBit 0 then modFwc (fun f => { f with quietSince := s.time.now }) s else setFlag 0 none s
      settleClocks (lowerBoth s.fwc.fastStep s)

/-! ### Thermal loops and trips (16 R466, R468) -/

/-- Temperatures in units of 0.125 °C. -/
abbrev degC (t : Nat) : Nat := 8 * t

/-- A ceiling after one thermal period. -/
def thermalCeil (s : State) (t ceil low top : Nat) (fall : Bool) : Nat :=
  let c := if degC s.fwc.throttle ≤ t then max low (ceil - 100) else ceil
  if fall then max low (c - 100)
  else if t + degC 3 ≤ degC s.fwc.throttle && mayRaise s then min top (c + 100)
  else c

/-- THERMAL_LOOP_PERIOD of one unit, run by logical core 1. -/
def thermalPeriod (u : ThermalUnit) (junction dram : Nat) (s : State) : State :=
  if !s.pins.powered ∨ !fwCoreRuns s 1 then s
  else
    match u with
    | .cluster c =>
      match s.clusters[c]? with
      | none => s
      | some k =>
        let ceil := thermalCeil s junction k.ceil cluMin s.fwc.profClu false
        let s := modCluster c (fun k => { k with temp := junction % 2 ^ 12, ceil := ceil }) s
        settleClocks (if ceil = k.ceil then s else logCeiling ceil s.fwc.ceilFrk 1 s)
    | .stack t =>
      match s.stks[t]? with
      | none => s
      | some k =>
        let dbl := if degC 90 ≤ dram then true else if dram ≤ degC 87 then false else k.dblRefresh
        let ceil := thermalCeil s junction k.ceil frkMin s.fwc.profFrk dbl
        let s := modStack t (fun k => { k with
          tempBase := junction % 2 ^ 12, tempDram := dram % 2 ^ 12, dblRefresh := dbl, ceil := ceil }) s
        settleClocks (if ceil = k.ceil then s else logCeiling s.fwc.ceilClu ceil 1 s)

/-- JUNCTION_HOT: a unit goes to its minimum clock. -/
def junctionTrips (u : ThermalUnit) (t : Nat) (s : State) : State :=
  if t < degC 110 ∨ !s.pins.powered then s
  else
    match u with
    | .cluster c =>
      match s.clusters[c]? with
      | none => s
      | some k => if k.hot then s else settleClocks (setFlag 2 (some c) (modCluster c (fun k => { k with hot := true, temp := t % 2 ^ 12 }) s))
    | .stack n =>
      match s.stks[n]? with
      | none => s
      | some k => if k.hot then s else settleClocks (setFlag 2 (some n) (modStack n (fun k => { k with hot := true, tempBase := t % 2 ^ 12 }) s))

/-- DRAM_HOT. -/
def dramTrips (n t : Nat) (s : State) : State :=
  if t < degC 95 ∨ !s.pins.powered then s
  else
    match s.stks[n]? with
    | none => s
    | some k =>
      if k.dramHot then s else settleClocks (setFlag 3 (some n) (modStack n (fun k => { k with dramHot := true, tempDram := t % 2 ^ 12 }) s))

/-- JUNCTION_HOT or DRAM_HOT of a unit ends; the flag clears with the last unit. -/
def flagEnds (u : ThermalUnit) (bit t : Nat) (s : State) : State :=
  let s :=
    match u with
    | .cluster c => if bit = 2 ∧ t ≤ degC 105 then modCluster c (fun k => { k with hot := false, temp := t % 2 ^ 12 }) s else s
    | .stack n =>
      if bit = 2 ∧ t ≤ degC 105 then modStack n (fun k => { k with hot := false, tempBase := t % 2 ^ 12 }) s
      else if bit = 3 ∧ t ≤ degC 92 then modStack n (fun k => { k with dramHot := false, tempDram := t % 2 ^ 12 }) s
      else s
  let hot := s.clusters.any (·.hot) || s.stks.any (·.hot)
  let s := if bit = 2 ∧ !hot then clearFlag 2 s else s
  let s := if bit = 3 ∧ !(s.stks.any (·.dramHot)) then clearFlag 3 s else s
  settleClocks s

/-! ### Power states (16 R470 to R474) -/

/-- R471. -/
def isIdle (s : State) : Bool :=
  s.requests.all (fun e => e.2.st == .waiting) && s.descs.isEmpty && s.streams.ctx.isEmpty && s.fab.xfers.isEmpty &&
    s.binds.all (fun e => !inStep e.2.st) && s.roods.all fun k => k.mdl.outstanding.isEmpty && k.trn.outstanding.isEmpty

/-- Back to P0, or P1 where a ceiling holds. -/
def toP0 (cause : Nat) (s : State) : State := settleState (changePstate 0 cause (modFwc (fun f => { f with waking := false, idleSince := none }) s))

/-- Whether the module has been idle for n ticks. -/
def idleFor (s : State) (n : Nat) : Bool :=
  s.boot.ready && isIdle s && (match s.fwc.idleSince with | some t => t + n ≤ s.time.now | none => false)

/-- FLOOR_DELAY (R471). -/
def floorExpires (s : State) : State :=
  if s.fwc.pstate ≤ 1 && 2 ≤ s.fwc.floor && idleFor s (s.fwc.floorDelay * usTicks) then changePstate 2 1 s else s

/-- WARM_DELAY (R471). -/
def warmExpires (s : State) : State :=
  if s.fwc.pstate ≤ 2 && s.fwc.floor == 3 && idleFor s (s.fwc.warmDelay * msTicks) then changePstate 3 1 s else s

/-- WAKE (R472): cause 2, 4 for a debug access. -/
def wakeUp (cause : WakeCause) (s : State) : State :=
  if s.fwc.pstate = 2 ∨ s.fwc.pstate = 3 then toP0 (if cause = .debug then 4 else 2) s else s

/-- The module is on the succession list. -/
def onList (s : State) : Bool := s.time.succession.contains s.fab.pos

/-- A P-state request takes its final status. -/
def reqDone (st : Nat) : State → State := modFwc fun f => { f with reqStatus := st }

/-- Entry to P4 (R473; 13 Table 13.14). -/
def enterP4 (s : State) : State :=
  let s := if s.sec.debug = 2 then leaveD2 1 s else s
  let keep := ((List.range 63).filter (linkUp s)).take 2
  let others := (List.range s.links.length).filter fun l => linkUp s l && !keep.contains l
  let s := modFab (fun f => { f with p4Out := f.p4Out ++ others }) s
  let s := forAll others (fun l s => linkDrops causeAbsent l (sendControlFlit l 3 (match s.links[l]? with | some k => lastIntact k | none => 0) s)) s
  let s := forAll (List.range 4) ifDown s
  reqDone Sts.ok (changePstate 4 0 s)

/-- A request waits, DEFERRED, behind those that wait or run and for the end of a hand-off (R474; 00 R18). -/
def reqHeld (s : State) : Bool := inHandoff s || s.fwc.waking || !s.fwc.reqWaiting.isEmpty
def holdReq (c : Nat) (s : State) : State := reqDone Sts.deferred (modFwc (fun f => { f with reqWaiting := f.reqWaiting ++ [c] }) s)

/-- REQ = P4 runs. -/
def runP4 (s : State) : State :=
  if s.fwc.pstate = 4 ∧ !s.boot.safeMode then reqDone Sts.ok s
  else if onList s ∨ s.boot.safeMode then reqDone Sts.pstateRefused s
  else if !isIdle s then reqDone Sts.pstateBusy s
  else enterP4 s

/-- REQ = P4. -/
def requestP4 (s : State) : State :=
  let s := modFwc (fun f => { f with reqCmd := 4 }) s
  if reqHeld s then holdReq 4 s else runP4 s

/-- Every enabled port is UP: P4 is left (R473). -/
def wakeCompletes (s : State) : State :=
  let up := (List.range 4).all fun i => !ifExists s i || (match s.eth.ifs[i]? with | some k => k.st == 1 | none => false)
  if s.fwc.waking && s.fwc.pstate == 4 && up then reqDone Sts.ok (toP0 0 s) else s

/-- A link found at a start has trained. -/
def foundAs (f : LinkFound) : TrainResult := ⟨none, f.sysid, f.peerPos, f.peerLink, f.delay, 0⟩

/-- REQ = P0 runs: out of P4 every cluster is scrubbed, the links retrain and the ports come up. -/
def runP0 (ifsUp : List Nat) (links : List LinkFound) (s : State) : State :=
  if s.boot.safeMode then s
  else if s.fwc.pstate < 2 then reqDone Sts.ok s
  else if s.fwc.pstate < 4 then reqDone Sts.ok (toP0 0 s)
  else
    let s := reqDone Sts.deferred (modFwc (fun f => { f with waking := true }) s)
    let s := forAll (List.range 16) scrubCluster s
    let s := forAll links (fun f s =>
      match s.links[f.link]? with
      | some k => if k.st = .down ∧ peerPresent s f.link then trainLink f.link (foundAs f) s else s
      | none => s) s
    wakeCompletes (forAll ifsUp ifUp s)

/-- REQ = P0; while the module leaves P4 it brings what has come up since. -/
def requestP0 (ifsUp : List Nat) (links : List LinkFound) (s : State) : State :=
  let s := modFwc (fun f => { f with reqCmd := 0 }) s
  if reqHeld s && !(s.fwc.waking && !inHandoff s) then holdReq 0 s else runP0 ifsUp links s

/-- The oldest request that waits runs once nothing holds it back (R474; 00 R18). -/
def reqNext (s : State) : State :=
  if inHandoff s || s.fwc.waking then s
  else
    match s.fwc.reqWaiting with
    | [] => s
    | c :: rest =>
      let s := modFwc (fun f => { f with reqWaiting := rest }) s
      if c = 4 then runP4 s else runP0 [] [] s

/-- LEAVE_P3_FOR_STEP_START: a step is due within the longest exit to P0 of 2 ms (R472, Table 16.3). -/
def leaveForStep (b : Nat) (s : State) : State :=
  match bindOf s b with
  | none => s
  | some k =>
    match k.nextStart with
    | some f =>
      if (s.fwc.pstate = 2 ∨ s.fwc.pstate = 3) ∧ k.st = .idle ∧ f * 40 * rodLen s ≤ s.time.now + 2 * msTicks then toP0 2 s else s
    | none => s

/-- A write of FWC_PWR_CAP: out-of-range fields are left as they are (R465). -/
def writeCap (v : Word) (s : State) : State :=
  let cap := bits v.toNat 0 16
  let pol := bits v.toNat 16 2
  let old := s.fwc.capNext.getD (s.fwc.cap, s.fwc.policy)
  modFwc (fun f => { f with
    capNext := some (if 500 ≤ cap ∧ cap ≤ 1350 then cap else old.1, if pol < 3 then pol else old.2) }) s

/-! ### Hand-off commands (16 R476 to R479) -/

/-- The status of a slot's check (15 R443, R458). -/
def slotCheck (s : State) (v : SlotView) : Nat :=
  if !v.formOk then Sts.imageInvalid else if !v.sigOk then Sts.signatureInvalid else if v.svn < s.sec.svnMin then Sts.rollback else Sts.ok

/-- The slot that the update takes. -/
def updateSlot (s : State) : Nat := (stagedSlot s).getD 0

/-- Slots whose versions and digests were verified. -/
def noteSlot (i : Nat) (v : SlotView) (s : State) : State :=
  modBoot (fun b =>
    if i = 0 then { b with svnA := v.svn % 2 ^ 32, digestA := v.digest % 2 ^ 384 }
    else { b with svnB := v.svn % 2 ^ 32, digestB := v.digest % 2 ^ 384 }) s

/-- An ACTIVATE that ends at once. -/
def refuseActivate (st : Nat) (s : State) : State :=
  let s := modFwc (fun f => { f with update := { f.update with status := st, lastStatus := if f.update.st = .idle then st else f.update.lastStatus } }) s
  raiseFwc 6 (logEv Blk.fw 0x0B noRood st s)

/-- ACTIVATE: the staged slot is checked. -/
def activateUpdate (v : SlotView) (s : State) : State :=
  let s := modFwc (fun f => { f with update := { f.update with cmd := 1 } }) s
  if !s.boot.ready then s
  else if s.fwc.update.st ≠ .idle then refuseActivate Sts.handoffBusy s
  else if s.fwc.spare ≠ .ready then refuseActivate Sts.handoffUnavailable s
  else if (stagedSlot s).isNone then refuseActivate Sts.noStagedImage s
  else
    let s := modFwc (fun f => { f with update := { f.update with
      st := .verifying, start := s.time.now, status := Sts.deferred, svn := v.svn % 2 ^ 32, digest := v.digest % 2 ^ 384 } }) s
    let st := slotCheck s v
    if st ≠ Sts.ok then endUpdate st s
    else
      let s := noteSlot (updateSlot s) v s
      if held s then deferUpdate s else s

/-- CANCEL before B; an ACTIVATE written and not yet begun is outstanding too (00 R18). -/
def cancelUpdate (s : State) : State :=
  let s := modFwc (fun f => { f with update := { f.update with cmd := 2 } }) s
  match s.fwc.update.st with
  | .verifying | .deferred | .booting => endUpdate Sts.squashed s
  | .idle => if s.fwc.update.status = Sts.deferred then refuseActivate Sts.squashed s else s
  | .takeover | .confirming | .commit => s

/-- BOOTING: once nothing holds it, the spare core starts the new image. -/
def bootImage (compatible : Bool) (s : State) : State :=
  if s.fwc.update.st ≠ .verifying ∧ s.fwc.update.st ≠ .deferred then s
  else if held s then (if s.fwc.update.st = .verifying then deferUpdate s else s)
  else if s.fwc.spare ≠ .ready then endUpdate Sts.handoffUnavailable s
  else
    let s := modFwc (fun f => { f with spare := .handoff, update := { f.update with st := .booting } }) s
    if compatible then s else endUpdate Sts.stateIncompatible s

/-- TAKEOVER: boundary B. -/
def takeoverUpdate (s : State) : State :=
  if s.fwc.update.st ≠ .booting then s
  else
    let slot := updateSlot s
    let s := modFwc (fun f => { f with
      runSvn := f.update.svn, runDigest := f.update.digest
      update := { f.update with st := .takeover, boundary := s.time.now, old := (s.boot.slot, f.runSvn, f.runDigest) } }) s
    modBoot (fun b => { b with slot := slot }) s

/-- The first iteration of the new power loop is complete, 100 µs after B. -/
def takeoverEnds (s : State) : State :=
  if s.fwc.update.st = .takeover ∧ s.fwc.update.boundary + 100 * usTicks ≤ s.time.now then
    modFwc (fun f => { f with update := { f.update with st := .confirming } }) s
  else s

/-- SLOT_STATE for a header commit: slots due for it are marked REJECTED, but for those that the commit verifies. -/
def committedStates (s : State) (states : Nat) (verified : List Nat) : Nat :=
  let marked (i : Nat) : Bool := s.boot.toReject.contains i && !verified.contains i
  let st (i : Nat) : Nat := if marked i then 2 else bits states (2 * i) 2
  st 0 + 4 * st 1

/-- CONFIRMING: the new image passes; the header names it ACTIVE and stages none (Table 16.6, COMMIT). -/
def confirmUpdate (s : State) : State :=
  if s.fwc.update.st ≠ .takeover ∧ s.fwc.update.st ≠ .confirming then s
  else
    let slot := s.boot.slot
    let s := commitSlots slot 0xFF (committedStates s (withSlotState s slot 1) [slot]) s
    endUpdate Sts.ok (modBoot (fun b => { b with toReject := [], slotAlt := false }) s)

/-- HANDOFF_ROLLED_BACK (R478). -/
def rollBack (s : State) : State :=
  if s.fwc.update.st ≠ .takeover ∧ s.fwc.update.st ≠ .confirming then s
  else
    let bad := s.boot.slot
    let o := s.fwc.update.old
    let s := modBoot (fun b => { b with slot := o.1, toReject := b.toReject.filter (· != bad) ++ [bad] }) s
    endUpdate Sts.handoffRolledBack (modFwc (fun f => { f with runSvn := o.2.1, runDigest := o.2.2 }) s)

/-! ### FATAL (14 R422) -/

/-- The module becomes FATAL. -/
def goFatal (cause : Nat) (s : State) : State :=
  if s.glb.fatal then s
  else
    let s := forAll (roodsWith s fun _ k => k.st == .active) (fun r => beginReset r false) s
    let s := forAll (List.range s.links.length) (linkDrops causeLocal) s
    let s := { s with links := s.links.map fun k =>
      if k.st = .failed ∨ k.st = .miswired then k else { emptied k with st := .down, retryAt := none } }
    let s := raiseGlb 8 (modGlb (fun g => { g with fatal := true }) s)
    logGlb 0x61 noRood (cause % 256) s

/-! ### Firmware cores (14 R419; 16 R479) -/

/-- A core failure ends the update with HANDOFF_ABORTED, which frees the spare for R419 (01 R24, 16 R479).
    DESIGN CHOICE (log 55): from B on the cores restart in the old image, and its slot is not marked REJECTED. -/
def abortUpdate (s : State) : State :=
  let o := s.fwc.update.old
  match s.fwc.update.st with
  | .idle => s
  | .verifying | .deferred | .booting => endUpdate Sts.handoffAborted s
  | .takeover | .confirming | .commit =>
    endUpdate Sts.handoffAborted (modFwc (fun f => { f with runSvn := o.2.1, runDigest := o.2.2 }) (modBoot (fun b => { b with slot := o.1 }) s))

/-- Logical core k is declared failed. -/
def fwCoreFails (k : Nat) (s : State) : State :=
  match s.fwc.cores[k]? with
  | none => s
  | some c =>
    let s := abortUpdate s
    let s := modFwc (fun f => { f with cores := f.cores.modify k fun c => { c with failed := true, misses := 0 } }) s
    let s := raiseFwc 1 (logEv Blk.fw 0x06 noRood (packLe [(k, 1), (c.phys, 1)]) s)
    let s := mapChange 4 2 0x03 0 k c.phys s
    match s.fwc.spare with
    | .ready | .handoff => mapChange 4 1 0 0 k s.fwc.sparePhys (modFwc (fun f => { f with spare := .inUse }) s)
    | .inUse | .failed => goFatal 0x03 s

/-- HEARTBEAT_CHECK: two missed heartbeats in a row declare a core failed. -/
def heartbeat (missed : List Nat) (s : State) : State :=
  if !s.pins.standby ∨ (s.boot.step < 2 ∧ !s.boot.ready) then s
  else
    forAll (List.range 6) (fun k s =>
      match s.fwc.cores[k]? with
      | none => s
      | some c =>
        if c.failed then s
        else if !missed.contains k then modFwc (fun f => { f with cores := f.cores.modify k fun c => { c with misses := 0 } }) s
        else if 1 ≤ c.misses then fwCoreFails k s
        else modFwc (fun f => { f with cores := f.cores.modify k fun c => { c with misses := c.misses + 1 } }) s) s

/-- CORE_SPARE_IN: the spare takes the failed core's number and state block. -/
def coreSpareTakes (k : Nat) (s : State) : State :=
  match s.fwc.cores[k]? with
  | none => s
  | some c =>
    if !c.failed ∨ s.fwc.spare ≠ .inUse ∨ s.fwc.cores.any (·.phys == s.fwc.sparePhys) ∨ s.glb.fatal then s
    else
      let p := s.fwc.sparePhys
      logEv Blk.fw 0x07 noRood (packLe [(k, 1), (p, 1)])
        (modFwc (fun f => { f with cores := f.cores.modify k fun _ => { phys := p } }) s)

/-! ### Pins and buses (16 R468; 18 R513 to R516) -/

/-- Firmware runs: step 2 has passed. -/
def firmwareUp (s : State) : Bool := s.pins.standby && !s.boot.romService && (s.boot.ready || s.boot.safeMode || 2 < s.boot.step)

/-- The TAP instruction in force: 0 BYPASS, 1 IDCODE, others every further instruction (R516; log 17). -/
def jtagInForce (s : State) : Nat :=
  match s.sec.debug with
  | 0 => 0
  | 1 | 2 => if s.pins.jtagIr = 1 then 1 else 0
  | _ => s.pins.jtagIr

/-- IDCODE (R516). -/
def idcode (s : State) : Nat := (0x0D2C2F6B % 2 ^ 28) + 2 ^ 28 * (s.sec.stepping % 16)

/-- 1PPS out rises at each whole TAI second (10 R301; R514). -/
def ppsRises (s : State) : State :=
  if s.boot.ready && s.time.lock != .acquiring && s.fwc.pstate < 4 && !s.boot.safeMode && s.time.now % 4000000000 == 0 then
    modTime (fun t => { t with ppsOut := t.now }) s
  else s

/-! ### Meanings -/

/-- POWER_LOOP_PERIOD (16 R463). -/
def execPowerLoopPeriod (p : PowerReading) (s : State) : Answer := .next (powerPeriod p s)
/-- FAST_LIMITER (16 R464). -/
def execFastLimiter (avg : Nat) (s : State) : Answer := .next (fastLimit avg s)
/-- THERMAL_LOOP_PERIOD (16 R466). -/
def execThermalLoopPeriod (u : ThermalUnit) (junction dram : Nat) (s : State) : Answer := .next (thermalPeriod u junction dram s)
/-- JUNCTION_HOT (16 R468). -/
def execJunctionHot (u : ThermalUnit) (t : Nat) (s : State) : Answer := .next (junctionTrips u t s)
/-- DRAM_HOT (16 R468). -/
def execDramHot (n t : Nat) (s : State) : Answer := .next (dramTrips n t s)
/-- FLAG_CLEARED (16 R468). -/
def execFlagCleared (u : ThermalUnit) (bit t : Nat) (s : State) : Answer := .next (flagEnds u bit t s)
/-- INPUT_LOW: below 36 V for 100 µs (16 R468). -/
def execInputLow (s : State) : Answer :=
  .next (if s.pins.powered && !s.fwc.flags.testBit 4 then settleClocks (setFlag 4 none s) else s)
/-- INPUT_LOW_CLEAR: at or above 36.5 V for 10 ms (16 R468). -/
def execInputLowClear (s : State) : Answer := .next (settleClocks (clearFlag 4 s))
/-- FWC_PWR_CAP (16 R465). -/
def execFwcPwrCap (v : Word) (s : State) : Answer := .next (writeCap v s)
/-- REQ_P4 (16 R473). -/
def execReqP4 (s : State) : Answer := .next (requestP4 s)
/-- REQ_P0 (16 R473). -/
def execReqP0 (ifsUp : List Nat) (links : List LinkFound) (s : State) : Answer := .next (requestP0 ifsUp links s)
/-- FLOOR_DELAY (16 R471). -/
def execFloorDelay (s : State) : Answer := .next (floorExpires s)
/-- WARM_DELAY (16 R471). -/
def execWarmDelay (s : State) : Answer := .next (warmExpires s)
/-- WAKE (16 R472). -/
def execWake (cause : WakeCause) (s : State) : Answer := .next (wakeUp cause s)
/-- LEAVE_P3_FOR_STEP_START (16 R472). -/
def execLeaveP3ForStepStart (b : Nat) (s : State) : Answer := .next (leaveForStep b s)
/-- ACTIVATE (16 R476). -/
def execActivate (v : SlotView) (s : State) : Answer := .next (activateUpdate v s)
/-- CANCEL (16 R479). -/
def execCancel (s : State) : Answer := .next (cancelUpdate s)
/-- BOOTING (16 R476). -/
def execBooting (compatible : Bool) (s : State) : Answer := .next (bootImage compatible s)
/-- TAKEOVER (16 R476). -/
def execTakeover (s : State) : Answer := .next (takeoverUpdate s)
/-- CONFIRMING (16 R476). -/
def execConfirming (s : State) : Answer := .next (confirmUpdate s)
/-- HANDOFF_ROLLED_BACK (16 R478). -/
def execHandoffRolledBack (s : State) : Answer := .next (rollBack s)
/-- HEARTBEAT_CHECK (14 R419). -/
def execHeartbeatCheck (missed : List Nat) (s : State) : Answer := .next (heartbeat missed s)
/-- CORE_SPARE_IN (14 R419). -/
def execCoreSpareIn (k : Nat) (s : State) : Answer := .next (coreSpareTakes k s)
/-- FATAL (14 R422). -/
def execFatal (cause : Nat) (s : State) : Answer := .next (if s.pins.standby then goFatal cause s else s)
/-- REFCLK_LOSS: after step 0 the module becomes FATAL (18 R513); no cause code names it, so the byte is a free value. -/
def execRefclkLoss (s : State) : Answer :=
  .next (let s := modPins (fun p => { p with refclk := false }) s
    if s.boot.ready || 0 < s.boot.step then
      let (v, s) := fresh 8 s
      goFatal v s
    else s)
/-- PPS_IN_EDGE: an edge whose high time is at least 100 ns is stamped (18 R514; 10 R301). -/
def execPpsInEdge (high : Nat) (s : State) : Answer :=
  .next (if 100 ≤ high then modTime (fun t => { t with ppsIn := t.now, ppsCount := satInc 64 t.ppsCount }) s else s)
/-- PPS_OUT_EDGE (18 R514; 10 R301). -/
def execPpsOutEdge (s : State) : Answer := .next (ppsRises s)
/-- CLEAR_FAULTS: the SMBus interface's own status bytes clear, no FWC bit (18 R515). -/
def execClearFaults (s : State) : Answer :=
  .next (if firmwareUp s then modPins (fun p => { p with smbStatus := 0 }) s else s)
/-- JTAG_INSTRUCTION: the instruction is scanned in; jtagInForce gives what acts (18 R516). -/
def execJtagInstruction (ir : Nat) (s : State) : Answer := .next (modPins (fun p => { p with jtagIr := ir }) s)

end Sys2Proof.Machine
end

