-- ==== Sys2Proof/Machine/Boot.lean ====
section
/-! DEFINITION. Start-up: configuration items, boot steps, the ledger, remedies, safe mode, resets and the image commands (15 R438
to R460; 18 R506 to R509). -/
namespace Sys2Proof.Machine

/-! ### Events and the ledger (15 R451, R460) -/

/-- Boot event. -/
def logBoot (low payload : Nat) : State → State := logEv Blk.boot low noRood payload

abbrev ledgerSize : Nat := 8192

/-- Write a ledger entry (Table 15.6): the ring goes on from the newest. -/
def ledgerAdd (e : LedgerEntry) (s : State) : State :=
  modBoot (fun b =>
    let i := if b.valid = 0 then 0 else (b.newest + 1) % ledgerSize
    { b with ledger := tset i e b.ledger, newest := i, valid := min ledgerSize (b.valid + 1) }) s

/-- FLAGS of an entry: STAMP is TAI, slot B runs, reduced clocks. -/
def ledgerFlags (s : State) : Nat :=
  (if s.time.lock = .acquiring then 0 else 1) + (if s.boot.slot = 1 then 2 else 0) + if s.boot.reduced then 4 else 0

/-- An entry stamped now. -/
def ledgerNote (kind step cause detail : Nat) (s : State) : State :=
  ledgerAdd ⟨s.time.now, s.boot.attempt, kind, step, ledgerFlags s, cause, detail⟩ s

/-- The 32 bytes of an entry, its CRC computed. -/
def ledgerBytes (e : LedgerEntry) : List Byte :=
  let bs := leBytes 8 e.stamp ++ leBytes 4 e.attempt ++ leBytes 1 e.kind ++ leBytes 1 e.step ++ leBytes 1 e.flags ++ leBytes 1 0 ++
    leBytes 2 e.cause ++ leBytes 2 0 ++ leBytes 8 e.detail
  bs ++ leBytes 4 (crc32c bs)

/-- BOOT_LEDGER_SEL: the selected entry goes to BOOT_LEDGER_DATA; an entry not written reads as zero. -/
def selectLedger (v : Word) (s : State) : State :=
  let i := bits v.toNat 0 13
  let bs := match tfind i s.boot.ledger with | some e => ledgerBytes e | none => List.replicate 32 0
  modBoot (fun b => { b with ledgerSel := i, ledgerData := (List.range 4).map fun w => w64 (field bs (8 * w) 8) }) s

/-! ### Configuration items (15 R441, Tables 15.4, 16.5) -/

/-- Whether an item of this length and value is in its range; none for an identifier that is not known. -/
def itemOk (groups id : Nat) (v : List Byte) : Option Bool :=
  let n := leNat v
  let num (len lo hi : Nat) : Option Bool := some (v.length == len && lo ≤ n && n ≤ hi)
  if id = 0x00010001 then num 1 0 4
  else if id = 0x00010002 then some (v.length == 4)
  else if id = 0x00010003 then num 2 0 4095
  else if id = 0x00010004 then num 1 1 64
  else if id = 0x00010005 then some (v.length == 8 * groups)
  else if id = 0x00010006 then
    some (v.length == 13 && field v 12 1 < 8 &&
      (List.range 8).all fun q => q ≤ field v 12 1 || bits (field v 0 12) (12 * q) 12 == 0)
  else if id = 0x00010007 then num 1 0 127
  else if id = 0x00010008 then num 1 0 3
  else if id = 0x00010009 then num 2 1 300
  else if id = 0x00020001 ∨ id = 0x00020002 then some (v.length == 8)
  else if 0x00020010 ≤ id ∧ id ≤ 0x00020013 then some (v.length == 8 && field v 4 1 ≤ 32)
  else if (0x00020020 ≤ id ∧ id ≤ 0x00020023) ∨ id = 0x00020030 then some (v.length == 17 && field v 16 1 ≤ 128)
  else if id = 0x00020031 then num 2 1024 65535
  else if id = 0x00020032 ∨ id = 0x00020033 then some (v.length == 8)
  else if 0x00030001 ≤ id ∧ id ≤ 0x00030009 then some (v.length == 8)
  else if id = 0x00030010 then num 8 1000 1000000
  else if id = 0x00030011 then num 8 10000 1000000
  else if id = 0x00030012 then num 8 10 10000
  else if id = 0x00040001 then num 1 0 1
  else if id = 0x00040002 then num 2 10 10000
  else if id = 0x00050001 then num 2 500 1350
  else if id = 0x00050002 then some (v.length == 1 && (n == 0 || n == 2 || n == 3))
  else if id = 0x00050003 then num 4 100 1000000
  else if id = 0x00050004 then num 4 10 3600000
  else if id = 0x00050005 then num 1 0 2
  else if id = 0x00050006 then num 1 85 105
  else if id = 0x00050007 then some (v.length == 2 && 100 ≤ n && n ≤ 800 && n % 100 == 0)
  else none

/-- GROUPS as it resolves. -/
def groupsOf (items : List (Nat × List Byte)) : Nat :=
  match items.find? fun i => i.1 == 0x00010004 with
  | some i => if itemOk 1 i.1 i.2 = some true then leNat i.2 else 1
  | none => 1

/-- Resolve the items of the user sections: those in range are in force, the others are logged. -/
def resolveItems (s : State) : State :=
  let (items, bad) := userItems s
  let groups := groupsOf items
  let s := modBoot (fun b => { b with items := [], defaulted := 0 }) s
  let s := forAll bad (fun e s =>
    logBoot 0x04 (packLe [(e.2, 2)]) (modBoot (fun b => { b with defaulted := setBit b.defaulted e.1 }) s)) s
  forAll items (fun i s =>
    match itemOk groups i.1 i.2 with
    | some true => if (tfind i.1 s.boot.items).isSome then s else modBoot (fun b => { b with items := tset i.1 i.2 b.items }) s
    | some false => logBoot 0x05 i.1 s
    | none => logBoot 0x06 i.1 s) s

/-- The bytes of an item, or none. -/
def itemBytes (s : State) (id : Nat) : Option (List Byte) := tfind id s.boot.items

/-- Succession list: positions. -/
def itemSuccession (s : State) : List Nat :=
  match itemBytes s 0x00010006 with
  | some v => (List.range (field v 12 1 + 1)).map fun q => bits (field v 0 12) (12 * q) 12
  | none => [itemNat s 0x00010003 0]

/-! ### What a reset keeps (15 R455; 17 R485, R486) -/

/-- Whether a cause starts cold (Table 15.7). -/
def coldCause (cause : Nat) : Bool := cause == 1 || cause == 2

/-- The flash after a reset: contents, nonvolatile counts, dies, namespaces. -/
def flashKept (f : Flash) : Flash :=
  { mode := if f.mode = 1 then 1 else 0, spareInUse := f.spareInUse, spareFailed := f.spareFailed, spareDie := f.spareDie
    hostWritten := f.hostWritten, nandWritten := f.nandWritten, overProv := f.overProv
    ns := f.ns, slots := f.slots, lost := f.lost, reads := f.reads }

/-- Boot state after a reset: what the NOR holds (15 R438, R447 to R449), and what the hold of a reset needs. -/
def bootKept (b : Boot) (flashMap : List RepairEntry) : Boot :=
  { down := b.down, downAt := b.downAt, attempt := b.attempt, skip := b.skip, altered := b.altered, failCount := b.failCount
    lastFailed := b.lastFailed, ledger := b.ledger, newest := b.newest, valid := b.valid, nextCause := b.nextCause
    toReject := b.toReject, margin := b.margin, svnA := b.svnA, svnB := b.svnB, digestA := b.digestA, digestB := b.digestB
    flashMap := flashMap }

/-- Security state after a reset: fuses; a cold start takes new fuse states and ends D3. -/
def secKept (k : Sec) (cold : Bool) : Sec :=
  { state := if cold then k.fusedNext.getD k.state else k.state
    fusedNext := if cold then none else k.fusedNext
    debug := if !cold && k.debug == 3 then 3 else 0
    ownerHash := if cold && k.fusedNext == some 1 then k.ownerHashNext else k.ownerHash
    ownerHashNext := k.ownerHashNext, svnMin := k.svnMin, d3Logged := k.d3Logged, d3Left := k.d3Left, part := k.part
    stepping := k.stepping }

/-- The machine with every field at its reset value but for what is kept; packets already sent stay sent. -/
def cleared (cold : Bool) (s : State) : State :=
  let part (p : RepairEntry → Bool) : List RepairEntry := s.repair.filter p
  let flashMap := if s.flash.mode = 2 then s.boot.flashMap else part fun e => 7 ≤ e.kind
  { State.reset with
    nor := s.nor
    repair := part fun e => e.kind < 7
    repairSeq := s.repairSeq
    flash := flashKept s.flash
    sec := secKept s.sec cold
    boot := bootKept s.boot flashMap
    pins := { s.pins with powered := false, pwrGood := false, smbStatus := 0 }
    fwc := { energy := if cold then 0 else s.fwc.energy }
    fab := { out := s.fab.out, replayOut := s.fab.replayOut, syncOut := s.fab.syncOut, p4Out := s.fab.p4Out, flitOut := s.fab.flitOut, fills := s.fab.fills }
    eth := { out := s.eth.out, replies := s.eth.replies }
    freeCtr := s.freeCtr
    pending := s.pending }

/-! ### Orderly resets (15 R456) -/

/-- A rod master owes the system its last rod sync, which goes out in the first tick of a furlong like every other (10 R317; 11 R352; log
77). -/
def owesSync (s : State) : Bool := timeOn s && s.time.master && fabricOn s

/-- Steps 1 to 5 and 8 of Table 13.5 for every rood. -/
def stopRoods (s : State) : State :=
  forAll (roodsWith s fun _ k => k.st == .active || k.st == .resetting) (fun r => stopRood r false) s

/-! ### Safe mode (15 R449, R450) -/

/-- Enter safe mode for a step: P4, no port, link or rood; the start-up lock is set (17 R487). -/
def enterSafe (n : Nat) (s : State) : State :=
  let s := modBoot (fun b => { b with safeMode := true, romService := n ≤ 2, step := n }) s
  let s := changePstate 4 3 s
  let s := forAll (List.range s.links.length) (linkDrops causeLocal) s
  let s := { s with links := s.links.map fun k => { emptied k with st := .down }, roods := List.replicate 16 {} }
  let s := modEth (fun e => { e with ifs := e.ifs.map fun k => { k with st := 0 } }) s
  let s := modGlb (fun g => { g with locked := true, lockRod := rodNum s }) s
  logBoot 0x07 n (ledgerNote 0x09 n 0 0 s)

/-! ### The repair map at start (14 R416; 17 Table 17.2) -/

/-- A spare that an entry puts to use or marks failed. -/
def spareFor (spare physical st : Nat) (now : SpareState) : SpareState :=
  if physical ≠ spare then now else if st = 0 then .ready else if st = 1 then .inUse else .failed

/-- One entry of the core part stands in. -/
def applyEntry (e : RepairEntry) (s : State) : State :=
  match e.kind with
  | 1 =>
    let s := { s with spareCluster := { s.spareCluster with st := spareFor s.spareCluster.phys e.physical e.st s.spareCluster.st } }
    if e.st = 1 then modCluster e.logical (fun k => { k with phys := e.physical }) s
    else if e.st = 3 then modCluster e.logical (fun k => { k with mode := .absent }) s
    else s
  | 2 =>
    let s := modStack e.unit (fun k => { k with spare := spareFor k.sparePhys e.physical e.st k.spare }) s
    if e.st = 1 then modEngine e.unit e.logical (fun k => { k with phys := e.physical }) s
    else if e.st = 3 then modEngine e.unit e.logical (fun k => { k with mode := .fallback }) s
    else s
  | 3 =>
    let s := { s with linkSpares := s.linkSpares.modify e.unit fun k => { k with st := spareFor k.phys e.physical e.st k.st } }
    if e.st = 1 then modLink e.logical (fun k => { emptied k with phys := e.physical, st := .down }) s
    else if e.st = 2 then
      modLink e.logical (fun k => { k with st := if e.physical % 13 = 12 then .failed else if k.phys = e.physical then .substituting else k.st }) s
    else if e.st = 3 then modLink e.logical (fun k => { k with st := .failed }) s
    else s
  | 4 =>
    modFwc (fun f => { f with
      spare := spareFor f.sparePhys e.physical e.st f.spare
      cores := if e.st = 1 then f.cores.modify e.logical (fun _ => { phys := e.physical }) else f.cores }) s
  | 5 =>
    modFwc (fun f => { f with
      phases := f.phases.modify e.physical fun k => { k with st := if e.st = 1 then 0 else if e.st = 0 then 1 else 2 }
      lostShares := if e.st = 3 then f.lostShares ++ [e.physical] else f.lostShares }) s
  | _ => s

/-- The stack part is applied when the flash is mounted: rows, blocks and pseudo-channels (07 Tables 7.20, 7.21). -/
def applyStackEntry (e : RepairEntry) (s : State) : State :=
  let t := e.unit % 8
  match e.kind with
  | 7 => modStack t (fun k => { k with rowsRepaired := k.rowsRepaired + 1 }) s
  | 8 => modStack t (fun k => { k with retired := k.retired + 1, reserveFree := k.reserveFree - 1, reserveLow := decide (k.reserveFree - 1 < 1024) }) s
  | 9 => modStack e.unit (fun k => { k with pchFailed := setBit k.pchFailed e.logical }) s
  | _ => s

/-! ### Boot steps (15 R444, Table 15.5) -/

/-- What step 1 finds: the slot to run, or none; slots that failed their check. -/
def chooseSlot (w : BootWorld) (s : State) : Option Nat × List Nat :=
  let view (i : Nat) : SlotView := if i = 0 then w.slotA else w.slotB
  let good (i : Nat) : Bool := slotCheck s (view i) == Sts.ok
  let a := activeSlot s
  let o := 1 - a
  let other := slotState s o == 1 && good o
  if s.boot.altered.testBit 2 && other then (some o, [])
  else if good a then (some a, [])
  else if other then (some o, [a])
  else (none, [])

/-- Whether a step is essential. -/
def essential (n : Nat) : Bool := n != 8 && n != 9 && n != 13

/-- MEMBERS names another member of the group. -/
def otherMembers (s : State) : Bool :=
  (List.range 64).any fun m => m != memberOf s.fab.pos && present s (64 * groupOf s.fab.pos + m)

/-- ACQUIRING ends: n consecutive offsets lie within 20 ns (10 Table 10.3). -/
def locksIn (n : Nat) (offsets : List Int) : Bool :=
  (List.range offsets.length).any fun i =>
    let run := (offsets.drop i).take n
    run.length == n && run.all fun o => o.natAbs ≤ 20

/-- Outcome of a step that fails: cause and DETAIL. -/
def stepFails (n : Nat) (w : BootWorld) (s : State) : Option (Nat × Nat) :=
  match w.fails.find? fun e => e.1 == n with
  | some e => some (e.2.1, e.2.2)
  | none =>
    match n with
    | 0 => if w.refclk then none else some (4, 0)
    | 1 => if (chooseSlot w s).1.isSome then none else some (2, 0)
    | 10 =>
      let on := (List.range 4).filter (ifExists s)
      if on.any w.ifsUp.contains then none else some (7, maskOf 4 fun i => on.contains i)
    | 11 =>
      match w.follow with
      | some f =>
        if f.2.2.2.2 ≠ itemNat s 0x00010001 1 then some (6, 0)
        else if s.links.any (·.st == .up) && locksIn 4 w.lockOffsets then none
        else some (1, 0)
      | none => if (itemSuccession s).contains s.fab.pos && locksIn 16 w.lockOffsets then none else some (1, 0)
    | _ => none

/-- Step 6: the clusters that fail their self-test take the spare or become ABSENT (R445). -/
def bootClusters (w : BootWorld) (s : State) : State :=
  let pass := w64 (2 ^ 48 + rodNum s)
  let s := { s with
    clusters := s.clusters.map fun k => { k with selftest := pass }
    spareCluster := { s.spareCluster with selftest := pass } }
  forAll w.badClusters (fun e s =>
    if e.1 = s.spareCluster.phys ∧ s.spareCluster.st = .ready then
      doneOr s (execSpareSelftest none false e.2 s)
    else
      match (List.range 16).find? fun c => match s.clusters[c]? with | some k => k.phys == e.1 && k.mode == .active | none => false with
      | none => s
      | some c =>
        let s := modCluster c (fun k => { k with selftest := w64 (rodNum s + 2 ^ 56 * (e.2 % 256)) }) s
        let s := failCluster c 0x01 (logCluster c 0x09 0xFF e.2 s)
        match s.clusters[c]? with
        | some k =>
          if k.mode = .substituting then
            modCluster c (fun k => { k with phys := s.spareCluster.phys, mode := .active, selftest := pass })
              { s with spareCluster := { s.spareCluster with st := .inUse } }
          else s
        | none => s) s

/-- Step 7: the stacks train and are scrubbed; Firkin engines that fail take the spare or fall back. -/
def bootStacks (w : BootWorld) (s : State) : State :=
  let margin := if s.boot.altered.testBit 7 then s.boot.margin else 0
  let s := { s with
    mem := [], bushels := []
    stks := ((List.range s.stks.length).zip s.stks).map fun e => { e.2 with
      train := if margin.testBit e.1 then 3 else 1, fallback := itemNat s (0x00030002 + e.1) 0 } }
  forAll w.badEngines (fun e s =>
    match s.stks[e.1]? with
    | none => s
    | some k =>
      if e.2.1 = k.sparePhys ∧ k.spare = .ready then
        doneOr s (execSpareSelftest (some e.1) false e.2.2 s)
      else
        match (List.range 4).find? fun i => match k.engines[i]? with | some g => g.phys == e.2.1 && g.mode == .active | none => false with
        | none => s
        | some i =>
          let s := failEngine e.1 i 0x01 s
          modEngine e.1 i (fun g => if g.mode = .substituting then { g with phys := k.sparePhys, mode := .active } else g) s) s

/-- Step 9: the links train whose peers are present (11 R331). -/
def bootLinks (w : BootWorld) (s : State) : State :=
  forAll w.linksUp (fun f s =>
    match s.links[f.link]? with
    | some k => if k.st = .down ∧ peerPresent s f.link then trainLink f.link (foundAs f) s else s
    | none => s) s

/-- The fabric's identity and the transfer timeout from the items. -/
def bootFabric (s : State) : State :=
  let groups := itemNat s 0x00010004 1
  let members := match itemBytes s 0x00010005 with
    | some v => (List.range groups).map fun g => field v (8 * g) 8
    | none => [1]
  modFab (fun f => { f with
    pos := itemNat s 0x00010003 0, groups := groups, sysid := itemNat s 0x00010002 0, members := members
    timeout := itemNat s 0x00030012 50 }) s

/-- Ports, addresses and the attachment's settings from the items; interfaces come up (12 R361). -/
def bootEthernet (w : BootWorld) (s : State) : State :=
  let kl := itemNat s 0x00020032 0x30064
  let qr := itemNat s 0x00020033 0x0000000A03E80040
  let s := modEth (fun e => { e with
    ports := (List.range 2).map fun p => portFields (itemNat s (0x00020001 + p) 0x00000000000B0802)
    mgmtPort := itemNat s 0x00020031 4790
    interval := bits kl 0 16, missed := bits kl 16 8
    quarThreshold := bits qr 0 16, quarWindow := bits qr 16 16, quarDuration := bits qr 32 16
    ifs := ((List.range 4).zip e.ifs).map fun k => { k.2 with ipv4 := itemNat s (0x00020010 + k.1) 0, ipv6 := itemNat s (0x00020020 + k.1) 0 } }) s
  let s := modEth (fun e => { e with
    ifs := ((List.range 4).zip e.ifs).map fun k => { k.2 with st := if ifExists s k.1 then 0 else 2 } }) s
  let s := forAll w.ifsUp ifUp s
  modEth (fun e => { e with graceUntil := s.time.now + 10000 * msTicks }) s

/-- Step 11: the counter steps to system time (15 R452; 10 R312, R313). -/
def bootTime (w : BootWorld) (s : State) : State :=
  let list := match w.follow with | some f => f.2.2.2.1 | none => itemSuccession s
  let now := w.lockStamp / 4 * 4 % 2 ^ 64
  let s := modEth (fun e => { e with graceUntil := now + 10000 * msTicks }) s
  let s := modFwc (fun f => { f with quietSince := now }) s
  let s := modTime (fun t => { t with
    now := now, lastPtp := now, ptpInterval := ptpTicks w.ptpLog, offsetRel := now - w.lockRel, k := itemNat s 0x00010001 1, succession := list
    index := (list.idxOf? s.fab.pos).getD 255
    master := w.follow.isNone
    term := match w.follow with | some f => f.1 % 2 ^ 16 | none => 0
    masterIndex := match w.follow with | some f => f.2.1 | none => (list.idxOf? s.fab.pos).getD 255
    masterPos := match w.follow with | some f => f.2.2.1 | none => s.fab.pos }) s
  let s := modTime (fun t => { t with lastSync := some (furlongOf s), syncedFurlong := furlongOf s }) s
  ledgerNote 0x07 11 0 w.lockRel (lockAgain (if w.follow.isSome then 0 else 1) s)

/-- Step 13: self-tests of the spares. -/
def bootSpares (w : BootWorld) (s : State) : State :=
  let run (stack bad : Option Nat) (s : State) : State := doneOr s (execSpareSelftest stack bad.isNone (bad.getD 0) s)
  let s := run none w.badSpareCluster s
  let s := forAll (List.range 8) (fun t => run (some t) ((w.badSpareEngines.find? fun e => e.1 == t).map (·.2))) s
  if w.badSpareDie then modFlash (fun f => { f with spareFailed := true }) (mapChange 6 2 0x01 0 0 s.flash.spareDie s) else s

/-- Step 14: the fields that no earlier step has set, then the lock. -/
def bootLock (s : State) : State :=
  let core := itemNat s 0x00030001 0x1F
  let s := { s with clusters := s.clusters.map fun k => { k with coreEn := bits core 0 4, waitGate := core.testBit 4 } }
  let s := modStreams (fun k => { k with horizon := itemNat s 0x00030010 10000 }) s
  let s := modFlash (fun f => { f with rdDisturb := itemNat s 0x00030011 200000 }) s
  modGlb (fun g => { g with locked := true, lockRod := rodNum s }) s

/-- Step 4: regulators and the power loop, with the items of Table 16.5. -/
def bootPower (s : State) : State :=
  let s := modFwc (fun f => { f with
    cap := itemNat s 0x00050001 1350, floor := itemNat s 0x00050002 2, floorDelay := itemNat s 0x00050003 1000
    warmDelay := itemNat s 0x00050004 100, policy := itemNat s 0x00050005 0, throttle := itemNat s 0x00050006 105
    fastStep := itemNat s 0x00050007 400 }) s
  let s := modPins (fun p => { p with powered := true, pwrGood := true }) s
  if s.fwc.lostShares = [] then s else setFlag 5 s.fwc.lostShares.head? s

/-- Step 5: the clock profile (R442). -/
def bootClocks (s : State) : State :=
  let reduced := s.boot.altered.testBit 5 || itemNat s 0x00040001 0 == 1
  let clu := if reduced then 1800 else 2200
  let frk := if reduced then 1600 else 2000
  let s := modBoot (fun b => { b with reduced := reduced }) s
  let s := modFwc (fun f => { f with profClu := clu, profFrk := frk, ceilClu := clu, ceilFrk := frk }) s
  settleClocks { s with
    clusters := s.clusters.map fun k => { k with ceil := clu }
    stks := s.stks.map fun k => { k with ceil := frk } }

/-- Step 1: sections, items and the slot (R440, R441, R443). -/
def bootImageStep (w : BootWorld) (s : State) : State :=
  let (run, bad) := chooseSlot w s
  let slot := run.getD 0
  let v := if slot = 0 then w.slotA else w.slotB
  let alt := slot != activeSlot s
  let s := resolveItems (noteSlot 1 w.slotB (noteSlot 0 w.slotA s))
  let s := modBoot (fun b => { b with
    slot := slot, slotAlt := alt, toReject := b.toReject.filter (fun i => !bad.contains i) ++ bad
    retryDelay := itemNat s 0x00040002 100 }) s
  let s := modFwc (fun f => { f with runSvn := v.svn % 2 ^ 32, runDigest := v.digest % 2 ^ 384 }) s
  if alt then logBoot 0x03 slot s else s

/-- What a step that passes does (Table 15.5). -/
def stepActs (n : Nat) (w : BootWorld) (s : State) : State :=
  match n with
  | 1 => bootImageStep w s
  | 3 => forAll s.repair applyEntry s
  | 4 => bootPower s
  | 5 => bootClocks s
  | 6 => bootClusters w s
  | 7 => bootStacks w s
  | 8 => forAll s.boot.flashMap applyStackEntry { s with repair := s.repair ++ s.boot.flashMap }
  | 9 => bootLinks w s
  | 10 => bootEthernet w s
  | 11 => bootTime w s
  | 13 => bootSpares w s
  | 14 => bootLock s
  | 15 =>
    let s := modBoot (fun b => { b with ready := true }) s
    logBoot 0x08 s.boot.attempt (settleClocks s)
  | _ => s

/-- What a skipped step leaves (R448). -/
def stepSkipped (n : Nat) (s : State) : State := if n = 8 then modFlash (fun f => { f with mode := 2 }) s else s

/-- A step counts as failed: its entry, event and count. -/
def countFail (n cause detail : Nat) (s : State) : State :=
  let s := logBoot 0x01 (packLe [(n, 1), (cause, 2)]) (ledgerNote 0x04 n cause detail s)
  modBoot (fun b => { b with
    lastFailed := b.lastFailed.filter (· != n) ++ [n]
    margin := if n = 7 then detail % 256 else b.margin
    failCount := if essential n then tset n (min 3 (tgetD n 0 b.failCount + 1)) b.failCount else b.failCount }) s

/-- Step 11 meets rod syncs of another rod length: SYNC_MISMATCH with the sender that the attempt would follow (10 R302, R328). -/
def noteMismatch (n cause : Nat) (w : BootWorld) (s : State) : State :=
  match w.follow with
  | some f => if n = 11 ∧ cause = 6 then logTime 0x57 (packLe [(f.2.2.2.2, 1), (itemNat s 0x00010001 1, 1), (f.2.2.1, 2)]) s else s
  | none => s

/-- A step fails: safe mode at the third time, else a retry after RETRY_DELAY (R447, R449). -/
def stepFailed (n cause detail : Nat) (s : State) : State :=
  let s := countFail n cause detail s
  if essential n && 3 ≤ tgetD n 0 s.boot.failCount then enterSafe n s
  else modBoot (fun b => { b with retryAt := some (s.time.now + b.retryDelay * msTicks) }) s

/-- A step passes. -/
def stepPassed (n : Nat) (s : State) : State :=
  let alt := s.boot.altered.testBit n || (n == 1 && s.boot.slotAlt)
  let s := ledgerNote (if alt then 0x06 else 0x03) n 0 0 s
  modBoot (fun b => { b with failCount := tdel n b.failCount, lastFailed := b.lastFailed.filter (· != n) }) s

/-- The steps in order. The fabric's identity is in place before the links train. -/
def runSteps (w : BootWorld) : List Nat → State → State
  | [], s => ledgerNote 0x08 0xFF 0 0 s
  | n :: rest, s =>
    let s := modBoot (fun b => { b with step := n }) s
    let s := if n = 9 then bootFabric s else s
    if s.boot.skip.testBit n then
      runSteps w rest (stepSkipped n (logBoot 0x02 n (ledgerNote 0x05 n 0 0 s)))
    else
      let s := ledgerNote 0x02 n 0 0 s
      if w.cutAt = some n then s
      else
        match stepFails n w s with
        | some f => stepFailed n f.1 f.2 (noteMismatch n f.1 w s)
        | none =>
          let t := stepActs n w s
          if n = 9 ∧ otherMembers t ∧ !t.links.any (·.st == .up) then stepFailed n 3 0 t
          else runSteps w rest (stepPassed n t)

/-- The cause of the START entry of an attempt, if the ledger still holds it. -/
def startCause (s : State) (attempt : Nat) : Nat :=
  match s.boot.ledger.find? fun e => e.2.kind == 1 && e.2.attempt == attempt with
  | some e => e.2.cause
  | none => 0

/-- An attempt that was cut off counts its step as failed with cause INTERRUPTED (R447); the step, if its count is now 3. -/
def noteInterrupted (s : State) : Option Nat × State :=
  if s.boot.valid = 0 then (none, s)
  else
    match tfind s.boot.newest s.boot.ledger with
    | none => (none, s)
    | some e =>
      if e.kind ≠ 2 ∨ startCause s e.attempt ∈ [5, 8, 9] then (none, s)
      else
        let s := countFail e.step 5 0 s
        (if essential e.step && 3 ≤ tgetD e.step 0 s.boot.failCount then some e.step else none, s)

/-- Remedies of the steps whose last run failed (R448); a cold start clears them. -/
def applyRemedies (cold : Bool) (b : Boot) : Boot :=
  if cold then { b with skip := 0, altered := 0, margin := 0, lastFailed := [] }
  else
    let has (l : List Nat) : Nat := maskOf 16 fun n => l.contains n && b.lastFailed.contains n
    { b with skip := b.skip ||| has [8, 9, 13], altered := b.altered ||| has [2, 5, 7] }

/-- A start with a cause: the reset, then steps 0 to 15 (R444, R455). -/
def startModule (cause : Nat) (w : BootWorld) (s : State) : State :=
  let cold := coldCause cause
  let was := s.sec.state
  let s := cleared cold s
  let s := modPins (fun p => { p with standby := true, input := true, ovOff := false, refclk := w.refclk }) s
  let (stop, s) := noteInterrupted s
  let s := modBoot (fun b => applyRemedies cold { b with
    down := false, cause := cause, cold := cold, attempt := (b.attempt + 1) % 2 ^ 32, nextCause := 1 }) s
  let s := ledgerNote 0x01 0xFF cause 0 s
  let s := if s.sec.state = was then s else logSec 0x0A noRood (packLe [(was, 1), (s.sec.state, 1)]) s
  match stop with
  | some n => enterSafe n s
  | none => runSteps w (List.range 16) s

/-- SHUTDOWN in the ledger, then the start (15 R456). -/
def shutDown (cause : Nat) (w : BootWorld) (s : State) : State := startModule cause w (ledgerNote 0x0A 0xFF cause 0 s)

/-- An orderly reset: every rood stops; a rod master then sets RELINQUISH and stays until that rod sync has gone (15 R456; 10 R317). -/
def leaveOrderly (cause : Nat) (w : BootWorld) (s : State) : State :=
  let owes := owesSync s
  let s := stopRoods s
  if owes then modTime (fun t => { t with relinquish := true }) (modBoot (fun b => { b with leaving := some (cause, w) }) s)
  else shutDown cause w s

/-- The last rod sync has gone, or mastership with it: the reset takes place. -/
def leaveDue (s : State) : State :=
  match s.boot.leaving with
  | some (cause, w) => if owesSync s then s else shutDown cause w s
  | none => s

/-! ### Causes of resets (15 Table 15.7; 18 R506 to R509) -/

/-- Rank of a cause among equal stamps (18 R509). -/
def causeRank (c : Nat) : Nat := if c = 9 then 0 else if c = 8 then 1 else if c = 3 then 2 else if c = 7 then 3 else 4

/-- The module goes down with a cause: everything is at its reset value until a start. -/
def goDown (cause : Nat) (s : State) : State :=
  if s.boot.down then
    if s.boot.downAt = s.time.now ∧ s.boot.nextCause ≠ 1 ∧ causeRank cause < causeRank s.boot.nextCause then
      modBoot (fun b => { b with nextCause := cause }) s
    else s
  else
    let t := s.time.now
    modTime (fun k => { k with now := t })
      (cleared false (modBoot (fun b => { b with down := true, downAt := t, nextCause := cause }) s))

/-- Loss of the standby converter: the next start has cause POWER_ON (18 R506, R509). -/
def loseStandby (s : State) : State :=
  let s := goDown 1 s
  modBoot (fun b => { b with nextCause := 1 }) (modPins (fun p => { p with standby := false, input := false }) s)

/-! ### BOOT_CTL (15 R457, Table 15.12) -/

def ctlDone (cmd st : Nat) : State → State := modBoot fun b => { b with ctlCmd := cmd, ctlStatus := st }

/-- A MODULE or COLD command: it waits for a hand-off, and another outstanding one turns it away. -/
def resetCommand (cmd cause : Nat) (w : BootWorld) (s : State) : State :=
  if s.boot.down then s
  else if (s.boot.ctlBusy.isSome ∧ s.boot.ctlBusy ≠ some cmd) ∨ s.boot.leaving.isSome then ctlDone cmd Sts.roodBusy s
  else
    let waits := ctlDone cmd Sts.deferred (modBoot (fun b => { b with ctlBusy := some cmd }) s)
    if inHandoff s then waits else leaveOrderly cause w (if owesSync s then waits else s)

/-- CLEAR_REMEDIES (R448). -/
def clearRemedies (s : State) : State :=
  if s.boot.down then s
  else if s.boot.ctlBusy.isSome then ctlDone 3 Sts.roodBusy s
  else ctlDone 3 Sts.ok (modBoot (fun b => { b with skip := 0, altered := 0, margin := 0, lastFailed := [] }) s)

/-- RETRY_SAFE: only in safe mode; the start that follows is a BOOT_CTL reset (R457). -/
def retrySafe (w : BootWorld) (s : State) : State :=
  if s.boot.down then s
  else if s.boot.ctlBusy.isSome ∧ s.boot.ctlBusy ≠ some 4 then ctlDone 4 Sts.roodBusy s
  else if !s.boot.safeMode then ctlDone 4 Sts.notInSafeMode s
  else startModule 4 w s

/-! ### Image commands (15 R453, Tables 15.1, 15.13) -/

def imgDone (cmd st : Nat) : State → State := modBoot fun b => { b with imgCmd := cmd, imgStatus := st }

/-- Bytes of BOOT_IMG_BUF. -/
def imgBytes (s : State) : List Byte := (List.range 512).flatMap fun i => leBytes 8 (tgetD i 0 s.boot.buf).toNat

/-- Slot in which a NOR offset lies. -/
def slotAt (a : Nat) : Option Nat :=
  if 0x1000000 ≤ a ∧ a < 0x3000000 then some 0 else if 0x3000000 ≤ a ∧ a < 0x5000000 then some 1 else none

/-- A range that image commands may not write. -/
def norProtected (a : Nat) : Bool := a < 0x2000 || (0x400000 ≤ a && a < 0x460000) || 0x7000000 ≤ a

/-- WRITE_PAGE. -/
def writePage (page : Nat) (s : State) : State :=
  if s.boot.down then s
  else
    let a := 4096 * page
    let s := modBoot (fun b => { b with imgPage := page }) s
    let busy : Bool := match slotAt a with
      | some i => i == s.boot.slot || (s.fwc.update.st != .idle && stagedSlot s == some i)
      | none => false
    if norProtected a then imgDone 1 Sts.regionProtected s
    else if busy then imgDone 1 Sts.slotInUse s
    else imgDone 1 Sts.ok (norWr a (imgBytes s) s)

/-- The statuses of what a header names: directory entries and slots. -/
def headerFaults (a b : SlotView) (h : List Byte) (s : State) : List Nat :=
  let slots := [field h 16 1, field h 17 1]
  (if headerGood h && field h 16 1 < 2 then [] else [Sts.imageInvalid]) ++
    ((directory h).map fun e => match sectionCheck s e with | .inl st => st | .inr _ => Sts.ok) ++
    (if slots.contains 0 then [slotCheck s a] else []) ++ if slots.contains 1 then [slotCheck s b] else []

/-- COMMIT: the whole header is verified, then written by R439. -/
def commitImage (a b : SlotView) (s : State) : State :=
  if s.boot.down then s
  else
    let h := imgBytes s
    let st := (headerFaults a b h s).foldl statusMax Sts.ok
    if st ≠ Sts.ok then imgDone 2 st s
    else
      let named := [field h 16 1, field h 17 1]
      let s := if named.contains 0 then noteSlot 0 a s else s
      let s := if named.contains 1 then noteSlot 1 b s else s
      let states := committedStates s (field h 18 1) named
      let s := commitHeader (h.take 18 ++ leBytes 1 states ++ h.drop 19) s
      imgDone 2 Sts.ok (modBoot (fun b => { b with toReject := [] }) s)

/-! ### Meanings -/

/-- POWER_ON: input passes the turn-on threshold (18 R507); with the reset pin low the start waits for its release. -/
def execPowerOn (w : BootWorld) (s : State) : Answer :=
  .next (if !s.boot.down then s
    else if s.pins.resetHeld then modPins (fun p => { p with standby := true, input := true, ovOff := false, refclk := w.refclk }) s
    else startModule s.boot.nextCause w s)
/-- STEP_RETRY: RETRY_DELAY after a failed step (15 R447). -/
def execStepRetry (w : BootWorld) (s : State) : Answer :=
  .next (match s.boot.retryAt with
    | some t => if !s.boot.down && t ≤ s.time.now then startModule 6 w s else s
    | none => s)
/-- PIN_RESET (18 R508). -/
def execPinReset (s : State) : Answer :=
  .next (modPins (fun p => { p with resetHeld := true }) (goDown 3 s))
/-- SYS_RESET_N_RELEASE (18 R508). -/
def execSysResetNRelease (w : BootWorld) (s : State) : Answer :=
  .next (if !s.pins.resetHeld then s
    else
      let s := modPins (fun p => { p with resetHeld := false }) s
      if s.boot.down && s.pins.standby && s.pins.input then startModule s.boot.nextCause w s else s)
/-- RESET_PIN_GLITCH: a low pulse of 1 µs up to 10 µs (18 R508). -/
def execResetPinGlitch (low : Nat) (s : State) : Answer :=
  .next (if !s.boot.down && 10 ≤ low && low < 100 then logBoot 0x09 (packLe [(low, 2)]) s else s)
/-- WATCHDOG_RESET (15 Table 15.7). -/
def execWatchdogReset (w : BootWorld) (s : State) : Answer := .next (if s.boot.down then s else startModule 7 w s)
/-- THERMAL_SHUTDOWN (16 R467). -/
def execThermalShutdown (_u : ThermalUnit) (w : BootWorld) (s : State) : Answer :=
  .next (if s.boot.down then goDown 8 s else startModule 8 w s)
/-- UNDERVOLTAGE (16 R469; 18 R506). -/
def execUndervoltage (s : State) : Answer := .next (modPins (fun p => { p with input := false }) (goDown 9 s))
/-- OVERVOLTAGE_DISCONNECT: it counts as a loss of input power (18 R506). -/
def execOvervoltageDisconnect (s : State) : Answer :=
  .next (modPins (fun p => { p with ovOff := true }) (loseStandby s))
/-- STANDBY_LOST (18 R506). -/
def execStandbyLost (s : State) : Answer := .next (loseStandby s)
/-- MODULE (15 R455 to R457). -/
def execModule (w : BootWorld) (s : State) : Answer := .next (resetCommand 1 4 w s)
/-- COLD (15 R455 to R457). -/
def execCold (w : BootWorld) (s : State) : Answer := .next (resetCommand 2 2 w s)
/-- CLEAR_REMEDIES (15 R448). -/
def execClearRemedies (s : State) : Answer := .next (clearRemedies s)
/-- RETRY_SAFE (15 R457). -/
def execRetrySafe (w : BootWorld) (s : State) : Answer := .next (retrySafe w s)
/-- WRITE_PAGE (15 R453). -/
def execWritePage (page : Nat) (s : State) : Answer := .next (writePage page s)
/-- COMMIT (15 R453). -/
def execCommit (a b : SlotView) (s : State) : Answer := .next (commitImage a b s)
/-- BOOT_LEDGER_SEL (15 R459). -/
def execBootLedgerSel (v : Word) (s : State) : Answer := .next (selectLedger v s)

end Sys2Proof.Machine
end

