-- ==== Sys2Proof/Machine/Rv64.lean ====
section
/-! DEFINITION. One RV64 instruction of a control core: the integer, multiply, atomic, CSR and fence instructions (05 R156 to R158; 10 R301).
PRESUMED: 05 R156 names the instruction set; encodings and results are those of the RISC-V manual, not of the spec (log 15). Compressed
and floating-point instructions leave free values. -/
namespace Sys2Proof.Machine

/-- Bits [lo + n - 1 : lo] of an instruction word, and the low n bits of a value as a signed number in 64 bits. -/
def rvSigned (n v : Nat) : Word := (BitVec.ofNat n v).signExtend 64

/-- Immediates of the I, S, B, U and J forms. -/
def immI (w : Nat) : Word := rvSigned 12 (bits w 20 12)
def immS (w : Nat) : Word := rvSigned 12 (bits w 7 5 + 2 ^ 5 * bits w 25 7)
def immB (w : Nat) : Word := rvSigned 13 (2 * bits w 8 4 + 2 ^ 5 * bits w 25 6 + 2 ^ 11 * bits w 7 1 + 2 ^ 12 * bits w 31 1)
def immU (w : Nat) : Word := rvSigned 32 (2 ^ 12 * bits w 12 20)
def immJ (w : Nat) : Word := rvSigned 21 (2 * bits w 21 10 + 2 ^ 11 * bits w 20 1 + 2 ^ 12 * bits w 12 8 + 2 ^ 20 * bits w 31 1)

/-- The low 32 bits, sign-extended. -/
def rvWord (v : Word) : Word := rvSigned 32 v.toNat

/-- Integer operations by funct3; alt is SUB or SRA. -/
def rvAlu (f3 : Nat) (alt : Bool) (a b : Word) : Word :=
  match f3 with
  | 0 => if alt then a - b else a + b
  | 1 => a <<< (b.toNat % 64)
  | 2 => if a.slt b then 1 else 0
  | 3 => if a.ult b then 1 else 0
  | 4 => a ^^^ b
  | 5 => if alt then a.sshiftRight (b.toNat % 64) else a >>> (b.toNat % 64)
  | 6 => a ||| b
  | _ => a &&& b

/-- 32-bit operations: ADDW, SUBW, SLLW, SRLW, SRAW. -/
def rvAluW (f3 : Nat) (alt : Bool) (a b : Word) : Option Word :=
  let x : BitVec 32 := BitVec.ofNat 32 a.toNat
  match f3 with
  | 0 => some (rvWord (if alt then a - b else a + b))
  | 1 => some ((x <<< (b.toNat % 32)).signExtend 64)
  | 5 => some ((if alt then x.sshiftRight (b.toNat % 32) else x >>> (b.toNat % 32)).signExtend 64)
  | _ => none

/-- Quotient and remainder of RV64M: by zero, all ones and the dividend; the overflow wraps. -/
def rvDiv (signed rem : Bool) (n : Nat) (a b : Int) : Word :=
  let v : Int :=
    if b = 0 then (if rem then a else -1)
    else if rem then (if signed then a.tmod b else a % b)
    else (if signed then a.tdiv b else a / b)
  rvSigned n (v.emod (2 ^ n)).toNat

/-- RV64M by funct3 on n-bit operands; the high products exist for 64 bits alone. -/
def rvMul (f3 n : Nat) (a b : Word) : Option Word :=
  let sa : Int := (BitVec.ofNat n a.toNat).toInt
  let sb : Int := (BitVec.ofNat n b.toNat).toInt
  let ua : Int := (a.toNat % 2 ^ n : Nat)
  let ub : Int := (b.toNat % 2 ^ n : Nat)
  let high (v : Int) : Option Word := if n = 64 then some (BitVec.ofInt 64 (v / 2 ^ 64)) else none
  match f3 with
  | 0 => some (rvSigned n ((sa * sb).emod (2 ^ n)).toNat)
  | 1 => high (sa * sb)
  | 2 => high (sa * ub)
  | 3 => high (ua * ub)
  | 4 => some (rvDiv true false n sa sb)
  | 5 => some (rvDiv false false n ua ub)
  | 6 => some (rvDiv true true n sa sb)
  | _ => some (rvDiv false true n ua ub)

/-- Whether a branch is taken, by funct3. -/
def rvTaken (f3 : Nat) (a b : Word) : Option Bool :=
  match f3 with
  | 0 => some (a == b)
  | 1 => some (a != b)
  | 4 => some (a.slt b)
  | 5 => some (!a.slt b)
  | 6 => some (a.ult b)
  | 7 => some (!a.ult b)
  | _ => none

/-- An AMO's result by funct5, on n-bit values. -/
def rvAmo (f5 n : Nat) (m v : Word) : Option Word :=
  let sm : Int := (BitVec.ofNat n m.toNat).toInt
  let sv : Int := (BitVec.ofNat n v.toNat).toInt
  let um := m.toNat % 2 ^ n
  let uv := v.toNat % 2 ^ n
  match f5 with
  | 0x00 => some (m + v)
  | 0x01 => some v
  | 0x04 => some (m ^^^ v)
  | 0x08 => some (m ||| v)
  | 0x0C => some (m &&& v)
  | 0x10 => some (if sm ≤ sv then m else v)
  | 0x14 => some (if sv ≤ sm then m else v)
  | 0x18 => some (if um ≤ uv then m else v)
  | 0x1C => some (if uv ≤ um then m else v)
  | _ => none

/-! ### Effects -/

/-- An instruction whose meaning is not the model's: registers and pc are free values (log 15). -/
def freeStep (c n : Nat) (s : State) : State :=
  let j := s.freeCtr
  modCore c n (fun k => { k with
    x := (List.range 31).map fun i => (i + 1, Config.coreResult j (i + 1))
    f := (List.range 32).map fun i => (i, Config.coreResult j (32 + i))
    pc := (Config.coreResult j 64).toNat % 2 ^ 48 }) { s with freeCtr := j + 1 }

/-- The illegal-instruction trap. -/
def rvIllegal (c n : Nat) (s : State) : State := trapCore c n .plain mcIllegal 0 s

/-- The pc moves to an address; rd, if not x0, takes a value. -/
def rvJump (c n rd : Nat) (v target : Word) (s : State) : State :=
  modCore c n (fun k => { setX rd v k with pc := target.toNat % 2 ^ 48 }) s

/-- Load n bytes from an address within the rood's reach (05 R157); what cannot be read yet makes the core wait. -/
def rvLoad (c n bytes : Nat) (a : Word) (use : Nat → State → State) (s : State) : State :=
  let d := a.toNat % 2 ^ 48
  match coreReach s c mcLoadFault d, coreReach s c mcLoadFault (d + bytes - 1) with
  | .ok, .ok =>
    (match localRead s d bytes with
      | .got bs => use (leNat bs) s
      | .stall => s
      | .ends _ => trapCore c n .plain mcLoadFault d s)
  | .ok, _ => programTrap c n mcLoadFault (d + bytes - 1) s
  | _, _ => programTrap c n mcLoadFault d s

/-- Store n bytes where the rood's programs may (05 R157; 07 R209, R218). -/
def rvStore (c n bytes v : Nat) (a : Word) (s : State) : State :=
  let d := a.toNat % 2 ^ 48
  match coreReach s c mcStoreFault d, coreReach s c mcStoreFault (d + bytes - 1) with
  | .ok, .ok => modCore c n retire (wrBytes d (leBytes bytes v) (clearPoison d bytes s))
  | .ok, _ => programTrap c n mcStoreFault (d + bytes - 1) s
  | _, _ => programTrap c n mcStoreFault d s

/-- LR, SC and AMOs on 4 or 8 bytes; a misaligned one traps. -/
def rvAtomic (c n w bytes : Nat) (a v : Word) (s : State) : State :=
  let rd := bits w 7 5
  let f5 := bits w 27 5
  let d := a.toNat % 2 ^ 48
  if d % bytes ≠ 0 then trapCore c n .plain (if f5 = 2 then 4 else 6) d s
  else if f5 = 2 then
    rvLoad c n bytes a (fun m s => modCore c n (fun k => { retire (setX rd (rvSigned (8 * bytes) m) k) with resv := some d }) s) s
  else if f5 = 3 then
    let held := match coreAt s c n with | some k => k.resv == some d | none => false
    let s := modCore c n (fun k => { k with resv := none }) s
    if held then rvStore c n bytes v.toNat a (modCore c n (setX rd 0) s) else retireX c n rd 1 s
  else
    match rvAmo f5 (8 * bytes) 0 0 with
    | none => rvIllegal c n s
    | some _ => rvLoad c n bytes a (fun m s =>
        rvStore c n bytes ((rvAmo f5 (8 * bytes) (w64 m) v).getD 0).toNat a (modCore c n (setX rd (rvSigned (8 * bytes) m)) s)) s

/-- A CSR that a U-mode program reads: fflags, frm, fcsr, cycle (cluster clocks), time (the module's timestamp; 10 R301). -/
def rvCsr (s : State) (c : Nat) (k : Core) (i : Nat) : Option Word :=
  match i with
  | 0x001 => some (w64 (k.fcsr % 32))
  | 0x002 => some (w64 (bits k.fcsr 5 3))
  | 0x003 => some (w64 (k.fcsr % 256))
  | 0xC00 => some (w64 (match s.clusters[c]? with | some q => q.cycles | none => 0))
  | 0xC01 => some (w64 s.time.now)
  | _ => none

/-- Write a floating-point CSR. -/
def setCsr (i : Nat) (v : Word) (k : Core) : Core :=
  match i with
  | 0x001 => { k with fcsr := k.fcsr / 32 * 32 + v.toNat % 32 }
  | 0x002 => { k with fcsr := k.fcsr % 32 + 32 * (v.toNat % 8) }
  | 0x003 => { k with fcsr := v.toNat % 256 }
  | _ => k

/-- SYSTEM: the CSR instructions; ECALL and EBREAK trap. A write of a read-only CSR is illegal. -/
def rvSystem (c n w : Nat) (k : Core) (a : Word) (s : State) : State :=
  let rd := bits w 7 5
  let rs1 := bits w 15 5
  let f3 := bits w 12 3
  let i := bits w 20 12
  if w = 0x73 then trapCore c n .plain 8 0 s
  else if w = 0x100073 then trapCore c n .plain 3 0 s
  else if f3 % 4 = 0 then rvIllegal c n s
  else
    let v : Word := if f3 < 4 then a else w64 rs1
    let writes : Bool := f3 % 4 == 1 || rs1 != 0
    match rvCsr s c k i with
    | none => rvIllegal c n s
    | some old =>
      if writes ∧ 0xC00 ≤ i then rvIllegal c n s
      else
        let new : Word := if f3 % 4 = 1 then v else if f3 % 4 = 2 then old ||| v else old &&& ~~~v
        modCore c n (fun k => retire (setX rd old (if writes then setCsr i new k else k))) s

/-- One instruction of word w other than a tensor-issue one. -/
def rvStep (c n w : Nat) (s : State) : State :=
  match coreAt s c n with
  | none => s
  | some k =>
    let rd := bits w 7 5
    let f3 := bits w 12 3
    let f7 := bits w 25 7
    let a : Word := tgetD (bits w 15 5) 0 k.x
    let b : Word := tgetD (bits w 20 5) 0 k.x
    let pc := w64 k.pc
    let put (v : Option Word) : State := match v with | some v => retireX c n rd v s | none => rvIllegal c n s
    match w % 128 with
    | 0x37 => retireX c n rd (immU w) s
    | 0x17 => retireX c n rd (pc + immU w) s
    | 0x6F => rvJump c n rd (pc + 4) (pc + immJ w) s
    | 0x67 => if f3 = 0 then rvJump c n rd (pc + 4) ((a + immI w) &&& ~~~(1 : Word)) s else rvIllegal c n s
    | 0x63 =>
      (match rvTaken f3 a b with
        | some true => modCore c n (fun k => { k with pc := (pc + immB w).toNat % 2 ^ 48 }) s
        | some false => modCore c n retire s
        | none => rvIllegal c n s)
    | 0x03 =>
      if f3 = 7 then rvIllegal c n s
      else
        let m := 2 ^ (f3 % 4)
        rvLoad c n m (a + immI w) (fun v s => retireX c n rd (if f3 < 4 then rvSigned (8 * m) v else w64 v) s) s
    | 0x23 => if 3 < f3 then rvIllegal c n s else rvStore c n (2 ^ f3) b.toNat (a + immS w) s
    | 0x13 =>
      if f3 = 1 ∧ bits w 26 6 ≠ 0 ∨ f3 = 5 ∧ bits w 26 6 ≠ 0 ∧ bits w 26 6 ≠ 16 then rvIllegal c n s
      else retireX c n rd (rvAlu f3 (f3 == 5 && bits w 26 6 == 16) a (if f3 % 4 = 1 then w64 (bits w 20 6) else immI w)) s
    | 0x1B =>
      if f3 = 1 ∧ f7 ≠ 0 ∨ f3 = 5 ∧ f7 ≠ 0 ∧ f7 ≠ 0x20 then rvIllegal c n s
      else put (rvAluW f3 (f3 == 5 && f7 == 0x20) a (if f3 = 0 then immI w else w64 (bits w 20 5)))
    | 0x33 =>
      if f7 = 1 then put (rvMul f3 64 a b)
      else if f7 = 0 ∨ (f7 = 0x20 ∧ (f3 = 0 ∨ f3 = 5)) then put (some (rvAlu f3 (f7 == 0x20) a b))
      else rvIllegal c n s
    | 0x3B =>
      if f7 = 1 then put (if f3 = 1 ∨ f3 = 2 ∨ f3 = 3 then none else rvMul f3 32 a b)
      else if f7 = 0 ∨ (f7 = 0x20 ∧ (f3 = 0 ∨ f3 = 5)) then put (rvAluW f3 (f7 == 0x20) a b)
      else rvIllegal c n s
    | 0x2F => if f3 = 2 ∨ f3 = 3 then rvAtomic c n w (2 ^ f3) a b s else rvIllegal c n s
    | 0x0F => if f3 < 2 then modCore c n retire s else rvIllegal c n s
    | 0x73 => rvSystem c n w k a s
    | _ => freeStep c n s

end Sys2Proof.Machine
end

