-- ==== Sys2Proof/Machine/Stalls.lean ====
section
/-! DEFINITION. Why a unit of a cluster or an engine cannot progress, and the clocks it loses (03 R86, R92; 04 R129, Table 4.7; 05
R141, R154, R162; 06 R199; 07 R216, R218). Each cause is read from the state at the tick (log 69). -/
namespace Sys2Proof.Machine

/-! ### Causes of Table 6.15 -/

/-- The first of numbered causes, in ascending order, that holds. -/
def firstCause (l : List (Bool × Nat)) : Option Nat := (l.find? fun c => c.1).map (·.2)

/-- The LOAD contexts with a slot not FILLED that a range meets. -/
def ctxAwaited (s : State) (rs : List (Nat × Nat)) : List Ctx :=
  (s.streams.ctx.filter fun e =>
    isLoad e.2 && rs.any fun r => r.2 != 0 && (slotsMet e.2 r.1 r.2).any fun i => tfind i e.2.slots != some .filled).map (·.2)

/-- Why a read of ring lines waits: STREAM_HALTED, THROTTLED, or the unit's own cause (07 R218). -/
def ringCause (late : Nat) (s : State) (rs : List (Nat × Nat)) : Option Nat :=
  let l := ctxAwaited s rs
  firstCause [(l.any (fun x => x.st == .halted), 2), (l.any (fun x => (settleCtx s x).st == .throttled), 3), (!l.isEmpty, late)]

/-- Why the head d of a queue waits for other work, its counter or its rod (R174 to R180). -/
def headCauses (s : State) (e : Desc) : List (Bool × Nat) :=
  [(depsOf s e == .wait, 11), (waitOf s e == .wait, 12), (e.hdr.placed && !(atRodStart s && rodSuits s e), 13)]

/-- The lesser of two causes. -/
def lesser (a b : Option Nat) : Option Nat :=
  match a, b with
  | some x, some y => some (min x y)
  | some x, none => some x
  | none, y => y

/-- The lowest cause of a running pass in bank b: it applies products, or loads its bank. -/
def bankCause (s : State) (c b : Nat) : Option Nat :=
  match passIn s c b with
  | none => none
  | some (_, _, x) =>
    match (bankOf s c b).st with
    | .loading => lesser (ringCause 4 s (ownRanges c [(x.initAddr, (x.m - 1) * x.outStride + 4 * tunOutCols x)])) (some 8)
    | .accumulating => ringCause 4 s (ownRanges c (tunOperandRanges x))
    | _ => none

/-- The banks whose pass is loading or applies its products now. -/
def activeBanks (s : State) (c : Nat) : List Nat :=
  (List.range 2).filter fun b =>
    let k := bankOf s c b
    k.st == .loading || (k.st == .accumulating && !k.second)

/-- Why the Tun slice of cluster c cannot progress; none while it can, or is idle. -/
def tunCause (s : State) (c : Nat) (k : Cluster) : Option Nat :=
  match activeBanks s c with
  | [] =>
    (match k.tunQueue.head? with
      | none => none
      | some d =>
        match tfind d s.descs with
        | none => none
        | some e =>
          match e.body with
          | .tun x =>
            let ring := if x.gather = 0 then none else ringCause 4 s [(scratchBase c + x.rowmap, 128)]
            lesser ring (firstCause (((bankOf s c x.bank).st != .free, 6) :: headCauses s e))
          | _ => none)
  | bs => if bs.any (fun b => bankCause s c b == none) then none else (bs.map (bankCause s c)).foldl lesser none

/-- A SPILL waits: its bank is LOADING, ACCUMULATING or SPILLING for another (05 R143). -/
def spillWaits (s : State) (c d : Nat) (b : GillBody) : Bool :=
  let k := bankOf s c (opAddr b.srcA / 0x10000)
  b.op == opSpill && k.gill != some d && (k.st == .loading || k.st == .accumulating || k.st == .spilling)

/-- Why Gill of cluster c cannot progress; none while it can, or is idle (05 R141, Table 5.9). -/
def gillCause (s : State) (c : Nat) (k : Cluster) : Option Nat :=
  match k.gillRun, k.comb.find? (fun v => v.st == .combining) with
  | _, some v => ringCause 5 s ((List.range v.s).map fun q => (scratchBase c + v.slotBase + q * v.slotStride, v.tileBytes))
  | some d, none =>
    (match tfind d s.descs with
      | some e =>
        (match e.body with
          | .gill b => lesser (ringCause 5 s (gillReadsAt c b)) (firstCause [((gillBanks b).any (bankStalls s c) || spillWaits s c d b, 7)])
          | _ => none)
      | none => none)
  | none, none =>
    if combReady k || (gillPick s c).isSome then none
    else
      (k.cores.map fun q =>
        match q.gillQ.head? with
        | none => none
        | some d => match tfind d s.descs with | some e => firstCause (headCauses s e) | none => none).foldl lesser none

/-- Why a control core cannot progress. -/
def coreCause (q : Core) : Option Nat :=
  match q.wait with
  | some (.seq _ _) | some .fence | some (.exit _) => some 11
  | some (.rod _ _) => some 13
  | some (.issue _ _) => if 64 ≤ q.queue.length then some 14 else none
  | some (.summary _ _) => some 15
  | none => none

/-- A STREAM at the head of the stream queue finds no free context, or none within its rood's quota (07 R216). -/
def contextWait (s : State) (d : Nat) (e : Desc) : Bool :=
  match e.body with
  | .stream _ =>
    e.stage == .queued && e.result.isNone && unitHead s .streams d &&
      (1024 ≤ s.streams.ctx.length ||
        (match s.roods[e.rood]? with
          | some r => decide (r.res.qCtx ≤ (s.streams.ctx.filter fun k => k.2.rood == e.rood).length)
          | none => true))
  | _ => false

/-- A descriptor waits at admission: held since it was taken, or by what came since; a RUN, until its cores are IDLE (R192). -/
def waitsAtAdmission (s : State) (e : Desc) : Bool :=
  e.held || ((e.stage == .dispatcher || (e.stage == .queued && (match e.body with | .run _ => true | _ => false))) && admissionHold s e)

/-- Why the dispatcher cannot progress on the descriptors that name cluster c (R174), or on the requests of its rood while a swap
pauses admission (08 R256). -/
def dispatcherCause (s : State) (c : Nat) : Option Nat :=
  let mine := s.descs.filter fun k => eventCluster k.2 == c && k.2.result.isNone
  let paused := match s.clusters[c]? with
    | some k => (match k.rood with
      | some r => swapPaused s r && s.requests.any fun e => e.2.rood == r && e.2.st == .waiting
      | none => false)
    | none => false
  firstCause [(mine.any (fun k => waitsAtAdmission s k.2) || paused, 1),
    (mine.any (fun k => (k.2.stage == .dispatcher && !k.2.held && !unitRoom s (unitOf k.2)) || contextWait s k.1 k.2), 14)]

/-- Which units of cluster c have work. -/
def unitsBusy (s : State) (c : Nat) (k : Cluster) : List Bool :=
  [!k.tunQueue.isEmpty || k.banks.any (fun b => b.run.isSome), gillBusy k || k.cores.any (fun q => !q.gillQ.isEmpty)] ++
    k.cores.map (fun q => q.run.isSome) ++ [s.descs.any fun e => eventCluster e.2 == c && e.2.stage == .dispatcher && e.2.result.isNone]

/-- The causes of the units of cluster c: the Tun slice, Gill, the control cores, the dispatcher. A clock change stops each that has
work. -/
def unitCauses (s : State) (c : Nat) (k : Cluster) : List (Option Nat) :=
  let l := [tunCause s c k, gillCause s c k] ++ k.cores.map coreCause ++ [dispatcherCause s c]
  if s.time.now < k.pauseUntil then (l.zip (unitsBusy s c k)).map fun p => if p.2 then some 0 else p.1 else l

/-! ### Clocks -/

/-- Clocks of a domain of mhz MHz in the tick that begins at stamp now. -/
def tickClocks (now mhz : Nat) : Nat := (now + 4) * mhz / 4000 - now * mhz / 4000

/-- Add n clocks to counter i. -/
def addStall (i n : Nat) (t : Table Nat) : Table Nat := if n = 0 then t else tset i (satAdd 64 (tgetD i 0 t) n) t

/-- A pass that applies products turns an operand through the transposing buffer (03 R75, Table 3.8). -/
def tunTurns (s : State) (c : Nat) : Bool :=
  (activeBanks s c).any fun b => (bankOf s c b).st == .accumulating && (match passIn s c b with | some (_, _, x) => x.aTurn || x.bTurn | none => false)

/-- The Tun slice reads the scratchpad: a pass loads its bank or applies products. -/
def tunReads (s : State) (c : Nat) : Bool := !(activeBanks s c).isEmpty

/-- Gill reads the scratchpad: it combines, or the operation that it runs has an operand there. -/
def gillReading (s : State) (c : Nat) (k : Cluster) : Bool :=
  combRuns k ||
    (match k.gillRun with
      | some d => (match tfind d s.descs with
        | some e => (match e.body with | .gill b => !(gillReadsAt c b).isEmpty | _ => false)
        | none => false)
      | none => false)

/-- A STORE stream reads the scratchpad of cluster c. -/
def storeReading (s : State) (c : Nat) : Bool :=
  s.streams.ctx.any fun e => !isLoad e.2 && e.2.body.srcTier == 0 && (match placeOf e.2.body.srcAddr 1 with | .scratch k _ => k == c | _ => false)

/-- The stall counters of cluster c after one tick. Of a unit that works, the clocks that it loses to the transposing buffer while an
operand is turned, and to the scratchpad ports while another unit reads them, are no part of the state: lost, free numbers within the
tick's clocks (log 69). -/
def clusterStalls (s : State) (lost : Nat → Nat) (c : Nat) (k : Cluster) : Table Nat :=
  let n := tickClocks s.time.now k.clk
  let causes := unitCauses s c k
  let busy := unitsBusy s c k
  let t := causes.foldl (fun t x => match x with | some i => addStall i n t | none => t) k.stalls
  let tun := if busy.getD 0 false && (causes.getD 0 none).isNone then n else 0
  let gill := if busy.getD 1 false && (causes.getD 1 none).isNone then n else 0
  let stores := storeReading s c
  let fill := if tunTurns s c then lost 0 % (tun + 1) else 0
  let tunLoses := if tunReads s c && (gillReading s c k || stores) then lost 1 % (tun - fill + 1) else 0
  let gillLoses := if gillReading s c k && (tunReads s c || stores) then lost 2 % (gill + 1) else 0
  addStall 9 fill (addStall 10 (tunLoses + gillLoses) t)

/-- Why an engine cannot progress (04 Table 4.7, R125, R129): 1 INGRESS_LATE, 3 HALTED. -/
def engineCause (s : State) (k : Stack) (g : Engine) : Option Nat :=
  match g.run with
  | none => none
  | some d =>
    if g.haltedAt.isSome || s.time.now < k.pauseUntil then some 3
    else
      match tfind d s.descs with
      | some e =>
        (match e.body with
          | .firkin x => if g.acc.isNone && (ctxAwaited s (firkinInputs x)).length != 0 then some 1 else none
          | _ => none)
      | none => none

/-- The stall counters of an engine after one tick; lost gives what contention takes of its weights and of its egress. -/
def engineStalls (s : State) (lost : Nat → Nat) (k : Stack) (g : Engine) : Table Nat :=
  let n := tickClocks s.time.now k.clk
  match engineCause s k g with
  | some i => addStall i n g.stalls
  | none =>
    if g.run.isNone then g.stalls
    else
      let w := lost 0 % (n + 1)
      addStall 2 (lost 1 % (n - w + 1)) (addStall 0 w g.stalls)

end Sys2Proof.Machine
end

