-- ==== Sys2Proof/Machine/Regs.lean ====
section
/-! DEFINITION. The register range: which register an address reaches, what a read returns and what a write does (00 R12 to R15; 17
R483 to R487, and each block's register tables). Debug access (17 R503). -/
namespace Sys2Proof.Machine

/-! ### Addresses (17 Table 17.1) -/

/-- A register block. -/
inductive Block where
  | glb
  /-- 16 is the spare window -/
  | clu (c : Nat)
  | stk (t : Nat)
  | frk (t : Nat)
  | str
  | fls
  /-- 96 to 103 are spare windows, 255 the fabric-wide block -/
  | lnk (l : Nat)
  | eth
  | rood (r : Nat)
  | sec
  | fwc
  | boot
  deriving DecidableEq, Repr

/-- The block in whose span an address lies, and the offset in it. -/
def blockOf (a : Nat) : Option (Block × Nat) :=
  let c := (a - 0x100000) / 0x10000
  let t := (a - 0x400000) / 0x10000
  let o := a % 0x10000
  let l := (a - 0x1000000) / 0x1000
  let r := (a - 0x2000000) / 0x10000
  if a < 0x1000 then some (.glb, a)
  else if 0x100000 ≤ a ∧ c ≤ 16 ∧ o < 0x310 then some (.clu c, o)
  else if 0x400000 ≤ a ∧ t < 8 ∧ o < 0x2000 then some (.stk t, o)
  else if 0x400000 ≤ a ∧ t < 8 ∧ 0x8000 ≤ o ∧ o < 0x8328 then some (.frk t, o)
  else if 0x600000 ≤ a ∧ a < 0x609000 then some (.str, a - 0x600000)
  else if 0x700000 ≤ a ∧ a < 0x700188 then some (.fls, a - 0x700000)
  else if 0x1000000 ≤ a ∧ (l < 104 ∨ l = 255) ∧ a % 0x1000 < 0x48 then some (.lnk l, a % 0x1000)
  else if 0x1800000 ≤ a ∧ a < 0x1800140 then some (.eth, a - 0x1800000)
  else if 0x2000000 ≤ a ∧ r < 16 ∧ o < 0x128 then some (.rood r, o)
  else if 0x3000000 ≤ a ∧ a < 0x3002000 then some (.sec, a - 0x3000000)
  else if 0x3800000 ≤ a ∧ a < 0x3800318 then some (.fwc, a - 0x3800000)
  else if 0x3C00000 ≤ a ∧ a < 0x3C02000 then some (.boot, a - 0x3C00000)
  else none

/-- Block identifier for REG_UNMAPPED and LOCKED_WRITE (R484). -/
def blockId (s : State) : Block → Nat
  | .glb | .str | .rood _ => Blk.glb
  | .clu c => Blk.cluster (match s.clusters[c]? with | some k => k.phys | none => s.spareCluster.phys)
  | .stk t | .frk t => Blk.stack t
  | .fls => Blk.flash
  | .lnk _ => Blk.fabric
  | .eth => Blk.eth
  | .sec => Blk.sec
  | .fwc => Blk.fw
  | .boot => Blk.boot

/-- REG_UNMAPPED: kind 0 read, 1 write. -/
def regUnmapped (blk a kind : Nat) (s : State) : State :=
  raiseGlb 1 (logEv blk 0xF0 noRood (packLe [(a % 2 ^ 48, 6), (kind, 1)]) s)

/-- LOCKED_WRITE. -/
def lockedWrite (blk a : Nat) (s : State) : State := raiseGlb 2 (logEv blk 0xF1 noRood (a % 2 ^ 48) s)

/-- Fields from bit 0 up: value and width. -/
def packBits : List (Nat × Nat) → Nat
  | [] => 0
  | (v, n) :: t => v % 2 ^ n + 2 ^ n * packBits t

/-- A flag as a bit. -/
def flag (b : Bool) : Nat := if b then 1 else 0

/-- An optional owner: number and validity in five bits. -/
def ownerBits (o : Option Nat) : Nat := match o with | some r => r % 16 + 16 | none => 0

/-- Index of an offset in an array of n entries from base at a stride, for the entry's word at its start. -/
def arrayAt (off base stride n : Nat) : Option Nat :=
  if base ≤ off ∧ off < base + stride * n ∧ (off - base) % stride = 0 then some ((off - base) / stride) else none

/-! ### Reads -/

/-- GLB (17 Tables 17.8 to 17.10). -/
def readGlb (s : State) (off : Nat) : Option Nat :=
  let t := s.time
  let list := packBits (t.succession.map fun p => (p, 12))
  if off = 0x000 then some (s.sec.part + 2 ^ 8 * s.sec.stepping)
  else if off = 0x008 then some t.now
  else if off = 0x010 then some (rodNum s + 2 ^ 48 * (eraOf s t.now % 2 ^ 16))
  else if off = 0x018 then
    let lock := match t.lock with | .acquiring => 0 | .locked => 1 | .holdover => 2
    some (packBits [(lock, 2), (flag t.master, 1), (flag t.uncertain, 1), (t.k, 3), (0, 1), (t.index, 8), (t.term, 16), (t.masterPos, 12)])
  else if off = 0x020 then
    some ((t.offset.emod (2 ^ 32)).toNat + 2 ^ 32 * (if t.lock = .holdover then driftBound s % 2 ^ 32 else 0))
  else if off = 0x028 then some t.ppsIn
  else if off = 0x030 then some t.ppsCount
  else if off = 0x038 then some s.glb.err.bits.toNat
  else if off = 0x040 then some s.glb.lastUnmapped.toNat
  else if off = 0x048 then some (list % 2 ^ 64)
  else if off = 0x050 then some (list / 2 ^ 64 % 2 ^ 32 + 2 ^ 32 * ((t.succession.length - 1) % 8))
  else if off = 0x060 then some (flag s.glb.locked + 2 ^ 16 * (s.glb.lockRod % 2 ^ 48))
  else if off = 0x068 then some s.glb.scratch.toNat
  else none

def coreCode : CoreState → Nat
  | .idle => 0 | .running => 1 | .waitSummary => 2 | .waitGill => 3 | .stopped => 4 | .reset => 5

def combCode : CombState → Nat
  | .free => 0 | .armed => 1 | .ready => 2 | .combining => 3

/-- Operations of core n queued and not started. -/
def gillQueued (k : Cluster) (n : Nat) : Nat := ((k.cores.getD n {}).gillQ.filter fun d => k.gillRun != some d).length

/-- A logical cluster (05 Tables 5.9 to 5.15). -/
def readCluster (s : State) (k : Cluster) (c off : Nat) : Option Nat :=
  let bank (b : Nat) : Nat := bankCode (k.banks.getD b {}).st
  let busy := gillBusy k
  if off = 0x00 then some (k.phys % 32 + 2 ^ 8 * c)
  else if off = 0x08 then
    let st := match k.mode with | .active => 0 | .substituting => 1 | .absent | .fallback => 2
    some (packBits [(st, 8), (ownerBits k.rood, 8), (bank 0, 3), (bank 1, 3), (0, 2),
      (maskOf 4 fun n => (k.cores.getD n {}).run.isSome, 4), (flag busy, 1)])
  else if off = 0x10 then some k.clk
  else if off = 0x18 then some (k.coreEn % 16 + 16 * flag k.waitGate)
  else if off = 0x40 then
    let q := (List.range 4).map (gillQueued k)
    let stalled := ((unitCauses s c k).getD 1 none).isSome
    some (packBits (q.map (fun n => (n, 5)) ++ [(flag busy, 1), (flag stalled, 1)]))
  else if off = 0x48 then some k.invalid
  else if off = 0x50 then some k.ovf
  else if off = 0x58 then some k.sat
  else if off = 0x60 then some k.err.bits.toNat
  else if off = 0x68 then some k.selftest.toNat
  else if off = 0x300 then some k.gillOps
  else if off = 0x308 then some k.tunPasses
  else
    match arrayAt off 0x20 8 4, arrayAt off 0x100 16 16, arrayAt off 0x108 16 16, arrayAt off 0x200 8 16 with
    | some n, _, _, _ =>
      let q := k.cores.getD n {}
      some (packBits [(coreCode q.st, 8), (q.trapCause, 8), (q.slice.getD 0, 10), (flag q.slice.isSome, 1)])
    | _, some i, _, _ =>
      let e := k.comb.getD i {}
      some (packBits [(combCode e.st, 8), (e.s, 8), (e.core, 4), (popCount 64 e.mask, 12), (e.dlRod, 32)])
    | _, _, some i, _ => some (k.comb.getD i {}).mask
    | _, _, _, some i => some (tgetD i 0 k.stalls)
    | _, _, _, _ => none

/-- CLU blocks; at c = 16 the spare window. -/
def readClu (s : State) (c off : Nat) : Option Nat :=
  match s.clusters[c]? with
  | some k => readCluster s k c off
  | none =>
    let k := s.spareCluster
    if off = 0x00 then some ((if k.st = .ready ∨ k.st = .failed then k.phys % 32 else 31) + 2 ^ 12)
    else if off = 0x08 then some (match k.st with | .ready | .handoff => 3 | .failed => 4 | .inUse => 5)
    else if off = 0x68 then some k.selftest.toNat
    else none

def spareCode : SpareState → Nat
  | .ready => 0 | .inUse => 1 | .failed => 2 | .handoff => 3

def regionKindCode (g : Region) : Nat := packBits [(g.kind, 4), (g.fmt, 4), (g.rood, 4), (g.backing, 4), (regionBushels g, 32)]

/-- STK (07 Tables 7.19 to 7.21). -/
def readStk (s : State) (t off : Nat) : Option Nat :=
  match s.stks[t]? with
  | none => none
  | some k =>
    if off = 0x00 then some 0x000012400040C000
    else if off = 0x08 then some (packBits [(k.train, 2), (flag k.degraded, 1), (flag k.reserveLow, 1)])
    else if off = 0x10 then some k.pchFailed
    else if off = 0x18 then some k.eccInner
    else if off = 0x20 then some k.eccOuter
    else if off = 0x28 then some (packBits [(k.uncorr, 32), (k.badSum, 32)])
    else if off = 0x30 then some (packBits [(k.retired, 16), (k.reserveFree, 16), (k.rowsRepaired, 16)])
    else if off = 0x38 then some k.lastErr.toNat
    else if off = 0x40 then some k.err.bits.toNat
    else if off = 0x48 then some k.linkRetry
    else
      match arrayAt off 0x1000 16 256, arrayAt off 0x1008 16 256 with
      | some n, _ => some (match tfind n k.regions with | some g => g.start % 2 ^ 48 + 2 ^ 48 * g.len | none => 0)
      | _, some n => some (match tfind n k.regions with | some g => regionKindCode g | none => 0)
      | _, _ => none

def engineCode : UnitMode → Nat
  | .active => 0 | .fallback => 1 | .absent => 2 | .substituting => 3

def lockCode : LockState → Nat
  | .free => 0 | .loading => 1 | .locking => 2 | .locked => 3 | .releasing => 4

/-- FRK (04 Tables 4.7 to 4.12). -/
def readFrk (s : State) (t off : Nat) : Option Nat :=
  match s.stks[t]? with
  | none => none
  | some k =>
    let count (m : UnitMode) : Nat := (k.engines.filter fun e => e.mode == m).length
    if off = 0x8000 then
      some (packBits [(count .active, 3), (count .fallback, 3), (count .absent, 3), (flag (k.spare == .ready), 1), (0, 6), (768, 16), (4096, 16)])
    else if off = 0x8008 then some k.clk
    else if off = 0x8030 then some (packBits [(k.sparePhys, 4), (spareCode k.spare, 12), (k.spareTest, 48)])
    else if off = 0x8038 then some k.fallback
    else if off = 0x8040 then some k.frkErr.bits.toNat
    else if off = 0x8048 then some (packBits [(k.sramCorr, 32), (k.sramUncorr, 16), (k.refetches, 16)])
    else if off = 0x8050 then some k.lockViol.toNat
    else if off = 0x8320 then some (k.macs / 2 ^ 20)
    else
      match arrayAt off 0x8010 8 4, arrayAt off 0x8100 16 8, arrayAt off 0x8108 16 8, arrayAt off 0x8300 8 4, arrayAt off 0x8200 8 16 with
      | some e, _, _, _, _ =>
        (k.engines[e]?).map fun g =>
          packBits [(engineCode g.mode, 2), (g.phys, 6), (ownerBits g.rood, 8), ((g.queue.filter fun d => g.run != some d).length, 4),
            (flag (g.run.isSome && g.acc.isNone && g.haltedAt.isNone && g.mode == .active), 1)]
      | _, some n, _, _, _ => let e := k.locks.getD n {}; some (if e.st = .free then 0 else e.base % 2 ^ 48 / 2 ^ 21 * 2 ^ 21 + 2 ^ 48 * e.size)
      | _, _, some n, _, _ =>
        let e := k.locks.getD n {}
        some (packBits [(lockCode e.st, 8), (e.passes, 8), (e.readers, 16), (e.holds, 32)])
      | _, _, _, some e, _ => (k.engines[e]?).map (·.passes)
      | _, _, _, _, some i => if i % 4 < 4 then (k.engines[i / 4]?).map fun g => tgetD (i % 4) 0 g.stalls else none
      | _, _, _, _, _ => none

def ctxCode : CtxState → Nat
  | .free => 0 | .running => 1 | .full => 2 | .throttled => 3 | .halted => 4 | .closing => 5

def haltCode : HaltCause → Nat
  | .flashUnstaged => 1 | .flashUncorrectable => 2 | .stackUncorrectable => 3 | .checksumBad => 4

/-- One word of a stream context; STATE is that of the current stamp, as tokens refill with time (07 Table 7.7). -/
def readCtx (s : State) (x : Ctx) (w : Nat) : Nat :=
  match w with
  | 0 => packBits [(ctxCode (settleCtx s x).st, 4), (x.rood, 4), (x.pid, 20), (x.body.op, 2), (x.body.srcTier, 2), (x.body.dstTier, 2)]
  | 1 => packBits [(position x, 32), (x.placed.length, 32)]
  | 2 => packBits [(filledBytes x, 32), (4096 * x.requested.length, 32)]
  | _ => match x.fault with | some f => packBits [(f.2.2, 48), (haltCode f.1, 15), (1, 1)] | none => 0

/-- STR (07 Tables 7.16 to 7.18). -/
def readStr (s : State) (off : Nat) : Option Nat :=
  let k := s.streams
  if off = 0x00 then some 0x00000000000B0400
  else if off = 0x08 then some k.horizon
  else if off = 0x10 then some k.err.bits.toNat
  else if off = 0x18 then some (packBits ((List.range 4).map fun i => (tgetD i 0 k.halts, 16)))
  else if off = 0x20 then some (packBits [(k.ctx.length, 16), ((k.ctx.filter fun e => e.2.st == .halted).length, 16)])
  else if 0x800 ≤ off ∧ off < 0xC00 ∧ off % 8 = 0 then
    let r := (off - 0x800) / 0x40
    let t := (off - 0x800) % 0x40 / 8
    if t < 5 then some (bucketOf s r t).written.toNat else none
  else if 0x1000 ≤ off ∧ off < 0x9000 ∧ off % 8 = 0 then
    some (match tfind ((off - 0x1000) / 0x20) k.ctx with | some x => readCtx s x (off % 0x20 / 8) | none => 0)
  else none

/-- FLS (07 Tables 7.22, 7.23); the endurance rating is 24 PiB of stream writes. -/
def readFls (s : State) (off : Nat) : Option Nat :=
  let f := s.flash
  if off = 0x00 then some 0x00001F2028002000
  else if off = 0x08 then some (packBits [(f.mode, 2), (flag f.spareInUse, 1), (flag f.spareFailed, 5), (f.spareDie, 5)])
  else if off = 0x10 then some (f.hostWritten / 2 ^ 30)
  else if off = 0x18 then some (f.nandWritten / 2 ^ 30)
  else if off = 0x20 then some (packBits [(f.hostWritten * 10000 / (24 * 2 ^ 50), 16), (f.overProv, 16)])
  else if off = 0x28 then some (packBits [(f.misses, 32), (f.loads, 32)])
  else if off = 0x30 then some (packBits [(f.relocs, 32), (f.moves, 32)])
  else if off = 0x38 then some (packBits [(f.retries, 32), (f.uncorr, 16), (f.retiredBlocks, 16)])
  else if off = 0x40 then some f.err.bits.toNat
  else if off = 0x48 then
    some (packBits [(maskOf 16 fun r => (nsOf s r).erasing, 16), (f.ns.foldl (fun n e => n + e.2.eraseGiB) 0, 32)])
  else if off = 0x180 then some f.rdDisturb
  else
    match arrayAt off 0x100 8 16 with
    | some r => let n := nsOf s r; some (packBits [(n.size, 16), (flag n.keyValid, 1), (flag n.erasing, 1)])
    | none => none

def linkCode : LinkState → Nat
  | .down => 0 | .training => 1 | .up => 2 | .retraining => 3 | .substituting => 4 | .failed => 5 | .miswired => 6

/-- LNK (11 Tables 11.15 to 11.18). -/
def readLnk (s : State) (l off : Nat) : Option Nat :=
  let f := s.fab
  if l = 255 then
    let mask (st : SpareState) : Nat := maskOf 8 fun b => match s.linkSpares[b]? with | some k => k.st == st | none => false
    if off = 0x00 then some 0x0000000000086068
    else if off = 0x08 then some (packBits [(f.pos, 16), (f.groups, 7)])
    else if off = 0x10 then some (f.sysid % 2 ^ 32)
    else if off = 0x18 then some (f.timeout % 2 ^ 16)
    else if off = 0x20 then some f.err.bits.toNat
    else if off = 0x28 then some (packBits [(f.refused, 16), (f.stale, 16), (f.late, 16), (f.resends, 16)])
    else if off = 0x30 then
      some (packBits [(contexts s, 16), ((earlyBytes s + 1023) / 1024, 9)])
    else if off = 0x38 then some (packBits [(mask .ready, 8), (mask .inUse, 8), (mask .failed, 8)])
    else none
  else
    match s.links[l]? with
    | none =>
      if off = 0 then
        (s.linkSpares[l - 96]?).map fun k => packBits [(if k.st = .failed then 5 else 0, 4), (k.phys, 7)]
      else none
    | some k =>
      if off = 0x00 then some (packBits [(linkCode k.st, 4), (k.phys, 8), (k.cause, 4)])
      else if off = 0x08 then some (packBits [(k.peerPos, 12), (k.peerLink, 7), (flag k.valid, 1)])
      else if off = 0x10 then some (k.delay % 2 ^ 16)
      else if off = 0x18 then some k.err.bits.toNat
      else if off = 0x20 then some (packBits [(k.fecCorr, 32), (k.fecUncorr, 32)])
      else if off = 0x28 then some (packBits [(k.replays, 32), (k.retrains, 16), (k.failedTrains, 16)])
      else if off = 0x30 then some k.txFlits
      else if off = 0x38 then some k.rxFlits
      else if off = 0x40 then some k.creditStall
      else none

def attachCode : AttachState → Nat
  | .detached => 0 | .attaching => 1 | .attached => 2 | .orphaned => 3

/-- ETH (12 Tables 12.15 to 12.18). -/
def readEth (s : State) (off : Nat) : Option Nat :=
  let e := s.eth
  let qps (st : QpState) : Nat := (e.qps.filter fun q => q.2.st == st).length
  let sas (st : SaState) : Nat := (e.sas.filter fun a => a.2.st == st).length
  if off = 0x00 then some 0x0C02100000010000
  else if off = 0x38 then some e.mgmtPort
  else if off = 0x40 then
    some (packBits [(attachCode e.session.st, 2), (e.session.phase, 14), (e.session.num, 16), (e.session.path, 1)])
  else if off = 0x48 then some (packBits [(e.interval, 16), (e.missed, 8)])
  else if off = 0x50 then some (packBits [(e.quarThreshold, 16), (e.quarWindow, 16), (e.quarDuration, 16)])
  else if off = 0x58 then some e.err.bits.toNat
  else if off = 0x60 then some (packBits [(qps .rts, 32), (qps .error, 17)])
  else if off = 0x68 then some (packBits [(sas .live, 16), (sas .tombstone, 13)])
  else if off = 0x70 then some (packBits [(e.icv, 16), (e.replay, 16), (e.late, 16), (e.unknownSpi, 16)])
  else if off = 0x78 then
    some (packBits [(e.violations, 32), ((e.quarantined.filter fun q => s.time.now < q.2.2).length, 16), (e.quarantines, 16)])
  else if off = 0x80 then some (packBits [(e.cnpRx, 32), (e.cnpTx, 32)])
  else
    match arrayAt off 0x08 8 2, arrayAt off 0x18 8 4, arrayAt off 0x100 16 4, arrayAt off 0x108 16 4 with
    | some p, _, _, _ => some (e.ports.getD p 0).toNat
    | _, some i, _, _ => let k := e.ifs.getD i {}; some (packBits [(k.st, 16), (k.downs, 16)])
    | _, _, some i, _ => some (e.ifs.getD i {}).rx
    | _, _, _, some i => some (e.ifs.getD i {}).tx
    | _, _, _, _ => none

/-- A resource register, counted from ROOD_CLUSTERS. -/
def readRes (k : Res) (i : Nat) : Nat :=
  match i with
  | 0 => k.clusters
  | 1 => k.engines
  | 2 => k.ns
  | 3 => packBits [(k.slotFirst, 16), (k.slotCount, 15)]
  | 4 => packBits [(k.qCtx, 16), (k.qQueues, 16), (k.qSas, 16), (k.qQps, 13)]
  | _ => k.weight

/-- A write of a resource register's word into a set. -/
def writeRes (i v : Nat) (k : Res) : Res :=
  match i with
  | 0 => { k with clusters := bits v 0 16 }
  | 1 => { k with engines := bits v 0 32 }
  | 2 => { k with ns := bits v 0 16 }
  | 3 => { k with slotFirst := bits v 0 14, slotCount := bits v 16 15 }
  | 4 => { k with qCtx := bits v 0 11, qQueues := bits v 16 13, qSas := bits v 32 13, qQps := bits v 48 13 }
  | _ => { k with weight := bits v 0 8 }

/-- ROOD (13 Tables 13.17 to 13.20). -/
def readRood (s : State) (r off : Nat) : Option Nat :=
  match s.roods[r]? with
  | none => none
  | some k =>
    if off = 0x00 then
      some (packBits [(roodCode k.st, 2), (flag (k.applyRod.isSome || k.createArmed), 1), (flag k.planRod.isSome, 1),
        (flag (s.sec.debug == 2 && s.sec.d2Rood == r), 1), (flag k.nsKeyLive, 11),
        ((s.slices.filter fun e => e.2.rood == r).length, 16), ((s.eth.sas.filter fun e => e.2.rood == r && e.2.st == .live).length, 13)])
    else if off = 0x08 then some (packBits [(k.cmd, 8), (k.status, 8)])
    else if off = 0x80 then some ((k.applyRod.getD 0) % 2 ^ 48)
    else if off = 0x88 then some (k.plan % 2 ^ 64)
    else if off = 0x90 then some (k.plan / 2 ^ 64 % 2 ^ 16)
    else if off = 0x98 then some (k.pendPlan % 2 ^ 64)
    else if off = 0xA0 then some (k.pendPlan / 2 ^ 64 % 2 ^ 16)
    else if off = 0xA8 then some ((k.planRod.getD 0) % 2 ^ 48)
    else if off = 0xB0 then some k.err.bits.toNat
    else if off = 0xB8 then some k.lastReset.toNat
    else if off = 0x120 then some k.tblCmd.toNat
    else
      match arrayAt off 0x10 8 6, arrayAt off 0x50 8 6, arrayAt off 0x100 8 4 with
      | some i, _, _ => some (readRes k.res i)
      | _, some i, _ => some (readRes k.pend i)
      | _, _, some w => some (tblWord k w)
      | _, _, _ => none

/-- SEC but for SEC_NONCE (17 Tables 17.11 to 17.13). -/
def readSec (s : State) (off : Nat) : Option Nat :=
  let k := s.sec
  if off = 0x00 then
    some (packBits [(k.state, 2), (k.debug, 2), (k.d2Rood, 4), (flag (k.debug == 2), 8), (k.d3Logged, 8), (k.d3Left, 8), (flag (k.part == 2), 1)])
  else if off = 0x08 then some (Config.serial % 2 ^ 64)
  else if off = 0x10 then some (Config.serial / 2 ^ 64 % 2 ^ 64)
  else if off = 0x48 then some k.svnMin
  else if off = 0x58 then some k.rptCtl.toNat
  else if off = 0x80 then some k.err.bits.toNat
  else if off = 0x300 then some k.grantCtl.toNat
  else if off = 0x308 then some k.lifeCtl.toNat
  else if off = 0x400 then some k.dbgCtl.toNat
  else if off = 0x408 then some k.dbgAddr
  else
    match arrayAt off 0x18 8 6, arrayAt off 0x60 8 4, arrayAt off 0x200 8 28, arrayAt off 0x410 8 8, arrayAt off 0x1000 8 512 with
    | some i, _, _, _, _ => some (if k.state = 0 then 0 else k.ownerHash / 2 ^ (64 * i) % 2 ^ 64)
    | _, some i, _, _, _ => some (k.rptNonce.getD i 0).toNat
    | _, _, some i, _, _ => some (tgetD i 0 k.grant).toNat
    | _, _, _, some i, _ => some (tgetD i 0 k.dbgData).toNat
    | _, _, _, _, some n => some (field k.buf (8 * n) 8)
    | _, _, _, _, _ => none

/-- The highest of numbered readings: value and number. -/
def hottest (l : List (Nat × Nat)) : Nat × Nat := l.foldl (fun b e => if b.1 < e.1 then e else b) (0, 0)

/-- FWC (16 Tables 16.10, 16.11). -/
def readFwc (s : State) (off : Nat) : Option Nat :=
  let f := s.fwc
  let num (l : List Nat) : List (Nat × Nat) := l.zip (List.range l.length)
  if off = 0x00 then some 0x00000003E8006467
  else if off = 0x08 then some (packBits (f.cores.map (fun c => (c.phys, 3)) ++ [(f.sparePhys, 3), (spareCode f.spare, 2)]))
  else if off = 0x10 then some (packBits [(f.pstate, 3), (flag f.waking, 13), (f.changeRod, 48)])
  else if off = 0x18 then some (packBits [(f.reqCmd, 3), (f.floor, 5), (f.reqStatus, 8)])
  else if off = 0x20 then let c := f.capNext.getD (f.cap, f.policy); some (packBits [(c.1, 16), (c.2, 2)])
  else if off = 0x28 then
    let top := (f.max10.filter fun e => s.time.now < e.1 + 1000 * msTicks).foldl (fun m e => max m e.2) 0
    some (packBits [(f.p10, 16), (top, 16), (f.vin, 16), (f.iin, 16)])
  else if off = 0x30 then some (packBits [(f.ceilClu, 16), (f.ceilFrk, 16)])
  else if off = 0x38 then
    let quiet := if f.flags = 0 then min ((s.time.now - f.quietSince) / msTicks) (2 ^ 32 - 1) else 0
    some (packBits [(f.flags, 32), (quiet, 32)])
  else if off = 0x40 then some f.err.bits.toNat
  else if off = 0x48 then some (f.energy / 1000000)
  else if off = 0x50 then
    let a := hottest (num (s.clusters.map (·.temp)))
    let b := hottest (num (s.stks.map (·.tempBase)))
    let c := hottest (num (s.stks.map (·.tempDram)))
    some (packBits [(a.1, 12), (a.2, 4), (b.1, 12), (b.2, 4), (c.1, 12), (c.2, 4)])
  else if off = 0x300 then some (packBits [(f.update.cmd, 8), (f.update.status, 8)])
  else if off = 0x308 then
    let st := match f.update.st with
      | .idle => 0 | .verifying => 1 | .deferred => 2 | .booting => 3 | .takeover => 4 | .confirming => 5 | .commit => 6
    some (packBits [(st, 16), (f.update.lastDur, 32), (f.update.lastStatus, 8)])
  else if off = 0x310 then some (packBits [(f.update.completed, 16), (f.update.rolled, 16), (f.update.deferrals, 16)])
  else
    match arrayAt off 0x100 8 16, arrayAt off 0x180 8 8, arrayAt off 0x200 8 26 with
    | some c, _, _ => (s.clusters[c]?).map fun k => packBits [(k.temp, 16), (k.ceil, 12)]
    | _, some t, _ => (s.stks[t]?).map fun k => packBits [(k.tempBase, 16), (k.tempDram, 12), (flag k.dblRefresh, 1)]
    | _, _, some p => (f.phases[p]?).map fun k => packBits [(k.current, 16), (k.temp, 12), (k.st, 2), (railOf p, 1)]
    | _, _, _ => none

/-- BOOT (15 Tables 15.10 to 15.13). -/
def readBoot (s : State) (off : Nat) : Option Nat :=
  let b := s.boot
  if off = 0x00 then
    some (packBits [(b.step, 4), (flag b.ready, 1), (flag b.safeMode, 1), (flag b.romService, 1), (b.slot, 1), (flag b.slotAlt, 1),
      (flag s.glb.locked, 1), (flag b.reduced, 6), (b.defaulted, 16)])
  else if off = 0x08 then some (packBits [(b.cause, 8), (flag b.cold, 8), (b.attempt, 32)])
  else if off = 0x10 then some (packBits [(b.skip, 16), (b.altered, 16)])
  else if off = 0x18 then some (packBits ((List.range 16).map fun n => (tgetD n 0 b.failCount, 2)))
  else if off = 0x20 then some (packBits [(b.ctlCmd, 8), (b.ctlStatus, 8)])
  else if off = 0x28 then some (packBits [(b.newest, 16), (b.valid, 14)])
  else if off = 0x30 then some b.ledgerSel
  else if off = 0x58 then some (s.time.offsetRel % 2 ^ 64)
  else if off = 0x60 then some (packBits [(b.imgCmd, 8), (b.imgStatus, 24), (b.imgPage, 15)])
  else if off = 0x68 then some (packBits [(b.svnA, 32), (b.svnB, 32)])
  else if off = 0x70 then some (b.defaulted % 2 ^ 64)
  else
    match arrayAt off 0x38 8 4, arrayAt off 0x1000 8 512 with
    | some w, _ => some (b.ledgerData.getD w 0).toNat
    | _, some n => some (tgetD n 0 b.buf).toNat
    | _, _ => none

/-- A register's value; none where the offset is not listed. -/
def readBlock (s : State) (b : Block) (off : Nat) : Option Nat :=
  match b with
  | .glb => readGlb s off
  | .clu c => readClu s c off
  | .stk t => readStk s t off
  | .frk t => readFrk s t off
  | .str => readStr s off
  | .fls => readFls s off
  | .lnk l => readLnk s l off
  | .eth => readEth s off
  | .rood r => readRood s r off
  | .sec => readSec s off
  | .fwc => readFwc s off
  | .boot => readBoot s off

/-- A read of the register range: an unlisted offset returns zero and is logged (R15, R484); SEC_NONCE changes (R502). -/
def readReg (a : Nat) (s : State) : Word × State :=
  match blockOf a with
  | none => (0, regUnmapped Blk.glb a 0 s)
  | some (b, off) =>
    if b = .sec ∧ off = 0x50 then
      let (v, s) := readNonce s
      (w64 v, s)
    else
      match readBlock s b off with
      | some v => (w64 v, s)
      | none => (0, regUnmapped (blockId s b) a 0 s)

/-! ### Writes by access type (00 R12, R13) -/

/-- A 1 clears a bit of a status word, but not one that the hardware set in the same clock, the stamp now (R13; log 70). -/
def w1c (now : Nat) (e : Sticky) (v : Word) : Sticky := { e with bits := e.bits &&& ~~~(v &&& ~~~lateBits now e) }

/-- What a block does with a write of one of its registers: RO registers ignore it. -/
inductive WriteKind where
  | ro | w1c | rw | rwl | fw
  deriving DecidableEq, Repr

/-- Access type of a listed register (the Access columns of the register tables). -/
def accessOf (b : Block) (off : Nat) : WriteKind :=
  match b with
  | .glb => if off = 0x38 then .w1c else if off = 0x68 then .rw else .ro
  | .clu _ => if off = 0x60 then .w1c else if off = 0x18 then .rwl else .ro
  | .stk _ => if off = 0x40 then .w1c else .ro
  | .frk _ => if off = 0x8040 then .w1c else if off = 0x8038 then .rwl else .ro
  | .str => if off = 0x10 then .w1c else if off = 0x08 then .rwl else if 0x800 ≤ off ∧ off < 0xC00 then .rw else .ro
  | .fls => if off = 0x40 then .w1c else if off = 0x180 then .rwl else .ro
  | .lnk l => if l = 255 then (if off = 0x20 then .w1c else if off = 0x18 then .rwl else .ro) else if off = 0x18 then .w1c else .ro
  | .eth =>
    if off = 0x58 then .w1c else if off = 0x40 then .fw
    else if off = 0x08 ∨ off = 0x10 ∨ off = 0x38 ∨ off = 0x48 ∨ off = 0x50 then .rwl else .ro
  | .rood _ =>
    if off = 0xB0 then .w1c
    else if off = 0x08 ∨ (0x50 ≤ off ∧ off ≤ 0x80) ∨ off = 0x98 ∨ off = 0xA0 ∨ off = 0xA8 ∨ 0x100 ≤ off then .fw else .ro
  | .sec => if off = 0x80 then .w1c else if (0x50 ≤ off ∧ off < 0x80) ∨ (0x200 ≤ off ∧ off < 0x1000) then .fw else .ro
  | .fwc => if off = 0x40 then .w1c else if off = 0x18 ∨ off = 0x20 ∨ off = 0x300 then .fw else .ro
  | .boot => if off = 0x20 ∨ off = 0x30 ∨ (0x38 ≤ off ∧ off < 0x58) ∨ off = 0x60 ∨ 0x1000 ≤ off then .fw else .ro

/-- Clear the bits of a W1C register. -/
def clearBits (b : Block) (v : Word) (s : State) : State :=
  match b with
  | .glb => modGlb (fun k => { k with err := w1c s.time.now k.err v }) s
  | .clu c => modCluster c (fun k => { k with err := w1c s.time.now k.err v }) s
  | .stk t => modStack t (fun k => { k with err := w1c s.time.now k.err v }) s
  | .frk t => modStack t (fun k => { k with frkErr := w1c s.time.now k.frkErr v }) s
  | .str => modStreams (fun k => { k with err := w1c s.time.now k.err v }) s
  | .fls => modFlash (fun k => { k with err := w1c s.time.now k.err v }) s
  | .lnk l => if l = 255 then modFab (fun k => { k with err := w1c s.time.now k.err v }) s else modLink l (fun k => { k with err := w1c s.time.now k.err v }) s
  | .eth => modEth (fun k => { k with err := w1c s.time.now k.err v }) s
  | .rood r => modRood r (fun k => { k with err := w1c s.time.now k.err v }) s
  | .sec => modSec (fun k => { k with err := w1c s.time.now k.err v }) s
  | .fwc => modFwc (fun k => { k with err := w1c s.time.now k.err v }) s
  | .boot => s

/-- Set an RWL register before the start-up lock (R487). -/
def setLocked (b : Block) (off v : Nat) (s : State) : State :=
  match b with
  | .clu c => modCluster c (fun k => { k with coreEn := bits v 0 4, waitGate := bit v 4 }) s
  | .frk t => modStack t (fun k => { k with fallback := bits v 0 16 }) s
  | .str => modStreams (fun k => { k with horizon := bits v 0 32 }) s
  | .fls => modFlash (fun k => { k with rdDisturb := bits v 0 32 }) s
  | .lnk _ => modFab (fun k => { k with timeout := bits v 0 16 }) s
  | .eth =>
    modEth (fun e =>
      if off = 0x38 then { e with mgmtPort := bits v 0 16 }
      else if off = 0x48 then { e with interval := bits v 0 16, missed := bits v 16 8 }
      else if off = 0x50 then { e with quarThreshold := bits v 0 16, quarWindow := bits v 16 16, quarDuration := bits v 32 16 }
      else { e with ports := e.ports.set ((off - 8) / 8) (portFields v) }) s
  | _ => s

/-- Set an RW register: GLB_SCRATCH, or a bucket, whose BURST is stored as 8 KiB where it is smaller, and which applies at a
furlong boundary (07 R222). -/
def setPlain (b : Block) (off : Nat) (v : Word) (s : State) : State :=
  match b with
  | .glb => modGlb (fun k => { k with scratch := v }) s
  | .str =>
    let i := bktKey ((off - 0x800) / 0x40) ((off - 0x800) % 0x40 / 8)
    modStreams (fun k => { k with
      buckets := tset i { tgetD i {} k.buckets with
        written := w64 (bits v.toNat 0 32 + 2 ^ 32 * max 8 (bits v.toNat 32 16)), pending := true } k.buckets }) s
  | _ => s

/-! ### Writes handled by firmware -/

/-- ROOD registers (13 Tables 13.17, 13.19). -/
def writeRood (r off : Nat) (v : Word) (s : State) : State :=
  let n := v.toNat
  if off = 0x08 then
    if bits n 0 3 = 1 then createRood r s
    else if bits n 0 3 = 2 then resetRood r s
    else if bits n 0 3 = 3 then removeRood r s
    else s
  else if off = 0x80 then resizeArm r (bits n 0 48) s
  else if off = 0x98 then modRood r (fun k => { k with pendPlan := n + 2 ^ 64 * (k.pendPlan / 2 ^ 64) }) s
  else if off = 0xA0 then modRood r (fun k => { k with pendPlan := k.pendPlan % 2 ^ 64 + 2 ^ 64 * bits n 0 16 }) s
  else if off = 0xA8 then planArm r (bits n 0 48) s
  else if off = 0x120 then
    let tbl := bits n 2 2
    let idx := bits n 16 12
    match bits n 0 2 with
    | 0 => tableRead r tbl idx s
    | 1 => tableWrite r tbl idx s
    | 2 => tableDelete r tbl idx s
    | _ => tblDone r 3 tbl idx Sts.protocolViolation s
  else
    match arrayAt off 0x50 8 6, arrayAt off 0x100 8 4 with
    | some i, _ => modRood r (fun k => { k with pend := writeRes i n k.pend }) s
    | _, some w => modRood r (fun k => { k with tblData := k.tblData.set w v }) s
    | _, _ => s

/-- SEC registers but for SEC_DBG_CTL (17 Table 17.13). -/
def writeSec (off : Nat) (v : Word) (s : State) : State :=
  let n := v.toNat
  if off = 0x58 then
    if bits n 0 2 = 1 then requestReport s else if bits n 0 2 = 2 then selectPiece (bits n 2 2) (bits n 4 4) s else s
  else if off = 0x300 then
    match bits n 0 2 with
    | 1 => enterD1 s
    | 2 => presentGrant s
    | 3 => leaveGrant (bits n 4 2) s
    | _ => s
  else if off = 0x308 then
    match bits n 0 2 with
    | 1 => toS1 s
    | 2 => toS2 s
    | 3 => toS3 s
    | _ => s
  else if off = 0x408 then modSec (fun k => { k with dbgAddr := n % 2 ^ 48 }) s
  else
    match arrayAt off 0x60 8 4, arrayAt off 0x200 8 28, arrayAt off 0x410 8 8 with
    | some i, _, _ => modSec (fun k => { k with rptNonce := k.rptNonce.set i v }) s
    | _, some i, _ => modSec (fun k => { k with grant := tset i v k.grant }) s
    | _, _, some i => modSec (fun k => { k with dbgData := tset i v k.dbgData }) s
    | _, _, _ => s

/-- FWC_PSTATE_CTL: FLOOR takes 0, 2 or 3; REQ = P4 acts, REQ = P0 out of P4 is carried out by REQ_P0 (16 Table 16.11). -/
def writePstate (n : Nat) (s : State) : State :=
  let fl := bits n 3 3
  let s := if fl = 0 ∨ fl = 2 ∨ fl = 3 then modFwc (fun f => { f with floor := fl }) s else s
  if bits n 0 3 = 4 then requestP4 s
  else if bits n 0 3 = 0 then
    if s.fwc.pstate = 4 ∧ !s.boot.safeMode then holdReq 0 (modFwc (fun f => { f with reqCmd := 0 }) s) else requestP0 [] [] s
  else s

/-- FWC_UPDATE_CTL: ACTIVATE is carried out by ACTIVATE, which sees the slot (16 Table 16.11). -/
def writeUpdate (n : Nat) (s : State) : State :=
  if bits n 0 2 = 1 then
    let s := modFwc (fun f => { f with update := { f.update with cmd := 1 } }) s
    if s.fwc.update.st ≠ .idle then refuseActivate Sts.handoffBusy s
    else modFwc (fun f => { f with update := { f.update with status := Sts.deferred } }) s
  else if bits n 0 2 = 2 then cancelUpdate s
  else s

/-- BOOT_CTL: MODULE, COLD and RETRY_SAFE are carried out by their own commands, which see the start (15 Table 15.12). -/
def writeBootCtl (n : Nat) (s : State) : State :=
  let cmd := bits n 0 3
  if cmd = 0 ∨ 4 < cmd then s
  else if s.boot.ctlBusy.isSome then ctlDone cmd Sts.roodBusy s
  else if cmd = 3 then clearRemedies s
  else if cmd = 4 ∧ !s.boot.safeMode then ctlDone 4 Sts.notInSafeMode s
  else ctlDone cmd Sts.deferred (modBoot (fun b => { b with ctlBusy := some cmd }) s)

/-- BOOT registers (15 Tables 15.10 to 15.13); COMMIT is carried out by COMMIT, which sees the slots. -/
def writeBoot (off : Nat) (v : Word) (s : State) : State :=
  let n := v.toNat
  if off = 0x20 then writeBootCtl n s
  else if off = 0x30 then selectLedger v s
  else if off = 0x60 then
    let s := modBoot (fun b => { b with imgPage := bits n 32 15 }) s
    if bits n 0 2 = 1 then writePage (bits n 32 15) s else if bits n 0 2 = 2 then imgDone 2 Sts.deferred s else s
  else
    match arrayAt off 0x1000 8 512 with
    | some i => modBoot (fun b => { b with buf := tset i v b.buf }) s
    | none => s

/-- A register that firmware handles. -/
def writeFirmware (b : Block) (off : Nat) (v : Word) (s : State) : State :=
  match b with
  | .eth => modEth (fun e => { e with session := { e.session with phase := bits v.toNat 2 2 } }) s
  | .rood r => writeRood r off v s
  | .sec => writeSec off v s
  | .fwc => if off = 0x18 then writePstate v.toNat s else if off = 0x20 then writeCap v s else writeUpdate v.toNat s
  | .boot => writeBoot off v s
  | _ => s

/-- Whether a register is listed; SEC_NONCE is. -/
def isListed (s : State) (b : Block) (off : Nat) : Bool := (b == .sec && off == 0x50) || (readBlock s b off).isSome

/-- A write of the register range but for SEC_DBG_CTL (R12 to R15, R484, R487). -/
def writeRegCore (a : Nat) (v : Word) (s : State) : State :=
  match blockOf a with
  | none => regUnmapped Blk.glb a 1 s
  | some (b, off) =>
    if !isListed s b off then regUnmapped (blockId s b) a 1 s
    else
      match accessOf b off with
      | .ro => s
      | .w1c => clearBits b v s
      | .rw => setPlain b off v s
      | .rwl => if s.glb.locked then lockedWrite (blockId s b) a s else setLocked b off v.toNat s
      | .fw => writeFirmware b off v s

/-! ### Debug access (17 R503; 13 Tables 13.12, 13.13) -/

/-- A debug command ends: STATUS, and the error bit of a refusal. -/
def dbgDone (cmd st : Nat) (s : State) : State :=
  let s := modSec (fun k => { k with dbgCtl := w64 (cmd + 2 ^ 8 * st) }) s
  if st = Sts.notPermitted then raiseSec 3 s else s

/-- DEBUG_ACCESS, and the power state that the access brings (Table 13.12; 16 R472). -/
def dbgAccepted (cmd : Nat) (s : State) : State :=
  let s := logSec 0x0E (if s.sec.debug = 2 then s.sec.d2Rood else noRood) (packLe [(cmd, 1), (0, 1), (s.sec.dbgAddr % 2 ^ 48, 6)]) s
  if s.fwc.pstate = 3 then changePstate 2 4 s else s

/-- Whether a place of the module holds the 64 bytes. -/
def dbgPlaceOk (s : State) (a : Nat) (write : Bool) : Bool :=
  match placeOf a 64 with
  | .scratch c _ => c < 16
  | .bank c o => c < 16 && (!write || (bankOf s c (o / 0x10000)).st == .held)
  | .stk _ o => o + 64 ≤ stackSize
  | .regs _ | .flash _ | .unmapped => false

/-- What a debug access of 64 bytes at SEC_DBG_ADDR meets. -/
inductive DbgReach where
  | mem | regs
  | refuse (status : Nat)
  deriving DecidableEq, Repr

/-- D2 reaches the granted rood's scratchpads, banks and stack regions; D3 everything but the erased keys' flash. In P4 D3 reaches
the firmware complex, the NOR and the flash controller only. The address is a multiple of 64; of two refusals the higher ranks
(00 R20). -/
def dbgReach (s : State) (write : Bool) : DbgReach :=
  let a := s.sec.dbgAddr % 2 ^ 48
  let p4 := s.fwc.pstate == 4
  let there : DbgReach :=
    if s.sec.debug < 2 then .refuse Sts.notPermitted
    else
      match placeOf a 64 with
      | .regs o =>
        let fw := (0x3800000 ≤ o && o < 0x4000000) || (0x700000 ≤ o && o < 0x700188)
        if s.sec.debug = 3 ∧ (!p4 ∨ fw) then .regs else .refuse Sts.notPermitted
      | .flash _ => if s.sec.debug = 3 then .refuse Sts.keyRevoked else .refuse Sts.notPermitted
      | .unmapped => .refuse Sts.notPermitted
      | .scratch _ _ | .bank _ _ | .stk _ _ =>
        if !dbgPlaceOk s a write ∨ p4 then .refuse Sts.notPermitted
        else if s.sec.debug = 3 ∨ grant s s.sec.d2Rood a 64 = .ok then .mem
        else .refuse Sts.notPermitted
  if a % 64 = 0 then there
  else match there with | .refuse st => .refuse (statusMax st Sts.protocolViolation) | _ => .refuse Sts.protocolViolation

/-- A refused debug access; one outside Table 1.5 is logged (R499). -/
def dbgRefused (cmd st : Nat) (s : State) : State :=
  let a := s.sec.dbgAddr % 2 ^ 48
  let s := if st = Sts.notPermitted ∧ 2 ≤ s.sec.debug ∧ placeOf a 64 = .unmapped then
      logUnmapped a 0 (if s.sec.debug = 2 then s.sec.d2Rood else noRood) s
    else s
  dbgDone cmd st s

/-- SEC_DBG_CTL READ. -/
def debugRead (s : State) : State :=
  let a := s.sec.dbgAddr % 2 ^ 48
  match dbgReach s false with
  | .refuse st => dbgRefused 1 st s
  | .mem =>
    let s := dbgAccepted 1 s
    let bs := rdBytes s a 64
    dbgDone 1 Sts.ok (modSec (fun k => { k with dbgData := (List.range 8).map fun i => (i, w64 (field bs (8 * i) 8)) }) s)
  | .regs =>
    let s := dbgAccepted 1 s
    let (ws, s) := (List.range 8).foldl (fun p i => let q := readReg (a + 8 * i) p.2; (p.1 ++ [(i, q.1)], q.2)) (([] : Table Word), s)
    dbgDone 1 Sts.ok (modSec (fun k => { k with dbgData := ws }) s)

/-- How the stack takes a debug WRITE at a: no write of any source reaches a locked range (04 R105), and no kind but RAW lists a
writer other than its own (07 R209). DEDUCED: RAW takes a debug WRITE as that of its rood, and D3, which reaches any address, an
address that no region covers (log 74). -/
def debugCheck (s : State) (a : Nat) : WriteCheck :=
  if s.sec.debug = 3 ∧ (regionAt s a).isNone ∧ (lockMeets s a 64).isNone then .ok else writeCheck s .debug a 64

/-- The rood of a debug access: the granted one, or that of the region it names. -/
def debugRood (s : State) (a : Nat) : Nat :=
  if s.sec.debug = 2 then s.sec.d2Rood else match regionAt s a with | some g => g.rood | none => noRood

/-- SEC_DBG_CTL WRITE. -/
def debugWrite (s : State) : State :=
  let a := s.sec.dbgAddr % 2 ^ 48
  let word (i : Nat) : Word := tgetD i 0 s.sec.dbgData
  match dbgReach s true with
  | .refuse st => dbgRefused 2 st s
  | .mem =>
    let go : State := dbgDone 2 Sts.ok (wrBytes a ((List.range 8).flatMap fun i => leBytes 8 (word i).toNat) (dbgAccepted 2 s))
    match placeOf a 64 with
    | .stk _ _ =>
      (match debugCheck s a with
        | .ok => go
        | c => dbgRefused 2 Sts.notPermitted (logRefused c a (debugRood s a) s))
    | _ => go
  | .regs => dbgDone 2 Sts.ok (forAll (List.range 8) (fun i => writeRegCore (a + 8 * i) (word i)) (dbgAccepted 2 s))

/-- A register of a core: 0-31 integer, 32-63 floating point, 64 pc. -/
def coreReg (k : Core) (i : Nat) : Word := if i < 32 then tgetD i 0 k.x else if i < 64 then tgetD (i - 32) 0 k.f else w64 k.pc

/-- Write a register of a core; x0 stays zero. -/
def setCoreReg (i : Nat) (v : Word) (k : Core) : Core :=
  if i = 0 then k
  else if i < 32 then { k with x := tset i v k.x }
  else if i < 64 then { k with f := tset (i - 32) v k.f }
  else { k with pc := v.toNat % 2 ^ 48 }

/-- A core runs on after a halt: in the state that its wait gives. -/
def coreGoesOn (k : Core) : Core :=
  { k with st := if k.run.isNone then .idle else match k.wait with | some (.summary _ _) => .waitSummary | some (.issue _ _) => .waitGill | _ => .running }

/-- What core n of cluster c does with a tensor-issue word whose unused register fields are 0 (`unused`), `t` being its effect: with a field
that is not 0 the word is illegal (06 R194). -/
def retireTi (c n : Nat) (unused : Bool) (t : Answer) (s : State) : State :=
  if unused then doneOr s t else trapCore c n .plain mcIllegal 0 s

/-- Core n of cluster c retires the tensor-issue instruction of word w (06 R194, Table 6.14): custom-0 in R-type form, where any
other encoding, and a register field that the instruction does not use, is illegal. -/
def tiStep (c n w : Nat) (s : State) : State :=
  let x := match coreAt s c n with | some k => k.x | none => []
  let rd := bits w 7 5
  let a := bits w 15 5
  let b := bits w 20 5
  let va : Word := tgetD a 0 x
  let vb : Word := tgetD b 0 x
  match bits w 12 3, bits w 25 7 with
  | 0, 0 => retireTi c n (b = 0) (execTiIssue c n rd va s) s
  | 1, 0 => retireTi c n (b = 0) (execTiWait c n rd va s) s
  | 1, 1 => retireTi c n (b = 0) (execTiPoll c n rd va s) s
  | 1, 2 => retireTi c n (rd = 0 && a = 0 && b = 0) (execTiFence c n s) s
  | 2, 0 => retireTi c n (rd = 0) (execTiScw c n va vb s) s
  | 2, 1 => retireTi c n (b = 0) (execTiScr c n rd va s) s
  | 3, 0 => retireTi c n (b = 0) (execTiSumrd c n rd va s) s
  | 3, 1 => retireTi c n (b = 0) (execTiSumst c n rd va s) s
  | 3, 2 => retireTi c n (rd = 0) (execTiSumwait c n va vb s) s
  | 4, 0 => retireTi c n (a = 0 && b = 0) (execTiRod c n rd s) s
  | 4, 1 => retireTi c n (b = 0) (execTiRodwait c n rd va s) s
  | 5, 0 => retireTi c n (b = 0) (execTiSyncrd c n rd va s) s
  | 5, 1 => retireTi c n (rd = 0) (execTiSyncadd c n va vb s) s
  | 5, 2 => retireTi c n (rd = 0) (execTiSyncset c n va vb s) s
  | 6, 0 => retireTi c n (rd = 0 && b = 0) (execTiExit c n va s) s
  | _, _ => trapCore c n .plain mcIllegal 0 s

/-- One step of a halted core that runs a program: a fetch outside its own scratchpad faults (05 R158), custom-1 to custom-3 are
illegal (06 R194). The core is halted again, unless its program has ended. -/
def coreSteps (c n : Nat) (s : State) : State :=
  match coreAt s c n with
  | none => s
  | some k =>
    if k.run.isNone || k.wait.isSome then (if k.wait.isSome then s else freeStep c n s)
    else
      let s := modCore c n (fun k => { k with st := .running }) s
      let w := rdLe s k.pc 4
      let t :=
        match coreReach s c mcFetchFault k.pc with
        | .fetch => trapCore c n .plain mcFetchFault k.pc s
        | .pmp | .refused | .ring => trapCore c n .pmp mcFetchFault k.pc s
        | .ok =>
          if w % 128 = 0x0B then tiStep c n w s
          else if w % 128 = 0x2B ∨ w % 128 = 0x5B ∨ w % 128 = 0x7B then trapCore c n .plain mcIllegal 0 s
          else rvStep c n w s
      modCore c n (fun k => if k.run.isSome then { k with st := .stopped } else k) t

/-- SEC_DBG_CTL CORE. -/
def debugCore (s : State) : State :=
  let a := s.sec.dbgAddr
  let c := bits a 0 4
  let n := bits a 4 2
  let act := bits a 6 2
  let reg := bits a 8 8
  let st : CoreState := match s.clusters[c]? with | some q => (q.cores.getD n {}).st | none => .idle
  if s.sec.debug < 2 ∨ (s.sec.debug = 2 ∧ !ownsCluster s s.sec.d2Rood c) ∨ s.fwc.pstate = 4 then dbgDone 3 Sts.notPermitted s
  else if act = 3 ∧ 64 < reg then dbgDone 3 Sts.protocolViolation s
  else
    let s := dbgAccepted 3 s
    let s :=
      match act with
      | 0 => modCore c n (fun k => { k with st := .stopped }) s
      | 1 => if st = .stopped then coreSteps c n s else s
      | 2 => if st = .stopped then modCore c n coreGoesOn s else s
      | _ =>
        if bit a 16 then modCore c n (setCoreReg reg (tgetD 0 0 s.sec.dbgData)) s
        else
          match s.clusters[c]? with
          | some k => modSec (fun q => { q with dbgData := tset 0 (coreReg (k.cores.getD n {}) reg) q.dbgData }) s
          | none => s
    dbgDone 3 Sts.ok s

/-- A write of the register range (R12 to R15). -/
def writeReg (a : Nat) (v : Word) (s : State) : State :=
  if a = 0x3000400 then
    match bits v.toNat 0 2 with
    | 1 => debugRead s
    | 2 => debugWrite s
    | 3 => debugCore s
    | _ => s
  else writeRegCore a v s

/-! ### Meanings -/

/-- REGISTER_WRITE (00 R12). -/
def execRegisterWrite (addr : Nat) (v : Word) (s : State) : Answer := .next (writeReg addr v s)
/-- DEBUG_READ (17 R503). -/
def execDebugRead (s : State) : Answer := .next (debugRead s)
/-- DEBUG_WRITE (17 R503). -/
def execDebugWrite (s : State) : Answer := .next (debugWrite s)
/-- CORE (17 R503). -/
def execCore (s : State) : Answer := .next (debugCore s)

end Sys2Proof.Machine
end

