-- ==== Sys2Proof/Machine/Window.lean ====
section
/-! DEFINITION. The emulated register window: messages and replies, window pages, apertures, mailboxes, queue pair and exposed region
commands, attachment and its loss (12 R381 to R386; 13 R408; 17 R488 to R497). -/
namespace Sys2Proof.Machine

/-! ### Selectors and readings of the window pages (17 Tables 17.5, 17.6) -/

/-- The module window. -/
abbrev moduleWin : Nat := 0xFF

/-- Staging of a mailbox: 0 key or model, 1 training; path 0 MGMT, 1 UDP. -/
def stageKey (w mbox path : Nat) : Nat := 4 * w + 2 * mbox + path

def stageWord (s : State) (w mbox path i : Nat) : Word := tgetD i 0 (tgetD (stageKey w mbox path) [] s.win.staging)

/-- Aperture base of a window's path (R490). -/
def apbase (s : State) (w path : Nat) : Nat := tgetD (2 * w + path) 0 s.win.apbase

/-- A base is in reach of a window: a rood window's aperture lies wholly in the CLU block of a cluster that the rood owns. -/
def baseOk (s : State) (w base : Nat) : Bool :=
  w == moduleWin ||
    (0x100000 ≤ base && (base - 0x100000) / 0x10000 < 16 && base % 0x10000 ≤ 0x8000 && ownsCluster s w ((base - 0x100000) / 0x10000))

/-- The 32 bytes of an event record (10 Table 10.6). -/
def eventBytes (s : State) (e : Event) : List Byte :=
  leBytes 8 e.stamp ++ leBytes 6 (rodOf s e.stamp) ++ leBytes 2 (eraOf s e.stamp) ++ leBytes 2 e.block ++ leBytes 2 e.code ++
    leBytes 1 e.rood ++ leBytes 1 e.severity ++ leBytes 2 e.seq ++ leBytes 8 e.payload

/-- Where reading starts: TAIL, or the oldest record held where TAIL lies further back (R493). -/
def eventTail (s : State) : Nat :=
  let v := s.events
  if before 32 v.tail (v.head + 2 ^ 32 - ringSize) then (v.head + 2 ^ 32 - v.ring.length) % 2 ^ 32 else v.tail

/-- The record with an index; one not written reads as zeros. -/
def eventRecord (s : State) (n : Nat) : List Byte :=
  let back := dist 32 s.events.head n
  match (if back = 0 ∨ s.events.ring.length < back then none else s.events.ring[s.events.ring.length - back]?) with
  | some e => eventBytes s e
  | none => List.replicate 32 0

/-- The 16 bytes of a repair map entry (14 Table 14.1). -/
def repairBytes (e : RepairEntry) : List Byte :=
  leBytes 1 e.kind ++ leBytes 1 (e.st % 4 + 4 * (e.cause % 64)) ++ leBytes 2 e.unit ++ leBytes 2 e.logical ++ leBytes 2 e.physical ++
    leBytes 8 e.stamp

/-- WIN_DIG_DATA of the selected binding (14 R431). -/
def digestWord (s : State) (r i : Nat) : Nat :=
  match tfind (match s.roods[r]? with | some k => k.digSel | none => 0) s.binds with
  | none => 0
  | some b =>
    if b.rood ≠ r then 0
    else if i = 0 then b.digestStep
    else if i = 1 then b.version % 2 ^ 32 + 2 ^ 63 * flag b.digestValid
    else b.digest / 2 ^ (64 * (i - 2)) % 2 ^ 64

/-- A register of the module's window page; none where the offset is not listed. -/
def readModulePage (s : State) (path off : Nat) : Option Nat :=
  if off = 0x000 then some (0x01000000 + 2 ^ 8 * (s.eth.session.num % 2 ^ 16) + moduleWin)
  else if off = 0x018 then some (flag (inHandoff s) + 2 * flag s.boot.safeMode)
  else if off = 0x180 then some (s.sec.keyStatus % 256 + 2 ^ 32 * (s.sec.keyCounter % 2 ^ 32))
  else if off = 0x200 then some (s.events.head + 2 ^ 32 * s.events.lost)
  else if off = 0x208 then some s.events.tail
  else if off = 0x300 then some (s.repair.length % 2 ^ 16 + 2 ^ 16 * (s.repairSeq % 2 ^ 32))
  else if off = 0x308 then some s.win.mapSel
  else
    match arrayAt off 0x008 8 2, arrayAt off 0x100 8 16, arrayAt off 0x280 8 16, arrayAt off 0x310 8 2 with
    | some i, _, _, _ => some (apbase s moduleWin i)
    | _, some i, _, _ => some (stageWord s moduleWin 0 path i).toNat
    | _, _, some i, _ => some (field (eventRecord s (eventTail s + i / 4)) (8 * (i % 4)) 8)
    | _, _, _, some i => some (match s.repair[s.win.mapSel]? with | some e => field (repairBytes e) (8 * i) 8 | none => 0)
    | _, _, _, _ => none

/-- A mailbox register, from the mailbox's first offset. -/
def readBox (s : State) (r mbox path off : Nat) : Option Nat :=
  let m := boxOf s (if mbox = 0 then .model else .training) r
  if off = 0x80 then some (m.seq + 2 ^ 32 * m.written)
  else if off = 0x88 then some m.sel
  else
    match arrayAt off 0 8 16, arrayAt off 0x90 8 4 with
    | some i, _ => some (stageWord s r mbox path i).toNat
    | _, some w => some ((selectedReply m).getD w 0).toNat
    | _, _ => none

/-- A register of the window page of rood r. -/
def readRoodPage (s : State) (r path off : Nat) : Option Nat :=
  let k := s.roods.getD r {}
  if off = 0x000 then some (0x01000000 + 2 ^ 8 * (s.eth.session.num % 2 ^ 16) + r)
  else if 0x100 ≤ off ∧ off < 0x1B0 then readBox s r 0 path (off - 0x100)
  else if 0x200 ≤ off ∧ off < 0x2B0 then readBox s r 1 path (off - 0x200)
  else if off = 0x300 then some k.qpCmd.toNat
  else if off = 0x380 then some k.xrCmd.toNat
  else if off = 0x400 then some k.digSel
  else
    match arrayAt off 0x008 8 2, arrayAt off 0x308 8 5, arrayAt off 0x388 8 3, arrayAt off 0x408 8 8 with
    | some i, _, _, _ => some (apbase s r i)
    | _, some w, _, _ => some (k.qpData.getD w 0).toNat
    | _, _, some w, _ => some (k.xrData.getD w 0).toNat
    | _, _, _, some i => some (digestWord s r i)
    | _, _, _, _ => none

def readPage (s : State) (w path off : Nat) : Option Nat :=
  if w = moduleWin then readModulePage s path off else readRoodPage s w path off

/-! ### Queue pairs (17 R496, Table 17.7) -/

def qpStateCode : QpState → Nat
  | .reset => 0 | .rts => 1 | .error => 2

def qpState (n : Nat) : QpState := if n = 1 then .rts else if n = 2 then .error else .reset

/-- Word i of WIN_QP_DATA. -/
def qpWord (s : State) (r i : Nat) : Nat := ((s.roods.getD r {}).qpData.getD i 0).toNat

/-- A context from WIN_QP_DATA, with the STATE it asks for. -/
def qpOfWords (r : Nat) (d : Nat → Nat) : Qp where
  rood := r
  pid := bits (d 0) 16 20
  role := bits (d 0) 36 2
  iface := bits (d 0) 38 2
  ipv6 := bit (d 0) 42
  ip := if bit (d 0) 42 then d 1 + 2 ^ 64 * d 2 else d 1 % 2 ^ 32
  rqpn := bits (d 3) 0 24
  saIn := bits (d 3) 24 12
  saOut := bits (d 3) 36 12
  ackTimeout := bits (d 3) 48 5
  retryCnt := bits (d 3) 53 3
  rnrRetry := bits (d 3) 56 3
  maxRd := bits (d 3) 59 4 + 1
  sqPsn := bits (d 4) 0 24
  rqPsn := bits (d 4) 24 24
  input := bits (d 4) 48 12
  st := qpState (bits (d 0) 40 2)

/-- WIN_QP_DATA of a context. -/
def wordsOfQp (q : Nat) (k : Qp) : List Word :=
  [w64 (packBits [(q, 16), (k.pid, 20), (k.role, 2), (k.iface, 2), (qpStateCode k.st, 2), (flag k.ipv6, 1)]),
    w64 (k.ip % 2 ^ 64), w64 (k.ip / 2 ^ 64),
    w64 (packBits [(k.rqpn, 24), (k.saIn, 12), (k.saOut, 12), (k.ackTimeout, 5), (k.retryCnt, 3), (k.rnrRetry, 3), (k.maxRd - 1, 4)]),
    w64 (packBits [(k.sqPsn, 24), (k.rqPsn, 24), (k.input, 12)])]

/-- No field holds a value outside its range (Tables 12.3, 17.7). -/
def qpFormOk (d : Nat → Nat) : Bool :=
  bits (d 0) 36 2 != 3 && bits (d 0) 40 2 != 3 && 8 ≤ bits (d 3) 48 5 && bits (d 3) 48 5 ≤ 20 && bits (d 3) 56 3 != 7

/-- STATUS of WIN_QP_CMD. -/
def qpDone (r op st : Nat) : State → State := modRood r fun k => { k with qpCmd := w64 (op + 2 ^ 32 * st) }

/-- The window of rood r takes commands: a session, and rights to it (12 R382; 13 Table 13.13). -/
def windowOpen (s : State) (w : Nat) : Bool :=
  inSession s && !s.boot.safeMode && (w == moduleWin || (w < 16 && s.sec.state != 3))

/-- Run a queue pair command of an ACTIVE rood. -/
def onQp (r op : Nat) (f : Rood → State → Nat × State) (s : State) : State :=
  match s.roods[r]? with
  | none => s
  | some k =>
    if !windowOpen s r then s
    else if k.st ≠ .active then qpDone r op (notActive s r) s
    else
      let (st, s) := f k s
      qpDone r op st s

/-- The queue pair that WIN_QP_DATA0 names, if it is the rood's. -/
def namedQp (s : State) (r : Nat) : Option (Nat × Qp) :=
  match qpOf s (qpWord s r 0 % 2 ^ 16) with
  | some k => if k.rood = r then some (qpWord s r 0 % 2 ^ 16, k) else none
  | none => none

/-- READ. -/
def readQp (r : Nat) (s : State) : State :=
  onQp r 0 (fun _ s =>
    match namedQp s r with
    | none => (Sts.notPermitted, s)
    | some (q, k) => (Sts.ok, modRood r (fun d => { d with qpData := wordsOfQp q k }) s)) s

/-- CREATE. -/
def createQp (r : Nat) (s : State) : State :=
  onQp r 1 (fun k s =>
    let d := qpWord s r
    let n := qpOfWords r d
    let st := statusMax (if qpFormOk d then Sts.ok else Sts.protocolViolation) (if ownPid s r n.pid then Sts.ok else Sts.notPermitted)
    if st ≠ Sts.ok then (st, s)
    else if 16 * k.res.qQps ≤ (s.eth.qps.filter fun e => e.2.rood == r).length then (Sts.refusedCapacity, s)
    else
      match firstBelow 65536 fun i => (qpOf s i).isNone with
      | none => (Sts.refusedCapacity, s)
      | some q =>
        let n := { n with st := .reset }
        (Sts.ok, modRood r (fun d => { d with qpData := wordsOfQp q n }) (modEth (fun e => { e with qps := tset q n e.qps }) s))) s

/-- The INPUT region of a CLIENT queue pair: an INPUT region of the same PID. -/
def inputOk (s : State) (n : Qp) : Bool :=
  n.role != 0 || (match tfind n.input s.eth.xrs with | some x => x.rood == n.rood && x.pid == n.pid && !x.doorbell | none => false)

/-- RTS is open to a queue pair: both associations LIVE (12 R365), its partner not in quarantine (12 R380). -/
def rtsOk (s : State) (n : Qp) : Bool :=
  saLive s n.saIn true n.rood && saLive s n.saOut false n.rood && !isQuarantined s n.iface n.ip

/-- A context as it enters RTS (12 R363, R373). -/
def intoRts (s : State) (n : Qp) : Qp :=
  { n with
    reqSeq := 0, psn := n.sqPsn, nextRq := n.rqPsn, inMsg := none, rdIn := [], unacked := [], sentAt := s.time.now, retries := 0, rnrs := 0,
    withheld := [], rate := ifRate s n.iface, lastCnp := s.time.now, lastCnpSent := none }

/-- MODIFY. -/
def modifyQp (r : Nat) (s : State) : State :=
  onQp r 2 (fun _ s =>
    let d := qpWord s r
    let n := qpOfWords r d
    match namedQp s r with
    | none => (Sts.notPermitted, s)
    | some (q, k) =>
      let form := if qpFormOk d then Sts.ok else Sts.protocolViolation
      match k.st with
      | .reset =>
          let bad := !ownPid s r n.pid ∨ !inputOk s n ∨ (n.st = .rts ∧ !rtsOk s n)
          let st := statusMax form (if bad then Sts.notPermitted else Sts.ok)
          if st ≠ Sts.ok then (st, s)
          else
            let n := { n with reqSeq := k.reqSeq, regions := k.regions }
            let n := if n.st = .rts then intoRts s n else n
            (Sts.ok, modEth (fun e => { e with qps := tset q n e.qps }) s)
      | .rts => if form = Sts.ok ∧ n.st = .error then (Sts.ok, qpFail q Sts.qpError s) else (Sts.protocolViolation, s)
      | .error =>
          if form ≠ Sts.ok ∨ n.st = .rts then (Sts.protocolViolation, s) else (Sts.ok, modQp q (fun k => { k with st := n.st }) s)) s

/-- DELETE. -/
def deleteQp (r : Nat) (s : State) : State :=
  onQp r 3 (fun _ s =>
    match namedQp s r with
    | none => (Sts.notPermitted, s)
    | some (q, k) => if k.st = .rts then (Sts.resourceBusy, s) else (Sts.ok, modEth (fun e => { e with qps := tdel q e.qps }) s)) s

/-! ### Exposed regions (17 R497; 12 R369) -/

/-- Word i of WIN_XR_DATA. -/
def xrWord (s : State) (r i : Nat) : Nat := ((s.roods.getD r {}).xrData.getD i 0).toNat

/-- A region from WIN_XR_DATA. -/
def xrOfWords (r : Nat) (d : Nat → Nat) (tag : Nat) : Exposed where
  rood := r
  start := bits (d 0) 0 48
  len := bits (d 1) 0 32
  pid := bits (d 1) 32 20
  read := bit (d 0) 48
  write := bit (d 0) 49
  doorbell := bit (d 0) 50
  tag := tag

/-- WIN_XR_DATA of a region. -/
def wordsOfXr (h : Nat) (x : Exposed) : List Word :=
  [w64 (packBits [(x.start, 48), (flag x.read, 1), (flag x.write, 1), (flag x.doorbell, 1)]), w64 (packBits [(x.len, 32), (x.pid, 20)]),
    w64 (h + 4096 * x.tag)]

/-- OP, HANDLE and STATUS of WIN_XR_CMD. -/
def xrDone (r op h st : Nat) : State → State := modRood r fun k => { k with xrCmd := w64 (op + 2 ^ 16 * (h % 4096) + 2 ^ 32 * st) }

/-- Run an exposed region command of an ACTIVE rood; it answers the handle with its status. -/
def onXr (r op h : Nat) (f : State → Nat × Nat × State) (s : State) : State :=
  match s.roods[r]? with
  | none => s
  | some k =>
    if !windowOpen s r then s
    else if k.st ≠ .active then xrDone r op h (notActive s r) s
    else
      let (st, h, s) := f s
      xrDone r op h st s

/-- The region of a handle, if it is the rood's. -/
def xrOf (s : State) (r h : Nat) : Option Exposed :=
  match tfind h s.eth.xrs with
  | some x => if x.rood = r then some x else none
  | none => none

/-- READ. -/
def readXr (r h : Nat) (s : State) : State :=
  onXr r 0 h (fun s =>
    match xrOf s r h with
    | none => (Sts.notPermitted, h, s)
    | some x => (Sts.ok, h, modRood r (fun d => { d with xrData := wordsOfXr h x }) s)) s

/-- A range lies in one RAW region of rood r. -/
def inRawRegion (s : State) (r a n : Nat) : Bool :=
  match regionAt s a with
  | some g => g.kind == 1 && g.rood == r && a + n ≤ g.start + g.len * unit2M
  | none => false

/-- Checks of CREATE. -/
def xrCheck (s : State) (x : Exposed) : Nat :=
  let pv := x.len % 64 ≠ 0 ∨ x.len < 64 ∨ 2 ^ 31 < x.len ∨ !(x.read ∨ x.write) ∨ (x.doorbell ∧ x.len ≠ 32768)
  let np := !ownPid s x.rood x.pid ∨ !inRawRegion s x.rood x.start x.len
  statusMax (if pv then Sts.protocolViolation else Sts.ok)
    (statusMax (if np then Sts.notPermitted else Sts.ok) (if 4096 ≤ s.eth.xrs.length then Sts.refusedCapacity else Sts.ok))

/-- A tag other than the handle's last: a free value (log 5) apart from that. -/
def nextTag (last v : Nat) : Nat := (last + 1 + v % (2 ^ 20 - 1)) % 2 ^ 20

/-- CREATE. -/
def createXr (r : Nat) (s : State) : State :=
  let h0 := bits (s.roods.getD r {}).xrCmd.toNat 16 12
  onXr r 1 h0 (fun s =>
    let x := xrOfWords r (xrWord s r) 0
    let st := xrCheck s x
    if st ≠ Sts.ok then (st, h0, logUncovered r 0 [(x.start, x.len)] s)
    else
      match firstBelow 4096 fun i => (tfind i s.eth.xrs).isNone with
      | none => (Sts.refusedCapacity, h0, s)
      | some h =>
        let (v, s) := fresh 20 s
        let tag := nextTag (tgetD h 0 s.eth.xrTags) v
        let x := xrOfWords r (xrWord s r) tag
        (Sts.ok, h, modRood r (fun d => { d with xrData := wordsOfXr h x })
          (modEth (fun e => { e with xrs := tset h x e.xrs, xrTags := tset h tag e.xrTags }) s))) s

/-- A queue pair names a region as INPUT, or a request reads from it. -/
def xrUsed (s : State) (h : Nat) (x : Exposed) : Bool :=
  s.eth.qps.any (fun e => e.2.role == 0 && e.2.rood == x.rood && e.2.input == h) ||
    s.requests.any fun e => e.2.remote.isNone && e.2.rood == x.rood && meets e.2.recAddr e.2.recLen x.start x.len

/-- DELETE. -/
def deleteXr (r h : Nat) (s : State) : State :=
  onXr r 3 h (fun s =>
    match xrOf s r h with
    | none => (Sts.notPermitted, h, s)
    | some x => if xrUsed s h x then (Sts.resourceBusy, h, s) else (Sts.ok, h, modEth (fun e => { e with xrs := tdel h e.xrs }) s)) s

/-! ### Writes of the window pages -/

/-- A base write: one out of a rood window's reach changes nothing. -/
def putApbase (w i : Nat) (v : Nat) (s : State) : State :=
  let base := 4096 * bits v 12 16
  if baseOk s w base then modWin (fun k => { k with apbase := tset (2 * w + i) base k.apbase }) s else s

/-- A mailbox takes a record (R494): key blobs, model commands, training and recovery commands. -/
def submitRecord (w mbox : Nat) (bs : List Byte) (s : State) : State :=
  if w = moduleWin then submitBlob bs s else if mbox = 0 then submitModel w bs s else submitTraining w bs s

/-- A staging write; REC15 submits the record and clears the path's copy. -/
def putStage (w mbox path i : Nat) (v : Word) (s : State) : State :=
  let key := stageKey w mbox path
  let words := tset i v (tgetD key [] s.win.staging)
  if i = 15 then
    submitRecord w mbox ((List.range 16).flatMap fun j => leBytes 8 (tgetD j 0 words).toNat)
      (modWin (fun k => { k with staging := tdel key k.staging }) s)
  else modWin (fun k => { k with staging := tset key words k.staging }) s

/-- WIN_MDL_RPL_SEL and WIN_TRN_RPL_SEL. -/
def selectReply (r mbox v : Nat) (s : State) : State :=
  modBox (if mbox = 0 then .model else .training) r (fun m => { m with sel := v % 2 ^ 32 }) s

def writeModulePage (path off : Nat) (v : Word) (s : State) : State :=
  let n := v.toNat
  if off = 0x208 then { s with events := { s.events with tail := n % 2 ^ 32 } }
  else if off = 0x308 then modWin (fun k => { k with mapSel := n % 2 ^ 16 }) s
  else
    match arrayAt off 0x008 8 2, arrayAt off 0x100 8 16 with
    | some i, _ => putApbase moduleWin i n s
    | _, some i => putStage moduleWin 0 path i v s
    | _, _ => s

/-- WIN_QP_CMD. -/
def writeQpCmd (r n : Nat) (s : State) : State :=
  match bits n 0 2 with
  | 0 => readQp r s
  | 1 => createQp r s
  | 2 => modifyQp r s
  | _ => deleteQp r s

/-- WIN_XR_CMD. -/
def writeXrCmd (r n : Nat) (s : State) : State :=
  let h := bits n 16 12
  match bits n 0 2 with
  | 0 => readXr r h s
  | 1 => createXr r (modRood r (fun k => { k with xrCmd := w64 (2 ^ 16 * h) }) s)
  | 2 => xrDone r 2 h Sts.protocolViolation s
  | _ => deleteXr r h s

/-- The bits of WIN_QP_DATAw or WIN_XR_DATAw that Table 17.7 lists: its low width bits; the others are reserved and read as zero (00 R14). -/
def listedBits (widths : List Nat) (w : Nat) (v : Word) : Word := w64 (v.toNat % 2 ^ widths.getD w 0)

/-- A write of a register of the window page of rood r. -/
def writeRoodPage (r path off : Nat) (v : Word) (s : State) : State :=
  let n := v.toNat
  if off = 0x188 then selectReply r 0 n s
  else if off = 0x288 then selectReply r 1 n s
  else if off = 0x300 then writeQpCmd r n s
  else if off = 0x380 then writeXrCmd r n s
  else if off = 0x400 then modRood r (fun k => { k with digSel := n % 256 }) s
  else
    match arrayAt off 0x008 8 2, arrayAt off 0x100 8 16, arrayAt off 0x200 8 16, arrayAt off 0x308 8 5, arrayAt off 0x388 8 3 with
    | some i, _, _, _, _ => putApbase r i n s
    | _, some i, _, _, _ => putStage r 0 path i v s
    | _, _, some i, _, _ => putStage r 1 path i v s
    | _, _, _, some w, _ => modRood r (fun k => { k with qpData := k.qpData.set w (listedBits [43, 64, 64, 63, 60] w v) }) s
    | _, _, _, _, some w => modRood r (fun k => { k with xrData := k.xrData.set w (listedBits [51, 52, 32] w v) }) s
    | _, _, _, _, _ => s

def writeWindowPage (w path off : Nat) (v : Word) (s : State) : State :=
  if w = moduleWin then writeModulePage path off v s else writeRoodPage w path off v s

/-! ### What an offset reaches (17 Tables 17.3, 17.4, R490) -/

/-- The target of a window offset. -/
inductive WinTarget where
  | page (off : Nat)
  | reg (a : Nat)
  /-- unlisted offsets of the global block -/
  | nothing
  /-- an aperture out of the rood's reach -/
  | denied
  deriving DecidableEq, Repr

def targetOf (s : State) (w path o : Nat) : WinTarget :=
  let base := apbase s w path
  if o < 0x1000 then .page o
  else if 0x8000 ≤ o then if baseOk s w base then .reg (base + (o - 0x8000)) else .denied
  else if w ≠ moduleWin then if o < 0x2000 then .reg (0x2000000 + 0x10000 * w + (o - 0x1000)) else .nothing
  else if o < 0x2000 then .reg (o - 0x1000)
  else if o < 0x4000 then .reg (0x3000000 + (o - 0x2000))
  else if o < 0x6000 then .reg (0x3C00000 + (o - 0x4000))
  else if o < 0x7000 then .reg (0x3800000 + (o - 0x6000))
  else .nothing

/-- The register addresses that safe mode answers: BOOT, GLB and SEC; BOOT alone while the boot ROM serves it (15 R450). -/
def safeTarget (s : State) : WinTarget → Bool
  | .reg a => (0x3C00000 ≤ a && a < 0x3C02000) || (!s.boot.romService && (a < 0x1000 || (0x3000000 ≤ a && a < 0x3002000)))
  | _ => false

/-- A ROOD register that answers writes through the module window only (13 R415). -/
def moduleOnly (a : Nat) (v : Word) : Bool :=
  match blockOf a with
  | some (.rood _, off) => off == 0x08 || (0x50 ≤ off && off ≤ 0x80) || (off == 0x120 && bits v.toNat 2 2 == 3)
  | _ => false

/-- Registers whose write is a command: within one WRITE they act after the others (R491). -/
def isCommand (w : Nat) : WinTarget → Bool
  | .page off => w != moduleWin && (off == 0x300 || off == 0x380)
  | .reg a =>
    match blockOf a with
    | some (.rood _, off) => off == 0x08 || off == 0x80 || off == 0xA8 || off == 0x120
    | some (.sec, off) => off == 0x58 || off == 0x300 || off == 0x308 || off == 0x400
    | some (.boot, off) => off == 0x20 || off == 0x60
    | _ => false
  | _ => false

/-- An access to an offset with no register of its own: the address that its event names is a free value (log 5). -/
def winUnmapped (kind : Nat) (s : State) : State :=
  let (a, s) := fresh 48 s
  regUnmapped Blk.glb a kind s

/-- A window read of one register. -/
def winReadOne (w path : Nat) (t : WinTarget) (s : State) : Word × State :=
  match t with
  | .page off => match readPage s w path off with | some v => (w64 v, s) | none => (0, winUnmapped 0 s)
  | .reg a => readReg a s
  | .nothing | .denied => (0, winUnmapped 0 s)

/-- What a register holds, for WRITE_MASKED: nothing is logged and nothing changes. -/
def winPeek (s : State) (w path : Nat) (t : WinTarget) : Word :=
  match t with
  | .page off => w64 ((readPage s w path off).getD 0)
  | .reg a => match blockOf a with | some (b, off) => w64 ((readBlock s b off).getD 0) | none => 0
  | .nothing | .denied => 0

/-- A window write of one register. -/
def winWriteOne (w path : Nat) (t : WinTarget) (v : Word) (s : State) : State :=
  match t with
  | .page off => if (readPage s w path off).isSome then writeWindowPage w path off v s else winUnmapped 1 s
  | .reg a => if w ≠ moduleWin ∧ moduleOnly a v then s else writeReg a v s
  | .nothing | .denied => winUnmapped 1 s

/-! ### Messages (12 R381, R382) -/

/-- The module answers window messages. -/
def winUp (s : State) : Bool := !s.boot.down && (s.boot.ready || s.boot.safeMode) && s.pins.standby

/-- A message can arrive: on the management port or a data interface that is up, to the UDP port of ETH_MGMT_CFG, or on a MGMT queue pair
(R381; 15 R450). -/
def arrives (s : State) (m : WinMsg) : Bool :=
  let data := m.port < 4 && ethOn s && !s.boot.safeMode && (s.eth.ifs.getD m.port {}).st == 1
  winUp s && !isQuarantined s m.port m.srcIp &&
    (if m.path = 0 then
      data && (match qpOf s m.qp with
        | some k => k.role == 2 && k.st == .rts && k.iface == m.port && k.ip == m.srcIp && saLive s k.saIn true k.rood
        | none => false)
    else m.dport == s.eth.mgmtPort && (m.port == 4 || data))

/-- The loss deadline has passed (R384). -/
def isLost (s : State) : Bool :=
  inSession s && s.eth.session.lastMsg + s.eth.missed * s.eth.interval * msTicks < s.time.now

/-- Bytes of a reply (Table 12.11). -/
def replyBytes (op : Nat) (m : WinMsg) (st stamp : Nat) (data : List Word) : List Byte :=
  leBytes 1 (op % 128 + 128) ++ leBytes 1 m.window ++ leBytes 2 m.session ++ leBytes 4 m.tag ++ leBytes 2 m.offset ++ leBytes 1 m.count ++
    leBytes 1 st ++ leBytes 4 0 ++ leBytes 8 0 ++ leBytes 8 stamp ++ data.flatMap fun w => leBytes 8 w.toNat

/-- Send a reply, stamped with the access: on the queue pair, or as a datagram of the session's association (Table 12.11, R381). -/
def winReply (m : WinMsg) (st : Nat) (data : List Word) (s : State) : State :=
  let s := modEth (fun e => { e with replies := e.replies ++ [(m, st, s.time.now, data)] }) s
  if m.path = 0 then qpSend m.qp (.send m.qp (replyBytes m.op m st s.time.now data)) s
  else
    let n := frameBytes false (vidOf s m.port) (8 + 32 + 8 * data.length)
    modEth (fun e => { e with
      session := { e.session with outSeq := e.session.outSeq + (if m.spi.isSome then 1 else 0) }
      ifs := e.ifs.modify m.port fun f => { f with tx := satAdd 64 f.tx n } }) s

/-- The rood that an event about a message names: its queue pair's (R388). -/
def msgRood (m : WinMsg) (s : State) : Nat := if m.path = 0 then (match qpOf s m.qp with | some k => k.rood | none => noRood) else noRood

/-- A malformed message: a reply and a violation (Table 12.10). -/
def badMessage (m : WinMsg) (s : State) : State := winReply m Sts.protocolViolation [] (violates 14 m.port m.srcIp (msgRood m s) s)

/-- What turns a datagram away: it must come under the session's own association, fresh and intact (R366, R367, R381). The answer is the row
of Table 12.10. -/
def datagramFault (s : State) (m : WinMsg) : Option Nat :=
  match m.spi with
  | none => some 4
  | some v =>
    if v ≠ s.eth.session.spiIn ∨ !inSession s then (if (saBySpi s v).isSome then some 5 else some 2)
    else if !m.icvOk then some 1
    else if !seqFresh s.eth.session.high s.eth.session.window m.seq then some 3
    else none

/-- A datagram that is turned away counts as its row does. -/
def dropDatagram (row : Nat) (m : WinMsg) (s : State) : State :=
  violates row m.port m.srcIp noRood (modEth (fun e => { e with
    icv := if row = 1 then satInc 16 e.icv else e.icv
    unknownSpi := if row = 2 then satInc 16 e.unknownSpi else e.unknownSpi
    replay := if row = 3 then satInc 16 e.replay else e.replay }) s)

/-- A datagram's sequence number enters the session's window. -/
def noteDatagram (m : WinMsg) (s : State) : State :=
  if m.path = 0 then s
  else
    let w := windowAfter s.eth.session.high s.eth.session.window m.seq
    countRx m.port (frameBytes false (vidOf s m.port) (8 + 32 + 8 * m.data.length))
      (modEth (fun e => { e with session := { e.session with high := w.1, window := w.2 } }) s)

/-- A message of the session meets f; any other is dropped (R381), and so is one that comes after the loss deadline (R384). -/
def onMessage (m : WinMsg) (f : State → State) (s : State) : State :=
  if !arrives s m then s
  else
  match if m.path = 1 then datagramFault s m else none with
  | some row => dropDatagram row m s
  | none =>
  let s := noteDatagram m s
  if !inSession s ∨ m.session ≠ s.eth.session.num ∨ isLost s then s
  else
    let s := modEth (fun e => { e with session := { e.session with lastMsg := s.time.now, path := m.path } }) s
    if !m.formed ∨ !(m.window < 16 ∨ m.window = moduleWin) then badMessage m s else f s

/-- The range of an access is well formed (Table 12.11, R382). -/
def rangeOk (m : WinMsg) : Bool := m.offset % 8 == 0 && 1 ≤ m.count && m.count ≤ 16 && m.offset + 8 * m.count ≤ 0x10000

/-- Targets of a message. -/
def targets (s : State) (m : WinMsg) : List WinTarget := (List.range m.count).map fun i => targetOf s m.window m.path (m.offset + 8 * i)

/-- The status that turns an access away, or OK (R382; 13 Table 13.13; 15 R450). -/
def accessCheck (s : State) (m : WinMsg) : Nat :=
  if m.window ≠ moduleWin ∧ s.sec.state = 3 then Sts.notPermitted
  else if s.boot.safeMode ∧ !((targets s m).all (safeTarget s)) then Sts.safeMode
  else if (targets s m).contains .denied then Sts.notPermitted
  else Sts.ok

/-- READ. -/
def winRead (m : WinMsg) (s : State) : State :=
  onMessage m (fun s =>
    if !rangeOk m ∨ m.data ≠ [] then badMessage m s
    else
      let st := accessCheck s m
      if st ≠ Sts.ok then winReply m st [] s
      else
        let (ws, t) := (targets s m).foldl (fun p t => let q := winReadOne m.window m.path t p.2; (p.1 ++ [q.1], q.2)) (([] : List Word), s)
        winReply m Sts.ok ws t) s

/-- A base written that is out of the window's reach (R490). -/
def badBase (s : State) (w : Nat) (t : WinTarget) (v : Word) : Bool :=
  (t == .page 0x008 || t == .page 0x010) && !baseOk s w (4096 * bits v.toNat 12 16)

/-- WRITE and WRITE_MASKED: one unit; data registers first, then commands (R382, R491). -/
def winWrite (m : WinMsg) (masked : Bool) (s : State) : State :=
  onMessage m (fun s =>
    if !rangeOk m ∨ m.data.length ≠ m.count then badMessage m s
    else
      let st := accessCheck s m
      let val (t : WinTarget) (d : Word) : Word := if masked then (winPeek s m.window m.path t &&& ~~~m.mask) ||| (d &&& m.mask) else d
      let ws := ((targets s m).zip m.data).map fun e => (e.1, val e.1 e.2)
      if st ≠ Sts.ok then winReply m st [] s
      else if ws.any fun e => badBase s m.window e.1 e.2 then winReply m Sts.notPermitted [] s
      else
        let put (l : List (WinTarget × Word)) : State → State := forAll l fun e => winWriteOne m.window m.path e.1 e.2
        winReply m Sts.ok [] (put (ws.filter fun e => isCommand m.window e.1) (put (ws.filter fun e => !isCommand m.window e.1) s))) s

/-! ### Attachment (12 R383 to R386; 13 R408 to R410) -/

/-- The exchange fails: the state before it returns. -/
def attachFails (m : WinMsg) (s : State) : State :=
  let s := authFailed 1 (modEth (fun e => { e with session := { e.session with st := e.session.before, waiting := none } }) s)
  winReply m Sts.authFailed [] s

/-- The AUTH_KEY of an ATTACH is permitted; the vendor's alone where step 0 failed (R408; 15 R450). -/
def attachKeyOk (s : State) (key : List Byte) : Bool :=
  if s.boot.safeMode ∧ s.boot.step = 0 then isVendorKey key else permittedKey s key

/-- An ATTACH is accepted (R408). -/
def attachOk (s : State) (data : List Byte) : Bool :=
  let part (o n : Nat) : List Byte := (data.drop o).take n
  let rights := field data 232 1
  attachKeyOk s (part 432 96) && sigOk (part 432 96) (part 136 97) (part 240 96) &&
    sigOk (part 136 96) (leBytes 16 Config.serial ++ data.take 336) (part 336 96) && bit rights 0 &&
    (s.eth.session.before != .attached || (bit rights 1 && bit (field data 0 1) 0)) &&
    Crypto.onCurve (field data 40 48) (field data 88 48)

/-- "K2 session". -/
def sessionInfo : List Nat := [0x4B, 0x32, 0x20, 0x73, 0x65, 0x73, 0x73, 0x69, 0x6F, 0x6E]

/-- Words of bytes. -/
def wordsOf (bs : List Byte) : List Word := (List.range ((bs.length + 7) / 8)).map fun i => w64 (field bs (8 * i) 8)

/-- Replies to an ATTACH: each carries the key and the SPI, and from byte 128 a piece of the report at its OFFSET. Pieces are of 3,968 bytes,
of the 4,096 that R408 allows, so that the datagram stays within the 4,220 bytes of 12 Table 12.1 (log 49). -/
def attachReplies (m : WinMsg) (num : Nat) (eph : List Byte) (spi : Nat) (report : List Byte) (s : State) : State :=
  let head := eph ++ leBytes 4 spi ++ leBytes 28 0
  forAll (List.range (max 1 ((report.length + 3967) / 3968))) (fun i =>
    winReply { m with session := num, offset := 3968 * i } Sts.ok (wordsOf (head ++ (report.drop (3968 * i)).take 3968))) s

/-- The exchange completes: keys, session, report (R408, R409). The module's ephemeral key and its SPI are free values (log 5).
    DESIGN CHOICE (log 63): Z enters HKDF as its 48 big-endian bytes; R408 gives Z no byte order. -/
def attachDone (m : WinMsg) (data : List Byte) (waited : Bool) (s : State) : State :=
  let (f, s) := fresh 384 s
  let d := f % (Crypto.pOrd - 1) + 1
  let (spi, s) := fresh 32 s
  let pub := Crypto.pubKey d
  let eph := leBytes 48 pub.1 ++ leBytes 48 pub.2
  let z := (Crypto.ecdh d (field data 40 48) (field data 88 48)).getD 0
  let nonce := (data.drop 8).take 32
  let keys := Crypto.toBytes (Crypto.hkdf (Crypto.ofBytes nonce) (Crypto.beBytes 48 z) sessionInfo 104)
  let takeover : Bool := s.eth.session.before == .attached
  let num := (s.eth.session.num + 1) % 2 ^ 16
  let own : Bool := (s.sec.state == 1 || s.sec.state == 2) && !(s.boot.safeMode && s.boot.step == 0)
  let s := squashReport (modSec (fun k => { k with nonce := none, report := [] }) s)
  let s := modWin (fun k => { k with apbase := [] }) s
  let s := modEth (fun e => { e with session := { e.session with
    st := .attached, num := num, path := m.path, lastMsg := s.time.now, owner := own
    rights := field data 232 1, wrapKey := (keys.drop 72).take 32, keyCounter := 0, orchIp := m.srcIp, spiIn := spi, spiOut := field data 4 4
    keyIn := keys.take 36, keyOut := (keys.drop 36).take 36, high := 0, window := 0, outSeq := 1, waiting := none } }) s
  let s := logEth 0x09 noRood (packLe [(num, 2), (m.path, 1)]) s
  let s := if takeover then logEth 0x0C noRood num s else s
  let (report, s) :=
    if s.boot.romService then (([] : List Byte), s)
    else issueReport nonce (shaNat ((data.drop 40).take 96 ++ eph)) (handoffField s waited) s
  attachReplies m num eph spi report s

/-- ATTACH. During a hand-off its report, and so the exchange, waits (R410). -/
def attachSession (m : WinMsg) (data : List Byte) (s : State) : State :=
  if !arrives s m ∨ s.eth.session.st = .attaching then s
  else if !m.formed ∨ data.length ≠ 528 then badMessage m s
  else
    let s := modEth (fun e => { e with session := { e.session with before := e.session.st, st := .attaching, since := s.time.now } }) s
    if !attachOk s data then attachFails m s
    else if inHandoff s ∧ !s.boot.romService then
      modEth (fun e => { e with session := { e.session with waiting := some (m, data) } }) s
    else attachDone m data false s

/-- An ATTACH that waits goes on when the hand-off has ended, or after 50 ms (R410). -/
def waitingAttach (s : State) : State :=
  match s.eth.session.waiting with
  | none => s
  | some (m, data) =>
    if s.eth.session.st = .attaching ∧ (!inHandoff s ∨ s.eth.session.since + 50 * msTicks ≤ s.time.now) then attachDone m data true s else s

/-- An exchange that has lasted 1 s fails (Table 12.12). -/
def attachLate (s : State) : State :=
  if s.eth.session.st = .attaching ∧ s.eth.session.since + secTicks ≤ s.time.now then
    modEth (fun e => { e with session := { e.session with st := e.session.before, waiting := none } }) s
  else s

/-- DETACH: orderly, with no reset in any phase (R385). -/
def detachSession (m : WinMsg) (s : State) : State := onMessage m (fun s => endSession .detached (winReply m Sts.ok [] s)) s

/-- The session is lost in SERVICE. -/
def orphan (s : State) : State := raiseEth 5 (logEth 0x0A noRood s.eth.session.num (endSession .orphaned s))

/-- A session whose loss deadline has passed in SERVICE is lost at once; in another phase SESSION_LOSS brings the start that follows (R384,
R385). -/
def orphanDue (s : State) : State :=
  if isLost s ∧ s.eth.session.phase = 1 then orphan (if s.sec.debug = 1 ∨ s.sec.debug = 2 then leaveDebug 0 s else s) else s

/-- The session is lost: ORPHANED in SERVICE, else a reset (R385); a debug state ends (13 Table 13.14). -/
def loseSession (w : BootWorld) (s : State) : State :=
  if !isLost s ∨ s.boot.down then s
  else
    let s := if s.sec.debug = 1 ∨ s.sec.debug = 2 then leaveDebug 0 s else s
    if s.eth.session.phase = 1 then orphan s
    else leaveOrderly 5 w (endSession .detached (logEth 0x0B noRood s.eth.session.phase s))

/-! ### Meanings -/

/-- WINDOW_READ (12 R382). -/
def execWindowRead (m : WinMsg) (s : State) : Answer := .next (winRead m s)
/-- WINDOW_WRITE (12 R382). -/
def execWindowWrite (m : WinMsg) (s : State) : Answer := .next (winWrite m false s)
/-- WRITE_MASKED (12 Table 12.11). -/
def execWriteMasked (m : WinMsg) (s : State) : Answer := .next (winWrite m true s)
/-- KEEPALIVE (12 R384). -/
def execKeepalive (m : WinMsg) (s : State) : Answer := .next (onMessage m (winReply m Sts.ok []) s)
/-- ATTACH (12 R383; 13 R408). -/
def execAttach (m : WinMsg) (data : List Byte) (s : State) : Answer := .next (attachSession m data s)
/-- ATTACH_TIMEOUT (12 Table 12.12). -/
def execAttachTimeout (s : State) : Answer := .next (attachLate s)
/-- DETACH (12 R385). -/
def execDetach (m : WinMsg) (s : State) : Answer := .next (detachSession m s)
/-- SESSION_LOSS (12 R384, R385). -/
def execSessionLoss (w : BootWorld) (s : State) : Answer := .next (loseSession w s)
/-- WIN_APBASE (17 R490). -/
def execWinApbase (window path : Nat) (v : Word) (s : State) : Answer :=
  .next (if windowOpen s window ∧ path < 2 then putApbase window path v.toNat s else s)
/-- WIN_EVT_TAIL (17 R493). -/
def execWinEvtTail (v : Word) (s : State) : Answer := .next (if windowOpen s moduleWin then writeModulePage 0 0x208 v s else s)
/-- WIN_MAP_SEL (17 R492). -/
def execWinMapSel (v : Word) (s : State) : Answer := .next (if windowOpen s moduleWin then writeModulePage 0 0x308 v s else s)
/-- WIN_MDL_RPL_SEL and WIN_TRN_RPL_SEL (17 R494). -/
def execWinRplSel (r mbox : Nat) (v : Word) (s : State) : Answer :=
  .next (if windowOpen s r ∧ r < 16 ∧ mbox < 2 then selectReply r mbox v.toNat s else s)
/-- WIN_DIG_SEL (17 Table 17.6). -/
def execWinDigSel (r : Nat) (v : Word) (s : State) : Answer :=
  .next (if windowOpen s r ∧ r < 16 then writeRoodPage r 0 0x400 v s else s)
/-- QP_READ (17 R496). -/
def execQpRead (r : Nat) (s : State) : Answer := .next (readQp r s)
/-- QP_CREATE (17 R496). -/
def execQpCreate (r : Nat) (s : State) : Answer := .next (createQp r s)
/-- QP_MODIFY (17 R496). -/
def execQpModify (r : Nat) (s : State) : Answer := .next (modifyQp r s)
/-- QP_DELETE (17 R496). -/
def execQpDelete (r : Nat) (s : State) : Answer := .next (deleteQp r s)
/-- XR_READ (17 R497). -/
def execXrRead (r h : Nat) (s : State) : Answer := .next (readXr r h s)
/-- XR_CREATE (17 R497). -/
def execXrCreate (r : Nat) (s : State) : Answer := .next (createXr r s)
/-- XR_DELETE (17 R497). -/
def execXrDelete (r h : Nat) (s : State) : Answer := .next (deleteXr r h s)

end Sys2Proof.Machine
end

