-- ==== Sys2Proof/Machine/Dispatch.lean ====
section
/-! DEFINITION. What each command does: one arm per constructor of Instr, one direct call of its meaning. -/
namespace Sys2Proof.Machine

/-- The effect of a command on everything but the queue. -/
def exec (i : Instr) (s : State) : Host.Outcome State Fault Refusal :=
  match i with
  | .powerOn w => Sys2Proof.Machine.execPowerOn w s
  | .stepRetry w => Sys2Proof.Machine.execStepRetry w s
  | .pinReset => Sys2Proof.Machine.execPinReset s
  | .resetPinGlitch low => Sys2Proof.Machine.execResetPinGlitch low s
  | .watchdogReset w => Sys2Proof.Machine.execWatchdogReset w s
  | .thermalShutdown u w => Sys2Proof.Machine.execThermalShutdown u w s
  | .undervoltage => Sys2Proof.Machine.execUndervoltage s
  | .overvoltageDisconnect => Sys2Proof.Machine.execOvervoltageDisconnect s
  | .standbyLost => Sys2Proof.Machine.execStandbyLost s
  | .inputLow => Sys2Proof.Machine.execInputLow s
  | .inputLowClear => Sys2Proof.Machine.execInputLowClear s
  | .refclkLoss => Sys2Proof.Machine.execRefclkLoss s
  | .ppsInEdge high => Sys2Proof.Machine.execPpsInEdge high s
  | .module w => Sys2Proof.Machine.execModule w s
  | .cold w => Sys2Proof.Machine.execCold w s
  | .clearRemedies => Sys2Proof.Machine.execClearRemedies s
  | .retrySafe w => Sys2Proof.Machine.execRetrySafe w s
  | .writePage page => Sys2Proof.Machine.execWritePage page s
  | .commit a b => Sys2Proof.Machine.execCommit a b s
  | .bootLedgerSel v => Sys2Proof.Machine.execBootLedgerSel v s
  | .registerWrite addr v => Sys2Proof.Machine.execRegisterWrite addr v s
  | .powerLoopPeriod p => Sys2Proof.Machine.execPowerLoopPeriod p s
  | .fastLimiter avg => Sys2Proof.Machine.execFastLimiter avg s
  | .thermalLoopPeriod u junction dram => Sys2Proof.Machine.execThermalLoopPeriod u junction dram s
  | .junctionHot u t => Sys2Proof.Machine.execJunctionHot u t s
  | .dramHot k t => Sys2Proof.Machine.execDramHot k t s
  | .fwcPwrCap v => Sys2Proof.Machine.execFwcPwrCap v s
  | .reqP4 => Sys2Proof.Machine.execReqP4 s
  | .reqP0 ifsUp links => Sys2Proof.Machine.execReqP0 ifsUp links s
  | .floorDelay => Sys2Proof.Machine.execFloorDelay s
  | .warmDelay => Sys2Proof.Machine.execWarmDelay s
  | .wake cause => Sys2Proof.Machine.execWake cause s
  | .activate v => Sys2Proof.Machine.execActivate v s
  | .cancel => Sys2Proof.Machine.execCancel s
  | .booting compatible => Sys2Proof.Machine.execBooting compatible s
  | .takeover => Sys2Proof.Machine.execTakeover s
  | .confirming => Sys2Proof.Machine.execConfirming s
  | .handoffRolledBack => Sys2Proof.Machine.execHandoffRolledBack s
  | .heartbeatCheck missed => Sys2Proof.Machine.execHeartbeatCheck missed s
  | .coreSpareIn k => Sys2Proof.Machine.execCoreSpareIn k s
  | .fatal cause => Sys2Proof.Machine.execFatal cause s
  | .submissionFetch => Sys2Proof.Machine.execSubmissionFetch s
  | .dispatch d => Sys2Proof.Machine.execDispatch d s
  | .descriptorStart d => Sys2Proof.Machine.execDescriptorStart d s
  | .deadlineTimeout d => Sys2Proof.Machine.execDeadlineTimeout d s
  | .settleInterval t => Sys2Proof.Machine.execSettleInterval t s
  | .descriptorComplete d => Sys2Proof.Machine.execDescriptorComplete d s
  | .run d => Sys2Proof.Machine.execRun d s
  | .tunPass d => Sys2Proof.Machine.execTunPass d s
  | .firkinPass d => Sys2Proof.Machine.execFirkinPass d s
  | .combArm d => Sys2Proof.Machine.execCombArm d s
  | .sync d => Sys2Proof.Machine.execSync d s
  | .k1Split d => Sys2Proof.Machine.execK1Split d s
  | .loadStream d => Sys2Proof.Machine.execLoadStream d s
  | .storeStream d => Sys2Proof.Machine.execStoreStream d s
  | .moveStream d => Sys2Proof.Machine.execMoveStream d s
  | .xferWrite d => Sys2Proof.Machine.execXferWrite d s
  | .xferRead d => Sys2Proof.Machine.execXferRead d s
  | .xferPartial d => Sys2Proof.Machine.execXferPartial d s
  | .tiIssue c n rd rs1 => Sys2Proof.Machine.execTiIssue c n rd rs1 s
  | .tiWait c n rd rs1 => Sys2Proof.Machine.execTiWait c n rd rs1 s
  | .tiPoll c n rd rs1 => Sys2Proof.Machine.execTiPoll c n rd rs1 s
  | .tiFence c n => Sys2Proof.Machine.execTiFence c n s
  | .tiScw c n rs1 rs2 => Sys2Proof.Machine.execTiScw c n rs1 rs2 s
  | .tiScr c n rd rs1 => Sys2Proof.Machine.execTiScr c n rd rs1 s
  | .tiSumrd c n rd rs1 => Sys2Proof.Machine.execTiSumrd c n rd rs1 s
  | .tiSumst c n rd rs1 => Sys2Proof.Machine.execTiSumst c n rd rs1 s
  | .tiSumwait c n rs1 rs2 => Sys2Proof.Machine.execTiSumwait c n rs1 rs2 s
  | .tiRod c n rd => Sys2Proof.Machine.execTiRod c n rd s
  | .tiRodwait c n rd rs1 => Sys2Proof.Machine.execTiRodwait c n rd rs1 s
  | .tiSyncrd c n rd rs1 => Sys2Proof.Machine.execTiSyncrd c n rd rs1 s
  | .tiSyncadd c n rs1 rs2 => Sys2Proof.Machine.execTiSyncadd c n rs1 rs2 s
  | .tiSyncset c n rs1 rs2 => Sys2Proof.Machine.execTiSyncset c n rs1 rs2 s
  | .tiExit c n rs1 => Sys2Proof.Machine.execTiExit c n rs1 s
  | .coreWaitWake c n => Sys2Proof.Machine.execCoreWaitWake c n s
  | .coreTrap c n kind mcause addr => Sys2Proof.Machine.execCoreTrap c n kind mcause addr s
  | .tunPassStart c => Sys2Proof.Machine.execTunPassStart c s
  | .initLoadDone c b => Sys2Proof.Machine.execInitLoadDone c b s
  | .tunLastProduct c b => Sys2Proof.Machine.execTunLastProduct c b s
  | .tunSpillDone c b => Sys2Proof.Machine.execTunSpillDone c b s
  | .load c => Sys2Proof.Machine.execLoad c s
  | .store c => Sys2Proof.Machine.execStore c s
  | .copy c => Sys2Proof.Machine.execCopy c s
  | .add c => Sys2Proof.Machine.execAdd c s
  | .sub c => Sys2Proof.Machine.execSub c s
  | .mul c => Sys2Proof.Machine.execMul c s
  | .fma c => Sys2Proof.Machine.execFma c s
  | .abs c => Sys2Proof.Machine.execAbs c s
  | .neg c => Sys2Proof.Machine.execNeg c s
  | .min c => Sys2Proof.Machine.execMin c s
  | .max c => Sys2Proof.Machine.execMax c s
  | .cmplt c => Sys2Proof.Machine.execCmplt c s
  | .cmple c => Sys2Proof.Machine.execCmple c s
  | .cmpeq c => Sys2Proof.Machine.execCmpeq c s
  | .sel c => Sys2Proof.Machine.execSel c s
  | .exp2 c => Sys2Proof.Machine.execExp2 c s
  | .log2 c => Sys2Proof.Machine.execLog2 c s
  | .rcp c => Sys2Proof.Machine.execRcp c s
  | .rsqrt c => Sys2Proof.Machine.execRsqrt c s
  | .tanh c => Sys2Proof.Machine.execTanh c s
  | .sum c => Sys2Proof.Machine.execSum c s
  | .sumsq c => Sys2Proof.Machine.execSumsq c s
  | .maxr c => Sys2Proof.Machine.execMaxr c s
  | .minr c => Sys2Proof.Machine.execMinr c s
  | .argmax c => Sys2Proof.Machine.execArgmax c s
  | .countnf c => Sys2Proof.Machine.execCountnf c s
  | .accrd c => Sys2Proof.Machine.execAccrd c s
  | .release c => Sys2Proof.Machine.execRelease c s
  | .spill c => Sys2Proof.Machine.execSpill c s
  | .shardResident c => Sys2Proof.Machine.execShardResident c s
  | .combination c j => Sys2Proof.Machine.execCombination c j s
  | .combTimeout c j => Sys2Proof.Machine.execCombTimeout c j s
  | .clusterFailed c cause => Sys2Proof.Machine.execClusterFailed c cause s
  | .clusterSpareIn c => Sys2Proof.Machine.execClusterSpareIn c s
  | .repeatFailure u cause => Sys2Proof.Machine.execRepeatFailure u cause s
  | .spareSelftest stack pass step => Sys2Proof.Machine.execSpareSelftest stack pass step s
  | .lockSet k j => Sys2Proof.Machine.execLockSet k j s
  | .lockReleased k j => Sys2Proof.Machine.execLockReleased k j s
  | .firkinPassRun k e => Sys2Proof.Machine.execFirkinPassRun k e s
  | .firkinPassComplete k e => Sys2Proof.Machine.execFirkinPassComplete k e s
  | .passRerun k e word => Sys2Proof.Machine.execPassRerun k e word s
  | .weightRefetch k e addr => Sys2Proof.Machine.execWeightRefetch k e addr s
  | .engineFailed k e cause => Sys2Proof.Machine.execEngineFailed k e cause s
  | .spareIn k e => Sys2Proof.Machine.execSpareIn k e s
  | .streamContextStart d => Sys2Proof.Machine.execStreamContextStart d s
  | .portGrant port => Sys2Proof.Machine.execPortGrant port s
  | .bushelPlaced x n => Sys2Proof.Machine.execBushelPlaced x n s
  | .slotRelease x slot => Sys2Proof.Machine.execSlotRelease x slot s
  | .streamComplete x => Sys2Proof.Machine.execStreamComplete x s
  | .streamHalt x n cause => Sys2Proof.Machine.execStreamHalt x n cause s
  | .streamResume x => Sys2Proof.Machine.execStreamResume x s
  | .streamUnresolved x => Sys2Proof.Machine.execStreamUnresolved x s
  | .bucketApply r t => Sys2Proof.Machine.execBucketApply r t s
  | .stackUncorrectable addr checksum goodCopy => Sys2Proof.Machine.execStackUncorrectable addr checksum goodCopy s
  | .recoveryWrite addr image => Sys2Proof.Machine.execRecoveryWrite addr image s
  | .pchMarked k p => Sys2Proof.Machine.execPchMarked k p s
  | .readDisturbRelocate block => Sys2Proof.Machine.execReadDisturbRelocate block s
  | .readOnly free => Sys2Proof.Machine.execReadOnly free s
  | .dieFailed phys lost => Sys2Proof.Machine.execDieFailed phys lost s
  | .eraseDone r => Sys2Proof.Machine.execEraseDone r s
  | .baseLoad r w => Sys2Proof.Machine.execBaseLoad r w s
  | .baseFlip r => Sys2Proof.Machine.execBaseFlip r s
  | .flipTakesEffect r => Sys2Proof.Machine.execFlipTakesEffect r s
  | .baseSwap r => Sys2Proof.Machine.execBaseSwap r s
  | .swapLoad r w => Sys2Proof.Machine.execSwapLoad r w s
  | .admissionResumed r => Sys2Proof.Machine.execAdmissionResumed r s
  | .baseRelease r => Sys2Proof.Machine.execBaseRelease r s
  | .baseGone r epoch => Sys2Proof.Machine.execBaseGone r epoch s
  | .baseRepair r images => Sys2Proof.Machine.execBaseRepair r images s
  | .adapterPut r => Sys2Proof.Machine.execAdapterPut r s
  | .adapterDrop r => Sys2Proof.Machine.execAdapterDrop r s
  | .prefetch p => Sys2Proof.Machine.execPrefetch p s
  | .adapterEntryResident slot version image => Sys2Proof.Machine.execAdapterEntryResident slot version image s
  | .versionFaulted slot version => Sys2Proof.Machine.execVersionFaulted slot version s
  | .versionFlip slot => Sys2Proof.Machine.execVersionFlip slot s
  | .versionRetire slot => Sys2Proof.Machine.execVersionRetire slot s
  | .trainBind r => Sys2Proof.Machine.execTrainBind r s
  | .trainSet r => Sys2Proof.Machine.execTrainSet r s
  | .trainUnbind r => Sys2Proof.Machine.execTrainUnbind r s
  | .trainBound b img => Sys2Proof.Machine.execTrainBound b img s
  | .stepStart b => Sys2Proof.Machine.execStepStart b s
  | .bwdStart b => Sys2Proof.Machine.execBwdStart b s
  | .producerWrite b v => Sys2Proof.Machine.execProducerWrite b v s
  | .gacc b readable => Sys2Proof.Machine.execGacc b readable s
  | .closeDeadline b => Sys2Proof.Machine.execCloseDeadline b s
  | .gather b step => Sys2Proof.Machine.execGather b step s
  | .gatherTimeout b => Sys2Proof.Machine.execGatherTimeout b s
  | .normPartial b => Sys2Proof.Machine.execNormPartial b s
  | .normPartialReceive b head cnt ss spoiled => Sys2Proof.Machine.execNormPartialReceive b head cnt ss spoiled s
  | .normTimeout b => Sys2Proof.Machine.execNormTimeout b s
  | .update b clip => Sys2Proof.Machine.execUpdate b clip s
  | .updateSkipped b cause => Sys2Proof.Machine.execUpdateSkipped b cause s
  | .updateDone b stage => Sys2Proof.Machine.execUpdateDone b stage s
  | .flipRod b rod => Sys2Proof.Machine.execFlipRod b rod s
  | .flipTimeout b => Sys2Proof.Machine.execFlipTimeout b s
  | .snapshot b kind done => Sys2Proof.Machine.execSnapshot b kind done s
  | .protect r => Sys2Proof.Machine.execProtect r s
  | .restore r views => Sys2Proof.Machine.execRestore r views s
  | .declareLost r => Sys2Proof.Machine.execDeclareLost r s
  | .remap r => Sys2Proof.Machine.execRemap r s
  | .rodSyncSend => Sys2Proof.Machine.execRodSyncSend s
  | .rodSyncReceive p => Sys2Proof.Machine.execRodSyncReceive p s
  | .timeHoldover => Sys2Proof.Machine.execTimeHoldover s
  | .timeUncertain => Sys2Proof.Machine.execTimeUncertain s
  | .ptpSync offset => Sys2Proof.Machine.execPtpSync offset s
  | .masterTakeover => Sys2Proof.Machine.execMasterTakeover s
  | .planApply r rod => Sys2Proof.Machine.execPlanApply r rod s
  | .planApplied r => Sys2Proof.Machine.execPlanApplied r s
  | .linkTraining l res => Sys2Proof.Machine.execLinkTraining l res s
  | .linkRetrain l cause res => Sys2Proof.Machine.execLinkRetrain l cause res s
  | .linkRetry l res => Sys2Proof.Machine.execLinkRetry l res s
  | .linkFailed l loopbackPass => Sys2Proof.Machine.execLinkFailed l loopbackPass s
  | .linkSubstitute l res => Sys2Proof.Machine.execLinkSubstitute l res s
  | .flitReceive l flit => Sys2Proof.Machine.execFlitReceive l flit s
  | .replayReq l seq => Sys2Proof.Machine.execReplayReq l seq s
  | .xferInject x => Sys2Proof.Machine.execXferInject x s
  | .write p => Sys2Proof.Machine.execWrite p s
  | .read p => Sys2Proof.Machine.execRead p s
  | .readResp p => Sys2Proof.Machine.execReadResp p s
  | .partial_ p => Sys2Proof.Machine.execPartial p s
  | .earlyPartialExpire k => Sys2Proof.Machine.execEarlyPartialExpire k s
  | .transferComplete src xslot => Sys2Proof.Machine.execTransferComplete src xslot s
  | .done p => Sys2Proof.Machine.execDone p s
  | .resend p => Sys2Proof.Machine.execResend p s
  | .transferRetry x => Sys2Proof.Machine.execTransferRetry x s
  | .epochReady p => Sys2Proof.Machine.execEpochReady p s
  | .epochFlip p => Sys2Proof.Machine.execEpochFlip p s
  | .versionFault p => Sys2Proof.Machine.execVersionFault p s
  | .ethLinkUp j => Sys2Proof.Machine.execEthLinkUp j s
  | .ethLinkDown j => Sys2Proof.Machine.execEthLinkDown j s
  | .espReceive p => Sys2Proof.Machine.execEspReceive p s
  | .quarantineEnd iface ip => Sys2Proof.Machine.execQuarantineEnd iface ip s
  | .rdmaWrite q addr rkey data => Sys2Proof.Machine.execRdmaWrite q addr rkey data s
  | .rdmaRead q addr rkey len => Sys2Proof.Machine.execRdmaRead q addr rkey len s
  | .score q imm => Sys2Proof.Machine.execScore q imm s
  | .doorbell q imm addr rkey data => Sys2Proof.Machine.execDoorbell q imm addr rkey data s
  | .register q msg => Sys2Proof.Machine.execRegister q msg s
  | .deregister q msg => Sys2Proof.Machine.execDeregister q msg s
  | .requestDeadline h => Sys2Proof.Machine.execRequestDeadline h s
  | .verdict h data => Sys2Proof.Machine.execVerdict h data s
  | .ackReceive q psn => Sys2Proof.Machine.execAckReceive q psn s
  | .remoteNak q => Sys2Proof.Machine.execRemoteNak q s
  | .ackTimeout q => Sys2Proof.Machine.execAckTimeout q s
  | .cnpReceive q => Sys2Proof.Machine.execCnpReceive q s
  | .cnpRateRecover q => Sys2Proof.Machine.execCnpRateRecover q s
  | .storeReadResponse x n image => Sys2Proof.Machine.execStoreReadResponse x n image s
  | .windowRead m => Sys2Proof.Machine.execWindowRead m s
  | .windowWrite m => Sys2Proof.Machine.execWindowWrite m s
  | .writeMasked m => Sys2Proof.Machine.execWriteMasked m s
  | .keepalive m => Sys2Proof.Machine.execKeepalive m s
  | .attach m data => Sys2Proof.Machine.execAttach m data s
  | .attachTimeout => Sys2Proof.Machine.execAttachTimeout s
  | .detach m => Sys2Proof.Machine.execDetach m s
  | .sessionLoss w => Sys2Proof.Machine.execSessionLoss w s
  | .winApbase window path v => Sys2Proof.Machine.execWinApbase window path v s
  | .winEvtTail v => Sys2Proof.Machine.execWinEvtTail v s
  | .winMapSel v => Sys2Proof.Machine.execWinMapSel v s
  | .winRplSel r mbox v => Sys2Proof.Machine.execWinRplSel r mbox v s
  | .winDigSel r v => Sys2Proof.Machine.execWinDigSel r v s
  | .qpRead r => Sys2Proof.Machine.execQpRead r s
  | .qpCreate r => Sys2Proof.Machine.execQpCreate r s
  | .qpModify r => Sys2Proof.Machine.execQpModify r s
  | .qpDelete r => Sys2Proof.Machine.execQpDelete r s
  | .xrRead r h => Sys2Proof.Machine.execXrRead r h s
  | .xrCreate r => Sys2Proof.Machine.execXrCreate r s
  | .xrDelete r h => Sys2Proof.Machine.execXrDelete r h s
  | .create r => Sys2Proof.Machine.execCreate r s
  | .roodCreated r => Sys2Proof.Machine.execRoodCreated r s
  | .reset r => Sys2Proof.Machine.execReset r s
  | .remove r => Sys2Proof.Machine.execRemove r s
  | .roodResetDone r => Sys2Proof.Machine.execRoodResetDone r s
  | .roodResizeApply r rod => Sys2Proof.Machine.execRoodResizeApply r rod s
  | .resizeApplied r => Sys2Proof.Machine.execResizeApplied r s
  | .unitJoinsRood u => Sys2Proof.Machine.execUnitJoinsRood u s
  | .tableRead r tbl idx => Sys2Proof.Machine.execTableRead r tbl idx s
  | .tableWrite r tbl idx => Sys2Proof.Machine.execTableWrite r tbl idx s
  | .tableDelete r tbl idx => Sys2Proof.Machine.execTableDelete r tbl idx s
  | .sliceScrub c d => Sys2Proof.Machine.execSliceScrub c d s
  | .saIn blob => Sys2Proof.Machine.execSaIn blob s
  | .saOut blob => Sys2Proof.Machine.execSaOut blob s
  | .debugKey blob => Sys2Proof.Machine.execDebugKey blob s
  | .destroySa blob => Sys2Proof.Machine.execDestroySa blob s
  | .destroyNs blob => Sys2Proof.Machine.execDestroyNs blob s
  | .tombstoneExpire sa => Sys2Proof.Machine.execTombstoneExpire sa s
  | .secNonce => Sys2Proof.Machine.execSecNonce s
  | .request => Sys2Proof.Machine.execRequest s
  | .select object piece => Sys2Proof.Machine.execSelect object piece s
  | .enterD1 => Sys2Proof.Machine.execEnterD1 s
  | .present => Sys2Proof.Machine.execPresent s
  | .leave target => Sys2Proof.Machine.execLeave target s
  | .d2Expiry => Sys2Proof.Machine.execD2Expiry s
  | .toS1 => Sys2Proof.Machine.execToS1 s
  | .toS2 => Sys2Proof.Machine.execToS2 s
  | .toS3 => Sys2Proof.Machine.execToS3 s
  | .debugRead => Sys2Proof.Machine.execDebugRead s
  | .debugWrite => Sys2Proof.Machine.execDebugWrite s
  | .core => Sys2Proof.Machine.execCore s
  | .sysResetNRelease w => Sys2Proof.Machine.execSysResetNRelease w s
  | .flagCleared u bit t => Sys2Proof.Machine.execFlagCleared u bit t s
  | .rnrNak q => Sys2Proof.Machine.execRnrNak q s
  | .leaveP3ForStepStart b => Sys2Proof.Machine.execLeaveP3ForStepStart b s
  | .clearFaults => Sys2Proof.Machine.execClearFaults s
  | .jtagInstruction ir => Sys2Proof.Machine.execJtagInstruction ir s
  | .ppsOutEdge => Sys2Proof.Machine.execPpsOutEdge s

end Sys2Proof.Machine
end

