-- ==== Sys2Proof/Machine/Tick.lean ====
section
/-! DEFINITION. One tick of the time domain: the time counter advances, then what is due at the stamp that begins happens (log 1; 10
R299). -/
namespace Sys2Proof.Machine

/-- Every rood. -/
def eachRood (f : Nat → State → State) : State → State := forAll (List.range 16) f

/-- Resizes due at this boundary: first those whose check passes, as often as one more passes, then the others, which are
refused (13 R393). -/
def resizesDue (s : State) : State :=
  let pass (s : State) : State := eachRood (fun r s =>
    match s.roods[r]? with
    | some k => if k.applyRod.isSome ∧ !k.createArmed ∧ resCheck s r k.pend = Sts.ok then resizeApplied r s else s
    | none => s) s
  let s := (List.range 16).foldl (fun s _ => pass s) s
  eachRood (fun r s => match s.roods[r]? with | some k => if k.createArmed then s else resizeApplied r s | none => s) s

/-- An outstanding command of a mailbox that has been answered DEFERRED. -/
def isDeferred (s : State) (b : Box) (r code : Nat) : Bool := (boxOf s b r).outstanding.any fun c => cmdCode c == code && c.deferred

/-- Roods: plans, creation, resizes, resets, units that join (10 R306; 13 R392 to R394, R399). -/
def roodTick (s : State) : State :=
  let s := eachRood planInForce s
  let s := resizesDue s
  let s := eachRood roodCreated s
  let s := eachRood resetDone s
  let s := forAll (List.range 16) clusterJoins s
  forAll (List.range 8) (fun t => forAll (List.range 4) (engineJoins t)) s

/-- Spares that take over at a boundary, and bandwidth buckets (05 R161; 04 R121; 07 R222). -/
def unitTick (s : State) : State :=
  let s := forAll (List.range 16) clusterTakeover s
  let s := forAll (List.range 8) (fun t => forAll (List.range 4) (engineTakeover t)) s
  forAll (s.streams.buckets.map (·.1)) (fun k => applyBucket (k / 5) (k % 5)) s

/-- Base flips, adapters and requests (08 R254 to R268). -/
def modelTick (s : State) : State :=
  let s := eachRood loadPoint s
  let s := eachRood flipNow s
  let s := eachRood resumeAdmission s
  let s := forAll (s.slots.map (·.1)) slotFlip s
  let s := forAll (s.slots.map (·.1)) retireVersion s
  let s := eachRood (fun r s => if isDeferred s .model r 0x10 then adapterPut r s else s) s
  let s := eachRood (fun r s => if isDeferred s .model r 0x11 then adapterDrop r s else s) s
  let s := forAll (s.requests.map (·.1)) restage (retryPrefetches s)
  if atFurlong s then joinRequests s else s

/-- Training steps and recovery (09 R278; 14 R434). -/
def trainTick (s : State) : State :=
  let s := eachRood (fun r s => if isDeferred s .training r 0x2B then remap r s else s) s
  let s := forAll (s.binds.map (·.1)) stepStart s
  forAll (s.binds.map (·.1)) startGather s

/-- Time: the successor of a rod master that has left, rod syncs, a reset that waited for the last of them, holdover, 1PPS (10 R301, R310,
R311, R317; 11 R352). -/
def clockTick (s : State) : State :=
  let s := if s.time.masterLeaving && atFurlong s then takeOver s else s
  ppsRises (uncertain (holdover (leaveDue (sendSync s))))

/-- Fabric: trainings that end, flits, packets named by RESEND, READ requests whose source was not readable (11 R330, R337, R350). -/
def fabricTick (s : State) : State :=
  let s := forAll (List.range s.links.length) linkTick s
  let s := forAll (s.fab.xfers.map (·.1)) resendDue s
  forAll s.fab.held readPkt (modFab (fun f => { f with held := [] }) s)

/-- Network and security: tombstones, quarantine, attachment, reports, D2 (12 R368, R380, R383; 13 R410; 17 R502). -/
def securityTick (s : State) : State :=
  let s := forAll (s.eth.sas.map (·.1)) tombstoneEnds s
  let s := forAll (s.eth.quarantined.map fun e => (e.1, e.2.1)) (fun e => endQuarantine e.1 e.2) s
  let s := waitingReport (waitingAttach (attachLate (orphanDue s)))
  d2Expires s

/-- Firmware: a hand-off's instants, power state requests, since when the module is idle (16 R471 to R476). -/
def firmwareTick (s : State) : State :=
  let s := reqNext (wakeCompletes (takeoverEnds s))
  modFwc (fun f => { f with idleSince := if isIdle s then some (f.idleSince.getD s.time.now) else none }) s

/-! ### What no command brings (log 16) -/

/-- Numbers of what the hardware counts by itself: clocks that cluster c loses, 0 and 1 by Tun, 2 by Gill. -/
def stallCounter (c i : Nat) : Nat := 16 * c + i
/-- Of engine e of stack t: 0 and 1 the clocks that it loses, 2 SRAM words corrected. -/
def engineCounter (t e i : Nat) : Nat := 256 + 16 * t + 4 * e + i
/-- Of stack t: 0 inner, 1 outer, 2 interface retries. -/
def stackCounter (t i : Nat) : Nat := 512 + 4 * t + i
/-- Of link l: 0 corrected, 1 uncorrectable. -/
def linkCounter (l i : Nat) : Nat := 1024 + 2 * l + i
/-- Of the flash: 0 moves, 1 blocks retired, 2 + r GiB erased of rood r's namespace (07 R236), 18 bushels that wear levelling and
garbage collection program (07 R237). -/
def flashCounter (i : Nat) : Nat := 2048 + i

/-- SRAM words corrected in the engines of stack t. -/
def sramCount (h : Nat → Nat) (t : Nat) : Nat := (List.range 4).foldl (fun n e => n + h (engineCounter t e 2)) 0

/-- A sticky bit that a count other than 0 sets. -/
def raiseIf (now n i : Nat) (e : Sticky) : Sticky := if n = 0 then e else raise now e i

/-- The counters the hardware counts by itself, each by a free number that it saturates at, and the sticky bits of what
they count (04 R118, Table 4.10; 06 R199; 07 Tables 7.19, 7.21 to 7.23; 11 Table 11.17). -/
def countHardware (s : State) : State :=
  let h := Config.hardwareEvents s.freeCtr
  { s with
    freeCtr := s.freeCtr + 1
    clusters := s.clusters.mapIdx fun c k => { k with
      stalls := clusterStalls s (fun i => h (stallCounter c i)) c k, cycles := (k.cycles + tickClocks s.time.now k.clk) % 2 ^ 64 }
    stks := s.stks.mapIdx fun t k => { k with
      eccInner := satAdd 64 k.eccInner (h (stackCounter t 0))
      eccOuter := satAdd 64 k.eccOuter (h (stackCounter t 1))
      linkRetry := satAdd 64 k.linkRetry (h (stackCounter t 2))
      sramCorr := satAdd 32 k.sramCorr (sramCount h t)
      err := raiseIf s.time.now (h (stackCounter t 2)) 8 (raiseIf s.time.now (h (stackCounter t 1)) 1 (raiseIf s.time.now (h (stackCounter t 0)) 0 k.err))
      frkErr := raiseIf s.time.now (sramCount h t) 0 k.frkErr
      pchHits := k.pchHits.filter fun p => s.time.now < p.2 + 4000000000
      engines := k.engines.mapIdx fun e g => { g with stalls := engineStalls s (fun i => h (engineCounter t e i)) k g } }
    links := s.links.mapIdx fun l k => { k with
      fecCorr := satAdd 32 k.fecCorr (h (linkCounter l 0))
      fecUncorr := satAdd 32 k.fecUncorr (h (linkCounter l 1))
      err := raiseIf s.time.now (h (linkCounter l 1)) 1 (raiseIf s.time.now (h (linkCounter l 0)) 0 k.err) }
    flash := { s.flash with
      moves := satAdd 32 s.flash.moves (h (flashCounter 0))
      nandWritten := s.flash.nandWritten + 4096 * h (flashCounter 18)
      retiredBlocks := satAdd 16 s.flash.retiredBlocks (h (flashCounter 1))
      ns := s.flash.ns.map fun e => (e.1, { e.2 with eraseGiB := if e.2.erasing then e.2.eraseGiB - h (flashCounter (2 + e.1)) else e.2.eraseGiB })
      err := raiseIf s.time.now (h (flashCounter 1)) 5 s.flash.err } }

/-- OUTER_CORRECTED: the address of a codeword of stack t that the outer code corrected, a free value; the correction is attributed
to a free one of its 64 pseudo-channels (07 R229, R240). -/
def outerCorrected (t : Nat) (s : State) : State :=
  let (a, s) := fresh 48 s
  let (p, s) := fresh 6 s
  logOuter t (stackBase t + a % stackSize) (hitChannel t p s)

/-- SRAM_CORRECTED: which word of engine e was corrected is a free value (04 R118, R127). -/
def sramCorrected (t e : Nat) (s : State) : State :=
  let (w, s) := fresh 48 s
  match s.stks[t]? with
  | none => s
  | some k =>
    let g := k.engines.getD e { phys := 0 }
    logFirkin t 0x82 g.phys e (roodByte g.rood) w none s

/-- The events of those counts, one for each correction. -/
def logHardware (n : Nat) (s : State) : State :=
  forAll (List.range 8) (fun t s =>
    let s := forAll (List.range (Config.hardwareEvents n (stackCounter t 1))) (fun _ s => outerCorrected t s) s
    forAll (List.range 4) (fun e s =>
      forAll (List.range (Config.hardwareEvents n (engineCounter t e 2))) (fun _ s => sramCorrected t e s) s) s) s

/-- Descriptors that have started and not ended, and that a rod of another class meets at its start (06 R181). -/
def overrunTick (s : State) : State :=
  if atRodStart s then forAll (descsWith s fun _ e => e.stage == .started && e.result.isNone) (fun d t => overrunCheck d (rodCount t) t) s else s

/-- What the hardware does by itself in one tick. -/
def hardwareTick (s : State) : State := logHardware s.freeCtr (countHardware s)

/-- What is due now. -/
def dueNow (s : State) : State :=
  if s.boot.down then s
  else hardwareTick (firmwareTick (securityTick (fabricTick (trainTick (modelTick (overrunTick (unitTick (roodTick (clockTick s)))))))))

/-- The admissions of the stamp that ends (08 R263, R269). -/
def admitDue (s : State) : State := if s.boot.down then s else eachRood admitWaiting s

/-- One tick of 1 ns: the admissions of this stamp, then four ticks of the counter (10 R299), then what is due at the stamp that begins,
before any command that is stamped with it (08 R254; log 1). -/
def tick (s : State) : State := dueNow (modTime (fun t => { t with now := (t.now + 4) % 2 ^ 64 }) (admitDue s))

end Sys2Proof.Machine
end

