-- ==== Sys2Proof/Safety.lean ====
section
/-! DEFINITION. What the claims call a sound state of the module: each clause is a rule of spec/ or the model's own canonical form, and
each is decidable. -/
namespace Sys2Proof.Safety

open Sys2Proof.Machine

/-- The time counter stands on a clock of the time domain and has 64 bits (10 R299). -/
def ClockOk (s : State) : Prop := s.time.now % 4 = 0 ∧ s.time.now < 2 ^ 64

/-- The memories are in canonical form: the module's own reads 0 where nothing is listed (log 9), the SPI NOR 0xFF (log 8). -/
def MemOk (s : State) : Prop := Memory.wf 0 s.mem = true ∧ Memory.wf 0xFF s.nor = true

/-- The shape of the module: sixteen roods, sixteen clusters, eight stacks, ninety-six links (00 R24, 01 Table 1.1; 13 R390). -/
def ShapeOk (s : State) : Prop := s.roods.length = 16 ∧ s.clusters.length = 16 ∧ s.stks.length = 8 ∧ s.links.length = 96

/-- The event ring never holds more than 65,536 records (17 R493). -/
def RingOk (s : State) : Prop := s.events.ring.length ≤ ringSize

/-- A sound state. -/
def Sound (s : State) : Prop := ClockOk s ∧ MemOk s ∧ ShapeOk s ∧ RingOk s

/-- One part of the state. -/
inductive Part where
  | time | glb | events | pins | boot | nor | fwc | repair | repairSeq
  | sec | win | eth | links | linkSpares | fab | roods | slices | drrNext
  | queues | descs | nextDesc | clusters | spareCluster | stks | streams | flash | slots
  | cache | nextCache | requests | nextReq | binds | mem | bushels | freeCtr | pending
  deriving DecidableEq, Repr

/-- A part holds the same in two states. -/
def Part.same : Part → State → State → Prop
  | .time, s, t => s.time = t.time
  | .glb, s, t => s.glb = t.glb
  | .events, s, t => s.events = t.events
  | .pins, s, t => s.pins = t.pins
  | .boot, s, t => s.boot = t.boot
  | .nor, s, t => s.nor = t.nor
  | .fwc, s, t => s.fwc = t.fwc
  | .repair, s, t => s.repair = t.repair
  | .repairSeq, s, t => s.repairSeq = t.repairSeq
  | .sec, s, t => s.sec = t.sec
  | .win, s, t => s.win = t.win
  | .eth, s, t => s.eth = t.eth
  | .links, s, t => s.links = t.links
  | .linkSpares, s, t => s.linkSpares = t.linkSpares
  | .fab, s, t => s.fab = t.fab
  | .roods, s, t => s.roods = t.roods
  | .slices, s, t => s.slices = t.slices
  | .drrNext, s, t => s.drrNext = t.drrNext
  | .queues, s, t => s.queues = t.queues
  | .descs, s, t => s.descs = t.descs
  | .nextDesc, s, t => s.nextDesc = t.nextDesc
  | .clusters, s, t => s.clusters = t.clusters
  | .spareCluster, s, t => s.spareCluster = t.spareCluster
  | .stks, s, t => s.stks = t.stks
  | .streams, s, t => s.streams = t.streams
  | .flash, s, t => s.flash = t.flash
  | .slots, s, t => s.slots = t.slots
  | .cache, s, t => s.cache = t.cache
  | .nextCache, s, t => s.nextCache = t.nextCache
  | .requests, s, t => s.requests = t.requests
  | .nextReq, s, t => s.nextReq = t.nextReq
  | .binds, s, t => s.binds = t.binds
  | .mem, s, t => s.mem = t.mem
  | .bushels, s, t => s.bushels = t.bushels
  | .freeCtr, s, t => s.freeCtr = t.freeCtr
  | .pending, s, t => s.pending = t.pending

/-- Two states agree on every part that is not listed. -/
def SameBut (l : List Part) (s t : State) : Prop := ∀ p, p ∉ l → p.same s t

/-- Every part but the commands that wait. -/
def allParts : List Part :=
  [.time, .glb, .events, .pins, .boot, .nor, .fwc, .repair, .repairSeq, .sec, .win, .eth,
    .links, .linkSpares, .fab, .roods, .slices, .drrNext, .queues, .descs, .nextDesc, .clusters, .spareCluster, .stks,
    .streams, .flash, .slots, .cache, .nextCache, .requests, .nextReq, .binds, .mem, .bushels, .freeCtr]

/-- The parts that a command may change. -/
def touches : Instr → List Part
  | .powerOn _ => allParts
  | .stepRetry _ => allParts
  | .pinReset => allParts
  | .resetPinGlitch _ => [.events]
  | .watchdogReset _ => allParts
  | .thermalShutdown _ _ => allParts
  | .undervoltage => allParts
  | .overvoltageDisconnect => allParts
  | .standbyLost => allParts
  | .inputLow => [.events, .pins, .fwc, .repair, .repairSeq, .clusters, .stks, .freeCtr]
  | .inputLowClear => [.events, .fwc, .clusters, .stks, .freeCtr]
  | .refclkLoss => [.glb, .events, .pins, .fwc, .eth, .links, .fab, .roods, .slices, .queues, .descs, .clusters, .stks, .streams,
      .flash, .slots, .requests, .binds, .mem, .bushels, .freeCtr]
  | .ppsInEdge _ => [.time]
  | .module _ => allParts
  | .cold _ => allParts
  | .clearRemedies => [.boot]
  | .retrySafe _ => allParts
  | .writePage _ => [.boot, .nor]
  | .commit _ _ => [.boot, .nor]
  | .bootLedgerSel _ => [.boot]
  | .registerWrite _ _ => [.glb, .events, .boot, .nor, .fwc, .repair, .repairSeq, .sec, .eth, .links, .fab, .roods, .slices, .queues,
      .descs, .nextDesc, .clusters, .stks, .streams, .flash, .slots, .requests, .binds, .mem, .bushels, .freeCtr]
  | .powerLoopPeriod _ => [.events, .pins, .fwc, .repair, .repairSeq, .clusters, .stks, .freeCtr]
  | .fastLimiter _ => [.events, .pins, .fwc, .repair, .repairSeq, .clusters, .stks, .freeCtr]
  | .thermalLoopPeriod _ _ _ => [.events, .fwc, .clusters, .stks, .freeCtr]
  | .junctionHot _ _ => [.events, .pins, .fwc, .repair, .repairSeq, .clusters, .stks, .freeCtr]
  | .dramHot _ _ => [.events, .pins, .fwc, .repair, .repairSeq, .clusters, .stks, .freeCtr]
  | .fwcPwrCap _ => [.fwc]
  | .reqP4 => [.events, .fwc, .sec, .eth, .links, .fab, .roods, .queues, .descs, .clusters, .stks, .streams, .slots, .requests,
      .mem]
  | .reqP0 _ _ => [.events, .fwc, .eth, .links, .clusters, .streams, .mem, .freeCtr]
  | .floorDelay => [.events, .fwc]
  | .warmDelay => [.events, .fwc]
  | .wake _ => [.events, .fwc, .freeCtr]
  | .activate _ => [.events, .boot, .fwc, .repair, .repairSeq]
  | .cancel => [.events, .fwc, .repair, .repairSeq]
  | .booting _ => [.events, .fwc, .repair, .repairSeq]
  | .takeover => [.boot, .fwc]
  | .confirming => [.events, .boot, .nor, .fwc, .repair, .repairSeq]
  | .handoffRolledBack => [.events, .boot, .fwc, .repair, .repairSeq]
  | .heartbeatCheck _ => [.glb, .events, .boot, .fwc, .repair, .repairSeq, .eth, .links, .fab, .roods, .slices, .queues, .descs,
      .clusters, .stks, .streams, .flash, .slots, .requests, .binds, .mem, .bushels]
  | .coreSpareIn _ => [.events, .fwc]
  | .fatal _ => [.glb, .events, .fwc, .eth, .links, .fab, .roods, .slices, .queues, .descs, .clusters, .stks, .streams, .flash,
      .slots, .requests, .binds, .mem, .bushels]
  | .submissionFetch => [.glb, .events, .fab, .slices, .drrNext, .queues, .descs, .nextDesc, .clusters, .stks, .streams, .freeCtr]
  | .dispatch _ => [.fab, .descs, .clusters, .stks, .streams]
  | .descriptorStart _ => [.glb, .events, .links, .fab, .descs, .clusters, .stks, .streams, .mem, .freeCtr]
  | .deadlineTimeout _ => [.descs]
  | .settleInterval _ => [.events, .eth, .fab, .roods, .descs, .clusters, .stks, .slots, .requests]
  | .descriptorComplete _ => [.events, .fab, .roods, .queues, .descs, .clusters, .stks, .streams, .mem]
  | .run _ => [.fab, .descs, .clusters, .stks, .streams]
  | .tunPass _ => [.fab, .descs, .clusters, .stks, .streams]
  | .firkinPass _ => [.fab, .descs, .clusters, .stks, .streams]
  | .combArm _ => [.glb, .events, .links, .fab, .descs, .clusters, .stks, .streams, .mem, .freeCtr]
  | .sync _ => [.glb, .events, .links, .fab, .descs, .clusters, .stks, .streams, .mem, .freeCtr]
  | .k1Split _ => [.glb, .events, .links, .fab, .descs, .clusters, .stks, .streams, .mem, .freeCtr]
  | .loadStream _ => [.fab, .descs, .clusters, .stks, .streams]
  | .storeStream _ => [.fab, .descs, .clusters, .stks, .streams]
  | .moveStream _ => [.fab, .descs, .clusters, .stks, .streams]
  | .xferWrite _ => [.fab, .descs, .clusters, .stks, .streams]
  | .xferRead _ => [.fab, .descs, .clusters, .stks, .streams]
  | .xferPartial _ => [.fab, .descs, .clusters, .stks, .streams]
  | .tiIssue _ _ _ _ => [.glb, .events, .fab, .queues, .descs, .nextDesc, .clusters, .stks, .streams, .freeCtr]
  | .tiWait _ _ _ _ => [.clusters]
  | .tiPoll _ _ _ _ => [.clusters]
  | .tiFence _ _ => [.clusters]
  | .tiScw _ _ _ _ => [.glb, .events, .descs, .clusters, .stks]
  | .tiScr _ _ _ _ => [.clusters]
  | .tiSumrd _ _ _ _ => [.clusters]
  | .tiSumst _ _ _ _ => [.clusters]
  | .tiSumwait _ _ _ _ => [.clusters]
  | .tiRod _ _ _ => [.clusters]
  | .tiRodwait _ _ _ _ => [.clusters]
  | .tiSyncrd _ _ _ _ => [.clusters]
  | .tiSyncadd _ _ _ _ => [.roods, .clusters]
  | .tiSyncset _ _ _ _ => [.roods, .clusters]
  | .tiExit _ _ _ => [.descs, .clusters]
  | .coreWaitWake _ _ => [.glb, .events, .fab, .queues, .descs, .nextDesc, .clusters, .stks, .streams, .freeCtr]
  | .coreTrap _ _ _ _ _ => [.glb, .events, .descs, .clusters, .stks, .streams]
  | .tunPassStart _ => [.events, .fab, .descs, .clusters, .stks, .streams]
  | .initLoadDone _ _ => [.events, .descs, .clusters, .streams, .mem]
  | .tunLastProduct _ _ => [.events, .descs, .clusters, .streams, .mem]
  | .tunSpillDone _ _ => [.events, .descs, .clusters, .streams, .mem]
  | .load _ => [.events, .fab, .descs, .clusters, .stks, .streams, .mem, .freeCtr]
  | .store _ => [.events, .fab, .descs, .clusters, .stks, .streams, .mem, .freeCtr]
  | .copy _ => [.events, .fab, .descs, .clusters, .stks, .streams, .mem, .freeCtr]
  | .add _ => [.events, .fab, .descs, .clusters, .stks, .streams, .mem, .freeCtr]
  | .sub _ => [.events, .fab, .descs, .clusters, .stks, .streams, .mem, .freeCtr]
  | .mul _ => [.events, .fab, .descs, .clusters, .stks, .streams, .mem, .freeCtr]
  | .fma _ => [.events, .fab, .descs, .clusters, .stks, .streams, .mem, .freeCtr]
  | .abs _ => [.events, .fab, .descs, .clusters, .stks, .streams, .mem, .freeCtr]
  | .neg _ => [.events, .fab, .descs, .clusters, .stks, .streams, .mem, .freeCtr]
  | .min _ => [.events, .fab, .descs, .clusters, .stks, .streams, .mem, .freeCtr]
  | .max _ => [.events, .fab, .descs, .clusters, .stks, .streams, .mem, .freeCtr]
  | .cmplt _ => [.events, .fab, .descs, .clusters, .stks, .streams, .mem, .freeCtr]
  | .cmple _ => [.events, .fab, .descs, .clusters, .stks, .streams, .mem, .freeCtr]
  | .cmpeq _ => [.events, .fab, .descs, .clusters, .stks, .streams, .mem, .freeCtr]
  | .sel _ => [.events, .fab, .descs, .clusters, .stks, .streams, .mem, .freeCtr]
  | .exp2 _ => [.events, .fab, .descs, .clusters, .stks, .streams, .mem, .freeCtr]
  | .log2 _ => [.events, .fab, .descs, .clusters, .stks, .streams, .mem, .freeCtr]
  | .rcp _ => [.events, .fab, .descs, .clusters, .stks, .streams, .mem, .freeCtr]
  | .rsqrt _ => [.events, .fab, .descs, .clusters, .stks, .streams, .mem, .freeCtr]
  | .tanh _ => [.events, .fab, .descs, .clusters, .stks, .streams, .mem, .freeCtr]
  | .sum _ => [.events, .fab, .descs, .clusters, .stks, .streams, .mem, .freeCtr]
  | .sumsq _ => [.events, .fab, .descs, .clusters, .stks, .streams, .mem, .freeCtr]
  | .maxr _ => [.events, .fab, .descs, .clusters, .stks, .streams, .mem, .freeCtr]
  | .minr _ => [.events, .fab, .descs, .clusters, .stks, .streams, .mem, .freeCtr]
  | .argmax _ => [.events, .fab, .descs, .clusters, .stks, .streams, .mem, .freeCtr]
  | .countnf _ => [.events, .fab, .descs, .clusters, .stks, .streams, .mem, .freeCtr]
  | .accrd _ => [.events, .fab, .descs, .clusters, .stks, .streams, .mem, .freeCtr]
  | .release _ => [.events, .fab, .descs, .clusters, .stks, .streams, .mem, .freeCtr]
  | .spill _ => [.events, .fab, .descs, .clusters, .stks, .streams, .mem, .freeCtr]
  | .shardResident _ => [.events, .clusters]
  | .combination _ _ => [.events, .descs, .clusters, .streams, .mem]
  | .combTimeout _ _ => [.events, .descs, .clusters]
  | .clusterFailed _ _ => [.events, .repair, .repairSeq, .descs, .clusters, .spareCluster]
  | .clusterSpareIn _ => [.clusters, .spareCluster, .streams, .mem]
  | .repeatFailure _ _ => [.events, .repair, .repairSeq, .descs, .clusters, .spareCluster, .stks]
  | .spareSelftest _ _ _ => [.events, .repair, .repairSeq, .spareCluster, .stks]
  | .lockSet _ _ => [.events, .links, .fab, .roods, .stks]
  | .lockReleased _ _ => [.events, .stks]
  | .firkinPassRun _ _ => [.events, .fab, .descs, .clusters, .stks, .streams]
  | .firkinPassComplete _ _ => [.events, .fab, .roods, .queues, .descs, .clusters, .stks, .streams, .mem]
  | .passRerun _ _ _ => [.events, .repair, .repairSeq, .stks]
  | .weightRefetch _ _ _ => [.events, .repair, .repairSeq, .stks, .mem, .bushels]
  | .engineFailed _ _ _ => [.events, .repair, .repairSeq, .stks]
  | .spareIn _ _ => [.events, .stks]
  | .streamContextStart _ => [.fab, .descs, .clusters, .stks, .streams]
  | .portGrant _ => [.eth, .streams]
  | .bushelPlaced _ _ => [.glb, .events, .repair, .repairSeq, .eth, .links, .fab, .roods, .descs, .stks, .streams, .flash, .slots,
      .requests, .binds, .mem, .bushels]
  | .slotRelease _ _ => [.streams]
  | .streamComplete _ => [.descs, .streams]
  | .streamHalt _ _ _ => [.events, .repair, .repairSeq, .eth, .links, .fab, .roods, .stks, .streams, .flash, .slots, .requests,
      .binds, .mem, .bushels]
  | .streamResume _ => [.streams, .flash]
  | .streamUnresolved _ => [.descs, .streams]
  | .bucketApply _ _ => [.streams]
  | .stackUncorrectable _ _ _ => [.events, .repair, .repairSeq, .eth, .links, .fab, .roods, .stks, .slots, .cache, .requests, .binds,
      .mem, .bushels]
  | .recoveryWrite _ _ => [.events, .repair, .repairSeq, .stks, .mem, .bushels]
  | .pchMarked _ _ => [.events, .repair, .repairSeq, .stks]
  | .readDisturbRelocate _ => [.flash]
  | .readOnly _ => [.events, .flash]
  | .dieFailed _ _ => [.events, .repair, .repairSeq, .flash]
  | .eraseDone _ => [.events, .flash]
  | .baseLoad _ _ => [.events, .roods, .stks, .streams, .flash, .mem, .bushels, .freeCtr]
  | .baseFlip _ => [.roods]
  | .flipTakesEffect _ => [.events, .eth, .links, .fab, .roods, .stks, .slots, .requests]
  | .baseSwap _ => [.roods]
  | .swapLoad _ _ => [.events, .eth, .links, .fab, .roods, .stks, .streams, .flash, .slots, .requests, .mem, .bushels, .freeCtr]
  | .admissionResumed _ => [.events, .eth, .links, .fab, .roods, .slices, .stks, .flash, .slots, .cache, .nextCache, .requests,
      .mem]
  | .baseRelease _ => [.roods, .stks]
  | .baseGone _ _ => [.events, .roods]
  | .baseRepair _ _ => [.events, .repair, .repairSeq, .roods, .stks, .streams, .flash, .mem, .bushels, .freeCtr]
  | .adapterPut _ => [.roods, .slots]
  | .adapterDrop _ => [.roods]
  | .prefetch _ => [.events, .links, .fab, .roods, .stks, .flash, .slots, .cache, .nextCache, .requests, .nextReq]
  | .adapterEntryResident _ _ _ => [.events, .roods, .stks, .streams, .flash, .cache, .mem, .bushels, .freeCtr]
  | .versionFaulted _ _ => [.events, .eth, .links, .fab, .roods, .stks, .slots, .cache, .requests]
  | .versionFlip _ => [.events, .roods, .stks, .slots, .binds, .mem]
  | .versionRetire _ => [.slots, .cache]
  | .trainBind _ => [.events, .roods, .slots, .cache, .binds, .mem]
  | .trainSet _ => [.roods, .binds]
  | .trainUnbind _ => [.events, .roods, .stks, .slots, .binds]
  | .trainBound _ _ => [.events, .eth, .links, .fab, .roods, .stks, .streams, .flash, .slots, .requests, .binds, .mem,
      .bushels, .freeCtr]
  | .stepStart _ => [.events, .roods, .stks, .slots, .binds, .mem]
  | .bwdStart _ => [.binds, .mem]
  | .producerWrite _ _ => [.events, .binds, .mem]
  | .gacc _ _ => [.glb, .events, .fab, .roods, .streams, .binds, .mem, .bushels]
  | .closeDeadline _ => [.events, .links, .fab, .clusters, .streams, .binds, .mem]
  | .gather _ _ => [.fab, .binds, .mem, .bushels]
  | .gatherTimeout _ => [.events, .binds]
  | .normPartial _ => [.events, .links, .fab, .binds]
  | .normPartialReceive _ _ _ _ _ => [.events, .links, .fab, .binds]
  | .normTimeout _ => [.events, .links, .fab, .binds]
  | .update _ _ => [.events, .links, .fab, .binds, .mem, .bushels]
  | .updateSkipped _ _ => [.events, .links, .fab, .binds]
  | .updateDone _ _ => [.events, .links, .fab, .binds]
  | .flipRod _ _ => [.events, .links, .fab, .binds]
  | .flipTimeout _ => [.events, .eth, .links, .fab, .roods, .stks, .slots, .requests, .binds, .mem]
  | .snapshot _ _ _ => [.events, .fab, .flash, .binds, .mem]
  | .protect _ => [.roods, .binds]
  | .restore _ _ => [.events, .roods, .stks, .streams, .flash, .slots, .binds, .mem, .bushels, .freeCtr]
  | .declareLost _ => [.events, .eth, .roods, .stks, .slots, .requests, .binds]
  | .remap _ => [.events, .links, .fab, .roods, .stks, .binds, .mem]
  | .rodSyncSend => [.time, .links, .fab]
  | .rodSyncReceive _ => [.time, .glb, .events, .links, .fab]
  | .timeHoldover => [.time, .glb, .events]
  | .timeUncertain => [.time, .glb, .events]
  | .ptpSync _ => [.time, .glb, .events]
  | .masterTakeover => [.time, .glb, .events]
  | .planApply _ _ => [.roods]
  | .planApplied _ => [.events, .roods]
  | .linkTraining _ _ => [.events, .repair, .repairSeq, .links, .linkSpares]
  | .linkRetrain _ _ _ => [.events, .repair, .repairSeq, .links, .linkSpares]
  | .linkRetry _ _ => [.events, .repair, .repairSeq, .links, .linkSpares]
  | .linkFailed _ _ => [.events, .repair, .repairSeq, .links, .fab]
  | .linkSubstitute _ _ => [.events, .repair, .repairSeq, .links, .linkSpares]
  | .flitReceive _ _ => [.events, .links, .fab]
  | .replayReq _ _ => [.links, .fab]
  | .xferInject _ => [.events, .links, .fab, .descs, .streams, .binds, .freeCtr]
  | .write _ => [.glb, .events, .links, .fab, .stks, .streams, .mem, .bushels]
  | .read _ => [.glb, .events, .links, .fab, .streams, .freeCtr]
  | .readResp _ => [.glb, .events, .links, .fab, .descs, .stks, .streams, .binds, .mem]
  | .partial_ _ => [.events, .links, .fab, .clusters, .streams, .mem]
  | .earlyPartialExpire _ => [.events, .fab, .clusters]
  | .transferComplete _ _ => [.events, .links, .fab, .roods, .clusters, .binds]
  | .done _ => [.events, .links, .fab, .descs, .binds]
  | .resend _ => [.events, .links, .fab]
  | .transferRetry _ => [.events, .links, .fab, .descs, .streams, .binds, .freeCtr]
  | .epochReady _ => [.events, .links, .fab, .roods]
  | .epochFlip _ => [.events, .eth, .links, .fab, .roods, .slices, .stks, .flash, .slots, .cache, .nextCache, .requests, .mem]
  | .versionFault _ => [.events, .eth, .links, .fab, .roods, .stks, .slots, .cache, .requests]
  | .ethLinkUp _ => [.events, .eth]
  | .ethLinkDown _ => [.events, .eth, .roods, .descs, .stks, .streams, .slots, .requests]
  | .espReceive _ => [.events, .eth, .roods, .descs, .stks, .streams, .slots, .requests, .freeCtr]
  | .quarantineEnd _ _ => [.events, .eth]
  | .rdmaWrite _ _ _ _ => [.events, .eth, .roods, .descs, .stks, .streams, .slots, .requests, .mem, .freeCtr]
  | .rdmaRead _ _ _ _ => [.events, .eth, .roods, .descs, .stks, .streams, .slots, .requests, .freeCtr]
  | .score _ _ => [.events, .eth, .roods, .descs, .stks, .streams, .slots, .requests, .nextReq, .freeCtr]
  | .doorbell _ _ _ _ _ => [.events, .eth, .roods, .queues, .descs, .stks, .streams, .slots, .requests, .mem, .freeCtr]
  | .register _ _ => [.events, .eth, .roods, .descs, .stks, .streams, .slots, .requests, .freeCtr]
  | .deregister _ _ => [.events, .eth, .roods, .descs, .stks, .streams, .slots, .requests, .freeCtr]
  | .requestDeadline _ => [.requests]
  | .verdict _ _ => [.eth, .roods, .stks, .slots, .requests]
  | .ackReceive _ _ => [.eth, .roods, .stks, .slots, .requests]
  | .remoteNak _ => [.events, .eth, .roods, .descs, .stks, .streams, .slots, .requests]
  | .ackTimeout _ => [.events, .eth, .roods, .descs, .stks, .streams, .slots, .requests]
  | .cnpReceive _ => [.eth]
  | .cnpRateRecover _ => [.eth]
  | .storeReadResponse _ _ _ => [.glb, .events, .eth, .roods, .descs, .stks, .streams, .flash, .slots, .requests, .mem, .bushels,
      .freeCtr]
  | .windowRead _ => [.glb, .events, .sec, .eth, .roods, .descs, .stks, .streams, .slots, .requests, .freeCtr]
  | .windowWrite _ => [.glb, .events, .boot, .nor, .fwc, .repair, .repairSeq, .sec, .win, .eth, .links, .fab, .roods, .slices,
      .queues, .descs, .nextDesc, .clusters, .stks, .streams, .flash, .slots, .requests, .binds, .mem, .bushels, .freeCtr]
  | .writeMasked _ => [.glb, .events, .boot, .nor, .fwc, .repair, .repairSeq, .sec, .win, .eth, .links, .fab, .roods, .slices,
      .queues, .descs, .nextDesc, .clusters, .stks, .streams, .flash, .slots, .requests, .binds, .mem, .bushels, .freeCtr]
  | .keepalive _ => [.events, .eth, .roods, .descs, .stks, .streams, .slots, .requests, .freeCtr]
  | .attach _ _ => [.events, .sec, .win, .eth, .roods, .descs, .stks, .streams, .slots, .requests, .freeCtr]
  | .attachTimeout => [.eth]
  | .detach _ => [.events, .sec, .eth, .roods, .descs, .stks, .streams, .slots, .requests, .freeCtr]
  | .sessionLoss _ => allParts
  | .winApbase _ _ _ => [.win]
  | .winEvtTail _ => [.events, .sec, .win, .eth, .roods, .descs, .stks, .streams, .flash, .slots, .requests]
  | .winMapSel _ => [.events, .sec, .win, .eth, .roods, .descs, .stks, .streams, .flash, .slots, .requests]
  | .winRplSel _ _ _ => [.roods]
  | .winDigSel _ _ => [.glb, .events, .sec, .win, .eth, .roods, .descs, .stks, .streams, .flash, .slots, .requests, .freeCtr]
  | .qpRead _ => [.roods]
  | .qpCreate _ => [.eth, .roods]
  | .qpModify _ => [.events, .eth, .roods, .descs, .stks, .streams, .slots, .requests]
  | .qpDelete _ => [.eth, .roods]
  | .xrRead _ _ => [.roods]
  | .xrCreate _ => [.glb, .events, .eth, .roods, .freeCtr]
  | .xrDelete _ _ => [.eth, .roods]
  | .create _ => [.roods]
  | .roodCreated _ => [.events, .roods, .descs, .clusters, .stks, .flash]
  | .reset _ => [.events, .fwc, .eth, .links, .fab, .roods, .slices, .queues, .descs, .clusters, .stks, .streams, .flash, .slots,
      .requests, .binds, .mem, .bushels]
  | .remove _ => [.events, .fwc, .eth, .links, .fab, .roods, .slices, .queues, .descs, .clusters, .stks, .streams, .flash, .slots,
      .requests, .binds, .mem, .bushels]
  | .roodResetDone _ => [.events, .fwc, .eth, .links, .fab, .roods, .slices, .queues, .descs, .clusters, .stks, .streams, .flash,
      .slots, .cache, .requests, .binds, .mem, .bushels]
  | .roodResizeApply _ _ => [.roods]
  | .resizeApplied _ => [.events, .roods, .descs, .clusters, .stks, .flash]
  | .unitJoinsRood _ => [.clusters, .stks, .streams, .mem]
  | .tableRead _ _ _ => [.roods]
  | .tableWrite _ _ _ => [.glb, .events, .roods, .slices, .queues, .stks]
  | .tableDelete _ _ _ => [.roods, .slices, .queues, .stks, .mem, .bushels]
  | .sliceScrub _ _ => [.events, .clusters, .streams, .mem]
  | .saIn _ => [.events, .sec, .eth, .roods, .descs, .stks, .streams, .flash, .slots, .requests]
  | .saOut _ => [.events, .sec, .eth, .roods, .descs, .stks, .streams, .flash, .slots, .requests]
  | .debugKey _ => [.events, .sec, .eth, .roods, .descs, .stks, .streams, .flash, .slots, .requests]
  | .destroySa _ => [.events, .sec, .eth, .roods, .descs, .stks, .streams, .flash, .slots, .requests]
  | .destroyNs _ => [.events, .sec, .eth, .roods, .descs, .stks, .streams, .flash, .slots, .requests]
  | .tombstoneExpire _ => [.eth]
  | .secNonce => [.sec, .freeCtr]
  | .request => [.events, .sec, .freeCtr]
  | .select _ _ => [.sec]
  | .enterD1 => [.events, .sec]
  | .present => [.events, .fwc, .sec, .eth, .links, .fab, .roods, .slices, .queues, .descs, .clusters, .stks, .streams, .flash,
      .slots, .requests, .binds, .mem, .bushels]
  | .leave _ => [.events, .sec, .fab, .roods, .queues, .descs, .clusters, .stks, .streams, .mem]
  | .d2Expiry => [.events, .sec, .fab, .roods, .queues, .descs, .clusters, .stks, .streams, .mem]
  | .toS1 => [.events, .sec]
  | .toS2 => [.events, .sec]
  | .toS3 => [.events, .fwc, .sec, .eth, .links, .fab, .roods, .slices, .queues, .descs, .clusters, .stks, .streams, .flash, .slots,
      .requests, .binds, .mem, .bushels]
  | .debugRead => [.glb, .events, .fwc, .sec, .freeCtr]
  | .debugWrite => [.glb, .events, .boot, .nor, .fwc, .repair, .repairSeq, .sec, .eth, .links, .fab, .roods, .slices, .queues,
      .descs, .clusters, .stks, .streams, .flash, .slots, .requests, .binds, .mem, .bushels, .freeCtr]
  | .core => [.glb, .events, .fwc, .sec, .fab, .roods, .queues, .descs, .nextDesc, .clusters, .stks, .streams, .mem, .freeCtr]
  | .sysResetNRelease _ => allParts
  | .flagCleared _ _ _ => [.events, .fwc, .clusters, .stks, .freeCtr]
  | .rnrNak _ => [.events, .eth, .roods, .descs, .stks, .streams, .slots, .requests]
  | .leaveP3ForStepStart _ => [.events, .fwc, .freeCtr]
  | .clearFaults => [.pins]
  | .jtagInstruction _ => [.pins]
  | .ppsOutEdge => [.time]

/-! ### What a command does, as the claims say it -/

/-- The command runs to its end: exec answers a next state, and that state is as P says. -/
def Does (i : Instr) (s : State) (P : State → Prop) : Prop := ∃ t, exec i s = .next t ∧ P t

/-- A start with this cause has run in t: the module is no longer down, its cause, kind and attempt number are noted, and the
input is present (15 R455, Tables 15.5, 15.7). -/
def Started (cause : Nat) (s t : State) : Prop :=
  t.boot.down = false ∧ t.boot.cause = cause ∧ t.boot.cold = coldCause cause ∧
    t.boot.attempt = (s.boot.attempt + 1) % 2 ^ 32 ∧ t.pins.standby = true ∧ t.pins.input = true

/-- The newest event record of t is one more than s had, of this block and low code byte, stamped with the time of s (10 R325, R326). -/
def Logged (block low : Nat) (s t : State) : Prop :=
  t.events.head = (s.events.head + 1) % 2 ^ 32 ∧
    ∃ e ∈ t.events.ring.getLast?, e.block = block ∧ e.code = low + 256 * (block % 256) ∧ e.stamp = s.time.now

/-- An access to a register address that holds no register: logged as an event of the block that owns the address, with bit 1 of
GLB_ERR_STATUS, and nothing else (00 R15; 17 R483, R484). -/
def UnmappedNoted (a : Nat) (s t : State) : Prop :=
  Logged (match blockOf a with | none => Blk.glb | some (b, _) => blockId s b) 0xF0 s t ∧
    { t with events := s.events, glb := s.glb } = s ∧ t.glb = { s.glb with err := raise s.time.now s.glb.err 1 }

/-- Every byte of the module's memories outside the n bytes from a reads as before. -/
def MemBut (a n : Nat) (s t : State) : Prop := ∀ x, x < a ∨ a + n ≤ x → rd8 t x = rd8 s x

/-- Every byte of the module's memories reads as before. -/
def MemSame (s t : State) : Prop := ∀ x, rd8 t x = rd8 s x

/-- The elementwise operations of Gill: command, operation code (06 Table 6.11) and the value of one lane from its operands A, B
and C (05 Table 5.2). -/
def elementwise : List ((Nat → Instr) × Nat × (F32 → F32 → F32 → F32)) :=
  [(.load, 0x01, fun a _ _ => a), (.store, 0x02, fun a _ _ => a), (.copy, 0x03, fun a _ _ => a), (.add, 0x04, fun a b _ => fAdd a b),
    (.sub, 0x05, fun a b _ => fSub a b), (.mul, 0x06, fun a b _ => fMul a b), (.fma, 0x07, fun a b m => fFma a b m),
    (.abs, 0x08, fun a _ _ => fAbs a), (.neg, 0x09, fun a _ _ => fNeg a), (.min, 0x0A, fun a b _ => fMin a b),
    (.max, 0x0B, fun a b _ => fMax a b), (.cmplt, 0x0C, fun a b _ => fLt a b), (.cmple, 0x0D, fun a b _ => fLe a b),
    (.cmpeq, 0x0E, fun a b _ => fEq a b), (.sel, 0x0F, fun a b m => fSel a b m), (.exp2, 0x10, fun a _ _ => fTrans 0x10 a),
    (.log2, 0x11, fun a _ _ => fTrans 0x11 a), (.rcp, 0x12, fun a _ _ => fTrans 0x12 a), (.rsqrt, 0x13, fun a _ _ => fTrans 0x13 a),
    (.tanh, 0x14, fun a _ _ => fTrans 0x14 a), (.accrd, 0x20, fun a _ _ => a)]

/-- The reductions of Gill: command, operation code and the value of a group of at least one element (05 R138). -/
def reductions : List ((Nat → Instr) × Nat × (F32 → List F32 → F32)) :=
  [(.sum, 0x18, fun x l => (x :: l).foldl fAdd 0#32),
    (.sumsq, 0x19, fun x l => (x :: l).foldl (fun a v => accStep a ((decodeF32 v).mul (decodeF32 v))) 0#32),
    (.maxr, 0x1A, fun x l => l.foldl fMax (if fIsNaN x then f32NaN else x)),
    (.minr, 0x1B, fun x l => l.foldl fMin (if fIsNaN x then f32NaN else x)),
    (.argmax, 0x1C, fun x l => fOfNat (argmax (x :: l))),
    (.countnf, 0x1D, fun x l => fOfNat ((x :: l).filter fun v => !fIsFin v).length)]

/-- Gill of cluster c runs operation d of core n, and nothing makes it wait: no change of clock (05 R162), no bank it reads stalls and no ring slot it reads is
EMPTY or POISONED (03 R84; 07 R218). -/
def GillRuns (s : State) (c n d : Nat) (e : Desc) (b : GillBody) : Prop :=
  (∃ k, s.clusters[c]? = some k ∧ k.gillRun = some d ∧ ∃ q, k.cores[n]? = some q) ∧ tfind d s.descs = some e ∧ e.body = .gill b ∧
    e.src = .core c n ∧ e.result = none ∧ clusterPaused s c = false ∧ (gillBanks b).any (bankStalls s c) = false ∧
    ringReads s (gillReadsAt c b) = .ready

/-- Element j of source operand i of a Gill operation. -/
def gillElem (s : State) (c n : Nat) (e : Desc) (b : GillBody) (i j : Nat) : F32 :=
  match (gillSrcs b)[i]? with
  | some p => (srcVals s c n b e.scalars i p.1).getD j 0#32
  | none => 0#32

/-- Descriptor d has this final status, noted in the clock of s, and Gill of cluster c is free again. -/
def GillDone (c d status : Nat) (e : Desc) (s t : State) : Prop :=
  (∃ k, t.clusters[c]? = some k ∧ k.gillRun = none) ∧
    ∃ v, tfind d t.descs = some v ∧ v.result = some ⟨status, 0, s.time.now⟩ ∧ v.src = e.src ∧ v.stage = e.stage

/-- An instruction of core n of cluster c retires and writes v to integer register rd: register 0 stays zero, the pc moves on by 4,
and nothing else of the module changes (06 Table 6.14). -/
def CoreTakes (c n rd : Nat) (v : Word) (k : Core) (s t : State) : Prop :=
  coreAt t c n = some { k with x := (if rd % 32 = 0 then k.x else tset (rd % 32) v k.x), pc := (k.pc + 4) % 2 ^ 48 } ∧
    (∀ c' n', c' ≠ c ∨ n' ≠ n → coreAt t c' n' = coreAt s c' n') ∧ SameBut [.clusters] s t

/-- Core n of cluster c stalls in an instruction that does not retire: its state and what it waits for are noted, and nothing else of
the module changes. -/
def CoreStalls (c n : Nat) (st : CoreState) (w : CoreWait) (k : Core) (s t : State) : Prop :=
  coreAt t c n = some { k with st := st, wait := some w } ∧
    (∀ c' n', c' ≠ c ∨ n' ≠ n → coreAt t c' n' = coreAt s c' n') ∧ SameBut [.clusters] s t

/-- Command c of a mailbox of rood r has its final reply, the n-th record that this step writes: it is no longer outstanding, and the
record with its status and DETAIL is in the ring (17 R494; 08 R248). -/
def Answered (b : Box) (r : Nat) (c : Cmd) (n st detail : Nat) (s t : State) : Prop :=
  (∀ o ∈ (boxOf t b r).outstanding, o.seq ≠ c.seq) ∧ (boxOf t b r).written = ((boxOf s b r).written + n) % 2 ^ 32 ∧
    tfind (((boxOf s b r).written + n - 1) % 256) (boxOf t b r).ring = some (replyWords s (cmdTag c) c.seq st (cmdCode c) detail)

/-- Command c of a mailbox of rood r has its DEFERRED record and stays outstanding (08 R248). -/
def Deferred (b : Box) (r : Nat) (c : Cmd) (s t : State) : Prop :=
  (∃ o ∈ (boxOf t b r).outstanding, o.seq = c.seq ∧ o.deferred = true) ∧ (boxOf t b r).written = ((boxOf s b r).written + 1) % 2 ^ 32 ∧
    tfind ((boxOf s b r).written % 256) (boxOf t b r).ring = some (replyWords s (cmdTag c) c.seq Sts.deferred (cmdCode c) 0)

/-- This module's entries of a manifest, with their indices. -/
def ownEntries (s : State) (m : Manifest) : List (Nat × ShardEntry) :=
  ((List.range m.entries.length).zip m.entries).filter fun e => e.2.position == s.fab.pos

/-- Every check of a base load passes: the manifest, the room for its entries, and what the sources return (08 R251). -/
def LoadPasses (r : Nat) (c : ModelCmd) (w : LoadWorld) (m : Manifest) (s : State) : Prop :=
  readManifest s r c w = .inr m ∧ ownEntries s m ≠ [] ∧ capacityFault s r (ownEntries s m) = none ∧
    ∀ e ∈ ownEntries s m, ∃ l, readShardAny s r c w e.1 e.2 = .good l

/-- The epoch of a base load is LOADING in rood r, and each of this module's entries has a base range entry that is LOADING
(04 R104, R108; 08 R251). -/
def LoadedTo (r : Nat) (c : ModelCmd) (m : Manifest) (s t : State) : Prop :=
  (∃ k u, s.roods[r]? = some k ∧ t.roods[r]? = some u ∧
      u.epochs = k.epochs ++ [{ num := c.epoch, st := .loading, baseId := m.baseId, experts := m.experts, stages := m.stages }]) ∧
    ∀ e ∈ ownEntries s m, ∃ k, t.stks[e.2.stack]? = some k ∧
      ({ st := .loading, base := e.2.dest, size := e.2.len, readers := c.readers, rood := r, epoch := c.epoch } : LockEntry) ∈ k.locks

/-- Epoch n of rood r is in this state. -/
def EpochIs (r n : Nat) (st : EpochState) (t : State) : Prop := ∃ e, epochOf t r n = some e ∧ e.st = st

/-- A fabric packet reaches its handling: the fabric takes part, the packet is well formed and in its lifetime, it is for this module,
and its rood is not going (11 R339, R348, R355, R356). -/
def ArrivesHere (p : Packet) (s : State) : Prop :=
  fabricOn s = true ∧ badPacket p = false ∧ before 64 (p.stamp + packetLife) s.time.now = false ∧ p.dst = s.fab.pos ∧ roodGoing s p.dstRood = false

/-- A control packet of a subtype reaches its handling, from a peer (11 R351). -/
def ControlHere (p : Packet) (sub : Nat) (s : State) : Prop :=
  ArrivesHere p s ∧ p.typ = 6 ∧ subtype p = sub ∧ isPeer s p = true

/-- The message of a step command for binding b: this module's own decision, or the control packet of its subtype from a peer, for the
binding's rood, adapter and running step, that says what the command says (11 R348, R351). -/
def StepHere (m : StepMsg) (b : Nat) (k : Bind) (sub : Nat) (rest : List Byte) (s : State) : Prop :=
  m.bind = b ∧ (m.packet.src = s.fab.pos ∨
    ControlHere m.packet sub s ∧ k.rood = m.packet.dstRood ∧ field m.packet.data 0 8 = k.cfg.adapter ∧
      field m.packet.data 8 8 = k.step ∧ (m.packet.data.drop 16).take rest.length = rest)

/-- No request of rood r that goes on holds a row of this version of an adapter (08 R268). -/
def NoRows (r a version : Nat) (t : State) : Prop :=
  ∀ h e, tfind h t.requests = some e → e.rood = r → e.remote = none → e.st ≠ .ended →
    ∀ x ∈ e.rows, x.none = false → x.adapter = a → x.version ≠ version

/-- The directory of rood r notes this version of an adapter as FAULTED (08 R268). -/
def NotesFault (r a version : Nat) (t : State) : Prop :=
  ∀ k d, t.roods[r]? = some k → tfind a k.dir = some d → version ∈ d.faulted

/-- The state in which a message of the session is taken: a datagram's sequence number is noted (12 R366), and the session keeps the stamp
of its last message and its path (12 R384). -/
def heard (m : WinMsg) (s : State) : State :=
  let s := noteDatagram m s
  { s with eth := { s.eth with session := { s.eth.session with lastMsg := s.time.now, path := m.path } } }

/-- A message of the session reaches the window: it arrives, on the UDP path under the session's own association, before the loss deadline,
under the session's number, and well formed (12 R381, R382, R384). -/
def Heard (m : WinMsg) (s : State) : Prop :=
  arrives s m = true ∧ (m.path = 1 → datagramFault s m = none) ∧ inSession s = true ∧ isLost s = false ∧ m.session = s.eth.session.num ∧
    m.formed = true ∧
    (m.window < 16 ∨ m.window = moduleWin)

/-- The one reply of a message, with its status, the stamp of its access and its data (12 Table 12.11). -/
def Replies (m : WinMsg) (st : Nat) (data : List Word) (s t : State) : Prop :=
  t.eth.replies = s.eth.replies ++ [(m, st, s.time.now, data)]

/-- The newest event record is of this block and low code byte. -/
def LastLogged (block low : Nat) (t : State) : Prop :=
  ∃ e ∈ t.events.ring.getLast?, e.block = block ∧ e.code % 256 = low

end Sys2Proof.Safety
end

