-- ==== Sys2Proof/Certificates/Slice0/Obligations.lean ====
section
/-! DEFINITION. The statements for the provers, over the spec's numbered rules. -/
open Sys2Proof Sys2Proof.Machine Sys2Proof.Safety

/-! ### The block -/

/-- With a command at the front of its queue, a step is that command's meaning on the state whose queue is the rest (log 3). -/
def Obligations.StepRunsFront : Prop :=
  ∀ (c : Instr) (rest : List Instr) (s : State), step { s with pending := c :: rest } = exec c { s with pending := rest }

/-- With nothing waiting, a step is one clock of the time domain: the counter advances by 4 (R299), modulo 2^64, and nothing is put
into the queue. That an idle step is a clock is the model's choice (log 1). -/
def Obligations.IdleStepTicks : Prop :=
  ∀ s : State, s.pending = [] →
    ∃ t, step s = .next t ∧ t.time.now = (s.time.now + 4) % 2 ^ 64 ∧ t.pending = []

/-- Every command completes in every state, and none touches the queue: no command of the table is stopped by the model.
That a command whose conditions do not hold leaves the state as it is, is the model's choice (log 2). -/
def Obligations.EveryCommandAnswers : Prop :=
  ∀ (i : Instr) (s : State), ∃ t, exec i s = .next t ∧ t.pending = s.pending

/-- The state before the first start is sound: the counter at 0 on a clock (R452), the memories in canonical form, the parts of
Table 1.1 present, the event ring empty.
The state before the first start is the model's (log 11). -/
def Obligations.ResetSound : Prop := Sound State.reset

/-- Soundness is kept by every step, from every sound state, reachable or not: the counter stays on a clock (R299), the memories stay
in canonical form, the numbers of roods, clusters, stacks and links never change, and the event ring never exceeds 65,536 records. -/
def Obligations.StepKeepsSound : Prop :=
  ∀ s t : State, Sound s → step s = .next t → Sound t

/-- Frame of every command: a part of the state that the command is not listed for (Safety.touches) is the same before and after. -/
def Obligations.CommandFrame : Prop :=
  ∀ (i : Instr) (s t : State), exec i s = .next t → SameBut (touches i) s t

/-- What the state before the first start holds (the values the spec gives): time at 0 (R452) and ACQUIRING, no session, no rood,
no descriptor, every cluster and engine clock at its reset clock, SVN and debug state 0, the start-up lock open, the cap at 1,350 W.
The state before the first start is the model's (log 11). -/
def Obligations.ResetValues : Prop :=
  State.reset.time.now = 0 ∧ State.reset.time.lock = .acquiring ∧ State.reset.glb.locked = false ∧ State.reset.glb.err.bits = 0 ∧
    State.reset.eth.session.st = .detached ∧ (∀ r ∈ State.reset.roods, r.st = .free) ∧ State.reset.descs = [] ∧
    (∀ c ∈ State.reset.clusters, c.clk = 2200) ∧ (∀ k ∈ State.reset.stks, k.clk = 2000) ∧ State.reset.sec.debug = 0 ∧
    State.reset.fwc.cap = 1350 ∧ State.reset.fwc.pstate = 0 ∧ State.reset.events.ring = [] ∧ State.reset.pending = []

/-! ### Starts, pins and resets (15, 18) -/

/-- The commands that start the module, each with the cause that Table 15.7 gives it: power, the release of the reset pin, a retry,
a watchdog, a thermal trip, and the three resets of BOOT_CTL. A start counts the attempt and leaves the module not down; a cold cause
is a cold start. MODULE and COLD wait while a hand-off runs and for a rod master's last rod sync, and RETRY_SAFE needs safe mode
(Obligations.BootCtlHandled).
The start is one command, the model's choice (log 54). -/
def Obligations.StartsRun : Prop :=
  ∀ (w : BootWorld) (u : ThermalUnit) (s : State),
    (s.boot.down = true → s.pins.resetHeld = false → Does (.powerOn w) s (Started s.boot.nextCause s)) ∧
    (s.boot.down = true → s.pins.resetHeld = true → s.pins.standby = true → s.pins.input = true →
      Does (.sysResetNRelease w) s fun t => Started s.boot.nextCause s t ∧ t.pins.resetHeld = false) ∧
    (∀ τ, s.boot.down = false → s.boot.retryAt = some τ → τ ≤ s.time.now → Does (.stepRetry w) s (Started 6 s)) ∧
    (s.boot.down = false → Does (.watchdogReset w) s (Started 7 s)) ∧
    (s.boot.down = false → Does (.thermalShutdown u w) s (Started 8 s)) ∧
    (s.boot.down = false → s.boot.ctlBusy ∈ [none, some 1] → s.boot.leaving = none → inHandoff s = false → owesSync s = false →
      Does (.module w) s (Started 4 s)) ∧
    (s.boot.down = false → s.boot.ctlBusy ∈ [none, some 2] → s.boot.leaving = none → inHandoff s = false → owesSync s = false →
      Does (.cold w) s (Started 2 s)) ∧
    (s.boot.down = false → s.boot.safeMode = true → s.boot.ctlBusy ∈ [none, some 4] →
      Does (.retrySafe w) s (Started 4 s))

/-- The commands of BOOT_CTL are handled as R457 says: one written while another is outstanding ends with ROOD_BUSY; MODULE and COLD
wait for a hand-off in progress, with DEFERRED until it ends; RETRY_SAFE outside safe mode ends with NOT_IN_SAFE_MODE. A rod master that
takes one stops its roods at once and announces RELINQUISH; the reset waits for the rod sync that carries it (15 R456; 10 R317; log 77).
That a waiting command is carried out when it is given again is the model's choice (log 57). -/
def Obligations.BootCtlHandled : Prop :=
  ∀ (w : BootWorld) (s : State), s.boot.down = false →
    (∀ b, s.boot.ctlBusy = some b →
      (b ≠ 1 → Does (.module w) s fun t => t = { s with boot := { s.boot with ctlCmd := 1, ctlStatus := Sts.roodBusy } }) ∧
      (b ≠ 2 → Does (.cold w) s fun t => t = { s with boot := { s.boot with ctlCmd := 2, ctlStatus := Sts.roodBusy } }) ∧
      Does .clearRemedies s (fun t => t = { s with boot := { s.boot with ctlCmd := 3, ctlStatus := Sts.roodBusy } }) ∧
      (b ≠ 4 → Does (.retrySafe w) s fun t => t = { s with boot := { s.boot with ctlCmd := 4, ctlStatus := Sts.roodBusy } })) ∧
    (s.boot.ctlBusy = none → s.boot.leaving = none →
      (inHandoff s = true →
        Does (.module w) s (fun t => t = { s with boot := { s.boot with ctlBusy := some 1, ctlCmd := 1, ctlStatus := Sts.deferred } }) ∧
        Does (.cold w) s fun t => t = { s with boot := { s.boot with ctlBusy := some 2, ctlCmd := 2, ctlStatus := Sts.deferred } }) ∧
      (inHandoff s = false → owesSync s = true →
        Does (.module w) s (fun t => t.boot.leaving = some (4, w) ∧ t.time.relinquish = true ∧ t.boot.ctlStatus = Sts.deferred ∧
          t.boot.down = false ∧ ∀ k ∈ t.roods, k.st ≠ .active) ∧
        Does (.cold w) s fun t => t.boot.leaving = some (2, w) ∧ t.time.relinquish = true ∧ t.boot.ctlStatus = Sts.deferred ∧
          t.boot.down = false ∧ ∀ k ∈ t.roods, k.st ≠ .active) ∧
      (s.boot.safeMode = false →
        Does (.retrySafe w) s fun t => t = { s with boot := { s.boot with ctlCmd := 4, ctlStatus := Sts.notInSafeMode } }) ∧
      Does .clearRemedies s fun t => t = { s with boot := { s.boot with
        skip := 0, altered := 0, margin := 0, lastFailed := [], ctlCmd := 3, ctlStatus := Sts.ok } })

/-- The commands that take the module down. From a module that runs, its registers and memories go to their reset values, the time
counter stands, the NOR keeps its bytes, and the cause of the next start is noted: PIN 3, UNDERVOLTAGE 9, POWER_ON 1 (R506, R508, R509).
A loss of the standby converter overrides every other cause, also while the module is down. Of two reset conditions with equal stamps
the cause that stands earlier in the order UNDERVOLTAGE, PIN is the one noted, whichever is given first, and a later condition never
replaces one stamped first (R509). -/
def Obligations.GoesDown : Prop :=
  ∀ s : State,
    (s.boot.down = false →
      Does .pinReset s (fun t => t.boot.down = true ∧ t.pins.resetHeld = true ∧ t.boot.nextCause = 3 ∧ t.boot.downAt = s.time.now ∧
        t.time.now = s.time.now ∧ t.mem = [] ∧ t.descs = [] ∧ t.nor = s.nor ∧ t.eth.session.st = .detached) ∧
      Does .undervoltage s (fun t => t.boot.down = true ∧ t.pins.input = false ∧ t.boot.nextCause = 9 ∧ t.boot.downAt = s.time.now ∧
        t.time.now = s.time.now ∧ t.mem = [] ∧ t.descs = [] ∧ t.nor = s.nor) ∧
      Does .overvoltageDisconnect s (fun t => t.time.now = s.time.now ∧ t.mem = [] ∧ t.descs = [] ∧ t.nor = s.nor) ∧
      Does .standbyLost s (fun t => t.time.now = s.time.now ∧ t.mem = [] ∧ t.descs = [] ∧ t.nor = s.nor)) ∧
    Does .overvoltageDisconnect s (fun t => t.boot.down = true ∧ t.pins.ovOff = true ∧ t.pins.standby = false ∧ t.pins.input = false ∧
      t.boot.nextCause = 1) ∧
    Does .standbyLost s (fun t => t.boot.down = true ∧ t.pins.standby = false ∧ t.pins.input = false ∧ t.boot.nextCause = 1) ∧
    (∀ a b : State, s.boot.down = false → exec .pinReset s = .next a → exec .undervoltage s = .next b →
      Does .undervoltage a (fun t => t.boot.nextCause = 9) ∧
      Does .pinReset b (fun t => t.boot.nextCause = 9) ∧
      Does .undervoltage { a with time := { a.time with now := s.time.now + 4 } } (fun t => t.boot.nextCause = 3) ∧
      Does .pinReset { b with time := { b.time with now := s.time.now + 4 } } (fun t => t.boot.nextCause = 9) ∧
      Does .standbyLost a (fun t => t.boot.nextCause = 1) ∧ Does .standbyLost b fun t => t.boot.nextCause = 1)

/-- The pins outside resets: a low pulse of 1 µs up to 10 µs is logged and nothing else (R508); an edge of PPS_IN high for 100 ns or
more is stamped and counted, a shorter one is not (R514, R301); a debug port's instruction is held; the clear of the SMBus status
byte clears no flag of FWC_EMERG (R515); a lost reference clock or a fault of the compute die makes a running module FATAL, which
leaves no link but DOWN, FAILED or MISWIRED, no rood ACTIVE and is logged once (R422, R513). -/
def Obligations.PinsAndFatal : Prop :=
  ∀ (low high ir cause : Nat) (s : State),
    (s.boot.down = false → 10 ≤ low → low < 100 →
      Does (.resetPinGlitch low) s fun t => Logged Blk.boot 0x09 s t ∧ { t with events := s.events } = s) ∧
    ((low < 10 ∨ 100 ≤ low) → Does (.resetPinGlitch low) s fun t => t = s) ∧
    (100 ≤ high → Does (.ppsInEdge high) s fun t =>
      t = { s with time := { s.time with ppsIn := s.time.now, ppsCount := satInc 64 s.time.ppsCount } }) ∧
    (high < 100 → Does (.ppsInEdge high) s fun t => t = s) ∧
    Does (.jtagInstruction ir) s (fun t => t = { s with pins := { s.pins with jtagIr := ir } }) ∧
    (firmwareUp s = true → Does .clearFaults s fun t => t = { s with pins := { s.pins with smbStatus := 0 } }) ∧
    (s.pins.standby = true → s.glb.fatal = false → Does (.fatal cause) s fun t =>
      t.glb.fatal = true ∧ (∀ k ∈ t.links, k.st = .down ∨ k.st = .failed ∨ k.st = .miswired) ∧ (∀ k ∈ t.roods, k.st ≠ .active) ∧
        ∃ e ∈ t.events.ring.getLast?, e.block = Blk.glb ∧ e.code = 0x61 ∧ e.stamp = s.time.now ∧ e.payload = cause % 256) ∧
    (s.glb.fatal = true → Does (.fatal cause) s fun t => t = s) ∧
    (s.boot.ready = true → s.glb.fatal = false → Does .refclkLoss s fun t =>
      t.glb.fatal = true ∧ t.pins.refclk = false ∧ (∀ k ∈ t.links, k.st = .down ∨ k.st = .failed ∨ k.st = .miswired) ∧ ∀ k ∈ t.roods, k.st ≠ .active)

/-! ### Image commands and the register range (15, 17, 00) -/

/-- The image commands. WRITE_PAGE programs the 4,096 bytes of the buffer into its page and no other byte of the NOR; a page outside
the writable ranges ends with REGION_PROTECTED and a page of the slot in use with SLOT_IN_USE, and both write nothing. COMMIT of a
header that verifies ends with OK, and of one that does not, with the highest-ranking status, and writes nothing. A write of the
ledger selector shows the entry's bytes, or zero where none stands (R453, R459, Table 15.13).
Which ranges of the NOR are writable rests on its layout (log 8). -/
def Obligations.ImageCommands : Prop :=
  ∀ (page : Nat) (a b : SlotView) (v : Word) (s : State), s.boot.down = false → Memory.wf 0xFF s.nor = true →
    (norProtected (4096 * page) = false → slotAt (4096 * page) ≠ some s.boot.slot → s.fwc.update.st = .idle →
      Does (.writePage page) s fun t => t.boot.imgStatus = Sts.ok ∧
        (∀ x, x < 4096 * page ∨ 4096 * page + 4096 ≤ x → cellGet 0xFF#8 x t.nor = cellGet 0xFF#8 x s.nor) ∧
        ∀ i, i < 4096 → cellGet 0xFF#8 (4096 * page + i) t.nor = (imgBytes s).getD i 0) ∧
    (norProtected (4096 * page) = true → Does (.writePage page) s fun t => t.boot.imgStatus = Sts.regionProtected ∧ t.nor = s.nor) ∧
    (norProtected (4096 * page) = false → slotAt (4096 * page) = some s.boot.slot →
      Does (.writePage page) s fun t => t.boot.imgStatus = Sts.slotInUse ∧ t.nor = s.nor) ∧
    ((headerFaults a b (imgBytes s) s).foldl statusMax Sts.ok = Sts.ok →
      Does (.commit a b) s fun t => t.boot.imgCmd = 2 ∧ t.boot.imgStatus = Sts.ok ∧ t.boot.toReject = [] ∧
        ∀ x, 8192 ≤ x → cellGet 0xFF#8 x t.nor = cellGet 0xFF#8 x s.nor) ∧
    ((headerFaults a b (imgBytes s) s).foldl statusMax Sts.ok ≠ Sts.ok →
      Does (.commit a b) s fun t => t.boot.imgStatus = (headerFaults a b (imgBytes s) s).foldl statusMax Sts.ok ∧ t.nor = s.nor) ∧
    (tfind (bits v.toNat 0 13) s.boot.ledger = none →
      Does (.bootLedgerSel v) s fun t => t.boot.ledgerSel = bits v.toNat 0 13 ∧ t.boot.ledgerData = [0, 0, 0, 0]) ∧
    ∀ e, tfind (bits v.toNat 0 13) s.boot.ledger = some e →
      Does (.bootLedgerSel v) s fun t => t.boot.ledgerSel = bits v.toNat 0 13 ∧ t.boot.ledgerData[0]? = some (w64 e.stamp) ∧
        t.boot.ledgerData[1]? = some (w64 (e.attempt % 2 ^ 32 + 2 ^ 32 * (e.kind % 256) + 2 ^ 40 * (e.step % 256) + 2 ^ 48 * (e.flags % 256)))

/-- R15: a read of an offset that holds no register returns zero, a write to one is ignored, and both are logged as events of the
owning block (an address outside every span belongs to the global block, R483). -/
def Obligations.UnlistedOffset : Prop :=
  ∀ (a : Nat) (v : Word) (s : State),
    (match blockOf a with | none => true | some (b, off) => !isListed s b off) = true →
    (readReg a s).1 = 0 ∧ UnmappedNoted a s (readReg a s).2 ∧ Does (.registerWrite a v) s (UnmappedNoted a s)

/-- REGISTER_WRITE by access type (R12, R13, R14, R487). A write of a read-only register changes nothing. A write of GLB_ERR_STATUS or
FWC_ERR_STATUS clears exactly the bits written as 1, but for a bit that the hardware set in that same clock (R13; the model's clock is the
stamp, log 70). GLB_SCRATCH takes the value. Before the start-up lock ETH_KEEPALIVE and
STR_ARB_HORIZON take their fields, and a bucket's register its two, a BURST below 8 as 8, for the next furlong (07 R222); after it a write of these, of ETH_QUAR_CFG, of CLU_CORE_CFG or of FRK_FALLBACK is logged as LOCKED_WRITE
and changes nothing else. -/
def Obligations.RegisterWriteByAccess : Prop :=
  ∀ (a : Nat) (v : Word) (s : State),
    (∀ b off, blockOf a = some (b, off) → isListed s b off = true → accessOf b off = .ro →
      Does (.registerWrite a v) s fun t => t = s) ∧
    Does (.registerWrite 0x38 v) s (fun t => { t with glb := { t.glb with err := s.glb.err } } = s ∧
      t.glb.err.bits = s.glb.err.bits &&& ~~~(v &&& ~~~lateBits s.time.now s.glb.err)) ∧
    Does (.registerWrite 0x68 v) s (fun t => t = { s with glb := { s.glb with scratch := v } }) ∧
    Does (.registerWrite 0x3800040 v) s (fun t => { t with fwc := { t.fwc with err := s.fwc.err } } = s ∧
      t.fwc.err.bits = s.fwc.err.bits &&& ~~~(v &&& ~~~lateBits s.time.now s.fwc.err)) ∧
    (s.glb.locked = false →
      Does (.registerWrite 0x1800048 v) s (fun t => t.eth = { s.eth with interval := bits v.toNat 0 16, missed := bits v.toNat 16 8 }) ∧
      Does (.registerWrite 0x600008 v) s fun t => t.streams = { s.streams with horizon := bits v.toNat 0 32 }) ∧
    Does (.registerWrite 0x600800 v) s (fun t => { t with streams := s.streams } = s ∧ (bucketOf t 0 0).pending = true ∧
      (bucketOf t 0 0).rate = (bucketOf s 0 0).rate ∧ bits (bucketOf t 0 0).written.toNat 0 32 = bits v.toNat 0 32 ∧
      bits (bucketOf t 0 0).written.toNat 32 16 = max 8 (bits v.toNat 32 16)) ∧
    (s.glb.locked = true → ∀ x ∈ [0x1800048, 0x1800050, 0x600008, 0x100018, 0x408038],
      (match blockOf x with | none => false | some (b, off) => isListed s b off) = true →
      Does (.registerWrite x v) s fun t => { t with events := s.events, glb := s.glb } = s ∧ ∃ e ∈ t.events.ring.getLast?, e.code % 256 = 0xF1)

/-! ### Power, thermal, power states and firmware updates (16, 14) -/

/-- The power loops. A loop period takes the input reading: voltage, current, energy at 1 nJ, and the cap that was written before it
comes into force (R463, R465). A write of the cap takes a value from 500 to 1,350 W and leaves one outside that range as it was. The
fast limiter acts only above 1,600 W: it sets flag 0 and both ceilings fall by its step, not below their minimum (R464).
The thermal loop and the thermal flags. At the throttle temperature a unit's own ceiling falls by 100 MHz, not below its minimum,
and the reading is kept (R466); DRAM at 90 °C or more refreshes at double rate and at 87 °C or less at the normal rate. A junction at
110 °C sets flag 2 and a DRAM at 95 °C flag 3, once for the unit, and a hot unit runs at its minimum clock; the flag clears when its
last hot unit has cooled to 105 °C or 92 °C. Low input sets flag 4 and its end clears it (R468). Temperatures are in units of 0.125 °C.
A cap outside the range leaving the cap as it was is the model's choice (log 53). -/
def Obligations.PowerAndThermalLoops : Prop :=
  (∀ (p : PowerReading) (avg : Nat) (v : Word) (s : State),
    (s.pins.powered = true → fwCoreRuns s 0 = true → Does (.powerLoopPeriod p) s fun t =>
      t.fwc.vin = p.mV ∧ t.fwc.iin = p.cA ∧ t.fwc.energy = s.fwc.energy + p.mV * p.cA ∧ t.fwc.capNext = none ∧
        t.fwc.cap = (match s.fwc.capNext with | some c => c.1 | none => s.fwc.cap)) ∧
    Does (.fwcPwrCap v) s (fun t => ∃ c, t = { s with fwc := { s.fwc with capNext := some c } } ∧
      (500 ≤ bits v.toNat 0 16 → bits v.toNat 0 16 ≤ 1350 → c.1 = bits v.toNat 0 16) ∧
      ((bits v.toNat 0 16 < 500 ∨ 1350 < bits v.toNat 0 16) → c.1 = (s.fwc.capNext.getD (s.fwc.cap, s.fwc.policy)).1) ∧
      (bits v.toNat 16 2 < 3 → c.2 = bits v.toNat 16 2)) ∧
    (s.pins.powered = true → 1600 < avg → Does (.fastLimiter avg) s fun t =>
      t.fwc.flags.testBit 0 = true ∧ t.fwc.ceilClu = max 1000 (s.fwc.ceilClu - s.fwc.fastStep) ∧
        t.fwc.ceilFrk = max frkMin (s.fwc.ceilFrk - s.fwc.fastStep) ∧ t.mem = s.mem) ∧
    (s.pins.powered = true → avg ≤ 1600 → Does (.fastLimiter avg) s fun t =>
      t = { s with fwc := { s.fwc with max10 := t.fwc.max10 } })) ∧
  (∀ (c n j d : Nat) (s : State), s.pins.powered = true →
    (∀ k, fwCoreRuns s 1 = true → s.clusters[c]? = some k → 8 * s.fwc.throttle ≤ j →
      Does (.thermalLoopPeriod (.cluster c) j d) s fun t => ∃ q, t.clusters[c]? = some q ∧ q.temp = j % 2 ^ 12 ∧
        q.ceil = max 1000 (k.ceil - 100) ∧ ∀ x, x ≠ c → (t.clusters[x]?).map (·.ceil) = (s.clusters[x]?).map (·.ceil)) ∧
    (∀ k, fwCoreRuns s 1 = true → s.stks[n]? = some k →
      Does (.thermalLoopPeriod (.stack n) j d) s fun t => ∃ q, t.stks[n]? = some q ∧ q.tempBase = j % 2 ^ 12 ∧
        q.tempDram = d % 2 ^ 12 ∧ (720 ≤ d → q.dblRefresh = true) ∧ (d ≤ 696 → q.dblRefresh = false) ∧
        (696 < d → d < 720 → q.dblRefresh = k.dblRefresh)) ∧
    (∀ k, s.clusters[c]? = some k → k.hot = false → 880 ≤ j → Does (.junctionHot (.cluster c) j) s fun t =>
      t.fwc.flags.testBit 2 = true ∧ ∃ q, t.clusters[c]? = some q ∧ q.hot = true ∧ q.temp = j % 2 ^ 12 ∧ q.clk = 1000) ∧
    (∀ k, s.stks[n]? = some k → k.hot = false → 880 ≤ j → Does (.junctionHot (.stack n) j) s fun t =>
      t.fwc.flags.testBit 2 = true ∧ ∃ q, t.stks[n]? = some q ∧ q.hot = true ∧ q.clk = frkMin) ∧
    (∀ u, j < 880 → Does (.junctionHot u j) s fun t => t = s) ∧
    (∀ k, s.stks[n]? = some k → k.dramHot = false → 760 ≤ d → Does (.dramHot n d) s fun t =>
      t.fwc.flags.testBit 3 = true ∧ ∃ q, t.stks[n]? = some q ∧ q.dramHot = true ∧ q.tempDram = d % 2 ^ 12) ∧
    (d < 760 → Does (.dramHot n d) s fun t => t = s) ∧
    (j ≤ 840 → (∀ x q, s.clusters[x]? = some q → x ≠ c → q.hot = false) → (∀ q ∈ s.stks, q.hot = false) →
      Does (.flagCleared (.cluster c) 2 j) s fun t => t.fwc.flags.testBit 2 = false ∧ ∀ q ∈ t.clusters, q.hot = false) ∧
    (d ≤ 736 → (∀ x q, s.stks[x]? = some q → x ≠ n → q.dramHot = false) →
      Does (.flagCleared (.stack n) 3 d) s fun t => t.fwc.flags.testBit 3 = false ∧ ∀ q ∈ t.stks, q.dramHot = false) ∧
    Does .inputLow s (fun t => t.fwc.flags.testBit 4 = true) ∧
    Does .inputLowClear s fun t => t.fwc.flags.testBit 4 = false)

/-- Power states (R471 to R474). REQ = P4 succeeds in an idle module off the succession list, is PSTATE_BUSY while work runs,
PSTATE_REFUSED on the list or in safe mode, and DEFERRED, in order, while a hand-off or another request holds it (00 R18); REQ = P0 leaves P2 and P3 at once. Idleness for
FLOOR_DELAY brings P2 and for WARM_DELAY P3, where FLOOR allows it. A score, a doorbell, a command or a due step wakes P2 and P3.
Which power state a step start wakes is the model's choice (log 53). -/
def Obligations.PowerStates : Prop :=
  ∀ (b : Nat) (k : Bind) (f : Nat) (ifs : List Nat) (ls : List LinkFound) (w : WakeCause) (s : State),
    (reqHeld s = false → s.boot.safeMode = false → s.fwc.pstate ≠ 4 → onList s = false → isIdle s = true →
      Does .reqP4 s fun t => t.fwc.pstate = 4 ∧ t.fwc.reqStatus = Sts.ok ∧ t.fwc.reqCmd = 4) ∧
    (reqHeld s = false → s.fwc.pstate ≠ 4 → (onList s = true ∨ s.boot.safeMode = true) →
      Does .reqP4 s fun t => t = { s with fwc := { s.fwc with reqCmd := 4, reqStatus := Sts.pstateRefused } }) ∧
    (reqHeld s = false → s.fwc.pstate ≠ 4 → onList s = false → s.boot.safeMode = false → isIdle s = false →
      Does .reqP4 s fun t => t = { s with fwc := { s.fwc with reqCmd := 4, reqStatus := Sts.pstateBusy } }) ∧
    (reqHeld s = true → Does .reqP4 s fun t =>
      t = { s with fwc := { s.fwc with reqCmd := 4, reqStatus := Sts.deferred, reqWaiting := s.fwc.reqWaiting ++ [4] } }) ∧
    (reqHeld s = false → s.boot.safeMode = false → 2 ≤ s.fwc.pstate → s.fwc.pstate < 4 →
      Does (.reqP0 ifs ls) s fun t => t.fwc.pstate ≤ 1 ∧ t.fwc.reqStatus = Sts.ok ∧ t.fwc.waking = false) ∧
    (s.fwc.pstate ≤ 1 → 2 ≤ s.fwc.floor → idleFor s (s.fwc.floorDelay * usTicks) = true →
      Does .floorDelay s fun t => t.fwc.pstate = 2 ∧ t.fwc.changeRod = rodCount s % 2 ^ 48 ∧ Logged Blk.fw 0x01 s t) ∧
    (s.fwc.pstate ≤ 2 → s.fwc.floor = 3 → idleFor s (s.fwc.warmDelay * msTicks) = true →
      Does .warmDelay s fun t => t.fwc.pstate = 3 ∧ t.fwc.changeRod = rodCount s % 2 ^ 48 ∧ Logged Blk.fw 0x01 s t) ∧
    (s.fwc.pstate ∈ [2, 3] → Does (.wake w) s fun t => t.fwc.pstate ≤ 1 ∧ t.fwc.idleSince = none) ∧
    (s.fwc.pstate ∈ [2, 3] → bindOf s b = some k → k.nextStart = some f → k.st = .idle → f * 40 * rodLen s ≤ s.time.now + 2 * msTicks →
      Does (.leaveP3ForStepStart b) s fun t => t.fwc.pstate ≤ 1 ∧ t.fwc.idleSince = none)

/-- A firmware update runs its phases in order (R476 to R479): ACTIVATE checks the staged slot and replies DEFERRED; BOOTING takes the
spare core; TAKEOVER makes the new slot the running one; CONFIRMING commits it and ends with OK; a failed confirmation returns to the
old slot, marks the new one for rejection and ends with HANDOFF_ROLLED_BACK; CANCEL before the boundary ends with SQUASHED,
of an ACTIVATE that waits its turn too (R18).
The firmware cores (14 R419). A core that misses a second heartbeat in a row is declared failed, and one that misses its first is
not; a core that does not miss clears its count. The spare then takes the number of the failed core, and a hand-off that holds it
ends first, with HANDOFF_ABORTED (01 R24); a further failure makes the module FATAL.
Where the phases end with the outcome a command names is the model's choice (log 55). -/
def Obligations.FirmwareUpdates : Prop :=
  (∀ (v : SlotView) (s : State),
    (s.boot.ready = true → s.fwc.update.st = .idle → s.fwc.spare = .ready → (stagedSlot s).isSome = true → slotCheck s v = Sts.ok →
      Does (.activate v) s fun t => t.fwc.update.status = Sts.deferred ∧ t.fwc.update.start = s.time.now ∧
        t.fwc.update.st = (if held s then .deferred else .verifying)) ∧
    (s.boot.ready = true → s.fwc.update.st ≠ .idle → Does (.activate v) s fun t =>
      t.fwc.update.status = Sts.handoffBusy ∧ t.fwc.update.st = s.fwc.update.st) ∧
    (s.boot.ready = true → s.fwc.update.st = .idle → s.fwc.spare = .ready → stagedSlot s = none →
      Does (.activate v) s fun t => t.fwc.update.status = Sts.noStagedImage ∧ t.fwc.update.st = .idle) ∧
    (s.fwc.update.st ∈ [.verifying, .deferred, .booting] → Does .cancel s fun t =>
      t.fwc.update.st = .idle ∧ t.fwc.update.status = Sts.squashed ∧ t.boot.slot = s.boot.slot) ∧
    (s.fwc.update.st = .idle → s.fwc.update.status = Sts.deferred → Does .cancel s fun t =>
      t.fwc.update.st = .idle ∧ t.fwc.update.status = Sts.squashed ∧ t.boot = s.boot ∧ Logged Blk.fw 0x0B s t) ∧
    (s.fwc.update.st ∈ [.verifying, .deferred] → held s = false → s.fwc.spare = .ready → Does (.booting true) s fun t =>
      t = { s with fwc := { s.fwc with spare := .handoff, update := { s.fwc.update with st := .booting } } }) ∧
    (s.fwc.update.st ∈ [.verifying, .deferred] → held s = false → s.fwc.spare = .ready → Does (.booting false) s fun t =>
      t.fwc.update.st = .idle ∧ t.fwc.update.status = Sts.stateIncompatible ∧ t.fwc.spare ≠ .handoff) ∧
    (s.fwc.update.st = .booting → Does .takeover s fun t =>
      t.fwc.update.st = .takeover ∧ t.boot.slot = updateSlot s ∧ t.fwc.update.boundary = s.time.now ∧
        t.fwc.update.old = (s.boot.slot, s.fwc.runSvn, s.fwc.runDigest) ∧ t.fwc.runSvn = s.fwc.update.svn) ∧
    (s.fwc.update.st ∈ [.takeover, .confirming] → Does .confirming s fun t =>
      t.fwc.update.st = .idle ∧ t.fwc.update.status = Sts.ok ∧ t.boot.slot = s.boot.slot ∧ t.boot.toReject = [] ∧
        t.fwc.update.completed = satInc 16 s.fwc.update.completed) ∧
    (s.fwc.update.st ∈ [.takeover, .confirming] → Does .handoffRolledBack s fun t =>
      t.fwc.update.st = .idle ∧ t.fwc.update.status = Sts.handoffRolledBack ∧ t.boot.slot = s.fwc.update.old.1 ∧
        s.boot.slot ∈ t.boot.toReject ∧ t.fwc.runSvn = s.fwc.update.old.2.1 ∧ t.nor = s.nor)) ∧
  (∀ (n : Nat) (k : FwCore) (s : State), s.pins.standby = true → s.boot.ready = true → n < 6 → s.fwc.cores[n]? = some k →
    k.failed = false →
    (1 ≤ k.misses → Does (.heartbeatCheck [n]) s fun t => ∃ q, t.fwc.cores[n]? = some q ∧ q.failed = true) ∧
    (k.misses = 0 → Does (.heartbeatCheck [n]) s fun t =>
      ∃ q, t.fwc.cores[n]? = some q ∧ q.failed = false ∧ q.misses = 1) ∧
    (1 ≤ k.misses → s.fwc.spare = .ready → Does (.heartbeatCheck [n]) s fun t => t.fwc.spare = .inUse ∧ t.glb.fatal = s.glb.fatal) ∧
    (1 ≤ k.misses → s.fwc.spare = .handoff → s.fwc.update.st ∈ [.booting, .takeover, .confirming] →
      (∀ c ∈ s.fwc.cores, c.failed = false) → s.fwc.cores.length = 6 → Does (.heartbeatCheck [n]) s fun t =>
        t.fwc.update.st = .idle ∧ t.fwc.update.status = Sts.handoffAborted ∧ t.fwc.spare = .inUse ∧ t.glb.fatal = s.glb.fatal) ∧
    (1 ≤ k.misses → s.fwc.spare = .inUse → Does (.heartbeatCheck [n]) s fun t => t.glb.fatal = true) ∧
    Does (.heartbeatCheck []) s (fun t => ∃ q, t.fwc.cores[n]? = some q ∧ q = { k with misses := 0 }) ∧
    ∀ z : State, (∃ c, z.fwc.cores[n]? = some c ∧ c.failed = true) → z.fwc.spare = .inUse →
      (∀ c ∈ z.fwc.cores, c.phys ≠ z.fwc.sparePhys) → z.glb.fatal = false →
      Does (.coreSpareIn n) z fun t =>
        t.fwc.cores[n]? = some { phys := z.fwc.sparePhys } ∧ Logged Blk.fw 0x07 z t)

/-! ### Descriptors and queues (06) -/

/-- SUBMISSION_FETCH: the queue whose turn it is gives its next descriptor to the dispatcher, with SEQ the CONSUMER at which it stood;
CONSUMER advances by one modulo 2^32 and the slice uses one of its share (R171, R172; 13 R396). -/
def Obligations.FetchTakesOne : Prop :=
  ∀ (i left q : Nat) (k : Slice) (u : Queue) (s : State),
    runsWork s = true → drrPick s = some (i, k, left) → nextOf k.nextQueue (sliceQueues s k) = some q → tfind q s.queues = some u →
    Does .submissionFetch s fun t =>
      t.nextDesc = s.nextDesc + 1 ∧ t.drrNext = i ∧
        (∃ e, tfind s.nextDesc t.descs = some e ∧ e.src = .queue q ∧ e.seq = u.consumer ∧ e.rood = u.rood) ∧
        (∃ v, tfind q t.queues = some v ∧ v.consumer = (u.consumer + 1) % 2 ^ 32 ∧ v.inflight = u.inflight + 1) ∧
        (∀ x v, x ≠ q → tfind x s.queues = some v → tfind x t.queues = some v)

/-- A descriptor leaves the dispatcher for its unit's queue when the unit has room, no earlier descriptor of its source for that unit
waits and nothing holds it at admission; one that must wait at admission is noted as held, and one that is held stays while an earlier one
of its queue is held (R171, R174); a Firkin engine accepts it only within a locked range its rood may read, and otherwise it
completes with NOT_PERMITTED (R174; 04 R108, R110). TUN_PASS and FIRKIN_PASS name the descriptors of those two kinds. -/
def Obligations.DispatchQueues : Prop :=
  ∀ (d : Nat) (e : Desc) (s : State),
    tfind d s.descs = some e → runsWork s = true → e.stage = .dispatcher → e.result = none →
    (heldBySource s d e = true → Does (.dispatch d) s fun t => t = s) ∧
    (heldBySource s d e = false → admissionHold s e = true → Does (.dispatch d) s fun t =>
      t = { s with descs := t.descs } ∧ tfind d t.descs = some { e with held := true }) ∧
    (heldBySource s d e = false → admissionHold s e = false → e.held = true → heldBefore s d e = true →
      Does (.dispatch d) s fun t => t = s) ∧
    (heldBySource s d e = false → admissionHold s e = false → e.held = false → unitRoom s (unitOf e) = false →
      Does (.dispatch d) s fun t => t = s) ∧
    (heldBySource s d e = false → admissionHold s e = false → e.held = false → unitRoom s (unitOf e) = true →
      ((∀ x, e.body ≠ .firkin x) → Does (.dispatch d) s fun t =>
        tfind d t.descs = some { e with stage := .queued } ∧ t.mem = s.mem) ∧
      (∀ x, e.body = .tun x → Does (.tunPass d) s fun t => tfind d t.descs = some { e with stage := .queued } ∧
        (∀ c, unitOf e = .tun c → (t.clusters[c]?).map (·.tunQueue) = (s.clusters[c]?).map (·.tunQueue ++ [d]))) ∧
      (∀ x, e.body = .firkin x → engineAccepts s e.rood x = true →
        Does (.firkinPass d) s fun t => tfind d t.descs = some { e with stage := .queued }) ∧
      (∀ x, e.body = .firkin x → engineAccepts s e.rood x = false →
        Does (.firkinPass d) s fun t => ∃ v, tfind d t.descs = some v ∧ v.stage = .dispatcher ∧
          v.result = some ⟨Sts.notPermitted, 0, s.time.now⟩))

/-- A descriptor starts once its dependencies, its wait and its placement hold. A SYNC then completes with OK and has no other effect
(R193); a RUN starts every core it names at its entry address with ARG0, ARG1 and the core number in x10 to x12 (R192); a COMB_ARM
arms its entry (05 R145); a K1_SPLIT starts when its operands are ready, its panel in a stack, a scratchpad or a bank (R200, R201). -/
def Obligations.DescriptorStarts : Prop :=
  ∀ (d : Nat) (e : Desc) (s : State), tfind d s.descs = some e → startReady s d e = true →
    (e.body = .sync →
      Does (.sync d) s (fun t => tfind d t.descs = some { e with stage := .started, result := some ⟨Sts.ok, 0, s.time.now⟩ } ∧
        SameBut [.descs] s t) ∧
      Does (.descriptorStart d) s fun t =>
        tfind d t.descs = some { e with stage := .started, result := some ⟨Sts.ok, 0, s.time.now⟩ }) ∧
    (∀ b k, e.body = .run b → s.clusters[e.hdr.target]? = some k → (∀ n ∈ runCores b, k.coreEn.testBit n = true) →
      (∀ n ∈ runCores b, ∃ q, k.cores[n]? = some q ∧ q.st = .idle) →
      Does (.run d) s fun t => tfind d t.descs = some { e with stage := .started } ∧
        ∀ n ∈ runCores b, ∃ q, coreAt t e.hdr.target n = some q ∧ q.st = .running ∧ q.userMode = true ∧ q.run = some d ∧
          q.pc = scratchBase e.hdr.target + b.entry ∧ tgetD 10 0 q.x = w64 b.arg0 ∧ tgetD 11 0 q.x = w64 b.arg1 ∧
          tgetD 12 0 q.x = w64 n) ∧
    (∀ b k, e.body = .run b → s.clusters[e.hdr.target]? = some k → (∃ n ∈ runCores b, k.coreEn.testBit n = false) →
      Does (.run d) s fun t => tfind d t.descs = some { e with result := some ⟨Sts.refusedCapacity, 0, s.time.now⟩ }) ∧
    (∀ b, e.body = .comb b → combFree s ((descCluster e).getD 0) b.entry = true → s.fab.early = [] →
      (descCluster e).getD 0 < s.clusters.length → b.entry < 16 → (∀ k ∈ s.clusters, k.comb.length = 16) →
      Does (.combArm d) s fun t => tfind d t.descs = some { e with stage := .started } ∧ t.mem = s.mem ∧
        (combOf' t ((descCluster e).getD 0) b.entry).st = .armed ∧ (combOf' t ((descCluster e).getD 0) b.entry).desc = d ∧
        (combOf' t ((descCluster e).getD 0) b.entry).s = b.s) ∧
    (∀ x, e.body = .k1 x → combFree s ((descCluster e).getD 0) x.combEntry = true →
      (match placeOf x.wAddr 1 with
        | .stk n _ => ringReads s (firkinInputs (k1Pass ((descCluster e).getD 0) x)) = .ready ∧
            ∀ b ∈ panelBushels (k1Pass ((descCluster e).getD 0) x), b ∉ (s.stks.getD n {}).bad ∧ tfind b (s.stks.getD n {}).errs = none
        | .scratch _ _ => ringReads s (k1Panel x :: firkinInputs (k1Pass ((descCluster e).getD 0) x)) = .ready
        | .bank n o => ringReads s (firkinInputs (k1Pass ((descCluster e).getD 0) x)) = .ready ∧ bankRead s n o (k1Panel x).2 ≠ none
        | _ => False) →
      Does (.k1Split d) s fun t => ∃ v, tfind d t.descs = some v ∧ v.stage = .started)

/-- Ends before the start. A descriptor of which a dependency has failed is SQUASHED at once, and nothing else happens (R176).
Deadlines (R182; 10 R319, R322, R323): the timeout of a descriptor that has not started, or of a transfer that has (11 R357), is raised once
the stamp is past its deadline rod, with the stamp of that rod's end, and becomes final only after the settle interval, as TIMEOUT. A
combination entry still ARMED then ends too, unless a completion stamped in time is still on its way (05 R149). The timeout of a request
that has joined no batch, and of one whose verdict has come, ends it with TIMEOUT after the settle interval; a joined one goes on (12 R374). -/
def Obligations.SquashesAndTimeouts : Prop :=
  ∀ (d r c i h τ : Nat) (e : Desc) (k : Request) (s : State),
    (tfind d s.descs = some e → e.stage ≠ .started → e.result = none → depsOf s e = .fail → Does (.descriptorStart d) s fun t =>
      tfind d t.descs = some { e with result := some ⟨Sts.squashed, 0, s.time.now⟩ } ∧ SameBut [.descs] s t) ∧
    (tfind d s.descs = some e → deadlineRod e = some r → timesOut e = true → e.result = none → deadlineStamp s r < s.time.now →
      Does (.deadlineTimeout d) s fun t => t = { s with descs := t.descs } ∧
        tfind d t.descs = some { e with raised := some (deadlineStamp s r) }) ∧
    (tfind d s.descs = some e → deadlineRod e = some r → s.time.now ≤ deadlineStamp s r →
      Does (.deadlineTimeout d) s fun t => t = s) ∧
    (tfind d s.descs = some e → e.raised = some τ → timesOut e = true → e.result = none → τ + 2000 ≤ s.time.now →
      Does (.settleInterval (.desc d)) s fun t => tfind d t.descs = some { e with result := some ⟨Sts.timeout, 0, s.time.now⟩ } ∧
        ∀ x ∈ t.fab.xfers, x.2.desc ≠ d) ∧
    (tfind d s.descs = some e → e.raised = some τ → s.time.now < τ + 2000 →
      Does (.settleInterval (.desc d)) s fun t => t = s) ∧
    ((combOf' s c i).st = .armed → rodSettled s (combOf' s c i).deadline = true → inTimeNotice s c i = true →
      Does (.settleInterval (.comb c i)) s fun t => t = s) ∧
    ((combOf' s c i).st = .armed → rodSettled s (combOf' s c i).deadline = true → inTimeNotice s c i = false →
      Does (.settleInterval (.comb c i)) s (fun t => (combOf' t c i).st = .free) ∧
      (rodPast s (combOf' s c i).deadline s.time.now = true → Does (.combTimeout c i) s fun t => (combOf' t c i).st = .free)) ∧
    ((combOf' s c i).st = .armed → rodPast s (combOf' s c i).deadline s.time.now = true →
      rodSettled s (combOf' s c i).deadline = false →
      Does (.combTimeout c i) s fun t => (combOf' t c i).st = .armed ∧
        (combOf' t c i).raised = some (deadlineStampEra s (combOf' s c i).dlRod (combOf' s c i).dlEra)) ∧
    (tfind h s.requests = some k → k.raised = some τ → atOrAfter 64 s.time.now (τ + 2000) = false →
      Does (.settleInterval (.request h)) s fun t => t = s) ∧
    (tfind h s.requests = some k → k.raised = some τ → k.st = .joined → k.resident = none →
      Does (.settleInterval (.request h)) s fun t => t = s) ∧
    (tfind h s.requests = some k → k.raised = some τ → k.st ≠ .ended → (k.st ≠ .joined ∨ k.resident ≠ none) →
      atOrAfter 64 s.time.now (τ + 2000) = true → Does (.settleInterval (.request h)) s fun t =>
        ∀ v, tfind h t.requests = some v → v.st = .ended ∧ v.final = some Sts.timeout)

/-- The completion of a descriptor drops it and frees its place, a stream's its context (07 Table 7.7); it waits for an earlier one of its unit or queue. In a queue, a final status
is recorded in the history by SEQ (R175); a record
of 32 bytes is written to the completion ring at SEQ mod DEPTH, with the status in byte 24, and no other byte of memory changes;
with QUIET set and status OK no record is written, nor one into a slot that no region takes, and a core-issued descriptor writes
none, but its status goes to the core's scoreboard (R185 to R187; 04 R105). -/
def Obligations.CompletionRecords : Prop :=
  ∀ (d : Nat) (e : Desc) (r : Result) (s : State), tfind d s.descs = some e → e.result = some r →
    ((completesAfter s d e = true ∨ recordsBefore s d e r = true ∨ mayComplete s e (finalStatus s e r) = false) →
      Does (.descriptorComplete d) s fun t => t = s) ∧
    (completesAfter s d e = false → recordsBefore s d e r = false → mayComplete s e (finalStatus s e r) = true →
      Does (.descriptorComplete d) s (fun t => tfind d t.descs = none) ∧
      (∀ b, e.body = .stream b → Does (.descriptorComplete d) s fun t => ∀ x ∈ t.streams.ctx, x.2.desc ≠ d) ∧
      (∀ q k, e.body = .sync → e.src = .queue q → tfind q s.queues = some k → roodActive s e.rood = true → 0 < k.logDepth →
        Memory.wf 0 s.mem = true →
        Does (.descriptorComplete d) s fun t =>
          (∃ v, tfind q t.queues = some v ∧ v.inflight = k.inflight - 1 ∧ v.consumer = k.consumer ∧
            (dist 32 (k.consumer + 2 ^ 32 - 1) e.seq < 2 ^ k.logDepth → tfind e.seq v.history = some (finalStatus s e r))) ∧
          (e.hdr.quiet = true → finalStatus s e r = Sts.ok → MemSame s t) ∧
          (writeCheck s .record (k.cring + 32 * (e.seq % 2 ^ k.logDepth)) 32 ≠ .ok → MemSame s t) ∧
          ((e.hdr.quiet = false ∨ finalStatus s e r ≠ Sts.ok) →
            writeCheck s .record (k.cring + 32 * (e.seq % 2 ^ k.logDepth)) 32 = .ok →
            MemBut (k.cring + 32 * (e.seq % 2 ^ k.logDepth)) 32 s t ∧
              rd8 t (k.cring + 32 * (e.seq % 2 ^ k.logDepth) + 24) = BitVec.ofNat 8 (finalStatus s e r))) ∧
      (∀ c n k, e.body = .sync → e.src = .core c n → coreAt s c n = some k → d ∈ k.queue →
        Does (.descriptorComplete d) s fun t => MemSame s t ∧
          ∃ q, coreAt t c n = some q ∧ d ∉ q.queue ∧ q.x = k.x ∧ q.pc = k.pc ∧
            (dist 32 (k.nextSeq + 2 ^ 32 - 1) e.seq < 64 → tfind e.seq q.board = some (finalStatus s e r))))

/-! ### Gill, Tun and combinations (03, 05) -/

/-- Every elementwise operation of Gill into a vector register: lane j of the destination is the operation's value on element j of its
operands, for every lane below LEN; the other lanes and registers of the core, every other core's registers and all of memory are
unchanged, and the operation ends with OK (05 R134 to R137, Table 5.2).
Table functions are evaluated to the nearest value, the model's reading (log 13). -/
def Obligations.GillElementwise : Prop :=
  ∀ (i : Nat → Instr) (op : Nat) (f : F32 → F32 → F32 → F32) (c n d : Nat) (e : Desc) (b : GillBody) (s : State),
    (i, op, f) ∈ elementwise → GillRuns s c n d e b → b.op = op → opSpace b.dst = 0 →
    Does (i c) s fun t =>
      GillDone c d Sts.ok e s t ∧ MemSame s t ∧
        (∀ j, j < b.len → vreg t c n (opAddr b.dst % 8) j = f (gillElem s c n e b 0 j) (gillElem s c n e b 1 j) (gillElem s c n e b 2 j)) ∧
        (∀ v l, (v < 8 ∧ l < 512 ∧ (v ≠ opAddr b.dst % 8 ∨ b.len ≤ l)) → b.len ≤ 512 → vreg t c n v l = vreg s c n v l) ∧
        ∀ n' v l, n' ≠ n → vreg t c n' v l = vreg s c n' v l

/-- The same operations into the scratchpad: for an FP32 destination without rows, element j is the value of the lane; for every format
and layout, a byte outside the bytes that the operation writes (Machine.gillStore on the results) is unchanged; a write that meets an
active ring is refused: the operation ends with NOT_PERMITTED and no byte changes (05 R134; 07 R218).
Layouts that do not fit LEN follow the model's reading (log 21); table functions log 13. -/
def Obligations.GillStores : Prop :=
  ∀ (i : Nat → Instr) (op : Nat) (f : F32 → F32 → F32 → F32) (c n d : Nat) (e : Desc) (b : GillBody) (s : State),
    (i, op, f) ∈ elementwise → GillRuns s c n d e b → b.op = op → opSpace b.dst ≠ 0 → Memory.wf 0 s.mem = true →
    let rs := (List.range b.len).map fun j => f (gillElem s c n e b 0 j) (gillElem s c n e b 1 j) (gillElem s c n e b 2 j)
    let ws := (gillStore c b (gillLay b) rs).1
    (ws.any (fun w => onRing s w.1 w.2.length) = false →
      Does (i c) s fun t => GillDone c d Sts.ok e s t ∧
        (∀ x, (∀ w ∈ ws, x < w.1 ∨ w.1 + w.2.length ≤ x) → rd8 t x = rd8 s x) ∧
        (opFmt b.dst = 0 → b.rowStride = 0 → ∀ j, j < b.len → some (rdF32 t (scratchBase c + opAddr b.dst + 4 * j)) = rs[j]?)) ∧
    (ws.any (fun w => onRing s w.1 w.2.length) = true →
      Does (i c) s fun t => GillDone c d Sts.notPermitted e s t ∧ MemSame s t)

/-- The reductions into a vector register: lane j is the reduction of group j of the source (all of it, or row j, or column j), one
addition or comparison at a time in ascending index (05 R138; 02 R62). Where the spec states no value, for an empty group, nothing is
said.
The start of a sum is the model's reading (log 29). -/
def Obligations.GillReductions : Prop :=
  ∀ (i : Nat → Instr) (op : Nat) (f : F32 → List F32 → F32) (c n d : Nat) (e : Desc) (b : GillBody) (s : State),
    (i, op, f) ∈ reductions → GillRuns s c n d e b → b.op = op → opSpace b.dst = 0 →
    (∀ g ∈ reduceGroups b (srcVals s c n b e.scalars 0 b.srcA), g ≠ []) →
    reduceGroups b (srcVals s c n b e.scalars 0 b.srcA) ≠ [] →
    Does (i c) s fun t => GillDone c d Sts.ok e s t ∧ MemSame s t ∧
      ∀ j x l, (reduceGroups b (srcVals s c n b e.scalars 0 b.srcA))[j]? = some (x :: l) →
        vreg t c n (opAddr b.dst % 8) j = f x l

/-- RELEASE frees a HELD bank and changes no other bank; in any other state the bank stays as it is and RELEASE_IGNORED is logged; it
ends with OK either way (03 R84). SPILL of a HELD bank takes it into SPILLING, then writes the tile and leaves the bank FREE, or HELD
with KEEP; a tile that meets an active ring is refused and writes nothing; SPILL of a FREE bank ends with PROTOCOL_VIOLATION and writes
nothing (05 R143; 07 R218). That a SPILL is two commands is the model's choice (log 66). -/
def Obligations.GillBanks : Prop :=
  ∀ (c n d : Nat) (e : Desc) (b : GillBody) (s : State), GillRuns s c n d e b → opAddr b.srcA / 0x10000 < 2 →
    (∀ k ∈ s.clusters, k.banks.length = 2) → Memory.wf 0 s.mem = true →
    (b.op = opRelease → (bankOf s c (opAddr b.srcA / 0x10000)).st = .held →
      Does (.release c) s fun t => GillDone c d Sts.ok e s t ∧ MemSame s t ∧ (bankOf t c (opAddr b.srcA / 0x10000)).st = .free ∧
        bankOf t c (1 - opAddr b.srcA / 0x10000) = bankOf s c (1 - opAddr b.srcA / 0x10000)) ∧
    (b.op = opRelease → (bankOf s c (opAddr b.srcA / 0x10000)).st ≠ .held →
      Does (.release c) s fun t => GillDone c d Sts.ok e s t ∧ MemSame s t ∧ (∀ x, bankOf t c x = bankOf s c x) ∧
        ∃ v ∈ t.events.ring.getLast?, v.code % 256 = 0x08 ∧ v.stamp = s.time.now) ∧
    (b.op = opSpill → (bankOf s c (opAddr b.srcA / 0x10000)).gill ≠ some d → (bankOf s c (opAddr b.srcA / 0x10000)).st = .free →
      Does (.spill c) s fun t => GillDone c d Sts.protocolViolation e s t ∧ MemSame s t) ∧
    (b.op = opSpill → (bankOf s c (opAddr b.srcA / 0x10000)).gill ≠ some d → (bankOf s c (opAddr b.srcA / 0x10000)).st = .held →
      Does (.spill c) s fun t => (bankOf t c (opAddr b.srcA / 0x10000)).st = .spilling ∧
        (bankOf t c (opAddr b.srcA / 0x10000)).gill = some d ∧ SameBut [.clusters] s t ∧ GillRuns t c n d e b) ∧
    (b.op = opSpill → (bankOf s c (opAddr b.srcA / 0x10000)).gill = some d →
      ∀ ws, ws = (storeRows (opFmt b.dst) b.rnd b.scsel (scratchBase c + opAddr b.dst) (scratchBase c + b.scaleDst) b.rowStride
        ((List.range b.rows).map fun r => (List.range b.cols).map fun j => rdF32 s (cellAt c (opAddr b.srcA / 0x10000) r j))
        (drawsOf b.rnd b.seed b.step b.tensorId) (fun r j => b.index0 + r * b.scaleSrc + j)).1 →
      (ws.any (fun w => onRing s w.1 w.2.length) = true → Does (.spill c) s fun t => GillDone c d Sts.notPermitted e s t ∧
        (bankOf t c (opAddr b.srcA / 0x10000)).st = .held ∧ MemSame s t) ∧
      (ws.any (fun w => onRing s w.1 w.2.length) = false →
        Does (.spill c) s fun t => GillDone c d Sts.ok e s t ∧
          (bankOf t c (opAddr b.srcA / 0x10000)).st = (if b.keep then .held else .free) ∧
          ∀ x, (∀ w ∈ ws, x < w.1 ∨ w.1 + w.2.length ≤ x) → rd8 t x = rd8 s x))

/-- A Tun pass runs through the states of its bank (03 R79, R80, Table 3.5). A plain pass starts in a FREE bank, which is LOADING or
ACCUMULATING; the init load brings every cell its FP32 value with all 32 bits; the last product leaves in each cell the sum of the
products in ascending k, one rounding each, from the cell's init or from +0 (R58, R67); END = KEEP completes with the bank HELD, and
otherwise the bank is SPILLING until the tile is written, and only then FREE, or HELD. A gathered pass whose row map holds an entry
out of range is malformed at byte 76 (R87).
When a pass reads its operands is the model's choice (log 14). -/
def Obligations.TunPassRuns : Prop :=
  ∀ (c d : Nat) (k : Cluster) (e : Desc) (x : TunBody) (s : State), clusterPaused s c = false →
    s.clusters[c]? = some k → k.banks.length = 2 → x.bank < 2 → tfind d s.descs = some e → e.body = .tun x → e.result = none →
    Memory.wf 0 s.mem = true →
    (k.tunQueue.head? = some d → startReady s d e = true → (bankOf s c x.bank).st = .free → x.gather = 0 →
      Does (.tunPassStart c) s fun t => (bankOf t c x.bank).st = (if x.initLoad then .loading else .accumulating) ∧
        (bankOf t c x.bank).run = some d ∧ MemSame s t ∧ ∃ v, tfind d t.descs = some v ∧ v.stage = .started) ∧
    (k.tunQueue.head? = some d → startReady s d e = true → (bankOf s c x.bank).st = .free → x.gather ≠ 0 →
      ringRead s (scratchBase c + x.rowmap) 128 = .ready →
      Does (.tunPassStart c) s fun t =>
        (rowMapBad x (rdBytes s (scratchBase c + x.rowmap) 128) = false →
          (bankOf t c x.bank).run = some d ∧ (bankOf t c x.bank).rowmap = rdBytes s (scratchBase c + x.rowmap) 128) ∧
        (rowMapBad x (rdBytes s (scratchBase c + x.rowmap) 128) = true → (bankOf t c x.bank).st = .free ∧
          ∃ v, tfind d t.descs = some v ∧ v.result = some ⟨Sts.protocolViolation, 76, s.time.now⟩)) ∧
    ((bankOf s c x.bank).run = some d → (bankOf s c x.bank).st = .loading → x.gather = 0 → x.n ≤ 128 →
      ringReads s (ownRanges c [(x.initAddr, (x.m - 1) * x.outStride + 4 * tunOutCols x)]) = .ready →
      Does (.initLoadDone c x.bank) s fun t => (bankOf t c x.bank).st = .accumulating ∧
        ∀ i j, i < x.m → j < x.n →
          rdF32 t (cellAt c x.bank i j) = rdF32 s (scratchBase c + x.initAddr + i * x.outStride + 4 * j)) ∧
    ((bankOf s c x.bank).run = some d → (bankOf s c x.bank).st = .accumulating → (bankOf s c x.bank).second = false → x.gather = 0 →
      x.n ≤ 128 → ringReads s (ownRanges c (tunOperandRanges x)) = .ready →
      Does (.tunLastProduct c x.bank) s fun t =>
        (∀ i j, i < x.m → j < x.n → rdF32 t (cellAt c x.bank i j) =
          ((((matrixVals s x.aFmt (scratchBase c + x.aAddr) (scratchBase c + x.aScale) x.aStride x.aTurn x.m x.k).getD i []).zip
            ((matrixVals s x.bFmt (scratchBase c + x.bAddr) (scratchBase c + x.bScale) x.bStride x.bTurn x.n x.k).getD j [])).foldl
              (fun acc p => accStep acc (p.1.mul p.2)) (if x.initLoad then rdF32 s (cellAt c x.bank i j) else 0#32))) ∧
        (x.endAct = 1 → (bankOf t c x.bank).st = .held ∧ ∃ v, tfind d t.descs = some v ∧ v.result = some ⟨Sts.ok, 0, s.time.now⟩) ∧
        (x.endAct ≠ 1 → (bankOf t c x.bank).st = .spilling ∧ tfind d t.descs = some e)) ∧
    ((bankOf s c x.bank).run = some d → (bankOf s c x.bank).st = .spilling →
      ∀ ws, ws = (tunSpillWrites s c x.bank x (bankOf s c x.bank).rowmap).1 →
      (ws.any (fun w => onRing s w.1 w.2.length) = false →
        Does (.tunSpillDone c x.bank) s fun t => (bankOf t c x.bank).st = (if x.endAct = 2 then .held else .free) ∧
          (∃ v, tfind d t.descs = some v ∧ v.result = some ⟨Sts.ok, 0, s.time.now⟩) ∧
          ∀ a, (∀ w ∈ ws, a < w.1 ∨ w.1 + w.2.length ≤ a) → rd8 t a = rd8 s a) ∧
      (ws.any (fun w => onRing s w.1 w.2.length) = true →
        Does (.tunSpillDone c x.bank) s fun t => (bankOf t c x.bank).st = .free ∧ MemSame s t ∧
          ∃ v, tfind d t.descs = some v ∧ v.result = some ⟨Sts.notPermitted, 0, s.time.now⟩))

/-- A READY entry becomes COMBINING when Gill is free, and nothing else changes (05 R147). The combination (05 R148) reads slot 0, then adds slots 1 to S − 1 in ascending order, elementwise, and writes full-width FP32 to DEST;
its completion goes to the arming descriptor with OK, and the entry becomes FREE. The result is a function of the slots' contents
alone, so the order of arrival has no effect on it. That it is two commands is the model's choice (log 66). -/
def Obligations.CombinationSums : Prop :=
  ∀ (c i : Nat) (k : Cluster) (v : Comb) (e : Desc) (b : CombBody) (s : State),
    s.clusters[c]? = some k → k.comb[i]? = some v → clusterPaused s c = false →
    (v.st = .ready → gillBusy k = false → Does (.combination c i) s fun t =>
      combOf' t c i = { v with st := .combining } ∧ SameBut [.clusters] s t) ∧
    (v.st = .ready → gillBusy k = true → Does (.combination c i) s fun t => t = s) ∧
    (v.st = .combining → 1 ≤ v.s → v.tileBytes % 4 = 0 →
    tfind v.desc s.descs = some e → e.body = .comb b → e.result = none → Memory.wf 0 s.mem = true →
    ringReads s ((List.range v.s).map fun q => (scratchBase c + v.slotBase + q * v.slotStride, v.tileBytes)) = .ready →
    onRing s (scratchBase c + v.dest) v.tileBytes = false →
    Does (.combination c i) s fun t =>
      (∀ j, 4 * j < v.tileBytes → rdF32 t (scratchBase c + v.dest + 4 * j) =
        ((List.range (v.s - 1)).map fun q => rdF32 s (scratchBase c + v.slotBase + (q + 1) * v.slotStride + 4 * j)).foldl fAdd
          (rdF32 s (scratchBase c + v.slotBase + 4 * j))) ∧
      MemBut (scratchBase c + v.dest) v.tileBytes s t ∧ (combOf' t c i).st = .free ∧
      ∃ w, tfind v.desc t.descs = some w ∧ w.result = some ⟨Sts.ok, 0, s.time.now⟩)

/-- A shard's completion reaches its entry (05 R146): an ARMED entry that awaits it notes the shard, and becomes READY with the last of
its S shards; a shard that is noted already, is stamped after the deadline (10 R319, R322), is not of the entry's shape, or finds the entry
FREE is logged and changes no entry. -/
def Obligations.ShardArrives : Prop :=
  ∀ (c : Nat) (k : Cluster) (n : ShardNotice) (rest : List ShardNotice) (v : Comb) (s : State),
    s.clusters[c]? = some k → k.notices = n :: rest → k.comb[n.entry]? = some v →
    (v.st = .armed → v.rood = n.rood → n.shards = v.s → n.shard < v.s → n.bytes = v.tileBytes →
      rodPast s v.deadline n.stamp = false → v.mask.testBit n.shard = false →
      Does (.shardResident c) s fun t => (combOf' t c n.entry).mask.testBit n.shard = true ∧
        (combOf' t c n.entry).st = (if setBit v.mask n.shard = 2 ^ v.s - 1 then .ready else .armed) ∧
        (∀ i, i ≠ n.entry → combOf' t c i = combOf' s c i) ∧ (t.clusters[c]?).map (·.notices) = some rest) ∧
    ((v.st = .free ∨ (v.rood = n.rood ∧ n.shards ≠ v.s) ∨
        (v.rood = n.rood ∧ n.shards = v.s ∧ n.shard < v.s ∧ n.bytes = v.tileBytes ∧
          (rodPast s v.deadline n.stamp = true ∨ v.mask.testBit n.shard = true))) →
      Does (.shardResident c) s fun t => (∀ i, combOf' t c i = combOf' s c i) ∧ t.events.head = (s.events.head + 1) % 2 ^ 32)

/-! ### Control cores (05, 06) -/

/-- The tensor-issue instructions that read: each writes its value to rd, where register 0 stays zero, moves the pc on by 4 and changes
nothing else: a scalar entry of the cluster (R150), the VALUE, or STATUS and SEQ, of the core's own summary slot (R153), the rod
number with its era, a sync counter with FAILED in bit 32 (R177), and the status of a descriptor by its SEQ: 0x200 where it is not
among the last 64 that its program issued, 0x100 for TI.POLL where it is not complete (R194, R195).
The core's registers are those of RV64GC (log 15). -/
def Obligations.CoreReadsRetire : Prop :=
  ∀ (c n rd : Nat) (rs1 : Word) (q : Cluster) (k : Core) (s : State),
    coreRuns s c n = true → s.clusters[c]? = some q → q.cores[n]? = some k →
    Does (.tiScr c n rd rs1) s (CoreTakes c n rd (tgetD (rs1.toNat % 64) 0 q.scalars) k s) ∧
    Does (.tiSumrd c n rd rs1) s (CoreTakes c n rd (w64 (tgetD (rs1.toNat % 4) {} k.sums).value) k s) ∧
    Does (.tiSumst c n rd rs1) s (CoreTakes c n rd
      (w64 ((tgetD (rs1.toNat % 4) {} k.sums).status + 2 ^ 16 * (tgetD (rs1.toNat % 4) {} k.sums).seq)) k s) ∧
    Does (.tiRod c n rd) s (CoreTakes c n rd (w64 (rodNum s + 2 ^ 48 * (eraOf s s.time.now % 2 ^ 16))) k s) ∧
    Does (.tiSyncrd c n rd rs1) s (CoreTakes c n rd (w64 ((ctrGet (coreRood s c n) (rs1.toNat % 256) s).value +
      if (ctrGet (coreRood s c n) (rs1.toNat % 256) s).failed then 2 ^ 32 else 0)) k s) ∧
    Does (.tiPoll c n rd rs1) s (CoreTakes c n rd (w64
      (if dist 32 k.nextSeq (rs1.toNat % 2 ^ 32) = 0 ∨ 64 < dist 32 k.nextSeq (rs1.toNat % 2 ^ 32) ∨
          k.issued < dist 32 k.nextSeq (rs1.toNat % 2 ^ 32) then 0x200
        else tgetD (rs1.toNat % 2 ^ 32) 0x100 k.board)) k s)

/-- The tensor-issue instructions that wait: each retires at once where its condition holds, and otherwise stalls the core, with the
pc on the instruction: TI.WAIT for a descriptor's status, TI.FENCE for every descriptor issued, TI.SUMWAIT for a summary's SEQ by
serial comparison (R154), TI.RODWAIT for a rod (R194). CORE_WAIT_WAKE retires a stalled instruction once its condition holds, and
leaves the core as it is before; a change of the cluster's clock pauses its cores (R162).
The core's registers are those of RV64GC (log 15). -/
def Obligations.CoreWaits : Prop :=
  ∀ (c n rd : Nat) (rs1 rs2 : Word) (q : Cluster) (k : Core) (s : State), s.clusters[c]? = some q → q.cores[n]? = some k →
    (coreRuns s c n = true → seqStatus k (rs1.toNat % 2 ^ 32) ≠ 0x100 →
      Does (.tiWait c n rd rs1) s (CoreTakes c n rd (w64 (seqStatus k (rs1.toNat % 2 ^ 32))) k s)) ∧
    (coreRuns s c n = true → seqStatus k (rs1.toNat % 2 ^ 32) = 0x100 →
      Does (.tiWait c n rd rs1) s (CoreStalls c n .waitGill (.seq rd (rs1.toNat % 2 ^ 32)) k s)) ∧
    (coreRuns s c n = true → k.queue = [] → Does (.tiFence c n) s (CoreTakes c n 0 0 k s)) ∧
    (coreRuns s c n = true → k.queue ≠ [] → Does (.tiFence c n) s (CoreStalls c n .waitGill .fence k s)) ∧
    (coreRuns s c n = true → atOrAfter 16 (tgetD (rs1.toNat % 4) {} k.sums).seq (rs2.toNat % 2 ^ 16) = true →
      Does (.tiSumwait c n rs1 rs2) s (CoreTakes c n 0 0 k s)) ∧
    (coreRuns s c n = true → atOrAfter 16 (tgetD (rs1.toNat % 4) {} k.sums).seq (rs2.toNat % 2 ^ 16) = false →
      Does (.tiSumwait c n rs1 rs2) s (CoreStalls c n .waitSummary (.summary (rs1.toNat % 4) (rs2.toNat % 2 ^ 16)) k s)) ∧
    (coreRuns s c n = true → atOrAfter 48 (rodNum s) (rs1.toNat % 2 ^ 48) = true →
      Does (.tiRodwait c n rd rs1) s (CoreTakes c n rd (rodWord s) k s)) ∧
    (coreRuns s c n = true → atOrAfter 48 (rodNum s) (rs1.toNat % 2 ^ 48) = false →
      Does (.tiRodwait c n rd rs1) s (CoreStalls c n .running (.rod rd (rs1.toNat % 2 ^ 48)) k s)) ∧
    (runsWork s = true → clusterPaused s c = false → k.st ≠ .stopped →
      (∀ sl sq, k.wait = some (.summary sl sq) → sumReached k sl sq = true →
        Does (.coreWaitWake c n) s fun t =>
          coreAt t c n = some { k with st := .running, wait := none, pc := (k.pc + 4) % 2 ^ 48 } ∧ SameBut [.clusters] s t) ∧
      (∀ sl sq, k.wait = some (.summary sl sq) → sumReached k sl sq = false → Does (.coreWaitWake c n) s fun t => t = s) ∧
      (∀ rd' r, k.wait = some (.rod rd' r) → atOrAfter 48 (rodNum s) r = true →
        Does (.coreWaitWake c n) s fun t => coreAt t c n = some { k with
          x := (if rd' % 32 = 0 then k.x else tset (rd' % 32) (rodWord s) k.x), st := .running, wait := none,
          pc := (k.pc + 4) % 2 ^ 48 }) ∧
      (k.wait = some .fence → k.queue = [] →
        Does (.coreWaitWake c n) s fun t => coreAt t c n = some { k with st := .running, wait := none, pc := (k.pc + 4) % 2 ^ 48 }))

/-- The tensor-issue instructions that write. TI.SCW sets an entry of the core's own sixteen and no other (R150); an entry of another
core's traps with an illegal instruction and writes none. TI.SYNCADD adds modulo 2^32 to a counter of the core's rood and keeps
FAILED, and a wait tested in the same uncore clock does not see it (R178); TI.SYNCSET sets it and clears FAILED (R177, R195).
The core's registers and trap causes are those of RV64GC (log 15). -/
def Obligations.CoreWrites : Prop :=
  ∀ (c n : Nat) (rs1 rs2 : Word) (q : Cluster) (k : Core) (s : State),
    coreRuns s c n = true → s.clusters[c]? = some q → q.cores[n]? = some k → coreRood s c n < s.roods.length →
    (rs1.toNat % 64 / 16 = n → Does (.tiScw c n rs1 rs2) s fun t =>
      (∃ u, t.clusters[c]? = some u ∧ u.scalars = tset (rs1.toNat % 64) rs2 q.scalars) ∧
        coreAt t c n = some { k with pc := (k.pc + 4) % 2 ^ 48 } ∧ SameBut [.clusters] s t) ∧
    (rs1.toNat % 64 / 16 ≠ n → Does (.tiScw c n rs1 rs2) s fun t =>
      (∃ u, t.clusters[c]? = some u ∧ u.scalars = q.scalars) ∧ ∃ u, coreAt t c n = some u ∧ u.st = .idle ∧ u.mcause = 2 ∧ u.mepc = k.pc) ∧
    Does (.tiSyncadd c n rs1 rs2) s (fun t =>
      (ctrGet (coreRood s c n) (rs1.toNat % 256) t).value =
        ((ctrGet (coreRood s c n) (rs1.toNat % 256) s).value + rs2.toNat % 2 ^ 32) % 2 ^ 32 ∧
      (ctrGet (coreRood s c n) (rs1.toNat % 256) t).failed = (ctrGet (coreRood s c n) (rs1.toNat % 256) s).failed ∧
      ctrSeen (uncoreClock s) (ctrGet (coreRood s c n) (rs1.toNat % 256) t) =
        ctrSeen (uncoreClock s) (ctrGet (coreRood s c n) (rs1.toNat % 256) s) ∧
      (∀ i, i ≠ rs1.toNat % 256 → ctrGet (coreRood s c n) i t = ctrGet (coreRood s c n) i s) ∧
      coreAt t c n = some { k with pc := (k.pc + 4) % 2 ^ 48 } ∧ SameBut [.clusters, .roods] s t) ∧
    Does (.tiSyncset c n rs1 rs2) s (fun t =>
      ctrGet (coreRood s c n) (rs1.toNat % 256) t = ⟨rs2.toNat % 2 ^ 32, false, none⟩ ∧
      (∀ i, i ≠ rs1.toNat % 256 → ctrGet (coreRood s c n) i t = ctrGet (coreRood s c n) i s) ∧
      coreAt t c n = some { k with pc := (k.pc + 4) % 2 ^ 48 } ∧ SameBut [.clusters, .roods] s t)

/-- TI.ISSUE, TI.EXIT and traps. TI.ISSUE takes the 128 bytes at a 128-byte offset into the core's issue queue and gives rd its SEQ; a
full queue stalls it; an offset that is not a multiple of 128 traps with a misaligned load and one beyond the scratchpad with a load
fault, and neither issues (R173, R195); on a ring it waits for an EMPTY slot, and what a POISONED slot holds runs nothing (07 R218). TI.EXIT ends the program once every descriptor issued has completed: the core is IDLE, and a
RUN of this one core completes with OK and the exit value (R192). A trap ends the program: mepc holds the pc of the instruction and
mcause the cause, and a RUN of this core completes with SQUASHED, or with NOT_PERMITTED for a PMP fault or a refused store (R197), which
an access fault is as its address and the rood's table say, whatever the kind given; an access that they let the program make does not trap
(R157).
The numbers of the trap causes are those of RV64GC (log 15). -/
def Obligations.CoreIssuesAndEnds : Prop :=
  ∀ (c n rd d mc addr : Nat) (rs1 : Word) (kind : TrapKind) (q : Cluster) (k : Core) (e : Desc) (b : RunBody) (s : State),
    coreRuns s c n = true → s.clusters[c]? = some q → q.cores[n]? = some k →
    (rs1.toNat % 128 = 0 → rs1.toNat + 128 ≤ 0x1000000 → k.queue.length < 64 →
      ringRead s (scratchBase c + rs1.toNat) 128 = .ready → Does (.tiIssue c n rd rs1) s fun t =>
      t.nextDesc = s.nextDesc + 1 ∧
        (∃ v, tfind s.nextDesc t.descs = some v ∧ v.src = .core c n ∧ v.seq = k.nextSeq ∧ v.pid = k.pid) ∧
        ∃ u, coreAt t c n = some u ∧ u.queue = k.queue ++ [s.nextDesc] ∧ u.nextSeq = (k.nextSeq + 1) % 2 ^ 32 ∧
          u.pc = (k.pc + 4) % 2 ^ 48 ∧ u.x = (if rd % 32 = 0 then k.x else tset (rd % 32) (w64 k.nextSeq) k.x)) ∧
    (rs1.toNat % 128 = 0 → rs1.toNat + 128 ≤ 0x1000000 → k.queue.length < 64 →
      ringRead s (scratchBase c + rs1.toNat) 128 = .stall →
      Does (.tiIssue c n rd rs1) s (CoreStalls c n .running (.issue rd rs1.toNat) k s)) ∧
    (∀ st, rs1.toNat % 128 = 0 → rs1.toNat + 128 ≤ 0x1000000 → k.queue.length < 64 →
      ringRead s (scratchBase c + rs1.toNat) 128 = .poisoned st → Does (.tiIssue c n rd rs1) s fun t =>
        ∃ v, tfind s.nextDesc t.descs = some v ∧ v.src = .core c n ∧ v.seq = k.nextSeq ∧ v.result ≠ none) ∧
    (rs1.toNat % 128 = 0 → rs1.toNat + 128 ≤ 0x1000000 → 64 ≤ k.queue.length →
      Does (.tiIssue c n rd rs1) s (CoreStalls c n .running (.issue rd rs1.toNat) k s)) ∧
    (rs1.toNat % 128 ≠ 0 → Does (.tiIssue c n rd rs1) s fun t => t.nextDesc = s.nextDesc ∧
      ∃ u, coreAt t c n = some u ∧ u.st = .idle ∧ u.mcause = 4 ∧ u.mepc = k.pc) ∧
    (rs1.toNat % 128 = 0 → 0x1000000 < rs1.toNat + 128 → Does (.tiIssue c n rd rs1) s fun t => t.nextDesc = s.nextDesc ∧
      ∃ u, coreAt t c n = some u ∧ u.st = .idle ∧ u.mcause = 5 ∧ u.mepc = k.pc) ∧
    (k.queue ≠ [] → Does (.tiExit c n rs1) s (CoreStalls c n .waitGill (.exit (rs1.toNat % 2 ^ 32)) k s)) ∧
    (k.queue = [] → k.run = some d → tfind d s.descs = some e → e.body = .run b → e.result = none → runCores b = [n] → e.ends = [] →
      Does (.tiExit c n rs1) s fun t => (∃ u, coreAt t c n = some u ∧ u.st = .idle ∧ u.run = none) ∧
        ∃ v, tfind d t.descs = some v ∧ v.result = some ⟨Sts.ok, rs1.toNat % 2 ^ 32, s.time.now⟩) ∧
    (k.run = some d → tfind d s.descs = some e → e.body = .run b → e.result = none → runCores b = [n] → e.ends = [] →
      d ∉ k.queue → (mc ∉ [1, 5, 7] ∨ coreReach s c mc addr ≠ .ok) →
      Does (.coreTrap c n kind mc addr) s fun t =>
        (∃ u, coreAt t c n = some u ∧ u.st = .idle ∧ u.userMode = false ∧ u.run = none ∧ u.mcause = mc ∧ u.mepc = k.pc ∧
          u.trapCause = mc % 256 ∧ u.queue = []) ∧
        ∃ v, tfind d t.descs = some v ∧ v.result =
          some ⟨(if mc ∉ [1, 5, 7] ∨ coreReach s c mc addr = .fetch then Sts.squashed else Sts.notPermitted), 0x80000000 + mc % 256,
            s.time.now⟩) ∧
    (mc ∈ [1, 5, 7] → coreReach s c mc addr = .ok → Does (.coreTrap c n kind mc addr) s fun t => t = s)

/-! ### Spares, Firkin engines and base range entries (03, 04, 14) -/

/-- Failed clusters (03 R93 to R97; 14 R527). A cluster that is declared failed gives its number to the spare: its work ends with
CLUSTER_LOST, it is emptied, and it waits for the takeover; without a ready spare it is ABSENT. The takeover comes at a furlong
boundary; the number then names the spare's part, and the spare is in use (05 Table 5.11). A spare that fails while it is being substituted is failed, and the number
ABSENT. A failed self-test marks the spare FAILED and is logged; a passed one is noted in the self-test register only.
Failed engines (04 R119 to R122; 14 R527): an engine declared failed waits for its stack's spare, or enters FALLBACK without one;
the takeover at a furlong boundary gives its number to the spare's part; a spare that fails in turn, before or after it has taken over, is FAILED and leaves the engine in
FALLBACK; a
failed self-test marks the spare FAILED. -/
def Obligations.SparesTakeOver : Prop :=
  (∀ (c cause step : Nat) (k : Cluster) (s : State), s.clusters[c]? = some k →
    (k.mode = .active → spareFree s = true → Does (.clusterFailed c cause) s fun t =>
      (∃ u, t.clusters[c]? = some u ∧ u.mode = .substituting ∧ u.phys = k.phys ∧ u.tunQueue = [] ∧ u.gillRun = none) ∧
        t.spareCluster = s.spareCluster ∧
        (∀ d e, tfind d s.descs = some e → onCluster c e = true → e.stage ≠ .dispatcher → e.result = none →
          tfind d t.descs = some { e with result := some ⟨Sts.clusterLost, 0, s.time.now⟩ }) ∧
        ∀ d e, tfind d s.descs = some e → onCluster c e = false → tfind d t.descs = some e) ∧
    (k.mode = .active → spareFree s = false → Does (.clusterFailed c cause) s fun t =>
      (∃ u, t.clusters[c]? = some u ∧ u.mode = .absent) ∧ t.spareCluster = s.spareCluster) ∧
    (k.mode = .substituting → atFurlong s = true → Does (.clusterSpareIn c) s fun t =>
      ∃ u, t.clusters[c]? = some u ∧ u.mode = .active ∧ u.phys = s.spareCluster.phys ∧ u.served = none ∧
        t.spareCluster = { s.spareCluster with st := .inUse }) ∧
    (k.mode = .substituting → atFurlong s = false → Does (.clusterSpareIn c) s fun t => t = s) ∧
    (k.mode = .substituting → Does (.repeatFailure (.cluster c) cause) s fun t =>
      t.spareCluster.st = .failed ∧ ∃ u, t.clusters[c]? = some u ∧ u.mode = .absent) ∧
    (spareFree s = true →
      Does (.spareSelftest none false step) s (fun t => t.spareCluster.st = .failed ∧ t.clusters = s.clusters ∧
        ∃ e ∈ t.events.ring.getLast?, e.block = Blk.cluster s.spareCluster.phys ∧ e.code % 256 = 0x09) ∧
      Does (.spareSelftest none true step) s fun t =>
        t = { s with spareCluster := { s.spareCluster with selftest := w64 (rodNum s + 2 ^ 48) } })) ∧
  (∀ (n e cause step : Nat) (k : Stack) (g : Engine) (s : State), s.stks[n]? = some k → k.engines[e]? = some g →
    (g.mode = .active → k.spare = .ready → Does (.engineFailed n e cause) s fun t => ∃ u v, t.stks[n]? = some u ∧
      u.spare = .inUse ∧ u.engines[e]? = some v ∧ v.mode = .substituting ∧ v.run = g.run ∧ v.acc = none ∧ v.queue = g.queue) ∧
    (g.mode = .active → k.spare ≠ .ready → Does (.engineFailed n e cause) s fun t => ∃ u v, t.stks[n]? = some u ∧
      u.spare = (if g.phys = k.sparePhys then .failed else k.spare) ∧ u.engines[e]? = some v ∧ v.mode = .fallback ∧
      v.queue = g.queue) ∧
    (g.mode = .substituting → atFurlong s = true → Does (.spareIn n e) s fun t => ∃ u v, t.stks[n]? = some u ∧
      u.engines[e]? = some v ∧ v = { g with phys := k.sparePhys, mode := .active } ∧
      ∀ x, x ≠ n → t.stks[x]? = s.stks[x]?) ∧
    (g.mode = .substituting → Does (.repeatFailure (.engine n e) cause) s fun t => ∃ u v, t.stks[n]? = some u ∧
      u.spare = .failed ∧ u.engines[e]? = some v ∧ v.mode = .fallback) ∧
    (k.spare = .ready →
      Does (.spareSelftest (some n) false step) s (fun t => ∃ u, t.stks[n]? = some u ∧ u.spare = .failed) ∧
      Does (.spareSelftest (some n) true step) s fun t =>
        t = { s with stks := t.stks } ∧ t.stks[n]? = some { k with spareTest := rodNum s }))

/-- A Firkin pass. When nothing stalls it, the products are applied: output value (i, c) is the sum of the products of row i of the
activations and row c of the panel, or column c backward, in ascending reduction index, one rounding each, from INIT or +0 (R98, R100).
Its completion waits for those of the passes that the engine accepted before (R115), and drops the descriptor; of a pass that a core
issued, which writes no record, it writes every value with all 32 bits to OUT_ADDR at OUT_STRIDE and no other byte (R113, R114, R187).
A pass whose operands lie in an absent cluster ends with NOT_PERMITTED (03 R97). A change of the stack's clock pauses it (R129).
Errors of a Firkin pass. An uncorrectable SRAM word makes the pass run again once, with the products dropped; the second time the
engine is declared failed (R118). A weight bushel in error halts the pass there, at the bushel that it meets or that a read reports,
with the products that it has applied, and counts a refetch; a reported one is marked (R125). A halted pass does not complete.
When a pass reads its operands is the model's choice (log 14). -/
def Obligations.FirkinPasses : Prop :=
  (∀ (n e d : Nat) (k : Stack) (g : Engine) (v : Desc) (x : FirkinBody) (rg : Region) (acc : List F32) (s : State),
    s.stks[n]? = some k → k.engines[e]? = some g → g.run = some d → tfind d s.descs = some v → v.body = .firkin x → v.result = none →
    Memory.wf 0 s.mem = true →
    (stackPaused s n = true → g.acc = none → Does (.firkinPassRun n e) s fun t => t = s) ∧
    (stackPaused s n = false → g.acc = none → g.haltedAt = none → g.mode = .active → onAbsent s (firkinInputs x) = true →
      Does (.firkinPassRun n e) s fun t => MemSame s t ∧
        ∃ w, tfind d t.descs = some w ∧ w.result = some ⟨Sts.notPermitted, 0, s.time.now⟩) ∧
    (stackPaused s n = false → g.acc = none → g.haltedAt = none → g.mode = .active → onAbsent s (firkinInputs x) = false →
      ringReads s (firkinInputs x) = .ready →
      ((∀ a ∈ panelBushels x, a ∉ k.bad ∧ tfind a k.errs = none) → regionAt s x.wAddr = some rg →
        Does (.firkinPassRun n e) s fun t => (∃ u q l, t.stks[n]? = some u ∧ u.engines[e]? = some q ∧ q.acc = some l ∧
          u.macs = k.macs + x.b * x.j * x.kp ∧ (x.bwd = false → ∀ i c, i < x.b → c < x.j → l[i * x.j + c]? = some
            ((((activations s x).getD i []).zip (weightRow s rg x c)).foldl (fun a p => accStep a (p.1.mul p.2))
              (if x.initLoad then rdF32 s (x.initAddr + i * x.outStride + 4 * c) else 0#32)))) ∧ MemSame s t ∧
          tfind d t.descs = some v) ∧
      ((∃ a ∈ panelBushels x, a ∈ k.bad) → Does (.firkinPassRun n e) s fun t => MemSame s t ∧
        ∃ w, tfind d t.descs = some w ∧ w.result = some ⟨Sts.uncorrectable, 0, s.time.now⟩) ∧
      ((∀ a ∈ panelBushels x, a ∉ k.bad) →
        ∀ a, (panelBushels x).find? (fun b => (tfind b k.errs).isSome) = some a → Does (.firkinPassRun n e) s fun t => MemSame s t ∧
          tfind d t.descs = some v ∧ ∃ u, t.stks[n]? = some u ∧ u.refetches = satInc 16 k.refetches ∧ u.macs = k.macs ∧
            u.engines[e]? = some { g with haltedAt := some a })) ∧
    (g.acc = some acc → (g.haltedAt ≠ none ∨ stackPaused s n = true) → Does (.firkinPassComplete n e) s fun t => t = s) ∧
    (g.acc = some acc → g.haltedAt = none → stackPaused s n = false →
      (deadlineRod v = none → completesAfter s d v = false → recordsBefore s d v ⟨Sts.ok, 0, s.time.now⟩ = false →
        Does (.firkinPassComplete n e) s fun t => tfind d t.descs = none) ∧
      (completesAfter s d v = true → Does (.firkinPassComplete n e) s fun t =>
        ∃ w, tfind d t.descs = some w ∧ w.result ≠ none) ∧
      (deadlineRod v = none → completesAfter s d v = false → (∃ c m, v.src = .core c m) → 4 * firkinCols x ≤ x.outStride →
        onAbsent s (firkinOutputs x) = false → acc.length = x.b * firkinCols x →
        (∀ i, i < x.b → onRing s (x.outAddr + i * x.outStride) (4 * firkinCols x) = false) →
        Does (.firkinPassComplete n e) s fun t => tfind d t.descs = none ∧
          (∀ i c, i < x.b → c < firkinCols x → some (rdF32 t (x.outAddr + i * x.outStride + 4 * c)) = acc[i * firkinCols x + c]?) ∧
          ∀ a, (∀ i, i < x.b → a < x.outAddr + i * x.outStride ∨ x.outAddr + i * x.outStride + 4 * firkinCols x ≤ a) →
            rd8 t a = rd8 s a) ∧
      (onAbsent s (firkinOutputs x) = true → Does (.firkinPassComplete n e) s fun t =>
        ∀ w, tfind d t.descs = some w → w.result = some ⟨Sts.notPermitted, 0, s.time.now⟩))) ∧
  (∀ (n e d word addr : Nat) (k : Stack) (g : Engine) (v : Desc) (x : FirkinBody) (s : State),
    s.stks[n]? = some k → k.engines[e]? = some g → g.run = some d → g.mode = .active → tfind d s.descs = some v → v.body = .firkin x →
    (g.rerun = false → Does (.passRerun n e word) s fun t => ∃ u, t.stks[n]? = some u ∧ u.sramUncorr = satInc 16 k.sramUncorr ∧
      u.engines[e]? = some { g with rerun := true, acc := none }) ∧
    (g.rerun = true → Does (.passRerun n e word) s fun t => ∃ u q, t.stks[n]? = some u ∧ u.engines[e]? = some q ∧
      q.mode = (if k.spare = .ready then .substituting else .fallback) ∧ q.acc = none) ∧
    (addr / 4096 * 4096 ∈ panelBushels x → g.haltedAt = none → Does (.weightRefetch n e addr) s fun t => ∃ u, t.stks[n]? = some u ∧
      u.refetches = satInc 16 k.refetches ∧ u.engines[e]? = some { g with haltedAt := some (addr / 4096 * 4096) } ∧
      ∀ o rg, placeOf (addr / 4096 * 4096) 1 = .stk n o → regionAt s (addr / 4096 * 4096) = some rg → backed rg = true →
        blockHolds rg (addr / 4096 * 4096) = [addr / 4096 * 4096] →
        addr / 4096 * 4096 ∉ k.bad → tfind (addr / 4096 * 4096) k.errs = none →
        tfind (addr / 4096 * 4096) u.errs = some true ∧ u.uncorr = satInc 32 k.uncorr) ∧
    (addr / 4096 * 4096 ∉ panelBushels x → Does (.weightRefetch n e addr) s fun t => t = s))

/-- Base range entries (R104 to R106): LOCK_SET completes an entry that is being locked, and an entry that is RELEASING becomes FREE, with
every field zero, once no hold and no pass is left on it, and not before. -/
def Obligations.BaseRangeEntries : Prop :=
  ∀ (n i : Nat) (k : Stack) (l : LockEntry) (s : State), s.stks[n]? = some k → k.locks[i]? = some l →
    (l.st = .locking → Does (.lockSet n i) s fun t => ∃ u, t.stks[n]? = some u ∧ u.locks[i]? = some { l with st := .locked } ∧
      ∀ j, j ≠ i → u.locks[j]? = k.locks[j]?) ∧
    (l.st = .releasing → l.holds = 0 → l.passes = 0 → Does (.lockReleased n i) s fun t => ∃ u, t.stks[n]? = some u ∧
      u.locks[i]? = some {} ∧ ∀ j, j ≠ i → u.locks[j]? = k.locks[j]?) ∧
    ((l.st ≠ .releasing ∨ l.holds ≠ 0 ∨ l.passes ≠ 0) → Does (.lockReleased n i) s fun t => t = s)

/-! ### Streams, the stack tier and the flash tier (07) -/

/-- A stream descriptor starts (R206, R216): within its rood's quota it takes the lowest free context, empty and with the descriptor
noted; a LOAD, a STORE and a MOVE start alike, each by its own command. One whose addresses lie outside the tiers it names, or
whose store the rood may not use, completes with NOT_PERMITTED, or with a higher-ranking status of its flash range (R20), and takes none.
The lowest free context is the model's choice (log 19). -/
def Obligations.StreamsStart : Prop :=
  ∀ (i : Nat → Instr) (ops : List Nat) (d x : Nat) (e : Desc) (b : StreamBody) (s : State),
    (i, ops) ∈ [(Instr.loadStream, [0]), (.storeStream, [1]), (.moveStream, [2]), (.streamContextStart, [0, 1, 2])] →
    tfind d s.descs = some e → e.body = .stream b → b.op ∈ ops → startReady s d e = true →
    firstBelow 1024 (fun x => (tfind x s.streams.ctx).isNone) = some x →
    (s.streams.ctx.filter fun k => k.2.rood == e.rood).length < (match s.roods[e.rood]? with | some r => r.res.qCtx | none => 0) →
    ((b.srcTier = 3 ∨ inTier b.srcTier b.srcAddr = true) → inTier b.dstTier b.dstAddr = true →
      (b.srcTier = 3 → storeQpOk s e b = true) → startChecks s e.rood b = Sts.ok →
      Does (i d) s fun t => tfind d t.descs = some { e with stage := .started } ∧ MemSame s t ∧
        ∃ k, tfind x t.streams.ctx = some k ∧ k.desc = d ∧ k.rood = e.rood ∧ k.body = b ∧ k.placed = [] ∧ k.requested = [] ∧
          k.slots = [] ∧ k.released = 0) ∧
    ((b.srcTier ≠ 3 ∧ inTier b.srcTier b.srcAddr = false ∨ inTier b.dstTier b.dstAddr = false ∨
        b.srcTier = 3 ∧ storeQpOk s e b = false) →
      Does (i d) s fun t => t.streams.ctx = s.streams.ctx ∧
        tfind d t.descs = some { e with stage := .started, result := some ⟨statusMax Sts.notPermitted (startChecks s e.rood b), 0,
          s.time.now⟩ })

/-- Requests and slots of a stream. A port grants the context that stands first its next bushel (R224), a
stack port none while 512 bushels are outstanding at it (R223). A bushel of a LOAD that reads
well fills its EMPTY slot with its 4,096 bytes and is noted as placed, one whose slot is still FILLED waits, and one that
meets the ring of another context ends its stream and changes no byte (R217, R218). A slot
that may be released becomes EMPTY and is counted (R219). A written bucket applies at a furlong boundary and not before (R222). -/
def Obligations.StreamsMove : Prop :=
  ∀ (port x n i r u : Nat) (k : Ctx) (hdr : Option Meta) (data : List Byte) (s : State), tfind x s.streams.ctx = some k →
    Memory.wf 0 s.mem = true →
    (portPick s port = some (x, k) → Does (.portGrant port) s fun t =>
      ∃ v, tfind x t.streams.ctx = some v ∧ v.requested = k.requested ++ [nextRequest k] ∧ v.placed = k.placed) ∧
    (portPick s port = none → Does (.portGrant port) s fun t => t = s) ∧
    (port < 8 → 512 ≤ outstanding s port → Does (.portGrant port) s fun t => t = s) ∧
    (n ∈ k.requested → k.st ≠ .halted → k.body.srcTier ≠ 3 → k.body.op = 0 →
      (∃ c o, placeOf k.body.dstAddr 1 = .scratch c o ∧ clusterAbsent s c = false) → readSource s k n = .got hdr data → data.length = 4096 →
      (tfind (n % ringSlots k.body) k.slots = none → scaleSlot k.body.fmt = 0 →
        onOtherRing s x (k.body.dstAddr + 4096 * (n % ringSlots k.body)) 4096 = true →
        Does (.bushelPlaced x n) s fun t => MemSame s t ∧ ∃ v, tfind x t.streams.ctx = some v ∧ v.ended = true) ∧
      (tfind (n % ringSlots k.body) k.slots = none → scaleSlot k.body.fmt = 0 →
        onOtherRing s x (k.body.dstAddr + 4096 * (n % ringSlots k.body)) 4096 = false →
        Does (.bushelPlaced x n) s fun t =>
          (∃ v, tfind x t.streams.ctx = some v ∧ v.placed = k.placed ++ [n] ∧ tfind (n % ringSlots k.body) v.slots = some .filled ∧
            n ∉ v.requested) ∧ rdBytes t (k.body.dstAddr + 4096 * (n % ringSlots k.body)) 4096 = data ∧
          MemBut (k.body.dstAddr + 4096 * (n % ringSlots k.body)) 4096 s t) ∧
      (tfind (n % ringSlots k.body) k.slots ≠ none → Does (.bushelPlaced x n) s fun t => t = s)) ∧
    (slotReleasable s k i = true → Does (.slotRelease x i) s fun t =>
      ∃ v, tfind x t.streams.ctx = some v ∧ tfind i v.slots = none ∧ v.released = k.released + 1 ∧ v.placed = k.placed) ∧
    (slotReleasable s k i = false → Does (.slotRelease x i) s fun t => t = s) ∧
    ((bucketOf s r u).pending = true → atFurlong s = true → Does (.bucketApply r u) s fun t =>
      (bucketOf t r u).pending = false ∧ (bucketOf t r u).rate = bits (bucketOf s r u).written.toNat 0 32 ∧
        (bucketOf t r u).burst = bits (bucketOf s r u).written.toNat 32 16 ∧
        (bucketOf t r u).tokens ≤ (bucketOf t r u).burst * 1024 * 1100) ∧
    (atFurlong s = false → Does (.bucketApply r u) s fun t => t = s)

/-- The ends and halts of a stream (R220, R225 to R227): the last bushel completes it with OK; a fault of the flash, or of a stack
bushel whose copies have failed, halts it at the bushel, with its later requests discarded; resolved, it runs again with no fault; unresolvable, it ends with UNCORRECTABLE and the
bushel's number as DETAIL. A context that has ended is CLOSING until the completion is written (Table 7.7; Obligations.CompletionRecords). -/
def Obligations.StreamsEnd : Prop :=
  ∀ (x n : Nat) (cause : HaltCause) (k : Ctx) (e : Desc) (s : State), tfind x s.streams.ctx = some k →
    tfind k.desc s.descs = some e → e.result = none →
    (k.st = .closing → k.ended = false → k.placed.length = k.body.bushels → Does (.streamComplete x) s fun t => MemSame s t ∧
      (∃ u, tfind x t.streams.ctx = some u ∧ u.st = .closing ∧ u.ended = true) ∧
      ∃ v r, tfind k.desc t.descs = some v ∧ v.result = some r ∧ r.status = Sts.ok) ∧
    (k.st ≠ .closing → Does (.streamComplete x) s fun t => t = s) ∧
    (n ∈ k.requested → k.st ≠ .halted → cause ∈ [.flashUnstaged, .flashUncorrectable] → k.body.srcTier = 2 →
      Does (.streamHalt x n cause) s fun t => ∃ v, tfind x t.streams.ctx = some v ∧ v.st = .halted ∧ v.requested = [] ∧
        v.placed = k.placed ∧ v.fault = some (cause, n, srcOf k n)) ∧
    (∀ g, n ∈ k.requested → k.st ≠ .halted → k.body.srcTier = 1 → cause = .stackUncorrectable → regionAt s (srcOf k n) = some g →
      g.kind = 2 → Does (.streamHalt x n cause) s fun t => ∃ v, tfind x t.streams.ctx = some v ∧ v.st = .halted ∧
        v.fault = some (cause, n, srcOf k n) ∧ tgetD 2 0 t.streams.halts = satInc 16 (tgetD 2 0 s.streams.halts)) ∧
    (k.st = .halted → haltResolved s k = true → Does (.streamResume x) s fun t =>
      ∃ v, tfind x t.streams.ctx = some v ∧ v.st ≠ .halted ∧ v.fault = none ∧ v.placed = k.placed) ∧
    (k.st = .halted → haltResolved s k = false → Does (.streamResume x) s fun t => t = s) ∧
    (k.st = .halted → k.ended = false → Does (.streamUnresolved x) s fun t =>
      (∃ u, tfind x t.streams.ctx = some u ∧ u.st = .closing ∧ u.ended = true) ∧
      ∃ v r, tfind k.desc t.descs = some v ∧ v.result = some r ∧ r.status = Sts.uncorrectable ∧ r.detail = position k)

/-- Errors of the stack tier (R229 to R231; 04 R107, R125). A codeword that the outer code corrects, with marked pseudo-channels as erasures, is
counted and changes nothing that is read (R229). An uncorrectable error of a codeword that it does not correct, or of a CHECKSUM, is noted
for every bushel whose data or metadata lie in the block, once (R210), and where a good copy exists it stays until the
recovery write, which takes only a bushel of the region's format whose checksum matches, restores its bytes and its metadata, writes
no byte outside it, and lets an engine that halted there go on; under a base range entry it changes no byte that the range held. With
no good copy, or no backing, the bushel stays bad, and an engine that halted there goes on to end its pass (04 R126). A pseudo-channel is marked
failed at 16 corrections within a second, and once. -/
def Obligations.StackErrors : Prop :=
  ∀ (n o a p : Nat) (g : Region) (k : Stack) (image : List Byte) (s : State), a % 4096 = 0 → placeOf a 1 = .stk n o →
    s.stks[n]? = some k → regionAt s a = some g → Memory.wf 0 s.mem = true →
    (∀ chans errs gc, outerCorrects k.pchFailed chans errs = true → Does (.stackUncorrectable a (.codeword chans errs) gc) s fun t =>
      t = { s with stks := t.stks, events := t.events } ∧
        ∃ u, t.stks[n]? = some u ∧ u.errs = k.errs ∧ u.bad = k.bad ∧ u.uncorr = k.uncorr ∧ u.eccOuter = satAdd 64 k.eccOuter 1) ∧
    ((∀ b ∈ blockHolds g a, tfind b k.errs = none ∧ b ∉ k.bad) → backed g = true →
      (∀ chans errs, outerCorrects k.pchFailed chans errs = false →
        Does (.stackUncorrectable a (.codeword chans errs) true) s fun t => ∃ u, t.stks[n]? = some u ∧
          (∀ b ∈ blockHolds g a, tfind b u.errs = some true) ∧ u.uncorr = satInc 32 k.uncorr ∧ u.badSum = k.badSum) ∧
      Does (.stackUncorrectable a .badChecksum true) s fun t => ∃ u, t.stks[n]? = some u ∧
        (∀ b ∈ blockHolds g a, tfind b u.errs = some true) ∧ u.uncorr = k.uncorr ∧ u.badSum = satInc 32 k.badSum) ∧
    (tfind a k.errs ≠ none → backed g = true → (metaOfImage image).fmt = g.fmt → (dataOfImage image).length = 4096 →
      bushelCrc (metaOfImage image) (dataOfImage image) = (metaOfImage image).checksum → writeCheck s .recovery a 4096 = .ok →
      ∀ h, recovered s a (metaOfImage image) (dataOfImage image) = some h →
      Does (.recoveryWrite a image) s fun t => rdBytes t a 4096 = dataOfImage image ∧ MemBut a 4096 s t ∧ metaAt t a = h ∧
        (lockMeets s a 4096 = none → h = metaOfImage image) ∧ (lockMeets s a 4096 ≠ none → MemSame s t ∧ h = metaAt s a) ∧
        ∃ u, t.stks[n]? = some u ∧ tfind a u.errs = none ∧ ∀ q ∈ u.engines, q.haltedAt ≠ some a) ∧
    (tfind a k.errs ≠ none → backed g = true → bushelCrc (metaOfImage image) (dataOfImage image) ≠ (metaOfImage image).checksum →
      Does (.recoveryWrite a image) s fun t => t = s) ∧
    (tfind a k.errs ≠ none → backed g = true → writeCheck s .recovery a 4096 = .ok →
      recovered s a (metaOfImage image) (dataOfImage image) = none → Does (.recoveryWrite a image) s fun t => t = s) ∧
    (∀ gc, g.kind ∈ [3, 4] → (gc = false ∨ g.backing = 0) → Does (.stackUncorrectable a .badChecksum gc) s fun t =>
      ∃ u, t.stks[n]? = some u ∧ ∀ b ∈ blockHolds g a, tfind b u.errs = none ∧ b ∈ u.bad ∧ ∀ q ∈ u.engines, q.haltedAt ≠ some b) ∧
    (p < 64 → k.pchFailed.testBit p = false → 16 ≤ pchRecent k p s.time.now → Does (.pchMarked n p) s fun t =>
      ∃ u, t.stks[n]? = some u ∧ u.pchFailed = setBit k.pchFailed p) ∧
    (k.pchFailed.testBit p = true ∨ pchRecent k p s.time.now < 16 → Does (.pchMarked n p) s fun t => t = s)

/-- The flash tier (R236, R237; 14 R421). A relocation comes once the block's read counter has reached the
threshold, is counted, clears the counter, adds the bushels that it moves to what is programmed (R243) and changes no bushel. Below 1 % of free over-provisioning the flash is
READ_ONLY. A failed die gives its place to the spare die, or without one makes the flash READ_ONLY. The end of a background erase is
noted. -/
def Obligations.FlashTier : Prop :=
  ∀ (block free phys r : Nat) (lost : List (Nat × Nat)) (s : State),
    (s.flash.rdDisturb ≤ tgetD block 0 s.flash.reads → Does (.readDisturbRelocate block) s fun t => t = { s with flash := t.flash } ∧
      t.flash.relocs = satInc 32 s.flash.relocs ∧ tfind block t.flash.reads = none ∧ t.flash.slots = s.flash.slots ∧
      t.flash.hostWritten = s.flash.hostWritten ∧ t.flash.nandWritten = s.flash.nandWritten + 4096 * blockBushels s.flash block) ∧
    (tgetD block 0 s.flash.reads < s.flash.rdDisturb → Does (.readDisturbRelocate block) s fun t => t = s) ∧
    (free < 100 → s.flash.mode = 0 → Does (.readOnly free) s fun t => t.flash.mode = 1 ∧ t.flash.overProv = free ∧
      Logged Blk.flash 0x04 s t) ∧
    (100 ≤ free → Does (.readOnly free) s fun t => t = { s with flash := { s.flash with overProv := free } }) ∧
    (phys ≠ s.flash.spareDie → s.flash.spareInUse = false → s.flash.spareFailed = false →
      Does (.dieFailed phys lost) s fun t => t.flash.spareInUse = true ∧ t.flash.mode = s.flash.mode ∧ t.flash.slots = s.flash.slots) ∧
    (phys = s.flash.spareDie → s.flash.spareInUse = false → Does (.dieFailed phys lost) s fun t =>
      t.flash.spareFailed = true ∧ t.flash.mode = s.flash.mode) ∧
    (s.flash.spareInUse = true → s.flash.mode = 0 → Does (.dieFailed phys lost) s fun t => t.flash.mode = 1) ∧
    ((nsOf s r).erasing = true → Does (.eraseDone r) s fun t => nsOf t r = { nsOf s r with erasing := false, eraseGiB := 0 } ∧
      ∀ q, q ≠ r → nsOf t q = nsOf s q) ∧
    ((nsOf s r).erasing = false → Does (.eraseDone r) s fun t => t = s)

/-! ### Base models and adapters (08) -/

/-- Base commands of the model mailbox (R244, R251, R253 to R255). A BASE_LOAD whose checks pass is DEFERRED, its epoch is LOADING and
each of this module's ranges has its entry in LOADING with
the writes of its range made, and goes to its lock point next; one whose manifest fails is answered with that status, and nothing is
written or opened. A BASE_FLIP
to a READY epoch and a BASE_SWAP are DEFERRED with the rod count at which they take effect; a flip to another epoch is refused. At
that count a flip makes its epoch CURRENT and the former one DRAINING, with its ranges RELEASING. A BASE_RELEASE drains its epoch, which
is gone, and logged, once it holds no range. A BASE_REPAIR that finds a good copy of every bushel in the sources repairs
every one and says how many. -/
def Obligations.BaseCommands : Prop :=
  (∀ (r : Nat) (w : LoadWorld) (c : Cmd) (s : State), nextCmd s .model r 0x01 = some c →
    (∀ m, LoadPasses r (modelCmd c.bytes) w m s → Does (.baseLoad r w) s fun t => Deferred .model r c s t ∧
      LoadedTo r (modelCmd c.bytes) m s t ∧ ∃ k b, t.roods[r]? = some k ∧ k.baseCmd = some b ∧ b.seq = c.seq ∧ b.code = 1 ∧
        b.epoch = (modelCmd c.bytes).epoch ∧ b.loadEnd = some (Sts.ok, 0)) ∧
    (∀ st, readManifest s r (modelCmd c.bytes) w = .inl st → Does (.baseLoad r w) s fun t => Answered .model r c 2 st 0 s t ∧
      (∀ i : Nat, (t.stks[i]?).map (fun k : Stack => k.locks) = (s.stks[i]?).map (fun k : Stack => k.locks)) ∧ t.mem = s.mem ∧ t.bushels = s.bushels)) ∧
  (∀ (r : Nat) (c : Cmd) (s : State), nextCmd s .model r 0x02 = some c →
    (EpochIs r (modelCmd c.bytes).epoch .ready s → Does (.baseFlip r) s fun t => Deferred .model r c s t ∧
      ∃ k b, t.roods[r]? = some k ∧ k.baseCmd = some b ∧ b.seq = c.seq ∧ b.code = 2 ∧ b.epoch = (modelCmd c.bytes).epoch ∧
        b.flipAt = flipCount s c (modelCmd c.bytes)) ∧
    (¬ EpochIs r (modelCmd c.bytes).epoch .ready s → Does (.baseFlip r) s fun t => Answered .model r c 1 Sts.baseNotLoaded 0 s t)) ∧
  (∀ (r : Nat) (c : Cmd) (s : State), nextCmd s .model r 0x03 = some c → Does (.baseSwap r) s fun t => Deferred .model r c s t ∧
    ∃ k b, t.roods[r]? = some k ∧ k.baseCmd = some b ∧ b.code = 3 ∧ b.epoch = (modelCmd c.bytes).epoch ∧ b.pausedAt = none ∧
      b.flipAt = flipCount s c (modelCmd c.bytes)) ∧
  (∀ (r : Nat) (k : Rood) (b : BaseCmd) (s : State), s.roods[r]? = some k → k.baseCmd = some b → b.code = 2 →
    (∃ e, epochOf s r b.epoch = some e) →
    (reached s b.flipAt = true → Does (.flipTakesEffect r) s fun t => EpochIs r b.epoch .current t ∧
      (∃ u, t.roods[r]? = some u ∧ u.baseCmd = none) ∧
      ∀ e, currentEpoch s r = some e → e.num ≠ b.epoch → EpochIs r e.num .draining t ∧ ∀ (i j : Nat) (x : Stack) (l : LockEntry),
        s.stks[i]? = some x → x.locks[j]? = some l → l.rood = r → l.epoch = e.num → l.st = .locked →
        ∃ y, t.stks[i]? = some y ∧ y.locks[j]? = some { l with st := .releasing }) ∧
    (reached s b.flipAt = false → Does (.flipTakesEffect r) s fun t => t = s)) ∧
  (∀ (r : Nat) (c : Cmd) (e : Epoch) (s : State), nextCmd s .model r 0x04 = some c →
    epochOf s r (modelCmd c.bytes).epoch = some e → e.st ≠ .loading →
    Does (.baseRelease r) s fun t => Deferred .model r c s t ∧ EpochIs r (modelCmd c.bytes).epoch .draining t) ∧
  (∀ (r n : Nat) (s : State), EpochIs r n .draining s → (∀ k ∈ s.stks, ∀ l ∈ k.locks, l.rood = r → l.epoch = n → l.st = .free) →
    Does (.baseGone r n) s fun t => epochOf t r n = none ∧ Logged Blk.glb 0x32 s t) ∧
  (∀ (r : Nat) (c : Cmd) (w : LoadWorld) (s : State), nextCmd s .model r 0x05 = some c →
    (∃ e, epochOf s r (modelCmd c.bytes).epoch = some e) →
    (∀ (i : Nat) (k : Stack) (a : Nat), s.stks[i]? = some k → a ∈ k.bad → a % 4096 = 0 ∧ ∃ off, placeOf a 1 = .stk i off) →
    Memory.wf 0 s.mem = true →
    (∀ a ∈ badBushels s r (modelCmd c.bytes).epoch, ∃ g, regionAt s a = some g ∧
      repairCopy s r (modelCmd c.bytes) w g a ≠ none) →
    Does (.baseRepair r w) s fun t => badBushels t r (modelCmd c.bytes).epoch = [] ∧
      Answered .model r c 2 Sts.ok (badBushels s r (modelCmd c.bytes).epoch).length s t)

/-- A base swap (R256): at its count this module pauses admission and drains the CURRENT epoch; once the drained epoch is gone the
load steps run, and where they fail the command ends with no epoch left of it (R257), as it does at its count where another module has
reported that its load failed; an EPOCH_READY from another stage is noted, and with the last of them the admitting module chooses the boundary after
the next; an EPOCH_FLIP, or that boundary, makes the epoch CURRENT and ends the command.
The instant at which admission resumes is the model's choice (log 34). -/
def Obligations.BaseSwaps : Prop :=
  (∀ (r : Nat) (k : Rood) (b : BaseCmd) (s : State), s.roods[r]? = some k → k.baseCmd = some b → b.code = 3 →
    (reached s b.flipAt = true → b.pausedAt = none → b.failed ≠ none → Does (.flipTakesEffect r) s fun t =>
      ∃ u, t.roods[r]? = some u ∧ u.baseCmd = none) ∧
    (reached s b.flipAt = true → b.pausedAt = none → b.failed = none → Does (.flipTakesEffect r) s fun t =>
      (∃ u, t.roods[r]? = some u ∧ u.baseCmd = some { b with
        pausedAt := some (b.flipAt / 40), stages := (match currentEpoch s r with | some e => e.stages | none => []) }) ∧
      ∀ e, currentEpoch s r = some e → EpochIs r e.num .draining t) ∧
    (∀ (w : LoadWorld) (c : Cmd) (m : Manifest), b.pausedAt ≠ none → b.loaded = false →
      (∀ e ∈ k.epochs, e.st ≠ .draining ∧ e.num ≠ b.epoch) → cmdBySeq s .model r b.seq = some c →
      LoadPasses r (modelCmd c.bytes) w m s → Does (.swapLoad r w) s fun t => LoadedTo r (modelCmd c.bytes) m s t ∧
        ∃ u, t.roods[r]? = some u ∧ u.baseCmd = some { b with loadEnd := some (Sts.ok, 0) }) ∧
    (∀ (w : LoadWorld) (c : Cmd) (st : Nat), b.pausedAt ≠ none → b.loaded = false →
      (∀ e ∈ k.epochs, e.st ≠ .draining ∧ e.num ≠ b.epoch) → cmdBySeq s .model r b.seq = some c →
      readManifest s r (modelCmd c.bytes) w = .inl st → Does (.swapLoad r w) s fun t => epochOf t r b.epoch = none ∧
        (∃ u, t.roods[r]? = some u ∧ u.baseCmd = none) ∧ t.mem = s.mem ∧ t.bushels = s.bushels) ∧
    (∀ at', b.resumeAt = some at' → b.pausedAt ≠ none → (∃ e, epochOf s r b.epoch = some e) →
      (reached s at' = true → Does (.admissionResumed r) s fun t => EpochIs r b.epoch .current t ∧
        ∃ u, t.roods[r]? = some u ∧ u.baseCmd = none) ∧
      (reached s at' = false → Does (.admissionResumed r) s fun t => t = s))) ∧
  (∀ (p : Packet) (k : Rood) (b : BaseCmd) (e : Epoch) (s : State), ControlHere p 0x11 s → s.roods[p.dstRood]? = some k →
    k.baseCmd = some b → b.code = 3 → b.epoch = field p.data 0 4 → epochOf s p.dstRood b.epoch = some e →
    (Does (.epochReady p) s fun t => ∃ u v, t.roods[p.dstRood]? = some u ∧ u.baseCmd = some v ∧ p.src ∈ v.stagesReady) ∧
    (b.loaded = true → b.resumeAt = none → e.stages.head? = some s.fab.pos →
      (∀ x ∈ e.stages, x = s.fab.pos ∨ x = p.src ∨ x ∈ b.stagesReady) → Does (.epochReady p) s fun t =>
        ∃ u v, t.roods[p.dstRood]? = some u ∧ u.baseCmd = some v ∧ v.resumeAt = some (nextBoundary s + 40))) ∧
  (∀ (p : Packet) (k : Rood) (b : BaseCmd) (s : State), ControlHere p 0x12 s → s.roods[p.dstRood]? = some k → k.baseCmd = some b →
    b.code = 3 → b.pausedAt = none → field p.data 0 8 = 0 → b.epoch = field p.data 8 4 →
    field p.data 16 1 ∉ [Sts.stageLost, Sts.baseNotLoaded] → Does (.versionFault p) s fun t =>
      ∃ u, t.roods[p.dstRood]? = some u ∧ u.baseCmd = some { b with failed := some (field p.data 16 1) }) ∧
  (∀ (p : Packet) (k : Rood) (b : BaseCmd) (s : State), ControlHere p 0x13 s → s.roods[p.dstRood]? = some k →
    k.baseCmd = some b → b.code = 3 → b.epoch = field p.data 0 4 → b.pausedAt ≠ none → (∃ e, epochOf s p.dstRood b.epoch = some e) →
    (reached s (field p.data 16 6 + 2 ^ 48 * field p.data 22 2) = true → Does (.epochFlip p) s fun t =>
      EpochIs p.dstRood b.epoch .current t) ∧
    (reached s (field p.data 16 6 + 2 ^ 48 * field p.data 22 2) = false → Does (.epochFlip p) s fun t =>
      ∃ u v, t.roods[p.dstRood]? = some u ∧ u.baseCmd = some v ∧ v.resumeAt = some (field p.data 16 6 + 2 ^ 48 * field p.data 22 2)))

/-- Adapters and their versions (R245, R246, R258 to R260, R265, R267, R268). A put writes the directory entry, and a new version of a bound adapter
waits as the slot's next; one for another rood's slot, or of an adapter in training, is refused with the slot's generation as DETAIL; a drop deletes the entry. A prefetched row binds its slot, and holds it for a request of the sender. A staged
image that matches its digest is resident in its place. A prefetch for a slot in use waits, and holds its epoch meanwhile (R246, R260), and
one of an epoch that is not held changes no request here, while its sender's requests of that epoch end (R245). A version becomes CUR at the first furlong boundary after its put while none is held behind it, and the old
one PREV; PREV without holds is retired with its cache entries. A version whose staging fails, and of which the flash holds no good image, is FAULTED, here and at the admitting
module, and no request that goes on holds a row of it; STAGE_LOST refuses the adapter.
The addresses of an adapter's cache entries are the model's (log 41). -/
def Obligations.AdapterVersions : Prop :=
  (∀ (r : Nat) (c : Cmd) (k : Rood) (s : State), s.roods[r]? = some k →
    (adapterCmd s r 0x10 = some c → k.res.slotFirst ≤ (modelCmd c.bytes).slot →
      (modelCmd c.bytes).slot < k.res.slotFirst + k.res.slotCount →
      (s.slices.any fun e => e.2.pid == (modelCmd c.bytes).pid && e.2.rood == r) = true →
      inTraining s r (modelCmd c.bytes).adapter = false →
      ((modelCmd c.bytes).gen = 0 ∨ (modelCmd c.bytes).gen = (slotOf s r (modelCmd c.bytes).slot).gen) →
      (slotOf s r (modelCmd c.bytes).slot).prev = none → (slotOf s r (modelCmd c.bytes).slot).next = none →
      Does (.adapterPut r) s fun t => Answered .model r c 1 Sts.ok (slotOf s r (modelCmd c.bytes).slot).gen s t ∧
        ∃ u d, t.roods[r]? = some u ∧ tfind (modelCmd c.bytes).adapter u.dir = some d ∧ d.version = (modelCmd c.bytes).version ∧
          d.slot = (modelCmd c.bytes).slot ∧ d.pid = (modelCmd c.bytes).pid ∧ d.baseId = (modelCmd c.bytes).baseId ∧ d.faulted = []) ∧
    (adapterCmd s r 0x10 = some c → (modelCmd c.bytes).slot < k.res.slotFirst → Does (.adapterPut r) s
      (Answered .model r c 1 Sts.notPermitted (slotOf s r (modelCmd c.bytes).slot).gen s)) ∧
    (adapterCmd s r 0x10 = some c → k.res.slotFirst ≤ (modelCmd c.bytes).slot →
      (modelCmd c.bytes).slot < k.res.slotFirst + k.res.slotCount →
      (s.slices.any fun e => e.2.pid == (modelCmd c.bytes).pid && e.2.rood == r) = true → (modelCmd c.bytes).gen = 0 →
      inTraining s r (modelCmd c.bytes).adapter = true → Does (.adapterPut r) s
        (Answered .model r c 1 Sts.adapterInTraining (slotOf s r (modelCmd c.bytes).slot).gen s)) ∧
    (∀ d, adapterCmd s r 0x11 = some c → tfind (modelCmd c.bytes).adapter k.dir = some d →
      inTraining s r (modelCmd c.bytes).adapter = false →
      ((slotOf s r d.slot).adapter ≠ some (modelCmd c.bytes).adapter ∨ (slotOf s r d.slot).holds = 0) →
      Does (.adapterDrop r) s fun t => Answered .model r c 1 Sts.ok 0 s t ∧
        ∃ u, t.roods[r]? = some u ∧ tfind (modelCmd c.bytes).adapter u.dir = none)) ∧
  (∀ (p : Packet) (s : State), ControlHere p 0x10 s → (∃ e, epochOf s p.dstRood (field p.data 24 4) = some e) →
    (∀ e ∈ s.requests, e.2.remote ≠ some (field p.data 36 8)) → field p.data 8 8 ≠ 0 →
    (((slotOf s p.dstRood (field p.data 16 2)).adapter = some (field p.data 8 8) ∧
        (slotOf s p.dstRood (field p.data 16 2)).gen = field p.data 18 2) ∨
      slotUse (slotOf s p.dstRood (field p.data 16 2)) ∈ [.free, .bound]) → Does (.prefetch p) s fun t =>
      (slotOf t p.dstRood (field p.data 16 2)).adapter = some (field p.data 8 8) ∧
      (slotOf t p.dstRood (field p.data 16 2)).gen = field p.data 18 2 ∧
      ∃ v x, tfind s.nextReq t.requests = some v ∧ v.remote = some (field p.data 36 8) ∧ v.q = p.src ∧ v.rood = p.dstRood ∧
        v.rows = [x] ∧ x.adapter = field p.data 8 8 ∧ x.version = field p.data 20 4) ∧
  (∀ (p : Packet) (e : Epoch) (s : State), ControlHere p 0x10 s →
    (epochOf s p.dstRood (field p.data 24 4) = none → Does (.prefetch p) s fun t =>
      t.requests = s.requests ∧ t.slots = s.slots ∧ t.cache = s.cache) ∧
    (epochOf s p.dstRood (field p.data 24 4) = some e → field p.data 8 8 = 0 →
      (∀ x ∈ s.requests, x.2.remote ≠ some (field p.data 36 8)) → Does (.prefetch p) s fun t => t.slots = s.slots ∧
        (∃ v, tfind s.nextReq t.requests = some v ∧ v.remote = some (field p.data 36 8) ∧ v.epoch = field p.data 24 4) ∧
        ∀ (i j : Nat) (x : Stack) (l : LockEntry), s.stks[i]? = some x → x.locks[j]? = some l → l.st ≠ .free → l.rood = p.dstRood →
          l.epoch = field p.data 24 4 → ∃ y, t.stks[i]? = some y ∧ y.locks[j]? = some { l with holds := l.holds + 1 }) ∧
    (epochOf s p.dstRood (field p.data 24 4) = some e → field p.data 8 8 ≠ 0 →
      (slotOf s p.dstRood (field p.data 16 2)).adapter ≠ some (field p.data 8 8) →
      slotUse (slotOf s p.dstRood (field p.data 16 2)) ∈ [.active, .training] →
      (∀ x ∈ s.requests, x.2.remote ≠ some (field p.data 36 8)) → Does (.prefetch p) s fun t =>
        t.fab = { s.fab with prefetches := s.fab.prefetches ++ [p] } ∧ t.slots = s.slots ∧
        ∃ v, tfind s.nextReq t.requests = some v ∧ v.remote = some (field p.data 36 8) ∧ v.epoch = field p.data 24 4 ∧ v.tagged = true ∧
          v.rows = [])) ∧
  (∀ (slot version i a at' : Nat) (e : CacheEntry) (d : DirEntry) (image l : List (List Byte)) (k : Slot) (s : State),
    tfind slot s.slots = some k → cacheFind s slot k.gen version = some (i, e) → k.adapter = some a →
    dirOf s k.rood a = some d → adapterImage s k.rood d image = some l →
    usedUnits s k.rood + (max 1 (((l.map List.length).foldl (· + ·) 0 + unit2M - 1) / unit2M) - e.units) ≤ adapterUnits s k.rood →
    placeShard s k.rood (metaOfImage (l.getD 0 [])).fmt l.length = some at' → Does (.adapterEntryResident slot version image) s fun t =>
      ∃ v, (i, v) ∈ t.cache ∧ v.resident = true ∧ v.image = l ∧ v.place = some at' ∧ v.slot = slot ∧ v.version = version) ∧
  (∀ (slot version : Nat) (d : DirEntry) (image : List (List Byte)) (k : Slot) (a : Nat) (s : State), tfind slot s.slots = some k →
    k.adapter = some a → dirOf s k.rood a = some d → adapterImage s k.rood d image = none →
    Does (.adapterEntryResident slot version image) s fun t => t.cache = s.cache ∧ t.slots = s.slots ∧ t.mem = s.mem) ∧
  (∀ (slot v put : Nat) (k : Slot) (s : State), tfind slot s.slots = some k → k.next = some (v, put) → k.training = none →
    k.prev = none →
    (atFurlong s = true → after 64 s.time.now put = true → Does (.versionFlip slot) s fun t =>
      t = { s with slots := t.slots } ∧ tfind slot t.slots = some { k with cur := some { version := v }, prev := k.cur, next := none }) ∧
    ((atFurlong s = false ∨ after 64 s.time.now put = false) → Does (.versionFlip slot) s fun t => t = s)) ∧
  (∀ (slot : Nat) (b : VerBuf) (k : Slot) (s : State), tfind slot s.slots = some k → k.prev = some b →
    (b.holds = 0 → Does (.versionRetire slot) s fun t => tfind slot t.slots = some { k with prev := none } ∧
      cacheFind t slot k.gen b.version = none) ∧
    (b.holds ≠ 0 → Does (.versionRetire slot) s fun t => t = s)) ∧
  (∀ (slot version a : Nat) (k : Slot) (s : State), tfind slot s.slots = some k → k.adapter = some a →
    cacheFind s slot k.gen version ≠ none → slotFlash s slot = false → (∀ d, dirOf s k.rood a = some d → version ∉ d.faulted) →
    Does (.versionFaulted slot version) s fun t =>
      cacheFind t slot k.gen version = none ∧ NoRows k.rood a version t ∧ NotesFault k.rood a version t) ∧
  (∀ (slot version : Nat) (s : State), slotFlash s slot = true → Does (.versionFaulted slot version) s fun t => t = s) ∧
  (∀ (p : Packet) (s : State), ControlHere p 0x12 s →
    (field p.data 16 1 ≠ Sts.stageLost → field p.data 0 8 ≠ 0 →
      (∀ d, dirOf s p.dstRood (field p.data 0 8) = some d → field p.data 8 4 ∉ d.faulted) → Does (.versionFault p) s fun t =>
      NoRows p.dstRood (field p.data 0 8) (field p.data 8 4) t ∧ NotesFault p.dstRood (field p.data 0 8) (field p.data 8 4) t) ∧
    (field p.data 16 1 = Sts.baseNotLoaded → field p.data 0 8 = 0 → Does (.versionFault p) s fun t =>
      ∀ h e, tfind h t.requests = some e → e.rood = p.dstRood → e.remote = none → e.tagged = true → e.st ≠ .ended →
        e.epoch ≠ field p.data 8 4) ∧
    (field p.data 16 1 = Sts.stageLost → Does (.versionFault p) s fun t =>
      ∃ k, t.roods[p.dstRood]? = some k ∧ (p.src, field p.data 0 8) ∈ k.refused))

/-! ### Training (09, 14) -/

/-- Commands of the training mailbox (R275, R276; 14 R428, R432, R433, R436). A TRAIN_BIND that passes its checks is DEFERRED, its binding is BINDING
and its slot in TRAINING; another is answered with the first check that fails. TRAIN_SET holds its values for the next step.
TRAIN_UNBIND removes a binding at once, or waits for its step. TRAIN_BOUND makes the binding IDLE at its version, with the
masters of the image, or with INIT 1 in the state of the valid checkpoint in the flash; it is FAULTED when a read failed, no good image
is found or no checkpoint is valid; in a SCORE rod it waits (R295). PROTECT waits for the next flip; RESTORE takes the first layer whose state is good, layer 3
from the flash, and waits, FAULTED, while its SCORE rod runs (R295); DECLARE_LOST notes the member with its
EFFECTIVE rod; a REMAP waits for EFFECTIVE, and then the new module stands for the lost one in the epoch.
Where RESTORE and REMAP leave details open the model's choices are those of log 47; that TRAIN_BOUND and RESTORE wait in a SCORE rod, of log 76. -/
def Obligations.TrainingCommands : Prop :=
  (∀ (r : Nat) (c : Cmd) (s : State), nextCmd s .training r 0x20 = some c →
    (bindCheck s r (field c.bytes 1 1) (bindCfgOf c.bytes) = Sts.ok → Does (.trainBind r) s fun t => Deferred .training r c s t ∧
      (slotOf t r (bindCfgOf c.bytes).slot).training = some (field c.bytes 1 1) ∧
      (slotOf t r (bindCfgOf c.bytes).slot).adapter = some (bindCfgOf c.bytes).adapter ∧
      ∃ v, bindOf t (field c.bytes 1 1) = some v ∧ v.st = .binding ∧ v.cfg = bindCfgOf c.bytes ∧ v.rood = r ∧
        v.hyper = hyperOf c.bytes ∧ v.step = field c.bytes 72 8) ∧
    (bindCheck s r (field c.bytes 1 1) (bindCfgOf c.bytes) ≠ Sts.ok → Does (.trainBind r) s fun t => t.binds = s.binds ∧
      Answered .training r c 1 (bindCheck s r (field c.bytes 1 1) (bindCfgOf c.bytes)) 0 s t)) ∧
  (∀ (r b : Nat) (c : Cmd) (k : Bind) (s : State), namedBind s r c = .inr (b, k) →
    (nextCmd s .training r 0x21 = some c → Does (.trainSet r) s fun t => Answered .training r c 1 Sts.ok 0 s t ∧
      bindOf t b = some { k with nextHyper := some (hyperOf c.bytes) }) ∧
    (nextCmd s .training r 0x22 = some c → inStep k.st = true → Does (.trainUnbind r) s fun t => Deferred .training r c s t ∧
      bindOf t b = some { k with unbinds := k.unbinds ++ [c.seq] }) ∧
    (nextCmd s .training r 0x22 = some c → cmdBySeq s .training r c.seq = some c → (k.st = .idle ∨ k.st = .faulted) →
      k.unbinds = [] →
      Does (.trainUnbind r) s fun t => Answered .training r c 1 Sts.ok 0 s t ∧ bindOf t b = none ∧ Logged Blk.glb 0x49 s t) ∧
    (nextCmd s .training r 0x28 = some c → Does (.protect r) s fun t => Answered .training r c 1 Sts.ok 0 s t ∧
      bindOf t b = some { k with nextProtect := some ⟨field c.bytes 14 2, field c.bytes 3 1 % 16, field c.bytes 30 6,
        field c.bytes 36 2, field c.bytes 38 2⟩ }) ∧
    (∀ (views : List SnapView) (v : SnapView) (layer step : Nat), nextCmd s .training r 0x29 = some c → (k.st = .idle ∨ k.st = .faulted) →
      scrupleRuns s r = true → layer = fbits c.bytes 2 1 0 3 →
      (if layer = 3 then readCheckpoint s k else views.find? fun x => x.layer == layer) = some v →
      step = (if layer = 1 then field c.bytes 16 8 else v.step) → layerGood k (field c.bytes 80 48) step v = true →
      Does (.restore r views) s fun t => Answered .training r c 2 Sts.ok (layer + 256 * (step % 2 ^ 24)) s t ∧
        ∃ u, bindOf t b = some u ∧ u.st = .faulted ∧ u.restored = true ∧ u.step = step ∧ u.version = v.version ∧ u.k1 = v.k1 ∧
          u.k2 = v.k2) ∧
    (∀ views : List SnapView, nextCmd s .training r 0x29 = some c → (k.st = .idle ∨ k.st = .faulted) → scrupleRuns s r = false →
      Does (.restore r views) s fun t => Deferred .training r c s t ∧ ∃ u, bindOf t b = some u ∧ u.st = .faulted ∧ u.restored = false)) ∧
  (∀ (b : Nat) (k : Bind) (img : SnapView) (s : State), bindOf s b = some k → k.st = .binding →
    (scrupleRuns s k.rood = false → Does (.trainBound b img) s fun t => t = s) ∧
    (scrupleRuns s k.rood = true →
    (∀ ck, img.readable = true → k.init ≠ 0 → readCheckpoint s k = some ck → ck.master.length = k.cfg.params →
      ck.m.length = k.cfg.params → (k.cfg.opt = 0 → ck.v.length = k.cfg.params) →
      Does (.trainBound b img) s fun t => LastLogged Blk.glb 0x40 t ∧ ∃ v, bindOf t b = some v ∧ v.st = .idle ∧ v.step = ck.step ∧
        v.k1 = ck.k1 ∧ v.k2 = ck.k2 ∧ v.version = ((slotOf s k.rood k.cfg.slot).cur.map (·.version)).getD 0 ∧
        v.nextStart = some (max (rodNear s k.cfg.startRod) (nextBoundary s) / 40)) ∧
    (∀ ms, img.readable = true → k.init = 0 → initMasters s k img = some ms → ms.length = k.cfg.params →
      Does (.trainBound b img) s fun t => LastLogged Blk.glb 0x40 t ∧ ∃ v, bindOf t b = some v ∧ v.st = .idle ∧ v.step = k.step ∧
        v.k1 = k.k1 ∧ v.k2 = k.k2 ∧ v.version = ((slotOf s k.rood k.cfg.slot).cur.map (·.version)).getD 0 ∧
        v.nextStart = some (max (rodNear s k.cfg.startRod) (nextBoundary s) / 40)) ∧
    ((img.readable = false ∨ k.init = 0 ∧ initMasters s k img = none ∨ k.init ≠ 0 ∧ readCheckpoint s k = none) → k.unbinds = [] → Does (.trainBound b img) s fun t =>
      ∃ v, bindOf t b = some v ∧ v.st = .faulted ∧ v.cause = 0x0B))) ∧
  (∀ (r : Nat) (c : Cmd) (s : State), nextCmd s .training r 0x2A = some c → Does (.declareLost r) s fun t =>
    Answered .training r c 1 Sts.ok 0 s t ∧ ∀ b k, bindOf s b = some k → concerns r (field c.bytes 72 8) k = true →
      ∃ u, bindOf t b = some u ∧ (field c.bytes 12 2, field c.bytes 40 6 + 2 ^ 48 * field c.bytes 46 2) ∈ u.lost) ∧
  (∀ (r : Nat) (c : Cmd) (e : Epoch) (s : State), nextCmd s .training r 0x2B = some c →
    epochOf s r (field c.bytes 60 4) = some e →
    (reached s (remapAt c) = true → s.fab.pos ≠ field c.bytes 14 2 → Does (.remap r) s fun t =>
      Answered .training r c 1 Sts.ok 0 s t ∧ ∃ u, epochOf t r (field c.bytes 60 4) = some u ∧
        u.stages = e.stages.map fun p => if p = field c.bytes 12 2 then field c.bytes 14 2 else p) ∧
    (reached s (remapAt c) = false → Does (.remap r) s fun t => Deferred .training r c s t ∧ t.binds = s.binds ∧
      epochOf t r (field c.bytes 60 4) = some e))

/-- A training step up to the norm (R278, R279, R282 to R290). STEP_START at its boundary begins step + 1 in FORWARD with the values set for it, and
signals; BWD_START makes it BACKWARD. A PRODUCER write makes entries visible, unless it runs more than 63 ahead. A GACC takes the entry at
CONSUMER: an accepted one contributes its micro-batch, one whose source waits for a ring is in progress until it can be read, and a refused
one writes only its STATUS. The close makes the binding CLOSED, and settles at
once or with the last in-time GACC, with the micro-batches that did not contribute logged (R286), and the exchange of replicas begins. A replica with every survivor's
partials combines its part, with C and the spoiled flag of the whole set, and with the other owners' values the exchange is complete
(R287); a GATHER of another step or in a SCORE rod changes nothing, and an exchange that is not
complete in time, this replica's own shards included, skips the step after the settle interval. Each stage notes its partial; the root takes the others' of the running step, the first of
each stage, and decides with the last; without them all in time, and the settle interval past, it skips the step with cause 1, and a root that a gather skipped sends
its SKIP record then (R289, R290).
Without SCORE rods the norm's deadline is the model's (log 27). -/
def Obligations.StepToNorm : Prop :=
  ∀ (b : Nat) (k : Bind) (s : State), bindOf s b = some k →
    (∀ f e, k.st = .idle → k.nextStart = some f → f ≤ furlongOf s → baseThere s k = some e → atFurlong s = true → runsWork s = true →
      Does (.stepStart b) s fun t => Logged Blk.glb 0x41 s t ∧
        (ctrGet k.rood k.cfg.stepCtr t).value = ((ctrGet k.rood k.cfg.stepCtr s).value + 1) % 2 ^ 32 ∧
        ∃ v, bindOf t b = some v ∧ v.st = .forward ∧ v.step = (k.step + 1) % 2 ^ 64 ∧ v.hyper = k.nextHyper.getD k.hyper ∧
          v.nextHyper = none ∧ v.epoch = some e.num ∧ v.startFurlong = furlongOf s ∧ v.nextStart = none ∧ v.accepted = [] ∧
          v.skipped = false) ∧
    (k.st = .forward → (k.startFurlong + k.cfg.bwdStart) * 40 ≤ rodCount s → Does (.bwdStart b) s fun t =>
      bindOf t b = some { k with st := .backward }) ∧
    (∀ v, bindRing s k = true → dist 32 (v % 2 ^ 32) k.consumer ≤ 63 → Memory.wf 0 s.mem = true → Does (.producerWrite b v) s fun t =>
      bindOf t b = some { k with producer := v % 2 ^ 32, visible := k.visible ++ [(v % 2 ^ 32, s.time.now)] } ∧
      rdLe t (ringAt k.cfg) 4 = v % 2 ^ 32 ∧ MemBut (ringAt k.cfg) 4 s t) ∧
    (∀ v, bindRing s k = true → 63 < dist 32 (v % 2 ^ 32) k.consumer → Does (.producerWrite b v) s fun t => t.binds = s.binds ∧ t.mem = s.mem ∧
      Logged Blk.glb 0x4A s t) ∧
    (∀ mb src bs, k.producer ≠ k.consumer → k.running = none → scrupleRuns s k.rood = true → bindRing s k = true → mb = rdLe s (entryAt k.cfg k.consumer + 1) 1 % 64 →
      src = rdLe s (entryAt k.cfg k.consumer + 16) 6 →
      gaccCheck s k k.consumer mb (rdLe s (entryAt k.cfg k.consumer + 8) 8) src = none → sourceReads s k src = .got bs →
      Does (.gacc b true) s fun t => ∃ v, bindOf t b = some v ∧ v.consumer = (k.consumer + 1) % 2 ^ 32 ∧
        v.accepted = k.accepted ++ [mb] ∧ v.contributed = k.contributed ++ [mb] ∧ v.spoiled = k.spoiled) ∧
    (∀ mb src readable, k.producer ≠ k.consumer → k.running = none → scrupleRuns s k.rood = true → bindRing s k = true →
      mb = rdLe s (entryAt k.cfg k.consumer + 1) 1 % 64 → src = rdLe s (entryAt k.cfg k.consumer + 16) 6 →
      gaccCheck s k k.consumer mb (rdLe s (entryAt k.cfg k.consumer + 8) 8) src = none → sourceReads s k src = .stall →
      Does (.gacc b readable) s fun t => ∃ v, bindOf t b = some v ∧ v.consumer = (k.consumer + 1) % 2 ^ 32 ∧
        v.running = some k.consumer ∧ v.accepted = k.accepted ∧ v.contributed = k.contributed) ∧
    (∀ i mb src bs, k.running = some i → scrupleRuns s k.rood = true → bindRing s k = true →
      mb = rdLe s (entryAt k.cfg i + 1) 1 % 64 → src = rdLe s (entryAt k.cfg i + 16) 6 → sourceReads s k src = .got bs →
      Does (.gacc b true) s fun t => ∃ v, bindOf t b = some v ∧ v.consumer = k.consumer ∧ v.running = none ∧
        v.accepted = k.accepted ++ [mb] ∧ v.contributed = k.contributed ++ [mb]) ∧
    (∀ st readable, k.producer ≠ k.consumer → k.running = none → scrupleRuns s k.rood = true → bindRing s k = true →
      gaccCheck s k k.consumer (rdLe s (entryAt k.cfg k.consumer + 1) 1 % 64) (rdLe s (entryAt k.cfg k.consumer + 8) 8)
        (rdLe s (entryAt k.cfg k.consumer + 16) 6) = some st → Memory.wf 0 s.mem = true → entryAt k.cfg k.consumer + 64 ≤ 2 ^ 50 →
      Does (.gacc b readable) s fun t => rdLe t (entryAt k.cfg k.consumer + 63) 1 = st ∧
        ∃ v, bindOf t b = some v ∧ v.consumer = (k.consumer + 1) % 2 ^ 32 ∧ v.accepted = k.accepted ∧ v.contributed = k.contributed) ∧
    (k.st = .backward → closeStamp s k < s.time.now → s.fab.early = [] → k.settled = false →
      (gaccPending s k = true → Does (.closeDeadline b) s fun t => bindOf t b = some { k with st := .closed } ∧ t.events = s.events) ∧
      (gaccPending s k = false → Does (.closeDeadline b) s fun t => bindOf t b = some { k with
          st := .closed
          settled := true
          gatherSent := k.gatherSent || (decide (1 < k.cfg.d) && !k.skipped && scrupleRuns s k.rood) } ∧
        ((∀ m, m < k.cfg.mbCount → m ∈ k.contributed) → t.events = s.events) ∧
        (∀ m, m < k.cfg.mbCount → m ∉ k.contributed → Logged Blk.glb 0x43 s t))) ∧
    (k.st = .backward → s.time.now ≤ closeStamp s k → Does (.closeDeadline b) s fun t => t = s) ∧
    (k.st = .closed → k.skipped = false → 2 ≤ k.cfg.d → k.gathered = false → k.settled = true →
      (scrupleRuns s k.rood = false → ∀ n, Does (.gather b n) s fun t => t = s) ∧
      (scrupleRuns s k.rood = true → rodCount s < furlongEnd k (k.cfg.close + k.cfg.gather - 1) →
      (k.combined = false → (∀ q ∈ survivors k, q = k.cfg.replica ∨ k.gmask.testBit q = true) →
        Does (.gather b k.step) s fun t => bindOf t b = some { k with
          combined := true
          gathered := (otherOwners k).all fun q => k.gmask.testBit (k.cfg.d + q)
          cnt := ((survivors k).map fun q =>
            if q = k.cfg.replica then k.contributed.length else rdLe s (gatherIn b q) 2).foldl (· + ·) 0
          spoiled := (survivors k).any fun q =>
            if q = k.cfg.replica then k.spoiled else rdLe s (gatherIn b q + 2) 1 % 2 == 1 }) ∧
      (k.combined = false → (∃ q ∈ survivors k, q ≠ k.cfg.replica ∧ k.gmask.testBit q = false) → Does (.gather b k.step) s fun t => t = s) ∧
      (∀ n, n ≠ k.step → Does (.gather b n) s fun t => t = s) ∧
      (k.combined = true → (∀ q ∈ otherOwners k, k.gmask.testBit (k.cfg.d + q) = true) → Does (.gather b k.step) s fun t =>
        bindOf t b = some { k with gathered := true }))) ∧
    (k.st = .closed → k.skipped = false → 2 ≤ k.cfg.d → exchanged s b k = false →
      (settledAfter s (furlongEnd k (k.cfg.close + k.cfg.gather - 1)) = true → Does (.gatherTimeout b) s fun t => Logged Blk.glb 0x45 s t ∧
        bindOf t b = some { k with skipped := true, nextStart := some (k.startFurlong + k.cfg.stepLen) }) ∧
      (settledAfter s (furlongEnd k (k.cfg.close + k.cfg.gather - 1)) = false → Does (.gatherTimeout b) s fun t => t = s)) ∧
    (k.st = .closed → k.skipped = false → (1 < k.cfg.d → exchanged s b k = true) → k.settled = true →
      scrupleRuns s k.rood = true → tfind k.cfg.stage k.parts = none → Does (.normPartial b) s fun t =>
        ∃ v, bindOf t b = some v ∧ tfind k.cfg.stage v.parts = some ⟨stepCount k, stageSum s k, k.spoiled⟩) ∧
    (∀ (m : StepMsg) (stage cnt : Nat) (ss : F32) (spoiled : Bool), isRoot s k = true → inStep k.st = true → k.skipped = false →
      stage < (stepStages s k).length → tfind stage k.parts = none → StepHere m b k 0x20 (partBytes stage ⟨cnt, ss, spoiled⟩) s →
      (∀ a n, (a ≠ k.cfg.adapter ∨ n ≠ k.step) → Does (.normPartialReceive m ⟨a, n, stage⟩ cnt ss spoiled) s fun t => t = s) ∧
      Does (.normPartialReceive m ⟨k.cfg.adapter, k.step, stage⟩ cnt ss spoiled) s (fun t => ∃ v, bindOf t b = some v ∧
        tfind stage v.parts = some ⟨cnt, ss, spoiled⟩) ∧
      (k.st = .closed → k.clip = none → rodCount s < normDeadline s k → (∀ i, i < (stepStages s k).length → i = stage ∨ (tfind i k.parts).isSome = true) →
        (∀ c, decideClip { k with parts := tset stage ⟨cnt, ss, spoiled⟩ k.parts } (stepStages s k).length = .inr c →
          Does (.normPartialReceive m ⟨k.cfg.adapter, k.step, stage⟩ cnt ss spoiled) s fun t => ∃ v, bindOf t b = some v ∧ v.clip = some c) ∧
        (∀ cause, decideClip { k with parts := tset stage ⟨cnt, ss, spoiled⟩ k.parts } (stepStages s k).length = .inl cause →
          Does (.normPartialReceive m ⟨k.cfg.adapter, k.step, stage⟩ cnt ss spoiled) s fun t => ∃ v, bindOf t b = some v ∧ v.skipped = true ∧
            v.skipCause = cause))) ∧
    (isRoot s k = true → k.st = .closed → k.skipped = false → k.clip = none → settledAfter s (normDeadline s k) = true →
      Does (.normTimeout b) s fun t => Logged Blk.glb 0x45 s t ∧ ∃ v, bindOf t b = some v ∧ v.skipped = true ∧ v.skipCause = 1) ∧
    (isRoot s k = true → k.st = .closed → k.skipped = true → k.clip = none → k.skipCause = 0 → settledAfter s (normDeadline s k) = true →
      Does (.normTimeout b) s fun t => bindOf t b = some { k with skipCause := 1 } ∧ t.events = s.events)

/-- A training step from the norm to its end (R291 to R293; 14 R423, R432). On receiving c a stage enters UPDATING, and outside SCORE rods Scruple
writes the new state, with the bias products advanced, and then the working copy, which waits while version v − 1 is still held, and
says so. A SKIP ends the step without a change.
The root notes each UPDATE_DONE and names the flip boundary with the last; the other stages take the rod that it names. At
that boundary version v + 1 becomes CUR, the former CUR is PREV, and the binding is IDLE with a digest of its state. An UPDATE_DONE whose packet is of
another step, adapter or stage, or of no peer, changes no binding. Sixteen furlongs
after STEP_LEN without a flip the binding is FAULTED with cause 0x08. A snapshot counts once its header is written. -/
def Obligations.StepToFlip : Prop :=
  ∀ (b : Nat) (k : Bind) (s : State), bindOf s b = some k →
    (∀ (m : StepMsg) (c : F32), StepHere m b k 0x21 (leBytes 4 0 ++ leBytes 4 c.toNat) s → k.st = .closed → k.skipped = false →
      k.moved = false → (isRoot s k = true → k.clip = some c) →
      (isRoot s k = false → (tfind k.cfg.stage k.parts).isSome = true) →
      (scrupleRuns s k.rood = false → Does (.update m c) s fun t => bindOf t b = some { k with st := .updating, clip := some c }) ∧
      (scrupleRuns s k.rood = true → (slotOf s k.rood k.cfg.slot).prev = none → Does (.update m c) s fun t => ∃ v, bindOf t b = some v ∧ v.st = .updating ∧
        v.updated = true ∧ v.clip = some c ∧ v.k1 = (updateTerms k).k1 ∧ v.k2 = (updateTerms k).k2 ∧ v.version = k.version ∧
        v.updatesDone = k.updatesDone ++ [k.cfg.stage] ∧ v.snapBusy = []) ∧
      (scrupleRuns s k.rood = true → (slotOf s k.rood k.cfg.slot).prev ≠ none → k.holdLogged = false →
        Does (.update m c) s fun t => LastLogged Blk.glb 0x39 t ∧ bindOf t b = some { k with
          st := .updating, clip := some c, snapBusy := [], moved := true, k1 := (updateTerms k).k1, k2 := (updateTerms k).k2,
          holdLogged := true })) ∧
    (∀ (m : StepMsg) (c : F32), StepHere m b k 0x21 (leBytes 4 0 ++ leBytes 4 c.toNat) s → k.st = .updating → k.updated = false → k.clip = some c → k.moved = true → scrupleRuns s k.rood = true →
      (slotOf s k.rood k.cfg.slot).prev = none → Does (.update m c) s fun t =>
        bindOf t b = some { k with updated := true, updatesDone := k.updatesDone ++ [k.cfg.stage] }) ∧
    (∀ (m : StepMsg) (cause : Nat), StepHere m b k 0x21 (leBytes 1 1 ++ leBytes 1 cause) s → isRoot s k = false → k.st = .closed → k.skipped = false → k.clip = none → Does (.updateSkipped m cause) s fun t =>
      Logged Blk.glb 0x45 s t ∧ bindOf t b = some { k with skipped := true, nextStart := some (k.startFurlong + k.cfg.stepLen) }) ∧
    (∀ (m : StepMsg) (stage : Nat), StepHere m b k 0x22 (leBytes 1 stage) s → isRoot s k = true → k.skipped = false → (k.st = .updating ∨ k.st = .closed) → stage ∉ k.updatesDone →
      Does (.updateDone m stage) s fun t => t = { s with binds := t.binds } ∧
        bindOf t b = some { k with updatesDone := k.updatesDone ++ [stage] }) ∧
    (∀ (m : StepMsg) (stage : Nat), m.bind = b → ¬ StepHere m b k 0x22 (leBytes 1 stage) s → Does (.updateDone m stage) s fun t =>
      t.binds = s.binds) ∧
    (∀ (m : StepMsg) (rod : Nat), StepHere m b k 0x23 (leBytes 6 rod) s → k.st = .updating → k.flipAt = none → isRoot s k = false → k.updated = true → rodFrom (rodCount s) rod % 40 = 0 →
      Does (.flipRod m rod) s fun t => bindOf t b = some { k with flipAt := some (rodFrom (rodCount s) rod) }) ∧
    (∀ (m : StepMsg) (rod : Nat), StepHere m b k 0x23 (leBytes 6 rod) s → k.st = .updating → k.flipAt = none → isRoot s k = true → allUpdated s k = true → flipBoundary s k % 2 ^ 48 = rod % 2 ^ 48 →
      flipBoundary s k ≤ (k.startFurlong + k.cfg.stepLen + 16) * 40 →
      Does (.flipRod m rod) s fun t => bindOf t b = some { k with flipAt := some (flipBoundary s k) }) ∧
    (∀ n sl, k.st = .updating → k.updated = true → k.flipAt = some n → n ≤ rodCount s → atFurlong s = true → k.unbinds = [] →
      tfind k.cfg.slot s.slots = some sl → sl.training = some b → Does (.versionFlip k.cfg.slot) s fun t =>
        tfind k.cfg.slot t.slots = some { sl with cur := some { version := (k.version + 1) % 2 ^ 32 }, prev := sl.cur } ∧
        ∃ v, bindOf t b = some v ∧ v.st = .idle ∧ v.version = (k.version + 1) % 2 ^ 32 ∧ v.epoch = none ∧ v.digestStep = k.step ∧
          v.digestValid = true ∧ v.nextStart = some (n / 40)) ∧
    ((k.st = .updating ∨ k.st = .closed ∧ k.skipped = false) → k.flipAt = none → k.unbinds = [] →
      (k.startFurlong + k.cfg.stepLen + 16) * 40 ≤ rodCount s → Does (.flipTimeout b) s fun t =>
        ∃ v, bindOf t b = some v ∧ v.st = .faulted ∧ v.cause = 0x08 ∧ v.epoch = none ∧ v.snapBusy = []) ∧
    (∀ p, k.protect = some p → 1 ∈ k.snapBusy → s.flash.mode ≠ 1 →
      flashAccess s k.rood ((k.cfg.ckptOffset + k.ckptHalf * snapSize k.cfg) / 4096) (snapSize k.cfg / 4096) = Sts.ok →
      Does (.snapshot b 1 true) s fun t => bindOf t b = some { k with
        snapSeq := (k.snapSeq + 1) % 2 ^ 32
        snapBusy := k.snapBusy.filter fun x => x != 1
        ckptHalf := 1 - k.ckptHalf }) ∧
    (∀ p, k.protect = some p → 0 ∈ k.snapBusy → fabricOn s = true → pathsTo s p.partner ≠ [] →
      Does (.snapshot b 0 true) s fun t => (∃ x, tfind s.fab.nextXfer t.fab.xfers = some x ∧ x.body.dst = p.partner ∧
          x.body.bytes = 4096 ∧ x.body.remoteAddr = p.mirrorAddr + k.mirrorHalf * snapSize k.cfg) ∧
        bindOf t b = some { k with
          snapSeq := (k.snapSeq + 1) % 2 ^ 32
          snapBusy := k.snapBusy.filter fun x => x != 0
          mirrorHalf := 1 - k.mirrorHalf })

/-! ### Time (10, 11, 18) -/

/-- Serial comparison of w-bit values (R318): at or after, after and before, as the difference mod 2^w gives them;
two values exactly half a range apart are each before the other. -/
def Obligations.SerialComparison : Prop :=
  ∀ w a b : Nat, a < 2 ^ w → b < 2 ^ w →
    (atOrAfter w a b = true ↔ ((a : Int) - b) % 2 ^ w < 2 ^ (w - 1)) ∧
    (after w a b = true ↔ ((a : Int) - b) % 2 ^ w < 2 ^ (w - 1) ∧ a ≠ b) ∧
    (before w a b = true ↔ ¬ ((a : Int) - b) % 2 ^ w < 2 ^ (w - 1)) ∧
    (1 ≤ w → (a + 2 ^ (w - 1)) % 2 ^ w = b → before w a b = true ∧ before w b a = true)

/-- Time keeping (R306, R310 to R315; 11 R352; R514). In the first tick of a furlong the rod master sends a rod sync on every link of its
group, and is master no more if it relinquishes. A module that follows takes the sender's term and index and is LOCKED, with its
offset; a sync with another rod length is only logged, a malformed, stale or repeated one changes no time. A module without syncs, and a
master without PTP for three intervals, enters HOLDOVER, and is UNCERTAIN once its bound exceeds the limit, which then doubles. A rod
master acts on offsets of at most 1 ms of the PTP messages that the supported subset takes in, refuses a larger one and holds over (R309,
R312). The next entry of the succession takes over from a silent master, or one that has left, under the next term. A plan waits for the boundary of its APPLY and comes into force there. 1PPS rises at
whole seconds.
How the succession wraps is the model's choice (log 28); what a PTP message says is an operand (log 76). -/
def Obligations.TimeKeeping : Prop :=
  ∀ s : State, timeOn s = true →
    (s.time.master = true → atFurlong s = true → s.time.lastSync ≠ some (furlongOf s) → fabricOn s = true → Does .rodSyncSend s fun t =>
      t.time = { s.time with lastSync := some (furlongOf s), master := !s.time.relinquish, relinquish := false } ∧
      t.fab.syncOut = s.fab.syncOut ++ (groupLinks s).map fun l => ({
        link := l, hop := 0, src := s.fab.pos, masterStamp := s.time.now, correction := 0, k := s.time.k, index := s.time.index
        term := s.time.term, relinquish := s.time.relinquish, list := s.time.succession, sysid := s.fab.sysid, stamp := s.time.now
        resv := false } : RodSync)) ∧
    ((s.time.master = false ∨ atFurlong s = false) → Does .rodSyncSend s fun t => t = s) ∧
    (∀ p : RodSync, linkUp s p.link = true →
      (p.resv = true → Does (.rodSyncReceive p) s fun t => Logged Blk.fabric 0x07 s t ∧ t.time = s.time) ∧
      (p.resv = false → before 64 (p.stamp + packetLife) s.time.now = true → Does (.rodSyncReceive p) s fun t => t.time = s.time ∧
        t.fab = { s.fab with stale := satInc 16 s.fab.stale, err := t.fab.err })) ∧
    (∀ p : RodSync, linkUp s p.link = true → p.resv = false → before 64 (p.stamp + packetLife) s.time.now = false →
      p.sysid = s.fab.sysid →
      (p.k ≠ s.time.k → Does (.rodSyncReceive p) s fun t => Logged Blk.glb 0x57 s t ∧ t.time = s.time ∧ t.fab = s.fab) ∧
      (p.k = s.time.k → p.term % 2 ^ 16 = s.time.term % 2 ^ 16 → p.index = s.time.masterIndex →
        syncKnown s (p.masterStamp / (40 * rodLen s)) = true → Does (.rodSyncReceive p) s fun t => t = s) ∧
      (p.k = s.time.k → follows s p = true → p.src ≠ s.fab.pos →
        (p.term % 2 ^ 16 = s.time.term % 2 ^ 16 → p.index = s.time.masterIndex → syncKnown s (p.masterStamp / (40 * rodLen s)) = false) →
        Does (.rodSyncReceive p) s fun t => t.time.lock = .locked ∧ t.time.master = false ∧ t.time.term = p.term % 2 ^ 16 ∧
          t.time.masterPos = p.src ∧ t.time.masterIndex = p.index ∧ t.time.succession = p.list ∧ t.time.now = s.time.now ∧
          t.time.lastSync = some (p.masterStamp / (40 * rodLen s)) ∧
          t.time.offset = (s.time.now : Int) - (p.masterStamp + p.correction + (s.links.getD p.link {}).delay : Nat))) ∧
    (s.time.lock = .locked → s.time.master = false → s.time.lastSync ≠ some (furlongOf s) → furlongTick s + 8000 < s.time.now →
      Does .timeHoldover s fun t => Logged Blk.glb 0x51 s t ∧ t.time.lock = .holdover ∧ t.time.holdSince = s.time.now ∧ t.time.slew = 0) ∧
    (s.time.lock = .locked → s.time.master = true → before 64 (s.time.lastPtp + 3 * s.time.ptpInterval) s.time.now = true →
      Does .timeHoldover s fun t => Logged Blk.glb 0x51 s t ∧ t.time.lock = .holdover ∧ t.time.holdSince = s.time.now ∧ t.time.slew = 0) ∧
    (s.time.lock = .holdover → s.time.boundNext < driftBound s → Does .timeUncertain s fun t => Logged Blk.glb 0x52 s t ∧
      t.time.uncertain = true ∧ t.time.bound = driftBound s ∧ t.time.boundNext = 2 * s.time.boundNext) ∧
    (s.time.lock ≠ .holdover → Does .timeUncertain s fun t => t = s) ∧
    (∀ p : PtpMsg,
      (ptpSupported p s = false → Does (.ptpSync p) s fun t => t = s) ∧
      (s.time.master = true → ptpSupported p s = true →
        (p.offset.natAbs ≤ 1000000 → Does (.ptpSync p) s fun t => t.time.lock = .locked ∧ t.time.offset = 4 * p.offset ∧
          t.time.lastPtp = s.time.now ∧ t.time.ptpInterval = ptpTicks p.log.toNat) ∧
        (1000000 < p.offset.natAbs → s.time.lock ≠ .locked → Does (.ptpSync p) s fun t => Logged Blk.glb 0x55 s t ∧ t.time = s.time) ∧
        (1000000 < p.offset.natAbs → s.time.lock = .locked → Does (.ptpSync p) s fun t =>
          t.events.head = (s.events.head + 2) % 2 ^ 32 ∧ LastLogged Blk.glb 0x51 t ∧ t.time.lock = .holdover ∧
            t.time.holdSince = s.time.now ∧ t.time.offset = s.time.offset))) ∧
    (∀ f, s.time.master = false → s.time.index < 8 → s.time.index ≠ s.time.masterIndex → s.time.lastSync = some f →
      f + 1 + between s ≤ furlongOf s → furlongTick s + 8000 < s.time.now → Does .masterTakeover s fun t => Logged Blk.glb 0x53 s t ∧
        t.time.master = true ∧ t.time.term = (s.time.term + 1) % 2 ^ 16 ∧ t.time.masterPos = s.fab.pos ∧
        t.time.masterIndex = s.time.index ∧ t.time.lastSync = some (furlongOf s)) ∧
    (∀ f, s.time.master = false → s.time.index < 8 → s.time.index ≠ s.time.masterIndex → s.time.masterLeaving = true → between s = 0 →
      s.time.lastSync = some f → f < furlongOf s → atFurlong s = true → Does .masterTakeover s fun t => Logged Blk.glb 0x53 s t ∧
        t.time.master = true ∧ t.time.term = (s.time.term + 1) % 2 ^ 16 ∧ t.time.masterPos = s.fab.pos ∧
        t.time.masterIndex = s.time.index ∧ t.time.lastSync = some f) ∧
    (∀ (r rod : Nat) (k : Rood), s.roods[r]? = some k → k.st = .active → Does (.planApply r rod) s fun t =>
      t = { s with roods := t.roods } ∧ t.roods[r]? = some { k with planRod := some (applyBoundary s rod) } ∧
        ∀ x, x ≠ r → t.roods[x]? = s.roods[x]?) ∧
    (∀ (r n : Nat) (k : Rood), s.roods[r]? = some k → k.planRod = some n →
      (reached s n = true → Does (.planApplied r) s fun t => Logged Blk.glb 0x56 s t ∧
        t.roods[r]? = some { k with plan := k.pendPlan, planRod := none }) ∧
      (reached s n = false → Does (.planApplied r) s fun t => t = s)) ∧
    (s.time.lock ≠ .acquiring → s.fwc.pstate < 4 → s.boot.safeMode = false → s.time.now % 4000000000 = 0 → Does .ppsOutEdge s fun t =>
      t = { s with time := { s.time with ppsOut := s.time.now } })

/-! ### Links and transfers (11) -/

/-- The links of a group (R340): logical link l of member a, l below 63, joins member (a + 1 + l) mod 64 of the same group; that module
reaches this one over its link 62 − l; and a link whose peer member is absent stays DOWN. -/
def Obligations.GroupLinks : Prop :=
  ∀ (l : Nat) (s : State), l < 63 →
    linkPeer s l = some (64 * groupOf s.fab.pos + (memberOf s.fab.pos + 1 + l) % 64, 62 - l) ∧
    (∀ u : State, u.fab.pos = 64 * groupOf s.fab.pos + (memberOf s.fab.pos + 1 + l) % 64 → linkPeer u (62 - l) = some (s.fab.pos, l)) ∧
    ∀ (k : Link) (res : TrainResult), s.links[l]? = some k → k.st = .down →
      present s (64 * groupOf s.fab.pos + (memberOf s.fab.pos + 1 + l) % 64) = false →
      Does (.linkTraining l res) s (fun t => t = s) ∧ Does (.linkRetry l res) s fun t => t = s

/-- The life of a link (R331 to R338). A training that finds the right peer, of this system, brings the link UP, with its delay in clocks; a
failed one leaves it DOWN, to be tried again 100 ms later; another peer makes it MISWIRED; one that takes time leaves it TRAINING, and one
declared broken trains no more. A retrain, for FEC loss, for more than 16 flits replayed in 1 ms or for 100 µs without a credit, is counted.
A link declared failed is FAILED when its loopback passes, else it waits for the spare of its bank; the spare takes its number, or is
failed with it. A good data flit in sequence is taken, its acknowledgement frees the retry buffer and its credits are added; a bad one is
requested again, once; a replay resends the flits that the buffer holds from the one asked for, and counts them.
The readings of a training are operands (log 17). -/
def Obligations.LinksLive : Prop :=
  ∀ (l : Nat) (k : Link) (res : TrainResult) (s : State), s.links[l]? = some k → fabricOn s = true →
    (∀ i : Instr, (i = .linkTraining l res ∧ mayTrain s l k = true ∨
        (∃ τ, i = .linkRetry l res ∧ mayTrain s l k = true ∧ k.retryAt = some τ ∧ τ ≤ s.time.now) ∨
        ∃ cause, i = .linkRetrain l cause res ∧ k.st = .up ∧ retrainHolds s k cause = true) → res.ticks = 0 → res.failStep = none →
      res.sysid = s.fab.sysid → linkPeer s l = some (res.peerPos, res.peerLink) → Does i s fun t => Logged Blk.fabric 0x01 s t ∧
        ∃ u, t.links[l]? = some u ∧ u.st = .up ∧ u.peerPos = res.peerPos ∧ u.peerLink = res.peerLink ∧ u.valid = true ∧
          u.delay = (res.delay + 2) / 4 * 4 % 2 ^ 16 ∧ u.failRow = 0 ∧ u.rxSeq = 0 ∧ u.txSeq = 0 ∧ u.phys = k.phys ∧
          u.credits = fullCredits) ∧
    (mayTrain s l k = true → 0 < res.ticks → Does (.linkTraining l res) s fun t => t = { s with links := t.links } ∧
      ∃ u, t.links[l]? = some u ∧ u.st = .training ∧ u.training = some ⟨s.time.now, some res⟩) ∧
    (k.st = .down → linkBroken s k = true →
      Does (.linkTraining l res) s (fun t => t = s) ∧ Does (.linkRetry l res) s fun t => t = s) ∧
    (∀ x, mayTrain s l k = true → res.ticks = 0 → res.failStep = some x → x < 3 → k.peerP4 = false →
      Does (.linkTraining l res) s fun t => t = { s with links := t.links } ∧ t.links[l]? = some { emptied k with
        failedTrains := satInc 16 k.failedTrains
        failRow := k.failRow + 1
        retryAt := some (s.time.now + 400000000) }) ∧
    (mayTrain s l k = true → res.ticks = 0 → res.failStep = none →
      (res.sysid ≠ s.fab.sysid ∨ linkPeer s l ≠ some (res.peerPos, res.peerLink)) → Does (.linkTraining l res) s fun t =>
        Logged Blk.fabric 0x04 s t ∧ ∃ u, t.links[l]? = some u ∧ u.st = .miswired ∧ u.cause = 5) ∧
    (∀ cause, k.st = .up → (cause = 3 → (k.replayed.filter fun e => s.time.now < e.1 + 4000000).foldl (fun n e => n + e.2) 0 ≤ 16) →
      (cause = 4 → ∀ q ∈ k.waiting, s.time.now < tgetD q.vc s.time.now k.creditAt + 400000) → 3 ≤ cause →
      Does (.linkRetrain l cause res) s fun t => t = s) ∧
    (∀ cause x, k.st = .up → retrainHolds s k cause = true → res.ticks = 0 → res.failStep = some x → x < 3 →
      Does (.linkRetrain l cause res) s fun t => Logged Blk.fabric 0x02 s t ∧
        ∃ u, t.links[l]? = some u ∧ u.st = .down ∧ u.cause = cause ∧ u.retrains = satInc 16 k.retrains ∧ s.time.now ∈ u.retrainStamps) ∧
    (k.st = .down → linkBroken s k = true →
      Does (.linkFailed l true) s (fun t => ∃ u, t.links[l]? = some u ∧ u.st = .failed ∧ u.cause = 7) ∧
      (∀ p, bankSpare s l = some p → p.st = .ready → Does (.linkFailed l false) s fun t =>
        ∃ u, t.links[l]? = some u ∧ u.st = .substituting ∧ u.cause = 6) ∧
      (∀ p, bankSpare s l = some p → p.st ≠ .ready → Does (.linkFailed l false) s fun t =>
        ∃ u, t.links[l]? = some u ∧ u.st = .failed ∧ u.cause = 6)) ∧
    (∀ p, k.st = .substituting → k.training = none → bankSpare s l = some p → res.ticks = 0 →
      (res.failStep = none → res.sysid = s.fab.sysid → linkPeer s l = some (res.peerPos, res.peerLink) →
        Does (.linkSubstitute l res) s fun t =>
          (∃ u, t.links[l]? = some u ∧ u.st = .up ∧ u.phys = p.phys) ∧ t.linkSpares[l / 12]? = some { p with st := .inUse }) ∧
      (∀ x, res.failStep = some x → x < 3 → Does (.linkSubstitute l res) s fun t =>
        (∃ u, t.links[l]? = some u ∧ u.st = .failed) ∧ t.linkSpares[l / 12]? = some { p with st := .failed })) ∧
    (∀ flit, k.st = .up → k.waiting = [] → crc32 (flit.take 252) = field flit 252 4 → bits (field flit 0 8) 24 2 = 0 →
      bits (field flit 0 8) 0 12 = k.rxSeq → Does (.flitReceive l flit) s fun t => t = { s with links := t.links } ∧
        ∃ u, t.links[l]? = some u ∧ u.rxSeq = (k.rxSeq + 1) % 4096 ∧ u.rxFlits = satInc 64 k.rxFlits ∧ u.replaying = false ∧
          u.retry = (k.retry.filter fun f => after 12 f.seq (bits (field flit 0 8) 12 12)) ∧
          u.credits = tset (bits (field flit 0 8) 35 3)
            (tgetD (bits (field flit 0 8) 35 3) 0 k.credits + bits (field flit 0 8) 38 6) k.credits) ∧
    (∀ flit, k.st = .up → crc32 (flit.take 252) ≠ field flit 252 4 →
      (k.replaying = false → Does (.flitReceive l flit) s fun t => t.fab.replayOut = s.fab.replayOut ++ [(l, k.rxSeq)] ∧
        t.fab.flitOut.length = s.fab.flitOut.length + 1 ∧ ∃ u, t.links[l]? = some u ∧ u.replaying = true ∧ u.rxSeq = k.rxSeq) ∧
      (k.replaying = true → Does (.flitReceive l flit) s fun t => t = s)) ∧
    (∀ pre f post seq, k.st = .up → k.retry = pre ++ f :: post → f.seq = seq % 4096 → (∀ g ∈ pre, g.seq ≠ seq % 4096) →
      Does (.replayReq l seq) s fun t => t.fab.flitOut = s.fab.flitOut ++ (f :: post).map (fun g => (l, flitBytes g)) ∧
        ∃ u, t.links[l]? = some u ∧ u.replays = satAdd 32 k.replays (post.length + 1) ∧ u.txSeq = k.txSeq ∧ u.retry = k.retry) ∧
    (∀ seq, k.st = .up → (∀ g ∈ k.retry, g.seq ≠ seq % 4096) → Does (.replayReq l seq) s fun t => t = s)

/-- Transfers at their sender (R344 to R350). An XFER descriptor opens a transfer when it starts; the transfer takes the lowest free slot
towards its destination under that slot's next generation, while one of the 1,024 contexts is free, and all its packets leave. DONE ends it with the receiver's status, as does
the last response of a READ, which is written as it arrives; RESEND asks for one packet a rod later; without DONE in time it is sent
again once its source can be read, and after two retries it is lost.
Which path a packet takes is free (log 43); that a context is a transfer with a slot is deduced (log 78). -/
def Obligations.TransfersSent : Prop :=
  (∀ (i : Nat → Instr) (op d : Nat) (e : Desc) (b : XferBody) (s : State),
    (i, op) ∈ [(Instr.xferWrite, 0), (.xferRead, 1), (.xferPartial, 2)] → tfind d s.descs = some e → e.body = .xfer b → b.op = op →
    startReady s d e = true → Does (i d) s fun t => tfind d t.descs = some { e with stage := .started } ∧
      tfind s.fab.nextXfer t.fab.xfers = some { desc := d, rood := e.rood, body := b } ∧ MemSame s t) ∧
  (∀ (x : Nat) (k : Xfer) (s : State), tfind x s.fab.xfers = some k →
    (∀ bushel slot ps, k.slot = none → contexts s < 1024 → fabricOn s = true → roodActive s k.rood = true → orderHeld s x k = false →
      freeSlot s k.body.dst = some slot → (k.body.noDetour = true → plainPath s k.body.dst ≠ none) → pathsTo s k.body.dst ≠ [] →
      xferPackets s { k with image := bushel && imageWrite s k.body } slot (nextGen s k.body.dst slot) = .inr ps →
      (∀ p ∈ ps, p.dst = k.body.dst) → Does (.xferInject ⟨x, bushel⟩) s fun t =>
        t.fab.out.length = s.fab.out.length + ps.length ∧ ∃ v, tfind x t.fab.xfers = some v ∧ v.slot = some slot ∧
          v.xgen = nextGen s k.body.dst slot ∧ v.lastSent = s.time.now ∧ v.tries = k.tries ∧
          v.image = (bushel && imageWrite s k.body)) ∧
    (∀ bushel, k.slot = none → 1024 ≤ contexts s → Does (.xferInject ⟨x, bushel⟩) s fun t => t = s) ∧
    (∀ slot, k.slot = some slot → fabricOn s = true → k.lastSent + s.fab.timeout * 4000 ≤ s.time.now →
      (2 ≤ k.tries → Does (.transferRetry x) s fun t => Logged Blk.fabric 0x0B s t ∧ tfind x t.fab.xfers = none ∧
        ∀ e b, tfind k.desc s.descs = some e → e.body = .xfer b → e.result = none →
          tfind k.desc t.descs = some { e with result := some ⟨Sts.transferLost, 0, s.time.now⟩ }) ∧
      (∀ ps, k.tries < 2 → (k.body.noDetour = true → plainPath s k.body.dst ≠ none) → pathsTo s k.body.dst ≠ [] →
        xferPackets s k slot (nextGen s k.body.dst slot) = .inr ps → Does (.transferRetry x) s fun t => Logged Blk.fabric 0x0A s t ∧
          ∃ v, tfind x t.fab.xfers = some v ∧ v.slot = some slot ∧ v.tries = k.tries + 1 ∧ v.lastSent = s.time.now) ∧
      (k.tries < 2 → xferPackets s k slot (nextGen s k.body.dst slot) = .inl .stall → Does (.transferRetry x) s fun t => t = s)) ∧
    (∀ p, xferOfResponse s p = some (x, k) →
      (ControlHere p 1 s → Does (.done p) s fun t => tfind x t.fab.xfers = none ∧
        ∀ e b, tfind k.desc s.descs = some e → e.body = .xfer b → e.result = none →
          tfind k.desc t.descs = some { e with result := some ⟨bits p.ext 8 8, 0, s.time.now⟩ }) ∧
      (ControlHere p 2 s → Does (.resend p) s fun t =>
        tfind x t.fab.xfers = some { k with again := k.again ++ [(bits p.ext 24 32, s.time.now + rodLen s)] }) ∧
      (ArrivesHere p s → p.typ = 3 → k.body.op = 1 → (fabricWriteCheck .fabric k.rood p.addr p.data.length s).1 = true →
        Memory.wf 0 s.mem = true →
        (64 * (k.lines + p.data.length / 64) < k.body.bytes → Does (.readResp p) s fun t =>
          rdBytes t p.addr p.data.length = p.data ∧ MemBut p.addr p.data.length s t ∧
          ∃ v, tfind x t.fab.xfers = some v ∧ v.lines = k.lines + p.data.length / 64) ∧
        (k.body.bytes ≤ 64 * (k.lines + p.data.length / 64) → Does (.readResp p) s fun t =>
          rdBytes t p.addr p.data.length = p.data ∧ MemBut p.addr p.data.length s t ∧ tfind x t.fab.xfers = none))))

/-- Transfers at their receiver (R345 to R350; 05 R146). From a peer, a WRITE of plain bytes that its rood may make is stored whole and
counted; one that it may not make stores nothing and is counted as refused. A READ that may be made is answered in pieces. A partial for an
armed entry is stored at its shard's slot; one before its entry waits; one that waits past its deadline, with no
binding still to close its step, is dropped. Once every packet
is counted the transfer is answered once, with a DONE but for a READ (R347): the signal counter advances, and a whole partial is reported to its entry; one that its entry
turned away is logged once (05 R146). -/
def Obligations.TransfersReceived : Prop :=
  (∀ (p : Packet) (s : State), ArrivesHere p s → isPeer s p = true → tfind (arrKey p) s.fab.arrivals = none →
    (p.typ = 1 → p.ext % 2 = 0 → Memory.wf 0 s.mem = true →
      ((fabricWriteCheck .fabric p.dstRood p.addr p.data.length s).1 = true → Does (.write p) s fun t =>
        rdBytes t p.addr p.data.length = p.data ∧ MemBut p.addr p.data.length s t ∧
        ∃ a, tfind (arrKey p) t.fab.arrivals = some a ∧ a.count = 1 ∧ a.bytes = p.data.length ∧ a.status = Sts.ok ∧ a.total = p.total ∧
          a.xgen = p.xgen) ∧
      ((fabricWriteCheck .fabric p.dstRood p.addr p.data.length s).1 = false → Does (.write p) s fun t => MemSame s t ∧
        t.fab.refused = satInc 16 s.fab.refused ∧
        ∃ a, tfind (arrKey p) t.fab.arrivals = some a ∧ a.count = 1 ∧ a.status = Sts.notPermitted ∧ a.refusedLogged = true)) ∧
    (∀ bs, p.typ = 2 → fabricReadOk s p.dstRood p.addr (64 * bits p.ext 48 7) = true → pathsTo s p.src ≠ [] →
      localRead s p.addr (64 * bits p.ext 48 7) = .got bs → Does (.read p) s fun t => MemSame s t ∧
        t.fab.out.length = s.fab.out.length + (pieces (bits p.ext 48 7 + 1) (p.ext % 2 ^ 48) (64 * bits p.ext 48 7)).length ∧
        ∃ a, tfind (arrKey p) t.fab.arrivals = some a ∧ a.count = 1 ∧ a.status = Sts.ok) ∧
    (∀ a, p.typ = 4 → partTarget p = 0 → partOwned s p = true → partCase s p = .write →
      a = scratchBase (partCluster p) + (combOf' s (partCluster p) (partEntry p)).slotBase +
        partShard p * (combOf' s (partCluster p) (partEntry p)).slotStride + p.addr →
      onRing s a p.data.length = false → Memory.wf 0 s.mem = true → Does (.partial_ p) s fun t => rdBytes t a p.data.length = p.data ∧
        MemBut a p.data.length s t ∧ ∃ v, tfind (arrKey p) t.fab.arrivals = some v ∧ v.count = 1 ∧ v.status = Sts.ok) ∧
    (p.typ = 4 → partOwned s p = true → partCase s p = .early → earlyBytes s + p.data.length ≤ 262144 → Does (.partial_ p) s fun t =>
      MemSame s t ∧ tfind s.fab.nextEarly t.fab.early = some p)) ∧
  (∀ (n : Nat) (p : Packet) (s : State), tfind n s.fab.early = some p →
    (before 32 (partDl p) (rodNum s) = true → (∀ k, partTarget p = 1 → tfind (partBind p) s.binds = some k → opens k p = false) →
      Does (.earlyPartialExpire n) s fun t => tfind n t.fab.early = none ∧ MemSame s t) ∧
    (before 32 (partDl p) (rodNum s) = false → Does (.earlyPartialExpire n) s fun t => t = s)) ∧
  (∀ (src xslot : Nat) (a : Arrival) (s : State), tfind (src * 8 + xslot) s.fab.arrivals = some a → fabricOn s = true →
    (a.answered = false → a.total ≤ a.count → Does (.transferComplete src xslot) s fun t =>
      tfind (src * 8 + xslot) t.fab.arrivals = some { a with answered := true } ∧
      (a.typ = 2 → t.fab.out = s.fab.out) ∧
      (a.typ ≠ 2 → (∃ q ∈ pathsTo s src, q.2.1 = false) → ∃ l p, t.fab.out = s.fab.out ++ [(l, p)] ∧ p.typ = 6 ∧ p.dst = src ∧
        subtype p = 1 ∧ bits p.ext 8 8 = a.status % 2 ^ 8 ∧ p.xslot = xslot ∧ p.xgen = a.xgen) ∧
      (∀ k, a.signal = true → s.roods[a.rood]? = some k →
        (ctrGet a.rood a.signalCtr t).value = ((ctrGet a.rood a.signalCtr s).value + 1) % 2 ^ 32 ∧
          (ctrGet a.rood a.signalCtr t).failed = ((ctrGet a.rood a.signalCtr s).failed || a.status != Sts.ok)) ∧
      (∀ k code, (a.status, code) ∈ [(Sts.partialMismatch, 0x04), (Sts.partialDuplicate, 0x05)] → a.typ = 4 → bit a.ext 14 = false →
        s.clusters[bits a.ext 0 4]? = some k → t.events.head = (s.events.head + 1) % 2 ^ 32 ∧
          (∃ e ∈ t.events.ring.getLast?, e.code % 256 = code) ∧ ∃ v, t.clusters[bits a.ext 0 4]? = some v ∧ v.notices = k.notices) ∧
      (∀ k, a.typ = 4 → a.status = Sts.ok → bit a.ext 14 = true → tfind (bits a.ext 0 8) s.binds = some k →
        tfind (bits a.ext 0 8) t.binds = some { k with gmask := setBit k.gmask (bits a.ext 8 6) }) ∧
      (∀ k, a.typ = 4 → a.status = Sts.ok → bit a.ext 14 = false → s.clusters[bits a.ext 0 4]? = some k →
        ∃ v, t.clusters[bits a.ext 0 4]? = some v ∧ v.notices = k.notices ++
          [⟨bits a.ext 4 4, bits a.ext 8 6, bits a.ext 16 7, a.bytes, s.time.now, a.rood, false⟩])) ∧
    ((a.answered = true ∨ a.count < a.total) → Does (.transferComplete src xslot) s fun t => t = s))

/-! ### The network (12) -/

/-- What arrives at the interfaces (R361 to R370, R377, R379, R380). An interface that exists comes up and is logged; one that goes down puts every
queue pair with packets unacknowledged on it into ERROR. A good packet has its sequence number noted, and its bytes counted; a request packet in order takes its PSNs and is acknowledged, a duplicate
only acknowledged, one after a gap answered with a NAK, and one that RoCEv2 here does not support puts the queue pair into ERROR; a packet whose
ICV fails is counted and is a violation; from a partner in quarantine nothing is taken. A quarantine ends at its time. A WRITE that its region grants is
placed whole, and one that no region grants changes no byte and puts the queue pair into ERROR; a granted READ is answered with the
bytes. A doorbell gives the queue its PRODUCER and CCONSUMER. An acknowledgement covers every message up to it; without one for
ACK_TIMEOUT, or after a receiver-not-ready NAK, the messages not acknowledged go again until the retries are used, and then the queue pair is
in ERROR, as at once after a remote NAK. Where the port has ECN on, a congestion notification
halves the rate, not below 1 Gb/s, and 50 µs without one gives 5 Gb/s back.
Acknowledgements and retries are presumed to be those of RC (log 78). -/
def Obligations.NetworkArrivals : Prop :=
  (∀ (i : Nat) (k : Iface) (s : State), s.eth.ifs[i]? = some k →
    (ethOn s = true → k.st ≠ 1 → ifExists s i = true → Does (.ethLinkUp i) s fun t => Logged Blk.eth 0x01 s t ∧
      t.eth.ifs[i]? = some { k with st := 1 }) ∧
    (k.st = 1 → Does (.ethLinkDown i) s fun t =>
      (∃ u, t.eth.ifs[i]? = some u ∧ u.st = 0 ∧ u.downs = satInc 16 k.downs) ∧
      ∀ q v, qpOf s q = some v → v.iface = i → v.unacked ≠ [] → v.st = .rts → ∃ u, qpOf t q = some u ∧ u.st = .error)) ∧
  (∀ (p : EspPacket) (i : Nat) (a : Sa) (k : Qp) (s : State), ethOn s = true →
    (isQuarantined s p.iface p.srcIp = true → Does (.espReceive p) s fun t => t = { s with eth := { s.eth with ifs := t.eth.ifs } }) ∧
    (isQuarantined s p.iface p.srcIp = false → p.esp = true → p.fragment = false → saBySpi s p.spi = some (i, a) → a.st = .live →
      (p.icvOk = false → Does (.espReceive p) s fun t => t.eth.icv = satInc 16 s.eth.icv ∧
        t.eth.violations = (s.eth.violations + 1) % 2 ^ 32 ∧ t.eth.sas = s.eth.sas) ∧
      (p.icvOk = true → seqFresh a.high a.window p.seq = true → p.transportRC = true → 0x10000 ≤ p.qpn → qpOf s (p.qpn - 0x10000) = some k →
        k.st = .rts → k.saIn = i → k.ip = p.srcIp → k.rood = a.rood → p.icrcOk = true → p.ce = false →
        (isRequestOp p.op = false → roleTakes k.role p.op = true → Does (.espReceive p) s fun t =>
          t = { s with eth := { s.eth with ifs := t.eth.ifs, sas := tmod i (noteSeq p.seq) s.eth.sas } } ∧
            ∀ f, s.eth.ifs[p.iface]? = some f → t.eth.ifs[p.iface]? = some { f with rx := satAdd 64 f.rx p.bytes }) ∧
        (isRequestOp p.op = true → p.psn % 2 ^ 24 = k.nextRq → badRequest k p = false → roleTakes k.role p.op = true →
          Does (.espReceive p) s fun t => (∃ u, qpOf t (p.qpn - 0x10000) = some u ∧ u.st = .rts ∧
            u.nextRq = (k.nextRq + if p.op = .read then packetsOf p.payload else 1) % 2 ^ 24 ∧
            u.rdIn = if p.op = .read then k.rdIn ++ [p.psn] else k.rdIn) ∧
            (p.op ≠ .read → maySend s (p.qpn - 0x10000) = true → t.eth.out = s.eth.out ++ [.ack (p.qpn - 0x10000) p.psn])) ∧
        (isRequestOp p.op = true → p.psn % 2 ^ 24 ≠ k.nextRq → maySend s (p.qpn - 0x10000) = true → Does (.espReceive p) s fun t =>
          t.eth.qps = s.eth.qps ∧ t.eth.out = s.eth.out ++ [if after 24 p.psn k.nextRq then .nak (p.qpn - 0x10000) 0
            else .ack (p.qpn - 0x10000) ((k.nextRq + 2 ^ 24 - 1) % 2 ^ 24)]) ∧
        (isRequestOp p.op = true → p.psn % 2 ^ 24 = k.nextRq → (badRequest k p = true ∨ roleTakes k.role p.op = false) →
          Does (.espReceive p) s fun t => ∃ u, qpOf t (p.qpn - 0x10000) = some u ∧ u.st = .error)))) ∧
  (∀ (iface ip : Nat) (e : Nat × Nat × Nat) (s : State),
    (s.eth.quarantined.find? fun x => x.1 == iface && x.2.1 == ip) = some e →
    (e.2.2 ≤ s.time.now → Does (.quarantineEnd iface ip) s fun t => Logged Blk.eth 0x05 s t ∧
      t.eth.quarantined = s.eth.quarantined.erase e) ∧
    (s.time.now < e.2.2 → Does (.quarantineEnd iface ip) s fun t => t = s)) ∧
  (∀ (q addr rkey n id imm : Nat) (data bs : List Byte) (k : Qp) (x : Exposed) (v : Queue) (s : State), ethOn s = true →
    takes s q (fun k => k.role == 0) = some k →
    (exposes s k rkey addr data.length true = some x → writeCheck s .network addr data.length = .ok → Memory.wf 0 s.mem = true →
      Does (.rdmaWrite q addr rkey data) s (fun t => rdBytes t addr data.length = data ∧ MemBut addr data.length s t) ∧
      (data.length = 8 → id = imm % 4096 → bits imm 30 2 = 1 → bits imm 12 18 = 0 → x.doorbell = true → addr = x.start + 8 * id →
        tfind id s.queues = some v → v.pid = k.pid → v.rood = k.rood → Does (.doorbell q imm addr rkey data) s fun t =>
          rdBytes t addr 8 = data ∧ MemBut addr 8 s t ∧
          tfind id t.queues = some { v with producer := field data 0 4, cconsumer := field data 4 4 })) ∧
    (exposes s k rkey addr data.length true = none → Does (.rdmaWrite q addr rkey data) s fun t => MemSame s t ∧
      ∃ u, qpOf t q = some u ∧ u.st = .error) ∧
    (exposes s k rkey addr n false = some x → localRead s addr n = .got bs → saLive s k.saOut false k.rood = true →
      Does (.rdmaRead q addr rkey n) s fun t => t.eth.out = s.eth.out ++ [.readResp q bs] ∧ MemSame s t ∧
        ∃ u, qpOf t q = some u ∧ u.rdIn = k.rdIn.drop 1) ∧
    (exposes s k rkey addr n false = none → Does (.rdmaRead q addr rkey n) s fun t => MemSame s t ∧
      ∃ u, qpOf t q = some u ∧ u.st = .error)) ∧
  (∀ (q psn : Nat) (k : Qp) (s : State), qpOf s q = some k → k.st = .rts →
    (takes s q (fun k => isUnacked k psn) = some k → k.withheld = [] → Does (.ackReceive q psn) s fun t =>
      t = { s with eth := { s.eth with qps := t.eth.qps } } ∧ qpOf t q = some { k with
        unacked := k.unacked.filter fun u => after 24 (u.first + u.count - 1) psn
        retries := 0
        rnrs := 0
        sentAt := s.time.now }) ∧
    Does (.remoteNak q) s (fun t => (∃ u, qpOf t q = some u ∧ u.st = .error ∧ u.unacked = []) ∧
      ∀ e ∈ t.requests, e.2.q = q → e.2.remote = none → e.2.st = .joined) ∧
    (k.unacked ≠ [] →
      (before 64 s.time.now (k.sentAt + 16384 * 2 ^ k.ackTimeout) = true → Does (.ackTimeout q) s fun t => t = s) ∧
      (before 64 s.time.now (k.sentAt + 16384 * 2 ^ k.ackTimeout) = false →
        (k.retries < k.retryCnt → Does (.ackTimeout q) s fun t =>
          qpOf t q = some { k with retries := k.retries + 1, sentAt := s.time.now } ∧
            (maySend s q = true → t.eth.out = s.eth.out ++ k.unacked.map fun u => u.out)) ∧
        (k.retryCnt ≤ k.retries → Does (.ackTimeout q) s fun t => ∃ u, qpOf t q = some u ∧ u.st = .error)) ∧
      (k.rnrs < k.rnrRetry → Does (.rnrNak q) s fun t => qpOf t q = some { k with rnrs := k.rnrs + 1, sentAt := s.time.now } ∧
        (maySend s q = true → t.eth.out = s.eth.out ++ k.unacked.map fun u => u.out)) ∧
      (k.rnrRetry ≤ k.rnrs → Does (.rnrNak q) s fun t => ∃ u, qpOf t q = some u ∧ u.st = .error)) ∧
    (takes s q (fun v => ecnOn s v.iface) = some k → Does (.cnpReceive q) s fun t =>
      qpOf t q = some { k with rate := max 1000 (k.rate / 2), lastCnp := s.time.now } ∧
        t.eth.cnpRx = (s.eth.cnpRx + 1) % 2 ^ 32) ∧
    (ecnOn s k.iface = true → k.rate < ifRate s k.iface → k.lastCnp + 200000 ≤ s.time.now → Does (.cnpRateRecover q) s fun t =>
      t = { s with eth := { s.eth with qps := t.eth.qps } } ∧
        qpOf t q = some { k with rate := min (ifRate s k.iface) (k.rate + 5000), lastCnp := s.time.now }))

/-- Requests of clients (R371 to R376; 07 R214; 08 R263). REGISTER gives the handle its region; DEREGISTER deletes it, or waits for the requests that
name it. A SCORE whose record passes every check takes the next REQUEST_SEQ and waits for its admission, which takes the requests of a
rood in the order of their arrival stamps, then of PID, then of sequence (08 R269), and admits each with the rows that it tags, or lets
it wait in a swap's pause. A request late for its deadline has its timeout raised with the deadline as stamp. A verdict is written to the
OUT region in packets and its completion record after it, and the request is gone; with SPLIT_PATH the record waits for the acknowledgement
of the verdict, and the request is outstanding until then; a verdict after the deadline raises the timeout, and the record waits for the
settle interval (10 R323). A bushel read from the store is placed, if its destination takes it; one whose CHECKSUM fails halts its stream.
When a request is admitted is the model's choice (log 34). -/
def Obligations.ClientRequests : Prop :=
  (∀ (q : Nat) (m : List Byte) (k : Qp) (s : State), ethOn s = true → takes s q (fun k => k.role == 0) = some k →
    (regionFormed 1 m = true → (tfind (field m 2 2) k.regions = none ∨ namesHandle s q (field m 2 2) = false) →
      Does (.register q m) s fun t => ∃ u, qpOf t q = some u ∧
        tfind (field m 2 2) u.regions = some ⟨field m 8 8, field m 16 4, field m 20 4, bit (field m 1 1) 0, none⟩) ∧
    (∀ g, regionFormed 2 m = true → tfind (field m 2 2) k.regions = some g → g.leaving = none →
      (namesHandle s q (field m 2 2) = false → Does (.deregister q m) s fun t => ∃ u, qpOf t q = some u ∧
        tfind (field m 2 2) u.regions = none) ∧
      (namesHandle s q (field m 2 2) = true → Does (.deregister q m) s fun t => ∃ u, qpOf t q = some u ∧
        tfind (field m 2 2) u.regions = some { g with leaving := some (field m 4 4) })) ∧
    (∀ (imm a rows slice : Nat) (x : Exposed) (c o : ClientRegion) (v : Slice) (r : Request),
      tfind k.input s.eth.xrs = some x → bits imm 30 2 = 0 → x.doorbell = false → x.rood = k.rood → x.pid = k.pid →
      a = x.start + 64 * bits imm 0 30 → headerFormed (rdBytes s a 64) = true → rows = field (rdBytes s a 64) 2 2 →
      64 * bits imm 0 30 + recordLen rows (field (rdBytes s a 64) 4 4) ≤ x.len →
      refsFormed (rdBytes s (a + 64) (16 * rows)) rows = true →
      (s.slices.find? fun e => e.2.pid == k.pid && e.2.rood == k.rood) = some (slice, v) →
      r = requestOf s q k k.reqSeq slice (rdBytes s a 64) a → tfind r.cplH k.regions = some c → c.leaving = none →
      r.cplOff + 32 ≤ c.len → tfind r.outH k.regions = some o → o.leaving = none → r.outOff + rows * v.verdictBytes ≤ o.len →
      rows ≤ v.batchRows → (qpRequests s q).length < 256 →
      Does (.score q imm) s fun t => tfind s.nextReq t.requests = some r ∧ t.nextReq = s.nextReq + 1 ∧ r.st = .waiting ∧
        r.q = q ∧ r.seq = k.reqSeq ∧ r.arrival = s.time.now ∧ MemSame s t ∧
        ∃ w, qpOf t q = some w ∧ w.reqSeq = (k.reqSeq + 1) % 2 ^ 32)) ∧
  (∀ (h slice : Nat) (k : Request) (v : Slice) (ep : Epoch) (s : State), tfind h s.requests = some k →
    (s.slices.find? fun e => e.2.pid == k.pid && e.2.rood == k.rood) = some (slice, v) →
    (swapPaused s k.rood = true → (k.refs.any fun y => !y.2.2.2) = true → ∃ w, tfind h (admitRequest h s).requests = some w ∧
      w = { k with st := .waiting }) ∧
    (swapPaused s k.rood = false → currentEpoch s k.rood = some ep →
      (admitRows k.rood k.pid (some ep) 0 k.refs s).2.1 = none → ∃ w, tfind h (admitRequest h s).requests = some w ∧
        w = { k with
          st := .admitted
          rows := (admitRows k.rood k.pid (some ep) 0 k.refs s).1
          epoch := ep.num
          tagged := true
          slice := slice })) ∧
  (∀ (r : Nat) (s : State), (s.requests.map (·.1)).Nodup → (waitingRequests s r).Pairwise fun a b =>
    ∀ x y, tfind a s.requests = some x → tfind b s.requests = some y → x.arrival < y.arrival ∨ x.arrival = y.arrival ∧
      (x.pid < y.pid ∨ x.pid = y.pid ∧ x.seq ≤ y.seq)) ∧
  (∀ (h : Nat) (k : Request) (s : State), tfind h s.requests = some k → k.remote = none →
    ((k.st = .waiting ∨ k.st = .admitted) → pastRequest s k = true → k.raised = none → Does (.requestDeadline h) s fun t =>
      t = { s with requests := t.requests } ∧ tfind h t.requests = some { k with raised := some k.deadline }) ∧
    (pastRequest s k = false → Does (.requestDeadline h) s fun t => t = s) ∧
    (∀ (v : Slice) (g c : ClientRegion) (p : Qp) (data : List Byte) (o : QpOut), k.st = .joined → k.discard = false → k.resident = none →
      tfind k.slice s.slices = some v → data.length = k.rows.length * v.verdictBytes → qpOf s k.q = some p → p.st = .rts →
      p.withheld = [] → saLive s p.saOut false p.rood = true → tfind k.outH p.regions = some g → tfind k.cplH p.regions = some c →
      o = .writeImm k.q (c.addr + k.cplOff) c.rkey k.seq (requestRecord s k s.time.now Sts.ok k.rows.length data.length) →
      (pastRequest s k = false → g.splitPath = false → Does (.verdict h data) s fun t =>
        tfind h t.requests = none ∧ o ∈ t.eth.out ∧ ∀ y ∈ verdictWrites k g data, y ∈ t.eth.out) ∧
      (pastRequest s k = false → g.splitPath = true → 0 < data.length → Does (.verdict h data) s fun t =>
        (∀ y ∈ verdictWrites k g data, y ∈ t.eth.out) ∧
        (∃ e, tfind h t.requests = some e ∧ e.st = .ended ∧ e.final = some Sts.ok) ∧
        ∃ u w, qpOf t k.q = some u ∧ u.withheld = [w] ∧ w.out = o ∧ w.req = some h ∧ w.psn = some ((u.psn + 2 ^ 24 - 1) % 2 ^ 24)) ∧
      (pastRequest s k = true → atOrAfter 64 s.time.now (k.deadline + settleTicks) = false → Does (.verdict h data) s fun t =>
        (∀ y ∈ verdictWrites k g data, y ∈ t.eth.out) ∧
        ∃ e, tfind h t.requests = some e ∧ e.st = .joined ∧ e.raised = some k.deadline ∧ e.resident.isSome = true))) ∧
  (∀ (x n : Nat) (image : List Byte) (k : Ctx) (p : Qp) (s : State), tfind x s.streams.ctx = some k → k.body.srcTier = 3 →
    n ∈ k.requested → takes s k.body.storeQp (fun v => v.role == 1) = some p → image.length = imageStride s k.body →
    readChecked s k 0 (metaOfImage image) (dataOfImage image) = .got (some (metaOfImage image)) (dataOfImage image) →
    (writeDest k n .storeMove (some (metaOfImage image)) (dataOfImage image) s).1 = Sts.ok → Does (.storeReadResponse x n image) s fun t =>
      ∃ v, tfind x t.streams.ctx = some v ∧ v.placed = k.placed ++ [n] ∧ n ∉ v.requested) ∧
  (∀ (x n : Nat) (image : List Byte) (k : Ctx) (p : Qp) (s : State), tfind x s.streams.ctx = some k → k.body.srcTier = 3 →
    n ∈ k.requested → takes s k.body.storeQp (fun v => v.role == 1) = some p → image.length = imageStride s k.body →
    (metaOfImage image).poison = false → bushelCrc (metaOfImage image) (dataOfImage image) ≠ (metaOfImage image).checksum →
    Does (.storeReadResponse x n image) s fun t => MemSame s t ∧ ∃ v, tfind x t.streams.ctx = some v ∧ v.st = .halted ∧
      v.fault = some (.checksumBad, n, dstOf k n) ∧ v.placed = k.placed)

/-! ### Windows, queue pairs and exposed regions (12, 17) -/

/-- Messages of the window and the session (R381 to R386; 17 R490 to R494). A message of the session is noted as its last and has one reply, stamped with its access; one after the loss deadline, of another session, or
a datagram not of the session's association has none (R366, R381, R384). A READ of
one page register answers its value; a WRITE of one register through the module window is a write of that register, and a WRITE_MASKED
one of the bits of the mask. A key exchange whose signatures verify attaches the session under the next number, and another leaves the
session as it was; one that lasts a second fails. DETACH ends the session; a lost one is ORPHANED in SERVICE and a module start
with cause 5 elsewhere, which waits for the last rod sync that a rod master owes (10 R317). The selectors of the window pages hold what is written, an aperture base only within the window's reach.
The details of attachment and of window pages that the spec leaves open are the model's (log 49, 51). -/
def Obligations.WindowSession : Prop :=
  (∀ (m : WinMsg) (s : State), Heard m s →
    Does (.keepalive m) s (fun t => Replies m Sts.ok [] s t ∧ t = winReply m Sts.ok [] (heard m s) ∧ t.eth.session.lastMsg = s.time.now) ∧
    Does (.detach m) s (fun t => Replies m Sts.ok [] s t ∧ t.eth.session.st = .detached ∧ t.eth.session.wrapKey = [] ∧
      t.eth.session.keyIn = [] ∧ t.eth.session.keyOut = [] ∧ t.sec.nonce = none) ∧
    (∀ off v, m.offset % 8 = 0 → m.count = 1 → m.offset + 8 ≤ 0x10000 → accessCheck s m = Sts.ok →
      (m.data = [] → targets s m = [.page off] → readPage s m.window m.path off = some v → Does (.windowRead m) s fun t =>
        Replies m Sts.ok [w64 v] s t ∧ t.eth.session.lastMsg = s.time.now ∧ t.mem = s.mem ∧ t.roods = s.roods) ∧
      (∀ d, m.window = moduleWin → m.data = [d] → targets s m = [.reg off] →
        Does (.windowWrite m) s (fun t => ∃ u, exec (.registerWrite off d) (heard m s) = .next u ∧ Replies m Sts.ok [] u t ∧ t = winReply m Sts.ok [] u) ∧
        Does (.writeMasked m) s fun t => ∃ u, Replies m Sts.ok [] u t ∧ t = winReply m Sts.ok [] u ∧
          exec (.registerWrite off ((winPeek (heard m s) m.window m.path (.reg off) &&& ~~~m.mask) ||| (d &&& m.mask))) (heard m s) = .next u))) ∧
  (∀ (m : WinMsg) (s : State), (inSession s = false ∨ isLost s = true ∨ m.session ≠ s.eth.session.num ∨
      m.path = 1 ∧ datagramFault s m ≠ none) → ∀ i ∈ [Instr.keepalive m, .detach m, .windowRead m, .windowWrite m, .writeMasked m], Does i s fun t =>
    t.eth.replies = s.eth.replies ∧ t.eth.session.lastMsg = s.eth.session.lastMsg ∧ t.eth.session.st = s.eth.session.st) ∧
  (∀ (m : WinMsg) (data : List Byte) (s : State), arrives s m = true → s.eth.session.st ≠ .attaching → m.formed = true →
    data.length = 528 → inHandoff s = false → Does (.attach m data) s fun t =>
      if attachOk { s with eth := { s.eth with session := { s.eth.session with
          before := s.eth.session.st, st := .attaching, since := s.time.now } } } data = true
      then t.eth.session.st = .attached ∧ t.eth.session.num = (s.eth.session.num + 1) % 2 ^ 16 ∧ t.eth.session.orchIp = m.srcIp ∧
        t.eth.session.rights = field data 232 1 ∧ t.eth.session.lastMsg = s.time.now ∧ t.win.apbase = []
      else t.eth.session.st = s.eth.session.st ∧ t.eth.session.num = s.eth.session.num ∧ Replies m Sts.authFailed [] s t ∧
        Logged Blk.sec 0x0C s t) ∧
  (∀ s : State, s.eth.session.st = .attaching →
    (s.eth.session.since + secTicks ≤ s.time.now → Does .attachTimeout s fun t => t.eth.session.st = s.eth.session.before ∧
      t.eth.session.num = s.eth.session.num ∧ t.eth.session.waiting = none) ∧
    (s.time.now < s.eth.session.since + secTicks → Does .attachTimeout s fun t => t = s)) ∧
  (∀ (w : BootWorld) (s : State), s.boot.down = false →
    (isLost s = true → s.eth.session.phase = 1 → Does (.sessionLoss w) s fun t => t.eth.session.st = .orphaned ∧
      LastLogged Blk.eth 0x0A t ∧ t.boot = s.boot) ∧
    (isLost s = true → s.eth.session.phase ≠ 1 → owesSync s = false → Does (.sessionLoss w) s fun t => Started 5 s t) ∧
    (isLost s = true → s.eth.session.phase ≠ 1 → owesSync s = true → Does (.sessionLoss w) s fun t =>
      t.boot = { s.boot with leaving := some (5, w) } ∧ t.time.relinquish = true ∧ t.eth.session.st = .detached) ∧
    (isLost s = false → Does (.sessionLoss w) s fun t => t = s)) ∧
  (∀ (w path r mbox : Nat) (v : Word) (k : Rood) (s : State), inSession s = true → s.boot.safeMode = false →
    Does (.winEvtTail v) s (fun t => t = { s with events := { s.events with tail := v.toNat % 2 ^ 32 } }) ∧
    Does (.winMapSel v) s (fun t => t = { s with win := { s.win with mapSel := v.toNat % 2 ^ 16 } }) ∧
    (windowOpen s w = true → path < 2 →
      (baseOk s w (4096 * bits v.toNat 12 16) = true → Does (.winApbase w path v) s fun t => t = { s with win := t.win } ∧
        apbase t w path = 4096 * bits v.toNat 12 16) ∧
      (baseOk s w (4096 * bits v.toNat 12 16) = false → Does (.winApbase w path v) s fun t => t = s)) ∧
    (windowOpen s r = true → r < 16 → s.roods[r]? = some k →
      Does (.winDigSel r v) s (fun t => t = { s with roods := t.roods } ∧ t.roods[r]? = some { k with digSel := v.toNat % 256 }) ∧
      (mbox < 2 → Does (.winRplSel r mbox v) s fun t => t = { s with roods := t.roods } ∧
        (boxOf t (if mbox = 0 then .model else .training) r).sel = v.toNat % 2 ^ 32)))

/-- Queue pair and exposed region commands of an ACTIVE rood (17 R496, R497; 12 R363, R365, R369). READ gives the context's words; CREATE makes a
queue pair in RESET, under the lowest free number; MODIFY takes it to RTS, where sequence and packet numbers start anew, or to ERROR;
DELETE takes one that is not in RTS away. An exposed region is created with a tag other than the handle's last, read, and deleted
while nothing uses it. Each command leaves its operation and status.
The lowest free number is the model's choice (log 19), as are the checks of log 52; the tag is a free value (log 5). -/
def Obligations.QueuePairsAndRegions : Prop :=
  ∀ (r q h : Nat) (k : Rood) (v : Qp) (x : Exposed) (s : State), windowOpen s r = true → s.roods[r]? = some k → k.st = .active →
    (namedQp s r = some (q, v) →
      Does (.qpRead r) s (fun t => t = { s with roods := t.roods } ∧
        t.roods[r]? = some { k with qpData := wordsOfQp q v, qpCmd := w64 0 }) ∧
      (v.st = .reset → qpFormOk (qpWord s r) = true → ownPid s r (qpOfWords r (qpWord s r)).pid = true →
        inputOk s (qpOfWords r (qpWord s r)) = true → (qpOfWords r (qpWord s r)).st = .rts →
        rtsOk s (qpOfWords r (qpWord s r)) = true → Does (.qpModify r) s fun t =>
          (∃ u, qpOf t q = some u ∧ u.st = .rts ∧ u.psn = bits (qpWord s r 4) 0 24 ∧ u.nextRq = bits (qpWord s r 4) 24 24 ∧ u.reqSeq = 0 ∧ u.unacked = [] ∧ u.regions = v.regions ∧
            u.rate = ifRate s u.iface) ∧ t.roods[r]? = some { k with qpCmd := w64 2 }) ∧
      (v.st = .rts → qpFormOk (qpWord s r) = true → (qpOfWords r (qpWord s r)).st = .error → Does (.qpModify r) s fun t =>
        ∃ u, qpOf t q = some u ∧ u.st = .error) ∧
      (v.st ≠ .rts → Does (.qpDelete r) s fun t => qpOf t q = none ∧ t.roods[r]? = some { k with qpCmd := w64 3 }) ∧
      (v.st = .rts → Does (.qpDelete r) s fun t => t.eth = s.eth ∧
        t.roods[r]? = some { k with qpCmd := w64 (3 + 2 ^ 32 * Sts.resourceBusy) })) ∧
    (qpFormOk (qpWord s r) = true → ownPid s r (qpOfWords r (qpWord s r)).pid = true →
      (s.eth.qps.filter fun e => e.2.rood == r).length < 16 * k.res.qQps →
      firstBelow 65536 (fun i => (qpOf s i).isNone) = some q → Does (.qpCreate r) s fun t =>
        qpOf t q = some { qpOfWords r (qpWord s r) with st := .reset } ∧ ∃ u, t.roods[r]? = some u ∧ u.qpCmd = w64 1) ∧
    (xrOf s r h = some x →
      Does (.xrRead r h) s (fun t => t = { s with roods := t.roods } ∧
        t.roods[r]? = some { k with xrData := wordsOfXr h x, xrCmd := w64 (2 ^ 16 * (h % 4096)) }) ∧
      (xrUsed s h x = false → Does (.xrDelete r h) s fun t => tfind h t.eth.xrs = none ∧
        t.roods[r]? = some { k with xrCmd := w64 (3 + 2 ^ 16 * (h % 4096)) }) ∧
      (xrUsed s h x = true → Does (.xrDelete r h) s fun t => t.eth = s.eth)) ∧
    (xrCheck s (xrOfWords r (xrWord s r) 0) = Sts.ok → firstBelow 4096 (fun i => (tfind i s.eth.xrs).isNone) = some h →
      tgetD h 0 s.eth.xrTags < 2 ^ 20 → Does (.xrCreate r) s fun t => ∃ tag, tag ≠ tgetD h 0 s.eth.xrTags ∧ tag < 2 ^ 20 ∧
        tfind h t.eth.xrs = some (xrOfWords r (xrWord s r) tag) ∧ tgetD h 0 t.eth.xrTags = tag ∧
        ∃ u, t.roods[r]? = some u ∧ u.xrCmd = w64 (1 + 2 ^ 16 * (h % 4096)))

/-! ### Roods and slices (13) -/

/-- The life of a rood (R391 to R394, R397, R399 to R403, R524). CREATE is DEFERRED to the next furlong boundary; there the set is checked and, if it is
free, the rood is ACTIVE with it. A resize waits for its APPLY's boundary and takes effect there as a whole, or is discarded. RESET
and REMOVE stop and scrub the rood: nothing of it is left in the queue pairs, exposed regions, streams and requests, and its counters and
peers are gone; ten microseconds later the rood is ACTIVE again, or FREE with nothing. A unit that left a rood is scrubbed once
it is idle, and joins its new rood at a boundary. The tables are read, written after their checks, and deleted. A cluster that a
slice of another descriptor asks for is scrubbed first. -/
def Obligations.RoodsLive : Prop :=
  (∀ (r : Nat) (k : Rood) (s : State), s.roods[r]? = some k →
    (k.st = .free → k.createArmed = false → Does (.create r) s fun t => t = { s with roods := t.roods } ∧
      t.roods[r]? = some { k with createArmed := true, applyRod := some (nextBoundary s), cmd := 1, status := Sts.deferred }) ∧
    (k.st ≠ .free → Does (.create r) s fun t => t.roods[r]? = some { k with cmd := 1, status := Sts.roodBusy }) ∧
    (∀ n, k.applyRod = some n → k.createArmed = true → reached s n = true →
      (resCheck s r k.pend = Sts.ok → Does (.roodCreated r) s fun t => LastLogged Blk.sec 0x01 t ∧
        ∃ u, t.roods[r]? = some u ∧ u.st = .active ∧ u.res = k.pend ∧ u.status = Sts.ok ∧ u.createArmed = false ∧ u.plan = 0) ∧
      (resCheck s r k.pend ≠ Sts.ok → Does (.roodCreated r) s fun t =>
        ∃ u, t.roods[r]? = some u ∧ u.st = k.st ∧ u.res = k.res ∧ u.status = resCheck s r k.pend ∧ u.createArmed = false)) ∧
    (k.st = .active → ∀ rod, Does (.roodResizeApply r rod) s fun t => t = { s with roods := t.roods } ∧
      t.roods[r]? = some { k with applyRod := some (applyBoundary s rod) }) ∧
    (∀ n, k.applyRod = some n → k.st = .active → reached s n = true →
      (resCheck s r k.pend = Sts.ok → Does (.resizeApplied r) s fun t => LastLogged Blk.sec 0x03 t ∧
        ∃ u, t.roods[r]? = some u ∧ u.res = k.pend ∧ u.applyRod = none ∧ u.st = .active) ∧
      (resCheck s r k.pend ≠ Sts.ok → Does (.resizeApplied r) s fun t => LastLogged Blk.sec 0x04 t ∧
        ∃ u, t.roods[r]? = some u ∧ u.res = k.res ∧ u.pend = k.res ∧ u.applyRod = none)) ∧
    (∀ (i : Instr) (next : RoodState), (i = .reset r ∧ next = .resetting ∨ i = .remove r ∧ next = .removing ∧ sharedBase s r = false) →
      k.st = .active → Does i s fun t =>
        (∃ u, t.roods[r]? = some u ∧ u.st = next ∧ u.status = Sts.deferred ∧ u.resetAt = s.time.now ∧ u.counters = [] ∧ u.peers = []) ∧
        (∀ e ∈ t.eth.qps, e.2.rood ≠ r) ∧ (∀ e ∈ t.eth.xrs, e.2.rood ≠ r) ∧ (∀ e ∈ t.streams.ctx, e.2.rood ≠ r) ∧
        (∀ e ∈ t.requests, e.2.rood ≠ r) ∧ ∀ e ∈ t.queues, e.2.rood = r → e.2.st = .disabled) ∧
    (k.st = .resetting → sharedBase s r = false → Does (.remove r) s fun t =>
      t.roods[r]? = some { k with removeHeld := true, cmd := 3, status := Sts.deferred }) ∧
    (k.removeHeld = false → k.resetAt + 40000 ≤ s.time.now →
      (k.st = .resetting → Does (.roodResetDone r) s fun t => ∃ u, t.roods[r]? = some u ∧ u.st = .active ∧ u.status = Sts.ok ∧
        u.res = k.res) ∧
      (k.st = .removing → Does (.roodResetDone r) s fun t => (∃ u, t.roods[r]? = some u ∧ u.st = .free ∧ u.status = Sts.ok ∧
        u.res = {} ∧ u.dir = [] ∧ u.epochs = []) ∧ (∀ e ∈ t.slices, e.2.rood ≠ r) ∧ (∀ e ∈ t.queues, e.2.rood ≠ r) ∧
        (∀ q ∈ t.clusters, q.rood ≠ some r) ∧ ∀ q ∈ t.stks, ∀ e ∈ q.engines, e.rood ≠ some r)) ∧
    (s.time.now < k.resetAt + 40000 → Does (.roodResetDone r) s fun t => t = s)) ∧
  (∀ (c : Nat) (k : Cluster) (s : State), s.clusters[c]? = some k →
    (k.scrubbed = false → clusterIdle s c = true → Does (.unitJoinsRood (.cluster c)) s fun t =>
      (∃ u, t.clusters[c]? = some u ∧ u.scrubbed = true ∧ u.leaving = false ∧ u.join = k.join) ∧
      ∀ a, scratchBase c ≤ a → a < scratchBase c + scratchSize → rd8 t a = 0) ∧
    (∀ r, k.scrubbed = true → k.join = some r → atFurlong s = true → Does (.unitJoinsRood (.cluster c)) s fun t =>
      t.clusters[c]? = some { k with rood := some r, join := none }) ∧
    (∀ d e v, tfind d s.descs = some e → k.served = some v → e.held = true →
      (clustersNamed e.body (descCluster e)).contains c = true → needsSwitch s e c = true →
      (∀ x ∈ s.descs, x.2.held = false → x.2.slice = v → names c x.2 = false) → (∀ q ∈ k.cores, q.st = .idle) →
      Does (.sliceScrub c d) s fun t => Logged Blk.sec 0x05 s t ∧ (∃ u, t.clusters[c]? = some u ∧ u.served = some e.slice) ∧
        ∀ a, scratchBase c ≤ a → a < scratchBase c + scratchSize → rd8 t a = 0)) ∧
  (∀ (n e : Nat) (q : Stack) (g : Engine) (r : Nat) (s : State), s.stks[n]? = some q → q.engines[e]? = some g → g.scrubbed = true →
    g.join = some r → atFurlong s = true → Does (.unitJoinsRood (.engine n e)) s fun t =>
      ∃ u, t.stks[n]? = some u ∧ u.engines[e]? = some { g with rood := some r, join := none }) ∧
  (∀ (r idx : Nat) (k : Rood) (s : State), s.roods[r]? = some k → k.st = .active →
    (∀ tbl ws, tblWords s r tbl idx k = .inr ws → Does (.tableRead r tbl idx) s fun t => t = { s with roods := t.roods } ∧
      t.roods[r]? = some { k with tblData := ws, tblCmd := w64 (4 * (tbl % 4) + 2 ^ 16 * (idx % 4096)) }) ∧
    (sliceCheck s r idx (tblWord k 0) (tblWord k 1) = Sts.ok → tfind idx s.slices = none → Does (.tableWrite r 0 idx) s fun t =>
      tfind idx t.slices = some (sliceOfWords r (tblWord k 0) (tblWord k 1))) ∧
    (queueCheck s r idx (tblWord k 0) (tblWord k 1) (tblWord k 2) = Sts.ok → tfind idx s.queues = none →
      (queueOfWords r (tblWord k 0) (tblWord k 1) (tblWord k 2)).st ≠ .draining → Does (.tableWrite r 1 idx) s fun t =>
        tfind idx t.queues = some (queueOfWords r (tblWord k 0) (tblWord k 1) (tblWord k 2))) ∧
    (idx < 256 → bits (tblWord k 0) 16 48 = 0 → Does (.tableWrite r 2 idx) s fun t => ∃ u, t.roods[r]? = some u ∧
      tfind idx u.peers = some (bits (tblWord k 0) 0 12, bits (tblWord k 0) 12 4)) ∧
    (∀ q, regionCheck s r idx (tblWord k 0) (tblWord k 1) = Sts.ok → s.stks[idx / 256]? = some q → Does (.tableWrite r 3 idx) s fun t =>
      ∃ u, t.stks[idx / 256]? = some u ∧ tfind (idx % 256) u.regions = some (regionOfWords r (tblWord k 0) (tblWord k 1))) ∧
    (idx < 256 → Does (.tableDelete r 2 idx) s fun t => ∃ u, t.roods[r]? = some u ∧ tfind idx u.peers = none) ∧
    (∀ v, tfind idx s.slices = some v → v.rood = r → pidUsed s v.pid = false → Does (.tableDelete r 0 idx) s fun t =>
      tfind idx t.slices = none) ∧
    (∀ v, tfind idx s.slices = some v → v.rood = r → pidUsed s v.pid = true → Does (.tableDelete r 0 idx) s fun t =>
      t.slices = s.slices) ∧
    (∀ v, tfind idx s.queues = some v → v.rood = r → v.st = .disabled → Does (.tableDelete r 1 idx) s fun t =>
      tfind idx t.queues = none))

/-! ### Keys, reports and debug (13, 17) -/

/-- Key blobs, reports and the nonce (R404 to R410; 17 R501, R502). A blob that opens under the key-wrap key acts, counts and is logged: it
loads an association, or the hash of a rood's debug key, or destroys an association, which is then a tombstone for 100 ms without a key, or
the key of a namespace. A tombstone ends at its time. Reading SEC_NONCE leaves a new nonce in place of the old. A report holds its body
and a signature; during a hand-off it waits. SELECT puts a piece of 4 KiB into the buffer, zero
past its end, or waits for a report that is not issued yet.
Nonce and signature are free values (log 5). -/
def Obligations.KeysAndReports : Prop :=
  (∀ (b key : List Byte) (r i : Nat) (s : State), inSession s = true → keysAccepted s = true → openBlob s b = some key →
    r = field b 1 1 → i = field b 2 2 % 4096 → roodState s r = .active →
    (∀ (c : List Byte → Instr) (kind : Nat), (c, kind) ∈ [(Instr.saIn, 1), (.saOut, 2)] → field b 0 1 = kind →
      (kind = 2 ∨ (s.eth.sas.any fun e => e.2.inbound && e.2.st == .tombstone && e.2.spi == field b 4 4) = false) →
      tfind i s.eth.sas = none → (∀ k, s.roods[r]? = some k → saCount s r < k.res.qSas) → Does (c b) s fun t =>
        Logged Blk.sec 0x06 s t ∧ t.sec.keyStatus = Sts.ok ∧ t.eth.session.keyCounter = field b 8 8 ∧
        tfind i t.eth.sas = some { st := .live, rood := r, inbound := kind == 1, spi := field b 4 4, key := key }) ∧
    (field b 0 1 = 3 → Does (.debugKey b) s fun t => Logged Blk.sec 0x06 s t ∧ t.sec.keyStatus = Sts.ok ∧
      ∃ u, t.roods[r]? = some u ∧ u.debugHash = leNat key) ∧
    (∀ a, field b 0 1 = 0x10 → tfind i s.eth.sas = some a → a.rood = r → a.st = .live → Does (.destroySa b) s fun t =>
      t.sec.keyStatus = Sts.ok ∧ ∃ v, tfind i t.eth.sas = some v ∧ v.st = .tombstone ∧ v.key = [] ∧
        v.until_ = s.time.now + 100 * msTicks ∧ v.spi = a.spi) ∧
    (field b 0 1 = 0x11 → (nsOf s r).keyValid = true → Does (.destroyNs b) s fun t => t.sec.keyStatus = Sts.ok ∧
      (nsOf t r).keyValid = false ∧ (nsOf t r).erasing = true ∧ (nsOf t r).eraseGiB = (nsOf s r).size)) ∧
  (∀ (i : Nat) (a : Sa) (s : State), tfind i s.eth.sas = some a → a.st = .tombstone →
    (a.until_ ≤ s.time.now → Does (.tombstoneExpire i) s fun t => tfind i t.eth.sas = none) ∧
    (s.time.now < a.until_ → Does (.tombstoneExpire i) s fun t => t = s)) ∧
  (∀ s : State, inSession s = true →
    Does .secNonce s (fun t => ∃ v, v < 2 ^ 64 ∧ t = { s with sec := { s.sec with nonce := some v }, freeCtr := s.freeCtr + 1 }) ∧
    (s.sec.rptPendingAt = none → inHandoff s = false → Does .request s fun t => Logged Blk.sec 0x09 s t ∧ ∃ sig, sig.length = 96 ∧
      t.sec.report = reportBody s (s.sec.rptNonce.flatMap fun w => leBytes 8 w.toNat) 0 (handoffField s false) ++ sig) ∧
    (s.sec.rptPendingAt = none → inHandoff s = true → Does .request s fun t => t.sec.rptPendingAt = some s.time.now ∧
      t.sec.report = [] ∧ t.sec.rptCtl = rptCtl 1 0 0 Sts.deferred 0) ∧
    (∀ piece, s.sec.report ≠ [] → Does (.select 0 piece) s fun t => t = { s with sec := t.sec } ∧ t.sec.buf.length = 4096 ∧
      t.sec.rptCtl = rptCtl 2 0 piece Sts.ok s.sec.report.length ∧
      t.sec.buf = (s.sec.report.drop (4096 * (piece % 16))).take 4096 ++
        List.replicate (4096 - ((s.sec.report.drop (4096 * (piece % 16))).take 4096).length) 0) ∧
    (∀ piece, s.sec.report = [] → Does (.select 0 piece) s fun t => t = { s with sec := t.sec } ∧ t.sec.buf = s.sec.buf ∧
      t.sec.rptSelect = s.sec.rptSelect ++ [piece] ∧ t.sec.rptCtl = rptCtl 2 0 piece Sts.deferred 0))

/-- Security and debug states (R411, R412; 17 R502, R503). ENTER_D1 and LEAVE by the owner change the debug state as Table 13.12 allows; a grant
presented consumes the nonce, and only one whose checks pass changes the debug state, D2 for its rood until its expiry rod. The
life cycle goes forward only: the next state is fused for the next start, but RMA is entered at once, with every rood's keys
destroyed and the session ended. A debug access that the state permits is logged, reads or writes the 64 bytes, and halts a core; a WRITE
that no debug write may make on a stack, as into a locked range, is refused (04 R105; 07 R209).
What the debug unit leaves open is the model's choice (log 50, 74).-/
def Obligations.DebugAndLifeCycle : Prop :=
  (∀ s : State, inSession s = true →
    (s.eth.session.owner = true → bit s.eth.session.rights 2 = true → s.sec.debug = 0 → (s.sec.state = 1 ∨ s.sec.state = 2) →
      Does .enterD1 s fun t => Logged Blk.sec 0x0B s t ∧ t.sec.debug = 1 ∧ t.sec.grantCtl = w64 1) ∧
    (s.eth.session.owner = false → Does .enterD1 s fun t => Logged Blk.sec 0x0C s t ∧ t.sec.debug = s.sec.debug) ∧
    (field (grantBytes s) 0 1 = 2 → Does .present s fun t => t.sec.nonce = none ∧
      if checkD2 s (grantBytes s) (s.sec.nonce == some (field (grantBytes s) 8 8)) = Sts.ok
      then t.sec.debug = 2 ∧ t.sec.d2Rood = field (grantBytes s) 1 1 ∧
        t.sec.d2Expiry = field (grantBytes s) 16 6 + 2 ^ 48 * field (grantBytes s) 22 2
      else t.sec.debug = s.sec.debug) ∧
    (field (grantBytes s) 0 1 = 3 → Does .present s fun t => t.sec.nonce = none ∧
      if checkD3 s (grantBytes s) (s.sec.nonce == some (field (grantBytes s) 8 8)) = Sts.ok
      then t.sec.debug = 3 ∧ t.sec.d3Logged = s.sec.d3Logged + 1 ∧ t.sec.d3Left = s.sec.d3Left - 1 ∧
        ∀ r, r < 16 → (nsOf t r).keyValid = false
      else t.sec.debug = s.sec.debug) ∧
    (∀ target, s.eth.session.owner = true → (s.sec.debug = 1 ∧ target = 0 ∨ s.sec.debug = 2 ∧ target ≤ 1) →
      Does (.leave target) s fun t => LastLogged Blk.sec 0x0B t ∧ t.sec.debug = target ∧ t.sec.grantCtl = w64 (3 + 16 * target)) ∧
    (s.eth.session.owner = false → s.sec.state = 0 → s.sec.debug = 0 → s.sec.fusedNext = none → Does .toS1 s fun t =>
      t = { s with sec := { s.sec with fusedNext := some 1, ownerHashNext := field (grantBytes s) 0 48, lifeCtl := w64 1 } }) ∧
    (s.eth.session.owner = true → s.sec.state = 1 → s.sec.debug = 0 → s.sec.part = 1 → s.sec.fusedNext = none → Does .toS2 s fun t =>
      t = { s with sec := { s.sec with fusedNext := some 2, lifeCtl := w64 2 } }) ∧
    (s.eth.session.owner = true → bit s.eth.session.rights 3 = true → (s.sec.state = 1 ∨ s.sec.state = 2) → Does .toS3 s fun t =>
      LastLogged Blk.sec 0x0A t ∧ t.sec.state = 3 ∧ t.sec.fusedNext = none ∧ t.eth.session.st = .detached ∧
        (∀ i a, tfind i t.eth.sas = some a → a.st = .tombstone) ∧ (∀ r, r < 16 → (nsOf t r).keyValid = false) ∧ ∀ k ∈ t.roods, k.st ≠ .active)) ∧
  (∀ s : State, s.sec.debug = 2 →
    ((s.sec.d2Expiry + 1) * rodLen s ≤ s.time.now → Does .d2Expiry s fun t => LastLogged Blk.sec 0x0B t ∧ t.sec.debug = 1) ∧
    (s.time.now < (s.sec.d2Expiry + 1) * rodLen s → Does .d2Expiry s fun t => t = s)) ∧
  (∀ s : State, s.fwc.pstate ≠ 3 →
    (dbgReach s false = .mem → Does .debugRead s fun t => Logged Blk.sec 0x0E s t ∧ MemSame s t ∧
      ∀ i, i < 8 → tfind i t.sec.dbgData = some (w64 (rdLe s (s.sec.dbgAddr % 2 ^ 48 + 8 * i) 8))) ∧
    (dbgReach s true = .mem → (∀ u o, placeOf (s.sec.dbgAddr % 2 ^ 48) 64 = .stk u o → debugCheck s (s.sec.dbgAddr % 2 ^ 48) = .ok) →
      Memory.wf 0 s.mem = true → Does .debugWrite s fun t => Logged Blk.sec 0x0E s t ∧
      (∀ i, i < 8 → rdLe t (s.sec.dbgAddr % 2 ^ 48 + 8 * i) 8 = (tgetD i 0 s.sec.dbgData).toNat) ∧
      MemBut (s.sec.dbgAddr % 2 ^ 48) 64 s t) ∧
    (∀ u o, dbgReach s true = .mem → placeOf (s.sec.dbgAddr % 2 ^ 48) 64 = .stk u o → debugCheck s (s.sec.dbgAddr % 2 ^ 48) ≠ .ok →
      Does .debugWrite s fun t => MemSame s t ∧ t.bushels = s.bushels) ∧
    (s.sec.debug < 2 → Does .debugRead s (fun t => MemSame s t ∧ t.sec.dbgData = s.sec.dbgData) ∧
      Does .debugWrite s (fun t => t.mem = s.mem ∧ t.roods = s.roods) ∧ Does .core s fun t => t.clusters = s.clusters) ∧
    (∀ c n k, c = bits s.sec.dbgAddr 0 4 → n = bits s.sec.dbgAddr 4 2 → bits s.sec.dbgAddr 6 2 = 0 → 2 ≤ s.sec.debug →
      (s.sec.debug = 2 → ownsCluster s s.sec.d2Rood c = true) → s.fwc.pstate ≠ 4 → coreAt s c n = some k → Does .core s fun t =>
        Logged Blk.sec 0x0E s t ∧ coreAt t c n = some { k with st := .stopped }))
end

