-- ==== Sys2Proof/Laws/Store.lean ====
section
/-! SUPPORT. Laws of the sparse tables and byte memories: reads after writes, and that every operation keeps the canonical form. -/
namespace Sys2Proof.Laws

open Sys2Proof.Machine

/-! ### Tables -/

@[simp] theorem tfind_tset_self {α : Type} (k : Nat) (v : α) (t : Table α) : tfind k (tset k v t) = some v := by
  induction t with
  | nil => simp [tset, tfind]
  | cons e t ih =>
    obtain ⟨k', v'⟩ := e
    simp only [tset]
    split
    · simp [tfind]
    · split
      · simp [tfind]
      · rename_i _ h
        simp only [tfind]
        rw [if_neg (fun e => h e.symm)]
        exact ih

theorem tfind_tset_of_ne {α : Type} {k j : Nat} (h : j ≠ k) (v : α) (t : Table α) : tfind j (tset k v t) = tfind j t := by
  induction t with
  | nil => simp [tset, tfind, h.symm]
  | cons e t ih =>
    obtain ⟨k', v'⟩ := e
    simp only [tset]
    split
    · simp [tfind, h.symm]
    · split
      · subst_vars; simp [tfind, h.symm]
      · simp only [tfind]; split
        · rfl
        · exact ih

@[simp] theorem tgetD_tset_self {α : Type} (k : Nat) (d v : α) (t : Table α) : tgetD k d (tset k v t) = v := by simp [tgetD]

@[simp] theorem tfind_tdel_self {α : Type} (k : Nat) (t : Table α) : tfind k (tdel k t) = none := by
  induction t with
  | nil => rfl
  | cons e t ih =>
    obtain ⟨k', v'⟩ := e
    unfold tdel at ih ⊢
    by_cases h : k' = k
    · simp [h] at ih ⊢; exact ih
    · simp [h, tfind] at ih ⊢; exact ih

theorem tfind_tmod_self {α : Type} (k : Nat) (f : α → α) (t : Table α) : tfind k (tmod k f t) = (tfind k t).map f := by
  induction t with
  | nil => rfl
  | cons e t ih =>
    obtain ⟨k', v'⟩ := e
    unfold tmod at ih ⊢
    by_cases h : k' = k <;> simp [h, tfind, ih]

/-! ### Byte memories -/

theorem cellsFrom_mono {d : Byte} {lo lo' : Nat} (h : lo' ≤ lo) : ∀ {m : List Host.Cell}, cellsFrom d lo m = true → cellsFrom d lo' m = true
  | [], _ => rfl
  | (a, b) :: t, hm => by
    simp only [cellsFrom, Bool.and_eq_true, decide_eq_true_eq] at hm ⊢
    exact ⟨⟨by omega, hm.1.2⟩, hm.2⟩

theorem cellSet_from {d : Byte} {a : Nat} {b : Byte} :
    ∀ {lo : Nat} {m : List Host.Cell}, lo ≤ a → cellsFrom d lo m = true → cellsFrom d lo (cellSet d a b m) = true
  | lo, [], h, _ => by
    simp only [cellSet]; split
    · rfl
    · rename_i hb; simp [cellsFrom, h, hb]
  | lo, (a', b') :: t, h, hm => by
    simp only [cellsFrom, Bool.and_eq_true, decide_eq_true_eq] at hm
    obtain ⟨⟨h1, h2⟩, h3⟩ := hm
    simp only [cellSet]
    split
    · split
      · simp [cellsFrom, h1, h2, h3]
      · rename_i hlt hb
        simp only [cellsFrom, Bool.and_eq_true, decide_eq_true_eq]
        exact ⟨⟨h, hb⟩, ⟨⟨hlt, h2⟩, h3⟩⟩
    · split
      · split
        · exact cellsFrom_mono (by omega) h3
        · rename_i heq hb
          simp only [cellsFrom, Bool.and_eq_true, decide_eq_true_eq]
          subst heq
          exact ⟨⟨h, hb⟩, h3⟩
      · simp only [cellsFrom, Bool.and_eq_true, decide_eq_true_eq]
        exact ⟨⟨h1, h2⟩, cellSet_from (by omega) h3⟩

/-- A byte write keeps the canonical form. -/
theorem cellSet_wf {d : Byte} {a : Nat} {b : Byte} {m : List Host.Cell} (h : Memory.wf d m = true) : Memory.wf d (cellSet d a b m) = true :=
  cellSet_from (Nat.zero_le a) h

/-- A write of bytes keeps the canonical form. -/
theorem cellSetAll_wf {d : Byte} : ∀ {bs : List Byte} {a : Nat} {m : List Host.Cell}, Memory.wf d m = true →
    Memory.wf d (cellSetAll d a bs m) = true
  | [], _, _, h => h
  | _ :: _, _, _, h => by
    simp only [cellSetAll]
    exact cellSetAll_wf (cellSet_wf h)

theorem cellClear_from {d : Byte} {lo n : Nat} : ∀ {k : Nat} {m : List Host.Cell}, cellsFrom d k m = true →
    cellsFrom d k (cellClear lo n m) = true
  | _, [], _ => rfl
  | k, (a, b) :: t, hm => by
    simp only [cellsFrom, Bool.and_eq_true, decide_eq_true_eq] at hm
    obtain ⟨⟨h1, h2⟩, h3⟩ := hm
    have ih := cellClear_from (d := d) (lo := lo) (n := n) h3
    unfold cellClear at ih ⊢
    by_cases hc : a < lo ∨ lo + n ≤ a
    · rw [List.filter_cons_of_pos (by simpa using hc)]
      simp only [cellsFrom, Bool.and_eq_true, decide_eq_true_eq]
      exact ⟨⟨h1, h2⟩, ih⟩
    · rw [List.filter_cons_of_neg (by simpa using hc)]
      exact cellsFrom_mono (by omega) ih

/-- Clearing a range keeps the canonical form. -/
theorem cellClear_wf {d : Byte} {lo n : Nat} {m : List Host.Cell} (h : Memory.wf d m = true) : Memory.wf d (cellClear lo n m) = true :=
  cellClear_from h

/-- Below its first address a memory reads as unlisted. -/
theorem cellGet_below {d : Byte} {a : Nat} : ∀ {lo : Nat} {m : List Host.Cell}, a < lo → cellsFrom d lo m = true → cellGet d a m = d
  | _, [], _, _ => rfl
  | lo, (a', b) :: t, h, hm => by
    simp only [cellsFrom, Bool.and_eq_true, decide_eq_true_eq] at hm
    simp only [cellGet]
    rw [if_neg (by omega)]
    exact cellGet_below (lo := a' + 1) (by omega) hm.2

/-- A byte reads as what was written to it. -/
theorem cellGet_cellSet_self {d : Byte} {a : Nat} {b : Byte} : ∀ {lo : Nat} {m : List Host.Cell}, cellsFrom d lo m = true →
    cellGet d a (cellSet d a b m) = b
  | _, [], _ => by
    simp only [cellSet]; split
    · rename_i h; simp [cellGet, h]
    · simp [cellGet]
  | lo, (a', b') :: t, hm => by
    simp only [cellsFrom, Bool.and_eq_true, decide_eq_true_eq] at hm
    simp only [cellSet]
    split
    · split
      · rename_i h hb
        subst hb
        exact cellGet_below (lo := a') h (by simp [cellsFrom, hm.1.2, hm.2])
      · simp [cellGet]
    · split
      · split
        · rename_i h hb
          subst hb
          exact cellGet_below (lo := a' + 1) (by omega) hm.2
        · simp [cellGet]
      · rename_i h h'
        simp only [cellGet]
        rw [if_neg (fun e => h' e.symm)]
        exact cellGet_cellSet_self hm.2

/-- Other bytes read as before. -/
theorem cellGet_cellSet_of_ne {d : Byte} {a c : Nat} {b : Byte} (hne : c ≠ a) : ∀ {m : List Host.Cell},
    cellGet d c (cellSet d a b m) = cellGet d c m
  | [] => by
    simp only [cellSet]; split
    · rfl
    · simp [cellGet, hne.symm]
  | (a', b') :: t => by
    simp only [cellSet]
    split
    · split
      · rfl
      · simp [cellGet, hne.symm]
    · split
      · rename_i _ heq
        subst heq
        split
        · simp [cellGet, hne.symm]
        · simp [cellGet, hne.symm]
      · simp only [cellGet]
        split
        · rfl
        · exact cellGet_cellSet_of_ne hne

/-- Bytes outside a written range read as before. -/
theorem cellGet_cellSetAll_of_out {d : Byte} {c : Nat} : ∀ {bs : List Byte} {a : Nat} {m : List Host.Cell}, c < a ∨ a + bs.length ≤ c →
    cellGet d c (cellSetAll d a bs m) = cellGet d c m
  | [], _, _, _ => rfl
  | b :: bs, a, m, h => by
    simp only [List.length_cons] at h
    simp only [cellSetAll]
    rw [cellGet_cellSetAll_of_out (by omega), cellGet_cellSet_of_ne (by omega)]

/-- Bytes of a written range read as written. -/
theorem cellGet_cellSetAll {d : Byte} : ∀ {bs : List Byte} {a i : Nat} {m : List Host.Cell}, Memory.wf d m = true → (h : i < bs.length) →
    cellGet d (a + i) (cellSetAll d a bs m) = bs[i]
  | b :: bs, a, 0, m, hm, _ => by
    simp only [cellSetAll, Nat.add_zero, List.getElem_cons_zero]
    rw [cellGet_cellSetAll_of_out (by omega)]
    exact cellGet_cellSet_self hm
  | b :: bs, a, i + 1, m, hm, h => by
    simp only [cellSetAll, List.getElem_cons_succ]
    have : a + (i + 1) = a + 1 + i := by omega
    rw [this]
    exact cellGet_cellSetAll (cellSet_wf hm) (by simpa using h)

/-- A cleared range reads as unlisted. -/
theorem cellGet_cellClear_in {d : Byte} {lo n a : Nat} (h1 : lo ≤ a) (h2 : a < lo + n) : ∀ {m : List Host.Cell},
    cellGet d a (cellClear lo n m) = d
  | [] => rfl
  | (a', b) :: t => by
    have ih := cellGet_cellClear_in (d := d) h1 h2 (m := t)
    unfold cellClear at ih ⊢
    by_cases hc : a' < lo ∨ lo + n ≤ a'
    · rw [List.filter_cons_of_pos (by simpa using hc)]
      simp only [cellGet]
      rw [if_neg (by omega)]
      exact ih
    · rw [List.filter_cons_of_neg (by simpa using hc)]
      exact ih

/-- Bytes outside a cleared range read as before. -/
theorem cellGet_cellClear_out {d : Byte} {lo n a : Nat} (h : a < lo ∨ lo + n ≤ a) : ∀ {m : List Host.Cell},
    cellGet d a (cellClear lo n m) = cellGet d a m
  | [] => rfl
  | (a', b) :: t => by
    have ih := cellGet_cellClear_out (d := d) h (m := t)
    unfold cellClear at ih ⊢
    by_cases hc : a' < lo ∨ lo + n ≤ a'
    · rw [List.filter_cons_of_pos (by simpa using hc)]
      simp only [cellGet, ih]
    · rw [List.filter_cons_of_neg (by simpa using hc)]
      simp only [cellGet]
      rw [if_neg (by omega)]
      exact ih

/-! ### Little-endian fields -/

@[simp] theorem leBytes_length (n v : Nat) : (leBytes n v).length = n := by
  induction n generalizing v with
  | zero => rfl
  | succ n ih => simp [leBytes, ih]

/-- A number of n bytes reads back from its bytes. -/
theorem leNat_leBytes (n v : Nat) : leNat (leBytes n v) = v % 256 ^ n := by
  induction n generalizing v with
  | zero => simp [leBytes, leNat, Nat.mod_one]
  | succ n ih =>
    simp only [leBytes, leNat, ih]
    rw [Nat.pow_succ', Nat.mod_mul]
    simp [BitVec.toNat_ofNat]

end Sys2Proof.Laws
end

