-- ==== Sys2Proof/Laws/Keep.lean ====
section
/-! SUPPORT. What no operation of the module may break, as one property that every operation is shown to keep. -/
namespace Sys2Proof.Laws

open Sys2Proof.Machine Sys2Proof.Safety

/-- The values that Keep speaks of: the stamp, the event ring, the memories, the commands that wait. -/
structure KeepV (qs : List Instr) (now : Nat) (ring : List Event) (mem nor : List Host.Cell) (pending : List Instr)
    (roods clusters stks links : Nat) : Prop where
  pend : pending = qs
  grid : now % 4 = 0
  width : now < 2 ^ 64
  ringLen : ring.length ≤ ringSize
  memWf : Memory.wf 0 mem = true
  norWf : Memory.wf 0xFF nor = true
  roodCount : roods = 16
  clusterCount : clusters = 16
  stackCount : stks = 8
  linkCount : links = 96

/-- The commands that wait are qs; the clock stands on its grid; the memories are canonical; the event ring is within its bound; the
module has its shape. -/
def Keep (qs : List Instr) (s : State) : Prop := KeepV qs s.time.now s.events.ring s.mem s.nor s.pending
    s.roods.length s.clusters.length s.stks.length s.links.length

theorem Keep.toV {qs : List Instr} {s : State} (h : Keep qs s) : KeepV qs s.time.now s.events.ring s.mem s.nor s.pending
    s.roods.length s.clusters.length s.stks.length s.links.length := h

/-- Keep of a state written field by field. -/
theorem keep_mk {qs : List Instr} (time : Time) (glb : Glb) (events : Events) (pins : Pins) (boot : Boot) (nor : List Host.Cell) (fwc : Fwc)
    (repair : List RepairEntry) (repairSeq : Nat) (sec : Sec) (win : Windows) (eth : Eth) (links : List Link) (linkSpares : List LinkSpare)
    (fab : Fabric) (roods : List Rood) (slices : Table Slice) (drrNext : Nat) (queues : Table Queue) (descs : Table Desc) (nextDesc : Nat)
    (clusters : List Cluster) (spareCluster : SpareCluster) (stks : List Stack) (streams : Streams) (flash : Flash) (slots : Table Slot)
    (cache : Table CacheEntry) (nextCache : Nat) (requests : Table Request) (nextReq : Nat) (binds : Table Bind) (mem : List Host.Cell)
    (bushels : Table Meta) (freeCtr : Nat) (pending : List Instr) :
    Keep qs (State.mk time glb events pins boot nor fwc repair repairSeq sec win eth links linkSpares fab roods slices drrNext queues descs
      nextDesc clusters spareCluster stks streams flash slots cache nextCache requests nextReq binds mem bushels freeCtr pending) ↔
      KeepV qs time.now events.ring mem nor pending roods.length clusters.length stks.length links.length := Iff.rfl

/-- Keep holds of the state that an outcome answers. -/
def AnswerKeeps (qs : List Instr) (o : Answer) : Prop := match o with | .next t => Keep qs t | .fault _ => True | .refused _ => True

theorem AnswerKeeps.next {qs : List Instr} {t : State} (h : Keep qs t) : AnswerKeeps qs (.next t) := h

/-- A state named by a let is shown to keep once; what follows uses only that. -/
theorem keep_cut {G : Prop} {qs : List Instr} (x : State) (h : Keep qs x) (k : Keep qs x → G) : G := k h

/-! The same for an operation that a let names. -/
theorem keep_cut_ss {G : Prop} {qs : List Instr} (x : State → State) (h : ∀ s, Keep qs s → Keep qs (x s))
    (k : (∀ s, Keep qs s → Keep qs (x s)) → G) : G := k h
theorem keep_cut_ass {G : Prop} {α : Type} {qs : List Instr} (x : α → State → State) (h : ∀ a s, Keep qs s → Keep qs (x a s))
    (k : (∀ a s, Keep qs s → Keep qs (x a s)) → G) : G := k h
theorem keep_cut_abss {G : Prop} {α β : Type} {qs : List Instr} (x : α → β → State → State)
    (h : ∀ a b s, Keep qs s → Keep qs (x a b s)) (k : (∀ a b s, Keep qs s → Keep qs (x a b s)) → G) : G := k h
theorem keep_cut_a {G : Prop} {α : Type} {qs : List Instr} (x : α → State) (h : ∀ a, Keep qs (x a))
    (k : (∀ a, Keep qs (x a)) → G) : G := k h
theorem keep_cut_ab {G : Prop} {α β : Type} {qs : List Instr} (x : α → β → State) (h : ∀ a b, Keep qs (x a b))
    (k : (∀ a b, Keep qs (x a b)) → G) : G := k h
theorem keep_cut_abc {G : Prop} {α β γ : Type} {qs : List Instr} (x : α → β → γ → State) (h : ∀ a b c, Keep qs (x a b c))
    (k : (∀ a b c, Keep qs (x a b c)) → G) : G := k h

theorem keep_cut_snd {G : Prop} {α : Type} {qs : List Instr} (x : α × State) (h : Keep qs x.2) (k : Keep qs x.2 → G) : G := k h

theorem keep_cut_o {G : Prop} {qs : List Instr} (x : Option State) (h : ∀ t, x = some t → Keep qs t)
    (k : (∀ t, x = some t → Keep qs t) → G) : G := k h
theorem keep_cut_o1 {G : Prop} {α : Type} {qs : List Instr} (x : Option State × α) (h : ∀ t, x.1 = some t → Keep qs t)
    (k : (∀ t, x.1 = some t → Keep qs t) → G) : G := k h

theorem keepV_roods {qs : List Instr} {s : State} (h : Keep qs s) : KeepV qs s.time.now s.events.ring s.mem s.nor s.pending 16
    s.clusters.length s.stks.length s.links.length := by
  have := h.toV; rw [this.roodCount] at this; exact this

theorem keep_getD {qs : List Instr} (o : Option State) (d : State) (h : ∀ t, o = some t → Keep qs t) (hd : Keep qs d) :
    Keep qs (o.getD d) := by
  cases o with
  | none => exact hd
  | some t => exact h t rfl

theorem keepV_mem_nil {qs : List Instr} {now : Nat} {ring : List Event} {nor : List Host.Cell} {p : List Instr} {s : State} {a b c d : Nat}
    (h : Keep qs s) (ha : a = s.roods.length) (hb : b = s.clusters.length) (hc : c = s.stks.length) (hd : d = s.links.length) (hn : now = s.time.now) (hr : ring = s.events.ring) (ho : nor = s.nor) (hp : p = s.pending) :
    KeepV qs now ring [] nor p a b c d := by
  subst hn hr ho hp ha hb hc hd
  exact ⟨h.pend, h.grid, h.width, h.ringLen, rfl, h.norWf, h.roodCount, h.clusterCount, h.stackCount, h.linkCount⟩

end Sys2Proof.Laws
end

