-- ==== Sys2Proof/Laws/KeepOps.lean ====
section
/-! SUPPORT. What every operation of Machine/Ops.lean keeps: the waiting commands, the clock grid, the canonical form of the memories and
the bound of the event ring (Laws/Keep.lean). -/
namespace Sys2Proof.Laws

set_option linter.unusedSimpArgs false

open Sys2Proof.Machine Sys2Proof.Safety

theorem doneOr_keeps {qs : List Instr} (s : State) (o : Answer) (hs : Keep qs s) (ho : AnswerKeeps qs o) : Keep qs (doneOr s o) := by
  cases o with
  | next t => exact ho
  | fault f => exact hs
  | refused r => exact hs

theorem modRood_keeps {qs : List Instr} (r : Nat) (f : Rood → Rood) (s : State) (hs : Keep qs s) : Keep qs (modRood r f s) := by
  delta modRood
  repeat' first
    | (with_reducible assumption)
    | (simp only [keep_mk, List.length_modify, List.length_map, List.length_replicate, List.length_zip, List.length_range, List.length_mapIdx, Nat.min_self])
    | (with_reducible apply Keep.toV)

theorem modCluster_keeps {qs : List Instr} (c : Nat) (f : Cluster → Cluster) (s : State) (hs : Keep qs s) : Keep qs (modCluster c f s) := by
  delta modCluster
  repeat' first
    | (with_reducible assumption)
    | (simp only [keep_mk, List.length_modify, List.length_map, List.length_replicate, List.length_zip, List.length_range, List.length_mapIdx, Nat.min_self])
    | (with_reducible apply Keep.toV)

theorem modCore_keeps {qs : List Instr} (c n : Nat) (f : Core → Core) (s : State) (hs : Keep qs s) : Keep qs (modCore c n f s) := by
  delta modCore
  repeat' first
    | (with_reducible assumption)
    | (with_reducible apply modCluster_keeps)

theorem modBank_keeps {qs : List Instr} (c b : Nat) (f : Bank → Bank) (s : State) (hs : Keep qs s) : Keep qs (modBank c b f s) := by
  delta modBank
  repeat' first
    | (with_reducible assumption)
    | (with_reducible apply modCluster_keeps)

theorem modComb_keeps {qs : List Instr} (c i : Nat) (f : Comb → Comb) (s : State) (hs : Keep qs s) : Keep qs (modComb c i f s) := by
  delta modComb
  repeat' first
    | (with_reducible assumption)
    | (with_reducible apply modCluster_keeps)

theorem modStack_keeps {qs : List Instr} (t : Nat) (f : Stack → Stack) (s : State) (hs : Keep qs s) : Keep qs (modStack t f s) := by
  delta modStack
  repeat' first
    | (with_reducible assumption)
    | (simp only [keep_mk, List.length_modify, List.length_map, List.length_replicate, List.length_zip, List.length_range, List.length_mapIdx, Nat.min_self])
    | (with_reducible apply Keep.toV)

theorem modEngine_keeps {qs : List Instr} (t e : Nat) (f : Engine → Engine) (s : State) (hs : Keep qs s) : Keep qs (modEngine t e f s) := by
  delta modEngine
  repeat' first
    | (with_reducible assumption)
    | (with_reducible apply modStack_keeps)

theorem modLock_keeps {qs : List Instr} (t i : Nat) (f : LockEntry → LockEntry) (s : State) (hs : Keep qs s) : Keep qs (modLock t i f s) := by
  delta modLock
  repeat' first
    | (with_reducible assumption)
    | (with_reducible apply modStack_keeps)

theorem modLink_keeps {qs : List Instr} (l : Nat) (f : Link → Link) (s : State) (hs : Keep qs s) : Keep qs (modLink l f s) := by
  delta modLink
  repeat' first
    | (with_reducible assumption)
    | (simp only [keep_mk, List.length_modify, List.length_map, List.length_replicate, List.length_zip, List.length_range, List.length_mapIdx, Nat.min_self])
    | (with_reducible apply Keep.toV)

theorem modDesc_keeps {qs : List Instr} (d : Nat) (f : Desc → Desc) (s : State) (hs : Keep qs s) : Keep qs (modDesc d f s) := by
  delta modDesc
  repeat' first
    | (with_reducible assumption)
    | (simp only [keep_mk, List.length_modify, List.length_map, List.length_replicate, List.length_zip, List.length_range, List.length_mapIdx, Nat.min_self])
    | (with_reducible apply Keep.toV)

theorem modQueue_keeps {qs : List Instr} (q : Nat) (f : Queue → Queue) (s : State) (hs : Keep qs s) : Keep qs (modQueue q f s) := by
  delta modQueue
  repeat' first
    | (with_reducible assumption)
    | (simp only [keep_mk, List.length_modify, List.length_map, List.length_replicate, List.length_zip, List.length_range, List.length_mapIdx, Nat.min_self])
    | (with_reducible apply Keep.toV)

theorem modBind_keeps {qs : List Instr} (b : Nat) (f : Bind → Bind) (s : State) (hs : Keep qs s) : Keep qs (modBind b f s) := by
  delta modBind
  repeat' first
    | (with_reducible assumption)
    | (simp only [keep_mk, List.length_modify, List.length_map, List.length_replicate, List.length_zip, List.length_range, List.length_mapIdx, Nat.min_self])
    | (with_reducible apply Keep.toV)

theorem modSlot_keeps {qs : List Instr} (i : Nat) (f : Slot → Slot) (s : State) (hs : Keep qs s) : Keep qs (modSlot i f s) := by
  delta modSlot
  repeat' first
    | (with_reducible assumption)
    | (simp only [keep_mk, List.length_modify, List.length_map, List.length_replicate, List.length_zip, List.length_range, List.length_mapIdx, Nat.min_self])
    | (with_reducible apply Keep.toV)

theorem modReq_keeps {qs : List Instr} (h : Nat) (f : Request → Request) (s : State) (hs : Keep qs s) : Keep qs (modReq h f s) := by
  delta modReq
  repeat' first
    | (with_reducible assumption)
    | (simp only [keep_mk, List.length_modify, List.length_map, List.length_replicate, List.length_zip, List.length_range, List.length_mapIdx, Nat.min_self])
    | (with_reducible apply Keep.toV)

theorem modQp_keeps {qs : List Instr} (q : Nat) (f : Qp → Qp) (s : State) (hs : Keep qs s) : Keep qs (modQp q f s) := by
  delta modQp
  repeat' first
    | (with_reducible assumption)
    | lift_lets
    | (intro x; clear_value x)
    | (simp only [keep_mk, List.length_modify, List.length_map, List.length_replicate, List.length_zip, List.length_range, List.length_mapIdx, Nat.min_self])
    | (with_reducible apply Keep.toV)

theorem modCtx_keeps {qs : List Instr} (x : Nat) (f : Ctx → Ctx) (s : State) (hs : Keep qs s) : Keep qs (modCtx x f s) := by
  delta modCtx
  repeat' first
    | (with_reducible assumption)
    | lift_lets
    | (intro x; clear_value x)
    | (simp only [keep_mk, List.length_modify, List.length_map, List.length_replicate, List.length_zip, List.length_range, List.length_mapIdx, Nat.min_self])
    | (with_reducible apply Keep.toV)

theorem modTime_keeps {qs : List Instr} (f : Time → Time) (s : State) (hs : Keep qs s) (hf : (f s.time).now = s.time.now) :
    Keep qs (modTime f s) := by
  obtain ⟨a, b, c, d, e, g, hA, hB, hC, hD⟩ := hs
  exact ⟨a, by show (f s.time).now % 4 = 0; rw [hf]; exact b, by show (f s.time).now < _; rw [hf]; exact c, d, e, g, hA, hB, hC, hD⟩

theorem modTime_now_keeps {qs : List Instr} (f : Time → Time) (s : State) (hs : Keep qs s) (hg : (f s.time).now % 4 = 0)
    (hw : (f s.time).now < 2 ^ 64) : Keep qs (modTime f s) := ⟨hs.pend, hg, hw, hs.ringLen, hs.memWf, hs.norWf, hs.roodCount, hs.clusterCount, hs.stackCount, hs.linkCount⟩

theorem modGlb_keeps {qs : List Instr} (f : Glb → Glb) (s : State) (hs : Keep qs s) : Keep qs (modGlb f s) := by
  delta modGlb
  repeat' first
    | (with_reducible assumption)
    | (simp only [keep_mk, List.length_modify, List.length_map, List.length_replicate, List.length_zip, List.length_range, List.length_mapIdx, Nat.min_self])
    | (with_reducible apply Keep.toV)

theorem modFwc_keeps {qs : List Instr} (f : Fwc → Fwc) (s : State) (hs : Keep qs s) : Keep qs (modFwc f s) := by
  delta modFwc
  repeat' first
    | (with_reducible assumption)
    | (simp only [keep_mk, List.length_modify, List.length_map, List.length_replicate, List.length_zip, List.length_range, List.length_mapIdx, Nat.min_self])
    | (with_reducible apply Keep.toV)

theorem modSec_keeps {qs : List Instr} (f : Sec → Sec) (s : State) (hs : Keep qs s) : Keep qs (modSec f s) := by
  delta modSec
  repeat' first
    | (with_reducible assumption)
    | (simp only [keep_mk, List.length_modify, List.length_map, List.length_replicate, List.length_zip, List.length_range, List.length_mapIdx, Nat.min_self])
    | (with_reducible apply Keep.toV)

theorem modEth_keeps {qs : List Instr} (f : Eth → Eth) (s : State) (hs : Keep qs s) : Keep qs (modEth f s) := by
  delta modEth
  repeat' first
    | (with_reducible assumption)
    | (simp only [keep_mk, List.length_modify, List.length_map, List.length_replicate, List.length_zip, List.length_range, List.length_mapIdx, Nat.min_self])
    | (with_reducible apply Keep.toV)

theorem modFab_keeps {qs : List Instr} (f : Fabric → Fabric) (s : State) (hs : Keep qs s) : Keep qs (modFab f s) := by
  delta modFab
  repeat' first
    | (with_reducible assumption)
    | (simp only [keep_mk, List.length_modify, List.length_map, List.length_replicate, List.length_zip, List.length_range, List.length_mapIdx, Nat.min_self])
    | (with_reducible apply Keep.toV)

theorem modFlash_keeps {qs : List Instr} (f : Flash → Flash) (s : State) (hs : Keep qs s) : Keep qs (modFlash f s) := by
  delta modFlash
  repeat' first
    | (with_reducible assumption)
    | (simp only [keep_mk, List.length_modify, List.length_map, List.length_replicate, List.length_zip, List.length_range, List.length_mapIdx, Nat.min_self])
    | (with_reducible apply Keep.toV)

theorem modStreams_keeps {qs : List Instr} (f : Streams → Streams) (s : State) (hs : Keep qs s) : Keep qs (modStreams f s) := by
  delta modStreams
  repeat' first
    | (with_reducible assumption)
    | (simp only [keep_mk, List.length_modify, List.length_map, List.length_replicate, List.length_zip, List.length_range, List.length_mapIdx, Nat.min_self])
    | (with_reducible apply Keep.toV)

theorem modPins_keeps {qs : List Instr} (f : Pins → Pins) (s : State) (hs : Keep qs s) : Keep qs (modPins f s) := by
  delta modPins
  repeat' first
    | (with_reducible assumption)
    | (simp only [keep_mk, List.length_modify, List.length_map, List.length_replicate, List.length_zip, List.length_range, List.length_mapIdx, Nat.min_self])
    | (with_reducible apply Keep.toV)

theorem modBoot_keeps {qs : List Instr} (f : Boot → Boot) (s : State) (hs : Keep qs s) : Keep qs (modBoot f s) := by
  delta modBoot
  repeat' first
    | (with_reducible assumption)
    | (simp only [keep_mk, List.length_modify, List.length_map, List.length_replicate, List.length_zip, List.length_range, List.length_mapIdx, Nat.min_self])
    | (with_reducible apply Keep.toV)

theorem modWin_keeps {qs : List Instr} (f : Windows → Windows) (s : State) (hs : Keep qs s) : Keep qs (modWin f s) := by
  delta modWin
  repeat' first
    | (with_reducible assumption)
    | (simp only [keep_mk, List.length_modify, List.length_map, List.length_replicate, List.length_zip, List.length_range, List.length_mapIdx, Nat.min_self])
    | (with_reducible apply Keep.toV)

theorem forAll_keeps {qs : List Instr} {α : Type} (l : List α) (f : α → State → State) (s : State) (hs : Keep qs s)
    (hf : ∀ x0 x1, Keep qs x1 → Keep qs (f x0 x1)) : Keep qs (forAll l f s) := by
  unfold forAll
  induction l generalizing s with
  | nil => exact hs
  | cons a l ih => exact ih _ (hf a s hs)

theorem foldl_keeps {qs : List Instr} {α : Type} (l : List α) (f : State → α → State) (s : State) (hs : Keep qs s)
    (hf : ∀ x0 x1, Keep qs x0 → Keep qs (f x0 x1)) : Keep qs (l.foldl f s) := by
  induction l generalizing s with
  | nil => exact hs
  | cons a l ih => exact ih _ (hf s a hs)

theorem foldl_snd_keeps {qs : List Instr} {α β : Type} (l : List α) (f : β × State → α → β × State) (p : β × State) (hs : Keep qs p.2)
    (hf : ∀ x0 x1, Keep qs x0.2 → Keep qs (f x0 x1).2) : Keep qs (l.foldl f p).2 := by
  induction l generalizing p with
  | nil => exact hs
  | cons a l ih => exact ih _ (hf p a hs)

theorem foldl_fst_keeps {qs : List Instr} {α β : Type} (l : List α) (f : State × β → α → State × β) (p : State × β) (hs : Keep qs p.1)
    (hf : ∀ x0 x1, Keep qs x0.1 → Keep qs (f x0 x1).1) : Keep qs (l.foldl f p).1 := by
  induction l generalizing p with
  | nil => exact hs
  | cons a l ih => exact ih _ (hf p a hs)

theorem fresh_keeps {qs : List Instr} (n : Nat) (s : State) (hs : Keep qs s) : Keep qs (fresh n s).2 := by
  delta fresh
  repeat' first
    | (with_reducible assumption)
    | (simp only [keep_mk, List.length_modify, List.length_map, List.length_replicate, List.length_zip, List.length_range, List.length_mapIdx, Nat.min_self])
    | (with_reducible apply Keep.toV)

theorem fresh_keeps_eq {qs : List Instr} (n : Nat) (s : State) {tOut : State} {outv : _} (hs : Keep qs s) (e : fresh n s = (outv, tOut)) : Keep qs tOut := by
  have := fresh_keeps (qs := qs) n s hs
  rw [e] at this; exact this

theorem logEv_keeps {qs : List Instr} (block low rood payload : Nat) (s : State) (hs : Keep qs s) :
    Keep qs (logEv block low rood payload s) := by
  obtain ⟨a, b, c, d, e, g, hA, hB, hC, hD⟩ := hs
  refine ⟨a, b, c, ?_, e, g, hA, hB, hC, hD⟩
  unfold logEv
  dsimp only
  by_cases h : ringSize < (s.events.ring ++ [(⟨s.time.now, block, low + 256 * (block % 256), rood, severityOf block low,
      tgetD block 0 s.events.seqs, payload % 2 ^ 64⟩ : Event)]).length
  · rw [if_pos h]
    have hl : (s.events.ring ++ [(⟨s.time.now, block, low + 256 * (block % 256), rood, severityOf block low,
      tgetD block 0 s.events.seqs, payload % 2 ^ 64⟩ : Event)]).length = s.events.ring.length + 1 := by simp
    simp only [List.length_tail]
    omega
  · rw [if_neg h]
    omega

theorem logGlb_keeps {qs : List Instr} (low rood payload : Nat) (s : State) (hs : Keep qs s) : Keep qs (logGlb low rood payload s) := by
  delta logGlb
  repeat' first
    | (with_reducible assumption)
    | (with_reducible apply logEv_keeps)

theorem raiseGlb_keeps {qs : List Instr} (i : Nat) (s : State) (hs : Keep qs s) : Keep qs (raiseGlb i s) := by
  delta raiseGlb
  repeat' first
    | (with_reducible assumption)
    | (with_reducible rfl)
    | (with_reducible apply modGlb_keeps)
    | (with_reducible refine fun _ => ?_)
    | lift_lets
    | (intro x; refine keep_cut (qs := qs) x ?_ ?_; rotate_left; intro _; clear_value x; rotate_left; unfold x)
    | (intro x; refine keep_cut_ss (qs := qs) x ?_ ?_; rotate_left; intro hfun; clear_value x; rotate_left; unfold x)
    | (intro x; refine keep_cut_ass (qs := qs) x ?_ ?_; rotate_left; intro hfun; clear_value x; rotate_left; unfold x)
    | (intro x; refine keep_cut_abss (qs := qs) x ?_ ?_; rotate_left; intro hfun; clear_value x; rotate_left; unfold x)
    | (intro x; refine keep_cut_a (qs := qs) x ?_ ?_; rotate_left; intro hfun; clear_value x; rotate_left; unfold x)
    | (intro x; refine keep_cut_ab (qs := qs) x ?_ ?_; rotate_left; intro hfun; clear_value x; rotate_left; unfold x)
    | (intro x; refine keep_cut_abc (qs := qs) x ?_ ?_; rotate_left; intro hfun; clear_value x; rotate_left; unfold x)
    | (intro x; refine keep_cut_o1 (qs := qs) x ?_ ?_; rotate_left; intro hopt; clear_value x; rotate_left; unfold x)
    | (intro x; refine keep_cut_o (qs := qs) x ?_ ?_; rotate_left; intro hopt; clear_value x; rotate_left; unfold x)
    | (with_reducible refine hopt _ (by assumption))
    | (with_reducible exact hopt _ rfl)
    | (intro x; refine keep_cut_snd (qs := qs) x ?_ ?_; rotate_left; intro _; clear_value x; rotate_left; unfold x)
    | (intro x; clear_value x)
    | (with_reducible apply hfun)
    | (intro _)
    | split
    | (with_reducible apply AnswerKeeps.next)
    | (simp only [keep_mk, List.length_modify, List.length_map, List.length_replicate, List.length_zip, List.length_range, List.length_mapIdx, Nat.min_self])
    | (with_reducible apply Keep.toV)
    | (with_reducible apply keepV_roods)
    | (with_reducible apply keep_getD)
    | (with_reducible refine keepV_mem_nil hs ?_ ?_ ?_ ?_ ?_ ?_ ?_ ?_)
    | (rename_i he; split at he)
    | (rename_i he; injection he with he; subst he)

theorem logUnmapped_keeps {qs : List Instr} (addr src rood : Nat) (s : State) (hs : Keep qs s) : Keep qs (logUnmapped addr src rood s) := by
  delta logUnmapped
  repeat' first
    | (with_reducible assumption)
    | (with_reducible apply modGlb_keeps)
    | (with_reducible apply logGlb_keeps)
    | (with_reducible apply raiseGlb_keeps)

theorem logCluster_keeps {qs : List Instr} (c low core : Nat) (rest : Nat) (s : State) (hs : Keep qs s) : Keep qs (logCluster c low core rest s) := by
  delta logCluster
  repeat' first
    | (with_reducible assumption)
    | (with_reducible rfl)
    | (with_reducible apply modCluster_keeps)
    | (with_reducible apply logEv_keeps)
    | (with_reducible refine fun _ => ?_)
    | lift_lets
    | (intro x; refine keep_cut (qs := qs) x ?_ ?_; rotate_left; intro _; clear_value x; rotate_left; unfold x)
    | (intro x; refine keep_cut_ss (qs := qs) x ?_ ?_; rotate_left; intro hfun; clear_value x; rotate_left; unfold x)
    | (intro x; refine keep_cut_ass (qs := qs) x ?_ ?_; rotate_left; intro hfun; clear_value x; rotate_left; unfold x)
    | (intro x; refine keep_cut_abss (qs := qs) x ?_ ?_; rotate_left; intro hfun; clear_value x; rotate_left; unfold x)
    | (intro x; refine keep_cut_a (qs := qs) x ?_ ?_; rotate_left; intro hfun; clear_value x; rotate_left; unfold x)
    | (intro x; refine keep_cut_ab (qs := qs) x ?_ ?_; rotate_left; intro hfun; clear_value x; rotate_left; unfold x)
    | (intro x; refine keep_cut_abc (qs := qs) x ?_ ?_; rotate_left; intro hfun; clear_value x; rotate_left; unfold x)
    | (intro x; refine keep_cut_o1 (qs := qs) x ?_ ?_; rotate_left; intro hopt; clear_value x; rotate_left; unfold x)
    | (intro x; refine keep_cut_o (qs := qs) x ?_ ?_; rotate_left; intro hopt; clear_value x; rotate_left; unfold x)
    | (with_reducible refine hopt _ (by assumption))
    | (with_reducible exact hopt _ rfl)
    | (intro x; refine keep_cut_snd (qs := qs) x ?_ ?_; rotate_left; intro _; clear_value x; rotate_left; unfold x)
    | (intro x; clear_value x)
    | (with_reducible apply hfun)
    | (intro _)
    | split
    | (with_reducible apply AnswerKeeps.next)
    | (simp only [keep_mk, List.length_modify, List.length_map, List.length_replicate, List.length_zip, List.length_range, List.length_mapIdx, Nat.min_self])
    | (with_reducible apply Keep.toV)
    | (with_reducible apply keepV_roods)
    | (with_reducible apply keep_getD)
    | (with_reducible refine keepV_mem_nil hs ?_ ?_ ?_ ?_ ?_ ?_ ?_ ?_)
    | (rename_i he; split at he)
    | (rename_i he; injection he with he; subst he)

theorem logStack_keeps {qs : List Instr} (t low : Nat) (bit : Option Nat) (rood payload : Nat) (s : State) (hs : Keep qs s) : Keep qs (logStack t low bit rood payload s) := by
  delta logStack
  repeat' first
    | (with_reducible assumption)
    | (with_reducible rfl)
    | (with_reducible apply modStack_keeps)
    | (with_reducible apply logEv_keeps)
    | (with_reducible refine fun _ => ?_)
    | lift_lets
    | (intro x; refine keep_cut (qs := qs) x ?_ ?_; rotate_left; intro _; clear_value x; rotate_left; unfold x)
    | (intro x; refine keep_cut_ss (qs := qs) x ?_ ?_; rotate_left; intro hfun; clear_value x; rotate_left; unfold x)
    | (intro x; refine keep_cut_ass (qs := qs) x ?_ ?_; rotate_left; intro hfun; clear_value x; rotate_left; unfold x)
    | (intro x; refine keep_cut_abss (qs := qs) x ?_ ?_; rotate_left; intro hfun; clear_value x; rotate_left; unfold x)
    | (intro x; refine keep_cut_a (qs := qs) x ?_ ?_; rotate_left; intro hfun; clear_value x; rotate_left; unfold x)
    | (intro x; refine keep_cut_ab (qs := qs) x ?_ ?_; rotate_left; intro hfun; clear_value x; rotate_left; unfold x)
    | (intro x; refine keep_cut_abc (qs := qs) x ?_ ?_; rotate_left; intro hfun; clear_value x; rotate_left; unfold x)
    | (intro x; refine keep_cut_o1 (qs := qs) x ?_ ?_; rotate_left; intro hopt; clear_value x; rotate_left; unfold x)
    | (intro x; refine keep_cut_o (qs := qs) x ?_ ?_; rotate_left; intro hopt; clear_value x; rotate_left; unfold x)
    | (with_reducible refine hopt _ (by assumption))
    | (with_reducible exact hopt _ rfl)
    | (intro x; refine keep_cut_snd (qs := qs) x ?_ ?_; rotate_left; intro _; clear_value x; rotate_left; unfold x)
    | (intro x; clear_value x)
    | (with_reducible apply hfun)
    | (intro _)
    | split
    | (with_reducible apply AnswerKeeps.next)
    | (simp only [keep_mk, List.length_modify, List.length_map, List.length_replicate, List.length_zip, List.length_range, List.length_mapIdx, Nat.min_self])
    | (with_reducible apply Keep.toV)
    | (with_reducible apply keepV_roods)
    | (with_reducible apply keep_getD)
    | (with_reducible refine keepV_mem_nil hs ?_ ?_ ?_ ?_ ?_ ?_ ?_ ?_)
    | (rename_i he; split at he)
    | (rename_i he; injection he with he; subst he)

theorem logFirkin_keeps {qs : List Instr} (t low phys eng rood rest : Nat) (bit : Option Nat) (s : State) (hs : Keep qs s) : Keep qs (logFirkin t low phys eng rood rest bit s) := by
  delta logFirkin
  repeat' first
    | (with_reducible assumption)
    | (with_reducible rfl)
    | (with_reducible apply modStack_keeps)
    | (with_reducible apply logEv_keeps)
    | (with_reducible refine fun _ => ?_)
    | lift_lets
    | (intro x; refine keep_cut (qs := qs) x ?_ ?_; rotate_left; intro _; clear_value x; rotate_left; unfold x)
    | (intro x; refine keep_cut_ss (qs := qs) x ?_ ?_; rotate_left; intro hfun; clear_value x; rotate_left; unfold x)
    | (intro x; refine keep_cut_ass (qs := qs) x ?_ ?_; rotate_left; intro hfun; clear_value x; rotate_left; unfold x)
    | (intro x; refine keep_cut_abss (qs := qs) x ?_ ?_; rotate_left; intro hfun; clear_value x; rotate_left; unfold x)
    | (intro x; refine keep_cut_a (qs := qs) x ?_ ?_; rotate_left; intro hfun; clear_value x; rotate_left; unfold x)
    | (intro x; refine keep_cut_ab (qs := qs) x ?_ ?_; rotate_left; intro hfun; clear_value x; rotate_left; unfold x)
    | (intro x; refine keep_cut_abc (qs := qs) x ?_ ?_; rotate_left; intro hfun; clear_value x; rotate_left; unfold x)
    | (intro x; refine keep_cut_o1 (qs := qs) x ?_ ?_; rotate_left; intro hopt; clear_value x; rotate_left; unfold x)
    | (intro x; refine keep_cut_o (qs := qs) x ?_ ?_; rotate_left; intro hopt; clear_value x; rotate_left; unfold x)
    | (with_reducible refine hopt _ (by assumption))
    | (with_reducible exact hopt _ rfl)
    | (intro x; refine keep_cut_snd (qs := qs) x ?_ ?_; rotate_left; intro _; clear_value x; rotate_left; unfold x)
    | (intro x; clear_value x)
    | (with_reducible apply hfun)
    | (intro _)
    | split
    | (with_reducible apply AnswerKeeps.next)
    | (simp only [keep_mk, List.length_modify, List.length_map, List.length_replicate, List.length_zip, List.length_range, List.length_mapIdx, Nat.min_self])
    | (with_reducible apply Keep.toV)
    | (with_reducible apply keepV_roods)
    | (with_reducible apply keep_getD)
    | (with_reducible refine keepV_mem_nil hs ?_ ?_ ?_ ?_ ?_ ?_ ?_ ?_)
    | (rename_i he; split at he)
    | (rename_i he; injection he with he; subst he)

theorem logFlash_keeps {qs : List Instr} (low : Nat) (bit : Option Nat) (rood payload : Nat) (s : State) (hs : Keep qs s) : Keep qs (logFlash low bit rood payload s) := by
  delta logFlash
  repeat' first
    | (with_reducible assumption)
    | (with_reducible rfl)
    | (with_reducible apply modFlash_keeps)
    | (with_reducible apply logEv_keeps)
    | (with_reducible refine fun _ => ?_)
    | lift_lets
    | (intro x; refine keep_cut (qs := qs) x ?_ ?_; rotate_left; intro _; clear_value x; rotate_left; unfold x)
    | (intro x; refine keep_cut_ss (qs := qs) x ?_ ?_; rotate_left; intro hfun; clear_value x; rotate_left; unfold x)
    | (intro x; refine keep_cut_ass (qs := qs) x ?_ ?_; rotate_left; intro hfun; clear_value x; rotate_left; unfold x)
    | (intro x; refine keep_cut_abss (qs := qs) x ?_ ?_; rotate_left; intro hfun; clear_value x; rotate_left; unfold x)
    | (intro x; refine keep_cut_a (qs := qs) x ?_ ?_; rotate_left; intro hfun; clear_value x; rotate_left; unfold x)
    | (intro x; refine keep_cut_ab (qs := qs) x ?_ ?_; rotate_left; intro hfun; clear_value x; rotate_left; unfold x)
    | (intro x; refine keep_cut_abc (qs := qs) x ?_ ?_; rotate_left; intro hfun; clear_value x; rotate_left; unfold x)
    | (intro x; refine keep_cut_o1 (qs := qs) x ?_ ?_; rotate_left; intro hopt; clear_value x; rotate_left; unfold x)
    | (intro x; refine keep_cut_o (qs := qs) x ?_ ?_; rotate_left; intro hopt; clear_value x; rotate_left; unfold x)
    | (with_reducible refine hopt _ (by assumption))
    | (with_reducible exact hopt _ rfl)
    | (intro x; refine keep_cut_snd (qs := qs) x ?_ ?_; rotate_left; intro _; clear_value x; rotate_left; unfold x)
    | (intro x; clear_value x)
    | (with_reducible apply hfun)
    | (intro _)
    | split
    | (with_reducible apply AnswerKeeps.next)
    | (simp only [keep_mk, List.length_modify, List.length_map, List.length_replicate, List.length_zip, List.length_range, List.length_mapIdx, Nat.min_self])
    | (with_reducible apply Keep.toV)
    | (with_reducible apply keepV_roods)
    | (with_reducible apply keep_getD)
    | (with_reducible refine keepV_mem_nil hs ?_ ?_ ?_ ?_ ?_ ?_ ?_ ?_)
    | (rename_i he; split at he)
    | (rename_i he; injection he with he; subst he)

theorem raiseStr_keeps {qs : List Instr} (i : Nat) (s : State) (hs : Keep qs s) : Keep qs (raiseStr i s) := by
  delta raiseStr
  repeat' first
    | (with_reducible assumption)
    | (with_reducible rfl)
    | (with_reducible apply modStreams_keeps)
    | (with_reducible refine fun _ => ?_)
    | lift_lets
    | (intro x; refine keep_cut (qs := qs) x ?_ ?_; rotate_left; intro _; clear_value x; rotate_left; unfold x)
    | (intro x; refine keep_cut_ss (qs := qs) x ?_ ?_; rotate_left; intro hfun; clear_value x; rotate_left; unfold x)
    | (intro x; refine keep_cut_ass (qs := qs) x ?_ ?_; rotate_left; intro hfun; clear_value x; rotate_left; unfold x)
    | (intro x; refine keep_cut_abss (qs := qs) x ?_ ?_; rotate_left; intro hfun; clear_value x; rotate_left; unfold x)
    | (intro x; refine keep_cut_a (qs := qs) x ?_ ?_; rotate_left; intro hfun; clear_value x; rotate_left; unfold x)
    | (intro x; refine keep_cut_ab (qs := qs) x ?_ ?_; rotate_left; intro hfun; clear_value x; rotate_left; unfold x)
    | (intro x; refine keep_cut_abc (qs := qs) x ?_ ?_; rotate_left; intro hfun; clear_value x; rotate_left; unfold x)
    | (intro x; refine keep_cut_o1 (qs := qs) x ?_ ?_; rotate_left; intro hopt; clear_value x; rotate_left; unfold x)
    | (intro x; refine keep_cut_o (qs := qs) x ?_ ?_; rotate_left; intro hopt; clear_value x; rotate_left; unfold x)
    | (with_reducible refine hopt _ (by assumption))
    | (with_reducible exact hopt _ rfl)
    | (intro x; refine keep_cut_snd (qs := qs) x ?_ ?_; rotate_left; intro _; clear_value x; rotate_left; unfold x)
    | (intro x; clear_value x)
    | (with_reducible apply hfun)
    | (intro _)
    | split
    | (with_reducible apply AnswerKeeps.next)
    | (simp only [keep_mk, List.length_modify, List.length_map, List.length_replicate, List.length_zip, List.length_range, List.length_mapIdx, Nat.min_self])
    | (with_reducible apply Keep.toV)
    | (with_reducible apply keepV_roods)
    | (with_reducible apply keep_getD)
    | (with_reducible refine keepV_mem_nil hs ?_ ?_ ?_ ?_ ?_ ?_ ?_ ?_)
    | (rename_i he; split at he)
    | (rename_i he; injection he with he; subst he)

theorem raiseFwc_keeps {qs : List Instr} (i : Nat) (s : State) (hs : Keep qs s) : Keep qs (raiseFwc i s) := by
  delta raiseFwc
  repeat' first
    | (with_reducible assumption)
    | (with_reducible rfl)
    | (with_reducible apply modFwc_keeps)
    | (with_reducible refine fun _ => ?_)
    | lift_lets
    | (intro x; refine keep_cut (qs := qs) x ?_ ?_; rotate_left; intro _; clear_value x; rotate_left; unfold x)
    | (intro x; refine keep_cut_ss (qs := qs) x ?_ ?_; rotate_left; intro hfun; clear_value x; rotate_left; unfold x)
    | (intro x; refine keep_cut_ass (qs := qs) x ?_ ?_; rotate_left; intro hfun; clear_value x; rotate_left; unfold x)
    | (intro x; refine keep_cut_abss (qs := qs) x ?_ ?_; rotate_left; intro hfun; clear_value x; rotate_left; unfold x)
    | (intro x; refine keep_cut_a (qs := qs) x ?_ ?_; rotate_left; intro hfun; clear_value x; rotate_left; unfold x)
    | (intro x; refine keep_cut_ab (qs := qs) x ?_ ?_; rotate_left; intro hfun; clear_value x; rotate_left; unfold x)
    | (intro x; refine keep_cut_abc (qs := qs) x ?_ ?_; rotate_left; intro hfun; clear_value x; rotate_left; unfold x)
    | (intro x; refine keep_cut_o1 (qs := qs) x ?_ ?_; rotate_left; intro hopt; clear_value x; rotate_left; unfold x)
    | (intro x; refine keep_cut_o (qs := qs) x ?_ ?_; rotate_left; intro hopt; clear_value x; rotate_left; unfold x)
    | (with_reducible refine hopt _ (by assumption))
    | (with_reducible exact hopt _ rfl)
    | (intro x; refine keep_cut_snd (qs := qs) x ?_ ?_; rotate_left; intro _; clear_value x; rotate_left; unfold x)
    | (intro x; clear_value x)
    | (with_reducible apply hfun)
    | (intro _)
    | split
    | (with_reducible apply AnswerKeeps.next)
    | (simp only [keep_mk, List.length_modify, List.length_map, List.length_replicate, List.length_zip, List.length_range, List.length_mapIdx, Nat.min_self])
    | (with_reducible apply Keep.toV)
    | (with_reducible apply keepV_roods)
    | (with_reducible apply keep_getD)
    | (with_reducible refine keepV_mem_nil hs ?_ ?_ ?_ ?_ ?_ ?_ ?_ ?_)
    | (rename_i he; split at he)
    | (rename_i he; injection he with he; subst he)

theorem raiseSec_keeps {qs : List Instr} (i : Nat) (s : State) (hs : Keep qs s) : Keep qs (raiseSec i s) := by
  delta raiseSec
  repeat' first
    | (with_reducible assumption)
    | (with_reducible rfl)
    | (with_reducible apply modSec_keeps)
    | (with_reducible refine fun _ => ?_)
    | lift_lets
    | (intro x; refine keep_cut (qs := qs) x ?_ ?_; rotate_left; intro _; clear_value x; rotate_left; unfold x)
    | (intro x; refine keep_cut_ss (qs := qs) x ?_ ?_; rotate_left; intro hfun; clear_value x; rotate_left; unfold x)
    | (intro x; refine keep_cut_ass (qs := qs) x ?_ ?_; rotate_left; intro hfun; clear_value x; rotate_left; unfold x)
    | (intro x; refine keep_cut_abss (qs := qs) x ?_ ?_; rotate_left; intro hfun; clear_value x; rotate_left; unfold x)
    | (intro x; refine keep_cut_a (qs := qs) x ?_ ?_; rotate_left; intro hfun; clear_value x; rotate_left; unfold x)
    | (intro x; refine keep_cut_ab (qs := qs) x ?_ ?_; rotate_left; intro hfun; clear_value x; rotate_left; unfold x)
    | (intro x; refine keep_cut_abc (qs := qs) x ?_ ?_; rotate_left; intro hfun; clear_value x; rotate_left; unfold x)
    | (intro x; refine keep_cut_o1 (qs := qs) x ?_ ?_; rotate_left; intro hopt; clear_value x; rotate_left; unfold x)
    | (intro x; refine keep_cut_o (qs := qs) x ?_ ?_; rotate_left; intro hopt; clear_value x; rotate_left; unfold x)
    | (with_reducible refine hopt _ (by assumption))
    | (with_reducible exact hopt _ rfl)
    | (intro x; refine keep_cut_snd (qs := qs) x ?_ ?_; rotate_left; intro _; clear_value x; rotate_left; unfold x)
    | (intro x; clear_value x)
    | (with_reducible apply hfun)
    | (intro _)
    | split
    | (with_reducible apply AnswerKeeps.next)
    | (simp only [keep_mk, List.length_modify, List.length_map, List.length_replicate, List.length_zip, List.length_range, List.length_mapIdx, Nat.min_self])
    | (with_reducible apply Keep.toV)
    | (with_reducible apply keepV_roods)
    | (with_reducible apply keep_getD)
    | (with_reducible refine keepV_mem_nil hs ?_ ?_ ?_ ?_ ?_ ?_ ?_ ?_)
    | (rename_i he; split at he)
    | (rename_i he; injection he with he; subst he)

theorem raiseEth_keeps {qs : List Instr} (i : Nat) (s : State) (hs : Keep qs s) : Keep qs (raiseEth i s) := by
  delta raiseEth
  repeat' first
    | (with_reducible assumption)
    | (with_reducible rfl)
    | (with_reducible apply modEth_keeps)
    | (with_reducible refine fun _ => ?_)
    | lift_lets
    | (intro x; refine keep_cut (qs := qs) x ?_ ?_; rotate_left; intro _; clear_value x; rotate_left; unfold x)
    | (intro x; refine keep_cut_ss (qs := qs) x ?_ ?_; rotate_left; intro hfun; clear_value x; rotate_left; unfold x)
    | (intro x; refine keep_cut_ass (qs := qs) x ?_ ?_; rotate_left; intro hfun; clear_value x; rotate_left; unfold x)
    | (intro x; refine keep_cut_abss (qs := qs) x ?_ ?_; rotate_left; intro hfun; clear_value x; rotate_left; unfold x)
    | (intro x; refine keep_cut_a (qs := qs) x ?_ ?_; rotate_left; intro hfun; clear_value x; rotate_left; unfold x)
    | (intro x; refine keep_cut_ab (qs := qs) x ?_ ?_; rotate_left; intro hfun; clear_value x; rotate_left; unfold x)
    | (intro x; refine keep_cut_abc (qs := qs) x ?_ ?_; rotate_left; intro hfun; clear_value x; rotate_left; unfold x)
    | (intro x; refine keep_cut_o1 (qs := qs) x ?_ ?_; rotate_left; intro hopt; clear_value x; rotate_left; unfold x)
    | (intro x; refine keep_cut_o (qs := qs) x ?_ ?_; rotate_left; intro hopt; clear_value x; rotate_left; unfold x)
    | (with_reducible refine hopt _ (by assumption))
    | (with_reducible exact hopt _ rfl)
    | (intro x; refine keep_cut_snd (qs := qs) x ?_ ?_; rotate_left; intro _; clear_value x; rotate_left; unfold x)
    | (intro x; clear_value x)
    | (with_reducible apply hfun)
    | (intro _)
    | split
    | (with_reducible apply AnswerKeeps.next)
    | (simp only [keep_mk, List.length_modify, List.length_map, List.length_replicate, List.length_zip, List.length_range, List.length_mapIdx, Nat.min_self])
    | (with_reducible apply Keep.toV)
    | (with_reducible apply keepV_roods)
    | (with_reducible apply keep_getD)
    | (with_reducible refine keepV_mem_nil hs ?_ ?_ ?_ ?_ ?_ ?_ ?_ ?_)
    | (rename_i he; split at he)
    | (rename_i he; injection he with he; subst he)

theorem raiseFab_keeps {qs : List Instr} (i : Nat) (s : State) (hs : Keep qs s) : Keep qs (raiseFab i s) := by
  delta raiseFab
  repeat' first
    | (with_reducible assumption)
    | (with_reducible rfl)
    | (with_reducible apply modFab_keeps)
    | (with_reducible refine fun _ => ?_)
    | lift_lets
    | (intro x; refine keep_cut (qs := qs) x ?_ ?_; rotate_left; intro _; clear_value x; rotate_left; unfold x)
    | (intro x; refine keep_cut_ss (qs := qs) x ?_ ?_; rotate_left; intro hfun; clear_value x; rotate_left; unfold x)
    | (intro x; refine keep_cut_ass (qs := qs) x ?_ ?_; rotate_left; intro hfun; clear_value x; rotate_left; unfold x)
    | (intro x; refine keep_cut_abss (qs := qs) x ?_ ?_; rotate_left; intro hfun; clear_value x; rotate_left; unfold x)
    | (intro x; refine keep_cut_a (qs := qs) x ?_ ?_; rotate_left; intro hfun; clear_value x; rotate_left; unfold x)
    | (intro x; refine keep_cut_ab (qs := qs) x ?_ ?_; rotate_left; intro hfun; clear_value x; rotate_left; unfold x)
    | (intro x; refine keep_cut_abc (qs := qs) x ?_ ?_; rotate_left; intro hfun; clear_value x; rotate_left; unfold x)
    | (intro x; refine keep_cut_o1 (qs := qs) x ?_ ?_; rotate_left; intro hopt; clear_value x; rotate_left; unfold x)
    | (intro x; refine keep_cut_o (qs := qs) x ?_ ?_; rotate_left; intro hopt; clear_value x; rotate_left; unfold x)
    | (with_reducible refine hopt _ (by assumption))
    | (with_reducible exact hopt _ rfl)
    | (intro x; refine keep_cut_snd (qs := qs) x ?_ ?_; rotate_left; intro _; clear_value x; rotate_left; unfold x)
    | (intro x; clear_value x)
    | (with_reducible apply hfun)
    | (intro _)
    | split
    | (with_reducible apply AnswerKeeps.next)
    | (simp only [keep_mk, List.length_modify, List.length_map, List.length_replicate, List.length_zip, List.length_range, List.length_mapIdx, Nat.min_self])
    | (with_reducible apply Keep.toV)
    | (with_reducible apply keepV_roods)
    | (with_reducible apply keep_getD)
    | (with_reducible refine keepV_mem_nil hs ?_ ?_ ?_ ?_ ?_ ?_ ?_ ?_)
    | (rename_i he; split at he)
    | (rename_i he; injection he with he; subst he)

theorem raiseRood_keeps {qs : List Instr} (r i : Nat) (s : State) (hs : Keep qs s) : Keep qs (raiseRood r i s) := by
  delta raiseRood
  repeat' first
    | (with_reducible assumption)
    | (with_reducible rfl)
    | (with_reducible apply modRood_keeps)
    | (with_reducible refine fun _ => ?_)
    | lift_lets
    | (intro x; refine keep_cut (qs := qs) x ?_ ?_; rotate_left; intro _; clear_value x; rotate_left; unfold x)
    | (intro x; refine keep_cut_ss (qs := qs) x ?_ ?_; rotate_left; intro hfun; clear_value x; rotate_left; unfold x)
    | (intro x; refine keep_cut_ass (qs := qs) x ?_ ?_; rotate_left; intro hfun; clear_value x; rotate_left; unfold x)
    | (intro x; refine keep_cut_abss (qs := qs) x ?_ ?_; rotate_left; intro hfun; clear_value x; rotate_left; unfold x)
    | (intro x; refine keep_cut_a (qs := qs) x ?_ ?_; rotate_left; intro hfun; clear_value x; rotate_left; unfold x)
    | (intro x; refine keep_cut_ab (qs := qs) x ?_ ?_; rotate_left; intro hfun; clear_value x; rotate_left; unfold x)
    | (intro x; refine keep_cut_abc (qs := qs) x ?_ ?_; rotate_left; intro hfun; clear_value x; rotate_left; unfold x)
    | (intro x; refine keep_cut_o1 (qs := qs) x ?_ ?_; rotate_left; intro hopt; clear_value x; rotate_left; unfold x)
    | (intro x; refine keep_cut_o (qs := qs) x ?_ ?_; rotate_left; intro hopt; clear_value x; rotate_left; unfold x)
    | (with_reducible refine hopt _ (by assumption))
    | (with_reducible exact hopt _ rfl)
    | (intro x; refine keep_cut_snd (qs := qs) x ?_ ?_; rotate_left; intro _; clear_value x; rotate_left; unfold x)
    | (intro x; clear_value x)
    | (with_reducible apply hfun)
    | (intro _)
    | split
    | (with_reducible apply AnswerKeeps.next)
    | (simp only [keep_mk, List.length_modify, List.length_map, List.length_replicate, List.length_zip, List.length_range, List.length_mapIdx, Nat.min_self])
    | (with_reducible apply Keep.toV)
    | (with_reducible apply keepV_roods)
    | (with_reducible apply keep_getD)
    | (with_reducible refine keepV_mem_nil hs ?_ ?_ ?_ ?_ ?_ ?_ ?_ ?_)
    | (rename_i he; split at he)
    | (rename_i he; injection he with he; subst he)

theorem ctrPut_keeps {qs : List Instr} (r i : Nat) (v : Counter) (s : State) (hs : Keep qs s) : Keep qs (ctrPut r i v s) := by
  delta ctrPut
  repeat' first
    | (with_reducible assumption)
    | (with_reducible apply modRood_keeps)

theorem ctrAdd_keeps {qs : List Instr} (r i n : Nat) (failed : Bool) (s : State) (hs : Keep qs s) : Keep qs (ctrAdd r i n failed s) := by
  delta ctrAdd
  repeat' first
    | (with_reducible assumption)
    | (with_reducible rfl)
    | (with_reducible apply ctrPut_keeps)
    | (with_reducible refine fun _ => ?_)
    | lift_lets
    | (intro x; refine keep_cut (qs := qs) x ?_ ?_; rotate_left; intro _; clear_value x; rotate_left; unfold x)
    | (intro x; refine keep_cut_ss (qs := qs) x ?_ ?_; rotate_left; intro hfun; clear_value x; rotate_left; unfold x)
    | (intro x; refine keep_cut_ass (qs := qs) x ?_ ?_; rotate_left; intro hfun; clear_value x; rotate_left; unfold x)
    | (intro x; refine keep_cut_abss (qs := qs) x ?_ ?_; rotate_left; intro hfun; clear_value x; rotate_left; unfold x)
    | (intro x; refine keep_cut_a (qs := qs) x ?_ ?_; rotate_left; intro hfun; clear_value x; rotate_left; unfold x)
    | (intro x; refine keep_cut_ab (qs := qs) x ?_ ?_; rotate_left; intro hfun; clear_value x; rotate_left; unfold x)
    | (intro x; refine keep_cut_abc (qs := qs) x ?_ ?_; rotate_left; intro hfun; clear_value x; rotate_left; unfold x)
    | (intro x; refine keep_cut_o1 (qs := qs) x ?_ ?_; rotate_left; intro hopt; clear_value x; rotate_left; unfold x)
    | (intro x; refine keep_cut_o (qs := qs) x ?_ ?_; rotate_left; intro hopt; clear_value x; rotate_left; unfold x)
    | (with_reducible refine hopt _ (by assumption))
    | (with_reducible exact hopt _ rfl)
    | (intro x; refine keep_cut_snd (qs := qs) x ?_ ?_; rotate_left; intro _; clear_value x; rotate_left; unfold x)
    | (intro x; clear_value x)
    | (with_reducible apply hfun)
    | (intro _)
    | split
    | (with_reducible apply AnswerKeeps.next)
    | (simp only [keep_mk, List.length_modify, List.length_map, List.length_replicate, List.length_zip, List.length_range, List.length_mapIdx, Nat.min_self])
    | (with_reducible apply Keep.toV)
    | (with_reducible apply keepV_roods)
    | (with_reducible apply keep_getD)
    | (with_reducible refine keepV_mem_nil hs ?_ ?_ ?_ ?_ ?_ ?_ ?_ ?_)
    | (rename_i he; split at he)
    | (rename_i he; injection he with he; subst he)

theorem wrBytes_keeps {qs : List Instr} (a : Nat) (bs : List Byte) (s : State) (hs : Keep qs s) : Keep qs (wrBytes a bs s) := by
  obtain ⟨h1, h2, h3, h4, h5, h6, hA, hB, hC, hD⟩ := hs
  exact ⟨h1, h2, h3, h4, cellSetAll_wf h5, h6, hA, hB, hC, hD⟩

theorem wrLe_keeps {qs : List Instr} (a n v : Nat) (s : State) (hs : Keep qs s) : Keep qs (wrLe a n v s) := by
  delta wrLe
  repeat' first
    | (with_reducible assumption)
    | (with_reducible apply wrBytes_keeps)

theorem zeroMem_keeps {qs : List Instr} (a n : Nat) (s : State) (hs : Keep qs s) : Keep qs (zeroMem a n s) := by
  obtain ⟨h1, h2, h3, h4, h5, h6, hA, hB, hC, hD⟩ := hs
  exact ⟨h1, h2, h3, h4, cellClear_wf h5, h6, hA, hB, hC, hD⟩

theorem logUncovered_keeps {qs : List Instr} (r src : Nat) (rs : List (Nat × Nat)) (s : State) (hs : Keep qs s) : Keep qs (logUncovered r src rs s) := by
  delta logUncovered
  repeat' first
    | (with_reducible assumption)
    | (with_reducible rfl)
    | (with_reducible apply logUnmapped_keeps)
    | (with_reducible refine fun _ => ?_)
    | lift_lets
    | (intro x; refine keep_cut (qs := qs) x ?_ ?_; rotate_left; intro _; clear_value x; rotate_left; unfold x)
    | (intro x; refine keep_cut_ss (qs := qs) x ?_ ?_; rotate_left; intro hfun; clear_value x; rotate_left; unfold x)
    | (intro x; refine keep_cut_ass (qs := qs) x ?_ ?_; rotate_left; intro hfun; clear_value x; rotate_left; unfold x)
    | (intro x; refine keep_cut_abss (qs := qs) x ?_ ?_; rotate_left; intro hfun; clear_value x; rotate_left; unfold x)
    | (intro x; refine keep_cut_a (qs := qs) x ?_ ?_; rotate_left; intro hfun; clear_value x; rotate_left; unfold x)
    | (intro x; refine keep_cut_ab (qs := qs) x ?_ ?_; rotate_left; intro hfun; clear_value x; rotate_left; unfold x)
    | (intro x; refine keep_cut_abc (qs := qs) x ?_ ?_; rotate_left; intro hfun; clear_value x; rotate_left; unfold x)
    | (intro x; refine keep_cut_o1 (qs := qs) x ?_ ?_; rotate_left; intro hopt; clear_value x; rotate_left; unfold x)
    | (intro x; refine keep_cut_o (qs := qs) x ?_ ?_; rotate_left; intro hopt; clear_value x; rotate_left; unfold x)
    | (with_reducible refine hopt _ (by assumption))
    | (with_reducible exact hopt _ rfl)
    | (intro x; refine keep_cut_snd (qs := qs) x ?_ ?_; rotate_left; intro _; clear_value x; rotate_left; unfold x)
    | (intro x; clear_value x)
    | (with_reducible apply hfun)
    | (intro _)
    | split
    | (with_reducible apply AnswerKeeps.next)
    | (simp only [keep_mk, List.length_modify, List.length_map, List.length_replicate, List.length_zip, List.length_range, List.length_mapIdx, Nat.min_self])
    | (with_reducible apply Keep.toV)
    | (with_reducible apply keepV_roods)
    | (with_reducible apply keep_getD)
    | (with_reducible refine keepV_mem_nil hs ?_ ?_ ?_ ?_ ?_ ?_ ?_ ?_)
    | (rename_i he; split at he)
    | (rename_i he; injection he with he; subst he)

theorem putBushel_keeps {qs : List Instr} (a : Nat) (m : Meta) (data : List Byte) (s : State) (hs : Keep qs s) : Keep qs (putBushel a m data s) := by
  delta putBushel
  repeat' first
    | (with_reducible assumption)
    | (with_reducible apply wrBytes_keeps)
    | lift_lets
    | (intro x; refine keep_cut (qs := qs) x ?_ ?_; rotate_left; intro _; clear_value x; rotate_left; unfold x)
    | (simp only [keep_mk, List.length_modify, List.length_map, List.length_replicate, List.length_zip, List.length_range, List.length_mapIdx, Nat.min_self])
    | (with_reducible apply Keep.toV)

theorem markRead_keeps {qs : List Instr} (a n : Nat) (s : State) (hs : Keep qs s) : Keep qs (markRead a n s) := by
  delta markRead
  repeat' first
    | (with_reducible assumption)
    | (with_reducible apply modStreams_keeps)

theorem clearPoison_keeps {qs : List Instr} (a n : Nat) (s : State) (hs : Keep qs s) : Keep qs (clearPoison a n s) := by
  delta clearPoison
  repeat' first
    | (with_reducible assumption)
    | (with_reducible rfl)
    | (with_reducible apply modStreams_keeps)
    | (with_reducible refine fun _ => ?_)
    | lift_lets
    | (intro x; refine keep_cut (qs := qs) x ?_ ?_; rotate_left; intro _; clear_value x; rotate_left; unfold x)
    | (intro x; refine keep_cut_ss (qs := qs) x ?_ ?_; rotate_left; intro hfun; clear_value x; rotate_left; unfold x)
    | (intro x; refine keep_cut_ass (qs := qs) x ?_ ?_; rotate_left; intro hfun; clear_value x; rotate_left; unfold x)
    | (intro x; refine keep_cut_abss (qs := qs) x ?_ ?_; rotate_left; intro hfun; clear_value x; rotate_left; unfold x)
    | (intro x; refine keep_cut_a (qs := qs) x ?_ ?_; rotate_left; intro hfun; clear_value x; rotate_left; unfold x)
    | (intro x; refine keep_cut_ab (qs := qs) x ?_ ?_; rotate_left; intro hfun; clear_value x; rotate_left; unfold x)
    | (intro x; refine keep_cut_abc (qs := qs) x ?_ ?_; rotate_left; intro hfun; clear_value x; rotate_left; unfold x)
    | (intro x; refine keep_cut_o1 (qs := qs) x ?_ ?_; rotate_left; intro hopt; clear_value x; rotate_left; unfold x)
    | (intro x; refine keep_cut_o (qs := qs) x ?_ ?_; rotate_left; intro hopt; clear_value x; rotate_left; unfold x)
    | (with_reducible refine hopt _ (by assumption))
    | (with_reducible exact hopt _ rfl)
    | (intro x; refine keep_cut_snd (qs := qs) x ?_ ?_; rotate_left; intro _; clear_value x; rotate_left; unfold x)
    | (intro x; clear_value x)
    | (with_reducible apply hfun)
    | (intro _)
    | split
    | (with_reducible apply AnswerKeeps.next)
    | (simp only [keep_mk, List.length_modify, List.length_map, List.length_replicate, List.length_zip, List.length_range, List.length_mapIdx, Nat.min_self])
    | (with_reducible apply Keep.toV)
    | (with_reducible apply keepV_roods)
    | (with_reducible apply keep_getD)
    | (with_reducible refine keepV_mem_nil hs ?_ ?_ ?_ ?_ ?_ ?_ ?_ ?_)
    | (rename_i he; split at he)
    | (rename_i he; injection he with he; subst he)

theorem scratchWrite_keeps_eq {qs : List Instr} (a : Nat) (bs : List Byte) (s : State) {tOut : State} (hs : Keep qs s) (e : scratchWrite a bs s = some tOut) : Keep qs tOut := by
  unfold scratchWrite at e
  try dsimp only at e
  repeat' split at e
  all_goals try cases e
  all_goals repeat' first
    | (with_reducible assumption)
    | (with_reducible apply wrBytes_keeps)
    | (with_reducible apply clearPoison_keeps)

theorem logRingRefused_keeps {qs : List Instr} (rood a : Nat) (s : State) (hs : Keep qs s) : Keep qs (logRingRefused rood a s) := by
  delta logRingRefused
  repeat' first
    | (with_reducible assumption)
    | (with_reducible apply logGlb_keeps)
    | (with_reducible apply raiseStr_keeps)

theorem finish_keeps {qs : List Instr} (d status detail : Nat) (s : State) (hs : Keep qs s) : Keep qs (finish d status detail s) := by
  delta finish
  repeat' first
    | (with_reducible assumption)
    | (with_reducible apply modDesc_keeps)

end Sys2Proof.Laws
end

