-- ==== Sys2Proof/Laws/KeepWork.lean ====
section
/-! SUPPORT. What every operation of Machine/Work.lean keeps: the waiting commands, the clock grid, the canonical form of the memories and
the bound of the event ring (Laws/Keep.lean). -/
namespace Sys2Proof.Laws

set_option linter.unusedSimpArgs false

open Sys2Proof.Machine Sys2Proof.Safety

theorem scrubCluster_keeps {qs : List Instr} (c : Nat) (s : State) (hs : Keep qs s) : Keep qs (scrubCluster c s) := by
  delta scrubCluster
  repeat' first
    | (with_reducible assumption)
    | (with_reducible rfl)
    | (with_reducible apply modCluster_keeps)
    | (with_reducible apply modStreams_keeps)
    | (with_reducible apply zeroMem_keeps)
    | (with_reducible refine fun _ => ?_)
    | lift_lets
    | (intro x; refine keep_cut (qs := qs) x ?_ ?_; rotate_left; intro _; clear_value x; rotate_left; unfold x)
    | (intro x; refine keep_cut_ss (qs := qs) x ?_ ?_; rotate_left; intro hfun; clear_value x; rotate_left; unfold x)
    | (intro x; refine keep_cut_ass (qs := qs) x ?_ ?_; rotate_left; intro hfun; clear_value x; rotate_left; unfold x)
    | (intro x; refine keep_cut_abss (qs := qs) x ?_ ?_; rotate_left; intro hfun; clear_value x; rotate_left; unfold x)
    | (intro x; refine keep_cut_a (qs := qs) x ?_ ?_; rotate_left; intro hfun; clear_value x; rotate_left; unfold x)
    | (intro x; refine keep_cut_ab (qs := qs) x ?_ ?_; rotate_left; intro hfun; clear_value x; rotate_left; unfold x)
    | (intro x; refine keep_cut_abc (qs := qs) x ?_ ?_; rotate_left; intro hfun; clear_value x; rotate_left; unfold x)
    | (intro x; refine keep_cut_o1 (qs := qs) x ?_ ?_; rotate_left; intro hopt; clear_value x; rotate_left; unfold x)
    | (intro x; refine keep_cut_o (qs := qs) x ?_ ?_; rotate_left; intro hopt; clear_value x; rotate_left; unfold x)
    | (with_reducible refine hopt _ (by assumption))
    | (with_reducible exact hopt _ rfl)
    | (intro x; refine keep_cut_snd (qs := qs) x ?_ ?_; rotate_left; intro _; clear_value x; rotate_left; unfold x)
    | (intro x; clear_value x)
    | (with_reducible apply hfun)
    | (intro _)
    | split
    | (with_reducible apply AnswerKeeps.next)
    | (simp only [keep_mk, List.length_modify, List.length_map, List.length_replicate, List.length_zip, List.length_range, List.length_mapIdx, Nat.min_self])
    | (with_reducible apply Keep.toV)
    | (with_reducible apply keepV_roods)
    | (with_reducible apply keep_getD)
    | (with_reducible refine keepV_mem_nil hs ?_ ?_ ?_ ?_ ?_ ?_ ?_ ?_)
    | (rename_i he; split at he)
    | (rename_i he; injection he with he; subst he)

theorem scrubEngine_keeps {qs : List Instr} (t e : Nat) (s : State) (hs : Keep qs s) : Keep qs (scrubEngine t e s) := by
  delta scrubEngine
  repeat' first
    | (with_reducible assumption)
    | (with_reducible rfl)
    | (with_reducible apply modEngine_keeps)
    | (with_reducible refine fun _ => ?_)
    | lift_lets
    | (intro x; refine keep_cut (qs := qs) x ?_ ?_; rotate_left; intro _; clear_value x; rotate_left; unfold x)
    | (intro x; refine keep_cut_ss (qs := qs) x ?_ ?_; rotate_left; intro hfun; clear_value x; rotate_left; unfold x)
    | (intro x; refine keep_cut_ass (qs := qs) x ?_ ?_; rotate_left; intro hfun; clear_value x; rotate_left; unfold x)
    | (intro x; refine keep_cut_abss (qs := qs) x ?_ ?_; rotate_left; intro hfun; clear_value x; rotate_left; unfold x)
    | (intro x; refine keep_cut_a (qs := qs) x ?_ ?_; rotate_left; intro hfun; clear_value x; rotate_left; unfold x)
    | (intro x; refine keep_cut_ab (qs := qs) x ?_ ?_; rotate_left; intro hfun; clear_value x; rotate_left; unfold x)
    | (intro x; refine keep_cut_abc (qs := qs) x ?_ ?_; rotate_left; intro hfun; clear_value x; rotate_left; unfold x)
    | (intro x; refine keep_cut_o1 (qs := qs) x ?_ ?_; rotate_left; intro hopt; clear_value x; rotate_left; unfold x)
    | (intro x; refine keep_cut_o (qs := qs) x ?_ ?_; rotate_left; intro hopt; clear_value x; rotate_left; unfold x)
    | (with_reducible refine hopt _ (by assumption))
    | (with_reducible exact hopt _ rfl)
    | (intro x; refine keep_cut_snd (qs := qs) x ?_ ?_; rotate_left; intro _; clear_value x; rotate_left; unfold x)
    | (intro x; clear_value x)
    | (with_reducible apply hfun)
    | (intro _)
    | split
    | (with_reducible apply AnswerKeeps.next)
    | (simp only [keep_mk, List.length_modify, List.length_map, List.length_replicate, List.length_zip, List.length_range, List.length_mapIdx, Nat.min_self])
    | (with_reducible apply Keep.toV)
    | (with_reducible apply keepV_roods)
    | (with_reducible apply keep_getD)
    | (with_reducible refine keepV_mem_nil hs ?_ ?_ ?_ ?_ ?_ ?_ ?_ ?_)
    | (rename_i he; split at he)
    | (rename_i he; injection he with he; subst he)

theorem logOpen_keeps {qs : List Instr} (block low rood : Nat) (s : State) (hs : Keep qs s) : Keep qs (logOpen block low rood s) := by
  delta logOpen
  repeat' first
    | (with_reducible assumption)
    | (with_reducible apply fresh_keeps)
    | (with_reducible apply logEv_keeps)

theorem logMalformed_keeps {qs : List Instr} (kind off rood seq : Nat) (b : Body) (src : DescSource) (own : Option Nat) (wAddr : Nat) (s : State) (hs : Keep qs s) : Keep qs (logMalformed kind off rood seq b src own wAddr s) := by
  delta logMalformed
  repeat' first
    | (with_reducible assumption)
    | (with_reducible rfl)
    | (with_reducible apply fresh_keeps)
    | (with_reducible refine fresh_keeps_eq _ _ ?_ (by assumption))
    | (with_reducible apply logEv_keeps)
    | (with_reducible apply logGlb_keeps)
    | (with_reducible apply raiseGlb_keeps)
    | (with_reducible apply logCluster_keeps)
    | (with_reducible apply logFirkin_keeps)
    | (with_reducible apply raiseStr_keeps)
    | (with_reducible apply raiseFab_keeps)
    | (with_reducible apply logOpen_keeps)
    | (with_reducible refine fun _ => ?_)
    | lift_lets
    | (intro x; refine keep_cut (qs := qs) x ?_ ?_; rotate_left; intro _; clear_value x; rotate_left; unfold x)
    | (intro x; refine keep_cut_ss (qs := qs) x ?_ ?_; rotate_left; intro hfun; clear_value x; rotate_left; unfold x)
    | (intro x; refine keep_cut_ass (qs := qs) x ?_ ?_; rotate_left; intro hfun; clear_value x; rotate_left; unfold x)
    | (intro x; refine keep_cut_abss (qs := qs) x ?_ ?_; rotate_left; intro hfun; clear_value x; rotate_left; unfold x)
    | (intro x; refine keep_cut_a (qs := qs) x ?_ ?_; rotate_left; intro hfun; clear_value x; rotate_left; unfold x)
    | (intro x; refine keep_cut_ab (qs := qs) x ?_ ?_; rotate_left; intro hfun; clear_value x; rotate_left; unfold x)
    | (intro x; refine keep_cut_abc (qs := qs) x ?_ ?_; rotate_left; intro hfun; clear_value x; rotate_left; unfold x)
    | (intro x; refine keep_cut_o1 (qs := qs) x ?_ ?_; rotate_left; intro hopt; clear_value x; rotate_left; unfold x)
    | (intro x; refine keep_cut_o (qs := qs) x ?_ ?_; rotate_left; intro hopt; clear_value x; rotate_left; unfold x)
    | (with_reducible refine hopt _ (by assumption))
    | (with_reducible exact hopt _ rfl)
    | (intro x; refine keep_cut_snd (qs := qs) x ?_ ?_; rotate_left; intro _; clear_value x; rotate_left; unfold x)
    | (intro x; clear_value x)
    | (with_reducible apply hfun)
    | (intro _)
    | split
    | (with_reducible apply AnswerKeeps.next)
    | (simp only [keep_mk, List.length_modify, List.length_map, List.length_replicate, List.length_zip, List.length_range, List.length_mapIdx, Nat.min_self])
    | (with_reducible apply Keep.toV)
    | (with_reducible apply keepV_roods)
    | (with_reducible apply keep_getD)
    | (with_reducible refine keepV_mem_nil hs ?_ ?_ ?_ ?_ ?_ ?_ ?_ ?_)
    | (rename_i he; split at he)
    | (rename_i he; injection he with he; subst he)

theorem markAdmitted_keeps {qs : List Instr} (d : Nat) (e : Desc) (s : State) (hs : Keep qs s) : Keep qs (markAdmitted d e s) := by
  delta markAdmitted
  repeat' first
    | (with_reducible assumption)
    | (with_reducible apply modCluster_keeps)
    | (with_reducible apply modDesc_keeps)
    | (with_reducible apply forAll_keeps)
    | (with_reducible refine fun _ => ?_)

theorem countTaken_keeps {qs : List Instr} (src : DescSource) (s : State) (hs : Keep qs s) : Keep qs (countTaken src s) := by
  delta countTaken
  repeat' first
    | (with_reducible assumption)
    | (with_reducible rfl)
    | (with_reducible apply modCore_keeps)
    | (with_reducible apply modQueue_keeps)
    | (with_reducible refine fun _ => ?_)
    | lift_lets
    | (intro x; refine keep_cut (qs := qs) x ?_ ?_; rotate_left; intro _; clear_value x; rotate_left; unfold x)
    | (intro x; refine keep_cut_ss (qs := qs) x ?_ ?_; rotate_left; intro hfun; clear_value x; rotate_left; unfold x)
    | (intro x; refine keep_cut_ass (qs := qs) x ?_ ?_; rotate_left; intro hfun; clear_value x; rotate_left; unfold x)
    | (intro x; refine keep_cut_abss (qs := qs) x ?_ ?_; rotate_left; intro hfun; clear_value x; rotate_left; unfold x)
    | (intro x; refine keep_cut_a (qs := qs) x ?_ ?_; rotate_left; intro hfun; clear_value x; rotate_left; unfold x)
    | (intro x; refine keep_cut_ab (qs := qs) x ?_ ?_; rotate_left; intro hfun; clear_value x; rotate_left; unfold x)
    | (intro x; refine keep_cut_abc (qs := qs) x ?_ ?_; rotate_left; intro hfun; clear_value x; rotate_left; unfold x)
    | (intro x; refine keep_cut_o1 (qs := qs) x ?_ ?_; rotate_left; intro hopt; clear_value x; rotate_left; unfold x)
    | (intro x; refine keep_cut_o (qs := qs) x ?_ ?_; rotate_left; intro hopt; clear_value x; rotate_left; unfold x)
    | (with_reducible refine hopt _ (by assumption))
    | (with_reducible exact hopt _ rfl)
    | (intro x; refine keep_cut_snd (qs := qs) x ?_ ?_; rotate_left; intro _; clear_value x; rotate_left; unfold x)
    | (intro x; clear_value x)
    | (with_reducible apply hfun)
    | (intro _)
    | split
    | (with_reducible apply AnswerKeeps.next)
    | (simp only [keep_mk, List.length_modify, List.length_map, List.length_replicate, List.length_zip, List.length_range, List.length_mapIdx, Nat.min_self])
    | (with_reducible apply Keep.toV)
    | (with_reducible apply keepV_roods)
    | (with_reducible apply keep_getD)
    | (with_reducible refine keepV_mem_nil hs ?_ ?_ ?_ ?_ ?_ ?_ ?_ ?_)
    | (rename_i he; split at he)
    | (rename_i he; injection he with he; subst he)

theorem admitDesc_keeps {qs : List Instr} (d : Nat) (e : Desc) (s : State) (hs : Keep qs s) : Keep qs (admitDesc d e s) := by
  delta admitDesc
  repeat' first
    | (with_reducible assumption)
    | (with_reducible rfl)
    | (with_reducible apply modDesc_keeps)
    | (with_reducible apply finish_keeps)
    | (with_reducible apply markAdmitted_keeps)
    | (with_reducible refine fun _ => ?_)
    | lift_lets
    | (intro x; refine keep_cut (qs := qs) x ?_ ?_; rotate_left; intro _; clear_value x; rotate_left; unfold x)
    | (intro x; refine keep_cut_ss (qs := qs) x ?_ ?_; rotate_left; intro hfun; clear_value x; rotate_left; unfold x)
    | (intro x; refine keep_cut_ass (qs := qs) x ?_ ?_; rotate_left; intro hfun; clear_value x; rotate_left; unfold x)
    | (intro x; refine keep_cut_abss (qs := qs) x ?_ ?_; rotate_left; intro hfun; clear_value x; rotate_left; unfold x)
    | (intro x; refine keep_cut_a (qs := qs) x ?_ ?_; rotate_left; intro hfun; clear_value x; rotate_left; unfold x)
    | (intro x; refine keep_cut_ab (qs := qs) x ?_ ?_; rotate_left; intro hfun; clear_value x; rotate_left; unfold x)
    | (intro x; refine keep_cut_abc (qs := qs) x ?_ ?_; rotate_left; intro hfun; clear_value x; rotate_left; unfold x)
    | (intro x; refine keep_cut_o1 (qs := qs) x ?_ ?_; rotate_left; intro hopt; clear_value x; rotate_left; unfold x)
    | (intro x; refine keep_cut_o (qs := qs) x ?_ ?_; rotate_left; intro hopt; clear_value x; rotate_left; unfold x)
    | (with_reducible refine hopt _ (by assumption))
    | (with_reducible exact hopt _ rfl)
    | (intro x; refine keep_cut_snd (qs := qs) x ?_ ?_; rotate_left; intro _; clear_value x; rotate_left; unfold x)
    | (intro x; clear_value x)
    | (with_reducible apply hfun)
    | (intro _)
    | split
    | (with_reducible apply AnswerKeeps.next)
    | (simp only [keep_mk, List.length_modify, List.length_map, List.length_replicate, List.length_zip, List.length_range, List.length_mapIdx, Nat.min_self])
    | (with_reducible apply Keep.toV)
    | (with_reducible apply keepV_roods)
    | (with_reducible apply keep_getD)
    | (with_reducible refine keepV_mem_nil hs ?_ ?_ ?_ ?_ ?_ ?_ ?_ ?_)
    | (rename_i he; split at he)
    | (rename_i he; injection he with he; subst he)

theorem takeDesc_keeps {qs : List Instr} (src : DescSource) (seq pid slice rood depth : Nat) (bs : List Byte) (s : State) (hs : Keep qs s) : Keep qs (takeDesc src seq pid slice rood depth bs s) := by
  delta takeDesc
  repeat' first
    | (with_reducible assumption)
    | (with_reducible rfl)
    | (with_reducible apply logUnmapped_keeps)
    | (with_reducible apply finish_keeps)
    | (with_reducible apply logMalformed_keeps)
    | (with_reducible apply countTaken_keeps)
    | (with_reducible apply admitDesc_keeps)
    | (with_reducible refine fun _ => ?_)
    | lift_lets
    | (intro x; refine keep_cut (qs := qs) x ?_ ?_; rotate_left; intro _; clear_value x; rotate_left; unfold x)
    | (intro x; refine keep_cut_ss (qs := qs) x ?_ ?_; rotate_left; intro hfun; clear_value x; rotate_left; unfold x)
    | (intro x; refine keep_cut_ass (qs := qs) x ?_ ?_; rotate_left; intro hfun; clear_value x; rotate_left; unfold x)
    | (intro x; refine keep_cut_abss (qs := qs) x ?_ ?_; rotate_left; intro hfun; clear_value x; rotate_left; unfold x)
    | (intro x; refine keep_cut_a (qs := qs) x ?_ ?_; rotate_left; intro hfun; clear_value x; rotate_left; unfold x)
    | (intro x; refine keep_cut_ab (qs := qs) x ?_ ?_; rotate_left; intro hfun; clear_value x; rotate_left; unfold x)
    | (intro x; refine keep_cut_abc (qs := qs) x ?_ ?_; rotate_left; intro hfun; clear_value x; rotate_left; unfold x)
    | (intro x; refine keep_cut_o1 (qs := qs) x ?_ ?_; rotate_left; intro hopt; clear_value x; rotate_left; unfold x)
    | (intro x; refine keep_cut_o (qs := qs) x ?_ ?_; rotate_left; intro hopt; clear_value x; rotate_left; unfold x)
    | (with_reducible refine hopt _ (by assumption))
    | (with_reducible exact hopt _ rfl)
    | (intro x; refine keep_cut_snd (qs := qs) x ?_ ?_; rotate_left; intro _; clear_value x; rotate_left; unfold x)
    | (intro x; clear_value x)
    | (with_reducible apply hfun)
    | (intro _)
    | split
    | (with_reducible apply AnswerKeeps.next)
    | (simp only [keep_mk, List.length_modify, List.length_map, List.length_replicate, List.length_zip, List.length_range, List.length_mapIdx, Nat.min_self])
    | (with_reducible apply Keep.toV)
    | (with_reducible apply keepV_roods)
    | (with_reducible apply keep_getD)
    | (with_reducible refine keepV_mem_nil hs ?_ ?_ ?_ ?_ ?_ ?_ ?_ ?_)
    | (rename_i he; split at he)
    | (rename_i he; injection he with he; subst he)

theorem enqueue_keeps {qs : List Instr} (u : UnitId) (d : Nat) (s : State) (hs : Keep qs s) : Keep qs (enqueue u d s) := by
  delta enqueue
  repeat' first
    | (with_reducible assumption)
    | (with_reducible rfl)
    | (with_reducible apply modCluster_keeps)
    | (with_reducible apply modCore_keeps)
    | (with_reducible apply modEngine_keeps)
    | (with_reducible apply modFab_keeps)
    | (with_reducible apply modStreams_keeps)
    | (with_reducible refine fun _ => ?_)
    | lift_lets
    | (intro x; refine keep_cut (qs := qs) x ?_ ?_; rotate_left; intro _; clear_value x; rotate_left; unfold x)
    | (intro x; refine keep_cut_ss (qs := qs) x ?_ ?_; rotate_left; intro hfun; clear_value x; rotate_left; unfold x)
    | (intro x; refine keep_cut_ass (qs := qs) x ?_ ?_; rotate_left; intro hfun; clear_value x; rotate_left; unfold x)
    | (intro x; refine keep_cut_abss (qs := qs) x ?_ ?_; rotate_left; intro hfun; clear_value x; rotate_left; unfold x)
    | (intro x; refine keep_cut_a (qs := qs) x ?_ ?_; rotate_left; intro hfun; clear_value x; rotate_left; unfold x)
    | (intro x; refine keep_cut_ab (qs := qs) x ?_ ?_; rotate_left; intro hfun; clear_value x; rotate_left; unfold x)
    | (intro x; refine keep_cut_abc (qs := qs) x ?_ ?_; rotate_left; intro hfun; clear_value x; rotate_left; unfold x)
    | (intro x; refine keep_cut_o1 (qs := qs) x ?_ ?_; rotate_left; intro hopt; clear_value x; rotate_left; unfold x)
    | (intro x; refine keep_cut_o (qs := qs) x ?_ ?_; rotate_left; intro hopt; clear_value x; rotate_left; unfold x)
    | (with_reducible refine hopt _ (by assumption))
    | (with_reducible exact hopt _ rfl)
    | (intro x; refine keep_cut_snd (qs := qs) x ?_ ?_; rotate_left; intro _; clear_value x; rotate_left; unfold x)
    | (intro x; clear_value x)
    | (with_reducible apply hfun)
    | (intro _)
    | split
    | (with_reducible apply AnswerKeeps.next)
    | (simp only [keep_mk, List.length_modify, List.length_map, List.length_replicate, List.length_zip, List.length_range, List.length_mapIdx, Nat.min_self])
    | (with_reducible apply Keep.toV)
    | (with_reducible apply keepV_roods)
    | (with_reducible apply keep_getD)
    | (with_reducible refine keepV_mem_nil hs ?_ ?_ ?_ ?_ ?_ ?_ ?_ ?_)
    | (rename_i he; split at he)
    | (rename_i he; injection he with he; subst he)

theorem dequeue_keeps {qs : List Instr} (u : UnitId) (d : Nat) (s : State) (hs : Keep qs s) : Keep qs (dequeue u d s) := by
  delta dequeue
  repeat' first
    | (with_reducible assumption)
    | (with_reducible apply modCluster_keeps)
    | (with_reducible apply modCore_keeps)
    | (with_reducible apply modEngine_keeps)
    | (with_reducible apply modFab_keeps)
    | (with_reducible apply modStreams_keeps)
    | lift_lets
    | (intro x; clear_value x)
    | split

theorem countPass_keeps {qs : List Instr} (x : FirkinBody) (s : State) (hs : Keep qs s) : Keep qs (countPass x s) := by
  delta countPass
  repeat' first
    | (with_reducible assumption)
    | (with_reducible apply modLock_keeps)
    | split

theorem dispatchDesc_keeps {qs : List Instr} (d : Nat) (s : State) (hs : Keep qs s) : Keep qs (dispatchDesc d s) := by
  delta dispatchDesc
  repeat' first
    | (with_reducible assumption)
    | (with_reducible rfl)
    | (with_reducible apply modDesc_keeps)
    | (with_reducible apply finish_keeps)
    | (with_reducible apply markAdmitted_keeps)
    | (with_reducible apply enqueue_keeps)
    | (with_reducible apply countPass_keeps)
    | (with_reducible refine fun _ => ?_)
    | lift_lets
    | (intro x; refine keep_cut (qs := qs) x ?_ ?_; rotate_left; intro _; clear_value x; rotate_left; unfold x)
    | (intro x; refine keep_cut_ss (qs := qs) x ?_ ?_; rotate_left; intro hfun; clear_value x; rotate_left; unfold x)
    | (intro x; refine keep_cut_ass (qs := qs) x ?_ ?_; rotate_left; intro hfun; clear_value x; rotate_left; unfold x)
    | (intro x; refine keep_cut_abss (qs := qs) x ?_ ?_; rotate_left; intro hfun; clear_value x; rotate_left; unfold x)
    | (intro x; refine keep_cut_a (qs := qs) x ?_ ?_; rotate_left; intro hfun; clear_value x; rotate_left; unfold x)
    | (intro x; refine keep_cut_ab (qs := qs) x ?_ ?_; rotate_left; intro hfun; clear_value x; rotate_left; unfold x)
    | (intro x; refine keep_cut_abc (qs := qs) x ?_ ?_; rotate_left; intro hfun; clear_value x; rotate_left; unfold x)
    | (intro x; refine keep_cut_o1 (qs := qs) x ?_ ?_; rotate_left; intro hopt; clear_value x; rotate_left; unfold x)
    | (intro x; refine keep_cut_o (qs := qs) x ?_ ?_; rotate_left; intro hopt; clear_value x; rotate_left; unfold x)
    | (with_reducible refine hopt _ (by assumption))
    | (with_reducible exact hopt _ rfl)
    | (intro x; refine keep_cut_snd (qs := qs) x ?_ ?_; rotate_left; intro _; clear_value x; rotate_left; unfold x)
    | (intro x; clear_value x)
    | (with_reducible apply hfun)
    | (intro _)
    | split
    | (with_reducible apply AnswerKeeps.next)
    | (simp only [keep_mk, List.length_modify, List.length_map, List.length_replicate, List.length_zip, List.length_range, List.length_mapIdx, Nat.min_self])
    | (with_reducible apply Keep.toV)
    | (with_reducible apply keepV_roods)
    | (with_reducible apply keep_getD)
    | (with_reducible refine keepV_mem_nil hs ?_ ?_ ?_ ?_ ?_ ?_ ?_ ?_)
    | (rename_i he; split at he)
    | (rename_i he; injection he with he; subst he)

theorem markStarted_keeps {qs : List Instr} (d : Nat) (e : Desc) (s : State) (hs : Keep qs s) : Keep qs (markStarted d e s) := by
  delta markStarted
  repeat' first
    | (with_reducible assumption)
    | (with_reducible apply modDesc_keeps)
    | (with_reducible apply dequeue_keeps)

theorem squashIfFailed_keeps {qs : List Instr} (d : Nat) (s : State) (hs : Keep qs s) : Keep qs (squashIfFailed d s) := by
  delta squashIfFailed
  repeat' first
    | (with_reducible assumption)
    | (with_reducible rfl)
    | (with_reducible apply logCluster_keeps)
    | (with_reducible apply finish_keeps)
    | (with_reducible refine fun _ => ?_)
    | lift_lets
    | (intro x; refine keep_cut (qs := qs) x ?_ ?_; rotate_left; intro _; clear_value x; rotate_left; unfold x)
    | (intro x; refine keep_cut_ss (qs := qs) x ?_ ?_; rotate_left; intro hfun; clear_value x; rotate_left; unfold x)
    | (intro x; refine keep_cut_ass (qs := qs) x ?_ ?_; rotate_left; intro hfun; clear_value x; rotate_left; unfold x)
    | (intro x; refine keep_cut_abss (qs := qs) x ?_ ?_; rotate_left; intro hfun; clear_value x; rotate_left; unfold x)
    | (intro x; refine keep_cut_a (qs := qs) x ?_ ?_; rotate_left; intro hfun; clear_value x; rotate_left; unfold x)
    | (intro x; refine keep_cut_ab (qs := qs) x ?_ ?_; rotate_left; intro hfun; clear_value x; rotate_left; unfold x)
    | (intro x; refine keep_cut_abc (qs := qs) x ?_ ?_; rotate_left; intro hfun; clear_value x; rotate_left; unfold x)
    | (intro x; refine keep_cut_o1 (qs := qs) x ?_ ?_; rotate_left; intro hopt; clear_value x; rotate_left; unfold x)
    | (intro x; refine keep_cut_o (qs := qs) x ?_ ?_; rotate_left; intro hopt; clear_value x; rotate_left; unfold x)
    | (with_reducible refine hopt _ (by assumption))
    | (with_reducible exact hopt _ rfl)
    | (intro x; refine keep_cut_snd (qs := qs) x ?_ ?_; rotate_left; intro _; clear_value x; rotate_left; unfold x)
    | (intro x; clear_value x)
    | (with_reducible apply hfun)
    | (intro _)
    | split
    | (with_reducible apply AnswerKeeps.next)
    | (simp only [keep_mk, List.length_modify, List.length_map, List.length_replicate, List.length_zip, List.length_range, List.length_mapIdx, Nat.min_self])
    | (with_reducible apply Keep.toV)
    | (with_reducible apply keepV_roods)
    | (with_reducible apply keep_getD)
    | (with_reducible refine keepV_mem_nil hs ?_ ?_ ?_ ?_ ?_ ?_ ?_ ?_)
    | (rename_i he; split at he)
    | (rename_i he; injection he with he; subst he)

theorem overrunCheck_keeps {qs : List Instr} (d stampRod : Nat) (s : State) (hs : Keep qs s) : Keep qs (overrunCheck d stampRod s) := by
  delta overrunCheck
  repeat' first
    | (with_reducible assumption)
    | (with_reducible rfl)
    | (with_reducible apply modDesc_keeps)
    | (with_reducible apply logCluster_keeps)
    | (with_reducible refine fun _ => ?_)
    | lift_lets
    | (intro x; refine keep_cut (qs := qs) x ?_ ?_; rotate_left; intro _; clear_value x; rotate_left; unfold x)
    | (intro x; refine keep_cut_ss (qs := qs) x ?_ ?_; rotate_left; intro hfun; clear_value x; rotate_left; unfold x)
    | (intro x; refine keep_cut_ass (qs := qs) x ?_ ?_; rotate_left; intro hfun; clear_value x; rotate_left; unfold x)
    | (intro x; refine keep_cut_abss (qs := qs) x ?_ ?_; rotate_left; intro hfun; clear_value x; rotate_left; unfold x)
    | (intro x; refine keep_cut_a (qs := qs) x ?_ ?_; rotate_left; intro hfun; clear_value x; rotate_left; unfold x)
    | (intro x; refine keep_cut_ab (qs := qs) x ?_ ?_; rotate_left; intro hfun; clear_value x; rotate_left; unfold x)
    | (intro x; refine keep_cut_abc (qs := qs) x ?_ ?_; rotate_left; intro hfun; clear_value x; rotate_left; unfold x)
    | (intro x; refine keep_cut_o1 (qs := qs) x ?_ ?_; rotate_left; intro hopt; clear_value x; rotate_left; unfold x)
    | (intro x; refine keep_cut_o (qs := qs) x ?_ ?_; rotate_left; intro hopt; clear_value x; rotate_left; unfold x)
    | (with_reducible refine hopt _ (by assumption))
    | (with_reducible exact hopt _ rfl)
    | (intro x; refine keep_cut_snd (qs := qs) x ?_ ?_; rotate_left; intro _; clear_value x; rotate_left; unfold x)
    | (intro x; clear_value x)
    | (with_reducible apply hfun)
    | (intro _)
    | split
    | (with_reducible apply AnswerKeeps.next)
    | (simp only [keep_mk, List.length_modify, List.length_map, List.length_replicate, List.length_zip, List.length_range, List.length_mapIdx, Nat.min_self])
    | (with_reducible apply Keep.toV)
    | (with_reducible apply keepV_roods)
    | (with_reducible apply keep_getD)
    | (with_reducible refine keepV_mem_nil hs ?_ ?_ ?_ ?_ ?_ ?_ ?_ ?_)
    | (rename_i he; split at he)
    | (rename_i he; injection he with he; subst he)

theorem logRefused_keeps {qs : List Instr} (c : WriteCheck) (a rood : Nat) (s : State) (hs : Keep qs s) : Keep qs (logRefused c a rood s) := by
  delta logRefused
  repeat' first
    | (with_reducible assumption)
    | (with_reducible apply modStack_keeps)
    | (with_reducible apply logStack_keeps)
    | (with_reducible apply logFirkin_keeps)
    | lift_lets
    | split
    | (simp only [keep_mk, List.length_modify, List.length_map, List.length_replicate, List.length_zip, List.length_range, List.length_mapIdx, Nat.min_self])

theorem trimBoard_keeps {qs : List Instr} (src : DescSource) (s : State) (hs : Keep qs s) : Keep qs (trimBoard src s) := by
  delta trimBoard
  repeat' first
    | (with_reducible assumption)
    | (with_reducible rfl)
    | (with_reducible apply modCore_keeps)
    | (with_reducible apply modQueue_keeps)
    | (with_reducible refine fun _ => ?_)
    | lift_lets
    | (intro x; refine keep_cut (qs := qs) x ?_ ?_; rotate_left; intro _; clear_value x; rotate_left; unfold x)
    | (intro x; refine keep_cut_ss (qs := qs) x ?_ ?_; rotate_left; intro hfun; clear_value x; rotate_left; unfold x)
    | (intro x; refine keep_cut_ass (qs := qs) x ?_ ?_; rotate_left; intro hfun; clear_value x; rotate_left; unfold x)
    | (intro x; refine keep_cut_abss (qs := qs) x ?_ ?_; rotate_left; intro hfun; clear_value x; rotate_left; unfold x)
    | (intro x; refine keep_cut_a (qs := qs) x ?_ ?_; rotate_left; intro hfun; clear_value x; rotate_left; unfold x)
    | (intro x; refine keep_cut_ab (qs := qs) x ?_ ?_; rotate_left; intro hfun; clear_value x; rotate_left; unfold x)
    | (intro x; refine keep_cut_abc (qs := qs) x ?_ ?_; rotate_left; intro hfun; clear_value x; rotate_left; unfold x)
    | (intro x; refine keep_cut_o1 (qs := qs) x ?_ ?_; rotate_left; intro hopt; clear_value x; rotate_left; unfold x)
    | (intro x; refine keep_cut_o (qs := qs) x ?_ ?_; rotate_left; intro hopt; clear_value x; rotate_left; unfold x)
    | (with_reducible refine hopt _ (by assumption))
    | (with_reducible exact hopt _ rfl)
    | (intro x; refine keep_cut_snd (qs := qs) x ?_ ?_; rotate_left; intro _; clear_value x; rotate_left; unfold x)
    | (intro x; clear_value x)
    | (with_reducible apply hfun)
    | (intro _)
    | split
    | (with_reducible apply AnswerKeeps.next)
    | (simp only [keep_mk, List.length_modify, List.length_map, List.length_replicate, List.length_zip, List.length_range, List.length_mapIdx, Nat.min_self])
    | (with_reducible apply Keep.toV)
    | (with_reducible apply keepV_roods)
    | (with_reducible apply keep_getD)
    | (with_reducible refine keepV_mem_nil hs ?_ ?_ ?_ ?_ ?_ ?_ ?_ ?_)
    | (rename_i he; split at he)
    | (rename_i he; injection he with he; subst he)

theorem squashDependents_keeps {qs : List Instr} (src : DescSource) (s : State) (hs : Keep qs s) : Keep qs (squashDependents src s) := by
  delta squashDependents
  repeat' first
    | (with_reducible assumption)
    | (with_reducible apply forAll_keeps)
    | (with_reducible apply finish_keeps)
    | (with_reducible refine fun _ => ?_)
    | split

theorem writeSummary_keeps {qs : List Instr} (c n slot value st : Nat) (s : State) (hs : Keep qs s) : Keep qs (writeSummary c n slot value st s) := by
  delta writeSummary
  repeat' first
    | (with_reducible assumption)
    | (with_reducible apply modCore_keeps)

theorem passDone_keeps {qs : List Instr} (d : Nat) (s : State) (hs : Keep qs s) : Keep qs (passDone d s) := by
  delta passDone
  repeat' first
    | (with_reducible assumption)
    | (with_reducible apply modLock_keeps)
    | (with_reducible apply modDesc_keeps)
    | lift_lets
    | (intro x; refine keep_cut (qs := qs) x ?_ ?_; rotate_left; intro _; clear_value x; rotate_left; unfold x)
    | split

theorem notifyEntries_keeps {qs : List Instr} (x : FirkinBody) (rood stamp : Nat) (s : State) (hs : Keep qs s) : Keep qs (notifyEntries x rood stamp s) := by
  delta notifyEntries
  repeat' first
    | (with_reducible assumption)
    | (with_reducible rfl)
    | (with_reducible apply modCluster_keeps)
    | (with_reducible refine fun _ => ?_)
    | lift_lets
    | (intro x; refine keep_cut (qs := qs) x ?_ ?_; rotate_left; intro _; clear_value x; rotate_left; unfold x)
    | (intro x; refine keep_cut_ss (qs := qs) x ?_ ?_; rotate_left; intro hfun; clear_value x; rotate_left; unfold x)
    | (intro x; refine keep_cut_ass (qs := qs) x ?_ ?_; rotate_left; intro hfun; clear_value x; rotate_left; unfold x)
    | (intro x; refine keep_cut_abss (qs := qs) x ?_ ?_; rotate_left; intro hfun; clear_value x; rotate_left; unfold x)
    | (intro x; refine keep_cut_a (qs := qs) x ?_ ?_; rotate_left; intro hfun; clear_value x; rotate_left; unfold x)
    | (intro x; refine keep_cut_ab (qs := qs) x ?_ ?_; rotate_left; intro hfun; clear_value x; rotate_left; unfold x)
    | (intro x; refine keep_cut_abc (qs := qs) x ?_ ?_; rotate_left; intro hfun; clear_value x; rotate_left; unfold x)
    | (intro x; refine keep_cut_o1 (qs := qs) x ?_ ?_; rotate_left; intro hopt; clear_value x; rotate_left; unfold x)
    | (intro x; refine keep_cut_o (qs := qs) x ?_ ?_; rotate_left; intro hopt; clear_value x; rotate_left; unfold x)
    | (with_reducible refine hopt _ (by assumption))
    | (with_reducible exact hopt _ rfl)
    | (intro x; refine keep_cut_snd (qs := qs) x ?_ ?_; rotate_left; intro _; clear_value x; rotate_left; unfold x)
    | (intro x; clear_value x)
    | (with_reducible apply hfun)
    | (intro _)
    | split
    | (with_reducible apply AnswerKeeps.next)
    | (simp only [keep_mk, List.length_modify, List.length_map, List.length_replicate, List.length_zip, List.length_range, List.length_mapIdx, Nat.min_self])
    | (with_reducible apply Keep.toV)
    | (with_reducible apply keepV_roods)
    | (with_reducible apply keep_getD)
    | (with_reducible refine keepV_mem_nil hs ?_ ?_ ?_ ?_ ?_ ?_ ?_ ?_)
    | (rename_i he; split at he)
    | (rename_i he; injection he with he; subst he)

theorem unitAfter_keeps {qs : List Instr} (d : Nat) (e : Desc) (r : Result) (st : Nat) (s : State) (hs : Keep qs s) : Keep qs (unitAfter d e r st s) := by
  delta unitAfter
  repeat' first
    | (with_reducible assumption)
    | (with_reducible rfl)
    | (with_reducible apply modCluster_keeps)
    | (with_reducible apply modEngine_keeps)
    | (with_reducible apply modFab_keeps)
    | (with_reducible apply modStreams_keeps)
    | (with_reducible apply writeSummary_keeps)
    | (with_reducible apply passDone_keeps)
    | (with_reducible apply notifyEntries_keeps)
    | (with_reducible refine fun _ => ?_)
    | lift_lets
    | (intro x; refine keep_cut (qs := qs) x ?_ ?_; rotate_left; intro _; clear_value x; rotate_left; unfold x)
    | (intro x; refine keep_cut_ss (qs := qs) x ?_ ?_; rotate_left; intro hfun; clear_value x; rotate_left; unfold x)
    | (intro x; refine keep_cut_ass (qs := qs) x ?_ ?_; rotate_left; intro hfun; clear_value x; rotate_left; unfold x)
    | (intro x; refine keep_cut_abss (qs := qs) x ?_ ?_; rotate_left; intro hfun; clear_value x; rotate_left; unfold x)
    | (intro x; refine keep_cut_a (qs := qs) x ?_ ?_; rotate_left; intro hfun; clear_value x; rotate_left; unfold x)
    | (intro x; refine keep_cut_ab (qs := qs) x ?_ ?_; rotate_left; intro hfun; clear_value x; rotate_left; unfold x)
    | (intro x; refine keep_cut_abc (qs := qs) x ?_ ?_; rotate_left; intro hfun; clear_value x; rotate_left; unfold x)
    | (intro x; refine keep_cut_o1 (qs := qs) x ?_ ?_; rotate_left; intro hopt; clear_value x; rotate_left; unfold x)
    | (intro x; refine keep_cut_o (qs := qs) x ?_ ?_; rotate_left; intro hopt; clear_value x; rotate_left; unfold x)
    | (with_reducible refine hopt _ (by assumption))
    | (with_reducible exact hopt _ rfl)
    | (intro x; refine keep_cut_snd (qs := qs) x ?_ ?_; rotate_left; intro _; clear_value x; rotate_left; unfold x)
    | (intro x; clear_value x)
    | (with_reducible apply hfun)
    | (intro _)
    | split
    | (with_reducible apply AnswerKeeps.next)
    | (simp only [keep_mk, List.length_modify, List.length_map, List.length_replicate, List.length_zip, List.length_range, List.length_mapIdx, Nat.min_self])
    | (with_reducible apply Keep.toV)
    | (with_reducible apply keepV_roods)
    | (with_reducible apply keep_getD)
    | (with_reducible refine keepV_mem_nil hs ?_ ?_ ?_ ?_ ?_ ?_ ?_ ?_)
    | (rename_i he; split at he)
    | (rename_i he; injection he with he; subst he)

theorem writeRecord_keeps {qs : List Instr} (q : Nat) (e : Desc) (st : Nat) (r : Result) (s : State) (hs : Keep qs s) : Keep qs (writeRecord q e st r s) := by
  delta writeRecord
  repeat' first
    | (with_reducible assumption)
    | (with_reducible rfl)
    | (with_reducible apply wrBytes_keeps)
    | (with_reducible apply logRefused_keeps)
    | (with_reducible refine fun _ => ?_)
    | lift_lets
    | (intro x; refine keep_cut (qs := qs) x ?_ ?_; rotate_left; intro _; clear_value x; rotate_left; unfold x)
    | (intro x; refine keep_cut_ss (qs := qs) x ?_ ?_; rotate_left; intro hfun; clear_value x; rotate_left; unfold x)
    | (intro x; refine keep_cut_ass (qs := qs) x ?_ ?_; rotate_left; intro hfun; clear_value x; rotate_left; unfold x)
    | (intro x; refine keep_cut_abss (qs := qs) x ?_ ?_; rotate_left; intro hfun; clear_value x; rotate_left; unfold x)
    | (intro x; refine keep_cut_a (qs := qs) x ?_ ?_; rotate_left; intro hfun; clear_value x; rotate_left; unfold x)
    | (intro x; refine keep_cut_ab (qs := qs) x ?_ ?_; rotate_left; intro hfun; clear_value x; rotate_left; unfold x)
    | (intro x; refine keep_cut_abc (qs := qs) x ?_ ?_; rotate_left; intro hfun; clear_value x; rotate_left; unfold x)
    | (intro x; refine keep_cut_o1 (qs := qs) x ?_ ?_; rotate_left; intro hopt; clear_value x; rotate_left; unfold x)
    | (intro x; refine keep_cut_o (qs := qs) x ?_ ?_; rotate_left; intro hopt; clear_value x; rotate_left; unfold x)
    | (with_reducible refine hopt _ (by assumption))
    | (with_reducible exact hopt _ rfl)
    | (intro x; refine keep_cut_snd (qs := qs) x ?_ ?_; rotate_left; intro _; clear_value x; rotate_left; unfold x)
    | (intro x; clear_value x)
    | (with_reducible apply hfun)
    | (intro _)
    | split
    | (with_reducible apply AnswerKeeps.next)
    | (simp only [keep_mk, List.length_modify, List.length_map, List.length_replicate, List.length_zip, List.length_range, List.length_mapIdx, Nat.min_self])
    | (with_reducible apply Keep.toV)
    | (with_reducible apply keepV_roods)
    | (with_reducible apply keep_getD)
    | (with_reducible refine keepV_mem_nil hs ?_ ?_ ?_ ?_ ?_ ?_ ?_ ?_)
    | (rename_i he; split at he)
    | (rename_i he; injection he with he; subst he)

theorem completeDesc_keeps {qs : List Instr} (d : Nat) (e : Desc) (r : Result) (s : State) (hs : Keep qs s) : Keep qs (completeDesc d e r s) := by
  delta completeDesc
  repeat' first
    | (with_reducible assumption)
    | (with_reducible rfl)
    | (with_reducible apply modCore_keeps)
    | (with_reducible apply modQueue_keeps)
    | (with_reducible apply ctrAdd_keeps)
    | (with_reducible apply dequeue_keeps)
    | (with_reducible apply overrunCheck_keeps)
    | (with_reducible apply trimBoard_keeps)
    | (with_reducible apply squashDependents_keeps)
    | (with_reducible apply unitAfter_keeps)
    | (with_reducible apply writeRecord_keeps)
    | (with_reducible refine fun _ => ?_)
    | lift_lets
    | (intro x; refine keep_cut (qs := qs) x ?_ ?_; rotate_left; intro _; clear_value x; rotate_left; unfold x)
    | (intro x; refine keep_cut_ss (qs := qs) x ?_ ?_; rotate_left; intro hfun; clear_value x; rotate_left; unfold x)
    | (intro x; refine keep_cut_ass (qs := qs) x ?_ ?_; rotate_left; intro hfun; clear_value x; rotate_left; unfold x)
    | (intro x; refine keep_cut_abss (qs := qs) x ?_ ?_; rotate_left; intro hfun; clear_value x; rotate_left; unfold x)
    | (intro x; refine keep_cut_a (qs := qs) x ?_ ?_; rotate_left; intro hfun; clear_value x; rotate_left; unfold x)
    | (intro x; refine keep_cut_ab (qs := qs) x ?_ ?_; rotate_left; intro hfun; clear_value x; rotate_left; unfold x)
    | (intro x; refine keep_cut_abc (qs := qs) x ?_ ?_; rotate_left; intro hfun; clear_value x; rotate_left; unfold x)
    | (intro x; refine keep_cut_o1 (qs := qs) x ?_ ?_; rotate_left; intro hopt; clear_value x; rotate_left; unfold x)
    | (intro x; refine keep_cut_o (qs := qs) x ?_ ?_; rotate_left; intro hopt; clear_value x; rotate_left; unfold x)
    | (with_reducible refine hopt _ (by assumption))
    | (with_reducible exact hopt _ rfl)
    | (intro x; refine keep_cut_snd (qs := qs) x ?_ ?_; rotate_left; intro _; clear_value x; rotate_left; unfold x)
    | (intro x; clear_value x)
    | (with_reducible apply hfun)
    | (intro _)
    | split
    | (with_reducible apply AnswerKeeps.next)
    | (simp only [keep_mk, List.length_modify, List.length_map, List.length_replicate, List.length_zip, List.length_range, List.length_mapIdx, Nat.min_self])
    | (with_reducible apply Keep.toV)
    | (with_reducible apply keepV_roods)
    | (with_reducible apply keep_getD)
    | (with_reducible refine keepV_mem_nil hs ?_ ?_ ?_ ?_ ?_ ?_ ?_ ?_)
    | (rename_i he; split at he)
    | (rename_i he; injection he with he; subst he)

theorem tryComplete_keeps {qs : List Instr} (d : Nat) (s : State) (hs : Keep qs s) : Keep qs (tryComplete d s) := by
  delta tryComplete
  repeat' first
    | (with_reducible assumption)
    | (with_reducible rfl)
    | (with_reducible apply completeDesc_keeps)
    | (with_reducible refine fun _ => ?_)
    | lift_lets
    | (intro x; refine keep_cut (qs := qs) x ?_ ?_; rotate_left; intro _; clear_value x; rotate_left; unfold x)
    | (intro x; refine keep_cut_ss (qs := qs) x ?_ ?_; rotate_left; intro hfun; clear_value x; rotate_left; unfold x)
    | (intro x; refine keep_cut_ass (qs := qs) x ?_ ?_; rotate_left; intro hfun; clear_value x; rotate_left; unfold x)
    | (intro x; refine keep_cut_abss (qs := qs) x ?_ ?_; rotate_left; intro hfun; clear_value x; rotate_left; unfold x)
    | (intro x; refine keep_cut_a (qs := qs) x ?_ ?_; rotate_left; intro hfun; clear_value x; rotate_left; unfold x)
    | (intro x; refine keep_cut_ab (qs := qs) x ?_ ?_; rotate_left; intro hfun; clear_value x; rotate_left; unfold x)
    | (intro x; refine keep_cut_abc (qs := qs) x ?_ ?_; rotate_left; intro hfun; clear_value x; rotate_left; unfold x)
    | (intro x; refine keep_cut_o1 (qs := qs) x ?_ ?_; rotate_left; intro hopt; clear_value x; rotate_left; unfold x)
    | (intro x; refine keep_cut_o (qs := qs) x ?_ ?_; rotate_left; intro hopt; clear_value x; rotate_left; unfold x)
    | (with_reducible refine hopt _ (by assumption))
    | (with_reducible exact hopt _ rfl)
    | (intro x; refine keep_cut_snd (qs := qs) x ?_ ?_; rotate_left; intro _; clear_value x; rotate_left; unfold x)
    | (intro x; clear_value x)
    | (with_reducible apply hfun)
    | (intro _)
    | split
    | (with_reducible apply AnswerKeeps.next)
    | (simp only [keep_mk, List.length_modify, List.length_map, List.length_replicate, List.length_zip, List.length_range, List.length_mapIdx, Nat.min_self])
    | (with_reducible apply Keep.toV)
    | (with_reducible apply keepV_roods)
    | (with_reducible apply keep_getD)
    | (with_reducible refine keepV_mem_nil hs ?_ ?_ ?_ ?_ ?_ ?_ ?_ ?_)
    | (rename_i he; split at he)
    | (rename_i he; injection he with he; subst he)

theorem endDesc_keeps {qs : List Instr} (d status detail : Nat) (s : State) (hs : Keep qs s) : Keep qs (endDesc d status detail s) := by
  delta endDesc
  repeat' first
    | (with_reducible assumption)
    | (with_reducible apply finish_keeps)

end Sys2Proof.Laws
end

