-- ==== Sys2Proof/Laws/KeepFlags.lean ====
section
/-! SUPPORT. What every operation of Machine/Flags.lean keeps: the waiting commands, the clock grid, the canonical form of the memories and
the bound of the event ring (Laws/Keep.lean). -/
namespace Sys2Proof.Laws

set_option linter.unusedSimpArgs false

open Sys2Proof.Machine Sys2Proof.Safety

theorem countTally_keeps {qs : List Instr} (c : Nat) (t : Tally) (s : State) (hs : Keep qs s) : Keep qs (countTally c t s) := by
  delta countTally
  repeat' first
    | (with_reducible assumption)
    | (with_reducible apply modCluster_keeps)

end Sys2Proof.Laws
end

