-- ==== Sys2Proof/Laws/KeepOperands.lean ====
section
/-! SUPPORT. What every operation of Machine/Operands.lean keeps: the waiting commands, the clock grid, the canonical form of the memories and
the bound of the event ring (Laws/Keep.lean). -/
namespace Sys2Proof.Laws

set_option linter.unusedSimpArgs false

open Sys2Proof.Machine Sys2Proof.Safety

theorem doWrites_keeps_eq {qs : List Instr} (ws : Writes) (s : State) {tOut : State} (hs : Keep qs s) (e : doWrites ws s = some tOut) : Keep qs tOut := by
  unfold doWrites at e
  try dsimp only at e
  repeat' split at e
  all_goals try cases e
  all_goals repeat' first
    | (with_reducible assumption)
    | (with_reducible apply forAll_keeps)
    | (with_reducible apply wrBytes_keeps)
    | (with_reducible apply clearPoison_keeps)
    | (with_reducible refine fun _ => ?_)

theorem logPoison_keeps {qs : List Instr} (r : Nat) (rs : List (Nat × Nat)) (s : State) (hs : Keep qs s) : Keep qs (logPoison r rs s) := by
  delta logPoison
  repeat' first
    | (with_reducible assumption)
    | (with_reducible rfl)
    | (with_reducible apply logGlb_keeps)
    | (with_reducible apply raiseStr_keeps)
    | (with_reducible refine fun _ => ?_)
    | lift_lets
    | (intro x; refine keep_cut (qs := qs) x ?_ ?_; rotate_left; intro _; clear_value x; rotate_left; unfold x)
    | (intro x; refine keep_cut_ss (qs := qs) x ?_ ?_; rotate_left; intro hfun; clear_value x; rotate_left; unfold x)
    | (intro x; refine keep_cut_ass (qs := qs) x ?_ ?_; rotate_left; intro hfun; clear_value x; rotate_left; unfold x)
    | (intro x; refine keep_cut_abss (qs := qs) x ?_ ?_; rotate_left; intro hfun; clear_value x; rotate_left; unfold x)
    | (intro x; refine keep_cut_a (qs := qs) x ?_ ?_; rotate_left; intro hfun; clear_value x; rotate_left; unfold x)
    | (intro x; refine keep_cut_ab (qs := qs) x ?_ ?_; rotate_left; intro hfun; clear_value x; rotate_left; unfold x)
    | (intro x; refine keep_cut_abc (qs := qs) x ?_ ?_; rotate_left; intro hfun; clear_value x; rotate_left; unfold x)
    | (intro x; refine keep_cut_o1 (qs := qs) x ?_ ?_; rotate_left; intro hopt; clear_value x; rotate_left; unfold x)
    | (intro x; refine keep_cut_o (qs := qs) x ?_ ?_; rotate_left; intro hopt; clear_value x; rotate_left; unfold x)
    | (with_reducible refine hopt _ (by assumption))
    | (with_reducible exact hopt _ rfl)
    | (intro x; refine keep_cut_snd (qs := qs) x ?_ ?_; rotate_left; intro _; clear_value x; rotate_left; unfold x)
    | (intro x; clear_value x)
    | (with_reducible apply hfun)
    | (intro _)
    | split
    | (with_reducible apply AnswerKeeps.next)
    | (simp only [keep_mk, List.length_modify, List.length_map, List.length_replicate, List.length_zip, List.length_range, List.length_mapIdx, Nat.min_self])
    | (with_reducible apply Keep.toV)
    | (with_reducible apply keepV_roods)
    | (with_reducible apply keep_getD)
    | (with_reducible refine keepV_mem_nil hs ?_ ?_ ?_ ?_ ?_ ?_ ?_ ?_)
    | (rename_i he; split at he)
    | (rename_i he; injection he with he; subst he)

theorem markReads_keeps {qs : List Instr} (rs : List (Nat × Nat)) (s : State) (hs : Keep qs s) : Keep qs (markReads rs s) := by
  delta markReads
  repeat' first
    | (with_reducible assumption)
    | (with_reducible apply forAll_keeps)
    | (with_reducible apply markRead_keeps)
    | (with_reducible refine fun _ => ?_)

end Sys2Proof.Laws
end

