-- ==== Sys2Proof/Laws/KeepTun.lean ====
section
/-! SUPPORT. What every operation of Machine/Tun.lean keeps: the waiting commands, the clock grid, the canonical form of the memories and
the bound of the event ring (Laws/Keep.lean). -/
namespace Sys2Proof.Laws

set_option linter.unusedSimpArgs false

open Sys2Proof.Machine Sys2Proof.Safety

theorem startPass_keeps {qs : List Instr} (c d : Nat) (e : Desc) (b : TunBody) (s : State) (hs : Keep qs s) : Keep qs (startPass c d e b s) := by
  delta startPass
  repeat' first
    | (with_reducible assumption)
    | (with_reducible rfl)
    | (with_reducible apply modBank_keeps)
    | (with_reducible apply logCluster_keeps)
    | (with_reducible apply markRead_keeps)
    | (with_reducible apply finish_keeps)
    | (with_reducible apply dequeue_keeps)
    | (with_reducible apply markStarted_keeps)
    | (with_reducible apply logPoison_keeps)
    | (with_reducible refine fun _ => ?_)
    | lift_lets
    | (intro x; refine keep_cut (qs := qs) x ?_ ?_; rotate_left; intro _; clear_value x; rotate_left; unfold x)
    | (intro x; refine keep_cut_ss (qs := qs) x ?_ ?_; rotate_left; intro hfun; clear_value x; rotate_left; unfold x)
    | (intro x; refine keep_cut_ass (qs := qs) x ?_ ?_; rotate_left; intro hfun; clear_value x; rotate_left; unfold x)
    | (intro x; refine keep_cut_abss (qs := qs) x ?_ ?_; rotate_left; intro hfun; clear_value x; rotate_left; unfold x)
    | (intro x; refine keep_cut_a (qs := qs) x ?_ ?_; rotate_left; intro hfun; clear_value x; rotate_left; unfold x)
    | (intro x; refine keep_cut_ab (qs := qs) x ?_ ?_; rotate_left; intro hfun; clear_value x; rotate_left; unfold x)
    | (intro x; refine keep_cut_abc (qs := qs) x ?_ ?_; rotate_left; intro hfun; clear_value x; rotate_left; unfold x)
    | (intro x; refine keep_cut_o1 (qs := qs) x ?_ ?_; rotate_left; intro hopt; clear_value x; rotate_left; unfold x)
    | (intro x; refine keep_cut_o (qs := qs) x ?_ ?_; rotate_left; intro hopt; clear_value x; rotate_left; unfold x)
    | (with_reducible refine hopt _ (by assumption))
    | (with_reducible exact hopt _ rfl)
    | (intro x; refine keep_cut_snd (qs := qs) x ?_ ?_; rotate_left; intro _; clear_value x; rotate_left; unfold x)
    | (intro x; clear_value x)
    | (with_reducible apply hfun)
    | (intro _)
    | split
    | (with_reducible apply AnswerKeeps.next)
    | (simp only [keep_mk, List.length_modify, List.length_map, List.length_replicate, List.length_zip, List.length_range, List.length_mapIdx, Nat.min_self])
    | (with_reducible apply Keep.toV)
    | (with_reducible apply keepV_roods)
    | (with_reducible apply keep_getD)
    | (with_reducible refine keepV_mem_nil hs ?_ ?_ ?_ ?_ ?_ ?_ ?_ ?_)
    | (rename_i he; split at he)
    | (rename_i he; injection he with he; subst he)

theorem dropPass_keeps {qs : List Instr} (c b d st : Nat) (s : State) (hs : Keep qs s) : Keep qs (dropPass c b d st s) := by
  delta dropPass
  repeat' first
    | (with_reducible assumption)
    | (with_reducible apply modBank_keeps)
    | (with_reducible apply finish_keeps)

theorem initLoad_keeps {qs : List Instr} (c b : Nat) (s : State) (hs : Keep qs s) : Keep qs (initLoad c b s) := by
  delta initLoad
  repeat' first
    | (with_reducible assumption)
    | (with_reducible rfl)
    | (with_reducible apply modBank_keeps)
    | (with_reducible apply forAll_keeps)
    | (with_reducible apply wrBytes_keeps)
    | (with_reducible apply logPoison_keeps)
    | (with_reducible apply markReads_keeps)
    | (with_reducible apply dropPass_keeps)
    | (with_reducible refine fun _ => ?_)
    | lift_lets
    | (intro x; refine keep_cut (qs := qs) x ?_ ?_; rotate_left; intro _; clear_value x; rotate_left; unfold x)
    | (intro x; refine keep_cut_ss (qs := qs) x ?_ ?_; rotate_left; intro hfun; clear_value x; rotate_left; unfold x)
    | (intro x; refine keep_cut_ass (qs := qs) x ?_ ?_; rotate_left; intro hfun; clear_value x; rotate_left; unfold x)
    | (intro x; refine keep_cut_abss (qs := qs) x ?_ ?_; rotate_left; intro hfun; clear_value x; rotate_left; unfold x)
    | (intro x; refine keep_cut_a (qs := qs) x ?_ ?_; rotate_left; intro hfun; clear_value x; rotate_left; unfold x)
    | (intro x; refine keep_cut_ab (qs := qs) x ?_ ?_; rotate_left; intro hfun; clear_value x; rotate_left; unfold x)
    | (intro x; refine keep_cut_abc (qs := qs) x ?_ ?_; rotate_left; intro hfun; clear_value x; rotate_left; unfold x)
    | (intro x; refine keep_cut_o1 (qs := qs) x ?_ ?_; rotate_left; intro hopt; clear_value x; rotate_left; unfold x)
    | (intro x; refine keep_cut_o (qs := qs) x ?_ ?_; rotate_left; intro hopt; clear_value x; rotate_left; unfold x)
    | (with_reducible refine hopt _ (by assumption))
    | (with_reducible exact hopt _ rfl)
    | (intro x; refine keep_cut_snd (qs := qs) x ?_ ?_; rotate_left; intro _; clear_value x; rotate_left; unfold x)
    | (intro x; clear_value x)
    | (with_reducible apply hfun)
    | (intro _)
    | split
    | (with_reducible apply AnswerKeeps.next)
    | (simp only [keep_mk, List.length_modify, List.length_map, List.length_replicate, List.length_zip, List.length_range, List.length_mapIdx, Nat.min_self])
    | (with_reducible apply Keep.toV)
    | (with_reducible apply keepV_roods)
    | (with_reducible apply keep_getD)
    | (with_reducible refine keepV_mem_nil hs ?_ ?_ ?_ ?_ ?_ ?_ ?_ ?_)
    | (rename_i he; split at he)
    | (rename_i he; injection he with he; subst he)

theorem lastProduct_keeps {qs : List Instr} (c b : Nat) (s : State) (hs : Keep qs s) : Keep qs (lastProduct c b s) := by
  delta lastProduct
  repeat' first
    | (with_reducible assumption)
    | (with_reducible rfl)
    | (with_reducible apply modBank_keeps)
    | (with_reducible apply forAll_keeps)
    | (with_reducible apply wrBytes_keeps)
    | (with_reducible apply finish_keeps)
    | (with_reducible apply countTally_keeps)
    | (with_reducible apply logPoison_keeps)
    | (with_reducible apply markReads_keeps)
    | (with_reducible apply dropPass_keeps)
    | (with_reducible apply foldl_keeps)
    | (with_reducible apply foldl_snd_keeps)
    | (with_reducible apply foldl_fst_keeps)
    | (with_reducible refine fun _ => ?_)
    | lift_lets
    | (intro x; refine keep_cut (qs := qs) x ?_ ?_; rotate_left; intro _; clear_value x; rotate_left; unfold x)
    | (intro x; refine keep_cut_ss (qs := qs) x ?_ ?_; rotate_left; intro hfun; clear_value x; rotate_left; unfold x)
    | (intro x; refine keep_cut_ass (qs := qs) x ?_ ?_; rotate_left; intro hfun; clear_value x; rotate_left; unfold x)
    | (intro x; refine keep_cut_abss (qs := qs) x ?_ ?_; rotate_left; intro hfun; clear_value x; rotate_left; unfold x)
    | (intro x; refine keep_cut_a (qs := qs) x ?_ ?_; rotate_left; intro hfun; clear_value x; rotate_left; unfold x)
    | (intro x; refine keep_cut_ab (qs := qs) x ?_ ?_; rotate_left; intro hfun; clear_value x; rotate_left; unfold x)
    | (intro x; refine keep_cut_abc (qs := qs) x ?_ ?_; rotate_left; intro hfun; clear_value x; rotate_left; unfold x)
    | (intro x; refine keep_cut_o1 (qs := qs) x ?_ ?_; rotate_left; intro hopt; clear_value x; rotate_left; unfold x)
    | (intro x; refine keep_cut_o (qs := qs) x ?_ ?_; rotate_left; intro hopt; clear_value x; rotate_left; unfold x)
    | (with_reducible refine hopt _ (by assumption))
    | (with_reducible exact hopt _ rfl)
    | (intro x; refine keep_cut_snd (qs := qs) x ?_ ?_; rotate_left; intro _; clear_value x; rotate_left; unfold x)
    | (intro x; clear_value x)
    | (with_reducible apply hfun)
    | (intro _)
    | split
    | (with_reducible apply AnswerKeeps.next)
    | (simp only [keep_mk, List.length_modify, List.length_map, List.length_replicate, List.length_zip, List.length_range, List.length_mapIdx, Nat.min_self])
    | (with_reducible apply Keep.toV)
    | (with_reducible apply keepV_roods)
    | (with_reducible apply keep_getD)
    | (with_reducible refine keepV_mem_nil hs ?_ ?_ ?_ ?_ ?_ ?_ ?_ ?_)
    | (rename_i he; split at he)
    | (rename_i he; injection he with he; subst he)

theorem spillDone_keeps {qs : List Instr} (c b : Nat) (s : State) (hs : Keep qs s) : Keep qs (spillDone c b s) := by
  delta spillDone
  repeat' first
    | (with_reducible assumption)
    | (with_reducible rfl)
    | (with_reducible apply modBank_keeps)
    | (with_reducible apply logRingRefused_keeps)
    | (with_reducible apply finish_keeps)
    | (with_reducible apply countTally_keeps)
    | (with_reducible refine doWrites_keeps_eq _ _ ?_ (by assumption))
    | (with_reducible apply dropPass_keeps)
    | (with_reducible refine fun _ => ?_)
    | lift_lets
    | (intro x; refine keep_cut (qs := qs) x ?_ ?_; rotate_left; intro _; clear_value x; rotate_left; unfold x)
    | (intro x; refine keep_cut_ss (qs := qs) x ?_ ?_; rotate_left; intro hfun; clear_value x; rotate_left; unfold x)
    | (intro x; refine keep_cut_ass (qs := qs) x ?_ ?_; rotate_left; intro hfun; clear_value x; rotate_left; unfold x)
    | (intro x; refine keep_cut_abss (qs := qs) x ?_ ?_; rotate_left; intro hfun; clear_value x; rotate_left; unfold x)
    | (intro x; refine keep_cut_a (qs := qs) x ?_ ?_; rotate_left; intro hfun; clear_value x; rotate_left; unfold x)
    | (intro x; refine keep_cut_ab (qs := qs) x ?_ ?_; rotate_left; intro hfun; clear_value x; rotate_left; unfold x)
    | (intro x; refine keep_cut_abc (qs := qs) x ?_ ?_; rotate_left; intro hfun; clear_value x; rotate_left; unfold x)
    | (intro x; refine keep_cut_o1 (qs := qs) x ?_ ?_; rotate_left; intro hopt; clear_value x; rotate_left; unfold x)
    | (intro x; refine keep_cut_o (qs := qs) x ?_ ?_; rotate_left; intro hopt; clear_value x; rotate_left; unfold x)
    | (with_reducible refine hopt _ (by assumption))
    | (with_reducible exact hopt _ rfl)
    | (intro x; refine keep_cut_snd (qs := qs) x ?_ ?_; rotate_left; intro _; clear_value x; rotate_left; unfold x)
    | (intro x; clear_value x)
    | (with_reducible apply hfun)
    | (intro _)
    | split
    | (with_reducible apply AnswerKeeps.next)
    | (simp only [keep_mk, List.length_modify, List.length_map, List.length_replicate, List.length_zip, List.length_range, List.length_mapIdx, Nat.min_self])
    | (with_reducible apply Keep.toV)
    | (with_reducible apply keepV_roods)
    | (with_reducible apply keep_getD)
    | (with_reducible refine keepV_mem_nil hs ?_ ?_ ?_ ?_ ?_ ?_ ?_ ?_)
    | (rename_i he; split at he)
    | (rename_i he; injection he with he; subst he)

theorem execTunPassStart_keeps {qs : List Instr} (c : Nat) (s : State) (hs : Keep qs s) : AnswerKeeps qs (execTunPassStart c s) := by
  delta execTunPassStart
  repeat' first
    | (with_reducible assumption)
    | (with_reducible apply startPass_keeps)
    | split
    | (with_reducible apply AnswerKeeps.next)

theorem execInitLoadDone_keeps {qs : List Instr} (c b : Nat) (s : State) (hs : Keep qs s) : AnswerKeeps qs (execInitLoadDone c b s) := by
  delta execInitLoadDone
  repeat' first
    | (with_reducible assumption)
    | (with_reducible apply initLoad_keeps)
    | (with_reducible apply AnswerKeeps.next)

theorem execTunLastProduct_keeps {qs : List Instr} (c b : Nat) (s : State) (hs : Keep qs s) : AnswerKeeps qs (execTunLastProduct c b s) := by
  delta execTunLastProduct
  repeat' first
    | (with_reducible assumption)
    | (with_reducible apply lastProduct_keeps)
    | (with_reducible apply AnswerKeeps.next)

theorem execTunSpillDone_keeps {qs : List Instr} (c b : Nat) (s : State) (hs : Keep qs s) : AnswerKeeps qs (execTunSpillDone c b s) := by
  delta execTunSpillDone
  repeat' first
    | (with_reducible assumption)
    | (with_reducible apply spillDone_keeps)
    | (with_reducible apply AnswerKeeps.next)

end Sys2Proof.Laws
end

