-- ==== Sys2Proof/Laws/KeepGill.lean ====
section
/-! SUPPORT. What every operation of Machine/Gill.lean keeps: the waiting commands, the clock grid, the canonical form of the memories and
the bound of the event ring (Laws/Keep.lean). -/
namespace Sys2Proof.Laws

set_option linter.unusedSimpArgs false

open Sys2Proof.Machine Sys2Proof.Safety

theorem startGill_keeps {qs : List Instr} (c n d : Nat) (e : Desc) (s : State) (hs : Keep qs s) : Keep qs (startGill c n d e s) := by
  delta startGill
  repeat' first
    | (with_reducible assumption)
    | (with_reducible apply modCluster_keeps)
    | (with_reducible apply markStarted_keeps)

theorem reduceAll_keeps {qs : List Instr} (op : Nat) (gs : List (List F32)) (s : State) (hs : Keep qs s) : Keep qs (reduceAll op gs s).2 := by
  delta reduceAll
  repeat' first
    | (with_reducible assumption)
    | (with_reducible apply fresh_keeps)
    | (with_reducible apply foldl_snd_keeps)
    | (with_reducible refine fun _ => ?_)
    | split

theorem reduceAll_keeps_eq {qs : List Instr} (op : Nat) (gs : List (List F32)) (s : State) {tOut : State} {outv : _} (hs : Keep qs s) (e : reduceAll op gs s = (outv, tOut)) : Keep qs tOut := by
  have := reduceAll_keeps (qs := qs) op gs s hs
  rw [e] at this; exact this

theorem gillPut_keeps {qs : List Instr} (c n : Nat) (b : GillBody) (l : Nat × Nat × Nat) (rs : List F32) (s : State) (hs : Keep qs s) :
    ∀ t, (gillPut c n b l rs s).1 = some t → Keep qs t := by
  intro t e
  unfold gillPut at e
  split at e
  · cases e
    exact modCore_keeps _ _ _ _ hs
  · exact doWrites_keeps_eq _ _ hs e

theorem gillEnd_keeps {qs : List Instr} (c n d : Nat) (e : Desc) (b : GillBody) (st value : Nat) (s : State) (hs : Keep qs s) : Keep qs (gillEnd c n d e b st value s) := by
  delta gillEnd
  repeat' first
    | (with_reducible assumption)
    | (with_reducible apply modCluster_keeps)
    | (with_reducible apply modDesc_keeps)
    | (with_reducible apply finish_keeps)
    | (with_reducible apply writeSummary_keeps)
    | lift_lets
    | (intro x; refine keep_cut (qs := qs) x ?_ ?_; rotate_left; intro _; clear_value x; rotate_left; unfold x)
    | split

theorem gillRelease_keeps {qs : List Instr} (c n d : Nat) (e : Desc) (b : GillBody) (s : State) (hs : Keep qs s) : Keep qs (gillRelease c n d e b s) := by
  delta gillRelease
  repeat' first
    | (with_reducible assumption)
    | (with_reducible apply modBank_keeps)
    | (with_reducible apply logCluster_keeps)
    | (with_reducible apply gillEnd_keeps)
    | lift_lets
    | split

theorem spillWrite_keeps {qs : List Instr} (c n d : Nat) (e : Desc) (b : GillBody) (k : Nat) (s : State) (hs : Keep qs s) : Keep qs (spillWrite c n d e b k s) := by
  delta spillWrite
  repeat' first
    | (with_reducible assumption)
    | (with_reducible rfl)
    | (with_reducible apply modBank_keeps)
    | (with_reducible apply logRingRefused_keeps)
    | (with_reducible apply countTally_keeps)
    | (with_reducible refine doWrites_keeps_eq _ _ ?_ (by assumption))
    | (with_reducible apply gillEnd_keeps)
    | (with_reducible refine fun _ => ?_)
    | lift_lets
    | (intro x; refine keep_cut (qs := qs) x ?_ ?_; rotate_left; intro _; clear_value x; rotate_left; unfold x)
    | (intro x; refine keep_cut_ss (qs := qs) x ?_ ?_; rotate_left; intro hfun; clear_value x; rotate_left; unfold x)
    | (intro x; refine keep_cut_ass (qs := qs) x ?_ ?_; rotate_left; intro hfun; clear_value x; rotate_left; unfold x)
    | (intro x; refine keep_cut_abss (qs := qs) x ?_ ?_; rotate_left; intro hfun; clear_value x; rotate_left; unfold x)
    | (intro x; refine keep_cut_a (qs := qs) x ?_ ?_; rotate_left; intro hfun; clear_value x; rotate_left; unfold x)
    | (intro x; refine keep_cut_ab (qs := qs) x ?_ ?_; rotate_left; intro hfun; clear_value x; rotate_left; unfold x)
    | (intro x; refine keep_cut_abc (qs := qs) x ?_ ?_; rotate_left; intro hfun; clear_value x; rotate_left; unfold x)
    | (intro x; refine keep_cut_o1 (qs := qs) x ?_ ?_; rotate_left; intro hopt; clear_value x; rotate_left; unfold x)
    | (intro x; refine keep_cut_o (qs := qs) x ?_ ?_; rotate_left; intro hopt; clear_value x; rotate_left; unfold x)
    | (with_reducible refine hopt _ (by assumption))
    | (with_reducible exact hopt _ rfl)
    | (intro x; refine keep_cut_snd (qs := qs) x ?_ ?_; rotate_left; intro _; clear_value x; rotate_left; unfold x)
    | (intro x; clear_value x)
    | (with_reducible apply hfun)
    | (intro _)
    | split
    | (with_reducible apply AnswerKeeps.next)
    | (simp only [keep_mk, List.length_modify, List.length_map, List.length_replicate, List.length_zip, List.length_range, List.length_mapIdx, Nat.min_self])
    | (with_reducible apply Keep.toV)
    | (with_reducible apply keepV_roods)
    | (with_reducible apply keep_getD)
    | (with_reducible refine keepV_mem_nil hs ?_ ?_ ?_ ?_ ?_ ?_ ?_ ?_)
    | (rename_i he; split at he)
    | (rename_i he; injection he with he; subst he)

theorem gillSpill_keeps {qs : List Instr} (c n d : Nat) (e : Desc) (b : GillBody) (s : State) (hs : Keep qs s) : Keep qs (gillSpill c n d e b s) := by
  delta gillSpill
  repeat' first
    | (with_reducible assumption)
    | (with_reducible rfl)
    | (with_reducible apply modBank_keeps)
    | (with_reducible apply logCluster_keeps)
    | (with_reducible apply gillEnd_keeps)
    | (with_reducible apply spillWrite_keeps)
    | (with_reducible refine fun _ => ?_)
    | lift_lets
    | (intro x; refine keep_cut (qs := qs) x ?_ ?_; rotate_left; intro _; clear_value x; rotate_left; unfold x)
    | (intro x; refine keep_cut_ss (qs := qs) x ?_ ?_; rotate_left; intro hfun; clear_value x; rotate_left; unfold x)
    | (intro x; refine keep_cut_ass (qs := qs) x ?_ ?_; rotate_left; intro hfun; clear_value x; rotate_left; unfold x)
    | (intro x; refine keep_cut_abss (qs := qs) x ?_ ?_; rotate_left; intro hfun; clear_value x; rotate_left; unfold x)
    | (intro x; refine keep_cut_a (qs := qs) x ?_ ?_; rotate_left; intro hfun; clear_value x; rotate_left; unfold x)
    | (intro x; refine keep_cut_ab (qs := qs) x ?_ ?_; rotate_left; intro hfun; clear_value x; rotate_left; unfold x)
    | (intro x; refine keep_cut_abc (qs := qs) x ?_ ?_; rotate_left; intro hfun; clear_value x; rotate_left; unfold x)
    | (intro x; refine keep_cut_o1 (qs := qs) x ?_ ?_; rotate_left; intro hopt; clear_value x; rotate_left; unfold x)
    | (intro x; refine keep_cut_o (qs := qs) x ?_ ?_; rotate_left; intro hopt; clear_value x; rotate_left; unfold x)
    | (with_reducible refine hopt _ (by assumption))
    | (with_reducible exact hopt _ rfl)
    | (intro x; refine keep_cut_snd (qs := qs) x ?_ ?_; rotate_left; intro _; clear_value x; rotate_left; unfold x)
    | (intro x; clear_value x)
    | (with_reducible apply hfun)
    | (intro _)
    | split
    | (with_reducible apply AnswerKeeps.next)
    | (simp only [keep_mk, List.length_modify, List.length_map, List.length_replicate, List.length_zip, List.length_range, List.length_mapIdx, Nat.min_self])
    | (with_reducible apply Keep.toV)
    | (with_reducible apply keepV_roods)
    | (with_reducible apply keep_getD)
    | (with_reducible refine keepV_mem_nil hs ?_ ?_ ?_ ?_ ?_ ?_ ?_ ?_)
    | (rename_i he; split at he)
    | (rename_i he; injection he with he; subst he)

theorem gillElementwise_keeps {qs : List Instr} (c n d : Nat) (e : Desc) (b : GillBody) (s : State) (hs : Keep qs s) : Keep qs (gillElementwise c n d e b s) := by
  delta gillElementwise
  repeat' first
    | (with_reducible assumption)
    | (with_reducible rfl)
    | (with_reducible apply logRingRefused_keeps)
    | (with_reducible apply countTally_keeps)
    | (with_reducible apply markReads_keeps)
    | (with_reducible refine fun t e => gillPut_keeps _ _ _ _ _ _ ?_ t e)
    | (with_reducible apply gillEnd_keeps)
    | (with_reducible apply foldl_keeps)
    | (with_reducible apply foldl_snd_keeps)
    | (with_reducible apply foldl_fst_keeps)
    | (with_reducible refine fun _ => ?_)
    | lift_lets
    | (intro x; refine keep_cut (qs := qs) x ?_ ?_; rotate_left; intro _; clear_value x; rotate_left; unfold x)
    | (intro x; refine keep_cut_ss (qs := qs) x ?_ ?_; rotate_left; intro hfun; clear_value x; rotate_left; unfold x)
    | (intro x; refine keep_cut_ass (qs := qs) x ?_ ?_; rotate_left; intro hfun; clear_value x; rotate_left; unfold x)
    | (intro x; refine keep_cut_abss (qs := qs) x ?_ ?_; rotate_left; intro hfun; clear_value x; rotate_left; unfold x)
    | (intro x; refine keep_cut_a (qs := qs) x ?_ ?_; rotate_left; intro hfun; clear_value x; rotate_left; unfold x)
    | (intro x; refine keep_cut_ab (qs := qs) x ?_ ?_; rotate_left; intro hfun; clear_value x; rotate_left; unfold x)
    | (intro x; refine keep_cut_abc (qs := qs) x ?_ ?_; rotate_left; intro hfun; clear_value x; rotate_left; unfold x)
    | (intro x; refine keep_cut_o1 (qs := qs) x ?_ ?_; rotate_left; intro hopt; clear_value x; rotate_left; unfold x)
    | (intro x; refine keep_cut_o (qs := qs) x ?_ ?_; rotate_left; intro hopt; clear_value x; rotate_left; unfold x)
    | (with_reducible refine hopt _ (by assumption))
    | (with_reducible exact hopt _ rfl)
    | (intro x; refine keep_cut_snd (qs := qs) x ?_ ?_; rotate_left; intro _; clear_value x; rotate_left; unfold x)
    | (intro x; clear_value x)
    | (with_reducible apply hfun)
    | (intro _)
    | split
    | (with_reducible apply AnswerKeeps.next)
    | (simp only [keep_mk, List.length_modify, List.length_map, List.length_replicate, List.length_zip, List.length_range, List.length_mapIdx, Nat.min_self])
    | (with_reducible apply Keep.toV)
    | (with_reducible apply keepV_roods)
    | (with_reducible apply keep_getD)
    | (with_reducible refine keepV_mem_nil hs ?_ ?_ ?_ ?_ ?_ ?_ ?_ ?_)
    | (rename_i he; split at he)
    | (rename_i he; injection he with he; subst he)

theorem gillReduction_keeps {qs : List Instr} (c n d : Nat) (e : Desc) (b : GillBody) (s : State) (hs : Keep qs s) : Keep qs (gillReduction c n d e b s) := by
  delta gillReduction
  repeat' first
    | (with_reducible assumption)
    | (with_reducible rfl)
    | (with_reducible apply fresh_keeps)
    | (with_reducible refine fresh_keeps_eq _ _ ?_ (by assumption))
    | (with_reducible apply logRingRefused_keeps)
    | (with_reducible apply countTally_keeps)
    | (with_reducible apply markReads_keeps)
    | (with_reducible apply reduceAll_keeps)
    | (with_reducible refine reduceAll_keeps_eq _ _ _ ?_ (by assumption))
    | (with_reducible refine fun t e => gillPut_keeps _ _ _ _ _ _ ?_ t e)
    | (with_reducible apply gillEnd_keeps)
    | (with_reducible apply foldl_keeps)
    | (with_reducible apply foldl_snd_keeps)
    | (with_reducible apply foldl_fst_keeps)
    | (with_reducible refine fun _ => ?_)
    | lift_lets
    | (intro x; refine keep_cut (qs := qs) x ?_ ?_; rotate_left; intro _; clear_value x; rotate_left; unfold x)
    | (intro x; refine keep_cut_ss (qs := qs) x ?_ ?_; rotate_left; intro hfun; clear_value x; rotate_left; unfold x)
    | (intro x; refine keep_cut_ass (qs := qs) x ?_ ?_; rotate_left; intro hfun; clear_value x; rotate_left; unfold x)
    | (intro x; refine keep_cut_abss (qs := qs) x ?_ ?_; rotate_left; intro hfun; clear_value x; rotate_left; unfold x)
    | (intro x; refine keep_cut_a (qs := qs) x ?_ ?_; rotate_left; intro hfun; clear_value x; rotate_left; unfold x)
    | (intro x; refine keep_cut_ab (qs := qs) x ?_ ?_; rotate_left; intro hfun; clear_value x; rotate_left; unfold x)
    | (intro x; refine keep_cut_abc (qs := qs) x ?_ ?_; rotate_left; intro hfun; clear_value x; rotate_left; unfold x)
    | (intro x; refine keep_cut_o1 (qs := qs) x ?_ ?_; rotate_left; intro hopt; clear_value x; rotate_left; unfold x)
    | (intro x; refine keep_cut_o (qs := qs) x ?_ ?_; rotate_left; intro hopt; clear_value x; rotate_left; unfold x)
    | (with_reducible refine hopt _ (by assumption))
    | (with_reducible exact hopt _ rfl)
    | (intro x; refine keep_cut_snd (qs := qs) x ?_ ?_; rotate_left; intro _; clear_value x; rotate_left; unfold x)
    | (intro x; clear_value x)
    | (with_reducible apply hfun)
    | (intro _)
    | split
    | (with_reducible apply AnswerKeeps.next)
    | (simp only [keep_mk, List.length_modify, List.length_map, List.length_replicate, List.length_zip, List.length_range, List.length_mapIdx, Nat.min_self])
    | (with_reducible apply Keep.toV)
    | (with_reducible apply keepV_roods)
    | (with_reducible apply keep_getD)
    | (with_reducible refine keepV_mem_nil hs ?_ ?_ ?_ ?_ ?_ ?_ ?_ ?_)
    | (rename_i he; split at he)
    | (rename_i he; injection he with he; subst he)

theorem gillRunOp_keeps {qs : List Instr} (c n d : Nat) (e : Desc) (b : GillBody) (s : State) (hs : Keep qs s) : Keep qs (gillRunOp c n d e b s) := by
  delta gillRunOp
  repeat' first
    | (with_reducible assumption)
    | (with_reducible rfl)
    | (with_reducible apply logPoison_keeps)
    | (with_reducible apply gillEnd_keeps)
    | (with_reducible apply gillRelease_keeps)
    | (with_reducible apply gillSpill_keeps)
    | (with_reducible apply gillElementwise_keeps)
    | (with_reducible apply gillReduction_keeps)
    | (with_reducible refine fun _ => ?_)
    | lift_lets
    | (intro x; refine keep_cut (qs := qs) x ?_ ?_; rotate_left; intro _; clear_value x; rotate_left; unfold x)
    | (intro x; refine keep_cut_ss (qs := qs) x ?_ ?_; rotate_left; intro hfun; clear_value x; rotate_left; unfold x)
    | (intro x; refine keep_cut_ass (qs := qs) x ?_ ?_; rotate_left; intro hfun; clear_value x; rotate_left; unfold x)
    | (intro x; refine keep_cut_abss (qs := qs) x ?_ ?_; rotate_left; intro hfun; clear_value x; rotate_left; unfold x)
    | (intro x; refine keep_cut_a (qs := qs) x ?_ ?_; rotate_left; intro hfun; clear_value x; rotate_left; unfold x)
    | (intro x; refine keep_cut_ab (qs := qs) x ?_ ?_; rotate_left; intro hfun; clear_value x; rotate_left; unfold x)
    | (intro x; refine keep_cut_abc (qs := qs) x ?_ ?_; rotate_left; intro hfun; clear_value x; rotate_left; unfold x)
    | (intro x; refine keep_cut_o1 (qs := qs) x ?_ ?_; rotate_left; intro hopt; clear_value x; rotate_left; unfold x)
    | (intro x; refine keep_cut_o (qs := qs) x ?_ ?_; rotate_left; intro hopt; clear_value x; rotate_left; unfold x)
    | (with_reducible refine hopt _ (by assumption))
    | (with_reducible exact hopt _ rfl)
    | (intro x; refine keep_cut_snd (qs := qs) x ?_ ?_; rotate_left; intro _; clear_value x; rotate_left; unfold x)
    | (intro x; clear_value x)
    | (with_reducible apply hfun)
    | (intro _)
    | split
    | (with_reducible apply AnswerKeeps.next)
    | (simp only [keep_mk, List.length_modify, List.length_map, List.length_replicate, List.length_zip, List.length_range, List.length_mapIdx, Nat.min_self])
    | (with_reducible apply Keep.toV)
    | (with_reducible apply keepV_roods)
    | (with_reducible apply keep_getD)
    | (with_reducible refine keepV_mem_nil hs ?_ ?_ ?_ ?_ ?_ ?_ ?_ ?_)
    | (rename_i he; split at he)
    | (rename_i he; injection he with he; subst he)

theorem gillDo_keeps {qs : List Instr} (c op : Nat) (s : State) (hs : Keep qs s) : Keep qs (gillDo c op s) := by
  delta gillDo
  repeat' first
    | (with_reducible assumption)
    | (with_reducible apply startGill_keeps)
    | (with_reducible apply gillRunOp_keeps)
    | (with_reducible refine fun _ => ?_)
    | lift_lets
    | (intro x; refine keep_cut_abss (qs := qs) x ?_ ?_; rotate_left; intro hfun; clear_value x; rotate_left; unfold x)
    | (with_reducible apply hfun)
    | split

theorem execLoad_keeps {qs : List Instr} (c : Nat) (s : State) (hs : Keep qs s) : AnswerKeeps qs (execLoad c s) := by
  delta execLoad
  repeat' first
    | (with_reducible assumption)
    | (with_reducible apply gillDo_keeps)
    | (with_reducible apply AnswerKeeps.next)

theorem execStore_keeps {qs : List Instr} (c : Nat) (s : State) (hs : Keep qs s) : AnswerKeeps qs (execStore c s) := by
  delta execStore
  repeat' first
    | (with_reducible assumption)
    | (with_reducible apply gillDo_keeps)
    | (with_reducible apply AnswerKeeps.next)

theorem execCopy_keeps {qs : List Instr} (c : Nat) (s : State) (hs : Keep qs s) : AnswerKeeps qs (execCopy c s) := by
  delta execCopy
  repeat' first
    | (with_reducible assumption)
    | (with_reducible apply gillDo_keeps)
    | (with_reducible apply AnswerKeeps.next)

theorem execAdd_keeps {qs : List Instr} (c : Nat) (s : State) (hs : Keep qs s) : AnswerKeeps qs (execAdd c s) := by
  delta execAdd
  repeat' first
    | (with_reducible assumption)
    | (with_reducible apply gillDo_keeps)
    | (with_reducible apply AnswerKeeps.next)

theorem execSub_keeps {qs : List Instr} (c : Nat) (s : State) (hs : Keep qs s) : AnswerKeeps qs (execSub c s) := by
  delta execSub
  repeat' first
    | (with_reducible assumption)
    | (with_reducible apply gillDo_keeps)
    | (with_reducible apply AnswerKeeps.next)

theorem execMul_keeps {qs : List Instr} (c : Nat) (s : State) (hs : Keep qs s) : AnswerKeeps qs (execMul c s) := by
  delta execMul
  repeat' first
    | (with_reducible assumption)
    | (with_reducible apply gillDo_keeps)
    | (with_reducible apply AnswerKeeps.next)

theorem execFma_keeps {qs : List Instr} (c : Nat) (s : State) (hs : Keep qs s) : AnswerKeeps qs (execFma c s) := by
  delta execFma
  repeat' first
    | (with_reducible assumption)
    | (with_reducible apply gillDo_keeps)
    | (with_reducible apply AnswerKeeps.next)

theorem execAbs_keeps {qs : List Instr} (c : Nat) (s : State) (hs : Keep qs s) : AnswerKeeps qs (execAbs c s) := by
  delta execAbs
  repeat' first
    | (with_reducible assumption)
    | (with_reducible apply gillDo_keeps)
    | (with_reducible apply AnswerKeeps.next)

theorem execNeg_keeps {qs : List Instr} (c : Nat) (s : State) (hs : Keep qs s) : AnswerKeeps qs (execNeg c s) := by
  delta execNeg
  repeat' first
    | (with_reducible assumption)
    | (with_reducible apply gillDo_keeps)
    | (with_reducible apply AnswerKeeps.next)

theorem execMin_keeps {qs : List Instr} (c : Nat) (s : State) (hs : Keep qs s) : AnswerKeeps qs (execMin c s) := by
  delta execMin
  repeat' first
    | (with_reducible assumption)
    | (with_reducible apply gillDo_keeps)
    | (with_reducible apply AnswerKeeps.next)

theorem execMax_keeps {qs : List Instr} (c : Nat) (s : State) (hs : Keep qs s) : AnswerKeeps qs (execMax c s) := by
  delta execMax
  repeat' first
    | (with_reducible assumption)
    | (with_reducible apply gillDo_keeps)
    | (with_reducible apply AnswerKeeps.next)

theorem execCmplt_keeps {qs : List Instr} (c : Nat) (s : State) (hs : Keep qs s) : AnswerKeeps qs (execCmplt c s) := by
  delta execCmplt
  repeat' first
    | (with_reducible assumption)
    | (with_reducible apply gillDo_keeps)
    | (with_reducible apply AnswerKeeps.next)

theorem execCmple_keeps {qs : List Instr} (c : Nat) (s : State) (hs : Keep qs s) : AnswerKeeps qs (execCmple c s) := by
  delta execCmple
  repeat' first
    | (with_reducible assumption)
    | (with_reducible apply gillDo_keeps)
    | (with_reducible apply AnswerKeeps.next)

theorem execCmpeq_keeps {qs : List Instr} (c : Nat) (s : State) (hs : Keep qs s) : AnswerKeeps qs (execCmpeq c s) := by
  delta execCmpeq
  repeat' first
    | (with_reducible assumption)
    | (with_reducible apply gillDo_keeps)
    | (with_reducible apply AnswerKeeps.next)

theorem execSel_keeps {qs : List Instr} (c : Nat) (s : State) (hs : Keep qs s) : AnswerKeeps qs (execSel c s) := by
  delta execSel
  repeat' first
    | (with_reducible assumption)
    | (with_reducible apply gillDo_keeps)
    | (with_reducible apply AnswerKeeps.next)

theorem execExp2_keeps {qs : List Instr} (c : Nat) (s : State) (hs : Keep qs s) : AnswerKeeps qs (execExp2 c s) := by
  delta execExp2
  repeat' first
    | (with_reducible assumption)
    | (with_reducible apply gillDo_keeps)
    | (with_reducible apply AnswerKeeps.next)

theorem execLog2_keeps {qs : List Instr} (c : Nat) (s : State) (hs : Keep qs s) : AnswerKeeps qs (execLog2 c s) := by
  delta execLog2
  repeat' first
    | (with_reducible assumption)
    | (with_reducible apply gillDo_keeps)
    | (with_reducible apply AnswerKeeps.next)

theorem execRcp_keeps {qs : List Instr} (c : Nat) (s : State) (hs : Keep qs s) : AnswerKeeps qs (execRcp c s) := by
  delta execRcp
  repeat' first
    | (with_reducible assumption)
    | (with_reducible apply gillDo_keeps)
    | (with_reducible apply AnswerKeeps.next)

theorem execRsqrt_keeps {qs : List Instr} (c : Nat) (s : State) (hs : Keep qs s) : AnswerKeeps qs (execRsqrt c s) := by
  delta execRsqrt
  repeat' first
    | (with_reducible assumption)
    | (with_reducible apply gillDo_keeps)
    | (with_reducible apply AnswerKeeps.next)

theorem execTanh_keeps {qs : List Instr} (c : Nat) (s : State) (hs : Keep qs s) : AnswerKeeps qs (execTanh c s) := by
  delta execTanh
  repeat' first
    | (with_reducible assumption)
    | (with_reducible apply gillDo_keeps)
    | (with_reducible apply AnswerKeeps.next)

theorem execSum_keeps {qs : List Instr} (c : Nat) (s : State) (hs : Keep qs s) : AnswerKeeps qs (execSum c s) := by
  delta execSum
  repeat' first
    | (with_reducible assumption)
    | (with_reducible apply gillDo_keeps)
    | (with_reducible apply AnswerKeeps.next)

theorem execSumsq_keeps {qs : List Instr} (c : Nat) (s : State) (hs : Keep qs s) : AnswerKeeps qs (execSumsq c s) := by
  delta execSumsq
  repeat' first
    | (with_reducible assumption)
    | (with_reducible apply gillDo_keeps)
    | (with_reducible apply AnswerKeeps.next)

theorem execMaxr_keeps {qs : List Instr} (c : Nat) (s : State) (hs : Keep qs s) : AnswerKeeps qs (execMaxr c s) := by
  delta execMaxr
  repeat' first
    | (with_reducible assumption)
    | (with_reducible apply gillDo_keeps)
    | (with_reducible apply AnswerKeeps.next)

theorem execMinr_keeps {qs : List Instr} (c : Nat) (s : State) (hs : Keep qs s) : AnswerKeeps qs (execMinr c s) := by
  delta execMinr
  repeat' first
    | (with_reducible assumption)
    | (with_reducible apply gillDo_keeps)
    | (with_reducible apply AnswerKeeps.next)

theorem execArgmax_keeps {qs : List Instr} (c : Nat) (s : State) (hs : Keep qs s) : AnswerKeeps qs (execArgmax c s) := by
  delta execArgmax
  repeat' first
    | (with_reducible assumption)
    | (with_reducible apply gillDo_keeps)
    | (with_reducible apply AnswerKeeps.next)

theorem execCountnf_keeps {qs : List Instr} (c : Nat) (s : State) (hs : Keep qs s) : AnswerKeeps qs (execCountnf c s) := by
  delta execCountnf
  repeat' first
    | (with_reducible assumption)
    | (with_reducible apply gillDo_keeps)
    | (with_reducible apply AnswerKeeps.next)

theorem execAccrd_keeps {qs : List Instr} (c : Nat) (s : State) (hs : Keep qs s) : AnswerKeeps qs (execAccrd c s) := by
  delta execAccrd
  repeat' first
    | (with_reducible assumption)
    | (with_reducible apply gillDo_keeps)
    | (with_reducible apply AnswerKeeps.next)

theorem execRelease_keeps {qs : List Instr} (c : Nat) (s : State) (hs : Keep qs s) : AnswerKeeps qs (execRelease c s) := by
  delta execRelease
  repeat' first
    | (with_reducible assumption)
    | (with_reducible apply gillDo_keeps)
    | (with_reducible apply AnswerKeeps.next)

theorem execSpill_keeps {qs : List Instr} (c : Nat) (s : State) (hs : Keep qs s) : AnswerKeeps qs (execSpill c s) := by
  delta execSpill
  repeat' first
    | (with_reducible assumption)
    | (with_reducible apply gillDo_keeps)
    | (with_reducible apply AnswerKeeps.next)

end Sys2Proof.Laws
end

