-- ==== Sys2Proof/Laws/KeepCores.lean ====
section
/-! SUPPORT. What every operation of Machine/Cores.lean keeps: the waiting commands, the clock grid, the canonical form of the memories and
the bound of the event ring (Laws/Keep.lean). -/
namespace Sys2Proof.Laws

set_option linter.unusedSimpArgs false

open Sys2Proof.Machine Sys2Proof.Safety

theorem retireX_keeps {qs : List Instr} (c n rd : Nat) (v : Word) (s : State) (hs : Keep qs s) : Keep qs (retireX c n rd v s) := by
  delta retireX
  repeat' first
    | (with_reducible assumption)
    | (with_reducible apply modCore_keeps)

theorem stall_keeps {qs : List Instr} (c n : Nat) (st : CoreState) (w : CoreWait) (s : State) (hs : Keep qs s) : Keep qs (stall c n st w s) := by
  delta stall
  repeat' first
    | (with_reducible assumption)
    | (with_reducible apply modCore_keeps)

theorem startCore_keeps {qs : List Instr} (c n d : Nat) (e : Desc) (b : RunBody) (s : State) (hs : Keep qs s) : Keep qs (startCore c n d e b s) := by
  delta startCore
  repeat' first
    | (with_reducible assumption)
    | (with_reducible rfl)
    | (with_reducible apply modCore_keeps)
    | (with_reducible refine fun _ => ?_)
    | lift_lets
    | (intro x; refine keep_cut (qs := qs) x ?_ ?_; rotate_left; intro _; clear_value x; rotate_left; unfold x)
    | (intro x; refine keep_cut_ss (qs := qs) x ?_ ?_; rotate_left; intro hfun; clear_value x; rotate_left; unfold x)
    | (intro x; refine keep_cut_ass (qs := qs) x ?_ ?_; rotate_left; intro hfun; clear_value x; rotate_left; unfold x)
    | (intro x; refine keep_cut_abss (qs := qs) x ?_ ?_; rotate_left; intro hfun; clear_value x; rotate_left; unfold x)
    | (intro x; refine keep_cut_a (qs := qs) x ?_ ?_; rotate_left; intro hfun; clear_value x; rotate_left; unfold x)
    | (intro x; refine keep_cut_ab (qs := qs) x ?_ ?_; rotate_left; intro hfun; clear_value x; rotate_left; unfold x)
    | (intro x; refine keep_cut_abc (qs := qs) x ?_ ?_; rotate_left; intro hfun; clear_value x; rotate_left; unfold x)
    | (intro x; refine keep_cut_o1 (qs := qs) x ?_ ?_; rotate_left; intro hopt; clear_value x; rotate_left; unfold x)
    | (intro x; refine keep_cut_o (qs := qs) x ?_ ?_; rotate_left; intro hopt; clear_value x; rotate_left; unfold x)
    | (with_reducible refine hopt _ (by assumption))
    | (with_reducible exact hopt _ rfl)
    | (intro x; refine keep_cut_snd (qs := qs) x ?_ ?_; rotate_left; intro _; clear_value x; rotate_left; unfold x)
    | (intro x; clear_value x)
    | (with_reducible apply hfun)
    | (intro _)
    | split
    | (with_reducible apply AnswerKeeps.next)
    | (simp only [keep_mk, List.length_modify, List.length_map, List.length_replicate, List.length_zip, List.length_range, List.length_mapIdx, Nat.min_self])
    | (with_reducible apply Keep.toV)
    | (with_reducible apply keepV_roods)
    | (with_reducible apply keep_getD)
    | (with_reducible refine keepV_mem_nil hs ?_ ?_ ?_ ?_ ?_ ?_ ?_ ?_)
    | (rename_i he; split at he)
    | (rename_i he; injection he with he; subst he)

theorem startRun_keeps {qs : List Instr} (d : Nat) (e : Desc) (b : RunBody) (s : State) (hs : Keep qs s) : Keep qs (startRun d e b s) := by
  delta startRun
  repeat' first
    | (with_reducible assumption)
    | (with_reducible rfl)
    | (with_reducible apply modDesc_keeps)
    | (with_reducible apply forAll_keeps)
    | (with_reducible apply finish_keeps)
    | (with_reducible apply markStarted_keeps)
    | (with_reducible apply startCore_keeps)
    | (with_reducible refine fun _ => ?_)
    | lift_lets
    | (intro x; refine keep_cut (qs := qs) x ?_ ?_; rotate_left; intro _; clear_value x; rotate_left; unfold x)
    | (intro x; refine keep_cut_ss (qs := qs) x ?_ ?_; rotate_left; intro hfun; clear_value x; rotate_left; unfold x)
    | (intro x; refine keep_cut_ass (qs := qs) x ?_ ?_; rotate_left; intro hfun; clear_value x; rotate_left; unfold x)
    | (intro x; refine keep_cut_abss (qs := qs) x ?_ ?_; rotate_left; intro hfun; clear_value x; rotate_left; unfold x)
    | (intro x; refine keep_cut_a (qs := qs) x ?_ ?_; rotate_left; intro hfun; clear_value x; rotate_left; unfold x)
    | (intro x; refine keep_cut_ab (qs := qs) x ?_ ?_; rotate_left; intro hfun; clear_value x; rotate_left; unfold x)
    | (intro x; refine keep_cut_abc (qs := qs) x ?_ ?_; rotate_left; intro hfun; clear_value x; rotate_left; unfold x)
    | (intro x; refine keep_cut_o1 (qs := qs) x ?_ ?_; rotate_left; intro hopt; clear_value x; rotate_left; unfold x)
    | (intro x; refine keep_cut_o (qs := qs) x ?_ ?_; rotate_left; intro hopt; clear_value x; rotate_left; unfold x)
    | (with_reducible refine hopt _ (by assumption))
    | (with_reducible exact hopt _ rfl)
    | (intro x; refine keep_cut_snd (qs := qs) x ?_ ?_; rotate_left; intro _; clear_value x; rotate_left; unfold x)
    | (intro x; clear_value x)
    | (with_reducible apply hfun)
    | (intro _)
    | split
    | (with_reducible apply AnswerKeeps.next)
    | (simp only [keep_mk, List.length_modify, List.length_map, List.length_replicate, List.length_zip, List.length_range, List.length_mapIdx, Nat.min_self])
    | (with_reducible apply Keep.toV)
    | (with_reducible apply keepV_roods)
    | (with_reducible apply keep_getD)
    | (with_reducible refine keepV_mem_nil hs ?_ ?_ ?_ ?_ ?_ ?_ ?_ ?_)
    | (rename_i he; split at he)
    | (rename_i he; injection he with he; subst he)

theorem endProgram_keeps {qs : List Instr} (c n st detail : Nat) (s : State) (hs : Keep qs s) : Keep qs (endProgram c n st detail s) := by
  delta endProgram
  repeat' first
    | (with_reducible assumption)
    | (with_reducible rfl)
    | (with_reducible apply modCore_keeps)
    | (with_reducible apply modDesc_keeps)
    | (with_reducible apply finish_keeps)
    | (with_reducible refine fun _ => ?_)
    | lift_lets
    | (intro x; refine keep_cut (qs := qs) x ?_ ?_; rotate_left; intro _; clear_value x; rotate_left; unfold x)
    | (intro x; refine keep_cut_ss (qs := qs) x ?_ ?_; rotate_left; intro hfun; clear_value x; rotate_left; unfold x)
    | (intro x; refine keep_cut_ass (qs := qs) x ?_ ?_; rotate_left; intro hfun; clear_value x; rotate_left; unfold x)
    | (intro x; refine keep_cut_abss (qs := qs) x ?_ ?_; rotate_left; intro hfun; clear_value x; rotate_left; unfold x)
    | (intro x; refine keep_cut_a (qs := qs) x ?_ ?_; rotate_left; intro hfun; clear_value x; rotate_left; unfold x)
    | (intro x; refine keep_cut_ab (qs := qs) x ?_ ?_; rotate_left; intro hfun; clear_value x; rotate_left; unfold x)
    | (intro x; refine keep_cut_abc (qs := qs) x ?_ ?_; rotate_left; intro hfun; clear_value x; rotate_left; unfold x)
    | (intro x; refine keep_cut_o1 (qs := qs) x ?_ ?_; rotate_left; intro hopt; clear_value x; rotate_left; unfold x)
    | (intro x; refine keep_cut_o (qs := qs) x ?_ ?_; rotate_left; intro hopt; clear_value x; rotate_left; unfold x)
    | (with_reducible refine hopt _ (by assumption))
    | (with_reducible exact hopt _ rfl)
    | (intro x; refine keep_cut_snd (qs := qs) x ?_ ?_; rotate_left; intro _; clear_value x; rotate_left; unfold x)
    | (intro x; clear_value x)
    | (with_reducible apply hfun)
    | (intro _)
    | split
    | (with_reducible apply AnswerKeeps.next)
    | (simp only [keep_mk, List.length_modify, List.length_map, List.length_replicate, List.length_zip, List.length_range, List.length_mapIdx, Nat.min_self])
    | (with_reducible apply Keep.toV)
    | (with_reducible apply keepV_roods)
    | (with_reducible apply keep_getD)
    | (with_reducible refine keepV_mem_nil hs ?_ ?_ ?_ ?_ ?_ ?_ ?_ ?_)
    | (rename_i he; split at he)
    | (rename_i he; injection he with he; subst he)

theorem trapCore_keeps {qs : List Instr} (c n : Nat) (kind : TrapKind) (mcause addr : Nat) (s : State) (hs : Keep qs s) : Keep qs (trapCore c n kind mcause addr s) := by
  delta trapCore
  repeat' first
    | (with_reducible assumption)
    | (with_reducible rfl)
    | (with_reducible apply modCore_keeps)
    | (with_reducible apply modDesc_keeps)
    | (with_reducible apply forAll_keeps)
    | (with_reducible apply logCluster_keeps)
    | (with_reducible apply logUncovered_keeps)
    | (with_reducible apply finish_keeps)
    | (with_reducible apply logRefused_keeps)
    | (with_reducible apply endProgram_keeps)
    | (with_reducible refine fun _ => ?_)
    | lift_lets
    | (intro x; refine keep_cut (qs := qs) x ?_ ?_; rotate_left; intro _; clear_value x; rotate_left; unfold x)
    | (intro x; refine keep_cut_ss (qs := qs) x ?_ ?_; rotate_left; intro hfun; clear_value x; rotate_left; unfold x)
    | (intro x; refine keep_cut_ass (qs := qs) x ?_ ?_; rotate_left; intro hfun; clear_value x; rotate_left; unfold x)
    | (intro x; refine keep_cut_abss (qs := qs) x ?_ ?_; rotate_left; intro hfun; clear_value x; rotate_left; unfold x)
    | (intro x; refine keep_cut_a (qs := qs) x ?_ ?_; rotate_left; intro hfun; clear_value x; rotate_left; unfold x)
    | (intro x; refine keep_cut_ab (qs := qs) x ?_ ?_; rotate_left; intro hfun; clear_value x; rotate_left; unfold x)
    | (intro x; refine keep_cut_abc (qs := qs) x ?_ ?_; rotate_left; intro hfun; clear_value x; rotate_left; unfold x)
    | (intro x; refine keep_cut_o1 (qs := qs) x ?_ ?_; rotate_left; intro hopt; clear_value x; rotate_left; unfold x)
    | (intro x; refine keep_cut_o (qs := qs) x ?_ ?_; rotate_left; intro hopt; clear_value x; rotate_left; unfold x)
    | (with_reducible refine hopt _ (by assumption))
    | (with_reducible exact hopt _ rfl)
    | (intro x; refine keep_cut_snd (qs := qs) x ?_ ?_; rotate_left; intro _; clear_value x; rotate_left; unfold x)
    | (intro x; clear_value x)
    | (with_reducible apply hfun)
    | (intro _)
    | split
    | (with_reducible apply AnswerKeeps.next)
    | (simp only [keep_mk, List.length_modify, List.length_map, List.length_replicate, List.length_zip, List.length_range, List.length_mapIdx, Nat.min_self])
    | (with_reducible apply Keep.toV)
    | (with_reducible apply keepV_roods)
    | (with_reducible apply keep_getD)
    | (with_reducible refine keepV_mem_nil hs ?_ ?_ ?_ ?_ ?_ ?_ ?_ ?_)
    | (rename_i he; split at he)
    | (rename_i he; injection he with he; subst he)

theorem issueDesc_keeps {qs : List Instr} (c n rd off : Nat) (s : State) (hs : Keep qs s) : Keep qs (issueDesc c n rd off s) := by
  delta issueDesc
  repeat' first
    | (with_reducible assumption)
    | (with_reducible rfl)
    | (with_reducible apply modCore_keeps)
    | (with_reducible apply modDesc_keeps)
    | (with_reducible apply markRead_keeps)
    | (with_reducible apply finish_keeps)
    | (with_reducible apply takeDesc_keeps)
    | (with_reducible apply logPoison_keeps)
    | (with_reducible apply stall_keeps)
    | (with_reducible refine fun _ => ?_)
    | lift_lets
    | (intro x; refine keep_cut (qs := qs) x ?_ ?_; rotate_left; intro _; clear_value x; rotate_left; unfold x)
    | (intro x; refine keep_cut_ss (qs := qs) x ?_ ?_; rotate_left; intro hfun; clear_value x; rotate_left; unfold x)
    | (intro x; refine keep_cut_ass (qs := qs) x ?_ ?_; rotate_left; intro hfun; clear_value x; rotate_left; unfold x)
    | (intro x; refine keep_cut_abss (qs := qs) x ?_ ?_; rotate_left; intro hfun; clear_value x; rotate_left; unfold x)
    | (intro x; refine keep_cut_a (qs := qs) x ?_ ?_; rotate_left; intro hfun; clear_value x; rotate_left; unfold x)
    | (intro x; refine keep_cut_ab (qs := qs) x ?_ ?_; rotate_left; intro hfun; clear_value x; rotate_left; unfold x)
    | (intro x; refine keep_cut_abc (qs := qs) x ?_ ?_; rotate_left; intro hfun; clear_value x; rotate_left; unfold x)
    | (intro x; refine keep_cut_o1 (qs := qs) x ?_ ?_; rotate_left; intro hopt; clear_value x; rotate_left; unfold x)
    | (intro x; refine keep_cut_o (qs := qs) x ?_ ?_; rotate_left; intro hopt; clear_value x; rotate_left; unfold x)
    | (with_reducible refine hopt _ (by assumption))
    | (with_reducible exact hopt _ rfl)
    | (intro x; refine keep_cut_snd (qs := qs) x ?_ ?_; rotate_left; intro _; clear_value x; rotate_left; unfold x)
    | (intro x; clear_value x)
    | (with_reducible apply hfun)
    | (intro _)
    | split
    | (with_reducible apply AnswerKeeps.next)
    | (simp only [keep_mk, List.length_modify, List.length_map, List.length_replicate, List.length_zip, List.length_range, List.length_mapIdx, Nat.min_self])
    | (with_reducible apply Keep.toV)
    | (with_reducible apply keepV_roods)
    | (with_reducible apply keep_getD)
    | (with_reducible refine keepV_mem_nil hs ?_ ?_ ?_ ?_ ?_ ?_ ?_ ?_)
    | (rename_i he; split at he)
    | (rename_i he; injection he with he; subst he)

theorem onCore_keeps {qs : List Instr} (c n : Nat) (f : Core → State → State) (s : State) (hs : Keep qs s) (hf : ∀ x0 x1, Keep qs x1 → Keep qs (f x0 x1)) : Keep qs (onCore c n f s) := by
  delta onCore
  repeat' first
    | (with_reducible assumption)
    | (with_reducible apply hf)
    | split

theorem execRun_keeps {qs : List Instr} (d : Nat) (s : State) (hs : Keep qs s) : AnswerKeeps qs (execRun d s) := by
  delta execRun
  repeat' first
    | (with_reducible assumption)
    | (with_reducible apply startRun_keeps)
    | split
    | (with_reducible apply AnswerKeeps.next)

theorem execTiIssue_keeps {qs : List Instr} (c n rd : Nat) (rs1 : Word) (s : State) (hs : Keep qs s) : AnswerKeeps qs (execTiIssue c n rd rs1 s) := by
  delta execTiIssue
  repeat' first
    | (with_reducible assumption)
    | (with_reducible apply stall_keeps)
    | (with_reducible apply trapCore_keeps)
    | (with_reducible apply issueDesc_keeps)
    | (with_reducible apply onCore_keeps)
    | (with_reducible refine fun _ => ?_)
    | split
    | (with_reducible apply AnswerKeeps.next)

theorem execTiWait_keeps {qs : List Instr} (c n rd : Nat) (rs1 : Word) (s : State) (hs : Keep qs s) : AnswerKeeps qs (execTiWait c n rd rs1 s) := by
  delta execTiWait
  repeat' first
    | (with_reducible assumption)
    | (with_reducible apply retireX_keeps)
    | (with_reducible apply stall_keeps)
    | (with_reducible apply onCore_keeps)
    | (with_reducible refine fun _ => ?_)
    | lift_lets
    | split
    | (with_reducible apply AnswerKeeps.next)

theorem execTiPoll_keeps {qs : List Instr} (c n rd : Nat) (rs1 : Word) (s : State) (hs : Keep qs s) : AnswerKeeps qs (execTiPoll c n rd rs1 s) := by
  delta execTiPoll
  repeat' first
    | (with_reducible assumption)
    | (with_reducible apply retireX_keeps)
    | (with_reducible apply onCore_keeps)
    | (with_reducible refine fun _ => ?_)
    | (with_reducible apply AnswerKeeps.next)

theorem execTiFence_keeps {qs : List Instr} (c n : Nat) (s : State) (hs : Keep qs s) : AnswerKeeps qs (execTiFence c n s) := by
  delta execTiFence
  repeat' first
    | (with_reducible assumption)
    | (with_reducible apply modCore_keeps)
    | (with_reducible apply stall_keeps)
    | (with_reducible apply onCore_keeps)
    | (with_reducible refine fun _ => ?_)
    | split
    | (with_reducible apply AnswerKeeps.next)

theorem execTiScw_keeps {qs : List Instr} (c n : Nat) (rs1 rs2 : Word) (s : State) (hs : Keep qs s) : AnswerKeeps qs (execTiScw c n rs1 rs2 s) := by
  delta execTiScw
  repeat' first
    | (with_reducible assumption)
    | (with_reducible apply modCluster_keeps)
    | (with_reducible apply modCore_keeps)
    | (with_reducible apply trapCore_keeps)
    | (with_reducible apply onCore_keeps)
    | (with_reducible refine fun _ => ?_)
    | lift_lets
    | (intro x; clear_value x)
    | split
    | (with_reducible apply AnswerKeeps.next)

theorem execTiScr_keeps {qs : List Instr} (c n rd : Nat) (rs1 : Word) (s : State) (hs : Keep qs s) : AnswerKeeps qs (execTiScr c n rd rs1 s) := by
  delta execTiScr
  repeat' first
    | (with_reducible assumption)
    | (with_reducible apply retireX_keeps)
    | (with_reducible apply onCore_keeps)
    | (with_reducible refine fun _ => ?_)
    | (with_reducible apply AnswerKeeps.next)

theorem execTiSumrd_keeps {qs : List Instr} (c n rd : Nat) (rs1 : Word) (s : State) (hs : Keep qs s) : AnswerKeeps qs (execTiSumrd c n rd rs1 s) := by
  delta execTiSumrd
  repeat' first
    | (with_reducible assumption)
    | (with_reducible apply retireX_keeps)
    | (with_reducible apply onCore_keeps)
    | (with_reducible refine fun _ => ?_)
    | (with_reducible apply AnswerKeeps.next)

theorem execTiSumst_keeps {qs : List Instr} (c n rd : Nat) (rs1 : Word) (s : State) (hs : Keep qs s) : AnswerKeeps qs (execTiSumst c n rd rs1 s) := by
  delta execTiSumst
  repeat' first
    | (with_reducible assumption)
    | (with_reducible apply retireX_keeps)
    | (with_reducible apply onCore_keeps)
    | (with_reducible refine fun _ => ?_)
    | lift_lets
    | (with_reducible apply AnswerKeeps.next)

theorem execTiSumwait_keeps {qs : List Instr} (c n : Nat) (rs1 rs2 : Word) (s : State) (hs : Keep qs s) : AnswerKeeps qs (execTiSumwait c n rs1 rs2 s) := by
  delta execTiSumwait
  repeat' first
    | (with_reducible assumption)
    | (with_reducible apply modCore_keeps)
    | (with_reducible apply stall_keeps)
    | (with_reducible apply onCore_keeps)
    | (with_reducible refine fun _ => ?_)
    | lift_lets
    | (intro x; clear_value x)
    | split
    | (with_reducible apply AnswerKeeps.next)

theorem execTiRod_keeps {qs : List Instr} (c n rd : Nat) (s : State) (hs : Keep qs s) : AnswerKeeps qs (execTiRod c n rd s) := by
  delta execTiRod
  repeat' first
    | (with_reducible assumption)
    | (with_reducible apply retireX_keeps)
    | (with_reducible apply onCore_keeps)
    | (with_reducible refine fun _ => ?_)
    | (with_reducible apply AnswerKeeps.next)

theorem execTiRodwait_keeps {qs : List Instr} (c n rd : Nat) (rs1 : Word) (s : State) (hs : Keep qs s) : AnswerKeeps qs (execTiRodwait c n rd rs1 s) := by
  delta execTiRodwait
  repeat' first
    | (with_reducible assumption)
    | (with_reducible apply retireX_keeps)
    | (with_reducible apply stall_keeps)
    | (with_reducible apply onCore_keeps)
    | (with_reducible refine fun _ => ?_)
    | lift_lets
    | (intro x; clear_value x)
    | split
    | (with_reducible apply AnswerKeeps.next)

theorem execTiSyncrd_keeps {qs : List Instr} (c n rd : Nat) (rs1 : Word) (s : State) (hs : Keep qs s) : AnswerKeeps qs (execTiSyncrd c n rd rs1 s) := by
  delta execTiSyncrd
  repeat' first
    | (with_reducible assumption)
    | (with_reducible apply retireX_keeps)
    | (with_reducible apply onCore_keeps)
    | (with_reducible refine fun _ => ?_)
    | (with_reducible apply AnswerKeeps.next)

theorem execTiSyncadd_keeps {qs : List Instr} (c n : Nat) (rs1 rs2 : Word) (s : State) (hs : Keep qs s) : AnswerKeeps qs (execTiSyncadd c n rs1 rs2 s) := by
  delta execTiSyncadd
  repeat' first
    | (with_reducible assumption)
    | (with_reducible apply modCore_keeps)
    | (with_reducible apply ctrAdd_keeps)
    | (with_reducible apply onCore_keeps)
    | (with_reducible refine fun _ => ?_)
    | (with_reducible apply AnswerKeeps.next)

theorem execTiSyncset_keeps {qs : List Instr} (c n : Nat) (rs1 rs2 : Word) (s : State) (hs : Keep qs s) : AnswerKeeps qs (execTiSyncset c n rs1 rs2 s) := by
  delta execTiSyncset
  repeat' first
    | (with_reducible assumption)
    | (with_reducible rfl)
    | (with_reducible apply modCore_keeps)
    | (with_reducible apply ctrPut_keeps)
    | (with_reducible apply onCore_keeps)
    | (with_reducible refine fun _ => ?_)
    | lift_lets
    | (intro x; refine keep_cut (qs := qs) x ?_ ?_; rotate_left; intro _; clear_value x; rotate_left; unfold x)
    | (intro x; refine keep_cut_ss (qs := qs) x ?_ ?_; rotate_left; intro hfun; clear_value x; rotate_left; unfold x)
    | (intro x; refine keep_cut_ass (qs := qs) x ?_ ?_; rotate_left; intro hfun; clear_value x; rotate_left; unfold x)
    | (intro x; refine keep_cut_abss (qs := qs) x ?_ ?_; rotate_left; intro hfun; clear_value x; rotate_left; unfold x)
    | (intro x; refine keep_cut_a (qs := qs) x ?_ ?_; rotate_left; intro hfun; clear_value x; rotate_left; unfold x)
    | (intro x; refine keep_cut_ab (qs := qs) x ?_ ?_; rotate_left; intro hfun; clear_value x; rotate_left; unfold x)
    | (intro x; refine keep_cut_abc (qs := qs) x ?_ ?_; rotate_left; intro hfun; clear_value x; rotate_left; unfold x)
    | (intro x; refine keep_cut_o1 (qs := qs) x ?_ ?_; rotate_left; intro hopt; clear_value x; rotate_left; unfold x)
    | (intro x; refine keep_cut_o (qs := qs) x ?_ ?_; rotate_left; intro hopt; clear_value x; rotate_left; unfold x)
    | (with_reducible refine hopt _ (by assumption))
    | (with_reducible exact hopt _ rfl)
    | (intro x; refine keep_cut_snd (qs := qs) x ?_ ?_; rotate_left; intro _; clear_value x; rotate_left; unfold x)
    | (intro x; clear_value x)
    | (with_reducible apply hfun)
    | (intro _)
    | split
    | (with_reducible apply AnswerKeeps.next)
    | (simp only [keep_mk, List.length_modify, List.length_map, List.length_replicate, List.length_zip, List.length_range, List.length_mapIdx, Nat.min_self])
    | (with_reducible apply Keep.toV)
    | (with_reducible apply keepV_roods)
    | (with_reducible apply keep_getD)
    | (with_reducible refine keepV_mem_nil hs ?_ ?_ ?_ ?_ ?_ ?_ ?_ ?_)
    | (rename_i he; split at he)
    | (rename_i he; injection he with he; subst he)

theorem execTiExit_keeps {qs : List Instr} (c n : Nat) (rs1 : Word) (s : State) (hs : Keep qs s) : AnswerKeeps qs (execTiExit c n rs1 s) := by
  delta execTiExit
  repeat' first
    | (with_reducible assumption)
    | (with_reducible apply modCore_keeps)
    | (with_reducible apply stall_keeps)
    | (with_reducible apply endProgram_keeps)
    | (with_reducible apply onCore_keeps)
    | (with_reducible refine fun _ => ?_)
    | lift_lets
    | (intro x; clear_value x)
    | split
    | (with_reducible apply AnswerKeeps.next)

theorem wakeCore_keeps {qs : List Instr} (c n : Nat) (k : Core) (w : CoreWait) (s : State) (hs : Keep qs s) : Keep qs (wakeCore c n k w s) := by
  delta wakeCore
  repeat' first
    | (with_reducible assumption)
    | (with_reducible apply modCore_keeps)
    | (with_reducible apply endProgram_keeps)
    | (with_reducible apply issueDesc_keeps)
    | lift_lets
    | (intro x; clear_value x)
    | split

theorem execCoreWaitWake_keeps {qs : List Instr} (c n : Nat) (s : State) (hs : Keep qs s) : AnswerKeeps qs (execCoreWaitWake c n s) := by
  delta execCoreWaitWake
  repeat' first
    | (with_reducible assumption)
    | (with_reducible rfl)
    | (with_reducible apply wakeCore_keeps)
    | (with_reducible refine fun _ => ?_)
    | lift_lets
    | (intro x; refine keep_cut (qs := qs) x ?_ ?_; rotate_left; intro _; clear_value x; rotate_left; unfold x)
    | (intro x; refine keep_cut_ss (qs := qs) x ?_ ?_; rotate_left; intro hfun; clear_value x; rotate_left; unfold x)
    | (intro x; refine keep_cut_ass (qs := qs) x ?_ ?_; rotate_left; intro hfun; clear_value x; rotate_left; unfold x)
    | (intro x; refine keep_cut_abss (qs := qs) x ?_ ?_; rotate_left; intro hfun; clear_value x; rotate_left; unfold x)
    | (intro x; refine keep_cut_a (qs := qs) x ?_ ?_; rotate_left; intro hfun; clear_value x; rotate_left; unfold x)
    | (intro x; refine keep_cut_ab (qs := qs) x ?_ ?_; rotate_left; intro hfun; clear_value x; rotate_left; unfold x)
    | (intro x; refine keep_cut_abc (qs := qs) x ?_ ?_; rotate_left; intro hfun; clear_value x; rotate_left; unfold x)
    | (intro x; refine keep_cut_o1 (qs := qs) x ?_ ?_; rotate_left; intro hopt; clear_value x; rotate_left; unfold x)
    | (intro x; refine keep_cut_o (qs := qs) x ?_ ?_; rotate_left; intro hopt; clear_value x; rotate_left; unfold x)
    | (with_reducible refine hopt _ (by assumption))
    | (with_reducible exact hopt _ rfl)
    | (intro x; refine keep_cut_snd (qs := qs) x ?_ ?_; rotate_left; intro _; clear_value x; rotate_left; unfold x)
    | (intro x; clear_value x)
    | (with_reducible apply hfun)
    | (intro _)
    | split
    | (with_reducible apply AnswerKeeps.next)
    | (simp only [keep_mk, List.length_modify, List.length_map, List.length_replicate, List.length_zip, List.length_range, List.length_mapIdx, Nat.min_self])
    | (with_reducible apply Keep.toV)
    | (with_reducible apply keepV_roods)
    | (with_reducible apply keep_getD)
    | (with_reducible refine keepV_mem_nil hs ?_ ?_ ?_ ?_ ?_ ?_ ?_ ?_)
    | (rename_i he; split at he)
    | (rename_i he; injection he with he; subst he)

theorem programTrap_keeps {qs : List Instr} (c n mcause addr : Nat) (s : State) (hs : Keep qs s) : Keep qs (programTrap c n mcause addr s) := by
  delta programTrap
  repeat' first
    | (with_reducible assumption)
    | (with_reducible rfl)
    | (with_reducible apply logRingRefused_keeps)
    | (with_reducible apply trapCore_keeps)
    | (with_reducible refine fun _ => ?_)
    | lift_lets
    | (intro x; refine keep_cut (qs := qs) x ?_ ?_; rotate_left; intro _; clear_value x; rotate_left; unfold x)
    | (intro x; refine keep_cut_ss (qs := qs) x ?_ ?_; rotate_left; intro hfun; clear_value x; rotate_left; unfold x)
    | (intro x; refine keep_cut_ass (qs := qs) x ?_ ?_; rotate_left; intro hfun; clear_value x; rotate_left; unfold x)
    | (intro x; refine keep_cut_abss (qs := qs) x ?_ ?_; rotate_left; intro hfun; clear_value x; rotate_left; unfold x)
    | (intro x; refine keep_cut_a (qs := qs) x ?_ ?_; rotate_left; intro hfun; clear_value x; rotate_left; unfold x)
    | (intro x; refine keep_cut_ab (qs := qs) x ?_ ?_; rotate_left; intro hfun; clear_value x; rotate_left; unfold x)
    | (intro x; refine keep_cut_abc (qs := qs) x ?_ ?_; rotate_left; intro hfun; clear_value x; rotate_left; unfold x)
    | (intro x; refine keep_cut_o1 (qs := qs) x ?_ ?_; rotate_left; intro hopt; clear_value x; rotate_left; unfold x)
    | (intro x; refine keep_cut_o (qs := qs) x ?_ ?_; rotate_left; intro hopt; clear_value x; rotate_left; unfold x)
    | (with_reducible refine hopt _ (by assumption))
    | (with_reducible exact hopt _ rfl)
    | (intro x; refine keep_cut_snd (qs := qs) x ?_ ?_; rotate_left; intro _; clear_value x; rotate_left; unfold x)
    | (intro x; clear_value x)
    | (with_reducible apply hfun)
    | (intro _)
    | split
    | (with_reducible apply AnswerKeeps.next)
    | (simp only [keep_mk, List.length_modify, List.length_map, List.length_replicate, List.length_zip, List.length_range, List.length_mapIdx, Nat.min_self])
    | (with_reducible apply Keep.toV)
    | (with_reducible apply keepV_roods)
    | (with_reducible apply keep_getD)
    | (with_reducible refine keepV_mem_nil hs ?_ ?_ ?_ ?_ ?_ ?_ ?_ ?_)
    | (rename_i he; split at he)
    | (rename_i he; injection he with he; subst he)

theorem execCoreTrap_keeps {qs : List Instr} (c n : Nat) (_kind : TrapKind) (mcause addr : Nat) (s : State) (hs : Keep qs s) : AnswerKeeps qs (execCoreTrap c n _kind mcause addr s) := by
  delta execCoreTrap
  repeat' first
    | (with_reducible assumption)
    | (with_reducible rfl)
    | (with_reducible apply onCore_keeps)
    | (with_reducible apply programTrap_keeps)
    | (with_reducible refine fun _ => ?_)
    | lift_lets
    | (intro x; refine keep_cut (qs := qs) x ?_ ?_; rotate_left; intro _; clear_value x; rotate_left; unfold x)
    | (intro x; refine keep_cut_ss (qs := qs) x ?_ ?_; rotate_left; intro hfun; clear_value x; rotate_left; unfold x)
    | (intro x; refine keep_cut_ass (qs := qs) x ?_ ?_; rotate_left; intro hfun; clear_value x; rotate_left; unfold x)
    | (intro x; refine keep_cut_abss (qs := qs) x ?_ ?_; rotate_left; intro hfun; clear_value x; rotate_left; unfold x)
    | (intro x; refine keep_cut_a (qs := qs) x ?_ ?_; rotate_left; intro hfun; clear_value x; rotate_left; unfold x)
    | (intro x; refine keep_cut_ab (qs := qs) x ?_ ?_; rotate_left; intro hfun; clear_value x; rotate_left; unfold x)
    | (intro x; refine keep_cut_abc (qs := qs) x ?_ ?_; rotate_left; intro hfun; clear_value x; rotate_left; unfold x)
    | (intro x; refine keep_cut_o1 (qs := qs) x ?_ ?_; rotate_left; intro hopt; clear_value x; rotate_left; unfold x)
    | (intro x; refine keep_cut_o (qs := qs) x ?_ ?_; rotate_left; intro hopt; clear_value x; rotate_left; unfold x)
    | (with_reducible refine hopt _ (by assumption))
    | (with_reducible exact hopt _ rfl)
    | (intro x; refine keep_cut_snd (qs := qs) x ?_ ?_; rotate_left; intro _; clear_value x; rotate_left; unfold x)
    | (intro x; clear_value x)
    | (with_reducible apply hfun)
    | (intro _)
    | split
    | (with_reducible apply AnswerKeeps.next)
    | (simp only [keep_mk, List.length_modify, List.length_map, List.length_replicate, List.length_zip, List.length_range, List.length_mapIdx, Nat.min_self])
    | (with_reducible apply Keep.toV)
    | (with_reducible apply keepV_roods)
    | (with_reducible apply keep_getD)
    | (with_reducible refine keepV_mem_nil hs ?_ ?_ ?_ ?_ ?_ ?_ ?_ ?_)
    | (rename_i he; split at he)
    | (rename_i he; injection he with he; subst he)

end Sys2Proof.Laws
end

