-- ==== Sys2Proof/Laws/KeepFabric.lean ====
section
/-! SUPPORT. What every operation of Machine/Fabric.lean keeps: the waiting commands, the clock grid, the canonical form of the memories and
the bound of the event ring (Laws/Keep.lean). -/
namespace Sys2Proof.Laws

set_option linter.unusedSimpArgs false

open Sys2Proof.Machine Sys2Proof.Safety

theorem modXfer_keeps {qs : List Instr} (x : Nat) (f : Xfer → Xfer) (s : State) (hs : Keep qs s) : Keep qs (modXfer x f s) := by
  delta modXfer
  repeat' first
    | (with_reducible assumption)
    | (with_reducible apply modFab_keeps)

theorem endXfer_keeps {qs : List Instr} (x : Nat) (k : Xfer) (st : Nat) (s : State) (hs : Keep qs s) : Keep qs (endXfer x k st s) := by
  delta endXfer
  repeat' first
    | (with_reducible assumption)
    | (with_reducible rfl)
    | (with_reducible apply modBind_keeps)
    | (with_reducible apply modFab_keeps)
    | (with_reducible apply finish_keeps)
    | (with_reducible refine fun _ => ?_)
    | lift_lets
    | (intro x; refine keep_cut (qs := qs) x ?_ ?_; rotate_left; intro _; clear_value x; rotate_left; unfold x)
    | (intro x; refine keep_cut_ss (qs := qs) x ?_ ?_; rotate_left; intro hfun; clear_value x; rotate_left; unfold x)
    | (intro x; refine keep_cut_ass (qs := qs) x ?_ ?_; rotate_left; intro hfun; clear_value x; rotate_left; unfold x)
    | (intro x; refine keep_cut_abss (qs := qs) x ?_ ?_; rotate_left; intro hfun; clear_value x; rotate_left; unfold x)
    | (intro x; refine keep_cut_a (qs := qs) x ?_ ?_; rotate_left; intro hfun; clear_value x; rotate_left; unfold x)
    | (intro x; refine keep_cut_ab (qs := qs) x ?_ ?_; rotate_left; intro hfun; clear_value x; rotate_left; unfold x)
    | (intro x; refine keep_cut_abc (qs := qs) x ?_ ?_; rotate_left; intro hfun; clear_value x; rotate_left; unfold x)
    | (intro x; refine keep_cut_o1 (qs := qs) x ?_ ?_; rotate_left; intro hopt; clear_value x; rotate_left; unfold x)
    | (intro x; refine keep_cut_o (qs := qs) x ?_ ?_; rotate_left; intro hopt; clear_value x; rotate_left; unfold x)
    | (with_reducible refine hopt _ (by assumption))
    | (with_reducible exact hopt _ rfl)
    | (intro x; refine keep_cut_snd (qs := qs) x ?_ ?_; rotate_left; intro _; clear_value x; rotate_left; unfold x)
    | (intro x; clear_value x)
    | (with_reducible apply hfun)
    | (intro _)
    | split
    | (with_reducible apply AnswerKeeps.next)
    | (simp only [keep_mk, List.length_modify, List.length_map, List.length_replicate, List.length_zip, List.length_range, List.length_mapIdx, Nat.min_self])
    | (with_reducible apply Keep.toV)
    | (with_reducible apply keepV_roods)
    | (with_reducible apply keep_getD)
    | (with_reducible refine keepV_mem_nil hs ?_ ?_ ?_ ?_ ?_ ?_ ?_ ?_)
    | (rename_i he; split at he)
    | (rename_i he; injection he with he; subst he)

theorem sendAll_keeps {qs : List Instr} (noDetour : Bool) (ps : List Packet) (s : State) (hs : Keep qs s) : Keep qs (sendAll noDetour ps s) := by
  delta sendAll
  repeat' first
    | (with_reducible assumption)
    | (with_reducible apply forAll_keeps)
    | (with_reducible apply sendOn_keeps)
    | (with_reducible apply sendAdaptive_keeps)
    | (with_reducible refine fun _ => ?_)
    | split

theorem sendXfer_keeps {qs : List Instr} (x slot : Nat) (k : Xfer) (s : State) (hs : Keep qs s) : Keep qs (sendXfer x slot k s) := by
  delta sendXfer
  repeat' first
    | (with_reducible assumption)
    | (with_reducible rfl)
    | (with_reducible apply modFab_keeps)
    | (with_reducible apply raiseFab_keeps)
    | (with_reducible apply logPoison_keeps)
    | (with_reducible apply modXfer_keeps)
    | (with_reducible apply endXfer_keeps)
    | (with_reducible apply sendAll_keeps)
    | (with_reducible refine fun _ => ?_)
    | lift_lets
    | (intro x; refine keep_cut (qs := qs) x ?_ ?_; rotate_left; intro _; clear_value x; rotate_left; unfold x)
    | (intro x; refine keep_cut_ss (qs := qs) x ?_ ?_; rotate_left; intro hfun; clear_value x; rotate_left; unfold x)
    | (intro x; refine keep_cut_ass (qs := qs) x ?_ ?_; rotate_left; intro hfun; clear_value x; rotate_left; unfold x)
    | (intro x; refine keep_cut_abss (qs := qs) x ?_ ?_; rotate_left; intro hfun; clear_value x; rotate_left; unfold x)
    | (intro x; refine keep_cut_a (qs := qs) x ?_ ?_; rotate_left; intro hfun; clear_value x; rotate_left; unfold x)
    | (intro x; refine keep_cut_ab (qs := qs) x ?_ ?_; rotate_left; intro hfun; clear_value x; rotate_left; unfold x)
    | (intro x; refine keep_cut_abc (qs := qs) x ?_ ?_; rotate_left; intro hfun; clear_value x; rotate_left; unfold x)
    | (intro x; refine keep_cut_o1 (qs := qs) x ?_ ?_; rotate_left; intro hopt; clear_value x; rotate_left; unfold x)
    | (intro x; refine keep_cut_o (qs := qs) x ?_ ?_; rotate_left; intro hopt; clear_value x; rotate_left; unfold x)
    | (with_reducible refine hopt _ (by assumption))
    | (with_reducible exact hopt _ rfl)
    | (intro x; refine keep_cut_snd (qs := qs) x ?_ ?_; rotate_left; intro _; clear_value x; rotate_left; unfold x)
    | (intro x; clear_value x)
    | (with_reducible apply hfun)
    | (intro _)
    | split
    | (with_reducible apply AnswerKeeps.next)
    | (simp only [keep_mk, List.length_modify, List.length_map, List.length_replicate, List.length_zip, List.length_range, List.length_mapIdx, Nat.min_self])
    | (with_reducible apply Keep.toV)
    | (with_reducible apply keepV_roods)
    | (with_reducible apply keep_getD)
    | (with_reducible refine keepV_mem_nil hs ?_ ?_ ?_ ?_ ?_ ?_ ?_ ?_)
    | (rename_i he; split at he)
    | (rename_i he; injection he with he; subst he)

theorem countSent_keeps {qs : List Instr} (d n : Nat) (s : State) (hs : Keep qs s) : Keep qs (countSent d n s) := by
  delta countSent
  repeat' first
    | (with_reducible assumption)
    | (with_reducible apply modDesc_keeps)

theorem injectXfer_keeps {qs : List Instr} (x : Nat) (bushel : Bool) (s : State) (hs : Keep qs s) : Keep qs (injectXfer x bushel s) := by
  delta injectXfer
  repeat' first
    | (with_reducible assumption)
    | (with_reducible rfl)
    | (with_reducible apply modXfer_keeps)
    | (with_reducible apply sendXfer_keeps)
    | (with_reducible apply countSent_keeps)
    | (with_reducible refine fun _ => ?_)
    | lift_lets
    | (intro x; refine keep_cut (qs := qs) x ?_ ?_; rotate_left; intro _; clear_value x; rotate_left; unfold x)
    | (intro x; refine keep_cut_ss (qs := qs) x ?_ ?_; rotate_left; intro hfun; clear_value x; rotate_left; unfold x)
    | (intro x; refine keep_cut_ass (qs := qs) x ?_ ?_; rotate_left; intro hfun; clear_value x; rotate_left; unfold x)
    | (intro x; refine keep_cut_abss (qs := qs) x ?_ ?_; rotate_left; intro hfun; clear_value x; rotate_left; unfold x)
    | (intro x; refine keep_cut_a (qs := qs) x ?_ ?_; rotate_left; intro hfun; clear_value x; rotate_left; unfold x)
    | (intro x; refine keep_cut_ab (qs := qs) x ?_ ?_; rotate_left; intro hfun; clear_value x; rotate_left; unfold x)
    | (intro x; refine keep_cut_abc (qs := qs) x ?_ ?_; rotate_left; intro hfun; clear_value x; rotate_left; unfold x)
    | (intro x; refine keep_cut_o1 (qs := qs) x ?_ ?_; rotate_left; intro hopt; clear_value x; rotate_left; unfold x)
    | (intro x; refine keep_cut_o (qs := qs) x ?_ ?_; rotate_left; intro hopt; clear_value x; rotate_left; unfold x)
    | (with_reducible refine hopt _ (by assumption))
    | (with_reducible exact hopt _ rfl)
    | (intro x; refine keep_cut_snd (qs := qs) x ?_ ?_; rotate_left; intro _; clear_value x; rotate_left; unfold x)
    | (intro x; clear_value x)
    | (with_reducible apply hfun)
    | (intro _)
    | split
    | (with_reducible apply AnswerKeeps.next)
    | (simp only [keep_mk, List.length_modify, List.length_map, List.length_replicate, List.length_zip, List.length_range, List.length_mapIdx, Nat.min_self])
    | (with_reducible apply Keep.toV)
    | (with_reducible apply keepV_roods)
    | (with_reducible apply keep_getD)
    | (with_reducible refine keepV_mem_nil hs ?_ ?_ ?_ ?_ ?_ ?_ ?_ ?_)
    | (rename_i he; split at he)
    | (rename_i he; injection he with he; subst he)

theorem openXfer_keeps {qs : List Instr} (d rood : Nat) (b : XferBody) (s : State) (hs : Keep qs s) : Keep qs (openXfer d rood b s) := by
  delta openXfer
  repeat' first
    | (with_reducible assumption)
    | (with_reducible apply modFab_keeps)

theorem startXfer_keeps {qs : List Instr} (d : Nat) (e : Desc) (b : XferBody) (s : State) (hs : Keep qs s) : Keep qs (startXfer d e b s) := by
  delta startXfer
  repeat' first
    | (with_reducible assumption)
    | (with_reducible rfl)
    | (with_reducible apply markStarted_keeps)
    | (with_reducible apply openXfer_keeps)
    | (with_reducible refine fun _ => ?_)
    | lift_lets
    | (intro x; refine keep_cut (qs := qs) x ?_ ?_; rotate_left; intro _; clear_value x; rotate_left; unfold x)
    | (intro x; refine keep_cut_ss (qs := qs) x ?_ ?_; rotate_left; intro hfun; clear_value x; rotate_left; unfold x)
    | (intro x; refine keep_cut_ass (qs := qs) x ?_ ?_; rotate_left; intro hfun; clear_value x; rotate_left; unfold x)
    | (intro x; refine keep_cut_abss (qs := qs) x ?_ ?_; rotate_left; intro hfun; clear_value x; rotate_left; unfold x)
    | (intro x; refine keep_cut_a (qs := qs) x ?_ ?_; rotate_left; intro hfun; clear_value x; rotate_left; unfold x)
    | (intro x; refine keep_cut_ab (qs := qs) x ?_ ?_; rotate_left; intro hfun; clear_value x; rotate_left; unfold x)
    | (intro x; refine keep_cut_abc (qs := qs) x ?_ ?_; rotate_left; intro hfun; clear_value x; rotate_left; unfold x)
    | (intro x; refine keep_cut_o1 (qs := qs) x ?_ ?_; rotate_left; intro hopt; clear_value x; rotate_left; unfold x)
    | (intro x; refine keep_cut_o (qs := qs) x ?_ ?_; rotate_left; intro hopt; clear_value x; rotate_left; unfold x)
    | (with_reducible refine hopt _ (by assumption))
    | (with_reducible exact hopt _ rfl)
    | (intro x; refine keep_cut_snd (qs := qs) x ?_ ?_; rotate_left; intro _; clear_value x; rotate_left; unfold x)
    | (intro x; clear_value x)
    | (with_reducible apply hfun)
    | (intro _)
    | split
    | (with_reducible apply AnswerKeeps.next)
    | (simp only [keep_mk, List.length_modify, List.length_map, List.length_replicate, List.length_zip, List.length_range, List.length_mapIdx, Nat.min_self])
    | (with_reducible apply Keep.toV)
    | (with_reducible apply keepV_roods)
    | (with_reducible apply keep_getD)
    | (with_reducible refine keepV_mem_nil hs ?_ ?_ ?_ ?_ ?_ ?_ ?_ ?_)
    | (rename_i he; split at he)
    | (rename_i he; injection he with he; subst he)

theorem startXferIf_keeps {qs : List Instr} (p : XferBody → Bool) (d : Nat) (s : State) (hs : Keep qs s) : Keep qs (startXferIf p d s) := by
  delta startXferIf
  repeat' first
    | (with_reducible assumption)
    | (with_reducible apply startXfer_keeps)
    | split

theorem forwardPkt_keeps {qs : List Instr} (p : Packet) (s : State) (hs : Keep qs s) : Keep qs (forwardPkt p s) := by
  delta forwardPkt
  repeat' first
    | (with_reducible assumption)
    | (with_reducible apply putOut_keeps)
    | split

theorem arriving_keeps {qs : List Instr} (p : Packet) (f : State → State) (s : State) (hs : Keep qs s) (hf : ∀ x0, Keep qs x0 → Keep qs (f x0)) : Keep qs (arriving p f s) := by
  delta arriving
  repeat' first
    | (with_reducible assumption)
    | (with_reducible rfl)
    | (with_reducible apply hf)
    | (with_reducible apply countStale_keeps)
    | (with_reducible apply dropMalformed_keeps)
    | (with_reducible apply forwardPkt_keeps)
    | (with_reducible refine fun _ => ?_)
    | lift_lets
    | (intro x; refine keep_cut (qs := qs) x ?_ ?_; rotate_left; intro _; clear_value x; rotate_left; unfold x)
    | (intro x; refine keep_cut_ss (qs := qs) x ?_ ?_; rotate_left; intro hfun; clear_value x; rotate_left; unfold x)
    | (intro x; refine keep_cut_ass (qs := qs) x ?_ ?_; rotate_left; intro hfun; clear_value x; rotate_left; unfold x)
    | (intro x; refine keep_cut_abss (qs := qs) x ?_ ?_; rotate_left; intro hfun; clear_value x; rotate_left; unfold x)
    | (intro x; refine keep_cut_a (qs := qs) x ?_ ?_; rotate_left; intro hfun; clear_value x; rotate_left; unfold x)
    | (intro x; refine keep_cut_ab (qs := qs) x ?_ ?_; rotate_left; intro hfun; clear_value x; rotate_left; unfold x)
    | (intro x; refine keep_cut_abc (qs := qs) x ?_ ?_; rotate_left; intro hfun; clear_value x; rotate_left; unfold x)
    | (intro x; refine keep_cut_o1 (qs := qs) x ?_ ?_; rotate_left; intro hopt; clear_value x; rotate_left; unfold x)
    | (intro x; refine keep_cut_o (qs := qs) x ?_ ?_; rotate_left; intro hopt; clear_value x; rotate_left; unfold x)
    | (with_reducible refine hopt _ (by assumption))
    | (with_reducible exact hopt _ rfl)
    | (intro x; refine keep_cut_snd (qs := qs) x ?_ ?_; rotate_left; intro _; clear_value x; rotate_left; unfold x)
    | (intro x; clear_value x)
    | (with_reducible apply hfun)
    | (intro _)
    | split
    | (with_reducible apply AnswerKeeps.next)
    | (simp only [keep_mk, List.length_modify, List.length_map, List.length_replicate, List.length_zip, List.length_range, List.length_mapIdx, Nat.min_self])
    | (with_reducible apply Keep.toV)
    | (with_reducible apply keepV_roods)
    | (with_reducible apply keep_getD)
    | (with_reducible refine keepV_mem_nil hs ?_ ?_ ?_ ?_ ?_ ?_ ?_ ?_)
    | (rename_i he; split at he)
    | (rename_i he; injection he with he; subst he)

theorem intoEntry_keeps_eq {qs : List Instr} (p : Packet) (s : State) {tOut : State} (hs : Keep qs s) (e : intoEntry p s = some tOut) : Keep qs tOut := by
  unfold intoEntry at e
  try dsimp only at e
  repeat' split at e
  all_goals try cases e
  all_goals repeat' first
    | (with_reducible assumption)
    | (with_reducible apply modFab_keeps)

theorem countPkt_keeps {qs : List Instr} (p : Packet) (st : Nat) (s : State) (hs : Keep qs s) : Keep qs (countPkt p st s) := by
  delta countPkt
  repeat' first
    | (with_reducible assumption)
    | (with_reducible rfl)
    | (with_reducible apply modFab_keeps)
    | (with_reducible refine fun _ => ?_)
    | lift_lets
    | (intro x; refine keep_cut (qs := qs) x ?_ ?_; rotate_left; intro _; clear_value x; rotate_left; unfold x)
    | (intro x; refine keep_cut_ss (qs := qs) x ?_ ?_; rotate_left; intro hfun; clear_value x; rotate_left; unfold x)
    | (intro x; refine keep_cut_ass (qs := qs) x ?_ ?_; rotate_left; intro hfun; clear_value x; rotate_left; unfold x)
    | (intro x; refine keep_cut_abss (qs := qs) x ?_ ?_; rotate_left; intro hfun; clear_value x; rotate_left; unfold x)
    | (intro x; refine keep_cut_a (qs := qs) x ?_ ?_; rotate_left; intro hfun; clear_value x; rotate_left; unfold x)
    | (intro x; refine keep_cut_ab (qs := qs) x ?_ ?_; rotate_left; intro hfun; clear_value x; rotate_left; unfold x)
    | (intro x; refine keep_cut_abc (qs := qs) x ?_ ?_; rotate_left; intro hfun; clear_value x; rotate_left; unfold x)
    | (intro x; refine keep_cut_o1 (qs := qs) x ?_ ?_; rotate_left; intro hopt; clear_value x; rotate_left; unfold x)
    | (intro x; refine keep_cut_o (qs := qs) x ?_ ?_; rotate_left; intro hopt; clear_value x; rotate_left; unfold x)
    | (with_reducible refine hopt _ (by assumption))
    | (with_reducible exact hopt _ rfl)
    | (intro x; refine keep_cut_snd (qs := qs) x ?_ ?_; rotate_left; intro _; clear_value x; rotate_left; unfold x)
    | (intro x; clear_value x)
    | (with_reducible apply hfun)
    | (intro _)
    | split
    | (with_reducible apply AnswerKeeps.next)
    | (simp only [keep_mk, List.length_modify, List.length_map, List.length_replicate, List.length_zip, List.length_range, List.length_mapIdx, Nat.min_self])
    | (with_reducible apply Keep.toV)
    | (with_reducible apply keepV_roods)
    | (with_reducible apply keep_getD)
    | (with_reducible refine keepV_mem_nil hs ?_ ?_ ?_ ?_ ?_ ?_ ?_ ?_)
    | (rename_i he; split at he)
    | (rename_i he; injection he with he; subst he)

theorem refusePkt_keeps {qs : List Instr} (p : Packet) (st : Nat) (s : State) (hs : Keep qs s) : Keep qs (refusePkt p st s) := by
  delta refusePkt
  repeat' first
    | (with_reducible assumption)
    | (with_reducible apply modFab_keeps)
    | (with_reducible apply logEv_keeps)
    | (with_reducible apply raiseFab_keeps)
    | (with_reducible apply countPkt_keeps)
    | lift_lets
    | (intro x; refine keep_cut (qs := qs) x ?_ ?_; rotate_left; intro _; clear_value x; rotate_left; unfold x)
    | (intro x; clear_value x)
    | split

theorem fabricWriteCheck_keeps {qs : List Instr} (w : Writer) (r a n : Nat) (s : State) (hs : Keep qs s) : Keep qs (fabricWriteCheck w r a n s).2 := by
  delta fabricWriteCheck
  repeat' first
    | (with_reducible assumption)
    | (with_reducible apply logUnmapped_keeps)
    | (with_reducible apply logRingRefused_keeps)
    | (with_reducible apply logRefused_keeps)
    | split

theorem fabricWriteCheck_keeps_eq {qs : List Instr} (w : Writer) (r a n : Nat) (s : State) {tOut : State} {outv : _} (hs : Keep qs s) (e : fabricWriteCheck w r a n s = (outv, tOut)) : Keep qs tOut := by
  have := fabricWriteCheck_keeps (qs := qs) w r a n s hs
  rw [e] at this; exact this

theorem fabricPut_keeps {qs : List Instr} (a : Nat) (bs : List Byte) (s : State) (hs : Keep qs s) : Keep qs (fabricPut a bs s) := by
  delta fabricPut
  repeat' first
    | (with_reducible assumption)
    | (with_reducible apply wrBytes_keeps)
    | (with_reducible apply clearPoison_keeps)

theorem writeImage_keeps {qs : List Instr} (p : Packet) (s : State) (hs : Keep qs s) : Keep qs (writeImage p s) := by
  delta writeImage
  repeat' first
    | (with_reducible assumption)
    | (with_reducible apply putBushel_keeps)
    | (with_reducible apply countPkt_keeps)
    | (with_reducible apply refusePkt_keeps)
    | (with_reducible refine fabricWriteCheck_keeps_eq _ _ _ _ _ ?_ (by assumption))
    | (with_reducible apply fabricPut_keeps)
    | lift_lets
    | (intro x; clear_value x)
    | split

theorem writePkt_keeps {qs : List Instr} (p : Packet) (s : State) (hs : Keep qs s) : Keep qs (writePkt p s) := by
  delta writePkt
  repeat' first
    | (with_reducible assumption)
    | (with_reducible apply countStale_keeps)
    | (with_reducible refine intoEntry_keeps_eq _ _ ?_ (by assumption))
    | (with_reducible apply countPkt_keeps)
    | (with_reducible apply refusePkt_keeps)
    | (with_reducible refine fabricWriteCheck_keeps_eq _ _ _ _ _ ?_ (by assumption))
    | (with_reducible apply fabricPut_keeps)
    | (with_reducible apply writeImage_keeps)
    | split

theorem readPkt_keeps {qs : List Instr} (p : Packet) (s : State) (hs : Keep qs s) : Keep qs (readPkt p s) := by
  delta readPkt
  repeat' first
    | (with_reducible assumption)
    | (with_reducible rfl)
    | (with_reducible apply modFab_keeps)
    | (with_reducible apply logUnmapped_keeps)
    | (with_reducible apply markRead_keeps)
    | (with_reducible apply logPoison_keeps)
    | (with_reducible apply stall_keeps)
    | (with_reducible apply countStale_keeps)
    | (with_reducible apply sendAll_keeps)
    | (with_reducible refine intoEntry_keeps_eq _ _ ?_ (by assumption))
    | (with_reducible apply countPkt_keeps)
    | (with_reducible apply refusePkt_keeps)
    | (with_reducible refine fun _ => ?_)
    | lift_lets
    | (intro x; refine keep_cut (qs := qs) x ?_ ?_; rotate_left; intro _; clear_value x; rotate_left; unfold x)
    | (intro x; refine keep_cut_ss (qs := qs) x ?_ ?_; rotate_left; intro hfun; clear_value x; rotate_left; unfold x)
    | (intro x; refine keep_cut_ass (qs := qs) x ?_ ?_; rotate_left; intro hfun; clear_value x; rotate_left; unfold x)
    | (intro x; refine keep_cut_abss (qs := qs) x ?_ ?_; rotate_left; intro hfun; clear_value x; rotate_left; unfold x)
    | (intro x; refine keep_cut_a (qs := qs) x ?_ ?_; rotate_left; intro hfun; clear_value x; rotate_left; unfold x)
    | (intro x; refine keep_cut_ab (qs := qs) x ?_ ?_; rotate_left; intro hfun; clear_value x; rotate_left; unfold x)
    | (intro x; refine keep_cut_abc (qs := qs) x ?_ ?_; rotate_left; intro hfun; clear_value x; rotate_left; unfold x)
    | (intro x; refine keep_cut_o1 (qs := qs) x ?_ ?_; rotate_left; intro hopt; clear_value x; rotate_left; unfold x)
    | (intro x; refine keep_cut_o (qs := qs) x ?_ ?_; rotate_left; intro hopt; clear_value x; rotate_left; unfold x)
    | (with_reducible refine hopt _ (by assumption))
    | (with_reducible exact hopt _ rfl)
    | (intro x; refine keep_cut_snd (qs := qs) x ?_ ?_; rotate_left; intro _; clear_value x; rotate_left; unfold x)
    | (intro x; clear_value x)
    | (with_reducible apply hfun)
    | (intro _)
    | split
    | (with_reducible apply AnswerKeeps.next)
    | (simp only [keep_mk, List.length_modify, List.length_map, List.length_replicate, List.length_zip, List.length_range, List.length_mapIdx, Nat.min_self])
    | (with_reducible apply Keep.toV)
    | (with_reducible apply keepV_roods)
    | (with_reducible apply keep_getD)
    | (with_reducible refine keepV_mem_nil hs ?_ ?_ ?_ ?_ ?_ ?_ ?_ ?_)
    | (rename_i he; split at he)
    | (rename_i he; injection he with he; subst he)

theorem readRespPkt_keeps {qs : List Instr} (p : Packet) (s : State) (hs : Keep qs s) : Keep qs (readRespPkt p s) := by
  delta readRespPkt
  repeat' first
    | (with_reducible assumption)
    | (with_reducible apply countStale_keeps)
    | (with_reducible apply modXfer_keeps)
    | (with_reducible apply endXfer_keeps)
    | (with_reducible apply fabricWriteCheck_keeps)
    | (with_reducible apply fabricPut_keeps)
    | lift_lets
    | split
    | (simp only [keep_mk, List.length_modify, List.length_map, List.length_replicate, List.length_zip, List.length_range, List.length_mapIdx, Nat.min_self])

theorem latePart_keeps {qs : List Instr} (p : Packet) (s : State) (hs : Keep qs s) : Keep qs (latePart p s) := by
  delta latePart
  repeat' first
    | (with_reducible assumption)
    | (with_reducible rfl)
    | (with_reducible apply modFab_keeps)
    | (with_reducible apply logCluster_keeps)
    | (with_reducible apply raiseFab_keeps)
    | (with_reducible apply countPkt_keeps)
    | (with_reducible refine fun _ => ?_)
    | lift_lets
    | (intro x; refine keep_cut (qs := qs) x ?_ ?_; rotate_left; intro _; clear_value x; rotate_left; unfold x)
    | (intro x; refine keep_cut_ss (qs := qs) x ?_ ?_; rotate_left; intro hfun; clear_value x; rotate_left; unfold x)
    | (intro x; refine keep_cut_ass (qs := qs) x ?_ ?_; rotate_left; intro hfun; clear_value x; rotate_left; unfold x)
    | (intro x; refine keep_cut_abss (qs := qs) x ?_ ?_; rotate_left; intro hfun; clear_value x; rotate_left; unfold x)
    | (intro x; refine keep_cut_a (qs := qs) x ?_ ?_; rotate_left; intro hfun; clear_value x; rotate_left; unfold x)
    | (intro x; refine keep_cut_ab (qs := qs) x ?_ ?_; rotate_left; intro hfun; clear_value x; rotate_left; unfold x)
    | (intro x; refine keep_cut_abc (qs := qs) x ?_ ?_; rotate_left; intro hfun; clear_value x; rotate_left; unfold x)
    | (intro x; refine keep_cut_o1 (qs := qs) x ?_ ?_; rotate_left; intro hopt; clear_value x; rotate_left; unfold x)
    | (intro x; refine keep_cut_o (qs := qs) x ?_ ?_; rotate_left; intro hopt; clear_value x; rotate_left; unfold x)
    | (with_reducible refine hopt _ (by assumption))
    | (with_reducible exact hopt _ rfl)
    | (intro x; refine keep_cut_snd (qs := qs) x ?_ ?_; rotate_left; intro _; clear_value x; rotate_left; unfold x)
    | (intro x; clear_value x)
    | (with_reducible apply hfun)
    | (intro _)
    | split
    | (with_reducible apply AnswerKeeps.next)
    | (simp only [keep_mk, List.length_modify, List.length_map, List.length_replicate, List.length_zip, List.length_range, List.length_mapIdx, Nat.min_self])
    | (with_reducible apply Keep.toV)
    | (with_reducible apply keepV_roods)
    | (with_reducible apply keep_getD)
    | (with_reducible refine keepV_mem_nil hs ?_ ?_ ?_ ?_ ?_ ?_ ?_ ?_)
    | (rename_i he; split at he)
    | (rename_i he; injection he with he; subst he)

theorem partIn_keeps {qs : List Instr} (p : Packet) (s : State) (hs : Keep qs s) : Keep qs (partIn p s) := by
  delta partIn
  repeat' first
    | (with_reducible assumption)
    | (with_reducible rfl)
    | (with_reducible apply modFab_keeps)
    | (with_reducible apply logEv_keeps)
    | (with_reducible apply raiseFab_keeps)
    | (with_reducible apply wrBytes_keeps)
    | (with_reducible refine scratchWrite_keeps_eq _ _ _ ?_ (by assumption))
    | (with_reducible apply logRingRefused_keeps)
    | (with_reducible apply sendMinimal_keeps)
    | (with_reducible apply countPkt_keeps)
    | (with_reducible apply refusePkt_keeps)
    | (with_reducible apply latePart_keeps)
    | (with_reducible refine fun _ => ?_)
    | lift_lets
    | (intro x; refine keep_cut (qs := qs) x ?_ ?_; rotate_left; intro _; clear_value x; rotate_left; unfold x)
    | (intro x; refine keep_cut_ss (qs := qs) x ?_ ?_; rotate_left; intro hfun; clear_value x; rotate_left; unfold x)
    | (intro x; refine keep_cut_ass (qs := qs) x ?_ ?_; rotate_left; intro hfun; clear_value x; rotate_left; unfold x)
    | (intro x; refine keep_cut_abss (qs := qs) x ?_ ?_; rotate_left; intro hfun; clear_value x; rotate_left; unfold x)
    | (intro x; refine keep_cut_a (qs := qs) x ?_ ?_; rotate_left; intro hfun; clear_value x; rotate_left; unfold x)
    | (intro x; refine keep_cut_ab (qs := qs) x ?_ ?_; rotate_left; intro hfun; clear_value x; rotate_left; unfold x)
    | (intro x; refine keep_cut_abc (qs := qs) x ?_ ?_; rotate_left; intro hfun; clear_value x; rotate_left; unfold x)
    | (intro x; refine keep_cut_o1 (qs := qs) x ?_ ?_; rotate_left; intro hopt; clear_value x; rotate_left; unfold x)
    | (intro x; refine keep_cut_o (qs := qs) x ?_ ?_; rotate_left; intro hopt; clear_value x; rotate_left; unfold x)
    | (with_reducible refine hopt _ (by assumption))
    | (with_reducible exact hopt _ rfl)
    | (intro x; refine keep_cut_snd (qs := qs) x ?_ ?_; rotate_left; intro _; clear_value x; rotate_left; unfold x)
    | (intro x; clear_value x)
    | (with_reducible apply hfun)
    | (intro _)
    | split
    | (with_reducible apply AnswerKeeps.next)
    | (simp only [keep_mk, List.length_modify, List.length_map, List.length_replicate, List.length_zip, List.length_range, List.length_mapIdx, Nat.min_self])
    | (with_reducible apply Keep.toV)
    | (with_reducible apply keepV_roods)
    | (with_reducible apply keep_getD)
    | (with_reducible refine keepV_mem_nil hs ?_ ?_ ?_ ?_ ?_ ?_ ?_ ?_)
    | (rename_i he; split at he)
    | (rename_i he; injection he with he; subst he)

theorem partialPkt_keeps {qs : List Instr} (p : Packet) (s : State) (hs : Keep qs s) : Keep qs (partialPkt p s) := by
  delta partialPkt
  repeat' first
    | (with_reducible assumption)
    | (with_reducible apply countStale_keeps)
    | (with_reducible refine intoEntry_keeps_eq _ _ ?_ (by assumption))
    | (with_reducible apply refusePkt_keeps)
    | (with_reducible apply partIn_keeps)
    | split

theorem earlyAgain_keeps {qs : List Instr} (k : Nat) (s : State) (hs : Keep qs s) : Keep qs (earlyAgain k s) := by
  delta earlyAgain
  repeat' first
    | (with_reducible assumption)
    | (with_reducible apply modFab_keeps)
    | (with_reducible apply partIn_keeps)
    | lift_lets
    | (intro x; refine keep_cut (qs := qs) x ?_ ?_; rotate_left; intro _; clear_value x; rotate_left; unfold x)
    | split

theorem drainEarly_keeps {qs : List Instr} (c i : Nat) (s : State) (hs : Keep qs s) : Keep qs (drainEarly c i s) := by
  delta drainEarly
  repeat' first
    | (with_reducible assumption)
    | (with_reducible apply forAll_keeps)
    | (with_reducible apply earlyAgain_keeps)

theorem expireEarly_keeps {qs : List Instr} (k : Nat) (s : State) (hs : Keep qs s) : Keep qs (expireEarly k s) := by
  delta expireEarly
  repeat' first
    | (with_reducible assumption)
    | (with_reducible rfl)
    | (with_reducible apply modFab_keeps)
    | (with_reducible apply latePart_keeps)
    | (with_reducible refine fun _ => ?_)
    | lift_lets
    | (intro x; refine keep_cut (qs := qs) x ?_ ?_; rotate_left; intro _; clear_value x; rotate_left; unfold x)
    | (intro x; refine keep_cut_ss (qs := qs) x ?_ ?_; rotate_left; intro hfun; clear_value x; rotate_left; unfold x)
    | (intro x; refine keep_cut_ass (qs := qs) x ?_ ?_; rotate_left; intro hfun; clear_value x; rotate_left; unfold x)
    | (intro x; refine keep_cut_abss (qs := qs) x ?_ ?_; rotate_left; intro hfun; clear_value x; rotate_left; unfold x)
    | (intro x; refine keep_cut_a (qs := qs) x ?_ ?_; rotate_left; intro hfun; clear_value x; rotate_left; unfold x)
    | (intro x; refine keep_cut_ab (qs := qs) x ?_ ?_; rotate_left; intro hfun; clear_value x; rotate_left; unfold x)
    | (intro x; refine keep_cut_abc (qs := qs) x ?_ ?_; rotate_left; intro hfun; clear_value x; rotate_left; unfold x)
    | (intro x; refine keep_cut_o1 (qs := qs) x ?_ ?_; rotate_left; intro hopt; clear_value x; rotate_left; unfold x)
    | (intro x; refine keep_cut_o (qs := qs) x ?_ ?_; rotate_left; intro hopt; clear_value x; rotate_left; unfold x)
    | (with_reducible refine hopt _ (by assumption))
    | (with_reducible exact hopt _ rfl)
    | (intro x; refine keep_cut_snd (qs := qs) x ?_ ?_; rotate_left; intro _; clear_value x; rotate_left; unfold x)
    | (intro x; clear_value x)
    | (with_reducible apply hfun)
    | (intro _)
    | split
    | (with_reducible apply AnswerKeeps.next)
    | (simp only [keep_mk, List.length_modify, List.length_map, List.length_replicate, List.length_zip, List.length_range, List.length_mapIdx, Nat.min_self])
    | (with_reducible apply Keep.toV)
    | (with_reducible apply keepV_roods)
    | (with_reducible apply keep_getD)
    | (with_reducible refine keepV_mem_nil hs ?_ ?_ ?_ ?_ ?_ ?_ ?_ ?_)
    | (rename_i he; split at he)
    | (rename_i he; injection he with he; subst he)

theorem logPartial_keeps {qs : List Instr} (k : Arrival) (s : State) (hs : Keep qs s) : Keep qs (logPartial k s) := by
  delta logPartial
  repeat' first
    | (with_reducible assumption)
    | (with_reducible rfl)
    | (with_reducible apply logCluster_keeps)
    | (with_reducible refine fun _ => ?_)
    | lift_lets
    | (intro x; refine keep_cut (qs := qs) x ?_ ?_; rotate_left; intro _; clear_value x; rotate_left; unfold x)
    | (intro x; refine keep_cut_ss (qs := qs) x ?_ ?_; rotate_left; intro hfun; clear_value x; rotate_left; unfold x)
    | (intro x; refine keep_cut_ass (qs := qs) x ?_ ?_; rotate_left; intro hfun; clear_value x; rotate_left; unfold x)
    | (intro x; refine keep_cut_abss (qs := qs) x ?_ ?_; rotate_left; intro hfun; clear_value x; rotate_left; unfold x)
    | (intro x; refine keep_cut_a (qs := qs) x ?_ ?_; rotate_left; intro hfun; clear_value x; rotate_left; unfold x)
    | (intro x; refine keep_cut_ab (qs := qs) x ?_ ?_; rotate_left; intro hfun; clear_value x; rotate_left; unfold x)
    | (intro x; refine keep_cut_abc (qs := qs) x ?_ ?_; rotate_left; intro hfun; clear_value x; rotate_left; unfold x)
    | (intro x; refine keep_cut_o1 (qs := qs) x ?_ ?_; rotate_left; intro hopt; clear_value x; rotate_left; unfold x)
    | (intro x; refine keep_cut_o (qs := qs) x ?_ ?_; rotate_left; intro hopt; clear_value x; rotate_left; unfold x)
    | (with_reducible refine hopt _ (by assumption))
    | (with_reducible exact hopt _ rfl)
    | (intro x; refine keep_cut_snd (qs := qs) x ?_ ?_; rotate_left; intro _; clear_value x; rotate_left; unfold x)
    | (intro x; clear_value x)
    | (with_reducible apply hfun)
    | (intro _)
    | split
    | (with_reducible apply AnswerKeeps.next)
    | (simp only [keep_mk, List.length_modify, List.length_map, List.length_replicate, List.length_zip, List.length_range, List.length_mapIdx, Nat.min_self])
    | (with_reducible apply Keep.toV)
    | (with_reducible apply keepV_roods)
    | (with_reducible apply keep_getD)
    | (with_reducible refine keepV_mem_nil hs ?_ ?_ ?_ ?_ ?_ ?_ ?_ ?_)
    | (rename_i he; split at he)
    | (rename_i he; injection he with he; subst he)

theorem transferDone_keeps {qs : List Instr} (src xslot : Nat) (s : State) (hs : Keep qs s) : Keep qs (transferDone src xslot s) := by
  delta transferDone
  repeat' first
    | (with_reducible assumption)
    | (with_reducible rfl)
    | (with_reducible apply modCluster_keeps)
    | (with_reducible apply modBind_keeps)
    | (with_reducible apply modFab_keeps)
    | (with_reducible apply ctrAdd_keeps)
    | (with_reducible apply sendMinimal_keeps)
    | (with_reducible apply logPartial_keeps)
    | (with_reducible refine fun _ => ?_)
    | lift_lets
    | (intro x; refine keep_cut (qs := qs) x ?_ ?_; rotate_left; intro _; clear_value x; rotate_left; unfold x)
    | (intro x; refine keep_cut_ss (qs := qs) x ?_ ?_; rotate_left; intro hfun; clear_value x; rotate_left; unfold x)
    | (intro x; refine keep_cut_ass (qs := qs) x ?_ ?_; rotate_left; intro hfun; clear_value x; rotate_left; unfold x)
    | (intro x; refine keep_cut_abss (qs := qs) x ?_ ?_; rotate_left; intro hfun; clear_value x; rotate_left; unfold x)
    | (intro x; refine keep_cut_a (qs := qs) x ?_ ?_; rotate_left; intro hfun; clear_value x; rotate_left; unfold x)
    | (intro x; refine keep_cut_ab (qs := qs) x ?_ ?_; rotate_left; intro hfun; clear_value x; rotate_left; unfold x)
    | (intro x; refine keep_cut_abc (qs := qs) x ?_ ?_; rotate_left; intro hfun; clear_value x; rotate_left; unfold x)
    | (intro x; refine keep_cut_o1 (qs := qs) x ?_ ?_; rotate_left; intro hopt; clear_value x; rotate_left; unfold x)
    | (intro x; refine keep_cut_o (qs := qs) x ?_ ?_; rotate_left; intro hopt; clear_value x; rotate_left; unfold x)
    | (with_reducible refine hopt _ (by assumption))
    | (with_reducible exact hopt _ rfl)
    | (intro x; refine keep_cut_snd (qs := qs) x ?_ ?_; rotate_left; intro _; clear_value x; rotate_left; unfold x)
    | (intro x; clear_value x)
    | (with_reducible apply hfun)
    | (intro _)
    | split
    | (with_reducible apply AnswerKeeps.next)
    | (simp only [keep_mk, List.length_modify, List.length_map, List.length_replicate, List.length_zip, List.length_range, List.length_mapIdx, Nat.min_self])
    | (with_reducible apply Keep.toV)
    | (with_reducible apply keepV_roods)
    | (with_reducible apply keep_getD)
    | (with_reducible refine keepV_mem_nil hs ?_ ?_ ?_ ?_ ?_ ?_ ?_ ?_)
    | (rename_i he; split at he)
    | (rename_i he; injection he with he; subst he)

theorem fromPeer_keeps {qs : List Instr} (p : Packet) (f : State → State) (s : State) (hs : Keep qs s) (hf : ∀ x0, Keep qs x0 → Keep qs (f x0)) : Keep qs (fromPeer p f s) := by
  delta fromPeer
  repeat' first
    | (with_reducible assumption)
    | (with_reducible apply hf)
    | (with_reducible apply modFab_keeps)
    | (with_reducible apply logEv_keeps)
    | (with_reducible apply raiseFab_keeps)
    | lift_lets
    | (intro x; refine keep_cut (qs := qs) x ?_ ?_; rotate_left; intro _; clear_value x; rotate_left; unfold x)
    | split

theorem donePkt_keeps {qs : List Instr} (p : Packet) (s : State) (hs : Keep qs s) : Keep qs (donePkt p s) := by
  delta donePkt
  repeat' first
    | (with_reducible assumption)
    | (with_reducible apply countStale_keeps)
    | (with_reducible apply endXfer_keeps)
    | split

theorem resendPkt_keeps {qs : List Instr} (p : Packet) (s : State) (hs : Keep qs s) : Keep qs (resendPkt p s) := by
  delta resendPkt
  repeat' first
    | (with_reducible assumption)
    | (with_reducible apply countStale_keeps)
    | (with_reducible apply modXfer_keeps)
    | split

theorem resendDue_keeps {qs : List Instr} (x : Nat) (s : State) (hs : Keep qs s) : Keep qs (resendDue x s) := by
  delta resendDue
  repeat' first
    | (with_reducible assumption)
    | (with_reducible apply modXfer_keeps)
    | (with_reducible apply sendAll_keeps)
    | lift_lets
    | (intro x; refine keep_cut (qs := qs) x ?_ ?_; rotate_left; intro _; clear_value x; rotate_left; unfold x)
    | (intro x; clear_value x)
    | split

theorem retryXfer_keeps {qs : List Instr} (x : Nat) (s : State) (hs : Keep qs s) : Keep qs (retryXfer x s) := by
  delta retryXfer
  repeat' first
    | (with_reducible assumption)
    | (with_reducible rfl)
    | (with_reducible apply logEv_keeps)
    | (with_reducible apply raiseFab_keeps)
    | (with_reducible apply stall_keeps)
    | (with_reducible apply modXfer_keeps)
    | (with_reducible apply endXfer_keeps)
    | (with_reducible apply sendXfer_keeps)
    | (with_reducible refine fun _ => ?_)
    | lift_lets
    | (intro x; refine keep_cut (qs := qs) x ?_ ?_; rotate_left; intro _; clear_value x; rotate_left; unfold x)
    | (intro x; refine keep_cut_ss (qs := qs) x ?_ ?_; rotate_left; intro hfun; clear_value x; rotate_left; unfold x)
    | (intro x; refine keep_cut_ass (qs := qs) x ?_ ?_; rotate_left; intro hfun; clear_value x; rotate_left; unfold x)
    | (intro x; refine keep_cut_abss (qs := qs) x ?_ ?_; rotate_left; intro hfun; clear_value x; rotate_left; unfold x)
    | (intro x; refine keep_cut_a (qs := qs) x ?_ ?_; rotate_left; intro hfun; clear_value x; rotate_left; unfold x)
    | (intro x; refine keep_cut_ab (qs := qs) x ?_ ?_; rotate_left; intro hfun; clear_value x; rotate_left; unfold x)
    | (intro x; refine keep_cut_abc (qs := qs) x ?_ ?_; rotate_left; intro hfun; clear_value x; rotate_left; unfold x)
    | (intro x; refine keep_cut_o1 (qs := qs) x ?_ ?_; rotate_left; intro hopt; clear_value x; rotate_left; unfold x)
    | (intro x; refine keep_cut_o (qs := qs) x ?_ ?_; rotate_left; intro hopt; clear_value x; rotate_left; unfold x)
    | (with_reducible refine hopt _ (by assumption))
    | (with_reducible exact hopt _ rfl)
    | (intro x; refine keep_cut_snd (qs := qs) x ?_ ?_; rotate_left; intro _; clear_value x; rotate_left; unfold x)
    | (intro x; clear_value x)
    | (with_reducible apply hfun)
    | (intro _)
    | split
    | (with_reducible apply AnswerKeeps.next)
    | (simp only [keep_mk, List.length_modify, List.length_map, List.length_replicate, List.length_zip, List.length_range, List.length_mapIdx, Nat.min_self])
    | (with_reducible apply Keep.toV)
    | (with_reducible apply keepV_roods)
    | (with_reducible apply keep_getD)
    | (with_reducible refine keepV_mem_nil hs ?_ ?_ ?_ ?_ ?_ ?_ ?_ ?_)
    | (rename_i he; split at he)
    | (rename_i he; injection he with he; subst he)

theorem resetFabric_keeps {qs : List Instr} (r : Nat) (s : State) (hs : Keep qs s) : Keep qs (resetFabric r s) := by
  delta resetFabric
  repeat' first
    | (with_reducible assumption)
    | (with_reducible rfl)
    | (with_reducible apply modFab_keeps)
    | (with_reducible apply forAll_keeps)
    | (with_reducible apply sendMinimal_keeps)
    | (with_reducible refine fun _ => ?_)
    | lift_lets
    | (intro x; refine keep_cut (qs := qs) x ?_ ?_; rotate_left; intro _; clear_value x; rotate_left; unfold x)
    | (intro x; refine keep_cut_ss (qs := qs) x ?_ ?_; rotate_left; intro hfun; clear_value x; rotate_left; unfold x)
    | (intro x; refine keep_cut_ass (qs := qs) x ?_ ?_; rotate_left; intro hfun; clear_value x; rotate_left; unfold x)
    | (intro x; refine keep_cut_abss (qs := qs) x ?_ ?_; rotate_left; intro hfun; clear_value x; rotate_left; unfold x)
    | (intro x; refine keep_cut_a (qs := qs) x ?_ ?_; rotate_left; intro hfun; clear_value x; rotate_left; unfold x)
    | (intro x; refine keep_cut_ab (qs := qs) x ?_ ?_; rotate_left; intro hfun; clear_value x; rotate_left; unfold x)
    | (intro x; refine keep_cut_abc (qs := qs) x ?_ ?_; rotate_left; intro hfun; clear_value x; rotate_left; unfold x)
    | (intro x; refine keep_cut_o1 (qs := qs) x ?_ ?_; rotate_left; intro hopt; clear_value x; rotate_left; unfold x)
    | (intro x; refine keep_cut_o (qs := qs) x ?_ ?_; rotate_left; intro hopt; clear_value x; rotate_left; unfold x)
    | (with_reducible refine hopt _ (by assumption))
    | (with_reducible exact hopt _ rfl)
    | (intro x; refine keep_cut_snd (qs := qs) x ?_ ?_; rotate_left; intro _; clear_value x; rotate_left; unfold x)
    | (intro x; clear_value x)
    | (with_reducible apply hfun)
    | (intro _)
    | split
    | (with_reducible apply AnswerKeeps.next)
    | (simp only [keep_mk, List.length_modify, List.length_map, List.length_replicate, List.length_zip, List.length_range, List.length_mapIdx, Nat.min_self])
    | (with_reducible apply Keep.toV)
    | (with_reducible apply keepV_roods)
    | (with_reducible apply keep_getD)
    | (with_reducible refine keepV_mem_nil hs ?_ ?_ ?_ ?_ ?_ ?_ ?_ ?_)
    | (rename_i he; split at he)
    | (rename_i he; injection he with he; subst he)

theorem execXferWrite_keeps {qs : List Instr} (d : Nat) (s : State) (hs : Keep qs s) : AnswerKeeps qs (execXferWrite d s) := by
  delta execXferWrite
  repeat' first
    | (with_reducible assumption)
    | (with_reducible apply startXferIf_keeps)
    | (with_reducible apply AnswerKeeps.next)

theorem execXferRead_keeps {qs : List Instr} (d : Nat) (s : State) (hs : Keep qs s) : AnswerKeeps qs (execXferRead d s) := by
  delta execXferRead
  repeat' first
    | (with_reducible assumption)
    | (with_reducible apply startXferIf_keeps)
    | (with_reducible apply AnswerKeeps.next)

theorem execXferPartial_keeps {qs : List Instr} (d : Nat) (s : State) (hs : Keep qs s) : AnswerKeeps qs (execXferPartial d s) := by
  delta execXferPartial
  repeat' first
    | (with_reducible assumption)
    | (with_reducible apply startXferIf_keeps)
    | (with_reducible apply AnswerKeeps.next)

theorem execXferInject_keeps {qs : List Instr} (x : Injection) (s : State) (hs : Keep qs s) : AnswerKeeps qs (execXferInject x s) := by
  delta execXferInject
  repeat' first
    | (with_reducible assumption)
    | (with_reducible rfl)
    | (with_reducible apply injectXfer_keeps)
    | (with_reducible refine fun _ => ?_)
    | lift_lets
    | (intro x; refine keep_cut (qs := qs) x ?_ ?_; rotate_left; intro _; clear_value x; rotate_left; unfold x)
    | (intro x; refine keep_cut_ss (qs := qs) x ?_ ?_; rotate_left; intro hfun; clear_value x; rotate_left; unfold x)
    | (intro x; refine keep_cut_ass (qs := qs) x ?_ ?_; rotate_left; intro hfun; clear_value x; rotate_left; unfold x)
    | (intro x; refine keep_cut_abss (qs := qs) x ?_ ?_; rotate_left; intro hfun; clear_value x; rotate_left; unfold x)
    | (intro x; refine keep_cut_a (qs := qs) x ?_ ?_; rotate_left; intro hfun; clear_value x; rotate_left; unfold x)
    | (intro x; refine keep_cut_ab (qs := qs) x ?_ ?_; rotate_left; intro hfun; clear_value x; rotate_left; unfold x)
    | (intro x; refine keep_cut_abc (qs := qs) x ?_ ?_; rotate_left; intro hfun; clear_value x; rotate_left; unfold x)
    | (intro x; refine keep_cut_o1 (qs := qs) x ?_ ?_; rotate_left; intro hopt; clear_value x; rotate_left; unfold x)
    | (intro x; refine keep_cut_o (qs := qs) x ?_ ?_; rotate_left; intro hopt; clear_value x; rotate_left; unfold x)
    | (with_reducible refine hopt _ (by assumption))
    | (with_reducible exact hopt _ rfl)
    | (intro x; refine keep_cut_snd (qs := qs) x ?_ ?_; rotate_left; intro _; clear_value x; rotate_left; unfold x)
    | (intro x; clear_value x)
    | (with_reducible apply hfun)
    | (intro _)
    | split
    | (with_reducible apply AnswerKeeps.next)
    | (simp only [keep_mk, List.length_modify, List.length_map, List.length_replicate, List.length_zip, List.length_range, List.length_mapIdx, Nat.min_self])
    | (with_reducible apply Keep.toV)
    | (with_reducible apply keepV_roods)
    | (with_reducible apply keep_getD)
    | (with_reducible refine keepV_mem_nil hs ?_ ?_ ?_ ?_ ?_ ?_ ?_ ?_)
    | (rename_i he; split at he)
    | (rename_i he; injection he with he; subst he)

theorem execWrite_keeps {qs : List Instr} (p : Packet) (s : State) (hs : Keep qs s) : AnswerKeeps qs (execWrite p s) := by
  delta execWrite
  repeat' first
    | (with_reducible assumption)
    | (with_reducible apply arriving_keeps)
    | (with_reducible apply writePkt_keeps)
    | (with_reducible refine fun _ => ?_)
    | split
    | (with_reducible apply AnswerKeeps.next)

theorem execRead_keeps {qs : List Instr} (p : Packet) (s : State) (hs : Keep qs s) : AnswerKeeps qs (execRead p s) := by
  delta execRead
  repeat' first
    | (with_reducible assumption)
    | (with_reducible apply arriving_keeps)
    | (with_reducible apply readPkt_keeps)
    | (with_reducible refine fun _ => ?_)
    | split
    | (with_reducible apply AnswerKeeps.next)

theorem execReadResp_keeps {qs : List Instr} (p : Packet) (s : State) (hs : Keep qs s) : AnswerKeeps qs (execReadResp p s) := by
  delta execReadResp
  repeat' first
    | (with_reducible assumption)
    | (with_reducible apply arriving_keeps)
    | (with_reducible apply readRespPkt_keeps)
    | (with_reducible refine fun _ => ?_)
    | split
    | (with_reducible apply AnswerKeeps.next)

theorem execPartial_keeps {qs : List Instr} (p : Packet) (s : State) (hs : Keep qs s) : AnswerKeeps qs (execPartial p s) := by
  delta execPartial
  repeat' first
    | (with_reducible assumption)
    | (with_reducible apply arriving_keeps)
    | (with_reducible apply partialPkt_keeps)
    | (with_reducible refine fun _ => ?_)
    | split
    | (with_reducible apply AnswerKeeps.next)

theorem execEarlyPartialExpire_keeps {qs : List Instr} (k : Nat) (s : State) (hs : Keep qs s) : AnswerKeeps qs (execEarlyPartialExpire k s) := by
  delta execEarlyPartialExpire
  repeat' first
    | (with_reducible assumption)
    | (with_reducible apply expireEarly_keeps)
    | (with_reducible apply AnswerKeeps.next)

theorem execTransferComplete_keeps {qs : List Instr} (src xslot : Nat) (s : State) (hs : Keep qs s) : AnswerKeeps qs (execTransferComplete src xslot s) := by
  delta execTransferComplete
  repeat' first
    | (with_reducible assumption)
    | (with_reducible apply transferDone_keeps)
    | (with_reducible apply AnswerKeeps.next)

theorem execDone_keeps {qs : List Instr} (p : Packet) (s : State) (hs : Keep qs s) : AnswerKeeps qs (execDone p s) := by
  delta execDone
  repeat' first
    | (with_reducible assumption)
    | (with_reducible apply arriving_keeps)
    | (with_reducible apply fromPeer_keeps)
    | (with_reducible apply donePkt_keeps)
    | (with_reducible refine fun _ => ?_)
    | split
    | (with_reducible apply AnswerKeeps.next)

theorem execResend_keeps {qs : List Instr} (p : Packet) (s : State) (hs : Keep qs s) : AnswerKeeps qs (execResend p s) := by
  delta execResend
  repeat' first
    | (with_reducible assumption)
    | (with_reducible apply arriving_keeps)
    | (with_reducible apply fromPeer_keeps)
    | (with_reducible apply resendPkt_keeps)
    | (with_reducible refine fun _ => ?_)
    | split
    | (with_reducible apply AnswerKeeps.next)

theorem execTransferRetry_keeps {qs : List Instr} (x : Nat) (s : State) (hs : Keep qs s) : AnswerKeeps qs (execTransferRetry x s) := by
  delta execTransferRetry
  repeat' first
    | (with_reducible assumption)
    | (with_reducible apply retryXfer_keeps)
    | (with_reducible apply AnswerKeeps.next)

end Sys2Proof.Laws
end

