-- ==== Sys2Proof/Laws/KeepMail.lean ====
section
/-! SUPPORT. What every operation of Machine/Mail.lean keeps: the waiting commands, the clock grid, the canonical form of the memories and
the bound of the event ring (Laws/Keep.lean). -/
namespace Sys2Proof.Laws

set_option linter.unusedSimpArgs false

open Sys2Proof.Machine Sys2Proof.Safety

theorem modBox_keeps {qs : List Instr} (b : Box) (r : Nat) (f : Mailbox → Mailbox) (s : State) (hs : Keep qs s) : Keep qs (modBox b r f s) := by
  delta modBox
  repeat' first
    | (with_reducible assumption)
    | (with_reducible apply modRood_keeps)

theorem putReply_keeps {qs : List Instr} (b : Box) (r tag seq st cmd detail : Nat) (s : State) (hs : Keep qs s) : Keep qs (putReply b r tag seq st cmd detail s) := by
  delta putReply
  repeat' first
    | (with_reducible assumption)
    | (with_reducible apply modBox_keeps)

theorem finalReply_keeps {qs : List Instr} (b : Box) (r : Nat) (c : Cmd) (st detail : Nat) (s : State) (hs : Keep qs s) : Keep qs (finalReply b r c st detail s) := by
  delta finalReply
  repeat' first
    | (with_reducible assumption)
    | (with_reducible apply modBox_keeps)
    | (with_reducible apply putReply_keeps)

theorem deferReply_keeps {qs : List Instr} (b : Box) (r : Nat) (c : Cmd) (s : State) (hs : Keep qs s) : Keep qs (deferReply b r c s) := by
  delta deferReply
  repeat' first
    | (with_reducible assumption)
    | (with_reducible apply modBox_keeps)
    | (with_reducible apply putReply_keeps)
    | lift_lets
    | (intro x; refine keep_cut (qs := qs) x ?_ ?_; rotate_left; intro _; clear_value x; rotate_left; unfold x)
    | split

theorem submitCmd_keeps {qs : List Instr} (b : Box) (r : Nat) (bytes : List Byte) (refuse : Option Nat) (s : State) (hs : Keep qs s) : Keep qs (submitCmd b r bytes refuse s) := by
  delta submitCmd
  repeat' first
    | (with_reducible assumption)
    | (with_reducible rfl)
    | (with_reducible apply modBox_keeps)
    | (with_reducible apply putReply_keeps)
    | (with_reducible refine fun _ => ?_)
    | lift_lets
    | (intro x; refine keep_cut (qs := qs) x ?_ ?_; rotate_left; intro _; clear_value x; rotate_left; unfold x)
    | (intro x; refine keep_cut_ss (qs := qs) x ?_ ?_; rotate_left; intro hfun; clear_value x; rotate_left; unfold x)
    | (intro x; refine keep_cut_ass (qs := qs) x ?_ ?_; rotate_left; intro hfun; clear_value x; rotate_left; unfold x)
    | (intro x; refine keep_cut_abss (qs := qs) x ?_ ?_; rotate_left; intro hfun; clear_value x; rotate_left; unfold x)
    | (intro x; refine keep_cut_a (qs := qs) x ?_ ?_; rotate_left; intro hfun; clear_value x; rotate_left; unfold x)
    | (intro x; refine keep_cut_ab (qs := qs) x ?_ ?_; rotate_left; intro hfun; clear_value x; rotate_left; unfold x)
    | (intro x; refine keep_cut_abc (qs := qs) x ?_ ?_; rotate_left; intro hfun; clear_value x; rotate_left; unfold x)
    | (intro x; refine keep_cut_o1 (qs := qs) x ?_ ?_; rotate_left; intro hopt; clear_value x; rotate_left; unfold x)
    | (intro x; refine keep_cut_o (qs := qs) x ?_ ?_; rotate_left; intro hopt; clear_value x; rotate_left; unfold x)
    | (with_reducible refine hopt _ (by assumption))
    | (with_reducible exact hopt _ rfl)
    | (intro x; refine keep_cut_snd (qs := qs) x ?_ ?_; rotate_left; intro _; clear_value x; rotate_left; unfold x)
    | (intro x; clear_value x)
    | (with_reducible apply hfun)
    | (intro _)
    | split
    | (with_reducible apply AnswerKeeps.next)
    | (simp only [keep_mk, List.length_modify, List.length_map, List.length_replicate, List.length_zip, List.length_range, List.length_mapIdx, Nat.min_self])
    | (with_reducible apply Keep.toV)
    | (with_reducible apply keepV_roods)
    | (with_reducible apply keep_getD)
    | (with_reducible refine keepV_mem_nil hs ?_ ?_ ?_ ?_ ?_ ?_ ?_ ?_)
    | (rename_i he; split at he)
    | (rename_i he; injection he with he; subst he)

end Sys2Proof.Laws
end

