-- ==== Sys2Proof/Laws/KeepRoods.lean ====
section
/-! SUPPORT. What every operation of Machine/Roods.lean keeps: the waiting commands, the clock grid, the canonical form of the memories and
the bound of the event ring (Laws/Keep.lean). -/
namespace Sys2Proof.Laws

set_option linter.unusedSimpArgs false

open Sys2Proof.Machine Sys2Proof.Safety

theorem logSec_keeps {qs : List Instr} (low rood payload : Nat) (s : State) (hs : Keep qs s) : Keep qs (logSec low rood payload s) := by
  delta logSec
  repeat' first
    | (with_reducible assumption)
    | (with_reducible apply logEv_keeps)

theorem changePstate_keeps {qs : List Instr} (dst cause : Nat) (s : State) (hs : Keep qs s) : Keep qs (changePstate dst cause s) := by
  delta changePstate
  repeat' first
    | (with_reducible assumption)
    | (with_reducible apply modFwc_keeps)
    | (with_reducible apply logEv_keeps)
    | split

theorem setCtl_keeps {qs : List Instr} (r cmd st : Nat) (s : State) (hs : Keep qs s) : Keep qs (setCtl r cmd st s) := by
  delta setCtl
  repeat' first
    | (with_reducible assumption)
    | (with_reducible apply modRood_keeps)

theorem setStatus_keeps {qs : List Instr} (r st : Nat) (s : State) (hs : Keep qs s) : Keep qs (setStatus r st s) := by
  delta setStatus
  repeat' first
    | (with_reducible assumption)
    | (with_reducible apply modRood_keeps)

theorem destroySa_keeps {qs : List Instr} (i : Nat) (s : State) (hs : Keep qs s) : Keep qs (destroySa i s) := by
  delta destroySa
  repeat' first
    | (with_reducible assumption)
    | (with_reducible apply modEth_keeps)
    | (with_reducible apply forAll_keeps)
    | (with_reducible apply qpFail_keeps)
    | (with_reducible apply logSec_keeps)
    | (with_reducible refine fun _ => ?_)
    | lift_lets
    | (intro x; refine keep_cut (qs := qs) x ?_ ?_; rotate_left; intro _; clear_value x; rotate_left; unfold x)
    | (intro x; clear_value x)
    | split

theorem destroySas_keeps {qs : List Instr} (r : Nat) (s : State) (hs : Keep qs s) : Keep qs (destroySas r s) := by
  delta destroySas
  repeat' first
    | (with_reducible assumption)
    | (with_reducible apply forAll_keeps)
    | (with_reducible apply destroySa_keeps)

theorem destroyNs_keeps {qs : List Instr} (r : Nat) (s : State) (hs : Keep qs s) : Keep qs (destroyNs r s) := by
  delta destroyNs
  repeat' first
    | (with_reducible assumption)
    | (with_reducible apply modRood_keeps)
    | (with_reducible apply modFlash_keeps)
    | (with_reducible apply logSec_keeps)
    | lift_lets
    | (intro x; refine keep_cut (qs := qs) x ?_ ?_; rotate_left; intro _; clear_value x; rotate_left; unfold x)
    | (intro x; clear_value x)
    | split

theorem sizeNs_keeps {qs : List Instr} (r size : Nat) (s : State) (hs : Keep qs s) : Keep qs (sizeNs r size s) := by
  delta sizeNs
  repeat' first
    | (with_reducible assumption)
    | (with_reducible apply modRood_keeps)
    | (with_reducible apply modFlash_keeps)
    | lift_lets
    | (intro x; refine keep_cut (qs := qs) x ?_ ?_; rotate_left; intro _; clear_value x; rotate_left; unfold x)
    | (intro x; clear_value x)
    | split

theorem releaseCluster_keeps {qs : List Instr} (r c : Nat) (s : State) (hs : Keep qs s) : Keep qs (releaseCluster r c s) := by
  delta releaseCluster
  repeat' first
    | (with_reducible assumption)
    | (with_reducible rfl)
    | (with_reducible apply modCluster_keeps)
    | (with_reducible apply endWork_keeps)
    | (with_reducible refine fun _ => ?_)
    | lift_lets
    | (intro x; refine keep_cut (qs := qs) x ?_ ?_; rotate_left; intro _; clear_value x; rotate_left; unfold x)
    | (intro x; refine keep_cut_ss (qs := qs) x ?_ ?_; rotate_left; intro hfun; clear_value x; rotate_left; unfold x)
    | (intro x; refine keep_cut_ass (qs := qs) x ?_ ?_; rotate_left; intro hfun; clear_value x; rotate_left; unfold x)
    | (intro x; refine keep_cut_abss (qs := qs) x ?_ ?_; rotate_left; intro hfun; clear_value x; rotate_left; unfold x)
    | (intro x; refine keep_cut_a (qs := qs) x ?_ ?_; rotate_left; intro hfun; clear_value x; rotate_left; unfold x)
    | (intro x; refine keep_cut_ab (qs := qs) x ?_ ?_; rotate_left; intro hfun; clear_value x; rotate_left; unfold x)
    | (intro x; refine keep_cut_abc (qs := qs) x ?_ ?_; rotate_left; intro hfun; clear_value x; rotate_left; unfold x)
    | (intro x; refine keep_cut_o1 (qs := qs) x ?_ ?_; rotate_left; intro hopt; clear_value x; rotate_left; unfold x)
    | (intro x; refine keep_cut_o (qs := qs) x ?_ ?_; rotate_left; intro hopt; clear_value x; rotate_left; unfold x)
    | (with_reducible refine hopt _ (by assumption))
    | (with_reducible exact hopt _ rfl)
    | (intro x; refine keep_cut_snd (qs := qs) x ?_ ?_; rotate_left; intro _; clear_value x; rotate_left; unfold x)
    | (intro x; clear_value x)
    | (with_reducible apply hfun)
    | (intro _)
    | split
    | (with_reducible apply AnswerKeeps.next)
    | (simp only [keep_mk, List.length_modify, List.length_map, List.length_replicate, List.length_zip, List.length_range, List.length_mapIdx, Nat.min_self])
    | (with_reducible apply Keep.toV)
    | (with_reducible apply keepV_roods)
    | (with_reducible apply keep_getD)
    | (with_reducible refine keepV_mem_nil hs ?_ ?_ ?_ ?_ ?_ ?_ ?_ ?_)
    | (rename_i he; split at he)
    | (rename_i he; injection he with he; subst he)

theorem gainCluster_keeps {qs : List Instr} (r c : Nat) (s : State) (hs : Keep qs s) : Keep qs (gainCluster r c s) := by
  delta gainCluster
  repeat' first
    | (with_reducible assumption)
    | (with_reducible apply modCluster_keeps)

theorem releaseEngine_keeps {qs : List Instr} (r t e : Nat) (s : State) (hs : Keep qs s) : Keep qs (releaseEngine r t e s) := by
  delta releaseEngine
  repeat' first
    | (with_reducible assumption)
    | (with_reducible rfl)
    | (with_reducible apply modEngine_keeps)
    | (with_reducible apply endWork_keeps)
    | (with_reducible refine fun _ => ?_)
    | lift_lets
    | (intro x; refine keep_cut (qs := qs) x ?_ ?_; rotate_left; intro _; clear_value x; rotate_left; unfold x)
    | (intro x; refine keep_cut_ss (qs := qs) x ?_ ?_; rotate_left; intro hfun; clear_value x; rotate_left; unfold x)
    | (intro x; refine keep_cut_ass (qs := qs) x ?_ ?_; rotate_left; intro hfun; clear_value x; rotate_left; unfold x)
    | (intro x; refine keep_cut_abss (qs := qs) x ?_ ?_; rotate_left; intro hfun; clear_value x; rotate_left; unfold x)
    | (intro x; refine keep_cut_a (qs := qs) x ?_ ?_; rotate_left; intro hfun; clear_value x; rotate_left; unfold x)
    | (intro x; refine keep_cut_ab (qs := qs) x ?_ ?_; rotate_left; intro hfun; clear_value x; rotate_left; unfold x)
    | (intro x; refine keep_cut_abc (qs := qs) x ?_ ?_; rotate_left; intro hfun; clear_value x; rotate_left; unfold x)
    | (intro x; refine keep_cut_o1 (qs := qs) x ?_ ?_; rotate_left; intro hopt; clear_value x; rotate_left; unfold x)
    | (intro x; refine keep_cut_o (qs := qs) x ?_ ?_; rotate_left; intro hopt; clear_value x; rotate_left; unfold x)
    | (with_reducible refine hopt _ (by assumption))
    | (with_reducible exact hopt _ rfl)
    | (intro x; refine keep_cut_snd (qs := qs) x ?_ ?_; rotate_left; intro _; clear_value x; rotate_left; unfold x)
    | (intro x; clear_value x)
    | (with_reducible apply hfun)
    | (intro _)
    | split
    | (with_reducible apply AnswerKeeps.next)
    | (simp only [keep_mk, List.length_modify, List.length_map, List.length_replicate, List.length_zip, List.length_range, List.length_mapIdx, Nat.min_self])
    | (with_reducible apply Keep.toV)
    | (with_reducible apply keepV_roods)
    | (with_reducible apply keep_getD)
    | (with_reducible refine keepV_mem_nil hs ?_ ?_ ?_ ?_ ?_ ?_ ?_ ?_)
    | (rename_i he; split at he)
    | (rename_i he; injection he with he; subst he)

theorem gainEngine_keeps {qs : List Instr} (r t e : Nat) (s : State) (hs : Keep qs s) : Keep qs (gainEngine r t e s) := by
  delta gainEngine
  repeat' first
    | (with_reducible assumption)
    | (with_reducible apply modEngine_keeps)

theorem clusterJoins_keeps {qs : List Instr} (c : Nat) (s : State) (hs : Keep qs s) : Keep qs (clusterJoins c s) := by
  delta clusterJoins
  repeat' first
    | (with_reducible assumption)
    | (with_reducible apply modCluster_keeps)
    | (with_reducible apply scrubCluster_keeps)
    | split

theorem engineJoins_keeps {qs : List Instr} (t e : Nat) (s : State) (hs : Keep qs s) : Keep qs (engineJoins t e s) := by
  delta engineJoins
  repeat' first
    | (with_reducible assumption)
    | (with_reducible apply modEngine_keeps)
    | (with_reducible apply scrubEngine_keeps)
    | split

theorem takeRes_keeps {qs : List Instr} (r : Nat) (p : Res) (s : State) (hs : Keep qs s) : Keep qs (takeRes r p s) := by
  delta takeRes
  repeat' first
    | (with_reducible assumption)
    | (with_reducible apply modRood_keeps)
    | (with_reducible apply forAll_keeps)
    | (with_reducible apply sizeNs_keeps)
    | (with_reducible apply releaseCluster_keeps)
    | (with_reducible apply gainCluster_keeps)
    | (with_reducible apply releaseEngine_keeps)
    | (with_reducible apply gainEngine_keeps)
    | (with_reducible refine fun _ => ?_)

theorem refuseRes_keeps {qs : List Instr} (r st : Nat) (s : State) (hs : Keep qs s) : Keep qs (refuseRes r st s) := by
  delta refuseRes
  repeat' first
    | (with_reducible assumption)
    | (with_reducible apply modRood_keeps)
    | (with_reducible apply raiseRood_keeps)
    | (with_reducible apply logSec_keeps)

theorem createRood_keeps {qs : List Instr} (r : Nat) (s : State) (hs : Keep qs s) : Keep qs (createRood r s) := by
  delta createRood
  repeat' first
    | (with_reducible assumption)
    | (with_reducible apply modRood_keeps)
    | (with_reducible apply setCtl_keeps)
    | split

theorem roodCreated_keeps {qs : List Instr} (r : Nat) (s : State) (hs : Keep qs s) : Keep qs (roodCreated r s) := by
  delta roodCreated
  repeat' first
    | (with_reducible assumption)
    | (with_reducible apply modRood_keeps)
    | (with_reducible apply logSec_keeps)
    | (with_reducible apply setStatus_keeps)
    | (with_reducible apply takeRes_keeps)
    | (with_reducible apply refuseRes_keeps)
    | lift_lets
    | (intro x; refine keep_cut (qs := qs) x ?_ ?_; rotate_left; intro _; clear_value x; rotate_left; unfold x)
    | (intro x; clear_value x)
    | split

theorem resizeArm_keeps {qs : List Instr} (r rod : Nat) (s : State) (hs : Keep qs s) : Keep qs (resizeArm r rod s) := by
  delta resizeArm
  repeat' first
    | (with_reducible assumption)
    | (with_reducible apply modRood_keeps)
    | split

theorem resizeApplied_keeps {qs : List Instr} (r : Nat) (s : State) (hs : Keep qs s) : Keep qs (resizeApplied r s) := by
  delta resizeApplied
  repeat' first
    | (with_reducible assumption)
    | (with_reducible apply modRood_keeps)
    | (with_reducible apply logSec_keeps)
    | (with_reducible apply takeRes_keeps)
    | (with_reducible apply refuseRes_keeps)
    | lift_lets
    | (intro x; clear_value x)
    | split

theorem endDescs_keeps {qs : List Instr} (p : Desc → Bool) (st : Desc → Nat) (s : State) (hs : Keep qs s) : Keep qs (endDescs p st s) := by
  delta endDescs
  repeat' first
    | (with_reducible assumption)
    | (with_reducible apply forAll_keeps)
    | (with_reducible apply finish_keeps)
    | (with_reducible apply completeDesc_keeps)
    | (with_reducible refine fun _ => ?_)
    | lift_lets
    | (intro x; refine keep_cut (qs := qs) x ?_ ?_; rotate_left; intro _; clear_value x; rotate_left; unfold x)
    | split

theorem stopRood_keeps {qs : List Instr} (r : Nat) (remove : Bool) (s : State) (hs : Keep qs s) : Keep qs (stopRood r remove s) := by
  delta stopRood
  repeat' first
    | (with_reducible assumption)
    | (with_reducible rfl)
    | (with_reducible apply modRood_keeps)
    | (with_reducible apply forAll_keeps)
    | (with_reducible apply endStream_keeps)
    | (with_reducible apply resetFabric_keeps)
    | (with_reducible apply finalReply_keeps)
    | (with_reducible apply dropRequest_keeps)
    | (with_reducible apply faultBind_keeps)
    | (with_reducible apply destroySas_keeps)
    | (with_reducible apply destroyNs_keeps)
    | (with_reducible apply endDescs_keeps)
    | (with_reducible refine fun _ => ?_)
    | lift_lets
    | (intro x; refine keep_cut (qs := qs) x ?_ ?_; rotate_left; intro _; clear_value x; rotate_left; unfold x)
    | (intro x; refine keep_cut_ss (qs := qs) x ?_ ?_; rotate_left; intro hfun; clear_value x; rotate_left; unfold x)
    | (intro x; refine keep_cut_ass (qs := qs) x ?_ ?_; rotate_left; intro hfun; clear_value x; rotate_left; unfold x)
    | (intro x; refine keep_cut_abss (qs := qs) x ?_ ?_; rotate_left; intro hfun; clear_value x; rotate_left; unfold x)
    | (intro x; refine keep_cut_a (qs := qs) x ?_ ?_; rotate_left; intro hfun; clear_value x; rotate_left; unfold x)
    | (intro x; refine keep_cut_ab (qs := qs) x ?_ ?_; rotate_left; intro hfun; clear_value x; rotate_left; unfold x)
    | (intro x; refine keep_cut_abc (qs := qs) x ?_ ?_; rotate_left; intro hfun; clear_value x; rotate_left; unfold x)
    | (intro x; refine keep_cut_o1 (qs := qs) x ?_ ?_; rotate_left; intro hopt; clear_value x; rotate_left; unfold x)
    | (intro x; refine keep_cut_o (qs := qs) x ?_ ?_; rotate_left; intro hopt; clear_value x; rotate_left; unfold x)
    | (with_reducible refine hopt _ (by assumption))
    | (with_reducible exact hopt _ rfl)
    | (intro x; refine keep_cut_snd (qs := qs) x ?_ ?_; rotate_left; intro _; clear_value x; rotate_left; unfold x)
    | (intro x; clear_value x)
    | (with_reducible apply hfun)
    | (intro _)
    | split
    | (with_reducible apply AnswerKeeps.next)
    | (simp only [keep_mk, List.length_modify, List.length_map, List.length_replicate, List.length_zip, List.length_range, List.length_mapIdx, Nat.min_self])
    | (with_reducible apply Keep.toV)
    | (with_reducible apply keepV_roods)
    | (with_reducible apply keep_getD)
    | (with_reducible refine keepV_mem_nil hs ?_ ?_ ?_ ?_ ?_ ?_ ?_ ?_)
    | (rename_i he; split at he)
    | (rename_i he; injection he with he; subst he)

theorem scrubBushel_keeps {qs : List Instr} (a : Nat) (s : State) (hs : Keep qs s) : Keep qs (scrubBushel a s) := by
  delta scrubBushel
  repeat' first
    | (with_reducible assumption)
    | (with_reducible apply zeroMem_keeps)
    | lift_lets
    | (simp only [keep_mk, List.length_modify, List.length_map, List.length_replicate, List.length_zip, List.length_range, List.length_mapIdx, Nat.min_self])
    | (with_reducible apply Keep.toV)

theorem scrubRood_keeps {qs : List Instr} (r : Nat) (s : State) (hs : Keep qs s) : Keep qs (scrubRood r s) := by
  delta scrubRood
  repeat' first
    | (with_reducible assumption)
    | (with_reducible apply modRood_keeps)
    | (with_reducible apply modCluster_keeps)
    | (with_reducible apply modEngine_keeps)
    | (with_reducible apply modEth_keeps)
    | (with_reducible apply forAll_keeps)
    | (with_reducible apply zeroMem_keeps)
    | (with_reducible apply scrubCluster_keeps)
    | (with_reducible apply scrubEngine_keeps)
    | (with_reducible apply scrubBushel_keeps)
    | (with_reducible refine fun _ => ?_)
    | lift_lets
    | (simp only [keep_mk, List.length_modify, List.length_map, List.length_replicate, List.length_zip, List.length_range, List.length_mapIdx, Nat.min_self])
    | (with_reducible apply Keep.toV)

theorem beginReset_keeps {qs : List Instr} (r : Nat) (remove : Bool) (s : State) (hs : Keep qs s) : Keep qs (beginReset r remove s) := by
  delta beginReset
  repeat' first
    | (with_reducible assumption)
    | (with_reducible apply modFwc_keeps)
    | (with_reducible apply changePstate_keeps)
    | (with_reducible apply setCtl_keeps)
    | (with_reducible apply stopRood_keeps)
    | (with_reducible apply scrubRood_keeps)
    | lift_lets
    | (intro x; refine keep_cut (qs := qs) x ?_ ?_; rotate_left; intro _; clear_value x; rotate_left; unfold x)
    | split

theorem resetRood_keeps {qs : List Instr} (r : Nat) (s : State) (hs : Keep qs s) : Keep qs (resetRood r s) := by
  delta resetRood
  repeat' first
    | (with_reducible assumption)
    | (with_reducible apply setCtl_keeps)
    | (with_reducible apply beginReset_keeps)
    | split

theorem removeRood_keeps {qs : List Instr} (r : Nat) (s : State) (hs : Keep qs s) : Keep qs (removeRood r s) := by
  delta removeRood
  repeat' first
    | (with_reducible assumption)
    | (with_reducible apply modRood_keeps)
    | (with_reducible apply setCtl_keeps)
    | (with_reducible apply beginReset_keeps)
    | split

theorem dropRegion_keeps {qs : List Instr} (t n : Nat) (s : State) (hs : Keep qs s) : Keep qs (dropRegion t n s) := by
  delta dropRegion
  repeat' first
    | (with_reducible assumption)
    | (with_reducible apply modStack_keeps)
    | (with_reducible apply zeroMem_keeps)
    | lift_lets
    | split
    | (simp only [keep_mk, List.length_modify, List.length_map, List.length_replicate, List.length_zip, List.length_range, List.length_mapIdx, Nat.min_self])
    | (with_reducible apply Keep.toV)

theorem returnAll_keeps {qs : List Instr} (r : Nat) (s : State) (hs : Keep qs s) : Keep qs (returnAll r s) := by
  delta returnAll
  repeat' first
    | (with_reducible assumption)
    | (with_reducible apply modFlash_keeps)
    | (with_reducible apply modStreams_keeps)
    | (with_reducible apply forAll_keeps)
    | (with_reducible apply dropRegion_keeps)
    | (with_reducible refine fun _ => ?_)
    | lift_lets
    | (simp only [keep_mk, List.length_modify, List.length_map, List.length_replicate, List.length_zip, List.length_range, List.length_mapIdx, Nat.min_self])
    | (with_reducible apply Keep.toV)

theorem resetDone_keeps {qs : List Instr} (r : Nat) (s : State) (hs : Keep qs s) : Keep qs (resetDone r s) := by
  delta resetDone
  repeat' first
    | (with_reducible assumption)
    | (with_reducible apply modRood_keeps)
    | (with_reducible apply modFwc_keeps)
    | (with_reducible apply raiseRood_keeps)
    | (with_reducible apply logSec_keeps)
    | (with_reducible apply changePstate_keeps)
    | (with_reducible apply beginReset_keeps)
    | (with_reducible apply returnAll_keeps)
    | lift_lets
    | (intro x; refine keep_cut (qs := qs) x ?_ ?_; rotate_left; intro _; clear_value x; rotate_left; unfold x)
    | (intro x; clear_value x)
    | split

theorem putQueue_keeps {qs : List Instr} (i : Nat) (n : Queue) (s : State) (hs : Keep qs s) : Keep qs (putQueue i n s) := by
  delta putQueue
  repeat' first
    | (with_reducible assumption)
    | (with_reducible rfl)
    | (with_reducible refine fun _ => ?_)
    | lift_lets
    | (intro x; refine keep_cut (qs := qs) x ?_ ?_; rotate_left; intro _; clear_value x; rotate_left; unfold x)
    | (intro x; refine keep_cut_ss (qs := qs) x ?_ ?_; rotate_left; intro hfun; clear_value x; rotate_left; unfold x)
    | (intro x; refine keep_cut_ass (qs := qs) x ?_ ?_; rotate_left; intro hfun; clear_value x; rotate_left; unfold x)
    | (intro x; refine keep_cut_abss (qs := qs) x ?_ ?_; rotate_left; intro hfun; clear_value x; rotate_left; unfold x)
    | (intro x; refine keep_cut_a (qs := qs) x ?_ ?_; rotate_left; intro hfun; clear_value x; rotate_left; unfold x)
    | (intro x; refine keep_cut_ab (qs := qs) x ?_ ?_; rotate_left; intro hfun; clear_value x; rotate_left; unfold x)
    | (intro x; refine keep_cut_abc (qs := qs) x ?_ ?_; rotate_left; intro hfun; clear_value x; rotate_left; unfold x)
    | (intro x; refine keep_cut_o1 (qs := qs) x ?_ ?_; rotate_left; intro hopt; clear_value x; rotate_left; unfold x)
    | (intro x; refine keep_cut_o (qs := qs) x ?_ ?_; rotate_left; intro hopt; clear_value x; rotate_left; unfold x)
    | (with_reducible refine hopt _ (by assumption))
    | (with_reducible exact hopt _ rfl)
    | (intro x; refine keep_cut_snd (qs := qs) x ?_ ?_; rotate_left; intro _; clear_value x; rotate_left; unfold x)
    | (intro x; clear_value x)
    | (with_reducible apply hfun)
    | (intro _)
    | split
    | (with_reducible apply AnswerKeeps.next)
    | (simp only [keep_mk, List.length_modify, List.length_map, List.length_replicate, List.length_zip, List.length_range, List.length_mapIdx, Nat.min_self])
    | (with_reducible apply Keep.toV)
    | (with_reducible apply keepV_roods)
    | (with_reducible apply keep_getD)
    | (with_reducible refine keepV_mem_nil hs ?_ ?_ ?_ ?_ ?_ ?_ ?_ ?_)
    | (rename_i he; split at he)
    | (rename_i he; injection he with he; subst he)

theorem tblDone_keeps {qs : List Instr} (r op tbl idx st : Nat) (s : State) (hs : Keep qs s) : Keep qs (tblDone r op tbl idx st s) := by
  delta tblDone
  repeat' first
    | (with_reducible assumption)
    | (with_reducible apply modRood_keeps)

theorem onTable_keeps {qs : List Instr} (r op tbl idx : Nat) (f : Rood → State → Nat × State) (s : State) (hs : Keep qs s) (hf : ∀ x0 x1, Keep qs x1 → Keep qs (f x0 x1).2) : Keep qs (onTable r op tbl idx f s) := by
  delta onTable
  repeat' first
    | (with_reducible assumption)
    | (with_reducible apply hf)
    | (with_reducible apply tblDone_keeps)
    | split

theorem tableRead_keeps {qs : List Instr} (r tbl idx : Nat) (s : State) (hs : Keep qs s) : Keep qs (tableRead r tbl idx s) := by
  delta tableRead
  repeat' first
    | (with_reducible assumption)
    | (with_reducible apply modRood_keeps)
    | (with_reducible apply onTable_keeps)
    | (with_reducible refine fun _ => ?_)
    | split

theorem tableWrite_keeps {qs : List Instr} (r tbl idx : Nat) (s : State) (hs : Keep qs s) : Keep qs (tableWrite r tbl idx s) := by
  delta tableWrite
  repeat' first
    | (with_reducible assumption)
    | (with_reducible rfl)
    | (with_reducible apply modRood_keeps)
    | (with_reducible apply modStack_keeps)
    | (with_reducible apply logUncovered_keeps)
    | (with_reducible apply putQueue_keeps)
    | (with_reducible apply onTable_keeps)
    | (with_reducible refine fun _ => ?_)
    | lift_lets
    | (intro x; refine keep_cut (qs := qs) x ?_ ?_; rotate_left; intro _; clear_value x; rotate_left; unfold x)
    | (intro x; refine keep_cut_ss (qs := qs) x ?_ ?_; rotate_left; intro hfun; clear_value x; rotate_left; unfold x)
    | (intro x; refine keep_cut_ass (qs := qs) x ?_ ?_; rotate_left; intro hfun; clear_value x; rotate_left; unfold x)
    | (intro x; refine keep_cut_abss (qs := qs) x ?_ ?_; rotate_left; intro hfun; clear_value x; rotate_left; unfold x)
    | (intro x; refine keep_cut_a (qs := qs) x ?_ ?_; rotate_left; intro hfun; clear_value x; rotate_left; unfold x)
    | (intro x; refine keep_cut_ab (qs := qs) x ?_ ?_; rotate_left; intro hfun; clear_value x; rotate_left; unfold x)
    | (intro x; refine keep_cut_abc (qs := qs) x ?_ ?_; rotate_left; intro hfun; clear_value x; rotate_left; unfold x)
    | (intro x; refine keep_cut_o1 (qs := qs) x ?_ ?_; rotate_left; intro hopt; clear_value x; rotate_left; unfold x)
    | (intro x; refine keep_cut_o (qs := qs) x ?_ ?_; rotate_left; intro hopt; clear_value x; rotate_left; unfold x)
    | (with_reducible refine hopt _ (by assumption))
    | (with_reducible exact hopt _ rfl)
    | (intro x; refine keep_cut_snd (qs := qs) x ?_ ?_; rotate_left; intro _; clear_value x; rotate_left; unfold x)
    | (intro x; clear_value x)
    | (with_reducible apply hfun)
    | (intro _)
    | split
    | (with_reducible apply AnswerKeeps.next)
    | (simp only [keep_mk, List.length_modify, List.length_map, List.length_replicate, List.length_zip, List.length_range, List.length_mapIdx, Nat.min_self])
    | (with_reducible apply Keep.toV)
    | (with_reducible apply keepV_roods)
    | (with_reducible apply keep_getD)
    | (with_reducible refine keepV_mem_nil hs ?_ ?_ ?_ ?_ ?_ ?_ ?_ ?_)
    | (rename_i he; split at he)
    | (rename_i he; injection he with he; subst he)

theorem tableDelete_keeps {qs : List Instr} (r tbl idx : Nat) (s : State) (hs : Keep qs s) : Keep qs (tableDelete r tbl idx s) := by
  delta tableDelete
  repeat' first
    | (with_reducible assumption)
    | (with_reducible apply modRood_keeps)
    | (with_reducible apply dropRegion_keeps)
    | (with_reducible apply onTable_keeps)
    | (with_reducible refine fun _ => ?_)
    | lift_lets
    | (intro x; clear_value x)
    | split
    | (simp only [keep_mk, List.length_modify, List.length_map, List.length_replicate, List.length_zip, List.length_range, List.length_mapIdx, Nat.min_self])
    | (with_reducible apply Keep.toV)

theorem execCreate_keeps {qs : List Instr} (r : Nat) (s : State) (hs : Keep qs s) : AnswerKeeps qs (execCreate r s) := by
  delta execCreate
  repeat' first
    | (with_reducible assumption)
    | (with_reducible apply createRood_keeps)
    | (with_reducible apply AnswerKeeps.next)

theorem execRoodCreated_keeps {qs : List Instr} (r : Nat) (s : State) (hs : Keep qs s) : AnswerKeeps qs (execRoodCreated r s) := by
  delta execRoodCreated
  repeat' first
    | (with_reducible assumption)
    | (with_reducible apply roodCreated_keeps)
    | (with_reducible apply AnswerKeeps.next)

theorem execReset_keeps {qs : List Instr} (r : Nat) (s : State) (hs : Keep qs s) : AnswerKeeps qs (execReset r s) := by
  delta execReset
  repeat' first
    | (with_reducible assumption)
    | (with_reducible apply resetRood_keeps)
    | (with_reducible apply AnswerKeeps.next)

theorem execRemove_keeps {qs : List Instr} (r : Nat) (s : State) (hs : Keep qs s) : AnswerKeeps qs (execRemove r s) := by
  delta execRemove
  repeat' first
    | (with_reducible assumption)
    | (with_reducible apply removeRood_keeps)
    | (with_reducible apply AnswerKeeps.next)

theorem execRoodResetDone_keeps {qs : List Instr} (r : Nat) (s : State) (hs : Keep qs s) : AnswerKeeps qs (execRoodResetDone r s) := by
  delta execRoodResetDone
  repeat' first
    | (with_reducible assumption)
    | (with_reducible apply resetDone_keeps)
    | (with_reducible apply AnswerKeeps.next)

theorem execRoodResizeApply_keeps {qs : List Instr} (r rod : Nat) (s : State) (hs : Keep qs s) : AnswerKeeps qs (execRoodResizeApply r rod s) := by
  delta execRoodResizeApply
  repeat' first
    | (with_reducible assumption)
    | (with_reducible apply resizeArm_keeps)
    | (with_reducible apply AnswerKeeps.next)

theorem execResizeApplied_keeps {qs : List Instr} (r : Nat) (s : State) (hs : Keep qs s) : AnswerKeeps qs (execResizeApplied r s) := by
  delta execResizeApplied
  repeat' first
    | (with_reducible assumption)
    | (with_reducible apply resizeApplied_keeps)
    | (with_reducible apply AnswerKeeps.next)

theorem execUnitJoinsRood_keeps {qs : List Instr} (u : FailUnit) (s : State) (hs : Keep qs s) : AnswerKeeps qs (execUnitJoinsRood u s) := by
  delta execUnitJoinsRood
  repeat' first
    | (with_reducible assumption)
    | (with_reducible apply clusterJoins_keeps)
    | (with_reducible apply engineJoins_keeps)
    | split
    | (with_reducible apply AnswerKeeps.next)

theorem execTableRead_keeps {qs : List Instr} (r tbl idx : Nat) (s : State) (hs : Keep qs s) : AnswerKeeps qs (execTableRead r tbl idx s) := by
  delta execTableRead
  repeat' first
    | (with_reducible assumption)
    | (with_reducible apply tableRead_keeps)
    | (with_reducible apply AnswerKeeps.next)

theorem execTableWrite_keeps {qs : List Instr} (r tbl idx : Nat) (s : State) (hs : Keep qs s) : AnswerKeeps qs (execTableWrite r tbl idx s) := by
  delta execTableWrite
  repeat' first
    | (with_reducible assumption)
    | (with_reducible apply tableWrite_keeps)
    | (with_reducible apply AnswerKeeps.next)

theorem execTableDelete_keeps {qs : List Instr} (r tbl idx : Nat) (s : State) (hs : Keep qs s) : AnswerKeeps qs (execTableDelete r tbl idx s) := by
  delta execTableDelete
  repeat' first
    | (with_reducible assumption)
    | (with_reducible apply tableDelete_keeps)
    | (with_reducible apply AnswerKeeps.next)

end Sys2Proof.Laws
end

