-- ==== Sys2Proof/Laws/KeepImage.lean ====
section
/-! SUPPORT. What every operation of Machine/Image.lean keeps: the waiting commands, the clock grid, the canonical form of the memories and
the bound of the event ring (Laws/Keep.lean). -/
namespace Sys2Proof.Laws

set_option linter.unusedSimpArgs false

open Sys2Proof.Machine Sys2Proof.Safety

theorem norWr_keeps {qs : List Instr} (a : Nat) (bs : List Byte) (s : State) (hs : Keep qs s) : Keep qs (norWr a bs s) := by
  obtain ⟨h1, h2, h3, h4, h5, h6, hA, hB, hC, hD⟩ := hs
  exact ⟨h1, h2, h3, h4, h5, cellSetAll_wf h6, hA, hB, hC, hD⟩

theorem commitHeader_keeps {qs : List Instr} (bs : List Byte) (s : State) (hs : Keep qs s) : Keep qs (commitHeader bs s) := by
  delta commitHeader
  repeat' first
    | (with_reducible assumption)
    | (with_reducible apply norWr_keeps)

theorem commitSlots_keeps {qs : List Instr} (active staged states : Nat) (s : State) (hs : Keep qs s) : Keep qs (commitSlots active staged states s) := by
  delta commitSlots
  repeat' first
    | (with_reducible assumption)
    | (with_reducible apply commitHeader_keeps)
    | split

end Sys2Proof.Laws
end

