-- ==== Sys2Proof/Laws/KeepKeys.lean ====
section
/-! SUPPORT. What every operation of Machine/Keys.lean keeps: the waiting commands, the clock grid, the canonical form of the memories and
the bound of the event ring (Laws/Keep.lean). -/
namespace Sys2Proof.Laws

set_option linter.unusedSimpArgs false

open Sys2Proof.Machine Sys2Proof.Safety

theorem authFailed_keeps {qs : List Instr} (subject : Nat) (s : State) (hs : Keep qs s) : Keep qs (authFailed subject s) := by
  delta authFailed
  repeat' first
    | (with_reducible assumption)
    | (with_reducible apply raiseSec_keeps)
    | (with_reducible apply logSec_keeps)

theorem loadSa_keeps {qs : List Instr} (inbound : Bool) (r i spi : Nat) (key : List Byte) (s : State) (hs : Keep qs s) : Keep qs (loadSa inbound r i spi key s).2 := by
  delta loadSa
  repeat' first
    | (with_reducible assumption)
    | (with_reducible apply modEth_keeps)
    | lift_lets
    | (intro x; clear_value x)
    | split

theorem loadSa_keeps_eq {qs : List Instr} (inbound : Bool) (r i spi : Nat) (key : List Byte) (s : State) {tOut : State} {outv : _} (hs : Keep qs s) (e : loadSa inbound r i spi key s = (outv, tOut)) : Keep qs tOut := by
  have := loadSa_keeps (qs := qs) inbound r i spi key s hs
  rw [e] at this; exact this

theorem actBlob_keeps {qs : List Instr} (b key : List Byte) (s : State) (hs : Keep qs s) : Keep qs (actBlob b key s).2 := by
  delta actBlob
  repeat' first
    | (with_reducible assumption)
    | (with_reducible apply modRood_keeps)
    | (with_reducible apply destroySa_keeps)
    | (with_reducible apply destroyNs_keeps)
    | (with_reducible apply loadSa_keeps)
    | lift_lets
    | (intro x; clear_value x)
    | split

theorem actBlob_keeps_eq {qs : List Instr} (b key : List Byte) (s : State) {tOut : State} {outv : _} (hs : Keep qs s) (e : actBlob b key s = (outv, tOut)) : Keep qs tOut := by
  have := actBlob_keeps (qs := qs) b key s hs
  rw [e] at this; exact this

theorem logLoaded_keeps {qs : List Instr} (b : List Byte) (s : State) (hs : Keep qs s) : Keep qs (logLoaded b s) := by
  delta logLoaded
  repeat' first
    | (with_reducible assumption)
    | (with_reducible apply logSec_keeps)
    | split

theorem blobRefused_keeps {qs : List Instr} (b : List Byte) (st : Nat) (s : State) (hs : Keep qs s) : Keep qs (blobRefused b st s) := by
  delta blobRefused
  repeat' first
    | (with_reducible assumption)
    | (with_reducible apply raiseSec_keeps)
    | (with_reducible apply raiseRood_keeps)
    | (with_reducible apply logSec_keeps)
    | lift_lets
    | (intro x; refine keep_cut (qs := qs) x ?_ ?_; rotate_left; intro _; clear_value x; rotate_left; unfold x)
    | (intro x; clear_value x)
    | split

theorem submitBlob_keeps {qs : List Instr} (b : List Byte) (s : State) (hs : Keep qs s) : Keep qs (submitBlob b s) := by
  delta submitBlob
  repeat' first
    | (with_reducible assumption)
    | (with_reducible apply modSec_keeps)
    | (with_reducible apply modEth_keeps)
    | (with_reducible apply actBlob_keeps)
    | (with_reducible apply logLoaded_keeps)
    | (with_reducible apply blobRefused_keeps)
    | lift_lets
    | (intro x; refine keep_cut (qs := qs) x ?_ ?_; rotate_left; intro _; clear_value x; rotate_left; unfold x)
    | split

theorem blobOf_keeps {qs : List Instr} (kind : Nat) (b : List Byte) (s : State) (hs : Keep qs s) : Keep qs (blobOf kind b s) := by
  delta blobOf
  repeat' first
    | (with_reducible assumption)
    | (with_reducible apply submitBlob_keeps)
    | split

theorem tombstoneEnds_keeps {qs : List Instr} (i : Nat) (s : State) (hs : Keep qs s) : Keep qs (tombstoneEnds i s) := by
  delta tombstoneEnds
  repeat' first
    | (with_reducible assumption)
    | (with_reducible apply modEth_keeps)
    | split

theorem issueReport_keeps {qs : List Instr} (nonce : List Byte) (binding handoff : Nat) (s : State) (hs : Keep qs s) : Keep qs (issueReport nonce binding handoff s).2 := by
  delta issueReport
  repeat' first
    | (with_reducible assumption)
    | (with_reducible apply fresh_keeps)
    | (with_reducible apply logSec_keeps)

theorem issueReport_keeps_eq {qs : List Instr} (nonce : List Byte) (binding handoff : Nat) (s : State) {tOut : State} {outv : _} (hs : Keep qs s) (e : issueReport nonce binding handoff s = (outv, tOut)) : Keep qs tOut := by
  have := issueReport_keeps (qs := qs) nonce binding handoff s hs
  rw [e] at this; exact this

theorem loadPiece_keeps {qs : List Instr} (object piece : Nat) (bs : List Byte) (s : State) (hs : Keep qs s) : Keep qs (loadPiece object piece bs s) := by
  delta loadPiece
  repeat' first
    | (with_reducible assumption)
    | (with_reducible rfl)
    | (with_reducible apply modSec_keeps)
    | (with_reducible refine fun _ => ?_)
    | lift_lets
    | (intro x; refine keep_cut (qs := qs) x ?_ ?_; rotate_left; intro _; clear_value x; rotate_left; unfold x)
    | (intro x; refine keep_cut_ss (qs := qs) x ?_ ?_; rotate_left; intro hfun; clear_value x; rotate_left; unfold x)
    | (intro x; refine keep_cut_ass (qs := qs) x ?_ ?_; rotate_left; intro hfun; clear_value x; rotate_left; unfold x)
    | (intro x; refine keep_cut_abss (qs := qs) x ?_ ?_; rotate_left; intro hfun; clear_value x; rotate_left; unfold x)
    | (intro x; refine keep_cut_a (qs := qs) x ?_ ?_; rotate_left; intro hfun; clear_value x; rotate_left; unfold x)
    | (intro x; refine keep_cut_ab (qs := qs) x ?_ ?_; rotate_left; intro hfun; clear_value x; rotate_left; unfold x)
    | (intro x; refine keep_cut_abc (qs := qs) x ?_ ?_; rotate_left; intro hfun; clear_value x; rotate_left; unfold x)
    | (intro x; refine keep_cut_o1 (qs := qs) x ?_ ?_; rotate_left; intro hopt; clear_value x; rotate_left; unfold x)
    | (intro x; refine keep_cut_o (qs := qs) x ?_ ?_; rotate_left; intro hopt; clear_value x; rotate_left; unfold x)
    | (with_reducible refine hopt _ (by assumption))
    | (with_reducible exact hopt _ rfl)
    | (intro x; refine keep_cut_snd (qs := qs) x ?_ ?_; rotate_left; intro _; clear_value x; rotate_left; unfold x)
    | (intro x; clear_value x)
    | (with_reducible apply hfun)
    | (intro _)
    | split
    | (with_reducible apply AnswerKeeps.next)
    | (simp only [keep_mk, List.length_modify, List.length_map, List.length_replicate, List.length_zip, List.length_range, List.length_mapIdx, Nat.min_self])
    | (with_reducible apply Keep.toV)
    | (with_reducible apply keepV_roods)
    | (with_reducible apply keep_getD)
    | (with_reducible refine keepV_mem_nil hs ?_ ?_ ?_ ?_ ?_ ?_ ?_ ?_)
    | (rename_i he; split at he)
    | (rename_i he; injection he with he; subst he)

theorem issueRequested_keeps {qs : List Instr} (waited : Bool) (s : State) (hs : Keep qs s) : Keep qs (issueRequested waited s) := by
  delta issueRequested
  repeat' first
    | (with_reducible assumption)
    | (with_reducible rfl)
    | (with_reducible apply modSec_keeps)
    | (with_reducible apply forAll_keeps)
    | (with_reducible apply issueReport_keeps)
    | (with_reducible refine issueReport_keeps_eq _ _ _ _ ?_ (by assumption))
    | (with_reducible apply loadPiece_keeps)
    | (with_reducible refine fun _ => ?_)
    | lift_lets
    | (intro x; refine keep_cut (qs := qs) x ?_ ?_; rotate_left; intro _; clear_value x; rotate_left; unfold x)
    | (intro x; refine keep_cut_ss (qs := qs) x ?_ ?_; rotate_left; intro hfun; clear_value x; rotate_left; unfold x)
    | (intro x; refine keep_cut_ass (qs := qs) x ?_ ?_; rotate_left; intro hfun; clear_value x; rotate_left; unfold x)
    | (intro x; refine keep_cut_abss (qs := qs) x ?_ ?_; rotate_left; intro hfun; clear_value x; rotate_left; unfold x)
    | (intro x; refine keep_cut_a (qs := qs) x ?_ ?_; rotate_left; intro hfun; clear_value x; rotate_left; unfold x)
    | (intro x; refine keep_cut_ab (qs := qs) x ?_ ?_; rotate_left; intro hfun; clear_value x; rotate_left; unfold x)
    | (intro x; refine keep_cut_abc (qs := qs) x ?_ ?_; rotate_left; intro hfun; clear_value x; rotate_left; unfold x)
    | (intro x; refine keep_cut_o1 (qs := qs) x ?_ ?_; rotate_left; intro hopt; clear_value x; rotate_left; unfold x)
    | (intro x; refine keep_cut_o (qs := qs) x ?_ ?_; rotate_left; intro hopt; clear_value x; rotate_left; unfold x)
    | (with_reducible refine hopt _ (by assumption))
    | (with_reducible exact hopt _ rfl)
    | (intro x; refine keep_cut_snd (qs := qs) x ?_ ?_; rotate_left; intro _; clear_value x; rotate_left; unfold x)
    | (intro x; clear_value x)
    | (with_reducible apply hfun)
    | (intro _)
    | split
    | (with_reducible apply AnswerKeeps.next)
    | (simp only [keep_mk, List.length_modify, List.length_map, List.length_replicate, List.length_zip, List.length_range, List.length_mapIdx, Nat.min_self])
    | (with_reducible apply Keep.toV)
    | (with_reducible apply keepV_roods)
    | (with_reducible apply keep_getD)
    | (with_reducible refine keepV_mem_nil hs ?_ ?_ ?_ ?_ ?_ ?_ ?_ ?_)
    | (rename_i he; split at he)
    | (rename_i he; injection he with he; subst he)

theorem squashReport_keeps {qs : List Instr} (s : State) (hs : Keep qs s) : Keep qs (squashReport s) := by
  delta squashReport
  repeat' first
    | (with_reducible assumption)
    | (with_reducible rfl)
    | (with_reducible apply modSec_keeps)
    | (with_reducible refine fun _ => ?_)
    | lift_lets
    | (intro x; refine keep_cut (qs := qs) x ?_ ?_; rotate_left; intro _; clear_value x; rotate_left; unfold x)
    | (intro x; refine keep_cut_ss (qs := qs) x ?_ ?_; rotate_left; intro hfun; clear_value x; rotate_left; unfold x)
    | (intro x; refine keep_cut_ass (qs := qs) x ?_ ?_; rotate_left; intro hfun; clear_value x; rotate_left; unfold x)
    | (intro x; refine keep_cut_abss (qs := qs) x ?_ ?_; rotate_left; intro hfun; clear_value x; rotate_left; unfold x)
    | (intro x; refine keep_cut_a (qs := qs) x ?_ ?_; rotate_left; intro hfun; clear_value x; rotate_left; unfold x)
    | (intro x; refine keep_cut_ab (qs := qs) x ?_ ?_; rotate_left; intro hfun; clear_value x; rotate_left; unfold x)
    | (intro x; refine keep_cut_abc (qs := qs) x ?_ ?_; rotate_left; intro hfun; clear_value x; rotate_left; unfold x)
    | (intro x; refine keep_cut_o1 (qs := qs) x ?_ ?_; rotate_left; intro hopt; clear_value x; rotate_left; unfold x)
    | (intro x; refine keep_cut_o (qs := qs) x ?_ ?_; rotate_left; intro hopt; clear_value x; rotate_left; unfold x)
    | (with_reducible refine hopt _ (by assumption))
    | (with_reducible exact hopt _ rfl)
    | (intro x; refine keep_cut_snd (qs := qs) x ?_ ?_; rotate_left; intro _; clear_value x; rotate_left; unfold x)
    | (intro x; clear_value x)
    | (with_reducible apply hfun)
    | (intro _)
    | split
    | (with_reducible apply AnswerKeeps.next)
    | (simp only [keep_mk, List.length_modify, List.length_map, List.length_replicate, List.length_zip, List.length_range, List.length_mapIdx, Nat.min_self])
    | (with_reducible apply Keep.toV)
    | (with_reducible apply keepV_roods)
    | (with_reducible apply keep_getD)
    | (with_reducible refine keepV_mem_nil hs ?_ ?_ ?_ ?_ ?_ ?_ ?_ ?_)
    | (rename_i he; split at he)
    | (rename_i he; injection he with he; subst he)

theorem requestReport_keeps {qs : List Instr} (s : State) (hs : Keep qs s) : Keep qs (requestReport s) := by
  delta requestReport
  repeat' first
    | (with_reducible assumption)
    | (with_reducible apply modSec_keeps)
    | (with_reducible apply issueRequested_keeps)
    | split

theorem waitingReport_keeps {qs : List Instr} (s : State) (hs : Keep qs s) : Keep qs (waitingReport s) := by
  delta waitingReport
  repeat' first
    | (with_reducible assumption)
    | (with_reducible apply issueRequested_keeps)
    | split

theorem selectPiece_keeps {qs : List Instr} (object piece : Nat) (s : State) (hs : Keep qs s) : Keep qs (selectPiece object piece s) := by
  delta selectPiece
  repeat' first
    | (with_reducible assumption)
    | (with_reducible rfl)
    | (with_reducible apply modSec_keeps)
    | (with_reducible apply loadPiece_keeps)
    | (with_reducible refine fun _ => ?_)
    | lift_lets
    | (intro x; refine keep_cut (qs := qs) x ?_ ?_; rotate_left; intro _; clear_value x; rotate_left; unfold x)
    | (intro x; refine keep_cut_ss (qs := qs) x ?_ ?_; rotate_left; intro hfun; clear_value x; rotate_left; unfold x)
    | (intro x; refine keep_cut_ass (qs := qs) x ?_ ?_; rotate_left; intro hfun; clear_value x; rotate_left; unfold x)
    | (intro x; refine keep_cut_abss (qs := qs) x ?_ ?_; rotate_left; intro hfun; clear_value x; rotate_left; unfold x)
    | (intro x; refine keep_cut_a (qs := qs) x ?_ ?_; rotate_left; intro hfun; clear_value x; rotate_left; unfold x)
    | (intro x; refine keep_cut_ab (qs := qs) x ?_ ?_; rotate_left; intro hfun; clear_value x; rotate_left; unfold x)
    | (intro x; refine keep_cut_abc (qs := qs) x ?_ ?_; rotate_left; intro hfun; clear_value x; rotate_left; unfold x)
    | (intro x; refine keep_cut_o1 (qs := qs) x ?_ ?_; rotate_left; intro hopt; clear_value x; rotate_left; unfold x)
    | (intro x; refine keep_cut_o (qs := qs) x ?_ ?_; rotate_left; intro hopt; clear_value x; rotate_left; unfold x)
    | (with_reducible refine hopt _ (by assumption))
    | (with_reducible exact hopt _ rfl)
    | (intro x; refine keep_cut_snd (qs := qs) x ?_ ?_; rotate_left; intro _; clear_value x; rotate_left; unfold x)
    | (intro x; clear_value x)
    | (with_reducible apply hfun)
    | (intro _)
    | split
    | (with_reducible apply AnswerKeeps.next)
    | (simp only [keep_mk, List.length_modify, List.length_map, List.length_replicate, List.length_zip, List.length_range, List.length_mapIdx, Nat.min_self])
    | (with_reducible apply Keep.toV)
    | (with_reducible apply keepV_roods)
    | (with_reducible apply keep_getD)
    | (with_reducible refine keepV_mem_nil hs ?_ ?_ ?_ ?_ ?_ ?_ ?_ ?_)
    | (rename_i he; split at he)
    | (rename_i he; injection he with he; subst he)

theorem readNonce_keeps {qs : List Instr} (s : State) (hs : Keep qs s) : Keep qs (readNonce s).2 := by
  delta readNonce
  repeat' first
    | (with_reducible assumption)
    | (with_reducible apply modSec_keeps)
    | (with_reducible apply fresh_keeps)

theorem readNonce_keeps_eq {qs : List Instr} (s : State) {tOut : State} {outv : _} (hs : Keep qs s) (e : readNonce s = (outv, tOut)) : Keep qs tOut := by
  have := readNonce_keeps (qs := qs) s hs
  rw [e] at this; exact this

theorem grantDone_keeps {qs : List Instr} (cmd target st : Nat) (s : State) (hs : Keep qs s) : Keep qs (grantDone cmd target st s) := by
  delta grantDone
  repeat' first
    | (with_reducible assumption)
    | (with_reducible apply modSec_keeps)
    | (with_reducible apply raiseSec_keeps)
    | (with_reducible apply authFailed_keeps)
    | lift_lets
    | (intro x; refine keep_cut (qs := qs) x ?_ ?_; rotate_left; intro _; clear_value x; rotate_left; unfold x)
    | split

theorem enterDebug_keeps {qs : List Instr} (d : Nat) (s : State) (hs : Keep qs s) : Keep qs (enterDebug d s) := by
  delta enterDebug
  repeat' first
    | (with_reducible assumption)
    | (with_reducible apply modSec_keeps)
    | (with_reducible apply logSec_keeps)

theorem leaveD2_keeps {qs : List Instr} (d : Nat) (s : State) (hs : Keep qs s) : Keep qs (leaveD2 d s) := by
  delta leaveD2
  repeat' first
    | (with_reducible assumption)
    | (with_reducible apply modEngine_keeps)
    | (with_reducible apply forAll_keeps)
    | (with_reducible apply scrubCluster_keeps)
    | (with_reducible apply scrubEngine_keeps)
    | (with_reducible apply endDescs_keeps)
    | (with_reducible apply enterDebug_keeps)
    | (with_reducible refine fun _ => ?_)

theorem leaveDebug_keeps {qs : List Instr} (d : Nat) (s : State) (hs : Keep qs s) : Keep qs (leaveDebug d s) := by
  delta leaveDebug
  repeat' first
    | (with_reducible assumption)
    | (with_reducible apply enterDebug_keeps)
    | (with_reducible apply leaveD2_keeps)
    | split

theorem enterD1_keeps {qs : List Instr} (s : State) (hs : Keep qs s) : Keep qs (enterD1 s) := by
  delta enterD1
  repeat' first
    | (with_reducible assumption)
    | (with_reducible apply grantDone_keeps)
    | (with_reducible apply enterDebug_keeps)
    | lift_lets
    | (intro x; clear_value x)
    | split

theorem removeAll_keeps {qs : List Instr} (s : State) (hs : Keep qs s) : Keep qs (removeAll s) := by
  delta removeAll
  repeat' first
    | (with_reducible assumption)
    | (with_reducible apply modRood_keeps)
    | (with_reducible apply forAll_keeps)
    | (with_reducible apply beginReset_keeps)
    | (with_reducible refine fun _ => ?_)
    | split

theorem presentGrant_keeps {qs : List Instr} (s : State) (hs : Keep qs s) : Keep qs (presentGrant s) := by
  delta presentGrant
  repeat' first
    | (with_reducible assumption)
    | (with_reducible apply modSec_keeps)
    | (with_reducible apply forAll_keeps)
    | (with_reducible apply destroyNs_keeps)
    | (with_reducible apply grantDone_keeps)
    | (with_reducible apply enterDebug_keeps)
    | (with_reducible apply removeAll_keeps)
    | lift_lets
    | (intro x; refine keep_cut (qs := qs) x ?_ ?_; rotate_left; intro _; clear_value x; rotate_left; unfold x)
    | (intro x; clear_value x)
    | split

theorem leaveGrant_keeps {qs : List Instr} (target : Nat) (s : State) (hs : Keep qs s) : Keep qs (leaveGrant target s) := by
  delta leaveGrant
  repeat' first
    | (with_reducible assumption)
    | (with_reducible apply grantDone_keeps)
    | (with_reducible apply leaveDebug_keeps)
    | split

theorem d2Expires_keeps {qs : List Instr} (s : State) (hs : Keep qs s) : Keep qs (d2Expires s) := by
  delta d2Expires
  repeat' first
    | (with_reducible assumption)
    | (with_reducible apply leaveD2_keeps)
    | split

theorem lifeDone_keeps {qs : List Instr} (cmd st : Nat) (s : State) (hs : Keep qs s) : Keep qs (lifeDone cmd st s) := by
  delta lifeDone
  repeat' first
    | (with_reducible assumption)
    | (with_reducible apply modSec_keeps)
    | (with_reducible apply raiseSec_keeps)
    | (with_reducible apply authFailed_keeps)
    | lift_lets
    | (intro x; refine keep_cut (qs := qs) x ?_ ?_; rotate_left; intro _; clear_value x; rotate_left; unfold x)
    | split

theorem toS1_keeps {qs : List Instr} (s : State) (hs : Keep qs s) : Keep qs (toS1 s) := by
  delta toS1
  repeat' first
    | (with_reducible assumption)
    | (with_reducible apply modSec_keeps)
    | (with_reducible apply lifeDone_keeps)
    | split

theorem toS2_keeps {qs : List Instr} (s : State) (hs : Keep qs s) : Keep qs (toS2 s) := by
  delta toS2
  repeat' first
    | (with_reducible assumption)
    | (with_reducible apply modSec_keeps)
    | (with_reducible apply lifeDone_keeps)
    | split

theorem endSession_keeps {qs : List Instr} (st : AttachState) (s : State) (hs : Keep qs s) : Keep qs (endSession st s) := by
  delta endSession
  repeat' first
    | (with_reducible assumption)
    | (with_reducible rfl)
    | (with_reducible apply modSec_keeps)
    | (with_reducible apply modEth_keeps)
    | (with_reducible apply squashReport_keeps)
    | (with_reducible refine fun _ => ?_)
    | lift_lets
    | (intro x; refine keep_cut (qs := qs) x ?_ ?_; rotate_left; intro _; clear_value x; rotate_left; unfold x)
    | (intro x; refine keep_cut_ss (qs := qs) x ?_ ?_; rotate_left; intro hfun; clear_value x; rotate_left; unfold x)
    | (intro x; refine keep_cut_ass (qs := qs) x ?_ ?_; rotate_left; intro hfun; clear_value x; rotate_left; unfold x)
    | (intro x; refine keep_cut_abss (qs := qs) x ?_ ?_; rotate_left; intro hfun; clear_value x; rotate_left; unfold x)
    | (intro x; refine keep_cut_a (qs := qs) x ?_ ?_; rotate_left; intro hfun; clear_value x; rotate_left; unfold x)
    | (intro x; refine keep_cut_ab (qs := qs) x ?_ ?_; rotate_left; intro hfun; clear_value x; rotate_left; unfold x)
    | (intro x; refine keep_cut_abc (qs := qs) x ?_ ?_; rotate_left; intro hfun; clear_value x; rotate_left; unfold x)
    | (intro x; refine keep_cut_o1 (qs := qs) x ?_ ?_; rotate_left; intro hopt; clear_value x; rotate_left; unfold x)
    | (intro x; refine keep_cut_o (qs := qs) x ?_ ?_; rotate_left; intro hopt; clear_value x; rotate_left; unfold x)
    | (with_reducible refine hopt _ (by assumption))
    | (with_reducible exact hopt _ rfl)
    | (intro x; refine keep_cut_snd (qs := qs) x ?_ ?_; rotate_left; intro _; clear_value x; rotate_left; unfold x)
    | (intro x; clear_value x)
    | (with_reducible apply hfun)
    | (intro _)
    | split
    | (with_reducible apply AnswerKeeps.next)
    | (simp only [keep_mk, List.length_modify, List.length_map, List.length_replicate, List.length_zip, List.length_range, List.length_mapIdx, Nat.min_self])
    | (with_reducible apply Keep.toV)
    | (with_reducible apply keepV_roods)
    | (with_reducible apply keep_getD)
    | (with_reducible refine keepV_mem_nil hs ?_ ?_ ?_ ?_ ?_ ?_ ?_ ?_)
    | (rename_i he; split at he)
    | (rename_i he; injection he with he; subst he)

theorem toS3_keeps {qs : List Instr} (s : State) (hs : Keep qs s) : Keep qs (toS3 s) := by
  delta toS3
  repeat' first
    | (with_reducible assumption)
    | (with_reducible apply modSec_keeps)
    | (with_reducible apply forAll_keeps)
    | (with_reducible apply logSec_keeps)
    | (with_reducible apply destroySa_keeps)
    | (with_reducible apply destroyNs_keeps)
    | (with_reducible apply leaveDebug_keeps)
    | (with_reducible apply removeAll_keeps)
    | (with_reducible apply lifeDone_keeps)
    | (with_reducible apply endSession_keeps)
    | lift_lets
    | (intro x; refine keep_cut (qs := qs) x ?_ ?_; rotate_left; intro _; clear_value x; rotate_left; unfold x)
    | (intro x; clear_value x)
    | split
    | (simp only [keep_mk, List.length_modify, List.length_map, List.length_replicate, List.length_zip, List.length_range, List.length_mapIdx, Nat.min_self])
    | (with_reducible apply Keep.toV)

theorem execSaIn_keeps {qs : List Instr} (blob : List Byte) (s : State) (hs : Keep qs s) : AnswerKeeps qs (execSaIn blob s) := by
  delta execSaIn
  repeat' first
    | (with_reducible assumption)
    | (with_reducible apply blobOf_keeps)
    | (with_reducible apply AnswerKeeps.next)

theorem execSaOut_keeps {qs : List Instr} (blob : List Byte) (s : State) (hs : Keep qs s) : AnswerKeeps qs (execSaOut blob s) := by
  delta execSaOut
  repeat' first
    | (with_reducible assumption)
    | (with_reducible apply blobOf_keeps)
    | (with_reducible apply AnswerKeeps.next)

theorem execDebugKey_keeps {qs : List Instr} (blob : List Byte) (s : State) (hs : Keep qs s) : AnswerKeeps qs (execDebugKey blob s) := by
  delta execDebugKey
  repeat' first
    | (with_reducible assumption)
    | (with_reducible apply blobOf_keeps)
    | (with_reducible apply AnswerKeeps.next)

theorem execDestroySa_keeps {qs : List Instr} (blob : List Byte) (s : State) (hs : Keep qs s) : AnswerKeeps qs (execDestroySa blob s) := by
  delta execDestroySa
  repeat' first
    | (with_reducible assumption)
    | (with_reducible apply blobOf_keeps)
    | (with_reducible apply AnswerKeeps.next)

theorem execDestroyNs_keeps {qs : List Instr} (blob : List Byte) (s : State) (hs : Keep qs s) : AnswerKeeps qs (execDestroyNs blob s) := by
  delta execDestroyNs
  repeat' first
    | (with_reducible assumption)
    | (with_reducible apply blobOf_keeps)
    | (with_reducible apply AnswerKeeps.next)

theorem execTombstoneExpire_keeps {qs : List Instr} (sa : Nat) (s : State) (hs : Keep qs s) : AnswerKeeps qs (execTombstoneExpire sa s) := by
  delta execTombstoneExpire
  repeat' first
    | (with_reducible assumption)
    | (with_reducible apply tombstoneEnds_keeps)
    | (with_reducible apply AnswerKeeps.next)

theorem execSecNonce_keeps {qs : List Instr} (s : State) (hs : Keep qs s) : AnswerKeeps qs (execSecNonce s) := by
  delta execSecNonce
  repeat' first
    | (with_reducible assumption)
    | (with_reducible apply readNonce_keeps)
    | split
    | (with_reducible apply AnswerKeeps.next)

theorem execRequest_keeps {qs : List Instr} (s : State) (hs : Keep qs s) : AnswerKeeps qs (execRequest s) := by
  delta execRequest
  repeat' first
    | (with_reducible assumption)
    | (with_reducible apply requestReport_keeps)
    | (with_reducible apply AnswerKeeps.next)

theorem execSelect_keeps {qs : List Instr} (object piece : Nat) (s : State) (hs : Keep qs s) : AnswerKeeps qs (execSelect object piece s) := by
  delta execSelect
  repeat' first
    | (with_reducible assumption)
    | (with_reducible apply selectPiece_keeps)
    | (with_reducible apply AnswerKeeps.next)

theorem execEnterD1_keeps {qs : List Instr} (s : State) (hs : Keep qs s) : AnswerKeeps qs (execEnterD1 s) := by
  delta execEnterD1
  repeat' first
    | (with_reducible assumption)
    | (with_reducible apply enterD1_keeps)
    | (with_reducible apply AnswerKeeps.next)

theorem execPresent_keeps {qs : List Instr} (s : State) (hs : Keep qs s) : AnswerKeeps qs (execPresent s) := by
  delta execPresent
  repeat' first
    | (with_reducible assumption)
    | (with_reducible apply presentGrant_keeps)
    | (with_reducible apply AnswerKeeps.next)

theorem execLeave_keeps {qs : List Instr} (target : Nat) (s : State) (hs : Keep qs s) : AnswerKeeps qs (execLeave target s) := by
  delta execLeave
  repeat' first
    | (with_reducible assumption)
    | (with_reducible apply leaveGrant_keeps)
    | (with_reducible apply AnswerKeeps.next)

theorem execD2Expiry_keeps {qs : List Instr} (s : State) (hs : Keep qs s) : AnswerKeeps qs (execD2Expiry s) := by
  delta execD2Expiry
  repeat' first
    | (with_reducible assumption)
    | (with_reducible apply d2Expires_keeps)
    | (with_reducible apply AnswerKeeps.next)

theorem execToS1_keeps {qs : List Instr} (s : State) (hs : Keep qs s) : AnswerKeeps qs (execToS1 s) := by
  delta execToS1
  repeat' first
    | (with_reducible assumption)
    | (with_reducible apply toS1_keeps)
    | (with_reducible apply AnswerKeeps.next)

theorem execToS2_keeps {qs : List Instr} (s : State) (hs : Keep qs s) : AnswerKeeps qs (execToS2 s) := by
  delta execToS2
  repeat' first
    | (with_reducible assumption)
    | (with_reducible apply toS2_keeps)
    | (with_reducible apply AnswerKeeps.next)

theorem execToS3_keeps {qs : List Instr} (s : State) (hs : Keep qs s) : AnswerKeeps qs (execToS3 s) := by
  delta execToS3
  repeat' first
    | (with_reducible assumption)
    | (with_reducible apply toS3_keeps)
    | (with_reducible apply AnswerKeeps.next)

end Sys2Proof.Laws
end

