-- ==== Sys2Proof/Laws/KeepPower.lean ====
section
/-! SUPPORT. What every operation of Machine/Power.lean keeps: the waiting commands, the clock grid, the canonical form of the memories and
the bound of the event ring (Laws/Keep.lean). -/
namespace Sys2Proof.Laws

set_option linter.unusedSimpArgs false

open Sys2Proof.Machine Sys2Proof.Safety

theorem settleState_keeps {qs : List Instr} (s : State) (hs : Keep qs s) : Keep qs (settleState s) := by
  delta settleState
  repeat' first
    | (with_reducible assumption)
    | (with_reducible apply fresh_keeps)
    | (with_reducible apply changePstate_keeps)
    | lift_lets
    | (intro x; clear_value x)
    | split

theorem settleClocks_keeps {qs : List Instr} (s : State) (hs : Keep qs s) : Keep qs (settleClocks s) := by
  delta settleClocks
  repeat' first
    | (with_reducible assumption)
    | (with_reducible rfl)
    | (with_reducible apply settleState_keeps)
    | (with_reducible refine fun _ => ?_)
    | lift_lets
    | (intro x; refine keep_cut (qs := qs) x ?_ ?_; rotate_left; intro _; clear_value x; rotate_left; unfold x)
    | (intro x; refine keep_cut_ss (qs := qs) x ?_ ?_; rotate_left; intro hfun; clear_value x; rotate_left; unfold x)
    | (intro x; refine keep_cut_ass (qs := qs) x ?_ ?_; rotate_left; intro hfun; clear_value x; rotate_left; unfold x)
    | (intro x; refine keep_cut_abss (qs := qs) x ?_ ?_; rotate_left; intro hfun; clear_value x; rotate_left; unfold x)
    | (intro x; refine keep_cut_a (qs := qs) x ?_ ?_; rotate_left; intro hfun; clear_value x; rotate_left; unfold x)
    | (intro x; refine keep_cut_ab (qs := qs) x ?_ ?_; rotate_left; intro hfun; clear_value x; rotate_left; unfold x)
    | (intro x; refine keep_cut_abc (qs := qs) x ?_ ?_; rotate_left; intro hfun; clear_value x; rotate_left; unfold x)
    | (intro x; refine keep_cut_o1 (qs := qs) x ?_ ?_; rotate_left; intro hopt; clear_value x; rotate_left; unfold x)
    | (intro x; refine keep_cut_o (qs := qs) x ?_ ?_; rotate_left; intro hopt; clear_value x; rotate_left; unfold x)
    | (with_reducible refine hopt _ (by assumption))
    | (with_reducible exact hopt _ rfl)
    | (intro x; refine keep_cut_snd (qs := qs) x ?_ ?_; rotate_left; intro _; clear_value x; rotate_left; unfold x)
    | (intro x; clear_value x)
    | (with_reducible apply hfun)
    | (intro _)
    | split
    | (with_reducible apply AnswerKeeps.next)
    | (simp only [keep_mk, List.length_modify, List.length_map, List.length_replicate, List.length_zip, List.length_range, List.length_mapIdx, Nat.min_self])
    | (with_reducible apply Keep.toV)
    | (with_reducible apply keepV_roods)
    | (with_reducible apply keep_getD)
    | (with_reducible refine keepV_mem_nil hs ?_ ?_ ?_ ?_ ?_ ?_ ?_ ?_)
    | (rename_i he; split at he)
    | (rename_i he; injection he with he; subst he)

theorem logCeiling_keeps {qs : List Instr} (clu frk cause : Nat) (s : State) (hs : Keep qs s) : Keep qs (logCeiling clu frk cause s) := by
  delta logCeiling
  repeat' first
    | (with_reducible assumption)
    | (with_reducible apply logEv_keeps)

theorem moveCeiling_keeps {qs : List Instr} (up : Bool) (s : State) (hs : Keep qs s) : Keep qs (moveCeiling up s) := by
  delta moveCeiling
  repeat' first
    | (with_reducible assumption)
    | (with_reducible apply logCeiling_keeps)
    | lift_lets
    | (intro x; clear_value x)
    | (intro _)
    | split
    | (simp only [keep_mk, List.length_modify, List.length_map, List.length_replicate, List.length_zip, List.length_range, List.length_mapIdx, Nat.min_self])
    | (with_reducible apply Keep.toV)

theorem lowerBoth_keeps {qs : List Instr} (d : Nat) (s : State) (hs : Keep qs s) : Keep qs (lowerBoth d s) := by
  delta lowerBoth
  repeat' first
    | (with_reducible assumption)
    | (with_reducible apply logCeiling_keeps)
    | lift_lets
    | (intro x; clear_value x)
    | split
    | (simp only [keep_mk, List.length_modify, List.length_map, List.length_replicate, List.length_zip, List.length_range, List.length_mapIdx, Nat.min_self])
    | (with_reducible apply Keep.toV)

theorem freeSpare_keeps {qs : List Instr} (s : State) (hs : Keep qs s) : Keep qs (freeSpare s) := by
  delta freeSpare
  repeat' first
    | (with_reducible assumption)
    | (with_reducible apply modFwc_keeps)
    | (with_reducible apply mapChange_keeps)
    | split

theorem endUpdate_keeps {qs : List Instr} (st : Nat) (s : State) (hs : Keep qs s) : Keep qs (endUpdate st s) := by
  delta endUpdate
  repeat' first
    | (with_reducible assumption)
    | (with_reducible apply modFwc_keeps)
    | (with_reducible apply logEv_keeps)
    | (with_reducible apply raiseFwc_keeps)
    | (with_reducible apply freeSpare_keeps)
    | lift_lets
    | (intro x; refine keep_cut (qs := qs) x ?_ ?_; rotate_left; intro _; clear_value x; rotate_left; unfold x)
    | (intro x; clear_value x)
    | split

theorem deferUpdate_keeps {qs : List Instr} (s : State) (hs : Keep qs s) : Keep qs (deferUpdate s) := by
  delta deferUpdate
  repeat' first
    | (with_reducible assumption)
    | (with_reducible apply modFwc_keeps)
    | (with_reducible apply logEv_keeps)

theorem logFlag_keeps {qs : List Instr} (i : Nat) (unit : Option Nat) (s : State) (hs : Keep qs s) : Keep qs (logFlag i unit s) := by
  delta logFlag
  repeat' first
    | (with_reducible assumption)
    | (with_reducible apply fresh_keeps)
    | (with_reducible apply logEv_keeps)
    | split

theorem setFlag_keeps {qs : List Instr} (i : Nat) (unit : Option Nat) (s : State) (hs : Keep qs s) : Keep qs (setFlag i unit s) := by
  delta setFlag
  repeat' first
    | (with_reducible assumption)
    | (with_reducible apply modFwc_keeps)
    | (with_reducible apply modPins_keeps)
    | (with_reducible apply raiseFwc_keeps)
    | (with_reducible apply freeSpare_keeps)
    | (with_reducible apply deferUpdate_keeps)
    | (with_reducible apply logFlag_keeps)
    | lift_lets
    | (intro x; refine keep_cut (qs := qs) x ?_ ?_; rotate_left; intro _; clear_value x; rotate_left; unfold x)
    | split

theorem clearFlag_keeps {qs : List Instr} (i : Nat) (s : State) (hs : Keep qs s) : Keep qs (clearFlag i s) := by
  delta clearFlag
  repeat' first
    | (with_reducible assumption)
    | (with_reducible apply modFwc_keeps)
    | (with_reducible apply logEv_keeps)
    | split

theorem phaseFails_keeps {qs : List Instr} (p : Nat) (s : State) (hs : Keep qs s) : Keep qs (phaseFails p s) := by
  delta phaseFails
  repeat' first
    | (with_reducible assumption)
    | (with_reducible apply modFwc_keeps)
    | (with_reducible apply logEv_keeps)
    | (with_reducible apply raiseFwc_keeps)
    | (with_reducible apply mapChange_keeps)
    | (with_reducible apply setFlag_keeps)
    | lift_lets
    | (intro x; refine keep_cut (qs := qs) x ?_ ?_; rotate_left; intro _; clear_value x; rotate_left; unfold x)
    | (intro x; clear_value x)
    | split

theorem phaseLoaded_keeps {qs : List Instr} (p : Nat) (s : State) (hs : Keep qs s) : Keep qs (phaseLoaded p s) := by
  delta phaseLoaded
  repeat' first
    | (with_reducible assumption)
    | (with_reducible apply modFwc_keeps)
    | (with_reducible apply clearFlag_keeps)
    | lift_lets
    | (intro x; refine keep_cut (qs := qs) x ?_ ?_; rotate_left; intro _; clear_value x; rotate_left; unfold x)
    | split

theorem phaseShares_keeps {qs : List Instr} (out : Bool) (p : Nat) (s : State) (hs : Keep qs s) : Keep qs (phaseShares out p s) := by
  delta phaseShares
  repeat' first
    | (with_reducible assumption)
    | (with_reducible apply modFwc_keeps)
    | (with_reducible apply phaseFails_keeps)
    | split

theorem takeReading_keeps {qs : List Instr} (p : PowerReading) (s : State) (hs : Keep qs s) : Keep qs (takeReading p s) := by
  delta takeReading
  repeat' first
    | (with_reducible assumption)
    | (with_reducible apply modFwc_keeps)

theorem powerFlags_keeps {qs : List Instr} (s : State) (hs : Keep qs s) : Keep qs (powerFlags s) := by
  delta powerFlags
  repeat' first
    | (with_reducible assumption)
    | (with_reducible apply setFlag_keeps)
    | (with_reducible apply clearFlag_keeps)
    | lift_lets
    | (intro x; refine keep_cut (qs := qs) x ?_ ?_; rotate_left; intro _; clear_value x; rotate_left; unfold x)
    | split

theorem powerCeilings_keeps {qs : List Instr} (s : State) (hs : Keep qs s) : Keep qs (powerCeilings s) := by
  delta powerCeilings
  repeat' first
    | (with_reducible assumption)
    | (with_reducible apply modFwc_keeps)
    | (with_reducible apply logEv_keeps)
    | (with_reducible apply raiseFwc_keeps)
    | (with_reducible apply moveCeiling_keeps)
    | (with_reducible apply lowerBoth_keeps)
    | lift_lets
    | (intro x; refine keep_cut (qs := qs) x ?_ ?_; rotate_left; intro _; clear_value x; rotate_left; unfold x)
    | (intro x; clear_value x)
    | split

theorem powerPeriod_keeps {qs : List Instr} (p : PowerReading) (s : State) (hs : Keep qs s) : Keep qs (powerPeriod p s) := by
  delta powerPeriod
  repeat' first
    | (with_reducible assumption)
    | (with_reducible apply forAll_keeps)
    | (with_reducible apply settleClocks_keeps)
    | (with_reducible apply phaseLoaded_keeps)
    | (with_reducible apply phaseShares_keeps)
    | (with_reducible apply takeReading_keeps)
    | (with_reducible apply powerFlags_keeps)
    | (with_reducible apply powerCeilings_keeps)
    | (with_reducible refine fun _ => ?_)
    | lift_lets
    | (intro x; refine keep_cut (qs := qs) x ?_ ?_; rotate_left; intro _; clear_value x; rotate_left; unfold x)
    | split

theorem fastLimit_keeps {qs : List Instr} (avg : Nat) (s : State) (hs : Keep qs s) : Keep qs (fastLimit avg s) := by
  delta fastLimit
  repeat' first
    | (with_reducible assumption)
    | (with_reducible apply modFwc_keeps)
    | (with_reducible apply settleClocks_keeps)
    | (with_reducible apply lowerBoth_keeps)
    | (with_reducible apply setFlag_keeps)
    | lift_lets
    | (intro x; refine keep_cut (qs := qs) x ?_ ?_; rotate_left; intro _; clear_value x; rotate_left; unfold x)
    | split

theorem thermalPeriod_keeps {qs : List Instr} (u : ThermalUnit) (junction dram : Nat) (s : State) (hs : Keep qs s) : Keep qs (thermalPeriod u junction dram s) := by
  delta thermalPeriod
  repeat' first
    | (with_reducible assumption)
    | (with_reducible apply modCluster_keeps)
    | (with_reducible apply modStack_keeps)
    | (with_reducible apply settleClocks_keeps)
    | (with_reducible apply logCeiling_keeps)
    | lift_lets
    | split

theorem junctionTrips_keeps {qs : List Instr} (u : ThermalUnit) (t : Nat) (s : State) (hs : Keep qs s) : Keep qs (junctionTrips u t s) := by
  delta junctionTrips
  repeat' first
    | (with_reducible assumption)
    | (with_reducible apply modCluster_keeps)
    | (with_reducible apply modStack_keeps)
    | (with_reducible apply settleClocks_keeps)
    | (with_reducible apply setFlag_keeps)
    | split

theorem dramTrips_keeps {qs : List Instr} (n t : Nat) (s : State) (hs : Keep qs s) : Keep qs (dramTrips n t s) := by
  delta dramTrips
  repeat' first
    | (with_reducible assumption)
    | (with_reducible apply modStack_keeps)
    | (with_reducible apply settleClocks_keeps)
    | (with_reducible apply setFlag_keeps)
    | split

theorem flagEnds_keeps {qs : List Instr} (u : ThermalUnit) (bit t : Nat) (s : State) (hs : Keep qs s) : Keep qs (flagEnds u bit t s) := by
  delta flagEnds
  repeat' first
    | (with_reducible assumption)
    | (with_reducible apply modCluster_keeps)
    | (with_reducible apply modStack_keeps)
    | (with_reducible apply settleClocks_keeps)
    | (with_reducible apply clearFlag_keeps)
    | lift_lets
    | split

theorem toP0_keeps {qs : List Instr} (cause : Nat) (s : State) (hs : Keep qs s) : Keep qs (toP0 cause s) := by
  delta toP0
  repeat' first
    | (with_reducible assumption)
    | (with_reducible apply modFwc_keeps)
    | (with_reducible apply changePstate_keeps)
    | (with_reducible apply settleState_keeps)

theorem floorExpires_keeps {qs : List Instr} (s : State) (hs : Keep qs s) : Keep qs (floorExpires s) := by
  delta floorExpires
  repeat' first
    | (with_reducible assumption)
    | (with_reducible apply changePstate_keeps)
    | split

theorem warmExpires_keeps {qs : List Instr} (s : State) (hs : Keep qs s) : Keep qs (warmExpires s) := by
  delta warmExpires
  repeat' first
    | (with_reducible assumption)
    | (with_reducible apply changePstate_keeps)
    | split

theorem wakeUp_keeps {qs : List Instr} (cause : WakeCause) (s : State) (hs : Keep qs s) : Keep qs (wakeUp cause s) := by
  delta wakeUp
  repeat' first
    | (with_reducible assumption)
    | (with_reducible apply toP0_keeps)
    | split

theorem reqDone_keeps {qs : List Instr} (st : Nat) (s : State) (hs : Keep qs s) : Keep qs (reqDone st s) := by
  delta reqDone
  repeat' first
    | (with_reducible assumption)
    | (with_reducible apply modFwc_keeps)

theorem enterP4_keeps {qs : List Instr} (s : State) (hs : Keep qs s) : Keep qs (enterP4 s) := by
  delta enterP4
  repeat' first
    | (with_reducible assumption)
    | (with_reducible rfl)
    | (with_reducible apply modFab_keeps)
    | (with_reducible apply forAll_keeps)
    | (with_reducible apply sendControlFlit_keeps)
    | (with_reducible apply linkDrops_keeps)
    | (with_reducible apply ifDown_keeps)
    | (with_reducible apply changePstate_keeps)
    | (with_reducible apply leaveD2_keeps)
    | (with_reducible apply reqDone_keeps)
    | (with_reducible refine fun _ => ?_)
    | lift_lets
    | (intro x; refine keep_cut (qs := qs) x ?_ ?_; rotate_left; intro _; clear_value x; rotate_left; unfold x)
    | (intro x; refine keep_cut_ss (qs := qs) x ?_ ?_; rotate_left; intro hfun; clear_value x; rotate_left; unfold x)
    | (intro x; refine keep_cut_ass (qs := qs) x ?_ ?_; rotate_left; intro hfun; clear_value x; rotate_left; unfold x)
    | (intro x; refine keep_cut_abss (qs := qs) x ?_ ?_; rotate_left; intro hfun; clear_value x; rotate_left; unfold x)
    | (intro x; refine keep_cut_a (qs := qs) x ?_ ?_; rotate_left; intro hfun; clear_value x; rotate_left; unfold x)
    | (intro x; refine keep_cut_ab (qs := qs) x ?_ ?_; rotate_left; intro hfun; clear_value x; rotate_left; unfold x)
    | (intro x; refine keep_cut_abc (qs := qs) x ?_ ?_; rotate_left; intro hfun; clear_value x; rotate_left; unfold x)
    | (intro x; refine keep_cut_o1 (qs := qs) x ?_ ?_; rotate_left; intro hopt; clear_value x; rotate_left; unfold x)
    | (intro x; refine keep_cut_o (qs := qs) x ?_ ?_; rotate_left; intro hopt; clear_value x; rotate_left; unfold x)
    | (with_reducible refine hopt _ (by assumption))
    | (with_reducible exact hopt _ rfl)
    | (intro x; refine keep_cut_snd (qs := qs) x ?_ ?_; rotate_left; intro _; clear_value x; rotate_left; unfold x)
    | (intro x; clear_value x)
    | (with_reducible apply hfun)
    | (intro _)
    | split
    | (with_reducible apply AnswerKeeps.next)
    | (simp only [keep_mk, List.length_modify, List.length_map, List.length_replicate, List.length_zip, List.length_range, List.length_mapIdx, Nat.min_self])
    | (with_reducible apply Keep.toV)
    | (with_reducible apply keepV_roods)
    | (with_reducible apply keep_getD)
    | (with_reducible refine keepV_mem_nil hs ?_ ?_ ?_ ?_ ?_ ?_ ?_ ?_)
    | (rename_i he; split at he)
    | (rename_i he; injection he with he; subst he)

theorem holdReq_keeps {qs : List Instr} (c : Nat) (s : State) (hs : Keep qs s) : Keep qs (holdReq c s) := by
  delta holdReq
  repeat' first
    | (with_reducible assumption)
    | (with_reducible rfl)
    | (with_reducible apply modFwc_keeps)
    | (with_reducible apply reqDone_keeps)
    | (with_reducible refine fun _ => ?_)
    | lift_lets
    | (intro x; refine keep_cut (qs := qs) x ?_ ?_; rotate_left; intro _; clear_value x; rotate_left; unfold x)
    | (intro x; refine keep_cut_ss (qs := qs) x ?_ ?_; rotate_left; intro hfun; clear_value x; rotate_left; unfold x)
    | (intro x; refine keep_cut_ass (qs := qs) x ?_ ?_; rotate_left; intro hfun; clear_value x; rotate_left; unfold x)
    | (intro x; refine keep_cut_abss (qs := qs) x ?_ ?_; rotate_left; intro hfun; clear_value x; rotate_left; unfold x)
    | (intro x; refine keep_cut_a (qs := qs) x ?_ ?_; rotate_left; intro hfun; clear_value x; rotate_left; unfold x)
    | (intro x; refine keep_cut_ab (qs := qs) x ?_ ?_; rotate_left; intro hfun; clear_value x; rotate_left; unfold x)
    | (intro x; refine keep_cut_abc (qs := qs) x ?_ ?_; rotate_left; intro hfun; clear_value x; rotate_left; unfold x)
    | (intro x; refine keep_cut_o1 (qs := qs) x ?_ ?_; rotate_left; intro hopt; clear_value x; rotate_left; unfold x)
    | (intro x; refine keep_cut_o (qs := qs) x ?_ ?_; rotate_left; intro hopt; clear_value x; rotate_left; unfold x)
    | (with_reducible refine hopt _ (by assumption))
    | (with_reducible exact hopt _ rfl)
    | (intro x; refine keep_cut_snd (qs := qs) x ?_ ?_; rotate_left; intro _; clear_value x; rotate_left; unfold x)
    | (intro x; clear_value x)
    | (with_reducible apply hfun)
    | (intro _)
    | split
    | (with_reducible apply AnswerKeeps.next)
    | (simp only [keep_mk, List.length_modify, List.length_map, List.length_replicate, List.length_zip, List.length_range, List.length_mapIdx, Nat.min_self])
    | (with_reducible apply Keep.toV)
    | (with_reducible apply keepV_roods)
    | (with_reducible apply keep_getD)
    | (with_reducible refine keepV_mem_nil hs ?_ ?_ ?_ ?_ ?_ ?_ ?_ ?_)
    | (rename_i he; split at he)
    | (rename_i he; injection he with he; subst he)

theorem runP4_keeps {qs : List Instr} (s : State) (hs : Keep qs s) : Keep qs (runP4 s) := by
  delta runP4
  repeat' first
    | (with_reducible assumption)
    | (with_reducible rfl)
    | (with_reducible apply reqDone_keeps)
    | (with_reducible apply enterP4_keeps)
    | (with_reducible refine fun _ => ?_)
    | lift_lets
    | (intro x; refine keep_cut (qs := qs) x ?_ ?_; rotate_left; intro _; clear_value x; rotate_left; unfold x)
    | (intro x; refine keep_cut_ss (qs := qs) x ?_ ?_; rotate_left; intro hfun; clear_value x; rotate_left; unfold x)
    | (intro x; refine keep_cut_ass (qs := qs) x ?_ ?_; rotate_left; intro hfun; clear_value x; rotate_left; unfold x)
    | (intro x; refine keep_cut_abss (qs := qs) x ?_ ?_; rotate_left; intro hfun; clear_value x; rotate_left; unfold x)
    | (intro x; refine keep_cut_a (qs := qs) x ?_ ?_; rotate_left; intro hfun; clear_value x; rotate_left; unfold x)
    | (intro x; refine keep_cut_ab (qs := qs) x ?_ ?_; rotate_left; intro hfun; clear_value x; rotate_left; unfold x)
    | (intro x; refine keep_cut_abc (qs := qs) x ?_ ?_; rotate_left; intro hfun; clear_value x; rotate_left; unfold x)
    | (intro x; refine keep_cut_o1 (qs := qs) x ?_ ?_; rotate_left; intro hopt; clear_value x; rotate_left; unfold x)
    | (intro x; refine keep_cut_o (qs := qs) x ?_ ?_; rotate_left; intro hopt; clear_value x; rotate_left; unfold x)
    | (with_reducible refine hopt _ (by assumption))
    | (with_reducible exact hopt _ rfl)
    | (intro x; refine keep_cut_snd (qs := qs) x ?_ ?_; rotate_left; intro _; clear_value x; rotate_left; unfold x)
    | (intro x; clear_value x)
    | (with_reducible apply hfun)
    | (intro _)
    | split
    | (with_reducible apply AnswerKeeps.next)
    | (simp only [keep_mk, List.length_modify, List.length_map, List.length_replicate, List.length_zip, List.length_range, List.length_mapIdx, Nat.min_self])
    | (with_reducible apply Keep.toV)
    | (with_reducible apply keepV_roods)
    | (with_reducible apply keep_getD)
    | (with_reducible refine keepV_mem_nil hs ?_ ?_ ?_ ?_ ?_ ?_ ?_ ?_)
    | (rename_i he; split at he)
    | (rename_i he; injection he with he; subst he)

theorem requestP4_keeps {qs : List Instr} (s : State) (hs : Keep qs s) : Keep qs (requestP4 s) := by
  delta requestP4
  repeat' first
    | (with_reducible assumption)
    | (with_reducible rfl)
    | (with_reducible apply modFwc_keeps)
    | (with_reducible apply holdReq_keeps)
    | (with_reducible apply runP4_keeps)
    | (with_reducible refine fun _ => ?_)
    | lift_lets
    | (intro x; refine keep_cut (qs := qs) x ?_ ?_; rotate_left; intro _; clear_value x; rotate_left; unfold x)
    | (intro x; refine keep_cut_ss (qs := qs) x ?_ ?_; rotate_left; intro hfun; clear_value x; rotate_left; unfold x)
    | (intro x; refine keep_cut_ass (qs := qs) x ?_ ?_; rotate_left; intro hfun; clear_value x; rotate_left; unfold x)
    | (intro x; refine keep_cut_abss (qs := qs) x ?_ ?_; rotate_left; intro hfun; clear_value x; rotate_left; unfold x)
    | (intro x; refine keep_cut_a (qs := qs) x ?_ ?_; rotate_left; intro hfun; clear_value x; rotate_left; unfold x)
    | (intro x; refine keep_cut_ab (qs := qs) x ?_ ?_; rotate_left; intro hfun; clear_value x; rotate_left; unfold x)
    | (intro x; refine keep_cut_abc (qs := qs) x ?_ ?_; rotate_left; intro hfun; clear_value x; rotate_left; unfold x)
    | (intro x; refine keep_cut_o1 (qs := qs) x ?_ ?_; rotate_left; intro hopt; clear_value x; rotate_left; unfold x)
    | (intro x; refine keep_cut_o (qs := qs) x ?_ ?_; rotate_left; intro hopt; clear_value x; rotate_left; unfold x)
    | (with_reducible refine hopt _ (by assumption))
    | (with_reducible exact hopt _ rfl)
    | (intro x; refine keep_cut_snd (qs := qs) x ?_ ?_; rotate_left; intro _; clear_value x; rotate_left; unfold x)
    | (intro x; clear_value x)
    | (with_reducible apply hfun)
    | (intro _)
    | split
    | (with_reducible apply AnswerKeeps.next)
    | (simp only [keep_mk, List.length_modify, List.length_map, List.length_replicate, List.length_zip, List.length_range, List.length_mapIdx, Nat.min_self])
    | (with_reducible apply Keep.toV)
    | (with_reducible apply keepV_roods)
    | (with_reducible apply keep_getD)
    | (with_reducible refine keepV_mem_nil hs ?_ ?_ ?_ ?_ ?_ ?_ ?_ ?_)
    | (rename_i he; split at he)
    | (rename_i he; injection he with he; subst he)

theorem wakeCompletes_keeps {qs : List Instr} (s : State) (hs : Keep qs s) : Keep qs (wakeCompletes s) := by
  delta wakeCompletes
  repeat' first
    | (with_reducible assumption)
    | (with_reducible apply toP0_keeps)
    | (with_reducible apply reqDone_keeps)
    | lift_lets
    | (intro x; clear_value x)
    | split

theorem runP0_keeps {qs : List Instr} (ifsUp : List Nat) (links : List LinkFound) (s : State) (hs : Keep qs s) : Keep qs (runP0 ifsUp links s) := by
  delta runP0
  repeat' first
    | (with_reducible assumption)
    | (with_reducible rfl)
    | (with_reducible apply modFwc_keeps)
    | (with_reducible apply forAll_keeps)
    | (with_reducible apply scrubCluster_keeps)
    | (with_reducible apply trainLink_keeps)
    | (with_reducible apply ifUp_keeps)
    | (with_reducible apply toP0_keeps)
    | (with_reducible apply reqDone_keeps)
    | (with_reducible apply wakeCompletes_keeps)
    | (with_reducible refine fun _ => ?_)
    | lift_lets
    | (intro x; refine keep_cut (qs := qs) x ?_ ?_; rotate_left; intro _; clear_value x; rotate_left; unfold x)
    | (intro x; refine keep_cut_ss (qs := qs) x ?_ ?_; rotate_left; intro hfun; clear_value x; rotate_left; unfold x)
    | (intro x; refine keep_cut_ass (qs := qs) x ?_ ?_; rotate_left; intro hfun; clear_value x; rotate_left; unfold x)
    | (intro x; refine keep_cut_abss (qs := qs) x ?_ ?_; rotate_left; intro hfun; clear_value x; rotate_left; unfold x)
    | (intro x; refine keep_cut_a (qs := qs) x ?_ ?_; rotate_left; intro hfun; clear_value x; rotate_left; unfold x)
    | (intro x; refine keep_cut_ab (qs := qs) x ?_ ?_; rotate_left; intro hfun; clear_value x; rotate_left; unfold x)
    | (intro x; refine keep_cut_abc (qs := qs) x ?_ ?_; rotate_left; intro hfun; clear_value x; rotate_left; unfold x)
    | (intro x; refine keep_cut_o1 (qs := qs) x ?_ ?_; rotate_left; intro hopt; clear_value x; rotate_left; unfold x)
    | (intro x; refine keep_cut_o (qs := qs) x ?_ ?_; rotate_left; intro hopt; clear_value x; rotate_left; unfold x)
    | (with_reducible refine hopt _ (by assumption))
    | (with_reducible exact hopt _ rfl)
    | (intro x; refine keep_cut_snd (qs := qs) x ?_ ?_; rotate_left; intro _; clear_value x; rotate_left; unfold x)
    | (intro x; clear_value x)
    | (with_reducible apply hfun)
    | (intro _)
    | split
    | (with_reducible apply AnswerKeeps.next)
    | (simp only [keep_mk, List.length_modify, List.length_map, List.length_replicate, List.length_zip, List.length_range, List.length_mapIdx, Nat.min_self])
    | (with_reducible apply Keep.toV)
    | (with_reducible apply keepV_roods)
    | (with_reducible apply keep_getD)
    | (with_reducible refine keepV_mem_nil hs ?_ ?_ ?_ ?_ ?_ ?_ ?_ ?_)
    | (rename_i he; split at he)
    | (rename_i he; injection he with he; subst he)

theorem requestP0_keeps {qs : List Instr} (ifsUp : List Nat) (links : List LinkFound) (s : State) (hs : Keep qs s) : Keep qs (requestP0 ifsUp links s) := by
  delta requestP0
  repeat' first
    | (with_reducible assumption)
    | (with_reducible rfl)
    | (with_reducible apply modFwc_keeps)
    | (with_reducible apply holdReq_keeps)
    | (with_reducible apply runP0_keeps)
    | (with_reducible refine fun _ => ?_)
    | lift_lets
    | (intro x; refine keep_cut (qs := qs) x ?_ ?_; rotate_left; intro _; clear_value x; rotate_left; unfold x)
    | (intro x; refine keep_cut_ss (qs := qs) x ?_ ?_; rotate_left; intro hfun; clear_value x; rotate_left; unfold x)
    | (intro x; refine keep_cut_ass (qs := qs) x ?_ ?_; rotate_left; intro hfun; clear_value x; rotate_left; unfold x)
    | (intro x; refine keep_cut_abss (qs := qs) x ?_ ?_; rotate_left; intro hfun; clear_value x; rotate_left; unfold x)
    | (intro x; refine keep_cut_a (qs := qs) x ?_ ?_; rotate_left; intro hfun; clear_value x; rotate_left; unfold x)
    | (intro x; refine keep_cut_ab (qs := qs) x ?_ ?_; rotate_left; intro hfun; clear_value x; rotate_left; unfold x)
    | (intro x; refine keep_cut_abc (qs := qs) x ?_ ?_; rotate_left; intro hfun; clear_value x; rotate_left; unfold x)
    | (intro x; refine keep_cut_o1 (qs := qs) x ?_ ?_; rotate_left; intro hopt; clear_value x; rotate_left; unfold x)
    | (intro x; refine keep_cut_o (qs := qs) x ?_ ?_; rotate_left; intro hopt; clear_value x; rotate_left; unfold x)
    | (with_reducible refine hopt _ (by assumption))
    | (with_reducible exact hopt _ rfl)
    | (intro x; refine keep_cut_snd (qs := qs) x ?_ ?_; rotate_left; intro _; clear_value x; rotate_left; unfold x)
    | (intro x; clear_value x)
    | (with_reducible apply hfun)
    | (intro _)
    | split
    | (with_reducible apply AnswerKeeps.next)
    | (simp only [keep_mk, List.length_modify, List.length_map, List.length_replicate, List.length_zip, List.length_range, List.length_mapIdx, Nat.min_self])
    | (with_reducible apply Keep.toV)
    | (with_reducible apply keepV_roods)
    | (with_reducible apply keep_getD)
    | (with_reducible refine keepV_mem_nil hs ?_ ?_ ?_ ?_ ?_ ?_ ?_ ?_)
    | (rename_i he; split at he)
    | (rename_i he; injection he with he; subst he)

theorem reqNext_keeps {qs : List Instr} (s : State) (hs : Keep qs s) : Keep qs (reqNext s) := by
  delta reqNext
  repeat' first
    | (with_reducible assumption)
    | (with_reducible rfl)
    | (with_reducible apply modFwc_keeps)
    | (with_reducible apply runP4_keeps)
    | (with_reducible apply runP0_keeps)
    | (with_reducible refine fun _ => ?_)
    | lift_lets
    | (intro x; refine keep_cut (qs := qs) x ?_ ?_; rotate_left; intro _; clear_value x; rotate_left; unfold x)
    | (intro x; refine keep_cut_ss (qs := qs) x ?_ ?_; rotate_left; intro hfun; clear_value x; rotate_left; unfold x)
    | (intro x; refine keep_cut_ass (qs := qs) x ?_ ?_; rotate_left; intro hfun; clear_value x; rotate_left; unfold x)
    | (intro x; refine keep_cut_abss (qs := qs) x ?_ ?_; rotate_left; intro hfun; clear_value x; rotate_left; unfold x)
    | (intro x; refine keep_cut_a (qs := qs) x ?_ ?_; rotate_left; intro hfun; clear_value x; rotate_left; unfold x)
    | (intro x; refine keep_cut_ab (qs := qs) x ?_ ?_; rotate_left; intro hfun; clear_value x; rotate_left; unfold x)
    | (intro x; refine keep_cut_abc (qs := qs) x ?_ ?_; rotate_left; intro hfun; clear_value x; rotate_left; unfold x)
    | (intro x; refine keep_cut_o1 (qs := qs) x ?_ ?_; rotate_left; intro hopt; clear_value x; rotate_left; unfold x)
    | (intro x; refine keep_cut_o (qs := qs) x ?_ ?_; rotate_left; intro hopt; clear_value x; rotate_left; unfold x)
    | (with_reducible refine hopt _ (by assumption))
    | (with_reducible exact hopt _ rfl)
    | (intro x; refine keep_cut_snd (qs := qs) x ?_ ?_; rotate_left; intro _; clear_value x; rotate_left; unfold x)
    | (intro x; clear_value x)
    | (with_reducible apply hfun)
    | (intro _)
    | split
    | (with_reducible apply AnswerKeeps.next)
    | (simp only [keep_mk, List.length_modify, List.length_map, List.length_replicate, List.length_zip, List.length_range, List.length_mapIdx, Nat.min_self])
    | (with_reducible apply Keep.toV)
    | (with_reducible apply keepV_roods)
    | (with_reducible apply keep_getD)
    | (with_reducible refine keepV_mem_nil hs ?_ ?_ ?_ ?_ ?_ ?_ ?_ ?_)
    | (rename_i he; split at he)
    | (rename_i he; injection he with he; subst he)

theorem leaveForStep_keeps {qs : List Instr} (b : Nat) (s : State) (hs : Keep qs s) : Keep qs (leaveForStep b s) := by
  delta leaveForStep
  repeat' first
    | (with_reducible assumption)
    | (with_reducible apply toP0_keeps)
    | split

theorem writeCap_keeps {qs : List Instr} (v : Word) (s : State) (hs : Keep qs s) : Keep qs (writeCap v s) := by
  delta writeCap
  repeat' first
    | (with_reducible assumption)
    | (with_reducible apply modFwc_keeps)

theorem noteSlot_keeps {qs : List Instr} (i : Nat) (v : SlotView) (s : State) (hs : Keep qs s) : Keep qs (noteSlot i v s) := by
  delta noteSlot
  repeat' first
    | (with_reducible assumption)
    | (with_reducible apply modBoot_keeps)

theorem refuseActivate_keeps {qs : List Instr} (st : Nat) (s : State) (hs : Keep qs s) : Keep qs (refuseActivate st s) := by
  delta refuseActivate
  repeat' first
    | (with_reducible assumption)
    | (with_reducible apply modFwc_keeps)
    | (with_reducible apply logEv_keeps)
    | (with_reducible apply raiseFwc_keeps)

theorem activateUpdate_keeps {qs : List Instr} (v : SlotView) (s : State) (hs : Keep qs s) : Keep qs (activateUpdate v s) := by
  delta activateUpdate
  repeat' first
    | (with_reducible assumption)
    | (with_reducible apply modFwc_keeps)
    | (with_reducible apply endUpdate_keeps)
    | (with_reducible apply deferUpdate_keeps)
    | (with_reducible apply noteSlot_keeps)
    | (with_reducible apply refuseActivate_keeps)
    | lift_lets
    | (intro x; refine keep_cut (qs := qs) x ?_ ?_; rotate_left; intro _; clear_value x; rotate_left; unfold x)
    | (intro x; clear_value x)
    | split

theorem cancelUpdate_keeps {qs : List Instr} (s : State) (hs : Keep qs s) : Keep qs (cancelUpdate s) := by
  delta cancelUpdate
  repeat' first
    | (with_reducible assumption)
    | (with_reducible rfl)
    | (with_reducible apply modFwc_keeps)
    | (with_reducible apply endUpdate_keeps)
    | (with_reducible apply refuseActivate_keeps)
    | (with_reducible refine fun _ => ?_)
    | lift_lets
    | (intro x; refine keep_cut (qs := qs) x ?_ ?_; rotate_left; intro _; clear_value x; rotate_left; unfold x)
    | (intro x; refine keep_cut_ss (qs := qs) x ?_ ?_; rotate_left; intro hfun; clear_value x; rotate_left; unfold x)
    | (intro x; refine keep_cut_ass (qs := qs) x ?_ ?_; rotate_left; intro hfun; clear_value x; rotate_left; unfold x)
    | (intro x; refine keep_cut_abss (qs := qs) x ?_ ?_; rotate_left; intro hfun; clear_value x; rotate_left; unfold x)
    | (intro x; refine keep_cut_a (qs := qs) x ?_ ?_; rotate_left; intro hfun; clear_value x; rotate_left; unfold x)
    | (intro x; refine keep_cut_ab (qs := qs) x ?_ ?_; rotate_left; intro hfun; clear_value x; rotate_left; unfold x)
    | (intro x; refine keep_cut_abc (qs := qs) x ?_ ?_; rotate_left; intro hfun; clear_value x; rotate_left; unfold x)
    | (intro x; refine keep_cut_o1 (qs := qs) x ?_ ?_; rotate_left; intro hopt; clear_value x; rotate_left; unfold x)
    | (intro x; refine keep_cut_o (qs := qs) x ?_ ?_; rotate_left; intro hopt; clear_value x; rotate_left; unfold x)
    | (with_reducible refine hopt _ (by assumption))
    | (with_reducible exact hopt _ rfl)
    | (intro x; refine keep_cut_snd (qs := qs) x ?_ ?_; rotate_left; intro _; clear_value x; rotate_left; unfold x)
    | (intro x; clear_value x)
    | (with_reducible apply hfun)
    | (intro _)
    | split
    | (with_reducible apply AnswerKeeps.next)
    | (simp only [keep_mk, List.length_modify, List.length_map, List.length_replicate, List.length_zip, List.length_range, List.length_mapIdx, Nat.min_self])
    | (with_reducible apply Keep.toV)
    | (with_reducible apply keepV_roods)
    | (with_reducible apply keep_getD)
    | (with_reducible refine keepV_mem_nil hs ?_ ?_ ?_ ?_ ?_ ?_ ?_ ?_)
    | (rename_i he; split at he)
    | (rename_i he; injection he with he; subst he)

theorem bootImage_keeps {qs : List Instr} (compatible : Bool) (s : State) (hs : Keep qs s) : Keep qs (bootImage compatible s) := by
  delta bootImage
  repeat' first
    | (with_reducible assumption)
    | (with_reducible apply modFwc_keeps)
    | (with_reducible apply endUpdate_keeps)
    | (with_reducible apply deferUpdate_keeps)
    | lift_lets
    | (intro x; refine keep_cut (qs := qs) x ?_ ?_; rotate_left; intro _; clear_value x; rotate_left; unfold x)
    | split

theorem takeoverUpdate_keeps {qs : List Instr} (s : State) (hs : Keep qs s) : Keep qs (takeoverUpdate s) := by
  delta takeoverUpdate
  repeat' first
    | (with_reducible assumption)
    | (with_reducible apply modFwc_keeps)
    | (with_reducible apply modBoot_keeps)
    | lift_lets
    | (intro x; refine keep_cut (qs := qs) x ?_ ?_; rotate_left; intro _; clear_value x; rotate_left; unfold x)
    | (intro x; clear_value x)
    | split

theorem takeoverEnds_keeps {qs : List Instr} (s : State) (hs : Keep qs s) : Keep qs (takeoverEnds s) := by
  delta takeoverEnds
  repeat' first
    | (with_reducible assumption)
    | (with_reducible apply modFwc_keeps)
    | lift_lets
    | split

theorem confirmUpdate_keeps {qs : List Instr} (s : State) (hs : Keep qs s) : Keep qs (confirmUpdate s) := by
  delta confirmUpdate
  repeat' first
    | (with_reducible assumption)
    | (with_reducible apply modBoot_keeps)
    | (with_reducible apply commitSlots_keeps)
    | (with_reducible apply endUpdate_keeps)
    | lift_lets
    | (intro x; refine keep_cut (qs := qs) x ?_ ?_; rotate_left; intro _; clear_value x; rotate_left; unfold x)
    | (intro x; clear_value x)
    | split

theorem rollBack_keeps {qs : List Instr} (s : State) (hs : Keep qs s) : Keep qs (rollBack s) := by
  delta rollBack
  repeat' first
    | (with_reducible assumption)
    | (with_reducible apply modFwc_keeps)
    | (with_reducible apply modBoot_keeps)
    | (with_reducible apply endUpdate_keeps)
    | lift_lets
    | (intro x; refine keep_cut (qs := qs) x ?_ ?_; rotate_left; intro _; clear_value x; rotate_left; unfold x)
    | (intro x; clear_value x)
    | split

theorem goFatal_keeps {qs : List Instr} (cause : Nat) (s : State) (hs : Keep qs s) : Keep qs (goFatal cause s) := by
  delta goFatal
  repeat' first
    | (with_reducible assumption)
    | (with_reducible rfl)
    | (with_reducible apply modGlb_keeps)
    | (with_reducible apply forAll_keeps)
    | (with_reducible apply logGlb_keeps)
    | (with_reducible apply raiseGlb_keeps)
    | (with_reducible apply linkDrops_keeps)
    | (with_reducible apply beginReset_keeps)
    | (with_reducible refine fun _ => ?_)
    | lift_lets
    | (intro x; refine keep_cut (qs := qs) x ?_ ?_; rotate_left; intro _; clear_value x; rotate_left; unfold x)
    | (intro x; refine keep_cut_ss (qs := qs) x ?_ ?_; rotate_left; intro hfun; clear_value x; rotate_left; unfold x)
    | (intro x; refine keep_cut_ass (qs := qs) x ?_ ?_; rotate_left; intro hfun; clear_value x; rotate_left; unfold x)
    | (intro x; refine keep_cut_abss (qs := qs) x ?_ ?_; rotate_left; intro hfun; clear_value x; rotate_left; unfold x)
    | (intro x; refine keep_cut_a (qs := qs) x ?_ ?_; rotate_left; intro hfun; clear_value x; rotate_left; unfold x)
    | (intro x; refine keep_cut_ab (qs := qs) x ?_ ?_; rotate_left; intro hfun; clear_value x; rotate_left; unfold x)
    | (intro x; refine keep_cut_abc (qs := qs) x ?_ ?_; rotate_left; intro hfun; clear_value x; rotate_left; unfold x)
    | (intro x; refine keep_cut_o1 (qs := qs) x ?_ ?_; rotate_left; intro hopt; clear_value x; rotate_left; unfold x)
    | (intro x; refine keep_cut_o (qs := qs) x ?_ ?_; rotate_left; intro hopt; clear_value x; rotate_left; unfold x)
    | (with_reducible refine hopt _ (by assumption))
    | (with_reducible exact hopt _ rfl)
    | (intro x; refine keep_cut_snd (qs := qs) x ?_ ?_; rotate_left; intro _; clear_value x; rotate_left; unfold x)
    | (intro x; clear_value x)
    | (with_reducible apply hfun)
    | (intro _)
    | split
    | (with_reducible apply AnswerKeeps.next)
    | (simp only [keep_mk, List.length_modify, List.length_map, List.length_replicate, List.length_zip, List.length_range, List.length_mapIdx, Nat.min_self])
    | (with_reducible apply Keep.toV)
    | (with_reducible apply keepV_roods)
    | (with_reducible apply keep_getD)
    | (with_reducible refine keepV_mem_nil hs ?_ ?_ ?_ ?_ ?_ ?_ ?_ ?_)
    | (rename_i he; split at he)
    | (rename_i he; injection he with he; subst he)

theorem abortUpdate_keeps {qs : List Instr} (s : State) (hs : Keep qs s) : Keep qs (abortUpdate s) := by
  delta abortUpdate
  repeat' first
    | (with_reducible assumption)
    | (with_reducible rfl)
    | (with_reducible apply modFwc_keeps)
    | (with_reducible apply modBoot_keeps)
    | (with_reducible apply endUpdate_keeps)
    | (with_reducible refine fun _ => ?_)
    | lift_lets
    | (intro x; refine keep_cut (qs := qs) x ?_ ?_; rotate_left; intro _; clear_value x; rotate_left; unfold x)
    | (intro x; refine keep_cut_ss (qs := qs) x ?_ ?_; rotate_left; intro hfun; clear_value x; rotate_left; unfold x)
    | (intro x; refine keep_cut_ass (qs := qs) x ?_ ?_; rotate_left; intro hfun; clear_value x; rotate_left; unfold x)
    | (intro x; refine keep_cut_abss (qs := qs) x ?_ ?_; rotate_left; intro hfun; clear_value x; rotate_left; unfold x)
    | (intro x; refine keep_cut_a (qs := qs) x ?_ ?_; rotate_left; intro hfun; clear_value x; rotate_left; unfold x)
    | (intro x; refine keep_cut_ab (qs := qs) x ?_ ?_; rotate_left; intro hfun; clear_value x; rotate_left; unfold x)
    | (intro x; refine keep_cut_abc (qs := qs) x ?_ ?_; rotate_left; intro hfun; clear_value x; rotate_left; unfold x)
    | (intro x; refine keep_cut_o1 (qs := qs) x ?_ ?_; rotate_left; intro hopt; clear_value x; rotate_left; unfold x)
    | (intro x; refine keep_cut_o (qs := qs) x ?_ ?_; rotate_left; intro hopt; clear_value x; rotate_left; unfold x)
    | (with_reducible refine hopt _ (by assumption))
    | (with_reducible exact hopt _ rfl)
    | (intro x; refine keep_cut_snd (qs := qs) x ?_ ?_; rotate_left; intro _; clear_value x; rotate_left; unfold x)
    | (intro x; clear_value x)
    | (with_reducible apply hfun)
    | (intro _)
    | split
    | (with_reducible apply AnswerKeeps.next)
    | (simp only [keep_mk, List.length_modify, List.length_map, List.length_replicate, List.length_zip, List.length_range, List.length_mapIdx, Nat.min_self])
    | (with_reducible apply Keep.toV)
    | (with_reducible apply keepV_roods)
    | (with_reducible apply keep_getD)
    | (with_reducible refine keepV_mem_nil hs ?_ ?_ ?_ ?_ ?_ ?_ ?_ ?_)
    | (rename_i he; split at he)
    | (rename_i he; injection he with he; subst he)

theorem fwCoreFails_keeps {qs : List Instr} (k : Nat) (s : State) (hs : Keep qs s) : Keep qs (fwCoreFails k s) := by
  delta fwCoreFails
  repeat' first
    | (with_reducible assumption)
    | (with_reducible rfl)
    | (with_reducible apply modFwc_keeps)
    | (with_reducible apply logEv_keeps)
    | (with_reducible apply raiseFwc_keeps)
    | (with_reducible apply mapChange_keeps)
    | (with_reducible apply goFatal_keeps)
    | (with_reducible apply abortUpdate_keeps)
    | (with_reducible refine fun _ => ?_)
    | lift_lets
    | (intro x; refine keep_cut (qs := qs) x ?_ ?_; rotate_left; intro _; clear_value x; rotate_left; unfold x)
    | (intro x; refine keep_cut_ss (qs := qs) x ?_ ?_; rotate_left; intro hfun; clear_value x; rotate_left; unfold x)
    | (intro x; refine keep_cut_ass (qs := qs) x ?_ ?_; rotate_left; intro hfun; clear_value x; rotate_left; unfold x)
    | (intro x; refine keep_cut_abss (qs := qs) x ?_ ?_; rotate_left; intro hfun; clear_value x; rotate_left; unfold x)
    | (intro x; refine keep_cut_a (qs := qs) x ?_ ?_; rotate_left; intro hfun; clear_value x; rotate_left; unfold x)
    | (intro x; refine keep_cut_ab (qs := qs) x ?_ ?_; rotate_left; intro hfun; clear_value x; rotate_left; unfold x)
    | (intro x; refine keep_cut_abc (qs := qs) x ?_ ?_; rotate_left; intro hfun; clear_value x; rotate_left; unfold x)
    | (intro x; refine keep_cut_o1 (qs := qs) x ?_ ?_; rotate_left; intro hopt; clear_value x; rotate_left; unfold x)
    | (intro x; refine keep_cut_o (qs := qs) x ?_ ?_; rotate_left; intro hopt; clear_value x; rotate_left; unfold x)
    | (with_reducible refine hopt _ (by assumption))
    | (with_reducible exact hopt _ rfl)
    | (intro x; refine keep_cut_snd (qs := qs) x ?_ ?_; rotate_left; intro _; clear_value x; rotate_left; unfold x)
    | (intro x; clear_value x)
    | (with_reducible apply hfun)
    | (intro _)
    | split
    | (with_reducible apply AnswerKeeps.next)
    | (simp only [keep_mk, List.length_modify, List.length_map, List.length_replicate, List.length_zip, List.length_range, List.length_mapIdx, Nat.min_self])
    | (with_reducible apply Keep.toV)
    | (with_reducible apply keepV_roods)
    | (with_reducible apply keep_getD)
    | (with_reducible refine keepV_mem_nil hs ?_ ?_ ?_ ?_ ?_ ?_ ?_ ?_)
    | (rename_i he; split at he)
    | (rename_i he; injection he with he; subst he)

theorem heartbeat_keeps {qs : List Instr} (missed : List Nat) (s : State) (hs : Keep qs s) : Keep qs (heartbeat missed s) := by
  delta heartbeat
  repeat' first
    | (with_reducible assumption)
    | (with_reducible apply modFwc_keeps)
    | (with_reducible apply forAll_keeps)
    | (with_reducible apply fwCoreFails_keeps)
    | (with_reducible refine fun _ => ?_)
    | split

theorem coreSpareTakes_keeps {qs : List Instr} (k : Nat) (s : State) (hs : Keep qs s) : Keep qs (coreSpareTakes k s) := by
  delta coreSpareTakes
  repeat' first
    | (with_reducible assumption)
    | (with_reducible apply modFwc_keeps)
    | (with_reducible apply logEv_keeps)
    | lift_lets
    | (intro x; clear_value x)
    | split

theorem ppsRises_keeps {qs : List Instr} (s : State) (hs : Keep qs s) : Keep qs (ppsRises s) := by
  delta ppsRises
  repeat' first
    | (with_reducible assumption)
    | (with_reducible rfl)
    | (with_reducible apply modTime_keeps)
    | split

theorem execPowerLoopPeriod_keeps {qs : List Instr} (p : PowerReading) (s : State) (hs : Keep qs s) : AnswerKeeps qs (execPowerLoopPeriod p s) := by
  delta execPowerLoopPeriod
  repeat' first
    | (with_reducible assumption)
    | (with_reducible apply powerPeriod_keeps)
    | (with_reducible apply AnswerKeeps.next)

theorem execFastLimiter_keeps {qs : List Instr} (avg : Nat) (s : State) (hs : Keep qs s) : AnswerKeeps qs (execFastLimiter avg s) := by
  delta execFastLimiter
  repeat' first
    | (with_reducible assumption)
    | (with_reducible apply fastLimit_keeps)
    | (with_reducible apply AnswerKeeps.next)

theorem execThermalLoopPeriod_keeps {qs : List Instr} (u : ThermalUnit) (junction dram : Nat) (s : State) (hs : Keep qs s) : AnswerKeeps qs (execThermalLoopPeriod u junction dram s) := by
  delta execThermalLoopPeriod
  repeat' first
    | (with_reducible assumption)
    | (with_reducible apply thermalPeriod_keeps)
    | (with_reducible apply AnswerKeeps.next)

theorem execJunctionHot_keeps {qs : List Instr} (u : ThermalUnit) (t : Nat) (s : State) (hs : Keep qs s) : AnswerKeeps qs (execJunctionHot u t s) := by
  delta execJunctionHot
  repeat' first
    | (with_reducible assumption)
    | (with_reducible apply junctionTrips_keeps)
    | (with_reducible apply AnswerKeeps.next)

theorem execDramHot_keeps {qs : List Instr} (n t : Nat) (s : State) (hs : Keep qs s) : AnswerKeeps qs (execDramHot n t s) := by
  delta execDramHot
  repeat' first
    | (with_reducible assumption)
    | (with_reducible apply dramTrips_keeps)
    | (with_reducible apply AnswerKeeps.next)

theorem execFlagCleared_keeps {qs : List Instr} (u : ThermalUnit) (bit t : Nat) (s : State) (hs : Keep qs s) : AnswerKeeps qs (execFlagCleared u bit t s) := by
  delta execFlagCleared
  repeat' first
    | (with_reducible assumption)
    | (with_reducible apply flagEnds_keeps)
    | (with_reducible apply AnswerKeeps.next)

theorem execInputLow_keeps {qs : List Instr} (s : State) (hs : Keep qs s) : AnswerKeeps qs (execInputLow s) := by
  delta execInputLow
  repeat' first
    | (with_reducible assumption)
    | (with_reducible apply settleClocks_keeps)
    | (with_reducible apply setFlag_keeps)
    | split
    | (with_reducible apply AnswerKeeps.next)

theorem execInputLowClear_keeps {qs : List Instr} (s : State) (hs : Keep qs s) : AnswerKeeps qs (execInputLowClear s) := by
  delta execInputLowClear
  repeat' first
    | (with_reducible assumption)
    | (with_reducible apply settleClocks_keeps)
    | (with_reducible apply clearFlag_keeps)
    | (with_reducible apply AnswerKeeps.next)

theorem execFwcPwrCap_keeps {qs : List Instr} (v : Word) (s : State) (hs : Keep qs s) : AnswerKeeps qs (execFwcPwrCap v s) := by
  delta execFwcPwrCap
  repeat' first
    | (with_reducible assumption)
    | (with_reducible apply writeCap_keeps)
    | (with_reducible apply AnswerKeeps.next)

theorem execReqP4_keeps {qs : List Instr} (s : State) (hs : Keep qs s) : AnswerKeeps qs (execReqP4 s) := by
  delta execReqP4
  repeat' first
    | (with_reducible assumption)
    | (with_reducible apply requestP4_keeps)
    | (with_reducible apply AnswerKeeps.next)

theorem execReqP0_keeps {qs : List Instr} (ifsUp : List Nat) (links : List LinkFound) (s : State) (hs : Keep qs s) : AnswerKeeps qs (execReqP0 ifsUp links s) := by
  delta execReqP0
  repeat' first
    | (with_reducible assumption)
    | (with_reducible apply requestP0_keeps)
    | (with_reducible apply AnswerKeeps.next)

theorem execFloorDelay_keeps {qs : List Instr} (s : State) (hs : Keep qs s) : AnswerKeeps qs (execFloorDelay s) := by
  delta execFloorDelay
  repeat' first
    | (with_reducible assumption)
    | (with_reducible apply floorExpires_keeps)
    | (with_reducible apply AnswerKeeps.next)

theorem execWarmDelay_keeps {qs : List Instr} (s : State) (hs : Keep qs s) : AnswerKeeps qs (execWarmDelay s) := by
  delta execWarmDelay
  repeat' first
    | (with_reducible assumption)
    | (with_reducible apply warmExpires_keeps)
    | (with_reducible apply AnswerKeeps.next)

theorem execWake_keeps {qs : List Instr} (cause : WakeCause) (s : State) (hs : Keep qs s) : AnswerKeeps qs (execWake cause s) := by
  delta execWake
  repeat' first
    | (with_reducible assumption)
    | (with_reducible apply wakeUp_keeps)
    | (with_reducible apply AnswerKeeps.next)

theorem execLeaveP3ForStepStart_keeps {qs : List Instr} (b : Nat) (s : State) (hs : Keep qs s) : AnswerKeeps qs (execLeaveP3ForStepStart b s) := by
  delta execLeaveP3ForStepStart
  repeat' first
    | (with_reducible assumption)
    | (with_reducible apply leaveForStep_keeps)
    | (with_reducible apply AnswerKeeps.next)

theorem execActivate_keeps {qs : List Instr} (v : SlotView) (s : State) (hs : Keep qs s) : AnswerKeeps qs (execActivate v s) := by
  delta execActivate
  repeat' first
    | (with_reducible assumption)
    | (with_reducible apply activateUpdate_keeps)
    | (with_reducible apply AnswerKeeps.next)

theorem execCancel_keeps {qs : List Instr} (s : State) (hs : Keep qs s) : AnswerKeeps qs (execCancel s) := by
  delta execCancel
  repeat' first
    | (with_reducible assumption)
    | (with_reducible apply cancelUpdate_keeps)
    | (with_reducible apply AnswerKeeps.next)

theorem execBooting_keeps {qs : List Instr} (compatible : Bool) (s : State) (hs : Keep qs s) : AnswerKeeps qs (execBooting compatible s) := by
  delta execBooting
  repeat' first
    | (with_reducible assumption)
    | (with_reducible apply bootImage_keeps)
    | (with_reducible apply AnswerKeeps.next)

theorem execTakeover_keeps {qs : List Instr} (s : State) (hs : Keep qs s) : AnswerKeeps qs (execTakeover s) := by
  delta execTakeover
  repeat' first
    | (with_reducible assumption)
    | (with_reducible apply takeoverUpdate_keeps)
    | (with_reducible apply AnswerKeeps.next)

theorem execConfirming_keeps {qs : List Instr} (s : State) (hs : Keep qs s) : AnswerKeeps qs (execConfirming s) := by
  delta execConfirming
  repeat' first
    | (with_reducible assumption)
    | (with_reducible apply confirmUpdate_keeps)
    | (with_reducible apply AnswerKeeps.next)

theorem execHandoffRolledBack_keeps {qs : List Instr} (s : State) (hs : Keep qs s) : AnswerKeeps qs (execHandoffRolledBack s) := by
  delta execHandoffRolledBack
  repeat' first
    | (with_reducible assumption)
    | (with_reducible apply rollBack_keeps)
    | (with_reducible apply AnswerKeeps.next)

theorem execHeartbeatCheck_keeps {qs : List Instr} (missed : List Nat) (s : State) (hs : Keep qs s) : AnswerKeeps qs (execHeartbeatCheck missed s) := by
  delta execHeartbeatCheck
  repeat' first
    | (with_reducible assumption)
    | (with_reducible apply heartbeat_keeps)
    | (with_reducible apply AnswerKeeps.next)

theorem execCoreSpareIn_keeps {qs : List Instr} (k : Nat) (s : State) (hs : Keep qs s) : AnswerKeeps qs (execCoreSpareIn k s) := by
  delta execCoreSpareIn
  repeat' first
    | (with_reducible assumption)
    | (with_reducible apply coreSpareTakes_keeps)
    | (with_reducible apply AnswerKeeps.next)

theorem execFatal_keeps {qs : List Instr} (cause : Nat) (s : State) (hs : Keep qs s) : AnswerKeeps qs (execFatal cause s) := by
  delta execFatal
  repeat' first
    | (with_reducible assumption)
    | (with_reducible apply goFatal_keeps)
    | split
    | (with_reducible apply AnswerKeeps.next)

theorem execRefclkLoss_keeps {qs : List Instr} (s : State) (hs : Keep qs s) : AnswerKeeps qs (execRefclkLoss s) := by
  delta execRefclkLoss
  repeat' first
    | (with_reducible assumption)
    | (with_reducible apply modPins_keeps)
    | (with_reducible refine fresh_keeps_eq _ _ ?_ (by assumption))
    | (with_reducible apply goFatal_keeps)
    | lift_lets
    | (intro x; refine keep_cut (qs := qs) x ?_ ?_; rotate_left; intro _; clear_value x; rotate_left; unfold x)
    | split
    | (with_reducible apply AnswerKeeps.next)

theorem execPpsInEdge_keeps {qs : List Instr} (high : Nat) (s : State) (hs : Keep qs s) : AnswerKeeps qs (execPpsInEdge high s) := by
  delta execPpsInEdge
  repeat' first
    | (with_reducible assumption)
    | (with_reducible rfl)
    | (with_reducible apply modTime_keeps)
    | split
    | (with_reducible apply AnswerKeeps.next)

theorem execPpsOutEdge_keeps {qs : List Instr} (s : State) (hs : Keep qs s) : AnswerKeeps qs (execPpsOutEdge s) := by
  delta execPpsOutEdge
  repeat' first
    | (with_reducible assumption)
    | (with_reducible apply ppsRises_keeps)
    | (with_reducible apply AnswerKeeps.next)

theorem execClearFaults_keeps {qs : List Instr} (s : State) (hs : Keep qs s) : AnswerKeeps qs (execClearFaults s) := by
  delta execClearFaults
  repeat' first
    | (with_reducible assumption)
    | (with_reducible apply modPins_keeps)
    | split
    | (with_reducible apply AnswerKeeps.next)

theorem execJtagInstruction_keeps {qs : List Instr} (ir : Nat) (s : State) (hs : Keep qs s) : AnswerKeeps qs (execJtagInstruction ir s) := by
  delta execJtagInstruction
  repeat' first
    | (with_reducible assumption)
    | (with_reducible apply modPins_keeps)
    | (with_reducible apply AnswerKeeps.next)

end Sys2Proof.Laws
end

