-- ==== Sys2Proof/Laws/KeepBoot.lean ====
section
/-! SUPPORT. What every operation of Machine/Boot.lean keeps: the waiting commands, the clock grid, the canonical form of the memories and
the bound of the event ring (Laws/Keep.lean). -/
namespace Sys2Proof.Laws

set_option linter.unusedSimpArgs false

open Sys2Proof.Machine Sys2Proof.Safety

theorem logBoot_keeps {qs : List Instr} (low payload : Nat) (s : State) (hs : Keep qs s) : Keep qs (logBoot low payload s) := by
  delta logBoot
  repeat' first
    | (with_reducible assumption)
    | (with_reducible apply logEv_keeps)

theorem ledgerAdd_keeps {qs : List Instr} (e : LedgerEntry) (s : State) (hs : Keep qs s) : Keep qs (ledgerAdd e s) := by
  delta ledgerAdd
  repeat' first
    | (with_reducible assumption)
    | (with_reducible apply modBoot_keeps)

theorem ledgerNote_keeps {qs : List Instr} (kind step cause detail : Nat) (s : State) (hs : Keep qs s) : Keep qs (ledgerNote kind step cause detail s) := by
  delta ledgerNote
  repeat' first
    | (with_reducible assumption)
    | (with_reducible apply ledgerAdd_keeps)

theorem selectLedger_keeps {qs : List Instr} (v : Word) (s : State) (hs : Keep qs s) : Keep qs (selectLedger v s) := by
  delta selectLedger
  repeat' first
    | (with_reducible assumption)
    | (with_reducible apply modBoot_keeps)

theorem resolveItems_keeps {qs : List Instr} (s : State) (hs : Keep qs s) : Keep qs (resolveItems s) := by
  delta resolveItems
  repeat' first
    | (with_reducible assumption)
    | (with_reducible apply modBoot_keeps)
    | (with_reducible apply forAll_keeps)
    | (with_reducible apply logBoot_keeps)
    | (with_reducible refine fun _ => ?_)
    | split

theorem cleared_keeps {qs : List Instr} (cold : Bool) (s : State) (hs : Keep qs s) : Keep qs (cleared cold s) :=
  ⟨hs.pend, (by decide : (0 : Nat) % 4 = 0), (by decide : (0 : Nat) < 2 ^ 64), Nat.zero_le _, rfl, hs.norWf, rfl, rfl, rfl, rfl⟩

theorem stopRoods_keeps {qs : List Instr} (s : State) (hs : Keep qs s) : Keep qs (stopRoods s) := by
  delta stopRoods
  repeat' first
    | (with_reducible assumption)
    | (with_reducible rfl)
    | (with_reducible apply forAll_keeps)
    | (with_reducible apply stopRood_keeps)
    | (with_reducible refine fun _ => ?_)
    | lift_lets
    | (intro x; refine keep_cut (qs := qs) x ?_ ?_; rotate_left; intro _; clear_value x; rotate_left; unfold x)
    | (intro x; refine keep_cut_ss (qs := qs) x ?_ ?_; rotate_left; intro hfun; clear_value x; rotate_left; unfold x)
    | (intro x; refine keep_cut_ass (qs := qs) x ?_ ?_; rotate_left; intro hfun; clear_value x; rotate_left; unfold x)
    | (intro x; refine keep_cut_abss (qs := qs) x ?_ ?_; rotate_left; intro hfun; clear_value x; rotate_left; unfold x)
    | (intro x; refine keep_cut_a (qs := qs) x ?_ ?_; rotate_left; intro hfun; clear_value x; rotate_left; unfold x)
    | (intro x; refine keep_cut_ab (qs := qs) x ?_ ?_; rotate_left; intro hfun; clear_value x; rotate_left; unfold x)
    | (intro x; refine keep_cut_abc (qs := qs) x ?_ ?_; rotate_left; intro hfun; clear_value x; rotate_left; unfold x)
    | (intro x; refine keep_cut_o1 (qs := qs) x ?_ ?_; rotate_left; intro hopt; clear_value x; rotate_left; unfold x)
    | (intro x; refine keep_cut_o (qs := qs) x ?_ ?_; rotate_left; intro hopt; clear_value x; rotate_left; unfold x)
    | (with_reducible refine hopt _ (by assumption))
    | (with_reducible exact hopt _ rfl)
    | (intro x; refine keep_cut_snd (qs := qs) x ?_ ?_; rotate_left; intro _; clear_value x; rotate_left; unfold x)
    | (intro x; clear_value x)
    | (with_reducible apply hfun)
    | (intro _)
    | split
    | (with_reducible apply AnswerKeeps.next)
    | (simp only [keep_mk, List.length_modify, List.length_map, List.length_replicate, List.length_zip, List.length_range, List.length_mapIdx, Nat.min_self])
    | (with_reducible apply Keep.toV)
    | (with_reducible apply keepV_roods)
    | (with_reducible apply keep_getD)
    | (with_reducible refine keepV_mem_nil hs ?_ ?_ ?_ ?_ ?_ ?_ ?_ ?_)
    | (rename_i he; split at he)
    | (rename_i he; injection he with he; subst he)

theorem enterSafe_keeps {qs : List Instr} (n : Nat) (s : State) (hs : Keep qs s) : Keep qs (enterSafe n s) := by
  delta enterSafe
  repeat' first
    | (with_reducible assumption)
    | (with_reducible rfl)
    | (with_reducible apply modGlb_keeps)
    | (with_reducible apply modEth_keeps)
    | (with_reducible apply modBoot_keeps)
    | (with_reducible apply forAll_keeps)
    | (with_reducible apply linkDrops_keeps)
    | (with_reducible apply changePstate_keeps)
    | (with_reducible apply logBoot_keeps)
    | (with_reducible apply ledgerNote_keeps)
    | (with_reducible refine fun _ => ?_)
    | lift_lets
    | (intro x; refine keep_cut (qs := qs) x ?_ ?_; rotate_left; intro _; clear_value x; rotate_left; unfold x)
    | (intro x; refine keep_cut_ss (qs := qs) x ?_ ?_; rotate_left; intro hfun; clear_value x; rotate_left; unfold x)
    | (intro x; refine keep_cut_ass (qs := qs) x ?_ ?_; rotate_left; intro hfun; clear_value x; rotate_left; unfold x)
    | (intro x; refine keep_cut_abss (qs := qs) x ?_ ?_; rotate_left; intro hfun; clear_value x; rotate_left; unfold x)
    | (intro x; refine keep_cut_a (qs := qs) x ?_ ?_; rotate_left; intro hfun; clear_value x; rotate_left; unfold x)
    | (intro x; refine keep_cut_ab (qs := qs) x ?_ ?_; rotate_left; intro hfun; clear_value x; rotate_left; unfold x)
    | (intro x; refine keep_cut_abc (qs := qs) x ?_ ?_; rotate_left; intro hfun; clear_value x; rotate_left; unfold x)
    | (intro x; refine keep_cut_o1 (qs := qs) x ?_ ?_; rotate_left; intro hopt; clear_value x; rotate_left; unfold x)
    | (intro x; refine keep_cut_o (qs := qs) x ?_ ?_; rotate_left; intro hopt; clear_value x; rotate_left; unfold x)
    | (with_reducible refine hopt _ (by assumption))
    | (with_reducible exact hopt _ rfl)
    | (intro x; refine keep_cut_snd (qs := qs) x ?_ ?_; rotate_left; intro _; clear_value x; rotate_left; unfold x)
    | (intro x; clear_value x)
    | (with_reducible apply hfun)
    | (intro _)
    | split
    | (with_reducible apply AnswerKeeps.next)
    | (simp only [keep_mk, List.length_modify, List.length_map, List.length_replicate, List.length_zip, List.length_range, List.length_mapIdx, Nat.min_self])
    | (with_reducible apply Keep.toV)
    | (with_reducible apply keepV_roods)
    | (with_reducible apply keep_getD)
    | (with_reducible refine keepV_mem_nil hs ?_ ?_ ?_ ?_ ?_ ?_ ?_ ?_)
    | (rename_i he; split at he)
    | (rename_i he; injection he with he; subst he)

theorem applyEntry_keeps {qs : List Instr} (e : RepairEntry) (s : State) (hs : Keep qs s) : Keep qs (applyEntry e s) := by
  delta applyEntry
  repeat' first
    | (with_reducible assumption)
    | (with_reducible rfl)
    | (with_reducible apply modCluster_keeps)
    | (with_reducible apply modStack_keeps)
    | (with_reducible apply modEngine_keeps)
    | (with_reducible apply modLink_keeps)
    | (with_reducible apply modFwc_keeps)
    | (with_reducible refine fun _ => ?_)
    | lift_lets
    | (intro x; refine keep_cut (qs := qs) x ?_ ?_; rotate_left; intro _; clear_value x; rotate_left; unfold x)
    | (intro x; refine keep_cut_ss (qs := qs) x ?_ ?_; rotate_left; intro hfun; clear_value x; rotate_left; unfold x)
    | (intro x; refine keep_cut_ass (qs := qs) x ?_ ?_; rotate_left; intro hfun; clear_value x; rotate_left; unfold x)
    | (intro x; refine keep_cut_abss (qs := qs) x ?_ ?_; rotate_left; intro hfun; clear_value x; rotate_left; unfold x)
    | (intro x; refine keep_cut_a (qs := qs) x ?_ ?_; rotate_left; intro hfun; clear_value x; rotate_left; unfold x)
    | (intro x; refine keep_cut_ab (qs := qs) x ?_ ?_; rotate_left; intro hfun; clear_value x; rotate_left; unfold x)
    | (intro x; refine keep_cut_abc (qs := qs) x ?_ ?_; rotate_left; intro hfun; clear_value x; rotate_left; unfold x)
    | (intro x; refine keep_cut_o1 (qs := qs) x ?_ ?_; rotate_left; intro hopt; clear_value x; rotate_left; unfold x)
    | (intro x; refine keep_cut_o (qs := qs) x ?_ ?_; rotate_left; intro hopt; clear_value x; rotate_left; unfold x)
    | (with_reducible refine hopt _ (by assumption))
    | (with_reducible exact hopt _ rfl)
    | (intro x; refine keep_cut_snd (qs := qs) x ?_ ?_; rotate_left; intro _; clear_value x; rotate_left; unfold x)
    | (intro x; clear_value x)
    | (with_reducible apply hfun)
    | (intro _)
    | split
    | (with_reducible apply AnswerKeeps.next)
    | (simp only [keep_mk, List.length_modify, List.length_map, List.length_replicate, List.length_zip, List.length_range, List.length_mapIdx, Nat.min_self])
    | (with_reducible apply Keep.toV)
    | (with_reducible apply keepV_roods)
    | (with_reducible apply keep_getD)
    | (with_reducible refine keepV_mem_nil hs ?_ ?_ ?_ ?_ ?_ ?_ ?_ ?_)
    | (rename_i he; split at he)
    | (rename_i he; injection he with he; subst he)

theorem applyStackEntry_keeps {qs : List Instr} (e : RepairEntry) (s : State) (hs : Keep qs s) : Keep qs (applyStackEntry e s) := by
  delta applyStackEntry
  repeat' first
    | (with_reducible assumption)
    | (with_reducible rfl)
    | (with_reducible apply modStack_keeps)
    | (with_reducible refine fun _ => ?_)
    | lift_lets
    | (intro x; refine keep_cut (qs := qs) x ?_ ?_; rotate_left; intro _; clear_value x; rotate_left; unfold x)
    | (intro x; refine keep_cut_ss (qs := qs) x ?_ ?_; rotate_left; intro hfun; clear_value x; rotate_left; unfold x)
    | (intro x; refine keep_cut_ass (qs := qs) x ?_ ?_; rotate_left; intro hfun; clear_value x; rotate_left; unfold x)
    | (intro x; refine keep_cut_abss (qs := qs) x ?_ ?_; rotate_left; intro hfun; clear_value x; rotate_left; unfold x)
    | (intro x; refine keep_cut_a (qs := qs) x ?_ ?_; rotate_left; intro hfun; clear_value x; rotate_left; unfold x)
    | (intro x; refine keep_cut_ab (qs := qs) x ?_ ?_; rotate_left; intro hfun; clear_value x; rotate_left; unfold x)
    | (intro x; refine keep_cut_abc (qs := qs) x ?_ ?_; rotate_left; intro hfun; clear_value x; rotate_left; unfold x)
    | (intro x; refine keep_cut_o1 (qs := qs) x ?_ ?_; rotate_left; intro hopt; clear_value x; rotate_left; unfold x)
    | (intro x; refine keep_cut_o (qs := qs) x ?_ ?_; rotate_left; intro hopt; clear_value x; rotate_left; unfold x)
    | (with_reducible refine hopt _ (by assumption))
    | (with_reducible exact hopt _ rfl)
    | (intro x; refine keep_cut_snd (qs := qs) x ?_ ?_; rotate_left; intro _; clear_value x; rotate_left; unfold x)
    | (intro x; clear_value x)
    | (with_reducible apply hfun)
    | (intro _)
    | split
    | (with_reducible apply AnswerKeeps.next)
    | (simp only [keep_mk, List.length_modify, List.length_map, List.length_replicate, List.length_zip, List.length_range, List.length_mapIdx, Nat.min_self])
    | (with_reducible apply Keep.toV)
    | (with_reducible apply keepV_roods)
    | (with_reducible apply keep_getD)
    | (with_reducible refine keepV_mem_nil hs ?_ ?_ ?_ ?_ ?_ ?_ ?_ ?_)
    | (rename_i he; split at he)
    | (rename_i he; injection he with he; subst he)

theorem bootClusters_keeps {qs : List Instr} (w : BootWorld) (s : State) (hs : Keep qs s) : Keep qs (bootClusters w s) := by
  delta bootClusters
  repeat' first
    | (with_reducible assumption)
    | (with_reducible rfl)
    | (with_reducible apply doneOr_keeps)
    | (with_reducible apply modCluster_keeps)
    | (with_reducible apply forAll_keeps)
    | (with_reducible apply logCluster_keeps)
    | (with_reducible apply failCluster_keeps)
    | (with_reducible apply execSpareSelftest_keeps)
    | (with_reducible refine fun _ => ?_)
    | lift_lets
    | (intro x; refine keep_cut (qs := qs) x ?_ ?_; rotate_left; intro _; clear_value x; rotate_left; unfold x)
    | (intro x; refine keep_cut_ss (qs := qs) x ?_ ?_; rotate_left; intro hfun; clear_value x; rotate_left; unfold x)
    | (intro x; refine keep_cut_ass (qs := qs) x ?_ ?_; rotate_left; intro hfun; clear_value x; rotate_left; unfold x)
    | (intro x; refine keep_cut_abss (qs := qs) x ?_ ?_; rotate_left; intro hfun; clear_value x; rotate_left; unfold x)
    | (intro x; refine keep_cut_a (qs := qs) x ?_ ?_; rotate_left; intro hfun; clear_value x; rotate_left; unfold x)
    | (intro x; refine keep_cut_ab (qs := qs) x ?_ ?_; rotate_left; intro hfun; clear_value x; rotate_left; unfold x)
    | (intro x; refine keep_cut_abc (qs := qs) x ?_ ?_; rotate_left; intro hfun; clear_value x; rotate_left; unfold x)
    | (intro x; refine keep_cut_o1 (qs := qs) x ?_ ?_; rotate_left; intro hopt; clear_value x; rotate_left; unfold x)
    | (intro x; refine keep_cut_o (qs := qs) x ?_ ?_; rotate_left; intro hopt; clear_value x; rotate_left; unfold x)
    | (with_reducible refine hopt _ (by assumption))
    | (with_reducible exact hopt _ rfl)
    | (intro x; refine keep_cut_snd (qs := qs) x ?_ ?_; rotate_left; intro _; clear_value x; rotate_left; unfold x)
    | (intro x; clear_value x)
    | (with_reducible apply hfun)
    | (intro _)
    | split
    | (with_reducible apply AnswerKeeps.next)
    | (simp only [keep_mk, List.length_modify, List.length_map, List.length_replicate, List.length_zip, List.length_range, List.length_mapIdx, Nat.min_self])
    | (with_reducible apply Keep.toV)
    | (with_reducible apply keepV_roods)
    | (with_reducible apply keep_getD)
    | (with_reducible refine keepV_mem_nil hs ?_ ?_ ?_ ?_ ?_ ?_ ?_ ?_)
    | (rename_i he; split at he)
    | (rename_i he; injection he with he; subst he)

theorem bootStacks_keeps {qs : List Instr} (w : BootWorld) (s : State) (hs : Keep qs s) : Keep qs (bootStacks w s) := by
  delta bootStacks
  repeat' first
    | (with_reducible assumption)
    | (with_reducible rfl)
    | (with_reducible apply doneOr_keeps)
    | (with_reducible apply modEngine_keeps)
    | (with_reducible apply forAll_keeps)
    | (with_reducible apply failEngine_keeps)
    | (with_reducible apply execSpareSelftest_keeps)
    | (with_reducible refine fun _ => ?_)
    | lift_lets
    | (intro x; refine keep_cut (qs := qs) x ?_ ?_; rotate_left; intro _; clear_value x; rotate_left; unfold x)
    | (intro x; refine keep_cut_ss (qs := qs) x ?_ ?_; rotate_left; intro hfun; clear_value x; rotate_left; unfold x)
    | (intro x; refine keep_cut_ass (qs := qs) x ?_ ?_; rotate_left; intro hfun; clear_value x; rotate_left; unfold x)
    | (intro x; refine keep_cut_abss (qs := qs) x ?_ ?_; rotate_left; intro hfun; clear_value x; rotate_left; unfold x)
    | (intro x; refine keep_cut_a (qs := qs) x ?_ ?_; rotate_left; intro hfun; clear_value x; rotate_left; unfold x)
    | (intro x; refine keep_cut_ab (qs := qs) x ?_ ?_; rotate_left; intro hfun; clear_value x; rotate_left; unfold x)
    | (intro x; refine keep_cut_abc (qs := qs) x ?_ ?_; rotate_left; intro hfun; clear_value x; rotate_left; unfold x)
    | (intro x; refine keep_cut_o1 (qs := qs) x ?_ ?_; rotate_left; intro hopt; clear_value x; rotate_left; unfold x)
    | (intro x; refine keep_cut_o (qs := qs) x ?_ ?_; rotate_left; intro hopt; clear_value x; rotate_left; unfold x)
    | (with_reducible refine hopt _ (by assumption))
    | (with_reducible exact hopt _ rfl)
    | (intro x; refine keep_cut_snd (qs := qs) x ?_ ?_; rotate_left; intro _; clear_value x; rotate_left; unfold x)
    | (intro x; clear_value x)
    | (with_reducible apply hfun)
    | (intro _)
    | split
    | (with_reducible apply AnswerKeeps.next)
    | (simp only [keep_mk, List.length_modify, List.length_map, List.length_replicate, List.length_zip, List.length_range, List.length_mapIdx, Nat.min_self])
    | (with_reducible apply Keep.toV)
    | (with_reducible apply keepV_roods)
    | (with_reducible apply keep_getD)
    | (with_reducible refine keepV_mem_nil hs ?_ ?_ ?_ ?_ ?_ ?_ ?_ ?_)
    | (rename_i he; split at he)
    | (rename_i he; injection he with he; subst he)

theorem bootLinks_keeps {qs : List Instr} (w : BootWorld) (s : State) (hs : Keep qs s) : Keep qs (bootLinks w s) := by
  delta bootLinks
  repeat' first
    | (with_reducible assumption)
    | (with_reducible rfl)
    | (with_reducible apply forAll_keeps)
    | (with_reducible apply trainLink_keeps)
    | (with_reducible refine fun _ => ?_)
    | lift_lets
    | (intro x; refine keep_cut (qs := qs) x ?_ ?_; rotate_left; intro _; clear_value x; rotate_left; unfold x)
    | (intro x; refine keep_cut_ss (qs := qs) x ?_ ?_; rotate_left; intro hfun; clear_value x; rotate_left; unfold x)
    | (intro x; refine keep_cut_ass (qs := qs) x ?_ ?_; rotate_left; intro hfun; clear_value x; rotate_left; unfold x)
    | (intro x; refine keep_cut_abss (qs := qs) x ?_ ?_; rotate_left; intro hfun; clear_value x; rotate_left; unfold x)
    | (intro x; refine keep_cut_a (qs := qs) x ?_ ?_; rotate_left; intro hfun; clear_value x; rotate_left; unfold x)
    | (intro x; refine keep_cut_ab (qs := qs) x ?_ ?_; rotate_left; intro hfun; clear_value x; rotate_left; unfold x)
    | (intro x; refine keep_cut_abc (qs := qs) x ?_ ?_; rotate_left; intro hfun; clear_value x; rotate_left; unfold x)
    | (intro x; refine keep_cut_o1 (qs := qs) x ?_ ?_; rotate_left; intro hopt; clear_value x; rotate_left; unfold x)
    | (intro x; refine keep_cut_o (qs := qs) x ?_ ?_; rotate_left; intro hopt; clear_value x; rotate_left; unfold x)
    | (with_reducible refine hopt _ (by assumption))
    | (with_reducible exact hopt _ rfl)
    | (intro x; refine keep_cut_snd (qs := qs) x ?_ ?_; rotate_left; intro _; clear_value x; rotate_left; unfold x)
    | (intro x; clear_value x)
    | (with_reducible apply hfun)
    | (intro _)
    | split
    | (with_reducible apply AnswerKeeps.next)
    | (simp only [keep_mk, List.length_modify, List.length_map, List.length_replicate, List.length_zip, List.length_range, List.length_mapIdx, Nat.min_self])
    | (with_reducible apply Keep.toV)
    | (with_reducible apply keepV_roods)
    | (with_reducible apply keep_getD)
    | (with_reducible refine keepV_mem_nil hs ?_ ?_ ?_ ?_ ?_ ?_ ?_ ?_)
    | (rename_i he; split at he)
    | (rename_i he; injection he with he; subst he)

theorem bootFabric_keeps {qs : List Instr} (s : State) (hs : Keep qs s) : Keep qs (bootFabric s) := by
  delta bootFabric
  repeat' first
    | (with_reducible assumption)
    | (with_reducible apply modFab_keeps)

theorem bootEthernet_keeps {qs : List Instr} (w : BootWorld) (s : State) (hs : Keep qs s) : Keep qs (bootEthernet w s) := by
  delta bootEthernet
  repeat' first
    | (with_reducible assumption)
    | (with_reducible rfl)
    | (with_reducible apply modEth_keeps)
    | (with_reducible apply forAll_keeps)
    | (with_reducible apply ifUp_keeps)
    | (with_reducible refine fun _ => ?_)
    | lift_lets
    | (intro x; refine keep_cut (qs := qs) x ?_ ?_; rotate_left; intro _; clear_value x; rotate_left; unfold x)
    | (intro x; refine keep_cut_ss (qs := qs) x ?_ ?_; rotate_left; intro hfun; clear_value x; rotate_left; unfold x)
    | (intro x; refine keep_cut_ass (qs := qs) x ?_ ?_; rotate_left; intro hfun; clear_value x; rotate_left; unfold x)
    | (intro x; refine keep_cut_abss (qs := qs) x ?_ ?_; rotate_left; intro hfun; clear_value x; rotate_left; unfold x)
    | (intro x; refine keep_cut_a (qs := qs) x ?_ ?_; rotate_left; intro hfun; clear_value x; rotate_left; unfold x)
    | (intro x; refine keep_cut_ab (qs := qs) x ?_ ?_; rotate_left; intro hfun; clear_value x; rotate_left; unfold x)
    | (intro x; refine keep_cut_abc (qs := qs) x ?_ ?_; rotate_left; intro hfun; clear_value x; rotate_left; unfold x)
    | (intro x; refine keep_cut_o1 (qs := qs) x ?_ ?_; rotate_left; intro hopt; clear_value x; rotate_left; unfold x)
    | (intro x; refine keep_cut_o (qs := qs) x ?_ ?_; rotate_left; intro hopt; clear_value x; rotate_left; unfold x)
    | (with_reducible refine hopt _ (by assumption))
    | (with_reducible exact hopt _ rfl)
    | (intro x; refine keep_cut_snd (qs := qs) x ?_ ?_; rotate_left; intro _; clear_value x; rotate_left; unfold x)
    | (intro x; clear_value x)
    | (with_reducible apply hfun)
    | (intro _)
    | split
    | (with_reducible apply AnswerKeeps.next)
    | (simp only [keep_mk, List.length_modify, List.length_map, List.length_replicate, List.length_zip, List.length_range, List.length_mapIdx, Nat.min_self])
    | (with_reducible apply Keep.toV)
    | (with_reducible apply keepV_roods)
    | (with_reducible apply keep_getD)
    | (with_reducible refine keepV_mem_nil hs ?_ ?_ ?_ ?_ ?_ ?_ ?_ ?_)
    | (rename_i he; split at he)
    | (rename_i he; injection he with he; subst he)

theorem bootTime_keeps {qs : List Instr} (w : BootWorld) (s : State) (hs : Keep qs s) : Keep qs (bootTime w s) := by
  have hg : w.lockStamp / 4 * 4 % 2 ^ 64 % 4 = 0 := by omega
  have hw : w.lockStamp / 4 * 4 % 2 ^ 64 < 2 ^ 64 := Nat.mod_lt _ (by decide)
  unfold bootTime
  extract_lets list now s1 s2 s3 s4
  have h3 : Keep qs s3 := modTime_now_keeps _ _ (modFwc_keeps _ _ (modEth_keeps _ _ hs)) hg hw
  have h4 : Keep qs s4 := modTime_keeps _ _ h3 rfl
  exact ledgerNote_keeps _ _ _ _ _ (lockAgain_keeps _ _ h4)

theorem bootSpares_keeps {qs : List Instr} (w : BootWorld) (s : State) (hs : Keep qs s) : Keep qs (bootSpares w s) := by
  delta bootSpares
  repeat' first
    | (with_reducible assumption)
    | (with_reducible rfl)
    | (with_reducible apply doneOr_keeps)
    | (with_reducible apply modFlash_keeps)
    | (with_reducible apply forAll_keeps)
    | (with_reducible apply mapChange_keeps)
    | (with_reducible apply execSpareSelftest_keeps)
    | (with_reducible refine fun _ => ?_)
    | lift_lets
    | (intro x; refine keep_cut (qs := qs) x ?_ ?_; rotate_left; intro _; clear_value x; rotate_left; unfold x)
    | (intro x; refine keep_cut_ss (qs := qs) x ?_ ?_; rotate_left; intro hfun; clear_value x; rotate_left; unfold x)
    | (intro x; refine keep_cut_ass (qs := qs) x ?_ ?_; rotate_left; intro hfun; clear_value x; rotate_left; unfold x)
    | (intro x; refine keep_cut_abss (qs := qs) x ?_ ?_; rotate_left; intro hfun; clear_value x; rotate_left; unfold x)
    | (intro x; refine keep_cut_a (qs := qs) x ?_ ?_; rotate_left; intro hfun; clear_value x; rotate_left; unfold x)
    | (intro x; refine keep_cut_ab (qs := qs) x ?_ ?_; rotate_left; intro hfun; clear_value x; rotate_left; unfold x)
    | (intro x; refine keep_cut_abc (qs := qs) x ?_ ?_; rotate_left; intro hfun; clear_value x; rotate_left; unfold x)
    | (intro x; refine keep_cut_o1 (qs := qs) x ?_ ?_; rotate_left; intro hopt; clear_value x; rotate_left; unfold x)
    | (intro x; refine keep_cut_o (qs := qs) x ?_ ?_; rotate_left; intro hopt; clear_value x; rotate_left; unfold x)
    | (with_reducible refine hopt _ (by assumption))
    | (with_reducible exact hopt _ rfl)
    | (intro x; refine keep_cut_snd (qs := qs) x ?_ ?_; rotate_left; intro _; clear_value x; rotate_left; unfold x)
    | (intro x; clear_value x)
    | (with_reducible apply hfun)
    | (intro _)
    | split
    | (with_reducible apply AnswerKeeps.next)
    | (simp only [keep_mk, List.length_modify, List.length_map, List.length_replicate, List.length_zip, List.length_range, List.length_mapIdx, Nat.min_self])
    | (with_reducible apply Keep.toV)
    | (with_reducible apply keepV_roods)
    | (with_reducible apply keep_getD)
    | (with_reducible refine keepV_mem_nil hs ?_ ?_ ?_ ?_ ?_ ?_ ?_ ?_)
    | (rename_i he; split at he)
    | (rename_i he; injection he with he; subst he)

theorem bootLock_keeps {qs : List Instr} (s : State) (hs : Keep qs s) : Keep qs (bootLock s) := by
  delta bootLock
  repeat' first
    | (with_reducible assumption)
    | (with_reducible apply modGlb_keeps)
    | (with_reducible apply modFlash_keeps)
    | (with_reducible apply modStreams_keeps)
    | lift_lets
    | (simp only [keep_mk, List.length_modify, List.length_map, List.length_replicate, List.length_zip, List.length_range, List.length_mapIdx, Nat.min_self])
    | (with_reducible apply Keep.toV)

theorem bootPower_keeps {qs : List Instr} (s : State) (hs : Keep qs s) : Keep qs (bootPower s) := by
  delta bootPower
  repeat' first
    | (with_reducible assumption)
    | (with_reducible apply modFwc_keeps)
    | (with_reducible apply modPins_keeps)
    | (with_reducible apply setFlag_keeps)
    | lift_lets
    | (intro x; refine keep_cut (qs := qs) x ?_ ?_; rotate_left; intro _; clear_value x; rotate_left; unfold x)
    | split

theorem bootClocks_keeps {qs : List Instr} (s : State) (hs : Keep qs s) : Keep qs (bootClocks s) := by
  delta bootClocks
  repeat' first
    | (with_reducible assumption)
    | (with_reducible apply modFwc_keeps)
    | (with_reducible apply modBoot_keeps)
    | (with_reducible apply settleClocks_keeps)
    | lift_lets
    | split
    | (simp only [keep_mk, List.length_modify, List.length_map, List.length_replicate, List.length_zip, List.length_range, List.length_mapIdx, Nat.min_self])
    | (with_reducible apply Keep.toV)

theorem bootImageStep_keeps {qs : List Instr} (w : BootWorld) (s : State) (hs : Keep qs s) : Keep qs (bootImageStep w s) := by
  delta bootImageStep
  repeat' first
    | (with_reducible assumption)
    | (with_reducible apply modFwc_keeps)
    | (with_reducible apply modBoot_keeps)
    | (with_reducible apply noteSlot_keeps)
    | (with_reducible apply logBoot_keeps)
    | (with_reducible apply resolveItems_keeps)
    | lift_lets
    | (intro x; refine keep_cut (qs := qs) x ?_ ?_; rotate_left; intro _; clear_value x; rotate_left; unfold x)
    | split
    | (simp only [keep_mk, List.length_modify, List.length_map, List.length_replicate, List.length_zip, List.length_range, List.length_mapIdx, Nat.min_self])

theorem stepActs_keeps {qs : List Instr} (n : Nat) (w : BootWorld) (s : State) (hs : Keep qs s) : Keep qs (stepActs n w s) := by
  delta stepActs
  repeat' first
    | (with_reducible assumption)
    | (with_reducible apply modBoot_keeps)
    | (with_reducible apply forAll_keeps)
    | (with_reducible apply settleClocks_keeps)
    | (with_reducible apply logBoot_keeps)
    | (with_reducible apply applyEntry_keeps)
    | (with_reducible apply applyStackEntry_keeps)
    | (with_reducible apply bootClusters_keeps)
    | (with_reducible apply bootStacks_keeps)
    | (with_reducible apply bootLinks_keeps)
    | (with_reducible apply bootEthernet_keeps)
    | (with_reducible apply bootTime_keeps)
    | (with_reducible apply bootSpares_keeps)
    | (with_reducible apply bootLock_keeps)
    | (with_reducible apply bootPower_keeps)
    | (with_reducible apply bootClocks_keeps)
    | (with_reducible apply bootImageStep_keeps)
    | lift_lets
    | (intro x; refine keep_cut (qs := qs) x ?_ ?_; rotate_left; intro _; clear_value x; rotate_left; unfold x)
    | split
    | (simp only [keep_mk, List.length_modify, List.length_map, List.length_replicate, List.length_zip, List.length_range, List.length_mapIdx, Nat.min_self])
    | (with_reducible apply Keep.toV)

theorem stepSkipped_keeps {qs : List Instr} (n : Nat) (s : State) (hs : Keep qs s) : Keep qs (stepSkipped n s) := by
  delta stepSkipped
  repeat' first
    | (with_reducible assumption)
    | (with_reducible apply modFlash_keeps)
    | split

theorem countFail_keeps {qs : List Instr} (n cause detail : Nat) (s : State) (hs : Keep qs s) : Keep qs (countFail n cause detail s) := by
  delta countFail
  repeat' first
    | (with_reducible assumption)
    | (with_reducible apply modBoot_keeps)
    | (with_reducible apply logBoot_keeps)
    | (with_reducible apply ledgerNote_keeps)

theorem noteMismatch_keeps {qs : List Instr} (n cause : Nat) (w : BootWorld) (s : State) (hs : Keep qs s) : Keep qs (noteMismatch n cause w s) := by
  delta noteMismatch
  repeat' first
    | (with_reducible assumption)
    | (with_reducible rfl)
    | (with_reducible apply logTime_keeps)
    | (with_reducible refine fun _ => ?_)
    | lift_lets
    | (intro x; refine keep_cut (qs := qs) x ?_ ?_; rotate_left; intro _; clear_value x; rotate_left; unfold x)
    | (intro x; refine keep_cut_ss (qs := qs) x ?_ ?_; rotate_left; intro hfun; clear_value x; rotate_left; unfold x)
    | (intro x; refine keep_cut_ass (qs := qs) x ?_ ?_; rotate_left; intro hfun; clear_value x; rotate_left; unfold x)
    | (intro x; refine keep_cut_abss (qs := qs) x ?_ ?_; rotate_left; intro hfun; clear_value x; rotate_left; unfold x)
    | (intro x; refine keep_cut_a (qs := qs) x ?_ ?_; rotate_left; intro hfun; clear_value x; rotate_left; unfold x)
    | (intro x; refine keep_cut_ab (qs := qs) x ?_ ?_; rotate_left; intro hfun; clear_value x; rotate_left; unfold x)
    | (intro x; refine keep_cut_abc (qs := qs) x ?_ ?_; rotate_left; intro hfun; clear_value x; rotate_left; unfold x)
    | (intro x; refine keep_cut_o1 (qs := qs) x ?_ ?_; rotate_left; intro hopt; clear_value x; rotate_left; unfold x)
    | (intro x; refine keep_cut_o (qs := qs) x ?_ ?_; rotate_left; intro hopt; clear_value x; rotate_left; unfold x)
    | (with_reducible refine hopt _ (by assumption))
    | (with_reducible exact hopt _ rfl)
    | (intro x; refine keep_cut_snd (qs := qs) x ?_ ?_; rotate_left; intro _; clear_value x; rotate_left; unfold x)
    | (intro x; clear_value x)
    | (with_reducible apply hfun)
    | (intro _)
    | split
    | (with_reducible apply AnswerKeeps.next)
    | (simp only [keep_mk, List.length_modify, List.length_map, List.length_replicate, List.length_zip, List.length_range, List.length_mapIdx, Nat.min_self])
    | (with_reducible apply Keep.toV)
    | (with_reducible apply keepV_roods)
    | (with_reducible apply keep_getD)
    | (with_reducible refine keepV_mem_nil hs ?_ ?_ ?_ ?_ ?_ ?_ ?_ ?_)
    | (rename_i he; split at he)
    | (rename_i he; injection he with he; subst he)

theorem stepFailed_keeps {qs : List Instr} (n cause detail : Nat) (s : State) (hs : Keep qs s) : Keep qs (stepFailed n cause detail s) := by
  delta stepFailed
  repeat' first
    | (with_reducible assumption)
    | (with_reducible apply modBoot_keeps)
    | (with_reducible apply enterSafe_keeps)
    | (with_reducible apply countFail_keeps)
    | lift_lets
    | (intro x; refine keep_cut (qs := qs) x ?_ ?_; rotate_left; intro _; clear_value x; rotate_left; unfold x)
    | split

theorem stepPassed_keeps {qs : List Instr} (n : Nat) (s : State) (hs : Keep qs s) : Keep qs (stepPassed n s) := by
  delta stepPassed
  repeat' first
    | (with_reducible assumption)
    | (with_reducible apply modBoot_keeps)
    | (with_reducible apply ledgerNote_keeps)

theorem runSteps_keeps {qs : List Instr} (w : BootWorld) (l : List Nat) (s : State) (hs : Keep qs s) : Keep qs (runSteps w l s) := by
  induction l generalizing s with
  | nil => exact ledgerNote_keeps _ _ _ _ _ hs
  | cons n rest ih =>
    unfold runSteps
    repeat' first
      | (with_reducible assumption)
      | lift_lets
      | (intro x; refine keep_cut (qs := qs) x ?_ ?_; rotate_left; intro _; clear_value x; rotate_left; unfold x)
      | (with_reducible apply ih)
      | (with_reducible apply noteMismatch_keeps)
      | (with_reducible apply ledgerNote_keeps)
      | (with_reducible apply stepFailed_keeps)
      | (with_reducible apply stepSkipped_keeps)
      | (with_reducible apply stepPassed_keeps)
      | (with_reducible apply stepActs_keeps)
      | (with_reducible apply logBoot_keeps)
      | (with_reducible apply bootFabric_keeps)
      | (with_reducible apply modBoot_keeps)
      | (intro _)
      | split

theorem noteInterrupted_keeps {qs : List Instr} (s : State) (hs : Keep qs s) : Keep qs (noteInterrupted s).2 := by
  delta noteInterrupted
  repeat' first
    | (with_reducible assumption)
    | (with_reducible apply countFail_keeps)
    | lift_lets
    | (intro x; refine keep_cut (qs := qs) x ?_ ?_; rotate_left; intro _; clear_value x; rotate_left; unfold x)
    | split

theorem noteInterrupted_keeps_eq {qs : List Instr} (s : State) {tOut : State} {outv : _} (hs : Keep qs s) (e : noteInterrupted s = (outv, tOut)) : Keep qs tOut := by
  have := noteInterrupted_keeps (qs := qs) s hs
  rw [e] at this; exact this

theorem startModule_keeps {qs : List Instr} (cause : Nat) (w : BootWorld) (s : State) (hs : Keep qs s) : Keep qs (startModule cause w s) := by
  delta startModule
  repeat' first
    | (with_reducible assumption)
    | (with_reducible apply modPins_keeps)
    | (with_reducible apply modBoot_keeps)
    | (with_reducible apply logSec_keeps)
    | (with_reducible apply ledgerNote_keeps)
    | (with_reducible apply cleared_keeps)
    | (with_reducible apply enterSafe_keeps)
    | (with_reducible apply runSteps_keeps)
    | (with_reducible refine noteInterrupted_keeps_eq _ ?_ (by assumption))
    | lift_lets
    | (intro x; refine keep_cut (qs := qs) x ?_ ?_; rotate_left; intro _; clear_value x; rotate_left; unfold x)
    | (intro x; clear_value x)
    | split

theorem shutDown_keeps {qs : List Instr} (cause : Nat) (w : BootWorld) (s : State) (hs : Keep qs s) : Keep qs (shutDown cause w s) := by
  delta shutDown
  repeat' first
    | (with_reducible assumption)
    | (with_reducible rfl)
    | (with_reducible apply ledgerNote_keeps)
    | (with_reducible apply startModule_keeps)
    | (with_reducible refine fun _ => ?_)
    | lift_lets
    | (intro x; refine keep_cut (qs := qs) x ?_ ?_; rotate_left; intro _; clear_value x; rotate_left; unfold x)
    | (intro x; refine keep_cut_ss (qs := qs) x ?_ ?_; rotate_left; intro hfun; clear_value x; rotate_left; unfold x)
    | (intro x; refine keep_cut_ass (qs := qs) x ?_ ?_; rotate_left; intro hfun; clear_value x; rotate_left; unfold x)
    | (intro x; refine keep_cut_abss (qs := qs) x ?_ ?_; rotate_left; intro hfun; clear_value x; rotate_left; unfold x)
    | (intro x; refine keep_cut_a (qs := qs) x ?_ ?_; rotate_left; intro hfun; clear_value x; rotate_left; unfold x)
    | (intro x; refine keep_cut_ab (qs := qs) x ?_ ?_; rotate_left; intro hfun; clear_value x; rotate_left; unfold x)
    | (intro x; refine keep_cut_abc (qs := qs) x ?_ ?_; rotate_left; intro hfun; clear_value x; rotate_left; unfold x)
    | (intro x; refine keep_cut_o1 (qs := qs) x ?_ ?_; rotate_left; intro hopt; clear_value x; rotate_left; unfold x)
    | (intro x; refine keep_cut_o (qs := qs) x ?_ ?_; rotate_left; intro hopt; clear_value x; rotate_left; unfold x)
    | (with_reducible refine hopt _ (by assumption))
    | (with_reducible exact hopt _ rfl)
    | (intro x; refine keep_cut_snd (qs := qs) x ?_ ?_; rotate_left; intro _; clear_value x; rotate_left; unfold x)
    | (intro x; clear_value x)
    | (with_reducible apply hfun)
    | (intro _)
    | split
    | (with_reducible apply AnswerKeeps.next)
    | (simp only [keep_mk, List.length_modify, List.length_map, List.length_replicate, List.length_zip, List.length_range, List.length_mapIdx, Nat.min_self])
    | (with_reducible apply Keep.toV)
    | (with_reducible apply keepV_roods)
    | (with_reducible apply keep_getD)
    | (with_reducible refine keepV_mem_nil hs ?_ ?_ ?_ ?_ ?_ ?_ ?_ ?_)
    | (rename_i he; split at he)
    | (rename_i he; injection he with he; subst he)

theorem leaveOrderly_keeps {qs : List Instr} (cause : Nat) (w : BootWorld) (s : State) (hs : Keep qs s) : Keep qs (leaveOrderly cause w s) := by
  delta leaveOrderly
  repeat' first
    | (with_reducible assumption)
    | (with_reducible rfl)
    | (with_reducible apply modTime_keeps)
    | (with_reducible apply modBoot_keeps)
    | (with_reducible apply stopRoods_keeps)
    | (with_reducible apply shutDown_keeps)
    | (with_reducible refine fun _ => ?_)
    | lift_lets
    | (intro x; refine keep_cut (qs := qs) x ?_ ?_; rotate_left; intro _; clear_value x; rotate_left; unfold x)
    | (intro x; refine keep_cut_ss (qs := qs) x ?_ ?_; rotate_left; intro hfun; clear_value x; rotate_left; unfold x)
    | (intro x; refine keep_cut_ass (qs := qs) x ?_ ?_; rotate_left; intro hfun; clear_value x; rotate_left; unfold x)
    | (intro x; refine keep_cut_abss (qs := qs) x ?_ ?_; rotate_left; intro hfun; clear_value x; rotate_left; unfold x)
    | (intro x; refine keep_cut_a (qs := qs) x ?_ ?_; rotate_left; intro hfun; clear_value x; rotate_left; unfold x)
    | (intro x; refine keep_cut_ab (qs := qs) x ?_ ?_; rotate_left; intro hfun; clear_value x; rotate_left; unfold x)
    | (intro x; refine keep_cut_abc (qs := qs) x ?_ ?_; rotate_left; intro hfun; clear_value x; rotate_left; unfold x)
    | (intro x; refine keep_cut_o1 (qs := qs) x ?_ ?_; rotate_left; intro hopt; clear_value x; rotate_left; unfold x)
    | (intro x; refine keep_cut_o (qs := qs) x ?_ ?_; rotate_left; intro hopt; clear_value x; rotate_left; unfold x)
    | (with_reducible refine hopt _ (by assumption))
    | (with_reducible exact hopt _ rfl)
    | (intro x; refine keep_cut_snd (qs := qs) x ?_ ?_; rotate_left; intro _; clear_value x; rotate_left; unfold x)
    | (intro x; clear_value x)
    | (with_reducible apply hfun)
    | (intro _)
    | split
    | (with_reducible apply AnswerKeeps.next)
    | (simp only [keep_mk, List.length_modify, List.length_map, List.length_replicate, List.length_zip, List.length_range, List.length_mapIdx, Nat.min_self])
    | (with_reducible apply Keep.toV)
    | (with_reducible apply keepV_roods)
    | (with_reducible apply keep_getD)
    | (with_reducible refine keepV_mem_nil hs ?_ ?_ ?_ ?_ ?_ ?_ ?_ ?_)
    | (rename_i he; split at he)
    | (rename_i he; injection he with he; subst he)

theorem leaveDue_keeps {qs : List Instr} (s : State) (hs : Keep qs s) : Keep qs (leaveDue s) := by
  delta leaveDue
  repeat' first
    | (with_reducible assumption)
    | (with_reducible rfl)
    | (with_reducible apply shutDown_keeps)
    | (with_reducible refine fun _ => ?_)
    | lift_lets
    | (intro x; refine keep_cut (qs := qs) x ?_ ?_; rotate_left; intro _; clear_value x; rotate_left; unfold x)
    | (intro x; refine keep_cut_ss (qs := qs) x ?_ ?_; rotate_left; intro hfun; clear_value x; rotate_left; unfold x)
    | (intro x; refine keep_cut_ass (qs := qs) x ?_ ?_; rotate_left; intro hfun; clear_value x; rotate_left; unfold x)
    | (intro x; refine keep_cut_abss (qs := qs) x ?_ ?_; rotate_left; intro hfun; clear_value x; rotate_left; unfold x)
    | (intro x; refine keep_cut_a (qs := qs) x ?_ ?_; rotate_left; intro hfun; clear_value x; rotate_left; unfold x)
    | (intro x; refine keep_cut_ab (qs := qs) x ?_ ?_; rotate_left; intro hfun; clear_value x; rotate_left; unfold x)
    | (intro x; refine keep_cut_abc (qs := qs) x ?_ ?_; rotate_left; intro hfun; clear_value x; rotate_left; unfold x)
    | (intro x; refine keep_cut_o1 (qs := qs) x ?_ ?_; rotate_left; intro hopt; clear_value x; rotate_left; unfold x)
    | (intro x; refine keep_cut_o (qs := qs) x ?_ ?_; rotate_left; intro hopt; clear_value x; rotate_left; unfold x)
    | (with_reducible refine hopt _ (by assumption))
    | (with_reducible exact hopt _ rfl)
    | (intro x; refine keep_cut_snd (qs := qs) x ?_ ?_; rotate_left; intro _; clear_value x; rotate_left; unfold x)
    | (intro x; clear_value x)
    | (with_reducible apply hfun)
    | (intro _)
    | split
    | (with_reducible apply AnswerKeeps.next)
    | (simp only [keep_mk, List.length_modify, List.length_map, List.length_replicate, List.length_zip, List.length_range, List.length_mapIdx, Nat.min_self])
    | (with_reducible apply Keep.toV)
    | (with_reducible apply keepV_roods)
    | (with_reducible apply keep_getD)
    | (with_reducible refine keepV_mem_nil hs ?_ ?_ ?_ ?_ ?_ ?_ ?_ ?_)
    | (rename_i he; split at he)
    | (rename_i he; injection he with he; subst he)

theorem goDown_keeps {qs : List Instr} (cause : Nat) (s : State) (hs : Keep qs s) : Keep qs (goDown cause s) := by
  unfold goDown
  split
  · split
    · exact modBoot_keeps _ _ hs
    · exact hs
  · dsimp only
    have h := cleared_keeps false _ (modBoot_keeps (fun b => { b with down := true, downAt := s.time.now, nextCause := cause }) s hs)
    exact ⟨h.pend, hs.grid, hs.width, h.ringLen, h.memWf, h.norWf, h.roodCount, h.clusterCount, h.stackCount, h.linkCount⟩

theorem loseStandby_keeps {qs : List Instr} (s : State) (hs : Keep qs s) : Keep qs (loseStandby s) := by
  delta loseStandby
  repeat' first
    | (with_reducible assumption)
    | (with_reducible apply modPins_keeps)
    | (with_reducible apply modBoot_keeps)
    | (with_reducible apply goDown_keeps)

theorem ctlDone_keeps {qs : List Instr} (cmd st : Nat) (s : State) (hs : Keep qs s) : Keep qs (ctlDone cmd st s) := by
  delta ctlDone
  repeat' first
    | (with_reducible assumption)
    | (with_reducible apply modBoot_keeps)

theorem resetCommand_keeps {qs : List Instr} (cmd cause : Nat) (w : BootWorld) (s : State) (hs : Keep qs s) : Keep qs (resetCommand cmd cause w s) := by
  delta resetCommand
  repeat' first
    | (with_reducible assumption)
    | (with_reducible rfl)
    | (with_reducible apply modBoot_keeps)
    | (with_reducible apply leaveOrderly_keeps)
    | (with_reducible apply ctlDone_keeps)
    | (with_reducible refine fun _ => ?_)
    | lift_lets
    | (intro x; refine keep_cut (qs := qs) x ?_ ?_; rotate_left; intro _; clear_value x; rotate_left; unfold x)
    | (intro x; refine keep_cut_ss (qs := qs) x ?_ ?_; rotate_left; intro hfun; clear_value x; rotate_left; unfold x)
    | (intro x; refine keep_cut_ass (qs := qs) x ?_ ?_; rotate_left; intro hfun; clear_value x; rotate_left; unfold x)
    | (intro x; refine keep_cut_abss (qs := qs) x ?_ ?_; rotate_left; intro hfun; clear_value x; rotate_left; unfold x)
    | (intro x; refine keep_cut_a (qs := qs) x ?_ ?_; rotate_left; intro hfun; clear_value x; rotate_left; unfold x)
    | (intro x; refine keep_cut_ab (qs := qs) x ?_ ?_; rotate_left; intro hfun; clear_value x; rotate_left; unfold x)
    | (intro x; refine keep_cut_abc (qs := qs) x ?_ ?_; rotate_left; intro hfun; clear_value x; rotate_left; unfold x)
    | (intro x; refine keep_cut_o1 (qs := qs) x ?_ ?_; rotate_left; intro hopt; clear_value x; rotate_left; unfold x)
    | (intro x; refine keep_cut_o (qs := qs) x ?_ ?_; rotate_left; intro hopt; clear_value x; rotate_left; unfold x)
    | (with_reducible refine hopt _ (by assumption))
    | (with_reducible exact hopt _ rfl)
    | (intro x; refine keep_cut_snd (qs := qs) x ?_ ?_; rotate_left; intro _; clear_value x; rotate_left; unfold x)
    | (intro x; clear_value x)
    | (with_reducible apply hfun)
    | (intro _)
    | split
    | (with_reducible apply AnswerKeeps.next)
    | (simp only [keep_mk, List.length_modify, List.length_map, List.length_replicate, List.length_zip, List.length_range, List.length_mapIdx, Nat.min_self])
    | (with_reducible apply Keep.toV)
    | (with_reducible apply keepV_roods)
    | (with_reducible apply keep_getD)
    | (with_reducible refine keepV_mem_nil hs ?_ ?_ ?_ ?_ ?_ ?_ ?_ ?_)
    | (rename_i he; split at he)
    | (rename_i he; injection he with he; subst he)

theorem clearRemedies_keeps {qs : List Instr} (s : State) (hs : Keep qs s) : Keep qs (clearRemedies s) := by
  delta clearRemedies
  repeat' first
    | (with_reducible assumption)
    | (with_reducible apply modBoot_keeps)
    | (with_reducible apply ctlDone_keeps)
    | split

theorem retrySafe_keeps {qs : List Instr} (w : BootWorld) (s : State) (hs : Keep qs s) : Keep qs (retrySafe w s) := by
  delta retrySafe
  repeat' first
    | (with_reducible assumption)
    | (with_reducible apply startModule_keeps)
    | (with_reducible apply ctlDone_keeps)
    | split

theorem imgDone_keeps {qs : List Instr} (cmd st : Nat) (s : State) (hs : Keep qs s) : Keep qs (imgDone cmd st s) := by
  delta imgDone
  repeat' first
    | (with_reducible assumption)
    | (with_reducible apply modBoot_keeps)

theorem writePage_keeps {qs : List Instr} (page : Nat) (s : State) (hs : Keep qs s) : Keep qs (writePage page s) := by
  delta writePage
  repeat' first
    | (with_reducible assumption)
    | (with_reducible apply modBoot_keeps)
    | (with_reducible apply norWr_keeps)
    | (with_reducible apply imgDone_keeps)
    | lift_lets
    | (intro x; refine keep_cut (qs := qs) x ?_ ?_; rotate_left; intro _; clear_value x; rotate_left; unfold x)
    | (intro x; clear_value x)
    | split

theorem commitImage_keeps {qs : List Instr} (a b : SlotView) (s : State) (hs : Keep qs s) : Keep qs (commitImage a b s) := by
  delta commitImage
  repeat' first
    | (with_reducible assumption)
    | (with_reducible apply modBoot_keeps)
    | (with_reducible apply commitHeader_keeps)
    | (with_reducible apply noteSlot_keeps)
    | (with_reducible apply imgDone_keeps)
    | lift_lets
    | (intro x; refine keep_cut (qs := qs) x ?_ ?_; rotate_left; intro _; clear_value x; rotate_left; unfold x)
    | (intro x; clear_value x)
    | split

theorem execPowerOn_keeps {qs : List Instr} (w : BootWorld) (s : State) (hs : Keep qs s) : AnswerKeeps qs (execPowerOn w s) := by
  delta execPowerOn
  repeat' first
    | (with_reducible assumption)
    | (with_reducible apply modPins_keeps)
    | (with_reducible apply startModule_keeps)
    | split
    | (with_reducible apply AnswerKeeps.next)

theorem execStepRetry_keeps {qs : List Instr} (w : BootWorld) (s : State) (hs : Keep qs s) : AnswerKeeps qs (execStepRetry w s) := by
  delta execStepRetry
  repeat' first
    | (with_reducible assumption)
    | (with_reducible apply startModule_keeps)
    | split
    | (with_reducible apply AnswerKeeps.next)

theorem execPinReset_keeps {qs : List Instr} (s : State) (hs : Keep qs s) : AnswerKeeps qs (execPinReset s) := by
  delta execPinReset
  repeat' first
    | (with_reducible assumption)
    | (with_reducible apply modPins_keeps)
    | (with_reducible apply goDown_keeps)
    | (with_reducible apply AnswerKeeps.next)

theorem execSysResetNRelease_keeps {qs : List Instr} (w : BootWorld) (s : State) (hs : Keep qs s) : AnswerKeeps qs (execSysResetNRelease w s) := by
  delta execSysResetNRelease
  repeat' first
    | (with_reducible assumption)
    | (with_reducible apply modPins_keeps)
    | (with_reducible apply startModule_keeps)
    | lift_lets
    | (intro x; refine keep_cut (qs := qs) x ?_ ?_; rotate_left; intro _; clear_value x; rotate_left; unfold x)
    | split
    | (with_reducible apply AnswerKeeps.next)

theorem execResetPinGlitch_keeps {qs : List Instr} (low : Nat) (s : State) (hs : Keep qs s) : AnswerKeeps qs (execResetPinGlitch low s) := by
  delta execResetPinGlitch
  repeat' first
    | (with_reducible assumption)
    | (with_reducible apply logBoot_keeps)
    | split
    | (with_reducible apply AnswerKeeps.next)

theorem execWatchdogReset_keeps {qs : List Instr} (w : BootWorld) (s : State) (hs : Keep qs s) : AnswerKeeps qs (execWatchdogReset w s) := by
  delta execWatchdogReset
  repeat' first
    | (with_reducible assumption)
    | (with_reducible apply startModule_keeps)
    | split
    | (with_reducible apply AnswerKeeps.next)

theorem execThermalShutdown_keeps {qs : List Instr} (_u : ThermalUnit) (w : BootWorld) (s : State) (hs : Keep qs s) : AnswerKeeps qs (execThermalShutdown _u w s) := by
  delta execThermalShutdown
  repeat' first
    | (with_reducible assumption)
    | (with_reducible apply startModule_keeps)
    | (with_reducible apply goDown_keeps)
    | split
    | (with_reducible apply AnswerKeeps.next)

theorem execUndervoltage_keeps {qs : List Instr} (s : State) (hs : Keep qs s) : AnswerKeeps qs (execUndervoltage s) := by
  delta execUndervoltage
  repeat' first
    | (with_reducible assumption)
    | (with_reducible apply modPins_keeps)
    | (with_reducible apply goDown_keeps)
    | (with_reducible apply AnswerKeeps.next)

theorem execOvervoltageDisconnect_keeps {qs : List Instr} (s : State) (hs : Keep qs s) : AnswerKeeps qs (execOvervoltageDisconnect s) := by
  delta execOvervoltageDisconnect
  repeat' first
    | (with_reducible assumption)
    | (with_reducible apply modPins_keeps)
    | (with_reducible apply loseStandby_keeps)
    | (with_reducible apply AnswerKeeps.next)

theorem execStandbyLost_keeps {qs : List Instr} (s : State) (hs : Keep qs s) : AnswerKeeps qs (execStandbyLost s) := by
  delta execStandbyLost
  repeat' first
    | (with_reducible assumption)
    | (with_reducible apply loseStandby_keeps)
    | (with_reducible apply AnswerKeeps.next)

theorem execModule_keeps {qs : List Instr} (w : BootWorld) (s : State) (hs : Keep qs s) : AnswerKeeps qs (execModule w s) := by
  delta execModule
  repeat' first
    | (with_reducible assumption)
    | (with_reducible apply resetCommand_keeps)
    | (with_reducible apply AnswerKeeps.next)

theorem execCold_keeps {qs : List Instr} (w : BootWorld) (s : State) (hs : Keep qs s) : AnswerKeeps qs (execCold w s) := by
  delta execCold
  repeat' first
    | (with_reducible assumption)
    | (with_reducible apply resetCommand_keeps)
    | (with_reducible apply AnswerKeeps.next)

theorem execClearRemedies_keeps {qs : List Instr} (s : State) (hs : Keep qs s) : AnswerKeeps qs (execClearRemedies s) := by
  delta execClearRemedies
  repeat' first
    | (with_reducible assumption)
    | (with_reducible apply clearRemedies_keeps)
    | (with_reducible apply AnswerKeeps.next)

theorem execRetrySafe_keeps {qs : List Instr} (w : BootWorld) (s : State) (hs : Keep qs s) : AnswerKeeps qs (execRetrySafe w s) := by
  delta execRetrySafe
  repeat' first
    | (with_reducible assumption)
    | (with_reducible apply retrySafe_keeps)
    | (with_reducible apply AnswerKeeps.next)

theorem execWritePage_keeps {qs : List Instr} (page : Nat) (s : State) (hs : Keep qs s) : AnswerKeeps qs (execWritePage page s) := by
  delta execWritePage
  repeat' first
    | (with_reducible assumption)
    | (with_reducible apply writePage_keeps)
    | (with_reducible apply AnswerKeeps.next)

theorem execCommit_keeps {qs : List Instr} (a b : SlotView) (s : State) (hs : Keep qs s) : AnswerKeeps qs (execCommit a b s) := by
  delta execCommit
  repeat' first
    | (with_reducible assumption)
    | (with_reducible apply commitImage_keeps)
    | (with_reducible apply AnswerKeeps.next)

theorem execBootLedgerSel_keeps {qs : List Instr} (v : Word) (s : State) (hs : Keep qs s) : AnswerKeeps qs (execBootLedgerSel v s) := by
  delta execBootLedgerSel
  repeat' first
    | (with_reducible assumption)
    | (with_reducible apply selectLedger_keeps)
    | (with_reducible apply AnswerKeeps.next)

end Sys2Proof.Laws
end

