-- ==== Sys2Proof/Laws/KeepRegs.lean ====
section
/-! SUPPORT. What every operation of Machine/Regs.lean keeps: the waiting commands, the clock grid, the canonical form of the memories and
the bound of the event ring (Laws/Keep.lean). -/
namespace Sys2Proof.Laws

set_option linter.unusedSimpArgs false

open Sys2Proof.Machine Sys2Proof.Safety

theorem regUnmapped_keeps {qs : List Instr} (blk a kind : Nat) (s : State) (hs : Keep qs s) : Keep qs (regUnmapped blk a kind s) := by
  delta regUnmapped
  repeat' first
    | (with_reducible assumption)
    | (with_reducible apply logEv_keeps)
    | (with_reducible apply raiseGlb_keeps)

theorem lockedWrite_keeps {qs : List Instr} (blk a : Nat) (s : State) (hs : Keep qs s) : Keep qs (lockedWrite blk a s) := by
  delta lockedWrite
  repeat' first
    | (with_reducible assumption)
    | (with_reducible apply logEv_keeps)
    | (with_reducible apply raiseGlb_keeps)

theorem readReg_keeps {qs : List Instr} (a : Nat) (s : State) (hs : Keep qs s) : Keep qs (readReg a s).2 := by
  delta readReg
  repeat' first
    | (with_reducible assumption)
    | (with_reducible apply readNonce_keeps)
    | (with_reducible apply regUnmapped_keeps)
    | split

theorem readReg_keeps_eq {qs : List Instr} (a : Nat) (s : State) {tOut : State} {outv : _} (hs : Keep qs s) (e : readReg a s = (outv, tOut)) : Keep qs tOut := by
  have := readReg_keeps (qs := qs) a s hs
  rw [e] at this; exact this

theorem clearBits_keeps {qs : List Instr} (b : Block) (v : Word) (s : State) (hs : Keep qs s) : Keep qs (clearBits b v s) := by
  delta clearBits
  repeat' first
    | (with_reducible assumption)
    | (with_reducible rfl)
    | (with_reducible apply modRood_keeps)
    | (with_reducible apply modCluster_keeps)
    | (with_reducible apply modStack_keeps)
    | (with_reducible apply modLink_keeps)
    | (with_reducible apply modGlb_keeps)
    | (with_reducible apply modFwc_keeps)
    | (with_reducible apply modSec_keeps)
    | (with_reducible apply modEth_keeps)
    | (with_reducible apply modFab_keeps)
    | (with_reducible apply modFlash_keeps)
    | (with_reducible apply modStreams_keeps)
    | (with_reducible refine fun _ => ?_)
    | lift_lets
    | (intro x; refine keep_cut (qs := qs) x ?_ ?_; rotate_left; intro _; clear_value x; rotate_left; unfold x)
    | (intro x; refine keep_cut_ss (qs := qs) x ?_ ?_; rotate_left; intro hfun; clear_value x; rotate_left; unfold x)
    | (intro x; refine keep_cut_ass (qs := qs) x ?_ ?_; rotate_left; intro hfun; clear_value x; rotate_left; unfold x)
    | (intro x; refine keep_cut_abss (qs := qs) x ?_ ?_; rotate_left; intro hfun; clear_value x; rotate_left; unfold x)
    | (intro x; refine keep_cut_a (qs := qs) x ?_ ?_; rotate_left; intro hfun; clear_value x; rotate_left; unfold x)
    | (intro x; refine keep_cut_ab (qs := qs) x ?_ ?_; rotate_left; intro hfun; clear_value x; rotate_left; unfold x)
    | (intro x; refine keep_cut_abc (qs := qs) x ?_ ?_; rotate_left; intro hfun; clear_value x; rotate_left; unfold x)
    | (intro x; refine keep_cut_o1 (qs := qs) x ?_ ?_; rotate_left; intro hopt; clear_value x; rotate_left; unfold x)
    | (intro x; refine keep_cut_o (qs := qs) x ?_ ?_; rotate_left; intro hopt; clear_value x; rotate_left; unfold x)
    | (with_reducible refine hopt _ (by assumption))
    | (with_reducible exact hopt _ rfl)
    | (intro x; refine keep_cut_snd (qs := qs) x ?_ ?_; rotate_left; intro _; clear_value x; rotate_left; unfold x)
    | (intro x; clear_value x)
    | (with_reducible apply hfun)
    | (intro _)
    | split
    | (with_reducible apply AnswerKeeps.next)
    | (simp only [keep_mk, List.length_modify, List.length_map, List.length_replicate, List.length_zip, List.length_range, List.length_mapIdx, Nat.min_self])
    | (with_reducible apply Keep.toV)
    | (with_reducible apply keepV_roods)
    | (with_reducible apply keep_getD)
    | (with_reducible refine keepV_mem_nil hs ?_ ?_ ?_ ?_ ?_ ?_ ?_ ?_)
    | (rename_i he; split at he)
    | (rename_i he; injection he with he; subst he)

theorem setLocked_keeps {qs : List Instr} (b : Block) (off v : Nat) (s : State) (hs : Keep qs s) : Keep qs (setLocked b off v s) := by
  delta setLocked
  repeat' first
    | (with_reducible assumption)
    | (with_reducible rfl)
    | (with_reducible apply modCluster_keeps)
    | (with_reducible apply modStack_keeps)
    | (with_reducible apply modEth_keeps)
    | (with_reducible apply modFab_keeps)
    | (with_reducible apply modFlash_keeps)
    | (with_reducible apply modStreams_keeps)
    | (with_reducible refine fun _ => ?_)
    | lift_lets
    | (intro x; refine keep_cut (qs := qs) x ?_ ?_; rotate_left; intro _; clear_value x; rotate_left; unfold x)
    | (intro x; refine keep_cut_ss (qs := qs) x ?_ ?_; rotate_left; intro hfun; clear_value x; rotate_left; unfold x)
    | (intro x; refine keep_cut_ass (qs := qs) x ?_ ?_; rotate_left; intro hfun; clear_value x; rotate_left; unfold x)
    | (intro x; refine keep_cut_abss (qs := qs) x ?_ ?_; rotate_left; intro hfun; clear_value x; rotate_left; unfold x)
    | (intro x; refine keep_cut_a (qs := qs) x ?_ ?_; rotate_left; intro hfun; clear_value x; rotate_left; unfold x)
    | (intro x; refine keep_cut_ab (qs := qs) x ?_ ?_; rotate_left; intro hfun; clear_value x; rotate_left; unfold x)
    | (intro x; refine keep_cut_abc (qs := qs) x ?_ ?_; rotate_left; intro hfun; clear_value x; rotate_left; unfold x)
    | (intro x; refine keep_cut_o1 (qs := qs) x ?_ ?_; rotate_left; intro hopt; clear_value x; rotate_left; unfold x)
    | (intro x; refine keep_cut_o (qs := qs) x ?_ ?_; rotate_left; intro hopt; clear_value x; rotate_left; unfold x)
    | (with_reducible refine hopt _ (by assumption))
    | (with_reducible exact hopt _ rfl)
    | (intro x; refine keep_cut_snd (qs := qs) x ?_ ?_; rotate_left; intro _; clear_value x; rotate_left; unfold x)
    | (intro x; clear_value x)
    | (with_reducible apply hfun)
    | (intro _)
    | split
    | (with_reducible apply AnswerKeeps.next)
    | (simp only [keep_mk, List.length_modify, List.length_map, List.length_replicate, List.length_zip, List.length_range, List.length_mapIdx, Nat.min_self])
    | (with_reducible apply Keep.toV)
    | (with_reducible apply keepV_roods)
    | (with_reducible apply keep_getD)
    | (with_reducible refine keepV_mem_nil hs ?_ ?_ ?_ ?_ ?_ ?_ ?_ ?_)
    | (rename_i he; split at he)
    | (rename_i he; injection he with he; subst he)

theorem setPlain_keeps {qs : List Instr} (b : Block) (off : Nat) (v : Word) (s : State) (hs : Keep qs s) : Keep qs (setPlain b off v s) := by
  delta setPlain
  repeat' first
    | (with_reducible assumption)
    | (with_reducible rfl)
    | (with_reducible apply modGlb_keeps)
    | (with_reducible apply modStreams_keeps)
    | (with_reducible refine fun _ => ?_)
    | lift_lets
    | (intro x; refine keep_cut (qs := qs) x ?_ ?_; rotate_left; intro _; clear_value x; rotate_left; unfold x)
    | (intro x; refine keep_cut_ss (qs := qs) x ?_ ?_; rotate_left; intro hfun; clear_value x; rotate_left; unfold x)
    | (intro x; refine keep_cut_ass (qs := qs) x ?_ ?_; rotate_left; intro hfun; clear_value x; rotate_left; unfold x)
    | (intro x; refine keep_cut_abss (qs := qs) x ?_ ?_; rotate_left; intro hfun; clear_value x; rotate_left; unfold x)
    | (intro x; refine keep_cut_a (qs := qs) x ?_ ?_; rotate_left; intro hfun; clear_value x; rotate_left; unfold x)
    | (intro x; refine keep_cut_ab (qs := qs) x ?_ ?_; rotate_left; intro hfun; clear_value x; rotate_left; unfold x)
    | (intro x; refine keep_cut_abc (qs := qs) x ?_ ?_; rotate_left; intro hfun; clear_value x; rotate_left; unfold x)
    | (intro x; refine keep_cut_o1 (qs := qs) x ?_ ?_; rotate_left; intro hopt; clear_value x; rotate_left; unfold x)
    | (intro x; refine keep_cut_o (qs := qs) x ?_ ?_; rotate_left; intro hopt; clear_value x; rotate_left; unfold x)
    | (with_reducible refine hopt _ (by assumption))
    | (with_reducible exact hopt _ rfl)
    | (intro x; refine keep_cut_snd (qs := qs) x ?_ ?_; rotate_left; intro _; clear_value x; rotate_left; unfold x)
    | (intro x; clear_value x)
    | (with_reducible apply hfun)
    | (intro _)
    | split
    | (with_reducible apply AnswerKeeps.next)
    | (simp only [keep_mk, List.length_modify, List.length_map, List.length_replicate, List.length_zip, List.length_range, List.length_mapIdx, Nat.min_self])
    | (with_reducible apply Keep.toV)
    | (with_reducible apply keepV_roods)
    | (with_reducible apply keep_getD)
    | (with_reducible refine keepV_mem_nil hs ?_ ?_ ?_ ?_ ?_ ?_ ?_ ?_)
    | (rename_i he; split at he)
    | (rename_i he; injection he with he; subst he)

theorem writeRood_keeps {qs : List Instr} (r off : Nat) (v : Word) (s : State) (hs : Keep qs s) : Keep qs (writeRood r off v s) := by
  delta writeRood
  repeat' first
    | (with_reducible assumption)
    | (with_reducible apply modRood_keeps)
    | (with_reducible apply planArm_keeps)
    | (with_reducible apply createRood_keeps)
    | (with_reducible apply resizeArm_keeps)
    | (with_reducible apply resetRood_keeps)
    | (with_reducible apply removeRood_keeps)
    | (with_reducible apply tblDone_keeps)
    | (with_reducible apply tableRead_keeps)
    | (with_reducible apply tableWrite_keeps)
    | (with_reducible apply tableDelete_keeps)
    | lift_lets
    | (intro x; clear_value x)
    | split

theorem writeSec_keeps {qs : List Instr} (off : Nat) (v : Word) (s : State) (hs : Keep qs s) : Keep qs (writeSec off v s) := by
  delta writeSec
  repeat' first
    | (with_reducible assumption)
    | (with_reducible rfl)
    | (with_reducible apply modSec_keeps)
    | (with_reducible apply requestReport_keeps)
    | (with_reducible apply selectPiece_keeps)
    | (with_reducible apply enterD1_keeps)
    | (with_reducible apply presentGrant_keeps)
    | (with_reducible apply leaveGrant_keeps)
    | (with_reducible apply toS1_keeps)
    | (with_reducible apply toS2_keeps)
    | (with_reducible apply toS3_keeps)
    | (with_reducible refine fun _ => ?_)
    | lift_lets
    | (intro x; refine keep_cut (qs := qs) x ?_ ?_; rotate_left; intro _; clear_value x; rotate_left; unfold x)
    | (intro x; refine keep_cut_ss (qs := qs) x ?_ ?_; rotate_left; intro hfun; clear_value x; rotate_left; unfold x)
    | (intro x; refine keep_cut_ass (qs := qs) x ?_ ?_; rotate_left; intro hfun; clear_value x; rotate_left; unfold x)
    | (intro x; refine keep_cut_abss (qs := qs) x ?_ ?_; rotate_left; intro hfun; clear_value x; rotate_left; unfold x)
    | (intro x; refine keep_cut_a (qs := qs) x ?_ ?_; rotate_left; intro hfun; clear_value x; rotate_left; unfold x)
    | (intro x; refine keep_cut_ab (qs := qs) x ?_ ?_; rotate_left; intro hfun; clear_value x; rotate_left; unfold x)
    | (intro x; refine keep_cut_abc (qs := qs) x ?_ ?_; rotate_left; intro hfun; clear_value x; rotate_left; unfold x)
    | (intro x; refine keep_cut_o1 (qs := qs) x ?_ ?_; rotate_left; intro hopt; clear_value x; rotate_left; unfold x)
    | (intro x; refine keep_cut_o (qs := qs) x ?_ ?_; rotate_left; intro hopt; clear_value x; rotate_left; unfold x)
    | (with_reducible refine hopt _ (by assumption))
    | (with_reducible exact hopt _ rfl)
    | (intro x; refine keep_cut_snd (qs := qs) x ?_ ?_; rotate_left; intro _; clear_value x; rotate_left; unfold x)
    | (intro x; clear_value x)
    | (with_reducible apply hfun)
    | (intro _)
    | split
    | (with_reducible apply AnswerKeeps.next)
    | (simp only [keep_mk, List.length_modify, List.length_map, List.length_replicate, List.length_zip, List.length_range, List.length_mapIdx, Nat.min_self])
    | (with_reducible apply Keep.toV)
    | (with_reducible apply keepV_roods)
    | (with_reducible apply keep_getD)
    | (with_reducible refine keepV_mem_nil hs ?_ ?_ ?_ ?_ ?_ ?_ ?_ ?_)
    | (rename_i he; split at he)
    | (rename_i he; injection he with he; subst he)

theorem writePstate_keeps {qs : List Instr} (n : Nat) (s : State) (hs : Keep qs s) : Keep qs (writePstate n s) := by
  delta writePstate
  repeat' first
    | (with_reducible assumption)
    | (with_reducible rfl)
    | (with_reducible apply modFwc_keeps)
    | (with_reducible apply holdReq_keeps)
    | (with_reducible apply requestP4_keeps)
    | (with_reducible apply requestP0_keeps)
    | (with_reducible refine fun _ => ?_)
    | lift_lets
    | (intro x; refine keep_cut (qs := qs) x ?_ ?_; rotate_left; intro _; clear_value x; rotate_left; unfold x)
    | (intro x; refine keep_cut_ss (qs := qs) x ?_ ?_; rotate_left; intro hfun; clear_value x; rotate_left; unfold x)
    | (intro x; refine keep_cut_ass (qs := qs) x ?_ ?_; rotate_left; intro hfun; clear_value x; rotate_left; unfold x)
    | (intro x; refine keep_cut_abss (qs := qs) x ?_ ?_; rotate_left; intro hfun; clear_value x; rotate_left; unfold x)
    | (intro x; refine keep_cut_a (qs := qs) x ?_ ?_; rotate_left; intro hfun; clear_value x; rotate_left; unfold x)
    | (intro x; refine keep_cut_ab (qs := qs) x ?_ ?_; rotate_left; intro hfun; clear_value x; rotate_left; unfold x)
    | (intro x; refine keep_cut_abc (qs := qs) x ?_ ?_; rotate_left; intro hfun; clear_value x; rotate_left; unfold x)
    | (intro x; refine keep_cut_o1 (qs := qs) x ?_ ?_; rotate_left; intro hopt; clear_value x; rotate_left; unfold x)
    | (intro x; refine keep_cut_o (qs := qs) x ?_ ?_; rotate_left; intro hopt; clear_value x; rotate_left; unfold x)
    | (with_reducible refine hopt _ (by assumption))
    | (with_reducible exact hopt _ rfl)
    | (intro x; refine keep_cut_snd (qs := qs) x ?_ ?_; rotate_left; intro _; clear_value x; rotate_left; unfold x)
    | (intro x; clear_value x)
    | (with_reducible apply hfun)
    | (intro _)
    | split
    | (with_reducible apply AnswerKeeps.next)
    | (simp only [keep_mk, List.length_modify, List.length_map, List.length_replicate, List.length_zip, List.length_range, List.length_mapIdx, Nat.min_self])
    | (with_reducible apply Keep.toV)
    | (with_reducible apply keepV_roods)
    | (with_reducible apply keep_getD)
    | (with_reducible refine keepV_mem_nil hs ?_ ?_ ?_ ?_ ?_ ?_ ?_ ?_)
    | (rename_i he; split at he)
    | (rename_i he; injection he with he; subst he)

theorem writeUpdate_keeps {qs : List Instr} (n : Nat) (s : State) (hs : Keep qs s) : Keep qs (writeUpdate n s) := by
  delta writeUpdate
  repeat' first
    | (with_reducible assumption)
    | (with_reducible apply modFwc_keeps)
    | (with_reducible apply refuseActivate_keeps)
    | (with_reducible apply cancelUpdate_keeps)
    | lift_lets
    | (intro x; refine keep_cut (qs := qs) x ?_ ?_; rotate_left; intro _; clear_value x; rotate_left; unfold x)
    | split

theorem writeBootCtl_keeps {qs : List Instr} (n : Nat) (s : State) (hs : Keep qs s) : Keep qs (writeBootCtl n s) := by
  delta writeBootCtl
  repeat' first
    | (with_reducible assumption)
    | (with_reducible apply modBoot_keeps)
    | (with_reducible apply ctlDone_keeps)
    | (with_reducible apply clearRemedies_keeps)
    | lift_lets
    | (intro x; clear_value x)
    | split

theorem writeBoot_keeps {qs : List Instr} (off : Nat) (v : Word) (s : State) (hs : Keep qs s) : Keep qs (writeBoot off v s) := by
  delta writeBoot
  repeat' first
    | (with_reducible assumption)
    | (with_reducible apply modBoot_keeps)
    | (with_reducible apply selectLedger_keeps)
    | (with_reducible apply imgDone_keeps)
    | (with_reducible apply writePage_keeps)
    | (with_reducible apply writeBootCtl_keeps)
    | lift_lets
    | (intro x; refine keep_cut (qs := qs) x ?_ ?_; rotate_left; intro _; clear_value x; rotate_left; unfold x)
    | (intro x; clear_value x)
    | split

theorem writeFirmware_keeps {qs : List Instr} (b : Block) (off : Nat) (v : Word) (s : State) (hs : Keep qs s) : Keep qs (writeFirmware b off v s) := by
  delta writeFirmware
  repeat' first
    | (with_reducible assumption)
    | (with_reducible apply modEth_keeps)
    | (with_reducible apply writeCap_keeps)
    | (with_reducible apply writeRood_keeps)
    | (with_reducible apply writeSec_keeps)
    | (with_reducible apply writePstate_keeps)
    | (with_reducible apply writeUpdate_keeps)
    | (with_reducible apply writeBoot_keeps)
    | lift_lets
    | split

theorem writeRegCore_keeps {qs : List Instr} (a : Nat) (v : Word) (s : State) (hs : Keep qs s) : Keep qs (writeRegCore a v s) := by
  delta writeRegCore
  repeat' first
    | (with_reducible assumption)
    | (with_reducible apply regUnmapped_keeps)
    | (with_reducible apply lockedWrite_keeps)
    | (with_reducible apply clearBits_keeps)
    | (with_reducible apply setLocked_keeps)
    | (with_reducible apply setPlain_keeps)
    | (with_reducible apply writeFirmware_keeps)
    | split

theorem dbgDone_keeps {qs : List Instr} (cmd st : Nat) (s : State) (hs : Keep qs s) : Keep qs (dbgDone cmd st s) := by
  delta dbgDone
  repeat' first
    | (with_reducible assumption)
    | (with_reducible apply modSec_keeps)
    | (with_reducible apply raiseSec_keeps)
    | lift_lets
    | (intro x; refine keep_cut (qs := qs) x ?_ ?_; rotate_left; intro _; clear_value x; rotate_left; unfold x)
    | split

theorem dbgAccepted_keeps {qs : List Instr} (cmd : Nat) (s : State) (hs : Keep qs s) : Keep qs (dbgAccepted cmd s) := by
  delta dbgAccepted
  repeat' first
    | (with_reducible assumption)
    | (with_reducible apply logSec_keeps)
    | (with_reducible apply changePstate_keeps)
    | lift_lets
    | (intro x; refine keep_cut (qs := qs) x ?_ ?_; rotate_left; intro _; clear_value x; rotate_left; unfold x)
    | split

theorem dbgRefused_keeps {qs : List Instr} (cmd st : Nat) (s : State) (hs : Keep qs s) : Keep qs (dbgRefused cmd st s) := by
  delta dbgRefused
  repeat' first
    | (with_reducible assumption)
    | (with_reducible apply logUnmapped_keeps)
    | (with_reducible apply dbgDone_keeps)
    | lift_lets
    | split

theorem debugRead_keeps {qs : List Instr} (s : State) (hs : Keep qs s) : Keep qs (debugRead s) := by
  delta debugRead
  repeat' first
    | (with_reducible assumption)
    | (with_reducible apply modSec_keeps)
    | (with_reducible apply readReg_keeps)
    | (with_reducible apply dbgDone_keeps)
    | (with_reducible apply dbgAccepted_keeps)
    | (with_reducible apply dbgRefused_keeps)
    | (with_reducible apply foldl_snd_keeps)
    | (with_reducible refine fun _ => ?_)
    | lift_lets
    | (intro x; refine keep_cut (qs := qs) x ?_ ?_; rotate_left; intro _; clear_value x; rotate_left; unfold x)
    | (intro x; clear_value x)
    | split

theorem debugWrite_keeps {qs : List Instr} (s : State) (hs : Keep qs s) : Keep qs (debugWrite s) := by
  delta debugWrite
  repeat' first
    | (with_reducible assumption)
    | (with_reducible rfl)
    | (with_reducible apply forAll_keeps)
    | (with_reducible apply wrBytes_keeps)
    | (with_reducible apply logRefused_keeps)
    | (with_reducible apply writeRegCore_keeps)
    | (with_reducible apply dbgDone_keeps)
    | (with_reducible apply dbgAccepted_keeps)
    | (with_reducible apply dbgRefused_keeps)
    | (with_reducible refine fun _ => ?_)
    | lift_lets
    | (intro x; refine keep_cut (qs := qs) x ?_ ?_; rotate_left; intro _; clear_value x; rotate_left; unfold x)
    | (intro x; refine keep_cut_ss (qs := qs) x ?_ ?_; rotate_left; intro hfun; clear_value x; rotate_left; unfold x)
    | (intro x; refine keep_cut_ass (qs := qs) x ?_ ?_; rotate_left; intro hfun; clear_value x; rotate_left; unfold x)
    | (intro x; refine keep_cut_abss (qs := qs) x ?_ ?_; rotate_left; intro hfun; clear_value x; rotate_left; unfold x)
    | (intro x; refine keep_cut_a (qs := qs) x ?_ ?_; rotate_left; intro hfun; clear_value x; rotate_left; unfold x)
    | (intro x; refine keep_cut_ab (qs := qs) x ?_ ?_; rotate_left; intro hfun; clear_value x; rotate_left; unfold x)
    | (intro x; refine keep_cut_abc (qs := qs) x ?_ ?_; rotate_left; intro hfun; clear_value x; rotate_left; unfold x)
    | (intro x; refine keep_cut_o1 (qs := qs) x ?_ ?_; rotate_left; intro hopt; clear_value x; rotate_left; unfold x)
    | (intro x; refine keep_cut_o (qs := qs) x ?_ ?_; rotate_left; intro hopt; clear_value x; rotate_left; unfold x)
    | (with_reducible refine hopt _ (by assumption))
    | (with_reducible exact hopt _ rfl)
    | (intro x; refine keep_cut_snd (qs := qs) x ?_ ?_; rotate_left; intro _; clear_value x; rotate_left; unfold x)
    | (intro x; clear_value x)
    | (with_reducible apply hfun)
    | (intro _)
    | split
    | (with_reducible apply AnswerKeeps.next)
    | (simp only [keep_mk, List.length_modify, List.length_map, List.length_replicate, List.length_zip, List.length_range, List.length_mapIdx, Nat.min_self])
    | (with_reducible apply Keep.toV)
    | (with_reducible apply keepV_roods)
    | (with_reducible apply keep_getD)
    | (with_reducible refine keepV_mem_nil hs ?_ ?_ ?_ ?_ ?_ ?_ ?_ ?_)
    | (rename_i he; split at he)
    | (rename_i he; injection he with he; subst he)

theorem retireTi_keeps {qs : List Instr} (c n : Nat) (unused : Bool) (t : Answer) (s : State) (ht : AnswerKeeps qs t) (hs : Keep qs s) :
    Keep qs (retireTi c n unused t s) := by
  delta retireTi
  split
  · exact doneOr_keeps s t hs ht
  · exact trapCore_keeps _ _ _ _ _ s hs

theorem tiStep_keeps {qs : List Instr} (c n w : Nat) (s : State) (hs : Keep qs s) : Keep qs (tiStep c n w s) := by
  delta tiStep
  repeat' first
    | (with_reducible assumption)
    | (with_reducible rfl)
    | (with_reducible apply trapCore_keeps)
    | (with_reducible apply execTiIssue_keeps)
    | (with_reducible apply execTiWait_keeps)
    | (with_reducible apply execTiPoll_keeps)
    | (with_reducible apply execTiFence_keeps)
    | (with_reducible apply execTiScw_keeps)
    | (with_reducible apply execTiScr_keeps)
    | (with_reducible apply execTiSumrd_keeps)
    | (with_reducible apply execTiSumst_keeps)
    | (with_reducible apply execTiSumwait_keeps)
    | (with_reducible apply execTiRod_keeps)
    | (with_reducible apply execTiRodwait_keeps)
    | (with_reducible apply execTiSyncrd_keeps)
    | (with_reducible apply execTiSyncadd_keeps)
    | (with_reducible apply execTiSyncset_keeps)
    | (with_reducible apply execTiExit_keeps)
    | (with_reducible apply retireTi_keeps)
    | (with_reducible refine fun _ => ?_)
    | lift_lets
    | (intro x; refine keep_cut (qs := qs) x ?_ ?_; rotate_left; intro _; clear_value x; rotate_left; unfold x)
    | (intro x; refine keep_cut_ss (qs := qs) x ?_ ?_; rotate_left; intro hfun; clear_value x; rotate_left; unfold x)
    | (intro x; refine keep_cut_ass (qs := qs) x ?_ ?_; rotate_left; intro hfun; clear_value x; rotate_left; unfold x)
    | (intro x; refine keep_cut_abss (qs := qs) x ?_ ?_; rotate_left; intro hfun; clear_value x; rotate_left; unfold x)
    | (intro x; refine keep_cut_a (qs := qs) x ?_ ?_; rotate_left; intro hfun; clear_value x; rotate_left; unfold x)
    | (intro x; refine keep_cut_ab (qs := qs) x ?_ ?_; rotate_left; intro hfun; clear_value x; rotate_left; unfold x)
    | (intro x; refine keep_cut_abc (qs := qs) x ?_ ?_; rotate_left; intro hfun; clear_value x; rotate_left; unfold x)
    | (intro x; refine keep_cut_o1 (qs := qs) x ?_ ?_; rotate_left; intro hopt; clear_value x; rotate_left; unfold x)
    | (intro x; refine keep_cut_o (qs := qs) x ?_ ?_; rotate_left; intro hopt; clear_value x; rotate_left; unfold x)
    | (with_reducible refine hopt _ (by assumption))
    | (with_reducible exact hopt _ rfl)
    | (intro x; refine keep_cut_snd (qs := qs) x ?_ ?_; rotate_left; intro _; clear_value x; rotate_left; unfold x)
    | (intro x; clear_value x)
    | (with_reducible apply hfun)
    | (intro _)
    | split
    | (with_reducible apply AnswerKeeps.next)
    | (simp only [keep_mk, List.length_modify, List.length_map, List.length_replicate, List.length_zip, List.length_range, List.length_mapIdx, Nat.min_self])
    | (with_reducible apply Keep.toV)
    | (with_reducible apply keepV_roods)
    | (with_reducible apply keep_getD)
    | (with_reducible refine keepV_mem_nil hs ?_ ?_ ?_ ?_ ?_ ?_ ?_ ?_)
    | (rename_i he; split at he)
    | (rename_i he; injection he with he; subst he)

theorem coreSteps_keeps {qs : List Instr} (c n : Nat) (s : State) (hs : Keep qs s) : Keep qs (coreSteps c n s) := by
  delta coreSteps
  repeat' first
    | (with_reducible assumption)
    | (with_reducible rfl)
    | (with_reducible apply modCore_keeps)
    | (with_reducible apply trapCore_keeps)
    | (with_reducible apply freeStep_keeps)
    | (with_reducible apply rvStep_keeps)
    | (with_reducible apply tiStep_keeps)
    | (with_reducible refine fun _ => ?_)
    | lift_lets
    | (intro x; refine keep_cut (qs := qs) x ?_ ?_; rotate_left; intro _; clear_value x; rotate_left; unfold x)
    | (intro x; refine keep_cut_ss (qs := qs) x ?_ ?_; rotate_left; intro hfun; clear_value x; rotate_left; unfold x)
    | (intro x; refine keep_cut_ass (qs := qs) x ?_ ?_; rotate_left; intro hfun; clear_value x; rotate_left; unfold x)
    | (intro x; refine keep_cut_abss (qs := qs) x ?_ ?_; rotate_left; intro hfun; clear_value x; rotate_left; unfold x)
    | (intro x; refine keep_cut_a (qs := qs) x ?_ ?_; rotate_left; intro hfun; clear_value x; rotate_left; unfold x)
    | (intro x; refine keep_cut_ab (qs := qs) x ?_ ?_; rotate_left; intro hfun; clear_value x; rotate_left; unfold x)
    | (intro x; refine keep_cut_abc (qs := qs) x ?_ ?_; rotate_left; intro hfun; clear_value x; rotate_left; unfold x)
    | (intro x; refine keep_cut_o1 (qs := qs) x ?_ ?_; rotate_left; intro hopt; clear_value x; rotate_left; unfold x)
    | (intro x; refine keep_cut_o (qs := qs) x ?_ ?_; rotate_left; intro hopt; clear_value x; rotate_left; unfold x)
    | (with_reducible refine hopt _ (by assumption))
    | (with_reducible exact hopt _ rfl)
    | (intro x; refine keep_cut_snd (qs := qs) x ?_ ?_; rotate_left; intro _; clear_value x; rotate_left; unfold x)
    | (intro x; clear_value x)
    | (with_reducible apply hfun)
    | (intro _)
    | split
    | (with_reducible apply AnswerKeeps.next)
    | (simp only [keep_mk, List.length_modify, List.length_map, List.length_replicate, List.length_zip, List.length_range, List.length_mapIdx, Nat.min_self])
    | (with_reducible apply Keep.toV)
    | (with_reducible apply keepV_roods)
    | (with_reducible apply keep_getD)
    | (with_reducible refine keepV_mem_nil hs ?_ ?_ ?_ ?_ ?_ ?_ ?_ ?_)
    | (rename_i he; split at he)
    | (rename_i he; injection he with he; subst he)

theorem debugCore_keeps {qs : List Instr} (s : State) (hs : Keep qs s) : Keep qs (debugCore s) := by
  delta debugCore
  repeat' first
    | (with_reducible assumption)
    | (with_reducible apply modCore_keeps)
    | (with_reducible apply modSec_keeps)
    | (with_reducible apply dbgDone_keeps)
    | (with_reducible apply dbgAccepted_keeps)
    | (with_reducible apply coreSteps_keeps)
    | lift_lets
    | (intro x; refine keep_cut (qs := qs) x ?_ ?_; rotate_left; intro _; clear_value x; rotate_left; unfold x)
    | (intro x; clear_value x)
    | split

theorem writeReg_keeps {qs : List Instr} (a : Nat) (v : Word) (s : State) (hs : Keep qs s) : Keep qs (writeReg a v s) := by
  delta writeReg
  repeat' first
    | (with_reducible assumption)
    | (with_reducible apply writeRegCore_keeps)
    | (with_reducible apply debugRead_keeps)
    | (with_reducible apply debugWrite_keeps)
    | (with_reducible apply debugCore_keeps)
    | split

theorem execRegisterWrite_keeps {qs : List Instr} (addr : Nat) (v : Word) (s : State) (hs : Keep qs s) : AnswerKeeps qs (execRegisterWrite addr v s) := by
  delta execRegisterWrite
  repeat' first
    | (with_reducible assumption)
    | (with_reducible apply writeReg_keeps)
    | (with_reducible apply AnswerKeeps.next)

theorem execDebugRead_keeps {qs : List Instr} (s : State) (hs : Keep qs s) : AnswerKeeps qs (execDebugRead s) := by
  delta execDebugRead
  repeat' first
    | (with_reducible assumption)
    | (with_reducible apply debugRead_keeps)
    | (with_reducible apply AnswerKeeps.next)

theorem execDebugWrite_keeps {qs : List Instr} (s : State) (hs : Keep qs s) : AnswerKeeps qs (execDebugWrite s) := by
  delta execDebugWrite
  repeat' first
    | (with_reducible assumption)
    | (with_reducible apply debugWrite_keeps)
    | (with_reducible apply AnswerKeeps.next)

theorem execCore_keeps {qs : List Instr} (s : State) (hs : Keep qs s) : AnswerKeeps qs (execCore s) := by
  delta execCore
  repeat' first
    | (with_reducible assumption)
    | (with_reducible apply debugCore_keeps)
    | (with_reducible apply AnswerKeeps.next)

end Sys2Proof.Laws
end

