-- ==== Sys2Proof/Laws/KeepWindow.lean ====
section
/-! SUPPORT. What every operation of Machine/Window.lean keeps: the waiting commands, the clock grid, the canonical form of the memories and
the bound of the event ring (Laws/Keep.lean). -/
namespace Sys2Proof.Laws

set_option linter.unusedSimpArgs false

open Sys2Proof.Machine Sys2Proof.Safety

theorem qpDone_keeps {qs : List Instr} (r op st : Nat) (s : State) (hs : Keep qs s) : Keep qs (qpDone r op st s) := by
  delta qpDone
  repeat' first
    | (with_reducible assumption)
    | (with_reducible apply modRood_keeps)

theorem onQp_keeps {qs : List Instr} (r op : Nat) (f : Rood → State → Nat × State) (s : State) (hs : Keep qs s) (hf : ∀ x0 x1, Keep qs x1 → Keep qs (f x0 x1).2) : Keep qs (onQp r op f s) := by
  delta onQp
  repeat' first
    | (with_reducible assumption)
    | (with_reducible apply hf)
    | (with_reducible apply qpDone_keeps)
    | split

theorem readQp_keeps {qs : List Instr} (r : Nat) (s : State) (hs : Keep qs s) : Keep qs (readQp r s) := by
  delta readQp
  repeat' first
    | (with_reducible assumption)
    | (with_reducible apply modRood_keeps)
    | (with_reducible apply onQp_keeps)
    | (with_reducible refine fun _ => ?_)
    | split

theorem createQp_keeps {qs : List Instr} (r : Nat) (s : State) (hs : Keep qs s) : Keep qs (createQp r s) := by
  delta createQp
  repeat' first
    | (with_reducible assumption)
    | (with_reducible rfl)
    | (with_reducible apply modRood_keeps)
    | (with_reducible apply modEth_keeps)
    | (with_reducible apply onQp_keeps)
    | (with_reducible refine fun _ => ?_)
    | lift_lets
    | (intro x; refine keep_cut (qs := qs) x ?_ ?_; rotate_left; intro _; clear_value x; rotate_left; unfold x)
    | (intro x; refine keep_cut_ss (qs := qs) x ?_ ?_; rotate_left; intro hfun; clear_value x; rotate_left; unfold x)
    | (intro x; refine keep_cut_ass (qs := qs) x ?_ ?_; rotate_left; intro hfun; clear_value x; rotate_left; unfold x)
    | (intro x; refine keep_cut_abss (qs := qs) x ?_ ?_; rotate_left; intro hfun; clear_value x; rotate_left; unfold x)
    | (intro x; refine keep_cut_a (qs := qs) x ?_ ?_; rotate_left; intro hfun; clear_value x; rotate_left; unfold x)
    | (intro x; refine keep_cut_ab (qs := qs) x ?_ ?_; rotate_left; intro hfun; clear_value x; rotate_left; unfold x)
    | (intro x; refine keep_cut_abc (qs := qs) x ?_ ?_; rotate_left; intro hfun; clear_value x; rotate_left; unfold x)
    | (intro x; refine keep_cut_o1 (qs := qs) x ?_ ?_; rotate_left; intro hopt; clear_value x; rotate_left; unfold x)
    | (intro x; refine keep_cut_o (qs := qs) x ?_ ?_; rotate_left; intro hopt; clear_value x; rotate_left; unfold x)
    | (with_reducible refine hopt _ (by assumption))
    | (with_reducible exact hopt _ rfl)
    | (intro x; refine keep_cut_snd (qs := qs) x ?_ ?_; rotate_left; intro _; clear_value x; rotate_left; unfold x)
    | (intro x; clear_value x)
    | (with_reducible apply hfun)
    | (intro _)
    | split
    | (with_reducible apply AnswerKeeps.next)
    | (simp only [keep_mk, List.length_modify, List.length_map, List.length_replicate, List.length_zip, List.length_range, List.length_mapIdx, Nat.min_self])
    | (with_reducible apply Keep.toV)
    | (with_reducible apply keepV_roods)
    | (with_reducible apply keep_getD)
    | (with_reducible refine keepV_mem_nil hs ?_ ?_ ?_ ?_ ?_ ?_ ?_ ?_)
    | (rename_i he; split at he)
    | (rename_i he; injection he with he; subst he)

theorem modifyQp_keeps {qs : List Instr} (r : Nat) (s : State) (hs : Keep qs s) : Keep qs (modifyQp r s) := by
  delta modifyQp
  repeat' first
    | (with_reducible assumption)
    | (with_reducible rfl)
    | (with_reducible apply modQp_keeps)
    | (with_reducible apply modEth_keeps)
    | (with_reducible apply qpFail_keeps)
    | (with_reducible apply onQp_keeps)
    | (with_reducible refine fun _ => ?_)
    | lift_lets
    | (intro x; refine keep_cut (qs := qs) x ?_ ?_; rotate_left; intro _; clear_value x; rotate_left; unfold x)
    | (intro x; refine keep_cut_ss (qs := qs) x ?_ ?_; rotate_left; intro hfun; clear_value x; rotate_left; unfold x)
    | (intro x; refine keep_cut_ass (qs := qs) x ?_ ?_; rotate_left; intro hfun; clear_value x; rotate_left; unfold x)
    | (intro x; refine keep_cut_abss (qs := qs) x ?_ ?_; rotate_left; intro hfun; clear_value x; rotate_left; unfold x)
    | (intro x; refine keep_cut_a (qs := qs) x ?_ ?_; rotate_left; intro hfun; clear_value x; rotate_left; unfold x)
    | (intro x; refine keep_cut_ab (qs := qs) x ?_ ?_; rotate_left; intro hfun; clear_value x; rotate_left; unfold x)
    | (intro x; refine keep_cut_abc (qs := qs) x ?_ ?_; rotate_left; intro hfun; clear_value x; rotate_left; unfold x)
    | (intro x; refine keep_cut_o1 (qs := qs) x ?_ ?_; rotate_left; intro hopt; clear_value x; rotate_left; unfold x)
    | (intro x; refine keep_cut_o (qs := qs) x ?_ ?_; rotate_left; intro hopt; clear_value x; rotate_left; unfold x)
    | (with_reducible refine hopt _ (by assumption))
    | (with_reducible exact hopt _ rfl)
    | (intro x; refine keep_cut_snd (qs := qs) x ?_ ?_; rotate_left; intro _; clear_value x; rotate_left; unfold x)
    | (intro x; clear_value x)
    | (with_reducible apply hfun)
    | (intro _)
    | split
    | (with_reducible apply AnswerKeeps.next)
    | (simp only [keep_mk, List.length_modify, List.length_map, List.length_replicate, List.length_zip, List.length_range, List.length_mapIdx, Nat.min_self])
    | (with_reducible apply Keep.toV)
    | (with_reducible apply keepV_roods)
    | (with_reducible apply keep_getD)
    | (with_reducible refine keepV_mem_nil hs ?_ ?_ ?_ ?_ ?_ ?_ ?_ ?_)
    | (rename_i he; split at he)
    | (rename_i he; injection he with he; subst he)

theorem deleteQp_keeps {qs : List Instr} (r : Nat) (s : State) (hs : Keep qs s) : Keep qs (deleteQp r s) := by
  delta deleteQp
  repeat' first
    | (with_reducible assumption)
    | (with_reducible apply modEth_keeps)
    | (with_reducible apply onQp_keeps)
    | (with_reducible refine fun _ => ?_)
    | split

theorem xrDone_keeps {qs : List Instr} (r op h st : Nat) (s : State) (hs : Keep qs s) : Keep qs (xrDone r op h st s) := by
  delta xrDone
  repeat' first
    | (with_reducible assumption)
    | (with_reducible apply modRood_keeps)

theorem onXr_keeps {qs : List Instr} (r op h : Nat) (f : State → Nat × Nat × State) (s : State) (hs : Keep qs s) (hf : ∀ x0, Keep qs x0 → Keep qs (f x0).2.2) : Keep qs (onXr r op h f s) := by
  delta onXr
  repeat' first
    | (with_reducible assumption)
    | (with_reducible apply hf)
    | (with_reducible apply xrDone_keeps)
    | split

theorem readXr_keeps {qs : List Instr} (r h : Nat) (s : State) (hs : Keep qs s) : Keep qs (readXr r h s) := by
  delta readXr
  repeat' first
    | (with_reducible assumption)
    | (with_reducible apply modRood_keeps)
    | (with_reducible apply onXr_keeps)
    | (with_reducible refine fun _ => ?_)
    | split

theorem createXr_keeps {qs : List Instr} (r : Nat) (s : State) (hs : Keep qs s) : Keep qs (createXr r s) := by
  delta createXr
  repeat' first
    | (with_reducible assumption)
    | (with_reducible rfl)
    | (with_reducible apply modRood_keeps)
    | (with_reducible apply modEth_keeps)
    | (with_reducible apply fresh_keeps)
    | (with_reducible refine fresh_keeps_eq _ _ ?_ (by assumption))
    | (with_reducible apply logUncovered_keeps)
    | (with_reducible apply onXr_keeps)
    | (with_reducible refine fun _ => ?_)
    | lift_lets
    | (intro x; refine keep_cut (qs := qs) x ?_ ?_; rotate_left; intro _; clear_value x; rotate_left; unfold x)
    | (intro x; refine keep_cut_ss (qs := qs) x ?_ ?_; rotate_left; intro hfun; clear_value x; rotate_left; unfold x)
    | (intro x; refine keep_cut_ass (qs := qs) x ?_ ?_; rotate_left; intro hfun; clear_value x; rotate_left; unfold x)
    | (intro x; refine keep_cut_abss (qs := qs) x ?_ ?_; rotate_left; intro hfun; clear_value x; rotate_left; unfold x)
    | (intro x; refine keep_cut_a (qs := qs) x ?_ ?_; rotate_left; intro hfun; clear_value x; rotate_left; unfold x)
    | (intro x; refine keep_cut_ab (qs := qs) x ?_ ?_; rotate_left; intro hfun; clear_value x; rotate_left; unfold x)
    | (intro x; refine keep_cut_abc (qs := qs) x ?_ ?_; rotate_left; intro hfun; clear_value x; rotate_left; unfold x)
    | (intro x; refine keep_cut_o1 (qs := qs) x ?_ ?_; rotate_left; intro hopt; clear_value x; rotate_left; unfold x)
    | (intro x; refine keep_cut_o (qs := qs) x ?_ ?_; rotate_left; intro hopt; clear_value x; rotate_left; unfold x)
    | (with_reducible refine hopt _ (by assumption))
    | (with_reducible exact hopt _ rfl)
    | (intro x; refine keep_cut_snd (qs := qs) x ?_ ?_; rotate_left; intro _; clear_value x; rotate_left; unfold x)
    | (intro x; clear_value x)
    | (with_reducible apply hfun)
    | (intro _)
    | split
    | (with_reducible apply AnswerKeeps.next)
    | (simp only [keep_mk, List.length_modify, List.length_map, List.length_replicate, List.length_zip, List.length_range, List.length_mapIdx, Nat.min_self])
    | (with_reducible apply Keep.toV)
    | (with_reducible apply keepV_roods)
    | (with_reducible apply keep_getD)
    | (with_reducible refine keepV_mem_nil hs ?_ ?_ ?_ ?_ ?_ ?_ ?_ ?_)
    | (rename_i he; split at he)
    | (rename_i he; injection he with he; subst he)

theorem deleteXr_keeps {qs : List Instr} (r h : Nat) (s : State) (hs : Keep qs s) : Keep qs (deleteXr r h s) := by
  delta deleteXr
  repeat' first
    | (with_reducible assumption)
    | (with_reducible apply modEth_keeps)
    | (with_reducible apply onXr_keeps)
    | (with_reducible refine fun _ => ?_)
    | split

theorem putApbase_keeps {qs : List Instr} (w i : Nat) (v : Nat) (s : State) (hs : Keep qs s) : Keep qs (putApbase w i v s) := by
  delta putApbase
  repeat' first
    | (with_reducible assumption)
    | (with_reducible apply modWin_keeps)
    | lift_lets
    | (intro x; clear_value x)
    | split

theorem submitRecord_keeps {qs : List Instr} (w mbox : Nat) (bs : List Byte) (s : State) (hs : Keep qs s) : Keep qs (submitRecord w mbox bs s) := by
  delta submitRecord
  repeat' first
    | (with_reducible assumption)
    | (with_reducible apply submitModel_keeps)
    | (with_reducible apply submitTraining_keeps)
    | (with_reducible apply submitBlob_keeps)
    | split

theorem putStage_keeps {qs : List Instr} (w mbox path i : Nat) (v : Word) (s : State) (hs : Keep qs s) : Keep qs (putStage w mbox path i v s) := by
  delta putStage
  repeat' first
    | (with_reducible assumption)
    | (with_reducible apply modWin_keeps)
    | (with_reducible apply submitRecord_keeps)
    | lift_lets
    | (intro x; clear_value x)
    | split

theorem selectReply_keeps {qs : List Instr} (r mbox v : Nat) (s : State) (hs : Keep qs s) : Keep qs (selectReply r mbox v s) := by
  delta selectReply
  repeat' first
    | (with_reducible assumption)
    | (with_reducible apply modBox_keeps)

theorem writeModulePage_keeps {qs : List Instr} (path off : Nat) (v : Word) (s : State) (hs : Keep qs s) :
    Keep qs (writeModulePage path off v s) := by
  unfold writeModulePage
  dsimp only
  repeat' split
  · exact hs
  · exact modWin_keeps _ _ hs
  · exact putApbase_keeps _ _ _ _ hs
  · exact putStage_keeps _ _ _ _ _ _ hs
  · exact hs

theorem writeQpCmd_keeps {qs : List Instr} (r n : Nat) (s : State) (hs : Keep qs s) : Keep qs (writeQpCmd r n s) := by
  delta writeQpCmd
  repeat' first
    | (with_reducible assumption)
    | (with_reducible apply readQp_keeps)
    | (with_reducible apply createQp_keeps)
    | (with_reducible apply modifyQp_keeps)
    | (with_reducible apply deleteQp_keeps)
    | split

theorem writeXrCmd_keeps {qs : List Instr} (r n : Nat) (s : State) (hs : Keep qs s) : Keep qs (writeXrCmd r n s) := by
  delta writeXrCmd
  repeat' first
    | (with_reducible assumption)
    | (with_reducible apply modRood_keeps)
    | (with_reducible apply xrDone_keeps)
    | (with_reducible apply readXr_keeps)
    | (with_reducible apply createXr_keeps)
    | (with_reducible apply deleteXr_keeps)
    | lift_lets
    | (intro x; clear_value x)
    | split

theorem writeRoodPage_keeps {qs : List Instr} (r path off : Nat) (v : Word) (s : State) (hs : Keep qs s) : Keep qs (writeRoodPage r path off v s) := by
  delta writeRoodPage
  repeat' first
    | (with_reducible assumption)
    | (with_reducible rfl)
    | (with_reducible apply modRood_keeps)
    | (with_reducible apply putApbase_keeps)
    | (with_reducible apply putStage_keeps)
    | (with_reducible apply selectReply_keeps)
    | (with_reducible apply writeQpCmd_keeps)
    | (with_reducible apply writeXrCmd_keeps)
    | (with_reducible refine fun _ => ?_)
    | lift_lets
    | (intro x; refine keep_cut (qs := qs) x ?_ ?_; rotate_left; intro _; clear_value x; rotate_left; unfold x)
    | (intro x; refine keep_cut_ss (qs := qs) x ?_ ?_; rotate_left; intro hfun; clear_value x; rotate_left; unfold x)
    | (intro x; refine keep_cut_ass (qs := qs) x ?_ ?_; rotate_left; intro hfun; clear_value x; rotate_left; unfold x)
    | (intro x; refine keep_cut_abss (qs := qs) x ?_ ?_; rotate_left; intro hfun; clear_value x; rotate_left; unfold x)
    | (intro x; refine keep_cut_a (qs := qs) x ?_ ?_; rotate_left; intro hfun; clear_value x; rotate_left; unfold x)
    | (intro x; refine keep_cut_ab (qs := qs) x ?_ ?_; rotate_left; intro hfun; clear_value x; rotate_left; unfold x)
    | (intro x; refine keep_cut_abc (qs := qs) x ?_ ?_; rotate_left; intro hfun; clear_value x; rotate_left; unfold x)
    | (intro x; refine keep_cut_o1 (qs := qs) x ?_ ?_; rotate_left; intro hopt; clear_value x; rotate_left; unfold x)
    | (intro x; refine keep_cut_o (qs := qs) x ?_ ?_; rotate_left; intro hopt; clear_value x; rotate_left; unfold x)
    | (with_reducible refine hopt _ (by assumption))
    | (with_reducible exact hopt _ rfl)
    | (intro x; refine keep_cut_snd (qs := qs) x ?_ ?_; rotate_left; intro _; clear_value x; rotate_left; unfold x)
    | (intro x; clear_value x)
    | (with_reducible apply hfun)
    | (intro _)
    | split
    | (with_reducible apply AnswerKeeps.next)
    | (simp only [keep_mk, List.length_modify, List.length_map, List.length_replicate, List.length_zip, List.length_range, List.length_mapIdx, Nat.min_self])
    | (with_reducible apply Keep.toV)
    | (with_reducible apply keepV_roods)
    | (with_reducible apply keep_getD)
    | (with_reducible refine keepV_mem_nil hs ?_ ?_ ?_ ?_ ?_ ?_ ?_ ?_)
    | (rename_i he; split at he)
    | (rename_i he; injection he with he; subst he)

theorem writeWindowPage_keeps {qs : List Instr} (w path off : Nat) (v : Word) (s : State) (hs : Keep qs s) : Keep qs (writeWindowPage w path off v s) := by
  delta writeWindowPage
  repeat' first
    | (with_reducible assumption)
    | (with_reducible apply writeModulePage_keeps)
    | (with_reducible apply writeRoodPage_keeps)
    | split

theorem winUnmapped_keeps {qs : List Instr} (kind : Nat) (s : State) (hs : Keep qs s) : Keep qs (winUnmapped kind s) := by
  delta winUnmapped
  repeat' first
    | (with_reducible assumption)
    | (with_reducible apply fresh_keeps)
    | (with_reducible apply regUnmapped_keeps)

theorem winReadOne_keeps {qs : List Instr} (w path : Nat) (t : WinTarget) (s : State) (hs : Keep qs s) : Keep qs (winReadOne w path t s).2 := by
  delta winReadOne
  repeat' first
    | (with_reducible assumption)
    | (with_reducible apply readReg_keeps)
    | (with_reducible apply winUnmapped_keeps)
    | split

theorem winReadOne_keeps_eq {qs : List Instr} (w path : Nat) (t : WinTarget) (s : State) {tOut : State} {outv : _} (hs : Keep qs s) (e : winReadOne w path t s = (outv, tOut)) : Keep qs tOut := by
  have := winReadOne_keeps (qs := qs) w path t s hs
  rw [e] at this; exact this

theorem winWriteOne_keeps {qs : List Instr} (w path : Nat) (t : WinTarget) (v : Word) (s : State) (hs : Keep qs s) : Keep qs (winWriteOne w path t v s) := by
  delta winWriteOne
  repeat' first
    | (with_reducible assumption)
    | (with_reducible apply writeReg_keeps)
    | (with_reducible apply writeWindowPage_keeps)
    | (with_reducible apply winUnmapped_keeps)
    | split

theorem winReply_keeps {qs : List Instr} (m : WinMsg) (st : Nat) (data : List Word) (s : State) (hs : Keep qs s) : Keep qs (winReply m st data s) := by
  delta winReply
  repeat' first
    | (with_reducible assumption)
    | (with_reducible rfl)
    | (with_reducible apply modEth_keeps)
    | (with_reducible apply qpSend_keeps)
    | (with_reducible refine fun _ => ?_)
    | lift_lets
    | (intro x; refine keep_cut (qs := qs) x ?_ ?_; rotate_left; intro _; clear_value x; rotate_left; unfold x)
    | (intro x; refine keep_cut_ss (qs := qs) x ?_ ?_; rotate_left; intro hfun; clear_value x; rotate_left; unfold x)
    | (intro x; refine keep_cut_ass (qs := qs) x ?_ ?_; rotate_left; intro hfun; clear_value x; rotate_left; unfold x)
    | (intro x; refine keep_cut_abss (qs := qs) x ?_ ?_; rotate_left; intro hfun; clear_value x; rotate_left; unfold x)
    | (intro x; refine keep_cut_a (qs := qs) x ?_ ?_; rotate_left; intro hfun; clear_value x; rotate_left; unfold x)
    | (intro x; refine keep_cut_ab (qs := qs) x ?_ ?_; rotate_left; intro hfun; clear_value x; rotate_left; unfold x)
    | (intro x; refine keep_cut_abc (qs := qs) x ?_ ?_; rotate_left; intro hfun; clear_value x; rotate_left; unfold x)
    | (intro x; refine keep_cut_o1 (qs := qs) x ?_ ?_; rotate_left; intro hopt; clear_value x; rotate_left; unfold x)
    | (intro x; refine keep_cut_o (qs := qs) x ?_ ?_; rotate_left; intro hopt; clear_value x; rotate_left; unfold x)
    | (with_reducible refine hopt _ (by assumption))
    | (with_reducible exact hopt _ rfl)
    | (intro x; refine keep_cut_snd (qs := qs) x ?_ ?_; rotate_left; intro _; clear_value x; rotate_left; unfold x)
    | (intro x; clear_value x)
    | (with_reducible apply hfun)
    | (intro _)
    | split
    | (with_reducible apply AnswerKeeps.next)
    | (simp only [keep_mk, List.length_modify, List.length_map, List.length_replicate, List.length_zip, List.length_range, List.length_mapIdx, Nat.min_self])
    | (with_reducible apply Keep.toV)
    | (with_reducible apply keepV_roods)
    | (with_reducible apply keep_getD)
    | (with_reducible refine keepV_mem_nil hs ?_ ?_ ?_ ?_ ?_ ?_ ?_ ?_)
    | (rename_i he; split at he)
    | (rename_i he; injection he with he; subst he)

theorem badMessage_keeps {qs : List Instr} (m : WinMsg) (s : State) (hs : Keep qs s) : Keep qs (badMessage m s) := by
  delta badMessage
  repeat' first
    | (with_reducible assumption)
    | (with_reducible rfl)
    | (with_reducible apply violates_keeps)
    | (with_reducible apply winReply_keeps)
    | (with_reducible refine fun _ => ?_)
    | lift_lets
    | (intro x; refine keep_cut (qs := qs) x ?_ ?_; rotate_left; intro _; clear_value x; rotate_left; unfold x)
    | (intro x; refine keep_cut_ss (qs := qs) x ?_ ?_; rotate_left; intro hfun; clear_value x; rotate_left; unfold x)
    | (intro x; refine keep_cut_ass (qs := qs) x ?_ ?_; rotate_left; intro hfun; clear_value x; rotate_left; unfold x)
    | (intro x; refine keep_cut_abss (qs := qs) x ?_ ?_; rotate_left; intro hfun; clear_value x; rotate_left; unfold x)
    | (intro x; refine keep_cut_a (qs := qs) x ?_ ?_; rotate_left; intro hfun; clear_value x; rotate_left; unfold x)
    | (intro x; refine keep_cut_ab (qs := qs) x ?_ ?_; rotate_left; intro hfun; clear_value x; rotate_left; unfold x)
    | (intro x; refine keep_cut_abc (qs := qs) x ?_ ?_; rotate_left; intro hfun; clear_value x; rotate_left; unfold x)
    | (intro x; refine keep_cut_o1 (qs := qs) x ?_ ?_; rotate_left; intro hopt; clear_value x; rotate_left; unfold x)
    | (intro x; refine keep_cut_o (qs := qs) x ?_ ?_; rotate_left; intro hopt; clear_value x; rotate_left; unfold x)
    | (with_reducible refine hopt _ (by assumption))
    | (with_reducible exact hopt _ rfl)
    | (intro x; refine keep_cut_snd (qs := qs) x ?_ ?_; rotate_left; intro _; clear_value x; rotate_left; unfold x)
    | (intro x; clear_value x)
    | (with_reducible apply hfun)
    | (intro _)
    | split
    | (with_reducible apply AnswerKeeps.next)
    | (simp only [keep_mk, List.length_modify, List.length_map, List.length_replicate, List.length_zip, List.length_range, List.length_mapIdx, Nat.min_self])
    | (with_reducible apply Keep.toV)
    | (with_reducible apply keepV_roods)
    | (with_reducible apply keep_getD)
    | (with_reducible refine keepV_mem_nil hs ?_ ?_ ?_ ?_ ?_ ?_ ?_ ?_)
    | (rename_i he; split at he)
    | (rename_i he; injection he with he; subst he)

theorem dropDatagram_keeps {qs : List Instr} (row : Nat) (m : WinMsg) (s : State) (hs : Keep qs s) : Keep qs (dropDatagram row m s) := by
  delta dropDatagram
  repeat' first
    | (with_reducible assumption)
    | (with_reducible rfl)
    | (with_reducible apply modEth_keeps)
    | (with_reducible apply violates_keeps)
    | (with_reducible refine fun _ => ?_)
    | lift_lets
    | (intro x; refine keep_cut (qs := qs) x ?_ ?_; rotate_left; intro _; clear_value x; rotate_left; unfold x)
    | (intro x; refine keep_cut_ss (qs := qs) x ?_ ?_; rotate_left; intro hfun; clear_value x; rotate_left; unfold x)
    | (intro x; refine keep_cut_ass (qs := qs) x ?_ ?_; rotate_left; intro hfun; clear_value x; rotate_left; unfold x)
    | (intro x; refine keep_cut_abss (qs := qs) x ?_ ?_; rotate_left; intro hfun; clear_value x; rotate_left; unfold x)
    | (intro x; refine keep_cut_a (qs := qs) x ?_ ?_; rotate_left; intro hfun; clear_value x; rotate_left; unfold x)
    | (intro x; refine keep_cut_ab (qs := qs) x ?_ ?_; rotate_left; intro hfun; clear_value x; rotate_left; unfold x)
    | (intro x; refine keep_cut_abc (qs := qs) x ?_ ?_; rotate_left; intro hfun; clear_value x; rotate_left; unfold x)
    | (intro x; refine keep_cut_o1 (qs := qs) x ?_ ?_; rotate_left; intro hopt; clear_value x; rotate_left; unfold x)
    | (intro x; refine keep_cut_o (qs := qs) x ?_ ?_; rotate_left; intro hopt; clear_value x; rotate_left; unfold x)
    | (with_reducible refine hopt _ (by assumption))
    | (with_reducible exact hopt _ rfl)
    | (intro x; refine keep_cut_snd (qs := qs) x ?_ ?_; rotate_left; intro _; clear_value x; rotate_left; unfold x)
    | (intro x; clear_value x)
    | (with_reducible apply hfun)
    | (intro _)
    | split
    | (with_reducible apply AnswerKeeps.next)
    | (simp only [keep_mk, List.length_modify, List.length_map, List.length_replicate, List.length_zip, List.length_range, List.length_mapIdx, Nat.min_self])
    | (with_reducible apply Keep.toV)
    | (with_reducible apply keepV_roods)
    | (with_reducible apply keep_getD)
    | (with_reducible refine keepV_mem_nil hs ?_ ?_ ?_ ?_ ?_ ?_ ?_ ?_)
    | (rename_i he; split at he)
    | (rename_i he; injection he with he; subst he)

theorem noteDatagram_keeps {qs : List Instr} (m : WinMsg) (s : State) (hs : Keep qs s) : Keep qs (noteDatagram m s) := by
  delta noteDatagram
  repeat' first
    | (with_reducible assumption)
    | (with_reducible rfl)
    | (with_reducible apply modEth_keeps)
    | (with_reducible apply countRx_keeps)
    | (with_reducible refine fun _ => ?_)
    | lift_lets
    | (intro x; refine keep_cut (qs := qs) x ?_ ?_; rotate_left; intro _; clear_value x; rotate_left; unfold x)
    | (intro x; refine keep_cut_ss (qs := qs) x ?_ ?_; rotate_left; intro hfun; clear_value x; rotate_left; unfold x)
    | (intro x; refine keep_cut_ass (qs := qs) x ?_ ?_; rotate_left; intro hfun; clear_value x; rotate_left; unfold x)
    | (intro x; refine keep_cut_abss (qs := qs) x ?_ ?_; rotate_left; intro hfun; clear_value x; rotate_left; unfold x)
    | (intro x; refine keep_cut_a (qs := qs) x ?_ ?_; rotate_left; intro hfun; clear_value x; rotate_left; unfold x)
    | (intro x; refine keep_cut_ab (qs := qs) x ?_ ?_; rotate_left; intro hfun; clear_value x; rotate_left; unfold x)
    | (intro x; refine keep_cut_abc (qs := qs) x ?_ ?_; rotate_left; intro hfun; clear_value x; rotate_left; unfold x)
    | (intro x; refine keep_cut_o1 (qs := qs) x ?_ ?_; rotate_left; intro hopt; clear_value x; rotate_left; unfold x)
    | (intro x; refine keep_cut_o (qs := qs) x ?_ ?_; rotate_left; intro hopt; clear_value x; rotate_left; unfold x)
    | (with_reducible refine hopt _ (by assumption))
    | (with_reducible exact hopt _ rfl)
    | (intro x; refine keep_cut_snd (qs := qs) x ?_ ?_; rotate_left; intro _; clear_value x; rotate_left; unfold x)
    | (intro x; clear_value x)
    | (with_reducible apply hfun)
    | (intro _)
    | split
    | (with_reducible apply AnswerKeeps.next)
    | (simp only [keep_mk, List.length_modify, List.length_map, List.length_replicate, List.length_zip, List.length_range, List.length_mapIdx, Nat.min_self])
    | (with_reducible apply Keep.toV)
    | (with_reducible apply keepV_roods)
    | (with_reducible apply keep_getD)
    | (with_reducible refine keepV_mem_nil hs ?_ ?_ ?_ ?_ ?_ ?_ ?_ ?_)
    | (rename_i he; split at he)
    | (rename_i he; injection he with he; subst he)

theorem onMessage_keeps {qs : List Instr} (m : WinMsg) (f : State → State) (s : State) (hs : Keep qs s) (hf : ∀ x0, Keep qs x0 → Keep qs (f x0)) : Keep qs (onMessage m f s) := by
  delta onMessage
  repeat' first
    | (with_reducible assumption)
    | (with_reducible rfl)
    | (with_reducible apply hf)
    | (with_reducible apply modEth_keeps)
    | (with_reducible apply badMessage_keeps)
    | (with_reducible apply dropDatagram_keeps)
    | (with_reducible apply noteDatagram_keeps)
    | (with_reducible refine fun _ => ?_)
    | lift_lets
    | (intro x; refine keep_cut (qs := qs) x ?_ ?_; rotate_left; intro _; clear_value x; rotate_left; unfold x)
    | (intro x; refine keep_cut_ss (qs := qs) x ?_ ?_; rotate_left; intro hfun; clear_value x; rotate_left; unfold x)
    | (intro x; refine keep_cut_ass (qs := qs) x ?_ ?_; rotate_left; intro hfun; clear_value x; rotate_left; unfold x)
    | (intro x; refine keep_cut_abss (qs := qs) x ?_ ?_; rotate_left; intro hfun; clear_value x; rotate_left; unfold x)
    | (intro x; refine keep_cut_a (qs := qs) x ?_ ?_; rotate_left; intro hfun; clear_value x; rotate_left; unfold x)
    | (intro x; refine keep_cut_ab (qs := qs) x ?_ ?_; rotate_left; intro hfun; clear_value x; rotate_left; unfold x)
    | (intro x; refine keep_cut_abc (qs := qs) x ?_ ?_; rotate_left; intro hfun; clear_value x; rotate_left; unfold x)
    | (intro x; refine keep_cut_o1 (qs := qs) x ?_ ?_; rotate_left; intro hopt; clear_value x; rotate_left; unfold x)
    | (intro x; refine keep_cut_o (qs := qs) x ?_ ?_; rotate_left; intro hopt; clear_value x; rotate_left; unfold x)
    | (with_reducible refine hopt _ (by assumption))
    | (with_reducible exact hopt _ rfl)
    | (intro x; refine keep_cut_snd (qs := qs) x ?_ ?_; rotate_left; intro _; clear_value x; rotate_left; unfold x)
    | (intro x; clear_value x)
    | (with_reducible apply hfun)
    | (intro _)
    | split
    | (with_reducible apply AnswerKeeps.next)
    | (simp only [keep_mk, List.length_modify, List.length_map, List.length_replicate, List.length_zip, List.length_range, List.length_mapIdx, Nat.min_self])
    | (with_reducible apply Keep.toV)
    | (with_reducible apply keepV_roods)
    | (with_reducible apply keep_getD)
    | (with_reducible refine keepV_mem_nil hs ?_ ?_ ?_ ?_ ?_ ?_ ?_ ?_)
    | (rename_i he; split at he)
    | (rename_i he; injection he with he; subst he)

theorem winRead_keeps {qs : List Instr} (m : WinMsg) (s : State) (hs : Keep qs s) : Keep qs (winRead m s) := by
  delta winRead
  repeat' first
    | (with_reducible assumption)
    | (with_reducible apply winReadOne_keeps)
    | (with_reducible apply winReply_keeps)
    | (with_reducible apply badMessage_keeps)
    | (with_reducible apply onMessage_keeps)
    | (with_reducible apply foldl_snd_keeps)
    | (with_reducible refine fun _ => ?_)
    | lift_lets
    | (intro x; clear_value x)
    | split

theorem winWrite_keeps {qs : List Instr} (m : WinMsg) (masked : Bool) (s : State) (hs : Keep qs s) : Keep qs (winWrite m masked s) := by
  delta winWrite
  repeat' first
    | (with_reducible assumption)
    | (with_reducible apply forAll_keeps)
    | (with_reducible apply winWriteOne_keeps)
    | (with_reducible apply winReply_keeps)
    | (with_reducible apply badMessage_keeps)
    | (with_reducible apply onMessage_keeps)
    | (with_reducible refine fun _ => ?_)
    | lift_lets
    | (intro x; refine keep_cut_ass (qs := qs) x ?_ ?_; rotate_left; intro hfun; clear_value x; rotate_left; unfold x)
    | (intro x; clear_value x)
    | (with_reducible apply hfun)
    | split

theorem attachFails_keeps {qs : List Instr} (m : WinMsg) (s : State) (hs : Keep qs s) : Keep qs (attachFails m s) := by
  delta attachFails
  repeat' first
    | (with_reducible assumption)
    | (with_reducible apply modEth_keeps)
    | (with_reducible apply authFailed_keeps)
    | (with_reducible apply winReply_keeps)

theorem attachReplies_keeps {qs : List Instr} (m : WinMsg) (num : Nat) (eph : List Byte) (spi : Nat) (report : List Byte) (s : State) (hs : Keep qs s) : Keep qs (attachReplies m num eph spi report s) := by
  delta attachReplies
  repeat' first
    | (with_reducible assumption)
    | (with_reducible rfl)
    | (with_reducible apply forAll_keeps)
    | (with_reducible apply winReply_keeps)
    | (with_reducible refine fun _ => ?_)
    | lift_lets
    | (intro x; refine keep_cut (qs := qs) x ?_ ?_; rotate_left; intro _; clear_value x; rotate_left; unfold x)
    | (intro x; refine keep_cut_ss (qs := qs) x ?_ ?_; rotate_left; intro hfun; clear_value x; rotate_left; unfold x)
    | (intro x; refine keep_cut_ass (qs := qs) x ?_ ?_; rotate_left; intro hfun; clear_value x; rotate_left; unfold x)
    | (intro x; refine keep_cut_abss (qs := qs) x ?_ ?_; rotate_left; intro hfun; clear_value x; rotate_left; unfold x)
    | (intro x; refine keep_cut_a (qs := qs) x ?_ ?_; rotate_left; intro hfun; clear_value x; rotate_left; unfold x)
    | (intro x; refine keep_cut_ab (qs := qs) x ?_ ?_; rotate_left; intro hfun; clear_value x; rotate_left; unfold x)
    | (intro x; refine keep_cut_abc (qs := qs) x ?_ ?_; rotate_left; intro hfun; clear_value x; rotate_left; unfold x)
    | (intro x; refine keep_cut_o1 (qs := qs) x ?_ ?_; rotate_left; intro hopt; clear_value x; rotate_left; unfold x)
    | (intro x; refine keep_cut_o (qs := qs) x ?_ ?_; rotate_left; intro hopt; clear_value x; rotate_left; unfold x)
    | (with_reducible refine hopt _ (by assumption))
    | (with_reducible exact hopt _ rfl)
    | (intro x; refine keep_cut_snd (qs := qs) x ?_ ?_; rotate_left; intro _; clear_value x; rotate_left; unfold x)
    | (intro x; clear_value x)
    | (with_reducible apply hfun)
    | (intro _)
    | split
    | (with_reducible apply AnswerKeeps.next)
    | (simp only [keep_mk, List.length_modify, List.length_map, List.length_replicate, List.length_zip, List.length_range, List.length_mapIdx, Nat.min_self])
    | (with_reducible apply Keep.toV)
    | (with_reducible apply keepV_roods)
    | (with_reducible apply keep_getD)
    | (with_reducible refine keepV_mem_nil hs ?_ ?_ ?_ ?_ ?_ ?_ ?_ ?_)
    | (rename_i he; split at he)
    | (rename_i he; injection he with he; subst he)

theorem attachDone_keeps {qs : List Instr} (m : WinMsg) (data : List Byte) (waited : Bool) (s : State) (hs : Keep qs s) : Keep qs (attachDone m data waited s) := by
  delta attachDone
  repeat' first
    | (with_reducible assumption)
    | (with_reducible rfl)
    | (with_reducible apply modSec_keeps)
    | (with_reducible apply modEth_keeps)
    | (with_reducible apply modWin_keeps)
    | (with_reducible apply fresh_keeps)
    | (with_reducible refine fresh_keeps_eq _ _ ?_ (by assumption))
    | (with_reducible apply logEth_keeps)
    | (with_reducible apply issueReport_keeps)
    | (with_reducible refine issueReport_keeps_eq _ _ _ _ ?_ (by assumption))
    | (with_reducible apply squashReport_keeps)
    | (with_reducible apply attachReplies_keeps)
    | (with_reducible refine fun _ => ?_)
    | lift_lets
    | (intro x; refine keep_cut (qs := qs) x ?_ ?_; rotate_left; intro _; clear_value x; rotate_left; unfold x)
    | (intro x; refine keep_cut_ss (qs := qs) x ?_ ?_; rotate_left; intro hfun; clear_value x; rotate_left; unfold x)
    | (intro x; refine keep_cut_ass (qs := qs) x ?_ ?_; rotate_left; intro hfun; clear_value x; rotate_left; unfold x)
    | (intro x; refine keep_cut_abss (qs := qs) x ?_ ?_; rotate_left; intro hfun; clear_value x; rotate_left; unfold x)
    | (intro x; refine keep_cut_a (qs := qs) x ?_ ?_; rotate_left; intro hfun; clear_value x; rotate_left; unfold x)
    | (intro x; refine keep_cut_ab (qs := qs) x ?_ ?_; rotate_left; intro hfun; clear_value x; rotate_left; unfold x)
    | (intro x; refine keep_cut_abc (qs := qs) x ?_ ?_; rotate_left; intro hfun; clear_value x; rotate_left; unfold x)
    | (intro x; refine keep_cut_o1 (qs := qs) x ?_ ?_; rotate_left; intro hopt; clear_value x; rotate_left; unfold x)
    | (intro x; refine keep_cut_o (qs := qs) x ?_ ?_; rotate_left; intro hopt; clear_value x; rotate_left; unfold x)
    | (with_reducible refine hopt _ (by assumption))
    | (with_reducible exact hopt _ rfl)
    | (intro x; refine keep_cut_snd (qs := qs) x ?_ ?_; rotate_left; intro _; clear_value x; rotate_left; unfold x)
    | (intro x; clear_value x)
    | (with_reducible apply hfun)
    | (intro _)
    | split
    | (with_reducible apply AnswerKeeps.next)
    | (simp only [keep_mk, List.length_modify, List.length_map, List.length_replicate, List.length_zip, List.length_range, List.length_mapIdx, Nat.min_self])
    | (with_reducible apply Keep.toV)
    | (with_reducible apply keepV_roods)
    | (with_reducible apply keep_getD)
    | (with_reducible refine keepV_mem_nil hs ?_ ?_ ?_ ?_ ?_ ?_ ?_ ?_)
    | (rename_i he; split at he)
    | (rename_i he; injection he with he; subst he)

theorem attachSession_keeps {qs : List Instr} (m : WinMsg) (data : List Byte) (s : State) (hs : Keep qs s) : Keep qs (attachSession m data s) := by
  delta attachSession
  repeat' first
    | (with_reducible assumption)
    | (with_reducible apply modEth_keeps)
    | (with_reducible apply badMessage_keeps)
    | (with_reducible apply attachFails_keeps)
    | (with_reducible apply attachDone_keeps)
    | lift_lets
    | (intro x; refine keep_cut (qs := qs) x ?_ ?_; rotate_left; intro _; clear_value x; rotate_left; unfold x)
    | split

theorem waitingAttach_keeps {qs : List Instr} (s : State) (hs : Keep qs s) : Keep qs (waitingAttach s) := by
  delta waitingAttach
  repeat' first
    | (with_reducible assumption)
    | (with_reducible apply attachDone_keeps)
    | split

theorem attachLate_keeps {qs : List Instr} (s : State) (hs : Keep qs s) : Keep qs (attachLate s) := by
  delta attachLate
  repeat' first
    | (with_reducible assumption)
    | (with_reducible apply modEth_keeps)
    | lift_lets
    | split

theorem detachSession_keeps {qs : List Instr} (m : WinMsg) (s : State) (hs : Keep qs s) : Keep qs (detachSession m s) := by
  delta detachSession
  repeat' first
    | (with_reducible assumption)
    | (with_reducible apply endSession_keeps)
    | (with_reducible apply winReply_keeps)
    | (with_reducible apply onMessage_keeps)
    | (with_reducible refine fun _ => ?_)

theorem orphan_keeps {qs : List Instr} (s : State) (hs : Keep qs s) : Keep qs (orphan s) := by
  delta orphan
  repeat' first
    | (with_reducible assumption)
    | (with_reducible rfl)
    | (with_reducible apply raiseEth_keeps)
    | (with_reducible apply logEth_keeps)
    | (with_reducible apply endSession_keeps)
    | (with_reducible refine fun _ => ?_)
    | lift_lets
    | (intro x; refine keep_cut (qs := qs) x ?_ ?_; rotate_left; intro _; clear_value x; rotate_left; unfold x)
    | (intro x; refine keep_cut_ss (qs := qs) x ?_ ?_; rotate_left; intro hfun; clear_value x; rotate_left; unfold x)
    | (intro x; refine keep_cut_ass (qs := qs) x ?_ ?_; rotate_left; intro hfun; clear_value x; rotate_left; unfold x)
    | (intro x; refine keep_cut_abss (qs := qs) x ?_ ?_; rotate_left; intro hfun; clear_value x; rotate_left; unfold x)
    | (intro x; refine keep_cut_a (qs := qs) x ?_ ?_; rotate_left; intro hfun; clear_value x; rotate_left; unfold x)
    | (intro x; refine keep_cut_ab (qs := qs) x ?_ ?_; rotate_left; intro hfun; clear_value x; rotate_left; unfold x)
    | (intro x; refine keep_cut_abc (qs := qs) x ?_ ?_; rotate_left; intro hfun; clear_value x; rotate_left; unfold x)
    | (intro x; refine keep_cut_o1 (qs := qs) x ?_ ?_; rotate_left; intro hopt; clear_value x; rotate_left; unfold x)
    | (intro x; refine keep_cut_o (qs := qs) x ?_ ?_; rotate_left; intro hopt; clear_value x; rotate_left; unfold x)
    | (with_reducible refine hopt _ (by assumption))
    | (with_reducible exact hopt _ rfl)
    | (intro x; refine keep_cut_snd (qs := qs) x ?_ ?_; rotate_left; intro _; clear_value x; rotate_left; unfold x)
    | (intro x; clear_value x)
    | (with_reducible apply hfun)
    | (intro _)
    | split
    | (with_reducible apply AnswerKeeps.next)
    | (simp only [keep_mk, List.length_modify, List.length_map, List.length_replicate, List.length_zip, List.length_range, List.length_mapIdx, Nat.min_self])
    | (with_reducible apply Keep.toV)
    | (with_reducible apply keepV_roods)
    | (with_reducible apply keep_getD)
    | (with_reducible refine keepV_mem_nil hs ?_ ?_ ?_ ?_ ?_ ?_ ?_ ?_)
    | (rename_i he; split at he)
    | (rename_i he; injection he with he; subst he)

theorem orphanDue_keeps {qs : List Instr} (s : State) (hs : Keep qs s) : Keep qs (orphanDue s) := by
  delta orphanDue
  repeat' first
    | (with_reducible assumption)
    | (with_reducible rfl)
    | (with_reducible apply leaveDebug_keeps)
    | (with_reducible apply orphan_keeps)
    | (with_reducible refine fun _ => ?_)
    | lift_lets
    | (intro x; refine keep_cut (qs := qs) x ?_ ?_; rotate_left; intro _; clear_value x; rotate_left; unfold x)
    | (intro x; refine keep_cut_ss (qs := qs) x ?_ ?_; rotate_left; intro hfun; clear_value x; rotate_left; unfold x)
    | (intro x; refine keep_cut_ass (qs := qs) x ?_ ?_; rotate_left; intro hfun; clear_value x; rotate_left; unfold x)
    | (intro x; refine keep_cut_abss (qs := qs) x ?_ ?_; rotate_left; intro hfun; clear_value x; rotate_left; unfold x)
    | (intro x; refine keep_cut_a (qs := qs) x ?_ ?_; rotate_left; intro hfun; clear_value x; rotate_left; unfold x)
    | (intro x; refine keep_cut_ab (qs := qs) x ?_ ?_; rotate_left; intro hfun; clear_value x; rotate_left; unfold x)
    | (intro x; refine keep_cut_abc (qs := qs) x ?_ ?_; rotate_left; intro hfun; clear_value x; rotate_left; unfold x)
    | (intro x; refine keep_cut_o1 (qs := qs) x ?_ ?_; rotate_left; intro hopt; clear_value x; rotate_left; unfold x)
    | (intro x; refine keep_cut_o (qs := qs) x ?_ ?_; rotate_left; intro hopt; clear_value x; rotate_left; unfold x)
    | (with_reducible refine hopt _ (by assumption))
    | (with_reducible exact hopt _ rfl)
    | (intro x; refine keep_cut_snd (qs := qs) x ?_ ?_; rotate_left; intro _; clear_value x; rotate_left; unfold x)
    | (intro x; clear_value x)
    | (with_reducible apply hfun)
    | (intro _)
    | split
    | (with_reducible apply AnswerKeeps.next)
    | (simp only [keep_mk, List.length_modify, List.length_map, List.length_replicate, List.length_zip, List.length_range, List.length_mapIdx, Nat.min_self])
    | (with_reducible apply Keep.toV)
    | (with_reducible apply keepV_roods)
    | (with_reducible apply keep_getD)
    | (with_reducible refine keepV_mem_nil hs ?_ ?_ ?_ ?_ ?_ ?_ ?_ ?_)
    | (rename_i he; split at he)
    | (rename_i he; injection he with he; subst he)

theorem loseSession_keeps {qs : List Instr} (w : BootWorld) (s : State) (hs : Keep qs s) : Keep qs (loseSession w s) := by
  delta loseSession
  repeat' first
    | (with_reducible assumption)
    | (with_reducible rfl)
    | (with_reducible apply logEth_keeps)
    | (with_reducible apply leaveDebug_keeps)
    | (with_reducible apply endSession_keeps)
    | (with_reducible apply leaveOrderly_keeps)
    | (with_reducible apply orphan_keeps)
    | (with_reducible refine fun _ => ?_)
    | lift_lets
    | (intro x; refine keep_cut (qs := qs) x ?_ ?_; rotate_left; intro _; clear_value x; rotate_left; unfold x)
    | (intro x; refine keep_cut_ss (qs := qs) x ?_ ?_; rotate_left; intro hfun; clear_value x; rotate_left; unfold x)
    | (intro x; refine keep_cut_ass (qs := qs) x ?_ ?_; rotate_left; intro hfun; clear_value x; rotate_left; unfold x)
    | (intro x; refine keep_cut_abss (qs := qs) x ?_ ?_; rotate_left; intro hfun; clear_value x; rotate_left; unfold x)
    | (intro x; refine keep_cut_a (qs := qs) x ?_ ?_; rotate_left; intro hfun; clear_value x; rotate_left; unfold x)
    | (intro x; refine keep_cut_ab (qs := qs) x ?_ ?_; rotate_left; intro hfun; clear_value x; rotate_left; unfold x)
    | (intro x; refine keep_cut_abc (qs := qs) x ?_ ?_; rotate_left; intro hfun; clear_value x; rotate_left; unfold x)
    | (intro x; refine keep_cut_o1 (qs := qs) x ?_ ?_; rotate_left; intro hopt; clear_value x; rotate_left; unfold x)
    | (intro x; refine keep_cut_o (qs := qs) x ?_ ?_; rotate_left; intro hopt; clear_value x; rotate_left; unfold x)
    | (with_reducible refine hopt _ (by assumption))
    | (with_reducible exact hopt _ rfl)
    | (intro x; refine keep_cut_snd (qs := qs) x ?_ ?_; rotate_left; intro _; clear_value x; rotate_left; unfold x)
    | (intro x; clear_value x)
    | (with_reducible apply hfun)
    | (intro _)
    | split
    | (with_reducible apply AnswerKeeps.next)
    | (simp only [keep_mk, List.length_modify, List.length_map, List.length_replicate, List.length_zip, List.length_range, List.length_mapIdx, Nat.min_self])
    | (with_reducible apply Keep.toV)
    | (with_reducible apply keepV_roods)
    | (with_reducible apply keep_getD)
    | (with_reducible refine keepV_mem_nil hs ?_ ?_ ?_ ?_ ?_ ?_ ?_ ?_)
    | (rename_i he; split at he)
    | (rename_i he; injection he with he; subst he)

theorem execWindowRead_keeps {qs : List Instr} (m : WinMsg) (s : State) (hs : Keep qs s) : AnswerKeeps qs (execWindowRead m s) := by
  delta execWindowRead
  repeat' first
    | (with_reducible assumption)
    | (with_reducible apply winRead_keeps)
    | (with_reducible apply AnswerKeeps.next)

theorem execWindowWrite_keeps {qs : List Instr} (m : WinMsg) (s : State) (hs : Keep qs s) : AnswerKeeps qs (execWindowWrite m s) := by
  delta execWindowWrite
  repeat' first
    | (with_reducible assumption)
    | (with_reducible apply winWrite_keeps)
    | (with_reducible apply AnswerKeeps.next)

theorem execWriteMasked_keeps {qs : List Instr} (m : WinMsg) (s : State) (hs : Keep qs s) : AnswerKeeps qs (execWriteMasked m s) := by
  delta execWriteMasked
  repeat' first
    | (with_reducible assumption)
    | (with_reducible apply winWrite_keeps)
    | (with_reducible apply AnswerKeeps.next)

theorem execKeepalive_keeps {qs : List Instr} (m : WinMsg) (s : State) (hs : Keep qs s) : AnswerKeeps qs (execKeepalive m s) := by
  delta execKeepalive
  repeat' first
    | (with_reducible assumption)
    | (with_reducible apply winReply_keeps)
    | (with_reducible apply onMessage_keeps)
    | (with_reducible apply AnswerKeeps.next)

theorem execAttach_keeps {qs : List Instr} (m : WinMsg) (data : List Byte) (s : State) (hs : Keep qs s) : AnswerKeeps qs (execAttach m data s) := by
  delta execAttach
  repeat' first
    | (with_reducible assumption)
    | (with_reducible apply attachSession_keeps)
    | (with_reducible apply AnswerKeeps.next)

theorem execAttachTimeout_keeps {qs : List Instr} (s : State) (hs : Keep qs s) : AnswerKeeps qs (execAttachTimeout s) := by
  delta execAttachTimeout
  repeat' first
    | (with_reducible assumption)
    | (with_reducible apply attachLate_keeps)
    | (with_reducible apply AnswerKeeps.next)

theorem execDetach_keeps {qs : List Instr} (m : WinMsg) (s : State) (hs : Keep qs s) : AnswerKeeps qs (execDetach m s) := by
  delta execDetach
  repeat' first
    | (with_reducible assumption)
    | (with_reducible apply detachSession_keeps)
    | (with_reducible apply AnswerKeeps.next)

theorem execSessionLoss_keeps {qs : List Instr} (w : BootWorld) (s : State) (hs : Keep qs s) : AnswerKeeps qs (execSessionLoss w s) := by
  delta execSessionLoss
  repeat' first
    | (with_reducible assumption)
    | (with_reducible apply loseSession_keeps)
    | (with_reducible apply AnswerKeeps.next)

theorem execWinApbase_keeps {qs : List Instr} (window path : Nat) (v : Word) (s : State) (hs : Keep qs s) : AnswerKeeps qs (execWinApbase window path v s) := by
  delta execWinApbase
  repeat' first
    | (with_reducible assumption)
    | (with_reducible apply putApbase_keeps)
    | split
    | (with_reducible apply AnswerKeeps.next)

theorem execWinEvtTail_keeps {qs : List Instr} (v : Word) (s : State) (hs : Keep qs s) : AnswerKeeps qs (execWinEvtTail v s) := by
  delta execWinEvtTail
  repeat' first
    | (with_reducible assumption)
    | (with_reducible apply writeModulePage_keeps)
    | split
    | (with_reducible apply AnswerKeeps.next)

theorem execWinMapSel_keeps {qs : List Instr} (v : Word) (s : State) (hs : Keep qs s) : AnswerKeeps qs (execWinMapSel v s) := by
  delta execWinMapSel
  repeat' first
    | (with_reducible assumption)
    | (with_reducible apply writeModulePage_keeps)
    | split
    | (with_reducible apply AnswerKeeps.next)

theorem execWinRplSel_keeps {qs : List Instr} (r mbox : Nat) (v : Word) (s : State) (hs : Keep qs s) : AnswerKeeps qs (execWinRplSel r mbox v s) := by
  delta execWinRplSel
  repeat' first
    | (with_reducible assumption)
    | (with_reducible apply selectReply_keeps)
    | split
    | (with_reducible apply AnswerKeeps.next)

theorem execWinDigSel_keeps {qs : List Instr} (r : Nat) (v : Word) (s : State) (hs : Keep qs s) : AnswerKeeps qs (execWinDigSel r v s) := by
  delta execWinDigSel
  repeat' first
    | (with_reducible assumption)
    | (with_reducible apply writeRoodPage_keeps)
    | split
    | (with_reducible apply AnswerKeeps.next)

theorem execQpRead_keeps {qs : List Instr} (r : Nat) (s : State) (hs : Keep qs s) : AnswerKeeps qs (execQpRead r s) := by
  delta execQpRead
  repeat' first
    | (with_reducible assumption)
    | (with_reducible apply readQp_keeps)
    | (with_reducible apply AnswerKeeps.next)

theorem execQpCreate_keeps {qs : List Instr} (r : Nat) (s : State) (hs : Keep qs s) : AnswerKeeps qs (execQpCreate r s) := by
  delta execQpCreate
  repeat' first
    | (with_reducible assumption)
    | (with_reducible apply createQp_keeps)
    | (with_reducible apply AnswerKeeps.next)

theorem execQpModify_keeps {qs : List Instr} (r : Nat) (s : State) (hs : Keep qs s) : AnswerKeeps qs (execQpModify r s) := by
  delta execQpModify
  repeat' first
    | (with_reducible assumption)
    | (with_reducible apply modifyQp_keeps)
    | (with_reducible apply AnswerKeeps.next)

theorem execQpDelete_keeps {qs : List Instr} (r : Nat) (s : State) (hs : Keep qs s) : AnswerKeeps qs (execQpDelete r s) := by
  delta execQpDelete
  repeat' first
    | (with_reducible assumption)
    | (with_reducible apply deleteQp_keeps)
    | (with_reducible apply AnswerKeeps.next)

theorem execXrRead_keeps {qs : List Instr} (r h : Nat) (s : State) (hs : Keep qs s) : AnswerKeeps qs (execXrRead r h s) := by
  delta execXrRead
  repeat' first
    | (with_reducible assumption)
    | (with_reducible apply readXr_keeps)
    | (with_reducible apply AnswerKeeps.next)

theorem execXrCreate_keeps {qs : List Instr} (r : Nat) (s : State) (hs : Keep qs s) : AnswerKeeps qs (execXrCreate r s) := by
  delta execXrCreate
  repeat' first
    | (with_reducible assumption)
    | (with_reducible apply createXr_keeps)
    | (with_reducible apply AnswerKeeps.next)

theorem execXrDelete_keeps {qs : List Instr} (r h : Nat) (s : State) (hs : Keep qs s) : AnswerKeeps qs (execXrDelete r h s) := by
  delta execXrDelete
  repeat' first
    | (with_reducible assumption)
    | (with_reducible apply deleteXr_keeps)
    | (with_reducible apply AnswerKeeps.next)

end Sys2Proof.Laws
end

