-- ==== Sys2Proof/Laws/KeepExec.lean ====
section
/-! SUPPORT. What every command keeps: Laws/Keep.lean for each arm of exec. -/
namespace Sys2Proof.Laws

open Sys2Proof.Machine

/-- No command touches the commands that wait, leaves the clock grid, breaks the canonical form of a memory, the bound of the event ring or
the shape of the module. -/
theorem exec_keeps (qs : List Instr) (i : Instr) (s : State) (hs : Keep qs s) : AnswerKeeps qs (exec i s) := by
  cases i with
  | powerOn w => exact execPowerOn_keeps w s hs
  | stepRetry w => exact execStepRetry_keeps w s hs
  | pinReset => exact execPinReset_keeps s hs
  | resetPinGlitch low => exact execResetPinGlitch_keeps low s hs
  | watchdogReset w => exact execWatchdogReset_keeps w s hs
  | thermalShutdown u w => exact execThermalShutdown_keeps u w s hs
  | undervoltage => exact execUndervoltage_keeps s hs
  | overvoltageDisconnect => exact execOvervoltageDisconnect_keeps s hs
  | standbyLost => exact execStandbyLost_keeps s hs
  | inputLow => exact execInputLow_keeps s hs
  | inputLowClear => exact execInputLowClear_keeps s hs
  | refclkLoss => exact execRefclkLoss_keeps s hs
  | ppsInEdge high => exact execPpsInEdge_keeps high s hs
  | module w => exact execModule_keeps w s hs
  | cold w => exact execCold_keeps w s hs
  | clearRemedies => exact execClearRemedies_keeps s hs
  | retrySafe w => exact execRetrySafe_keeps w s hs
  | writePage page => exact execWritePage_keeps page s hs
  | commit a b => exact execCommit_keeps a b s hs
  | bootLedgerSel v => exact execBootLedgerSel_keeps v s hs
  | registerWrite addr v => exact execRegisterWrite_keeps addr v s hs
  | powerLoopPeriod p => exact execPowerLoopPeriod_keeps p s hs
  | fastLimiter avg => exact execFastLimiter_keeps avg s hs
  | thermalLoopPeriod u junction dram => exact execThermalLoopPeriod_keeps u junction dram s hs
  | junctionHot u t => exact execJunctionHot_keeps u t s hs
  | dramHot k t => exact execDramHot_keeps k t s hs
  | fwcPwrCap v => exact execFwcPwrCap_keeps v s hs
  | reqP4 => exact execReqP4_keeps s hs
  | reqP0 ifsUp links => exact execReqP0_keeps ifsUp links s hs
  | floorDelay => exact execFloorDelay_keeps s hs
  | warmDelay => exact execWarmDelay_keeps s hs
  | wake cause => exact execWake_keeps cause s hs
  | activate v => exact execActivate_keeps v s hs
  | cancel => exact execCancel_keeps s hs
  | booting compatible => exact execBooting_keeps compatible s hs
  | takeover => exact execTakeover_keeps s hs
  | confirming => exact execConfirming_keeps s hs
  | handoffRolledBack => exact execHandoffRolledBack_keeps s hs
  | heartbeatCheck missed => exact execHeartbeatCheck_keeps missed s hs
  | coreSpareIn k => exact execCoreSpareIn_keeps k s hs
  | fatal cause => exact execFatal_keeps cause s hs
  | submissionFetch => exact execSubmissionFetch_keeps s hs
  | dispatch d => exact execDispatch_keeps d s hs
  | descriptorStart d => exact execDescriptorStart_keeps d s hs
  | deadlineTimeout d => exact execDeadlineTimeout_keeps d s hs
  | settleInterval t => exact execSettleInterval_keeps t s hs
  | descriptorComplete d => exact execDescriptorComplete_keeps d s hs
  | run d => exact execRun_keeps d s hs
  | tunPass d => exact execTunPass_keeps d s hs
  | firkinPass d => exact execFirkinPass_keeps d s hs
  | combArm d => exact execCombArm_keeps d s hs
  | sync d => exact execSync_keeps d s hs
  | k1Split d => exact execK1Split_keeps d s hs
  | loadStream d => exact execLoadStream_keeps d s hs
  | storeStream d => exact execStoreStream_keeps d s hs
  | moveStream d => exact execMoveStream_keeps d s hs
  | xferWrite d => exact execXferWrite_keeps d s hs
  | xferRead d => exact execXferRead_keeps d s hs
  | xferPartial d => exact execXferPartial_keeps d s hs
  | tiIssue c n rd rs1 => exact execTiIssue_keeps c n rd rs1 s hs
  | tiWait c n rd rs1 => exact execTiWait_keeps c n rd rs1 s hs
  | tiPoll c n rd rs1 => exact execTiPoll_keeps c n rd rs1 s hs
  | tiFence c n => exact execTiFence_keeps c n s hs
  | tiScw c n rs1 rs2 => exact execTiScw_keeps c n rs1 rs2 s hs
  | tiScr c n rd rs1 => exact execTiScr_keeps c n rd rs1 s hs
  | tiSumrd c n rd rs1 => exact execTiSumrd_keeps c n rd rs1 s hs
  | tiSumst c n rd rs1 => exact execTiSumst_keeps c n rd rs1 s hs
  | tiSumwait c n rs1 rs2 => exact execTiSumwait_keeps c n rs1 rs2 s hs
  | tiRod c n rd => exact execTiRod_keeps c n rd s hs
  | tiRodwait c n rd rs1 => exact execTiRodwait_keeps c n rd rs1 s hs
  | tiSyncrd c n rd rs1 => exact execTiSyncrd_keeps c n rd rs1 s hs
  | tiSyncadd c n rs1 rs2 => exact execTiSyncadd_keeps c n rs1 rs2 s hs
  | tiSyncset c n rs1 rs2 => exact execTiSyncset_keeps c n rs1 rs2 s hs
  | tiExit c n rs1 => exact execTiExit_keeps c n rs1 s hs
  | coreWaitWake c n => exact execCoreWaitWake_keeps c n s hs
  | coreTrap c n kind mcause addr => exact execCoreTrap_keeps c n kind mcause addr s hs
  | tunPassStart c => exact execTunPassStart_keeps c s hs
  | initLoadDone c b => exact execInitLoadDone_keeps c b s hs
  | tunLastProduct c b => exact execTunLastProduct_keeps c b s hs
  | tunSpillDone c b => exact execTunSpillDone_keeps c b s hs
  | load c => exact execLoad_keeps c s hs
  | store c => exact execStore_keeps c s hs
  | copy c => exact execCopy_keeps c s hs
  | add c => exact execAdd_keeps c s hs
  | sub c => exact execSub_keeps c s hs
  | mul c => exact execMul_keeps c s hs
  | fma c => exact execFma_keeps c s hs
  | abs c => exact execAbs_keeps c s hs
  | neg c => exact execNeg_keeps c s hs
  | min c => exact execMin_keeps c s hs
  | max c => exact execMax_keeps c s hs
  | cmplt c => exact execCmplt_keeps c s hs
  | cmple c => exact execCmple_keeps c s hs
  | cmpeq c => exact execCmpeq_keeps c s hs
  | sel c => exact execSel_keeps c s hs
  | exp2 c => exact execExp2_keeps c s hs
  | log2 c => exact execLog2_keeps c s hs
  | rcp c => exact execRcp_keeps c s hs
  | rsqrt c => exact execRsqrt_keeps c s hs
  | tanh c => exact execTanh_keeps c s hs
  | sum c => exact execSum_keeps c s hs
  | sumsq c => exact execSumsq_keeps c s hs
  | maxr c => exact execMaxr_keeps c s hs
  | minr c => exact execMinr_keeps c s hs
  | argmax c => exact execArgmax_keeps c s hs
  | countnf c => exact execCountnf_keeps c s hs
  | accrd c => exact execAccrd_keeps c s hs
  | release c => exact execRelease_keeps c s hs
  | spill c => exact execSpill_keeps c s hs
  | shardResident c => exact execShardResident_keeps c s hs
  | combination c j => exact execCombination_keeps c j s hs
  | combTimeout c j => exact execCombTimeout_keeps c j s hs
  | clusterFailed c cause => exact execClusterFailed_keeps c cause s hs
  | clusterSpareIn c => exact execClusterSpareIn_keeps c s hs
  | repeatFailure u cause => exact execRepeatFailure_keeps u cause s hs
  | spareSelftest stack pass step => exact execSpareSelftest_keeps stack pass step s hs
  | lockSet k j => exact execLockSet_keeps k j s hs
  | lockReleased k j => exact execLockReleased_keeps k j s hs
  | firkinPassRun k e => exact execFirkinPassRun_keeps k e s hs
  | firkinPassComplete k e => exact execFirkinPassComplete_keeps k e s hs
  | passRerun k e word => exact execPassRerun_keeps k e word s hs
  | weightRefetch k e addr => exact execWeightRefetch_keeps k e addr s hs
  | engineFailed k e cause => exact execEngineFailed_keeps k e cause s hs
  | spareIn k e => exact execSpareIn_keeps k e s hs
  | streamContextStart d => exact execStreamContextStart_keeps d s hs
  | portGrant port => exact execPortGrant_keeps port s hs
  | bushelPlaced x n => exact execBushelPlaced_keeps x n s hs
  | slotRelease x slot => exact execSlotRelease_keeps x slot s hs
  | streamComplete x => exact execStreamComplete_keeps x s hs
  | streamHalt x n cause => exact execStreamHalt_keeps x n cause s hs
  | streamResume x => exact execStreamResume_keeps x s hs
  | streamUnresolved x => exact execStreamUnresolved_keeps x s hs
  | bucketApply r t => exact execBucketApply_keeps r t s hs
  | stackUncorrectable addr checksum goodCopy => exact execStackUncorrectable_keeps addr checksum goodCopy s hs
  | recoveryWrite addr image => exact execRecoveryWrite_keeps addr image s hs
  | pchMarked k p => exact execPchMarked_keeps k p s hs
  | readDisturbRelocate block => exact execReadDisturbRelocate_keeps block s hs
  | readOnly free => exact execReadOnly_keeps free s hs
  | dieFailed phys lost => exact execDieFailed_keeps phys lost s hs
  | eraseDone r => exact execEraseDone_keeps r s hs
  | baseLoad r w => exact execBaseLoad_keeps r w s hs
  | baseFlip r => exact execBaseFlip_keeps r s hs
  | flipTakesEffect r => exact execFlipTakesEffect_keeps r s hs
  | baseSwap r => exact execBaseSwap_keeps r s hs
  | swapLoad r w => exact execSwapLoad_keeps r w s hs
  | admissionResumed r => exact execAdmissionResumed_keeps r s hs
  | baseRelease r => exact execBaseRelease_keeps r s hs
  | baseGone r epoch => exact execBaseGone_keeps r epoch s hs
  | baseRepair r images => exact execBaseRepair_keeps r images s hs
  | adapterPut r => exact execAdapterPut_keeps r s hs
  | adapterDrop r => exact execAdapterDrop_keeps r s hs
  | prefetch p => exact execPrefetch_keeps p s hs
  | adapterEntryResident slot version image => exact execAdapterEntryResident_keeps slot version image s hs
  | versionFaulted slot version => exact execVersionFaulted_keeps slot version s hs
  | versionFlip slot => exact execVersionFlip_keeps slot s hs
  | versionRetire slot => exact execVersionRetire_keeps slot s hs
  | trainBind r => exact execTrainBind_keeps r s hs
  | trainSet r => exact execTrainSet_keeps r s hs
  | trainUnbind r => exact execTrainUnbind_keeps r s hs
  | trainBound b img => exact execTrainBound_keeps b img s hs
  | stepStart b => exact execStepStart_keeps b s hs
  | bwdStart b => exact execBwdStart_keeps b s hs
  | producerWrite b v => exact execProducerWrite_keeps b v s hs
  | gacc b readable => exact execGacc_keeps b readable s hs
  | closeDeadline b => exact execCloseDeadline_keeps b s hs
  | gather b step => exact execGather_keeps b step s hs
  | gatherTimeout b => exact execGatherTimeout_keeps b s hs
  | normPartial b => exact execNormPartial_keeps b s hs
  | normPartialReceive b head cnt ss spoiled => exact execNormPartialReceive_keeps b head cnt ss spoiled s hs
  | normTimeout b => exact execNormTimeout_keeps b s hs
  | update b clip => exact execUpdate_keeps b clip s hs
  | updateSkipped b cause => exact execUpdateSkipped_keeps b cause s hs
  | updateDone b stage => exact execUpdateDone_keeps b stage s hs
  | flipRod b rod => exact execFlipRod_keeps b rod s hs
  | flipTimeout b => exact execFlipTimeout_keeps b s hs
  | snapshot b kind done => exact execSnapshot_keeps b kind done s hs
  | protect r => exact execProtect_keeps r s hs
  | restore r views => exact execRestore_keeps r views s hs
  | declareLost r => exact execDeclareLost_keeps r s hs
  | remap r => exact execRemap_keeps r s hs
  | rodSyncSend => exact execRodSyncSend_keeps s hs
  | rodSyncReceive p => exact execRodSyncReceive_keeps p s hs
  | timeHoldover => exact execTimeHoldover_keeps s hs
  | timeUncertain => exact execTimeUncertain_keeps s hs
  | ptpSync offset => exact execPtpSync_keeps offset s hs
  | masterTakeover => exact execMasterTakeover_keeps s hs
  | planApply r rod => exact execPlanApply_keeps r rod s hs
  | planApplied r => exact execPlanApplied_keeps r s hs
  | linkTraining l res => exact execLinkTraining_keeps l res s hs
  | linkRetrain l cause res => exact execLinkRetrain_keeps l cause res s hs
  | linkRetry l res => exact execLinkRetry_keeps l res s hs
  | linkFailed l loopbackPass => exact execLinkFailed_keeps l loopbackPass s hs
  | linkSubstitute l res => exact execLinkSubstitute_keeps l res s hs
  | flitReceive l flit => exact execFlitReceive_keeps l flit s hs
  | replayReq l seq => exact execReplayReq_keeps l seq s hs
  | xferInject x => exact execXferInject_keeps x s hs
  | write p => exact execWrite_keeps p s hs
  | read p => exact execRead_keeps p s hs
  | readResp p => exact execReadResp_keeps p s hs
  | partial_ p => exact execPartial_keeps p s hs
  | earlyPartialExpire k => exact execEarlyPartialExpire_keeps k s hs
  | transferComplete src xslot => exact execTransferComplete_keeps src xslot s hs
  | done p => exact execDone_keeps p s hs
  | resend p => exact execResend_keeps p s hs
  | transferRetry x => exact execTransferRetry_keeps x s hs
  | epochReady p => exact execEpochReady_keeps p s hs
  | epochFlip p => exact execEpochFlip_keeps p s hs
  | versionFault p => exact execVersionFault_keeps p s hs
  | ethLinkUp j => exact execEthLinkUp_keeps j s hs
  | ethLinkDown j => exact execEthLinkDown_keeps j s hs
  | espReceive p => exact execEspReceive_keeps p s hs
  | quarantineEnd iface ip => exact execQuarantineEnd_keeps iface ip s hs
  | rdmaWrite q addr rkey data => exact execRdmaWrite_keeps q addr rkey data s hs
  | rdmaRead q addr rkey len => exact execRdmaRead_keeps q addr rkey len s hs
  | score q imm => exact execScore_keeps q imm s hs
  | doorbell q imm addr rkey data => exact execDoorbell_keeps q imm addr rkey data s hs
  | register q msg => exact execRegister_keeps q msg s hs
  | deregister q msg => exact execDeregister_keeps q msg s hs
  | requestDeadline h => exact execRequestDeadline_keeps h s hs
  | verdict h data => exact execVerdict_keeps h data s hs
  | ackReceive q psn => exact execAckReceive_keeps q psn s hs
  | remoteNak q => exact execRemoteNak_keeps q s hs
  | ackTimeout q => exact execAckTimeout_keeps q s hs
  | cnpReceive q => exact execCnpReceive_keeps q s hs
  | cnpRateRecover q => exact execCnpRateRecover_keeps q s hs
  | storeReadResponse x n image => exact execStoreReadResponse_keeps x n image s hs
  | windowRead m => exact execWindowRead_keeps m s hs
  | windowWrite m => exact execWindowWrite_keeps m s hs
  | writeMasked m => exact execWriteMasked_keeps m s hs
  | keepalive m => exact execKeepalive_keeps m s hs
  | attach m data => exact execAttach_keeps m data s hs
  | attachTimeout => exact execAttachTimeout_keeps s hs
  | detach m => exact execDetach_keeps m s hs
  | sessionLoss w => exact execSessionLoss_keeps w s hs
  | winApbase window path v => exact execWinApbase_keeps window path v s hs
  | winEvtTail v => exact execWinEvtTail_keeps v s hs
  | winMapSel v => exact execWinMapSel_keeps v s hs
  | winRplSel r mbox v => exact execWinRplSel_keeps r mbox v s hs
  | winDigSel r v => exact execWinDigSel_keeps r v s hs
  | qpRead r => exact execQpRead_keeps r s hs
  | qpCreate r => exact execQpCreate_keeps r s hs
  | qpModify r => exact execQpModify_keeps r s hs
  | qpDelete r => exact execQpDelete_keeps r s hs
  | xrRead r h => exact execXrRead_keeps r h s hs
  | xrCreate r => exact execXrCreate_keeps r s hs
  | xrDelete r h => exact execXrDelete_keeps r h s hs
  | create r => exact execCreate_keeps r s hs
  | roodCreated r => exact execRoodCreated_keeps r s hs
  | reset r => exact execReset_keeps r s hs
  | remove r => exact execRemove_keeps r s hs
  | roodResetDone r => exact execRoodResetDone_keeps r s hs
  | roodResizeApply r rod => exact execRoodResizeApply_keeps r rod s hs
  | resizeApplied r => exact execResizeApplied_keeps r s hs
  | unitJoinsRood u => exact execUnitJoinsRood_keeps u s hs
  | tableRead r tbl idx => exact execTableRead_keeps r tbl idx s hs
  | tableWrite r tbl idx => exact execTableWrite_keeps r tbl idx s hs
  | tableDelete r tbl idx => exact execTableDelete_keeps r tbl idx s hs
  | sliceScrub c d => exact execSliceScrub_keeps c d s hs
  | saIn blob => exact execSaIn_keeps blob s hs
  | saOut blob => exact execSaOut_keeps blob s hs
  | debugKey blob => exact execDebugKey_keeps blob s hs
  | destroySa blob => exact execDestroySa_keeps blob s hs
  | destroyNs blob => exact execDestroyNs_keeps blob s hs
  | tombstoneExpire sa => exact execTombstoneExpire_keeps sa s hs
  | secNonce => exact execSecNonce_keeps s hs
  | request => exact execRequest_keeps s hs
  | select object piece => exact execSelect_keeps object piece s hs
  | enterD1 => exact execEnterD1_keeps s hs
  | present => exact execPresent_keeps s hs
  | leave target => exact execLeave_keeps target s hs
  | d2Expiry => exact execD2Expiry_keeps s hs
  | toS1 => exact execToS1_keeps s hs
  | toS2 => exact execToS2_keeps s hs
  | toS3 => exact execToS3_keeps s hs
  | debugRead => exact execDebugRead_keeps s hs
  | debugWrite => exact execDebugWrite_keeps s hs
  | core => exact execCore_keeps s hs
  | sysResetNRelease w => exact execSysResetNRelease_keeps w s hs
  | flagCleared u bit t => exact execFlagCleared_keeps u bit t s hs
  | rnrNak q => exact execRnrNak_keeps q s hs
  | leaveP3ForStepStart b => exact execLeaveP3ForStepStart_keeps b s hs
  | clearFaults => exact execClearFaults_keeps s hs
  | jtagInstruction ir => exact execJtagInstruction_keeps ir s hs
  | ppsOutEdge => exact execPpsOutEdge_keeps s hs

end Sys2Proof.Laws
end

