-- ==== Sys2Proof/WellFormed.lean ====
section
/-! DEFINITION. Which commands are well formed: every index within the part it names (01 R29 to R37, 05 R129, 04 R98,
07 R216, 11 R329, 12 R365, 17 R488). -/
namespace Sys2Proof

/-- A unit within the module. -/
def ThermalUnit.wf : ThermalUnit → Bool
  | .cluster c => c < 16
  | .stack s => s < 8

def FailUnit.wf : FailUnit → Bool
  | .cluster c => c < 16
  | .engine s e => s < 8 && e < 4

/-- Fields within their widths (11 Table 11.6). -/
def Packet.wf (p : Packet) : Bool :=
  p.typ < 16 && p.hop < 4 && p.via < 64 && p.dst < 4096 && p.src < 4096 && p.dstRood < 16 && p.srcRood < 16 && p.addr < 2 ^ 48 &&
    p.signalCtr < 256 && p.xslot < 8 && p.data.length ≤ 4608

/-- An interface, a domain number and an interval within their widths (10 Table 10.2). -/
def PtpMsg.wf (p : PtpMsg) : Bool := p.iface < 4 && p.domain < 256 && -128 ≤ p.log && p.log < 128

/-- A training takes at most 50 ms (11 R331). -/
def TrainResult.wf (r : TrainResult) : Bool := r.ticks ≤ 200000000

/-- A binding that exists, and a packet within its widths. -/
def StepMsg.wf (m : StepMsg) : Bool := m.bind < 256 && m.packet.wf

/-- Fields within their widths (09 R289). -/
def NormHead.wf (h : NormHead) : Bool := h.adapter < 2 ^ 64 && h.step < 2 ^ 64 && h.stage < 64

/-- Pseudo-channels of a stack, of which a codeword lies over 18, 8 symbols in each (07 R229). -/
def StackFault.wf : StackFault → Bool
  | .badChecksum => true
  | .codeword chans errs => chans.length == 18 && chans.all (· < 64) && errs.all fun e => chans.contains e.1 && e.2 ≤ 8

/-- A window, a path and a port that exist (17 R489, R490). -/
def WinMsg.wf (m : WinMsg) : Bool := m.window < 256 && m.path < 2 && m.port < 5

/-- Every index of the command is in its range. -/
def Instr.wf : Instr → Bool
  | .powerOn _ => true
  | .stepRetry _ => true
  | .pinReset => true
  | .resetPinGlitch _ => true
  | .watchdogReset _ => true
  | .thermalShutdown u _ => u.wf
  | .undervoltage => true
  | .overvoltageDisconnect => true
  | .standbyLost => true
  | .inputLow => true
  | .inputLowClear => true
  | .refclkLoss => true
  | .ppsInEdge _ => true
  | .module _ => true
  | .cold _ => true
  | .clearRemedies => true
  | .retrySafe _ => true
  | .writePage page => page < 32768
  | .commit _ _ => true
  | .bootLedgerSel _ => true
  | .registerWrite addr _ => addr < 0x10000000 && addr % 8 == 0
  | .powerLoopPeriod p => p.unshared.all (· < 26) && p.loaded.all (· < 26) && p.phases.all (·.1 < 26)
  | .fastLimiter _ => true
  | .thermalLoopPeriod u _ _ => u.wf
  | .junctionHot u _ => u.wf
  | .dramHot s _ => s < 8
  | .fwcPwrCap _ => true
  | .reqP4 => true
  | .reqP0 _ _ => true
  | .floorDelay => true
  | .warmDelay => true
  | .wake _ => true
  | .activate _ => true
  | .cancel => true
  | .booting _ => true
  | .takeover => true
  | .confirming => true
  | .handoffRolledBack => true
  | .heartbeatCheck missed => missed.all (· < 6)
  | .coreSpareIn k => k < 6
  | .fatal cause => cause < 256
  | .submissionFetch => true
  | .dispatch _ => true
  | .descriptorStart _ => true
  | .deadlineTimeout _ => true
  | .settleInterval _ => true
  | .descriptorComplete _ => true
  | .run _ => true
  | .tunPass _ => true
  | .firkinPass _ => true
  | .combArm _ => true
  | .sync _ => true
  | .k1Split _ => true
  | .loadStream _ => true
  | .storeStream _ => true
  | .moveStream _ => true
  | .xferWrite _ => true
  | .xferRead _ => true
  | .xferPartial _ => true
  | .tiIssue c n rd _ => c < 16 && n < 4 && rd < 32
  | .tiWait c n rd _ => c < 16 && n < 4 && rd < 32
  | .tiPoll c n rd _ => c < 16 && n < 4 && rd < 32
  | .tiFence c n => c < 16 && n < 4
  | .tiScw c n _ _ => c < 16 && n < 4
  | .tiScr c n rd _ => c < 16 && n < 4 && rd < 32
  | .tiSumrd c n rd _ => c < 16 && n < 4 && rd < 32
  | .tiSumst c n rd _ => c < 16 && n < 4 && rd < 32
  | .tiSumwait c n _ _ => c < 16 && n < 4
  | .tiRod c n rd => c < 16 && n < 4 && rd < 32
  | .tiRodwait c n rd _ => c < 16 && n < 4 && rd < 32
  | .tiSyncrd c n rd _ => c < 16 && n < 4 && rd < 32
  | .tiSyncadd c n _ _ => c < 16 && n < 4
  | .tiSyncset c n _ _ => c < 16 && n < 4
  | .tiExit c n _ => c < 16 && n < 4
  | .coreWaitWake c n => c < 16 && n < 4
  | .coreTrap c n _ _ _ => c < 16 && n < 4
  | .tunPassStart c => c < 16
  | .initLoadDone c b => c < 16 && b < 2
  | .tunLastProduct c b => c < 16 && b < 2
  | .tunSpillDone c b => c < 16 && b < 2
  | .load c => c < 16
  | .store c => c < 16
  | .copy c => c < 16
  | .add c => c < 16
  | .sub c => c < 16
  | .mul c => c < 16
  | .fma c => c < 16
  | .abs c => c < 16
  | .neg c => c < 16
  | .min c => c < 16
  | .max c => c < 16
  | .cmplt c => c < 16
  | .cmple c => c < 16
  | .cmpeq c => c < 16
  | .sel c => c < 16
  | .exp2 c => c < 16
  | .log2 c => c < 16
  | .rcp c => c < 16
  | .rsqrt c => c < 16
  | .tanh c => c < 16
  | .sum c => c < 16
  | .sumsq c => c < 16
  | .maxr c => c < 16
  | .minr c => c < 16
  | .argmax c => c < 16
  | .countnf c => c < 16
  | .accrd c => c < 16
  | .release c => c < 16
  | .spill c => c < 16
  | .shardResident c => c < 16
  | .combination c i => c < 16 && i < 16
  | .combTimeout c i => c < 16 && i < 16
  | .clusterFailed c cause => c < 16 && cause < 256
  | .clusterSpareIn c => c < 16
  | .repeatFailure u _ => u.wf
  | .spareSelftest stack _ _ => stack.all (· < 8)
  | .lockSet s i => s < 8 && i < 8
  | .lockReleased s i => s < 8 && i < 8
  | .firkinPassRun s e => s < 8 && e < 4
  | .firkinPassComplete s e => s < 8 && e < 4
  | .passRerun s e _ => s < 8 && e < 4
  | .weightRefetch s e addr => s < 8 && e < 4 && addr < 2 ^ 48
  | .engineFailed s e cause => s < 8 && e < 4 && cause < 256
  | .spareIn s e => s < 8 && e < 4
  | .streamContextStart _ => true
  | .portGrant port => port < 11
  | .bushelPlaced x _ => x < 1024
  | .slotRelease x _ => x < 1024
  | .streamComplete x => x < 1024
  | .streamHalt x _ _ => x < 1024
  | .streamResume x => x < 1024
  | .streamUnresolved x => x < 1024
  | .bucketApply r t => r < 16 && t < 5
  | .stackUncorrectable addr f _ => addr < 2 ^ 48 && f.wf
  | .recoveryWrite addr _ => addr < 2 ^ 48
  | .pchMarked s p => s < 8 && p < 64
  | .readDisturbRelocate _ => true
  | .readOnly _ => true
  | .dieFailed phys _ => phys < 32
  | .eraseDone r => r < 16
  | .baseLoad r _ => r < 16
  | .baseFlip r => r < 16
  | .flipTakesEffect r => r < 16
  | .baseSwap r => r < 16
  | .swapLoad r _ => r < 16
  | .admissionResumed r => r < 16
  | .baseRelease r => r < 16
  | .baseGone r _ => r < 16
  | .baseRepair r _ => r < 16
  | .adapterPut r => r < 16
  | .adapterDrop r => r < 16
  | .prefetch p => p.wf
  | .adapterEntryResident slot version _ => slot < 16384 && version < 2 ^ 32
  | .versionFaulted slot version => slot < 16384 && version < 2 ^ 32
  | .versionFlip slot => slot < 16384
  | .versionRetire slot => slot < 16384
  | .trainBind r => r < 16
  | .trainSet r => r < 16
  | .trainUnbind r => r < 16
  | .trainBound b _ => b < 256
  | .stepStart b => b < 256
  | .bwdStart b => b < 256
  | .producerWrite b v => b < 256 && v < 2 ^ 32
  | .gacc b _ => b < 256
  | .closeDeadline b => b < 256
  | .gather b step => b < 256 && step < 2 ^ 64
  | .gatherTimeout b => b < 256
  | .normPartial b => b < 256
  | .normPartialReceive b head _ _ _ => b.wf && head.wf
  | .normTimeout b => b < 256
  | .update b _ => b.wf
  | .updateSkipped b cause => b.wf && cause < 256
  | .updateDone b stage => b.wf && stage < 64
  | .flipRod b rod => b.wf && rod < 2 ^ 48
  | .flipTimeout b => b < 256
  | .snapshot b kind _ => b < 256 && kind < 2
  | .protect r => r < 16
  | .restore r _ => r < 16
  | .declareLost r => r < 16
  | .remap r => r < 16
  | .rodSyncSend => true
  | .rodSyncReceive p => p.link < 96 && 1 ≤ p.k && p.k ≤ 12
  | .timeHoldover => true
  | .timeUncertain => true
  | .ptpSync p => p.wf
  | .masterTakeover => true
  | .planApply r rod => r < 16 && rod < 2 ^ 48
  | .planApplied r => r < 16
  | .linkTraining l res => l < 96 && res.wf
  | .linkRetrain l cause res => l < 96 && 2 ≤ cause && cause ≤ 4 && res.wf
  | .linkRetry l res => l < 96 && res.wf
  | .linkFailed l _ => l < 96
  | .linkSubstitute l res => l < 96 && res.wf
  | .flitReceive l flit => l < 96 && flit.length == 256
  | .replayReq l _ => l < 96
  | .xferInject _ => true
  | .write p => p.wf
  | .read p => p.wf
  | .readResp p => p.wf
  | .partial_ p => p.wf
  | .earlyPartialExpire _ => true
  | .transferComplete src xslot => src < 4096 && xslot < 8
  | .done p => p.wf
  | .resend p => p.wf
  | .transferRetry _ => true
  | .epochReady p => p.wf
  | .epochFlip p => p.wf
  | .versionFault p => p.wf
  | .ethLinkUp i => i < 4
  | .ethLinkDown i => i < 4
  | .espReceive p => p.iface < 4
  | .quarantineEnd iface _ => iface < 4
  | .rdmaWrite q _ _ data => q < 65536 && data.length ≤ 4096
  | .rdmaRead q _ _ _ => q < 65536
  | .score q imm => q < 65536 && imm < 2 ^ 32
  | .doorbell q imm _ _ _ => q < 65536 && imm < 2 ^ 32
  | .register q _ => q < 65536
  | .deregister q _ => q < 65536
  | .requestDeadline _ => true
  | .verdict _ data => data.length ≤ 524288
  | .ackReceive q psn => q < 65536 && psn < 2 ^ 24
  | .remoteNak q => q < 65536
  | .ackTimeout q => q < 65536
  | .cnpReceive q => q < 65536
  | .cnpRateRecover q => q < 65536
  | .storeReadResponse _ n _ => n < 4
  | .windowRead m => m.wf && m.op == 0x01
  | .windowWrite m => m.wf && m.op == 0x02
  | .writeMasked m => m.wf && m.op == 0x03
  | .keepalive m => m.wf && m.op == 0x10
  | .attach m _ => m.wf && m.op == 0x20
  | .attachTimeout => true
  | .detach m => m.wf && m.op == 0x21
  | .sessionLoss _ => true
  | .winApbase window path _ => window < 17 && path < 2
  | .winEvtTail _ => true
  | .winMapSel _ => true
  | .winRplSel r mbox _ => r < 16 && mbox < 2
  | .winDigSel r _ => r < 16
  | .qpRead r => r < 16
  | .qpCreate r => r < 16
  | .qpModify r => r < 16
  | .qpDelete r => r < 16
  | .xrRead r _ => r < 16
  | .xrCreate r => r < 16
  | .xrDelete r _ => r < 16
  | .create r => r < 16
  | .roodCreated r => r < 16
  | .reset r => r < 16
  | .remove r => r < 16
  | .roodResetDone r => r < 16
  | .roodResizeApply r rod => r < 16 && rod < 2 ^ 48
  | .resizeApplied r => r < 16
  | .unitJoinsRood u => u.wf
  | .tableRead r tbl idx => r < 16 && tbl < 16 && idx < 65536
  | .tableWrite r tbl idx => r < 16 && tbl < 16 && idx < 65536
  | .tableDelete r tbl idx => r < 16 && tbl < 16 && idx < 65536
  | .sliceScrub c _ => c < 16
  | .saIn blob => blob.length == 128
  | .saOut blob => blob.length == 128
  | .debugKey blob => blob.length == 128
  | .destroySa blob => blob.length == 128
  | .destroyNs blob => blob.length == 128
  | .tombstoneExpire sa => sa < 4096
  | .secNonce => true
  | .request => true
  | .select object piece => object < 4 && piece < 256
  | .enterD1 => true
  | .present => true
  | .leave target => target < 4
  | .d2Expiry => true
  | .toS1 => true
  | .toS2 => true
  | .toS3 => true
  | .debugRead => true
  | .debugWrite => true
  | .core => true
  | .sysResetNRelease _ => true
  | .flagCleared u _ _ => u.wf
  | .rnrNak q => q < 65536
  | .leaveP3ForStepStart b => b < 256
  | .clearFaults => true
  | .jtagInstruction ir => ir < 32
  | .ppsOutEdge => true

/-! The parts that a command names. -/

def ThermalUnit.inCluster : ThermalUnit → Option Nat
  | .cluster c => some c
  | .stack _ => none

def FailUnit.inCluster : FailUnit → Option Nat
  | .cluster c => some c
  | .engine _ _ => none

/-- The cluster that a command names. -/
def Instr.cluster : Instr → Option Nat
  | .thermalShutdown u _ => u.inCluster
  | .thermalLoopPeriod u _ _ => u.inCluster
  | .junctionHot u _ => u.inCluster
  | .tiIssue c _ _ _ => some c
  | .tiWait c _ _ _ => some c
  | .tiPoll c _ _ _ => some c
  | .tiFence c _ => some c
  | .tiScw c _ _ _ => some c
  | .tiScr c _ _ _ => some c
  | .tiSumrd c _ _ _ => some c
  | .tiSumst c _ _ _ => some c
  | .tiSumwait c _ _ _ => some c
  | .tiRod c _ _ => some c
  | .tiRodwait c _ _ _ => some c
  | .tiSyncrd c _ _ _ => some c
  | .tiSyncadd c _ _ _ => some c
  | .tiSyncset c _ _ _ => some c
  | .tiExit c _ _ => some c
  | .coreWaitWake c _ => some c
  | .coreTrap c _ _ _ _ => some c
  | .tunPassStart c => some c
  | .initLoadDone c _ => some c
  | .tunLastProduct c _ => some c
  | .tunSpillDone c _ => some c
  | .load c => some c
  | .store c => some c
  | .copy c => some c
  | .add c => some c
  | .sub c => some c
  | .mul c => some c
  | .fma c => some c
  | .abs c => some c
  | .neg c => some c
  | .min c => some c
  | .max c => some c
  | .cmplt c => some c
  | .cmple c => some c
  | .cmpeq c => some c
  | .sel c => some c
  | .exp2 c => some c
  | .log2 c => some c
  | .rcp c => some c
  | .rsqrt c => some c
  | .tanh c => some c
  | .sum c => some c
  | .sumsq c => some c
  | .maxr c => some c
  | .minr c => some c
  | .argmax c => some c
  | .countnf c => some c
  | .accrd c => some c
  | .release c => some c
  | .spill c => some c
  | .shardResident c => some c
  | .combination c _ => some c
  | .combTimeout c _ => some c
  | .clusterFailed c _ => some c
  | .clusterSpareIn c => some c
  | .repeatFailure u _ => u.inCluster
  | .unitJoinsRood u => u.inCluster
  | .sliceScrub c _ => some c
  | .flagCleared u _ _ => u.inCluster
  | _ => none

/-- The rood that a command names. -/
def Instr.rood : Instr → Option Nat
  | .bucketApply r _ => some r
  | .eraseDone r => some r
  | .baseLoad r _ => some r
  | .baseFlip r => some r
  | .flipTakesEffect r => some r
  | .baseSwap r => some r
  | .swapLoad r _ => some r
  | .admissionResumed r => some r
  | .baseRelease r => some r
  | .baseGone r _ => some r
  | .baseRepair r _ => some r
  | .adapterPut r => some r
  | .adapterDrop r => some r
  | .trainBind r => some r
  | .trainSet r => some r
  | .trainUnbind r => some r
  | .protect r => some r
  | .restore r _ => some r
  | .declareLost r => some r
  | .remap r => some r
  | .planApply r _ => some r
  | .planApplied r => some r
  | .winRplSel r _ _ => some r
  | .winDigSel r _ => some r
  | .qpRead r => some r
  | .qpCreate r => some r
  | .qpModify r => some r
  | .qpDelete r => some r
  | .xrRead r _ => some r
  | .xrCreate r => some r
  | .xrDelete r _ => some r
  | .create r => some r
  | .roodCreated r => some r
  | .reset r => some r
  | .remove r => some r
  | .roodResetDone r => some r
  | .roodResizeApply r _ => some r
  | .resizeApplied r => some r
  | .tableRead r _ _ => some r
  | .tableWrite r _ _ => some r
  | .tableDelete r _ _ => some r
  | _ => none

/-- The link that a command names. -/
def Instr.link : Instr → Option Nat
  | .linkTraining l _ => some l
  | .linkRetrain l _ _ => some l
  | .linkRetry l _ => some l
  | .linkFailed l _ => some l
  | .linkSubstitute l _ => some l
  | .flitReceive l _ => some l
  | .replayReq l _ => some l
  | _ => none

end Sys2Proof
end

