-- ==== Sys2Proof/Laws/PerInstr.lean ====
section
/-! SUPPORT. Per command: a well-formed command names only clusters, roods and links that exist (00 R24, 01 Table 1.1). -/
set_option Elab.async false

namespace Sys2Proof.Laws.WellFormed

/-- The cluster, the rood and the link that a well-formed command names exist. -/
def Statement (i : Instr) : Prop :=
  i.wf = true → (∀ c ∈ i.cluster, c < 16) ∧ (∀ r ∈ i.rood, r < 16) ∧ ∀ l ∈ i.link, l < 96

theorem of_unit {u : ThermalUnit} (h : u.wf = true) : ∀ c ∈ u.inCluster, c < 16 := by
  cases u <;> intro c e <;> cases e <;> simpa [ThermalUnit.wf] using h

theorem of_failUnit {u : FailUnit} (h : u.wf = true) : ∀ c ∈ u.inCluster, c < 16 := by
  cases u <;> intro c e <;> cases e <;> simpa [FailUnit.wf] using h

theorem powerOn (a0 : BootWorld) : Statement (.powerOn a0) := fun _ => ⟨nofun, nofun, nofun⟩
theorem stepRetry (a0 : BootWorld) : Statement (.stepRetry a0) := fun _ => ⟨nofun, nofun, nofun⟩
theorem pinReset : Statement .pinReset := fun _ => ⟨nofun, nofun, nofun⟩
theorem resetPinGlitch (a0 : Nat) : Statement (.resetPinGlitch a0) := fun _ => ⟨nofun, nofun, nofun⟩
theorem watchdogReset (a0 : BootWorld) : Statement (.watchdogReset a0) := fun _ => ⟨nofun, nofun, nofun⟩
theorem thermalShutdown (a0 : ThermalUnit) (a1 : BootWorld) : Statement (.thermalShutdown a0 a1) := fun h => ⟨of_unit h, nofun, nofun⟩
theorem undervoltage : Statement .undervoltage := fun _ => ⟨nofun, nofun, nofun⟩
theorem overvoltageDisconnect : Statement .overvoltageDisconnect := fun _ => ⟨nofun, nofun, nofun⟩
theorem standbyLost : Statement .standbyLost := fun _ => ⟨nofun, nofun, nofun⟩
theorem inputLow : Statement .inputLow := fun _ => ⟨nofun, nofun, nofun⟩
theorem inputLowClear : Statement .inputLowClear := fun _ => ⟨nofun, nofun, nofun⟩
theorem refclkLoss : Statement .refclkLoss := fun _ => ⟨nofun, nofun, nofun⟩
theorem ppsInEdge (a0 : Nat) : Statement (.ppsInEdge a0) := fun _ => ⟨nofun, nofun, nofun⟩
theorem module (a0 : BootWorld) : Statement (.module a0) := fun _ => ⟨nofun, nofun, nofun⟩
theorem cold (a0 : BootWorld) : Statement (.cold a0) := fun _ => ⟨nofun, nofun, nofun⟩
theorem clearRemedies : Statement .clearRemedies := fun _ => ⟨nofun, nofun, nofun⟩
theorem retrySafe (a0 : BootWorld) : Statement (.retrySafe a0) := fun _ => ⟨nofun, nofun, nofun⟩
theorem writePage (a0 : Nat) : Statement (.writePage a0) := fun _ => ⟨nofun, nofun, nofun⟩
theorem commit (a0 : SlotView) (a1 : SlotView) : Statement (.commit a0 a1) := fun _ => ⟨nofun, nofun, nofun⟩
theorem bootLedgerSel (a0 : Word) : Statement (.bootLedgerSel a0) := fun _ => ⟨nofun, nofun, nofun⟩
theorem registerWrite (a0 : Nat) (a1 : Word) : Statement (.registerWrite a0 a1) := fun _ => ⟨nofun, nofun, nofun⟩
theorem powerLoopPeriod (a0 : PowerReading) : Statement (.powerLoopPeriod a0) := fun _ => ⟨nofun, nofun, nofun⟩
theorem fastLimiter (a0 : Nat) : Statement (.fastLimiter a0) := fun _ => ⟨nofun, nofun, nofun⟩
theorem thermalLoopPeriod (a0 : ThermalUnit) (a1 : Nat) (a2 : Nat) : Statement (.thermalLoopPeriod a0 a1 a2) := fun h => ⟨of_unit h, nofun, nofun⟩
theorem junctionHot (a0 : ThermalUnit) (a1 : Nat) : Statement (.junctionHot a0 a1) := fun h => ⟨of_unit h, nofun, nofun⟩
theorem dramHot (a0 : Nat) (a1 : Nat) : Statement (.dramHot a0 a1) := fun _ => ⟨nofun, nofun, nofun⟩
theorem fwcPwrCap (a0 : Word) : Statement (.fwcPwrCap a0) := fun _ => ⟨nofun, nofun, nofun⟩
theorem reqP4 : Statement .reqP4 := fun _ => ⟨nofun, nofun, nofun⟩
theorem reqP0 (a0 : List Nat) (a1 : List LinkFound) : Statement (.reqP0 a0 a1) := fun _ => ⟨nofun, nofun, nofun⟩
theorem floorDelay : Statement .floorDelay := fun _ => ⟨nofun, nofun, nofun⟩
theorem warmDelay : Statement .warmDelay := fun _ => ⟨nofun, nofun, nofun⟩
theorem wake (a0 : WakeCause) : Statement (.wake a0) := fun _ => ⟨nofun, nofun, nofun⟩
theorem activate (a0 : SlotView) : Statement (.activate a0) := fun _ => ⟨nofun, nofun, nofun⟩
theorem cancel : Statement .cancel := fun _ => ⟨nofun, nofun, nofun⟩
theorem booting (a0 : Bool) : Statement (.booting a0) := fun _ => ⟨nofun, nofun, nofun⟩
theorem takeover : Statement .takeover := fun _ => ⟨nofun, nofun, nofun⟩
theorem confirming : Statement .confirming := fun _ => ⟨nofun, nofun, nofun⟩
theorem handoffRolledBack : Statement .handoffRolledBack := fun _ => ⟨nofun, nofun, nofun⟩
theorem heartbeatCheck (a0 : List Nat) : Statement (.heartbeatCheck a0) := fun _ => ⟨nofun, nofun, nofun⟩
theorem coreSpareIn (a0 : Nat) : Statement (.coreSpareIn a0) := fun _ => ⟨nofun, nofun, nofun⟩
theorem fatal (a0 : Nat) : Statement (.fatal a0) := fun _ => ⟨nofun, nofun, nofun⟩
theorem submissionFetch : Statement .submissionFetch := fun _ => ⟨nofun, nofun, nofun⟩
theorem dispatch (a0 : Nat) : Statement (.dispatch a0) := fun _ => ⟨nofun, nofun, nofun⟩
theorem descriptorStart (a0 : Nat) : Statement (.descriptorStart a0) := fun _ => ⟨nofun, nofun, nofun⟩
theorem deadlineTimeout (a0 : Nat) : Statement (.deadlineTimeout a0) := fun _ => ⟨nofun, nofun, nofun⟩
theorem settleInterval (a0 : TimeoutTarget) : Statement (.settleInterval a0) := fun _ => ⟨nofun, nofun, nofun⟩
theorem descriptorComplete (a0 : Nat) : Statement (.descriptorComplete a0) := fun _ => ⟨nofun, nofun, nofun⟩
theorem run (a0 : Nat) : Statement (.run a0) := fun _ => ⟨nofun, nofun, nofun⟩
theorem tunPass (a0 : Nat) : Statement (.tunPass a0) := fun _ => ⟨nofun, nofun, nofun⟩
theorem firkinPass (a0 : Nat) : Statement (.firkinPass a0) := fun _ => ⟨nofun, nofun, nofun⟩
theorem combArm (a0 : Nat) : Statement (.combArm a0) := fun _ => ⟨nofun, nofun, nofun⟩
theorem sync (a0 : Nat) : Statement (.sync a0) := fun _ => ⟨nofun, nofun, nofun⟩
theorem k1Split (a0 : Nat) : Statement (.k1Split a0) := fun _ => ⟨nofun, nofun, nofun⟩
theorem loadStream (a0 : Nat) : Statement (.loadStream a0) := fun _ => ⟨nofun, nofun, nofun⟩
theorem storeStream (a0 : Nat) : Statement (.storeStream a0) := fun _ => ⟨nofun, nofun, nofun⟩
theorem moveStream (a0 : Nat) : Statement (.moveStream a0) := fun _ => ⟨nofun, nofun, nofun⟩
theorem xferWrite (a0 : Nat) : Statement (.xferWrite a0) := fun _ => ⟨nofun, nofun, nofun⟩
theorem xferRead (a0 : Nat) : Statement (.xferRead a0) := fun _ => ⟨nofun, nofun, nofun⟩
theorem xferPartial (a0 : Nat) : Statement (.xferPartial a0) := fun _ => ⟨nofun, nofun, nofun⟩
theorem tiIssue (a0 : Nat) (a1 : Nat) (a2 : Nat) (a3 : Word) : Statement (.tiIssue a0 a1 a2 a3) := fun h => ⟨fun _ e => by cases e; simp [Instr.wf] at h; omega, nofun, nofun⟩
theorem tiWait (a0 : Nat) (a1 : Nat) (a2 : Nat) (a3 : Word) : Statement (.tiWait a0 a1 a2 a3) := fun h => ⟨fun _ e => by cases e; simp [Instr.wf] at h; omega, nofun, nofun⟩
theorem tiPoll (a0 : Nat) (a1 : Nat) (a2 : Nat) (a3 : Word) : Statement (.tiPoll a0 a1 a2 a3) := fun h => ⟨fun _ e => by cases e; simp [Instr.wf] at h; omega, nofun, nofun⟩
theorem tiFence (a0 : Nat) (a1 : Nat) : Statement (.tiFence a0 a1) := fun h => ⟨fun _ e => by cases e; simp [Instr.wf] at h; omega, nofun, nofun⟩
theorem tiScw (a0 : Nat) (a1 : Nat) (a2 : Word) (a3 : Word) : Statement (.tiScw a0 a1 a2 a3) := fun h => ⟨fun _ e => by cases e; simp [Instr.wf] at h; omega, nofun, nofun⟩
theorem tiScr (a0 : Nat) (a1 : Nat) (a2 : Nat) (a3 : Word) : Statement (.tiScr a0 a1 a2 a3) := fun h => ⟨fun _ e => by cases e; simp [Instr.wf] at h; omega, nofun, nofun⟩
theorem tiSumrd (a0 : Nat) (a1 : Nat) (a2 : Nat) (a3 : Word) : Statement (.tiSumrd a0 a1 a2 a3) := fun h => ⟨fun _ e => by cases e; simp [Instr.wf] at h; omega, nofun, nofun⟩
theorem tiSumst (a0 : Nat) (a1 : Nat) (a2 : Nat) (a3 : Word) : Statement (.tiSumst a0 a1 a2 a3) := fun h => ⟨fun _ e => by cases e; simp [Instr.wf] at h; omega, nofun, nofun⟩
theorem tiSumwait (a0 : Nat) (a1 : Nat) (a2 : Word) (a3 : Word) : Statement (.tiSumwait a0 a1 a2 a3) := fun h => ⟨fun _ e => by cases e; simp [Instr.wf] at h; omega, nofun, nofun⟩
theorem tiRod (a0 : Nat) (a1 : Nat) (a2 : Nat) : Statement (.tiRod a0 a1 a2) := fun h => ⟨fun _ e => by cases e; simp [Instr.wf] at h; omega, nofun, nofun⟩
theorem tiRodwait (a0 : Nat) (a1 : Nat) (a2 : Nat) (a3 : Word) : Statement (.tiRodwait a0 a1 a2 a3) := fun h => ⟨fun _ e => by cases e; simp [Instr.wf] at h; omega, nofun, nofun⟩
theorem tiSyncrd (a0 : Nat) (a1 : Nat) (a2 : Nat) (a3 : Word) : Statement (.tiSyncrd a0 a1 a2 a3) := fun h => ⟨fun _ e => by cases e; simp [Instr.wf] at h; omega, nofun, nofun⟩
theorem tiSyncadd (a0 : Nat) (a1 : Nat) (a2 : Word) (a3 : Word) : Statement (.tiSyncadd a0 a1 a2 a3) := fun h => ⟨fun _ e => by cases e; simp [Instr.wf] at h; omega, nofun, nofun⟩
theorem tiSyncset (a0 : Nat) (a1 : Nat) (a2 : Word) (a3 : Word) : Statement (.tiSyncset a0 a1 a2 a3) := fun h => ⟨fun _ e => by cases e; simp [Instr.wf] at h; omega, nofun, nofun⟩
theorem tiExit (a0 : Nat) (a1 : Nat) (a2 : Word) : Statement (.tiExit a0 a1 a2) := fun h => ⟨fun _ e => by cases e; simp [Instr.wf] at h; omega, nofun, nofun⟩
theorem coreWaitWake (a0 : Nat) (a1 : Nat) : Statement (.coreWaitWake a0 a1) := fun h => ⟨fun _ e => by cases e; simp [Instr.wf] at h; omega, nofun, nofun⟩
theorem coreTrap (a0 : Nat) (a1 : Nat) (a2 : TrapKind) (a3 : Nat) (a4 : Nat) : Statement (.coreTrap a0 a1 a2 a3 a4) := fun h => ⟨fun _ e => by cases e; simp [Instr.wf] at h; omega, nofun, nofun⟩
theorem tunPassStart (a0 : Nat) : Statement (.tunPassStart a0) := fun h => ⟨fun _ e => by cases e; simpa [Instr.wf] using h, nofun, nofun⟩
theorem initLoadDone (a0 : Nat) (a1 : Nat) : Statement (.initLoadDone a0 a1) := fun h => ⟨fun _ e => by cases e; simp [Instr.wf] at h; omega, nofun, nofun⟩
theorem tunLastProduct (a0 : Nat) (a1 : Nat) : Statement (.tunLastProduct a0 a1) := fun h => ⟨fun _ e => by cases e; simp [Instr.wf] at h; omega, nofun, nofun⟩
theorem tunSpillDone (a0 : Nat) (a1 : Nat) : Statement (.tunSpillDone a0 a1) := fun h => ⟨fun _ e => by cases e; simp [Instr.wf] at h; omega, nofun, nofun⟩
theorem load (a0 : Nat) : Statement (.load a0) := fun h => ⟨fun _ e => by cases e; simpa [Instr.wf] using h, nofun, nofun⟩
theorem store (a0 : Nat) : Statement (.store a0) := fun h => ⟨fun _ e => by cases e; simpa [Instr.wf] using h, nofun, nofun⟩
theorem copy (a0 : Nat) : Statement (.copy a0) := fun h => ⟨fun _ e => by cases e; simpa [Instr.wf] using h, nofun, nofun⟩
theorem add (a0 : Nat) : Statement (.add a0) := fun h => ⟨fun _ e => by cases e; simpa [Instr.wf] using h, nofun, nofun⟩
theorem sub (a0 : Nat) : Statement (.sub a0) := fun h => ⟨fun _ e => by cases e; simpa [Instr.wf] using h, nofun, nofun⟩
theorem mul (a0 : Nat) : Statement (.mul a0) := fun h => ⟨fun _ e => by cases e; simpa [Instr.wf] using h, nofun, nofun⟩
theorem fma (a0 : Nat) : Statement (.fma a0) := fun h => ⟨fun _ e => by cases e; simpa [Instr.wf] using h, nofun, nofun⟩
theorem abs (a0 : Nat) : Statement (.abs a0) := fun h => ⟨fun _ e => by cases e; simpa [Instr.wf] using h, nofun, nofun⟩
theorem neg (a0 : Nat) : Statement (.neg a0) := fun h => ⟨fun _ e => by cases e; simpa [Instr.wf] using h, nofun, nofun⟩
theorem min (a0 : Nat) : Statement (.min a0) := fun h => ⟨fun _ e => by cases e; simpa [Instr.wf] using h, nofun, nofun⟩
theorem max (a0 : Nat) : Statement (.max a0) := fun h => ⟨fun _ e => by cases e; simpa [Instr.wf] using h, nofun, nofun⟩
theorem cmplt (a0 : Nat) : Statement (.cmplt a0) := fun h => ⟨fun _ e => by cases e; simpa [Instr.wf] using h, nofun, nofun⟩
theorem cmple (a0 : Nat) : Statement (.cmple a0) := fun h => ⟨fun _ e => by cases e; simpa [Instr.wf] using h, nofun, nofun⟩
theorem cmpeq (a0 : Nat) : Statement (.cmpeq a0) := fun h => ⟨fun _ e => by cases e; simpa [Instr.wf] using h, nofun, nofun⟩
theorem sel (a0 : Nat) : Statement (.sel a0) := fun h => ⟨fun _ e => by cases e; simpa [Instr.wf] using h, nofun, nofun⟩
theorem exp2 (a0 : Nat) : Statement (.exp2 a0) := fun h => ⟨fun _ e => by cases e; simpa [Instr.wf] using h, nofun, nofun⟩
theorem log2 (a0 : Nat) : Statement (.log2 a0) := fun h => ⟨fun _ e => by cases e; simpa [Instr.wf] using h, nofun, nofun⟩
theorem rcp (a0 : Nat) : Statement (.rcp a0) := fun h => ⟨fun _ e => by cases e; simpa [Instr.wf] using h, nofun, nofun⟩
theorem rsqrt (a0 : Nat) : Statement (.rsqrt a0) := fun h => ⟨fun _ e => by cases e; simpa [Instr.wf] using h, nofun, nofun⟩
theorem tanh (a0 : Nat) : Statement (.tanh a0) := fun h => ⟨fun _ e => by cases e; simpa [Instr.wf] using h, nofun, nofun⟩
theorem sum (a0 : Nat) : Statement (.sum a0) := fun h => ⟨fun _ e => by cases e; simpa [Instr.wf] using h, nofun, nofun⟩
theorem sumsq (a0 : Nat) : Statement (.sumsq a0) := fun h => ⟨fun _ e => by cases e; simpa [Instr.wf] using h, nofun, nofun⟩
theorem maxr (a0 : Nat) : Statement (.maxr a0) := fun h => ⟨fun _ e => by cases e; simpa [Instr.wf] using h, nofun, nofun⟩
theorem minr (a0 : Nat) : Statement (.minr a0) := fun h => ⟨fun _ e => by cases e; simpa [Instr.wf] using h, nofun, nofun⟩
theorem argmax (a0 : Nat) : Statement (.argmax a0) := fun h => ⟨fun _ e => by cases e; simpa [Instr.wf] using h, nofun, nofun⟩
theorem countnf (a0 : Nat) : Statement (.countnf a0) := fun h => ⟨fun _ e => by cases e; simpa [Instr.wf] using h, nofun, nofun⟩
theorem accrd (a0 : Nat) : Statement (.accrd a0) := fun h => ⟨fun _ e => by cases e; simpa [Instr.wf] using h, nofun, nofun⟩
theorem release (a0 : Nat) : Statement (.release a0) := fun h => ⟨fun _ e => by cases e; simpa [Instr.wf] using h, nofun, nofun⟩
theorem spill (a0 : Nat) : Statement (.spill a0) := fun h => ⟨fun _ e => by cases e; simpa [Instr.wf] using h, nofun, nofun⟩
theorem shardResident (a0 : Nat) : Statement (.shardResident a0) := fun h => ⟨fun _ e => by cases e; simpa [Instr.wf] using h, nofun, nofun⟩
theorem combination (a0 : Nat) (a1 : Nat) : Statement (.combination a0 a1) := fun h => ⟨fun _ e => by cases e; simp [Instr.wf] at h; omega, nofun, nofun⟩
theorem combTimeout (a0 : Nat) (a1 : Nat) : Statement (.combTimeout a0 a1) := fun h => ⟨fun _ e => by cases e; simp [Instr.wf] at h; omega, nofun, nofun⟩
theorem clusterFailed (a0 : Nat) (a1 : Nat) : Statement (.clusterFailed a0 a1) := fun h => ⟨fun _ e => by cases e; simp [Instr.wf] at h; omega, nofun, nofun⟩
theorem clusterSpareIn (a0 : Nat) : Statement (.clusterSpareIn a0) := fun h => ⟨fun _ e => by cases e; simpa [Instr.wf] using h, nofun, nofun⟩
theorem repeatFailure (a0 : FailUnit) (a1 : Nat) : Statement (.repeatFailure a0 a1) := fun h => ⟨of_failUnit h, nofun, nofun⟩
theorem spareSelftest (a0 : Option Nat) (a1 : Bool) (a2 : Nat) : Statement (.spareSelftest a0 a1 a2) := fun _ => ⟨nofun, nofun, nofun⟩
theorem lockSet (a0 : Nat) (a1 : Nat) : Statement (.lockSet a0 a1) := fun _ => ⟨nofun, nofun, nofun⟩
theorem lockReleased (a0 : Nat) (a1 : Nat) : Statement (.lockReleased a0 a1) := fun _ => ⟨nofun, nofun, nofun⟩
theorem firkinPassRun (a0 : Nat) (a1 : Nat) : Statement (.firkinPassRun a0 a1) := fun _ => ⟨nofun, nofun, nofun⟩
theorem firkinPassComplete (a0 : Nat) (a1 : Nat) : Statement (.firkinPassComplete a0 a1) := fun _ => ⟨nofun, nofun, nofun⟩
theorem passRerun (a0 : Nat) (a1 : Nat) (a2 : Nat) : Statement (.passRerun a0 a1 a2) := fun _ => ⟨nofun, nofun, nofun⟩
theorem weightRefetch (a0 : Nat) (a1 : Nat) (a2 : Nat) : Statement (.weightRefetch a0 a1 a2) := fun _ => ⟨nofun, nofun, nofun⟩
theorem engineFailed (a0 : Nat) (a1 : Nat) (a2 : Nat) : Statement (.engineFailed a0 a1 a2) := fun _ => ⟨nofun, nofun, nofun⟩
theorem spareIn (a0 : Nat) (a1 : Nat) : Statement (.spareIn a0 a1) := fun _ => ⟨nofun, nofun, nofun⟩
theorem streamContextStart (a0 : Nat) : Statement (.streamContextStart a0) := fun _ => ⟨nofun, nofun, nofun⟩
theorem portGrant (a0 : Nat) : Statement (.portGrant a0) := fun _ => ⟨nofun, nofun, nofun⟩
theorem bushelPlaced (a0 : Nat) (a1 : Nat) : Statement (.bushelPlaced a0 a1) := fun _ => ⟨nofun, nofun, nofun⟩
theorem slotRelease (a0 : Nat) (a1 : Nat) : Statement (.slotRelease a0 a1) := fun _ => ⟨nofun, nofun, nofun⟩
theorem streamComplete (a0 : Nat) : Statement (.streamComplete a0) := fun _ => ⟨nofun, nofun, nofun⟩
theorem streamHalt (a0 : Nat) (a1 : Nat) (a2 : HaltCause) : Statement (.streamHalt a0 a1 a2) := fun _ => ⟨nofun, nofun, nofun⟩
theorem streamResume (a0 : Nat) : Statement (.streamResume a0) := fun _ => ⟨nofun, nofun, nofun⟩
theorem streamUnresolved (a0 : Nat) : Statement (.streamUnresolved a0) := fun _ => ⟨nofun, nofun, nofun⟩
theorem bucketApply (a0 : Nat) (a1 : Nat) : Statement (.bucketApply a0 a1) := fun h => ⟨nofun, fun _ e => by cases e; simp [Instr.wf] at h; omega, nofun⟩
theorem stackUncorrectable (a0 : Nat) (a1 : StackFault) (a2 : Bool) : Statement (.stackUncorrectable a0 a1 a2) := fun _ => ⟨nofun, nofun, nofun⟩
theorem recoveryWrite (a0 : Nat) (a1 : List Byte) : Statement (.recoveryWrite a0 a1) := fun _ => ⟨nofun, nofun, nofun⟩
theorem pchMarked (a0 : Nat) (a1 : Nat) : Statement (.pchMarked a0 a1) := fun _ => ⟨nofun, nofun, nofun⟩
theorem readDisturbRelocate (a0 : Nat) : Statement (.readDisturbRelocate a0) := fun _ => ⟨nofun, nofun, nofun⟩
theorem readOnly (a0 : Nat) : Statement (.readOnly a0) := fun _ => ⟨nofun, nofun, nofun⟩
theorem dieFailed (a0 : Nat) (a1 : List (Nat × Nat)) : Statement (.dieFailed a0 a1) := fun _ => ⟨nofun, nofun, nofun⟩
theorem eraseDone (a0 : Nat) : Statement (.eraseDone a0) := fun h => ⟨nofun, fun _ e => by cases e; simpa [Instr.wf] using h, nofun⟩
theorem baseLoad (a0 : Nat) (a1 : LoadWorld) : Statement (.baseLoad a0 a1) := fun h => ⟨nofun, fun _ e => by cases e; simpa [Instr.wf] using h, nofun⟩
theorem baseFlip (a0 : Nat) : Statement (.baseFlip a0) := fun h => ⟨nofun, fun _ e => by cases e; simpa [Instr.wf] using h, nofun⟩
theorem flipTakesEffect (a0 : Nat) : Statement (.flipTakesEffect a0) := fun h => ⟨nofun, fun _ e => by cases e; simpa [Instr.wf] using h, nofun⟩
theorem baseSwap (a0 : Nat) : Statement (.baseSwap a0) := fun h => ⟨nofun, fun _ e => by cases e; simpa [Instr.wf] using h, nofun⟩
theorem swapLoad (a0 : Nat) (a1 : LoadWorld) : Statement (.swapLoad a0 a1) := fun h => ⟨nofun, fun _ e => by cases e; simpa [Instr.wf] using h, nofun⟩
theorem admissionResumed (a0 : Nat) : Statement (.admissionResumed a0) := fun h => ⟨nofun, fun _ e => by cases e; simpa [Instr.wf] using h, nofun⟩
theorem baseRelease (a0 : Nat) : Statement (.baseRelease a0) := fun h => ⟨nofun, fun _ e => by cases e; simpa [Instr.wf] using h, nofun⟩
theorem baseGone (a0 : Nat) (a1 : Nat) : Statement (.baseGone a0 a1) := fun h => ⟨nofun, fun _ e => by cases e; simpa [Instr.wf] using h, nofun⟩
theorem baseRepair (a0 : Nat) (a1 : LoadWorld) : Statement (.baseRepair a0 a1) := fun h => ⟨nofun, fun _ e => by cases e; simpa [Instr.wf] using h, nofun⟩
theorem adapterPut (a0 : Nat) : Statement (.adapterPut a0) := fun h => ⟨nofun, fun _ e => by cases e; simpa [Instr.wf] using h, nofun⟩
theorem adapterDrop (a0 : Nat) : Statement (.adapterDrop a0) := fun h => ⟨nofun, fun _ e => by cases e; simpa [Instr.wf] using h, nofun⟩
theorem prefetch (a0 : Packet) : Statement (.prefetch a0) := fun _ => ⟨nofun, nofun, nofun⟩
theorem adapterEntryResident (a0 : Nat) (a1 : Nat) (a2 : List (List Byte)) : Statement (.adapterEntryResident a0 a1 a2) := fun _ => ⟨nofun, nofun, nofun⟩
theorem versionFaulted (a0 : Nat) (a1 : Nat) : Statement (.versionFaulted a0 a1) := fun _ => ⟨nofun, nofun, nofun⟩
theorem versionFlip (a0 : Nat) : Statement (.versionFlip a0) := fun _ => ⟨nofun, nofun, nofun⟩
theorem versionRetire (a0 : Nat) : Statement (.versionRetire a0) := fun _ => ⟨nofun, nofun, nofun⟩
theorem trainBind (a0 : Nat) : Statement (.trainBind a0) := fun h => ⟨nofun, fun _ e => by cases e; simpa [Instr.wf] using h, nofun⟩
theorem trainSet (a0 : Nat) : Statement (.trainSet a0) := fun h => ⟨nofun, fun _ e => by cases e; simpa [Instr.wf] using h, nofun⟩
theorem trainUnbind (a0 : Nat) : Statement (.trainUnbind a0) := fun h => ⟨nofun, fun _ e => by cases e; simpa [Instr.wf] using h, nofun⟩
theorem trainBound (a0 : Nat) (a1 : SnapView) : Statement (.trainBound a0 a1) := fun _ => ⟨nofun, nofun, nofun⟩
theorem stepStart (a0 : Nat) : Statement (.stepStart a0) := fun _ => ⟨nofun, nofun, nofun⟩
theorem bwdStart (a0 : Nat) : Statement (.bwdStart a0) := fun _ => ⟨nofun, nofun, nofun⟩
theorem producerWrite (a0 : Nat) (a1 : Nat) : Statement (.producerWrite a0 a1) := fun _ => ⟨nofun, nofun, nofun⟩
theorem gacc (a0 : Nat) (a1 : Bool) : Statement (.gacc a0 a1) := fun _ => ⟨nofun, nofun, nofun⟩
theorem closeDeadline (a0 : Nat) : Statement (.closeDeadline a0) := fun _ => ⟨nofun, nofun, nofun⟩
theorem gather (a0 : Nat) (a1 : Nat) : Statement (.gather a0 a1) := fun _ => ⟨nofun, nofun, nofun⟩
theorem gatherTimeout (a0 : Nat) : Statement (.gatherTimeout a0) := fun _ => ⟨nofun, nofun, nofun⟩
theorem normPartial (a0 : Nat) : Statement (.normPartial a0) := fun _ => ⟨nofun, nofun, nofun⟩
theorem normPartialReceive (a0 : StepMsg) (a1 : NormHead) (a2 : Nat) (a3 : F32) (a4 : Bool) : Statement (.normPartialReceive a0 a1 a2 a3 a4) := fun _ => ⟨nofun, nofun, nofun⟩
theorem normTimeout (a0 : Nat) : Statement (.normTimeout a0) := fun _ => ⟨nofun, nofun, nofun⟩
theorem update (a0 : StepMsg) (a1 : F32) : Statement (.update a0 a1) := fun _ => ⟨nofun, nofun, nofun⟩
theorem updateSkipped (a0 : StepMsg) (a1 : Nat) : Statement (.updateSkipped a0 a1) := fun _ => ⟨nofun, nofun, nofun⟩
theorem updateDone (a0 : StepMsg) (a1 : Nat) : Statement (.updateDone a0 a1) := fun _ => ⟨nofun, nofun, nofun⟩
theorem flipRod (a0 : StepMsg) (a1 : Nat) : Statement (.flipRod a0 a1) := fun _ => ⟨nofun, nofun, nofun⟩
theorem flipTimeout (a0 : Nat) : Statement (.flipTimeout a0) := fun _ => ⟨nofun, nofun, nofun⟩
theorem snapshot (a0 : Nat) (a1 : Nat) (a2 : Bool) : Statement (.snapshot a0 a1 a2) := fun _ => ⟨nofun, nofun, nofun⟩
theorem protect (a0 : Nat) : Statement (.protect a0) := fun h => ⟨nofun, fun _ e => by cases e; simpa [Instr.wf] using h, nofun⟩
theorem restore (a0 : Nat) (a1 : List SnapView) : Statement (.restore a0 a1) := fun h => ⟨nofun, fun _ e => by cases e; simpa [Instr.wf] using h, nofun⟩
theorem declareLost (a0 : Nat) : Statement (.declareLost a0) := fun h => ⟨nofun, fun _ e => by cases e; simpa [Instr.wf] using h, nofun⟩
theorem remap (a0 : Nat) : Statement (.remap a0) := fun h => ⟨nofun, fun _ e => by cases e; simpa [Instr.wf] using h, nofun⟩
theorem rodSyncSend : Statement .rodSyncSend := fun _ => ⟨nofun, nofun, nofun⟩
theorem rodSyncReceive (a0 : RodSync) : Statement (.rodSyncReceive a0) := fun _ => ⟨nofun, nofun, nofun⟩
theorem timeHoldover : Statement .timeHoldover := fun _ => ⟨nofun, nofun, nofun⟩
theorem timeUncertain : Statement .timeUncertain := fun _ => ⟨nofun, nofun, nofun⟩
theorem ptpSync (a0 : PtpMsg) : Statement (.ptpSync a0) := fun _ => ⟨nofun, nofun, nofun⟩
theorem masterTakeover : Statement .masterTakeover := fun _ => ⟨nofun, nofun, nofun⟩
theorem planApply (a0 : Nat) (a1 : Nat) : Statement (.planApply a0 a1) := fun h => ⟨nofun, fun _ e => by cases e; simp [Instr.wf] at h; omega, nofun⟩
theorem planApplied (a0 : Nat) : Statement (.planApplied a0) := fun h => ⟨nofun, fun _ e => by cases e; simpa [Instr.wf] using h, nofun⟩
theorem linkTraining (a0 : Nat) (a1 : TrainResult) : Statement (.linkTraining a0 a1) := fun h => ⟨nofun, nofun, fun _ e => by cases e; simp [Instr.wf] at h; omega⟩
theorem linkRetrain (a0 : Nat) (a1 : Nat) (a2 : TrainResult) : Statement (.linkRetrain a0 a1 a2) := fun h => ⟨nofun, nofun, fun _ e => by cases e; simp [Instr.wf] at h; omega⟩
theorem linkRetry (a0 : Nat) (a1 : TrainResult) : Statement (.linkRetry a0 a1) := fun h => ⟨nofun, nofun, fun _ e => by cases e; simp [Instr.wf] at h; omega⟩
theorem linkFailed (a0 : Nat) (a1 : Bool) : Statement (.linkFailed a0 a1) := fun h => ⟨nofun, nofun, fun _ e => by cases e; simpa [Instr.wf] using h⟩
theorem linkSubstitute (a0 : Nat) (a1 : TrainResult) : Statement (.linkSubstitute a0 a1) := fun h => ⟨nofun, nofun, fun _ e => by cases e; simp [Instr.wf] at h; omega⟩
theorem flitReceive (a0 : Nat) (a1 : List Byte) : Statement (.flitReceive a0 a1) := fun h => ⟨nofun, nofun, fun _ e => by cases e; simp [Instr.wf] at h; omega⟩
theorem replayReq (a0 : Nat) (a1 : Nat) : Statement (.replayReq a0 a1) := fun h => ⟨nofun, nofun, fun _ e => by cases e; simpa [Instr.wf] using h⟩
theorem xferInject (a0 : Injection) : Statement (.xferInject a0) := fun _ => ⟨nofun, nofun, nofun⟩
theorem write (a0 : Packet) : Statement (.write a0) := fun _ => ⟨nofun, nofun, nofun⟩
theorem read (a0 : Packet) : Statement (.read a0) := fun _ => ⟨nofun, nofun, nofun⟩
theorem readResp (a0 : Packet) : Statement (.readResp a0) := fun _ => ⟨nofun, nofun, nofun⟩
theorem partial_ (a0 : Packet) : Statement (.partial_ a0) := fun _ => ⟨nofun, nofun, nofun⟩
theorem earlyPartialExpire (a0 : Nat) : Statement (.earlyPartialExpire a0) := fun _ => ⟨nofun, nofun, nofun⟩
theorem transferComplete (a0 : Nat) (a1 : Nat) : Statement (.transferComplete a0 a1) := fun _ => ⟨nofun, nofun, nofun⟩
theorem done (a0 : Packet) : Statement (.done a0) := fun _ => ⟨nofun, nofun, nofun⟩
theorem resend (a0 : Packet) : Statement (.resend a0) := fun _ => ⟨nofun, nofun, nofun⟩
theorem transferRetry (a0 : Nat) : Statement (.transferRetry a0) := fun _ => ⟨nofun, nofun, nofun⟩
theorem epochReady (a0 : Packet) : Statement (.epochReady a0) := fun _ => ⟨nofun, nofun, nofun⟩
theorem epochFlip (a0 : Packet) : Statement (.epochFlip a0) := fun _ => ⟨nofun, nofun, nofun⟩
theorem versionFault (a0 : Packet) : Statement (.versionFault a0) := fun _ => ⟨nofun, nofun, nofun⟩
theorem ethLinkUp (a0 : Nat) : Statement (.ethLinkUp a0) := fun _ => ⟨nofun, nofun, nofun⟩
theorem ethLinkDown (a0 : Nat) : Statement (.ethLinkDown a0) := fun _ => ⟨nofun, nofun, nofun⟩
theorem espReceive (a0 : EspPacket) : Statement (.espReceive a0) := fun _ => ⟨nofun, nofun, nofun⟩
theorem quarantineEnd (a0 : Nat) (a1 : Nat) : Statement (.quarantineEnd a0 a1) := fun _ => ⟨nofun, nofun, nofun⟩
theorem rdmaWrite (a0 : Nat) (a1 : Nat) (a2 : Nat) (a3 : List Byte) : Statement (.rdmaWrite a0 a1 a2 a3) := fun _ => ⟨nofun, nofun, nofun⟩
theorem rdmaRead (a0 : Nat) (a1 : Nat) (a2 : Nat) (a3 : Nat) : Statement (.rdmaRead a0 a1 a2 a3) := fun _ => ⟨nofun, nofun, nofun⟩
theorem score (a0 : Nat) (a1 : Nat) : Statement (.score a0 a1) := fun _ => ⟨nofun, nofun, nofun⟩
theorem doorbell (a0 : Nat) (a1 : Nat) (a2 : Nat) (a3 : Nat) (a4 : List Byte) : Statement (.doorbell a0 a1 a2 a3 a4) := fun _ => ⟨nofun, nofun, nofun⟩
theorem register (a0 : Nat) (a1 : List Byte) : Statement (.register a0 a1) := fun _ => ⟨nofun, nofun, nofun⟩
theorem deregister (a0 : Nat) (a1 : List Byte) : Statement (.deregister a0 a1) := fun _ => ⟨nofun, nofun, nofun⟩
theorem requestDeadline (a0 : Nat) : Statement (.requestDeadline a0) := fun _ => ⟨nofun, nofun, nofun⟩
theorem verdict (a0 : Nat) (a1 : List Byte) : Statement (.verdict a0 a1) := fun _ => ⟨nofun, nofun, nofun⟩
theorem ackReceive (a0 : Nat) (a1 : Nat) : Statement (.ackReceive a0 a1) := fun _ => ⟨nofun, nofun, nofun⟩
theorem remoteNak (a0 : Nat) : Statement (.remoteNak a0) := fun _ => ⟨nofun, nofun, nofun⟩
theorem ackTimeout (a0 : Nat) : Statement (.ackTimeout a0) := fun _ => ⟨nofun, nofun, nofun⟩
theorem cnpReceive (a0 : Nat) : Statement (.cnpReceive a0) := fun _ => ⟨nofun, nofun, nofun⟩
theorem cnpRateRecover (a0 : Nat) : Statement (.cnpRateRecover a0) := fun _ => ⟨nofun, nofun, nofun⟩
theorem storeReadResponse (a0 : Nat) (a1 : Nat) (a2 : List Byte) : Statement (.storeReadResponse a0 a1 a2) := fun _ => ⟨nofun, nofun, nofun⟩
theorem windowRead (a0 : WinMsg) : Statement (.windowRead a0) := fun _ => ⟨nofun, nofun, nofun⟩
theorem windowWrite (a0 : WinMsg) : Statement (.windowWrite a0) := fun _ => ⟨nofun, nofun, nofun⟩
theorem writeMasked (a0 : WinMsg) : Statement (.writeMasked a0) := fun _ => ⟨nofun, nofun, nofun⟩
theorem keepalive (a0 : WinMsg) : Statement (.keepalive a0) := fun _ => ⟨nofun, nofun, nofun⟩
theorem attach (a0 : WinMsg) (a1 : List Byte) : Statement (.attach a0 a1) := fun _ => ⟨nofun, nofun, nofun⟩
theorem attachTimeout : Statement .attachTimeout := fun _ => ⟨nofun, nofun, nofun⟩
theorem detach (a0 : WinMsg) : Statement (.detach a0) := fun _ => ⟨nofun, nofun, nofun⟩
theorem sessionLoss (a0 : BootWorld) : Statement (.sessionLoss a0) := fun _ => ⟨nofun, nofun, nofun⟩
theorem winApbase (a0 : Nat) (a1 : Nat) (a2 : Word) : Statement (.winApbase a0 a1 a2) := fun _ => ⟨nofun, nofun, nofun⟩
theorem winEvtTail (a0 : Word) : Statement (.winEvtTail a0) := fun _ => ⟨nofun, nofun, nofun⟩
theorem winMapSel (a0 : Word) : Statement (.winMapSel a0) := fun _ => ⟨nofun, nofun, nofun⟩
theorem winRplSel (a0 : Nat) (a1 : Nat) (a2 : Word) : Statement (.winRplSel a0 a1 a2) := fun h => ⟨nofun, fun _ e => by cases e; simp [Instr.wf] at h; omega, nofun⟩
theorem winDigSel (a0 : Nat) (a1 : Word) : Statement (.winDigSel a0 a1) := fun h => ⟨nofun, fun _ e => by cases e; simpa [Instr.wf] using h, nofun⟩
theorem qpRead (a0 : Nat) : Statement (.qpRead a0) := fun h => ⟨nofun, fun _ e => by cases e; simpa [Instr.wf] using h, nofun⟩
theorem qpCreate (a0 : Nat) : Statement (.qpCreate a0) := fun h => ⟨nofun, fun _ e => by cases e; simpa [Instr.wf] using h, nofun⟩
theorem qpModify (a0 : Nat) : Statement (.qpModify a0) := fun h => ⟨nofun, fun _ e => by cases e; simpa [Instr.wf] using h, nofun⟩
theorem qpDelete (a0 : Nat) : Statement (.qpDelete a0) := fun h => ⟨nofun, fun _ e => by cases e; simpa [Instr.wf] using h, nofun⟩
theorem xrRead (a0 : Nat) (a1 : Nat) : Statement (.xrRead a0 a1) := fun h => ⟨nofun, fun _ e => by cases e; simpa [Instr.wf] using h, nofun⟩
theorem xrCreate (a0 : Nat) : Statement (.xrCreate a0) := fun h => ⟨nofun, fun _ e => by cases e; simpa [Instr.wf] using h, nofun⟩
theorem xrDelete (a0 : Nat) (a1 : Nat) : Statement (.xrDelete a0 a1) := fun h => ⟨nofun, fun _ e => by cases e; simpa [Instr.wf] using h, nofun⟩
theorem create (a0 : Nat) : Statement (.create a0) := fun h => ⟨nofun, fun _ e => by cases e; simpa [Instr.wf] using h, nofun⟩
theorem roodCreated (a0 : Nat) : Statement (.roodCreated a0) := fun h => ⟨nofun, fun _ e => by cases e; simpa [Instr.wf] using h, nofun⟩
theorem reset (a0 : Nat) : Statement (.reset a0) := fun h => ⟨nofun, fun _ e => by cases e; simpa [Instr.wf] using h, nofun⟩
theorem remove (a0 : Nat) : Statement (.remove a0) := fun h => ⟨nofun, fun _ e => by cases e; simpa [Instr.wf] using h, nofun⟩
theorem roodResetDone (a0 : Nat) : Statement (.roodResetDone a0) := fun h => ⟨nofun, fun _ e => by cases e; simpa [Instr.wf] using h, nofun⟩
theorem roodResizeApply (a0 : Nat) (a1 : Nat) : Statement (.roodResizeApply a0 a1) := fun h => ⟨nofun, fun _ e => by cases e; simp [Instr.wf] at h; omega, nofun⟩
theorem resizeApplied (a0 : Nat) : Statement (.resizeApplied a0) := fun h => ⟨nofun, fun _ e => by cases e; simpa [Instr.wf] using h, nofun⟩
theorem unitJoinsRood (a0 : FailUnit) : Statement (.unitJoinsRood a0) := fun h => ⟨of_failUnit h, nofun, nofun⟩
theorem tableRead (a0 : Nat) (a1 : Nat) (a2 : Nat) : Statement (.tableRead a0 a1 a2) := fun h => ⟨nofun, fun _ e => by cases e; simp [Instr.wf] at h; omega, nofun⟩
theorem tableWrite (a0 : Nat) (a1 : Nat) (a2 : Nat) : Statement (.tableWrite a0 a1 a2) := fun h => ⟨nofun, fun _ e => by cases e; simp [Instr.wf] at h; omega, nofun⟩
theorem tableDelete (a0 : Nat) (a1 : Nat) (a2 : Nat) : Statement (.tableDelete a0 a1 a2) := fun h => ⟨nofun, fun _ e => by cases e; simp [Instr.wf] at h; omega, nofun⟩
theorem sliceScrub (a0 : Nat) (a1 : Nat) : Statement (.sliceScrub a0 a1) := fun h => ⟨fun _ e => by cases e; simpa [Instr.wf] using h, nofun, nofun⟩
theorem saIn (a0 : List Byte) : Statement (.saIn a0) := fun _ => ⟨nofun, nofun, nofun⟩
theorem saOut (a0 : List Byte) : Statement (.saOut a0) := fun _ => ⟨nofun, nofun, nofun⟩
theorem debugKey (a0 : List Byte) : Statement (.debugKey a0) := fun _ => ⟨nofun, nofun, nofun⟩
theorem destroySa (a0 : List Byte) : Statement (.destroySa a0) := fun _ => ⟨nofun, nofun, nofun⟩
theorem destroyNs (a0 : List Byte) : Statement (.destroyNs a0) := fun _ => ⟨nofun, nofun, nofun⟩
theorem tombstoneExpire (a0 : Nat) : Statement (.tombstoneExpire a0) := fun _ => ⟨nofun, nofun, nofun⟩
theorem secNonce : Statement .secNonce := fun _ => ⟨nofun, nofun, nofun⟩
theorem request : Statement .request := fun _ => ⟨nofun, nofun, nofun⟩
theorem select (a0 : Nat) (a1 : Nat) : Statement (.select a0 a1) := fun _ => ⟨nofun, nofun, nofun⟩
theorem enterD1 : Statement .enterD1 := fun _ => ⟨nofun, nofun, nofun⟩
theorem present : Statement .present := fun _ => ⟨nofun, nofun, nofun⟩
theorem leave (a0 : Nat) : Statement (.leave a0) := fun _ => ⟨nofun, nofun, nofun⟩
theorem d2Expiry : Statement .d2Expiry := fun _ => ⟨nofun, nofun, nofun⟩
theorem toS1 : Statement .toS1 := fun _ => ⟨nofun, nofun, nofun⟩
theorem toS2 : Statement .toS2 := fun _ => ⟨nofun, nofun, nofun⟩
theorem toS3 : Statement .toS3 := fun _ => ⟨nofun, nofun, nofun⟩
theorem debugRead : Statement .debugRead := fun _ => ⟨nofun, nofun, nofun⟩
theorem debugWrite : Statement .debugWrite := fun _ => ⟨nofun, nofun, nofun⟩
theorem core : Statement .core := fun _ => ⟨nofun, nofun, nofun⟩
theorem sysResetNRelease (a0 : BootWorld) : Statement (.sysResetNRelease a0) := fun _ => ⟨nofun, nofun, nofun⟩
theorem flagCleared (a0 : ThermalUnit) (a1 : Nat) (a2 : Nat) : Statement (.flagCleared a0 a1 a2) := fun h => ⟨of_unit h, nofun, nofun⟩
theorem rnrNak (a0 : Nat) : Statement (.rnrNak a0) := fun _ => ⟨nofun, nofun, nofun⟩
theorem leaveP3ForStepStart (a0 : Nat) : Statement (.leaveP3ForStepStart a0) := fun _ => ⟨nofun, nofun, nofun⟩
theorem clearFaults : Statement .clearFaults := fun _ => ⟨nofun, nofun, nofun⟩
theorem jtagInstruction (a0 : Nat) : Statement (.jtagInstruction a0) := fun _ => ⟨nofun, nofun, nofun⟩
theorem ppsOutEdge : Statement .ppsOutEdge := fun _ => ⟨nofun, nofun, nofun⟩

end Sys2Proof.Laws.WellFormed
end

