-- ==== Sys2Proof/Laws/State.lean ====
section
/-! SUPPORT. What each update of one part of the state leaves: one lemma per update and field. -/
namespace Sys2Proof.Laws

open Sys2Proof.Machine

/-! modRood -/
@[simp] theorem modRood_time (r : Nat) (f : Rood → Rood) (s : State) : (modRood r f s).time = s.time := rfl
@[simp] theorem modRood_glb (r : Nat) (f : Rood → Rood) (s : State) : (modRood r f s).glb = s.glb := rfl
@[simp] theorem modRood_events (r : Nat) (f : Rood → Rood) (s : State) : (modRood r f s).events = s.events := rfl
@[simp] theorem modRood_pins (r : Nat) (f : Rood → Rood) (s : State) : (modRood r f s).pins = s.pins := rfl
@[simp] theorem modRood_boot (r : Nat) (f : Rood → Rood) (s : State) : (modRood r f s).boot = s.boot := rfl
@[simp] theorem modRood_nor (r : Nat) (f : Rood → Rood) (s : State) : (modRood r f s).nor = s.nor := rfl
@[simp] theorem modRood_fwc (r : Nat) (f : Rood → Rood) (s : State) : (modRood r f s).fwc = s.fwc := rfl
@[simp] theorem modRood_repair (r : Nat) (f : Rood → Rood) (s : State) : (modRood r f s).repair = s.repair := rfl
@[simp] theorem modRood_repairSeq (r : Nat) (f : Rood → Rood) (s : State) : (modRood r f s).repairSeq = s.repairSeq := rfl
@[simp] theorem modRood_sec (r : Nat) (f : Rood → Rood) (s : State) : (modRood r f s).sec = s.sec := rfl
@[simp] theorem modRood_win (r : Nat) (f : Rood → Rood) (s : State) : (modRood r f s).win = s.win := rfl
@[simp] theorem modRood_eth (r : Nat) (f : Rood → Rood) (s : State) : (modRood r f s).eth = s.eth := rfl
@[simp] theorem modRood_links (r : Nat) (f : Rood → Rood) (s : State) : (modRood r f s).links = s.links := rfl
@[simp] theorem modRood_linkSpares (r : Nat) (f : Rood → Rood) (s : State) : (modRood r f s).linkSpares = s.linkSpares := rfl
@[simp] theorem modRood_fab (r : Nat) (f : Rood → Rood) (s : State) : (modRood r f s).fab = s.fab := rfl
@[simp] theorem modRood_roods (r : Nat) (f : Rood → Rood) (s : State) : (modRood r f s).roods = s.roods.modify r f := rfl
@[simp] theorem modRood_slices (r : Nat) (f : Rood → Rood) (s : State) : (modRood r f s).slices = s.slices := rfl
@[simp] theorem modRood_drrNext (r : Nat) (f : Rood → Rood) (s : State) : (modRood r f s).drrNext = s.drrNext := rfl
@[simp] theorem modRood_queues (r : Nat) (f : Rood → Rood) (s : State) : (modRood r f s).queues = s.queues := rfl
@[simp] theorem modRood_descs (r : Nat) (f : Rood → Rood) (s : State) : (modRood r f s).descs = s.descs := rfl
@[simp] theorem modRood_nextDesc (r : Nat) (f : Rood → Rood) (s : State) : (modRood r f s).nextDesc = s.nextDesc := rfl
@[simp] theorem modRood_clusters (r : Nat) (f : Rood → Rood) (s : State) : (modRood r f s).clusters = s.clusters := rfl
@[simp] theorem modRood_spareCluster (r : Nat) (f : Rood → Rood) (s : State) : (modRood r f s).spareCluster = s.spareCluster := rfl
@[simp] theorem modRood_stks (r : Nat) (f : Rood → Rood) (s : State) : (modRood r f s).stks = s.stks := rfl
@[simp] theorem modRood_streams (r : Nat) (f : Rood → Rood) (s : State) : (modRood r f s).streams = s.streams := rfl
@[simp] theorem modRood_flash (r : Nat) (f : Rood → Rood) (s : State) : (modRood r f s).flash = s.flash := rfl
@[simp] theorem modRood_slots (r : Nat) (f : Rood → Rood) (s : State) : (modRood r f s).slots = s.slots := rfl
@[simp] theorem modRood_cache (r : Nat) (f : Rood → Rood) (s : State) : (modRood r f s).cache = s.cache := rfl
@[simp] theorem modRood_nextCache (r : Nat) (f : Rood → Rood) (s : State) : (modRood r f s).nextCache = s.nextCache := rfl
@[simp] theorem modRood_requests (r : Nat) (f : Rood → Rood) (s : State) : (modRood r f s).requests = s.requests := rfl
@[simp] theorem modRood_nextReq (r : Nat) (f : Rood → Rood) (s : State) : (modRood r f s).nextReq = s.nextReq := rfl
@[simp] theorem modRood_binds (r : Nat) (f : Rood → Rood) (s : State) : (modRood r f s).binds = s.binds := rfl
@[simp] theorem modRood_mem (r : Nat) (f : Rood → Rood) (s : State) : (modRood r f s).mem = s.mem := rfl
@[simp] theorem modRood_bushels (r : Nat) (f : Rood → Rood) (s : State) : (modRood r f s).bushels = s.bushels := rfl
@[simp] theorem modRood_freeCtr (r : Nat) (f : Rood → Rood) (s : State) : (modRood r f s).freeCtr = s.freeCtr := rfl
@[simp] theorem modRood_pending (r : Nat) (f : Rood → Rood) (s : State) : (modRood r f s).pending = s.pending := rfl
/-! modCluster -/
@[simp] theorem modCluster_time (c : Nat) (f : Cluster → Cluster) (s : State) : (modCluster c f s).time = s.time := rfl
@[simp] theorem modCluster_glb (c : Nat) (f : Cluster → Cluster) (s : State) : (modCluster c f s).glb = s.glb := rfl
@[simp] theorem modCluster_events (c : Nat) (f : Cluster → Cluster) (s : State) : (modCluster c f s).events = s.events := rfl
@[simp] theorem modCluster_pins (c : Nat) (f : Cluster → Cluster) (s : State) : (modCluster c f s).pins = s.pins := rfl
@[simp] theorem modCluster_boot (c : Nat) (f : Cluster → Cluster) (s : State) : (modCluster c f s).boot = s.boot := rfl
@[simp] theorem modCluster_nor (c : Nat) (f : Cluster → Cluster) (s : State) : (modCluster c f s).nor = s.nor := rfl
@[simp] theorem modCluster_fwc (c : Nat) (f : Cluster → Cluster) (s : State) : (modCluster c f s).fwc = s.fwc := rfl
@[simp] theorem modCluster_repair (c : Nat) (f : Cluster → Cluster) (s : State) : (modCluster c f s).repair = s.repair := rfl
@[simp] theorem modCluster_repairSeq (c : Nat) (f : Cluster → Cluster) (s : State) : (modCluster c f s).repairSeq = s.repairSeq := rfl
@[simp] theorem modCluster_sec (c : Nat) (f : Cluster → Cluster) (s : State) : (modCluster c f s).sec = s.sec := rfl
@[simp] theorem modCluster_win (c : Nat) (f : Cluster → Cluster) (s : State) : (modCluster c f s).win = s.win := rfl
@[simp] theorem modCluster_eth (c : Nat) (f : Cluster → Cluster) (s : State) : (modCluster c f s).eth = s.eth := rfl
@[simp] theorem modCluster_links (c : Nat) (f : Cluster → Cluster) (s : State) : (modCluster c f s).links = s.links := rfl
@[simp] theorem modCluster_linkSpares (c : Nat) (f : Cluster → Cluster) (s : State) : (modCluster c f s).linkSpares = s.linkSpares := rfl
@[simp] theorem modCluster_fab (c : Nat) (f : Cluster → Cluster) (s : State) : (modCluster c f s).fab = s.fab := rfl
@[simp] theorem modCluster_roods (c : Nat) (f : Cluster → Cluster) (s : State) : (modCluster c f s).roods = s.roods := rfl
@[simp] theorem modCluster_slices (c : Nat) (f : Cluster → Cluster) (s : State) : (modCluster c f s).slices = s.slices := rfl
@[simp] theorem modCluster_drrNext (c : Nat) (f : Cluster → Cluster) (s : State) : (modCluster c f s).drrNext = s.drrNext := rfl
@[simp] theorem modCluster_queues (c : Nat) (f : Cluster → Cluster) (s : State) : (modCluster c f s).queues = s.queues := rfl
@[simp] theorem modCluster_descs (c : Nat) (f : Cluster → Cluster) (s : State) : (modCluster c f s).descs = s.descs := rfl
@[simp] theorem modCluster_nextDesc (c : Nat) (f : Cluster → Cluster) (s : State) : (modCluster c f s).nextDesc = s.nextDesc := rfl
@[simp] theorem modCluster_clusters (c : Nat) (f : Cluster → Cluster) (s : State) : (modCluster c f s).clusters = s.clusters.modify c f := rfl
@[simp] theorem modCluster_spareCluster (c : Nat) (f : Cluster → Cluster) (s : State) : (modCluster c f s).spareCluster = s.spareCluster := rfl
@[simp] theorem modCluster_stks (c : Nat) (f : Cluster → Cluster) (s : State) : (modCluster c f s).stks = s.stks := rfl
@[simp] theorem modCluster_streams (c : Nat) (f : Cluster → Cluster) (s : State) : (modCluster c f s).streams = s.streams := rfl
@[simp] theorem modCluster_flash (c : Nat) (f : Cluster → Cluster) (s : State) : (modCluster c f s).flash = s.flash := rfl
@[simp] theorem modCluster_slots (c : Nat) (f : Cluster → Cluster) (s : State) : (modCluster c f s).slots = s.slots := rfl
@[simp] theorem modCluster_cache (c : Nat) (f : Cluster → Cluster) (s : State) : (modCluster c f s).cache = s.cache := rfl
@[simp] theorem modCluster_nextCache (c : Nat) (f : Cluster → Cluster) (s : State) : (modCluster c f s).nextCache = s.nextCache := rfl
@[simp] theorem modCluster_requests (c : Nat) (f : Cluster → Cluster) (s : State) : (modCluster c f s).requests = s.requests := rfl
@[simp] theorem modCluster_nextReq (c : Nat) (f : Cluster → Cluster) (s : State) : (modCluster c f s).nextReq = s.nextReq := rfl
@[simp] theorem modCluster_binds (c : Nat) (f : Cluster → Cluster) (s : State) : (modCluster c f s).binds = s.binds := rfl
@[simp] theorem modCluster_mem (c : Nat) (f : Cluster → Cluster) (s : State) : (modCluster c f s).mem = s.mem := rfl
@[simp] theorem modCluster_bushels (c : Nat) (f : Cluster → Cluster) (s : State) : (modCluster c f s).bushels = s.bushels := rfl
@[simp] theorem modCluster_freeCtr (c : Nat) (f : Cluster → Cluster) (s : State) : (modCluster c f s).freeCtr = s.freeCtr := rfl
@[simp] theorem modCluster_pending (c : Nat) (f : Cluster → Cluster) (s : State) : (modCluster c f s).pending = s.pending := rfl
/-! modCore -/
@[simp] theorem modCore_time (c n : Nat) (f : Core → Core) (s : State) : (modCore c n f s).time = s.time := rfl
@[simp] theorem modCore_glb (c n : Nat) (f : Core → Core) (s : State) : (modCore c n f s).glb = s.glb := rfl
@[simp] theorem modCore_events (c n : Nat) (f : Core → Core) (s : State) : (modCore c n f s).events = s.events := rfl
@[simp] theorem modCore_pins (c n : Nat) (f : Core → Core) (s : State) : (modCore c n f s).pins = s.pins := rfl
@[simp] theorem modCore_boot (c n : Nat) (f : Core → Core) (s : State) : (modCore c n f s).boot = s.boot := rfl
@[simp] theorem modCore_nor (c n : Nat) (f : Core → Core) (s : State) : (modCore c n f s).nor = s.nor := rfl
@[simp] theorem modCore_fwc (c n : Nat) (f : Core → Core) (s : State) : (modCore c n f s).fwc = s.fwc := rfl
@[simp] theorem modCore_repair (c n : Nat) (f : Core → Core) (s : State) : (modCore c n f s).repair = s.repair := rfl
@[simp] theorem modCore_repairSeq (c n : Nat) (f : Core → Core) (s : State) : (modCore c n f s).repairSeq = s.repairSeq := rfl
@[simp] theorem modCore_sec (c n : Nat) (f : Core → Core) (s : State) : (modCore c n f s).sec = s.sec := rfl
@[simp] theorem modCore_win (c n : Nat) (f : Core → Core) (s : State) : (modCore c n f s).win = s.win := rfl
@[simp] theorem modCore_eth (c n : Nat) (f : Core → Core) (s : State) : (modCore c n f s).eth = s.eth := rfl
@[simp] theorem modCore_links (c n : Nat) (f : Core → Core) (s : State) : (modCore c n f s).links = s.links := rfl
@[simp] theorem modCore_linkSpares (c n : Nat) (f : Core → Core) (s : State) : (modCore c n f s).linkSpares = s.linkSpares := rfl
@[simp] theorem modCore_fab (c n : Nat) (f : Core → Core) (s : State) : (modCore c n f s).fab = s.fab := rfl
@[simp] theorem modCore_roods (c n : Nat) (f : Core → Core) (s : State) : (modCore c n f s).roods = s.roods := rfl
@[simp] theorem modCore_slices (c n : Nat) (f : Core → Core) (s : State) : (modCore c n f s).slices = s.slices := rfl
@[simp] theorem modCore_drrNext (c n : Nat) (f : Core → Core) (s : State) : (modCore c n f s).drrNext = s.drrNext := rfl
@[simp] theorem modCore_queues (c n : Nat) (f : Core → Core) (s : State) : (modCore c n f s).queues = s.queues := rfl
@[simp] theorem modCore_descs (c n : Nat) (f : Core → Core) (s : State) : (modCore c n f s).descs = s.descs := rfl
@[simp] theorem modCore_nextDesc (c n : Nat) (f : Core → Core) (s : State) : (modCore c n f s).nextDesc = s.nextDesc := rfl
@[simp] theorem modCore_clusters (c n : Nat) (f : Core → Core) (s : State) : (modCore c n f s).clusters = s.clusters.modify c (fun k => { k with cores := k.cores.modify n f }) := rfl
@[simp] theorem modCore_spareCluster (c n : Nat) (f : Core → Core) (s : State) : (modCore c n f s).spareCluster = s.spareCluster := rfl
@[simp] theorem modCore_stks (c n : Nat) (f : Core → Core) (s : State) : (modCore c n f s).stks = s.stks := rfl
@[simp] theorem modCore_streams (c n : Nat) (f : Core → Core) (s : State) : (modCore c n f s).streams = s.streams := rfl
@[simp] theorem modCore_flash (c n : Nat) (f : Core → Core) (s : State) : (modCore c n f s).flash = s.flash := rfl
@[simp] theorem modCore_slots (c n : Nat) (f : Core → Core) (s : State) : (modCore c n f s).slots = s.slots := rfl
@[simp] theorem modCore_cache (c n : Nat) (f : Core → Core) (s : State) : (modCore c n f s).cache = s.cache := rfl
@[simp] theorem modCore_nextCache (c n : Nat) (f : Core → Core) (s : State) : (modCore c n f s).nextCache = s.nextCache := rfl
@[simp] theorem modCore_requests (c n : Nat) (f : Core → Core) (s : State) : (modCore c n f s).requests = s.requests := rfl
@[simp] theorem modCore_nextReq (c n : Nat) (f : Core → Core) (s : State) : (modCore c n f s).nextReq = s.nextReq := rfl
@[simp] theorem modCore_binds (c n : Nat) (f : Core → Core) (s : State) : (modCore c n f s).binds = s.binds := rfl
@[simp] theorem modCore_mem (c n : Nat) (f : Core → Core) (s : State) : (modCore c n f s).mem = s.mem := rfl
@[simp] theorem modCore_bushels (c n : Nat) (f : Core → Core) (s : State) : (modCore c n f s).bushels = s.bushels := rfl
@[simp] theorem modCore_freeCtr (c n : Nat) (f : Core → Core) (s : State) : (modCore c n f s).freeCtr = s.freeCtr := rfl
@[simp] theorem modCore_pending (c n : Nat) (f : Core → Core) (s : State) : (modCore c n f s).pending = s.pending := rfl
/-! modBank -/
@[simp] theorem modBank_time (c b : Nat) (f : Bank → Bank) (s : State) : (modBank c b f s).time = s.time := rfl
@[simp] theorem modBank_glb (c b : Nat) (f : Bank → Bank) (s : State) : (modBank c b f s).glb = s.glb := rfl
@[simp] theorem modBank_events (c b : Nat) (f : Bank → Bank) (s : State) : (modBank c b f s).events = s.events := rfl
@[simp] theorem modBank_pins (c b : Nat) (f : Bank → Bank) (s : State) : (modBank c b f s).pins = s.pins := rfl
@[simp] theorem modBank_boot (c b : Nat) (f : Bank → Bank) (s : State) : (modBank c b f s).boot = s.boot := rfl
@[simp] theorem modBank_nor (c b : Nat) (f : Bank → Bank) (s : State) : (modBank c b f s).nor = s.nor := rfl
@[simp] theorem modBank_fwc (c b : Nat) (f : Bank → Bank) (s : State) : (modBank c b f s).fwc = s.fwc := rfl
@[simp] theorem modBank_repair (c b : Nat) (f : Bank → Bank) (s : State) : (modBank c b f s).repair = s.repair := rfl
@[simp] theorem modBank_repairSeq (c b : Nat) (f : Bank → Bank) (s : State) : (modBank c b f s).repairSeq = s.repairSeq := rfl
@[simp] theorem modBank_sec (c b : Nat) (f : Bank → Bank) (s : State) : (modBank c b f s).sec = s.sec := rfl
@[simp] theorem modBank_win (c b : Nat) (f : Bank → Bank) (s : State) : (modBank c b f s).win = s.win := rfl
@[simp] theorem modBank_eth (c b : Nat) (f : Bank → Bank) (s : State) : (modBank c b f s).eth = s.eth := rfl
@[simp] theorem modBank_links (c b : Nat) (f : Bank → Bank) (s : State) : (modBank c b f s).links = s.links := rfl
@[simp] theorem modBank_linkSpares (c b : Nat) (f : Bank → Bank) (s : State) : (modBank c b f s).linkSpares = s.linkSpares := rfl
@[simp] theorem modBank_fab (c b : Nat) (f : Bank → Bank) (s : State) : (modBank c b f s).fab = s.fab := rfl
@[simp] theorem modBank_roods (c b : Nat) (f : Bank → Bank) (s : State) : (modBank c b f s).roods = s.roods := rfl
@[simp] theorem modBank_slices (c b : Nat) (f : Bank → Bank) (s : State) : (modBank c b f s).slices = s.slices := rfl
@[simp] theorem modBank_drrNext (c b : Nat) (f : Bank → Bank) (s : State) : (modBank c b f s).drrNext = s.drrNext := rfl
@[simp] theorem modBank_queues (c b : Nat) (f : Bank → Bank) (s : State) : (modBank c b f s).queues = s.queues := rfl
@[simp] theorem modBank_descs (c b : Nat) (f : Bank → Bank) (s : State) : (modBank c b f s).descs = s.descs := rfl
@[simp] theorem modBank_nextDesc (c b : Nat) (f : Bank → Bank) (s : State) : (modBank c b f s).nextDesc = s.nextDesc := rfl
@[simp] theorem modBank_clusters (c b : Nat) (f : Bank → Bank) (s : State) : (modBank c b f s).clusters = s.clusters.modify c (fun k => { k with banks := k.banks.modify b f }) := rfl
@[simp] theorem modBank_spareCluster (c b : Nat) (f : Bank → Bank) (s : State) : (modBank c b f s).spareCluster = s.spareCluster := rfl
@[simp] theorem modBank_stks (c b : Nat) (f : Bank → Bank) (s : State) : (modBank c b f s).stks = s.stks := rfl
@[simp] theorem modBank_streams (c b : Nat) (f : Bank → Bank) (s : State) : (modBank c b f s).streams = s.streams := rfl
@[simp] theorem modBank_flash (c b : Nat) (f : Bank → Bank) (s : State) : (modBank c b f s).flash = s.flash := rfl
@[simp] theorem modBank_slots (c b : Nat) (f : Bank → Bank) (s : State) : (modBank c b f s).slots = s.slots := rfl
@[simp] theorem modBank_cache (c b : Nat) (f : Bank → Bank) (s : State) : (modBank c b f s).cache = s.cache := rfl
@[simp] theorem modBank_nextCache (c b : Nat) (f : Bank → Bank) (s : State) : (modBank c b f s).nextCache = s.nextCache := rfl
@[simp] theorem modBank_requests (c b : Nat) (f : Bank → Bank) (s : State) : (modBank c b f s).requests = s.requests := rfl
@[simp] theorem modBank_nextReq (c b : Nat) (f : Bank → Bank) (s : State) : (modBank c b f s).nextReq = s.nextReq := rfl
@[simp] theorem modBank_binds (c b : Nat) (f : Bank → Bank) (s : State) : (modBank c b f s).binds = s.binds := rfl
@[simp] theorem modBank_mem (c b : Nat) (f : Bank → Bank) (s : State) : (modBank c b f s).mem = s.mem := rfl
@[simp] theorem modBank_bushels (c b : Nat) (f : Bank → Bank) (s : State) : (modBank c b f s).bushels = s.bushels := rfl
@[simp] theorem modBank_freeCtr (c b : Nat) (f : Bank → Bank) (s : State) : (modBank c b f s).freeCtr = s.freeCtr := rfl
@[simp] theorem modBank_pending (c b : Nat) (f : Bank → Bank) (s : State) : (modBank c b f s).pending = s.pending := rfl
/-! modComb -/
@[simp] theorem modComb_time (c i : Nat) (f : Comb → Comb) (s : State) : (modComb c i f s).time = s.time := rfl
@[simp] theorem modComb_glb (c i : Nat) (f : Comb → Comb) (s : State) : (modComb c i f s).glb = s.glb := rfl
@[simp] theorem modComb_events (c i : Nat) (f : Comb → Comb) (s : State) : (modComb c i f s).events = s.events := rfl
@[simp] theorem modComb_pins (c i : Nat) (f : Comb → Comb) (s : State) : (modComb c i f s).pins = s.pins := rfl
@[simp] theorem modComb_boot (c i : Nat) (f : Comb → Comb) (s : State) : (modComb c i f s).boot = s.boot := rfl
@[simp] theorem modComb_nor (c i : Nat) (f : Comb → Comb) (s : State) : (modComb c i f s).nor = s.nor := rfl
@[simp] theorem modComb_fwc (c i : Nat) (f : Comb → Comb) (s : State) : (modComb c i f s).fwc = s.fwc := rfl
@[simp] theorem modComb_repair (c i : Nat) (f : Comb → Comb) (s : State) : (modComb c i f s).repair = s.repair := rfl
@[simp] theorem modComb_repairSeq (c i : Nat) (f : Comb → Comb) (s : State) : (modComb c i f s).repairSeq = s.repairSeq := rfl
@[simp] theorem modComb_sec (c i : Nat) (f : Comb → Comb) (s : State) : (modComb c i f s).sec = s.sec := rfl
@[simp] theorem modComb_win (c i : Nat) (f : Comb → Comb) (s : State) : (modComb c i f s).win = s.win := rfl
@[simp] theorem modComb_eth (c i : Nat) (f : Comb → Comb) (s : State) : (modComb c i f s).eth = s.eth := rfl
@[simp] theorem modComb_links (c i : Nat) (f : Comb → Comb) (s : State) : (modComb c i f s).links = s.links := rfl
@[simp] theorem modComb_linkSpares (c i : Nat) (f : Comb → Comb) (s : State) : (modComb c i f s).linkSpares = s.linkSpares := rfl
@[simp] theorem modComb_fab (c i : Nat) (f : Comb → Comb) (s : State) : (modComb c i f s).fab = s.fab := rfl
@[simp] theorem modComb_roods (c i : Nat) (f : Comb → Comb) (s : State) : (modComb c i f s).roods = s.roods := rfl
@[simp] theorem modComb_slices (c i : Nat) (f : Comb → Comb) (s : State) : (modComb c i f s).slices = s.slices := rfl
@[simp] theorem modComb_drrNext (c i : Nat) (f : Comb → Comb) (s : State) : (modComb c i f s).drrNext = s.drrNext := rfl
@[simp] theorem modComb_queues (c i : Nat) (f : Comb → Comb) (s : State) : (modComb c i f s).queues = s.queues := rfl
@[simp] theorem modComb_descs (c i : Nat) (f : Comb → Comb) (s : State) : (modComb c i f s).descs = s.descs := rfl
@[simp] theorem modComb_nextDesc (c i : Nat) (f : Comb → Comb) (s : State) : (modComb c i f s).nextDesc = s.nextDesc := rfl
@[simp] theorem modComb_clusters (c i : Nat) (f : Comb → Comb) (s : State) : (modComb c i f s).clusters = s.clusters.modify c (fun k => { k with comb := k.comb.modify i f }) := rfl
@[simp] theorem modComb_spareCluster (c i : Nat) (f : Comb → Comb) (s : State) : (modComb c i f s).spareCluster = s.spareCluster := rfl
@[simp] theorem modComb_stks (c i : Nat) (f : Comb → Comb) (s : State) : (modComb c i f s).stks = s.stks := rfl
@[simp] theorem modComb_streams (c i : Nat) (f : Comb → Comb) (s : State) : (modComb c i f s).streams = s.streams := rfl
@[simp] theorem modComb_flash (c i : Nat) (f : Comb → Comb) (s : State) : (modComb c i f s).flash = s.flash := rfl
@[simp] theorem modComb_slots (c i : Nat) (f : Comb → Comb) (s : State) : (modComb c i f s).slots = s.slots := rfl
@[simp] theorem modComb_cache (c i : Nat) (f : Comb → Comb) (s : State) : (modComb c i f s).cache = s.cache := rfl
@[simp] theorem modComb_nextCache (c i : Nat) (f : Comb → Comb) (s : State) : (modComb c i f s).nextCache = s.nextCache := rfl
@[simp] theorem modComb_requests (c i : Nat) (f : Comb → Comb) (s : State) : (modComb c i f s).requests = s.requests := rfl
@[simp] theorem modComb_nextReq (c i : Nat) (f : Comb → Comb) (s : State) : (modComb c i f s).nextReq = s.nextReq := rfl
@[simp] theorem modComb_binds (c i : Nat) (f : Comb → Comb) (s : State) : (modComb c i f s).binds = s.binds := rfl
@[simp] theorem modComb_mem (c i : Nat) (f : Comb → Comb) (s : State) : (modComb c i f s).mem = s.mem := rfl
@[simp] theorem modComb_bushels (c i : Nat) (f : Comb → Comb) (s : State) : (modComb c i f s).bushels = s.bushels := rfl
@[simp] theorem modComb_freeCtr (c i : Nat) (f : Comb → Comb) (s : State) : (modComb c i f s).freeCtr = s.freeCtr := rfl
@[simp] theorem modComb_pending (c i : Nat) (f : Comb → Comb) (s : State) : (modComb c i f s).pending = s.pending := rfl
/-! modStack -/
@[simp] theorem modStack_time (t : Nat) (f : Stack → Stack) (s : State) : (modStack t f s).time = s.time := rfl
@[simp] theorem modStack_glb (t : Nat) (f : Stack → Stack) (s : State) : (modStack t f s).glb = s.glb := rfl
@[simp] theorem modStack_events (t : Nat) (f : Stack → Stack) (s : State) : (modStack t f s).events = s.events := rfl
@[simp] theorem modStack_pins (t : Nat) (f : Stack → Stack) (s : State) : (modStack t f s).pins = s.pins := rfl
@[simp] theorem modStack_boot (t : Nat) (f : Stack → Stack) (s : State) : (modStack t f s).boot = s.boot := rfl
@[simp] theorem modStack_nor (t : Nat) (f : Stack → Stack) (s : State) : (modStack t f s).nor = s.nor := rfl
@[simp] theorem modStack_fwc (t : Nat) (f : Stack → Stack) (s : State) : (modStack t f s).fwc = s.fwc := rfl
@[simp] theorem modStack_repair (t : Nat) (f : Stack → Stack) (s : State) : (modStack t f s).repair = s.repair := rfl
@[simp] theorem modStack_repairSeq (t : Nat) (f : Stack → Stack) (s : State) : (modStack t f s).repairSeq = s.repairSeq := rfl
@[simp] theorem modStack_sec (t : Nat) (f : Stack → Stack) (s : State) : (modStack t f s).sec = s.sec := rfl
@[simp] theorem modStack_win (t : Nat) (f : Stack → Stack) (s : State) : (modStack t f s).win = s.win := rfl
@[simp] theorem modStack_eth (t : Nat) (f : Stack → Stack) (s : State) : (modStack t f s).eth = s.eth := rfl
@[simp] theorem modStack_links (t : Nat) (f : Stack → Stack) (s : State) : (modStack t f s).links = s.links := rfl
@[simp] theorem modStack_linkSpares (t : Nat) (f : Stack → Stack) (s : State) : (modStack t f s).linkSpares = s.linkSpares := rfl
@[simp] theorem modStack_fab (t : Nat) (f : Stack → Stack) (s : State) : (modStack t f s).fab = s.fab := rfl
@[simp] theorem modStack_roods (t : Nat) (f : Stack → Stack) (s : State) : (modStack t f s).roods = s.roods := rfl
@[simp] theorem modStack_slices (t : Nat) (f : Stack → Stack) (s : State) : (modStack t f s).slices = s.slices := rfl
@[simp] theorem modStack_drrNext (t : Nat) (f : Stack → Stack) (s : State) : (modStack t f s).drrNext = s.drrNext := rfl
@[simp] theorem modStack_queues (t : Nat) (f : Stack → Stack) (s : State) : (modStack t f s).queues = s.queues := rfl
@[simp] theorem modStack_descs (t : Nat) (f : Stack → Stack) (s : State) : (modStack t f s).descs = s.descs := rfl
@[simp] theorem modStack_nextDesc (t : Nat) (f : Stack → Stack) (s : State) : (modStack t f s).nextDesc = s.nextDesc := rfl
@[simp] theorem modStack_clusters (t : Nat) (f : Stack → Stack) (s : State) : (modStack t f s).clusters = s.clusters := rfl
@[simp] theorem modStack_spareCluster (t : Nat) (f : Stack → Stack) (s : State) : (modStack t f s).spareCluster = s.spareCluster := rfl
@[simp] theorem modStack_stks (t : Nat) (f : Stack → Stack) (s : State) : (modStack t f s).stks = s.stks.modify t f := rfl
@[simp] theorem modStack_streams (t : Nat) (f : Stack → Stack) (s : State) : (modStack t f s).streams = s.streams := rfl
@[simp] theorem modStack_flash (t : Nat) (f : Stack → Stack) (s : State) : (modStack t f s).flash = s.flash := rfl
@[simp] theorem modStack_slots (t : Nat) (f : Stack → Stack) (s : State) : (modStack t f s).slots = s.slots := rfl
@[simp] theorem modStack_cache (t : Nat) (f : Stack → Stack) (s : State) : (modStack t f s).cache = s.cache := rfl
@[simp] theorem modStack_nextCache (t : Nat) (f : Stack → Stack) (s : State) : (modStack t f s).nextCache = s.nextCache := rfl
@[simp] theorem modStack_requests (t : Nat) (f : Stack → Stack) (s : State) : (modStack t f s).requests = s.requests := rfl
@[simp] theorem modStack_nextReq (t : Nat) (f : Stack → Stack) (s : State) : (modStack t f s).nextReq = s.nextReq := rfl
@[simp] theorem modStack_binds (t : Nat) (f : Stack → Stack) (s : State) : (modStack t f s).binds = s.binds := rfl
@[simp] theorem modStack_mem (t : Nat) (f : Stack → Stack) (s : State) : (modStack t f s).mem = s.mem := rfl
@[simp] theorem modStack_bushels (t : Nat) (f : Stack → Stack) (s : State) : (modStack t f s).bushels = s.bushels := rfl
@[simp] theorem modStack_freeCtr (t : Nat) (f : Stack → Stack) (s : State) : (modStack t f s).freeCtr = s.freeCtr := rfl
@[simp] theorem modStack_pending (t : Nat) (f : Stack → Stack) (s : State) : (modStack t f s).pending = s.pending := rfl
/-! modEngine -/
@[simp] theorem modEngine_time (t e : Nat) (f : Engine → Engine) (s : State) : (modEngine t e f s).time = s.time := rfl
@[simp] theorem modEngine_glb (t e : Nat) (f : Engine → Engine) (s : State) : (modEngine t e f s).glb = s.glb := rfl
@[simp] theorem modEngine_events (t e : Nat) (f : Engine → Engine) (s : State) : (modEngine t e f s).events = s.events := rfl
@[simp] theorem modEngine_pins (t e : Nat) (f : Engine → Engine) (s : State) : (modEngine t e f s).pins = s.pins := rfl
@[simp] theorem modEngine_boot (t e : Nat) (f : Engine → Engine) (s : State) : (modEngine t e f s).boot = s.boot := rfl
@[simp] theorem modEngine_nor (t e : Nat) (f : Engine → Engine) (s : State) : (modEngine t e f s).nor = s.nor := rfl
@[simp] theorem modEngine_fwc (t e : Nat) (f : Engine → Engine) (s : State) : (modEngine t e f s).fwc = s.fwc := rfl
@[simp] theorem modEngine_repair (t e : Nat) (f : Engine → Engine) (s : State) : (modEngine t e f s).repair = s.repair := rfl
@[simp] theorem modEngine_repairSeq (t e : Nat) (f : Engine → Engine) (s : State) : (modEngine t e f s).repairSeq = s.repairSeq := rfl
@[simp] theorem modEngine_sec (t e : Nat) (f : Engine → Engine) (s : State) : (modEngine t e f s).sec = s.sec := rfl
@[simp] theorem modEngine_win (t e : Nat) (f : Engine → Engine) (s : State) : (modEngine t e f s).win = s.win := rfl
@[simp] theorem modEngine_eth (t e : Nat) (f : Engine → Engine) (s : State) : (modEngine t e f s).eth = s.eth := rfl
@[simp] theorem modEngine_links (t e : Nat) (f : Engine → Engine) (s : State) : (modEngine t e f s).links = s.links := rfl
@[simp] theorem modEngine_linkSpares (t e : Nat) (f : Engine → Engine) (s : State) : (modEngine t e f s).linkSpares = s.linkSpares := rfl
@[simp] theorem modEngine_fab (t e : Nat) (f : Engine → Engine) (s : State) : (modEngine t e f s).fab = s.fab := rfl
@[simp] theorem modEngine_roods (t e : Nat) (f : Engine → Engine) (s : State) : (modEngine t e f s).roods = s.roods := rfl
@[simp] theorem modEngine_slices (t e : Nat) (f : Engine → Engine) (s : State) : (modEngine t e f s).slices = s.slices := rfl
@[simp] theorem modEngine_drrNext (t e : Nat) (f : Engine → Engine) (s : State) : (modEngine t e f s).drrNext = s.drrNext := rfl
@[simp] theorem modEngine_queues (t e : Nat) (f : Engine → Engine) (s : State) : (modEngine t e f s).queues = s.queues := rfl
@[simp] theorem modEngine_descs (t e : Nat) (f : Engine → Engine) (s : State) : (modEngine t e f s).descs = s.descs := rfl
@[simp] theorem modEngine_nextDesc (t e : Nat) (f : Engine → Engine) (s : State) : (modEngine t e f s).nextDesc = s.nextDesc := rfl
@[simp] theorem modEngine_clusters (t e : Nat) (f : Engine → Engine) (s : State) : (modEngine t e f s).clusters = s.clusters := rfl
@[simp] theorem modEngine_spareCluster (t e : Nat) (f : Engine → Engine) (s : State) : (modEngine t e f s).spareCluster = s.spareCluster := rfl
@[simp] theorem modEngine_stks (t e : Nat) (f : Engine → Engine) (s : State) : (modEngine t e f s).stks = s.stks.modify t (fun k => { k with engines := k.engines.modify e f }) := rfl
@[simp] theorem modEngine_streams (t e : Nat) (f : Engine → Engine) (s : State) : (modEngine t e f s).streams = s.streams := rfl
@[simp] theorem modEngine_flash (t e : Nat) (f : Engine → Engine) (s : State) : (modEngine t e f s).flash = s.flash := rfl
@[simp] theorem modEngine_slots (t e : Nat) (f : Engine → Engine) (s : State) : (modEngine t e f s).slots = s.slots := rfl
@[simp] theorem modEngine_cache (t e : Nat) (f : Engine → Engine) (s : State) : (modEngine t e f s).cache = s.cache := rfl
@[simp] theorem modEngine_nextCache (t e : Nat) (f : Engine → Engine) (s : State) : (modEngine t e f s).nextCache = s.nextCache := rfl
@[simp] theorem modEngine_requests (t e : Nat) (f : Engine → Engine) (s : State) : (modEngine t e f s).requests = s.requests := rfl
@[simp] theorem modEngine_nextReq (t e : Nat) (f : Engine → Engine) (s : State) : (modEngine t e f s).nextReq = s.nextReq := rfl
@[simp] theorem modEngine_binds (t e : Nat) (f : Engine → Engine) (s : State) : (modEngine t e f s).binds = s.binds := rfl
@[simp] theorem modEngine_mem (t e : Nat) (f : Engine → Engine) (s : State) : (modEngine t e f s).mem = s.mem := rfl
@[simp] theorem modEngine_bushels (t e : Nat) (f : Engine → Engine) (s : State) : (modEngine t e f s).bushels = s.bushels := rfl
@[simp] theorem modEngine_freeCtr (t e : Nat) (f : Engine → Engine) (s : State) : (modEngine t e f s).freeCtr = s.freeCtr := rfl
@[simp] theorem modEngine_pending (t e : Nat) (f : Engine → Engine) (s : State) : (modEngine t e f s).pending = s.pending := rfl
/-! modLock -/
@[simp] theorem modLock_time (t i : Nat) (f : LockEntry → LockEntry) (s : State) : (modLock t i f s).time = s.time := rfl
@[simp] theorem modLock_glb (t i : Nat) (f : LockEntry → LockEntry) (s : State) : (modLock t i f s).glb = s.glb := rfl
@[simp] theorem modLock_events (t i : Nat) (f : LockEntry → LockEntry) (s : State) : (modLock t i f s).events = s.events := rfl
@[simp] theorem modLock_pins (t i : Nat) (f : LockEntry → LockEntry) (s : State) : (modLock t i f s).pins = s.pins := rfl
@[simp] theorem modLock_boot (t i : Nat) (f : LockEntry → LockEntry) (s : State) : (modLock t i f s).boot = s.boot := rfl
@[simp] theorem modLock_nor (t i : Nat) (f : LockEntry → LockEntry) (s : State) : (modLock t i f s).nor = s.nor := rfl
@[simp] theorem modLock_fwc (t i : Nat) (f : LockEntry → LockEntry) (s : State) : (modLock t i f s).fwc = s.fwc := rfl
@[simp] theorem modLock_repair (t i : Nat) (f : LockEntry → LockEntry) (s : State) : (modLock t i f s).repair = s.repair := rfl
@[simp] theorem modLock_repairSeq (t i : Nat) (f : LockEntry → LockEntry) (s : State) : (modLock t i f s).repairSeq = s.repairSeq := rfl
@[simp] theorem modLock_sec (t i : Nat) (f : LockEntry → LockEntry) (s : State) : (modLock t i f s).sec = s.sec := rfl
@[simp] theorem modLock_win (t i : Nat) (f : LockEntry → LockEntry) (s : State) : (modLock t i f s).win = s.win := rfl
@[simp] theorem modLock_eth (t i : Nat) (f : LockEntry → LockEntry) (s : State) : (modLock t i f s).eth = s.eth := rfl
@[simp] theorem modLock_links (t i : Nat) (f : LockEntry → LockEntry) (s : State) : (modLock t i f s).links = s.links := rfl
@[simp] theorem modLock_linkSpares (t i : Nat) (f : LockEntry → LockEntry) (s : State) : (modLock t i f s).linkSpares = s.linkSpares := rfl
@[simp] theorem modLock_fab (t i : Nat) (f : LockEntry → LockEntry) (s : State) : (modLock t i f s).fab = s.fab := rfl
@[simp] theorem modLock_roods (t i : Nat) (f : LockEntry → LockEntry) (s : State) : (modLock t i f s).roods = s.roods := rfl
@[simp] theorem modLock_slices (t i : Nat) (f : LockEntry → LockEntry) (s : State) : (modLock t i f s).slices = s.slices := rfl
@[simp] theorem modLock_drrNext (t i : Nat) (f : LockEntry → LockEntry) (s : State) : (modLock t i f s).drrNext = s.drrNext := rfl
@[simp] theorem modLock_queues (t i : Nat) (f : LockEntry → LockEntry) (s : State) : (modLock t i f s).queues = s.queues := rfl
@[simp] theorem modLock_descs (t i : Nat) (f : LockEntry → LockEntry) (s : State) : (modLock t i f s).descs = s.descs := rfl
@[simp] theorem modLock_nextDesc (t i : Nat) (f : LockEntry → LockEntry) (s : State) : (modLock t i f s).nextDesc = s.nextDesc := rfl
@[simp] theorem modLock_clusters (t i : Nat) (f : LockEntry → LockEntry) (s : State) : (modLock t i f s).clusters = s.clusters := rfl
@[simp] theorem modLock_spareCluster (t i : Nat) (f : LockEntry → LockEntry) (s : State) : (modLock t i f s).spareCluster = s.spareCluster := rfl
@[simp] theorem modLock_stks (t i : Nat) (f : LockEntry → LockEntry) (s : State) : (modLock t i f s).stks = s.stks.modify t (fun k => { k with locks := k.locks.modify i f }) := rfl
@[simp] theorem modLock_streams (t i : Nat) (f : LockEntry → LockEntry) (s : State) : (modLock t i f s).streams = s.streams := rfl
@[simp] theorem modLock_flash (t i : Nat) (f : LockEntry → LockEntry) (s : State) : (modLock t i f s).flash = s.flash := rfl
@[simp] theorem modLock_slots (t i : Nat) (f : LockEntry → LockEntry) (s : State) : (modLock t i f s).slots = s.slots := rfl
@[simp] theorem modLock_cache (t i : Nat) (f : LockEntry → LockEntry) (s : State) : (modLock t i f s).cache = s.cache := rfl
@[simp] theorem modLock_nextCache (t i : Nat) (f : LockEntry → LockEntry) (s : State) : (modLock t i f s).nextCache = s.nextCache := rfl
@[simp] theorem modLock_requests (t i : Nat) (f : LockEntry → LockEntry) (s : State) : (modLock t i f s).requests = s.requests := rfl
@[simp] theorem modLock_nextReq (t i : Nat) (f : LockEntry → LockEntry) (s : State) : (modLock t i f s).nextReq = s.nextReq := rfl
@[simp] theorem modLock_binds (t i : Nat) (f : LockEntry → LockEntry) (s : State) : (modLock t i f s).binds = s.binds := rfl
@[simp] theorem modLock_mem (t i : Nat) (f : LockEntry → LockEntry) (s : State) : (modLock t i f s).mem = s.mem := rfl
@[simp] theorem modLock_bushels (t i : Nat) (f : LockEntry → LockEntry) (s : State) : (modLock t i f s).bushels = s.bushels := rfl
@[simp] theorem modLock_freeCtr (t i : Nat) (f : LockEntry → LockEntry) (s : State) : (modLock t i f s).freeCtr = s.freeCtr := rfl
@[simp] theorem modLock_pending (t i : Nat) (f : LockEntry → LockEntry) (s : State) : (modLock t i f s).pending = s.pending := rfl
/-! modLink -/
@[simp] theorem modLink_time (l : Nat) (f : Link → Link) (s : State) : (modLink l f s).time = s.time := rfl
@[simp] theorem modLink_glb (l : Nat) (f : Link → Link) (s : State) : (modLink l f s).glb = s.glb := rfl
@[simp] theorem modLink_events (l : Nat) (f : Link → Link) (s : State) : (modLink l f s).events = s.events := rfl
@[simp] theorem modLink_pins (l : Nat) (f : Link → Link) (s : State) : (modLink l f s).pins = s.pins := rfl
@[simp] theorem modLink_boot (l : Nat) (f : Link → Link) (s : State) : (modLink l f s).boot = s.boot := rfl
@[simp] theorem modLink_nor (l : Nat) (f : Link → Link) (s : State) : (modLink l f s).nor = s.nor := rfl
@[simp] theorem modLink_fwc (l : Nat) (f : Link → Link) (s : State) : (modLink l f s).fwc = s.fwc := rfl
@[simp] theorem modLink_repair (l : Nat) (f : Link → Link) (s : State) : (modLink l f s).repair = s.repair := rfl
@[simp] theorem modLink_repairSeq (l : Nat) (f : Link → Link) (s : State) : (modLink l f s).repairSeq = s.repairSeq := rfl
@[simp] theorem modLink_sec (l : Nat) (f : Link → Link) (s : State) : (modLink l f s).sec = s.sec := rfl
@[simp] theorem modLink_win (l : Nat) (f : Link → Link) (s : State) : (modLink l f s).win = s.win := rfl
@[simp] theorem modLink_eth (l : Nat) (f : Link → Link) (s : State) : (modLink l f s).eth = s.eth := rfl
@[simp] theorem modLink_links (l : Nat) (f : Link → Link) (s : State) : (modLink l f s).links = s.links.modify l f := rfl
@[simp] theorem modLink_linkSpares (l : Nat) (f : Link → Link) (s : State) : (modLink l f s).linkSpares = s.linkSpares := rfl
@[simp] theorem modLink_fab (l : Nat) (f : Link → Link) (s : State) : (modLink l f s).fab = s.fab := rfl
@[simp] theorem modLink_roods (l : Nat) (f : Link → Link) (s : State) : (modLink l f s).roods = s.roods := rfl
@[simp] theorem modLink_slices (l : Nat) (f : Link → Link) (s : State) : (modLink l f s).slices = s.slices := rfl
@[simp] theorem modLink_drrNext (l : Nat) (f : Link → Link) (s : State) : (modLink l f s).drrNext = s.drrNext := rfl
@[simp] theorem modLink_queues (l : Nat) (f : Link → Link) (s : State) : (modLink l f s).queues = s.queues := rfl
@[simp] theorem modLink_descs (l : Nat) (f : Link → Link) (s : State) : (modLink l f s).descs = s.descs := rfl
@[simp] theorem modLink_nextDesc (l : Nat) (f : Link → Link) (s : State) : (modLink l f s).nextDesc = s.nextDesc := rfl
@[simp] theorem modLink_clusters (l : Nat) (f : Link → Link) (s : State) : (modLink l f s).clusters = s.clusters := rfl
@[simp] theorem modLink_spareCluster (l : Nat) (f : Link → Link) (s : State) : (modLink l f s).spareCluster = s.spareCluster := rfl
@[simp] theorem modLink_stks (l : Nat) (f : Link → Link) (s : State) : (modLink l f s).stks = s.stks := rfl
@[simp] theorem modLink_streams (l : Nat) (f : Link → Link) (s : State) : (modLink l f s).streams = s.streams := rfl
@[simp] theorem modLink_flash (l : Nat) (f : Link → Link) (s : State) : (modLink l f s).flash = s.flash := rfl
@[simp] theorem modLink_slots (l : Nat) (f : Link → Link) (s : State) : (modLink l f s).slots = s.slots := rfl
@[simp] theorem modLink_cache (l : Nat) (f : Link → Link) (s : State) : (modLink l f s).cache = s.cache := rfl
@[simp] theorem modLink_nextCache (l : Nat) (f : Link → Link) (s : State) : (modLink l f s).nextCache = s.nextCache := rfl
@[simp] theorem modLink_requests (l : Nat) (f : Link → Link) (s : State) : (modLink l f s).requests = s.requests := rfl
@[simp] theorem modLink_nextReq (l : Nat) (f : Link → Link) (s : State) : (modLink l f s).nextReq = s.nextReq := rfl
@[simp] theorem modLink_binds (l : Nat) (f : Link → Link) (s : State) : (modLink l f s).binds = s.binds := rfl
@[simp] theorem modLink_mem (l : Nat) (f : Link → Link) (s : State) : (modLink l f s).mem = s.mem := rfl
@[simp] theorem modLink_bushels (l : Nat) (f : Link → Link) (s : State) : (modLink l f s).bushels = s.bushels := rfl
@[simp] theorem modLink_freeCtr (l : Nat) (f : Link → Link) (s : State) : (modLink l f s).freeCtr = s.freeCtr := rfl
@[simp] theorem modLink_pending (l : Nat) (f : Link → Link) (s : State) : (modLink l f s).pending = s.pending := rfl
/-! modDesc -/
@[simp] theorem modDesc_time (d : Nat) (f : Desc → Desc) (s : State) : (modDesc d f s).time = s.time := rfl
@[simp] theorem modDesc_glb (d : Nat) (f : Desc → Desc) (s : State) : (modDesc d f s).glb = s.glb := rfl
@[simp] theorem modDesc_events (d : Nat) (f : Desc → Desc) (s : State) : (modDesc d f s).events = s.events := rfl
@[simp] theorem modDesc_pins (d : Nat) (f : Desc → Desc) (s : State) : (modDesc d f s).pins = s.pins := rfl
@[simp] theorem modDesc_boot (d : Nat) (f : Desc → Desc) (s : State) : (modDesc d f s).boot = s.boot := rfl
@[simp] theorem modDesc_nor (d : Nat) (f : Desc → Desc) (s : State) : (modDesc d f s).nor = s.nor := rfl
@[simp] theorem modDesc_fwc (d : Nat) (f : Desc → Desc) (s : State) : (modDesc d f s).fwc = s.fwc := rfl
@[simp] theorem modDesc_repair (d : Nat) (f : Desc → Desc) (s : State) : (modDesc d f s).repair = s.repair := rfl
@[simp] theorem modDesc_repairSeq (d : Nat) (f : Desc → Desc) (s : State) : (modDesc d f s).repairSeq = s.repairSeq := rfl
@[simp] theorem modDesc_sec (d : Nat) (f : Desc → Desc) (s : State) : (modDesc d f s).sec = s.sec := rfl
@[simp] theorem modDesc_win (d : Nat) (f : Desc → Desc) (s : State) : (modDesc d f s).win = s.win := rfl
@[simp] theorem modDesc_eth (d : Nat) (f : Desc → Desc) (s : State) : (modDesc d f s).eth = s.eth := rfl
@[simp] theorem modDesc_links (d : Nat) (f : Desc → Desc) (s : State) : (modDesc d f s).links = s.links := rfl
@[simp] theorem modDesc_linkSpares (d : Nat) (f : Desc → Desc) (s : State) : (modDesc d f s).linkSpares = s.linkSpares := rfl
@[simp] theorem modDesc_fab (d : Nat) (f : Desc → Desc) (s : State) : (modDesc d f s).fab = s.fab := rfl
@[simp] theorem modDesc_roods (d : Nat) (f : Desc → Desc) (s : State) : (modDesc d f s).roods = s.roods := rfl
@[simp] theorem modDesc_slices (d : Nat) (f : Desc → Desc) (s : State) : (modDesc d f s).slices = s.slices := rfl
@[simp] theorem modDesc_drrNext (d : Nat) (f : Desc → Desc) (s : State) : (modDesc d f s).drrNext = s.drrNext := rfl
@[simp] theorem modDesc_queues (d : Nat) (f : Desc → Desc) (s : State) : (modDesc d f s).queues = s.queues := rfl
@[simp] theorem modDesc_descs (d : Nat) (f : Desc → Desc) (s : State) : (modDesc d f s).descs = tmod d f s.descs := rfl
@[simp] theorem modDesc_nextDesc (d : Nat) (f : Desc → Desc) (s : State) : (modDesc d f s).nextDesc = s.nextDesc := rfl
@[simp] theorem modDesc_clusters (d : Nat) (f : Desc → Desc) (s : State) : (modDesc d f s).clusters = s.clusters := rfl
@[simp] theorem modDesc_spareCluster (d : Nat) (f : Desc → Desc) (s : State) : (modDesc d f s).spareCluster = s.spareCluster := rfl
@[simp] theorem modDesc_stks (d : Nat) (f : Desc → Desc) (s : State) : (modDesc d f s).stks = s.stks := rfl
@[simp] theorem modDesc_streams (d : Nat) (f : Desc → Desc) (s : State) : (modDesc d f s).streams = s.streams := rfl
@[simp] theorem modDesc_flash (d : Nat) (f : Desc → Desc) (s : State) : (modDesc d f s).flash = s.flash := rfl
@[simp] theorem modDesc_slots (d : Nat) (f : Desc → Desc) (s : State) : (modDesc d f s).slots = s.slots := rfl
@[simp] theorem modDesc_cache (d : Nat) (f : Desc → Desc) (s : State) : (modDesc d f s).cache = s.cache := rfl
@[simp] theorem modDesc_nextCache (d : Nat) (f : Desc → Desc) (s : State) : (modDesc d f s).nextCache = s.nextCache := rfl
@[simp] theorem modDesc_requests (d : Nat) (f : Desc → Desc) (s : State) : (modDesc d f s).requests = s.requests := rfl
@[simp] theorem modDesc_nextReq (d : Nat) (f : Desc → Desc) (s : State) : (modDesc d f s).nextReq = s.nextReq := rfl
@[simp] theorem modDesc_binds (d : Nat) (f : Desc → Desc) (s : State) : (modDesc d f s).binds = s.binds := rfl
@[simp] theorem modDesc_mem (d : Nat) (f : Desc → Desc) (s : State) : (modDesc d f s).mem = s.mem := rfl
@[simp] theorem modDesc_bushels (d : Nat) (f : Desc → Desc) (s : State) : (modDesc d f s).bushels = s.bushels := rfl
@[simp] theorem modDesc_freeCtr (d : Nat) (f : Desc → Desc) (s : State) : (modDesc d f s).freeCtr = s.freeCtr := rfl
@[simp] theorem modDesc_pending (d : Nat) (f : Desc → Desc) (s : State) : (modDesc d f s).pending = s.pending := rfl
/-! modQueue -/
@[simp] theorem modQueue_time (q : Nat) (f : Queue → Queue) (s : State) : (modQueue q f s).time = s.time := rfl
@[simp] theorem modQueue_glb (q : Nat) (f : Queue → Queue) (s : State) : (modQueue q f s).glb = s.glb := rfl
@[simp] theorem modQueue_events (q : Nat) (f : Queue → Queue) (s : State) : (modQueue q f s).events = s.events := rfl
@[simp] theorem modQueue_pins (q : Nat) (f : Queue → Queue) (s : State) : (modQueue q f s).pins = s.pins := rfl
@[simp] theorem modQueue_boot (q : Nat) (f : Queue → Queue) (s : State) : (modQueue q f s).boot = s.boot := rfl
@[simp] theorem modQueue_nor (q : Nat) (f : Queue → Queue) (s : State) : (modQueue q f s).nor = s.nor := rfl
@[simp] theorem modQueue_fwc (q : Nat) (f : Queue → Queue) (s : State) : (modQueue q f s).fwc = s.fwc := rfl
@[simp] theorem modQueue_repair (q : Nat) (f : Queue → Queue) (s : State) : (modQueue q f s).repair = s.repair := rfl
@[simp] theorem modQueue_repairSeq (q : Nat) (f : Queue → Queue) (s : State) : (modQueue q f s).repairSeq = s.repairSeq := rfl
@[simp] theorem modQueue_sec (q : Nat) (f : Queue → Queue) (s : State) : (modQueue q f s).sec = s.sec := rfl
@[simp] theorem modQueue_win (q : Nat) (f : Queue → Queue) (s : State) : (modQueue q f s).win = s.win := rfl
@[simp] theorem modQueue_eth (q : Nat) (f : Queue → Queue) (s : State) : (modQueue q f s).eth = s.eth := rfl
@[simp] theorem modQueue_links (q : Nat) (f : Queue → Queue) (s : State) : (modQueue q f s).links = s.links := rfl
@[simp] theorem modQueue_linkSpares (q : Nat) (f : Queue → Queue) (s : State) : (modQueue q f s).linkSpares = s.linkSpares := rfl
@[simp] theorem modQueue_fab (q : Nat) (f : Queue → Queue) (s : State) : (modQueue q f s).fab = s.fab := rfl
@[simp] theorem modQueue_roods (q : Nat) (f : Queue → Queue) (s : State) : (modQueue q f s).roods = s.roods := rfl
@[simp] theorem modQueue_slices (q : Nat) (f : Queue → Queue) (s : State) : (modQueue q f s).slices = s.slices := rfl
@[simp] theorem modQueue_drrNext (q : Nat) (f : Queue → Queue) (s : State) : (modQueue q f s).drrNext = s.drrNext := rfl
@[simp] theorem modQueue_queues (q : Nat) (f : Queue → Queue) (s : State) : (modQueue q f s).queues = tmod q f s.queues := rfl
@[simp] theorem modQueue_descs (q : Nat) (f : Queue → Queue) (s : State) : (modQueue q f s).descs = s.descs := rfl
@[simp] theorem modQueue_nextDesc (q : Nat) (f : Queue → Queue) (s : State) : (modQueue q f s).nextDesc = s.nextDesc := rfl
@[simp] theorem modQueue_clusters (q : Nat) (f : Queue → Queue) (s : State) : (modQueue q f s).clusters = s.clusters := rfl
@[simp] theorem modQueue_spareCluster (q : Nat) (f : Queue → Queue) (s : State) : (modQueue q f s).spareCluster = s.spareCluster := rfl
@[simp] theorem modQueue_stks (q : Nat) (f : Queue → Queue) (s : State) : (modQueue q f s).stks = s.stks := rfl
@[simp] theorem modQueue_streams (q : Nat) (f : Queue → Queue) (s : State) : (modQueue q f s).streams = s.streams := rfl
@[simp] theorem modQueue_flash (q : Nat) (f : Queue → Queue) (s : State) : (modQueue q f s).flash = s.flash := rfl
@[simp] theorem modQueue_slots (q : Nat) (f : Queue → Queue) (s : State) : (modQueue q f s).slots = s.slots := rfl
@[simp] theorem modQueue_cache (q : Nat) (f : Queue → Queue) (s : State) : (modQueue q f s).cache = s.cache := rfl
@[simp] theorem modQueue_nextCache (q : Nat) (f : Queue → Queue) (s : State) : (modQueue q f s).nextCache = s.nextCache := rfl
@[simp] theorem modQueue_requests (q : Nat) (f : Queue → Queue) (s : State) : (modQueue q f s).requests = s.requests := rfl
@[simp] theorem modQueue_nextReq (q : Nat) (f : Queue → Queue) (s : State) : (modQueue q f s).nextReq = s.nextReq := rfl
@[simp] theorem modQueue_binds (q : Nat) (f : Queue → Queue) (s : State) : (modQueue q f s).binds = s.binds := rfl
@[simp] theorem modQueue_mem (q : Nat) (f : Queue → Queue) (s : State) : (modQueue q f s).mem = s.mem := rfl
@[simp] theorem modQueue_bushels (q : Nat) (f : Queue → Queue) (s : State) : (modQueue q f s).bushels = s.bushels := rfl
@[simp] theorem modQueue_freeCtr (q : Nat) (f : Queue → Queue) (s : State) : (modQueue q f s).freeCtr = s.freeCtr := rfl
@[simp] theorem modQueue_pending (q : Nat) (f : Queue → Queue) (s : State) : (modQueue q f s).pending = s.pending := rfl
/-! modBind -/
@[simp] theorem modBind_time (b : Nat) (f : Bind → Bind) (s : State) : (modBind b f s).time = s.time := rfl
@[simp] theorem modBind_glb (b : Nat) (f : Bind → Bind) (s : State) : (modBind b f s).glb = s.glb := rfl
@[simp] theorem modBind_events (b : Nat) (f : Bind → Bind) (s : State) : (modBind b f s).events = s.events := rfl
@[simp] theorem modBind_pins (b : Nat) (f : Bind → Bind) (s : State) : (modBind b f s).pins = s.pins := rfl
@[simp] theorem modBind_boot (b : Nat) (f : Bind → Bind) (s : State) : (modBind b f s).boot = s.boot := rfl
@[simp] theorem modBind_nor (b : Nat) (f : Bind → Bind) (s : State) : (modBind b f s).nor = s.nor := rfl
@[simp] theorem modBind_fwc (b : Nat) (f : Bind → Bind) (s : State) : (modBind b f s).fwc = s.fwc := rfl
@[simp] theorem modBind_repair (b : Nat) (f : Bind → Bind) (s : State) : (modBind b f s).repair = s.repair := rfl
@[simp] theorem modBind_repairSeq (b : Nat) (f : Bind → Bind) (s : State) : (modBind b f s).repairSeq = s.repairSeq := rfl
@[simp] theorem modBind_sec (b : Nat) (f : Bind → Bind) (s : State) : (modBind b f s).sec = s.sec := rfl
@[simp] theorem modBind_win (b : Nat) (f : Bind → Bind) (s : State) : (modBind b f s).win = s.win := rfl
@[simp] theorem modBind_eth (b : Nat) (f : Bind → Bind) (s : State) : (modBind b f s).eth = s.eth := rfl
@[simp] theorem modBind_links (b : Nat) (f : Bind → Bind) (s : State) : (modBind b f s).links = s.links := rfl
@[simp] theorem modBind_linkSpares (b : Nat) (f : Bind → Bind) (s : State) : (modBind b f s).linkSpares = s.linkSpares := rfl
@[simp] theorem modBind_fab (b : Nat) (f : Bind → Bind) (s : State) : (modBind b f s).fab = s.fab := rfl
@[simp] theorem modBind_roods (b : Nat) (f : Bind → Bind) (s : State) : (modBind b f s).roods = s.roods := rfl
@[simp] theorem modBind_slices (b : Nat) (f : Bind → Bind) (s : State) : (modBind b f s).slices = s.slices := rfl
@[simp] theorem modBind_drrNext (b : Nat) (f : Bind → Bind) (s : State) : (modBind b f s).drrNext = s.drrNext := rfl
@[simp] theorem modBind_queues (b : Nat) (f : Bind → Bind) (s : State) : (modBind b f s).queues = s.queues := rfl
@[simp] theorem modBind_descs (b : Nat) (f : Bind → Bind) (s : State) : (modBind b f s).descs = s.descs := rfl
@[simp] theorem modBind_nextDesc (b : Nat) (f : Bind → Bind) (s : State) : (modBind b f s).nextDesc = s.nextDesc := rfl
@[simp] theorem modBind_clusters (b : Nat) (f : Bind → Bind) (s : State) : (modBind b f s).clusters = s.clusters := rfl
@[simp] theorem modBind_spareCluster (b : Nat) (f : Bind → Bind) (s : State) : (modBind b f s).spareCluster = s.spareCluster := rfl
@[simp] theorem modBind_stks (b : Nat) (f : Bind → Bind) (s : State) : (modBind b f s).stks = s.stks := rfl
@[simp] theorem modBind_streams (b : Nat) (f : Bind → Bind) (s : State) : (modBind b f s).streams = s.streams := rfl
@[simp] theorem modBind_flash (b : Nat) (f : Bind → Bind) (s : State) : (modBind b f s).flash = s.flash := rfl
@[simp] theorem modBind_slots (b : Nat) (f : Bind → Bind) (s : State) : (modBind b f s).slots = s.slots := rfl
@[simp] theorem modBind_cache (b : Nat) (f : Bind → Bind) (s : State) : (modBind b f s).cache = s.cache := rfl
@[simp] theorem modBind_nextCache (b : Nat) (f : Bind → Bind) (s : State) : (modBind b f s).nextCache = s.nextCache := rfl
@[simp] theorem modBind_requests (b : Nat) (f : Bind → Bind) (s : State) : (modBind b f s).requests = s.requests := rfl
@[simp] theorem modBind_nextReq (b : Nat) (f : Bind → Bind) (s : State) : (modBind b f s).nextReq = s.nextReq := rfl
@[simp] theorem modBind_binds (b : Nat) (f : Bind → Bind) (s : State) : (modBind b f s).binds = tmod b f s.binds := rfl
@[simp] theorem modBind_mem (b : Nat) (f : Bind → Bind) (s : State) : (modBind b f s).mem = s.mem := rfl
@[simp] theorem modBind_bushels (b : Nat) (f : Bind → Bind) (s : State) : (modBind b f s).bushels = s.bushels := rfl
@[simp] theorem modBind_freeCtr (b : Nat) (f : Bind → Bind) (s : State) : (modBind b f s).freeCtr = s.freeCtr := rfl
@[simp] theorem modBind_pending (b : Nat) (f : Bind → Bind) (s : State) : (modBind b f s).pending = s.pending := rfl
/-! modSlot -/
@[simp] theorem modSlot_time (i : Nat) (f : Slot → Slot) (s : State) : (modSlot i f s).time = s.time := rfl
@[simp] theorem modSlot_glb (i : Nat) (f : Slot → Slot) (s : State) : (modSlot i f s).glb = s.glb := rfl
@[simp] theorem modSlot_events (i : Nat) (f : Slot → Slot) (s : State) : (modSlot i f s).events = s.events := rfl
@[simp] theorem modSlot_pins (i : Nat) (f : Slot → Slot) (s : State) : (modSlot i f s).pins = s.pins := rfl
@[simp] theorem modSlot_boot (i : Nat) (f : Slot → Slot) (s : State) : (modSlot i f s).boot = s.boot := rfl
@[simp] theorem modSlot_nor (i : Nat) (f : Slot → Slot) (s : State) : (modSlot i f s).nor = s.nor := rfl
@[simp] theorem modSlot_fwc (i : Nat) (f : Slot → Slot) (s : State) : (modSlot i f s).fwc = s.fwc := rfl
@[simp] theorem modSlot_repair (i : Nat) (f : Slot → Slot) (s : State) : (modSlot i f s).repair = s.repair := rfl
@[simp] theorem modSlot_repairSeq (i : Nat) (f : Slot → Slot) (s : State) : (modSlot i f s).repairSeq = s.repairSeq := rfl
@[simp] theorem modSlot_sec (i : Nat) (f : Slot → Slot) (s : State) : (modSlot i f s).sec = s.sec := rfl
@[simp] theorem modSlot_win (i : Nat) (f : Slot → Slot) (s : State) : (modSlot i f s).win = s.win := rfl
@[simp] theorem modSlot_eth (i : Nat) (f : Slot → Slot) (s : State) : (modSlot i f s).eth = s.eth := rfl
@[simp] theorem modSlot_links (i : Nat) (f : Slot → Slot) (s : State) : (modSlot i f s).links = s.links := rfl
@[simp] theorem modSlot_linkSpares (i : Nat) (f : Slot → Slot) (s : State) : (modSlot i f s).linkSpares = s.linkSpares := rfl
@[simp] theorem modSlot_fab (i : Nat) (f : Slot → Slot) (s : State) : (modSlot i f s).fab = s.fab := rfl
@[simp] theorem modSlot_roods (i : Nat) (f : Slot → Slot) (s : State) : (modSlot i f s).roods = s.roods := rfl
@[simp] theorem modSlot_slices (i : Nat) (f : Slot → Slot) (s : State) : (modSlot i f s).slices = s.slices := rfl
@[simp] theorem modSlot_drrNext (i : Nat) (f : Slot → Slot) (s : State) : (modSlot i f s).drrNext = s.drrNext := rfl
@[simp] theorem modSlot_queues (i : Nat) (f : Slot → Slot) (s : State) : (modSlot i f s).queues = s.queues := rfl
@[simp] theorem modSlot_descs (i : Nat) (f : Slot → Slot) (s : State) : (modSlot i f s).descs = s.descs := rfl
@[simp] theorem modSlot_nextDesc (i : Nat) (f : Slot → Slot) (s : State) : (modSlot i f s).nextDesc = s.nextDesc := rfl
@[simp] theorem modSlot_clusters (i : Nat) (f : Slot → Slot) (s : State) : (modSlot i f s).clusters = s.clusters := rfl
@[simp] theorem modSlot_spareCluster (i : Nat) (f : Slot → Slot) (s : State) : (modSlot i f s).spareCluster = s.spareCluster := rfl
@[simp] theorem modSlot_stks (i : Nat) (f : Slot → Slot) (s : State) : (modSlot i f s).stks = s.stks := rfl
@[simp] theorem modSlot_streams (i : Nat) (f : Slot → Slot) (s : State) : (modSlot i f s).streams = s.streams := rfl
@[simp] theorem modSlot_flash (i : Nat) (f : Slot → Slot) (s : State) : (modSlot i f s).flash = s.flash := rfl
@[simp] theorem modSlot_slots (i : Nat) (f : Slot → Slot) (s : State) : (modSlot i f s).slots = tmod i f s.slots := rfl
@[simp] theorem modSlot_cache (i : Nat) (f : Slot → Slot) (s : State) : (modSlot i f s).cache = s.cache := rfl
@[simp] theorem modSlot_nextCache (i : Nat) (f : Slot → Slot) (s : State) : (modSlot i f s).nextCache = s.nextCache := rfl
@[simp] theorem modSlot_requests (i : Nat) (f : Slot → Slot) (s : State) : (modSlot i f s).requests = s.requests := rfl
@[simp] theorem modSlot_nextReq (i : Nat) (f : Slot → Slot) (s : State) : (modSlot i f s).nextReq = s.nextReq := rfl
@[simp] theorem modSlot_binds (i : Nat) (f : Slot → Slot) (s : State) : (modSlot i f s).binds = s.binds := rfl
@[simp] theorem modSlot_mem (i : Nat) (f : Slot → Slot) (s : State) : (modSlot i f s).mem = s.mem := rfl
@[simp] theorem modSlot_bushels (i : Nat) (f : Slot → Slot) (s : State) : (modSlot i f s).bushels = s.bushels := rfl
@[simp] theorem modSlot_freeCtr (i : Nat) (f : Slot → Slot) (s : State) : (modSlot i f s).freeCtr = s.freeCtr := rfl
@[simp] theorem modSlot_pending (i : Nat) (f : Slot → Slot) (s : State) : (modSlot i f s).pending = s.pending := rfl
/-! modReq -/
@[simp] theorem modReq_time (h : Nat) (f : Request → Request) (s : State) : (modReq h f s).time = s.time := rfl
@[simp] theorem modReq_glb (h : Nat) (f : Request → Request) (s : State) : (modReq h f s).glb = s.glb := rfl
@[simp] theorem modReq_events (h : Nat) (f : Request → Request) (s : State) : (modReq h f s).events = s.events := rfl
@[simp] theorem modReq_pins (h : Nat) (f : Request → Request) (s : State) : (modReq h f s).pins = s.pins := rfl
@[simp] theorem modReq_boot (h : Nat) (f : Request → Request) (s : State) : (modReq h f s).boot = s.boot := rfl
@[simp] theorem modReq_nor (h : Nat) (f : Request → Request) (s : State) : (modReq h f s).nor = s.nor := rfl
@[simp] theorem modReq_fwc (h : Nat) (f : Request → Request) (s : State) : (modReq h f s).fwc = s.fwc := rfl
@[simp] theorem modReq_repair (h : Nat) (f : Request → Request) (s : State) : (modReq h f s).repair = s.repair := rfl
@[simp] theorem modReq_repairSeq (h : Nat) (f : Request → Request) (s : State) : (modReq h f s).repairSeq = s.repairSeq := rfl
@[simp] theorem modReq_sec (h : Nat) (f : Request → Request) (s : State) : (modReq h f s).sec = s.sec := rfl
@[simp] theorem modReq_win (h : Nat) (f : Request → Request) (s : State) : (modReq h f s).win = s.win := rfl
@[simp] theorem modReq_eth (h : Nat) (f : Request → Request) (s : State) : (modReq h f s).eth = s.eth := rfl
@[simp] theorem modReq_links (h : Nat) (f : Request → Request) (s : State) : (modReq h f s).links = s.links := rfl
@[simp] theorem modReq_linkSpares (h : Nat) (f : Request → Request) (s : State) : (modReq h f s).linkSpares = s.linkSpares := rfl
@[simp] theorem modReq_fab (h : Nat) (f : Request → Request) (s : State) : (modReq h f s).fab = s.fab := rfl
@[simp] theorem modReq_roods (h : Nat) (f : Request → Request) (s : State) : (modReq h f s).roods = s.roods := rfl
@[simp] theorem modReq_slices (h : Nat) (f : Request → Request) (s : State) : (modReq h f s).slices = s.slices := rfl
@[simp] theorem modReq_drrNext (h : Nat) (f : Request → Request) (s : State) : (modReq h f s).drrNext = s.drrNext := rfl
@[simp] theorem modReq_queues (h : Nat) (f : Request → Request) (s : State) : (modReq h f s).queues = s.queues := rfl
@[simp] theorem modReq_descs (h : Nat) (f : Request → Request) (s : State) : (modReq h f s).descs = s.descs := rfl
@[simp] theorem modReq_nextDesc (h : Nat) (f : Request → Request) (s : State) : (modReq h f s).nextDesc = s.nextDesc := rfl
@[simp] theorem modReq_clusters (h : Nat) (f : Request → Request) (s : State) : (modReq h f s).clusters = s.clusters := rfl
@[simp] theorem modReq_spareCluster (h : Nat) (f : Request → Request) (s : State) : (modReq h f s).spareCluster = s.spareCluster := rfl
@[simp] theorem modReq_stks (h : Nat) (f : Request → Request) (s : State) : (modReq h f s).stks = s.stks := rfl
@[simp] theorem modReq_streams (h : Nat) (f : Request → Request) (s : State) : (modReq h f s).streams = s.streams := rfl
@[simp] theorem modReq_flash (h : Nat) (f : Request → Request) (s : State) : (modReq h f s).flash = s.flash := rfl
@[simp] theorem modReq_slots (h : Nat) (f : Request → Request) (s : State) : (modReq h f s).slots = s.slots := rfl
@[simp] theorem modReq_cache (h : Nat) (f : Request → Request) (s : State) : (modReq h f s).cache = s.cache := rfl
@[simp] theorem modReq_nextCache (h : Nat) (f : Request → Request) (s : State) : (modReq h f s).nextCache = s.nextCache := rfl
@[simp] theorem modReq_requests (h : Nat) (f : Request → Request) (s : State) : (modReq h f s).requests = tmod h f s.requests := rfl
@[simp] theorem modReq_nextReq (h : Nat) (f : Request → Request) (s : State) : (modReq h f s).nextReq = s.nextReq := rfl
@[simp] theorem modReq_binds (h : Nat) (f : Request → Request) (s : State) : (modReq h f s).binds = s.binds := rfl
@[simp] theorem modReq_mem (h : Nat) (f : Request → Request) (s : State) : (modReq h f s).mem = s.mem := rfl
@[simp] theorem modReq_bushels (h : Nat) (f : Request → Request) (s : State) : (modReq h f s).bushels = s.bushels := rfl
@[simp] theorem modReq_freeCtr (h : Nat) (f : Request → Request) (s : State) : (modReq h f s).freeCtr = s.freeCtr := rfl
@[simp] theorem modReq_pending (h : Nat) (f : Request → Request) (s : State) : (modReq h f s).pending = s.pending := rfl
/-! modQp -/
@[simp] theorem modQp_time (q : Nat) (f : Qp → Qp) (s : State) : (modQp q f s).time = s.time := rfl
@[simp] theorem modQp_glb (q : Nat) (f : Qp → Qp) (s : State) : (modQp q f s).glb = s.glb := rfl
@[simp] theorem modQp_events (q : Nat) (f : Qp → Qp) (s : State) : (modQp q f s).events = s.events := rfl
@[simp] theorem modQp_pins (q : Nat) (f : Qp → Qp) (s : State) : (modQp q f s).pins = s.pins := rfl
@[simp] theorem modQp_boot (q : Nat) (f : Qp → Qp) (s : State) : (modQp q f s).boot = s.boot := rfl
@[simp] theorem modQp_nor (q : Nat) (f : Qp → Qp) (s : State) : (modQp q f s).nor = s.nor := rfl
@[simp] theorem modQp_fwc (q : Nat) (f : Qp → Qp) (s : State) : (modQp q f s).fwc = s.fwc := rfl
@[simp] theorem modQp_repair (q : Nat) (f : Qp → Qp) (s : State) : (modQp q f s).repair = s.repair := rfl
@[simp] theorem modQp_repairSeq (q : Nat) (f : Qp → Qp) (s : State) : (modQp q f s).repairSeq = s.repairSeq := rfl
@[simp] theorem modQp_sec (q : Nat) (f : Qp → Qp) (s : State) : (modQp q f s).sec = s.sec := rfl
@[simp] theorem modQp_win (q : Nat) (f : Qp → Qp) (s : State) : (modQp q f s).win = s.win := rfl
@[simp] theorem modQp_eth (q : Nat) (f : Qp → Qp) (s : State) : (modQp q f s).eth = { s.eth with qps := tmod q f s.eth.qps } := rfl
@[simp] theorem modQp_links (q : Nat) (f : Qp → Qp) (s : State) : (modQp q f s).links = s.links := rfl
@[simp] theorem modQp_linkSpares (q : Nat) (f : Qp → Qp) (s : State) : (modQp q f s).linkSpares = s.linkSpares := rfl
@[simp] theorem modQp_fab (q : Nat) (f : Qp → Qp) (s : State) : (modQp q f s).fab = s.fab := rfl
@[simp] theorem modQp_roods (q : Nat) (f : Qp → Qp) (s : State) : (modQp q f s).roods = s.roods := rfl
@[simp] theorem modQp_slices (q : Nat) (f : Qp → Qp) (s : State) : (modQp q f s).slices = s.slices := rfl
@[simp] theorem modQp_drrNext (q : Nat) (f : Qp → Qp) (s : State) : (modQp q f s).drrNext = s.drrNext := rfl
@[simp] theorem modQp_queues (q : Nat) (f : Qp → Qp) (s : State) : (modQp q f s).queues = s.queues := rfl
@[simp] theorem modQp_descs (q : Nat) (f : Qp → Qp) (s : State) : (modQp q f s).descs = s.descs := rfl
@[simp] theorem modQp_nextDesc (q : Nat) (f : Qp → Qp) (s : State) : (modQp q f s).nextDesc = s.nextDesc := rfl
@[simp] theorem modQp_clusters (q : Nat) (f : Qp → Qp) (s : State) : (modQp q f s).clusters = s.clusters := rfl
@[simp] theorem modQp_spareCluster (q : Nat) (f : Qp → Qp) (s : State) : (modQp q f s).spareCluster = s.spareCluster := rfl
@[simp] theorem modQp_stks (q : Nat) (f : Qp → Qp) (s : State) : (modQp q f s).stks = s.stks := rfl
@[simp] theorem modQp_streams (q : Nat) (f : Qp → Qp) (s : State) : (modQp q f s).streams = s.streams := rfl
@[simp] theorem modQp_flash (q : Nat) (f : Qp → Qp) (s : State) : (modQp q f s).flash = s.flash := rfl
@[simp] theorem modQp_slots (q : Nat) (f : Qp → Qp) (s : State) : (modQp q f s).slots = s.slots := rfl
@[simp] theorem modQp_cache (q : Nat) (f : Qp → Qp) (s : State) : (modQp q f s).cache = s.cache := rfl
@[simp] theorem modQp_nextCache (q : Nat) (f : Qp → Qp) (s : State) : (modQp q f s).nextCache = s.nextCache := rfl
@[simp] theorem modQp_requests (q : Nat) (f : Qp → Qp) (s : State) : (modQp q f s).requests = s.requests := rfl
@[simp] theorem modQp_nextReq (q : Nat) (f : Qp → Qp) (s : State) : (modQp q f s).nextReq = s.nextReq := rfl
@[simp] theorem modQp_binds (q : Nat) (f : Qp → Qp) (s : State) : (modQp q f s).binds = s.binds := rfl
@[simp] theorem modQp_mem (q : Nat) (f : Qp → Qp) (s : State) : (modQp q f s).mem = s.mem := rfl
@[simp] theorem modQp_bushels (q : Nat) (f : Qp → Qp) (s : State) : (modQp q f s).bushels = s.bushels := rfl
@[simp] theorem modQp_freeCtr (q : Nat) (f : Qp → Qp) (s : State) : (modQp q f s).freeCtr = s.freeCtr := rfl
@[simp] theorem modQp_pending (q : Nat) (f : Qp → Qp) (s : State) : (modQp q f s).pending = s.pending := rfl
/-! modCtx -/
@[simp] theorem modCtx_time (x : Nat) (f : Ctx → Ctx) (s : State) : (modCtx x f s).time = s.time := rfl
@[simp] theorem modCtx_glb (x : Nat) (f : Ctx → Ctx) (s : State) : (modCtx x f s).glb = s.glb := rfl
@[simp] theorem modCtx_events (x : Nat) (f : Ctx → Ctx) (s : State) : (modCtx x f s).events = s.events := rfl
@[simp] theorem modCtx_pins (x : Nat) (f : Ctx → Ctx) (s : State) : (modCtx x f s).pins = s.pins := rfl
@[simp] theorem modCtx_boot (x : Nat) (f : Ctx → Ctx) (s : State) : (modCtx x f s).boot = s.boot := rfl
@[simp] theorem modCtx_nor (x : Nat) (f : Ctx → Ctx) (s : State) : (modCtx x f s).nor = s.nor := rfl
@[simp] theorem modCtx_fwc (x : Nat) (f : Ctx → Ctx) (s : State) : (modCtx x f s).fwc = s.fwc := rfl
@[simp] theorem modCtx_repair (x : Nat) (f : Ctx → Ctx) (s : State) : (modCtx x f s).repair = s.repair := rfl
@[simp] theorem modCtx_repairSeq (x : Nat) (f : Ctx → Ctx) (s : State) : (modCtx x f s).repairSeq = s.repairSeq := rfl
@[simp] theorem modCtx_sec (x : Nat) (f : Ctx → Ctx) (s : State) : (modCtx x f s).sec = s.sec := rfl
@[simp] theorem modCtx_win (x : Nat) (f : Ctx → Ctx) (s : State) : (modCtx x f s).win = s.win := rfl
@[simp] theorem modCtx_eth (x : Nat) (f : Ctx → Ctx) (s : State) : (modCtx x f s).eth = s.eth := rfl
@[simp] theorem modCtx_links (x : Nat) (f : Ctx → Ctx) (s : State) : (modCtx x f s).links = s.links := rfl
@[simp] theorem modCtx_linkSpares (x : Nat) (f : Ctx → Ctx) (s : State) : (modCtx x f s).linkSpares = s.linkSpares := rfl
@[simp] theorem modCtx_fab (x : Nat) (f : Ctx → Ctx) (s : State) : (modCtx x f s).fab = s.fab := rfl
@[simp] theorem modCtx_roods (x : Nat) (f : Ctx → Ctx) (s : State) : (modCtx x f s).roods = s.roods := rfl
@[simp] theorem modCtx_slices (x : Nat) (f : Ctx → Ctx) (s : State) : (modCtx x f s).slices = s.slices := rfl
@[simp] theorem modCtx_drrNext (x : Nat) (f : Ctx → Ctx) (s : State) : (modCtx x f s).drrNext = s.drrNext := rfl
@[simp] theorem modCtx_queues (x : Nat) (f : Ctx → Ctx) (s : State) : (modCtx x f s).queues = s.queues := rfl
@[simp] theorem modCtx_descs (x : Nat) (f : Ctx → Ctx) (s : State) : (modCtx x f s).descs = s.descs := rfl
@[simp] theorem modCtx_nextDesc (x : Nat) (f : Ctx → Ctx) (s : State) : (modCtx x f s).nextDesc = s.nextDesc := rfl
@[simp] theorem modCtx_clusters (x : Nat) (f : Ctx → Ctx) (s : State) : (modCtx x f s).clusters = s.clusters := rfl
@[simp] theorem modCtx_spareCluster (x : Nat) (f : Ctx → Ctx) (s : State) : (modCtx x f s).spareCluster = s.spareCluster := rfl
@[simp] theorem modCtx_stks (x : Nat) (f : Ctx → Ctx) (s : State) : (modCtx x f s).stks = s.stks := rfl
@[simp] theorem modCtx_streams (x : Nat) (f : Ctx → Ctx) (s : State) : (modCtx x f s).streams = { s.streams with ctx := tmod x f s.streams.ctx } := rfl
@[simp] theorem modCtx_flash (x : Nat) (f : Ctx → Ctx) (s : State) : (modCtx x f s).flash = s.flash := rfl
@[simp] theorem modCtx_slots (x : Nat) (f : Ctx → Ctx) (s : State) : (modCtx x f s).slots = s.slots := rfl
@[simp] theorem modCtx_cache (x : Nat) (f : Ctx → Ctx) (s : State) : (modCtx x f s).cache = s.cache := rfl
@[simp] theorem modCtx_nextCache (x : Nat) (f : Ctx → Ctx) (s : State) : (modCtx x f s).nextCache = s.nextCache := rfl
@[simp] theorem modCtx_requests (x : Nat) (f : Ctx → Ctx) (s : State) : (modCtx x f s).requests = s.requests := rfl
@[simp] theorem modCtx_nextReq (x : Nat) (f : Ctx → Ctx) (s : State) : (modCtx x f s).nextReq = s.nextReq := rfl
@[simp] theorem modCtx_binds (x : Nat) (f : Ctx → Ctx) (s : State) : (modCtx x f s).binds = s.binds := rfl
@[simp] theorem modCtx_mem (x : Nat) (f : Ctx → Ctx) (s : State) : (modCtx x f s).mem = s.mem := rfl
@[simp] theorem modCtx_bushels (x : Nat) (f : Ctx → Ctx) (s : State) : (modCtx x f s).bushels = s.bushels := rfl
@[simp] theorem modCtx_freeCtr (x : Nat) (f : Ctx → Ctx) (s : State) : (modCtx x f s).freeCtr = s.freeCtr := rfl
@[simp] theorem modCtx_pending (x : Nat) (f : Ctx → Ctx) (s : State) : (modCtx x f s).pending = s.pending := rfl
/-! modTime -/
@[simp] theorem modTime_time (f : Time → Time) (s : State) : (modTime f s).time = f s.time := rfl
@[simp] theorem modTime_glb (f : Time → Time) (s : State) : (modTime f s).glb = s.glb := rfl
@[simp] theorem modTime_events (f : Time → Time) (s : State) : (modTime f s).events = s.events := rfl
@[simp] theorem modTime_pins (f : Time → Time) (s : State) : (modTime f s).pins = s.pins := rfl
@[simp] theorem modTime_boot (f : Time → Time) (s : State) : (modTime f s).boot = s.boot := rfl
@[simp] theorem modTime_nor (f : Time → Time) (s : State) : (modTime f s).nor = s.nor := rfl
@[simp] theorem modTime_fwc (f : Time → Time) (s : State) : (modTime f s).fwc = s.fwc := rfl
@[simp] theorem modTime_repair (f : Time → Time) (s : State) : (modTime f s).repair = s.repair := rfl
@[simp] theorem modTime_repairSeq (f : Time → Time) (s : State) : (modTime f s).repairSeq = s.repairSeq := rfl
@[simp] theorem modTime_sec (f : Time → Time) (s : State) : (modTime f s).sec = s.sec := rfl
@[simp] theorem modTime_win (f : Time → Time) (s : State) : (modTime f s).win = s.win := rfl
@[simp] theorem modTime_eth (f : Time → Time) (s : State) : (modTime f s).eth = s.eth := rfl
@[simp] theorem modTime_links (f : Time → Time) (s : State) : (modTime f s).links = s.links := rfl
@[simp] theorem modTime_linkSpares (f : Time → Time) (s : State) : (modTime f s).linkSpares = s.linkSpares := rfl
@[simp] theorem modTime_fab (f : Time → Time) (s : State) : (modTime f s).fab = s.fab := rfl
@[simp] theorem modTime_roods (f : Time → Time) (s : State) : (modTime f s).roods = s.roods := rfl
@[simp] theorem modTime_slices (f : Time → Time) (s : State) : (modTime f s).slices = s.slices := rfl
@[simp] theorem modTime_drrNext (f : Time → Time) (s : State) : (modTime f s).drrNext = s.drrNext := rfl
@[simp] theorem modTime_queues (f : Time → Time) (s : State) : (modTime f s).queues = s.queues := rfl
@[simp] theorem modTime_descs (f : Time → Time) (s : State) : (modTime f s).descs = s.descs := rfl
@[simp] theorem modTime_nextDesc (f : Time → Time) (s : State) : (modTime f s).nextDesc = s.nextDesc := rfl
@[simp] theorem modTime_clusters (f : Time → Time) (s : State) : (modTime f s).clusters = s.clusters := rfl
@[simp] theorem modTime_spareCluster (f : Time → Time) (s : State) : (modTime f s).spareCluster = s.spareCluster := rfl
@[simp] theorem modTime_stks (f : Time → Time) (s : State) : (modTime f s).stks = s.stks := rfl
@[simp] theorem modTime_streams (f : Time → Time) (s : State) : (modTime f s).streams = s.streams := rfl
@[simp] theorem modTime_flash (f : Time → Time) (s : State) : (modTime f s).flash = s.flash := rfl
@[simp] theorem modTime_slots (f : Time → Time) (s : State) : (modTime f s).slots = s.slots := rfl
@[simp] theorem modTime_cache (f : Time → Time) (s : State) : (modTime f s).cache = s.cache := rfl
@[simp] theorem modTime_nextCache (f : Time → Time) (s : State) : (modTime f s).nextCache = s.nextCache := rfl
@[simp] theorem modTime_requests (f : Time → Time) (s : State) : (modTime f s).requests = s.requests := rfl
@[simp] theorem modTime_nextReq (f : Time → Time) (s : State) : (modTime f s).nextReq = s.nextReq := rfl
@[simp] theorem modTime_binds (f : Time → Time) (s : State) : (modTime f s).binds = s.binds := rfl
@[simp] theorem modTime_mem (f : Time → Time) (s : State) : (modTime f s).mem = s.mem := rfl
@[simp] theorem modTime_bushels (f : Time → Time) (s : State) : (modTime f s).bushels = s.bushels := rfl
@[simp] theorem modTime_freeCtr (f : Time → Time) (s : State) : (modTime f s).freeCtr = s.freeCtr := rfl
@[simp] theorem modTime_pending (f : Time → Time) (s : State) : (modTime f s).pending = s.pending := rfl
/-! modGlb -/
@[simp] theorem modGlb_time (f : Glb → Glb) (s : State) : (modGlb f s).time = s.time := rfl
@[simp] theorem modGlb_glb (f : Glb → Glb) (s : State) : (modGlb f s).glb = f s.glb := rfl
@[simp] theorem modGlb_events (f : Glb → Glb) (s : State) : (modGlb f s).events = s.events := rfl
@[simp] theorem modGlb_pins (f : Glb → Glb) (s : State) : (modGlb f s).pins = s.pins := rfl
@[simp] theorem modGlb_boot (f : Glb → Glb) (s : State) : (modGlb f s).boot = s.boot := rfl
@[simp] theorem modGlb_nor (f : Glb → Glb) (s : State) : (modGlb f s).nor = s.nor := rfl
@[simp] theorem modGlb_fwc (f : Glb → Glb) (s : State) : (modGlb f s).fwc = s.fwc := rfl
@[simp] theorem modGlb_repair (f : Glb → Glb) (s : State) : (modGlb f s).repair = s.repair := rfl
@[simp] theorem modGlb_repairSeq (f : Glb → Glb) (s : State) : (modGlb f s).repairSeq = s.repairSeq := rfl
@[simp] theorem modGlb_sec (f : Glb → Glb) (s : State) : (modGlb f s).sec = s.sec := rfl
@[simp] theorem modGlb_win (f : Glb → Glb) (s : State) : (modGlb f s).win = s.win := rfl
@[simp] theorem modGlb_eth (f : Glb → Glb) (s : State) : (modGlb f s).eth = s.eth := rfl
@[simp] theorem modGlb_links (f : Glb → Glb) (s : State) : (modGlb f s).links = s.links := rfl
@[simp] theorem modGlb_linkSpares (f : Glb → Glb) (s : State) : (modGlb f s).linkSpares = s.linkSpares := rfl
@[simp] theorem modGlb_fab (f : Glb → Glb) (s : State) : (modGlb f s).fab = s.fab := rfl
@[simp] theorem modGlb_roods (f : Glb → Glb) (s : State) : (modGlb f s).roods = s.roods := rfl
@[simp] theorem modGlb_slices (f : Glb → Glb) (s : State) : (modGlb f s).slices = s.slices := rfl
@[simp] theorem modGlb_drrNext (f : Glb → Glb) (s : State) : (modGlb f s).drrNext = s.drrNext := rfl
@[simp] theorem modGlb_queues (f : Glb → Glb) (s : State) : (modGlb f s).queues = s.queues := rfl
@[simp] theorem modGlb_descs (f : Glb → Glb) (s : State) : (modGlb f s).descs = s.descs := rfl
@[simp] theorem modGlb_nextDesc (f : Glb → Glb) (s : State) : (modGlb f s).nextDesc = s.nextDesc := rfl
@[simp] theorem modGlb_clusters (f : Glb → Glb) (s : State) : (modGlb f s).clusters = s.clusters := rfl
@[simp] theorem modGlb_spareCluster (f : Glb → Glb) (s : State) : (modGlb f s).spareCluster = s.spareCluster := rfl
@[simp] theorem modGlb_stks (f : Glb → Glb) (s : State) : (modGlb f s).stks = s.stks := rfl
@[simp] theorem modGlb_streams (f : Glb → Glb) (s : State) : (modGlb f s).streams = s.streams := rfl
@[simp] theorem modGlb_flash (f : Glb → Glb) (s : State) : (modGlb f s).flash = s.flash := rfl
@[simp] theorem modGlb_slots (f : Glb → Glb) (s : State) : (modGlb f s).slots = s.slots := rfl
@[simp] theorem modGlb_cache (f : Glb → Glb) (s : State) : (modGlb f s).cache = s.cache := rfl
@[simp] theorem modGlb_nextCache (f : Glb → Glb) (s : State) : (modGlb f s).nextCache = s.nextCache := rfl
@[simp] theorem modGlb_requests (f : Glb → Glb) (s : State) : (modGlb f s).requests = s.requests := rfl
@[simp] theorem modGlb_nextReq (f : Glb → Glb) (s : State) : (modGlb f s).nextReq = s.nextReq := rfl
@[simp] theorem modGlb_binds (f : Glb → Glb) (s : State) : (modGlb f s).binds = s.binds := rfl
@[simp] theorem modGlb_mem (f : Glb → Glb) (s : State) : (modGlb f s).mem = s.mem := rfl
@[simp] theorem modGlb_bushels (f : Glb → Glb) (s : State) : (modGlb f s).bushels = s.bushels := rfl
@[simp] theorem modGlb_freeCtr (f : Glb → Glb) (s : State) : (modGlb f s).freeCtr = s.freeCtr := rfl
@[simp] theorem modGlb_pending (f : Glb → Glb) (s : State) : (modGlb f s).pending = s.pending := rfl
/-! modFwc -/
@[simp] theorem modFwc_time (f : Fwc → Fwc) (s : State) : (modFwc f s).time = s.time := rfl
@[simp] theorem modFwc_glb (f : Fwc → Fwc) (s : State) : (modFwc f s).glb = s.glb := rfl
@[simp] theorem modFwc_events (f : Fwc → Fwc) (s : State) : (modFwc f s).events = s.events := rfl
@[simp] theorem modFwc_pins (f : Fwc → Fwc) (s : State) : (modFwc f s).pins = s.pins := rfl
@[simp] theorem modFwc_boot (f : Fwc → Fwc) (s : State) : (modFwc f s).boot = s.boot := rfl
@[simp] theorem modFwc_nor (f : Fwc → Fwc) (s : State) : (modFwc f s).nor = s.nor := rfl
@[simp] theorem modFwc_fwc (f : Fwc → Fwc) (s : State) : (modFwc f s).fwc = f s.fwc := rfl
@[simp] theorem modFwc_repair (f : Fwc → Fwc) (s : State) : (modFwc f s).repair = s.repair := rfl
@[simp] theorem modFwc_repairSeq (f : Fwc → Fwc) (s : State) : (modFwc f s).repairSeq = s.repairSeq := rfl
@[simp] theorem modFwc_sec (f : Fwc → Fwc) (s : State) : (modFwc f s).sec = s.sec := rfl
@[simp] theorem modFwc_win (f : Fwc → Fwc) (s : State) : (modFwc f s).win = s.win := rfl
@[simp] theorem modFwc_eth (f : Fwc → Fwc) (s : State) : (modFwc f s).eth = s.eth := rfl
@[simp] theorem modFwc_links (f : Fwc → Fwc) (s : State) : (modFwc f s).links = s.links := rfl
@[simp] theorem modFwc_linkSpares (f : Fwc → Fwc) (s : State) : (modFwc f s).linkSpares = s.linkSpares := rfl
@[simp] theorem modFwc_fab (f : Fwc → Fwc) (s : State) : (modFwc f s).fab = s.fab := rfl
@[simp] theorem modFwc_roods (f : Fwc → Fwc) (s : State) : (modFwc f s).roods = s.roods := rfl
@[simp] theorem modFwc_slices (f : Fwc → Fwc) (s : State) : (modFwc f s).slices = s.slices := rfl
@[simp] theorem modFwc_drrNext (f : Fwc → Fwc) (s : State) : (modFwc f s).drrNext = s.drrNext := rfl
@[simp] theorem modFwc_queues (f : Fwc → Fwc) (s : State) : (modFwc f s).queues = s.queues := rfl
@[simp] theorem modFwc_descs (f : Fwc → Fwc) (s : State) : (modFwc f s).descs = s.descs := rfl
@[simp] theorem modFwc_nextDesc (f : Fwc → Fwc) (s : State) : (modFwc f s).nextDesc = s.nextDesc := rfl
@[simp] theorem modFwc_clusters (f : Fwc → Fwc) (s : State) : (modFwc f s).clusters = s.clusters := rfl
@[simp] theorem modFwc_spareCluster (f : Fwc → Fwc) (s : State) : (modFwc f s).spareCluster = s.spareCluster := rfl
@[simp] theorem modFwc_stks (f : Fwc → Fwc) (s : State) : (modFwc f s).stks = s.stks := rfl
@[simp] theorem modFwc_streams (f : Fwc → Fwc) (s : State) : (modFwc f s).streams = s.streams := rfl
@[simp] theorem modFwc_flash (f : Fwc → Fwc) (s : State) : (modFwc f s).flash = s.flash := rfl
@[simp] theorem modFwc_slots (f : Fwc → Fwc) (s : State) : (modFwc f s).slots = s.slots := rfl
@[simp] theorem modFwc_cache (f : Fwc → Fwc) (s : State) : (modFwc f s).cache = s.cache := rfl
@[simp] theorem modFwc_nextCache (f : Fwc → Fwc) (s : State) : (modFwc f s).nextCache = s.nextCache := rfl
@[simp] theorem modFwc_requests (f : Fwc → Fwc) (s : State) : (modFwc f s).requests = s.requests := rfl
@[simp] theorem modFwc_nextReq (f : Fwc → Fwc) (s : State) : (modFwc f s).nextReq = s.nextReq := rfl
@[simp] theorem modFwc_binds (f : Fwc → Fwc) (s : State) : (modFwc f s).binds = s.binds := rfl
@[simp] theorem modFwc_mem (f : Fwc → Fwc) (s : State) : (modFwc f s).mem = s.mem := rfl
@[simp] theorem modFwc_bushels (f : Fwc → Fwc) (s : State) : (modFwc f s).bushels = s.bushels := rfl
@[simp] theorem modFwc_freeCtr (f : Fwc → Fwc) (s : State) : (modFwc f s).freeCtr = s.freeCtr := rfl
@[simp] theorem modFwc_pending (f : Fwc → Fwc) (s : State) : (modFwc f s).pending = s.pending := rfl
/-! modSec -/
@[simp] theorem modSec_time (f : Sec → Sec) (s : State) : (modSec f s).time = s.time := rfl
@[simp] theorem modSec_glb (f : Sec → Sec) (s : State) : (modSec f s).glb = s.glb := rfl
@[simp] theorem modSec_events (f : Sec → Sec) (s : State) : (modSec f s).events = s.events := rfl
@[simp] theorem modSec_pins (f : Sec → Sec) (s : State) : (modSec f s).pins = s.pins := rfl
@[simp] theorem modSec_boot (f : Sec → Sec) (s : State) : (modSec f s).boot = s.boot := rfl
@[simp] theorem modSec_nor (f : Sec → Sec) (s : State) : (modSec f s).nor = s.nor := rfl
@[simp] theorem modSec_fwc (f : Sec → Sec) (s : State) : (modSec f s).fwc = s.fwc := rfl
@[simp] theorem modSec_repair (f : Sec → Sec) (s : State) : (modSec f s).repair = s.repair := rfl
@[simp] theorem modSec_repairSeq (f : Sec → Sec) (s : State) : (modSec f s).repairSeq = s.repairSeq := rfl
@[simp] theorem modSec_sec (f : Sec → Sec) (s : State) : (modSec f s).sec = f s.sec := rfl
@[simp] theorem modSec_win (f : Sec → Sec) (s : State) : (modSec f s).win = s.win := rfl
@[simp] theorem modSec_eth (f : Sec → Sec) (s : State) : (modSec f s).eth = s.eth := rfl
@[simp] theorem modSec_links (f : Sec → Sec) (s : State) : (modSec f s).links = s.links := rfl
@[simp] theorem modSec_linkSpares (f : Sec → Sec) (s : State) : (modSec f s).linkSpares = s.linkSpares := rfl
@[simp] theorem modSec_fab (f : Sec → Sec) (s : State) : (modSec f s).fab = s.fab := rfl
@[simp] theorem modSec_roods (f : Sec → Sec) (s : State) : (modSec f s).roods = s.roods := rfl
@[simp] theorem modSec_slices (f : Sec → Sec) (s : State) : (modSec f s).slices = s.slices := rfl
@[simp] theorem modSec_drrNext (f : Sec → Sec) (s : State) : (modSec f s).drrNext = s.drrNext := rfl
@[simp] theorem modSec_queues (f : Sec → Sec) (s : State) : (modSec f s).queues = s.queues := rfl
@[simp] theorem modSec_descs (f : Sec → Sec) (s : State) : (modSec f s).descs = s.descs := rfl
@[simp] theorem modSec_nextDesc (f : Sec → Sec) (s : State) : (modSec f s).nextDesc = s.nextDesc := rfl
@[simp] theorem modSec_clusters (f : Sec → Sec) (s : State) : (modSec f s).clusters = s.clusters := rfl
@[simp] theorem modSec_spareCluster (f : Sec → Sec) (s : State) : (modSec f s).spareCluster = s.spareCluster := rfl
@[simp] theorem modSec_stks (f : Sec → Sec) (s : State) : (modSec f s).stks = s.stks := rfl
@[simp] theorem modSec_streams (f : Sec → Sec) (s : State) : (modSec f s).streams = s.streams := rfl
@[simp] theorem modSec_flash (f : Sec → Sec) (s : State) : (modSec f s).flash = s.flash := rfl
@[simp] theorem modSec_slots (f : Sec → Sec) (s : State) : (modSec f s).slots = s.slots := rfl
@[simp] theorem modSec_cache (f : Sec → Sec) (s : State) : (modSec f s).cache = s.cache := rfl
@[simp] theorem modSec_nextCache (f : Sec → Sec) (s : State) : (modSec f s).nextCache = s.nextCache := rfl
@[simp] theorem modSec_requests (f : Sec → Sec) (s : State) : (modSec f s).requests = s.requests := rfl
@[simp] theorem modSec_nextReq (f : Sec → Sec) (s : State) : (modSec f s).nextReq = s.nextReq := rfl
@[simp] theorem modSec_binds (f : Sec → Sec) (s : State) : (modSec f s).binds = s.binds := rfl
@[simp] theorem modSec_mem (f : Sec → Sec) (s : State) : (modSec f s).mem = s.mem := rfl
@[simp] theorem modSec_bushels (f : Sec → Sec) (s : State) : (modSec f s).bushels = s.bushels := rfl
@[simp] theorem modSec_freeCtr (f : Sec → Sec) (s : State) : (modSec f s).freeCtr = s.freeCtr := rfl
@[simp] theorem modSec_pending (f : Sec → Sec) (s : State) : (modSec f s).pending = s.pending := rfl
/-! modEth -/
@[simp] theorem modEth_time (f : Eth → Eth) (s : State) : (modEth f s).time = s.time := rfl
@[simp] theorem modEth_glb (f : Eth → Eth) (s : State) : (modEth f s).glb = s.glb := rfl
@[simp] theorem modEth_events (f : Eth → Eth) (s : State) : (modEth f s).events = s.events := rfl
@[simp] theorem modEth_pins (f : Eth → Eth) (s : State) : (modEth f s).pins = s.pins := rfl
@[simp] theorem modEth_boot (f : Eth → Eth) (s : State) : (modEth f s).boot = s.boot := rfl
@[simp] theorem modEth_nor (f : Eth → Eth) (s : State) : (modEth f s).nor = s.nor := rfl
@[simp] theorem modEth_fwc (f : Eth → Eth) (s : State) : (modEth f s).fwc = s.fwc := rfl
@[simp] theorem modEth_repair (f : Eth → Eth) (s : State) : (modEth f s).repair = s.repair := rfl
@[simp] theorem modEth_repairSeq (f : Eth → Eth) (s : State) : (modEth f s).repairSeq = s.repairSeq := rfl
@[simp] theorem modEth_sec (f : Eth → Eth) (s : State) : (modEth f s).sec = s.sec := rfl
@[simp] theorem modEth_win (f : Eth → Eth) (s : State) : (modEth f s).win = s.win := rfl
@[simp] theorem modEth_eth (f : Eth → Eth) (s : State) : (modEth f s).eth = f s.eth := rfl
@[simp] theorem modEth_links (f : Eth → Eth) (s : State) : (modEth f s).links = s.links := rfl
@[simp] theorem modEth_linkSpares (f : Eth → Eth) (s : State) : (modEth f s).linkSpares = s.linkSpares := rfl
@[simp] theorem modEth_fab (f : Eth → Eth) (s : State) : (modEth f s).fab = s.fab := rfl
@[simp] theorem modEth_roods (f : Eth → Eth) (s : State) : (modEth f s).roods = s.roods := rfl
@[simp] theorem modEth_slices (f : Eth → Eth) (s : State) : (modEth f s).slices = s.slices := rfl
@[simp] theorem modEth_drrNext (f : Eth → Eth) (s : State) : (modEth f s).drrNext = s.drrNext := rfl
@[simp] theorem modEth_queues (f : Eth → Eth) (s : State) : (modEth f s).queues = s.queues := rfl
@[simp] theorem modEth_descs (f : Eth → Eth) (s : State) : (modEth f s).descs = s.descs := rfl
@[simp] theorem modEth_nextDesc (f : Eth → Eth) (s : State) : (modEth f s).nextDesc = s.nextDesc := rfl
@[simp] theorem modEth_clusters (f : Eth → Eth) (s : State) : (modEth f s).clusters = s.clusters := rfl
@[simp] theorem modEth_spareCluster (f : Eth → Eth) (s : State) : (modEth f s).spareCluster = s.spareCluster := rfl
@[simp] theorem modEth_stks (f : Eth → Eth) (s : State) : (modEth f s).stks = s.stks := rfl
@[simp] theorem modEth_streams (f : Eth → Eth) (s : State) : (modEth f s).streams = s.streams := rfl
@[simp] theorem modEth_flash (f : Eth → Eth) (s : State) : (modEth f s).flash = s.flash := rfl
@[simp] theorem modEth_slots (f : Eth → Eth) (s : State) : (modEth f s).slots = s.slots := rfl
@[simp] theorem modEth_cache (f : Eth → Eth) (s : State) : (modEth f s).cache = s.cache := rfl
@[simp] theorem modEth_nextCache (f : Eth → Eth) (s : State) : (modEth f s).nextCache = s.nextCache := rfl
@[simp] theorem modEth_requests (f : Eth → Eth) (s : State) : (modEth f s).requests = s.requests := rfl
@[simp] theorem modEth_nextReq (f : Eth → Eth) (s : State) : (modEth f s).nextReq = s.nextReq := rfl
@[simp] theorem modEth_binds (f : Eth → Eth) (s : State) : (modEth f s).binds = s.binds := rfl
@[simp] theorem modEth_mem (f : Eth → Eth) (s : State) : (modEth f s).mem = s.mem := rfl
@[simp] theorem modEth_bushels (f : Eth → Eth) (s : State) : (modEth f s).bushels = s.bushels := rfl
@[simp] theorem modEth_freeCtr (f : Eth → Eth) (s : State) : (modEth f s).freeCtr = s.freeCtr := rfl
@[simp] theorem modEth_pending (f : Eth → Eth) (s : State) : (modEth f s).pending = s.pending := rfl
/-! modFab -/
@[simp] theorem modFab_time (f : Fabric → Fabric) (s : State) : (modFab f s).time = s.time := rfl
@[simp] theorem modFab_glb (f : Fabric → Fabric) (s : State) : (modFab f s).glb = s.glb := rfl
@[simp] theorem modFab_events (f : Fabric → Fabric) (s : State) : (modFab f s).events = s.events := rfl
@[simp] theorem modFab_pins (f : Fabric → Fabric) (s : State) : (modFab f s).pins = s.pins := rfl
@[simp] theorem modFab_boot (f : Fabric → Fabric) (s : State) : (modFab f s).boot = s.boot := rfl
@[simp] theorem modFab_nor (f : Fabric → Fabric) (s : State) : (modFab f s).nor = s.nor := rfl
@[simp] theorem modFab_fwc (f : Fabric → Fabric) (s : State) : (modFab f s).fwc = s.fwc := rfl
@[simp] theorem modFab_repair (f : Fabric → Fabric) (s : State) : (modFab f s).repair = s.repair := rfl
@[simp] theorem modFab_repairSeq (f : Fabric → Fabric) (s : State) : (modFab f s).repairSeq = s.repairSeq := rfl
@[simp] theorem modFab_sec (f : Fabric → Fabric) (s : State) : (modFab f s).sec = s.sec := rfl
@[simp] theorem modFab_win (f : Fabric → Fabric) (s : State) : (modFab f s).win = s.win := rfl
@[simp] theorem modFab_eth (f : Fabric → Fabric) (s : State) : (modFab f s).eth = s.eth := rfl
@[simp] theorem modFab_links (f : Fabric → Fabric) (s : State) : (modFab f s).links = s.links := rfl
@[simp] theorem modFab_linkSpares (f : Fabric → Fabric) (s : State) : (modFab f s).linkSpares = s.linkSpares := rfl
@[simp] theorem modFab_fab (f : Fabric → Fabric) (s : State) : (modFab f s).fab = f s.fab := rfl
@[simp] theorem modFab_roods (f : Fabric → Fabric) (s : State) : (modFab f s).roods = s.roods := rfl
@[simp] theorem modFab_slices (f : Fabric → Fabric) (s : State) : (modFab f s).slices = s.slices := rfl
@[simp] theorem modFab_drrNext (f : Fabric → Fabric) (s : State) : (modFab f s).drrNext = s.drrNext := rfl
@[simp] theorem modFab_queues (f : Fabric → Fabric) (s : State) : (modFab f s).queues = s.queues := rfl
@[simp] theorem modFab_descs (f : Fabric → Fabric) (s : State) : (modFab f s).descs = s.descs := rfl
@[simp] theorem modFab_nextDesc (f : Fabric → Fabric) (s : State) : (modFab f s).nextDesc = s.nextDesc := rfl
@[simp] theorem modFab_clusters (f : Fabric → Fabric) (s : State) : (modFab f s).clusters = s.clusters := rfl
@[simp] theorem modFab_spareCluster (f : Fabric → Fabric) (s : State) : (modFab f s).spareCluster = s.spareCluster := rfl
@[simp] theorem modFab_stks (f : Fabric → Fabric) (s : State) : (modFab f s).stks = s.stks := rfl
@[simp] theorem modFab_streams (f : Fabric → Fabric) (s : State) : (modFab f s).streams = s.streams := rfl
@[simp] theorem modFab_flash (f : Fabric → Fabric) (s : State) : (modFab f s).flash = s.flash := rfl
@[simp] theorem modFab_slots (f : Fabric → Fabric) (s : State) : (modFab f s).slots = s.slots := rfl
@[simp] theorem modFab_cache (f : Fabric → Fabric) (s : State) : (modFab f s).cache = s.cache := rfl
@[simp] theorem modFab_nextCache (f : Fabric → Fabric) (s : State) : (modFab f s).nextCache = s.nextCache := rfl
@[simp] theorem modFab_requests (f : Fabric → Fabric) (s : State) : (modFab f s).requests = s.requests := rfl
@[simp] theorem modFab_nextReq (f : Fabric → Fabric) (s : State) : (modFab f s).nextReq = s.nextReq := rfl
@[simp] theorem modFab_binds (f : Fabric → Fabric) (s : State) : (modFab f s).binds = s.binds := rfl
@[simp] theorem modFab_mem (f : Fabric → Fabric) (s : State) : (modFab f s).mem = s.mem := rfl
@[simp] theorem modFab_bushels (f : Fabric → Fabric) (s : State) : (modFab f s).bushels = s.bushels := rfl
@[simp] theorem modFab_freeCtr (f : Fabric → Fabric) (s : State) : (modFab f s).freeCtr = s.freeCtr := rfl
@[simp] theorem modFab_pending (f : Fabric → Fabric) (s : State) : (modFab f s).pending = s.pending := rfl
/-! modFlash -/
@[simp] theorem modFlash_time (f : Flash → Flash) (s : State) : (modFlash f s).time = s.time := rfl
@[simp] theorem modFlash_glb (f : Flash → Flash) (s : State) : (modFlash f s).glb = s.glb := rfl
@[simp] theorem modFlash_events (f : Flash → Flash) (s : State) : (modFlash f s).events = s.events := rfl
@[simp] theorem modFlash_pins (f : Flash → Flash) (s : State) : (modFlash f s).pins = s.pins := rfl
@[simp] theorem modFlash_boot (f : Flash → Flash) (s : State) : (modFlash f s).boot = s.boot := rfl
@[simp] theorem modFlash_nor (f : Flash → Flash) (s : State) : (modFlash f s).nor = s.nor := rfl
@[simp] theorem modFlash_fwc (f : Flash → Flash) (s : State) : (modFlash f s).fwc = s.fwc := rfl
@[simp] theorem modFlash_repair (f : Flash → Flash) (s : State) : (modFlash f s).repair = s.repair := rfl
@[simp] theorem modFlash_repairSeq (f : Flash → Flash) (s : State) : (modFlash f s).repairSeq = s.repairSeq := rfl
@[simp] theorem modFlash_sec (f : Flash → Flash) (s : State) : (modFlash f s).sec = s.sec := rfl
@[simp] theorem modFlash_win (f : Flash → Flash) (s : State) : (modFlash f s).win = s.win := rfl
@[simp] theorem modFlash_eth (f : Flash → Flash) (s : State) : (modFlash f s).eth = s.eth := rfl
@[simp] theorem modFlash_links (f : Flash → Flash) (s : State) : (modFlash f s).links = s.links := rfl
@[simp] theorem modFlash_linkSpares (f : Flash → Flash) (s : State) : (modFlash f s).linkSpares = s.linkSpares := rfl
@[simp] theorem modFlash_fab (f : Flash → Flash) (s : State) : (modFlash f s).fab = s.fab := rfl
@[simp] theorem modFlash_roods (f : Flash → Flash) (s : State) : (modFlash f s).roods = s.roods := rfl
@[simp] theorem modFlash_slices (f : Flash → Flash) (s : State) : (modFlash f s).slices = s.slices := rfl
@[simp] theorem modFlash_drrNext (f : Flash → Flash) (s : State) : (modFlash f s).drrNext = s.drrNext := rfl
@[simp] theorem modFlash_queues (f : Flash → Flash) (s : State) : (modFlash f s).queues = s.queues := rfl
@[simp] theorem modFlash_descs (f : Flash → Flash) (s : State) : (modFlash f s).descs = s.descs := rfl
@[simp] theorem modFlash_nextDesc (f : Flash → Flash) (s : State) : (modFlash f s).nextDesc = s.nextDesc := rfl
@[simp] theorem modFlash_clusters (f : Flash → Flash) (s : State) : (modFlash f s).clusters = s.clusters := rfl
@[simp] theorem modFlash_spareCluster (f : Flash → Flash) (s : State) : (modFlash f s).spareCluster = s.spareCluster := rfl
@[simp] theorem modFlash_stks (f : Flash → Flash) (s : State) : (modFlash f s).stks = s.stks := rfl
@[simp] theorem modFlash_streams (f : Flash → Flash) (s : State) : (modFlash f s).streams = s.streams := rfl
@[simp] theorem modFlash_flash (f : Flash → Flash) (s : State) : (modFlash f s).flash = f s.flash := rfl
@[simp] theorem modFlash_slots (f : Flash → Flash) (s : State) : (modFlash f s).slots = s.slots := rfl
@[simp] theorem modFlash_cache (f : Flash → Flash) (s : State) : (modFlash f s).cache = s.cache := rfl
@[simp] theorem modFlash_nextCache (f : Flash → Flash) (s : State) : (modFlash f s).nextCache = s.nextCache := rfl
@[simp] theorem modFlash_requests (f : Flash → Flash) (s : State) : (modFlash f s).requests = s.requests := rfl
@[simp] theorem modFlash_nextReq (f : Flash → Flash) (s : State) : (modFlash f s).nextReq = s.nextReq := rfl
@[simp] theorem modFlash_binds (f : Flash → Flash) (s : State) : (modFlash f s).binds = s.binds := rfl
@[simp] theorem modFlash_mem (f : Flash → Flash) (s : State) : (modFlash f s).mem = s.mem := rfl
@[simp] theorem modFlash_bushels (f : Flash → Flash) (s : State) : (modFlash f s).bushels = s.bushels := rfl
@[simp] theorem modFlash_freeCtr (f : Flash → Flash) (s : State) : (modFlash f s).freeCtr = s.freeCtr := rfl
@[simp] theorem modFlash_pending (f : Flash → Flash) (s : State) : (modFlash f s).pending = s.pending := rfl
/-! modStreams -/
@[simp] theorem modStreams_time (f : Streams → Streams) (s : State) : (modStreams f s).time = s.time := rfl
@[simp] theorem modStreams_glb (f : Streams → Streams) (s : State) : (modStreams f s).glb = s.glb := rfl
@[simp] theorem modStreams_events (f : Streams → Streams) (s : State) : (modStreams f s).events = s.events := rfl
@[simp] theorem modStreams_pins (f : Streams → Streams) (s : State) : (modStreams f s).pins = s.pins := rfl
@[simp] theorem modStreams_boot (f : Streams → Streams) (s : State) : (modStreams f s).boot = s.boot := rfl
@[simp] theorem modStreams_nor (f : Streams → Streams) (s : State) : (modStreams f s).nor = s.nor := rfl
@[simp] theorem modStreams_fwc (f : Streams → Streams) (s : State) : (modStreams f s).fwc = s.fwc := rfl
@[simp] theorem modStreams_repair (f : Streams → Streams) (s : State) : (modStreams f s).repair = s.repair := rfl
@[simp] theorem modStreams_repairSeq (f : Streams → Streams) (s : State) : (modStreams f s).repairSeq = s.repairSeq := rfl
@[simp] theorem modStreams_sec (f : Streams → Streams) (s : State) : (modStreams f s).sec = s.sec := rfl
@[simp] theorem modStreams_win (f : Streams → Streams) (s : State) : (modStreams f s).win = s.win := rfl
@[simp] theorem modStreams_eth (f : Streams → Streams) (s : State) : (modStreams f s).eth = s.eth := rfl
@[simp] theorem modStreams_links (f : Streams → Streams) (s : State) : (modStreams f s).links = s.links := rfl
@[simp] theorem modStreams_linkSpares (f : Streams → Streams) (s : State) : (modStreams f s).linkSpares = s.linkSpares := rfl
@[simp] theorem modStreams_fab (f : Streams → Streams) (s : State) : (modStreams f s).fab = s.fab := rfl
@[simp] theorem modStreams_roods (f : Streams → Streams) (s : State) : (modStreams f s).roods = s.roods := rfl
@[simp] theorem modStreams_slices (f : Streams → Streams) (s : State) : (modStreams f s).slices = s.slices := rfl
@[simp] theorem modStreams_drrNext (f : Streams → Streams) (s : State) : (modStreams f s).drrNext = s.drrNext := rfl
@[simp] theorem modStreams_queues (f : Streams → Streams) (s : State) : (modStreams f s).queues = s.queues := rfl
@[simp] theorem modStreams_descs (f : Streams → Streams) (s : State) : (modStreams f s).descs = s.descs := rfl
@[simp] theorem modStreams_nextDesc (f : Streams → Streams) (s : State) : (modStreams f s).nextDesc = s.nextDesc := rfl
@[simp] theorem modStreams_clusters (f : Streams → Streams) (s : State) : (modStreams f s).clusters = s.clusters := rfl
@[simp] theorem modStreams_spareCluster (f : Streams → Streams) (s : State) : (modStreams f s).spareCluster = s.spareCluster := rfl
@[simp] theorem modStreams_stks (f : Streams → Streams) (s : State) : (modStreams f s).stks = s.stks := rfl
@[simp] theorem modStreams_streams (f : Streams → Streams) (s : State) : (modStreams f s).streams = f s.streams := rfl
@[simp] theorem modStreams_flash (f : Streams → Streams) (s : State) : (modStreams f s).flash = s.flash := rfl
@[simp] theorem modStreams_slots (f : Streams → Streams) (s : State) : (modStreams f s).slots = s.slots := rfl
@[simp] theorem modStreams_cache (f : Streams → Streams) (s : State) : (modStreams f s).cache = s.cache := rfl
@[simp] theorem modStreams_nextCache (f : Streams → Streams) (s : State) : (modStreams f s).nextCache = s.nextCache := rfl
@[simp] theorem modStreams_requests (f : Streams → Streams) (s : State) : (modStreams f s).requests = s.requests := rfl
@[simp] theorem modStreams_nextReq (f : Streams → Streams) (s : State) : (modStreams f s).nextReq = s.nextReq := rfl
@[simp] theorem modStreams_binds (f : Streams → Streams) (s : State) : (modStreams f s).binds = s.binds := rfl
@[simp] theorem modStreams_mem (f : Streams → Streams) (s : State) : (modStreams f s).mem = s.mem := rfl
@[simp] theorem modStreams_bushels (f : Streams → Streams) (s : State) : (modStreams f s).bushels = s.bushels := rfl
@[simp] theorem modStreams_freeCtr (f : Streams → Streams) (s : State) : (modStreams f s).freeCtr = s.freeCtr := rfl
@[simp] theorem modStreams_pending (f : Streams → Streams) (s : State) : (modStreams f s).pending = s.pending := rfl
/-! modPins -/
@[simp] theorem modPins_time (f : Pins → Pins) (s : State) : (modPins f s).time = s.time := rfl
@[simp] theorem modPins_glb (f : Pins → Pins) (s : State) : (modPins f s).glb = s.glb := rfl
@[simp] theorem modPins_events (f : Pins → Pins) (s : State) : (modPins f s).events = s.events := rfl
@[simp] theorem modPins_pins (f : Pins → Pins) (s : State) : (modPins f s).pins = f s.pins := rfl
@[simp] theorem modPins_boot (f : Pins → Pins) (s : State) : (modPins f s).boot = s.boot := rfl
@[simp] theorem modPins_nor (f : Pins → Pins) (s : State) : (modPins f s).nor = s.nor := rfl
@[simp] theorem modPins_fwc (f : Pins → Pins) (s : State) : (modPins f s).fwc = s.fwc := rfl
@[simp] theorem modPins_repair (f : Pins → Pins) (s : State) : (modPins f s).repair = s.repair := rfl
@[simp] theorem modPins_repairSeq (f : Pins → Pins) (s : State) : (modPins f s).repairSeq = s.repairSeq := rfl
@[simp] theorem modPins_sec (f : Pins → Pins) (s : State) : (modPins f s).sec = s.sec := rfl
@[simp] theorem modPins_win (f : Pins → Pins) (s : State) : (modPins f s).win = s.win := rfl
@[simp] theorem modPins_eth (f : Pins → Pins) (s : State) : (modPins f s).eth = s.eth := rfl
@[simp] theorem modPins_links (f : Pins → Pins) (s : State) : (modPins f s).links = s.links := rfl
@[simp] theorem modPins_linkSpares (f : Pins → Pins) (s : State) : (modPins f s).linkSpares = s.linkSpares := rfl
@[simp] theorem modPins_fab (f : Pins → Pins) (s : State) : (modPins f s).fab = s.fab := rfl
@[simp] theorem modPins_roods (f : Pins → Pins) (s : State) : (modPins f s).roods = s.roods := rfl
@[simp] theorem modPins_slices (f : Pins → Pins) (s : State) : (modPins f s).slices = s.slices := rfl
@[simp] theorem modPins_drrNext (f : Pins → Pins) (s : State) : (modPins f s).drrNext = s.drrNext := rfl
@[simp] theorem modPins_queues (f : Pins → Pins) (s : State) : (modPins f s).queues = s.queues := rfl
@[simp] theorem modPins_descs (f : Pins → Pins) (s : State) : (modPins f s).descs = s.descs := rfl
@[simp] theorem modPins_nextDesc (f : Pins → Pins) (s : State) : (modPins f s).nextDesc = s.nextDesc := rfl
@[simp] theorem modPins_clusters (f : Pins → Pins) (s : State) : (modPins f s).clusters = s.clusters := rfl
@[simp] theorem modPins_spareCluster (f : Pins → Pins) (s : State) : (modPins f s).spareCluster = s.spareCluster := rfl
@[simp] theorem modPins_stks (f : Pins → Pins) (s : State) : (modPins f s).stks = s.stks := rfl
@[simp] theorem modPins_streams (f : Pins → Pins) (s : State) : (modPins f s).streams = s.streams := rfl
@[simp] theorem modPins_flash (f : Pins → Pins) (s : State) : (modPins f s).flash = s.flash := rfl
@[simp] theorem modPins_slots (f : Pins → Pins) (s : State) : (modPins f s).slots = s.slots := rfl
@[simp] theorem modPins_cache (f : Pins → Pins) (s : State) : (modPins f s).cache = s.cache := rfl
@[simp] theorem modPins_nextCache (f : Pins → Pins) (s : State) : (modPins f s).nextCache = s.nextCache := rfl
@[simp] theorem modPins_requests (f : Pins → Pins) (s : State) : (modPins f s).requests = s.requests := rfl
@[simp] theorem modPins_nextReq (f : Pins → Pins) (s : State) : (modPins f s).nextReq = s.nextReq := rfl
@[simp] theorem modPins_binds (f : Pins → Pins) (s : State) : (modPins f s).binds = s.binds := rfl
@[simp] theorem modPins_mem (f : Pins → Pins) (s : State) : (modPins f s).mem = s.mem := rfl
@[simp] theorem modPins_bushels (f : Pins → Pins) (s : State) : (modPins f s).bushels = s.bushels := rfl
@[simp] theorem modPins_freeCtr (f : Pins → Pins) (s : State) : (modPins f s).freeCtr = s.freeCtr := rfl
@[simp] theorem modPins_pending (f : Pins → Pins) (s : State) : (modPins f s).pending = s.pending := rfl
/-! modBoot -/
@[simp] theorem modBoot_time (f : Boot → Boot) (s : State) : (modBoot f s).time = s.time := rfl
@[simp] theorem modBoot_glb (f : Boot → Boot) (s : State) : (modBoot f s).glb = s.glb := rfl
@[simp] theorem modBoot_events (f : Boot → Boot) (s : State) : (modBoot f s).events = s.events := rfl
@[simp] theorem modBoot_pins (f : Boot → Boot) (s : State) : (modBoot f s).pins = s.pins := rfl
@[simp] theorem modBoot_boot (f : Boot → Boot) (s : State) : (modBoot f s).boot = f s.boot := rfl
@[simp] theorem modBoot_nor (f : Boot → Boot) (s : State) : (modBoot f s).nor = s.nor := rfl
@[simp] theorem modBoot_fwc (f : Boot → Boot) (s : State) : (modBoot f s).fwc = s.fwc := rfl
@[simp] theorem modBoot_repair (f : Boot → Boot) (s : State) : (modBoot f s).repair = s.repair := rfl
@[simp] theorem modBoot_repairSeq (f : Boot → Boot) (s : State) : (modBoot f s).repairSeq = s.repairSeq := rfl
@[simp] theorem modBoot_sec (f : Boot → Boot) (s : State) : (modBoot f s).sec = s.sec := rfl
@[simp] theorem modBoot_win (f : Boot → Boot) (s : State) : (modBoot f s).win = s.win := rfl
@[simp] theorem modBoot_eth (f : Boot → Boot) (s : State) : (modBoot f s).eth = s.eth := rfl
@[simp] theorem modBoot_links (f : Boot → Boot) (s : State) : (modBoot f s).links = s.links := rfl
@[simp] theorem modBoot_linkSpares (f : Boot → Boot) (s : State) : (modBoot f s).linkSpares = s.linkSpares := rfl
@[simp] theorem modBoot_fab (f : Boot → Boot) (s : State) : (modBoot f s).fab = s.fab := rfl
@[simp] theorem modBoot_roods (f : Boot → Boot) (s : State) : (modBoot f s).roods = s.roods := rfl
@[simp] theorem modBoot_slices (f : Boot → Boot) (s : State) : (modBoot f s).slices = s.slices := rfl
@[simp] theorem modBoot_drrNext (f : Boot → Boot) (s : State) : (modBoot f s).drrNext = s.drrNext := rfl
@[simp] theorem modBoot_queues (f : Boot → Boot) (s : State) : (modBoot f s).queues = s.queues := rfl
@[simp] theorem modBoot_descs (f : Boot → Boot) (s : State) : (modBoot f s).descs = s.descs := rfl
@[simp] theorem modBoot_nextDesc (f : Boot → Boot) (s : State) : (modBoot f s).nextDesc = s.nextDesc := rfl
@[simp] theorem modBoot_clusters (f : Boot → Boot) (s : State) : (modBoot f s).clusters = s.clusters := rfl
@[simp] theorem modBoot_spareCluster (f : Boot → Boot) (s : State) : (modBoot f s).spareCluster = s.spareCluster := rfl
@[simp] theorem modBoot_stks (f : Boot → Boot) (s : State) : (modBoot f s).stks = s.stks := rfl
@[simp] theorem modBoot_streams (f : Boot → Boot) (s : State) : (modBoot f s).streams = s.streams := rfl
@[simp] theorem modBoot_flash (f : Boot → Boot) (s : State) : (modBoot f s).flash = s.flash := rfl
@[simp] theorem modBoot_slots (f : Boot → Boot) (s : State) : (modBoot f s).slots = s.slots := rfl
@[simp] theorem modBoot_cache (f : Boot → Boot) (s : State) : (modBoot f s).cache = s.cache := rfl
@[simp] theorem modBoot_nextCache (f : Boot → Boot) (s : State) : (modBoot f s).nextCache = s.nextCache := rfl
@[simp] theorem modBoot_requests (f : Boot → Boot) (s : State) : (modBoot f s).requests = s.requests := rfl
@[simp] theorem modBoot_nextReq (f : Boot → Boot) (s : State) : (modBoot f s).nextReq = s.nextReq := rfl
@[simp] theorem modBoot_binds (f : Boot → Boot) (s : State) : (modBoot f s).binds = s.binds := rfl
@[simp] theorem modBoot_mem (f : Boot → Boot) (s : State) : (modBoot f s).mem = s.mem := rfl
@[simp] theorem modBoot_bushels (f : Boot → Boot) (s : State) : (modBoot f s).bushels = s.bushels := rfl
@[simp] theorem modBoot_freeCtr (f : Boot → Boot) (s : State) : (modBoot f s).freeCtr = s.freeCtr := rfl
@[simp] theorem modBoot_pending (f : Boot → Boot) (s : State) : (modBoot f s).pending = s.pending := rfl
/-! modWin -/
@[simp] theorem modWin_time (f : Windows → Windows) (s : State) : (modWin f s).time = s.time := rfl
@[simp] theorem modWin_glb (f : Windows → Windows) (s : State) : (modWin f s).glb = s.glb := rfl
@[simp] theorem modWin_events (f : Windows → Windows) (s : State) : (modWin f s).events = s.events := rfl
@[simp] theorem modWin_pins (f : Windows → Windows) (s : State) : (modWin f s).pins = s.pins := rfl
@[simp] theorem modWin_boot (f : Windows → Windows) (s : State) : (modWin f s).boot = s.boot := rfl
@[simp] theorem modWin_nor (f : Windows → Windows) (s : State) : (modWin f s).nor = s.nor := rfl
@[simp] theorem modWin_fwc (f : Windows → Windows) (s : State) : (modWin f s).fwc = s.fwc := rfl
@[simp] theorem modWin_repair (f : Windows → Windows) (s : State) : (modWin f s).repair = s.repair := rfl
@[simp] theorem modWin_repairSeq (f : Windows → Windows) (s : State) : (modWin f s).repairSeq = s.repairSeq := rfl
@[simp] theorem modWin_sec (f : Windows → Windows) (s : State) : (modWin f s).sec = s.sec := rfl
@[simp] theorem modWin_win (f : Windows → Windows) (s : State) : (modWin f s).win = f s.win := rfl
@[simp] theorem modWin_eth (f : Windows → Windows) (s : State) : (modWin f s).eth = s.eth := rfl
@[simp] theorem modWin_links (f : Windows → Windows) (s : State) : (modWin f s).links = s.links := rfl
@[simp] theorem modWin_linkSpares (f : Windows → Windows) (s : State) : (modWin f s).linkSpares = s.linkSpares := rfl
@[simp] theorem modWin_fab (f : Windows → Windows) (s : State) : (modWin f s).fab = s.fab := rfl
@[simp] theorem modWin_roods (f : Windows → Windows) (s : State) : (modWin f s).roods = s.roods := rfl
@[simp] theorem modWin_slices (f : Windows → Windows) (s : State) : (modWin f s).slices = s.slices := rfl
@[simp] theorem modWin_drrNext (f : Windows → Windows) (s : State) : (modWin f s).drrNext = s.drrNext := rfl
@[simp] theorem modWin_queues (f : Windows → Windows) (s : State) : (modWin f s).queues = s.queues := rfl
@[simp] theorem modWin_descs (f : Windows → Windows) (s : State) : (modWin f s).descs = s.descs := rfl
@[simp] theorem modWin_nextDesc (f : Windows → Windows) (s : State) : (modWin f s).nextDesc = s.nextDesc := rfl
@[simp] theorem modWin_clusters (f : Windows → Windows) (s : State) : (modWin f s).clusters = s.clusters := rfl
@[simp] theorem modWin_spareCluster (f : Windows → Windows) (s : State) : (modWin f s).spareCluster = s.spareCluster := rfl
@[simp] theorem modWin_stks (f : Windows → Windows) (s : State) : (modWin f s).stks = s.stks := rfl
@[simp] theorem modWin_streams (f : Windows → Windows) (s : State) : (modWin f s).streams = s.streams := rfl
@[simp] theorem modWin_flash (f : Windows → Windows) (s : State) : (modWin f s).flash = s.flash := rfl
@[simp] theorem modWin_slots (f : Windows → Windows) (s : State) : (modWin f s).slots = s.slots := rfl
@[simp] theorem modWin_cache (f : Windows → Windows) (s : State) : (modWin f s).cache = s.cache := rfl
@[simp] theorem modWin_nextCache (f : Windows → Windows) (s : State) : (modWin f s).nextCache = s.nextCache := rfl
@[simp] theorem modWin_requests (f : Windows → Windows) (s : State) : (modWin f s).requests = s.requests := rfl
@[simp] theorem modWin_nextReq (f : Windows → Windows) (s : State) : (modWin f s).nextReq = s.nextReq := rfl
@[simp] theorem modWin_binds (f : Windows → Windows) (s : State) : (modWin f s).binds = s.binds := rfl
@[simp] theorem modWin_mem (f : Windows → Windows) (s : State) : (modWin f s).mem = s.mem := rfl
@[simp] theorem modWin_bushels (f : Windows → Windows) (s : State) : (modWin f s).bushels = s.bushels := rfl
@[simp] theorem modWin_freeCtr (f : Windows → Windows) (s : State) : (modWin f s).freeCtr = s.freeCtr := rfl
@[simp] theorem modWin_pending (f : Windows → Windows) (s : State) : (modWin f s).pending = s.pending := rfl

end Sys2Proof.Laws
end

