-- ==== Sys2Proof/Laws/Touch.lean ====
section
/-! SUPPORT. Parts of the state that an operation leaves: how agreement outside a list of parts passes through an operation. -/
namespace Sys2Proof.Laws

open Sys2Proof.Machine Sys2Proof.Safety

/-- SameBut, as a structure, so that a proof does not take it for a function. -/
structure Agrees (w : List Part) (s t : State) : Prop where
  same : SameBut w s t

theorem Agrees.refl (w : List Part) (s : State) : Agrees w s s := ⟨by intro p _; cases p <;> rfl⟩

theorem Part.same_trans {p : Part} {s t u : State} (h : p.same s t) (g : p.same t u) : p.same s u := by
  cases p <;> exact Eq.trans h g

/-- Agreement with s0 passes from s to a state that agrees with s outside w. -/
theorem same_mk {w : List Part} {s0 s t : State} (hs : Agrees w s0 s) (h : ∀ p, p ∉ w → p.same s t) : Agrees w s0 t :=
  ⟨fun p hp => Part.same_trans (hs.same p hp) (h p hp)⟩

/-- The state that an outcome answers agrees with s0 outside w. -/
def AnswerSame (w : List Part) (s0 : State) (o : Answer) : Prop :=
  match o with | .next t => Agrees w s0 t | .fault _ => True | .refused _ => True

theorem AnswerSame.next {w : List Part} {s0 t : State} (h : Agrees w s0 t) : AnswerSame w s0 (.next t) := h

/-! A state, or an operation, that a let names. -/
section Cuts

variable {G : Prop} {w : List Part} {s0 : State} {α β γ : Type}

theorem same_cut (x : State) (h : Agrees w s0 x) (k : Agrees w s0 x → G) : G := k h
theorem same_cut_ss (x : State → State) (h : ∀ s, Agrees w s0 s → Agrees w s0 (x s))
    (k : (∀ s, Agrees w s0 s → Agrees w s0 (x s)) → G) : G := k h
theorem same_cut_ass (x : α → State → State) (h : ∀ a s, Agrees w s0 s → Agrees w s0 (x a s))
    (k : (∀ a s, Agrees w s0 s → Agrees w s0 (x a s)) → G) : G := k h
theorem same_cut_abss (x : α → β → State → State) (h : ∀ a b s, Agrees w s0 s → Agrees w s0 (x a b s))
    (k : (∀ a b s, Agrees w s0 s → Agrees w s0 (x a b s)) → G) : G := k h
theorem same_cut_a (x : α → State) (h : ∀ a, Agrees w s0 (x a)) (k : (∀ a, Agrees w s0 (x a)) → G) : G := k h
theorem same_cut_ab (x : α → β → State) (h : ∀ a b, Agrees w s0 (x a b)) (k : (∀ a b, Agrees w s0 (x a b)) → G) : G := k h
theorem same_cut_abc (x : α → β → γ → State) (h : ∀ a b c, Agrees w s0 (x a b c))
    (k : (∀ a b c, Agrees w s0 (x a b c)) → G) : G := k h
theorem same_cut_snd (x : α × State) (h : Agrees w s0 x.2) (k : Agrees w s0 x.2 → G) : G := k h
theorem same_cut_fst (x : State × α) (h : Agrees w s0 x.1) (k : Agrees w s0 x.1 → G) : G := k h
theorem same_cut_o (x : Option State) (h : ∀ t, x = some t → Agrees w s0 t) (k : (∀ t, x = some t → Agrees w s0 t) → G) : G := k h
theorem same_cut_o1 (x : Option State × α) (h : ∀ t, x.1 = some t → Agrees w s0 t)
    (k : (∀ t, x.1 = some t → Agrees w s0 t) → G) : G := k h

theorem same_getD (o : Option State) (d : State) (h : ∀ t, o = some t → Agrees w s0 t) (hd : Agrees w s0 d) : Agrees w s0 (o.getD d) := by
  cases o with
  | none => exact hd
  | some t => exact h t rfl

theorem foldl_same (l : List α) (f : State → α → State) (s : State) (hs : Agrees w s0 s)
    (hf : ∀ x0 x1, Agrees w s0 x0 → Agrees w s0 (f x0 x1)) : Agrees w s0 (l.foldl f s) := by
  induction l generalizing s with
  | nil => exact hs
  | cons a l ih => exact ih _ (hf s a hs)

theorem foldl_snd_same (l : List α) (f : β × State → α → β × State) (p : β × State) (hs : Agrees w s0 p.2)
    (hf : ∀ x0 x1, Agrees w s0 x0.2 → Agrees w s0 (f x0 x1).2) : Agrees w s0 (l.foldl f p).2 := by
  induction l generalizing p with
  | nil => exact hs
  | cons a l ih => exact ih _ (hf p a hs)

theorem foldl_fst_same (l : List α) (f : State × β → α → State × β) (p : State × β) (hs : Agrees w s0 p.1)
    (hf : ∀ x0 x1, Agrees w s0 x0.1 → Agrees w s0 (f x0 x1).1) : Agrees w s0 (l.foldl f p).1 := by
  induction l generalizing p with
  | nil => exact hs
  | cons a l ih => exact ih _ (hf p a hs)

end Cuts

end Sys2Proof.Laws
end

