-- ==== Sys2Proof/Laws/TouchOps.lean ====
section
/-! SUPPORT. Which parts of the state every operation of Machine/Ops.lean may change (Laws/Touch.lean). -/
namespace Sys2Proof.Laws

set_option linter.unusedVariables false

open Sys2Proof.Machine Sys2Proof.Safety

theorem doneOr_same {pts : List Part} {st0 : State} (s : State) (o : Answer) (hs : Agrees pts st0 s) (ho : AnswerSame pts st0 o) :
    Agrees pts st0 (doneOr s o) := by
  cases o with
  | next t => exact ho
  | fault f => exact hs
  | refused r => exact hs

theorem modRood_same {pts : List Part} {st0 : State} (r : Nat) (f : Rood → Rood) (s : State) (hs : Agrees pts st0 s) (mroods : Part.roods ∈ pts) : Agrees pts st0 (modRood r f s) := by
  delta modRood
  repeat' first
    | (refine same_mk hs ?_; intro p hp; cases p <;> first | exact rfl | exact absurd (by assumption) hp)

theorem modCluster_same {pts : List Part} {st0 : State} (c : Nat) (f : Cluster → Cluster) (s : State) (hs : Agrees pts st0 s) (mclusters : Part.clusters ∈ pts) : Agrees pts st0 (modCluster c f s) := by
  delta modCluster
  repeat' first
    | (refine same_mk hs ?_; intro p hp; cases p <;> first | exact rfl | exact absurd (by assumption) hp)

theorem modCore_same {pts : List Part} {st0 : State} (c n : Nat) (f : Core → Core) (s : State) (hs : Agrees pts st0 s) (mclusters : Part.clusters ∈ pts) : Agrees pts st0 (modCore c n f s) := by
  delta modCore
  repeat' first
    | (with_reducible assumption)
    | (with_reducible apply modCluster_same)

theorem modBank_same {pts : List Part} {st0 : State} (c b : Nat) (f : Bank → Bank) (s : State) (hs : Agrees pts st0 s) (mclusters : Part.clusters ∈ pts) : Agrees pts st0 (modBank c b f s) := by
  delta modBank
  repeat' first
    | (with_reducible assumption)
    | (with_reducible apply modCluster_same)

theorem modComb_same {pts : List Part} {st0 : State} (c i : Nat) (f : Comb → Comb) (s : State) (hs : Agrees pts st0 s) (mclusters : Part.clusters ∈ pts) : Agrees pts st0 (modComb c i f s) := by
  delta modComb
  repeat' first
    | (with_reducible assumption)
    | (with_reducible apply modCluster_same)

theorem modStack_same {pts : List Part} {st0 : State} (t : Nat) (f : Stack → Stack) (s : State) (hs : Agrees pts st0 s) (mstks : Part.stks ∈ pts) : Agrees pts st0 (modStack t f s) := by
  delta modStack
  repeat' first
    | (refine same_mk hs ?_; intro p hp; cases p <;> first | exact rfl | exact absurd (by assumption) hp)

theorem modEngine_same {pts : List Part} {st0 : State} (t e : Nat) (f : Engine → Engine) (s : State) (hs : Agrees pts st0 s) (mstks : Part.stks ∈ pts) : Agrees pts st0 (modEngine t e f s) := by
  delta modEngine
  repeat' first
    | (with_reducible assumption)
    | (with_reducible apply modStack_same)

theorem modLock_same {pts : List Part} {st0 : State} (t i : Nat) (f : LockEntry → LockEntry) (s : State) (hs : Agrees pts st0 s) (mstks : Part.stks ∈ pts) : Agrees pts st0 (modLock t i f s) := by
  delta modLock
  repeat' first
    | (with_reducible assumption)
    | (with_reducible apply modStack_same)

theorem modLink_same {pts : List Part} {st0 : State} (l : Nat) (f : Link → Link) (s : State) (hs : Agrees pts st0 s) (mlinks : Part.links ∈ pts) : Agrees pts st0 (modLink l f s) := by
  delta modLink
  repeat' first
    | (refine same_mk hs ?_; intro p hp; cases p <;> first | exact rfl | exact absurd (by assumption) hp)

theorem modDesc_same {pts : List Part} {st0 : State} (d : Nat) (f : Desc → Desc) (s : State) (hs : Agrees pts st0 s) (mdescs : Part.descs ∈ pts) : Agrees pts st0 (modDesc d f s) := by
  delta modDesc
  repeat' first
    | (refine same_mk hs ?_; intro p hp; cases p <;> first | exact rfl | exact absurd (by assumption) hp)

theorem modQueue_same {pts : List Part} {st0 : State} (q : Nat) (f : Queue → Queue) (s : State) (hs : Agrees pts st0 s) (mqueues : Part.queues ∈ pts) : Agrees pts st0 (modQueue q f s) := by
  delta modQueue
  repeat' first
    | (refine same_mk hs ?_; intro p hp; cases p <;> first | exact rfl | exact absurd (by assumption) hp)

theorem modBind_same {pts : List Part} {st0 : State} (b : Nat) (f : Bind → Bind) (s : State) (hs : Agrees pts st0 s) (mbinds : Part.binds ∈ pts) : Agrees pts st0 (modBind b f s) := by
  delta modBind
  repeat' first
    | (refine same_mk hs ?_; intro p hp; cases p <;> first | exact rfl | exact absurd (by assumption) hp)

theorem modSlot_same {pts : List Part} {st0 : State} (i : Nat) (f : Slot → Slot) (s : State) (hs : Agrees pts st0 s) (mslots : Part.slots ∈ pts) : Agrees pts st0 (modSlot i f s) := by
  delta modSlot
  repeat' first
    | (refine same_mk hs ?_; intro p hp; cases p <;> first | exact rfl | exact absurd (by assumption) hp)

theorem modReq_same {pts : List Part} {st0 : State} (h : Nat) (f : Request → Request) (s : State) (hs : Agrees pts st0 s) (mrequests : Part.requests ∈ pts) : Agrees pts st0 (modReq h f s) := by
  delta modReq
  repeat' first
    | (refine same_mk hs ?_; intro p hp; cases p <;> first | exact rfl | exact absurd (by assumption) hp)

theorem modQp_same {pts : List Part} {st0 : State} (q : Nat) (f : Qp → Qp) (s : State) (hs : Agrees pts st0 s) (meth : Part.eth ∈ pts) : Agrees pts st0 (modQp q f s) := by
  delta modQp
  repeat' first
    | lift_lets
    | (intro x; clear_value x)
    | (refine same_mk hs ?_; intro p hp; cases p <;> first | exact rfl | exact absurd (by assumption) hp)

theorem modCtx_same {pts : List Part} {st0 : State} (x : Nat) (f : Ctx → Ctx) (s : State) (hs : Agrees pts st0 s) (mstreams : Part.streams ∈ pts) : Agrees pts st0 (modCtx x f s) := by
  delta modCtx
  repeat' first
    | lift_lets
    | (intro x; clear_value x)
    | (refine same_mk hs ?_; intro p hp; cases p <;> first | exact rfl | exact absurd (by assumption) hp)

theorem modTime_same {pts : List Part} {st0 : State} (f : Time → Time) (s : State) (hs : Agrees pts st0 s) (mtime : Part.time ∈ pts) : Agrees pts st0 (modTime f s) := by
  delta modTime
  repeat' first
    | (refine same_mk hs ?_; intro p hp; cases p <;> first | exact rfl | exact absurd (by assumption) hp)

theorem modGlb_same {pts : List Part} {st0 : State} (f : Glb → Glb) (s : State) (hs : Agrees pts st0 s) (mglb : Part.glb ∈ pts) : Agrees pts st0 (modGlb f s) := by
  delta modGlb
  repeat' first
    | (refine same_mk hs ?_; intro p hp; cases p <;> first | exact rfl | exact absurd (by assumption) hp)

theorem modFwc_same {pts : List Part} {st0 : State} (f : Fwc → Fwc) (s : State) (hs : Agrees pts st0 s) (mfwc : Part.fwc ∈ pts) : Agrees pts st0 (modFwc f s) := by
  delta modFwc
  repeat' first
    | (refine same_mk hs ?_; intro p hp; cases p <;> first | exact rfl | exact absurd (by assumption) hp)

theorem modSec_same {pts : List Part} {st0 : State} (f : Sec → Sec) (s : State) (hs : Agrees pts st0 s) (msec : Part.sec ∈ pts) : Agrees pts st0 (modSec f s) := by
  delta modSec
  repeat' first
    | (refine same_mk hs ?_; intro p hp; cases p <;> first | exact rfl | exact absurd (by assumption) hp)

theorem modEth_same {pts : List Part} {st0 : State} (f : Eth → Eth) (s : State) (hs : Agrees pts st0 s) (meth : Part.eth ∈ pts) : Agrees pts st0 (modEth f s) := by
  delta modEth
  repeat' first
    | (refine same_mk hs ?_; intro p hp; cases p <;> first | exact rfl | exact absurd (by assumption) hp)

theorem modFab_same {pts : List Part} {st0 : State} (f : Fabric → Fabric) (s : State) (hs : Agrees pts st0 s) (mfab : Part.fab ∈ pts) : Agrees pts st0 (modFab f s) := by
  delta modFab
  repeat' first
    | (refine same_mk hs ?_; intro p hp; cases p <;> first | exact rfl | exact absurd (by assumption) hp)

theorem modFlash_same {pts : List Part} {st0 : State} (f : Flash → Flash) (s : State) (hs : Agrees pts st0 s) (mflash : Part.flash ∈ pts) : Agrees pts st0 (modFlash f s) := by
  delta modFlash
  repeat' first
    | (refine same_mk hs ?_; intro p hp; cases p <;> first | exact rfl | exact absurd (by assumption) hp)

theorem modStreams_same {pts : List Part} {st0 : State} (f : Streams → Streams) (s : State) (hs : Agrees pts st0 s) (mstreams : Part.streams ∈ pts) : Agrees pts st0 (modStreams f s) := by
  delta modStreams
  repeat' first
    | (refine same_mk hs ?_; intro p hp; cases p <;> first | exact rfl | exact absurd (by assumption) hp)

theorem modPins_same {pts : List Part} {st0 : State} (f : Pins → Pins) (s : State) (hs : Agrees pts st0 s) (mpins : Part.pins ∈ pts) : Agrees pts st0 (modPins f s) := by
  delta modPins
  repeat' first
    | (refine same_mk hs ?_; intro p hp; cases p <;> first | exact rfl | exact absurd (by assumption) hp)

theorem modBoot_same {pts : List Part} {st0 : State} (f : Boot → Boot) (s : State) (hs : Agrees pts st0 s) (mboot : Part.boot ∈ pts) : Agrees pts st0 (modBoot f s) := by
  delta modBoot
  repeat' first
    | (refine same_mk hs ?_; intro p hp; cases p <;> first | exact rfl | exact absurd (by assumption) hp)

theorem modWin_same {pts : List Part} {st0 : State} (f : Windows → Windows) (s : State) (hs : Agrees pts st0 s) (mwin : Part.win ∈ pts) : Agrees pts st0 (modWin f s) := by
  delta modWin
  repeat' first
    | (refine same_mk hs ?_; intro p hp; cases p <;> first | exact rfl | exact absurd (by assumption) hp)

theorem forAll_same {pts : List Part} {st0 : State} {α : Type} (l : List α) (f : α → State → State) (s : State) (hs : Agrees pts st0 s)
    (hf : ∀ x0 x1, Agrees pts st0 x1 → Agrees pts st0 (f x0 x1)) : Agrees pts st0 (forAll l f s) := by
  unfold forAll
  induction l generalizing s with
  | nil => exact hs
  | cons a l ih => exact ih _ (hf a s hs)

theorem fresh_same {pts : List Part} {st0 : State} (n : Nat) (s : State) (hs : Agrees pts st0 s) (mfreeCtr : Part.freeCtr ∈ pts) : Agrees pts st0 (fresh n s).2 := by
  delta fresh
  repeat' first
    | (refine same_mk hs ?_; intro p hp; cases p <;> first | exact rfl | exact absurd (by assumption) hp)

theorem fresh_same_eq {pts : List Part} {st0 : State} (n : Nat) (s : State) {tOut : State} {outv : _} (hs : Agrees pts st0 s) (mfreeCtr : Part.freeCtr ∈ pts) (e : fresh n s = (outv, tOut)) : Agrees pts st0 tOut := by
  have := fresh_same (pts := pts) (st0 := st0) n s hs mfreeCtr
  rw [e] at this; exact this

theorem logEv_same {pts : List Part} {st0 : State} (block low rood payload : Nat) (s : State) (hs : Agrees pts st0 s) (mevents : Part.events ∈ pts) : Agrees pts st0 (logEv block low rood payload s) := by
  delta logEv
  repeat' first
    | lift_lets
    | (intro x; clear_value x)
    | (intro _)
    | split
    | (refine same_mk hs ?_; intro p hp; cases p <;> first | exact rfl | exact absurd (by assumption) hp)

theorem logGlb_same {pts : List Part} {st0 : State} (low rood payload : Nat) (s : State) (hs : Agrees pts st0 s) (mevents : Part.events ∈ pts) : Agrees pts st0 (logGlb low rood payload s) := by
  delta logGlb
  repeat' first
    | (with_reducible assumption)
    | (with_reducible apply logEv_same)

theorem raiseGlb_same {pts : List Part} {st0 : State} (i : Nat) (s : State) (hs : Agrees pts st0 s) (mglb : Part.glb ∈ pts) : Agrees pts st0 (raiseGlb i s) := by
  delta raiseGlb
  repeat' first
    | (with_reducible assumption)
    | (with_reducible rfl)
    | (with_reducible refine fun _ => ?_)
    | lift_lets
    | (intro x; refine same_cut (w := pts) (s0 := st0) x ?_ ?_; rotate_left; intro _; clear_value x; rotate_left; unfold x)
    | (intro x; refine same_cut_ss (w := pts) (s0 := st0) x ?_ ?_; rotate_left; intro hfun; clear_value x; rotate_left; unfold x)
    | (intro x; refine same_cut_ass (w := pts) (s0 := st0) x ?_ ?_; rotate_left; intro hfun; clear_value x; rotate_left; unfold x)
    | (intro x; refine same_cut_abss (w := pts) (s0 := st0) x ?_ ?_; rotate_left; intro hfun; clear_value x; rotate_left; unfold x)
    | (intro x; refine same_cut_a (w := pts) (s0 := st0) x ?_ ?_; rotate_left; intro hfun; clear_value x; rotate_left; unfold x)
    | (intro x; refine same_cut_ab (w := pts) (s0 := st0) x ?_ ?_; rotate_left; intro hfun; clear_value x; rotate_left; unfold x)
    | (intro x; refine same_cut_abc (w := pts) (s0 := st0) x ?_ ?_; rotate_left; intro hfun; clear_value x; rotate_left; unfold x)
    | (intro x; refine same_cut_o1 (w := pts) (s0 := st0) x ?_ ?_; rotate_left; intro hopt; clear_value x; rotate_left; unfold x)
    | (intro x; refine same_cut_o (w := pts) (s0 := st0) x ?_ ?_; rotate_left; intro hopt; clear_value x; rotate_left; unfold x)
    | (intro x; refine same_cut_fst (w := pts) (s0 := st0) x ?_ ?_; rotate_left; intro _; clear_value x; rotate_left; unfold x)
    | (intro x; refine same_cut_snd (w := pts) (s0 := st0) x ?_ ?_; rotate_left; intro _; clear_value x; rotate_left; unfold x)
    | (intro x; clear_value x)
    | (with_reducible apply modGlb_same)
    | (with_reducible refine hopt _ (by assumption))
    | (with_reducible exact hopt _ rfl)
    | (with_reducible apply hfun)
    | (intro _)
    | split
    | (with_reducible apply AnswerSame.next)
    | (with_reducible apply same_getD)
    | (refine same_mk hs ?_; intro p hp; cases p <;> first | exact rfl | exact absurd (by assumption) hp)
    | (refine same_mk (by assumption) ?_; intro p hp; cases p <;> first | exact rfl | exact absurd (by assumption) hp)
    | (dsimp only)
    | (rename_i he; split at he)
    | (rename_i he; injection he with he; subst he)

theorem logUnmapped_same {pts : List Part} {st0 : State} (addr src rood : Nat) (s : State) (hs : Agrees pts st0 s) (mglb : Part.glb ∈ pts) (mevents : Part.events ∈ pts) : Agrees pts st0 (logUnmapped addr src rood s) := by
  delta logUnmapped
  repeat' first
    | (with_reducible assumption)
    | lift_lets
    | (intro x; clear_value x)
    | (with_reducible apply modGlb_same)
    | (with_reducible apply logGlb_same)
    | (with_reducible apply raiseGlb_same)

theorem logCluster_same {pts : List Part} {st0 : State} (c low core : Nat) (rest : Nat) (s : State) (hs : Agrees pts st0 s) (mevents : Part.events ∈ pts) (mclusters : Part.clusters ∈ pts) : Agrees pts st0 (logCluster c low core rest s) := by
  delta logCluster
  repeat' first
    | (with_reducible assumption)
    | (with_reducible rfl)
    | (with_reducible refine fun _ => ?_)
    | lift_lets
    | (intro x; refine same_cut (w := pts) (s0 := st0) x ?_ ?_; rotate_left; intro _; clear_value x; rotate_left; unfold x)
    | (intro x; refine same_cut_ss (w := pts) (s0 := st0) x ?_ ?_; rotate_left; intro hfun; clear_value x; rotate_left; unfold x)
    | (intro x; refine same_cut_ass (w := pts) (s0 := st0) x ?_ ?_; rotate_left; intro hfun; clear_value x; rotate_left; unfold x)
    | (intro x; refine same_cut_abss (w := pts) (s0 := st0) x ?_ ?_; rotate_left; intro hfun; clear_value x; rotate_left; unfold x)
    | (intro x; refine same_cut_a (w := pts) (s0 := st0) x ?_ ?_; rotate_left; intro hfun; clear_value x; rotate_left; unfold x)
    | (intro x; refine same_cut_ab (w := pts) (s0 := st0) x ?_ ?_; rotate_left; intro hfun; clear_value x; rotate_left; unfold x)
    | (intro x; refine same_cut_abc (w := pts) (s0 := st0) x ?_ ?_; rotate_left; intro hfun; clear_value x; rotate_left; unfold x)
    | (intro x; refine same_cut_o1 (w := pts) (s0 := st0) x ?_ ?_; rotate_left; intro hopt; clear_value x; rotate_left; unfold x)
    | (intro x; refine same_cut_o (w := pts) (s0 := st0) x ?_ ?_; rotate_left; intro hopt; clear_value x; rotate_left; unfold x)
    | (intro x; refine same_cut_fst (w := pts) (s0 := st0) x ?_ ?_; rotate_left; intro _; clear_value x; rotate_left; unfold x)
    | (intro x; refine same_cut_snd (w := pts) (s0 := st0) x ?_ ?_; rotate_left; intro _; clear_value x; rotate_left; unfold x)
    | (intro x; clear_value x)
    | (with_reducible apply modCluster_same)
    | (with_reducible apply logEv_same)
    | (with_reducible refine hopt _ (by assumption))
    | (with_reducible exact hopt _ rfl)
    | (with_reducible apply hfun)
    | (intro _)
    | split
    | (with_reducible apply AnswerSame.next)
    | (with_reducible apply same_getD)
    | (refine same_mk hs ?_; intro p hp; cases p <;> first | exact rfl | exact absurd (by assumption) hp)
    | (refine same_mk (by assumption) ?_; intro p hp; cases p <;> first | exact rfl | exact absurd (by assumption) hp)
    | (dsimp only)
    | (rename_i he; split at he)
    | (rename_i he; injection he with he; subst he)

theorem logStack_same {pts : List Part} {st0 : State} (t low : Nat) (bit : Option Nat) (rood payload : Nat) (s : State) (hs : Agrees pts st0 s) (mevents : Part.events ∈ pts) (mstks : Part.stks ∈ pts) : Agrees pts st0 (logStack t low bit rood payload s) := by
  delta logStack
  repeat' first
    | (with_reducible assumption)
    | (with_reducible rfl)
    | (with_reducible refine fun _ => ?_)
    | lift_lets
    | (intro x; refine same_cut (w := pts) (s0 := st0) x ?_ ?_; rotate_left; intro _; clear_value x; rotate_left; unfold x)
    | (intro x; refine same_cut_ss (w := pts) (s0 := st0) x ?_ ?_; rotate_left; intro hfun; clear_value x; rotate_left; unfold x)
    | (intro x; refine same_cut_ass (w := pts) (s0 := st0) x ?_ ?_; rotate_left; intro hfun; clear_value x; rotate_left; unfold x)
    | (intro x; refine same_cut_abss (w := pts) (s0 := st0) x ?_ ?_; rotate_left; intro hfun; clear_value x; rotate_left; unfold x)
    | (intro x; refine same_cut_a (w := pts) (s0 := st0) x ?_ ?_; rotate_left; intro hfun; clear_value x; rotate_left; unfold x)
    | (intro x; refine same_cut_ab (w := pts) (s0 := st0) x ?_ ?_; rotate_left; intro hfun; clear_value x; rotate_left; unfold x)
    | (intro x; refine same_cut_abc (w := pts) (s0 := st0) x ?_ ?_; rotate_left; intro hfun; clear_value x; rotate_left; unfold x)
    | (intro x; refine same_cut_o1 (w := pts) (s0 := st0) x ?_ ?_; rotate_left; intro hopt; clear_value x; rotate_left; unfold x)
    | (intro x; refine same_cut_o (w := pts) (s0 := st0) x ?_ ?_; rotate_left; intro hopt; clear_value x; rotate_left; unfold x)
    | (intro x; refine same_cut_fst (w := pts) (s0 := st0) x ?_ ?_; rotate_left; intro _; clear_value x; rotate_left; unfold x)
    | (intro x; refine same_cut_snd (w := pts) (s0 := st0) x ?_ ?_; rotate_left; intro _; clear_value x; rotate_left; unfold x)
    | (intro x; clear_value x)
    | (with_reducible apply modStack_same)
    | (with_reducible apply logEv_same)
    | (with_reducible refine hopt _ (by assumption))
    | (with_reducible exact hopt _ rfl)
    | (with_reducible apply hfun)
    | (intro _)
    | split
    | (with_reducible apply AnswerSame.next)
    | (with_reducible apply same_getD)
    | (refine same_mk hs ?_; intro p hp; cases p <;> first | exact rfl | exact absurd (by assumption) hp)
    | (refine same_mk (by assumption) ?_; intro p hp; cases p <;> first | exact rfl | exact absurd (by assumption) hp)
    | (dsimp only)
    | (rename_i he; split at he)
    | (rename_i he; injection he with he; subst he)

theorem logFirkin_same {pts : List Part} {st0 : State} (t low phys eng rood rest : Nat) (bit : Option Nat) (s : State) (hs : Agrees pts st0 s) (mevents : Part.events ∈ pts) (mstks : Part.stks ∈ pts) : Agrees pts st0 (logFirkin t low phys eng rood rest bit s) := by
  delta logFirkin
  repeat' first
    | (with_reducible assumption)
    | (with_reducible rfl)
    | (with_reducible refine fun _ => ?_)
    | lift_lets
    | (intro x; refine same_cut (w := pts) (s0 := st0) x ?_ ?_; rotate_left; intro _; clear_value x; rotate_left; unfold x)
    | (intro x; refine same_cut_ss (w := pts) (s0 := st0) x ?_ ?_; rotate_left; intro hfun; clear_value x; rotate_left; unfold x)
    | (intro x; refine same_cut_ass (w := pts) (s0 := st0) x ?_ ?_; rotate_left; intro hfun; clear_value x; rotate_left; unfold x)
    | (intro x; refine same_cut_abss (w := pts) (s0 := st0) x ?_ ?_; rotate_left; intro hfun; clear_value x; rotate_left; unfold x)
    | (intro x; refine same_cut_a (w := pts) (s0 := st0) x ?_ ?_; rotate_left; intro hfun; clear_value x; rotate_left; unfold x)
    | (intro x; refine same_cut_ab (w := pts) (s0 := st0) x ?_ ?_; rotate_left; intro hfun; clear_value x; rotate_left; unfold x)
    | (intro x; refine same_cut_abc (w := pts) (s0 := st0) x ?_ ?_; rotate_left; intro hfun; clear_value x; rotate_left; unfold x)
    | (intro x; refine same_cut_o1 (w := pts) (s0 := st0) x ?_ ?_; rotate_left; intro hopt; clear_value x; rotate_left; unfold x)
    | (intro x; refine same_cut_o (w := pts) (s0 := st0) x ?_ ?_; rotate_left; intro hopt; clear_value x; rotate_left; unfold x)
    | (intro x; refine same_cut_fst (w := pts) (s0 := st0) x ?_ ?_; rotate_left; intro _; clear_value x; rotate_left; unfold x)
    | (intro x; refine same_cut_snd (w := pts) (s0 := st0) x ?_ ?_; rotate_left; intro _; clear_value x; rotate_left; unfold x)
    | (intro x; clear_value x)
    | (with_reducible apply modStack_same)
    | (with_reducible apply logEv_same)
    | (with_reducible refine hopt _ (by assumption))
    | (with_reducible exact hopt _ rfl)
    | (with_reducible apply hfun)
    | (intro _)
    | split
    | (with_reducible apply AnswerSame.next)
    | (with_reducible apply same_getD)
    | (refine same_mk hs ?_; intro p hp; cases p <;> first | exact rfl | exact absurd (by assumption) hp)
    | (refine same_mk (by assumption) ?_; intro p hp; cases p <;> first | exact rfl | exact absurd (by assumption) hp)
    | (dsimp only)
    | (rename_i he; split at he)
    | (rename_i he; injection he with he; subst he)

theorem logFlash_same {pts : List Part} {st0 : State} (low : Nat) (bit : Option Nat) (rood payload : Nat) (s : State) (hs : Agrees pts st0 s) (mevents : Part.events ∈ pts) (mflash : Part.flash ∈ pts) : Agrees pts st0 (logFlash low bit rood payload s) := by
  delta logFlash
  repeat' first
    | (with_reducible assumption)
    | (with_reducible rfl)
    | (with_reducible refine fun _ => ?_)
    | lift_lets
    | (intro x; refine same_cut (w := pts) (s0 := st0) x ?_ ?_; rotate_left; intro _; clear_value x; rotate_left; unfold x)
    | (intro x; refine same_cut_ss (w := pts) (s0 := st0) x ?_ ?_; rotate_left; intro hfun; clear_value x; rotate_left; unfold x)
    | (intro x; refine same_cut_ass (w := pts) (s0 := st0) x ?_ ?_; rotate_left; intro hfun; clear_value x; rotate_left; unfold x)
    | (intro x; refine same_cut_abss (w := pts) (s0 := st0) x ?_ ?_; rotate_left; intro hfun; clear_value x; rotate_left; unfold x)
    | (intro x; refine same_cut_a (w := pts) (s0 := st0) x ?_ ?_; rotate_left; intro hfun; clear_value x; rotate_left; unfold x)
    | (intro x; refine same_cut_ab (w := pts) (s0 := st0) x ?_ ?_; rotate_left; intro hfun; clear_value x; rotate_left; unfold x)
    | (intro x; refine same_cut_abc (w := pts) (s0 := st0) x ?_ ?_; rotate_left; intro hfun; clear_value x; rotate_left; unfold x)
    | (intro x; refine same_cut_o1 (w := pts) (s0 := st0) x ?_ ?_; rotate_left; intro hopt; clear_value x; rotate_left; unfold x)
    | (intro x; refine same_cut_o (w := pts) (s0 := st0) x ?_ ?_; rotate_left; intro hopt; clear_value x; rotate_left; unfold x)
    | (intro x; refine same_cut_fst (w := pts) (s0 := st0) x ?_ ?_; rotate_left; intro _; clear_value x; rotate_left; unfold x)
    | (intro x; refine same_cut_snd (w := pts) (s0 := st0) x ?_ ?_; rotate_left; intro _; clear_value x; rotate_left; unfold x)
    | (intro x; clear_value x)
    | (with_reducible apply modFlash_same)
    | (with_reducible apply logEv_same)
    | (with_reducible refine hopt _ (by assumption))
    | (with_reducible exact hopt _ rfl)
    | (with_reducible apply hfun)
    | (intro _)
    | split
    | (with_reducible apply AnswerSame.next)
    | (with_reducible apply same_getD)
    | (refine same_mk hs ?_; intro p hp; cases p <;> first | exact rfl | exact absurd (by assumption) hp)
    | (refine same_mk (by assumption) ?_; intro p hp; cases p <;> first | exact rfl | exact absurd (by assumption) hp)
    | (dsimp only)
    | (rename_i he; split at he)
    | (rename_i he; injection he with he; subst he)

theorem raiseStr_same {pts : List Part} {st0 : State} (i : Nat) (s : State) (hs : Agrees pts st0 s) (mstreams : Part.streams ∈ pts) : Agrees pts st0 (raiseStr i s) := by
  delta raiseStr
  repeat' first
    | (with_reducible assumption)
    | (with_reducible rfl)
    | (with_reducible refine fun _ => ?_)
    | lift_lets
    | (intro x; refine same_cut (w := pts) (s0 := st0) x ?_ ?_; rotate_left; intro _; clear_value x; rotate_left; unfold x)
    | (intro x; refine same_cut_ss (w := pts) (s0 := st0) x ?_ ?_; rotate_left; intro hfun; clear_value x; rotate_left; unfold x)
    | (intro x; refine same_cut_ass (w := pts) (s0 := st0) x ?_ ?_; rotate_left; intro hfun; clear_value x; rotate_left; unfold x)
    | (intro x; refine same_cut_abss (w := pts) (s0 := st0) x ?_ ?_; rotate_left; intro hfun; clear_value x; rotate_left; unfold x)
    | (intro x; refine same_cut_a (w := pts) (s0 := st0) x ?_ ?_; rotate_left; intro hfun; clear_value x; rotate_left; unfold x)
    | (intro x; refine same_cut_ab (w := pts) (s0 := st0) x ?_ ?_; rotate_left; intro hfun; clear_value x; rotate_left; unfold x)
    | (intro x; refine same_cut_abc (w := pts) (s0 := st0) x ?_ ?_; rotate_left; intro hfun; clear_value x; rotate_left; unfold x)
    | (intro x; refine same_cut_o1 (w := pts) (s0 := st0) x ?_ ?_; rotate_left; intro hopt; clear_value x; rotate_left; unfold x)
    | (intro x; refine same_cut_o (w := pts) (s0 := st0) x ?_ ?_; rotate_left; intro hopt; clear_value x; rotate_left; unfold x)
    | (intro x; refine same_cut_fst (w := pts) (s0 := st0) x ?_ ?_; rotate_left; intro _; clear_value x; rotate_left; unfold x)
    | (intro x; refine same_cut_snd (w := pts) (s0 := st0) x ?_ ?_; rotate_left; intro _; clear_value x; rotate_left; unfold x)
    | (intro x; clear_value x)
    | (with_reducible apply modStreams_same)
    | (with_reducible refine hopt _ (by assumption))
    | (with_reducible exact hopt _ rfl)
    | (with_reducible apply hfun)
    | (intro _)
    | split
    | (with_reducible apply AnswerSame.next)
    | (with_reducible apply same_getD)
    | (refine same_mk hs ?_; intro p hp; cases p <;> first | exact rfl | exact absurd (by assumption) hp)
    | (refine same_mk (by assumption) ?_; intro p hp; cases p <;> first | exact rfl | exact absurd (by assumption) hp)
    | (dsimp only)
    | (rename_i he; split at he)
    | (rename_i he; injection he with he; subst he)

theorem raiseFwc_same {pts : List Part} {st0 : State} (i : Nat) (s : State) (hs : Agrees pts st0 s) (mfwc : Part.fwc ∈ pts) : Agrees pts st0 (raiseFwc i s) := by
  delta raiseFwc
  repeat' first
    | (with_reducible assumption)
    | (with_reducible rfl)
    | (with_reducible refine fun _ => ?_)
    | lift_lets
    | (intro x; refine same_cut (w := pts) (s0 := st0) x ?_ ?_; rotate_left; intro _; clear_value x; rotate_left; unfold x)
    | (intro x; refine same_cut_ss (w := pts) (s0 := st0) x ?_ ?_; rotate_left; intro hfun; clear_value x; rotate_left; unfold x)
    | (intro x; refine same_cut_ass (w := pts) (s0 := st0) x ?_ ?_; rotate_left; intro hfun; clear_value x; rotate_left; unfold x)
    | (intro x; refine same_cut_abss (w := pts) (s0 := st0) x ?_ ?_; rotate_left; intro hfun; clear_value x; rotate_left; unfold x)
    | (intro x; refine same_cut_a (w := pts) (s0 := st0) x ?_ ?_; rotate_left; intro hfun; clear_value x; rotate_left; unfold x)
    | (intro x; refine same_cut_ab (w := pts) (s0 := st0) x ?_ ?_; rotate_left; intro hfun; clear_value x; rotate_left; unfold x)
    | (intro x; refine same_cut_abc (w := pts) (s0 := st0) x ?_ ?_; rotate_left; intro hfun; clear_value x; rotate_left; unfold x)
    | (intro x; refine same_cut_o1 (w := pts) (s0 := st0) x ?_ ?_; rotate_left; intro hopt; clear_value x; rotate_left; unfold x)
    | (intro x; refine same_cut_o (w := pts) (s0 := st0) x ?_ ?_; rotate_left; intro hopt; clear_value x; rotate_left; unfold x)
    | (intro x; refine same_cut_fst (w := pts) (s0 := st0) x ?_ ?_; rotate_left; intro _; clear_value x; rotate_left; unfold x)
    | (intro x; refine same_cut_snd (w := pts) (s0 := st0) x ?_ ?_; rotate_left; intro _; clear_value x; rotate_left; unfold x)
    | (intro x; clear_value x)
    | (with_reducible apply modFwc_same)
    | (with_reducible refine hopt _ (by assumption))
    | (with_reducible exact hopt _ rfl)
    | (with_reducible apply hfun)
    | (intro _)
    | split
    | (with_reducible apply AnswerSame.next)
    | (with_reducible apply same_getD)
    | (refine same_mk hs ?_; intro p hp; cases p <;> first | exact rfl | exact absurd (by assumption) hp)
    | (refine same_mk (by assumption) ?_; intro p hp; cases p <;> first | exact rfl | exact absurd (by assumption) hp)
    | (dsimp only)
    | (rename_i he; split at he)
    | (rename_i he; injection he with he; subst he)

theorem raiseSec_same {pts : List Part} {st0 : State} (i : Nat) (s : State) (hs : Agrees pts st0 s) (msec : Part.sec ∈ pts) : Agrees pts st0 (raiseSec i s) := by
  delta raiseSec
  repeat' first
    | (with_reducible assumption)
    | (with_reducible rfl)
    | (with_reducible refine fun _ => ?_)
    | lift_lets
    | (intro x; refine same_cut (w := pts) (s0 := st0) x ?_ ?_; rotate_left; intro _; clear_value x; rotate_left; unfold x)
    | (intro x; refine same_cut_ss (w := pts) (s0 := st0) x ?_ ?_; rotate_left; intro hfun; clear_value x; rotate_left; unfold x)
    | (intro x; refine same_cut_ass (w := pts) (s0 := st0) x ?_ ?_; rotate_left; intro hfun; clear_value x; rotate_left; unfold x)
    | (intro x; refine same_cut_abss (w := pts) (s0 := st0) x ?_ ?_; rotate_left; intro hfun; clear_value x; rotate_left; unfold x)
    | (intro x; refine same_cut_a (w := pts) (s0 := st0) x ?_ ?_; rotate_left; intro hfun; clear_value x; rotate_left; unfold x)
    | (intro x; refine same_cut_ab (w := pts) (s0 := st0) x ?_ ?_; rotate_left; intro hfun; clear_value x; rotate_left; unfold x)
    | (intro x; refine same_cut_abc (w := pts) (s0 := st0) x ?_ ?_; rotate_left; intro hfun; clear_value x; rotate_left; unfold x)
    | (intro x; refine same_cut_o1 (w := pts) (s0 := st0) x ?_ ?_; rotate_left; intro hopt; clear_value x; rotate_left; unfold x)
    | (intro x; refine same_cut_o (w := pts) (s0 := st0) x ?_ ?_; rotate_left; intro hopt; clear_value x; rotate_left; unfold x)
    | (intro x; refine same_cut_fst (w := pts) (s0 := st0) x ?_ ?_; rotate_left; intro _; clear_value x; rotate_left; unfold x)
    | (intro x; refine same_cut_snd (w := pts) (s0 := st0) x ?_ ?_; rotate_left; intro _; clear_value x; rotate_left; unfold x)
    | (intro x; clear_value x)
    | (with_reducible apply modSec_same)
    | (with_reducible refine hopt _ (by assumption))
    | (with_reducible exact hopt _ rfl)
    | (with_reducible apply hfun)
    | (intro _)
    | split
    | (with_reducible apply AnswerSame.next)
    | (with_reducible apply same_getD)
    | (refine same_mk hs ?_; intro p hp; cases p <;> first | exact rfl | exact absurd (by assumption) hp)
    | (refine same_mk (by assumption) ?_; intro p hp; cases p <;> first | exact rfl | exact absurd (by assumption) hp)
    | (dsimp only)
    | (rename_i he; split at he)
    | (rename_i he; injection he with he; subst he)

theorem raiseEth_same {pts : List Part} {st0 : State} (i : Nat) (s : State) (hs : Agrees pts st0 s) (meth : Part.eth ∈ pts) : Agrees pts st0 (raiseEth i s) := by
  delta raiseEth
  repeat' first
    | (with_reducible assumption)
    | (with_reducible rfl)
    | (with_reducible refine fun _ => ?_)
    | lift_lets
    | (intro x; refine same_cut (w := pts) (s0 := st0) x ?_ ?_; rotate_left; intro _; clear_value x; rotate_left; unfold x)
    | (intro x; refine same_cut_ss (w := pts) (s0 := st0) x ?_ ?_; rotate_left; intro hfun; clear_value x; rotate_left; unfold x)
    | (intro x; refine same_cut_ass (w := pts) (s0 := st0) x ?_ ?_; rotate_left; intro hfun; clear_value x; rotate_left; unfold x)
    | (intro x; refine same_cut_abss (w := pts) (s0 := st0) x ?_ ?_; rotate_left; intro hfun; clear_value x; rotate_left; unfold x)
    | (intro x; refine same_cut_a (w := pts) (s0 := st0) x ?_ ?_; rotate_left; intro hfun; clear_value x; rotate_left; unfold x)
    | (intro x; refine same_cut_ab (w := pts) (s0 := st0) x ?_ ?_; rotate_left; intro hfun; clear_value x; rotate_left; unfold x)
    | (intro x; refine same_cut_abc (w := pts) (s0 := st0) x ?_ ?_; rotate_left; intro hfun; clear_value x; rotate_left; unfold x)
    | (intro x; refine same_cut_o1 (w := pts) (s0 := st0) x ?_ ?_; rotate_left; intro hopt; clear_value x; rotate_left; unfold x)
    | (intro x; refine same_cut_o (w := pts) (s0 := st0) x ?_ ?_; rotate_left; intro hopt; clear_value x; rotate_left; unfold x)
    | (intro x; refine same_cut_fst (w := pts) (s0 := st0) x ?_ ?_; rotate_left; intro _; clear_value x; rotate_left; unfold x)
    | (intro x; refine same_cut_snd (w := pts) (s0 := st0) x ?_ ?_; rotate_left; intro _; clear_value x; rotate_left; unfold x)
    | (intro x; clear_value x)
    | (with_reducible apply modEth_same)
    | (with_reducible refine hopt _ (by assumption))
    | (with_reducible exact hopt _ rfl)
    | (with_reducible apply hfun)
    | (intro _)
    | split
    | (with_reducible apply AnswerSame.next)
    | (with_reducible apply same_getD)
    | (refine same_mk hs ?_; intro p hp; cases p <;> first | exact rfl | exact absurd (by assumption) hp)
    | (refine same_mk (by assumption) ?_; intro p hp; cases p <;> first | exact rfl | exact absurd (by assumption) hp)
    | (dsimp only)
    | (rename_i he; split at he)
    | (rename_i he; injection he with he; subst he)

theorem raiseFab_same {pts : List Part} {st0 : State} (i : Nat) (s : State) (hs : Agrees pts st0 s) (mfab : Part.fab ∈ pts) : Agrees pts st0 (raiseFab i s) := by
  delta raiseFab
  repeat' first
    | (with_reducible assumption)
    | (with_reducible rfl)
    | (with_reducible refine fun _ => ?_)
    | lift_lets
    | (intro x; refine same_cut (w := pts) (s0 := st0) x ?_ ?_; rotate_left; intro _; clear_value x; rotate_left; unfold x)
    | (intro x; refine same_cut_ss (w := pts) (s0 := st0) x ?_ ?_; rotate_left; intro hfun; clear_value x; rotate_left; unfold x)
    | (intro x; refine same_cut_ass (w := pts) (s0 := st0) x ?_ ?_; rotate_left; intro hfun; clear_value x; rotate_left; unfold x)
    | (intro x; refine same_cut_abss (w := pts) (s0 := st0) x ?_ ?_; rotate_left; intro hfun; clear_value x; rotate_left; unfold x)
    | (intro x; refine same_cut_a (w := pts) (s0 := st0) x ?_ ?_; rotate_left; intro hfun; clear_value x; rotate_left; unfold x)
    | (intro x; refine same_cut_ab (w := pts) (s0 := st0) x ?_ ?_; rotate_left; intro hfun; clear_value x; rotate_left; unfold x)
    | (intro x; refine same_cut_abc (w := pts) (s0 := st0) x ?_ ?_; rotate_left; intro hfun; clear_value x; rotate_left; unfold x)
    | (intro x; refine same_cut_o1 (w := pts) (s0 := st0) x ?_ ?_; rotate_left; intro hopt; clear_value x; rotate_left; unfold x)
    | (intro x; refine same_cut_o (w := pts) (s0 := st0) x ?_ ?_; rotate_left; intro hopt; clear_value x; rotate_left; unfold x)
    | (intro x; refine same_cut_fst (w := pts) (s0 := st0) x ?_ ?_; rotate_left; intro _; clear_value x; rotate_left; unfold x)
    | (intro x; refine same_cut_snd (w := pts) (s0 := st0) x ?_ ?_; rotate_left; intro _; clear_value x; rotate_left; unfold x)
    | (intro x; clear_value x)
    | (with_reducible apply modFab_same)
    | (with_reducible refine hopt _ (by assumption))
    | (with_reducible exact hopt _ rfl)
    | (with_reducible apply hfun)
    | (intro _)
    | split
    | (with_reducible apply AnswerSame.next)
    | (with_reducible apply same_getD)
    | (refine same_mk hs ?_; intro p hp; cases p <;> first | exact rfl | exact absurd (by assumption) hp)
    | (refine same_mk (by assumption) ?_; intro p hp; cases p <;> first | exact rfl | exact absurd (by assumption) hp)
    | (dsimp only)
    | (rename_i he; split at he)
    | (rename_i he; injection he with he; subst he)

theorem raiseRood_same {pts : List Part} {st0 : State} (r i : Nat) (s : State) (hs : Agrees pts st0 s) (mroods : Part.roods ∈ pts) : Agrees pts st0 (raiseRood r i s) := by
  delta raiseRood
  repeat' first
    | (with_reducible assumption)
    | (with_reducible rfl)
    | (with_reducible refine fun _ => ?_)
    | lift_lets
    | (intro x; refine same_cut (w := pts) (s0 := st0) x ?_ ?_; rotate_left; intro _; clear_value x; rotate_left; unfold x)
    | (intro x; refine same_cut_ss (w := pts) (s0 := st0) x ?_ ?_; rotate_left; intro hfun; clear_value x; rotate_left; unfold x)
    | (intro x; refine same_cut_ass (w := pts) (s0 := st0) x ?_ ?_; rotate_left; intro hfun; clear_value x; rotate_left; unfold x)
    | (intro x; refine same_cut_abss (w := pts) (s0 := st0) x ?_ ?_; rotate_left; intro hfun; clear_value x; rotate_left; unfold x)
    | (intro x; refine same_cut_a (w := pts) (s0 := st0) x ?_ ?_; rotate_left; intro hfun; clear_value x; rotate_left; unfold x)
    | (intro x; refine same_cut_ab (w := pts) (s0 := st0) x ?_ ?_; rotate_left; intro hfun; clear_value x; rotate_left; unfold x)
    | (intro x; refine same_cut_abc (w := pts) (s0 := st0) x ?_ ?_; rotate_left; intro hfun; clear_value x; rotate_left; unfold x)
    | (intro x; refine same_cut_o1 (w := pts) (s0 := st0) x ?_ ?_; rotate_left; intro hopt; clear_value x; rotate_left; unfold x)
    | (intro x; refine same_cut_o (w := pts) (s0 := st0) x ?_ ?_; rotate_left; intro hopt; clear_value x; rotate_left; unfold x)
    | (intro x; refine same_cut_fst (w := pts) (s0 := st0) x ?_ ?_; rotate_left; intro _; clear_value x; rotate_left; unfold x)
    | (intro x; refine same_cut_snd (w := pts) (s0 := st0) x ?_ ?_; rotate_left; intro _; clear_value x; rotate_left; unfold x)
    | (intro x; clear_value x)
    | (with_reducible apply modRood_same)
    | (with_reducible refine hopt _ (by assumption))
    | (with_reducible exact hopt _ rfl)
    | (with_reducible apply hfun)
    | (intro _)
    | split
    | (with_reducible apply AnswerSame.next)
    | (with_reducible apply same_getD)
    | (refine same_mk hs ?_; intro p hp; cases p <;> first | exact rfl | exact absurd (by assumption) hp)
    | (refine same_mk (by assumption) ?_; intro p hp; cases p <;> first | exact rfl | exact absurd (by assumption) hp)
    | (dsimp only)
    | (rename_i he; split at he)
    | (rename_i he; injection he with he; subst he)

theorem ctrPut_same {pts : List Part} {st0 : State} (r i : Nat) (v : Counter) (s : State) (hs : Agrees pts st0 s) (mroods : Part.roods ∈ pts) : Agrees pts st0 (ctrPut r i v s) := by
  delta ctrPut
  repeat' first
    | (with_reducible assumption)
    | (with_reducible apply modRood_same)

theorem ctrAdd_same {pts : List Part} {st0 : State} (r i n : Nat) (failed : Bool) (s : State) (hs : Agrees pts st0 s) (mroods : Part.roods ∈ pts) : Agrees pts st0 (ctrAdd r i n failed s) := by
  delta ctrAdd
  repeat' first
    | (with_reducible assumption)
    | (with_reducible rfl)
    | (with_reducible refine fun _ => ?_)
    | lift_lets
    | (intro x; refine same_cut (w := pts) (s0 := st0) x ?_ ?_; rotate_left; intro _; clear_value x; rotate_left; unfold x)
    | (intro x; refine same_cut_ss (w := pts) (s0 := st0) x ?_ ?_; rotate_left; intro hfun; clear_value x; rotate_left; unfold x)
    | (intro x; refine same_cut_ass (w := pts) (s0 := st0) x ?_ ?_; rotate_left; intro hfun; clear_value x; rotate_left; unfold x)
    | (intro x; refine same_cut_abss (w := pts) (s0 := st0) x ?_ ?_; rotate_left; intro hfun; clear_value x; rotate_left; unfold x)
    | (intro x; refine same_cut_a (w := pts) (s0 := st0) x ?_ ?_; rotate_left; intro hfun; clear_value x; rotate_left; unfold x)
    | (intro x; refine same_cut_ab (w := pts) (s0 := st0) x ?_ ?_; rotate_left; intro hfun; clear_value x; rotate_left; unfold x)
    | (intro x; refine same_cut_abc (w := pts) (s0 := st0) x ?_ ?_; rotate_left; intro hfun; clear_value x; rotate_left; unfold x)
    | (intro x; refine same_cut_o1 (w := pts) (s0 := st0) x ?_ ?_; rotate_left; intro hopt; clear_value x; rotate_left; unfold x)
    | (intro x; refine same_cut_o (w := pts) (s0 := st0) x ?_ ?_; rotate_left; intro hopt; clear_value x; rotate_left; unfold x)
    | (intro x; refine same_cut_fst (w := pts) (s0 := st0) x ?_ ?_; rotate_left; intro _; clear_value x; rotate_left; unfold x)
    | (intro x; refine same_cut_snd (w := pts) (s0 := st0) x ?_ ?_; rotate_left; intro _; clear_value x; rotate_left; unfold x)
    | (intro x; clear_value x)
    | (with_reducible apply ctrPut_same)
    | (with_reducible refine hopt _ (by assumption))
    | (with_reducible exact hopt _ rfl)
    | (with_reducible apply hfun)
    | (intro _)
    | split
    | (with_reducible apply AnswerSame.next)
    | (with_reducible apply same_getD)
    | (refine same_mk hs ?_; intro p hp; cases p <;> first | exact rfl | exact absurd (by assumption) hp)
    | (refine same_mk (by assumption) ?_; intro p hp; cases p <;> first | exact rfl | exact absurd (by assumption) hp)
    | (dsimp only)
    | (rename_i he; split at he)
    | (rename_i he; injection he with he; subst he)

theorem wrBytes_same {pts : List Part} {st0 : State} (a : Nat) (bs : List Byte) (s : State) (hs : Agrees pts st0 s) (mmem : Part.mem ∈ pts) : Agrees pts st0 (wrBytes a bs s) := by
  delta wrBytes
  repeat' first
    | (refine same_mk hs ?_; intro p hp; cases p <;> first | exact rfl | exact absurd (by assumption) hp)

theorem wrLe_same {pts : List Part} {st0 : State} (a n v : Nat) (s : State) (hs : Agrees pts st0 s) (mmem : Part.mem ∈ pts) : Agrees pts st0 (wrLe a n v s) := by
  delta wrLe
  repeat' first
    | (with_reducible assumption)
    | (with_reducible apply wrBytes_same)

theorem zeroMem_same {pts : List Part} {st0 : State} (a n : Nat) (s : State) (hs : Agrees pts st0 s) (mmem : Part.mem ∈ pts) : Agrees pts st0 (zeroMem a n s) := by
  delta zeroMem
  repeat' first
    | (refine same_mk hs ?_; intro p hp; cases p <;> first | exact rfl | exact absurd (by assumption) hp)

theorem logUncovered_same {pts : List Part} {st0 : State} (r src : Nat) (rs : List (Nat × Nat)) (s : State) (hs : Agrees pts st0 s) (mglb : Part.glb ∈ pts) (mevents : Part.events ∈ pts) : Agrees pts st0 (logUncovered r src rs s) := by
  delta logUncovered
  repeat' first
    | (with_reducible assumption)
    | (with_reducible rfl)
    | (with_reducible refine fun _ => ?_)
    | lift_lets
    | (intro x; refine same_cut (w := pts) (s0 := st0) x ?_ ?_; rotate_left; intro _; clear_value x; rotate_left; unfold x)
    | (intro x; refine same_cut_ss (w := pts) (s0 := st0) x ?_ ?_; rotate_left; intro hfun; clear_value x; rotate_left; unfold x)
    | (intro x; refine same_cut_ass (w := pts) (s0 := st0) x ?_ ?_; rotate_left; intro hfun; clear_value x; rotate_left; unfold x)
    | (intro x; refine same_cut_abss (w := pts) (s0 := st0) x ?_ ?_; rotate_left; intro hfun; clear_value x; rotate_left; unfold x)
    | (intro x; refine same_cut_a (w := pts) (s0 := st0) x ?_ ?_; rotate_left; intro hfun; clear_value x; rotate_left; unfold x)
    | (intro x; refine same_cut_ab (w := pts) (s0 := st0) x ?_ ?_; rotate_left; intro hfun; clear_value x; rotate_left; unfold x)
    | (intro x; refine same_cut_abc (w := pts) (s0 := st0) x ?_ ?_; rotate_left; intro hfun; clear_value x; rotate_left; unfold x)
    | (intro x; refine same_cut_o1 (w := pts) (s0 := st0) x ?_ ?_; rotate_left; intro hopt; clear_value x; rotate_left; unfold x)
    | (intro x; refine same_cut_o (w := pts) (s0 := st0) x ?_ ?_; rotate_left; intro hopt; clear_value x; rotate_left; unfold x)
    | (intro x; refine same_cut_fst (w := pts) (s0 := st0) x ?_ ?_; rotate_left; intro _; clear_value x; rotate_left; unfold x)
    | (intro x; refine same_cut_snd (w := pts) (s0 := st0) x ?_ ?_; rotate_left; intro _; clear_value x; rotate_left; unfold x)
    | (intro x; clear_value x)
    | (with_reducible apply logUnmapped_same)
    | (with_reducible refine hopt _ (by assumption))
    | (with_reducible exact hopt _ rfl)
    | (with_reducible apply hfun)
    | (intro _)
    | split
    | (with_reducible apply AnswerSame.next)
    | (with_reducible apply same_getD)
    | (refine same_mk hs ?_; intro p hp; cases p <;> first | exact rfl | exact absurd (by assumption) hp)
    | (refine same_mk (by assumption) ?_; intro p hp; cases p <;> first | exact rfl | exact absurd (by assumption) hp)
    | (dsimp only)
    | (rename_i he; split at he)
    | (rename_i he; injection he with he; subst he)

theorem putBushel_same {pts : List Part} {st0 : State} (a : Nat) (m : Meta) (data : List Byte) (s : State) (hs : Agrees pts st0 s) (mmem : Part.mem ∈ pts) (mbushels : Part.bushels ∈ pts) : Agrees pts st0 (putBushel a m data s) := by
  delta putBushel
  repeat' first
    | (with_reducible assumption)
    | lift_lets
    | (intro x; refine same_cut (w := pts) (s0 := st0) x ?_ ?_; rotate_left; intro _; clear_value x; rotate_left; unfold x)
    | (with_reducible apply wrBytes_same)
    | (refine same_mk (by assumption) ?_; intro p hp; cases p <;> first | exact rfl | exact absurd (by assumption) hp)

theorem markRead_same {pts : List Part} {st0 : State} (a n : Nat) (s : State) (hs : Agrees pts st0 s) (mstreams : Part.streams ∈ pts) : Agrees pts st0 (markRead a n s) := by
  delta markRead
  repeat' first
    | (with_reducible assumption)
    | (with_reducible apply modStreams_same)

theorem clearPoison_same {pts : List Part} {st0 : State} (a n : Nat) (s : State) (hs : Agrees pts st0 s) (mstreams : Part.streams ∈ pts) : Agrees pts st0 (clearPoison a n s) := by
  delta clearPoison
  repeat' first
    | (with_reducible assumption)
    | (with_reducible rfl)
    | (with_reducible refine fun _ => ?_)
    | lift_lets
    | (intro x; refine same_cut (w := pts) (s0 := st0) x ?_ ?_; rotate_left; intro _; clear_value x; rotate_left; unfold x)
    | (intro x; refine same_cut_ss (w := pts) (s0 := st0) x ?_ ?_; rotate_left; intro hfun; clear_value x; rotate_left; unfold x)
    | (intro x; refine same_cut_ass (w := pts) (s0 := st0) x ?_ ?_; rotate_left; intro hfun; clear_value x; rotate_left; unfold x)
    | (intro x; refine same_cut_abss (w := pts) (s0 := st0) x ?_ ?_; rotate_left; intro hfun; clear_value x; rotate_left; unfold x)
    | (intro x; refine same_cut_a (w := pts) (s0 := st0) x ?_ ?_; rotate_left; intro hfun; clear_value x; rotate_left; unfold x)
    | (intro x; refine same_cut_ab (w := pts) (s0 := st0) x ?_ ?_; rotate_left; intro hfun; clear_value x; rotate_left; unfold x)
    | (intro x; refine same_cut_abc (w := pts) (s0 := st0) x ?_ ?_; rotate_left; intro hfun; clear_value x; rotate_left; unfold x)
    | (intro x; refine same_cut_o1 (w := pts) (s0 := st0) x ?_ ?_; rotate_left; intro hopt; clear_value x; rotate_left; unfold x)
    | (intro x; refine same_cut_o (w := pts) (s0 := st0) x ?_ ?_; rotate_left; intro hopt; clear_value x; rotate_left; unfold x)
    | (intro x; refine same_cut_fst (w := pts) (s0 := st0) x ?_ ?_; rotate_left; intro _; clear_value x; rotate_left; unfold x)
    | (intro x; refine same_cut_snd (w := pts) (s0 := st0) x ?_ ?_; rotate_left; intro _; clear_value x; rotate_left; unfold x)
    | (intro x; clear_value x)
    | (with_reducible apply modStreams_same)
    | (with_reducible refine hopt _ (by assumption))
    | (with_reducible exact hopt _ rfl)
    | (with_reducible apply hfun)
    | (intro _)
    | split
    | (with_reducible apply AnswerSame.next)
    | (with_reducible apply same_getD)
    | (refine same_mk hs ?_; intro p hp; cases p <;> first | exact rfl | exact absurd (by assumption) hp)
    | (refine same_mk (by assumption) ?_; intro p hp; cases p <;> first | exact rfl | exact absurd (by assumption) hp)
    | (dsimp only)
    | (rename_i he; split at he)
    | (rename_i he; injection he with he; subst he)

theorem scratchWrite_same_eq {pts : List Part} {st0 : State} (a : Nat) (bs : List Byte) (s : State) {tOut : State} (hs : Agrees pts st0 s) (mstreams : Part.streams ∈ pts) (mmem : Part.mem ∈ pts) (e : scratchWrite a bs s = some tOut) : Agrees pts st0 tOut := by
  unfold scratchWrite at e
  try dsimp only at e
  repeat' split at e
  all_goals try cases e
  all_goals repeat' first
    | (with_reducible assumption)
    | lift_lets
    | (with_reducible apply wrBytes_same)
    | (with_reducible apply clearPoison_same)

theorem logRingRefused_same {pts : List Part} {st0 : State} (rood a : Nat) (s : State) (hs : Agrees pts st0 s) (mevents : Part.events ∈ pts) (mstreams : Part.streams ∈ pts) : Agrees pts st0 (logRingRefused rood a s) := by
  delta logRingRefused
  repeat' first
    | (with_reducible assumption)
    | lift_lets
    | (with_reducible apply logGlb_same)
    | (with_reducible apply raiseStr_same)

theorem finish_same {pts : List Part} {st0 : State} (d status detail : Nat) (s : State) (hs : Agrees pts st0 s) (mdescs : Part.descs ∈ pts) : Agrees pts st0 (finish d status detail s) := by
  delta finish
  repeat' first
    | (with_reducible assumption)
    | (with_reducible apply modDesc_same)

end Sys2Proof.Laws
end

