-- ==== Sys2Proof/Laws/TouchWork.lean ====
section
/-! SUPPORT. Which parts of the state every operation of Machine/Work.lean may change (Laws/Touch.lean). -/
namespace Sys2Proof.Laws

set_option linter.unusedVariables false

open Sys2Proof.Machine Sys2Proof.Safety

theorem scrubCluster_same {pts : List Part} {st0 : State} (c : Nat) (s : State) (hs : Agrees pts st0 s) (mclusters : Part.clusters ∈ pts) (mstreams : Part.streams ∈ pts) (mmem : Part.mem ∈ pts) : Agrees pts st0 (scrubCluster c s) := by
  delta scrubCluster
  repeat' first
    | (with_reducible assumption)
    | (with_reducible rfl)
    | (with_reducible refine fun _ => ?_)
    | lift_lets
    | (intro x; refine same_cut (w := pts) (s0 := st0) x ?_ ?_; rotate_left; intro _; clear_value x; rotate_left; unfold x)
    | (intro x; refine same_cut_ss (w := pts) (s0 := st0) x ?_ ?_; rotate_left; intro hfun; clear_value x; rotate_left; unfold x)
    | (intro x; refine same_cut_ass (w := pts) (s0 := st0) x ?_ ?_; rotate_left; intro hfun; clear_value x; rotate_left; unfold x)
    | (intro x; refine same_cut_abss (w := pts) (s0 := st0) x ?_ ?_; rotate_left; intro hfun; clear_value x; rotate_left; unfold x)
    | (intro x; refine same_cut_a (w := pts) (s0 := st0) x ?_ ?_; rotate_left; intro hfun; clear_value x; rotate_left; unfold x)
    | (intro x; refine same_cut_ab (w := pts) (s0 := st0) x ?_ ?_; rotate_left; intro hfun; clear_value x; rotate_left; unfold x)
    | (intro x; refine same_cut_abc (w := pts) (s0 := st0) x ?_ ?_; rotate_left; intro hfun; clear_value x; rotate_left; unfold x)
    | (intro x; refine same_cut_o1 (w := pts) (s0 := st0) x ?_ ?_; rotate_left; intro hopt; clear_value x; rotate_left; unfold x)
    | (intro x; refine same_cut_o (w := pts) (s0 := st0) x ?_ ?_; rotate_left; intro hopt; clear_value x; rotate_left; unfold x)
    | (intro x; refine same_cut_fst (w := pts) (s0 := st0) x ?_ ?_; rotate_left; intro _; clear_value x; rotate_left; unfold x)
    | (intro x; refine same_cut_snd (w := pts) (s0 := st0) x ?_ ?_; rotate_left; intro _; clear_value x; rotate_left; unfold x)
    | (intro x; clear_value x)
    | (with_reducible apply modCluster_same)
    | (with_reducible apply modStreams_same)
    | (with_reducible apply zeroMem_same)
    | (with_reducible refine hopt _ (by assumption))
    | (with_reducible exact hopt _ rfl)
    | (with_reducible apply hfun)
    | (intro _)
    | split
    | (with_reducible apply AnswerSame.next)
    | (with_reducible apply same_getD)
    | (refine same_mk hs ?_; intro p hp; cases p <;> first | exact rfl | exact absurd (by assumption) hp)
    | (refine same_mk (by assumption) ?_; intro p hp; cases p <;> first | exact rfl | exact absurd (by assumption) hp)
    | (dsimp only)
    | (rename_i he; split at he)
    | (rename_i he; injection he with he; subst he)

theorem scrubEngine_same {pts : List Part} {st0 : State} (t e : Nat) (s : State) (hs : Agrees pts st0 s) (mstks : Part.stks ∈ pts) : Agrees pts st0 (scrubEngine t e s) := by
  delta scrubEngine
  repeat' first
    | (with_reducible assumption)
    | (with_reducible rfl)
    | (with_reducible refine fun _ => ?_)
    | lift_lets
    | (intro x; refine same_cut (w := pts) (s0 := st0) x ?_ ?_; rotate_left; intro _; clear_value x; rotate_left; unfold x)
    | (intro x; refine same_cut_ss (w := pts) (s0 := st0) x ?_ ?_; rotate_left; intro hfun; clear_value x; rotate_left; unfold x)
    | (intro x; refine same_cut_ass (w := pts) (s0 := st0) x ?_ ?_; rotate_left; intro hfun; clear_value x; rotate_left; unfold x)
    | (intro x; refine same_cut_abss (w := pts) (s0 := st0) x ?_ ?_; rotate_left; intro hfun; clear_value x; rotate_left; unfold x)
    | (intro x; refine same_cut_a (w := pts) (s0 := st0) x ?_ ?_; rotate_left; intro hfun; clear_value x; rotate_left; unfold x)
    | (intro x; refine same_cut_ab (w := pts) (s0 := st0) x ?_ ?_; rotate_left; intro hfun; clear_value x; rotate_left; unfold x)
    | (intro x; refine same_cut_abc (w := pts) (s0 := st0) x ?_ ?_; rotate_left; intro hfun; clear_value x; rotate_left; unfold x)
    | (intro x; refine same_cut_o1 (w := pts) (s0 := st0) x ?_ ?_; rotate_left; intro hopt; clear_value x; rotate_left; unfold x)
    | (intro x; refine same_cut_o (w := pts) (s0 := st0) x ?_ ?_; rotate_left; intro hopt; clear_value x; rotate_left; unfold x)
    | (intro x; refine same_cut_fst (w := pts) (s0 := st0) x ?_ ?_; rotate_left; intro _; clear_value x; rotate_left; unfold x)
    | (intro x; refine same_cut_snd (w := pts) (s0 := st0) x ?_ ?_; rotate_left; intro _; clear_value x; rotate_left; unfold x)
    | (intro x; clear_value x)
    | (with_reducible apply modEngine_same)
    | (with_reducible refine hopt _ (by assumption))
    | (with_reducible exact hopt _ rfl)
    | (with_reducible apply hfun)
    | (intro _)
    | split
    | (with_reducible apply AnswerSame.next)
    | (with_reducible apply same_getD)
    | (refine same_mk hs ?_; intro p hp; cases p <;> first | exact rfl | exact absurd (by assumption) hp)
    | (refine same_mk (by assumption) ?_; intro p hp; cases p <;> first | exact rfl | exact absurd (by assumption) hp)
    | (dsimp only)
    | (rename_i he; split at he)
    | (rename_i he; injection he with he; subst he)

theorem logOpen_same {pts : List Part} {st0 : State} (block low rood : Nat) (s : State) (hs : Agrees pts st0 s) (mevents : Part.events ∈ pts) (mfreeCtr : Part.freeCtr ∈ pts) : Agrees pts st0 (logOpen block low rood s) := by
  delta logOpen
  repeat' first
    | (with_reducible assumption)
    | lift_lets
    | (with_reducible apply fresh_same)
    | (with_reducible apply logEv_same)

theorem logMalformed_same {pts : List Part} {st0 : State} (kind off rood seq : Nat) (b : Body) (src : DescSource) (own : Option Nat) (wAddr : Nat) (s : State) (hs : Agrees pts st0 s) (mglb : Part.glb ∈ pts) (mevents : Part.events ∈ pts) (mfab : Part.fab ∈ pts) (mclusters : Part.clusters ∈ pts) (mstks : Part.stks ∈ pts) (mstreams : Part.streams ∈ pts) (mfreeCtr : Part.freeCtr ∈ pts) : Agrees pts st0 (logMalformed kind off rood seq b src own wAddr s) := by
  delta logMalformed
  repeat' first
    | (with_reducible assumption)
    | (with_reducible rfl)
    | (with_reducible refine fun _ => ?_)
    | lift_lets
    | (intro x; refine same_cut (w := pts) (s0 := st0) x ?_ ?_; rotate_left; intro _; clear_value x; rotate_left; unfold x)
    | (intro x; refine same_cut_ss (w := pts) (s0 := st0) x ?_ ?_; rotate_left; intro hfun; clear_value x; rotate_left; unfold x)
    | (intro x; refine same_cut_ass (w := pts) (s0 := st0) x ?_ ?_; rotate_left; intro hfun; clear_value x; rotate_left; unfold x)
    | (intro x; refine same_cut_abss (w := pts) (s0 := st0) x ?_ ?_; rotate_left; intro hfun; clear_value x; rotate_left; unfold x)
    | (intro x; refine same_cut_a (w := pts) (s0 := st0) x ?_ ?_; rotate_left; intro hfun; clear_value x; rotate_left; unfold x)
    | (intro x; refine same_cut_ab (w := pts) (s0 := st0) x ?_ ?_; rotate_left; intro hfun; clear_value x; rotate_left; unfold x)
    | (intro x; refine same_cut_abc (w := pts) (s0 := st0) x ?_ ?_; rotate_left; intro hfun; clear_value x; rotate_left; unfold x)
    | (intro x; refine same_cut_o1 (w := pts) (s0 := st0) x ?_ ?_; rotate_left; intro hopt; clear_value x; rotate_left; unfold x)
    | (intro x; refine same_cut_o (w := pts) (s0 := st0) x ?_ ?_; rotate_left; intro hopt; clear_value x; rotate_left; unfold x)
    | (intro x; refine same_cut_fst (w := pts) (s0 := st0) x ?_ ?_; rotate_left; intro _; clear_value x; rotate_left; unfold x)
    | (intro x; refine same_cut_snd (w := pts) (s0 := st0) x ?_ ?_; rotate_left; intro _; clear_value x; rotate_left; unfold x)
    | (intro x; clear_value x)
    | (with_reducible apply fresh_same)
    | (with_reducible refine fresh_same_eq _ _ ?_ ?_ (by assumption))
    | (with_reducible apply logEv_same)
    | (with_reducible apply logGlb_same)
    | (with_reducible apply raiseGlb_same)
    | (with_reducible apply logCluster_same)
    | (with_reducible apply logFirkin_same)
    | (with_reducible apply raiseStr_same)
    | (with_reducible apply raiseFab_same)
    | (with_reducible apply logOpen_same)
    | (with_reducible refine hopt _ (by assumption))
    | (with_reducible exact hopt _ rfl)
    | (with_reducible apply hfun)
    | (intro _)
    | split
    | (with_reducible apply AnswerSame.next)
    | (with_reducible apply same_getD)
    | (refine same_mk hs ?_; intro p hp; cases p <;> first | exact rfl | exact absurd (by assumption) hp)
    | (refine same_mk (by assumption) ?_; intro p hp; cases p <;> first | exact rfl | exact absurd (by assumption) hp)
    | (dsimp only)
    | (rename_i he; split at he)
    | (rename_i he; injection he with he; subst he)

theorem markAdmitted_same {pts : List Part} {st0 : State} (d : Nat) (e : Desc) (s : State) (hs : Agrees pts st0 s) (mdescs : Part.descs ∈ pts) (mclusters : Part.clusters ∈ pts) : Agrees pts st0 (markAdmitted d e s) := by
  delta markAdmitted
  repeat' first
    | (with_reducible assumption)
    | (with_reducible refine fun _ => ?_)
    | lift_lets
    | (intro x; refine same_cut (w := pts) (s0 := st0) x ?_ ?_; rotate_left; intro _; clear_value x; rotate_left; unfold x)
    | (with_reducible apply modCluster_same)
    | (with_reducible apply modDesc_same)
    | (with_reducible apply forAll_same)

theorem countTaken_same {pts : List Part} {st0 : State} (src : DescSource) (s : State) (hs : Agrees pts st0 s) (mqueues : Part.queues ∈ pts) (mclusters : Part.clusters ∈ pts) : Agrees pts st0 (countTaken src s) := by
  delta countTaken
  repeat' first
    | (with_reducible assumption)
    | (with_reducible rfl)
    | (with_reducible refine fun _ => ?_)
    | lift_lets
    | (intro x; refine same_cut (w := pts) (s0 := st0) x ?_ ?_; rotate_left; intro _; clear_value x; rotate_left; unfold x)
    | (intro x; refine same_cut_ss (w := pts) (s0 := st0) x ?_ ?_; rotate_left; intro hfun; clear_value x; rotate_left; unfold x)
    | (intro x; refine same_cut_ass (w := pts) (s0 := st0) x ?_ ?_; rotate_left; intro hfun; clear_value x; rotate_left; unfold x)
    | (intro x; refine same_cut_abss (w := pts) (s0 := st0) x ?_ ?_; rotate_left; intro hfun; clear_value x; rotate_left; unfold x)
    | (intro x; refine same_cut_a (w := pts) (s0 := st0) x ?_ ?_; rotate_left; intro hfun; clear_value x; rotate_left; unfold x)
    | (intro x; refine same_cut_ab (w := pts) (s0 := st0) x ?_ ?_; rotate_left; intro hfun; clear_value x; rotate_left; unfold x)
    | (intro x; refine same_cut_abc (w := pts) (s0 := st0) x ?_ ?_; rotate_left; intro hfun; clear_value x; rotate_left; unfold x)
    | (intro x; refine same_cut_o1 (w := pts) (s0 := st0) x ?_ ?_; rotate_left; intro hopt; clear_value x; rotate_left; unfold x)
    | (intro x; refine same_cut_o (w := pts) (s0 := st0) x ?_ ?_; rotate_left; intro hopt; clear_value x; rotate_left; unfold x)
    | (intro x; refine same_cut_fst (w := pts) (s0 := st0) x ?_ ?_; rotate_left; intro _; clear_value x; rotate_left; unfold x)
    | (intro x; refine same_cut_snd (w := pts) (s0 := st0) x ?_ ?_; rotate_left; intro _; clear_value x; rotate_left; unfold x)
    | (intro x; clear_value x)
    | (with_reducible apply modCore_same)
    | (with_reducible apply modQueue_same)
    | (with_reducible refine hopt _ (by assumption))
    | (with_reducible exact hopt _ rfl)
    | (with_reducible apply hfun)
    | (intro _)
    | split
    | (with_reducible apply AnswerSame.next)
    | (with_reducible apply same_getD)
    | (refine same_mk hs ?_; intro p hp; cases p <;> first | exact rfl | exact absurd (by assumption) hp)
    | (refine same_mk (by assumption) ?_; intro p hp; cases p <;> first | exact rfl | exact absurd (by assumption) hp)
    | (dsimp only)
    | (rename_i he; split at he)
    | (rename_i he; injection he with he; subst he)

theorem admitDesc_same {pts : List Part} {st0 : State} (d : Nat) (e : Desc) (s : State) (hs : Agrees pts st0 s) (mdescs : Part.descs ∈ pts) (mclusters : Part.clusters ∈ pts) : Agrees pts st0 (admitDesc d e s) := by
  delta admitDesc
  repeat' first
    | (with_reducible assumption)
    | (with_reducible rfl)
    | (with_reducible refine fun _ => ?_)
    | lift_lets
    | (intro x; refine same_cut (w := pts) (s0 := st0) x ?_ ?_; rotate_left; intro _; clear_value x; rotate_left; unfold x)
    | (intro x; refine same_cut_ss (w := pts) (s0 := st0) x ?_ ?_; rotate_left; intro hfun; clear_value x; rotate_left; unfold x)
    | (intro x; refine same_cut_ass (w := pts) (s0 := st0) x ?_ ?_; rotate_left; intro hfun; clear_value x; rotate_left; unfold x)
    | (intro x; refine same_cut_abss (w := pts) (s0 := st0) x ?_ ?_; rotate_left; intro hfun; clear_value x; rotate_left; unfold x)
    | (intro x; refine same_cut_a (w := pts) (s0 := st0) x ?_ ?_; rotate_left; intro hfun; clear_value x; rotate_left; unfold x)
    | (intro x; refine same_cut_ab (w := pts) (s0 := st0) x ?_ ?_; rotate_left; intro hfun; clear_value x; rotate_left; unfold x)
    | (intro x; refine same_cut_abc (w := pts) (s0 := st0) x ?_ ?_; rotate_left; intro hfun; clear_value x; rotate_left; unfold x)
    | (intro x; refine same_cut_o1 (w := pts) (s0 := st0) x ?_ ?_; rotate_left; intro hopt; clear_value x; rotate_left; unfold x)
    | (intro x; refine same_cut_o (w := pts) (s0 := st0) x ?_ ?_; rotate_left; intro hopt; clear_value x; rotate_left; unfold x)
    | (intro x; refine same_cut_fst (w := pts) (s0 := st0) x ?_ ?_; rotate_left; intro _; clear_value x; rotate_left; unfold x)
    | (intro x; refine same_cut_snd (w := pts) (s0 := st0) x ?_ ?_; rotate_left; intro _; clear_value x; rotate_left; unfold x)
    | (intro x; clear_value x)
    | (with_reducible apply modDesc_same)
    | (with_reducible apply finish_same)
    | (with_reducible apply markAdmitted_same)
    | (with_reducible refine hopt _ (by assumption))
    | (with_reducible exact hopt _ rfl)
    | (with_reducible apply hfun)
    | (intro _)
    | split
    | (with_reducible apply AnswerSame.next)
    | (with_reducible apply same_getD)
    | (refine same_mk hs ?_; intro p hp; cases p <;> first | exact rfl | exact absurd (by assumption) hp)
    | (refine same_mk (by assumption) ?_; intro p hp; cases p <;> first | exact rfl | exact absurd (by assumption) hp)
    | (dsimp only)
    | (rename_i he; split at he)
    | (rename_i he; injection he with he; subst he)

theorem takeDesc_same {pts : List Part} {st0 : State} (src : DescSource) (seq pid slice rood depth : Nat) (bs : List Byte) (s : State) (hs : Agrees pts st0 s) (mglb : Part.glb ∈ pts) (mevents : Part.events ∈ pts) (mfab : Part.fab ∈ pts) (mqueues : Part.queues ∈ pts) (mdescs : Part.descs ∈ pts) (mnextDesc : Part.nextDesc ∈ pts) (mclusters : Part.clusters ∈ pts) (mstks : Part.stks ∈ pts) (mstreams : Part.streams ∈ pts) (mfreeCtr : Part.freeCtr ∈ pts) : Agrees pts st0 (takeDesc src seq pid slice rood depth bs s) := by
  delta takeDesc
  repeat' first
    | (with_reducible assumption)
    | (with_reducible rfl)
    | (with_reducible refine fun _ => ?_)
    | lift_lets
    | (intro x; refine same_cut (w := pts) (s0 := st0) x ?_ ?_; rotate_left; intro _; clear_value x; rotate_left; unfold x)
    | (intro x; refine same_cut_ss (w := pts) (s0 := st0) x ?_ ?_; rotate_left; intro hfun; clear_value x; rotate_left; unfold x)
    | (intro x; refine same_cut_ass (w := pts) (s0 := st0) x ?_ ?_; rotate_left; intro hfun; clear_value x; rotate_left; unfold x)
    | (intro x; refine same_cut_abss (w := pts) (s0 := st0) x ?_ ?_; rotate_left; intro hfun; clear_value x; rotate_left; unfold x)
    | (intro x; refine same_cut_a (w := pts) (s0 := st0) x ?_ ?_; rotate_left; intro hfun; clear_value x; rotate_left; unfold x)
    | (intro x; refine same_cut_ab (w := pts) (s0 := st0) x ?_ ?_; rotate_left; intro hfun; clear_value x; rotate_left; unfold x)
    | (intro x; refine same_cut_abc (w := pts) (s0 := st0) x ?_ ?_; rotate_left; intro hfun; clear_value x; rotate_left; unfold x)
    | (intro x; refine same_cut_o1 (w := pts) (s0 := st0) x ?_ ?_; rotate_left; intro hopt; clear_value x; rotate_left; unfold x)
    | (intro x; refine same_cut_o (w := pts) (s0 := st0) x ?_ ?_; rotate_left; intro hopt; clear_value x; rotate_left; unfold x)
    | (intro x; refine same_cut_fst (w := pts) (s0 := st0) x ?_ ?_; rotate_left; intro _; clear_value x; rotate_left; unfold x)
    | (intro x; refine same_cut_snd (w := pts) (s0 := st0) x ?_ ?_; rotate_left; intro _; clear_value x; rotate_left; unfold x)
    | (intro x; clear_value x)
    | (with_reducible apply logUnmapped_same)
    | (with_reducible apply finish_same)
    | (with_reducible apply logMalformed_same)
    | (with_reducible apply countTaken_same)
    | (with_reducible apply admitDesc_same)
    | (with_reducible refine hopt _ (by assumption))
    | (with_reducible exact hopt _ rfl)
    | (with_reducible apply hfun)
    | (intro _)
    | split
    | (with_reducible apply AnswerSame.next)
    | (with_reducible apply same_getD)
    | (refine same_mk hs ?_; intro p hp; cases p <;> first | exact rfl | exact absurd (by assumption) hp)
    | (refine same_mk (by assumption) ?_; intro p hp; cases p <;> first | exact rfl | exact absurd (by assumption) hp)
    | (dsimp only)
    | (rename_i he; split at he)
    | (rename_i he; injection he with he; subst he)

theorem enqueue_same {pts : List Part} {st0 : State} (u : UnitId) (d : Nat) (s : State) (hs : Agrees pts st0 s) (mfab : Part.fab ∈ pts) (mclusters : Part.clusters ∈ pts) (mstks : Part.stks ∈ pts) (mstreams : Part.streams ∈ pts) : Agrees pts st0 (enqueue u d s) := by
  delta enqueue
  repeat' first
    | (with_reducible assumption)
    | (with_reducible rfl)
    | (with_reducible refine fun _ => ?_)
    | lift_lets
    | (intro x; refine same_cut (w := pts) (s0 := st0) x ?_ ?_; rotate_left; intro _; clear_value x; rotate_left; unfold x)
    | (intro x; refine same_cut_ss (w := pts) (s0 := st0) x ?_ ?_; rotate_left; intro hfun; clear_value x; rotate_left; unfold x)
    | (intro x; refine same_cut_ass (w := pts) (s0 := st0) x ?_ ?_; rotate_left; intro hfun; clear_value x; rotate_left; unfold x)
    | (intro x; refine same_cut_abss (w := pts) (s0 := st0) x ?_ ?_; rotate_left; intro hfun; clear_value x; rotate_left; unfold x)
    | (intro x; refine same_cut_a (w := pts) (s0 := st0) x ?_ ?_; rotate_left; intro hfun; clear_value x; rotate_left; unfold x)
    | (intro x; refine same_cut_ab (w := pts) (s0 := st0) x ?_ ?_; rotate_left; intro hfun; clear_value x; rotate_left; unfold x)
    | (intro x; refine same_cut_abc (w := pts) (s0 := st0) x ?_ ?_; rotate_left; intro hfun; clear_value x; rotate_left; unfold x)
    | (intro x; refine same_cut_o1 (w := pts) (s0 := st0) x ?_ ?_; rotate_left; intro hopt; clear_value x; rotate_left; unfold x)
    | (intro x; refine same_cut_o (w := pts) (s0 := st0) x ?_ ?_; rotate_left; intro hopt; clear_value x; rotate_left; unfold x)
    | (intro x; refine same_cut_fst (w := pts) (s0 := st0) x ?_ ?_; rotate_left; intro _; clear_value x; rotate_left; unfold x)
    | (intro x; refine same_cut_snd (w := pts) (s0 := st0) x ?_ ?_; rotate_left; intro _; clear_value x; rotate_left; unfold x)
    | (intro x; clear_value x)
    | (with_reducible apply modCluster_same)
    | (with_reducible apply modCore_same)
    | (with_reducible apply modEngine_same)
    | (with_reducible apply modFab_same)
    | (with_reducible apply modStreams_same)
    | (with_reducible refine hopt _ (by assumption))
    | (with_reducible exact hopt _ rfl)
    | (with_reducible apply hfun)
    | (intro _)
    | split
    | (with_reducible apply AnswerSame.next)
    | (with_reducible apply same_getD)
    | (refine same_mk hs ?_; intro p hp; cases p <;> first | exact rfl | exact absurd (by assumption) hp)
    | (refine same_mk (by assumption) ?_; intro p hp; cases p <;> first | exact rfl | exact absurd (by assumption) hp)
    | (dsimp only)
    | (rename_i he; split at he)
    | (rename_i he; injection he with he; subst he)

theorem dequeue_same {pts : List Part} {st0 : State} (u : UnitId) (d : Nat) (s : State) (hs : Agrees pts st0 s) (mfab : Part.fab ∈ pts) (mclusters : Part.clusters ∈ pts) (mstks : Part.stks ∈ pts) (mstreams : Part.streams ∈ pts) : Agrees pts st0 (dequeue u d s) := by
  delta dequeue
  repeat' first
    | (with_reducible assumption)
    | lift_lets
    | (intro x; clear_value x)
    | (with_reducible apply modCluster_same)
    | (with_reducible apply modCore_same)
    | (with_reducible apply modEngine_same)
    | (with_reducible apply modFab_same)
    | (with_reducible apply modStreams_same)
    | split

theorem countPass_same {pts : List Part} {st0 : State} (x : FirkinBody) (s : State) (hs : Agrees pts st0 s) (mstks : Part.stks ∈ pts) : Agrees pts st0 (countPass x s) := by
  delta countPass
  repeat' first
    | (with_reducible assumption)
    | (with_reducible apply modLock_same)
    | split

theorem dispatchDesc_same {pts : List Part} {st0 : State} (d : Nat) (s : State) (hs : Agrees pts st0 s) (mfab : Part.fab ∈ pts) (mdescs : Part.descs ∈ pts) (mclusters : Part.clusters ∈ pts) (mstks : Part.stks ∈ pts) (mstreams : Part.streams ∈ pts) : Agrees pts st0 (dispatchDesc d s) := by
  delta dispatchDesc
  repeat' first
    | (with_reducible assumption)
    | (with_reducible rfl)
    | (with_reducible refine fun _ => ?_)
    | lift_lets
    | (intro x; refine same_cut (w := pts) (s0 := st0) x ?_ ?_; rotate_left; intro _; clear_value x; rotate_left; unfold x)
    | (intro x; refine same_cut_ss (w := pts) (s0 := st0) x ?_ ?_; rotate_left; intro hfun; clear_value x; rotate_left; unfold x)
    | (intro x; refine same_cut_ass (w := pts) (s0 := st0) x ?_ ?_; rotate_left; intro hfun; clear_value x; rotate_left; unfold x)
    | (intro x; refine same_cut_abss (w := pts) (s0 := st0) x ?_ ?_; rotate_left; intro hfun; clear_value x; rotate_left; unfold x)
    | (intro x; refine same_cut_a (w := pts) (s0 := st0) x ?_ ?_; rotate_left; intro hfun; clear_value x; rotate_left; unfold x)
    | (intro x; refine same_cut_ab (w := pts) (s0 := st0) x ?_ ?_; rotate_left; intro hfun; clear_value x; rotate_left; unfold x)
    | (intro x; refine same_cut_abc (w := pts) (s0 := st0) x ?_ ?_; rotate_left; intro hfun; clear_value x; rotate_left; unfold x)
    | (intro x; refine same_cut_o1 (w := pts) (s0 := st0) x ?_ ?_; rotate_left; intro hopt; clear_value x; rotate_left; unfold x)
    | (intro x; refine same_cut_o (w := pts) (s0 := st0) x ?_ ?_; rotate_left; intro hopt; clear_value x; rotate_left; unfold x)
    | (intro x; refine same_cut_fst (w := pts) (s0 := st0) x ?_ ?_; rotate_left; intro _; clear_value x; rotate_left; unfold x)
    | (intro x; refine same_cut_snd (w := pts) (s0 := st0) x ?_ ?_; rotate_left; intro _; clear_value x; rotate_left; unfold x)
    | (intro x; clear_value x)
    | (with_reducible apply modDesc_same)
    | (with_reducible apply finish_same)
    | (with_reducible apply markAdmitted_same)
    | (with_reducible apply enqueue_same)
    | (with_reducible apply countPass_same)
    | (with_reducible refine hopt _ (by assumption))
    | (with_reducible exact hopt _ rfl)
    | (with_reducible apply hfun)
    | (intro _)
    | split
    | (with_reducible apply AnswerSame.next)
    | (with_reducible apply same_getD)
    | (refine same_mk hs ?_; intro p hp; cases p <;> first | exact rfl | exact absurd (by assumption) hp)
    | (refine same_mk (by assumption) ?_; intro p hp; cases p <;> first | exact rfl | exact absurd (by assumption) hp)
    | (dsimp only)
    | (rename_i he; split at he)
    | (rename_i he; injection he with he; subst he)

theorem markStarted_same {pts : List Part} {st0 : State} (d : Nat) (e : Desc) (s : State) (hs : Agrees pts st0 s) (mfab : Part.fab ∈ pts) (mdescs : Part.descs ∈ pts) (mclusters : Part.clusters ∈ pts) (mstks : Part.stks ∈ pts) (mstreams : Part.streams ∈ pts) : Agrees pts st0 (markStarted d e s) := by
  delta markStarted
  repeat' first
    | (with_reducible assumption)
    | lift_lets
    | (with_reducible apply modDesc_same)
    | (with_reducible apply dequeue_same)

theorem squashIfFailed_same {pts : List Part} {st0 : State} (d : Nat) (s : State) (hs : Agrees pts st0 s) (mevents : Part.events ∈ pts) (mdescs : Part.descs ∈ pts) (mclusters : Part.clusters ∈ pts) : Agrees pts st0 (squashIfFailed d s) := by
  delta squashIfFailed
  repeat' first
    | (with_reducible assumption)
    | (with_reducible rfl)
    | (with_reducible refine fun _ => ?_)
    | lift_lets
    | (intro x; refine same_cut (w := pts) (s0 := st0) x ?_ ?_; rotate_left; intro _; clear_value x; rotate_left; unfold x)
    | (intro x; refine same_cut_ss (w := pts) (s0 := st0) x ?_ ?_; rotate_left; intro hfun; clear_value x; rotate_left; unfold x)
    | (intro x; refine same_cut_ass (w := pts) (s0 := st0) x ?_ ?_; rotate_left; intro hfun; clear_value x; rotate_left; unfold x)
    | (intro x; refine same_cut_abss (w := pts) (s0 := st0) x ?_ ?_; rotate_left; intro hfun; clear_value x; rotate_left; unfold x)
    | (intro x; refine same_cut_a (w := pts) (s0 := st0) x ?_ ?_; rotate_left; intro hfun; clear_value x; rotate_left; unfold x)
    | (intro x; refine same_cut_ab (w := pts) (s0 := st0) x ?_ ?_; rotate_left; intro hfun; clear_value x; rotate_left; unfold x)
    | (intro x; refine same_cut_abc (w := pts) (s0 := st0) x ?_ ?_; rotate_left; intro hfun; clear_value x; rotate_left; unfold x)
    | (intro x; refine same_cut_o1 (w := pts) (s0 := st0) x ?_ ?_; rotate_left; intro hopt; clear_value x; rotate_left; unfold x)
    | (intro x; refine same_cut_o (w := pts) (s0 := st0) x ?_ ?_; rotate_left; intro hopt; clear_value x; rotate_left; unfold x)
    | (intro x; refine same_cut_fst (w := pts) (s0 := st0) x ?_ ?_; rotate_left; intro _; clear_value x; rotate_left; unfold x)
    | (intro x; refine same_cut_snd (w := pts) (s0 := st0) x ?_ ?_; rotate_left; intro _; clear_value x; rotate_left; unfold x)
    | (intro x; clear_value x)
    | (with_reducible apply logCluster_same)
    | (with_reducible apply finish_same)
    | (with_reducible refine hopt _ (by assumption))
    | (with_reducible exact hopt _ rfl)
    | (with_reducible apply hfun)
    | (intro _)
    | split
    | (with_reducible apply AnswerSame.next)
    | (with_reducible apply same_getD)
    | (refine same_mk hs ?_; intro p hp; cases p <;> first | exact rfl | exact absurd (by assumption) hp)
    | (refine same_mk (by assumption) ?_; intro p hp; cases p <;> first | exact rfl | exact absurd (by assumption) hp)
    | (dsimp only)
    | (rename_i he; split at he)
    | (rename_i he; injection he with he; subst he)

theorem overrunCheck_same {pts : List Part} {st0 : State} (d stampRod : Nat) (s : State) (hs : Agrees pts st0 s) (mevents : Part.events ∈ pts) (mdescs : Part.descs ∈ pts) (mclusters : Part.clusters ∈ pts) : Agrees pts st0 (overrunCheck d stampRod s) := by
  delta overrunCheck
  repeat' first
    | (with_reducible assumption)
    | (with_reducible rfl)
    | (with_reducible refine fun _ => ?_)
    | lift_lets
    | (intro x; refine same_cut (w := pts) (s0 := st0) x ?_ ?_; rotate_left; intro _; clear_value x; rotate_left; unfold x)
    | (intro x; refine same_cut_ss (w := pts) (s0 := st0) x ?_ ?_; rotate_left; intro hfun; clear_value x; rotate_left; unfold x)
    | (intro x; refine same_cut_ass (w := pts) (s0 := st0) x ?_ ?_; rotate_left; intro hfun; clear_value x; rotate_left; unfold x)
    | (intro x; refine same_cut_abss (w := pts) (s0 := st0) x ?_ ?_; rotate_left; intro hfun; clear_value x; rotate_left; unfold x)
    | (intro x; refine same_cut_a (w := pts) (s0 := st0) x ?_ ?_; rotate_left; intro hfun; clear_value x; rotate_left; unfold x)
    | (intro x; refine same_cut_ab (w := pts) (s0 := st0) x ?_ ?_; rotate_left; intro hfun; clear_value x; rotate_left; unfold x)
    | (intro x; refine same_cut_abc (w := pts) (s0 := st0) x ?_ ?_; rotate_left; intro hfun; clear_value x; rotate_left; unfold x)
    | (intro x; refine same_cut_o1 (w := pts) (s0 := st0) x ?_ ?_; rotate_left; intro hopt; clear_value x; rotate_left; unfold x)
    | (intro x; refine same_cut_o (w := pts) (s0 := st0) x ?_ ?_; rotate_left; intro hopt; clear_value x; rotate_left; unfold x)
    | (intro x; refine same_cut_fst (w := pts) (s0 := st0) x ?_ ?_; rotate_left; intro _; clear_value x; rotate_left; unfold x)
    | (intro x; refine same_cut_snd (w := pts) (s0 := st0) x ?_ ?_; rotate_left; intro _; clear_value x; rotate_left; unfold x)
    | (intro x; clear_value x)
    | (with_reducible apply modDesc_same)
    | (with_reducible apply logCluster_same)
    | (with_reducible refine hopt _ (by assumption))
    | (with_reducible exact hopt _ rfl)
    | (with_reducible apply hfun)
    | (intro _)
    | split
    | (with_reducible apply AnswerSame.next)
    | (with_reducible apply same_getD)
    | (refine same_mk hs ?_; intro p hp; cases p <;> first | exact rfl | exact absurd (by assumption) hp)
    | (refine same_mk (by assumption) ?_; intro p hp; cases p <;> first | exact rfl | exact absurd (by assumption) hp)
    | (dsimp only)
    | (rename_i he; split at he)
    | (rename_i he; injection he with he; subst he)

theorem logRefused_same {pts : List Part} {st0 : State} (c : WriteCheck) (a rood : Nat) (s : State) (hs : Agrees pts st0 s) (mevents : Part.events ∈ pts) (mstks : Part.stks ∈ pts) : Agrees pts st0 (logRefused c a rood s) := by
  delta logRefused
  repeat' first
    | (with_reducible assumption)
    | lift_lets
    | (with_reducible apply modStack_same)
    | (with_reducible apply logStack_same)
    | (with_reducible apply logFirkin_same)
    | split
    | (dsimp only)

theorem trimBoard_same {pts : List Part} {st0 : State} (src : DescSource) (s : State) (hs : Agrees pts st0 s) (mqueues : Part.queues ∈ pts) (mclusters : Part.clusters ∈ pts) : Agrees pts st0 (trimBoard src s) := by
  delta trimBoard
  repeat' first
    | (with_reducible assumption)
    | (with_reducible rfl)
    | (with_reducible refine fun _ => ?_)
    | lift_lets
    | (intro x; refine same_cut (w := pts) (s0 := st0) x ?_ ?_; rotate_left; intro _; clear_value x; rotate_left; unfold x)
    | (intro x; refine same_cut_ss (w := pts) (s0 := st0) x ?_ ?_; rotate_left; intro hfun; clear_value x; rotate_left; unfold x)
    | (intro x; refine same_cut_ass (w := pts) (s0 := st0) x ?_ ?_; rotate_left; intro hfun; clear_value x; rotate_left; unfold x)
    | (intro x; refine same_cut_abss (w := pts) (s0 := st0) x ?_ ?_; rotate_left; intro hfun; clear_value x; rotate_left; unfold x)
    | (intro x; refine same_cut_a (w := pts) (s0 := st0) x ?_ ?_; rotate_left; intro hfun; clear_value x; rotate_left; unfold x)
    | (intro x; refine same_cut_ab (w := pts) (s0 := st0) x ?_ ?_; rotate_left; intro hfun; clear_value x; rotate_left; unfold x)
    | (intro x; refine same_cut_abc (w := pts) (s0 := st0) x ?_ ?_; rotate_left; intro hfun; clear_value x; rotate_left; unfold x)
    | (intro x; refine same_cut_o1 (w := pts) (s0 := st0) x ?_ ?_; rotate_left; intro hopt; clear_value x; rotate_left; unfold x)
    | (intro x; refine same_cut_o (w := pts) (s0 := st0) x ?_ ?_; rotate_left; intro hopt; clear_value x; rotate_left; unfold x)
    | (intro x; refine same_cut_fst (w := pts) (s0 := st0) x ?_ ?_; rotate_left; intro _; clear_value x; rotate_left; unfold x)
    | (intro x; refine same_cut_snd (w := pts) (s0 := st0) x ?_ ?_; rotate_left; intro _; clear_value x; rotate_left; unfold x)
    | (intro x; clear_value x)
    | (with_reducible apply modCore_same)
    | (with_reducible apply modQueue_same)
    | (with_reducible refine hopt _ (by assumption))
    | (with_reducible exact hopt _ rfl)
    | (with_reducible apply hfun)
    | (intro _)
    | split
    | (with_reducible apply AnswerSame.next)
    | (with_reducible apply same_getD)
    | (refine same_mk hs ?_; intro p hp; cases p <;> first | exact rfl | exact absurd (by assumption) hp)
    | (refine same_mk (by assumption) ?_; intro p hp; cases p <;> first | exact rfl | exact absurd (by assumption) hp)
    | (dsimp only)
    | (rename_i he; split at he)
    | (rename_i he; injection he with he; subst he)

theorem squashDependents_same {pts : List Part} {st0 : State} (src : DescSource) (s : State) (hs : Agrees pts st0 s) (mdescs : Part.descs ∈ pts) : Agrees pts st0 (squashDependents src s) := by
  delta squashDependents
  repeat' first
    | (with_reducible assumption)
    | (with_reducible refine fun _ => ?_)
    | (with_reducible apply forAll_same)
    | (with_reducible apply finish_same)
    | split

theorem writeSummary_same {pts : List Part} {st0 : State} (c n slot value st : Nat) (s : State) (hs : Agrees pts st0 s) (mclusters : Part.clusters ∈ pts) : Agrees pts st0 (writeSummary c n slot value st s) := by
  delta writeSummary
  repeat' first
    | (with_reducible assumption)
    | (with_reducible apply modCore_same)

theorem passDone_same {pts : List Part} {st0 : State} (d : Nat) (s : State) (hs : Agrees pts st0 s) (mdescs : Part.descs ∈ pts) (mstks : Part.stks ∈ pts) : Agrees pts st0 (passDone d s) := by
  delta passDone
  repeat' first
    | (with_reducible assumption)
    | lift_lets
    | (intro x; refine same_cut (w := pts) (s0 := st0) x ?_ ?_; rotate_left; intro _; clear_value x; rotate_left; unfold x)
    | (with_reducible apply modLock_same)
    | (with_reducible apply modDesc_same)
    | split

theorem notifyEntries_same {pts : List Part} {st0 : State} (x : FirkinBody) (rood stamp : Nat) (s : State) (hs : Agrees pts st0 s) (mclusters : Part.clusters ∈ pts) : Agrees pts st0 (notifyEntries x rood stamp s) := by
  delta notifyEntries
  repeat' first
    | (with_reducible assumption)
    | (with_reducible rfl)
    | (with_reducible refine fun _ => ?_)
    | lift_lets
    | (intro x; refine same_cut (w := pts) (s0 := st0) x ?_ ?_; rotate_left; intro _; clear_value x; rotate_left; unfold x)
    | (intro x; refine same_cut_ss (w := pts) (s0 := st0) x ?_ ?_; rotate_left; intro hfun; clear_value x; rotate_left; unfold x)
    | (intro x; refine same_cut_ass (w := pts) (s0 := st0) x ?_ ?_; rotate_left; intro hfun; clear_value x; rotate_left; unfold x)
    | (intro x; refine same_cut_abss (w := pts) (s0 := st0) x ?_ ?_; rotate_left; intro hfun; clear_value x; rotate_left; unfold x)
    | (intro x; refine same_cut_a (w := pts) (s0 := st0) x ?_ ?_; rotate_left; intro hfun; clear_value x; rotate_left; unfold x)
    | (intro x; refine same_cut_ab (w := pts) (s0 := st0) x ?_ ?_; rotate_left; intro hfun; clear_value x; rotate_left; unfold x)
    | (intro x; refine same_cut_abc (w := pts) (s0 := st0) x ?_ ?_; rotate_left; intro hfun; clear_value x; rotate_left; unfold x)
    | (intro x; refine same_cut_o1 (w := pts) (s0 := st0) x ?_ ?_; rotate_left; intro hopt; clear_value x; rotate_left; unfold x)
    | (intro x; refine same_cut_o (w := pts) (s0 := st0) x ?_ ?_; rotate_left; intro hopt; clear_value x; rotate_left; unfold x)
    | (intro x; refine same_cut_fst (w := pts) (s0 := st0) x ?_ ?_; rotate_left; intro _; clear_value x; rotate_left; unfold x)
    | (intro x; refine same_cut_snd (w := pts) (s0 := st0) x ?_ ?_; rotate_left; intro _; clear_value x; rotate_left; unfold x)
    | (intro x; clear_value x)
    | (with_reducible apply modCluster_same)
    | (with_reducible refine hopt _ (by assumption))
    | (with_reducible exact hopt _ rfl)
    | (with_reducible apply hfun)
    | (intro _)
    | split
    | (with_reducible apply AnswerSame.next)
    | (with_reducible apply same_getD)
    | (refine same_mk hs ?_; intro p hp; cases p <;> first | exact rfl | exact absurd (by assumption) hp)
    | (refine same_mk (by assumption) ?_; intro p hp; cases p <;> first | exact rfl | exact absurd (by assumption) hp)
    | (dsimp only)
    | (rename_i he; split at he)
    | (rename_i he; injection he with he; subst he)

theorem unitAfter_same {pts : List Part} {st0 : State} (d : Nat) (e : Desc) (r : Result) (st : Nat) (s : State) (hs : Agrees pts st0 s) (mfab : Part.fab ∈ pts) (mdescs : Part.descs ∈ pts) (mclusters : Part.clusters ∈ pts) (mstks : Part.stks ∈ pts) (mstreams : Part.streams ∈ pts) : Agrees pts st0 (unitAfter d e r st s) := by
  delta unitAfter
  repeat' first
    | (with_reducible assumption)
    | (with_reducible rfl)
    | (with_reducible refine fun _ => ?_)
    | lift_lets
    | (intro x; refine same_cut (w := pts) (s0 := st0) x ?_ ?_; rotate_left; intro _; clear_value x; rotate_left; unfold x)
    | (intro x; refine same_cut_ss (w := pts) (s0 := st0) x ?_ ?_; rotate_left; intro hfun; clear_value x; rotate_left; unfold x)
    | (intro x; refine same_cut_ass (w := pts) (s0 := st0) x ?_ ?_; rotate_left; intro hfun; clear_value x; rotate_left; unfold x)
    | (intro x; refine same_cut_abss (w := pts) (s0 := st0) x ?_ ?_; rotate_left; intro hfun; clear_value x; rotate_left; unfold x)
    | (intro x; refine same_cut_a (w := pts) (s0 := st0) x ?_ ?_; rotate_left; intro hfun; clear_value x; rotate_left; unfold x)
    | (intro x; refine same_cut_ab (w := pts) (s0 := st0) x ?_ ?_; rotate_left; intro hfun; clear_value x; rotate_left; unfold x)
    | (intro x; refine same_cut_abc (w := pts) (s0 := st0) x ?_ ?_; rotate_left; intro hfun; clear_value x; rotate_left; unfold x)
    | (intro x; refine same_cut_o1 (w := pts) (s0 := st0) x ?_ ?_; rotate_left; intro hopt; clear_value x; rotate_left; unfold x)
    | (intro x; refine same_cut_o (w := pts) (s0 := st0) x ?_ ?_; rotate_left; intro hopt; clear_value x; rotate_left; unfold x)
    | (intro x; refine same_cut_fst (w := pts) (s0 := st0) x ?_ ?_; rotate_left; intro _; clear_value x; rotate_left; unfold x)
    | (intro x; refine same_cut_snd (w := pts) (s0 := st0) x ?_ ?_; rotate_left; intro _; clear_value x; rotate_left; unfold x)
    | (intro x; clear_value x)
    | (with_reducible apply modCluster_same)
    | (with_reducible apply modEngine_same)
    | (with_reducible apply modFab_same)
    | (with_reducible apply modStreams_same)
    | (with_reducible apply writeSummary_same)
    | (with_reducible apply passDone_same)
    | (with_reducible apply notifyEntries_same)
    | (with_reducible refine hopt _ (by assumption))
    | (with_reducible exact hopt _ rfl)
    | (with_reducible apply hfun)
    | (intro _)
    | split
    | (with_reducible apply AnswerSame.next)
    | (with_reducible apply same_getD)
    | (refine same_mk hs ?_; intro p hp; cases p <;> first | exact rfl | exact absurd (by assumption) hp)
    | (refine same_mk (by assumption) ?_; intro p hp; cases p <;> first | exact rfl | exact absurd (by assumption) hp)
    | (dsimp only)
    | (rename_i he; split at he)
    | (rename_i he; injection he with he; subst he)

theorem writeRecord_same {pts : List Part} {st0 : State} (q : Nat) (e : Desc) (st : Nat) (r : Result) (s : State) (hs : Agrees pts st0 s) (mevents : Part.events ∈ pts) (mstks : Part.stks ∈ pts) (mmem : Part.mem ∈ pts) : Agrees pts st0 (writeRecord q e st r s) := by
  delta writeRecord
  repeat' first
    | (with_reducible assumption)
    | (with_reducible rfl)
    | (with_reducible refine fun _ => ?_)
    | lift_lets
    | (intro x; refine same_cut (w := pts) (s0 := st0) x ?_ ?_; rotate_left; intro _; clear_value x; rotate_left; unfold x)
    | (intro x; refine same_cut_ss (w := pts) (s0 := st0) x ?_ ?_; rotate_left; intro hfun; clear_value x; rotate_left; unfold x)
    | (intro x; refine same_cut_ass (w := pts) (s0 := st0) x ?_ ?_; rotate_left; intro hfun; clear_value x; rotate_left; unfold x)
    | (intro x; refine same_cut_abss (w := pts) (s0 := st0) x ?_ ?_; rotate_left; intro hfun; clear_value x; rotate_left; unfold x)
    | (intro x; refine same_cut_a (w := pts) (s0 := st0) x ?_ ?_; rotate_left; intro hfun; clear_value x; rotate_left; unfold x)
    | (intro x; refine same_cut_ab (w := pts) (s0 := st0) x ?_ ?_; rotate_left; intro hfun; clear_value x; rotate_left; unfold x)
    | (intro x; refine same_cut_abc (w := pts) (s0 := st0) x ?_ ?_; rotate_left; intro hfun; clear_value x; rotate_left; unfold x)
    | (intro x; refine same_cut_o1 (w := pts) (s0 := st0) x ?_ ?_; rotate_left; intro hopt; clear_value x; rotate_left; unfold x)
    | (intro x; refine same_cut_o (w := pts) (s0 := st0) x ?_ ?_; rotate_left; intro hopt; clear_value x; rotate_left; unfold x)
    | (intro x; refine same_cut_fst (w := pts) (s0 := st0) x ?_ ?_; rotate_left; intro _; clear_value x; rotate_left; unfold x)
    | (intro x; refine same_cut_snd (w := pts) (s0 := st0) x ?_ ?_; rotate_left; intro _; clear_value x; rotate_left; unfold x)
    | (intro x; clear_value x)
    | (with_reducible apply wrBytes_same)
    | (with_reducible apply logRefused_same)
    | (with_reducible refine hopt _ (by assumption))
    | (with_reducible exact hopt _ rfl)
    | (with_reducible apply hfun)
    | (intro _)
    | split
    | (with_reducible apply AnswerSame.next)
    | (with_reducible apply same_getD)
    | (refine same_mk hs ?_; intro p hp; cases p <;> first | exact rfl | exact absurd (by assumption) hp)
    | (refine same_mk (by assumption) ?_; intro p hp; cases p <;> first | exact rfl | exact absurd (by assumption) hp)
    | (dsimp only)
    | (rename_i he; split at he)
    | (rename_i he; injection he with he; subst he)

theorem completeDesc_same {pts : List Part} {st0 : State} (d : Nat) (e : Desc) (r : Result) (s : State) (hs : Agrees pts st0 s) (mevents : Part.events ∈ pts) (mfab : Part.fab ∈ pts) (mroods : Part.roods ∈ pts) (mqueues : Part.queues ∈ pts) (mdescs : Part.descs ∈ pts) (mclusters : Part.clusters ∈ pts) (mstks : Part.stks ∈ pts) (mstreams : Part.streams ∈ pts) (mmem : Part.mem ∈ pts) : Agrees pts st0 (completeDesc d e r s) := by
  delta completeDesc
  repeat' first
    | (with_reducible assumption)
    | (with_reducible rfl)
    | (with_reducible refine fun _ => ?_)
    | lift_lets
    | (intro x; refine same_cut (w := pts) (s0 := st0) x ?_ ?_; rotate_left; intro _; clear_value x; rotate_left; unfold x)
    | (intro x; refine same_cut_ss (w := pts) (s0 := st0) x ?_ ?_; rotate_left; intro hfun; clear_value x; rotate_left; unfold x)
    | (intro x; refine same_cut_ass (w := pts) (s0 := st0) x ?_ ?_; rotate_left; intro hfun; clear_value x; rotate_left; unfold x)
    | (intro x; refine same_cut_abss (w := pts) (s0 := st0) x ?_ ?_; rotate_left; intro hfun; clear_value x; rotate_left; unfold x)
    | (intro x; refine same_cut_a (w := pts) (s0 := st0) x ?_ ?_; rotate_left; intro hfun; clear_value x; rotate_left; unfold x)
    | (intro x; refine same_cut_ab (w := pts) (s0 := st0) x ?_ ?_; rotate_left; intro hfun; clear_value x; rotate_left; unfold x)
    | (intro x; refine same_cut_abc (w := pts) (s0 := st0) x ?_ ?_; rotate_left; intro hfun; clear_value x; rotate_left; unfold x)
    | (intro x; refine same_cut_o1 (w := pts) (s0 := st0) x ?_ ?_; rotate_left; intro hopt; clear_value x; rotate_left; unfold x)
    | (intro x; refine same_cut_o (w := pts) (s0 := st0) x ?_ ?_; rotate_left; intro hopt; clear_value x; rotate_left; unfold x)
    | (intro x; refine same_cut_fst (w := pts) (s0 := st0) x ?_ ?_; rotate_left; intro _; clear_value x; rotate_left; unfold x)
    | (intro x; refine same_cut_snd (w := pts) (s0 := st0) x ?_ ?_; rotate_left; intro _; clear_value x; rotate_left; unfold x)
    | (intro x; clear_value x)
    | (with_reducible apply modCore_same)
    | (with_reducible apply modQueue_same)
    | (with_reducible apply ctrAdd_same)
    | (with_reducible apply dequeue_same)
    | (with_reducible apply overrunCheck_same)
    | (with_reducible apply trimBoard_same)
    | (with_reducible apply squashDependents_same)
    | (with_reducible apply unitAfter_same)
    | (with_reducible apply writeRecord_same)
    | (with_reducible refine hopt _ (by assumption))
    | (with_reducible exact hopt _ rfl)
    | (with_reducible apply hfun)
    | (intro _)
    | split
    | (with_reducible apply AnswerSame.next)
    | (with_reducible apply same_getD)
    | (refine same_mk hs ?_; intro p hp; cases p <;> first | exact rfl | exact absurd (by assumption) hp)
    | (refine same_mk (by assumption) ?_; intro p hp; cases p <;> first | exact rfl | exact absurd (by assumption) hp)
    | (dsimp only)
    | (rename_i he; split at he)
    | (rename_i he; injection he with he; subst he)

theorem tryComplete_same {pts : List Part} {st0 : State} (d : Nat) (s : State) (hs : Agrees pts st0 s) (mevents : Part.events ∈ pts) (mfab : Part.fab ∈ pts) (mroods : Part.roods ∈ pts) (mqueues : Part.queues ∈ pts) (mdescs : Part.descs ∈ pts) (mclusters : Part.clusters ∈ pts) (mstks : Part.stks ∈ pts) (mstreams : Part.streams ∈ pts) (mmem : Part.mem ∈ pts) : Agrees pts st0 (tryComplete d s) := by
  delta tryComplete
  repeat' first
    | (with_reducible assumption)
    | (with_reducible rfl)
    | (with_reducible refine fun _ => ?_)
    | lift_lets
    | (intro x; refine same_cut (w := pts) (s0 := st0) x ?_ ?_; rotate_left; intro _; clear_value x; rotate_left; unfold x)
    | (intro x; refine same_cut_ss (w := pts) (s0 := st0) x ?_ ?_; rotate_left; intro hfun; clear_value x; rotate_left; unfold x)
    | (intro x; refine same_cut_ass (w := pts) (s0 := st0) x ?_ ?_; rotate_left; intro hfun; clear_value x; rotate_left; unfold x)
    | (intro x; refine same_cut_abss (w := pts) (s0 := st0) x ?_ ?_; rotate_left; intro hfun; clear_value x; rotate_left; unfold x)
    | (intro x; refine same_cut_a (w := pts) (s0 := st0) x ?_ ?_; rotate_left; intro hfun; clear_value x; rotate_left; unfold x)
    | (intro x; refine same_cut_ab (w := pts) (s0 := st0) x ?_ ?_; rotate_left; intro hfun; clear_value x; rotate_left; unfold x)
    | (intro x; refine same_cut_abc (w := pts) (s0 := st0) x ?_ ?_; rotate_left; intro hfun; clear_value x; rotate_left; unfold x)
    | (intro x; refine same_cut_o1 (w := pts) (s0 := st0) x ?_ ?_; rotate_left; intro hopt; clear_value x; rotate_left; unfold x)
    | (intro x; refine same_cut_o (w := pts) (s0 := st0) x ?_ ?_; rotate_left; intro hopt; clear_value x; rotate_left; unfold x)
    | (intro x; refine same_cut_fst (w := pts) (s0 := st0) x ?_ ?_; rotate_left; intro _; clear_value x; rotate_left; unfold x)
    | (intro x; refine same_cut_snd (w := pts) (s0 := st0) x ?_ ?_; rotate_left; intro _; clear_value x; rotate_left; unfold x)
    | (intro x; clear_value x)
    | (with_reducible apply completeDesc_same)
    | (with_reducible refine hopt _ (by assumption))
    | (with_reducible exact hopt _ rfl)
    | (with_reducible apply hfun)
    | (intro _)
    | split
    | (with_reducible apply AnswerSame.next)
    | (with_reducible apply same_getD)
    | (refine same_mk hs ?_; intro p hp; cases p <;> first | exact rfl | exact absurd (by assumption) hp)
    | (refine same_mk (by assumption) ?_; intro p hp; cases p <;> first | exact rfl | exact absurd (by assumption) hp)
    | (dsimp only)
    | (rename_i he; split at he)
    | (rename_i he; injection he with he; subst he)

theorem endDesc_same {pts : List Part} {st0 : State} (d status detail : Nat) (s : State) (hs : Agrees pts st0 s) (mdescs : Part.descs ∈ pts) : Agrees pts st0 (endDesc d status detail s) := by
  delta endDesc
  repeat' first
    | (with_reducible assumption)
    | (with_reducible apply finish_same)

end Sys2Proof.Laws
end

