-- ==== Sys2Proof/Laws/TouchFlags.lean ====
section
/-! SUPPORT. Which parts of the state every operation of Machine/Flags.lean may change (Laws/Touch.lean). -/
namespace Sys2Proof.Laws

set_option linter.unusedVariables false

open Sys2Proof.Machine Sys2Proof.Safety

theorem countTally_same {pts : List Part} {st0 : State} (c : Nat) (t : Tally) (s : State) (hs : Agrees pts st0 s) (mclusters : Part.clusters ∈ pts) : Agrees pts st0 (countTally c t s) := by
  delta countTally
  repeat' first
    | (with_reducible assumption)
    | (with_reducible apply modCluster_same)

end Sys2Proof.Laws
end

