-- ==== Sys2Proof/Laws/TouchOperands.lean ====
section
/-! SUPPORT. Which parts of the state every operation of Machine/Operands.lean may change (Laws/Touch.lean). -/
namespace Sys2Proof.Laws

set_option linter.unusedVariables false

open Sys2Proof.Machine Sys2Proof.Safety

theorem doWrites_same_eq {pts : List Part} {st0 : State} (ws : Writes) (s : State) {tOut : State} (hs : Agrees pts st0 s) (mstreams : Part.streams ∈ pts) (mmem : Part.mem ∈ pts) (e : doWrites ws s = some tOut) : Agrees pts st0 tOut := by
  unfold doWrites at e
  try dsimp only at e
  repeat' split at e
  all_goals try cases e
  all_goals repeat' first
    | (with_reducible assumption)
    | (with_reducible refine fun _ => ?_)
    | lift_lets
    | (with_reducible apply forAll_same)
    | (with_reducible apply wrBytes_same)
    | (with_reducible apply clearPoison_same)

theorem logPoison_same {pts : List Part} {st0 : State} (r : Nat) (rs : List (Nat × Nat)) (s : State) (hs : Agrees pts st0 s) (mevents : Part.events ∈ pts) (mstreams : Part.streams ∈ pts) : Agrees pts st0 (logPoison r rs s) := by
  delta logPoison
  repeat' first
    | (with_reducible assumption)
    | (with_reducible rfl)
    | (with_reducible refine fun _ => ?_)
    | lift_lets
    | (intro x; refine same_cut (w := pts) (s0 := st0) x ?_ ?_; rotate_left; intro _; clear_value x; rotate_left; unfold x)
    | (intro x; refine same_cut_ss (w := pts) (s0 := st0) x ?_ ?_; rotate_left; intro hfun; clear_value x; rotate_left; unfold x)
    | (intro x; refine same_cut_ass (w := pts) (s0 := st0) x ?_ ?_; rotate_left; intro hfun; clear_value x; rotate_left; unfold x)
    | (intro x; refine same_cut_abss (w := pts) (s0 := st0) x ?_ ?_; rotate_left; intro hfun; clear_value x; rotate_left; unfold x)
    | (intro x; refine same_cut_a (w := pts) (s0 := st0) x ?_ ?_; rotate_left; intro hfun; clear_value x; rotate_left; unfold x)
    | (intro x; refine same_cut_ab (w := pts) (s0 := st0) x ?_ ?_; rotate_left; intro hfun; clear_value x; rotate_left; unfold x)
    | (intro x; refine same_cut_abc (w := pts) (s0 := st0) x ?_ ?_; rotate_left; intro hfun; clear_value x; rotate_left; unfold x)
    | (intro x; refine same_cut_o1 (w := pts) (s0 := st0) x ?_ ?_; rotate_left; intro hopt; clear_value x; rotate_left; unfold x)
    | (intro x; refine same_cut_o (w := pts) (s0 := st0) x ?_ ?_; rotate_left; intro hopt; clear_value x; rotate_left; unfold x)
    | (intro x; refine same_cut_fst (w := pts) (s0 := st0) x ?_ ?_; rotate_left; intro _; clear_value x; rotate_left; unfold x)
    | (intro x; refine same_cut_snd (w := pts) (s0 := st0) x ?_ ?_; rotate_left; intro _; clear_value x; rotate_left; unfold x)
    | (intro x; clear_value x)
    | (with_reducible apply logGlb_same)
    | (with_reducible apply raiseStr_same)
    | (with_reducible refine hopt _ (by assumption))
    | (with_reducible exact hopt _ rfl)
    | (with_reducible apply hfun)
    | (intro _)
    | split
    | (with_reducible apply AnswerSame.next)
    | (with_reducible apply same_getD)
    | (refine same_mk hs ?_; intro p hp; cases p <;> first | exact rfl | exact absurd (by assumption) hp)
    | (refine same_mk (by assumption) ?_; intro p hp; cases p <;> first | exact rfl | exact absurd (by assumption) hp)
    | (dsimp only)
    | (rename_i he; split at he)
    | (rename_i he; injection he with he; subst he)

theorem markReads_same {pts : List Part} {st0 : State} (rs : List (Nat × Nat)) (s : State) (hs : Agrees pts st0 s) (mstreams : Part.streams ∈ pts) : Agrees pts st0 (markReads rs s) := by
  delta markReads
  repeat' first
    | (with_reducible assumption)
    | (with_reducible refine fun _ => ?_)
    | (with_reducible apply forAll_same)
    | (with_reducible apply markRead_same)

end Sys2Proof.Laws
end

