-- ==== Sys2Proof/Laws/TouchTun.lean ====
section
/-! SUPPORT. Which parts of the state every operation of Machine/Tun.lean may change (Laws/Touch.lean). -/
namespace Sys2Proof.Laws

set_option linter.unusedVariables false

open Sys2Proof.Machine Sys2Proof.Safety

theorem startPass_same {pts : List Part} {st0 : State} (c d : Nat) (e : Desc) (b : TunBody) (s : State) (hs : Agrees pts st0 s) (mevents : Part.events ∈ pts) (mfab : Part.fab ∈ pts) (mdescs : Part.descs ∈ pts) (mclusters : Part.clusters ∈ pts) (mstks : Part.stks ∈ pts) (mstreams : Part.streams ∈ pts) : Agrees pts st0 (startPass c d e b s) := by
  delta startPass
  repeat' first
    | (with_reducible assumption)
    | (with_reducible rfl)
    | (with_reducible refine fun _ => ?_)
    | lift_lets
    | (intro x; refine same_cut (w := pts) (s0 := st0) x ?_ ?_; rotate_left; intro _; clear_value x; rotate_left; unfold x)
    | (intro x; refine same_cut_ss (w := pts) (s0 := st0) x ?_ ?_; rotate_left; intro hfun; clear_value x; rotate_left; unfold x)
    | (intro x; refine same_cut_ass (w := pts) (s0 := st0) x ?_ ?_; rotate_left; intro hfun; clear_value x; rotate_left; unfold x)
    | (intro x; refine same_cut_abss (w := pts) (s0 := st0) x ?_ ?_; rotate_left; intro hfun; clear_value x; rotate_left; unfold x)
    | (intro x; refine same_cut_a (w := pts) (s0 := st0) x ?_ ?_; rotate_left; intro hfun; clear_value x; rotate_left; unfold x)
    | (intro x; refine same_cut_ab (w := pts) (s0 := st0) x ?_ ?_; rotate_left; intro hfun; clear_value x; rotate_left; unfold x)
    | (intro x; refine same_cut_abc (w := pts) (s0 := st0) x ?_ ?_; rotate_left; intro hfun; clear_value x; rotate_left; unfold x)
    | (intro x; refine same_cut_o1 (w := pts) (s0 := st0) x ?_ ?_; rotate_left; intro hopt; clear_value x; rotate_left; unfold x)
    | (intro x; refine same_cut_o (w := pts) (s0 := st0) x ?_ ?_; rotate_left; intro hopt; clear_value x; rotate_left; unfold x)
    | (intro x; refine same_cut_fst (w := pts) (s0 := st0) x ?_ ?_; rotate_left; intro _; clear_value x; rotate_left; unfold x)
    | (intro x; refine same_cut_snd (w := pts) (s0 := st0) x ?_ ?_; rotate_left; intro _; clear_value x; rotate_left; unfold x)
    | (intro x; clear_value x)
    | (with_reducible apply modBank_same)
    | (with_reducible apply logCluster_same)
    | (with_reducible apply markRead_same)
    | (with_reducible apply finish_same)
    | (with_reducible apply dequeue_same)
    | (with_reducible apply markStarted_same)
    | (with_reducible apply logPoison_same)
    | (with_reducible refine hopt _ (by assumption))
    | (with_reducible exact hopt _ rfl)
    | (with_reducible apply hfun)
    | (intro _)
    | split
    | (with_reducible apply AnswerSame.next)
    | (with_reducible apply same_getD)
    | (refine same_mk hs ?_; intro p hp; cases p <;> first | exact rfl | exact absurd (by assumption) hp)
    | (refine same_mk (by assumption) ?_; intro p hp; cases p <;> first | exact rfl | exact absurd (by assumption) hp)
    | (dsimp only)
    | (rename_i he; split at he)
    | (rename_i he; injection he with he; subst he)

theorem dropPass_same {pts : List Part} {st0 : State} (c b d st : Nat) (s : State) (hs : Agrees pts st0 s) (mdescs : Part.descs ∈ pts) (mclusters : Part.clusters ∈ pts) : Agrees pts st0 (dropPass c b d st s) := by
  delta dropPass
  repeat' first
    | (with_reducible assumption)
    | lift_lets
    | (intro x; refine same_cut (w := pts) (s0 := st0) x ?_ ?_; rotate_left; intro _; clear_value x; rotate_left; unfold x)
    | (with_reducible apply modBank_same)
    | (with_reducible apply finish_same)

theorem initLoad_same {pts : List Part} {st0 : State} (c b : Nat) (s : State) (hs : Agrees pts st0 s) (mevents : Part.events ∈ pts) (mdescs : Part.descs ∈ pts) (mclusters : Part.clusters ∈ pts) (mstreams : Part.streams ∈ pts) (mmem : Part.mem ∈ pts) : Agrees pts st0 (initLoad c b s) := by
  delta initLoad
  repeat' first
    | (with_reducible assumption)
    | (with_reducible rfl)
    | (with_reducible refine fun _ => ?_)
    | lift_lets
    | (intro x; refine same_cut (w := pts) (s0 := st0) x ?_ ?_; rotate_left; intro _; clear_value x; rotate_left; unfold x)
    | (intro x; refine same_cut_ss (w := pts) (s0 := st0) x ?_ ?_; rotate_left; intro hfun; clear_value x; rotate_left; unfold x)
    | (intro x; refine same_cut_ass (w := pts) (s0 := st0) x ?_ ?_; rotate_left; intro hfun; clear_value x; rotate_left; unfold x)
    | (intro x; refine same_cut_abss (w := pts) (s0 := st0) x ?_ ?_; rotate_left; intro hfun; clear_value x; rotate_left; unfold x)
    | (intro x; refine same_cut_a (w := pts) (s0 := st0) x ?_ ?_; rotate_left; intro hfun; clear_value x; rotate_left; unfold x)
    | (intro x; refine same_cut_ab (w := pts) (s0 := st0) x ?_ ?_; rotate_left; intro hfun; clear_value x; rotate_left; unfold x)
    | (intro x; refine same_cut_abc (w := pts) (s0 := st0) x ?_ ?_; rotate_left; intro hfun; clear_value x; rotate_left; unfold x)
    | (intro x; refine same_cut_o1 (w := pts) (s0 := st0) x ?_ ?_; rotate_left; intro hopt; clear_value x; rotate_left; unfold x)
    | (intro x; refine same_cut_o (w := pts) (s0 := st0) x ?_ ?_; rotate_left; intro hopt; clear_value x; rotate_left; unfold x)
    | (intro x; refine same_cut_fst (w := pts) (s0 := st0) x ?_ ?_; rotate_left; intro _; clear_value x; rotate_left; unfold x)
    | (intro x; refine same_cut_snd (w := pts) (s0 := st0) x ?_ ?_; rotate_left; intro _; clear_value x; rotate_left; unfold x)
    | (intro x; clear_value x)
    | (with_reducible apply modBank_same)
    | (with_reducible apply forAll_same)
    | (with_reducible apply wrBytes_same)
    | (with_reducible apply logPoison_same)
    | (with_reducible apply markReads_same)
    | (with_reducible apply dropPass_same)
    | (with_reducible refine hopt _ (by assumption))
    | (with_reducible exact hopt _ rfl)
    | (with_reducible apply hfun)
    | (intro _)
    | split
    | (with_reducible apply AnswerSame.next)
    | (with_reducible apply same_getD)
    | (refine same_mk hs ?_; intro p hp; cases p <;> first | exact rfl | exact absurd (by assumption) hp)
    | (refine same_mk (by assumption) ?_; intro p hp; cases p <;> first | exact rfl | exact absurd (by assumption) hp)
    | (dsimp only)
    | (rename_i he; split at he)
    | (rename_i he; injection he with he; subst he)

theorem lastProduct_same {pts : List Part} {st0 : State} (c b : Nat) (s : State) (hs : Agrees pts st0 s) (mevents : Part.events ∈ pts) (mdescs : Part.descs ∈ pts) (mclusters : Part.clusters ∈ pts) (mstreams : Part.streams ∈ pts) (mmem : Part.mem ∈ pts) : Agrees pts st0 (lastProduct c b s) := by
  delta lastProduct
  repeat' first
    | (with_reducible assumption)
    | (with_reducible rfl)
    | (with_reducible refine fun _ => ?_)
    | lift_lets
    | (intro x; refine same_cut (w := pts) (s0 := st0) x ?_ ?_; rotate_left; intro _; clear_value x; rotate_left; unfold x)
    | (intro x; refine same_cut_ss (w := pts) (s0 := st0) x ?_ ?_; rotate_left; intro hfun; clear_value x; rotate_left; unfold x)
    | (intro x; refine same_cut_ass (w := pts) (s0 := st0) x ?_ ?_; rotate_left; intro hfun; clear_value x; rotate_left; unfold x)
    | (intro x; refine same_cut_abss (w := pts) (s0 := st0) x ?_ ?_; rotate_left; intro hfun; clear_value x; rotate_left; unfold x)
    | (intro x; refine same_cut_a (w := pts) (s0 := st0) x ?_ ?_; rotate_left; intro hfun; clear_value x; rotate_left; unfold x)
    | (intro x; refine same_cut_ab (w := pts) (s0 := st0) x ?_ ?_; rotate_left; intro hfun; clear_value x; rotate_left; unfold x)
    | (intro x; refine same_cut_abc (w := pts) (s0 := st0) x ?_ ?_; rotate_left; intro hfun; clear_value x; rotate_left; unfold x)
    | (intro x; refine same_cut_o1 (w := pts) (s0 := st0) x ?_ ?_; rotate_left; intro hopt; clear_value x; rotate_left; unfold x)
    | (intro x; refine same_cut_o (w := pts) (s0 := st0) x ?_ ?_; rotate_left; intro hopt; clear_value x; rotate_left; unfold x)
    | (intro x; refine same_cut_fst (w := pts) (s0 := st0) x ?_ ?_; rotate_left; intro _; clear_value x; rotate_left; unfold x)
    | (intro x; refine same_cut_snd (w := pts) (s0 := st0) x ?_ ?_; rotate_left; intro _; clear_value x; rotate_left; unfold x)
    | (intro x; clear_value x)
    | (with_reducible apply modBank_same)
    | (with_reducible apply forAll_same)
    | (with_reducible apply wrBytes_same)
    | (with_reducible apply finish_same)
    | (with_reducible apply countTally_same)
    | (with_reducible apply logPoison_same)
    | (with_reducible apply markReads_same)
    | (with_reducible apply dropPass_same)
    | (with_reducible apply foldl_same)
    | (with_reducible apply foldl_snd_same)
    | (with_reducible apply foldl_fst_same)
    | (with_reducible refine hopt _ (by assumption))
    | (with_reducible exact hopt _ rfl)
    | (with_reducible apply hfun)
    | (intro _)
    | split
    | (with_reducible apply AnswerSame.next)
    | (with_reducible apply same_getD)
    | (refine same_mk hs ?_; intro p hp; cases p <;> first | exact rfl | exact absurd (by assumption) hp)
    | (refine same_mk (by assumption) ?_; intro p hp; cases p <;> first | exact rfl | exact absurd (by assumption) hp)
    | (dsimp only)
    | (rename_i he; split at he)
    | (rename_i he; injection he with he; subst he)

theorem spillDone_same {pts : List Part} {st0 : State} (c b : Nat) (s : State) (hs : Agrees pts st0 s) (mevents : Part.events ∈ pts) (mdescs : Part.descs ∈ pts) (mclusters : Part.clusters ∈ pts) (mstreams : Part.streams ∈ pts) (mmem : Part.mem ∈ pts) : Agrees pts st0 (spillDone c b s) := by
  delta spillDone
  repeat' first
    | (with_reducible assumption)
    | (with_reducible rfl)
    | (with_reducible refine fun _ => ?_)
    | lift_lets
    | (intro x; refine same_cut (w := pts) (s0 := st0) x ?_ ?_; rotate_left; intro _; clear_value x; rotate_left; unfold x)
    | (intro x; refine same_cut_ss (w := pts) (s0 := st0) x ?_ ?_; rotate_left; intro hfun; clear_value x; rotate_left; unfold x)
    | (intro x; refine same_cut_ass (w := pts) (s0 := st0) x ?_ ?_; rotate_left; intro hfun; clear_value x; rotate_left; unfold x)
    | (intro x; refine same_cut_abss (w := pts) (s0 := st0) x ?_ ?_; rotate_left; intro hfun; clear_value x; rotate_left; unfold x)
    | (intro x; refine same_cut_a (w := pts) (s0 := st0) x ?_ ?_; rotate_left; intro hfun; clear_value x; rotate_left; unfold x)
    | (intro x; refine same_cut_ab (w := pts) (s0 := st0) x ?_ ?_; rotate_left; intro hfun; clear_value x; rotate_left; unfold x)
    | (intro x; refine same_cut_abc (w := pts) (s0 := st0) x ?_ ?_; rotate_left; intro hfun; clear_value x; rotate_left; unfold x)
    | (intro x; refine same_cut_o1 (w := pts) (s0 := st0) x ?_ ?_; rotate_left; intro hopt; clear_value x; rotate_left; unfold x)
    | (intro x; refine same_cut_o (w := pts) (s0 := st0) x ?_ ?_; rotate_left; intro hopt; clear_value x; rotate_left; unfold x)
    | (intro x; refine same_cut_fst (w := pts) (s0 := st0) x ?_ ?_; rotate_left; intro _; clear_value x; rotate_left; unfold x)
    | (intro x; refine same_cut_snd (w := pts) (s0 := st0) x ?_ ?_; rotate_left; intro _; clear_value x; rotate_left; unfold x)
    | (intro x; clear_value x)
    | (with_reducible apply modBank_same)
    | (with_reducible apply logRingRefused_same)
    | (with_reducible apply finish_same)
    | (with_reducible apply countTally_same)
    | (with_reducible refine doWrites_same_eq _ _ ?_ ?_ ?_ (by assumption))
    | (with_reducible apply dropPass_same)
    | (with_reducible refine hopt _ (by assumption))
    | (with_reducible exact hopt _ rfl)
    | (with_reducible apply hfun)
    | (intro _)
    | split
    | (with_reducible apply AnswerSame.next)
    | (with_reducible apply same_getD)
    | (refine same_mk hs ?_; intro p hp; cases p <;> first | exact rfl | exact absurd (by assumption) hp)
    | (refine same_mk (by assumption) ?_; intro p hp; cases p <;> first | exact rfl | exact absurd (by assumption) hp)
    | (dsimp only)
    | (rename_i he; split at he)
    | (rename_i he; injection he with he; subst he)

theorem execTunPassStart_same {pts : List Part} {st0 : State} (c : Nat) (s : State) (hs : Agrees pts st0 s) (mevents : Part.events ∈ pts) (mfab : Part.fab ∈ pts) (mdescs : Part.descs ∈ pts) (mclusters : Part.clusters ∈ pts) (mstks : Part.stks ∈ pts) (mstreams : Part.streams ∈ pts) : AnswerSame pts st0 (execTunPassStart c s) := by
  delta execTunPassStart
  repeat' first
    | (with_reducible assumption)
    | lift_lets
    | (with_reducible apply startPass_same)
    | split
    | (with_reducible apply AnswerSame.next)

theorem execInitLoadDone_same {pts : List Part} {st0 : State} (c b : Nat) (s : State) (hs : Agrees pts st0 s) (mevents : Part.events ∈ pts) (mdescs : Part.descs ∈ pts) (mclusters : Part.clusters ∈ pts) (mstreams : Part.streams ∈ pts) (mmem : Part.mem ∈ pts) : AnswerSame pts st0 (execInitLoadDone c b s) := by
  delta execInitLoadDone
  repeat' first
    | (with_reducible assumption)
    | lift_lets
    | (with_reducible apply initLoad_same)
    | (with_reducible apply AnswerSame.next)

theorem execTunLastProduct_same {pts : List Part} {st0 : State} (c b : Nat) (s : State) (hs : Agrees pts st0 s) (mevents : Part.events ∈ pts) (mdescs : Part.descs ∈ pts) (mclusters : Part.clusters ∈ pts) (mstreams : Part.streams ∈ pts) (mmem : Part.mem ∈ pts) : AnswerSame pts st0 (execTunLastProduct c b s) := by
  delta execTunLastProduct
  repeat' first
    | (with_reducible assumption)
    | lift_lets
    | (with_reducible apply lastProduct_same)
    | (with_reducible apply AnswerSame.next)

theorem execTunSpillDone_same {pts : List Part} {st0 : State} (c b : Nat) (s : State) (hs : Agrees pts st0 s) (mevents : Part.events ∈ pts) (mdescs : Part.descs ∈ pts) (mclusters : Part.clusters ∈ pts) (mstreams : Part.streams ∈ pts) (mmem : Part.mem ∈ pts) : AnswerSame pts st0 (execTunSpillDone c b s) := by
  delta execTunSpillDone
  repeat' first
    | (with_reducible assumption)
    | lift_lets
    | (with_reducible apply spillDone_same)
    | (with_reducible apply AnswerSame.next)

end Sys2Proof.Laws
end

