-- ==== Sys2Proof/Laws/TouchGill.lean ====
section
/-! SUPPORT. Which parts of the state every operation of Machine/Gill.lean may change (Laws/Touch.lean). -/
namespace Sys2Proof.Laws

set_option linter.unusedVariables false

open Sys2Proof.Machine Sys2Proof.Safety

theorem startGill_same {pts : List Part} {st0 : State} (c n d : Nat) (e : Desc) (s : State) (hs : Agrees pts st0 s) (mfab : Part.fab ∈ pts) (mdescs : Part.descs ∈ pts) (mclusters : Part.clusters ∈ pts) (mstks : Part.stks ∈ pts) (mstreams : Part.streams ∈ pts) : Agrees pts st0 (startGill c n d e s) := by
  delta startGill
  repeat' first
    | (with_reducible assumption)
    | lift_lets
    | (with_reducible apply modCluster_same)
    | (with_reducible apply markStarted_same)

theorem reduceAll_same {pts : List Part} {st0 : State} (op : Nat) (gs : List (List F32)) (s : State) (hs : Agrees pts st0 s) (mfreeCtr : Part.freeCtr ∈ pts) : Agrees pts st0 (reduceAll op gs s).2 := by
  delta reduceAll
  repeat' first
    | (with_reducible assumption)
    | (with_reducible refine fun _ => ?_)
    | (with_reducible apply fresh_same)
    | (with_reducible apply foldl_snd_same)
    | split

theorem reduceAll_same_eq {pts : List Part} {st0 : State} (op : Nat) (gs : List (List F32)) (s : State) {tOut : State} {outv : _} (hs : Agrees pts st0 s) (mfreeCtr : Part.freeCtr ∈ pts) (e : reduceAll op gs s = (outv, tOut)) : Agrees pts st0 tOut := by
  have := reduceAll_same (pts := pts) (st0 := st0) op gs s hs mfreeCtr
  rw [e] at this; exact this

theorem gillPut_same {pts : List Part} {st0 : State} (c n : Nat) (b : GillBody) (l : Nat × Nat × Nat) (rs : List F32) (s : State)
    (hs : Agrees pts st0 s) (mclusters : Part.clusters ∈ pts) (mstreams : Part.streams ∈ pts) (mmem : Part.mem ∈ pts) : ∀ t, (gillPut c n b l rs s).1 = some t → Agrees pts st0 t := by
  intro t e
  unfold gillPut at e
  split at e
  · cases e
    exact modCore_same _ _ _ _ hs (by assumption)
  · exact doWrites_same_eq _ _ hs (by assumption) (by assumption) e

theorem gillEnd_same {pts : List Part} {st0 : State} (c n d : Nat) (e : Desc) (b : GillBody) (st value : Nat) (s : State) (hs : Agrees pts st0 s) (mdescs : Part.descs ∈ pts) (mclusters : Part.clusters ∈ pts) : Agrees pts st0 (gillEnd c n d e b st value s) := by
  delta gillEnd
  repeat' first
    | (with_reducible assumption)
    | lift_lets
    | (intro x; refine same_cut (w := pts) (s0 := st0) x ?_ ?_; rotate_left; intro _; clear_value x; rotate_left; unfold x)
    | (with_reducible apply modCluster_same)
    | (with_reducible apply modDesc_same)
    | (with_reducible apply finish_same)
    | (with_reducible apply writeSummary_same)
    | split

theorem gillRelease_same {pts : List Part} {st0 : State} (c n d : Nat) (e : Desc) (b : GillBody) (s : State) (hs : Agrees pts st0 s) (mevents : Part.events ∈ pts) (mdescs : Part.descs ∈ pts) (mclusters : Part.clusters ∈ pts) : Agrees pts st0 (gillRelease c n d e b s) := by
  delta gillRelease
  repeat' first
    | (with_reducible assumption)
    | lift_lets
    | (intro x; refine same_cut (w := pts) (s0 := st0) x ?_ ?_; rotate_left; intro _; clear_value x; rotate_left; unfold x)
    | (intro x; clear_value x)
    | (with_reducible apply modBank_same)
    | (with_reducible apply logCluster_same)
    | (with_reducible apply gillEnd_same)
    | split

theorem spillWrite_same {pts : List Part} {st0 : State} (c n d : Nat) (e : Desc) (b : GillBody) (k : Nat) (s : State) (hs : Agrees pts st0 s) (mevents : Part.events ∈ pts) (mdescs : Part.descs ∈ pts) (mclusters : Part.clusters ∈ pts) (mstreams : Part.streams ∈ pts) (mmem : Part.mem ∈ pts) : Agrees pts st0 (spillWrite c n d e b k s) := by
  delta spillWrite
  repeat' first
    | (with_reducible assumption)
    | (with_reducible rfl)
    | (with_reducible refine fun _ => ?_)
    | lift_lets
    | (intro x; refine same_cut (w := pts) (s0 := st0) x ?_ ?_; rotate_left; intro _; clear_value x; rotate_left; unfold x)
    | (intro x; refine same_cut_ss (w := pts) (s0 := st0) x ?_ ?_; rotate_left; intro hfun; clear_value x; rotate_left; unfold x)
    | (intro x; refine same_cut_ass (w := pts) (s0 := st0) x ?_ ?_; rotate_left; intro hfun; clear_value x; rotate_left; unfold x)
    | (intro x; refine same_cut_abss (w := pts) (s0 := st0) x ?_ ?_; rotate_left; intro hfun; clear_value x; rotate_left; unfold x)
    | (intro x; refine same_cut_a (w := pts) (s0 := st0) x ?_ ?_; rotate_left; intro hfun; clear_value x; rotate_left; unfold x)
    | (intro x; refine same_cut_ab (w := pts) (s0 := st0) x ?_ ?_; rotate_left; intro hfun; clear_value x; rotate_left; unfold x)
    | (intro x; refine same_cut_abc (w := pts) (s0 := st0) x ?_ ?_; rotate_left; intro hfun; clear_value x; rotate_left; unfold x)
    | (intro x; refine same_cut_o1 (w := pts) (s0 := st0) x ?_ ?_; rotate_left; intro hopt; clear_value x; rotate_left; unfold x)
    | (intro x; refine same_cut_o (w := pts) (s0 := st0) x ?_ ?_; rotate_left; intro hopt; clear_value x; rotate_left; unfold x)
    | (intro x; refine same_cut_fst (w := pts) (s0 := st0) x ?_ ?_; rotate_left; intro _; clear_value x; rotate_left; unfold x)
    | (intro x; refine same_cut_snd (w := pts) (s0 := st0) x ?_ ?_; rotate_left; intro _; clear_value x; rotate_left; unfold x)
    | (intro x; clear_value x)
    | (with_reducible apply modBank_same)
    | (with_reducible apply logRingRefused_same)
    | (with_reducible apply countTally_same)
    | (with_reducible refine doWrites_same_eq _ _ ?_ ?_ ?_ (by assumption))
    | (with_reducible apply gillEnd_same)
    | (with_reducible refine hopt _ (by assumption))
    | (with_reducible exact hopt _ rfl)
    | (with_reducible apply hfun)
    | (intro _)
    | split
    | (with_reducible apply AnswerSame.next)
    | (with_reducible apply same_getD)
    | (refine same_mk hs ?_; intro p hp; cases p <;> first | exact rfl | exact absurd (by assumption) hp)
    | (refine same_mk (by assumption) ?_; intro p hp; cases p <;> first | exact rfl | exact absurd (by assumption) hp)
    | (dsimp only)
    | (rename_i he; split at he)
    | (rename_i he; injection he with he; subst he)

theorem gillSpill_same {pts : List Part} {st0 : State} (c n d : Nat) (e : Desc) (b : GillBody) (s : State) (hs : Agrees pts st0 s) (mevents : Part.events ∈ pts) (mdescs : Part.descs ∈ pts) (mclusters : Part.clusters ∈ pts) (mstreams : Part.streams ∈ pts) (mmem : Part.mem ∈ pts) : Agrees pts st0 (gillSpill c n d e b s) := by
  delta gillSpill
  repeat' first
    | (with_reducible assumption)
    | (with_reducible rfl)
    | (with_reducible refine fun _ => ?_)
    | lift_lets
    | (intro x; refine same_cut (w := pts) (s0 := st0) x ?_ ?_; rotate_left; intro _; clear_value x; rotate_left; unfold x)
    | (intro x; refine same_cut_ss (w := pts) (s0 := st0) x ?_ ?_; rotate_left; intro hfun; clear_value x; rotate_left; unfold x)
    | (intro x; refine same_cut_ass (w := pts) (s0 := st0) x ?_ ?_; rotate_left; intro hfun; clear_value x; rotate_left; unfold x)
    | (intro x; refine same_cut_abss (w := pts) (s0 := st0) x ?_ ?_; rotate_left; intro hfun; clear_value x; rotate_left; unfold x)
    | (intro x; refine same_cut_a (w := pts) (s0 := st0) x ?_ ?_; rotate_left; intro hfun; clear_value x; rotate_left; unfold x)
    | (intro x; refine same_cut_ab (w := pts) (s0 := st0) x ?_ ?_; rotate_left; intro hfun; clear_value x; rotate_left; unfold x)
    | (intro x; refine same_cut_abc (w := pts) (s0 := st0) x ?_ ?_; rotate_left; intro hfun; clear_value x; rotate_left; unfold x)
    | (intro x; refine same_cut_o1 (w := pts) (s0 := st0) x ?_ ?_; rotate_left; intro hopt; clear_value x; rotate_left; unfold x)
    | (intro x; refine same_cut_o (w := pts) (s0 := st0) x ?_ ?_; rotate_left; intro hopt; clear_value x; rotate_left; unfold x)
    | (intro x; refine same_cut_fst (w := pts) (s0 := st0) x ?_ ?_; rotate_left; intro _; clear_value x; rotate_left; unfold x)
    | (intro x; refine same_cut_snd (w := pts) (s0 := st0) x ?_ ?_; rotate_left; intro _; clear_value x; rotate_left; unfold x)
    | (intro x; clear_value x)
    | (with_reducible apply modBank_same)
    | (with_reducible apply logCluster_same)
    | (with_reducible apply gillEnd_same)
    | (with_reducible apply spillWrite_same)
    | (with_reducible refine hopt _ (by assumption))
    | (with_reducible exact hopt _ rfl)
    | (with_reducible apply hfun)
    | (intro _)
    | split
    | (with_reducible apply AnswerSame.next)
    | (with_reducible apply same_getD)
    | (refine same_mk hs ?_; intro p hp; cases p <;> first | exact rfl | exact absurd (by assumption) hp)
    | (refine same_mk (by assumption) ?_; intro p hp; cases p <;> first | exact rfl | exact absurd (by assumption) hp)
    | (dsimp only)
    | (rename_i he; split at he)
    | (rename_i he; injection he with he; subst he)

theorem gillElementwise_same {pts : List Part} {st0 : State} (c n d : Nat) (e : Desc) (b : GillBody) (s : State) (hs : Agrees pts st0 s) (mevents : Part.events ∈ pts) (mdescs : Part.descs ∈ pts) (mclusters : Part.clusters ∈ pts) (mstreams : Part.streams ∈ pts) (mmem : Part.mem ∈ pts) : Agrees pts st0 (gillElementwise c n d e b s) := by
  delta gillElementwise
  repeat' first
    | (with_reducible assumption)
    | (with_reducible rfl)
    | (with_reducible refine fun t e => gillPut_same _ _ _ _ _ _ ?_ ?_ ?_ ?_ t e)
    | (with_reducible refine fun _ => ?_)
    | lift_lets
    | (intro x; refine same_cut (w := pts) (s0 := st0) x ?_ ?_; rotate_left; intro _; clear_value x; rotate_left; unfold x)
    | (intro x; refine same_cut_ss (w := pts) (s0 := st0) x ?_ ?_; rotate_left; intro hfun; clear_value x; rotate_left; unfold x)
    | (intro x; refine same_cut_ass (w := pts) (s0 := st0) x ?_ ?_; rotate_left; intro hfun; clear_value x; rotate_left; unfold x)
    | (intro x; refine same_cut_abss (w := pts) (s0 := st0) x ?_ ?_; rotate_left; intro hfun; clear_value x; rotate_left; unfold x)
    | (intro x; refine same_cut_a (w := pts) (s0 := st0) x ?_ ?_; rotate_left; intro hfun; clear_value x; rotate_left; unfold x)
    | (intro x; refine same_cut_ab (w := pts) (s0 := st0) x ?_ ?_; rotate_left; intro hfun; clear_value x; rotate_left; unfold x)
    | (intro x; refine same_cut_abc (w := pts) (s0 := st0) x ?_ ?_; rotate_left; intro hfun; clear_value x; rotate_left; unfold x)
    | (intro x; refine same_cut_o1 (w := pts) (s0 := st0) x ?_ ?_; rotate_left; intro hopt; clear_value x; rotate_left; unfold x)
    | (intro x; refine same_cut_o (w := pts) (s0 := st0) x ?_ ?_; rotate_left; intro hopt; clear_value x; rotate_left; unfold x)
    | (intro x; refine same_cut_fst (w := pts) (s0 := st0) x ?_ ?_; rotate_left; intro _; clear_value x; rotate_left; unfold x)
    | (intro x; refine same_cut_snd (w := pts) (s0 := st0) x ?_ ?_; rotate_left; intro _; clear_value x; rotate_left; unfold x)
    | (intro x; clear_value x)
    | (with_reducible apply logRingRefused_same)
    | (with_reducible apply countTally_same)
    | (with_reducible apply markReads_same)
    | (with_reducible apply gillEnd_same)
    | (with_reducible apply foldl_same)
    | (with_reducible apply foldl_snd_same)
    | (with_reducible apply foldl_fst_same)
    | (with_reducible refine hopt _ (by assumption))
    | (with_reducible exact hopt _ rfl)
    | (with_reducible apply hfun)
    | (intro _)
    | split
    | (with_reducible apply AnswerSame.next)
    | (with_reducible apply same_getD)
    | (refine same_mk hs ?_; intro p hp; cases p <;> first | exact rfl | exact absurd (by assumption) hp)
    | (refine same_mk (by assumption) ?_; intro p hp; cases p <;> first | exact rfl | exact absurd (by assumption) hp)
    | (dsimp only)
    | (rename_i he; split at he)
    | (rename_i he; injection he with he; subst he)

theorem gillReduction_same {pts : List Part} {st0 : State} (c n d : Nat) (e : Desc) (b : GillBody) (s : State) (hs : Agrees pts st0 s) (mevents : Part.events ∈ pts) (mdescs : Part.descs ∈ pts) (mclusters : Part.clusters ∈ pts) (mstreams : Part.streams ∈ pts) (mmem : Part.mem ∈ pts) (mfreeCtr : Part.freeCtr ∈ pts) : Agrees pts st0 (gillReduction c n d e b s) := by
  delta gillReduction
  repeat' first
    | (with_reducible assumption)
    | (with_reducible rfl)
    | (with_reducible refine fun t e => gillPut_same _ _ _ _ _ _ ?_ ?_ ?_ ?_ t e)
    | (with_reducible refine fun _ => ?_)
    | lift_lets
    | (intro x; refine same_cut (w := pts) (s0 := st0) x ?_ ?_; rotate_left; intro _; clear_value x; rotate_left; unfold x)
    | (intro x; refine same_cut_ss (w := pts) (s0 := st0) x ?_ ?_; rotate_left; intro hfun; clear_value x; rotate_left; unfold x)
    | (intro x; refine same_cut_ass (w := pts) (s0 := st0) x ?_ ?_; rotate_left; intro hfun; clear_value x; rotate_left; unfold x)
    | (intro x; refine same_cut_abss (w := pts) (s0 := st0) x ?_ ?_; rotate_left; intro hfun; clear_value x; rotate_left; unfold x)
    | (intro x; refine same_cut_a (w := pts) (s0 := st0) x ?_ ?_; rotate_left; intro hfun; clear_value x; rotate_left; unfold x)
    | (intro x; refine same_cut_ab (w := pts) (s0 := st0) x ?_ ?_; rotate_left; intro hfun; clear_value x; rotate_left; unfold x)
    | (intro x; refine same_cut_abc (w := pts) (s0 := st0) x ?_ ?_; rotate_left; intro hfun; clear_value x; rotate_left; unfold x)
    | (intro x; refine same_cut_o1 (w := pts) (s0 := st0) x ?_ ?_; rotate_left; intro hopt; clear_value x; rotate_left; unfold x)
    | (intro x; refine same_cut_o (w := pts) (s0 := st0) x ?_ ?_; rotate_left; intro hopt; clear_value x; rotate_left; unfold x)
    | (intro x; refine same_cut_fst (w := pts) (s0 := st0) x ?_ ?_; rotate_left; intro _; clear_value x; rotate_left; unfold x)
    | (intro x; refine same_cut_snd (w := pts) (s0 := st0) x ?_ ?_; rotate_left; intro _; clear_value x; rotate_left; unfold x)
    | (intro x; clear_value x)
    | (with_reducible apply fresh_same)
    | (with_reducible refine fresh_same_eq _ _ ?_ ?_ (by assumption))
    | (with_reducible apply logRingRefused_same)
    | (with_reducible apply countTally_same)
    | (with_reducible apply markReads_same)
    | (with_reducible apply reduceAll_same)
    | (with_reducible refine reduceAll_same_eq _ _ _ ?_ ?_ (by assumption))
    | (with_reducible apply gillEnd_same)
    | (with_reducible apply foldl_same)
    | (with_reducible apply foldl_snd_same)
    | (with_reducible apply foldl_fst_same)
    | (with_reducible refine hopt _ (by assumption))
    | (with_reducible exact hopt _ rfl)
    | (with_reducible apply hfun)
    | (intro _)
    | split
    | (with_reducible apply AnswerSame.next)
    | (with_reducible apply same_getD)
    | (refine same_mk hs ?_; intro p hp; cases p <;> first | exact rfl | exact absurd (by assumption) hp)
    | (refine same_mk (by assumption) ?_; intro p hp; cases p <;> first | exact rfl | exact absurd (by assumption) hp)
    | (dsimp only)
    | (rename_i he; split at he)
    | (rename_i he; injection he with he; subst he)

theorem gillRunOp_same {pts : List Part} {st0 : State} (c n d : Nat) (e : Desc) (b : GillBody) (s : State) (hs : Agrees pts st0 s) (mevents : Part.events ∈ pts) (mdescs : Part.descs ∈ pts) (mclusters : Part.clusters ∈ pts) (mstreams : Part.streams ∈ pts) (mmem : Part.mem ∈ pts) (mfreeCtr : Part.freeCtr ∈ pts) : Agrees pts st0 (gillRunOp c n d e b s) := by
  delta gillRunOp
  repeat' first
    | (with_reducible assumption)
    | (with_reducible rfl)
    | (with_reducible refine fun _ => ?_)
    | lift_lets
    | (intro x; refine same_cut (w := pts) (s0 := st0) x ?_ ?_; rotate_left; intro _; clear_value x; rotate_left; unfold x)
    | (intro x; refine same_cut_ss (w := pts) (s0 := st0) x ?_ ?_; rotate_left; intro hfun; clear_value x; rotate_left; unfold x)
    | (intro x; refine same_cut_ass (w := pts) (s0 := st0) x ?_ ?_; rotate_left; intro hfun; clear_value x; rotate_left; unfold x)
    | (intro x; refine same_cut_abss (w := pts) (s0 := st0) x ?_ ?_; rotate_left; intro hfun; clear_value x; rotate_left; unfold x)
    | (intro x; refine same_cut_a (w := pts) (s0 := st0) x ?_ ?_; rotate_left; intro hfun; clear_value x; rotate_left; unfold x)
    | (intro x; refine same_cut_ab (w := pts) (s0 := st0) x ?_ ?_; rotate_left; intro hfun; clear_value x; rotate_left; unfold x)
    | (intro x; refine same_cut_abc (w := pts) (s0 := st0) x ?_ ?_; rotate_left; intro hfun; clear_value x; rotate_left; unfold x)
    | (intro x; refine same_cut_o1 (w := pts) (s0 := st0) x ?_ ?_; rotate_left; intro hopt; clear_value x; rotate_left; unfold x)
    | (intro x; refine same_cut_o (w := pts) (s0 := st0) x ?_ ?_; rotate_left; intro hopt; clear_value x; rotate_left; unfold x)
    | (intro x; refine same_cut_fst (w := pts) (s0 := st0) x ?_ ?_; rotate_left; intro _; clear_value x; rotate_left; unfold x)
    | (intro x; refine same_cut_snd (w := pts) (s0 := st0) x ?_ ?_; rotate_left; intro _; clear_value x; rotate_left; unfold x)
    | (intro x; clear_value x)
    | (with_reducible apply logPoison_same)
    | (with_reducible apply gillEnd_same)
    | (with_reducible apply gillRelease_same)
    | (with_reducible apply gillSpill_same)
    | (with_reducible apply gillElementwise_same)
    | (with_reducible apply gillReduction_same)
    | (with_reducible refine hopt _ (by assumption))
    | (with_reducible exact hopt _ rfl)
    | (with_reducible apply hfun)
    | (intro _)
    | split
    | (with_reducible apply AnswerSame.next)
    | (with_reducible apply same_getD)
    | (refine same_mk hs ?_; intro p hp; cases p <;> first | exact rfl | exact absurd (by assumption) hp)
    | (refine same_mk (by assumption) ?_; intro p hp; cases p <;> first | exact rfl | exact absurd (by assumption) hp)
    | (dsimp only)
    | (rename_i he; split at he)
    | (rename_i he; injection he with he; subst he)

theorem gillDo_same {pts : List Part} {st0 : State} (c op : Nat) (s : State) (hs : Agrees pts st0 s) (mevents : Part.events ∈ pts) (mfab : Part.fab ∈ pts) (mdescs : Part.descs ∈ pts) (mclusters : Part.clusters ∈ pts) (mstks : Part.stks ∈ pts) (mstreams : Part.streams ∈ pts) (mmem : Part.mem ∈ pts) (mfreeCtr : Part.freeCtr ∈ pts) : Agrees pts st0 (gillDo c op s) := by
  delta gillDo
  repeat' first
    | (with_reducible assumption)
    | (with_reducible refine fun _ => ?_)
    | lift_lets
    | (intro x; refine same_cut_abss (w := pts) (s0 := st0) x ?_ ?_; rotate_left; intro hfun; clear_value x; rotate_left; unfold x)
    | (with_reducible apply startGill_same)
    | (with_reducible apply gillRunOp_same)
    | (with_reducible apply hfun)
    | split

theorem execLoad_same {pts : List Part} {st0 : State} (c : Nat) (s : State) (hs : Agrees pts st0 s) (mevents : Part.events ∈ pts) (mfab : Part.fab ∈ pts) (mdescs : Part.descs ∈ pts) (mclusters : Part.clusters ∈ pts) (mstks : Part.stks ∈ pts) (mstreams : Part.streams ∈ pts) (mmem : Part.mem ∈ pts) (mfreeCtr : Part.freeCtr ∈ pts) : AnswerSame pts st0 (execLoad c s) := by
  delta execLoad
  repeat' first
    | (with_reducible assumption)
    | lift_lets
    | (with_reducible apply gillDo_same)
    | (with_reducible apply AnswerSame.next)

theorem execStore_same {pts : List Part} {st0 : State} (c : Nat) (s : State) (hs : Agrees pts st0 s) (mevents : Part.events ∈ pts) (mfab : Part.fab ∈ pts) (mdescs : Part.descs ∈ pts) (mclusters : Part.clusters ∈ pts) (mstks : Part.stks ∈ pts) (mstreams : Part.streams ∈ pts) (mmem : Part.mem ∈ pts) (mfreeCtr : Part.freeCtr ∈ pts) : AnswerSame pts st0 (execStore c s) := by
  delta execStore
  repeat' first
    | (with_reducible assumption)
    | lift_lets
    | (with_reducible apply gillDo_same)
    | (with_reducible apply AnswerSame.next)

theorem execCopy_same {pts : List Part} {st0 : State} (c : Nat) (s : State) (hs : Agrees pts st0 s) (mevents : Part.events ∈ pts) (mfab : Part.fab ∈ pts) (mdescs : Part.descs ∈ pts) (mclusters : Part.clusters ∈ pts) (mstks : Part.stks ∈ pts) (mstreams : Part.streams ∈ pts) (mmem : Part.mem ∈ pts) (mfreeCtr : Part.freeCtr ∈ pts) : AnswerSame pts st0 (execCopy c s) := by
  delta execCopy
  repeat' first
    | (with_reducible assumption)
    | lift_lets
    | (with_reducible apply gillDo_same)
    | (with_reducible apply AnswerSame.next)

theorem execAdd_same {pts : List Part} {st0 : State} (c : Nat) (s : State) (hs : Agrees pts st0 s) (mevents : Part.events ∈ pts) (mfab : Part.fab ∈ pts) (mdescs : Part.descs ∈ pts) (mclusters : Part.clusters ∈ pts) (mstks : Part.stks ∈ pts) (mstreams : Part.streams ∈ pts) (mmem : Part.mem ∈ pts) (mfreeCtr : Part.freeCtr ∈ pts) : AnswerSame pts st0 (execAdd c s) := by
  delta execAdd
  repeat' first
    | (with_reducible assumption)
    | lift_lets
    | (with_reducible apply gillDo_same)
    | (with_reducible apply AnswerSame.next)

theorem execSub_same {pts : List Part} {st0 : State} (c : Nat) (s : State) (hs : Agrees pts st0 s) (mevents : Part.events ∈ pts) (mfab : Part.fab ∈ pts) (mdescs : Part.descs ∈ pts) (mclusters : Part.clusters ∈ pts) (mstks : Part.stks ∈ pts) (mstreams : Part.streams ∈ pts) (mmem : Part.mem ∈ pts) (mfreeCtr : Part.freeCtr ∈ pts) : AnswerSame pts st0 (execSub c s) := by
  delta execSub
  repeat' first
    | (with_reducible assumption)
    | lift_lets
    | (with_reducible apply gillDo_same)
    | (with_reducible apply AnswerSame.next)

theorem execMul_same {pts : List Part} {st0 : State} (c : Nat) (s : State) (hs : Agrees pts st0 s) (mevents : Part.events ∈ pts) (mfab : Part.fab ∈ pts) (mdescs : Part.descs ∈ pts) (mclusters : Part.clusters ∈ pts) (mstks : Part.stks ∈ pts) (mstreams : Part.streams ∈ pts) (mmem : Part.mem ∈ pts) (mfreeCtr : Part.freeCtr ∈ pts) : AnswerSame pts st0 (execMul c s) := by
  delta execMul
  repeat' first
    | (with_reducible assumption)
    | lift_lets
    | (with_reducible apply gillDo_same)
    | (with_reducible apply AnswerSame.next)

theorem execFma_same {pts : List Part} {st0 : State} (c : Nat) (s : State) (hs : Agrees pts st0 s) (mevents : Part.events ∈ pts) (mfab : Part.fab ∈ pts) (mdescs : Part.descs ∈ pts) (mclusters : Part.clusters ∈ pts) (mstks : Part.stks ∈ pts) (mstreams : Part.streams ∈ pts) (mmem : Part.mem ∈ pts) (mfreeCtr : Part.freeCtr ∈ pts) : AnswerSame pts st0 (execFma c s) := by
  delta execFma
  repeat' first
    | (with_reducible assumption)
    | lift_lets
    | (with_reducible apply gillDo_same)
    | (with_reducible apply AnswerSame.next)

theorem execAbs_same {pts : List Part} {st0 : State} (c : Nat) (s : State) (hs : Agrees pts st0 s) (mevents : Part.events ∈ pts) (mfab : Part.fab ∈ pts) (mdescs : Part.descs ∈ pts) (mclusters : Part.clusters ∈ pts) (mstks : Part.stks ∈ pts) (mstreams : Part.streams ∈ pts) (mmem : Part.mem ∈ pts) (mfreeCtr : Part.freeCtr ∈ pts) : AnswerSame pts st0 (execAbs c s) := by
  delta execAbs
  repeat' first
    | (with_reducible assumption)
    | lift_lets
    | (with_reducible apply gillDo_same)
    | (with_reducible apply AnswerSame.next)

theorem execNeg_same {pts : List Part} {st0 : State} (c : Nat) (s : State) (hs : Agrees pts st0 s) (mevents : Part.events ∈ pts) (mfab : Part.fab ∈ pts) (mdescs : Part.descs ∈ pts) (mclusters : Part.clusters ∈ pts) (mstks : Part.stks ∈ pts) (mstreams : Part.streams ∈ pts) (mmem : Part.mem ∈ pts) (mfreeCtr : Part.freeCtr ∈ pts) : AnswerSame pts st0 (execNeg c s) := by
  delta execNeg
  repeat' first
    | (with_reducible assumption)
    | lift_lets
    | (with_reducible apply gillDo_same)
    | (with_reducible apply AnswerSame.next)

theorem execMin_same {pts : List Part} {st0 : State} (c : Nat) (s : State) (hs : Agrees pts st0 s) (mevents : Part.events ∈ pts) (mfab : Part.fab ∈ pts) (mdescs : Part.descs ∈ pts) (mclusters : Part.clusters ∈ pts) (mstks : Part.stks ∈ pts) (mstreams : Part.streams ∈ pts) (mmem : Part.mem ∈ pts) (mfreeCtr : Part.freeCtr ∈ pts) : AnswerSame pts st0 (execMin c s) := by
  delta execMin
  repeat' first
    | (with_reducible assumption)
    | lift_lets
    | (with_reducible apply gillDo_same)
    | (with_reducible apply AnswerSame.next)

theorem execMax_same {pts : List Part} {st0 : State} (c : Nat) (s : State) (hs : Agrees pts st0 s) (mevents : Part.events ∈ pts) (mfab : Part.fab ∈ pts) (mdescs : Part.descs ∈ pts) (mclusters : Part.clusters ∈ pts) (mstks : Part.stks ∈ pts) (mstreams : Part.streams ∈ pts) (mmem : Part.mem ∈ pts) (mfreeCtr : Part.freeCtr ∈ pts) : AnswerSame pts st0 (execMax c s) := by
  delta execMax
  repeat' first
    | (with_reducible assumption)
    | lift_lets
    | (with_reducible apply gillDo_same)
    | (with_reducible apply AnswerSame.next)

theorem execCmplt_same {pts : List Part} {st0 : State} (c : Nat) (s : State) (hs : Agrees pts st0 s) (mevents : Part.events ∈ pts) (mfab : Part.fab ∈ pts) (mdescs : Part.descs ∈ pts) (mclusters : Part.clusters ∈ pts) (mstks : Part.stks ∈ pts) (mstreams : Part.streams ∈ pts) (mmem : Part.mem ∈ pts) (mfreeCtr : Part.freeCtr ∈ pts) : AnswerSame pts st0 (execCmplt c s) := by
  delta execCmplt
  repeat' first
    | (with_reducible assumption)
    | lift_lets
    | (with_reducible apply gillDo_same)
    | (with_reducible apply AnswerSame.next)

theorem execCmple_same {pts : List Part} {st0 : State} (c : Nat) (s : State) (hs : Agrees pts st0 s) (mevents : Part.events ∈ pts) (mfab : Part.fab ∈ pts) (mdescs : Part.descs ∈ pts) (mclusters : Part.clusters ∈ pts) (mstks : Part.stks ∈ pts) (mstreams : Part.streams ∈ pts) (mmem : Part.mem ∈ pts) (mfreeCtr : Part.freeCtr ∈ pts) : AnswerSame pts st0 (execCmple c s) := by
  delta execCmple
  repeat' first
    | (with_reducible assumption)
    | lift_lets
    | (with_reducible apply gillDo_same)
    | (with_reducible apply AnswerSame.next)

theorem execCmpeq_same {pts : List Part} {st0 : State} (c : Nat) (s : State) (hs : Agrees pts st0 s) (mevents : Part.events ∈ pts) (mfab : Part.fab ∈ pts) (mdescs : Part.descs ∈ pts) (mclusters : Part.clusters ∈ pts) (mstks : Part.stks ∈ pts) (mstreams : Part.streams ∈ pts) (mmem : Part.mem ∈ pts) (mfreeCtr : Part.freeCtr ∈ pts) : AnswerSame pts st0 (execCmpeq c s) := by
  delta execCmpeq
  repeat' first
    | (with_reducible assumption)
    | lift_lets
    | (with_reducible apply gillDo_same)
    | (with_reducible apply AnswerSame.next)

theorem execSel_same {pts : List Part} {st0 : State} (c : Nat) (s : State) (hs : Agrees pts st0 s) (mevents : Part.events ∈ pts) (mfab : Part.fab ∈ pts) (mdescs : Part.descs ∈ pts) (mclusters : Part.clusters ∈ pts) (mstks : Part.stks ∈ pts) (mstreams : Part.streams ∈ pts) (mmem : Part.mem ∈ pts) (mfreeCtr : Part.freeCtr ∈ pts) : AnswerSame pts st0 (execSel c s) := by
  delta execSel
  repeat' first
    | (with_reducible assumption)
    | lift_lets
    | (with_reducible apply gillDo_same)
    | (with_reducible apply AnswerSame.next)

theorem execExp2_same {pts : List Part} {st0 : State} (c : Nat) (s : State) (hs : Agrees pts st0 s) (mevents : Part.events ∈ pts) (mfab : Part.fab ∈ pts) (mdescs : Part.descs ∈ pts) (mclusters : Part.clusters ∈ pts) (mstks : Part.stks ∈ pts) (mstreams : Part.streams ∈ pts) (mmem : Part.mem ∈ pts) (mfreeCtr : Part.freeCtr ∈ pts) : AnswerSame pts st0 (execExp2 c s) := by
  delta execExp2
  repeat' first
    | (with_reducible assumption)
    | lift_lets
    | (with_reducible apply gillDo_same)
    | (with_reducible apply AnswerSame.next)

theorem execLog2_same {pts : List Part} {st0 : State} (c : Nat) (s : State) (hs : Agrees pts st0 s) (mevents : Part.events ∈ pts) (mfab : Part.fab ∈ pts) (mdescs : Part.descs ∈ pts) (mclusters : Part.clusters ∈ pts) (mstks : Part.stks ∈ pts) (mstreams : Part.streams ∈ pts) (mmem : Part.mem ∈ pts) (mfreeCtr : Part.freeCtr ∈ pts) : AnswerSame pts st0 (execLog2 c s) := by
  delta execLog2
  repeat' first
    | (with_reducible assumption)
    | lift_lets
    | (with_reducible apply gillDo_same)
    | (with_reducible apply AnswerSame.next)

theorem execRcp_same {pts : List Part} {st0 : State} (c : Nat) (s : State) (hs : Agrees pts st0 s) (mevents : Part.events ∈ pts) (mfab : Part.fab ∈ pts) (mdescs : Part.descs ∈ pts) (mclusters : Part.clusters ∈ pts) (mstks : Part.stks ∈ pts) (mstreams : Part.streams ∈ pts) (mmem : Part.mem ∈ pts) (mfreeCtr : Part.freeCtr ∈ pts) : AnswerSame pts st0 (execRcp c s) := by
  delta execRcp
  repeat' first
    | (with_reducible assumption)
    | lift_lets
    | (with_reducible apply gillDo_same)
    | (with_reducible apply AnswerSame.next)

theorem execRsqrt_same {pts : List Part} {st0 : State} (c : Nat) (s : State) (hs : Agrees pts st0 s) (mevents : Part.events ∈ pts) (mfab : Part.fab ∈ pts) (mdescs : Part.descs ∈ pts) (mclusters : Part.clusters ∈ pts) (mstks : Part.stks ∈ pts) (mstreams : Part.streams ∈ pts) (mmem : Part.mem ∈ pts) (mfreeCtr : Part.freeCtr ∈ pts) : AnswerSame pts st0 (execRsqrt c s) := by
  delta execRsqrt
  repeat' first
    | (with_reducible assumption)
    | lift_lets
    | (with_reducible apply gillDo_same)
    | (with_reducible apply AnswerSame.next)

theorem execTanh_same {pts : List Part} {st0 : State} (c : Nat) (s : State) (hs : Agrees pts st0 s) (mevents : Part.events ∈ pts) (mfab : Part.fab ∈ pts) (mdescs : Part.descs ∈ pts) (mclusters : Part.clusters ∈ pts) (mstks : Part.stks ∈ pts) (mstreams : Part.streams ∈ pts) (mmem : Part.mem ∈ pts) (mfreeCtr : Part.freeCtr ∈ pts) : AnswerSame pts st0 (execTanh c s) := by
  delta execTanh
  repeat' first
    | (with_reducible assumption)
    | lift_lets
    | (with_reducible apply gillDo_same)
    | (with_reducible apply AnswerSame.next)

theorem execSum_same {pts : List Part} {st0 : State} (c : Nat) (s : State) (hs : Agrees pts st0 s) (mevents : Part.events ∈ pts) (mfab : Part.fab ∈ pts) (mdescs : Part.descs ∈ pts) (mclusters : Part.clusters ∈ pts) (mstks : Part.stks ∈ pts) (mstreams : Part.streams ∈ pts) (mmem : Part.mem ∈ pts) (mfreeCtr : Part.freeCtr ∈ pts) : AnswerSame pts st0 (execSum c s) := by
  delta execSum
  repeat' first
    | (with_reducible assumption)
    | lift_lets
    | (with_reducible apply gillDo_same)
    | (with_reducible apply AnswerSame.next)

theorem execSumsq_same {pts : List Part} {st0 : State} (c : Nat) (s : State) (hs : Agrees pts st0 s) (mevents : Part.events ∈ pts) (mfab : Part.fab ∈ pts) (mdescs : Part.descs ∈ pts) (mclusters : Part.clusters ∈ pts) (mstks : Part.stks ∈ pts) (mstreams : Part.streams ∈ pts) (mmem : Part.mem ∈ pts) (mfreeCtr : Part.freeCtr ∈ pts) : AnswerSame pts st0 (execSumsq c s) := by
  delta execSumsq
  repeat' first
    | (with_reducible assumption)
    | lift_lets
    | (with_reducible apply gillDo_same)
    | (with_reducible apply AnswerSame.next)

theorem execMaxr_same {pts : List Part} {st0 : State} (c : Nat) (s : State) (hs : Agrees pts st0 s) (mevents : Part.events ∈ pts) (mfab : Part.fab ∈ pts) (mdescs : Part.descs ∈ pts) (mclusters : Part.clusters ∈ pts) (mstks : Part.stks ∈ pts) (mstreams : Part.streams ∈ pts) (mmem : Part.mem ∈ pts) (mfreeCtr : Part.freeCtr ∈ pts) : AnswerSame pts st0 (execMaxr c s) := by
  delta execMaxr
  repeat' first
    | (with_reducible assumption)
    | lift_lets
    | (with_reducible apply gillDo_same)
    | (with_reducible apply AnswerSame.next)

theorem execMinr_same {pts : List Part} {st0 : State} (c : Nat) (s : State) (hs : Agrees pts st0 s) (mevents : Part.events ∈ pts) (mfab : Part.fab ∈ pts) (mdescs : Part.descs ∈ pts) (mclusters : Part.clusters ∈ pts) (mstks : Part.stks ∈ pts) (mstreams : Part.streams ∈ pts) (mmem : Part.mem ∈ pts) (mfreeCtr : Part.freeCtr ∈ pts) : AnswerSame pts st0 (execMinr c s) := by
  delta execMinr
  repeat' first
    | (with_reducible assumption)
    | lift_lets
    | (with_reducible apply gillDo_same)
    | (with_reducible apply AnswerSame.next)

theorem execArgmax_same {pts : List Part} {st0 : State} (c : Nat) (s : State) (hs : Agrees pts st0 s) (mevents : Part.events ∈ pts) (mfab : Part.fab ∈ pts) (mdescs : Part.descs ∈ pts) (mclusters : Part.clusters ∈ pts) (mstks : Part.stks ∈ pts) (mstreams : Part.streams ∈ pts) (mmem : Part.mem ∈ pts) (mfreeCtr : Part.freeCtr ∈ pts) : AnswerSame pts st0 (execArgmax c s) := by
  delta execArgmax
  repeat' first
    | (with_reducible assumption)
    | lift_lets
    | (with_reducible apply gillDo_same)
    | (with_reducible apply AnswerSame.next)

theorem execCountnf_same {pts : List Part} {st0 : State} (c : Nat) (s : State) (hs : Agrees pts st0 s) (mevents : Part.events ∈ pts) (mfab : Part.fab ∈ pts) (mdescs : Part.descs ∈ pts) (mclusters : Part.clusters ∈ pts) (mstks : Part.stks ∈ pts) (mstreams : Part.streams ∈ pts) (mmem : Part.mem ∈ pts) (mfreeCtr : Part.freeCtr ∈ pts) : AnswerSame pts st0 (execCountnf c s) := by
  delta execCountnf
  repeat' first
    | (with_reducible assumption)
    | lift_lets
    | (with_reducible apply gillDo_same)
    | (with_reducible apply AnswerSame.next)

theorem execAccrd_same {pts : List Part} {st0 : State} (c : Nat) (s : State) (hs : Agrees pts st0 s) (mevents : Part.events ∈ pts) (mfab : Part.fab ∈ pts) (mdescs : Part.descs ∈ pts) (mclusters : Part.clusters ∈ pts) (mstks : Part.stks ∈ pts) (mstreams : Part.streams ∈ pts) (mmem : Part.mem ∈ pts) (mfreeCtr : Part.freeCtr ∈ pts) : AnswerSame pts st0 (execAccrd c s) := by
  delta execAccrd
  repeat' first
    | (with_reducible assumption)
    | lift_lets
    | (with_reducible apply gillDo_same)
    | (with_reducible apply AnswerSame.next)

theorem execRelease_same {pts : List Part} {st0 : State} (c : Nat) (s : State) (hs : Agrees pts st0 s) (mevents : Part.events ∈ pts) (mfab : Part.fab ∈ pts) (mdescs : Part.descs ∈ pts) (mclusters : Part.clusters ∈ pts) (mstks : Part.stks ∈ pts) (mstreams : Part.streams ∈ pts) (mmem : Part.mem ∈ pts) (mfreeCtr : Part.freeCtr ∈ pts) : AnswerSame pts st0 (execRelease c s) := by
  delta execRelease
  repeat' first
    | (with_reducible assumption)
    | lift_lets
    | (with_reducible apply gillDo_same)
    | (with_reducible apply AnswerSame.next)

theorem execSpill_same {pts : List Part} {st0 : State} (c : Nat) (s : State) (hs : Agrees pts st0 s) (mevents : Part.events ∈ pts) (mfab : Part.fab ∈ pts) (mdescs : Part.descs ∈ pts) (mclusters : Part.clusters ∈ pts) (mstks : Part.stks ∈ pts) (mstreams : Part.streams ∈ pts) (mmem : Part.mem ∈ pts) (mfreeCtr : Part.freeCtr ∈ pts) : AnswerSame pts st0 (execSpill c s) := by
  delta execSpill
  repeat' first
    | (with_reducible assumption)
    | lift_lets
    | (with_reducible apply gillDo_same)
    | (with_reducible apply AnswerSame.next)

end Sys2Proof.Laws
end

