-- ==== Sys2Proof/Laws/TouchMemory.lean ====
section
/-! SUPPORT. Which parts of the state every operation of Machine/Memory.lean may change (Laws/Touch.lean). -/
namespace Sys2Proof.Laws

set_option linter.unusedVariables false

open Sys2Proof.Machine Sys2Proof.Safety

theorem mapChange_same {pts : List Part} {st0 : State} (kind st cause unit logical physical : Nat) (s : State) (hs : Agrees pts st0 s) (mevents : Part.events ∈ pts) (mrepair : Part.repair ∈ pts) (mrepairSeq : Part.repairSeq ∈ pts) : Agrees pts st0 (mapChange kind st cause unit logical physical s) := by
  delta mapChange
  repeat' first
    | (with_reducible assumption)
    | lift_lets
    | (intro x; refine same_cut (w := pts) (s0 := st0) x ?_ ?_; rotate_left; intro _; clear_value x; rotate_left; unfold x)
    | (intro x; clear_value x)
    | (with_reducible apply logGlb_same)
    | (refine same_mk hs ?_; intro p hp; cases p <;> first | exact rfl | exact absurd (by assumption) hp)

theorem retireBlock_same {pts : List Part} {st0 : State} (a : Nat) (s : State) (hs : Agrees pts st0 s) (mevents : Part.events ∈ pts) (mrepair : Part.repair ∈ pts) (mrepairSeq : Part.repairSeq ∈ pts) (mstks : Part.stks ∈ pts) : Agrees pts st0 (retireBlock a s) := by
  delta retireBlock
  repeat' first
    | (with_reducible assumption)
    | lift_lets
    | (with_reducible apply modStack_same)
    | (with_reducible apply logStack_same)
    | (with_reducible apply mapChange_same)
    | split
    | (dsimp only)

theorem stackError_same {pts : List Part} {st0 : State} (addr : Nat) (checksum : Bool) (s : State) (hs : Agrees pts st0 s) (mevents : Part.events ∈ pts) (mrepair : Part.repair ∈ pts) (mrepairSeq : Part.repairSeq ∈ pts) (mstks : Part.stks ∈ pts) (mmem : Part.mem ∈ pts) (mbushels : Part.bushels ∈ pts) : Agrees pts st0 (stackError addr checksum s) := by
  delta stackError
  repeat' first
    | (with_reducible assumption)
    | (with_reducible rfl)
    | (with_reducible refine fun _ => ?_)
    | lift_lets
    | (intro x; refine same_cut (w := pts) (s0 := st0) x ?_ ?_; rotate_left; intro _; clear_value x; rotate_left; unfold x)
    | (intro x; refine same_cut_ss (w := pts) (s0 := st0) x ?_ ?_; rotate_left; intro hfun; clear_value x; rotate_left; unfold x)
    | (intro x; refine same_cut_ass (w := pts) (s0 := st0) x ?_ ?_; rotate_left; intro hfun; clear_value x; rotate_left; unfold x)
    | (intro x; refine same_cut_abss (w := pts) (s0 := st0) x ?_ ?_; rotate_left; intro hfun; clear_value x; rotate_left; unfold x)
    | (intro x; refine same_cut_a (w := pts) (s0 := st0) x ?_ ?_; rotate_left; intro hfun; clear_value x; rotate_left; unfold x)
    | (intro x; refine same_cut_ab (w := pts) (s0 := st0) x ?_ ?_; rotate_left; intro hfun; clear_value x; rotate_left; unfold x)
    | (intro x; refine same_cut_abc (w := pts) (s0 := st0) x ?_ ?_; rotate_left; intro hfun; clear_value x; rotate_left; unfold x)
    | (intro x; refine same_cut_o1 (w := pts) (s0 := st0) x ?_ ?_; rotate_left; intro hopt; clear_value x; rotate_left; unfold x)
    | (intro x; refine same_cut_o (w := pts) (s0 := st0) x ?_ ?_; rotate_left; intro hopt; clear_value x; rotate_left; unfold x)
    | (intro x; refine same_cut_fst (w := pts) (s0 := st0) x ?_ ?_; rotate_left; intro _; clear_value x; rotate_left; unfold x)
    | (intro x; refine same_cut_snd (w := pts) (s0 := st0) x ?_ ?_; rotate_left; intro _; clear_value x; rotate_left; unfold x)
    | (intro x; clear_value x)
    | (with_reducible apply modStack_same)
    | (with_reducible apply forAll_same)
    | (with_reducible apply zeroMem_same)
    | (with_reducible apply retireBlock_same)
    | (with_reducible apply foldl_same)
    | (with_reducible apply foldl_snd_same)
    | (with_reducible apply foldl_fst_same)
    | (with_reducible refine hopt _ (by assumption))
    | (with_reducible exact hopt _ rfl)
    | (with_reducible apply hfun)
    | (intro _)
    | split
    | (with_reducible apply AnswerSame.next)
    | (with_reducible apply same_getD)
    | (refine same_mk hs ?_; intro p hp; cases p <;> first | exact rfl | exact absurd (by assumption) hp)
    | (refine same_mk (by assumption) ?_; intro p hp; cases p <;> first | exact rfl | exact absurd (by assumption) hp)
    | (dsimp only)
    | (rename_i he; split at he)
    | (rename_i he; injection he with he; subst he)

end Sys2Proof.Laws
end

