-- ==== Sys2Proof/Laws/TouchSpares.lean ====
section
/-! SUPPORT. Which parts of the state every operation of Machine/Spares.lean may change (Laws/Touch.lean). -/
namespace Sys2Proof.Laws

set_option linter.unusedVariables false

open Sys2Proof.Machine Sys2Proof.Safety

theorem endWork_same {pts : List Part} {st0 : State} (p : Desc → Bool) (st : Nat) (s : State) (hs : Agrees pts st0 s) (mdescs : Part.descs ∈ pts) : Agrees pts st0 (endWork p st s) := by
  delta endWork
  repeat' first
    | (with_reducible assumption)
    | (with_reducible refine fun _ => ?_)
    | (with_reducible apply forAll_same)
    | (with_reducible apply finish_same)

theorem clusterGone_same {pts : List Part} {st0 : State} (c cause phys : Nat) (s : State) (hs : Agrees pts st0 s) (mevents : Part.events ∈ pts) (mrepair : Part.repair ∈ pts) (mrepairSeq : Part.repairSeq ∈ pts) (mdescs : Part.descs ∈ pts) (mclusters : Part.clusters ∈ pts) : Agrees pts st0 (clusterGone c cause phys s) := by
  delta clusterGone
  repeat' first
    | (with_reducible assumption)
    | lift_lets
    | (intro x; refine same_cut (w := pts) (s0 := st0) x ?_ ?_; rotate_left; intro _; clear_value x; rotate_left; unfold x)
    | (with_reducible apply modCluster_same)
    | (with_reducible apply mapChange_same)
    | (with_reducible apply endWork_same)

theorem failCluster_same {pts : List Part} {st0 : State} (c cause : Nat) (s : State) (hs : Agrees pts st0 s) (mevents : Part.events ∈ pts) (mrepair : Part.repair ∈ pts) (mrepairSeq : Part.repairSeq ∈ pts) (mdescs : Part.descs ∈ pts) (mclusters : Part.clusters ∈ pts) (mspareCluster : Part.spareCluster ∈ pts) : Agrees pts st0 (failCluster c cause s) := by
  delta failCluster
  repeat' first
    | (with_reducible assumption)
    | (with_reducible rfl)
    | (with_reducible refine fun _ => ?_)
    | lift_lets
    | (intro x; refine same_cut (w := pts) (s0 := st0) x ?_ ?_; rotate_left; intro _; clear_value x; rotate_left; unfold x)
    | (intro x; refine same_cut_ss (w := pts) (s0 := st0) x ?_ ?_; rotate_left; intro hfun; clear_value x; rotate_left; unfold x)
    | (intro x; refine same_cut_ass (w := pts) (s0 := st0) x ?_ ?_; rotate_left; intro hfun; clear_value x; rotate_left; unfold x)
    | (intro x; refine same_cut_abss (w := pts) (s0 := st0) x ?_ ?_; rotate_left; intro hfun; clear_value x; rotate_left; unfold x)
    | (intro x; refine same_cut_a (w := pts) (s0 := st0) x ?_ ?_; rotate_left; intro hfun; clear_value x; rotate_left; unfold x)
    | (intro x; refine same_cut_ab (w := pts) (s0 := st0) x ?_ ?_; rotate_left; intro hfun; clear_value x; rotate_left; unfold x)
    | (intro x; refine same_cut_abc (w := pts) (s0 := st0) x ?_ ?_; rotate_left; intro hfun; clear_value x; rotate_left; unfold x)
    | (intro x; refine same_cut_o1 (w := pts) (s0 := st0) x ?_ ?_; rotate_left; intro hopt; clear_value x; rotate_left; unfold x)
    | (intro x; refine same_cut_o (w := pts) (s0 := st0) x ?_ ?_; rotate_left; intro hopt; clear_value x; rotate_left; unfold x)
    | (intro x; refine same_cut_fst (w := pts) (s0 := st0) x ?_ ?_; rotate_left; intro _; clear_value x; rotate_left; unfold x)
    | (intro x; refine same_cut_snd (w := pts) (s0 := st0) x ?_ ?_; rotate_left; intro _; clear_value x; rotate_left; unfold x)
    | (intro x; clear_value x)
    | (with_reducible apply modCluster_same)
    | (with_reducible apply mapChange_same)
    | (with_reducible apply endWork_same)
    | (with_reducible apply clusterGone_same)
    | (with_reducible refine hopt _ (by assumption))
    | (with_reducible exact hopt _ rfl)
    | (with_reducible apply hfun)
    | (intro _)
    | split
    | (with_reducible apply AnswerSame.next)
    | (with_reducible apply same_getD)
    | (refine same_mk hs ?_; intro p hp; cases p <;> first | exact rfl | exact absurd (by assumption) hp)
    | (refine same_mk (by assumption) ?_; intro p hp; cases p <;> first | exact rfl | exact absurd (by assumption) hp)
    | (dsimp only)
    | (rename_i he; split at he)
    | (rename_i he; injection he with he; subst he)

theorem clusterTakeover_same {pts : List Part} {st0 : State} (c : Nat) (s : State) (hs : Agrees pts st0 s) (mclusters : Part.clusters ∈ pts) (mspareCluster : Part.spareCluster ∈ pts) (mstreams : Part.streams ∈ pts) (mmem : Part.mem ∈ pts) : Agrees pts st0 (clusterTakeover c s) := by
  delta clusterTakeover
  repeat' first
    | (with_reducible assumption)
    | (with_reducible rfl)
    | (with_reducible refine fun _ => ?_)
    | lift_lets
    | (intro x; refine same_cut (w := pts) (s0 := st0) x ?_ ?_; rotate_left; intro _; clear_value x; rotate_left; unfold x)
    | (intro x; refine same_cut_ss (w := pts) (s0 := st0) x ?_ ?_; rotate_left; intro hfun; clear_value x; rotate_left; unfold x)
    | (intro x; refine same_cut_ass (w := pts) (s0 := st0) x ?_ ?_; rotate_left; intro hfun; clear_value x; rotate_left; unfold x)
    | (intro x; refine same_cut_abss (w := pts) (s0 := st0) x ?_ ?_; rotate_left; intro hfun; clear_value x; rotate_left; unfold x)
    | (intro x; refine same_cut_a (w := pts) (s0 := st0) x ?_ ?_; rotate_left; intro hfun; clear_value x; rotate_left; unfold x)
    | (intro x; refine same_cut_ab (w := pts) (s0 := st0) x ?_ ?_; rotate_left; intro hfun; clear_value x; rotate_left; unfold x)
    | (intro x; refine same_cut_abc (w := pts) (s0 := st0) x ?_ ?_; rotate_left; intro hfun; clear_value x; rotate_left; unfold x)
    | (intro x; refine same_cut_o1 (w := pts) (s0 := st0) x ?_ ?_; rotate_left; intro hopt; clear_value x; rotate_left; unfold x)
    | (intro x; refine same_cut_o (w := pts) (s0 := st0) x ?_ ?_; rotate_left; intro hopt; clear_value x; rotate_left; unfold x)
    | (intro x; refine same_cut_fst (w := pts) (s0 := st0) x ?_ ?_; rotate_left; intro _; clear_value x; rotate_left; unfold x)
    | (intro x; refine same_cut_snd (w := pts) (s0 := st0) x ?_ ?_; rotate_left; intro _; clear_value x; rotate_left; unfold x)
    | (intro x; clear_value x)
    | (with_reducible apply modCluster_same)
    | (with_reducible apply scrubCluster_same)
    | (with_reducible refine hopt _ (by assumption))
    | (with_reducible exact hopt _ rfl)
    | (with_reducible apply hfun)
    | (intro _)
    | split
    | (with_reducible apply AnswerSame.next)
    | (with_reducible apply same_getD)
    | (refine same_mk hs ?_; intro p hp; cases p <;> first | exact rfl | exact absurd (by assumption) hp)
    | (refine same_mk (by assumption) ?_; intro p hp; cases p <;> first | exact rfl | exact absurd (by assumption) hp)
    | (dsimp only)
    | (rename_i he; split at he)
    | (rename_i he; injection he with he; subst he)

theorem enterFallback_same {pts : List Part} {st0 : State} (t e phys : Nat) (s : State) (hs : Agrees pts st0 s) (mevents : Part.events ∈ pts) (mstks : Part.stks ∈ pts) : Agrees pts st0 (enterFallback t e phys s) := by
  delta enterFallback
  repeat' first
    | (with_reducible assumption)
    | (with_reducible rfl)
    | (with_reducible refine fun _ => ?_)
    | lift_lets
    | (intro x; refine same_cut (w := pts) (s0 := st0) x ?_ ?_; rotate_left; intro _; clear_value x; rotate_left; unfold x)
    | (intro x; refine same_cut_ss (w := pts) (s0 := st0) x ?_ ?_; rotate_left; intro hfun; clear_value x; rotate_left; unfold x)
    | (intro x; refine same_cut_ass (w := pts) (s0 := st0) x ?_ ?_; rotate_left; intro hfun; clear_value x; rotate_left; unfold x)
    | (intro x; refine same_cut_abss (w := pts) (s0 := st0) x ?_ ?_; rotate_left; intro hfun; clear_value x; rotate_left; unfold x)
    | (intro x; refine same_cut_a (w := pts) (s0 := st0) x ?_ ?_; rotate_left; intro hfun; clear_value x; rotate_left; unfold x)
    | (intro x; refine same_cut_ab (w := pts) (s0 := st0) x ?_ ?_; rotate_left; intro hfun; clear_value x; rotate_left; unfold x)
    | (intro x; refine same_cut_abc (w := pts) (s0 := st0) x ?_ ?_; rotate_left; intro hfun; clear_value x; rotate_left; unfold x)
    | (intro x; refine same_cut_o1 (w := pts) (s0 := st0) x ?_ ?_; rotate_left; intro hopt; clear_value x; rotate_left; unfold x)
    | (intro x; refine same_cut_o (w := pts) (s0 := st0) x ?_ ?_; rotate_left; intro hopt; clear_value x; rotate_left; unfold x)
    | (intro x; refine same_cut_fst (w := pts) (s0 := st0) x ?_ ?_; rotate_left; intro _; clear_value x; rotate_left; unfold x)
    | (intro x; refine same_cut_snd (w := pts) (s0 := st0) x ?_ ?_; rotate_left; intro _; clear_value x; rotate_left; unfold x)
    | (intro x; clear_value x)
    | (with_reducible apply modEngine_same)
    | (with_reducible apply logFirkin_same)
    | (with_reducible refine hopt _ (by assumption))
    | (with_reducible exact hopt _ rfl)
    | (with_reducible apply hfun)
    | (intro _)
    | split
    | (with_reducible apply AnswerSame.next)
    | (with_reducible apply same_getD)
    | (refine same_mk hs ?_; intro p hp; cases p <;> first | exact rfl | exact absurd (by assumption) hp)
    | (refine same_mk (by assumption) ?_; intro p hp; cases p <;> first | exact rfl | exact absurd (by assumption) hp)
    | (dsimp only)
    | (rename_i he; split at he)
    | (rename_i he; injection he with he; subst he)

theorem failEngine_same {pts : List Part} {st0 : State} (t e cause : Nat) (s : State) (hs : Agrees pts st0 s) (mevents : Part.events ∈ pts) (mrepair : Part.repair ∈ pts) (mrepairSeq : Part.repairSeq ∈ pts) (mstks : Part.stks ∈ pts) : Agrees pts st0 (failEngine t e cause s) := by
  delta failEngine
  repeat' first
    | (with_reducible assumption)
    | (with_reducible rfl)
    | (with_reducible refine fun _ => ?_)
    | lift_lets
    | (intro x; refine same_cut (w := pts) (s0 := st0) x ?_ ?_; rotate_left; intro _; clear_value x; rotate_left; unfold x)
    | (intro x; refine same_cut_ss (w := pts) (s0 := st0) x ?_ ?_; rotate_left; intro hfun; clear_value x; rotate_left; unfold x)
    | (intro x; refine same_cut_ass (w := pts) (s0 := st0) x ?_ ?_; rotate_left; intro hfun; clear_value x; rotate_left; unfold x)
    | (intro x; refine same_cut_abss (w := pts) (s0 := st0) x ?_ ?_; rotate_left; intro hfun; clear_value x; rotate_left; unfold x)
    | (intro x; refine same_cut_a (w := pts) (s0 := st0) x ?_ ?_; rotate_left; intro hfun; clear_value x; rotate_left; unfold x)
    | (intro x; refine same_cut_ab (w := pts) (s0 := st0) x ?_ ?_; rotate_left; intro hfun; clear_value x; rotate_left; unfold x)
    | (intro x; refine same_cut_abc (w := pts) (s0 := st0) x ?_ ?_; rotate_left; intro hfun; clear_value x; rotate_left; unfold x)
    | (intro x; refine same_cut_o1 (w := pts) (s0 := st0) x ?_ ?_; rotate_left; intro hopt; clear_value x; rotate_left; unfold x)
    | (intro x; refine same_cut_o (w := pts) (s0 := st0) x ?_ ?_; rotate_left; intro hopt; clear_value x; rotate_left; unfold x)
    | (intro x; refine same_cut_fst (w := pts) (s0 := st0) x ?_ ?_; rotate_left; intro _; clear_value x; rotate_left; unfold x)
    | (intro x; refine same_cut_snd (w := pts) (s0 := st0) x ?_ ?_; rotate_left; intro _; clear_value x; rotate_left; unfold x)
    | (intro x; clear_value x)
    | (with_reducible apply modStack_same)
    | (with_reducible apply modEngine_same)
    | (with_reducible apply logFirkin_same)
    | (with_reducible apply mapChange_same)
    | (with_reducible apply enterFallback_same)
    | (with_reducible refine hopt _ (by assumption))
    | (with_reducible exact hopt _ rfl)
    | (with_reducible apply hfun)
    | (intro _)
    | split
    | (with_reducible apply AnswerSame.next)
    | (with_reducible apply same_getD)
    | (refine same_mk hs ?_; intro p hp; cases p <;> first | exact rfl | exact absurd (by assumption) hp)
    | (refine same_mk (by assumption) ?_; intro p hp; cases p <;> first | exact rfl | exact absurd (by assumption) hp)
    | (dsimp only)
    | (rename_i he; split at he)
    | (rename_i he; injection he with he; subst he)

theorem engineTakeover_same {pts : List Part} {st0 : State} (t e : Nat) (s : State) (hs : Agrees pts st0 s) (mevents : Part.events ∈ pts) (mstks : Part.stks ∈ pts) : Agrees pts st0 (engineTakeover t e s) := by
  delta engineTakeover
  repeat' first
    | (with_reducible assumption)
    | lift_lets
    | (intro x; refine same_cut (w := pts) (s0 := st0) x ?_ ?_; rotate_left; intro _; clear_value x; rotate_left; unfold x)
    | (with_reducible apply modEngine_same)
    | (with_reducible apply logFirkin_same)
    | split

theorem execClusterFailed_same {pts : List Part} {st0 : State} (c cause : Nat) (s : State) (hs : Agrees pts st0 s) (mevents : Part.events ∈ pts) (mrepair : Part.repair ∈ pts) (mrepairSeq : Part.repairSeq ∈ pts) (mdescs : Part.descs ∈ pts) (mclusters : Part.clusters ∈ pts) (mspareCluster : Part.spareCluster ∈ pts) : AnswerSame pts st0 (execClusterFailed c cause s) := by
  delta execClusterFailed
  repeat' first
    | (with_reducible assumption)
    | lift_lets
    | (with_reducible apply failCluster_same)
    | split
    | (with_reducible apply AnswerSame.next)

theorem execClusterSpareIn_same {pts : List Part} {st0 : State} (c : Nat) (s : State) (hs : Agrees pts st0 s) (mclusters : Part.clusters ∈ pts) (mspareCluster : Part.spareCluster ∈ pts) (mstreams : Part.streams ∈ pts) (mmem : Part.mem ∈ pts) : AnswerSame pts st0 (execClusterSpareIn c s) := by
  delta execClusterSpareIn
  repeat' first
    | (with_reducible assumption)
    | lift_lets
    | (with_reducible apply clusterTakeover_same)
    | (with_reducible apply AnswerSame.next)

theorem execRepeatFailure_same {pts : List Part} {st0 : State} (u : FailUnit) (cause : Nat) (s : State) (hs : Agrees pts st0 s) (mevents : Part.events ∈ pts) (mrepair : Part.repair ∈ pts) (mrepairSeq : Part.repairSeq ∈ pts) (mdescs : Part.descs ∈ pts) (mclusters : Part.clusters ∈ pts) (mspareCluster : Part.spareCluster ∈ pts) (mstks : Part.stks ∈ pts) : AnswerSame pts st0 (execRepeatFailure u cause s) := by
  delta execRepeatFailure
  repeat' first
    | (with_reducible assumption)
    | lift_lets
    | (with_reducible apply failCluster_same)
    | (with_reducible apply failEngine_same)
    | split
    | (with_reducible apply AnswerSame.next)

theorem execSpareSelftest_same {pts : List Part} {st0 : State} (stack : Option Nat) (pass : Bool) (step : Nat) (s : State) (hs : Agrees pts st0 s) (mevents : Part.events ∈ pts) (mrepair : Part.repair ∈ pts) (mrepairSeq : Part.repairSeq ∈ pts) (mspareCluster : Part.spareCluster ∈ pts) (mstks : Part.stks ∈ pts) : AnswerSame pts st0 (execSpareSelftest stack pass step s) := by
  delta execSpareSelftest
  repeat' first
    | (with_reducible assumption)
    | (with_reducible rfl)
    | (with_reducible refine fun _ => ?_)
    | lift_lets
    | (intro x; refine same_cut (w := pts) (s0 := st0) x ?_ ?_; rotate_left; intro _; clear_value x; rotate_left; unfold x)
    | (intro x; refine same_cut_ss (w := pts) (s0 := st0) x ?_ ?_; rotate_left; intro hfun; clear_value x; rotate_left; unfold x)
    | (intro x; refine same_cut_ass (w := pts) (s0 := st0) x ?_ ?_; rotate_left; intro hfun; clear_value x; rotate_left; unfold x)
    | (intro x; refine same_cut_abss (w := pts) (s0 := st0) x ?_ ?_; rotate_left; intro hfun; clear_value x; rotate_left; unfold x)
    | (intro x; refine same_cut_a (w := pts) (s0 := st0) x ?_ ?_; rotate_left; intro hfun; clear_value x; rotate_left; unfold x)
    | (intro x; refine same_cut_ab (w := pts) (s0 := st0) x ?_ ?_; rotate_left; intro hfun; clear_value x; rotate_left; unfold x)
    | (intro x; refine same_cut_abc (w := pts) (s0 := st0) x ?_ ?_; rotate_left; intro hfun; clear_value x; rotate_left; unfold x)
    | (intro x; refine same_cut_o1 (w := pts) (s0 := st0) x ?_ ?_; rotate_left; intro hopt; clear_value x; rotate_left; unfold x)
    | (intro x; refine same_cut_o (w := pts) (s0 := st0) x ?_ ?_; rotate_left; intro hopt; clear_value x; rotate_left; unfold x)
    | (intro x; refine same_cut_fst (w := pts) (s0 := st0) x ?_ ?_; rotate_left; intro _; clear_value x; rotate_left; unfold x)
    | (intro x; refine same_cut_snd (w := pts) (s0 := st0) x ?_ ?_; rotate_left; intro _; clear_value x; rotate_left; unfold x)
    | (intro x; clear_value x)
    | (with_reducible apply modStack_same)
    | (with_reducible apply logEv_same)
    | (with_reducible apply logFirkin_same)
    | (with_reducible apply mapChange_same)
    | (with_reducible refine hopt _ (by assumption))
    | (with_reducible exact hopt _ rfl)
    | (with_reducible apply hfun)
    | (intro _)
    | split
    | (with_reducible apply AnswerSame.next)
    | (with_reducible apply same_getD)
    | (refine same_mk hs ?_; intro p hp; cases p <;> first | exact rfl | exact absurd (by assumption) hp)
    | (refine same_mk (by assumption) ?_; intro p hp; cases p <;> first | exact rfl | exact absurd (by assumption) hp)
    | (dsimp only)
    | (rename_i he; split at he)
    | (rename_i he; injection he with he; subst he)

theorem execEngineFailed_same {pts : List Part} {st0 : State} (t e cause : Nat) (s : State) (hs : Agrees pts st0 s) (mevents : Part.events ∈ pts) (mrepair : Part.repair ∈ pts) (mrepairSeq : Part.repairSeq ∈ pts) (mstks : Part.stks ∈ pts) : AnswerSame pts st0 (execEngineFailed t e cause s) := by
  delta execEngineFailed
  repeat' first
    | (with_reducible assumption)
    | lift_lets
    | (with_reducible apply failEngine_same)
    | split
    | (with_reducible apply AnswerSame.next)

theorem execSpareIn_same {pts : List Part} {st0 : State} (t e : Nat) (s : State) (hs : Agrees pts st0 s) (mevents : Part.events ∈ pts) (mstks : Part.stks ∈ pts) : AnswerSame pts st0 (execSpareIn t e s) := by
  delta execSpareIn
  repeat' first
    | (with_reducible assumption)
    | lift_lets
    | (with_reducible apply engineTakeover_same)
    | (with_reducible apply AnswerSame.next)

end Sys2Proof.Laws
end

