-- ==== Sys2Proof/Laws/TouchCores.lean ====
section
/-! SUPPORT. Which parts of the state every operation of Machine/Cores.lean may change (Laws/Touch.lean). -/
namespace Sys2Proof.Laws

set_option linter.unusedVariables false

open Sys2Proof.Machine Sys2Proof.Safety

theorem retireX_same {pts : List Part} {st0 : State} (c n rd : Nat) (v : Word) (s : State) (hs : Agrees pts st0 s) (mclusters : Part.clusters ∈ pts) : Agrees pts st0 (retireX c n rd v s) := by
  delta retireX
  repeat' first
    | (with_reducible assumption)
    | (with_reducible apply modCore_same)

theorem stall_same {pts : List Part} {st0 : State} (c n : Nat) (st : CoreState) (w : CoreWait) (s : State) (hs : Agrees pts st0 s) (mclusters : Part.clusters ∈ pts) : Agrees pts st0 (stall c n st w s) := by
  delta stall
  repeat' first
    | (with_reducible assumption)
    | (with_reducible apply modCore_same)

theorem startCore_same {pts : List Part} {st0 : State} (c n d : Nat) (e : Desc) (b : RunBody) (s : State) (hs : Agrees pts st0 s) (mclusters : Part.clusters ∈ pts) : Agrees pts st0 (startCore c n d e b s) := by
  delta startCore
  repeat' first
    | (with_reducible assumption)
    | (with_reducible rfl)
    | (with_reducible refine fun _ => ?_)
    | lift_lets
    | (intro x; refine same_cut (w := pts) (s0 := st0) x ?_ ?_; rotate_left; intro _; clear_value x; rotate_left; unfold x)
    | (intro x; refine same_cut_ss (w := pts) (s0 := st0) x ?_ ?_; rotate_left; intro hfun; clear_value x; rotate_left; unfold x)
    | (intro x; refine same_cut_ass (w := pts) (s0 := st0) x ?_ ?_; rotate_left; intro hfun; clear_value x; rotate_left; unfold x)
    | (intro x; refine same_cut_abss (w := pts) (s0 := st0) x ?_ ?_; rotate_left; intro hfun; clear_value x; rotate_left; unfold x)
    | (intro x; refine same_cut_a (w := pts) (s0 := st0) x ?_ ?_; rotate_left; intro hfun; clear_value x; rotate_left; unfold x)
    | (intro x; refine same_cut_ab (w := pts) (s0 := st0) x ?_ ?_; rotate_left; intro hfun; clear_value x; rotate_left; unfold x)
    | (intro x; refine same_cut_abc (w := pts) (s0 := st0) x ?_ ?_; rotate_left; intro hfun; clear_value x; rotate_left; unfold x)
    | (intro x; refine same_cut_o1 (w := pts) (s0 := st0) x ?_ ?_; rotate_left; intro hopt; clear_value x; rotate_left; unfold x)
    | (intro x; refine same_cut_o (w := pts) (s0 := st0) x ?_ ?_; rotate_left; intro hopt; clear_value x; rotate_left; unfold x)
    | (intro x; refine same_cut_fst (w := pts) (s0 := st0) x ?_ ?_; rotate_left; intro _; clear_value x; rotate_left; unfold x)
    | (intro x; refine same_cut_snd (w := pts) (s0 := st0) x ?_ ?_; rotate_left; intro _; clear_value x; rotate_left; unfold x)
    | (intro x; clear_value x)
    | (with_reducible apply modCore_same)
    | (with_reducible refine hopt _ (by assumption))
    | (with_reducible exact hopt _ rfl)
    | (with_reducible apply hfun)
    | (intro _)
    | split
    | (with_reducible apply AnswerSame.next)
    | (with_reducible apply same_getD)
    | (refine same_mk hs ?_; intro p hp; cases p <;> first | exact rfl | exact absurd (by assumption) hp)
    | (refine same_mk (by assumption) ?_; intro p hp; cases p <;> first | exact rfl | exact absurd (by assumption) hp)
    | (dsimp only)
    | (rename_i he; split at he)
    | (rename_i he; injection he with he; subst he)

theorem startRun_same {pts : List Part} {st0 : State} (d : Nat) (e : Desc) (b : RunBody) (s : State) (hs : Agrees pts st0 s) (mfab : Part.fab ∈ pts) (mdescs : Part.descs ∈ pts) (mclusters : Part.clusters ∈ pts) (mstks : Part.stks ∈ pts) (mstreams : Part.streams ∈ pts) : Agrees pts st0 (startRun d e b s) := by
  delta startRun
  repeat' first
    | (with_reducible assumption)
    | (with_reducible rfl)
    | (with_reducible refine fun _ => ?_)
    | lift_lets
    | (intro x; refine same_cut (w := pts) (s0 := st0) x ?_ ?_; rotate_left; intro _; clear_value x; rotate_left; unfold x)
    | (intro x; refine same_cut_ss (w := pts) (s0 := st0) x ?_ ?_; rotate_left; intro hfun; clear_value x; rotate_left; unfold x)
    | (intro x; refine same_cut_ass (w := pts) (s0 := st0) x ?_ ?_; rotate_left; intro hfun; clear_value x; rotate_left; unfold x)
    | (intro x; refine same_cut_abss (w := pts) (s0 := st0) x ?_ ?_; rotate_left; intro hfun; clear_value x; rotate_left; unfold x)
    | (intro x; refine same_cut_a (w := pts) (s0 := st0) x ?_ ?_; rotate_left; intro hfun; clear_value x; rotate_left; unfold x)
    | (intro x; refine same_cut_ab (w := pts) (s0 := st0) x ?_ ?_; rotate_left; intro hfun; clear_value x; rotate_left; unfold x)
    | (intro x; refine same_cut_abc (w := pts) (s0 := st0) x ?_ ?_; rotate_left; intro hfun; clear_value x; rotate_left; unfold x)
    | (intro x; refine same_cut_o1 (w := pts) (s0 := st0) x ?_ ?_; rotate_left; intro hopt; clear_value x; rotate_left; unfold x)
    | (intro x; refine same_cut_o (w := pts) (s0 := st0) x ?_ ?_; rotate_left; intro hopt; clear_value x; rotate_left; unfold x)
    | (intro x; refine same_cut_fst (w := pts) (s0 := st0) x ?_ ?_; rotate_left; intro _; clear_value x; rotate_left; unfold x)
    | (intro x; refine same_cut_snd (w := pts) (s0 := st0) x ?_ ?_; rotate_left; intro _; clear_value x; rotate_left; unfold x)
    | (intro x; clear_value x)
    | (with_reducible apply modDesc_same)
    | (with_reducible apply forAll_same)
    | (with_reducible apply finish_same)
    | (with_reducible apply markStarted_same)
    | (with_reducible apply startCore_same)
    | (with_reducible refine hopt _ (by assumption))
    | (with_reducible exact hopt _ rfl)
    | (with_reducible apply hfun)
    | (intro _)
    | split
    | (with_reducible apply AnswerSame.next)
    | (with_reducible apply same_getD)
    | (refine same_mk hs ?_; intro p hp; cases p <;> first | exact rfl | exact absurd (by assumption) hp)
    | (refine same_mk (by assumption) ?_; intro p hp; cases p <;> first | exact rfl | exact absurd (by assumption) hp)
    | (dsimp only)
    | (rename_i he; split at he)
    | (rename_i he; injection he with he; subst he)

theorem endProgram_same {pts : List Part} {st0 : State} (c n st detail : Nat) (s : State) (hs : Agrees pts st0 s) (mdescs : Part.descs ∈ pts) (mclusters : Part.clusters ∈ pts) : Agrees pts st0 (endProgram c n st detail s) := by
  delta endProgram
  repeat' first
    | (with_reducible assumption)
    | (with_reducible rfl)
    | (with_reducible refine fun _ => ?_)
    | lift_lets
    | (intro x; refine same_cut (w := pts) (s0 := st0) x ?_ ?_; rotate_left; intro _; clear_value x; rotate_left; unfold x)
    | (intro x; refine same_cut_ss (w := pts) (s0 := st0) x ?_ ?_; rotate_left; intro hfun; clear_value x; rotate_left; unfold x)
    | (intro x; refine same_cut_ass (w := pts) (s0 := st0) x ?_ ?_; rotate_left; intro hfun; clear_value x; rotate_left; unfold x)
    | (intro x; refine same_cut_abss (w := pts) (s0 := st0) x ?_ ?_; rotate_left; intro hfun; clear_value x; rotate_left; unfold x)
    | (intro x; refine same_cut_a (w := pts) (s0 := st0) x ?_ ?_; rotate_left; intro hfun; clear_value x; rotate_left; unfold x)
    | (intro x; refine same_cut_ab (w := pts) (s0 := st0) x ?_ ?_; rotate_left; intro hfun; clear_value x; rotate_left; unfold x)
    | (intro x; refine same_cut_abc (w := pts) (s0 := st0) x ?_ ?_; rotate_left; intro hfun; clear_value x; rotate_left; unfold x)
    | (intro x; refine same_cut_o1 (w := pts) (s0 := st0) x ?_ ?_; rotate_left; intro hopt; clear_value x; rotate_left; unfold x)
    | (intro x; refine same_cut_o (w := pts) (s0 := st0) x ?_ ?_; rotate_left; intro hopt; clear_value x; rotate_left; unfold x)
    | (intro x; refine same_cut_fst (w := pts) (s0 := st0) x ?_ ?_; rotate_left; intro _; clear_value x; rotate_left; unfold x)
    | (intro x; refine same_cut_snd (w := pts) (s0 := st0) x ?_ ?_; rotate_left; intro _; clear_value x; rotate_left; unfold x)
    | (intro x; clear_value x)
    | (with_reducible apply modCore_same)
    | (with_reducible apply modDesc_same)
    | (with_reducible apply finish_same)
    | (with_reducible refine hopt _ (by assumption))
    | (with_reducible exact hopt _ rfl)
    | (with_reducible apply hfun)
    | (intro _)
    | split
    | (with_reducible apply AnswerSame.next)
    | (with_reducible apply same_getD)
    | (refine same_mk hs ?_; intro p hp; cases p <;> first | exact rfl | exact absurd (by assumption) hp)
    | (refine same_mk (by assumption) ?_; intro p hp; cases p <;> first | exact rfl | exact absurd (by assumption) hp)
    | (dsimp only)
    | (rename_i he; split at he)
    | (rename_i he; injection he with he; subst he)

theorem trapCore_same {pts : List Part} {st0 : State} (c n : Nat) (kind : TrapKind) (mcause addr : Nat) (s : State) (hs : Agrees pts st0 s) (mglb : Part.glb ∈ pts) (mevents : Part.events ∈ pts) (mdescs : Part.descs ∈ pts) (mclusters : Part.clusters ∈ pts) (mstks : Part.stks ∈ pts) : Agrees pts st0 (trapCore c n kind mcause addr s) := by
  delta trapCore
  repeat' first
    | (with_reducible assumption)
    | (with_reducible rfl)
    | (with_reducible refine fun _ => ?_)
    | lift_lets
    | (intro x; refine same_cut (w := pts) (s0 := st0) x ?_ ?_; rotate_left; intro _; clear_value x; rotate_left; unfold x)
    | (intro x; refine same_cut_ss (w := pts) (s0 := st0) x ?_ ?_; rotate_left; intro hfun; clear_value x; rotate_left; unfold x)
    | (intro x; refine same_cut_ass (w := pts) (s0 := st0) x ?_ ?_; rotate_left; intro hfun; clear_value x; rotate_left; unfold x)
    | (intro x; refine same_cut_abss (w := pts) (s0 := st0) x ?_ ?_; rotate_left; intro hfun; clear_value x; rotate_left; unfold x)
    | (intro x; refine same_cut_a (w := pts) (s0 := st0) x ?_ ?_; rotate_left; intro hfun; clear_value x; rotate_left; unfold x)
    | (intro x; refine same_cut_ab (w := pts) (s0 := st0) x ?_ ?_; rotate_left; intro hfun; clear_value x; rotate_left; unfold x)
    | (intro x; refine same_cut_abc (w := pts) (s0 := st0) x ?_ ?_; rotate_left; intro hfun; clear_value x; rotate_left; unfold x)
    | (intro x; refine same_cut_o1 (w := pts) (s0 := st0) x ?_ ?_; rotate_left; intro hopt; clear_value x; rotate_left; unfold x)
    | (intro x; refine same_cut_o (w := pts) (s0 := st0) x ?_ ?_; rotate_left; intro hopt; clear_value x; rotate_left; unfold x)
    | (intro x; refine same_cut_fst (w := pts) (s0 := st0) x ?_ ?_; rotate_left; intro _; clear_value x; rotate_left; unfold x)
    | (intro x; refine same_cut_snd (w := pts) (s0 := st0) x ?_ ?_; rotate_left; intro _; clear_value x; rotate_left; unfold x)
    | (intro x; clear_value x)
    | (with_reducible apply modCore_same)
    | (with_reducible apply modDesc_same)
    | (with_reducible apply forAll_same)
    | (with_reducible apply logCluster_same)
    | (with_reducible apply logUncovered_same)
    | (with_reducible apply finish_same)
    | (with_reducible apply logRefused_same)
    | (with_reducible apply endProgram_same)
    | (with_reducible refine hopt _ (by assumption))
    | (with_reducible exact hopt _ rfl)
    | (with_reducible apply hfun)
    | (intro _)
    | split
    | (with_reducible apply AnswerSame.next)
    | (with_reducible apply same_getD)
    | (refine same_mk hs ?_; intro p hp; cases p <;> first | exact rfl | exact absurd (by assumption) hp)
    | (refine same_mk (by assumption) ?_; intro p hp; cases p <;> first | exact rfl | exact absurd (by assumption) hp)
    | (dsimp only)
    | (rename_i he; split at he)
    | (rename_i he; injection he with he; subst he)

theorem issueDesc_same {pts : List Part} {st0 : State} (c n rd off : Nat) (s : State) (hs : Agrees pts st0 s) (mglb : Part.glb ∈ pts) (mevents : Part.events ∈ pts) (mfab : Part.fab ∈ pts) (mqueues : Part.queues ∈ pts) (mdescs : Part.descs ∈ pts) (mnextDesc : Part.nextDesc ∈ pts) (mclusters : Part.clusters ∈ pts) (mstks : Part.stks ∈ pts) (mstreams : Part.streams ∈ pts) (mfreeCtr : Part.freeCtr ∈ pts) : Agrees pts st0 (issueDesc c n rd off s) := by
  delta issueDesc
  repeat' first
    | (with_reducible assumption)
    | (with_reducible rfl)
    | (with_reducible refine fun _ => ?_)
    | lift_lets
    | (intro x; refine same_cut (w := pts) (s0 := st0) x ?_ ?_; rotate_left; intro _; clear_value x; rotate_left; unfold x)
    | (intro x; refine same_cut_ss (w := pts) (s0 := st0) x ?_ ?_; rotate_left; intro hfun; clear_value x; rotate_left; unfold x)
    | (intro x; refine same_cut_ass (w := pts) (s0 := st0) x ?_ ?_; rotate_left; intro hfun; clear_value x; rotate_left; unfold x)
    | (intro x; refine same_cut_abss (w := pts) (s0 := st0) x ?_ ?_; rotate_left; intro hfun; clear_value x; rotate_left; unfold x)
    | (intro x; refine same_cut_a (w := pts) (s0 := st0) x ?_ ?_; rotate_left; intro hfun; clear_value x; rotate_left; unfold x)
    | (intro x; refine same_cut_ab (w := pts) (s0 := st0) x ?_ ?_; rotate_left; intro hfun; clear_value x; rotate_left; unfold x)
    | (intro x; refine same_cut_abc (w := pts) (s0 := st0) x ?_ ?_; rotate_left; intro hfun; clear_value x; rotate_left; unfold x)
    | (intro x; refine same_cut_o1 (w := pts) (s0 := st0) x ?_ ?_; rotate_left; intro hopt; clear_value x; rotate_left; unfold x)
    | (intro x; refine same_cut_o (w := pts) (s0 := st0) x ?_ ?_; rotate_left; intro hopt; clear_value x; rotate_left; unfold x)
    | (intro x; refine same_cut_fst (w := pts) (s0 := st0) x ?_ ?_; rotate_left; intro _; clear_value x; rotate_left; unfold x)
    | (intro x; refine same_cut_snd (w := pts) (s0 := st0) x ?_ ?_; rotate_left; intro _; clear_value x; rotate_left; unfold x)
    | (intro x; clear_value x)
    | (with_reducible apply modCore_same)
    | (with_reducible apply modDesc_same)
    | (with_reducible apply markRead_same)
    | (with_reducible apply finish_same)
    | (with_reducible apply takeDesc_same)
    | (with_reducible apply logPoison_same)
    | (with_reducible apply stall_same)
    | (with_reducible refine hopt _ (by assumption))
    | (with_reducible exact hopt _ rfl)
    | (with_reducible apply hfun)
    | (intro _)
    | split
    | (with_reducible apply AnswerSame.next)
    | (with_reducible apply same_getD)
    | (refine same_mk hs ?_; intro p hp; cases p <;> first | exact rfl | exact absurd (by assumption) hp)
    | (refine same_mk (by assumption) ?_; intro p hp; cases p <;> first | exact rfl | exact absurd (by assumption) hp)
    | (dsimp only)
    | (rename_i he; split at he)
    | (rename_i he; injection he with he; subst he)

theorem onCore_same {pts : List Part} {st0 : State} (c n : Nat) (f : Core → State → State) (s : State) (hs : Agrees pts st0 s) (hf : ∀ x0 x1, Agrees pts st0 x1 → Agrees pts st0 (f x0 x1))  : Agrees pts st0 (onCore c n f s) := by
  delta onCore
  repeat' first
    | (with_reducible assumption)
    | (with_reducible apply hf)
    | split

theorem execRun_same {pts : List Part} {st0 : State} (d : Nat) (s : State) (hs : Agrees pts st0 s) (mfab : Part.fab ∈ pts) (mdescs : Part.descs ∈ pts) (mclusters : Part.clusters ∈ pts) (mstks : Part.stks ∈ pts) (mstreams : Part.streams ∈ pts) : AnswerSame pts st0 (execRun d s) := by
  delta execRun
  repeat' first
    | (with_reducible assumption)
    | lift_lets
    | (with_reducible apply startRun_same)
    | split
    | (with_reducible apply AnswerSame.next)

theorem execTiIssue_same {pts : List Part} {st0 : State} (c n rd : Nat) (rs1 : Word) (s : State) (hs : Agrees pts st0 s) (mglb : Part.glb ∈ pts) (mevents : Part.events ∈ pts) (mfab : Part.fab ∈ pts) (mqueues : Part.queues ∈ pts) (mdescs : Part.descs ∈ pts) (mnextDesc : Part.nextDesc ∈ pts) (mclusters : Part.clusters ∈ pts) (mstks : Part.stks ∈ pts) (mstreams : Part.streams ∈ pts) (mfreeCtr : Part.freeCtr ∈ pts) : AnswerSame pts st0 (execTiIssue c n rd rs1 s) := by
  delta execTiIssue
  repeat' first
    | (with_reducible assumption)
    | (with_reducible refine fun _ => ?_)
    | lift_lets
    | (with_reducible apply stall_same)
    | (with_reducible apply trapCore_same)
    | (with_reducible apply issueDesc_same)
    | (with_reducible apply onCore_same)
    | split
    | (with_reducible apply AnswerSame.next)

theorem execTiWait_same {pts : List Part} {st0 : State} (c n rd : Nat) (rs1 : Word) (s : State) (hs : Agrees pts st0 s) (mclusters : Part.clusters ∈ pts) : AnswerSame pts st0 (execTiWait c n rd rs1 s) := by
  delta execTiWait
  repeat' first
    | (with_reducible assumption)
    | (with_reducible refine fun _ => ?_)
    | lift_lets
    | (with_reducible apply retireX_same)
    | (with_reducible apply stall_same)
    | (with_reducible apply onCore_same)
    | split
    | (with_reducible apply AnswerSame.next)

theorem execTiPoll_same {pts : List Part} {st0 : State} (c n rd : Nat) (rs1 : Word) (s : State) (hs : Agrees pts st0 s) (mclusters : Part.clusters ∈ pts) : AnswerSame pts st0 (execTiPoll c n rd rs1 s) := by
  delta execTiPoll
  repeat' first
    | (with_reducible assumption)
    | (with_reducible refine fun _ => ?_)
    | lift_lets
    | (with_reducible apply retireX_same)
    | (with_reducible apply onCore_same)
    | (with_reducible apply AnswerSame.next)

theorem execTiFence_same {pts : List Part} {st0 : State} (c n : Nat) (s : State) (hs : Agrees pts st0 s) (mclusters : Part.clusters ∈ pts) : AnswerSame pts st0 (execTiFence c n s) := by
  delta execTiFence
  repeat' first
    | (with_reducible assumption)
    | (with_reducible refine fun _ => ?_)
    | lift_lets
    | (with_reducible apply modCore_same)
    | (with_reducible apply stall_same)
    | (with_reducible apply onCore_same)
    | split
    | (with_reducible apply AnswerSame.next)

theorem execTiScw_same {pts : List Part} {st0 : State} (c n : Nat) (rs1 rs2 : Word) (s : State) (hs : Agrees pts st0 s) (mglb : Part.glb ∈ pts) (mevents : Part.events ∈ pts) (mdescs : Part.descs ∈ pts) (mclusters : Part.clusters ∈ pts) (mstks : Part.stks ∈ pts) : AnswerSame pts st0 (execTiScw c n rs1 rs2 s) := by
  delta execTiScw
  repeat' first
    | (with_reducible assumption)
    | (with_reducible refine fun _ => ?_)
    | lift_lets
    | (intro x; clear_value x)
    | (with_reducible apply modCluster_same)
    | (with_reducible apply modCore_same)
    | (with_reducible apply trapCore_same)
    | (with_reducible apply onCore_same)
    | split
    | (with_reducible apply AnswerSame.next)

theorem execTiScr_same {pts : List Part} {st0 : State} (c n rd : Nat) (rs1 : Word) (s : State) (hs : Agrees pts st0 s) (mclusters : Part.clusters ∈ pts) : AnswerSame pts st0 (execTiScr c n rd rs1 s) := by
  delta execTiScr
  repeat' first
    | (with_reducible assumption)
    | (with_reducible refine fun _ => ?_)
    | lift_lets
    | (intro x; clear_value x)
    | (with_reducible apply retireX_same)
    | (with_reducible apply onCore_same)
    | (with_reducible apply AnswerSame.next)

theorem execTiSumrd_same {pts : List Part} {st0 : State} (c n rd : Nat) (rs1 : Word) (s : State) (hs : Agrees pts st0 s) (mclusters : Part.clusters ∈ pts) : AnswerSame pts st0 (execTiSumrd c n rd rs1 s) := by
  delta execTiSumrd
  repeat' first
    | (with_reducible assumption)
    | (with_reducible refine fun _ => ?_)
    | lift_lets
    | (with_reducible apply retireX_same)
    | (with_reducible apply onCore_same)
    | (with_reducible apply AnswerSame.next)

theorem execTiSumst_same {pts : List Part} {st0 : State} (c n rd : Nat) (rs1 : Word) (s : State) (hs : Agrees pts st0 s) (mclusters : Part.clusters ∈ pts) : AnswerSame pts st0 (execTiSumst c n rd rs1 s) := by
  delta execTiSumst
  repeat' first
    | (with_reducible assumption)
    | (with_reducible refine fun _ => ?_)
    | lift_lets
    | (with_reducible apply retireX_same)
    | (with_reducible apply onCore_same)
    | (with_reducible apply AnswerSame.next)

theorem execTiSumwait_same {pts : List Part} {st0 : State} (c n : Nat) (rs1 rs2 : Word) (s : State) (hs : Agrees pts st0 s) (mclusters : Part.clusters ∈ pts) : AnswerSame pts st0 (execTiSumwait c n rs1 rs2 s) := by
  delta execTiSumwait
  repeat' first
    | (with_reducible assumption)
    | (with_reducible refine fun _ => ?_)
    | lift_lets
    | (intro x; clear_value x)
    | (with_reducible apply modCore_same)
    | (with_reducible apply stall_same)
    | (with_reducible apply onCore_same)
    | split
    | (with_reducible apply AnswerSame.next)

theorem execTiRod_same {pts : List Part} {st0 : State} (c n rd : Nat) (s : State) (hs : Agrees pts st0 s) (mclusters : Part.clusters ∈ pts) : AnswerSame pts st0 (execTiRod c n rd s) := by
  delta execTiRod
  repeat' first
    | (with_reducible assumption)
    | (with_reducible refine fun _ => ?_)
    | lift_lets
    | (with_reducible apply retireX_same)
    | (with_reducible apply onCore_same)
    | (with_reducible apply AnswerSame.next)

theorem execTiRodwait_same {pts : List Part} {st0 : State} (c n rd : Nat) (rs1 : Word) (s : State) (hs : Agrees pts st0 s) (mclusters : Part.clusters ∈ pts) : AnswerSame pts st0 (execTiRodwait c n rd rs1 s) := by
  delta execTiRodwait
  repeat' first
    | (with_reducible assumption)
    | (with_reducible refine fun _ => ?_)
    | lift_lets
    | (intro x; clear_value x)
    | (with_reducible apply retireX_same)
    | (with_reducible apply stall_same)
    | (with_reducible apply onCore_same)
    | split
    | (with_reducible apply AnswerSame.next)

theorem execTiSyncrd_same {pts : List Part} {st0 : State} (c n rd : Nat) (rs1 : Word) (s : State) (hs : Agrees pts st0 s) (mclusters : Part.clusters ∈ pts) : AnswerSame pts st0 (execTiSyncrd c n rd rs1 s) := by
  delta execTiSyncrd
  repeat' first
    | (with_reducible assumption)
    | (with_reducible refine fun _ => ?_)
    | lift_lets
    | (intro x; clear_value x)
    | (with_reducible apply retireX_same)
    | (with_reducible apply onCore_same)
    | (with_reducible apply AnswerSame.next)

theorem execTiSyncadd_same {pts : List Part} {st0 : State} (c n : Nat) (rs1 rs2 : Word) (s : State) (hs : Agrees pts st0 s) (mroods : Part.roods ∈ pts) (mclusters : Part.clusters ∈ pts) : AnswerSame pts st0 (execTiSyncadd c n rs1 rs2 s) := by
  delta execTiSyncadd
  repeat' first
    | (with_reducible assumption)
    | (with_reducible refine fun _ => ?_)
    | lift_lets
    | (with_reducible apply modCore_same)
    | (with_reducible apply ctrAdd_same)
    | (with_reducible apply onCore_same)
    | (with_reducible apply AnswerSame.next)

theorem execTiSyncset_same {pts : List Part} {st0 : State} (c n : Nat) (rs1 rs2 : Word) (s : State) (hs : Agrees pts st0 s) (mroods : Part.roods ∈ pts) (mclusters : Part.clusters ∈ pts) : AnswerSame pts st0 (execTiSyncset c n rs1 rs2 s) := by
  delta execTiSyncset
  repeat' first
    | (with_reducible assumption)
    | (with_reducible rfl)
    | (with_reducible refine fun _ => ?_)
    | lift_lets
    | (intro x; refine same_cut (w := pts) (s0 := st0) x ?_ ?_; rotate_left; intro _; clear_value x; rotate_left; unfold x)
    | (intro x; refine same_cut_ss (w := pts) (s0 := st0) x ?_ ?_; rotate_left; intro hfun; clear_value x; rotate_left; unfold x)
    | (intro x; refine same_cut_ass (w := pts) (s0 := st0) x ?_ ?_; rotate_left; intro hfun; clear_value x; rotate_left; unfold x)
    | (intro x; refine same_cut_abss (w := pts) (s0 := st0) x ?_ ?_; rotate_left; intro hfun; clear_value x; rotate_left; unfold x)
    | (intro x; refine same_cut_a (w := pts) (s0 := st0) x ?_ ?_; rotate_left; intro hfun; clear_value x; rotate_left; unfold x)
    | (intro x; refine same_cut_ab (w := pts) (s0 := st0) x ?_ ?_; rotate_left; intro hfun; clear_value x; rotate_left; unfold x)
    | (intro x; refine same_cut_abc (w := pts) (s0 := st0) x ?_ ?_; rotate_left; intro hfun; clear_value x; rotate_left; unfold x)
    | (intro x; refine same_cut_o1 (w := pts) (s0 := st0) x ?_ ?_; rotate_left; intro hopt; clear_value x; rotate_left; unfold x)
    | (intro x; refine same_cut_o (w := pts) (s0 := st0) x ?_ ?_; rotate_left; intro hopt; clear_value x; rotate_left; unfold x)
    | (intro x; refine same_cut_fst (w := pts) (s0 := st0) x ?_ ?_; rotate_left; intro _; clear_value x; rotate_left; unfold x)
    | (intro x; refine same_cut_snd (w := pts) (s0 := st0) x ?_ ?_; rotate_left; intro _; clear_value x; rotate_left; unfold x)
    | (intro x; clear_value x)
    | (with_reducible apply modCore_same)
    | (with_reducible apply ctrPut_same)
    | (with_reducible apply onCore_same)
    | (with_reducible refine hopt _ (by assumption))
    | (with_reducible exact hopt _ rfl)
    | (with_reducible apply hfun)
    | (intro _)
    | split
    | (with_reducible apply AnswerSame.next)
    | (with_reducible apply same_getD)
    | (refine same_mk hs ?_; intro p hp; cases p <;> first | exact rfl | exact absurd (by assumption) hp)
    | (refine same_mk (by assumption) ?_; intro p hp; cases p <;> first | exact rfl | exact absurd (by assumption) hp)
    | (dsimp only)
    | (rename_i he; split at he)
    | (rename_i he; injection he with he; subst he)

theorem execTiExit_same {pts : List Part} {st0 : State} (c n : Nat) (rs1 : Word) (s : State) (hs : Agrees pts st0 s) (mdescs : Part.descs ∈ pts) (mclusters : Part.clusters ∈ pts) : AnswerSame pts st0 (execTiExit c n rs1 s) := by
  delta execTiExit
  repeat' first
    | (with_reducible assumption)
    | (with_reducible refine fun _ => ?_)
    | lift_lets
    | (intro x; clear_value x)
    | (with_reducible apply modCore_same)
    | (with_reducible apply stall_same)
    | (with_reducible apply endProgram_same)
    | (with_reducible apply onCore_same)
    | split
    | (with_reducible apply AnswerSame.next)

theorem wakeCore_same {pts : List Part} {st0 : State} (c n : Nat) (k : Core) (w : CoreWait) (s : State) (hs : Agrees pts st0 s) (mglb : Part.glb ∈ pts) (mevents : Part.events ∈ pts) (mfab : Part.fab ∈ pts) (mqueues : Part.queues ∈ pts) (mdescs : Part.descs ∈ pts) (mnextDesc : Part.nextDesc ∈ pts) (mclusters : Part.clusters ∈ pts) (mstks : Part.stks ∈ pts) (mstreams : Part.streams ∈ pts) (mfreeCtr : Part.freeCtr ∈ pts) : Agrees pts st0 (wakeCore c n k w s) := by
  delta wakeCore
  repeat' first
    | (with_reducible assumption)
    | lift_lets
    | (intro x; clear_value x)
    | (with_reducible apply modCore_same)
    | (with_reducible apply endProgram_same)
    | (with_reducible apply issueDesc_same)
    | split

theorem execCoreWaitWake_same {pts : List Part} {st0 : State} (c n : Nat) (s : State) (hs : Agrees pts st0 s) (mglb : Part.glb ∈ pts) (mevents : Part.events ∈ pts) (mfab : Part.fab ∈ pts) (mqueues : Part.queues ∈ pts) (mdescs : Part.descs ∈ pts) (mnextDesc : Part.nextDesc ∈ pts) (mclusters : Part.clusters ∈ pts) (mstks : Part.stks ∈ pts) (mstreams : Part.streams ∈ pts) (mfreeCtr : Part.freeCtr ∈ pts) : AnswerSame pts st0 (execCoreWaitWake c n s) := by
  delta execCoreWaitWake
  repeat' first
    | (with_reducible assumption)
    | (with_reducible rfl)
    | (with_reducible refine fun _ => ?_)
    | lift_lets
    | (intro x; refine same_cut (w := pts) (s0 := st0) x ?_ ?_; rotate_left; intro _; clear_value x; rotate_left; unfold x)
    | (intro x; refine same_cut_ss (w := pts) (s0 := st0) x ?_ ?_; rotate_left; intro hfun; clear_value x; rotate_left; unfold x)
    | (intro x; refine same_cut_ass (w := pts) (s0 := st0) x ?_ ?_; rotate_left; intro hfun; clear_value x; rotate_left; unfold x)
    | (intro x; refine same_cut_abss (w := pts) (s0 := st0) x ?_ ?_; rotate_left; intro hfun; clear_value x; rotate_left; unfold x)
    | (intro x; refine same_cut_a (w := pts) (s0 := st0) x ?_ ?_; rotate_left; intro hfun; clear_value x; rotate_left; unfold x)
    | (intro x; refine same_cut_ab (w := pts) (s0 := st0) x ?_ ?_; rotate_left; intro hfun; clear_value x; rotate_left; unfold x)
    | (intro x; refine same_cut_abc (w := pts) (s0 := st0) x ?_ ?_; rotate_left; intro hfun; clear_value x; rotate_left; unfold x)
    | (intro x; refine same_cut_o1 (w := pts) (s0 := st0) x ?_ ?_; rotate_left; intro hopt; clear_value x; rotate_left; unfold x)
    | (intro x; refine same_cut_o (w := pts) (s0 := st0) x ?_ ?_; rotate_left; intro hopt; clear_value x; rotate_left; unfold x)
    | (intro x; refine same_cut_fst (w := pts) (s0 := st0) x ?_ ?_; rotate_left; intro _; clear_value x; rotate_left; unfold x)
    | (intro x; refine same_cut_snd (w := pts) (s0 := st0) x ?_ ?_; rotate_left; intro _; clear_value x; rotate_left; unfold x)
    | (intro x; clear_value x)
    | (with_reducible apply wakeCore_same)
    | (with_reducible refine hopt _ (by assumption))
    | (with_reducible exact hopt _ rfl)
    | (with_reducible apply hfun)
    | (intro _)
    | split
    | (with_reducible apply AnswerSame.next)
    | (with_reducible apply same_getD)
    | (refine same_mk hs ?_; intro p hp; cases p <;> first | exact rfl | exact absurd (by assumption) hp)
    | (refine same_mk (by assumption) ?_; intro p hp; cases p <;> first | exact rfl | exact absurd (by assumption) hp)
    | (dsimp only)
    | (rename_i he; split at he)
    | (rename_i he; injection he with he; subst he)

theorem programTrap_same {pts : List Part} {st0 : State} (c n mcause addr : Nat) (s : State) (hs : Agrees pts st0 s) (mglb : Part.glb ∈ pts) (mevents : Part.events ∈ pts) (mdescs : Part.descs ∈ pts) (mclusters : Part.clusters ∈ pts) (mstks : Part.stks ∈ pts) (mstreams : Part.streams ∈ pts) : Agrees pts st0 (programTrap c n mcause addr s) := by
  delta programTrap
  repeat' first
    | (with_reducible assumption)
    | (with_reducible rfl)
    | (with_reducible refine fun _ => ?_)
    | lift_lets
    | (intro x; refine same_cut (w := pts) (s0 := st0) x ?_ ?_; rotate_left; intro _; clear_value x; rotate_left; unfold x)
    | (intro x; refine same_cut_ss (w := pts) (s0 := st0) x ?_ ?_; rotate_left; intro hfun; clear_value x; rotate_left; unfold x)
    | (intro x; refine same_cut_ass (w := pts) (s0 := st0) x ?_ ?_; rotate_left; intro hfun; clear_value x; rotate_left; unfold x)
    | (intro x; refine same_cut_abss (w := pts) (s0 := st0) x ?_ ?_; rotate_left; intro hfun; clear_value x; rotate_left; unfold x)
    | (intro x; refine same_cut_a (w := pts) (s0 := st0) x ?_ ?_; rotate_left; intro hfun; clear_value x; rotate_left; unfold x)
    | (intro x; refine same_cut_ab (w := pts) (s0 := st0) x ?_ ?_; rotate_left; intro hfun; clear_value x; rotate_left; unfold x)
    | (intro x; refine same_cut_abc (w := pts) (s0 := st0) x ?_ ?_; rotate_left; intro hfun; clear_value x; rotate_left; unfold x)
    | (intro x; refine same_cut_o1 (w := pts) (s0 := st0) x ?_ ?_; rotate_left; intro hopt; clear_value x; rotate_left; unfold x)
    | (intro x; refine same_cut_o (w := pts) (s0 := st0) x ?_ ?_; rotate_left; intro hopt; clear_value x; rotate_left; unfold x)
    | (intro x; refine same_cut_fst (w := pts) (s0 := st0) x ?_ ?_; rotate_left; intro _; clear_value x; rotate_left; unfold x)
    | (intro x; refine same_cut_snd (w := pts) (s0 := st0) x ?_ ?_; rotate_left; intro _; clear_value x; rotate_left; unfold x)
    | (intro x; clear_value x)
    | (with_reducible apply logRingRefused_same)
    | (with_reducible apply trapCore_same)
    | (with_reducible refine hopt _ (by assumption))
    | (with_reducible exact hopt _ rfl)
    | (with_reducible apply hfun)
    | (intro _)
    | split
    | (with_reducible apply AnswerSame.next)
    | (with_reducible apply same_getD)
    | (refine same_mk hs ?_; intro p hp; cases p <;> first | exact rfl | exact absurd (by assumption) hp)
    | (refine same_mk (by assumption) ?_; intro p hp; cases p <;> first | exact rfl | exact absurd (by assumption) hp)
    | (dsimp only)
    | (rename_i he; split at he)
    | (rename_i he; injection he with he; subst he)

theorem execCoreTrap_same {pts : List Part} {st0 : State} (c n : Nat) (_kind : TrapKind) (mcause addr : Nat) (s : State) (hs : Agrees pts st0 s) (mglb : Part.glb ∈ pts) (mevents : Part.events ∈ pts) (mdescs : Part.descs ∈ pts) (mclusters : Part.clusters ∈ pts) (mstks : Part.stks ∈ pts) (mstreams : Part.streams ∈ pts) : AnswerSame pts st0 (execCoreTrap c n _kind mcause addr s) := by
  delta execCoreTrap
  repeat' first
    | (with_reducible assumption)
    | (with_reducible rfl)
    | (with_reducible refine fun _ => ?_)
    | lift_lets
    | (intro x; refine same_cut (w := pts) (s0 := st0) x ?_ ?_; rotate_left; intro _; clear_value x; rotate_left; unfold x)
    | (intro x; refine same_cut_ss (w := pts) (s0 := st0) x ?_ ?_; rotate_left; intro hfun; clear_value x; rotate_left; unfold x)
    | (intro x; refine same_cut_ass (w := pts) (s0 := st0) x ?_ ?_; rotate_left; intro hfun; clear_value x; rotate_left; unfold x)
    | (intro x; refine same_cut_abss (w := pts) (s0 := st0) x ?_ ?_; rotate_left; intro hfun; clear_value x; rotate_left; unfold x)
    | (intro x; refine same_cut_a (w := pts) (s0 := st0) x ?_ ?_; rotate_left; intro hfun; clear_value x; rotate_left; unfold x)
    | (intro x; refine same_cut_ab (w := pts) (s0 := st0) x ?_ ?_; rotate_left; intro hfun; clear_value x; rotate_left; unfold x)
    | (intro x; refine same_cut_abc (w := pts) (s0 := st0) x ?_ ?_; rotate_left; intro hfun; clear_value x; rotate_left; unfold x)
    | (intro x; refine same_cut_o1 (w := pts) (s0 := st0) x ?_ ?_; rotate_left; intro hopt; clear_value x; rotate_left; unfold x)
    | (intro x; refine same_cut_o (w := pts) (s0 := st0) x ?_ ?_; rotate_left; intro hopt; clear_value x; rotate_left; unfold x)
    | (intro x; refine same_cut_fst (w := pts) (s0 := st0) x ?_ ?_; rotate_left; intro _; clear_value x; rotate_left; unfold x)
    | (intro x; refine same_cut_snd (w := pts) (s0 := st0) x ?_ ?_; rotate_left; intro _; clear_value x; rotate_left; unfold x)
    | (intro x; clear_value x)
    | (with_reducible apply onCore_same)
    | (with_reducible apply programTrap_same)
    | (with_reducible refine hopt _ (by assumption))
    | (with_reducible exact hopt _ rfl)
    | (with_reducible apply hfun)
    | (intro _)
    | split
    | (with_reducible apply AnswerSame.next)
    | (with_reducible apply same_getD)
    | (refine same_mk hs ?_; intro p hp; cases p <;> first | exact rfl | exact absurd (by assumption) hp)
    | (refine same_mk (by assumption) ?_; intro p hp; cases p <;> first | exact rfl | exact absurd (by assumption) hp)
    | (dsimp only)
    | (rename_i he; split at he)
    | (rename_i he; injection he with he; subst he)

end Sys2Proof.Laws
end

