-- ==== Sys2Proof/Laws/TouchFabric.lean ====
section
/-! SUPPORT. Which parts of the state every operation of Machine/Fabric.lean may change (Laws/Touch.lean). -/
namespace Sys2Proof.Laws

set_option linter.unusedVariables false

open Sys2Proof.Machine Sys2Proof.Safety

theorem modXfer_same {pts : List Part} {st0 : State} (x : Nat) (f : Xfer → Xfer) (s : State) (hs : Agrees pts st0 s) (mfab : Part.fab ∈ pts) : Agrees pts st0 (modXfer x f s) := by
  delta modXfer
  repeat' first
    | (with_reducible assumption)
    | (with_reducible apply modFab_same)

theorem endXfer_same {pts : List Part} {st0 : State} (x : Nat) (k : Xfer) (st : Nat) (s : State) (hs : Agrees pts st0 s) (mfab : Part.fab ∈ pts) (mdescs : Part.descs ∈ pts) (mbinds : Part.binds ∈ pts) : Agrees pts st0 (endXfer x k st s) := by
  delta endXfer
  repeat' first
    | (with_reducible assumption)
    | (with_reducible rfl)
    | (with_reducible refine fun _ => ?_)
    | lift_lets
    | (intro x; refine same_cut (w := pts) (s0 := st0) x ?_ ?_; rotate_left; intro _; clear_value x; rotate_left; unfold x)
    | (intro x; refine same_cut_ss (w := pts) (s0 := st0) x ?_ ?_; rotate_left; intro hfun; clear_value x; rotate_left; unfold x)
    | (intro x; refine same_cut_ass (w := pts) (s0 := st0) x ?_ ?_; rotate_left; intro hfun; clear_value x; rotate_left; unfold x)
    | (intro x; refine same_cut_abss (w := pts) (s0 := st0) x ?_ ?_; rotate_left; intro hfun; clear_value x; rotate_left; unfold x)
    | (intro x; refine same_cut_a (w := pts) (s0 := st0) x ?_ ?_; rotate_left; intro hfun; clear_value x; rotate_left; unfold x)
    | (intro x; refine same_cut_ab (w := pts) (s0 := st0) x ?_ ?_; rotate_left; intro hfun; clear_value x; rotate_left; unfold x)
    | (intro x; refine same_cut_abc (w := pts) (s0 := st0) x ?_ ?_; rotate_left; intro hfun; clear_value x; rotate_left; unfold x)
    | (intro x; refine same_cut_o1 (w := pts) (s0 := st0) x ?_ ?_; rotate_left; intro hopt; clear_value x; rotate_left; unfold x)
    | (intro x; refine same_cut_o (w := pts) (s0 := st0) x ?_ ?_; rotate_left; intro hopt; clear_value x; rotate_left; unfold x)
    | (intro x; refine same_cut_fst (w := pts) (s0 := st0) x ?_ ?_; rotate_left; intro _; clear_value x; rotate_left; unfold x)
    | (intro x; refine same_cut_snd (w := pts) (s0 := st0) x ?_ ?_; rotate_left; intro _; clear_value x; rotate_left; unfold x)
    | (intro x; clear_value x)
    | (with_reducible apply modBind_same)
    | (with_reducible apply modFab_same)
    | (with_reducible apply finish_same)
    | (with_reducible refine hopt _ (by assumption))
    | (with_reducible exact hopt _ rfl)
    | (with_reducible apply hfun)
    | (intro _)
    | split
    | (with_reducible apply AnswerSame.next)
    | (with_reducible apply same_getD)
    | (refine same_mk hs ?_; intro p hp; cases p <;> first | exact rfl | exact absurd (by assumption) hp)
    | (refine same_mk (by assumption) ?_; intro p hp; cases p <;> first | exact rfl | exact absurd (by assumption) hp)
    | (dsimp only)
    | (rename_i he; split at he)
    | (rename_i he; injection he with he; subst he)

theorem sendAll_same {pts : List Part} {st0 : State} (noDetour : Bool) (ps : List Packet) (s : State) (hs : Agrees pts st0 s) (mlinks : Part.links ∈ pts) (mfab : Part.fab ∈ pts) (mfreeCtr : Part.freeCtr ∈ pts) : Agrees pts st0 (sendAll noDetour ps s) := by
  delta sendAll
  repeat' first
    | (with_reducible assumption)
    | (with_reducible refine fun _ => ?_)
    | (with_reducible apply forAll_same)
    | (with_reducible apply sendOn_same)
    | (with_reducible apply sendAdaptive_same)
    | split

theorem sendXfer_same {pts : List Part} {st0 : State} (x slot : Nat) (k : Xfer) (s : State) (hs : Agrees pts st0 s) (mevents : Part.events ∈ pts) (mlinks : Part.links ∈ pts) (mfab : Part.fab ∈ pts) (mdescs : Part.descs ∈ pts) (mstreams : Part.streams ∈ pts) (mbinds : Part.binds ∈ pts) (mfreeCtr : Part.freeCtr ∈ pts) : Agrees pts st0 (sendXfer x slot k s) := by
  delta sendXfer
  repeat' first
    | (with_reducible assumption)
    | (with_reducible rfl)
    | (with_reducible refine fun _ => ?_)
    | lift_lets
    | (intro x; refine same_cut (w := pts) (s0 := st0) x ?_ ?_; rotate_left; intro _; clear_value x; rotate_left; unfold x)
    | (intro x; refine same_cut_ss (w := pts) (s0 := st0) x ?_ ?_; rotate_left; intro hfun; clear_value x; rotate_left; unfold x)
    | (intro x; refine same_cut_ass (w := pts) (s0 := st0) x ?_ ?_; rotate_left; intro hfun; clear_value x; rotate_left; unfold x)
    | (intro x; refine same_cut_abss (w := pts) (s0 := st0) x ?_ ?_; rotate_left; intro hfun; clear_value x; rotate_left; unfold x)
    | (intro x; refine same_cut_a (w := pts) (s0 := st0) x ?_ ?_; rotate_left; intro hfun; clear_value x; rotate_left; unfold x)
    | (intro x; refine same_cut_ab (w := pts) (s0 := st0) x ?_ ?_; rotate_left; intro hfun; clear_value x; rotate_left; unfold x)
    | (intro x; refine same_cut_abc (w := pts) (s0 := st0) x ?_ ?_; rotate_left; intro hfun; clear_value x; rotate_left; unfold x)
    | (intro x; refine same_cut_o1 (w := pts) (s0 := st0) x ?_ ?_; rotate_left; intro hopt; clear_value x; rotate_left; unfold x)
    | (intro x; refine same_cut_o (w := pts) (s0 := st0) x ?_ ?_; rotate_left; intro hopt; clear_value x; rotate_left; unfold x)
    | (intro x; refine same_cut_fst (w := pts) (s0 := st0) x ?_ ?_; rotate_left; intro _; clear_value x; rotate_left; unfold x)
    | (intro x; refine same_cut_snd (w := pts) (s0 := st0) x ?_ ?_; rotate_left; intro _; clear_value x; rotate_left; unfold x)
    | (intro x; clear_value x)
    | (with_reducible apply modFab_same)
    | (with_reducible apply raiseFab_same)
    | (with_reducible apply logPoison_same)
    | (with_reducible apply modXfer_same)
    | (with_reducible apply endXfer_same)
    | (with_reducible apply sendAll_same)
    | (with_reducible refine hopt _ (by assumption))
    | (with_reducible exact hopt _ rfl)
    | (with_reducible apply hfun)
    | (intro _)
    | split
    | (with_reducible apply AnswerSame.next)
    | (with_reducible apply same_getD)
    | (refine same_mk hs ?_; intro p hp; cases p <;> first | exact rfl | exact absurd (by assumption) hp)
    | (refine same_mk (by assumption) ?_; intro p hp; cases p <;> first | exact rfl | exact absurd (by assumption) hp)
    | (dsimp only)
    | (rename_i he; split at he)
    | (rename_i he; injection he with he; subst he)

theorem countSent_same {pts : List Part} {st0 : State} (d n : Nat) (s : State) (hs : Agrees pts st0 s) (mdescs : Part.descs ∈ pts) : Agrees pts st0 (countSent d n s) := by
  delta countSent
  repeat' first
    | (with_reducible assumption)
    | (with_reducible apply modDesc_same)

theorem injectXfer_same {pts : List Part} {st0 : State} (x : Nat) (bushel : Bool) (s : State) (hs : Agrees pts st0 s) (mevents : Part.events ∈ pts) (mlinks : Part.links ∈ pts) (mfab : Part.fab ∈ pts) (mdescs : Part.descs ∈ pts) (mstreams : Part.streams ∈ pts) (mbinds : Part.binds ∈ pts) (mfreeCtr : Part.freeCtr ∈ pts) : Agrees pts st0 (injectXfer x bushel s) := by
  delta injectXfer
  repeat' first
    | (with_reducible assumption)
    | (with_reducible rfl)
    | (with_reducible refine fun _ => ?_)
    | lift_lets
    | (intro x; refine same_cut (w := pts) (s0 := st0) x ?_ ?_; rotate_left; intro _; clear_value x; rotate_left; unfold x)
    | (intro x; refine same_cut_ss (w := pts) (s0 := st0) x ?_ ?_; rotate_left; intro hfun; clear_value x; rotate_left; unfold x)
    | (intro x; refine same_cut_ass (w := pts) (s0 := st0) x ?_ ?_; rotate_left; intro hfun; clear_value x; rotate_left; unfold x)
    | (intro x; refine same_cut_abss (w := pts) (s0 := st0) x ?_ ?_; rotate_left; intro hfun; clear_value x; rotate_left; unfold x)
    | (intro x; refine same_cut_a (w := pts) (s0 := st0) x ?_ ?_; rotate_left; intro hfun; clear_value x; rotate_left; unfold x)
    | (intro x; refine same_cut_ab (w := pts) (s0 := st0) x ?_ ?_; rotate_left; intro hfun; clear_value x; rotate_left; unfold x)
    | (intro x; refine same_cut_abc (w := pts) (s0 := st0) x ?_ ?_; rotate_left; intro hfun; clear_value x; rotate_left; unfold x)
    | (intro x; refine same_cut_o1 (w := pts) (s0 := st0) x ?_ ?_; rotate_left; intro hopt; clear_value x; rotate_left; unfold x)
    | (intro x; refine same_cut_o (w := pts) (s0 := st0) x ?_ ?_; rotate_left; intro hopt; clear_value x; rotate_left; unfold x)
    | (intro x; refine same_cut_fst (w := pts) (s0 := st0) x ?_ ?_; rotate_left; intro _; clear_value x; rotate_left; unfold x)
    | (intro x; refine same_cut_snd (w := pts) (s0 := st0) x ?_ ?_; rotate_left; intro _; clear_value x; rotate_left; unfold x)
    | (intro x; clear_value x)
    | (with_reducible apply modXfer_same)
    | (with_reducible apply sendXfer_same)
    | (with_reducible apply countSent_same)
    | (with_reducible refine hopt _ (by assumption))
    | (with_reducible exact hopt _ rfl)
    | (with_reducible apply hfun)
    | (intro _)
    | split
    | (with_reducible apply AnswerSame.next)
    | (with_reducible apply same_getD)
    | (refine same_mk hs ?_; intro p hp; cases p <;> first | exact rfl | exact absurd (by assumption) hp)
    | (refine same_mk (by assumption) ?_; intro p hp; cases p <;> first | exact rfl | exact absurd (by assumption) hp)
    | (dsimp only)
    | (rename_i he; split at he)
    | (rename_i he; injection he with he; subst he)

theorem openXfer_same {pts : List Part} {st0 : State} (d rood : Nat) (b : XferBody) (s : State) (hs : Agrees pts st0 s) (mfab : Part.fab ∈ pts) : Agrees pts st0 (openXfer d rood b s) := by
  delta openXfer
  repeat' first
    | (with_reducible assumption)
    | (with_reducible apply modFab_same)

theorem startXfer_same {pts : List Part} {st0 : State} (d : Nat) (e : Desc) (b : XferBody) (s : State) (hs : Agrees pts st0 s) (mfab : Part.fab ∈ pts) (mdescs : Part.descs ∈ pts) (mclusters : Part.clusters ∈ pts) (mstks : Part.stks ∈ pts) (mstreams : Part.streams ∈ pts) : Agrees pts st0 (startXfer d e b s) := by
  delta startXfer
  repeat' first
    | (with_reducible assumption)
    | (with_reducible rfl)
    | (with_reducible refine fun _ => ?_)
    | lift_lets
    | (intro x; refine same_cut (w := pts) (s0 := st0) x ?_ ?_; rotate_left; intro _; clear_value x; rotate_left; unfold x)
    | (intro x; refine same_cut_ss (w := pts) (s0 := st0) x ?_ ?_; rotate_left; intro hfun; clear_value x; rotate_left; unfold x)
    | (intro x; refine same_cut_ass (w := pts) (s0 := st0) x ?_ ?_; rotate_left; intro hfun; clear_value x; rotate_left; unfold x)
    | (intro x; refine same_cut_abss (w := pts) (s0 := st0) x ?_ ?_; rotate_left; intro hfun; clear_value x; rotate_left; unfold x)
    | (intro x; refine same_cut_a (w := pts) (s0 := st0) x ?_ ?_; rotate_left; intro hfun; clear_value x; rotate_left; unfold x)
    | (intro x; refine same_cut_ab (w := pts) (s0 := st0) x ?_ ?_; rotate_left; intro hfun; clear_value x; rotate_left; unfold x)
    | (intro x; refine same_cut_abc (w := pts) (s0 := st0) x ?_ ?_; rotate_left; intro hfun; clear_value x; rotate_left; unfold x)
    | (intro x; refine same_cut_o1 (w := pts) (s0 := st0) x ?_ ?_; rotate_left; intro hopt; clear_value x; rotate_left; unfold x)
    | (intro x; refine same_cut_o (w := pts) (s0 := st0) x ?_ ?_; rotate_left; intro hopt; clear_value x; rotate_left; unfold x)
    | (intro x; refine same_cut_fst (w := pts) (s0 := st0) x ?_ ?_; rotate_left; intro _; clear_value x; rotate_left; unfold x)
    | (intro x; refine same_cut_snd (w := pts) (s0 := st0) x ?_ ?_; rotate_left; intro _; clear_value x; rotate_left; unfold x)
    | (intro x; clear_value x)
    | (with_reducible apply markStarted_same)
    | (with_reducible apply openXfer_same)
    | (with_reducible refine hopt _ (by assumption))
    | (with_reducible exact hopt _ rfl)
    | (with_reducible apply hfun)
    | (intro _)
    | split
    | (with_reducible apply AnswerSame.next)
    | (with_reducible apply same_getD)
    | (refine same_mk hs ?_; intro p hp; cases p <;> first | exact rfl | exact absurd (by assumption) hp)
    | (refine same_mk (by assumption) ?_; intro p hp; cases p <;> first | exact rfl | exact absurd (by assumption) hp)
    | (dsimp only)
    | (rename_i he; split at he)
    | (rename_i he; injection he with he; subst he)

theorem startXferIf_same {pts : List Part} {st0 : State} (p : XferBody → Bool) (d : Nat) (s : State) (hs : Agrees pts st0 s) (mfab : Part.fab ∈ pts) (mdescs : Part.descs ∈ pts) (mclusters : Part.clusters ∈ pts) (mstks : Part.stks ∈ pts) (mstreams : Part.streams ∈ pts) : Agrees pts st0 (startXferIf p d s) := by
  delta startXferIf
  repeat' first
    | (with_reducible assumption)
    | (with_reducible apply startXfer_same)
    | split

theorem forwardPkt_same {pts : List Part} {st0 : State} (p : Packet) (s : State) (hs : Agrees pts st0 s) (mlinks : Part.links ∈ pts) (mfab : Part.fab ∈ pts) : Agrees pts st0 (forwardPkt p s) := by
  delta forwardPkt
  repeat' first
    | (with_reducible assumption)
    | (with_reducible apply putOut_same)
    | split

theorem arriving_same {pts : List Part} {st0 : State} (p : Packet) (f : State → State) (s : State) (hs : Agrees pts st0 s) (hf : ∀ x0, Agrees pts st0 x0 → Agrees pts st0 (f x0)) (mevents : Part.events ∈ pts) (mlinks : Part.links ∈ pts) (mfab : Part.fab ∈ pts) : Agrees pts st0 (arriving p f s) := by
  delta arriving
  repeat' first
    | (with_reducible assumption)
    | (with_reducible rfl)
    | (with_reducible apply hf)
    | (with_reducible refine fun _ => ?_)
    | lift_lets
    | (intro x; refine same_cut (w := pts) (s0 := st0) x ?_ ?_; rotate_left; intro _; clear_value x; rotate_left; unfold x)
    | (intro x; refine same_cut_ss (w := pts) (s0 := st0) x ?_ ?_; rotate_left; intro hfun; clear_value x; rotate_left; unfold x)
    | (intro x; refine same_cut_ass (w := pts) (s0 := st0) x ?_ ?_; rotate_left; intro hfun; clear_value x; rotate_left; unfold x)
    | (intro x; refine same_cut_abss (w := pts) (s0 := st0) x ?_ ?_; rotate_left; intro hfun; clear_value x; rotate_left; unfold x)
    | (intro x; refine same_cut_a (w := pts) (s0 := st0) x ?_ ?_; rotate_left; intro hfun; clear_value x; rotate_left; unfold x)
    | (intro x; refine same_cut_ab (w := pts) (s0 := st0) x ?_ ?_; rotate_left; intro hfun; clear_value x; rotate_left; unfold x)
    | (intro x; refine same_cut_abc (w := pts) (s0 := st0) x ?_ ?_; rotate_left; intro hfun; clear_value x; rotate_left; unfold x)
    | (intro x; refine same_cut_o1 (w := pts) (s0 := st0) x ?_ ?_; rotate_left; intro hopt; clear_value x; rotate_left; unfold x)
    | (intro x; refine same_cut_o (w := pts) (s0 := st0) x ?_ ?_; rotate_left; intro hopt; clear_value x; rotate_left; unfold x)
    | (intro x; refine same_cut_fst (w := pts) (s0 := st0) x ?_ ?_; rotate_left; intro _; clear_value x; rotate_left; unfold x)
    | (intro x; refine same_cut_snd (w := pts) (s0 := st0) x ?_ ?_; rotate_left; intro _; clear_value x; rotate_left; unfold x)
    | (intro x; clear_value x)
    | (with_reducible apply countStale_same)
    | (with_reducible apply dropMalformed_same)
    | (with_reducible apply forwardPkt_same)
    | (with_reducible refine hopt _ (by assumption))
    | (with_reducible exact hopt _ rfl)
    | (with_reducible apply hfun)
    | (intro _)
    | split
    | (with_reducible apply AnswerSame.next)
    | (with_reducible apply same_getD)
    | (refine same_mk hs ?_; intro p hp; cases p <;> first | exact rfl | exact absurd (by assumption) hp)
    | (refine same_mk (by assumption) ?_; intro p hp; cases p <;> first | exact rfl | exact absurd (by assumption) hp)
    | (dsimp only)
    | (rename_i he; split at he)
    | (rename_i he; injection he with he; subst he)

theorem intoEntry_same_eq {pts : List Part} {st0 : State} (p : Packet) (s : State) {tOut : State} (hs : Agrees pts st0 s) (mfab : Part.fab ∈ pts) (e : intoEntry p s = some tOut) : Agrees pts st0 tOut := by
  unfold intoEntry at e
  try dsimp only at e
  repeat' split at e
  all_goals try cases e
  all_goals repeat' first
    | (with_reducible assumption)
    | (with_reducible apply modFab_same)

theorem countPkt_same {pts : List Part} {st0 : State} (p : Packet) (st : Nat) (s : State) (hs : Agrees pts st0 s) (mfab : Part.fab ∈ pts) : Agrees pts st0 (countPkt p st s) := by
  delta countPkt
  repeat' first
    | (with_reducible assumption)
    | (with_reducible rfl)
    | (with_reducible refine fun _ => ?_)
    | lift_lets
    | (intro x; refine same_cut (w := pts) (s0 := st0) x ?_ ?_; rotate_left; intro _; clear_value x; rotate_left; unfold x)
    | (intro x; refine same_cut_ss (w := pts) (s0 := st0) x ?_ ?_; rotate_left; intro hfun; clear_value x; rotate_left; unfold x)
    | (intro x; refine same_cut_ass (w := pts) (s0 := st0) x ?_ ?_; rotate_left; intro hfun; clear_value x; rotate_left; unfold x)
    | (intro x; refine same_cut_abss (w := pts) (s0 := st0) x ?_ ?_; rotate_left; intro hfun; clear_value x; rotate_left; unfold x)
    | (intro x; refine same_cut_a (w := pts) (s0 := st0) x ?_ ?_; rotate_left; intro hfun; clear_value x; rotate_left; unfold x)
    | (intro x; refine same_cut_ab (w := pts) (s0 := st0) x ?_ ?_; rotate_left; intro hfun; clear_value x; rotate_left; unfold x)
    | (intro x; refine same_cut_abc (w := pts) (s0 := st0) x ?_ ?_; rotate_left; intro hfun; clear_value x; rotate_left; unfold x)
    | (intro x; refine same_cut_o1 (w := pts) (s0 := st0) x ?_ ?_; rotate_left; intro hopt; clear_value x; rotate_left; unfold x)
    | (intro x; refine same_cut_o (w := pts) (s0 := st0) x ?_ ?_; rotate_left; intro hopt; clear_value x; rotate_left; unfold x)
    | (intro x; refine same_cut_fst (w := pts) (s0 := st0) x ?_ ?_; rotate_left; intro _; clear_value x; rotate_left; unfold x)
    | (intro x; refine same_cut_snd (w := pts) (s0 := st0) x ?_ ?_; rotate_left; intro _; clear_value x; rotate_left; unfold x)
    | (intro x; clear_value x)
    | (with_reducible apply modFab_same)
    | (with_reducible refine hopt _ (by assumption))
    | (with_reducible exact hopt _ rfl)
    | (with_reducible apply hfun)
    | (intro _)
    | split
    | (with_reducible apply AnswerSame.next)
    | (with_reducible apply same_getD)
    | (refine same_mk hs ?_; intro p hp; cases p <;> first | exact rfl | exact absurd (by assumption) hp)
    | (refine same_mk (by assumption) ?_; intro p hp; cases p <;> first | exact rfl | exact absurd (by assumption) hp)
    | (dsimp only)
    | (rename_i he; split at he)
    | (rename_i he; injection he with he; subst he)

theorem refusePkt_same {pts : List Part} {st0 : State} (p : Packet) (st : Nat) (s : State) (hs : Agrees pts st0 s) (mevents : Part.events ∈ pts) (mfab : Part.fab ∈ pts) : Agrees pts st0 (refusePkt p st s) := by
  delta refusePkt
  repeat' first
    | (with_reducible assumption)
    | lift_lets
    | (intro x; refine same_cut (w := pts) (s0 := st0) x ?_ ?_; rotate_left; intro _; clear_value x; rotate_left; unfold x)
    | (intro x; clear_value x)
    | (with_reducible apply modFab_same)
    | (with_reducible apply logEv_same)
    | (with_reducible apply raiseFab_same)
    | (with_reducible apply countPkt_same)
    | split

theorem fabricWriteCheck_same {pts : List Part} {st0 : State} (w : Writer) (r a n : Nat) (s : State) (hs : Agrees pts st0 s) (mglb : Part.glb ∈ pts) (mevents : Part.events ∈ pts) (mstks : Part.stks ∈ pts) (mstreams : Part.streams ∈ pts) : Agrees pts st0 (fabricWriteCheck w r a n s).2 := by
  delta fabricWriteCheck
  repeat' first
    | (with_reducible assumption)
    | (with_reducible apply logUnmapped_same)
    | (with_reducible apply logRingRefused_same)
    | (with_reducible apply logRefused_same)
    | split

theorem fabricWriteCheck_same_eq {pts : List Part} {st0 : State} (w : Writer) (r a n : Nat) (s : State) {tOut : State} {outv : _} (hs : Agrees pts st0 s) (mglb : Part.glb ∈ pts) (mevents : Part.events ∈ pts) (mstks : Part.stks ∈ pts) (mstreams : Part.streams ∈ pts) (e : fabricWriteCheck w r a n s = (outv, tOut)) : Agrees pts st0 tOut := by
  have := fabricWriteCheck_same (pts := pts) (st0 := st0) w r a n s hs mglb mevents mstks mstreams
  rw [e] at this; exact this

theorem fabricPut_same {pts : List Part} {st0 : State} (a : Nat) (bs : List Byte) (s : State) (hs : Agrees pts st0 s) (mstreams : Part.streams ∈ pts) (mmem : Part.mem ∈ pts) : Agrees pts st0 (fabricPut a bs s) := by
  delta fabricPut
  repeat' first
    | (with_reducible assumption)
    | lift_lets
    | (with_reducible apply wrBytes_same)
    | (with_reducible apply clearPoison_same)

theorem writeImage_same {pts : List Part} {st0 : State} (p : Packet) (s : State) (hs : Agrees pts st0 s) (mglb : Part.glb ∈ pts) (mevents : Part.events ∈ pts) (mfab : Part.fab ∈ pts) (mstks : Part.stks ∈ pts) (mstreams : Part.streams ∈ pts) (mmem : Part.mem ∈ pts) (mbushels : Part.bushels ∈ pts) : Agrees pts st0 (writeImage p s) := by
  delta writeImage
  repeat' first
    | (with_reducible assumption)
    | lift_lets
    | (intro x; clear_value x)
    | (with_reducible apply putBushel_same)
    | (with_reducible apply countPkt_same)
    | (with_reducible apply refusePkt_same)
    | (with_reducible refine fabricWriteCheck_same_eq _ _ _ _ _ ?_ ?_ ?_ ?_ ?_ (by assumption))
    | (with_reducible apply fabricPut_same)
    | split

theorem writePkt_same {pts : List Part} {st0 : State} (p : Packet) (s : State) (hs : Agrees pts st0 s) (mglb : Part.glb ∈ pts) (mevents : Part.events ∈ pts) (mfab : Part.fab ∈ pts) (mstks : Part.stks ∈ pts) (mstreams : Part.streams ∈ pts) (mmem : Part.mem ∈ pts) (mbushels : Part.bushels ∈ pts) : Agrees pts st0 (writePkt p s) := by
  delta writePkt
  repeat' first
    | (with_reducible assumption)
    | lift_lets
    | (with_reducible apply countStale_same)
    | (with_reducible refine intoEntry_same_eq _ _ ?_ ?_ (by assumption))
    | (with_reducible apply countPkt_same)
    | (with_reducible apply refusePkt_same)
    | (with_reducible refine fabricWriteCheck_same_eq _ _ _ _ _ ?_ ?_ ?_ ?_ ?_ (by assumption))
    | (with_reducible apply fabricPut_same)
    | (with_reducible apply writeImage_same)
    | split

theorem readPkt_same {pts : List Part} {st0 : State} (p : Packet) (s : State) (hs : Agrees pts st0 s) (mglb : Part.glb ∈ pts) (mevents : Part.events ∈ pts) (mlinks : Part.links ∈ pts) (mfab : Part.fab ∈ pts) (mstreams : Part.streams ∈ pts) (mfreeCtr : Part.freeCtr ∈ pts) : Agrees pts st0 (readPkt p s) := by
  delta readPkt
  repeat' first
    | (with_reducible assumption)
    | (with_reducible rfl)
    | (with_reducible refine fun _ => ?_)
    | lift_lets
    | (intro x; refine same_cut (w := pts) (s0 := st0) x ?_ ?_; rotate_left; intro _; clear_value x; rotate_left; unfold x)
    | (intro x; refine same_cut_ss (w := pts) (s0 := st0) x ?_ ?_; rotate_left; intro hfun; clear_value x; rotate_left; unfold x)
    | (intro x; refine same_cut_ass (w := pts) (s0 := st0) x ?_ ?_; rotate_left; intro hfun; clear_value x; rotate_left; unfold x)
    | (intro x; refine same_cut_abss (w := pts) (s0 := st0) x ?_ ?_; rotate_left; intro hfun; clear_value x; rotate_left; unfold x)
    | (intro x; refine same_cut_a (w := pts) (s0 := st0) x ?_ ?_; rotate_left; intro hfun; clear_value x; rotate_left; unfold x)
    | (intro x; refine same_cut_ab (w := pts) (s0 := st0) x ?_ ?_; rotate_left; intro hfun; clear_value x; rotate_left; unfold x)
    | (intro x; refine same_cut_abc (w := pts) (s0 := st0) x ?_ ?_; rotate_left; intro hfun; clear_value x; rotate_left; unfold x)
    | (intro x; refine same_cut_o1 (w := pts) (s0 := st0) x ?_ ?_; rotate_left; intro hopt; clear_value x; rotate_left; unfold x)
    | (intro x; refine same_cut_o (w := pts) (s0 := st0) x ?_ ?_; rotate_left; intro hopt; clear_value x; rotate_left; unfold x)
    | (intro x; refine same_cut_fst (w := pts) (s0 := st0) x ?_ ?_; rotate_left; intro _; clear_value x; rotate_left; unfold x)
    | (intro x; refine same_cut_snd (w := pts) (s0 := st0) x ?_ ?_; rotate_left; intro _; clear_value x; rotate_left; unfold x)
    | (intro x; clear_value x)
    | (with_reducible apply modFab_same)
    | (with_reducible apply logUnmapped_same)
    | (with_reducible apply markRead_same)
    | (with_reducible apply logPoison_same)
    | (with_reducible apply stall_same)
    | (with_reducible apply countStale_same)
    | (with_reducible apply sendAll_same)
    | (with_reducible refine intoEntry_same_eq _ _ ?_ ?_ (by assumption))
    | (with_reducible apply countPkt_same)
    | (with_reducible apply refusePkt_same)
    | (with_reducible refine hopt _ (by assumption))
    | (with_reducible exact hopt _ rfl)
    | (with_reducible apply hfun)
    | (intro _)
    | split
    | (with_reducible apply AnswerSame.next)
    | (with_reducible apply same_getD)
    | (refine same_mk hs ?_; intro p hp; cases p <;> first | exact rfl | exact absurd (by assumption) hp)
    | (refine same_mk (by assumption) ?_; intro p hp; cases p <;> first | exact rfl | exact absurd (by assumption) hp)
    | (dsimp only)
    | (rename_i he; split at he)
    | (rename_i he; injection he with he; subst he)

theorem readRespPkt_same {pts : List Part} {st0 : State} (p : Packet) (s : State) (hs : Agrees pts st0 s) (mglb : Part.glb ∈ pts) (mevents : Part.events ∈ pts) (mfab : Part.fab ∈ pts) (mdescs : Part.descs ∈ pts) (mstks : Part.stks ∈ pts) (mstreams : Part.streams ∈ pts) (mbinds : Part.binds ∈ pts) (mmem : Part.mem ∈ pts) : Agrees pts st0 (readRespPkt p s) := by
  delta readRespPkt
  repeat' first
    | (with_reducible assumption)
    | lift_lets
    | (with_reducible apply countStale_same)
    | (with_reducible apply modXfer_same)
    | (with_reducible apply endXfer_same)
    | (with_reducible apply fabricWriteCheck_same)
    | (with_reducible apply fabricPut_same)
    | split
    | (dsimp only)

theorem latePart_same {pts : List Part} {st0 : State} (p : Packet) (s : State) (hs : Agrees pts st0 s) (mevents : Part.events ∈ pts) (mfab : Part.fab ∈ pts) (mclusters : Part.clusters ∈ pts) : Agrees pts st0 (latePart p s) := by
  delta latePart
  repeat' first
    | (with_reducible assumption)
    | (with_reducible rfl)
    | (with_reducible refine fun _ => ?_)
    | lift_lets
    | (intro x; refine same_cut (w := pts) (s0 := st0) x ?_ ?_; rotate_left; intro _; clear_value x; rotate_left; unfold x)
    | (intro x; refine same_cut_ss (w := pts) (s0 := st0) x ?_ ?_; rotate_left; intro hfun; clear_value x; rotate_left; unfold x)
    | (intro x; refine same_cut_ass (w := pts) (s0 := st0) x ?_ ?_; rotate_left; intro hfun; clear_value x; rotate_left; unfold x)
    | (intro x; refine same_cut_abss (w := pts) (s0 := st0) x ?_ ?_; rotate_left; intro hfun; clear_value x; rotate_left; unfold x)
    | (intro x; refine same_cut_a (w := pts) (s0 := st0) x ?_ ?_; rotate_left; intro hfun; clear_value x; rotate_left; unfold x)
    | (intro x; refine same_cut_ab (w := pts) (s0 := st0) x ?_ ?_; rotate_left; intro hfun; clear_value x; rotate_left; unfold x)
    | (intro x; refine same_cut_abc (w := pts) (s0 := st0) x ?_ ?_; rotate_left; intro hfun; clear_value x; rotate_left; unfold x)
    | (intro x; refine same_cut_o1 (w := pts) (s0 := st0) x ?_ ?_; rotate_left; intro hopt; clear_value x; rotate_left; unfold x)
    | (intro x; refine same_cut_o (w := pts) (s0 := st0) x ?_ ?_; rotate_left; intro hopt; clear_value x; rotate_left; unfold x)
    | (intro x; refine same_cut_fst (w := pts) (s0 := st0) x ?_ ?_; rotate_left; intro _; clear_value x; rotate_left; unfold x)
    | (intro x; refine same_cut_snd (w := pts) (s0 := st0) x ?_ ?_; rotate_left; intro _; clear_value x; rotate_left; unfold x)
    | (intro x; clear_value x)
    | (with_reducible apply modFab_same)
    | (with_reducible apply logCluster_same)
    | (with_reducible apply raiseFab_same)
    | (with_reducible apply countPkt_same)
    | (with_reducible refine hopt _ (by assumption))
    | (with_reducible exact hopt _ rfl)
    | (with_reducible apply hfun)
    | (intro _)
    | split
    | (with_reducible apply AnswerSame.next)
    | (with_reducible apply same_getD)
    | (refine same_mk hs ?_; intro p hp; cases p <;> first | exact rfl | exact absurd (by assumption) hp)
    | (refine same_mk (by assumption) ?_; intro p hp; cases p <;> first | exact rfl | exact absurd (by assumption) hp)
    | (dsimp only)
    | (rename_i he; split at he)
    | (rename_i he; injection he with he; subst he)

theorem partIn_same {pts : List Part} {st0 : State} (p : Packet) (s : State) (hs : Agrees pts st0 s) (mevents : Part.events ∈ pts) (mlinks : Part.links ∈ pts) (mfab : Part.fab ∈ pts) (mclusters : Part.clusters ∈ pts) (mstreams : Part.streams ∈ pts) (mmem : Part.mem ∈ pts) : Agrees pts st0 (partIn p s) := by
  delta partIn
  repeat' first
    | (with_reducible assumption)
    | (with_reducible rfl)
    | (with_reducible refine fun _ => ?_)
    | lift_lets
    | (intro x; refine same_cut (w := pts) (s0 := st0) x ?_ ?_; rotate_left; intro _; clear_value x; rotate_left; unfold x)
    | (intro x; refine same_cut_ss (w := pts) (s0 := st0) x ?_ ?_; rotate_left; intro hfun; clear_value x; rotate_left; unfold x)
    | (intro x; refine same_cut_ass (w := pts) (s0 := st0) x ?_ ?_; rotate_left; intro hfun; clear_value x; rotate_left; unfold x)
    | (intro x; refine same_cut_abss (w := pts) (s0 := st0) x ?_ ?_; rotate_left; intro hfun; clear_value x; rotate_left; unfold x)
    | (intro x; refine same_cut_a (w := pts) (s0 := st0) x ?_ ?_; rotate_left; intro hfun; clear_value x; rotate_left; unfold x)
    | (intro x; refine same_cut_ab (w := pts) (s0 := st0) x ?_ ?_; rotate_left; intro hfun; clear_value x; rotate_left; unfold x)
    | (intro x; refine same_cut_abc (w := pts) (s0 := st0) x ?_ ?_; rotate_left; intro hfun; clear_value x; rotate_left; unfold x)
    | (intro x; refine same_cut_o1 (w := pts) (s0 := st0) x ?_ ?_; rotate_left; intro hopt; clear_value x; rotate_left; unfold x)
    | (intro x; refine same_cut_o (w := pts) (s0 := st0) x ?_ ?_; rotate_left; intro hopt; clear_value x; rotate_left; unfold x)
    | (intro x; refine same_cut_fst (w := pts) (s0 := st0) x ?_ ?_; rotate_left; intro _; clear_value x; rotate_left; unfold x)
    | (intro x; refine same_cut_snd (w := pts) (s0 := st0) x ?_ ?_; rotate_left; intro _; clear_value x; rotate_left; unfold x)
    | (intro x; clear_value x)
    | (with_reducible apply modFab_same)
    | (with_reducible apply logEv_same)
    | (with_reducible apply raiseFab_same)
    | (with_reducible apply wrBytes_same)
    | (with_reducible refine scratchWrite_same_eq _ _ _ ?_ ?_ ?_ (by assumption))
    | (with_reducible apply logRingRefused_same)
    | (with_reducible apply sendMinimal_same)
    | (with_reducible apply countPkt_same)
    | (with_reducible apply refusePkt_same)
    | (with_reducible apply latePart_same)
    | (with_reducible refine hopt _ (by assumption))
    | (with_reducible exact hopt _ rfl)
    | (with_reducible apply hfun)
    | (intro _)
    | split
    | (with_reducible apply AnswerSame.next)
    | (with_reducible apply same_getD)
    | (refine same_mk hs ?_; intro p hp; cases p <;> first | exact rfl | exact absurd (by assumption) hp)
    | (refine same_mk (by assumption) ?_; intro p hp; cases p <;> first | exact rfl | exact absurd (by assumption) hp)
    | (dsimp only)
    | (rename_i he; split at he)
    | (rename_i he; injection he with he; subst he)

theorem partialPkt_same {pts : List Part} {st0 : State} (p : Packet) (s : State) (hs : Agrees pts st0 s) (mevents : Part.events ∈ pts) (mlinks : Part.links ∈ pts) (mfab : Part.fab ∈ pts) (mclusters : Part.clusters ∈ pts) (mstreams : Part.streams ∈ pts) (mmem : Part.mem ∈ pts) : Agrees pts st0 (partialPkt p s) := by
  delta partialPkt
  repeat' first
    | (with_reducible assumption)
    | lift_lets
    | (with_reducible apply countStale_same)
    | (with_reducible refine intoEntry_same_eq _ _ ?_ ?_ (by assumption))
    | (with_reducible apply refusePkt_same)
    | (with_reducible apply partIn_same)
    | split

theorem earlyAgain_same {pts : List Part} {st0 : State} (k : Nat) (s : State) (hs : Agrees pts st0 s) (mevents : Part.events ∈ pts) (mlinks : Part.links ∈ pts) (mfab : Part.fab ∈ pts) (mclusters : Part.clusters ∈ pts) (mstreams : Part.streams ∈ pts) (mmem : Part.mem ∈ pts) : Agrees pts st0 (earlyAgain k s) := by
  delta earlyAgain
  repeat' first
    | (with_reducible assumption)
    | lift_lets
    | (intro x; refine same_cut (w := pts) (s0 := st0) x ?_ ?_; rotate_left; intro _; clear_value x; rotate_left; unfold x)
    | (with_reducible apply modFab_same)
    | (with_reducible apply partIn_same)
    | split

theorem drainEarly_same {pts : List Part} {st0 : State} (c i : Nat) (s : State) (hs : Agrees pts st0 s) (mevents : Part.events ∈ pts) (mlinks : Part.links ∈ pts) (mfab : Part.fab ∈ pts) (mclusters : Part.clusters ∈ pts) (mstreams : Part.streams ∈ pts) (mmem : Part.mem ∈ pts) : Agrees pts st0 (drainEarly c i s) := by
  delta drainEarly
  repeat' first
    | (with_reducible assumption)
    | (with_reducible refine fun _ => ?_)
    | (with_reducible apply forAll_same)
    | (with_reducible apply earlyAgain_same)

theorem expireEarly_same {pts : List Part} {st0 : State} (k : Nat) (s : State) (hs : Agrees pts st0 s) (mevents : Part.events ∈ pts) (mfab : Part.fab ∈ pts) (mclusters : Part.clusters ∈ pts) : Agrees pts st0 (expireEarly k s) := by
  delta expireEarly
  repeat' first
    | (with_reducible assumption)
    | (with_reducible rfl)
    | (with_reducible refine fun _ => ?_)
    | lift_lets
    | (intro x; refine same_cut (w := pts) (s0 := st0) x ?_ ?_; rotate_left; intro _; clear_value x; rotate_left; unfold x)
    | (intro x; refine same_cut_ss (w := pts) (s0 := st0) x ?_ ?_; rotate_left; intro hfun; clear_value x; rotate_left; unfold x)
    | (intro x; refine same_cut_ass (w := pts) (s0 := st0) x ?_ ?_; rotate_left; intro hfun; clear_value x; rotate_left; unfold x)
    | (intro x; refine same_cut_abss (w := pts) (s0 := st0) x ?_ ?_; rotate_left; intro hfun; clear_value x; rotate_left; unfold x)
    | (intro x; refine same_cut_a (w := pts) (s0 := st0) x ?_ ?_; rotate_left; intro hfun; clear_value x; rotate_left; unfold x)
    | (intro x; refine same_cut_ab (w := pts) (s0 := st0) x ?_ ?_; rotate_left; intro hfun; clear_value x; rotate_left; unfold x)
    | (intro x; refine same_cut_abc (w := pts) (s0 := st0) x ?_ ?_; rotate_left; intro hfun; clear_value x; rotate_left; unfold x)
    | (intro x; refine same_cut_o1 (w := pts) (s0 := st0) x ?_ ?_; rotate_left; intro hopt; clear_value x; rotate_left; unfold x)
    | (intro x; refine same_cut_o (w := pts) (s0 := st0) x ?_ ?_; rotate_left; intro hopt; clear_value x; rotate_left; unfold x)
    | (intro x; refine same_cut_fst (w := pts) (s0 := st0) x ?_ ?_; rotate_left; intro _; clear_value x; rotate_left; unfold x)
    | (intro x; refine same_cut_snd (w := pts) (s0 := st0) x ?_ ?_; rotate_left; intro _; clear_value x; rotate_left; unfold x)
    | (intro x; clear_value x)
    | (with_reducible apply modFab_same)
    | (with_reducible apply latePart_same)
    | (with_reducible refine hopt _ (by assumption))
    | (with_reducible exact hopt _ rfl)
    | (with_reducible apply hfun)
    | (intro _)
    | split
    | (with_reducible apply AnswerSame.next)
    | (with_reducible apply same_getD)
    | (refine same_mk hs ?_; intro p hp; cases p <;> first | exact rfl | exact absurd (by assumption) hp)
    | (refine same_mk (by assumption) ?_; intro p hp; cases p <;> first | exact rfl | exact absurd (by assumption) hp)
    | (dsimp only)
    | (rename_i he; split at he)
    | (rename_i he; injection he with he; subst he)

theorem logPartial_same {pts : List Part} {st0 : State} (k : Arrival) (s : State) (hs : Agrees pts st0 s) (mevents : Part.events ∈ pts) (mclusters : Part.clusters ∈ pts) : Agrees pts st0 (logPartial k s) := by
  delta logPartial
  repeat' first
    | (with_reducible assumption)
    | (with_reducible rfl)
    | (with_reducible refine fun _ => ?_)
    | lift_lets
    | (intro x; refine same_cut (w := pts) (s0 := st0) x ?_ ?_; rotate_left; intro _; clear_value x; rotate_left; unfold x)
    | (intro x; refine same_cut_ss (w := pts) (s0 := st0) x ?_ ?_; rotate_left; intro hfun; clear_value x; rotate_left; unfold x)
    | (intro x; refine same_cut_ass (w := pts) (s0 := st0) x ?_ ?_; rotate_left; intro hfun; clear_value x; rotate_left; unfold x)
    | (intro x; refine same_cut_abss (w := pts) (s0 := st0) x ?_ ?_; rotate_left; intro hfun; clear_value x; rotate_left; unfold x)
    | (intro x; refine same_cut_a (w := pts) (s0 := st0) x ?_ ?_; rotate_left; intro hfun; clear_value x; rotate_left; unfold x)
    | (intro x; refine same_cut_ab (w := pts) (s0 := st0) x ?_ ?_; rotate_left; intro hfun; clear_value x; rotate_left; unfold x)
    | (intro x; refine same_cut_abc (w := pts) (s0 := st0) x ?_ ?_; rotate_left; intro hfun; clear_value x; rotate_left; unfold x)
    | (intro x; refine same_cut_o1 (w := pts) (s0 := st0) x ?_ ?_; rotate_left; intro hopt; clear_value x; rotate_left; unfold x)
    | (intro x; refine same_cut_o (w := pts) (s0 := st0) x ?_ ?_; rotate_left; intro hopt; clear_value x; rotate_left; unfold x)
    | (intro x; refine same_cut_fst (w := pts) (s0 := st0) x ?_ ?_; rotate_left; intro _; clear_value x; rotate_left; unfold x)
    | (intro x; refine same_cut_snd (w := pts) (s0 := st0) x ?_ ?_; rotate_left; intro _; clear_value x; rotate_left; unfold x)
    | (intro x; clear_value x)
    | (with_reducible apply logCluster_same)
    | (with_reducible refine hopt _ (by assumption))
    | (with_reducible exact hopt _ rfl)
    | (with_reducible apply hfun)
    | (intro _)
    | split
    | (with_reducible apply AnswerSame.next)
    | (with_reducible apply same_getD)
    | (refine same_mk hs ?_; intro p hp; cases p <;> first | exact rfl | exact absurd (by assumption) hp)
    | (refine same_mk (by assumption) ?_; intro p hp; cases p <;> first | exact rfl | exact absurd (by assumption) hp)
    | (dsimp only)
    | (rename_i he; split at he)
    | (rename_i he; injection he with he; subst he)

theorem transferDone_same {pts : List Part} {st0 : State} (src xslot : Nat) (s : State) (hs : Agrees pts st0 s) (mevents : Part.events ∈ pts) (mlinks : Part.links ∈ pts) (mfab : Part.fab ∈ pts) (mroods : Part.roods ∈ pts) (mclusters : Part.clusters ∈ pts) (mbinds : Part.binds ∈ pts) : Agrees pts st0 (transferDone src xslot s) := by
  delta transferDone
  repeat' first
    | (with_reducible assumption)
    | (with_reducible rfl)
    | (with_reducible refine fun _ => ?_)
    | lift_lets
    | (intro x; refine same_cut (w := pts) (s0 := st0) x ?_ ?_; rotate_left; intro _; clear_value x; rotate_left; unfold x)
    | (intro x; refine same_cut_ss (w := pts) (s0 := st0) x ?_ ?_; rotate_left; intro hfun; clear_value x; rotate_left; unfold x)
    | (intro x; refine same_cut_ass (w := pts) (s0 := st0) x ?_ ?_; rotate_left; intro hfun; clear_value x; rotate_left; unfold x)
    | (intro x; refine same_cut_abss (w := pts) (s0 := st0) x ?_ ?_; rotate_left; intro hfun; clear_value x; rotate_left; unfold x)
    | (intro x; refine same_cut_a (w := pts) (s0 := st0) x ?_ ?_; rotate_left; intro hfun; clear_value x; rotate_left; unfold x)
    | (intro x; refine same_cut_ab (w := pts) (s0 := st0) x ?_ ?_; rotate_left; intro hfun; clear_value x; rotate_left; unfold x)
    | (intro x; refine same_cut_abc (w := pts) (s0 := st0) x ?_ ?_; rotate_left; intro hfun; clear_value x; rotate_left; unfold x)
    | (intro x; refine same_cut_o1 (w := pts) (s0 := st0) x ?_ ?_; rotate_left; intro hopt; clear_value x; rotate_left; unfold x)
    | (intro x; refine same_cut_o (w := pts) (s0 := st0) x ?_ ?_; rotate_left; intro hopt; clear_value x; rotate_left; unfold x)
    | (intro x; refine same_cut_fst (w := pts) (s0 := st0) x ?_ ?_; rotate_left; intro _; clear_value x; rotate_left; unfold x)
    | (intro x; refine same_cut_snd (w := pts) (s0 := st0) x ?_ ?_; rotate_left; intro _; clear_value x; rotate_left; unfold x)
    | (intro x; clear_value x)
    | (with_reducible apply modCluster_same)
    | (with_reducible apply modBind_same)
    | (with_reducible apply modFab_same)
    | (with_reducible apply ctrAdd_same)
    | (with_reducible apply sendMinimal_same)
    | (with_reducible apply logPartial_same)
    | (with_reducible refine hopt _ (by assumption))
    | (with_reducible exact hopt _ rfl)
    | (with_reducible apply hfun)
    | (intro _)
    | split
    | (with_reducible apply AnswerSame.next)
    | (with_reducible apply same_getD)
    | (refine same_mk hs ?_; intro p hp; cases p <;> first | exact rfl | exact absurd (by assumption) hp)
    | (refine same_mk (by assumption) ?_; intro p hp; cases p <;> first | exact rfl | exact absurd (by assumption) hp)
    | (dsimp only)
    | (rename_i he; split at he)
    | (rename_i he; injection he with he; subst he)

theorem fromPeer_same {pts : List Part} {st0 : State} (p : Packet) (f : State → State) (s : State) (hs : Agrees pts st0 s) (hf : ∀ x0, Agrees pts st0 x0 → Agrees pts st0 (f x0)) (mevents : Part.events ∈ pts) (mfab : Part.fab ∈ pts) : Agrees pts st0 (fromPeer p f s) := by
  delta fromPeer
  repeat' first
    | (with_reducible assumption)
    | (with_reducible apply hf)
    | lift_lets
    | (intro x; refine same_cut (w := pts) (s0 := st0) x ?_ ?_; rotate_left; intro _; clear_value x; rotate_left; unfold x)
    | (with_reducible apply modFab_same)
    | (with_reducible apply logEv_same)
    | (with_reducible apply raiseFab_same)
    | split

theorem donePkt_same {pts : List Part} {st0 : State} (p : Packet) (s : State) (hs : Agrees pts st0 s) (mfab : Part.fab ∈ pts) (mdescs : Part.descs ∈ pts) (mbinds : Part.binds ∈ pts) : Agrees pts st0 (donePkt p s) := by
  delta donePkt
  repeat' first
    | (with_reducible assumption)
    | (with_reducible apply countStale_same)
    | (with_reducible apply endXfer_same)
    | split

theorem resendPkt_same {pts : List Part} {st0 : State} (p : Packet) (s : State) (hs : Agrees pts st0 s) (mfab : Part.fab ∈ pts) : Agrees pts st0 (resendPkt p s) := by
  delta resendPkt
  repeat' first
    | (with_reducible assumption)
    | (with_reducible apply countStale_same)
    | (with_reducible apply modXfer_same)
    | split

theorem resendDue_same {pts : List Part} {st0 : State} (x : Nat) (s : State) (hs : Agrees pts st0 s) (mlinks : Part.links ∈ pts) (mfab : Part.fab ∈ pts) (mfreeCtr : Part.freeCtr ∈ pts) : Agrees pts st0 (resendDue x s) := by
  delta resendDue
  repeat' first
    | (with_reducible assumption)
    | lift_lets
    | (intro x; refine same_cut (w := pts) (s0 := st0) x ?_ ?_; rotate_left; intro _; clear_value x; rotate_left; unfold x)
    | (intro x; clear_value x)
    | (with_reducible apply modXfer_same)
    | (with_reducible apply sendAll_same)
    | split

theorem retryXfer_same {pts : List Part} {st0 : State} (x : Nat) (s : State) (hs : Agrees pts st0 s) (mevents : Part.events ∈ pts) (mlinks : Part.links ∈ pts) (mfab : Part.fab ∈ pts) (mdescs : Part.descs ∈ pts) (mstreams : Part.streams ∈ pts) (mbinds : Part.binds ∈ pts) (mfreeCtr : Part.freeCtr ∈ pts) : Agrees pts st0 (retryXfer x s) := by
  delta retryXfer
  repeat' first
    | (with_reducible assumption)
    | (with_reducible rfl)
    | (with_reducible refine fun _ => ?_)
    | lift_lets
    | (intro x; refine same_cut (w := pts) (s0 := st0) x ?_ ?_; rotate_left; intro _; clear_value x; rotate_left; unfold x)
    | (intro x; refine same_cut_ss (w := pts) (s0 := st0) x ?_ ?_; rotate_left; intro hfun; clear_value x; rotate_left; unfold x)
    | (intro x; refine same_cut_ass (w := pts) (s0 := st0) x ?_ ?_; rotate_left; intro hfun; clear_value x; rotate_left; unfold x)
    | (intro x; refine same_cut_abss (w := pts) (s0 := st0) x ?_ ?_; rotate_left; intro hfun; clear_value x; rotate_left; unfold x)
    | (intro x; refine same_cut_a (w := pts) (s0 := st0) x ?_ ?_; rotate_left; intro hfun; clear_value x; rotate_left; unfold x)
    | (intro x; refine same_cut_ab (w := pts) (s0 := st0) x ?_ ?_; rotate_left; intro hfun; clear_value x; rotate_left; unfold x)
    | (intro x; refine same_cut_abc (w := pts) (s0 := st0) x ?_ ?_; rotate_left; intro hfun; clear_value x; rotate_left; unfold x)
    | (intro x; refine same_cut_o1 (w := pts) (s0 := st0) x ?_ ?_; rotate_left; intro hopt; clear_value x; rotate_left; unfold x)
    | (intro x; refine same_cut_o (w := pts) (s0 := st0) x ?_ ?_; rotate_left; intro hopt; clear_value x; rotate_left; unfold x)
    | (intro x; refine same_cut_fst (w := pts) (s0 := st0) x ?_ ?_; rotate_left; intro _; clear_value x; rotate_left; unfold x)
    | (intro x; refine same_cut_snd (w := pts) (s0 := st0) x ?_ ?_; rotate_left; intro _; clear_value x; rotate_left; unfold x)
    | (intro x; clear_value x)
    | (with_reducible apply logEv_same)
    | (with_reducible apply raiseFab_same)
    | (with_reducible apply stall_same)
    | (with_reducible apply modXfer_same)
    | (with_reducible apply endXfer_same)
    | (with_reducible apply sendXfer_same)
    | (with_reducible refine hopt _ (by assumption))
    | (with_reducible exact hopt _ rfl)
    | (with_reducible apply hfun)
    | (intro _)
    | split
    | (with_reducible apply AnswerSame.next)
    | (with_reducible apply same_getD)
    | (refine same_mk hs ?_; intro p hp; cases p <;> first | exact rfl | exact absurd (by assumption) hp)
    | (refine same_mk (by assumption) ?_; intro p hp; cases p <;> first | exact rfl | exact absurd (by assumption) hp)
    | (dsimp only)
    | (rename_i he; split at he)
    | (rename_i he; injection he with he; subst he)

theorem resetFabric_same {pts : List Part} {st0 : State} (r : Nat) (s : State) (hs : Agrees pts st0 s) (mlinks : Part.links ∈ pts) (mfab : Part.fab ∈ pts) : Agrees pts st0 (resetFabric r s) := by
  delta resetFabric
  repeat' first
    | (with_reducible assumption)
    | (with_reducible rfl)
    | (with_reducible refine fun _ => ?_)
    | lift_lets
    | (intro x; refine same_cut (w := pts) (s0 := st0) x ?_ ?_; rotate_left; intro _; clear_value x; rotate_left; unfold x)
    | (intro x; refine same_cut_ss (w := pts) (s0 := st0) x ?_ ?_; rotate_left; intro hfun; clear_value x; rotate_left; unfold x)
    | (intro x; refine same_cut_ass (w := pts) (s0 := st0) x ?_ ?_; rotate_left; intro hfun; clear_value x; rotate_left; unfold x)
    | (intro x; refine same_cut_abss (w := pts) (s0 := st0) x ?_ ?_; rotate_left; intro hfun; clear_value x; rotate_left; unfold x)
    | (intro x; refine same_cut_a (w := pts) (s0 := st0) x ?_ ?_; rotate_left; intro hfun; clear_value x; rotate_left; unfold x)
    | (intro x; refine same_cut_ab (w := pts) (s0 := st0) x ?_ ?_; rotate_left; intro hfun; clear_value x; rotate_left; unfold x)
    | (intro x; refine same_cut_abc (w := pts) (s0 := st0) x ?_ ?_; rotate_left; intro hfun; clear_value x; rotate_left; unfold x)
    | (intro x; refine same_cut_o1 (w := pts) (s0 := st0) x ?_ ?_; rotate_left; intro hopt; clear_value x; rotate_left; unfold x)
    | (intro x; refine same_cut_o (w := pts) (s0 := st0) x ?_ ?_; rotate_left; intro hopt; clear_value x; rotate_left; unfold x)
    | (intro x; refine same_cut_fst (w := pts) (s0 := st0) x ?_ ?_; rotate_left; intro _; clear_value x; rotate_left; unfold x)
    | (intro x; refine same_cut_snd (w := pts) (s0 := st0) x ?_ ?_; rotate_left; intro _; clear_value x; rotate_left; unfold x)
    | (intro x; clear_value x)
    | (with_reducible apply modFab_same)
    | (with_reducible apply forAll_same)
    | (with_reducible apply sendMinimal_same)
    | (with_reducible refine hopt _ (by assumption))
    | (with_reducible exact hopt _ rfl)
    | (with_reducible apply hfun)
    | (intro _)
    | split
    | (with_reducible apply AnswerSame.next)
    | (with_reducible apply same_getD)
    | (refine same_mk hs ?_; intro p hp; cases p <;> first | exact rfl | exact absurd (by assumption) hp)
    | (refine same_mk (by assumption) ?_; intro p hp; cases p <;> first | exact rfl | exact absurd (by assumption) hp)
    | (dsimp only)
    | (rename_i he; split at he)
    | (rename_i he; injection he with he; subst he)

theorem execXferWrite_same {pts : List Part} {st0 : State} (d : Nat) (s : State) (hs : Agrees pts st0 s) (mfab : Part.fab ∈ pts) (mdescs : Part.descs ∈ pts) (mclusters : Part.clusters ∈ pts) (mstks : Part.stks ∈ pts) (mstreams : Part.streams ∈ pts) : AnswerSame pts st0 (execXferWrite d s) := by
  delta execXferWrite
  repeat' first
    | (with_reducible assumption)
    | lift_lets
    | (with_reducible apply startXferIf_same)
    | (with_reducible apply AnswerSame.next)

theorem execXferRead_same {pts : List Part} {st0 : State} (d : Nat) (s : State) (hs : Agrees pts st0 s) (mfab : Part.fab ∈ pts) (mdescs : Part.descs ∈ pts) (mclusters : Part.clusters ∈ pts) (mstks : Part.stks ∈ pts) (mstreams : Part.streams ∈ pts) : AnswerSame pts st0 (execXferRead d s) := by
  delta execXferRead
  repeat' first
    | (with_reducible assumption)
    | lift_lets
    | (with_reducible apply startXferIf_same)
    | (with_reducible apply AnswerSame.next)

theorem execXferPartial_same {pts : List Part} {st0 : State} (d : Nat) (s : State) (hs : Agrees pts st0 s) (mfab : Part.fab ∈ pts) (mdescs : Part.descs ∈ pts) (mclusters : Part.clusters ∈ pts) (mstks : Part.stks ∈ pts) (mstreams : Part.streams ∈ pts) : AnswerSame pts st0 (execXferPartial d s) := by
  delta execXferPartial
  repeat' first
    | (with_reducible assumption)
    | lift_lets
    | (with_reducible apply startXferIf_same)
    | (with_reducible apply AnswerSame.next)

theorem execXferInject_same {pts : List Part} {st0 : State} (x : Injection) (s : State) (hs : Agrees pts st0 s) (mevents : Part.events ∈ pts) (mlinks : Part.links ∈ pts) (mfab : Part.fab ∈ pts) (mdescs : Part.descs ∈ pts) (mstreams : Part.streams ∈ pts) (mbinds : Part.binds ∈ pts) (mfreeCtr : Part.freeCtr ∈ pts) : AnswerSame pts st0 (execXferInject x s) := by
  delta execXferInject
  repeat' first
    | (with_reducible assumption)
    | (with_reducible rfl)
    | (with_reducible refine fun _ => ?_)
    | lift_lets
    | (intro x; refine same_cut (w := pts) (s0 := st0) x ?_ ?_; rotate_left; intro _; clear_value x; rotate_left; unfold x)
    | (intro x; refine same_cut_ss (w := pts) (s0 := st0) x ?_ ?_; rotate_left; intro hfun; clear_value x; rotate_left; unfold x)
    | (intro x; refine same_cut_ass (w := pts) (s0 := st0) x ?_ ?_; rotate_left; intro hfun; clear_value x; rotate_left; unfold x)
    | (intro x; refine same_cut_abss (w := pts) (s0 := st0) x ?_ ?_; rotate_left; intro hfun; clear_value x; rotate_left; unfold x)
    | (intro x; refine same_cut_a (w := pts) (s0 := st0) x ?_ ?_; rotate_left; intro hfun; clear_value x; rotate_left; unfold x)
    | (intro x; refine same_cut_ab (w := pts) (s0 := st0) x ?_ ?_; rotate_left; intro hfun; clear_value x; rotate_left; unfold x)
    | (intro x; refine same_cut_abc (w := pts) (s0 := st0) x ?_ ?_; rotate_left; intro hfun; clear_value x; rotate_left; unfold x)
    | (intro x; refine same_cut_o1 (w := pts) (s0 := st0) x ?_ ?_; rotate_left; intro hopt; clear_value x; rotate_left; unfold x)
    | (intro x; refine same_cut_o (w := pts) (s0 := st0) x ?_ ?_; rotate_left; intro hopt; clear_value x; rotate_left; unfold x)
    | (intro x; refine same_cut_fst (w := pts) (s0 := st0) x ?_ ?_; rotate_left; intro _; clear_value x; rotate_left; unfold x)
    | (intro x; refine same_cut_snd (w := pts) (s0 := st0) x ?_ ?_; rotate_left; intro _; clear_value x; rotate_left; unfold x)
    | (intro x; clear_value x)
    | (with_reducible apply injectXfer_same)
    | (with_reducible refine hopt _ (by assumption))
    | (with_reducible exact hopt _ rfl)
    | (with_reducible apply hfun)
    | (intro _)
    | split
    | (with_reducible apply AnswerSame.next)
    | (with_reducible apply same_getD)
    | (refine same_mk hs ?_; intro p hp; cases p <;> first | exact rfl | exact absurd (by assumption) hp)
    | (refine same_mk (by assumption) ?_; intro p hp; cases p <;> first | exact rfl | exact absurd (by assumption) hp)
    | (dsimp only)
    | (rename_i he; split at he)
    | (rename_i he; injection he with he; subst he)

theorem execWrite_same {pts : List Part} {st0 : State} (p : Packet) (s : State) (hs : Agrees pts st0 s) (mglb : Part.glb ∈ pts) (mevents : Part.events ∈ pts) (mlinks : Part.links ∈ pts) (mfab : Part.fab ∈ pts) (mstks : Part.stks ∈ pts) (mstreams : Part.streams ∈ pts) (mmem : Part.mem ∈ pts) (mbushels : Part.bushels ∈ pts) : AnswerSame pts st0 (execWrite p s) := by
  delta execWrite
  repeat' first
    | (with_reducible assumption)
    | (with_reducible refine fun _ => ?_)
    | lift_lets
    | (with_reducible apply arriving_same)
    | (with_reducible apply writePkt_same)
    | split
    | (with_reducible apply AnswerSame.next)

theorem execRead_same {pts : List Part} {st0 : State} (p : Packet) (s : State) (hs : Agrees pts st0 s) (mglb : Part.glb ∈ pts) (mevents : Part.events ∈ pts) (mlinks : Part.links ∈ pts) (mfab : Part.fab ∈ pts) (mstreams : Part.streams ∈ pts) (mfreeCtr : Part.freeCtr ∈ pts) : AnswerSame pts st0 (execRead p s) := by
  delta execRead
  repeat' first
    | (with_reducible assumption)
    | (with_reducible refine fun _ => ?_)
    | lift_lets
    | (with_reducible apply arriving_same)
    | (with_reducible apply readPkt_same)
    | split
    | (with_reducible apply AnswerSame.next)

theorem execReadResp_same {pts : List Part} {st0 : State} (p : Packet) (s : State) (hs : Agrees pts st0 s) (mglb : Part.glb ∈ pts) (mevents : Part.events ∈ pts) (mlinks : Part.links ∈ pts) (mfab : Part.fab ∈ pts) (mdescs : Part.descs ∈ pts) (mstks : Part.stks ∈ pts) (mstreams : Part.streams ∈ pts) (mbinds : Part.binds ∈ pts) (mmem : Part.mem ∈ pts) : AnswerSame pts st0 (execReadResp p s) := by
  delta execReadResp
  repeat' first
    | (with_reducible assumption)
    | (with_reducible refine fun _ => ?_)
    | lift_lets
    | (with_reducible apply arriving_same)
    | (with_reducible apply readRespPkt_same)
    | split
    | (with_reducible apply AnswerSame.next)

theorem execPartial_same {pts : List Part} {st0 : State} (p : Packet) (s : State) (hs : Agrees pts st0 s) (mevents : Part.events ∈ pts) (mlinks : Part.links ∈ pts) (mfab : Part.fab ∈ pts) (mclusters : Part.clusters ∈ pts) (mstreams : Part.streams ∈ pts) (mmem : Part.mem ∈ pts) : AnswerSame pts st0 (execPartial p s) := by
  delta execPartial
  repeat' first
    | (with_reducible assumption)
    | (with_reducible refine fun _ => ?_)
    | lift_lets
    | (with_reducible apply arriving_same)
    | (with_reducible apply partialPkt_same)
    | split
    | (with_reducible apply AnswerSame.next)

theorem execEarlyPartialExpire_same {pts : List Part} {st0 : State} (k : Nat) (s : State) (hs : Agrees pts st0 s) (mevents : Part.events ∈ pts) (mfab : Part.fab ∈ pts) (mclusters : Part.clusters ∈ pts) : AnswerSame pts st0 (execEarlyPartialExpire k s) := by
  delta execEarlyPartialExpire
  repeat' first
    | (with_reducible assumption)
    | lift_lets
    | (with_reducible apply expireEarly_same)
    | (with_reducible apply AnswerSame.next)

theorem execTransferComplete_same {pts : List Part} {st0 : State} (src xslot : Nat) (s : State) (hs : Agrees pts st0 s) (mevents : Part.events ∈ pts) (mlinks : Part.links ∈ pts) (mfab : Part.fab ∈ pts) (mroods : Part.roods ∈ pts) (mclusters : Part.clusters ∈ pts) (mbinds : Part.binds ∈ pts) : AnswerSame pts st0 (execTransferComplete src xslot s) := by
  delta execTransferComplete
  repeat' first
    | (with_reducible assumption)
    | lift_lets
    | (with_reducible apply transferDone_same)
    | (with_reducible apply AnswerSame.next)

theorem execDone_same {pts : List Part} {st0 : State} (p : Packet) (s : State) (hs : Agrees pts st0 s) (mevents : Part.events ∈ pts) (mlinks : Part.links ∈ pts) (mfab : Part.fab ∈ pts) (mdescs : Part.descs ∈ pts) (mbinds : Part.binds ∈ pts) : AnswerSame pts st0 (execDone p s) := by
  delta execDone
  repeat' first
    | (with_reducible assumption)
    | (with_reducible refine fun _ => ?_)
    | lift_lets
    | (with_reducible apply arriving_same)
    | (with_reducible apply fromPeer_same)
    | (with_reducible apply donePkt_same)
    | split
    | (with_reducible apply AnswerSame.next)

theorem execResend_same {pts : List Part} {st0 : State} (p : Packet) (s : State) (hs : Agrees pts st0 s) (mevents : Part.events ∈ pts) (mlinks : Part.links ∈ pts) (mfab : Part.fab ∈ pts) : AnswerSame pts st0 (execResend p s) := by
  delta execResend
  repeat' first
    | (with_reducible assumption)
    | (with_reducible refine fun _ => ?_)
    | lift_lets
    | (with_reducible apply arriving_same)
    | (with_reducible apply fromPeer_same)
    | (with_reducible apply resendPkt_same)
    | split
    | (with_reducible apply AnswerSame.next)

theorem execTransferRetry_same {pts : List Part} {st0 : State} (x : Nat) (s : State) (hs : Agrees pts st0 s) (mevents : Part.events ∈ pts) (mlinks : Part.links ∈ pts) (mfab : Part.fab ∈ pts) (mdescs : Part.descs ∈ pts) (mstreams : Part.streams ∈ pts) (mbinds : Part.binds ∈ pts) (mfreeCtr : Part.freeCtr ∈ pts) : AnswerSame pts st0 (execTransferRetry x s) := by
  delta execTransferRetry
  repeat' first
    | (with_reducible assumption)
    | lift_lets
    | (with_reducible apply retryXfer_same)
    | (with_reducible apply AnswerSame.next)

end Sys2Proof.Laws
end

