-- ==== Sys2Proof/Laws/TouchMail.lean ====
section
/-! SUPPORT. Which parts of the state every operation of Machine/Mail.lean may change (Laws/Touch.lean). -/
namespace Sys2Proof.Laws

set_option linter.unusedVariables false

open Sys2Proof.Machine Sys2Proof.Safety

theorem modBox_same {pts : List Part} {st0 : State} (b : Box) (r : Nat) (f : Mailbox → Mailbox) (s : State) (hs : Agrees pts st0 s) (mroods : Part.roods ∈ pts) : Agrees pts st0 (modBox b r f s) := by
  delta modBox
  repeat' first
    | (with_reducible assumption)
    | (with_reducible apply modRood_same)

theorem putReply_same {pts : List Part} {st0 : State} (b : Box) (r tag seq st cmd detail : Nat) (s : State) (hs : Agrees pts st0 s) (mroods : Part.roods ∈ pts) : Agrees pts st0 (putReply b r tag seq st cmd detail s) := by
  delta putReply
  repeat' first
    | (with_reducible assumption)
    | (with_reducible apply modBox_same)

theorem finalReply_same {pts : List Part} {st0 : State} (b : Box) (r : Nat) (c : Cmd) (st detail : Nat) (s : State) (hs : Agrees pts st0 s) (mroods : Part.roods ∈ pts) : Agrees pts st0 (finalReply b r c st detail s) := by
  delta finalReply
  repeat' first
    | (with_reducible assumption)
    | lift_lets
    | (with_reducible apply modBox_same)
    | (with_reducible apply putReply_same)

theorem deferReply_same {pts : List Part} {st0 : State} (b : Box) (r : Nat) (c : Cmd) (s : State) (hs : Agrees pts st0 s) (mroods : Part.roods ∈ pts) : Agrees pts st0 (deferReply b r c s) := by
  delta deferReply
  repeat' first
    | (with_reducible assumption)
    | lift_lets
    | (intro x; refine same_cut (w := pts) (s0 := st0) x ?_ ?_; rotate_left; intro _; clear_value x; rotate_left; unfold x)
    | (with_reducible apply modBox_same)
    | (with_reducible apply putReply_same)
    | split

theorem submitCmd_same {pts : List Part} {st0 : State} (b : Box) (r : Nat) (bytes : List Byte) (refuse : Option Nat) (s : State) (hs : Agrees pts st0 s) (mroods : Part.roods ∈ pts) : Agrees pts st0 (submitCmd b r bytes refuse s) := by
  delta submitCmd
  repeat' first
    | (with_reducible assumption)
    | (with_reducible rfl)
    | (with_reducible refine fun _ => ?_)
    | lift_lets
    | (intro x; refine same_cut (w := pts) (s0 := st0) x ?_ ?_; rotate_left; intro _; clear_value x; rotate_left; unfold x)
    | (intro x; refine same_cut_ss (w := pts) (s0 := st0) x ?_ ?_; rotate_left; intro hfun; clear_value x; rotate_left; unfold x)
    | (intro x; refine same_cut_ass (w := pts) (s0 := st0) x ?_ ?_; rotate_left; intro hfun; clear_value x; rotate_left; unfold x)
    | (intro x; refine same_cut_abss (w := pts) (s0 := st0) x ?_ ?_; rotate_left; intro hfun; clear_value x; rotate_left; unfold x)
    | (intro x; refine same_cut_a (w := pts) (s0 := st0) x ?_ ?_; rotate_left; intro hfun; clear_value x; rotate_left; unfold x)
    | (intro x; refine same_cut_ab (w := pts) (s0 := st0) x ?_ ?_; rotate_left; intro hfun; clear_value x; rotate_left; unfold x)
    | (intro x; refine same_cut_abc (w := pts) (s0 := st0) x ?_ ?_; rotate_left; intro hfun; clear_value x; rotate_left; unfold x)
    | (intro x; refine same_cut_o1 (w := pts) (s0 := st0) x ?_ ?_; rotate_left; intro hopt; clear_value x; rotate_left; unfold x)
    | (intro x; refine same_cut_o (w := pts) (s0 := st0) x ?_ ?_; rotate_left; intro hopt; clear_value x; rotate_left; unfold x)
    | (intro x; refine same_cut_fst (w := pts) (s0 := st0) x ?_ ?_; rotate_left; intro _; clear_value x; rotate_left; unfold x)
    | (intro x; refine same_cut_snd (w := pts) (s0 := st0) x ?_ ?_; rotate_left; intro _; clear_value x; rotate_left; unfold x)
    | (intro x; clear_value x)
    | (with_reducible apply modBox_same)
    | (with_reducible apply putReply_same)
    | (with_reducible refine hopt _ (by assumption))
    | (with_reducible exact hopt _ rfl)
    | (with_reducible apply hfun)
    | (intro _)
    | split
    | (with_reducible apply AnswerSame.next)
    | (with_reducible apply same_getD)
    | (refine same_mk hs ?_; intro p hp; cases p <;> first | exact rfl | exact absurd (by assumption) hp)
    | (refine same_mk (by assumption) ?_; intro p hp; cases p <;> first | exact rfl | exact absurd (by assumption) hp)
    | (dsimp only)
    | (rename_i he; split at he)
    | (rename_i he; injection he with he; subst he)

end Sys2Proof.Laws
end

