-- ==== Sys2Proof/Laws/TouchRequests.lean ====
section
/-! SUPPORT. Which parts of the state every operation of Machine/Requests.lean may change (Laws/Touch.lean). -/
namespace Sys2Proof.Laws

set_option linter.unusedVariables false

open Sys2Proof.Machine Sys2Proof.Safety

theorem modEpochLocks_same {pts : List Part} {st0 : State} (r n : Nat) (f : LockEntry → LockEntry) (s : State) (hs : Agrees pts st0 s) (mstks : Part.stks ∈ pts) : Agrees pts st0 (modEpochLocks r n f s) := by
  delta modEpochLocks
  repeat' first
    | (refine same_mk hs ?_; intro p hp; cases p <;> first | exact rfl | exact absurd (by assumption) hp)

theorem holdEpoch_same {pts : List Part} {st0 : State} (r n : Nat) (s : State) (hs : Agrees pts st0 s) (mstks : Part.stks ∈ pts) : Agrees pts st0 (holdEpoch r n s) := by
  delta holdEpoch
  repeat' first
    | (with_reducible assumption)
    | (with_reducible apply modEpochLocks_same)

theorem dropEpoch_same {pts : List Part} {st0 : State} (r n : Nat) (s : State) (hs : Agrees pts st0 s) (mstks : Part.stks ∈ pts) : Agrees pts st0 (dropEpoch r n s) := by
  delta dropEpoch
  repeat' first
    | (with_reducible assumption)
    | (with_reducible apply modEpochLocks_same)

theorem logBase_same {pts : List Part} {st0 : State} (low r rest : Nat) (s : State) (hs : Agrees pts st0 s) (mevents : Part.events ∈ pts) : Agrees pts st0 (logBase low r rest s) := by
  delta logBase
  repeat' first
    | (with_reducible assumption)
    | (with_reducible apply logGlb_same)

theorem bindSlot_same {pts : List Part} {st0 : State} (r i adapter version : Nat) (s : State) (hs : Agrees pts st0 s) (mevents : Part.events ∈ pts) (mslots : Part.slots ∈ pts) (mcache : Part.cache ∈ pts) : Agrees pts st0 (bindSlot r i adapter version s) := by
  delta bindSlot
  repeat' first
    | (with_reducible assumption)
    | lift_lets
    | (intro x; refine same_cut (w := pts) (s0 := st0) x ?_ ?_; rotate_left; intro _; clear_value x; rotate_left; unfold x)
    | (intro x; clear_value x)
    | (with_reducible apply logBase_same)
    | (refine same_mk hs ?_; intro p hp; cases p <;> first | exact rfl | exact absurd (by assumption) hp)

theorem makeRoom_same_eq {pts : List Part} {st0 : State} (r need fuel : Nat) (s : State) {t : State} (hs : Agrees pts st0 s) (mcache : Part.cache ∈ pts)
    (e : makeRoom r need fuel s = some t) : Agrees pts st0 t := by
  induction fuel generalizing s with
  | zero => unfold makeRoom at e; split at e <;> cases e; exact hs
  | succ n ih =>
    unfold makeRoom at e
    split at e
    · cases e; exact hs
    · split at e
      · cases e
      · refine ih _ ?_ e; refine same_mk hs ?_; intro p hp; cases p <;> first | exact rfl | exact absurd (by assumption) hp

theorem stageSegments_same {pts : List Part} {st0 : State} (r off n : Nat) (s : State) (hs : Agrees pts st0 s) (mflash : Part.flash ∈ pts) : Agrees pts st0 (stageSegments r off n s) := by
  delta stageSegments
  repeat' first
    | (with_reducible assumption)
    | (with_reducible rfl)
    | (with_reducible refine fun _ => ?_)
    | lift_lets
    | (intro x; refine same_cut (w := pts) (s0 := st0) x ?_ ?_; rotate_left; intro _; clear_value x; rotate_left; unfold x)
    | (intro x; refine same_cut_ss (w := pts) (s0 := st0) x ?_ ?_; rotate_left; intro hfun; clear_value x; rotate_left; unfold x)
    | (intro x; refine same_cut_ass (w := pts) (s0 := st0) x ?_ ?_; rotate_left; intro hfun; clear_value x; rotate_left; unfold x)
    | (intro x; refine same_cut_abss (w := pts) (s0 := st0) x ?_ ?_; rotate_left; intro hfun; clear_value x; rotate_left; unfold x)
    | (intro x; refine same_cut_a (w := pts) (s0 := st0) x ?_ ?_; rotate_left; intro hfun; clear_value x; rotate_left; unfold x)
    | (intro x; refine same_cut_ab (w := pts) (s0 := st0) x ?_ ?_; rotate_left; intro hfun; clear_value x; rotate_left; unfold x)
    | (intro x; refine same_cut_abc (w := pts) (s0 := st0) x ?_ ?_; rotate_left; intro hfun; clear_value x; rotate_left; unfold x)
    | (intro x; refine same_cut_o1 (w := pts) (s0 := st0) x ?_ ?_; rotate_left; intro hopt; clear_value x; rotate_left; unfold x)
    | (intro x; refine same_cut_o (w := pts) (s0 := st0) x ?_ ?_; rotate_left; intro hopt; clear_value x; rotate_left; unfold x)
    | (intro x; refine same_cut_fst (w := pts) (s0 := st0) x ?_ ?_; rotate_left; intro _; clear_value x; rotate_left; unfold x)
    | (intro x; refine same_cut_snd (w := pts) (s0 := st0) x ?_ ?_; rotate_left; intro _; clear_value x; rotate_left; unfold x)
    | (intro x; clear_value x)
    | (with_reducible apply modFlash_same)
    | (with_reducible refine hopt _ (by assumption))
    | (with_reducible exact hopt _ rfl)
    | (with_reducible apply hfun)
    | (intro _)
    | split
    | (with_reducible apply AnswerSame.next)
    | (with_reducible apply same_getD)
    | (refine same_mk hs ?_; intro p hp; cases p <;> first | exact rfl | exact absurd (by assumption) hp)
    | (refine same_mk (by assumption) ?_; intro p hp; cases p <;> first | exact rfl | exact absurd (by assumption) hp)
    | (dsimp only)
    | (rename_i he; split at he)
    | (rename_i he; injection he with he; subst he)

theorem usedEntry_same {pts : List Part} {st0 : State} (i : Nat) (s : State) (hs : Agrees pts st0 s) (mcache : Part.cache ∈ pts) : Agrees pts st0 (usedEntry i s) := by
  delta usedEntry
  repeat' first
    | (with_reducible assumption)
    | (with_reducible rfl)
    | (with_reducible refine fun _ => ?_)
    | lift_lets
    | (intro x; refine same_cut (w := pts) (s0 := st0) x ?_ ?_; rotate_left; intro _; clear_value x; rotate_left; unfold x)
    | (intro x; refine same_cut_ss (w := pts) (s0 := st0) x ?_ ?_; rotate_left; intro hfun; clear_value x; rotate_left; unfold x)
    | (intro x; refine same_cut_ass (w := pts) (s0 := st0) x ?_ ?_; rotate_left; intro hfun; clear_value x; rotate_left; unfold x)
    | (intro x; refine same_cut_abss (w := pts) (s0 := st0) x ?_ ?_; rotate_left; intro hfun; clear_value x; rotate_left; unfold x)
    | (intro x; refine same_cut_a (w := pts) (s0 := st0) x ?_ ?_; rotate_left; intro hfun; clear_value x; rotate_left; unfold x)
    | (intro x; refine same_cut_ab (w := pts) (s0 := st0) x ?_ ?_; rotate_left; intro hfun; clear_value x; rotate_left; unfold x)
    | (intro x; refine same_cut_abc (w := pts) (s0 := st0) x ?_ ?_; rotate_left; intro hfun; clear_value x; rotate_left; unfold x)
    | (intro x; refine same_cut_o1 (w := pts) (s0 := st0) x ?_ ?_; rotate_left; intro hopt; clear_value x; rotate_left; unfold x)
    | (intro x; refine same_cut_o (w := pts) (s0 := st0) x ?_ ?_; rotate_left; intro hopt; clear_value x; rotate_left; unfold x)
    | (intro x; refine same_cut_fst (w := pts) (s0 := st0) x ?_ ?_; rotate_left; intro _; clear_value x; rotate_left; unfold x)
    | (intro x; refine same_cut_snd (w := pts) (s0 := st0) x ?_ ?_; rotate_left; intro _; clear_value x; rotate_left; unfold x)
    | (intro x; clear_value x)
    | (with_reducible refine hopt _ (by assumption))
    | (with_reducible exact hopt _ rfl)
    | (with_reducible apply hfun)
    | (intro _)
    | split
    | (with_reducible apply AnswerSame.next)
    | (with_reducible apply same_getD)
    | (refine same_mk hs ?_; intro p hp; cases p <;> first | exact rfl | exact absurd (by assumption) hp)
    | (refine same_mk (by assumption) ?_; intro p hp; cases p <;> first | exact rfl | exact absurd (by assumption) hp)
    | (dsimp only)
    | (rename_i he; split at he)
    | (rename_i he; injection he with he; subst he)

theorem ensureCache_same_eq {pts : List Part} {st0 : State} (r slot gen version : Nat) (s : State) {t : State} (hs : Agrees pts st0 s) (mflash : Part.flash ∈ pts) (mcache : Part.cache ∈ pts) (mnextCache : Part.nextCache ∈ pts)
    (e : ensureCache r slot gen version s = some t) : Agrees pts st0 t := by
  unfold ensureCache at e
  dsimp only at e
  split at e
  · cases e; exact usedEntry_same _ _ hs (by assumption)
  · obtain ⟨u, hu, e⟩ := Option.map_eq_some_iff.mp e
    have hk := makeRoom_same_eq r _ _ s hs (by assumption) hu
    have hf (off n : Nat) := stageSegments_same (pts := pts) (st0 := st0) r off n u hk (by assumption)
    cases e
    repeat' split
    all_goals first
      | (refine same_mk hk ?_; intro p hp; cases p <;> first | exact rfl | exact absurd (by assumption) hp)
      | (refine same_mk (hf _ _) ?_; intro p hp; cases p <;> first | exact rfl | exact absurd (by assumption) hp)

theorem holdRow_same {pts : List Part} {st0 : State} (t : RowTag) (s : State) (hs : Agrees pts st0 s) (mslots : Part.slots ∈ pts) : Agrees pts st0 (holdRow t s) := by
  delta holdRow
  repeat' first
    | (with_reducible assumption)
    | (with_reducible apply modSlot_same)
    | split

theorem dropRow_same {pts : List Part} {st0 : State} (r : Nat) (t : RowTag) (s : State) (hs : Agrees pts st0 s) (mroods : Part.roods ∈ pts) (mslots : Part.slots ∈ pts) : Agrees pts st0 (dropRow r t s) := by
  delta dropRow
  repeat' first
    | (with_reducible assumption)
    | lift_lets
    | (intro x; refine same_cut (w := pts) (s0 := st0) x ?_ ?_; rotate_left; intro _; clear_value x; rotate_left; unfold x)
    | (with_reducible apply modRood_same)
    | (with_reducible apply modSlot_same)
    | split

theorem logLost_same {pts : List Part} {st0 : State} (r what n pid : Nat) (s : State) (hs : Agrees pts st0 s) (mevents : Part.events ∈ pts) : Agrees pts st0 (logLost r what n pid s) := by
  delta logLost
  repeat' first
    | (with_reducible assumption)
    | (with_reducible apply logBase_same)

theorem admitRow_same {pts : List Part} {st0 : State} (r pid : Nat) (ep : Option Epoch) (ref : Nat × Nat × Bool × Bool) (s : State) (hs : Agrees pts st0 s) (mevents : Part.events ∈ pts) (mroods : Part.roods ∈ pts) (mflash : Part.flash ∈ pts) (mslots : Part.slots ∈ pts) (mcache : Part.cache ∈ pts) (mnextCache : Part.nextCache ∈ pts) : Agrees pts st0 (admitRow r pid ep ref s).2 := by
  delta admitRow
  repeat' first
    | (with_reducible assumption)
    | (with_reducible rfl)
    | (with_reducible refine fun _ => ?_)
    | lift_lets
    | (intro x; refine same_cut (w := pts) (s0 := st0) x ?_ ?_; rotate_left; intro _; clear_value x; rotate_left; unfold x)
    | (intro x; refine same_cut_ss (w := pts) (s0 := st0) x ?_ ?_; rotate_left; intro hfun; clear_value x; rotate_left; unfold x)
    | (intro x; refine same_cut_ass (w := pts) (s0 := st0) x ?_ ?_; rotate_left; intro hfun; clear_value x; rotate_left; unfold x)
    | (intro x; refine same_cut_abss (w := pts) (s0 := st0) x ?_ ?_; rotate_left; intro hfun; clear_value x; rotate_left; unfold x)
    | (intro x; refine same_cut_a (w := pts) (s0 := st0) x ?_ ?_; rotate_left; intro hfun; clear_value x; rotate_left; unfold x)
    | (intro x; refine same_cut_ab (w := pts) (s0 := st0) x ?_ ?_; rotate_left; intro hfun; clear_value x; rotate_left; unfold x)
    | (intro x; refine same_cut_abc (w := pts) (s0 := st0) x ?_ ?_; rotate_left; intro hfun; clear_value x; rotate_left; unfold x)
    | (intro x; refine same_cut_o1 (w := pts) (s0 := st0) x ?_ ?_; rotate_left; intro hopt; clear_value x; rotate_left; unfold x)
    | (intro x; refine same_cut_o (w := pts) (s0 := st0) x ?_ ?_; rotate_left; intro hopt; clear_value x; rotate_left; unfold x)
    | (intro x; refine same_cut_fst (w := pts) (s0 := st0) x ?_ ?_; rotate_left; intro _; clear_value x; rotate_left; unfold x)
    | (intro x; refine same_cut_snd (w := pts) (s0 := st0) x ?_ ?_; rotate_left; intro _; clear_value x; rotate_left; unfold x)
    | (intro x; clear_value x)
    | (with_reducible apply modRood_same)
    | (with_reducible apply bindSlot_same)
    | (with_reducible refine ensureCache_same_eq _ _ _ _ _ ?_ ?_ ?_ ?_ (by assumption))
    | (with_reducible apply holdRow_same)
    | (with_reducible apply logLost_same)
    | (with_reducible refine hopt _ (by assumption))
    | (with_reducible exact hopt _ rfl)
    | (with_reducible apply hfun)
    | (intro _)
    | split
    | (with_reducible apply AnswerSame.next)
    | (with_reducible apply same_getD)
    | (refine same_mk hs ?_; intro p hp; cases p <;> first | exact rfl | exact absurd (by assumption) hp)
    | (refine same_mk (by assumption) ?_; intro p hp; cases p <;> first | exact rfl | exact absurd (by assumption) hp)
    | (dsimp only)
    | (rename_i he; split at he)
    | (rename_i he; injection he with he; subst he)

theorem admitRow_same_eq {pts : List Part} {st0 : State} (r pid : Nat) (ep : Option Epoch) (ref : Nat × Nat × Bool × Bool) (s : State) {tOut : State} {outv : _} (hs : Agrees pts st0 s) (mevents : Part.events ∈ pts) (mroods : Part.roods ∈ pts) (mflash : Part.flash ∈ pts) (mslots : Part.slots ∈ pts) (mcache : Part.cache ∈ pts) (mnextCache : Part.nextCache ∈ pts) (e : admitRow r pid ep ref s = (outv, tOut)) : Agrees pts st0 tOut := by
  have := admitRow_same (pts := pts) (st0 := st0) r pid ep ref s hs mevents mroods mflash mslots mcache mnextCache
  rw [e] at this; exact this

theorem admitRows_same {pts : List Part} {st0 : State} (r pid : Nat) (ep : Option Epoch) (i : Nat) (l : List (Nat × Nat × Bool × Bool)) (s : State)
    (hs : Agrees pts st0 s) (mevents : Part.events ∈ pts) (mroods : Part.roods ∈ pts) (mflash : Part.flash ∈ pts) (mslots : Part.slots ∈ pts) (mcache : Part.cache ∈ pts) (mnextCache : Part.nextCache ∈ pts) : Agrees pts st0 (admitRows r pid ep i l s).2.2 := by
  induction l generalizing i s with
  | nil => exact hs
  | cons x xs ih =>
    unfold admitRows
    have h := admitRow_same r pid ep x s hs (by assumption) (by assumption) (by assumption) (by assumption) (by assumption) (by assumption)
    have g := ih (i + 1) _ h
    dsimp only
    split <;> exact g

theorem admitRows_same_eq {pts : List Part} {st0 : State} (r pid : Nat) (ep : Option Epoch) (i : Nat) (l : List (Nat × Nat × Bool × Bool)) (s : State)
    {t : State} {tags : List RowTag} {bad : Option (Nat × Nat)} (hs : Agrees pts st0 s) (mevents : Part.events ∈ pts) (mroods : Part.roods ∈ pts) (mflash : Part.flash ∈ pts) (mslots : Part.slots ∈ pts) (mcache : Part.cache ∈ pts) (mnextCache : Part.nextCache ∈ pts) (e : admitRows r pid ep i l s = (tags, bad, t)) :
    Agrees pts st0 t := by
  have := admitRows_same r pid ep i l s hs (by assumption) (by assumption) (by assumption) (by assumption) (by assumption) (by assumption)
  rw [e] at this; exact this

theorem regionReply_same {pts : List Part} {st0 : State} (q op st h tag : Nat) (s : State) (hs : Agrees pts st0 s) (meth : Part.eth ∈ pts) : Agrees pts st0 (regionReply q op st h tag s) := by
  delta regionReply
  repeat' first
    | (with_reducible assumption)
    | (with_reducible apply qpSend_same)

theorem settleHandles_same {pts : List Part} {st0 : State} (q : Nat) (s : State) (hs : Agrees pts st0 s) (meth : Part.eth ∈ pts) : Agrees pts st0 (settleHandles q s) := by
  delta settleHandles
  repeat' first
    | (with_reducible assumption)
    | (with_reducible refine fun _ => ?_)
    | lift_lets
    | (with_reducible apply modQp_same)
    | (with_reducible apply forAll_same)
    | (with_reducible apply regionReply_same)
    | split

theorem dropHolds_same {pts : List Part} {st0 : State} (h : Nat) (s : State) (hs : Agrees pts st0 s) (mroods : Part.roods ∈ pts) (mstks : Part.stks ∈ pts) (mslots : Part.slots ∈ pts) (mrequests : Part.requests ∈ pts) : Agrees pts st0 (dropHolds h s) := by
  delta dropHolds
  repeat' first
    | (with_reducible assumption)
    | (with_reducible rfl)
    | (with_reducible refine fun _ => ?_)
    | lift_lets
    | (intro x; refine same_cut (w := pts) (s0 := st0) x ?_ ?_; rotate_left; intro _; clear_value x; rotate_left; unfold x)
    | (intro x; refine same_cut_ss (w := pts) (s0 := st0) x ?_ ?_; rotate_left; intro hfun; clear_value x; rotate_left; unfold x)
    | (intro x; refine same_cut_ass (w := pts) (s0 := st0) x ?_ ?_; rotate_left; intro hfun; clear_value x; rotate_left; unfold x)
    | (intro x; refine same_cut_abss (w := pts) (s0 := st0) x ?_ ?_; rotate_left; intro hfun; clear_value x; rotate_left; unfold x)
    | (intro x; refine same_cut_a (w := pts) (s0 := st0) x ?_ ?_; rotate_left; intro hfun; clear_value x; rotate_left; unfold x)
    | (intro x; refine same_cut_ab (w := pts) (s0 := st0) x ?_ ?_; rotate_left; intro hfun; clear_value x; rotate_left; unfold x)
    | (intro x; refine same_cut_abc (w := pts) (s0 := st0) x ?_ ?_; rotate_left; intro hfun; clear_value x; rotate_left; unfold x)
    | (intro x; refine same_cut_o1 (w := pts) (s0 := st0) x ?_ ?_; rotate_left; intro hopt; clear_value x; rotate_left; unfold x)
    | (intro x; refine same_cut_o (w := pts) (s0 := st0) x ?_ ?_; rotate_left; intro hopt; clear_value x; rotate_left; unfold x)
    | (intro x; refine same_cut_fst (w := pts) (s0 := st0) x ?_ ?_; rotate_left; intro _; clear_value x; rotate_left; unfold x)
    | (intro x; refine same_cut_snd (w := pts) (s0 := st0) x ?_ ?_; rotate_left; intro _; clear_value x; rotate_left; unfold x)
    | (intro x; clear_value x)
    | (with_reducible apply modReq_same)
    | (with_reducible apply forAll_same)
    | (with_reducible apply dropEpoch_same)
    | (with_reducible apply dropRow_same)
    | (with_reducible refine hopt _ (by assumption))
    | (with_reducible exact hopt _ rfl)
    | (with_reducible apply hfun)
    | (intro _)
    | split
    | (with_reducible apply AnswerSame.next)
    | (with_reducible apply same_getD)
    | (refine same_mk hs ?_; intro p hp; cases p <;> first | exact rfl | exact absurd (by assumption) hp)
    | (refine same_mk (by assumption) ?_; intro p hp; cases p <;> first | exact rfl | exact absurd (by assumption) hp)
    | (dsimp only)
    | (rename_i he; split at he)
    | (rename_i he; injection he with he; subst he)

theorem dropRequest_same {pts : List Part} {st0 : State} (h : Nat) (s : State) (hs : Agrees pts st0 s) (meth : Part.eth ∈ pts) (mroods : Part.roods ∈ pts) (mstks : Part.stks ∈ pts) (mslots : Part.slots ∈ pts) (mrequests : Part.requests ∈ pts) : Agrees pts st0 (dropRequest h s) := by
  delta dropRequest
  repeat' first
    | (with_reducible assumption)
    | (with_reducible rfl)
    | (with_reducible refine fun _ => ?_)
    | lift_lets
    | (intro x; refine same_cut (w := pts) (s0 := st0) x ?_ ?_; rotate_left; intro _; clear_value x; rotate_left; unfold x)
    | (intro x; refine same_cut_ss (w := pts) (s0 := st0) x ?_ ?_; rotate_left; intro hfun; clear_value x; rotate_left; unfold x)
    | (intro x; refine same_cut_ass (w := pts) (s0 := st0) x ?_ ?_; rotate_left; intro hfun; clear_value x; rotate_left; unfold x)
    | (intro x; refine same_cut_abss (w := pts) (s0 := st0) x ?_ ?_; rotate_left; intro hfun; clear_value x; rotate_left; unfold x)
    | (intro x; refine same_cut_a (w := pts) (s0 := st0) x ?_ ?_; rotate_left; intro hfun; clear_value x; rotate_left; unfold x)
    | (intro x; refine same_cut_ab (w := pts) (s0 := st0) x ?_ ?_; rotate_left; intro hfun; clear_value x; rotate_left; unfold x)
    | (intro x; refine same_cut_abc (w := pts) (s0 := st0) x ?_ ?_; rotate_left; intro hfun; clear_value x; rotate_left; unfold x)
    | (intro x; refine same_cut_o1 (w := pts) (s0 := st0) x ?_ ?_; rotate_left; intro hopt; clear_value x; rotate_left; unfold x)
    | (intro x; refine same_cut_o (w := pts) (s0 := st0) x ?_ ?_; rotate_left; intro hopt; clear_value x; rotate_left; unfold x)
    | (intro x; refine same_cut_fst (w := pts) (s0 := st0) x ?_ ?_; rotate_left; intro _; clear_value x; rotate_left; unfold x)
    | (intro x; refine same_cut_snd (w := pts) (s0 := st0) x ?_ ?_; rotate_left; intro _; clear_value x; rotate_left; unfold x)
    | (intro x; clear_value x)
    | (with_reducible apply settleHandles_same)
    | (with_reducible apply dropHolds_same)
    | (with_reducible refine hopt _ (by assumption))
    | (with_reducible exact hopt _ rfl)
    | (with_reducible apply hfun)
    | (intro _)
    | split
    | (with_reducible apply AnswerSame.next)
    | (with_reducible apply same_getD)
    | (refine same_mk hs ?_; intro p hp; cases p <;> first | exact rfl | exact absurd (by assumption) hp)
    | (refine same_mk (by assumption) ?_; intro p hp; cases p <;> first | exact rfl | exact absurd (by assumption) hp)
    | (dsimp only)
    | (rename_i he; split at he)
    | (rename_i he; injection he with he; subst he)

theorem releaseRecords_same {pts : List Part} {st0 : State} (q : Nat) (s : State) (hs : Agrees pts st0 s) (meth : Part.eth ∈ pts) (mroods : Part.roods ∈ pts) (mstks : Part.stks ∈ pts) (mslots : Part.slots ∈ pts) (mrequests : Part.requests ∈ pts) : Agrees pts st0 (releaseRecords q s) := by
  delta releaseRecords
  repeat' first
    | (with_reducible assumption)
    | (with_reducible rfl)
    | (with_reducible refine fun _ => ?_)
    | lift_lets
    | (intro x; refine same_cut (w := pts) (s0 := st0) x ?_ ?_; rotate_left; intro _; clear_value x; rotate_left; unfold x)
    | (intro x; refine same_cut_ss (w := pts) (s0 := st0) x ?_ ?_; rotate_left; intro hfun; clear_value x; rotate_left; unfold x)
    | (intro x; refine same_cut_ass (w := pts) (s0 := st0) x ?_ ?_; rotate_left; intro hfun; clear_value x; rotate_left; unfold x)
    | (intro x; refine same_cut_abss (w := pts) (s0 := st0) x ?_ ?_; rotate_left; intro hfun; clear_value x; rotate_left; unfold x)
    | (intro x; refine same_cut_a (w := pts) (s0 := st0) x ?_ ?_; rotate_left; intro hfun; clear_value x; rotate_left; unfold x)
    | (intro x; refine same_cut_ab (w := pts) (s0 := st0) x ?_ ?_; rotate_left; intro hfun; clear_value x; rotate_left; unfold x)
    | (intro x; refine same_cut_abc (w := pts) (s0 := st0) x ?_ ?_; rotate_left; intro hfun; clear_value x; rotate_left; unfold x)
    | (intro x; refine same_cut_o1 (w := pts) (s0 := st0) x ?_ ?_; rotate_left; intro hopt; clear_value x; rotate_left; unfold x)
    | (intro x; refine same_cut_o (w := pts) (s0 := st0) x ?_ ?_; rotate_left; intro hopt; clear_value x; rotate_left; unfold x)
    | (intro x; refine same_cut_fst (w := pts) (s0 := st0) x ?_ ?_; rotate_left; intro _; clear_value x; rotate_left; unfold x)
    | (intro x; refine same_cut_snd (w := pts) (s0 := st0) x ?_ ?_; rotate_left; intro _; clear_value x; rotate_left; unfold x)
    | (intro x; clear_value x)
    | (with_reducible apply modQp_same)
    | (with_reducible apply forAll_same)
    | (with_reducible apply qpSend_same)
    | (with_reducible apply dropRequest_same)
    | (with_reducible refine hopt _ (by assumption))
    | (with_reducible exact hopt _ rfl)
    | (with_reducible apply hfun)
    | (intro _)
    | split
    | (with_reducible apply AnswerSame.next)
    | (with_reducible apply same_getD)
    | (refine same_mk hs ?_; intro p hp; cases p <;> first | exact rfl | exact absurd (by assumption) hp)
    | (refine same_mk (by assumption) ?_; intro p hp; cases p <;> first | exact rfl | exact absurd (by assumption) hp)
    | (dsimp only)
    | (rename_i he; split at he)
    | (rename_i he; injection he with he; subst he)

theorem sendRecord_same {pts : List Part} {st0 : State} (req : Option Nat) (k : Request) (at' st rows detail : Nat) (psn : Option Nat) (s : State) (hs : Agrees pts st0 s) (meth : Part.eth ∈ pts) (mroods : Part.roods ∈ pts) (mstks : Part.stks ∈ pts) (mslots : Part.slots ∈ pts) (mrequests : Part.requests ∈ pts) : Agrees pts st0 (sendRecord req k at' st rows detail psn s) := by
  delta sendRecord
  repeat' first
    | (with_reducible assumption)
    | (with_reducible rfl)
    | (with_reducible refine fun _ => ?_)
    | lift_lets
    | (intro x; refine same_cut (w := pts) (s0 := st0) x ?_ ?_; rotate_left; intro _; clear_value x; rotate_left; unfold x)
    | (intro x; refine same_cut_ss (w := pts) (s0 := st0) x ?_ ?_; rotate_left; intro hfun; clear_value x; rotate_left; unfold x)
    | (intro x; refine same_cut_ass (w := pts) (s0 := st0) x ?_ ?_; rotate_left; intro hfun; clear_value x; rotate_left; unfold x)
    | (intro x; refine same_cut_abss (w := pts) (s0 := st0) x ?_ ?_; rotate_left; intro hfun; clear_value x; rotate_left; unfold x)
    | (intro x; refine same_cut_a (w := pts) (s0 := st0) x ?_ ?_; rotate_left; intro hfun; clear_value x; rotate_left; unfold x)
    | (intro x; refine same_cut_ab (w := pts) (s0 := st0) x ?_ ?_; rotate_left; intro hfun; clear_value x; rotate_left; unfold x)
    | (intro x; refine same_cut_abc (w := pts) (s0 := st0) x ?_ ?_; rotate_left; intro hfun; clear_value x; rotate_left; unfold x)
    | (intro x; refine same_cut_o1 (w := pts) (s0 := st0) x ?_ ?_; rotate_left; intro hopt; clear_value x; rotate_left; unfold x)
    | (intro x; refine same_cut_o (w := pts) (s0 := st0) x ?_ ?_; rotate_left; intro hopt; clear_value x; rotate_left; unfold x)
    | (intro x; refine same_cut_fst (w := pts) (s0 := st0) x ?_ ?_; rotate_left; intro _; clear_value x; rotate_left; unfold x)
    | (intro x; refine same_cut_snd (w := pts) (s0 := st0) x ?_ ?_; rotate_left; intro _; clear_value x; rotate_left; unfold x)
    | (intro x; clear_value x)
    | (with_reducible apply modQp_same)
    | (with_reducible apply releaseRecords_same)
    | (with_reducible refine hopt _ (by assumption))
    | (with_reducible exact hopt _ rfl)
    | (with_reducible apply hfun)
    | (intro _)
    | split
    | (with_reducible apply AnswerSame.next)
    | (with_reducible apply same_getD)
    | (refine same_mk hs ?_; intro p hp; cases p <;> first | exact rfl | exact absurd (by assumption) hp)
    | (refine same_mk (by assumption) ?_; intro p hp; cases p <;> first | exact rfl | exact absurd (by assumption) hp)
    | (dsimp only)
    | (rename_i he; split at he)
    | (rename_i he; injection he with he; subst he)

theorem completeRequest_same {pts : List Part} {st0 : State} (h at' st rows detail : Nat) (psn : Option Nat) (s : State) (hs : Agrees pts st0 s) (meth : Part.eth ∈ pts) (mroods : Part.roods ∈ pts) (mstks : Part.stks ∈ pts) (mslots : Part.slots ∈ pts) (mrequests : Part.requests ∈ pts) : Agrees pts st0 (completeRequest h at' st rows detail psn s) := by
  delta completeRequest
  repeat' first
    | (with_reducible assumption)
    | (with_reducible rfl)
    | (with_reducible refine fun _ => ?_)
    | lift_lets
    | (intro x; refine same_cut (w := pts) (s0 := st0) x ?_ ?_; rotate_left; intro _; clear_value x; rotate_left; unfold x)
    | (intro x; refine same_cut_ss (w := pts) (s0 := st0) x ?_ ?_; rotate_left; intro hfun; clear_value x; rotate_left; unfold x)
    | (intro x; refine same_cut_ass (w := pts) (s0 := st0) x ?_ ?_; rotate_left; intro hfun; clear_value x; rotate_left; unfold x)
    | (intro x; refine same_cut_abss (w := pts) (s0 := st0) x ?_ ?_; rotate_left; intro hfun; clear_value x; rotate_left; unfold x)
    | (intro x; refine same_cut_a (w := pts) (s0 := st0) x ?_ ?_; rotate_left; intro hfun; clear_value x; rotate_left; unfold x)
    | (intro x; refine same_cut_ab (w := pts) (s0 := st0) x ?_ ?_; rotate_left; intro hfun; clear_value x; rotate_left; unfold x)
    | (intro x; refine same_cut_abc (w := pts) (s0 := st0) x ?_ ?_; rotate_left; intro hfun; clear_value x; rotate_left; unfold x)
    | (intro x; refine same_cut_o1 (w := pts) (s0 := st0) x ?_ ?_; rotate_left; intro hopt; clear_value x; rotate_left; unfold x)
    | (intro x; refine same_cut_o (w := pts) (s0 := st0) x ?_ ?_; rotate_left; intro hopt; clear_value x; rotate_left; unfold x)
    | (intro x; refine same_cut_fst (w := pts) (s0 := st0) x ?_ ?_; rotate_left; intro _; clear_value x; rotate_left; unfold x)
    | (intro x; refine same_cut_snd (w := pts) (s0 := st0) x ?_ ?_; rotate_left; intro _; clear_value x; rotate_left; unfold x)
    | (intro x; clear_value x)
    | (with_reducible apply modReq_same)
    | (with_reducible apply dropHolds_same)
    | (with_reducible apply dropRequest_same)
    | (with_reducible apply sendRecord_same)
    | (with_reducible refine hopt _ (by assumption))
    | (with_reducible exact hopt _ rfl)
    | (with_reducible apply hfun)
    | (intro _)
    | split
    | (with_reducible apply AnswerSame.next)
    | (with_reducible apply same_getD)
    | (refine same_mk hs ?_; intro p hp; cases p <;> first | exact rfl | exact absurd (by assumption) hp)
    | (refine same_mk (by assumption) ?_; intro p hp; cases p <;> first | exact rfl | exact absurd (by assumption) hp)
    | (dsimp only)
    | (rename_i he; split at he)
    | (rename_i he; injection he with he; subst he)

theorem failRequest_same {pts : List Part} {st0 : State} (h st detail : Nat) (s : State) (hs : Agrees pts st0 s) (meth : Part.eth ∈ pts) (mroods : Part.roods ∈ pts) (mstks : Part.stks ∈ pts) (mslots : Part.slots ∈ pts) (mrequests : Part.requests ∈ pts) : Agrees pts st0 (failRequest h st detail s) := by
  delta failRequest
  repeat' first
    | (with_reducible assumption)
    | (with_reducible rfl)
    | (with_reducible refine fun _ => ?_)
    | lift_lets
    | (intro x; refine same_cut (w := pts) (s0 := st0) x ?_ ?_; rotate_left; intro _; clear_value x; rotate_left; unfold x)
    | (intro x; refine same_cut_ss (w := pts) (s0 := st0) x ?_ ?_; rotate_left; intro hfun; clear_value x; rotate_left; unfold x)
    | (intro x; refine same_cut_ass (w := pts) (s0 := st0) x ?_ ?_; rotate_left; intro hfun; clear_value x; rotate_left; unfold x)
    | (intro x; refine same_cut_abss (w := pts) (s0 := st0) x ?_ ?_; rotate_left; intro hfun; clear_value x; rotate_left; unfold x)
    | (intro x; refine same_cut_a (w := pts) (s0 := st0) x ?_ ?_; rotate_left; intro hfun; clear_value x; rotate_left; unfold x)
    | (intro x; refine same_cut_ab (w := pts) (s0 := st0) x ?_ ?_; rotate_left; intro hfun; clear_value x; rotate_left; unfold x)
    | (intro x; refine same_cut_abc (w := pts) (s0 := st0) x ?_ ?_; rotate_left; intro hfun; clear_value x; rotate_left; unfold x)
    | (intro x; refine same_cut_o1 (w := pts) (s0 := st0) x ?_ ?_; rotate_left; intro hopt; clear_value x; rotate_left; unfold x)
    | (intro x; refine same_cut_o (w := pts) (s0 := st0) x ?_ ?_; rotate_left; intro hopt; clear_value x; rotate_left; unfold x)
    | (intro x; refine same_cut_fst (w := pts) (s0 := st0) x ?_ ?_; rotate_left; intro _; clear_value x; rotate_left; unfold x)
    | (intro x; refine same_cut_snd (w := pts) (s0 := st0) x ?_ ?_; rotate_left; intro _; clear_value x; rotate_left; unfold x)
    | (intro x; clear_value x)
    | (with_reducible apply completeRequest_same)
    | (with_reducible refine hopt _ (by assumption))
    | (with_reducible exact hopt _ rfl)
    | (with_reducible apply hfun)
    | (intro _)
    | split
    | (with_reducible apply AnswerSame.next)
    | (with_reducible apply same_getD)
    | (refine same_mk hs ?_; intro p hp; cases p <;> first | exact rfl | exact absurd (by assumption) hp)
    | (refine same_mk (by assumption) ?_; intro p hp; cases p <;> first | exact rfl | exact absurd (by assumption) hp)
    | (dsimp only)
    | (rename_i he; split at he)
    | (rename_i he; injection he with he; subst he)

theorem qpAck_same {pts : List Part} {st0 : State} (q p : Nat) (s : State) (hs : Agrees pts st0 s) (meth : Part.eth ∈ pts) (mroods : Part.roods ∈ pts) (mstks : Part.stks ∈ pts) (mslots : Part.slots ∈ pts) (mrequests : Part.requests ∈ pts) : Agrees pts st0 (qpAck q p s) := by
  delta qpAck
  repeat' first
    | (with_reducible assumption)
    | (with_reducible rfl)
    | (with_reducible refine fun _ => ?_)
    | lift_lets
    | (intro x; refine same_cut (w := pts) (s0 := st0) x ?_ ?_; rotate_left; intro _; clear_value x; rotate_left; unfold x)
    | (intro x; refine same_cut_ss (w := pts) (s0 := st0) x ?_ ?_; rotate_left; intro hfun; clear_value x; rotate_left; unfold x)
    | (intro x; refine same_cut_ass (w := pts) (s0 := st0) x ?_ ?_; rotate_left; intro hfun; clear_value x; rotate_left; unfold x)
    | (intro x; refine same_cut_abss (w := pts) (s0 := st0) x ?_ ?_; rotate_left; intro hfun; clear_value x; rotate_left; unfold x)
    | (intro x; refine same_cut_a (w := pts) (s0 := st0) x ?_ ?_; rotate_left; intro hfun; clear_value x; rotate_left; unfold x)
    | (intro x; refine same_cut_ab (w := pts) (s0 := st0) x ?_ ?_; rotate_left; intro hfun; clear_value x; rotate_left; unfold x)
    | (intro x; refine same_cut_abc (w := pts) (s0 := st0) x ?_ ?_; rotate_left; intro hfun; clear_value x; rotate_left; unfold x)
    | (intro x; refine same_cut_o1 (w := pts) (s0 := st0) x ?_ ?_; rotate_left; intro hopt; clear_value x; rotate_left; unfold x)
    | (intro x; refine same_cut_o (w := pts) (s0 := st0) x ?_ ?_; rotate_left; intro hopt; clear_value x; rotate_left; unfold x)
    | (intro x; refine same_cut_fst (w := pts) (s0 := st0) x ?_ ?_; rotate_left; intro _; clear_value x; rotate_left; unfold x)
    | (intro x; refine same_cut_snd (w := pts) (s0 := st0) x ?_ ?_; rotate_left; intro _; clear_value x; rotate_left; unfold x)
    | (intro x; clear_value x)
    | (with_reducible apply noteAck_same)
    | (with_reducible apply releaseRecords_same)
    | (with_reducible refine hopt _ (by assumption))
    | (with_reducible exact hopt _ rfl)
    | (with_reducible apply hfun)
    | (intro _)
    | split
    | (with_reducible apply AnswerSame.next)
    | (with_reducible apply same_getD)
    | (refine same_mk hs ?_; intro p hp; cases p <;> first | exact rfl | exact absurd (by assumption) hp)
    | (refine same_mk (by assumption) ?_; intro p hp; cases p <;> first | exact rfl | exact absurd (by assumption) hp)
    | (dsimp only)
    | (rename_i he; split at he)
    | (rename_i he; injection he with he; subst he)

theorem intake_same {pts : List Part} {st0 : State} (k : Request) (s : State) (hs : Agrees pts st0 s) (mevents : Part.events ∈ pts) (mroods : Part.roods ∈ pts) (mslices : Part.slices ∈ pts) (mmem : Part.mem ∈ pts) : Agrees pts st0 (intake k s) := by
  delta intake
  repeat' first
    | (with_reducible assumption)
    | (with_reducible rfl)
    | (with_reducible refine fun _ => ?_)
    | lift_lets
    | (intro x; refine same_cut (w := pts) (s0 := st0) x ?_ ?_; rotate_left; intro _; clear_value x; rotate_left; unfold x)
    | (intro x; refine same_cut_ss (w := pts) (s0 := st0) x ?_ ?_; rotate_left; intro hfun; clear_value x; rotate_left; unfold x)
    | (intro x; refine same_cut_ass (w := pts) (s0 := st0) x ?_ ?_; rotate_left; intro hfun; clear_value x; rotate_left; unfold x)
    | (intro x; refine same_cut_abss (w := pts) (s0 := st0) x ?_ ?_; rotate_left; intro hfun; clear_value x; rotate_left; unfold x)
    | (intro x; refine same_cut_a (w := pts) (s0 := st0) x ?_ ?_; rotate_left; intro hfun; clear_value x; rotate_left; unfold x)
    | (intro x; refine same_cut_ab (w := pts) (s0 := st0) x ?_ ?_; rotate_left; intro hfun; clear_value x; rotate_left; unfold x)
    | (intro x; refine same_cut_abc (w := pts) (s0 := st0) x ?_ ?_; rotate_left; intro hfun; clear_value x; rotate_left; unfold x)
    | (intro x; refine same_cut_o1 (w := pts) (s0 := st0) x ?_ ?_; rotate_left; intro hopt; clear_value x; rotate_left; unfold x)
    | (intro x; refine same_cut_o (w := pts) (s0 := st0) x ?_ ?_; rotate_left; intro hopt; clear_value x; rotate_left; unfold x)
    | (intro x; refine same_cut_fst (w := pts) (s0 := st0) x ?_ ?_; rotate_left; intro _; clear_value x; rotate_left; unfold x)
    | (intro x; refine same_cut_snd (w := pts) (s0 := st0) x ?_ ?_; rotate_left; intro _; clear_value x; rotate_left; unfold x)
    | (intro x; clear_value x)
    | (with_reducible apply forAll_same)
    | (with_reducible apply logEv_same)
    | (with_reducible apply raiseRood_same)
    | (with_reducible apply ctrAdd_same)
    | (with_reducible apply wrBytes_same)
    | (with_reducible refine hopt _ (by assumption))
    | (with_reducible exact hopt _ rfl)
    | (with_reducible apply hfun)
    | (intro _)
    | split
    | (with_reducible apply AnswerSame.next)
    | (with_reducible apply same_getD)
    | (refine same_mk hs ?_; intro p hp; cases p <;> first | exact rfl | exact absurd (by assumption) hp)
    | (refine same_mk (by assumption) ?_; intro p hp; cases p <;> first | exact rfl | exact absurd (by assumption) hp)
    | (dsimp only)
    | (rename_i he; split at he)
    | (rename_i he; injection he with he; subst he)

theorem admitRequest_same {pts : List Part} {st0 : State} (h : Nat) (s : State) (hs : Agrees pts st0 s) (mevents : Part.events ∈ pts) (meth : Part.eth ∈ pts) (mlinks : Part.links ∈ pts) (mfab : Part.fab ∈ pts) (mroods : Part.roods ∈ pts) (mslices : Part.slices ∈ pts) (mstks : Part.stks ∈ pts) (mflash : Part.flash ∈ pts) (mslots : Part.slots ∈ pts) (mcache : Part.cache ∈ pts) (mnextCache : Part.nextCache ∈ pts) (mrequests : Part.requests ∈ pts) (mmem : Part.mem ∈ pts) : Agrees pts st0 (admitRequest h s) := by
  delta admitRequest
  repeat' first
    | (with_reducible assumption)
    | (with_reducible rfl)
    | (with_reducible refine fun _ => ?_)
    | lift_lets
    | (intro x; refine same_cut (w := pts) (s0 := st0) x ?_ ?_; rotate_left; intro _; clear_value x; rotate_left; unfold x)
    | (intro x; refine same_cut_ss (w := pts) (s0 := st0) x ?_ ?_; rotate_left; intro hfun; clear_value x; rotate_left; unfold x)
    | (intro x; refine same_cut_ass (w := pts) (s0 := st0) x ?_ ?_; rotate_left; intro hfun; clear_value x; rotate_left; unfold x)
    | (intro x; refine same_cut_abss (w := pts) (s0 := st0) x ?_ ?_; rotate_left; intro hfun; clear_value x; rotate_left; unfold x)
    | (intro x; refine same_cut_a (w := pts) (s0 := st0) x ?_ ?_; rotate_left; intro hfun; clear_value x; rotate_left; unfold x)
    | (intro x; refine same_cut_ab (w := pts) (s0 := st0) x ?_ ?_; rotate_left; intro hfun; clear_value x; rotate_left; unfold x)
    | (intro x; refine same_cut_abc (w := pts) (s0 := st0) x ?_ ?_; rotate_left; intro hfun; clear_value x; rotate_left; unfold x)
    | (intro x; refine same_cut_o1 (w := pts) (s0 := st0) x ?_ ?_; rotate_left; intro hopt; clear_value x; rotate_left; unfold x)
    | (intro x; refine same_cut_o (w := pts) (s0 := st0) x ?_ ?_; rotate_left; intro hopt; clear_value x; rotate_left; unfold x)
    | (intro x; refine same_cut_fst (w := pts) (s0 := st0) x ?_ ?_; rotate_left; intro _; clear_value x; rotate_left; unfold x)
    | (intro x; refine same_cut_snd (w := pts) (s0 := st0) x ?_ ?_; rotate_left; intro _; clear_value x; rotate_left; unfold x)
    | (intro x; clear_value x)
    | (with_reducible apply modReq_same)
    | (with_reducible apply forAll_same)
    | (with_reducible apply sendMinimal_same)
    | (with_reducible apply holdEpoch_same)
    | (with_reducible apply dropRow_same)
    | (with_reducible apply admitRows_same)
    | (with_reducible refine admitRows_same_eq _ _ _ _ _ _ ?_ ?_ ?_ ?_ ?_ ?_ ?_ (by assumption))
    | (with_reducible apply failRequest_same)
    | (with_reducible apply intake_same)
    | (with_reducible refine hopt _ (by assumption))
    | (with_reducible exact hopt _ rfl)
    | (with_reducible apply hfun)
    | (intro _)
    | split
    | (with_reducible apply AnswerSame.next)
    | (with_reducible apply same_getD)
    | (refine same_mk hs ?_; intro p hp; cases p <;> first | exact rfl | exact absurd (by assumption) hp)
    | (refine same_mk (by assumption) ?_; intro p hp; cases p <;> first | exact rfl | exact absurd (by assumption) hp)
    | (dsimp only)
    | (rename_i he; split at he)
    | (rename_i he; injection he with he; subst he)

theorem admitWaiting_same {pts : List Part} {st0 : State} (r : Nat) (s : State) (hs : Agrees pts st0 s) (mevents : Part.events ∈ pts) (meth : Part.eth ∈ pts) (mlinks : Part.links ∈ pts) (mfab : Part.fab ∈ pts) (mroods : Part.roods ∈ pts) (mslices : Part.slices ∈ pts) (mstks : Part.stks ∈ pts) (mflash : Part.flash ∈ pts) (mslots : Part.slots ∈ pts) (mcache : Part.cache ∈ pts) (mnextCache : Part.nextCache ∈ pts) (mrequests : Part.requests ∈ pts) (mmem : Part.mem ∈ pts) : Agrees pts st0 (admitWaiting r s) := by
  delta admitWaiting
  repeat' first
    | (with_reducible assumption)
    | (with_reducible rfl)
    | (with_reducible refine fun _ => ?_)
    | lift_lets
    | (intro x; refine same_cut (w := pts) (s0 := st0) x ?_ ?_; rotate_left; intro _; clear_value x; rotate_left; unfold x)
    | (intro x; refine same_cut_ss (w := pts) (s0 := st0) x ?_ ?_; rotate_left; intro hfun; clear_value x; rotate_left; unfold x)
    | (intro x; refine same_cut_ass (w := pts) (s0 := st0) x ?_ ?_; rotate_left; intro hfun; clear_value x; rotate_left; unfold x)
    | (intro x; refine same_cut_abss (w := pts) (s0 := st0) x ?_ ?_; rotate_left; intro hfun; clear_value x; rotate_left; unfold x)
    | (intro x; refine same_cut_a (w := pts) (s0 := st0) x ?_ ?_; rotate_left; intro hfun; clear_value x; rotate_left; unfold x)
    | (intro x; refine same_cut_ab (w := pts) (s0 := st0) x ?_ ?_; rotate_left; intro hfun; clear_value x; rotate_left; unfold x)
    | (intro x; refine same_cut_abc (w := pts) (s0 := st0) x ?_ ?_; rotate_left; intro hfun; clear_value x; rotate_left; unfold x)
    | (intro x; refine same_cut_o1 (w := pts) (s0 := st0) x ?_ ?_; rotate_left; intro hopt; clear_value x; rotate_left; unfold x)
    | (intro x; refine same_cut_o (w := pts) (s0 := st0) x ?_ ?_; rotate_left; intro hopt; clear_value x; rotate_left; unfold x)
    | (intro x; refine same_cut_fst (w := pts) (s0 := st0) x ?_ ?_; rotate_left; intro _; clear_value x; rotate_left; unfold x)
    | (intro x; refine same_cut_snd (w := pts) (s0 := st0) x ?_ ?_; rotate_left; intro _; clear_value x; rotate_left; unfold x)
    | (intro x; clear_value x)
    | (with_reducible apply forAll_same)
    | (with_reducible apply admitRequest_same)
    | (with_reducible refine hopt _ (by assumption))
    | (with_reducible exact hopt _ rfl)
    | (with_reducible apply hfun)
    | (intro _)
    | split
    | (with_reducible apply AnswerSame.next)
    | (with_reducible apply same_getD)
    | (refine same_mk hs ?_; intro p hp; cases p <;> first | exact rfl | exact absurd (by assumption) hp)
    | (refine same_mk (by assumption) ?_; intro p hp; cases p <;> first | exact rfl | exact absurd (by assumption) hp)
    | (dsimp only)
    | (rename_i he; split at he)
    | (rename_i he; injection he with he; subst he)

theorem joinRequests_same {pts : List Part} {st0 : State} (s : State) (hs : Agrees pts st0 s) (mrequests : Part.requests ∈ pts) : Agrees pts st0 (joinRequests s) := by
  delta joinRequests
  repeat' first
    | (with_reducible assumption)
    | (with_reducible rfl)
    | (with_reducible refine fun _ => ?_)
    | lift_lets
    | (intro x; refine same_cut (w := pts) (s0 := st0) x ?_ ?_; rotate_left; intro _; clear_value x; rotate_left; unfold x)
    | (intro x; refine same_cut_ss (w := pts) (s0 := st0) x ?_ ?_; rotate_left; intro hfun; clear_value x; rotate_left; unfold x)
    | (intro x; refine same_cut_ass (w := pts) (s0 := st0) x ?_ ?_; rotate_left; intro hfun; clear_value x; rotate_left; unfold x)
    | (intro x; refine same_cut_abss (w := pts) (s0 := st0) x ?_ ?_; rotate_left; intro hfun; clear_value x; rotate_left; unfold x)
    | (intro x; refine same_cut_a (w := pts) (s0 := st0) x ?_ ?_; rotate_left; intro hfun; clear_value x; rotate_left; unfold x)
    | (intro x; refine same_cut_ab (w := pts) (s0 := st0) x ?_ ?_; rotate_left; intro hfun; clear_value x; rotate_left; unfold x)
    | (intro x; refine same_cut_abc (w := pts) (s0 := st0) x ?_ ?_; rotate_left; intro hfun; clear_value x; rotate_left; unfold x)
    | (intro x; refine same_cut_o1 (w := pts) (s0 := st0) x ?_ ?_; rotate_left; intro hopt; clear_value x; rotate_left; unfold x)
    | (intro x; refine same_cut_o (w := pts) (s0 := st0) x ?_ ?_; rotate_left; intro hopt; clear_value x; rotate_left; unfold x)
    | (intro x; refine same_cut_fst (w := pts) (s0 := st0) x ?_ ?_; rotate_left; intro _; clear_value x; rotate_left; unfold x)
    | (intro x; refine same_cut_snd (w := pts) (s0 := st0) x ?_ ?_; rotate_left; intro _; clear_value x; rotate_left; unfold x)
    | (intro x; clear_value x)
    | (with_reducible refine hopt _ (by assumption))
    | (with_reducible exact hopt _ rfl)
    | (with_reducible apply hfun)
    | (intro _)
    | split
    | (with_reducible apply AnswerSame.next)
    | (with_reducible apply same_getD)
    | (refine same_mk hs ?_; intro p hp; cases p <;> first | exact rfl | exact absurd (by assumption) hp)
    | (refine same_mk (by assumption) ?_; intro p hp; cases p <;> first | exact rfl | exact absurd (by assumption) hp)
    | (dsimp only)
    | (rename_i he; split at he)
    | (rename_i he; injection he with he; subst he)

theorem qpError_same {pts : List Part} {st0 : State} (q st : Nat) (s : State) (hs : Agrees pts st0 s) (mevents : Part.events ∈ pts) (meth : Part.eth ∈ pts) (mroods : Part.roods ∈ pts) (mstks : Part.stks ∈ pts) (mslots : Part.slots ∈ pts) (mrequests : Part.requests ∈ pts) : Agrees pts st0 (qpError q st s) := by
  delta qpError
  repeat' first
    | (with_reducible assumption)
    | (with_reducible rfl)
    | (with_reducible refine fun _ => ?_)
    | lift_lets
    | (intro x; refine same_cut (w := pts) (s0 := st0) x ?_ ?_; rotate_left; intro _; clear_value x; rotate_left; unfold x)
    | (intro x; refine same_cut_ss (w := pts) (s0 := st0) x ?_ ?_; rotate_left; intro hfun; clear_value x; rotate_left; unfold x)
    | (intro x; refine same_cut_ass (w := pts) (s0 := st0) x ?_ ?_; rotate_left; intro hfun; clear_value x; rotate_left; unfold x)
    | (intro x; refine same_cut_abss (w := pts) (s0 := st0) x ?_ ?_; rotate_left; intro hfun; clear_value x; rotate_left; unfold x)
    | (intro x; refine same_cut_a (w := pts) (s0 := st0) x ?_ ?_; rotate_left; intro hfun; clear_value x; rotate_left; unfold x)
    | (intro x; refine same_cut_ab (w := pts) (s0 := st0) x ?_ ?_; rotate_left; intro hfun; clear_value x; rotate_left; unfold x)
    | (intro x; refine same_cut_abc (w := pts) (s0 := st0) x ?_ ?_; rotate_left; intro hfun; clear_value x; rotate_left; unfold x)
    | (intro x; refine same_cut_o1 (w := pts) (s0 := st0) x ?_ ?_; rotate_left; intro hopt; clear_value x; rotate_left; unfold x)
    | (intro x; refine same_cut_o (w := pts) (s0 := st0) x ?_ ?_; rotate_left; intro hopt; clear_value x; rotate_left; unfold x)
    | (intro x; refine same_cut_fst (w := pts) (s0 := st0) x ?_ ?_; rotate_left; intro _; clear_value x; rotate_left; unfold x)
    | (intro x; refine same_cut_snd (w := pts) (s0 := st0) x ?_ ?_; rotate_left; intro _; clear_value x; rotate_left; unfold x)
    | (intro x; clear_value x)
    | (with_reducible apply modReq_same)
    | (with_reducible apply modQp_same)
    | (with_reducible apply forAll_same)
    | (with_reducible apply raiseEth_same)
    | (with_reducible apply logEth_same)
    | (with_reducible apply dropRequest_same)
    | (with_reducible refine hopt _ (by assumption))
    | (with_reducible exact hopt _ rfl)
    | (with_reducible apply hfun)
    | (intro _)
    | split
    | (with_reducible apply AnswerSame.next)
    | (with_reducible apply same_getD)
    | (refine same_mk hs ?_; intro p hp; cases p <;> first | exact rfl | exact absurd (by assumption) hp)
    | (refine same_mk (by assumption) ?_; intro p hp; cases p <;> first | exact rfl | exact absurd (by assumption) hp)
    | (dsimp only)
    | (rename_i he; split at he)
    | (rename_i he; injection he with he; subst he)

theorem violation_same {pts : List Part} {st0 : State} (row iface ip rood : Nat) (s : State) (hs : Agrees pts st0 s) (mevents : Part.events ∈ pts) (meth : Part.eth ∈ pts) (mroods : Part.roods ∈ pts) (mstks : Part.stks ∈ pts) (mslots : Part.slots ∈ pts) (mrequests : Part.requests ∈ pts) (mfreeCtr : Part.freeCtr ∈ pts) : Agrees pts st0 (violation row iface ip rood s) := by
  delta violation
  repeat' first
    | (with_reducible assumption)
    | (with_reducible refine fun _ => ?_)
    | lift_lets
    | (with_reducible apply forAll_same)
    | (with_reducible refine countViolation_same_eq _ _ _ _ _ ?_ ?_ ?_ ?_ (by assumption))
    | (with_reducible apply qpError_same)
    | split

theorem qpViolation_same {pts : List Part} {st0 : State} (row q : Nat) (s : State) (hs : Agrees pts st0 s) (mevents : Part.events ∈ pts) (meth : Part.eth ∈ pts) (mroods : Part.roods ∈ pts) (mstks : Part.stks ∈ pts) (mslots : Part.slots ∈ pts) (mrequests : Part.requests ∈ pts) (mfreeCtr : Part.freeCtr ∈ pts) : Agrees pts st0 (qpViolation row q s) := by
  delta qpViolation
  repeat' first
    | (with_reducible assumption)
    | (with_reducible apply violation_same)
    | split

theorem nakQp_same {pts : List Part} {st0 : State} (q code row : Nat) (s : State) (hs : Agrees pts st0 s) (mevents : Part.events ∈ pts) (meth : Part.eth ∈ pts) (mroods : Part.roods ∈ pts) (mstks : Part.stks ∈ pts) (mslots : Part.slots ∈ pts) (mrequests : Part.requests ∈ pts) (mfreeCtr : Part.freeCtr ∈ pts) : Agrees pts st0 (nakQp q code row s) := by
  delta nakQp
  repeat' first
    | (with_reducible assumption)
    | lift_lets
    | (with_reducible apply qpSend_same)
    | (with_reducible apply qpError_same)
    | (with_reducible apply qpViolation_same)

end Sys2Proof.Laws
end

