-- ==== Sys2Proof/Laws/TouchBase.lean ====
section
/-! SUPPORT. Which parts of the state every operation of Machine/Base.lean may change (Laws/Touch.lean). -/
namespace Sys2Proof.Laws

set_option linter.unusedVariables false

open Sys2Proof.Machine Sys2Proof.Safety

theorem submitModel_same {pts : List Part} {st0 : State} (r : Nat) (bs : List Byte) (s : State) (hs : Agrees pts st0 s) (mroods : Part.roods ∈ pts) : Agrees pts st0 (submitModel r bs s) := by
  delta submitModel
  repeat' first
    | (with_reducible assumption)
    | (with_reducible rfl)
    | (with_reducible refine fun _ => ?_)
    | lift_lets
    | (intro x; refine same_cut (w := pts) (s0 := st0) x ?_ ?_; rotate_left; intro _; clear_value x; rotate_left; unfold x)
    | (intro x; refine same_cut_ss (w := pts) (s0 := st0) x ?_ ?_; rotate_left; intro hfun; clear_value x; rotate_left; unfold x)
    | (intro x; refine same_cut_ass (w := pts) (s0 := st0) x ?_ ?_; rotate_left; intro hfun; clear_value x; rotate_left; unfold x)
    | (intro x; refine same_cut_abss (w := pts) (s0 := st0) x ?_ ?_; rotate_left; intro hfun; clear_value x; rotate_left; unfold x)
    | (intro x; refine same_cut_a (w := pts) (s0 := st0) x ?_ ?_; rotate_left; intro hfun; clear_value x; rotate_left; unfold x)
    | (intro x; refine same_cut_ab (w := pts) (s0 := st0) x ?_ ?_; rotate_left; intro hfun; clear_value x; rotate_left; unfold x)
    | (intro x; refine same_cut_abc (w := pts) (s0 := st0) x ?_ ?_; rotate_left; intro hfun; clear_value x; rotate_left; unfold x)
    | (intro x; refine same_cut_o1 (w := pts) (s0 := st0) x ?_ ?_; rotate_left; intro hopt; clear_value x; rotate_left; unfold x)
    | (intro x; refine same_cut_o (w := pts) (s0 := st0) x ?_ ?_; rotate_left; intro hopt; clear_value x; rotate_left; unfold x)
    | (intro x; refine same_cut_fst (w := pts) (s0 := st0) x ?_ ?_; rotate_left; intro _; clear_value x; rotate_left; unfold x)
    | (intro x; refine same_cut_snd (w := pts) (s0 := st0) x ?_ ?_; rotate_left; intro _; clear_value x; rotate_left; unfold x)
    | (intro x; clear_value x)
    | (with_reducible apply submitCmd_same)
    | (with_reducible refine hopt _ (by assumption))
    | (with_reducible exact hopt _ rfl)
    | (with_reducible apply hfun)
    | (intro _)
    | split
    | (with_reducible apply AnswerSame.next)
    | (with_reducible apply same_getD)
    | (refine same_mk hs ?_; intro p hp; cases p <;> first | exact rfl | exact absurd (by assumption) hp)
    | (refine same_mk (by assumption) ?_; intro p hp; cases p <;> first | exact rfl | exact absurd (by assumption) hp)
    | (dsimp only)
    | (rename_i he; split at he)
    | (rename_i he; injection he with he; subst he)

theorem fetchFlash_same {pts : List Part} {st0 : State} (r off n : Nat) (s : State) (hs : Agrees pts st0 s) (mevents : Part.events ∈ pts) (mstks : Part.stks ∈ pts) (mstreams : Part.streams ∈ pts) (mflash : Part.flash ∈ pts) (mfreeCtr : Part.freeCtr ∈ pts) : Agrees pts st0 (fetchFlash r off n s) := by
  delta fetchFlash
  repeat' first
    | (with_reducible assumption)
    | (with_reducible rfl)
    | (with_reducible refine fun _ => ?_)
    | lift_lets
    | (intro x; refine same_cut (w := pts) (s0 := st0) x ?_ ?_; rotate_left; intro _; clear_value x; rotate_left; unfold x)
    | (intro x; refine same_cut_ss (w := pts) (s0 := st0) x ?_ ?_; rotate_left; intro hfun; clear_value x; rotate_left; unfold x)
    | (intro x; refine same_cut_ass (w := pts) (s0 := st0) x ?_ ?_; rotate_left; intro hfun; clear_value x; rotate_left; unfold x)
    | (intro x; refine same_cut_abss (w := pts) (s0 := st0) x ?_ ?_; rotate_left; intro hfun; clear_value x; rotate_left; unfold x)
    | (intro x; refine same_cut_a (w := pts) (s0 := st0) x ?_ ?_; rotate_left; intro hfun; clear_value x; rotate_left; unfold x)
    | (intro x; refine same_cut_ab (w := pts) (s0 := st0) x ?_ ?_; rotate_left; intro hfun; clear_value x; rotate_left; unfold x)
    | (intro x; refine same_cut_abc (w := pts) (s0 := st0) x ?_ ?_; rotate_left; intro hfun; clear_value x; rotate_left; unfold x)
    | (intro x; refine same_cut_o1 (w := pts) (s0 := st0) x ?_ ?_; rotate_left; intro hopt; clear_value x; rotate_left; unfold x)
    | (intro x; refine same_cut_o (w := pts) (s0 := st0) x ?_ ?_; rotate_left; intro hopt; clear_value x; rotate_left; unfold x)
    | (intro x; refine same_cut_fst (w := pts) (s0 := st0) x ?_ ?_; rotate_left; intro _; clear_value x; rotate_left; unfold x)
    | (intro x; refine same_cut_snd (w := pts) (s0 := st0) x ?_ ?_; rotate_left; intro _; clear_value x; rotate_left; unfold x)
    | (intro x; clear_value x)
    | (with_reducible apply readSlots_same)
    | (with_reducible refine hopt _ (by assumption))
    | (with_reducible exact hopt _ rfl)
    | (with_reducible apply hfun)
    | (intro _)
    | split
    | (with_reducible apply AnswerSame.next)
    | (with_reducible apply same_getD)
    | (refine same_mk hs ?_; intro p hp; cases p <;> first | exact rfl | exact absurd (by assumption) hp)
    | (refine same_mk (by assumption) ?_; intro p hp; cases p <;> first | exact rfl | exact absurd (by assumption) hp)
    | (dsimp only)
    | (rename_i he; split at he)
    | (rename_i he; injection he with he; subst he)

theorem fetchManifest_same {pts : List Part} {st0 : State} (r : Nat) (c : ModelCmd) (w : LoadWorld) (s : State) (hs : Agrees pts st0 s) (mevents : Part.events ∈ pts) (mstks : Part.stks ∈ pts) (mstreams : Part.streams ∈ pts) (mflash : Part.flash ∈ pts) (mfreeCtr : Part.freeCtr ∈ pts) : Agrees pts st0 (fetchManifest r c w s) := by
  delta fetchManifest
  repeat' first
    | (with_reducible assumption)
    | (with_reducible rfl)
    | (with_reducible refine fun _ => ?_)
    | lift_lets
    | (intro x; refine same_cut (w := pts) (s0 := st0) x ?_ ?_; rotate_left; intro _; clear_value x; rotate_left; unfold x)
    | (intro x; refine same_cut_ss (w := pts) (s0 := st0) x ?_ ?_; rotate_left; intro hfun; clear_value x; rotate_left; unfold x)
    | (intro x; refine same_cut_ass (w := pts) (s0 := st0) x ?_ ?_; rotate_left; intro hfun; clear_value x; rotate_left; unfold x)
    | (intro x; refine same_cut_abss (w := pts) (s0 := st0) x ?_ ?_; rotate_left; intro hfun; clear_value x; rotate_left; unfold x)
    | (intro x; refine same_cut_a (w := pts) (s0 := st0) x ?_ ?_; rotate_left; intro hfun; clear_value x; rotate_left; unfold x)
    | (intro x; refine same_cut_ab (w := pts) (s0 := st0) x ?_ ?_; rotate_left; intro hfun; clear_value x; rotate_left; unfold x)
    | (intro x; refine same_cut_abc (w := pts) (s0 := st0) x ?_ ?_; rotate_left; intro hfun; clear_value x; rotate_left; unfold x)
    | (intro x; refine same_cut_o1 (w := pts) (s0 := st0) x ?_ ?_; rotate_left; intro hopt; clear_value x; rotate_left; unfold x)
    | (intro x; refine same_cut_o (w := pts) (s0 := st0) x ?_ ?_; rotate_left; intro hopt; clear_value x; rotate_left; unfold x)
    | (intro x; refine same_cut_fst (w := pts) (s0 := st0) x ?_ ?_; rotate_left; intro _; clear_value x; rotate_left; unfold x)
    | (intro x; refine same_cut_snd (w := pts) (s0 := st0) x ?_ ?_; rotate_left; intro _; clear_value x; rotate_left; unfold x)
    | (intro x; clear_value x)
    | (with_reducible apply fetchFlash_same)
    | (with_reducible refine hopt _ (by assumption))
    | (with_reducible exact hopt _ rfl)
    | (with_reducible apply hfun)
    | (intro _)
    | split
    | (with_reducible apply AnswerSame.next)
    | (with_reducible apply same_getD)
    | (refine same_mk hs ?_; intro p hp; cases p <;> first | exact rfl | exact absurd (by assumption) hp)
    | (refine same_mk (by assumption) ?_; intro p hp; cases p <;> first | exact rfl | exact absurd (by assumption) hp)
    | (dsimp only)
    | (rename_i he; split at he)
    | (rename_i he; injection he with he; subst he)

theorem openEntry_same {pts : List Part} {st0 : State} (r epoch readers : Nat) (e : ShardEntry) (s : State) (hs : Agrees pts st0 s) (mstks : Part.stks ∈ pts) : Agrees pts st0 (openEntry r epoch readers e s) := by
  delta openEntry
  repeat' first
    | (with_reducible assumption)
    | (with_reducible apply modLock_same)
    | split

theorem fetchShard_same {pts : List Part} {st0 : State} (r : Nat) (c : ModelCmd) (w : LoadWorld) (i : Nat) (e : ShardEntry) (s : State) (hs : Agrees pts st0 s) (mevents : Part.events ∈ pts) (mstks : Part.stks ∈ pts) (mstreams : Part.streams ∈ pts) (mflash : Part.flash ∈ pts) (mfreeCtr : Part.freeCtr ∈ pts) : Agrees pts st0 (fetchShard r c w i e s) := by
  delta fetchShard
  repeat' first
    | (with_reducible assumption)
    | (with_reducible rfl)
    | (with_reducible refine fun _ => ?_)
    | lift_lets
    | (intro x; refine same_cut (w := pts) (s0 := st0) x ?_ ?_; rotate_left; intro _; clear_value x; rotate_left; unfold x)
    | (intro x; refine same_cut_ss (w := pts) (s0 := st0) x ?_ ?_; rotate_left; intro hfun; clear_value x; rotate_left; unfold x)
    | (intro x; refine same_cut_ass (w := pts) (s0 := st0) x ?_ ?_; rotate_left; intro hfun; clear_value x; rotate_left; unfold x)
    | (intro x; refine same_cut_abss (w := pts) (s0 := st0) x ?_ ?_; rotate_left; intro hfun; clear_value x; rotate_left; unfold x)
    | (intro x; refine same_cut_a (w := pts) (s0 := st0) x ?_ ?_; rotate_left; intro hfun; clear_value x; rotate_left; unfold x)
    | (intro x; refine same_cut_ab (w := pts) (s0 := st0) x ?_ ?_; rotate_left; intro hfun; clear_value x; rotate_left; unfold x)
    | (intro x; refine same_cut_abc (w := pts) (s0 := st0) x ?_ ?_; rotate_left; intro hfun; clear_value x; rotate_left; unfold x)
    | (intro x; refine same_cut_o1 (w := pts) (s0 := st0) x ?_ ?_; rotate_left; intro hopt; clear_value x; rotate_left; unfold x)
    | (intro x; refine same_cut_o (w := pts) (s0 := st0) x ?_ ?_; rotate_left; intro hopt; clear_value x; rotate_left; unfold x)
    | (intro x; refine same_cut_fst (w := pts) (s0 := st0) x ?_ ?_; rotate_left; intro _; clear_value x; rotate_left; unfold x)
    | (intro x; refine same_cut_snd (w := pts) (s0 := st0) x ?_ ?_; rotate_left; intro _; clear_value x; rotate_left; unfold x)
    | (intro x; clear_value x)
    | (with_reducible apply fetchFlash_same)
    | (with_reducible refine hopt _ (by assumption))
    | (with_reducible exact hopt _ rfl)
    | (with_reducible apply hfun)
    | (intro _)
    | split
    | (with_reducible apply AnswerSame.next)
    | (with_reducible apply same_getD)
    | (refine same_mk hs ?_; intro p hp; cases p <;> first | exact rfl | exact absurd (by assumption) hp)
    | (refine same_mk (by assumption) ?_; intro p hp; cases p <;> first | exact rfl | exact absurd (by assumption) hp)
    | (dsimp only)
    | (rename_i he; split at he)
    | (rename_i he; injection he with he; subst he)

theorem writeRange_same {pts : List Part} {st0 : State} (r : Nat) (e : ShardEntry) (images : List (List Byte)) (s : State) (hs : Agrees pts st0 s) (mstks : Part.stks ∈ pts) (mmem : Part.mem ∈ pts) (mbushels : Part.bushels ∈ pts) : Agrees pts st0 (writeRange r e images s) := by
  delta writeRange
  repeat' first
    | (with_reducible assumption)
    | (with_reducible refine fun _ => ?_)
    | lift_lets
    | (intro x; refine same_cut (w := pts) (s0 := st0) x ?_ ?_; rotate_left; intro _; clear_value x; rotate_left; unfold x)
    | (with_reducible apply modStack_same)
    | (with_reducible apply forAll_same)
    | (with_reducible apply putBushel_same)

theorem freeEntries_same {pts : List Part} {st0 : State} (r epoch : Nat) (s : State) (hs : Agrees pts st0 s) (mstks : Part.stks ∈ pts) : Agrees pts st0 (freeEntries r epoch s) := by
  delta freeEntries
  repeat' first
    | (with_reducible assumption)
    | (with_reducible apply modEpochLocks_same)

theorem dropEpochRec_same {pts : List Part} {st0 : State} (r n : Nat) (s : State) (hs : Agrees pts st0 s) (mroods : Part.roods ∈ pts) : Agrees pts st0 (dropEpochRec r n s) := by
  delta dropEpochRec
  repeat' first
    | (with_reducible assumption)
    | (with_reducible apply modRood_same)

theorem modEpoch_same {pts : List Part} {st0 : State} (r n : Nat) (f : Epoch → Epoch) (s : State) (hs : Agrees pts st0 s) (mroods : Part.roods ∈ pts) : Agrees pts st0 (modEpoch r n f s) := by
  delta modEpoch
  repeat' first
    | (with_reducible assumption)
    | (with_reducible apply modRood_same)

theorem runLoad_same {pts : List Part} {st0 : State} (r : Nat) (c : ModelCmd) (lw : LoadWorld) (s : State) (hs : Agrees pts st0 s) (mevents : Part.events ∈ pts) (mroods : Part.roods ∈ pts) (mstks : Part.stks ∈ pts) (mstreams : Part.streams ∈ pts) (mflash : Part.flash ∈ pts) (mmem : Part.mem ∈ pts) (mbushels : Part.bushels ∈ pts) (mfreeCtr : Part.freeCtr ∈ pts) :
    (∀ x, runLoad r c lw s = .inl x → Agrees pts st0 x.2.2) ∧ ∀ x, runLoad r c lw s = .inr x → Agrees pts st0 x.2.2 := by
  have hf : Agrees pts st0 (fetchManifest r c lw s) := fetchManifest_same _ _ _ _ hs (by assumption) (by assumption) (by assumption) (by assumption) (by assumption)
  unfold runLoad
  generalize fetchManifest r c lw s = s1 at hf
  dsimp only
  split
  · exact ⟨fun x e => by cases e; exact hf, fun t e => by cases e⟩
  · split
    · exact ⟨fun x e => by cases e; exact hf, fun t e => by cases e⟩
    · split
      · exact ⟨fun x e => by cases e; exact hf, fun t e => by cases e⟩
      · split
        all_goals
          refine ⟨fun x e => (by cases e), fun x e => ?_⟩
          cases e
          repeat' first
            | (with_reducible assumption)
            | (with_reducible apply forAll_same)
            | (with_reducible apply modRood_same)
            | (with_reducible apply openEntry_same)
            | (with_reducible apply fetchShard_same)
            | (with_reducible apply writeRange_same)
            | (intro _)
            | split

theorem runLoad_same_inl {pts : List Part} {st0 : State} (r : Nat) (c : ModelCmd) (lw : LoadWorld) (s : State) {x : Nat × Nat × State}
    (hs : Agrees pts st0 s) (mevents : Part.events ∈ pts) (mroods : Part.roods ∈ pts) (mstks : Part.stks ∈ pts) (mstreams : Part.streams ∈ pts) (mflash : Part.flash ∈ pts) (mmem : Part.mem ∈ pts) (mbushels : Part.bushels ∈ pts) (mfreeCtr : Part.freeCtr ∈ pts) (e : runLoad r c lw s = .inl x) : Agrees pts st0 x.2.2 := (runLoad_same r c lw s hs (by assumption) (by assumption) (by assumption) (by assumption) (by assumption) (by assumption) (by assumption) (by assumption)).1 x e

theorem runLoad_same_inr {pts : List Part} {st0 : State} (r : Nat) (c : ModelCmd) (lw : LoadWorld) (s : State) {x : Nat × Nat × State}
    (hs : Agrees pts st0 s) (mevents : Part.events ∈ pts) (mroods : Part.roods ∈ pts) (mstks : Part.stks ∈ pts) (mstreams : Part.streams ∈ pts) (mflash : Part.flash ∈ pts) (mmem : Part.mem ∈ pts) (mbushels : Part.bushels ∈ pts) (mfreeCtr : Part.freeCtr ∈ pts) (e : runLoad r c lw s = .inr x) : Agrees pts st0 x.2.2 := (runLoad_same r c lw s hs (by assumption) (by assumption) (by assumption) (by assumption) (by assumption) (by assumption) (by assumption) (by assumption)).2 x e

theorem logLoadFailed_same {pts : List Part} {st0 : State} (r st i : Nat) (s : State) (hs : Agrees pts st0 s) (mevents : Part.events ∈ pts) : Agrees pts st0 (logLoadFailed r st i s) := by
  delta logLoadFailed
  repeat' first
    | (with_reducible assumption)
    | (with_reducible apply logBase_same)

theorem baseLoad_same {pts : List Part} {st0 : State} (r : Nat) (w : LoadWorld) (s : State) (hs : Agrees pts st0 s) (mevents : Part.events ∈ pts) (mroods : Part.roods ∈ pts) (mstks : Part.stks ∈ pts) (mstreams : Part.streams ∈ pts) (mflash : Part.flash ∈ pts) (mmem : Part.mem ∈ pts) (mbushels : Part.bushels ∈ pts) (mfreeCtr : Part.freeCtr ∈ pts) : Agrees pts st0 (baseLoad r w s) := by
  delta baseLoad
  repeat' first
    | (with_reducible assumption)
    | (with_reducible rfl)
    | (with_reducible refine fun _ => ?_)
    | lift_lets
    | (intro x; refine same_cut (w := pts) (s0 := st0) x ?_ ?_; rotate_left; intro _; clear_value x; rotate_left; unfold x)
    | (intro x; refine same_cut_ss (w := pts) (s0 := st0) x ?_ ?_; rotate_left; intro hfun; clear_value x; rotate_left; unfold x)
    | (intro x; refine same_cut_ass (w := pts) (s0 := st0) x ?_ ?_; rotate_left; intro hfun; clear_value x; rotate_left; unfold x)
    | (intro x; refine same_cut_abss (w := pts) (s0 := st0) x ?_ ?_; rotate_left; intro hfun; clear_value x; rotate_left; unfold x)
    | (intro x; refine same_cut_a (w := pts) (s0 := st0) x ?_ ?_; rotate_left; intro hfun; clear_value x; rotate_left; unfold x)
    | (intro x; refine same_cut_ab (w := pts) (s0 := st0) x ?_ ?_; rotate_left; intro hfun; clear_value x; rotate_left; unfold x)
    | (intro x; refine same_cut_abc (w := pts) (s0 := st0) x ?_ ?_; rotate_left; intro hfun; clear_value x; rotate_left; unfold x)
    | (intro x; refine same_cut_o1 (w := pts) (s0 := st0) x ?_ ?_; rotate_left; intro hopt; clear_value x; rotate_left; unfold x)
    | (intro x; refine same_cut_o (w := pts) (s0 := st0) x ?_ ?_; rotate_left; intro hopt; clear_value x; rotate_left; unfold x)
    | (intro x; refine same_cut_fst (w := pts) (s0 := st0) x ?_ ?_; rotate_left; intro _; clear_value x; rotate_left; unfold x)
    | (intro x; refine same_cut_snd (w := pts) (s0 := st0) x ?_ ?_; rotate_left; intro _; clear_value x; rotate_left; unfold x)
    | (intro x; clear_value x)
    | (with_reducible apply modRood_same)
    | (with_reducible apply finalReply_same)
    | (with_reducible apply deferReply_same)
    | (with_reducible refine runLoad_same_inl _ _ _ _ ?_ ?_ ?_ ?_ ?_ ?_ ?_ ?_ ?_ (by assumption))
    | (with_reducible refine runLoad_same_inr _ _ _ _ ?_ ?_ ?_ ?_ ?_ ?_ ?_ ?_ ?_ (by assumption))
    | (with_reducible apply logLoadFailed_same)
    | (with_reducible refine hopt _ (by assumption))
    | (with_reducible exact hopt _ rfl)
    | (with_reducible apply hfun)
    | (intro _)
    | split
    | (with_reducible apply AnswerSame.next)
    | (with_reducible apply same_getD)
    | (refine same_mk hs ?_; intro p hp; cases p <;> first | exact rfl | exact absurd (by assumption) hp)
    | (refine same_mk (by assumption) ?_; intro p hp; cases p <;> first | exact rfl | exact absurd (by assumption) hp)
    | (dsimp only)
    | (rename_i he; split at he)
    | (rename_i he; injection he with he; subst he)

theorem endBaseCmd_same {pts : List Part} {st0 : State} (r st detail : Nat) (s : State) (hs : Agrees pts st0 s) (mroods : Part.roods ∈ pts) : Agrees pts st0 (endBaseCmd r st detail s) := by
  delta endBaseCmd
  repeat' first
    | (with_reducible assumption)
    | lift_lets
    | (intro x; refine same_cut (w := pts) (s0 := st0) x ?_ ?_; rotate_left; intro _; clear_value x; rotate_left; unfold x)
    | (with_reducible apply modRood_same)
    | (with_reducible apply finalReply_same)
    | split

theorem swapReady_same {pts : List Part} {st0 : State} (r : Nat) (s : State) (hs : Agrees pts st0 s) (mlinks : Part.links ∈ pts) (mfab : Part.fab ∈ pts) (mroods : Part.roods ∈ pts) : Agrees pts st0 (swapReady r s) := by
  delta swapReady
  repeat' first
    | (with_reducible assumption)
    | (with_reducible refine fun _ => ?_)
    | lift_lets
    | (intro x; refine same_cut (w := pts) (s0 := st0) x ?_ ?_; rotate_left; intro _; clear_value x; rotate_left; unfold x)
    | (intro x; clear_value x)
    | (with_reducible apply modRood_same)
    | (with_reducible apply forAll_same)
    | (with_reducible apply sendMinimal_same)
    | split

theorem epochReadyIf_same {pts : List Part} {st0 : State} (r n : Nat) (s : State) (hs : Agrees pts st0 s) (mevents : Part.events ∈ pts) (mlinks : Part.links ∈ pts) (mfab : Part.fab ∈ pts) (mroods : Part.roods ∈ pts) : Agrees pts st0 (epochReadyIf r n s) := by
  delta epochReadyIf
  repeat' first
    | (with_reducible assumption)
    | lift_lets
    | (intro x; refine same_cut (w := pts) (s0 := st0) x ?_ ?_; rotate_left; intro _; clear_value x; rotate_left; unfold x)
    | (intro x; clear_value x)
    | (with_reducible apply modRood_same)
    | (with_reducible apply sendMinimal_same)
    | (with_reducible apply logBase_same)
    | (with_reducible apply modEpoch_same)
    | (with_reducible apply endBaseCmd_same)
    | (with_reducible apply swapReady_same)
    | split

theorem setLock_same {pts : List Part} {st0 : State} (t i : Nat) (s : State) (hs : Agrees pts st0 s) (mevents : Part.events ∈ pts) (mlinks : Part.links ∈ pts) (mfab : Part.fab ∈ pts) (mroods : Part.roods ∈ pts) (mstks : Part.stks ∈ pts) : Agrees pts st0 (setLock t i s) := by
  delta setLock
  repeat' first
    | (with_reducible assumption)
    | lift_lets
    | (with_reducible apply modLock_same)
    | (with_reducible apply logFirkin_same)
    | (with_reducible apply epochReadyIf_same)
    | split

theorem drainEpoch_same {pts : List Part} {st0 : State} (r n : Nat) (s : State) (hs : Agrees pts st0 s) (mroods : Part.roods ∈ pts) (mstks : Part.stks ∈ pts) : Agrees pts st0 (drainEpoch r n s) := by
  delta drainEpoch
  repeat' first
    | (with_reducible assumption)
    | lift_lets
    | (with_reducible apply modEpochLocks_same)
    | (with_reducible apply modEpoch_same)

theorem drainCurrent_same {pts : List Part} {st0 : State} (r : Nat) (s : State) (hs : Agrees pts st0 s) (mroods : Part.roods ∈ pts) (mstks : Part.stks ∈ pts) : Agrees pts st0 (drainCurrent r s) := by
  delta drainCurrent
  repeat' first
    | (with_reducible assumption)
    | (with_reducible apply drainEpoch_same)
    | split

theorem armFlip_same {pts : List Part} {st0 : State} (r code : Nat) (s : State) (hs : Agrees pts st0 s) (mroods : Part.roods ∈ pts) : Agrees pts st0 (armFlip r code s) := by
  delta armFlip
  repeat' first
    | (with_reducible assumption)
    | (with_reducible rfl)
    | (with_reducible refine fun _ => ?_)
    | lift_lets
    | (intro x; refine same_cut (w := pts) (s0 := st0) x ?_ ?_; rotate_left; intro _; clear_value x; rotate_left; unfold x)
    | (intro x; refine same_cut_ss (w := pts) (s0 := st0) x ?_ ?_; rotate_left; intro hfun; clear_value x; rotate_left; unfold x)
    | (intro x; refine same_cut_ass (w := pts) (s0 := st0) x ?_ ?_; rotate_left; intro hfun; clear_value x; rotate_left; unfold x)
    | (intro x; refine same_cut_abss (w := pts) (s0 := st0) x ?_ ?_; rotate_left; intro hfun; clear_value x; rotate_left; unfold x)
    | (intro x; refine same_cut_a (w := pts) (s0 := st0) x ?_ ?_; rotate_left; intro hfun; clear_value x; rotate_left; unfold x)
    | (intro x; refine same_cut_ab (w := pts) (s0 := st0) x ?_ ?_; rotate_left; intro hfun; clear_value x; rotate_left; unfold x)
    | (intro x; refine same_cut_abc (w := pts) (s0 := st0) x ?_ ?_; rotate_left; intro hfun; clear_value x; rotate_left; unfold x)
    | (intro x; refine same_cut_o1 (w := pts) (s0 := st0) x ?_ ?_; rotate_left; intro hopt; clear_value x; rotate_left; unfold x)
    | (intro x; refine same_cut_o (w := pts) (s0 := st0) x ?_ ?_; rotate_left; intro hopt; clear_value x; rotate_left; unfold x)
    | (intro x; refine same_cut_fst (w := pts) (s0 := st0) x ?_ ?_; rotate_left; intro _; clear_value x; rotate_left; unfold x)
    | (intro x; refine same_cut_snd (w := pts) (s0 := st0) x ?_ ?_; rotate_left; intro _; clear_value x; rotate_left; unfold x)
    | (intro x; clear_value x)
    | (with_reducible apply modRood_same)
    | (with_reducible apply finalReply_same)
    | (with_reducible apply deferReply_same)
    | (with_reducible refine hopt _ (by assumption))
    | (with_reducible exact hopt _ rfl)
    | (with_reducible apply hfun)
    | (intro _)
    | split
    | (with_reducible apply AnswerSame.next)
    | (with_reducible apply same_getD)
    | (refine same_mk hs ?_; intro p hp; cases p <;> first | exact rfl | exact absurd (by assumption) hp)
    | (refine same_mk (by assumption) ?_; intro p hp; cases p <;> first | exact rfl | exact absurd (by assumption) hp)
    | (dsimp only)
    | (rename_i he; split at he)
    | (rename_i he; injection he with he; subst he)

theorem logFlipped_same {pts : List Part} {st0 : State} (r n count : Nat) (s : State) (hs : Agrees pts st0 s) (mevents : Part.events ∈ pts) : Agrees pts st0 (logFlipped r n count s) := by
  delta logFlipped
  repeat' first
    | (with_reducible assumption)
    | (with_reducible apply logBase_same)

theorem sendFault_same {pts : List Part} {st0 : State} (r p a version slot gen st : Nat) (s : State) (hs : Agrees pts st0 s) (mlinks : Part.links ∈ pts) (mfab : Part.fab ∈ pts) : Agrees pts st0 (sendFault r p a version slot gen st s) := by
  delta sendFault
  repeat' first
    | (with_reducible assumption)
    | (with_reducible rfl)
    | (with_reducible refine fun _ => ?_)
    | lift_lets
    | (intro x; refine same_cut (w := pts) (s0 := st0) x ?_ ?_; rotate_left; intro _; clear_value x; rotate_left; unfold x)
    | (intro x; refine same_cut_ss (w := pts) (s0 := st0) x ?_ ?_; rotate_left; intro hfun; clear_value x; rotate_left; unfold x)
    | (intro x; refine same_cut_ass (w := pts) (s0 := st0) x ?_ ?_; rotate_left; intro hfun; clear_value x; rotate_left; unfold x)
    | (intro x; refine same_cut_abss (w := pts) (s0 := st0) x ?_ ?_; rotate_left; intro hfun; clear_value x; rotate_left; unfold x)
    | (intro x; refine same_cut_a (w := pts) (s0 := st0) x ?_ ?_; rotate_left; intro hfun; clear_value x; rotate_left; unfold x)
    | (intro x; refine same_cut_ab (w := pts) (s0 := st0) x ?_ ?_; rotate_left; intro hfun; clear_value x; rotate_left; unfold x)
    | (intro x; refine same_cut_abc (w := pts) (s0 := st0) x ?_ ?_; rotate_left; intro hfun; clear_value x; rotate_left; unfold x)
    | (intro x; refine same_cut_o1 (w := pts) (s0 := st0) x ?_ ?_; rotate_left; intro hopt; clear_value x; rotate_left; unfold x)
    | (intro x; refine same_cut_o (w := pts) (s0 := st0) x ?_ ?_; rotate_left; intro hopt; clear_value x; rotate_left; unfold x)
    | (intro x; refine same_cut_fst (w := pts) (s0 := st0) x ?_ ?_; rotate_left; intro _; clear_value x; rotate_left; unfold x)
    | (intro x; refine same_cut_snd (w := pts) (s0 := st0) x ?_ ?_; rotate_left; intro _; clear_value x; rotate_left; unfold x)
    | (intro x; clear_value x)
    | (with_reducible apply sendMinimal_same)
    | (with_reducible refine hopt _ (by assumption))
    | (with_reducible exact hopt _ rfl)
    | (with_reducible apply hfun)
    | (intro _)
    | split
    | (with_reducible apply AnswerSame.next)
    | (with_reducible apply same_getD)
    | (refine same_mk hs ?_; intro p hp; cases p <;> first | exact rfl | exact absurd (by assumption) hp)
    | (refine same_mk (by assumption) ?_; intro p hp; cases p <;> first | exact rfl | exact absurd (by assumption) hp)
    | (dsimp only)
    | (rename_i he; split at he)
    | (rename_i he; injection he with he; subst he)

theorem swapFailed_same {pts : List Part} {st0 : State} (r st detail : Nat) (s : State) (hs : Agrees pts st0 s) (meth : Part.eth ∈ pts) (mlinks : Part.links ∈ pts) (mfab : Part.fab ∈ pts) (mroods : Part.roods ∈ pts) (mstks : Part.stks ∈ pts) (mslots : Part.slots ∈ pts) (mrequests : Part.requests ∈ pts) : Agrees pts st0 (swapFailed r st detail s) := by
  delta swapFailed
  repeat' first
    | (with_reducible assumption)
    | (with_reducible rfl)
    | (with_reducible refine fun _ => ?_)
    | lift_lets
    | (intro x; refine same_cut (w := pts) (s0 := st0) x ?_ ?_; rotate_left; intro _; clear_value x; rotate_left; unfold x)
    | (intro x; refine same_cut_ss (w := pts) (s0 := st0) x ?_ ?_; rotate_left; intro hfun; clear_value x; rotate_left; unfold x)
    | (intro x; refine same_cut_ass (w := pts) (s0 := st0) x ?_ ?_; rotate_left; intro hfun; clear_value x; rotate_left; unfold x)
    | (intro x; refine same_cut_abss (w := pts) (s0 := st0) x ?_ ?_; rotate_left; intro hfun; clear_value x; rotate_left; unfold x)
    | (intro x; refine same_cut_a (w := pts) (s0 := st0) x ?_ ?_; rotate_left; intro hfun; clear_value x; rotate_left; unfold x)
    | (intro x; refine same_cut_ab (w := pts) (s0 := st0) x ?_ ?_; rotate_left; intro hfun; clear_value x; rotate_left; unfold x)
    | (intro x; refine same_cut_abc (w := pts) (s0 := st0) x ?_ ?_; rotate_left; intro hfun; clear_value x; rotate_left; unfold x)
    | (intro x; refine same_cut_o1 (w := pts) (s0 := st0) x ?_ ?_; rotate_left; intro hopt; clear_value x; rotate_left; unfold x)
    | (intro x; refine same_cut_o (w := pts) (s0 := st0) x ?_ ?_; rotate_left; intro hopt; clear_value x; rotate_left; unfold x)
    | (intro x; refine same_cut_fst (w := pts) (s0 := st0) x ?_ ?_; rotate_left; intro _; clear_value x; rotate_left; unfold x)
    | (intro x; refine same_cut_snd (w := pts) (s0 := st0) x ?_ ?_; rotate_left; intro _; clear_value x; rotate_left; unfold x)
    | (intro x; clear_value x)
    | (with_reducible apply forAll_same)
    | (with_reducible apply failRequest_same)
    | (with_reducible apply endBaseCmd_same)
    | (with_reducible apply sendFault_same)
    | (with_reducible refine hopt _ (by assumption))
    | (with_reducible exact hopt _ rfl)
    | (with_reducible apply hfun)
    | (intro _)
    | split
    | (with_reducible apply AnswerSame.next)
    | (with_reducible apply same_getD)
    | (refine same_mk hs ?_; intro p hp; cases p <;> first | exact rfl | exact absurd (by assumption) hp)
    | (refine same_mk (by assumption) ?_; intro p hp; cases p <;> first | exact rfl | exact absurd (by assumption) hp)
    | (dsimp only)
    | (rename_i he; split at he)
    | (rename_i he; injection he with he; subst he)

theorem flipNow_same {pts : List Part} {st0 : State} (r : Nat) (s : State) (hs : Agrees pts st0 s) (mevents : Part.events ∈ pts) (meth : Part.eth ∈ pts) (mlinks : Part.links ∈ pts) (mfab : Part.fab ∈ pts) (mroods : Part.roods ∈ pts) (mstks : Part.stks ∈ pts) (mslots : Part.slots ∈ pts) (mrequests : Part.requests ∈ pts) : Agrees pts st0 (flipNow r s) := by
  delta flipNow
  repeat' first
    | (with_reducible assumption)
    | (with_reducible rfl)
    | (with_reducible refine fun _ => ?_)
    | lift_lets
    | (intro x; refine same_cut (w := pts) (s0 := st0) x ?_ ?_; rotate_left; intro _; clear_value x; rotate_left; unfold x)
    | (intro x; refine same_cut_ss (w := pts) (s0 := st0) x ?_ ?_; rotate_left; intro hfun; clear_value x; rotate_left; unfold x)
    | (intro x; refine same_cut_ass (w := pts) (s0 := st0) x ?_ ?_; rotate_left; intro hfun; clear_value x; rotate_left; unfold x)
    | (intro x; refine same_cut_abss (w := pts) (s0 := st0) x ?_ ?_; rotate_left; intro hfun; clear_value x; rotate_left; unfold x)
    | (intro x; refine same_cut_a (w := pts) (s0 := st0) x ?_ ?_; rotate_left; intro hfun; clear_value x; rotate_left; unfold x)
    | (intro x; refine same_cut_ab (w := pts) (s0 := st0) x ?_ ?_; rotate_left; intro hfun; clear_value x; rotate_left; unfold x)
    | (intro x; refine same_cut_abc (w := pts) (s0 := st0) x ?_ ?_; rotate_left; intro hfun; clear_value x; rotate_left; unfold x)
    | (intro x; refine same_cut_o1 (w := pts) (s0 := st0) x ?_ ?_; rotate_left; intro hopt; clear_value x; rotate_left; unfold x)
    | (intro x; refine same_cut_o (w := pts) (s0 := st0) x ?_ ?_; rotate_left; intro hopt; clear_value x; rotate_left; unfold x)
    | (intro x; refine same_cut_fst (w := pts) (s0 := st0) x ?_ ?_; rotate_left; intro _; clear_value x; rotate_left; unfold x)
    | (intro x; refine same_cut_snd (w := pts) (s0 := st0) x ?_ ?_; rotate_left; intro _; clear_value x; rotate_left; unfold x)
    | (intro x; clear_value x)
    | (with_reducible apply modRood_same)
    | (with_reducible apply logBase_same)
    | (with_reducible apply modEpoch_same)
    | (with_reducible apply endBaseCmd_same)
    | (with_reducible apply drainCurrent_same)
    | (with_reducible apply logFlipped_same)
    | (with_reducible apply swapFailed_same)
    | (with_reducible refine hopt _ (by assumption))
    | (with_reducible exact hopt _ rfl)
    | (with_reducible apply hfun)
    | (intro _)
    | split
    | (with_reducible apply AnswerSame.next)
    | (with_reducible apply same_getD)
    | (refine same_mk hs ?_; intro p hp; cases p <;> first | exact rfl | exact absurd (by assumption) hp)
    | (refine same_mk (by assumption) ?_; intro p hp; cases p <;> first | exact rfl | exact absurd (by assumption) hp)
    | (dsimp only)
    | (rename_i he; split at he)
    | (rename_i he; injection he with he; subst he)

theorem swapLoad_same {pts : List Part} {st0 : State} (r : Nat) (w : LoadWorld) (s : State) (hs : Agrees pts st0 s) (mevents : Part.events ∈ pts) (meth : Part.eth ∈ pts) (mlinks : Part.links ∈ pts) (mfab : Part.fab ∈ pts) (mroods : Part.roods ∈ pts) (mstks : Part.stks ∈ pts) (mstreams : Part.streams ∈ pts) (mflash : Part.flash ∈ pts) (mslots : Part.slots ∈ pts) (mrequests : Part.requests ∈ pts) (mmem : Part.mem ∈ pts) (mbushels : Part.bushels ∈ pts) (mfreeCtr : Part.freeCtr ∈ pts) : Agrees pts st0 (swapLoad r w s) := by
  delta swapLoad
  repeat' first
    | (with_reducible assumption)
    | (with_reducible rfl)
    | (with_reducible refine fun _ => ?_)
    | lift_lets
    | (intro x; refine same_cut (w := pts) (s0 := st0) x ?_ ?_; rotate_left; intro _; clear_value x; rotate_left; unfold x)
    | (intro x; refine same_cut_ss (w := pts) (s0 := st0) x ?_ ?_; rotate_left; intro hfun; clear_value x; rotate_left; unfold x)
    | (intro x; refine same_cut_ass (w := pts) (s0 := st0) x ?_ ?_; rotate_left; intro hfun; clear_value x; rotate_left; unfold x)
    | (intro x; refine same_cut_abss (w := pts) (s0 := st0) x ?_ ?_; rotate_left; intro hfun; clear_value x; rotate_left; unfold x)
    | (intro x; refine same_cut_a (w := pts) (s0 := st0) x ?_ ?_; rotate_left; intro hfun; clear_value x; rotate_left; unfold x)
    | (intro x; refine same_cut_ab (w := pts) (s0 := st0) x ?_ ?_; rotate_left; intro hfun; clear_value x; rotate_left; unfold x)
    | (intro x; refine same_cut_abc (w := pts) (s0 := st0) x ?_ ?_; rotate_left; intro hfun; clear_value x; rotate_left; unfold x)
    | (intro x; refine same_cut_o1 (w := pts) (s0 := st0) x ?_ ?_; rotate_left; intro hopt; clear_value x; rotate_left; unfold x)
    | (intro x; refine same_cut_o (w := pts) (s0 := st0) x ?_ ?_; rotate_left; intro hopt; clear_value x; rotate_left; unfold x)
    | (intro x; refine same_cut_fst (w := pts) (s0 := st0) x ?_ ?_; rotate_left; intro _; clear_value x; rotate_left; unfold x)
    | (intro x; refine same_cut_snd (w := pts) (s0 := st0) x ?_ ?_; rotate_left; intro _; clear_value x; rotate_left; unfold x)
    | (intro x; clear_value x)
    | (with_reducible apply modRood_same)
    | (with_reducible refine runLoad_same_inl _ _ _ _ ?_ ?_ ?_ ?_ ?_ ?_ ?_ ?_ ?_ (by assumption))
    | (with_reducible refine runLoad_same_inr _ _ _ _ ?_ ?_ ?_ ?_ ?_ ?_ ?_ ?_ ?_ (by assumption))
    | (with_reducible apply logLoadFailed_same)
    | (with_reducible apply swapFailed_same)
    | (with_reducible refine hopt _ (by assumption))
    | (with_reducible exact hopt _ rfl)
    | (with_reducible apply hfun)
    | (intro _)
    | split
    | (with_reducible apply AnswerSame.next)
    | (with_reducible apply same_getD)
    | (refine same_mk hs ?_; intro p hp; cases p <;> first | exact rfl | exact absurd (by assumption) hp)
    | (refine same_mk (by assumption) ?_; intro p hp; cases p <;> first | exact rfl | exact absurd (by assumption) hp)
    | (dsimp only)
    | (rename_i he; split at he)
    | (rename_i he; injection he with he; subst he)

theorem loadPoint_same {pts : List Part} {st0 : State} (r : Nat) (s : State) (hs : Agrees pts st0 s) (mevents : Part.events ∈ pts) (meth : Part.eth ∈ pts) (mlinks : Part.links ∈ pts) (mfab : Part.fab ∈ pts) (mroods : Part.roods ∈ pts) (mstks : Part.stks ∈ pts) (mslots : Part.slots ∈ pts) (mrequests : Part.requests ∈ pts) : Agrees pts st0 (loadPoint r s) := by
  delta loadPoint
  repeat' first
    | (with_reducible assumption)
    | (with_reducible rfl)
    | (with_reducible refine fun _ => ?_)
    | lift_lets
    | (intro x; refine same_cut (w := pts) (s0 := st0) x ?_ ?_; rotate_left; intro _; clear_value x; rotate_left; unfold x)
    | (intro x; refine same_cut_ss (w := pts) (s0 := st0) x ?_ ?_; rotate_left; intro hfun; clear_value x; rotate_left; unfold x)
    | (intro x; refine same_cut_ass (w := pts) (s0 := st0) x ?_ ?_; rotate_left; intro hfun; clear_value x; rotate_left; unfold x)
    | (intro x; refine same_cut_abss (w := pts) (s0 := st0) x ?_ ?_; rotate_left; intro hfun; clear_value x; rotate_left; unfold x)
    | (intro x; refine same_cut_a (w := pts) (s0 := st0) x ?_ ?_; rotate_left; intro hfun; clear_value x; rotate_left; unfold x)
    | (intro x; refine same_cut_ab (w := pts) (s0 := st0) x ?_ ?_; rotate_left; intro hfun; clear_value x; rotate_left; unfold x)
    | (intro x; refine same_cut_abc (w := pts) (s0 := st0) x ?_ ?_; rotate_left; intro hfun; clear_value x; rotate_left; unfold x)
    | (intro x; refine same_cut_o1 (w := pts) (s0 := st0) x ?_ ?_; rotate_left; intro hopt; clear_value x; rotate_left; unfold x)
    | (intro x; refine same_cut_o (w := pts) (s0 := st0) x ?_ ?_; rotate_left; intro hopt; clear_value x; rotate_left; unfold x)
    | (intro x; refine same_cut_fst (w := pts) (s0 := st0) x ?_ ?_; rotate_left; intro _; clear_value x; rotate_left; unfold x)
    | (intro x; refine same_cut_snd (w := pts) (s0 := st0) x ?_ ?_; rotate_left; intro _; clear_value x; rotate_left; unfold x)
    | (intro x; clear_value x)
    | (with_reducible apply modRood_same)
    | (with_reducible apply modEpochLocks_same)
    | (with_reducible apply freeEntries_same)
    | (with_reducible apply dropEpochRec_same)
    | (with_reducible apply logLoadFailed_same)
    | (with_reducible apply endBaseCmd_same)
    | (with_reducible apply swapFailed_same)
    | (with_reducible refine hopt _ (by assumption))
    | (with_reducible exact hopt _ rfl)
    | (with_reducible apply hfun)
    | (intro _)
    | split
    | (with_reducible apply AnswerSame.next)
    | (with_reducible apply same_getD)
    | (refine same_mk hs ?_; intro p hp; cases p <;> first | exact rfl | exact absurd (by assumption) hp)
    | (refine same_mk (by assumption) ?_; intro p hp; cases p <;> first | exact rfl | exact absurd (by assumption) hp)
    | (dsimp only)
    | (rename_i he; split at he)
    | (rename_i he; injection he with he; subst he)

theorem resumeAdmission_same {pts : List Part} {st0 : State} (r : Nat) (s : State) (hs : Agrees pts st0 s) (mevents : Part.events ∈ pts) (meth : Part.eth ∈ pts) (mlinks : Part.links ∈ pts) (mfab : Part.fab ∈ pts) (mroods : Part.roods ∈ pts) (mslices : Part.slices ∈ pts) (mstks : Part.stks ∈ pts) (mflash : Part.flash ∈ pts) (mslots : Part.slots ∈ pts) (mcache : Part.cache ∈ pts) (mnextCache : Part.nextCache ∈ pts) (mrequests : Part.requests ∈ pts) (mmem : Part.mem ∈ pts) : Agrees pts st0 (resumeAdmission r s) := by
  delta resumeAdmission
  repeat' first
    | (with_reducible assumption)
    | (with_reducible rfl)
    | (with_reducible refine fun _ => ?_)
    | lift_lets
    | (intro x; refine same_cut (w := pts) (s0 := st0) x ?_ ?_; rotate_left; intro _; clear_value x; rotate_left; unfold x)
    | (intro x; refine same_cut_ss (w := pts) (s0 := st0) x ?_ ?_; rotate_left; intro hfun; clear_value x; rotate_left; unfold x)
    | (intro x; refine same_cut_ass (w := pts) (s0 := st0) x ?_ ?_; rotate_left; intro hfun; clear_value x; rotate_left; unfold x)
    | (intro x; refine same_cut_abss (w := pts) (s0 := st0) x ?_ ?_; rotate_left; intro hfun; clear_value x; rotate_left; unfold x)
    | (intro x; refine same_cut_a (w := pts) (s0 := st0) x ?_ ?_; rotate_left; intro hfun; clear_value x; rotate_left; unfold x)
    | (intro x; refine same_cut_ab (w := pts) (s0 := st0) x ?_ ?_; rotate_left; intro hfun; clear_value x; rotate_left; unfold x)
    | (intro x; refine same_cut_abc (w := pts) (s0 := st0) x ?_ ?_; rotate_left; intro hfun; clear_value x; rotate_left; unfold x)
    | (intro x; refine same_cut_o1 (w := pts) (s0 := st0) x ?_ ?_; rotate_left; intro hopt; clear_value x; rotate_left; unfold x)
    | (intro x; refine same_cut_o (w := pts) (s0 := st0) x ?_ ?_; rotate_left; intro hopt; clear_value x; rotate_left; unfold x)
    | (intro x; refine same_cut_fst (w := pts) (s0 := st0) x ?_ ?_; rotate_left; intro _; clear_value x; rotate_left; unfold x)
    | (intro x; refine same_cut_snd (w := pts) (s0 := st0) x ?_ ?_; rotate_left; intro _; clear_value x; rotate_left; unfold x)
    | (intro x; clear_value x)
    | (with_reducible apply logBase_same)
    | (with_reducible apply admitWaiting_same)
    | (with_reducible apply modEpoch_same)
    | (with_reducible apply endBaseCmd_same)
    | (with_reducible apply drainCurrent_same)
    | (with_reducible apply logFlipped_same)
    | (with_reducible refine hopt _ (by assumption))
    | (with_reducible exact hopt _ rfl)
    | (with_reducible apply hfun)
    | (intro _)
    | split
    | (with_reducible apply AnswerSame.next)
    | (with_reducible apply same_getD)
    | (refine same_mk hs ?_; intro p hp; cases p <;> first | exact rfl | exact absurd (by assumption) hp)
    | (refine same_mk (by assumption) ?_; intro p hp; cases p <;> first | exact rfl | exact absurd (by assumption) hp)
    | (dsimp only)
    | (rename_i he; split at he)
    | (rename_i he; injection he with he; subst he)

theorem baseRelease_same {pts : List Part} {st0 : State} (r : Nat) (s : State) (hs : Agrees pts st0 s) (mroods : Part.roods ∈ pts) (mstks : Part.stks ∈ pts) : Agrees pts st0 (baseRelease r s) := by
  delta baseRelease
  repeat' first
    | (with_reducible assumption)
    | lift_lets
    | (intro x; refine same_cut (w := pts) (s0 := st0) x ?_ ?_; rotate_left; intro _; clear_value x; rotate_left; unfold x)
    | (intro x; clear_value x)
    | (with_reducible apply modRood_same)
    | (with_reducible apply finalReply_same)
    | (with_reducible apply deferReply_same)
    | (with_reducible apply drainEpoch_same)
    | split

theorem epochGone_same {pts : List Part} {st0 : State} (r n : Nat) (s : State) (hs : Agrees pts st0 s) (mevents : Part.events ∈ pts) (mroods : Part.roods ∈ pts) : Agrees pts st0 (epochGone r n s) := by
  delta epochGone
  repeat' first
    | (with_reducible assumption)
    | lift_lets
    | (intro x; refine same_cut (w := pts) (s0 := st0) x ?_ ?_; rotate_left; intro _; clear_value x; rotate_left; unfold x)
    | (intro x; clear_value x)
    | (with_reducible apply logBase_same)
    | (with_reducible apply dropEpochRec_same)
    | (with_reducible apply endBaseCmd_same)
    | split

theorem fetchRepair_same {pts : List Part} {st0 : State} (r : Nat) (c : ModelCmd) (w : LoadWorld) (want : List Nat) (s : State) (hs : Agrees pts st0 s) (mevents : Part.events ∈ pts) (mstks : Part.stks ∈ pts) (mstreams : Part.streams ∈ pts) (mflash : Part.flash ∈ pts) (mfreeCtr : Part.freeCtr ∈ pts) : Agrees pts st0 (fetchRepair r c w want s) := by
  delta fetchRepair
  repeat' first
    | (with_reducible assumption)
    | (with_reducible rfl)
    | (with_reducible refine fun _ => ?_)
    | lift_lets
    | (intro x; refine same_cut (w := pts) (s0 := st0) x ?_ ?_; rotate_left; intro _; clear_value x; rotate_left; unfold x)
    | (intro x; refine same_cut_ss (w := pts) (s0 := st0) x ?_ ?_; rotate_left; intro hfun; clear_value x; rotate_left; unfold x)
    | (intro x; refine same_cut_ass (w := pts) (s0 := st0) x ?_ ?_; rotate_left; intro hfun; clear_value x; rotate_left; unfold x)
    | (intro x; refine same_cut_abss (w := pts) (s0 := st0) x ?_ ?_; rotate_left; intro hfun; clear_value x; rotate_left; unfold x)
    | (intro x; refine same_cut_a (w := pts) (s0 := st0) x ?_ ?_; rotate_left; intro hfun; clear_value x; rotate_left; unfold x)
    | (intro x; refine same_cut_ab (w := pts) (s0 := st0) x ?_ ?_; rotate_left; intro hfun; clear_value x; rotate_left; unfold x)
    | (intro x; refine same_cut_abc (w := pts) (s0 := st0) x ?_ ?_; rotate_left; intro hfun; clear_value x; rotate_left; unfold x)
    | (intro x; refine same_cut_o1 (w := pts) (s0 := st0) x ?_ ?_; rotate_left; intro hopt; clear_value x; rotate_left; unfold x)
    | (intro x; refine same_cut_o (w := pts) (s0 := st0) x ?_ ?_; rotate_left; intro hopt; clear_value x; rotate_left; unfold x)
    | (intro x; refine same_cut_fst (w := pts) (s0 := st0) x ?_ ?_; rotate_left; intro _; clear_value x; rotate_left; unfold x)
    | (intro x; refine same_cut_snd (w := pts) (s0 := st0) x ?_ ?_; rotate_left; intro _; clear_value x; rotate_left; unfold x)
    | (intro x; clear_value x)
    | (with_reducible apply forAll_same)
    | (with_reducible apply fetchFlash_same)
    | (with_reducible apply fetchManifest_same)
    | (with_reducible refine hopt _ (by assumption))
    | (with_reducible exact hopt _ rfl)
    | (with_reducible apply hfun)
    | (intro _)
    | split
    | (with_reducible apply AnswerSame.next)
    | (with_reducible apply same_getD)
    | (refine same_mk hs ?_; intro p hp; cases p <;> first | exact rfl | exact absurd (by assumption) hp)
    | (refine same_mk (by assumption) ?_; intro p hp; cases p <;> first | exact rfl | exact absurd (by assumption) hp)
    | (dsimp only)
    | (rename_i he; split at he)
    | (rename_i he; injection he with he; subst he)

theorem baseRepair_same {pts : List Part} {st0 : State} (r : Nat) (w : LoadWorld) (s : State) (hs : Agrees pts st0 s) (mevents : Part.events ∈ pts) (mrepair : Part.repair ∈ pts) (mrepairSeq : Part.repairSeq ∈ pts) (mroods : Part.roods ∈ pts) (mstks : Part.stks ∈ pts) (mstreams : Part.streams ∈ pts) (mflash : Part.flash ∈ pts) (mmem : Part.mem ∈ pts) (mbushels : Part.bushels ∈ pts) (mfreeCtr : Part.freeCtr ∈ pts) : Agrees pts st0 (baseRepair r w s) := by
  delta baseRepair
  repeat' first
    | (with_reducible assumption)
    | (with_reducible rfl)
    | (with_reducible refine fun _ => ?_)
    | lift_lets
    | (intro x; refine same_cut (w := pts) (s0 := st0) x ?_ ?_; rotate_left; intro _; clear_value x; rotate_left; unfold x)
    | (intro x; refine same_cut_ss (w := pts) (s0 := st0) x ?_ ?_; rotate_left; intro hfun; clear_value x; rotate_left; unfold x)
    | (intro x; refine same_cut_ass (w := pts) (s0 := st0) x ?_ ?_; rotate_left; intro hfun; clear_value x; rotate_left; unfold x)
    | (intro x; refine same_cut_abss (w := pts) (s0 := st0) x ?_ ?_; rotate_left; intro hfun; clear_value x; rotate_left; unfold x)
    | (intro x; refine same_cut_a (w := pts) (s0 := st0) x ?_ ?_; rotate_left; intro hfun; clear_value x; rotate_left; unfold x)
    | (intro x; refine same_cut_ab (w := pts) (s0 := st0) x ?_ ?_; rotate_left; intro hfun; clear_value x; rotate_left; unfold x)
    | (intro x; refine same_cut_abc (w := pts) (s0 := st0) x ?_ ?_; rotate_left; intro hfun; clear_value x; rotate_left; unfold x)
    | (intro x; refine same_cut_o1 (w := pts) (s0 := st0) x ?_ ?_; rotate_left; intro hopt; clear_value x; rotate_left; unfold x)
    | (intro x; refine same_cut_o (w := pts) (s0 := st0) x ?_ ?_; rotate_left; intro hopt; clear_value x; rotate_left; unfold x)
    | (intro x; refine same_cut_fst (w := pts) (s0 := st0) x ?_ ?_; rotate_left; intro _; clear_value x; rotate_left; unfold x)
    | (intro x; refine same_cut_snd (w := pts) (s0 := st0) x ?_ ?_; rotate_left; intro _; clear_value x; rotate_left; unfold x)
    | (intro x; clear_value x)
    | (with_reducible apply forAll_same)
    | (with_reducible apply putBushel_same)
    | (with_reducible apply retireBlock_same)
    | (with_reducible apply bushelGood_same)
    | (with_reducible apply finalReply_same)
    | (with_reducible apply deferReply_same)
    | (with_reducible apply fetchRepair_same)
    | (with_reducible refine hopt _ (by assumption))
    | (with_reducible exact hopt _ rfl)
    | (with_reducible apply hfun)
    | (intro _)
    | split
    | (with_reducible apply AnswerSame.next)
    | (with_reducible apply same_getD)
    | (refine same_mk hs ?_; intro p hp; cases p <;> first | exact rfl | exact absurd (by assumption) hp)
    | (refine same_mk (by assumption) ?_; intro p hp; cases p <;> first | exact rfl | exact absurd (by assumption) hp)
    | (dsimp only)
    | (rename_i he; split at he)
    | (rename_i he; injection he with he; subst he)

theorem adapterPut_same {pts : List Part} {st0 : State} (r : Nat) (s : State) (hs : Agrees pts st0 s) (mroods : Part.roods ∈ pts) (mslots : Part.slots ∈ pts) : Agrees pts st0 (adapterPut r s) := by
  delta adapterPut
  repeat' first
    | (with_reducible assumption)
    | (with_reducible rfl)
    | (with_reducible refine fun _ => ?_)
    | lift_lets
    | (intro x; refine same_cut (w := pts) (s0 := st0) x ?_ ?_; rotate_left; intro _; clear_value x; rotate_left; unfold x)
    | (intro x; refine same_cut_ss (w := pts) (s0 := st0) x ?_ ?_; rotate_left; intro hfun; clear_value x; rotate_left; unfold x)
    | (intro x; refine same_cut_ass (w := pts) (s0 := st0) x ?_ ?_; rotate_left; intro hfun; clear_value x; rotate_left; unfold x)
    | (intro x; refine same_cut_abss (w := pts) (s0 := st0) x ?_ ?_; rotate_left; intro hfun; clear_value x; rotate_left; unfold x)
    | (intro x; refine same_cut_a (w := pts) (s0 := st0) x ?_ ?_; rotate_left; intro hfun; clear_value x; rotate_left; unfold x)
    | (intro x; refine same_cut_ab (w := pts) (s0 := st0) x ?_ ?_; rotate_left; intro hfun; clear_value x; rotate_left; unfold x)
    | (intro x; refine same_cut_abc (w := pts) (s0 := st0) x ?_ ?_; rotate_left; intro hfun; clear_value x; rotate_left; unfold x)
    | (intro x; refine same_cut_o1 (w := pts) (s0 := st0) x ?_ ?_; rotate_left; intro hopt; clear_value x; rotate_left; unfold x)
    | (intro x; refine same_cut_o (w := pts) (s0 := st0) x ?_ ?_; rotate_left; intro hopt; clear_value x; rotate_left; unfold x)
    | (intro x; refine same_cut_fst (w := pts) (s0 := st0) x ?_ ?_; rotate_left; intro _; clear_value x; rotate_left; unfold x)
    | (intro x; refine same_cut_snd (w := pts) (s0 := st0) x ?_ ?_; rotate_left; intro _; clear_value x; rotate_left; unfold x)
    | (intro x; clear_value x)
    | (with_reducible apply modRood_same)
    | (with_reducible apply modSlot_same)
    | (with_reducible apply finalReply_same)
    | (with_reducible apply deferReply_same)
    | (with_reducible refine hopt _ (by assumption))
    | (with_reducible exact hopt _ rfl)
    | (with_reducible apply hfun)
    | (intro _)
    | split
    | (with_reducible apply AnswerSame.next)
    | (with_reducible apply same_getD)
    | (refine same_mk hs ?_; intro p hp; cases p <;> first | exact rfl | exact absurd (by assumption) hp)
    | (refine same_mk (by assumption) ?_; intro p hp; cases p <;> first | exact rfl | exact absurd (by assumption) hp)
    | (dsimp only)
    | (rename_i he; split at he)
    | (rename_i he; injection he with he; subst he)

theorem adapterDrop_same {pts : List Part} {st0 : State} (r : Nat) (s : State) (hs : Agrees pts st0 s) (mroods : Part.roods ∈ pts) : Agrees pts st0 (adapterDrop r s) := by
  delta adapterDrop
  repeat' first
    | (with_reducible assumption)
    | lift_lets
    | (with_reducible apply modRood_same)
    | (with_reducible apply finalReply_same)
    | (with_reducible apply deferReply_same)
    | split
    | (dsimp only)

theorem bindAs_same {pts : List Part} {st0 : State} (r i a gen version : Nat) (s : State) (hs : Agrees pts st0 s) (mevents : Part.events ∈ pts) (mslots : Part.slots ∈ pts) (mcache : Part.cache ∈ pts) : Agrees pts st0 (bindAs r i a gen version s) := by
  delta bindAs
  repeat' first
    | (with_reducible assumption)
    | (with_reducible rfl)
    | (with_reducible refine fun _ => ?_)
    | lift_lets
    | (intro x; refine same_cut (w := pts) (s0 := st0) x ?_ ?_; rotate_left; intro _; clear_value x; rotate_left; unfold x)
    | (intro x; refine same_cut_ss (w := pts) (s0 := st0) x ?_ ?_; rotate_left; intro hfun; clear_value x; rotate_left; unfold x)
    | (intro x; refine same_cut_ass (w := pts) (s0 := st0) x ?_ ?_; rotate_left; intro hfun; clear_value x; rotate_left; unfold x)
    | (intro x; refine same_cut_abss (w := pts) (s0 := st0) x ?_ ?_; rotate_left; intro hfun; clear_value x; rotate_left; unfold x)
    | (intro x; refine same_cut_a (w := pts) (s0 := st0) x ?_ ?_; rotate_left; intro hfun; clear_value x; rotate_left; unfold x)
    | (intro x; refine same_cut_ab (w := pts) (s0 := st0) x ?_ ?_; rotate_left; intro hfun; clear_value x; rotate_left; unfold x)
    | (intro x; refine same_cut_abc (w := pts) (s0 := st0) x ?_ ?_; rotate_left; intro hfun; clear_value x; rotate_left; unfold x)
    | (intro x; refine same_cut_o1 (w := pts) (s0 := st0) x ?_ ?_; rotate_left; intro hopt; clear_value x; rotate_left; unfold x)
    | (intro x; refine same_cut_o (w := pts) (s0 := st0) x ?_ ?_; rotate_left; intro hopt; clear_value x; rotate_left; unfold x)
    | (intro x; refine same_cut_fst (w := pts) (s0 := st0) x ?_ ?_; rotate_left; intro _; clear_value x; rotate_left; unfold x)
    | (intro x; refine same_cut_snd (w := pts) (s0 := st0) x ?_ ?_; rotate_left; intro _; clear_value x; rotate_left; unfold x)
    | (intro x; clear_value x)
    | (with_reducible apply logBase_same)
    | (with_reducible refine hopt _ (by assumption))
    | (with_reducible exact hopt _ rfl)
    | (with_reducible apply hfun)
    | (intro _)
    | split
    | (with_reducible apply AnswerSame.next)
    | (with_reducible apply same_getD)
    | (refine same_mk hs ?_; intro p hp; cases p <;> first | exact rfl | exact absurd (by assumption) hp)
    | (refine same_mk (by assumption) ?_; intro p hp; cases p <;> first | exact rfl | exact absurd (by assumption) hp)
    | (dsimp only)
    | (rename_i he; split at he)
    | (rename_i he; injection he with he; subst he)

theorem prefetchPktIn_same {pts : List Part} {st0 : State} (p : Packet) (s : State) (hs : Agrees pts st0 s) (mevents : Part.events ∈ pts) (mlinks : Part.links ∈ pts) (mfab : Part.fab ∈ pts) (mroods : Part.roods ∈ pts) (mstks : Part.stks ∈ pts) (mflash : Part.flash ∈ pts) (mslots : Part.slots ∈ pts) (mcache : Part.cache ∈ pts) (mnextCache : Part.nextCache ∈ pts) (mrequests : Part.requests ∈ pts) (mnextReq : Part.nextReq ∈ pts) : Agrees pts st0 (prefetchPktIn p s) := by
  delta prefetchPktIn
  repeat' first
    | (with_reducible assumption)
    | (with_reducible rfl)
    | (with_reducible refine fun _ => ?_)
    | lift_lets
    | (intro x; refine same_cut (w := pts) (s0 := st0) x ?_ ?_; rotate_left; intro _; clear_value x; rotate_left; unfold x)
    | (intro x; refine same_cut_ss (w := pts) (s0 := st0) x ?_ ?_; rotate_left; intro hfun; clear_value x; rotate_left; unfold x)
    | (intro x; refine same_cut_ass (w := pts) (s0 := st0) x ?_ ?_; rotate_left; intro hfun; clear_value x; rotate_left; unfold x)
    | (intro x; refine same_cut_abss (w := pts) (s0 := st0) x ?_ ?_; rotate_left; intro hfun; clear_value x; rotate_left; unfold x)
    | (intro x; refine same_cut_a (w := pts) (s0 := st0) x ?_ ?_; rotate_left; intro hfun; clear_value x; rotate_left; unfold x)
    | (intro x; refine same_cut_ab (w := pts) (s0 := st0) x ?_ ?_; rotate_left; intro hfun; clear_value x; rotate_left; unfold x)
    | (intro x; refine same_cut_abc (w := pts) (s0 := st0) x ?_ ?_; rotate_left; intro hfun; clear_value x; rotate_left; unfold x)
    | (intro x; refine same_cut_o1 (w := pts) (s0 := st0) x ?_ ?_; rotate_left; intro hopt; clear_value x; rotate_left; unfold x)
    | (intro x; refine same_cut_o (w := pts) (s0 := st0) x ?_ ?_; rotate_left; intro hopt; clear_value x; rotate_left; unfold x)
    | (intro x; refine same_cut_fst (w := pts) (s0 := st0) x ?_ ?_; rotate_left; intro _; clear_value x; rotate_left; unfold x)
    | (intro x; refine same_cut_snd (w := pts) (s0 := st0) x ?_ ?_; rotate_left; intro _; clear_value x; rotate_left; unfold x)
    | (intro x; clear_value x)
    | (with_reducible apply modRood_same)
    | (with_reducible apply modReq_same)
    | (with_reducible apply modFab_same)
    | (with_reducible apply holdEpoch_same)
    | (with_reducible refine ensureCache_same_eq _ _ _ _ _ ?_ ?_ ?_ ?_ (by assumption))
    | (with_reducible apply holdRow_same)
    | (with_reducible apply sendFault_same)
    | (with_reducible apply bindAs_same)
    | (with_reducible refine hopt _ (by assumption))
    | (with_reducible exact hopt _ rfl)
    | (with_reducible apply hfun)
    | (intro _)
    | split
    | (with_reducible apply AnswerSame.next)
    | (with_reducible apply same_getD)
    | (refine same_mk hs ?_; intro p hp; cases p <;> first | exact rfl | exact absurd (by assumption) hp)
    | (refine same_mk (by assumption) ?_; intro p hp; cases p <;> first | exact rfl | exact absurd (by assumption) hp)
    | (dsimp only)
    | (rename_i he; split at he)
    | (rename_i he; injection he with he; subst he)

theorem retryPrefetches_same {pts : List Part} {st0 : State} (s : State) (hs : Agrees pts st0 s) (mevents : Part.events ∈ pts) (mlinks : Part.links ∈ pts) (mfab : Part.fab ∈ pts) (mroods : Part.roods ∈ pts) (mstks : Part.stks ∈ pts) (mflash : Part.flash ∈ pts) (mslots : Part.slots ∈ pts) (mcache : Part.cache ∈ pts) (mnextCache : Part.nextCache ∈ pts) (mrequests : Part.requests ∈ pts) (mnextReq : Part.nextReq ∈ pts) : Agrees pts st0 (retryPrefetches s) := by
  delta retryPrefetches
  repeat' first
    | (with_reducible assumption)
    | (with_reducible rfl)
    | (with_reducible refine fun _ => ?_)
    | lift_lets
    | (intro x; refine same_cut (w := pts) (s0 := st0) x ?_ ?_; rotate_left; intro _; clear_value x; rotate_left; unfold x)
    | (intro x; refine same_cut_ss (w := pts) (s0 := st0) x ?_ ?_; rotate_left; intro hfun; clear_value x; rotate_left; unfold x)
    | (intro x; refine same_cut_ass (w := pts) (s0 := st0) x ?_ ?_; rotate_left; intro hfun; clear_value x; rotate_left; unfold x)
    | (intro x; refine same_cut_abss (w := pts) (s0 := st0) x ?_ ?_; rotate_left; intro hfun; clear_value x; rotate_left; unfold x)
    | (intro x; refine same_cut_a (w := pts) (s0 := st0) x ?_ ?_; rotate_left; intro hfun; clear_value x; rotate_left; unfold x)
    | (intro x; refine same_cut_ab (w := pts) (s0 := st0) x ?_ ?_; rotate_left; intro hfun; clear_value x; rotate_left; unfold x)
    | (intro x; refine same_cut_abc (w := pts) (s0 := st0) x ?_ ?_; rotate_left; intro hfun; clear_value x; rotate_left; unfold x)
    | (intro x; refine same_cut_o1 (w := pts) (s0 := st0) x ?_ ?_; rotate_left; intro hopt; clear_value x; rotate_left; unfold x)
    | (intro x; refine same_cut_o (w := pts) (s0 := st0) x ?_ ?_; rotate_left; intro hopt; clear_value x; rotate_left; unfold x)
    | (intro x; refine same_cut_fst (w := pts) (s0 := st0) x ?_ ?_; rotate_left; intro _; clear_value x; rotate_left; unfold x)
    | (intro x; refine same_cut_snd (w := pts) (s0 := st0) x ?_ ?_; rotate_left; intro _; clear_value x; rotate_left; unfold x)
    | (intro x; clear_value x)
    | (with_reducible apply modFab_same)
    | (with_reducible apply forAll_same)
    | (with_reducible apply prefetchPktIn_same)
    | (with_reducible refine hopt _ (by assumption))
    | (with_reducible exact hopt _ rfl)
    | (with_reducible apply hfun)
    | (intro _)
    | split
    | (with_reducible apply AnswerSame.next)
    | (with_reducible apply same_getD)
    | (refine same_mk hs ?_; intro p hp; cases p <;> first | exact rfl | exact absurd (by assumption) hp)
    | (refine same_mk (by assumption) ?_; intro p hp; cases p <;> first | exact rfl | exact absurd (by assumption) hp)
    | (dsimp only)
    | (rename_i he; split at he)
    | (rename_i he; injection he with he; subst he)

theorem restage_same {pts : List Part} {st0 : State} (h : Nat) (s : State) (hs : Agrees pts st0 s) (mflash : Part.flash ∈ pts) (mcache : Part.cache ∈ pts) (mnextCache : Part.nextCache ∈ pts) : Agrees pts st0 (restage h s) := by
  delta restage
  repeat' first
    | (with_reducible assumption)
    | (with_reducible rfl)
    | (with_reducible refine fun _ => ?_)
    | lift_lets
    | (intro x; refine same_cut (w := pts) (s0 := st0) x ?_ ?_; rotate_left; intro _; clear_value x; rotate_left; unfold x)
    | (intro x; refine same_cut_ss (w := pts) (s0 := st0) x ?_ ?_; rotate_left; intro hfun; clear_value x; rotate_left; unfold x)
    | (intro x; refine same_cut_ass (w := pts) (s0 := st0) x ?_ ?_; rotate_left; intro hfun; clear_value x; rotate_left; unfold x)
    | (intro x; refine same_cut_abss (w := pts) (s0 := st0) x ?_ ?_; rotate_left; intro hfun; clear_value x; rotate_left; unfold x)
    | (intro x; refine same_cut_a (w := pts) (s0 := st0) x ?_ ?_; rotate_left; intro hfun; clear_value x; rotate_left; unfold x)
    | (intro x; refine same_cut_ab (w := pts) (s0 := st0) x ?_ ?_; rotate_left; intro hfun; clear_value x; rotate_left; unfold x)
    | (intro x; refine same_cut_abc (w := pts) (s0 := st0) x ?_ ?_; rotate_left; intro hfun; clear_value x; rotate_left; unfold x)
    | (intro x; refine same_cut_o1 (w := pts) (s0 := st0) x ?_ ?_; rotate_left; intro hopt; clear_value x; rotate_left; unfold x)
    | (intro x; refine same_cut_o (w := pts) (s0 := st0) x ?_ ?_; rotate_left; intro hopt; clear_value x; rotate_left; unfold x)
    | (intro x; refine same_cut_fst (w := pts) (s0 := st0) x ?_ ?_; rotate_left; intro _; clear_value x; rotate_left; unfold x)
    | (intro x; refine same_cut_snd (w := pts) (s0 := st0) x ?_ ?_; rotate_left; intro _; clear_value x; rotate_left; unfold x)
    | (intro x; clear_value x)
    | (with_reducible apply forAll_same)
    | (with_reducible refine ensureCache_same_eq _ _ _ _ _ ?_ ?_ ?_ ?_ (by assumption))
    | (with_reducible refine hopt _ (by assumption))
    | (with_reducible exact hopt _ rfl)
    | (with_reducible apply hfun)
    | (intro _)
    | split
    | (with_reducible apply AnswerSame.next)
    | (with_reducible apply same_getD)
    | (refine same_mk hs ?_; intro p hp; cases p <;> first | exact rfl | exact absurd (by assumption) hp)
    | (refine same_mk (by assumption) ?_; intro p hp; cases p <;> first | exact rfl | exact absurd (by assumption) hp)
    | (dsimp only)
    | (rename_i he; split at he)
    | (rename_i he; injection he with he; subst he)

theorem fetchAdapter_same {pts : List Part} {st0 : State} (r : Nat) (e : DirEntry) (sent : List (List Byte)) (s : State) (hs : Agrees pts st0 s) (mevents : Part.events ∈ pts) (mstks : Part.stks ∈ pts) (mstreams : Part.streams ∈ pts) (mflash : Part.flash ∈ pts) (mfreeCtr : Part.freeCtr ∈ pts) : Agrees pts st0 (fetchAdapter r e sent s) := by
  delta fetchAdapter
  repeat' first
    | (with_reducible assumption)
    | (with_reducible rfl)
    | (with_reducible refine fun _ => ?_)
    | lift_lets
    | (intro x; refine same_cut (w := pts) (s0 := st0) x ?_ ?_; rotate_left; intro _; clear_value x; rotate_left; unfold x)
    | (intro x; refine same_cut_ss (w := pts) (s0 := st0) x ?_ ?_; rotate_left; intro hfun; clear_value x; rotate_left; unfold x)
    | (intro x; refine same_cut_ass (w := pts) (s0 := st0) x ?_ ?_; rotate_left; intro hfun; clear_value x; rotate_left; unfold x)
    | (intro x; refine same_cut_abss (w := pts) (s0 := st0) x ?_ ?_; rotate_left; intro hfun; clear_value x; rotate_left; unfold x)
    | (intro x; refine same_cut_a (w := pts) (s0 := st0) x ?_ ?_; rotate_left; intro hfun; clear_value x; rotate_left; unfold x)
    | (intro x; refine same_cut_ab (w := pts) (s0 := st0) x ?_ ?_; rotate_left; intro hfun; clear_value x; rotate_left; unfold x)
    | (intro x; refine same_cut_abc (w := pts) (s0 := st0) x ?_ ?_; rotate_left; intro hfun; clear_value x; rotate_left; unfold x)
    | (intro x; refine same_cut_o1 (w := pts) (s0 := st0) x ?_ ?_; rotate_left; intro hopt; clear_value x; rotate_left; unfold x)
    | (intro x; refine same_cut_o (w := pts) (s0 := st0) x ?_ ?_; rotate_left; intro hopt; clear_value x; rotate_left; unfold x)
    | (intro x; refine same_cut_fst (w := pts) (s0 := st0) x ?_ ?_; rotate_left; intro _; clear_value x; rotate_left; unfold x)
    | (intro x; refine same_cut_snd (w := pts) (s0 := st0) x ?_ ?_; rotate_left; intro _; clear_value x; rotate_left; unfold x)
    | (intro x; clear_value x)
    | (with_reducible apply fetchFlash_same)
    | (with_reducible refine hopt _ (by assumption))
    | (with_reducible exact hopt _ rfl)
    | (with_reducible apply hfun)
    | (intro _)
    | split
    | (with_reducible apply AnswerSame.next)
    | (with_reducible apply same_getD)
    | (refine same_mk hs ?_; intro p hp; cases p <;> first | exact rfl | exact absurd (by assumption) hp)
    | (refine same_mk (by assumption) ?_; intro p hp; cases p <;> first | exact rfl | exact absurd (by assumption) hp)
    | (dsimp only)
    | (rename_i he; split at he)
    | (rename_i he; injection he with he; subst he)

theorem writeShard_same {pts : List Part} {st0 : State} (r a : Nat) (image : List (List Byte)) (s : State) (hs : Agrees pts st0 s) (mmem : Part.mem ∈ pts) (mbushels : Part.bushels ∈ pts) : Agrees pts st0 (writeShard r a image s) := by
  delta writeShard
  repeat' first
    | (with_reducible assumption)
    | (with_reducible rfl)
    | (with_reducible refine fun _ => ?_)
    | lift_lets
    | (intro x; refine same_cut (w := pts) (s0 := st0) x ?_ ?_; rotate_left; intro _; clear_value x; rotate_left; unfold x)
    | (intro x; refine same_cut_ss (w := pts) (s0 := st0) x ?_ ?_; rotate_left; intro hfun; clear_value x; rotate_left; unfold x)
    | (intro x; refine same_cut_ass (w := pts) (s0 := st0) x ?_ ?_; rotate_left; intro hfun; clear_value x; rotate_left; unfold x)
    | (intro x; refine same_cut_abss (w := pts) (s0 := st0) x ?_ ?_; rotate_left; intro hfun; clear_value x; rotate_left; unfold x)
    | (intro x; refine same_cut_a (w := pts) (s0 := st0) x ?_ ?_; rotate_left; intro hfun; clear_value x; rotate_left; unfold x)
    | (intro x; refine same_cut_ab (w := pts) (s0 := st0) x ?_ ?_; rotate_left; intro hfun; clear_value x; rotate_left; unfold x)
    | (intro x; refine same_cut_abc (w := pts) (s0 := st0) x ?_ ?_; rotate_left; intro hfun; clear_value x; rotate_left; unfold x)
    | (intro x; refine same_cut_o1 (w := pts) (s0 := st0) x ?_ ?_; rotate_left; intro hopt; clear_value x; rotate_left; unfold x)
    | (intro x; refine same_cut_o (w := pts) (s0 := st0) x ?_ ?_; rotate_left; intro hopt; clear_value x; rotate_left; unfold x)
    | (intro x; refine same_cut_fst (w := pts) (s0 := st0) x ?_ ?_; rotate_left; intro _; clear_value x; rotate_left; unfold x)
    | (intro x; refine same_cut_snd (w := pts) (s0 := st0) x ?_ ?_; rotate_left; intro _; clear_value x; rotate_left; unfold x)
    | (intro x; clear_value x)
    | (with_reducible apply forAll_same)
    | (with_reducible apply putBushel_same)
    | (with_reducible refine hopt _ (by assumption))
    | (with_reducible exact hopt _ rfl)
    | (with_reducible apply hfun)
    | (intro _)
    | split
    | (with_reducible apply AnswerSame.next)
    | (with_reducible apply same_getD)
    | (refine same_mk hs ?_; intro p hp; cases p <;> first | exact rfl | exact absurd (by assumption) hp)
    | (refine same_mk (by assumption) ?_; intro p hp; cases p <;> first | exact rfl | exact absurd (by assumption) hp)
    | (dsimp only)
    | (rename_i he; split at he)
    | (rename_i he; injection he with he; subst he)

theorem entryResident_same {pts : List Part} {st0 : State} (slot version : Nat) (image : List (List Byte)) (s : State) (hs : Agrees pts st0 s) (mevents : Part.events ∈ pts) (mroods : Part.roods ∈ pts) (mstks : Part.stks ∈ pts) (mstreams : Part.streams ∈ pts) (mflash : Part.flash ∈ pts) (mcache : Part.cache ∈ pts) (mmem : Part.mem ∈ pts) (mbushels : Part.bushels ∈ pts) (mfreeCtr : Part.freeCtr ∈ pts) : Agrees pts st0 (entryResident slot version image s) := by
  delta entryResident
  repeat' first
    | (with_reducible assumption)
    | (with_reducible rfl)
    | (with_reducible refine fun _ => ?_)
    | lift_lets
    | (intro x; refine same_cut (w := pts) (s0 := st0) x ?_ ?_; rotate_left; intro _; clear_value x; rotate_left; unfold x)
    | (intro x; refine same_cut_ss (w := pts) (s0 := st0) x ?_ ?_; rotate_left; intro hfun; clear_value x; rotate_left; unfold x)
    | (intro x; refine same_cut_ass (w := pts) (s0 := st0) x ?_ ?_; rotate_left; intro hfun; clear_value x; rotate_left; unfold x)
    | (intro x; refine same_cut_abss (w := pts) (s0 := st0) x ?_ ?_; rotate_left; intro hfun; clear_value x; rotate_left; unfold x)
    | (intro x; refine same_cut_a (w := pts) (s0 := st0) x ?_ ?_; rotate_left; intro hfun; clear_value x; rotate_left; unfold x)
    | (intro x; refine same_cut_ab (w := pts) (s0 := st0) x ?_ ?_; rotate_left; intro hfun; clear_value x; rotate_left; unfold x)
    | (intro x; refine same_cut_abc (w := pts) (s0 := st0) x ?_ ?_; rotate_left; intro hfun; clear_value x; rotate_left; unfold x)
    | (intro x; refine same_cut_o1 (w := pts) (s0 := st0) x ?_ ?_; rotate_left; intro hopt; clear_value x; rotate_left; unfold x)
    | (intro x; refine same_cut_o (w := pts) (s0 := st0) x ?_ ?_; rotate_left; intro hopt; clear_value x; rotate_left; unfold x)
    | (intro x; refine same_cut_fst (w := pts) (s0 := st0) x ?_ ?_; rotate_left; intro _; clear_value x; rotate_left; unfold x)
    | (intro x; refine same_cut_snd (w := pts) (s0 := st0) x ?_ ?_; rotate_left; intro _; clear_value x; rotate_left; unfold x)
    | (intro x; clear_value x)
    | (with_reducible apply modRood_same)
    | (with_reducible refine makeRoom_same_eq _ _ _ _ ?_ ?_ (by assumption))
    | (with_reducible apply usedEntry_same)
    | (with_reducible apply fetchAdapter_same)
    | (with_reducible apply writeShard_same)
    | (with_reducible apply foldl_same)
    | (with_reducible apply foldl_snd_same)
    | (with_reducible apply foldl_fst_same)
    | (with_reducible refine hopt _ (by assumption))
    | (with_reducible exact hopt _ rfl)
    | (with_reducible apply hfun)
    | (intro _)
    | split
    | (with_reducible apply AnswerSame.next)
    | (with_reducible apply same_getD)
    | (refine same_mk hs ?_; intro p hp; cases p <;> first | exact rfl | exact absurd (by assumption) hp)
    | (refine same_mk (by assumption) ?_; intro p hp; cases p <;> first | exact rfl | exact absurd (by assumption) hp)
    | (dsimp only)
    | (rename_i he; split at he)
    | (rename_i he; injection he with he; subst he)

theorem faultVersion_same {pts : List Part} {st0 : State} (r a slot version : Nat) (s : State) (hs : Agrees pts st0 s) (mevents : Part.events ∈ pts) (meth : Part.eth ∈ pts) (mroods : Part.roods ∈ pts) (mstks : Part.stks ∈ pts) (mslots : Part.slots ∈ pts) (mcache : Part.cache ∈ pts) (mrequests : Part.requests ∈ pts) : Agrees pts st0 (faultVersion r a slot version s) := by
  delta faultVersion
  repeat' first
    | (with_reducible assumption)
    | (with_reducible rfl)
    | (with_reducible refine fun _ => ?_)
    | lift_lets
    | (intro x; refine same_cut (w := pts) (s0 := st0) x ?_ ?_; rotate_left; intro _; clear_value x; rotate_left; unfold x)
    | (intro x; refine same_cut_ss (w := pts) (s0 := st0) x ?_ ?_; rotate_left; intro hfun; clear_value x; rotate_left; unfold x)
    | (intro x; refine same_cut_ass (w := pts) (s0 := st0) x ?_ ?_; rotate_left; intro hfun; clear_value x; rotate_left; unfold x)
    | (intro x; refine same_cut_abss (w := pts) (s0 := st0) x ?_ ?_; rotate_left; intro hfun; clear_value x; rotate_left; unfold x)
    | (intro x; refine same_cut_a (w := pts) (s0 := st0) x ?_ ?_; rotate_left; intro hfun; clear_value x; rotate_left; unfold x)
    | (intro x; refine same_cut_ab (w := pts) (s0 := st0) x ?_ ?_; rotate_left; intro hfun; clear_value x; rotate_left; unfold x)
    | (intro x; refine same_cut_abc (w := pts) (s0 := st0) x ?_ ?_; rotate_left; intro hfun; clear_value x; rotate_left; unfold x)
    | (intro x; refine same_cut_o1 (w := pts) (s0 := st0) x ?_ ?_; rotate_left; intro hopt; clear_value x; rotate_left; unfold x)
    | (intro x; refine same_cut_o (w := pts) (s0 := st0) x ?_ ?_; rotate_left; intro hopt; clear_value x; rotate_left; unfold x)
    | (intro x; refine same_cut_fst (w := pts) (s0 := st0) x ?_ ?_; rotate_left; intro _; clear_value x; rotate_left; unfold x)
    | (intro x; refine same_cut_snd (w := pts) (s0 := st0) x ?_ ?_; rotate_left; intro _; clear_value x; rotate_left; unfold x)
    | (intro x; clear_value x)
    | (with_reducible apply modRood_same)
    | (with_reducible apply forAll_same)
    | (with_reducible apply logBase_same)
    | (with_reducible apply failRequest_same)
    | (with_reducible refine hopt _ (by assumption))
    | (with_reducible exact hopt _ rfl)
    | (with_reducible apply hfun)
    | (intro _)
    | split
    | (with_reducible apply AnswerSame.next)
    | (with_reducible apply same_getD)
    | (refine same_mk hs ?_; intro p hp; cases p <;> first | exact rfl | exact absurd (by assumption) hp)
    | (refine same_mk (by assumption) ?_; intro p hp; cases p <;> first | exact rfl | exact absurd (by assumption) hp)
    | (dsimp only)
    | (rename_i he; split at he)
    | (rename_i he; injection he with he; subst he)

theorem versionGone_same {pts : List Part} {st0 : State} (r a slot gen version : Nat) (by_ : Option Nat) (s : State) (hs : Agrees pts st0 s) (mevents : Part.events ∈ pts) (meth : Part.eth ∈ pts) (mlinks : Part.links ∈ pts) (mfab : Part.fab ∈ pts) (mroods : Part.roods ∈ pts) (mstks : Part.stks ∈ pts) (mslots : Part.slots ∈ pts) (mcache : Part.cache ∈ pts) (mrequests : Part.requests ∈ pts) : Agrees pts st0 (versionGone r a slot gen version by_ s) := by
  delta versionGone
  repeat' first
    | (with_reducible assumption)
    | (with_reducible rfl)
    | (with_reducible refine fun _ => ?_)
    | lift_lets
    | (intro x; refine same_cut (w := pts) (s0 := st0) x ?_ ?_; rotate_left; intro _; clear_value x; rotate_left; unfold x)
    | (intro x; refine same_cut_ss (w := pts) (s0 := st0) x ?_ ?_; rotate_left; intro hfun; clear_value x; rotate_left; unfold x)
    | (intro x; refine same_cut_ass (w := pts) (s0 := st0) x ?_ ?_; rotate_left; intro hfun; clear_value x; rotate_left; unfold x)
    | (intro x; refine same_cut_abss (w := pts) (s0 := st0) x ?_ ?_; rotate_left; intro hfun; clear_value x; rotate_left; unfold x)
    | (intro x; refine same_cut_a (w := pts) (s0 := st0) x ?_ ?_; rotate_left; intro hfun; clear_value x; rotate_left; unfold x)
    | (intro x; refine same_cut_ab (w := pts) (s0 := st0) x ?_ ?_; rotate_left; intro hfun; clear_value x; rotate_left; unfold x)
    | (intro x; refine same_cut_abc (w := pts) (s0 := st0) x ?_ ?_; rotate_left; intro hfun; clear_value x; rotate_left; unfold x)
    | (intro x; refine same_cut_o1 (w := pts) (s0 := st0) x ?_ ?_; rotate_left; intro hopt; clear_value x; rotate_left; unfold x)
    | (intro x; refine same_cut_o (w := pts) (s0 := st0) x ?_ ?_; rotate_left; intro hopt; clear_value x; rotate_left; unfold x)
    | (intro x; refine same_cut_fst (w := pts) (s0 := st0) x ?_ ?_; rotate_left; intro _; clear_value x; rotate_left; unfold x)
    | (intro x; refine same_cut_snd (w := pts) (s0 := st0) x ?_ ?_; rotate_left; intro _; clear_value x; rotate_left; unfold x)
    | (intro x; clear_value x)
    | (with_reducible apply forAll_same)
    | (with_reducible apply sendFault_same)
    | (with_reducible apply faultVersion_same)
    | (with_reducible refine hopt _ (by assumption))
    | (with_reducible exact hopt _ rfl)
    | (with_reducible apply hfun)
    | (intro _)
    | split
    | (with_reducible apply AnswerSame.next)
    | (with_reducible apply same_getD)
    | (refine same_mk hs ?_; intro p hp; cases p <;> first | exact rfl | exact absurd (by assumption) hp)
    | (refine same_mk (by assumption) ?_; intro p hp; cases p <;> first | exact rfl | exact absurd (by assumption) hp)
    | (dsimp only)
    | (rename_i he; split at he)
    | (rename_i he; injection he with he; subst he)

theorem entryFaulted_same {pts : List Part} {st0 : State} (slot version : Nat) (s : State) (hs : Agrees pts st0 s) (mevents : Part.events ∈ pts) (meth : Part.eth ∈ pts) (mlinks : Part.links ∈ pts) (mfab : Part.fab ∈ pts) (mroods : Part.roods ∈ pts) (mstks : Part.stks ∈ pts) (mslots : Part.slots ∈ pts) (mcache : Part.cache ∈ pts) (mrequests : Part.requests ∈ pts) : Agrees pts st0 (entryFaulted slot version s) := by
  delta entryFaulted
  repeat' first
    | (with_reducible assumption)
    | (with_reducible rfl)
    | (with_reducible refine fun _ => ?_)
    | lift_lets
    | (intro x; refine same_cut (w := pts) (s0 := st0) x ?_ ?_; rotate_left; intro _; clear_value x; rotate_left; unfold x)
    | (intro x; refine same_cut_ss (w := pts) (s0 := st0) x ?_ ?_; rotate_left; intro hfun; clear_value x; rotate_left; unfold x)
    | (intro x; refine same_cut_ass (w := pts) (s0 := st0) x ?_ ?_; rotate_left; intro hfun; clear_value x; rotate_left; unfold x)
    | (intro x; refine same_cut_abss (w := pts) (s0 := st0) x ?_ ?_; rotate_left; intro hfun; clear_value x; rotate_left; unfold x)
    | (intro x; refine same_cut_a (w := pts) (s0 := st0) x ?_ ?_; rotate_left; intro hfun; clear_value x; rotate_left; unfold x)
    | (intro x; refine same_cut_ab (w := pts) (s0 := st0) x ?_ ?_; rotate_left; intro hfun; clear_value x; rotate_left; unfold x)
    | (intro x; refine same_cut_abc (w := pts) (s0 := st0) x ?_ ?_; rotate_left; intro hfun; clear_value x; rotate_left; unfold x)
    | (intro x; refine same_cut_o1 (w := pts) (s0 := st0) x ?_ ?_; rotate_left; intro hopt; clear_value x; rotate_left; unfold x)
    | (intro x; refine same_cut_o (w := pts) (s0 := st0) x ?_ ?_; rotate_left; intro hopt; clear_value x; rotate_left; unfold x)
    | (intro x; refine same_cut_fst (w := pts) (s0 := st0) x ?_ ?_; rotate_left; intro _; clear_value x; rotate_left; unfold x)
    | (intro x; refine same_cut_snd (w := pts) (s0 := st0) x ?_ ?_; rotate_left; intro _; clear_value x; rotate_left; unfold x)
    | (intro x; clear_value x)
    | (with_reducible apply versionGone_same)
    | (with_reducible refine hopt _ (by assumption))
    | (with_reducible exact hopt _ rfl)
    | (with_reducible apply hfun)
    | (intro _)
    | split
    | (with_reducible apply AnswerSame.next)
    | (with_reducible apply same_getD)
    | (refine same_mk hs ?_; intro p hp; cases p <;> first | exact rfl | exact absurd (by assumption) hp)
    | (refine same_mk (by assumption) ?_; intro p hp; cases p <;> first | exact rfl | exact absurd (by assumption) hp)
    | (dsimp only)
    | (rename_i he; split at he)
    | (rename_i he; injection he with he; subst he)

theorem versionFaulted_same {pts : List Part} {st0 : State} (slot version : Nat) (s : State) (hs : Agrees pts st0 s) (mevents : Part.events ∈ pts) (meth : Part.eth ∈ pts) (mlinks : Part.links ∈ pts) (mfab : Part.fab ∈ pts) (mroods : Part.roods ∈ pts) (mstks : Part.stks ∈ pts) (mslots : Part.slots ∈ pts) (mcache : Part.cache ∈ pts) (mrequests : Part.requests ∈ pts) : Agrees pts st0 (versionFaulted slot version s) := by
  delta versionFaulted
  repeat' first
    | (with_reducible assumption)
    | (with_reducible rfl)
    | (with_reducible refine fun _ => ?_)
    | lift_lets
    | (intro x; refine same_cut (w := pts) (s0 := st0) x ?_ ?_; rotate_left; intro _; clear_value x; rotate_left; unfold x)
    | (intro x; refine same_cut_ss (w := pts) (s0 := st0) x ?_ ?_; rotate_left; intro hfun; clear_value x; rotate_left; unfold x)
    | (intro x; refine same_cut_ass (w := pts) (s0 := st0) x ?_ ?_; rotate_left; intro hfun; clear_value x; rotate_left; unfold x)
    | (intro x; refine same_cut_abss (w := pts) (s0 := st0) x ?_ ?_; rotate_left; intro hfun; clear_value x; rotate_left; unfold x)
    | (intro x; refine same_cut_a (w := pts) (s0 := st0) x ?_ ?_; rotate_left; intro hfun; clear_value x; rotate_left; unfold x)
    | (intro x; refine same_cut_ab (w := pts) (s0 := st0) x ?_ ?_; rotate_left; intro hfun; clear_value x; rotate_left; unfold x)
    | (intro x; refine same_cut_abc (w := pts) (s0 := st0) x ?_ ?_; rotate_left; intro hfun; clear_value x; rotate_left; unfold x)
    | (intro x; refine same_cut_o1 (w := pts) (s0 := st0) x ?_ ?_; rotate_left; intro hopt; clear_value x; rotate_left; unfold x)
    | (intro x; refine same_cut_o (w := pts) (s0 := st0) x ?_ ?_; rotate_left; intro hopt; clear_value x; rotate_left; unfold x)
    | (intro x; refine same_cut_fst (w := pts) (s0 := st0) x ?_ ?_; rotate_left; intro _; clear_value x; rotate_left; unfold x)
    | (intro x; refine same_cut_snd (w := pts) (s0 := st0) x ?_ ?_; rotate_left; intro _; clear_value x; rotate_left; unfold x)
    | (intro x; clear_value x)
    | (with_reducible apply entryFaulted_same)
    | (with_reducible refine hopt _ (by assumption))
    | (with_reducible exact hopt _ rfl)
    | (with_reducible apply hfun)
    | (intro _)
    | split
    | (with_reducible apply AnswerSame.next)
    | (with_reducible apply same_getD)
    | (refine same_mk hs ?_; intro p hp; cases p <;> first | exact rfl | exact absurd (by assumption) hp)
    | (refine same_mk (by assumption) ?_; intro p hp; cases p <;> first | exact rfl | exact absurd (by assumption) hp)
    | (dsimp only)
    | (rename_i he; split at he)
    | (rename_i he; injection he with he; subst he)

theorem refuseLost_same {pts : List Part} {st0 : State} (r lost a : Nat) (s : State) (hs : Agrees pts st0 s) (meth : Part.eth ∈ pts) (mroods : Part.roods ∈ pts) (mstks : Part.stks ∈ pts) (mslots : Part.slots ∈ pts) (mrequests : Part.requests ∈ pts) : Agrees pts st0 (refuseLost r lost a s) := by
  delta refuseLost
  repeat' first
    | (with_reducible assumption)
    | (with_reducible refine fun _ => ?_)
    | lift_lets
    | (intro x; refine same_cut (w := pts) (s0 := st0) x ?_ ?_; rotate_left; intro _; clear_value x; rotate_left; unfold x)
    | (with_reducible apply modRood_same)
    | (with_reducible apply forAll_same)
    | (with_reducible apply failRequest_same)

theorem swapReport_same {pts : List Part} {st0 : State} (r epoch st : Nat) (s : State) (hs : Agrees pts st0 s) (meth : Part.eth ∈ pts) (mlinks : Part.links ∈ pts) (mfab : Part.fab ∈ pts) (mroods : Part.roods ∈ pts) (mstks : Part.stks ∈ pts) (mslots : Part.slots ∈ pts) (mrequests : Part.requests ∈ pts) : Agrees pts st0 (swapReport r epoch st s) := by
  delta swapReport
  repeat' first
    | (with_reducible assumption)
    | (with_reducible rfl)
    | (with_reducible refine fun _ => ?_)
    | lift_lets
    | (intro x; refine same_cut (w := pts) (s0 := st0) x ?_ ?_; rotate_left; intro _; clear_value x; rotate_left; unfold x)
    | (intro x; refine same_cut_ss (w := pts) (s0 := st0) x ?_ ?_; rotate_left; intro hfun; clear_value x; rotate_left; unfold x)
    | (intro x; refine same_cut_ass (w := pts) (s0 := st0) x ?_ ?_; rotate_left; intro hfun; clear_value x; rotate_left; unfold x)
    | (intro x; refine same_cut_abss (w := pts) (s0 := st0) x ?_ ?_; rotate_left; intro hfun; clear_value x; rotate_left; unfold x)
    | (intro x; refine same_cut_a (w := pts) (s0 := st0) x ?_ ?_; rotate_left; intro hfun; clear_value x; rotate_left; unfold x)
    | (intro x; refine same_cut_ab (w := pts) (s0 := st0) x ?_ ?_; rotate_left; intro hfun; clear_value x; rotate_left; unfold x)
    | (intro x; refine same_cut_abc (w := pts) (s0 := st0) x ?_ ?_; rotate_left; intro hfun; clear_value x; rotate_left; unfold x)
    | (intro x; refine same_cut_o1 (w := pts) (s0 := st0) x ?_ ?_; rotate_left; intro hopt; clear_value x; rotate_left; unfold x)
    | (intro x; refine same_cut_o (w := pts) (s0 := st0) x ?_ ?_; rotate_left; intro hopt; clear_value x; rotate_left; unfold x)
    | (intro x; refine same_cut_fst (w := pts) (s0 := st0) x ?_ ?_; rotate_left; intro _; clear_value x; rotate_left; unfold x)
    | (intro x; refine same_cut_snd (w := pts) (s0 := st0) x ?_ ?_; rotate_left; intro _; clear_value x; rotate_left; unfold x)
    | (intro x; clear_value x)
    | (with_reducible apply modRood_same)
    | (with_reducible apply swapFailed_same)
    | (with_reducible refine hopt _ (by assumption))
    | (with_reducible exact hopt _ rfl)
    | (with_reducible apply hfun)
    | (intro _)
    | split
    | (with_reducible apply AnswerSame.next)
    | (with_reducible apply same_getD)
    | (refine same_mk hs ?_; intro p hp; cases p <;> first | exact rfl | exact absurd (by assumption) hp)
    | (refine same_mk (by assumption) ?_; intro p hp; cases p <;> first | exact rfl | exact absurd (by assumption) hp)
    | (dsimp only)
    | (rename_i he; split at he)
    | (rename_i he; injection he with he; subst he)

theorem versionFaultIn_same {pts : List Part} {st0 : State} (p : Packet) (s : State) (hs : Agrees pts st0 s) (mevents : Part.events ∈ pts) (meth : Part.eth ∈ pts) (mlinks : Part.links ∈ pts) (mfab : Part.fab ∈ pts) (mroods : Part.roods ∈ pts) (mstks : Part.stks ∈ pts) (mslots : Part.slots ∈ pts) (mcache : Part.cache ∈ pts) (mrequests : Part.requests ∈ pts) : Agrees pts st0 (versionFaultIn p s) := by
  delta versionFaultIn
  repeat' first
    | (with_reducible assumption)
    | (with_reducible rfl)
    | (with_reducible refine fun _ => ?_)
    | lift_lets
    | (intro x; refine same_cut (w := pts) (s0 := st0) x ?_ ?_; rotate_left; intro _; clear_value x; rotate_left; unfold x)
    | (intro x; refine same_cut_ss (w := pts) (s0 := st0) x ?_ ?_; rotate_left; intro hfun; clear_value x; rotate_left; unfold x)
    | (intro x; refine same_cut_ass (w := pts) (s0 := st0) x ?_ ?_; rotate_left; intro hfun; clear_value x; rotate_left; unfold x)
    | (intro x; refine same_cut_abss (w := pts) (s0 := st0) x ?_ ?_; rotate_left; intro hfun; clear_value x; rotate_left; unfold x)
    | (intro x; refine same_cut_a (w := pts) (s0 := st0) x ?_ ?_; rotate_left; intro hfun; clear_value x; rotate_left; unfold x)
    | (intro x; refine same_cut_ab (w := pts) (s0 := st0) x ?_ ?_; rotate_left; intro hfun; clear_value x; rotate_left; unfold x)
    | (intro x; refine same_cut_abc (w := pts) (s0 := st0) x ?_ ?_; rotate_left; intro hfun; clear_value x; rotate_left; unfold x)
    | (intro x; refine same_cut_o1 (w := pts) (s0 := st0) x ?_ ?_; rotate_left; intro hopt; clear_value x; rotate_left; unfold x)
    | (intro x; refine same_cut_o (w := pts) (s0 := st0) x ?_ ?_; rotate_left; intro hopt; clear_value x; rotate_left; unfold x)
    | (intro x; refine same_cut_fst (w := pts) (s0 := st0) x ?_ ?_; rotate_left; intro _; clear_value x; rotate_left; unfold x)
    | (intro x; refine same_cut_snd (w := pts) (s0 := st0) x ?_ ?_; rotate_left; intro _; clear_value x; rotate_left; unfold x)
    | (intro x; clear_value x)
    | (with_reducible apply forAll_same)
    | (with_reducible apply failRequest_same)
    | (with_reducible apply versionGone_same)
    | (with_reducible apply refuseLost_same)
    | (with_reducible apply swapReport_same)
    | (with_reducible refine hopt _ (by assumption))
    | (with_reducible exact hopt _ rfl)
    | (with_reducible apply hfun)
    | (intro _)
    | split
    | (with_reducible apply AnswerSame.next)
    | (with_reducible apply same_getD)
    | (refine same_mk hs ?_; intro p hp; cases p <;> first | exact rfl | exact absurd (by assumption) hp)
    | (refine same_mk (by assumption) ?_; intro p hp; cases p <;> first | exact rfl | exact absurd (by assumption) hp)
    | (dsimp only)
    | (rename_i he; split at he)
    | (rename_i he; injection he with he; subst he)

theorem flipVersion_same {pts : List Part} {st0 : State} (slot : Nat) (s : State) (hs : Agrees pts st0 s) (mslots : Part.slots ∈ pts) : Agrees pts st0 (flipVersion slot s) := by
  delta flipVersion
  repeat' first
    | (with_reducible assumption)
    | (with_reducible rfl)
    | (with_reducible refine fun _ => ?_)
    | lift_lets
    | (intro x; refine same_cut (w := pts) (s0 := st0) x ?_ ?_; rotate_left; intro _; clear_value x; rotate_left; unfold x)
    | (intro x; refine same_cut_ss (w := pts) (s0 := st0) x ?_ ?_; rotate_left; intro hfun; clear_value x; rotate_left; unfold x)
    | (intro x; refine same_cut_ass (w := pts) (s0 := st0) x ?_ ?_; rotate_left; intro hfun; clear_value x; rotate_left; unfold x)
    | (intro x; refine same_cut_abss (w := pts) (s0 := st0) x ?_ ?_; rotate_left; intro hfun; clear_value x; rotate_left; unfold x)
    | (intro x; refine same_cut_a (w := pts) (s0 := st0) x ?_ ?_; rotate_left; intro hfun; clear_value x; rotate_left; unfold x)
    | (intro x; refine same_cut_ab (w := pts) (s0 := st0) x ?_ ?_; rotate_left; intro hfun; clear_value x; rotate_left; unfold x)
    | (intro x; refine same_cut_abc (w := pts) (s0 := st0) x ?_ ?_; rotate_left; intro hfun; clear_value x; rotate_left; unfold x)
    | (intro x; refine same_cut_o1 (w := pts) (s0 := st0) x ?_ ?_; rotate_left; intro hopt; clear_value x; rotate_left; unfold x)
    | (intro x; refine same_cut_o (w := pts) (s0 := st0) x ?_ ?_; rotate_left; intro hopt; clear_value x; rotate_left; unfold x)
    | (intro x; refine same_cut_fst (w := pts) (s0 := st0) x ?_ ?_; rotate_left; intro _; clear_value x; rotate_left; unfold x)
    | (intro x; refine same_cut_snd (w := pts) (s0 := st0) x ?_ ?_; rotate_left; intro _; clear_value x; rotate_left; unfold x)
    | (intro x; clear_value x)
    | (with_reducible apply modSlot_same)
    | (with_reducible refine hopt _ (by assumption))
    | (with_reducible exact hopt _ rfl)
    | (with_reducible apply hfun)
    | (intro _)
    | split
    | (with_reducible apply AnswerSame.next)
    | (with_reducible apply same_getD)
    | (refine same_mk hs ?_; intro p hp; cases p <;> first | exact rfl | exact absurd (by assumption) hp)
    | (refine same_mk (by assumption) ?_; intro p hp; cases p <;> first | exact rfl | exact absurd (by assumption) hp)
    | (dsimp only)
    | (rename_i he; split at he)
    | (rename_i he; injection he with he; subst he)

theorem retireVersion_same {pts : List Part} {st0 : State} (slot : Nat) (s : State) (hs : Agrees pts st0 s) (mslots : Part.slots ∈ pts) (mcache : Part.cache ∈ pts) : Agrees pts st0 (retireVersion slot s) := by
  delta retireVersion
  repeat' first
    | (with_reducible assumption)
    | lift_lets
    | (intro x; refine same_cut (w := pts) (s0 := st0) x ?_ ?_; rotate_left; intro _; clear_value x; rotate_left; unfold x)
    | (with_reducible apply modSlot_same)
    | split
    | (refine same_mk (by assumption) ?_; intro p hp; cases p <;> first | exact rfl | exact absurd (by assumption) hp)

theorem epochReadyIn_same {pts : List Part} {st0 : State} (p : Packet) (s : State) (hs : Agrees pts st0 s) (mlinks : Part.links ∈ pts) (mfab : Part.fab ∈ pts) (mroods : Part.roods ∈ pts) : Agrees pts st0 (epochReadyIn p s) := by
  delta epochReadyIn
  repeat' first
    | (with_reducible assumption)
    | (with_reducible rfl)
    | (with_reducible refine fun _ => ?_)
    | lift_lets
    | (intro x; refine same_cut (w := pts) (s0 := st0) x ?_ ?_; rotate_left; intro _; clear_value x; rotate_left; unfold x)
    | (intro x; refine same_cut_ss (w := pts) (s0 := st0) x ?_ ?_; rotate_left; intro hfun; clear_value x; rotate_left; unfold x)
    | (intro x; refine same_cut_ass (w := pts) (s0 := st0) x ?_ ?_; rotate_left; intro hfun; clear_value x; rotate_left; unfold x)
    | (intro x; refine same_cut_abss (w := pts) (s0 := st0) x ?_ ?_; rotate_left; intro hfun; clear_value x; rotate_left; unfold x)
    | (intro x; refine same_cut_a (w := pts) (s0 := st0) x ?_ ?_; rotate_left; intro hfun; clear_value x; rotate_left; unfold x)
    | (intro x; refine same_cut_ab (w := pts) (s0 := st0) x ?_ ?_; rotate_left; intro hfun; clear_value x; rotate_left; unfold x)
    | (intro x; refine same_cut_abc (w := pts) (s0 := st0) x ?_ ?_; rotate_left; intro hfun; clear_value x; rotate_left; unfold x)
    | (intro x; refine same_cut_o1 (w := pts) (s0 := st0) x ?_ ?_; rotate_left; intro hopt; clear_value x; rotate_left; unfold x)
    | (intro x; refine same_cut_o (w := pts) (s0 := st0) x ?_ ?_; rotate_left; intro hopt; clear_value x; rotate_left; unfold x)
    | (intro x; refine same_cut_fst (w := pts) (s0 := st0) x ?_ ?_; rotate_left; intro _; clear_value x; rotate_left; unfold x)
    | (intro x; refine same_cut_snd (w := pts) (s0 := st0) x ?_ ?_; rotate_left; intro _; clear_value x; rotate_left; unfold x)
    | (intro x; clear_value x)
    | (with_reducible apply modRood_same)
    | (with_reducible apply swapReady_same)
    | (with_reducible refine hopt _ (by assumption))
    | (with_reducible exact hopt _ rfl)
    | (with_reducible apply hfun)
    | (intro _)
    | split
    | (with_reducible apply AnswerSame.next)
    | (with_reducible apply same_getD)
    | (refine same_mk hs ?_; intro p hp; cases p <;> first | exact rfl | exact absurd (by assumption) hp)
    | (refine same_mk (by assumption) ?_; intro p hp; cases p <;> first | exact rfl | exact absurd (by assumption) hp)
    | (dsimp only)
    | (rename_i he; split at he)
    | (rename_i he; injection he with he; subst he)

theorem epochFlipIn_same {pts : List Part} {st0 : State} (p : Packet) (s : State) (hs : Agrees pts st0 s) (mevents : Part.events ∈ pts) (meth : Part.eth ∈ pts) (mlinks : Part.links ∈ pts) (mfab : Part.fab ∈ pts) (mroods : Part.roods ∈ pts) (mslices : Part.slices ∈ pts) (mstks : Part.stks ∈ pts) (mflash : Part.flash ∈ pts) (mslots : Part.slots ∈ pts) (mcache : Part.cache ∈ pts) (mnextCache : Part.nextCache ∈ pts) (mrequests : Part.requests ∈ pts) (mmem : Part.mem ∈ pts) : Agrees pts st0 (epochFlipIn p s) := by
  delta epochFlipIn
  repeat' first
    | (with_reducible assumption)
    | lift_lets
    | (intro x; clear_value x)
    | (with_reducible apply modRood_same)
    | (with_reducible apply resumeAdmission_same)
    | split

theorem execLockSet_same {pts : List Part} {st0 : State} (t i : Nat) (s : State) (hs : Agrees pts st0 s) (mevents : Part.events ∈ pts) (mlinks : Part.links ∈ pts) (mfab : Part.fab ∈ pts) (mroods : Part.roods ∈ pts) (mstks : Part.stks ∈ pts) : AnswerSame pts st0 (execLockSet t i s) := by
  delta execLockSet
  repeat' first
    | (with_reducible assumption)
    | lift_lets
    | (with_reducible apply setLock_same)
    | (with_reducible apply AnswerSame.next)

theorem execBaseLoad_same {pts : List Part} {st0 : State} (r : Nat) (w : LoadWorld) (s : State) (hs : Agrees pts st0 s) (mevents : Part.events ∈ pts) (mroods : Part.roods ∈ pts) (mstks : Part.stks ∈ pts) (mstreams : Part.streams ∈ pts) (mflash : Part.flash ∈ pts) (mmem : Part.mem ∈ pts) (mbushels : Part.bushels ∈ pts) (mfreeCtr : Part.freeCtr ∈ pts) : AnswerSame pts st0 (execBaseLoad r w s) := by
  delta execBaseLoad
  repeat' first
    | (with_reducible assumption)
    | lift_lets
    | (with_reducible apply baseLoad_same)
    | (with_reducible apply AnswerSame.next)

theorem execBaseFlip_same {pts : List Part} {st0 : State} (r : Nat) (s : State) (hs : Agrees pts st0 s) (mroods : Part.roods ∈ pts) : AnswerSame pts st0 (execBaseFlip r s) := by
  delta execBaseFlip
  repeat' first
    | (with_reducible assumption)
    | lift_lets
    | (with_reducible apply armFlip_same)
    | (with_reducible apply AnswerSame.next)

theorem execFlipTakesEffect_same {pts : List Part} {st0 : State} (r : Nat) (s : State) (hs : Agrees pts st0 s) (mevents : Part.events ∈ pts) (meth : Part.eth ∈ pts) (mlinks : Part.links ∈ pts) (mfab : Part.fab ∈ pts) (mroods : Part.roods ∈ pts) (mstks : Part.stks ∈ pts) (mslots : Part.slots ∈ pts) (mrequests : Part.requests ∈ pts) : AnswerSame pts st0 (execFlipTakesEffect r s) := by
  delta execFlipTakesEffect
  repeat' first
    | (with_reducible assumption)
    | lift_lets
    | (with_reducible apply flipNow_same)
    | (with_reducible apply AnswerSame.next)

theorem execBaseSwap_same {pts : List Part} {st0 : State} (r : Nat) (s : State) (hs : Agrees pts st0 s) (mroods : Part.roods ∈ pts) : AnswerSame pts st0 (execBaseSwap r s) := by
  delta execBaseSwap
  repeat' first
    | (with_reducible assumption)
    | lift_lets
    | (with_reducible apply armFlip_same)
    | (with_reducible apply AnswerSame.next)

theorem execSwapLoad_same {pts : List Part} {st0 : State} (r : Nat) (w : LoadWorld) (s : State) (hs : Agrees pts st0 s) (mevents : Part.events ∈ pts) (meth : Part.eth ∈ pts) (mlinks : Part.links ∈ pts) (mfab : Part.fab ∈ pts) (mroods : Part.roods ∈ pts) (mstks : Part.stks ∈ pts) (mstreams : Part.streams ∈ pts) (mflash : Part.flash ∈ pts) (mslots : Part.slots ∈ pts) (mrequests : Part.requests ∈ pts) (mmem : Part.mem ∈ pts) (mbushels : Part.bushels ∈ pts) (mfreeCtr : Part.freeCtr ∈ pts) : AnswerSame pts st0 (execSwapLoad r w s) := by
  delta execSwapLoad
  repeat' first
    | (with_reducible assumption)
    | lift_lets
    | (with_reducible apply swapLoad_same)
    | (with_reducible apply AnswerSame.next)

theorem execAdmissionResumed_same {pts : List Part} {st0 : State} (r : Nat) (s : State) (hs : Agrees pts st0 s) (mevents : Part.events ∈ pts) (meth : Part.eth ∈ pts) (mlinks : Part.links ∈ pts) (mfab : Part.fab ∈ pts) (mroods : Part.roods ∈ pts) (mslices : Part.slices ∈ pts) (mstks : Part.stks ∈ pts) (mflash : Part.flash ∈ pts) (mslots : Part.slots ∈ pts) (mcache : Part.cache ∈ pts) (mnextCache : Part.nextCache ∈ pts) (mrequests : Part.requests ∈ pts) (mmem : Part.mem ∈ pts) : AnswerSame pts st0 (execAdmissionResumed r s) := by
  delta execAdmissionResumed
  repeat' first
    | (with_reducible assumption)
    | lift_lets
    | (with_reducible apply resumeAdmission_same)
    | (with_reducible apply AnswerSame.next)

theorem execBaseRelease_same {pts : List Part} {st0 : State} (r : Nat) (s : State) (hs : Agrees pts st0 s) (mroods : Part.roods ∈ pts) (mstks : Part.stks ∈ pts) : AnswerSame pts st0 (execBaseRelease r s) := by
  delta execBaseRelease
  repeat' first
    | (with_reducible assumption)
    | lift_lets
    | (with_reducible apply baseRelease_same)
    | (with_reducible apply AnswerSame.next)

theorem execBaseGone_same {pts : List Part} {st0 : State} (r epoch : Nat) (s : State) (hs : Agrees pts st0 s) (mevents : Part.events ∈ pts) (mroods : Part.roods ∈ pts) : AnswerSame pts st0 (execBaseGone r epoch s) := by
  delta execBaseGone
  repeat' first
    | (with_reducible assumption)
    | lift_lets
    | (with_reducible apply epochGone_same)
    | (with_reducible apply AnswerSame.next)

theorem execBaseRepair_same {pts : List Part} {st0 : State} (r : Nat) (images : LoadWorld) (s : State) (hs : Agrees pts st0 s) (mevents : Part.events ∈ pts) (mrepair : Part.repair ∈ pts) (mrepairSeq : Part.repairSeq ∈ pts) (mroods : Part.roods ∈ pts) (mstks : Part.stks ∈ pts) (mstreams : Part.streams ∈ pts) (mflash : Part.flash ∈ pts) (mmem : Part.mem ∈ pts) (mbushels : Part.bushels ∈ pts) (mfreeCtr : Part.freeCtr ∈ pts) : AnswerSame pts st0 (execBaseRepair r images s) := by
  delta execBaseRepair
  repeat' first
    | (with_reducible assumption)
    | (with_reducible rfl)
    | (with_reducible refine fun _ => ?_)
    | lift_lets
    | (intro x; refine same_cut (w := pts) (s0 := st0) x ?_ ?_; rotate_left; intro _; clear_value x; rotate_left; unfold x)
    | (intro x; refine same_cut_ss (w := pts) (s0 := st0) x ?_ ?_; rotate_left; intro hfun; clear_value x; rotate_left; unfold x)
    | (intro x; refine same_cut_ass (w := pts) (s0 := st0) x ?_ ?_; rotate_left; intro hfun; clear_value x; rotate_left; unfold x)
    | (intro x; refine same_cut_abss (w := pts) (s0 := st0) x ?_ ?_; rotate_left; intro hfun; clear_value x; rotate_left; unfold x)
    | (intro x; refine same_cut_a (w := pts) (s0 := st0) x ?_ ?_; rotate_left; intro hfun; clear_value x; rotate_left; unfold x)
    | (intro x; refine same_cut_ab (w := pts) (s0 := st0) x ?_ ?_; rotate_left; intro hfun; clear_value x; rotate_left; unfold x)
    | (intro x; refine same_cut_abc (w := pts) (s0 := st0) x ?_ ?_; rotate_left; intro hfun; clear_value x; rotate_left; unfold x)
    | (intro x; refine same_cut_o1 (w := pts) (s0 := st0) x ?_ ?_; rotate_left; intro hopt; clear_value x; rotate_left; unfold x)
    | (intro x; refine same_cut_o (w := pts) (s0 := st0) x ?_ ?_; rotate_left; intro hopt; clear_value x; rotate_left; unfold x)
    | (intro x; refine same_cut_fst (w := pts) (s0 := st0) x ?_ ?_; rotate_left; intro _; clear_value x; rotate_left; unfold x)
    | (intro x; refine same_cut_snd (w := pts) (s0 := st0) x ?_ ?_; rotate_left; intro _; clear_value x; rotate_left; unfold x)
    | (intro x; clear_value x)
    | (with_reducible apply baseRepair_same)
    | (with_reducible refine hopt _ (by assumption))
    | (with_reducible exact hopt _ rfl)
    | (with_reducible apply hfun)
    | (intro _)
    | split
    | (with_reducible apply AnswerSame.next)
    | (with_reducible apply same_getD)
    | (refine same_mk hs ?_; intro p hp; cases p <;> first | exact rfl | exact absurd (by assumption) hp)
    | (refine same_mk (by assumption) ?_; intro p hp; cases p <;> first | exact rfl | exact absurd (by assumption) hp)
    | (dsimp only)
    | (rename_i he; split at he)
    | (rename_i he; injection he with he; subst he)

theorem execAdapterPut_same {pts : List Part} {st0 : State} (r : Nat) (s : State) (hs : Agrees pts st0 s) (mroods : Part.roods ∈ pts) (mslots : Part.slots ∈ pts) : AnswerSame pts st0 (execAdapterPut r s) := by
  delta execAdapterPut
  repeat' first
    | (with_reducible assumption)
    | lift_lets
    | (with_reducible apply adapterPut_same)
    | (with_reducible apply AnswerSame.next)

theorem execAdapterDrop_same {pts : List Part} {st0 : State} (r : Nat) (s : State) (hs : Agrees pts st0 s) (mroods : Part.roods ∈ pts) : AnswerSame pts st0 (execAdapterDrop r s) := by
  delta execAdapterDrop
  repeat' first
    | (with_reducible assumption)
    | lift_lets
    | (with_reducible apply adapterDrop_same)
    | (with_reducible apply AnswerSame.next)

theorem onControl_same {pts : List Part} {st0 : State} (p : Packet) (sub : Nat) (f : Packet → State → State) (s : State) (hs : Agrees pts st0 s) (hf : ∀ x0 x1, Agrees pts st0 x1 → Agrees pts st0 (f x0 x1)) (mevents : Part.events ∈ pts) (mlinks : Part.links ∈ pts) (mfab : Part.fab ∈ pts) : Agrees pts st0 (onControl p sub f s) := by
  delta onControl
  repeat' first
    | (with_reducible assumption)
    | (with_reducible apply hf)
    | (with_reducible refine fun _ => ?_)
    | (with_reducible apply arriving_same)
    | (with_reducible apply fromPeer_same)
    | split

theorem execPrefetch_same {pts : List Part} {st0 : State} (p : Packet) (s : State) (hs : Agrees pts st0 s) (mevents : Part.events ∈ pts) (mlinks : Part.links ∈ pts) (mfab : Part.fab ∈ pts) (mroods : Part.roods ∈ pts) (mstks : Part.stks ∈ pts) (mflash : Part.flash ∈ pts) (mslots : Part.slots ∈ pts) (mcache : Part.cache ∈ pts) (mnextCache : Part.nextCache ∈ pts) (mrequests : Part.requests ∈ pts) (mnextReq : Part.nextReq ∈ pts) : AnswerSame pts st0 (execPrefetch p s) := by
  delta execPrefetch
  repeat' first
    | (with_reducible assumption)
    | (with_reducible refine fun _ => ?_)
    | lift_lets
    | (with_reducible apply prefetchPktIn_same)
    | (with_reducible apply onControl_same)
    | (with_reducible apply AnswerSame.next)

theorem execAdapterEntryResident_same {pts : List Part} {st0 : State} (slot version : Nat) (image : List (List Byte)) (s : State) (hs : Agrees pts st0 s) (mevents : Part.events ∈ pts) (mroods : Part.roods ∈ pts) (mstks : Part.stks ∈ pts) (mstreams : Part.streams ∈ pts) (mflash : Part.flash ∈ pts) (mcache : Part.cache ∈ pts) (mmem : Part.mem ∈ pts) (mbushels : Part.bushels ∈ pts) (mfreeCtr : Part.freeCtr ∈ pts) : AnswerSame pts st0 (execAdapterEntryResident slot version image s) := by
  delta execAdapterEntryResident
  repeat' first
    | (with_reducible assumption)
    | lift_lets
    | (with_reducible apply entryResident_same)
    | (with_reducible apply AnswerSame.next)

theorem execVersionFaulted_same {pts : List Part} {st0 : State} (slot version : Nat) (s : State) (hs : Agrees pts st0 s) (mevents : Part.events ∈ pts) (meth : Part.eth ∈ pts) (mlinks : Part.links ∈ pts) (mfab : Part.fab ∈ pts) (mroods : Part.roods ∈ pts) (mstks : Part.stks ∈ pts) (mslots : Part.slots ∈ pts) (mcache : Part.cache ∈ pts) (mrequests : Part.requests ∈ pts) : AnswerSame pts st0 (execVersionFaulted slot version s) := by
  delta execVersionFaulted
  repeat' first
    | (with_reducible assumption)
    | lift_lets
    | (with_reducible apply versionFaulted_same)
    | (with_reducible apply AnswerSame.next)

theorem execVersionRetire_same {pts : List Part} {st0 : State} (slot : Nat) (s : State) (hs : Agrees pts st0 s) (mslots : Part.slots ∈ pts) (mcache : Part.cache ∈ pts) : AnswerSame pts st0 (execVersionRetire slot s) := by
  delta execVersionRetire
  repeat' first
    | (with_reducible assumption)
    | lift_lets
    | (with_reducible apply retireVersion_same)
    | (with_reducible apply AnswerSame.next)

theorem execEpochReady_same {pts : List Part} {st0 : State} (p : Packet) (s : State) (hs : Agrees pts st0 s) (mevents : Part.events ∈ pts) (mlinks : Part.links ∈ pts) (mfab : Part.fab ∈ pts) (mroods : Part.roods ∈ pts) : AnswerSame pts st0 (execEpochReady p s) := by
  delta execEpochReady
  repeat' first
    | (with_reducible assumption)
    | (with_reducible refine fun _ => ?_)
    | lift_lets
    | (with_reducible apply epochReadyIn_same)
    | (with_reducible apply onControl_same)
    | (with_reducible apply AnswerSame.next)

theorem execEpochFlip_same {pts : List Part} {st0 : State} (p : Packet) (s : State) (hs : Agrees pts st0 s) (mevents : Part.events ∈ pts) (meth : Part.eth ∈ pts) (mlinks : Part.links ∈ pts) (mfab : Part.fab ∈ pts) (mroods : Part.roods ∈ pts) (mslices : Part.slices ∈ pts) (mstks : Part.stks ∈ pts) (mflash : Part.flash ∈ pts) (mslots : Part.slots ∈ pts) (mcache : Part.cache ∈ pts) (mnextCache : Part.nextCache ∈ pts) (mrequests : Part.requests ∈ pts) (mmem : Part.mem ∈ pts) : AnswerSame pts st0 (execEpochFlip p s) := by
  delta execEpochFlip
  repeat' first
    | (with_reducible assumption)
    | (with_reducible refine fun _ => ?_)
    | lift_lets
    | (with_reducible apply epochFlipIn_same)
    | (with_reducible apply onControl_same)
    | (with_reducible apply AnswerSame.next)

theorem execVersionFault_same {pts : List Part} {st0 : State} (p : Packet) (s : State) (hs : Agrees pts st0 s) (mevents : Part.events ∈ pts) (meth : Part.eth ∈ pts) (mlinks : Part.links ∈ pts) (mfab : Part.fab ∈ pts) (mroods : Part.roods ∈ pts) (mstks : Part.stks ∈ pts) (mslots : Part.slots ∈ pts) (mcache : Part.cache ∈ pts) (mrequests : Part.requests ∈ pts) : AnswerSame pts st0 (execVersionFault p s) := by
  delta execVersionFault
  repeat' first
    | (with_reducible assumption)
    | (with_reducible refine fun _ => ?_)
    | lift_lets
    | (with_reducible apply versionFaultIn_same)
    | (with_reducible apply onControl_same)
    | (with_reducible apply AnswerSame.next)

end Sys2Proof.Laws
end

