-- ==== Sys2Proof/Laws/TouchNet.lean ====
section
/-! SUPPORT. Which parts of the state every operation of Machine/Net.lean may change (Laws/Touch.lean). -/
namespace Sys2Proof.Laws

set_option linter.unusedVariables false

open Sys2Proof.Machine Sys2Proof.Safety

theorem modIf_same {pts : List Part} {st0 : State} (i : Nat) (f : Iface → Iface) (s : State) (hs : Agrees pts st0 s) (meth : Part.eth ∈ pts) : Agrees pts st0 (modIf i f s) := by
  delta modIf
  repeat' first
    | (with_reducible assumption)
    | (with_reducible apply modEth_same)

theorem ifUp_same {pts : List Part} {st0 : State} (i : Nat) (s : State) (hs : Agrees pts st0 s) (mevents : Part.events ∈ pts) (meth : Part.eth ∈ pts) : Agrees pts st0 (ifUp i s) := by
  delta ifUp
  repeat' first
    | (with_reducible assumption)
    | lift_lets
    | (with_reducible apply logEth_same)
    | (with_reducible apply modIf_same)
    | split

theorem storeLost_same {pts : List Part} {st0 : State} (q st : Nat) (s : State) (hs : Agrees pts st0 s) (mdescs : Part.descs ∈ pts) (mstreams : Part.streams ∈ pts) : Agrees pts st0 (storeLost q st s) := by
  delta storeLost
  repeat' first
    | (with_reducible assumption)
    | (with_reducible rfl)
    | (with_reducible refine fun _ => ?_)
    | lift_lets
    | (intro x; refine same_cut (w := pts) (s0 := st0) x ?_ ?_; rotate_left; intro _; clear_value x; rotate_left; unfold x)
    | (intro x; refine same_cut_ss (w := pts) (s0 := st0) x ?_ ?_; rotate_left; intro hfun; clear_value x; rotate_left; unfold x)
    | (intro x; refine same_cut_ass (w := pts) (s0 := st0) x ?_ ?_; rotate_left; intro hfun; clear_value x; rotate_left; unfold x)
    | (intro x; refine same_cut_abss (w := pts) (s0 := st0) x ?_ ?_; rotate_left; intro hfun; clear_value x; rotate_left; unfold x)
    | (intro x; refine same_cut_a (w := pts) (s0 := st0) x ?_ ?_; rotate_left; intro hfun; clear_value x; rotate_left; unfold x)
    | (intro x; refine same_cut_ab (w := pts) (s0 := st0) x ?_ ?_; rotate_left; intro hfun; clear_value x; rotate_left; unfold x)
    | (intro x; refine same_cut_abc (w := pts) (s0 := st0) x ?_ ?_; rotate_left; intro hfun; clear_value x; rotate_left; unfold x)
    | (intro x; refine same_cut_o1 (w := pts) (s0 := st0) x ?_ ?_; rotate_left; intro hopt; clear_value x; rotate_left; unfold x)
    | (intro x; refine same_cut_o (w := pts) (s0 := st0) x ?_ ?_; rotate_left; intro hopt; clear_value x; rotate_left; unfold x)
    | (intro x; refine same_cut_fst (w := pts) (s0 := st0) x ?_ ?_; rotate_left; intro _; clear_value x; rotate_left; unfold x)
    | (intro x; refine same_cut_snd (w := pts) (s0 := st0) x ?_ ?_; rotate_left; intro _; clear_value x; rotate_left; unfold x)
    | (intro x; clear_value x)
    | (with_reducible apply forAll_same)
    | (with_reducible apply endStream_same)
    | (with_reducible refine hopt _ (by assumption))
    | (with_reducible exact hopt _ rfl)
    | (with_reducible apply hfun)
    | (intro _)
    | split
    | (with_reducible apply AnswerSame.next)
    | (with_reducible apply same_getD)
    | (refine same_mk hs ?_; intro p hp; cases p <;> first | exact rfl | exact absurd (by assumption) hp)
    | (refine same_mk (by assumption) ?_; intro p hp; cases p <;> first | exact rfl | exact absurd (by assumption) hp)
    | (dsimp only)
    | (rename_i he; split at he)
    | (rename_i he; injection he with he; subst he)

theorem qpFail_same {pts : List Part} {st0 : State} (q st : Nat) (s : State) (hs : Agrees pts st0 s) (mevents : Part.events ∈ pts) (meth : Part.eth ∈ pts) (mroods : Part.roods ∈ pts) (mdescs : Part.descs ∈ pts) (mstks : Part.stks ∈ pts) (mstreams : Part.streams ∈ pts) (mslots : Part.slots ∈ pts) (mrequests : Part.requests ∈ pts) : Agrees pts st0 (qpFail q st s) := by
  delta qpFail
  repeat' first
    | (with_reducible assumption)
    | (with_reducible rfl)
    | (with_reducible refine fun _ => ?_)
    | lift_lets
    | (intro x; refine same_cut (w := pts) (s0 := st0) x ?_ ?_; rotate_left; intro _; clear_value x; rotate_left; unfold x)
    | (intro x; refine same_cut_ss (w := pts) (s0 := st0) x ?_ ?_; rotate_left; intro hfun; clear_value x; rotate_left; unfold x)
    | (intro x; refine same_cut_ass (w := pts) (s0 := st0) x ?_ ?_; rotate_left; intro hfun; clear_value x; rotate_left; unfold x)
    | (intro x; refine same_cut_abss (w := pts) (s0 := st0) x ?_ ?_; rotate_left; intro hfun; clear_value x; rotate_left; unfold x)
    | (intro x; refine same_cut_a (w := pts) (s0 := st0) x ?_ ?_; rotate_left; intro hfun; clear_value x; rotate_left; unfold x)
    | (intro x; refine same_cut_ab (w := pts) (s0 := st0) x ?_ ?_; rotate_left; intro hfun; clear_value x; rotate_left; unfold x)
    | (intro x; refine same_cut_abc (w := pts) (s0 := st0) x ?_ ?_; rotate_left; intro hfun; clear_value x; rotate_left; unfold x)
    | (intro x; refine same_cut_o1 (w := pts) (s0 := st0) x ?_ ?_; rotate_left; intro hopt; clear_value x; rotate_left; unfold x)
    | (intro x; refine same_cut_o (w := pts) (s0 := st0) x ?_ ?_; rotate_left; intro hopt; clear_value x; rotate_left; unfold x)
    | (intro x; refine same_cut_fst (w := pts) (s0 := st0) x ?_ ?_; rotate_left; intro _; clear_value x; rotate_left; unfold x)
    | (intro x; refine same_cut_snd (w := pts) (s0 := st0) x ?_ ?_; rotate_left; intro _; clear_value x; rotate_left; unfold x)
    | (intro x; clear_value x)
    | (with_reducible apply qpError_same)
    | (with_reducible apply storeLost_same)
    | (with_reducible refine hopt _ (by assumption))
    | (with_reducible exact hopt _ rfl)
    | (with_reducible apply hfun)
    | (intro _)
    | split
    | (with_reducible apply AnswerSame.next)
    | (with_reducible apply same_getD)
    | (refine same_mk hs ?_; intro p hp; cases p <;> first | exact rfl | exact absurd (by assumption) hp)
    | (refine same_mk (by assumption) ?_; intro p hp; cases p <;> first | exact rfl | exact absurd (by assumption) hp)
    | (dsimp only)
    | (rename_i he; split at he)
    | (rename_i he; injection he with he; subst he)

theorem ifDown_same {pts : List Part} {st0 : State} (i : Nat) (s : State) (hs : Agrees pts st0 s) (mevents : Part.events ∈ pts) (meth : Part.eth ∈ pts) (mroods : Part.roods ∈ pts) (mdescs : Part.descs ∈ pts) (mstks : Part.stks ∈ pts) (mstreams : Part.streams ∈ pts) (mslots : Part.slots ∈ pts) (mrequests : Part.requests ∈ pts) : Agrees pts st0 (ifDown i s) := by
  delta ifDown
  repeat' first
    | (with_reducible assumption)
    | (with_reducible refine fun _ => ?_)
    | lift_lets
    | (intro x; refine same_cut (w := pts) (s0 := st0) x ?_ ?_; rotate_left; intro _; clear_value x; rotate_left; unfold x)
    | (with_reducible apply forAll_same)
    | (with_reducible apply raiseEth_same)
    | (with_reducible apply logEth_same)
    | (with_reducible apply modIf_same)
    | (with_reducible apply qpFail_same)
    | split

theorem failStores_same {pts : List Part} {st0 : State} (s : State) (hs : Agrees pts st0 s) (mdescs : Part.descs ∈ pts) (mstreams : Part.streams ∈ pts) : Agrees pts st0 (failStores s) := by
  delta failStores
  repeat' first
    | (with_reducible assumption)
    | (with_reducible rfl)
    | (with_reducible refine fun _ => ?_)
    | lift_lets
    | (intro x; refine same_cut (w := pts) (s0 := st0) x ?_ ?_; rotate_left; intro _; clear_value x; rotate_left; unfold x)
    | (intro x; refine same_cut_ss (w := pts) (s0 := st0) x ?_ ?_; rotate_left; intro hfun; clear_value x; rotate_left; unfold x)
    | (intro x; refine same_cut_ass (w := pts) (s0 := st0) x ?_ ?_; rotate_left; intro hfun; clear_value x; rotate_left; unfold x)
    | (intro x; refine same_cut_abss (w := pts) (s0 := st0) x ?_ ?_; rotate_left; intro hfun; clear_value x; rotate_left; unfold x)
    | (intro x; refine same_cut_a (w := pts) (s0 := st0) x ?_ ?_; rotate_left; intro hfun; clear_value x; rotate_left; unfold x)
    | (intro x; refine same_cut_ab (w := pts) (s0 := st0) x ?_ ?_; rotate_left; intro hfun; clear_value x; rotate_left; unfold x)
    | (intro x; refine same_cut_abc (w := pts) (s0 := st0) x ?_ ?_; rotate_left; intro hfun; clear_value x; rotate_left; unfold x)
    | (intro x; refine same_cut_o1 (w := pts) (s0 := st0) x ?_ ?_; rotate_left; intro hopt; clear_value x; rotate_left; unfold x)
    | (intro x; refine same_cut_o (w := pts) (s0 := st0) x ?_ ?_; rotate_left; intro hopt; clear_value x; rotate_left; unfold x)
    | (intro x; refine same_cut_fst (w := pts) (s0 := st0) x ?_ ?_; rotate_left; intro _; clear_value x; rotate_left; unfold x)
    | (intro x; refine same_cut_snd (w := pts) (s0 := st0) x ?_ ?_; rotate_left; intro _; clear_value x; rotate_left; unfold x)
    | (intro x; clear_value x)
    | (with_reducible apply forAll_same)
    | (with_reducible apply storeLost_same)
    | (with_reducible refine hopt _ (by assumption))
    | (with_reducible exact hopt _ rfl)
    | (with_reducible apply hfun)
    | (intro _)
    | split
    | (with_reducible apply AnswerSame.next)
    | (with_reducible apply same_getD)
    | (refine same_mk hs ?_; intro p hp; cases p <;> first | exact rfl | exact absurd (by assumption) hp)
    | (refine same_mk (by assumption) ?_; intro p hp; cases p <;> first | exact rfl | exact absurd (by assumption) hp)
    | (dsimp only)
    | (rename_i he; split at he)
    | (rename_i he; injection he with he; subst he)

theorem violates_same {pts : List Part} {st0 : State} (row iface ip rood : Nat) (s : State) (hs : Agrees pts st0 s) (mevents : Part.events ∈ pts) (meth : Part.eth ∈ pts) (mroods : Part.roods ∈ pts) (mdescs : Part.descs ∈ pts) (mstks : Part.stks ∈ pts) (mstreams : Part.streams ∈ pts) (mslots : Part.slots ∈ pts) (mrequests : Part.requests ∈ pts) (mfreeCtr : Part.freeCtr ∈ pts) : Agrees pts st0 (violates row iface ip rood s) := by
  delta violates
  repeat' first
    | (with_reducible assumption)
    | lift_lets
    | (with_reducible apply violation_same)
    | (with_reducible apply failStores_same)

theorem nakAndFail_same {pts : List Part} {st0 : State} (q code row : Nat) (s : State) (hs : Agrees pts st0 s) (mevents : Part.events ∈ pts) (meth : Part.eth ∈ pts) (mroods : Part.roods ∈ pts) (mdescs : Part.descs ∈ pts) (mstks : Part.stks ∈ pts) (mstreams : Part.streams ∈ pts) (mslots : Part.slots ∈ pts) (mrequests : Part.requests ∈ pts) (mfreeCtr : Part.freeCtr ∈ pts) : Agrees pts st0 (nakAndFail q code row s) := by
  delta nakAndFail
  repeat' first
    | (with_reducible assumption)
    | lift_lets
    | (with_reducible apply nakQp_same)
    | (with_reducible apply failStores_same)

theorem lateArrival_same {pts : List Part} {st0 : State} (i : Nat) (a : Sa) (s : State) (hs : Agrees pts st0 s) (mevents : Part.events ∈ pts) (meth : Part.eth ∈ pts) : Agrees pts st0 (lateArrival i a s) := by
  delta lateArrival
  repeat' first
    | (with_reducible assumption)
    | lift_lets
    | (intro x; refine same_cut (w := pts) (s0 := st0) x ?_ ?_; rotate_left; intro _; clear_value x; rotate_left; unfold x)
    | (with_reducible apply modEth_same)
    | (with_reducible apply raiseEth_same)
    | (with_reducible apply logEth_same)
    | split

theorem congested_same {pts : List Part} {st0 : State} (q : Nat) (k : Qp) (s : State) (hs : Agrees pts st0 s) (meth : Part.eth ∈ pts) : Agrees pts st0 (congested q k s) := by
  delta congested
  repeat' first
    | (with_reducible assumption)
    | (with_reducible rfl)
    | (with_reducible refine fun _ => ?_)
    | lift_lets
    | (intro x; refine same_cut (w := pts) (s0 := st0) x ?_ ?_; rotate_left; intro _; clear_value x; rotate_left; unfold x)
    | (intro x; refine same_cut_ss (w := pts) (s0 := st0) x ?_ ?_; rotate_left; intro hfun; clear_value x; rotate_left; unfold x)
    | (intro x; refine same_cut_ass (w := pts) (s0 := st0) x ?_ ?_; rotate_left; intro hfun; clear_value x; rotate_left; unfold x)
    | (intro x; refine same_cut_abss (w := pts) (s0 := st0) x ?_ ?_; rotate_left; intro hfun; clear_value x; rotate_left; unfold x)
    | (intro x; refine same_cut_a (w := pts) (s0 := st0) x ?_ ?_; rotate_left; intro hfun; clear_value x; rotate_left; unfold x)
    | (intro x; refine same_cut_ab (w := pts) (s0 := st0) x ?_ ?_; rotate_left; intro hfun; clear_value x; rotate_left; unfold x)
    | (intro x; refine same_cut_abc (w := pts) (s0 := st0) x ?_ ?_; rotate_left; intro hfun; clear_value x; rotate_left; unfold x)
    | (intro x; refine same_cut_o1 (w := pts) (s0 := st0) x ?_ ?_; rotate_left; intro hopt; clear_value x; rotate_left; unfold x)
    | (intro x; refine same_cut_o (w := pts) (s0 := st0) x ?_ ?_; rotate_left; intro hopt; clear_value x; rotate_left; unfold x)
    | (intro x; refine same_cut_fst (w := pts) (s0 := st0) x ?_ ?_; rotate_left; intro _; clear_value x; rotate_left; unfold x)
    | (intro x; refine same_cut_snd (w := pts) (s0 := st0) x ?_ ?_; rotate_left; intro _; clear_value x; rotate_left; unfold x)
    | (intro x; clear_value x)
    | (with_reducible apply modQp_same)
    | (with_reducible apply modEth_same)
    | (with_reducible apply qpSend_same)
    | (with_reducible refine hopt _ (by assumption))
    | (with_reducible exact hopt _ rfl)
    | (with_reducible apply hfun)
    | (intro _)
    | split
    | (with_reducible apply AnswerSame.next)
    | (with_reducible apply same_getD)
    | (refine same_mk hs ?_; intro p hp; cases p <;> first | exact rfl | exact absurd (by assumption) hp)
    | (refine same_mk (by assumption) ?_; intro p hp; cases p <;> first | exact rfl | exact absurd (by assumption) hp)
    | (dsimp only)
    | (rename_i he; split at he)
    | (rename_i he; injection he with he; subst he)

theorem takeRequest_same {pts : List Part} {st0 : State} (q : Nat) (p : EspPacket) (s : State) (hs : Agrees pts st0 s) (meth : Part.eth ∈ pts) : Agrees pts st0 (takeRequest q p s) := by
  delta takeRequest
  repeat' first
    | (with_reducible assumption)
    | (with_reducible rfl)
    | (with_reducible refine fun _ => ?_)
    | lift_lets
    | (intro x; refine same_cut (w := pts) (s0 := st0) x ?_ ?_; rotate_left; intro _; clear_value x; rotate_left; unfold x)
    | (intro x; refine same_cut_ss (w := pts) (s0 := st0) x ?_ ?_; rotate_left; intro hfun; clear_value x; rotate_left; unfold x)
    | (intro x; refine same_cut_ass (w := pts) (s0 := st0) x ?_ ?_; rotate_left; intro hfun; clear_value x; rotate_left; unfold x)
    | (intro x; refine same_cut_abss (w := pts) (s0 := st0) x ?_ ?_; rotate_left; intro hfun; clear_value x; rotate_left; unfold x)
    | (intro x; refine same_cut_a (w := pts) (s0 := st0) x ?_ ?_; rotate_left; intro hfun; clear_value x; rotate_left; unfold x)
    | (intro x; refine same_cut_ab (w := pts) (s0 := st0) x ?_ ?_; rotate_left; intro hfun; clear_value x; rotate_left; unfold x)
    | (intro x; refine same_cut_abc (w := pts) (s0 := st0) x ?_ ?_; rotate_left; intro hfun; clear_value x; rotate_left; unfold x)
    | (intro x; refine same_cut_o1 (w := pts) (s0 := st0) x ?_ ?_; rotate_left; intro hopt; clear_value x; rotate_left; unfold x)
    | (intro x; refine same_cut_o (w := pts) (s0 := st0) x ?_ ?_; rotate_left; intro hopt; clear_value x; rotate_left; unfold x)
    | (intro x; refine same_cut_fst (w := pts) (s0 := st0) x ?_ ?_; rotate_left; intro _; clear_value x; rotate_left; unfold x)
    | (intro x; refine same_cut_snd (w := pts) (s0 := st0) x ?_ ?_; rotate_left; intro _; clear_value x; rotate_left; unfold x)
    | (intro x; clear_value x)
    | (with_reducible apply modQp_same)
    | (with_reducible apply qpSend_same)
    | (with_reducible refine hopt _ (by assumption))
    | (with_reducible exact hopt _ rfl)
    | (with_reducible apply hfun)
    | (intro _)
    | split
    | (with_reducible apply AnswerSame.next)
    | (with_reducible apply same_getD)
    | (refine same_mk hs ?_; intro p hp; cases p <;> first | exact rfl | exact absurd (by assumption) hp)
    | (refine same_mk (by assumption) ?_; intro p hp; cases p <;> first | exact rfl | exact absurd (by assumption) hp)
    | (dsimp only)
    | (rename_i he; split at he)
    | (rename_i he; injection he with he; subst he)

theorem requestPacket_same {pts : List Part} {st0 : State} (q : Nat) (k : Qp) (p : EspPacket) (s : State) (hs : Agrees pts st0 s) (mevents : Part.events ∈ pts) (meth : Part.eth ∈ pts) (mroods : Part.roods ∈ pts) (mdescs : Part.descs ∈ pts) (mstks : Part.stks ∈ pts) (mstreams : Part.streams ∈ pts) (mslots : Part.slots ∈ pts) (mrequests : Part.requests ∈ pts) (mfreeCtr : Part.freeCtr ∈ pts) : Agrees pts st0 (requestPacket q k p s) := by
  delta requestPacket
  repeat' first
    | (with_reducible assumption)
    | (with_reducible rfl)
    | (with_reducible refine fun _ => ?_)
    | lift_lets
    | (intro x; refine same_cut (w := pts) (s0 := st0) x ?_ ?_; rotate_left; intro _; clear_value x; rotate_left; unfold x)
    | (intro x; refine same_cut_ss (w := pts) (s0 := st0) x ?_ ?_; rotate_left; intro hfun; clear_value x; rotate_left; unfold x)
    | (intro x; refine same_cut_ass (w := pts) (s0 := st0) x ?_ ?_; rotate_left; intro hfun; clear_value x; rotate_left; unfold x)
    | (intro x; refine same_cut_abss (w := pts) (s0 := st0) x ?_ ?_; rotate_left; intro hfun; clear_value x; rotate_left; unfold x)
    | (intro x; refine same_cut_a (w := pts) (s0 := st0) x ?_ ?_; rotate_left; intro hfun; clear_value x; rotate_left; unfold x)
    | (intro x; refine same_cut_ab (w := pts) (s0 := st0) x ?_ ?_; rotate_left; intro hfun; clear_value x; rotate_left; unfold x)
    | (intro x; refine same_cut_abc (w := pts) (s0 := st0) x ?_ ?_; rotate_left; intro hfun; clear_value x; rotate_left; unfold x)
    | (intro x; refine same_cut_o1 (w := pts) (s0 := st0) x ?_ ?_; rotate_left; intro hopt; clear_value x; rotate_left; unfold x)
    | (intro x; refine same_cut_o (w := pts) (s0 := st0) x ?_ ?_; rotate_left; intro hopt; clear_value x; rotate_left; unfold x)
    | (intro x; refine same_cut_fst (w := pts) (s0 := st0) x ?_ ?_; rotate_left; intro _; clear_value x; rotate_left; unfold x)
    | (intro x; refine same_cut_snd (w := pts) (s0 := st0) x ?_ ?_; rotate_left; intro _; clear_value x; rotate_left; unfold x)
    | (intro x; clear_value x)
    | (with_reducible apply qpSend_same)
    | (with_reducible apply nakAndFail_same)
    | (with_reducible apply takeRequest_same)
    | (with_reducible refine hopt _ (by assumption))
    | (with_reducible exact hopt _ rfl)
    | (with_reducible apply hfun)
    | (intro _)
    | split
    | (with_reducible apply AnswerSame.next)
    | (with_reducible apply same_getD)
    | (refine same_mk hs ?_; intro p hp; cases p <;> first | exact rfl | exact absurd (by assumption) hp)
    | (refine same_mk (by assumption) ?_; intro p hp; cases p <;> first | exact rfl | exact absurd (by assumption) hp)
    | (dsimp only)
    | (rename_i he; split at he)
    | (rename_i he; injection he with he; subst he)

theorem deliver_same {pts : List Part} {st0 : State} (p : EspPacket) (i : Nat) (a : Sa) (s : State) (hs : Agrees pts st0 s) (mevents : Part.events ∈ pts) (meth : Part.eth ∈ pts) (mroods : Part.roods ∈ pts) (mdescs : Part.descs ∈ pts) (mstks : Part.stks ∈ pts) (mstreams : Part.streams ∈ pts) (mslots : Part.slots ∈ pts) (mrequests : Part.requests ∈ pts) (mfreeCtr : Part.freeCtr ∈ pts) : Agrees pts st0 (deliver p i a s) := by
  delta deliver
  repeat' first
    | (with_reducible assumption)
    | (with_reducible rfl)
    | (with_reducible refine fun _ => ?_)
    | lift_lets
    | (intro x; refine same_cut (w := pts) (s0 := st0) x ?_ ?_; rotate_left; intro _; clear_value x; rotate_left; unfold x)
    | (intro x; refine same_cut_ss (w := pts) (s0 := st0) x ?_ ?_; rotate_left; intro hfun; clear_value x; rotate_left; unfold x)
    | (intro x; refine same_cut_ass (w := pts) (s0 := st0) x ?_ ?_; rotate_left; intro hfun; clear_value x; rotate_left; unfold x)
    | (intro x; refine same_cut_abss (w := pts) (s0 := st0) x ?_ ?_; rotate_left; intro hfun; clear_value x; rotate_left; unfold x)
    | (intro x; refine same_cut_a (w := pts) (s0 := st0) x ?_ ?_; rotate_left; intro hfun; clear_value x; rotate_left; unfold x)
    | (intro x; refine same_cut_ab (w := pts) (s0 := st0) x ?_ ?_; rotate_left; intro hfun; clear_value x; rotate_left; unfold x)
    | (intro x; refine same_cut_abc (w := pts) (s0 := st0) x ?_ ?_; rotate_left; intro hfun; clear_value x; rotate_left; unfold x)
    | (intro x; refine same_cut_o1 (w := pts) (s0 := st0) x ?_ ?_; rotate_left; intro hopt; clear_value x; rotate_left; unfold x)
    | (intro x; refine same_cut_o (w := pts) (s0 := st0) x ?_ ?_; rotate_left; intro hopt; clear_value x; rotate_left; unfold x)
    | (intro x; refine same_cut_fst (w := pts) (s0 := st0) x ?_ ?_; rotate_left; intro _; clear_value x; rotate_left; unfold x)
    | (intro x; refine same_cut_snd (w := pts) (s0 := st0) x ?_ ?_; rotate_left; intro _; clear_value x; rotate_left; unfold x)
    | (intro x; clear_value x)
    | (with_reducible apply violates_same)
    | (with_reducible apply nakAndFail_same)
    | (with_reducible apply congested_same)
    | (with_reducible apply requestPacket_same)
    | (with_reducible refine hopt _ (by assumption))
    | (with_reducible exact hopt _ rfl)
    | (with_reducible apply hfun)
    | (intro _)
    | split
    | (with_reducible apply AnswerSame.next)
    | (with_reducible apply same_getD)
    | (refine same_mk hs ?_; intro p hp; cases p <;> first | exact rfl | exact absurd (by assumption) hp)
    | (refine same_mk (by assumption) ?_; intro p hp; cases p <;> first | exact rfl | exact absurd (by assumption) hp)
    | (dsimp only)
    | (rename_i he; split at he)
    | (rename_i he; injection he with he; subst he)

theorem countRx_same {pts : List Part} {st0 : State} (i n : Nat) (s : State) (hs : Agrees pts st0 s) (meth : Part.eth ∈ pts) : Agrees pts st0 (countRx i n s) := by
  delta countRx
  repeat' first
    | (with_reducible assumption)
    | (with_reducible apply modIf_same)

theorem receivePacket_same {pts : List Part} {st0 : State} (p : EspPacket) (s : State) (hs : Agrees pts st0 s) (mevents : Part.events ∈ pts) (meth : Part.eth ∈ pts) (mroods : Part.roods ∈ pts) (mdescs : Part.descs ∈ pts) (mstks : Part.stks ∈ pts) (mstreams : Part.streams ∈ pts) (mslots : Part.slots ∈ pts) (mrequests : Part.requests ∈ pts) (mfreeCtr : Part.freeCtr ∈ pts) : Agrees pts st0 (receivePacket p s) := by
  delta receivePacket
  repeat' first
    | (with_reducible assumption)
    | (with_reducible rfl)
    | (with_reducible refine fun _ => ?_)
    | lift_lets
    | (intro x; refine same_cut (w := pts) (s0 := st0) x ?_ ?_; rotate_left; intro _; clear_value x; rotate_left; unfold x)
    | (intro x; refine same_cut_ss (w := pts) (s0 := st0) x ?_ ?_; rotate_left; intro hfun; clear_value x; rotate_left; unfold x)
    | (intro x; refine same_cut_ass (w := pts) (s0 := st0) x ?_ ?_; rotate_left; intro hfun; clear_value x; rotate_left; unfold x)
    | (intro x; refine same_cut_abss (w := pts) (s0 := st0) x ?_ ?_; rotate_left; intro hfun; clear_value x; rotate_left; unfold x)
    | (intro x; refine same_cut_a (w := pts) (s0 := st0) x ?_ ?_; rotate_left; intro hfun; clear_value x; rotate_left; unfold x)
    | (intro x; refine same_cut_ab (w := pts) (s0 := st0) x ?_ ?_; rotate_left; intro hfun; clear_value x; rotate_left; unfold x)
    | (intro x; refine same_cut_abc (w := pts) (s0 := st0) x ?_ ?_; rotate_left; intro hfun; clear_value x; rotate_left; unfold x)
    | (intro x; refine same_cut_o1 (w := pts) (s0 := st0) x ?_ ?_; rotate_left; intro hopt; clear_value x; rotate_left; unfold x)
    | (intro x; refine same_cut_o (w := pts) (s0 := st0) x ?_ ?_; rotate_left; intro hopt; clear_value x; rotate_left; unfold x)
    | (intro x; refine same_cut_fst (w := pts) (s0 := st0) x ?_ ?_; rotate_left; intro _; clear_value x; rotate_left; unfold x)
    | (intro x; refine same_cut_snd (w := pts) (s0 := st0) x ?_ ?_; rotate_left; intro _; clear_value x; rotate_left; unfold x)
    | (intro x; clear_value x)
    | (with_reducible apply modEth_same)
    | (with_reducible apply raiseEth_same)
    | (with_reducible apply violates_same)
    | (with_reducible apply lateArrival_same)
    | (with_reducible apply deliver_same)
    | (with_reducible apply countRx_same)
    | (with_reducible refine hopt _ (by assumption))
    | (with_reducible exact hopt _ rfl)
    | (with_reducible apply hfun)
    | (intro _)
    | split
    | (with_reducible apply AnswerSame.next)
    | (with_reducible apply same_getD)
    | (refine same_mk hs ?_; intro p hp; cases p <;> first | exact rfl | exact absurd (by assumption) hp)
    | (refine same_mk (by assumption) ?_; intro p hp; cases p <;> first | exact rfl | exact absurd (by assumption) hp)
    | (dsimp only)
    | (rename_i he; split at he)
    | (rename_i he; injection he with he; subst he)

theorem endQuarantine_same {pts : List Part} {st0 : State} (iface ip : Nat) (s : State) (hs : Agrees pts st0 s) (mevents : Part.events ∈ pts) (meth : Part.eth ∈ pts) : Agrees pts st0 (endQuarantine iface ip s) := by
  delta endQuarantine
  repeat' first
    | (with_reducible assumption)
    | lift_lets
    | (with_reducible apply modEth_same)
    | (with_reducible apply logEth_same)
    | split

theorem placeRdma_same {pts : List Part} {st0 : State} (q : Nat) (k : Qp) (addr rkey : Nat) (data : List Byte) (s : State) (hs : Agrees pts st0 s) (mevents : Part.events ∈ pts) (meth : Part.eth ∈ pts) (mroods : Part.roods ∈ pts) (mdescs : Part.descs ∈ pts) (mstks : Part.stks ∈ pts) (mstreams : Part.streams ∈ pts) (mslots : Part.slots ∈ pts) (mrequests : Part.requests ∈ pts) (mmem : Part.mem ∈ pts) (mfreeCtr : Part.freeCtr ∈ pts) :
    Agrees pts st0 (placeRdma q k addr rkey data s).2 ∧ ∀ p, (placeRdma q k addr rkey data s).1 = some p → Agrees pts st0 p.2 := by
  have h := hs
  unfold placeRdma
  dsimp only
  split
  · exact ⟨nakAndFail_same _ _ _ _ h (by assumption) (by assumption) (by assumption) (by assumption) (by assumption) (by assumption) (by assumption) (by assumption) (by assumption), fun p e => by cases e⟩
  · split
    · exact ⟨h, fun p e => by cases e; exact wrBytes_same _ _ _ h (by assumption)⟩
    · exact ⟨nakAndFail_same _ _ _ _ (logRefused_same _ _ _ _ h (by assumption) (by assumption)) (by assumption) (by assumption) (by assumption) (by assumption) (by assumption) (by assumption) (by assumption) (by assumption) (by assumption), fun p e => by cases e⟩

theorem placeRdma_same_eq {pts : List Part} {st0 : State} (q : Nat) (k : Qp) (addr rkey : Nat) (data : List Byte) (s : State) {t : State}
    {o : Option (Exposed × State)} (hs : Agrees pts st0 s) (mevents : Part.events ∈ pts) (meth : Part.eth ∈ pts) (mroods : Part.roods ∈ pts) (mdescs : Part.descs ∈ pts) (mstks : Part.stks ∈ pts) (mstreams : Part.streams ∈ pts) (mslots : Part.slots ∈ pts) (mrequests : Part.requests ∈ pts) (mmem : Part.mem ∈ pts) (mfreeCtr : Part.freeCtr ∈ pts) (e : placeRdma q k addr rkey data s = (o, t)) : Agrees pts st0 t := by
  have := (placeRdma_same q k addr rkey data s hs (by assumption) (by assumption) (by assumption) (by assumption) (by assumption) (by assumption) (by assumption) (by assumption) (by assumption) (by assumption)).1
  rw [e] at this; exact this

theorem placeRdma_same_some {pts : List Part} {st0 : State} (q : Nat) (k : Qp) (addr rkey : Nat) (data : List Byte) (s : State) {t u : State}
    {x : Exposed} (hs : Agrees pts st0 s) (mevents : Part.events ∈ pts) (meth : Part.eth ∈ pts) (mroods : Part.roods ∈ pts) (mdescs : Part.descs ∈ pts) (mstks : Part.stks ∈ pts) (mstreams : Part.streams ∈ pts) (mslots : Part.slots ∈ pts) (mrequests : Part.requests ∈ pts) (mmem : Part.mem ∈ pts) (mfreeCtr : Part.freeCtr ∈ pts) (e : placeRdma q k addr rkey data s = (some (x, t), u)) : Agrees pts st0 t := by
  have := (placeRdma_same q k addr rkey data s hs (by assumption) (by assumption) (by assumption) (by assumption) (by assumption) (by assumption) (by assumption) (by assumption) (by assumption) (by assumption)).2 (x, t) (by rw [e])
  exact this

theorem rdmaWrite_same {pts : List Part} {st0 : State} (q addr rkey : Nat) (data : List Byte) (s : State) (hs : Agrees pts st0 s) (mevents : Part.events ∈ pts) (meth : Part.eth ∈ pts) (mroods : Part.roods ∈ pts) (mdescs : Part.descs ∈ pts) (mstks : Part.stks ∈ pts) (mstreams : Part.streams ∈ pts) (mslots : Part.slots ∈ pts) (mrequests : Part.requests ∈ pts) (mmem : Part.mem ∈ pts) (mfreeCtr : Part.freeCtr ∈ pts) : Agrees pts st0 (rdmaWrite q addr rkey data s) := by
  delta rdmaWrite
  repeat' first
    | (with_reducible assumption)
    | (with_reducible refine placeRdma_same_some _ _ _ _ _ _ ?_ ?_ ?_ ?_ ?_ ?_ ?_ ?_ ?_ ?_ ?_ (by assumption))
    | (with_reducible refine placeRdma_same_eq _ _ _ _ _ _ ?_ ?_ ?_ ?_ ?_ ?_ ?_ ?_ ?_ ?_ ?_ (by assumption))
    | split

theorem rdmaRead_same {pts : List Part} {st0 : State} (q addr rkey len : Nat) (s : State) (hs : Agrees pts st0 s) (mevents : Part.events ∈ pts) (meth : Part.eth ∈ pts) (mroods : Part.roods ∈ pts) (mdescs : Part.descs ∈ pts) (mstks : Part.stks ∈ pts) (mstreams : Part.streams ∈ pts) (mslots : Part.slots ∈ pts) (mrequests : Part.requests ∈ pts) (mfreeCtr : Part.freeCtr ∈ pts) : Agrees pts st0 (rdmaRead q addr rkey len s) := by
  delta rdmaRead
  repeat' first
    | (with_reducible assumption)
    | (with_reducible rfl)
    | (with_reducible refine fun _ => ?_)
    | lift_lets
    | (intro x; refine same_cut (w := pts) (s0 := st0) x ?_ ?_; rotate_left; intro _; clear_value x; rotate_left; unfold x)
    | (intro x; refine same_cut_ss (w := pts) (s0 := st0) x ?_ ?_; rotate_left; intro hfun; clear_value x; rotate_left; unfold x)
    | (intro x; refine same_cut_ass (w := pts) (s0 := st0) x ?_ ?_; rotate_left; intro hfun; clear_value x; rotate_left; unfold x)
    | (intro x; refine same_cut_abss (w := pts) (s0 := st0) x ?_ ?_; rotate_left; intro hfun; clear_value x; rotate_left; unfold x)
    | (intro x; refine same_cut_a (w := pts) (s0 := st0) x ?_ ?_; rotate_left; intro hfun; clear_value x; rotate_left; unfold x)
    | (intro x; refine same_cut_ab (w := pts) (s0 := st0) x ?_ ?_; rotate_left; intro hfun; clear_value x; rotate_left; unfold x)
    | (intro x; refine same_cut_abc (w := pts) (s0 := st0) x ?_ ?_; rotate_left; intro hfun; clear_value x; rotate_left; unfold x)
    | (intro x; refine same_cut_o1 (w := pts) (s0 := st0) x ?_ ?_; rotate_left; intro hopt; clear_value x; rotate_left; unfold x)
    | (intro x; refine same_cut_o (w := pts) (s0 := st0) x ?_ ?_; rotate_left; intro hopt; clear_value x; rotate_left; unfold x)
    | (intro x; refine same_cut_fst (w := pts) (s0 := st0) x ?_ ?_; rotate_left; intro _; clear_value x; rotate_left; unfold x)
    | (intro x; refine same_cut_snd (w := pts) (s0 := st0) x ?_ ?_; rotate_left; intro _; clear_value x; rotate_left; unfold x)
    | (intro x; clear_value x)
    | (with_reducible apply modQp_same)
    | (with_reducible apply qpSend_same)
    | (with_reducible apply nakAndFail_same)
    | (with_reducible refine hopt _ (by assumption))
    | (with_reducible exact hopt _ rfl)
    | (with_reducible apply hfun)
    | (intro _)
    | split
    | (with_reducible apply AnswerSame.next)
    | (with_reducible apply same_getD)
    | (refine same_mk hs ?_; intro p hp; cases p <;> first | exact rfl | exact absurd (by assumption) hp)
    | (refine same_mk (by assumption) ?_; intro p hp; cases p <;> first | exact rfl | exact absurd (by assumption) hp)
    | (dsimp only)
    | (rename_i he; split at he)
    | (rename_i he; injection he with he; subst he)

theorem ringDoorbell_same {pts : List Part} {st0 : State} (q imm addr rkey : Nat) (data : List Byte) (s : State) (hs : Agrees pts st0 s) (mevents : Part.events ∈ pts) (meth : Part.eth ∈ pts) (mroods : Part.roods ∈ pts) (mqueues : Part.queues ∈ pts) (mdescs : Part.descs ∈ pts) (mstks : Part.stks ∈ pts) (mstreams : Part.streams ∈ pts) (mslots : Part.slots ∈ pts) (mrequests : Part.requests ∈ pts) (mmem : Part.mem ∈ pts) (mfreeCtr : Part.freeCtr ∈ pts) : Agrees pts st0 (ringDoorbell q imm addr rkey data s) := by
  delta ringDoorbell
  repeat' first
    | (with_reducible assumption)
    | lift_lets
    | (intro x; clear_value x)
    | (with_reducible apply modQueue_same)
    | (with_reducible apply violates_same)
    | (with_reducible refine placeRdma_same_some _ _ _ _ _ _ ?_ ?_ ?_ ?_ ?_ ?_ ?_ ?_ ?_ ?_ ?_ (by assumption))
    | (with_reducible refine placeRdma_same_eq _ _ _ _ _ _ ?_ ?_ ?_ ?_ ?_ ?_ ?_ ?_ ?_ ?_ ?_ (by assumption))
    | split

theorem badRegion_same {pts : List Part} {st0 : State} (q : Nat) (m : List Byte) (k : Qp) (s : State) (hs : Agrees pts st0 s) (mevents : Part.events ∈ pts) (meth : Part.eth ∈ pts) (mroods : Part.roods ∈ pts) (mdescs : Part.descs ∈ pts) (mstks : Part.stks ∈ pts) (mstreams : Part.streams ∈ pts) (mslots : Part.slots ∈ pts) (mrequests : Part.requests ∈ pts) (mfreeCtr : Part.freeCtr ∈ pts) : Agrees pts st0 (badRegion q m k s) := by
  delta badRegion
  repeat' first
    | (with_reducible assumption)
    | (with_reducible rfl)
    | (with_reducible refine fun _ => ?_)
    | lift_lets
    | (intro x; refine same_cut (w := pts) (s0 := st0) x ?_ ?_; rotate_left; intro _; clear_value x; rotate_left; unfold x)
    | (intro x; refine same_cut_ss (w := pts) (s0 := st0) x ?_ ?_; rotate_left; intro hfun; clear_value x; rotate_left; unfold x)
    | (intro x; refine same_cut_ass (w := pts) (s0 := st0) x ?_ ?_; rotate_left; intro hfun; clear_value x; rotate_left; unfold x)
    | (intro x; refine same_cut_abss (w := pts) (s0 := st0) x ?_ ?_; rotate_left; intro hfun; clear_value x; rotate_left; unfold x)
    | (intro x; refine same_cut_a (w := pts) (s0 := st0) x ?_ ?_; rotate_left; intro hfun; clear_value x; rotate_left; unfold x)
    | (intro x; refine same_cut_ab (w := pts) (s0 := st0) x ?_ ?_; rotate_left; intro hfun; clear_value x; rotate_left; unfold x)
    | (intro x; refine same_cut_abc (w := pts) (s0 := st0) x ?_ ?_; rotate_left; intro hfun; clear_value x; rotate_left; unfold x)
    | (intro x; refine same_cut_o1 (w := pts) (s0 := st0) x ?_ ?_; rotate_left; intro hopt; clear_value x; rotate_left; unfold x)
    | (intro x; refine same_cut_o (w := pts) (s0 := st0) x ?_ ?_; rotate_left; intro hopt; clear_value x; rotate_left; unfold x)
    | (intro x; refine same_cut_fst (w := pts) (s0 := st0) x ?_ ?_; rotate_left; intro _; clear_value x; rotate_left; unfold x)
    | (intro x; refine same_cut_snd (w := pts) (s0 := st0) x ?_ ?_; rotate_left; intro _; clear_value x; rotate_left; unfold x)
    | (intro x; clear_value x)
    | (with_reducible apply regionReply_same)
    | (with_reducible apply violates_same)
    | (with_reducible refine hopt _ (by assumption))
    | (with_reducible exact hopt _ rfl)
    | (with_reducible apply hfun)
    | (intro _)
    | split
    | (with_reducible apply AnswerSame.next)
    | (with_reducible apply same_getD)
    | (refine same_mk hs ?_; intro p hp; cases p <;> first | exact rfl | exact absurd (by assumption) hp)
    | (refine same_mk (by assumption) ?_; intro p hp; cases p <;> first | exact rfl | exact absurd (by assumption) hp)
    | (dsimp only)
    | (rename_i he; split at he)
    | (rename_i he; injection he with he; subst he)

theorem registerRegion_same {pts : List Part} {st0 : State} (q : Nat) (m : List Byte) (s : State) (hs : Agrees pts st0 s) (mevents : Part.events ∈ pts) (meth : Part.eth ∈ pts) (mroods : Part.roods ∈ pts) (mdescs : Part.descs ∈ pts) (mstks : Part.stks ∈ pts) (mstreams : Part.streams ∈ pts) (mslots : Part.slots ∈ pts) (mrequests : Part.requests ∈ pts) (mfreeCtr : Part.freeCtr ∈ pts) : Agrees pts st0 (registerRegion q m s) := by
  delta registerRegion
  repeat' first
    | (with_reducible assumption)
    | (with_reducible rfl)
    | (with_reducible refine fun _ => ?_)
    | lift_lets
    | (intro x; refine same_cut (w := pts) (s0 := st0) x ?_ ?_; rotate_left; intro _; clear_value x; rotate_left; unfold x)
    | (intro x; refine same_cut_ss (w := pts) (s0 := st0) x ?_ ?_; rotate_left; intro hfun; clear_value x; rotate_left; unfold x)
    | (intro x; refine same_cut_ass (w := pts) (s0 := st0) x ?_ ?_; rotate_left; intro hfun; clear_value x; rotate_left; unfold x)
    | (intro x; refine same_cut_abss (w := pts) (s0 := st0) x ?_ ?_; rotate_left; intro hfun; clear_value x; rotate_left; unfold x)
    | (intro x; refine same_cut_a (w := pts) (s0 := st0) x ?_ ?_; rotate_left; intro hfun; clear_value x; rotate_left; unfold x)
    | (intro x; refine same_cut_ab (w := pts) (s0 := st0) x ?_ ?_; rotate_left; intro hfun; clear_value x; rotate_left; unfold x)
    | (intro x; refine same_cut_abc (w := pts) (s0 := st0) x ?_ ?_; rotate_left; intro hfun; clear_value x; rotate_left; unfold x)
    | (intro x; refine same_cut_o1 (w := pts) (s0 := st0) x ?_ ?_; rotate_left; intro hopt; clear_value x; rotate_left; unfold x)
    | (intro x; refine same_cut_o (w := pts) (s0 := st0) x ?_ ?_; rotate_left; intro hopt; clear_value x; rotate_left; unfold x)
    | (intro x; refine same_cut_fst (w := pts) (s0 := st0) x ?_ ?_; rotate_left; intro _; clear_value x; rotate_left; unfold x)
    | (intro x; refine same_cut_snd (w := pts) (s0 := st0) x ?_ ?_; rotate_left; intro _; clear_value x; rotate_left; unfold x)
    | (intro x; clear_value x)
    | (with_reducible apply modQp_same)
    | (with_reducible apply regionReply_same)
    | (with_reducible apply badRegion_same)
    | (with_reducible refine hopt _ (by assumption))
    | (with_reducible exact hopt _ rfl)
    | (with_reducible apply hfun)
    | (intro _)
    | split
    | (with_reducible apply AnswerSame.next)
    | (with_reducible apply same_getD)
    | (refine same_mk hs ?_; intro p hp; cases p <;> first | exact rfl | exact absurd (by assumption) hp)
    | (refine same_mk (by assumption) ?_; intro p hp; cases p <;> first | exact rfl | exact absurd (by assumption) hp)
    | (dsimp only)
    | (rename_i he; split at he)
    | (rename_i he; injection he with he; subst he)

theorem deregisterRegion_same {pts : List Part} {st0 : State} (q : Nat) (m : List Byte) (s : State) (hs : Agrees pts st0 s) (mevents : Part.events ∈ pts) (meth : Part.eth ∈ pts) (mroods : Part.roods ∈ pts) (mdescs : Part.descs ∈ pts) (mstks : Part.stks ∈ pts) (mstreams : Part.streams ∈ pts) (mslots : Part.slots ∈ pts) (mrequests : Part.requests ∈ pts) (mfreeCtr : Part.freeCtr ∈ pts) : Agrees pts st0 (deregisterRegion q m s) := by
  delta deregisterRegion
  repeat' first
    | (with_reducible assumption)
    | (with_reducible rfl)
    | (with_reducible refine fun _ => ?_)
    | lift_lets
    | (intro x; refine same_cut (w := pts) (s0 := st0) x ?_ ?_; rotate_left; intro _; clear_value x; rotate_left; unfold x)
    | (intro x; refine same_cut_ss (w := pts) (s0 := st0) x ?_ ?_; rotate_left; intro hfun; clear_value x; rotate_left; unfold x)
    | (intro x; refine same_cut_ass (w := pts) (s0 := st0) x ?_ ?_; rotate_left; intro hfun; clear_value x; rotate_left; unfold x)
    | (intro x; refine same_cut_abss (w := pts) (s0 := st0) x ?_ ?_; rotate_left; intro hfun; clear_value x; rotate_left; unfold x)
    | (intro x; refine same_cut_a (w := pts) (s0 := st0) x ?_ ?_; rotate_left; intro hfun; clear_value x; rotate_left; unfold x)
    | (intro x; refine same_cut_ab (w := pts) (s0 := st0) x ?_ ?_; rotate_left; intro hfun; clear_value x; rotate_left; unfold x)
    | (intro x; refine same_cut_abc (w := pts) (s0 := st0) x ?_ ?_; rotate_left; intro hfun; clear_value x; rotate_left; unfold x)
    | (intro x; refine same_cut_o1 (w := pts) (s0 := st0) x ?_ ?_; rotate_left; intro hopt; clear_value x; rotate_left; unfold x)
    | (intro x; refine same_cut_o (w := pts) (s0 := st0) x ?_ ?_; rotate_left; intro hopt; clear_value x; rotate_left; unfold x)
    | (intro x; refine same_cut_fst (w := pts) (s0 := st0) x ?_ ?_; rotate_left; intro _; clear_value x; rotate_left; unfold x)
    | (intro x; refine same_cut_snd (w := pts) (s0 := st0) x ?_ ?_; rotate_left; intro _; clear_value x; rotate_left; unfold x)
    | (intro x; clear_value x)
    | (with_reducible apply modQp_same)
    | (with_reducible apply regionReply_same)
    | (with_reducible apply badRegion_same)
    | (with_reducible refine hopt _ (by assumption))
    | (with_reducible exact hopt _ rfl)
    | (with_reducible apply hfun)
    | (intro _)
    | split
    | (with_reducible apply AnswerSame.next)
    | (with_reducible apply same_getD)
    | (refine same_mk hs ?_; intro p hp; cases p <;> first | exact rfl | exact absurd (by assumption) hp)
    | (refine same_mk (by assumption) ?_; intro p hp; cases p <;> first | exact rfl | exact absurd (by assumption) hp)
    | (dsimp only)
    | (rename_i he; split at he)
    | (rename_i he; injection he with he; subst he)

theorem takeSeq_same {pts : List Part} {st0 : State} (q : Nat) (s : State) (hs : Agrees pts st0 s) (meth : Part.eth ∈ pts) : Agrees pts st0 (takeSeq q s) := by
  delta takeSeq
  repeat' first
    | (with_reducible assumption)
    | (with_reducible rfl)
    | (with_reducible refine fun _ => ?_)
    | lift_lets
    | (intro x; refine same_cut (w := pts) (s0 := st0) x ?_ ?_; rotate_left; intro _; clear_value x; rotate_left; unfold x)
    | (intro x; refine same_cut_ss (w := pts) (s0 := st0) x ?_ ?_; rotate_left; intro hfun; clear_value x; rotate_left; unfold x)
    | (intro x; refine same_cut_ass (w := pts) (s0 := st0) x ?_ ?_; rotate_left; intro hfun; clear_value x; rotate_left; unfold x)
    | (intro x; refine same_cut_abss (w := pts) (s0 := st0) x ?_ ?_; rotate_left; intro hfun; clear_value x; rotate_left; unfold x)
    | (intro x; refine same_cut_a (w := pts) (s0 := st0) x ?_ ?_; rotate_left; intro hfun; clear_value x; rotate_left; unfold x)
    | (intro x; refine same_cut_ab (w := pts) (s0 := st0) x ?_ ?_; rotate_left; intro hfun; clear_value x; rotate_left; unfold x)
    | (intro x; refine same_cut_abc (w := pts) (s0 := st0) x ?_ ?_; rotate_left; intro hfun; clear_value x; rotate_left; unfold x)
    | (intro x; refine same_cut_o1 (w := pts) (s0 := st0) x ?_ ?_; rotate_left; intro hopt; clear_value x; rotate_left; unfold x)
    | (intro x; refine same_cut_o (w := pts) (s0 := st0) x ?_ ?_; rotate_left; intro hopt; clear_value x; rotate_left; unfold x)
    | (intro x; refine same_cut_fst (w := pts) (s0 := st0) x ?_ ?_; rotate_left; intro _; clear_value x; rotate_left; unfold x)
    | (intro x; refine same_cut_snd (w := pts) (s0 := st0) x ?_ ?_; rotate_left; intro _; clear_value x; rotate_left; unfold x)
    | (intro x; clear_value x)
    | (with_reducible apply modQp_same)
    | (with_reducible refine hopt _ (by assumption))
    | (with_reducible exact hopt _ rfl)
    | (with_reducible apply hfun)
    | (intro _)
    | split
    | (with_reducible apply AnswerSame.next)
    | (with_reducible apply same_getD)
    | (refine same_mk hs ?_; intro p hp; cases p <;> first | exact rfl | exact absurd (by assumption) hp)
    | (refine same_mk (by assumption) ?_; intro p hp; cases p <;> first | exact rfl | exact absurd (by assumption) hp)
    | (dsimp only)
    | (rename_i he; split at he)
    | (rename_i he; injection he with he; subst he)

theorem checkRequest_same {pts : List Part} {st0 : State} (q : Nat) (k : Qp) (a : Nat) (s : State) (hs : Agrees pts st0 s) (mevents : Part.events ∈ pts) (meth : Part.eth ∈ pts) (mroods : Part.roods ∈ pts) (mdescs : Part.descs ∈ pts) (mstks : Part.stks ∈ pts) (mstreams : Part.streams ∈ pts) (mslots : Part.slots ∈ pts) (mrequests : Part.requests ∈ pts) (mnextReq : Part.nextReq ∈ pts) (mfreeCtr : Part.freeCtr ∈ pts) : Agrees pts st0 (checkRequest q k a s) := by
  delta checkRequest
  repeat' first
    | (with_reducible assumption)
    | (with_reducible rfl)
    | (with_reducible refine fun _ => ?_)
    | lift_lets
    | (intro x; refine same_cut (w := pts) (s0 := st0) x ?_ ?_; rotate_left; intro _; clear_value x; rotate_left; unfold x)
    | (intro x; refine same_cut_ss (w := pts) (s0 := st0) x ?_ ?_; rotate_left; intro hfun; clear_value x; rotate_left; unfold x)
    | (intro x; refine same_cut_ass (w := pts) (s0 := st0) x ?_ ?_; rotate_left; intro hfun; clear_value x; rotate_left; unfold x)
    | (intro x; refine same_cut_abss (w := pts) (s0 := st0) x ?_ ?_; rotate_left; intro hfun; clear_value x; rotate_left; unfold x)
    | (intro x; refine same_cut_a (w := pts) (s0 := st0) x ?_ ?_; rotate_left; intro hfun; clear_value x; rotate_left; unfold x)
    | (intro x; refine same_cut_ab (w := pts) (s0 := st0) x ?_ ?_; rotate_left; intro hfun; clear_value x; rotate_left; unfold x)
    | (intro x; refine same_cut_abc (w := pts) (s0 := st0) x ?_ ?_; rotate_left; intro hfun; clear_value x; rotate_left; unfold x)
    | (intro x; refine same_cut_o1 (w := pts) (s0 := st0) x ?_ ?_; rotate_left; intro hopt; clear_value x; rotate_left; unfold x)
    | (intro x; refine same_cut_o (w := pts) (s0 := st0) x ?_ ?_; rotate_left; intro hopt; clear_value x; rotate_left; unfold x)
    | (intro x; refine same_cut_fst (w := pts) (s0 := st0) x ?_ ?_; rotate_left; intro _; clear_value x; rotate_left; unfold x)
    | (intro x; refine same_cut_snd (w := pts) (s0 := st0) x ?_ ?_; rotate_left; intro _; clear_value x; rotate_left; unfold x)
    | (intro x; clear_value x)
    | (with_reducible apply raiseEth_same)
    | (with_reducible apply logEth_same)
    | (with_reducible apply sendRecord_same)
    | (with_reducible apply violates_same)
    | (with_reducible apply takeSeq_same)
    | (with_reducible refine hopt _ (by assumption))
    | (with_reducible exact hopt _ rfl)
    | (with_reducible apply hfun)
    | (intro _)
    | split
    | (with_reducible apply AnswerSame.next)
    | (with_reducible apply same_getD)
    | (refine same_mk hs ?_; intro p hp; cases p <;> first | exact rfl | exact absurd (by assumption) hp)
    | (refine same_mk (by assumption) ?_; intro p hp; cases p <;> first | exact rfl | exact absurd (by assumption) hp)
    | (dsimp only)
    | (rename_i he; split at he)
    | (rename_i he; injection he with he; subst he)

theorem scoreImm_same {pts : List Part} {st0 : State} (q imm : Nat) (s : State) (hs : Agrees pts st0 s) (mevents : Part.events ∈ pts) (meth : Part.eth ∈ pts) (mroods : Part.roods ∈ pts) (mdescs : Part.descs ∈ pts) (mstks : Part.stks ∈ pts) (mstreams : Part.streams ∈ pts) (mslots : Part.slots ∈ pts) (mrequests : Part.requests ∈ pts) (mnextReq : Part.nextReq ∈ pts) (mfreeCtr : Part.freeCtr ∈ pts) : Agrees pts st0 (scoreImm q imm s) := by
  delta scoreImm
  repeat' first
    | (with_reducible assumption)
    | (with_reducible rfl)
    | (with_reducible refine fun _ => ?_)
    | lift_lets
    | (intro x; refine same_cut (w := pts) (s0 := st0) x ?_ ?_; rotate_left; intro _; clear_value x; rotate_left; unfold x)
    | (intro x; refine same_cut_ss (w := pts) (s0 := st0) x ?_ ?_; rotate_left; intro hfun; clear_value x; rotate_left; unfold x)
    | (intro x; refine same_cut_ass (w := pts) (s0 := st0) x ?_ ?_; rotate_left; intro hfun; clear_value x; rotate_left; unfold x)
    | (intro x; refine same_cut_abss (w := pts) (s0 := st0) x ?_ ?_; rotate_left; intro hfun; clear_value x; rotate_left; unfold x)
    | (intro x; refine same_cut_a (w := pts) (s0 := st0) x ?_ ?_; rotate_left; intro hfun; clear_value x; rotate_left; unfold x)
    | (intro x; refine same_cut_ab (w := pts) (s0 := st0) x ?_ ?_; rotate_left; intro hfun; clear_value x; rotate_left; unfold x)
    | (intro x; refine same_cut_abc (w := pts) (s0 := st0) x ?_ ?_; rotate_left; intro hfun; clear_value x; rotate_left; unfold x)
    | (intro x; refine same_cut_o1 (w := pts) (s0 := st0) x ?_ ?_; rotate_left; intro hopt; clear_value x; rotate_left; unfold x)
    | (intro x; refine same_cut_o (w := pts) (s0 := st0) x ?_ ?_; rotate_left; intro hopt; clear_value x; rotate_left; unfold x)
    | (intro x; refine same_cut_fst (w := pts) (s0 := st0) x ?_ ?_; rotate_left; intro _; clear_value x; rotate_left; unfold x)
    | (intro x; refine same_cut_snd (w := pts) (s0 := st0) x ?_ ?_; rotate_left; intro _; clear_value x; rotate_left; unfold x)
    | (intro x; clear_value x)
    | (with_reducible apply violates_same)
    | (with_reducible apply takeSeq_same)
    | (with_reducible apply checkRequest_same)
    | (with_reducible refine hopt _ (by assumption))
    | (with_reducible exact hopt _ rfl)
    | (with_reducible apply hfun)
    | (intro _)
    | split
    | (with_reducible apply AnswerSame.next)
    | (with_reducible apply same_getD)
    | (refine same_mk hs ?_; intro p hp; cases p <;> first | exact rfl | exact absurd (by assumption) hp)
    | (refine same_mk (by assumption) ?_; intro p hp; cases p <;> first | exact rfl | exact absurd (by assumption) hp)
    | (dsimp only)
    | (rename_i he; split at he)
    | (rename_i he; injection he with he; subst he)

theorem requestLate_same {pts : List Part} {st0 : State} (h : Nat) (s : State) (hs : Agrees pts st0 s) (mrequests : Part.requests ∈ pts) : Agrees pts st0 (requestLate h s) := by
  delta requestLate
  repeat' first
    | (with_reducible assumption)
    | (with_reducible rfl)
    | (with_reducible refine fun _ => ?_)
    | lift_lets
    | (intro x; refine same_cut (w := pts) (s0 := st0) x ?_ ?_; rotate_left; intro _; clear_value x; rotate_left; unfold x)
    | (intro x; refine same_cut_ss (w := pts) (s0 := st0) x ?_ ?_; rotate_left; intro hfun; clear_value x; rotate_left; unfold x)
    | (intro x; refine same_cut_ass (w := pts) (s0 := st0) x ?_ ?_; rotate_left; intro hfun; clear_value x; rotate_left; unfold x)
    | (intro x; refine same_cut_abss (w := pts) (s0 := st0) x ?_ ?_; rotate_left; intro hfun; clear_value x; rotate_left; unfold x)
    | (intro x; refine same_cut_a (w := pts) (s0 := st0) x ?_ ?_; rotate_left; intro hfun; clear_value x; rotate_left; unfold x)
    | (intro x; refine same_cut_ab (w := pts) (s0 := st0) x ?_ ?_; rotate_left; intro hfun; clear_value x; rotate_left; unfold x)
    | (intro x; refine same_cut_abc (w := pts) (s0 := st0) x ?_ ?_; rotate_left; intro hfun; clear_value x; rotate_left; unfold x)
    | (intro x; refine same_cut_o1 (w := pts) (s0 := st0) x ?_ ?_; rotate_left; intro hopt; clear_value x; rotate_left; unfold x)
    | (intro x; refine same_cut_o (w := pts) (s0 := st0) x ?_ ?_; rotate_left; intro hopt; clear_value x; rotate_left; unfold x)
    | (intro x; refine same_cut_fst (w := pts) (s0 := st0) x ?_ ?_; rotate_left; intro _; clear_value x; rotate_left; unfold x)
    | (intro x; refine same_cut_snd (w := pts) (s0 := st0) x ?_ ?_; rotate_left; intro _; clear_value x; rotate_left; unfold x)
    | (intro x; clear_value x)
    | (with_reducible apply modReq_same)
    | (with_reducible refine hopt _ (by assumption))
    | (with_reducible exact hopt _ rfl)
    | (with_reducible apply hfun)
    | (intro _)
    | split
    | (with_reducible apply AnswerSame.next)
    | (with_reducible apply same_getD)
    | (refine same_mk hs ?_; intro p hp; cases p <;> first | exact rfl | exact absurd (by assumption) hp)
    | (refine same_mk (by assumption) ?_; intro p hp; cases p <;> first | exact rfl | exact absurd (by assumption) hp)
    | (dsimp only)
    | (rename_i he; split at he)
    | (rename_i he; injection he with he; subst he)

theorem settleRequest_same {pts : List Part} {st0 : State} (h : Nat) (s : State) (hs : Agrees pts st0 s) (meth : Part.eth ∈ pts) (mroods : Part.roods ∈ pts) (mstks : Part.stks ∈ pts) (mslots : Part.slots ∈ pts) (mrequests : Part.requests ∈ pts) : Agrees pts st0 (settleRequest h s) := by
  delta settleRequest
  repeat' first
    | (with_reducible assumption)
    | (with_reducible rfl)
    | (with_reducible refine fun _ => ?_)
    | lift_lets
    | (intro x; refine same_cut (w := pts) (s0 := st0) x ?_ ?_; rotate_left; intro _; clear_value x; rotate_left; unfold x)
    | (intro x; refine same_cut_ss (w := pts) (s0 := st0) x ?_ ?_; rotate_left; intro hfun; clear_value x; rotate_left; unfold x)
    | (intro x; refine same_cut_ass (w := pts) (s0 := st0) x ?_ ?_; rotate_left; intro hfun; clear_value x; rotate_left; unfold x)
    | (intro x; refine same_cut_abss (w := pts) (s0 := st0) x ?_ ?_; rotate_left; intro hfun; clear_value x; rotate_left; unfold x)
    | (intro x; refine same_cut_a (w := pts) (s0 := st0) x ?_ ?_; rotate_left; intro hfun; clear_value x; rotate_left; unfold x)
    | (intro x; refine same_cut_ab (w := pts) (s0 := st0) x ?_ ?_; rotate_left; intro hfun; clear_value x; rotate_left; unfold x)
    | (intro x; refine same_cut_abc (w := pts) (s0 := st0) x ?_ ?_; rotate_left; intro hfun; clear_value x; rotate_left; unfold x)
    | (intro x; refine same_cut_o1 (w := pts) (s0 := st0) x ?_ ?_; rotate_left; intro hopt; clear_value x; rotate_left; unfold x)
    | (intro x; refine same_cut_o (w := pts) (s0 := st0) x ?_ ?_; rotate_left; intro hopt; clear_value x; rotate_left; unfold x)
    | (intro x; refine same_cut_fst (w := pts) (s0 := st0) x ?_ ?_; rotate_left; intro _; clear_value x; rotate_left; unfold x)
    | (intro x; refine same_cut_snd (w := pts) (s0 := st0) x ?_ ?_; rotate_left; intro _; clear_value x; rotate_left; unfold x)
    | (intro x; clear_value x)
    | (with_reducible apply completeRequest_same)
    | (with_reducible apply failRequest_same)
    | (with_reducible refine hopt _ (by assumption))
    | (with_reducible exact hopt _ rfl)
    | (with_reducible apply hfun)
    | (intro _)
    | split
    | (with_reducible apply AnswerSame.next)
    | (with_reducible apply same_getD)
    | (refine same_mk hs ?_; intro p hp; cases p <;> first | exact rfl | exact absurd (by assumption) hp)
    | (refine same_mk (by assumption) ?_; intro p hp; cases p <;> first | exact rfl | exact absurd (by assumption) hp)
    | (dsimp only)
    | (rename_i he; split at he)
    | (rename_i he; injection he with he; subst he)

theorem giveVerdict_same {pts : List Part} {st0 : State} (h : Nat) (data : List Byte) (s : State) (hs : Agrees pts st0 s) (meth : Part.eth ∈ pts) (mroods : Part.roods ∈ pts) (mstks : Part.stks ∈ pts) (mslots : Part.slots ∈ pts) (mrequests : Part.requests ∈ pts) : Agrees pts st0 (giveVerdict h data s) := by
  delta giveVerdict
  repeat' first
    | (with_reducible assumption)
    | (with_reducible rfl)
    | (with_reducible refine fun _ => ?_)
    | lift_lets
    | (intro x; refine same_cut (w := pts) (s0 := st0) x ?_ ?_; rotate_left; intro _; clear_value x; rotate_left; unfold x)
    | (intro x; refine same_cut_ss (w := pts) (s0 := st0) x ?_ ?_; rotate_left; intro hfun; clear_value x; rotate_left; unfold x)
    | (intro x; refine same_cut_ass (w := pts) (s0 := st0) x ?_ ?_; rotate_left; intro hfun; clear_value x; rotate_left; unfold x)
    | (intro x; refine same_cut_abss (w := pts) (s0 := st0) x ?_ ?_; rotate_left; intro hfun; clear_value x; rotate_left; unfold x)
    | (intro x; refine same_cut_a (w := pts) (s0 := st0) x ?_ ?_; rotate_left; intro hfun; clear_value x; rotate_left; unfold x)
    | (intro x; refine same_cut_ab (w := pts) (s0 := st0) x ?_ ?_; rotate_left; intro hfun; clear_value x; rotate_left; unfold x)
    | (intro x; refine same_cut_abc (w := pts) (s0 := st0) x ?_ ?_; rotate_left; intro hfun; clear_value x; rotate_left; unfold x)
    | (intro x; refine same_cut_o1 (w := pts) (s0 := st0) x ?_ ?_; rotate_left; intro hopt; clear_value x; rotate_left; unfold x)
    | (intro x; refine same_cut_o (w := pts) (s0 := st0) x ?_ ?_; rotate_left; intro hopt; clear_value x; rotate_left; unfold x)
    | (intro x; refine same_cut_fst (w := pts) (s0 := st0) x ?_ ?_; rotate_left; intro _; clear_value x; rotate_left; unfold x)
    | (intro x; refine same_cut_snd (w := pts) (s0 := st0) x ?_ ?_; rotate_left; intro _; clear_value x; rotate_left; unfold x)
    | (intro x; clear_value x)
    | (with_reducible apply modReq_same)
    | (with_reducible apply forAll_same)
    | (with_reducible apply qpSend_same)
    | (with_reducible apply dropRequest_same)
    | (with_reducible apply completeRequest_same)
    | (with_reducible refine hopt _ (by assumption))
    | (with_reducible exact hopt _ rfl)
    | (with_reducible apply hfun)
    | (intro _)
    | split
    | (with_reducible apply AnswerSame.next)
    | (with_reducible apply same_getD)
    | (refine same_mk hs ?_; intro p hp; cases p <;> first | exact rfl | exact absurd (by assumption) hp)
    | (refine same_mk (by assumption) ?_; intro p hp; cases p <;> first | exact rfl | exact absurd (by assumption) hp)
    | (dsimp only)
    | (rename_i he; split at he)
    | (rename_i he; injection he with he; subst he)

theorem ackLate_same {pts : List Part} {st0 : State} (q : Nat) (s : State) (hs : Agrees pts st0 s) (mevents : Part.events ∈ pts) (meth : Part.eth ∈ pts) (mroods : Part.roods ∈ pts) (mdescs : Part.descs ∈ pts) (mstks : Part.stks ∈ pts) (mstreams : Part.streams ∈ pts) (mslots : Part.slots ∈ pts) (mrequests : Part.requests ∈ pts) : Agrees pts st0 (ackLate q s) := by
  delta ackLate
  repeat' first
    | (with_reducible assumption)
    | (with_reducible rfl)
    | (with_reducible refine fun _ => ?_)
    | lift_lets
    | (intro x; refine same_cut (w := pts) (s0 := st0) x ?_ ?_; rotate_left; intro _; clear_value x; rotate_left; unfold x)
    | (intro x; refine same_cut_ss (w := pts) (s0 := st0) x ?_ ?_; rotate_left; intro hfun; clear_value x; rotate_left; unfold x)
    | (intro x; refine same_cut_ass (w := pts) (s0 := st0) x ?_ ?_; rotate_left; intro hfun; clear_value x; rotate_left; unfold x)
    | (intro x; refine same_cut_abss (w := pts) (s0 := st0) x ?_ ?_; rotate_left; intro hfun; clear_value x; rotate_left; unfold x)
    | (intro x; refine same_cut_a (w := pts) (s0 := st0) x ?_ ?_; rotate_left; intro hfun; clear_value x; rotate_left; unfold x)
    | (intro x; refine same_cut_ab (w := pts) (s0 := st0) x ?_ ?_; rotate_left; intro hfun; clear_value x; rotate_left; unfold x)
    | (intro x; refine same_cut_abc (w := pts) (s0 := st0) x ?_ ?_; rotate_left; intro hfun; clear_value x; rotate_left; unfold x)
    | (intro x; refine same_cut_o1 (w := pts) (s0 := st0) x ?_ ?_; rotate_left; intro hopt; clear_value x; rotate_left; unfold x)
    | (intro x; refine same_cut_o (w := pts) (s0 := st0) x ?_ ?_; rotate_left; intro hopt; clear_value x; rotate_left; unfold x)
    | (intro x; refine same_cut_fst (w := pts) (s0 := st0) x ?_ ?_; rotate_left; intro _; clear_value x; rotate_left; unfold x)
    | (intro x; refine same_cut_snd (w := pts) (s0 := st0) x ?_ ?_; rotate_left; intro _; clear_value x; rotate_left; unfold x)
    | (intro x; clear_value x)
    | (with_reducible apply modQp_same)
    | (with_reducible apply resendAll_same)
    | (with_reducible apply qpFail_same)
    | (with_reducible refine hopt _ (by assumption))
    | (with_reducible exact hopt _ rfl)
    | (with_reducible apply hfun)
    | (intro _)
    | split
    | (with_reducible apply AnswerSame.next)
    | (with_reducible apply same_getD)
    | (refine same_mk hs ?_; intro p hp; cases p <;> first | exact rfl | exact absurd (by assumption) hp)
    | (refine same_mk (by assumption) ?_; intro p hp; cases p <;> first | exact rfl | exact absurd (by assumption) hp)
    | (dsimp only)
    | (rename_i he; split at he)
    | (rename_i he; injection he with he; subst he)

theorem notReady_same {pts : List Part} {st0 : State} (q : Nat) (s : State) (hs : Agrees pts st0 s) (mevents : Part.events ∈ pts) (meth : Part.eth ∈ pts) (mroods : Part.roods ∈ pts) (mdescs : Part.descs ∈ pts) (mstks : Part.stks ∈ pts) (mstreams : Part.streams ∈ pts) (mslots : Part.slots ∈ pts) (mrequests : Part.requests ∈ pts) : Agrees pts st0 (notReady q s) := by
  delta notReady
  repeat' first
    | (with_reducible assumption)
    | (with_reducible rfl)
    | (with_reducible refine fun _ => ?_)
    | lift_lets
    | (intro x; refine same_cut (w := pts) (s0 := st0) x ?_ ?_; rotate_left; intro _; clear_value x; rotate_left; unfold x)
    | (intro x; refine same_cut_ss (w := pts) (s0 := st0) x ?_ ?_; rotate_left; intro hfun; clear_value x; rotate_left; unfold x)
    | (intro x; refine same_cut_ass (w := pts) (s0 := st0) x ?_ ?_; rotate_left; intro hfun; clear_value x; rotate_left; unfold x)
    | (intro x; refine same_cut_abss (w := pts) (s0 := st0) x ?_ ?_; rotate_left; intro hfun; clear_value x; rotate_left; unfold x)
    | (intro x; refine same_cut_a (w := pts) (s0 := st0) x ?_ ?_; rotate_left; intro hfun; clear_value x; rotate_left; unfold x)
    | (intro x; refine same_cut_ab (w := pts) (s0 := st0) x ?_ ?_; rotate_left; intro hfun; clear_value x; rotate_left; unfold x)
    | (intro x; refine same_cut_abc (w := pts) (s0 := st0) x ?_ ?_; rotate_left; intro hfun; clear_value x; rotate_left; unfold x)
    | (intro x; refine same_cut_o1 (w := pts) (s0 := st0) x ?_ ?_; rotate_left; intro hopt; clear_value x; rotate_left; unfold x)
    | (intro x; refine same_cut_o (w := pts) (s0 := st0) x ?_ ?_; rotate_left; intro hopt; clear_value x; rotate_left; unfold x)
    | (intro x; refine same_cut_fst (w := pts) (s0 := st0) x ?_ ?_; rotate_left; intro _; clear_value x; rotate_left; unfold x)
    | (intro x; refine same_cut_snd (w := pts) (s0 := st0) x ?_ ?_; rotate_left; intro _; clear_value x; rotate_left; unfold x)
    | (intro x; clear_value x)
    | (with_reducible apply modQp_same)
    | (with_reducible apply resendAll_same)
    | (with_reducible apply qpFail_same)
    | (with_reducible refine hopt _ (by assumption))
    | (with_reducible exact hopt _ rfl)
    | (with_reducible apply hfun)
    | (intro _)
    | split
    | (with_reducible apply AnswerSame.next)
    | (with_reducible apply same_getD)
    | (refine same_mk hs ?_; intro p hp; cases p <;> first | exact rfl | exact absurd (by assumption) hp)
    | (refine same_mk (by assumption) ?_; intro p hp; cases p <;> first | exact rfl | exact absurd (by assumption) hp)
    | (dsimp only)
    | (rename_i he; split at he)
    | (rename_i he; injection he with he; subst he)

theorem slowDown_same {pts : List Part} {st0 : State} (q : Nat) (s : State) (hs : Agrees pts st0 s) (meth : Part.eth ∈ pts) : Agrees pts st0 (slowDown q s) := by
  delta slowDown
  repeat' first
    | (with_reducible assumption)
    | (with_reducible rfl)
    | (with_reducible refine fun _ => ?_)
    | lift_lets
    | (intro x; refine same_cut (w := pts) (s0 := st0) x ?_ ?_; rotate_left; intro _; clear_value x; rotate_left; unfold x)
    | (intro x; refine same_cut_ss (w := pts) (s0 := st0) x ?_ ?_; rotate_left; intro hfun; clear_value x; rotate_left; unfold x)
    | (intro x; refine same_cut_ass (w := pts) (s0 := st0) x ?_ ?_; rotate_left; intro hfun; clear_value x; rotate_left; unfold x)
    | (intro x; refine same_cut_abss (w := pts) (s0 := st0) x ?_ ?_; rotate_left; intro hfun; clear_value x; rotate_left; unfold x)
    | (intro x; refine same_cut_a (w := pts) (s0 := st0) x ?_ ?_; rotate_left; intro hfun; clear_value x; rotate_left; unfold x)
    | (intro x; refine same_cut_ab (w := pts) (s0 := st0) x ?_ ?_; rotate_left; intro hfun; clear_value x; rotate_left; unfold x)
    | (intro x; refine same_cut_abc (w := pts) (s0 := st0) x ?_ ?_; rotate_left; intro hfun; clear_value x; rotate_left; unfold x)
    | (intro x; refine same_cut_o1 (w := pts) (s0 := st0) x ?_ ?_; rotate_left; intro hopt; clear_value x; rotate_left; unfold x)
    | (intro x; refine same_cut_o (w := pts) (s0 := st0) x ?_ ?_; rotate_left; intro hopt; clear_value x; rotate_left; unfold x)
    | (intro x; refine same_cut_fst (w := pts) (s0 := st0) x ?_ ?_; rotate_left; intro _; clear_value x; rotate_left; unfold x)
    | (intro x; refine same_cut_snd (w := pts) (s0 := st0) x ?_ ?_; rotate_left; intro _; clear_value x; rotate_left; unfold x)
    | (intro x; clear_value x)
    | (with_reducible apply modQp_same)
    | (with_reducible apply modEth_same)
    | (with_reducible refine hopt _ (by assumption))
    | (with_reducible exact hopt _ rfl)
    | (with_reducible apply hfun)
    | (intro _)
    | split
    | (with_reducible apply AnswerSame.next)
    | (with_reducible apply same_getD)
    | (refine same_mk hs ?_; intro p hp; cases p <;> first | exact rfl | exact absurd (by assumption) hp)
    | (refine same_mk (by assumption) ?_; intro p hp; cases p <;> first | exact rfl | exact absurd (by assumption) hp)
    | (dsimp only)
    | (rename_i he; split at he)
    | (rename_i he; injection he with he; subst he)

theorem speedUp_same {pts : List Part} {st0 : State} (q : Nat) (s : State) (hs : Agrees pts st0 s) (meth : Part.eth ∈ pts) : Agrees pts st0 (speedUp q s) := by
  delta speedUp
  repeat' first
    | (with_reducible assumption)
    | (with_reducible rfl)
    | (with_reducible refine fun _ => ?_)
    | lift_lets
    | (intro x; refine same_cut (w := pts) (s0 := st0) x ?_ ?_; rotate_left; intro _; clear_value x; rotate_left; unfold x)
    | (intro x; refine same_cut_ss (w := pts) (s0 := st0) x ?_ ?_; rotate_left; intro hfun; clear_value x; rotate_left; unfold x)
    | (intro x; refine same_cut_ass (w := pts) (s0 := st0) x ?_ ?_; rotate_left; intro hfun; clear_value x; rotate_left; unfold x)
    | (intro x; refine same_cut_abss (w := pts) (s0 := st0) x ?_ ?_; rotate_left; intro hfun; clear_value x; rotate_left; unfold x)
    | (intro x; refine same_cut_a (w := pts) (s0 := st0) x ?_ ?_; rotate_left; intro hfun; clear_value x; rotate_left; unfold x)
    | (intro x; refine same_cut_ab (w := pts) (s0 := st0) x ?_ ?_; rotate_left; intro hfun; clear_value x; rotate_left; unfold x)
    | (intro x; refine same_cut_abc (w := pts) (s0 := st0) x ?_ ?_; rotate_left; intro hfun; clear_value x; rotate_left; unfold x)
    | (intro x; refine same_cut_o1 (w := pts) (s0 := st0) x ?_ ?_; rotate_left; intro hopt; clear_value x; rotate_left; unfold x)
    | (intro x; refine same_cut_o (w := pts) (s0 := st0) x ?_ ?_; rotate_left; intro hopt; clear_value x; rotate_left; unfold x)
    | (intro x; refine same_cut_fst (w := pts) (s0 := st0) x ?_ ?_; rotate_left; intro _; clear_value x; rotate_left; unfold x)
    | (intro x; refine same_cut_snd (w := pts) (s0 := st0) x ?_ ?_; rotate_left; intro _; clear_value x; rotate_left; unfold x)
    | (intro x; clear_value x)
    | (with_reducible apply modQp_same)
    | (with_reducible refine hopt _ (by assumption))
    | (with_reducible exact hopt _ rfl)
    | (with_reducible apply hfun)
    | (intro _)
    | split
    | (with_reducible apply AnswerSame.next)
    | (with_reducible apply same_getD)
    | (refine same_mk hs ?_; intro p hp; cases p <;> first | exact rfl | exact absurd (by assumption) hp)
    | (refine same_mk (by assumption) ?_; intro p hp; cases p <;> first | exact rfl | exact absurd (by assumption) hp)
    | (dsimp only)
    | (rename_i he; split at he)
    | (rename_i he; injection he with he; subst he)

theorem badResponse_same {pts : List Part} {st0 : State} (x n q a : Nat) (s : State) (hs : Agrees pts st0 s) (mevents : Part.events ∈ pts) (meth : Part.eth ∈ pts) (mroods : Part.roods ∈ pts) (mdescs : Part.descs ∈ pts) (mstks : Part.stks ∈ pts) (mstreams : Part.streams ∈ pts) (mslots : Part.slots ∈ pts) (mrequests : Part.requests ∈ pts) (mfreeCtr : Part.freeCtr ∈ pts) : Agrees pts st0 (badResponse x n q a s) := by
  delta badResponse
  repeat' first
    | (with_reducible assumption)
    | (with_reducible rfl)
    | (with_reducible refine fun _ => ?_)
    | lift_lets
    | (intro x; refine same_cut (w := pts) (s0 := st0) x ?_ ?_; rotate_left; intro _; clear_value x; rotate_left; unfold x)
    | (intro x; refine same_cut_ss (w := pts) (s0 := st0) x ?_ ?_; rotate_left; intro hfun; clear_value x; rotate_left; unfold x)
    | (intro x; refine same_cut_ass (w := pts) (s0 := st0) x ?_ ?_; rotate_left; intro hfun; clear_value x; rotate_left; unfold x)
    | (intro x; refine same_cut_abss (w := pts) (s0 := st0) x ?_ ?_; rotate_left; intro hfun; clear_value x; rotate_left; unfold x)
    | (intro x; refine same_cut_a (w := pts) (s0 := st0) x ?_ ?_; rotate_left; intro hfun; clear_value x; rotate_left; unfold x)
    | (intro x; refine same_cut_ab (w := pts) (s0 := st0) x ?_ ?_; rotate_left; intro hfun; clear_value x; rotate_left; unfold x)
    | (intro x; refine same_cut_abc (w := pts) (s0 := st0) x ?_ ?_; rotate_left; intro hfun; clear_value x; rotate_left; unfold x)
    | (intro x; refine same_cut_o1 (w := pts) (s0 := st0) x ?_ ?_; rotate_left; intro hopt; clear_value x; rotate_left; unfold x)
    | (intro x; refine same_cut_o (w := pts) (s0 := st0) x ?_ ?_; rotate_left; intro hopt; clear_value x; rotate_left; unfold x)
    | (intro x; refine same_cut_fst (w := pts) (s0 := st0) x ?_ ?_; rotate_left; intro _; clear_value x; rotate_left; unfold x)
    | (intro x; refine same_cut_snd (w := pts) (s0 := st0) x ?_ ?_; rotate_left; intro _; clear_value x; rotate_left; unfold x)
    | (intro x; clear_value x)
    | (with_reducible apply modCtx_same)
    | (with_reducible apply readAnswered_same)
    | (with_reducible apply endStream_same)
    | (with_reducible apply violates_same)
    | (with_reducible refine hopt _ (by assumption))
    | (with_reducible exact hopt _ rfl)
    | (with_reducible apply hfun)
    | (intro _)
    | split
    | (with_reducible apply AnswerSame.next)
    | (with_reducible apply same_getD)
    | (refine same_mk hs ?_; intro p hp; cases p <;> first | exact rfl | exact absurd (by assumption) hp)
    | (refine same_mk (by assumption) ?_; intro p hp; cases p <;> first | exact rfl | exact absurd (by assumption) hp)
    | (dsimp only)
    | (rename_i he; split at he)
    | (rename_i he; injection he with he; subst he)

theorem storeResponse_same {pts : List Part} {st0 : State} (x n : Nat) (image : List Byte) (s : State) (hs : Agrees pts st0 s) (mglb : Part.glb ∈ pts) (mevents : Part.events ∈ pts) (meth : Part.eth ∈ pts) (mroods : Part.roods ∈ pts) (mdescs : Part.descs ∈ pts) (mstks : Part.stks ∈ pts) (mstreams : Part.streams ∈ pts) (mflash : Part.flash ∈ pts) (mslots : Part.slots ∈ pts) (mrequests : Part.requests ∈ pts) (mmem : Part.mem ∈ pts) (mbushels : Part.bushels ∈ pts) (mfreeCtr : Part.freeCtr ∈ pts) : Agrees pts st0 (storeResponse x n image s) := by
  delta storeResponse
  repeat' first
    | (with_reducible assumption)
    | (with_reducible rfl)
    | (with_reducible refine fun _ => ?_)
    | lift_lets
    | (intro x; refine same_cut (w := pts) (s0 := st0) x ?_ ?_; rotate_left; intro _; clear_value x; rotate_left; unfold x)
    | (intro x; refine same_cut_ss (w := pts) (s0 := st0) x ?_ ?_; rotate_left; intro hfun; clear_value x; rotate_left; unfold x)
    | (intro x; refine same_cut_ass (w := pts) (s0 := st0) x ?_ ?_; rotate_left; intro hfun; clear_value x; rotate_left; unfold x)
    | (intro x; refine same_cut_abss (w := pts) (s0 := st0) x ?_ ?_; rotate_left; intro hfun; clear_value x; rotate_left; unfold x)
    | (intro x; refine same_cut_a (w := pts) (s0 := st0) x ?_ ?_; rotate_left; intro hfun; clear_value x; rotate_left; unfold x)
    | (intro x; refine same_cut_ab (w := pts) (s0 := st0) x ?_ ?_; rotate_left; intro hfun; clear_value x; rotate_left; unfold x)
    | (intro x; refine same_cut_abc (w := pts) (s0 := st0) x ?_ ?_; rotate_left; intro hfun; clear_value x; rotate_left; unfold x)
    | (intro x; refine same_cut_o1 (w := pts) (s0 := st0) x ?_ ?_; rotate_left; intro hopt; clear_value x; rotate_left; unfold x)
    | (intro x; refine same_cut_o (w := pts) (s0 := st0) x ?_ ?_; rotate_left; intro hopt; clear_value x; rotate_left; unfold x)
    | (intro x; refine same_cut_fst (w := pts) (s0 := st0) x ?_ ?_; rotate_left; intro _; clear_value x; rotate_left; unfold x)
    | (intro x; refine same_cut_snd (w := pts) (s0 := st0) x ?_ ?_; rotate_left; intro _; clear_value x; rotate_left; unfold x)
    | (intro x; clear_value x)
    | (with_reducible apply readAnswered_same)
    | (with_reducible apply haltStream_same)
    | (with_reducible apply endRead_same)
    | (with_reducible apply placeWrite_same)
    | (with_reducible apply stall_same)
    | (with_reducible apply badResponse_same)
    | (with_reducible refine hopt _ (by assumption))
    | (with_reducible exact hopt _ rfl)
    | (with_reducible apply hfun)
    | (intro _)
    | split
    | (with_reducible apply AnswerSame.next)
    | (with_reducible apply same_getD)
    | (refine same_mk hs ?_; intro p hp; cases p <;> first | exact rfl | exact absurd (by assumption) hp)
    | (refine same_mk (by assumption) ?_; intro p hp; cases p <;> first | exact rfl | exact absurd (by assumption) hp)
    | (dsimp only)
    | (rename_i he; split at he)
    | (rename_i he; injection he with he; subst he)

theorem execEthLinkUp_same {pts : List Part} {st0 : State} (i : Nat) (s : State) (hs : Agrees pts st0 s) (mevents : Part.events ∈ pts) (meth : Part.eth ∈ pts) : AnswerSame pts st0 (execEthLinkUp i s) := by
  delta execEthLinkUp
  repeat' first
    | (with_reducible assumption)
    | lift_lets
    | (with_reducible apply ifUp_same)
    | split
    | (with_reducible apply AnswerSame.next)

theorem execEthLinkDown_same {pts : List Part} {st0 : State} (i : Nat) (s : State) (hs : Agrees pts st0 s) (mevents : Part.events ∈ pts) (meth : Part.eth ∈ pts) (mroods : Part.roods ∈ pts) (mdescs : Part.descs ∈ pts) (mstks : Part.stks ∈ pts) (mstreams : Part.streams ∈ pts) (mslots : Part.slots ∈ pts) (mrequests : Part.requests ∈ pts) : AnswerSame pts st0 (execEthLinkDown i s) := by
  delta execEthLinkDown
  repeat' first
    | (with_reducible assumption)
    | lift_lets
    | (with_reducible apply ifDown_same)
    | (with_reducible apply AnswerSame.next)

theorem execEspReceive_same {pts : List Part} {st0 : State} (p : EspPacket) (s : State) (hs : Agrees pts st0 s) (mevents : Part.events ∈ pts) (meth : Part.eth ∈ pts) (mroods : Part.roods ∈ pts) (mdescs : Part.descs ∈ pts) (mstks : Part.stks ∈ pts) (mstreams : Part.streams ∈ pts) (mslots : Part.slots ∈ pts) (mrequests : Part.requests ∈ pts) (mfreeCtr : Part.freeCtr ∈ pts) : AnswerSame pts st0 (execEspReceive p s) := by
  delta execEspReceive
  repeat' first
    | (with_reducible assumption)
    | lift_lets
    | (with_reducible apply receivePacket_same)
    | split
    | (with_reducible apply AnswerSame.next)

theorem execQuarantineEnd_same {pts : List Part} {st0 : State} (iface ip : Nat) (s : State) (hs : Agrees pts st0 s) (mevents : Part.events ∈ pts) (meth : Part.eth ∈ pts) : AnswerSame pts st0 (execQuarantineEnd iface ip s) := by
  delta execQuarantineEnd
  repeat' first
    | (with_reducible assumption)
    | lift_lets
    | (with_reducible apply endQuarantine_same)
    | (with_reducible apply AnswerSame.next)

theorem execRdmaWrite_same {pts : List Part} {st0 : State} (q addr rkey : Nat) (data : List Byte) (s : State) (hs : Agrees pts st0 s) (mevents : Part.events ∈ pts) (meth : Part.eth ∈ pts) (mroods : Part.roods ∈ pts) (mdescs : Part.descs ∈ pts) (mstks : Part.stks ∈ pts) (mstreams : Part.streams ∈ pts) (mslots : Part.slots ∈ pts) (mrequests : Part.requests ∈ pts) (mmem : Part.mem ∈ pts) (mfreeCtr : Part.freeCtr ∈ pts) : AnswerSame pts st0 (execRdmaWrite q addr rkey data s) := by
  delta execRdmaWrite
  repeat' first
    | (with_reducible assumption)
    | lift_lets
    | (with_reducible apply rdmaWrite_same)
    | split
    | (with_reducible apply AnswerSame.next)

theorem execRdmaRead_same {pts : List Part} {st0 : State} (q addr rkey len : Nat) (s : State) (hs : Agrees pts st0 s) (mevents : Part.events ∈ pts) (meth : Part.eth ∈ pts) (mroods : Part.roods ∈ pts) (mdescs : Part.descs ∈ pts) (mstks : Part.stks ∈ pts) (mstreams : Part.streams ∈ pts) (mslots : Part.slots ∈ pts) (mrequests : Part.requests ∈ pts) (mfreeCtr : Part.freeCtr ∈ pts) : AnswerSame pts st0 (execRdmaRead q addr rkey len s) := by
  delta execRdmaRead
  repeat' first
    | (with_reducible assumption)
    | lift_lets
    | (with_reducible apply rdmaRead_same)
    | split
    | (with_reducible apply AnswerSame.next)

theorem execScore_same {pts : List Part} {st0 : State} (q imm : Nat) (s : State) (hs : Agrees pts st0 s) (mevents : Part.events ∈ pts) (meth : Part.eth ∈ pts) (mroods : Part.roods ∈ pts) (mdescs : Part.descs ∈ pts) (mstks : Part.stks ∈ pts) (mstreams : Part.streams ∈ pts) (mslots : Part.slots ∈ pts) (mrequests : Part.requests ∈ pts) (mnextReq : Part.nextReq ∈ pts) (mfreeCtr : Part.freeCtr ∈ pts) : AnswerSame pts st0 (execScore q imm s) := by
  delta execScore
  repeat' first
    | (with_reducible assumption)
    | lift_lets
    | (with_reducible apply scoreImm_same)
    | split
    | (with_reducible apply AnswerSame.next)

theorem execDoorbell_same {pts : List Part} {st0 : State} (q imm addr rkey : Nat) (data : List Byte) (s : State) (hs : Agrees pts st0 s) (mevents : Part.events ∈ pts) (meth : Part.eth ∈ pts) (mroods : Part.roods ∈ pts) (mqueues : Part.queues ∈ pts) (mdescs : Part.descs ∈ pts) (mstks : Part.stks ∈ pts) (mstreams : Part.streams ∈ pts) (mslots : Part.slots ∈ pts) (mrequests : Part.requests ∈ pts) (mmem : Part.mem ∈ pts) (mfreeCtr : Part.freeCtr ∈ pts) : AnswerSame pts st0 (execDoorbell q imm addr rkey data s) := by
  delta execDoorbell
  repeat' first
    | (with_reducible assumption)
    | lift_lets
    | (with_reducible apply ringDoorbell_same)
    | split
    | (with_reducible apply AnswerSame.next)

theorem execRegister_same {pts : List Part} {st0 : State} (q : Nat) (msg : List Byte) (s : State) (hs : Agrees pts st0 s) (mevents : Part.events ∈ pts) (meth : Part.eth ∈ pts) (mroods : Part.roods ∈ pts) (mdescs : Part.descs ∈ pts) (mstks : Part.stks ∈ pts) (mstreams : Part.streams ∈ pts) (mslots : Part.slots ∈ pts) (mrequests : Part.requests ∈ pts) (mfreeCtr : Part.freeCtr ∈ pts) : AnswerSame pts st0 (execRegister q msg s) := by
  delta execRegister
  repeat' first
    | (with_reducible assumption)
    | lift_lets
    | (with_reducible apply registerRegion_same)
    | split
    | (with_reducible apply AnswerSame.next)

theorem execDeregister_same {pts : List Part} {st0 : State} (q : Nat) (msg : List Byte) (s : State) (hs : Agrees pts st0 s) (mevents : Part.events ∈ pts) (meth : Part.eth ∈ pts) (mroods : Part.roods ∈ pts) (mdescs : Part.descs ∈ pts) (mstks : Part.stks ∈ pts) (mstreams : Part.streams ∈ pts) (mslots : Part.slots ∈ pts) (mrequests : Part.requests ∈ pts) (mfreeCtr : Part.freeCtr ∈ pts) : AnswerSame pts st0 (execDeregister q msg s) := by
  delta execDeregister
  repeat' first
    | (with_reducible assumption)
    | lift_lets
    | (with_reducible apply deregisterRegion_same)
    | split
    | (with_reducible apply AnswerSame.next)

theorem execRequestDeadline_same {pts : List Part} {st0 : State} (h : Nat) (s : State) (hs : Agrees pts st0 s) (mrequests : Part.requests ∈ pts) : AnswerSame pts st0 (execRequestDeadline h s) := by
  delta execRequestDeadline
  repeat' first
    | (with_reducible assumption)
    | lift_lets
    | (with_reducible apply requestLate_same)
    | (with_reducible apply AnswerSame.next)

theorem execVerdict_same {pts : List Part} {st0 : State} (h : Nat) (data : List Byte) (s : State) (hs : Agrees pts st0 s) (meth : Part.eth ∈ pts) (mroods : Part.roods ∈ pts) (mstks : Part.stks ∈ pts) (mslots : Part.slots ∈ pts) (mrequests : Part.requests ∈ pts) : AnswerSame pts st0 (execVerdict h data s) := by
  delta execVerdict
  repeat' first
    | (with_reducible assumption)
    | lift_lets
    | (with_reducible apply giveVerdict_same)
    | (with_reducible apply AnswerSame.next)

theorem execAckReceive_same {pts : List Part} {st0 : State} (q psn : Nat) (s : State) (hs : Agrees pts st0 s) (meth : Part.eth ∈ pts) (mroods : Part.roods ∈ pts) (mstks : Part.stks ∈ pts) (mslots : Part.slots ∈ pts) (mrequests : Part.requests ∈ pts) : AnswerSame pts st0 (execAckReceive q psn s) := by
  delta execAckReceive
  repeat' first
    | (with_reducible assumption)
    | (with_reducible rfl)
    | (with_reducible refine fun _ => ?_)
    | lift_lets
    | (intro x; refine same_cut (w := pts) (s0 := st0) x ?_ ?_; rotate_left; intro _; clear_value x; rotate_left; unfold x)
    | (intro x; refine same_cut_ss (w := pts) (s0 := st0) x ?_ ?_; rotate_left; intro hfun; clear_value x; rotate_left; unfold x)
    | (intro x; refine same_cut_ass (w := pts) (s0 := st0) x ?_ ?_; rotate_left; intro hfun; clear_value x; rotate_left; unfold x)
    | (intro x; refine same_cut_abss (w := pts) (s0 := st0) x ?_ ?_; rotate_left; intro hfun; clear_value x; rotate_left; unfold x)
    | (intro x; refine same_cut_a (w := pts) (s0 := st0) x ?_ ?_; rotate_left; intro hfun; clear_value x; rotate_left; unfold x)
    | (intro x; refine same_cut_ab (w := pts) (s0 := st0) x ?_ ?_; rotate_left; intro hfun; clear_value x; rotate_left; unfold x)
    | (intro x; refine same_cut_abc (w := pts) (s0 := st0) x ?_ ?_; rotate_left; intro hfun; clear_value x; rotate_left; unfold x)
    | (intro x; refine same_cut_o1 (w := pts) (s0 := st0) x ?_ ?_; rotate_left; intro hopt; clear_value x; rotate_left; unfold x)
    | (intro x; refine same_cut_o (w := pts) (s0 := st0) x ?_ ?_; rotate_left; intro hopt; clear_value x; rotate_left; unfold x)
    | (intro x; refine same_cut_fst (w := pts) (s0 := st0) x ?_ ?_; rotate_left; intro _; clear_value x; rotate_left; unfold x)
    | (intro x; refine same_cut_snd (w := pts) (s0 := st0) x ?_ ?_; rotate_left; intro _; clear_value x; rotate_left; unfold x)
    | (intro x; clear_value x)
    | (with_reducible apply qpAck_same)
    | (with_reducible refine hopt _ (by assumption))
    | (with_reducible exact hopt _ rfl)
    | (with_reducible apply hfun)
    | (intro _)
    | split
    | (with_reducible apply AnswerSame.next)
    | (with_reducible apply same_getD)
    | (refine same_mk hs ?_; intro p hp; cases p <;> first | exact rfl | exact absurd (by assumption) hp)
    | (refine same_mk (by assumption) ?_; intro p hp; cases p <;> first | exact rfl | exact absurd (by assumption) hp)
    | (dsimp only)
    | (rename_i he; split at he)
    | (rename_i he; injection he with he; subst he)

theorem execRemoteNak_same {pts : List Part} {st0 : State} (q : Nat) (s : State) (hs : Agrees pts st0 s) (mevents : Part.events ∈ pts) (meth : Part.eth ∈ pts) (mroods : Part.roods ∈ pts) (mdescs : Part.descs ∈ pts) (mstks : Part.stks ∈ pts) (mstreams : Part.streams ∈ pts) (mslots : Part.slots ∈ pts) (mrequests : Part.requests ∈ pts) : AnswerSame pts st0 (execRemoteNak q s) := by
  delta execRemoteNak
  repeat' first
    | (with_reducible assumption)
    | lift_lets
    | (with_reducible apply qpFail_same)
    | (with_reducible apply AnswerSame.next)

theorem execAckTimeout_same {pts : List Part} {st0 : State} (q : Nat) (s : State) (hs : Agrees pts st0 s) (mevents : Part.events ∈ pts) (meth : Part.eth ∈ pts) (mroods : Part.roods ∈ pts) (mdescs : Part.descs ∈ pts) (mstks : Part.stks ∈ pts) (mstreams : Part.streams ∈ pts) (mslots : Part.slots ∈ pts) (mrequests : Part.requests ∈ pts) : AnswerSame pts st0 (execAckTimeout q s) := by
  delta execAckTimeout
  repeat' first
    | (with_reducible assumption)
    | lift_lets
    | (with_reducible apply ackLate_same)
    | (with_reducible apply AnswerSame.next)

theorem execRnrNak_same {pts : List Part} {st0 : State} (q : Nat) (s : State) (hs : Agrees pts st0 s) (mevents : Part.events ∈ pts) (meth : Part.eth ∈ pts) (mroods : Part.roods ∈ pts) (mdescs : Part.descs ∈ pts) (mstks : Part.stks ∈ pts) (mstreams : Part.streams ∈ pts) (mslots : Part.slots ∈ pts) (mrequests : Part.requests ∈ pts) : AnswerSame pts st0 (execRnrNak q s) := by
  delta execRnrNak
  repeat' first
    | (with_reducible assumption)
    | lift_lets
    | (with_reducible apply notReady_same)
    | (with_reducible apply AnswerSame.next)

theorem execCnpReceive_same {pts : List Part} {st0 : State} (q : Nat) (s : State) (hs : Agrees pts st0 s) (meth : Part.eth ∈ pts) : AnswerSame pts st0 (execCnpReceive q s) := by
  delta execCnpReceive
  repeat' first
    | (with_reducible assumption)
    | lift_lets
    | (with_reducible apply slowDown_same)
    | (with_reducible apply AnswerSame.next)

theorem execCnpRateRecover_same {pts : List Part} {st0 : State} (q : Nat) (s : State) (hs : Agrees pts st0 s) (meth : Part.eth ∈ pts) : AnswerSame pts st0 (execCnpRateRecover q s) := by
  delta execCnpRateRecover
  repeat' first
    | (with_reducible assumption)
    | lift_lets
    | (with_reducible apply speedUp_same)
    | (with_reducible apply AnswerSame.next)

theorem execStoreReadResponse_same {pts : List Part} {st0 : State} (x n : Nat) (image : List Byte) (s : State) (hs : Agrees pts st0 s) (mglb : Part.glb ∈ pts) (mevents : Part.events ∈ pts) (meth : Part.eth ∈ pts) (mroods : Part.roods ∈ pts) (mdescs : Part.descs ∈ pts) (mstks : Part.stks ∈ pts) (mstreams : Part.streams ∈ pts) (mflash : Part.flash ∈ pts) (mslots : Part.slots ∈ pts) (mrequests : Part.requests ∈ pts) (mmem : Part.mem ∈ pts) (mbushels : Part.bushels ∈ pts) (mfreeCtr : Part.freeCtr ∈ pts) : AnswerSame pts st0 (execStoreReadResponse x n image s) := by
  delta execStoreReadResponse
  repeat' first
    | (with_reducible assumption)
    | lift_lets
    | (with_reducible apply storeResponse_same)
    | (with_reducible apply AnswerSame.next)

theorem execSettleInterval_same {pts : List Part} {st0 : State} (t : TimeoutTarget) (s : State) (hs : Agrees pts st0 s) (mevents : Part.events ∈ pts) (meth : Part.eth ∈ pts) (mfab : Part.fab ∈ pts) (mroods : Part.roods ∈ pts) (mdescs : Part.descs ∈ pts) (mclusters : Part.clusters ∈ pts) (mstks : Part.stks ∈ pts) (mslots : Part.slots ∈ pts) (mrequests : Part.requests ∈ pts) : AnswerSame pts st0 (execSettleInterval t s) := by
  delta execSettleInterval
  repeat' first
    | (with_reducible assumption)
    | lift_lets
    | (with_reducible apply expireComb_same)
    | (with_reducible apply settleDesc_same)
    | (with_reducible apply settleRequest_same)
    | split
    | (with_reducible apply AnswerSame.next)

end Sys2Proof.Laws
end

