-- ==== Sys2Proof/Laws/TouchRoods.lean ====
section
/-! SUPPORT. Which parts of the state every operation of Machine/Roods.lean may change (Laws/Touch.lean). -/
namespace Sys2Proof.Laws

set_option linter.unusedVariables false

open Sys2Proof.Machine Sys2Proof.Safety

theorem logSec_same {pts : List Part} {st0 : State} (low rood payload : Nat) (s : State) (hs : Agrees pts st0 s) (mevents : Part.events ∈ pts) : Agrees pts st0 (logSec low rood payload s) := by
  delta logSec
  repeat' first
    | (with_reducible assumption)
    | (with_reducible apply logEv_same)

theorem changePstate_same {pts : List Part} {st0 : State} (dst cause : Nat) (s : State) (hs : Agrees pts st0 s) (mevents : Part.events ∈ pts) (mfwc : Part.fwc ∈ pts) : Agrees pts st0 (changePstate dst cause s) := by
  delta changePstate
  repeat' first
    | (with_reducible assumption)
    | lift_lets
    | (with_reducible apply modFwc_same)
    | (with_reducible apply logEv_same)
    | split

theorem setCtl_same {pts : List Part} {st0 : State} (r cmd st : Nat) (s : State) (hs : Agrees pts st0 s) (mroods : Part.roods ∈ pts) : Agrees pts st0 (setCtl r cmd st s) := by
  delta setCtl
  repeat' first
    | (with_reducible assumption)
    | (with_reducible apply modRood_same)

theorem setStatus_same {pts : List Part} {st0 : State} (r st : Nat) (s : State) (hs : Agrees pts st0 s) (mroods : Part.roods ∈ pts) : Agrees pts st0 (setStatus r st s) := by
  delta setStatus
  repeat' first
    | (with_reducible assumption)
    | (with_reducible apply modRood_same)

theorem destroySa_same {pts : List Part} {st0 : State} (i : Nat) (s : State) (hs : Agrees pts st0 s) (mevents : Part.events ∈ pts) (meth : Part.eth ∈ pts) (mroods : Part.roods ∈ pts) (mdescs : Part.descs ∈ pts) (mstks : Part.stks ∈ pts) (mstreams : Part.streams ∈ pts) (mslots : Part.slots ∈ pts) (mrequests : Part.requests ∈ pts) : Agrees pts st0 (destroySa i s) := by
  delta destroySa
  repeat' first
    | (with_reducible assumption)
    | (with_reducible refine fun _ => ?_)
    | lift_lets
    | (intro x; refine same_cut (w := pts) (s0 := st0) x ?_ ?_; rotate_left; intro _; clear_value x; rotate_left; unfold x)
    | (intro x; clear_value x)
    | (with_reducible apply modEth_same)
    | (with_reducible apply forAll_same)
    | (with_reducible apply qpFail_same)
    | (with_reducible apply logSec_same)
    | split

theorem destroySas_same {pts : List Part} {st0 : State} (r : Nat) (s : State) (hs : Agrees pts st0 s) (mevents : Part.events ∈ pts) (meth : Part.eth ∈ pts) (mroods : Part.roods ∈ pts) (mdescs : Part.descs ∈ pts) (mstks : Part.stks ∈ pts) (mstreams : Part.streams ∈ pts) (mslots : Part.slots ∈ pts) (mrequests : Part.requests ∈ pts) : Agrees pts st0 (destroySas r s) := by
  delta destroySas
  repeat' first
    | (with_reducible assumption)
    | (with_reducible refine fun _ => ?_)
    | (with_reducible apply forAll_same)
    | (with_reducible apply destroySa_same)

theorem destroyNs_same {pts : List Part} {st0 : State} (r : Nat) (s : State) (hs : Agrees pts st0 s) (mevents : Part.events ∈ pts) (mroods : Part.roods ∈ pts) (mflash : Part.flash ∈ pts) : Agrees pts st0 (destroyNs r s) := by
  delta destroyNs
  repeat' first
    | (with_reducible assumption)
    | lift_lets
    | (intro x; refine same_cut (w := pts) (s0 := st0) x ?_ ?_; rotate_left; intro _; clear_value x; rotate_left; unfold x)
    | (intro x; clear_value x)
    | (with_reducible apply modRood_same)
    | (with_reducible apply modFlash_same)
    | (with_reducible apply logSec_same)
    | split

theorem sizeNs_same {pts : List Part} {st0 : State} (r size : Nat) (s : State) (hs : Agrees pts st0 s) (mroods : Part.roods ∈ pts) (mflash : Part.flash ∈ pts) : Agrees pts st0 (sizeNs r size s) := by
  delta sizeNs
  repeat' first
    | (with_reducible assumption)
    | lift_lets
    | (intro x; refine same_cut (w := pts) (s0 := st0) x ?_ ?_; rotate_left; intro _; clear_value x; rotate_left; unfold x)
    | (intro x; clear_value x)
    | (with_reducible apply modRood_same)
    | (with_reducible apply modFlash_same)
    | split

theorem releaseCluster_same {pts : List Part} {st0 : State} (r c : Nat) (s : State) (hs : Agrees pts st0 s) (mdescs : Part.descs ∈ pts) (mclusters : Part.clusters ∈ pts) : Agrees pts st0 (releaseCluster r c s) := by
  delta releaseCluster
  repeat' first
    | (with_reducible assumption)
    | (with_reducible rfl)
    | (with_reducible refine fun _ => ?_)
    | lift_lets
    | (intro x; refine same_cut (w := pts) (s0 := st0) x ?_ ?_; rotate_left; intro _; clear_value x; rotate_left; unfold x)
    | (intro x; refine same_cut_ss (w := pts) (s0 := st0) x ?_ ?_; rotate_left; intro hfun; clear_value x; rotate_left; unfold x)
    | (intro x; refine same_cut_ass (w := pts) (s0 := st0) x ?_ ?_; rotate_left; intro hfun; clear_value x; rotate_left; unfold x)
    | (intro x; refine same_cut_abss (w := pts) (s0 := st0) x ?_ ?_; rotate_left; intro hfun; clear_value x; rotate_left; unfold x)
    | (intro x; refine same_cut_a (w := pts) (s0 := st0) x ?_ ?_; rotate_left; intro hfun; clear_value x; rotate_left; unfold x)
    | (intro x; refine same_cut_ab (w := pts) (s0 := st0) x ?_ ?_; rotate_left; intro hfun; clear_value x; rotate_left; unfold x)
    | (intro x; refine same_cut_abc (w := pts) (s0 := st0) x ?_ ?_; rotate_left; intro hfun; clear_value x; rotate_left; unfold x)
    | (intro x; refine same_cut_o1 (w := pts) (s0 := st0) x ?_ ?_; rotate_left; intro hopt; clear_value x; rotate_left; unfold x)
    | (intro x; refine same_cut_o (w := pts) (s0 := st0) x ?_ ?_; rotate_left; intro hopt; clear_value x; rotate_left; unfold x)
    | (intro x; refine same_cut_fst (w := pts) (s0 := st0) x ?_ ?_; rotate_left; intro _; clear_value x; rotate_left; unfold x)
    | (intro x; refine same_cut_snd (w := pts) (s0 := st0) x ?_ ?_; rotate_left; intro _; clear_value x; rotate_left; unfold x)
    | (intro x; clear_value x)
    | (with_reducible apply modCluster_same)
    | (with_reducible apply endWork_same)
    | (with_reducible refine hopt _ (by assumption))
    | (with_reducible exact hopt _ rfl)
    | (with_reducible apply hfun)
    | (intro _)
    | split
    | (with_reducible apply AnswerSame.next)
    | (with_reducible apply same_getD)
    | (refine same_mk hs ?_; intro p hp; cases p <;> first | exact rfl | exact absurd (by assumption) hp)
    | (refine same_mk (by assumption) ?_; intro p hp; cases p <;> first | exact rfl | exact absurd (by assumption) hp)
    | (dsimp only)
    | (rename_i he; split at he)
    | (rename_i he; injection he with he; subst he)

theorem gainCluster_same {pts : List Part} {st0 : State} (r c : Nat) (s : State) (hs : Agrees pts st0 s) (mclusters : Part.clusters ∈ pts) : Agrees pts st0 (gainCluster r c s) := by
  delta gainCluster
  repeat' first
    | (with_reducible assumption)
    | (with_reducible apply modCluster_same)

theorem releaseEngine_same {pts : List Part} {st0 : State} (r t e : Nat) (s : State) (hs : Agrees pts st0 s) (mdescs : Part.descs ∈ pts) (mstks : Part.stks ∈ pts) : Agrees pts st0 (releaseEngine r t e s) := by
  delta releaseEngine
  repeat' first
    | (with_reducible assumption)
    | (with_reducible rfl)
    | (with_reducible refine fun _ => ?_)
    | lift_lets
    | (intro x; refine same_cut (w := pts) (s0 := st0) x ?_ ?_; rotate_left; intro _; clear_value x; rotate_left; unfold x)
    | (intro x; refine same_cut_ss (w := pts) (s0 := st0) x ?_ ?_; rotate_left; intro hfun; clear_value x; rotate_left; unfold x)
    | (intro x; refine same_cut_ass (w := pts) (s0 := st0) x ?_ ?_; rotate_left; intro hfun; clear_value x; rotate_left; unfold x)
    | (intro x; refine same_cut_abss (w := pts) (s0 := st0) x ?_ ?_; rotate_left; intro hfun; clear_value x; rotate_left; unfold x)
    | (intro x; refine same_cut_a (w := pts) (s0 := st0) x ?_ ?_; rotate_left; intro hfun; clear_value x; rotate_left; unfold x)
    | (intro x; refine same_cut_ab (w := pts) (s0 := st0) x ?_ ?_; rotate_left; intro hfun; clear_value x; rotate_left; unfold x)
    | (intro x; refine same_cut_abc (w := pts) (s0 := st0) x ?_ ?_; rotate_left; intro hfun; clear_value x; rotate_left; unfold x)
    | (intro x; refine same_cut_o1 (w := pts) (s0 := st0) x ?_ ?_; rotate_left; intro hopt; clear_value x; rotate_left; unfold x)
    | (intro x; refine same_cut_o (w := pts) (s0 := st0) x ?_ ?_; rotate_left; intro hopt; clear_value x; rotate_left; unfold x)
    | (intro x; refine same_cut_fst (w := pts) (s0 := st0) x ?_ ?_; rotate_left; intro _; clear_value x; rotate_left; unfold x)
    | (intro x; refine same_cut_snd (w := pts) (s0 := st0) x ?_ ?_; rotate_left; intro _; clear_value x; rotate_left; unfold x)
    | (intro x; clear_value x)
    | (with_reducible apply modEngine_same)
    | (with_reducible apply endWork_same)
    | (with_reducible refine hopt _ (by assumption))
    | (with_reducible exact hopt _ rfl)
    | (with_reducible apply hfun)
    | (intro _)
    | split
    | (with_reducible apply AnswerSame.next)
    | (with_reducible apply same_getD)
    | (refine same_mk hs ?_; intro p hp; cases p <;> first | exact rfl | exact absurd (by assumption) hp)
    | (refine same_mk (by assumption) ?_; intro p hp; cases p <;> first | exact rfl | exact absurd (by assumption) hp)
    | (dsimp only)
    | (rename_i he; split at he)
    | (rename_i he; injection he with he; subst he)

theorem gainEngine_same {pts : List Part} {st0 : State} (r t e : Nat) (s : State) (hs : Agrees pts st0 s) (mstks : Part.stks ∈ pts) : Agrees pts st0 (gainEngine r t e s) := by
  delta gainEngine
  repeat' first
    | (with_reducible assumption)
    | (with_reducible apply modEngine_same)

theorem clusterJoins_same {pts : List Part} {st0 : State} (c : Nat) (s : State) (hs : Agrees pts st0 s) (mclusters : Part.clusters ∈ pts) (mstreams : Part.streams ∈ pts) (mmem : Part.mem ∈ pts) : Agrees pts st0 (clusterJoins c s) := by
  delta clusterJoins
  repeat' first
    | (with_reducible assumption)
    | lift_lets
    | (with_reducible apply modCluster_same)
    | (with_reducible apply scrubCluster_same)
    | split

theorem engineJoins_same {pts : List Part} {st0 : State} (t e : Nat) (s : State) (hs : Agrees pts st0 s) (mstks : Part.stks ∈ pts) : Agrees pts st0 (engineJoins t e s) := by
  delta engineJoins
  repeat' first
    | (with_reducible assumption)
    | lift_lets
    | (with_reducible apply modEngine_same)
    | (with_reducible apply scrubEngine_same)
    | split

theorem takeRes_same {pts : List Part} {st0 : State} (r : Nat) (p : Res) (s : State) (hs : Agrees pts st0 s) (mroods : Part.roods ∈ pts) (mdescs : Part.descs ∈ pts) (mclusters : Part.clusters ∈ pts) (mstks : Part.stks ∈ pts) (mflash : Part.flash ∈ pts) : Agrees pts st0 (takeRes r p s) := by
  delta takeRes
  repeat' first
    | (with_reducible assumption)
    | (with_reducible refine fun _ => ?_)
    | lift_lets
    | (intro x; refine same_cut (w := pts) (s0 := st0) x ?_ ?_; rotate_left; intro _; clear_value x; rotate_left; unfold x)
    | (intro x; clear_value x)
    | (with_reducible apply modRood_same)
    | (with_reducible apply forAll_same)
    | (with_reducible apply sizeNs_same)
    | (with_reducible apply releaseCluster_same)
    | (with_reducible apply gainCluster_same)
    | (with_reducible apply releaseEngine_same)
    | (with_reducible apply gainEngine_same)

theorem refuseRes_same {pts : List Part} {st0 : State} (r st : Nat) (s : State) (hs : Agrees pts st0 s) (mevents : Part.events ∈ pts) (mroods : Part.roods ∈ pts) : Agrees pts st0 (refuseRes r st s) := by
  delta refuseRes
  repeat' first
    | (with_reducible assumption)
    | lift_lets
    | (with_reducible apply modRood_same)
    | (with_reducible apply raiseRood_same)
    | (with_reducible apply logSec_same)

theorem createRood_same {pts : List Part} {st0 : State} (r : Nat) (s : State) (hs : Agrees pts st0 s) (mroods : Part.roods ∈ pts) : Agrees pts st0 (createRood r s) := by
  delta createRood
  repeat' first
    | (with_reducible assumption)
    | lift_lets
    | (with_reducible apply modRood_same)
    | (with_reducible apply setCtl_same)
    | split

theorem roodCreated_same {pts : List Part} {st0 : State} (r : Nat) (s : State) (hs : Agrees pts st0 s) (mevents : Part.events ∈ pts) (mroods : Part.roods ∈ pts) (mdescs : Part.descs ∈ pts) (mclusters : Part.clusters ∈ pts) (mstks : Part.stks ∈ pts) (mflash : Part.flash ∈ pts) : Agrees pts st0 (roodCreated r s) := by
  delta roodCreated
  repeat' first
    | (with_reducible assumption)
    | lift_lets
    | (intro x; refine same_cut (w := pts) (s0 := st0) x ?_ ?_; rotate_left; intro _; clear_value x; rotate_left; unfold x)
    | (intro x; clear_value x)
    | (with_reducible apply modRood_same)
    | (with_reducible apply logSec_same)
    | (with_reducible apply setStatus_same)
    | (with_reducible apply takeRes_same)
    | (with_reducible apply refuseRes_same)
    | split

theorem resizeArm_same {pts : List Part} {st0 : State} (r rod : Nat) (s : State) (hs : Agrees pts st0 s) (mroods : Part.roods ∈ pts) : Agrees pts st0 (resizeArm r rod s) := by
  delta resizeArm
  repeat' first
    | (with_reducible assumption)
    | (with_reducible apply modRood_same)
    | split

theorem resizeApplied_same {pts : List Part} {st0 : State} (r : Nat) (s : State) (hs : Agrees pts st0 s) (mevents : Part.events ∈ pts) (mroods : Part.roods ∈ pts) (mdescs : Part.descs ∈ pts) (mclusters : Part.clusters ∈ pts) (mstks : Part.stks ∈ pts) (mflash : Part.flash ∈ pts) : Agrees pts st0 (resizeApplied r s) := by
  delta resizeApplied
  repeat' first
    | (with_reducible assumption)
    | lift_lets
    | (intro x; clear_value x)
    | (with_reducible apply modRood_same)
    | (with_reducible apply logSec_same)
    | (with_reducible apply takeRes_same)
    | (with_reducible apply refuseRes_same)
    | split

theorem endDescs_same {pts : List Part} {st0 : State} (p : Desc → Bool) (st : Desc → Nat) (s : State) (hs : Agrees pts st0 s) (mevents : Part.events ∈ pts) (mfab : Part.fab ∈ pts) (mroods : Part.roods ∈ pts) (mqueues : Part.queues ∈ pts) (mdescs : Part.descs ∈ pts) (mclusters : Part.clusters ∈ pts) (mstks : Part.stks ∈ pts) (mstreams : Part.streams ∈ pts) (mmem : Part.mem ∈ pts) : Agrees pts st0 (endDescs p st s) := by
  delta endDescs
  repeat' first
    | (with_reducible assumption)
    | (with_reducible refine fun _ => ?_)
    | lift_lets
    | (intro x; refine same_cut (w := pts) (s0 := st0) x ?_ ?_; rotate_left; intro _; clear_value x; rotate_left; unfold x)
    | (with_reducible apply forAll_same)
    | (with_reducible apply finish_same)
    | (with_reducible apply completeDesc_same)
    | split

theorem stopRood_same {pts : List Part} {st0 : State} (r : Nat) (remove : Bool) (s : State) (hs : Agrees pts st0 s) (mevents : Part.events ∈ pts) (meth : Part.eth ∈ pts) (mlinks : Part.links ∈ pts) (mfab : Part.fab ∈ pts) (mroods : Part.roods ∈ pts) (mqueues : Part.queues ∈ pts) (mdescs : Part.descs ∈ pts) (mclusters : Part.clusters ∈ pts) (mstks : Part.stks ∈ pts) (mstreams : Part.streams ∈ pts) (mflash : Part.flash ∈ pts) (mslots : Part.slots ∈ pts) (mrequests : Part.requests ∈ pts) (mbinds : Part.binds ∈ pts) (mmem : Part.mem ∈ pts) : Agrees pts st0 (stopRood r remove s) := by
  delta stopRood
  repeat' first
    | (with_reducible assumption)
    | (with_reducible rfl)
    | (with_reducible refine fun _ => ?_)
    | lift_lets
    | (intro x; refine same_cut (w := pts) (s0 := st0) x ?_ ?_; rotate_left; intro _; clear_value x; rotate_left; unfold x)
    | (intro x; refine same_cut_ss (w := pts) (s0 := st0) x ?_ ?_; rotate_left; intro hfun; clear_value x; rotate_left; unfold x)
    | (intro x; refine same_cut_ass (w := pts) (s0 := st0) x ?_ ?_; rotate_left; intro hfun; clear_value x; rotate_left; unfold x)
    | (intro x; refine same_cut_abss (w := pts) (s0 := st0) x ?_ ?_; rotate_left; intro hfun; clear_value x; rotate_left; unfold x)
    | (intro x; refine same_cut_a (w := pts) (s0 := st0) x ?_ ?_; rotate_left; intro hfun; clear_value x; rotate_left; unfold x)
    | (intro x; refine same_cut_ab (w := pts) (s0 := st0) x ?_ ?_; rotate_left; intro hfun; clear_value x; rotate_left; unfold x)
    | (intro x; refine same_cut_abc (w := pts) (s0 := st0) x ?_ ?_; rotate_left; intro hfun; clear_value x; rotate_left; unfold x)
    | (intro x; refine same_cut_o1 (w := pts) (s0 := st0) x ?_ ?_; rotate_left; intro hopt; clear_value x; rotate_left; unfold x)
    | (intro x; refine same_cut_o (w := pts) (s0 := st0) x ?_ ?_; rotate_left; intro hopt; clear_value x; rotate_left; unfold x)
    | (intro x; refine same_cut_fst (w := pts) (s0 := st0) x ?_ ?_; rotate_left; intro _; clear_value x; rotate_left; unfold x)
    | (intro x; refine same_cut_snd (w := pts) (s0 := st0) x ?_ ?_; rotate_left; intro _; clear_value x; rotate_left; unfold x)
    | (intro x; clear_value x)
    | (with_reducible apply modRood_same)
    | (with_reducible apply forAll_same)
    | (with_reducible apply endStream_same)
    | (with_reducible apply resetFabric_same)
    | (with_reducible apply finalReply_same)
    | (with_reducible apply dropRequest_same)
    | (with_reducible apply faultBind_same)
    | (with_reducible apply destroySas_same)
    | (with_reducible apply destroyNs_same)
    | (with_reducible apply endDescs_same)
    | (with_reducible refine hopt _ (by assumption))
    | (with_reducible exact hopt _ rfl)
    | (with_reducible apply hfun)
    | (intro _)
    | split
    | (with_reducible apply AnswerSame.next)
    | (with_reducible apply same_getD)
    | (refine same_mk hs ?_; intro p hp; cases p <;> first | exact rfl | exact absurd (by assumption) hp)
    | (refine same_mk (by assumption) ?_; intro p hp; cases p <;> first | exact rfl | exact absurd (by assumption) hp)
    | (dsimp only)
    | (rename_i he; split at he)
    | (rename_i he; injection he with he; subst he)

theorem scrubBushel_same {pts : List Part} {st0 : State} (a : Nat) (s : State) (hs : Agrees pts st0 s) (mmem : Part.mem ∈ pts) (mbushels : Part.bushels ∈ pts) : Agrees pts st0 (scrubBushel a s) := by
  delta scrubBushel
  repeat' first
    | (with_reducible assumption)
    | lift_lets
    | (with_reducible apply zeroMem_same)
    | (refine same_mk hs ?_; intro p hp; cases p <;> first | exact rfl | exact absurd (by assumption) hp)

theorem scrubRood_same {pts : List Part} {st0 : State} (r : Nat) (s : State) (hs : Agrees pts st0 s) (meth : Part.eth ∈ pts) (mroods : Part.roods ∈ pts) (mslices : Part.slices ∈ pts) (mclusters : Part.clusters ∈ pts) (mstks : Part.stks ∈ pts) (mstreams : Part.streams ∈ pts) (mmem : Part.mem ∈ pts) (mbushels : Part.bushels ∈ pts) : Agrees pts st0 (scrubRood r s) := by
  delta scrubRood
  repeat' first
    | (with_reducible assumption)
    | (with_reducible refine fun _ => ?_)
    | lift_lets
    | (intro x; refine same_cut (w := pts) (s0 := st0) x ?_ ?_; rotate_left; intro _; clear_value x; rotate_left; unfold x)
    | (with_reducible apply modRood_same)
    | (with_reducible apply modCluster_same)
    | (with_reducible apply modEngine_same)
    | (with_reducible apply modEth_same)
    | (with_reducible apply forAll_same)
    | (with_reducible apply zeroMem_same)
    | (with_reducible apply scrubCluster_same)
    | (with_reducible apply scrubEngine_same)
    | (with_reducible apply scrubBushel_same)
    | (refine same_mk (by assumption) ?_; intro p hp; cases p <;> first | exact rfl | exact absurd (by assumption) hp)

theorem beginReset_same {pts : List Part} {st0 : State} (r : Nat) (remove : Bool) (s : State) (hs : Agrees pts st0 s) (mevents : Part.events ∈ pts) (mfwc : Part.fwc ∈ pts) (meth : Part.eth ∈ pts) (mlinks : Part.links ∈ pts) (mfab : Part.fab ∈ pts) (mroods : Part.roods ∈ pts) (mslices : Part.slices ∈ pts) (mqueues : Part.queues ∈ pts) (mdescs : Part.descs ∈ pts) (mclusters : Part.clusters ∈ pts) (mstks : Part.stks ∈ pts) (mstreams : Part.streams ∈ pts) (mflash : Part.flash ∈ pts) (mslots : Part.slots ∈ pts) (mrequests : Part.requests ∈ pts) (mbinds : Part.binds ∈ pts) (mmem : Part.mem ∈ pts) (mbushels : Part.bushels ∈ pts) : Agrees pts st0 (beginReset r remove s) := by
  delta beginReset
  repeat' first
    | (with_reducible assumption)
    | lift_lets
    | (intro x; refine same_cut (w := pts) (s0 := st0) x ?_ ?_; rotate_left; intro _; clear_value x; rotate_left; unfold x)
    | (with_reducible apply modFwc_same)
    | (with_reducible apply changePstate_same)
    | (with_reducible apply setCtl_same)
    | (with_reducible apply stopRood_same)
    | (with_reducible apply scrubRood_same)
    | split

theorem resetRood_same {pts : List Part} {st0 : State} (r : Nat) (s : State) (hs : Agrees pts st0 s) (mevents : Part.events ∈ pts) (mfwc : Part.fwc ∈ pts) (meth : Part.eth ∈ pts) (mlinks : Part.links ∈ pts) (mfab : Part.fab ∈ pts) (mroods : Part.roods ∈ pts) (mslices : Part.slices ∈ pts) (mqueues : Part.queues ∈ pts) (mdescs : Part.descs ∈ pts) (mclusters : Part.clusters ∈ pts) (mstks : Part.stks ∈ pts) (mstreams : Part.streams ∈ pts) (mflash : Part.flash ∈ pts) (mslots : Part.slots ∈ pts) (mrequests : Part.requests ∈ pts) (mbinds : Part.binds ∈ pts) (mmem : Part.mem ∈ pts) (mbushels : Part.bushels ∈ pts) : Agrees pts st0 (resetRood r s) := by
  delta resetRood
  repeat' first
    | (with_reducible assumption)
    | (with_reducible apply setCtl_same)
    | (with_reducible apply beginReset_same)
    | split

theorem removeRood_same {pts : List Part} {st0 : State} (r : Nat) (s : State) (hs : Agrees pts st0 s) (mevents : Part.events ∈ pts) (mfwc : Part.fwc ∈ pts) (meth : Part.eth ∈ pts) (mlinks : Part.links ∈ pts) (mfab : Part.fab ∈ pts) (mroods : Part.roods ∈ pts) (mslices : Part.slices ∈ pts) (mqueues : Part.queues ∈ pts) (mdescs : Part.descs ∈ pts) (mclusters : Part.clusters ∈ pts) (mstks : Part.stks ∈ pts) (mstreams : Part.streams ∈ pts) (mflash : Part.flash ∈ pts) (mslots : Part.slots ∈ pts) (mrequests : Part.requests ∈ pts) (mbinds : Part.binds ∈ pts) (mmem : Part.mem ∈ pts) (mbushels : Part.bushels ∈ pts) : Agrees pts st0 (removeRood r s) := by
  delta removeRood
  repeat' first
    | (with_reducible assumption)
    | lift_lets
    | (with_reducible apply modRood_same)
    | (with_reducible apply setCtl_same)
    | (with_reducible apply beginReset_same)
    | split

theorem dropRegion_same {pts : List Part} {st0 : State} (t n : Nat) (s : State) (hs : Agrees pts st0 s) (mstks : Part.stks ∈ pts) (mmem : Part.mem ∈ pts) (mbushels : Part.bushels ∈ pts) : Agrees pts st0 (dropRegion t n s) := by
  delta dropRegion
  repeat' first
    | (with_reducible assumption)
    | lift_lets
    | (intro x; refine same_cut (w := pts) (s0 := st0) x ?_ ?_; rotate_left; intro _; clear_value x; rotate_left; unfold x)
    | (intro x; clear_value x)
    | (with_reducible apply modStack_same)
    | (with_reducible apply zeroMem_same)
    | split
    | (refine same_mk (by assumption) ?_; intro p hp; cases p <;> first | exact rfl | exact absurd (by assumption) hp)

theorem returnAll_same {pts : List Part} {st0 : State} (r : Nat) (s : State) (hs : Agrees pts st0 s) (mslices : Part.slices ∈ pts) (mqueues : Part.queues ∈ pts) (mclusters : Part.clusters ∈ pts) (mstks : Part.stks ∈ pts) (mstreams : Part.streams ∈ pts) (mflash : Part.flash ∈ pts) (mslots : Part.slots ∈ pts) (mcache : Part.cache ∈ pts) (mbinds : Part.binds ∈ pts) (mmem : Part.mem ∈ pts) (mbushels : Part.bushels ∈ pts) : Agrees pts st0 (returnAll r s) := by
  delta returnAll
  repeat' first
    | (with_reducible assumption)
    | (with_reducible refine fun _ => ?_)
    | lift_lets
    | (intro x; refine same_cut (w := pts) (s0 := st0) x ?_ ?_; rotate_left; intro _; clear_value x; rotate_left; unfold x)
    | (intro x; clear_value x)
    | (with_reducible apply modFlash_same)
    | (with_reducible apply modStreams_same)
    | (with_reducible apply forAll_same)
    | (with_reducible apply dropRegion_same)
    | (refine same_mk hs ?_; intro p hp; cases p <;> first | exact rfl | exact absurd (by assumption) hp)
    | (refine same_mk (by assumption) ?_; intro p hp; cases p <;> first | exact rfl | exact absurd (by assumption) hp)

theorem resetDone_same {pts : List Part} {st0 : State} (r : Nat) (s : State) (hs : Agrees pts st0 s) (mevents : Part.events ∈ pts) (mfwc : Part.fwc ∈ pts) (meth : Part.eth ∈ pts) (mlinks : Part.links ∈ pts) (mfab : Part.fab ∈ pts) (mroods : Part.roods ∈ pts) (mslices : Part.slices ∈ pts) (mqueues : Part.queues ∈ pts) (mdescs : Part.descs ∈ pts) (mclusters : Part.clusters ∈ pts) (mstks : Part.stks ∈ pts) (mstreams : Part.streams ∈ pts) (mflash : Part.flash ∈ pts) (mslots : Part.slots ∈ pts) (mcache : Part.cache ∈ pts) (mrequests : Part.requests ∈ pts) (mbinds : Part.binds ∈ pts) (mmem : Part.mem ∈ pts) (mbushels : Part.bushels ∈ pts) : Agrees pts st0 (resetDone r s) := by
  delta resetDone
  repeat' first
    | (with_reducible assumption)
    | lift_lets
    | (intro x; refine same_cut (w := pts) (s0 := st0) x ?_ ?_; rotate_left; intro _; clear_value x; rotate_left; unfold x)
    | (intro x; clear_value x)
    | (with_reducible apply modRood_same)
    | (with_reducible apply modFwc_same)
    | (with_reducible apply raiseRood_same)
    | (with_reducible apply logSec_same)
    | (with_reducible apply changePstate_same)
    | (with_reducible apply beginReset_same)
    | (with_reducible apply returnAll_same)
    | split

theorem putQueue_same {pts : List Part} {st0 : State} (i : Nat) (n : Queue) (s : State) (hs : Agrees pts st0 s) (mqueues : Part.queues ∈ pts) : Agrees pts st0 (putQueue i n s) := by
  delta putQueue
  repeat' first
    | (with_reducible assumption)
    | (with_reducible rfl)
    | (with_reducible refine fun _ => ?_)
    | lift_lets
    | (intro x; refine same_cut (w := pts) (s0 := st0) x ?_ ?_; rotate_left; intro _; clear_value x; rotate_left; unfold x)
    | (intro x; refine same_cut_ss (w := pts) (s0 := st0) x ?_ ?_; rotate_left; intro hfun; clear_value x; rotate_left; unfold x)
    | (intro x; refine same_cut_ass (w := pts) (s0 := st0) x ?_ ?_; rotate_left; intro hfun; clear_value x; rotate_left; unfold x)
    | (intro x; refine same_cut_abss (w := pts) (s0 := st0) x ?_ ?_; rotate_left; intro hfun; clear_value x; rotate_left; unfold x)
    | (intro x; refine same_cut_a (w := pts) (s0 := st0) x ?_ ?_; rotate_left; intro hfun; clear_value x; rotate_left; unfold x)
    | (intro x; refine same_cut_ab (w := pts) (s0 := st0) x ?_ ?_; rotate_left; intro hfun; clear_value x; rotate_left; unfold x)
    | (intro x; refine same_cut_abc (w := pts) (s0 := st0) x ?_ ?_; rotate_left; intro hfun; clear_value x; rotate_left; unfold x)
    | (intro x; refine same_cut_o1 (w := pts) (s0 := st0) x ?_ ?_; rotate_left; intro hopt; clear_value x; rotate_left; unfold x)
    | (intro x; refine same_cut_o (w := pts) (s0 := st0) x ?_ ?_; rotate_left; intro hopt; clear_value x; rotate_left; unfold x)
    | (intro x; refine same_cut_fst (w := pts) (s0 := st0) x ?_ ?_; rotate_left; intro _; clear_value x; rotate_left; unfold x)
    | (intro x; refine same_cut_snd (w := pts) (s0 := st0) x ?_ ?_; rotate_left; intro _; clear_value x; rotate_left; unfold x)
    | (intro x; clear_value x)
    | (with_reducible refine hopt _ (by assumption))
    | (with_reducible exact hopt _ rfl)
    | (with_reducible apply hfun)
    | (intro _)
    | split
    | (with_reducible apply AnswerSame.next)
    | (with_reducible apply same_getD)
    | (refine same_mk hs ?_; intro p hp; cases p <;> first | exact rfl | exact absurd (by assumption) hp)
    | (refine same_mk (by assumption) ?_; intro p hp; cases p <;> first | exact rfl | exact absurd (by assumption) hp)
    | (dsimp only)
    | (rename_i he; split at he)
    | (rename_i he; injection he with he; subst he)

theorem tblDone_same {pts : List Part} {st0 : State} (r op tbl idx st : Nat) (s : State) (hs : Agrees pts st0 s) (mroods : Part.roods ∈ pts) : Agrees pts st0 (tblDone r op tbl idx st s) := by
  delta tblDone
  repeat' first
    | (with_reducible assumption)
    | (with_reducible apply modRood_same)

theorem onTable_same {pts : List Part} {st0 : State} (r op tbl idx : Nat) (f : Rood → State → Nat × State) (s : State) (hs : Agrees pts st0 s) (hf : ∀ x0 x1, Agrees pts st0 x1 → Agrees pts st0 (f x0 x1).2) (mroods : Part.roods ∈ pts) : Agrees pts st0 (onTable r op tbl idx f s) := by
  delta onTable
  repeat' first
    | (with_reducible assumption)
    | (with_reducible apply hf)
    | (with_reducible apply tblDone_same)
    | split

theorem tableRead_same {pts : List Part} {st0 : State} (r tbl idx : Nat) (s : State) (hs : Agrees pts st0 s) (mroods : Part.roods ∈ pts) : Agrees pts st0 (tableRead r tbl idx s) := by
  delta tableRead
  repeat' first
    | (with_reducible assumption)
    | (with_reducible refine fun _ => ?_)
    | (with_reducible apply modRood_same)
    | (with_reducible apply onTable_same)
    | split

theorem tableWrite_same {pts : List Part} {st0 : State} (r tbl idx : Nat) (s : State) (hs : Agrees pts st0 s) (mglb : Part.glb ∈ pts) (mevents : Part.events ∈ pts) (mroods : Part.roods ∈ pts) (mslices : Part.slices ∈ pts) (mqueues : Part.queues ∈ pts) (mstks : Part.stks ∈ pts) : Agrees pts st0 (tableWrite r tbl idx s) := by
  delta tableWrite
  repeat' first
    | (with_reducible assumption)
    | (with_reducible rfl)
    | (with_reducible refine fun _ => ?_)
    | lift_lets
    | (intro x; refine same_cut (w := pts) (s0 := st0) x ?_ ?_; rotate_left; intro _; clear_value x; rotate_left; unfold x)
    | (intro x; refine same_cut_ss (w := pts) (s0 := st0) x ?_ ?_; rotate_left; intro hfun; clear_value x; rotate_left; unfold x)
    | (intro x; refine same_cut_ass (w := pts) (s0 := st0) x ?_ ?_; rotate_left; intro hfun; clear_value x; rotate_left; unfold x)
    | (intro x; refine same_cut_abss (w := pts) (s0 := st0) x ?_ ?_; rotate_left; intro hfun; clear_value x; rotate_left; unfold x)
    | (intro x; refine same_cut_a (w := pts) (s0 := st0) x ?_ ?_; rotate_left; intro hfun; clear_value x; rotate_left; unfold x)
    | (intro x; refine same_cut_ab (w := pts) (s0 := st0) x ?_ ?_; rotate_left; intro hfun; clear_value x; rotate_left; unfold x)
    | (intro x; refine same_cut_abc (w := pts) (s0 := st0) x ?_ ?_; rotate_left; intro hfun; clear_value x; rotate_left; unfold x)
    | (intro x; refine same_cut_o1 (w := pts) (s0 := st0) x ?_ ?_; rotate_left; intro hopt; clear_value x; rotate_left; unfold x)
    | (intro x; refine same_cut_o (w := pts) (s0 := st0) x ?_ ?_; rotate_left; intro hopt; clear_value x; rotate_left; unfold x)
    | (intro x; refine same_cut_fst (w := pts) (s0 := st0) x ?_ ?_; rotate_left; intro _; clear_value x; rotate_left; unfold x)
    | (intro x; refine same_cut_snd (w := pts) (s0 := st0) x ?_ ?_; rotate_left; intro _; clear_value x; rotate_left; unfold x)
    | (intro x; clear_value x)
    | (with_reducible apply modRood_same)
    | (with_reducible apply modStack_same)
    | (with_reducible apply logUncovered_same)
    | (with_reducible apply putQueue_same)
    | (with_reducible apply onTable_same)
    | (with_reducible refine hopt _ (by assumption))
    | (with_reducible exact hopt _ rfl)
    | (with_reducible apply hfun)
    | (intro _)
    | split
    | (with_reducible apply AnswerSame.next)
    | (with_reducible apply same_getD)
    | (refine same_mk hs ?_; intro p hp; cases p <;> first | exact rfl | exact absurd (by assumption) hp)
    | (refine same_mk (by assumption) ?_; intro p hp; cases p <;> first | exact rfl | exact absurd (by assumption) hp)
    | (dsimp only)
    | (rename_i he; split at he)
    | (rename_i he; injection he with he; subst he)

theorem tableDelete_same {pts : List Part} {st0 : State} (r tbl idx : Nat) (s : State) (hs : Agrees pts st0 s) (mroods : Part.roods ∈ pts) (mslices : Part.slices ∈ pts) (mqueues : Part.queues ∈ pts) (mstks : Part.stks ∈ pts) (mmem : Part.mem ∈ pts) (mbushels : Part.bushels ∈ pts) : Agrees pts st0 (tableDelete r tbl idx s) := by
  delta tableDelete
  repeat' first
    | (with_reducible assumption)
    | (with_reducible refine fun _ => ?_)
    | lift_lets
    | (intro x; clear_value x)
    | (with_reducible apply modRood_same)
    | (with_reducible apply dropRegion_same)
    | (with_reducible apply onTable_same)
    | split
    | (refine same_mk (by assumption) ?_; intro p hp; cases p <;> first | exact rfl | exact absurd (by assumption) hp)

theorem execCreate_same {pts : List Part} {st0 : State} (r : Nat) (s : State) (hs : Agrees pts st0 s) (mroods : Part.roods ∈ pts) : AnswerSame pts st0 (execCreate r s) := by
  delta execCreate
  repeat' first
    | (with_reducible assumption)
    | lift_lets
    | (with_reducible apply createRood_same)
    | (with_reducible apply AnswerSame.next)

theorem execRoodCreated_same {pts : List Part} {st0 : State} (r : Nat) (s : State) (hs : Agrees pts st0 s) (mevents : Part.events ∈ pts) (mroods : Part.roods ∈ pts) (mdescs : Part.descs ∈ pts) (mclusters : Part.clusters ∈ pts) (mstks : Part.stks ∈ pts) (mflash : Part.flash ∈ pts) : AnswerSame pts st0 (execRoodCreated r s) := by
  delta execRoodCreated
  repeat' first
    | (with_reducible assumption)
    | lift_lets
    | (with_reducible apply roodCreated_same)
    | (with_reducible apply AnswerSame.next)

theorem execReset_same {pts : List Part} {st0 : State} (r : Nat) (s : State) (hs : Agrees pts st0 s) (mevents : Part.events ∈ pts) (mfwc : Part.fwc ∈ pts) (meth : Part.eth ∈ pts) (mlinks : Part.links ∈ pts) (mfab : Part.fab ∈ pts) (mroods : Part.roods ∈ pts) (mslices : Part.slices ∈ pts) (mqueues : Part.queues ∈ pts) (mdescs : Part.descs ∈ pts) (mclusters : Part.clusters ∈ pts) (mstks : Part.stks ∈ pts) (mstreams : Part.streams ∈ pts) (mflash : Part.flash ∈ pts) (mslots : Part.slots ∈ pts) (mrequests : Part.requests ∈ pts) (mbinds : Part.binds ∈ pts) (mmem : Part.mem ∈ pts) (mbushels : Part.bushels ∈ pts) : AnswerSame pts st0 (execReset r s) := by
  delta execReset
  repeat' first
    | (with_reducible assumption)
    | lift_lets
    | (with_reducible apply resetRood_same)
    | (with_reducible apply AnswerSame.next)

theorem execRemove_same {pts : List Part} {st0 : State} (r : Nat) (s : State) (hs : Agrees pts st0 s) (mevents : Part.events ∈ pts) (mfwc : Part.fwc ∈ pts) (meth : Part.eth ∈ pts) (mlinks : Part.links ∈ pts) (mfab : Part.fab ∈ pts) (mroods : Part.roods ∈ pts) (mslices : Part.slices ∈ pts) (mqueues : Part.queues ∈ pts) (mdescs : Part.descs ∈ pts) (mclusters : Part.clusters ∈ pts) (mstks : Part.stks ∈ pts) (mstreams : Part.streams ∈ pts) (mflash : Part.flash ∈ pts) (mslots : Part.slots ∈ pts) (mrequests : Part.requests ∈ pts) (mbinds : Part.binds ∈ pts) (mmem : Part.mem ∈ pts) (mbushels : Part.bushels ∈ pts) : AnswerSame pts st0 (execRemove r s) := by
  delta execRemove
  repeat' first
    | (with_reducible assumption)
    | lift_lets
    | (with_reducible apply removeRood_same)
    | (with_reducible apply AnswerSame.next)

theorem execRoodResetDone_same {pts : List Part} {st0 : State} (r : Nat) (s : State) (hs : Agrees pts st0 s) (mevents : Part.events ∈ pts) (mfwc : Part.fwc ∈ pts) (meth : Part.eth ∈ pts) (mlinks : Part.links ∈ pts) (mfab : Part.fab ∈ pts) (mroods : Part.roods ∈ pts) (mslices : Part.slices ∈ pts) (mqueues : Part.queues ∈ pts) (mdescs : Part.descs ∈ pts) (mclusters : Part.clusters ∈ pts) (mstks : Part.stks ∈ pts) (mstreams : Part.streams ∈ pts) (mflash : Part.flash ∈ pts) (mslots : Part.slots ∈ pts) (mcache : Part.cache ∈ pts) (mrequests : Part.requests ∈ pts) (mbinds : Part.binds ∈ pts) (mmem : Part.mem ∈ pts) (mbushels : Part.bushels ∈ pts) : AnswerSame pts st0 (execRoodResetDone r s) := by
  delta execRoodResetDone
  repeat' first
    | (with_reducible assumption)
    | lift_lets
    | (with_reducible apply resetDone_same)
    | (with_reducible apply AnswerSame.next)

theorem execRoodResizeApply_same {pts : List Part} {st0 : State} (r rod : Nat) (s : State) (hs : Agrees pts st0 s) (mroods : Part.roods ∈ pts) : AnswerSame pts st0 (execRoodResizeApply r rod s) := by
  delta execRoodResizeApply
  repeat' first
    | (with_reducible assumption)
    | lift_lets
    | (with_reducible apply resizeArm_same)
    | (with_reducible apply AnswerSame.next)

theorem execResizeApplied_same {pts : List Part} {st0 : State} (r : Nat) (s : State) (hs : Agrees pts st0 s) (mevents : Part.events ∈ pts) (mroods : Part.roods ∈ pts) (mdescs : Part.descs ∈ pts) (mclusters : Part.clusters ∈ pts) (mstks : Part.stks ∈ pts) (mflash : Part.flash ∈ pts) : AnswerSame pts st0 (execResizeApplied r s) := by
  delta execResizeApplied
  repeat' first
    | (with_reducible assumption)
    | lift_lets
    | (with_reducible apply resizeApplied_same)
    | (with_reducible apply AnswerSame.next)

theorem execUnitJoinsRood_same {pts : List Part} {st0 : State} (u : FailUnit) (s : State) (hs : Agrees pts st0 s) (mclusters : Part.clusters ∈ pts) (mstks : Part.stks ∈ pts) (mstreams : Part.streams ∈ pts) (mmem : Part.mem ∈ pts) : AnswerSame pts st0 (execUnitJoinsRood u s) := by
  delta execUnitJoinsRood
  repeat' first
    | (with_reducible assumption)
    | lift_lets
    | (with_reducible apply clusterJoins_same)
    | (with_reducible apply engineJoins_same)
    | split
    | (with_reducible apply AnswerSame.next)

theorem execTableRead_same {pts : List Part} {st0 : State} (r tbl idx : Nat) (s : State) (hs : Agrees pts st0 s) (mroods : Part.roods ∈ pts) : AnswerSame pts st0 (execTableRead r tbl idx s) := by
  delta execTableRead
  repeat' first
    | (with_reducible assumption)
    | lift_lets
    | (with_reducible apply tableRead_same)
    | (with_reducible apply AnswerSame.next)

theorem execTableWrite_same {pts : List Part} {st0 : State} (r tbl idx : Nat) (s : State) (hs : Agrees pts st0 s) (mglb : Part.glb ∈ pts) (mevents : Part.events ∈ pts) (mroods : Part.roods ∈ pts) (mslices : Part.slices ∈ pts) (mqueues : Part.queues ∈ pts) (mstks : Part.stks ∈ pts) : AnswerSame pts st0 (execTableWrite r tbl idx s) := by
  delta execTableWrite
  repeat' first
    | (with_reducible assumption)
    | lift_lets
    | (with_reducible apply tableWrite_same)
    | (with_reducible apply AnswerSame.next)

theorem execTableDelete_same {pts : List Part} {st0 : State} (r tbl idx : Nat) (s : State) (hs : Agrees pts st0 s) (mroods : Part.roods ∈ pts) (mslices : Part.slices ∈ pts) (mqueues : Part.queues ∈ pts) (mstks : Part.stks ∈ pts) (mmem : Part.mem ∈ pts) (mbushels : Part.bushels ∈ pts) : AnswerSame pts st0 (execTableDelete r tbl idx s) := by
  delta execTableDelete
  repeat' first
    | (with_reducible assumption)
    | lift_lets
    | (with_reducible apply tableDelete_same)
    | (with_reducible apply AnswerSame.next)

end Sys2Proof.Laws
end

