-- ==== Sys2Proof/Laws/TouchImage.lean ====
section
/-! SUPPORT. Which parts of the state every operation of Machine/Image.lean may change (Laws/Touch.lean). -/
namespace Sys2Proof.Laws

set_option linter.unusedVariables false

open Sys2Proof.Machine Sys2Proof.Safety

theorem norWr_same {pts : List Part} {st0 : State} (a : Nat) (bs : List Byte) (s : State) (hs : Agrees pts st0 s) (mnor : Part.nor ∈ pts) : Agrees pts st0 (norWr a bs s) := by
  delta norWr
  repeat' first
    | (refine same_mk hs ?_; intro p hp; cases p <;> first | exact rfl | exact absurd (by assumption) hp)

theorem commitHeader_same {pts : List Part} {st0 : State} (bs : List Byte) (s : State) (hs : Agrees pts st0 s) (mnor : Part.nor ∈ pts) : Agrees pts st0 (commitHeader bs s) := by
  delta commitHeader
  repeat' first
    | (with_reducible assumption)
    | lift_lets
    | (intro x; clear_value x)
    | (with_reducible apply norWr_same)

theorem commitSlots_same {pts : List Part} {st0 : State} (active staged states : Nat) (s : State) (hs : Agrees pts st0 s) (mnor : Part.nor ∈ pts) : Agrees pts st0 (commitSlots active staged states s) := by
  delta commitSlots
  repeat' first
    | (with_reducible assumption)
    | (with_reducible apply commitHeader_same)
    | split

end Sys2Proof.Laws
end

