-- ==== Sys2Proof/Laws/TouchKeys.lean ====
section
/-! SUPPORT. Which parts of the state every operation of Machine/Keys.lean may change (Laws/Touch.lean). -/
namespace Sys2Proof.Laws

set_option linter.unusedVariables false

open Sys2Proof.Machine Sys2Proof.Safety

theorem authFailed_same {pts : List Part} {st0 : State} (subject : Nat) (s : State) (hs : Agrees pts st0 s) (mevents : Part.events ∈ pts) (msec : Part.sec ∈ pts) : Agrees pts st0 (authFailed subject s) := by
  delta authFailed
  repeat' first
    | (with_reducible assumption)
    | lift_lets
    | (with_reducible apply raiseSec_same)
    | (with_reducible apply logSec_same)

theorem loadSa_same {pts : List Part} {st0 : State} (inbound : Bool) (r i spi : Nat) (key : List Byte) (s : State) (hs : Agrees pts st0 s) (meth : Part.eth ∈ pts) : Agrees pts st0 (loadSa inbound r i spi key s).2 := by
  delta loadSa
  repeat' first
    | (with_reducible assumption)
    | lift_lets
    | (intro x; clear_value x)
    | (with_reducible apply modEth_same)
    | split

theorem loadSa_same_eq {pts : List Part} {st0 : State} (inbound : Bool) (r i spi : Nat) (key : List Byte) (s : State) {tOut : State} {outv : _} (hs : Agrees pts st0 s) (meth : Part.eth ∈ pts) (e : loadSa inbound r i spi key s = (outv, tOut)) : Agrees pts st0 tOut := by
  have := loadSa_same (pts := pts) (st0 := st0) inbound r i spi key s hs meth
  rw [e] at this; exact this

theorem actBlob_same {pts : List Part} {st0 : State} (b key : List Byte) (s : State) (hs : Agrees pts st0 s) (mevents : Part.events ∈ pts) (meth : Part.eth ∈ pts) (mroods : Part.roods ∈ pts) (mdescs : Part.descs ∈ pts) (mstks : Part.stks ∈ pts) (mstreams : Part.streams ∈ pts) (mflash : Part.flash ∈ pts) (mslots : Part.slots ∈ pts) (mrequests : Part.requests ∈ pts) : Agrees pts st0 (actBlob b key s).2 := by
  delta actBlob
  repeat' first
    | (with_reducible assumption)
    | lift_lets
    | (intro x; clear_value x)
    | (with_reducible apply modRood_same)
    | (with_reducible apply destroySa_same)
    | (with_reducible apply destroyNs_same)
    | (with_reducible apply loadSa_same)
    | split

theorem actBlob_same_eq {pts : List Part} {st0 : State} (b key : List Byte) (s : State) {tOut : State} {outv : _} (hs : Agrees pts st0 s) (mevents : Part.events ∈ pts) (meth : Part.eth ∈ pts) (mroods : Part.roods ∈ pts) (mdescs : Part.descs ∈ pts) (mstks : Part.stks ∈ pts) (mstreams : Part.streams ∈ pts) (mflash : Part.flash ∈ pts) (mslots : Part.slots ∈ pts) (mrequests : Part.requests ∈ pts) (e : actBlob b key s = (outv, tOut)) : Agrees pts st0 tOut := by
  have := actBlob_same (pts := pts) (st0 := st0) b key s hs mevents meth mroods mdescs mstks mstreams mflash mslots mrequests
  rw [e] at this; exact this

theorem logLoaded_same {pts : List Part} {st0 : State} (b : List Byte) (s : State) (hs : Agrees pts st0 s) (mevents : Part.events ∈ pts) : Agrees pts st0 (logLoaded b s) := by
  delta logLoaded
  repeat' first
    | (with_reducible assumption)
    | (with_reducible apply logSec_same)
    | split

theorem blobRefused_same {pts : List Part} {st0 : State} (b : List Byte) (st : Nat) (s : State) (hs : Agrees pts st0 s) (mevents : Part.events ∈ pts) (msec : Part.sec ∈ pts) (mroods : Part.roods ∈ pts) : Agrees pts st0 (blobRefused b st s) := by
  delta blobRefused
  repeat' first
    | (with_reducible assumption)
    | lift_lets
    | (intro x; refine same_cut (w := pts) (s0 := st0) x ?_ ?_; rotate_left; intro _; clear_value x; rotate_left; unfold x)
    | (intro x; clear_value x)
    | (with_reducible apply raiseSec_same)
    | (with_reducible apply raiseRood_same)
    | (with_reducible apply logSec_same)
    | split

theorem submitBlob_same {pts : List Part} {st0 : State} (b : List Byte) (s : State) (hs : Agrees pts st0 s) (mevents : Part.events ∈ pts) (msec : Part.sec ∈ pts) (meth : Part.eth ∈ pts) (mroods : Part.roods ∈ pts) (mdescs : Part.descs ∈ pts) (mstks : Part.stks ∈ pts) (mstreams : Part.streams ∈ pts) (mflash : Part.flash ∈ pts) (mslots : Part.slots ∈ pts) (mrequests : Part.requests ∈ pts) : Agrees pts st0 (submitBlob b s) := by
  delta submitBlob
  repeat' first
    | (with_reducible assumption)
    | lift_lets
    | (intro x; refine same_cut (w := pts) (s0 := st0) x ?_ ?_; rotate_left; intro _; clear_value x; rotate_left; unfold x)
    | (with_reducible apply modSec_same)
    | (with_reducible apply modEth_same)
    | (with_reducible apply actBlob_same)
    | (with_reducible apply logLoaded_same)
    | (with_reducible apply blobRefused_same)
    | split

theorem blobOf_same {pts : List Part} {st0 : State} (kind : Nat) (b : List Byte) (s : State) (hs : Agrees pts st0 s) (mevents : Part.events ∈ pts) (msec : Part.sec ∈ pts) (meth : Part.eth ∈ pts) (mroods : Part.roods ∈ pts) (mdescs : Part.descs ∈ pts) (mstks : Part.stks ∈ pts) (mstreams : Part.streams ∈ pts) (mflash : Part.flash ∈ pts) (mslots : Part.slots ∈ pts) (mrequests : Part.requests ∈ pts) : Agrees pts st0 (blobOf kind b s) := by
  delta blobOf
  repeat' first
    | (with_reducible assumption)
    | (with_reducible apply submitBlob_same)
    | split

theorem tombstoneEnds_same {pts : List Part} {st0 : State} (i : Nat) (s : State) (hs : Agrees pts st0 s) (meth : Part.eth ∈ pts) : Agrees pts st0 (tombstoneEnds i s) := by
  delta tombstoneEnds
  repeat' first
    | (with_reducible assumption)
    | (with_reducible apply modEth_same)
    | split

theorem issueReport_same {pts : List Part} {st0 : State} (nonce : List Byte) (binding handoff : Nat) (s : State) (hs : Agrees pts st0 s) (mevents : Part.events ∈ pts) (mfreeCtr : Part.freeCtr ∈ pts) : Agrees pts st0 (issueReport nonce binding handoff s).2 := by
  delta issueReport
  repeat' first
    | (with_reducible assumption)
    | lift_lets
    | (intro x; clear_value x)
    | (with_reducible apply fresh_same)
    | (with_reducible apply logSec_same)

theorem issueReport_same_eq {pts : List Part} {st0 : State} (nonce : List Byte) (binding handoff : Nat) (s : State) {tOut : State} {outv : _} (hs : Agrees pts st0 s) (mevents : Part.events ∈ pts) (mfreeCtr : Part.freeCtr ∈ pts) (e : issueReport nonce binding handoff s = (outv, tOut)) : Agrees pts st0 tOut := by
  have := issueReport_same (pts := pts) (st0 := st0) nonce binding handoff s hs mevents mfreeCtr
  rw [e] at this; exact this

theorem loadPiece_same {pts : List Part} {st0 : State} (object piece : Nat) (bs : List Byte) (s : State) (hs : Agrees pts st0 s) (msec : Part.sec ∈ pts) : Agrees pts st0 (loadPiece object piece bs s) := by
  delta loadPiece
  repeat' first
    | (with_reducible assumption)
    | (with_reducible rfl)
    | (with_reducible refine fun _ => ?_)
    | lift_lets
    | (intro x; refine same_cut (w := pts) (s0 := st0) x ?_ ?_; rotate_left; intro _; clear_value x; rotate_left; unfold x)
    | (intro x; refine same_cut_ss (w := pts) (s0 := st0) x ?_ ?_; rotate_left; intro hfun; clear_value x; rotate_left; unfold x)
    | (intro x; refine same_cut_ass (w := pts) (s0 := st0) x ?_ ?_; rotate_left; intro hfun; clear_value x; rotate_left; unfold x)
    | (intro x; refine same_cut_abss (w := pts) (s0 := st0) x ?_ ?_; rotate_left; intro hfun; clear_value x; rotate_left; unfold x)
    | (intro x; refine same_cut_a (w := pts) (s0 := st0) x ?_ ?_; rotate_left; intro hfun; clear_value x; rotate_left; unfold x)
    | (intro x; refine same_cut_ab (w := pts) (s0 := st0) x ?_ ?_; rotate_left; intro hfun; clear_value x; rotate_left; unfold x)
    | (intro x; refine same_cut_abc (w := pts) (s0 := st0) x ?_ ?_; rotate_left; intro hfun; clear_value x; rotate_left; unfold x)
    | (intro x; refine same_cut_o1 (w := pts) (s0 := st0) x ?_ ?_; rotate_left; intro hopt; clear_value x; rotate_left; unfold x)
    | (intro x; refine same_cut_o (w := pts) (s0 := st0) x ?_ ?_; rotate_left; intro hopt; clear_value x; rotate_left; unfold x)
    | (intro x; refine same_cut_fst (w := pts) (s0 := st0) x ?_ ?_; rotate_left; intro _; clear_value x; rotate_left; unfold x)
    | (intro x; refine same_cut_snd (w := pts) (s0 := st0) x ?_ ?_; rotate_left; intro _; clear_value x; rotate_left; unfold x)
    | (intro x; clear_value x)
    | (with_reducible apply modSec_same)
    | (with_reducible refine hopt _ (by assumption))
    | (with_reducible exact hopt _ rfl)
    | (with_reducible apply hfun)
    | (intro _)
    | split
    | (with_reducible apply AnswerSame.next)
    | (with_reducible apply same_getD)
    | (refine same_mk hs ?_; intro p hp; cases p <;> first | exact rfl | exact absurd (by assumption) hp)
    | (refine same_mk (by assumption) ?_; intro p hp; cases p <;> first | exact rfl | exact absurd (by assumption) hp)
    | (dsimp only)
    | (rename_i he; split at he)
    | (rename_i he; injection he with he; subst he)

theorem issueRequested_same {pts : List Part} {st0 : State} (waited : Bool) (s : State) (hs : Agrees pts st0 s) (mevents : Part.events ∈ pts) (msec : Part.sec ∈ pts) (mfreeCtr : Part.freeCtr ∈ pts) : Agrees pts st0 (issueRequested waited s) := by
  delta issueRequested
  repeat' first
    | (with_reducible assumption)
    | (with_reducible rfl)
    | (with_reducible refine fun _ => ?_)
    | lift_lets
    | (intro x; refine same_cut (w := pts) (s0 := st0) x ?_ ?_; rotate_left; intro _; clear_value x; rotate_left; unfold x)
    | (intro x; refine same_cut_ss (w := pts) (s0 := st0) x ?_ ?_; rotate_left; intro hfun; clear_value x; rotate_left; unfold x)
    | (intro x; refine same_cut_ass (w := pts) (s0 := st0) x ?_ ?_; rotate_left; intro hfun; clear_value x; rotate_left; unfold x)
    | (intro x; refine same_cut_abss (w := pts) (s0 := st0) x ?_ ?_; rotate_left; intro hfun; clear_value x; rotate_left; unfold x)
    | (intro x; refine same_cut_a (w := pts) (s0 := st0) x ?_ ?_; rotate_left; intro hfun; clear_value x; rotate_left; unfold x)
    | (intro x; refine same_cut_ab (w := pts) (s0 := st0) x ?_ ?_; rotate_left; intro hfun; clear_value x; rotate_left; unfold x)
    | (intro x; refine same_cut_abc (w := pts) (s0 := st0) x ?_ ?_; rotate_left; intro hfun; clear_value x; rotate_left; unfold x)
    | (intro x; refine same_cut_o1 (w := pts) (s0 := st0) x ?_ ?_; rotate_left; intro hopt; clear_value x; rotate_left; unfold x)
    | (intro x; refine same_cut_o (w := pts) (s0 := st0) x ?_ ?_; rotate_left; intro hopt; clear_value x; rotate_left; unfold x)
    | (intro x; refine same_cut_fst (w := pts) (s0 := st0) x ?_ ?_; rotate_left; intro _; clear_value x; rotate_left; unfold x)
    | (intro x; refine same_cut_snd (w := pts) (s0 := st0) x ?_ ?_; rotate_left; intro _; clear_value x; rotate_left; unfold x)
    | (intro x; clear_value x)
    | (with_reducible apply modSec_same)
    | (with_reducible apply forAll_same)
    | (with_reducible apply issueReport_same)
    | (with_reducible refine issueReport_same_eq _ _ _ _ ?_ ?_ ?_ (by assumption))
    | (with_reducible apply loadPiece_same)
    | (with_reducible refine hopt _ (by assumption))
    | (with_reducible exact hopt _ rfl)
    | (with_reducible apply hfun)
    | (intro _)
    | split
    | (with_reducible apply AnswerSame.next)
    | (with_reducible apply same_getD)
    | (refine same_mk hs ?_; intro p hp; cases p <;> first | exact rfl | exact absurd (by assumption) hp)
    | (refine same_mk (by assumption) ?_; intro p hp; cases p <;> first | exact rfl | exact absurd (by assumption) hp)
    | (dsimp only)
    | (rename_i he; split at he)
    | (rename_i he; injection he with he; subst he)

theorem squashReport_same {pts : List Part} {st0 : State} (s : State) (hs : Agrees pts st0 s) (msec : Part.sec ∈ pts) : Agrees pts st0 (squashReport s) := by
  delta squashReport
  repeat' first
    | (with_reducible assumption)
    | (with_reducible rfl)
    | (with_reducible refine fun _ => ?_)
    | lift_lets
    | (intro x; refine same_cut (w := pts) (s0 := st0) x ?_ ?_; rotate_left; intro _; clear_value x; rotate_left; unfold x)
    | (intro x; refine same_cut_ss (w := pts) (s0 := st0) x ?_ ?_; rotate_left; intro hfun; clear_value x; rotate_left; unfold x)
    | (intro x; refine same_cut_ass (w := pts) (s0 := st0) x ?_ ?_; rotate_left; intro hfun; clear_value x; rotate_left; unfold x)
    | (intro x; refine same_cut_abss (w := pts) (s0 := st0) x ?_ ?_; rotate_left; intro hfun; clear_value x; rotate_left; unfold x)
    | (intro x; refine same_cut_a (w := pts) (s0 := st0) x ?_ ?_; rotate_left; intro hfun; clear_value x; rotate_left; unfold x)
    | (intro x; refine same_cut_ab (w := pts) (s0 := st0) x ?_ ?_; rotate_left; intro hfun; clear_value x; rotate_left; unfold x)
    | (intro x; refine same_cut_abc (w := pts) (s0 := st0) x ?_ ?_; rotate_left; intro hfun; clear_value x; rotate_left; unfold x)
    | (intro x; refine same_cut_o1 (w := pts) (s0 := st0) x ?_ ?_; rotate_left; intro hopt; clear_value x; rotate_left; unfold x)
    | (intro x; refine same_cut_o (w := pts) (s0 := st0) x ?_ ?_; rotate_left; intro hopt; clear_value x; rotate_left; unfold x)
    | (intro x; refine same_cut_fst (w := pts) (s0 := st0) x ?_ ?_; rotate_left; intro _; clear_value x; rotate_left; unfold x)
    | (intro x; refine same_cut_snd (w := pts) (s0 := st0) x ?_ ?_; rotate_left; intro _; clear_value x; rotate_left; unfold x)
    | (intro x; clear_value x)
    | (with_reducible apply modSec_same)
    | (with_reducible refine hopt _ (by assumption))
    | (with_reducible exact hopt _ rfl)
    | (with_reducible apply hfun)
    | (intro _)
    | split
    | (with_reducible apply AnswerSame.next)
    | (with_reducible apply same_getD)
    | (refine same_mk hs ?_; intro p hp; cases p <;> first | exact rfl | exact absurd (by assumption) hp)
    | (refine same_mk (by assumption) ?_; intro p hp; cases p <;> first | exact rfl | exact absurd (by assumption) hp)
    | (dsimp only)
    | (rename_i he; split at he)
    | (rename_i he; injection he with he; subst he)

theorem requestReport_same {pts : List Part} {st0 : State} (s : State) (hs : Agrees pts st0 s) (mevents : Part.events ∈ pts) (msec : Part.sec ∈ pts) (mfreeCtr : Part.freeCtr ∈ pts) : Agrees pts st0 (requestReport s) := by
  delta requestReport
  repeat' first
    | (with_reducible assumption)
    | (with_reducible apply modSec_same)
    | (with_reducible apply issueRequested_same)
    | split

theorem waitingReport_same {pts : List Part} {st0 : State} (s : State) (hs : Agrees pts st0 s) (mevents : Part.events ∈ pts) (msec : Part.sec ∈ pts) (mfreeCtr : Part.freeCtr ∈ pts) : Agrees pts st0 (waitingReport s) := by
  delta waitingReport
  repeat' first
    | (with_reducible assumption)
    | (with_reducible apply issueRequested_same)
    | split

theorem selectPiece_same {pts : List Part} {st0 : State} (object piece : Nat) (s : State) (hs : Agrees pts st0 s) (msec : Part.sec ∈ pts) : Agrees pts st0 (selectPiece object piece s) := by
  delta selectPiece
  repeat' first
    | (with_reducible assumption)
    | (with_reducible rfl)
    | (with_reducible refine fun _ => ?_)
    | lift_lets
    | (intro x; refine same_cut (w := pts) (s0 := st0) x ?_ ?_; rotate_left; intro _; clear_value x; rotate_left; unfold x)
    | (intro x; refine same_cut_ss (w := pts) (s0 := st0) x ?_ ?_; rotate_left; intro hfun; clear_value x; rotate_left; unfold x)
    | (intro x; refine same_cut_ass (w := pts) (s0 := st0) x ?_ ?_; rotate_left; intro hfun; clear_value x; rotate_left; unfold x)
    | (intro x; refine same_cut_abss (w := pts) (s0 := st0) x ?_ ?_; rotate_left; intro hfun; clear_value x; rotate_left; unfold x)
    | (intro x; refine same_cut_a (w := pts) (s0 := st0) x ?_ ?_; rotate_left; intro hfun; clear_value x; rotate_left; unfold x)
    | (intro x; refine same_cut_ab (w := pts) (s0 := st0) x ?_ ?_; rotate_left; intro hfun; clear_value x; rotate_left; unfold x)
    | (intro x; refine same_cut_abc (w := pts) (s0 := st0) x ?_ ?_; rotate_left; intro hfun; clear_value x; rotate_left; unfold x)
    | (intro x; refine same_cut_o1 (w := pts) (s0 := st0) x ?_ ?_; rotate_left; intro hopt; clear_value x; rotate_left; unfold x)
    | (intro x; refine same_cut_o (w := pts) (s0 := st0) x ?_ ?_; rotate_left; intro hopt; clear_value x; rotate_left; unfold x)
    | (intro x; refine same_cut_fst (w := pts) (s0 := st0) x ?_ ?_; rotate_left; intro _; clear_value x; rotate_left; unfold x)
    | (intro x; refine same_cut_snd (w := pts) (s0 := st0) x ?_ ?_; rotate_left; intro _; clear_value x; rotate_left; unfold x)
    | (intro x; clear_value x)
    | (with_reducible apply modSec_same)
    | (with_reducible apply loadPiece_same)
    | (with_reducible refine hopt _ (by assumption))
    | (with_reducible exact hopt _ rfl)
    | (with_reducible apply hfun)
    | (intro _)
    | split
    | (with_reducible apply AnswerSame.next)
    | (with_reducible apply same_getD)
    | (refine same_mk hs ?_; intro p hp; cases p <;> first | exact rfl | exact absurd (by assumption) hp)
    | (refine same_mk (by assumption) ?_; intro p hp; cases p <;> first | exact rfl | exact absurd (by assumption) hp)
    | (dsimp only)
    | (rename_i he; split at he)
    | (rename_i he; injection he with he; subst he)

theorem readNonce_same {pts : List Part} {st0 : State} (s : State) (hs : Agrees pts st0 s) (msec : Part.sec ∈ pts) (mfreeCtr : Part.freeCtr ∈ pts) : Agrees pts st0 (readNonce s).2 := by
  delta readNonce
  repeat' first
    | (with_reducible assumption)
    | lift_lets
    | (with_reducible apply modSec_same)
    | (with_reducible apply fresh_same)

theorem readNonce_same_eq {pts : List Part} {st0 : State} (s : State) {tOut : State} {outv : _} (hs : Agrees pts st0 s) (msec : Part.sec ∈ pts) (mfreeCtr : Part.freeCtr ∈ pts) (e : readNonce s = (outv, tOut)) : Agrees pts st0 tOut := by
  have := readNonce_same (pts := pts) (st0 := st0) s hs msec mfreeCtr
  rw [e] at this; exact this

theorem grantDone_same {pts : List Part} {st0 : State} (cmd target st : Nat) (s : State) (hs : Agrees pts st0 s) (mevents : Part.events ∈ pts) (msec : Part.sec ∈ pts) : Agrees pts st0 (grantDone cmd target st s) := by
  delta grantDone
  repeat' first
    | (with_reducible assumption)
    | lift_lets
    | (intro x; refine same_cut (w := pts) (s0 := st0) x ?_ ?_; rotate_left; intro _; clear_value x; rotate_left; unfold x)
    | (with_reducible apply modSec_same)
    | (with_reducible apply raiseSec_same)
    | (with_reducible apply authFailed_same)
    | split

theorem enterDebug_same {pts : List Part} {st0 : State} (d : Nat) (s : State) (hs : Agrees pts st0 s) (mevents : Part.events ∈ pts) (msec : Part.sec ∈ pts) : Agrees pts st0 (enterDebug d s) := by
  delta enterDebug
  repeat' first
    | (with_reducible assumption)
    | lift_lets
    | (intro x; clear_value x)
    | (with_reducible apply modSec_same)
    | (with_reducible apply logSec_same)

theorem leaveD2_same {pts : List Part} {st0 : State} (d : Nat) (s : State) (hs : Agrees pts st0 s) (mevents : Part.events ∈ pts) (msec : Part.sec ∈ pts) (mfab : Part.fab ∈ pts) (mroods : Part.roods ∈ pts) (mqueues : Part.queues ∈ pts) (mdescs : Part.descs ∈ pts) (mclusters : Part.clusters ∈ pts) (mstks : Part.stks ∈ pts) (mstreams : Part.streams ∈ pts) (mmem : Part.mem ∈ pts) : Agrees pts st0 (leaveD2 d s) := by
  delta leaveD2
  repeat' first
    | (with_reducible assumption)
    | (with_reducible refine fun _ => ?_)
    | lift_lets
    | (intro x; refine same_cut (w := pts) (s0 := st0) x ?_ ?_; rotate_left; intro _; clear_value x; rotate_left; unfold x)
    | (intro x; clear_value x)
    | (with_reducible apply modEngine_same)
    | (with_reducible apply forAll_same)
    | (with_reducible apply scrubCluster_same)
    | (with_reducible apply scrubEngine_same)
    | (with_reducible apply endDescs_same)
    | (with_reducible apply enterDebug_same)

theorem leaveDebug_same {pts : List Part} {st0 : State} (d : Nat) (s : State) (hs : Agrees pts st0 s) (mevents : Part.events ∈ pts) (msec : Part.sec ∈ pts) (mfab : Part.fab ∈ pts) (mroods : Part.roods ∈ pts) (mqueues : Part.queues ∈ pts) (mdescs : Part.descs ∈ pts) (mclusters : Part.clusters ∈ pts) (mstks : Part.stks ∈ pts) (mstreams : Part.streams ∈ pts) (mmem : Part.mem ∈ pts) : Agrees pts st0 (leaveDebug d s) := by
  delta leaveDebug
  repeat' first
    | (with_reducible assumption)
    | (with_reducible apply enterDebug_same)
    | (with_reducible apply leaveD2_same)
    | split

theorem enterD1_same {pts : List Part} {st0 : State} (s : State) (hs : Agrees pts st0 s) (mevents : Part.events ∈ pts) (msec : Part.sec ∈ pts) : Agrees pts st0 (enterD1 s) := by
  delta enterD1
  repeat' first
    | (with_reducible assumption)
    | lift_lets
    | (intro x; clear_value x)
    | (with_reducible apply grantDone_same)
    | (with_reducible apply enterDebug_same)
    | split

theorem removeAll_same {pts : List Part} {st0 : State} (s : State) (hs : Agrees pts st0 s) (mevents : Part.events ∈ pts) (mfwc : Part.fwc ∈ pts) (meth : Part.eth ∈ pts) (mlinks : Part.links ∈ pts) (mfab : Part.fab ∈ pts) (mroods : Part.roods ∈ pts) (mslices : Part.slices ∈ pts) (mqueues : Part.queues ∈ pts) (mdescs : Part.descs ∈ pts) (mclusters : Part.clusters ∈ pts) (mstks : Part.stks ∈ pts) (mstreams : Part.streams ∈ pts) (mflash : Part.flash ∈ pts) (mslots : Part.slots ∈ pts) (mrequests : Part.requests ∈ pts) (mbinds : Part.binds ∈ pts) (mmem : Part.mem ∈ pts) (mbushels : Part.bushels ∈ pts) : Agrees pts st0 (removeAll s) := by
  delta removeAll
  repeat' first
    | (with_reducible assumption)
    | (with_reducible refine fun _ => ?_)
    | (with_reducible apply modRood_same)
    | (with_reducible apply forAll_same)
    | (with_reducible apply beginReset_same)
    | split

theorem presentGrant_same {pts : List Part} {st0 : State} (s : State) (hs : Agrees pts st0 s) (mevents : Part.events ∈ pts) (mfwc : Part.fwc ∈ pts) (msec : Part.sec ∈ pts) (meth : Part.eth ∈ pts) (mlinks : Part.links ∈ pts) (mfab : Part.fab ∈ pts) (mroods : Part.roods ∈ pts) (mslices : Part.slices ∈ pts) (mqueues : Part.queues ∈ pts) (mdescs : Part.descs ∈ pts) (mclusters : Part.clusters ∈ pts) (mstks : Part.stks ∈ pts) (mstreams : Part.streams ∈ pts) (mflash : Part.flash ∈ pts) (mslots : Part.slots ∈ pts) (mrequests : Part.requests ∈ pts) (mbinds : Part.binds ∈ pts) (mmem : Part.mem ∈ pts) (mbushels : Part.bushels ∈ pts) : Agrees pts st0 (presentGrant s) := by
  delta presentGrant
  repeat' first
    | (with_reducible assumption)
    | (with_reducible refine fun _ => ?_)
    | lift_lets
    | (intro x; refine same_cut (w := pts) (s0 := st0) x ?_ ?_; rotate_left; intro _; clear_value x; rotate_left; unfold x)
    | (intro x; clear_value x)
    | (with_reducible apply modSec_same)
    | (with_reducible apply forAll_same)
    | (with_reducible apply destroyNs_same)
    | (with_reducible apply grantDone_same)
    | (with_reducible apply enterDebug_same)
    | (with_reducible apply removeAll_same)
    | split

theorem leaveGrant_same {pts : List Part} {st0 : State} (target : Nat) (s : State) (hs : Agrees pts st0 s) (mevents : Part.events ∈ pts) (msec : Part.sec ∈ pts) (mfab : Part.fab ∈ pts) (mroods : Part.roods ∈ pts) (mqueues : Part.queues ∈ pts) (mdescs : Part.descs ∈ pts) (mclusters : Part.clusters ∈ pts) (mstks : Part.stks ∈ pts) (mstreams : Part.streams ∈ pts) (mmem : Part.mem ∈ pts) : Agrees pts st0 (leaveGrant target s) := by
  delta leaveGrant
  repeat' first
    | (with_reducible assumption)
    | lift_lets
    | (with_reducible apply grantDone_same)
    | (with_reducible apply leaveDebug_same)
    | split

theorem d2Expires_same {pts : List Part} {st0 : State} (s : State) (hs : Agrees pts st0 s) (mevents : Part.events ∈ pts) (msec : Part.sec ∈ pts) (mfab : Part.fab ∈ pts) (mroods : Part.roods ∈ pts) (mqueues : Part.queues ∈ pts) (mdescs : Part.descs ∈ pts) (mclusters : Part.clusters ∈ pts) (mstks : Part.stks ∈ pts) (mstreams : Part.streams ∈ pts) (mmem : Part.mem ∈ pts) : Agrees pts st0 (d2Expires s) := by
  delta d2Expires
  repeat' first
    | (with_reducible assumption)
    | (with_reducible apply leaveD2_same)
    | split

theorem lifeDone_same {pts : List Part} {st0 : State} (cmd st : Nat) (s : State) (hs : Agrees pts st0 s) (mevents : Part.events ∈ pts) (msec : Part.sec ∈ pts) : Agrees pts st0 (lifeDone cmd st s) := by
  delta lifeDone
  repeat' first
    | (with_reducible assumption)
    | lift_lets
    | (intro x; refine same_cut (w := pts) (s0 := st0) x ?_ ?_; rotate_left; intro _; clear_value x; rotate_left; unfold x)
    | (with_reducible apply modSec_same)
    | (with_reducible apply raiseSec_same)
    | (with_reducible apply authFailed_same)
    | split

theorem toS1_same {pts : List Part} {st0 : State} (s : State) (hs : Agrees pts st0 s) (mevents : Part.events ∈ pts) (msec : Part.sec ∈ pts) : Agrees pts st0 (toS1 s) := by
  delta toS1
  repeat' first
    | (with_reducible assumption)
    | lift_lets
    | (with_reducible apply modSec_same)
    | (with_reducible apply lifeDone_same)
    | split

theorem toS2_same {pts : List Part} {st0 : State} (s : State) (hs : Agrees pts st0 s) (mevents : Part.events ∈ pts) (msec : Part.sec ∈ pts) : Agrees pts st0 (toS2 s) := by
  delta toS2
  repeat' first
    | (with_reducible assumption)
    | lift_lets
    | (with_reducible apply modSec_same)
    | (with_reducible apply lifeDone_same)
    | split

theorem endSession_same {pts : List Part} {st0 : State} (st : AttachState) (s : State) (hs : Agrees pts st0 s) (msec : Part.sec ∈ pts) (meth : Part.eth ∈ pts) : Agrees pts st0 (endSession st s) := by
  delta endSession
  repeat' first
    | (with_reducible assumption)
    | (with_reducible rfl)
    | (with_reducible refine fun _ => ?_)
    | lift_lets
    | (intro x; refine same_cut (w := pts) (s0 := st0) x ?_ ?_; rotate_left; intro _; clear_value x; rotate_left; unfold x)
    | (intro x; refine same_cut_ss (w := pts) (s0 := st0) x ?_ ?_; rotate_left; intro hfun; clear_value x; rotate_left; unfold x)
    | (intro x; refine same_cut_ass (w := pts) (s0 := st0) x ?_ ?_; rotate_left; intro hfun; clear_value x; rotate_left; unfold x)
    | (intro x; refine same_cut_abss (w := pts) (s0 := st0) x ?_ ?_; rotate_left; intro hfun; clear_value x; rotate_left; unfold x)
    | (intro x; refine same_cut_a (w := pts) (s0 := st0) x ?_ ?_; rotate_left; intro hfun; clear_value x; rotate_left; unfold x)
    | (intro x; refine same_cut_ab (w := pts) (s0 := st0) x ?_ ?_; rotate_left; intro hfun; clear_value x; rotate_left; unfold x)
    | (intro x; refine same_cut_abc (w := pts) (s0 := st0) x ?_ ?_; rotate_left; intro hfun; clear_value x; rotate_left; unfold x)
    | (intro x; refine same_cut_o1 (w := pts) (s0 := st0) x ?_ ?_; rotate_left; intro hopt; clear_value x; rotate_left; unfold x)
    | (intro x; refine same_cut_o (w := pts) (s0 := st0) x ?_ ?_; rotate_left; intro hopt; clear_value x; rotate_left; unfold x)
    | (intro x; refine same_cut_fst (w := pts) (s0 := st0) x ?_ ?_; rotate_left; intro _; clear_value x; rotate_left; unfold x)
    | (intro x; refine same_cut_snd (w := pts) (s0 := st0) x ?_ ?_; rotate_left; intro _; clear_value x; rotate_left; unfold x)
    | (intro x; clear_value x)
    | (with_reducible apply modSec_same)
    | (with_reducible apply modEth_same)
    | (with_reducible apply squashReport_same)
    | (with_reducible refine hopt _ (by assumption))
    | (with_reducible exact hopt _ rfl)
    | (with_reducible apply hfun)
    | (intro _)
    | split
    | (with_reducible apply AnswerSame.next)
    | (with_reducible apply same_getD)
    | (refine same_mk hs ?_; intro p hp; cases p <;> first | exact rfl | exact absurd (by assumption) hp)
    | (refine same_mk (by assumption) ?_; intro p hp; cases p <;> first | exact rfl | exact absurd (by assumption) hp)
    | (dsimp only)
    | (rename_i he; split at he)
    | (rename_i he; injection he with he; subst he)

theorem toS3_same {pts : List Part} {st0 : State} (s : State) (hs : Agrees pts st0 s) (mevents : Part.events ∈ pts) (mfwc : Part.fwc ∈ pts) (msec : Part.sec ∈ pts) (meth : Part.eth ∈ pts) (mlinks : Part.links ∈ pts) (mfab : Part.fab ∈ pts) (mroods : Part.roods ∈ pts) (mslices : Part.slices ∈ pts) (mqueues : Part.queues ∈ pts) (mdescs : Part.descs ∈ pts) (mclusters : Part.clusters ∈ pts) (mstks : Part.stks ∈ pts) (mstreams : Part.streams ∈ pts) (mflash : Part.flash ∈ pts) (mslots : Part.slots ∈ pts) (mrequests : Part.requests ∈ pts) (mbinds : Part.binds ∈ pts) (mmem : Part.mem ∈ pts) (mbushels : Part.bushels ∈ pts) : Agrees pts st0 (toS3 s) := by
  delta toS3
  repeat' first
    | (with_reducible assumption)
    | (with_reducible refine fun _ => ?_)
    | lift_lets
    | (intro x; refine same_cut (w := pts) (s0 := st0) x ?_ ?_; rotate_left; intro _; clear_value x; rotate_left; unfold x)
    | (intro x; clear_value x)
    | (with_reducible apply modSec_same)
    | (with_reducible apply forAll_same)
    | (with_reducible apply logSec_same)
    | (with_reducible apply destroySa_same)
    | (with_reducible apply destroyNs_same)
    | (with_reducible apply leaveDebug_same)
    | (with_reducible apply removeAll_same)
    | (with_reducible apply lifeDone_same)
    | (with_reducible apply endSession_same)
    | split
    | (refine same_mk (by assumption) ?_; intro p hp; cases p <;> first | exact rfl | exact absurd (by assumption) hp)

theorem execSaIn_same {pts : List Part} {st0 : State} (blob : List Byte) (s : State) (hs : Agrees pts st0 s) (mevents : Part.events ∈ pts) (msec : Part.sec ∈ pts) (meth : Part.eth ∈ pts) (mroods : Part.roods ∈ pts) (mdescs : Part.descs ∈ pts) (mstks : Part.stks ∈ pts) (mstreams : Part.streams ∈ pts) (mflash : Part.flash ∈ pts) (mslots : Part.slots ∈ pts) (mrequests : Part.requests ∈ pts) : AnswerSame pts st0 (execSaIn blob s) := by
  delta execSaIn
  repeat' first
    | (with_reducible assumption)
    | lift_lets
    | (with_reducible apply blobOf_same)
    | (with_reducible apply AnswerSame.next)

theorem execSaOut_same {pts : List Part} {st0 : State} (blob : List Byte) (s : State) (hs : Agrees pts st0 s) (mevents : Part.events ∈ pts) (msec : Part.sec ∈ pts) (meth : Part.eth ∈ pts) (mroods : Part.roods ∈ pts) (mdescs : Part.descs ∈ pts) (mstks : Part.stks ∈ pts) (mstreams : Part.streams ∈ pts) (mflash : Part.flash ∈ pts) (mslots : Part.slots ∈ pts) (mrequests : Part.requests ∈ pts) : AnswerSame pts st0 (execSaOut blob s) := by
  delta execSaOut
  repeat' first
    | (with_reducible assumption)
    | lift_lets
    | (with_reducible apply blobOf_same)
    | (with_reducible apply AnswerSame.next)

theorem execDebugKey_same {pts : List Part} {st0 : State} (blob : List Byte) (s : State) (hs : Agrees pts st0 s) (mevents : Part.events ∈ pts) (msec : Part.sec ∈ pts) (meth : Part.eth ∈ pts) (mroods : Part.roods ∈ pts) (mdescs : Part.descs ∈ pts) (mstks : Part.stks ∈ pts) (mstreams : Part.streams ∈ pts) (mflash : Part.flash ∈ pts) (mslots : Part.slots ∈ pts) (mrequests : Part.requests ∈ pts) : AnswerSame pts st0 (execDebugKey blob s) := by
  delta execDebugKey
  repeat' first
    | (with_reducible assumption)
    | lift_lets
    | (with_reducible apply blobOf_same)
    | (with_reducible apply AnswerSame.next)

theorem execDestroySa_same {pts : List Part} {st0 : State} (blob : List Byte) (s : State) (hs : Agrees pts st0 s) (mevents : Part.events ∈ pts) (msec : Part.sec ∈ pts) (meth : Part.eth ∈ pts) (mroods : Part.roods ∈ pts) (mdescs : Part.descs ∈ pts) (mstks : Part.stks ∈ pts) (mstreams : Part.streams ∈ pts) (mflash : Part.flash ∈ pts) (mslots : Part.slots ∈ pts) (mrequests : Part.requests ∈ pts) : AnswerSame pts st0 (execDestroySa blob s) := by
  delta execDestroySa
  repeat' first
    | (with_reducible assumption)
    | lift_lets
    | (with_reducible apply blobOf_same)
    | (with_reducible apply AnswerSame.next)

theorem execDestroyNs_same {pts : List Part} {st0 : State} (blob : List Byte) (s : State) (hs : Agrees pts st0 s) (mevents : Part.events ∈ pts) (msec : Part.sec ∈ pts) (meth : Part.eth ∈ pts) (mroods : Part.roods ∈ pts) (mdescs : Part.descs ∈ pts) (mstks : Part.stks ∈ pts) (mstreams : Part.streams ∈ pts) (mflash : Part.flash ∈ pts) (mslots : Part.slots ∈ pts) (mrequests : Part.requests ∈ pts) : AnswerSame pts st0 (execDestroyNs blob s) := by
  delta execDestroyNs
  repeat' first
    | (with_reducible assumption)
    | lift_lets
    | (with_reducible apply blobOf_same)
    | (with_reducible apply AnswerSame.next)

theorem execTombstoneExpire_same {pts : List Part} {st0 : State} (sa : Nat) (s : State) (hs : Agrees pts st0 s) (meth : Part.eth ∈ pts) : AnswerSame pts st0 (execTombstoneExpire sa s) := by
  delta execTombstoneExpire
  repeat' first
    | (with_reducible assumption)
    | lift_lets
    | (with_reducible apply tombstoneEnds_same)
    | (with_reducible apply AnswerSame.next)

theorem execSecNonce_same {pts : List Part} {st0 : State} (s : State) (hs : Agrees pts st0 s) (msec : Part.sec ∈ pts) (mfreeCtr : Part.freeCtr ∈ pts) : AnswerSame pts st0 (execSecNonce s) := by
  delta execSecNonce
  repeat' first
    | (with_reducible assumption)
    | lift_lets
    | (with_reducible apply readNonce_same)
    | split
    | (with_reducible apply AnswerSame.next)

theorem execRequest_same {pts : List Part} {st0 : State} (s : State) (hs : Agrees pts st0 s) (mevents : Part.events ∈ pts) (msec : Part.sec ∈ pts) (mfreeCtr : Part.freeCtr ∈ pts) : AnswerSame pts st0 (execRequest s) := by
  delta execRequest
  repeat' first
    | (with_reducible assumption)
    | lift_lets
    | (with_reducible apply requestReport_same)
    | (with_reducible apply AnswerSame.next)

theorem execSelect_same {pts : List Part} {st0 : State} (object piece : Nat) (s : State) (hs : Agrees pts st0 s) (msec : Part.sec ∈ pts) : AnswerSame pts st0 (execSelect object piece s) := by
  delta execSelect
  repeat' first
    | (with_reducible assumption)
    | lift_lets
    | (with_reducible apply selectPiece_same)
    | (with_reducible apply AnswerSame.next)

theorem execEnterD1_same {pts : List Part} {st0 : State} (s : State) (hs : Agrees pts st0 s) (mevents : Part.events ∈ pts) (msec : Part.sec ∈ pts) : AnswerSame pts st0 (execEnterD1 s) := by
  delta execEnterD1
  repeat' first
    | (with_reducible assumption)
    | lift_lets
    | (with_reducible apply enterD1_same)
    | (with_reducible apply AnswerSame.next)

theorem execPresent_same {pts : List Part} {st0 : State} (s : State) (hs : Agrees pts st0 s) (mevents : Part.events ∈ pts) (mfwc : Part.fwc ∈ pts) (msec : Part.sec ∈ pts) (meth : Part.eth ∈ pts) (mlinks : Part.links ∈ pts) (mfab : Part.fab ∈ pts) (mroods : Part.roods ∈ pts) (mslices : Part.slices ∈ pts) (mqueues : Part.queues ∈ pts) (mdescs : Part.descs ∈ pts) (mclusters : Part.clusters ∈ pts) (mstks : Part.stks ∈ pts) (mstreams : Part.streams ∈ pts) (mflash : Part.flash ∈ pts) (mslots : Part.slots ∈ pts) (mrequests : Part.requests ∈ pts) (mbinds : Part.binds ∈ pts) (mmem : Part.mem ∈ pts) (mbushels : Part.bushels ∈ pts) : AnswerSame pts st0 (execPresent s) := by
  delta execPresent
  repeat' first
    | (with_reducible assumption)
    | lift_lets
    | (with_reducible apply presentGrant_same)
    | (with_reducible apply AnswerSame.next)

theorem execLeave_same {pts : List Part} {st0 : State} (target : Nat) (s : State) (hs : Agrees pts st0 s) (mevents : Part.events ∈ pts) (msec : Part.sec ∈ pts) (mfab : Part.fab ∈ pts) (mroods : Part.roods ∈ pts) (mqueues : Part.queues ∈ pts) (mdescs : Part.descs ∈ pts) (mclusters : Part.clusters ∈ pts) (mstks : Part.stks ∈ pts) (mstreams : Part.streams ∈ pts) (mmem : Part.mem ∈ pts) : AnswerSame pts st0 (execLeave target s) := by
  delta execLeave
  repeat' first
    | (with_reducible assumption)
    | lift_lets
    | (with_reducible apply leaveGrant_same)
    | (with_reducible apply AnswerSame.next)

theorem execD2Expiry_same {pts : List Part} {st0 : State} (s : State) (hs : Agrees pts st0 s) (mevents : Part.events ∈ pts) (msec : Part.sec ∈ pts) (mfab : Part.fab ∈ pts) (mroods : Part.roods ∈ pts) (mqueues : Part.queues ∈ pts) (mdescs : Part.descs ∈ pts) (mclusters : Part.clusters ∈ pts) (mstks : Part.stks ∈ pts) (mstreams : Part.streams ∈ pts) (mmem : Part.mem ∈ pts) : AnswerSame pts st0 (execD2Expiry s) := by
  delta execD2Expiry
  repeat' first
    | (with_reducible assumption)
    | lift_lets
    | (with_reducible apply d2Expires_same)
    | (with_reducible apply AnswerSame.next)

theorem execToS1_same {pts : List Part} {st0 : State} (s : State) (hs : Agrees pts st0 s) (mevents : Part.events ∈ pts) (msec : Part.sec ∈ pts) : AnswerSame pts st0 (execToS1 s) := by
  delta execToS1
  repeat' first
    | (with_reducible assumption)
    | lift_lets
    | (with_reducible apply toS1_same)
    | (with_reducible apply AnswerSame.next)

theorem execToS2_same {pts : List Part} {st0 : State} (s : State) (hs : Agrees pts st0 s) (mevents : Part.events ∈ pts) (msec : Part.sec ∈ pts) : AnswerSame pts st0 (execToS2 s) := by
  delta execToS2
  repeat' first
    | (with_reducible assumption)
    | lift_lets
    | (with_reducible apply toS2_same)
    | (with_reducible apply AnswerSame.next)

theorem execToS3_same {pts : List Part} {st0 : State} (s : State) (hs : Agrees pts st0 s) (mevents : Part.events ∈ pts) (mfwc : Part.fwc ∈ pts) (msec : Part.sec ∈ pts) (meth : Part.eth ∈ pts) (mlinks : Part.links ∈ pts) (mfab : Part.fab ∈ pts) (mroods : Part.roods ∈ pts) (mslices : Part.slices ∈ pts) (mqueues : Part.queues ∈ pts) (mdescs : Part.descs ∈ pts) (mclusters : Part.clusters ∈ pts) (mstks : Part.stks ∈ pts) (mstreams : Part.streams ∈ pts) (mflash : Part.flash ∈ pts) (mslots : Part.slots ∈ pts) (mrequests : Part.requests ∈ pts) (mbinds : Part.binds ∈ pts) (mmem : Part.mem ∈ pts) (mbushels : Part.bushels ∈ pts) : AnswerSame pts st0 (execToS3 s) := by
  delta execToS3
  repeat' first
    | (with_reducible assumption)
    | lift_lets
    | (with_reducible apply toS3_same)
    | (with_reducible apply AnswerSame.next)

end Sys2Proof.Laws
end

