-- ==== Sys2Proof/Laws/TouchPower.lean ====
section
/-! SUPPORT. Which parts of the state every operation of Machine/Power.lean may change (Laws/Touch.lean). -/
namespace Sys2Proof.Laws

set_option linter.unusedVariables false

open Sys2Proof.Machine Sys2Proof.Safety

theorem settleState_same {pts : List Part} {st0 : State} (s : State) (hs : Agrees pts st0 s) (mevents : Part.events ∈ pts) (mfwc : Part.fwc ∈ pts) (mfreeCtr : Part.freeCtr ∈ pts) : Agrees pts st0 (settleState s) := by
  delta settleState
  repeat' first
    | (with_reducible assumption)
    | lift_lets
    | (intro x; clear_value x)
    | (with_reducible apply fresh_same)
    | (with_reducible apply changePstate_same)
    | split

theorem settleClocks_same {pts : List Part} {st0 : State} (s : State) (hs : Agrees pts st0 s) (mevents : Part.events ∈ pts) (mfwc : Part.fwc ∈ pts) (mclusters : Part.clusters ∈ pts) (mstks : Part.stks ∈ pts) (mfreeCtr : Part.freeCtr ∈ pts) : Agrees pts st0 (settleClocks s) := by
  delta settleClocks
  repeat' first
    | (with_reducible assumption)
    | (with_reducible rfl)
    | (with_reducible refine fun _ => ?_)
    | lift_lets
    | (intro x; refine same_cut (w := pts) (s0 := st0) x ?_ ?_; rotate_left; intro _; clear_value x; rotate_left; unfold x)
    | (intro x; refine same_cut_ss (w := pts) (s0 := st0) x ?_ ?_; rotate_left; intro hfun; clear_value x; rotate_left; unfold x)
    | (intro x; refine same_cut_ass (w := pts) (s0 := st0) x ?_ ?_; rotate_left; intro hfun; clear_value x; rotate_left; unfold x)
    | (intro x; refine same_cut_abss (w := pts) (s0 := st0) x ?_ ?_; rotate_left; intro hfun; clear_value x; rotate_left; unfold x)
    | (intro x; refine same_cut_a (w := pts) (s0 := st0) x ?_ ?_; rotate_left; intro hfun; clear_value x; rotate_left; unfold x)
    | (intro x; refine same_cut_ab (w := pts) (s0 := st0) x ?_ ?_; rotate_left; intro hfun; clear_value x; rotate_left; unfold x)
    | (intro x; refine same_cut_abc (w := pts) (s0 := st0) x ?_ ?_; rotate_left; intro hfun; clear_value x; rotate_left; unfold x)
    | (intro x; refine same_cut_o1 (w := pts) (s0 := st0) x ?_ ?_; rotate_left; intro hopt; clear_value x; rotate_left; unfold x)
    | (intro x; refine same_cut_o (w := pts) (s0 := st0) x ?_ ?_; rotate_left; intro hopt; clear_value x; rotate_left; unfold x)
    | (intro x; refine same_cut_fst (w := pts) (s0 := st0) x ?_ ?_; rotate_left; intro _; clear_value x; rotate_left; unfold x)
    | (intro x; refine same_cut_snd (w := pts) (s0 := st0) x ?_ ?_; rotate_left; intro _; clear_value x; rotate_left; unfold x)
    | (intro x; clear_value x)
    | (with_reducible apply settleState_same)
    | (with_reducible refine hopt _ (by assumption))
    | (with_reducible exact hopt _ rfl)
    | (with_reducible apply hfun)
    | (intro _)
    | split
    | (with_reducible apply AnswerSame.next)
    | (with_reducible apply same_getD)
    | (refine same_mk hs ?_; intro p hp; cases p <;> first | exact rfl | exact absurd (by assumption) hp)
    | (refine same_mk (by assumption) ?_; intro p hp; cases p <;> first | exact rfl | exact absurd (by assumption) hp)
    | (dsimp only)
    | (rename_i he; split at he)
    | (rename_i he; injection he with he; subst he)

theorem logCeiling_same {pts : List Part} {st0 : State} (clu frk cause : Nat) (s : State) (hs : Agrees pts st0 s) (mevents : Part.events ∈ pts) : Agrees pts st0 (logCeiling clu frk cause s) := by
  delta logCeiling
  repeat' first
    | (with_reducible assumption)
    | (with_reducible apply logEv_same)

theorem moveCeiling_same {pts : List Part} {st0 : State} (up : Bool) (s : State) (hs : Agrees pts st0 s) (mevents : Part.events ∈ pts) (mfwc : Part.fwc ∈ pts) : Agrees pts st0 (moveCeiling up s) := by
  delta moveCeiling
  repeat' first
    | (with_reducible assumption)
    | lift_lets
    | (intro x; clear_value x)
    | (with_reducible apply logCeiling_same)
    | (intro _)
    | split
    | (refine same_mk hs ?_; intro p hp; cases p <;> first | exact rfl | exact absurd (by assumption) hp)

theorem lowerBoth_same {pts : List Part} {st0 : State} (d : Nat) (s : State) (hs : Agrees pts st0 s) (mevents : Part.events ∈ pts) (mfwc : Part.fwc ∈ pts) : Agrees pts st0 (lowerBoth d s) := by
  delta lowerBoth
  repeat' first
    | (with_reducible assumption)
    | lift_lets
    | (intro x; clear_value x)
    | (with_reducible apply logCeiling_same)
    | split
    | (refine same_mk hs ?_; intro p hp; cases p <;> first | exact rfl | exact absurd (by assumption) hp)

theorem freeSpare_same {pts : List Part} {st0 : State} (s : State) (hs : Agrees pts st0 s) (mevents : Part.events ∈ pts) (mfwc : Part.fwc ∈ pts) (mrepair : Part.repair ∈ pts) (mrepairSeq : Part.repairSeq ∈ pts) : Agrees pts st0 (freeSpare s) := by
  delta freeSpare
  repeat' first
    | (with_reducible assumption)
    | lift_lets
    | (with_reducible apply modFwc_same)
    | (with_reducible apply mapChange_same)
    | split

theorem endUpdate_same {pts : List Part} {st0 : State} (st : Nat) (s : State) (hs : Agrees pts st0 s) (mevents : Part.events ∈ pts) (mfwc : Part.fwc ∈ pts) (mrepair : Part.repair ∈ pts) (mrepairSeq : Part.repairSeq ∈ pts) : Agrees pts st0 (endUpdate st s) := by
  delta endUpdate
  repeat' first
    | (with_reducible assumption)
    | lift_lets
    | (intro x; refine same_cut (w := pts) (s0 := st0) x ?_ ?_; rotate_left; intro _; clear_value x; rotate_left; unfold x)
    | (intro x; clear_value x)
    | (with_reducible apply modFwc_same)
    | (with_reducible apply logEv_same)
    | (with_reducible apply raiseFwc_same)
    | (with_reducible apply freeSpare_same)
    | split

theorem deferUpdate_same {pts : List Part} {st0 : State} (s : State) (hs : Agrees pts st0 s) (mevents : Part.events ∈ pts) (mfwc : Part.fwc ∈ pts) : Agrees pts st0 (deferUpdate s) := by
  delta deferUpdate
  repeat' first
    | (with_reducible assumption)
    | lift_lets
    | (intro x; refine same_cut (w := pts) (s0 := st0) x ?_ ?_; rotate_left; intro _; clear_value x; rotate_left; unfold x)
    | (with_reducible apply modFwc_same)
    | (with_reducible apply logEv_same)

theorem logFlag_same {pts : List Part} {st0 : State} (i : Nat) (unit : Option Nat) (s : State) (hs : Agrees pts st0 s) (mevents : Part.events ∈ pts) (mfreeCtr : Part.freeCtr ∈ pts) : Agrees pts st0 (logFlag i unit s) := by
  delta logFlag
  repeat' first
    | (with_reducible assumption)
    | lift_lets
    | (with_reducible apply fresh_same)
    | (with_reducible apply logEv_same)
    | split

theorem setFlag_same {pts : List Part} {st0 : State} (i : Nat) (unit : Option Nat) (s : State) (hs : Agrees pts st0 s) (mevents : Part.events ∈ pts) (mpins : Part.pins ∈ pts) (mfwc : Part.fwc ∈ pts) (mrepair : Part.repair ∈ pts) (mrepairSeq : Part.repairSeq ∈ pts) (mfreeCtr : Part.freeCtr ∈ pts) : Agrees pts st0 (setFlag i unit s) := by
  delta setFlag
  repeat' first
    | (with_reducible assumption)
    | lift_lets
    | (intro x; refine same_cut (w := pts) (s0 := st0) x ?_ ?_; rotate_left; intro _; clear_value x; rotate_left; unfold x)
    | (with_reducible apply modFwc_same)
    | (with_reducible apply modPins_same)
    | (with_reducible apply raiseFwc_same)
    | (with_reducible apply freeSpare_same)
    | (with_reducible apply deferUpdate_same)
    | (with_reducible apply logFlag_same)
    | split

theorem clearFlag_same {pts : List Part} {st0 : State} (i : Nat) (s : State) (hs : Agrees pts st0 s) (mevents : Part.events ∈ pts) (mfwc : Part.fwc ∈ pts) : Agrees pts st0 (clearFlag i s) := by
  delta clearFlag
  repeat' first
    | (with_reducible assumption)
    | lift_lets
    | (with_reducible apply modFwc_same)
    | (with_reducible apply logEv_same)
    | split

theorem phaseFails_same {pts : List Part} {st0 : State} (p : Nat) (s : State) (hs : Agrees pts st0 s) (mevents : Part.events ∈ pts) (mpins : Part.pins ∈ pts) (mfwc : Part.fwc ∈ pts) (mrepair : Part.repair ∈ pts) (mrepairSeq : Part.repairSeq ∈ pts) (mfreeCtr : Part.freeCtr ∈ pts) : Agrees pts st0 (phaseFails p s) := by
  delta phaseFails
  repeat' first
    | (with_reducible assumption)
    | lift_lets
    | (intro x; refine same_cut (w := pts) (s0 := st0) x ?_ ?_; rotate_left; intro _; clear_value x; rotate_left; unfold x)
    | (intro x; clear_value x)
    | (with_reducible apply modFwc_same)
    | (with_reducible apply logEv_same)
    | (with_reducible apply raiseFwc_same)
    | (with_reducible apply mapChange_same)
    | (with_reducible apply setFlag_same)
    | split

theorem phaseLoaded_same {pts : List Part} {st0 : State} (p : Nat) (s : State) (hs : Agrees pts st0 s) (mevents : Part.events ∈ pts) (mfwc : Part.fwc ∈ pts) : Agrees pts st0 (phaseLoaded p s) := by
  delta phaseLoaded
  repeat' first
    | (with_reducible assumption)
    | lift_lets
    | (intro x; refine same_cut (w := pts) (s0 := st0) x ?_ ?_; rotate_left; intro _; clear_value x; rotate_left; unfold x)
    | (with_reducible apply modFwc_same)
    | (with_reducible apply clearFlag_same)
    | split

theorem phaseShares_same {pts : List Part} {st0 : State} (out : Bool) (p : Nat) (s : State) (hs : Agrees pts st0 s) (mevents : Part.events ∈ pts) (mpins : Part.pins ∈ pts) (mfwc : Part.fwc ∈ pts) (mrepair : Part.repair ∈ pts) (mrepairSeq : Part.repairSeq ∈ pts) (mfreeCtr : Part.freeCtr ∈ pts) : Agrees pts st0 (phaseShares out p s) := by
  delta phaseShares
  repeat' first
    | (with_reducible assumption)
    | (with_reducible apply modFwc_same)
    | (with_reducible apply phaseFails_same)
    | split

theorem takeReading_same {pts : List Part} {st0 : State} (p : PowerReading) (s : State) (hs : Agrees pts st0 s) (mfwc : Part.fwc ∈ pts) : Agrees pts st0 (takeReading p s) := by
  delta takeReading
  repeat' first
    | (with_reducible assumption)
    | (with_reducible apply modFwc_same)

theorem powerFlags_same {pts : List Part} {st0 : State} (s : State) (hs : Agrees pts st0 s) (mevents : Part.events ∈ pts) (mpins : Part.pins ∈ pts) (mfwc : Part.fwc ∈ pts) (mrepair : Part.repair ∈ pts) (mrepairSeq : Part.repairSeq ∈ pts) (mfreeCtr : Part.freeCtr ∈ pts) : Agrees pts st0 (powerFlags s) := by
  delta powerFlags
  repeat' first
    | (with_reducible assumption)
    | lift_lets
    | (intro x; refine same_cut (w := pts) (s0 := st0) x ?_ ?_; rotate_left; intro _; clear_value x; rotate_left; unfold x)
    | (with_reducible apply setFlag_same)
    | (with_reducible apply clearFlag_same)
    | split

theorem powerCeilings_same {pts : List Part} {st0 : State} (s : State) (hs : Agrees pts st0 s) (mevents : Part.events ∈ pts) (mfwc : Part.fwc ∈ pts) : Agrees pts st0 (powerCeilings s) := by
  delta powerCeilings
  repeat' first
    | (with_reducible assumption)
    | lift_lets
    | (intro x; refine same_cut (w := pts) (s0 := st0) x ?_ ?_; rotate_left; intro _; clear_value x; rotate_left; unfold x)
    | (intro x; clear_value x)
    | (with_reducible apply modFwc_same)
    | (with_reducible apply logEv_same)
    | (with_reducible apply raiseFwc_same)
    | (with_reducible apply moveCeiling_same)
    | (with_reducible apply lowerBoth_same)
    | split

theorem powerPeriod_same {pts : List Part} {st0 : State} (p : PowerReading) (s : State) (hs : Agrees pts st0 s) (mevents : Part.events ∈ pts) (mpins : Part.pins ∈ pts) (mfwc : Part.fwc ∈ pts) (mrepair : Part.repair ∈ pts) (mrepairSeq : Part.repairSeq ∈ pts) (mclusters : Part.clusters ∈ pts) (mstks : Part.stks ∈ pts) (mfreeCtr : Part.freeCtr ∈ pts) : Agrees pts st0 (powerPeriod p s) := by
  delta powerPeriod
  repeat' first
    | (with_reducible assumption)
    | (with_reducible refine fun _ => ?_)
    | lift_lets
    | (intro x; refine same_cut (w := pts) (s0 := st0) x ?_ ?_; rotate_left; intro _; clear_value x; rotate_left; unfold x)
    | (with_reducible apply forAll_same)
    | (with_reducible apply settleClocks_same)
    | (with_reducible apply phaseLoaded_same)
    | (with_reducible apply phaseShares_same)
    | (with_reducible apply takeReading_same)
    | (with_reducible apply powerFlags_same)
    | (with_reducible apply powerCeilings_same)
    | split

theorem fastLimit_same {pts : List Part} {st0 : State} (avg : Nat) (s : State) (hs : Agrees pts st0 s) (mevents : Part.events ∈ pts) (mpins : Part.pins ∈ pts) (mfwc : Part.fwc ∈ pts) (mrepair : Part.repair ∈ pts) (mrepairSeq : Part.repairSeq ∈ pts) (mclusters : Part.clusters ∈ pts) (mstks : Part.stks ∈ pts) (mfreeCtr : Part.freeCtr ∈ pts) : Agrees pts st0 (fastLimit avg s) := by
  delta fastLimit
  repeat' first
    | (with_reducible assumption)
    | lift_lets
    | (intro x; refine same_cut (w := pts) (s0 := st0) x ?_ ?_; rotate_left; intro _; clear_value x; rotate_left; unfold x)
    | (with_reducible apply modFwc_same)
    | (with_reducible apply settleClocks_same)
    | (with_reducible apply lowerBoth_same)
    | (with_reducible apply setFlag_same)
    | split

theorem thermalPeriod_same {pts : List Part} {st0 : State} (u : ThermalUnit) (junction dram : Nat) (s : State) (hs : Agrees pts st0 s) (mevents : Part.events ∈ pts) (mfwc : Part.fwc ∈ pts) (mclusters : Part.clusters ∈ pts) (mstks : Part.stks ∈ pts) (mfreeCtr : Part.freeCtr ∈ pts) : Agrees pts st0 (thermalPeriod u junction dram s) := by
  delta thermalPeriod
  repeat' first
    | (with_reducible assumption)
    | lift_lets
    | (intro x; refine same_cut (w := pts) (s0 := st0) x ?_ ?_; rotate_left; intro _; clear_value x; rotate_left; unfold x)
    | (intro x; clear_value x)
    | (with_reducible apply modCluster_same)
    | (with_reducible apply modStack_same)
    | (with_reducible apply settleClocks_same)
    | (with_reducible apply logCeiling_same)
    | split

theorem junctionTrips_same {pts : List Part} {st0 : State} (u : ThermalUnit) (t : Nat) (s : State) (hs : Agrees pts st0 s) (mevents : Part.events ∈ pts) (mpins : Part.pins ∈ pts) (mfwc : Part.fwc ∈ pts) (mrepair : Part.repair ∈ pts) (mrepairSeq : Part.repairSeq ∈ pts) (mclusters : Part.clusters ∈ pts) (mstks : Part.stks ∈ pts) (mfreeCtr : Part.freeCtr ∈ pts) : Agrees pts st0 (junctionTrips u t s) := by
  delta junctionTrips
  repeat' first
    | (with_reducible assumption)
    | lift_lets
    | (with_reducible apply modCluster_same)
    | (with_reducible apply modStack_same)
    | (with_reducible apply settleClocks_same)
    | (with_reducible apply setFlag_same)
    | split

theorem dramTrips_same {pts : List Part} {st0 : State} (n t : Nat) (s : State) (hs : Agrees pts st0 s) (mevents : Part.events ∈ pts) (mpins : Part.pins ∈ pts) (mfwc : Part.fwc ∈ pts) (mrepair : Part.repair ∈ pts) (mrepairSeq : Part.repairSeq ∈ pts) (mclusters : Part.clusters ∈ pts) (mstks : Part.stks ∈ pts) (mfreeCtr : Part.freeCtr ∈ pts) : Agrees pts st0 (dramTrips n t s) := by
  delta dramTrips
  repeat' first
    | (with_reducible assumption)
    | lift_lets
    | (with_reducible apply modStack_same)
    | (with_reducible apply settleClocks_same)
    | (with_reducible apply setFlag_same)
    | split

theorem flagEnds_same {pts : List Part} {st0 : State} (u : ThermalUnit) (bit t : Nat) (s : State) (hs : Agrees pts st0 s) (mevents : Part.events ∈ pts) (mfwc : Part.fwc ∈ pts) (mclusters : Part.clusters ∈ pts) (mstks : Part.stks ∈ pts) (mfreeCtr : Part.freeCtr ∈ pts) : Agrees pts st0 (flagEnds u bit t s) := by
  delta flagEnds
  repeat' first
    | (with_reducible assumption)
    | lift_lets
    | (intro x; refine same_cut (w := pts) (s0 := st0) x ?_ ?_; rotate_left; intro _; clear_value x; rotate_left; unfold x)
    | (intro x; clear_value x)
    | (with_reducible apply modCluster_same)
    | (with_reducible apply modStack_same)
    | (with_reducible apply settleClocks_same)
    | (with_reducible apply clearFlag_same)
    | split

theorem toP0_same {pts : List Part} {st0 : State} (cause : Nat) (s : State) (hs : Agrees pts st0 s) (mevents : Part.events ∈ pts) (mfwc : Part.fwc ∈ pts) (mfreeCtr : Part.freeCtr ∈ pts) : Agrees pts st0 (toP0 cause s) := by
  delta toP0
  repeat' first
    | (with_reducible assumption)
    | lift_lets
    | (with_reducible apply modFwc_same)
    | (with_reducible apply changePstate_same)
    | (with_reducible apply settleState_same)

theorem floorExpires_same {pts : List Part} {st0 : State} (s : State) (hs : Agrees pts st0 s) (mevents : Part.events ∈ pts) (mfwc : Part.fwc ∈ pts) : Agrees pts st0 (floorExpires s) := by
  delta floorExpires
  repeat' first
    | (with_reducible assumption)
    | (with_reducible apply changePstate_same)
    | split

theorem warmExpires_same {pts : List Part} {st0 : State} (s : State) (hs : Agrees pts st0 s) (mevents : Part.events ∈ pts) (mfwc : Part.fwc ∈ pts) : Agrees pts st0 (warmExpires s) := by
  delta warmExpires
  repeat' first
    | (with_reducible assumption)
    | (with_reducible apply changePstate_same)
    | split

theorem wakeUp_same {pts : List Part} {st0 : State} (cause : WakeCause) (s : State) (hs : Agrees pts st0 s) (mevents : Part.events ∈ pts) (mfwc : Part.fwc ∈ pts) (mfreeCtr : Part.freeCtr ∈ pts) : Agrees pts st0 (wakeUp cause s) := by
  delta wakeUp
  repeat' first
    | (with_reducible assumption)
    | (with_reducible apply toP0_same)
    | split

theorem reqDone_same {pts : List Part} {st0 : State} (st : Nat) (s : State) (hs : Agrees pts st0 s) (mfwc : Part.fwc ∈ pts) : Agrees pts st0 (reqDone st s) := by
  delta reqDone
  repeat' first
    | (with_reducible assumption)
    | (with_reducible apply modFwc_same)

theorem enterP4_same {pts : List Part} {st0 : State} (s : State) (hs : Agrees pts st0 s) (mevents : Part.events ∈ pts) (mfwc : Part.fwc ∈ pts) (msec : Part.sec ∈ pts) (meth : Part.eth ∈ pts) (mlinks : Part.links ∈ pts) (mfab : Part.fab ∈ pts) (mroods : Part.roods ∈ pts) (mqueues : Part.queues ∈ pts) (mdescs : Part.descs ∈ pts) (mclusters : Part.clusters ∈ pts) (mstks : Part.stks ∈ pts) (mstreams : Part.streams ∈ pts) (mslots : Part.slots ∈ pts) (mrequests : Part.requests ∈ pts) (mmem : Part.mem ∈ pts) : Agrees pts st0 (enterP4 s) := by
  delta enterP4
  repeat' first
    | (with_reducible assumption)
    | (with_reducible rfl)
    | (with_reducible refine fun _ => ?_)
    | lift_lets
    | (intro x; refine same_cut (w := pts) (s0 := st0) x ?_ ?_; rotate_left; intro _; clear_value x; rotate_left; unfold x)
    | (intro x; refine same_cut_ss (w := pts) (s0 := st0) x ?_ ?_; rotate_left; intro hfun; clear_value x; rotate_left; unfold x)
    | (intro x; refine same_cut_ass (w := pts) (s0 := st0) x ?_ ?_; rotate_left; intro hfun; clear_value x; rotate_left; unfold x)
    | (intro x; refine same_cut_abss (w := pts) (s0 := st0) x ?_ ?_; rotate_left; intro hfun; clear_value x; rotate_left; unfold x)
    | (intro x; refine same_cut_a (w := pts) (s0 := st0) x ?_ ?_; rotate_left; intro hfun; clear_value x; rotate_left; unfold x)
    | (intro x; refine same_cut_ab (w := pts) (s0 := st0) x ?_ ?_; rotate_left; intro hfun; clear_value x; rotate_left; unfold x)
    | (intro x; refine same_cut_abc (w := pts) (s0 := st0) x ?_ ?_; rotate_left; intro hfun; clear_value x; rotate_left; unfold x)
    | (intro x; refine same_cut_o1 (w := pts) (s0 := st0) x ?_ ?_; rotate_left; intro hopt; clear_value x; rotate_left; unfold x)
    | (intro x; refine same_cut_o (w := pts) (s0 := st0) x ?_ ?_; rotate_left; intro hopt; clear_value x; rotate_left; unfold x)
    | (intro x; refine same_cut_fst (w := pts) (s0 := st0) x ?_ ?_; rotate_left; intro _; clear_value x; rotate_left; unfold x)
    | (intro x; refine same_cut_snd (w := pts) (s0 := st0) x ?_ ?_; rotate_left; intro _; clear_value x; rotate_left; unfold x)
    | (intro x; clear_value x)
    | (with_reducible apply modFab_same)
    | (with_reducible apply forAll_same)
    | (with_reducible apply sendControlFlit_same)
    | (with_reducible apply linkDrops_same)
    | (with_reducible apply ifDown_same)
    | (with_reducible apply changePstate_same)
    | (with_reducible apply leaveD2_same)
    | (with_reducible apply reqDone_same)
    | (with_reducible refine hopt _ (by assumption))
    | (with_reducible exact hopt _ rfl)
    | (with_reducible apply hfun)
    | (intro _)
    | split
    | (with_reducible apply AnswerSame.next)
    | (with_reducible apply same_getD)
    | (refine same_mk hs ?_; intro p hp; cases p <;> first | exact rfl | exact absurd (by assumption) hp)
    | (refine same_mk (by assumption) ?_; intro p hp; cases p <;> first | exact rfl | exact absurd (by assumption) hp)
    | (dsimp only)
    | (rename_i he; split at he)
    | (rename_i he; injection he with he; subst he)

theorem holdReq_same {pts : List Part} {st0 : State} (c : Nat) (s : State) (hs : Agrees pts st0 s) (mfwc : Part.fwc ∈ pts) : Agrees pts st0 (holdReq c s) := by
  delta holdReq
  repeat' first
    | (with_reducible assumption)
    | (with_reducible rfl)
    | (with_reducible refine fun _ => ?_)
    | lift_lets
    | (intro x; refine same_cut (w := pts) (s0 := st0) x ?_ ?_; rotate_left; intro _; clear_value x; rotate_left; unfold x)
    | (intro x; refine same_cut_ss (w := pts) (s0 := st0) x ?_ ?_; rotate_left; intro hfun; clear_value x; rotate_left; unfold x)
    | (intro x; refine same_cut_ass (w := pts) (s0 := st0) x ?_ ?_; rotate_left; intro hfun; clear_value x; rotate_left; unfold x)
    | (intro x; refine same_cut_abss (w := pts) (s0 := st0) x ?_ ?_; rotate_left; intro hfun; clear_value x; rotate_left; unfold x)
    | (intro x; refine same_cut_a (w := pts) (s0 := st0) x ?_ ?_; rotate_left; intro hfun; clear_value x; rotate_left; unfold x)
    | (intro x; refine same_cut_ab (w := pts) (s0 := st0) x ?_ ?_; rotate_left; intro hfun; clear_value x; rotate_left; unfold x)
    | (intro x; refine same_cut_abc (w := pts) (s0 := st0) x ?_ ?_; rotate_left; intro hfun; clear_value x; rotate_left; unfold x)
    | (intro x; refine same_cut_o1 (w := pts) (s0 := st0) x ?_ ?_; rotate_left; intro hopt; clear_value x; rotate_left; unfold x)
    | (intro x; refine same_cut_o (w := pts) (s0 := st0) x ?_ ?_; rotate_left; intro hopt; clear_value x; rotate_left; unfold x)
    | (intro x; refine same_cut_fst (w := pts) (s0 := st0) x ?_ ?_; rotate_left; intro _; clear_value x; rotate_left; unfold x)
    | (intro x; refine same_cut_snd (w := pts) (s0 := st0) x ?_ ?_; rotate_left; intro _; clear_value x; rotate_left; unfold x)
    | (intro x; clear_value x)
    | (with_reducible apply modFwc_same)
    | (with_reducible apply reqDone_same)
    | (with_reducible refine hopt _ (by assumption))
    | (with_reducible exact hopt _ rfl)
    | (with_reducible apply hfun)
    | (intro _)
    | split
    | (with_reducible apply AnswerSame.next)
    | (with_reducible apply same_getD)
    | (refine same_mk hs ?_; intro p hp; cases p <;> first | exact rfl | exact absurd (by assumption) hp)
    | (refine same_mk (by assumption) ?_; intro p hp; cases p <;> first | exact rfl | exact absurd (by assumption) hp)
    | (dsimp only)
    | (rename_i he; split at he)
    | (rename_i he; injection he with he; subst he)

theorem runP4_same {pts : List Part} {st0 : State} (s : State) (hs : Agrees pts st0 s) (mevents : Part.events ∈ pts) (mfwc : Part.fwc ∈ pts) (msec : Part.sec ∈ pts) (meth : Part.eth ∈ pts) (mlinks : Part.links ∈ pts) (mfab : Part.fab ∈ pts) (mroods : Part.roods ∈ pts) (mqueues : Part.queues ∈ pts) (mdescs : Part.descs ∈ pts) (mclusters : Part.clusters ∈ pts) (mstks : Part.stks ∈ pts) (mstreams : Part.streams ∈ pts) (mslots : Part.slots ∈ pts) (mrequests : Part.requests ∈ pts) (mmem : Part.mem ∈ pts) : Agrees pts st0 (runP4 s) := by
  delta runP4
  repeat' first
    | (with_reducible assumption)
    | (with_reducible rfl)
    | (with_reducible refine fun _ => ?_)
    | lift_lets
    | (intro x; refine same_cut (w := pts) (s0 := st0) x ?_ ?_; rotate_left; intro _; clear_value x; rotate_left; unfold x)
    | (intro x; refine same_cut_ss (w := pts) (s0 := st0) x ?_ ?_; rotate_left; intro hfun; clear_value x; rotate_left; unfold x)
    | (intro x; refine same_cut_ass (w := pts) (s0 := st0) x ?_ ?_; rotate_left; intro hfun; clear_value x; rotate_left; unfold x)
    | (intro x; refine same_cut_abss (w := pts) (s0 := st0) x ?_ ?_; rotate_left; intro hfun; clear_value x; rotate_left; unfold x)
    | (intro x; refine same_cut_a (w := pts) (s0 := st0) x ?_ ?_; rotate_left; intro hfun; clear_value x; rotate_left; unfold x)
    | (intro x; refine same_cut_ab (w := pts) (s0 := st0) x ?_ ?_; rotate_left; intro hfun; clear_value x; rotate_left; unfold x)
    | (intro x; refine same_cut_abc (w := pts) (s0 := st0) x ?_ ?_; rotate_left; intro hfun; clear_value x; rotate_left; unfold x)
    | (intro x; refine same_cut_o1 (w := pts) (s0 := st0) x ?_ ?_; rotate_left; intro hopt; clear_value x; rotate_left; unfold x)
    | (intro x; refine same_cut_o (w := pts) (s0 := st0) x ?_ ?_; rotate_left; intro hopt; clear_value x; rotate_left; unfold x)
    | (intro x; refine same_cut_fst (w := pts) (s0 := st0) x ?_ ?_; rotate_left; intro _; clear_value x; rotate_left; unfold x)
    | (intro x; refine same_cut_snd (w := pts) (s0 := st0) x ?_ ?_; rotate_left; intro _; clear_value x; rotate_left; unfold x)
    | (intro x; clear_value x)
    | (with_reducible apply reqDone_same)
    | (with_reducible apply enterP4_same)
    | (with_reducible refine hopt _ (by assumption))
    | (with_reducible exact hopt _ rfl)
    | (with_reducible apply hfun)
    | (intro _)
    | split
    | (with_reducible apply AnswerSame.next)
    | (with_reducible apply same_getD)
    | (refine same_mk hs ?_; intro p hp; cases p <;> first | exact rfl | exact absurd (by assumption) hp)
    | (refine same_mk (by assumption) ?_; intro p hp; cases p <;> first | exact rfl | exact absurd (by assumption) hp)
    | (dsimp only)
    | (rename_i he; split at he)
    | (rename_i he; injection he with he; subst he)

theorem requestP4_same {pts : List Part} {st0 : State} (s : State) (hs : Agrees pts st0 s) (mevents : Part.events ∈ pts) (mfwc : Part.fwc ∈ pts) (msec : Part.sec ∈ pts) (meth : Part.eth ∈ pts) (mlinks : Part.links ∈ pts) (mfab : Part.fab ∈ pts) (mroods : Part.roods ∈ pts) (mqueues : Part.queues ∈ pts) (mdescs : Part.descs ∈ pts) (mclusters : Part.clusters ∈ pts) (mstks : Part.stks ∈ pts) (mstreams : Part.streams ∈ pts) (mslots : Part.slots ∈ pts) (mrequests : Part.requests ∈ pts) (mmem : Part.mem ∈ pts) : Agrees pts st0 (requestP4 s) := by
  delta requestP4
  repeat' first
    | (with_reducible assumption)
    | (with_reducible rfl)
    | (with_reducible refine fun _ => ?_)
    | lift_lets
    | (intro x; refine same_cut (w := pts) (s0 := st0) x ?_ ?_; rotate_left; intro _; clear_value x; rotate_left; unfold x)
    | (intro x; refine same_cut_ss (w := pts) (s0 := st0) x ?_ ?_; rotate_left; intro hfun; clear_value x; rotate_left; unfold x)
    | (intro x; refine same_cut_ass (w := pts) (s0 := st0) x ?_ ?_; rotate_left; intro hfun; clear_value x; rotate_left; unfold x)
    | (intro x; refine same_cut_abss (w := pts) (s0 := st0) x ?_ ?_; rotate_left; intro hfun; clear_value x; rotate_left; unfold x)
    | (intro x; refine same_cut_a (w := pts) (s0 := st0) x ?_ ?_; rotate_left; intro hfun; clear_value x; rotate_left; unfold x)
    | (intro x; refine same_cut_ab (w := pts) (s0 := st0) x ?_ ?_; rotate_left; intro hfun; clear_value x; rotate_left; unfold x)
    | (intro x; refine same_cut_abc (w := pts) (s0 := st0) x ?_ ?_; rotate_left; intro hfun; clear_value x; rotate_left; unfold x)
    | (intro x; refine same_cut_o1 (w := pts) (s0 := st0) x ?_ ?_; rotate_left; intro hopt; clear_value x; rotate_left; unfold x)
    | (intro x; refine same_cut_o (w := pts) (s0 := st0) x ?_ ?_; rotate_left; intro hopt; clear_value x; rotate_left; unfold x)
    | (intro x; refine same_cut_fst (w := pts) (s0 := st0) x ?_ ?_; rotate_left; intro _; clear_value x; rotate_left; unfold x)
    | (intro x; refine same_cut_snd (w := pts) (s0 := st0) x ?_ ?_; rotate_left; intro _; clear_value x; rotate_left; unfold x)
    | (intro x; clear_value x)
    | (with_reducible apply modFwc_same)
    | (with_reducible apply holdReq_same)
    | (with_reducible apply runP4_same)
    | (with_reducible refine hopt _ (by assumption))
    | (with_reducible exact hopt _ rfl)
    | (with_reducible apply hfun)
    | (intro _)
    | split
    | (with_reducible apply AnswerSame.next)
    | (with_reducible apply same_getD)
    | (refine same_mk hs ?_; intro p hp; cases p <;> first | exact rfl | exact absurd (by assumption) hp)
    | (refine same_mk (by assumption) ?_; intro p hp; cases p <;> first | exact rfl | exact absurd (by assumption) hp)
    | (dsimp only)
    | (rename_i he; split at he)
    | (rename_i he; injection he with he; subst he)

theorem wakeCompletes_same {pts : List Part} {st0 : State} (s : State) (hs : Agrees pts st0 s) (mevents : Part.events ∈ pts) (mfwc : Part.fwc ∈ pts) (mfreeCtr : Part.freeCtr ∈ pts) : Agrees pts st0 (wakeCompletes s) := by
  delta wakeCompletes
  repeat' first
    | (with_reducible assumption)
    | lift_lets
    | (intro x; clear_value x)
    | (with_reducible apply toP0_same)
    | (with_reducible apply reqDone_same)
    | split

theorem runP0_same {pts : List Part} {st0 : State} (ifsUp : List Nat) (links : List LinkFound) (s : State) (hs : Agrees pts st0 s) (mevents : Part.events ∈ pts) (mfwc : Part.fwc ∈ pts) (meth : Part.eth ∈ pts) (mlinks : Part.links ∈ pts) (mclusters : Part.clusters ∈ pts) (mstreams : Part.streams ∈ pts) (mmem : Part.mem ∈ pts) (mfreeCtr : Part.freeCtr ∈ pts) : Agrees pts st0 (runP0 ifsUp links s) := by
  delta runP0
  repeat' first
    | (with_reducible assumption)
    | (with_reducible rfl)
    | (with_reducible refine fun _ => ?_)
    | lift_lets
    | (intro x; refine same_cut (w := pts) (s0 := st0) x ?_ ?_; rotate_left; intro _; clear_value x; rotate_left; unfold x)
    | (intro x; refine same_cut_ss (w := pts) (s0 := st0) x ?_ ?_; rotate_left; intro hfun; clear_value x; rotate_left; unfold x)
    | (intro x; refine same_cut_ass (w := pts) (s0 := st0) x ?_ ?_; rotate_left; intro hfun; clear_value x; rotate_left; unfold x)
    | (intro x; refine same_cut_abss (w := pts) (s0 := st0) x ?_ ?_; rotate_left; intro hfun; clear_value x; rotate_left; unfold x)
    | (intro x; refine same_cut_a (w := pts) (s0 := st0) x ?_ ?_; rotate_left; intro hfun; clear_value x; rotate_left; unfold x)
    | (intro x; refine same_cut_ab (w := pts) (s0 := st0) x ?_ ?_; rotate_left; intro hfun; clear_value x; rotate_left; unfold x)
    | (intro x; refine same_cut_abc (w := pts) (s0 := st0) x ?_ ?_; rotate_left; intro hfun; clear_value x; rotate_left; unfold x)
    | (intro x; refine same_cut_o1 (w := pts) (s0 := st0) x ?_ ?_; rotate_left; intro hopt; clear_value x; rotate_left; unfold x)
    | (intro x; refine same_cut_o (w := pts) (s0 := st0) x ?_ ?_; rotate_left; intro hopt; clear_value x; rotate_left; unfold x)
    | (intro x; refine same_cut_fst (w := pts) (s0 := st0) x ?_ ?_; rotate_left; intro _; clear_value x; rotate_left; unfold x)
    | (intro x; refine same_cut_snd (w := pts) (s0 := st0) x ?_ ?_; rotate_left; intro _; clear_value x; rotate_left; unfold x)
    | (intro x; clear_value x)
    | (with_reducible apply modFwc_same)
    | (with_reducible apply forAll_same)
    | (with_reducible apply scrubCluster_same)
    | (with_reducible apply trainLink_same)
    | (with_reducible apply ifUp_same)
    | (with_reducible apply toP0_same)
    | (with_reducible apply reqDone_same)
    | (with_reducible apply wakeCompletes_same)
    | (with_reducible refine hopt _ (by assumption))
    | (with_reducible exact hopt _ rfl)
    | (with_reducible apply hfun)
    | (intro _)
    | split
    | (with_reducible apply AnswerSame.next)
    | (with_reducible apply same_getD)
    | (refine same_mk hs ?_; intro p hp; cases p <;> first | exact rfl | exact absurd (by assumption) hp)
    | (refine same_mk (by assumption) ?_; intro p hp; cases p <;> first | exact rfl | exact absurd (by assumption) hp)
    | (dsimp only)
    | (rename_i he; split at he)
    | (rename_i he; injection he with he; subst he)

theorem requestP0_same {pts : List Part} {st0 : State} (ifsUp : List Nat) (links : List LinkFound) (s : State) (hs : Agrees pts st0 s) (mevents : Part.events ∈ pts) (mfwc : Part.fwc ∈ pts) (meth : Part.eth ∈ pts) (mlinks : Part.links ∈ pts) (mclusters : Part.clusters ∈ pts) (mstreams : Part.streams ∈ pts) (mmem : Part.mem ∈ pts) (mfreeCtr : Part.freeCtr ∈ pts) : Agrees pts st0 (requestP0 ifsUp links s) := by
  delta requestP0
  repeat' first
    | (with_reducible assumption)
    | (with_reducible rfl)
    | (with_reducible refine fun _ => ?_)
    | lift_lets
    | (intro x; refine same_cut (w := pts) (s0 := st0) x ?_ ?_; rotate_left; intro _; clear_value x; rotate_left; unfold x)
    | (intro x; refine same_cut_ss (w := pts) (s0 := st0) x ?_ ?_; rotate_left; intro hfun; clear_value x; rotate_left; unfold x)
    | (intro x; refine same_cut_ass (w := pts) (s0 := st0) x ?_ ?_; rotate_left; intro hfun; clear_value x; rotate_left; unfold x)
    | (intro x; refine same_cut_abss (w := pts) (s0 := st0) x ?_ ?_; rotate_left; intro hfun; clear_value x; rotate_left; unfold x)
    | (intro x; refine same_cut_a (w := pts) (s0 := st0) x ?_ ?_; rotate_left; intro hfun; clear_value x; rotate_left; unfold x)
    | (intro x; refine same_cut_ab (w := pts) (s0 := st0) x ?_ ?_; rotate_left; intro hfun; clear_value x; rotate_left; unfold x)
    | (intro x; refine same_cut_abc (w := pts) (s0 := st0) x ?_ ?_; rotate_left; intro hfun; clear_value x; rotate_left; unfold x)
    | (intro x; refine same_cut_o1 (w := pts) (s0 := st0) x ?_ ?_; rotate_left; intro hopt; clear_value x; rotate_left; unfold x)
    | (intro x; refine same_cut_o (w := pts) (s0 := st0) x ?_ ?_; rotate_left; intro hopt; clear_value x; rotate_left; unfold x)
    | (intro x; refine same_cut_fst (w := pts) (s0 := st0) x ?_ ?_; rotate_left; intro _; clear_value x; rotate_left; unfold x)
    | (intro x; refine same_cut_snd (w := pts) (s0 := st0) x ?_ ?_; rotate_left; intro _; clear_value x; rotate_left; unfold x)
    | (intro x; clear_value x)
    | (with_reducible apply modFwc_same)
    | (with_reducible apply holdReq_same)
    | (with_reducible apply runP0_same)
    | (with_reducible refine hopt _ (by assumption))
    | (with_reducible exact hopt _ rfl)
    | (with_reducible apply hfun)
    | (intro _)
    | split
    | (with_reducible apply AnswerSame.next)
    | (with_reducible apply same_getD)
    | (refine same_mk hs ?_; intro p hp; cases p <;> first | exact rfl | exact absurd (by assumption) hp)
    | (refine same_mk (by assumption) ?_; intro p hp; cases p <;> first | exact rfl | exact absurd (by assumption) hp)
    | (dsimp only)
    | (rename_i he; split at he)
    | (rename_i he; injection he with he; subst he)

theorem reqNext_same {pts : List Part} {st0 : State} (s : State) (hs : Agrees pts st0 s) (mevents : Part.events ∈ pts) (mfwc : Part.fwc ∈ pts) (msec : Part.sec ∈ pts) (meth : Part.eth ∈ pts) (mlinks : Part.links ∈ pts) (mfab : Part.fab ∈ pts) (mroods : Part.roods ∈ pts) (mqueues : Part.queues ∈ pts) (mdescs : Part.descs ∈ pts) (mclusters : Part.clusters ∈ pts) (mstks : Part.stks ∈ pts) (mstreams : Part.streams ∈ pts) (mslots : Part.slots ∈ pts) (mrequests : Part.requests ∈ pts) (mmem : Part.mem ∈ pts) (mfreeCtr : Part.freeCtr ∈ pts) : Agrees pts st0 (reqNext s) := by
  delta reqNext
  repeat' first
    | (with_reducible assumption)
    | (with_reducible rfl)
    | (with_reducible refine fun _ => ?_)
    | lift_lets
    | (intro x; refine same_cut (w := pts) (s0 := st0) x ?_ ?_; rotate_left; intro _; clear_value x; rotate_left; unfold x)
    | (intro x; refine same_cut_ss (w := pts) (s0 := st0) x ?_ ?_; rotate_left; intro hfun; clear_value x; rotate_left; unfold x)
    | (intro x; refine same_cut_ass (w := pts) (s0 := st0) x ?_ ?_; rotate_left; intro hfun; clear_value x; rotate_left; unfold x)
    | (intro x; refine same_cut_abss (w := pts) (s0 := st0) x ?_ ?_; rotate_left; intro hfun; clear_value x; rotate_left; unfold x)
    | (intro x; refine same_cut_a (w := pts) (s0 := st0) x ?_ ?_; rotate_left; intro hfun; clear_value x; rotate_left; unfold x)
    | (intro x; refine same_cut_ab (w := pts) (s0 := st0) x ?_ ?_; rotate_left; intro hfun; clear_value x; rotate_left; unfold x)
    | (intro x; refine same_cut_abc (w := pts) (s0 := st0) x ?_ ?_; rotate_left; intro hfun; clear_value x; rotate_left; unfold x)
    | (intro x; refine same_cut_o1 (w := pts) (s0 := st0) x ?_ ?_; rotate_left; intro hopt; clear_value x; rotate_left; unfold x)
    | (intro x; refine same_cut_o (w := pts) (s0 := st0) x ?_ ?_; rotate_left; intro hopt; clear_value x; rotate_left; unfold x)
    | (intro x; refine same_cut_fst (w := pts) (s0 := st0) x ?_ ?_; rotate_left; intro _; clear_value x; rotate_left; unfold x)
    | (intro x; refine same_cut_snd (w := pts) (s0 := st0) x ?_ ?_; rotate_left; intro _; clear_value x; rotate_left; unfold x)
    | (intro x; clear_value x)
    | (with_reducible apply modFwc_same)
    | (with_reducible apply runP4_same)
    | (with_reducible apply runP0_same)
    | (with_reducible refine hopt _ (by assumption))
    | (with_reducible exact hopt _ rfl)
    | (with_reducible apply hfun)
    | (intro _)
    | split
    | (with_reducible apply AnswerSame.next)
    | (with_reducible apply same_getD)
    | (refine same_mk hs ?_; intro p hp; cases p <;> first | exact rfl | exact absurd (by assumption) hp)
    | (refine same_mk (by assumption) ?_; intro p hp; cases p <;> first | exact rfl | exact absurd (by assumption) hp)
    | (dsimp only)
    | (rename_i he; split at he)
    | (rename_i he; injection he with he; subst he)

theorem leaveForStep_same {pts : List Part} {st0 : State} (b : Nat) (s : State) (hs : Agrees pts st0 s) (mevents : Part.events ∈ pts) (mfwc : Part.fwc ∈ pts) (mfreeCtr : Part.freeCtr ∈ pts) : Agrees pts st0 (leaveForStep b s) := by
  delta leaveForStep
  repeat' first
    | (with_reducible assumption)
    | (with_reducible apply toP0_same)
    | split

theorem writeCap_same {pts : List Part} {st0 : State} (v : Word) (s : State) (hs : Agrees pts st0 s) (mfwc : Part.fwc ∈ pts) : Agrees pts st0 (writeCap v s) := by
  delta writeCap
  repeat' first
    | (with_reducible assumption)
    | lift_lets
    | (intro x; clear_value x)
    | (with_reducible apply modFwc_same)

theorem noteSlot_same {pts : List Part} {st0 : State} (i : Nat) (v : SlotView) (s : State) (hs : Agrees pts st0 s) (mboot : Part.boot ∈ pts) : Agrees pts st0 (noteSlot i v s) := by
  delta noteSlot
  repeat' first
    | (with_reducible assumption)
    | (with_reducible apply modBoot_same)

theorem refuseActivate_same {pts : List Part} {st0 : State} (st : Nat) (s : State) (hs : Agrees pts st0 s) (mevents : Part.events ∈ pts) (mfwc : Part.fwc ∈ pts) : Agrees pts st0 (refuseActivate st s) := by
  delta refuseActivate
  repeat' first
    | (with_reducible assumption)
    | lift_lets
    | (intro x; refine same_cut (w := pts) (s0 := st0) x ?_ ?_; rotate_left; intro _; clear_value x; rotate_left; unfold x)
    | (with_reducible apply modFwc_same)
    | (with_reducible apply logEv_same)
    | (with_reducible apply raiseFwc_same)

theorem activateUpdate_same {pts : List Part} {st0 : State} (v : SlotView) (s : State) (hs : Agrees pts st0 s) (mevents : Part.events ∈ pts) (mboot : Part.boot ∈ pts) (mfwc : Part.fwc ∈ pts) (mrepair : Part.repair ∈ pts) (mrepairSeq : Part.repairSeq ∈ pts) : Agrees pts st0 (activateUpdate v s) := by
  delta activateUpdate
  repeat' first
    | (with_reducible assumption)
    | lift_lets
    | (intro x; refine same_cut (w := pts) (s0 := st0) x ?_ ?_; rotate_left; intro _; clear_value x; rotate_left; unfold x)
    | (intro x; clear_value x)
    | (with_reducible apply modFwc_same)
    | (with_reducible apply endUpdate_same)
    | (with_reducible apply deferUpdate_same)
    | (with_reducible apply noteSlot_same)
    | (with_reducible apply refuseActivate_same)
    | split

theorem cancelUpdate_same {pts : List Part} {st0 : State} (s : State) (hs : Agrees pts st0 s) (mevents : Part.events ∈ pts) (mfwc : Part.fwc ∈ pts) (mrepair : Part.repair ∈ pts) (mrepairSeq : Part.repairSeq ∈ pts) : Agrees pts st0 (cancelUpdate s) := by
  delta cancelUpdate
  repeat' first
    | (with_reducible assumption)
    | (with_reducible rfl)
    | (with_reducible refine fun _ => ?_)
    | lift_lets
    | (intro x; refine same_cut (w := pts) (s0 := st0) x ?_ ?_; rotate_left; intro _; clear_value x; rotate_left; unfold x)
    | (intro x; refine same_cut_ss (w := pts) (s0 := st0) x ?_ ?_; rotate_left; intro hfun; clear_value x; rotate_left; unfold x)
    | (intro x; refine same_cut_ass (w := pts) (s0 := st0) x ?_ ?_; rotate_left; intro hfun; clear_value x; rotate_left; unfold x)
    | (intro x; refine same_cut_abss (w := pts) (s0 := st0) x ?_ ?_; rotate_left; intro hfun; clear_value x; rotate_left; unfold x)
    | (intro x; refine same_cut_a (w := pts) (s0 := st0) x ?_ ?_; rotate_left; intro hfun; clear_value x; rotate_left; unfold x)
    | (intro x; refine same_cut_ab (w := pts) (s0 := st0) x ?_ ?_; rotate_left; intro hfun; clear_value x; rotate_left; unfold x)
    | (intro x; refine same_cut_abc (w := pts) (s0 := st0) x ?_ ?_; rotate_left; intro hfun; clear_value x; rotate_left; unfold x)
    | (intro x; refine same_cut_o1 (w := pts) (s0 := st0) x ?_ ?_; rotate_left; intro hopt; clear_value x; rotate_left; unfold x)
    | (intro x; refine same_cut_o (w := pts) (s0 := st0) x ?_ ?_; rotate_left; intro hopt; clear_value x; rotate_left; unfold x)
    | (intro x; refine same_cut_fst (w := pts) (s0 := st0) x ?_ ?_; rotate_left; intro _; clear_value x; rotate_left; unfold x)
    | (intro x; refine same_cut_snd (w := pts) (s0 := st0) x ?_ ?_; rotate_left; intro _; clear_value x; rotate_left; unfold x)
    | (intro x; clear_value x)
    | (with_reducible apply modFwc_same)
    | (with_reducible apply endUpdate_same)
    | (with_reducible apply refuseActivate_same)
    | (with_reducible refine hopt _ (by assumption))
    | (with_reducible exact hopt _ rfl)
    | (with_reducible apply hfun)
    | (intro _)
    | split
    | (with_reducible apply AnswerSame.next)
    | (with_reducible apply same_getD)
    | (refine same_mk hs ?_; intro p hp; cases p <;> first | exact rfl | exact absurd (by assumption) hp)
    | (refine same_mk (by assumption) ?_; intro p hp; cases p <;> first | exact rfl | exact absurd (by assumption) hp)
    | (dsimp only)
    | (rename_i he; split at he)
    | (rename_i he; injection he with he; subst he)

theorem bootImage_same {pts : List Part} {st0 : State} (compatible : Bool) (s : State) (hs : Agrees pts st0 s) (mevents : Part.events ∈ pts) (mfwc : Part.fwc ∈ pts) (mrepair : Part.repair ∈ pts) (mrepairSeq : Part.repairSeq ∈ pts) : Agrees pts st0 (bootImage compatible s) := by
  delta bootImage
  repeat' first
    | (with_reducible assumption)
    | lift_lets
    | (intro x; refine same_cut (w := pts) (s0 := st0) x ?_ ?_; rotate_left; intro _; clear_value x; rotate_left; unfold x)
    | (with_reducible apply modFwc_same)
    | (with_reducible apply endUpdate_same)
    | (with_reducible apply deferUpdate_same)
    | split

theorem takeoverUpdate_same {pts : List Part} {st0 : State} (s : State) (hs : Agrees pts st0 s) (mboot : Part.boot ∈ pts) (mfwc : Part.fwc ∈ pts) : Agrees pts st0 (takeoverUpdate s) := by
  delta takeoverUpdate
  repeat' first
    | (with_reducible assumption)
    | lift_lets
    | (intro x; refine same_cut (w := pts) (s0 := st0) x ?_ ?_; rotate_left; intro _; clear_value x; rotate_left; unfold x)
    | (intro x; clear_value x)
    | (with_reducible apply modFwc_same)
    | (with_reducible apply modBoot_same)
    | split

theorem takeoverEnds_same {pts : List Part} {st0 : State} (s : State) (hs : Agrees pts st0 s) (mfwc : Part.fwc ∈ pts) : Agrees pts st0 (takeoverEnds s) := by
  delta takeoverEnds
  repeat' first
    | (with_reducible assumption)
    | lift_lets
    | (with_reducible apply modFwc_same)
    | split

theorem confirmUpdate_same {pts : List Part} {st0 : State} (s : State) (hs : Agrees pts st0 s) (mevents : Part.events ∈ pts) (mboot : Part.boot ∈ pts) (mnor : Part.nor ∈ pts) (mfwc : Part.fwc ∈ pts) (mrepair : Part.repair ∈ pts) (mrepairSeq : Part.repairSeq ∈ pts) : Agrees pts st0 (confirmUpdate s) := by
  delta confirmUpdate
  repeat' first
    | (with_reducible assumption)
    | lift_lets
    | (intro x; refine same_cut (w := pts) (s0 := st0) x ?_ ?_; rotate_left; intro _; clear_value x; rotate_left; unfold x)
    | (intro x; clear_value x)
    | (with_reducible apply modBoot_same)
    | (with_reducible apply commitSlots_same)
    | (with_reducible apply endUpdate_same)
    | split

theorem rollBack_same {pts : List Part} {st0 : State} (s : State) (hs : Agrees pts st0 s) (mevents : Part.events ∈ pts) (mboot : Part.boot ∈ pts) (mfwc : Part.fwc ∈ pts) (mrepair : Part.repair ∈ pts) (mrepairSeq : Part.repairSeq ∈ pts) : Agrees pts st0 (rollBack s) := by
  delta rollBack
  repeat' first
    | (with_reducible assumption)
    | lift_lets
    | (intro x; refine same_cut (w := pts) (s0 := st0) x ?_ ?_; rotate_left; intro _; clear_value x; rotate_left; unfold x)
    | (intro x; clear_value x)
    | (with_reducible apply modFwc_same)
    | (with_reducible apply modBoot_same)
    | (with_reducible apply endUpdate_same)
    | split

theorem goFatal_same {pts : List Part} {st0 : State} (cause : Nat) (s : State) (hs : Agrees pts st0 s) (mglb : Part.glb ∈ pts) (mevents : Part.events ∈ pts) (mfwc : Part.fwc ∈ pts) (meth : Part.eth ∈ pts) (mlinks : Part.links ∈ pts) (mfab : Part.fab ∈ pts) (mroods : Part.roods ∈ pts) (mslices : Part.slices ∈ pts) (mqueues : Part.queues ∈ pts) (mdescs : Part.descs ∈ pts) (mclusters : Part.clusters ∈ pts) (mstks : Part.stks ∈ pts) (mstreams : Part.streams ∈ pts) (mflash : Part.flash ∈ pts) (mslots : Part.slots ∈ pts) (mrequests : Part.requests ∈ pts) (mbinds : Part.binds ∈ pts) (mmem : Part.mem ∈ pts) (mbushels : Part.bushels ∈ pts) : Agrees pts st0 (goFatal cause s) := by
  delta goFatal
  repeat' first
    | (with_reducible assumption)
    | (with_reducible rfl)
    | (with_reducible refine fun _ => ?_)
    | lift_lets
    | (intro x; refine same_cut (w := pts) (s0 := st0) x ?_ ?_; rotate_left; intro _; clear_value x; rotate_left; unfold x)
    | (intro x; refine same_cut_ss (w := pts) (s0 := st0) x ?_ ?_; rotate_left; intro hfun; clear_value x; rotate_left; unfold x)
    | (intro x; refine same_cut_ass (w := pts) (s0 := st0) x ?_ ?_; rotate_left; intro hfun; clear_value x; rotate_left; unfold x)
    | (intro x; refine same_cut_abss (w := pts) (s0 := st0) x ?_ ?_; rotate_left; intro hfun; clear_value x; rotate_left; unfold x)
    | (intro x; refine same_cut_a (w := pts) (s0 := st0) x ?_ ?_; rotate_left; intro hfun; clear_value x; rotate_left; unfold x)
    | (intro x; refine same_cut_ab (w := pts) (s0 := st0) x ?_ ?_; rotate_left; intro hfun; clear_value x; rotate_left; unfold x)
    | (intro x; refine same_cut_abc (w := pts) (s0 := st0) x ?_ ?_; rotate_left; intro hfun; clear_value x; rotate_left; unfold x)
    | (intro x; refine same_cut_o1 (w := pts) (s0 := st0) x ?_ ?_; rotate_left; intro hopt; clear_value x; rotate_left; unfold x)
    | (intro x; refine same_cut_o (w := pts) (s0 := st0) x ?_ ?_; rotate_left; intro hopt; clear_value x; rotate_left; unfold x)
    | (intro x; refine same_cut_fst (w := pts) (s0 := st0) x ?_ ?_; rotate_left; intro _; clear_value x; rotate_left; unfold x)
    | (intro x; refine same_cut_snd (w := pts) (s0 := st0) x ?_ ?_; rotate_left; intro _; clear_value x; rotate_left; unfold x)
    | (intro x; clear_value x)
    | (with_reducible apply modGlb_same)
    | (with_reducible apply forAll_same)
    | (with_reducible apply logGlb_same)
    | (with_reducible apply raiseGlb_same)
    | (with_reducible apply linkDrops_same)
    | (with_reducible apply beginReset_same)
    | (with_reducible refine hopt _ (by assumption))
    | (with_reducible exact hopt _ rfl)
    | (with_reducible apply hfun)
    | (intro _)
    | split
    | (with_reducible apply AnswerSame.next)
    | (with_reducible apply same_getD)
    | (refine same_mk hs ?_; intro p hp; cases p <;> first | exact rfl | exact absurd (by assumption) hp)
    | (refine same_mk (by assumption) ?_; intro p hp; cases p <;> first | exact rfl | exact absurd (by assumption) hp)
    | (dsimp only)
    | (rename_i he; split at he)
    | (rename_i he; injection he with he; subst he)

theorem abortUpdate_same {pts : List Part} {st0 : State} (s : State) (hs : Agrees pts st0 s) (mevents : Part.events ∈ pts) (mboot : Part.boot ∈ pts) (mfwc : Part.fwc ∈ pts) (mrepair : Part.repair ∈ pts) (mrepairSeq : Part.repairSeq ∈ pts) : Agrees pts st0 (abortUpdate s) := by
  delta abortUpdate
  repeat' first
    | (with_reducible assumption)
    | (with_reducible rfl)
    | (with_reducible refine fun _ => ?_)
    | lift_lets
    | (intro x; refine same_cut (w := pts) (s0 := st0) x ?_ ?_; rotate_left; intro _; clear_value x; rotate_left; unfold x)
    | (intro x; refine same_cut_ss (w := pts) (s0 := st0) x ?_ ?_; rotate_left; intro hfun; clear_value x; rotate_left; unfold x)
    | (intro x; refine same_cut_ass (w := pts) (s0 := st0) x ?_ ?_; rotate_left; intro hfun; clear_value x; rotate_left; unfold x)
    | (intro x; refine same_cut_abss (w := pts) (s0 := st0) x ?_ ?_; rotate_left; intro hfun; clear_value x; rotate_left; unfold x)
    | (intro x; refine same_cut_a (w := pts) (s0 := st0) x ?_ ?_; rotate_left; intro hfun; clear_value x; rotate_left; unfold x)
    | (intro x; refine same_cut_ab (w := pts) (s0 := st0) x ?_ ?_; rotate_left; intro hfun; clear_value x; rotate_left; unfold x)
    | (intro x; refine same_cut_abc (w := pts) (s0 := st0) x ?_ ?_; rotate_left; intro hfun; clear_value x; rotate_left; unfold x)
    | (intro x; refine same_cut_o1 (w := pts) (s0 := st0) x ?_ ?_; rotate_left; intro hopt; clear_value x; rotate_left; unfold x)
    | (intro x; refine same_cut_o (w := pts) (s0 := st0) x ?_ ?_; rotate_left; intro hopt; clear_value x; rotate_left; unfold x)
    | (intro x; refine same_cut_fst (w := pts) (s0 := st0) x ?_ ?_; rotate_left; intro _; clear_value x; rotate_left; unfold x)
    | (intro x; refine same_cut_snd (w := pts) (s0 := st0) x ?_ ?_; rotate_left; intro _; clear_value x; rotate_left; unfold x)
    | (intro x; clear_value x)
    | (with_reducible apply modFwc_same)
    | (with_reducible apply modBoot_same)
    | (with_reducible apply endUpdate_same)
    | (with_reducible refine hopt _ (by assumption))
    | (with_reducible exact hopt _ rfl)
    | (with_reducible apply hfun)
    | (intro _)
    | split
    | (with_reducible apply AnswerSame.next)
    | (with_reducible apply same_getD)
    | (refine same_mk hs ?_; intro p hp; cases p <;> first | exact rfl | exact absurd (by assumption) hp)
    | (refine same_mk (by assumption) ?_; intro p hp; cases p <;> first | exact rfl | exact absurd (by assumption) hp)
    | (dsimp only)
    | (rename_i he; split at he)
    | (rename_i he; injection he with he; subst he)

theorem fwCoreFails_same {pts : List Part} {st0 : State} (k : Nat) (s : State) (hs : Agrees pts st0 s) (mglb : Part.glb ∈ pts) (mevents : Part.events ∈ pts) (mboot : Part.boot ∈ pts) (mfwc : Part.fwc ∈ pts) (mrepair : Part.repair ∈ pts) (mrepairSeq : Part.repairSeq ∈ pts) (meth : Part.eth ∈ pts) (mlinks : Part.links ∈ pts) (mfab : Part.fab ∈ pts) (mroods : Part.roods ∈ pts) (mslices : Part.slices ∈ pts) (mqueues : Part.queues ∈ pts) (mdescs : Part.descs ∈ pts) (mclusters : Part.clusters ∈ pts) (mstks : Part.stks ∈ pts) (mstreams : Part.streams ∈ pts) (mflash : Part.flash ∈ pts) (mslots : Part.slots ∈ pts) (mrequests : Part.requests ∈ pts) (mbinds : Part.binds ∈ pts) (mmem : Part.mem ∈ pts) (mbushels : Part.bushels ∈ pts) : Agrees pts st0 (fwCoreFails k s) := by
  delta fwCoreFails
  repeat' first
    | (with_reducible assumption)
    | (with_reducible rfl)
    | (with_reducible refine fun _ => ?_)
    | lift_lets
    | (intro x; refine same_cut (w := pts) (s0 := st0) x ?_ ?_; rotate_left; intro _; clear_value x; rotate_left; unfold x)
    | (intro x; refine same_cut_ss (w := pts) (s0 := st0) x ?_ ?_; rotate_left; intro hfun; clear_value x; rotate_left; unfold x)
    | (intro x; refine same_cut_ass (w := pts) (s0 := st0) x ?_ ?_; rotate_left; intro hfun; clear_value x; rotate_left; unfold x)
    | (intro x; refine same_cut_abss (w := pts) (s0 := st0) x ?_ ?_; rotate_left; intro hfun; clear_value x; rotate_left; unfold x)
    | (intro x; refine same_cut_a (w := pts) (s0 := st0) x ?_ ?_; rotate_left; intro hfun; clear_value x; rotate_left; unfold x)
    | (intro x; refine same_cut_ab (w := pts) (s0 := st0) x ?_ ?_; rotate_left; intro hfun; clear_value x; rotate_left; unfold x)
    | (intro x; refine same_cut_abc (w := pts) (s0 := st0) x ?_ ?_; rotate_left; intro hfun; clear_value x; rotate_left; unfold x)
    | (intro x; refine same_cut_o1 (w := pts) (s0 := st0) x ?_ ?_; rotate_left; intro hopt; clear_value x; rotate_left; unfold x)
    | (intro x; refine same_cut_o (w := pts) (s0 := st0) x ?_ ?_; rotate_left; intro hopt; clear_value x; rotate_left; unfold x)
    | (intro x; refine same_cut_fst (w := pts) (s0 := st0) x ?_ ?_; rotate_left; intro _; clear_value x; rotate_left; unfold x)
    | (intro x; refine same_cut_snd (w := pts) (s0 := st0) x ?_ ?_; rotate_left; intro _; clear_value x; rotate_left; unfold x)
    | (intro x; clear_value x)
    | (with_reducible apply modFwc_same)
    | (with_reducible apply logEv_same)
    | (with_reducible apply raiseFwc_same)
    | (with_reducible apply mapChange_same)
    | (with_reducible apply goFatal_same)
    | (with_reducible apply abortUpdate_same)
    | (with_reducible refine hopt _ (by assumption))
    | (with_reducible exact hopt _ rfl)
    | (with_reducible apply hfun)
    | (intro _)
    | split
    | (with_reducible apply AnswerSame.next)
    | (with_reducible apply same_getD)
    | (refine same_mk hs ?_; intro p hp; cases p <;> first | exact rfl | exact absurd (by assumption) hp)
    | (refine same_mk (by assumption) ?_; intro p hp; cases p <;> first | exact rfl | exact absurd (by assumption) hp)
    | (dsimp only)
    | (rename_i he; split at he)
    | (rename_i he; injection he with he; subst he)

theorem heartbeat_same {pts : List Part} {st0 : State} (missed : List Nat) (s : State) (hs : Agrees pts st0 s) (mglb : Part.glb ∈ pts) (mevents : Part.events ∈ pts) (mboot : Part.boot ∈ pts) (mfwc : Part.fwc ∈ pts) (mrepair : Part.repair ∈ pts) (mrepairSeq : Part.repairSeq ∈ pts) (meth : Part.eth ∈ pts) (mlinks : Part.links ∈ pts) (mfab : Part.fab ∈ pts) (mroods : Part.roods ∈ pts) (mslices : Part.slices ∈ pts) (mqueues : Part.queues ∈ pts) (mdescs : Part.descs ∈ pts) (mclusters : Part.clusters ∈ pts) (mstks : Part.stks ∈ pts) (mstreams : Part.streams ∈ pts) (mflash : Part.flash ∈ pts) (mslots : Part.slots ∈ pts) (mrequests : Part.requests ∈ pts) (mbinds : Part.binds ∈ pts) (mmem : Part.mem ∈ pts) (mbushels : Part.bushels ∈ pts) : Agrees pts st0 (heartbeat missed s) := by
  delta heartbeat
  repeat' first
    | (with_reducible assumption)
    | (with_reducible refine fun _ => ?_)
    | (with_reducible apply modFwc_same)
    | (with_reducible apply forAll_same)
    | (with_reducible apply fwCoreFails_same)
    | split

theorem coreSpareTakes_same {pts : List Part} {st0 : State} (k : Nat) (s : State) (hs : Agrees pts st0 s) (mevents : Part.events ∈ pts) (mfwc : Part.fwc ∈ pts) : Agrees pts st0 (coreSpareTakes k s) := by
  delta coreSpareTakes
  repeat' first
    | (with_reducible assumption)
    | lift_lets
    | (intro x; clear_value x)
    | (with_reducible apply modFwc_same)
    | (with_reducible apply logEv_same)
    | split

theorem ppsRises_same {pts : List Part} {st0 : State} (s : State) (hs : Agrees pts st0 s) (mtime : Part.time ∈ pts) : Agrees pts st0 (ppsRises s) := by
  delta ppsRises
  repeat' first
    | (with_reducible assumption)
    | (with_reducible apply modTime_same)
    | split

theorem execPowerLoopPeriod_same {pts : List Part} {st0 : State} (p : PowerReading) (s : State) (hs : Agrees pts st0 s) (mevents : Part.events ∈ pts) (mpins : Part.pins ∈ pts) (mfwc : Part.fwc ∈ pts) (mrepair : Part.repair ∈ pts) (mrepairSeq : Part.repairSeq ∈ pts) (mclusters : Part.clusters ∈ pts) (mstks : Part.stks ∈ pts) (mfreeCtr : Part.freeCtr ∈ pts) : AnswerSame pts st0 (execPowerLoopPeriod p s) := by
  delta execPowerLoopPeriod
  repeat' first
    | (with_reducible assumption)
    | lift_lets
    | (with_reducible apply powerPeriod_same)
    | (with_reducible apply AnswerSame.next)

theorem execFastLimiter_same {pts : List Part} {st0 : State} (avg : Nat) (s : State) (hs : Agrees pts st0 s) (mevents : Part.events ∈ pts) (mpins : Part.pins ∈ pts) (mfwc : Part.fwc ∈ pts) (mrepair : Part.repair ∈ pts) (mrepairSeq : Part.repairSeq ∈ pts) (mclusters : Part.clusters ∈ pts) (mstks : Part.stks ∈ pts) (mfreeCtr : Part.freeCtr ∈ pts) : AnswerSame pts st0 (execFastLimiter avg s) := by
  delta execFastLimiter
  repeat' first
    | (with_reducible assumption)
    | lift_lets
    | (with_reducible apply fastLimit_same)
    | (with_reducible apply AnswerSame.next)

theorem execThermalLoopPeriod_same {pts : List Part} {st0 : State} (u : ThermalUnit) (junction dram : Nat) (s : State) (hs : Agrees pts st0 s) (mevents : Part.events ∈ pts) (mfwc : Part.fwc ∈ pts) (mclusters : Part.clusters ∈ pts) (mstks : Part.stks ∈ pts) (mfreeCtr : Part.freeCtr ∈ pts) : AnswerSame pts st0 (execThermalLoopPeriod u junction dram s) := by
  delta execThermalLoopPeriod
  repeat' first
    | (with_reducible assumption)
    | lift_lets
    | (with_reducible apply thermalPeriod_same)
    | (with_reducible apply AnswerSame.next)

theorem execJunctionHot_same {pts : List Part} {st0 : State} (u : ThermalUnit) (t : Nat) (s : State) (hs : Agrees pts st0 s) (mevents : Part.events ∈ pts) (mpins : Part.pins ∈ pts) (mfwc : Part.fwc ∈ pts) (mrepair : Part.repair ∈ pts) (mrepairSeq : Part.repairSeq ∈ pts) (mclusters : Part.clusters ∈ pts) (mstks : Part.stks ∈ pts) (mfreeCtr : Part.freeCtr ∈ pts) : AnswerSame pts st0 (execJunctionHot u t s) := by
  delta execJunctionHot
  repeat' first
    | (with_reducible assumption)
    | lift_lets
    | (with_reducible apply junctionTrips_same)
    | (with_reducible apply AnswerSame.next)

theorem execDramHot_same {pts : List Part} {st0 : State} (n t : Nat) (s : State) (hs : Agrees pts st0 s) (mevents : Part.events ∈ pts) (mpins : Part.pins ∈ pts) (mfwc : Part.fwc ∈ pts) (mrepair : Part.repair ∈ pts) (mrepairSeq : Part.repairSeq ∈ pts) (mclusters : Part.clusters ∈ pts) (mstks : Part.stks ∈ pts) (mfreeCtr : Part.freeCtr ∈ pts) : AnswerSame pts st0 (execDramHot n t s) := by
  delta execDramHot
  repeat' first
    | (with_reducible assumption)
    | lift_lets
    | (with_reducible apply dramTrips_same)
    | (with_reducible apply AnswerSame.next)

theorem execFlagCleared_same {pts : List Part} {st0 : State} (u : ThermalUnit) (bit t : Nat) (s : State) (hs : Agrees pts st0 s) (mevents : Part.events ∈ pts) (mfwc : Part.fwc ∈ pts) (mclusters : Part.clusters ∈ pts) (mstks : Part.stks ∈ pts) (mfreeCtr : Part.freeCtr ∈ pts) : AnswerSame pts st0 (execFlagCleared u bit t s) := by
  delta execFlagCleared
  repeat' first
    | (with_reducible assumption)
    | lift_lets
    | (with_reducible apply flagEnds_same)
    | (with_reducible apply AnswerSame.next)

theorem execInputLow_same {pts : List Part} {st0 : State} (s : State) (hs : Agrees pts st0 s) (mevents : Part.events ∈ pts) (mpins : Part.pins ∈ pts) (mfwc : Part.fwc ∈ pts) (mrepair : Part.repair ∈ pts) (mrepairSeq : Part.repairSeq ∈ pts) (mclusters : Part.clusters ∈ pts) (mstks : Part.stks ∈ pts) (mfreeCtr : Part.freeCtr ∈ pts) : AnswerSame pts st0 (execInputLow s) := by
  delta execInputLow
  repeat' first
    | (with_reducible assumption)
    | lift_lets
    | (with_reducible apply settleClocks_same)
    | (with_reducible apply setFlag_same)
    | split
    | (with_reducible apply AnswerSame.next)

theorem execInputLowClear_same {pts : List Part} {st0 : State} (s : State) (hs : Agrees pts st0 s) (mevents : Part.events ∈ pts) (mfwc : Part.fwc ∈ pts) (mclusters : Part.clusters ∈ pts) (mstks : Part.stks ∈ pts) (mfreeCtr : Part.freeCtr ∈ pts) : AnswerSame pts st0 (execInputLowClear s) := by
  delta execInputLowClear
  repeat' first
    | (with_reducible assumption)
    | lift_lets
    | (with_reducible apply settleClocks_same)
    | (with_reducible apply clearFlag_same)
    | (with_reducible apply AnswerSame.next)

theorem execFwcPwrCap_same {pts : List Part} {st0 : State} (v : Word) (s : State) (hs : Agrees pts st0 s) (mfwc : Part.fwc ∈ pts) : AnswerSame pts st0 (execFwcPwrCap v s) := by
  delta execFwcPwrCap
  repeat' first
    | (with_reducible assumption)
    | lift_lets
    | (with_reducible apply writeCap_same)
    | (with_reducible apply AnswerSame.next)

theorem execReqP4_same {pts : List Part} {st0 : State} (s : State) (hs : Agrees pts st0 s) (mevents : Part.events ∈ pts) (mfwc : Part.fwc ∈ pts) (msec : Part.sec ∈ pts) (meth : Part.eth ∈ pts) (mlinks : Part.links ∈ pts) (mfab : Part.fab ∈ pts) (mroods : Part.roods ∈ pts) (mqueues : Part.queues ∈ pts) (mdescs : Part.descs ∈ pts) (mclusters : Part.clusters ∈ pts) (mstks : Part.stks ∈ pts) (mstreams : Part.streams ∈ pts) (mslots : Part.slots ∈ pts) (mrequests : Part.requests ∈ pts) (mmem : Part.mem ∈ pts) : AnswerSame pts st0 (execReqP4 s) := by
  delta execReqP4
  repeat' first
    | (with_reducible assumption)
    | lift_lets
    | (with_reducible apply requestP4_same)
    | (with_reducible apply AnswerSame.next)

theorem execReqP0_same {pts : List Part} {st0 : State} (ifsUp : List Nat) (links : List LinkFound) (s : State) (hs : Agrees pts st0 s) (mevents : Part.events ∈ pts) (mfwc : Part.fwc ∈ pts) (meth : Part.eth ∈ pts) (mlinks : Part.links ∈ pts) (mclusters : Part.clusters ∈ pts) (mstreams : Part.streams ∈ pts) (mmem : Part.mem ∈ pts) (mfreeCtr : Part.freeCtr ∈ pts) : AnswerSame pts st0 (execReqP0 ifsUp links s) := by
  delta execReqP0
  repeat' first
    | (with_reducible assumption)
    | lift_lets
    | (with_reducible apply requestP0_same)
    | (with_reducible apply AnswerSame.next)

theorem execFloorDelay_same {pts : List Part} {st0 : State} (s : State) (hs : Agrees pts st0 s) (mevents : Part.events ∈ pts) (mfwc : Part.fwc ∈ pts) : AnswerSame pts st0 (execFloorDelay s) := by
  delta execFloorDelay
  repeat' first
    | (with_reducible assumption)
    | lift_lets
    | (with_reducible apply floorExpires_same)
    | (with_reducible apply AnswerSame.next)

theorem execWarmDelay_same {pts : List Part} {st0 : State} (s : State) (hs : Agrees pts st0 s) (mevents : Part.events ∈ pts) (mfwc : Part.fwc ∈ pts) : AnswerSame pts st0 (execWarmDelay s) := by
  delta execWarmDelay
  repeat' first
    | (with_reducible assumption)
    | lift_lets
    | (with_reducible apply warmExpires_same)
    | (with_reducible apply AnswerSame.next)

theorem execWake_same {pts : List Part} {st0 : State} (cause : WakeCause) (s : State) (hs : Agrees pts st0 s) (mevents : Part.events ∈ pts) (mfwc : Part.fwc ∈ pts) (mfreeCtr : Part.freeCtr ∈ pts) : AnswerSame pts st0 (execWake cause s) := by
  delta execWake
  repeat' first
    | (with_reducible assumption)
    | lift_lets
    | (with_reducible apply wakeUp_same)
    | (with_reducible apply AnswerSame.next)

theorem execLeaveP3ForStepStart_same {pts : List Part} {st0 : State} (b : Nat) (s : State) (hs : Agrees pts st0 s) (mevents : Part.events ∈ pts) (mfwc : Part.fwc ∈ pts) (mfreeCtr : Part.freeCtr ∈ pts) : AnswerSame pts st0 (execLeaveP3ForStepStart b s) := by
  delta execLeaveP3ForStepStart
  repeat' first
    | (with_reducible assumption)
    | lift_lets
    | (with_reducible apply leaveForStep_same)
    | (with_reducible apply AnswerSame.next)

theorem execActivate_same {pts : List Part} {st0 : State} (v : SlotView) (s : State) (hs : Agrees pts st0 s) (mevents : Part.events ∈ pts) (mboot : Part.boot ∈ pts) (mfwc : Part.fwc ∈ pts) (mrepair : Part.repair ∈ pts) (mrepairSeq : Part.repairSeq ∈ pts) : AnswerSame pts st0 (execActivate v s) := by
  delta execActivate
  repeat' first
    | (with_reducible assumption)
    | lift_lets
    | (with_reducible apply activateUpdate_same)
    | (with_reducible apply AnswerSame.next)

theorem execCancel_same {pts : List Part} {st0 : State} (s : State) (hs : Agrees pts st0 s) (mevents : Part.events ∈ pts) (mfwc : Part.fwc ∈ pts) (mrepair : Part.repair ∈ pts) (mrepairSeq : Part.repairSeq ∈ pts) : AnswerSame pts st0 (execCancel s) := by
  delta execCancel
  repeat' first
    | (with_reducible assumption)
    | lift_lets
    | (with_reducible apply cancelUpdate_same)
    | (with_reducible apply AnswerSame.next)

theorem execBooting_same {pts : List Part} {st0 : State} (compatible : Bool) (s : State) (hs : Agrees pts st0 s) (mevents : Part.events ∈ pts) (mfwc : Part.fwc ∈ pts) (mrepair : Part.repair ∈ pts) (mrepairSeq : Part.repairSeq ∈ pts) : AnswerSame pts st0 (execBooting compatible s) := by
  delta execBooting
  repeat' first
    | (with_reducible assumption)
    | lift_lets
    | (with_reducible apply bootImage_same)
    | (with_reducible apply AnswerSame.next)

theorem execTakeover_same {pts : List Part} {st0 : State} (s : State) (hs : Agrees pts st0 s) (mboot : Part.boot ∈ pts) (mfwc : Part.fwc ∈ pts) : AnswerSame pts st0 (execTakeover s) := by
  delta execTakeover
  repeat' first
    | (with_reducible assumption)
    | lift_lets
    | (with_reducible apply takeoverUpdate_same)
    | (with_reducible apply AnswerSame.next)

theorem execConfirming_same {pts : List Part} {st0 : State} (s : State) (hs : Agrees pts st0 s) (mevents : Part.events ∈ pts) (mboot : Part.boot ∈ pts) (mnor : Part.nor ∈ pts) (mfwc : Part.fwc ∈ pts) (mrepair : Part.repair ∈ pts) (mrepairSeq : Part.repairSeq ∈ pts) : AnswerSame pts st0 (execConfirming s) := by
  delta execConfirming
  repeat' first
    | (with_reducible assumption)
    | lift_lets
    | (with_reducible apply confirmUpdate_same)
    | (with_reducible apply AnswerSame.next)

theorem execHandoffRolledBack_same {pts : List Part} {st0 : State} (s : State) (hs : Agrees pts st0 s) (mevents : Part.events ∈ pts) (mboot : Part.boot ∈ pts) (mfwc : Part.fwc ∈ pts) (mrepair : Part.repair ∈ pts) (mrepairSeq : Part.repairSeq ∈ pts) : AnswerSame pts st0 (execHandoffRolledBack s) := by
  delta execHandoffRolledBack
  repeat' first
    | (with_reducible assumption)
    | lift_lets
    | (with_reducible apply rollBack_same)
    | (with_reducible apply AnswerSame.next)

theorem execHeartbeatCheck_same {pts : List Part} {st0 : State} (missed : List Nat) (s : State) (hs : Agrees pts st0 s) (mglb : Part.glb ∈ pts) (mevents : Part.events ∈ pts) (mboot : Part.boot ∈ pts) (mfwc : Part.fwc ∈ pts) (mrepair : Part.repair ∈ pts) (mrepairSeq : Part.repairSeq ∈ pts) (meth : Part.eth ∈ pts) (mlinks : Part.links ∈ pts) (mfab : Part.fab ∈ pts) (mroods : Part.roods ∈ pts) (mslices : Part.slices ∈ pts) (mqueues : Part.queues ∈ pts) (mdescs : Part.descs ∈ pts) (mclusters : Part.clusters ∈ pts) (mstks : Part.stks ∈ pts) (mstreams : Part.streams ∈ pts) (mflash : Part.flash ∈ pts) (mslots : Part.slots ∈ pts) (mrequests : Part.requests ∈ pts) (mbinds : Part.binds ∈ pts) (mmem : Part.mem ∈ pts) (mbushels : Part.bushels ∈ pts) : AnswerSame pts st0 (execHeartbeatCheck missed s) := by
  delta execHeartbeatCheck
  repeat' first
    | (with_reducible assumption)
    | lift_lets
    | (with_reducible apply heartbeat_same)
    | (with_reducible apply AnswerSame.next)

theorem execCoreSpareIn_same {pts : List Part} {st0 : State} (k : Nat) (s : State) (hs : Agrees pts st0 s) (mevents : Part.events ∈ pts) (mfwc : Part.fwc ∈ pts) : AnswerSame pts st0 (execCoreSpareIn k s) := by
  delta execCoreSpareIn
  repeat' first
    | (with_reducible assumption)
    | lift_lets
    | (with_reducible apply coreSpareTakes_same)
    | (with_reducible apply AnswerSame.next)

theorem execFatal_same {pts : List Part} {st0 : State} (cause : Nat) (s : State) (hs : Agrees pts st0 s) (mglb : Part.glb ∈ pts) (mevents : Part.events ∈ pts) (mfwc : Part.fwc ∈ pts) (meth : Part.eth ∈ pts) (mlinks : Part.links ∈ pts) (mfab : Part.fab ∈ pts) (mroods : Part.roods ∈ pts) (mslices : Part.slices ∈ pts) (mqueues : Part.queues ∈ pts) (mdescs : Part.descs ∈ pts) (mclusters : Part.clusters ∈ pts) (mstks : Part.stks ∈ pts) (mstreams : Part.streams ∈ pts) (mflash : Part.flash ∈ pts) (mslots : Part.slots ∈ pts) (mrequests : Part.requests ∈ pts) (mbinds : Part.binds ∈ pts) (mmem : Part.mem ∈ pts) (mbushels : Part.bushels ∈ pts) : AnswerSame pts st0 (execFatal cause s) := by
  delta execFatal
  repeat' first
    | (with_reducible assumption)
    | lift_lets
    | (with_reducible apply goFatal_same)
    | split
    | (with_reducible apply AnswerSame.next)

theorem execRefclkLoss_same {pts : List Part} {st0 : State} (s : State) (hs : Agrees pts st0 s) (mglb : Part.glb ∈ pts) (mevents : Part.events ∈ pts) (mpins : Part.pins ∈ pts) (mfwc : Part.fwc ∈ pts) (meth : Part.eth ∈ pts) (mlinks : Part.links ∈ pts) (mfab : Part.fab ∈ pts) (mroods : Part.roods ∈ pts) (mslices : Part.slices ∈ pts) (mqueues : Part.queues ∈ pts) (mdescs : Part.descs ∈ pts) (mclusters : Part.clusters ∈ pts) (mstks : Part.stks ∈ pts) (mstreams : Part.streams ∈ pts) (mflash : Part.flash ∈ pts) (mslots : Part.slots ∈ pts) (mrequests : Part.requests ∈ pts) (mbinds : Part.binds ∈ pts) (mmem : Part.mem ∈ pts) (mbushels : Part.bushels ∈ pts) (mfreeCtr : Part.freeCtr ∈ pts) : AnswerSame pts st0 (execRefclkLoss s) := by
  delta execRefclkLoss
  repeat' first
    | (with_reducible assumption)
    | lift_lets
    | (intro x; refine same_cut (w := pts) (s0 := st0) x ?_ ?_; rotate_left; intro _; clear_value x; rotate_left; unfold x)
    | (with_reducible apply modPins_same)
    | (with_reducible refine fresh_same_eq _ _ ?_ ?_ (by assumption))
    | (with_reducible apply goFatal_same)
    | split
    | (with_reducible apply AnswerSame.next)

theorem execPpsInEdge_same {pts : List Part} {st0 : State} (high : Nat) (s : State) (hs : Agrees pts st0 s) (mtime : Part.time ∈ pts) : AnswerSame pts st0 (execPpsInEdge high s) := by
  delta execPpsInEdge
  repeat' first
    | (with_reducible assumption)
    | lift_lets
    | (with_reducible apply modTime_same)
    | split
    | (with_reducible apply AnswerSame.next)

theorem execPpsOutEdge_same {pts : List Part} {st0 : State} (s : State) (hs : Agrees pts st0 s) (mtime : Part.time ∈ pts) : AnswerSame pts st0 (execPpsOutEdge s) := by
  delta execPpsOutEdge
  repeat' first
    | (with_reducible assumption)
    | lift_lets
    | (with_reducible apply ppsRises_same)
    | (with_reducible apply AnswerSame.next)

theorem execClearFaults_same {pts : List Part} {st0 : State} (s : State) (hs : Agrees pts st0 s) (mpins : Part.pins ∈ pts) : AnswerSame pts st0 (execClearFaults s) := by
  delta execClearFaults
  repeat' first
    | (with_reducible assumption)
    | lift_lets
    | (with_reducible apply modPins_same)
    | split
    | (with_reducible apply AnswerSame.next)

theorem execJtagInstruction_same {pts : List Part} {st0 : State} (ir : Nat) (s : State) (hs : Agrees pts st0 s) (mpins : Part.pins ∈ pts) : AnswerSame pts st0 (execJtagInstruction ir s) := by
  delta execJtagInstruction
  repeat' first
    | (with_reducible assumption)
    | lift_lets
    | (with_reducible apply modPins_same)
    | (with_reducible apply AnswerSame.next)

end Sys2Proof.Laws
end

