-- ==== Sys2Proof/Laws/TouchBoot.lean ====
section
/-! SUPPORT. Which parts of the state every operation of Machine/Boot.lean may change (Laws/Touch.lean). -/
namespace Sys2Proof.Laws

set_option linter.unusedVariables false

open Sys2Proof.Machine Sys2Proof.Safety

theorem logBoot_same {pts : List Part} {st0 : State} (low payload : Nat) (s : State) (hs : Agrees pts st0 s) (mevents : Part.events ∈ pts) : Agrees pts st0 (logBoot low payload s) := by
  delta logBoot
  repeat' first
    | (with_reducible assumption)
    | (with_reducible apply logEv_same)

theorem ledgerAdd_same {pts : List Part} {st0 : State} (e : LedgerEntry) (s : State) (hs : Agrees pts st0 s) (mboot : Part.boot ∈ pts) : Agrees pts st0 (ledgerAdd e s) := by
  delta ledgerAdd
  repeat' first
    | (with_reducible assumption)
    | (with_reducible apply modBoot_same)

theorem ledgerNote_same {pts : List Part} {st0 : State} (kind step cause detail : Nat) (s : State) (hs : Agrees pts st0 s) (mboot : Part.boot ∈ pts) : Agrees pts st0 (ledgerNote kind step cause detail s) := by
  delta ledgerNote
  repeat' first
    | (with_reducible assumption)
    | (with_reducible apply ledgerAdd_same)

theorem selectLedger_same {pts : List Part} {st0 : State} (v : Word) (s : State) (hs : Agrees pts st0 s) (mboot : Part.boot ∈ pts) : Agrees pts st0 (selectLedger v s) := by
  delta selectLedger
  repeat' first
    | (with_reducible assumption)
    | lift_lets
    | (intro x; clear_value x)
    | (with_reducible apply modBoot_same)

theorem resolveItems_same {pts : List Part} {st0 : State} (s : State) (hs : Agrees pts st0 s) (mevents : Part.events ∈ pts) (mboot : Part.boot ∈ pts) : Agrees pts st0 (resolveItems s) := by
  delta resolveItems
  repeat' first
    | (with_reducible assumption)
    | (with_reducible refine fun _ => ?_)
    | lift_lets
    | (intro x; refine same_cut (w := pts) (s0 := st0) x ?_ ?_; rotate_left; intro _; clear_value x; rotate_left; unfold x)
    | (with_reducible apply modBoot_same)
    | (with_reducible apply forAll_same)
    | (with_reducible apply logBoot_same)
    | split

theorem cleared_same {pts : List Part} {st0 : State} (cold : Bool) (s : State) (hs : Agrees pts st0 s) (mtime : Part.time ∈ pts) (mglb : Part.glb ∈ pts) (mevents : Part.events ∈ pts) (mpins : Part.pins ∈ pts) (mboot : Part.boot ∈ pts) (mnor : Part.nor ∈ pts) (mfwc : Part.fwc ∈ pts) (mrepair : Part.repair ∈ pts) (mrepairSeq : Part.repairSeq ∈ pts) (msec : Part.sec ∈ pts) (mwin : Part.win ∈ pts) (meth : Part.eth ∈ pts) (mlinks : Part.links ∈ pts) (mlinkSpares : Part.linkSpares ∈ pts) (mfab : Part.fab ∈ pts) (mroods : Part.roods ∈ pts) (mslices : Part.slices ∈ pts) (mdrrNext : Part.drrNext ∈ pts) (mqueues : Part.queues ∈ pts) (mdescs : Part.descs ∈ pts) (mnextDesc : Part.nextDesc ∈ pts) (mclusters : Part.clusters ∈ pts) (mspareCluster : Part.spareCluster ∈ pts) (mstks : Part.stks ∈ pts) (mstreams : Part.streams ∈ pts) (mflash : Part.flash ∈ pts) (mslots : Part.slots ∈ pts) (mcache : Part.cache ∈ pts) (mnextCache : Part.nextCache ∈ pts) (mrequests : Part.requests ∈ pts) (mnextReq : Part.nextReq ∈ pts) (mbinds : Part.binds ∈ pts) (mmem : Part.mem ∈ pts) (mbushels : Part.bushels ∈ pts) (mfreeCtr : Part.freeCtr ∈ pts) :
    Agrees pts st0 (cleared cold s) := by
  refine same_mk hs ?_
  intro p hp
  cases p <;> first | exact rfl | exact absurd (by assumption) hp

theorem stopRoods_same {pts : List Part} {st0 : State} (s : State) (hs : Agrees pts st0 s) (mevents : Part.events ∈ pts) (meth : Part.eth ∈ pts) (mlinks : Part.links ∈ pts) (mfab : Part.fab ∈ pts) (mroods : Part.roods ∈ pts) (mqueues : Part.queues ∈ pts) (mdescs : Part.descs ∈ pts) (mclusters : Part.clusters ∈ pts) (mstks : Part.stks ∈ pts) (mstreams : Part.streams ∈ pts) (mflash : Part.flash ∈ pts) (mslots : Part.slots ∈ pts) (mrequests : Part.requests ∈ pts) (mbinds : Part.binds ∈ pts) (mmem : Part.mem ∈ pts) : Agrees pts st0 (stopRoods s) := by
  delta stopRoods
  repeat' first
    | (with_reducible assumption)
    | (with_reducible rfl)
    | (with_reducible refine fun _ => ?_)
    | lift_lets
    | (intro x; refine same_cut (w := pts) (s0 := st0) x ?_ ?_; rotate_left; intro _; clear_value x; rotate_left; unfold x)
    | (intro x; refine same_cut_ss (w := pts) (s0 := st0) x ?_ ?_; rotate_left; intro hfun; clear_value x; rotate_left; unfold x)
    | (intro x; refine same_cut_ass (w := pts) (s0 := st0) x ?_ ?_; rotate_left; intro hfun; clear_value x; rotate_left; unfold x)
    | (intro x; refine same_cut_abss (w := pts) (s0 := st0) x ?_ ?_; rotate_left; intro hfun; clear_value x; rotate_left; unfold x)
    | (intro x; refine same_cut_a (w := pts) (s0 := st0) x ?_ ?_; rotate_left; intro hfun; clear_value x; rotate_left; unfold x)
    | (intro x; refine same_cut_ab (w := pts) (s0 := st0) x ?_ ?_; rotate_left; intro hfun; clear_value x; rotate_left; unfold x)
    | (intro x; refine same_cut_abc (w := pts) (s0 := st0) x ?_ ?_; rotate_left; intro hfun; clear_value x; rotate_left; unfold x)
    | (intro x; refine same_cut_o1 (w := pts) (s0 := st0) x ?_ ?_; rotate_left; intro hopt; clear_value x; rotate_left; unfold x)
    | (intro x; refine same_cut_o (w := pts) (s0 := st0) x ?_ ?_; rotate_left; intro hopt; clear_value x; rotate_left; unfold x)
    | (intro x; refine same_cut_fst (w := pts) (s0 := st0) x ?_ ?_; rotate_left; intro _; clear_value x; rotate_left; unfold x)
    | (intro x; refine same_cut_snd (w := pts) (s0 := st0) x ?_ ?_; rotate_left; intro _; clear_value x; rotate_left; unfold x)
    | (intro x; clear_value x)
    | (with_reducible apply forAll_same)
    | (with_reducible apply stopRood_same)
    | (with_reducible refine hopt _ (by assumption))
    | (with_reducible exact hopt _ rfl)
    | (with_reducible apply hfun)
    | (intro _)
    | split
    | (with_reducible apply AnswerSame.next)
    | (with_reducible apply same_getD)
    | (refine same_mk hs ?_; intro p hp; cases p <;> first | exact rfl | exact absurd (by assumption) hp)
    | (refine same_mk (by assumption) ?_; intro p hp; cases p <;> first | exact rfl | exact absurd (by assumption) hp)
    | (dsimp only)
    | (rename_i he; split at he)
    | (rename_i he; injection he with he; subst he)

theorem enterSafe_same {pts : List Part} {st0 : State} (n : Nat) (s : State) (hs : Agrees pts st0 s) (mglb : Part.glb ∈ pts) (mevents : Part.events ∈ pts) (mboot : Part.boot ∈ pts) (mfwc : Part.fwc ∈ pts) (meth : Part.eth ∈ pts) (mlinks : Part.links ∈ pts) (mroods : Part.roods ∈ pts) : Agrees pts st0 (enterSafe n s) := by
  delta enterSafe
  repeat' first
    | (with_reducible assumption)
    | (with_reducible rfl)
    | (with_reducible refine fun _ => ?_)
    | lift_lets
    | (intro x; refine same_cut (w := pts) (s0 := st0) x ?_ ?_; rotate_left; intro _; clear_value x; rotate_left; unfold x)
    | (intro x; refine same_cut_ss (w := pts) (s0 := st0) x ?_ ?_; rotate_left; intro hfun; clear_value x; rotate_left; unfold x)
    | (intro x; refine same_cut_ass (w := pts) (s0 := st0) x ?_ ?_; rotate_left; intro hfun; clear_value x; rotate_left; unfold x)
    | (intro x; refine same_cut_abss (w := pts) (s0 := st0) x ?_ ?_; rotate_left; intro hfun; clear_value x; rotate_left; unfold x)
    | (intro x; refine same_cut_a (w := pts) (s0 := st0) x ?_ ?_; rotate_left; intro hfun; clear_value x; rotate_left; unfold x)
    | (intro x; refine same_cut_ab (w := pts) (s0 := st0) x ?_ ?_; rotate_left; intro hfun; clear_value x; rotate_left; unfold x)
    | (intro x; refine same_cut_abc (w := pts) (s0 := st0) x ?_ ?_; rotate_left; intro hfun; clear_value x; rotate_left; unfold x)
    | (intro x; refine same_cut_o1 (w := pts) (s0 := st0) x ?_ ?_; rotate_left; intro hopt; clear_value x; rotate_left; unfold x)
    | (intro x; refine same_cut_o (w := pts) (s0 := st0) x ?_ ?_; rotate_left; intro hopt; clear_value x; rotate_left; unfold x)
    | (intro x; refine same_cut_fst (w := pts) (s0 := st0) x ?_ ?_; rotate_left; intro _; clear_value x; rotate_left; unfold x)
    | (intro x; refine same_cut_snd (w := pts) (s0 := st0) x ?_ ?_; rotate_left; intro _; clear_value x; rotate_left; unfold x)
    | (intro x; clear_value x)
    | (with_reducible apply modGlb_same)
    | (with_reducible apply modEth_same)
    | (with_reducible apply modBoot_same)
    | (with_reducible apply forAll_same)
    | (with_reducible apply linkDrops_same)
    | (with_reducible apply changePstate_same)
    | (with_reducible apply logBoot_same)
    | (with_reducible apply ledgerNote_same)
    | (with_reducible refine hopt _ (by assumption))
    | (with_reducible exact hopt _ rfl)
    | (with_reducible apply hfun)
    | (intro _)
    | split
    | (with_reducible apply AnswerSame.next)
    | (with_reducible apply same_getD)
    | (refine same_mk hs ?_; intro p hp; cases p <;> first | exact rfl | exact absurd (by assumption) hp)
    | (refine same_mk (by assumption) ?_; intro p hp; cases p <;> first | exact rfl | exact absurd (by assumption) hp)
    | (dsimp only)
    | (rename_i he; split at he)
    | (rename_i he; injection he with he; subst he)

theorem applyEntry_same {pts : List Part} {st0 : State} (e : RepairEntry) (s : State) (hs : Agrees pts st0 s) (mfwc : Part.fwc ∈ pts) (mlinks : Part.links ∈ pts) (mlinkSpares : Part.linkSpares ∈ pts) (mclusters : Part.clusters ∈ pts) (mspareCluster : Part.spareCluster ∈ pts) (mstks : Part.stks ∈ pts) : Agrees pts st0 (applyEntry e s) := by
  delta applyEntry
  repeat' first
    | (with_reducible assumption)
    | (with_reducible rfl)
    | (with_reducible refine fun _ => ?_)
    | lift_lets
    | (intro x; refine same_cut (w := pts) (s0 := st0) x ?_ ?_; rotate_left; intro _; clear_value x; rotate_left; unfold x)
    | (intro x; refine same_cut_ss (w := pts) (s0 := st0) x ?_ ?_; rotate_left; intro hfun; clear_value x; rotate_left; unfold x)
    | (intro x; refine same_cut_ass (w := pts) (s0 := st0) x ?_ ?_; rotate_left; intro hfun; clear_value x; rotate_left; unfold x)
    | (intro x; refine same_cut_abss (w := pts) (s0 := st0) x ?_ ?_; rotate_left; intro hfun; clear_value x; rotate_left; unfold x)
    | (intro x; refine same_cut_a (w := pts) (s0 := st0) x ?_ ?_; rotate_left; intro hfun; clear_value x; rotate_left; unfold x)
    | (intro x; refine same_cut_ab (w := pts) (s0 := st0) x ?_ ?_; rotate_left; intro hfun; clear_value x; rotate_left; unfold x)
    | (intro x; refine same_cut_abc (w := pts) (s0 := st0) x ?_ ?_; rotate_left; intro hfun; clear_value x; rotate_left; unfold x)
    | (intro x; refine same_cut_o1 (w := pts) (s0 := st0) x ?_ ?_; rotate_left; intro hopt; clear_value x; rotate_left; unfold x)
    | (intro x; refine same_cut_o (w := pts) (s0 := st0) x ?_ ?_; rotate_left; intro hopt; clear_value x; rotate_left; unfold x)
    | (intro x; refine same_cut_fst (w := pts) (s0 := st0) x ?_ ?_; rotate_left; intro _; clear_value x; rotate_left; unfold x)
    | (intro x; refine same_cut_snd (w := pts) (s0 := st0) x ?_ ?_; rotate_left; intro _; clear_value x; rotate_left; unfold x)
    | (intro x; clear_value x)
    | (with_reducible apply modCluster_same)
    | (with_reducible apply modStack_same)
    | (with_reducible apply modEngine_same)
    | (with_reducible apply modLink_same)
    | (with_reducible apply modFwc_same)
    | (with_reducible refine hopt _ (by assumption))
    | (with_reducible exact hopt _ rfl)
    | (with_reducible apply hfun)
    | (intro _)
    | split
    | (with_reducible apply AnswerSame.next)
    | (with_reducible apply same_getD)
    | (refine same_mk hs ?_; intro p hp; cases p <;> first | exact rfl | exact absurd (by assumption) hp)
    | (refine same_mk (by assumption) ?_; intro p hp; cases p <;> first | exact rfl | exact absurd (by assumption) hp)
    | (dsimp only)
    | (rename_i he; split at he)
    | (rename_i he; injection he with he; subst he)

theorem applyStackEntry_same {pts : List Part} {st0 : State} (e : RepairEntry) (s : State) (hs : Agrees pts st0 s) (mstks : Part.stks ∈ pts) : Agrees pts st0 (applyStackEntry e s) := by
  delta applyStackEntry
  repeat' first
    | (with_reducible assumption)
    | (with_reducible rfl)
    | (with_reducible refine fun _ => ?_)
    | lift_lets
    | (intro x; refine same_cut (w := pts) (s0 := st0) x ?_ ?_; rotate_left; intro _; clear_value x; rotate_left; unfold x)
    | (intro x; refine same_cut_ss (w := pts) (s0 := st0) x ?_ ?_; rotate_left; intro hfun; clear_value x; rotate_left; unfold x)
    | (intro x; refine same_cut_ass (w := pts) (s0 := st0) x ?_ ?_; rotate_left; intro hfun; clear_value x; rotate_left; unfold x)
    | (intro x; refine same_cut_abss (w := pts) (s0 := st0) x ?_ ?_; rotate_left; intro hfun; clear_value x; rotate_left; unfold x)
    | (intro x; refine same_cut_a (w := pts) (s0 := st0) x ?_ ?_; rotate_left; intro hfun; clear_value x; rotate_left; unfold x)
    | (intro x; refine same_cut_ab (w := pts) (s0 := st0) x ?_ ?_; rotate_left; intro hfun; clear_value x; rotate_left; unfold x)
    | (intro x; refine same_cut_abc (w := pts) (s0 := st0) x ?_ ?_; rotate_left; intro hfun; clear_value x; rotate_left; unfold x)
    | (intro x; refine same_cut_o1 (w := pts) (s0 := st0) x ?_ ?_; rotate_left; intro hopt; clear_value x; rotate_left; unfold x)
    | (intro x; refine same_cut_o (w := pts) (s0 := st0) x ?_ ?_; rotate_left; intro hopt; clear_value x; rotate_left; unfold x)
    | (intro x; refine same_cut_fst (w := pts) (s0 := st0) x ?_ ?_; rotate_left; intro _; clear_value x; rotate_left; unfold x)
    | (intro x; refine same_cut_snd (w := pts) (s0 := st0) x ?_ ?_; rotate_left; intro _; clear_value x; rotate_left; unfold x)
    | (intro x; clear_value x)
    | (with_reducible apply modStack_same)
    | (with_reducible refine hopt _ (by assumption))
    | (with_reducible exact hopt _ rfl)
    | (with_reducible apply hfun)
    | (intro _)
    | split
    | (with_reducible apply AnswerSame.next)
    | (with_reducible apply same_getD)
    | (refine same_mk hs ?_; intro p hp; cases p <;> first | exact rfl | exact absurd (by assumption) hp)
    | (refine same_mk (by assumption) ?_; intro p hp; cases p <;> first | exact rfl | exact absurd (by assumption) hp)
    | (dsimp only)
    | (rename_i he; split at he)
    | (rename_i he; injection he with he; subst he)

theorem bootClusters_same {pts : List Part} {st0 : State} (w : BootWorld) (s : State) (hs : Agrees pts st0 s) (mevents : Part.events ∈ pts) (mrepair : Part.repair ∈ pts) (mrepairSeq : Part.repairSeq ∈ pts) (mdescs : Part.descs ∈ pts) (mclusters : Part.clusters ∈ pts) (mspareCluster : Part.spareCluster ∈ pts) (mstks : Part.stks ∈ pts) : Agrees pts st0 (bootClusters w s) := by
  delta bootClusters
  repeat' first
    | (with_reducible assumption)
    | (with_reducible rfl)
    | (with_reducible refine fun _ => ?_)
    | lift_lets
    | (intro x; refine same_cut (w := pts) (s0 := st0) x ?_ ?_; rotate_left; intro _; clear_value x; rotate_left; unfold x)
    | (intro x; refine same_cut_ss (w := pts) (s0 := st0) x ?_ ?_; rotate_left; intro hfun; clear_value x; rotate_left; unfold x)
    | (intro x; refine same_cut_ass (w := pts) (s0 := st0) x ?_ ?_; rotate_left; intro hfun; clear_value x; rotate_left; unfold x)
    | (intro x; refine same_cut_abss (w := pts) (s0 := st0) x ?_ ?_; rotate_left; intro hfun; clear_value x; rotate_left; unfold x)
    | (intro x; refine same_cut_a (w := pts) (s0 := st0) x ?_ ?_; rotate_left; intro hfun; clear_value x; rotate_left; unfold x)
    | (intro x; refine same_cut_ab (w := pts) (s0 := st0) x ?_ ?_; rotate_left; intro hfun; clear_value x; rotate_left; unfold x)
    | (intro x; refine same_cut_abc (w := pts) (s0 := st0) x ?_ ?_; rotate_left; intro hfun; clear_value x; rotate_left; unfold x)
    | (intro x; refine same_cut_o1 (w := pts) (s0 := st0) x ?_ ?_; rotate_left; intro hopt; clear_value x; rotate_left; unfold x)
    | (intro x; refine same_cut_o (w := pts) (s0 := st0) x ?_ ?_; rotate_left; intro hopt; clear_value x; rotate_left; unfold x)
    | (intro x; refine same_cut_fst (w := pts) (s0 := st0) x ?_ ?_; rotate_left; intro _; clear_value x; rotate_left; unfold x)
    | (intro x; refine same_cut_snd (w := pts) (s0 := st0) x ?_ ?_; rotate_left; intro _; clear_value x; rotate_left; unfold x)
    | (intro x; clear_value x)
    | (with_reducible apply doneOr_same)
    | (with_reducible apply modCluster_same)
    | (with_reducible apply forAll_same)
    | (with_reducible apply logCluster_same)
    | (with_reducible apply failCluster_same)
    | (with_reducible apply execSpareSelftest_same)
    | (with_reducible refine hopt _ (by assumption))
    | (with_reducible exact hopt _ rfl)
    | (with_reducible apply hfun)
    | (intro _)
    | split
    | (with_reducible apply AnswerSame.next)
    | (with_reducible apply same_getD)
    | (refine same_mk hs ?_; intro p hp; cases p <;> first | exact rfl | exact absurd (by assumption) hp)
    | (refine same_mk (by assumption) ?_; intro p hp; cases p <;> first | exact rfl | exact absurd (by assumption) hp)
    | (dsimp only)
    | (rename_i he; split at he)
    | (rename_i he; injection he with he; subst he)

theorem bootStacks_same {pts : List Part} {st0 : State} (w : BootWorld) (s : State) (hs : Agrees pts st0 s) (mevents : Part.events ∈ pts) (mrepair : Part.repair ∈ pts) (mrepairSeq : Part.repairSeq ∈ pts) (mspareCluster : Part.spareCluster ∈ pts) (mstks : Part.stks ∈ pts) (mmem : Part.mem ∈ pts) (mbushels : Part.bushels ∈ pts) : Agrees pts st0 (bootStacks w s) := by
  delta bootStacks
  repeat' first
    | (with_reducible assumption)
    | (with_reducible rfl)
    | (with_reducible refine fun _ => ?_)
    | lift_lets
    | (intro x; refine same_cut (w := pts) (s0 := st0) x ?_ ?_; rotate_left; intro _; clear_value x; rotate_left; unfold x)
    | (intro x; refine same_cut_ss (w := pts) (s0 := st0) x ?_ ?_; rotate_left; intro hfun; clear_value x; rotate_left; unfold x)
    | (intro x; refine same_cut_ass (w := pts) (s0 := st0) x ?_ ?_; rotate_left; intro hfun; clear_value x; rotate_left; unfold x)
    | (intro x; refine same_cut_abss (w := pts) (s0 := st0) x ?_ ?_; rotate_left; intro hfun; clear_value x; rotate_left; unfold x)
    | (intro x; refine same_cut_a (w := pts) (s0 := st0) x ?_ ?_; rotate_left; intro hfun; clear_value x; rotate_left; unfold x)
    | (intro x; refine same_cut_ab (w := pts) (s0 := st0) x ?_ ?_; rotate_left; intro hfun; clear_value x; rotate_left; unfold x)
    | (intro x; refine same_cut_abc (w := pts) (s0 := st0) x ?_ ?_; rotate_left; intro hfun; clear_value x; rotate_left; unfold x)
    | (intro x; refine same_cut_o1 (w := pts) (s0 := st0) x ?_ ?_; rotate_left; intro hopt; clear_value x; rotate_left; unfold x)
    | (intro x; refine same_cut_o (w := pts) (s0 := st0) x ?_ ?_; rotate_left; intro hopt; clear_value x; rotate_left; unfold x)
    | (intro x; refine same_cut_fst (w := pts) (s0 := st0) x ?_ ?_; rotate_left; intro _; clear_value x; rotate_left; unfold x)
    | (intro x; refine same_cut_snd (w := pts) (s0 := st0) x ?_ ?_; rotate_left; intro _; clear_value x; rotate_left; unfold x)
    | (intro x; clear_value x)
    | (with_reducible apply doneOr_same)
    | (with_reducible apply modEngine_same)
    | (with_reducible apply forAll_same)
    | (with_reducible apply failEngine_same)
    | (with_reducible apply execSpareSelftest_same)
    | (with_reducible refine hopt _ (by assumption))
    | (with_reducible exact hopt _ rfl)
    | (with_reducible apply hfun)
    | (intro _)
    | split
    | (with_reducible apply AnswerSame.next)
    | (with_reducible apply same_getD)
    | (refine same_mk hs ?_; intro p hp; cases p <;> first | exact rfl | exact absurd (by assumption) hp)
    | (refine same_mk (by assumption) ?_; intro p hp; cases p <;> first | exact rfl | exact absurd (by assumption) hp)
    | (dsimp only)
    | (rename_i he; split at he)
    | (rename_i he; injection he with he; subst he)

theorem bootLinks_same {pts : List Part} {st0 : State} (w : BootWorld) (s : State) (hs : Agrees pts st0 s) (mevents : Part.events ∈ pts) (mlinks : Part.links ∈ pts) : Agrees pts st0 (bootLinks w s) := by
  delta bootLinks
  repeat' first
    | (with_reducible assumption)
    | (with_reducible rfl)
    | (with_reducible refine fun _ => ?_)
    | lift_lets
    | (intro x; refine same_cut (w := pts) (s0 := st0) x ?_ ?_; rotate_left; intro _; clear_value x; rotate_left; unfold x)
    | (intro x; refine same_cut_ss (w := pts) (s0 := st0) x ?_ ?_; rotate_left; intro hfun; clear_value x; rotate_left; unfold x)
    | (intro x; refine same_cut_ass (w := pts) (s0 := st0) x ?_ ?_; rotate_left; intro hfun; clear_value x; rotate_left; unfold x)
    | (intro x; refine same_cut_abss (w := pts) (s0 := st0) x ?_ ?_; rotate_left; intro hfun; clear_value x; rotate_left; unfold x)
    | (intro x; refine same_cut_a (w := pts) (s0 := st0) x ?_ ?_; rotate_left; intro hfun; clear_value x; rotate_left; unfold x)
    | (intro x; refine same_cut_ab (w := pts) (s0 := st0) x ?_ ?_; rotate_left; intro hfun; clear_value x; rotate_left; unfold x)
    | (intro x; refine same_cut_abc (w := pts) (s0 := st0) x ?_ ?_; rotate_left; intro hfun; clear_value x; rotate_left; unfold x)
    | (intro x; refine same_cut_o1 (w := pts) (s0 := st0) x ?_ ?_; rotate_left; intro hopt; clear_value x; rotate_left; unfold x)
    | (intro x; refine same_cut_o (w := pts) (s0 := st0) x ?_ ?_; rotate_left; intro hopt; clear_value x; rotate_left; unfold x)
    | (intro x; refine same_cut_fst (w := pts) (s0 := st0) x ?_ ?_; rotate_left; intro _; clear_value x; rotate_left; unfold x)
    | (intro x; refine same_cut_snd (w := pts) (s0 := st0) x ?_ ?_; rotate_left; intro _; clear_value x; rotate_left; unfold x)
    | (intro x; clear_value x)
    | (with_reducible apply forAll_same)
    | (with_reducible apply trainLink_same)
    | (with_reducible refine hopt _ (by assumption))
    | (with_reducible exact hopt _ rfl)
    | (with_reducible apply hfun)
    | (intro _)
    | split
    | (with_reducible apply AnswerSame.next)
    | (with_reducible apply same_getD)
    | (refine same_mk hs ?_; intro p hp; cases p <;> first | exact rfl | exact absurd (by assumption) hp)
    | (refine same_mk (by assumption) ?_; intro p hp; cases p <;> first | exact rfl | exact absurd (by assumption) hp)
    | (dsimp only)
    | (rename_i he; split at he)
    | (rename_i he; injection he with he; subst he)

theorem bootFabric_same {pts : List Part} {st0 : State} (s : State) (hs : Agrees pts st0 s) (mfab : Part.fab ∈ pts) : Agrees pts st0 (bootFabric s) := by
  delta bootFabric
  repeat' first
    | (with_reducible assumption)
    | lift_lets
    | (intro x; clear_value x)
    | (with_reducible apply modFab_same)

theorem bootEthernet_same {pts : List Part} {st0 : State} (w : BootWorld) (s : State) (hs : Agrees pts st0 s) (mevents : Part.events ∈ pts) (meth : Part.eth ∈ pts) : Agrees pts st0 (bootEthernet w s) := by
  delta bootEthernet
  repeat' first
    | (with_reducible assumption)
    | (with_reducible rfl)
    | (with_reducible refine fun _ => ?_)
    | lift_lets
    | (intro x; refine same_cut (w := pts) (s0 := st0) x ?_ ?_; rotate_left; intro _; clear_value x; rotate_left; unfold x)
    | (intro x; refine same_cut_ss (w := pts) (s0 := st0) x ?_ ?_; rotate_left; intro hfun; clear_value x; rotate_left; unfold x)
    | (intro x; refine same_cut_ass (w := pts) (s0 := st0) x ?_ ?_; rotate_left; intro hfun; clear_value x; rotate_left; unfold x)
    | (intro x; refine same_cut_abss (w := pts) (s0 := st0) x ?_ ?_; rotate_left; intro hfun; clear_value x; rotate_left; unfold x)
    | (intro x; refine same_cut_a (w := pts) (s0 := st0) x ?_ ?_; rotate_left; intro hfun; clear_value x; rotate_left; unfold x)
    | (intro x; refine same_cut_ab (w := pts) (s0 := st0) x ?_ ?_; rotate_left; intro hfun; clear_value x; rotate_left; unfold x)
    | (intro x; refine same_cut_abc (w := pts) (s0 := st0) x ?_ ?_; rotate_left; intro hfun; clear_value x; rotate_left; unfold x)
    | (intro x; refine same_cut_o1 (w := pts) (s0 := st0) x ?_ ?_; rotate_left; intro hopt; clear_value x; rotate_left; unfold x)
    | (intro x; refine same_cut_o (w := pts) (s0 := st0) x ?_ ?_; rotate_left; intro hopt; clear_value x; rotate_left; unfold x)
    | (intro x; refine same_cut_fst (w := pts) (s0 := st0) x ?_ ?_; rotate_left; intro _; clear_value x; rotate_left; unfold x)
    | (intro x; refine same_cut_snd (w := pts) (s0 := st0) x ?_ ?_; rotate_left; intro _; clear_value x; rotate_left; unfold x)
    | (intro x; clear_value x)
    | (with_reducible apply modEth_same)
    | (with_reducible apply forAll_same)
    | (with_reducible apply ifUp_same)
    | (with_reducible refine hopt _ (by assumption))
    | (with_reducible exact hopt _ rfl)
    | (with_reducible apply hfun)
    | (intro _)
    | split
    | (with_reducible apply AnswerSame.next)
    | (with_reducible apply same_getD)
    | (refine same_mk hs ?_; intro p hp; cases p <;> first | exact rfl | exact absurd (by assumption) hp)
    | (refine same_mk (by assumption) ?_; intro p hp; cases p <;> first | exact rfl | exact absurd (by assumption) hp)
    | (dsimp only)
    | (rename_i he; split at he)
    | (rename_i he; injection he with he; subst he)

theorem bootTime_same {pts : List Part} {st0 : State} (w : BootWorld) (s : State) (hs : Agrees pts st0 s) (mtime : Part.time ∈ pts) (mglb : Part.glb ∈ pts) (mevents : Part.events ∈ pts) (mboot : Part.boot ∈ pts) (mfwc : Part.fwc ∈ pts) (meth : Part.eth ∈ pts) : Agrees pts st0 (bootTime w s) := by
  delta bootTime
  repeat' first
    | (with_reducible assumption)
    | (with_reducible rfl)
    | (with_reducible refine fun _ => ?_)
    | lift_lets
    | (intro x; refine same_cut (w := pts) (s0 := st0) x ?_ ?_; rotate_left; intro _; clear_value x; rotate_left; unfold x)
    | (intro x; refine same_cut_ss (w := pts) (s0 := st0) x ?_ ?_; rotate_left; intro hfun; clear_value x; rotate_left; unfold x)
    | (intro x; refine same_cut_ass (w := pts) (s0 := st0) x ?_ ?_; rotate_left; intro hfun; clear_value x; rotate_left; unfold x)
    | (intro x; refine same_cut_abss (w := pts) (s0 := st0) x ?_ ?_; rotate_left; intro hfun; clear_value x; rotate_left; unfold x)
    | (intro x; refine same_cut_a (w := pts) (s0 := st0) x ?_ ?_; rotate_left; intro hfun; clear_value x; rotate_left; unfold x)
    | (intro x; refine same_cut_ab (w := pts) (s0 := st0) x ?_ ?_; rotate_left; intro hfun; clear_value x; rotate_left; unfold x)
    | (intro x; refine same_cut_abc (w := pts) (s0 := st0) x ?_ ?_; rotate_left; intro hfun; clear_value x; rotate_left; unfold x)
    | (intro x; refine same_cut_o1 (w := pts) (s0 := st0) x ?_ ?_; rotate_left; intro hopt; clear_value x; rotate_left; unfold x)
    | (intro x; refine same_cut_o (w := pts) (s0 := st0) x ?_ ?_; rotate_left; intro hopt; clear_value x; rotate_left; unfold x)
    | (intro x; refine same_cut_fst (w := pts) (s0 := st0) x ?_ ?_; rotate_left; intro _; clear_value x; rotate_left; unfold x)
    | (intro x; refine same_cut_snd (w := pts) (s0 := st0) x ?_ ?_; rotate_left; intro _; clear_value x; rotate_left; unfold x)
    | (intro x; clear_value x)
    | (with_reducible apply modTime_same)
    | (with_reducible apply modFwc_same)
    | (with_reducible apply modEth_same)
    | (with_reducible apply lockAgain_same)
    | (with_reducible apply ledgerNote_same)
    | (with_reducible refine hopt _ (by assumption))
    | (with_reducible exact hopt _ rfl)
    | (with_reducible apply hfun)
    | (intro _)
    | split
    | (with_reducible apply AnswerSame.next)
    | (with_reducible apply same_getD)
    | (refine same_mk hs ?_; intro p hp; cases p <;> first | exact rfl | exact absurd (by assumption) hp)
    | (refine same_mk (by assumption) ?_; intro p hp; cases p <;> first | exact rfl | exact absurd (by assumption) hp)
    | (dsimp only)
    | (rename_i he; split at he)
    | (rename_i he; injection he with he; subst he)

theorem bootSpares_same {pts : List Part} {st0 : State} (w : BootWorld) (s : State) (hs : Agrees pts st0 s) (mevents : Part.events ∈ pts) (mrepair : Part.repair ∈ pts) (mrepairSeq : Part.repairSeq ∈ pts) (mspareCluster : Part.spareCluster ∈ pts) (mstks : Part.stks ∈ pts) (mflash : Part.flash ∈ pts) : Agrees pts st0 (bootSpares w s) := by
  delta bootSpares
  repeat' first
    | (with_reducible assumption)
    | (with_reducible rfl)
    | (with_reducible refine fun _ => ?_)
    | lift_lets
    | (intro x; refine same_cut (w := pts) (s0 := st0) x ?_ ?_; rotate_left; intro _; clear_value x; rotate_left; unfold x)
    | (intro x; refine same_cut_ss (w := pts) (s0 := st0) x ?_ ?_; rotate_left; intro hfun; clear_value x; rotate_left; unfold x)
    | (intro x; refine same_cut_ass (w := pts) (s0 := st0) x ?_ ?_; rotate_left; intro hfun; clear_value x; rotate_left; unfold x)
    | (intro x; refine same_cut_abss (w := pts) (s0 := st0) x ?_ ?_; rotate_left; intro hfun; clear_value x; rotate_left; unfold x)
    | (intro x; refine same_cut_a (w := pts) (s0 := st0) x ?_ ?_; rotate_left; intro hfun; clear_value x; rotate_left; unfold x)
    | (intro x; refine same_cut_ab (w := pts) (s0 := st0) x ?_ ?_; rotate_left; intro hfun; clear_value x; rotate_left; unfold x)
    | (intro x; refine same_cut_abc (w := pts) (s0 := st0) x ?_ ?_; rotate_left; intro hfun; clear_value x; rotate_left; unfold x)
    | (intro x; refine same_cut_o1 (w := pts) (s0 := st0) x ?_ ?_; rotate_left; intro hopt; clear_value x; rotate_left; unfold x)
    | (intro x; refine same_cut_o (w := pts) (s0 := st0) x ?_ ?_; rotate_left; intro hopt; clear_value x; rotate_left; unfold x)
    | (intro x; refine same_cut_fst (w := pts) (s0 := st0) x ?_ ?_; rotate_left; intro _; clear_value x; rotate_left; unfold x)
    | (intro x; refine same_cut_snd (w := pts) (s0 := st0) x ?_ ?_; rotate_left; intro _; clear_value x; rotate_left; unfold x)
    | (intro x; clear_value x)
    | (with_reducible apply doneOr_same)
    | (with_reducible apply modFlash_same)
    | (with_reducible apply forAll_same)
    | (with_reducible apply mapChange_same)
    | (with_reducible apply execSpareSelftest_same)
    | (with_reducible refine hopt _ (by assumption))
    | (with_reducible exact hopt _ rfl)
    | (with_reducible apply hfun)
    | (intro _)
    | split
    | (with_reducible apply AnswerSame.next)
    | (with_reducible apply same_getD)
    | (refine same_mk hs ?_; intro p hp; cases p <;> first | exact rfl | exact absurd (by assumption) hp)
    | (refine same_mk (by assumption) ?_; intro p hp; cases p <;> first | exact rfl | exact absurd (by assumption) hp)
    | (dsimp only)
    | (rename_i he; split at he)
    | (rename_i he; injection he with he; subst he)

theorem bootLock_same {pts : List Part} {st0 : State} (s : State) (hs : Agrees pts st0 s) (mglb : Part.glb ∈ pts) (mclusters : Part.clusters ∈ pts) (mstreams : Part.streams ∈ pts) (mflash : Part.flash ∈ pts) : Agrees pts st0 (bootLock s) := by
  delta bootLock
  repeat' first
    | (with_reducible assumption)
    | lift_lets
    | (intro x; refine same_cut (w := pts) (s0 := st0) x ?_ ?_; rotate_left; intro _; clear_value x; rotate_left; unfold x)
    | (intro x; clear_value x)
    | (with_reducible apply modGlb_same)
    | (with_reducible apply modFlash_same)
    | (with_reducible apply modStreams_same)
    | (refine same_mk hs ?_; intro p hp; cases p <;> first | exact rfl | exact absurd (by assumption) hp)

theorem bootPower_same {pts : List Part} {st0 : State} (s : State) (hs : Agrees pts st0 s) (mevents : Part.events ∈ pts) (mpins : Part.pins ∈ pts) (mfwc : Part.fwc ∈ pts) (mrepair : Part.repair ∈ pts) (mrepairSeq : Part.repairSeq ∈ pts) (mfreeCtr : Part.freeCtr ∈ pts) : Agrees pts st0 (bootPower s) := by
  delta bootPower
  repeat' first
    | (with_reducible assumption)
    | lift_lets
    | (intro x; refine same_cut (w := pts) (s0 := st0) x ?_ ?_; rotate_left; intro _; clear_value x; rotate_left; unfold x)
    | (with_reducible apply modFwc_same)
    | (with_reducible apply modPins_same)
    | (with_reducible apply setFlag_same)
    | split

theorem bootClocks_same {pts : List Part} {st0 : State} (s : State) (hs : Agrees pts st0 s) (mevents : Part.events ∈ pts) (mboot : Part.boot ∈ pts) (mfwc : Part.fwc ∈ pts) (mclusters : Part.clusters ∈ pts) (mstks : Part.stks ∈ pts) (mfreeCtr : Part.freeCtr ∈ pts) : Agrees pts st0 (bootClocks s) := by
  delta bootClocks
  repeat' first
    | (with_reducible assumption)
    | lift_lets
    | (intro x; refine same_cut (w := pts) (s0 := st0) x ?_ ?_; rotate_left; intro _; clear_value x; rotate_left; unfold x)
    | (intro x; clear_value x)
    | (with_reducible apply modFwc_same)
    | (with_reducible apply modBoot_same)
    | (with_reducible apply settleClocks_same)
    | (refine same_mk (by assumption) ?_; intro p hp; cases p <;> first | exact rfl | exact absurd (by assumption) hp)

theorem bootImageStep_same {pts : List Part} {st0 : State} (w : BootWorld) (s : State) (hs : Agrees pts st0 s) (mevents : Part.events ∈ pts) (mboot : Part.boot ∈ pts) (mfwc : Part.fwc ∈ pts) : Agrees pts st0 (bootImageStep w s) := by
  delta bootImageStep
  repeat' first
    | (with_reducible assumption)
    | lift_lets
    | (intro x; refine same_cut (w := pts) (s0 := st0) x ?_ ?_; rotate_left; intro _; clear_value x; rotate_left; unfold x)
    | (with_reducible apply modFwc_same)
    | (with_reducible apply modBoot_same)
    | (with_reducible apply noteSlot_same)
    | (with_reducible apply logBoot_same)
    | (with_reducible apply resolveItems_same)
    | split
    | (dsimp only)

theorem stepActs_same {pts : List Part} {st0 : State} (n : Nat) (w : BootWorld) (s : State) (hs : Agrees pts st0 s) (mtime : Part.time ∈ pts) (mglb : Part.glb ∈ pts) (mevents : Part.events ∈ pts) (mpins : Part.pins ∈ pts) (mboot : Part.boot ∈ pts) (mfwc : Part.fwc ∈ pts) (mrepair : Part.repair ∈ pts) (mrepairSeq : Part.repairSeq ∈ pts) (meth : Part.eth ∈ pts) (mlinks : Part.links ∈ pts) (mlinkSpares : Part.linkSpares ∈ pts) (mdescs : Part.descs ∈ pts) (mclusters : Part.clusters ∈ pts) (mspareCluster : Part.spareCluster ∈ pts) (mstks : Part.stks ∈ pts) (mstreams : Part.streams ∈ pts) (mflash : Part.flash ∈ pts) (mmem : Part.mem ∈ pts) (mbushels : Part.bushels ∈ pts) (mfreeCtr : Part.freeCtr ∈ pts) : Agrees pts st0 (stepActs n w s) := by
  delta stepActs
  repeat' first
    | (with_reducible assumption)
    | (with_reducible refine fun _ => ?_)
    | lift_lets
    | (intro x; refine same_cut (w := pts) (s0 := st0) x ?_ ?_; rotate_left; intro _; clear_value x; rotate_left; unfold x)
    | (with_reducible apply modBoot_same)
    | (with_reducible apply forAll_same)
    | (with_reducible apply settleClocks_same)
    | (with_reducible apply logBoot_same)
    | (with_reducible apply applyEntry_same)
    | (with_reducible apply applyStackEntry_same)
    | (with_reducible apply bootClusters_same)
    | (with_reducible apply bootStacks_same)
    | (with_reducible apply bootLinks_same)
    | (with_reducible apply bootEthernet_same)
    | (with_reducible apply bootTime_same)
    | (with_reducible apply bootSpares_same)
    | (with_reducible apply bootLock_same)
    | (with_reducible apply bootPower_same)
    | (with_reducible apply bootClocks_same)
    | (with_reducible apply bootImageStep_same)
    | split
    | (refine same_mk hs ?_; intro p hp; cases p <;> first | exact rfl | exact absurd (by assumption) hp)

theorem stepSkipped_same {pts : List Part} {st0 : State} (n : Nat) (s : State) (hs : Agrees pts st0 s) (mflash : Part.flash ∈ pts) : Agrees pts st0 (stepSkipped n s) := by
  delta stepSkipped
  repeat' first
    | (with_reducible assumption)
    | (with_reducible apply modFlash_same)
    | split

theorem countFail_same {pts : List Part} {st0 : State} (n cause detail : Nat) (s : State) (hs : Agrees pts st0 s) (mevents : Part.events ∈ pts) (mboot : Part.boot ∈ pts) : Agrees pts st0 (countFail n cause detail s) := by
  delta countFail
  repeat' first
    | (with_reducible assumption)
    | lift_lets
    | (intro x; refine same_cut (w := pts) (s0 := st0) x ?_ ?_; rotate_left; intro _; clear_value x; rotate_left; unfold x)
    | (with_reducible apply modBoot_same)
    | (with_reducible apply logBoot_same)
    | (with_reducible apply ledgerNote_same)

theorem noteMismatch_same {pts : List Part} {st0 : State} (n cause : Nat) (w : BootWorld) (s : State) (hs : Agrees pts st0 s) (mglb : Part.glb ∈ pts) (mevents : Part.events ∈ pts) : Agrees pts st0 (noteMismatch n cause w s) := by
  delta noteMismatch
  repeat' first
    | (with_reducible assumption)
    | (with_reducible rfl)
    | (with_reducible refine fun _ => ?_)
    | lift_lets
    | (intro x; refine same_cut (w := pts) (s0 := st0) x ?_ ?_; rotate_left; intro _; clear_value x; rotate_left; unfold x)
    | (intro x; refine same_cut_ss (w := pts) (s0 := st0) x ?_ ?_; rotate_left; intro hfun; clear_value x; rotate_left; unfold x)
    | (intro x; refine same_cut_ass (w := pts) (s0 := st0) x ?_ ?_; rotate_left; intro hfun; clear_value x; rotate_left; unfold x)
    | (intro x; refine same_cut_abss (w := pts) (s0 := st0) x ?_ ?_; rotate_left; intro hfun; clear_value x; rotate_left; unfold x)
    | (intro x; refine same_cut_a (w := pts) (s0 := st0) x ?_ ?_; rotate_left; intro hfun; clear_value x; rotate_left; unfold x)
    | (intro x; refine same_cut_ab (w := pts) (s0 := st0) x ?_ ?_; rotate_left; intro hfun; clear_value x; rotate_left; unfold x)
    | (intro x; refine same_cut_abc (w := pts) (s0 := st0) x ?_ ?_; rotate_left; intro hfun; clear_value x; rotate_left; unfold x)
    | (intro x; refine same_cut_o1 (w := pts) (s0 := st0) x ?_ ?_; rotate_left; intro hopt; clear_value x; rotate_left; unfold x)
    | (intro x; refine same_cut_o (w := pts) (s0 := st0) x ?_ ?_; rotate_left; intro hopt; clear_value x; rotate_left; unfold x)
    | (intro x; refine same_cut_fst (w := pts) (s0 := st0) x ?_ ?_; rotate_left; intro _; clear_value x; rotate_left; unfold x)
    | (intro x; refine same_cut_snd (w := pts) (s0 := st0) x ?_ ?_; rotate_left; intro _; clear_value x; rotate_left; unfold x)
    | (intro x; clear_value x)
    | (with_reducible apply logTime_same)
    | (with_reducible refine hopt _ (by assumption))
    | (with_reducible exact hopt _ rfl)
    | (with_reducible apply hfun)
    | (intro _)
    | split
    | (with_reducible apply AnswerSame.next)
    | (with_reducible apply same_getD)
    | (refine same_mk hs ?_; intro p hp; cases p <;> first | exact rfl | exact absurd (by assumption) hp)
    | (refine same_mk (by assumption) ?_; intro p hp; cases p <;> first | exact rfl | exact absurd (by assumption) hp)
    | (dsimp only)
    | (rename_i he; split at he)
    | (rename_i he; injection he with he; subst he)

theorem stepFailed_same {pts : List Part} {st0 : State} (n cause detail : Nat) (s : State) (hs : Agrees pts st0 s) (mglb : Part.glb ∈ pts) (mevents : Part.events ∈ pts) (mboot : Part.boot ∈ pts) (mfwc : Part.fwc ∈ pts) (meth : Part.eth ∈ pts) (mlinks : Part.links ∈ pts) (mroods : Part.roods ∈ pts) : Agrees pts st0 (stepFailed n cause detail s) := by
  delta stepFailed
  repeat' first
    | (with_reducible assumption)
    | lift_lets
    | (intro x; refine same_cut (w := pts) (s0 := st0) x ?_ ?_; rotate_left; intro _; clear_value x; rotate_left; unfold x)
    | (with_reducible apply modBoot_same)
    | (with_reducible apply enterSafe_same)
    | (with_reducible apply countFail_same)
    | split

theorem stepPassed_same {pts : List Part} {st0 : State} (n : Nat) (s : State) (hs : Agrees pts st0 s) (mboot : Part.boot ∈ pts) : Agrees pts st0 (stepPassed n s) := by
  delta stepPassed
  repeat' first
    | (with_reducible assumption)
    | lift_lets
    | (intro x; refine same_cut (w := pts) (s0 := st0) x ?_ ?_; rotate_left; intro _; clear_value x; rotate_left; unfold x)
    | (intro x; clear_value x)
    | (with_reducible apply modBoot_same)
    | (with_reducible apply ledgerNote_same)

theorem runSteps_same {pts : List Part} {st0 : State} (bw : BootWorld) (l : List Nat) (s : State) (hs : Agrees pts st0 s) (mtime : Part.time ∈ pts) (mglb : Part.glb ∈ pts) (mevents : Part.events ∈ pts) (mpins : Part.pins ∈ pts) (mboot : Part.boot ∈ pts) (mfwc : Part.fwc ∈ pts) (mrepair : Part.repair ∈ pts) (mrepairSeq : Part.repairSeq ∈ pts) (meth : Part.eth ∈ pts) (mlinks : Part.links ∈ pts) (mlinkSpares : Part.linkSpares ∈ pts) (mfab : Part.fab ∈ pts) (mroods : Part.roods ∈ pts) (mdescs : Part.descs ∈ pts) (mclusters : Part.clusters ∈ pts) (mspareCluster : Part.spareCluster ∈ pts) (mstks : Part.stks ∈ pts) (mstreams : Part.streams ∈ pts) (mflash : Part.flash ∈ pts) (mmem : Part.mem ∈ pts) (mbushels : Part.bushels ∈ pts) (mfreeCtr : Part.freeCtr ∈ pts) : Agrees pts st0 (runSteps bw l s) := by
  induction l generalizing s with
  | nil => exact ledgerNote_same _ _ _ _ _ hs (by assumption)
  | cons n rest ih =>
    unfold runSteps
    repeat' first
      | (with_reducible assumption)
      | lift_lets
      | (intro x; refine same_cut (w := pts) (s0 := st0) x ?_ ?_; rotate_left; intro _; clear_value x; rotate_left; unfold x)
      | (with_reducible apply ih)
      | (with_reducible apply noteMismatch_same)
      | (with_reducible apply ledgerNote_same)
      | (with_reducible apply stepFailed_same)
      | (with_reducible apply stepSkipped_same)
      | (with_reducible apply stepPassed_same)
      | (with_reducible apply stepActs_same)
      | (with_reducible apply logBoot_same)
      | (with_reducible apply bootFabric_same)
      | (with_reducible apply modBoot_same)
      | (intro _)
      | split

theorem noteInterrupted_same {pts : List Part} {st0 : State} (s : State) (hs : Agrees pts st0 s) (mevents : Part.events ∈ pts) (mboot : Part.boot ∈ pts) : Agrees pts st0 (noteInterrupted s).2 := by
  delta noteInterrupted
  repeat' first
    | (with_reducible assumption)
    | lift_lets
    | (intro x; refine same_cut (w := pts) (s0 := st0) x ?_ ?_; rotate_left; intro _; clear_value x; rotate_left; unfold x)
    | (with_reducible apply countFail_same)
    | split

theorem noteInterrupted_same_eq {pts : List Part} {st0 : State} (s : State) {tOut : State} {outv : _} (hs : Agrees pts st0 s) (mevents : Part.events ∈ pts) (mboot : Part.boot ∈ pts) (e : noteInterrupted s = (outv, tOut)) : Agrees pts st0 tOut := by
  have := noteInterrupted_same (pts := pts) (st0 := st0) s hs mevents mboot
  rw [e] at this; exact this

theorem startModule_same {pts : List Part} {st0 : State} (cause : Nat) (w : BootWorld) (s : State) (hs : Agrees pts st0 s) (mtime : Part.time ∈ pts) (mglb : Part.glb ∈ pts) (mevents : Part.events ∈ pts) (mpins : Part.pins ∈ pts) (mboot : Part.boot ∈ pts) (mnor : Part.nor ∈ pts) (mfwc : Part.fwc ∈ pts) (mrepair : Part.repair ∈ pts) (mrepairSeq : Part.repairSeq ∈ pts) (msec : Part.sec ∈ pts) (mwin : Part.win ∈ pts) (meth : Part.eth ∈ pts) (mlinks : Part.links ∈ pts) (mlinkSpares : Part.linkSpares ∈ pts) (mfab : Part.fab ∈ pts) (mroods : Part.roods ∈ pts) (mslices : Part.slices ∈ pts) (mdrrNext : Part.drrNext ∈ pts) (mqueues : Part.queues ∈ pts) (mdescs : Part.descs ∈ pts) (mnextDesc : Part.nextDesc ∈ pts) (mclusters : Part.clusters ∈ pts) (mspareCluster : Part.spareCluster ∈ pts) (mstks : Part.stks ∈ pts) (mstreams : Part.streams ∈ pts) (mflash : Part.flash ∈ pts) (mslots : Part.slots ∈ pts) (mcache : Part.cache ∈ pts) (mnextCache : Part.nextCache ∈ pts) (mrequests : Part.requests ∈ pts) (mnextReq : Part.nextReq ∈ pts) (mbinds : Part.binds ∈ pts) (mmem : Part.mem ∈ pts) (mbushels : Part.bushels ∈ pts) (mfreeCtr : Part.freeCtr ∈ pts) : Agrees pts st0 (startModule cause w s) := by
  delta startModule
  repeat' first
    | (with_reducible assumption)
    | lift_lets
    | (intro x; refine same_cut (w := pts) (s0 := st0) x ?_ ?_; rotate_left; intro _; clear_value x; rotate_left; unfold x)
    | (intro x; clear_value x)
    | (with_reducible apply modPins_same)
    | (with_reducible apply modBoot_same)
    | (with_reducible apply logSec_same)
    | (with_reducible apply ledgerNote_same)
    | (with_reducible apply cleared_same)
    | (with_reducible apply enterSafe_same)
    | (with_reducible apply runSteps_same)
    | (with_reducible refine noteInterrupted_same_eq _ ?_ ?_ ?_ (by assumption))
    | split

theorem shutDown_same {pts : List Part} {st0 : State} (cause : Nat) (w : BootWorld) (s : State) (hs : Agrees pts st0 s) (mtime : Part.time ∈ pts) (mglb : Part.glb ∈ pts) (mevents : Part.events ∈ pts) (mpins : Part.pins ∈ pts) (mboot : Part.boot ∈ pts) (mnor : Part.nor ∈ pts) (mfwc : Part.fwc ∈ pts) (mrepair : Part.repair ∈ pts) (mrepairSeq : Part.repairSeq ∈ pts) (msec : Part.sec ∈ pts) (mwin : Part.win ∈ pts) (meth : Part.eth ∈ pts) (mlinks : Part.links ∈ pts) (mlinkSpares : Part.linkSpares ∈ pts) (mfab : Part.fab ∈ pts) (mroods : Part.roods ∈ pts) (mslices : Part.slices ∈ pts) (mdrrNext : Part.drrNext ∈ pts) (mqueues : Part.queues ∈ pts) (mdescs : Part.descs ∈ pts) (mnextDesc : Part.nextDesc ∈ pts) (mclusters : Part.clusters ∈ pts) (mspareCluster : Part.spareCluster ∈ pts) (mstks : Part.stks ∈ pts) (mstreams : Part.streams ∈ pts) (mflash : Part.flash ∈ pts) (mslots : Part.slots ∈ pts) (mcache : Part.cache ∈ pts) (mnextCache : Part.nextCache ∈ pts) (mrequests : Part.requests ∈ pts) (mnextReq : Part.nextReq ∈ pts) (mbinds : Part.binds ∈ pts) (mmem : Part.mem ∈ pts) (mbushels : Part.bushels ∈ pts) (mfreeCtr : Part.freeCtr ∈ pts) : Agrees pts st0 (shutDown cause w s) := by
  delta shutDown
  repeat' first
    | (with_reducible assumption)
    | (with_reducible rfl)
    | (with_reducible refine fun _ => ?_)
    | lift_lets
    | (intro x; refine same_cut (w := pts) (s0 := st0) x ?_ ?_; rotate_left; intro _; clear_value x; rotate_left; unfold x)
    | (intro x; refine same_cut_ss (w := pts) (s0 := st0) x ?_ ?_; rotate_left; intro hfun; clear_value x; rotate_left; unfold x)
    | (intro x; refine same_cut_ass (w := pts) (s0 := st0) x ?_ ?_; rotate_left; intro hfun; clear_value x; rotate_left; unfold x)
    | (intro x; refine same_cut_abss (w := pts) (s0 := st0) x ?_ ?_; rotate_left; intro hfun; clear_value x; rotate_left; unfold x)
    | (intro x; refine same_cut_a (w := pts) (s0 := st0) x ?_ ?_; rotate_left; intro hfun; clear_value x; rotate_left; unfold x)
    | (intro x; refine same_cut_ab (w := pts) (s0 := st0) x ?_ ?_; rotate_left; intro hfun; clear_value x; rotate_left; unfold x)
    | (intro x; refine same_cut_abc (w := pts) (s0 := st0) x ?_ ?_; rotate_left; intro hfun; clear_value x; rotate_left; unfold x)
    | (intro x; refine same_cut_o1 (w := pts) (s0 := st0) x ?_ ?_; rotate_left; intro hopt; clear_value x; rotate_left; unfold x)
    | (intro x; refine same_cut_o (w := pts) (s0 := st0) x ?_ ?_; rotate_left; intro hopt; clear_value x; rotate_left; unfold x)
    | (intro x; refine same_cut_fst (w := pts) (s0 := st0) x ?_ ?_; rotate_left; intro _; clear_value x; rotate_left; unfold x)
    | (intro x; refine same_cut_snd (w := pts) (s0 := st0) x ?_ ?_; rotate_left; intro _; clear_value x; rotate_left; unfold x)
    | (intro x; clear_value x)
    | (with_reducible apply ledgerNote_same)
    | (with_reducible apply startModule_same)
    | (with_reducible refine hopt _ (by assumption))
    | (with_reducible exact hopt _ rfl)
    | (with_reducible apply hfun)
    | (intro _)
    | split
    | (with_reducible apply AnswerSame.next)
    | (with_reducible apply same_getD)
    | (refine same_mk hs ?_; intro p hp; cases p <;> first | exact rfl | exact absurd (by assumption) hp)
    | (refine same_mk (by assumption) ?_; intro p hp; cases p <;> first | exact rfl | exact absurd (by assumption) hp)
    | (dsimp only)
    | (rename_i he; split at he)
    | (rename_i he; injection he with he; subst he)

theorem leaveOrderly_same {pts : List Part} {st0 : State} (cause : Nat) (w : BootWorld) (s : State) (hs : Agrees pts st0 s) (mtime : Part.time ∈ pts) (mglb : Part.glb ∈ pts) (mevents : Part.events ∈ pts) (mpins : Part.pins ∈ pts) (mboot : Part.boot ∈ pts) (mnor : Part.nor ∈ pts) (mfwc : Part.fwc ∈ pts) (mrepair : Part.repair ∈ pts) (mrepairSeq : Part.repairSeq ∈ pts) (msec : Part.sec ∈ pts) (mwin : Part.win ∈ pts) (meth : Part.eth ∈ pts) (mlinks : Part.links ∈ pts) (mlinkSpares : Part.linkSpares ∈ pts) (mfab : Part.fab ∈ pts) (mroods : Part.roods ∈ pts) (mslices : Part.slices ∈ pts) (mdrrNext : Part.drrNext ∈ pts) (mqueues : Part.queues ∈ pts) (mdescs : Part.descs ∈ pts) (mnextDesc : Part.nextDesc ∈ pts) (mclusters : Part.clusters ∈ pts) (mspareCluster : Part.spareCluster ∈ pts) (mstks : Part.stks ∈ pts) (mstreams : Part.streams ∈ pts) (mflash : Part.flash ∈ pts) (mslots : Part.slots ∈ pts) (mcache : Part.cache ∈ pts) (mnextCache : Part.nextCache ∈ pts) (mrequests : Part.requests ∈ pts) (mnextReq : Part.nextReq ∈ pts) (mbinds : Part.binds ∈ pts) (mmem : Part.mem ∈ pts) (mbushels : Part.bushels ∈ pts) (mfreeCtr : Part.freeCtr ∈ pts) : Agrees pts st0 (leaveOrderly cause w s) := by
  delta leaveOrderly
  repeat' first
    | (with_reducible assumption)
    | (with_reducible rfl)
    | (with_reducible refine fun _ => ?_)
    | lift_lets
    | (intro x; refine same_cut (w := pts) (s0 := st0) x ?_ ?_; rotate_left; intro _; clear_value x; rotate_left; unfold x)
    | (intro x; refine same_cut_ss (w := pts) (s0 := st0) x ?_ ?_; rotate_left; intro hfun; clear_value x; rotate_left; unfold x)
    | (intro x; refine same_cut_ass (w := pts) (s0 := st0) x ?_ ?_; rotate_left; intro hfun; clear_value x; rotate_left; unfold x)
    | (intro x; refine same_cut_abss (w := pts) (s0 := st0) x ?_ ?_; rotate_left; intro hfun; clear_value x; rotate_left; unfold x)
    | (intro x; refine same_cut_a (w := pts) (s0 := st0) x ?_ ?_; rotate_left; intro hfun; clear_value x; rotate_left; unfold x)
    | (intro x; refine same_cut_ab (w := pts) (s0 := st0) x ?_ ?_; rotate_left; intro hfun; clear_value x; rotate_left; unfold x)
    | (intro x; refine same_cut_abc (w := pts) (s0 := st0) x ?_ ?_; rotate_left; intro hfun; clear_value x; rotate_left; unfold x)
    | (intro x; refine same_cut_o1 (w := pts) (s0 := st0) x ?_ ?_; rotate_left; intro hopt; clear_value x; rotate_left; unfold x)
    | (intro x; refine same_cut_o (w := pts) (s0 := st0) x ?_ ?_; rotate_left; intro hopt; clear_value x; rotate_left; unfold x)
    | (intro x; refine same_cut_fst (w := pts) (s0 := st0) x ?_ ?_; rotate_left; intro _; clear_value x; rotate_left; unfold x)
    | (intro x; refine same_cut_snd (w := pts) (s0 := st0) x ?_ ?_; rotate_left; intro _; clear_value x; rotate_left; unfold x)
    | (intro x; clear_value x)
    | (with_reducible apply modTime_same)
    | (with_reducible apply modBoot_same)
    | (with_reducible apply stopRoods_same)
    | (with_reducible apply shutDown_same)
    | (with_reducible refine hopt _ (by assumption))
    | (with_reducible exact hopt _ rfl)
    | (with_reducible apply hfun)
    | (intro _)
    | split
    | (with_reducible apply AnswerSame.next)
    | (with_reducible apply same_getD)
    | (refine same_mk hs ?_; intro p hp; cases p <;> first | exact rfl | exact absurd (by assumption) hp)
    | (refine same_mk (by assumption) ?_; intro p hp; cases p <;> first | exact rfl | exact absurd (by assumption) hp)
    | (dsimp only)
    | (rename_i he; split at he)
    | (rename_i he; injection he with he; subst he)

theorem leaveDue_same {pts : List Part} {st0 : State} (s : State) (hs : Agrees pts st0 s) (mtime : Part.time ∈ pts) (mglb : Part.glb ∈ pts) (mevents : Part.events ∈ pts) (mpins : Part.pins ∈ pts) (mboot : Part.boot ∈ pts) (mnor : Part.nor ∈ pts) (mfwc : Part.fwc ∈ pts) (mrepair : Part.repair ∈ pts) (mrepairSeq : Part.repairSeq ∈ pts) (msec : Part.sec ∈ pts) (mwin : Part.win ∈ pts) (meth : Part.eth ∈ pts) (mlinks : Part.links ∈ pts) (mlinkSpares : Part.linkSpares ∈ pts) (mfab : Part.fab ∈ pts) (mroods : Part.roods ∈ pts) (mslices : Part.slices ∈ pts) (mdrrNext : Part.drrNext ∈ pts) (mqueues : Part.queues ∈ pts) (mdescs : Part.descs ∈ pts) (mnextDesc : Part.nextDesc ∈ pts) (mclusters : Part.clusters ∈ pts) (mspareCluster : Part.spareCluster ∈ pts) (mstks : Part.stks ∈ pts) (mstreams : Part.streams ∈ pts) (mflash : Part.flash ∈ pts) (mslots : Part.slots ∈ pts) (mcache : Part.cache ∈ pts) (mnextCache : Part.nextCache ∈ pts) (mrequests : Part.requests ∈ pts) (mnextReq : Part.nextReq ∈ pts) (mbinds : Part.binds ∈ pts) (mmem : Part.mem ∈ pts) (mbushels : Part.bushels ∈ pts) (mfreeCtr : Part.freeCtr ∈ pts) : Agrees pts st0 (leaveDue s) := by
  delta leaveDue
  repeat' first
    | (with_reducible assumption)
    | (with_reducible rfl)
    | (with_reducible refine fun _ => ?_)
    | lift_lets
    | (intro x; refine same_cut (w := pts) (s0 := st0) x ?_ ?_; rotate_left; intro _; clear_value x; rotate_left; unfold x)
    | (intro x; refine same_cut_ss (w := pts) (s0 := st0) x ?_ ?_; rotate_left; intro hfun; clear_value x; rotate_left; unfold x)
    | (intro x; refine same_cut_ass (w := pts) (s0 := st0) x ?_ ?_; rotate_left; intro hfun; clear_value x; rotate_left; unfold x)
    | (intro x; refine same_cut_abss (w := pts) (s0 := st0) x ?_ ?_; rotate_left; intro hfun; clear_value x; rotate_left; unfold x)
    | (intro x; refine same_cut_a (w := pts) (s0 := st0) x ?_ ?_; rotate_left; intro hfun; clear_value x; rotate_left; unfold x)
    | (intro x; refine same_cut_ab (w := pts) (s0 := st0) x ?_ ?_; rotate_left; intro hfun; clear_value x; rotate_left; unfold x)
    | (intro x; refine same_cut_abc (w := pts) (s0 := st0) x ?_ ?_; rotate_left; intro hfun; clear_value x; rotate_left; unfold x)
    | (intro x; refine same_cut_o1 (w := pts) (s0 := st0) x ?_ ?_; rotate_left; intro hopt; clear_value x; rotate_left; unfold x)
    | (intro x; refine same_cut_o (w := pts) (s0 := st0) x ?_ ?_; rotate_left; intro hopt; clear_value x; rotate_left; unfold x)
    | (intro x; refine same_cut_fst (w := pts) (s0 := st0) x ?_ ?_; rotate_left; intro _; clear_value x; rotate_left; unfold x)
    | (intro x; refine same_cut_snd (w := pts) (s0 := st0) x ?_ ?_; rotate_left; intro _; clear_value x; rotate_left; unfold x)
    | (intro x; clear_value x)
    | (with_reducible apply shutDown_same)
    | (with_reducible refine hopt _ (by assumption))
    | (with_reducible exact hopt _ rfl)
    | (with_reducible apply hfun)
    | (intro _)
    | split
    | (with_reducible apply AnswerSame.next)
    | (with_reducible apply same_getD)
    | (refine same_mk hs ?_; intro p hp; cases p <;> first | exact rfl | exact absurd (by assumption) hp)
    | (refine same_mk (by assumption) ?_; intro p hp; cases p <;> first | exact rfl | exact absurd (by assumption) hp)
    | (dsimp only)
    | (rename_i he; split at he)
    | (rename_i he; injection he with he; subst he)

theorem goDown_same {pts : List Part} {st0 : State} (cause : Nat) (s : State) (hs : Agrees pts st0 s) (mtime : Part.time ∈ pts) (mglb : Part.glb ∈ pts) (mevents : Part.events ∈ pts) (mpins : Part.pins ∈ pts) (mboot : Part.boot ∈ pts) (mnor : Part.nor ∈ pts) (mfwc : Part.fwc ∈ pts) (mrepair : Part.repair ∈ pts) (mrepairSeq : Part.repairSeq ∈ pts) (msec : Part.sec ∈ pts) (mwin : Part.win ∈ pts) (meth : Part.eth ∈ pts) (mlinks : Part.links ∈ pts) (mlinkSpares : Part.linkSpares ∈ pts) (mfab : Part.fab ∈ pts) (mroods : Part.roods ∈ pts) (mslices : Part.slices ∈ pts) (mdrrNext : Part.drrNext ∈ pts) (mqueues : Part.queues ∈ pts) (mdescs : Part.descs ∈ pts) (mnextDesc : Part.nextDesc ∈ pts) (mclusters : Part.clusters ∈ pts) (mspareCluster : Part.spareCluster ∈ pts) (mstks : Part.stks ∈ pts) (mstreams : Part.streams ∈ pts) (mflash : Part.flash ∈ pts) (mslots : Part.slots ∈ pts) (mcache : Part.cache ∈ pts) (mnextCache : Part.nextCache ∈ pts) (mrequests : Part.requests ∈ pts) (mnextReq : Part.nextReq ∈ pts) (mbinds : Part.binds ∈ pts) (mmem : Part.mem ∈ pts) (mbushels : Part.bushels ∈ pts) (mfreeCtr : Part.freeCtr ∈ pts) : Agrees pts st0 (goDown cause s) := by
  delta goDown
  repeat' first
    | (with_reducible assumption)
    | lift_lets
    | (intro x; clear_value x)
    | (with_reducible apply modTime_same)
    | (with_reducible apply modBoot_same)
    | (with_reducible apply cleared_same)
    | split

theorem loseStandby_same {pts : List Part} {st0 : State} (s : State) (hs : Agrees pts st0 s) (mtime : Part.time ∈ pts) (mglb : Part.glb ∈ pts) (mevents : Part.events ∈ pts) (mpins : Part.pins ∈ pts) (mboot : Part.boot ∈ pts) (mnor : Part.nor ∈ pts) (mfwc : Part.fwc ∈ pts) (mrepair : Part.repair ∈ pts) (mrepairSeq : Part.repairSeq ∈ pts) (msec : Part.sec ∈ pts) (mwin : Part.win ∈ pts) (meth : Part.eth ∈ pts) (mlinks : Part.links ∈ pts) (mlinkSpares : Part.linkSpares ∈ pts) (mfab : Part.fab ∈ pts) (mroods : Part.roods ∈ pts) (mslices : Part.slices ∈ pts) (mdrrNext : Part.drrNext ∈ pts) (mqueues : Part.queues ∈ pts) (mdescs : Part.descs ∈ pts) (mnextDesc : Part.nextDesc ∈ pts) (mclusters : Part.clusters ∈ pts) (mspareCluster : Part.spareCluster ∈ pts) (mstks : Part.stks ∈ pts) (mstreams : Part.streams ∈ pts) (mflash : Part.flash ∈ pts) (mslots : Part.slots ∈ pts) (mcache : Part.cache ∈ pts) (mnextCache : Part.nextCache ∈ pts) (mrequests : Part.requests ∈ pts) (mnextReq : Part.nextReq ∈ pts) (mbinds : Part.binds ∈ pts) (mmem : Part.mem ∈ pts) (mbushels : Part.bushels ∈ pts) (mfreeCtr : Part.freeCtr ∈ pts) : Agrees pts st0 (loseStandby s) := by
  delta loseStandby
  repeat' first
    | (with_reducible assumption)
    | lift_lets
    | (intro x; refine same_cut (w := pts) (s0 := st0) x ?_ ?_; rotate_left; intro _; clear_value x; rotate_left; unfold x)
    | (with_reducible apply modPins_same)
    | (with_reducible apply modBoot_same)
    | (with_reducible apply goDown_same)

theorem ctlDone_same {pts : List Part} {st0 : State} (cmd st : Nat) (s : State) (hs : Agrees pts st0 s) (mboot : Part.boot ∈ pts) : Agrees pts st0 (ctlDone cmd st s) := by
  delta ctlDone
  repeat' first
    | (with_reducible assumption)
    | (with_reducible apply modBoot_same)

theorem resetCommand_same {pts : List Part} {st0 : State} (cmd cause : Nat) (w : BootWorld) (s : State) (hs : Agrees pts st0 s) (mtime : Part.time ∈ pts) (mglb : Part.glb ∈ pts) (mevents : Part.events ∈ pts) (mpins : Part.pins ∈ pts) (mboot : Part.boot ∈ pts) (mnor : Part.nor ∈ pts) (mfwc : Part.fwc ∈ pts) (mrepair : Part.repair ∈ pts) (mrepairSeq : Part.repairSeq ∈ pts) (msec : Part.sec ∈ pts) (mwin : Part.win ∈ pts) (meth : Part.eth ∈ pts) (mlinks : Part.links ∈ pts) (mlinkSpares : Part.linkSpares ∈ pts) (mfab : Part.fab ∈ pts) (mroods : Part.roods ∈ pts) (mslices : Part.slices ∈ pts) (mdrrNext : Part.drrNext ∈ pts) (mqueues : Part.queues ∈ pts) (mdescs : Part.descs ∈ pts) (mnextDesc : Part.nextDesc ∈ pts) (mclusters : Part.clusters ∈ pts) (mspareCluster : Part.spareCluster ∈ pts) (mstks : Part.stks ∈ pts) (mstreams : Part.streams ∈ pts) (mflash : Part.flash ∈ pts) (mslots : Part.slots ∈ pts) (mcache : Part.cache ∈ pts) (mnextCache : Part.nextCache ∈ pts) (mrequests : Part.requests ∈ pts) (mnextReq : Part.nextReq ∈ pts) (mbinds : Part.binds ∈ pts) (mmem : Part.mem ∈ pts) (mbushels : Part.bushels ∈ pts) (mfreeCtr : Part.freeCtr ∈ pts) : Agrees pts st0 (resetCommand cmd cause w s) := by
  delta resetCommand
  repeat' first
    | (with_reducible assumption)
    | (with_reducible rfl)
    | (with_reducible refine fun _ => ?_)
    | lift_lets
    | (intro x; refine same_cut (w := pts) (s0 := st0) x ?_ ?_; rotate_left; intro _; clear_value x; rotate_left; unfold x)
    | (intro x; refine same_cut_ss (w := pts) (s0 := st0) x ?_ ?_; rotate_left; intro hfun; clear_value x; rotate_left; unfold x)
    | (intro x; refine same_cut_ass (w := pts) (s0 := st0) x ?_ ?_; rotate_left; intro hfun; clear_value x; rotate_left; unfold x)
    | (intro x; refine same_cut_abss (w := pts) (s0 := st0) x ?_ ?_; rotate_left; intro hfun; clear_value x; rotate_left; unfold x)
    | (intro x; refine same_cut_a (w := pts) (s0 := st0) x ?_ ?_; rotate_left; intro hfun; clear_value x; rotate_left; unfold x)
    | (intro x; refine same_cut_ab (w := pts) (s0 := st0) x ?_ ?_; rotate_left; intro hfun; clear_value x; rotate_left; unfold x)
    | (intro x; refine same_cut_abc (w := pts) (s0 := st0) x ?_ ?_; rotate_left; intro hfun; clear_value x; rotate_left; unfold x)
    | (intro x; refine same_cut_o1 (w := pts) (s0 := st0) x ?_ ?_; rotate_left; intro hopt; clear_value x; rotate_left; unfold x)
    | (intro x; refine same_cut_o (w := pts) (s0 := st0) x ?_ ?_; rotate_left; intro hopt; clear_value x; rotate_left; unfold x)
    | (intro x; refine same_cut_fst (w := pts) (s0 := st0) x ?_ ?_; rotate_left; intro _; clear_value x; rotate_left; unfold x)
    | (intro x; refine same_cut_snd (w := pts) (s0 := st0) x ?_ ?_; rotate_left; intro _; clear_value x; rotate_left; unfold x)
    | (intro x; clear_value x)
    | (with_reducible apply modBoot_same)
    | (with_reducible apply leaveOrderly_same)
    | (with_reducible apply ctlDone_same)
    | (with_reducible refine hopt _ (by assumption))
    | (with_reducible exact hopt _ rfl)
    | (with_reducible apply hfun)
    | (intro _)
    | split
    | (with_reducible apply AnswerSame.next)
    | (with_reducible apply same_getD)
    | (refine same_mk hs ?_; intro p hp; cases p <;> first | exact rfl | exact absurd (by assumption) hp)
    | (refine same_mk (by assumption) ?_; intro p hp; cases p <;> first | exact rfl | exact absurd (by assumption) hp)
    | (dsimp only)
    | (rename_i he; split at he)
    | (rename_i he; injection he with he; subst he)

theorem clearRemedies_same {pts : List Part} {st0 : State} (s : State) (hs : Agrees pts st0 s) (mboot : Part.boot ∈ pts) : Agrees pts st0 (clearRemedies s) := by
  delta clearRemedies
  repeat' first
    | (with_reducible assumption)
    | lift_lets
    | (with_reducible apply modBoot_same)
    | (with_reducible apply ctlDone_same)
    | split

theorem retrySafe_same {pts : List Part} {st0 : State} (w : BootWorld) (s : State) (hs : Agrees pts st0 s) (mtime : Part.time ∈ pts) (mglb : Part.glb ∈ pts) (mevents : Part.events ∈ pts) (mpins : Part.pins ∈ pts) (mboot : Part.boot ∈ pts) (mnor : Part.nor ∈ pts) (mfwc : Part.fwc ∈ pts) (mrepair : Part.repair ∈ pts) (mrepairSeq : Part.repairSeq ∈ pts) (msec : Part.sec ∈ pts) (mwin : Part.win ∈ pts) (meth : Part.eth ∈ pts) (mlinks : Part.links ∈ pts) (mlinkSpares : Part.linkSpares ∈ pts) (mfab : Part.fab ∈ pts) (mroods : Part.roods ∈ pts) (mslices : Part.slices ∈ pts) (mdrrNext : Part.drrNext ∈ pts) (mqueues : Part.queues ∈ pts) (mdescs : Part.descs ∈ pts) (mnextDesc : Part.nextDesc ∈ pts) (mclusters : Part.clusters ∈ pts) (mspareCluster : Part.spareCluster ∈ pts) (mstks : Part.stks ∈ pts) (mstreams : Part.streams ∈ pts) (mflash : Part.flash ∈ pts) (mslots : Part.slots ∈ pts) (mcache : Part.cache ∈ pts) (mnextCache : Part.nextCache ∈ pts) (mrequests : Part.requests ∈ pts) (mnextReq : Part.nextReq ∈ pts) (mbinds : Part.binds ∈ pts) (mmem : Part.mem ∈ pts) (mbushels : Part.bushels ∈ pts) (mfreeCtr : Part.freeCtr ∈ pts) : Agrees pts st0 (retrySafe w s) := by
  delta retrySafe
  repeat' first
    | (with_reducible assumption)
    | (with_reducible apply startModule_same)
    | (with_reducible apply ctlDone_same)
    | split

theorem imgDone_same {pts : List Part} {st0 : State} (cmd st : Nat) (s : State) (hs : Agrees pts st0 s) (mboot : Part.boot ∈ pts) : Agrees pts st0 (imgDone cmd st s) := by
  delta imgDone
  repeat' first
    | (with_reducible assumption)
    | (with_reducible apply modBoot_same)

theorem writePage_same {pts : List Part} {st0 : State} (page : Nat) (s : State) (hs : Agrees pts st0 s) (mboot : Part.boot ∈ pts) (mnor : Part.nor ∈ pts) : Agrees pts st0 (writePage page s) := by
  delta writePage
  repeat' first
    | (with_reducible assumption)
    | lift_lets
    | (intro x; refine same_cut (w := pts) (s0 := st0) x ?_ ?_; rotate_left; intro _; clear_value x; rotate_left; unfold x)
    | (intro x; clear_value x)
    | (with_reducible apply modBoot_same)
    | (with_reducible apply norWr_same)
    | (with_reducible apply imgDone_same)
    | split

theorem commitImage_same {pts : List Part} {st0 : State} (a b : SlotView) (s : State) (hs : Agrees pts st0 s) (mboot : Part.boot ∈ pts) (mnor : Part.nor ∈ pts) : Agrees pts st0 (commitImage a b s) := by
  delta commitImage
  repeat' first
    | (with_reducible assumption)
    | lift_lets
    | (intro x; refine same_cut (w := pts) (s0 := st0) x ?_ ?_; rotate_left; intro _; clear_value x; rotate_left; unfold x)
    | (intro x; clear_value x)
    | (with_reducible apply modBoot_same)
    | (with_reducible apply commitHeader_same)
    | (with_reducible apply noteSlot_same)
    | (with_reducible apply imgDone_same)
    | split

theorem execPowerOn_same {pts : List Part} {st0 : State} (w : BootWorld) (s : State) (hs : Agrees pts st0 s) (mtime : Part.time ∈ pts) (mglb : Part.glb ∈ pts) (mevents : Part.events ∈ pts) (mpins : Part.pins ∈ pts) (mboot : Part.boot ∈ pts) (mnor : Part.nor ∈ pts) (mfwc : Part.fwc ∈ pts) (mrepair : Part.repair ∈ pts) (mrepairSeq : Part.repairSeq ∈ pts) (msec : Part.sec ∈ pts) (mwin : Part.win ∈ pts) (meth : Part.eth ∈ pts) (mlinks : Part.links ∈ pts) (mlinkSpares : Part.linkSpares ∈ pts) (mfab : Part.fab ∈ pts) (mroods : Part.roods ∈ pts) (mslices : Part.slices ∈ pts) (mdrrNext : Part.drrNext ∈ pts) (mqueues : Part.queues ∈ pts) (mdescs : Part.descs ∈ pts) (mnextDesc : Part.nextDesc ∈ pts) (mclusters : Part.clusters ∈ pts) (mspareCluster : Part.spareCluster ∈ pts) (mstks : Part.stks ∈ pts) (mstreams : Part.streams ∈ pts) (mflash : Part.flash ∈ pts) (mslots : Part.slots ∈ pts) (mcache : Part.cache ∈ pts) (mnextCache : Part.nextCache ∈ pts) (mrequests : Part.requests ∈ pts) (mnextReq : Part.nextReq ∈ pts) (mbinds : Part.binds ∈ pts) (mmem : Part.mem ∈ pts) (mbushels : Part.bushels ∈ pts) (mfreeCtr : Part.freeCtr ∈ pts) : AnswerSame pts st0 (execPowerOn w s) := by
  delta execPowerOn
  repeat' first
    | (with_reducible assumption)
    | lift_lets
    | (with_reducible apply modPins_same)
    | (with_reducible apply startModule_same)
    | split
    | (with_reducible apply AnswerSame.next)

theorem execStepRetry_same {pts : List Part} {st0 : State} (w : BootWorld) (s : State) (hs : Agrees pts st0 s) (mtime : Part.time ∈ pts) (mglb : Part.glb ∈ pts) (mevents : Part.events ∈ pts) (mpins : Part.pins ∈ pts) (mboot : Part.boot ∈ pts) (mnor : Part.nor ∈ pts) (mfwc : Part.fwc ∈ pts) (mrepair : Part.repair ∈ pts) (mrepairSeq : Part.repairSeq ∈ pts) (msec : Part.sec ∈ pts) (mwin : Part.win ∈ pts) (meth : Part.eth ∈ pts) (mlinks : Part.links ∈ pts) (mlinkSpares : Part.linkSpares ∈ pts) (mfab : Part.fab ∈ pts) (mroods : Part.roods ∈ pts) (mslices : Part.slices ∈ pts) (mdrrNext : Part.drrNext ∈ pts) (mqueues : Part.queues ∈ pts) (mdescs : Part.descs ∈ pts) (mnextDesc : Part.nextDesc ∈ pts) (mclusters : Part.clusters ∈ pts) (mspareCluster : Part.spareCluster ∈ pts) (mstks : Part.stks ∈ pts) (mstreams : Part.streams ∈ pts) (mflash : Part.flash ∈ pts) (mslots : Part.slots ∈ pts) (mcache : Part.cache ∈ pts) (mnextCache : Part.nextCache ∈ pts) (mrequests : Part.requests ∈ pts) (mnextReq : Part.nextReq ∈ pts) (mbinds : Part.binds ∈ pts) (mmem : Part.mem ∈ pts) (mbushels : Part.bushels ∈ pts) (mfreeCtr : Part.freeCtr ∈ pts) : AnswerSame pts st0 (execStepRetry w s) := by
  delta execStepRetry
  repeat' first
    | (with_reducible assumption)
    | lift_lets
    | (with_reducible apply startModule_same)
    | split
    | (with_reducible apply AnswerSame.next)

theorem execPinReset_same {pts : List Part} {st0 : State} (s : State) (hs : Agrees pts st0 s) (mtime : Part.time ∈ pts) (mglb : Part.glb ∈ pts) (mevents : Part.events ∈ pts) (mpins : Part.pins ∈ pts) (mboot : Part.boot ∈ pts) (mnor : Part.nor ∈ pts) (mfwc : Part.fwc ∈ pts) (mrepair : Part.repair ∈ pts) (mrepairSeq : Part.repairSeq ∈ pts) (msec : Part.sec ∈ pts) (mwin : Part.win ∈ pts) (meth : Part.eth ∈ pts) (mlinks : Part.links ∈ pts) (mlinkSpares : Part.linkSpares ∈ pts) (mfab : Part.fab ∈ pts) (mroods : Part.roods ∈ pts) (mslices : Part.slices ∈ pts) (mdrrNext : Part.drrNext ∈ pts) (mqueues : Part.queues ∈ pts) (mdescs : Part.descs ∈ pts) (mnextDesc : Part.nextDesc ∈ pts) (mclusters : Part.clusters ∈ pts) (mspareCluster : Part.spareCluster ∈ pts) (mstks : Part.stks ∈ pts) (mstreams : Part.streams ∈ pts) (mflash : Part.flash ∈ pts) (mslots : Part.slots ∈ pts) (mcache : Part.cache ∈ pts) (mnextCache : Part.nextCache ∈ pts) (mrequests : Part.requests ∈ pts) (mnextReq : Part.nextReq ∈ pts) (mbinds : Part.binds ∈ pts) (mmem : Part.mem ∈ pts) (mbushels : Part.bushels ∈ pts) (mfreeCtr : Part.freeCtr ∈ pts) : AnswerSame pts st0 (execPinReset s) := by
  delta execPinReset
  repeat' first
    | (with_reducible assumption)
    | lift_lets
    | (with_reducible apply modPins_same)
    | (with_reducible apply goDown_same)
    | (with_reducible apply AnswerSame.next)

theorem execSysResetNRelease_same {pts : List Part} {st0 : State} (w : BootWorld) (s : State) (hs : Agrees pts st0 s) (mtime : Part.time ∈ pts) (mglb : Part.glb ∈ pts) (mevents : Part.events ∈ pts) (mpins : Part.pins ∈ pts) (mboot : Part.boot ∈ pts) (mnor : Part.nor ∈ pts) (mfwc : Part.fwc ∈ pts) (mrepair : Part.repair ∈ pts) (mrepairSeq : Part.repairSeq ∈ pts) (msec : Part.sec ∈ pts) (mwin : Part.win ∈ pts) (meth : Part.eth ∈ pts) (mlinks : Part.links ∈ pts) (mlinkSpares : Part.linkSpares ∈ pts) (mfab : Part.fab ∈ pts) (mroods : Part.roods ∈ pts) (mslices : Part.slices ∈ pts) (mdrrNext : Part.drrNext ∈ pts) (mqueues : Part.queues ∈ pts) (mdescs : Part.descs ∈ pts) (mnextDesc : Part.nextDesc ∈ pts) (mclusters : Part.clusters ∈ pts) (mspareCluster : Part.spareCluster ∈ pts) (mstks : Part.stks ∈ pts) (mstreams : Part.streams ∈ pts) (mflash : Part.flash ∈ pts) (mslots : Part.slots ∈ pts) (mcache : Part.cache ∈ pts) (mnextCache : Part.nextCache ∈ pts) (mrequests : Part.requests ∈ pts) (mnextReq : Part.nextReq ∈ pts) (mbinds : Part.binds ∈ pts) (mmem : Part.mem ∈ pts) (mbushels : Part.bushels ∈ pts) (mfreeCtr : Part.freeCtr ∈ pts) : AnswerSame pts st0 (execSysResetNRelease w s) := by
  delta execSysResetNRelease
  repeat' first
    | (with_reducible assumption)
    | lift_lets
    | (intro x; refine same_cut (w := pts) (s0 := st0) x ?_ ?_; rotate_left; intro _; clear_value x; rotate_left; unfold x)
    | (with_reducible apply modPins_same)
    | (with_reducible apply startModule_same)
    | split
    | (with_reducible apply AnswerSame.next)

theorem execResetPinGlitch_same {pts : List Part} {st0 : State} (low : Nat) (s : State) (hs : Agrees pts st0 s) (mevents : Part.events ∈ pts) : AnswerSame pts st0 (execResetPinGlitch low s) := by
  delta execResetPinGlitch
  repeat' first
    | (with_reducible assumption)
    | lift_lets
    | (with_reducible apply logBoot_same)
    | split
    | (with_reducible apply AnswerSame.next)

theorem execWatchdogReset_same {pts : List Part} {st0 : State} (w : BootWorld) (s : State) (hs : Agrees pts st0 s) (mtime : Part.time ∈ pts) (mglb : Part.glb ∈ pts) (mevents : Part.events ∈ pts) (mpins : Part.pins ∈ pts) (mboot : Part.boot ∈ pts) (mnor : Part.nor ∈ pts) (mfwc : Part.fwc ∈ pts) (mrepair : Part.repair ∈ pts) (mrepairSeq : Part.repairSeq ∈ pts) (msec : Part.sec ∈ pts) (mwin : Part.win ∈ pts) (meth : Part.eth ∈ pts) (mlinks : Part.links ∈ pts) (mlinkSpares : Part.linkSpares ∈ pts) (mfab : Part.fab ∈ pts) (mroods : Part.roods ∈ pts) (mslices : Part.slices ∈ pts) (mdrrNext : Part.drrNext ∈ pts) (mqueues : Part.queues ∈ pts) (mdescs : Part.descs ∈ pts) (mnextDesc : Part.nextDesc ∈ pts) (mclusters : Part.clusters ∈ pts) (mspareCluster : Part.spareCluster ∈ pts) (mstks : Part.stks ∈ pts) (mstreams : Part.streams ∈ pts) (mflash : Part.flash ∈ pts) (mslots : Part.slots ∈ pts) (mcache : Part.cache ∈ pts) (mnextCache : Part.nextCache ∈ pts) (mrequests : Part.requests ∈ pts) (mnextReq : Part.nextReq ∈ pts) (mbinds : Part.binds ∈ pts) (mmem : Part.mem ∈ pts) (mbushels : Part.bushels ∈ pts) (mfreeCtr : Part.freeCtr ∈ pts) : AnswerSame pts st0 (execWatchdogReset w s) := by
  delta execWatchdogReset
  repeat' first
    | (with_reducible assumption)
    | lift_lets
    | (with_reducible apply startModule_same)
    | split
    | (with_reducible apply AnswerSame.next)

theorem execThermalShutdown_same {pts : List Part} {st0 : State} (_u : ThermalUnit) (w : BootWorld) (s : State) (hs : Agrees pts st0 s) (mtime : Part.time ∈ pts) (mglb : Part.glb ∈ pts) (mevents : Part.events ∈ pts) (mpins : Part.pins ∈ pts) (mboot : Part.boot ∈ pts) (mnor : Part.nor ∈ pts) (mfwc : Part.fwc ∈ pts) (mrepair : Part.repair ∈ pts) (mrepairSeq : Part.repairSeq ∈ pts) (msec : Part.sec ∈ pts) (mwin : Part.win ∈ pts) (meth : Part.eth ∈ pts) (mlinks : Part.links ∈ pts) (mlinkSpares : Part.linkSpares ∈ pts) (mfab : Part.fab ∈ pts) (mroods : Part.roods ∈ pts) (mslices : Part.slices ∈ pts) (mdrrNext : Part.drrNext ∈ pts) (mqueues : Part.queues ∈ pts) (mdescs : Part.descs ∈ pts) (mnextDesc : Part.nextDesc ∈ pts) (mclusters : Part.clusters ∈ pts) (mspareCluster : Part.spareCluster ∈ pts) (mstks : Part.stks ∈ pts) (mstreams : Part.streams ∈ pts) (mflash : Part.flash ∈ pts) (mslots : Part.slots ∈ pts) (mcache : Part.cache ∈ pts) (mnextCache : Part.nextCache ∈ pts) (mrequests : Part.requests ∈ pts) (mnextReq : Part.nextReq ∈ pts) (mbinds : Part.binds ∈ pts) (mmem : Part.mem ∈ pts) (mbushels : Part.bushels ∈ pts) (mfreeCtr : Part.freeCtr ∈ pts) : AnswerSame pts st0 (execThermalShutdown _u w s) := by
  delta execThermalShutdown
  repeat' first
    | (with_reducible assumption)
    | lift_lets
    | (with_reducible apply startModule_same)
    | (with_reducible apply goDown_same)
    | split
    | (with_reducible apply AnswerSame.next)

theorem execUndervoltage_same {pts : List Part} {st0 : State} (s : State) (hs : Agrees pts st0 s) (mtime : Part.time ∈ pts) (mglb : Part.glb ∈ pts) (mevents : Part.events ∈ pts) (mpins : Part.pins ∈ pts) (mboot : Part.boot ∈ pts) (mnor : Part.nor ∈ pts) (mfwc : Part.fwc ∈ pts) (mrepair : Part.repair ∈ pts) (mrepairSeq : Part.repairSeq ∈ pts) (msec : Part.sec ∈ pts) (mwin : Part.win ∈ pts) (meth : Part.eth ∈ pts) (mlinks : Part.links ∈ pts) (mlinkSpares : Part.linkSpares ∈ pts) (mfab : Part.fab ∈ pts) (mroods : Part.roods ∈ pts) (mslices : Part.slices ∈ pts) (mdrrNext : Part.drrNext ∈ pts) (mqueues : Part.queues ∈ pts) (mdescs : Part.descs ∈ pts) (mnextDesc : Part.nextDesc ∈ pts) (mclusters : Part.clusters ∈ pts) (mspareCluster : Part.spareCluster ∈ pts) (mstks : Part.stks ∈ pts) (mstreams : Part.streams ∈ pts) (mflash : Part.flash ∈ pts) (mslots : Part.slots ∈ pts) (mcache : Part.cache ∈ pts) (mnextCache : Part.nextCache ∈ pts) (mrequests : Part.requests ∈ pts) (mnextReq : Part.nextReq ∈ pts) (mbinds : Part.binds ∈ pts) (mmem : Part.mem ∈ pts) (mbushels : Part.bushels ∈ pts) (mfreeCtr : Part.freeCtr ∈ pts) : AnswerSame pts st0 (execUndervoltage s) := by
  delta execUndervoltage
  repeat' first
    | (with_reducible assumption)
    | lift_lets
    | (with_reducible apply modPins_same)
    | (with_reducible apply goDown_same)
    | (with_reducible apply AnswerSame.next)

theorem execOvervoltageDisconnect_same {pts : List Part} {st0 : State} (s : State) (hs : Agrees pts st0 s) (mtime : Part.time ∈ pts) (mglb : Part.glb ∈ pts) (mevents : Part.events ∈ pts) (mpins : Part.pins ∈ pts) (mboot : Part.boot ∈ pts) (mnor : Part.nor ∈ pts) (mfwc : Part.fwc ∈ pts) (mrepair : Part.repair ∈ pts) (mrepairSeq : Part.repairSeq ∈ pts) (msec : Part.sec ∈ pts) (mwin : Part.win ∈ pts) (meth : Part.eth ∈ pts) (mlinks : Part.links ∈ pts) (mlinkSpares : Part.linkSpares ∈ pts) (mfab : Part.fab ∈ pts) (mroods : Part.roods ∈ pts) (mslices : Part.slices ∈ pts) (mdrrNext : Part.drrNext ∈ pts) (mqueues : Part.queues ∈ pts) (mdescs : Part.descs ∈ pts) (mnextDesc : Part.nextDesc ∈ pts) (mclusters : Part.clusters ∈ pts) (mspareCluster : Part.spareCluster ∈ pts) (mstks : Part.stks ∈ pts) (mstreams : Part.streams ∈ pts) (mflash : Part.flash ∈ pts) (mslots : Part.slots ∈ pts) (mcache : Part.cache ∈ pts) (mnextCache : Part.nextCache ∈ pts) (mrequests : Part.requests ∈ pts) (mnextReq : Part.nextReq ∈ pts) (mbinds : Part.binds ∈ pts) (mmem : Part.mem ∈ pts) (mbushels : Part.bushels ∈ pts) (mfreeCtr : Part.freeCtr ∈ pts) : AnswerSame pts st0 (execOvervoltageDisconnect s) := by
  delta execOvervoltageDisconnect
  repeat' first
    | (with_reducible assumption)
    | lift_lets
    | (with_reducible apply modPins_same)
    | (with_reducible apply loseStandby_same)
    | (with_reducible apply AnswerSame.next)

theorem execStandbyLost_same {pts : List Part} {st0 : State} (s : State) (hs : Agrees pts st0 s) (mtime : Part.time ∈ pts) (mglb : Part.glb ∈ pts) (mevents : Part.events ∈ pts) (mpins : Part.pins ∈ pts) (mboot : Part.boot ∈ pts) (mnor : Part.nor ∈ pts) (mfwc : Part.fwc ∈ pts) (mrepair : Part.repair ∈ pts) (mrepairSeq : Part.repairSeq ∈ pts) (msec : Part.sec ∈ pts) (mwin : Part.win ∈ pts) (meth : Part.eth ∈ pts) (mlinks : Part.links ∈ pts) (mlinkSpares : Part.linkSpares ∈ pts) (mfab : Part.fab ∈ pts) (mroods : Part.roods ∈ pts) (mslices : Part.slices ∈ pts) (mdrrNext : Part.drrNext ∈ pts) (mqueues : Part.queues ∈ pts) (mdescs : Part.descs ∈ pts) (mnextDesc : Part.nextDesc ∈ pts) (mclusters : Part.clusters ∈ pts) (mspareCluster : Part.spareCluster ∈ pts) (mstks : Part.stks ∈ pts) (mstreams : Part.streams ∈ pts) (mflash : Part.flash ∈ pts) (mslots : Part.slots ∈ pts) (mcache : Part.cache ∈ pts) (mnextCache : Part.nextCache ∈ pts) (mrequests : Part.requests ∈ pts) (mnextReq : Part.nextReq ∈ pts) (mbinds : Part.binds ∈ pts) (mmem : Part.mem ∈ pts) (mbushels : Part.bushels ∈ pts) (mfreeCtr : Part.freeCtr ∈ pts) : AnswerSame pts st0 (execStandbyLost s) := by
  delta execStandbyLost
  repeat' first
    | (with_reducible assumption)
    | lift_lets
    | (with_reducible apply loseStandby_same)
    | (with_reducible apply AnswerSame.next)

theorem execModule_same {pts : List Part} {st0 : State} (w : BootWorld) (s : State) (hs : Agrees pts st0 s) (mtime : Part.time ∈ pts) (mglb : Part.glb ∈ pts) (mevents : Part.events ∈ pts) (mpins : Part.pins ∈ pts) (mboot : Part.boot ∈ pts) (mnor : Part.nor ∈ pts) (mfwc : Part.fwc ∈ pts) (mrepair : Part.repair ∈ pts) (mrepairSeq : Part.repairSeq ∈ pts) (msec : Part.sec ∈ pts) (mwin : Part.win ∈ pts) (meth : Part.eth ∈ pts) (mlinks : Part.links ∈ pts) (mlinkSpares : Part.linkSpares ∈ pts) (mfab : Part.fab ∈ pts) (mroods : Part.roods ∈ pts) (mslices : Part.slices ∈ pts) (mdrrNext : Part.drrNext ∈ pts) (mqueues : Part.queues ∈ pts) (mdescs : Part.descs ∈ pts) (mnextDesc : Part.nextDesc ∈ pts) (mclusters : Part.clusters ∈ pts) (mspareCluster : Part.spareCluster ∈ pts) (mstks : Part.stks ∈ pts) (mstreams : Part.streams ∈ pts) (mflash : Part.flash ∈ pts) (mslots : Part.slots ∈ pts) (mcache : Part.cache ∈ pts) (mnextCache : Part.nextCache ∈ pts) (mrequests : Part.requests ∈ pts) (mnextReq : Part.nextReq ∈ pts) (mbinds : Part.binds ∈ pts) (mmem : Part.mem ∈ pts) (mbushels : Part.bushels ∈ pts) (mfreeCtr : Part.freeCtr ∈ pts) : AnswerSame pts st0 (execModule w s) := by
  delta execModule
  repeat' first
    | (with_reducible assumption)
    | lift_lets
    | (with_reducible apply resetCommand_same)
    | (with_reducible apply AnswerSame.next)

theorem execCold_same {pts : List Part} {st0 : State} (w : BootWorld) (s : State) (hs : Agrees pts st0 s) (mtime : Part.time ∈ pts) (mglb : Part.glb ∈ pts) (mevents : Part.events ∈ pts) (mpins : Part.pins ∈ pts) (mboot : Part.boot ∈ pts) (mnor : Part.nor ∈ pts) (mfwc : Part.fwc ∈ pts) (mrepair : Part.repair ∈ pts) (mrepairSeq : Part.repairSeq ∈ pts) (msec : Part.sec ∈ pts) (mwin : Part.win ∈ pts) (meth : Part.eth ∈ pts) (mlinks : Part.links ∈ pts) (mlinkSpares : Part.linkSpares ∈ pts) (mfab : Part.fab ∈ pts) (mroods : Part.roods ∈ pts) (mslices : Part.slices ∈ pts) (mdrrNext : Part.drrNext ∈ pts) (mqueues : Part.queues ∈ pts) (mdescs : Part.descs ∈ pts) (mnextDesc : Part.nextDesc ∈ pts) (mclusters : Part.clusters ∈ pts) (mspareCluster : Part.spareCluster ∈ pts) (mstks : Part.stks ∈ pts) (mstreams : Part.streams ∈ pts) (mflash : Part.flash ∈ pts) (mslots : Part.slots ∈ pts) (mcache : Part.cache ∈ pts) (mnextCache : Part.nextCache ∈ pts) (mrequests : Part.requests ∈ pts) (mnextReq : Part.nextReq ∈ pts) (mbinds : Part.binds ∈ pts) (mmem : Part.mem ∈ pts) (mbushels : Part.bushels ∈ pts) (mfreeCtr : Part.freeCtr ∈ pts) : AnswerSame pts st0 (execCold w s) := by
  delta execCold
  repeat' first
    | (with_reducible assumption)
    | lift_lets
    | (with_reducible apply resetCommand_same)
    | (with_reducible apply AnswerSame.next)

theorem execClearRemedies_same {pts : List Part} {st0 : State} (s : State) (hs : Agrees pts st0 s) (mboot : Part.boot ∈ pts) : AnswerSame pts st0 (execClearRemedies s) := by
  delta execClearRemedies
  repeat' first
    | (with_reducible assumption)
    | lift_lets
    | (with_reducible apply clearRemedies_same)
    | (with_reducible apply AnswerSame.next)

theorem execRetrySafe_same {pts : List Part} {st0 : State} (w : BootWorld) (s : State) (hs : Agrees pts st0 s) (mtime : Part.time ∈ pts) (mglb : Part.glb ∈ pts) (mevents : Part.events ∈ pts) (mpins : Part.pins ∈ pts) (mboot : Part.boot ∈ pts) (mnor : Part.nor ∈ pts) (mfwc : Part.fwc ∈ pts) (mrepair : Part.repair ∈ pts) (mrepairSeq : Part.repairSeq ∈ pts) (msec : Part.sec ∈ pts) (mwin : Part.win ∈ pts) (meth : Part.eth ∈ pts) (mlinks : Part.links ∈ pts) (mlinkSpares : Part.linkSpares ∈ pts) (mfab : Part.fab ∈ pts) (mroods : Part.roods ∈ pts) (mslices : Part.slices ∈ pts) (mdrrNext : Part.drrNext ∈ pts) (mqueues : Part.queues ∈ pts) (mdescs : Part.descs ∈ pts) (mnextDesc : Part.nextDesc ∈ pts) (mclusters : Part.clusters ∈ pts) (mspareCluster : Part.spareCluster ∈ pts) (mstks : Part.stks ∈ pts) (mstreams : Part.streams ∈ pts) (mflash : Part.flash ∈ pts) (mslots : Part.slots ∈ pts) (mcache : Part.cache ∈ pts) (mnextCache : Part.nextCache ∈ pts) (mrequests : Part.requests ∈ pts) (mnextReq : Part.nextReq ∈ pts) (mbinds : Part.binds ∈ pts) (mmem : Part.mem ∈ pts) (mbushels : Part.bushels ∈ pts) (mfreeCtr : Part.freeCtr ∈ pts) : AnswerSame pts st0 (execRetrySafe w s) := by
  delta execRetrySafe
  repeat' first
    | (with_reducible assumption)
    | lift_lets
    | (with_reducible apply retrySafe_same)
    | (with_reducible apply AnswerSame.next)

theorem execWritePage_same {pts : List Part} {st0 : State} (page : Nat) (s : State) (hs : Agrees pts st0 s) (mboot : Part.boot ∈ pts) (mnor : Part.nor ∈ pts) : AnswerSame pts st0 (execWritePage page s) := by
  delta execWritePage
  repeat' first
    | (with_reducible assumption)
    | lift_lets
    | (with_reducible apply writePage_same)
    | (with_reducible apply AnswerSame.next)

theorem execCommit_same {pts : List Part} {st0 : State} (a b : SlotView) (s : State) (hs : Agrees pts st0 s) (mboot : Part.boot ∈ pts) (mnor : Part.nor ∈ pts) : AnswerSame pts st0 (execCommit a b s) := by
  delta execCommit
  repeat' first
    | (with_reducible assumption)
    | lift_lets
    | (with_reducible apply commitImage_same)
    | (with_reducible apply AnswerSame.next)

theorem execBootLedgerSel_same {pts : List Part} {st0 : State} (v : Word) (s : State) (hs : Agrees pts st0 s) (mboot : Part.boot ∈ pts) : AnswerSame pts st0 (execBootLedgerSel v s) := by
  delta execBootLedgerSel
  repeat' first
    | (with_reducible assumption)
    | lift_lets
    | (with_reducible apply selectLedger_same)
    | (with_reducible apply AnswerSame.next)

end Sys2Proof.Laws
end

