-- ==== Sys2Proof/Laws/TouchWindow.lean ====
section
/-! SUPPORT. Which parts of the state every operation of Machine/Window.lean may change (Laws/Touch.lean). -/
namespace Sys2Proof.Laws

set_option linter.unusedVariables false

open Sys2Proof.Machine Sys2Proof.Safety

theorem qpDone_same {pts : List Part} {st0 : State} (r op st : Nat) (s : State) (hs : Agrees pts st0 s) (mroods : Part.roods ∈ pts) : Agrees pts st0 (qpDone r op st s) := by
  delta qpDone
  repeat' first
    | (with_reducible assumption)
    | (with_reducible apply modRood_same)

theorem onQp_same {pts : List Part} {st0 : State} (r op : Nat) (f : Rood → State → Nat × State) (s : State) (hs : Agrees pts st0 s) (hf : ∀ x0 x1, Agrees pts st0 x1 → Agrees pts st0 (f x0 x1).2) (mroods : Part.roods ∈ pts) : Agrees pts st0 (onQp r op f s) := by
  delta onQp
  repeat' first
    | (with_reducible assumption)
    | (with_reducible apply hf)
    | (with_reducible apply qpDone_same)
    | split

theorem readQp_same {pts : List Part} {st0 : State} (r : Nat) (s : State) (hs : Agrees pts st0 s) (mroods : Part.roods ∈ pts) : Agrees pts st0 (readQp r s) := by
  delta readQp
  repeat' first
    | (with_reducible assumption)
    | (with_reducible refine fun _ => ?_)
    | (with_reducible apply modRood_same)
    | (with_reducible apply onQp_same)
    | split

theorem createQp_same {pts : List Part} {st0 : State} (r : Nat) (s : State) (hs : Agrees pts st0 s) (meth : Part.eth ∈ pts) (mroods : Part.roods ∈ pts) : Agrees pts st0 (createQp r s) := by
  delta createQp
  repeat' first
    | (with_reducible assumption)
    | (with_reducible rfl)
    | (with_reducible refine fun _ => ?_)
    | lift_lets
    | (intro x; refine same_cut (w := pts) (s0 := st0) x ?_ ?_; rotate_left; intro _; clear_value x; rotate_left; unfold x)
    | (intro x; refine same_cut_ss (w := pts) (s0 := st0) x ?_ ?_; rotate_left; intro hfun; clear_value x; rotate_left; unfold x)
    | (intro x; refine same_cut_ass (w := pts) (s0 := st0) x ?_ ?_; rotate_left; intro hfun; clear_value x; rotate_left; unfold x)
    | (intro x; refine same_cut_abss (w := pts) (s0 := st0) x ?_ ?_; rotate_left; intro hfun; clear_value x; rotate_left; unfold x)
    | (intro x; refine same_cut_a (w := pts) (s0 := st0) x ?_ ?_; rotate_left; intro hfun; clear_value x; rotate_left; unfold x)
    | (intro x; refine same_cut_ab (w := pts) (s0 := st0) x ?_ ?_; rotate_left; intro hfun; clear_value x; rotate_left; unfold x)
    | (intro x; refine same_cut_abc (w := pts) (s0 := st0) x ?_ ?_; rotate_left; intro hfun; clear_value x; rotate_left; unfold x)
    | (intro x; refine same_cut_o1 (w := pts) (s0 := st0) x ?_ ?_; rotate_left; intro hopt; clear_value x; rotate_left; unfold x)
    | (intro x; refine same_cut_o (w := pts) (s0 := st0) x ?_ ?_; rotate_left; intro hopt; clear_value x; rotate_left; unfold x)
    | (intro x; refine same_cut_fst (w := pts) (s0 := st0) x ?_ ?_; rotate_left; intro _; clear_value x; rotate_left; unfold x)
    | (intro x; refine same_cut_snd (w := pts) (s0 := st0) x ?_ ?_; rotate_left; intro _; clear_value x; rotate_left; unfold x)
    | (intro x; clear_value x)
    | (with_reducible apply modRood_same)
    | (with_reducible apply modEth_same)
    | (with_reducible apply onQp_same)
    | (with_reducible refine hopt _ (by assumption))
    | (with_reducible exact hopt _ rfl)
    | (with_reducible apply hfun)
    | (intro _)
    | split
    | (with_reducible apply AnswerSame.next)
    | (with_reducible apply same_getD)
    | (refine same_mk hs ?_; intro p hp; cases p <;> first | exact rfl | exact absurd (by assumption) hp)
    | (refine same_mk (by assumption) ?_; intro p hp; cases p <;> first | exact rfl | exact absurd (by assumption) hp)
    | (dsimp only)
    | (rename_i he; split at he)
    | (rename_i he; injection he with he; subst he)

theorem modifyQp_same {pts : List Part} {st0 : State} (r : Nat) (s : State) (hs : Agrees pts st0 s) (mevents : Part.events ∈ pts) (meth : Part.eth ∈ pts) (mroods : Part.roods ∈ pts) (mdescs : Part.descs ∈ pts) (mstks : Part.stks ∈ pts) (mstreams : Part.streams ∈ pts) (mslots : Part.slots ∈ pts) (mrequests : Part.requests ∈ pts) : Agrees pts st0 (modifyQp r s) := by
  delta modifyQp
  repeat' first
    | (with_reducible assumption)
    | (with_reducible rfl)
    | (with_reducible refine fun _ => ?_)
    | lift_lets
    | (intro x; refine same_cut (w := pts) (s0 := st0) x ?_ ?_; rotate_left; intro _; clear_value x; rotate_left; unfold x)
    | (intro x; refine same_cut_ss (w := pts) (s0 := st0) x ?_ ?_; rotate_left; intro hfun; clear_value x; rotate_left; unfold x)
    | (intro x; refine same_cut_ass (w := pts) (s0 := st0) x ?_ ?_; rotate_left; intro hfun; clear_value x; rotate_left; unfold x)
    | (intro x; refine same_cut_abss (w := pts) (s0 := st0) x ?_ ?_; rotate_left; intro hfun; clear_value x; rotate_left; unfold x)
    | (intro x; refine same_cut_a (w := pts) (s0 := st0) x ?_ ?_; rotate_left; intro hfun; clear_value x; rotate_left; unfold x)
    | (intro x; refine same_cut_ab (w := pts) (s0 := st0) x ?_ ?_; rotate_left; intro hfun; clear_value x; rotate_left; unfold x)
    | (intro x; refine same_cut_abc (w := pts) (s0 := st0) x ?_ ?_; rotate_left; intro hfun; clear_value x; rotate_left; unfold x)
    | (intro x; refine same_cut_o1 (w := pts) (s0 := st0) x ?_ ?_; rotate_left; intro hopt; clear_value x; rotate_left; unfold x)
    | (intro x; refine same_cut_o (w := pts) (s0 := st0) x ?_ ?_; rotate_left; intro hopt; clear_value x; rotate_left; unfold x)
    | (intro x; refine same_cut_fst (w := pts) (s0 := st0) x ?_ ?_; rotate_left; intro _; clear_value x; rotate_left; unfold x)
    | (intro x; refine same_cut_snd (w := pts) (s0 := st0) x ?_ ?_; rotate_left; intro _; clear_value x; rotate_left; unfold x)
    | (intro x; clear_value x)
    | (with_reducible apply modQp_same)
    | (with_reducible apply modEth_same)
    | (with_reducible apply qpFail_same)
    | (with_reducible apply onQp_same)
    | (with_reducible refine hopt _ (by assumption))
    | (with_reducible exact hopt _ rfl)
    | (with_reducible apply hfun)
    | (intro _)
    | split
    | (with_reducible apply AnswerSame.next)
    | (with_reducible apply same_getD)
    | (refine same_mk hs ?_; intro p hp; cases p <;> first | exact rfl | exact absurd (by assumption) hp)
    | (refine same_mk (by assumption) ?_; intro p hp; cases p <;> first | exact rfl | exact absurd (by assumption) hp)
    | (dsimp only)
    | (rename_i he; split at he)
    | (rename_i he; injection he with he; subst he)

theorem deleteQp_same {pts : List Part} {st0 : State} (r : Nat) (s : State) (hs : Agrees pts st0 s) (meth : Part.eth ∈ pts) (mroods : Part.roods ∈ pts) : Agrees pts st0 (deleteQp r s) := by
  delta deleteQp
  repeat' first
    | (with_reducible assumption)
    | (with_reducible refine fun _ => ?_)
    | (with_reducible apply modEth_same)
    | (with_reducible apply onQp_same)
    | split

theorem xrDone_same {pts : List Part} {st0 : State} (r op h st : Nat) (s : State) (hs : Agrees pts st0 s) (mroods : Part.roods ∈ pts) : Agrees pts st0 (xrDone r op h st s) := by
  delta xrDone
  repeat' first
    | (with_reducible assumption)
    | (with_reducible apply modRood_same)

theorem onXr_same {pts : List Part} {st0 : State} (r op h : Nat) (f : State → Nat × Nat × State) (s : State) (hs : Agrees pts st0 s) (hf : ∀ x0, Agrees pts st0 x0 → Agrees pts st0 (f x0).2.2) (mroods : Part.roods ∈ pts) : Agrees pts st0 (onXr r op h f s) := by
  delta onXr
  repeat' first
    | (with_reducible assumption)
    | (with_reducible apply hf)
    | (with_reducible apply xrDone_same)
    | split

theorem readXr_same {pts : List Part} {st0 : State} (r h : Nat) (s : State) (hs : Agrees pts st0 s) (mroods : Part.roods ∈ pts) : Agrees pts st0 (readXr r h s) := by
  delta readXr
  repeat' first
    | (with_reducible assumption)
    | (with_reducible refine fun _ => ?_)
    | (with_reducible apply modRood_same)
    | (with_reducible apply onXr_same)
    | split

theorem createXr_same {pts : List Part} {st0 : State} (r : Nat) (s : State) (hs : Agrees pts st0 s) (mglb : Part.glb ∈ pts) (mevents : Part.events ∈ pts) (meth : Part.eth ∈ pts) (mroods : Part.roods ∈ pts) (mfreeCtr : Part.freeCtr ∈ pts) : Agrees pts st0 (createXr r s) := by
  delta createXr
  repeat' first
    | (with_reducible assumption)
    | (with_reducible rfl)
    | (with_reducible refine fun _ => ?_)
    | lift_lets
    | (intro x; refine same_cut (w := pts) (s0 := st0) x ?_ ?_; rotate_left; intro _; clear_value x; rotate_left; unfold x)
    | (intro x; refine same_cut_ss (w := pts) (s0 := st0) x ?_ ?_; rotate_left; intro hfun; clear_value x; rotate_left; unfold x)
    | (intro x; refine same_cut_ass (w := pts) (s0 := st0) x ?_ ?_; rotate_left; intro hfun; clear_value x; rotate_left; unfold x)
    | (intro x; refine same_cut_abss (w := pts) (s0 := st0) x ?_ ?_; rotate_left; intro hfun; clear_value x; rotate_left; unfold x)
    | (intro x; refine same_cut_a (w := pts) (s0 := st0) x ?_ ?_; rotate_left; intro hfun; clear_value x; rotate_left; unfold x)
    | (intro x; refine same_cut_ab (w := pts) (s0 := st0) x ?_ ?_; rotate_left; intro hfun; clear_value x; rotate_left; unfold x)
    | (intro x; refine same_cut_abc (w := pts) (s0 := st0) x ?_ ?_; rotate_left; intro hfun; clear_value x; rotate_left; unfold x)
    | (intro x; refine same_cut_o1 (w := pts) (s0 := st0) x ?_ ?_; rotate_left; intro hopt; clear_value x; rotate_left; unfold x)
    | (intro x; refine same_cut_o (w := pts) (s0 := st0) x ?_ ?_; rotate_left; intro hopt; clear_value x; rotate_left; unfold x)
    | (intro x; refine same_cut_fst (w := pts) (s0 := st0) x ?_ ?_; rotate_left; intro _; clear_value x; rotate_left; unfold x)
    | (intro x; refine same_cut_snd (w := pts) (s0 := st0) x ?_ ?_; rotate_left; intro _; clear_value x; rotate_left; unfold x)
    | (intro x; clear_value x)
    | (with_reducible apply modRood_same)
    | (with_reducible apply modEth_same)
    | (with_reducible apply fresh_same)
    | (with_reducible refine fresh_same_eq _ _ ?_ ?_ (by assumption))
    | (with_reducible apply logUncovered_same)
    | (with_reducible apply onXr_same)
    | (with_reducible refine hopt _ (by assumption))
    | (with_reducible exact hopt _ rfl)
    | (with_reducible apply hfun)
    | (intro _)
    | split
    | (with_reducible apply AnswerSame.next)
    | (with_reducible apply same_getD)
    | (refine same_mk hs ?_; intro p hp; cases p <;> first | exact rfl | exact absurd (by assumption) hp)
    | (refine same_mk (by assumption) ?_; intro p hp; cases p <;> first | exact rfl | exact absurd (by assumption) hp)
    | (dsimp only)
    | (rename_i he; split at he)
    | (rename_i he; injection he with he; subst he)

theorem deleteXr_same {pts : List Part} {st0 : State} (r h : Nat) (s : State) (hs : Agrees pts st0 s) (meth : Part.eth ∈ pts) (mroods : Part.roods ∈ pts) : Agrees pts st0 (deleteXr r h s) := by
  delta deleteXr
  repeat' first
    | (with_reducible assumption)
    | (with_reducible refine fun _ => ?_)
    | (with_reducible apply modEth_same)
    | (with_reducible apply onXr_same)
    | split

theorem putApbase_same {pts : List Part} {st0 : State} (w i : Nat) (v : Nat) (s : State) (hs : Agrees pts st0 s) (mwin : Part.win ∈ pts) : Agrees pts st0 (putApbase w i v s) := by
  delta putApbase
  repeat' first
    | (with_reducible assumption)
    | lift_lets
    | (intro x; clear_value x)
    | (with_reducible apply modWin_same)
    | split

theorem submitRecord_same {pts : List Part} {st0 : State} (w mbox : Nat) (bs : List Byte) (s : State) (hs : Agrees pts st0 s) (mevents : Part.events ∈ pts) (msec : Part.sec ∈ pts) (meth : Part.eth ∈ pts) (mroods : Part.roods ∈ pts) (mdescs : Part.descs ∈ pts) (mstks : Part.stks ∈ pts) (mstreams : Part.streams ∈ pts) (mflash : Part.flash ∈ pts) (mslots : Part.slots ∈ pts) (mrequests : Part.requests ∈ pts) : Agrees pts st0 (submitRecord w mbox bs s) := by
  delta submitRecord
  repeat' first
    | (with_reducible assumption)
    | (with_reducible apply submitModel_same)
    | (with_reducible apply submitTraining_same)
    | (with_reducible apply submitBlob_same)
    | split

theorem putStage_same {pts : List Part} {st0 : State} (w mbox path i : Nat) (v : Word) (s : State) (hs : Agrees pts st0 s) (mevents : Part.events ∈ pts) (msec : Part.sec ∈ pts) (mwin : Part.win ∈ pts) (meth : Part.eth ∈ pts) (mroods : Part.roods ∈ pts) (mdescs : Part.descs ∈ pts) (mstks : Part.stks ∈ pts) (mstreams : Part.streams ∈ pts) (mflash : Part.flash ∈ pts) (mslots : Part.slots ∈ pts) (mrequests : Part.requests ∈ pts) : Agrees pts st0 (putStage w mbox path i v s) := by
  delta putStage
  repeat' first
    | (with_reducible assumption)
    | lift_lets
    | (intro x; clear_value x)
    | (with_reducible apply modWin_same)
    | (with_reducible apply submitRecord_same)
    | split

theorem selectReply_same {pts : List Part} {st0 : State} (r mbox v : Nat) (s : State) (hs : Agrees pts st0 s) (mroods : Part.roods ∈ pts) : Agrees pts st0 (selectReply r mbox v s) := by
  delta selectReply
  repeat' first
    | (with_reducible assumption)
    | (with_reducible apply modBox_same)

theorem writeModulePage_same {pts : List Part} {st0 : State} (path off : Nat) (v : Word) (s : State) (hs : Agrees pts st0 s) (mevents : Part.events ∈ pts) (msec : Part.sec ∈ pts) (mwin : Part.win ∈ pts) (meth : Part.eth ∈ pts) (mroods : Part.roods ∈ pts) (mdescs : Part.descs ∈ pts) (mstks : Part.stks ∈ pts) (mstreams : Part.streams ∈ pts) (mflash : Part.flash ∈ pts) (mslots : Part.slots ∈ pts) (mrequests : Part.requests ∈ pts) : Agrees pts st0 (writeModulePage path off v s) := by
  delta writeModulePage
  repeat' first
    | (with_reducible assumption)
    | lift_lets
    | (intro x; clear_value x)
    | (with_reducible apply modWin_same)
    | (with_reducible apply putApbase_same)
    | (with_reducible apply putStage_same)
    | split
    | (refine same_mk hs ?_; intro p hp; cases p <;> first | exact rfl | exact absurd (by assumption) hp)

theorem writeQpCmd_same {pts : List Part} {st0 : State} (r n : Nat) (s : State) (hs : Agrees pts st0 s) (mevents : Part.events ∈ pts) (meth : Part.eth ∈ pts) (mroods : Part.roods ∈ pts) (mdescs : Part.descs ∈ pts) (mstks : Part.stks ∈ pts) (mstreams : Part.streams ∈ pts) (mslots : Part.slots ∈ pts) (mrequests : Part.requests ∈ pts) : Agrees pts st0 (writeQpCmd r n s) := by
  delta writeQpCmd
  repeat' first
    | (with_reducible assumption)
    | (with_reducible apply readQp_same)
    | (with_reducible apply createQp_same)
    | (with_reducible apply modifyQp_same)
    | (with_reducible apply deleteQp_same)
    | split

theorem writeXrCmd_same {pts : List Part} {st0 : State} (r n : Nat) (s : State) (hs : Agrees pts st0 s) (mglb : Part.glb ∈ pts) (mevents : Part.events ∈ pts) (meth : Part.eth ∈ pts) (mroods : Part.roods ∈ pts) (mfreeCtr : Part.freeCtr ∈ pts) : Agrees pts st0 (writeXrCmd r n s) := by
  delta writeXrCmd
  repeat' first
    | (with_reducible assumption)
    | lift_lets
    | (intro x; clear_value x)
    | (with_reducible apply modRood_same)
    | (with_reducible apply xrDone_same)
    | (with_reducible apply readXr_same)
    | (with_reducible apply createXr_same)
    | (with_reducible apply deleteXr_same)
    | split

theorem writeRoodPage_same {pts : List Part} {st0 : State} (r path off : Nat) (v : Word) (s : State) (hs : Agrees pts st0 s) (mglb : Part.glb ∈ pts) (mevents : Part.events ∈ pts) (msec : Part.sec ∈ pts) (mwin : Part.win ∈ pts) (meth : Part.eth ∈ pts) (mroods : Part.roods ∈ pts) (mdescs : Part.descs ∈ pts) (mstks : Part.stks ∈ pts) (mstreams : Part.streams ∈ pts) (mflash : Part.flash ∈ pts) (mslots : Part.slots ∈ pts) (mrequests : Part.requests ∈ pts) (mfreeCtr : Part.freeCtr ∈ pts) : Agrees pts st0 (writeRoodPage r path off v s) := by
  delta writeRoodPage
  repeat' first
    | (with_reducible assumption)
    | (with_reducible rfl)
    | (with_reducible refine fun _ => ?_)
    | lift_lets
    | (intro x; refine same_cut (w := pts) (s0 := st0) x ?_ ?_; rotate_left; intro _; clear_value x; rotate_left; unfold x)
    | (intro x; refine same_cut_ss (w := pts) (s0 := st0) x ?_ ?_; rotate_left; intro hfun; clear_value x; rotate_left; unfold x)
    | (intro x; refine same_cut_ass (w := pts) (s0 := st0) x ?_ ?_; rotate_left; intro hfun; clear_value x; rotate_left; unfold x)
    | (intro x; refine same_cut_abss (w := pts) (s0 := st0) x ?_ ?_; rotate_left; intro hfun; clear_value x; rotate_left; unfold x)
    | (intro x; refine same_cut_a (w := pts) (s0 := st0) x ?_ ?_; rotate_left; intro hfun; clear_value x; rotate_left; unfold x)
    | (intro x; refine same_cut_ab (w := pts) (s0 := st0) x ?_ ?_; rotate_left; intro hfun; clear_value x; rotate_left; unfold x)
    | (intro x; refine same_cut_abc (w := pts) (s0 := st0) x ?_ ?_; rotate_left; intro hfun; clear_value x; rotate_left; unfold x)
    | (intro x; refine same_cut_o1 (w := pts) (s0 := st0) x ?_ ?_; rotate_left; intro hopt; clear_value x; rotate_left; unfold x)
    | (intro x; refine same_cut_o (w := pts) (s0 := st0) x ?_ ?_; rotate_left; intro hopt; clear_value x; rotate_left; unfold x)
    | (intro x; refine same_cut_fst (w := pts) (s0 := st0) x ?_ ?_; rotate_left; intro _; clear_value x; rotate_left; unfold x)
    | (intro x; refine same_cut_snd (w := pts) (s0 := st0) x ?_ ?_; rotate_left; intro _; clear_value x; rotate_left; unfold x)
    | (intro x; clear_value x)
    | (with_reducible apply modRood_same)
    | (with_reducible apply putApbase_same)
    | (with_reducible apply putStage_same)
    | (with_reducible apply selectReply_same)
    | (with_reducible apply writeQpCmd_same)
    | (with_reducible apply writeXrCmd_same)
    | (with_reducible refine hopt _ (by assumption))
    | (with_reducible exact hopt _ rfl)
    | (with_reducible apply hfun)
    | (intro _)
    | split
    | (with_reducible apply AnswerSame.next)
    | (with_reducible apply same_getD)
    | (refine same_mk hs ?_; intro p hp; cases p <;> first | exact rfl | exact absurd (by assumption) hp)
    | (refine same_mk (by assumption) ?_; intro p hp; cases p <;> first | exact rfl | exact absurd (by assumption) hp)
    | (dsimp only)
    | (rename_i he; split at he)
    | (rename_i he; injection he with he; subst he)

theorem writeWindowPage_same {pts : List Part} {st0 : State} (w path off : Nat) (v : Word) (s : State) (hs : Agrees pts st0 s) (mglb : Part.glb ∈ pts) (mevents : Part.events ∈ pts) (msec : Part.sec ∈ pts) (mwin : Part.win ∈ pts) (meth : Part.eth ∈ pts) (mroods : Part.roods ∈ pts) (mdescs : Part.descs ∈ pts) (mstks : Part.stks ∈ pts) (mstreams : Part.streams ∈ pts) (mflash : Part.flash ∈ pts) (mslots : Part.slots ∈ pts) (mrequests : Part.requests ∈ pts) (mfreeCtr : Part.freeCtr ∈ pts) : Agrees pts st0 (writeWindowPage w path off v s) := by
  delta writeWindowPage
  repeat' first
    | (with_reducible assumption)
    | (with_reducible apply writeModulePage_same)
    | (with_reducible apply writeRoodPage_same)
    | split

theorem winUnmapped_same {pts : List Part} {st0 : State} (kind : Nat) (s : State) (hs : Agrees pts st0 s) (mglb : Part.glb ∈ pts) (mevents : Part.events ∈ pts) (mfreeCtr : Part.freeCtr ∈ pts) : Agrees pts st0 (winUnmapped kind s) := by
  delta winUnmapped
  repeat' first
    | (with_reducible assumption)
    | lift_lets
    | (with_reducible apply fresh_same)
    | (with_reducible apply regUnmapped_same)

theorem winReadOne_same {pts : List Part} {st0 : State} (w path : Nat) (t : WinTarget) (s : State) (hs : Agrees pts st0 s) (mglb : Part.glb ∈ pts) (mevents : Part.events ∈ pts) (msec : Part.sec ∈ pts) (mfreeCtr : Part.freeCtr ∈ pts) : Agrees pts st0 (winReadOne w path t s).2 := by
  delta winReadOne
  repeat' first
    | (with_reducible assumption)
    | (with_reducible apply readReg_same)
    | (with_reducible apply winUnmapped_same)
    | split

theorem winReadOne_same_eq {pts : List Part} {st0 : State} (w path : Nat) (t : WinTarget) (s : State) {tOut : State} {outv : _} (hs : Agrees pts st0 s) (mglb : Part.glb ∈ pts) (mevents : Part.events ∈ pts) (msec : Part.sec ∈ pts) (mfreeCtr : Part.freeCtr ∈ pts) (e : winReadOne w path t s = (outv, tOut)) : Agrees pts st0 tOut := by
  have := winReadOne_same (pts := pts) (st0 := st0) w path t s hs mglb mevents msec mfreeCtr
  rw [e] at this; exact this

theorem winWriteOne_same {pts : List Part} {st0 : State} (w path : Nat) (t : WinTarget) (v : Word) (s : State) (hs : Agrees pts st0 s) (mglb : Part.glb ∈ pts) (mevents : Part.events ∈ pts) (mboot : Part.boot ∈ pts) (mnor : Part.nor ∈ pts) (mfwc : Part.fwc ∈ pts) (mrepair : Part.repair ∈ pts) (mrepairSeq : Part.repairSeq ∈ pts) (msec : Part.sec ∈ pts) (mwin : Part.win ∈ pts) (meth : Part.eth ∈ pts) (mlinks : Part.links ∈ pts) (mfab : Part.fab ∈ pts) (mroods : Part.roods ∈ pts) (mslices : Part.slices ∈ pts) (mqueues : Part.queues ∈ pts) (mdescs : Part.descs ∈ pts) (mnextDesc : Part.nextDesc ∈ pts) (mclusters : Part.clusters ∈ pts) (mstks : Part.stks ∈ pts) (mstreams : Part.streams ∈ pts) (mflash : Part.flash ∈ pts) (mslots : Part.slots ∈ pts) (mrequests : Part.requests ∈ pts) (mbinds : Part.binds ∈ pts) (mmem : Part.mem ∈ pts) (mbushels : Part.bushels ∈ pts) (mfreeCtr : Part.freeCtr ∈ pts) : Agrees pts st0 (winWriteOne w path t v s) := by
  delta winWriteOne
  repeat' first
    | (with_reducible assumption)
    | (with_reducible apply writeReg_same)
    | (with_reducible apply writeWindowPage_same)
    | (with_reducible apply winUnmapped_same)
    | split

theorem winReply_same {pts : List Part} {st0 : State} (m : WinMsg) (st : Nat) (data : List Word) (s : State) (hs : Agrees pts st0 s) (meth : Part.eth ∈ pts) : Agrees pts st0 (winReply m st data s) := by
  delta winReply
  repeat' first
    | (with_reducible assumption)
    | (with_reducible rfl)
    | (with_reducible refine fun _ => ?_)
    | lift_lets
    | (intro x; refine same_cut (w := pts) (s0 := st0) x ?_ ?_; rotate_left; intro _; clear_value x; rotate_left; unfold x)
    | (intro x; refine same_cut_ss (w := pts) (s0 := st0) x ?_ ?_; rotate_left; intro hfun; clear_value x; rotate_left; unfold x)
    | (intro x; refine same_cut_ass (w := pts) (s0 := st0) x ?_ ?_; rotate_left; intro hfun; clear_value x; rotate_left; unfold x)
    | (intro x; refine same_cut_abss (w := pts) (s0 := st0) x ?_ ?_; rotate_left; intro hfun; clear_value x; rotate_left; unfold x)
    | (intro x; refine same_cut_a (w := pts) (s0 := st0) x ?_ ?_; rotate_left; intro hfun; clear_value x; rotate_left; unfold x)
    | (intro x; refine same_cut_ab (w := pts) (s0 := st0) x ?_ ?_; rotate_left; intro hfun; clear_value x; rotate_left; unfold x)
    | (intro x; refine same_cut_abc (w := pts) (s0 := st0) x ?_ ?_; rotate_left; intro hfun; clear_value x; rotate_left; unfold x)
    | (intro x; refine same_cut_o1 (w := pts) (s0 := st0) x ?_ ?_; rotate_left; intro hopt; clear_value x; rotate_left; unfold x)
    | (intro x; refine same_cut_o (w := pts) (s0 := st0) x ?_ ?_; rotate_left; intro hopt; clear_value x; rotate_left; unfold x)
    | (intro x; refine same_cut_fst (w := pts) (s0 := st0) x ?_ ?_; rotate_left; intro _; clear_value x; rotate_left; unfold x)
    | (intro x; refine same_cut_snd (w := pts) (s0 := st0) x ?_ ?_; rotate_left; intro _; clear_value x; rotate_left; unfold x)
    | (intro x; clear_value x)
    | (with_reducible apply modEth_same)
    | (with_reducible apply qpSend_same)
    | (with_reducible refine hopt _ (by assumption))
    | (with_reducible exact hopt _ rfl)
    | (with_reducible apply hfun)
    | (intro _)
    | split
    | (with_reducible apply AnswerSame.next)
    | (with_reducible apply same_getD)
    | (refine same_mk hs ?_; intro p hp; cases p <;> first | exact rfl | exact absurd (by assumption) hp)
    | (refine same_mk (by assumption) ?_; intro p hp; cases p <;> first | exact rfl | exact absurd (by assumption) hp)
    | (dsimp only)
    | (rename_i he; split at he)
    | (rename_i he; injection he with he; subst he)

theorem badMessage_same {pts : List Part} {st0 : State} (m : WinMsg) (s : State) (hs : Agrees pts st0 s) (mevents : Part.events ∈ pts) (meth : Part.eth ∈ pts) (mroods : Part.roods ∈ pts) (mdescs : Part.descs ∈ pts) (mstks : Part.stks ∈ pts) (mstreams : Part.streams ∈ pts) (mslots : Part.slots ∈ pts) (mrequests : Part.requests ∈ pts) (mfreeCtr : Part.freeCtr ∈ pts) : Agrees pts st0 (badMessage m s) := by
  delta badMessage
  repeat' first
    | (with_reducible assumption)
    | (with_reducible rfl)
    | (with_reducible refine fun _ => ?_)
    | lift_lets
    | (intro x; refine same_cut (w := pts) (s0 := st0) x ?_ ?_; rotate_left; intro _; clear_value x; rotate_left; unfold x)
    | (intro x; refine same_cut_ss (w := pts) (s0 := st0) x ?_ ?_; rotate_left; intro hfun; clear_value x; rotate_left; unfold x)
    | (intro x; refine same_cut_ass (w := pts) (s0 := st0) x ?_ ?_; rotate_left; intro hfun; clear_value x; rotate_left; unfold x)
    | (intro x; refine same_cut_abss (w := pts) (s0 := st0) x ?_ ?_; rotate_left; intro hfun; clear_value x; rotate_left; unfold x)
    | (intro x; refine same_cut_a (w := pts) (s0 := st0) x ?_ ?_; rotate_left; intro hfun; clear_value x; rotate_left; unfold x)
    | (intro x; refine same_cut_ab (w := pts) (s0 := st0) x ?_ ?_; rotate_left; intro hfun; clear_value x; rotate_left; unfold x)
    | (intro x; refine same_cut_abc (w := pts) (s0 := st0) x ?_ ?_; rotate_left; intro hfun; clear_value x; rotate_left; unfold x)
    | (intro x; refine same_cut_o1 (w := pts) (s0 := st0) x ?_ ?_; rotate_left; intro hopt; clear_value x; rotate_left; unfold x)
    | (intro x; refine same_cut_o (w := pts) (s0 := st0) x ?_ ?_; rotate_left; intro hopt; clear_value x; rotate_left; unfold x)
    | (intro x; refine same_cut_fst (w := pts) (s0 := st0) x ?_ ?_; rotate_left; intro _; clear_value x; rotate_left; unfold x)
    | (intro x; refine same_cut_snd (w := pts) (s0 := st0) x ?_ ?_; rotate_left; intro _; clear_value x; rotate_left; unfold x)
    | (intro x; clear_value x)
    | (with_reducible apply violates_same)
    | (with_reducible apply winReply_same)
    | (with_reducible refine hopt _ (by assumption))
    | (with_reducible exact hopt _ rfl)
    | (with_reducible apply hfun)
    | (intro _)
    | split
    | (with_reducible apply AnswerSame.next)
    | (with_reducible apply same_getD)
    | (refine same_mk hs ?_; intro p hp; cases p <;> first | exact rfl | exact absurd (by assumption) hp)
    | (refine same_mk (by assumption) ?_; intro p hp; cases p <;> first | exact rfl | exact absurd (by assumption) hp)
    | (dsimp only)
    | (rename_i he; split at he)
    | (rename_i he; injection he with he; subst he)

theorem dropDatagram_same {pts : List Part} {st0 : State} (row : Nat) (m : WinMsg) (s : State) (hs : Agrees pts st0 s) (mevents : Part.events ∈ pts) (meth : Part.eth ∈ pts) (mroods : Part.roods ∈ pts) (mdescs : Part.descs ∈ pts) (mstks : Part.stks ∈ pts) (mstreams : Part.streams ∈ pts) (mslots : Part.slots ∈ pts) (mrequests : Part.requests ∈ pts) (mfreeCtr : Part.freeCtr ∈ pts) : Agrees pts st0 (dropDatagram row m s) := by
  delta dropDatagram
  repeat' first
    | (with_reducible assumption)
    | (with_reducible rfl)
    | (with_reducible refine fun _ => ?_)
    | lift_lets
    | (intro x; refine same_cut (w := pts) (s0 := st0) x ?_ ?_; rotate_left; intro _; clear_value x; rotate_left; unfold x)
    | (intro x; refine same_cut_ss (w := pts) (s0 := st0) x ?_ ?_; rotate_left; intro hfun; clear_value x; rotate_left; unfold x)
    | (intro x; refine same_cut_ass (w := pts) (s0 := st0) x ?_ ?_; rotate_left; intro hfun; clear_value x; rotate_left; unfold x)
    | (intro x; refine same_cut_abss (w := pts) (s0 := st0) x ?_ ?_; rotate_left; intro hfun; clear_value x; rotate_left; unfold x)
    | (intro x; refine same_cut_a (w := pts) (s0 := st0) x ?_ ?_; rotate_left; intro hfun; clear_value x; rotate_left; unfold x)
    | (intro x; refine same_cut_ab (w := pts) (s0 := st0) x ?_ ?_; rotate_left; intro hfun; clear_value x; rotate_left; unfold x)
    | (intro x; refine same_cut_abc (w := pts) (s0 := st0) x ?_ ?_; rotate_left; intro hfun; clear_value x; rotate_left; unfold x)
    | (intro x; refine same_cut_o1 (w := pts) (s0 := st0) x ?_ ?_; rotate_left; intro hopt; clear_value x; rotate_left; unfold x)
    | (intro x; refine same_cut_o (w := pts) (s0 := st0) x ?_ ?_; rotate_left; intro hopt; clear_value x; rotate_left; unfold x)
    | (intro x; refine same_cut_fst (w := pts) (s0 := st0) x ?_ ?_; rotate_left; intro _; clear_value x; rotate_left; unfold x)
    | (intro x; refine same_cut_snd (w := pts) (s0 := st0) x ?_ ?_; rotate_left; intro _; clear_value x; rotate_left; unfold x)
    | (intro x; clear_value x)
    | (with_reducible apply modEth_same)
    | (with_reducible apply violates_same)
    | (with_reducible refine hopt _ (by assumption))
    | (with_reducible exact hopt _ rfl)
    | (with_reducible apply hfun)
    | (intro _)
    | split
    | (with_reducible apply AnswerSame.next)
    | (with_reducible apply same_getD)
    | (refine same_mk hs ?_; intro p hp; cases p <;> first | exact rfl | exact absurd (by assumption) hp)
    | (refine same_mk (by assumption) ?_; intro p hp; cases p <;> first | exact rfl | exact absurd (by assumption) hp)
    | (dsimp only)
    | (rename_i he; split at he)
    | (rename_i he; injection he with he; subst he)

theorem noteDatagram_same {pts : List Part} {st0 : State} (m : WinMsg) (s : State) (hs : Agrees pts st0 s) (meth : Part.eth ∈ pts) : Agrees pts st0 (noteDatagram m s) := by
  delta noteDatagram
  repeat' first
    | (with_reducible assumption)
    | (with_reducible rfl)
    | (with_reducible refine fun _ => ?_)
    | lift_lets
    | (intro x; refine same_cut (w := pts) (s0 := st0) x ?_ ?_; rotate_left; intro _; clear_value x; rotate_left; unfold x)
    | (intro x; refine same_cut_ss (w := pts) (s0 := st0) x ?_ ?_; rotate_left; intro hfun; clear_value x; rotate_left; unfold x)
    | (intro x; refine same_cut_ass (w := pts) (s0 := st0) x ?_ ?_; rotate_left; intro hfun; clear_value x; rotate_left; unfold x)
    | (intro x; refine same_cut_abss (w := pts) (s0 := st0) x ?_ ?_; rotate_left; intro hfun; clear_value x; rotate_left; unfold x)
    | (intro x; refine same_cut_a (w := pts) (s0 := st0) x ?_ ?_; rotate_left; intro hfun; clear_value x; rotate_left; unfold x)
    | (intro x; refine same_cut_ab (w := pts) (s0 := st0) x ?_ ?_; rotate_left; intro hfun; clear_value x; rotate_left; unfold x)
    | (intro x; refine same_cut_abc (w := pts) (s0 := st0) x ?_ ?_; rotate_left; intro hfun; clear_value x; rotate_left; unfold x)
    | (intro x; refine same_cut_o1 (w := pts) (s0 := st0) x ?_ ?_; rotate_left; intro hopt; clear_value x; rotate_left; unfold x)
    | (intro x; refine same_cut_o (w := pts) (s0 := st0) x ?_ ?_; rotate_left; intro hopt; clear_value x; rotate_left; unfold x)
    | (intro x; refine same_cut_fst (w := pts) (s0 := st0) x ?_ ?_; rotate_left; intro _; clear_value x; rotate_left; unfold x)
    | (intro x; refine same_cut_snd (w := pts) (s0 := st0) x ?_ ?_; rotate_left; intro _; clear_value x; rotate_left; unfold x)
    | (intro x; clear_value x)
    | (with_reducible apply modEth_same)
    | (with_reducible apply countRx_same)
    | (with_reducible refine hopt _ (by assumption))
    | (with_reducible exact hopt _ rfl)
    | (with_reducible apply hfun)
    | (intro _)
    | split
    | (with_reducible apply AnswerSame.next)
    | (with_reducible apply same_getD)
    | (refine same_mk hs ?_; intro p hp; cases p <;> first | exact rfl | exact absurd (by assumption) hp)
    | (refine same_mk (by assumption) ?_; intro p hp; cases p <;> first | exact rfl | exact absurd (by assumption) hp)
    | (dsimp only)
    | (rename_i he; split at he)
    | (rename_i he; injection he with he; subst he)

theorem onMessage_same {pts : List Part} {st0 : State} (m : WinMsg) (f : State → State) (s : State) (hs : Agrees pts st0 s) (hf : ∀ x0, Agrees pts st0 x0 → Agrees pts st0 (f x0)) (mevents : Part.events ∈ pts) (meth : Part.eth ∈ pts) (mroods : Part.roods ∈ pts) (mdescs : Part.descs ∈ pts) (mstks : Part.stks ∈ pts) (mstreams : Part.streams ∈ pts) (mslots : Part.slots ∈ pts) (mrequests : Part.requests ∈ pts) (mfreeCtr : Part.freeCtr ∈ pts) : Agrees pts st0 (onMessage m f s) := by
  delta onMessage
  repeat' first
    | (with_reducible assumption)
    | (with_reducible rfl)
    | (with_reducible apply hf)
    | (with_reducible refine fun _ => ?_)
    | lift_lets
    | (intro x; refine same_cut (w := pts) (s0 := st0) x ?_ ?_; rotate_left; intro _; clear_value x; rotate_left; unfold x)
    | (intro x; refine same_cut_ss (w := pts) (s0 := st0) x ?_ ?_; rotate_left; intro hfun; clear_value x; rotate_left; unfold x)
    | (intro x; refine same_cut_ass (w := pts) (s0 := st0) x ?_ ?_; rotate_left; intro hfun; clear_value x; rotate_left; unfold x)
    | (intro x; refine same_cut_abss (w := pts) (s0 := st0) x ?_ ?_; rotate_left; intro hfun; clear_value x; rotate_left; unfold x)
    | (intro x; refine same_cut_a (w := pts) (s0 := st0) x ?_ ?_; rotate_left; intro hfun; clear_value x; rotate_left; unfold x)
    | (intro x; refine same_cut_ab (w := pts) (s0 := st0) x ?_ ?_; rotate_left; intro hfun; clear_value x; rotate_left; unfold x)
    | (intro x; refine same_cut_abc (w := pts) (s0 := st0) x ?_ ?_; rotate_left; intro hfun; clear_value x; rotate_left; unfold x)
    | (intro x; refine same_cut_o1 (w := pts) (s0 := st0) x ?_ ?_; rotate_left; intro hopt; clear_value x; rotate_left; unfold x)
    | (intro x; refine same_cut_o (w := pts) (s0 := st0) x ?_ ?_; rotate_left; intro hopt; clear_value x; rotate_left; unfold x)
    | (intro x; refine same_cut_fst (w := pts) (s0 := st0) x ?_ ?_; rotate_left; intro _; clear_value x; rotate_left; unfold x)
    | (intro x; refine same_cut_snd (w := pts) (s0 := st0) x ?_ ?_; rotate_left; intro _; clear_value x; rotate_left; unfold x)
    | (intro x; clear_value x)
    | (with_reducible apply modEth_same)
    | (with_reducible apply badMessage_same)
    | (with_reducible apply dropDatagram_same)
    | (with_reducible apply noteDatagram_same)
    | (with_reducible refine hopt _ (by assumption))
    | (with_reducible exact hopt _ rfl)
    | (with_reducible apply hfun)
    | (intro _)
    | split
    | (with_reducible apply AnswerSame.next)
    | (with_reducible apply same_getD)
    | (refine same_mk hs ?_; intro p hp; cases p <;> first | exact rfl | exact absurd (by assumption) hp)
    | (refine same_mk (by assumption) ?_; intro p hp; cases p <;> first | exact rfl | exact absurd (by assumption) hp)
    | (dsimp only)
    | (rename_i he; split at he)
    | (rename_i he; injection he with he; subst he)

theorem winRead_same {pts : List Part} {st0 : State} (m : WinMsg) (s : State) (hs : Agrees pts st0 s) (mglb : Part.glb ∈ pts) (mevents : Part.events ∈ pts) (msec : Part.sec ∈ pts) (meth : Part.eth ∈ pts) (mroods : Part.roods ∈ pts) (mdescs : Part.descs ∈ pts) (mstks : Part.stks ∈ pts) (mstreams : Part.streams ∈ pts) (mslots : Part.slots ∈ pts) (mrequests : Part.requests ∈ pts) (mfreeCtr : Part.freeCtr ∈ pts) : Agrees pts st0 (winRead m s) := by
  delta winRead
  repeat' first
    | (with_reducible assumption)
    | (with_reducible refine fun _ => ?_)
    | lift_lets
    | (intro x; refine same_cut_snd (w := pts) (s0 := st0) x ?_ ?_; rotate_left; intro _; clear_value x; rotate_left; unfold x)
    | (intro x; clear_value x)
    | (with_reducible apply winReadOne_same)
    | (with_reducible apply winReply_same)
    | (with_reducible apply badMessage_same)
    | (with_reducible apply onMessage_same)
    | (with_reducible apply foldl_snd_same)
    | split

theorem winWrite_same {pts : List Part} {st0 : State} (m : WinMsg) (masked : Bool) (s : State) (hs : Agrees pts st0 s) (mglb : Part.glb ∈ pts) (mevents : Part.events ∈ pts) (mboot : Part.boot ∈ pts) (mnor : Part.nor ∈ pts) (mfwc : Part.fwc ∈ pts) (mrepair : Part.repair ∈ pts) (mrepairSeq : Part.repairSeq ∈ pts) (msec : Part.sec ∈ pts) (mwin : Part.win ∈ pts) (meth : Part.eth ∈ pts) (mlinks : Part.links ∈ pts) (mfab : Part.fab ∈ pts) (mroods : Part.roods ∈ pts) (mslices : Part.slices ∈ pts) (mqueues : Part.queues ∈ pts) (mdescs : Part.descs ∈ pts) (mnextDesc : Part.nextDesc ∈ pts) (mclusters : Part.clusters ∈ pts) (mstks : Part.stks ∈ pts) (mstreams : Part.streams ∈ pts) (mflash : Part.flash ∈ pts) (mslots : Part.slots ∈ pts) (mrequests : Part.requests ∈ pts) (mbinds : Part.binds ∈ pts) (mmem : Part.mem ∈ pts) (mbushels : Part.bushels ∈ pts) (mfreeCtr : Part.freeCtr ∈ pts) : Agrees pts st0 (winWrite m masked s) := by
  delta winWrite
  repeat' first
    | (with_reducible assumption)
    | (with_reducible refine fun _ => ?_)
    | lift_lets
    | (intro x; refine same_cut_ass (w := pts) (s0 := st0) x ?_ ?_; rotate_left; intro hfun; clear_value x; rotate_left; unfold x)
    | (intro x; clear_value x)
    | (with_reducible apply forAll_same)
    | (with_reducible apply winWriteOne_same)
    | (with_reducible apply winReply_same)
    | (with_reducible apply badMessage_same)
    | (with_reducible apply onMessage_same)
    | (with_reducible apply hfun)
    | split

theorem attachFails_same {pts : List Part} {st0 : State} (m : WinMsg) (s : State) (hs : Agrees pts st0 s) (mevents : Part.events ∈ pts) (msec : Part.sec ∈ pts) (meth : Part.eth ∈ pts) : Agrees pts st0 (attachFails m s) := by
  delta attachFails
  repeat' first
    | (with_reducible assumption)
    | lift_lets
    | (intro x; refine same_cut (w := pts) (s0 := st0) x ?_ ?_; rotate_left; intro _; clear_value x; rotate_left; unfold x)
    | (with_reducible apply modEth_same)
    | (with_reducible apply authFailed_same)
    | (with_reducible apply winReply_same)

theorem attachReplies_same {pts : List Part} {st0 : State} (m : WinMsg) (num : Nat) (eph : List Byte) (spi : Nat) (report : List Byte) (s : State) (hs : Agrees pts st0 s) (meth : Part.eth ∈ pts) : Agrees pts st0 (attachReplies m num eph spi report s) := by
  delta attachReplies
  repeat' first
    | (with_reducible assumption)
    | (with_reducible rfl)
    | (with_reducible refine fun _ => ?_)
    | lift_lets
    | (intro x; refine same_cut (w := pts) (s0 := st0) x ?_ ?_; rotate_left; intro _; clear_value x; rotate_left; unfold x)
    | (intro x; refine same_cut_ss (w := pts) (s0 := st0) x ?_ ?_; rotate_left; intro hfun; clear_value x; rotate_left; unfold x)
    | (intro x; refine same_cut_ass (w := pts) (s0 := st0) x ?_ ?_; rotate_left; intro hfun; clear_value x; rotate_left; unfold x)
    | (intro x; refine same_cut_abss (w := pts) (s0 := st0) x ?_ ?_; rotate_left; intro hfun; clear_value x; rotate_left; unfold x)
    | (intro x; refine same_cut_a (w := pts) (s0 := st0) x ?_ ?_; rotate_left; intro hfun; clear_value x; rotate_left; unfold x)
    | (intro x; refine same_cut_ab (w := pts) (s0 := st0) x ?_ ?_; rotate_left; intro hfun; clear_value x; rotate_left; unfold x)
    | (intro x; refine same_cut_abc (w := pts) (s0 := st0) x ?_ ?_; rotate_left; intro hfun; clear_value x; rotate_left; unfold x)
    | (intro x; refine same_cut_o1 (w := pts) (s0 := st0) x ?_ ?_; rotate_left; intro hopt; clear_value x; rotate_left; unfold x)
    | (intro x; refine same_cut_o (w := pts) (s0 := st0) x ?_ ?_; rotate_left; intro hopt; clear_value x; rotate_left; unfold x)
    | (intro x; refine same_cut_fst (w := pts) (s0 := st0) x ?_ ?_; rotate_left; intro _; clear_value x; rotate_left; unfold x)
    | (intro x; refine same_cut_snd (w := pts) (s0 := st0) x ?_ ?_; rotate_left; intro _; clear_value x; rotate_left; unfold x)
    | (intro x; clear_value x)
    | (with_reducible apply forAll_same)
    | (with_reducible apply winReply_same)
    | (with_reducible refine hopt _ (by assumption))
    | (with_reducible exact hopt _ rfl)
    | (with_reducible apply hfun)
    | (intro _)
    | split
    | (with_reducible apply AnswerSame.next)
    | (with_reducible apply same_getD)
    | (refine same_mk hs ?_; intro p hp; cases p <;> first | exact rfl | exact absurd (by assumption) hp)
    | (refine same_mk (by assumption) ?_; intro p hp; cases p <;> first | exact rfl | exact absurd (by assumption) hp)
    | (dsimp only)
    | (rename_i he; split at he)
    | (rename_i he; injection he with he; subst he)

theorem attachDone_same {pts : List Part} {st0 : State} (m : WinMsg) (data : List Byte) (waited : Bool) (s : State) (hs : Agrees pts st0 s) (mevents : Part.events ∈ pts) (msec : Part.sec ∈ pts) (mwin : Part.win ∈ pts) (meth : Part.eth ∈ pts) (mfreeCtr : Part.freeCtr ∈ pts) : Agrees pts st0 (attachDone m data waited s) := by
  delta attachDone
  repeat' first
    | (with_reducible assumption)
    | (with_reducible rfl)
    | (with_reducible refine fun _ => ?_)
    | lift_lets
    | (intro x; refine same_cut (w := pts) (s0 := st0) x ?_ ?_; rotate_left; intro _; clear_value x; rotate_left; unfold x)
    | (intro x; refine same_cut_ss (w := pts) (s0 := st0) x ?_ ?_; rotate_left; intro hfun; clear_value x; rotate_left; unfold x)
    | (intro x; refine same_cut_ass (w := pts) (s0 := st0) x ?_ ?_; rotate_left; intro hfun; clear_value x; rotate_left; unfold x)
    | (intro x; refine same_cut_abss (w := pts) (s0 := st0) x ?_ ?_; rotate_left; intro hfun; clear_value x; rotate_left; unfold x)
    | (intro x; refine same_cut_a (w := pts) (s0 := st0) x ?_ ?_; rotate_left; intro hfun; clear_value x; rotate_left; unfold x)
    | (intro x; refine same_cut_ab (w := pts) (s0 := st0) x ?_ ?_; rotate_left; intro hfun; clear_value x; rotate_left; unfold x)
    | (intro x; refine same_cut_abc (w := pts) (s0 := st0) x ?_ ?_; rotate_left; intro hfun; clear_value x; rotate_left; unfold x)
    | (intro x; refine same_cut_o1 (w := pts) (s0 := st0) x ?_ ?_; rotate_left; intro hopt; clear_value x; rotate_left; unfold x)
    | (intro x; refine same_cut_o (w := pts) (s0 := st0) x ?_ ?_; rotate_left; intro hopt; clear_value x; rotate_left; unfold x)
    | (intro x; refine same_cut_fst (w := pts) (s0 := st0) x ?_ ?_; rotate_left; intro _; clear_value x; rotate_left; unfold x)
    | (intro x; refine same_cut_snd (w := pts) (s0 := st0) x ?_ ?_; rotate_left; intro _; clear_value x; rotate_left; unfold x)
    | (intro x; clear_value x)
    | (with_reducible apply modSec_same)
    | (with_reducible apply modEth_same)
    | (with_reducible apply modWin_same)
    | (with_reducible apply fresh_same)
    | (with_reducible refine fresh_same_eq _ _ ?_ ?_ (by assumption))
    | (with_reducible apply logEth_same)
    | (with_reducible apply issueReport_same)
    | (with_reducible refine issueReport_same_eq _ _ _ _ ?_ ?_ ?_ (by assumption))
    | (with_reducible apply squashReport_same)
    | (with_reducible apply attachReplies_same)
    | (with_reducible refine hopt _ (by assumption))
    | (with_reducible exact hopt _ rfl)
    | (with_reducible apply hfun)
    | (intro _)
    | split
    | (with_reducible apply AnswerSame.next)
    | (with_reducible apply same_getD)
    | (refine same_mk hs ?_; intro p hp; cases p <;> first | exact rfl | exact absurd (by assumption) hp)
    | (refine same_mk (by assumption) ?_; intro p hp; cases p <;> first | exact rfl | exact absurd (by assumption) hp)
    | (dsimp only)
    | (rename_i he; split at he)
    | (rename_i he; injection he with he; subst he)

theorem attachSession_same {pts : List Part} {st0 : State} (m : WinMsg) (data : List Byte) (s : State) (hs : Agrees pts st0 s) (mevents : Part.events ∈ pts) (msec : Part.sec ∈ pts) (mwin : Part.win ∈ pts) (meth : Part.eth ∈ pts) (mroods : Part.roods ∈ pts) (mdescs : Part.descs ∈ pts) (mstks : Part.stks ∈ pts) (mstreams : Part.streams ∈ pts) (mslots : Part.slots ∈ pts) (mrequests : Part.requests ∈ pts) (mfreeCtr : Part.freeCtr ∈ pts) : Agrees pts st0 (attachSession m data s) := by
  delta attachSession
  repeat' first
    | (with_reducible assumption)
    | lift_lets
    | (intro x; refine same_cut (w := pts) (s0 := st0) x ?_ ?_; rotate_left; intro _; clear_value x; rotate_left; unfold x)
    | (with_reducible apply modEth_same)
    | (with_reducible apply badMessage_same)
    | (with_reducible apply attachFails_same)
    | (with_reducible apply attachDone_same)
    | split

theorem waitingAttach_same {pts : List Part} {st0 : State} (s : State) (hs : Agrees pts st0 s) (mevents : Part.events ∈ pts) (msec : Part.sec ∈ pts) (mwin : Part.win ∈ pts) (meth : Part.eth ∈ pts) (mfreeCtr : Part.freeCtr ∈ pts) : Agrees pts st0 (waitingAttach s) := by
  delta waitingAttach
  repeat' first
    | (with_reducible assumption)
    | (with_reducible apply attachDone_same)
    | split

theorem attachLate_same {pts : List Part} {st0 : State} (s : State) (hs : Agrees pts st0 s) (meth : Part.eth ∈ pts) : Agrees pts st0 (attachLate s) := by
  delta attachLate
  repeat' first
    | (with_reducible assumption)
    | lift_lets
    | (with_reducible apply modEth_same)
    | split

theorem detachSession_same {pts : List Part} {st0 : State} (m : WinMsg) (s : State) (hs : Agrees pts st0 s) (mevents : Part.events ∈ pts) (msec : Part.sec ∈ pts) (meth : Part.eth ∈ pts) (mroods : Part.roods ∈ pts) (mdescs : Part.descs ∈ pts) (mstks : Part.stks ∈ pts) (mstreams : Part.streams ∈ pts) (mslots : Part.slots ∈ pts) (mrequests : Part.requests ∈ pts) (mfreeCtr : Part.freeCtr ∈ pts) : Agrees pts st0 (detachSession m s) := by
  delta detachSession
  repeat' first
    | (with_reducible assumption)
    | (with_reducible refine fun _ => ?_)
    | lift_lets
    | (with_reducible apply endSession_same)
    | (with_reducible apply winReply_same)
    | (with_reducible apply onMessage_same)

theorem orphan_same {pts : List Part} {st0 : State} (s : State) (hs : Agrees pts st0 s) (mevents : Part.events ∈ pts) (msec : Part.sec ∈ pts) (meth : Part.eth ∈ pts) : Agrees pts st0 (orphan s) := by
  delta orphan
  repeat' first
    | (with_reducible assumption)
    | (with_reducible rfl)
    | (with_reducible refine fun _ => ?_)
    | lift_lets
    | (intro x; refine same_cut (w := pts) (s0 := st0) x ?_ ?_; rotate_left; intro _; clear_value x; rotate_left; unfold x)
    | (intro x; refine same_cut_ss (w := pts) (s0 := st0) x ?_ ?_; rotate_left; intro hfun; clear_value x; rotate_left; unfold x)
    | (intro x; refine same_cut_ass (w := pts) (s0 := st0) x ?_ ?_; rotate_left; intro hfun; clear_value x; rotate_left; unfold x)
    | (intro x; refine same_cut_abss (w := pts) (s0 := st0) x ?_ ?_; rotate_left; intro hfun; clear_value x; rotate_left; unfold x)
    | (intro x; refine same_cut_a (w := pts) (s0 := st0) x ?_ ?_; rotate_left; intro hfun; clear_value x; rotate_left; unfold x)
    | (intro x; refine same_cut_ab (w := pts) (s0 := st0) x ?_ ?_; rotate_left; intro hfun; clear_value x; rotate_left; unfold x)
    | (intro x; refine same_cut_abc (w := pts) (s0 := st0) x ?_ ?_; rotate_left; intro hfun; clear_value x; rotate_left; unfold x)
    | (intro x; refine same_cut_o1 (w := pts) (s0 := st0) x ?_ ?_; rotate_left; intro hopt; clear_value x; rotate_left; unfold x)
    | (intro x; refine same_cut_o (w := pts) (s0 := st0) x ?_ ?_; rotate_left; intro hopt; clear_value x; rotate_left; unfold x)
    | (intro x; refine same_cut_fst (w := pts) (s0 := st0) x ?_ ?_; rotate_left; intro _; clear_value x; rotate_left; unfold x)
    | (intro x; refine same_cut_snd (w := pts) (s0 := st0) x ?_ ?_; rotate_left; intro _; clear_value x; rotate_left; unfold x)
    | (intro x; clear_value x)
    | (with_reducible apply raiseEth_same)
    | (with_reducible apply logEth_same)
    | (with_reducible apply endSession_same)
    | (with_reducible refine hopt _ (by assumption))
    | (with_reducible exact hopt _ rfl)
    | (with_reducible apply hfun)
    | (intro _)
    | split
    | (with_reducible apply AnswerSame.next)
    | (with_reducible apply same_getD)
    | (refine same_mk hs ?_; intro p hp; cases p <;> first | exact rfl | exact absurd (by assumption) hp)
    | (refine same_mk (by assumption) ?_; intro p hp; cases p <;> first | exact rfl | exact absurd (by assumption) hp)
    | (dsimp only)
    | (rename_i he; split at he)
    | (rename_i he; injection he with he; subst he)

theorem orphanDue_same {pts : List Part} {st0 : State} (s : State) (hs : Agrees pts st0 s) (mevents : Part.events ∈ pts) (msec : Part.sec ∈ pts) (meth : Part.eth ∈ pts) (mfab : Part.fab ∈ pts) (mroods : Part.roods ∈ pts) (mqueues : Part.queues ∈ pts) (mdescs : Part.descs ∈ pts) (mclusters : Part.clusters ∈ pts) (mstks : Part.stks ∈ pts) (mstreams : Part.streams ∈ pts) (mmem : Part.mem ∈ pts) : Agrees pts st0 (orphanDue s) := by
  delta orphanDue
  repeat' first
    | (with_reducible assumption)
    | (with_reducible rfl)
    | (with_reducible refine fun _ => ?_)
    | lift_lets
    | (intro x; refine same_cut (w := pts) (s0 := st0) x ?_ ?_; rotate_left; intro _; clear_value x; rotate_left; unfold x)
    | (intro x; refine same_cut_ss (w := pts) (s0 := st0) x ?_ ?_; rotate_left; intro hfun; clear_value x; rotate_left; unfold x)
    | (intro x; refine same_cut_ass (w := pts) (s0 := st0) x ?_ ?_; rotate_left; intro hfun; clear_value x; rotate_left; unfold x)
    | (intro x; refine same_cut_abss (w := pts) (s0 := st0) x ?_ ?_; rotate_left; intro hfun; clear_value x; rotate_left; unfold x)
    | (intro x; refine same_cut_a (w := pts) (s0 := st0) x ?_ ?_; rotate_left; intro hfun; clear_value x; rotate_left; unfold x)
    | (intro x; refine same_cut_ab (w := pts) (s0 := st0) x ?_ ?_; rotate_left; intro hfun; clear_value x; rotate_left; unfold x)
    | (intro x; refine same_cut_abc (w := pts) (s0 := st0) x ?_ ?_; rotate_left; intro hfun; clear_value x; rotate_left; unfold x)
    | (intro x; refine same_cut_o1 (w := pts) (s0 := st0) x ?_ ?_; rotate_left; intro hopt; clear_value x; rotate_left; unfold x)
    | (intro x; refine same_cut_o (w := pts) (s0 := st0) x ?_ ?_; rotate_left; intro hopt; clear_value x; rotate_left; unfold x)
    | (intro x; refine same_cut_fst (w := pts) (s0 := st0) x ?_ ?_; rotate_left; intro _; clear_value x; rotate_left; unfold x)
    | (intro x; refine same_cut_snd (w := pts) (s0 := st0) x ?_ ?_; rotate_left; intro _; clear_value x; rotate_left; unfold x)
    | (intro x; clear_value x)
    | (with_reducible apply leaveDebug_same)
    | (with_reducible apply orphan_same)
    | (with_reducible refine hopt _ (by assumption))
    | (with_reducible exact hopt _ rfl)
    | (with_reducible apply hfun)
    | (intro _)
    | split
    | (with_reducible apply AnswerSame.next)
    | (with_reducible apply same_getD)
    | (refine same_mk hs ?_; intro p hp; cases p <;> first | exact rfl | exact absurd (by assumption) hp)
    | (refine same_mk (by assumption) ?_; intro p hp; cases p <;> first | exact rfl | exact absurd (by assumption) hp)
    | (dsimp only)
    | (rename_i he; split at he)
    | (rename_i he; injection he with he; subst he)

theorem loseSession_same {pts : List Part} {st0 : State} (w : BootWorld) (s : State) (hs : Agrees pts st0 s) (mtime : Part.time ∈ pts) (mglb : Part.glb ∈ pts) (mevents : Part.events ∈ pts) (mpins : Part.pins ∈ pts) (mboot : Part.boot ∈ pts) (mnor : Part.nor ∈ pts) (mfwc : Part.fwc ∈ pts) (mrepair : Part.repair ∈ pts) (mrepairSeq : Part.repairSeq ∈ pts) (msec : Part.sec ∈ pts) (mwin : Part.win ∈ pts) (meth : Part.eth ∈ pts) (mlinks : Part.links ∈ pts) (mlinkSpares : Part.linkSpares ∈ pts) (mfab : Part.fab ∈ pts) (mroods : Part.roods ∈ pts) (mslices : Part.slices ∈ pts) (mdrrNext : Part.drrNext ∈ pts) (mqueues : Part.queues ∈ pts) (mdescs : Part.descs ∈ pts) (mnextDesc : Part.nextDesc ∈ pts) (mclusters : Part.clusters ∈ pts) (mspareCluster : Part.spareCluster ∈ pts) (mstks : Part.stks ∈ pts) (mstreams : Part.streams ∈ pts) (mflash : Part.flash ∈ pts) (mslots : Part.slots ∈ pts) (mcache : Part.cache ∈ pts) (mnextCache : Part.nextCache ∈ pts) (mrequests : Part.requests ∈ pts) (mnextReq : Part.nextReq ∈ pts) (mbinds : Part.binds ∈ pts) (mmem : Part.mem ∈ pts) (mbushels : Part.bushels ∈ pts) (mfreeCtr : Part.freeCtr ∈ pts) : Agrees pts st0 (loseSession w s) := by
  delta loseSession
  repeat' first
    | (with_reducible assumption)
    | (with_reducible rfl)
    | (with_reducible refine fun _ => ?_)
    | lift_lets
    | (intro x; refine same_cut (w := pts) (s0 := st0) x ?_ ?_; rotate_left; intro _; clear_value x; rotate_left; unfold x)
    | (intro x; refine same_cut_ss (w := pts) (s0 := st0) x ?_ ?_; rotate_left; intro hfun; clear_value x; rotate_left; unfold x)
    | (intro x; refine same_cut_ass (w := pts) (s0 := st0) x ?_ ?_; rotate_left; intro hfun; clear_value x; rotate_left; unfold x)
    | (intro x; refine same_cut_abss (w := pts) (s0 := st0) x ?_ ?_; rotate_left; intro hfun; clear_value x; rotate_left; unfold x)
    | (intro x; refine same_cut_a (w := pts) (s0 := st0) x ?_ ?_; rotate_left; intro hfun; clear_value x; rotate_left; unfold x)
    | (intro x; refine same_cut_ab (w := pts) (s0 := st0) x ?_ ?_; rotate_left; intro hfun; clear_value x; rotate_left; unfold x)
    | (intro x; refine same_cut_abc (w := pts) (s0 := st0) x ?_ ?_; rotate_left; intro hfun; clear_value x; rotate_left; unfold x)
    | (intro x; refine same_cut_o1 (w := pts) (s0 := st0) x ?_ ?_; rotate_left; intro hopt; clear_value x; rotate_left; unfold x)
    | (intro x; refine same_cut_o (w := pts) (s0 := st0) x ?_ ?_; rotate_left; intro hopt; clear_value x; rotate_left; unfold x)
    | (intro x; refine same_cut_fst (w := pts) (s0 := st0) x ?_ ?_; rotate_left; intro _; clear_value x; rotate_left; unfold x)
    | (intro x; refine same_cut_snd (w := pts) (s0 := st0) x ?_ ?_; rotate_left; intro _; clear_value x; rotate_left; unfold x)
    | (intro x; clear_value x)
    | (with_reducible apply logEth_same)
    | (with_reducible apply leaveDebug_same)
    | (with_reducible apply endSession_same)
    | (with_reducible apply leaveOrderly_same)
    | (with_reducible apply orphan_same)
    | (with_reducible refine hopt _ (by assumption))
    | (with_reducible exact hopt _ rfl)
    | (with_reducible apply hfun)
    | (intro _)
    | split
    | (with_reducible apply AnswerSame.next)
    | (with_reducible apply same_getD)
    | (refine same_mk hs ?_; intro p hp; cases p <;> first | exact rfl | exact absurd (by assumption) hp)
    | (refine same_mk (by assumption) ?_; intro p hp; cases p <;> first | exact rfl | exact absurd (by assumption) hp)
    | (dsimp only)
    | (rename_i he; split at he)
    | (rename_i he; injection he with he; subst he)

theorem execWindowRead_same {pts : List Part} {st0 : State} (m : WinMsg) (s : State) (hs : Agrees pts st0 s) (mglb : Part.glb ∈ pts) (mevents : Part.events ∈ pts) (msec : Part.sec ∈ pts) (meth : Part.eth ∈ pts) (mroods : Part.roods ∈ pts) (mdescs : Part.descs ∈ pts) (mstks : Part.stks ∈ pts) (mstreams : Part.streams ∈ pts) (mslots : Part.slots ∈ pts) (mrequests : Part.requests ∈ pts) (mfreeCtr : Part.freeCtr ∈ pts) : AnswerSame pts st0 (execWindowRead m s) := by
  delta execWindowRead
  repeat' first
    | (with_reducible assumption)
    | lift_lets
    | (with_reducible apply winRead_same)
    | (with_reducible apply AnswerSame.next)

theorem execWindowWrite_same {pts : List Part} {st0 : State} (m : WinMsg) (s : State) (hs : Agrees pts st0 s) (mglb : Part.glb ∈ pts) (mevents : Part.events ∈ pts) (mboot : Part.boot ∈ pts) (mnor : Part.nor ∈ pts) (mfwc : Part.fwc ∈ pts) (mrepair : Part.repair ∈ pts) (mrepairSeq : Part.repairSeq ∈ pts) (msec : Part.sec ∈ pts) (mwin : Part.win ∈ pts) (meth : Part.eth ∈ pts) (mlinks : Part.links ∈ pts) (mfab : Part.fab ∈ pts) (mroods : Part.roods ∈ pts) (mslices : Part.slices ∈ pts) (mqueues : Part.queues ∈ pts) (mdescs : Part.descs ∈ pts) (mnextDesc : Part.nextDesc ∈ pts) (mclusters : Part.clusters ∈ pts) (mstks : Part.stks ∈ pts) (mstreams : Part.streams ∈ pts) (mflash : Part.flash ∈ pts) (mslots : Part.slots ∈ pts) (mrequests : Part.requests ∈ pts) (mbinds : Part.binds ∈ pts) (mmem : Part.mem ∈ pts) (mbushels : Part.bushels ∈ pts) (mfreeCtr : Part.freeCtr ∈ pts) : AnswerSame pts st0 (execWindowWrite m s) := by
  delta execWindowWrite
  repeat' first
    | (with_reducible assumption)
    | lift_lets
    | (with_reducible apply winWrite_same)
    | (with_reducible apply AnswerSame.next)

theorem execWriteMasked_same {pts : List Part} {st0 : State} (m : WinMsg) (s : State) (hs : Agrees pts st0 s) (mglb : Part.glb ∈ pts) (mevents : Part.events ∈ pts) (mboot : Part.boot ∈ pts) (mnor : Part.nor ∈ pts) (mfwc : Part.fwc ∈ pts) (mrepair : Part.repair ∈ pts) (mrepairSeq : Part.repairSeq ∈ pts) (msec : Part.sec ∈ pts) (mwin : Part.win ∈ pts) (meth : Part.eth ∈ pts) (mlinks : Part.links ∈ pts) (mfab : Part.fab ∈ pts) (mroods : Part.roods ∈ pts) (mslices : Part.slices ∈ pts) (mqueues : Part.queues ∈ pts) (mdescs : Part.descs ∈ pts) (mnextDesc : Part.nextDesc ∈ pts) (mclusters : Part.clusters ∈ pts) (mstks : Part.stks ∈ pts) (mstreams : Part.streams ∈ pts) (mflash : Part.flash ∈ pts) (mslots : Part.slots ∈ pts) (mrequests : Part.requests ∈ pts) (mbinds : Part.binds ∈ pts) (mmem : Part.mem ∈ pts) (mbushels : Part.bushels ∈ pts) (mfreeCtr : Part.freeCtr ∈ pts) : AnswerSame pts st0 (execWriteMasked m s) := by
  delta execWriteMasked
  repeat' first
    | (with_reducible assumption)
    | lift_lets
    | (with_reducible apply winWrite_same)
    | (with_reducible apply AnswerSame.next)

theorem execKeepalive_same {pts : List Part} {st0 : State} (m : WinMsg) (s : State) (hs : Agrees pts st0 s) (mevents : Part.events ∈ pts) (meth : Part.eth ∈ pts) (mroods : Part.roods ∈ pts) (mdescs : Part.descs ∈ pts) (mstks : Part.stks ∈ pts) (mstreams : Part.streams ∈ pts) (mslots : Part.slots ∈ pts) (mrequests : Part.requests ∈ pts) (mfreeCtr : Part.freeCtr ∈ pts) : AnswerSame pts st0 (execKeepalive m s) := by
  delta execKeepalive
  repeat' first
    | (with_reducible assumption)
    | (with_reducible refine fun _ => ?_)
    | lift_lets
    | (with_reducible apply winReply_same)
    | (with_reducible apply onMessage_same)
    | (with_reducible apply AnswerSame.next)

theorem execAttach_same {pts : List Part} {st0 : State} (m : WinMsg) (data : List Byte) (s : State) (hs : Agrees pts st0 s) (mevents : Part.events ∈ pts) (msec : Part.sec ∈ pts) (mwin : Part.win ∈ pts) (meth : Part.eth ∈ pts) (mroods : Part.roods ∈ pts) (mdescs : Part.descs ∈ pts) (mstks : Part.stks ∈ pts) (mstreams : Part.streams ∈ pts) (mslots : Part.slots ∈ pts) (mrequests : Part.requests ∈ pts) (mfreeCtr : Part.freeCtr ∈ pts) : AnswerSame pts st0 (execAttach m data s) := by
  delta execAttach
  repeat' first
    | (with_reducible assumption)
    | lift_lets
    | (with_reducible apply attachSession_same)
    | (with_reducible apply AnswerSame.next)

theorem execAttachTimeout_same {pts : List Part} {st0 : State} (s : State) (hs : Agrees pts st0 s) (meth : Part.eth ∈ pts) : AnswerSame pts st0 (execAttachTimeout s) := by
  delta execAttachTimeout
  repeat' first
    | (with_reducible assumption)
    | lift_lets
    | (with_reducible apply attachLate_same)
    | (with_reducible apply AnswerSame.next)

theorem execDetach_same {pts : List Part} {st0 : State} (m : WinMsg) (s : State) (hs : Agrees pts st0 s) (mevents : Part.events ∈ pts) (msec : Part.sec ∈ pts) (meth : Part.eth ∈ pts) (mroods : Part.roods ∈ pts) (mdescs : Part.descs ∈ pts) (mstks : Part.stks ∈ pts) (mstreams : Part.streams ∈ pts) (mslots : Part.slots ∈ pts) (mrequests : Part.requests ∈ pts) (mfreeCtr : Part.freeCtr ∈ pts) : AnswerSame pts st0 (execDetach m s) := by
  delta execDetach
  repeat' first
    | (with_reducible assumption)
    | lift_lets
    | (with_reducible apply detachSession_same)
    | (with_reducible apply AnswerSame.next)

theorem execSessionLoss_same {pts : List Part} {st0 : State} (w : BootWorld) (s : State) (hs : Agrees pts st0 s) (mtime : Part.time ∈ pts) (mglb : Part.glb ∈ pts) (mevents : Part.events ∈ pts) (mpins : Part.pins ∈ pts) (mboot : Part.boot ∈ pts) (mnor : Part.nor ∈ pts) (mfwc : Part.fwc ∈ pts) (mrepair : Part.repair ∈ pts) (mrepairSeq : Part.repairSeq ∈ pts) (msec : Part.sec ∈ pts) (mwin : Part.win ∈ pts) (meth : Part.eth ∈ pts) (mlinks : Part.links ∈ pts) (mlinkSpares : Part.linkSpares ∈ pts) (mfab : Part.fab ∈ pts) (mroods : Part.roods ∈ pts) (mslices : Part.slices ∈ pts) (mdrrNext : Part.drrNext ∈ pts) (mqueues : Part.queues ∈ pts) (mdescs : Part.descs ∈ pts) (mnextDesc : Part.nextDesc ∈ pts) (mclusters : Part.clusters ∈ pts) (mspareCluster : Part.spareCluster ∈ pts) (mstks : Part.stks ∈ pts) (mstreams : Part.streams ∈ pts) (mflash : Part.flash ∈ pts) (mslots : Part.slots ∈ pts) (mcache : Part.cache ∈ pts) (mnextCache : Part.nextCache ∈ pts) (mrequests : Part.requests ∈ pts) (mnextReq : Part.nextReq ∈ pts) (mbinds : Part.binds ∈ pts) (mmem : Part.mem ∈ pts) (mbushels : Part.bushels ∈ pts) (mfreeCtr : Part.freeCtr ∈ pts) : AnswerSame pts st0 (execSessionLoss w s) := by
  delta execSessionLoss
  repeat' first
    | (with_reducible assumption)
    | lift_lets
    | (with_reducible apply loseSession_same)
    | (with_reducible apply AnswerSame.next)

theorem execWinApbase_same {pts : List Part} {st0 : State} (window path : Nat) (v : Word) (s : State) (hs : Agrees pts st0 s) (mwin : Part.win ∈ pts) : AnswerSame pts st0 (execWinApbase window path v s) := by
  delta execWinApbase
  repeat' first
    | (with_reducible assumption)
    | lift_lets
    | (with_reducible apply putApbase_same)
    | split
    | (with_reducible apply AnswerSame.next)

theorem execWinEvtTail_same {pts : List Part} {st0 : State} (v : Word) (s : State) (hs : Agrees pts st0 s) (mevents : Part.events ∈ pts) (msec : Part.sec ∈ pts) (mwin : Part.win ∈ pts) (meth : Part.eth ∈ pts) (mroods : Part.roods ∈ pts) (mdescs : Part.descs ∈ pts) (mstks : Part.stks ∈ pts) (mstreams : Part.streams ∈ pts) (mflash : Part.flash ∈ pts) (mslots : Part.slots ∈ pts) (mrequests : Part.requests ∈ pts) : AnswerSame pts st0 (execWinEvtTail v s) := by
  delta execWinEvtTail
  repeat' first
    | (with_reducible assumption)
    | lift_lets
    | (with_reducible apply writeModulePage_same)
    | split
    | (with_reducible apply AnswerSame.next)

theorem execWinMapSel_same {pts : List Part} {st0 : State} (v : Word) (s : State) (hs : Agrees pts st0 s) (mevents : Part.events ∈ pts) (msec : Part.sec ∈ pts) (mwin : Part.win ∈ pts) (meth : Part.eth ∈ pts) (mroods : Part.roods ∈ pts) (mdescs : Part.descs ∈ pts) (mstks : Part.stks ∈ pts) (mstreams : Part.streams ∈ pts) (mflash : Part.flash ∈ pts) (mslots : Part.slots ∈ pts) (mrequests : Part.requests ∈ pts) : AnswerSame pts st0 (execWinMapSel v s) := by
  delta execWinMapSel
  repeat' first
    | (with_reducible assumption)
    | lift_lets
    | (with_reducible apply writeModulePage_same)
    | split
    | (with_reducible apply AnswerSame.next)

theorem execWinRplSel_same {pts : List Part} {st0 : State} (r mbox : Nat) (v : Word) (s : State) (hs : Agrees pts st0 s) (mroods : Part.roods ∈ pts) : AnswerSame pts st0 (execWinRplSel r mbox v s) := by
  delta execWinRplSel
  repeat' first
    | (with_reducible assumption)
    | lift_lets
    | (with_reducible apply selectReply_same)
    | split
    | (with_reducible apply AnswerSame.next)

theorem execWinDigSel_same {pts : List Part} {st0 : State} (r : Nat) (v : Word) (s : State) (hs : Agrees pts st0 s) (mglb : Part.glb ∈ pts) (mevents : Part.events ∈ pts) (msec : Part.sec ∈ pts) (mwin : Part.win ∈ pts) (meth : Part.eth ∈ pts) (mroods : Part.roods ∈ pts) (mdescs : Part.descs ∈ pts) (mstks : Part.stks ∈ pts) (mstreams : Part.streams ∈ pts) (mflash : Part.flash ∈ pts) (mslots : Part.slots ∈ pts) (mrequests : Part.requests ∈ pts) (mfreeCtr : Part.freeCtr ∈ pts) : AnswerSame pts st0 (execWinDigSel r v s) := by
  delta execWinDigSel
  repeat' first
    | (with_reducible assumption)
    | lift_lets
    | (with_reducible apply writeRoodPage_same)
    | split
    | (with_reducible apply AnswerSame.next)

theorem execQpRead_same {pts : List Part} {st0 : State} (r : Nat) (s : State) (hs : Agrees pts st0 s) (mroods : Part.roods ∈ pts) : AnswerSame pts st0 (execQpRead r s) := by
  delta execQpRead
  repeat' first
    | (with_reducible assumption)
    | lift_lets
    | (with_reducible apply readQp_same)
    | (with_reducible apply AnswerSame.next)

theorem execQpCreate_same {pts : List Part} {st0 : State} (r : Nat) (s : State) (hs : Agrees pts st0 s) (meth : Part.eth ∈ pts) (mroods : Part.roods ∈ pts) : AnswerSame pts st0 (execQpCreate r s) := by
  delta execQpCreate
  repeat' first
    | (with_reducible assumption)
    | lift_lets
    | (with_reducible apply createQp_same)
    | (with_reducible apply AnswerSame.next)

theorem execQpModify_same {pts : List Part} {st0 : State} (r : Nat) (s : State) (hs : Agrees pts st0 s) (mevents : Part.events ∈ pts) (meth : Part.eth ∈ pts) (mroods : Part.roods ∈ pts) (mdescs : Part.descs ∈ pts) (mstks : Part.stks ∈ pts) (mstreams : Part.streams ∈ pts) (mslots : Part.slots ∈ pts) (mrequests : Part.requests ∈ pts) : AnswerSame pts st0 (execQpModify r s) := by
  delta execQpModify
  repeat' first
    | (with_reducible assumption)
    | lift_lets
    | (with_reducible apply modifyQp_same)
    | (with_reducible apply AnswerSame.next)

theorem execQpDelete_same {pts : List Part} {st0 : State} (r : Nat) (s : State) (hs : Agrees pts st0 s) (meth : Part.eth ∈ pts) (mroods : Part.roods ∈ pts) : AnswerSame pts st0 (execQpDelete r s) := by
  delta execQpDelete
  repeat' first
    | (with_reducible assumption)
    | lift_lets
    | (with_reducible apply deleteQp_same)
    | (with_reducible apply AnswerSame.next)

theorem execXrRead_same {pts : List Part} {st0 : State} (r h : Nat) (s : State) (hs : Agrees pts st0 s) (mroods : Part.roods ∈ pts) : AnswerSame pts st0 (execXrRead r h s) := by
  delta execXrRead
  repeat' first
    | (with_reducible assumption)
    | lift_lets
    | (with_reducible apply readXr_same)
    | (with_reducible apply AnswerSame.next)

theorem execXrCreate_same {pts : List Part} {st0 : State} (r : Nat) (s : State) (hs : Agrees pts st0 s) (mglb : Part.glb ∈ pts) (mevents : Part.events ∈ pts) (meth : Part.eth ∈ pts) (mroods : Part.roods ∈ pts) (mfreeCtr : Part.freeCtr ∈ pts) : AnswerSame pts st0 (execXrCreate r s) := by
  delta execXrCreate
  repeat' first
    | (with_reducible assumption)
    | lift_lets
    | (with_reducible apply createXr_same)
    | (with_reducible apply AnswerSame.next)

theorem execXrDelete_same {pts : List Part} {st0 : State} (r h : Nat) (s : State) (hs : Agrees pts st0 s) (meth : Part.eth ∈ pts) (mroods : Part.roods ∈ pts) : AnswerSame pts st0 (execXrDelete r h s) := by
  delta execXrDelete
  repeat' first
    | (with_reducible assumption)
    | lift_lets
    | (with_reducible apply deleteXr_same)
    | (with_reducible apply AnswerSame.next)

end Sys2Proof.Laws
end

