-- ==== Sys2Proof/Tests/Slice0.lean ====
section
/-! SUPPORT. The smoke test of WellFormed, tests of single commands against the spec, and a witness for the hypotheses of every
statement. -/
set_option Elab.async false
namespace Sys2Proof.Tests

open Sys2Proof.Machine Sys2Proof.Safety

/-! ### Helpers: operands and small states -/

def view0 : SlotView := { formOk := true, sigOk := true, svn := 0, digest := 0 }
def world0 : BootWorld :=
  { refclk := true, fails := [], cutAt := none, badClusters := [], badEngines := [], badSpareCluster := none, badSpareEngines := []
    badSpareDie := false, linksUp := [], ifsUp := [], slotA := view0, slotB := view0, lockStamp := 0, lockRel := 0, follow := none
    lockOffsets := List.replicate 16 0, ptpLog := 0 }
def power0 : PowerReading := { mV := 54000, cA := 1000, unshared := [25], loaded := [25], phases := [(25, 0, 0)] }
def load0 : LoadWorld := { manifests := [], shards := [] }
def norm0 : NormHead := { adapter := 0xFFFFFFFFFFFFFFFF, step := 0xFFFFFFFFFFFFFFFF, stage := 63 }
def snap0 : SnapView := { layer := 1, readable := true, step := 0, version := 0, k1 := 0, k2 := 0, digest := 0, master := [], m := [], v := [] }
def pkt0 : Packet :=
  { typ := 15, resv := false, hop := 3, detour := false, via := 63, signal := false, dst := 4095, dstRood := 15, src := 4095, srcRood := 15
    addr := 0xFFFFFFFFFFFF, signalCtr := 255, xslot := 7, stamp := 0, index := 0, total := 1, xgen := 0, ext := 0, data := [] }
def pktBad : Packet := { pkt0 with typ := 16 }
def step0 : StepMsg := { bind := 255, packet := pkt0 }
def inj0 : Injection := { xfer := 0, bushel := false }
def ptp0 : PtpMsg :=
  { offset := 0, iface := 0, domain := 0, transport := .ipv4, peerDelay := false, arb := false, log := 0, best := true }
def sync0 : RodSync :=
  { link := 95, hop := 0, src := 0, masterStamp := 0, correction := 0, k := 12, index := 0, term := 0, relinquish := false, list := [], sysid := 0
    stamp := 0, resv := false }
def res0 : TrainResult := { failStep := none, sysid := 0, peerPos := 0, peerLink := 0, delay := 0, ticks := 0 }
def esp0 : EspPacket :=
  { iface := 3, srcIp := 0, esp := true, fragment := false, spi := 0, seq := 0, icvOk := true, transportRC := true, icrcOk := true
    qpn := 0x10000, op := .write, part := .only, psn := 0, payload := 64, bytes := 256, ce := false }
def msg0 : WinMsg :=
  { op := 0, window := 255, session := 0, path := 1, port := 4, srcIp := 0, qp := 0, dport := 4790, spi := some 0, icvOk := true, seq := 1
    tag := 0, offset := 0, count := 1, mask := 0, data := [], formed := true }
def msgOp (op : Nat) : WinMsg := { msg0 with op := op }
def msgBad : WinMsg := { msg0 with window := 256 }

/-- A module that has started and runs. -/
def up : State :=
  { State.reset with
    boot := { down := false, ready := true }
    pins := { pwrGood := true, input := true, powered := true }
    time := { lock := .locked } }

/-- A module that runs, with one rood ACTIVE. -/
def roodUp : State := { up with roods := ([{ st := .active }] : List Rood) ++ List.replicate 15 {} }

/-- A session attached, of the owner, with every right. -/
def sessionUp (s : State) : State :=
  { s with eth := { s.eth with session := { s.eth.session with st := .attached, owner := true, rights := 15 } } }

def bytes128 : List Byte := List.replicate 128 0
def bytes256 : List Byte := List.replicate 256 0
def bytes4097 : List Byte := List.replicate 4097 0
def bytes4609 : List Byte := List.replicate 4609 0

def cfg0 : BindCfg :=
  { pid := 1, wfmt := 0, wrnd := 0, wscsel := 0, gfmt := 0, grnd := 0, opt := 0, stage := 0, replica := 0, d := 1, mbCount := 1, adapter := 7
    slot := 0, bwdStart := 1, close := 2, stepLen := 8, gather := 1, startRod := 0, region := 0, params := 4, ringOff := 0, ringCluster := 0
    stepCtr := 0, tensorId := 0, seed := 0, replicas := [0], ckptOffset := 0 }
def hyper0 : Hyper := { lr := 0, beta1 := 0, beta2 := 0, eps := 0, wd := 0, maxNorm := 0 }
def bind0 : Bind := { rood := 0, cfg := cfg0, hyper := hyper0, step := 0 }
def stk0 : Stack := {}
def clu15 : Cluster := { phys := 15 }
def clu0 : Cluster := { phys := 0 }

def withPstate (p : Nat) (s : State) : State := { s with fwc := { s.fwc with pstate := p, idleSince := some 0 } }
def atTime (t : Nat) (s : State) : State := { s with time := { s.time with now := t } }
def offList (s : State) : State := { s with time := { s.time with succession := [] } }

/-! ### Evaluation by the kernel, one step at a time -/

/-- c, brought to a numeral before it is used. -/
def strict {α : Type} (c : Nat) (f : Nat → α) : α := match c with | 0 => f 0 | n + 1 => f (n + 1)

theorem strict_eq {α : Type} (c : Nat) (f : Nat → α) : strict c f = f c := by cases c <;> rfl

/-- A fold that brings its accumulator to a numeral at every step. -/
def foldStrict {α : Type} (f : Nat → α → Nat) : Nat → List α → Nat
  | c, [] => c
  | c, b :: l => strict (f c b) fun d => foldStrict f d l

theorem foldl_strict {α : Type} (f : Nat → α → Nat) (c : Nat) (l : List α) : l.foldl f c = foldStrict f c l := by
  induction l generalizing c with
  | nil => rfl
  | cons b l ih => rw [List.foldl_cons, foldStrict, strict_eq, ih]

/-! ### Helpers: descriptors and the units they run on -/

def slice0 : Slice :=
  { rood := 0, pid := 1, share := 1, batchRows := 128, verdictBytes := 8, isolate := false, intakeAddr := 0, intakeLog2 := 0, intakeCtr := 0 }
def queue0 : Queue :=
  { rood := 0, pid := 1, ring := 0x1000000000, logDepth := 6, cring := 0x1000004000, producer := 1, inflightMax := 64, st := .active }
def run0 : RunBody := { entry := 0, cores := 15, arg0 := 1, arg1 := 2 }
def comb0 : CombBody :=
  { entry := 15, s := 2, sumSlot := 0, sumEn := false, slotBase := 0, slotStride := 4096, tileBytes := 128, dest := 0x4000, dlRod := 1, dlEra := 0 }
def gill0 (op : Nat) : GillBody :=
  { op := op, dir := 0, sumSlot := 0, sumEn := false, keep := false, rnd := 0, scsel := 0, dst := 0, srcA := 0, srcB := 0, srcC := 0, len := 2
    rows := 1, cols := 2, rowStride := 0, scaleSrc := 0, scaleDst := 0, seed := 0, step := 0, tensorId := 0, index0 := 0, tensorCols := 0 }
def tun0 : TunBody :=
  { aAddr := 0, aFmt := 0, aTurn := false, bAddr := 0x1000, bFmt := 0, bTurn := false, aScale := 0, bScale := 0, aStride := 128, bStride := 128
    initAddr := 0x2000, initLoad := false, bank := 1, endAct := 1, outAddr := 0x3000, outFmt := 0, outRnd := 0, outScsel := 0, outStride := 128
    m := 1, n := 1, k := 1, gather := 0, width := 32, rowmap := 0x5000, seed := 0, step := 0, tensorId := 0, tensorCols := 0, row0 := 0
    col0 := 0 }
def firkin0 : FirkinBody :=
  { wAddr := 0x1000000000, wFmt := 2, bwd := false, initLoad := false, engine := 3, b := 1, j := 1, kp := 32, wStride := 64
    xAddr := 0x100000000, xFmt := 2, xScale := 0x100000000, xStride := 64, initAddr := 0x100000000, shard := 0, shards := 1
    outStride := 64, outAddr := 0x100001000 }
def k10 : K1Body :=
  { gather := true, p := 2, myshard := 0, wFmt := 2, xFmt := 2, wAddr := 0x1000000000, j := 1, kp := 32, b := 1, combEntry := 15
    wStride := 64, xAddr := 0, xScale := 0, xStride := 64, outAddr := 0x1000, outStride := 64, peers := [0, 1] }
def stream0 : StreamBody :=
  { op := 0, srcTier := 1, dstTier := 0, relCounter := false, checkVersion := false, fmt := 2, flashWin := 0, relCtr := 0, ringLog2 := 13
    bushels := 2, srcAddr := 0x1000000000, dstAddr := 0x100010000, scale := 0, ahead := 2, rate := 0, version := 0, tensorId := 0
    rows := 0, cols := 0, first := 0, storeQp := 0, rkey := 0, remoteAddr := 0 }
def xfer0 : XferBody :=
  { op := 0, ordered := false, signal := false, noDetour := false, dstRood := 0, dst := 1, signalCtr := 0, localAddr := 0x100000000
    remoteAddr := 0x100000000, bytes := 64, cluster := 0, entry := 0, shard := 0, target := 0, s := 0, bind := 0, dlRod := 0, dlEra := 0 }

/-- A descriptor of a queue, and one of core 3 of cluster 15. -/
def descOf (b : Body) : Desc := { src := .queue 4095, seq := 63, rood := 0, pid := 1, slice := 0, hdr := { target := 15 }, body := b }
def coreDesc (b : Body) : Desc := { descOf b with src := .core 15 3, slice := 1023 }
/-- The descriptor stands in the module under number 9. -/
def withDesc (e : Desc) (s : State) : State := { s with descs := [(9, e)] }

/-- A rood ACTIVE that owns every cluster and engine, with a BASE region in stack 0 that is locked for it. -/
def units : State :=
  { roodUp with
    clusters := roodUp.clusters.map fun k => { k with rood := some 0 }
    stks := roodUp.stks.map fun k => { k with
      regions := [(0, { start := 0x1000000000, len := 1, kind := 3, fmt := 2, rood := 0, backing := 1 })]
      locks := { st := .locked, base := 0x1000000000, size := 1, readers := 1 } :: List.replicate 7 {}
      engines := k.engines.map fun g => { g with rood := some 0 } } }

/-! ### Helpers: a bushel of zeros in image form, of an MX format -/

def imageHead : List Byte := [3] ++ List.replicate 55 0 ++ leBytes 8 12271785244342609765 ++ List.replicate 192 0
def image0 : List Byte := imageHead ++ List.replicate 4096 0
def meta0 : Meta := { fmt := 3, poison := false, checksum := 12271785244342609765, sidecar := List.replicate 128 0 }

theorem image_meta : metaOfImage image0 = meta0 := by decide +kernel

theorem head_length : imageHead.length = 256 := by decide +kernel

theorem image_bytes : image0.length = 4352 := by rw [image0, List.length_append, head_length, List.length_replicate]

theorem image_data : dataOfImage image0 = List.replicate 4096 0 := by
  unfold dataOfImage
  rw [image_bytes]
  show ((imageHead ++ List.replicate 4096 0).drop 256).take 4096 = _
  rw [List.drop_left' head_length, List.take_of_length_le (Nat.le_of_eq List.length_replicate)]

theorem header_eq : headerBytes meta0 false = 3 :: List.replicate 55 0 := by decide +kernel

set_option maxRecDepth 1000000 in
theorem image_sum : crc64 ((3 :: List.replicate 55 0) ++ List.replicate 4096 0 ++ List.replicate 128 0) = 12271785244342609765 := by
  unfold crc64
  simp only [foldl_strict]
  decide +kernel

theorem image_crc_ok : bushelCrc (metaOfImage image0) (dataOfImage image0) = (metaOfImage image0).checksum := by
  rw [image_meta, image_data, bushelCrc, header_eq]
  have : meta0.sidecar.take (sidecarBytes meta0.fmt) = List.replicate 128 0 := by decide +kernel
  rw [this]
  exact image_sum

/-! ### Helpers: a command in a mailbox, and a base load whose every check passes -/

/-- A command record: the given bytes, then zeros up to 128. -/
def cmdOf (bs : List Byte) : Cmd := { seq := 5, stamp := 0, bytes := bs ++ List.replicate (128 - bs.length) 0 }
/-- The command waits in a mailbox of rood 0. -/
def modelHas (c : Cmd) (s : State) : State := { s with roods := s.roods.modify 0 fun k => { k with mdl := { k.mdl with outstanding := [c] } } }
def trainHas (c : Cmd) (s : State) : State := { s with roods := s.roods.modify 0 fun k => { k with trn := { k.trn with outstanding := [c] } } }

theorem shaBlocks_long (n : Nat) (bs h : List Nat) (hh : h.length = 8) : (Crypto.shaBlocks n bs h).length = 8 := by
  induction n generalizing bs h with
  | zero => exact hh
  | succ n ih => exact ih _ _ rfl

theorem flatMap_long {α : Type} (f : α → List Nat) (hf : ∀ x, (f x).length = 8) (l : List α) : (l.flatMap f).length = 8 * l.length := by
  induction l with
  | nil => rfl
  | cons x l ih => simp [List.flatMap_cons, hf, ih]; omega

theorem sha_length (bs : List Byte) : (sha bs).length = 48 := by
  have h := shaBlocks_long
  have g := flatMap_long (Crypto.beBytes 8) (fun v => by simp [Crypto.beBytes])
  simp only [sha, Crypto.toBytes, Crypto.sha384, List.length_map]
  rw [g, List.length_take, h _ _ _ rfl]
  rfl

/-- The first 88 bytes of a manifest of base 5: one stage, one entry of 2 MiB at the first address of stack 0. -/
def manifestHead : List Byte :=
  leBytes 8 5 ++ leBytes 2 1 ++ leBytes 2 1 ++ leBytes 4 0 ++ List.replicate 48 0 ++
    leBytes 2 0 ++ leBytes 2 3 ++ leBytes 4 1 ++ leBytes 6 0x1000000000 ++ leBytes 10 0
def manifestBytes (d : List Byte) : List Byte := manifestHead ++ (d ++ leBytes 8 0)
def entry0 (d : List Byte) : ShardEntry := { position := 0, stack := 0, fmt := 3, len := 1, dest := 0x1000000000, offset := 0, digest := d }
def manifest0 (d : List Byte) : Manifest := { baseId := 5, stages := [0], experts := 0, entries := [entry0 d] }

theorem field_append (a b : List Byte) (o n : Nat) (h : o + n ≤ a.length) : field (a ++ b) o n = field a o n := by
  unfold field
  rw [List.drop_append_of_le_length (by omega), List.take_append_of_le_length (by simp; omega)]

theorem manifest_eq (d : List Byte) (hd : d.length = 48) : manifestOf (manifestBytes d) = manifest0 d := by
  have hl : manifestHead.length = 88 := by decide +kernel
  have f (o n : Nat) (h : o + n ≤ 88) : field (manifestBytes d) o n = field manifestHead o n := field_append _ _ _ _ (by omega)
  have e : ((manifestBytes d).drop (64 + 80 * 0)).take 80 = manifestHead.drop 64 ++ (d ++ leBytes 8 0) := by
    unfold manifestBytes
    rw [List.drop_append_of_le_length (by omega), List.take_of_length_le (by simp [hl, hd])]
  have g (o n : Nat) (h : o + n ≤ 24) : field (manifestHead.drop 64 ++ (d ++ leBytes 8 0)) o n = field (manifestHead.drop 64) o n :=
    field_append _ _ _ _ (by simp [hl]; omega)
  have r1 : List.range (min (field manifestHead 8 2) 16) = [0] := by decide +kernel
  have r2 : List.range (min (field manifestHead 10 2) 1024) = [0] := by decide +kernel
  have q : ((manifestHead.drop 64 ++ (d ++ leBytes 8 0)).drop 24).take 48 = d := by
    rw [List.drop_left' (by simp [hl]), List.take_left' hd]
  unfold manifestOf
  rw [f 0 8 (by omega), f 8 2 (by omega), f 16 24 (by omega), f 12 1 (by omega), f 10 2 (by omega), r1, r2]
  simp only [List.map_cons, List.map_nil, e]
  rw [g 0 2 (by omega), g 2 1 (by omega), g 4 4 (by omega), g 8 6 (by omega), g 16 8 (by omega), q]
  have v : field manifestHead 0 8 = 5 ∧ bits (field manifestHead 16 24) (12 * 0) 12 = 0 ∧ field manifestHead 12 1 = 0 ∧
      field (manifestHead.drop 64) 0 2 % 2 ^ 12 = 0 ∧ bits (field (manifestHead.drop 64) 0 2) 12 3 = 0 ∧
      field (manifestHead.drop 64) 2 1 % 16 = 3 ∧ field (manifestHead.drop 64) 4 4 = 1 ∧ field (manifestHead.drop 64) 8 6 = 0x1000000000 ∧
      field (manifestHead.drop 64) 16 8 = 0 := by
    decide +kernel
  obtain ⟨v1, v2, v3, v4, v5, v6, v7, v8, v9⟩ := v
  rw [v1, v2, v3, v4, v5, v6, v7, v8, v9]
  rfl

theorem manifest_formed (d : List Byte) (hd : d.length = 48) : manifestFormed (manifestBytes d) = true := by
  have hl : manifestHead.length = 88 := by decide +kernel
  have f (o n : Nat) (h : o + n ≤ 88) : field (manifestBytes d) o n = field manifestHead o n := field_append _ _ _ _ (by omega)
  have len : (manifestBytes d).length = 144 := by simp [manifestBytes, hl, hd, leBytes]
  have v : field manifestHead 8 2 = 1 ∧ field manifestHead 10 2 = 1 ∧ field manifestHead 12 1 = 0 ∧ field manifestHead 13 3 = 0 ∧
      field manifestHead 40 24 = 0 ∧ bits (field manifestHead 16 24) 12 192 = 0 := by decide +kernel
  obtain ⟨v1, v2, v3, v4, v5, v6⟩ := v
  have e : ((manifestBytes d).drop (64 + 80 * 0)).take 80 = manifestHead.drop 64 ++ (d ++ leBytes 8 0) := by
    unfold manifestBytes
    rw [List.drop_append_of_le_length (by omega), List.take_of_length_le (by simp [hl, hd])]
  have g (o n : Nat) (h : o + n ≤ 24) : field (manifestHead.drop 64 ++ (d ++ leBytes 8 0)) o n = field (manifestHead.drop 64) o n :=
    field_append _ _ _ _ (by simp [hl]; omega)
  have z : field (manifestHead.drop 64 ++ (d ++ leBytes 8 0)) 72 8 = 0 := by
    unfold field
    rw [← List.append_assoc, List.drop_left' (by simp [hl, hd])]
    decide +kernel
  have q : isMx (field (manifestHead.drop 64) 2 1) = true ∧ bit (field (manifestHead.drop 64) 0 2) 15 = false ∧
      field (manifestHead.drop 64) 3 1 = 0 ∧ field (manifestHead.drop 64) 14 2 = 0 := by decide +kernel
  obtain ⟨q1, q2, q3, q4⟩ := q
  simp only [manifestFormed, f 8 2 (by omega), f 10 2 (by omega), f 12 1 (by omega), f 13 3 (by omega), f 40 24 (by omega),
    f 16 24 (by omega), v1, v2, v3, v4, v5, len, Nat.mul_one, v6]
  have w : List.range 1 = [0] := rfl
  simp only [w, List.all_cons, List.all_nil, e, g 2 1 (by omega), g 0 2 (by omega), g 3 1 (by omega), g 14 2 (by omega), z, q1, q2, q3, q4]
  decide

/-- A BASE_LOAD or BASE_SWAP of epoch 9 of base 5 from the store of queue pair 0, READERS rood 0, with the manifest's digest. -/
def loadHead (code : Nat) : List Byte :=
  leBytes 1 code ++ leBytes 1 1 ++ leBytes 2 1 ++ leBytes 8 0 ++ leBytes 4 9 ++ leBytes 8 5 ++ leBytes 56 0
def loadBytes (code : Nat) (d : List Byte) : List Byte := loadHead code ++ d
def loadCmd (code : Nat) (d : List Byte) : Cmd := { seq := 5, stamp := 0, bytes := loadBytes code d }

def shardImages : List (List Byte) := List.replicate 512 image0
def shardSum : List Byte := sha shardImages.flatten
def loadWorld : LoadWorld := { manifests := [(1, manifestBytes shardSum)], shards := [⟨1, 0, shardImages⟩] }
def loadHash : List Byte := sha (manifestBytes shardSum)

/-- A store queue pair of rood 0 in RTS. -/
def storeQp0 : Qp :=
  { rood := 0, pid := 1, role := 1, iface := 0, ipv6 := false, ip := 7, rqpn := 0x10000, saIn := 4094, saOut := 4095, ackTimeout := 14
    retryCnt := 7, rnrRetry := 6, maxRd := 16, sqPsn := 0, rqPsn := 0, input := 5, st := .rts, rate := 1000 }

/-- Rood 0 has a BASE region of 4 MiB in stack 0, no range held, and a store queue pair. -/
def roomy : State :=
  { units with
    eth := { units.eth with qps := [(0, storeQp0)] }
    stks := units.stks.map fun k => { k with
      regions := [(0, { start := 0x1000000000, len := 2, kind := 3, fmt := 3, rood := 0, backing := 1 })], locks := List.replicate 8 {} } }

/-- The same with other roods. -/
def roomyOf (k : List Rood) : State := { roomy with roods := k }

theorem load_digest (code : Nat) (d : List Byte) (hd : d.length = 48) : (modelCmd (loadBytes code d)).digest = d := by
  show ((loadHead code ++ d).drop 80).take 48 = d
  rw [List.drop_left' (by simp [loadHead]), List.take_of_length_le (by omega)]

theorem load_fields (code : Nat) (d : List Byte) (hc : code = 1 ∨ code = 3 ∨ code = 5) :
    (modelCmd (loadBytes code d)).source = 1 ∧ (modelCmd (loadBytes code d)).storeQp = 0 ∧ (modelCmd (loadBytes code d)).baseId = 5 ∧ (modelCmd (loadBytes code d)).epoch = 9 := by
  have f (o n : Nat) (h : o + n ≤ 80) : field (loadBytes code d) o n = field (loadHead code) o n :=
    field_append _ _ _ _ (by simp [loadHead]; omega)
  unfold modelCmd
  simp only [f 1 1 (by omega), f 16 8 (by omega), f 12 4 (by omega), f 48 2 (by omega)]
  rcases hc with rfl | rfl | rfl <;> decide +kernel

theorem readShard_of (s : State) (r : Nat) (c : ModelCmd) (w : LoadWorld) (i : Nat) (e : ShardEntry) (x : ShardImage)
    (hq : storeUsable s r c.storeQp = true) (hf : (w.shards.find? fun x => x.source == 1 && x.entry == i) = some x)
    (hl : x.images.length = entryBushels e)
    (ha : x.images.all (fun im => (metaOfImage im).fmt == e.fmt && bushelCrc (metaOfImage im) (dataOfImage im) == (metaOfImage im).checksum) = true)
    (hs : sha x.images.flatten = e.digest) : readShard s r c w 1 i e = .good x.images := by
  have hi : imagesFrom s r c w 1 i e = some x.images := by
    unfold imagesFrom
    rw [if_neg (by decide), if_pos hq, hf]
    rfl
  simp only [readShard, hi, hl, ha, hs]
  simp

theorem readManifest_of (s : State) (r : Nat) (c : ModelCmd) (w : LoadWorld) (b : List Byte) (hsrc : c.source = 1)
    (hq : storeUsable s r c.storeQp = true) (hm : w.manifests = [(1, b)]) (hd : sha b = c.digest) (hf : manifestFormed b = true)
    (hb : (manifestOf b).baseId = c.baseId) : readManifest s r c w = .inr (manifestOf b) := by
  have hi : manifestFrom s r c w 1 = some b := by
    unfold manifestFrom
    rw [if_neg (by decide), if_pos hq, hm]
    rfl
  simp [readManifest, hsrc, sourcesOf, hi, manifestGood, hd, hf, hb]

theorem images_good : shardImages.all (fun im => (metaOfImage im).fmt == 3 && bushelCrc (metaOfImage im) (dataOfImage im) == (metaOfImage im).checksum) = true := by
  have h : ((metaOfImage image0).fmt == 3 && bushelCrc (metaOfImage image0) (dataOfImage image0) == (metaOfImage image0).checksum) = true := by
    rw [image_crc_ok, image_meta]
    simp [meta0]
  unfold shardImages
  rw [List.all_eq_true]
  intro im him
  rw [List.eq_of_mem_replicate him]
  exact h

theorem own_entries (k : List Rood) (d : List Byte) : ownEntries (roomyOf k) (manifest0 d) = [(0, entry0 d)] := rfl

theorem entry_fits (k : List Rood) (d : List Byte) : entryFits (roomyOf k) 0 (entry0 d) = true := by
  have h : entryFits (roomyOf k) 0 (entry0 []) = true := by
    have g : entryFits roomy 0 (entry0 []) = true := by decide +kernel
    exact g
  unfold entryFits at h ⊢
  simp only [entry0] at h ⊢
  exact h

theorem roomy_stks (k : List Rood) : (roomyOf k).stks = roomy.stks := rfl

theorem room_enough (k : List Rood) (d : List Byte) : capacityFault (roomyOf k) 0 [(0, entry0 d)] = none := by
  have h : (entry0 d).stack = 0 := rfl
  simp only [roomy_stks, capacityFault, capacityFault.go, entry_fits, List.any_nil, List.filter_nil, h]
  decide +kernel

theorem entry_digest (d : List Byte) : (entry0 d).digest = d := rfl
theorem shardSum_eq : shardSum = sha shardImages.flatten := rfl
theorem loadHash_eq : loadHash = sha (manifestBytes shardSum) := rfl
theorem world_manifests : loadWorld.manifests = [(1, manifestBytes shardSum)] := rfl
theorem world_shards : loadWorld.shards.find? (fun x => x.source == 1 && x.entry == 0) = some ⟨1, 0, shardImages⟩ := rfl
theorem manifest_base (d : List Byte) : (manifest0 d).baseId = 5 := rfl
theorem entry_bushels (d : List Byte) : shardImages.length = entryBushels (entry0 d) := by
  simp only [entryBushels, entry0, shardImages, List.length_replicate, Nat.one_mul]
theorem entry_format (d : List Byte) : (entry0 d).fmt = 3 := rfl

theorem shard_read (s : State) (r : Nat) (c : ModelCmd) (hq : storeUsable s r c.storeQp = true) :
    readShard s r c loadWorld 1 0 (entry0 shardSum) = .good shardImages :=
  readShard_of s r c loadWorld 0 (entry0 shardSum) ⟨1, 0, shardImages⟩ hq world_shards (entry_bushels _)
    (by rw [entry_format]; exact images_good) (shardSum_eq.symm.trans (entry_digest _).symm)

theorem readAny_of (s : State) (r : Nat) (c : ModelCmd) (w : LoadWorld) (i : Nat) (e : ShardEntry) (l : List (List Byte))
    (h : c.source = 1) (g : readShard s r c w 1 i e = .good l) : readShardAny s r c w i e = .good l := by
  simp [readShardAny, h, sourcesOf, g]

theorem roomy_store (k : List Rood) (c : ModelCmd) (h : c.storeQp = 0) : storeUsable (roomyOf k) 0 c.storeQp = true := by
  rw [h]
  rfl

theorem load_manifest (s : State) (k : List Rood) (code : Nat) (hc : code = 1 ∨ code = 3 ∨ code = 5) (he : s.eth = (roomyOf k).eth) :
    readManifest s 0 (modelCmd (loadBytes code loadHash)) loadWorld = .inr (manifest0 shardSum) := by
  have hm := manifest_eq shardSum (sha_length _)
  obtain ⟨h1, hq, h2, -⟩ := load_fields code loadHash hc
  have hd := load_digest code loadHash (sha_length _)
  have hs : storeUsable s 0 (modelCmd (loadBytes code loadHash)).storeQp = true := by
    have g := roomy_store k _ hq
    unfold storeUsable at g ⊢
    rw [he]
    exact g
  rw [← hm]
  exact readManifest_of _ _ _ _ _ h1 hs world_manifests (loadHash_eq.symm.trans hd.symm) (manifest_formed _ (sha_length _))
    (by rw [hm, h2, manifest_base])

theorem load_passes (k : List Rood) (code : Nat) (hc : code = 1 ∨ code = 3 ∨ code = 5) :
    LoadPasses 0 (modelCmd (loadBytes code loadHash)) loadWorld (manifest0 shardSum) (roomyOf k) := by
  obtain ⟨h1, hq, -⟩ := load_fields code loadHash hc
  have hs := roomy_store k _ hq
  refine ⟨?_, ?_, ?_, ?_⟩
  · exact load_manifest _ k code hc rfl
  · rw [own_entries]
    exact List.cons_ne_nil _ _
  · rw [own_entries]
    exact room_enough k shardSum
  · intro e he
    rw [own_entries, List.mem_singleton] at he
    subst he
    exact ⟨shardImages, readAny_of _ _ _ _ _ _ _ h1 (shard_read _ _ _ hs)⟩

theorem zeros_read (a n : Nat) : cellGets 0 a n [] = List.replicate n 0 := by
  simp [cellGets, cellGet, List.map_const']

/-- The recovery write of a bushel of zeros where memory holds zeros. -/
theorem recovers_of (s : State) (a : Nat) (hm : s.mem = []) (hb : metaAt s a = meta0) :
    recovered s a meta0 (List.replicate 4096 0) = some meta0 := by
  have h : rdBytes s a 4096 = List.replicate 4096 0 := by
    unfold rdBytes
    rw [hm]
    exact zeros_read _ _
  unfold recovered
  split
  · rfl
  · simp [h, hb]

theorem not_recovered (s : State) (a : Nat) (d : List Byte) (m : Meta) (hl : (lockMeets s a 4096).isNone = false)
    (hd : d.length ≠ 4096) : recovered s a m d = none := by
  have h : rdBytes s a 4096 ≠ d := fun e => hd (by rw [← e]; simp [rdBytes, cellGets])
  simp [recovered, hl, h]

/-! ### Well-formedness: an ill-formed term for each check -/

/-- For each command with a check, one within every bound. -/
theorem test_wf_0 : ([.thermalShutdown (.cluster 15) world0, .writePage 32767, .registerWrite 0xFFFFFF8 0, .powerLoopPeriod
  power0, .thermalLoopPeriod (.cluster 15) 0 0, .junctionHot (.cluster 15) 0, .dramHot 7 0, .heartbeatCheck [5], .coreSpareIn 5,
  .fatal 255, .tiIssue 15 3 31 0, .tiWait 15 3 31 0, .tiPoll 15 3 31 0, .tiFence 15 3, .tiScw 15 3 0 0, .tiScr 15 3 31 0, .tiSumrd
  15 3 31 0, .tiSumst 15 3 31 0, .tiSumwait 15 3 0 0, .tiRod 15 3 31, .tiRodwait 15 3 31 0, .tiSyncrd 15 3 31 0, .tiSyncadd 15 3 0
  0, .tiSyncset 15 3 0 0, .tiExit 15 3 0, .coreWaitWake 15 3, .coreTrap 15 3 .plain 0 0, .tunPassStart 15, .initLoadDone 15 1,
  .tunLastProduct 15 1, .tunSpillDone 15 1, .load 15, .store 15, .copy 15, .add 15, .sub 15, .mul 15, .fma 15, .abs 15, .neg 15,
  .min 15, .max 15, .cmplt 15, .cmple 15, .cmpeq 15] : List Instr).all (fun i => i.wf == true) = true := by decide +kernel

theorem test_wf_1 : ([.sel 15, .exp2 15, .log2 15, .rcp 15, .rsqrt 15, .tanh 15, .sum 15, .sumsq 15, .maxr 15, .minr 15, .argmax
  15, .countnf 15, .accrd 15, .release 15, .spill 15, .shardResident 15, .combination 15 15, .combTimeout 15 15, .clusterFailed 15
  255, .clusterSpareIn 15, .repeatFailure (.cluster 15) 0, .spareSelftest (some 7) true 0, .lockSet 7 7, .lockReleased 7 7,
  .firkinPassRun 7 3, .firkinPassComplete 7 3, .passRerun 7 3 0, .weightRefetch 7 3 0xffffffffffff, .engineFailed 7 3 255,
  .spareIn 7 3, .portGrant 10, .bushelPlaced 1023 0, .slotRelease 1023 0, .streamComplete 1023, .streamHalt 1023 0 .flashUnstaged,
  .streamResume 1023, .streamUnresolved 1023, .bucketApply 15 4, .stackUncorrectable 0xffffffffffff .badChecksum true,
  .recoveryWrite 0xffffffffffff [], .pchMarked 7 63, .dieFailed 31 [], .eraseDone 15, .baseLoad 15 load0, .baseFlip 15] : List
  Instr).all (fun i => i.wf == true) = true := by decide +kernel

theorem test_wf_2 : ([.flipTakesEffect 15, .baseSwap 15, .swapLoad 15 load0, .admissionResumed 15, .baseRelease 15, .baseGone 15
  0, .baseRepair 15 load0, .adapterPut 15, .adapterDrop 15, .prefetch pkt0, .adapterEntryResident 16383 0xffffffff [],
  .versionFaulted 16383 0xffffffff, .versionFlip 16383, .versionRetire 16383, .trainBind 15, .trainSet 15, .trainUnbind 15,
  .trainBound 255 snap0, .stepStart 255, .bwdStart 255, .producerWrite 255 0xffffffff, .gacc 255 true, .closeDeadline 255, .gather
  255 0xffffffffffffffff, .gatherTimeout 255, .normPartial 255, .normPartialReceive step0 norm0 0 0 true, .normTimeout 255,
  .update step0 0, .updateSkipped step0 255, .updateDone step0 63, .flipRod step0 0xffffffffffff, .flipTimeout 255, .snapshot 255
  1 true, .protect 15, .restore 15 [], .declareLost 15, .remap 15, .rodSyncReceive sync0, .ptpSync ptp0, .planApply 15
  0xffffffffffff, .planApplied 15, .linkTraining 95 res0, .linkRetrain 95 4 res0, .linkRetry 95 res0] : List Instr).all (fun i =>
  i.wf == true) = true := by decide +kernel

theorem test_wf_3 : ([.linkFailed 95 true, .linkSubstitute 95 res0, .flitReceive 95 bytes256, .replayReq 95 0, .write pkt0, .read
  pkt0, .readResp pkt0, .partial_ pkt0, .transferComplete 4095 7, .done pkt0, .resend pkt0, .epochReady pkt0, .epochFlip pkt0,
  .versionFault pkt0, .ethLinkUp 3, .ethLinkDown 3, .espReceive esp0, .quarantineEnd 3 0, .rdmaWrite 65535 0 0 [], .rdmaRead 65535
  0 0 0, .score 65535 0xffffffff, .doorbell 65535 0xffffffff 0 0 [], .register 65535 [], .deregister 65535 [], .verdict 0 [],
  .ackReceive 65535 0xffffff, .remoteNak 65535, .ackTimeout 65535, .cnpReceive 65535, .cnpRateRecover 65535, .storeReadResponse 0
  3 [], .windowRead (msgOp 0x01), .windowWrite (msgOp 0x02), .writeMasked (msgOp 0x03), .keepalive (msgOp 0x10), .attach (msgOp
  0x20) [], .detach (msgOp 0x21), .winApbase 16 1 0, .winRplSel 15 1 0, .winDigSel 15 0, .qpRead 15, .qpCreate 15, .qpModify 15,
  .qpDelete 15, .xrRead 15 0] : List Instr).all (fun i => i.wf == true) = true := by decide +kernel

theorem test_wf_4 : ([.xrCreate 15, .xrDelete 15 0, .create 15, .roodCreated 15, .reset 15, .remove 15, .roodResetDone 15,
  .roodResizeApply 15 0xffffffffffff, .resizeApplied 15, .unitJoinsRood (.cluster 15), .tableRead 15 15 65535, .tableWrite 15 15
  65535, .tableDelete 15 15 65535, .sliceScrub 15 0, .saIn bytes128, .saOut bytes128, .debugKey bytes128, .destroySa bytes128,
  .destroyNs bytes128, .tombstoneExpire 4095, .select 3 255, .leave 3, .flagCleared (.cluster 15) 0 0, .rnrNak 65535,
  .leaveP3ForStepStart 255, .jtagInstruction 31] : List Instr).all (fun i => i.wf == true) = true := by decide +kernel

/-- For each check of each command, a command that only this check refuses. -/
theorem test_ill_formed_0 : ([.thermalShutdown (.stack 8) world0, .writePage 32768, .registerWrite 0x10000000 0, .registerWrite 4
  0, .powerLoopPeriod { power0 with unshared := [26] }, .powerLoopPeriod { power0 with loaded := [26] }, .powerLoopPeriod { power0
  with phases := [(26, 0, 0)] }, .thermalLoopPeriod (.stack 8) 0 0, .junctionHot (.stack 8) 0, .dramHot 8 0, .heartbeatCheck [6],
  .coreSpareIn 6, .fatal 256, .tiIssue 16 3 31 0, .tiIssue 15 4 31 0, .tiIssue 15 3 32 0, .tiWait 16 3 31 0, .tiWait 15 4 31 0,
  .tiWait 15 3 32 0, .tiPoll 16 3 31 0, .tiPoll 15 4 31 0, .tiPoll 15 3 32 0, .tiFence 16 3, .tiFence 15 4, .tiScw 16 3 0 0,
  .tiScw 15 4 0 0, .tiScr 16 3 31 0, .tiScr 15 4 31 0, .tiScr 15 3 32 0, .tiSumrd 16 3 31 0, .tiSumrd 15 4 31 0, .tiSumrd 15 3 32
  0, .tiSumst 16 3 31 0, .tiSumst 15 4 31 0, .tiSumst 15 3 32 0, .tiSumwait 16 3 0 0, .tiSumwait 15 4 0 0, .tiRod 16 3 31, .tiRod
  15 4 31, .tiRod 15 3 32, .tiRodwait 16 3 31 0, .tiRodwait 15 4 31 0, .tiRodwait 15 3 32 0, .tiSyncrd 16 3 31 0, .tiSyncrd 15 4
  31 0] : List Instr).all (fun i => i.wf == false) = true := by decide +kernel

theorem test_ill_formed_1 : ([.tiSyncrd 15 3 32 0, .tiSyncadd 16 3 0 0, .tiSyncadd 15 4 0 0, .tiSyncset 16 3 0 0, .tiSyncset 15 4
  0 0, .tiExit 16 3 0, .tiExit 15 4 0, .coreWaitWake 16 3, .coreWaitWake 15 4, .coreTrap 16 3 .plain 0 0, .coreTrap 15 4 .plain 0
  0, .tunPassStart 16, .initLoadDone 16 1, .initLoadDone 15 2, .tunLastProduct 16 1, .tunLastProduct 15 2, .tunSpillDone 16 1,
  .tunSpillDone 15 2, .load 16, .store 16, .copy 16, .add 16, .sub 16, .mul 16, .fma 16, .abs 16, .neg 16, .min 16, .max 16,
  .cmplt 16, .cmple 16, .cmpeq 16, .sel 16, .exp2 16, .log2 16, .rcp 16, .rsqrt 16, .tanh 16, .sum 16, .sumsq 16, .maxr 16, .minr
  16, .argmax 16, .countnf 16, .accrd 16] : List Instr).all (fun i => i.wf == false) = true := by decide +kernel

theorem test_ill_formed_2 : ([.release 16, .spill 16, .shardResident 16, .combination 16 15, .combination 15 16, .combTimeout 16
  15, .combTimeout 15 16, .clusterFailed 16 255, .clusterFailed 15 256, .clusterSpareIn 16, .repeatFailure (.engine 7 4) 0,
  .spareSelftest (some 8) true 0, .lockSet 8 7, .lockSet 7 8, .lockReleased 8 7, .lockReleased 7 8, .firkinPassRun 8 3,
  .firkinPassRun 7 4, .firkinPassComplete 8 3, .firkinPassComplete 7 4, .passRerun 8 3 0, .passRerun 7 4 0, .weightRefetch 8 3
  0xffffffffffff, .weightRefetch 7 4 0xffffffffffff, .weightRefetch 7 3 0x1000000000000, .engineFailed 8 3 255, .engineFailed 7 4
  255, .engineFailed 7 3 256, .spareIn 8 3, .spareIn 7 4, .portGrant 11, .bushelPlaced 1024 0, .slotRelease 1024 0,
  .streamComplete 1024, .streamHalt 1024 0 .flashUnstaged, .streamResume 1024, .streamUnresolved 1024, .bucketApply 16 4,
  .bucketApply 15 5, .stackUncorrectable 0x1000000000000 .badChecksum true, .stackUncorrectable 0xffffffffffff (.codeword [] [])
  true, .recoveryWrite 0x1000000000000 [], .pchMarked 8 63, .pchMarked 7 64, .dieFailed 32 []] : List Instr).all (fun i => i.wf ==
  false) = true := by decide +kernel

theorem test_ill_formed_3 : ([.eraseDone 16, .baseLoad 16 load0, .baseFlip 16, .flipTakesEffect 16, .baseSwap 16, .swapLoad 16
  load0, .admissionResumed 16, .baseRelease 16, .baseGone 16 0, .baseRepair 16 load0, .adapterPut 16, .adapterDrop 16, .prefetch
  pktBad, .adapterEntryResident 16384 0xffffffff [], .adapterEntryResident 16383 0x100000000 [], .versionFaulted 16384 0xffffffff,
  .versionFaulted 16383 0x100000000, .versionFlip 16384, .versionRetire 16384, .trainBind 16, .trainSet 16, .trainUnbind 16,
  .trainBound 256 snap0, .stepStart 256, .bwdStart 256, .producerWrite 256 0xffffffff, .producerWrite 255 0x100000000, .gacc 256
  true, .closeDeadline 256, .gather 256 0xffffffffffffffff, .gather 255 0x10000000000000000, .gatherTimeout 256, .normPartial 256,
  .normPartialReceive { step0 with bind := 256 } norm0 0 0 true, .normPartialReceive { step0 with packet := pktBad } norm0 0 0
  true, .normPartialReceive step0 { norm0 with adapter := 0x10000000000000000 } 0 0 true, .normPartialReceive step0 { norm0 with
  step := 0x10000000000000000 } 0 0 true, .normPartialReceive step0 { norm0 with stage := 64 } 0 0 true, .normTimeout 256, .update
  { step0 with bind := 256 } 0, .update { step0 with packet := pktBad } 0, .updateSkipped { step0 with bind := 256 } 255,
  .updateSkipped { step0 with packet := pktBad } 255, .updateSkipped step0 256, .updateDone { step0 with bind := 256 } 63] : List
  Instr).all (fun i => i.wf == false) = true := by decide +kernel

theorem test_ill_formed_4 : ([.updateDone { step0 with packet := pktBad } 63, .updateDone step0 64, .flipRod { step0 with bind :=
  256 } 0xffffffffffff, .flipRod { step0 with packet := pktBad } 0xffffffffffff, .flipRod step0 0x1000000000000, .flipTimeout 256,
  .snapshot 256 1 true, .snapshot 255 2 true, .protect 16, .restore 16 [], .declareLost 16, .remap 16, .rodSyncReceive { sync0
  with link := 96 }, .rodSyncReceive { sync0 with k := 0 }, .rodSyncReceive { sync0 with k := 13 }, .ptpSync { ptp0 with iface :=
  4 }, .planApply 16 0xffffffffffff, .planApply 15 0x1000000000000, .planApplied 16, .linkTraining 96 res0, .linkTraining 95 {
  res0 with ticks := 200000001 }, .linkRetrain 96 4 res0, .linkRetrain 95 1 res0, .linkRetrain 95 5 res0, .linkRetrain 95 4 { res0
  with ticks := 200000001 }, .linkRetry 96 res0, .linkRetry 95 { res0 with ticks := 200000001 }, .linkFailed 96 true,
  .linkSubstitute 96 res0, .linkSubstitute 95 { res0 with ticks := 200000001 }, .flitReceive 96 bytes256, .flitReceive 95 [],
  .replayReq 96 0, .write pktBad, .read pktBad, .readResp pktBad, .partial_ pktBad, .transferComplete 4096 7, .transferComplete
  4095 8, .done pktBad, .resend pktBad, .epochReady pktBad, .epochFlip pktBad, .versionFault pktBad, .ethLinkUp 4] : List
  Instr).all (fun i => i.wf == false) = true := by decide +kernel

theorem test_ill_formed_5 : ([.ethLinkDown 4, .espReceive { esp0 with iface := 4 }, .quarantineEnd 4 0, .rdmaWrite 65536 0 0 [],
  .rdmaWrite 65535 0 0 bytes4097, .rdmaRead 65536 0 0 0, .score 65536 0xffffffff, .score 65535 0x100000000, .doorbell 65536
  0xffffffff 0 0 [], .doorbell 65535 0x100000000 0 0 [], .register 65536 [], .deregister 65536 [], .ackReceive 65536 0xffffff,
  .ackReceive 65535 0x1000000, .remoteNak 65536, .ackTimeout 65536, .cnpReceive 65536, .cnpRateRecover 65536, .storeReadResponse 0
  4 [], .windowRead { msgBad with op := 0x01 }, .windowRead msg0, .windowWrite { msgBad with op := 0x02 }, .windowWrite msg0,
  .writeMasked { msgBad with op := 0x03 }, .writeMasked msg0, .keepalive { msgBad with op := 0x10 }, .keepalive msg0, .attach {
  msgBad with op := 0x20 } [], .attach msg0 [], .detach { msgBad with op := 0x21 }, .detach msg0, .winApbase 17 1 0, .winApbase 16
  2 0, .winRplSel 16 1 0, .winRplSel 15 2 0, .winDigSel 16 0, .qpRead 16, .qpCreate 16, .qpModify 16, .qpDelete 16, .xrRead 16 0,
  .xrCreate 16, .xrDelete 16 0, .create 16, .roodCreated 16] : List Instr).all (fun i => i.wf == false) = true :=
  by decide +kernel

theorem test_ill_formed_6 : ([.reset 16, .remove 16, .roodResetDone 16, .roodResizeApply 16 0xffffffffffff, .roodResizeApply 15
  0x1000000000000, .resizeApplied 16, .unitJoinsRood (.engine 7 4), .tableRead 16 15 65535, .tableRead 15 16 65535, .tableRead 15
  15 65536, .tableWrite 16 15 65535, .tableWrite 15 16 65535, .tableWrite 15 15 65536, .tableDelete 16 15 65535, .tableDelete 15
  16 65535, .tableDelete 15 15 65536, .sliceScrub 16 0, .saIn [], .saOut [], .debugKey [], .destroySa [], .destroyNs [],
  .tombstoneExpire 4096, .select 4 255, .select 3 256, .leave 4, .flagCleared (.stack 8) 0 0, .rnrNak 65536, .leaveP3ForStepStart
  256, .jtagInstruction 32] : List Instr).all (fun i => i.wf == false) = true := by decide +kernel

/-! ### Witnesses: the block, starts, pins, images -/

/-- A header of the NOR with no section, slot A active, slot B staged; every other byte is b. -/
def header0 (crc b : Nat) : List Byte :=
  leBytes 4 0x5842584A ++ leBytes 2 1 ++ leBytes 2 0 ++ leBytes 4 0 ++ leBytes 4 crc ++ [0, 1, 5] ++ List.replicate 4077 (BitVec.ofNat 8 b)

/-- A module that runs with such a header in the image buffer and in the NOR. -/
def staged : State :=
  { up with
    nor := cellSetAll 0xFF#8 0 ((header0 1964624855 0xFF).take 19) []
    boot := { up.boot with buf := (List.range 3).map fun i => (i, w64 (field ((header0 1143724105 0).take 24) (8 * i) 8)) } }

set_option maxRecDepth 1000000 in
theorem header_crc : crc32c ((header0 1964624855 0xFF).drop 16) = 1964624855 := by
  unfold crc32c
  simp only [foldl_strict]
  decide +kernel

set_option maxRecDepth 1000000 in
theorem image_crc : crc32c ((header0 1143724105 0).drop 16) = 1143724105 := by
  unfold crc32c
  simp only [foldl_strict]
  decide +kernel

set_option maxRecDepth 1000000 in
theorem header_good : headerGood (header0 1964624855 0xFF) = true := by
  unfold headerGood
  rw [header_crc]
  decide +kernel

set_option maxRecDepth 1000000 in
theorem image_good : headerGood (header0 1143724105 0) = true := by
  unfold headerGood
  rw [image_crc]
  decide +kernel

set_option maxRecDepth 1000000 in
theorem staged_bytes : imgBytes staged = header0 1143724105 0 := by decide +kernel

/-- A memory with no cell from a + k on reads there as an unlisted address does. -/
theorem cellGets_short (d : Byte) (a k n : Nat) (m : List Host.Cell) (h : ∀ c ∈ m, c.1 < a + k) :
    cellGets d a (k + n) m = cellGets d a k m ++ List.replicate n d := by
  have none_at : ∀ x, a + k ≤ x → cellGet d x m = d := by
    intro x hx
    induction m with
    | nil => rfl
    | cons c t ih =>
      have hc := h c (by simp)
      simp only [cellGet]
      rw [if_neg (by omega)]
      exact ih fun c hc => h c (by simp [hc])
  rw [cellGets, List.range_add, List.map_append, List.map_map, cellGets]
  congr 1
  rw [List.eq_replicate_iff]
  refine ⟨by simp, fun b hb => ?_⟩
  obtain ⟨i, -, rfl⟩ := List.mem_map.1 hb
  exact none_at _ (by simp)

theorem staged_header : norRd staged 0 4096 = header0 1964624855 0xFF :=
  (cellGets_short 0xFF 0 19 4077 staged.nor (by decide +kernel)).trans
    (congrArg (· ++ List.replicate 4077 (BitVec.ofNat 8 0xFF)) (by decide +kernel))

theorem not_good (bs : List Byte) (h : field bs 0 4 ≠ 0x5842584A) : headerGood bs = false := by simp [headerGood, h]

theorem staged_copy : headerGood (norRd staged 4096 4096) = false := by
  rw [show norRd staged 4096 4096 = List.replicate 4096 0xFF from cellGets_short 0xFF 4096 0 4096 staged.nor (by decide +kernel)]
  exact not_good _ (by decide +kernel)

theorem slot_of (s : State) (x : List Byte) (ha : norRd s 0 4096 = x) (hb : headerGood (norRd s 4096 4096) = false)
    (hg : headerGood x = true) (hf : field x 17 1 = 1) : stagedSlot s = some 1 := by
  unfold stagedSlot headerInForce
  generalize norRd s 4096 4096 = b at *
  generalize norRd s 0 4096 = a at *
  subst ha
  simp [hb, hg, hf]

theorem header_slot : field (header0 1964624855 0xFF) 17 1 = 1 := by decide +kernel

theorem staged_slot : stagedSlot staged = some 1 := by
  have := @slot_of staged (header0 1964624855 0xFF)
  exact this staged_header staged_copy header_good header_slot

theorem staged_verifies : (headerFaults view0 view0 (imgBytes staged) staged).foldl statusMax Sts.ok = Sts.ok := by
  rw [staged_bytes]
  unfold headerFaults
  rw [image_good]
  decide +kernel

theorem witness_idleStepTicks : State.reset.pending = [] := rfl

/-- The premise of StepKeepsSound, at a state that a step leaves with a next one. -/
theorem witness_stepKeepsSound : Sound up ∧ ∃ t, step up = .next t := ⟨by unfold Sound ClockOk MemOk ShapeOk RingOk; decide +kernel, _, rfl⟩

theorem witness_commandFrame : ∃ t, exec .clearFaults up = .next t := ⟨_, rfl⟩

theorem witness_startsRun :
    (State.reset.boot.down = true ∧ State.reset.pins.resetHeld = false) ∧
    (let s := { State.reset with pins := { standby := true, input := true, resetHeld := true } };
      s.boot.down = true ∧ s.pins.resetHeld = true ∧ s.pins.standby = true ∧ s.pins.input = true) ∧
    (let s := { up with boot := { up.boot with retryAt := some 0 } };
      s.boot.down = false ∧ s.boot.retryAt = some 0 ∧ 0 ≤ s.time.now) ∧
    (up.boot.down = false ∧ up.boot.ctlBusy ∈ [none, some 1] ∧ up.boot.ctlBusy ∈ [none, some 2] ∧ up.boot.leaving = none ∧ inHandoff up = false ∧ owesSync up = false) ∧
    (let s := { up with boot := { up.boot with ctlBusy := some 1 } };
      s.boot.down = false ∧ s.boot.ctlBusy ∈ [none, some 1] ∧ s.boot.leaving = none ∧ inHandoff s = false ∧ owesSync s = false) ∧
    (let s := { up with boot := { up.boot with ctlBusy := some 2 } };
      s.boot.down = false ∧ s.boot.ctlBusy ∈ [none, some 2] ∧ s.boot.leaving = none ∧ inHandoff s = false ∧ owesSync s = false) ∧
    (let s := { up with boot := { up.boot with safeMode := true, ctlBusy := some 4 } };
      s.boot.down = false ∧ s.boot.safeMode = true ∧ s.boot.ctlBusy ∈ [none, some 4]) := by decide +kernel

theorem witness_bootCtlHandled :
    (let s := { up with boot := { up.boot with ctlBusy := some 2 } };
      s.boot.down = false ∧ s.boot.ctlBusy = some 2 ∧ 2 ≠ 1 ∧ 2 ≠ 4) ∧
    (let s := { up with boot := { up.boot with ctlBusy := some 1 } };
      s.boot.down = false ∧ s.boot.ctlBusy = some 1 ∧ 1 ≠ 2) ∧
    (let s := { up with fwc := { update := { st := .booting } } };
      s.boot.down = false ∧ s.boot.ctlBusy = none ∧ s.boot.leaving = none ∧ inHandoff s = true ∧ s.boot.safeMode = false) ∧
    (let s := { up with time := { up.time with master := true } };
      s.boot.down = false ∧ s.boot.ctlBusy = none ∧ s.boot.leaving = none ∧ inHandoff s = false ∧ owesSync s = true) := by decide +kernel

theorem witness_goesDown : up.boot.down = false ∧ (∃ a, exec .pinReset up = .next a) ∧ ∃ b, exec .undervoltage up = .next b :=
  ⟨by decide +kernel, ⟨_, rfl⟩, ⟨_, rfl⟩⟩

theorem witness_pinsAndFatal :
    (up.boot.down = false ∧ (10 ≤ 10 ∧ 10 < 100) ∧ (10 ≤ 99 ∧ 99 < 100)) ∧ (9 < 10 ∨ 100 ≤ 9) ∧ (100 < 10 ∨ 100 ≤ 100) ∧ 100 ≤ 100 ∧ 99 < 100 ∧
    firmwareUp up = true ∧ (up.pins.standby = true ∧ up.glb.fatal = false) ∧
    ({ up with glb := { up.glb with fatal := true } }).glb.fatal = true ∧ (up.boot.ready = true ∧ up.glb.fatal = false) := by decide +kernel

/-- The first and the last page outside the slots and inside slot A, protected pages at both ends, a header that verifies, one that does
not, and both cases of the ledger. -/
theorem witness_imageCommands :
    (up.boot.down = false ∧ Memory.wf 0xFF up.nor = true ∧ norProtected (4096 * 2) = false ∧ slotAt (4096 * 2) ≠ some up.boot.slot ∧
      norProtected (4096 * 0xFFF) = false ∧ slotAt (4096 * 0xFFF) ≠ some up.boot.slot ∧ up.fwc.update.st = .idle) ∧
    (norProtected (4096 * 1) = true ∧ norProtected (4096 * 0x7000) = true) ∧
    (norProtected (4096 * 0x1000) = false ∧ slotAt (4096 * 0x1000) = some up.boot.slot ∧
      norProtected (4096 * 0x2FFF) = false ∧ slotAt (4096 * 0x2FFF) = some up.boot.slot) ∧
    (staged.boot.down = false ∧ Memory.wf 0xFF staged.nor = true) ∧
    (headerFaults view0 view0 (imgBytes up) up).foldl statusMax Sts.ok ≠ Sts.ok ∧
    tfind (bits (0x1FFF#64).toNat 0 13) up.boot.ledger = none ∧
    (let s := { up with boot := { up.boot with ledger := [(0x1FFF, ⟨0, 1, 1, 0xFF, 0, 1, 0⟩)] } };
      s.boot.down = false ∧ tfind (bits (0x1FFF#64).toNat 0 13) s.boot.ledger = some ⟨0, 1, 1, 0xFF, 0, 1, 0⟩) := by decide +kernel

theorem witness_unlistedOffset :
    ((match blockOf 0x70 with | none => true | some (b, off) => !isListed up b off) = true) ∧
    (match blockOf 0xFFFFFF8 with | none => true | some (b, off) => !isListed up b off) = true := by decide +kernel

theorem witness_registerWriteByAccess :
    (∃ b off, blockOf 0 = some (b, off) ∧ isListed up b off = true ∧ accessOf b off = .ro) ∧
    up.glb.locked = false ∧
    (let s := { up with glb := { up.glb with locked := true } };
      s.glb.locked = true ∧ ∀ x ∈ [0x1800048, 0x1800050, 0x600008, 0x100018, 0x408038],
        (match blockOf x with | none => false | some (b, off) => isListed s b off) = true) :=
  ⟨⟨_, _, rfl, by decide +kernel, by decide +kernel⟩, by decide +kernel, by decide +kernel⟩

/-! ### Witnesses: power, thermal, power states, updates -/


theorem witness_powerAndThermalLoops :
    (up.pins.powered = true ∧ fwCoreRuns up 0 = true ∧ fwCoreRuns up 1 = true ∧ 1600 < 1601 ∧ 1600 ≤ 1600) ∧
    ((500 ≤ bits (500#64).toNat 0 16 ∧ bits (1350#64).toNat 0 16 ≤ 1350) ∧ bits (499#64).toNat 0 16 < 500 ∧
      1350 < bits (1351#64).toNat 0 16 ∧ bits (0x20000#64).toNat 16 2 < 3) ∧
    (up.clusters[15]? = some clu15 ∧ 8 * up.fwc.throttle ≤ 840) ∧
    (up.stks[7]? = some stk0 ∧ 720 ≤ 720 ∧ 696 ≤ 696 ∧ (696 < 697 ∧ 697 < 720) ∧ (696 < 719 ∧ 719 < 720)) ∧
    (clu15.hot = false ∧ 880 ≤ 880 ∧ stk0.hot = false ∧ 879 < 880) ∧
    (stk0.dramHot = false ∧ 760 ≤ 760 ∧ 759 < 760) ∧
    (let s := { up with clusters := up.clusters.modify 15 fun k => { k with hot := true } };
      s.pins.powered = true ∧ 840 ≤ 840 ∧ (∀ q ∈ s.clusters.take 15, q.hot = false) ∧ s.clusters.length = 16 ∧ ∀ q ∈ s.stks, q.hot = false) ∧
    (let s := { up with stks := up.stks.modify 7 fun k => { k with dramHot := true } };
      s.pins.powered = true ∧ 736 ≤ 736 ∧ (∀ q ∈ s.stks.take 7, q.dramHot = false) ∧ s.stks.length = 8) := by decide +kernel

theorem witness_powerStates :
    (let s := offList up;
      reqHeld s = false ∧ s.boot.safeMode = false ∧ s.fwc.pstate ≠ 4 ∧ onList s = false ∧ isIdle s = true) ∧
    (reqHeld up = false ∧ up.fwc.pstate ≠ 4 ∧ onList up = true) ∧
    (let s := offList { up with boot := { up.boot with safeMode := true } };
      reqHeld s = false ∧ s.fwc.pstate ≠ 4 ∧ (onList s = true ∨ s.boot.safeMode = true)) ∧
    (let s := offList { up with fab := { xfers := [(0, { desc := 0, rood := 0, body := ⟨0, false, false, false, 0, 0, 0, 0, 0, 0, 0, 0, 0, 0, 0, 0, 0, 0⟩ })] } };
      reqHeld s = false ∧ s.fwc.pstate ≠ 4 ∧ onList s = false ∧ s.boot.safeMode = false ∧ isIdle s = false) ∧
    reqHeld { up with fwc := { update := { st := .takeover } } } = true ∧
    (let s := withPstate 2 up; reqHeld s = false ∧ s.boot.safeMode = false ∧ 2 ≤ s.fwc.pstate ∧ s.fwc.pstate < 4) ∧
    (let s := withPstate 3 up; reqHeld s = false ∧ s.boot.safeMode = false ∧ 2 ≤ s.fwc.pstate ∧ s.fwc.pstate < 4) ∧
    (let s := atTime 4000000 (withPstate 1 up); s.fwc.pstate ≤ 1 ∧ 2 ≤ s.fwc.floor ∧ idleFor s (s.fwc.floorDelay * usTicks) = true) ∧
    (let s := atTime 400000000 { withPstate 2 up with fwc := { (withPstate 2 up).fwc with floor := 3 } };
      s.fwc.pstate ≤ 2 ∧ s.fwc.floor = 3 ∧ idleFor s (s.fwc.warmDelay * msTicks) = true) ∧
    (let k := { bind0 with st := .idle, nextStart := some 1 };
      let s := { withPstate 3 up with binds := [(255, k)] };
      s.fwc.pstate ∈ [2, 3] ∧ bindOf s 255 = some k ∧ k.nextStart = some 1 ∧ k.st = .idle ∧
        1 * 40 * rodLen s ≤ s.time.now + 2 * msTicks) := by decide +kernel

theorem witness_firmwareUpdates_start : staged.boot.ready = true ∧ staged.fwc.update.st = .idle ∧ staged.fwc.spare = .ready ∧
    (stagedSlot staged).isSome = true ∧ slotCheck staged view0 = Sts.ok :=
  ⟨by decide +kernel, by decide +kernel, by decide +kernel, by rw [staged_slot]; rfl, by decide +kernel⟩

theorem witness_firmwareUpdates_none : up.boot.ready = true ∧ up.fwc.update.st = .idle ∧ up.fwc.spare = .ready ∧ stagedSlot up = none := by
  refine ⟨by decide +kernel, by decide +kernel, by decide +kernel, ?_⟩
  have h : ∀ a, norRd up a 4096 = List.replicate 4096 0xFF := fun a => cellGets_short 0xFF a 0 4096 up.nor (fun _ h => absurd h List.not_mem_nil)
  have g := not_good (List.replicate 4096 0xFF) (by decide +kernel)
  unfold stagedSlot headerInForce
  rw [h, h]
  generalize List.replicate 4096 (0xFF : Byte) = x at *
  simp [g]

def updating (u : UpdateState) : State := atTime 400000000 { up with fwc := { up.fwc with update := { st := u } } }

theorem witness_firmwareUpdates :
    (up.boot.ready = true ∧ (updating .booting).fwc.update.st ≠ .idle) ∧
    (∀ u ∈ [UpdateState.verifying, .deferred, .booting], (updating u).fwc.update.st ∈ [.verifying, .deferred, .booting]) ∧
    (∀ u ∈ [UpdateState.verifying, .deferred], (updating u).fwc.update.st ∈ [.verifying, .deferred] ∧ held (updating u) = false ∧
      (updating u).fwc.spare = .ready) ∧
    (updating .booting).fwc.update.st = .booting ∧
    (let s := { up with fwc := { up.fwc with update := { status := Sts.deferred } } };
      s.fwc.update.st = .idle ∧ s.fwc.update.status = Sts.deferred) ∧
    (∀ u ∈ [UpdateState.booting, .takeover, .confirming],
      let s := { up with fwc := { up.fwc with spare := .handoff, update := { st := u }, cores := up.fwc.cores.modify 5 fun k => { k with misses := 1 } } };
      s.pins.standby = true ∧ s.boot.ready = true ∧ s.fwc.cores[5]? = some { phys := 5, misses := 1 } ∧ s.fwc.spare = .handoff ∧
        s.fwc.update.st ∈ [.booting, .takeover, .confirming] ∧ (∀ c ∈ s.fwc.cores, c.failed = false) ∧ s.fwc.cores.length = 6) ∧
    (∀ u ∈ [UpdateState.takeover, .confirming], (updating u).fwc.update.st ∈ [.takeover, .confirming]) ∧
    (up.pins.standby = true ∧ up.boot.ready = true ∧ 5 < 6 ∧ up.fwc.cores[5]? = some { phys := 5 } ∧
      ({ phys := 5 } : FwCore).failed = false ∧ ({ phys := 5 } : FwCore).misses = 0) ∧
    (let s := { up with fwc := { up.fwc with cores := up.fwc.cores.modify 5 fun k => { k with misses := 1 } } };
      s.pins.standby = true ∧ s.boot.ready = true ∧ s.fwc.cores[5]? = some { phys := 5, misses := 1 } ∧ s.fwc.spare = .ready) ∧
    (let s := { up with fwc := { up.fwc with spare := .inUse, cores := up.fwc.cores.modify 5 fun k => { k with misses := 1 } } };
      s.pins.standby = true ∧ s.boot.ready = true ∧ s.fwc.cores[5]? = some { phys := 5, misses := 1 } ∧ s.fwc.spare = .inUse) ∧
    (let z := { up with fwc := { up.fwc with spare := .inUse, cores := up.fwc.cores.modify 5 fun k => { k with failed := true } } };
      z.fwc.cores[5]? = some { phys := 5, failed := true } ∧ z.fwc.spare = .inUse ∧ (∀ c ∈ z.fwc.cores, c.phys ≠ z.fwc.sparePhys) ∧
        z.glb.fatal = false) := by decide +kernel

/-! ### Witnesses: descriptors and queues -/

def fetching : State := { units with slices := [(1023, slice0)], queues := [(4095, queue0)] }

theorem witness_fetchTakesOne :
    runsWork fetching = true ∧ drrPick fetching = some (1023, slice0, 1) ∧
      nextOf slice0.nextQueue (sliceQueues fetching slice0) = some 4095 ∧ tfind 4095 fetching.queues = some queue0 := by decide +kernel

/-- What lets descriptor e out of the dispatcher. -/
def Dispatchable (e : Desc) (s : State) : Bool :=
  tfind 9 s.descs == some e && runsWork s && e.stage == .dispatcher && e.result == none && !e.held && !heldBySource s 9 e &&
    !admissionHold s e && unitRoom s (unitOf e)

def modes (m : UnitMode) : State := { units with clusters := units.clusters.modify 15 fun k => { k with mode := m } }
def unlocked : State := { units with stks := units.stks.map fun k => { k with locks := List.replicate 8 {} } }

theorem witness_dispatchQueues :
    Dispatchable (descOf .sync) (withDesc (descOf .sync) units) = true ∧
    Dispatchable (coreDesc (.tun tun0)) (withDesc (coreDesc (.tun tun0)) units) = true ∧
    unitOf (coreDesc (.tun tun0)) = .tun 15 ∧
    (let s := withDesc (descOf (.firkin firkin0)) units;
      Dispatchable (descOf (.firkin firkin0)) s = true ∧ engineAccepts s 0 firkin0 = true) ∧
    (let s := withDesc (descOf (.firkin firkin0)) unlocked;
      Dispatchable (descOf (.firkin firkin0)) s = true ∧ engineAccepts s 0 firkin0 = false) ∧
    (let s := { units with descs := [(2, { descOf .sync with held := true }), (3, { descOf .sync with held := true, seq := 64 }), (9, descOf .sync)] };
      Dispatchable (coreDesc .sync) (withDesc (coreDesc .sync) units) = true ∧
        (tfind 3 s.descs).map (fun k => (k.held, heldBefore s 3 k)) = some (true, true)) := by decide +kernel

/-- Five passes of core 3 of cluster 15: an earlier one in the dispatcher, and four in Tun's queue. -/
theorem witness_dispatchQueues_held :
    (let e := descOf (.tun tun0);
      let s := { units with descs := [(8, e), (9, { e with seq := 64 })] };
      tfind 9 s.descs = some { e with seq := 64 } ∧ runsWork s = true ∧ e.stage = .dispatcher ∧ e.result = none ∧ heldBySource s 9 { e with seq := 64 } = true) ∧
    (∀ was ∈ [false, true], let e := { coreDesc (.tun tun0) with held := was };
      let s := withDesc e (modes .substituting); tfind 9 s.descs = some e ∧ heldBySource s 9 e = false ∧ admissionHold s e = true) ∧
    (let e := { descOf .sync with held := true };
      let f := { descOf (.tun tun0) with held := true, seq := 64 };
      let s := { units with descs := [(2, e), (9, f)] };
      tfind 9 s.descs = some f ∧ runsWork s = true ∧ f.stage = .dispatcher ∧ heldBySource s 9 f = false ∧ admissionHold s f = false ∧ f.held = true ∧
        heldBefore s 9 f = true) ∧
    (let e := coreDesc (.tun tun0);
      let s := withDesc e { units with clusters := units.clusters.modify 15 fun k => { k with tunQueue := [1, 2, 3, 4] } };
      heldBySource s 9 e = false ∧ admissionHold s e = false ∧ e.held = false ∧ unitRoom s (unitOf e) = false) := by decide +kernel

theorem witness_dispatchQueues_kinds : (∀ x, (descOf .sync).body ≠ .firkin x) ∧ ∀ x, (descOf (.tun tun0)).body ≠ .firkin x :=
  ⟨fun _ => by simp [descOf], fun _ => by simp [descOf]⟩

def queued (e : Desc) : Desc := { e with stage := .queued }

theorem witness_descriptorStarts :
    (let e := queued (descOf .sync); tfind 9 (withDesc e units).descs = some e ∧ startReady (withDesc e units) 9 e = true ∧ e.body = .sync) ∧
    (let e := queued (descOf (.run run0));
      startReady (withDesc e units) 9 e = true ∧ e.body = .run run0 ∧ (withDesc e units).clusters[e.hdr.target]?.isSome = true ∧
        (∀ k ∈ (withDesc e units).clusters, (∀ n ∈ runCores run0, k.coreEn.testBit n = true) ∧ ∀ q ∈ k.cores, q.st = .idle)) ∧
    (let e := queued (descOf (.run run0));
      let s := withDesc e { units with clusters := units.clusters.map fun k => { k with coreEn := 7 } };
      startReady s 9 e = true ∧ s.clusters[e.hdr.target]?.isSome = true ∧ ∀ k ∈ s.clusters, ∃ n ∈ runCores run0, k.coreEn.testBit n = false) ∧
    (let e := queued (coreDesc (.comb comb0));
      let s := withDesc e units;
      startReady s 9 e = true ∧ e.body = .comb comb0 ∧ combFree s ((descCluster e).getD 0) comb0.entry = true ∧ s.fab.early = [] ∧
        (descCluster e).getD 0 < s.clusters.length ∧ comb0.entry < 16 ∧ ∀ k ∈ s.clusters, k.comb.length = 16) ∧
    (let e := queued (coreDesc (.k1 k10));
      let s := withDesc e units;
      startReady s 9 e = true ∧ e.body = .k1 k10 ∧ combFree s ((descCluster e).getD 0) k10.combEntry = true ∧
        placeOf k10.wAddr 1 = .stk 0 0 ∧ (regionAt s k10.wAddr).isSome = true ∧
        ringReads s (firkinInputs (k1Pass ((descCluster e).getD 0) k10)) = .ready ∧
        ∀ b ∈ panelBushels (k1Pass ((descCluster e).getD 0) k10), b ∉ (s.stks.getD 0 {}).bad ∧ tfind b (s.stks.getD 0 {}).errs = none) ∧
    (let x := { k10 with wAddr := 0x10F000000 };
      let e := queued (coreDesc (.k1 x));
      let s := withDesc e units;
      startReady s 9 e = true ∧ combFree s ((descCluster e).getD 0) x.combEntry = true ∧ placeOf x.wAddr 1 = .scratch 15 0 ∧
        ringReads s (k1Panel x :: firkinInputs (k1Pass ((descCluster e).getD 0) x)) = .ready) ∧
    (let x := { k10 with wAddr := 0x1201E0000 };
      let e := queued (coreDesc (.k1 x));
      let s := withDesc e units;
      startReady s 9 e = true ∧ combFree s ((descCluster e).getD 0) x.combEntry = true ∧ placeOf x.wAddr 1 = .bank 15 0 ∧
        ringReads s (firkinInputs (k1Pass ((descCluster e).getD 0) x)) = .ready ∧ bankRead s 15 0 (k1Panel x).2 ≠ none) := by
  decide +kernel

/-- A descriptor whose dependency has failed. -/
def dependent : Desc := { queued (descOf .sync) with hdr := { depA := 1 }, reach := 1 }
def timed : Desc := { queued (descOf .sync) with hdr := { deadlineRods := 1 } }
def armed : State :=
  { units with clusters := units.clusters.modify 15 fun k => { k with comb := k.comb.modify 15 fun v => { v with st := .armed, s := 2, dlRod := 0 } } }
/-- A completion stamped 0 for entry 15 of cluster 15 is on its way. -/
def noticed (s : State) : State :=
  { s with clusters := s.clusters.modify 15 fun k => { k with notices := [{ entry := 15, shard := 0, shards := 2, bytes := 128, stamp := 0, rood := 0, firkin := true }] } }
def request0 : Request :=
  { st := .admitted, rood := 0, pid := 1, slice := 1023, q := 65535, seq := 0, clientTag := 0, arrival := 0, deadline := 1, outH := 1, cplH := 2
    outOff := 0, cplOff := 0, trainKeep := false, recAddr := 0, recLen := 64 }

theorem witness_squashesAndTimeouts :
    (let s := withDesc dependent { fetching with queues := [(4095, { queue0 with history := [(62, Sts.timeout)] })] };
      tfind 9 s.descs = some dependent ∧ dependent.stage ≠ .started ∧ dependent.result = none ∧ depsOf s dependent = .fail) ∧
    (let s := atTime (2 * 4096) (withDesc timed units);
      deadlineRod timed = some 1 ∧ timesOut timed = true ∧ timed.result = none ∧ deadlineStamp s 1 < s.time.now) ∧
    (let s := atTime (2 * 4096 - 4) (withDesc timed units); tfind 9 s.descs = some timed ∧ deadlineRod timed = some 1 ∧
      s.time.now ≤ deadlineStamp s 1) ∧
    (let e := { timed with raised := some 8188 };
      tfind 9 (withDesc e units).descs = some e ∧ e.raised = some 8188 ∧ timesOut e = true ∧ e.result = none ∧
        8188 + 2000 ≤ (atTime 10188 (withDesc e units)).time.now ∧ (atTime 10184 (withDesc e units)).time.now < 8188 + 2000) ∧
    (let s := atTime (4092 + 2000) armed;
      (combOf' s 15 15).st = .armed ∧ rodSettled s (combOf' s 15 15).deadline = true ∧ rodPast s (combOf' s 15 15).deadline s.time.now = true ∧
        inTimeNotice s 15 15 = false ∧ inTimeNotice (noticed s) 15 15 = true ∧ (combOf' (noticed s) 15 15).st = .armed) ∧
    (let s := atTime 4096 armed;
      (combOf' s 15 15).st = .armed ∧ rodPast s (combOf' s 15 15).deadline s.time.now = true ∧ rodSettled s (combOf' s 15 15).deadline = false) ∧
    (∀ x ∈ [(ReqState.joined, none), (.admitted, none), (.joined, some (0, 0, 0))],
      let k := { request0 with st := x.1, raised := some 1, resident := x.2 };
      let s := { units with requests := [(3, k)] };
      tfind 3 s.requests = some k ∧ k.raised = some 1 ∧ k.st ≠ .ended ∧ (x = (.joined, none) ∨ k.st ≠ .joined ∨ k.resident ≠ none) ∧
        atOrAfter 64 s.time.now (1 + 2000) = false ∧ atOrAfter 64 (atTime 2001 s).time.now (1 + 2000) = true) := by decide +kernel

def ended : Desc := { queued (descOf .sync) with stage := .started, result := some ⟨Sts.ok, 0, 0⟩ }
def onCore (e : Desc) : State :=
  withDesc e { units with clusters := units.clusters.modify 15 fun k => { k with cores := k.cores.modify 3 fun q => { q with queue := [9] } } }

/-- The same with a RAW region in stack 0, and no range held. -/
def rawStack (s : State) : State :=
  { s with stks := s.stks.modify 0 fun k => { k with
      regions := [(0, { start := 0x1000000000, len := 1, kind := 1, fmt := 0, rood := 0, backing := 0 })], locks := List.replicate 8 {} } }

theorem witness_completionRecords :
    (let s := withDesc ended fetching;
      let r : Result := ⟨Sts.ok, 0, 0⟩;
      tfind 9 s.descs = some ended ∧ ended.result = some r ∧ completesAfter s 9 ended = false ∧ recordsBefore s 9 ended r = false ∧ mayComplete s ended (finalStatus s ended r) = true ∧
        ended.body = .sync ∧ ended.src = .queue 4095 ∧ tfind 4095 s.queues = some queue0 ∧ roodActive s ended.rood = true ∧
        0 < queue0.logDepth ∧ Memory.wf 0 s.mem = true ∧ ended.hdr.quiet = false ∧
        writeCheck s .record (queue0.cring + 32 * 63) 32 = .locked ∧ writeCheck (rawStack s) .record (queue0.cring + 32 * 63) 32 = .ok) ∧
    (let e := { ended with hdr := { flags := 16 } };
      let s := withDesc e fetching;
      let r : Result := ⟨Sts.ok, 0, 0⟩;
      completesAfter s 9 e = false ∧ recordsBefore s 9 e r = false ∧ mayComplete s e (finalStatus s e r) = true ∧ e.hdr.quiet = true ∧ finalStatus s e r = Sts.ok) ∧
    (let e := { ended with src := .core 15 3 };
      let s := onCore e;
      let r : Result := ⟨Sts.ok, 0, 0⟩;
      tfind 9 s.descs = some e ∧ completesAfter s 9 e = false ∧ recordsBefore s 9 e r = false ∧ mayComplete s e (finalStatus s e r) = true ∧ e.body = .sync ∧
        e.src = .core 15 3 ∧ (coreAt s 15 3).map (·.queue) = some [9]) := by decide +kernel

theorem witness_completionRecords_waits :
    (let s := { fetching with descs := [(8, { ended with seq := 62 }), (9, ended)] };
      tfind 9 s.descs = some ended ∧ recordsBefore s 9 ended ⟨Sts.ok, 0, 0⟩ = true) ∧
    (let e := { timed with result := some ⟨Sts.timeout, 0, 0⟩ };
      let s := atTime 8192 (withDesc e fetching);
      tfind 9 s.descs = some e ∧ mayComplete s e (finalStatus s e ⟨Sts.timeout, 0, 0⟩) = false) ∧
    (let e := { ended with body := .stream stream0 };
      let s := withDesc e fetching;
      e.body = .stream stream0 ∧ completesAfter s 9 e = false ∧ recordsBefore s 9 e ⟨Sts.ok, 0, 0⟩ = false ∧
        mayComplete s e (finalStatus s e ⟨Sts.ok, 0, 0⟩) = true) := by decide +kernel

/-! ### Witnesses: Gill, Tun and combinations -/

def running (b : GillBody) : State :=
  withDesc { queued (coreDesc (.gill b)) with stage := .started }
    { units with clusters := units.clusters.modify 15 fun k => { k with gillRun := some 9 } }
def gillDesc (b : GillBody) : Desc := { queued (coreDesc (.gill b)) with stage := .started }

theorem gillRuns_of (b : GillBody) (s : State) (k : Cluster) (q : Core) (hk : s.clusters[15]? = some k) (hr : k.gillRun = some 9)
    (hq : k.cores[3]? = some q) (hd : tfind 9 s.descs = some (gillDesc b)) (hb : (gillBanks b).any (bankStalls s 15) = false)
    (hs : ringReads s (gillReadsAt 15 b) = .ready) (hp : clusterPaused s 15 = false := by decide +kernel) :
    GillRuns s 15 3 9 (gillDesc b) b :=
  ⟨⟨k, hk, hr, q, hq⟩, hd, rfl, rfl, rfl, hp, hb, hs⟩

def clu15Runs : Cluster := { phys := 15, rood := some 0, gillRun := some 9 }

/-- Every elementwise operation into vector register 7, over its whole length. -/
def addVec (op : Nat) : GillBody := { gill0 op with dst := 7, len := 512, cols := 512 }

theorem witness_gillElementwise :
    (Instr.add, 0x04, fun a b _ => fAdd a b) ∈ elementwise ∧ GillRuns (running (addVec 0x04)) 15 3 9 (gillDesc (addVec 0x04)) (addVec 0x04) ∧
      (addVec 0x04).op = 0x04 ∧ opSpace (addVec 0x04).dst = 0 :=
  ⟨by simp [elementwise], gillRuns_of _ _ clu15Runs {} (by decide +kernel) rfl rfl (by decide +kernel) (by decide +kernel) (by decide +kernel),
    rfl, by decide⟩

/-- The same into the scratchpad as FP32, on no ring and on a ring that a LOAD fills. -/
def addMem : GillBody := { gill0 0x04 with dst := 0x10000000 + 0x10000 }
def addRes (s : State) : List F32 :=
  (List.range addMem.len).map fun j => fAdd (gillElem s 15 3 (gillDesc addMem) addMem 0 j) (gillElem s 15 3 (gillDesc addMem) addMem 1 j)
def ringed (s : State) : State :=
  { s with streams := { s.streams with ctx := [(0, { st := .running, desc := 8, rood := 0, pid := 1, body := { stream0 with dstAddr := 0x10F010000 }
                                                     admitStamp := 0 })] } }

theorem witness_gillStores :
    (Instr.add, 0x04, fun a b _ => fAdd a b) ∈ elementwise ∧
    (GillRuns (running addMem) 15 3 9 (gillDesc addMem) addMem ∧ opSpace addMem.dst ≠ 0 ∧ Memory.wf 0 (running addMem).mem = true ∧
      opFmt addMem.dst = 0 ∧ addMem.rowStride = 0 ∧
      (gillStore 15 addMem (gillLay addMem) (addRes (running addMem))).1.any (fun w => onRing (running addMem) w.1 w.2.length) = false) ∧
    (GillRuns (ringed (running addMem)) 15 3 9 (gillDesc addMem) addMem ∧
      (gillStore 15 addMem (gillLay addMem) (addRes (ringed (running addMem)))).1.any (fun w => onRing (ringed (running addMem)) w.1 w.2.length) = true) :=
  ⟨by simp [elementwise],
    ⟨gillRuns_of _ _ clu15Runs {} (by decide +kernel) rfl rfl (by decide +kernel) (by decide +kernel) (by decide +kernel),
      by decide, by decide +kernel, by decide, by decide, by decide +kernel⟩,
    ⟨gillRuns_of _ _ clu15Runs {} (by decide +kernel) rfl rfl (by decide +kernel) (by decide +kernel) (by decide +kernel), by decide +kernel⟩⟩

def rowSum : GillBody := { gill0 0x18 with dir := 2, len := 4, rows := 2, cols := 2 }

theorem witness_gillReductions :
    (Instr.sum, 0x18, fun x l => (x :: l).foldl fAdd 0#32) ∈ reductions ∧ GillRuns (running rowSum) 15 3 9 (gillDesc rowSum) rowSum ∧
      rowSum.op = 0x18 ∧ opSpace rowSum.dst = 0 ∧
      (∀ g ∈ reduceGroups rowSum (srcVals (running rowSum) 15 3 rowSum [] 0 rowSum.srcA), g ≠ []) ∧
      reduceGroups rowSum (srcVals (running rowSum) 15 3 rowSum [] 0 rowSum.srcA) ≠ [] :=
  ⟨by simp [reductions], gillRuns_of _ _ clu15Runs {} (by decide +kernel) rfl rfl (by decide +kernel) (by decide +kernel) (by decide +kernel),
    rfl, by decide, by decide +kernel, by decide +kernel⟩

/-- A bank operation on bank 1, whose state is st. -/
def bankOp (op : Nat) : GillBody := { gill0 op with srcA := 0x20000000 + 0x10000 }
def bankIn (op : Nat) (st : BankState) : State :=
  let s := running (bankOp op)
  { s with clusters := s.clusters.modify 15 fun k => { k with banks := k.banks.modify 1 fun b => { b with st := st } } }
def cluBank (st : BankState) : Cluster := { clu15Runs with banks := [{}, { st := st }] }

/-- A spill of bank 1 into the scratchpad, and a bank that it has put into SPILLING. -/
def spillOut : GillBody := { bankOp opSpill with dst := 0x10010000 }
def spilling : State :=
  let s := running spillOut
  { s with clusters := s.clusters.modify 15 fun k => { k with banks := [{}, { st := .spilling, gill := some 9 }] } }
def spillWrites : Writes :=
  (storeRows (opFmt spillOut.dst) spillOut.rnd spillOut.scsel (scratchBase 15 + opAddr spillOut.dst) (scratchBase 15 + spillOut.scaleDst)
    spillOut.rowStride ((List.range spillOut.rows).map fun r => (List.range spillOut.cols).map fun j =>
      rdF32 spilling (cellAt 15 (opAddr spillOut.srcA / 0x10000) r j))
    (drawsOf spillOut.rnd spillOut.seed spillOut.step spillOut.tensorId) (fun r j => spillOut.index0 + r * spillOut.scaleSrc + j)).1
def cluSpills : Cluster := { clu15Runs with banks := [{}, { st := .spilling, gill := some 9 }] }

theorem witness_gillBanks :
    opAddr (bankOp opRelease).srcA / 0x10000 < 2 ∧ opAddr (bankOp opSpill).srcA / 0x10000 < 2 ∧
    (∀ k ∈ (bankIn opRelease .held).clusters, k.banks.length = 2) ∧
    (GillRuns (bankIn opRelease .held) 15 3 9 (gillDesc (bankOp opRelease)) (bankOp opRelease) ∧ (bankOf (bankIn opRelease .held) 15 1).st = .held) ∧
    (GillRuns (bankIn opRelease .free) 15 3 9 (gillDesc (bankOp opRelease)) (bankOp opRelease) ∧ (bankOf (bankIn opRelease .free) 15 1).st ≠ .held) ∧
    (GillRuns (bankIn opSpill .free) 15 3 9 (gillDesc (bankOp opSpill)) (bankOp opSpill) ∧ (bankOf (bankIn opSpill .free) 15 1).st = .free) ∧
    (GillRuns (bankIn opSpill .held) 15 3 9 (gillDesc (bankOp opSpill)) (bankOp opSpill) ∧ (bankOf (bankIn opSpill .held) 15 1).st = .held ∧
      (bankOf (bankIn opSpill .held) 15 1).gill ≠ some 9 ∧ GillRuns spilling 15 3 9 (gillDesc spillOut) spillOut ∧
      (bankOf spilling 15 1).gill = some 9 ∧ spillWrites.any (fun w => onRing spilling w.1 w.2.length) = false ∧
      GillRuns (ringed spilling) 15 3 9 (gillDesc spillOut) spillOut ∧ (bankOf (ringed spilling) 15 1).gill = some 9 ∧
      spillWrites.any (fun w => onRing (ringed spilling) w.1 w.2.length) = true) :=
  ⟨by decide, by decide, by decide +kernel,
    ⟨gillRuns_of _ _ (cluBank .held) {} (by decide +kernel) rfl rfl (by decide +kernel) (by decide +kernel) (by decide +kernel), by decide +kernel⟩,
    ⟨gillRuns_of _ _ (cluBank .free) {} (by decide +kernel) rfl rfl (by decide +kernel) (by decide +kernel) (by decide +kernel), by decide +kernel⟩,
    ⟨gillRuns_of _ _ (cluBank .free) {} (by decide +kernel) rfl rfl (by decide +kernel) (by decide +kernel) (by decide +kernel), by decide +kernel⟩,
    ⟨gillRuns_of _ _ (cluBank .held) {} (by decide +kernel) rfl rfl (by decide +kernel) (by decide +kernel) (by decide +kernel), by decide +kernel, by decide +kernel,
      gillRuns_of _ _ cluSpills {} (by decide +kernel) rfl rfl (by decide +kernel) (by decide +kernel) (by decide +kernel), by decide +kernel,
      by decide +kernel, gillRuns_of _ _ cluSpills {} (by decide +kernel) rfl rfl (by decide +kernel) (by decide +kernel) (by decide +kernel),
      by decide +kernel, by decide +kernel⟩⟩

/-- A Tun pass x of cluster 15, its bank in state b. -/
def tunIn (x : TunBody) (b : Bank) : State :=
  withDesc (queued (coreDesc (.tun x)))
    { units with clusters := units.clusters.modify 15 fun k => { k with tunQueue := [9], banks := [{}, b] } }
def gathered (v : Byte) : State :=
  let s := tunIn { tun0 with gather := 1 } {}
  { s with mem := cellSetAll 0 (scratchBase 15 + 0x5000) (List.replicate 128 v) [] }

theorem witness_tunPassRuns :
    (clusterPaused (tunIn tun0 {}) 15 = false ∧ clusterPaused (gathered 3) 15 = false ∧ (tunIn tun0 {}).clusters[15]?.isSome = true ∧ (∀ k ∈ (tunIn tun0 {}).clusters, k.banks.length = 2 ∧ (k.phys = 15 → k.tunQueue.head? = some 9)) ∧
      tun0.bank < 2 ∧ tfind 9 (tunIn tun0 {}).descs = some (queued (coreDesc (.tun tun0))) ∧ startReady (tunIn tun0 {}) 9 (queued (coreDesc (.tun tun0))) = true ∧
      (bankOf (tunIn tun0 {}) 15 1).st = .free ∧ tun0.gather = 0 ∧ Memory.wf 0 (tunIn tun0 {}).mem = true) ∧
    (let x := { tun0 with gather := 1 };
      let s := gathered 3;
      startReady s 9 (queued (coreDesc (.tun x))) = true ∧ (bankOf s 15 1).st = .free ∧ x.gather ≠ 0 ∧
        ringRead s (scratchBase 15 + x.rowmap) 128 = .ready ∧ rowMapBad x (rdBytes s (scratchBase 15 + x.rowmap) 128) = false ∧
        rowMapBad x (rdBytes (gathered 4) (scratchBase 15 + x.rowmap) 128) = true) ∧
    (let x := { tun0 with initLoad := true, n := 128, m := 128 };
      let s := tunIn x { st := .loading, run := some 9 };
      (bankOf s 15 1).run = some 9 ∧ (bankOf s 15 1).st = .loading ∧ x.n ≤ 128 ∧
        ringReads s (ownRanges 15 [(x.initAddr, (x.m - 1) * x.outStride + 4 * tunOutCols x)]) = .ready) ∧
    (let s := tunIn tun0 { st := .accumulating, run := some 9 };
      (bankOf s 15 1).run = some 9 ∧ (bankOf s 15 1).st = .accumulating ∧ (bankOf s 15 1).second = false ∧
        ringReads s (ownRanges 15 (tunOperandRanges tun0)) = .ready ∧ tun0.endAct = 1 ∧ ({ tun0 with endAct := 0 } : TunBody).endAct ≠ 1) ∧
    (let x := { tun0 with endAct := 2, outAddr := 0x10000 };
      let s := tunIn x { st := .spilling, run := some 9 };
      (bankOf s 15 1).run = some 9 ∧ (bankOf s 15 1).st = .spilling ∧
        (tunSpillWrites s 15 1 x (bankOf s 15 1).rowmap).1.any (fun w => onRing s w.1 w.2.length) = false ∧
        (tunSpillWrites (ringed s) 15 1 x (bankOf (ringed s) 15 1).rowmap).1.any (fun w => onRing (ringed s) w.1 w.2.length) = true) := by
  decide +kernel

/-- Entry 15 of cluster 15 READY for two slots of 128 bytes. -/
def combReady : Comb := { st := .ready, desc := 9, s := 2, slotStride := 128, tileBytes := 128, dest := 0x4000 }
def combining : State :=
  withDesc (coreDesc (.comb comb0))
    { units with clusters := units.clusters.modify 15 fun k => { k with comb := k.comb.set 15 combReady } }

theorem witness_combinationSums :
    (combining.clusters[15]?.map fun k => (k.comb[15]?, gillBusy k)) = some (some combReady, false) ∧ combReady.st = .ready ∧
    clusterPaused combining 15 = false ∧
    ((running (gill0 0x04)).clusters[15]?.map gillBusy) = some true ∧
    (let v := { combReady with st := .combining };
      let s := { combining with clusters := combining.clusters.modify 15 fun k => { k with comb := k.comb.set 15 v } };
      (s.clusters[15]?.map fun k => k.comb[15]?) = some (some v) ∧ 1 ≤ v.s ∧
      v.tileBytes % 4 = 0 ∧ tfind v.desc s.descs = some (coreDesc (.comb comb0)) ∧ Memory.wf 0 s.mem = true ∧
      ringReads s ((List.range v.s).map fun q => (scratchBase 15 + v.slotBase + q * v.slotStride, v.tileBytes)) = .ready ∧
      onRing s (scratchBase 15 + v.dest) v.tileBytes = false) := by decide +kernel

/-- A shard's notice for entry 15 of cluster 15, and the entry as it stands. -/
def notice0 : ShardNotice := { entry := 15, shard := 1, shards := 2, bytes := 128, stamp := 4092, rood := 0, firkin := false }
def combFree0 : Comb := {}
def notifying (v : Comb) : State :=
  { units with clusters := units.clusters.modify 15 fun k => { k with comb := k.comb.set 15 v, notices := [notice0] } }
def combArmed (mask : Nat) : Comb := { combReady with st := .armed, dlRod := 0, mask := mask }

theorem witness_shardArrives :
    (∀ m ∈ [0, 1], ((notifying (combArmed m)).clusters[15]?.map fun k => (k.notices, k.comb[15]?)) = some ([notice0], some (combArmed m)) ∧
      (combArmed m).st = .armed ∧ (combArmed m).rood = notice0.rood ∧ notice0.shards = (combArmed m).s ∧ notice0.shard < (combArmed m).s ∧
      notice0.bytes = (combArmed m).tileBytes ∧ rodPast (notifying (combArmed m)) (combArmed m).deadline notice0.stamp = false ∧
      (combArmed m).mask.testBit notice0.shard = false) ∧
    (combFree0.st = .free ∧ ((notifying combFree0).clusters[15]?.map fun k => (k.notices, k.comb[15]?)) = some ([notice0], some combFree0)) ∧
    (let v := { combArmed 0 with s := 3 }; v.rood = notice0.rood ∧ notice0.shards ≠ v.s) ∧
    (let v := combArmed 2; v.rood = notice0.rood ∧ notice0.shards = v.s ∧ notice0.shard < v.s ∧ notice0.bytes = v.tileBytes ∧
      rodPast (notifying v) v.deadline notice0.stamp = false ∧ rodPast (notifying v) v.deadline 4096 = true ∧ v.mask.testBit notice0.shard = true) := by decide +kernel

/-! ### Witnesses: control cores -/

/-- Core 3 of cluster 15 runs the program of descriptor 9, a RUN of this core alone. -/
def runDesc : Desc := { queued (descOf (.run { run0 with cores := 8 })) with stage := .started }
def coreIs (f : Core → Core) : State :=
  withDesc runDesc { units with clusters := units.clusters.modify 15 fun k => { k with
    cores := k.cores.modify 3 fun q => f { q with st := .running, run := some 9, slice := some 0, pid := 1 } } }
def core0 : Core := { st := .running, run := some 9, slice := some 0, pid := 1 }

theorem witness_coreReadsRetire :
    coreRuns (coreIs id) 15 3 = true ∧ ((coreIs id).clusters[15]?).map (·.cores[3]?) = some (some core0) := by decide +kernel

theorem witness_coreWaits :
    (coreRuns (coreIs id) 15 3 = true ∧ seqStatus core0 0 ≠ 0x100 ∧ core0.queue = [] ∧
      atOrAfter 16 (tgetD (3 % 4) {} core0.sums).seq 0 = true ∧ atOrAfter 16 (tgetD (3 % 4) {} core0.sums).seq 1 = false ∧
      atOrAfter 48 (rodNum (coreIs id)) 0 = true ∧ atOrAfter 48 (rodNum (coreIs id)) 1 = false) ∧
    (let f (q : Core) : Core := { q with nextSeq := 1, issued := 1, queue := [8] };
      coreRuns (coreIs f) 15 3 = true ∧ coreAt (coreIs f) 15 3 = some (f core0) ∧ seqStatus (f core0) 0 = 0x100 ∧ (f core0).queue ≠ []) ∧
    (∀ w ∈ [CoreWait.summary 3 0, .summary 3 1, .rod 31 0, .fence], let f (q : Core) : Core := { q with wait := some w };
      runsWork (coreIs f) = true ∧ clusterPaused (coreIs f) 15 = false ∧ coreAt (coreIs f) 15 3 = some (f core0) ∧ (f core0).st ≠ .stopped ∧ (f core0).wait = some w) ∧
    (sumReached core0 3 0 = true ∧ sumReached core0 3 1 = false ∧ atOrAfter 48 (rodNum (coreIs id)) 0 = true ∧ core0.queue = []) := by
  decide +kernel

theorem witness_coreWrites :
    coreRuns (coreIs id) 15 3 = true ∧ coreRood (coreIs id) 15 3 < (coreIs id).roods.length ∧ (63#64).toNat % 64 / 16 = 3 ∧
      (48#64).toNat % 64 / 16 = 3 ∧ (47#64).toNat % 64 / 16 ≠ 3 := by decide +kernel

theorem witness_coreIssuesAndEnds :
    (coreRuns (coreIs id) 15 3 = true ∧ ((0xFFFF80#64).toNat % 128 = 0 ∧ (0xFFFF80#64).toNat + 128 ≤ 0x1000000) ∧ core0.queue.length < 64 ∧
      ringRead (coreIs id) (scratchBase 15 + 0xFFFF80) 128 = .ready ∧
      (1#64).toNat % 128 ≠ 0 ∧ ((0x1000000#64).toNat % 128 = 0 ∧ 0x1000000 < (0x1000000#64).toNat + 128)) ∧
    (let f (q : Core) : Core := { q with queue := List.replicate 63 8 };
      coreRuns (coreIs f) 15 3 = true ∧ coreAt (coreIs f) 15 3 = some (f core0) ∧ (f core0).queue.length < 64 ∧ (f core0).queue ≠ []) ∧
    (let f (q : Core) : Core := { q with queue := List.replicate 64 8 };
      coreRuns (coreIs f) 15 3 = true ∧ coreAt (coreIs f) 15 3 = some (f core0) ∧ 64 ≤ (f core0).queue.length) ∧
    (core0.queue = [] ∧ core0.run = some 9 ∧ tfind 9 (coreIs id).descs = some runDesc ∧ runDesc.body = .run { run0 with cores := 8 } ∧
      runDesc.result = none ∧ runCores { run0 with cores := 8 } = [3] ∧ runDesc.ends = [] ∧ 9 ∉ core0.queue ∧
      2 ∉ [1, 5, 7] ∧ coreReach (coreIs id) 15 mcStoreFault 0x1000000000 = .refused ∧ coreReach (coreIs id) 15 1 0x10E000000 = .fetch ∧
      coreReach (coreIs id) 15 5 0x110000000 = .pmp ∧ coreReach (coreIs id) 15 5 0x10F000000 = .ok) := by decide +kernel

theorem witness_coreIssuesAndEnds_rings :
    (let s := { coreIs id with streams := { units.streams with ctx := [(0, { st := .running, desc := 8, rood := 0, pid := 1, admitStamp := 0,
                                                                               body := { stream0 with dstAddr := 0x10F010000 } })] } };
      coreRuns s 15 3 = true ∧ (0x10000#64).toNat % 128 = 0 ∧ ringRead s (scratchBase 15 + (0x10000#64).toNat) 128 = .stall) ∧
    (let s := { coreIs id with streams := { units.streams with poison := [(0x10F010000, 4096, Sts.squashed)] } };
      coreRuns s 15 3 = true ∧ ringRead s (scratchBase 15 + (0x10000#64).toNat) 128 = .poisoned Sts.squashed) := by decide +kernel

/-! ### Witnesses: spares, Firkin engines, base range entries -/

def modeOf (m : UnitMode) : State := { units with clusters := units.clusters.modify 15 fun k => { k with mode := m } }
def engMode (m : UnitMode) : State :=
  { units with stks := units.stks.modify 7 fun k => { k with engines := k.engines.modify 3 fun g => { g with mode := m } } }

theorem witness_sparesTakeOver :
    (((modeOf .active).clusters[15]?).map (·.mode) = some .active ∧ spareFree (modeOf .active) = true) ∧
    spareFree { modeOf .active with spareCluster := { st := .failed } } = false ∧ spareFree (modeOf .substituting) = false ∧
    (((modeOf .substituting).clusters[15]?).map (·.mode) = some .substituting ∧ atFurlong (modeOf .substituting) = true ∧
      atFurlong (atTime 4 (modeOf .substituting)) = false) ∧
    (((engMode .active).stks[7]?).map fun k => (k.spare, (k.engines[3]?).map (·.mode))) = some (.ready, some .active) ∧
    ((({ engMode .active with stks := (engMode .active).stks.map fun k => { k with spare := .inUse } } : State).stks[7]?).map (·.spare)) = some .inUse ∧
    (((engMode .substituting).stks[7]?).bind fun k => (k.engines[3]?).map (·.mode)) = some .substituting := by decide +kernel

/-- Engine 3 of stack 0 runs a pass. -/
def passDesc : Desc := { queued (coreDesc (.firkin firkin0)) with stage := .started }
def engine0 (f : Engine → Engine) : State :=
  withDesc passDesc { units with stks := units.stks.modify 0 fun k => { k with engines := k.engines.modify 3 fun g => f { g with run := some 9 } } }
def eng3 : Engine := { phys := 3, rood := some 0, run := some 9 }

theorem witness_firkinPasses :
    (((engine0 id).stks[0]?).map (·.engines[3]?) = some (some eng3) ∧ eng3.run = some 9 ∧ tfind 9 (engine0 id).descs = some passDesc ∧
      passDesc.body = .firkin firkin0 ∧ passDesc.result = none ∧ Memory.wf 0 (engine0 id).mem = true ∧ eng3.acc = none ∧ eng3.haltedAt = none ∧
      eng3.mode = .active ∧ ringReads (engine0 id) (firkinInputs firkin0) = .ready ∧ (regionAt (engine0 id) firkin0.wAddr).isSome = true ∧
      (∀ k ∈ (engine0 id).stks, ∀ a ∈ panelBushels firkin0, a ∉ k.bad ∧ tfind a k.errs = none)) ∧
    (0x1000000000 ∈ panelBushels firkin0 ∧
      ∀ k ∈ ({ engine0 id with stks := (engine0 id).stks.map fun k => { k with bad := [0x1000000000] } } : State).stks, ∃ a ∈ panelBushels firkin0, a ∈ k.bad) ∧
    (let f (g : Engine) : Engine := { g with acc := some [0] };
      ((engine0 f).stks[0]?).map (·.engines[3]?) = some (some (f eng3)) ∧ (f eng3).acc = some [0] ∧ deadlineRod passDesc = none ∧
        passDesc.src = .core 15 3 ∧ 4 * firkinCols firkin0 ≤ firkin0.outStride ∧ ([0] : List F32).length = firkin0.b * firkinCols firkin0 ∧
        ∀ i ∈ List.range firkin0.b, onRing (engine0 f) (firkin0.outAddr + i * firkin0.outStride) (4 * firkinCols firkin0) = false) ∧
    (let s : State := { engine0 id with stks := (engine0 id).stks.map fun k => { k with errs := [(0x1000000000, true)] } };
      ∀ k ∈ s.stks, (∀ a ∈ panelBushels firkin0, a ∉ k.bad) ∧
        (panelBushels firkin0).find? (fun b => (tfind b k.errs).isSome) = some 0x1000000000) ∧
    (let f (g : Engine) : Engine := { g with acc := some [0] };
      let h (g : Engine) : Engine := { g with acc := some [0], accepted := [8, 9] };
      completesAfter (engine0 f) 9 passDesc = false ∧ recordsBefore (engine0 f) 9 passDesc ⟨Sts.ok, 0, (engine0 f).time.now⟩ = false ∧
        completesAfter (engine0 h) 9 passDesc = true) ∧
    (placeOf 0x1000000000 1 = .stk 0 0 ∧ (regionAt (engine0 id) 0x1000000000).map backed = some true) ∧
    (eng3.rerun = false ∧ ({ eng3 with rerun := true }).rerun = true) ∧
    (0x1000000FFF / 4096 * 4096 ∈ panelBushels firkin0 ∧ 0x1000001000 / 4096 * 4096 ∉ panelBushels firkin0) := by decide +kernel

/-- Cluster c is absent. -/
def absent (c : Nat) (s : State) : State := { s with clusters := s.clusters.modify c fun k => { k with mode := .absent } }
def pausedStack (s : State) : State := { s with stks := s.stks.modify 0 fun k => { k with pauseUntil := 4 } }

theorem witness_firkinPasses_holds :
    (stackPaused (engine0 id) 0 = false ∧ stackPaused (pausedStack (engine0 id)) 0 = true ∧ onAbsent (engine0 id) (firkinInputs firkin0) = false ∧
      onAbsent (absent 0 (engine0 id)) (firkinInputs firkin0) = true ∧ ((absent 0 (engine0 id)).stks[0]?).map (·.engines[3]?) = some (some eng3)) ∧
    (let f (g : Engine) : Engine := { g with acc := some [0], haltedAt := some 0x1000000000 };
      ((engine0 f).stks[0]?).map (·.engines[3]?) = some (some (f eng3)) ∧ (f eng3).haltedAt ≠ none) ∧
    (let f (g : Engine) : Engine := { g with acc := some [0] };
      (f eng3).haltedAt = none ∧ stackPaused (engine0 f) 0 = false ∧ stackPaused (pausedStack (engine0 f)) 0 = true ∧
        onAbsent (engine0 f) (firkinOutputs firkin0) = false ∧ onAbsent (absent 0 (engine0 f)) (firkinOutputs firkin0) = true) ∧
    ((regionAt (engine0 id) 0x1000000FFF).map (blockHolds · (0x1000000FFF / 4096 * 4096)) = some [0x1000000FFF / 4096 * 4096]) := by decide +kernel

theorem witness_baseRangeEntries :
    (let l : LockEntry := { st := .locking, base := 0x1000000000, size := 1 };
      let s := { units with stks := units.stks.modify 7 fun k => { k with locks := k.locks.set 7 l } };
      (s.stks[7]?).map (·.locks[7]?) = some (some l) ∧ l.st = .locking) ∧
    (let l : LockEntry := { st := .releasing };
      let s := { units with stks := units.stks.modify 7 fun k => { k with locks := k.locks.set 7 l } };
      (s.stks[7]?).map (·.locks[7]?) = some (some l) ∧ l.st = .releasing ∧ l.holds = 0 ∧ l.passes = 0) ∧
    (let l : LockEntry := { st := .releasing, holds := 1 }; l.st ≠ .releasing ∨ l.holds ≠ 0 ∨ l.passes ≠ 0) ∧
    (let l : LockEntry := { st := .releasing, passes := 1 }; l.st ≠ .releasing ∨ l.holds ≠ 0 ∨ l.passes ≠ 0) := by decide +kernel

/-! ### Witnesses: streams, the stack tier and the flash tier -/

/-- Rood 0 with room for one more context; the stream descriptor heads the stream queue. -/
def streaming (b : StreamBody) : State :=
  let s := withDesc (queued (descOf (.stream b))) units
  { s with
    roods := s.roods.modify 0 fun k => { k with res := { qCtx := 1 } }
    streams := { s.streams with queue := [9] }
    flash := { s.flash with ns := [(0, { size := 1, keyValid := true })] } }

theorem witness_streamsStart :
    (Instr.streamContextStart, [0, 1, 2]) ∈ [(Instr.loadStream, [0]), (.storeStream, [1]), (.moveStream, [2]), (.streamContextStart, [0, 1, 2])] ∧
    ((∀ b ∈ [stream0, { stream0 with op := 1, srcTier := 0, srcAddr := 0x100010000, dstTier := 1, dstAddr := 0x1000000000 },
        { stream0 with op := 2, dstTier := 2, dstAddr := flashBase }],
      let s := streaming b;
      let e := queued (descOf (.stream b));
      tfind 9 s.descs = some e ∧ e.body = .stream b ∧ b.op ∈ [0, 1, 2] ∧ startReady s 9 e = true ∧
        firstBelow 1024 (fun x => (tfind x s.streams.ctx).isNone) = some 0 ∧
        (s.streams.ctx.filter fun k => k.2.rood == e.rood).length < (match s.roods[e.rood]? with | some r => r.res.qCtx | none => 0) ∧
        inTier b.srcTier b.srcAddr = true ∧ inTier b.dstTier b.dstAddr = true ∧ b.srcTier ≠ 3 ∧ startChecks s e.rood b = Sts.ok) ∧
    (let b := { stream0 with dstAddr := 0x1000000000 };
      startReady (streaming b) 9 (queued (descOf (.stream b))) = true ∧ inTier b.dstTier b.dstAddr = false)) := ⟨by simp, by decide +kernel⟩

/-- A context of descriptor 9 under number 1023. -/
def ctx0 : Ctx := { st := .running, desc := 9, rood := 0, pid := 1, body := stream0, admitStamp := 0 }
def inCtx (k : Ctx) : State :=
  let s := withDesc { queued (descOf (.stream k.body)) with stage := .started } units
  { s with
    streams := { s.streams with ctx := [(1023, k)] }
    stks := s.stks.map fun k => { k with regions := [(0, { start := 0x1000000000, len := 1, kind := 1, fmt := 0, rood := 0, backing := 0 })] } }

def asked : Ctx := { ctx0 with requested := [1] }

theorem witness_streamsMove_read : readSource (inCtx asked) asked 1 = .got none (rdBytes (inCtx asked) 0x1000001000 4096) ∧
    (rdBytes (inCtx asked) 0x1000001000 4096).length = 4096 := by
  refine ⟨?_, by simp [rdBytes, cellGets]⟩
  have h1 : placeOf (srcOf asked 1) 4096 = .stk 0 4096 := by decide +kernel
  have h2 : regionAt (inCtx asked) (srcOf asked 1) = some { start := 0x1000000000, len := 1, kind := 1, fmt := 0, rood := 0, backing := 0 } := by
    decide +kernel
  have h3 : ((inCtx asked).stks.getD 0 {}).bad = [] ∧ ((inCtx asked).stks.getD 0 {}).errs = [] := by decide +kernel
  have h4 : asked.body.srcTier = 1 := rfl
  unfold readSource
  simp only [h1, h2, h3.1, h3.2, h4]
  rfl

/-- Context 4 is a LOAD into the same ring. -/
def twoRings : State := { inCtx asked with streams := { (inCtx asked).streams with ctx := [(4, ctx0), (1023, asked)] } }

theorem witness_streamsMove_rings : tfind 1023 twoRings.streams.ctx = some asked ∧
    onOtherRing twoRings 1023 (asked.body.dstAddr + 4096 * (1 % ringSlots asked.body)) 4096 = true ∧
    Machine.clusterAbsent twoRings 0 = false := by decide +kernel

theorem witness_streamsMove_rings_read : readSource twoRings asked 1 = .got none (rdBytes twoRings 0x1000001000 4096) ∧
    (rdBytes twoRings 0x1000001000 4096).length = 4096 := by
  refine ⟨?_, by simp [rdBytes, cellGets]⟩
  have h1 : placeOf (srcOf asked 1) 4096 = .stk 0 4096 := by decide +kernel
  have h2 : regionAt twoRings (srcOf asked 1) = some { start := 0x1000000000, len := 1, kind := 1, fmt := 0, rood := 0, backing := 0 } := by
    decide +kernel
  have h3 : (twoRings.stks.getD 0 {}).bad = [] ∧ (twoRings.stks.getD 0 {}).errs = [] := by decide +kernel
  have h4 : asked.body.srcTier = 1 := rfl
  unfold readSource
  simp only [h1, h2, h3.1, h3.2, h4]
  rfl

theorem witness_streamsMove :
    (tfind 1023 (inCtx ctx0).streams.ctx = some ctx0 ∧ Memory.wf 0 (inCtx ctx0).mem = true ∧ portPick (inCtx ctx0) 0 = some (1023, ctx0) ∧
      portPick (inCtx ctx0) 10 = none ∧ 512 ≤ outstanding (inCtx { ctx0 with requested := List.range 512 }) 0) ∧
    (1 ∈ asked.requested ∧ asked.st ≠ .halted ∧ asked.body.srcTier ≠ 3 ∧ asked.body.op = 0 ∧
      placeOf asked.body.dstAddr 1 = .scratch 0 0x10000 ∧ Machine.clusterAbsent (inCtx asked) 0 = false ∧ tfind (1 % ringSlots asked.body) asked.slots = none ∧
      scaleSlot asked.body.fmt = 0 ∧ onOtherRing (inCtx asked) 1023 (asked.body.dstAddr + 4096 * (1 % ringSlots asked.body)) 4096 = false) ∧
    (let k := { asked with slots := [(1, .filled)] }; tfind (1 % ringSlots k.body) k.slots ≠ none) ∧
    (let k := { ctx0 with placed := [0], slots := [(0, .filled)], linesRead := [(0, 2 ^ 64 - 1)] };
      slotReleasable (inCtx k) k 0 = true ∧ slotReleasable (inCtx k) k 1 = false) ∧
    (let s := { units with streams := { units.streams with buckets := [(79, { pending := true, written := 0x1000000001 })] } };
      (bucketOf s 15 4).pending = true ∧ atFurlong s = true ∧ atFurlong (atTime 4 s) = false) := by decide +kernel

theorem witness_streamsEnd :
    (let k := { ctx0 with st := .closing, placed := [0, 1] };
      let s := inCtx k;
      tfind 1023 s.streams.ctx = some k ∧ (tfind k.desc s.descs).isSome = true ∧ (∀ e ∈ s.descs, e.2.result = none) ∧ k.st = .closing ∧
        k.ended = false ∧ k.placed.length = k.body.bushels) ∧
    ctx0.st ≠ .closing ∧
    (let k := { ctx0 with requested := [1], body := { stream0 with srcTier := 2, srcAddr := flashBase } };
      1 ∈ k.requested ∧ k.st ≠ .halted ∧ HaltCause.flashUnstaged ∈ [HaltCause.flashUnstaged, .flashUncorrectable] ∧ k.body.srcTier = 2) ∧
    (let k := { ctx0 with requested := [1] };
      let g : Region := { start := 0x1000000000, len := 1, kind := 2, fmt := 0, rood := 0, backing := 0 };
      let s := { inCtx k with stks := (inCtx k).stks.map fun q => { q with regions := [(0, g)] } };
      1 ∈ k.requested ∧ k.st ≠ .halted ∧ k.body.srcTier = 1 ∧ regionAt s (srcOf k 1) = some g ∧ g.kind = 2) ∧
    (let k := { ctx0 with st := .halted, fault := some (.stackUncorrectable, 0, 0x1000000000) };
      let good := { inCtx k with stks := units.stks };
      let bad := { inCtx k with stks := units.stks.map fun q => { q with errs := [(0x1000000000, false)] } };
      k.st = .halted ∧ k.ended = false ∧ haltResolved good k = true ∧ haltResolved bad k = false) := by decide +kernel

/-- The region's errors: none, and the first bushel, which holds zeros, with a good copy. -/
def erred : State :=
  { units with
    bushels := [(0x1000000000, meta0)]
    stks := units.stks.modify 0 fun k => { k with
      errs := [(0x1000000000, true)]
      regions := [(0, { start := 0x1000000000, len := 1, kind := 3, fmt := 3, rood := 0, backing := 1 })] } }

theorem witness_stackErrors :
    (0x1000000000 % 4096 = 0 ∧ placeOf 0x1000000000 1 = .stk 0 0 ∧ (regionAt units 0x1000000000).map backed = some true ∧
      Memory.wf 0 units.mem = true ∧ ∀ k ∈ units.stks, tfind 0x1000000000 k.errs = none) ∧
    (outerCorrects (2 ^ 63) [63] [(62, 4)] = true ∧ outerCorrects (2 ^ 63) [63] [(62, 5)] = false ∧ outerCorrects 0 [0, 1] [(0, 4), (1, 4)] = true ∧
      outerCorrects 0 [0] [(0, 9)] = false) ∧
    ((∀ g ∈ regionAt units 0x1000000000, ∀ b ∈ blockHolds g 0x1000000000, ∀ k ∈ units.stks, tfind b k.errs = none ∧ b ∉ k.bad) ∧
      (regionAt units 0x1000000000).isSome = true) ∧
    ((erred.stks[0]?).map fun k => tfind 0x1000000000 k.errs) = some (some true) ∧
    ((regionAt erred 0x1000000000).map fun g => (backed g, g.fmt)) = some (true, meta0.fmt) ∧
    ((regionAt units 0x1000000000).map (·.kind) = some 3 ∧ ∀ k ∈ units.stks, k.bad = []) ∧
    (let k := { stk0 with pchHits := List.replicate 16 (63, 0) };
      63 < 64 ∧ stk0.pchFailed.testBit 63 = false ∧ (2 ^ 63).testBit 63 = true ∧ 16 ≤ pchRecent k 63 0 ∧ pchRecent k 63 4000000000 < 16) := by decide +kernel

theorem witness_recoveryWrite :
    (metaOfImage image0).fmt = 3 ∧ (dataOfImage image0).length = 4096 ∧
      bushelCrc (metaOfImage image0) (dataOfImage image0) = (metaOfImage image0).checksum ∧
      writeCheck erred .recovery 0x1000000000 4096 = .ok ∧ lockMeets erred 0x1000000000 4096 ≠ none ∧
      recovered erred 0x1000000000 (metaOfImage image0) (dataOfImage image0) = some meta0 ∧
      recovered erred 0x1000000000 (metaOfImage [0]) (dataOfImage [0]) = none :=
  ⟨by rw [image_meta]; rfl, by rw [image_data, List.length_replicate], image_crc_ok, by decide +kernel, by decide +kernel,
    by rw [image_meta, image_data]; exact recovers_of _ _ rfl (by decide +kernel),
    not_recovered _ _ _ _ (by decide +kernel) (by decide +kernel)⟩

/-- An image of a wrong checksum. -/
theorem witness_recoveryWrite_bad : bushelCrc (metaOfImage [0]) (dataOfImage [0]) ≠ (metaOfImage [0]).checksum := by decide +kernel

theorem witness_flashTier :
    (99 < 100 ∧ up.flash.mode = 0 ∧ 100 ≤ 100) ∧
    (let s := { up with flash := { up.flash with rdDisturb := 5, reads := [(3, 5), (4, 4)] } };
      s.flash.rdDisturb ≤ tgetD 3 0 s.flash.reads ∧ tgetD 4 0 s.flash.reads < s.flash.rdDisturb) ∧ (0 ≠ up.flash.spareDie ∧ up.flash.spareInUse = false ∧ up.flash.spareFailed = false) ∧
    (31 = up.flash.spareDie ∧ up.flash.spareInUse = false) ∧
    (let s := { up with flash := { up.flash with spareInUse := true } }; s.flash.spareInUse = true ∧ s.flash.mode = 0) ∧
    (let s := { up with flash := { up.flash with ns := [(15, { erasing := true, eraseGiB := 8 })] } }; (nsOf s 15).erasing = true) ∧
    (nsOf up 15).erasing = false := by decide +kernel

/-! ### Witnesses: base models and adapters -/

/-- The roods of a module whose rood 0 holds a command, its base command and its epochs. -/
def holding (c : Cmd) (b : Option BaseCmd) (es : List Epoch) : List Rood :=
  { st := .active, mdl := { outstanding := [c] }, baseCmd := b, epochs := es, peers := [(0, (4095, 15))], res := { slotFirst := 2, slotCount := 4 } } ::
    List.replicate 15 {}
def epoch9 (st : EpochState) : Epoch := { num := 9, st := st, baseId := 5, experts := 0, stages := [0, 4095] }
def epoch8 : Epoch := { num := 8, st := .current, baseId := 5, experts := 0, stages := [0] }
/-- A base command of epoch 9 that takes effect at rod count 0. -/
def base9 (code : Nat) : BaseCmd := { seq := 5, code := code, tag := 0, epoch := 9 }
/-- A model command of a code for epoch 9 and adapter 7, in slot 3 of PID 1. -/
def forEpoch (code : Nat) : Cmd :=
  cmdOf (leBytes 1 code ++ leBytes 3 0 ++ leBytes 8 1 ++ leBytes 4 9 ++ leBytes 8 0 ++ leBytes 8 7 ++ leBytes 8 0 ++ leBytes 2 3)
/-- Rood 0 with these, in a module whose ranges of stack 0 belong to epochs 8 and 9. -/
def based (c : Cmd) (b : Option BaseCmd) (es : List Epoch) : State :=
  { units with
    roods := holding c b es
    stks := units.stks.modify 0 fun k => { k with
      locks := { st := .locked, base := 0x1000000000, size := 1, readers := 1, epoch := 8 } :: List.replicate 7 {} } }

theorem epochIs_of {r n : Nat} {st : EpochState} {s : State} (h : (epochOf s r n).map (·.st) = some st) : EpochIs r n st s := by
  unfold EpochIs
  cases e : epochOf s r n <;> simp_all

theorem next_load (d : List Byte) : nextCmd (roomyOf (holding (loadCmd 1 d) none [])) .model 0 0x01 = some (loadCmd 1 d) := rfl

theorem manifest_missing (k : List Rood) (code : Nat) (hc : code = 1 ∨ code = 3 ∨ code = 5) :
    readManifest (roomyOf k) 0 (modelCmd (loadBytes code loadHash)) load0 = .inl Sts.baseShardMissing := by
  obtain ⟨h1, hq, -⟩ := load_fields code loadHash hc
  have hi : manifestFrom (roomyOf k) 0 (modelCmd (loadBytes code loadHash)) load0 1 = none := by
    unfold manifestFrom
    rw [if_neg (by decide), if_pos (roomy_store _ _ hq)]
    rfl
  simp [readManifest, h1, sourcesOf, hi]

theorem witness_baseCommands_load : nextCmd (roomyOf (holding (loadCmd 1 loadHash) none [])) .model 0 0x01 = some (loadCmd 1 loadHash) ∧
    LoadPasses 0 (modelCmd (loadCmd 1 loadHash).bytes) loadWorld (manifest0 shardSum) (roomyOf (holding (loadCmd 1 loadHash) none [])) ∧
    readManifest (roomyOf (holding (loadCmd 1 loadHash) none [])) 0 (modelCmd (loadCmd 1 loadHash).bytes) load0 = .inl Sts.baseShardMissing :=
  ⟨next_load _, load_passes _ 1 (.inl rfl), manifest_missing _ 1 (.inl rfl)⟩

theorem witness_baseCommands :
    ((let s := based (forEpoch 2) none [epoch9 .ready, epoch8];
      nextCmd s .model 0 0x02 = some (forEpoch 2) ∧ (epochOf s 0 (modelCmd (forEpoch 2).bytes).epoch).map (·.st) = some .ready) ∧
    (let s := based (forEpoch 2) none [epoch8];
      nextCmd s .model 0 0x02 = some (forEpoch 2) ∧ epochOf s 0 (modelCmd (forEpoch 2).bytes).epoch = none) ∧
    (let s := based (forEpoch 3) none [epoch8]; nextCmd s .model 0 0x03 = some (forEpoch 3)) ∧
    (let s := based (forEpoch 2) (some (base9 2)) [epoch9 .ready, epoch8];
      epochOf s 0 9 = some (epoch9 .ready) ∧ reached s 0 = true ∧ reached s 40 = false ∧ currentEpoch s 0 = some epoch8 ∧
        ((s.stks.getD 0 {}).locks[0]?).map (fun l => (l.rood, l.epoch, l.st)) = some (0, 8, .locked)) ∧
    (let s := based (forEpoch 4) none [epoch9 .ready, epoch8];
      nextCmd s .model 0 0x04 = some (forEpoch 4) ∧ epochOf s 0 (modelCmd (forEpoch 4).bytes).epoch = some (epoch9 .ready)) ∧
    (let s := based (forEpoch 4) none [epoch9 .draining, epoch8];
      (epochOf s 0 9).map (·.st) = some .draining ∧ ∀ k ∈ s.stks, ∀ l ∈ k.locks, l.rood = 0 → l.epoch = 9 → l.st = .free)) := by
  decide +kernel

/-- A bushel of the range of epoch 9 has no good copy, and a repair of that epoch from the store waits. -/
def toRepair : State :=
  { units with
    eth := { units.eth with qps := [(0, storeQp0)] }
    bushels := [(0x1000000000, meta0)]
    roods := holding (loadCmd 5 loadHash) none [epoch9 .current]
    stks := units.stks.modify 0 fun k => { k with
      bad := [0x1000000000]
      regions := [(0, { start := 0x1000000000, len := 1, kind := 3, fmt := 3, rood := 0, backing := 1 })]
      locks := { st := .locked, base := 0x1000000000, size := 1, readers := 1, epoch := 9 } :: List.replicate 7 {} } }
def baseRegion : Region := { start := 0x1000000000, len := 1, kind := 3, fmt := 3, rood := 0, backing := 1 }

theorem repair_recovers : recovered toRepair 0x1000000000 meta0 (List.replicate 4096 0) = some meta0 :=
  recovers_of toRepair 0x1000000000 rfl (by decide +kernel)

theorem repairCopy_of (s : State) (r : Nat) (c : ModelCmd) (w : LoadWorld) (a i : Nat) (g : Region) (m : Manifest) (e : ShardEntry)
    (x : ShardImage) (im : List Byte) (h : Meta) (hs : c.source = 1) (hm : readManifest s r c w = .inr m)
    (he : (((List.range m.entries.length).zip m.entries).find? fun e =>
      e.2.position == s.fab.pos && e.2.dest ≤ a && a < e.2.dest + e.2.len * unit2M) = some (i, e))
    (hq : storeUsable s r c.storeQp = true) (hx : (w.shards.find? fun x => x.source == 1 && x.entry == i) = some x)
    (hi : x.images[(a - e.dest) / 4096]? = some im) (hf : (metaOfImage im).fmt = g.fmt)
    (hc : bushelCrc (metaOfImage im) (dataOfImage im) = (metaOfImage im).checksum)
    (hr : recovered s a (metaOfImage im) (dataOfImage im) = some h) : repairCopy s r c w g a = some im := by
  have hcs : { c with source := 1 } = c := by cases c; simp_all
  simp [repairCopy, hs, sourcesOf, hcs, hm, he, hq, hx, hi, hc, hr, hf]

theorem repair_copy : repairCopy toRepair 0 (modelCmd (loadBytes 5 loadHash)) loadWorld baseRegion 0x1000000000 = some image0 := by
  obtain ⟨h1, hq, -⟩ := load_fields 5 loadHash (.inr (.inr rfl))
  refine repairCopy_of _ _ _ _ _ 0 _ _ (entry0 shardSum) ⟨1, 0, shardImages⟩ _ meta0 h1
    (load_manifest toRepair [] 5 (.inr (.inr rfl)) rfl) rfl (by rw [hq]; rfl) world_shards rfl (by rw [image_meta]; rfl) image_crc_ok ?_
  rw [image_meta, image_data]
  exact repair_recovers

theorem repair_waits : nextCmd toRepair .model 0 0x05 = some (loadCmd 5 loadHash) := rfl

theorem witness_baseRepair : nextCmd toRepair .model 0 0x05 = some (loadCmd 5 loadHash) ∧
    epochOf toRepair 0 (modelCmd (loadBytes 5 loadHash)).epoch = some (epoch9 .current) ∧
    (∀ i < 8, ∀ a ∈ (toRepair.stks.getD i {}).bad, placeOf a 1 = .stk i 0) ∧ Memory.wf 0 toRepair.mem = true ∧
    badBushels toRepair 0 (modelCmd (loadBytes 5 loadHash)).epoch = [0x1000000000] ∧
    regionAt toRepair 0x1000000000 = some baseRegion ∧
    repairCopy toRepair 0 (modelCmd (loadBytes 5 loadHash)) loadWorld baseRegion 0x1000000000 ≠ none := by
  obtain ⟨-, -, -, h9⟩ := load_fields 5 loadHash (.inr (.inr rfl))
  refine ⟨repair_waits, by rw [h9]; rfl, by decide +kernel, by decide +kernel, by rw [h9]; decide +kernel, by decide +kernel, ?_⟩
  rw [repair_copy]
  exact Option.some_ne_none _

theorem swap_seq (d : List Byte) (b : BaseCmd) (es : List Epoch) :
    cmdBySeq (roomyOf (holding (loadCmd 3 d) (some b) es)) .model 0 5 = some (loadCmd 3 d) := rfl

theorem witness_baseSwaps_load :
    (let b := { base9 3 with pausedAt := some 0 };
      let s := roomyOf (holding (loadCmd 3 loadHash) (some b) [epoch8]);
      s.roods[0]?.map (·.baseCmd) = some (some b) ∧ b.code = 3 ∧ b.pausedAt ≠ none ∧ b.loaded = false ∧
      (∀ e ∈ [epoch8], e.st ≠ .draining ∧ e.num ≠ b.epoch) ∧ cmdBySeq s .model 0 b.seq = some (loadCmd 3 loadHash) ∧
      LoadPasses 0 (modelCmd (loadCmd 3 loadHash).bytes) loadWorld (manifest0 shardSum) s ∧
      readManifest s 0 (modelCmd (loadCmd 3 loadHash).bytes) load0 = .inl Sts.baseShardMissing) :=
  ⟨rfl, rfl, by decide, rfl, by decide, swap_seq _ _ _, load_passes _ 3 (.inr (.inl rfl)), manifest_missing _ 3 (.inr (.inl rfl))⟩

/-- A control packet of a peer in rood 0 of this module. -/
def control (sub : Nat) (data : List Byte) : Packet := { pkt0 with typ := 6, ext := sub, dst := 0, dstRood := 0, data := data }

/-- Another module's report that the swap to epoch 9 failed there. -/
theorem witness_baseSwaps_report : let b := base9 3;
    let s := based (forEpoch 3) (some b) [epoch8];
    let p := control 0x12 (leBytes 8 0 ++ leBytes 4 9 ++ leBytes 4 0 ++ leBytes 1 Sts.timeout);
    ControlHere p 0x12 s ∧ (s.roods[p.dstRood]?).map (·.baseCmd) = some (some b) ∧ b.code = 3 ∧ b.pausedAt = none ∧ field p.data 0 8 = 0 ∧
      b.epoch = field p.data 8 4 ∧ field p.data 16 1 ∉ [Sts.stageLost, Sts.baseNotLoaded] := by
  unfold ControlHere ArrivesHere
  decide +kernel

theorem witness_baseSwaps :
    ((let b := base9 3;
      let s := based (forEpoch 3) (some b) [epoch8];
      reached s b.flipAt = true ∧ b.pausedAt = none ∧ b.failed = none ∧ currentEpoch s 0 = some epoch8 ∧ { b with failed := some 5 }.failed ≠ none) ∧
    (let b := base9 3;
      let p := control 0x12 (leBytes 8 0 ++ leBytes 4 9 ++ leBytes 4 0 ++ leBytes 1 Sts.baseDigestMismatch);
      let s := based (forEpoch 3) (some b) [epoch8];
      ControlHere p 0x12 s ∧ b.pausedAt = none ∧ field p.data 0 8 = 0 ∧ b.epoch = field p.data 8 4 ∧
        field p.data 16 1 ∉ [Sts.stageLost, Sts.baseNotLoaded]) ∧
    (let s := based (forEpoch 3) (some { base9 3 with pausedAt := some 0, resumeAt := some 0 }) [epoch9 .ready];
      reached s 0 = true ∧ reached s 40 = false ∧ epochOf s 0 9 = some (epoch9 .ready)) ∧
    (let b := { base9 3 with pausedAt := some 0, loaded := true };
      let e := epoch9 .ready;
      let p := control 0x11 (leBytes 4 9);
      let s := based (forEpoch 3) (some b) [e];
      ControlHere p 0x11 s ∧ b.epoch = field p.data 0 4 ∧ epochOf s p.dstRood b.epoch = some e ∧ e.stages.head? = some s.fab.pos ∧
        b.resumeAt = none ∧ ∀ x ∈ e.stages, x = s.fab.pos ∨ x = p.src ∨ x ∈ b.stagesReady) ∧
    (let b := { base9 3 with pausedAt := some 0, loaded := true };
      ∀ x ∈ [(0, true), (40, false)],
        let p := control 0x13 (leBytes 16 9 ++ leBytes 6 x.1 ++ leBytes 2 0);
        let s := based (forEpoch 3) (some b) [epoch9 .ready];
        ControlHere p 0x13 s ∧ b.epoch = field p.data 0 4 ∧ epochOf s p.dstRood b.epoch = some (epoch9 .ready) ∧
          reached s (field p.data 16 6 + 2 ^ 48 * field p.data 22 2) = x.2)) := by
  unfold ControlHere ArrivesHere
  decide +kernel

/-- The directory entry of adapter 7: slot 3, version 1, of the store, with an image of this digest. -/
def entry7 (h : Nat) : DirEntry :=
  { pid := 1, baseId := 5, slot := 3, expert := none, source := 1, flashOffset := 0, remoteAddr := 0, version := 1, digest := h }
/-- Adapter 7 stands in the directory of rood 0, which has an ADAPTER region of one unit in stack 1. -/
def adapted (c : Cmd) (h : Nat) (k : Slot) : State :=
  { units with
    eth := { units.eth with qps := [(0, storeQp0)] }
    roods := (holding c none [epoch9 .current]).modify 0 fun r => { r with dir := [(7, entry7 h)] }
    stks := units.stks.modify 1 fun k => { k with
      regions := [(0, { start := 0x2000000000, len := 1, kind := 4, fmt := 3, rood := 0, backing := 1 })] }
    slices := [(0, slice0)]
    slots := [(3, k)]
    cache := [(0, { rood := 0, slot := 3, gen := 0, version := 1 })] }

theorem entry7_digest (h : Nat) : (entry7 h).digest = h := rfl

theorem adapterImage_of (s : State) (r : Nat) (d : DirEntry) (im : List Byte) (hs : d.source = 1) (hq : storeUsable s r d.storeQp = true)
    (hc : bushelCrc (metaOfImage im) (dataOfImage im) = (metaOfImage im).checksum) (hd : leNat (sha [im].flatten) = d.digest) :
    adapterImage s r d [im] = some [im] := by
  simp only [List.flatten_cons, List.flatten_nil, List.append_nil] at hd
  simp [adapterImage, hs, sourcesOf, sourceGood, adapterFrom, hq, imageGood, hc, hd]

theorem adapted_room (h : Nat) : (let s := adapted (forEpoch 0x10) h { rood := 0, adapter := some 7 };
    usedUnits s 0 + (max 1 ((4352 + unit2M - 1) / unit2M) - 1) ≤ adapterUnits s 0 ∧ placeShard s 0 3 1 = some 0x2000000000) := by
  have g : (let s := adapted (forEpoch 0x10) 0 { rood := 0, adapter := some 7 };
      usedUnits s 0 + (max 1 ((4352 + unit2M - 1) / unit2M) - 1) ≤ adapterUnits s 0 ∧ placeShard s 0 3 1 = some 0x2000000000) := by
    decide +kernel
  exact g

theorem witness_adapterEntryResident :
    (let k : Slot := { rood := 0, adapter := some 7 };
      let d := entry7 (leNat (sha [image0].flatten));
      let s := adapted (forEpoch 0x10) (leNat (sha [image0].flatten)) k;
      tfind 3 s.slots = some k ∧ cacheFind s 3 k.gen 1 = some (0, { rood := 0, slot := 3, gen := 0, version := 1 }) ∧ k.adapter = some 7 ∧
      dirOf s k.rood 7 = some d ∧ adapterImage s k.rood d [image0] = some [image0] ∧
      usedUnits s k.rood + (max 1 ((([image0].map List.length).foldl (· + ·) 0 + unit2M - 1) / unit2M) - 1) ≤ adapterUnits s k.rood ∧
      placeShard s k.rood (metaOfImage ([image0].getD 0 [])).fmt [image0].length = some 0x2000000000) ∧
    (let k : Slot := { rood := 0, adapter := some 7 };
      let s := adapted (forEpoch 0x10) 0 k;
      tfind 3 s.slots = some k ∧ k.adapter = some 7 ∧ dirOf s k.rood 7 = some (entry7 0) ∧ adapterImage s k.rood (entry7 0) [] = none) := by
  refine ⟨⟨rfl, rfl, rfl, rfl, adapterImage_of _ _ _ _ rfl rfl image_crc_ok (entry7_digest _).symm, ?_, ?_⟩, by decide +kernel⟩
  · have h : ([image0].map List.length).foldl (· + ·) 0 = 4352 := by simp [image_bytes]
    rw [h]
    exact (adapted_room _).1
  · show placeShard _ 0 (metaOfImage image0).fmt 1 = _
    rw [image_meta]
    exact (adapted_room _).2

theorem witness_adapterVersions :
    ((let c := forEpoch 0x10;
      let s := adapted c 0 { rood := 0 };
      adapterCmd s 0 0x10 = some c ∧ (modelCmd c.bytes).slot = 3 ∧ (s.slices.any fun e => e.2.pid == (modelCmd c.bytes).pid && e.2.rood == 0) = true ∧
        inTraining s 0 (modelCmd c.bytes).adapter = false ∧ (modelCmd c.bytes).gen = 0 ∧ (slotOf s 0 3).prev = none ∧ (slotOf s 0 3).next = none) ∧
    (let c := cmdOf (leBytes 1 0x10);
      adapterCmd (adapted c 0 { rood := 0 }) 0 0x10 = some c ∧ (modelCmd c.bytes).slot < ((adapted c 0 { rood := 0 }).roods.getD 0 {}).res.slotFirst) ∧
    (let c := forEpoch 0x10;
      let s := { adapted c 0 { rood := 0 } with binds := [(3, { bind0 with cfg := { bind0.cfg with adapter := 7 } })] };
      adapterCmd s 0 0x10 = some c ∧ (modelCmd c.bytes).gen = 0 ∧ inTraining s 0 (modelCmd c.bytes).adapter = true) ∧
    (let c := forEpoch 0x11;
      let s := adapted c 0 { rood := 0, adapter := some 7 };
      adapterCmd s 0 0x11 = some c ∧ (s.roods.getD 0 {}).dir.map (·.1) = [(modelCmd c.bytes).adapter] ∧
        inTraining s 0 (modelCmd c.bytes).adapter = false ∧ (slotOf s 0 3).holds = 0)) := by
  decide +kernel

theorem witness_prefetch :
    ((let p := control 0x10 (leBytes 8 0 ++ leBytes 8 7 ++ leBytes 2 3 ++ leBytes 2 0 ++ leBytes 4 1 ++ leBytes 4 9 ++ leBytes 8 0 ++ leBytes 8 1);
      let s := adapted (forEpoch 0x10) 0 { rood := 0 };
      ControlHere p 0x10 s ∧ epochOf s p.dstRood (field p.data 24 4) = some (epoch9 .current) ∧ field p.data 8 8 ≠ 0 ∧
        (∀ e ∈ s.requests, e.2.remote ≠ some (field p.data 36 8)) ∧ slotUse (slotOf s p.dstRood (field p.data 16 2)) ∈ [.free, .bound] ∧
        slotUse (slotOf (adapted (forEpoch 0x10) 0 { rood := 0, adapter := some 6, holds := 1 }) p.dstRood (field p.data 16 2)) ∈ [.active, .training] ∧
        epochOf { s with roods := holding (forEpoch 0x10) none [] } p.dstRood (field p.data 24 4) = none) ∧
    (let p := control 0x10 (leBytes 8 0 ++ leBytes 8 0 ++ leBytes 8 0 ++ leBytes 4 9 ++ leBytes 8 0 ++ leBytes 8 1);
      let s := adapted (forEpoch 0x10) 0 { rood := 0 };
      ControlHere p 0x10 s ∧ epochOf s p.dstRood (field p.data 24 4) = some (epoch9 .current) ∧ field p.data 8 8 = 0 ∧
        ∀ e ∈ s.requests, e.2.remote ≠ some (field p.data 36 8))) := by
  unfold ControlHere ArrivesHere
  decide +kernel

theorem witness_versionMoves :
    ((let k : Slot := { rood := 0, adapter := some 7, cur := some { version := 1 }, next := some (2, 2 ^ 64 - 1) };
      let s := adapted (forEpoch 0x10) 0 k;
      tfind 3 s.slots = some k ∧ k.training = none ∧ k.prev = none ∧ atFurlong s = true ∧ after 64 s.time.now (2 ^ 64 - 1) = true ∧ after 64 s.time.now 0 = false ∧
        atFurlong (atTime 4 s) = false) ∧
    (∀ n ∈ [0, 1], let k : Slot := { rood := 0, adapter := some 7, prev := some { version := 1, holds := n } };
      tfind 3 (adapted (forEpoch 0x10) 0 k).slots = some k) ∧
    (let k : Slot := { rood := 0, adapter := some 7 }; cacheFind (adapted (forEpoch 0x10) 0 k) 3 k.gen 1 ≠ none ∧
      slotFlash (adapted (forEpoch 0x10) 0 k) 3 = false ∧ (dirOf (adapted (forEpoch 0x10) 0 k) 0 7).map (·.faulted) = some []) ∧
    (let s := adapted (forEpoch 0x10) 0 { rood := 0 };
      let p := control 0x12 (leBytes 8 7 ++ leBytes 8 1 ++ leBytes 1 0);
      let q := control 0x12 (leBytes 8 7 ++ leBytes 8 1 ++ leBytes 1 Sts.stageLost);
      let n := control 0x12 (leBytes 8 0 ++ leBytes 8 1 ++ leBytes 1 Sts.baseNotLoaded);
      ControlHere p 0x12 s ∧ field p.data 16 1 ∉ [Sts.stageLost, Sts.baseNotLoaded] ∧ field p.data 0 8 ≠ 0 ∧ ControlHere n 0x12 s ∧
        field n.data 16 1 = Sts.baseNotLoaded ∧ field n.data 0 8 = 0 ∧ (dirOf s 0 7).map (·.faulted) = some [] ∧ ControlHere q 0x12 s ∧ field q.data 16 1 = Sts.stageLost)) := by
  unfold ControlHere ArrivesHere
  decide +kernel

def bushel0 : FlashBushel := { hdr := meta0, data := List.replicate 4096 0 }

/-- Adapter 7 comes from the flash, whose first slot holds its image. -/
def flashed (h : Nat) : State :=
  let s := adapted (forEpoch 0x10) h { rood := 0, adapter := some 7 }
  { s with
    roods := s.roods.modify 0 fun r => { r with dir := [(7, { entry7 h with source := 0 })] }
    flash := { s.flash with
      ns := [(0, { size := 1, keyValid := true })], slots := [(0, bushel0)] } }

theorem flashHolds_of (s : State) (r : Nat) (e : DirEntry) (im : List Byte) (hi : flashImage s r e (512 * e.units) = [im])
    (hs : e.source = 0) (hc : bushelCrc (metaOfImage im) (dataOfImage im) = (metaOfImage im).checksum)
    (hd : leNat (sha [im].flatten) = e.digest) : flashHolds s r e = true := by
  simp only [List.flatten_cons, List.flatten_nil, List.append_nil] at hd
  simp [flashHolds, hi, hs, sourcesOf, imageGood, hc, hd]

theorem flashImage_one (s : State) (r : Nat) (e : DirEntry) (n : Nat) (v : FlashBushel)
    (h : (List.range n).takeWhile (fun i => flashAccess s r (e.flashOffset / 4096 + i) 1 == Sts.ok &&
      !s.flash.lost.contains (flashKey r (e.flashOffset / 4096 + i)) && (tfind (flashKey r (e.flashOffset / 4096 + i)) s.flash.slots).isSome) = [0])
    (hv : tfind (flashKey r (e.flashOffset / 4096 + 0)) s.flash.slots = some v) : flashImage s r e n = [imageOf v.hdr v.data] := by
  show (List.takeWhile (fun i => flashAccess s r (e.flashOffset / 4096 + i) 1 == Sts.ok &&
      !s.flash.lost.contains (flashKey r (e.flashOffset / 4096 + i)) && (tfind (flashKey r (e.flashOffset / 4096 + i)) s.flash.slots).isSome)
      (List.range n)).filterMap (fun i => (tfind (flashKey r (e.flashOffset / 4096 + i)) s.flash.slots).map fun v => imageOf v.hdr v.data) = _
  rw [h]
  simp only [List.filterMap_cons, hv, List.filterMap_nil, Option.map_some]

theorem image0_image : imageOf meta0 (List.replicate 4096 0) = image0 := by
  have g : headerBytes meta0 meta0.poison ++ leBytes 8 meta0.checksum ++ meta0.sidecar ++
      List.replicate (metaStride meta0.fmt - (headerBytes meta0 meta0.poison ++ leBytes 8 meta0.checksum ++ meta0.sidecar).length) 0 = imageHead := by
    decide +kernel
  exact congrArg (· ++ List.replicate 4096 0) g

theorem flashed_image (h : Nat) : flashImage (flashed h) 0 { entry7 h with source := 0 } 512 = [image0] := by
  rw [← image0_image]
  refine flashImage_one (flashed h) 0 { entry7 h with source := 0 } 512 bushel0 ?_ (show tfind (flashKey 0 (0 / 4096 + 0)) [(0, bushel0)] = some bushel0 from rfl)
  have g : (List.range 512).takeWhile (fun i => flashAccess (flashed 0) 0 ((entry7 0).flashOffset / 4096 + i) 1 == Sts.ok &&
      !(flashed 0).flash.lost.contains (flashKey 0 ((entry7 0).flashOffset / 4096 + i)) &&
      (tfind (flashKey 0 ((entry7 0).flashOffset / 4096 + i)) (flashed 0).flash.slots).isSome) = [0] := by decide +kernel
  exact g

theorem slotFlash_of (s : State) (slot : Nat) (k : Slot) (e : DirEntry) (hk : tfind slot s.slots = some k)
    (he : k.adapter.bind (dirOf s k.rood) = some e) : slotFlash s slot = flashHolds s k.rood e := by
  simp [slotFlash, hk, he]

theorem witness_versionFaulted_flash : slotFlash (flashed (leNat (sha [image0].flatten))) 3 = true := by
  generalize hd : leNat (sha [image0].flatten) = h
  rw [slotFlash_of (flashed h) 3 { rood := 0, adapter := some 7 } { entry7 h with source := 0 } rfl rfl]
  exact flashHolds_of _ 0 _ image0 (flashed_image h) rfl image_crc_ok hd

/-! ### Witnesses: training -/

def cfg1 : BindCfg := { cfg0 with slot := 3, region := 0x2000000000 }
def bindIn (st : BindState) : Bind := { rood := 0, cfg := cfg1, hyper := hyper0, step := 0, st := st, epoch := some 9 }
def slot3 : Slot := { rood := 0, adapter := some 7, training := some 255, cur := some { version := 0 } }

/-- Binding 255 of adapter 7, with its base CURRENT, its slot, a TRAINED region in stack 1, member 1 over link 0, and a training command. -/
def trainedAs (c : Cmd) (e : Epoch) (ks : List Bind) : State :=
  { units with
    roods := { st := .active, trn := { outstanding := [c] }, epochs := [e], peers := [(0, (4095, 15))], res := { slotFirst := 2, slotCount := 4 }
               dir := [(7, { pid := 1, baseId := 5, slot := 3, expert := none, source := 0, flashOffset := 0, remoteAddr := 0, version := 1
                             digest := 0 })] } :: List.replicate 15 {}
    slices := [(0, slice0)]
    slots := [(3, slot3)]
    binds := ks.map fun k => (255, k)
    stks := units.stks.modify 1 fun k => { k with regions := [(0, { start := 0x2000000000, len := 2, kind := 5, fmt := 0, rood := 0, backing := 1 })] }
    links := units.links.modify 0 fun l => { l with st := .up }
    fab := { units.fab with members := [3] }
    mem := [(0x100000040, 1), (0x100000052, 1), (0x100000054, 1)] }
def trained (k : Bind) : State := trainedAs (cmdOf []) (epoch9 .current) [k]

/-- A training command for binding 255 of PID 1. -/
def forBind (code : Nat) (rest : List Byte) : Cmd := cmdOf (leBytes 1 code ++ leBytes 1 255 ++ leBytes 2 0 ++ leBytes 4 1 ++ leBytes 4 0 ++ rest)
/-- A TRAIN_BIND of adapter 7 in slot 3 as stage s. -/
def bindCmd (s : Nat) : Cmd :=
  forBind 0x20 (leBytes 1 s ++ leBytes 3 0 ++ leBytes 8 7 ++ leBytes 2 3 ++ leBytes 2 1 ++ leBytes 2 2 ++ leBytes 2 8 ++ leBytes 2 1 ++
    leBytes 6 0 ++ leBytes 6 0x2000000000 ++ leBytes 2 0 ++ leBytes 4 4)
/-- DECLARE_LOST and REMAP name position 4095 as lost, and position 1 in its place, for epoch 9, at a rod. -/
def lossCmd (code rod : Nat) : Cmd :=
  forBind code (leBytes 2 4095 ++ leBytes 2 1 ++ leBytes 24 0 ++ leBytes 6 rod ++ leBytes 14 0 ++ leBytes 4 9 ++ leBytes 8 0 ++ leBytes 8 7)

/-- A message of this module's own decision for binding 255, and one from a peer, whose packet names adapter 7 and step 0. -/
def ownStep : StepMsg := { step0 with packet := { pkt0 with src := 0 } }
def peerStep (sub : Nat) (rest : List Byte) : StepMsg := { step0 with packet := control sub (leBytes 8 7 ++ leBytes 8 0 ++ rest) }
/-- A SCORE rod runs in every rood. -/
def scoring (s : State) : State := atTime 100 { s with roods := s.roods.map fun r => { r with plan := (2 ^ 80 - 1) / 3 } }
/-- The CUR image of adapter 7 is resident in its cache: one bushel of four values. -/
def cached (s : State) : State :=
  { s with cache := [(0, { rood := 0, slot := 3, gen := 0, version := 0, resident := true, image := [[3, 0, 4, 0]] })] }

def snapBare : SnapView := { snap0 with readable := true, master := [0, 0, 0, 0], m := [0, 0, 0, 0], v := [0, 0, 0, 0] }
/-- A snapshot of layer 0 whose digest is the one of its arrays. -/
def snapGood : SnapView :=
  { snapBare with layer := 0, digest := stateDigest (viewArrays (bindIn .idle) { snapBare with layer := 0 }) 0 0 0 0 4 }

theorem snap_good : layerGood (bindIn .idle) 0 0 snapGood = true := by
  have h (d : Nat) : layerGood (bindIn .idle) 0 0 { snapBare with layer := 0, digest := d } =
      (stateDigest (viewArrays (bindIn .idle) { snapBare with layer := 0 }) 0 0 0 0 4 == d) := rfl
  unfold snapGood
  rw [h]
  exact beq_self_eq_true _

/-- A checkpoint of binding 255 after step 0, with every value 0, and a state whose flash holds it. -/
def ckHead : List Byte :=
  leBytes 8 7 ++ leBytes 4 0 ++ leBytes 4 4 ++ leBytes 48 0 ++
    leBytes 48 22224205784021174957139305128230854889125006370278169818169295941809772998953145652529641799825562315827581296513683 ++
    leBytes 16 0 ++ leBytes 4 2503059875
def ckBind : Bind := { bindIn .binding with init := 1 }
def ckState : State :=
  let s := trained ckBind
  { s with flash := { s.flash with
      ns := [(0, { size := 1, keyValid := true })]
      slots := [(0, { hdr := meta0, data := ckHead ++ List.replicate 3964 0 }), (1, { hdr := meta0, data := List.replicate 4096 0 }),
        (2, { hdr := meta0, data := List.replicate 4096 0 }), (3, { hdr := meta0, data := List.replicate 4096 0 })] } }

set_option maxRecDepth 1000000 in
theorem witness_trainBound_checkpoint : bindOf ckState 255 = some ckBind ∧ ckBind.st = .binding ∧ ckBind.init ≠ 0 ∧ ckBind.cfg.opt = 0 ∧
    (readCheckpoint ckState ckBind).map (fun v => (v.master.length, v.m.length, v.v.length)) = some (ckBind.cfg.params, ckBind.cfg.params, ckBind.cfg.params) ∧
    readCheckpoint (trained ckBind) ckBind = none := by decide +kernel

theorem witness_trainingCommands :
    ((let c := bindCmd 0;
      let s := trainedAs c (epoch9 .current) [];
      nextCmd s .training 0 0x20 = some c ∧ bindCheck s 0 (field c.bytes 1 1) (bindCfgOf c.bytes) = Sts.ok) ∧
    (let c := bindCmd 1;
      let s := trainedAs c (epoch9 .current) [];
      nextCmd s .training 0 0x20 = some c ∧ bindCheck s 0 (field c.bytes 1 1) (bindCfgOf c.bytes) ≠ Sts.ok) ∧
    (∀ x ∈ [(0x21, BindState.idle), (0x22, .forward), (0x22, .idle), (0x28, .idle), (0x29, .idle)],
      let c := forBind x.1 [];
      let s := trainedAs c (epoch9 .current) [bindIn x.2];
      nextCmd s .training 0 x.1 = some c ∧ namedBind s 0 c = .inr (255, bindIn x.2) ∧ cmdBySeq s .training 0 c.seq = some c) ∧
    (inStep .forward = true ∧ fbits (forBind 0x29 []).bytes 2 1 0 3 = 0 ∧ field (forBind 0x29 []).bytes 80 48 = 0) ∧
    (let k := bindIn .binding;
      let s := cached (trained k);
      bindOf s 255 = some k ∧ k.st = .binding ∧ scrupleRuns s k.rood = true ∧ scrupleRuns (scoring s) k.rood = false ∧ snapBare.readable = true ∧
        k.init = 0 ∧ (initMasters s k snapBare).map List.length = some k.cfg.params ∧ initMasters (trained k) k snapBare = none ∧
        { snapBare with readable := false }.readable = false ∧ k.unbinds = []) ∧
    (let c := forBind 0x29 [];
      let s := trainedAs c (epoch9 .current) [bindIn .idle];
      scrupleRuns s 0 = true ∧ ([snapGood].find? fun x => x.layer == fbits c.bytes 2 1 0 3) = some snapGood ∧
        nextCmd (scoring s) .training 0 0x29 = some c ∧ namedBind (scoring s) 0 c = .inr (255, bindIn .idle) ∧ scrupleRuns (scoring s) 0 = false) ∧
    (let c := lossCmd 0x2A 0;
      let s := trainedAs c (epoch9 .current) [bindIn .idle];
      nextCmd s .training 0 0x2A = some c ∧ bindOf s 255 = some (bindIn .idle) ∧ concerns 0 (field c.bytes 72 8) (bindIn .idle) = true) ∧
    (∀ x ∈ [(0, true), (40, false)],
      let c := lossCmd 0x2B x.1;
      let s := trainedAs c (epoch9 .current) [bindIn .idle];
      nextCmd s .training 0 0x2B = some c ∧ epochOf s 0 (field c.bytes 60 4) = some (epoch9 .current) ∧ reached s (remapAt c) = x.2 ∧
        s.fab.pos ≠ field c.bytes 14 2)) := by decide +kernel

def entered (st : BindState) : Bind := { bindIn st with producer := 1, visible := [(1, 0)] }

theorem entry_source : rdLe (trained (entered .backward)) (entryAt cfg1 0 + 16) 6 = 0x100010000 := by decide +kernel

theorem source_reads (k : Bind) (h : k.cfg = cfg1) : sourceReads (trained k) k 0x100010000 = .got (rdBytes (trained k) 0x100010000 8) := by
  have h0 : stagedBytes k.cfg = 8 := by rw [h]; decide +kernel
  have h1 : placeOf 0x100010000 8 = .scratch 0 0x10000 := by decide +kernel
  have h2 : ringReads (trained k) [(0x100010000, 8)] = .ready := by
    have g : ringReads units [(0x100010000, 8)] = .ready := by decide +kernel
    exact g
  have h3 : regionAt (trained k) (0x100010000 + 4096 * 0) = none := by
    have g : regionAt units (0x100010000 + 4096 * 0) = none := by decide +kernel
    exact g
  have h4 : arrayBushels k.cfg.gfmt k.cfg.params = 1 := by rw [h]; decide +kernel
  have h5 : clusterAbsent (trained k) 0 = false := by
    have g : clusterAbsent units 0 = false := by decide +kernel
    exact g
  unfold sourceReads
  rw [h4]
  simp [localRead, h0, h1, h2, h3, h5]

theorem witness_stepToNorm_gacc :
    ∀ k ∈ [entered .backward, { entered .backward with consumer := 1, running := some 0 }], let s := trained k;
    bindOf s 255 = some k ∧ (k.producer ≠ k.consumer ∧ k.running = none ∨ k.running = some 0) ∧ scrupleRuns s k.rood = true ∧ bindRing s k = true ∧
      (k.running = none → gaccCheck s k k.consumer (rdLe s (entryAt k.cfg k.consumer + 1) 1 % 64) (rdLe s (entryAt k.cfg k.consumer + 8) 8) 0x100010000 = none) ∧
      rdLe s (entryAt k.cfg 0 + 16) 6 = 0x100010000 ∧
      sourceReads s k 0x100010000 = .got (rdBytes s 0x100010000 8) := by
  intro k hk
  have hc : k.cfg = cfg1 := by
    simp only [List.mem_cons, List.not_mem_nil, or_false] at hk
    rcases hk with rfl | rfl <;> rfl
  refine ⟨?_, ?_, ?_, ?_, ?_, ?_, source_reads k hc⟩ <;>
    (simp only [List.mem_cons, List.not_mem_nil, or_false] at hk
     rcases hk with rfl | rfl <;> decide +kernel)

/-- The source lies in the ring of a LOAD that fills its slots. -/
def stalled (k : Bind) : State :=
  let s := trained k
  { s with streams := { s.streams with ctx := [(0, { st := .running, desc := 8, rood := 0, pid := 1, body := stream0, admitStamp := 0 })] } }

theorem witness_stepToNorm_stall : let k := entered .backward;
    let s := stalled k;
    bindOf s 255 = some k ∧ k.producer ≠ k.consumer ∧ k.running = none ∧ scrupleRuns s k.rood = true ∧ bindRing s k = true ∧
      gaccCheck s k k.consumer (rdLe s (entryAt k.cfg k.consumer + 1) 1 % 64) (rdLe s (entryAt k.cfg k.consumer + 8) 8)
        (rdLe s (entryAt k.cfg k.consumer + 16) 6) = none ∧
      sourceReads s k (rdLe s (entryAt k.cfg k.consumer + 16) 6) = .stall := by decide +kernel

theorem witness_stepToNorm :
    ((let k := { bindIn .idle with nextStart := some 0, epoch := none };
      let s := trained k;
      bindOf s 255 = some k ∧ baseThere s k = some (epoch9 .current) ∧ furlongOf s = 0 ∧ atFurlong s = true ∧ runsWork s = true) ∧
    (let k := bindIn .forward; let s := atTime 163840 (trained k);
      bindOf s 255 = some k ∧ (k.startFurlong + k.cfg.bwdStart) * 40 ≤ rodCount s) ∧
    (let k := bindIn .forward; bindRing (trained k) k = true ∧ Memory.wf 0 (trained k).mem = true ∧ dist 32 (63 % 2 ^ 32) k.consumer ≤ 63 ∧ 63 < dist 32 (64 % 2 ^ 32) k.consumer) ∧
    (let k := { entered .backward with accepted := [0] }; let s := trained k;
      k.producer ≠ k.consumer ∧ k.running = none ∧ scrupleRuns s k.rood = true ∧ bindRing s k = true ∧
      gaccCheck s k k.consumer (rdLe s (entryAt k.cfg k.consumer + 1) 1 % 64) (rdLe s (entryAt k.cfg k.consumer + 8) 8)
        (rdLe s (entryAt k.cfg k.consumer + 16) 6) = some Sts.protocolViolation ∧ entryAt k.cfg k.consumer + 64 ≤ 2 ^ 50) ∧
    (let k := bindIn .backward; (trained k).time.now ≤ closeStamp (trained k) k ∧
      closeStamp (atTime 10000000 (trained k)) k < (atTime 10000000 (trained k)).time.now ∧
      (trained k).fab.early = [] ∧ k.settled = false ∧ gaccPending (atTime 10000000 (trained k)) k = false ∧
      (let v := entered .backward; gaccPending (atTime 10000000 (trained v)) v = true ∧ v.settled = false))) := by decide +kernel

theorem witness_stepToNorm_exchange :
    ((let k := { bindIn .closed with cfg := { cfg1 with d := 2, replicas := [0, 4095] }, settled := true };
      let s := trained k;
      2 ≤ k.cfg.d ∧ k.gathered = false ∧ k.settled = true ∧ rodCount s < furlongEnd k (k.cfg.close + k.cfg.gather - 1) ∧
      (∃ q ∈ survivors k, q ≠ k.cfg.replica ∧ k.gmask.testBit q = false) ∧
      (∀ q ∈ survivors k, q = k.cfg.replica ∨ ({ k with gmask := 2 }).gmask.testBit q = true) ∧
      (let v := { k with cfg := { k.cfg with replica := 1 }, gmask := 4, combined := true }; otherOwners v = [0] ∧ ∀ q ∈ otherOwners v, v.gmask.testBit (v.cfg.d + q) = true) ∧ k.step + 1 ≠ k.step ∧
      scrupleRuns s k.rood = true ∧ scrupleRuns (scoring s) k.rood = false ∧ exchanged s 255 k = false ∧
      settledAfter (atTime 10000000 s) (furlongEnd k (k.cfg.close + k.cfg.gather - 1)) = true ∧
      settledAfter s (furlongEnd k (k.cfg.close + k.cfg.gather - 1)) = false ∧
      (let v := { k with gathered := true, gatherSent := true }; 1 < v.cfg.d ∧ exchanged (trained v) 255 v = true ∧ tfind v.cfg.stage v.parts = none)) ∧
    (let k := { bindIn .closed with settled := true }; let s := trained k;
      k.cfg.d ≤ 1 ∧ k.settled = true ∧ scrupleRuns s k.rood = true ∧ tfind k.cfg.stage k.parts = none ∧ isRoot s k = true ∧
        k.clip = none ∧ k.skipped = false ∧ k.skipCause = 0 ∧ settledAfter (atTime 10000000 s) (normDeadline (atTime 10000000 s) k) = true ∧
        (let v := { k with skipped := true }; isRoot (trained v) v = true ∧ v.skipCause = 0))) := by decide +kernel

theorem witness_stepToNorm_parts :
    let k := { bindIn .closed with parts := [(0, ⟨1, 0, false⟩)] };
      let s := trained k;
      let rest := partBytes 1 ⟨1, 0, false⟩;
      isRoot s k = true ∧ inStep k.st = true ∧ k.skipped = false ∧ 1 < (stepStages s k).length ∧ tfind 1 k.parts = none ∧
        StepHere ownStep 255 k 0x20 rest s ∧ StepHere (peerStep 0x20 rest) 255 k 0x20 rest s ∧
        rodCount s < normDeadline s k ∧ (6 ≠ k.cfg.adapter ∨ 0 ≠ k.step) ∧
        (∀ i < (stepStages s k).length, i = 1 ∨ (tfind i k.parts).isSome = true) ∧
        decideClip { k with parts := tset 1 ⟨1, 0, false⟩ k.parts } (stepStages s k).length = .inr f32One ∧
        decideClip { k with parts := tset 1 ⟨0, 0, false⟩ k.parts } (stepStages s k).length = .inl 2 := by
  unfold StepHere ControlHere ArrivesHere
  decide +kernel

theorem witness_stepToFlip_messages :
    let s := trainedAs (cmdOf []) { epoch9 .current with stages := [4095, 0] } [bindIn .closed];
    ∀ x ∈ [(0x21, leBytes 4 0 ++ leBytes 4 f32One.toNat), (0x21, leBytes 1 1 ++ leBytes 1 2), (0x22, leBytes 1 1), (0x23, leBytes 6 320)],
      StepHere ownStep 255 (bindIn .closed) x.1 x.2 s ∧ StepHere (peerStep x.1 x.2) 255 (bindIn .closed) x.1 x.2 s ∧
        ¬ StepHere step0 255 (bindIn .closed) x.1 x.2 s := by
  unfold StepHere ControlHere ArrivesHere
  decide +kernel

theorem witness_stepToFlip :
    ((let k := { bindIn .closed with clip := some f32One };
      let s := trained k;
      bindOf s 255 = some k ∧ scrupleRuns s k.rood = true ∧ isRoot s k = true ∧ (slotOf s k.rood k.cfg.slot).prev = none ∧
        (slotOf { s with slots := [(3, { slot3 with prev := some { version := 1 } })] } k.rood k.cfg.slot).prev ≠ none ∧ k.holdLogged = false ∧ k.skipped = false ∧
        k.moved = false ∧ scrupleRuns (atTime 100 { s with roods := s.roods.map fun r => { r with plan := (2 ^ 80 - 1) / 3 } }) k.rood = false) ∧
    (let k := { bindIn .updating with clip := some f32One, moved := true };
      let s := trained k;
      bindOf s 255 = some k ∧ k.updated = false ∧ scrupleRuns s k.rood = true ∧ (slotOf s k.rood k.cfg.slot).prev = none) ∧
    (let k := bindIn .closed;
      let s := trainedAs (cmdOf []) { epoch9 .current with stages := [4095, 0] } [k];
      bindOf s 255 = some k ∧ isRoot s k = false ∧ k.skipped = false ∧ k.clip = none ∧
        (let v := { k with parts := [(k.cfg.stage, ⟨1, 0, false⟩)] };
          isRoot (trainedAs (cmdOf []) { epoch9 .current with stages := [4095, 0] } [v]) v = false ∧ (tfind v.cfg.stage v.parts).isSome = true) ∧
        isRoot (trained k) k = true ∧ 1 ∉ k.updatesDone) ∧
    (let k := { bindIn .updating with updated := true };
      let s := trainedAs (cmdOf []) { epoch9 .current with stages := [4095, 0] } [k];
      isRoot s k = false ∧ k.flipAt = none ∧ rodFrom (rodCount s) 40 % 40 = 0) ∧
    (let k := { bindIn .updating with updated := true, updatesDone := [0, 1] };
      let s := trained k;
      isRoot s k = true ∧ allUpdated s k = true ∧ flipBoundary s k % 2 ^ 48 = 320 % 2 ^ 48 ∧
        flipBoundary s k ≤ (k.startFurlong + k.cfg.stepLen + 16) * 40) ∧
    (let k := { bindIn .updating with updated := true, flipAt := some 0 };
      let s := trained k;
      0 ≤ rodCount s ∧ atFurlong s = true ∧ k.unbinds = [] ∧ tfind k.cfg.slot s.slots = some slot3 ∧ slot3.training = some 255) ∧
    (let k := bindIn .updating;
      k.flipAt = none ∧ (k.startFurlong + k.cfg.stepLen + 16) * 40 ≤ rodCount (atTime 10000000 (trained k))) ∧
    (let k := { bindIn .idle with protect := some ⟨1, 0, 0, 1, 1⟩, snapBusy := [0, 1] };
      let s := trained k;
      bindOf s 255 = some k ∧ 1 ∈ k.snapBusy ∧ s.flash.mode ≠ 1 ∧
      flashAccess { s with flash := { s.flash with ns := [(0, { size := 1, keyValid := true })] } } k.rood
        ((k.cfg.ckptOffset + k.ckptHalf * snapSize k.cfg) / 4096) (snapSize k.cfg / 4096) = Sts.ok ∧
      0 ∈ k.snapBusy ∧ fabricOn s = true ∧ pathsTo s 1 ≠ [])) := by decide +kernel

/-! ### Witnesses: time, links and transfers -/

theorem witness_serialComparison : (65535 : Nat) < 2 ^ 16 ∧ (3 : Nat) < 2 ^ 16 := by decide

/-- A module of a group of two whose link 0 is UP; rood 0 knows member 1, whose rood is 15. -/
def linked : State :=
  { units with
    links := units.links.modify 0 fun l => { l with st := .up }
    fab := { units.fab with members := [3] }
    roods := ([{ st := .active, peers := [(0, (1, 15))], planRod := some 40 }] : List Rood) ++ List.replicate 15 {} }
def sync1 : RodSync := { sync0 with link := 0, src := 1, masterStamp := 163840, k := 1, term := 1, list := [1, 0] }
/-- The time keeping of linked, changed. -/
def timed12 (f : Time → Time) : State := { linked with time := f linked.time }

theorem witness_timeKeeping :
    timeOn linked = true ∧ fabricOn linked = true ∧
    (let s := timed12 fun t => { t with master := true }; s.time.master = true ∧ atFurlong s = true ∧ s.time.lastSync ≠ some (furlongOf s)) ∧
    linked.time.master = false ∧
    (linkUp linked sync1.link = true ∧ sync1.resv = false ∧ before 64 (sync1.stamp + packetLife) linked.time.now = false ∧
      before 64 (sync1.stamp + packetLife) (atTime 100000 linked).time.now = true ∧ ({ sync1 with resv := true } : RodSync).resv = true ∧
      (let s := timed12 fun t => { t with term := 1, lastSync := some 1 };
        sync1.k = s.time.k ∧ sync1.term % 2 ^ 16 = s.time.term % 2 ^ 16 ∧ sync1.index = s.time.masterIndex ∧
          syncKnown s (sync1.masterStamp / (40 * rodLen s)) = true) ∧ sync1.sysid = linked.fab.sysid ∧ sync0.k ≠ linked.time.k ∧ sync1.k = linked.time.k ∧
      follows linked sync1 = true ∧ sync1.src ≠ linked.fab.pos ∧
      syncKnown linked (sync1.masterStamp / (40 * rodLen linked)) = false) ∧
    (let s := atTime 8004 linked; s.time.lock = .locked ∧ s.time.lastSync ≠ some (furlongOf s) ∧ furlongTick s + 8000 < s.time.now) ∧
    (let s := timed12 fun t => { t with lock := .holdover, now := 80000000 * 251 }; s.time.lock = .holdover ∧ s.time.boundNext < driftBound s) ∧
    linked.time.lock ≠ .holdover := by
  decide +kernel

theorem witness_timeKeeping_master :
    (let s := timed12 fun t => { t with master := true, now := 100, lastPtp := 0, ptpInterval := 30 };
      s.time.lock = .locked ∧ s.time.master = true ∧ before 64 (s.time.lastPtp + 3 * s.time.ptpInterval) s.time.now = true) ∧
    (let s := timed12 fun t => { t with master := true };
      ptpSupported { ptp0 with best := false } s = false ∧
        ∀ o ∈ [(1000000 : Int), 1000001, -1000001], s.time.master = true ∧ ptpSupported { ptp0 with offset := o } s = true ∧ s.time.lock = .locked ∧
          (timed12 fun t => { t with master := true, lock := .holdover }).time.lock ≠ .locked) ∧
    ((1000000 : Int).natAbs ≤ 1000000 ∧ 1000000 < (1000001 : Int).natAbs) ∧
    (let s := timed12 fun t => { t with index := 1, lastSync := some 0, now := 163840, succession := [0, 1], masterLeaving := true };
      s.time.master = false ∧ s.time.index < 8 ∧ s.time.index ≠ s.time.masterIndex ∧ s.time.masterLeaving = true ∧ between s = 0 ∧
        0 < furlongOf s ∧ atFurlong s = true) ∧
    (let s := timed12 fun t => { t with index := 1, lastSync := some 0, now := 163840 + 8004, succession := [1, 0] };
      s.time.master = false ∧ s.time.index < 8 ∧ s.time.index ≠ s.time.masterIndex ∧ 0 + 1 + between s ≤ furlongOf s ∧
        furlongTick s + 8000 < s.time.now) ∧
    ((linked.roods.getD 0 {}).st = .active ∧ (linked.roods.getD 0 {}).planRod = some 40 ∧ reached linked 40 = false ∧
      reached (atTime 163840 linked) 40 = true) ∧
    (linked.time.lock ≠ .acquiring ∧ linked.fwc.pstate < 4 ∧ linked.boot.safeMode = false ∧ linked.time.now % 4000000000 = 0) := by
  decide +kernel

theorem witness_groupLinks : (62 < 63) ∧ linkPeer units 62 = some (63, 0) ∧ (units.links[62]?).map (·.st) = some .down ∧
    present units (64 * groupOf units.fab.pos + (memberOf units.fab.pos + 1 + 62) % 64) = false := by decide +kernel

/-- Link 0 of the group of two, as k, with a spare in a state. -/
def linkAs (k : Link) (st : SpareState) : State :=
  { linked with
    links := linked.links.set 0 k
    linkSpares := linked.linkSpares.map fun p => { p with st := st } }
def res1 : TrainResult := { res0 with peerPos := 1, peerLink := 62, delay := 6 }

def flit0 : List Byte := List.replicate 252 0 ++ leBytes 4 0xa66359f1

theorem flit_head : flit0.take 252 = List.replicate 252 0 := List.take_left' List.length_replicate

set_option maxRecDepth 1000000 in
theorem flit_good : crc32 (flit0.take 252) = field flit0 252 4 := by
  have h : field flit0 252 4 = 0xa66359f1 := by decide +kernel
  rw [flit_head, h]
  unfold crc32
  simp only [foldl_strict]
  decide +kernel

set_option maxRecDepth 1000000 in
theorem flit_bad : crc32 (bytes256.take 252) ≠ field bytes256 252 4 := by
  have h : field bytes256 252 4 = 0 := by decide +kernel
  have g : bytes256.take 252 = List.replicate 252 0 := by simp [bytes256]
  rw [g, h]
  unfold crc32
  simp only [foldl_strict]
  decide +kernel

def flitOf (n : Nat) : Flit := { seq := n, ack := 0, kind := 0, vc := 0, first := 63, creditVc := 0, credits := 0, body := List.replicate 244 0 }

theorem witness_linksLive :
    (∀ k ∈ [({} : Link), { retryAt := some 0 }], let s := linkAs k .ready;
      fabricOn s = true ∧ s.links[0]? = some k ∧ mayTrain s 0 k = true ∧ k.st = .down ∧ k.peerP4 = false ∧ (k = {} ∨ k.retryAt = some 0 ∧ 0 ≤ s.time.now) ∧
        res1.ticks = 0 ∧ res1.failStep = none ∧ res1.sysid = s.fab.sysid ∧ linkPeer s 0 = some (res1.peerPos, res1.peerLink) ∧
        linkPeer s 0 ≠ some (res0.peerPos, res0.peerLink) ∧ ({ res1 with sysid := 7 } : TrainResult).sysid ≠ s.fab.sysid ∧
        ({ res1 with failStep := some 2 } : TrainResult).failStep = some 2 ∧ 0 < ({ res1 with ticks := 5 } : TrainResult).ticks) := by
  decide +kernel

theorem witness_linksLive_retrain :
    (∀ x ∈ [(2, ({ st := .up } : Link)), (3, { st := .up, replayed := [(0, 17)] }),
        (4, { st := .up, creditAt := [(0, 0)], waiting := [{ packet := pkt0, vc := 0, since := 0 }] })],
      let s := atTime 400000 (linkAs x.2 .ready);
      fabricOn s = true ∧ s.links[0]? = some x.2 ∧ x.2.st = .up ∧ retrainHolds s x.2 x.1 = true ∧ linkPeer s 0 = some (res1.peerPos, res1.peerLink)) ∧
    (∀ cause ∈ [3, 4, 5], let k : Link := { st := .up };
      (linkAs k .ready).links[0]? = some k ∧ 3 ≤ cause ∧ (k.replayed.filter fun e => (0 : Nat) < e.1 + 4000000).foldl (fun n e => n + e.2) 0 ≤ 16 ∧ k.waiting = []) := by
  decide +kernel

theorem witness_linksLive_broken :
    (∀ k ∈ [({ failRow := 3 } : Link), { retrainStamps := [0, 1, 2] }], let s := linkAs k .ready;
      s.links[0]? = some k ∧ k.st = .down ∧ linkBroken s k = true ∧ (bankSpare s 0).map (·.st) = some .ready ∧
        (bankSpare (linkAs k .inUse) 0).map (·.st) = some .inUse) ∧
    (let k : Link := { st := .substituting }; let s := linkAs k .ready; s.links[0]? = some k ∧ k.training = none ∧ (bankSpare s 0).isSome = true) ∧
    (bits (field flit0 0 8) 24 2 = 0 ∧ bits (field flit0 0 8) 0 12 = ({ st := .up } : Link).rxSeq ∧ ({ st := .up } : Link).waiting = [] ∧
      ({ st := .up } : Link).replaying = false ∧ ({ st := .up, replaying := true } : Link).replaying = true) ∧
    (let k : Link := { st := .up, txSeq := 2, retry := [flitOf 4095, flitOf 0, flitOf 1] };
      (linkAs k .ready).links[0]? = some k ∧ k.retry = [flitOf 4095] ++ flitOf 0 :: [flitOf 1] ∧ (flitOf 0).seq = 4096 % 4096 ∧
        (∀ g ∈ [flitOf 4095], g.seq ≠ 4096 % 4096) ∧ ∀ g ∈ k.retry, g.seq ≠ 7 % 4096) := by
  decide +kernel

/-- A WRITE of 64 zeros of the scratchpad to member 1, and its transfer. -/
def sent : Xfer := { desc := 9, rood := 0, body := xfer0 }
def sending (k : Xfer) : State := { withDesc { queued (descOf (.xfer k.body)) with stage := .started } linked with fab := { linked.fab with xfers := [(5, k)] } }
def answerTo (typ ext : Nat) (data : List Byte) : Packet :=
  { pkt0 with typ := typ, ext := ext, dst := 0, dstRood := 0, src := 1, xslot := 0, addr := 0x100000000, data := data, signalCtr := 0 }

/-- All 1,024 contexts are in use besides. -/
def crowded (s : State) : State :=
  { s with fab := { s.fab with xfers := s.fab.xfers ++ (List.range 1024).map fun n => (n + 6, { sent with slot := some 0 }) } }

theorem witness_transfersSent_stall : let k := { sent with slot := some 0, body := { xfer0 with localAddr := 0x100010000 } };
    let s := atTime 200000 (sending k);
    let u := { s with streams := { s.streams with ctx := [(0, { st := .running, desc := 8, rood := 0, pid := 1, body := stream0, admitStamp := 0 })] } };
    tfind 5 u.fab.xfers = some k ∧ fabricOn u = true ∧ k.lastSent + u.fab.timeout * 4000 ≤ u.time.now ∧ k.tries < 2 ∧
      (match xferPackets u k 0 (nextGen u 1 0) with | .inl .stall => true | _ => false) = true := by decide +kernel

theorem witness_transfersSent :
    (Instr.xferPartial, 2) ∈ [(Instr.xferWrite, 0), (.xferRead, 1), (.xferPartial, 2)] ∧
    ((∀ op ∈ [0, 1, 2], let b := { xfer0 with op := op };
      let s := withDesc (queued (descOf (.xfer b))) { linked with fab := { linked.fab with queue := [9] } };
      tfind 9 s.descs = some (queued (descOf (.xfer b))) ∧ startReady s 9 (queued (descOf (.xfer b))) = true) ∧
    (let s := sending sent;
      tfind 5 s.fab.xfers = some sent ∧ sent.slot = none ∧ contexts s < 1024 ∧ 1024 ≤ contexts (crowded s) ∧
        tfind 5 (crowded s).fab.xfers = some sent ∧ fabricOn s = true ∧ roodActive s 0 = true ∧ orderHeld s 5 sent = false ∧
        freeSlot s 1 = some 0 ∧ sent.body.noDetour = false ∧ plainPath s 1 ≠ none ∧ pathsTo s 1 ≠ []) ∧
    (match xferPackets (sending sent) { sent with image := true && imageWrite (sending sent) sent.body } 0 (nextGen (sending sent) 1 0) with
      | .inl _ => false
      | .inr ps => ps.length == 1 && ps.all fun p => p.dst == 1) = true ∧
    (∀ n ∈ [0, 2], let k := { sent with slot := some 0, tries := n };
      let s := atTime 200000 (sending k);
      tfind 5 s.fab.xfers = some k ∧ fabricOn s = true ∧ k.lastSent + s.fab.timeout * 4000 ≤ s.time.now ∧
        plainPath s 1 ≠ none ∧ pathsTo s 1 ≠ [] ∧
        (match xferPackets s k 0 (nextGen s 1 0) with | .inl _ => false | .inr ps => ps.length == 1) = true ∧
        xferOfResponse s (answerTo 6 1 []) = some (5, k)) ∧
    (let s := sending { sent with slot := some 0 };
      ControlHere (answerTo 6 1 []) 1 s ∧ ControlHere (answerTo 6 2 []) 2 s) ∧
    (∀ n ∈ [64, 128], let k := { sent with slot := some 0, body := { xfer0 with op := 1, bytes := n } };
      let s := sending k;
      let p := answerTo 3 0 (List.replicate 64 1);
      xferOfResponse s p = some (5, k) ∧ ArrivesHere p s ∧ (fabricWriteCheck .fabric 0 p.addr p.data.length s).1 = true ∧
        Memory.wf 0 s.mem = true ∧ (64 * (k.lines + p.data.length / 64) < k.body.bytes ↔ n = 128))) := by
  refine ⟨by simp, ?_⟩
  unfold ControlHere ArrivesHere
  decide +kernel

/-- A combination entry 15 of cluster 15, armed for two shards. -/
def armed12 : State :=
  { linked with clusters := linked.clusters.modify 15 fun k => { k with comb := List.replicate 15 {} ++
      [{ st := .armed, s := 2, slotBase := 0, slotStride := 4096, tileBytes := 128, dest := 0x4000, dlRod := 1 }] } }
/-- A partial for it, as shard 1. -/
def partial1 : Packet := answerTo 4 (15 + 16 * 15 + 2 ^ 8 * 1 + 2 ^ 16 * 2 + 2 ^ 24 * 1) (List.replicate 64 1)
def arrived : Arrival := { xgen := 0, count := 1, total := 1, typ := 4, ext := 15 + 16 * 15, signal := true, bytes := 64 }

theorem witness_transfersReceived :
    ((let p := answerTo 1 0 (List.replicate 64 1);
      ArrivesHere p linked ∧ isPeer linked p = true ∧ tfind (arrKey p) linked.fab.arrivals = none ∧ Memory.wf 0 linked.mem = true ∧
        p.ext % 2 = 0 ∧ (fabricWriteCheck .fabric p.dstRood p.addr p.data.length linked).1 = true ∧
        (fabricWriteCheck .fabric p.dstRood 0 p.data.length linked).1 = false) ∧
    (let p := answerTo 2 (2 ^ 48 * 1) [];
      ArrivesHere p linked ∧ fabricReadOk linked p.dstRood p.addr (64 * bits p.ext 48 7) = true ∧ pathsTo linked p.src ≠ [] ∧
        (match localRead linked p.addr (64 * bits p.ext 48 7) with | .got bs => bs.length == 64 | _ => false) = true) ∧
    (let p := { partial1 with addr := 64 };
      ArrivesHere p armed12 ∧ isPeer armed12 p = true ∧ partTarget p = 0 ∧ partOwned armed12 p = true ∧ (partCase armed12 p == .write) = true ∧
        onRing armed12 (scratchBase 15 + 0 + 1 * 4096 + 64) 64 = false) ∧
    (let p := partial1;
      ArrivesHere p linked ∧ partOwned linked p = true ∧ (partCase linked p == .early) = true ∧ earlyBytes linked + p.data.length ≤ 262144) ∧
    (let s := { linked with fab := { linked.fab with early := [(3, partial1)] } };
      tfind 3 s.fab.early = some partial1 ∧ partTarget partial1 = 0 ∧ before 32 (partDl partial1) (rodNum s) = false ∧
        before 32 (partDl partial1) (rodNum (atTime 16384 s)) = true)) := by
  unfold ArrivesHere
  decide +kernel

theorem witness_transfersReceived_complete :
    (let s := { linked with fab := { linked.fab with arrivals := [(8, arrived)] } };
      tfind (1 * 8 + 0) s.fab.arrivals = some arrived ∧ fabricOn s = true ∧ arrived.answered = false ∧ arrived.total ≤ arrived.count ∧
        arrived.typ ≠ 2 ∧ (pathsTo s 1).any (fun q => q.2.1 == false) = true ∧
        arrived.signal = true ∧ arrived.status = Sts.ok ∧ bit arrived.ext 14 = false ∧ bits arrived.ext 0 4 = 15 ∧
        ∀ x ∈ [(Sts.partialMismatch, 0x04), (Sts.partialDuplicate, 0x05)], ({ arrived with status := x.1 }).status = x.1 ∧ s.clusters[15]?.isSome = true) ∧
    (let a := { arrived with ext := 255 + 2 ^ 8 + 2 ^ 14 };
      let s := { linked with fab := { linked.fab with arrivals := [(8, a)] }, binds := [(255, bind0)] };
      tfind (1 * 8 + 0) s.fab.arrivals = some a ∧ fabricOn s = true ∧ a.answered = false ∧ a.total ≤ a.count ∧ a.typ = 4 ∧ a.status = Sts.ok ∧
        bit a.ext 14 = true ∧ tfind (bits a.ext 0 8) s.binds = some bind0) := by
  decide +kernel

/-! ### Witnesses: the network -/

def qp0 : Qp :=
  { rood := 0, pid := 1, role := 0, iface := 0, ipv6 := false, ip := 7, rqpn := 0x10000, saIn := 4094, saOut := 4095, ackTimeout := 14
    retryCnt := 7, rnrRetry := 6, maxRd := 16, sqPsn := 0, rqPsn := 0, input := 5, st := .rts
    regions := [(0, ⟨0x7000, 4096, 9, true, none⟩)], rate := 1000 }
def saIn0 : Sa := { st := .live, rood := 0, inbound := true, spi := 256, key := [] }
def xr5 : Exposed := { rood := 0, start := 0x3000000000, len := 32768, pid := 1, read := true, write := true, doorbell := false, tag := 3 }
/-- A queue pair 1023 as k, its associations, an exposed region 5 in a RAW region of stack 2, and a record of one row at its second line. -/
def netOf (k : Qp) (x : Exposed) : State :=
  { units with
    slices := [(0, slice0)]
    queues := [(4095, queue0)]
    stks := units.stks.modify 2 fun k => { k with regions := [(0, { start := 0x3000000000, len := 1, kind := 1, fmt := 0, rood := 0, backing := 0 })] }
    roods := ([{ st := .active, epochs := [epoch9 .current] }] : List Rood) ++ List.replicate 15 {}
    eth := { units.eth with
      ifs := [{}, {}, { st := 1 }, {}]
      qps := [(1023, k)]
      sas := [(4094, saIn0), (4095, { saIn0 with inbound := false })]
      xrs := [(5, x)]
      quarantined := [(3, 9, 8)] }
    mem := [(0x3000000040, 1), (0x3000000042, 1), (0x3000000044, 64), (0x300000008c, 2)] }
def netted : State := netOf qp0 xr5
/-- An RKEY of region 5 at its tag, and one of another tag. -/
def rkey5 : Nat := 5 + 4096 * 3
def inbound0 : EspPacket := { esp0 with iface := 0, srcIp := 7, spi := 256, seq := 1, qpn := 0x10000 + 1023 }

/-- The message of PSN 3, not acknowledged. -/
def sent1 : Unacked := { first := 3, count := 1, out := .send 1023 [] }

theorem witness_networkArrivals_requests :
    (let s := netted; let p := { inbound0 with op := RoceOp.read, payload := 8192 };
      isRequestOp p.op = true ∧ p.psn % 2 ^ 24 = qp0.nextRq ∧ badRequest qp0 p = false ∧ roleTakes qp0.role p.op = true ∧
        isRequestOp inbound0.op = true ∧ inbound0.psn % 2 ^ 24 = qp0.nextRq ∧ badRequest qp0 inbound0 = false ∧ inbound0.op ≠ .read ∧
        maySend s (inbound0.qpn - 0x10000) = true) ∧
    (∀ n ∈ [1, 2 ^ 24 - 1], ({ inbound0 with psn := n } : EspPacket).psn % 2 ^ 24 ≠ qp0.nextRq) ∧ after 24 1 0 = true ∧ after 24 (2 ^ 24 - 1) 0 = false ∧
    (badRequest qp0 { inbound0 with payload := 4097 } = true ∧ roleTakes 2 inbound0.op = false ∧
      ∀ op ∈ [RoceOp.ack, .nak, .rnr, .cnp], isRequestOp op = false ∧ roleTakes qp0.role op = true) := by
  decide +kernel

theorem witness_networkArrivals :
    ((netted.eth.ifs[0]?).map (·.st) = some 0 ∧ ethOn netted = true ∧ ifExists netted 0 = true ∧ (netted.eth.ifs[2]?).map (·.st) = some 1) ∧
    (let k := { qp0 with iface := 2, unacked := [sent1] }; qpOf (netOf k xr5) 1023 = some k ∧ k.iface = 2 ∧ k.unacked ≠ [] ∧ k.st = .rts) ∧
    (isQuarantined netted 3 9 = true ∧ isQuarantined netted inbound0.iface inbound0.srcIp = false ∧ inbound0.esp = true ∧
      inbound0.fragment = false ∧ saBySpi netted inbound0.spi = some (4094, saIn0) ∧ saIn0.st = .live ∧ { inbound0 with icvOk := false }.icvOk = false ∧
      inbound0.icvOk = true ∧ seqFresh saIn0.high saIn0.window inbound0.seq = true ∧ inbound0.transportRC = true ∧ qpOf netted (inbound0.qpn - 0x10000) = some qp0 ∧
      qp0.st = .rts ∧ qp0.saIn = 4094 ∧ qp0.ip = inbound0.srcIp ∧ qp0.rood = saIn0.rood ∧ inbound0.icrcOk = true ∧ inbound0.ce = false ∧
      roleTakes qp0.role inbound0.op = true) ∧
    ((netted.eth.quarantined.find? fun x => x.1 == 3 && x.2.1 == 9) = some (3, 9, 8) ∧ netted.time.now < 8 ∧ 8 ≤ (atTime 8 netted).time.now) := by decide +kernel

theorem witness_networkArrivals_rdma :
    (takes netted 1023 (fun k => k.role == 0) = some qp0 ∧ exposes netted qp0 rkey5 0x3000007ff8 8 true = some xr5 ∧
      writeCheck netted .network 0x3000007ff8 8 = .ok ∧ Memory.wf 0 netted.mem = true ∧ exposes netted qp0 rkey5 0x3000007ff9 8 true = none ∧
      exposes netted qp0 rkey5 0x3000000000 64 false = some xr5 ∧ exposes netted qp0 5 0x3000000000 64 false = none ∧
      saLive netted qp0.saOut false qp0.rood = true ∧
      (match localRead netted 0x3000000000 64 with | .got bs => bs.length == 64 | _ => false) = true) ∧
    (let x := { xr5 with doorbell := true };
      let s := netOf qp0 x;
      let imm := 2 ^ 30 + 4095;
      takes s 1023 (fun k => k.role == 0) = some qp0 ∧ exposes s qp0 rkey5 0x3000007ff8 8 true = some x ∧ 4095 = imm % 4096 ∧ bits imm 30 2 = 1 ∧
        bits imm 12 18 = 0 ∧ 0x3000007ff8 = x.start + 8 * 4095 ∧ tfind 4095 s.queues = some queue0 ∧ queue0.pid = qp0.pid ∧ queue0.rood = qp0.rood) ∧
    (∀ n ∈ [0, 7], let k := { qp0 with unacked := [sent1], retries := n, rnrs := n };
      let s := netOf k xr5;
      qpOf s 1023 = some k ∧ takes s 1023 (fun k => isUnacked k 3) = some k ∧ k.withheld = [] ∧ k.unacked ≠ [] ∧ maySend s 1023 = true ∧
        (k.retries < k.retryCnt ↔ n = 0) ∧ (k.rnrs < k.rnrRetry ↔ n = 0) ∧
        before 64 s.time.now (k.sentAt + 16384 * 2 ^ k.ackTimeout) = true ∧
        before 64 (atTime (2 ^ 30) s).time.now (k.sentAt + 16384 * 2 ^ k.ackTimeout) = false) ∧
    (let s := atTime 200000 { netted with eth := { netted.eth with ports := netted.eth.ports.map fun _ => 2 ^ 19 } };
      takes s 1023 (fun v => ecnOn s v.iface) = some qp0 ∧ ecnOn s qp0.iface = true ∧ qp0.rate < ifRate s qp0.iface ∧
        qp0.lastCnp + 200000 ≤ s.time.now) := by decide +kernel

/-- A REGISTER or DEREGISTER of region 63, and a request of queue pair 1023 that names region 0. -/
def regMsg (op len : Nat) : List Byte := leBytes 1 op ++ leBytes 1 1 ++ leBytes 2 63 ++ leBytes 12 0 ++ leBytes 4 len ++ leBytes 44 0
def request13 (st : ReqState) : Request :=
  { st := st, rood := 0, pid := 1, slice := 0, q := 1023, seq := 0, clientTag := 0, arrival := 0, deadline := 4, outH := 0, cplH := 0, outOff := 0
    cplOff := 0, trainKeep := false, recAddr := 0x3000000040, recLen := 192, rows := [⟨0, 0, 0, 0, true, none⟩] }
def asking (st : ReqState) (s : State) : State := { s with requests := [(0, request13 st)], nextReq := 1 }

theorem witness_clientRequests :
    (regionFormed 1 (regMsg 1 64) = true ∧ tfind (field (regMsg 1 64) 2 2) qp0.regions = none ∧ takes netted 1023 (fun k => k.role == 0) = some qp0 ∧
      regionFormed 1 (regMsg 1 (2 ^ 31)) = true ∧ regionFormed 2 (regMsg 2 0) = true) ∧
    (let k := { qp0 with regions := [(63, ⟨0x7000, 4096, 9, true, none⟩)] };
      takes (netOf k xr5) 1023 (fun k => k.role == 0) = some k ∧ tfind (field (regMsg 2 0) 2 2) k.regions = some ⟨0x7000, 4096, 9, true, none⟩ ∧
        namesHandle (netOf k xr5) 1023 63 = false ∧
        namesHandle { netOf k xr5 with requests := [(0, { request13 .admitted with outH := 63 })] } 1023 63 = true) ∧
    (let s := netted;
      let a := 0x3000000040;
      let r := requestOf s 1023 qp0 qp0.reqSeq 0 (rdBytes s a 64) a;
      tfind qp0.input s.eth.xrs = some xr5 ∧ bits 1 30 2 = 0 ∧ xr5.doorbell = false ∧ xr5.rood = qp0.rood ∧ xr5.pid = qp0.pid ∧
        a = xr5.start + 64 * bits 1 0 30 ∧ headerFormed (rdBytes s a 64) = true ∧ field (rdBytes s a 64) 2 2 = 1 ∧
        64 * bits 1 0 30 + recordLen 1 (field (rdBytes s a 64) 4 4) ≤ xr5.len ∧ refsFormed (rdBytes s (a + 64) (16 * 1)) 1 = true ∧
        (s.slices.find? fun e => e.2.pid == qp0.pid && e.2.rood == qp0.rood) = some (0, slice0) ∧
        tfind r.cplH qp0.regions = some ⟨0x7000, 4096, 9, true, none⟩ ∧ r.cplOff + 32 ≤ 4096 ∧ r.outH = r.cplH ∧
        r.outOff + 1 * slice0.verdictBytes ≤ 4096 ∧ 1 ≤ slice0.batchRows ∧ (qpRequests s 1023).length < 256 ∧
        (let u := { s with requests := [(0, r)], nextReq := 1 };
          (u.slices.find? fun e => e.2.pid == r.pid && e.2.rood == r.rood) = some (0, slice0) ∧ swapPaused u r.rood = false ∧
            currentEpoch u r.rood = some (epoch9 .current) ∧ ((u.roods.getD r.rood {}).refused.any fun y => y.2 == 0) = false ∧
            (admitRows r.rood r.pid (some (epoch9 .current)) 0 r.refs u).2.1 = none)) := by
  decide +kernel

theorem witness_clientRequests_waiting :
    ((let s := { netted with
        mem := [(0x3000000040, 1), (0x3000000042, 1), (0x3000000044, 64)]
        roods := holding (forEpoch 3) (some { base9 3 with pausedAt := some 0 }) [epoch9 .ready] };
      let a := 0x3000000040;
      let r := requestOf s 1023 qp0 qp0.reqSeq 0 (rdBytes s a 64) a;
      let u := { s with requests := [(0, r)], nextReq := 1 };
      tfind 0 u.requests = some r ∧ (u.slices.find? fun e => e.2.pid == r.pid && e.2.rood == r.rood) = some (0, slice0) ∧
        swapPaused u r.rood = true ∧ (r.refs.any fun y => !y.2.2.2) = true) ∧
    (let s := { netted with requests := [(4, request13 .waiting), (2, { request13 .waiting with arrival := 4 })] };
      (s.requests.map (·.1)).Nodup ∧ waitingRequests s 0 = [4, 2]) ∧
    (let s := asking .admitted (atTime 8 netted); let k := request13 .admitted;
      tfind 0 s.requests = some k ∧ k.remote = none ∧ k.st = .admitted ∧ pastRequest s k = true ∧ k.raised = none ∧
        pastRequest (atTime 4 s) k = false)) := by
  decide +kernel

theorem witness_clientRequests_verdict :
    ∀ split ∈ [false, true], let g : ClientRegion := ⟨0x7000, 4096, 9, split, none⟩;
      let v := { qp0 with regions := [(0, g)] };
      let s := asking .joined (netOf v xr5); let k := request13 .joined;
      tfind 0 s.requests = some k ∧ k.remote = none ∧ k.st = .joined ∧ k.discard = false ∧ k.resident = none ∧ pastRequest s k = false ∧
        g.splitPath = split ∧ tfind k.slice s.slices = some slice0 ∧ (List.replicate 8 (0 : Byte)).length = k.rows.length * slice0.verdictBytes ∧
        qpOf s k.q = some v ∧ v.st = .rts ∧ v.withheld = [] ∧ saLive s v.saOut false v.rood = true ∧ tfind k.outH v.regions = some g ∧
        tfind k.cplH v.regions = some g ∧ pastRequest (atTime 8 s) k = true ∧
        atOrAfter 64 (atTime 8 s).time.now (k.deadline + settleTicks) = false := by
  decide +kernel

/-- A MOVE from the store into a BUSHEL region of stack 2, whose bushel 1 is requested. -/
def fromStore : Ctx :=
  { ctx0 with
    body := { stream0 with op := 2, fmt := 3, srcTier := 3, dstTier := 1, dstAddr := 0x3000000000, storeQp := 1023 }
    requested := [1] }
def storeState : State :=
  { netOf { qp0 with role := 1 } xr5 with
    stks := units.stks.modify 2 fun k => { k with regions := [(0, { start := 0x3000000000, len := 1, kind := 2, fmt := 3, rood := 0, backing := 0 })] }
    streams := { units.streams with ctx := [(1023, fromStore)] } }

theorem witness_clientRequests_store :
    tfind 1023 storeState.streams.ctx = some fromStore ∧ fromStore.body.srcTier = 3 ∧ 1 ∈ fromStore.requested ∧
      takes storeState fromStore.body.storeQp (fun v => v.role == 1) = some { qp0 with role := 1 } ∧
      imageStride storeState fromStore.body = 4352 ∧
      readChecked storeState fromStore 0 (metaOfImage image0) (dataOfImage image0) = .got (some (metaOfImage image0)) (dataOfImage image0) ∧
      (writeDest fromStore 1 .storeMove (some (metaOfImage image0)) (dataOfImage image0) storeState).1 = Sts.ok := by
  refine ⟨by decide +kernel, rfl, by decide, by decide +kernel, by decide +kernel, ?_, ?_⟩
  · unfold readChecked
    rw [if_neg (by rw [image_meta]; decide), if_neg (fun h => h image_crc_ok), if_neg (by decide)]
  · rw [image_meta]
    decide +kernel

/-- The image of a MOVE from the store whose CHECKSUM fails. -/
def imageBad : List Byte := [3] ++ List.replicate 4351 0

set_option maxRecDepth 1000000 in
theorem witness_clientRequests_checksum : imageBad.length = imageStride storeState fromStore.body ∧ (metaOfImage imageBad).poison = false ∧
    bushelCrc (metaOfImage imageBad) (dataOfImage imageBad) ≠ (metaOfImage imageBad).checksum := by
  have hi : imageStride storeState fromStore.body = 4352 := by decide +kernel
  have hm : metaOfImage imageBad = { meta0 with checksum := 0 } := by decide +kernel
  have hl : imageBad.length = 4352 := by rw [imageBad, List.length_append, List.length_replicate]; rfl
  have hd : dataOfImage imageBad = List.replicate 4096 0 := by
    unfold dataOfImage
    rw [hl, imageBad, List.drop_append, List.drop_replicate]
    rfl
  refine ⟨by rw [hi, hl], by rw [hm]; rfl, ?_⟩
  have hh : headerBytes { meta0 with checksum := 0 } false = 3 :: List.replicate 55 0 := by decide +kernel
  have : ({ meta0 with checksum := 0 } : Meta).sidecar.take (sidecarBytes meta0.fmt) = List.replicate 128 0 := by decide +kernel
  rw [hm, hd, bushelCrc, hh, this, image_sum]
  decide

/-! ### Witnesses: windows, queue pairs and exposed regions -/

/-- A session attached; an aperture of the module window at 0x8000 reaches register 0x8000. -/
def attachedTo (k : Rood) (eth : Eth) : State :=
  sessionUp { units with
    roods := k :: List.replicate 15 {}
    slices := [(0, slice0)]
    stks := units.stks.modify 2 fun k => { k with regions := [(0, { start := 0x3000000000, len := 1, kind := 1, fmt := 0, rood := 0, backing := 0 })] }
    eth := eth }
def rood1 : Rood := { st := .active, res := { qQps := 1 } }
def attached0 : State := attachedTo rood1 {}
def readMsg : WinMsg := { msg0 with offset := 0 }
def writeMsg : WinMsg := { msg0 with offset := 0x8000, mask := 1#64, data := [1#64] }

theorem witness_windowSession :
    ((∀ m ∈ [readMsg, writeMsg], Heard m attached0 ∧ m.path = 1 ∧ m.window = moduleWin ∧ m.offset % 8 = 0 ∧ m.count = 1 ∧
        m.offset + 8 ≤ 0x10000 ∧ accessCheck attached0 m = Sts.ok) ∧
      readMsg.data = [] ∧ targets attached0 readMsg = [.page 0] ∧ (readPage attached0 255 1 0).isSome = true ∧
      targets attached0 writeMsg = [.reg 0] ∧ inSession up = false ∧ isLost (atTime (300 * 4000000 + 4) attached0) = true ∧
      ({ readMsg with session := 7 } : WinMsg).session ≠ attached0.eth.session.num ∧
      ∀ m ∈ [({ readMsg with spi := none } : WinMsg), { readMsg with spi := some 5 }, { readMsg with icvOk := false }, { readMsg with seq := 0 }],
        m.path = 1 ∧ datagramFault attached0 m ≠ none) ∧
    (arrives up msg0 = true ∧ up.eth.session.st ≠ .attaching ∧ msg0.formed = true ∧ (List.replicate 528 (0 : Byte)).length = 528 ∧
      inHandoff up = false) ∧
    (let s := { up with eth := { up.eth with session := { up.eth.session with st := .attaching } } };
      s.eth.session.st = .attaching ∧ s.time.now < s.eth.session.since + secTicks ∧
        (atTime 4000000000 s).eth.session.since + secTicks ≤ (atTime 4000000000 s).time.now) ∧
    (let s := atTime (300 * 4000000 + 4) attached0;
      s.boot.down = false ∧ isLost s = true ∧ s.eth.session.phase ≠ 1 ∧ owesSync s = false ∧
        owesSync { s with time := { s.time with master := true } } = true ∧ isLost attached0 = false ∧
        isLost { s with eth := { s.eth with session := { s.eth.session with phase := 1 } } } = true) ∧
    (attached0.boot.safeMode = false ∧ windowOpen attached0 0 = true ∧ 1 < 2 ∧ windowOpen attached0 moduleWin = true ∧
      baseOk attached0 moduleWin (4096 * bits 0xFFFF000 12 16) = true ∧ baseOk attached0 0 (4096 * bits 0x108000 12 16) = true ∧
      baseOk attached0 0 (4096 * bits 0x109000 12 16) = false ∧ attached0.roods[0]? = some rood1) := by
  unfold Heard
  decide +kernel

/-- The words of a context that MODIFY asks for. -/
def roodQp (k : Qp) : Rood := { rood1 with qpData := wordsOfQp 1023 k }
def qpState0 (k asked : Qp) : State :=
  attachedTo (roodQp asked) { netted.eth with qps := [(1023, k)] }
def qpReset : Qp := { qp0 with st := .reset }

theorem witness_queuePairs :
    (∀ x ∈ [(qpReset, qp0), (qp0, { qp0 with st := .error }), (qp0, qp0)],
      let s := qpState0 x.1 x.2;
      windowOpen s 0 = true ∧ s.roods[0]? = some (roodQp x.2) ∧ (roodQp x.2).st = .active ∧ namedQp s 0 = some (1023, x.1) ∧
        qpFormOk (qpWord s 0) = true ∧ (qpOfWords 0 (qpWord s 0)).st = x.2.st ∧ ownPid s 0 (qpOfWords 0 (qpWord s 0)).pid = true ∧
        inputOk s (qpOfWords 0 (qpWord s 0)) = true ∧ rtsOk s (qpOfWords 0 (qpWord s 0)) = true ∧
        (s.eth.qps.filter fun e => e.2.rood == 0).length < 16 * (roodQp x.2).res.qQps ∧
        firstBelow 65536 (fun i => (qpOf s i).isNone) = some 0) := by decide +kernel

/-- A rood whose WIN_XR_DATA asks for a doorbell region at the end of the RAW region. -/
def roodXr : Rood := { rood1 with xrData := wordsOfXr 0 { xr5 with start := 0x3000000000 + 0x200000 - 32768, doorbell := true } }

theorem witness_exposedRegions :
    (let s := attachedTo roodXr { netted.eth with qps := [] };
      windowOpen s 0 = true ∧ s.roods[0]? = some roodXr ∧ roodXr.st = .active ∧ xrOf s 0 5 = some xr5 ∧ xrUsed s 5 xr5 = false ∧
        xrCheck s (xrOfWords 0 (xrWord s 0) 0) = Sts.ok ∧ firstBelow 4096 (fun i => (tfind i s.eth.xrs).isNone) = some 0 ∧
        tgetD 0 0 s.eth.xrTags < 2 ^ 20) ∧
    (let s := attachedTo roodXr netted.eth; xrOf s 0 5 = some xr5 ∧ xrUsed s 5 xr5 = true) := by decide +kernel

/-! ### Witnesses: roods and slices -/

/-- Rood 15 is k in a module that runs. -/
def lastRood (k : Rood) (s : State) : State := { s with roods := s.roods.set 15 k }
def pend0 : Res := { clusters := 2 ^ 15, engines := 1, slotFirst := 16000, slotCount := 384, qQueues := 1 }
/-- More than rood 0 leaves. -/
def pendBad : Res := { pend0 with slotCount := 385 }

theorem witness_roodsLive :
    ((up.roods[15]?).map (fun k => (k.st, k.createArmed)) = some (.free, false)) ∧
    (∀ x ∈ [(pend0, true), (pendBad, false)],
      (let k : Rood := { createArmed := true, applyRod := some 0, pend := x.1 };
        let s := lastRood k up;
        s.roods[15]? = some k ∧ reached s 0 = true ∧ (resCheck s 15 k.pend = Sts.ok ↔ x.2 = true)) ∧
      (let k : Rood := { st := .active, applyRod := some 0, pend := x.1 };
        let s := lastRood k up;
        s.roods[15]? = some k ∧ (resCheck s 15 k.pend = Sts.ok ↔ x.2 = true))) ∧
    (let k : Rood := { st := .active }; let s := lastRood k units; s.roods[15]? = some k ∧ sharedBase s 15 = false) ∧
    (∀ st ∈ [RoodState.resetting, .removing],
      let k : Rood := { st := st };
      let s := lastRood k up;
      s.roods[15]? = some k ∧ k.removeHeld = false ∧ sharedBase s 15 = false ∧ s.time.now < k.resetAt + 40000 ∧
        k.resetAt + 40000 ≤ (atTime 40000 s).time.now) := by decide +kernel

/-- Cluster 15 leaves its rood, or joins rood 3. -/
def clusterAs (k : Cluster) : State := { units with clusters := units.clusters.set 15 k }
/-- A descriptor of an isolated slice that waits for the scrub of cluster 15. -/
def heldDesc : Desc := { queued (descOf (.run run0)) with held := true, slice := 1 }

theorem witness_roodsLive_units :
    (let k : Cluster := { phys := 15, leaving := true, scrubbed := false }; let s := clusterAs k; s.clusters[15]? = some k ∧ clusterIdle s 15 = true) ∧
    (let k : Cluster := { phys := 15, join := some 3 }; let s := clusterAs k;
      s.clusters[15]? = some k ∧ k.scrubbed = true ∧ atFurlong s = true) ∧
    (let k : Cluster := { phys := 15, rood := some 0, served := some 0 };
      let s := withDesc heldDesc { clusterAs k with slices := [(0, { slice0 with isolate := true }), (1, { slice0 with pid := 2 })] };
      s.clusters[15]? = some k ∧ tfind 9 s.descs = some heldDesc ∧ k.served = some 0 ∧ heldDesc.held = true ∧
        (clustersNamed heldDesc.body (descCluster heldDesc)).contains 15 = true ∧ needsSwitch s heldDesc 15 = true ∧
        (∀ x ∈ s.descs, x.2.held = false → x.2.slice = 0 → names 15 x.2 = false) ∧ ∀ q ∈ k.cores, q.st = .idle) ∧
    (let s := { units with stks := units.stks.modify 7 fun k => { k with engines := k.engines.modify 3 fun g => { g with join := some 3 } } };
      ((s.stks[7]?).bind fun k => k.engines[3]?).map (fun g => (g.scrubbed, g.join)) = some (true, some 3) ∧ atFurlong s = true) := by
  decide +kernel

/-- Rood 0 with these words of a table entry, its RAW region in stack 2, a slice 5 and a queue 6 that is disabled. -/
def tabled (ws : List Word) (used : Bool) : State :=
  { units with
    roods := ([{ st := .active, tblData := ws, res := { qQueues := 2 } }] : List Rood) ++ List.replicate 15 {}
    slices := [(5, { slice0 with pid := if used then 1 else 2 })]
    queues := [(6, { queue0 with st := .disabled, pid := 1 })]
    stks := units.stks.modify 2 fun k => { k with regions := [(0, { start := 0x3000000000, len := 1, kind := 1, fmt := 0, rood := 0, backing := 0 })] } }
def sliceWords : List Word := wordsOfSlice { slice0 with pid := 7 } ++ [0, 0]
def queueWords : List Word := wordsOfQueue { queue0 with ring := 0x3000000000, cring := 0x3000002000 }
def regionWords : List Word := wordsOfRegion { start := 0x8000000000, len := 1, kind := 5, fmt := 0, rood := 0, backing := 1 }

theorem witness_roodsLive_tables :
    (∀ tbl ∈ [0, 1, 2, 3], let s := tabled [] true; let k := s.roods.getD 0 {};
      s.roods[0]? = some k ∧ k.st = .active ∧ (match tblWords s 0 tbl 5 k with | .inr ws => ws.length == 4 | .inl _ => false) = true) ∧
    (let s := tabled sliceWords true; let k := s.roods.getD 0 {};
      sliceCheck s 0 1023 (tblWord k 0) (tblWord k 1) = Sts.ok ∧ tfind 1023 s.slices = none) ∧
    (let s := tabled queueWords true; let k := s.roods.getD 0 {};
      queueCheck s 0 4095 (tblWord k 0) (tblWord k 1) (tblWord k 2) = Sts.ok ∧ tfind 4095 s.queues = none ∧
        (queueOfWords 0 (tblWord k 0) (tblWord k 1) (tblWord k 2)).st ≠ .draining) ∧
    (let k := (tabled [] true).roods.getD 0 {}; 255 < 256 ∧ bits (tblWord k 0) 16 48 = 0) ∧
    (let s := tabled regionWords true; let k := s.roods.getD 0 {};
      regionCheck s 0 2047 (tblWord k 0) (tblWord k 1) = Sts.ok ∧ (s.stks[2047 / 256]?).isSome = true) ∧
    (∀ used ∈ [true, false], let s := tabled [] used;
      tfind 5 s.slices = some { slice0 with pid := if used then 1 else 2 } ∧ pidUsed s (if used then 1 else 2) = used) ∧
    (tfind 6 (tabled [] true).queues = some { queue0 with st := .disabled, pid := 1 }) := by decide +kernel

/-! ### Witnesses: keys, reports and debug -/

/-- A session attached under a key-wrap key of zeros, in S1, with an association 5 of rood 0. -/
def keyed : State :=
  let s := sessionUp units
  { s with
    sec := { s.sec with state := 1 }
    roods := ([{ st := .active, res := { qSas := 2 } }] : List Rood) ++ List.replicate 15 {}
    flash := { s.flash with ns := [(0, { size := 1, keyValid := true })] }
    eth := { s.eth with session := { s.eth.session with wrapKey := List.replicate 32 0 }, sas := [(5, saIn0)] } }
/-- A blob of rood 0 under counter 1, with a ciphertext of zeros and its tag. -/
def blobOf (kind i : Nat) (tag : List Nat) : List Byte :=
  leBytes 1 kind ++ leBytes 1 0 ++ leBytes 2 i ++ leBytes 4 256 ++ leBytes 8 1 ++ List.replicate 96 0 ++ Crypto.toBytes tag

set_option maxRecDepth 100000 in
theorem witness_keysAndReports_blobs :
    ∀ x ∈ [(1, 4095, [243, 136, 89, 63, 92, 116, 16, 217, 121, 49, 58, 126, 238, 207, 58, 59]),
        (2, 4095, [72, 37, 175, 89, 75, 143, 127, 251, 138, 79, 47, 165, 43, 4, 188, 131]),
        (3, 0, [119, 204, 194, 121, 106, 102, 222, 213, 57, 212, 52, 236, 170, 186, 4, 204]),
        (0x10, 5, [241, 232, 122, 17, 201, 105, 82, 102, 171, 197, 170, 193, 27, 173, 35, 241]),
        (0x11, 0, [107, 142, 100, 174, 216, 62, 254, 161, 12, 252, 11, 193, 68, 95, 62, 236])],
      let b := blobOf x.1 x.2.1 x.2.2;
      (openBlob keyed b).isSome = true ∧ field b 0 1 = x.1 ∧ field b 1 1 = 0 ∧ field b 2 2 % 4096 = x.2.1 ∧ field b 4 4 = 256 := by
  decide +kernel

theorem witness_keysAndReports :
    (inSession keyed = true ∧ keysAccepted keyed = true ∧ roodState keyed 0 = .active ∧
      (keyed.eth.sas.any fun e => e.2.inbound && e.2.st == .tombstone && e.2.spi == 256) = false ∧ tfind 4095 keyed.eth.sas = none ∧
      saCount keyed 0 < 2 ∧ tfind 5 keyed.eth.sas = some saIn0 ∧ saIn0.rood = 0 ∧ saIn0.st = .live ∧ (nsOf keyed 0).keyValid = true) ∧
    (let a := { saIn0 with st := .tombstone, until_ := 8 };
      let s := { keyed with eth := { keyed.eth with sas := [(5, a)] } };
      tfind 5 s.eth.sas = some a ∧ s.time.now < a.until_ ∧ a.until_ ≤ (atTime 8 s).time.now) ∧
    (keyed.sec.rptPendingAt = none ∧ keyed.sec.report = [] ∧ inHandoff keyed = false ∧
      inHandoff { keyed with fwc := { keyed.fwc with update := { keyed.fwc.update with st := .confirming } } } = true ∧
      ({ keyed.sec with report := [1] } : Sec).report ≠ []) := by decide +kernel

/-- keyed with another debug state, grant and debug address. -/
def secured (f : Sec → Sec) : State := { keyed with sec := f keyed.sec }

theorem witness_debugAndLifeCycle :
    (keyed.eth.session.owner = true ∧ bit keyed.eth.session.rights 2 = true ∧ bit keyed.eth.session.rights 3 = true ∧ keyed.sec.debug = 0 ∧
      keyed.sec.state = 1 ∧ keyed.sec.part = 1 ∧ keyed.sec.fusedNext = none) ∧
    (let s := { keyed with eth := { keyed.eth with session := { keyed.eth.session with owner := false } }, sec := { keyed.sec with state := 0 } };
      inSession s = true ∧ s.eth.session.owner = false ∧ s.sec.state = 0 ∧ s.sec.debug = 0 ∧ s.sec.fusedNext = none) ∧
    (∀ n ∈ [2, 3], field (grantBytes (secured fun c => { c with grant := [(0, BitVec.ofNat 64 n)] })) 0 1 = n) ∧
    (∀ n ∈ [1, 2], let s := secured fun c => { c with debug := n }; s.eth.session.owner = true ∧ s.sec.debug = n) ∧
    (let s := secured fun c => { c with debug := 2 };
      s.time.now < (s.sec.d2Expiry + 1) * rodLen s ∧ (s.sec.d2Expiry + 1) * rodLen s ≤ (atTime 4096 s).time.now) ∧
    (∀ w ∈ [true, false], ∀ a ∈ [0x100000000, 0x10F000000 + 0x1000000 - 64], ∀ n ∈ [2, 3],
      let s := secured fun c => { c with debug := n, dbgAddr := a };
      s.fwc.pstate ≠ 3 ∧ (match dbgReach s w with | .mem => true | _ => false) = true ∧ Memory.wf 0 s.mem = true ∧
        (match placeOf (s.sec.dbgAddr % 2 ^ 48) 64 with | .scratch _ _ => true | _ => false) = true) ∧
    (∀ a ∈ [0x1000000000, 0x3000000000],
      let s := secured fun c => { c with debug := 3, dbgAddr := a };
      s.fwc.pstate ≠ 3 ∧ (match dbgReach s true with | .mem => true | _ => false) = true ∧
        (match placeOf (s.sec.dbgAddr % 2 ^ 48) 64 with | .stk _ _ => true | _ => false) = true ∧
        (debugCheck s (s.sec.dbgAddr % 2 ^ 48) = .ok ↔ a = 0x3000000000)) ∧
    keyed.sec.debug < 2 ∧
    (let s := secured fun c => { c with debug := 2, dbgAddr := 15 + 16 * 3 };
      15 = bits s.sec.dbgAddr 0 4 ∧ 3 = bits s.sec.dbgAddr 4 2 ∧ bits s.sec.dbgAddr 6 2 = 0 ∧ ownsCluster s s.sec.d2Rood 15 = true ∧
        s.fwc.pstate ≠ 4 ∧ (coreAt s 15 3).isSome = true) := by decide +kernel

/-! ### Values from the spec's worked examples and the standards it names -/

/-- 02, after R48: the scale and three elements of a block of 3.3, 0.01 and 0.0001 in E4M3 (the nearest FP32 values). -/
theorem test_e4m3_block :
    (let b := toMxBlock 3 0 0 ([0x40533333, 0x3C23D70A, 0x38D1B717].map decodeF32) [0, 0, 0]; (b.1, b.2.map (·.enc))) =
      (0x78, [0x7D, 0x3A, 0x07]) := by decide +kernel
/-- 02, after R54: stochastic rounding of 1 + 2⁻²³ to BF16 on either side of the draw 0xFF_FF00. -/
theorem test_stochastic_bf16 :
    (toHalf 1 2 0xFFFF00 (decodeF32 0x3F800001)).enc = 0x3F81 ∧ (toHalf 1 2 0xFFFEFF (decodeF32 0x3F800001)).enc = 0x3F80 := by decide +kernel
/-- 02 Table 2.9, first, fourth and sixth rows. -/
theorem test_reductions :
    sumFrom 0x00000000#32 [0x3F800000, 0x33800000, 0x33800000] = 0x3F800000#32 ∧
      fAdd 0x3F800000 (fAdd 0x33800000 0x33800000) = 0x3F800001#32 ∧ fAdd (fAdd 0x3F800000 0x33800000) 0x33800000 = 0x3F800000#32 := by
  decide +kernel
/-- 00, after R22: of KEY_REVOKED, PARTITION_RESET and SQUASHED the first ranks highest. -/
theorem test_status_rank : statusRank 0x0A < statusRank 0x08 ∧ statusRank 0x08 < statusRank 0x03 := by decide
/-- 11, after R343: with 64 groups, end 10 of group 5 towards group 40 is 664, and of group 40 towards group 5 is 658. -/
theorem test_path_between_groups :
    (let s := { up with fab := { up.fab with groups := 64, pos := 64 * 5 + 20 } };
      endOf s 5 40 10 = 664 ∧ endOf s 40 5 10 = 658 ∧ linkPeer s 67 = some (64 * 40 + 19, 94)) ∧
    memberLink { up with fab := { up.fab with pos := 64 * 40 + 19 } } 7 = 51 := by decide +kernel
/-- 10, after R324: the deadline rod 6 of era 7 lies after the PLACE of era 6, and the first rod of era 7 at position 32. -/
theorem test_rod_wrap : after 48 6 0xFFFFFFFFFFFC = true ∧ rodPos (atTime 0x7000000000000000 up) = 32 ∧
    rodPos (atTime 0x6FFFFFFFFFFFC000 up) = 28 ∧ eraOf up 0x7000000000000000 = 7 := by decide +kernel
/-- FIPS 180-4: SHA-384 of "abc". -/
theorem test_sha384 : Crypto.beNat (Crypto.sha384 [0x61, 0x62, 0x63]) =
    0xcb00753f45a35e8bb5a03d699ac65007272c32ab0eded1631a8b605a43ff5bed8086072ba1e7cc2358baeca134c825a7 := by decide +kernel
/-- FIPS 197, C.3. -/
theorem test_aes256 : Crypto.beNat (Crypto.aesEncrypt (List.range 32) ((List.range 16).map (17 * ·))) = 0x8ea2b7ca516745bfeafc49904b496089 := by
  decide +kernel
/-- CRC-32 of "123456789". -/
theorem test_crc32 : crc32 ([0x31, 0x32, 0x33, 0x34, 0x35, 0x36, 0x37, 0x38, 0x39] : List Byte) = 0xCBF43926 := by decide +kernel

/-! ### The queue -/

/-- The command at the front runs, and the next is then at the front. -/
theorem test_queue_order :
    (match step { up with pending := [.rodSyncSend, .ppsOutEdge] } with | .next t => t.pending.length == 1 | _ => false) = true := by decide +kernel
/-- An empty queue: one clock passes. -/
theorem test_idle_tick : (match step State.reset with | .next t => t.time.now == 4 | _ => false) = true := by decide +kernel
/-- No row of the table has bits: no word spells a command, and none is put in the queue. -/
theorem test_no_words : decodeTableWord 64 0 = none ∧ (State.withFetchWord State.reset 64 1).pending = [] := by decide

end Sys2Proof.Tests
end

section
/-! Accesses of the register range at an offset that holds no register (00 R15; 17 R483, R484). -/
namespace Sys2Proof.Proofs

open Sys2Proof.Machine Sys2Proof.Safety

/-! ### What logging an event does (10 R325, R326) -/

/-- The oldest entry goes only when the ring is full, and a full ring has another entry before the new one. -/
theorem getLast?_trimmed_append {α : Type} (n : Nat) (ring : List α) (e : α) (hn : 0 < n) :
    (if n < (ring ++ [e]).length then (ring ++ [e]).tail else ring ++ [e]).getLast? = some e := by
  split
  next hfull =>
    cases ring with
    | nil => simp at hfull; omega
    | cons x xs => simp
  next => simp

/-- The newest record after an event is logged, whether or not the ring was full. -/
@[simp] theorem logEv_ring_getLast? (block low rood payload : Nat) (s : State) :
    (logEv block low rood payload s).events.ring.getLast? =
      some ⟨s.time.now, block, low + 256 * (block % 256), rood, severityOf block low, tgetD block 0 s.events.seqs, payload % 2 ^ 64⟩ :=
  getLast?_trimmed_append ringSize s.events.ring _ (by decide)

theorem logged_logEv (block low rood payload : Nat) (s : State) : Logged block low s (logEv block low rood payload s) :=
  ⟨rfl, _, logEv_ring_getLast? block low rood payload s, rfl, rfl, rfl⟩

/-- A bit of GLB_ERR_STATUS set after the event leaves the event ring as it is. -/
@[simp] theorem logged_raiseGlb_iff (block low i : Nat) (s t : State) : Logged block low s (raiseGlb i t) ↔ Logged block low s t := Iff.rfl

/-! ### REG_UNMAPPED (17 R484) -/

theorem logged_regUnmapped (blk a kind : Nat) (s : State) : Logged blk 0xF0 s (regUnmapped blk a kind s) :=
  (logged_raiseGlb_iff blk 0xF0 1 s _).mpr (logged_logEv blk 0xF0 noRood _ s)

theorem regUnmapped_frame (blk a kind : Nat) (s : State) :
    { regUnmapped blk a kind s with events := s.events, glb := s.glb } = s := rfl

theorem regUnmapped_glb (blk a kind : Nat) (s : State) :
    (regUnmapped blk a kind s).glb = { s.glb with err := raise s.time.now s.glb.err 1 } := rfl

/-! ### Offsets that hold no register -/

/-- No block lists a register at the address: it lies outside every span, or at an unlisted offset of its block. -/
def HoldsNoRegister (s : State) (a : Nat) : Prop := ∀ b off, blockOf a = some (b, off) → isListed s b off = false

/-- The block that logs an access of the address: the global block outside every span (17 R483). -/
def ownerId (s : State) (a : Nat) : Nat := match blockOf a with | none => Blk.glb | some (b, _) => blockId s b

theorem ownerId_of_none {s : State} {a : Nat} (hb : blockOf a = none) : ownerId s a = Blk.glb := by
  simp only [ownerId, hb]

theorem ownerId_of_some {s : State} {a : Nat} {b : Block} {off : Nat} (hb : blockOf a = some (b, off)) :
    ownerId s a = blockId s b := by
  simp only [ownerId, hb]

theorem unmappedNoted_regUnmapped (a kind : Nat) (s : State) : UnmappedNoted a s (regUnmapped (ownerId s a) a kind s) :=
  ⟨logged_regUnmapped (ownerId s a) a kind s, regUnmapped_frame (ownerId s a) a kind s, regUnmapped_glb (ownerId s a) a kind s⟩

/-- An unlisted register is not SEC_NONCE, which reads as a fresh value (17 R502), and its block gives it no value. -/
theorem isListed_eq_false_iff (s : State) (b : Block) (off : Nat) :
    isListed s b off = false ↔ ¬ (b = .sec ∧ off = 0x50) ∧ readBlock s b off = none := by
  simp [isListed]

/-- SEC_DBG_CTL, the one register that a write reaches before it is looked up, is listed. -/
theorem ne_secDbgCtl_of_holdsNoRegister {s : State} {a : Nat} (h : HoldsNoRegister s a) : a ≠ 0x3000400 := by
  rintro rfl
  have hlisted : isListed s .sec 0x400 = true := rfl
  exact absurd (h .sec 0x400 (by decide)) (by simp [hlisted])

theorem readReg_of_holdsNoRegister {s : State} {a : Nat} (h : HoldsNoRegister s a) :
    readReg a s = (0, regUnmapped (ownerId s a) a 0 s) := by
  cases hb : blockOf a with
  | none => simp only [readReg, hb, ownerId_of_none hb]
  | some p =>
    obtain ⟨b, off⟩ := p
    obtain ⟨hnonce, hnone⟩ := (isListed_eq_false_iff s b off).mp (h b off hb)
    simp only [readReg, hb, if_neg hnonce, hnone, ownerId_of_some hb]

theorem writeRegCore_of_holdsNoRegister {s : State} {a : Nat} (v : Word) (h : HoldsNoRegister s a) :
    writeRegCore a v s = regUnmapped (ownerId s a) a 1 s := by
  cases hb : blockOf a with
  | none => simp only [writeRegCore, hb, ownerId_of_none hb]
  | some p =>
    obtain ⟨b, off⟩ := p
    simp [writeRegCore, hb, h b off hb, ownerId_of_some hb]

theorem writeReg_of_holdsNoRegister {s : State} {a : Nat} (v : Word) (h : HoldsNoRegister s a) :
    writeReg a v s = regUnmapped (ownerId s a) a 1 s := by
  simp only [writeReg, if_neg (ne_secDbgCtl_of_holdsNoRegister h), writeRegCore_of_holdsNoRegister v h]

theorem exec_registerWrite (a : Nat) (v : Word) (s : State) : exec (.registerWrite a v) s = .next (writeReg a v s) := rfl

/-! ### The obligation -/

/-- Settles O13: an access that no register answers is REG_UNMAPPED of the owning block and nothing else, for a read and for a
write alike; SEC_NONCE and SEC_DBG_CTL, which are handled apart, are listed. -/
theorem unlistedOffset : Obligations.UnlistedOffset := by
  unfold Obligations.UnlistedOffset
  intro a v s hunlisted
  have h : HoldsNoRegister s a := by
    intro b off hb
    simpa [hb] using hunlisted
  have hwrite : exec (.registerWrite a v) s = .next (regUnmapped (ownerId s a) a 1 s) := by
    rw [exec_registerWrite, writeReg_of_holdsNoRegister v h]
  rw [readReg_of_holdsNoRegister h]
  exact ⟨rfl, unmappedNoted_regUnmapped a 0 s, _, hwrite, unmappedNoted_regUnmapped a 1 s⟩

end Sys2Proof.Proofs
end

section
/-! Serial comparison of w-bit values as the difference mod 2^w (10 R318). -/
namespace Sys2Proof.Proofs

open Sys2Proof.Machine

/-! ### The difference mod 2^w (10 R318) -/

/-- The natural-number subtraction in `Machine.dist` never truncates: it is the integer difference mod 2^w. -/
theorem cast_dist (w a b : Nat) : (Machine.dist w a b : Int) = ((a : Int) - b) % 2 ^ w := by
  have hle : b % 2 ^ w ≤ a % 2 ^ w + 2 ^ w :=
    Nat.le_trans (Nat.le_of_lt (Nat.mod_lt b (Nat.two_pow_pos w))) (Nat.le_add_left _ _)
  have hswap : ((a % 2 ^ w + 2 ^ w : Nat) : Int) - (b % 2 ^ w : Nat) = (a : Int) % 2 ^ w - (b : Int) % 2 ^ w + 2 ^ w := by
    push_cast
    omega
  rw [Machine.dist, Int.natCast_emod, Int.ofNat_sub hle, hswap, Int.natCast_pow, Int.cast_ofNat_Int, Int.add_emod_right,
    ← Int.sub_emod]

theorem atOrAfter_iff_dist_lt (w a b : Nat) : atOrAfter w a b = true ↔ Machine.dist w a b < 2 ^ (w - 1) := by
  simp only [atOrAfter, Machine.dist, decide_eq_true_iff]

theorem atOrAfter_iff (w a b : Nat) : atOrAfter w a b = true ↔ ((a : Int) - b) % 2 ^ w < 2 ^ (w - 1) := by
  rw [atOrAfter_iff_dist_lt, ← cast_dist]
  norm_cast

theorem after_iff (w a b : Nat) : after w a b = true ↔ atOrAfter w a b = true ∧ a % 2 ^ w ≠ b % 2 ^ w := by
  simp only [after, Bool.and_eq_true, bne_iff_ne]

theorem before_iff (w a b : Nat) : before w a b = true ↔ ¬ atOrAfter w a b = true := by
  simp only [before, Bool.not_eq_true', Bool.not_eq_true]

/-! ### Half a range apart -/

theorem half_add_half {w : Nat} (hw : 1 ≤ w) : (2 : Int) ^ (w - 1) + 2 ^ (w - 1) = 2 ^ w := by
  exact_mod_cast Nat.two_pow_pred_add_two_pow_pred hw

theorem half_emod {w : Nat} (hw : 1 ≤ w) : (2 : Int) ^ (w - 1) % 2 ^ w = 2 ^ (w - 1) := by
  exact_mod_cast Nat.mod_eq_of_lt (Nat.two_pow_pred_lt_two_pow hw)

/-- Half a range is its own negative mod 2^w, so it separates two values in either order. -/
theorem neg_half_emod {w : Nat} (hw : 1 ≤ w) : -(2 : Int) ^ (w - 1) % 2 ^ w = 2 ^ (w - 1) := by
  have hwrap : -(2 : Int) ^ (w - 1) + 2 ^ w = 2 ^ (w - 1) := by
    rw [← half_add_half hw, Int.neg_add_cancel_left]
  rw [← Int.add_emod_right, hwrap, half_emod hw]

theorem before_of_sub_emod_eq_half {w a b : Nat} (h : ((a : Int) - b) % 2 ^ w = 2 ^ (w - 1)) : before w a b = true := by
  rw [before_iff, atOrAfter_iff, h]
  exact Int.lt_irrefl _

theorem cast_addHalf (w a : Nat) : (((a + 2 ^ (w - 1)) % 2 ^ w : Nat) : Int) = ((a : Int) + 2 ^ (w - 1)) % 2 ^ w := by
  simp only [Int.natCast_emod, Int.natCast_add, Int.natCast_pow, Int.cast_ofNat_Int]

theorem before_addHalf {w : Nat} (hw : 1 ≤ w) (a : Nat) : before w a ((a + 2 ^ (w - 1)) % 2 ^ w) = true := by
  have hdiff : (a : Int) - (a + 2 ^ (w - 1)) = -2 ^ (w - 1) := by omega
  apply before_of_sub_emod_eq_half
  rw [cast_addHalf, Int.sub_emod_emod, hdiff, neg_half_emod hw]

theorem addHalf_before {w : Nat} (hw : 1 ≤ w) (a : Nat) : before w ((a + 2 ^ (w - 1)) % 2 ^ w) a = true := by
  have hdiff : (a : Int) + 2 ^ (w - 1) - a = 2 ^ (w - 1) := by omega
  apply before_of_sub_emod_eq_half
  rw [cast_addHalf, Int.emod_sub_emod, hdiff, half_emod hw]

/-! ### The obligation -/

/-- Settles O48: the three comparisons are read off the difference mod 2^w, and half a range lies outside the range of
at-or-after in either direction. -/
theorem serialComparison : Obligations.SerialComparison := by
  unfold Obligations.SerialComparison
  intro w a b ha hb
  refine ⟨atOrAfter_iff w a b, ?_, ?_, ?_⟩
  · rw [after_iff, atOrAfter_iff, Nat.mod_eq_of_lt ha, Nat.mod_eq_of_lt hb]
  · rw [before_iff, atOrAfter_iff]
  · rintro hw rfl
    exact ⟨before_addHalf hw a, addHalf_before hw a⟩

end Sys2Proof.Proofs
end

section
/-! The links inside a group: which module each joins, and what an absent peer leaves undone (11 R340). -/
namespace Sys2Proof.Proofs

open Sys2Proof.Machine Sys2Proof.Safety

/-! ### The peer of a link inside the group (11 R340) -/

/-- The position that link l of the module at p joins, for a link that stays within the group. -/
def groupPeer (p l : Nat) : Nat := 64 * groupOf p + (memberOf p + 1 + l) % 64

theorem linkPeer_of_lt {l : Nat} (hl : l < 63) (s : State) : linkPeer s l = some (groupPeer s.fab.pos l, 62 - l) := by
  simp only [linkPeer, if_pos hl, groupPeer]

theorem groupOf_groupPeer (p l : Nat) : groupOf (groupPeer p l) = groupOf p := by
  simp only [groupPeer, groupOf]
  omega

theorem memberOf_groupPeer (p l : Nat) : memberOf (groupPeer p l) = (memberOf p + 1 + l) % 64 := by
  simp only [groupPeer, memberOf]
  omega

/-- The two ends of a link advance the member by l + 1 and by 63 − l, which is once around the group of 64. -/
theorem groupPeer_groupPeer {l : Nat} (hl : l < 63) (p : Nat) : groupPeer (groupPeer p l) (62 - l) = p := by
  have haround : ((memberOf p + 1 + l) % 64 + 1 + (62 - l)) % 64 = memberOf p := by
    simp only [memberOf]
    omega
  rw [groupPeer, groupOf_groupPeer, memberOf_groupPeer, haround]
  exact Nat.div_add_mod p 64

theorem linkPeer_back {l : Nat} (hl : l < 63) {s u : State} (hu : u.fab.pos = groupPeer s.fab.pos l) :
    linkPeer u (62 - l) = some (s.fab.pos, l) := by
  have hback : 62 - l < 63 := by omega
  have hlink : 62 - (62 - l) = l := by omega
  rw [linkPeer_of_lt hback, hu, groupPeer_groupPeer hl, hlink]

/-! ### A link whose peer is absent does not train (11 R330, R340) -/

theorem peerPresent_of_lt {l : Nat} (hl : l < 63) (s : State) : peerPresent s l = present s (groupPeer s.fab.pos l) := by
  simp only [peerPresent, linkPeer_of_lt hl]

theorem mayTrain_of_peerAbsent {s : State} {l : Nat} (h : peerPresent s l = false) (k : Link) : mayTrain s l k = false := by
  simp only [mayTrain, h, Bool.and_false]

theorem exec_linkTraining (l : Nat) (res : TrainResult) (s : State) :
    exec (.linkTraining l res) s = execLinkTraining l res s := rfl

theorem exec_linkRetry (l : Nat) (res : TrainResult) (s : State) : exec (.linkRetry l res) s = execLinkRetry l res s := rfl

theorem execLinkTraining_of_peerAbsent {s : State} {l : Nat} (h : peerPresent s l = false) (res : TrainResult) :
    execLinkTraining l res s = .next s := by
  cases hk : s.links[l]? with
  | none => simp only [execLinkTraining, hk]
  | some k => simp [execLinkTraining, hk, mayTrain_of_peerAbsent h k]

theorem execLinkRetry_of_peerAbsent {s : State} {l : Nat} (h : peerPresent s l = false) (res : TrainResult) :
    execLinkRetry l res s = .next s := by
  cases hk : s.links[l]? with
  | none => simp only [execLinkRetry, hk]
  | some k =>
    cases ht : k.retryAt with
    | none => simp only [execLinkRetry, hk, ht]
    | some t => simp [execLinkRetry, hk, ht, mayTrain_of_peerAbsent h k]

/-! ### The obligation -/

/-- Settles O50: the two ends of a link are inverse steps around the group of 64, and an absent peer bars each of the two commands
that train a DOWN link. -/
theorem groupLinks : Obligations.GroupLinks := by
  unfold Obligations.GroupLinks
  intro l s hl
  refine ⟨linkPeer_of_lt hl s, fun u hu => linkPeer_back hl hu, ?_⟩
  intro k res _ _ habsent
  have hpeer : peerPresent s l = false := (peerPresent_of_lt hl s).trans habsent
  exact ⟨⟨s, (exec_linkTraining l res s).trans (execLinkTraining_of_peerAbsent hpeer res), rfl⟩,
    ⟨s, (exec_linkRetry l res s).trans (execLinkRetry_of_peerAbsent hpeer res), rfl⟩⟩

end Sys2Proof.Proofs
end
